-- ==== Sys2Proof/Word.lean ====
section
/-!
DEFINITION. The word types of the register map and of the memories (R11, R513).
-/

namespace Sys2Proof

/-- A register, 32 bits wide (R11). -/
abbrev Word := BitVec 32

/-- A byte of a buffer or of the boot flash. -/
abbrev Byte := BitVec 8

end Sys2Proof
end

