-- ==== Sys2Proof/Syntax.lean ====
section
/-!
DEFINITION. The commands of the block: one constructor of `Instr` per row of spec/opcode_table.json, with the operands
the row's words name. The table gives no row a field, so the operands are the model's choice (notes/assumptions/1.md): a register access carries
its requester and its value, a frame or a measured quantity from outside the node is an operand of its command.
-/

namespace Sys2Proof

/-- Who makes a register access: the host through BAR0, or one of the four Deck cores (R31 keeps one shadow set for
each of these five). -/
inductive Req where
  | host
  | deck (core : Fin 4)
  deriving DecidableEq, Repr

/-- The data windows of Table 20.5. -/
inductive Win where
  | tableau
  | ribbon
  | capture
  | modeShape
  | island
  | deckSampling (core : Fin 4)
  | mirror
  | ledger
  | attestation
  deriving DecidableEq, Repr

/-- One read request of a data aperture (R483): a 64-bit read, the two halves of a 32-bit pair, or a burst of `words`
consecutive 64-bit words (at most 512 bytes, so 64 words). -/
inductive WinRead where
  | word
  | low
  | high
  | burst (words : Nat)
  deriving DecidableEq, Repr

/-- What resets the host interface (R471, the KEY of LINK_RESET in Table 20.7). -/
inductive LinkReset where
  | flr
  | hotReset
  | linkDown
  | d3Return
  deriving DecidableEq, Repr

/-- The performance-counter set a write acts on (R347): one core's ten counters, or the data path's 32. -/
inductive PcSet where
  | core (c : Fin 4)
  | dataPath
  deriving DecidableEq, Repr

/-- One performance counter: of a core (0 to 7 EV0 to EV7, 8 CYC, 9 RET, as CTL_PC_STAT.OVF numbers them) or of the
data path. -/
inductive PcCounter where
  | core (c : Fin 4) (k : Fin 10)
  | dataPath (k : Fin 32)
  deriving DecidableEq, Repr

/-- One SEL register (R346). -/
inductive PcSel where
  | core (c : Fin 4) (k : Fin 8)
  | dataPath (k : Fin 32)
  deriving DecidableEq, Repr

/-- What the patrol scrubber meets at its next codeword (R356). -/
inductive PatrolResult where
  | clean
  | corrected (channel : Fin 2) (lane : Fin 4)
  | uncorrectable
  deriving DecidableEq, Repr

/-- An event offered to the Ledger (R362 to R364): SRC, CODE, SEV, KEY and the 20 bytes of DATA as five words. -/
structure LEvent where
  src : Fin 32
  code : BitVec 8
  sev : Fin 8
  key : Word
  data : List Word
  deriving DecidableEq, Repr

/-- Which self-contained piece of memory an uncorrectable error falls in, beyond its region (Table 14.1): the item the
consequence names. Numbers are the item's own index in its table. -/
inductive UeTarget where
  | none
  | stall (stream : Nat) (instant : Nat)
  | tableau (instant : Nat)
  | ribbonBlock (index : Nat)
  | emBand
  | fastBand
  | topology
  | record (number : Nat) (offset : Nat)
  | deckCustomer (thread : Fin 256)
  | deckOther
  | ringBuffer (port : Fin 64)
  | egressAlarm (queue : Fin 32)
  | egressItem (queue : Fin 32)
  | packerJob (channel : Fin 4)
  | streamEntry (stream : Nat)
  | configReloaded
  | configReloadFailed
  | cacheClean
  | shroudBuffer (link : Fin 2) (credits : Nat)
  | stampQueue (port : Fin 64) (entry : Nat)
  | sampleBuffer (core : Fin 4)
  | logRecord (seq : Nat)
  | trackCopy (track : Fin 256) (older : Bool)
  | intervalRecord (index : Nat)
  | baselineCopy (older : Bool)
  | controlRecord (index : Nat)
  deriving DecidableEq, Repr

/-- An IRIG-B frame as the decoder presents it (R46): the parity and BCD checks, the decoded time of year in UTC, the
year and the extension bits when present. -/
structure IrigFrame where
  parityOk : Bool
  bcdOk : Bool
  dayOfYear : Nat
  secOfDay : Nat
  year : Option Nat
  ext : Bool
  leapPending : Bool
  quality : BitVec 4
  deriving DecidableEq, Repr

/-- The configuration one PMU block declares in a CFG-2 or CFG-3 frame (R101): the compared fields. PHUNIT and ANUNIT are
the 32-bit words of C37.118.2. -/
structure PmuCfg where
  phFloat : Bool
  polar : Bool
  freqFloat : Bool
  anFloat : Bool
  phasors : Nat
  analogs : Nat
  digitals : Nat
  phUnits : List Nat
  anUnits : List Nat
  fnom60 : Bool
  deriving DecidableEq, Repr

/-- A C37.118.2 frame as it leaves the UDP payload (R96, R103). `body` are the bytes between FRACSEC and CHK, and `cfg` the
decoded content of a CFG-2 or CFG-3 frame: NUM_PMU's blocks, DATA_RATE and TIME_BASE. `more` marks a CFG-3 fragment that
another follows (CONT_IDX), and `numPmu` is NUM_PMU of a configuration frame. -/
structure C37Frame where
  sync : BitVec 16
  sizeOk : Bool
  crcOk : Bool
  idcode : BitVec 16
  soc : BitVec 32
  fracsec : BitVec 32
  body : List (BitVec 8)
  cfg : List PmuCfg
  dataRate : Nat
  timeBase : BitVec 24
  more : Bool
  numPmu : Nat
  deriving DecidableEq, Repr

/-- One ASDU of a sampled-value frame (R99): its sample counter, synchronisation and its channels, each an INT32 and its
quality word. -/
structure SvAsdu where
  smpCnt : Nat
  smpSynch : Nat
  channels : List (Int × BitVec 32)
  deriving DecidableEq, Repr

/-- An IEC 61850-9-2 frame (R99): destination MAC, APPID, svID (as a number), confRev, the simulation bit and 1 to 8
ASDUs. -/
structure SvFrame where
  asn1Ok : Bool
  dmac : BitVec 48
  appid : BitVec 16
  svid : Nat
  confRev : Nat
  simulated : Bool
  asdus : List SvAsdu
  deriving DecidableEq, Repr

/-- The session of an R-SV frame (R100): its identifier, the algorithm (1 to 3 are the three HMAC-SHA256 truncations, any
other number is unsupported), encryption, key ID, SPDU number, the tag's octets and those it covers. -/
structure RsvSession where
  ident : BitVec 8
  alg : Nat
  encrypted : Bool
  keyId : BitVec 32
  spdu : BitVec 32
  tag : List (BitVec 8)
  covered : List (BitVec 8)
  deriving DecidableEq, Repr

/-- What Ingest receives in a frame (R69 rows 4 to 6). -/
inductive IngestBody where
  | c37 (srcIp : Nat) (f : C37Frame)
  | sv (f : SvFrame)
  | rsv (srcIp : Nat) (r : RsvSession) (f : SvFrame)
  deriving DecidableEq, Repr

/-- The destination address of a received frame, as row 2 of Table 3.2 and the cast counters judge it. -/
inductive DaKind where
  | port
  | broadcast
  | multicast (addr : BitVec 48)
  | otherUnicast
  deriving DecidableEq, Repr

/-- What row of Table 3.2 the frame's EtherType and ports can match. -/
inductive RxKind where
  | pfc (quanta : List (Fin 8 × BitVec 16))
  | pause (quanta : BitVec 16)
  | sv
  | rsv
  | udp (port : BitVec 16)
  | ptp (msgType : BitVec 4) (seqId : BitVec 16)
  | other
  deriving DecidableEq, Repr

/-- A frame received whole on a port (R67 to R71): its length from the destination address to the FCS, what the PCS and
the FCS check say (`blockErrs` counts the PCS blocks in error), its address, its 802.1Q tag and its content; `bytes` are the
frame's octets, which a frame for the ring leaves in the receive buffers (R80). -/
structure RxFrame where
  len : Nat
  codeErr : Bool
  fcsOk : Bool
  da : DaKind
  tci : Option (BitVec 16)
  kind : RxKind
  body : Option IngestBody
  bytes : List (BitVec 8) := []
  blockErrs : Nat := 0
  deriving DecidableEq, Repr

/-- The cases in which a reference is lost (R54): its RMS in per mil of nominal, its frequency in mHz, the mark
INVALID, or no value for two tableau instants. -/
inductive RefLoss where
  | rms (permil : Nat)
  | frequency (mhz : Nat)
  | invalid
  | noValue
  deriving DecidableEq, Repr

/-- The commands the node sends to a source (Table 4.2). -/
inductive SourceCmd where
  | turnOff
  | turnOn
  | sendHeader
  | sendCfg2
  | sendCfg3
  deriving DecidableEq, Repr

/-- What a command frame asks of an output stream (R302). -/
inductive OsCmd where
  | turnOff
  | turnOn
  | sendHeader
  | sendCfg1
  | sendCfg2
  | sendCfg3
  | extended
  deriving DecidableEq, Repr

/-- A running interval of a metering point (R186, R190): the tag of its first mean in TAI counter units, the flags of
W5, the reversals, the cycle clock's count and the MAST tick at its start, the accumulators at its start (visible and
fraction bits), the lowest and highest phase RMS in per mil, the check bits seen, the cycles with a marked sample, and
the time without metering in ms. -/
structure Interval where
  start : Option Nat := none
  flags : Nat := 0
  rev : Nat := 0
  cycle : Nat := 0
  opened : Nat := 0
  base : List Nat := []
  vMin : Option Nat := none
  vMax : Nat := 0
  checks : Nat := 0
  invCyc : Nat := 0
  gapMs : Nat := 0
  deriving DecidableEq, Repr

/-- What an energy save holds of a point (R193): the eight accumulators, DIR (true export), the sequence of its records, the
UTC boundary of the last one, the running interval, the previous interval's deltas and length in µs, whether a current
reached 10 % in it, and V_LAST and PF_LAST (Table 7.5). -/
structure EnPoint where
  acc : List Nat := []
  dir : Option Bool := none
  seq : Nat := 0
  bound : Option Nat := none
  cur : Interval := {}
  prev : List Nat := []
  prevUs : Nat := 0
  carried : Bool := false
  prevCarried : Bool := false
  vLast : BitVec 32 := 0#32
  pfLast : BitVec 32 := 0#32
  deriving DecidableEq, Repr

/-- An energy save (R193): its sequence, the TAI tag of its sample and of the last mean in it, whether the Reefed
sequence took it, the points, and the CRC-32C stored with it. -/
structure EnergySave where
  seq : Nat
  tag : Nat
  mean : Nat
  reefed : Bool
  points : List (Nat × EnPoint)
  crc : BitVec 32
  deriving DecidableEq, Repr

/-- Mode slot states (Table 9.6). -/
inductive ModeState where
  | free
  | candidate
  | tracked
  | fading
  deriving DecidableEq, Repr

/-- A participation of a mode shape (R238, R258): signal, EXCLUDED, relative magnitude and relative phase. -/
structure ShapeRow where
  sig : Nat
  excluded : Bool
  mag : Word
  phase : Nat
  deriving DecidableEq, Repr

/-- A mode slot (R243, NST_MODE_W0 to W7). `seen` counts consecutive good matches of a CANDIDATE, `fade` the extractions
(or fast instants) of a FADING slot, `freqs` the last frequencies for s_f, `since` the instant it became TRACKED. -/
structure ModeSlot where
  st : ModeState := .free
  freq : Nat := 0
  zeta : Word := 0#32
  amp : Word := 0#32
  conf : Nat := 0
  refSig : Nat := 0
  warming : Bool := false
  seeded : Bool := false
  forced : Bool := false
  suspect : Bool := false
  shed : Bool := false
  inst : Nat := 0
  tag : Nat := 0
  since : Nat := 0
  seen : Nat := 0
  fade : Nat := 0
  freqs : List Nat := []
  shape : List ShapeRow := []
  deriving DecidableEq, Repr

/-- A mode-baseline record (Table 9.7); `subspace` are the words of the subspace basis and the state matrix. -/
structure Baseline where
  digest : Nat
  rate : Nat
  order : Nat
  band : Word
  sec : Nat
  modes : List (Nat × ModeSlot)
  subspace : List Word
  crc : Word
  deriving DecidableEq, Repr

/-- The header of a received Shroud frame (Table 17.2), with what the link's parity and the CRC check say. -/
structure ShroudHdr where
  parityOk : Bool
  crcOk : Bool
  pairId : BitVec 16
  nodeId : Fin 2
  credits : BitVec 8
  len : BitVec 16
  seq : Word
  deriving DecidableEq, Repr

/-- A heartbeat's payload (Table 17.3): W0 to W5. -/
structure Heartbeat where
  seq : Word
  flags : Word
  epoch : Word
  confirmSeq : Word
  closed : Word
  image : Word
  deriving DecidableEq, Repr

/-- A digest entry (Table 17.9). -/
structure DigestEntry where
  instant : BitVec 64
  rev : BitVec 4
  digest : BitVec 64
  deriving DecidableEq, Repr

/-- What RESYNC_DATA carries (R436 step 3): the peer's metering points, its bell times by class in 0.1 ms and its newest
mode baseline. -/
structure ResyncData where
  points : List (Nat × EnPoint)
  bells : List (Fin 8 × BitVec 16)
  baseline : Option Baseline
  deriving DecidableEq, Repr

/-- A Clerk message (Table 17.4) as its receiver reads it: whether the MAC holds, and the fields. -/
structure ClerkMsg where
  macOk : Bool
  pairId : BitVec 16
  nodeId : Fin 2
  flags : BitVec 16
  epoch : Word
  nodeSeq : Word
  remainMs : BitVec 16
  clerkId : BitVec 64
  deriving DecidableEq, Repr

/-- REASON of a DENY (Table 17.4). -/
inductive DenyReason where
  | wait
  | staleEpoch
  | notReady
  | unknownPair
  | quiet
  deriving DecidableEq, Repr

/-- A thread as the image declares it (R328, R329). -/
structure ThreadCfg where
  prio : Nat
  affinity : BitVec 4
  hostPost : Bool
  deriving DecidableEq, Repr

/-- A histogram track as the image defines it (R371): the register field it samples, its sign, its bins and period. -/
structure TrackCfg where
  reg : Nat
  lo : Nat
  bits : Nat
  signed : Bool
  low : Int
  high : Int
  periodS : Nat
  deriving DecidableEq, Repr

/-- The layout of a PMU block (R98, R101). -/
abbrev Layout := PmuCfg

/-- A stream entry as the image configures it (R98, R108). -/
structure StreamCfg where
  srcIp : Nat
  idcode : Nat
  block : Nat
  layout : Layout
  cls : Nat
  rate : Nat
  rateCode : Nat
  timeBase : Nat
  tier : Bool
  filtered : Bool
  slowHeld : Bool
  tqMax : Nat
  unlockMax : Nat
  testOk : Bool
  startCmd : Bool
  cfg3 : Bool
  isLocal : Bool
  deriving DecidableEq, Repr

/-- A frame group (R98): the layouts of all its blocks. -/
structure GroupCfg where
  srcIp : Nat
  idcode : Nat
  blocks : List Layout
  deriving DecidableEq, Repr

/-- An SV subscription (R99); `group` is its group key, and `entry` the number at which ING_STREAM_IDX selects it
(notes/assumptions/43.md). -/
structure SvSub where
  dmac : BitVec 48
  appid : BitVec 16
  svid : Nat
  confRev : Nat
  rate : Nat
  channels : Nat
  toScales : Bool
  simOk : Bool
  localOk : Bool
  group : Nat
  entry : Nat
  deriving DecidableEq, Repr

/-- A quantity of a stream's record, in the order of R122. -/
inductive Qty where
  | phasor (i : Nat)
  | freq
  | rocof
  | analog (i : Nat)
  | digital (i : Nat)
  deriving DecidableEq, Repr

/-- A quantity of a stream. -/
structure QRef where
  stream : Nat
  qty : Qty
  deriving DecidableEq, Repr

/-- A rule as the image defines it (R282, EGR_RULE_W0 to W3). `emBand` tells whose output instants a CLASS rule of OSC_DAMP
or OSC_SRC follows (R286). -/
structure RuleCfg where
  kind : Nat
  sev : Nat
  ann : Nat
  pub : Nat
  pubEn : Bool
  hq : Nat
  hqEn : Bool
  finalEn : Bool
  invPolicy : Nat
  persistOn : Nat
  persistOff : Nat
  inputs : List QRef
  cls : Nat
  emBand : Bool
  thresh : Word
  hyst : Word
  deriving DecidableEq, Repr

/-- A publication as the image defines it (R293 to R296); `keyGroup` is KEY_ID, `len` the length of its frame and
`cast` that of its destination address. -/
structure PubCfg where
  rgoose : Bool
  k : Nat
  auth : Bool
  queue : Nat
  tMax : Nat
  appid : Nat
  keyGroup : Nat
  len : Nat
  cast : Nat
  deriving DecidableEq, Repr

/-- A PMU block of an output stream (R297): the input stream, the format and the indices of the quantities it takes. -/
structure OutBlock where
  stream : Nat
  phFloat : Bool
  polar : Bool
  freqFloat : Bool
  anFloat : Bool
  phasors : List Nat
  analogs : List Nat
  digitals : List Nat
  phUnits : List Nat
  anUnits : List Nat
  fnom60 : Bool
  deriving DecidableEq, Repr

/-- An output stream as the image defines it (R297 to R303). -/
structure OutCfg where
  idcode : Nat
  rate : Nat
  rateCode : Nat
  filtered : Bool
  revMode : Nat
  tier : Bool
  queue : Nat
  alwaysOn : Bool
  startOn : Bool
  timeBase : Nat
  cast : Nat
  blocks : List OutBlock
  deriving DecidableEq, Repr

/-- A watched signal as the image defines it (R226): kind 0 ANGLE, 1 MAG, 2 FREQ, 3 BRANCH_P, 4 BRANCH_Q. -/
structure SigCfg where
  kind : Nat
  q : QRef
  branch : Nat
  em : Bool
  fast : Bool
  amp : Bool
  emLim : Word
  fastLim : Word
  deriving DecidableEq, Repr

/-- A monitored branch (R227). -/
structure MonBranch where
  v : QRef
  i : QRef
  fromBus : Nat
  toBus : Nat
  k : Nat
  vnom : Word
  deriving DecidableEq, Repr

/-- A status point (R261): kind 0 SINGLE with POL 0, 1 SINGLE with POL 1, 2 DOUBLE; `normal` is NORMAL (CLOSED). -/
structure PointCfg where
  stream : Nat
  word : Nat
  bit : Nat
  kind : Nat
  normal : Bool
  deriving DecidableEq, Repr

/-- A branch of the compiled topology (R260). -/
structure TopBranch where
  fromBus : Nat
  toBus : Nat
  points : List Nat
  deriving DecidableEq, Repr

/-- A measured bus (R263). -/
structure MeasBus where
  freq : QRef
  volt : Option QRef
  vnom : Word
  h : Word
  deriving DecidableEq, Repr

/-- The watch set and the compiled topology of an image (R226, R259). -/
structure NestCfg where
  sigs : List SigCfg := []
  brs : List MonBranch := []
  angRef : Option QRef := none
  digest : Nat := 0
  buses : Nat := 0
  points : List PointCfg := []
  branches : List TopBranch := []
  meas : List (Nat × MeasBus) := []
  deriving DecidableEq, Repr

/-- A phasor of a local stream (R175): a channel's, or a sequence component (0 zero, 1 positive, 2 negative) of three. -/
inductive PhSrc where
  | chan (q : Nat)
  | seq (k a b c : Nat)
  deriving DecidableEq, Repr

/-- An analogue value of a local stream: the RMS of a channel over the latest whole cycle, or its mean over the window. -/
inductive AnSrc where
  | rms (q : Nat)
  | mean (q : Nat)
  deriving DecidableEq, Repr

/-- A local stream as the image defines it (R175); channels are quantity numbers, 0 to 23 local and 24 to 535 SV. -/
structure LsCfg where
  mClass : Bool
  window : Nat
  phasors : List PhSrc
  source : PhSrc
  analogs : List AnSrc
  digitals : Nat
  deriving DecidableEq, Repr

/-- A Scales subscription of the image (R162, R164): the SV subscription, WAIT_US, and each channel's full scale in
counts. -/
structure SvScCfg where
  sub : Nat
  waitUs : Nat
  scale : List Nat
  deriving DecidableEq, Repr

/-- The Scales' tables of the image. -/
structure ScalesCfg where
  ls : List (Nat × LsCfg) := []
  svs : List SvScCfg := []
  pq : List (Nat × Word × Word) := []
  svGain : List (Nat × Word × Word) := []
  deriving DecidableEq, Repr

/-- The source of an analogue channel of the record layout (R199): a local channel, or a channel of an SV subscription with
its full scale in counts. -/
inductive CapSrc where
  | localChan (ch : Nat)
  | sv (sub chan scale : Nat)
  deriving DecidableEq, Repr

/-- An analogue channel of the record layout: its source, its primary full scale (binary32), and the texts of its
identifier, phase, circuit and unit in the .cfg file. -/
structure CapChan where
  src : CapSrc
  full : Word
  ident : List Nat
  phase : List Nat
  circuit : List Nat
  unit : List Nat
  deriving DecidableEq, Repr

/-- The record layout of the image (R199): the channels, the sources of status channels 16 to 31, the texts of the
station, of the device and of the 32 status channels. -/
structure CapCfg where
  chans : List CapChan := []
  status : List Nat := []
  station : List Nat := []
  device : List Nat := []
  names : List (List Nat) := []
  deriving DecidableEq, Repr

/-- A holder of the holder table (R409); `roles` has bits CLEARING, CRYPTO_OFFICER, ENROL and CALIBRATION. -/
structure Holder where
  ident : Nat
  roles : Nat
  deriving DecidableEq, Repr

/-- A domain key as the image defines it (R398). -/
structure DomainCfg where
  label : Nat
  typ : Nat
  usage : Nat
  exportable : Bool
  fin : Nat
  deriving DecidableEq, Repr

/-- The running image's typed tables (R14): what the configuration sections give the blocks. `regs` are the values of
the "From image" registers (R477), `xfCast` the cast of each transfer destination, `presets` the 16 lane settings of
swing, pre-cursor and post-cursor (R66), `outBase` the base of the launch profile's IDCODEs (Table 0.4), and `trialS`
TRIAL_S (R455). -/
structure Image where
  launch : Bool := false
  tabRate : Nat := 0
  trialS : Nat := 300
  regs : List (Nat × Word) := []
  intMap : List (Nat × Nat × Nat) := []
  threads : List (Nat × ThreadCfg) := []
  tracks : List (Nat × TrackCfg) := []
  pipeOf : List Nat := []
  mcast : List (BitVec 48) := []
  udpPorts : List (BitVec 16) := []
  streams : List (Nat × StreamCfg) := []
  groups : List GroupCfg := []
  subs : List (Nat × SvSub) := []
  rules : List (Nat × RuleCfg) := []
  pubs : List (Nat × PubCfg) := []
  outs : List (Nat × OutCfg) := []
  xfCast : List Nat := []
  nest : NestCfg := {}
  scales : ScalesCfg := {}
  cap : CapCfg := {}
  ribbon : List Nat := []
  clerkPairs : List Nat := []
  presets : List (Nat × Nat × Nat) := []
  outBase : Nat := 64
  holders : List Holder := []
  domains : List DomainCfg := []
  deriving DecidableEq, Repr

/-- The checks of Table 18.3 that rest on a bank's bytes, in its order: 1 the format, 2 the owner's signature, 3 the
firmware's, and 7 the hashes of the sections. -/
structure BankCheck where
  formatOk : Bool
  sigOk : Bool
  fwSigOk : Bool
  hashOk : Bool
  deriving DecidableEq, Repr

/-- A Peneg image as its header and manifest declare it (R440): HW_TYPE, UNIT_ID (0: unbound), SEC_VER, VERSION, the
build time, the hashes of the firmware, of the image, of the configuration and of the CAP and LAYOUT sections, and the
decoded configuration. -/
structure PenegImage where
  hwType : Nat
  unitId : Nat
  secVer : Nat
  version : Nat
  buildSec : Nat
  fwHash : Nat
  imgHash : Nat
  confHash : Nat
  capHash : Nat
  layoutHash : Nat
  image : Image
  deriving DecidableEq, Repr

/-- What a start meets (Tables 18.4 and 18.5): RECOVER_N, the root and the self-tests (R393, R394), the Ledger's start
checks (0 they pass, 2 no valid control record, 3 the self-test fails) and the offset at which they fail, the checks
of the banks, the factory calibration (R167), the firmware's version and BOOT_MS. -/
structure StartInputs where
  recoverLow : Bool
  pufOk : Bool
  selfTestOk : Bool
  ledger : Nat
  ledgerOfs : Word
  checkA : BankCheck
  checkB : BankCheck
  fcalOk : Bool
  fwVersion : Word
  bootMs : BitVec 16
  deriving DecidableEq, Repr

/-- The header of a service request (R449): whether its CRC holds, and SEQ. -/
structure SvcHdr where
  crcOk : Bool
  seq : Word
  deriving DecidableEq, Repr

/-- The commands of spec/opcode_table.json, one constructor per row: first the rows with operands, then those without,
each in the table's order (Lean's compiler numbers at most 244 constructors that have fields). -/
inductive Instr where
  /-- INCR_WRITE (R29): `who` writes `v` to MST_INCR. -/
  | incrWrite (who : Req) (v : Word)
  /-- TIME_BLOCK_FREEZE (R31): `who` reads word `k` of the time block, 0 MST_TIME_SUB to 4 MST_TIME_SEC_LO. -/
  | timeBlockFreeze (who : Req) (k : Fin 5)
  /-- TIME_BLOCK_RELEASE (R31): `who` reads MST_TIME_SEC_HI. -/
  | timeBlockRelease (who : Req)
  /-- TIME_FREEZE_TIMEOUT (R33): 50 µs after the first read of `who`. -/
  | timeFreezeTimeout (who : Req)
  /-- COMMIT_SET (R35): `who` writes MST_COMMIT with GO, MODE SET. -/
  | commitSet (who : Req)
  /-- COMMIT_STEP (R35): `who` writes MST_COMMIT with GO, MODE STEP and the SIGN bit. -/
  | commitStep (who : Req) (backward : Bool)
  /-- LOCK_SET (R40). -/
  | lockSet (who : Req)
  /-- HOLD_SET (R40). -/
  | holdSet (who : Req)
  /-- GM_CHANGE (R41). -/
  | gmChange (who : Req)
  /-- GM_LOST (R41). -/
  | gmLost (who : Req)
  /-- GM_RETURN (R41). -/
  | gmReturn (who : Req)
  /-- GUARD_ACCEPT (R39, R41). -/
  | guardAccept (who : Req)
  /-- IRIG_FRAME (R46): an IRIG-B frame. -/
  | irigFrame (f : IrigFrame)
  /-- TQ_WRITE (R48): `who` writes `v` to MST_TQ. -/
  | tqWrite (who : Req) (v : Word)
  /-- REFERENCE_LOST (R54), with the case met. -/
  | cycleReferenceLost (why : RefLoss)
  /-- FLYWHEEL_LIMIT (R55): FLY_CYC cycles passed in FLYWHEEL; the fallback reference is valid or not. -/
  | flywheelLimit (fallbackValid : Bool)
  /-- CYC_CFG_WRITE (R53): `who` writes `v` to MST_CYC_CFG. -/
  | cycCfgWrite (who : Req) (v : Word)
  /-- SCHEDULE_FIRE (R58): entry `e` is looked at in a MAST tick, and falls due or not. -/
  | scheduleFire (e : Fin 512)
  /-- SCH_LOAD (R62). -/
  | schLoad (who : Req)
  /-- SCH_STORE (R63). -/
  | schStore (who : Req)
  /-- SCH_DISARM (R62). -/
  | schDisarm (who : Req)
  /-- SCH_DISARM_ALL (R62). -/
  | schDisarmAll (who : Req)
  /-- RX_FRAME (R69): a frame is received whole on `port`. -/
  | rxFrame (port : Fin 64) (f : RxFrame)
  /-- PFC_REFRESH (R73): 32,768 bit times with the occupancy at or above XON. -/
  | pfcRefresh (port : Fin 64)
  /-- PFC_XON (R73): the occupancy is below XON. -/
  | pfcXon (port : Fin 64)
  /-- PAUSE_EXPIRY (R75): the quanta of a priority run out. -/
  | pauseExpiry (port : Fin 64) (prio : Fin 8)
  /-- LPI_ENTRY (R77): IDLE_US without a frame pending. -/
  | lpiEntry (port : Fin 64)
  /-- EEE_WRITE (R78): `who` writes `v` to PRT_EEE. -/
  | eeeWrite (who : Req) (port : Fin 64) (v : Word)
  /-- RING_ENABLE (R81): PRT_RX_CTRL.EN is set. -/
  | ringEnable (who : Req) (port : Fin 64)
  /-- RING_DISABLE (R84): PRT_RX_CTRL.EN is cleared. -/
  | ringDisable (who : Req) (port : Fin 64)
  /-- RX_TAIL_WRITE (R81): with the BUF_ADDR that firmware wrote into W0 of each descriptor offered. -/
  | rxTail (who : Req) (port : Fin 64) (index : BitVec 9) (bufs : List (BitVec 27))
  /-- TX_FRAME_END (R85): the last bit of the frame in transmission leaves. -/
  | txFrameEnd (port : Fin 64)
  /-- TSQ_LATCH (R88): a 64-bit read at 0x0040. -/
  | tsqLatch (who : Req) (port : Fin 64)
  /-- TSQ_POP (R88): a 64-bit read at 0x0048. -/
  | tsqPop (who : Req) (port : Fin 64)
  /-- PORT_SNAPSHOT (R90): PRT_SNAP.GO without ALL. -/
  | portSnapshot (who : Req) (port : Fin 64) (clr : Bool)
  /-- PORT_SNAPSHOT_ALL (R90): PRT_SNAP.GO with ALL. -/
  | portSnapshotAll (who : Req) (clr : Bool)
  /-- LINK_CHANGE (R515): the link of `port` goes up or down; `anDone`: auto-negotiation is complete. -/
  | linkChange (port : Fin 64) (up : Bool) (anDone : Bool)
  /-- INGEST_PARSE (R103): pipeline `pipe` takes the next frame from its FIFO. -/
  | ingestParse (pipe : Fin 4)
  /-- SEND_SOURCE_COMMAND (R97): firmware sends a command to the source of a stream, as an item of priority `prio` of
  a port's egress `queue`. -/
  | sourceCommandSend (stream : BitVec 14) (cmd : SourceCmd) (queue : Fin 32) (prio : Fin 8)
  /-- STREAM_LOAD (R115). -/
  | streamLoad (who : Req)
  /-- LAT_CLEAR (R115). -/
  | latClear (who : Req)
  /-- CLEAR_ALL (R115). -/
  | clearAll (who : Req)
  /-- INGEST_SNAPSHOT (R91). -/
  | ingestSnapshot (who : Req) (clr : Bool)
  /-- SECTION_SEAL (R118): the section of class `cls` of the tableau of `instant` falls due to seal. -/
  | sectionSeal (instant : Nat) (cls : Fin 8)
  /-- SECTION_CLOSE (R119): that section falls due to close. -/
  | sectionClose (instant : Nat) (cls : Fin 8)
  /-- REVISION_ISSUE (R131): the hold time of the tableau of `instant` has run out. -/
  | revisionIssue (instant : Nat)
  /-- BELL_WRITE (R127): `who` writes `bell` to MKT_CLS_BELL of `cls`. -/
  | bellWrite (who : Req) (cls : Fin 8) (bell : BitVec 16)
  /-- CLS_LOAD (R128). -/
  | clsLoad (who : Req)
  /-- CLS_CLEAR (R128). -/
  | clsClear (who : Req)
  /-- BELL_LEARN (R129): a learning period of `cls` ends. -/
  | bellLearn (cls : Fin 8)
  /-- MARKET_SNAPSHOT (R91). -/
  | marketSnapshot (who : Req) (clr : Bool)
  /-- TW_OPEN (R148). -/
  | twOpen (who : Req)
  /-- TW_ABORT (R148). -/
  | twAbort (who : Req)
  /-- RIB_OPEN (R149). -/
  | ribOpen (who : Req)
  /-- RIB_ABORT (R149). -/
  | ribAbort (who : Req)
  /-- SYNC_PIN_EDGE (R158): an edge on the SYNC pin; `rising` or falling. -/
  | syncPinEdge (rising : Bool)
  /-- SCL_SYNC_GO (R158). -/
  | sclSyncGo (who : Req)
  /-- DECIMATOR_OUTPUT (R157): the MOD edge that completes an output of `ch`, with the bits of its bitstream since the
  previous output, oldest first. -/
  | decimatorOutput (ch : Fin 24) (bits : List Bool)
  /-- SETTLING_END (R160): the settling time of `ch` has run out. -/
  | settlingEnd (ch : Fin 24)
  /-- CHANNEL_DEAD (R161): no transition for 64 MOD periods. -/
  | channelDead (ch : Fin 24)
  /-- CAL_APPLY (R168): `who` writes CH_MASK to SCL_CAL_APPLY. -/
  | calApply (who : Req) (mask : BitVec 24)
  /-- PQ_LOAD (R168). -/
  | pqLoad (who : Req)
  /-- PQ_STORE (R168). -/
  | pqStore (who : Req)
  /-- SV_GAIN_LOAD (R168). -/
  | svGainLoad (who : Req)
  /-- SV_GAIN_STORE (R168). -/
  | svGainStore (who : Req)
  /-- FCAL_LOAD (R165): a write of SCL_FCAL_IDX. -/
  | fcalLoad (who : Req) (ch : BitVec 5)
  /-- ESTIMATE_COMPLETE (R173): the estimate of local stream `ls` for `instant` completes. -/
  | estimateComplete (ls : Fin 64) (instant : Nat)
  /-- ENERGY_SAVE (R193): SAVE_S seconds have passed; `ok`: the slot's write verifies. -/
  | energySave (ok : Bool)
  /-- ENERGY_SAVE_NOW (R193): SCL_EN_SAVE.NOW is written. -/
  | energySaveNow (who : Req)
  /-- ENERGY_SNAPSHOT (R185). -/
  | energySnapshot (who : Req)
  /-- CAPTURE_SAMPLE (R203): the next record sample; `drained`: the bytes that left the write queue for DRAM since the
  last one (R212). -/
  | captureSample (drained : Nat)
  /-- DIN_EDGE (R210): digital input `din` goes high or low; `held`: it holds the new level for 1 µs. -/
  | dinEdge (din : Fin 16) (high : Bool) (held : Bool)
  /-- BELL_FALL (R218): bell line `line` falls and stays low for `lowNs`. -/
  | bellLineFall (line : Fin 2) (lowNs : Nat)
  /-- BELL_PULSE_END (R217): PULSE_US have passed. -/
  | bellPulseEnd (line : Fin 2)
  /-- CAPTURE_ARM (R203): CAP_CTRL.ARM is written. -/
  | captureArm (who : Req) (arm : Bool)
  /-- CAPTURE_FORCE (R205). -/
  | captureForce (who : Req)
  /-- CAPTURE_RESET (R203). -/
  | captureReset (who : Req)
  /-- TH_LVL_WRITE (R202). -/
  | thLvlWrite (who : Req) (th : Fin 32) (v : Word)
  /-- BELL_TEST (R221): CAP_BELL_TEST.GO with LINE. -/
  | bellTest (who : Req) (line : Fin 2)
  /-- REC_INFO (R222). -/
  | recInfo (who : Req)
  /-- REC_EXPORT (R223), with FORMAT and PACK. -/
  | recExport (who : Req) (format : BitVec 2) (pack : Bool)
  /-- REC_RELEASE (R225). -/
  | recRelease (who : Req)
  /-- REC_ABORT (R223). -/
  | recAbort (who : Req)
  /-- CAPTURE_SNAPSHOT (R91). -/
  | captureSnapshot (who : Req) (clr : Bool)
  /-- BASELINE_SAVE_NOW (R249): `who` writes NST_BASE.SAVE_NOW. -/
  | baselineSaveNow (who : Req)
  /-- MODE_LOAD (R243). -/
  | modeLoad (who : Req)
  /-- MODE_SHAPE (R258). -/
  | modeShape (who : Req)
  /-- MODE_ABORT (R258). -/
  | modeAbort (who : Req)
  /-- SIG_LOAD (R229): `who` writes `sig` to NST_SIG_IDX. -/
  | sigLoad (who : Req) (sig : BitVec 13)
  /-- OSC_SNAPSHOT (R91). -/
  | oscSnapshot (who : Req) (clr : Bool)
  /-- STATUS_INTER_TIMEOUT (R261): the DOUBLE point `point` has been intermediate for INTER_MS. -/
  | statusInterTimeout (point : BitVec 16)
  /-- BR_LOAD (R262): `who` writes `branch` to NST_BR_IDX. -/
  | brLoad (who : Req) (branch : BitVec 15)
  /-- BUS_LOAD (R263): `who` writes `bus` to NST_BUS_IDX. -/
  | busLoad (who : Req) (bus : BitVec 14)
  /-- ISL_LOAD (R270). -/
  | islLoad (who : Req)
  /-- ISL_MEMBERS (R281). -/
  | islMembers (who : Req)
  /-- ISL_ABORT (R281). -/
  | islAbort (who : Req)
  /-- TOPO_SNAPSHOT (R91). -/
  | topoSnapshot (who : Req) (clr : Bool)
  /-- GOOSE_RETRANSMIT (R295): the interval of publication `pub` ends. -/
  | gooseRetransmit (pub : Fin 32)
  /-- OS_COMMAND_FRAME (R302): a command frame addressed to `idcode` from a source address and UDP port. -/
  | osCommandFrame (idcode : BitVec 16) (cmd : OsCmd) (srcIp : Nat) (srcUdp : BitVec 16)
  /-- OS_LOAD: EGR_OS_CMD LOAD. -/
  | osLoad (who : Req)
  /-- OS_ON (R302): EGR_OS_CMD ON. -/
  | osOn (who : Req)
  /-- OS_OFF (R302): EGR_OS_CMD OFF. -/
  | osOff (who : Req)
  /-- RULE_LOAD: EGR_RULE_CMD LOAD. -/
  | ruleLoad (who : Req)
  /-- RULE_STORE: EGR_RULE_CMD STORE. -/
  | ruleStore (who : Req)
  /-- PUB_LOAD: a write of EGR_PUB_IDX. -/
  | pubLoad (who : Req) (pub : Fin 32)
  /-- XF_GO (R304): EGR_XF_CMD GO. -/
  | xfGo (who : Req)
  /-- XF_ABORT (R304): EGR_XF_CMD ABORT. -/
  | xfAbort (who : Req)
  /-- Q_PUSH (R306): `who` stages a word. -/
  | qPush (who : Req) (q : Fin 32) (v : Word)
  /-- Q_COMMIT (R306): EGR_Q_COMMIT GO with PRIO and LEN. -/
  | qCommit (who : Req) (q : Fin 32) (prio : Fin 8) (len : BitVec 14)
  /-- Q_COMMIT_LAND (R306): a commit held on queue `q` finds room. -/
  | qCommitLand (q : Fin 32)
  /-- Q_DISCARD: EGR_Q_COMMIT DISCARD without GO. -/
  | qDiscard (who : Req) (q : Fin 32)
  /-- Q_POP (R307): the host reads EGR_Q_POP. -/
  | qPop (q : Fin 32)
  /-- Q_FLUSH (R309): EGR_Q_CTRL.FLUSH. -/
  | qFlush (who : Req) (q : Fin 32)
  /-- TX_START (R305, R307, R312): the class `cls` of `port` becomes free. -/
  | txStart (port : Fin 64) (cls : Fin 8)
  /-- EGRESS_SNAPSHOT (R91). -/
  | egressSnapshot (who : Req) (clr : Bool)
  /-- JOB_PACK (R321): PAK_J_CMD GO with OP PACK and BLOCK_KIB; `input` are the bytes firmware placed at PAK_J_SRC. -/
  | jobPack (who : Req) (blockKib : BitVec 16) (input : List (BitVec 8))
  /-- JOB_UNPACK (R323). -/
  | jobUnpack (who : Req) (blockKib : BitVec 16) (input : List (BitVec 8))
  /-- JOB_RAW (R321). -/
  | jobRaw (who : Req) (blockKib : BitVec 16) (input : List (BitVec 8))
  /-- JOB_FLUSH (R319): `consumed` bytes of the block in progress have been consumed. -/
  | jobFlush (who : Req) (consumed : Nat)
  /-- JOB_ABORT (R322). -/
  | jobAbort (who : Req)
  /-- PACKER_SNAPSHOT (R91). -/
  | packerSnapshot (who : Req) (clr : Bool)
  /-- POST_INSTRUCTION (R333): the thread on `core` executes POST. -/
  | postInstruction (core : Fin 4) (target : Fin 256)
  /-- HOST_POST (R334): a host write to CTL_HPOST with CANCEL 0. -/
  | hostPost (thread : Fin 256)
  /-- HOST_CANCEL (R337): a host write to CTL_HPOST with CANCEL 1; `withPost`: a post to the thread at the front of
  the queue falls in the same DECK cycle. -/
  | hostCancel (thread : Fin 256) (withPost : Bool)
  /-- TICK_TIMEOUT (R339): the timeout of a WAIT ends. -/
  | tickTimeout (thread : Fin 256)
  /-- THREAD_WAIT (R332, R339): the thread on `core` executes WAIT with a timeout in ticks (0 none). -/
  | threadWait (core : Fin 4) (timeout : BitVec 16)
  /-- THREAD_FAULT (R331): the customer thread on `core` faults. -/
  | threadFault (core : Fin 4)
  /-- WDOG_KICK (R341): `who` writes CTL_WDOG.KICK. -/
  | wdogKick (who : Req)
  /-- MACHINE_CHECK (R342): an uncorrectable error in Deck memory met by `core`, in a customer thread's pages or not. -/
  | machineCheck (core : Fin 4) (customer : Bool)
  /-- HOST_RESTART (R343): a write of `key` to CTL_RESTART. -/
  | hostRestart (who : Req) (key : BitVec 16)
  /-- RESTART_DONE (R344): steps 3 to 5 of Table 13.6 end; `verified`: step 3 verified the sections;
  `version` is the firmware version in the manifest entry. -/
  | deckRestartDone (verified : Bool) (version : Word)
  /-- PC_EN (R347). -/
  | pcEn (who : Req) (set : PcSet) (on : Bool)
  /-- PC_FREEZE (R347). -/
  | pcFreeze (who : Req) (set : PcSet) (on : Bool)
  /-- PC_CLEAR (R347). -/
  | pcClear (who : Req) (set : PcSet)
  /-- PC_SEL_WRITE (R346). -/
  | pcSelWrite (who : Req) (sel : PcSel) (v : Word)
  /-- PC_SMODE (R349): SMODE of a core is written. -/
  | pcSmode (who : Req) (core : Fin 4) (mode : BitVec 2)
  /-- PRECISE_SAMPLE (R349): PERIOD events have been counted and the causing instruction is met. -/
  | preciseSample (core : Fin 4) (addr : BitVec 48) (latency : BitVec 16)
  /-- W2WIN_OPEN (R349): the pseudorandom interval ended. -/
  | w2winOpen (core : Fin 4) (addr : BitVec 48)
  /-- W2WIN_CLOSE (R349): the window closes after `cycles` cycles with the four slot counts and the event mask. -/
  | w2winClose (core : Fin 4) (cycles : Fin 33) (retired wasted front : Nat) (mask : BitVec 7)
  /-- TH_LOAD (R332): a write of CTL_TH_IDX. -/
  | thLoad (who : Req) (thread : Fin 256)
  /-- SCHED_SNAPSHOT (R91): a write of CTL_SCH_SNAP.GO with CLR. -/
  | schedSnapshot (who : Req) (clr : Bool)
  /-- MEM_CE (R351, R352): a read in `region` at byte address `addr` meets one symbol error in a byte lane; `target`
  is the item, for the case in which a degraded lane makes the error uncorrectable. -/
  | memCorrection (region : Fin 15) (addr : BitVec 36) (channel : Fin 2) (lane : Fin 4) (target : UeTarget)
  /-- MEM_UE (R353, Table 14.1): an uncorrectable error in `region`, at an address, in an item. -/
  | memUe (region : Fin 15) (addr : BitVec 36) (target : UeTarget)
  /-- PATROL_READ (R356): the scrubber reads its next codeword, which lies in `region`. -/
  | patrolRead (region : Fin 15) (r : PatrolResult)
  /-- MEM_SNAPSHOT (R91). -/
  | memSnapshot (who : Req) (clr : Bool)
  /-- LEDGER_EVENT (R364): a block, firmware or a customer thread offers an event. -/
  | ledgerEvent (e : LEvent)
  /-- LEDGER_FLUSH (R366): a flush runs. `during` are the events that arrive while it writes (R365); `badUnits` are the
  1 KiB units that fail write verification three times (R360). -/
  | ledgerFlush (during : List LEvent) (badUnits : List Nat)
  /-- FLUSH_NOW (R366). -/
  | flushNow (who : Req)
  /-- TRACK_SAMPLE (R371): the period of `track` ends; `derived` is the value of a fixed track that no register holds. -/
  | trackSample (track : Fin 256) (derived : Int)
  /-- REF_LATCH (R383): CAL_REF_CMD.LATCH. -/
  | refLatch (who : Req)
  /-- CAL_READ_FREEZE (R386): `who` reads word `k` of the calendar block, 0 CAL_TICK_LO to 2 CAL_LEG_DATE. -/
  | calReadFreeze (who : Req) (k : Fin 3)
  /-- CAL_READ_RELEASE (R386): `who` reads CAL_TICK_HI. -/
  | calReadRelease (who : Req)
  /-- CAL_FREEZE_TIMEOUT (R386): 1 ms after the first read of `who`. -/
  | calFreezeTimeout (who : Req)
  /-- CAL_COMMIT (R388): a write of CAL_COMMIT. -/
  | calCommit (who : Req)
  /-- DERIVE (R397): `who` writes the command to its interface (host or Deck). -/
  | derive (who : Req)
  /-- GENERATE (R393): `pairOk` is the pairwise-consistency test of an ECDSA pair. -/
  | generate (who : Req) (pairOk : Bool)
  /-- UNWRAP (R397): `ok` is the unwrap check of the mailbox. -/
  | unwrap (who : Req) (ok : Bool)
  /-- WRAP (R391). -/
  | wrap (who : Req)
  /-- DESTROY (R400). -/
  | destroy (who : Req)
  /-- ENCRYPT (R403), with MORE. -/
  | encrypt (who : Req) (more : Bool)
  /-- DECRYPT (R403), with MORE: `tagOk` is the tag check. -/
  | decrypt (who : Req) (more : Bool) (tagOk : Bool)
  /-- HMAC (R403), with MORE. -/
  | hmac (who : Req) (more : Bool)
  /-- SIGN (R392). -/
  | sign (who : Req)
  /-- VERIFY (R392): `ok` is the signature check. -/
  | verify (who : Req) (ok : Bool)
  /-- ECDH (R392). -/
  | ecdh (who : Req)
  /-- HASH (R403), with MORE. -/
  | hash (who : Req) (more : Bool)
  /-- RANDOM (R392). -/
  | random (who : Req)
  /-- PUBKEY (R398). -/
  | pubkey (who : Req)
  /-- ATTEST (R408). -/
  | attest (who : Req)
  /-- GK_MAP (R406). -/
  | gkMap (who : Req)
  /-- GK_UNMAP (R405). -/
  | gkUnmap (who : Req)
  /-- AUTH_REQ (R410). -/
  | authReq (who : Req)
  /-- AUTH (R410): `ok` is the check of the holder's signature. -/
  | auth (who : Req) (ok : Bool)
  /-- ZEROIZE (R409). -/
  | zeroize (who : Req)
  /-- ENROL (R415), or ENROL with argument CERT; `certOk` is the check of the certificate. -/
  | enrol (who : Req) (cert : Bool) (certOk : Bool)
  /-- CAL_ENROL (R416). -/
  | calEnrol (who : Req)
  /-- PURGE (R400). -/
  | purge (who : Req)
  /-- TILL_OP_TIMEOUT (R403): an operation open on the host's or the Deck's interface is 1 s old. -/
  | tillOpTimeout (deck : Bool)
  /-- TAMPER_TRIP (R412): the sources that trip together (Table 16.7). -/
  | tamperTrip (sources : BitVec 6)
  /-- KEY_EXPIRY (R405): the validity of a slot's key ends. -/
  | keyExpiry (slot : Fin 1024)
  /-- AUTH_REQUEST_EXPIRY (R410): a request is 60 s old. -/
  | authRequestExpiry (op : Fin 4)
  /-- GK_EXPIRING (R407): an entry comes within 300 s of END. -/
  | gkExpiring (entry : Fin 256)
  /-- SLOT_LOAD (R397): a write of TIL_SLOT_IDX. -/
  | slotLoad (who : Req) (slot : BitVec 10)
  /-- GK_LOAD (R406): a write of TIL_GK_IDX. -/
  | gkLoad (who : Req) (entry : BitVec 8)
  /-- RX_HEARTBEAT (R420): a HEARTBEAT frame arrives on Shroud `link`. -/
  | rxHeartbeat (link : Fin 2) (h : ShroudHdr) (hb : Heartbeat)
  /-- RX_DIGEST (R427). -/
  | rxDigest (link : Fin 2) (h : ShroudHdr) (entries : List DigestEntry)
  /-- RX_LEDGER (R429): event records of 16 words each. -/
  | rxLedger (link : Fin 2) (h : ShroudHdr) (records : List (List Word))
  /-- RX_ENERGY (R429). -/
  | rxEnergy (link : Fin 2) (h : ShroudHdr) (save : EnergySave)
  /-- RX_HEALTH (R428): the words of the peer's report. -/
  | rxHealth (link : Fin 2) (h : ShroudHdr) (report : List Word)
  /-- RX_RESYNC_REQ (R436). -/
  | rxResyncReq (link : Fin 2) (h : ShroudHdr)
  /-- RX_RESYNC_DATA (R436). -/
  | rxResyncData (link : Fin 2) (h : ShroudHdr) (d : ResyncData)
  /-- RX_CREDIT (R423). -/
  | rxCredit (link : Fin 2) (h : ShroudHdr)
  /-- RX_LINK_INIT (R423). -/
  | rxLinkInit (link : Fin 2) (h : ShroudHdr)
  /-- SHROUD_LINK_CHANGE (R423): Shroud `link` goes up or down. -/
  | shroudLinkChange (link : Fin 2) (up : Bool)
  /-- LEASE_WRITE (R419): `who` writes `v` to SHR_LEASE_DL. -/
  | leaseWrite (who : Req) (v : Word)
  /-- LEASE_DROP (R418): `who` writes SHR_LEASE_CTRL.DROP. -/
  | leaseDrop (who : Req)
  /-- RX_GRANT (R433). -/
  | rxGrant (m : ClerkMsg)
  /-- RX_RENEWED (R433). -/
  | rxRenewed (m : ClerkMsg)
  /-- RX_DENY (R433). -/
  | rxDeny (m : ClerkMsg) (reason : DenyReason)
  /-- CLERK_RX_REQUEST (R432): the Clerk service receives a REQUEST. -/
  | clerkRxRequest (m : ClerkMsg)
  /-- CLERK_RX_RENEW (R432). -/
  | clerkRxRenew (m : ClerkMsg)
  /-- CLERK_RX_RELEASE (R432). -/
  | clerkRxRelease (m : ClerkMsg)
  /-- DIGEST_UNCOMPARED (R427): 2 s since the local close of instant `inst`. -/
  | digestUncompared (inst : Nat)
  /-- PAIR_SNAPSHOT: `who` writes SHR_SNAP with GO. -/
  | pairSnapshot (who : Req) (clr : Bool)
  /-- NODE_START (R443): the die's reset is released and the start runs steps 1 to 10. -/
  | nodeStart (i : StartInputs)
  /-- BOT_VERIFY (R442): BOT_CMD VERIFY of a bank (0 A, 1 B). -/
  | botVerify (who : Req) (bank : Fin 2)
  /-- BANK_VERIFY_DONE (R442): the VERIFY under way ends with what the checks find, and the image when the bank holds
  one. -/
  | bankVerifyDone (check : BankCheck) (img : Option PenegImage)
  /-- BOT_ERASE (R438): BOT_CMD ERASE of a bank. -/
  | botErase (who : Req) (bank : Fin 2)
  /-- ACTIVATE_FW (R452): BOT_CMD ACTIVATE_FW with BANK and FORCE; `check` is the re-check of R456. -/
  | activateFw (who : Req) (bank : Fin 2) (force : Bool) (check : BankCheck)
  /-- ACTIVATE_FULL (R453): BOT_CMD ACTIVATE_FULL; it runs steps 1 to 4 of Table 18.8. -/
  | activateFull (who : Req) (bank : Fin 2) (force : Bool) (check : BankCheck)
  /-- ACTIVATION_RESUME (R453): steps 5 to 7 of Table 18.8; `hashOk` is step 5's comparison. -/
  | activationResumption (hashOk : Bool)
  /-- SVC_INFO (Table 18.6). -/
  | svcInfo (h : SvcHdr)
  /-- SVC_ERASE (R450). -/
  | svcErase (h : SvcHdr) (bank : Fin 2)
  /-- SVC_WRITE (R450): `data` at byte offset `ofs` of a bank. -/
  | svcWrite (h : SvcHdr) (bank : Fin 2) (ofs : BitVec 26) (data : List (BitVec 8))
  /-- SVC_VERIFY (R450). -/
  | svcVerify (h : SvcHdr) (bank : Fin 2)
  /-- SVC_ACTIVATE (R451): `cmd` is as BOT_CMD bits 7:0. -/
  | svcActivate (h : SvcHdr) (cmd : BitVec 8) (check : BankCheck)
  /-- SVC_TILL (Table 18.6): a Till command's code, its arguments and mailbox, ENROL's argument CERT and the verdict
  of the check the command makes. -/
  | svcTill (h : SvcHdr) (code : BitVec 8) (args : List Word) (mbox : List (BitVec 8)) (cert : Bool) (ok : Bool)
  /-- SVC_REBOOT (R448). -/
  | svcReboot (h : SvcHdr) (bank : Fin 2)
  /-- SVC_LOG (Table 18.6): 1,024 bytes of the recovery log from `ofs`. -/
  | svcLog (h : SvcHdr) (ofs : Word)
  /-- POWER_UP (R460): the input has been at or above 10.8 V for 20 ms; `fail` is the rail that misses its 0.5 ms. -/
  | powerUp (fail : Option (Fin 8))
  /-- RAIL_RETRY (R460): 1 s after a failed attempt. -/
  | railRetry (fail : Option (Fin 8))
  /-- RAIL_MEASURE (R461): the rails' voltages in mV and currents in mA by index, the input in mV, mA and mW, and the
  store in mV. -/
  | railMeasure (rails : List (Nat × Nat)) (vin iin : BitVec 16) (pmw : Word) (vstore : BitVec 16)
  /-- SENSOR_READING (R469): the hottest sensor, signed, in 0.125 °C. -/
  | sensorReading (temp : BitVec 16)
  /-- FURL (R464): a write of `key` to PWR_CMD. -/
  | furl (who : Req) (key : BitVec 16)
  /-- RESUMPTION (R467): the condition of R467 holds; `version` is the firmware's as in RESTART_DONE. -/
  | powerResumption (version : Word)
  /-- RAIL_LOAD (R461): a write of PWR_RAIL_IDX. -/
  | railLoad (who : Req) (rail : Fin 8)
  /-- LINK_RESET (R471). -/
  | linkReset (kind : LinkReset)
  /-- EOI (R480): a write of `vector` to HST_EOI. -/
  | eoi (vector : Fin 16)
  /-- MSIX_TABLE_WRITE (R480): the host writes word `w` of entry `vector`. -/
  | msixTableWrite (vector : Fin 16) (w : Fin 4) (v : Word)
  /-- LOW_WORD_READ (R476): a 32-bit host read of the word at byte offset `ofs`. -/
  | lowWordRead (ofs : BitVec 20)
  /-- WINDOW_READ (R483): a read request in a data aperture; `poison` marks the words that come from poisoned
  codewords, in order. -/
  | windowRead (w : Win) (r : WinRead) (poison : List Bool)
  /-- WIN_OPEN (R484): WIN_CMD OPEN at a window; it acts on the pair mirror window only. -/
  | winOpen (w : Win)
  /-- WIN_ABORT (R484): WIN_CMD ABORT. -/
  | winAbort (w : Win)
  /-- REGISTER_WRITE (R477): `who` writes the bytes of `v` that `be` enables into the 64-bit word at `8 * ofs`. -/
  | registerWrite (who : Req) (ofs : BitVec 17) (be : BitVec 8) (v : BitVec 64)
  /-- HOLDOVER_LIMIT_CROSSED (R48): the holdover count has reached `sec` seconds. -/
  | holdoverLimitCrossed (sec : BitVec 32)
  /-- RX_LPI_ENTRY (R79): the peer of `port` enters or leaves low-power idle. -/
  | rxLpiEntry (port : Fin 64) (enter : Bool)
  /-- RX_READY_COALESCE (R81): the coalescing time of `port` ends. -/
  | rxReadyCoalesce (port : Fin 64)
  /-- DEAD_CLEAR (R161): the bitstream of `ch` shows a transition. -/
  | deadClear (ch : Fin 24)
  /-- STORE_CHARGE_DONE (R466): the store has finished charging and C measures `cf`, in 0.01 F. -/
  | storeChargeDone (cf : BitVec 16)
  /-- PC_OVF (R345): a counter reaches 2^48 - 1. -/
  | pcOvf (c : PcCounter)
  /-- UNSUPPORTED_REQUEST (R473): a host access of `len` bytes at byte offset `ofs`. -/
  | unsupportedRequest (ofs : BitVec 20) (len : Nat) (write : Bool)
  /-- CLEAR_ON_READ (R46, R161): `who` reads MST_IRIG_STAT (none) or SCL_CH_STAT of a channel. -/
  | clearOnRead (who : Req) (ch : Option (Fin 24))
  /-- NO_INCREMENT_TIMEOUT (R40): 4 s without an increment write in LOCKED. -/
  | noIncrementTimeout
  /-- LEAP_APPLIED (R50): the counter reaches the second in MST_LEAP_AT. -/
  | leapApplied
  /-- PPS_EDGE (R45): a rising edge on PPS_IN. -/
  | ppsEdge
  /-- PPS_MISSING (R45): 1.1 s without an accepted edge. -/
  | ppsMissing
  /-- CYCLE_COMPARISON (R52, R55): under LOCAL the positive-going zero crossing of the reference, else a tableau instant. -/
  | cycleCompare
  /-- KERNEL_TICK (R57). -/
  | kernelTick
  /-- LAT_AGED (R114): AGE_S passed. -/
  | latAged
  /-- TABLEAU_OPEN (R116): the Mast generates the next instant. -/
  | tableauOpen
  /-- PLACE (R20): the placement unit takes the next value handed over. -/
  | place
  /-- SYNC_APPLY (R158): a MOD edge. -/
  | syncApply
  /-- BOOT_SYNC_STORE (R159). -/
  | bootSyncStore
  /-- BOOT_SYNC_FALLBACK (R159): 60 s after NODE_OK rose. -/
  | bootSyncFallback
  /-- INTERVAL_END (R186): an angle wrap of the cycle clock. -/
  | intervalEnd
  /-- SUPPLY_CHECK (R192): a cycle of the cycle clock has ended. -/
  | supplyCheck
  /-- AH_SAVE (R196): 1 s has passed in Reefed. -/
  | ahSave
  /-- BELL_TEST_DRIVE (R221): the staged instant comes. -/
  | bellTestDrive
  /-- BASELINE_SAVE (R249): BASE_S seconds have passed. -/
  | baselineSave
  /-- XF_DATAGRAM (R304): the job's next datagram falls due. -/
  | xfDatagram
  /-- COMPOSER_ENQUEUE (R311): a waiting composer finds room. -/
  | composerEnqueue
  /-- OS_ITEM_ABANDON (R311): the oldest waiting output-stream item has waited 1 cyc. -/
  | osItemAbandon
  /-- PACKER_BLOCK_START (R320). -/
  | packerBlockStart
  /-- PACKER_BLOCK_DONE (R319). -/
  | packerBlockDone
  /-- POST_APPLY (R334): the scheduler applies the post at the front of its queue. -/
  | postApply
  /-- WDOG_EXPIRY (R341): PERIOD_MS passed without a kick. -/
  | wdogExpiry
  /-- DECK_FAILED (R19): 1 s without reaching RUN. -/
  | deckFailed
  /-- TRACK_WRITE (R371): HIST_S passed. -/
  | trackWrite
  /-- CLEAR_REQUEST (R375): the host writes LDG_CLR_CMD REQUEST. -/
  | clearRequest
  /-- CLEAR_EXECUTE (R375): the host writes LDG_CLR_CMD EXECUTE. -/
  | clearExecute
  /-- CLEAR_CANCEL (R375): the host writes LDG_CLR_CMD CANCEL. -/
  | clearCancel
  /-- CLEAR_EXPIRY (R375): 60 s after REQUEST. -/
  | clearExpiry
  /-- CLEAR_ERASE_DONE (R375 step 7). -/
  | clearEraseDone
  /-- LAST_WORDS_UPDATE (R378). -/
  | lastWordsUpdate
  /-- LW_ACK (R379): the host writes LDG_CTRL.LW_ACK. -/
  | lwAck
  /-- LEDGER_READ_OPEN (R380): the host writes LDG_RD_CMD OPEN. -/
  | ledgerReadOpen
  /-- LEDGER_READ_ABORT (R380): the host writes LDG_RD_CMD ABORT. -/
  | ledgerReadAbort
  /-- VBAT_SWITCH (R384). -/
  | vbatSwitch
  /-- SENTRY_LOSS (R385). -/
  | sentryLoss
  /-- CAL_SECOND (R389): the tick count's low 15 bits become 0. -/
  | calSecond
  /-- TILL_COMMAND_DONE (R402): the command that runs completes. -/
  | tillCommandDone
  /-- HEARTBEAT_SEND (R424). -/
  | heartbeatSend
  /-- PEER_LOST (R424): HB_MISS x 10 ms without a valid heartbeat on either link. -/
  | peerLost
  /-- LEASE_EXPIRY (R418). -/
  | leaseExpiry
  /-- CLERK_RENEW (R431): 100 ms since the last RENEW. -/
  | clerkRenew
  /-- CLERK_REQUEST (R431). -/
  | clerkRequest
  /-- CLERK_LOST (R431): 300 ms without a valid reply. -/
  | clerkLost
  /-- CLERK_QUIET_END (R432). -/
  | clerkQuietEnd
  /-- DIGEST_FRAME_SEND (R426): 10 ms since the first entry of the frame in preparation. -/
  | digestFrameSend
  /-- HEALTH_SEND (R428). -/
  | healthSend
  /-- RESYNC_DONE (R436). -/
  | resyncDone
  /-- FAIL_CNT_CLEAR (R444): NODE_OK has been high for 60 s. -/
  | failCntClear
  /-- TRIAL_CONFIRM (R455): NODE_OK has been high for TRIAL_S. -/
  | trialConfirm
  /-- BANK_ERASE_DONE (R450): the ERASE under way ends. -/
  | bankEraseDone
  /-- POWER_FAIL (R464): the input has stayed below 10.0 V for 50 µs. -/
  | powerFail
  /-- FURL_LATCH_CLEAR (R464): the input falls below 10.0 V. -/
  | furlLatchClear
  /-- HOLDUP_END (R468): the store reaches its reserve. -/
  | holdupEnd
  /-- HELD_WRITE_DROP (R474): the oldest held host write has been held for 10 ms. -/
  | heldWriteDrop
  /-- D3HOT_ENTRY (R471). -/
  | d3hotEntry
  deriving DecidableEq, Repr

end Sys2Proof
end

