-- ==== Sys2Proof/Decode.lean ====
section
/-!
DEFINITION. The command a word spells. The rows of spec/opcode_table.json give no bits, so no word spells a command (notes/assumptions/1.md).
-/

namespace Sys2Proof

/-- The command of a word, whose row has `nbits` bits. -/
def decodeTableWord (_nbits _w : Nat) : Option Instr := none

end Sys2Proof
end

