-- ==== Sys2Proof/Machine/RegMap.lean ====
section
/-!
DEFINITION. The register map of BAR0 (R472, Table 20.2) and, per register, the reset value and the access masks that
the register tables of the chapters give (R11, R12). Offsets are absolute BAR0 byte offsets. A register with a row of
its own in the table of commands is marked `own`: the generic write (R477) leaves it to that row.
-/

namespace Sys2Proof.Machine

/-- One row of the register map: registers at `base + s1 * i + s2 * j` for `i < n1`, `j < n2`. `reset` is the value of
the reset column, `rw` the RW bits, `w1c` the write-1-to-clear bits that the generic write acts on (R12, R477);
`own` marks a register whose write is a row of its own; `img` one whose reset is "From image" (R477). -/
structure RegRow where
  base : Nat
  s1 : Nat
  n1 : Nat
  s2 : Nat
  n2 : Nat
  reset : Nat
  rw : Nat
  w1c : Nat
  own : Bool
  img : Bool
  deriving DecidableEq, Repr

/-- The row covers the word at byte offset `a`. -/
def rowCovers (r : RegRow) (a : Nat) : Bool :=
  let d := a - r.base
  let i := if r.s1 = 0 then 0 else d / r.s1
  let e := d - r.s1 * i
  let j := if r.s2 = 0 then 0 else e / r.s2
  decide (r.base ≤ a ∧ i < r.n1 ∧ j < r.n2 ∧ e = r.s2 * j)

/-! Registers of 20_host_registers.md (R472). -/
abbrev HST_ID : Nat := 0x0
abbrev HST_VER : Nat := 0x4
abbrev HST_VARIANT : Nat := 0x8
abbrev HST_SERIAL (i : Nat) : Nat := 0x10 + 0x4 * i
abbrev HST_ROM_VER : Nat := 0x20
abbrev HST_FW_VER : Nat := 0x24
abbrev HST_NODE : Nat := 0x28
abbrev HST_ISR : Nat := 0x40
abbrev HST_PRT_ISR_LO : Nat := 0x48
abbrev HST_PRT_ISR_HI : Nat := 0x4C
abbrev HST_EOI : Nat := 0x50
abbrev HST_INT : Nat := 0x58
abbrev HST_INT_EN : Nat := 0x5C
abbrev HST_ERR_OFS : Nat := 0x60
abbrev HST_UNDER : Nat := 0x64
abbrev HST_POISON : Nat := 0x68
abbrev MSIX_ADDR (i : Nat) : Nat := 0x800 + 0x10 * i
abbrev MSIX_UADDR (i : Nat) : Nat := 0x804 + 0x10 * i
abbrev MSIX_DATA (i : Nat) : Nat := 0x808 + 0x10 * i
abbrev MSIX_CTRL (i : Nat) : Nat := 0x80C + 0x10 * i
abbrev MSIX_PBA : Nat := 0x900

/-- Chapter 20. DESIGN CHOICE (notes/assumptions/42.md): HST_VARIANT is the M16K's, HST_VER.STEPPING is 0. -/
def regsHST0a : List RegRow := [
  ⟨0x0, 0x0, 1, 0x0, 1, 0x4D4F5245, 0x0, 0x0, false, false⟩,
  ⟨0x4, 0x0, 1, 0x0, 1, 0x1, 0x0, 0x0, false, false⟩,
  ⟨0x8, 0x0, 1, 0x0, 1, 0x10001, 0x0, 0x0, false, false⟩,
  ⟨0x10, 0x4, 4, 0x0, 1, 0x0, 0x0, 0x0, false, false⟩,
  ⟨0x20, 0x0, 1, 0x0, 1, 0x0, 0x0, 0x0, false, false⟩,
  ⟨0x24, 0x0, 1, 0x0, 1, 0x0, 0x0, 0x0, false, false⟩,
  ⟨0x28, 0x0, 1, 0x0, 1, 0x200, 0x0, 0x0, false, false⟩,
  ⟨0x40, 0x0, 1, 0x0, 1, 0x0, 0x0, 0x0, false, false⟩,
  ⟨0x48, 0x0, 1, 0x0, 1, 0x0, 0x0, 0x0, false, false⟩,
  ⟨0x4C, 0x0, 1, 0x0, 1, 0x0, 0x0, 0x0, false, false⟩,
  ⟨0x50, 0x0, 1, 0x0, 1, 0x0, 0x0, 0x0, true, false⟩,
  ⟨0x58, 0x0, 1, 0x0, 1, 0x0, 0x0, 0x1F, false, false⟩,
  ⟨0x5C, 0x0, 1, 0x0, 1, 0x0, 0x1F, 0x0, false, false⟩,
  ⟨0x60, 0x0, 1, 0x0, 1, 0x0, 0x0, 0x0, false, false⟩,
  ⟨0x64, 0x0, 1, 0x0, 1, 0x0, 0x0, 0x0, false, false⟩,
  ⟨0x68, 0x0, 1, 0x0, 1, 0x0, 0x0, 0x0, false, false⟩,
  ⟨0x800, 0x10, 16, 0x0, 1, 0x0, 0x0, 0x0, true, false⟩,
  ⟨0x804, 0x10, 16, 0x0, 1, 0x0, 0x0, 0x0, true, false⟩,
  ⟨0x808, 0x10, 16, 0x0, 1, 0x0, 0x0, 0x0, true, false⟩,
  ⟨0x80C, 0x10, 16, 0x0, 1, 0x1, 0x0, 0x0, true, false⟩,
  ⟨0x900, 0x0, 1, 0x0, 1, 0x0, 0x0, 0x0, false, false⟩]

/-! Registers of 18_boot_update.md (R438). -/
abbrev BOT_STATUS : Nat := 0x1000
abbrev BOT_INT : Nat := 0x1004
abbrev BOT_INT_EN : Nat := 0x1008
abbrev BOT_BANK (i : Nat) : Nat := 0x1010 + 0x4 * i
abbrev BOT_REC : Nat := 0x1018
abbrev BOT_CTRL : Nat := 0x1020
abbrev BOT_CMD : Nat := 0x1024
abbrev BOT_CMD_STAT : Nat := 0x1028
abbrev BOT_TIMES : Nat := 0x1030
abbrev BOT_IMG_W (i : Nat) : Nat := 0x1040 + 0x4 * i

def regsBOT1a : List RegRow := [
  ⟨0x1000, 0x0, 1, 0x0, 1, 0x0, 0x0, 0x0, false, false⟩,
  ⟨0x1004, 0x0, 1, 0x0, 1, 0x0, 0x0, 0x1F, false, false⟩,
  ⟨0x1008, 0x0, 1, 0x0, 1, 0x0, 0x1F, 0x0, false, false⟩,
  ⟨0x1010, 0x4, 2, 0x0, 1, 0x0, 0x0, 0x0, false, false⟩,
  ⟨0x1018, 0x0, 1, 0x0, 1, 0x0, 0x0, 0x0, false, false⟩,
  ⟨0x1020, 0x0, 1, 0x0, 1, 0x0, 0x1, 0x0, false, false⟩,
  ⟨0x1024, 0x0, 1, 0x0, 1, 0x0, 0x0, 0x0, true, false⟩,
  ⟨0x1028, 0x0, 1, 0x0, 1, 0x0, 0x0, 0x0, false, false⟩,
  ⟨0x1030, 0x0, 1, 0x0, 1, 0x0, 0x0, 0x0, false, false⟩,
  ⟨0x1040, 0x4, 4, 0x0, 1, 0x0, 0x0, 0x0, false, true⟩]

/-! Registers of 19_power.md (R463). -/
abbrev PWR_CFG : Nat := 0x2000
abbrev PWR_STATUS : Nat := 0x2004
abbrev PWR_INT : Nat := 0x2008
abbrev PWR_INT_EN : Nat := 0x200C
abbrev PWR_CTRL : Nat := 0x2010
abbrev PWR_CMD : Nat := 0x2014
abbrev PWR_IN : Nat := 0x2020
abbrev PWR_PIN : Nat := 0x2024
abbrev PWR_DIE : Nat := 0x2028
abbrev PWR_HU : Nat := 0x202C
abbrev PWR_HU_EST : Nat := 0x2030
abbrev PWR_RAIL_IDX : Nat := 0x2040
abbrev PWR_RAIL_V : Nat := 0x2044
abbrev PWR_RAIL_I : Nat := 0x2048

def regsPWR2a : List RegRow := [
  ⟨0x2000, 0x0, 1, 0x0, 1, 0x0, 0x0, 0x0, false, true⟩,
  ⟨0x2004, 0x0, 1, 0x0, 1, 0x0, 0x0, 0x0, false, false⟩,
  ⟨0x2008, 0x0, 1, 0x0, 1, 0x0, 0x0, 0x3F, false, false⟩,
  ⟨0x200C, 0x0, 1, 0x0, 1, 0x0, 0x3F, 0x0, false, false⟩,
  ⟨0x2010, 0x0, 1, 0x0, 1, 0x0, 0xFF, 0x0, false, true⟩,
  ⟨0x2014, 0x0, 1, 0x0, 1, 0x0, 0x0, 0x0, true, false⟩,
  ⟨0x2020, 0x0, 1, 0x0, 1, 0x0, 0x0, 0x0, false, false⟩,
  ⟨0x2024, 0x0, 1, 0x0, 1, 0x0, 0x0, 0x0, false, false⟩,
  ⟨0x2028, 0x0, 1, 0x0, 1, 0x0, 0x0, 0x0, false, false⟩,
  ⟨0x202C, 0x0, 1, 0x0, 1, 0x0, 0x0, 0x0, false, false⟩,
  ⟨0x2030, 0x0, 1, 0x0, 1, 0x0, 0x0, 0x0, false, false⟩,
  ⟨0x2040, 0x0, 1, 0x0, 1, 0x0, 0x0, 0x0, true, false⟩,
  ⟨0x2044, 0x0, 1, 0x0, 1, 0x0, 0x0, 0x0, false, false⟩,
  ⟨0x2048, 0x0, 1, 0x0, 1, 0x0, 0x0, 0x0, false, false⟩]

/-! Registers of 02_mast_time.md (R27). -/
abbrev MST_CFG : Nat := 0x4000
abbrev MST_CTRL : Nat := 0x4004
abbrev MST_STATUS : Nat := 0x4008
abbrev MST_INT : Nat := 0x400C
abbrev MST_INT_EN : Nat := 0x4010
abbrev MST_TIME_SUB : Nat := 0x4020
abbrev MST_TIME_NS : Nat := 0x4024
abbrev MST_TIME_CYCA : Nat := 0x4028
abbrev MST_TIME_CYCN : Nat := 0x402C
abbrev MST_TIME_SEC_LO : Nat := 0x4030
abbrev MST_TIME_SEC_HI : Nat := 0x4034
abbrev MST_INCR : Nat := 0x4040
abbrev MST_STG_SUB : Nat := 0x4050
abbrev MST_STG_NS : Nat := 0x4054
abbrev MST_STG_SEC_LO : Nat := 0x4058
abbrev MST_STG_SEC_HI : Nat := 0x405C
abbrev MST_COMMIT : Nat := 0x4060
abbrev MST_GUARD : Nat := 0x4064
abbrev MST_TQ : Nat := 0x4068
abbrev MST_HOLD : Nat := 0x406C
abbrev MST_UTC_OFS : Nat := 0x4070
abbrev MST_LEAP_AT : Nat := 0x4074
abbrev MST_PPS_NS : Nat := 0x4080
abbrev MST_PPS_SEC : Nat := 0x4084
abbrev MST_IRIG_SEC : Nat := 0x4088
abbrev MST_IRIG_STAT : Nat := 0x408C
abbrev MST_CYC_CFG : Nat := 0x40A0
abbrev MST_CYC_HOME : Nat := 0x40A4
abbrev MST_CYC_STAT : Nat := 0x40A8
abbrev MST_CYC_FREQ : Nat := 0x40AC
abbrev MST_CYC_PERR : Nat := 0x40B0
abbrev MST_SCH_IDX : Nat := 0x4100
abbrev MST_SCH_W (i : Nat) : Nat := 0x4104 + 0x4 * i
abbrev MST_SCH_CMD : Nat := 0x411C
abbrev MST_SCH_STAT : Nat := 0x4120

def regsMST3a : List RegRow := [
  ⟨0x4000, 0x0, 1, 0x0, 1, 0x0, 0x0, 0x0, false, true⟩,
  ⟨0x4004, 0x0, 1, 0x0, 1, 0x0, 0x0, 0x0, true, false⟩,
  ⟨0x4008, 0x0, 1, 0x0, 1, 0x20, 0x0, 0x0, false, false⟩,
  ⟨0x400C, 0x0, 1, 0x0, 1, 0x0, 0x0, 0x3FF, false, false⟩,
  ⟨0x4010, 0x0, 1, 0x0, 1, 0x0, 0x3FF, 0x0, false, false⟩,
  ⟨0x4020, 0x0, 1, 0x0, 1, 0x0, 0x0, 0x0, true, false⟩,
  ⟨0x4024, 0x0, 1, 0x0, 1, 0x0, 0x0, 0x0, true, false⟩,
  ⟨0x4028, 0x0, 1, 0x0, 1, 0x0, 0x0, 0x0, true, false⟩,
  ⟨0x402C, 0x0, 1, 0x0, 1, 0x0, 0x0, 0x0, true, false⟩,
  ⟨0x4030, 0x0, 1, 0x0, 1, 0x0, 0x0, 0x0, true, false⟩,
  ⟨0x4034, 0x0, 1, 0x0, 1, 0x0, 0x0, 0x0, true, false⟩,
  ⟨0x4040, 0x0, 1, 0x0, 1, 0x40000000, 0x0, 0x0, true, false⟩,
  ⟨0x4050, 0x0, 1, 0x0, 1, 0x0, 0xFFFF, 0x0, false, false⟩,
  ⟨0x4054, 0x0, 1, 0x0, 1, 0x0, 0x3FFFFFFF, 0x0, false, false⟩,
  ⟨0x4058, 0x0, 1, 0x0, 1, 0x0, 0xFFFFFFFF, 0x0, false, false⟩,
  ⟨0x405C, 0x0, 1, 0x0, 1, 0x0, 0xFFFF, 0x0, false, false⟩,
  ⟨0x4060, 0x0, 1, 0x0, 1, 0x0, 0x0, 0x0, true, false⟩,
  ⟨0x4064, 0x0, 1, 0x0, 1, 0x3E8, 0x3FFFFFFF, 0x0, false, false⟩,
  ⟨0x4068, 0x0, 1, 0x0, 1, 0xFFFFFFFF, 0x0, 0x0, true, false⟩,
  ⟨0x406C, 0x0, 1, 0x0, 1, 0x0, 0xFFFF0000, 0x0, false, true⟩,
  ⟨0x4070, 0x0, 1, 0x0, 1, 0x0, 0x3FFFF, 0x0, false, true⟩,
  ⟨0x4074, 0x0, 1, 0x0, 1, 0x0, 0xFFFFFFFF, 0x0, false, false⟩,
  ⟨0x4080, 0x0, 1, 0x0, 1, 0x0, 0x0, 0x0, false, false⟩,
  ⟨0x4084, 0x0, 1, 0x0, 1, 0x0, 0x0, 0x0, false, false⟩,
  ⟨0x4088, 0x0, 1, 0x0, 1, 0x0, 0x0, 0x0, false, false⟩,
  ⟨0x408C, 0x0, 1, 0x0, 1, 0x0, 0x0, 0x0, false, false⟩,
  ⟨0x40A0, 0x0, 1, 0x0, 1, 0x0, 0x0, 0x0, true, true⟩,
  ⟨0x40A4, 0x0, 1, 0x0, 1, 0x0, 0xFFFF3FFF, 0x0, false, true⟩,
  ⟨0x40A8, 0x0, 1, 0x0, 1, 0x0, 0x0, 0x0, false, false⟩,
  ⟨0x40AC, 0x0, 1, 0x0, 1, 0x2FAF080, 0x0, 0x0, false, false⟩,
  ⟨0x40B0, 0x0, 1, 0x0, 1, 0x0, 0x0, 0x0, false, false⟩,
  ⟨0x4100, 0x0, 1, 0x0, 1, 0x0, 0x1FF, 0x0, false, false⟩,
  ⟨0x4104, 0x4, 6, 0x0, 1, 0x0, 0xFFFFFFFF, 0x0, false, false⟩,
  ⟨0x411C, 0x0, 1, 0x0, 1, 0x0, 0x0, 0x0, true, false⟩,
  ⟨0x4120, 0x0, 1, 0x0, 1, 0x0, 0x0, 0x0, false, false⟩]

/-! Registers of 15_ledger_calendar.md (R383). -/
abbrev CAL_CFG : Nat := 0x6000
abbrev CAL_STATUS : Nat := 0x6004
abbrev CAL_INT : Nat := 0x6008
abbrev CAL_INT_EN : Nat := 0x600C
abbrev CAL_TICK_LO : Nat := 0x6010
abbrev CAL_LEG_TIME : Nat := 0x6014
abbrev CAL_LEG_DATE : Nat := 0x6018
abbrev CAL_TICK_HI : Nat := 0x601C
abbrev CAL_STG_TIME : Nat := 0x6020
abbrev CAL_STG_DATE : Nat := 0x6024
abbrev CAL_COMMIT : Nat := 0x6028
abbrev CAL_REF_CMD : Nat := 0x6030
abbrev CAL_REF_TICK_LO : Nat := 0x6034
abbrev CAL_REF_TICK_HI : Nat := 0x6038
abbrev CAL_REF_NS : Nat := 0x603C
abbrev CAL_REF_SEC_LO : Nat := 0x6040
abbrev CAL_REF_SEC_HI : Nat := 0x6044
abbrev CAL_VBAT_TICK_LO : Nat := 0x6050
abbrev CAL_VBAT_TICK_HI : Nat := 0x6054
abbrev CAL_VBAT_CNT : Nat := 0x6058

def regsCAL4a : List RegRow := [
  ⟨0x6000, 0x0, 1, 0x0, 1, 0x0, 0x0, 0x0, false, true⟩,
  ⟨0x6004, 0x0, 1, 0x0, 1, 0x0, 0x0, 0x14, false, false⟩,
  ⟨0x6008, 0x0, 1, 0x0, 1, 0x0, 0x0, 0xF, false, false⟩,
  ⟨0x600C, 0x0, 1, 0x0, 1, 0x0, 0xF, 0x0, false, false⟩,
  ⟨0x6010, 0x0, 1, 0x0, 1, 0x0, 0x0, 0x0, true, false⟩,
  ⟨0x6014, 0x0, 1, 0x0, 1, 0x0, 0x0, 0x0, true, false⟩,
  ⟨0x6018, 0x0, 1, 0x0, 1, 0x101, 0x0, 0x0, true, false⟩,
  ⟨0x601C, 0x0, 1, 0x0, 1, 0x0, 0x0, 0x0, true, false⟩,
  ⟨0x6020, 0x0, 1, 0x0, 1, 0x0, 0xFFFFFFFF, 0x0, false, false⟩,
  ⟨0x6024, 0x0, 1, 0x0, 1, 0x0, 0xFFFFFFFF, 0x0, false, false⟩,
  ⟨0x6028, 0x0, 1, 0x0, 1, 0x0, 0x0, 0x0, true, false⟩,
  ⟨0x6030, 0x0, 1, 0x0, 1, 0x0, 0x0, 0x0, true, false⟩,
  ⟨0x6034, 0x0, 1, 0x0, 1, 0x0, 0x0, 0x0, false, false⟩,
  ⟨0x6038, 0x0, 1, 0x0, 1, 0x0, 0x0, 0x0, false, false⟩,
  ⟨0x603C, 0x0, 1, 0x0, 1, 0x0, 0x0, 0x0, false, false⟩,
  ⟨0x6040, 0x0, 1, 0x0, 1, 0x0, 0x0, 0x0, false, false⟩,
  ⟨0x6044, 0x0, 1, 0x0, 1, 0x0, 0x0, 0x0, false, false⟩,
  ⟨0x6050, 0x0, 1, 0x0, 1, 0x0, 0x0, 0x0, false, false⟩,
  ⟨0x6054, 0x0, 1, 0x0, 1, 0x0, 0x0, 0x0, false, false⟩,
  ⟨0x6058, 0x0, 1, 0x0, 1, 0x0, 0x0, 0x0, false, false⟩]

/-! Registers of 03_ports.md (R65). -/
abbrev PRT_CFG (i : Nat) : Nat := 0x10000 + 0x400 * i
abbrev PRT_STATUS (i : Nat) : Nat := 0x10004 + 0x400 * i
abbrev PRT_INT (i : Nat) : Nat := 0x10008 + 0x400 * i
abbrev PRT_INT_EN (i : Nat) : Nat := 0x1000C + 0x400 * i
abbrev PRT_PFC (i : Nat) : Nat := 0x10010 + 0x400 * i
abbrev PRT_EEE (i : Nat) : Nat := 0x10014 + 0x400 * i
abbrev PRT_RX_BASE (i : Nat) : Nat := 0x10020 + 0x400 * i
abbrev PRT_RX_CTRL (i : Nat) : Nat := 0x10024 + 0x400 * i
abbrev PRT_RX_HEAD (i : Nat) : Nat := 0x10028 + 0x400 * i
abbrev PRT_RX_TAIL (i : Nat) : Nat := 0x1002C + 0x400 * i
abbrev PRT_TSQ_W (i : Nat) (j : Nat) : Nat := 0x10040 + 0x400 * i + 0x4 * j
abbrev PRT_TSQ_STAT (i : Nat) : Nat := 0x10050 + 0x400 * i
abbrev PRT_SNAP (i : Nat) : Nat := 0x10060 + 0x400 * i
abbrev PRT_SNAP_SEQ (i : Nat) : Nat := 0x10064 + 0x400 * i
abbrev PRT_SNAP_NS (i : Nat) : Nat := 0x10068 + 0x400 * i
abbrev PRT_SNAP_SEC (i : Nat) : Nat := 0x1006C + 0x400 * i
abbrev PRT_VID (i : Nat) (j : Nat) : Nat := 0x10080 + 0x400 * i + 0x4 * j
abbrev PRT_STAT (i : Nat) (j : Nat) : Nat := 0x10100 + 0x400 * i + 0x4 * j

def regsPRT5a : List RegRow := [
  ⟨0x10000, 0x400, 64, 0x0, 1, 0x0, 0x0, 0x0, false, true⟩,
  ⟨0x10004, 0x400, 64, 0x0, 1, 0x0, 0x0, 0x0, false, false⟩,
  ⟨0x10008, 0x400, 64, 0x0, 1, 0x0, 0x0, 0x1FF, false, false⟩,
  ⟨0x1000C, 0x400, 64, 0x0, 1, 0x0, 0x1FF, 0x0, false, false⟩,
  ⟨0x10010, 0x400, 64, 0x0, 1, 0x0, 0x0, 0x0, false, true⟩,
  ⟨0x10014, 0x400, 64, 0x0, 1, 0x0, 0x0, 0x0, true, true⟩,
  ⟨0x10020, 0x400, 64, 0x0, 1, 0x0, 0x7FFFFC0, 0x0, false, false⟩,
  ⟨0x10024, 0x400, 64, 0x0, 1, 0x0, 0xFF00, 0x0, false, false⟩,
  ⟨0x10028, 0x400, 64, 0x0, 1, 0x0, 0x0, 0x0, false, false⟩,
  ⟨0x1002C, 0x400, 64, 0x0, 1, 0x0, 0x0, 0x0, true, false⟩,
  ⟨0x10040, 0x400, 64, 0x4, 4, 0x0, 0x0, 0x0, true, false⟩,
  ⟨0x10050, 0x400, 64, 0x0, 1, 0x0, 0x0, 0x100, false, false⟩,
  ⟨0x10060, 0x400, 64, 0x0, 1, 0x0, 0x0, 0x0, true, false⟩,
  ⟨0x10064, 0x400, 64, 0x0, 1, 0x0, 0x0, 0x0, false, false⟩,
  ⟨0x10068, 0x400, 64, 0x0, 1, 0x0, 0x0, 0x0, false, false⟩,
  ⟨0x1006C, 0x400, 64, 0x0, 1, 0x0, 0x0, 0x0, false, false⟩,
  ⟨0x10080, 0x400, 64, 0x4, 8, 0x0, 0x0, 0x0, false, true⟩,
  ⟨0x10100, 0x400, 64, 0x4, 96, 0x0, 0x0, 0x0, false, false⟩]

/-! Registers of 04_ingest.md (R93). -/
abbrev ING_CFG : Nat := 0x20000
abbrev ING_STATUS : Nat := 0x20004
abbrev ING_INT : Nat := 0x20008
abbrev ING_INT_EN : Nat := 0x2000C
abbrev ING_TIMECHK : Nat := 0x20010
abbrev ING_LAT_CTRL : Nat := 0x20014
abbrev ING_SNAP : Nat := 0x20018
abbrev ING_SNAP_SEQ : Nat := 0x2001C
abbrev ING_UNK (i : Nat) : Nat := 0x20020 + 0x4 * i
abbrev ING_STREAM_IDX : Nat := 0x20040
abbrev ING_STREAM_CMD : Nat := 0x20044
abbrev ING_STREAM_STAT : Nat := 0x20048
abbrev ING_STREAM_W (i : Nat) : Nat := 0x20050 + 0x4 * i
abbrev ING_REJ (i : Nat) : Nat := 0x20100 + 0x4 * i
abbrev ING_PIPE (i : Nat) : Nat := 0x20200 + 0x4 * i
abbrev ING_HIST (i : Nat) : Nat := 0x20300 + 0x4 * i

def regsING6a : List RegRow := [
  ⟨0x20000, 0x0, 1, 0x0, 1, 0x40, 0x0, 0x0, false, true⟩,
  ⟨0x20004, 0x0, 1, 0x0, 1, 0x0, 0x0, 0x0, false, false⟩,
  ⟨0x20008, 0x0, 1, 0x0, 1, 0x0, 0x0, 0x7F, false, false⟩,
  ⟨0x2000C, 0x0, 1, 0x0, 1, 0x0, 0x7F, 0x0, false, false⟩,
  ⟨0x20010, 0x0, 1, 0x0, 1, 0x32, 0xFFFF, 0x0, false, false⟩,
  ⟨0x20014, 0x0, 1, 0x0, 1, 0x0, 0xFFFF, 0x0, false, true⟩,
  ⟨0x20018, 0x0, 1, 0x0, 1, 0x0, 0x0, 0x0, true, false⟩,
  ⟨0x2001C, 0x0, 1, 0x0, 1, 0x0, 0x0, 0x0, false, false⟩,
  ⟨0x20020, 0x4, 2, 0x0, 1, 0x0, 0x0, 0x0, false, false⟩,
  ⟨0x20040, 0x0, 1, 0x0, 1, 0x0, 0x3FFF, 0x0, false, false⟩,
  ⟨0x20044, 0x0, 1, 0x0, 1, 0x0, 0x0, 0x0, true, false⟩,
  ⟨0x20048, 0x0, 1, 0x0, 1, 0x0, 0x0, 0x0, false, false⟩,
  ⟨0x20050, 0x4, 8, 0x0, 1, 0x0, 0x0, 0x0, false, false⟩,
  ⟨0x20100, 0x4, 34, 0x0, 1, 0x0, 0x0, 0x0, false, false⟩,
  ⟨0x20200, 0x4, 8, 0x0, 1, 0x0, 0x0, 0x0, false, false⟩,
  ⟨0x20300, 0x4, 48, 0x0, 1, 0x0, 0x0, 0x0, false, false⟩]

/-! Registers of 05_market_alignment.md (R116). -/
abbrev MKT_CFG : Nat := 0x28000
abbrev MKT_STATUS : Nat := 0x28004
abbrev MKT_INT : Nat := 0x28008
abbrev MKT_INT_EN : Nat := 0x2800C
abbrev MKT_REV : Nat := 0x28010
abbrev MKT_SNAP : Nat := 0x28020
abbrev MKT_SNAP_SEQ : Nat := 0x28024
abbrev MKT_CLS_LIM (i : Nat) : Nat := 0x28040 + 0x10 * i
abbrev MKT_CLS_BELL (i : Nat) : Nat := 0x28044 + 0x10 * i
abbrev MKT_CLS_LEARN (i : Nat) : Nat := 0x28048 + 0x10 * i
abbrev MKT_CLS_STAT (i : Nat) : Nat := 0x2804C + 0x10 * i
abbrev MKT_CLS_IDX : Nat := 0x280C0
abbrev MKT_CLS_CMD : Nat := 0x280C4
abbrev MKT_CLS_COUNT : Nat := 0x280C8
abbrev MKT_CLS_HIST (i : Nat) : Nat := 0x28100 + 0x4 * i
abbrev MKT_CNT (i : Nat) : Nat := 0x28300 + 0x4 * i
abbrev MKT_RIB_CFG : Nat := 0x28400
abbrev MKT_RIB_SPAN : Nat := 0x28404
abbrev MKT_RIB_OLD_LO : Nat := 0x28408
abbrev MKT_RIB_OLD_HI : Nat := 0x2840C
abbrev MKT_TW_INST_LO : Nat := 0x28500
abbrev MKT_TW_INST_HI : Nat := 0x28504
abbrev MKT_TW_CMD : Nat := 0x28508
abbrev MKT_TW_STAT : Nat := 0x2850C
abbrev MKT_RIB_INST_LO : Nat := 0x28520
abbrev MKT_RIB_INST_HI : Nat := 0x28524
abbrev MKT_RIB_CMD : Nat := 0x28528
abbrev MKT_RIB_RSTAT : Nat := 0x2852C

def regsMKT7a : List RegRow := [
  ⟨0x28000, 0x0, 1, 0x0, 1, 0x0, 0x0, 0x0, false, true⟩,
  ⟨0x28004, 0x0, 1, 0x0, 1, 0x0, 0x0, 0x0, false, false⟩,
  ⟨0x28008, 0x0, 1, 0x0, 1, 0x0, 0x0, 0xFF, false, false⟩,
  ⟨0x2800C, 0x0, 1, 0x0, 1, 0x0, 0xFF, 0x0, false, false⟩,
  ⟨0x28010, 0x0, 1, 0x0, 1, 0x3E8, 0x3FFF, 0x0, false, false⟩,
  ⟨0x28020, 0x0, 1, 0x0, 1, 0x0, 0x0, 0x0, true, false⟩,
  ⟨0x28024, 0x0, 1, 0x0, 1, 0x0, 0x0, 0x0, false, false⟩,
  ⟨0x28040, 0x10, 8, 0x0, 1, 0x0, 0x0, 0x0, false, true⟩,
  ⟨0x28044, 0x10, 8, 0x0, 1, 0x0, 0x0, 0x0, true, true⟩,
  ⟨0x28048, 0x10, 8, 0x0, 1, 0x0, 0x0, 0x0, false, true⟩,
  ⟨0x2804C, 0x10, 8, 0x0, 1, 0x0, 0x0, 0x0, false, true⟩,
  ⟨0x280C0, 0x0, 1, 0x0, 1, 0x0, 0x7, 0x0, false, false⟩,
  ⟨0x280C4, 0x0, 1, 0x0, 1, 0x0, 0x0, 0x0, true, false⟩,
  ⟨0x280C8, 0x0, 1, 0x0, 1, 0x0, 0x0, 0x0, false, false⟩,
  ⟨0x28100, 0x4, 48, 0x0, 1, 0x0, 0x0, 0x0, false, false⟩,
  ⟨0x28300, 0x4, 32, 0x0, 1, 0x0, 0x0, 0x0, false, false⟩,
  ⟨0x28400, 0x0, 1, 0x0, 1, 0x0, 0x0, 0x0, false, true⟩,
  ⟨0x28404, 0x0, 1, 0x0, 1, 0x0, 0x0, 0x0, false, false⟩,
  ⟨0x28408, 0x0, 1, 0x0, 1, 0x0, 0x0, 0x0, false, false⟩,
  ⟨0x2840C, 0x0, 1, 0x0, 1, 0x0, 0x0, 0x0, false, false⟩,
  ⟨0x28500, 0x0, 1, 0x0, 1, 0x0, 0xFFFFFFFF, 0x0, false, false⟩,
  ⟨0x28504, 0x0, 1, 0x0, 1, 0x0, 0xFFFFFFFF, 0x0, false, false⟩,
  ⟨0x28508, 0x0, 1, 0x0, 1, 0x0, 0x0, 0x0, true, false⟩,
  ⟨0x2850C, 0x0, 1, 0x0, 1, 0x0, 0x0, 0x0, false, false⟩,
  ⟨0x28520, 0x0, 1, 0x0, 1, 0x0, 0xFFFFFFFF, 0x0, false, false⟩,
  ⟨0x28524, 0x0, 1, 0x0, 1, 0x0, 0xFFFFFFFF, 0x0, false, false⟩,
  ⟨0x28528, 0x0, 1, 0x0, 1, 0x0, 0x0, 0x0, true, false⟩,
  ⟨0x2852C, 0x0, 1, 0x0, 1, 0x0, 0x0, 0x0, false, false⟩]

/-! Registers of 06_scales_acquisition.md (R150). -/
abbrev SCL_CFG : Nat := 0x30000
abbrev SCL_STATUS : Nat := 0x30004
abbrev SCL_INT : Nat := 0x30008
abbrev SCL_INT_EN : Nat := 0x3000C
abbrev SCL_SYNC : Nat := 0x30010
abbrev SCL_SYNC_NS : Nat := 0x30014
abbrev SCL_SYNC_SEC : Nat := 0x30018
abbrev SCL_CAL_APPLY : Nat := 0x30020
abbrev SCL_CAL_STAT : Nat := 0x30024
abbrev SCL_CAL_PEND : Nat := 0x30028
abbrev SCL_CH_CFG (i : Nat) : Nat := 0x30100 + 0x20 * i
abbrev SCL_CH_STAT (i : Nat) : Nat := 0x30104 + 0x20 * i
abbrev SCL_CH_UGAIN (i : Nat) : Nat := 0x30108 + 0x20 * i
abbrev SCL_CH_UOFS (i : Nat) : Nat := 0x3010C + 0x20 * i
abbrev SCL_CH_UDLY (i : Nat) : Nat := 0x30110 + 0x20 * i
abbrev SCL_CH_FDLY (i : Nat) : Nat := 0x30114 + 0x20 * i
abbrev SCL_CH_RMS (i : Nat) : Nat := 0x30118 + 0x20 * i
abbrev SCL_FCAL_IDX : Nat := 0x30400
abbrev SCL_FCAL_W (i : Nat) : Nat := 0x30404 + 0x4 * i
abbrev SCL_FCAL_STAT : Nat := 0x30418
abbrev SCL_PQ_IDX : Nat := 0x30440
abbrev SCL_PQ_MAG : Nat := 0x30444
abbrev SCL_PQ_PH : Nat := 0x30448
abbrev SCL_PQ_CMD : Nat := 0x3044C
abbrev SCL_PQ_STAT : Nat := 0x30450
abbrev SCL_SV_IDX : Nat := 0x30500
abbrev SCL_SV_CFG : Nat := 0x30504
abbrev SCL_SV_GAPS : Nat := 0x30508
abbrev SCL_SV_INTERP : Nat := 0x3050C
abbrev SCL_SV_LATE : Nat := 0x30510
abbrev SCL_LS_IDX : Nat := 0x30600
abbrev SCL_LS_INFO : Nat := 0x30604
abbrev SCL_LS_LAT : Nat := 0x30608
abbrev SCL_LS_STAT : Nat := 0x3060C

def regsSCL8a : List RegRow := [
  ⟨0x30000, 0x0, 1, 0x0, 1, 0x0, 0x0, 0x0, false, true⟩,
  ⟨0x30004, 0x0, 1, 0x0, 1, 0x0, 0x0, 0x0, false, false⟩,
  ⟨0x30008, 0x0, 1, 0x0, 1, 0x0, 0x0, 0x1FF, false, false⟩,
  ⟨0x3000C, 0x0, 1, 0x0, 1, 0x0, 0x1FF, 0x0, false, false⟩,
  ⟨0x30010, 0x0, 1, 0x0, 1, 0x0, 0x0, 0x0, true, false⟩,
  ⟨0x30014, 0x0, 1, 0x0, 1, 0x0, 0x0, 0x0, false, false⟩,
  ⟨0x30018, 0x0, 1, 0x0, 1, 0x0, 0x0, 0x0, false, false⟩,
  ⟨0x30020, 0x0, 1, 0x0, 1, 0x0, 0x0, 0x0, true, false⟩,
  ⟨0x30024, 0x0, 1, 0x0, 1, 0x0, 0x0, 0x0, false, false⟩,
  ⟨0x30028, 0x0, 1, 0x0, 1, 0x0, 0x0, 0x0, false, false⟩,
  ⟨0x30100, 0x20, 24, 0x0, 1, 0x0, 0x0, 0x0, false, true⟩,
  ⟨0x30104, 0x20, 24, 0x0, 1, 0x0, 0x0, 0xA, false, false⟩,
  ⟨0x30108, 0x20, 24, 0x0, 1, 0x0, 0xFFFFFFFF, 0x0, false, true⟩,
  ⟨0x3010C, 0x20, 24, 0x0, 1, 0x0, 0xFFFFFFFF, 0x0, false, true⟩,
  ⟨0x30110, 0x20, 24, 0x0, 1, 0x0, 0x3FFF, 0x0, false, true⟩,
  ⟨0x30114, 0x20, 24, 0x0, 1, 0x0, 0x0, 0x0, false, true⟩,
  ⟨0x30118, 0x20, 24, 0x0, 1, 0x0, 0x0, 0x0, false, false⟩,
  ⟨0x30400, 0x0, 1, 0x0, 1, 0x0, 0x0, 0x0, true, false⟩,
  ⟨0x30404, 0x4, 5, 0x0, 1, 0x0, 0x0, 0x0, false, false⟩,
  ⟨0x30418, 0x0, 1, 0x0, 1, 0x0, 0x0, 0x0, false, false⟩,
  ⟨0x30440, 0x0, 1, 0x0, 1, 0x0, 0x3FF, 0x0, false, false⟩,
  ⟨0x30444, 0x0, 1, 0x0, 1, 0x0, 0xFFFFFFFF, 0x0, false, false⟩,
  ⟨0x30448, 0x0, 1, 0x0, 1, 0x0, 0xFFFFFFFF, 0x0, false, false⟩,
  ⟨0x3044C, 0x0, 1, 0x0, 1, 0x0, 0x0, 0x0, true, false⟩,
  ⟨0x30450, 0x0, 1, 0x0, 1, 0x0, 0x0, 0x0, false, false⟩,
  ⟨0x30500, 0x0, 1, 0x0, 1, 0x0, 0x3F, 0x0, false, false⟩,
  ⟨0x30504, 0x0, 1, 0x0, 1, 0x0, 0x0, 0x0, true, false⟩,
  ⟨0x30508, 0x0, 1, 0x0, 1, 0x0, 0x0, 0x0, true, false⟩,
  ⟨0x3050C, 0x0, 1, 0x0, 1, 0x0, 0x0, 0x0, true, false⟩,
  ⟨0x30510, 0x0, 1, 0x0, 1, 0x0, 0x0, 0x0, true, false⟩,
  ⟨0x30600, 0x0, 1, 0x0, 1, 0x0, 0x3F, 0x0, false, false⟩,
  ⟨0x30604, 0x0, 1, 0x0, 1, 0x0, 0x0, 0x0, true, false⟩,
  ⟨0x30608, 0x0, 1, 0x0, 1, 0x0, 0x0, 0x0, true, false⟩,
  ⟨0x3060C, 0x0, 1, 0x0, 1, 0x0, 0x0, 0x0, true, false⟩]

/-! Registers of 07_scales_energy.md (R179). -/
abbrev SCL_EN_CFG : Nat := 0x31000
abbrev SCL_EN_SAVE : Nat := 0x31004
abbrev SCL_EN_STATUS : Nat := 0x31008
abbrev SCL_EN_INT : Nat := 0x3100C
abbrev SCL_EN_INT_EN : Nat := 0x31010
abbrev SCL_EN_SAVE_STAT : Nat := 0x31014
abbrev SCL_EN_SNAP : Nat := 0x31018
abbrev SCL_EN_SNAP_SEQ : Nat := 0x3101C
abbrev SCL_EN_SNAP_NS : Nat := 0x31020
abbrev SCL_EN_SNAP_SEC : Nat := 0x31024
abbrev PT_CFG (i : Nat) : Nat := 0x31100 + 0x80 * i
abbrev PT_VFS (i : Nat) : Nat := 0x31104 + 0x80 * i
abbrev PT_IFS (i : Nat) : Nat := 0x31108 + 0x80 * i
abbrev PT_CREEP (i : Nat) : Nat := 0x3110C + 0x80 * i
abbrev PT_CHK (i : Nat) : Nat := 0x31110 + 0x80 * i
abbrev PT_STAT (i : Nat) : Nat := 0x31114 + 0x80 * i
abbrev PT_P (i : Nat) : Nat := 0x31118 + 0x80 * i
abbrev PT_Q (i : Nat) : Nat := 0x3111C + 0x80 * i
abbrev PT_AH (i : Nat) (j : Nat) : Nat := 0x31120 + 0x80 * i + 0x4 * j
abbrev PT_ACC (i : Nat) (j : Nat) : Nat := 0x31140 + 0x80 * i + 0x4 * j

def regsSCL9a : List RegRow := [
  ⟨0x31000, 0x0, 1, 0x0, 1, 0x0, 0x0, 0x0, false, true⟩,
  ⟨0x31004, 0x0, 1, 0x0, 1, 0x0, 0xFFF, 0x0, false, true⟩,
  ⟨0x31008, 0x0, 1, 0x0, 1, 0x0, 0x0, 0x0, false, false⟩,
  ⟨0x3100C, 0x0, 1, 0x0, 1, 0x0, 0x0, 0x1FF, false, false⟩,
  ⟨0x31010, 0x0, 1, 0x0, 1, 0x0, 0x1FF, 0x0, false, false⟩,
  ⟨0x31014, 0x0, 1, 0x0, 1, 0x0, 0x0, 0x0, false, false⟩,
  ⟨0x31018, 0x0, 1, 0x0, 1, 0x0, 0x0, 0x0, true, false⟩,
  ⟨0x3101C, 0x0, 1, 0x0, 1, 0x0, 0x0, 0x0, false, false⟩,
  ⟨0x31020, 0x0, 1, 0x0, 1, 0x0, 0x0, 0x0, false, false⟩,
  ⟨0x31024, 0x0, 1, 0x0, 1, 0x0, 0x0, 0x0, false, false⟩,
  ⟨0x31100, 0x80, 8, 0x0, 1, 0x0, 0x0, 0x0, false, true⟩,
  ⟨0x31104, 0x80, 8, 0x0, 1, 0x0, 0x0, 0x0, false, true⟩,
  ⟨0x31108, 0x80, 8, 0x0, 1, 0x0, 0x0, 0x0, false, true⟩,
  ⟨0x3110C, 0x80, 8, 0x0, 1, 0x0, 0x0, 0x0, false, true⟩,
  ⟨0x31110, 0x80, 8, 0x0, 1, 0x0, 0x0, 0x0, false, true⟩,
  ⟨0x31114, 0x80, 8, 0x0, 1, 0x0, 0x0, 0x7E00, false, false⟩,
  ⟨0x31118, 0x80, 8, 0x0, 1, 0x0, 0x0, 0x0, false, false⟩,
  ⟨0x3111C, 0x80, 8, 0x0, 1, 0x0, 0x0, 0x0, false, false⟩,
  ⟨0x31120, 0x80, 8, 0x4, 6, 0x0, 0x0, 0x0, false, false⟩,
  ⟨0x31140, 0x80, 8, 0x4, 16, 0x0, 0x0, 0x0, false, false⟩]

/-! Registers of 08_capture.md (R199). -/
abbrev CAP_CFG : Nat := 0x38000
abbrev CAP_RATE : Nat := 0x38004
abbrev CAP_LEN : Nat := 0x38008
abbrev CAP_MAXLEN : Nat := 0x3800C
abbrev CAP_LAT : Nat := 0x38010
abbrev CAP_CTRL : Nat := 0x38014
abbrev CAP_STATUS : Nat := 0x38018
abbrev CAP_INT : Nat := 0x3801C
abbrev CAP_INT_EN : Nat := 0x38020
abbrev CAP_SNAP : Nat := 0x38024
abbrev CAP_SNAP_SEQ : Nat := 0x38028
abbrev CAP_DEAD : Nat := 0x3802C
abbrev CAP_DEAD_MAX : Nat := 0x38030
abbrev CAP_CNT (i : Nat) : Nat := 0x38040 + 0x4 * i
abbrev CAP_SA (i : Nat) : Nat := 0x38100 + 0x10 * i
abbrev CAP_SB (i : Nat) : Nat := 0x38104 + 0x10 * i
abbrev CAP_ST (i : Nat) : Nat := 0x38108 + 0x10 * i
abbrev CAP_SX (i : Nat) : Nat := 0x3810C + 0x10 * i
abbrev CAP_TERM (i : Nat) : Nat := 0x38200 + 0x4 * i
abbrev CAP_TH_CFG (i : Nat) : Nat := 0x38300 + 0x8 * i
abbrev CAP_TH_LVL (i : Nat) : Nat := 0x38304 + 0x8 * i
abbrev CAP_DIN : Nat := 0x38400
abbrev CAP_AL (i : Nat) : Nat := 0x38440 + 0x4 * i
abbrev CAP_BELL_CFG : Nat := 0x38500
abbrev CAP_BELL_DLY (i : Nat) : Nat := 0x38504 + 0x4 * i
abbrev CAP_BELL_NS (i : Nat) : Nat := 0x38510 + 0x8 * i
abbrev CAP_BELL_SEC (i : Nat) : Nat := 0x38514 + 0x8 * i
abbrev CAP_BELL_TEST : Nat := 0x38520
abbrev CAP_BELL_TNS : Nat := 0x38524
abbrev CAP_BELL_TSEC : Nat := 0x38528
abbrev CAP_STORE : Nat := 0x38600
abbrev CAP_REC_OLD : Nat := 0x38604
abbrev CAP_REC_NEW : Nat := 0x38608
abbrev CAP_REC_IDX : Nat := 0x3860C
abbrev CAP_REC_CMD : Nat := 0x38610
abbrev CAP_REC_STAT : Nat := 0x38614
abbrev CAP_REC_HDR (i : Nat) : Nat := 0x38640 + 0x4 * i

def regsCAP10a : List RegRow := [
  ⟨0x38000, 0x0, 1, 0x0, 1, 0x0, 0x0, 0x0, false, true⟩,
  ⟨0x38004, 0x0, 1, 0x0, 1, 0x0, 0x0, 0x0, false, true⟩,
  ⟨0x38008, 0x0, 1, 0x0, 1, 0x0, 0x0, 0x0, false, true⟩,
  ⟨0x3800C, 0x0, 1, 0x0, 1, 0x0, 0x0, 0x0, false, true⟩,
  ⟨0x38010, 0x0, 1, 0x0, 1, 0x0, 0x0, 0x0, false, true⟩,
  ⟨0x38014, 0x0, 1, 0x0, 1, 0x0, 0x0, 0x0, true, true⟩,
  ⟨0x38018, 0x0, 1, 0x0, 1, 0x0, 0x0, 0x0, false, false⟩,
  ⟨0x3801C, 0x0, 1, 0x0, 1, 0x0, 0x0, 0x7F, false, false⟩,
  ⟨0x38020, 0x0, 1, 0x0, 1, 0x0, 0x7F, 0x0, false, false⟩,
  ⟨0x38024, 0x0, 1, 0x0, 1, 0x0, 0x0, 0x0, true, false⟩,
  ⟨0x38028, 0x0, 1, 0x0, 1, 0x0, 0x0, 0x0, false, false⟩,
  ⟨0x3802C, 0x0, 1, 0x0, 1, 0x0, 0x0, 0x0, false, false⟩,
  ⟨0x38030, 0x0, 1, 0x0, 1, 0x0, 0x0, 0x0, false, false⟩,
  ⟨0x38040, 0x4, 16, 0x0, 1, 0x0, 0x0, 0x0, false, false⟩,
  ⟨0x38100, 0x10, 8, 0x0, 1, 0x0, 0x0, 0x0, false, true⟩,
  ⟨0x38104, 0x10, 8, 0x0, 1, 0x0, 0x0, 0x0, false, true⟩,
  ⟨0x38108, 0x10, 8, 0x0, 1, 0x0, 0x0, 0x0, false, true⟩,
  ⟨0x3810C, 0x10, 8, 0x0, 1, 0x0, 0x0, 0x0, false, true⟩,
  ⟨0x38200, 0x4, 16, 0x0, 1, 0x0, 0x0, 0x0, false, true⟩,
  ⟨0x38300, 0x8, 32, 0x0, 1, 0x0, 0x0, 0x0, false, true⟩,
  ⟨0x38304, 0x8, 32, 0x0, 1, 0x0, 0x0, 0x0, true, true⟩,
  ⟨0x38400, 0x0, 1, 0x0, 1, 0x0, 0x0, 0x0, false, true⟩,
  ⟨0x38440, 0x4, 32, 0x0, 1, 0x0, 0x0, 0x0, false, true⟩,
  ⟨0x38500, 0x0, 1, 0x0, 1, 0x0, 0x0, 0x0, false, true⟩,
  ⟨0x38504, 0x4, 2, 0x0, 1, 0x0, 0x3FFF, 0x0, false, true⟩,
  ⟨0x38510, 0x8, 2, 0x0, 1, 0x0, 0x0, 0x0, false, false⟩,
  ⟨0x38514, 0x8, 2, 0x0, 1, 0x0, 0x0, 0x0, false, false⟩,
  ⟨0x38520, 0x0, 1, 0x0, 1, 0x0, 0x0, 0x0, true, false⟩,
  ⟨0x38524, 0x0, 1, 0x0, 1, 0x0, 0x3FFFFFFF, 0x0, false, false⟩,
  ⟨0x38528, 0x0, 1, 0x0, 1, 0x0, 0xFFFFFFFF, 0x0, false, false⟩,
  ⟨0x38600, 0x0, 1, 0x0, 1, 0x3000000, 0x0, 0x0, false, false⟩,
  ⟨0x38604, 0x0, 1, 0x0, 1, 0x0, 0x0, 0x0, false, false⟩,
  ⟨0x38608, 0x0, 1, 0x0, 1, 0x0, 0x0, 0x0, false, false⟩,
  ⟨0x3860C, 0x0, 1, 0x0, 1, 0x0, 0xFFFFFFFF, 0x0, false, false⟩,
  ⟨0x38610, 0x0, 1, 0x0, 1, 0x0, 0x0, 0x0, true, false⟩,
  ⟨0x38614, 0x0, 1, 0x0, 1, 0x0, 0x0, 0x0, false, false⟩,
  ⟨0x38640, 0x4, 16, 0x0, 1, 0x0, 0x0, 0x0, false, false⟩]

/-! Registers of 09_crowsnest_oscillation.md (R226). -/
abbrev NST_OSC_CFG : Nat := 0x40000
abbrev NST_OSC_STATUS : Nat := 0x40004
abbrev NST_OSC_INT : Nat := 0x40008
abbrev NST_OSC_INT_EN : Nat := 0x4000C
abbrev NST_EM_BAND : Nat := 0x40010
abbrev NST_EM_MEM : Nat := 0x40014
abbrev NST_THR_EM : Nat := 0x40018
abbrev NST_THR_FAST : Nat := 0x4001C
abbrev NST_FAST_CFG : Nat := 0x40020
abbrev NST_FAST_DF : Nat := 0x40024
abbrev NST_AMP_CFG : Nat := 0x40028
abbrev NST_BASE : Nat := 0x40030
abbrev NST_SEED_STAT : Nat := 0x40034
abbrev NST_SEED_CFG : Nat := 0x40038
abbrev NST_MODE_IDX : Nat := 0x40040
abbrev NST_MODE_CMD : Nat := 0x40044
abbrev NST_MODE_STAT : Nat := 0x40048
abbrev NST_MODE_W (i : Nat) : Nat := 0x40050 + 0x4 * i
abbrev NST_SIG_IDX : Nat := 0x40080
abbrev NST_SIG_W (i : Nat) : Nat := 0x40084 + 0x4 * i
abbrev NST_LOC (i : Nat) (j : Nat) : Nat := 0x400A0 + 0x10 * i + 0x4 * j
abbrev NST_OSC_SNAP : Nat := 0x40100
abbrev NST_OSC_SNAP_SEQ : Nat := 0x40104
abbrev NST_OSC_CNT (i : Nat) : Nat := 0x40140 + 0x4 * i

def regsNST11a : List RegRow := [
  ⟨0x40000, 0x0, 1, 0x0, 1, 0x0, 0x0, 0x0, false, true⟩,
  ⟨0x40004, 0x0, 1, 0x0, 1, 0x0, 0x0, 0x0, false, false⟩,
  ⟨0x40008, 0x0, 1, 0x0, 1, 0x0, 0x0, 0xFFF, false, false⟩,
  ⟨0x4000C, 0x0, 1, 0x0, 1, 0x0, 0xFFF, 0x0, false, false⟩,
  ⟨0x40010, 0x0, 1, 0x0, 1, 0x0, 0x0, 0x0, false, true⟩,
  ⟨0x40014, 0x0, 1, 0x0, 1, 0x0, 0x0, 0x0, false, true⟩,
  ⟨0x40018, 0x0, 1, 0x0, 1, 0x0, 0x7FFFF, 0x0, false, true⟩,
  ⟨0x4001C, 0x0, 1, 0x0, 1, 0x0, 0x7FFFF, 0x0, false, true⟩,
  ⟨0x40020, 0x0, 1, 0x0, 1, 0x0, 0x0, 0x0, false, true⟩,
  ⟨0x40024, 0x0, 1, 0x0, 1, 0x0, 0x0, 0x0, false, true⟩,
  ⟨0x40028, 0x0, 1, 0x0, 1, 0x0, 0x0, 0x0, false, true⟩,
  ⟨0x40030, 0x0, 1, 0x0, 1, 0x384, 0xFFFF, 0x0, false, false⟩,
  ⟨0x40034, 0x0, 1, 0x0, 1, 0x0, 0x0, 0x0, false, false⟩,
  ⟨0x40038, 0x0, 1, 0x0, 1, 0x0, 0x0, 0x0, false, true⟩,
  ⟨0x40040, 0x0, 1, 0x0, 1, 0x0, 0x3F, 0x0, false, false⟩,
  ⟨0x40044, 0x0, 1, 0x0, 1, 0x0, 0x0, 0x0, true, false⟩,
  ⟨0x40048, 0x0, 1, 0x0, 1, 0x0, 0x0, 0x0, false, false⟩,
  ⟨0x40050, 0x4, 8, 0x0, 1, 0x0, 0x0, 0x0, false, false⟩,
  ⟨0x40080, 0x0, 1, 0x0, 1, 0x0, 0x0, 0x0, true, false⟩,
  ⟨0x40084, 0x4, 4, 0x0, 1, 0x0, 0x0, 0x0, false, false⟩,
  ⟨0x400A0, 0x10, 4, 0x4, 4, 0x0, 0x0, 0x0, false, false⟩,
  ⟨0x40100, 0x0, 1, 0x0, 1, 0x0, 0x0, 0x0, true, false⟩,
  ⟨0x40104, 0x0, 1, 0x0, 1, 0x0, 0x0, 0x0, false, false⟩,
  ⟨0x40140, 0x4, 16, 0x0, 1, 0x0, 0x0, 0x0, false, false⟩]

/-! Registers of 10_crowsnest_islands.md (R259). -/
abbrev NST_TOP_SIZE : Nat := 0x41000
abbrev NST_TOP_CFG : Nat := 0x41004
abbrev NST_TOP_STATUS : Nat := 0x41008
abbrev NST_TOP_INT : Nat := 0x4100C
abbrev NST_TOP_INT_EN : Nat := 0x41010
abbrev NST_ISL_THR : Nat := 0x41014
abbrev NST_ISL_SUSP : Nat := 0x41018
abbrev NST_SPLIT_W (i : Nat) : Nat := 0x41020 + 0x4 * i
abbrev NST_BR_IDX : Nat := 0x41040
abbrev NST_BR_ENDS : Nat := 0x41044
abbrev NST_BR_STAT : Nat := 0x41048
abbrev NST_BUS_IDX : Nat := 0x41050
abbrev NST_BUS_STAT : Nat := 0x41054
abbrev NST_ISL_IDX : Nat := 0x41060
abbrev NST_ISL_CMD : Nat := 0x41064
abbrev NST_ISL_STAT : Nat := 0x41068
abbrev NST_ISL_W (i : Nat) : Nat := 0x41070 + 0x4 * i
abbrev NST_TOP_SNAP : Nat := 0x410C0
abbrev NST_TOP_SNAP_SEQ : Nat := 0x410C4
abbrev NST_TOP_CNT (i : Nat) : Nat := 0x41100 + 0x4 * i

def regsNST12a : List RegRow := [
  ⟨0x41000, 0x0, 1, 0x0, 1, 0x0, 0x0, 0x0, false, true⟩,
  ⟨0x41004, 0x0, 1, 0x0, 1, 0x0, 0x0, 0x0, false, true⟩,
  ⟨0x41008, 0x0, 1, 0x0, 1, 0x0, 0x0, 0x0, false, false⟩,
  ⟨0x4100C, 0x0, 1, 0x0, 1, 0x0, 0x0, 0x1FF, false, false⟩,
  ⟨0x41010, 0x0, 1, 0x0, 1, 0x0, 0x1FF, 0x0, false, false⟩,
  ⟨0x41014, 0x0, 1, 0x0, 1, 0x0, 0xFFFFFFF, 0x0, false, true⟩,
  ⟨0x41018, 0x0, 1, 0x0, 1, 0x0, 0x7FFFFF, 0x0, false, true⟩,
  ⟨0x41020, 0x4, 4, 0x0, 1, 0x0, 0x0, 0x0, false, false⟩,
  ⟨0x41040, 0x0, 1, 0x0, 1, 0x0, 0x0, 0x0, true, false⟩,
  ⟨0x41044, 0x0, 1, 0x0, 1, 0x0, 0x0, 0x0, false, false⟩,
  ⟨0x41048, 0x0, 1, 0x0, 1, 0x0, 0x0, 0x0, false, false⟩,
  ⟨0x41050, 0x0, 1, 0x0, 1, 0x0, 0x0, 0x0, true, false⟩,
  ⟨0x41054, 0x0, 1, 0x0, 1, 0x0, 0x0, 0x0, false, false⟩,
  ⟨0x41060, 0x0, 1, 0x0, 1, 0x0, 0xFF, 0x0, false, false⟩,
  ⟨0x41064, 0x0, 1, 0x0, 1, 0x0, 0x0, 0x0, true, false⟩,
  ⟨0x41068, 0x0, 1, 0x0, 1, 0x0, 0x0, 0x0, false, false⟩,
  ⟨0x41070, 0x4, 8, 0x0, 1, 0x0, 0x0, 0x0, false, false⟩,
  ⟨0x410C0, 0x0, 1, 0x0, 1, 0x0, 0x0, 0x0, true, false⟩,
  ⟨0x410C4, 0x0, 1, 0x0, 1, 0x0, 0x0, 0x0, false, false⟩,
  ⟨0x41100, 0x4, 24, 0x0, 1, 0x0, 0x0, 0x0, false, false⟩]

/-! Registers of 11_alarms_egress.md (R282). -/
abbrev EGR_CFG : Nat := 0x48000
abbrev EGR_STATUS : Nat := 0x48004
abbrev EGR_INT : Nat := 0x48008
abbrev EGR_INT_EN : Nat := 0x4800C
abbrev EGR_QINT : Nat := 0x48010
abbrev EGR_QINT_EN : Nat := 0x48014
abbrev EGR_SNAP : Nat := 0x48018
abbrev EGR_SNAP_SEQ : Nat := 0x4801C
abbrev EGR_ALSEQ : Nat := 0x48020
abbrev EGR_RULE_IDX : Nat := 0x48080
abbrev EGR_RULE_CMD : Nat := 0x48084
abbrev EGR_RULE_STAT : Nat := 0x48088
abbrev EGR_RULE_W01 (i : Nat) : Nat := 0x48090 + 0x4 * i
abbrev EGR_RULE_W23 (i : Nat) : Nat := 0x48098 + 0x4 * i
abbrev EGR_RULE_W47 (i : Nat) : Nat := 0x480A0 + 0x4 * i
abbrev EGR_OS_IDX : Nat := 0x48100
abbrev EGR_OS_CMD : Nat := 0x48104
abbrev EGR_OS_STAT : Nat := 0x48108
abbrev EGR_OS_W (i : Nat) : Nat := 0x48110 + 0x4 * i
abbrev EGR_PUB_IDX : Nat := 0x48140
abbrev EGR_PUB_W (i : Nat) : Nat := 0x48144 + 0x4 * i
abbrev EGR_XF_SRC : Nat := 0x48200
abbrev EGR_XF_ARG_LO : Nat := 0x48204
abbrev EGR_XF_ARG_HI : Nat := 0x48208
abbrev EGR_XF_CMD : Nat := 0x4820C
abbrev EGR_XF_STAT : Nat := 0x48210
abbrev EGR_XF_OFS : Nat := 0x48214
abbrev EGR_CNT (i : Nat) : Nat := 0x48300 + 0x4 * i
abbrev EGR_Q_CFG (i : Nat) : Nat := 0x49000 + 0x20 * i
abbrev EGR_Q_STAT (i : Nat) : Nat := 0x49004 + 0x20 * i
abbrev EGR_Q_LEVEL (i : Nat) : Nat := 0x49008 + 0x20 * i
abbrev EGR_Q_CTRL (i : Nat) : Nat := 0x4900C + 0x20 * i
abbrev EGR_Q_PUSH (i : Nat) : Nat := 0x49010 + 0x20 * i
abbrev EGR_Q_COMMIT (i : Nat) : Nat := 0x49014 + 0x20 * i
abbrev EGR_Q_POP (i : Nat) (j : Nat) : Nat := 0x49018 + 0x20 * i + 0x4 * j

def regsEGR13a : List RegRow := [
  ⟨0x48000, 0x0, 1, 0x0, 1, 0x0, 0x0, 0x0, false, true⟩,
  ⟨0x48004, 0x0, 1, 0x0, 1, 0x0, 0x0, 0x0, false, false⟩,
  ⟨0x48008, 0x0, 1, 0x0, 1, 0x0, 0x0, 0x1FF, false, false⟩,
  ⟨0x4800C, 0x0, 1, 0x0, 1, 0x0, 0x1FF, 0x0, false, false⟩,
  ⟨0x48010, 0x0, 1, 0x0, 1, 0x0, 0x0, 0xFFFFFFFF, false, false⟩,
  ⟨0x48014, 0x0, 1, 0x0, 1, 0x0, 0xFFFFFFFF, 0x0, false, false⟩,
  ⟨0x48018, 0x0, 1, 0x0, 1, 0x0, 0x0, 0x0, true, false⟩,
  ⟨0x4801C, 0x0, 1, 0x0, 1, 0x0, 0x0, 0x0, false, false⟩,
  ⟨0x48020, 0x0, 1, 0x0, 1, 0x0, 0x0, 0x0, false, false⟩,
  ⟨0x48080, 0x0, 1, 0x0, 1, 0x0, 0xFFF, 0x0, false, false⟩,
  ⟨0x48084, 0x0, 1, 0x0, 1, 0x0, 0x0, 0x0, true, false⟩,
  ⟨0x48088, 0x0, 1, 0x0, 1, 0x0, 0x0, 0x0, false, false⟩,
  ⟨0x48090, 0x4, 2, 0x0, 1, 0x0, 0x0, 0x0, false, false⟩,
  ⟨0x48098, 0x4, 2, 0x0, 1, 0x0, 0xFFFFFFFF, 0x0, false, false⟩,
  ⟨0x480A0, 0x4, 4, 0x0, 1, 0x0, 0x0, 0x0, false, false⟩,
  ⟨0x48100, 0x0, 1, 0x0, 1, 0x0, 0x3F, 0x0, false, false⟩,
  ⟨0x48104, 0x0, 1, 0x0, 1, 0x0, 0x0, 0x0, true, false⟩,
  ⟨0x48108, 0x0, 1, 0x0, 1, 0x0, 0x0, 0x0, false, false⟩,
  ⟨0x48110, 0x4, 4, 0x0, 1, 0x0, 0x0, 0x0, false, false⟩,
  ⟨0x48140, 0x0, 1, 0x0, 1, 0x0, 0x0, 0x0, true, false⟩,
  ⟨0x48144, 0x4, 4, 0x0, 1, 0x0, 0x0, 0x0, false, false⟩,
  ⟨0x48200, 0x0, 1, 0x0, 1, 0x0, 0xFFFF1FFF, 0x0, false, false⟩,
  ⟨0x48204, 0x0, 1, 0x0, 1, 0x0, 0xFFFFFFFF, 0x0, false, false⟩,
  ⟨0x48208, 0x0, 1, 0x0, 1, 0x0, 0xFFFFFFFF, 0x0, false, false⟩,
  ⟨0x4820C, 0x0, 1, 0x0, 1, 0x0, 0x0, 0x0, true, false⟩,
  ⟨0x48210, 0x0, 1, 0x0, 1, 0x0, 0x0, 0x0, false, false⟩,
  ⟨0x48214, 0x0, 1, 0x0, 1, 0x0, 0xFFFFFFFF, 0x0, false, false⟩,
  ⟨0x48300, 0x4, 24, 0x0, 1, 0x0, 0x0, 0x0, false, false⟩,
  ⟨0x49000, 0x20, 32, 0x0, 1, 0x0, 0x0, 0x0, false, true⟩,
  ⟨0x49004, 0x20, 32, 0x0, 1, 0x0, 0x0, 0x0, false, false⟩,
  ⟨0x49008, 0x20, 32, 0x0, 1, 0x0, 0x3FF, 0x0, false, false⟩,
  ⟨0x4900C, 0x20, 32, 0x0, 1, 0x0, 0x0, 0x0, true, false⟩,
  ⟨0x49010, 0x20, 32, 0x0, 1, 0x0, 0x0, 0x0, true, false⟩,
  ⟨0x49014, 0x20, 32, 0x0, 1, 0x0, 0x0, 0x0, true, false⟩,
  ⟨0x49018, 0x20, 32, 0x4, 2, 0x0, 0x0, 0x0, true, false⟩]

/-! Registers of 12_packer.md (R313). -/
abbrev PAK_STATUS : Nat := 0x50000
abbrev PAK_INT : Nat := 0x50004
abbrev PAK_INT_EN : Nat := 0x50008
abbrev PAK_J_SRC : Nat := 0x50010
abbrev PAK_J_LEN : Nat := 0x50014
abbrev PAK_J_DST : Nat := 0x50018
abbrev PAK_J_DLEN : Nat := 0x5001C
abbrev PAK_J_CMD : Nat := 0x50020
abbrev PAK_J_STAT : Nat := 0x50024
abbrev PAK_J_IN_DONE : Nat := 0x50028
abbrev PAK_J_OUT_LEN : Nat := 0x5002C
abbrev PAK_SNAP : Nat := 0x50040
abbrev PAK_SNAP_SEQ : Nat := 0x50044
abbrev PAK_CNT (i : Nat) : Nat := 0x50080 + 0x4 * i

def regsPAK14a : List RegRow := [
  ⟨0x50000, 0x0, 1, 0x0, 1, 0x0, 0x0, 0x0, false, false⟩,
  ⟨0x50004, 0x0, 1, 0x0, 1, 0x0, 0x0, 0xF, false, false⟩,
  ⟨0x50008, 0x0, 1, 0x0, 1, 0x0, 0xF, 0x0, false, false⟩,
  ⟨0x50010, 0x0, 1, 0x0, 1, 0x0, 0x3FFFFF8, 0x0, false, false⟩,
  ⟨0x50014, 0x0, 1, 0x0, 1, 0x0, 0x3FFFFFF, 0x0, false, false⟩,
  ⟨0x50018, 0x0, 1, 0x0, 1, 0x0, 0x3FFFFF8, 0x0, false, false⟩,
  ⟨0x5001C, 0x0, 1, 0x0, 1, 0x0, 0x3FFFFFF, 0x0, false, false⟩,
  ⟨0x50020, 0x0, 1, 0x0, 1, 0x0, 0x0, 0x0, true, false⟩,
  ⟨0x50024, 0x0, 1, 0x0, 1, 0x0, 0x0, 0x0, false, false⟩,
  ⟨0x50028, 0x0, 1, 0x0, 1, 0x0, 0x0, 0x0, false, false⟩,
  ⟨0x5002C, 0x0, 1, 0x0, 1, 0x0, 0x0, 0x0, false, false⟩,
  ⟨0x50040, 0x0, 1, 0x0, 1, 0x0, 0x0, 0x0, true, false⟩,
  ⟨0x50044, 0x0, 1, 0x0, 1, 0x0, 0x0, 0x0, false, false⟩,
  ⟨0x50080, 0x4, 16, 0x0, 1, 0x0, 0x0, 0x0, false, false⟩]

/-! Registers of 13_deck.md (R328). -/
abbrev CTL_CFG : Nat := 0x58000
abbrev CTL_STATUS : Nat := 0x58004
abbrev CTL_INT : Nat := 0x58008
abbrev CTL_INT_EN : Nat := 0x5800C
abbrev CTL_RESTART : Nat := 0x58010
abbrev CTL_RESTART_INFO : Nat := 0x58014
abbrev CTL_WDOG : Nat := 0x58018
abbrev CTL_TICK : Nat := 0x5801C
abbrev CTL_SCH_STAT : Nat := 0x58040
abbrev CTL_HPOST : Nat := 0x58044
abbrev CTL_HPOST_STAT : Nat := 0x58048
abbrev CTL_TH_IDX : Nat := 0x58050
abbrev CTL_TH_W (i : Nat) : Nat := 0x58054 + 0x4 * i
abbrev CTL_SCH_SNAP : Nat := 0x58060
abbrev CTL_SCH_SNAP_SEQ : Nat := 0x58064
abbrev CTL_SCH_CNT (i : Nat) : Nat := 0x58100 + 0x4 * i
abbrev CTL_PC_CTRL (i : Nat) : Nat := 0x58400 + 0x100 * i
abbrev CTL_PC_SEL (i : Nat) (j : Nat) : Nat := 0x58404 + 0x100 * i + 0x4 * j
abbrev CTL_PC_PERIOD (i : Nat) : Nat := 0x58424 + 0x100 * i
abbrev CTL_PC_STAT (i : Nat) : Nat := 0x58428 + 0x100 * i
abbrev CTL_PC_CYC (i : Nat) (j : Nat) : Nat := 0x58440 + 0x100 * i + 0x4 * j
abbrev CTL_PC_RET (i : Nat) (j : Nat) : Nat := 0x58448 + 0x100 * i + 0x4 * j
abbrev CTL_PC_EV (i : Nat) (j : Nat) : Nat := 0x58450 + 0x100 * i + 0x4 * j
abbrev CTL_DP_CTRL : Nat := 0x58800
abbrev CTL_DP_SEL (i : Nat) : Nat := 0x58804 + 0x4 * i
abbrev CTL_DP_STAT : Nat := 0x58884
abbrev CTL_DP_CNT (i : Nat) : Nat := 0x58900 + 0x4 * i

def regsCTL15a : List RegRow := [
  ⟨0x58000, 0x0, 1, 0x0, 1, 0x4, 0x0, 0x0, false, true⟩,
  ⟨0x58004, 0x0, 1, 0x0, 1, 0x1, 0x0, 0x0, false, false⟩,
  ⟨0x58008, 0x0, 1, 0x0, 1, 0x0, 0x0, 0x7FF, false, false⟩,
  ⟨0x5800C, 0x0, 1, 0x0, 1, 0x0, 0x7FF, 0x0, false, false⟩,
  ⟨0x58010, 0x0, 1, 0x0, 1, 0x0, 0x0, 0x0, true, false⟩,
  ⟨0x58014, 0x0, 1, 0x0, 1, 0x0, 0x0, 0x0, false, false⟩,
  ⟨0x58018, 0x0, 1, 0x0, 1, 0x0, 0x0, 0x0, true, true⟩,
  ⟨0x5801C, 0x0, 1, 0x0, 1, 0x0, 0x0, 0x0, false, false⟩,
  ⟨0x58040, 0x0, 1, 0x0, 1, 0x0, 0x0, 0x0, false, false⟩,
  ⟨0x58044, 0x0, 1, 0x0, 1, 0x0, 0x0, 0x0, true, false⟩,
  ⟨0x58048, 0x0, 1, 0x0, 1, 0x0, 0x0, 0x0, false, false⟩,
  ⟨0x58050, 0x0, 1, 0x0, 1, 0x0, 0x0, 0x0, true, false⟩,
  ⟨0x58054, 0x4, 2, 0x0, 1, 0x0, 0x0, 0x0, false, false⟩,
  ⟨0x58060, 0x0, 1, 0x0, 1, 0x0, 0x0, 0x0, true, false⟩,
  ⟨0x58064, 0x0, 1, 0x0, 1, 0x0, 0x0, 0x0, false, false⟩,
  ⟨0x58100, 0x4, 18, 0x0, 1, 0x0, 0x0, 0x0, false, false⟩,
  ⟨0x58400, 0x100, 4, 0x0, 1, 0x0, 0x1E0, 0x0, true, false⟩,
  ⟨0x58404, 0x100, 4, 0x4, 8, 0x0, 0x0, 0x0, true, false⟩,
  ⟨0x58424, 0x100, 4, 0x0, 1, 0x400, 0xFFFFFFFF, 0x0, false, false⟩,
  ⟨0x58428, 0x100, 4, 0x0, 1, 0x0, 0x0, 0xBFF, false, false⟩,
  ⟨0x58440, 0x100, 4, 0x4, 2, 0x0, 0x0, 0x0, false, false⟩,
  ⟨0x58448, 0x100, 4, 0x4, 2, 0x0, 0x0, 0x0, false, false⟩,
  ⟨0x58450, 0x100, 4, 0x4, 16, 0x0, 0x0, 0x0, false, false⟩,
  ⟨0x58800, 0x0, 1, 0x0, 1, 0x0, 0x0, 0x0, true, false⟩,
  ⟨0x58804, 0x4, 32, 0x0, 1, 0x0, 0x0, 0x0, true, false⟩,
  ⟨0x58884, 0x0, 1, 0x0, 1, 0x0, 0x0, 0xFFFFFFFF, false, false⟩,
  ⟨0x58900, 0x4, 64, 0x0, 1, 0x0, 0x0, 0x0, false, false⟩]

/-! Registers of 14_memory_integrity.md (R351). -/
abbrev MEM_CFG : Nat := 0x60000
abbrev MEM_STATUS : Nat := 0x60004
abbrev MEM_INT : Nat := 0x60008
abbrev MEM_INT_EN : Nat := 0x6000C
abbrev MEM_SCRUB : Nat := 0x60010
abbrev MEM_UE_ADDR_LO : Nat := 0x60018
abbrev MEM_UE_ADDR_HI : Nat := 0x6001C
abbrev MEM_SNAP : Nat := 0x60020
abbrev MEM_SNAP_SEQ : Nat := 0x60024
abbrev MEM_CNT (i : Nat) (j : Nat) : Nat := 0x60100 + 0x10 * i + 0x4 * j

def regsMEM16a : List RegRow := [
  ⟨0x60000, 0x0, 1, 0x0, 1, 0x0, 0x0, 0x0, false, true⟩,
  ⟨0x60004, 0x0, 1, 0x0, 1, 0x0, 0x0, 0x0, false, false⟩,
  ⟨0x60008, 0x0, 1, 0x0, 1, 0x0, 0x0, 0x3F, false, false⟩,
  ⟨0x6000C, 0x0, 1, 0x0, 1, 0x0, 0x3F, 0x0, false, false⟩,
  ⟨0x60010, 0x0, 1, 0x0, 1, 0x18, 0xFF, 0x0, false, false⟩,
  ⟨0x60018, 0x0, 1, 0x0, 1, 0x0, 0x0, 0x0, false, false⟩,
  ⟨0x6001C, 0x0, 1, 0x0, 1, 0x0, 0x0, 0x0, false, false⟩,
  ⟨0x60020, 0x0, 1, 0x0, 1, 0x0, 0x0, 0x0, true, false⟩,
  ⟨0x60024, 0x0, 1, 0x0, 1, 0x0, 0x0, 0x0, false, false⟩,
  ⟨0x60100, 0x10, 15, 0x4, 4, 0x0, 0x0, 0x0, false, false⟩]

/-! Registers of 15_ledger_calendar.md (R359). -/
abbrev LDG_CFG : Nat := 0x68000
abbrev LDG_STATUS : Nat := 0x68004
abbrev LDG_INT : Nat := 0x68008
abbrev LDG_INT_EN : Nat := 0x6800C
abbrev LDG_CTRL : Nat := 0x68010
abbrev LDG_SEQ : Nat := 0x68014
abbrev LDG_EPOCH_PC : Nat := 0x68018
abbrev LDG_HOURS : Nat := 0x6801C
abbrev LDG_CFG2 : Nat := 0x68024
abbrev LDG_DROP (i : Nat) : Nat := 0x68040 + 0x4 * i
abbrev LDG_REFUSED (i : Nat) : Nat := 0x68060 + 0x4 * i
abbrev LDG_CLR_SCOPE : Nat := 0x68080
abbrev LDG_CLR_CMD : Nat := 0x68084
abbrev LDG_CLR_STAT : Nat := 0x68088
abbrev LDG_CLR_NONCE_LO : Nat := 0x6808C
abbrev LDG_CLR_NONCE_HI : Nat := 0x68090
abbrev LDG_RD_SEL : Nat := 0x680A0
abbrev LDG_RD_ARG_LO : Nat := 0x680A4
abbrev LDG_RD_ARG_HI : Nat := 0x680A8
abbrev LDG_RD_CMD : Nat := 0x680AC
abbrev LDG_RD_STAT : Nat := 0x680B0
abbrev LDG_RD_END : Nat := 0x680B4
abbrev LDG_SUM (i : Nat) : Nat := 0x680C0 + 0x4 * i
abbrev LDG_LW (i : Nat) : Nat := 0x68100 + 0x4 * i

def regsLDG17a : List RegRow := [
  ⟨0x68000, 0x0, 1, 0x0, 1, 0x0, 0x0, 0x0, false, true⟩,
  ⟨0x68004, 0x0, 1, 0x0, 1, 0x10000, 0x0, 0x0, false, false⟩,
  ⟨0x68008, 0x0, 1, 0x0, 1, 0x0, 0x0, 0x1FF, false, false⟩,
  ⟨0x6800C, 0x0, 1, 0x0, 1, 0x0, 0x1FF, 0x0, false, false⟩,
  ⟨0x68010, 0x0, 1, 0x0, 1, 0x0, 0x0, 0x0, true, false⟩,
  ⟨0x68014, 0x0, 1, 0x0, 1, 0x0, 0x0, 0x0, false, false⟩,
  ⟨0x68018, 0x0, 1, 0x0, 1, 0x0, 0x0, 0x0, false, false⟩,
  ⟨0x6801C, 0x0, 1, 0x0, 1, 0x0, 0x0, 0x0, false, false⟩,
  ⟨0x68024, 0x0, 1, 0x0, 1, 0x0, 0x0, 0x0, false, true⟩,
  ⟨0x68040, 0x4, 8, 0x0, 1, 0x0, 0x0, 0x0, false, false⟩,
  ⟨0x68060, 0x4, 8, 0x0, 1, 0x0, 0x0, 0x0, false, false⟩,
  ⟨0x68080, 0x0, 1, 0x0, 1, 0x0, 0xF, 0x0, false, false⟩,
  ⟨0x68084, 0x0, 1, 0x0, 1, 0x0, 0x0, 0x0, true, false⟩,
  ⟨0x68088, 0x0, 1, 0x0, 1, 0x0, 0x0, 0x0, false, false⟩,
  ⟨0x6808C, 0x0, 1, 0x0, 1, 0x0, 0x0, 0x0, false, false⟩,
  ⟨0x68090, 0x0, 1, 0x0, 1, 0x0, 0x0, 0x0, false, false⟩,
  ⟨0x680A0, 0x0, 1, 0x0, 1, 0x0, 0x1F, 0x0, false, false⟩,
  ⟨0x680A4, 0x0, 1, 0x0, 1, 0x0, 0xFFFFFFFF, 0x0, false, false⟩,
  ⟨0x680A8, 0x0, 1, 0x0, 1, 0x0, 0xFFFF, 0x0, false, false⟩,
  ⟨0x680AC, 0x0, 1, 0x0, 1, 0x0, 0x0, 0x0, true, false⟩,
  ⟨0x680B0, 0x0, 1, 0x0, 1, 0x0, 0x0, 0x0, false, false⟩,
  ⟨0x680B4, 0x0, 1, 0x0, 1, 0x0, 0x0, 0x0, false, false⟩,
  ⟨0x680C0, 0x4, 8, 0x0, 1, 0x0, 0x0, 0x0, false, false⟩,
  ⟨0x68100, 0x4, 16, 0x0, 1, 0x0, 0x0, 0x0, false, false⟩]

/-! Registers of 16_till_security.md (R391). -/
abbrev TIL_CFG : Nat := 0x70000
abbrev TIL_STATUS : Nat := 0x70004
abbrev TIL_INT : Nat := 0x70008
abbrev TIL_INT_EN : Nat := 0x7000C
abbrev TIL_TAMPER : Nat := 0x70010
abbrev TIL_TAMPER_TICK_LO : Nat := 0x70014
abbrev TIL_TAMPER_TICK_HI : Nat := 0x70018
abbrev TIL_CMD : Nat := 0x70020
abbrev TIL_ARG (i : Nat) : Nat := 0x70024 + 0x4 * i
abbrev TIL_RES : Nat := 0x70034
abbrev TIL_OUT (i : Nat) : Nat := 0x70038 + 0x4 * i
abbrev TIL_UID (i : Nat) : Nat := 0x70060 + 0x4 * i
abbrev TIL_MBOX_IN (i : Nat) : Nat := 0x70100 + 0x4 * i
abbrev TIL_MBOX_OUT (i : Nat) : Nat := 0x70200 + 0x4 * i
abbrev TIL_SLOT_IDX : Nat := 0x70300
abbrev TIL_SLOT_W (i : Nat) : Nat := 0x70304 + 0x4 * i
abbrev TIL_GK_IDX : Nat := 0x70320
abbrev TIL_GK_W (i : Nat) : Nat := 0x70324 + 0x4 * i
abbrev TIL_D_INT : Nat := 0x70808
abbrev TIL_D_CMD : Nat := 0x70820
abbrev TIL_D_ARG (i : Nat) : Nat := 0x70824 + 0x4 * i
abbrev TIL_D_RES : Nat := 0x70834
abbrev TIL_D_OUT (i : Nat) : Nat := 0x70838 + 0x4 * i
abbrev TIL_D_MBOX_IN (i : Nat) : Nat := 0x70900 + 0x4 * i
abbrev TIL_D_MBOX_OUT (i : Nat) : Nat := 0x70A00 + 0x4 * i

def regsTIL18a : List RegRow := [
  ⟨0x70000, 0x0, 1, 0x0, 1, 0x0, 0x0, 0x0, false, true⟩,
  ⟨0x70004, 0x0, 1, 0x0, 1, 0x0, 0x0, 0x0, false, false⟩,
  ⟨0x70008, 0x0, 1, 0x0, 1, 0x0, 0x0, 0x1F, false, false⟩,
  ⟨0x7000C, 0x0, 1, 0x0, 1, 0x0, 0x1F, 0x0, false, false⟩,
  ⟨0x70010, 0x0, 1, 0x0, 1, 0x0, 0x0, 0x0, false, false⟩,
  ⟨0x70014, 0x0, 1, 0x0, 1, 0x0, 0x0, 0x0, false, false⟩,
  ⟨0x70018, 0x0, 1, 0x0, 1, 0x0, 0x0, 0x0, false, false⟩,
  ⟨0x70020, 0x0, 1, 0x0, 1, 0x0, 0x0, 0x0, true, false⟩,
  ⟨0x70024, 0x4, 4, 0x0, 1, 0x0, 0xFFFFFFFF, 0x0, false, false⟩,
  ⟨0x70034, 0x0, 1, 0x0, 1, 0x0, 0x0, 0x0, false, false⟩,
  ⟨0x70038, 0x4, 4, 0x0, 1, 0x0, 0x0, 0x0, false, false⟩,
  ⟨0x70060, 0x4, 8, 0x0, 1, 0x0, 0x0, 0x0, false, false⟩,
  ⟨0x70100, 0x4, 64, 0x0, 1, 0x0, 0xFFFFFFFF, 0x0, false, false⟩,
  ⟨0x70200, 0x4, 64, 0x0, 1, 0x0, 0x0, 0x0, false, false⟩,
  ⟨0x70300, 0x0, 1, 0x0, 1, 0x0, 0x0, 0x0, true, false⟩,
  ⟨0x70304, 0x4, 4, 0x0, 1, 0x0, 0x0, 0x0, false, false⟩,
  ⟨0x70320, 0x0, 1, 0x0, 1, 0x0, 0x0, 0x0, true, false⟩,
  ⟨0x70324, 0x4, 4, 0x0, 1, 0x0, 0x0, 0x0, false, false⟩,
  ⟨0x70808, 0x0, 1, 0x0, 1, 0x0, 0x0, 0x1, false, false⟩,
  ⟨0x70820, 0x0, 1, 0x0, 1, 0x0, 0x0, 0x0, true, false⟩,
  ⟨0x70824, 0x4, 4, 0x0, 1, 0x0, 0xFFFFFFFF, 0x0, false, false⟩,
  ⟨0x70834, 0x0, 1, 0x0, 1, 0x0, 0x0, 0x0, false, false⟩,
  ⟨0x70838, 0x4, 4, 0x0, 1, 0x0, 0x0, 0x0, false, false⟩,
  ⟨0x70900, 0x4, 64, 0x0, 1, 0x0, 0xFFFFFFFF, 0x0, false, false⟩,
  ⟨0x70A00, 0x4, 64, 0x0, 1, 0x0, 0x0, 0x0, false, false⟩]

/-! Registers of 17_pair_redundancy.md (R417). -/
abbrev SHR_CFG : Nat := 0x78000
abbrev SHR_CFG2 : Nat := 0x78004
abbrev SHR_STATUS : Nat := 0x78008
abbrev SHR_INT : Nat := 0x7800C
abbrev SHR_INT_EN : Nat := 0x78010
abbrev SHR_MONO : Nat := 0x78014
abbrev SHR_LEASE_DL : Nat := 0x78018
abbrev SHR_LEASE_EPOCH : Nat := 0x7801C
abbrev SHR_LEASE_CTRL : Nat := 0x78020
abbrev SHR_PEER_W (i : Nat) : Nat := 0x78030 + 0x4 * i
abbrev SHR_HEALTH (i : Nat) : Nat := 0x78040 + 0x4 * i
abbrev SHR_SNAP : Nat := 0x78080
abbrev SHR_SNAP_SEQ : Nat := 0x78084
abbrev SHR_CNT (i : Nat) : Nat := 0x78100 + 0x4 * i

def regsSHR19a : List RegRow := [
  ⟨0x78000, 0x0, 1, 0x0, 1, 0x0, 0x0, 0x0, false, true⟩,
  ⟨0x78004, 0x0, 1, 0x0, 1, 0x0, 0x0, 0x0, false, true⟩,
  ⟨0x78008, 0x0, 1, 0x0, 1, 0x13, 0x0, 0x0, false, false⟩,
  ⟨0x7800C, 0x0, 1, 0x0, 1, 0x0, 0x0, 0x7FF, false, false⟩,
  ⟨0x78010, 0x0, 1, 0x0, 1, 0x0, 0x7FF, 0x0, false, false⟩,
  ⟨0x78014, 0x0, 1, 0x0, 1, 0x0, 0x0, 0x0, false, false⟩,
  ⟨0x78018, 0x0, 1, 0x0, 1, 0x0, 0x0, 0x0, true, false⟩,
  ⟨0x7801C, 0x0, 1, 0x0, 1, 0x0, 0xFFFFFFFF, 0x0, false, false⟩,
  ⟨0x78020, 0x0, 1, 0x0, 1, 0x0, 0x0, 0x0, true, false⟩,
  ⟨0x78030, 0x4, 4, 0x0, 1, 0x0, 0x0, 0x0, false, false⟩,
  ⟨0x78040, 0x4, 4, 0x0, 1, 0x0, 0x0, 0x0, false, false⟩,
  ⟨0x78080, 0x0, 1, 0x0, 1, 0x0, 0x0, 0x0, true, false⟩,
  ⟨0x78084, 0x0, 1, 0x0, 1, 0x0, 0x0, 0x0, false, false⟩,
  ⟨0x78100, 0x4, 24, 0x0, 1, 0x0, 0x0, 0x0, false, false⟩]

/-- Every register of the map. -/
def regTable : List RegRow :=
  regsHST0a ++ regsBOT1a ++ regsPWR2a ++ regsMST3a ++ regsCAL4a ++ regsPRT5a ++ regsING6a ++ regsMKT7a ++ regsSCL8a ++
    regsSCL9a ++ regsCAP10a ++ regsNST11a ++ regsNST12a ++ regsEGR13a ++ regsPAK14a ++ regsCTL15a ++ regsMEM16a ++
    regsLDG17a ++ regsTIL18a ++ regsSHR19a

/-- The row of the word at byte offset `a`; none: the offset is RSV (R472). -/
def regRow? (a : Nat) : Option RegRow := regTable.find? (fun r => rowCovers r a)

/-- The value a register holds at reset (0 where the offset is RSV, R12). -/
def regReset (a : Nat) : Word :=
  match regRow? a with
  | some r => BitVec.ofNat 32 r.reset
  | none => 0#32

end Sys2Proof.Machine
end

