-- ==== Sys2Proof/Machine/State.lean ====
section
/-!
DEFINITION. The state of the node: every register, queue, buffer, counter, mode and latch that the chapters name, as plain
data, and the queue of commands that wait.
-/

namespace Sys2Proof.Machine

/-- A sparse table: pairs of a key and a value, in ONE canonical form (keys strictly rising, no entry equal to what an
unlisted key reads as). `mapGet`, `mapSet` and `mapWf` of Machine/Operands.lean read, write and check it. -/
abbrev NMap (α : Type) := List (Nat × α)

/-- An alarm record's fields (Table 11.3); `value0` and `value1` are binary32. -/
structure AlarmRec where
  rule : Nat
  sev : Nat
  kind : Nat
  tag : Nat
  early : Bool
  suspect : Bool
  invalidIn : Bool
  absentIn : Bool
  heldIn : Bool
  sec : Nat
  ns : Nat
  value0 : Word
  value1 : Word
  alseq : Nat
  nOn : Nat
  nOff : Nat
  deriving DecidableEq, Repr

/-- The dataset a publication transmits (R294, R295): its number, stNum, sqNum, timeAllowedtoLive in ms, NODE_STATE,
its K entries newest first (none: an unused entry), their T members' UTC seconds (the nanoseconds are the records')
and time quality, and the group key's ID when authenticated. -/
structure GooseMsg where
  pub : Nat
  stNum : Nat
  sqNum : Nat
  ttl : Nat
  nodeState : Nat
  entries : List (Option AlarmRec)
  utc : List Nat
  timeQuality : Nat
  keyId : Option Nat
  deriving DecidableEq, Repr

/-- What a transmitted frame or a queue item carries. -/
inductive TxBody where
  | none
  | words (ws : List Word)
  | alarm (a : AlarmRec)
  | goose (g : GooseMsg)
  | c37 (stream : Nat) (bytes : List Nat)
  | command (stream : Nat) (cmd : SourceCmd)
  | datagram (job typ dest : Nat) (last : Bool) (ofs : Nat) (payload : List Nat)
  deriving DecidableEq, Repr

/-- A frame to transmit on a port: its length, its cast (0 unicast, 1 multicast, 2 broadcast), the tag and message type of
a two-step PTP event (R85) and its content. -/
structure TxFrame where
  len : Nat
  cast : Nat
  ptpEvent : Option (Nat × Nat)
  body : TxBody
  deriving DecidableEq, Repr

/-- The states of Table 2.3. -/
inductive MastState where
  | unsync
  | locked
  | holdover
  | held
  deriving DecidableEq, Repr

/-- The cycle-clock states of Table 2.7. -/
inductive CycState where
  | free
  | pullin
  | locked
  | flywheel
  deriving DecidableEq, Repr

/-- A schedule entry (Table 2.8). `inst` is a TAI entry's instant in ns; `angle` and `cycn` an ANGLE entry's angle and
qualifying cycle count; `count` the occurrences left, `endless` that COUNT started at 0; `own` is the first qualifying
count of a stored ANGLE entry that was past and waits for its one LATE firing (R63). -/
structure SchEntry where
  armed : Bool := false
  angleKind : Bool := false
  reqLock : Bool := false
  past : Bool := false
  target : Nat := 0
  arg : Nat := 0
  inst : Nat := 0
  angle : Nat := 0
  cycn : Nat := 0
  period : Nat := 0
  count : Nat := 0
  endless : Bool := false
  fired : Bool := false
  late : Bool := false
  missed : Bool := false
  own : Option Nat := none
  deriving DecidableEq, Repr

/-- The cycle clock (R51 to R56). `angle` is the 64-bit accumulator, `freq` the current frequency in nHz and `target`
the frequency the loop steers to; `era` counts the wraps of `count`; `inLock` and `outLock` count consecutive
comparisons; `refPend` is a reference change that waits for the next comparison. `flyAt` is the count at the entry to
FLYWHEEL, `kern` the number of kernel ticks issued (R57, modulo 2^32 cycles), `lockedAt` the MAST tick of the last
entry to LOCKED, `marks` the angles in 2^-32 turn at the last 64 tableau instants (newest first), and `compared` the
instant of the last comparison with a centre of inertia, with the next tableau instant of that moment. -/
structure CycClock where
  st : CycState := .free
  angle : Nat := 0
  count : Nat := 0
  era : Nat := 0
  freq : Nat := 50000000000
  target : Nat := 50000000000
  perr : Word := 0#32
  refActive : Nat := 0
  refPend : Bool := false
  bwClamped : Bool := false
  onFallback : Bool := false
  inLock : Nat := 0
  outLock : Nat := 0
  flyAt : Nat := 0
  kern : Nat := 0
  lockedAt : Nat := 0
  marks : List (Nat × Nat) := []
  compared : Option (Nat × Nat) := none
  deriving DecidableEq, Repr

/-- The Mast beside its registers. `est` is the firmware's time-error estimate (R48), `holdSec` and `holdTick` the
holdover time and the MAST ticks into its present second; `freeze` and `torn` are the five requesters' shadow sets and
torn marks (R31 to R33), keyed 0 host, 1 to 4 the cores; `ppsLast` is the last accepted PPS edge in ns, `irigAt` the
MAST tick of the last good IRIG frame and `irigStamp` the counter at its on-time marker (R46); `incrAt` is the tick of
the last increment write taken (Table 2.3); `trig` is the trigger FIFO (R60), of threads with the counter at the
firing's tick (R58); `snapAll` the tick of the last snapshot of all ports and whether it was clearing (R90). -/
structure Mast where
  st : MastState := .unsync
  guardArmed : Bool := false
  accept : Bool := false
  est : Word := 0xFFFFFFFF#32
  holdSec : Nat := 0
  holdTick : Nat := 0
  holdExc : Bool := true
  lastLeap : Option (Nat × Bool) := none
  ppsLast : Option Nat := none
  ppsOow : Bool := false
  irigAt : Option Nat := none
  irigStamp : Option Nat := none
  incrAt : Nat := 0
  freeze : NMap (Option (Nat × List Word)) := []
  torn : NMap Bool := []
  cyc : CycClock := {}
  sched : NMap SchEntry := []
  trig : List (Nat × Nat) := []
  snapAll : Option (Nat × Bool) := none
  deriving DecidableEq, Repr

/-- What a command frame's answer carries (R298, R301, R302): a header's text, or the layout the stream transmits with
the names of the digital words appended to block 0, where the spec gives one. -/
inductive OsContent where
  | header (text : List Nat)
  | layout (cfg : OutCfg) (idcode : Nat) (appended : List (Option (List Nat)))
  deriving DecidableEq, Repr

/-- A message the node hands to something outside it, in the order of handing over: the model's own record of what
leaves the node (a message to the host, a frame on a port, a read's data). -/
inductive OutMsg where
  | msix (vector : Nat) (addr : Nat) (data : Word)
  | readData (who : Req) (v : BitVec 64)
  | unsupported (ofs : Nat)
  | pfc (port : Nat) (prios : Nat) (quanta : Nat)
  | frame (port : Nat) (f : TxFrame)
  | osAnswer (stream : Nat) (cmd : OsCmd) (ip udp : Nat) (content : OsContent)
  | shroud (link : Nat) (frame : List Word)
  | clerk (bytes : List Nat)
  | bell (line : Nat) (low : Bool)
  | service (bytes : List Nat)
  deriving DecidableEq, Repr

/-- A frame on its way to Ingest (R71, R94): its port and arrival stamp (TAI counter), the order in which its FCS check
completed, its length, its content and its octets. -/
structure IngItem where
  port : Nat
  stamp : Nat
  order : Nat
  len : Nat
  pcp : Nat
  tci : Option (BitVec 16)
  body : IngestBody
  bytes : List Nat := []
  deriving DecidableEq, Repr

/-- A time-stamp queue entry (PRT_TSQ_W0 to W3). -/
structure TsqEntry where
  stamp : Nat
  seq : Nat
  egress : Bool
  msgType : Nat
  tag : Nat
  deriving DecidableEq, Repr

/-- A port beside its registers (R65 to R92). `buf` are the frames the receive buffer holds for a full pipeline FIFO;
`paused` is the mask of paused priorities and `pauseEnd` the MAST ticks at which their quanta run out; `tx` is the
frame in transmission and `txStamp` the counter at its stamp point (R44); the `…At` are MAST ticks at which a timed
condition began, `pfcAt` that of the last PFC frame, `idleAt` that of the last frame's end, `wake` that of the last
wake from low-power idle while its TW_TX_US may run, and `readyPend` that of the first descriptor returned since
RX_READY; `descs` are the descriptors W0 to W3 by index and `bufs` the bytes written into the receive buffers, by
BUF_ADDR. -/
structure Port where
  linkUp : Bool := false
  anDone : Bool := false
  txLpi : Bool := false
  rxLpi : Bool := false
  xoff : Bool := false
  paused : Nat := 0
  buf : List IngItem := []
  peak : Nat := 0
  tsq : List TsqEntry := []
  latched : Option TsqEntry := none
  seq : Nat := 0
  descs : NMap (List Word) := []
  bufs : NMap (List Nat) := []
  readyPend : Option Nat := none
  tx : Option TxFrame := none
  txStamp : Nat := 0
  txLpiAt : Nat := 0
  rxLpiAt : Nat := 0
  xoffAt : Nat := 0
  pausedAt : Nat := 0
  pauseEnd : NMap Nat := []
  pfcAt : Nat := 0
  idleAt : Nat := 0
  wake : Option Nat := none
  deriving DecidableEq, Repr

/-- The states of Table 4.3. -/
inductive StreamState where
  | active
  | cfgPending
  | layoutMismatch
  | overLimit
  deriving DecidableEq, Repr

/-- A stall slot (R111, Table 4.6): the header's fields and the quantities in normal form (binary32 bit patterns). `instant`
counts at the stream's contributing rate; `chanInvalid` and `chanSuspect` mark the
quantities a local stream marks INVALID and TIME_SUSPECT (R124, R177). -/
structure Slot where
  instant : Nat := 0
  arrival : Nat := 0
  ofsNs : Int := 0
  stat : Nat := 0
  tq : Nat := 0
  invalid : Bool := false
  suspect : Bool := false
  test : Bool := false
  cfgChg : Bool := false
  decPartial : Bool := false
  port : Nat := 0
  pipe : Nat := 0
  tierRev : Nat := 0
  phasors : List (Word × Word) := []
  freq : Word := 0#32
  rocof : Word := 0#32
  analogs : List Word := []
  digitals : List (BitVec 16) := []
  chanInvalid : List Bool := []
  chanSuspect : List Bool := []
  deriving DecidableEq, Repr

/-- A stream entry's own state (R102, R113, ING_STREAM_W0 to W7), its stall (slots by instant modulo the depth) and,
for a FILTERED stream, the last tableau instant handed over. `measured` is set by the first measurement since the
statistics were zeroed, `frag` the bytes of the CFG-3 fragments gathered (R96), and `turnedOn`, `asked` that the
source was told to transmit and asked for its configuration since the start (R97). -/
structure StreamSt where
  st : StreamState := .active
  framesOk : Nat := 0
  rejected : Nat := 0
  lastReason : Nat := 0
  lastTq : Nat := 0
  lastPort : Nat := 0
  lastPipe : Nat := 0
  early : Nat := 0
  measured : Bool := false
  latMin : Int := 0
  latMax : Int := 0
  latMean : Int := 0
  latCount : Nat := 0
  hist : NMap Nat := []
  lastTick : Option Nat := none
  stall : NMap (Option Slot) := []
  handed : Option Nat := none
  frag : List (BitVec 8) := []
  turnedOn : Bool := false
  asked : Bool := false
  deriving DecidableEq, Repr

/-- An SV subscription's own state: what its stream entry shows (R102, R115), the last accepted sample counter and
SPDU number, and the counts SCL_SV shows. -/
structure SvSt where
  lastCnt : Option Nat := none
  lastSpdu : Option Nat := none
  st : StreamState := .active
  framesOk : Nat := 0
  rejected : Nat := 0
  lastReason : Nat := 0
  lastPort : Nat := 0
  lastPipe : Nat := 0
  lastTick : Option Nat := none
  gaps : Nat := 0
  interp : Nat := 0
  late : Nat := 0
  deriving DecidableEq, Repr

/-- A sample that Ingest made available to the Scales or to capture (R162): its subscription, counter, TAI tag, its
channels and the marks of R105. -/
structure SvSample where
  sub : Nat
  smpCnt : Nat
  tag : Nat
  suspect : Bool
  channels : List (Int × Bool)
  deriving DecidableEq, Repr

/-- Ingest beside its registers: the pipelines' input FIFOs, the order of FCS checks, the stream entries, the SV
subscriptions, the values handed to the Market's placement unit, oldest first (stream, slot, tableau instant), and the
MAST tick of the last ageing (R114). -/
structure Ingest where
  fifo : NMap (List IngItem) := []
  order : Nat := 0
  streams : NMap StreamSt := []
  subs : NMap SvSt := []
  handoff : List (Nat × Nat × Slot) := []
  agedAt : Nat := 0
  deriving DecidableEq, Repr

/-- Section states (Table 5.1). -/
inductive SecState where
  | unused
  | open
  | sealed
  | closed
  deriving DecidableEq, Repr

/-- Tableau states (Table 5.1). -/
inductive TabState where
  | filling
  | revising
  | closed
  deriving DecidableEq, Repr

/-- A stream's record in a tableau (Table 5.2, Table 5.3): the revision of its last change, SEEN, the value, and one flag
field per quantity (ARRIVAL, INVALID, TIME_SUSPECT as bits 1:0, 2, 3). -/
structure Rec where
  rev : Nat := 0
  seen : Bool := false
  slot : Slot := {}
  flags : List Nat := []
  deriving DecidableEq, Repr

/-- A rule's state in a tableau (MISSING is the number of its input streams whose record is not SEEN). -/
structure RuleTab where
  done : Bool := false
  dirty : Bool := false
  evalRev : Nat := 0
  deriving DecidableEq, Repr

/-- A tableau in the store (R514). `bells` are latched at the opening, in 0.1 ms; `pend` are the pending placements by
stream; `holding` that the hold timer runs since MAST tick `holdAt`; `forced` a revision that a store error forces;
`sealHeld` are the classes whose seal waits for the preceding tableau's (R120), and `win0` that R135 took its
window. -/
structure Tableau where
  inst : Nat
  st : TabState := .filling
  rev : Nat := 0
  storeErr : Bool := false
  shed : Bool := false
  stepOpen : Bool := false
  finalFold : Bool := false
  classEn : Nat := 0
  bells : List Nat := []
  window : Nat := 0
  secs : List SecState := []
  recs : NMap Rec := []
  pend : NMap (Option Slot) := []
  rules : NMap RuleTab := []
  holding : Bool := false
  holdAt : Nat := 0
  forced : Bool := false
  sealHeld : List Nat := []
  win0 : Bool := false
  deriving DecidableEq, Repr

/-- A class histogram (R128). -/
structure ClassHist where
  bins : NMap Nat := []
  count : Nat := 0
  deriving DecidableEq, Repr

/-- A ribbon block (R144): its first and last instant, the instants missing before it, and its bytes as written. -/
structure RibBlock where
  first : Nat
  last : Nat
  gap : Nat
  bytes : List Nat
  deriving DecidableEq, Repr

/-- The Market beside its registers: the next instant the Mast generates, the values held for instants not yet
generated (stream, instant, slot), the tableau store, the class histograms, the closed tableaus that wait for the
ribbon to take them, the tableaus taken for the next block (instant and bytes) with the instants missing before it
(`ribInfo`), the ribbon's blocks, their next number and the instants missing before the next tableau it takes. `kept`
is the last placed record of a slower HELD stream whose tableau has left the store (instant and record), and `learnAt`
the tick of each class's last learning (R129). `shed` is R135; `twInst` the instant of the tableau window's opening,
and `ribRead` the blocks of the ribbon window's opening with their lengths in bytes, by first instant. -/
structure Market where
  next : Nat := 0
  early : List (Nat × Nat × Slot) := []
  tabs : List Tableau := []
  hist : NMap ClassHist := []
  ribWait : List Nat := []
  ribAcc : List (Nat × List Nat) := []
  ribInfo : Nat := 0
  kept : NMap (Option (Nat × Rec)) := []
  learnAt : NMap Nat := []
  blocks : List RibBlock := []
  ribGap : Nat := 0
  shed : Bool := false
  twInst : Option Nat := none
  ribSeq : Nat := 0
  ribRead : List (Nat × Nat) := []
  deriving DecidableEq, Repr

/-- A sample of a channel (R157, R166, R169): its tag in TAI counter units, the turn of the cycle clock its tag falls
in, its calibrated value in units of 2^-91 of full scale, and its marks (bit 0 SETTLING, 1 OVR, 2 DEAD, 3 an SV gap, 4
SV quality, 5 the TIME_SUSPECT of an SV subscription). -/
structure ScSample where
  tag : Nat
  turn : Nat
  x : Int
  mark : Nat
  deriving DecidableEq, Repr

/-- A local channel beside its registers: the CIC's integrators and combs, its outputs that the FIR holds (newest
first), the calibrated samples (newest first), the waveform samples of the last 100 ms (newest first), the outputs so
far, the user values in force (R168) and whether an APPLY waits for its next sample. `fresh` tells that no output has
completed since a SYNC (R158), and `settleAt` is the MOD time at which settling began (R160). -/
structure Chan where
  integ : List Nat := []
  comb : List Nat := []
  cic : List Int := []
  hist : List ScSample := []
  waves : List ScSample := []
  count : Nat := 0
  ugain : Word := 0#32
  uofs : Word := 0#32
  udly : Word := 0#32
  take : Bool := false
  fresh : Bool := false
  settleAt : Nat := 0
  deriving DecidableEq, Repr

/-- A received SV sample of a Scales subscription (R162 to R164), before calibration; `after` is the tag of the sample
before a gap of two or more that this one ends. -/
structure SvRec where
  tag : Nat
  suspect : Bool
  channels : List (Int × Bool)
  after : Option Nat := none
  deriving DecidableEq, Repr

/-- A Scales subscription: the samples whose wait has not passed, the settled ones, both newest first, and whether a
gap has been counted that no sample has ended yet. -/
structure SvHist where
  pend : List SvRec := []
  hist : List SvRec := []
  gapOpen : Bool := false
  deriving DecidableEq, Repr

/-- A sample instant of a metering point: tag and turn, voltages and currents in units of 2^-91, p and q in 2^-182 of the
product of full scales, and its marks. -/
structure MetSample where
  tag : Nat
  turn : Nat
  vs : List Int
  cs : List Int
  p : Int
  q : Int
  mark : Nat
  deriving DecidableEq, Repr

/-- An interval that has ended at a wrap whose last means are still to come (R186): the interval, the wrap's TAI time, the
cycles and the UTC boundary. -/
structure Closing where
  ivl : Interval
  wrap : Nat
  cycles : Nat
  bound : Nat
  deriving DecidableEq, Repr

/-- A metering point beside its registers: what a save holds, the samples (newest first), the channel outputs metered,
the interval that closes, the consecutive cycles each check's condition has held and been absent (R192), whether the
next mean is the first after start or resumption, whether it waits for a window without SETTLING (R197), whether a
start restored it, from which tag it was not metered, and the ampere-hours of R196. -/
structure Meter where
  info : EnPoint := {}
  hist : List MetSample := []
  done : Nat := 0
  closing : Option Closing := none
  held : List Nat := []
  absent : List Nat := []
  fresh : Bool := true
  waitSettle : Bool := false
  restored : Bool := false
  gapFrom : Option Nat := none
  ah : List Nat := []
  deriving DecidableEq, Repr

/-- A point of an energy-gap record: the eight estimates, the three ampere-hour values, V_LAST and PF_LAST. -/
structure GapPoint where
  point : Nat
  est : List Nat
  ah : List Nat
  vLast : Word
  pfLast : Word
  deriving DecidableEq, Repr

/-- An energy-gap record (Table 7.5): reason (0 NO_SAVE, 1 REEFED), start and end tags, TIME_SUSPECT, the points and
AH_SPAN_MS. -/
structure GapRec where
  reason : Nat
  start : Nat
  fin : Nat
  suspect : Bool
  points : List GapPoint
  ahSpan : Nat
  deriving DecidableEq, Repr

/-- An ampere-hour save (R196): its sequence, the tag of the last mean before the Reefed state it belongs to, the time
it spans in ms, and each point's three counters. -/
structure AhSave where
  seq : Nat
  start : Nat
  spanMs : Nat
  counts : List (Nat × List Nat)
  deriving DecidableEq, Repr

/-- Energy beside its registers (R179 to R198): the points, the interval records with their delivery mark, the two
save slots and the two ampere-hour slots, the gap records, the gap that runs (reason, start tag), the points that
still take their last mean after a power-fail signal, the tags of the last metered sample and of the last mean, the
start of current-only measurement, and whether its points still take their last mean. `saveAt` and `ahAt` are the MAST
ticks of the last periodic save and the last ampere-hour save, `saveDue` a periodic save that waits for the records of
an interval end (Table 7.2) and whether its write verifies, and `checked` the cycle count of the last checks. -/
structure Energy where
  points : NMap Meter := []
  records : List (List Word × Bool) := []
  saves : NMap (Option EnergySave) := []
  ahSaves : NMap (Option AhSave) := []
  gaps : List GapRec := []
  gap : Option (Nat × Nat) := none
  stopping : List Nat := []
  lastTag : Nat := 0
  lastMean : Nat := 0
  reefAt : Nat := 0
  reefPend : Bool := false
  saveAt : Nat := 0
  saveDue : Option Bool := none
  ahAt : Nat := 0
  checked : Nat := 0
  deriving DecidableEq, Repr

/-- The Scales beside their registers: the SYNC requests (1 pin, 2 command, 3 schedule) with the counter at each, the
local channels, the SV subscriptions, the corrections in force (M_u and φ_u by quantity, G_u and O_u by SV quantity),
each local stream's last instant and SCL_LS_STAT, whether the boot SYNC is stored or its fall-back made (R159), the
last 8 Mast commits (old and new TAI), the time that MOD has run since reset in TAI counter units (R151, R152), and
the energy part. -/
structure Scales where
  syncReq : List (Nat × Nat) := []
  chans : NMap Chan := []
  svs : NMap SvHist := []
  pq : NMap (Word × Word) := []
  svGain : NMap (Word × Word) := []
  lsLast : NMap (Option Nat) := []
  lsStat : NMap Word := []
  bootSync : Bool := false
  fallback : Bool := false
  modTime : Nat := 0
  commits : List (Nat × Nat) := []
  en : Energy := {}
  deriving DecidableEq, Repr

/-- A change of a trigger source's level (Table 8.1), numbered 128 + i for the pin of digital input i: its time in TAI
counter units, the level after it, whether it is an event whatever the level was, and whether it is none. -/
structure CapEv where
  src : Nat
  time : Nat
  level : Bool
  edge : Bool
  quiet : Bool := false
  deriving DecidableEq, Repr

/-- A record sample (R199): tag, the cycle clock's position at it in 2^-64 turn, the analogue values in Q1.31, the status
channels, whether it is missing, the Mast's TIME_SUSPECT and whether the cycle clock was LOCKED. -/
structure CapRow where
  tag : Nat
  pos : Int
  vals : List Int
  status : Word
  missing : Bool
  suspect : Bool
  locked : Bool
  deriving DecidableEq, Repr

/-- A record (R205, R222): its number, the flags of W1, the trigger's time, source and state, its position (k, phi),
the dead time and the refused triggers before it, t_b in TAI counter units, its samples (newest first), the positions
at which the post-trigger part and the longest extension end, of a REEFED record the position 20 turns after its
trigger, whether it has been exported, the Mast's reported time error and UTC offset at the trigger, and the layout,
the rate and the nominal frequency it was taken with (R222). -/
structure CapRec where
  no : Nat
  flags : Nat
  trig : Nat
  src : Nat
  state : Nat
  k : Nat
  frac : Nat
  dead : Nat
  missed : Nat
  bell : Option Nat := none
  rows : List CapRow
  endPos : Int
  maxPos : Int
  cutPos : Option Int := none
  exported : Bool := false
  tq : Nat := 0
  utc : Int := 0
  leap : Nat := 0
  damaged : List Nat := []
  layout : CapCfg := {}
  rate : Nat := 1
  hz : Nat := 50
  deriving DecidableEq, Repr

/-- Disturbance capture beside its registers (R199 to R225): the source changes that wait for their sample, the
pre-trigger history (newest first), the levels, the sequencer (state, counters of A and B, position at entry), the
running record and the stored ones (oldest first), the next number, the position at which the dead time ends with the
tag of the last record's last sample, the tag of the last record's end, the triggers refused since a record, the FORCE
and RESET requests, shedding and Reefed, the bell lines this module drives with the record that drove them and the
tick at which it began, the tick from which a line is high, the bell test, the SV samples of capture's own
subscriptions, and the export. `taken` counts the outputs of the first local channel recorded so far, `svFrom` is the
tag after which an SV layout goes on, `wq` the bytes in the write queue (R212), and `resumed` tells that a running
record has outlived a resumption. -/
structure Capture where
  ev : List CapEv := []
  hist : List CapRow := []
  levels : NMap Bool := []
  seq : Nat := 0
  cntA : Nat := 0
  cntB : Nat := 0
  entered : Int := 0
  run : Option CapRec := none
  recs : List CapRec := []
  nextNo : Nat := 0
  deadPos : Option Int := none
  deadTag : Option Nat := none
  lastEnd : Option Nat := none
  refused : Nat := 0
  force : Option Nat := none
  toS0 : Bool := false
  shed : Bool := false
  shedSeen : Bool := false
  reefed : Bool := false
  drive : NMap Bool := []
  drove : NMap (Option Nat) := []
  driveAt : NMap Nat := []
  high : NMap Nat := []
  test : Option (Nat × Nat) := none
  svIn : List SvSample := []
  exporting : Option Nat := none
  taken : Nat := 0
  svFrom : Option Nat := none
  wq : Nat := 0
  resumed : Bool := false
  deriving DecidableEq, Repr

/-- The last message sent for a (rule, instant): its kind, tag and input values, and the last message that was no
WITHDRAW. -/
structure LastMsg where
  kind : Nat
  tag : Nat
  vals : List Word
  content : Option AlarmRec
  deriving DecidableEq, Repr

/-- A rule's own state: THRESH and HYST in force once stored, the latest results and persisted states by instant (R284 to
R286), the last messages by instant (R287), the newest evaluated instant, and what EGR_RULE_W4 to W7 show. -/
structure RuleSt where
  stored : Option (Word × Word) := none
  conds : NMap (Option Bool) := []
  pers : NMap Bool := []
  last : NMap (Option LastMsg) := []
  newest : Option Nat := none
  lastInst : Nat := 0
  lastKind : Nat := 0
  lastTag : Nat := 0
  messages : Nat := 0
  deriving DecidableEq, Repr

/-- A publication's own state: stNum, sqNum, the entries newest first, the interval in ms to the next transmission,
the tick of the last one, and KEY_OK. -/
structure PubSt where
  stNum : Nat := 0
  sqNum : Nat := 0
  entries : List AlarmRec := []
  interval : Nat := 0
  sentAt : Nat := 0
  keyOk : Bool := true
  deriving DecidableEq, Repr

/-- An output stream's own state; `sent` are the instants whose first frame was sent and whose close notice has not
come, each with the revision its last frame carried. -/
structure OutSt where
  on : Bool := false
  frames : Nat := 0
  dropped : Nat := 0
  sent : List (Nat × Nat) := []
  deriving DecidableEq, Repr

/-- An item of an egress queue: its number, its priority, its length in bytes and its content; `stream` is an output
stream's item, and `since` the tick at which its composer began to wait. -/
structure QItem where
  ident : Nat
  prio : Nat
  len : Nat
  body : TxBody
  stream : Option Nat := none
  since : Nat := 0
  deriving DecidableEq, Repr

/-- An egress queue beside its registers (R305 to R310): the items in order of landing, the words staged by the host (0) and
the Deck (1), a Deck commit that waits for room (its priority and length), the item the host reads with the next word,
and the flags of EGR_Q_STAT and EGR_Q_POP. -/
structure Queue where
  items : List QItem := []
  staged : NMap (List Word) := []
  oversize : Bool := false
  badLen : Bool := false
  waiting : Option (Nat × Nat) := none
  reading : Option (Nat × Nat) := none
  flushed : Bool := false
  deriving DecidableEq, Repr

/-- A bulk transfer (R304): its number, type, record or first block, queue and byte stream, the next byte, the ribbon
blocks it covers (first instant, offset at which the block ends), its rate in Mbit/s and the tick from which the rate
allows its next datagram. -/
structure XfJob where
  job : Nat
  typ : Nat
  record : Nat
  queue : Nat
  dest : Nat
  bytes : List Nat
  ofs : Nat
  blocks : List (Nat × Nat)
  rate : Nat
  nextAt : Nat
  deriving DecidableEq, Repr

/-- Egress beside its registers (R282 to R312): rules, publications, output streams and queues, the next item's number, the
composers' items that wait on full queues (queue, item), the last queue served on each port class, and the transfer. -/
structure Egress where
  rules : NMap RuleSt := []
  pubs : NMap PubSt := []
  outs : NMap OutSt := []
  queues : NMap Queue := []
  nextId : Nat := 0
  waits : List (Nat × QItem) := []
  rr : NMap Nat := []
  xf : Option XfJob := none
  xfCount : Nat := 0
  deriving DecidableEq, Repr

/-- A watched signal's sample (R226 to R229): its value in units of 2^-149, whether it is valid, TIME_SUSPECT, and the
unwrapped angle of its phasor in units of 2^-32 turn. -/
structure SigVal where
  val : Int := 0
  ok : Bool := false
  suspect : Bool := false
  acc : Int := 0
  deriving DecidableEq, Repr

/-- A monitored branch's sample (R227): P and Q in units of 2^-149, θ in 2^-32 turn and ln(|V|/V_nom) in 2^-64;
whether the flow and whether θ were measured. -/
structure BrVal where
  p : Int := 0
  q : Int := 0
  th : Int := 0
  v : Int := 0
  ok : Bool := false
  thOk : Bool := false
  suspect : Bool := false
  acc : Int := 0
  deriving DecidableEq, Repr

/-- A location slot (R244 to R246, NST_LOC0 to NST_LOC3); `freq` is its mode's last frequency in µHz. -/
structure LocSlot where
  mode : Option Nat := none
  freq : Nat := 0
  valid : Bool := false
  warming : Bool := false
  suspect : Bool := false
  share : Nat := 0
  srcBus : Nat := 0
  dSrc : Word := 0#32
  topBranch : Nat := 0
  dTop : Word := 0#32
  deriving DecidableEq, Repr

/-- A signal's own state (R229, R234, NST_SIG_W0 to W3); `valid` tells that its amplitudes are not INVALID. -/
structure SigSt where
  excluded : Bool := false
  pct : Nat := 0
  emAmp : Word := 0#32
  fastAmp : Word := 0#32
  peakMhz : Nat := 0
  valid : Bool := false
  suspect : Bool := false
  deriving DecidableEq, Repr

/-- The oscillation state after an instant, as a re-run takes it up (R232): the signals, the EXCLUDED branches, the
fast mode slots, the location slots and the class values of the fast band and of the amplitudes. -/
structure OscSt where
  sigs : NMap SigSt := []
  brEx : NMap Bool := []
  slots : NMap ModeSlot := []
  locs : NMap LocSlot := []
  damp : Bool := false
  amp : Bool := false
  deriving DecidableEq, Repr

/-- What a processed instant or extraction counts: exclusions, modes tracked, lost, dropped, and suppressed DAMP
evaluations. -/
structure OscEv where
  excl : Nat := 0
  news : Nat := 0
  losts : Nat := 0
  ovf : Nat := 0
  supp : Nat := 0
  deriving DecidableEq, Repr

/-- The state of a band (NST_OSC_STATUS). -/
inductive BandState where
  | off
  | warming
  | seeded
  | run
  | shed
  deriving DecidableEq, Repr

/-- What an instant found beside its inputs, for a re-run (R232): the fast band's state and first instant,
NST_THR_FAST, and of the EM band, which a re-run does not affect, the slots, the location slots it held and its
OSC_DAMP. -/
structure OscEnv where
  fastSt : BandState := .off
  fastFrom : Option Nat := none
  thr : Word := 0#32
  emSlots : NMap ModeSlot := []
  emLocs : NMap LocSlot := []
  emDamp : Bool := false
  deriving DecidableEq, Repr

/-- A processed instant of the oscillation watch: its inputs, its tag, what it found, the state after it and what it
counted. -/
structure OscInst where
  inst : Nat
  tag : Nat
  sigs : List SigVal
  brs : List BrVal
  refAcc : Int
  refOk : Bool
  env : OscEnv := {}
  after : OscSt
  ev : OscEv := {}
  deriving DecidableEq, Repr

/-- A status point's state (R262): its last known value (none: never known), whether it is UNKNOWN, and the instant since
which a DOUBLE point is intermediate. -/
structure PointSt where
  known : Option Bool := none
  unknown : Bool := true
  inter : Option Nat := none
  deriving DecidableEq, Repr

/-- A measured bus at an instant (R263): frequency in units of 2^-149 Hz, the angle of its phasor in 2^-32 turn when it is
valid, DEAD, and TIME_SUSPECT. -/
structure BusVal where
  valid : Bool := false
  dead : Bool := false
  freq : Int := 0
  theta : Option Nat := none
  suspect : Bool := false
  deriving DecidableEq, Repr

/-- Island slot states (Table 10.2). -/
inductive IslState where
  | free
  | pending
  | declared
  | suspected
  | ending
  deriving DecidableEq, Repr

/-- An island slot (R269, R270, NST_ISL_W0 to W7). `was` is the state an ENDING slot came from, `calm` its instants
without divergence, `theta0` and `slip` the separation angle at the first tracked instant and the slip since, in 2^-32
turn, `declAt` the instant of its declaration. -/
structure IslSlot where
  st : IslState := .free
  was : IslState := .free
  buses : List Nat := []
  group : Bool := false
  count : Nat := 0
  calm : Nat := 0
  fCoi : Word := 0#32
  df : Int := 0
  theta : Option Int := none
  theta0 : Option Int := none
  slip : Int := 0
  statusLost : Bool := false
  suspect : Bool := false
  reconnected : Bool := false
  dead : Bool := false
  measured : Nat := 0
  inst : Nat := 0
  tag : Nat := 0
  declAt : Option Nat := none
  deriving DecidableEq, Repr

/-- The topology state after an instant: the points, each bus's component, the main component, the island slots and the
previous centre-of-inertia angles of the main component and of the system, and the references delivered (R266). -/
structure TopSt where
  pts : NMap PointSt := []
  comp : List Nat := []
  mainComp : Nat := 0
  slots : NMap IslSlot := []
  mainTheta : Option Int := none
  sysTheta : Option Int := none
  lost : List Nat := []
  unobserved : Nat := 0
  coiSystem : Option Int := none
  coiHome : Option Int := none
  deriving DecidableEq, Repr

/-- What a processed instant brings about: branches that gained STATUS_LOST, slots that became DECLARED or SUSPECTED, slots
ended, candidates left out. -/
structure TopEv where
  gained : Nat := 0
  declared : Nat := 0
  suspected : Nat := 0
  ended : Nat := 0
  ovf : Nat := 0
  deriving DecidableEq, Repr

/-- A processed instant of the topology unit: the status words and bus measurements, its tag, the state after it and,
for a re-run (R277), whether it rebuilt, NST_ISL_THR and NST_ISL_SUSP at it, and what it counted. -/
structure TopInst where
  inst : Nat
  tag : Nat
  words : List (Option (BitVec 16))
  buses : List (Nat × BusVal)
  after : TopSt
  rebuilt : Bool := false
  thr : Word := 0#32
  susp : Word := 0#32
  ev : TopEv := {}
  deriving DecidableEq, Repr

/-- The Crow's Nest beside its registers (R226 to R281): the processed instants, newest last; the FINAL_REV of each
closed instant; the instant of the last extraction; the EM mode slots; the location slots; the bands; baselines
stored; and the latest-status graph (R275). `baseAt` is the tick of the last baseline period's start, and `emSeed` the
subspace the EM estimator was seeded with. -/
structure Nest where
  osc : List OscInst := []
  finals : NMap (Option Nat) := []
  extracted : Nat := 0
  emSlots : NMap ModeSlot := []
  locs : NMap LocSlot := []
  emState : BandState := .off
  fastState : BandState := .off
  emFirst : Option Nat := none
  fastFirst : Option Nat := none
  emDamp : Bool := false
  dampNow : Bool := false
  ampNow : Bool := false
  srcNow : Bool := false
  saveNow : Bool := false
  baselines : List Baseline := []
  baseAt : Nat := 0
  emSeed : List Word := []
  top : List TopInst := []
  latest : NMap (Option (Nat × PointSt)) := []
  split : Bool := false
  rebuild : Bool := false
  holdClasses : Bool := false
  declNow : Bool := false
  suspNow : Bool := false
  stopped : Bool := false
  deriving DecidableEq, Repr

/-- One opening of a data window (R481 to R484). `words` are the words not yet read; `why` is END_WHY; `more`
tells that packed blocks are still to come, and `cutAt` is the tick of an ABORT. -/
structure Window where
  words : List (BitVec 64) := []
  openSeq : Nat := 0
  ended : Bool := true
  why : Nat := 0
  pad : Nat := 0
  cutAt : Option Nat := none
  count : Word := 0#32
  more : Bool := false
  deriving DecidableEq, Repr

/-- The host interface beside its registers (R470 to R485): the power state of the function, the MSI-X pending bits
and function mask, the 32-bit-read shadow of R476, and the host writes that do not complete yet, oldest first (R474). -/
structure HostIf where
  d3hot : Bool := false
  funcMask : Bool := false
  pba : Word := 0#32
  shadow : Option (Nat × Word) := none
  held : List Instr := []
  heldAt : Nat := 0
  windows : NMap Window := []
  deriving DecidableEq, Repr

/-- CTL_STATUS.DECK_STATE (R344, R19). -/
inductive DeckState where
  | run
  | restarting
  | failed
  deriving DecidableEq, Repr

/-- The thread states of Table 13.2. -/
inductive ThreadState where
  | dormant
  | waiting
  | ready
  | running
  | faulted
  deriving DecidableEq, Repr

/-- One thread (R331, R332, CTL_TH_W0 and W1). `timeout` is the ticks left of a WAIT with a timeout; `faultTicks` are
the MAST ticks of its faults since the last Deck restart, newest first; `firedAt` the time stamp of the newest
schedule firing posted to it (R58). -/
structure Thread where
  st : ThreadState := .dormant
  prio : Nat := 0
  affinity : BitVec 4 := 0#4
  core : Nat := 0
  hostPost : Bool := false
  posts : Nat := 0
  faults : Nat := 0
  faultTicks : List Nat := []
  dispatches : Word := 0#32
  timeout : Option Nat := none
  firedAt : Option Nat := none
  deriving DecidableEq, Repr

/-- The source of a post that does not complete (Table 13.3). -/
inductive PostSource where
  | intBit (reg : Nat) (bit : Nat)
  | instr (core : Nat)
  | host
  | tick
  deriving DecidableEq, Repr

/-- An open W2WIN observation window of one core (R349). -/
structure W2Win where
  addr : BitVec 48
  thread : Nat
  deriving DecidableEq, Repr

/-- The Deck beside its registers (R328 to R350). `running` lists the thread on each core; `ready` is the ready lists
in order, highest priority first and FIFO within it; `held` are the posts that do not complete, oldest first;
`beganAt` the tick at which the restart or start began, `w2At` the ticks since which the cores' next observation
windows are awaited, and `seen` the live counters at the last MAST tick, from which the performance counters take
their events. -/
structure Deck where
  st : DeckState := .restarting
  isStart : Bool := true
  cause : Nat := 0
  restarts : Nat := 0
  threads : NMap Thread := []
  ready : List Nat := []
  running : NMap (Option Nat) := []
  coreUp : BitVec 4 := 0#4
  postq : List Nat := []
  held : List (PostSource × Nat) := []
  hostRefused : Bool := false
  wdogOn : Bool := false
  wdogAt : Nat := 0
  sampling : NMap Bool := []
  w2 : NMap (Option W2Win) := []
  beganAt : Nat := 0
  w2At : NMap Nat := []
  seen : NMap Nat := []
  deriving DecidableEq, Repr

/-- Memory integrity beside its registers (R351 to R357): corrections of each byte lane and of each 4 KiB unit in the
present patrol pass, the codewords that the scrubber poisoned and no consumer has read, the codeword the scrubber
reads next, the tick at which its pass began, and the units retired. -/
structure MemInt where
  laneCe : NMap Nat := []
  unitCe : NMap Nat := []
  poison : List Nat := []
  scrubAt : Nat := 0
  scrubPeriod : Nat := 24
  scrubFrom : Nat := 0
  retired : List Nat := []
  degraded : Option (Nat × Nat) := none
  deriving DecidableEq, Repr

/-- A block's work for the Packer engine (R319, R320): its channel and SRC code, its original bytes, whether it is the last
of its job or ends by a flush, whether it is written raw by request or as shed when it started, its SRC_INFO and number,
the first and last instant of a ribbon block, and the window an export's block goes to. -/
structure PakBlock where
  chan : Nat
  src : Nat
  bytes : List Nat
  last : Bool := false
  flushed : Bool := false
  rawReq : Bool := false
  shed : Bool := false
  unpack : Bool := false
  info : Nat := 0
  seq : Nat := 0
  first : Nat := 0
  final : Nat := 0
  window : Nat := 0
  deriving DecidableEq, Repr

/-- The channel-3 job (R321): operation (0 PACK, 1 UNPACK, 2 RAW), its input, the output space and place, the block length,
the input consumed, the output so far and the next block's number. -/
structure PakJob where
  op : Nat
  input : List Nat
  dst : Nat
  dlen : Nat
  block : Nat
  pos : Nat := 0
  out : List Nat := []
  seq : Nat := 0
  deriving DecidableEq, Repr

/-- The Packer beside its registers: the block in progress, the work of channels 1 and 2, the channel-3 job and the egress
and Packer buffer region's bytes. -/
structure Packer where
  shed : Bool := false
  engine : Option PakBlock := none
  work : NMap (List PakBlock) := []
  job : Option PakJob := none
  mem : NMap Nat := []
  deriving DecidableEq, Repr

/-- An event record (Table 15.2), in the volatile buffer or in the event log. `seq` and `epoch` are given when it is
written (R367); `frozen` holds while its flush write runs (R365), and `bad` once an uncorrectable error is in it
(R376). Times are of the first and last occurrence. -/
structure LRec where
  src : Nat := 0
  code : Nat := 0
  sev : Nat := 0
  key : Word := 0#32
  data : List Word := []
  suspect : Bool := false
  repSat : Bool := false
  firstSec : Nat := 0
  firstNs : Nat := 0
  lastSec : Nat := 0
  rept : Nat := 1
  opHours : Nat := 0
  pwrCycles : Nat := 0
  seq : Nat := 0
  epoch : Nat := 0
  frozen : Bool := false
  bad : Bool := false
  deriving DecidableEq, Repr

/-- A control record (R366, R370): what the chapters say every control record holds; `bad`: its check fails (R376). -/
structure CtlRec where
  epoch : Nat := 0
  seq : Nat := 0
  opHours : Nat := 0
  pwrCycles : Nat := 0
  clearPending : Bool := false
  bad : Bool := false
  deriving DecidableEq, Repr

/-- A clear record (R375 step 6). -/
structure ClearRec where
  scope : Nat
  nonce : BitVec 64
  parties : List Nat
  fromEpoch : Nat
  fromSeq : Nat
  toEpoch : Nat
  toSeq : Nat
  sec : Nat
  opHours : Nat
  pending : Bool
  deriving DecidableEq, Repr

/-- One histogram track's counts (R371). -/
structure Track where
  bins : NMap Nat := []
  count : Nat := 0
  sum : Int := 0
  min : Option (Int × Nat × Nat) := none
  max : Option (Int × Nat × Nat) := none
  deriving DecidableEq, Repr

/-- The last-words block (Table 15.6), in the Sentry domain. -/
structure LastWords where
  reason : Nat
  ofs : Nat
  seq : Nat
  epoch : Nat
  sec : Nat
  opHours : Nat
  pwrCycles : Nat
  drops : List Nat
  lost : Nat
  tick : Nat
  deriving DecidableEq, Repr

/-- LDG_CLR_STAT.STATE (R375). -/
inductive ClearState where
  | idle
  | awaitAuth
  | authorized
  | clearing
  deriving DecidableEq, Repr

/-- The Ledger beside its registers (R359 to R382): the volatile buffer and the areas of Table 15.1 (the energy and
baseline areas are kept with the Scales and the Crow's Nest), and the clear under way. `seq` and `epoch` are those of
the newest record written. `evRead` and `enRead` are the event and the energy records of the open read, `enFrom` the
number of window words before the first of the latter, `packed` that it is packed. -/
structure Ledger where
  buf : List LRec := []
  log : List LRec := []
  control : List CtlRec := []
  clears : List ClearRec := []
  tracks : NMap Track := []
  copyA : Option (NMap Track) := none
  copyB : Option (NMap Track) := none
  copyTurn : Bool := false
  seq : Nat := 0
  epoch : Nat := 0
  opHours : Nat := 0
  pwrCycles : Nat := 0
  spares : Nat := 256
  relocated : List Nat := []
  flushReq : Bool := false
  faultFlush : Bool := false
  dropNote : Bool := false
  fail : Bool := false
  failReason : Nat := 0
  recordsLost : Nat := 0
  clr : ClearState := .idle
  clrScope : Nat := 0
  clrNonce : BitVec 64 := 0#64
  clrParties : List Nat := []
  clrPending : Bool := false
  evRead : List (Nat × Nat) := []
  enRead : List (List Word) := []
  enFrom : Nat := 0
  packed : Bool := false
  lwValid : Bool := false
  flushAt : Option Nat := none
  clrWait : Bool := false
  clrAt : Nat := 0
  trackDue : NMap Nat := []
  tracksAt : Nat := 0
  lwAt : Nat := 0
  lateSeen : Nat := 0
  badA : List Nat := []
  badB : List Nat := []
  reefedSummary : List Nat := []
  reefedHeaders : List Nat := []
  deriving DecidableEq, Repr

/-- The Sentry domain (R22, R383 to R390): the crystal's 48-bit tick count, the legacy calendar as its two registers
lay it out, the posted commit and latch, the reference pair's validity, the last-words block, FURL_CMD, and the rail
fault of R460. `phase` counts the time within a tick in 1/1,953,125 of one, `dead` that the domain has no supply,
`vbatNew` and `lostNew` that VBAT_FIRST and SENTRY_LOST are to be written. `freeze` is the shadow frozen by a first
read with its tick, `torn` that a read sequence was released before it ended. `shadow` is the copy that the LINK
domain reads (R24), in the order of sentryAddrs, and `posted` the writes that wait for the next SENTRY tick: the
register, the bits written, the bits cleared and the value. -/
structure Sentry where
  tick : Nat := 0
  legTime : Word := 0#32
  legDate : Word := 0x101#32
  phase : Nat := 0
  dead : Bool := false
  commit : Bool := false
  latchPend : Bool := false
  refValid : Bool := false
  onVbat : Bool := false
  lastWords : Option LastWords := none
  vbatNew : Bool := false
  lostNew : Bool := false
  furlLatch : Bool := false
  railFault : Option Nat := none
  freeze : NMap (Option (Nat × List Word)) := []
  torn : NMap Bool := []
  shadow : List Word := []
  posted : List (Nat × Word × Word × Word) := []
  deriving DecidableEq, Repr

/-- The states of a key slot (R399). -/
inductive SlotState where
  | free
  | valid
  | orphan
  | zeroized
  deriving DecidableEq, Repr

/-- A key slot (R397, TIL_SLOT_W0 to W3). `level` is 0 for level 2 to 2 for level 4, `fin` the validity end, and `key` names
the key material, which no register shows. `expired` is set when the validity ends (R405). -/
structure TillSlot where
  st : SlotState := .free
  level : Nat := 0
  parent : Nat := 1024
  typ : Nat := 0
  usage : Nat := 0
  exportable : Bool := false
  persist : Bool := false
  label : Nat := 0
  fin : Nat := 0
  key : Nat := 0
  expired : Bool := false
  deriving DecidableEq, Repr

/-- A mapped group-key entry (R406). -/
structure GkEntry where
  keyId : Nat
  group : Nat
  tagLen : Nat
  slot : Nat
  start : Nat
  fin : Nat
  deriving DecidableEq, Repr

/-- TIL_STATUS.STATE. -/
inductive TillMode where
  | starting
  | ready
  | sealed
  | tampered
  deriving DecidableEq, Repr

/-- A command taken from an interface (0 the host's, 1 the Deck's, 2 the service port's) with its arguments and input
mailbox. `ok` is the verdict of the check the command makes on data from outside; `cert` is ENROL's argument CERT; `seq` the
service request's SEQ. -/
structure TillReq where
  iface : Nat
  code : Nat
  more : Bool := false
  cert : Bool := false
  ok : Bool := true
  args : List Nat
  mbox : List Nat
  seq : Word := 0#32
  deriving DecidableEq, Repr

/-- What a command changes in the Till when it completes. -/
inductive TillEffect where
  | none
  | create (n : Nat) (x : TillSlot)
  | destroy (n : Nat)
  | gkMap (i : Nat) (e : GkEntry)
  | gkUnmap (i : Nat)
  | request (op nonce : Nat)
  | counted (op holder : Nat)
  | authFail (holder : Nat)
  | zeroize
  | enrol (seed : Nat)
  | cert (bytes : List Nat)
  | calEnrol (bytes : List Nat)
  | purge
  | attest (bytes : List Nat)
  deriving DecidableEq, Repr

/-- A command's result: TIL_RES, TIL_OUT, TIL_MBOX_OUT and its effect. -/
structure TillOut where
  status : Nat
  slot : Nat := 0x7FF
  outs : List Nat := []
  mbox : List Nat := []
  eff : TillEffect := .none
  deriving DecidableEq, Repr

/-- An operation open on an interface (R403): its code and arguments, the bytes consumed, and the tick of its last chunk. -/
structure TillOpen where
  code : Nat
  args : List Nat
  data : List Nat
  since : Nat := 0
  deriving DecidableEq, Repr

/-- An authorization request (R410): its nonce, the holders counted, whether it is complete, and the tick of its start. -/
structure AuthReq where
  nonce : Nat
  holders : List Nat := []
  complete : Bool := false
  since : Nat := 0
  deriving DecidableEq, Repr

/-- The Till beside its registers (R391 to R416). `slots` are the key slots, `gk` the group-key table, `cache` the sealed
key cache with each entry's slot, `queue` the commands that wait and `running` the one that runs with its result,
`open` the operations open on the interfaces, `auths` the requests by operation type, `seed` the enrolment's helper
data, `enrolled` that an ENROL waits for its certificate. `fw`, `img` and `conf` are the measured hashes of
R408 and `calArea` the factory calibration area by channel and word. -/
structure Till where
  st : TillMode := .starting
  sealReason : Nat := 0
  root : Option Nat := none
  uid : Nat := 0
  slots : NMap TillSlot := []
  gk : NMap (Option GkEntry) := []
  cache : List (Nat × TillSlot) := []
  cacheDrop : Nat := 0
  queue : List TillReq := []
  running : Option (TillReq × TillOut) := none
  opened : NMap (Option TillOpen) := []
  auths : NMap (Option AuthReq) := []
  seed : Nat := 0
  enrolled : Bool := false
  enrolCount : Nat := 0
  certificate : List Nat := []
  restored : Bool := false
  fw : Nat := 0
  img : Nat := 0
  conf : Nat := 0
  calArea : NMap Word := []
  deriving DecidableEq, Repr

/-- The role of the node (Table 17.1, SHR_STATUS.ROLE). -/
inductive Role where
  | standby
  | active
  | lapsed
  | resync
  | solo
  | clerkOnly
  deriving DecidableEq, Repr

/-- A Shroud link (R422, R423): up, the credits held to send, the credits to return to the peer, the sequence number of its
next frame and the frames that wait for credits (type and payload). -/
structure Shroud where
  up : Bool := false
  credits : Nat := 256
  owed : Nat := 0
  seq : Nat := 0
  waits : List (Nat × List Word) := []
  deriving DecidableEq, Repr

/-- What a Clerk keeps for a pair (R432): the holder, the epoch, LAST_RENEW, and by node REQ_FIRST and the time of its last
REQUEST, in µs; `free` is the node whose next REQUEST is granted without waits. -/
structure ClerkPair where
  holder : Option Nat := none
  epoch : Nat := 0
  lastRenew : Nat := 0
  first : NMap Nat := []
  last : NMap (Option Nat) := []
  free : Option Nat := none
  deriving DecidableEq, Repr

/-- The pair beside its registers (R417 to R437). `lease` holds from a lease write until its deadline passes or it is
dropped; `mono` is SHR_MONO; `tx` are the SHR_MONO values at which the last 64 heartbeats left, by number modulo 64;
`peerOnce` that the peer has been seen since the start; `releaseAt` and `releaseSeq` are the time and number of the
last RELEASE; `wants` that R431 calls for a REQUEST, `askedAt` the time of a REQUEST that no reply has answered and
`askNext` that of the next one; `sent` are the last 8 messages to the Clerk (NODE_SEQ and send time); `own`, with the
tick of the close, and `theirs` the digests that wait to be compared and `marks` the last 256 comparisons (0 match, 1
mismatch, 2 uncompared); `digests` the entries of the next DIGEST frame; `closed` the newest closed instant; the
mirrors, the age of the ENERGY mirror in seconds and the peer's newest report; `adopt` the accumulators that an
interval boundary adopts; `hbAt`, `renewAt` and `healthAt` the ticks at which the next heartbeat, RENEW and report are
due, `hbRxAt` and `replyAt` those of the last valid heartbeat and reply, `digAt` that of the first entry in `digests`,
`peerOut` that the peer has been declared lost; the Clerk service's pairs and the end of its quiet period. -/
structure Pair where
  role : Role := .resync
  lease : Bool := false
  mono : Nat := 0
  hbSeq : Nat := 0
  tx : NMap (Option Nat) := []
  peerSeen : Bool := false
  peerOnce : Bool := false
  confirm : Bool := false
  releaseAt : Option Nat := none
  releaseSeq : Option Nat := none
  wants : Bool := false
  askedAt : Option Nat := none
  askNext : Nat := 0
  renewAt : Nat := 0
  replyAt : Nat := 0
  hbAt : Nat := 0
  hbRxAt : Nat := 0
  peerOut : Bool := false
  digAt : Nat := 0
  healthAt : Nat := 0
  nodeSeq : Nat := 0
  sent : List (Nat × Nat) := []
  clerkLost : Bool := false
  links : NMap Shroud := []
  own : List (Nat × Nat × Nat) := []
  theirs : List (Nat × Nat) := []
  marks : List Nat := []
  matchRun : Nat := 0
  diverged : Bool := false
  resynced : Bool := false
  digests : List (Nat × Nat × Nat) := []
  closed : Nat := 0
  peerHealth : List Word := []
  mirrorEnergy : Option EnergySave := none
  mirrorAge : Nat := 0
  mirror : List (List Word) := []
  adopt : Option (List (Nat × EnPoint)) := none
  clerks : NMap ClerkPair := []
  quietUntil : Option Nat := none
  deriving DecidableEq, Repr

/-- BOT_STATUS.MODE. -/
inductive BootMode where
  | normal
  | sealed
  | recovery
  deriving DecidableEq, Repr

/-- Where a start stands: the die in reset, its reset released, or the start done. -/
inductive BootPhase where
  | held
  | released
  | running
  deriving DecidableEq, Repr

/-- The bank states of Table 18.1, in the order of BOT_BANK_A.STATE. -/
inductive BankState where
  | empty
  | writing
  | valid
  | rejected
  | active
  deriving DecidableEq, Repr

/-- A boot record (R439). `why` is the recovery entry reason. -/
structure BootRec where
  seq : Nat := 0
  activeBank : Nat := 0
  bankA : BankState := .empty
  bankB : BankState := .empty
  prevBank : Nat := 0
  trial : Bool := false
  failCnt : Nat := 0
  secMin : Nat := 0
  why : Nat := 0
  deriving DecidableEq, Repr

/-- A VERIFY or ERASE under way: its bank, and the SEQ of the service request that asked for it. -/
structure BankJob where
  erase : Bool
  bank : Nat
  svc : Option Word
  deriving DecidableEq, Repr

/-- The boot block beside its registers (R438 to R459). `copies` are the two copies of the boot record, `flash` and
`images` the banks' bytes (an unwritten byte reads 255) and what their headers declare, `last` LAST_RESULT, `running`
the image loaded at the last start or full activation, `act` BOT_STATUS.ACT with its new bank `target` and its kind (1
firmware-only, 2 full), `trialKind` the kind of the activation on trial, `cold` that the start is from power-off,
`log` the recovery log's bytes, `actTick` the tick of the last activation, `silentAt` that of its silencing and `okAt`
that of NODE_OK's rise. -/
structure Boot where
  mode : BootMode := .normal
  phase : BootPhase := .released
  dataPath : Bool := false
  started : Bool := false
  configLost : Bool := false
  actTick : Option Nat := none
  silentAt : Nat := 0
  okAt : Option Nat := none
  copyA : BootRec := {}
  copyB : BootRec := {}
  flash : NMap (NMap Nat) := []
  images : NMap (Option PenegImage) := []
  last : NMap Nat := []
  running : Option PenegImage := none
  fallback : Bool := false
  job : Option BankJob := none
  act : Nat := 0
  actKind : Nat := 0
  target : Nat := 0
  trialKind : Nat := 0
  cold : Bool := true
  log : List Nat := []
  deriving DecidableEq, Repr

/-- The power states of Table 19.2. -/
inductive PowerState where
  | fullSail
  | reefed
  | furled
  deriving DecidableEq, Repr

/-- A rail's measurement (R461): the voltage, the lowest since start, the current, and the consecutive readings out of
range. -/
structure Rail where
  mv : Nat := 0
  least : Option Nat := none
  ma : Nat := 0
  outside : Nat := 0
  deriving DecidableEq, Repr

/-- The power-management unit beside its registers (R460 to R469): the attempts of R460 that failed, the consecutive
sensor readings at or above TRIP_C, and for each shed level those at or below its leaving temperature. `tempSeen`
tells that a sensor reading was taken since start. `vin` is the input in mV as last seen and `vinHigh` counts readings
in a row at or above 10.8 V; `triedAt` is the crystal's tick of the last failed attempt, and `sensorDue` and `measDue`
the MAST ticks of the next readings. -/
structure Power where
  st : PowerState := .fullSail
  why : Nat := 0
  tries : Nat := 0
  rails : NMap Rail := []
  hot : Nat := 0
  shed : Nat := 0
  calm : NMap Nat := []
  tempSeen : Bool := false
  vin : Nat := 0
  vinHigh : Nat := 0
  triedAt : Nat := 0
  sensorDue : Nat := 0
  measDue : Nat := 0
  deriving DecidableEq, Repr

/-- Why the machine stops. No command of this block stops it: the spec gives every command an effect. -/
inductive Fault where
  /-- Raised by nothing: no rule of the spec stops the node (safe). -/
  | stopped
  deriving DecidableEq, Repr

/-- Why a command is refused. -/
inductive Refusal where
  /-- The command has no meaning in the model yet; raised only by an arm of `exec` (safe). -/
  | notModelled (mnemonic : String)
  deriving DecidableEq, Repr

/-- The node. `regs` is the register file (every register without a field of its own below), `live` the live counters,
keyed by the BAR0 offset of their snapshot bank; `ticks` counts MAST ticks since reset and `tai` is the TAI counter in
units of 2^-28 ns; `free` numbers the free values drawn so far. -/
structure State where
  regs : NMap Word
  live : NMap Nat
  ticks : Nat
  tai : Nat
  free : Nat
  mast : Mast
  host : HostIf
  deck : Deck
  ports : NMap Port
  ing : Ingest
  mkt : Market
  scales : Scales
  cap : Capture
  pak : Packer
  nest : Nest
  egr : Egress
  pair : Pair
  till : Till
  mem : MemInt
  ledger : Ledger
  sentry : Sentry
  boot : Boot
  power : Power
  nodeOk : Bool
  cfg : Image
  out : List OutMsg
  pending : List Instr
  deriving DecidableEq, Repr

/-- The machine right after reset, an M16K (notes/assumptions/25.md, 42.md): the die's reset is released and no start
has run, every register at its reset value, no image in either bank and nothing recorded. -/
def State.reset : State :=
  { regs := [], live := [], ticks := 0, tai := 0, free := 0, mast := {}, host := {}, deck := {}, ports := [], ing := {}, mkt := {},
    scales := {}, cap := {}, pak := {}, nest := {}, egr := {}, pair := {}, till := {}, mem := {}, ledger := {}, sentry := {},
    boot := {}, power := {}, nodeOk := false, cfg := {}, out := [], pending := [] }

/-- The other variant of Table 0.2 right after reset: HST_VARIANT reads HW_TYPE 2 and 4,096 streams. -/
def State.resetM4k : State := { State.reset with regs := [(HST_VARIANT, 0x4002#32)] }

end Sys2Proof.Machine
end

