-- ==== Sys2Proof/Machine/Operands.lean ====
section
/-!
DEFINITION. Reading and writing the pieces that commands work on: sparse tables in canonical form, fields of words,
checksums (R318, R362, R426), little-endian words (R513) and signed values.
-/

namespace Sys2Proof.Machine

/-! Sparse tables. `d` gives the value an unlisted key reads as. -/

/-- The value at key `a`. -/
def mapGet {α : Type} (d : Nat → α) : NMap α → Nat → α
  | [], a => d a
  | (k, v) :: m, a => if k = a then v else mapGet d m a

/-- Write `v` at key `a`, keeping the canonical form. -/
def mapSet {α : Type} [DecidableEq α] (d : Nat → α) : NMap α → Nat → α → NMap α
  | [], a, v => if v = d a then [] else [(a, v)]
  | (k, w) :: m, a, v =>
    if a < k then (if v = d a then (k, w) :: m else (a, v) :: (k, w) :: m)
    else if a = k then (if v = d a then m else (a, v) :: m)
    else (k, w) :: mapSet d m a v

/-- The canonical form: keys strictly rising, no entry equal to what an unlisted key reads as. -/
def mapWf {α : Type} [DecidableEq α] (d : Nat → α) : NMap α → Bool
  | [] => true
  | (k, v) :: m => decide (v ≠ d k) && m.all (fun p => decide (k < p.1)) && mapWf d m

/-- Read a table whose unlisted keys read as `d`. -/
def tget {α : Type} (d : α) (m : NMap α) (a : Nat) : α := mapGet (fun _ => d) m a

/-- Write such a table. -/
def tset {α : Type} [DecidableEq α] (d : α) (m : NMap α) (a : Nat) (v : α) : NMap α :=
  mapSet (fun _ => d) m a v

/-- Its canonical form. -/
def twf {α : Type} [DecidableEq α] (d : α) (m : NMap α) : Bool := mapWf (fun _ => d) m

/-! Fields of words. -/

/-- Bits `lo + n - 1 : lo` of a number. -/
def fieldN (w lo n : Nat) : Nat := w / 2 ^ lo % 2 ^ n

/-- Bits `lo + n - 1 : lo` of a word, as a number. -/
def field (w : Word) (lo n : Nat) : Nat := fieldN w.toNat lo n

/-- Bit `k` of a word. -/
def bitAt (w : Word) (k : Nat) : Bool := w.toNat.testBit k

/-- A word with bits `lo + n - 1 : lo` replaced by `v` (taken modulo 2^n). -/
def withField (w : Word) (lo n v : Nat) : Word :=
  BitVec.ofNat 32 (w.toNat - fieldN w.toNat lo n * 2 ^ lo + v % 2 ^ n * 2 ^ lo)

/-- A word with bit `k` set. -/
def withBit (w : Word) (k : Nat) : Word := w ||| BitVec.ofNat 32 (2 ^ k)

/-- A word with bit `k` given. -/
def withBool (w : Word) (k : Nat) (b : Bool) : Word := withField w k 1 (if b then 1 else 0)

/-- 1 for true. -/
def b2n (b : Bool) : Nat := if b then 1 else 0

/-- A 32-bit word of a number. -/
def wordOf (n : Nat) : Word := BitVec.ofNat 32 n

/-- The low and high word of a 64-bit value. -/
def loWord (n : Nat) : Word := BitVec.ofNat 32 n
def hiWord (n : Nat) : Word := BitVec.ofNat 32 (n / 2 ^ 32)

/-- Two words as one 64-bit read, the low word at the lower address (R513). -/
def pairWord (lo hi : Word) : BitVec 64 := hi ++ lo

/-- A number of `n` bits read as two's complement. -/
def signedN (v n : Nat) : Int := if v < 2 ^ (n - 1) then (v : Int) else (v : Int) - 2 ^ n

/-- An integer as an unsigned number of `n` bits (two's complement). -/
def unsignedN (v : Int) (n : Nat) : Nat := (v % (2 ^ n : Nat)).toNat

/-- Add with saturation at `top`. -/
def satAdd (a b top : Nat) : Nat := if a + b ≤ top then a + b else top

/-- A number kept between two bounds. -/
def clampNat (lo hi v : Nat) : Nat := if v < lo then lo else if hi < v then hi else v

def clampInt (lo hi v : Int) : Int := if v < lo then lo else if hi < v then hi else v

/-- A field that acts as `least` when it holds less. -/
def atLeast (least v : Nat) : Nat := if v < least then least else v

/-- Two 32-bit counts compared modulo 2^32 within 2^31: `a` at or after `b` (R418, R491). -/
def atOrAfter32 (a b : Nat) : Bool := decide ((a + 2 ^ 32 - b % 2 ^ 32) % 2 ^ 32 < 2 ^ 31)

/-- The rounded quotient of two numbers, halves up. -/
def divRound (a b : Nat) : Nat := (2 * a + b) / (2 * b)

/-- The quotient rounded up. -/
def divUp (a b : Nat) : Nat := (a + b - 1) / b

/-- An integer quotient rounded to the nearest, halves away from zero. -/
def divRoundInt (a : Int) (b : Nat) : Int :=
  if a < 0 then -((divRound a.natAbs b : Nat) : Int) else ((divRound a.natAbs b : Nat) : Int)

/-! Bytes and checksums. -/

/-- The four bytes of a word, byte 0 carrying bits 7:0 (R513). -/
def wordBytes (w : Word) : List Nat :=
  [field w 0 8, field w 8 8, field w 16 8, field w 24 8]

/-- `n` bytes of a number, lowest first. -/
def leBytes : Nat → Nat → List Nat
  | 0, _ => []
  | n + 1, v => v % 256 :: leBytes n (v / 256)

/-- `n` bytes of a number, highest first (structures laid out by byte offset, R513). -/
def beBytes (n v : Nat) : List Nat := (leBytes n v).reverse

/-- A number of its bytes, lowest first. -/
def fromLe : List Nat → Nat
  | [] => 0
  | b :: bs => b % 256 + 256 * fromLe bs

/-- Bytes packed into 64-bit read words, byte n in bits 8n + 7 to 8n, the last word padded with zeros (R483). -/
def packWords : Nat → List Nat → List (BitVec 64)
  | 0, _ => []
  | _, [] => []
  | n + 1, bs => BitVec.ofNat 64 (fromLe (bs.take 8)) :: packWords n (bs.drop 8)

/-- The zero bytes that pad the last word of `n` bytes (WIN_TAG.PAD). -/
def padOf (n : Nat) : Nat := (8 - n % 8) % 8

/-- 32-bit words packed two to a 64-bit read word, the first word low. -/
def packPairs : List Word → List (BitVec 64)
  | [] => []
  | [a] => [pairWord a 0#32]
  | a :: b :: r => pairWord a b :: packPairs r

/-- One bit of a reflected CRC with polynomial `poly`. -/
def crcBit (poly c : Nat) : Nat := if c % 2 = 1 then (c / 2) ^^^ poly else c / 2

/-- One byte of a reflected CRC. -/
def crcByte (poly c b : Nat) : Nat :=
  let x := c ^^^ (b % 256)
  crcBit poly (crcBit poly (crcBit poly (crcBit poly
    (crcBit poly (crcBit poly (crcBit poly (crcBit poly x)))))))

/-- CRC-32C: reflected polynomial 0x82F63B78, initial value and final inversion all ones (R318). -/
def crc32c (bs : List Nat) : Word :=
  BitVec.ofNat 32 (bs.foldl (crcByte 0x82F63B78) 0xFFFFFFFF ^^^ 0xFFFFFFFF)

/-- CRC-32C over the words of a structure, little-endian. -/
def crcWords (ws : List Word) : Word := crc32c (ws.flatMap wordBytes)

/-! Lists. -/

/-- Replace element `i` of a list. -/
def listSet {α : Type} : List α → Nat → α → List α
  | [], _, _ => []
  | _ :: r, 0, v => v :: r
  | x :: r, n + 1, v => x :: listSet r n v

/-- The last `n` elements. -/
def lastN {α : Type} (n : Nat) (l : List α) : List α := l.drop (l.length - n)

/-- Apply `f` for 0, 1, ..., n - 1 in that order. -/
def forUpTo {σ : Type} (n : Nat) (f : Nat → σ → σ) (s : σ) : σ :=
  (List.range n).foldl (fun t i => f i t) s

/-- The lowest set bit of a number below bit `n`. -/
def lowBit? (v n : Nat) : Option Nat := (List.range n).find? (fun k => v.testBit k)

/-- The character codes of a text, and of a number in decimal. -/
def asc (t : String) : List Nat := t.toList.map Char.toNat

def decText (n : Nat) : List Nat := (Nat.toDigits 10 n).map Char.toNat

end Sys2Proof.Machine
end

