-- ==== Sys2Proof/Machine/Lzw.lean ====
section
/-!
DEFINITION. The Packer's code stream and blocks (R313 to R318, R323): the LZW encoder and decoder, code widths, the block header
and its checks.
-/

namespace Sys2Proof.Machine

open Sys2Proof

/-- The number of bits of a number. -/
def bitLen (n : Nat) : Nat := if n = 0 then 0 else Nat.log2 n + 1

/-- The width of code `k`, counted from 1 (R314). -/
def codeWidth (k : Nat) : Nat := min 16 (max 9 (bitLen (255 + k)))

/-- The END code. -/
abbrev codeEND : Nat := 256

/-- The dictionary: the code of a code followed by a byte. -/
abbrev LzwDict := List ((Nat × Nat) × Nat)

/-- The codes of some bytes (R313): `cur` is the string matched so far, `next` the next code to assign; END closes them. -/
def lzwCodes : LzwDict → Nat → Option Nat → List Nat → List Nat
  | _, _, none, [] => [codeEND]
  | _, _, some c, [] => [c, codeEND]
  | d, n, none, b :: bs => lzwCodes d n (some b) bs
  | d, n, some c, b :: bs =>
    match d.find? (fun p => decide (p.1 = (c, b))) with
    | some p => lzwCodes d n (some p.2) bs
    | none => c :: lzwCodes (if n ≤ 65535 then ((c, b), n) :: d else d) (n + 1) (some b) bs

/-- The codes of a block. -/
def lzwEncode (bs : List Nat) : List Nat := lzwCodes [] 257 none bs

/-- Codes packed least significant bit first from position `k` (R315): their number and its bits. -/
def packCodes : Nat → List Nat → Nat × Nat
  | _, [] => (0, 0)
  | k, c :: cs =>
    let r := packCodes (k + 1) cs
    (c + 2 ^ codeWidth k * r.1, codeWidth k + r.2)

/-- The payload of a packed block: a multiple of 8 bytes (R315). -/
def packedPayload (codes : List Nat) : List Nat :=
  let p := packCodes 1 codes
  leBytes (8 * divUp p.2 64) p.1

/-- Padding to a multiple of 8 bytes. -/
def pad8 (bs : List Nat) : List Nat := bs ++ List.replicate (padOf bs.length) 0

/-- Block types (Table 12.1). -/
abbrev typePACKED : Nat := 0
abbrev typeRAW_SHED : Nat := 1
abbrev typeRAW_EXPAND : Nat := 2
abbrev typeRAW_REQ : Nat := 3

/-- The 32-byte header (Table 12.1). -/
def blockHeader (typ src : Nat) (flushed last : Bool) (orig payload crc seq codes info : Nat) : List Nat :=
  let ws := [typ + 2 ^ 8 * src + 2 ^ 16 * b2n flushed + 2 ^ 17 * b2n last, orig, payload, crc, seq, codes, info]
  let bs := ws.flatMap (leBytes 4)
  bs ++ leBytes 4 (crc32c bs).toNat

/-- The type a block is written with (R317, R325). -/
def blockType (rawReq shed : Bool) (bs : List Nat) : Nat :=
  if rawReq then typeRAW_REQ
  else if shed then typeRAW_SHED
  else if bs.length < (packedPayload (lzwEncode bs)).length then typeRAW_EXPAND
  else typePACKED

/-- A block: header and payload (R316). -/
def packBlock (src : Nat) (rawReq shed flushed last : Bool) (seq info : Nat) (bs : List Nat) : List Nat :=
  let t := blockType rawReq shed bs
  let pay := if t = typePACKED then packedPayload (lzwEncode bs) else pad8 bs
  blockHeader t src flushed last bs.length pay.length (crc32c bs).toNat seq
    (if t = typePACKED then (lzwEncode bs).length else 0) info ++ pay

/-! Unpacking (R323). -/

/-- Results of a job (PAK_J_STAT.RESULT). -/
abbrev pakOK : Nat := 0
abbrev pakOUTPUT_FULL : Nat := 1
abbrev pakHDR_ERR : Nat := 2
abbrev pakBAD_CODE : Nat := 3
abbrev pakCRC_ERR : Nat := 4
abbrev pakMEM_ERR : Nat := 5
abbrev pakSHED : Nat := 6
abbrev pakABORTED : Nat := 7

/-- The string of a code in the reader's dictionary, newest entry first. -/
def codeString (d : List (Nat × List Nat)) (c : Nat) : Option (List Nat) :=
  if c < 256 then some [c] else (d.find? (fun p => decide (p.1 = c))).map (fun p => p.2)

/-- Decode codes from position `k` of a bit string; `prev` is the preceding code's string. The answer is the bytes, or none
for a bad code (R323). -/
def lzwDecode : Nat → Nat → Nat → List (Nat × List Nat) → List Nat → Option (List Nat)
  | 0, _, _, _, _ => none
  | fuel + 1, k, bits, d, prev =>
    let c := bits % 2 ^ codeWidth k
    let rest := bits / 2 ^ codeWidth k
    if c = codeEND then some []
    else
      let str := match codeString d c with
        | some x => some x
        | none => if c = 255 + k ∧ prev ≠ [] then some (prev ++ prev.take 1) else none
      match str with
      | none => none
      | some x =>
        let d2 := if prev ≠ [] ∧ 255 + k ≤ 65535 then (255 + k, prev ++ x.take 1) :: d else d
        (lzwDecode fuel (k + 1) rest d2 x).map (fun r => x ++ r)

/-- The next block of an input: its type, its length in the input and its original bytes, or the failure. -/
def unpackBlock (bs : List Nat) : Nat × Nat × List Nat × Nat :=
  let w := fun k => fromLe ((bs.drop (4 * k)).take 4)
  let typ := w 0 % 4
  let orig := w 1
  let pay := w 2
  let total := 32 + pay
  if w 7 ≠ (crc32c (bs.take 28)).toNat ∨ bs.length < total ∨ orig = 0 ∨ 67108864 < orig then (typ, total, [], pakHDR_ERR)
  else
    let p := (bs.drop 32).take pay
    let out := if typ = typePACKED then lzwDecode (8 * pay + 1) 1 (fromLe p) [] [] else some (p.take orig)
    match out with
    | none => (typ, total, [], pakBAD_CODE)
    | some o =>
      if o.length ≠ orig then (typ, total, [], pakBAD_CODE)
      else if (crc32c o).toNat ≠ w 3 then (typ, total, [], pakCRC_ERR)
      else (typ, total, o, pakOK)

end Sys2Proof.Machine
end

