-- ==== Sys2Proof/Config.lean ====
section
/-!
DEFINITION. The free values of the node (notes/assumptions/2.md): constants without a body, so that no proof can see what
they are. A value drawn afresh is applied to `State.free`, a counter the step advances.
-/

namespace Sys2Proof.Config

/-- The frequency in nHz that the cycle clock's loop steers to after a comparison: of the draw's number, the phase
error in 2^-32 turn, the present frequency in nHz and the bandwidth in force in 1/20 Hz (R53 gives the loop's order,
bandwidth and slew limit, not its gains). -/
opaque loopTarget : Nat → Int → Nat → Nat → Nat

/-- The correction that one-step transmission inserts (R85): of the frame's bytes and the counter at its stamp point. The
manual states no formula for it. -/
opaque oneStepCorrection : List Nat → Nat → Nat

/-- The default transmit wake time in µs of the PHY type of a port mode (R78 takes it from IEEE 802.3 and gives no
number). -/
opaque phyWake : Nat → Nat

/-- The result of a cryptographic algorithm of Table 16.1 (its first argument numbers the use) on its inputs: keys,
tags, signatures, digests and random values. -/
opaque crypt : Nat → List Nat → Nat

/-- Which free key slot a creating command takes (R397 says a free slot). -/
opaque pickSlot : Nat → Nat

/-- A word of the factory calibration area that CAL_ENROL writes, of its channel data and the word's number (R416 gives
no layout of the mailbox). -/
opaque calWord : List Nat → Nat → Word

/-- What arithmetic takes a received NaN or infinity as, in units of 2^-149 (the spec states no result for one). -/
opaque f32Special : Word → Int

/-- VALUE0 of a CLASS rule's message, and of a threshold rule's whose input is ABSENT (Table 11.3 states none). -/
opaque classValue : Nat → Word

/-- The 16-bit field of an output value that falls outside its fixed-point range (R300 states none). -/
opaque fixed16 : Int → Nat

/-- The band-pass filter of the EM amplitude (R234, R235): its present output, in 2^-149 units, from the samples so
far, the band word and the rate. R234 gives the band, not the filter. -/
opaque emBandPass : List Int → Word → Nat → Int

/-- Tap `d` from the middle, in 2^-30, of the linear-phase low-pass before the decimation at a tableau rate (R235
gives its delay and bands, not its coefficients). -/
opaque emTap : Nat → Nat → Int

/-- The high-pass of an EM signal (R236): its present output from the decimated samples so far, the corner F_LO/2
(given as F_LO in mHz) and the rate. R236 gives the corner, not the filter. -/
opaque emHighPass : List Int → Nat → Nat → Int

/-- An eigenvalue the EM estimator finds (R237): its argument in 2^-32 turn, the logarithm of its magnitude in 2^-64, the
signal-to-noise ratio in 2^-16 dB, and the participations (magnitude in 2^-32, phase in 2^-32 turn) of the signals given. -/
structure Eigen where
  arg : Nat
  ln : Int
  snr : Int
  parts : List (Nat × Nat)
  deriving DecidableEq, Repr

/-- The recursive subspace method of R236: the complex pairs it finds, from the normalised samples (oldest first, in
2^-32), the dimension, the memory T_MEM_S x r_em of its forgetting factor, and the subspace it was seeded with. -/
opaque emEigen : List (List Int) → Nat → Nat → List Word → List Eigen

/-- The words of the subspace basis and the state matrix that it then tracks (Table 9.7). -/
opaque emSubspace : List (List Int) → Nat → Nat → List Word → List Word

/-- The component of a mode, of the argument and the logarithm of its eigenvalue, in a signal's samples (R238). -/
opaque modeComponent : List Int → Nat → Int → List Int

/-- The half-power width of a peak in µHz, from the 256 band powers and the bin (R242 says measured). -/
opaque halfPower : List Nat → Nat → Nat

/-- The ratio of a fast mode's power to the estimator's noise floor in 2^-16 dB, from the band powers and the bin (R239). -/
opaque fastSnr : List Nat → Nat → Int

/-- Word `k` of the encoded frame of a GOOSE, R-GOOSE or pair item (its number first): the chapters give its members,
not its octets. -/
opaque frameWord : Nat → Nat → Word

/-- Coefficient `k` in 2^-30, counted from the end, of the linear-phase compensation filter of 31 or 63 taps (R155),
but its middle one. R155 gives its length, its DC gain and its bands, not its coefficients. -/
opaque compTap : Nat → Nat → Int

/-- The CIC output at a density of exactly one, whose Q1.31 value 2d - 1 lies outside the format (R154). -/
opaque cicTop : Nat → Int

/-- The waveform path's fractional delay (R169) of the calibrated samples, newest first, by D in 1/1,024 sample when D is no
whole number of samples. R169 gives the delay, not the interpolator. -/
opaque fracDelay : List Int → Nat → Int

/-- Tap `d` from the middle, 1 to 63, of the 127-tap Hilbert filter of R181 in 2^-30: R181 gives its length, its phase
and its band, not its coefficients. -/
opaque hilbertTap : Nat → Int

/-- Whether a save that the node writes of its own accord verifies (R193). -/
opaque saveVerifies : Nat → Bool

/-- The response of the polyphase resampler of R170 at a distance in counter units from the output instant, up to its
0.5 ms of group delay, in 2^-30: R170 gives its delay and bands, not its coefficients. -/
opaque resampleTap : Nat → Int

/-- SCL_STATUS.LAST_SRC of a SYNC that the pin and the schedule caused together (the register states it for a command). -/
opaque syncSrc : Nat → Nat

/-- The Q1.31 value of a record sample outside the format (R199 states none). -/
opaque q31Over : Int → Int

/-- CLERK_ID of the node's own Clerk service (0), and the field of a message to a Clerk (1 + NODE_SEQ), for which
Table 17.4 states no value. -/
opaque clerkIdent : Nat → Nat

/-- The bits that an uncorrectable error leaves wrong in word `k` of stored record `n` (R376). -/
opaque ueDamage : Nat → Nat → Word

/-- Word 0 to 6 of the Ledger's summary, of its content in R382's order (R382 and LDG_RD_END fix word 0 bits 7:0 and
the last word only). -/
opaque summaryWord : List Nat → Nat → Word

/-- The word `k` of the module serial, fixed at manufacture (HST_SERIAL), the boot ROM's version (HST_ROM_VER) and its
SHA-384 (Table 16.6): the chapters give no value. -/
opaque serial : Nat → Word
opaque romVersion : Word
opaque romHash : Nat

/-- LO (0) and HI (1) of a fixed track, 0 to 7 (R371 gives none). -/
opaque trackRange : Nat → Nat → Int

/-- OFFSET of a service reply (R449 states none). -/
opaque svcOffset : Nat → Nat

end Sys2Proof.Config
end

