-- ==== Sys2Proof/Machine/Float.lean ====
section
/-!
DEFINITION. binary32 values (R111): exact integers in units of 2^-149, rounded back to the nearest binary32 with ties to even,
and the angle of a phasor in units of 2^-32 turn (R10). Intermediate results are exact; the roundings, the truncated
sine, cosine and arctangent and the integer square root are the model's choice (notes/assumptions/8.md).
-/

namespace Sys2Proof.Machine

open Sys2Proof

/-- The bit pattern is a NaN or an infinity. -/
def f32Special (w : Word) : Bool := decide (field w 23 8 = 255)

/-- The value in units of 2^-149; of a NaN or an infinity, a free value. -/
def f32Val (w : Word) : Int :=
  if f32Special w then Config.f32Special w
  else
    let e := field w 23 8
    let m := field w 0 23
    let a : Nat := if e = 0 then m else (2 ^ 23 + m) * 2 ^ (e - 1)
    if bitAt w 31 then -(a : Int) else (a : Int)

/-- The quotient of two numbers rounded to the nearest, ties to even. -/
def divEven (a b : Nat) : Nat :=
  let q := a / b
  let r := a % b
  if b < 2 * r then q + 1 else if 2 * r = b then q + q % 2 else q

/-- The binary32 nearest to `n / d` units of 2^-149. -/
def f32Round (n : Int) (d : Nat) : Word :=
  let a := n.natAbs
  let q := a / d
  let shift := if q < 2 ^ 24 then 0 else Nat.log2 q - 23
  let m := divEven a (d * 2 ^ shift)
  let bits := if m < 2 ^ 23 then m else (shift + 1) * 2 ^ 23 + (m - 2 ^ 23)
  let top := if 255 * 2 ^ 23 ≤ bits then 255 * 2 ^ 23 else bits
  BitVec.ofNat 32 (top + (if n < 0 then 2 ^ 31 else 0))

/-- The binary32 nearest to the rational `n / d`. -/
def f32OfRat (n : Int) (d : Nat) : Word := f32Round (n * 2 ^ 149) d

/-- One, in units of 2^-149. -/
def f32One : Int := 2 ^ 149

/-- Integer square root, bit by bit from bit `k - 1`. -/
def isqrtFrom : Nat → Nat → Nat → Nat
  | 0, r, _ => r
  | k + 1, r, n => if (r + 2 ^ k) * (r + 2 ^ k) ≤ n then isqrtFrom k (r + 2 ^ k) n else isqrtFrom k r n

/-- The integer part of the square root. -/
def isqrt (n : Nat) : Nat := isqrtFrom (Nat.log2 n / 2 + 1) 0 n

/-- The magnitude of a complex value, in the units of its parts. -/
def magnitude (re im : Int) : Nat := isqrt (re.natAbs * re.natAbs + im.natAbs * im.natAbs)

/-- pi in units of 2^-80. -/
def piFix : Nat := 3797952473636338580787994

/-- Taylor terms of sine and cosine of `x` (units of 2^-80): `t` is the term of order `k`. -/
def sinCosTerms : Nat → Nat → Int → Int → Int → Int → Int × Int
  | 0, _, _, _, c, s => (c, s)
  | n + 1, k, x, t, c, s =>
    let u := t * x / 2 ^ 80 / ((k : Int) + 1)
    let sign : Int := if (k + 1) % 4 < 2 then 1 else -1
    if k % 2 = 0 then sinCosTerms n (k + 1) x u c (s + sign * u)
    else sinCosTerms n (k + 1) x u (c + sign * u) s

/-- Cosine and sine, in units of 2^-80, of an angle of `a` units of 2^-80 radian. -/
def cosSin (a : Int) : Int × Int :=
  let two : Int := 2 * (piFix : Int)
  let r := a % two
  let x := if (piFix : Int) < r then r - two else r
  sinCosTerms 48 0 x (2 ^ 80) (2 ^ 80) 0

/-- atan(2^-i) in units of 2^-64 turn. -/
def atanTable : List Int :=
  [2305843009213693952, 1361218612134873190, 719230530580881038, 365092647525521947,
   183254791493294829, 91716730292036216, 45869556482713130, 22936177926750895,
   11468263948075831, 5734153847876408, 2867079658191483, 1433540170878135,
   716770128161890, 358385069421298, 179192535378193, 89596267772540,
   44798133896700, 22399066949654, 11199533474990, 5599766737515,
   2799883368760, 1399941684380, 699970842190, 349985421095,
   174992710548, 87496355274, 43748177637, 21874088818,
   10937044409, 5468522205, 2734261102, 1367130551,
   683565276, 341782638, 170891319, 85445659,
   42722830, 21361415, 10680707, 5340354,
   2670177, 1335088, 667544, 333772,
   166886, 83443, 41722, 20861]

/-- Rotate a vector onto the positive real axis, summing the angle turned. -/
def cordic : List Int → Nat → Int → Int → Int → Int
  | [], _, _, _, a => a
  | t :: ts, i, x, y, a =>
    if 0 ≤ y then cordic ts (i + 1) (x + y / 2 ^ i) (y - x / 2 ^ i) (a + t)
    else cordic ts (i + 1) (x - y / 2 ^ i) (y + x / 2 ^ i) (a - t)

/-- The angle of a complex value in units of 2^-32 turn, 0 to 2^32 - 1 (R10). -/
def angleOf (re im : Int) : Nat :=
  if re = 0 ∧ im = 0 then 0
  else
    let x := re * 2 ^ 64
    let y := im * 2 ^ 64
    let a := if re < 0 then cordic atanTable 0 (-x) (-y) (2 ^ 63) else cordic atanTable 0 x y 0
    unsignedN ((a + 2 ^ 31) / 2 ^ 32) 32

/-- The angle of a phasor given as two binary32 values. -/
def phasorAngle (p : Word × Word) : Nat := angleOf (f32Val p.1) (f32Val p.2)

/-- The magnitude of a phasor, in units of 2^-149. -/
def phasorMag (p : Word × Word) : Nat := magnitude (f32Val p.1) (f32Val p.2)

end Sys2Proof.Machine
end

