-- ==== Sys2Proof/Machine/Ops.lean ====
section
/-!
DEFINITION. The operations every block shares: registers and their fields, time, the interrupt tree (R479, R480), posts
to the Deck (R333, R334), the Ledger's buffer (R364, R368), snapshots (R91), data windows (R481 to R484) and the order of
host accesses (R472, R474).
-/

namespace Sys2Proof.Machine

open Sys2Proof

/-! Registers. -/

/-- The register at byte offset `a`. -/
def rd (s : State) (a : Nat) : Word := mapGet regReset s.regs a

/-- Write a register. -/
def wr (a : Nat) (v : Word) (s : State) : State := { s with regs := mapSet regReset s.regs a v }

/-- Bits `lo + n - 1 : lo` of a register. -/
def rdF (s : State) (a lo n : Nat) : Nat := field (rd s a) lo n

/-- Write a field of a register. -/
def wrF (a lo n v : Nat) (s : State) : State := wr a (withField (rd s a) lo n v) s

/-- A bit of a register. -/
def rdB (s : State) (a k : Nat) : Bool := bitAt (rd s a) k

/-- Write a 64-bit value to two adjacent words, the low word first (R513). -/
def wr64 (a v : Nat) (s : State) : State := wr (a + 4) (hiWord v) (wr a (loWord v) s)

/-- A 64-bit value held in two adjacent words. -/
def rd64 (s : State) (a : Nat) : Nat := (rd s a).toNat + 2 ^ 32 * (rd s (a + 4)).toNat

/-- Write consecutive words. -/
def wrWords : Nat → List Word → State → State
  | _, [], s => s
  | a, w :: ws, s => wrWords (a + 4) ws (wr a w s)

/-- Add 1 to a 32-bit counter register that saturates. -/
def bumpSat (a : Nat) (s : State) : State := wr a (wordOf (satAdd (rd s a).toNat 1 0xFFFFFFFF)) s

/-- Add 1 to a field of a register that wraps at its width. -/
def bumpF (a lo n : Nat) (s : State) : State := wrF a lo n (rdF s a lo n + 1) s

/-- Set or clear bit `k` of a status register. -/
def setStat (a k : Nat) (b : Bool) (s : State) : State := wr a (withBool (rd s a) k b) s

/-- Draw the next free value's number. -/
def drawFree (s : State) : State := { s with free := s.free + 1 }

/-- Hand a message to the outside. -/
def emit (m : OutMsg) (s : State) : State := { s with out := s.out ++ [m] }

/-! Live counters, keyed by the BAR0 offset of their bank (R91). -/

/-- The live counter whose bank word is at `a`. -/
def liveCnt (s : State) (a : Nat) : Nat := tget 0 s.live a

/-- The live count of an event of Table 13.8 on a core; no bank has it. -/
abbrev coreEvent (c e : Nat) : Nat := 2 ^ 32 + 256 * c + e

/-- The live counts of events of Table 13.9 that no bank has, under the events' numbers. -/
abbrev evSEALS : Nat := 0x113
abbrev evTILL_OPERATIONS : Nat := 0x160
abbrev evSCL_ESTIMATES : Nat := 0x170

/-- Add `n` to a live counter modulo 2^64. -/
def count (a n : Nat) (s : State) : State :=
  { s with live := tset 0 s.live a ((tget 0 s.live a + n) % 2 ^ 64) }

/-- Copy live counter `a` into its bank, and restart it from 0 if `clr` (R91). -/
def snapOne (clr : Bool) (a : Nat) (s : State) : State :=
  let t := wr64 a (liveCnt s a) s
  if clr then { t with live := tset 0 t.live a 0 } else t

/-- A snapshot of `n` 64-bit counters from `base`, with the sequence number at `seq` (16 bits, wraps). -/
def snapshot (base n seq : Nat) (clr : Bool) (s : State) : State :=
  bumpF seq 0 16 (forUpTo n (fun k => snapOne clr (base + 8 * k)) s)

/-! Time (R27, R49). -/

/-- Units of the TAI counter in one nanosecond and in one second. -/
def taiNsUnit : Nat := 2 ^ 28
def taiSecUnit : Nat := 1000000000 * 2 ^ 28

/-- The counter's seconds, nanoseconds, and whole nanoseconds since the epoch. -/
def taiSec (s : State) : Nat := s.tai / taiSecUnit
def taiNs (s : State) : Nat := s.tai / taiNsUnit % 1000000000
def taiAbsNs (s : State) : Nat := s.tai / taiNsUnit

/-- The visible sub-nanosecond fraction, the top 16 of the 28 fraction bits (R28). -/
def taiSub (s : State) : Nat := s.tai / 2 ^ 12 % 2 ^ 16

/-- The counter wraps with its 48-bit seconds. -/
def taiWrap (t : Nat) : Nat := t % (2 ^ 48 * taiSecUnit)

/-- MST_UTC_OFS.OFFSET, signed (R49). -/
def utcOffset (s : State) : Int := signedN (rdF s MST_UTC_OFS 0 16) 16

/-- UTC seconds of TAI seconds (R49). -/
def utcOfTai (s : State) (sec : Nat) : Nat := ((sec : Int) - utcOffset s).toNat

/-- TAI seconds of UTC seconds (R49). -/
def taiOfUtc (s : State) (sec : Nat) : Nat := ((sec : Int) + utcOffset s).toNat

/-- The variant: HST_VARIANT.HW_TYPE 2 is the M4K (R3). -/
def isM4k (s : State) : Bool := decide (rdF s HST_VARIANT 0 2 = 2)

/-- Table 0.2: the parse pipelines, the stream table, the watch set, the monitored branches and the PCI Device ID of
the variant. -/
def pipeCount (s : State) : Nat := if isM4k s then 2 else 4
def streamLimit (s : State) : Nat := if isM4k s then 4096 else 16384
def signalLimit (s : State) : Nat := if isM4k s then 4096 else 8192
def branchLimit (s : State) : Nat := if isM4k s then 2048 else 4096
def pciDeviceId (s : State) : Nat := if isM4k s then 0x4D04 else 0x4D16

/-- The profile of the running image: 1 launch (R5, R6). -/
def isLaunch (s : State) : Bool := s.cfg.launch

/-! Interrupts (R479, R480). -/

/-- The _INT and _INT_EN registers outside the ports: SRC code, vector, _INT, _INT_EN. EGR and SCL, NST have two pairs. -/
def intPairs : List (Nat × Nat × Nat × Nat) :=
  [(0, 0, HST_INT, HST_INT_EN), (1, 0, BOT_INT, BOT_INT_EN), (2, 1, PWR_INT, PWR_INT_EN), (3, 2, MST_INT, MST_INT_EN),
   (4, 1, CAL_INT, CAL_INT_EN), (6, 5, ING_INT, ING_INT_EN), (7, 6, MKT_INT, MKT_INT_EN), (8, 7, SCL_INT, SCL_INT_EN),
   (8, 7, SCL_EN_INT, SCL_EN_INT_EN), (9, 8, CAP_INT, CAP_INT_EN), (10, 9, NST_OSC_INT, NST_OSC_INT_EN),
   (10, 9, NST_TOP_INT, NST_TOP_INT_EN), (11, 10, EGR_INT, EGR_INT_EN), (11, 10, EGR_QINT, EGR_QINT_EN),
   (12, 11, PAK_INT, PAK_INT_EN), (13, 12, CTL_INT, CTL_INT_EN), (14, 11, MEM_INT, MEM_INT_EN),
   (15, 13, LDG_INT, LDG_INT_EN), (16, 14, TIL_INT, TIL_INT_EN), (17, 15, SHR_INT, SHR_INT_EN)]

/-- The AND of a pair is not zero. -/
def pairTrue (s : State) (int en : Nat) : Bool := decide (rd s int &&& rd s en ≠ 0#32)

/-- The summary of port `n`. -/
def portSummary (s : State) (n : Nat) : Bool := pairTrue s (PRT_INT n) (PRT_INT_EN n)

/-- The summary of the block with SRC code `k` (R479). -/
def blockSummary (s : State) (k : Nat) : Bool :=
  if k = 5 then (List.range 64).any (portSummary s)
  else intPairs.any (fun p => decide (p.1 = k) && pairTrue s p.2.2.1 p.2.2.2)

/-- The OR of the summaries of vector `v` (Table 20.3). -/
def vectorTrue (s : State) (v : Nat) : Bool :=
  if v = 3 then (List.range 32).any (portSummary s)
  else if v = 4 then (List.range 32).any (fun n => portSummary s (n + 32))
  else intPairs.any (fun p => decide (p.2.1 = v) && pairTrue s p.2.2.1 p.2.2.2)

/-- The vector of an _INT or _INT_EN register; 16: none. -/
def vectorOf (a : Nat) : Nat :=
  if 0x10000 ≤ a ∧ a < 0x20000 then (if a < 0x18000 then 3 else 4)
  else match intPairs.find? (fun p => decide (p.2.2.1 = a ∨ p.2.2.2 = a)) with
    | some p => p.2.1
    | none => 16

/-- A vector that falls due sends its message, or sets its PBA bit when the function is in D3hot or the vector is masked
(R471, R480). -/
def sendVector (v : Nat) (s : State) : State :=
  if s.host.d3hot || s.host.funcMask || rdB s (MSIX_CTRL v) 0 then
    { s with host := { s.host with pba := withBit s.host.pba v } }
  else emit (.msix v (rd64 s (MSIX_ADDR v)) (rd s (MSIX_DATA v))) s

/-- The vector sends when its OR goes from false to true between `s` and `t` (R480). -/
def vectorEdge (v : Nat) (s t : State) : State :=
  if v < 16 && !vectorTrue s v && vectorTrue t v then sendVector v t else t

/-- Set bit `k` of the _INT register at `a`, sending the vector's message on the edge. -/
def setInt (a k : Nat) (s : State) : State := vectorEdge (vectorOf a) s (wr a (withBit (rd s a) k) s)

/-! Posts to the Deck (R333, R334). -/

/-- Thread `t`. -/
def thread (s : State) (t : Nat) : Thread := tget {} s.deck.threads t

/-- Replace thread `t`. -/
def setThread (t : Nat) (x : Thread) (s : State) : State :=
  { s with deck := { s.deck with threads := tset {} s.deck.threads t x } }

/-- A post for `t` completes: the queue has room, and the count plus the queued posts for `t` is below 255 (R334). -/
def postRoom (s : State) (t : Nat) : Bool :=
  decide (s.deck.postq.length < 64 ∧ (thread s t).posts + s.deck.postq.count t < 255)

/-- Offer a post: it enters the queue or is held at its source (Table 13.3). -/
def offerPost (src : PostSource) (t : Nat) (s : State) : State :=
  if postRoom s t then { s with deck := { s.deck with postq := s.deck.postq ++ [t] } }
  else
    let r := { s with deck := { s.deck with held := s.deck.held ++ [(src, t)] } }
    if s.deck.held = [] then setInt CTL_INT 6 r else r

/-- The threads the image maps an interrupt bit to (R333). -/
def intThreads (s : State) (a k : Nat) : List Nat :=
  (s.cfg.intMap.filter (fun p => decide (p.1 = a ∧ p.2.1 = k))).map (fun p => p.2.2)

/-- The _INT_EN register of an _INT register. -/
def intEnOf (a : Nat) : Nat :=
  if 0x10000 ≤ a ∧ a < 0x20000 then a + 4
  else match intPairs.find? (fun p => decide (p.2.2.1 = a)) with
    | some p => p.2.2.2
    | none => a

/-- An interrupt bit of a block is set: the vector (R480) and, when the bit was clear and its _INT_EN routes it, the
posts to the threads the image maps it to (R333). -/
def raise (a k : Nat) (s : State) : State :=
  let t := setInt a k s
  if !rdB s a k && rdB s (intEnOf a) k then
    (intThreads s a k).foldl (fun u th => offerPost (.intBit a k) th u) t
  else t

/-! The Ledger's volatile buffer (R364, R365, R368). -/

/-- SRC codes of Table 15.2. -/
abbrev srcHST : Nat := 0
abbrev srcBOT : Nat := 1
abbrev srcPWR : Nat := 2
abbrev srcMST : Nat := 3
abbrev srcCAL : Nat := 4
abbrev srcPRT : Nat := 5
abbrev srcING : Nat := 6
abbrev srcMKT : Nat := 7
abbrev srcSCL : Nat := 8
abbrev srcCAP : Nat := 9
abbrev srcNST : Nat := 10
abbrev srcEGR : Nat := 11
abbrev srcPAK : Nat := 12
abbrev srcCTL : Nat := 13
abbrev srcMEM : Nat := 14
abbrev srcLDG : Nat := 15
abbrev srcTIL : Nat := 16
abbrev srcSHR : Nat := 17

/-- TIME_SUSPECT: Mast UNSYNC or HOLD_EXC (Table 15.2). -/
def timeSuspect (s : State) : Bool := decide (s.mast.st = .unsync) || s.mast.holdExc

/-- The record a new event makes (R364). -/
def newRecord (s : State) (src code sev : Nat) (key : Word) (data : List Word) : LRec :=
  { src := src, code := code, sev := sev, key := key, data := data, suspect := timeSuspect s,
    firstSec := taiSec s, firstNs := taiNs s, lastSec := taiSec s, opHours := s.ledger.opHours,
    pwrCycles := s.ledger.pwrCycles }

/-- The event coalesces into this record (R364, R365). -/
def coalesces (src code : Nat) (key : Word) (r : LRec) : Bool :=
  !r.frozen && decide (r.src = src ∧ r.code = code ∧ r.key = key)

/-- One more occurrence of a buffered record (R364). -/
def repeatRecord (sec : Nat) (r : LRec) : LRec :=
  if r.rept < 0xFFFFFFFF then { r with rept := r.rept + 1, lastSec := sec }
  else { r with repSat := true, lastSec := sec }

/-- Update the first element that satisfies `p`. -/
def updateFirst {α : Type} (p : α → Bool) (f : α → α) : List α → List α
  | [] => []
  | x :: r => if p x then f x :: r else x :: updateFirst p f r

/-- Remove the last element that satisfies `p`. -/
def removeLast {α : Type} (p : α → Bool) : List α → List α
  | [] => []
  | x :: r => if r.any p then x :: removeLast p r else if p x then r else x :: r

/-- The lowest severity among the unfrozen records below `sev` (R368); none: no such record. -/
def lowestBelow (sev : Nat) (buf : List LRec) : Option Nat :=
  (List.range sev).find? (fun v => buf.any (fun r => !r.frozen && decide (r.sev = v)))

/-- A record of severity `sev` is dropped: its drop count, and the note for the next flush (R368). -/
def countDrop (sev : Nat) (s : State) : State :=
  raise LDG_INT 1 (bumpSat (LDG_DROP sev)
    { s with ledger := { s.ledger with
        dropNote := true, recordsLost := s.ledger.recordsLost + b2n s.ledger.fail } })

/-- A new entry asks for a flush when the buffer reaches 192 entries or its severity is FLUSH_SEV or above (R366). -/
def flushAsked (sev : Nat) (s : State) : State :=
  { s with ledger := { s.ledger with
      flushReq := s.ledger.flushReq || decide (192 ≤ s.ledger.buf.length),
      faultFlush := s.ledger.faultFlush || decide (rdF s LDG_CFG 8 3 ≤ sev) } }

/-- A new event reaches the Ledger (R364, R365, R368). -/
def logEvent (src code sev : Nat) (key : Word) (data : List Word) (s : State) : State :=
  if s.ledger.buf.any (coalesces src code key) then
    { s with ledger := { s.ledger with
        buf := updateFirst (coalesces src code key) (repeatRecord (taiSec s)) s.ledger.buf } }
  else
    let r := newRecord s src code sev key data
    if s.ledger.buf.length < 256 then
      flushAsked sev { s with ledger := { s.ledger with buf := s.ledger.buf ++ [r] } }
    else match lowestBelow sev s.ledger.buf with
      | none => countDrop sev s
      | some v =>
        countDrop v (flushAsked sev { s with ledger := { s.ledger with
          buf := removeLast (fun x => !x.frozen && decide (x.sev = v)) s.ledger.buf ++ [r] } })

/-! Data windows (R481 to R484). -/

/-- The number of a window, and its base (Table 20.5). -/
def winIdx : Win → Nat
  | .tableau => 0
  | .ribbon => 1
  | .capture => 2
  | .modeShape => 3
  | .island => 4
  | .deckSampling c => 5 + c.val
  | .mirror => 9
  | .ledger => 10
  | .attestation => 11

def winBases : List Nat :=
  [0x80000, 0x90000, 0xA0000, 0xB0000, 0xB8000, 0xC0000, 0xC2000, 0xC4000, 0xC6000, 0xC8000, 0xD0000, 0xE0000]

/-- The window with a number. -/
def window (s : State) (w : Nat) : Window := tget {} s.host.windows w

def setWindow (w : Nat) (x : Window) (s : State) : State :=
  { s with host := { s.host with windows := tset {} s.host.windows w x } }

/-- END_WHY codes (WIN_TAG). -/
abbrev whyCOMPLETE : Nat := 1
abbrev whyABORTED : Nat := 2
abbrev whyOVERRUN : Nat := 3
abbrev whyNOT_FOUND : Nat := 4
abbrev whyERROR : Nat := 5

/-- Start an opening that delivers `ws`, the last with `pad` zero bytes; a second OPEN ends the first (R484). -/
def openWindow (w : Win) (ws : List (BitVec 64)) (pad : Nat) (s : State) : State :=
  setWindow (winIdx w)
    { words := ws, openSeq := ((window s (winIdx w)).openSeq + 1) % 2 ^ 16, ended := decide (ws = []),
      why := if ws = [] then whyCOMPLETE else 0, pad := pad, count := 0#32 } s

/-- Start an opening that finds nothing to deliver. -/
def openEmpty (w : Win) (why : Nat) (s : State) : State :=
  setWindow (winIdx w)
    { words := [], openSeq := ((window s (winIdx w)).openSeq + 1) % 2 ^ 16, ended := true, why := why } s

/-- End an opening under way with a reason; an ended opening keeps its reason. -/
def endWindow (w : Win) (why : Nat) (s : State) : State :=
  let x := window s (winIdx w)
  if x.ended then s
  else setWindow (winIdx w) { x with
    words := [], ended := true, why := why, cutAt := if why = whyABORTED then some s.ticks else none } s

/-- An opening is under way. -/
def winBusy (s : State) (w : Win) : Bool := !(window s (winIdx w)).ended

/-- WIN_TAG (R482): AVAIL, OPEN_SEQ, END_WHY, PAD, LAST, END and VALID. END is set once no word remains to be read. -/
def winTag (x : Window) : BitVec 64 :=
  BitVec.ofNat 64 (satAdd x.words.length 0 16777215 + 2 ^ 32 * x.openSeq + 2 ^ 48 * x.why
    + 2 ^ 56 * (if x.words.length = 1 ∧ x.more = false then x.pad else 0)
    + 2 ^ 61 * b2n (decide (x.words.length = 1) && !x.more) + 2 ^ 62 * b2n x.ended
    + 2 ^ 63 * b2n (decide (x.words ≠ [])))

/-! Host accesses (R472 to R475). -/

/-- A block answers at `ofs`: only in Full sail, where the host link and the Deck are on (R465), and in recovery mode
and while SEALED only HST, BOT and TIL do (R472). -/
def responds (s : State) (ofs : Nat) : Bool :=
  decide (s.power.st = .fullSail)
    && (decide (s.boot.mode = .normal) || decide (ofs < 0x2000) || decide (0x70000 ≤ ofs ∧ ofs < 0x78000))

/-- An event of a unit that only Full sail powers (R463): in another state it does not happen. -/
def inFull (s t : State) : Host.Outcome State Fault Refusal := .next (if s.power.st = .fullSail then t else s)

/-- An event of a unit that Full sail and Reefed power (Table 19.2). -/
def powered (s t : State) : Host.Outcome State Fault Refusal := .next (if s.power.st = .furled then s else t)

/-- The host access `c` at byte offset `ofs` is served by `f`: in Full sail, not in D3hot, in the order of arrival
behind the writes that are held, and only by a block that responds. It ends the shadow of R476. -/
def hostServe (c : Instr) (ofs : Nat) (f : State → State) (s : State) : State :=
  if s.host.d3hot || decide (s.power.st ≠ .fullSail) then s
  else if s.host.held ≠ [] then { s with host := { s.host with held := s.host.held ++ [c] } }
  else
    let t := { s with host := { s.host with shadow := none } }
    if responds t ofs then f t else t

/-- An access by the host or by a Deck core. -/
def serve (c : Instr) (who : Req) (ofs : Nat) (f : State → State) (s : State) : State :=
  match who with
  | .host => hostServe c ofs f s
  | .deck _ => if responds s ofs then f s else s

/-- The host write `c` does not complete: it is held, and the one at the front counts its 10 ms (R474). A Deck core's
write stalls its core and is not kept: the core offers it again. -/
def holdWrite (c : Instr) (who : Req) (s : State) : State :=
  match who with
  | .host => { s with host := { s.host with
      held := s.host.held ++ [c], heldAt := if s.host.held = [] then s.ticks else s.host.heldAt } }
  | .deck _ => s

/-- A read returns `v`. -/
def answer (who : Req) (v : BitVec 64) (s : State) : State := emit (.readData who v) s

/-- The number of a requester: 0 the host, 1 to 4 the cores (R32). -/
def reqIdx : Req → Nat
  | .host => 0
  | .deck c => c.val + 1

end Sys2Proof.Machine
end

