-- ==== Sys2Proof/Machine/Flags.lean ====
section
/-!
DEFINITION. The status and quality computations of the chapters: the Mast's time-error bound and HOLD_EXC (R47, R48,
R492), the freeze rule of the two time blocks (R31 to R33, R386), and the status words composed from the state.
-/

namespace Sys2Proof.Machine

open Sys2Proof

/-! The Mast's time error (R47, R48, R492). -/

/-- A point on the line from (`x0`, `y0`) to (`x1`, `y1`), rounded up. -/
def lineUp (x0 y0 x1 y1 x : Nat) : Nat := y0 + divUp ((x - x0) * (y1 - y0)) (x1 - x0)

/-- The holdover bound in ns after `sec` seconds: Table 2.6 interpolated, and beyond 24 h the slope of the last row
(R48, R492). A fraction of a ns rounds up. -/
def holdBound (sec : Nat) : Nat :=
  if sec ≤ 600 then lineUp 0 0 600 100 sec
  else if sec ≤ 3600 then lineUp 600 100 3600 500 sec
  else if sec ≤ 14400 then lineUp 3600 500 14400 2000 sec
  else if sec ≤ 28800 then lineUp 14400 2000 28800 5000 sec
  else lineUp 28800 5000 86400 26000 sec

/-- The Mast is in HOLDOVER or HELD. -/
def inHoldover (s : State) : Bool := decide (s.mast.st = .holdover) || decide (s.mast.st = .held)

/-- The value MST_TQ reports: the larger of the firmware's estimate and, in HOLDOVER and HELD, the bound; all ones
while the estimate is unknown (R48). -/
def tqReported (s : State) : Nat :=
  if s.mast.est.toNat = 0xFFFFFFFF then 0xFFFFFFFF
  else if inHoldover s then max s.mast.est.toNat (min (holdBound s.mast.holdSec) 0xFFFFFFFF)
  else s.mast.est.toNat

/-- The reported value exceeds MST_HOLD.LIMIT_NS or is unknown (R48). -/
def tqExceeds (s : State) : Bool :=
  decide (tqReported s = 0xFFFFFFFF ∨ rdF s MST_HOLD 16 16 * 1000 < tqReported s)

/-- HOLD_EXC follows the reported value (R48). -/
def updateHoldExc (s : State) : State := { s with mast := { s.mast with holdExc := tqExceeds s } }

/-- Codes of MST_STATUS.STATE and MST_CYC_STAT.STATE. -/
def mastCode : MastState → Nat
  | .unsync => 0
  | .locked => 1
  | .holdover => 2
  | .held => 3

def cycCode : CycState → Nat
  | .free => 0
  | .pullin => 1
  | .locked => 2
  | .flywheel => 3

/-- MST_STATUS. A commit acts within its own command, so COMMIT_PEND reads 0 between commands. -/
def mstStatus (s : State) : Word :=
  wordOf (mastCode s.mast.st + 4 * b2n s.mast.guardArmed + 8 * b2n s.mast.accept + 32 * b2n s.mast.holdExc
    + 64 * b2n s.mast.ppsOow)

/-- MST_HOLD with SEC, the holdover seconds saturated at 65,535 (R48). -/
def mstHold (s : State) : Word := withField (rd s MST_HOLD) 0 16 (min s.mast.holdSec 65535)

/-- MST_CYC_STAT. -/
def mstCycStat (s : State) : Word :=
  wordOf (cycCode s.mast.cyc.st + 4 * s.mast.cyc.refActive + 16 * b2n s.mast.cyc.bwClamped
    + 32 * b2n s.mast.cyc.onFallback)

/-- MST_IRIG_STAT with VALID: a good frame within the last 2 s (500,000,000 MAST ticks). -/
def mstIrigStat (s : State) : Word :=
  withBool (rd s MST_IRIG_STAT) 0
    (match s.mast.irigAt with
     | some t => decide (s.ticks ≤ t + 500000000)
     | none => false)

/-- MST_SCH_STAT with FIFO_LVL; a command completes within its own step, so BUSY reads 0. -/
def mstSchStat (s : State) : Word := withField (rd s MST_SCH_STAT) 10 6 s.mast.trig.length

/-- The six words of the time block at this tick (Table 2.1). -/
def timeWords (s : State) : List Word :=
  [wordOf (taiSub s), wordOf (taiNs s), wordOf (s.mast.cyc.angle / 2 ^ 32), wordOf s.mast.cyc.count,
   loWord (taiSec s), wordOf (taiSec s / 2 ^ 32 % 2 ^ 16)]

/-- R387: the legacy calendar is enabled. -/
def legacyOn (s : State) : Bool := rdB s CAL_CFG 0

/-- The registers of the Sentry domain, which read from the shadow (R23, R24): the calendar's, the tamper registers
and the last-words block. -/
def sentryAddrs : List Nat :=
  [CAL_STATUS, CAL_INT, CAL_TICK_LO, CAL_LEG_TIME, CAL_LEG_DATE, CAL_TICK_HI, CAL_STG_TIME, CAL_STG_DATE, CAL_REF_TICK_LO,
   CAL_REF_TICK_HI, CAL_REF_NS, CAL_REF_SEC_LO, CAL_REF_SEC_HI, CAL_VBAT_TICK_LO, CAL_VBAT_TICK_HI, CAL_VBAT_CNT, TIL_TAMPER,
   TIL_TAMPER_TICK_LO, TIL_TAMPER_TICK_HI] ++ (List.range 16).map LDG_LW

/-- What the shadow holds of a register. -/
def shadowWord (s : State) (a : Nat) : Word := s.sentry.shadow.getD (sentryAddrs.idxOf a) (regReset a)

/-- The four words of the calendar block (R386). -/
def calWords (s : State) : List Word :=
  [shadowWord s CAL_TICK_LO, if legacyOn s then shadowWord s CAL_LEG_TIME else 0#32,
   if legacyOn s then shadowWord s CAL_LEG_DATE else 0#32, shadowWord s CAL_TICK_HI]

/-! The freeze rule (R31 to R33, R386), over the shadows, each with the tick of its first read, and the torn marks of the
five requesters. -/

/-- A read of word `k`, not the last: the value returned and the shadows after it. -/
def freezeRead (live : List Word) (now k r : Nat) (fz : NMap (Option (Nat × List Word))) (torn : NMap Bool) :
    Word × NMap (Option (Nat × List Word)) :=
  match tget none fz r with
  | some x => (x.2.getD k 0#32, fz)
  | none => if tget false torn r then (live.getD k 0#32, fz) else (live.getD k 0#32, tset none fz r (some (now, live)))

/-- The read of the last word `k`: the value returned, with TORN in bit 31 when the sequence was torn. -/
def releaseRead (live : List Word) (k r : Nat) (fz : NMap (Option (Nat × List Word))) (torn : NMap Bool) : Word :=
  match tget none fz r with
  | some x => x.2.getD k 0#32
  | none => if tget false torn r then withBit (live.getD k 0#32) 31 else live.getD k 0#32

/-- A requester's freeze has stood for `n` ticks. -/
def freezeOver (fz : NMap (Option (Nat × List Word))) (now n r : Nat) : Bool :=
  match tget none fz r with
  | some x => decide (x.1 + n ≤ now)
  | none => false

/-! Status words of the Deck, the memory and the Ledger. -/

def deckCode : DeckState → Nat
  | .run => 0
  | .restarting => 1
  | .failed => 2

def threadCode : ThreadState → Nat
  | .dormant => 0
  | .waiting => 1
  | .ready => 2
  | .running => 3
  | .faulted => 4

/-- The threads in a state. -/
def threadsIn (s : State) (st : ThreadState) : Nat :=
  (s.deck.threads.filter (fun p => decide (p.2.st = st))).length

def ctlStatus (s : State) : Word :=
  wordOf (deckCode s.deck.st + 4 * s.deck.coreUp.toNat + 2 ^ 8 * threadsIn s .faulted
    + 2 ^ 16 * min s.deck.restarts 65535)

def ctlSchStat (s : State) : Word :=
  wordOf (s.deck.postq.length + 2 ^ 7 * b2n (decide (s.deck.held ≠ [])) + 2 ^ 8 * threadsIn s .ready)

/-- A host post is held. -/
def hostPosting (s : State) : Bool := s.deck.held.any (fun p => decide (p.1 = PostSource.host))

def ctlHpostStat (s : State) : Word := wordOf (b2n (hostPosting s) + 2 * b2n s.deck.hostRefused)

def memStatus (s : State) : Word :=
  wordOf ((match s.mem.degraded with
           | some (ch, lane) => 1 + 2 * ch + 4 * lane
           | none => 0)
    + 16 * b2n (decide (65536 ≤ s.mem.retired.length)) + 32 + 2 ^ 16 * min s.mem.retired.length 65535)

def ldgStatus (s : State) : Word :=
  wordOf (b2n s.ledger.fail + 2 * b2n s.ledger.lwValid + 8 * b2n (decide (s.ledger.clr = .clearing))
    + 2 ^ 8 * s.ledger.spares + 2 ^ 17 * s.ledger.buf.length)

def clearCode : ClearState → Nat
  | .idle => 0
  | .awaitAuth => 1
  | .authorized => 2
  | .clearing => 3

def ldgClrStat (s : State) : Word := withField (rd s LDG_CLR_STAT) 0 2 (clearCode s.ledger.clr)

/-- CAL_STATUS as the Sentry domain holds it; COMMIT_PEND is of the posting side. -/
def calStatus (s : State) : Word := withBool (withBool (rd s CAL_STATUS) 0 s.sentry.refValid) 1 s.sentry.onVbat

end Sys2Proof.Machine
end

