-- ==== Sys2Proof/Machine/PortBase.lean ====
section
/-!
DEFINITION. What of the ports the egress queues need too (R65 to R92): the ports, their counters, and the wake from low-power idle.
-/

namespace Sys2Proof.Machine

open Sys2Proof

/-- The ports and the Shrouds are on: the data path has been started, and the node is in Full sail (R446, R465). -/
def portsUp (s : State) : Bool := s.boot.started && decide (s.power.st = .fullSail)

def port (s : State) (p : Nat) : Port := tget {} s.ports p

def setPort (p : Nat) (x : Port) (s : State) : State := { s with ports := tset {} s.ports p x }

/-- Count `n` in counter `k` of Table 3.5 of port `p`. -/
def portCount (p k n : Nat) (s : State) : State := count (PRT_STAT p (2 * k)) n s

/-- Counter indices of Table 3.5. -/
abbrev cRX_FRAMES_OK : Nat := 0
abbrev cRX_OCTETS_OK : Nat := 1
abbrev cRX_UNICAST : Nat := 2
abbrev cRX_MULTICAST : Nat := 3
abbrev cRX_BROADCAST : Nat := 4
abbrev cRX_TO_INGEST : Nat := 5
abbrev cRX_TO_RING : Nat := 6
abbrev cRX_FCS_ERR : Nat := 7
abbrev cRX_RUNT : Nat := 8
abbrev cRX_OVERSIZE : Nat := 9
abbrev cRX_CODE_ERR : Nat := 10
abbrev cRX_FILTERED_DA : Nat := 11
abbrev cRX_VLAN_FILTERED : Nat := 12
abbrev cRX_PAUSE_LEGACY : Nat := 13
abbrev cRX_PFC_FRAMES : Nat := 14
abbrev cRX_BUF_DROP : Nat := 15
abbrev cRX_RING_DRY_DROP : Nat := 16
abbrev cRX_ABANDONED : Nat := 17
abbrev cRX_STAMP_LOST : Nat := 18
abbrev cTSQ_OVF : Nat := 19
abbrev cRX_PTP_EVENT : Nat := 20
abbrev cRX_LPI_ENTRIES : Nat := 21
abbrev cRX_LPI_US : Nat := 22
abbrev cLINK_DOWN : Nat := 23
abbrev cTX_FRAMES_OK : Nat := 24
abbrev cTX_OCTETS_OK : Nat := 25
abbrev cTX_UNICAST : Nat := 26
abbrev cTX_PFC_FRAMES : Nat := 29
abbrev cTX_PAUSED_US : Nat := 30
abbrev cTX_ABORTED : Nat := 31
abbrev cTX_PTP_EVENT : Nat := 32
abbrev cTX_STAMP_LOST : Nat := 33
abbrev cTX_LPI_ENTRIES : Nat := 34
abbrev cTX_LPI_US : Nat := 35
abbrev cRX_PRIO0 : Nat := 36
abbrev cRX_BUF_PEAK : Nat := 44
abbrev cXOFF_US : Nat := 45
abbrev cRX_JUMBO : Nat := 46
abbrev cPCS_BLOCK_ERR : Nat := 47

/-- Whole µs between a MAST tick and now (250 ticks each). -/
def usSince (s : State) (at0 : Nat) : Nat := (s.ticks - at0) / 250

/-- R65: the port is in use; a disabled port keeps its transmitter off and counts nothing. -/
def portOn (s : State) (p : Nat) : Bool := rdB s (PRT_CFG p) 2

/-- R77: a frame becomes pending: the transmitter leaves low-power idle, TX_LPI_US counts its time, and TW_TX_US begins. -/
def leaveTxLpi (p : Nat) (s : State) : State :=
  let x := port s p
  if x.txLpi then
    portCount p cTX_LPI_US (usSince s x.txLpiAt) (setPort p { x with txLpi := false, wake := some s.ticks } s)
  else s

/-- R77: the frame is not held by a wake under way. -/
def wakeDone (s : State) (p : Nat) : Bool :=
  match (port s p).wake with
  | some t => decide (t + 250 * rdF s (PRT_EEE p) 16 7 ≤ s.ticks)
  | none => true

end Sys2Proof.Machine
end

