-- ==== Sys2Proof/Machine/LedgerBase.lean ====
section
/-!
DEFINITION. What the Ledger shows of itself: the words of an event record (Table 15.2), of a last-words block (Table 15.6) and
of the summary (R382), and how far an open read has been delivered (R380).
-/

namespace Sys2Proof.Machine

open Sys2Proof

def setLedger (f : Ledger → Ledger) (s : State) : State := { s with ledger := f s.ledger }

/-- A record with an uncorrectable error, as it is delivered (R376): which bits are wrong is free, and its CRC fails. -/
def damaged (n : Nat) (ws : List Word) : List Word :=
  let xs := ws.mapIdx (fun k w => w ^^^ Config.ueDamage n k)
  xs ++ [crcWords xs ^^^ (Config.ueDamage n ws.length ||| 1#32)]

/-- W0 to W15 of an event record. -/
def recordWords (r : LRec) : List Word :=
  let ws := [wordOf r.seq,
      wordOf (r.epoch % 256 + 2 ^ 8 * (r.code % 256) + 2 ^ 16 * (r.sev % 8) + 2 ^ 19 * (r.src % 32)
        + 2 ^ 24 * b2n r.suspect + 2 ^ 25 * b2n r.repSat),
      loWord r.firstSec, wordOf (r.firstSec / 2 ^ 32 % 2 ^ 16), wordOf r.firstNs, loWord r.lastSec, wordOf r.rept,
      wordOf r.opHours, wordOf (r.pwrCycles % 2 ^ 24), r.key]
    ++ (List.range 5).map (fun k => r.data.getD k 0#32)
  if r.bad then damaged r.seq ws else ws ++ [crcWords ws]

/-- Two 16-bit drop counts in a word, the lower severity low. -/
def dropWord (ds : List Nat) (k : Nat) : Word :=
  wordOf (min (ds.getD (2 * k) 0) 65535 + 2 ^ 16 * min (ds.getD (2 * k + 1) 0) 65535)

/-- The drop counts of severities 0 to 7. -/
def dropCounts (s : State) : List Nat := (List.range 8).map (fun k => (rd s (LDG_DROP k)).toNat)

/-- W0 to W15 of a last-words block. -/
def lastWordsWords (x : LastWords) : List Word :=
  let ws := [wordOf (0x4C57 + 2 ^ 16 + 2 ^ 24 * x.reason), wordOf x.ofs, wordOf x.seq, wordOf (x.epoch % 256),
      loWord x.sec, wordOf (x.sec / 2 ^ 32 % 2 ^ 16), wordOf x.opHours, wordOf (x.pwrCycles % 2 ^ 24)]
    ++ (List.range 4).map (dropWord x.drops) ++ [wordOf x.lost, loWord x.tick, wordOf (x.tick / 2 ^ 32 % 2 ^ 16)]
  ws ++ [crcWords ws]

/-- LDG_LW0 to LDG_LW15: the block found at start, until it is acknowledged (R379). -/
def lwWords (s : State) : List Word :=
  match s.sentry.lastWords with
  | some x => if s.ledger.lwValid then lastWordsWords x else List.replicate 16 0#32
  | none => List.replicate 16 0#32

/-- What the summary holds, in the order of R382. -/
def summaryContent (s : State) : List Nat :=
  let l := s.ledger
  let c := l.clears.getLast?
  [l.epoch, l.seq, l.opHours, l.pwrCycles]
    ++ [4, 5, 6, 7].map (fun v => (l.log.filter (fun r => decide (r.sev = v))).length)
    ++ [(c.map ClearRec.toEpoch).getD 0, (c.map ClearRec.toSeq).getD 0, (c.map ClearRec.sec).getD 0, l.spares, b2n l.fail,
        b2n l.lwValid]

/-- LDG_SUM0 to LDG_SUM7 (R382). EPOCH is in bits 7:0 of the first, the CRC is the last. -/
def ledgerSummary (s : State) : List Word :=
  let ws := (List.range 7).map (fun k =>
    if k = 0 then withField (Config.summaryWord (summaryContent s) 0) 0 8 s.ledger.epoch
    else Config.summaryWord (summaryContent s) k)
  ws ++ [crcWords ws]

/-- The words of a baseline record (the typed fields of Table 9.7; the chapters give no layout, notes/assumptions/24.md). -/
def baselineWords (b : Baseline) : List Word :=
  [loWord b.digest, hiWord b.digest, wordOf b.rate, wordOf b.order, b.band, loWord b.sec, hiWord b.sec]
    ++ b.modes.flatMap (fun m => [wordOf m.1, wordOf m.2.freq, m.2.zeta, m.2.amp, wordOf m.2.conf, wordOf m.2.refSig]
      ++ (m.2.shape.take 16).flatMap (fun r => [wordOf r.sig, r.mag, wordOf r.phase])) ++ b.subspace

/-- The CRC-32C over a baseline's content. -/
def baselineCrc (b : Baseline) : Word := crcWords (baselineWords b)

/-- The newest baseline whose CRC holds (R376). -/
def newestBaseline (s : State) : Option Baseline :=
  (s.nest.baselines.filter (fun b => decide (b.crc = baselineCrc b))).getLast?

/-! The open read (R380). -/

/-- 64-bit words of the Ledger window delivered so far. -/
def ledgerDelivered (s : State) : Nat := (window s (winIdx .ledger)).count.toNat

/-- RESULT codes of LDG_RD_STAT. -/
abbrev rdFOUND : Nat := 1
abbrev rdNOT_FOUND : Nat := 2
abbrev rdOVERRUN : Nat := 3
abbrev rdPACK_FAIL : Nat := 4

/-- The read ends with OVERRUN. -/
def ledgerOverrun (s : State) : State :=
  wr LDG_RD_STAT (wordOf rdOVERRUN) (endWindow .ledger whyOVERRUN
    (setLedger (fun l => { l with evRead := [], enRead := [] }) s))

/-- Records of `per` window words that the open read has delivered whole; packed, none before the read ends. -/
def readDone (s : State) (from0 per : Nat) : Nat := if s.ledger.packed then 0 else (ledgerDelivered s - from0) / per

/-- An event record was overwritten: a read that has not delivered it ends (its 64 bytes are 8 window words). -/
def eventOverrun (epoch seq : Nat) (s : State) : State :=
  if (epoch, seq) ∈ s.ledger.evRead.drop (readDone s 0 8) then ledgerOverrun s else s

/-- An interval record was overwritten: a read that has not delivered it ends (16 window words each). -/
def energyOverrun (ws : List Word) (s : State) : State :=
  if ws ∈ s.ledger.enRead.drop (readDone s s.ledger.enFrom 16) then ledgerOverrun s else s

end Sys2Proof.Machine
end

