-- ==== Sys2Proof/Machine/ServiceOps.lean ====
section
/-!
DEFINITION. The replies of the service protocol (R449).
-/

namespace Sys2Proof.Machine

open Sys2Proof

/-- A reply: the 24-byte header, big-endian, and the payload. OFFSET, which R449 leaves open in a reply, is a free value. -/
def svcReply (cmd status : Nat) (seq : Word) (payload : List Nat) (s : State) : State :=
  let head := [84, 76, 66, 83, 1, cmd, status, 0] ++ beBytes 4 seq.toNat ++ beBytes 4 (Config.svcOffset s.free)
    ++ beBytes 2 payload.length ++ [0, 0]
  emit (.service (head ++ beBytes 4 (crc32c (head ++ payload)).toNat ++ payload)) (drawFree s)

end Sys2Proof.Machine
end

