-- ==== Sys2Proof/Machine/TillOps.lean ====
section
/-!
DEFINITION. The Till's shared operations (R391 to R416): slots and their hierarchy, group keys, the result of a command from
the state in which it starts, and what its completion changes.
-/

namespace Sys2Proof.Machine

open Sys2Proof

/-! Cryptographic results (Table 16.1) are free values: a byte or a number for a use, its key and its data. -/

/-- Byte `i` of the output of use `f` under a key on some data. -/
def cryptByte (f key : Nat) (data : List Nat) (i : Nat) : Nat := Config.crypt f (key :: i :: data) % 256

/-- `n` bytes of such an output. -/
def cryptBytes (f key n : Nat) (data : List Nat) : List Nat := (List.range n).map (cryptByte f key data)

/-- The unit ID of a root, 256 bits (R395). -/
def unitIdOf (root : Nat) : Nat := Config.crypt 0x101 [root] % 2 ^ 256

/-! Slots (R397 to R401). -/

def slotOf (s : State) (n : Nat) : TillSlot := tget {} s.till.slots n

def setSlot (n : Nat) (x : TillSlot) (s : State) : State :=
  { s with till := { s.till with slots := tset {} s.till.slots n x } }

/-- Domain keys D (TIL_CFG). -/
def domains (s : State) : Nat := rdF s TIL_CFG 0 10

/-- The free slots for firmware, D to 1,023 (R398). -/
def freeSlots (s : State) : List Nat :=
  (List.range 1024).filter (fun n => decide (domains s ≤ n) && decide ((slotOf s n).st = .free))

/-- A free slot. -/
def pickSlot? (s : State) : Option Nat :=
  match freeSlots s with
  | [] => none
  | l => l[Config.pickSlot s.free % l.length]?

/-- TAI seconds 31:0, as validity ends hold them. -/
def now32 (s : State) : Nat := taiSec s % 2 ^ 32

/-- The slot's validity has ended (R399, R405). -/
def slotExpired (s : State) (x : TillSlot) : Bool := x.expired || decide (x.fin ≠ 0 ∧ x.fin ≤ now32 s)

/-- Status codes of Table 16.3. -/
abbrev tsOK : Nat := 0
abbrev tsBAD_CMD : Nat := 1
abbrev tsBAD_SLOT : Nat := 2
abbrev tsNO_SLOT : Nat := 3
abbrev tsORPHAN : Nat := 4
abbrev tsTAMPERED : Nat := 5
abbrev tsSEALED : Nat := 6
abbrev tsUSAGE : Nat := 7
abbrev tsEXPIRED : Nat := 8
abbrev tsDEPTH : Nat := 9
abbrev tsVERIFY_FAIL : Nat := 10
abbrev tsNOT_AUTHORIZED : Nat := 11
abbrev tsAUTH_FAIL : Nat := 12
abbrev tsNOT_IN_MODE : Nat := 13
abbrev tsNO_REQUEST : Nat := 14
abbrev tsERROR : Nat := 15

/-- What the use of slot `n` returns by its state (R399), OK when it is VALID. -/
def slotStatus (s : State) (n : Nat) : Nat :=
  if 1023 < n then tsBAD_SLOT
  else match (slotOf s n).st with
    | .free => tsBAD_SLOT
    | .orphan => tsORPHAN
    | .zeroized => tsTAMPERED
    | .valid => tsOK

/-- The use of slot `n` under usage bit `u` (8: none needed) as a key of one of the types. -/
def useStatus (s : State) (n u : Nat) (types : List Nat) : Nat :=
  let x := slotOf s n
  if slotStatus s n ≠ tsOK then slotStatus s n
  else if (u < 8 ∧ x.usage.testBit u = false) ∨ x.typ ∉ types then tsUSAGE
  else if slotExpired s x then tsEXPIRED
  else tsOK

/-- The state of a parent: the root (1,024) while it is formed, or a slot under usage bit `u`. -/
def parentStatus (s : State) (n u : Nat) : Nat :=
  if n = 1024 then (if s.till.root.isSome then tsOK else tsBAD_SLOT)
  else useStatus s n u [0, 1, 2, 3, 4]

/-- The level code of a key below parent `n`: 0 below the root. -/
def childLevel (s : State) (n : Nat) : Nat := if n = 1024 then 0 else (slotOf s n).level + 1

/-- The key material of a parent. -/
def parentKey (s : State) (n : Nat) : Nat := if n = 1024 then s.till.root.getD 0 else (slotOf s n).key

/-- A creating command: the depth rule, a free slot and the sealed cache (R397, R401). -/
def createOut (s : State) (parent level label attr fin key : Nat) : TillOut :=
  if 2 < level then { status := tsDEPTH }
  else if 4 < fieldN attr 0 4 then { status := tsBAD_CMD }
  else if attr.testBit 13 ∧ 64 ≤ s.till.cache.length then { status := tsNO_SLOT }
  else match pickSlot? s with
    | none => { status := tsNO_SLOT }
    | some n =>
      let x : TillSlot := { st := .valid, level := level, parent := parent, typ := fieldN attr 0 4, usage := fieldN attr 4 8,
                            exportable := attr.testBit 12, persist := attr.testBit 13, label := label, fin := fin, key := key }
      { status := tsOK, slot := n, eff := .create n x }

/-- The descendants of slot `n` at every lower level: its children and theirs (R400). -/
def childrenOf (s : State) (ps : List Nat) : List Nat :=
  (s.till.slots.filter (fun p => decide (p.2.st = .valid ∧ p.2.parent ∈ ps))).map (fun p => p.1)

def descendants (s : State) (n : Nat) : List Nat :=
  let a := childrenOf s [n]
  a ++ childrenOf s a

/-- Key material zeroized, the slot ORPHAN. -/
def orphan (n : Nat) (s : State) : State := setSlot n { slotOf s n with st := .orphan, key := 0 } s

/-- R400: the slot becomes FREE, its cache entry goes (R401), and the descendants of a VALID slot become ORPHAN. -/
def destroySlot (n : Nat) (s : State) : State :=
  let ds := if (slotOf s n).st = .valid then descendants s n else []
  let t := setSlot n {} { s with till := { s.till with
    cache := s.till.cache.filter (fun p => decide (p.1 ≠ n)) } }
  ds.foldl (fun u k => orphan k u) t

/-! Group keys (R406, R407). -/

def gkEntry (s : State) (i : Nat) : Option GkEntry := tget none s.till.gk i

/-- The mapped entries. -/
def gkMapped (s : State) : List GkEntry := s.till.gk.filterMap (fun p => p.2)

/-- Usable for sending: the slot is VALID and START ≤ now < END. -/
def gkUsable (s : State) (e : GkEntry) : Bool :=
  decide ((slotOf s e.slot).st = .valid ∧ e.start ≤ now32 s ∧ now32 s < e.fin)

/-- The entry that signs for a group: the usable one with the latest START (R407). -/
def gkSend? (s : State) (group : Nat) : Option GkEntry :=
  (gkMapped s).foldl (fun a e =>
    if e.group = group ∧ gkUsable s e = true then
      (match a with
       | none => some e
       | some b => if b.start < e.start then some e else some b)
    else a) none

/-- A received key ID is accepted for a group at an arrival second (R407). -/
def gkAccepts (s : State) (keyId group arrival : Nat) : Bool :=
  let g := rdF s TIL_CFG 16 8
  match (gkMapped s).find? (fun e => decide (e.keyId = keyId)) with
  | none => false
  | some e => decide (e.group = group ∧ (slotOf s e.slot).st = .valid ∧ e.start ≤ arrival + g ∧ arrival ≤ e.fin + g)

/-! The interfaces (R402). -/

/-- The base of an interface's registers: TIL_CMD's offset. -/
def tillBase (i : Nat) : Nat := if i = 1 then 0x70820 else 0x70020

/-- An interface is BUSY: one of its commands waits or runs. -/
def tillBusy (s : State) (i : Nat) : Bool :=
  s.till.queue.any (fun r => decide (r.iface = i)) || (match s.till.running with
    | some (r, _) => decide (r.iface = i)
    | none => false)

/-- The argument words of an interface, and the bytes of its input mailbox. -/
def tillArgs (s : State) (i : Nat) : List Nat :=
  (List.range 4).map (fun k => (rd s (tillBase i + 4 + 4 * k)).toNat)

def tillMbox (s : State) (i : Nat) : List Nat :=
  (List.range 64).flatMap (fun w => wordBytes (rd s ((if i = 1 then 0x70900 else 0x70100) + 4 * w)))

/-- Write an interface's output mailbox, padded with zeros. -/
def putMbox (i : Nat) (bs : List Nat) (s : State) : State :=
  forUpTo 64 (fun w t => wr ((if i = 1 then 0x70A00 else 0x70200) + 4 * w)
    (wordOf (fromLe ((bs.drop (4 * w)).take 4))) t) s

/-- Write an interface's result words. -/
def putOuts (i : Nat) (ws : List Nat) (s : State) : State :=
  forUpTo 4 (fun k t => wr (tillBase i + 0x18 + 4 * k) (wordOf (ws.getD k 0)) t) s

/-! Authorization (R409, R410). Operation types: 0 a Ledger clear, 1 ZEROIZE, 2 ENROL, 3 CAL_ENROL
(notes/assumptions/20.md). -/

def authReq (s : State) (op : Nat) : Option AuthReq := tget none s.till.auths op

def setAuth (op : Nat) (x : Option AuthReq) (s : State) : State :=
  { s with till := { s.till with auths := tset none s.till.auths op x } }

/-- R410: a request lives 60 s. -/
def lives60 (s : State) (since : Nat) : Bool := decide (s.ticks < since + 15000000000)

/-- The operation is authorized. -/
def authorized (s : State) (op : Nat) : Bool :=
  match authReq s op with
  | some a => a.complete && lives60 s a.since
  | none => false

/-- Holders needed (Table 16.5); LDG_CFG.CLR_PARTIES for a clear. -/
def holdersNeeded (s : State) (op : Nat) : Nat := if op = 0 then rdF s LDG_CFG 11 2 else 1

/-- The holder lacks the operation's role, or is unknown. -/
def lacksRole (s : State) (op holder : Nat) : Bool :=
  !s.cfg.holders.any (fun h => decide (h.ident = holder) && h.roles.testBit op)

/-- The holders counted for an operation: of a clear, those the Ledger holds. -/
def countedHolders (s : State) (op : Nat) : List Nat :=
  if op = 0 then s.ledger.clrParties else
    match authReq s op with
    | some a => a.holders
    | none => []

/-- A request is live. -/
def requestLive (s : State) (op : Nat) : Bool :=
  if op = 0 then decide (s.ledger.clr = .awaitAuth) && lives60 s s.ledger.clrAt
  else match authReq s op with
    | some a => lives60 s a.since
    | none => false

/-! The attestation statement (Table 16.6). -/

def attestStatement (s : State) (nonce : List Nat) : List Nat :=
  let head := [0x54, 0x4C, 0x42, 0x41] ++ beBytes 2 1 ++ beBytes 2 424
    ++ (List.range 4).flatMap (fun k => wordBytes (Config.serial k))
    ++ beBytes 32 s.till.uid ++ beBytes 48 (Config.romHash % 2 ^ 384) ++ beBytes 48 s.till.fw ++ beBytes 48 s.till.img
    ++ beBytes 48 s.till.conf ++ (ledgerSummary s).flatMap (fun w => beBytes 4 w.toNat)
    ++ beBytes 8 (taiSec s) ++ beBytes 4 (taiNs s)
    ++ beBytes 2 (b2n s.cfg.launch + 2 * b2n (isM4k s) + 4 * b2n (timeSuspect s) + 8 * b2n s.till.restored)
    ++ beBytes 2 s.till.enrolCount ++ (List.range 32).map (fun i => nonce.getD i 0)
  head ++ cryptBytes 0x0F (slotOf s 0).key 96 head

/-! A command's result, from the state in which it starts (R402, Table 16.2). -/

def argA (r : TillReq) : Nat := fieldN (r.args.getD 0 0) 0 11
def argB (r : TillReq) : Nat := fieldN (r.args.getD 0 0) 16 11
def arg (r : TillReq) (k : Nat) : Nat := r.args.getD k 0

/-- DERIVE. -/
def runDerive (s : State) (r : TillReq) : TillOut :=
  let p := argA r
  if parentStatus s p 6 ≠ tsOK then { status := parentStatus s p 6 }
  else createOut s p (childLevel s p) (arg r 1) (arg r 2) (arg r 3) (Config.crypt 1 [parentKey s p, arg r 1])

/-- GENERATE: `ok` is the pairwise test of an ECDSA pair (R393). -/
def runGenerate (s : State) (r : TillReq) : TillOut :=
  let p := argA r
  if parentStatus s p 8 ≠ tsOK then { status := parentStatus s p 8 }
  else if fieldN (arg r 2) 0 4 = 2 ∧ r.ok = false then { status := tsERROR }
  else createOut s p (childLevel s p) 0 (arg r 2) (arg r 3) (Config.crypt 2 [s.free])

/-- UNWRAP: `ok` is the unwrap check of the mailbox. -/
def runUnwrap (s : State) (r : TillReq) : TillOut :=
  let p := argA r
  if useStatus s p 3 [0, 1, 2, 3, 4] ≠ tsOK then { status := useStatus s p 3 [0, 1, 2, 3, 4] }
  else if 2 < childLevel s p then { status := tsDEPTH }
  else if !r.ok then { status := tsVERIFY_FAIL }
  else createOut s p (childLevel s p) (arg r 1) (arg r 2) (arg r 3) (Config.crypt 3 ((slotOf s p).key :: r.mbox))

/-- WRAP: the key slot must be EXPORTABLE, the wrapping slot has usage WRAP. -/
def runWrap (s : State) (r : TillReq) : TillOut :=
  let k := argA r
  let w := argB r
  if slotStatus s k ≠ tsOK then { status := slotStatus s k }
  else if useStatus s w 2 [0, 1, 2, 3, 4] ≠ tsOK then { status := useStatus s w 2 [0, 1, 2, 3, 4] }
  else if !(slotOf s k).exportable then { status := tsUSAGE }
  else if slotExpired s (slotOf s k) then { status := tsEXPIRED }
  else { status := tsOK, mbox := cryptBytes 4 (slotOf s w).key 256 [(slotOf s k).key, s.free] }

def runDestroy (s : State) (r : TillReq) : TillOut :=
  let n := argA r
  if slotStatus s n = tsOK ∨ slotStatus s n = tsORPHAN then { status := tsOK, eff := .destroy n }
  else { status := slotStatus s n }

/-- The operation open on an interface. -/
def openOp (s : State) (i : Nat) : Option TillOpen := tget none s.till.opened i

def setOpen (i : Nat) (x : Option TillOpen) (s : State) : State :=
  { s with till := { s.till with opened := tset none s.till.opened i x } }

/-- The bytes an operation has consumed with this chunk. -/
def chunkData (s : State) (r : TillReq) : List Nat :=
  (match openOp s r.iface with
   | some o => o.data
   | none => []) ++ r.mbox.take (arg r 1)

/-- The arguments of the operation's first command. -/
def chunkArgs (s : State) (r : TillReq) : List Nat :=
  match openOp s r.iface with
  | some o => o.args
  | none => r.args

/-- A chunk beyond the mailbox or the 16 MiB of R403, or another code while an operation is open. -/
def chunkBad (s : State) (r : TillReq) : Bool :=
  decide (256 < arg r 1) || decide (2 ^ 24 < (chunkData s r).length)

def codeClash (s : State) (r : TillReq) : Bool :=
  match openOp s r.iface with
  | some o => decide (o.code ≠ r.code)
  | none => false

/-- ENCRYPT, DECRYPT, HMAC and HASH (R403). The use bit, the key types and the length of the last output; `ok` is the tag
check of DECRYPT's last chunk. -/
def runData (s : State) (r : TillReq) (u : Nat) (types : List Nat) (final : Nat) : TillOut :=
  let n := fieldN ((chunkArgs s r).getD 0 0) 0 11
  let st := if r.code = 0x0C then tsOK else useStatus s n u types
  if st ≠ tsOK then { status := st }
  else if chunkBad s r then { status := tsBAD_CMD }
  else
    let key := if r.code = 0x0C then 0 else (slotOf s n).key
    if r.more then
      { status := tsOK, outs := [arg r 1],
        mbox := if r.code = 6 ∨ r.code = 7 then cryptBytes r.code key 256 (chunkData s r) else [] }
    else if r.code = 7 ∧ r.ok = false then { status := tsVERIFY_FAIL }
    else { status := tsOK, outs := [arg r 1], mbox := cryptBytes r.code key final (chunkData s r) }

/-- Tag bytes of HMAC: ARG2 gives the bits, 80, 128 or 256. -/
def tagBytes (s : State) (r : TillReq) : Nat :=
  let b := (chunkArgs s r).getD 2 0
  if b = 80 then 10 else if b = 128 then 16 else 32

def runSign (s : State) (r : TillReq) : TillOut :=
  let st := useStatus s (argA r) 5 [2]
  if st ≠ tsOK then { status := st }
  else { status := tsOK, mbox := cryptBytes 9 (slotOf s (argA r)).key 96 (s.free :: r.mbox.take 48) }

def runVerify (s : State) (r : TillReq) : TillOut :=
  let st := useStatus s (argA r) 8 [2]
  if st ≠ tsOK then { status := st } else if r.ok then { status := tsOK } else { status := tsVERIFY_FAIL }

/-- ECDH: the new key lies below the private key's parent, at the private key's level. -/
def runEcdh (s : State) (r : TillReq) : TillOut :=
  let x := slotOf s (argA r)
  let st := useStatus s (argA r) 7 [3]
  if st ≠ tsOK then { status := st }
  else createOut s x.parent x.level (arg r 1) (arg r 2) (arg r 3) (Config.crypt 0x0B (x.key :: r.mbox))

def runRandom (s : State) (r : TillReq) : TillOut :=
  if 256 < arg r 1 then { status := tsBAD_CMD }
  else { status := tsOK, outs := [arg r 1], mbox := cryptBytes 0x0D 0 (arg r 1) [s.free] }

def runPubkey (s : State) (r : TillReq) : TillOut :=
  let st := useStatus s (argA r) 8 [2]
  if st ≠ tsOK then { status := st }
  else { status := tsOK, mbox := cryptBytes 0x0E (slotOf s (argA r)).key 97 [] }

def runAttest (s : State) (r : TillReq) : TillOut :=
  let st := slotStatus s 0
  if st ≠ tsOK then { status := st }
  else { status := tsOK, eff := .attest (attestStatement s (r.mbox.take 32) ++ s.till.certificate) }

/-- GK_MAP: the index in ARG1, the fields in the mailbox as TIL_GK_W0 to W3 lay them out (notes/assumptions/20.md);
the table ends at entry 255, and a mapping past it fails with NO_SLOT (R487). -/
def runGkMap (s : State) (r : TillReq) : TillOut :=
  let w := fun k => fromLe ((r.mbox.drop (4 * k)).take 4)
  let n := fieldN (w 1) 21 10
  let st := useStatus s n 8 [1]
  if fieldN (w 1) 16 2 = 3 then { status := tsBAD_CMD }
  else if 255 < arg r 1 then { status := tsNO_SLOT }
  else if st ≠ tsOK then { status := st }
  else
    let e : GkEntry := { keyId := w 0, group := fieldN (w 1) 0 16, tagLen := fieldN (w 1) 16 2, slot := n, start := w 2, fin := w 3 }
    { status := tsOK, eff := .gkMap (arg r 1) e }

def runGkUnmap (r : TillReq) : TillOut :=
  if 255 < arg r 1 then { status := tsBAD_CMD } else { status := tsOK, eff := .gkUnmap (arg r 1) }

/-- AUTH_REQ: a nonce for an operation outside a clear. -/
def runAuthReq (s : State) (r : TillReq) : TillOut :=
  let op := arg r 2
  if op = 0 ∨ 3 < op then { status := tsBAD_CMD }
  else
    let n := Config.crypt 0x12 [s.free] % 2 ^ 64
    { status := tsOK, outs := [n % 2 ^ 32, n / 2 ^ 32], eff := .request op n }

/-- AUTH: `ok` is the check of the holder's signature over the operation, nonce, scope and unit ID (R410). -/
def runAuth (s : State) (r : TillReq) : TillOut :=
  let op := arg r 2
  let h := arg r 1
  if 3 < op then { status := tsBAD_CMD }
  else if !requestLive s op then { status := tsNO_REQUEST }
  else if r.ok = false ∨ lacksRole s op h = true ∨ h ∈ countedHolders s op then
    { status := tsAUTH_FAIL, eff := .authFail h }
  else { status := tsOK, eff := .counted op h }

def runZeroize (s : State) : TillOut :=
  if authorized s 1 then { status := tsOK, eff := .zeroize } else { status := tsNOT_AUTHORIZED }

/-- ENROL (R415): `ok` is the check of the certificate of ENROL CERT. The authorization that the first ENROL consumes
covers the one with CERT, which needs no other. -/
def runEnrol (s : State) (r : TillReq) : TillOut :=
  if s.boot.mode = .normal then { status := tsNOT_IN_MODE }
  else if r.cert then
    if !s.till.enrolled then { status := tsNO_REQUEST }
    else if !r.ok then { status := tsVERIFY_FAIL }
    else { status := tsOK, eff := .cert r.mbox }
  else if !authorized s 2 then { status := tsNOT_AUTHORIZED }
  else { status := tsOK, mbox := cryptBytes 0x15 s.free 256 [], eff := .enrol s.free }

/-- CAL_ENROL (R416). -/
def runCalEnrol (s : State) (r : TillReq) : TillOut :=
  if s.boot.mode ≠ .recovery then { status := tsNOT_IN_MODE }
  else if !authorized s 3 then { status := tsNOT_AUTHORIZED }
  else { status := tsOK, eff := .calEnrol r.mbox }

/-- The ORPHAN slots. -/
def orphans (s : State) : List Nat :=
  (s.till.slots.filter (fun p => decide (p.2.st = .orphan))).map (fun p => p.1)

/-- A command by its code. -/
def runCode (s : State) (r : TillReq) : TillOut :=
  match r.code with
  | 0x01 => runDerive s r
  | 0x02 => runGenerate s r
  | 0x03 => runUnwrap s r
  | 0x04 => runWrap s r
  | 0x05 => runDestroy s r
  | 0x06 => runData s r 0 [0] 256
  | 0x07 => runData s r 1 [0] 256
  | 0x08 => runData s r 4 [1] (tagBytes s r)
  | 0x09 => runSign s r
  | 0x0A => runVerify s r
  | 0x0B => runEcdh s r
  | 0x0C => runData s r 8 [] 48
  | 0x0D => runRandom s r
  | 0x0E => runPubkey s r
  | 0x0F => runAttest s r
  | 0x10 => runGkMap s r
  | 0x11 => runGkUnmap r
  | 0x12 => runAuthReq s r
  | 0x13 => runAuth s r
  | 0x14 => runZeroize s
  | 0x15 => runEnrol s r
  | 0x16 => runCalEnrol s r
  | 0x17 => { status := tsOK, outs := [(orphans s).length], eff := .purge }
  | _ => { status := tsBAD_CMD }

/-- The commands a SEALED Till runs (R414, Table 18.6). -/
def sealedAllows (code : Nat) : Bool := decide (code = 0x12 ∨ code = 0x13 ∨ code = 0x15 ∨ code = 0x16)

/-- A command's result: TAMPERED and SEALED first, then a clash with an open operation (R403, R412). -/
def tillRun (s : State) (r : TillReq) : TillOut :=
  match s.till.st with
  | .tampered => { status := tsTAMPERED }
  | .sealed => if sealedAllows r.code then runCode s r else { status := tsSEALED }
  | _ => if codeClash s r then { status := tsBAD_CMD } else runCode s r

/-- The operation an interface keeps open after a command (R403). -/
def openAfter (s : State) (r : TillReq) (o : TillOut) : Option TillOpen :=
  if r.more ∧ o.status = tsOK ∧ r.code ∈ [6, 7, 8, 12] then
    some { code := r.code, args := chunkArgs s r, data := chunkData s r, since := s.ticks }
  else none

/-- The next waiting command starts: its result is taken from this state, its interface's output mailbox is cleared
(TIL_MBOX_OUT), and an open operation is kept or ended. -/
def tillStart (s : State) : State :=
  match s.till.running, s.till.queue with
  | none, r :: q =>
    let o := tillRun s r
    let t := setOpen r.iface (openAfter s r o) (drawFree s)
    putMbox r.iface [] { t with till := { t.till with queue := q, running := some (r, o) } }
  | _, _ => s

/-! Completion. -/

/-- Every slot ZEROIZED. -/
def allZeroized : NMap TillSlot := (List.range 1024).map (fun n => (n, { st := .zeroized }))

/-- NODE_STATE and the rest of the node are outside the Till: this is what the completion changes in the Till, the Ledger
and the windows. -/
def applyEffect (e : TillEffect) (s : State) : State :=
  match e with
  | .none => s
  | .create n x =>
    let t := setSlot n x s
    if x.persist then { t with till := { t.till with cache := t.till.cache ++ [(n, x)] } } else t
  | .destroy n => destroySlot n s
  | .gkMap i e => { s with till := { s.till with gk := tset none s.till.gk i (some e) } }
  | .gkUnmap i => { s with till := { s.till with gk := tset none s.till.gk i none } }
  | .request op n => setAuth op (some { nonce := n, since := s.ticks }) s
  | .counted op h =>
    if op = 0 then
      let hs := s.ledger.clrParties ++ [h]
      if holdersNeeded s 0 ≤ hs.length then
        raise TIL_INT 2 { s with ledger := { s.ledger with clrParties := hs, clr := .authorized } }
      else { s with ledger := { s.ledger with clrParties := hs } }
    else match authReq s op with
      | none => s
      | some a => raise TIL_INT 2 (setAuth op (some { a with holders := a.holders ++ [h], complete := true }) s)
  | .authFail h => logEvent srcTIL 3 5 (wordOf h) [] (raise TIL_INT 3 s)
  | .zeroize =>
    logEvent srcTIL 4 6 0#32 [] (setAuth 1 none { s with till := { s.till with
      slots := allZeroized, root := none } })
  | .enrol seed =>
    let root := Config.crypt 0x100 [seed]
    let t := wr TIL_TAMPER 0#32 { s with till := { s.till with
      seed := seed, root := some root, uid := unitIdOf root, enrolled := true,
      enrolCount := satAdd s.till.enrolCount 1 65535 } }
    logEvent srcTIL 2 6 0#32 [] (setAuth 2 none (setSlot 0
      { st := .valid, typ := 2, usage := 0x20, key := Config.crypt 1 [root, 0] } t))
  | .cert bs => { s with till := { s.till with certificate := bs, enrolled := false } }
  | .calEnrol bs =>
    logEvent srcTIL 6 6 0#32 [] (setAuth 3 none { s with till := { s.till with
      calArea := (List.range 120).foldl (fun m k => tset 0#32 m k (Config.calWord bs k)) s.till.calArea } })
  | .purge => (orphans s).foldl (fun t n => setSlot n {} t) s
  | .attest bs => openWindow .attestation (packWords bs.length bs) (padOf bs.length) s

/-- The payload of a TILL reply: RES, OUT and MBOX_OUT (Table 18.6). -/
def tillReply (o : TillOut) : List Nat :=
  beBytes 4 (o.status + 2 ^ 16 * o.slot) ++ (List.range 4).flatMap (fun k => beBytes 4 (o.outs.getD k 0)) ++ o.mbox

/-- The result words and CMD_DONE of an interface (R402); the service port's reply leaves on the port. -/
def putResult (r : TillReq) (o : TillOut) (s : State) : State :=
  if r.iface = 2 then svcReply 6 0 r.seq (tillReply o) s
  else
    let t := putOuts r.iface o.outs (putMbox r.iface o.mbox
      (wr (tillBase r.iface + 0x14) (wordOf (o.status + 2 ^ 16 * o.slot)) s))
    if r.iface = 1 then wr TIL_D_INT (withBit (rd t TIL_D_INT) 0) t else raise TIL_INT 0 t

/-- The running command completes. -/
def tillFinish (s : State) : State :=
  match s.till.running with
  | none => s
  | some (r, o) => putResult r o (applyEffect o.eff { s with till := { s.till with running := none } })

/-! Tamper (R411 to R413, Table 16.8). -/

/-- TIL_TAMPER bits latch, with the tick count of the first trip. -/
def latchTamper (src : Nat) (s : State) : State :=
  let t := if rd s TIL_TAMPER = 0#32 then
      wr TIL_TAMPER_TICK_HI (wordOf (s.sentry.tick / 2 ^ 32 % 2 ^ 16)) (wr TIL_TAMPER_TICK_LO (loWord s.sentry.tick) s)
    else s
  wr TIL_TAMPER (rd t TIL_TAMPER ||| wordOf (src % 64)) t

/-- Every slot and the root zeroized, operations ended. -/
def zeroizeAll (s : State) : State :=
  { s with till := { s.till with
      slots := allZeroized, root := none, opened := [] } }

/-- The operation that runs aborts: TAMPERED, its outputs cleared (Table 16.8, R413). -/
def abortRunning (s : State) : State :=
  match s.till.running with
  | none => { s with till := { s.till with cache := [] } }
  | some (r, _) => putResult r { status := tsTAMPERED } { s with till := { s.till with running := none } }

end Sys2Proof.Machine
end

