-- ==== Sys2Proof/Machine/QueueOps.lean ====
section
/-!
DEFINITION. Egress queues and publications as shared operations (R293 to R296, R305 to R312): landing an item, composers that
wait, a publication's transmissions and the NODE_STATE member, and the changes of the node's state that it reports.
-/

namespace Sys2Proof.Machine

open Sys2Proof

/-! Queues (R305, R306). -/

def queue (s : State) (q : Nat) : Queue := tget {} s.egr.queues q

def setQueue (q : Nat) (x : Queue) (s : State) : State :=
  { s with egr := { s.egr with queues := tset {} s.egr.queues q x } }

/-- EGR_Q_CFG: the sink is the host, the port, its MAC priority class, DEPTH and USED. -/
def qHost (s : State) (q : Nat) : Bool := rdB s (EGR_Q_CFG q) 0
def qPort (s : State) (q : Nat) : Nat := rdF s (EGR_Q_CFG q) 1 6
def qClass (s : State) (q : Nat) : Nat := rdF s (EGR_Q_CFG q) 7 3
def qDepth (s : State) (q : Nat) : Nat := rdF s (EGR_Q_CFG q) 10 10
def qUsed (s : State) (q : Nat) : Bool := rdB s (EGR_Q_CFG q) 20

/-- A queue is full for an item of `len` bytes (R306): DEPTH items, or a 1 MiB pool that cannot hold it. -/
def qFull (s : State) (q len : Nat) : Bool :=
  let items := (queue s q).items
  decide (qDepth s q ≤ items.length ∨ 1048576 < (items.map (fun i => i.len)).sum + len)

/-- Counter `k` of EGR_CNT. -/
def egrCount (k n : Nat) (s : State) : State := count (EGR_CNT (2 * k)) n s

/-- An output stream's frame counts when its item lands (EGR_OS_W2). -/
def countFrame (o : Option Nat) (s : State) : State :=
  match o with
  | none => s
  | some k =>
    let x := tget ({} : OutSt) s.egr.outs k
    egrCount 7 1 { s with egr := { s.egr with outs := tset {} s.egr.outs k { x with frames := (x.frames + 1) % 2 ^ 32 } } }

/-- An item lands; LEVEL reaching EGR_Q_LEVEL from below sets the queue's bit (R308). A port's transmitter wakes (R77). -/
def qLand (q : Nat) (i : QItem) (s : State) : State :=
  let x := queue s q
  let lim := rdF s (EGR_Q_LEVEL q) 0 10
  let u := countFrame i.stream (setQueue q { x with items := x.items ++ [i] } s)
  let t := if qHost s q then u else leaveTxLpi (qPort s q) u
  if lim ≠ 0 ∧ x.items.length < lim ∧ lim ≤ x.items.length + 1 then raise EGR_QINT q t else t

/-- The next item's number. -/
def nextItem (s : State) : State := { s with egr := { s.egr with nextId := s.egr.nextId + 1 } }

abbrev cEVALUATIONS : Nat := 0
abbrev cRAISES : Nat := 1
abbrev cCONFIRMS : Nat := 2
abbrev cAMENDS : Nat := 3
abbrev cWITHDRAWS : Nat := 4
abbrev cCLEARS : Nat := 5
abbrev cFINALS : Nat := 6
abbrev cOS_FRAMES : Nat := 7
abbrev cOS_DROPPED : Nat := 8
abbrev cKEY_FAIL : Nat := 9
abbrev cMUTED_ITEMS : Nat := 10
abbrev cQFULL_WAITS : Nat := 11

/-- A composer offers an item: it lands, or the composer waits (R311); an alarm composer's wait is counted. -/
def compose (q prio len : Nat) (alarm : Bool) (stream : Option Nat) (body : TxBody) (s : State) : State :=
  let i : QItem := { ident := s.egr.nextId, prio := prio, len := len, body := body, stream := stream }
  let t := nextItem s
  if !qUsed s q then s
  else if qFull s q len || s.egr.waits.any (fun w => decide (w.1 = q)) then
    let u := { t with egr := { t.egr with waits := t.egr.waits ++ [(q, { i with since := s.ticks })] } }
    if alarm then raise EGR_INT 5 (egrCount cQFULL_WAITS 1 u) else u
  else qLand q i t

/-- The first waiting item whose queue has room. -/
def waiterReady? (s : State) : Option (Nat × QItem) := s.egr.waits.find? (fun w => !qFull s w.1 w.2.len)

/-! The node's state word (R294). -/

/-- The lease holds (R418): written, not dropped, and SHR_MONO before SHR_LEASE_DL. -/
def leaseLive (s : State) : Bool := s.pair.lease && !atOrAfter32 s.pair.mono (rd s SHR_LEASE_DL).toNat

/-- The egress mute follows the lease alone; a SOLO node is never muted (R417, R418). -/
def isMuted (s : State) : Bool := decide (s.pair.role ≠ .solo) && !leaseLive s

/-- The node drives outputs: a SOLO node always, a PAIR node while its role is ACTIVE. -/
def drives (s : State) : Bool := decide (s.pair.role = .solo ∨ s.pair.role = .active)

/-- NODE_STATE: NODE_OK, the Mast state, ACTIVE. -/
def nodeWord (s : State) : Nat := b2n s.nodeOk + 2 * mastCode s.mast.st + 8 * b2n (drives s)

/-- The time-quality octet of a T member (R294). -/
def timeAccuracy (tq : Nat) : Nat :=
  if 1000000000 < tq then 31
  else ((List.range 25).filter (fun n => decide (tq * 2 ^ n ≤ 1000000000))).foldl max 0

def timeQuality (s : State) : Nat :=
  let tq := tqReported s
  128 + 64 * b2n (decide (tq = 0xFFFFFFFF)) + 32 * b2n (timeSuspect s)
    + (if tq = 0xFFFFFFFF then 31 else timeAccuracy tq)

/-! Publications (R293 to R296). -/

def pubCfg (s : State) (p : Nat) : Option PubCfg := (s.cfg.pubs.find? (fun x => decide (x.1 = p))).map (fun x => x.2)

def pubSt (s : State) (p : Nat) : PubSt := tget {} s.egr.pubs p

def setPub (p : Nat) (x : PubSt) (s : State) : State := { s with egr := { s.egr with pubs := tset {} s.egr.pubs p x } }

/-- timeAllowedtoLive (R295). -/
def gooseTtl (interval : Nat) : Nat := max 10 (3 * interval)

/-- The dataset's entries, newest first, K of them. -/
def pubEntries (c : PubCfg) (x : PubSt) : List (Option AlarmRec) := (List.range c.k).map (fun i => x.entries[i]?)

/-- The priority of a publication's item: the severity of its newest entry, 0 with none (notes/assumptions/21.md). -/
def pubPrio (x : PubSt) : Nat :=
  match x.entries with
  | a :: _ => a.sev
  | [] => 0

/-- One transmission: the dataset is composed, or discarded at composition while the key is not usable (R296). -/
def pubTransmit (p : Nat) (s : State) : State :=
  match pubCfg s p with
  | none => s
  | some c =>
    let x := pubSt s p
    let key := if c.auth then gkSend? s c.keyGroup else none
    if c.auth && key.isNone then
      raise EGR_INT 3 (egrCount cKEY_FAIL 1 (setPub p { x with keyOk := false, sentAt := s.ticks } s))
    else
      compose c.queue (pubPrio x) c.len true none
        (.goose { pub := p, stNum := x.stNum, sqNum := x.sqNum, ttl := gooseTtl x.interval, nodeState := nodeWord s,
                  entries := pubEntries c x, utc := x.entries.map (fun a => utcOfTai s a.sec), timeQuality := timeQuality s, keyId := key.map (fun e => e.keyId) })
        (setPub p { x with keyOk := true, sentAt := s.ticks } s)

/-- A new message: the entries shift, stNum counts, sqNum is 0 and it is transmitted at once (R295). -/
def pubNew (p : Nat) (a : Option AlarmRec) (s : State) : State :=
  match pubCfg s p with
  | none => s
  | some c =>
    let x := pubSt s p
    let es := match a with
      | some r => (r :: x.entries).take c.k
      | none => x.entries
    pubTransmit p (setPub p
      { x with stNum := (x.stNum + 1) % 2 ^ 32, sqNum := 0, entries := es, interval := 1 } s)

/-- Every publication transmits its dataset as a new message. -/
def pubAll (s : State) : State :=
  if s.boot.dataPath then s.cfg.pubs.foldl (fun t p => pubNew p.1 none t) s else s

/-- A NODE_STATE change between `s` and `t` is a new message with no new entry (R295). -/
def nodeEdge (s t : State) : State := if nodeWord s = nodeWord t then t else pubAll t

/-- The Mast enters HOLDOVER or HELD: MST_INT.HOLD_ENTER, and NODE_STATE follows (R40, R295). -/
def mastTo (st : MastState) (s : State) : State :=
  nodeEdge s (raise MST_INT 4 { s with mast := { s.mast with st := st } })

/-- R445: NODE_OK as far as the Till, the Ledger, the Deck and the loaded configuration decide it. -/
def nodeOkHolds (s : State) : Bool :=
  s.boot.started && decide (s.till.st = .ready) && !s.ledger.fail && decide (s.deck.st ≠ .failed)
    && s.boot.dataPath && !s.boot.configLost

/-- NODE_OK follows R445; the tick of its rise is kept while it is high. -/
def updateNodeOk (s : State) : State :=
  nodeEdge s { s with
    nodeOk := nodeOkHolds s,
    boot := { s.boot with okAt := if nodeOkHolds s then (if s.nodeOk then s.boot.okAt else some s.ticks) else none } }

/-- NODE_OK has been high for `sec` seconds. -/
def okFor (s : State) (sec : Nat) : Bool :=
  match s.boot.okAt with
  | some t => s.nodeOk && decide (t + 250000000 * sec ≤ s.ticks)
  | none => false

end Sys2Proof.Machine
end

