-- ==== Sys2Proof/Machine/Sched.lean ====
section
/-!
DEFINITION. The schedule table's own operations (R58 to R64, R491) and the calendar's reference time (R383), which the Mast,
the boot ROM and firmware share.
-/

namespace Sys2Proof.Machine

open Sys2Proof

/-- The TAI seconds of R383: CAL_REF_SEC plus the ticks since the latch, 30,517.578125 ns each. -/
def calSec (s : State) : Nat :=
  let refTick := rd64 s CAL_REF_TICK_LO
  let d := (s.sentry.tick + 2 ^ 48 - refTick) % 2 ^ 48
  (rd64 s CAL_REF_SEC_LO) + ((rd s CAL_REF_NS).toNat * 1000000 + d * 30517578125) / 1000000000000000

/-! Entries (Table 2.8). -/

def schEntry (s : State) (e : Nat) : SchEntry := tget {} s.mast.sched e

def setEntry (e : Nat) (x : SchEntry) (s : State) : State :=
  { s with mast := { s.mast with sched := tset {} s.mast.sched e x } }

/-- The words a LOAD returns: W1 to W3 give the next due instant (R64). -/
def schWords (x : SchEntry) : List Word :=
  [wordOf (b2n x.armed + 2 * b2n x.angleKind + 4 * b2n x.reqLock + 8 * b2n x.past + 16 * x.target + 2 ^ 16 * x.arg),
   if x.angleKind then wordOf x.angle else wordOf (x.inst % 1000000000),
   if x.angleKind then wordOf x.cycn else loWord (x.inst / 1000000000),
   if x.angleKind then 0#32 else wordOf (x.inst / 1000000000 / 2 ^ 32 % 2 ^ 16),
   wordOf x.period,
   wordOf (x.count + 2 ^ 24 * b2n x.fired + 2 ^ 25 * b2n x.late + 2 ^ 26 * b2n x.missed)]

/-- The upper 32 bits of the accumulator: the angle in 2^-32 turn (R51). -/
def cycAngle (s : State) : Nat := s.mast.cyc.angle / 2 ^ 32

/-- An ANGLE entry's crossing at count `n` has been passed at this tick (R58, R491). -/
def anglePassed (s : State) (n angle : Nat) : Bool :=
  if s.mast.cyc.count % 2 ^ 32 = n % 2 ^ 32 then decide (angle ≤ cycAngle s)
  else atOrAfter32 s.mast.cyc.count n

/-- An armed entry is due (R58). -/
def schDue (s : State) (x : SchEntry) : Bool :=
  x.armed && (if x.angleKind then anglePassed s x.cycn x.angle else decide (x.inst * taiNsUnit ≤ s.tai))

/-- R64: the entry advances by PERIOD, COUNT decrements, and it disarms when PERIOD is 0 or COUNT reaches 0. -/
def schAdvance (x : SchEntry) : SchEntry :=
  let y := if x.angleKind then { x with cycn := (x.cycn + x.period) % 2 ^ 32 }
    else { x with inst := x.inst + x.period * 1000 }
  let z := if x.endless then y else { y with count := y.count - 1 }
  { z with armed := decide (x.period ≠ 0) && (x.endless || decide (z.count ≠ 0)) }

/-- The first occurrence of a repeating entry after now: of a TAI entry the first instant after the counter, of an
ANGLE entry the first count whose crossing is not passed. -/
def firstFuture (s : State) (x : SchEntry) : SchEntry :=
  if x.angleKind then
    let d := (s.mast.cyc.count + 2 ^ 32 - x.cycn) % 2 ^ 32
    let n := (x.cycn + x.period * (d / x.period)) % 2 ^ 32
    { x with cycn := if anglePassed s n x.angle then (n + x.period) % 2 ^ 32 else n }
  else
    let p := x.period * 1000
    { x with inst := x.inst + p * ((taiAbsNs s - x.inst) / p + 1) }

/-- The entry after an occurrence: of one stored past, the first own occurrence after the late one (R63), else R64's. -/
def schNext (s : State) (x : SchEntry) : SchEntry :=
  match x.own with
  | some n =>
    let y := schAdvance x
    if y.armed then firstFuture s { y with cycn := n, own := none } else { y with own := none }
  | none => schAdvance x

/-- A change of a capture source's level (R201) waits for its record sample. -/
def capChange (e : CapEv) (s : State) : State := { s with cap := { s.cap with ev := s.cap.ev ++ [e] } }

def capEvent (src time : Nat) (level edge : Bool) (s : State) : State :=
  capChange { src := src, time := time, level := level, edge := edge } s

/-- A firing reaches its target with the tick's time stamp (R58 to R60): a SYNC request, a capture schedule input, or
a Deck post through the trigger FIFO. -/
def schTarget (e : Nat) (s : State) : State :=
  let x := schEntry s e
  match x.target with
  | 1 => { s with scales := { s.scales with syncReq := (3, s.tai) :: s.scales.syncReq } }
  | 2 => capEvent (96 + x.arg) s.tai true false s
  | 3 =>
    if s.mast.trig.length < 32 then { s with mast := { s.mast with trig := s.mast.trig ++ [(x.arg, s.tai)] } }
    else raise MST_INT 8 (setEntry e { x with missed := true } s)
  | _ => s

/-- One occurrence of entry `e`: skipped under REQ_LOCK outside LOCKED (R61), or fired, then the advance of R64. An
entry stored past fires LATE (R63). DESIGN CHOICE (notes/assumptions/40.md): FIRED is set also when the post is lost
at a full FIFO. -/
def schOccur (e : Nat) (late : Bool) (s : State) : State :=
  let x := schEntry s e
  if x.angleKind ∧ x.reqLock ∧ s.mast.cyc.st ≠ .locked then
    raise MST_INT 8 (setEntry e (schNext s { x with missed := true }) s)
  else
    let t := schTarget e (setEntry e { x with fired := true, late := x.late || late || x.own.isSome } s)
    setEntry e (schNext t (schEntry t e)) t

/-! STORE (R63). -/

/-- The target is reserved, the argument out of its range, or a TAI period between 1 and 99 µs. -/
def badEntry (w0 period : Nat) : Bool :=
  let target := fieldN w0 4 4
  let arg := fieldN w0 16 12
  decide (3 < target) || decide (target = 1 ∧ arg ≠ 0) || decide (target = 2 ∧ 15 < arg)
    || decide (target = 3 ∧ 255 < arg)
    || decide (w0.testBit 1 = false ∧ 1 ≤ period ∧ period ≤ 99)

/-- The entry the six words spell; a count of all ones is the next cycle (Table 2.8). DESIGN CHOICE
(notes/assumptions/40.md): nanoseconds above 999,999,999 carry into the seconds. -/
def entryOfWords (s : State) (w0 w1 w2 w3 w4 w5 : Nat) : SchEntry :=
  { armed := w0.testBit 0, angleKind := w0.testBit 1, reqLock := w0.testBit 2, past := w0.testBit 3,
    target := fieldN w0 4 4, arg := fieldN w0 16 12,
    inst := if w0.testBit 1 then 0 else (w2 + 2 ^ 32 * (w3 % 2 ^ 16)) * 1000000000 + w1,
    angle := if w0.testBit 1 then w1 else 0,
    cycn := if w0.testBit 1 then (if w2 = 0xFFFFFFFF then (s.mast.cyc.count + 1) % 2 ^ 32 else w2) else 0,
    period := w4, count := w5 % 2 ^ 24, endless := decide (w5 % 2 ^ 24 = 0) }

/-- The first occurrence is past at the store cycle (R63). -/
def entryPast (s : State) (x : SchEntry) : Bool :=
  if x.angleKind then anglePassed s x.cycn x.angle else decide (x.inst * taiNsUnit < s.tai)

/-- The count at which an ANGLE entry's angle is next crossed. -/
def nextCrossing (s : State) (x : SchEntry) : Nat :=
  if x.angle ≤ cycAngle s then (s.mast.cyc.count + 1) % 2 ^ 32 else s.mast.cyc.count % 2 ^ 32

/-- R63: what a stored entry does whose first occurrence is past; an ANGLE entry fires at its angle's next crossing. -/
def storePast (e : Nat) (x : SchEntry) (s : State) : State :=
  if x.past then
    raise MST_INT 8 (setEntry e (if x.period = 0 then { x with missed := true, armed := false }
      else firstFuture s { x with missed := true }) s)
  else if x.angleKind then setEntry e { x with cycn := nextCrossing s x, own := some x.cycn } s
  else
    let t := schOccur e true (setEntry e x s)
    let y := schEntry t e
    if y.armed then setEntry e { firstFuture t { x with inst := x.inst } with
      fired := y.fired, late := y.late, missed := y.missed, count := y.count } t else t

/-- R62, R63: the words in MST_SCH_W0 to W5 replace the entry that MST_SCH_IDX names. -/
def schStore (s : State) : State :=
  let w := fun k => (rd s (MST_SCH_W k)).toNat
  let e := rdF s MST_SCH_IDX 0 9
  if badEntry (w 0) (w 4) then wrF MST_SCH_STAT 1 3 1 s
  else
    let x := entryOfWords s (w 0) (w 1) (w 2) (w 3) (w 4) (w 5)
    let t := wrF MST_SCH_STAT 1 3 0 s
    if x.armed && entryPast s x then storePast e x t else setEntry e x t

end Sys2Proof.Machine
end

