-- ==== Sys2Proof/Machine/PortOps.lean ====
section
/-!
DEFINITION. The ports' shared operations (R67 to R92): counters, the receive buffer, the ring's descriptors and the
time-stamp queue.
-/

namespace Sys2Proof.Machine

open Sys2Proof

/-- Occupancy of the receive buffer: the frames it holds (R515). -/
def bufBytes (x : Port) : Nat := (x.buf.map (fun i => i.len)).sum

/-- XOFF and XON thresholds in bytes (R73). -/
def xoffAtBytes (s : State) (p : Nat) : Nat := rdF s (PRT_PFC p) 0 9 * 64
def xonAtBytes (s : State) (p : Nat) : Nat := rdF s (PRT_PFC p) 16 9 * 64
def pfcMask (s : State) (p : Nat) : Nat := rdF s (PRT_CFG p) 8 8

/-- The MAST ticks that `q` quanta of 512 bit times last at the port's line rate (Table 3.1). -/
def quantaTicks (s : State) (p q : Nat) : Nat :=
  match rdF s (PRT_CFG p) 0 2 with
  | 2 => divUp (256 * q) 5
  | 3 => divUp (64 * q) 5
  | _ => 128 * q

/-- The lane's transmitter equalisation, as the preset gives it: swing, pre-cursor and post-cursor (R66). -/
def laneSetting (s : State) (p : Nat) : Nat × Nat × Nat := s.cfg.presets.getD (rdF s (PRT_CFG p) 20 4) (0, 0, 0)

/-- A frame for the port waits in a queue (R77). -/
def framePending (s : State) (p : Nat) : Bool :=
  (List.range 32).any (fun q => qUsed s q && !qHost s q && decide (qPort s q = p) && decide ((queue s q).items ≠ []))

/-- One PFC frame for the priorities of PFC_EN (R73), with a change `f` of the port. -/
def sendPfcWith (f : Port → Port) (p quanta : Nat) (s : State) : State :=
  let t := leaveTxLpi p s
  portCount p cTX_PFC_FRAMES 1 (emit (.pfc p (pfcMask s p) quanta) (setPort p { f (port t p) with pfcAt := s.ticks } t))

/-- One PFC frame for the priorities of PFC_EN (R73). -/
def sendPfc (p quanta : Nat) (s : State) : State := sendPfcWith (fun x => x) p quanta s

/-- The buffer reaches `bytes`: the peak, and PFC at XOFF (R73, R515). DESIGN CHOICE (notes/assumptions/41.md): a port
with PFC_EN 0 or XOFF_64 0 sends none and is in no XOFF state. -/
def bufReach (p bytes : Nat) (s : State) : State :=
  let x := port s p
  let t := setPort p { x with peak := max x.peak bytes } s
  if pfcMask s p ≠ 0 ∧ ¬ x.xoff ∧ xoffAtBytes s p ≤ bytes ∧ xoffAtBytes s p ≠ 0 then
    sendPfc p 0xFFFF (setPort p { port t p with xoff := true, xoffAt := s.ticks } t)
  else t

/-! The time-stamp queue (R85 to R88). -/

/-- A stamp is refused (R86). -/
def tsqRefuse (p : Nat) (egress : Bool) (tag : Nat) (s : State) : State :=
  let t := portCount p cTSQ_OVF 1 (setStat (PRT_TSQ_STAT p) 8 true s)
  let u := if egress then wrF (PRT_TSQ_STAT p) 16 16 tag (portCount p cTX_STAMP_LOST 1 t)
    else portCount p cRX_STAMP_LOST 1 t
  raise (PRT_INT p) 5 u

/-- An entry with its stamp (R44) is offered: refused at 64 entries (R86); else it takes the next SEQ. The answer
tells whether it entered. -/
def tsqPush (p : Nat) (egress : Bool) (msg tag stamp : Nat) (s : State) : State × Bool :=
  let x := port s p
  if 64 ≤ x.tsq.length then (tsqRefuse p egress tag s, false)
  else
    let e : TsqEntry := ⟨stamp, x.seq, egress, msg, tag⟩
    (raise (PRT_INT p) 4 (setPort p { x with tsq := x.tsq ++ [e], seq := (x.seq + 1) % 256 } s), true)

/-- The two 64-bit words of an entry (PRT_TSQ_W0 to W3). -/
def tsqWords01 (e : TsqEntry) : BitVec 64 :=
  pairWord (loWord (e.stamp / taiSecUnit)) (wordOf (e.stamp / taiNsUnit % 1000000000 + 2 ^ 31))
def tsqWords23 (e : TsqEntry) : BitVec 64 :=
  pairWord (wordOf (e.stamp / 2 ^ 12 % 2 ^ 16 + 2 ^ 16 * (e.stamp / taiSecUnit / 2 ^ 32 % 2 ^ 16)))
    (wordOf (e.seq + 2 ^ 8 * b2n e.egress + 2 ^ 12 * e.msgType + 2 ^ 16 * (e.tag % 2 ^ 16)))

/-! The receive ring (R80 to R84). -/

def ringOn (s : State) (p : Nat) : Bool := rdB s (PRT_RX_CTRL p) 0
def ringHead (s : State) (p : Nat) : Nat := rdF s (PRT_RX_HEAD p) 0 9
def ringTail (s : State) (p : Nat) : Nat := rdF s (PRT_RX_TAIL p) 0 9

/-- Descriptors offered and not filled. -/
def ringRoom (s : State) (p : Nat) : Nat := (ringTail s p + 512 - ringHead s p) % 512

/-- Offset of descriptor `i` in the receive-ring region (PRT_RX_BASE). -/
def descAddr (s : State) (p i : Nat) : Nat := rdF s (PRT_RX_BASE p) 6 21 * 64 + 16 * i

/-- One returned descriptor: the frame's bytes go into its buffer, W1 to W3 are written and OWN is cleared (R80); HEAD
advances. -/
def putDesc (p : Nat) (w1 w2 w3 : Nat) (bytes : List Nat) (s : State) : State :=
  let x := port s p
  let h := ringHead s p
  let w0 := (tget [] x.descs h).headD 0#32
  wr (PRT_RX_HEAD p) (wordOf ((h + 1) % 512))
    (setPort p { x with
      descs := tset [] x.descs h [w0, wordOf w1, wordOf w2, wordOf w3], bufs := tset [] x.bufs w0.toNat bytes } s)

/-- The descriptors of a frame of `len` bytes over `n` buffers of 2,048 bytes, the first `k` of which are filled:
`whole` when the frame completes (EOF), else ABANDONED (R83). -/
def putFrame (p len cls pcp tci seq : Nat) (tagged stamped lost whole : Bool) (bytes : List Nat) (k : Nat) (s : State) : State :=
  forUpTo k (fun i t =>
    putDesc p
      (min 2048 (len - 2048 * i) + 2 ^ 12 * cls + 2 ^ 17 * b2n (decide (i = 0))
        + 2 ^ 18 * b2n (whole && decide (i + 1 = k)) + 2 ^ 19 * b2n (!whole)
        + 2 ^ 20 * b2n (stamped && decide (i = 0)) + 2 ^ 21 * b2n (lost && decide (i = 0))
        + 2 ^ 22 * b2n tagged + 2 ^ 23 * pcp)
      (tci + 2 ^ 16 * (if stamped ∧ i = 0 then seq else 0))
      (if whole ∧ i + 1 = k then len else 0) ((bytes.drop (2048 * i)).take 2048) t) s

/-- Descriptor `i` is offered (R81 step 2): firmware wrote W0, and W1 with OWN. -/
def offerDesc (p i : Nat) (buf : Nat) (s : State) : State :=
  let x := port s p
  setPort p { x with descs := tset [] x.descs i [wordOf (buf / 64 * 64), wordOf (2 ^ 16), 0#32, 0#32] } s

/-- Descriptors were returned: RX_READY at once, or after HOLD_US (R81, PRT_RX_CTRL). -/
def rxReady (p : Nat) (s : State) : State :=
  if rdF s (PRT_RX_CTRL p) 8 8 = 0 then raise (PRT_INT p) 1 s
  else if (port s p).readyPend.isSome then s
  else setPort p { port s p with readyPend := some s.ticks } s

/-- A frame for the ring (R82 to R86): dropped when the ring is dry or disabled, abandoned when it runs dry within the
frame. `event` is the type and sequenceId of a PTP event message. DESIGN CHOICE (notes/assumptions/41.md): RING_DRY is
set also for a disabled ring, and RX_PTP_EVENT counts an event message only when it takes a descriptor. -/
def toRing (p len cls pcp : Nat) (tci : Option (BitVec 16)) (event : Option (Nat × Nat)) (bytes : List Nat) (s : State) :
    State :=
  if !ringOn s p || decide (ringRoom s p = 0) then
    raise (PRT_INT p) 2 (portCount p cRX_RING_DRY_DROP 1 s)
  else
    let n := divUp len 2048
    let k := min n (ringRoom s p)
    let seq := (port s p).seq
    let r := match event with
      | some (m, q) => tsqPush p false m q s.tai (portCount p cRX_PTP_EVENT 1 s)
      | none => (s, false)
    let lost := event.isSome && !r.2
    let t := putFrame p len cls pcp ((tci.map (fun v => v.toNat)).getD 0) seq tci.isSome r.2 lost (decide (k = n)) bytes k
      (portCount p cRX_TO_RING 1 r.1)
    let u := rxReady p t
    if k = n then u else raise (PRT_INT p) 3 (raise (PRT_INT p) 2 (portCount p cRX_ABANDONED 1 u))

/-- Firmware re-arms a ring by step 1 of R81 and empties the port's time-stamp queue (Table 1.3). -/
def rearmPort (p : Nat) (s : State) : State :=
  if ringOn s p then
    wr (PRT_RX_TAIL p) 0#32 (wr (PRT_RX_HEAD p) 0#32
      (setPort p { port s p with descs := [], tsq := [], latched := none, readyPend := none } s))
  else setPort p { port s p with tsq := [], latched := none } s

/-! Ingest's FIFOs (R94, R95). -/

/-- The pipeline a port is bound to; the M4K has two (Table 0.2). -/
def pipeOf (s : State) (p : Nat) : Nat := s.cfg.pipeOf.getD p 0 % pipeCount s

def fifo (s : State) (k : Nat) : List IngItem := tget [] s.ing.fifo k

def setFifo (k : Nat) (l : List IngItem) (s : State) : State :=
  { s with ing := { s.ing with fifo := tset [] s.ing.fifo k l } }

/-- A frame enters its pipeline's FIFO, or waits in the port's buffer while the FIFO is full; PIPE_BP is set when the FIFO
becomes full (R95). -/
def toIngest (i : IngItem) (s : State) : State :=
  let k := pipeOf s i.port
  if (fifo s k).length < 32 ∧ (port s i.port).buf = [] then
    let t := setFifo k (fifo s k ++ [i]) s
    if (fifo s k).length = 31 then raise ING_INT 3 t else t
  else setPort i.port { port s i.port with buf := (port s i.port).buf ++ [i] } s

/-- Of two waiting frames, the one whose FCS check completed first (R94). -/
def earlier (a : Option IngItem) (i : IngItem) : Option IngItem :=
  match a with
  | none => some i
  | some j => if i.order < j.order then some i else some j

/-- The first waiting frame of a pipeline's ports. -/
def firstWaiting (s : State) (k : Nat) : Option IngItem :=
  ((s.ports.filter (fun q => decide (pipeOf s q.1 = k))).flatMap (fun q => q.2.buf)).foldl earlier none

/-- The FIFO has room: the first waiting frame of its ports moves in (R94, R95). -/
def refillFifo (k : Nat) (s : State) : State :=
  if (fifo s k).length < 32 then
    match firstWaiting s k with
    | none => s
    | some i =>
      let t := setFifo k (fifo s k ++ [i])
        (setPort i.port { port s i.port with buf := (port s i.port).buf.tail } s)
      if (fifo s k).length = 31 then raise ING_INT 3 t else t
  else s

/-! A link's change (R515). -/

/-- LINK_UP changes: a link that goes down aborts the frame in transmission (TX_ABORTED) and counts LINK_DOWN. -/
def linkChange (p : Nat) (up anDone : Bool) (s : State) : State :=
  let x := port s p
  if x.linkUp = up then setPort p { x with anDone := anDone } s
  else
    let t := raise (PRT_INT p) 0 (setPort p { x with linkUp := up, anDone := anDone, tx := if up then x.tx else none } s)
    if up then t
    else
      let u := portCount p cLINK_DOWN 1 t
      if x.tx.isSome then portCount p cTX_ABORTED 1 u else u

end Sys2Proof.Machine
end

