-- ==== Sys2Proof/Machine/IngestOps.lean ====
section
/-!
DEFINITION. Ingest's shared operations (R96 to R114): the stream table, time tags and the grid, the normal form of a block,
stalls, filtered values and latency statistics.
-/

namespace Sys2Proof.Machine

open Sys2Proof

/-! The stream table (R98). -/

def streamCfg (s : State) (n : Nat) : Option StreamCfg := (s.cfg.streams.find? (fun p => decide (p.1 = n))).map (fun p => p.2)

def streamSt (s : State) (n : Nat) : StreamSt := tget {} s.ing.streams n

def setStream (n : Nat) (x : StreamSt) (s : State) : State :=
  { s with ing := { s.ing with streams := tset {} s.ing.streams n x } }

/-- The frame group of a source address and IDCODE. -/
def groupOf (s : State) (ip id : Nat) : Option GroupCfg :=
  s.cfg.groups.find? (fun g => decide (g.srcIp = ip ∧ g.idcode = id))

/-- The configured streams of a group, by block. -/
def groupStreams (s : State) (ip id : Nat) : List (Nat × StreamCfg) :=
  s.cfg.streams.filter (fun p => !p.2.isLocal && decide (p.2.srcIp = ip ∧ p.2.idcode = id))

/-! Rates and the grid (R108, R109). -/

/-- The contributing rate. -/
def contribRate (s : State) (c : StreamCfg) : Nat := if s.cfg.tabRate < c.rate ∧ ¬ c.filtered then s.cfg.tabRate else c.rate

/-- N of a FILTERED stream: stream rate over tableau rate. -/
def fastN (s : State) (c : StreamCfg) : Nat := c.rate / s.cfg.tabRate

/-- The time of instant `k` of a grid of `r` per second, in TAI counter units. -/
def gridTime (r k : Nat) : Nat := k * taiSecUnit / r

/-- The instant of a grid nearest a TAI time. -/
def gridNearest (r t : Nat) : Nat := divRound (t * r) taiSecUnit

/-- The tolerance of R109: TOL tenths of a per cent of the finer spacing. -/
def onGrid (s : State) (c : StreamCfg) (tag0 : Int) : Bool :=
  let tag := (tag0 % (taiSecUnit : Int)).toNat
  let placed := gridTime c.rate (gridNearest c.rate tag)
  let off := if placed ≤ tag then tag - placed else placed - tag
  decide (off * 1000 * max c.rate s.cfg.tabRate ≤ rdF s ING_CFG 8 6 * taiSecUnit)

/-- The tableau instant of the stream's own instant `k` (streams at or below the tableau rate, or coincident instants of
a faster one). -/
def tabInstant (s : State) (c : StreamCfg) (k : Nat) : Nat := k * s.cfg.tabRate / c.rate

/-! Time tags (R106, R107). -/

/-- SOC in the era nearest the node's UTC seconds, the smaller count on a tie; the count lies before 1970 when k is -1. -/
def socFull (now soc : Nat) : Int :=
  let at0 := fun (k : Int) => (soc : Int) + k * 2 ^ 32
  let k : Int := now / 2 ^ 32
  let best := fun (a b : Int) => if (b - now).natAbs < (a - now).natAbs then b else a
  best (best (at0 (k - 1)) (at0 k)) (at0 (k + 1))

/-- TAI seconds of UTC seconds around the last applied leap (R107). -/
def leapTai (s : State) (utc : Int) (arrivalSec : Nat) : Int :=
  let new := utc + utcOffset s
  match s.mast.lastLeap with
  | none => new
  | some (at0, true) =>
    let old := new - 1
    if old + 1 < at0 then old
    else if old + 1 = at0 then (if new ≤ arrivalSec then new else old)
    else new
  | some (at0, false) =>
    let old := new + 1
    if old < at0 then old else new

/-- The TAI tag of a C37.118 frame, in TAI counter units (R106). -/
def frameTag (s : State) (soc frac timeBase arrival : Nat) : Int :=
  leapTai s (socFull (utcOfTai s (taiSec s)) soc) (arrival / taiSecUnit) * (taiSecUnit : Int)
    + ((frac * taiSecUnit / timeBase : Nat) : Int)

/-- The instant of a grid of `r` per second nearest a tag, a count since the TAI epoch (R109, R110). -/
def tagInstant (r : Nat) (tag : Int) : Int :=
  tag / (taiSecUnit : Int) * (r : Int) + (gridNearest r (tag % (taiSecUnit : Int)).toNat : Int)

/-- The limit of R106: the smaller of FUTURE_MS (1 to 1,000) and four contributing spacings. -/
def futureLimit (s : State) (c : StreamCfg) : Nat :=
  min (clampNat 1 1000 (rdF s ING_TIMECHK 0 16) * 1000000 * taiNsUnit) (4 * taiSecUnit / contribRate s c)

/-! The normal form (R111). -/

/-- A big-endian number from the front of a list of bytes. -/
def takeBe : Nat → List (BitVec 8) → Nat × List (BitVec 8)
  | 0, bs => (0, bs)
  | n + 1, bs =>
    let r := takeBe n bs.tail
    ((bs.headD 0#8).toNat * 256 ^ n + r.1, r.2)

/-- The bytes of a data block of a layout. -/
def blockBytes (l : Layout) : Nat :=
  2 + l.phasors * (if l.phFloat then 8 else 4) + (if l.freqFloat then 8 else 4)
    + l.analogs * (if l.anFloat then 4 else 2) + l.digitals * 2

/-- A polar pair of a magnitude (units of 2^-149) and an angle (units of 2^-80 radian) in rectangular form. -/
def polarPair (mag : Int) (angle : Int) : Word × Word :=
  let cs := cosSin angle
  (f32Round (mag * cs.1) (2 ^ 80), f32Round (mag * cs.2) (2 ^ 80))

/-- One phasor: PHUNIT scales fixed point in 10^-5 units, a fixed-point angle is in 10^-4 radian (C37.118.2). -/
def decodePhasor (l : Layout) (unit : Nat) (bs : List (BitVec 8)) : (Word × Word) × List (BitVec 8) :=
  if l.phFloat then
    let a := takeBe 4 bs
    let b := takeBe 4 a.2
    (if l.polar then polarPair (f32Val (wordOf a.1)) (f32Val (wordOf b.1) * 2 ^ 80 / 2 ^ 149)
     else (wordOf a.1, wordOf b.1), b.2)
  else
    let a := takeBe 2 bs
    let b := takeBe 2 a.2
    let scale : Int := (unit % 2 ^ 24 : Nat)
    (if l.polar then
       polarPair ((a.1 : Int) * scale * f32One / 100000) (signedN b.1 16 * 2 ^ 80 / 10000)
     else (f32OfRat (signedN a.1 16 * scale) 100000, f32OfRat (signedN b.1 16 * scale) 100000), b.2)

def decodePhasors (l : Layout) : Nat → Nat → List (BitVec 8) → List (Word × Word) × List (BitVec 8)
  | 0, _, bs => ([], bs)
  | n + 1, i, bs =>
    let p := decodePhasor l (l.phUnits.getD i 0) bs
    let r := decodePhasors l n (i + 1) p.2
    (p.1 :: r.1, r.2)

/-- Analogue values: fixed point is scaled by ANUNIT's signed 24-bit factor; floating point is taken as received. -/
def decodeAnalogs (l : Layout) : Nat → Nat → List (BitVec 8) → List Word × List (BitVec 8)
  | 0, _, bs => ([], bs)
  | n + 1, i, bs =>
    let a := takeBe (if l.anFloat then 4 else 2) bs
    let w := if l.anFloat then wordOf a.1
      else f32OfRat (signedN a.1 16 * signedN (l.anUnits.getD i 0 % 2 ^ 24) 24) 1
    let r := decodeAnalogs l n (i + 1) a.2
    (w :: r.1, r.2)

def decodeDigitals : Nat → List (BitVec 8) → List (BitVec 16) × List (BitVec 8)
  | 0, bs => ([], bs)
  | n + 1, bs =>
    let a := takeBe 2 bs
    let r := decodeDigitals n a.2
    (BitVec.ofNat 16 a.1 :: r.1, r.2)

/-- The quantities of a block after its STAT word, in normal form (R111): FREQ as a deviation in mHz from FNOM and DFREQ
in hundredths in fixed point. -/
def decodeBlock (l : Layout) (bs : List (BitVec 8)) : Slot :=
  let st := takeBe 2 bs
  let ph := decodePhasors l l.phasors 0 st.2
  let fr := takeBe (if l.freqFloat then 4 else 2) ph.2
  let df := takeBe (if l.freqFloat then 4 else 2) fr.2
  let an := decodeAnalogs l l.analogs 0 df.2
  let dg := decodeDigitals l.digitals an.2
  { stat := st.1, phasors := ph.1,
    freq := if l.freqFloat then wordOf fr.1
      else f32OfRat (signedN fr.1 16 + (if l.fnom60 then 60000 else 50000)) 1000,
    rocof := if l.freqFloat then wordOf df.1 else f32OfRat (signedN df.1 16) 100,
    analogs := an.1, digitals := dg.1 }

/-- The bytes of block `b` of a group. -/
def blockData (g : GroupCfg) (b : Nat) (body : List (BitVec 8)) : List (BitVec 8) :=
  body.drop (((g.blocks.take b).map blockBytes).sum)

/-- The hints of Table 4.5. -/
def withHints (c : StreamCfg) (tq : Nat) (x : Slot) : Slot :=
  let err := fieldN x.stat 14 2
  { x with
    tq := tq,
    invalid := decide (err = 1 ∨ err = 3) || (decide (err = 2) && !c.testOk),
    test := decide (err = 2),
    suspect := (x.stat.testBit 13 && decide (c.unlockMax ≤ fieldN x.stat 4 2)) || decide (c.tqMax < tq ∨ tq = 15),
    cfgChg := x.stat.testBit 10,
    tierRev := if c.tier then (x.digitals.getLastD 0#16).toNat % 16 else 0 }

/-! Latency statistics (R113, R128). -/

/-- The bin of a latency in TAI counter units. -/
def latBin (u : Int) : Nat :=
  if u < 0 then 0
  else
    let q := (4 * u.natAbs) ^ 3 / (1000000 * taiNsUnit) ^ 3
    if q = 0 then 0 else min 47 (Nat.log2 q + 1)

/-- One more count in a bin; 32 bits, saturating. -/
def bumpBin (h : NMap Nat) (k : Nat) : NMap Nat := tset 0 h k (satAdd (tget 0 h k) 1 0xFFFFFFFF)

/-- A measured latency updates an entry's statistics (R113); the extremes and the average start at the first measurement
(notes/assumptions/43.md). -/
def measure (u : Int) (x : StreamSt) : StreamSt :=
  let us := u / (1000 * (taiNsUnit : Int))
  { x with
    latCount := satAdd x.latCount 1 0xFFFFFFFF,
    measured := true,
    latMin := if x.measured then min x.latMin us else us,
    latMax := if x.measured then max x.latMax us else us,
    latMean := if x.measured then x.latMean + (us - x.latMean) / 256 else us,
    early := if u < 0 then satAdd x.early 1 65535 else x.early,
    hist := bumpBin x.hist (latBin u) }

/-- The measurement also goes to the class histogram (R128). -/
def measureStream (n : Nat) (c : StreamCfg) (u : Int) (s : State) : State :=
  let h := tget {} s.mkt.hist c.cls
  let g : ClassHist := { bins := bumpBin h.bins (latBin u), count := satAdd h.count 1 0xFFFFFFFF }
  setStream n (measure u (streamSt s n)) { s with mkt := { s.mkt with hist := tset {} s.mkt.hist c.cls g } }

/-! Stalls (R110, R112) and the hand-over to the Market. -/

/-- The bytes of a layout's quantities in normal form, Table 4.6's LEN. -/
def slotLen (l : Layout) : Nat := 8 * l.phasors + 8 + 4 * l.analogs + 2 * l.digitals

/-- Slot size in bytes, depth in slots and stall size of R110; the bell wait is the class's fixed bell or upper clamp. -/
def slotSize (l : Layout) : Nat := divUp (32 + slotLen l) 64 * 64

def stallDepth (s : State) (c : StreamCfg) : Nat :=
  divUp ((rdF s (MKT_CLS_LIM c.cls) 16 16 * 100 + rdF s MKT_CFG 8 11 * 1000) * contribRate s c) 1000000 + 8

def stallSize (s : State) (c : StreamCfg) : Nat := stallDepth s c * slotSize c.layout

/-- The slot header H0 to H7 (Table 4.6). -/
def slotHeader (l : Layout) (v : Slot) : List Word :=
  [wordOf (v.arrival / taiSecUnit), wordOf (v.arrival / taiNsUnit % 1000000000), loWord v.instant, hiWord v.instant,
   wordOf (unsignedN v.ofsNs 32),
   wordOf (v.stat + 2 ^ 16 * v.tq + 2 ^ 20 * b2n v.invalid + 2 ^ 21 * b2n v.suspect + 2 ^ 22 * b2n v.test
     + 2 ^ 23 * b2n v.cfgChg + 2 ^ 24 * b2n v.decPartial),
   wordOf (v.port + 2 ^ 6 * v.pipe + 2 ^ 8 * v.tierRev), wordOf (slotLen l)]

/-- The slot of an instant: its number modulo the depth. -/
def stallSlot (s : State) (c : StreamCfg) (x : StreamSt) (k : Nat) : Option Slot :=
  match tget none x.stall (k % stallDepth s c) with
  | some v => if v.instant = k then some v else none
  | none => none

/-- Write a value into its stall slot. -/
def putSlot (s : State) (c : StreamCfg) (v : Slot) (x : StreamSt) : StreamSt :=
  { x with stall := tset none x.stall (v.instant % stallDepth s c) (some v) }

/-- The class's section of the tableau of `inst` has closed (R112): the section is CLOSED, or the tableau was generated
and is no longer in the store. -/
def sectionClosed (s : State) (cls inst : Nat) : Bool :=
  match s.mkt.tabs.find? (fun t => decide (t.inst = inst)) with
  | some t => decide (t.secs.getD cls .unused = .closed) || decide (t.st = .closed)
  | none => decide (inst < s.mkt.next)

/-- Offer a value to the placement unit. -/
def handOver (n inst : Nat) (v : Slot) (s : State) : State :=
  { s with ing := { s.ing with handoff := s.ing.handoff ++ [(n, inst, v)] } }

/-! FILTERED streams (R109). -/

/-- The reach of a value: the offset of its last contributor. -/
def filtReach (n : Nat) : Nat := n / 2

/-- The weight of the contributor at offset `d`, in units of 1/(2N). -/
def filtWeight (n : Nat) (d : Nat) : Nat := if n % 2 = 0 ∧ d = n / 2 then 1 else 2

/-- The contributors of the value centred on the stream's instant `c` that are present: offset, weight and slot. An
INVALID contributor is missing. -/
def contributors (s : State) (cfg : StreamCfg) (x : StreamSt) (n c : Nat) : List (Nat × Nat × Slot) :=
  ((List.range (2 * filtReach n + 1)).map (fun j => (c + j) - filtReach n)).filterMap (fun k =>
    match stallSlot s cfg x k with
    | some v => if v.invalid then none
      else let d := if k ≤ c then c - k else k - c
        some (d, filtWeight n d, v)
    | none => none)

/-- A weighted mean of binary32 values. -/
def wmean (vs : List (Nat × Word)) : Word :=
  let w := (vs.map (fun p => p.1)).sum
  f32Round ((vs.map (fun p => (p.1 : Int) * f32Val p.2)).sum) (atLeast 1 w)

/-- The filtered value of the tableau instant `m` (R109), with the arrival of the frame that completes it. Without a
contributor it carries INVALID and DEC_PARTIAL. -/
def filtValue (s : State) (cfg : StreamCfg) (x : StreamSt) (n m arrival : Nat) : Slot :=
  let c := m * n
  let cs := contributors s cfg x n c
  match cs with
  | [] => { instant := c, arrival := arrival, invalid := true, decPartial := true,
            phasors := List.replicate cfg.layout.phasors (0#32, 0#32), analogs := List.replicate cfg.layout.analogs 0#32,
            digitals := List.replicate cfg.layout.digitals 0#16 }
  | first :: _ =>
    let present := (cs.map (fun p => p.2.1)).sum
    let nearest := (cs.foldl (fun a p => if p.1 < a.1 then p else a) first).2.2
    let coincident := (cs.find? (fun p => decide (p.1 = 0))).map (fun p => p.2.2)
    let like := coincident.getD nearest
    { like with
      instant := c, arrival := arrival, ofsNs := 0,
      invalid := decide (2 * present < 2 * n),
      suspect := cs.any (fun p => p.2.2.suspect), test := cs.any (fun p => p.2.2.test),
      cfgChg := cs.any (fun p => p.2.2.cfgChg),
      decPartial := decide (present < 2 * n),
      phasors := (List.range cfg.layout.phasors).map (fun i =>
        (wmean (cs.map (fun p => (p.2.1, (p.2.2.phasors.getD i (0#32, 0#32)).1))),
         wmean (cs.map (fun p => (p.2.1, (p.2.2.phasors.getD i (0#32, 0#32)).2))))),
      freq := wmean (cs.map (fun p => (p.2.1, p.2.2.freq))),
      rocof := wmean (cs.map (fun p => (p.2.1, p.2.2.rocof))),
      analogs := (List.range cfg.layout.analogs).map (fun i =>
        wmean (cs.map (fun p => (p.2.1, p.2.2.analogs.getD i 0#32)))) }

/-- The tableau instants whose values fall due for handover when the frame of instant `k` is accepted. -/
def filtDue (s : State) (cfg : StreamCfg) (x : StreamSt) (n k : Nat) : List Nat :=
  if k < filtReach n then []
  else
    let top := (k - filtReach n) / n
    let first := match x.handed with
      | none => top - stallDepth s cfg
      | some h => max (h + 1) (top - stallDepth s cfg)
    (List.range (top + 1 - first)).map (fun j => first + j)

/-- Hand over every value that an accepted frame completes and whose tableau is still open (R109, R112), measuring
each (R113). -/
def filtHand (n : Nat) (cfg : StreamCfg) (k arrival : Nat) (s : State) : State :=
  let nn := fastN s cfg
  (filtDue s cfg (streamSt s n) nn k).foldl (fun t m =>
    let u := setStream n { streamSt t n with handed := some m } t
    if sectionClosed t cfg.cls m then u
    else
      handOver n m (filtValue t cfg (streamSt t n) nn m arrival)
        (measureStream n cfg ((arrival : Int) - (gridTime s.cfg.tabRate m : Int)) u)) s

/-- The tableau instants a FILTERED frame of instant `k` belongs to. -/
def filtTabs (n k : Nat) : List Nat :=
  let lo := divUp (k - filtReach n) n
  let hi := (k + filtReach n) / n
  (List.range (hi + 1 - lo)).map (fun j => lo + j)

end Sys2Proof.Machine
end

