-- ==== Sys2Proof/Machine/TabOps.lean ====
section
/-!
DEFINITION. Tableaus as data (R117 to R125, R514, R148): records, their flags, the values consumers read, and the bytes of the
header and the records.
-/

namespace Sys2Proof.Machine

open Sys2Proof

/-! Tableaus. -/

def tabOf (s : State) (inst : Nat) : Option Tableau := s.mkt.tabs.find? (fun t => decide (t.inst = inst))

/-- Replace the tableau of its instant. -/
def setTab (t : Tableau) (s : State) : State :=
  { s with mkt := { s.mkt with tabs := s.mkt.tabs.map (fun x => if x.inst = t.inst then t else x) } }

def recOf (t : Tableau) (n : Nat) : Rec := tget {} t.recs n

def setRec (n : Nat) (r : Rec) (t : Tableau) : Tableau := { t with recs := tset {} t.recs n r }

/-- Time of the tableau's instant in TAI counter units. -/
def tabTime (s : State) (inst : Nat) : Nat := gridTime s.cfg.tabRate inst

/-! Quantities (R122, R123). -/

def qtyCount (l : Layout) : Nat := l.phasors + l.analogs + l.digitals + 2

/-- The place of a quantity in R122's order. -/
def qtyIndex (l : Layout) : Qty → Nat
  | .phasor i => i
  | .freq => l.phasors
  | .rocof => l.phasors + 1
  | .analog i => l.phasors + 2 + i
  | .digital i => l.phasors + 2 + l.analogs + i

/-- ARRIVAL codes (Table 5.3). -/
abbrev arrABSENT : Nat := 0
abbrev arrPRESENT : Nat := 1
abbrev arrLATE : Nat := 2
abbrev arrHELD : Nat := 3

/-- The flag field of each quantity of a placed value (R124). -/
def slotFlags (l : Layout) (arr : Nat) (v : Slot) : List Nat :=
  (List.range (qtyCount l)).map (fun i =>
    arr + 4 * b2n (v.invalid || v.chanInvalid.getD i false) + 8 * b2n (v.suspect || v.chanSuspect.getD i false))

/-- The words of a quantity's value: two for a phasor. -/
def qtyWords (v : Slot) : Qty → List Word
  | .phasor i => [(v.phasors.getD i (0#32, 0#32)).1, (v.phasors.getD i (0#32, 0#32)).2]
  | .freq => [v.freq]
  | .rocof => [v.rocof]
  | .analog i => [v.analogs.getD i 0#32]
  | .digital i => [(v.digitals.getD i 0#16).setWidth 32]

/-- What a consumer reads of a quantity: its flags and its value. -/
structure QVal where
  flags : Nat
  words : List Word
  deriving DecidableEq, Repr

def qAbsent (q : QVal) : Bool := decide (q.flags % 4 = arrABSENT)
def qHeld (q : QVal) : Bool := decide (q.flags % 4 = arrHELD)
def qLate (q : QVal) : Bool := decide (q.flags % 4 = arrLATE)
def qInvalid (q : QVal) : Bool := q.flags.testBit 2
def qSuspect (q : QVal) : Bool := q.flags.testBit 3

/-- A quantity as it stands in the record, or in a pending placement when `pend` (Alignment procedure). -/
def readQty (s : State) (t : Tableau) (pend : Bool) (q : QRef) : QVal :=
  match streamCfg s q.stream with
  | none => { flags := 0, words := [] }
  | some c =>
    match (if pend then tget none t.pend q.stream else none) with
    | some v => { flags := (slotFlags c.layout arrLATE v).getD (qtyIndex c.layout q.qty) 0, words := qtyWords v q.qty }
    | none =>
      let r := recOf t q.stream
      { flags := r.flags.getD (qtyIndex c.layout q.qty) 0, words := qtyWords r.slot q.qty }

/-- The parts of a phasor, or a number, in units of 2^-149. -/
def qRe (q : QVal) : Int := f32Val (q.words.getD 0 0#32)
def qIm (q : QVal) : Int := f32Val (q.words.getD 1 0#32)

/-- A quantity used as one number: a phasor's magnitude, a digital word's value, or the number itself (R282). -/
def qNumber (k : Qty) (q : QVal) : Int :=
  match k with
  | .phasor _ => (magnitude (qRe q) (qIm q) : Int)
  | .digital _ => ((q.words.getD 0 0#32).toNat : Int) * f32One
  | _ => qRe q

/-! Record and header bytes (R122, R514, R148). -/

/-- Nibbles two per byte, low nibble first. -/
def packNibbles : List Nat → List Nat
  | [] => []
  | [a] => [a % 16]
  | a :: b :: r => (a % 16 + 16 * (b % 16)) :: packNibbles r

/-- Padding to a multiple of 64 bytes. -/
def pad64 (bs : List Nat) : List Nat := bs ++ List.replicate ((64 - bs.length % 64) % 64) 0

def layoutOf (s : State) (n : Nat) : Layout :=
  match streamCfg s n with
  | some c => c.layout
  | none => { phFloat := true, polar := false, freqFloat := true, anFloat := true, phasors := 0, analogs := 0,
              digitals := 0, phUnits := [], anUnits := [], fnom60 := false }

/-- The value bytes of a record, little-endian, absent values zero. -/
def valueBytes (l : Layout) (v : Slot) : List Nat :=
  (List.range l.phasors).flatMap (fun i =>
      let p := v.phasors.getD i (0#32, 0#32)
      wordBytes p.1 ++ wordBytes p.2)
    ++ wordBytes v.freq ++ wordBytes v.rocof
    ++ (List.range l.analogs).flatMap (fun i => wordBytes (v.analogs.getD i 0#32))
    ++ (List.range l.digitals).flatMap (fun i => leBytes 2 (v.digitals.getD i 0#16).toNat)

/-- A record (R122, Table 5.2). -/
def recBytes (s : State) (t : Tableau) (n : Nat) : List Nat :=
  let l := layoutOf s n
  let r := recOf t n
  let v := r.slot
  let arrUs : Int := if r.flags.headD 0 % 4 = arrPRESENT ∨ r.flags.headD 0 % 4 = arrLATE then ((v.arrival : Int) - (tabTime s t.inst : Int)) / (1000 * (taiNsUnit : Int)) else 0
  let h0 := r.rev + 2 ^ 4 * v.tierRev + 2 ^ 8 * b2n v.test + 2 ^ 9 * b2n v.cfgChg + 2 ^ 10 * b2n v.decPartial
    + 2 ^ 11 * b2n r.seen
  pad64 (leBytes 4 h0 ++ leBytes 4 (unsignedN arrUs 32) ++ leBytes 4 (unsignedN v.ofsNs 32) ++ leBytes 4 (qtyCount l)
    ++ valueBytes l v ++ packNibbles ((List.range (qtyCount l)).map (fun i => r.flags.getD i 0)))

/-- Codes of W5.TAB_STATE. -/
def tabCode : TabState → Nat
  | .filling => 0
  | .revising => 1
  | .closed => 2

/-- W5 bits 15:12. -/
def tabFlags (t : Tableau) : Nat := b2n t.storeErr + 2 * b2n t.shed + 4 * b2n t.stepOpen + 8 * b2n t.finalFold

/-- Configured streams in ascending order. -/
def streamNumbers (s : State) : List Nat := s.cfg.streams.map (fun p => p.1)

/-- The 256-byte tableau header (Table 5.8). -/
def headerBytes (s : State) (t : Tableau) : List Nat :=
  let at0 := tabTime s t.inst
  let bell := fun k => t.bells.getD k 0
  let ws := [t.inst % 2 ^ 32, t.inst / 2 ^ 32, at0 / taiSecUnit % 2 ^ 32, at0 / taiSecUnit / 2 ^ 32,
    at0 / taiNsUnit % 1000000000, tabCode t.st + 2 ^ 8 * t.rev + 2 ^ 12 * tabFlags t, t.classEn,
    (t.bells.foldl max 0) + 2 ^ 16 * t.window, bell 0 + 2 ^ 16 * bell 1, bell 2 + 2 ^ 16 * bell 3,
    bell 4 + 2 ^ 16 * bell 5, bell 6 + 2 ^ 16 * bell 7, s.cfg.streams.length]
  ws.flatMap (leBytes 4) ++ List.replicate 204 0

/-- Table 5.9's word before a record. -/
def recordWord (l : Layout) (n len : Nat) : List Nat :=
  leBytes 8 (n + 2 ^ 16 * l.phasors + 2 ^ 24 * l.analogs + 2 ^ 32 * l.digitals + 2 ^ 48 * len)

/-- What the tableau window delivers (R148). -/
def windowBytes (s : State) (t : Tableau) : List Nat :=
  headerBytes s t ++ (streamNumbers s).flatMap (fun n =>
    let r := recBytes s t n
    recordWord (layoutOf s n) n r.length ++ r)

/-- What the ribbon stores of a tableau (R143): the ribbon header, 64 bytes with the instant, FINAL_REV and the flag bits,
and the records of the selection. -/
def ribbonBytes (s : State) (t : Tableau) : List Nat :=
  pad64 ((([t.inst % 2 ^ 32, t.inst / 2 ^ 32, 2 ^ 8 * t.rev + 2 ^ 12 * tabFlags t]).flatMap (leBytes 4)))
    ++ s.cfg.ribbon.flatMap (fun n => recBytes s t n)

/-! The pair's digest (R426). -/

/-- One byte of the CRC-64 of R426, most significant bit first. -/
def crc64Byte (c b : Nat) : Nat :=
  (List.range 8).foldl (fun x _ =>
    if 2 ^ 63 ≤ x then (2 * x % 2 ^ 64) ^^^ 0x42F0E1EBA9EA3693 else 2 * x) (c ^^^ (b % 256 * 2 ^ 56))

def crc64 (bs : List Nat) : Nat := bs.foldl crc64Byte 0

/-- A quantity's contribution: its big-endian value and its INVALID byte; zeros when ABSENT. -/
def digestQty (t : Tableau) (l : Layout) (n : Nat) (q : Qty) : List Nat :=
  let r := recOf t n
  let f := r.flags.getD (qtyIndex l q) 0
  let ws := qtyWords r.slot q
  let bs := match q with
    | .digital _ => beBytes 2 (ws.getD 0 0#32).toNat
    | _ => ws.flatMap (fun w => beBytes 4 w.toNat)
  if f % 4 = arrABSENT then List.replicate (bs.length + 1) 0 else bs ++ [b2n (f.testBit 2)]

/-- The quantities of a layout in R122's order. -/
def allQty (l : Layout) : List Qty :=
  (List.range l.phasors).map .phasor ++ [.freq, .rocof] ++ (List.range l.analogs).map .analog
    ++ (List.range l.digitals).map .digital

/-- The tableau digest (R426). -/
def tabDigest (s : State) (t : Tableau) : Nat :=
  crc64 ((streamNumbers s).flatMap (fun n =>
    let l := layoutOf s n
    beBytes 2 n ++ (allQty l).flatMap (digestQty t l n)))

end Sys2Proof.Machine
end

