-- ==== Sys2Proof/Machine/RuleOps.lean ====
section
/-!
DEFINITION. Alarm rules as shared operations (R282 to R290): the condition of each kind, hysteresis and persistence, the
decision of Table 11.2, the alarm record and where it goes.
-/

namespace Sys2Proof.Machine

open Sys2Proof

def ruleCfg (s : State) (r : Nat) : Option RuleCfg := (s.cfg.rules.find? (fun p => decide (p.1 = r))).map (fun p => p.2)

def ruleSt (s : State) (r : Nat) : RuleSt := tget {} s.egr.rules r

def setRule (r : Nat) (x : RuleSt) (s : State) : State := { s with egr := { s.egr with rules := tset {} s.egr.rules r x } }

/-- THRESH and HYST in force. -/
def ruleThr (s : State) (r : Nat) (c : RuleCfg) : Word × Word :=
  match (ruleSt s r).stored with
  | some p => p
  | none => (c.thresh, c.hyst)

/-- Nominal frequency in Hz (MST_CFG.NOMINAL). -/
def nominalHz (s : State) : Nat := if rdB s MST_CFG 1 then 60 else 50

/-- n of R285 for a persistence of `p` cyc; counted in extractions for an EM-band class (R286). -/
def persistN (s : State) (em : Bool) (p : Nat) : Nat := divUp (if em then p else p * s.cfg.tabRate) (nominalHz s) + 1

/-! Conditions (R282 to R284). -/

/-- The wrapped angle difference of two phasors in units of 2^-32 turn, within ±180°. -/
def angleDiff (a b : QVal) : Int :=
  signedN ((angleOf (qRe a) (qIm a) + 2 ^ 32 - angleOf (qRe b) (qIm b)) % 2 ^ 32) 32

/-- The inputs of a rule with their quantities' kinds. -/
def ruleInputs (s : State) (t : Tableau) (c : RuleCfg) : List (Qty × QVal) :=
  c.inputs.map (fun q => (q.qty, readQty s t true q))

def inputQ (xs : List (Qty × QVal)) (i : Nat) : Qty × QVal := xs.getD i (.freq, { flags := 0, words := [] })

/-- The value a threshold rule compares, in units of 2^-149: q, the magnitude of the wrapped difference in degrees, or
|a - b|. -/
def comparedValue (kind : Nat) (xs : List (Qty × QVal)) : Int :=
  let a := inputQ xs 0
  let b := inputQ xs 1
  if kind = 2 then ((angleDiff a.2 b.2).natAbs : Int) * 360 * 2 ^ 117
  else if kind = 3 then ((qNumber a.1 a.2 - qNumber b.1 b.2).natAbs : Int)
  else qNumber a.1 a.2

/-- ABOVE, ANGLE_DIFF and DIFF; BELOW; with the hysteresis of R284 while the preceding instant held. -/
def threshHolds (below prev : Bool) (x thr hyst : Int) : Bool :=
  if below then decide (x < (if prev then thr + hyst else thr))
  else decide ((if prev then thr - hyst else thr) < x)

/-- The number of inputs that are not ABSENT and exceed THRESH. -/
def exceeding (xs : List (Qty × QVal)) (thr : Int) : Nat :=
  (xs.filter (fun x => !qAbsent x.2 && decide (thr < qNumber x.1 x.2))).length

/-- An INVALID input makes the condition false under INV_POLICY FALSE. -/
def voided (c : RuleCfg) (xs : List (Qty × QVal)) : Bool :=
  decide (c.invPolicy ≠ 1) && xs.any (fun x => !qAbsent x.2 && qInvalid x.2)

/-- The condition of a rule over its inputs; `prev` is the preceding instant's latest result. -/
def ruleCond (c : RuleCfg) (thr hyst : Word) (prev : Bool) (xs : List (Qty × QVal)) : Bool :=
  if voided c xs then false
  else if c.kind = 4 then decide (hyst.toNat ≤ exceeding xs (f32Val thr))
  else if xs.any (fun x => qAbsent x.2) then false
  else if c.kind = 5 then
    decide (((inputQ xs 0).2.words.getD 0 0#32).toNat &&& field thr 0 16 = field thr 16 16)
  else threshHolds (decide (c.kind = 1)) prev (comparedValue c.kind xs) (f32Val thr) (f32Val hyst)

/-- A NaN. -/
abbrev f32NaN : Word := 0x7FC00000#32

/-- VALUE0 (Table 11.3); none is stated where an input is ABSENT. -/
def ruleValue (c : RuleCfg) (thr : Word) (free : Nat) (xs : List (Qty × QVal)) : Word :=
  if c.kind = 4 then f32OfRat (exceeding xs (f32Val thr)) 1
  else if xs.any (fun x => qAbsent x.2) then Config.classValue free
  else if c.kind = 5 then f32OfRat (((inputQ xs 0).2.words.getD 0 0#32).toNat &&& field thr 0 16 : Nat) 1
  else if c.kind = 2 then f32OfRat (angleDiff (inputQ xs 0).2 (inputQ xs 1).2 * 360) (2 ^ 32)
  else f32Round (comparedValue c.kind xs) 1

/-! Persistence (R285, R286). -/

/-- The latest result of an instant; none: not evaluated. -/
def condAt (x : RuleSt) (i : Nat) : Bool := (tget none x.conds i).getD false

/-- The persisted state of instant `i` from the latest results, its step being `step` instants. -/
def persisted (x : RuleSt) (i step nOn nOff : Nat) : Bool :=
  let at0 := fun k => if step * k ≤ i then condAt x (i - step * k) else false
  if (List.range nOn).all at0 then true
  else if (List.range nOff).all (fun k => !at0 k) then false
  else tget false x.pers (i - step)

/-! Messages (R287, R288). -/

abbrev kRAISE : Nat := 0
abbrev kCONFIRM : Nat := 1
abbrev kAMEND : Nat := 2
abbrev kWITHDRAW : Nat := 3
abbrev kCLEAR : Nat := 4
abbrev kFINAL : Nat := 5

/-- Table 11.2: what is sent, from the last message and the one now called for. A CONFIRM needs a higher tag. -/
def alarmDecision (last : Option LastMsg) (called : Option Nat) (tag : Nat) (vals : List Word) : Option Nat :=
  match last with
  | none => called
  | some l =>
    if l.kind = kWITHDRAW then called
    else if l.kind = kCLEAR then
      if called = some kCLEAR then (if l.tag < tag then some kCONFIRM else none) else some kWITHDRAW
    else if called = some kRAISE then
      if vals = l.vals then (if l.tag < tag then some kCONFIRM else none) else some kAMEND
    else some kWITHDRAW

/-- The words of an alarm record (Table 11.3). -/
def alarmWords (a : AlarmRec) : List Word :=
  [wordOf (a.rule + 2 ^ 12 * a.sev + 2 ^ 16 * a.kind + 2 ^ 19 * a.tag + 2 ^ 23 * b2n a.early + 2 ^ 24 * b2n a.suspect
     + 2 ^ 25 * b2n a.invalidIn + 2 ^ 26 * b2n a.absentIn + 2 ^ 27 * b2n a.heldIn),
   loWord a.sec, wordOf (a.sec / 2 ^ 32 % 2 ^ 16), wordOf a.ns, a.value0, a.value1, wordOf a.alseq,
   wordOf (a.nOn % 2 ^ 12 + 2 ^ 12 * (a.nOff % 2 ^ 12))]

/-- The counter of a kind of message. -/
def kindCounter (k : Nat) : Nat := k + 1

/-- A message is sent: it takes the next ALSEQ, counts, sets its interrupt and goes to the publication and the host
queue. -/
def sendAlarm (r inst : Nat) (c : RuleCfg) (a : AlarmRec) (s : State) : State :=
  let b := { a with alseq := (rd s EGR_ALSEQ).toNat }
  let x := ruleSt s r
  let t := setRule r { x with lastInst := inst, lastKind := b.kind, lastTag := b.tag, messages := (x.messages + 1) % 2 ^ 32 }
    (wr EGR_ALSEQ (rd s EGR_ALSEQ + 1#32) s)
  let u := egrCount (kindCounter b.kind) 1 t
  let v := if b.kind = kRAISE then raise EGR_INT 0 u else if b.kind = kCLEAR then raise EGR_INT 1 u
    else if b.kind = kWITHDRAW then raise EGR_INT 2 u else u
  let w := if c.pubEn then pubNew c.pub (some b) v else v
  if c.hqEn then compose c.hq c.sev 32 true none (.alarm b) w else w

/-- A rule is ACTIVE while its persisted state holds at its newest evaluated instant (R290). -/
def ruleActive (s : State) (r : Nat) : Bool :=
  match (ruleSt s r).newest with
  | some n => tget false (ruleSt s r).pers n
  | none => false

/-- The alarm inputs of capture that map rule `r` follow its state (Table 8.1): a rise is an event at the decision
tick or at the instant's time; what a withdrawal changes is none. -/
def capAlarm (r inst : Nat) (level quiet : Bool) (s : State) : State :=
  forUpTo 32 (fun a t =>
    if rdB s (CAP_AL a) 12 && decide (rdF s (CAP_AL a) 0 12 = r) then
      capChange { src := 64 + a, time := if rdB s (CAP_AL a) 13 && level then tabTime s inst else s.tai, level := level, edge := false,
                  quiet := quiet } t
    else t) s

/-- The record kept as the last message of (rule, instant); a WITHDRAW keeps the last content that was none. -/
def lastAfter (old : Option LastMsg) (a : AlarmRec) (vals : List Word) : LastMsg :=
  { kind := a.kind, tag := a.tag, vals := vals,
    content := if a.kind = kWITHDRAW then (match old with
      | some l => l.content
      | none => none) else some a }

/-- The rule's results and persisted states of old instants are not kept beyond the 4,095 instants that R285 can need. -/
def pruneRule (i step : Nat) (x : RuleSt) : RuleSt :=
  { x with conds := x.conds.filter (fun p => decide (i ≤ p.1 + 8192 * step)),
           pers := x.pers.filter (fun p => decide (i ≤ p.1 + 8192 * step)),
           last := x.last.filter (fun p => decide (i ≤ p.1 + 8192 * step)) }

/-- A result of rule `r` for instant `inst`: the persisted state, the message it calls for and what is sent (R285 to
R288). `a` holds the record's flags and values. -/
def ruleResult (r inst step : Nat) (c : RuleCfg) (cond : Bool) (vals : List Word) (a : AlarmRec) (s : State) : State :=
  let x0 := ruleSt s r
  let x1 := { x0 with conds := tset none x0.conds inst (some cond) }
  let p := persisted x1 inst step a.nOn a.nOff
  let before := tget false x0.pers (inst - step)
  let called := if p && !before then some kRAISE else if before && !p then some kCLEAR else none
  let newest := match x0.newest with
    | some n => max n inst
    | none => inst
  let x2 := pruneRule newest step { x1 with pers := tset false x1.pers inst p, newest := some newest }
  let last := tget none x0.last inst
  let kind := alarmDecision last called a.tag vals
  let t := match kind with
    | none => setRule r x2 s
    | some k =>
      let b := { a with kind := k }
      sendAlarm r inst c b
        (setRule r { x2 with last := tset none x2.last inst (some (lastAfter last { b with alseq := (rd s EGR_ALSEQ).toNat } vals)) } s)
  if ruleActive t r = ruleActive s r then t else capAlarm r inst (ruleActive t r) (decide (kind = some kWITHDRAW)) t

/-- Egress evaluates rule `r` for a tableau with a tag (R138); `early` is an evaluation at a placement. -/
def evalRule (r inst tag : Nat) (early : Bool) (s : State) : State :=
  match ruleCfg s r, tabOf s inst with
  | some c, some t =>
    let xs := ruleInputs s t c
    let th := ruleThr s r c
    let prev := decide (0 < inst) && condAt (ruleSt s r) (inst - 1)
    let any := fun (f : QVal → Bool) => xs.any (fun x => f x.2)
    ruleResult r inst 1 c (ruleCond c th.1 th.2 prev xs) (xs.flatMap (fun x => x.2.words))
      { rule := r, sev := c.sev, kind := 0, tag := tag, early := early, suspect := any qSuspect,
        invalidIn := any (fun q => !qAbsent q && qInvalid q), absentIn := any qAbsent, heldIn := any qHeld,
        sec := tabTime s inst / taiSecUnit, ns := tabTime s inst / taiNsUnit % 1000000000,
        value0 := ruleValue c th.1 s.free xs, value1 := th.1, alseq := 0,
        nOn := persistN s false c.persistOn, nOff := persistN s false c.persistOff }
      (drawFree (egrCount cEVALUATIONS 1 s))
  | _, _ => s

/-- The rules of a class (CLASS kind); `em` selects those that follow the EM band's output instants. -/
def classRules (s : State) (cls : Nat) (em : Bool) : List (Nat × RuleCfg) :=
  s.cfg.rules.filter (fun p => decide (p.2.kind = 6 ∧ p.2.cls = cls ∧ p.2.emBand = em))

/-- The Crow's Nest hands a class's value for an output instant to its rules (R252, R274, R286). -/
def classOutput (cls : Nat) (em : Bool) (inst tag : Nat) (early value suspect : Bool) (s : State) : State :=
  (classRules s cls em).foldl (fun t p =>
    ruleResult p.1 inst (if em then s.cfg.tabRate else 1) p.2 value []
      { rule := p.1, sev := p.2.sev, kind := 0, tag := tag, early := early, suspect := suspect, invalidIn := false,
        absentIn := false, heldIn := false, sec := tabTime s inst / taiSecUnit,
        ns := tabTime s inst / taiNsUnit % 1000000000, value0 := Config.classValue t.free,
        value1 := (ruleThr t p.1 p.2).1, alseq := 0,
        nOn := persistN s em p.2.persistOn, nOff := persistN s em p.2.persistOff }
      (drawFree (egrCount cEVALUATIONS 1 t))) s

/-- FINAL for a FINAL_EN rule that received any message for the closing instant (R289); an EM-band CLASS rule has none. -/
def finalMessage (inst rev : Nat) (s : State) (p : Nat × RuleCfg) : State :=
  let x := ruleSt s p.1
  match tget none x.last inst with
  | none => s
  | some l =>
    let t := if p.2.finalEn && !(decide (p.2.kind = 6) && p.2.emBand) then
        match l.content with
        | some a => sendAlarm p.1 inst p.2
            { a with kind := kFINAL, tag := rev, early := false,
                     value0 := if l.kind = kWITHDRAW then f32NaN else a.value0 } s
        | none => s
      else s
    setRule p.1 { ruleSt t p.1 with last := tset none (ruleSt t p.1).last inst none } t

/-- The close notice reaches the rules. -/
def rulesClose (inst rev : Nat) (s : State) : State := s.cfg.rules.foldl (finalMessage inst rev) s

/-! ACTIVE rules and the ANN pins (R290). -/

def activeRules (s : State) : List (Nat × RuleCfg) := s.cfg.rules.filter (fun p => ruleActive s p.1)

end Sys2Proof.Machine
end

