-- ==== Sys2Proof/Machine/OutOps.lean ====
section
/-!
DEFINITION. C37.118 output streams as shared operations (R297 to R303): the values of each block, the status fields of
Table 11.5, the frame's bytes, and when a frame is sent.
-/

namespace Sys2Proof.Machine

open Sys2Proof

def outCfg (s : State) (k : Nat) : Option OutCfg := (s.cfg.outs.find? (fun p => decide (p.1 = k))).map (fun p => p.2)

def outSt (s : State) (k : Nat) : OutSt := tget {} s.egr.outs k

def setOut (k : Nat) (x : OutSt) (s : State) : State := { s with egr := { s.egr with outs := tset {} s.egr.outs k x } }

/-- N of R299: the tableau rate over the output rate. -/
def outN (s : State) (c : OutCfg) : Nat := s.cfg.tabRate / atLeast 1 c.rate

/-- The output stream forms its values by output filtering (R299). -/
def outFilters (s : State) (c : OutCfg) : Bool := c.filtered && decide (1 < outN s c)

/-- The tableau instants that contribute to the output instant `m`: the instant itself, or those within the reach of
R109's weights. -/
def outSources (s : State) (c : OutCfg) (m : Nat) : List Nat :=
  if outFilters s c then (List.range (2 * filtReach (outN s c) + 1)).map (fun j => (m + j) - filtReach (outN s c)) else [m]

/-! Values (R297, R299). -/

/-- A quantity at an output instant: as it stands, or the weighted mean of the contributors that are neither ABSENT nor
INVALID, ABSENT when less than half the weight is present. -/
def outQty (s : State) (c : OutCfg) (m : Nat) (q : QRef) : QVal :=
  let read := fun (i : Nat) => match tabOf s i with
    | some t => readQty s t false q
    | none => { flags := 0, words := [] }
  if outFilters s c then
    let n := outN s c
    let vs := (outSources s c m).map (fun i => (filtWeight n (if i ≤ m then m - i else i - m), read i))
    let ok := vs.filter (fun p => !qAbsent p.2 && !qInvalid p.2)
    let w := (ok.map (fun p => p.1)).sum
    let here := read m
    if w = 0 ∨ w < n then { flags := 0, words := here.words }
    else
      { flags := (if qAbsent here then arrPRESENT else here.flags % 4) + 8 * b2n (ok.any (fun p => qSuspect p.2)),
        words := match q.qty with
          | .digital _ => here.words
          | _ => (List.range here.words.length).map (fun j => wmean (ok.map (fun p => (p.1, p.2.words.getD j 0#32)))) }
  else read m

/-- A value outside the 16-bit field is a free value. -/
def fixedField (lo hi v : Int) : Nat := if lo ≤ v ∧ v ≤ hi then unsignedN v 16 else Config.fixed16 v % 65536

def signedField (v : Int) : Nat := fixedField (-32768) 32767 v

/-- A number over a divisor, rounded, both in the same units. -/
def ratio (a : Int) (b : Int) : Int := if b = 0 then 0 else if 0 < b then divRoundInt a b.natAbs else -divRoundInt a b.natAbs

/-- An angle of 2^-32 turn, within ±180°. -/
def halfTurn (a : Nat) : Int := signedN a 32

/-- Two pi times an angle in 2^-32 turn: units of 2^-80 / 2^32 radian. -/
def turnRad (a : Nat) : Int := halfTurn a * (2 * (piFix : Int))

/-- The bytes of a phasor in its format (R300). -/
def phasorBytes (b : OutBlock) (unit : Nat) (v : QVal) : List Nat :=
  let bad := qAbsent v || qInvalid v
  let scale : Int := (unit % 2 ^ 24 : Nat)
  if b.phFloat then
    if bad then beBytes 4 f32NaN.toNat ++ beBytes 4 f32NaN.toNat
    else if b.polar then
      beBytes 4 (f32Round (magnitude (qRe v) (qIm v)) 1).toNat
        ++ beBytes 4 (f32OfRat (turnRad (angleOf (qRe v) (qIm v))) (2 ^ 112)).toNat
    else beBytes 4 (v.words.getD 0 0#32).toNat ++ beBytes 4 (v.words.getD 1 0#32).toNat
  else if bad then beBytes 2 0x8000 ++ beBytes 2 0x8000
  else if b.polar then
    beBytes 2 (fixedField 0 65535 (ratio ((magnitude (qRe v) (qIm v) : Int) * 100000) (scale * f32One)))
      ++ beBytes 2 (signedField (ratio (turnRad (angleOf (qRe v) (qIm v)) * 10000) (2 ^ 112)))
  else
    beBytes 2 (signedField (ratio (qRe v * 100000) (scale * f32One)))
      ++ beBytes 2 (signedField (ratio (qIm v * 100000) (scale * f32One)))

/-- The bytes of a number in its format: in fixed point, its offset is taken off and it is multiplied by `mul` and divided
by `div`. -/
def numberBytes (float : Bool) (mul div offset : Int) (v : QVal) : List Nat :=
  let bad := qAbsent v || qInvalid v
  if float then beBytes 4 (if bad then f32NaN else v.words.getD 0 0#32).toNat
  else beBytes 2 (if bad then 0x8000 else signedField (ratio ((qRe v - offset * f32One) * mul) (div * f32One)))

/-- The quantities a block selects. -/
def blockQty (b : OutBlock) : List QRef :=
  b.phasors.map (fun i => ⟨b.stream, .phasor i⟩) ++ [⟨b.stream, .freq⟩, ⟨b.stream, .rocof⟩]
    ++ b.analogs.map (fun i => ⟨b.stream, .analog i⟩) ++ b.digitals.map (fun i => ⟨b.stream, .digital i⟩)

/-! Status fields (Table 11.5). -/

/-- STAT 8:6. -/
def statTq (tq : Nat) : Nat :=
  if tq < 100 then 1 else if tq < 1000 then 2 else if tq < 10000 then 3 else if tq < 100000 then 4
  else if tq < 1000000 then 5 else if tq < 10000000 then 6 else 7

/-- STAT 5:4. -/
def statUnlock (s : State) : Nat :=
  if s.mast.st = .locked ∨ s.mast.holdSec < 10 then 0 else if s.mast.holdSec < 100 then 1
  else if s.mast.holdSec < 1000 then 2 else 3

/-- STAT 10: within 1 min after the activation of a new image. -/
def statNewImage (s : State) : Bool :=
  match s.boot.actTick with
  | some t => decide (s.ticks < t + 15000000000)
  | none => false

def blockStat (s : State) (c : OutCfg) (m : Nat) (b : OutBlock) : Nat :=
  let qs := (blockQty b).map (outQty s c m)
  let bad := qs.any (fun q => qInvalid q || qAbsent q)
  let test := match tabOf s m with
    | some t => (recOf t b.stream).slot.test
    | none => false
  let modified := qs.any (fun q => qHeld q || qLate q) || outFilters s c || (match streamCfg s b.stream with
    | some i => i.filtered
    | none => false)
  2 ^ 14 * (if bad then 1 else if test then 2 else 0)
    + 2 ^ 13 * b2n (timeSuspect s || qs.any qSuspect) + 2 ^ 10 * b2n (statNewImage s) + 2 ^ 9 * b2n modified
    + 2 ^ 6 * statTq (tqReported s) + 2 ^ 4 * statUnlock s

/-- FRACSEC 27:24: the smallest code 1 to 11 whose bound, 10^(code - 1) ns, is at least MST_TQ; 15 when it is unknown. -/
def timeCode (tq : Nat) : Nat :=
  if tq = 0xFFFFFFFF then 15
  else match (List.range 11).find? (fun k => decide (tq ≤ 10 ^ k)) with
  | some k => k + 1
  | none => 15

/-- FRACSEC 31:24 (Table 11.5) at TAI second `sec`. -/
def fracHigh (s : State) (sec : Nat) : Nat :=
  let leap := rdF s MST_UTC_OFS 16 2
  let at0 := (rd s MST_LEAP_AT).toNat
  let pend := decide (leap = 1 ∨ leap = 2) && decide ((at0 + 2 ^ 32 - sec % 2 ^ 32) % 2 ^ 32 ≤ 60)
  let dir := if leap = 1 ∨ leap = 2 then decide (leap = 2) else match s.mast.lastLeap with
    | some (_, ins) => !ins
    | none => false
  let occ := match s.mast.lastLeap with
    | some (t, _) => decide (t ≤ sec ∧ sec < t + 86400)
    | none => false
  16 * b2n pend + 32 * b2n occ + 64 * b2n dir + timeCode (tqReported s)

/-! Frames. -/

/-- CRC-CCITT of C37.118.2 (CHK): polynomial 0x1021, initial value 0xFFFF. -/
def crcCcitt (bs : List Nat) : Nat :=
  bs.foldl (fun c b => (List.range 8).foldl (fun x _ =>
    if 2 ^ 15 ≤ x then (2 * x % 2 ^ 16) ^^^ 0x1021 else 2 * x) (c ^^^ (b % 256 * 2 ^ 8))) 0xFFFF

/-- The revision word (R301). -/
def revWord (rev : Nat) (final resend : Bool) : Nat := rev + 16 * b2n final + 32 * b2n resend

/-- A block's bytes; `extra` are the words appended to its digital words. -/
def outBlockBytes (s : State) (c : OutCfg) (m : Nat) (b : OutBlock) (extra : List Nat) : List Nat :=
  let v := fun (q : Qty) => outQty s c m ⟨b.stream, q⟩
  let fnom : Int := if b.fnom60 then 60 else 50
  beBytes 2 (blockStat s c m b)
    ++ (List.range b.phasors.length).flatMap (fun i =>
        phasorBytes b (b.phUnits.getD i 0) (v (.phasor (b.phasors.getD i 0))))
    ++ numberBytes b.freqFloat 1000 1 fnom (v .freq) ++ numberBytes b.freqFloat 100 1 0 (v .rocof)
    ++ (List.range b.analogs.length).flatMap (fun i =>
        numberBytes b.anFloat 1 (signedN (b.anUnits.getD i 0 % 2 ^ 24) 24) 0 (v (.analog (b.analogs.getD i 0))))
    ++ b.digitals.flatMap (fun i => beBytes 2 ((v (.digital i)).words.getD 0 0#32).toNat)
    ++ extra.flatMap (beBytes 2)

/-- The words appended to block 0: NODE_STATE on a TIER stream (R303), and the revision word outside R0_ONLY (R301). -/
def extraWords (s : State) (c : OutCfg) (rev : Nat) (final resend : Bool) : List Nat :=
  (if c.tier then [nodeWord s] else []) ++ (if c.revMode = 0 then [] else [revWord rev final resend])

/-- The IDCODE of output stream `k`: base + k under the launch profile (Table 0.4). -/
def outIdcode (s : State) (k : Nat) (c : OutCfg) : Nat := if isLaunch s then s.cfg.outBase + k else c.idcode

/-- The frame of an output instant (R297, R300): SYNC, FRAMESIZE, IDCODE, SOC, FRACSEC, the blocks and CHK. -/
def outFrame (s : State) (k : Nat) (c : OutCfg) (m rev : Nat) (final resend : Bool) : List Nat :=
  let at0 := tabTime s m
  let sec := at0 / taiSecUnit
  let frac := (at0 % taiSecUnit) * c.timeBase / taiSecUnit
  let body := (List.range c.blocks.length).flatMap (fun i =>
    match c.blocks[i]? with
    | some b => outBlockBytes s c m b (if i = 0 then extraWords s c rev final resend else [])
    | none => [])
  let head := beBytes 2 0xAA02 ++ beBytes 2 (16 + body.length) ++ beBytes 2 (outIdcode s k c)
    ++ beBytes 4 (utcOfTai s sec % 2 ^ 32) ++ beBytes 4 (2 ^ 24 * fracHigh s sec + frac % 2 ^ 24) ++ body
  head ++ beBytes 2 (crcCcitt head)

/-- The revision that the last frame sent for an output instant carried; none: none was sent. -/
def outRev (x : OutSt) (m : Nat) : Option Nat := (x.sent.find? (fun p => decide (p.1 = m))).map (fun p => p.2)

/-- A frame is composed and queued at item priority 6 (R305); 46 bytes are the Ethernet, IPv4 and UDP headers and the
FCS. -/
def sendOut (k : Nat) (c : OutCfg) (m rev : Nat) (final : Bool) (s : State) : State :=
  let x := outSt s k
  let bs := outFrame s k c m rev final (outRev x m).isSome
  compose c.queue 6 (46 + bs.length) false (some k) (.c37 k bs)
    (setOut k { x with sent := (m, rev) :: x.sent.filter (fun p => decide (p.1 ≠ m)) } s)

/-- The number of a new revision of output instant `m`: the tableau's, or with output filtering, where a revision of
any contributor is one, the next of the instant's own (notes/assumptions/49.md). -/
def outRevOf (s : State) (k : Nat) (c : OutCfg) (m rev : Nat) : Nat :=
  if outFilters s c then min 15 ((outRev (outSt s k) m).getD 0 + 1) else rev

/-- The output instants whose last contributing instant is `inst` (R299). -/
def outReady (s : State) (c : OutCfg) (inst : Nat) : Option Nat :=
  let n := atLeast 1 (outN s c)
  let r := if outFilters s c then filtReach n else 0
  if r ≤ inst ∧ (inst - r) % n = 0 then some (inst - r) else none

/-- The output instants already sent that `inst` contributes to. -/
def outTouched (s : State) (c : OutCfg) (x : OutSt) (inst : Nat) : List Nat :=
  ((x.sent.map (fun p => p.1)).filter (fun m => decide (inst ∈ outSources s c m))).reverse

/-- The streams an output stream reads. -/
def outStreams (c : OutCfg) : List Nat := c.blocks.map (fun b => b.stream)

/-- The read bell of an output stream falls for a tableau (R298). -/
def outSeal (k : Nat) (c : OutCfg) (inst : Nat) (s : State) : State :=
  if !(outSt s k).on then s
  else match outReady s c inst with
    | some m => sendOut k c m (if outFilters s c then 0 else match tabOf s m with
        | some t => t.rev
        | none => 0) false s
    | none => s

/-- A revision that changes a selected stream (R298). -/
def outRevision (k : Nat) (c : OutCfg) (inst rev : Nat) (changed : List Nat) (s : State) : State :=
  if (outSt s k).on && decide (c.revMode ≠ 0) && (outStreams c).any (fun n => decide (n ∈ changed)) then
    (outTouched s c (outSt s k) inst).foldl (fun t m => sendOut k c m (outRevOf t k c m rev) false t) s
  else s

/-- The close notice (R298): under RESEND_FINAL a frame with FINAL when FINAL_REV is above 0; the instant is final. -/
def outClose (k : Nat) (c : OutCfg) (inst rev : Nat) (s : State) : State :=
  match outReady s c inst with
  | none => s
  | some m =>
    let n := if outFilters s c then (outRev (outSt s k) m).getD 0 else rev
    let t := if (outSt s k).on && decide (c.revMode = 2 ∧ 0 < n) && (outRev (outSt s k) m).isSome then sendOut k c m n true s else s
    setOut k { outSt t k with sent := (outSt t k).sent.filter (fun p => decide (p.1 ≠ m)) } t

end Sys2Proof.Machine
end

