-- ==== Sys2Proof/Machine/RibOps.lean ====
section
/-!
DEFINITION. The archive ribbon and the end of a bulk transfer as shared operations (R144, R145, R149, R304), and data
windows that more blocks are still to reach.
-/

namespace Sys2Proof.Machine

open Sys2Proof

/-! Market counters (MKT_CNT). -/

def mktCount (k n : Nat) (s : State) : State := count (MKT_CNT (2 * k)) n s

abbrev cTABLEAUS_OPENED : Nat := 0
abbrev cREV0_COMPLETE : Nat := 1
abbrev cREVISIONS_ISSUED : Nat := 2
abbrev cFINAL_FOLDS : Nat := 3
abbrev cPLACEMENTS : Nat := 4
abbrev cLATE_PLACEMENTS : Nat := 5
abbrev cEARLY_EVALS : Nat := 6
abbrev cBELL_EVALS : Nat := 7
abbrev cREVISION_EVALS : Nat := 8
abbrev cHELD_FILLS : Nat := 9
abbrev cABSENT_AT_CLOSE : Nat := 10
abbrev cORDER_HOLDS : Nat := 11
abbrev cRIB_GAPS : Nat := 12
abbrev cTAB_ERRORS : Nat := 13
abbrev cSHED_CLOSES : Nat := 14
abbrev cSTEP_OPENS : Nat := 15

/-! Bulk transfers end (R304). -/

/-- Codes of EGR_XF_STAT.RESULT. -/
abbrev xfOK : Nat := 0
abbrev xfNOT_FOUND : Nat := 1
abbrev xfOVERRUN : Nat := 2
abbrev xfABORTED : Nat := 3

/-- The job ends: BUSY clears, RESULT is written and XF_DONE is set. -/
def xfEnd (result : Nat) (s : State) : State :=
  raise EGR_INT 6 (wrF EGR_XF_STAT 0 4 (2 * result) { s with egr := { s.egr with xf := none } })

/-- The first instants of the ribbon blocks that a job has not yet sent whole. -/
def xfUnsent (x : XfJob) : List Nat := (x.blocks.filter (fun b => decide (x.ofs < b.2))).map (fun b => b.1)

/-! The ribbon window (R149). -/

/-- The blocks of an opening not yet delivered whole, by first instant, while `left` words remain; `bs` gives each block's
length in bytes, in order. -/
def ribUndelivered : Nat → List (Nat × Nat) → List Nat
  | _, [] => []
  | left, b :: bs =>
    if left ≤ ((bs.map (fun x => x.2)).sum) / 8 then ribUndelivered left bs
    else b.1 :: bs.map (fun x => x.1)

/-- A block is overwritten: a read of it ends with OVERRUN, and so does a transfer that has still to send it. -/
def ribOverwrite (first : Nat) (s : State) : State :=
  let t := if winBusy s .ribbon ∧ first ∈ ribUndelivered (window s (winIdx .ribbon)).words.length s.mkt.ribRead then
      setStat MKT_RIB_RSTAT 2 true (endWindow .ribbon whyOVERRUN s)
    else s
  match t.egr.xf with
  | some x => if x.typ = 1 ∧ first ∈ xfUnsent x then xfEnd xfOVERRUN t else t
  | none => t

/-! Blocks (R144). -/

/-- The bytes the ribbon's blocks occupy. -/
def ribSize (bs : List RibBlock) : Nat := (bs.map (fun b => b.bytes.length)).sum

/-- The blocks that a ribbon of `cap` bytes no longer holds, oldest first. -/
def ribDropped (cap : Nat) : List RibBlock → List RibBlock
  | [] => []
  | b :: bs => if cap < ribSize (b :: bs) then b :: ribDropped cap bs else []

/-- The span from the oldest to the newest stored instant in ms. -/
def ribSpanMs (s : State) : Nat :=
  match s.mkt.blocks.head?, s.mkt.blocks.getLast? with
  | some a, some b => (b.last - a.first) * 1000 / atLeast 1 s.cfg.tabRate
  | _, _ => 0

/-- MKT_RIB_SPAN and MKT_RIB_OLD follow the stored blocks; RIB_SHORT while the span is below the target (R144). -/
def ribReport (s : State) : State :=
  let old := match s.mkt.blocks.head? with
    | some b => b.first
    | none => 0
  let t := wr64 MKT_RIB_OLD_LO old (wr MKT_RIB_SPAN (wordOf (ribSpanMs s)) s)
  if ribSpanMs s < rdF s MKT_RIB_CFG 24 8 * 60000 then raise MKT_INT 6 t else t

/-- A block is written into the circular area, over the oldest blocks. -/
def ribPut (b : RibBlock) (s : State) : State :=
  let all := s.mkt.blocks ++ [b]
  let gone := ribDropped (rdF s MKT_RIB_CFG 0 16 * 2 ^ 20) all
  let t := { s with mkt := { s.mkt with blocks := all.drop gone.length } }
  ribReport (gone.foldl (fun u x => ribOverwrite x.first u) t)

/-- MKT_RIB_CFG.BLOCK, 0 acting as 1. -/
def ribBlockLen (s : State) : Nat := atLeast 1 (rdF s MKT_RIB_CFG 16 8)

/-- Tableaus are left out of the ribbon (R145). -/
def ribMiss (n : Nat) (s : State) : State :=
  raise MKT_INT 5 (mktCount cRIB_GAPS n { s with mkt := { s.mkt with ribGap := s.mkt.ribGap + n } })

/-- The ribbon takes one tableau that waits, while its next block has room (notes/assumptions/44.md). -/
def ribTakeOne (s : State) : State :=
  match s.mkt.ribWait with
  | [] => s
  | i :: r =>
    if ribBlockLen s ≤ s.mkt.ribAcc.length then s
    else
      let bytes := match tabOf s i with
        | some t => ribbonBytes s t
        | none => []
      { s with mkt := { s.mkt with
          ribWait := r, ribAcc := s.mkt.ribAcc ++ [(i, bytes)],
          ribInfo := if s.mkt.ribAcc = [] then s.mkt.ribGap else s.mkt.ribInfo,
          ribGap := if s.mkt.ribAcc = [] then 0 else s.mkt.ribGap } }

/-- The ribbon takes the tableaus that wait, oldest first. -/
def ribTake (s : State) : State := forUpTo s.mkt.ribWait.length (fun _ t => ribTakeOne t) s

/-- The tableaus that wait for the ribbon are lost to it. -/
def ribLose (s : State) : State :=
  if s.mkt.ribWait = [] then s
  else ribMiss s.mkt.ribWait.length { s with mkt := { s.mkt with ribWait := [] } }

/-- The stored blocks from the one that holds an instant to the newest. -/
def ribFrom (s : State) (inst : Nat) : List RibBlock :=
  if s.mkt.blocks.any (fun b => decide (b.first ≤ inst ∧ inst ≤ b.last)) then
    s.mkt.blocks.filter (fun b => decide (inst ≤ b.last))
  else []

/-! Windows that packed blocks still reach. -/

/-- Start an opening whose words come block by block. -/
def openMore (w : Win) (s : State) : State :=
  setWindow (winIdx w)
    { words := [], openSeq := ((window s (winIdx w)).openSeq + 1) % 2 ^ 16, ended := false, why := 0, more := true } s

/-- A block's bytes reach an opening; `last` is its last block. -/
def feedWindow (w : Nat) (bs : List Nat) (last : Bool) (s : State) : State :=
  let x := window s w
  if x.ended then s
  else setWindow w { x with words := x.words ++ packWords bs.length bs, pad := padOf bs.length, more := !last } s

end Sys2Proof.Machine
end

