-- ==== Sys2Proof/Machine/PackOps.lean ====
section
/-!
DEFINITION. The Packer's shared operations (R319 to R325): the work of its channels, the end of a job and of a block, and the
failure of R324.
-/

namespace Sys2Proof.Machine

open Sys2Proof

/-- Count in PAK_CNT. -/
def pakCount (k n : Nat) (s : State) : State := count (PAK_CNT (2 * k)) n s

abbrev cBLOCKS_PACKED : Nat := 0
abbrev cBYTES_IN : Nat := 3
abbrev cBYTES_OUT : Nat := 4
abbrev cJOBS_FAILED : Nat := 5
abbrev cFLUSHES : Nat := 6
abbrev cBLOCKS_UNPACKED : Nat := 7

/-! The egress and Packer buffer region. -/

def regionByte (s : State) (a : Nat) : Nat := tget 0 s.pak.mem (a % 2 ^ 26)

/-- `n` bytes of the region. -/
def regionRead (s : State) (a n : Nat) : List Nat := (List.range n).map (fun k => regionByte s (a + k))

/-- Store bytes from offset `a`. -/
def regionWrite : Nat → List Nat → NMap Nat → NMap Nat
  | _, [], m => m
  | a, b :: bs, m => regionWrite (a + 1) bs (tset 0 m (a % 2 ^ 26) (b % 256))

/-! Work (R319, R320). -/

def setPak (f : Packer → Packer) (s : State) : State := { s with pak := f s.pak }

def work (s : State) (c : Nat) : List PakBlock := tget [] s.pak.work c

def setWork (c : Nat) (l : List PakBlock) (s : State) : State :=
  setPak (fun p => { p with work := tset [] p.work c l }) s

/-- The largest ORIG_LEN (Table 12.1). -/
abbrev blockMost : Nat := 67108864

/-- A section cut where its block reaches 64 MiB; a flush ends its last block, unless the length ends it there (Table
12.2). -/
def cutSection (bs : List Nat) : List (List Nat × Bool) :=
  (List.range (divUp bs.length blockMost)).map (fun i =>
    let part := (bs.drop (i * blockMost)).take blockMost
    (part, decide (part.length < blockMost)))

/-- The blocks of an export (R319): its sections, each ending by a flush; `w` is the window they go to. -/
def exportBlocks (chan src w : Nat) (sections : List (List Nat)) : List PakBlock :=
  let parts := sections.flatMap cutSection
  (List.range parts.length).map (fun i =>
    { chan := chan, src := src, bytes := (parts.getD i ([], true)).1, last := decide (i + 1 = parts.length),
      flushed := (parts.getD i ([], true)).2, seq := i, window := w })

/-- The ribbon's next block, once it has taken BLOCK tableaus. -/
def ribbonWork (s : State) : Option PakBlock :=
  let l := s.mkt.ribAcc
  if l.length < ribBlockLen s then none
  else some { chan := 0, src := 1, info := s.mkt.ribInfo, seq := s.mkt.ribSeq, first := (l.headD (0, [])).1,
              final := (l.getLastD (0, [])).1, bytes := l.flatMap (fun p => p.2) }

/-- The channel-3 job's next block. -/
def jobWork (j : PakJob) : PakBlock :=
  let rest := j.input.drop j.pos
  if j.op = 1 then { chan := 3, src := 0, bytes := rest, unpack := true, seq := j.seq }
  else { chan := 3, src := 0, bytes := rest.take j.block, last := decide (rest.length ≤ j.block),
         rawReq := decide (j.op = 2), seq := j.seq }

/-- The block the idle engine takes: of the lowest-numbered channel with work, and the state without it. -/
def takeBlock (s : State) : Option (PakBlock × State) :=
  match ribbonWork s with
  | some b => some (b, ribTake { s with mkt := { s.mkt with ribAcc := [], ribInfo := 0, ribSeq := s.mkt.ribSeq + 1 } })
  | none =>
    match work s 1, work s 2, s.pak.job with
    | b :: r, _, _ => some (b, setWork 1 r s)
    | [], b :: r, _ => some (b, setWork 2 r s)
    | [], [], some j => some (jobWork j, s)
    | [], [], none => none

/-! Jobs (R321, R322). -/

/-- PAK_J_STAT: BUSY and RESULT. -/
def jobStat (busy : Bool) (result : Nat) (s : State) : State := wr PAK_J_STAT (wordOf (b2n busy + 2 * result)) s

/-- A channel-3 job starts: `input` was placed at PAK_J_SRC. A job without input ends at once. -/
def jobStart (op blockKib : Nat) (input : List Nat) (s : State) : State :=
  if s.pak.job.isSome then s
  else
    let src := (rd s PAK_J_SRC).toNat
    let t := setPak (fun p => { p with mem := regionWrite src input p.mem }) s
    let len := (rd s PAK_J_LEN).toNat
    let u := wr PAK_J_OUT_LEN 0#32 (wr PAK_J_IN_DONE 0#32 t)
    if len = 0 then raise PAK_INT 0 (jobStat false pakOK u)
    else
      let j : PakJob :=
        { op := op, input := regionRead t src len, dst := (rd s PAK_J_DST).toNat, dlen := (rd s PAK_J_DLEN).toNat,
          block := atLeast 4 blockKib * 1024 }
      jobStat true 0 (setPak (fun p => { p with job := some j }) u)

/-- The engine drops a block of channel `c`. -/
def dropEngine (c : Nat) (s : State) : State :=
  match s.pak.engine with
  | some b => if b.chan = c then setPak (fun p => { p with engine := none }) s else s
  | none => s

/-- R322: the whole job fails; nothing of it is kept. -/
def jobFail (result : Nat) (s : State) : State :=
  if s.pak.job.isNone then s
  else
    raise PAK_INT 1 (pakCount cJOBS_FAILED 1 (jobStat false result (wr PAK_J_OUT_LEN 0#32 (wr PAK_J_IN_DONE 0#32
      (dropEngine 3 (setPak (fun p => { p with job := none }) s))))))

/-- The job goes on with its output so far, or ends OK when the input is consumed (R321 step 3). -/
def jobNext (j : PakJob) (s : State) : State :=
  if j.dlen < j.out.length then jobFail pakOUTPUT_FULL s
  else if j.pos < j.input.length then setPak (fun p => { p with job := some j }) s
  else
    raise PAK_INT 0 (jobStat false pakOK (wr PAK_J_OUT_LEN (wordOf j.out.length) (wr PAK_J_IN_DONE (wordOf j.pos)
      (setPak (fun p => { p with job := none, mem := regionWrite j.dst j.out p.mem }) s))))

/-- A written block counts by its type, with its bytes in and out and its flush. -/
def countBlock (b : PakBlock) (out : List Nat) (s : State) : State :=
  let typ := blockType b.rawReq b.shed b.bytes
  let t := if typ = typeRAW_REQ then s else pakCount (cBLOCKS_PACKED + typ) 1 s
  let u := pakCount cBYTES_OUT out.length (pakCount cBYTES_IN b.bytes.length t)
  if b.flushed then pakCount cFLUSHES 1 u else u

/-- The engine's block is complete (R316, R319, R323). -/
def finishBlock (b : PakBlock) (s : State) : State :=
  let s0 := setPak (fun p => { p with engine := none }) s
  if b.unpack then
    match s0.pak.job with
    | none => s0
    | some j =>
      let r := unpackBlock b.bytes
      if r.1 = typePACKED ∧ b.shed then jobFail pakSHED s0
      else if r.2.2.2 ≠ pakOK then jobFail r.2.2.2 s0
      else
        jobNext { j with pos := j.pos + r.2.1, out := j.out ++ r.2.2.1, seq := j.seq + 1 }
          (pakCount cBYTES_OUT r.2.2.1.length (pakCount cBYTES_IN r.2.1 (pakCount cBLOCKS_UNPACKED 1 s0)))
  else
    let out := packBlock b.src b.rawReq b.shed b.flushed b.last b.seq b.info b.bytes
    let t := countBlock b out s0
    if b.chan = 0 then ribPut { first := b.first, last := b.final, gap := b.info, bytes := out } t
    else if b.chan = 3 then
      match t.pak.job with
      | none => t
      | some j => jobNext { j with pos := j.pos + b.bytes.length, out := j.out ++ out, seq := j.seq + 1 } t
    else feedWindow b.window out b.last t

/-- R324: an uncorrectable error in a block's or a job's memory, by channel; a Ledger export ends with PACK_FAIL (R381). -/
def pakMemErr (c : Nat) (s : State) : State :=
  if c = 3 then jobFail pakMEM_ERR s
  else if c = 0 then
    match s.pak.engine with
    | some b => if b.chan = 0 then
        raise PAK_INT 1 (pakCount cJOBS_FAILED 1 (ribMiss (b.final + 1 - b.first) (dropEngine 0 s))) else s
    | none => s
  else
    raise PAK_INT 1 (pakCount cJOBS_FAILED 1
      (endWindow (if c = 1 then .capture else .ledger) whyERROR (setWork c [] (dropEngine c
        (if c = 2 then wr LDG_RD_STAT 4#32 s else s)))))

end Sys2Proof.Machine
end

