-- ==== Sys2Proof/Machine/PairOps.lean ====
section
/-!
DEFINITION. The pair as shared operations (R417 to R437): Shroud frames and their credits, the digests and their comparison,
the roles, the lease and the messages to a Clerk.
-/

namespace Sys2Proof.Machine

open Sys2Proof

/-! Counters and configuration. -/

/-- Counter `k` of SHR_CNT. -/
def shrCount (k n : Nat) (s : State) : State := count (SHR_CNT (2 * k)) n s

/-- SHR_CFG.MODE is PAIR. -/
def isPair (s : State) : Bool := decide (rdF s SHR_CFG 0 2 = 1)

/-- SHR_CFG.NODE_ID and PAIR_ID. -/
def nodeId (s : State) : Nat := rdF s SHR_CFG 2 1
def pairId (s : State) : Nat := rdF s SHR_CFG 16 16

def setPair (f : Pair → Pair) (s : State) : State := { s with pair := f s.pair }

/-- READY: resynchronised and not DIVERGED. -/
def pairReady (s : State) : Bool := s.pair.resynced && !s.pair.diverged

/-! Shroud frames (R422, R423). -/

abbrev shHEARTBEAT : Nat := 1
abbrev shDIGEST : Nat := 2
abbrev shLEDGER : Nat := 3
abbrev shENERGY : Nat := 4
abbrev shHEALTH : Nat := 5
abbrev shRESYNC_REQ : Nat := 6
abbrev shRESYNC_DATA : Nat := 7
abbrev shCREDIT : Nat := 8
abbrev shLINK_INIT : Nat := 9

def shroud (s : State) (l : Nat) : Shroud := tget {} s.pair.links l

def setShroud (l : Nat) (x : Shroud) (s : State) : State :=
  setPair (fun p => { p with links := tset {} p.links l x }) s

/-- The words of a Shroud frame: Table 17.2's header and the payload. -/
def shroudFrame (s : State) (l typ credits : Nat) (ws : List Word) : List Word :=
  let w0 := wordOf (1 + 2 ^ 8 * typ + 2 ^ 16 * pairId s)
  let w1 := wordOf (nodeId s + 2 * l + 2 ^ 8 * credits + 2 ^ 16 * (4 * ws.length % 2 ^ 16))
  let w2 := wordOf (shroud s l).seq
  w0 :: w1 :: w2 :: crcWords (w0 :: w1 :: w2 :: ws) :: ws

/-- The credits a frame of `n` payload bytes takes. -/
def creditsOf (n : Nat) : Nat := divUp (16 + n) 64

/-- A frame leaves on a link, with the credits owed, at most 255. -/
def shroudOut (l typ : Nat) (ws : List Word) (s : State) : State :=
  let x := shroud s l
  let c := min 255 x.owed
  emit (.shroud l (shroudFrame s l typ c ws)) (setShroud l
    { x with credits := x.credits - creditsOf (4 * ws.length), owed := x.owed - c, seq := (x.seq + 1) % 2 ^ 32 } s)

/-- A frame may leave now: 8 credits are kept for HEARTBEAT and CREDIT frames, which never wait. -/
def shroudMay (x : Shroud) (typ n : Nat) : Bool :=
  decide (typ = shHEARTBEAT ∨ typ = shCREDIT ∨ typ = shLINK_INIT) || decide (creditsOf n + 8 ≤ x.credits)

/-- A frame is sent on a link, or waits there for credits behind those that wait already. -/
def shroudSend (l typ : Nat) (ws : List Word) (s : State) : State :=
  let x := shroud s l
  if !x.up then s
  else if shroudMay x typ (4 * ws.length) && (decide (x.waits = []) || decide (typ = shHEARTBEAT ∨ typ = shCREDIT ∨ typ = shLINK_INIT))
  then shroudOut l typ ws s
  else setShroud l { x with waits := x.waits ++ [(typ, ws)] } s

/-- Waiting frames leave in order while the credits suffice. -/
def drainWaits (l : Nat) : List (Nat × List Word) → State → State
  | [], s => s
  | w :: r, s =>
    if shroudMay (shroud s l) w.1 (4 * w.2.length) then
      drainWaits l r (shroudOut l w.1 w.2 (setShroud l { shroud s l with waits := r } s))
    else s

/-- Credits come back: the frames that waited leave. -/
def creditsBack (l n : Nat) (s : State) : State :=
  let x := shroud s l
  let t := setShroud l { x with credits := min 256 (x.credits + n) } s
  drainWaits l x.waits t

/-- The link of bulk traffic (types 2 to 7): S0 while it is up, S1 otherwise (R423). -/
def bulkLink (s : State) : Nat := if (shroud s 0).up then 0 else 1

def bulkSend (typ : Nat) (ws : List Word) (s : State) : State := shroudSend (bulkLink s) typ ws s

/-! Digests (R426, R427). -/

/-- Ledger records of Table 17.8. -/
def pairRecord (code sev : Nat) (key : Nat) (data : List Word) (s : State) : State :=
  logEvent srcSHR code sev (wordOf key) data s

/-- DIG_LIMIT; 0 acts as 1. -/
def digLimit (s : State) : Nat := atLeast 1 (rdF s SHR_CFG2 16 8)

/-- A comparison ends: 0 a match, 1 a mismatch, 2 uncompared; DIVERGED follows (R427). -/
def digOutcome (m : Nat) (s : State) : State :=
  let marks := lastN 256 (s.pair.marks ++ [m])
  let run := if m = 0 then s.pair.matchRun + 1 else if m = 1 then 0 else s.pair.matchRun
  let bad := decide (digLimit s ≤ marks.count 1)
  let t := setPair (fun p => { p with
    marks := marks, matchRun := run,
    diverged := if p.diverged then decide (run < 256) else bad }) s
  let u := if m = 0 then shrCount 3 1 t else if m = 1 then shrCount 4 1 (shrCount 3 1 t) else shrCount 5 1 t
  if !s.pair.diverged && bad then raise SHR_INT 7 (pairRecord 5 5 0 [] u) else u

/-- A digest that has waited 2 s since its close counts as uncompared. -/
def digLate (s : State) (d : Nat × Nat × Nat) : Bool := decide (d.2.2 + 500000000 ≤ s.ticks)

/-- The two digests of an instant are compared once both are known; one that comes 2 s after the close or later is not. -/
def digCompare (inst : Nat) (s : State) : State :=
  match s.pair.own.find? (fun d => decide (d.1 = inst)), s.pair.theirs.find? (fun d => decide (d.1 = inst)) with
  | some a, some b =>
    digOutcome (if digLate s a then 2 else if a.2.1 = b.2 then 0 else 1) (setPair (fun p => { p with
      own := p.own.filter (fun d => decide (d.1 ≠ inst)), theirs := p.theirs.filter (fun d => decide (d.1 ≠ inst)) }) s)
  | _, _ => s

/-- The words of a digest entry (Table 17.9). -/
def digWords (e : Nat × Nat × Nat) : List Word :=
  [loWord e.1, hiWord e.1, wordOf (e.2.1 % 16), 0#32, loWord e.2.2, hiWord e.2.2]

/-- The DIGEST frame in preparation leaves. -/
def digSend (s : State) : State :=
  if s.pair.digests = [] then s
  else bulkSend shDIGEST (s.pair.digests.flatMap digWords) (setPair (fun p => { p with digests := [] }) s)

/-- The close notice of a tableau reaches the pair (R426). -/
def digestClose (inst rev : Nat) (s : State) : State :=
  if !isPair s then s
  else
    match tabOf s inst with
    | none => s
    | some tab =>
      let d := tabDigest s tab
      let t := digCompare inst (setPair (fun p => { p with
        closed := inst, own := p.own ++ [(inst, d, s.ticks)], digests := p.digests ++ [(inst, rev, d)],
        digAt := if p.digests = [] then s.ticks else p.digAt }) s)
      if 32 ≤ t.pair.digests.length then digSend t else t

end Sys2Proof.Machine
end

