-- ==== Sys2Proof/Machine/EnergyOps.lean ====
section
/-!
DEFINITION. Metering as shared operations (R179 to R198): the samples and moving means of a point, accumulators and direction,
intervals and their records, saves, gaps and the supply-side checks. Values are exact: samples in units of 2^-91 of full
scale, products in 2^-182; the roundings that remain are the model's (notes/assumptions/8.md).
-/

namespace Sys2Proof.Machine

open Sys2Proof

/-! The cycle clock at a tag. -/

/-- The cycle clock's position at TAI time `t` in 2^-64 turn, its cycles counted without a wrap: its present position
less its frequency times the time since. -/
def cyclePos (s : State) (t : Nat) : Int :=
  let d : Int := (s.tai : Int) - (t : Int)
  (((s.mast.cyc.era * 2 ^ 32 + s.mast.cyc.count) * 2 ^ 64 + s.mast.cyc.angle : Nat) : Int)
    - (s.mast.cyc.freq : Int) * d * 2 ^ 64 / ((1000000000 * taiSecUnit : Nat) : Int)

/-- The turn in which it stands there. -/
def cycleTurn (s : State) (t : Nat) : Nat := (cyclePos s t / 2 ^ 64).toNat

/-- The samples in the latest whole cycle, from the turns of the samples, newest first (R182); 0: none is whole. -/
def wholeN (turns : List Nat) : Nat :=
  match turns with
  | [] => 0
  | t :: _ => if turns.any (fun x => decide (x + 1 < t)) then turns.count (t - 1) else 0

/-! Points (R179, R180). -/

def meter (s : State) (k : Nat) : Meter := tget {} s.scales.en.points k

def setScales (f : Scales → Scales) (s : State) : State := { s with scales := f s.scales }

def setEnergy (f : Energy → Energy) (s : State) : State := setScales (fun x => { x with en := f x.en }) s

def setMeter (k : Nat) (x : Meter) (s : State) : State :=
  setEnergy (fun e => { e with points := tset {} e.points k x }) s

/-- Update the part of a point that a save holds. -/
def setInfo (k : Nat) (f : EnPoint → EnPoint) (s : State) : State :=
  setMeter k { meter s k with info := f (meter s k).info } s

def ptWiring (s : State) (k : Nat) : Nat := rdF s (PT_CFG k) 0 2

/-- The points SCL_EN_CFG enables. -/
def enabledPoints (s : State) : List Nat := (List.range 8).filter (fun k => rdB s SCL_EN_CFG k)

/-- Voltage and current elements of a wiring: 3P4W, 3P3W, 1P2W. -/
def elements (w : Nat) : Nat := if w = 0 then 3 else if w = 1 then 2 else 1

def metering (s : State) : Bool := rdB s SCL_EN_STATUS 0

def enReefed (s : State) : Bool := rdB s SCL_EN_STATUS 1

/-- K in units of 2^-298 W per unit product (R180). -/
def scaleK (s : State) (k : Nat) : Int := f32Val (rd s (PT_VFS k)) * f32Val (rd s (PT_IFS k))

/-! Moving means (R181, R182). -/

/-- The sum of the products of two lists. -/
def dot : List Int → List Int → Int
  | x :: xs, y :: ys => x * y + dot xs ys
  | _, _ => 0

/-- The sum of the squares of element `j` over samples. -/
def sqSum (f : MetSample → List Int) (j : Nat) (xs : List MetSample) : Nat :=
  (xs.map (fun x => ((f x).getD j 0).natAbs * ((f x).getD j 0).natAbs)).sum

/-- n times P_k, Q_k and S_k over the window, in products of full scales (2^-182). -/
structure MeanSum where
  n : Nat
  p : Int
  q : Int
  sap : Nat
  deriving DecidableEq, Repr

/-- The sums of the latest n samples. -/
def meanSum (w n : Nat) (hist : List MetSample) : MeanSum :=
  let xs := hist.take n
  let p := (xs.map (fun x => x.p)).sum
  let q := (xs.map (fun x => x.q)).sum
  { n := n, p := p, q := q,
    sap := if w = 1 then magnitude p q
      else ((List.range (elements w)).map (fun j => isqrt (sqSum MetSample.vs j xs * sqSum MetSample.cs j xs))).sum }

/-- The creep threshold as n times the product it stands for: K x sum >= C x n. -/
def atCreep (s : State) (k n : Nat) (x : Int) : Bool := decide (f32Val (rd s (PT_CREEP k)) * (n : Int) * 2 ^ 331 ≤ scaleK s k * x)

/-- The contribution of a sum of n products to an accumulator, in units of 2^-48 Wh (R183, R185), at the rate `fo`. -/
def contribution (s : State) (k n fo : Nat) (x : Int) : Nat :=
  (scaleK s k * x / ((n * 3600 * atLeast 1 fo * 2 ^ 432 : Nat) : Int)).toNat

/-! Direction and accumulators (R183 to R185). -/

/-- DIR after a mean (R184); true: export. -/
def newDir (s : State) (k : Nat) (m : MeanSum) (old : Option Bool) : Bool :=
  if atCreep s k m.n m.p then false else if atCreep s k m.n (-m.p) then true else old.getD false

/-- The accumulators of Table 7.1 that take a mean, with the sum each takes. -/
def takers (s : State) (k : Nat) (m : MeanSum) (dir : Bool) : List (Nat × Int) :=
  let sap : Int := m.sap
  [(0, m.p, atCreep s k m.n m.p), (1, -m.p, atCreep s k m.n (-m.p)),
   (2, sap, atCreep s k m.n sap && !dir), (3, sap, atCreep s k m.n sap && dir),
   (4, m.q, atCreep s k m.n m.q && !dir && decide (0 < m.q)), (5, m.q, atCreep s k m.n m.q && dir && decide (0 < m.q)),
   (6, -m.q, atCreep s k m.n (-m.q) && dir && decide (m.q < 0)),
   (7, -m.q, atCreep s k m.n (-m.q) && !dir && decide (m.q < 0))].filterMap
    (fun t => if t.2.2 then some (t.1, t.2.1) else none)

/-- Eight accumulators. -/
def acc8 (l : List Nat) : List Nat := (List.range 8).map (fun j => l.getD j 0)

/-- An accumulator takes a contribution; it wraps at 96 bits. -/
def addAcc (acc : List Nat) (j d : Nat) : List Nat := listSet (acc8 acc) j ((acc.getD j 0 + d) % 2 ^ 96)

/-- The visible 64 bits. -/
def visible (a : Nat) : Nat := a / 2 ^ 32

/-! Interval flags (W5 of Table 7.3). -/

abbrev fPARTIAL : Nat := 0
abbrev fGAP : Nat := 1
abbrev fFCAL : Nat := 2
abbrev fSUSPECT : Nat := 3
abbrev fCYC : Nat := 4
abbrev fUCAL : Nat := 5
abbrev fREEFED : Nat := 6
abbrev fINVALID : Nat := 7
abbrev fSTEP : Nat := 8
abbrev fRESTORED : Nat := 9

def flagIf (b : Bool) (k f : Nat) : Nat := if b then f ||| 2 ^ k else f

def ivFlag (b : Bool) (k : Nat) (x : Interval) : Interval := { x with flags := flagIf b k x.flags }

/-- FCAL_BAD (R167). -/
def fcalBad (s : State) : Bool := rdB s SCL_FCAL_STAT 1

/-- SCL_EN_CFG.INT_LEN in seconds; the values above 5 act as 5. -/
def intervalSec (s : State) : Nat :=
  match rdF s SCL_EN_CFG 8 3 with
  | 0 => 60
  | 1 => 300
  | 2 => 600
  | 3 => 900
  | 4 => 1800
  | _ => 3600

/-- The number of the UTC boundary at or before a TAI second (R186). -/
def utcBound (s : State) (sec : Nat) : Nat := utcOfTai s sec / intervalSec s

/-! Interval records (R187 to R190). -/

/-- A tag as seconds and nanoseconds. -/
def tagSec (t : Nat) : Nat := t / taiSecUnit
def tagNs (t : Nat) : Nat := t / taiNsUnit % 1000000000

/-- A count in µs between two tags, 0 when the second is not later. -/
def tagUs (a b : Nat) : Nat := (b - a) / (1000 * taiNsUnit)

/-- W0 to W31. -/
def intervalWords (s : State) (k seq wrap cycles : Nat) (x : Interval) (acc : List Nat) : List Word :=
  let st := x.start.getD wrap
  let ws := [loWord (tagSec st),
     wordOf (tagSec st / 2 ^ 32 % 2 ^ 16 + 2 ^ 16 * k + 2 ^ 19 * rdF s SCL_EN_CFG 8 3), wordOf (tagNs st),
     wordOf (tagUs st wrap), wordOf seq, wordOf x.flags, wordOf (min x.rev 65535), wordOf cycles]
    ++ (List.range 8).flatMap (fun j =>
      let d := (visible (acc.getD j 0) + 2 ^ 64 - visible (x.base.getD j 0)) % 2 ^ 64
      [loWord d, hiWord d])
    ++ [wordOf (min (x.vMin.getD 0) 65535 + 2 ^ 16 * min x.vMax 65535),
        wordOf (x.checks % 64 + 2 ^ 16 * min x.invCyc 65535), wordOf x.gapMs]
  ws ++ [crcWords ws, 0#32, 0#32, 0#32, 0#32]

/-- The Ledger keeps 36,864 records; overwriting one never delivered sets ENERGY_OVW (R359). A failed Ledger keeps none. -/
def keepInterval (ws : List Word) (s : State) : State :=
  if s.ledger.fail then s
  else
    let r := s.scales.en.records
    let t := setEnergy (fun e => { e with records := lastN 36864 (e.records ++ [(ws, false)]) }) s
    if 36864 ≤ r.length ∧ ¬ (r.headD ([], true)).2 then raise LDG_INT 4 (energyOverrun (r.headD ([], true)).1 t) else t

/-- The deltas of an interval, visible units. -/
def deltas (x : Interval) (acc : List Nat) : List Nat :=
  (List.range 8).map (fun j => (visible (acc.getD j 0) + 2 ^ 64 - visible (x.base.getD j 0)) % 2 ^ 64)

/-- R436 step 4: at the interval boundary an accumulator takes the peer's value when the peer's point is neither
FCAL_BAD nor REEFED. -/
def adoptPoint (k : Nat) (s : State) : State :=
  match s.pair.adopt with
  | none => s
  | some ps =>
    let t := { s with pair := { s.pair with adopt := some (ps.filter (fun p => decide (p.1 ≠ k))) } }
    match ps.find? (fun p => decide (p.1 = k)) with
    | none => s
    | some p =>
      if p.2.cur.flags.testBit fFCAL || p.2.cur.flags.testBit fREEFED then t
      else pairRecord 6 4 k [] (setInfo k (fun x => { x with acc := p.2.acc }) t)

/-- The record of a point's interval is written, and the next one starts from the accumulators (R187). `whole` tells
that a boundary ended the interval, which then is the last completed one (R198, Table 7.4). -/
def writeInterval (whole : Bool) (k wrap cycles bound : Nat) (x : Interval) (s : State) : State :=
  let i := (meter s k).info
  let seq := (i.seq + (bound - i.bound.getD bound)) % 2 ^ 32
  let t := raise SCL_EN_INT 0 (keepInterval (intervalWords s k seq wrap cycles x i.acc) s)
  let u := setInfo k (fun y => { y with seq := seq, bound := some bound }) t
  let v := if whole then setInfo k (fun y => { y with
      prev := deltas x y.acc, prevUs := tagUs (x.start.getD wrap) wrap, prevCarried := y.carried, carried := false }) u
    else u
  let w := adoptPoint k v
  if (meter w k).info.cur.start.isNone then setInfo k (fun y => { y with cur := { y.cur with base := acc8 y.acc } }) w else w

/-- The record of the interval that closes. -/
def writeClosing (k : Nat) (s : State) : State :=
  match (meter s k).closing with
  | none => s
  | some c => writeInterval true k c.wrap c.cycles c.bound c.ivl (setMeter k { meter s k with closing := none } s)

/-- The Mast is UNSYNC or HOLD_EXC. -/
def mastSuspect (s : State) : Bool := timeSuspect s

/-- The cycle clock spent time outside LOCKED in an interval (R187). -/
def outOfLock (s : State) (x : Interval) : Bool := decide (s.mast.cyc.st ≠ .locked ∨ x.opened < s.mast.cyc.lockedAt)

/-- The live check bits, PT_STAT 6:1. -/
def liveChecks (s : State) (k : Nat) : Nat := rdF s (PT_STAT k) 1 6

/-- An interval that begins: the count and the tick of now, and the check bits that are live. -/
def openInterval (s : State) (k : Nat) : Interval :=
  { cycle := s.mast.cyc.count, opened := s.ticks, checks := liveChecks s k }

/-- The UTC boundary of a point's last interval end. -/
def lastBound (m : Meter) : Option Nat :=
  match m.closing with
  | some c => some c.bound
  | none => m.info.bound

/-- An interval without a mean is not metered at all. -/
def unmetered (s : State) (x : Interval) : Interval :=
  if x.start.isSome then x else ivFlag true fGAP { x with gapMs := (s.ticks - x.opened) / 250000 }

/-- R186: the point's interval ends at a wrap; its record waits for the last mean before the wrap. A second end before
that mean writes the record at once; so does the end of an interval in which nothing was metered
(notes/assumptions/46.md). No interval runs before the first mean (R188). -/
def endInterval (wrap bound : Nat) (s : State) (k : Nat) : State :=
  if (meter s k).fresh ∨ (lastBound (meter s k)).all (fun b => decide (bound ≤ b)) then s
  else
    let s1 := writeClosing k s
    let m := meter s1 k
    let x := m.info.cur
    let y := unmetered s1 (ivFlag (mastSuspect s1) fSUSPECT (ivFlag (outOfLock s1 x) fCYC x))
    let t := setMeter k { m with
      info := { m.info with cur := openInterval s1 k },
      closing := some { ivl := y, wrap := wrap, cycles := (s1.mast.cyc.count + 2 ^ 32 - x.cycle) % 2 ^ 32, bound := bound } }
      (wrF (PT_STAT k) 16 16 0 s1)
    if x.start.isSome then t else writeClosing k t

/-- The interval whose wrap a mean's tag has reached gets its record. -/
def closeBefore (k tag : Nat) (s : State) : State :=
  match (meter s k).closing with
  | none => s
  | some c => if tag < c.wrap then s else writeClosing k s

/-- The intervals whose wrap is 1 s past get their records: no mean before the wrap can still come. -/
def closeOverdue (s : State) : State :=
  (enabledPoints s).foldl (fun t k =>
    match (meter t k).closing with
    | some c => if c.wrap + taiSecUnit ≤ t.tai then writeClosing k t else t
    | none => t) s

/-- Update the interval that owns a mean. -/
def onInterval (k : Nat) (f : Interval → Interval) (s : State) : State :=
  match (meter s k).closing with
  | some c => setMeter k { meter s k with closing := some { c with ivl := f c.ivl } } s
  | none => setInfo k (fun x => { x with cur := f x.cur }) s

/-! Gap records (R195, R197, R198). -/

/-- The estimate for an accumulator over the unmetered time in µs. -/
def gapEst (i : EnPoint) (us j : Nat) : Nat := if i.prevUs = 0 then 0 else divRound (i.prev.getD j 0 * us) i.prevUs

/-- The newest valid ampere-hour save. -/
def newestAh (s : State) : Option AhSave :=
  match tget none s.scales.en.ahSaves 0, tget none s.scales.en.ahSaves 1 with
  | some a, some b => if atOrAfter32 b.seq a.seq then some b else some a
  | some a, none => some a
  | none, b => b

/-- The gap that runs ends at the first mean after it, and its record is written. -/
def closeGap (tag : Nat) (s : State) : State :=
  match s.scales.en.gap with
  | none => s
  | some (reason, start) =>
    let us := tagUs start tag
    let ah := if reason = 1 then (newestAh s).filter (fun a => decide (a.start = start)) else none
    let counts := fun (k : Nat) => match ah with
      | some a => ((a.counts.find? (fun p => decide (p.1 = k))).map (fun p => p.2)).getD []
      | none => []
    let pts : List GapPoint := (enabledPoints s).map (fun k =>
      let i := (meter s k).info
      { point := k, est := (List.range 8).map (gapEst i us), ah := counts k, vLast := i.vLast, pfLast := i.pfLast })
    let span := match ah with
      | some a => a.spanMs
      | none => 0
    let g : GapRec :=
      { reason := reason, start := start, fin := tag, suspect := decide (s.mast.st = .unsync), points := pts, ahSpan := span }
    raise SCL_EN_INT 6 (setEnergy (fun e => { e with gap := none, gaps := lastN 256 (e.gaps ++ [g]) }) s)

/-- The time without metering in an interval: from the gap's start, or the interval's UTC boundary, to the first mean,
in ms. -/
def gapMsOf (s : State) (start tag : Nat) : Nat :=
  let b := taiOfUtc s (utcBound s (tagSec tag) * intervalSec s) * taiSecUnit
  tagUs (max start b) tag / 1000

/-! A mean (R183 to R191). -/

/-- The first mean of an interval gives it its start; the first after a start or a resumption begins it, and marks it
PARTIAL, and RESTORED or GAP. -/
def startMean (k tag : Nat) (s : State) : State :=
  let m := meter s k
  let x := match m.closing with
    | some c => c.ivl
    | none => m.info.cur
  if x.start.isSome then s
  else
    let x0 := if m.fresh then { openInterval s k with flags := x.flags, base := acc8 m.info.acc } else x
    let gap := match m.gapFrom with
      | some g => gapMsOf s g tag
      | none => 0
    let y := ivFlag (mastSuspect s) fSUSPECT (ivFlag m.fresh fPARTIAL (ivFlag m.restored fRESTORED
      (ivFlag m.gapFrom.isSome fGAP { x0 with start := some tag, gapMs := gap })))
    let t := onInterval k (fun _ => y) s
    let u := setMeter k { meter t k with fresh := false, restored := false, gapFrom := none } t
    setInfo k (fun i => { i with bound := some (i.bound.getD (utcBound s (tagSec tag))) }) u

/-- The RMS of each element's voltage over the window, per mil of nominal (W24). -/
def rmsPerMil (sq n : Nat) : Nat := isqrt (2000000 * sq / atLeast 1 n) / 2 ^ 91

/-- The extremes of the phase RMS. -/
def seeVolts (vs : List Nat) (x : Interval) : Interval :=
  vs.foldl (fun y v => { y with
    vMin := some (match y.vMin with
      | some m => min m v
      | none => v), vMax := max y.vMax v }) x

/-- The rate of a point's channels: the decimator's, or the subscription's. -/
def localRate (s : State) (ch : Nat) : Nat :=
  20480000 / 2 ^ (5 + rdF s (SCL_CH_CFG ch) 3 3) / (if rdF s (SCL_CH_CFG ch) 6 2 = 2 then 2 else 1)

def svRate (s : State) (i : Nat) : Nat :=
  match s.cfg.scales.svs[i]? with
  | some c => ((s.cfg.subs.find? (fun p => decide (p.1 = c.sub))).map (fun p => p.2.rate)).getD 1
  | none => 1

def ptRate (s : State) (k : Nat) : Nat :=
  if rdB s (PT_CFG k) 2 then svRate s (rdF s (PT_CFG k) 14 6) else localRate s (rdF s (PT_CFG k) 4 5)

/-- P_k or Q_k as binary32 W or var. -/
def meanF32 (s : State) (k n : Nat) (x : Int) : Word := f32Round (scaleK s k * x) (n * 2 ^ 331)

/-- One-cycle mean phase voltage and power factor (Table 7.5). -/
def lastWordsOf (s : State) (k : Nat) (m : MeanSum) (hist : List MetSample) (i : EnPoint) : EnPoint :=
  let w := ptWiring s k
  let e := elements w
  let v := ((List.range e).map (fun j => isqrt (sqSum MetSample.vs j (hist.take m.n) * 2 ^ 20 / m.n))).sum
  { i with vLast := f32Round (f32Val (rd s (PT_VFS k)) * (v : Int)) (e * 2 ^ 101),
           pfLast := if m.sap = 0 then 0#32 else f32OfRat m.p m.sap }

/-- A DIR change counts in the interval that owns the mean; PT_STAT shows those of the running one (R184). -/
def dirChange (k : Nat) (new : Bool) (s : State) : State :=
  let old := (meter s k).info.dir
  let t := wrF (PT_STAT k) 0 1 (b2n new) (setInfo k (fun i => { i with dir := some new }) s)
  match old with
  | none => t
  | some d =>
    if d = new then t
    else
      let u := onInterval k (fun x => { x with rev := satAdd x.rev 1 65535 }) t
      raise SCL_EN_INT 1 (wrF (PT_STAT k) 16 16 (meter u k).info.cur.rev u)

/-- A moving mean is metered (R183 to R185, R190). -/
def meterMean (k n : Nat) (s : State) : State :=
  let hist := (meter s k).hist
  let newest := (hist.head?).map MetSample.tag
  let fo := atLeast 1 (ptRate s k)
  let tag := newest.getD 0 - (n - 1) * taiSecUnit / (2 * fo)
  let s0 := closeBefore k tag s
  let s1 := closeGap tag (startMean k tag s0)
  let w := ptWiring s k
  let m := meanSum w n hist
  let s2 := dirChange k (newDir s1 k m (meter s1 k).info.dir) s1
  let dir := (meter s2 k).info.dir.getD false
  let volts := (List.range (elements w)).map (fun j => rmsPerMil (sqSum MetSample.vs j (hist.take n)) n)
  let amps := (List.range (elements w)).any (fun j => decide (100 ≤ rmsPerMil (sqSum MetSample.cs j (hist.take n)) n))
  let marked := (hist.take n).any (fun x => decide (x.mark ≠ 0))
  let cycleMarked := ((hist.drop 1).take n).any (fun x => decide (x.mark ≠ 0))
  let newCycle := match hist with
    | a :: b :: _ => decide (a.turn ≠ b.turn)
    | _ => false
  let last := fun (i : EnPoint) => if s2.scales.en.reefPend then i else lastWordsOf s2 k m hist i
  let s3 := setInfo k (fun i => last { i with
    acc := (takers s2 k m dir).foldl (fun a t => addAcc a t.1 (contribution s2 k n fo t.2)) (acc8 i.acc),
    carried := i.carried || amps }) s2
  let s4 := onInterval k (fun x =>
    let y := seeVolts volts (ivFlag (fcalBad s3) fFCAL (ivFlag marked fINVALID x))
    { y with invCyc := if cycleMarked && newCycle then satAdd y.invCyc 1 65535 else y.invCyc }) s3
  setEnergy (fun e => { e with lastTag := newest.getD 0, lastMean := tag })
    (wr (PT_P k) (meanF32 s4 k n m.p) (wr (PT_Q k) (meanF32 s4 k n m.q) s4))

/-! Saves (R193, R196). -/

/-- The words of a running interval in a save. -/
def ivWords (x : Interval) : List Word :=
  let st := x.start.getD 0
  [wordOf (x.flags + 2 ^ 16 * b2n x.start.isSome), loWord (tagSec st), wordOf (tagSec st / 2 ^ 32), wordOf (tagNs st),
   wordOf (x.rev + 2 ^ 16 * min x.invCyc 65535), wordOf x.cycle, loWord x.opened, hiWord x.opened,
   wordOf (min (x.vMin.getD 65535) 65535 + 2 ^ 16 * min x.vMax 65535), wordOf x.checks, wordOf x.gapMs]
    ++ (acc8 x.base).flatMap (fun a => [loWord a, hiWord a, wordOf (a / 2 ^ 64)])

/-- The save content in words: by point its number, DIR, the accumulators, the sequence and boundary of its records,
the running interval and the last completed one (the chapters give the content, not its layout). -/
def saveWords (x : EnergySave) : List Word :=
  [wordOf x.seq, loWord (tagSec x.tag), wordOf (tagSec x.tag / 2 ^ 32), wordOf (tagNs x.tag), loWord (tagSec x.mean),
   wordOf (tagSec x.mean / 2 ^ 32 + 2 ^ 31 * b2n x.reefed), wordOf (tagNs x.mean)]
    ++ x.points.flatMap (fun p =>
      [wordOf (p.1 + 2 ^ 8 * b2n (p.2.dir.getD false) + 2 ^ 9 * b2n p.2.carried + 2 ^ 10 * b2n p.2.prevCarried), wordOf p.2.seq,
       loWord (p.2.bound.getD 0), wordOf p.2.prevUs, p.2.vLast, p.2.pfLast]
        ++ (acc8 p.2.acc).flatMap (fun a => [loWord a, hiWord a, wordOf (a / 2 ^ 64)]) ++ ivWords p.2.cur
        ++ (acc8 p.2.prev).flatMap (fun a => [loWord a, hiWord a]))

/-- The CRC-32C over a save's content. -/
def saveCrc (x : EnergySave) : Word := crcWords (saveWords x)

/-- A slot whose CRC fails is ignored (R193). -/
def goodSave (s : State) (slot : Nat) : Option (Nat × EnergySave) :=
  match tget none s.scales.en.saves slot with
  | some x => if x.crc = saveCrc x then some (slot, x) else none
  | none => none

/-- The valid slot with the higher sequence (R194), in 24-bit order, with its number. -/
def newestSlot (s : State) : Option (Nat × EnergySave) :=
  match goodSave s 0, goodSave s 1 with
  | some a, some b => if (b.2.seq + 2 ^ 24 - a.2.seq) % 2 ^ 24 < 2 ^ 23 then some b else some a
  | some a, none => some a
  | none, b => b

def newestSave (s : State) : Option EnergySave := (newestSlot s).map (fun p => p.2)

/-- The content a save takes now: of a point whose last interval still takes means, that one is the running interval. -/
def saveContent (reefed : Bool) (s : State) : EnergySave :=
  let seq := match newestSave s with
    | some x => (x.seq + 1) % 2 ^ 24
    | none => 1
  let info := fun (k : Nat) => match (meter s k).closing with
    | some c => { (meter s k).info with cur := c.ivl }
    | none => (meter s k).info
  let x : EnergySave :=
    { seq := seq, tag := s.scales.en.lastTag, mean := s.scales.en.lastMean, reefed := reefed, crc := 0#32,
      points := (enabledPoints s).map (fun k => (k, info k)) }
  { x with crc := saveCrc x }

/-- A save is written into the alternate slot and mirrored (R193, R429); a failed one sets SAVE_FAIL, leaves the other slot
intact, and leaves a slot that its CRC refuses. It answers SCL_EN_SAVE.NOW. -/
def energySave (ok reefed : Bool) (s : State) : State :=
  let s0 := setEnergy (fun e => { e with saveDue := none }) (wrF SCL_EN_SAVE 12 1 0 s)
  let x := saveContent reefed s0
  let slot := match newestSlot s0 with
    | some p => 1 - p.1
    | none => 0
  let put := fun (y : EnergySave) (u : State) => setEnergy (fun e => { e with saves := tset none e.saves slot (some y) }) u
  if ok ∧ ¬ s0.ledger.fail then
    let t := put x (wr SCL_EN_SAVE_STAT (wordOf (x.seq + 2 ^ 24 * slot)) s0)
    if isPair t then bulkSend shENERGY (saveWords x) t else t
  else
    let t := if s0.ledger.fail then s0 else put { x with crc := ~~~x.crc } s0
    raise SCL_EN_INT 5 (wrF SCL_EN_SAVE_STAT 25 1 1 t)

/-- A save of the node's own accord: whether its write verifies is a free value. -/
def ownSave (reefed : Bool) (s : State) : State := energySave (Config.saveVerifies s.free) reefed (drawFree s)

/-- The saves asked for are taken at a sample once the records of an interval end are written (Table 7.2). -/
def saveAtSample (s : State) : State :=
  if rdB s SCL_EN_SAVE 12 = false ∧ s.scales.en.saveDue = none then s
  else
    let t := closeOverdue s
    if (enabledPoints t).any (fun k => (meter t k).closing.isSome) then t
    else match t.scales.en.saveDue with
      | some ok => energySave ok false t
      | none => ownSave false (setEnergy (fun e => { e with saveAt := t.ticks }) t)

/-- SCL_EN_SAVE.SAVE_S in seconds (R193). -/
def savePeriod (s : State) : Nat := min 3600 (atLeast 1 (rdF s SCL_EN_SAVE 0 12))

/-- R194: every accumulator comes from the newest save; R195, R197: the gap since it. The save of a Reefed sequence
whose gap has its record is followed by a cut of its own (NO_SAVE). -/
def energyRestore (s : State) : State :=
  let points := fun (x : EnergySave) => x.points.foldl (fun m p =>
    tset {} m p.1 { info := { p.2 with cur := {}, dir := none }, restored := true, gapFrom := some x.mean }) ([] : NMap Meter)
  match newestSlot s with
  | none => setEnergy (fun e => { e with points := [], gap := none }) s
  | some (slot, x) =>
    let told := s.scales.en.gaps.any (fun g => decide (g.reason = 1 ∧ g.start = x.mean))
    wr SCL_EN_SAVE_STAT (wordOf (x.seq + 2 ^ 24 * slot)) (wrF SCL_EN_STATUS 2 1 1 (setEnergy (fun e => { e with
      points := points x, lastTag := x.tag, lastMean := x.mean, gap := some (b2n (x.reefed && !told), x.mean) }) s))

/-! Reefed (R196). -/

/-- A point's interval ends with PARTIAL, and with REEFED in the Reefed sequence, unless it has no mean (Table 7.2,
R453). -/
def endPoint (reefed : Bool) (s : State) (k : Nat) : State :=
  let s1 := writeClosing k s
  let x := (meter s1 k).info.cur
  let t := if x.start.isNone then s1
    else
      let y := ivFlag true fPARTIAL (ivFlag reefed fREEFED (ivFlag (mastSuspect s1) fSUSPECT (ivFlag (outOfLock s1 x) fCYC x)))
      let bound := utcBound s1 (taiSec s1)
      writeInterval false k s1.tai ((s1.mast.cyc.count + 2 ^ 32 - x.cycle) % 2 ^ 32)
        (max bound ((meter s1 k).info.bound.getD bound)) y s1
  setMeter k { meter t k with
    info := { (meter t k).info with cur := {} }, fresh := true, gapFrom := some s.scales.en.lastMean, ah := [0, 0, 0] }
    (wrF (PT_STAT k) 16 16 0 t)

/-- R196 steps 2 to 5, once every point has taken its last mean: the save, the records, and current-only measurement. -/
def reefDone (s : State) : State :=
  let t := ownSave true s
  let u := (enabledPoints t).foldl (endPoint true) t
  let v := setEnergy (fun e => { e with
    reefPend := false, stopping := [], reefAt := u.tai, ahAt := u.ticks, gap := some (1, e.lastMean) }) u
  raise SCL_EN_INT 8 (wrF SCL_EN_STATUS 0 2 2 v)

/-- R196 step 1: the signal of a power failure. The local points that meter take one more mean; the SV points get no
further sample. -/
def energyReef (s : State) : State :=
  if !metering s then s
  else
    let ks := (enabledPoints s).filter (fun k =>
      !rdB s (PT_CFG k) 2 && decide (wholeN ((meter s k).hist.map MetSample.turn) ≠ 0))
    let t := setEnergy (fun e => { e with stopping := ks, reefPend := true }) s
    if ks = [] then reefDone t else t

/-- The last mean of R196 is taken by now. -/
def reefSettle (s : State) : State := if s.scales.en.reefPend then reefDone s else s

/-- R197: metering resumes, by point, at the first mean whose window holds no SETTLING sample. -/
def energyResume (s : State) : State :=
  let t := setEnergy (fun e => { e with saveAt := s.ticks, saveDue := none }) (reefSettle s)
  wrF SCL_EN_STATUS 0 2 1 ((enabledPoints t).foldl (fun u k =>
    setMeter k { meter u k with fresh := true, waitSettle := true, closing := none } u) t)

/-- The element of a wiring that a phase's current is: of 3P3W phases a and c. -/
def phaseElement (w j : Nat) : Option Nat :=
  if w = 1 then (if j = 0 then some 0 else if j = 2 then some 1 else none) else if w = 2 ∧ j ≠ 0 then none else some j

/-- The ampere-hours of a phase over a cycle of n samples, in 2^-16 Ah, its fraction dropped. -/
def ahOf (s : State) (k sq n : Nat) : Nat :=
  let rms := isqrt (sq * n)
  (f32Val (rd s (PT_IFS k)) * (rms : Int) / ((3600 * atLeast 1 (ptRate s k) * 2 ^ 224 : Nat) : Int)).toNat

/-- Current-only measurement: at the end of each cycle the counters take its RMS (R196 step 5). -/
def reefSample (k : Nat) (s : State) : State :=
  let m := meter s k
  match m.hist with
  | a :: b :: _ =>
    let n := wholeN (m.hist.map MetSample.turn)
    if a.turn = b.turn ∨ n = 0 then s
    else
      let xs := (m.hist.drop 1).take n
      setMeter k { m with ah := (List.range 3).map (fun j =>
        match phaseElement (ptWiring s k) j with
        | some o => (m.ah.getD j 0 + ahOf s k (sqSum MetSample.cs o xs) n) % 2 ^ 64
        | none => m.ah.getD j 0) } s
  | _ => s

/-! Samples of a point. -/

/-- The samples kept: three turns, and the 127 that the Hilbert filter takes. -/
def keepSamples (l : List MetSample) : List MetSample :=
  let t := ((l.head?).map MetSample.turn).getD 0
  l.take (max 130 (l.filter (fun x => decide (t ≤ x.turn + 3))).length)

/-- The voltage through the Hilbert filter of R181, newest first: taps odd about the middle, so that it lags by 90
degrees at every frequency. -/
def hilbert (xs : List Int) : Int :=
  ((List.range 63).map (fun i => Config.hilbertTap (i + 1) * (xs.getD (64 + i) 0 - xs.getD (62 - i) 0))).sum / 2 ^ 30

/-- p and q of a new sample (R181): h is the voltage through the Hilbert filter, with the current of 63 samples before. -/
def newSample (s : State) (tag mark : Nat) (vs cs : List Int) (hist : List MetSample) : MetSample :=
  let h := (List.range vs.length).map (fun j =>
    hilbert ((vs.getD j 0 :: hist.map (fun x => x.vs.getD j 0)).take 127))
  let old := match hist[62]? with
    | some x => x.cs
    | none => []
  { tag := tag, turn := cycleTurn s tag, vs := vs, cs := cs, p := dot vs cs, q := dot h old, mark := mark }

/-- A sample instant of point `k` (R181 to R184, R196, R197). -/
def meterSample (k tag mark : Nat) (vs cs : List Int) (s : State) : State :=
  let m := meter s k
  let hist := keepSamples (newSample s tag mark vs cs m.hist :: m.hist)
  let t := setMeter k { m with hist := hist } s
  let n := wholeN (hist.map MetSample.turn)
  if enReefed t then reefSample k t
  else if n = 0 ∨ ¬ metering t then t
  else if m.waitSettle ∧ (hist.take n).any (fun x => x.mark.testBit 0) then t
  else if t.scales.en.reefPend ∧ k ∉ t.scales.en.stopping then t
  else
    let v := saveAtSample (meterMean k n (setMeter k { meter t k with waitSettle := false } t))
    if v.scales.en.reefPend then
      let w := setEnergy (fun e => { e with stopping := e.stopping.filter (fun j => decide (j ≠ k)) }) v
      if w.scales.en.stopping = [] then reefDone w else w
    else v

/-! Supply-side checks (R192). -/

/-- The fundamental of element `j` over a cycle of samples: its Fourier sum, oldest sample first. -/
def fundSum (f : MetSample → List Int) (j n : Nat) : Nat → List MetSample → Int × Int
  | _, [] => (0, 0)
  | i, x :: xs =>
    let c := cosSin (2 * (piFix : Int) * (i : Int) / (atLeast 1 n : Nat))
    let t := fundSum f j n (i + 1) xs
    (t.1 + (f x).getD j 0 * c.1 / 2 ^ 80, t.2 - (f x).getD j 0 * c.2 / 2 ^ 80)

def cAdd (a b : Int × Int) : Int × Int := (a.1 + b.1, a.2 + b.2)
def cSub (a b : Int × Int) : Int × Int := (a.1 - b.1, a.2 - b.2)

/-- A complex value turned by 120 degrees, or by 240: times -1/2 +- j sqrt(3)/2, the root in 2^-64. -/
def turn120 (neg : Bool) (z : Int × Int) : Int × Int :=
  let r : Int := 15975348984942515084
  let q : Int := if neg then -r else r
  ((-z.1 * 2 ^ 63 - z.2 * q) / 2 ^ 64, (z.1 * q - z.2 * 2 ^ 63) / 2 ^ 64)

/-- Three times the squares of the zero-, positive- and negative-sequence magnitudes of three phasors, scaled alike. -/
def seqSquares (a b c : Int × Int) : Nat × Nat × Nat :=
  let sq := fun (z : Int × Int) => z.1.natAbs * z.1.natAbs + z.2.natAbs * z.2.natAbs
  (sq (cAdd a (cAdd b c)), sq (cAdd a (cAdd (turn120 false b) (turn120 true c))),
   sq (cAdd a (cAdd (turn120 true b) (turn120 false c))))

/-- The three phasors of voltages or currents: of 3P3W voltages the line voltages ab, bc and ca, of its currents the
third is the negative sum. -/
def threePhasors (w n : Nat) (volts : Bool) (xs : List MetSample) : (Int × Int) × (Int × Int) × (Int × Int) :=
  let f := if volts then MetSample.vs else MetSample.cs
  let p := fun j => fundSum f j n 0 xs.reverse
  if w = 0 then (p 0, p 1, p 2)
  else if volts then (p 0, cSub (0, 0) (p 1), cSub (p 1) (p 0))
  else (p 0, cSub (0, 0) (cAdd (p 0) (p 1)), p 1)

/-- A squared sequence sum is at or above `pct` per cent of nominal: |sum| = 3 |X| n / sqrt 2, and nominal is 2^91 /
sqrt 2. -/
def seqAtLeast (sq n pct : Nat) : Bool := decide ((3 * n * pct * 2 ^ 91) ^ 2 ≤ sq * 40000)

/-- The six conditions of Table 7.4 in the order of PT_STAT 6:1. -/
def checkConds (s : State) (k n : Nat) (xs : List MetSample) : List Bool :=
  let w := ptWiring s k
  let v := threePhasors w n true xs
  let i := threePhasors w n false xs
  let sv := seqSquares v.1 v.2.1 v.2.2
  let si := seqSquares i.1 i.2.1 i.2.2
  let e := elements w
  let vr := (List.range e).map (fun j => sqSum MetSample.vs j xs)
  let ir := (List.range e).map (fun j => sqSum MetSample.cs j xs)
  let above := fun (sq mil : Nat) => decide (mil * mil * 2 ^ 182 * n ≤ 2000000 * sq)
  let m := meanSum w n xs
  let below := fun (x : Int) => !atCreep s k n x && !atCreep s k n (-x)
  let open1 := fun (j : Nat) =>
    if e = 1 then decide (j = 0) && !above (ir.getD 0 0) 5 && above (vr.getD 0 0) 200 && below m.p && below m.q
        && (meter s k).info.prevCarried
    else
      match phaseElement w j with
      | none => false
      | some o => !above (ir.getD o 0) 5 && (List.range e).any (fun q => decide (q ≠ o) && above (ir.getD q 0) 100)
  [decide (w ≤ 1) && decide (sv.2.1 < sv.2.2) && seqAtLeast sv.2.1 n 20,
   decide (w ≤ 1) && decide (si.2.1 < si.2.2) && seqAtLeast si.2.1 n 5,
   decide (w = 0) && decide ((rdF s (PT_CHK k) 0 8) ^ 2 * sv.2.1 < 10000 * sv.1) && vr.all (fun q => above q 200),
   open1 0, open1 1, open1 2]

/-- The interrupt of a check. -/
def checkInt (b : Nat) : Nat := if b < 2 then 2 else if b = 2 then 3 else 4

/-- A live bit follows its condition held or absent for CHECK_CYC cycles; setting it sets the sticky bit and the
interrupt and writes a Ledger record. -/
def checkBit (k b : Nat) (cond : Bool) (s : State) : State :=
  let m := meter s k
  let held := if cond then m.held.getD b 0 + 1 else 0
  let gone := if cond then 0 else m.absent.getD b 0 + 1
  let six := fun (l : List Nat) (v : Nat) => listSet ((List.range 6).map (fun j => l.getD j 0)) b v
  let t := setMeter k { m with held := six m.held held, absent := six m.absent gone } s
  let need := atLeast 1 (rdF s (PT_CHK k) 8 8)
  let live := rdB s (PT_STAT k) (1 + b)
  if cond && decide (need ≤ held) && !live then
    let u := onInterval k (fun x => { x with checks := x.checks ||| 2 ^ b })
      (setStat (PT_STAT k) (9 + b) true (setStat (PT_STAT k) (1 + b) true t))
    logEvent srcSCL 4 4 (wordOf (k * 8 + b)) [] (raise SCL_EN_INT (checkInt b) u)
  else if !cond && decide (need ≤ gone) && live then setStat (PT_STAT k) (1 + b) false t
  else t

/-- One cycle's checks of a point; a live bit is seen in the interval that runs. -/
def checkPoint (s : State) (k : Nat) : State :=
  let m := meter s k
  let n := wholeN (m.hist.map MetSample.turn)
  if n = 0 ∨ ¬ metering s then s
  else
    let cs := checkConds s k n (m.hist.take n)
    forUpTo 6 (fun b t => checkBit k b (cs.getD b false) t) s

/-- The intervals of the points for which `p` holds are marked UCAL_CHANGED (Table 7.2). -/
def markUcal (p : State → Nat → Bool) (s : State) : State :=
  (enabledPoints s).foldl (fun t k =>
    if p t k then setInfo k (fun x => { x with cur := ivFlag true fUCAL x.cur }) t else t) s

/-- A user calibration change of local channel `ch`. -/
def ucalPoints (ch : Nat) (s : State) : State :=
  markUcal (fun t k =>
    let e := elements (ptWiring t k)
    let v := rdF t (PT_CFG k) 4 5
    let i := rdF t (PT_CFG k) 9 5
    !rdB t (PT_CFG k) 2 && decide ((v ≤ ch ∧ ch < v + e) ∨ (i ≤ ch ∧ ch < i + e))) s

/-- The SV channels of an SV point (R179). -/
def svUses (w ch : Nat) : Bool :=
  if w = 0 then decide (ch < 3 ∨ (4 ≤ ch ∧ ch < 7)) else if w = 1 then decide (ch = 0 ∨ ch = 2 ∨ (4 ≤ ch ∧ ch < 7))
  else decide (ch = 0 ∨ ch = 4)

/-- A user calibration change of channel `ch` of Scales subscription `i`. -/
def ucalSvPoints (i ch : Nat) (s : State) : State :=
  markUcal (fun t k => rdB t (PT_CFG k) 2 && decide (rdF t (PT_CFG k) 14 6 = i) && svUses (ptWiring t k) ch) s

/-- A Mast step marks the running intervals (R188). -/
def stepPoints (s : State) : State :=
  (enabledPoints s).foldl (fun t k =>
    if (meter t k).fresh then t else setInfo k (fun x => { x with cur := ivFlag true fSTEP x.cur }) t) s

end Sys2Proof.Machine
end

