-- ==== Sys2Proof/Machine/ScalesOps.lean ====
section
/-!
DEFINITION. Acquisition as shared operations (R150 to R178): the decimator, tags and marks, calibration, the waveform path, SV
channels, SYNC and the estimates of local streams. A calibrated sample is exact, in units of 2^-91 of full scale.
-/

namespace Sys2Proof.Machine

open Sys2Proof

/-! Channels. -/

def chan (s : State) (ch : Nat) : Chan := tget {} s.scales.chans ch

def setChan (ch : Nat) (x : Chan) (s : State) : State :=
  setScales (fun y => { y with chans := tset {} y.chans ch x }) s

def chEnabled (s : State) (ch : Nat) : Bool := rdB s (SCL_CH_CFG ch) 0

/-- N, log2 R and the FIR setting (R153). -/
def chOrder (s : State) (ch : Nat) : Nat := 3 + rdF s (SCL_CH_CFG ch) 1 2
def chLogR (s : State) (ch : Nat) : Nat := 5 + rdF s (SCL_CH_CFG ch) 3 3
def chFir (s : State) (ch : Nat) : Nat := rdF s (SCL_CH_CFG ch) 6 2

/-- The MOD period in TAI counter units: 48.828125 ns (R151). -/
def modPeriod : Nat := 13107200000

/-- The group delay of Table 6.2 in counter units (R156): N(R - 1)/2 periods and 15R or 31R. -/
def groupDelay (s : State) (ch : Nat) : Nat :=
  let r := 2 ^ chLogR s ch
  chOrder s ch * (r - 1) * (modPeriod / 2)
    + (if chFir s ch = 1 then 15 * r else if chFir s ch = 2 then 31 * r else 0) * modPeriod

/-- The settling time of R160 in MOD periods. -/
def settlePeriods (s : State) (ch : Nat) : Nat :=
  let r := 2 ^ chLogR s ch
  chOrder s ch * r + (if chFir s ch = 1 then 31 * r else if chFir s ch = 2 then 63 * r else 0)

/-! The decimator (R154, R155). -/

/-- A value through the cascade of integrators of `w` bits. -/
def integrate (w : Nat) : Nat → List Nat → List Nat
  | _, [] => []
  | x, a :: as =>
    let y := (a + x) % 2 ^ w
    y :: integrate w y as

/-- A value through the cascade of combs of differential delay 1: the output and the new delays. -/
def combThrough (w : Nat) : Nat → List Nat → Nat × List Nat
  | x, [] => (x, [])
  | x, c :: cs =>
    let r := combThrough w ((x + 2 ^ w - c) % 2 ^ w) cs
    (r.1, x :: r.2)

/-- The CIC registers of N stages. -/
def stages (n : Nat) (l : List Nat) : List Nat := (List.range n).map (fun i => l.getD i 0)

/-- One CIC output from R bits (b = 1 enters as +1, b = 0 as -1), in Q1.31. The registers are N log2 R + 1 bits wide;
a density of exactly one does not fit, and its value is free. -/
def cicOutput (n logR : Nat) (bits : List Bool) (free : Nat) (x : Chan) : Int × Chan :=
  let w := n * logR + 1
  let integ := bits.foldl (fun l b => integrate w (if b then 1 else 2 ^ w - 1) l) (stages n x.integ)
  let c := combThrough w (integ.getLastD 0) (stages n x.comb)
  let v := signedN c.1 w
  (if v = -(2 ^ (w - 1) : Nat) ∧ bits.getLastD false then Config.cicTop free else v * 2 ^ 31 / 2 ^ (n * logR),
   { x with integ := integ, comb := c.2 })

/-- CIC outputs per channel output; the first output after a SYNC completes with the first one (R158). -/
def cicPerOutput (s : State) (ch : Nat) : Nat := if chFir s ch = 2 ∧ (chan s ch).fresh = false then 2 else 1

/-- The compensation filter (R155) on the CIC outputs, newest first: `n` taps of linear phase, DC gain 1. -/
def compFir (n : Nat) (xs : List Int) : Int :=
  let side := fun (k : Nat) => Config.compTap n (min k (n - 1 - k))
  let half := ((List.range (n / 2)).map side).sum
  let tap := fun (k : Nat) => if k = n / 2 then 2 ^ 30 - 2 * half else side k
  ((List.range n).map (fun k => tap k * xs.getD k 0)).sum / 2 ^ 30

/-- The raw Q1.31 output that the bits complete, with the channel after it. -/
def decimate (s : State) (ch : Nat) (bits : List Bool) : Int × Chan :=
  let n := chOrder s ch
  let r := 2 ^ chLogR s ch
  let step := fun (x : Chan) (bs : List Bool) =>
    let y := cicOutput n (chLogR s ch) bs s.free x
    { y.2 with cic := (y.1 :: y.2.cic).take 63 }
  let x := if cicPerOutput s ch = 2 then step (step (chan s ch) (bits.take r)) (bits.drop r) else step (chan s ch) bits
  (if chFir s ch = 1 then compFir 31 x.cic else if chFir s ch = 2 then compFir 63 x.cic else x.cic.headD 0,
   { x with fresh := false })

/-! Calibration (R165 to R169). -/

/-- Factory word `k` of a channel: G_f, O_f, tau_f, M_f, phi_f; the substitutes of R167 under FCAL_BAD; zero beyond
channel 23. -/
def fcal (s : State) (ch k : Nat) : Word :=
  if 23 < ch then 0#32
  else if fcalBad s then (if k = 0 ∨ k = 3 then 0x40000000#32 else 0#32)
  else tget 0#32 s.till.calArea (5 * ch + k)

def sWord (w : Word) : Int := signedN w.toNat 32

/-- R166: ((x_raw - O_f) G_f - O_u) G_u for a local channel. -/
def calibrate (s : State) (ch : Nat) (raw : Int) (x : Chan) : Int :=
  ((raw - sWord (fcal s ch 1)) * ((fcal s ch 0).toNat : Int) - sWord x.uofs * 2 ^ 30) * (x.ugain.toNat : Int)

/-- D in 1/1,024 sample before the clamp (R169), rounded to the nearest. -/
def waveDelay (s : State) (ch : Nat) (udly : Word) : Int :=
  8192 + signedN (field udly 0 14) 14 - divRoundInt (sWord (fcal s ch 2) * 1024 * (localRate s ch : Int)) (256 * 1000000000)

/-- D after the clamp goes to SCL_CH_FDLY with CLAMPED. -/
def setDelay (ch : Nat) (s : State) : State :=
  let d := waveDelay s ch (chan s ch).udly
  let c := clampInt 0 16383 d
  wr (SCL_CH_FDLY ch) (wordOf (c.toNat + 2 ^ 14 * b2n (decide (c ≠ d)))) s

/-- The staged user set of a channel comes into force (R168). -/
def takeUser (ch : Nat) (s : State) : State :=
  setDelay ch (setChan ch { chan s ch with
    ugain := rd s (SCL_CH_UGAIN ch), uofs := rd s (SCL_CH_UOFS ch), udly := rd s (SCL_CH_UDLY ch), take := false } s)

/-- SCL_CAL_STAT.BUSY follows the channels that wait. -/
def calBusy (s : State) : State := wrF SCL_CAL_STAT 0 1 (b2n (s.scales.chans.any (fun p => p.2.take))) s

/-- An APPLY takes effect on a channel: PEND clears, CAL_APPLIED, the record and UCAL_CHANGED. -/
def applyUser (ch : Nat) (s : State) : State :=
  calBusy (ucalPoints ch (logEvent srcSCL 1 3 (wordOf ch) [] (raise SCL_INT 6
    (setStat SCL_CAL_PEND ch false (takeUser ch s)))))

/-- UCAL_LOCK (R168). -/
def ucalLocked (s : State) : Bool := rdB s SCL_CFG 2

/-- The number of SV channels of the first `n` Scales subscriptions. -/
def svBefore (s : State) (n : Nat) : Nat := ((s.cfg.scales.svs.take n).map (fun c => c.scale.length)).sum

/-- The subscription and channel of an SV quantity (24 and above, in subscription order). -/
def svOfQty (s : State) (q : Nat) : Option (Nat × Nat) :=
  ((List.range s.cfg.scales.svs.length).find? (fun i => decide (q < 24 + svBefore s (i + 1)))).map
    (fun i => (i, q - 24 - svBefore s i))

/-- M_u and phi_u, G_u and O_u in force. -/
def pqOf (s : State) (q : Nat) : Word × Word := tget (0x40000000#32, 0#32) s.scales.pq q
def svGainOf (s : State) (q : Nat) : Word × Word := tget (0x40000000#32, 0#32) s.scales.svGain q

/-! SV channels (R162 to R164). -/

def svHist (s : State) (i : Nat) : SvHist := tget {} s.scales.svs i

def setSvHist (i : Nat) (x : SvHist) (s : State) : State :=
  setScales (fun y => { y with svs := tset {} y.svs i x }) s

/-- A calibrated SV value: Q1.31 of the channel's full scale, less O_u, times G_u, in units of 2^-91. -/
def svCalib (s : State) (i ch : Nat) (v : Int) : Int :=
  let full := match s.cfg.scales.svs[i]? with
    | some c => atLeast 1 (c.scale.getD ch 1)
    | none => 1
  let g := svGainOf s (24 + svBefore s i + ch)
  (divRoundInt (v * 2 ^ 31) full - sWord g.2) * (g.1.toNat : Int) * 2 ^ 30

/-- The marks of an SV sample's channel. -/
def svMark (r : SvRec) (ch : Nat) : Nat :=
  8 * b2n r.after.isSome + 16 * b2n ((r.channels.getD ch (0, true)).2) + 32 * b2n r.suspect

/-- The samples of an SV channel, newest first, as calibrated samples. -/
def svSamples (s : State) (i ch : Nat) : List ScSample :=
  (svHist s i).hist.map (fun r =>
    { tag := r.tag, turn := cycleTurn s r.tag, x := svCalib s i ch (r.channels.getD ch (0, true)).1, mark := svMark r ch })

/-- The samples missing between two tags of a subscription. -/
def svMissing (rate a b : Nat) : Nat := divRound ((b - a) * rate) taiSecUnit - 1

/-- The bridge of R163: the mean of two neighbours. -/
def svBridge (a b : SvRec) : SvRec :=
  { tag := (a.tag + b.tag) / 2, suspect := a.suspect || b.suspect,
    channels := (List.range (max a.channels.length b.channels.length)).map (fun k =>
      let x := a.channels.getD k (0, true)
      let y := b.channels.getD k (0, true)
      ((x.1 + y.1) / 2, x.2 || y.2)) }

/-- A change of a subscription's counts. -/
def svCounts (n : Nat) (f : SvSt → SvSt) (s : State) : State :=
  { s with ing := { s.ing with subs := tset {} s.ing.subs n (f (tget {} s.ing.subs n)) } }

/-- The samples of an SV point: currents in channels 0 to 2, voltages in 4 to 6 (R179); of 3P3W the line voltages ab
and cb. -/
def svElements (s : State) (i w : Nat) (r : SvRec) : List Int × List Int :=
  let v := fun ch => svCalib s i ch (r.channels.getD ch (0, true)).1
  if w = 0 then ([v 4, v 5, v 6], [v 0, v 1, v 2])
  else if w = 1 then ([v 4 - v 5, v 6 - v 5], [v 0, v 2])
  else ([v 4], [v 0])

/-- Every SV point of subscription `i` meters a sample. -/
def svMeter (i : Nat) (r : SvRec) (s : State) : State :=
  (enabledPoints s).foldl (fun t k =>
    if rdB t (PT_CFG k) 2 && decide (rdF t (PT_CFG k) 14 6 = i) then
      let e := svElements t i (ptWiring t k) r
      meterSample k r.tag (8 * b2n r.after.isSome) e.1 e.2 t
    else t) s

/-- The settled samples kept: 8 s. -/
def keepSv (l : List SvRec) : List SvRec :=
  let t := ((l.head?).map SvRec.tag).getD 0
  l.filter (fun x => decide (t ≤ x.tag + 8 * taiSecUnit))

/-- A sample becomes settled. -/
def svAppend (i : Nat) (r : SvRec) (s : State) : State :=
  let x := svHist s i
  svMeter i r (setSvHist i { x with hist := keepSv (r :: x.hist) } s)

/-- R163: a gap of two or more samples is counted once and sets SV_GAP. -/
def svGap (i : Nat) (s : State) : State :=
  let n := (s.cfg.scales.svs[i]?.map SvScCfg.sub).getD 0
  raise SCL_INT 4 (svCounts n (fun x => { x with gaps := satAdd x.gaps 1 0xFFFFFFFF }) s)

/-- R163: one missing sample is bridged and counted; two or more are a gap, which may have been counted before its end. -/
def svSettleOne (i : Nat) (r : SvRec) (s : State) : State :=
  let n := (s.cfg.scales.svs[i]?.map SvScCfg.sub).getD 0
  match (svHist s i).hist with
  | [] => svAppend i r s
  | a :: _ =>
    if r.tag ≤ a.tag then svAppend i r s
    else
      let m := svMissing (svRate s i) a.tag r.tag
      if m = 0 then svAppend i r s
      else if m = 1 then
        svAppend i r (svAppend i (svBridge a r) (svCounts n (fun x => { x with interp := satAdd x.interp 1 0xFFFFFFFF }) s))
      else
        let t := if (svHist s i).gapOpen then s else svGap i s
        svAppend i { r with after := some a.tag } (setSvHist i { svHist t i with gapOpen := false } t)

/-- The samples of subscription `i` for which `p` holds settle, in the order of their tags. -/
def svSettle (i : Nat) (p : SvRec → Bool) (s : State) : State :=
  let x := svHist s i
  let due := (x.pend.filter p).reverse
  due.foldl (fun t r => svSettleOne i r t) (setSvHist i { x with pend := x.pend.filter (fun r => !p r) } s)

/-- The samples of a subscription missing after its newest settled one up to a tag. -/
def svTail (s : State) (i upTo : Nat) : Nat :=
  match (svHist s i).hist with
  | a :: _ => (upTo - a.tag) * svRate s i / taiSecUnit
  | [] => 0

/-- What an estimate whose window ends at a tag needs of a subscription: its samples settle, and a gap that reaches
the end is counted. -/
def svWindowEnd (i upTo : Nat) (s : State) : State :=
  let t := svSettle i (fun r => decide (r.tag ≤ upTo)) s
  if 2 ≤ svTail t i upTo ∧ ¬ (svHist t i).gapOpen then setSvHist i { svHist t i with gapOpen := true } (svGap i t) else t

/-- A gap of two or more samples of a subscription lies in the span from `a` to `b` (R163). -/
def svGapIn (s : State) (i a b : Nat) : Bool :=
  let d := taiSecUnit / atLeast 1 (svRate s i)
  (svHist s i).hist.any (fun r => match r.after with
    | some x => decide (x + d ≤ b ∧ a + d ≤ r.tag)
    | none => false) || decide (2 ≤ svTail s i b)

/-- Insert a record among those that wait, newest first. -/
def svInsert (r : SvRec) : List SvRec → List SvRec
  | [] => [r]
  | x :: xs => if x.tag ≤ r.tag then r :: x :: xs else x :: svInsert r xs

/-- WAIT_US in counter units. -/
def svWait (s : State) (i : Nat) : Nat := min 10000 ((s.cfg.scales.svs[i]?.map SvScCfg.waitUs).getD 0) * 1000 * taiNsUnit

/-! Windows of the estimator (Table 6.4). -/

/-- f0 in Hz. -/
def f0Hz (s : State) : Nat := if rdB s MST_CFG 1 then 60 else 50

/-- The window's length in half cycles, and its half length in 1/f_e samples and shape. -/
def windowHalfCycles (s : State) (c : LsCfg) : Nat :=
  if c.mClass then 2 * max 2 (divRound (16 * f0Hz s) (5 * atLeast 1 s.cfg.tabRate))
  else if c.window = 0 then 4 else if c.window = 1 then 2 else 1

def windowHalf (s : State) (c : LsCfg) : Nat := windowHalfCycles s c * 9600 / (4 * f0Hz s)

def windowShape (c : LsCfg) : Nat := if c.mClass then 2 else if c.window = 2 then 1 else 0

/-- The time of offset `k` of an estimate at `t`. -/
def offsetTime (t : Nat) (k : Int) : Nat := ((t : Int) + k * (taiSecUnit : Int) / 9600).toNat

/-- The channels of a phasor. -/
def srcQtys : PhSrc → List Nat
  | .chan q => [q]
  | .seq _ a b c => [a, b, c]

def anQty : AnSrc → Nat
  | .rms q => q
  | .mean q => q

/-- The quantities of a local stream. -/
def lsQtys (c : LsCfg) : List Nat := c.phasors.flatMap srcQtys ++ srcQtys c.source ++ c.analogs.map anQty

/-- The time at which the first estimate of a local stream that needs a sample of tag `g` needs it: the end of that
estimate's window. -/
def windowNeeds (s : State) (c : LsCfg) (g : Nat) : Nat :=
  let r := atLeast 1 s.cfg.tabRate
  let first := offsetTime g (-((windowHalf s c + 4 : Nat) : Int))
  offsetTime (gridTime r (divUp (first * r) taiSecUnit)) (windowHalf s c + 4 : Nat)

/-- The deadline of R162: the earliest such time of the local streams that use the subscription; its own tag for one
that none uses (notes/assumptions/45.md). -/
def svDeadline (s : State) (i g : Nat) : Nat :=
  let mine := s.cfg.scales.ls.filter (fun p => (lsQtys p.2).any (fun q => decide ((svOfQty s q).map (fun x => x.1) = some i)))
  match mine.map (fun p => windowNeeds s p.2 g) with
  | [] => g
  | x :: xs => xs.foldl min x

/-- R162: a sample that arrives by its deadline plus WAIT_US is kept; a later one is counted and treated as missing.
Samples whose wait has passed settle. -/
def svArrive (n : Nat) (r : SvRec) (arrival : Nat) (s : State) : State :=
  match (List.range s.cfg.scales.svs.length).find? (fun i => decide (s.cfg.scales.svs[i]?.map SvScCfg.sub = some n)) with
  | none => s
  | some i =>
    if svDeadline s i r.tag + svWait s i < arrival then
      raise SCL_INT 5 (svCounts n (fun x => { x with late := satAdd x.late 1 0xFFFFFFFF }) s)
    else
      let x := svHist s i
      svSettle i (fun y => decide (svDeadline s i y.tag + svWait s i ≤ s.tai))
        (setSvHist i { x with pend := svInsert r x.pend } s)

/-! SYNC (R158 to R160). -/

/-- A request of a SYNC from source 1 pin, 2 command, 3 schedule, with the counter at its tick (R58). -/
def syncRequest (src : Nat) (s : State) : State := setScales (fun x => { x with syncReq := x.syncReq ++ [(src, s.tai)] }) s

/-- SCL_STATUS.SETTLING: any enabled channel settles. -/
def settleStatus (s : State) : State :=
  setStat SCL_STATUS 2 ((List.range 24).any (fun ch => chEnabled s ch && rdB s (SCL_CH_STAT ch) 0)) s

/-- A channel settles again; the decimator starts from zero at a SYNC. -/
def startSettling (ch : Nat) (s : State) : State :=
  settleStatus (setStat (SCL_CH_STAT ch) 0 true (setChan ch { chan s ch with settleAt := s.scales.modTime } s))

/-- R160: the settling time has passed. -/
def settleDone (s : State) (ch : Nat) : Bool :=
  decide ((chan s ch).settleAt + settlePeriods s ch * modPeriod ≤ s.scales.modTime)

/-- A SYNC clears the integrators, combs and FIR history of an enabled decimator. -/
def syncChan (ch : Nat) (s : State) : State :=
  if chEnabled s ch then
    startSettling ch (setChan ch { chan s ch with integ := [], comb := [], cic := [], fresh := true } s)
  else s

/-- LAST_SRC: 2 when a command and another source coincided; the pin and the schedule together: a free value. -/
def syncSource (s : State) (l : List Nat) : Nat :=
  if 2 ∈ l then 2 else if 1 ∈ l ∧ 3 ∈ l then Config.syncSrc s.free else l.headD 0

/-- The SYNC that the requests make at a MOD edge: MOD is aligned, the decimators restart, the edge is stamped. -/
def syncApply (s : State) : State :=
  if s.scales.syncReq = [] then s
  else
    let t := forUpTo 24 syncChan s
    let u := wrF SCL_STATUS 4 2 (syncSource t (t.scales.syncReq.map (fun r => r.1))) (setStat SCL_STATUS 1 true t)
    let v := wr SCL_SYNC_SEC (loWord (taiSec u)) (wr SCL_SYNC_NS (wordOf (taiNs u)) u)
    raise SCL_INT 0 (drawFree (setScales (fun x => { x with syncReq := [] }) v))

/-! An output sample (R157, R161, R166, R169). -/

/-- The tag: the MOD edge less the group delay and tau_f, at the Mast's 2^-16 ns. -/
def outputTag (s : State) (ch : Nat) : Nat :=
  (((s.tai : Int) - (groupDelay s ch : Int) - sWord (fcal s ch 2) * 2 ^ 20).toNat) / 2 ^ 12 * 2 ^ 12

/-- The raw output exceeds OVR_PCT per cent of full scale. -/
def isOvr (s : State) (ch : Nat) (raw : Int) : Bool :=
  decide (rdF s (SCL_CH_CFG ch) 16 7 * 2 ^ 31 < 100 * raw.natAbs)

/-- An OVR sample: its sticky bit, its count and the interrupt. -/
def markOvr (ch : Nat) (s : State) : State :=
  raise SCL_INT 2 (wrF (SCL_CH_STAT ch) 16 16 (satAdd (rdF s (SCL_CH_STAT ch) 16 16) 1 65535)
    (setStat (SCL_CH_STAT ch) 1 true s))

/-- The samples of a channel that are kept: 8 s. -/
def keepScales (l : List ScSample) : List ScSample :=
  let t := ((l.head?).map ScSample.tag).getD 0
  l.filter (fun x => decide (t ≤ x.tag + 8 * taiSecUnit))

/-- The waveform samples kept: 100 ms. -/
def keepWaves (l : List ScSample) : List ScSample :=
  let t := ((l.head?).map ScSample.tag).getD 0
  l.filter (fun x => decide (t ≤ x.tag + taiSecUnit / 10))

/-- The waveform sample that the newest output completes (R169): the samples delayed by D, tagged with the tag of the
sample 8 back plus 8 / f_o. -/
def waveSample (s : State) (ch : Nat) (hist : List ScSample) : Option ScSample :=
  let d := rdF s (SCL_CH_FDLY ch) 0 14
  match hist[8]?, hist[d / 1024]? with
  | some a, some b =>
    let next := if d % 1024 = 0 then 0 else ((hist[d / 1024 + 1]?).map ScSample.mark).getD 0
    let tag := a.tag + 8 * taiSecUnit / atLeast 1 (localRate s ch)
    some { tag := tag, turn := cycleTurn s tag, mark := b.mark ||| next,
           x := if d % 1024 = 0 then b.x else Config.fracDelay (hist.map ScSample.x) d }
  | _, _ => none

/-- SCL_CH_RMS at the end of a cycle. -/
def rmsRegister (ch : Nat) (hist : List ScSample) (s : State) : State :=
  match hist with
  | a :: b :: _ =>
    let n := wholeN (hist.map ScSample.turn)
    if a.turn = b.turn ∨ n = 0 then s
    else
      let xs := (hist.drop 1).take n
      let sq := (xs.map (fun x => x.x.natAbs * x.x.natAbs)).sum
      wr (SCL_CH_RMS ch) (f32OfRat (isqrt (sq / n) : Nat) (2 ^ 91)) s
  | _ => s

/-- The channels of a local point. -/
def pointChans (s : State) (k : Nat) : List Nat :=
  let e := elements (ptWiring s k)
  (List.range e).map (fun j => rdF s (PT_CFG k) 4 5 + j) ++ (List.range e).map (fun j => rdF s (PT_CFG k) 9 5 + j)

/-- A local point meters once all its channels have a new waveform sample. -/
def localMeter (s : State) (k : Nat) : State :=
  if rdB s (PT_CFG k) 2 then s
  else
    let cs := pointChans s k
    let ready := cs.foldl (fun a ch => min a (chan s ch).count) (chan s (cs.headD 0)).count
    if ready ≤ (meter s k).done then s
    else
      let w := cs.map (fun ch => (chan s ch).waves.head?)
      let t := setMeter k { meter s k with done := ready } s
      if w.any Option.isNone then t
      else
        let xs := w.map (fun o => (o.map ScSample.x).getD 0)
        let e := elements (ptWiring s k)
        let tag := ((w.headD none).map ScSample.tag).getD 0
        let mark := (w.map (fun o => (o.map ScSample.mark).getD 0)).foldl (fun a b => a ||| b) 0
        meterSample k tag mark (xs.take e) (xs.drop e) t

/-- A completed output of channel `ch`: a waiting APPLY takes effect, then the sample is supervised, tagged, calibrated,
delayed and metered. -/
def channelOutput (ch : Nat) (bits : List Bool) (s : State) : State :=
  let d := decimate s ch bits
  let s0 := drawFree (setChan ch d.2 s)
  let s1 := if (chan s0 ch).take then applyUser ch s0 else s0
  let ovr := isOvr s1 ch d.1
  let s2 := if ovr then markOvr ch s1 else s1
  let tag := outputTag s2 ch
  let mark := b2n (rdB s2 (SCL_CH_STAT ch) 0) + 2 * b2n ovr + 4 * b2n (rdB s2 (SCL_CH_STAT ch) 2)
  let x := chan s2 ch
  let hist := keepScales ({ tag := tag, turn := cycleTurn s2 tag, x := calibrate s2 ch d.1 x, mark := mark } :: x.hist)
  let s3 := setChan ch { x with hist := hist, waves := keepWaves ((waveSample s2 ch hist).toList ++ x.waves), count := x.count + 1 } s2
  (enabledPoints s3).foldl localMeter (rmsRegister ch hist s3)

/-! Estimates (R170 to R178). -/

/-- The weight at offset `k` of a window of shape and half length `h` (Table 6.4), in 2^-32: triangular, Hann, and the
Hamming-weighted low-pass of cutoff r_tab / 5. DESIGN CHOICE (notes/assumptions/45.md): the first two reach 0 one
sample beyond the ends. -/
def estWeight (shape h : Nat) (k : Int) (r : Nat) : Int :=
  let cosOf := fun (num : Int) (den : Nat) => (cosSin (num * (piFix : Int) / (atLeast 1 den : Nat))).1
  if shape = 0 then ((h + 1 - k.natAbs : Nat) : Int) * 2 ^ 32 / (h + 1 : Nat)
  else if shape = 1 then (2 ^ 80 + cosOf k (h + 1)) / 2 ^ 49
  else
    let x := 2 * k * (r : Int) * (piFix : Int) / 48000
    let sinc : Int := if x = 0 then 2 ^ 32 else (cosSin x).2 * 2 ^ 32 / x
    sinc * (54 * 2 ^ 80 + 46 * cosOf k h) / (100 * 2 ^ 80)

/-- The resampled value at a TAI time (R170): the samples within the group delay of 0.5 ms on either side, by a
response of linear phase that passes a constant unchanged. -/
def resample (data : List (Nat × Int)) (t : Nat) : Int :=
  let near := data.filterMap (fun p =>
    let d := if p.1 ≤ t then t - p.1 else p.1 - t
    if 2000 * d ≤ taiSecUnit then some (Config.resampleTap d, p.2) else none)
  let w := (near.map (fun p => p.1)).sum
  if w = 0 then 0 else (near.map (fun p => p.1 * p.2)).sum / w

/-- The samples of a quantity, newest first. -/
def qtySamples (s : State) (q : Nat) : List ScSample :=
  if q < 24 then (chan s q).hist
  else match svOfQty s q with
    | some (i, ch) => svSamples s i ch
    | none => []

/-- The samples in the window of half length `h` around `t`. -/
def inWindow (t h : Nat) (xs : List ScSample) : List ScSample :=
  xs.filter (fun x => decide (offsetTime t (-(h : Int)) ≤ x.tag ∧ x.tag ≤ offsetTime t h))

/-- X_est at `t` in units of 2^-91: the sum of R171. -/
def rawPhasor (s : State) (c : LsCfg) (xs : List ScSample) (t : Nat) : Int × Int :=
  let h := windowHalf s c
  let data := xs.map (fun x => (x.tag, x.x))
  let ks := (List.range (2 * h + 1)).map (fun (i : Nat) => (i : Int) - (h : Int))
  let wt := fun k => estWeight (windowShape c) h k s.cfg.tabRate
  let sum := ks.foldl (fun (a : Int × Int) k =>
    let tk := offsetTime t k
    let ph := cosSin (2 * (piFix : Int) * ((f0Hz s * (tk % taiSecUnit) : Nat) : Int) / (taiSecUnit : Int))
    let v := resample data tk * wt k
    (a.1 + v * ph.1 / 2 ^ 80, a.2 - v * ph.2 / 2 ^ 80)) (0, 0)
  let w := atLeast 1 ((ks.map wt).sum.toNat)
  let root2 : Int := isqrt (2 ^ 161)
  (sum.1 * root2 / 2 ^ 80 / (w : Int), sum.2 * root2 / 2 ^ 80 / (w : Int))

/-- The rotation by an angle of 2^-32 turn. -/
def rotate (a : Int) (z : Int × Int) : Int × Int :=
  let c := cosSin (2 * (piFix : Int) * a / 2 ^ 32)
  ((z.1 * c.1 - z.2 * c.2) / 2 ^ 80, (z.1 * c.2 + z.2 * c.1) / 2 ^ 80)

/-- R166: X_est M_f M_u at the angle phi_f + phi_u; for SV quantities M_f is 1 and phi_f 0. -/
def correct (s : State) (q : Nat) (z : Int × Int) : Int × Int :=
  let u := pqOf s q
  let mf : Int := if q < 24 then (fcal s q 3).toNat else 2 ^ 30
  let pf : Int := if q < 24 then sWord (fcal s q 4) else 0
  let y := rotate (pf + sWord u.2) z
  (y.1 * mf * (u.1.toNat : Int) / 2 ^ 60, y.2 * mf * (u.1.toNat : Int) / 2 ^ 60)

/-- A channel's phasor at `t`. -/
def chanPhasor (s : State) (c : LsCfg) (q t : Nat) : Int × Int := correct s q (rawPhasor s c (qtySamples s q) t)

/-- A phasor of a stream; sequence components by R172, over three. -/
def srcPhasor (s : State) (c : LsCfg) (t : Nat) : PhSrc → Int × Int
  | .chan q => chanPhasor s c q t
  | .seq k a b d =>
    let x := chanPhasor s c a t
    let y := chanPhasor s c b t
    let z := chanPhasor s c d t
    let sum := if k = 0 then cAdd x (cAdd y z)
      else if k = 1 then cAdd x (cAdd (turn120 false y) (turn120 true z))
      else cAdd x (cAdd (turn120 true y) (turn120 false z))
    (sum.1 / 3, sum.2 / 3)

/-- Frequency and ROCOF of R172 from the source's angles at t - delta, t and t + delta, delta = 4 / f_e. -/
def freqRocof (s : State) (c : LsCfg) (t : Nat) : Word × Word :=
  let ang := fun (k : Int) =>
    let z := srcPhasor s c (offsetTime t k) c.source
    angleOf z.1 z.2
  let turns := fun (a b : Nat) => signedN ((a + 2 ^ 32 - b) % 2 ^ 32) 32
  let up := turns (ang 4) (ang 0)
  let dn := turns (ang 0) (ang (-4))
  (f32OfRat ((f0Hz s : Int) * 2 ^ 32 * 8 + (up + dn) * 9600) (2 ^ 35), f32OfRat ((up - dn) * 9600 * 9600) (2 ^ 36))

/-- The samples of the latest whole cycle of the cycle clock that ends by `t`. -/
def lastCycle (s : State) (t q : Nat) : List ScSample :=
  (qtySamples s q).filter (fun x => decide (x.turn + 1 = cycleTurn s t))

/-- An analogue value: the RMS over the latest whole cycle that ends by `t`, or the mean over the window, binary32 of full
scale. -/
def anValue (s : State) (c : LsCfg) (t : Nat) : AnSrc → Word
  | .rms q =>
    let xs := lastCycle s t q
    f32OfRat (isqrt ((xs.map (fun x => x.x.natAbs * x.x.natAbs)).sum / atLeast 1 xs.length) : Nat) (2 ^ 91)
  | .mean q =>
    let xs := inWindow t (windowHalf s c) (qtySamples s q)
    f32OfRat ((xs.map (fun x => x.x)).sum) (2 ^ 91 * atLeast 1 xs.length)

/-- A commit lies between two times, by the time before it or after it (R178): the mark 64. -/
def commitMark (s : State) (a b : Nat) : Nat :=
  64 * b2n (s.scales.commits.any (fun p => decide ((a ≤ p.1 ∧ p.1 ≤ b) ∨ (a ≤ p.2 ∧ p.2 ≤ b))))

/-- The marks of a quantity's samples over the span from `a` to `b`, a gap of its subscription (R163) and a commit in
the span. -/
def spanMarks (s : State) (q a b : Nat) (xs : List ScSample) : Nat :=
  let gap := match svOfQty s q with
    | some (i, _) => decide (24 ≤ q) && svGapIn s i a b
    | none => false
  (xs.map ScSample.mark).foldl (fun x m => x ||| m) (8 * b2n gap + commitMark s a b)

/-- The marks in a quantity's window, widened by `h` on either side. -/
def qtyMarks (s : State) (c : LsCfg) (t h q : Nat) : Nat :=
  let n : Int := (windowHalf s c + h : Nat)
  spanMarks s q (offsetTime t (-n)) (offsetTime t n) (inWindow t (windowHalf s c + h) (qtySamples s q))

/-- The marks of an analogue value: of its whole cycle, or of the window. -/
def anMarks (s : State) (c : LsCfg) (t : Nat) : AnSrc → Nat
  | .rms q =>
    let xs := lastCycle s t q
    spanMarks s q ((xs.getLast?).map ScSample.tag |>.getD t) ((xs.head?).map ScSample.tag |>.getD t) xs
  | .mean q => qtyMarks s c t 0 q

/-- A quantity of these channels is INVALID, or TIME_SUSPECT from its subscription or a commit. -/
def marksInvalid (m : Nat) : Bool := decide (m % 32 ≠ 0)
def marksSuspect (m : Nat) : Bool := m.testBit 5 || m.testBit 6

/-- The instant lies in the span that a forward step skipped (R178). -/
def inSkipped (s : State) (t : Nat) : Bool := s.scales.commits.any (fun p => decide (p.1 < t ∧ t < p.2))

/-- The status word of Table 6.6. -/
def lsStatus (s : State) (m : Nat) : Nat :=
  b2n (m.testBit 0) + 2 * b2n (m.testBit 1) + 4 * b2n (m.testBit 2) + 8 * b2n (m.testBit 3) + 16 * b2n (m.testBit 4)
    + 32 * b2n (fcalBad s) + 64 * b2n (m.testBit 6) + 128 * b2n (!rdB s SCL_STATUS 1)

/-- The stream number of local stream `i` (R175). -/
def lsStream (s : State) (i : Nat) : Nat := if isM4k s then 4032 + i else 16320 + i

/-- The slot of an estimate (R176, R177). -/
def lsSlot (s : State) (c : LsCfg) (inst t : Nat) : Slot :=
  let one := fun (qs : List Nat) (e : Nat) => (qs.map (qtyMarks s c t e)).foldl (fun a b => a ||| b) 0
  let ph := c.phasors.map (fun p => one (srcQtys p) 0)
  let fr := one (srcQtys c.source) 4
  let an := c.analogs.map (anMarks s c t)
  let marks := ph ++ [fr, fr] ++ an
  let all := marks.foldl (fun a b => a ||| b) 0
  let usesLocal := (lsQtys c).any (fun q => decide (q < 24))
  let f := freqRocof s c t
  let word := fun (z : Int × Int) => (f32OfRat z.1 (2 ^ 91), f32OfRat z.2 (2 ^ 91))
  { instant := inst, arrival := s.tai, invalid := fcalBad s && usesLocal, suspect := timeSuspect s,
    phasors := c.phasors.map (fun p => word (srcPhasor s c t p)), freq := f.1, rocof := f.2,
    analogs := c.analogs.map (anValue s c t),
    digitals := BitVec.ofNat 16 (lsStatus s all) :: (List.range (c.digitals - 1)).map (fun _ => 0#16),
    chanInvalid := marks.map marksInvalid, chanSuspect := marks.map marksSuspect }

/-- The SV subscriptions a local stream uses settle up to the end of its window. -/
def lsSettle (c : LsCfg) (t : Nat) (s : State) : State :=
  ((lsQtys c).filterMap (fun q => if q < 24 then none else svOfQty s q)).foldl
    (fun u p => svWindowEnd p.1 (offsetTime t (windowHalf s c + 4 : Nat)) u) s

/-- L of a channel, and of a local stream, in counter units (R173). -/
def qtyLatency (s : State) (c : LsCfg) (q : Nat) : Nat :=
  let own := if q < 24 then groupDelay s q else match svOfQty s q with
    | some (i, _) => svWait s i
    | none => 0
  own + windowHalfCycles s c * taiSecUnit / (4 * f0Hz s) + 4 * taiSecUnit / 9600 + 600000 * taiNsUnit

def lsLatency (s : State) (c : LsCfg) : Nat := ((lsQtys c).map (qtyLatency s c)).foldl max 0

/-- R173, R176: the estimate of local stream `i` for an instant, complete L after it, goes into its stall slot and to
the Market. No instant is estimated twice, and none of a skipped span (R178). -/
def estimate (i inst : Nat) (s : State) : State :=
  match (s.cfg.scales.ls.find? (fun p => decide (p.1 = i))).map (fun p => p.2), streamCfg s (lsStream s i) with
  | some c, some sc =>
    let t := gridTime (atLeast 1 s.cfg.tabRate) inst
    let seen := match tget none s.scales.lsLast i with
      | some l => decide (inst ≤ l)
      | none => false
    if seen || inSkipped s t || decide (s.tai < t + lsLatency s c) then s
    else
      let s1 := lsSettle c t s
      let v := lsSlot s1 c inst t
      let n := lsStream s i
      let inv := v.invalid || v.chanInvalid.any (fun b => b)
      let s2 := setScales (fun x => { x with
        lsLast := tset none x.lsLast i (some inst),
        lsStat := tset 0#32 x.lsStat i (wordOf (b2n v.suspect + 2 * b2n inv + 2 ^ 16 * (v.digitals.headD 0#16).toNat)) }) s1
      let s3 := setStream n (putSlot s sc v (streamSt s2 n)) s2
      count evSCL_ESTIMATES 1 (handOver n inst v (measureStream n sc ((s3.tai : Int) - (t : Int)) s3))
  | _, _ => s

/-- A backward step (R178): the samples whose tags the new time will give again are dropped. A step marks the intervals. -/
def scalesStep (old new : Nat) (s : State) : State :=
  let t := setScales (fun x => { x with commits := lastN 8 (x.commits ++ [(old, new)]) }) s
  let u := stepPoints t
  if old ≤ new then u
  else setScales (fun x => { x with
    chans := x.chans.map (fun p => (p.1, { p.2 with
      hist := p.2.hist.filter (fun y => decide (y.tag < new)) })),
    svs := x.svs.map (fun p => (p.1, { p.2 with
      pend := p.2.pend.filter (fun y => decide (y.tag < new)), hist := p.2.hist.filter (fun y => decide (y.tag < new)) })) }) u

/-- A channel at a start of the Scales: nothing of its past; over a resumption the user values in force, and an APPLY
that waits, stay. -/
def chanStart (resume : Bool) (x : Chan) : Chan :=
  if resume then { ugain := x.ugain, uofs := x.uofs, udly := x.udly, take := x.take } else {}

/-- The image's user values in force (R165): at a start and a full activation, with nothing staged. -/
def userStart (s : State) : State :=
  wr SCL_CAL_PEND 0#32 (calBusy (forUpTo 24 takeUser (setScales (fun x => { x with
    pq := s.cfg.scales.pq.foldl (fun m p => tset (0x40000000#32, 0#32) m p.1 p.2) [],
    svGain := s.cfg.scales.svGain.foldl (fun m p => tset (0x40000000#32, 0#32) m p.1 p.2) [] }) s)))

/-- At start and resumption (R159): the decimators run with an arbitrary phase and every channel settles; the user
values are the image's, or over a resumption those in force. -/
def scalesStart (resume : Bool) (s : State) : State :=
  let t0 := setScales (fun x => { x with
    syncReq := [], chans := (x.chans.map (fun p => (p.1, chanStart resume p.2))).filter (fun p => decide (p.2 ≠ {})), svs := [],
    lsLast := [], bootSync := false, fallback := false }) s
  let t := if resume then t0 else userStart t0
  let u := setEnergy (fun e => { e with
    points := e.points.map (fun p => (p.1, { p.2 with hist := [], done := 0, closing := none })) }) t
  settleStatus (setStat SCL_STATUS 0 true (setStat SCL_STATUS 1 false
    (forUpTo 24 (fun ch v => if chEnabled v ch then startSettling ch v else v) u)))

end Sys2Proof.Machine
end

