-- ==== Sys2Proof/Machine/CaptureOps.lean ====
section
/-!
DEFINITION. Disturbance capture as shared operations (R199 to R220): the record samples, the sources and their events, the
sequencer, the record that runs and the store.
-/

namespace Sys2Proof.Machine

open Sys2Proof

def setCap (f : Capture → Capture) (s : State) : State := { s with cap := f s.cap }

/-- Count in CAP_CNT. -/
def capCount (k n : Nat) (s : State) : State := count (CAP_CNT (2 * k)) n s

abbrev cRECORDS : Nat := 0
abbrev cRETRIGGERS : Nat := 1
abbrev cMISSED : Nat := 2
abbrev cFULL_REFUSED : Nat := 3
abbrev cSHED_REFUSED : Nat := 4
abbrev cGAPS : Nat := 5
abbrev cGAP_SAMPLES : Nat := 6
abbrev cBELL_FALLS : Nat := 7

/-- A stamp in units of 0.25 ns (R210). -/
def quarterNs (t : Nat) : Nat := t / 2 ^ 26

/-- f_r, and the spacing of record samples in counter units. -/
def recRate (s : State) : Nat := atLeast 1 (rd s CAP_RATE).toNat
def recSpacing (s : State) : Nat := taiSecUnit / recRate s

/-- One turn of the cycle clock. -/
def turnUnit : Int := 2 ^ 64

/-! Record samples (R199, R200). -/

/-- The layout's channels. -/
def capChans (s : State) : List CapChan := s.cfg.cap.chans.take (rdF s CAP_CFG 0 7)

/-- A value in Q1.31; one outside the format is free. -/
def q31 (x : Int) : Int :=
  let v := x / 2 ^ 60
  if -(2 ^ 31) ≤ v ∧ v < 2 ^ 31 then v else Config.q31Over v

/-- The samples of an SV subscription that capture can see: its own, or those of the Scales. -/
def capSvList (s : State) (sub : Nat) : List (Nat × List (Int × Bool)) :=
  match (List.range s.cfg.scales.svs.length).find? (fun i => decide (s.cfg.scales.svs[i]?.map SvScCfg.sub = some sub)) with
  | some i => ((svHist s i).pend ++ (svHist s i).hist).map (fun r => (r.tag, r.channels))
  | none => ((s.cap.svIn.filter (fun x => decide (x.sub = sub))).map (fun x => (x.tag, x.channels))).reverse

/-- The SV sample at a tag: within half a spacing. -/
def capSvAt (s : State) (sub tag : Nat) : Option (List (Int × Bool)) :=
  ((capSvList s sub).find? (fun p => decide (2 * (if p.1 ≤ tag then tag - p.1 else p.1 - tag) < recSpacing s))).map (fun p => p.2)

/-- The waveform sample of a local channel at a tag: within half a spacing. -/
def waveAt (s : State) (ch tag : Nat) : Option ScSample :=
  (chan s ch).waves.find? (fun w => decide (2 * (if w.tag ≤ tag then tag - w.tag else w.tag - tag) < recSpacing s))

/-- A channel's value at a tag, in Q1.31; none: the sample is not there. In Reefed, channels that are no current channels
record 0 (R215). -/
def capValue (s : State) (tag : Nat) (c : CapChan) : Option Int :=
  match c.src with
  | .localChan ch =>
    if s.cap.reefed && decide (rdF s (SCL_CH_CFG ch) 8 2 ≠ 1) then some 0
    else (waveAt s ch tag).map (fun w => q31 w.x)
  | .sv sub ch scale =>
    if s.cap.reefed then some 0
    else (capSvAt s sub tag).map (fun xs =>
      let v := (xs.getD ch (0, true)).1
      match (List.range s.cfg.scales.svs.length).find? (fun i => decide (s.cfg.scales.svs[i]?.map SvScCfg.sub = some sub)) with
      | some i => q31 (svCalib s i ch v)
      | none => q31 (divRoundInt (v * 2 ^ 31) (atLeast 1 scale) * 2 ^ 60))

/-- The first local channel of the layout. -/
def capLocal (s : State) : Option Nat :=
  (capChans s).findSome? (fun c => match c.src with
    | .localChan ch => some ch
    | .sv _ _ _ => none)

/-- The next output of a local channel that no record sample has taken: the outputs taken with it, and its tag. -/
def nextWave (s : State) (ch : Nat) : Option (Nat × Nat) :=
  let x := chan s ch
  let k := max (s.cap.taken + 1) (x.count + 1 - x.waves.length)
  if k ≤ x.count then (x.waves[x.count - k]?).map (fun w => (k, w.tag)) else none

/-- The next tag of an all-SV layout: one spacing after the last one, or the oldest sample after the point to go on from. -/
def nextSvTag (s : State) : Option Nat :=
  match s.cap.svFrom, (capChans s).head? with
  | some a, _ => some (gridTime (recRate s) ((a * recRate s + taiSecUnit / 2) / taiSecUnit + 1))
  | none, some c => (match c.src with
    | .sv sub _ _ => ((capSvList s sub).getLast?).map (fun p => p.1)
    | .localChan _ => none)
  | none, none => none

/-- The next record sample: how many outputs of the first local channel are taken with it, and its tag. -/
def capNext (s : State) : Option (Nat × Nat) :=
  match capLocal s with
  | some ch => nextWave s ch
  | none => (nextSvTag s).map (fun t => (0, t))

/-- A sample that still misses a channel waits for LAT_US after its tag (R220). -/
def capWaited (s : State) (tag : Nat) : Bool := decide (tag + rdF s CAP_LAT 0 16 * 1000 * taiNsUnit ≤ s.tai)

/-- A Mast step: an SV layout goes on from the new time. -/
def capStep (s : State) : State := setCap (fun c => { c with svFrom := c.svFrom.map (fun _ => s.tai) }) s

/-! Levels and events (R201, R202, R211). -/

def capLevel (s : State) (src : Nat) : Bool := tget false s.cap.levels src

def setLevel (src : Nat) (b : Bool) (s : State) : State :=
  setCap (fun c => { c with levels := tset false c.levels src b }) s

/-- In Reefed every source but a comparator on a current channel reads false (R215). -/
def srcLive (s : State) (src : Nat) : Bool :=
  !s.cap.reefed || (decide (src < 32) && (match (capChans s)[rdF s (CAP_TH_CFG src) 0 6]? with
    | some c => (match c.src with
      | .localChan ch => decide (rdF s (SCL_CH_CFG ch) 8 2 = 1)
      | .sv _ _ _ => false)
    | none => false))

/-- Insert a change in the order of its time, after those at the same time. -/
def insertEv (e : CapEv) : List CapEv → List CapEv
  | [] => [e]
  | x :: xs => if e.time < x.time then e :: x :: xs else x :: insertEv e xs

/-- The changes whose time is at or before a tag, in time order. -/
def evDue (s : State) (tag : Nat) : List CapEv :=
  (s.cap.ev.filter (fun e => decide (e.time ≤ tag))).foldl (fun l e => insertEv e l) []

/-- A change takes effect: the new level, and the source's event on a rise. -/
def takeEv (p : State × List (Nat × Nat)) (e : CapEv) : State × List (Nat × Nat) :=
  let old := capLevel p.1 e.src
  let t := setLevel e.src e.level p.1
  if (e.edge || (e.level && !old)) && !e.quiet && srcLive t e.src then (t, p.2 ++ [(e.src, e.time)]) else (t, p.2)

/-- The RMS of a channel over `n` samples of the history, squared and times n. -/
def capSq (ch n : Nat) (rows : List CapRow) : Nat :=
  ((rows.take n).map (fun r => (r.vals.getD ch 0).natAbs * (r.vals.getD ch 0).natAbs)).sum

/-- A comparator's measured value and its level, both in Q1.31 (R202): the sample, or the RMS over the latest n
samples, or the difference of two RMS values. -/
def thValue (s : State) (th n : Nat) : Int :=
  let ch := rdF s (CAP_TH_CFG th) 0 6
  let rms := fun (rows : List CapRow) => isqrt (capSq ch n rows / atLeast 1 n)
  match rdF s (CAP_TH_CFG th) 8 3 with
  | 1 | 2 => ((s.cap.hist.head?).map (fun r => r.vals.getD ch 0)).getD 0
  | 3 | 4 => rms s.cap.hist
  | 5 => ((rms s.cap.hist : Int) - (rms (s.cap.hist.drop n) : Int)).natAbs
  | _ => 0

/-- LEVEL in Q1.31 and HYST. -/
def thLevel (s : State) (th : Nat) : Int := f32Val (rd s (CAP_TH_LVL th)) * 2 ^ 31 / 2 ^ 149
def thHyst (s : State) (th : Nat) : Int := (rdF s (CAP_TH_CFG th) 16 10 * 2 ^ 31 / 1000 : Nat)

/-- A comparator has its samples: the RMS kinds need n, DELTA 2n, and the newest one must not be missing. -/
def thReady (s : State) (th n : Nat) : Bool :=
  let kind := rdF s (CAP_TH_CFG th) 8 3
  let have0 := s.cap.hist.length
  !(((s.cap.hist.head?).map CapRow.missing).getD true)
    && (if kind = 3 ∨ kind = 4 then decide (0 < n ∧ n ≤ have0) else if kind = 5 then decide (0 < n ∧ 2 * n ≤ have0) else true)

/-- The comparator after a sample: true beyond the level, false only once it has passed back by HYST. -/
def thNext (s : State) (th n : Nat) (old : Bool) : Bool :=
  let v := thValue s th n
  let l := thLevel s th
  let kind := rdF s (CAP_TH_CFG th) 8 3
  if !thReady s th n then old
  else if kind = 2 ∨ kind = 4 then decide (v < l) || (old && decide (v < l + thHyst s th))
  else if kind = 1 ∨ kind = 3 ∨ kind = 5 then decide (l < v) || (old && decide (l - thHyst s th < v))
  else false

/-- The event time of a comparator that becomes true (R211). -/
def thTime (s : State) (th tag : Nat) : Nat :=
  let ch := rdF s (CAP_TH_CFG th) 0 6
  match rdF s (CAP_TH_CFG th) 8 3, s.cap.hist with
  | 1, a :: b :: _ | 2, a :: b :: _ =>
    let x := a.vals.getD ch 0
    let y := b.vals.getD ch 0
    if x = y then tag
    else ((b.tag : Int) + (recSpacing s : Int) * ((thLevel s th - y) * (x - y).sign) / ((x - y).natAbs : Int)).toNat
  | _, _ => tag

/-- The change of one comparator at a sample. -/
def thChange (s : State) (n tag th : Nat) : Option CapEv :=
  if rdF s (CAP_TH_CFG th) 8 3 = 0 then none
  else
    let old := capLevel s th
    let new := thNext s th n old
    if new = old then none
    else some { src := th, time := if new then thTime s th tag else tag, level := new, edge := false }

/-- The sources of a term, and its level. -/
def termSrcs (s : State) (k : Nat) : List Nat :=
  ((List.range 4).map (fun j => rdF s (CAP_TERM k) (7 * j) 7)).filter (fun x => decide (x ≤ 111))

def termLevel (s : State) (k : Nat) : Bool :=
  let l := (termSrcs s k).map (fun x => capLevel s x && srcLive s x)
  if rdB s (CAP_TERM k) 28 then decide (l ≠ []) && l.all (fun b => b) else l.any (fun b => b)

/-- A term after a change at `time`: the source rise that makes it true is its event's time (Table 8.1). -/
def termStep (time : Nat) (p : State × List (Nat × Nat)) (k : Nat) : State × List (Nat × Nat) :=
  let old := capLevel p.1 (112 + k)
  let new := termLevel p.1 k
  if new = old then p
  else
    let t := setLevel (112 + k) new p.1
    if new && !p.1.cap.reefed then (t, p.2 ++ [(112 + k, time)]) else (t, p.2)

def termSteps (time : Nat) (p : State × List (Nat × Nat)) : State × List (Nat × Nat) := (List.range 16).foldl (termStep time) p

/-- The changes of a sample in the order of their times, the terms after each. -/
def takeEvs (evs : List CapEv) (s : State) : State × List (Nat × Nat) :=
  evs.foldl (fun p e => termSteps e.time (takeEv p e)) (s, [])

/-- A schedule input is true for the one sample after its firing. -/
def schLow (s : State) : State := forUpTo 16 (fun k t => setLevel (96 + k) false t) s

/-- The status channels (R199): the pins of DIN0 to DIN15, then the levels of the image's sources. -/
def statusWord (s : State) : Word :=
  wordOf (((List.range 16).map (fun i => b2n (capLevel s (128 + i)) * 2 ^ i)).sum
    + ((List.range 16).map (fun i =>
        b2n (match s.cfg.cap.status[i]? with
          | some x => capLevel s x && srcLive s x
          | none => false) * 2 ^ (16 + i))).sum)

/-! The store (R213, R222). -/

/-- The bytes of a sample of `chans` channels, and of a record with `n` sample positions: header, gap table and samples. -/
def rowBytes (chans : Nat) : Nat := 4 * chans + 4
def capBytes (chans n : Nat) : Nat := 576 + n * rowBytes chans

def recordSize (r : CapRec) : Nat := capBytes r.layout.chans.length r.rows.length

def storeSize : Nat := 768 * 2 ^ 20

/-- The bytes held, the running record with what it has so far. -/
def storeUsed (s : State) : Nat := ((s.cap.recs ++ s.cap.run.toList).map recordSize).sum

/-- Samples in the latest whole cycle; 0: none is whole. -/
def capN (s : State) : Nat := wholeN (s.cap.hist.map (fun r => (r.pos / turnUnit).toNat))

/-- Samples of a turn: those of the latest whole cycle, before it those of a nominal one. -/
def turnSamples (s : State) : Nat := if capN s = 0 then divUp (recRate s) (f0Hz s) else capN s

def preCyc (s : State) : Nat := rdF s CAP_LEN 0 8
def rearmCyc (s : State) : Nat := rdF s CAP_LEN 8 8
def postCyc (s : State) : Nat := atLeast 1 (rdF s CAP_LEN 16 16)
def maxCyc (s : State) : Nat := rdF s CAP_MAXLEN 0 16

/-- The bytes a new record needs: PRE_CYC and POST_CYC turns at the present rate. -/
def recNeed (s : State) : Nat := capBytes (capChans s).length ((preCyc s + postCyc s) * turnSamples s)

/-- Release the oldest exported records until `need` fits (FULL = 1). -/
def releaseFor (need : Nat) : Nat → State → State
  | 0, s => s
  | f + 1, s =>
    if storeUsed s + need ≤ storeSize then s
    else match s.cap.recs.find? (fun r => r.exported && decide (s.cap.exporting ≠ some r.no)) with
      | none => s
      | some r => releaseFor need f (setCap (fun c => { c with recs := c.recs.filter (fun x => decide (x.no ≠ r.no)) }) s)

/-- Room for a new record under CAP_CFG.FULL; what is released when it still does not fit stays held. -/
def makeRoom (s : State) : Bool × State :=
  if storeUsed s + recNeed s ≤ storeSize then (true, s)
  else if rdB s CAP_CFG 9 then
    let t := releaseFor (recNeed s) s.cap.recs.length s
    if storeUsed t + recNeed t ≤ storeSize then (true, t) else (false, t)
  else (false, s)

/-! Flags of W1. -/

abbrev rSUSPECT : Nat := 0
abbrev rCYC : Nat := 1
abbrev rPRE_SHORT : Nat := 2
abbrev rRETRIG : Nat := 3
abbrev rTRUNC : Nat := 4
abbrev rSHED : Nat := 7
abbrev rREEFED : Nat := 8
abbrev rREEFED_CUT : Nat := 9
abbrev rBELL_IN : Nat := 10
abbrev rBELL_OUT : Nat := 11
abbrev rFORCED : Nat := 12
abbrev rFCAL : Nat := 13

def recFlag (b : Bool) (k : Nat) (r : CapRec) : CapRec := { r with flags := flagIf b k r.flags }

/-- TIME_SUSPECT and CYC_NOT_LOCKED from the samples a record contains (R216). -/
def rowFlags (rows : List CapRow) (r : CapRec) : CapRec :=
  recFlag (rows.any (fun x => x.suspect)) rSUSPECT (recFlag (rows.any (fun x => !x.locked)) rCYC r)

/-! Gaps (R212). -/

/-- The runs of missing samples, oldest first: first index and number. -/
def gapRuns : Nat → List CapRow → List (Nat × Nat)
  | _, [] => []
  | i, r :: rs =>
    let rest := gapRuns (i + 1) rs
    if r.missing then
      match rest with
      | (j, n) :: t => if j = i + 1 then (i, n + 1) :: t else (i, 1) :: rest
      | [] => [(i, 1)]
    else rest

/-- The table of 63 entries: further gaps are merged into the last, which then spans to the end of the latest gap. -/
def gapTable (rows : List CapRow) : List (Nat × Nat) :=
  let g := gapRuns 0 rows
  if g.length ≤ 63 then g
  else
    let a := g.getD 62 (0, 0)
    let z := g.getLastD (0, 0)
    g.take 62 ++ [(a.1, z.1 + z.2 - a.1)]

/-- The header of Table 8.3. -/
def headerWords (r : CapRec) : List Word :=
  let rows := r.rows.reverse
  let g := gapTable rows
  let missing := (rows.filter (fun x => x.missing)).length
  let ovf := decide (63 < (gapRuns 0 rows).length)
  let flags := flagIf (decide (g ≠ [])) 5 (flagIf ovf 6 r.flags)
  let ws := [wordOf r.no, wordOf flags, loWord (tagSec r.trig),
    wordOf (tagSec r.trig / 2 ^ 32 % 2 ^ 16 + 2 ^ 16 * r.src + 2 ^ 23 * r.state), wordOf (tagNs r.trig), wordOf r.frac,
    wordOf r.k, wordOf r.rate, wordOf rows.length, wordOf (r.layout.chans.length + 2 ^ 16 * g.length), wordOf missing,
    wordOf r.dead, wordOf r.missed,
    wordOf (match r.bell with
      | some b => tagNs b
      | none => 0),
    wordOf (match r.bell with
      | some b => tagSec b
      | none => 0)]
  ws ++ [crcWords ws]

/-! Starting and ending a record (R205 to R207, R209, R213). -/

/-- A refused trigger: its counter, REFUSED, and the next record's MISSED. -/
def refuse (k : Nat) (s : State) : State :=
  raise CAP_INT 3 (capCount k 1 (setCap (fun c => { c with refused := satAdd c.refused 1 0xFFFFFFFF }) s))

/-- k and phi of R209 over rows, newest first: the index from the oldest row and the 256ths. -/
def placeTrig (s : State) (te : Nat) (rows : List CapRow) : Nat × Nat :=
  let old := rows.reverse
  let k := (old.filter (fun r => decide (r.tag ≤ te))).length - 1
  let tk := ((old[k]?).map CapRow.tag).getD te
  let phi := divRound (256 * (te - tk)) (recSpacing s)
  if 256 ≤ phi then (k + 1, 0) else (k, phi)

/-- The samples of the history that a record for trigger time `te` takes, and whether they do not reach far enough
back: before the first whole cycle they never do. -/
def preRows (s : State) (te : Nat) : List CapRow × Bool :=
  let k := (placeTrig s te s.cap.hist).1
  let want := preCyc s * turnSamples s
  let drop := if want ≤ k ∧ capN s ≠ 0 then k - want else 0
  (s.cap.hist.take (s.cap.hist.length - drop), decide (k < want ∨ (capN s = 0 ∧ 0 < want)))

/-- Bell instant of a trigger by a bell line. -/
def bellOf (src te : Nat) : Option Nat := if src = 48 ∨ src = 49 then some te else none

/-- Gaps that join a record: counted, with the interrupt (R212). -/
def countGaps (gaps samples : Nat) (s : State) : State :=
  let t := capCount cGAP_SAMPLES samples s
  if gaps = 0 then t else raise CAP_INT 2 (capCount cGAPS gaps t)

/-- A record starts for an entry into `state` by source `src` at `te`. In Reefed it ends 20 turns after the trigger at the
latest. -/
def startRecord (src state te : Nat) (forced : Bool) (s : State) : State :=
  let room := makeRoom s
  let t := room.2
  if !room.1 then refuse cFULL_REFUSED t
  else
    let pre := preRows t te
    let pf := placeTrig t te pre.1
    let p0 := cyclePos t te
    let r : CapRec :=
      { no := t.cap.nextNo, flags := 0, trig := te, src := src, state := state, k := pf.1, frac := pf.2,
        dead := (rd t CAP_DEAD).toNat, missed := t.cap.refused, bell := bellOf src te, rows := pre.1,
        endPos := p0 + (postCyc t : Int) * turnUnit, maxPos := p0 + (maxCyc t : Int) * turnUnit,
        cutPos := if t.cap.reefed then some (p0 + 20 * turnUnit) else none,
        tq := tqReported t, utc := utcOffset t, leap := rdF t MST_UTC_OFS 16 2,
        layout := { t.cfg.cap with chans := capChans t }, rate := (rd t CAP_RATE).toNat, hz := f0Hz t }
    let r1 := recFlag pre.2 rPRE_SHORT (recFlag t.cap.shedSeen rSHED (recFlag t.cap.reefed rREEFED
      (recFlag (decide (src = 48 ∨ src = 49)) rBELL_IN (recFlag forced rFORCED (recFlag (fcalBad t) rFCAL (rowFlags pre.1 r))))))
    countGaps (gapRuns 0 pre.1.reverse).length (pre.1.filter (fun x => x.missing)).length
      (raise CAP_INT 0 (capCount cRECORDS 1 (setCap (fun c => { c with
        run := some r1, nextNo := (c.nextNo + 1) % 2 ^ 32, refused := 0, shedSeen := false }) t)))

/-- The record ends: it is stored, the sequencer goes to S0 at the next sample and the dead time begins. -/
def endRecord (r : CapRec) (s : State) : State :=
  let last := (r.rows.head?).getD { tag := r.trig, pos := cyclePos s r.trig, vals := [], status := 0#32, missing := false,
                                    suspect := false, locked := true }
  raise CAP_INT 1 (setCap (fun c => { c with
    run := none, recs := c.recs ++ [r], toS0 := true, deadPos := some (last.pos + (rearmCyc s : Int) * turnUnit),
    deadTag := some last.tag, lastEnd := some last.tag, wq := 0, resumed := false }) s)

/-- A trigger while a record runs (R206). -/
def retrigger (r : CapRec) (te : Nat) (s : State) : State :=
  let t := capCount cRETRIGGERS 1 s
  if !rdB t CAP_CFG 8 then t
  else
    let fin := cyclePos t te + (postCyc t : Int) * turnUnit
    setCap (fun c => { c with run := some (recFlag true rRETRIG { r with endPos := fin }) }) t

/-- A trigger of an armed sequencer. -/
def capTrigger (src state te : Nat) (forced : Bool) (s : State) : State :=
  match s.cap.run with
  | some r => retrigger r te s
  | none => startRecord src state te forced s

/-! The sequencer (R203 to R208). -/

/-- The sequencer is armed: ARM is set and no dead time runs. -/
def capArmed (s : State) : Bool := rdB s CAP_CTRL 0 && decide (s.cap.deadPos = none)

/-- A condition over this sample's events in time order: its counter, and the time of the event that satisfies it. -/
def condMeet (w : Word) (cnt : Nat) (evs : List (Nat × Nat)) : Nat × Option Nat :=
  if !bitAt w 7 then (cnt, none)
  else
    let ts := (evs.filter (fun e => decide (e.1 = field w 0 7))).map (fun e => e.2)
    let need := atLeast 1 (field w 16 16) - cnt
    if 0 < need ∧ need ≤ ts.length then (0, ts[need - 1]?) else (cnt + ts.length, none)

/-- The line is INOUT (CAP_BELL_CFG). -/
def bellInOut (s : State) (l : Nat) : Bool := decide (rdF s CAP_BELL_CFG (2 * l) 2 = 2)

/-- This module drives a line low (R217); the record that drove it takes the fall's instant. A drive in the pulse
under way is merged into it. -/
def driveBell (l : Nat) (s : State) : State :=
  if bellInOut s l then
    let t := setCap (fun c => { c with run := c.run.map (recFlag true rBELL_OUT) }) s
    if tget false s.cap.drive l then t
    else emit (.bell l true) (setCap (fun c => { c with
      drive := tset false c.drive l true, drove := tset none c.drove l (s.cap.run.map CapRec.no),
      driveAt := tset 0 c.driveAt l s.ticks }) t)
  else s

/-- The bells of an entry. -/
def driveBells (state : Nat) (s : State) : State :=
  let t := if rdB s (CAP_SX state) 1 then driveBell 0 s else s
  if rdB t (CAP_SX state) 2 then driveBell 1 t else t

/-- An entry into a state (R204, R205): counters and timer restart, a TRIG state triggers, the bells are driven. -/
def enterState (state src te : Nat) (pos : Int) (s : State) : State :=
  let t := setCap (fun c => { c with seq := state, cntA := 0, cntB := 0, entered := pos }) s
  let u := if rdB t (CAP_SX state) 0 then capTrigger src state te false t else t
  driveBells state u

/-- What the state's conditions and timer give at this sample, with the new counters: the next state, its source and
time. -/
def seqNext (state : Nat) (evs : List (Nat × Nat)) (tag : Nat) (pos : Int) (s : State) :
    (Nat × Nat) × Option (Nat × Nat × Nat) :=
  let wa := rd s (CAP_SA state)
  let wb := rd s (CAP_SB state)
  let a := condMeet wa s.cap.cntA evs
  let b := condMeet wb s.cap.cntB evs
  let timer := rdF s (CAP_ST state) 0 16
  ((a.1, b.1),
   match a.2, b.2 with
   | some t, _ => some (field wa 8 3, field wa 0 7, t)
   | none, some t => some (field wb 8 3, field wb 0 7, t)
   | none, none =>
     if 0 < timer ∧ s.cap.entered + (timer : Int) * 2 ^ 60 ≤ pos then some (rdF s (CAP_ST state) 16 3, 62, tag) else none)

/-- One step of an armed sequencer. -/
def seqStep (evs : List (Nat × Nat)) (tag : Nat) (pos : Int) (s : State) : State :=
  let r := seqNext s.cap.seq evs tag pos s
  match r.2 with
  | some (st, src, te) => enterState st src te pos s
  | none => setCap (fun c => { c with cntA := r.1.1, cntB := r.1.2 }) s

/-- A step whose entry into a TRIG state is refused and counted (R207, R208). -/
def seqRefuse (k : Nat) (evs : List (Nat × Nat)) (tag : Nat) (pos : Int) (s : State) : State :=
  let r := seqNext s.cap.seq evs tag pos s
  match r.2 with
  | some (st, src, te) =>
    if rdB s (CAP_SX st) 0 then
      refuse k (setCap (fun c => { c with cntA := 0, cntB := 0, entered := pos }) s)
    else enterState st src te pos s
  | none => setCap (fun c => { c with cntA := r.1.1, cntB := r.1.2 }) s

/-- A sequencer held in S0, by shedding, dead time or ARM clear: what the state it was in would enter is refused and
counted. -/
def seqHeld (k : Nat) (evs : List (Nat × Nat)) (tag : Nat) (pos : Int) (s : State) : State :=
  let r := seqNext s.cap.seq evs tag pos s
  let t := match r.2 with
    | some (st, _, _) =>
      let u := setCap (fun c => { c with cntA := 0, cntB := 0, entered := pos }) s
      if rdB u (CAP_SX st) 0 then refuse k u else u
    | none => setCap (fun c => { c with cntA := r.1.1, cntB := r.1.2 }) s
  if s.cap.seq = 0 then t else setCap (fun c => { c with seq := 0, cntA := 0, cntB := 0, entered := pos }) t

/-- FORCE at its sample: refused as any trigger; with a TRIG entry of the same sample there is one record. -/
def forceStep (tag : Nat) (before : Option Nat) (s : State) : State :=
  match s.cap.force with
  | none => s
  | some te =>
    if tag < te then s
    else
      let t := setCap (fun c => { c with force := none }) s
      if t.cap.shed then refuse cSHED_REFUSED t
      else if !capArmed t then refuse cMISSED t
      else if (t.cap.run.map CapRec.no) ≠ before then t
      else capTrigger 63 t.cap.seq te true t

/-! A record sample. -/

/-- The sample positions that a resumption passed over: missing samples up to the new one, by the turns between them. -/
def passedRows (s : State) (row : CapRow) (r : CapRec) : List CapRow :=
  match r.rows.head? with
  | none => []
  | some a =>
    let n := ((row.pos - a.pos) * (r.rate : Int) * 1000000000 / ((atLeast 1 s.mast.cyc.freq : Nat) * turnUnit) - 1).toNat
    (List.range n).reverse.map (fun i => { a with
      tag := a.tag + (i + 1) * recSpacing s, pos := a.pos + (row.pos - a.pos) * ((i : Int) + 1) / ((n : Int) + 1),
      missing := true })

/-- Samples join the record that runs, newest first; the first of them is a gap's unless the one before is missing too
(R212). -/
def joinRows (rows : List CapRow) (r : CapRec) (s : State) : State :=
  let before := ((r.rows.head?).map CapRow.missing).getD false
  let old := rows.reverse
  let gaps := (gapRuns 0 old).length - b2n (before && ((old.head?).map CapRow.missing).getD false)
  countGaps gaps (rows.filter (fun x => x.missing)).length
    (setCap (fun c => { c with run := some (rowFlags rows { r with rows := rows ++ r.rows }) }) s)

/-- The record that runs ends in the sample that reaches its limit (R200, R206, R215). -/
def recordLimits (pos : Int) (s : State) : State :=
  match s.cap.run with
  | none => s
  | some r =>
    let fin := match r.cutPos with
      | some c => min c r.endPos
      | none => r.endPos
    if fin ≤ pos ∧ fin ≤ r.maxPos then endRecord r s
    else if r.maxPos ≤ pos then endRecord (recFlag true rTRUNC r) s
    else s

/-- The sample joins the record that runs, unless the write queue is full (R212). An extension that meets the full
store ends the record there (R213). -/
def extendRecord (row : CapRow) (drained : Nat) (s : State) : State :=
  match s.cap.run with
  | none => s
  | some r =>
    let size := rowBytes r.layout.chans.length
    let left := s.cap.wq - drained
    let full := decide (65536 < left + size)
    if storeSize < storeUsed s + size then endRecord (recFlag true rTRUNC r) s
    else
      let t := setCap (fun c => { c with wq := if full then left else left + size, resumed := false }) s
      let passed := if s.cap.resumed then passedRows s row r else []
      recordLimits row.pos (joinRows ({ row with missing := row.missing || full } :: passed) r t)

/-- The dead time ends at the first sample at which the sequencer is armed again (R207); while shed it is not (R214). -/
def deadEnd (row : CapRow) (s : State) : State :=
  match s.cap.deadPos with
  | none => s
  | some p =>
    if p ≤ row.pos ∧ rdB s CAP_CTRL 0 ∧ ¬ s.cap.shed then
      let us := match s.cap.deadTag with
        | some t => min (tagUs t row.tag) 0xFFFFFFFF
        | none => 0
      let t := setCap (fun c => { c with deadPos := none, deadTag := none, seq := 0, cntA := 0, cntB := 0, entered := row.pos }) s
      wr CAP_DEAD (wordOf us) (wr CAP_DEAD_MAX (wordOf (max us (rd t CAP_DEAD_MAX).toNat)) t)
    else s

/-- The sequencer returns to S0 after a record's end or a RESET. -/
def backToS0 (row : CapRow) (s : State) : State :=
  if s.cap.toS0 then
    setCap (fun c => { c with toS0 := false, seq := 0, cntA := 0, cntB := 0, entered := row.pos }) s
  else s

/-- The history kept: the pre-trigger part and what the comparators take, plus three turns. -/
def keepRows (s : State) (l : List CapRow) : List CapRow :=
  match l with
  | [] => []
  | r :: _ => l.filter (fun x => decide (r.pos ≤ x.pos + ((preCyc s + 3 : Nat) : Int) * turnUnit))

/-- The sequencer's part in a record sample (R203, Table 8.2): shedding is judged at the start of the sample, and a
record that ends in it leaves a trigger to the dead time. -/
def capSequence (ended : Bool) (evs : List (Nat × Nat)) (row : CapRow) (s : State) : State :=
  if s.cap.shed then seqHeld cSHED_REFUSED evs row.tag row.pos s
  else if ended then seqRefuse cMISSED evs row.tag row.pos s
  else if capArmed s then seqStep evs row.tag row.pos s
  else seqHeld cMISSED evs row.tag row.pos s

/-- The row of a record sample, its status channels still 0. -/
def capRow (s : State) (tag : Nat) : CapRow :=
  let vals := (capChans s).map (capValue s tag)
  { tag := tag, pos := cyclePos s tag, vals := vals.map (fun v => v.getD 0), status := 0#32, missing := vals.any Option.isNone,
    suspect := timeSuspect s, locked := decide (s.mast.cyc.st = .locked) }

/-- Record sample j at its row (R203): the history takes it, its events are formed, the record that runs takes it, and
the sequencer makes its step. -/
def capTake (drained : Nat) (row0 : CapRow) (s : State) : State :=
  let tag := row0.tag
  let s0 := (termSteps tag (schLow s, [])).1
  let s1 := setCap (fun c => { c with hist := keepRows s0 (row0 :: c.hist) }) s0
  let ths := (List.range 32).filterMap (thChange s1 (capN s1) tag)
  let due := ths.foldl (fun l e => insertEv e l) (evDue s1 tag)
  let p := takeEvs due (setCap (fun c => { c with ev := c.ev.filter (fun e => !decide (e.time ≤ tag)) }) s1)
  let row := { row0 with status := statusWord p.1 }
  let s3 := setCap (fun c => { c with hist := row :: c.hist.drop 1 }) p.1
  let s4 := deadEnd row (backToS0 row s3)
  let s5 := extendRecord row drained s4
  let evs := (p.2.foldl (fun l e => insertEv { src := e.1, time := e.2, level := true, edge := true } l) []).map
    (fun e => (e.src, e.time))
  let ended := s4.cap.run.isSome && s5.cap.run.isNone
  forceStep tag (s5.cap.run.map CapRec.no) (capSequence ended evs row s5)

/-- The next record sample, once every channel has it or LAT_US has passed. In Reefed without REEFED_EN capture does
not run (R215). -/
def capSample (drained : Nat) (s : State) : State :=
  match capNext s with
  | none => s
  | some (k, tag) =>
    let row := capRow s tag
    if (s.cap.reefed && !rdB s CAP_CFG 10) || (row.missing && !capWaited s tag) then s
    else capTake drained row (setCap (fun c => { c with taken := k, svFrom := some tag }) s)

/-! Shedding and Reefed (R214, R215). -/

/-- Shedding begins or ends. The first record after it carries SHED, and its dead time runs from the end of the last
record before it. -/
def capShed (on : Bool) (s : State) : State :=
  setCap (fun c => { c with
    shed := on, shedSeen := c.shedSeen || on,
    deadPos := if on && c.deadPos.isNone then c.lastEnd.map (fun _ => cyclePos s s.tai) else c.deadPos,
    deadTag := if on && c.deadPos.isNone then c.lastEnd else c.deadTag }) s

/-- Reefed entry: a running record ends with REEFED_CUT, and the sequencer restarts in S0. -/
def capReef (s : State) : State :=
  let t := match s.cap.run with
    | some r => endRecord (recFlag true rREEFED_CUT r) s
    | none => s
  setCap (fun c => { c with reefed := true, seq := 0, cntA := 0, cntB := 0, entered := cyclePos s s.tai, toS0 := false }) t

/-- The peak of each channel and its instant, for the final flush: per channel the value and the tag. -/
def recPeaks (r : CapRec) (n : Nat) : List (Int × Nat) :=
  (List.range n).map (fun ch => r.rows.foldl (fun a x =>
    if a.1.natAbs < (x.vals.getD ch 0).natAbs then (x.vals.getD ch 0, x.tag) else a) (0, r.trig))

/-- The headers and peaks of the REEFED records as bytes. -/
def reefHeaders (s : State) : List Nat :=
  let rs := (s.cap.recs ++ s.cap.run.toList).filter (fun r => r.flags.testBit rREEFED)
  rs.flatMap (fun r => (headerWords r ++ (recPeaks r r.layout.chans.length).flatMap (fun p =>
    [wordOf (unsignedN p.1 32), loWord (tagSec p.2), wordOf (tagNs p.2)])).flatMap wordBytes)

/-- A write of ARM: 1 arms in S0, 0 holds disarmed (R203). -/
def captureArm (on : Bool) (s : State) : State :=
  let t := wrF CAP_CTRL 0 1 (b2n on) s
  if on && !rdB s CAP_CTRL 0 then
    setCap (fun c => { c with seq := 0, cntA := 0, cntB := 0, entered := cyclePos s s.tai }) t
  else if on then t
  else setCap (fun c => { c with seq := 0 }) t

/-- At start and at a resumption the history is empty, and the records stay (R467). Over a resumption a record that
runs goes on, with the dead time (R215). -/
def capStart (resume : Bool) (s : State) : State :=
  setCap (fun c =>
    let d : Capture := { recs := c.recs, nextNo := c.nextNo, refused := c.refused, lastEnd := c.lastEnd }
    if resume then { d with
      run := c.run, resumed := c.run.isSome, deadPos := c.deadPos, deadTag := c.deadTag, shedSeen := c.shedSeen,
      entered := cyclePos s s.tai }
    else { d with entered := cyclePos s s.tai }) s

end Sys2Proof.Machine
end

