-- ==== Sys2Proof/Machine/DeckOps.lean ====
section
/-!
DEFINITION. The Deck's scheduler and its restart as shared operations (R331 to R349): ready lists, dispatch, held posts, the
restart sequence and the performance counters.
-/

namespace Sys2Proof.Machine

open Sys2Proof

/-! Ready lists and dispatch (R332, R335). -/

/-- Put thread `t` of priority `p` at the tail (or the head) of its priority's list; `prio` gives the others'. -/
def readyInsert (prio : Nat → Nat) (head : Bool) (t : Nat) : List Nat → List Nat
  | [] => [t]
  | x :: r =>
    if prio x < prio t then t :: x :: r
    else if prio x = prio t ∧ head then t :: x :: r
    else x :: readyInsert prio head t r

def threadPrio (s : State) (t : Nat) : Nat := (thread s t).prio

/-- Thread `t` becomes READY. -/
def makeReady (head : Bool) (t : Nat) (s : State) : State :=
  setThread t { thread s t with st := .ready }
    { s with deck := { s.deck with ready := readyInsert (threadPrio s) head t s.deck.ready } }

def runningOn (s : State) (c : Nat) : Option Nat := tget none s.deck.running c

def setRunning (c : Nat) (t : Option Nat) (s : State) : State :=
  { s with deck := { s.deck with running := tset none s.deck.running c t } }

/-- The core is up and in the thread's affinity. -/
def coreAllows (s : State) (t c : Nat) : Bool := s.deck.coreUp.getLsbD c && (thread s t).affinity.getLsbD c

/-- The lowest-numbered idle core for `t`. -/
def idleCore? (s : State) (t : Nat) : Option Nat :=
  (List.range 4).find? (fun c => coreAllows s t c && decide (runningOn s c = none))

/-- Of two cores, the one that runs the lower priority, the lower-numbered on a tie. -/
def lowerCore (s : State) (a : Option Nat) (c : Nat) : Option Nat :=
  let prioOn := fun k => match runningOn s k with
    | some t => threadPrio s t
    | none => 0
  match a with
  | none => some c
  | some b => if prioOn c < prioOn b then some c else some b

/-- The core that `t` preempts: of those in its affinity that run a lower priority, the one running the lowest. -/
def preemptCore? (s : State) (t : Nat) : Option Nat :=
  ((List.range 4).filter (fun c => coreAllows s t c && (match runningOn s c with
    | some u => decide (threadPrio s u < threadPrio s t)
    | none => false))).foldl (lowerCore s) none

/-- Thread `t` starts on core `c`: DISPATCHES count (Table 13.7). -/
def startOn (t c : Nat) (s : State) : State :=
  let x := thread s t
  count (coreEvent c 0x042) 1 (count (CTL_SCH_CNT 2) 1
    (setRunning c (some t)
      (setThread t { x with st := .running, core := c, dispatches := x.dispatches + 1#32 }
        { s with deck := { s.deck with ready := s.deck.ready.filter (fun u => decide (u ≠ t)) } })))

/-- Core `c` gives up its thread, which goes to READY at the head of its list: PREEMPTIONS count. -/
def preempt (c : Nat) (s : State) : State :=
  match runningOn s c with
  | some u => count (coreEvent c 0x041) 1 (count (CTL_SCH_CNT 4) 1 (makeReady true u (setRunning c none s)))
  | none => s

/-- Dispatch the first READY thread that finds a core (R335); none: no thread finds one. -/
def dispatchOne (s : State) : Option State :=
  match s.deck.ready.find? (fun t => (idleCore? s t).isSome || (preemptCore? s t).isSome) with
  | none => none
  | some t =>
    match idleCore? s t with
    | some c => some (startOn t c s)
    | none =>
      match preemptCore? s t with
      | some c => some (startOn t c (preempt c s))
      | none => none

/-- Dispatch until no READY thread finds a core. Each dispatch raises the priorities that run, so the bound is never
met short of that. -/
def dispatchN : Nat → State → State
  | 0, s => s
  | n + 1, s =>
    match dispatchOne s with
    | some t => dispatchN n t
    | none => s

def dispatch (s : State) : State := dispatchN 256 s

/-! Posts (R333, R334). -/

/-- Offer the held posts again, oldest first: each enters as soon as it has room. -/
def retryHeld (s : State) : State :=
  s.deck.held.foldl
    (fun t p => if postRoom t p.2 then { t with deck := { t.deck with postq := t.deck.postq ++ [p.2] } }
      else { t with deck := { t.deck with held := t.deck.held ++ [p] } })
    { s with deck := { s.deck with held := [] } }

/-- Move the trigger FIFO's head into the queue while it has room (R60, Table 13.3). -/
def drainTrig : Nat → State → State
  | 0, s => s
  | n + 1, s =>
    match s.mast.trig with
    | [] => s
    | (t, stamp) :: r =>
      if postRoom s t then
        drainTrig n (setThread t { thread s t with firedAt := some stamp }
          { s with mast := { s.mast with trig := r }, deck := { s.deck with postq := s.deck.postq ++ [t] } })
      else s

/-- One post is applied to thread `t` (R332, R333). -/
def applyPost (t : Nat) (s : State) : State :=
  let x := thread s t
  match x.st with
  | .waiting => makeReady false t (setThread t { x with timeout := none } s)
  | .ready | .running => setThread t { x with posts := x.posts + 1 } s
  | .dormant | .faulted => count (CTL_SCH_CNT 12) 1 s

/-! Restart (R343, R344, Table 13.6). -/

/-- The causes of CTL_RESTART_INFO. -/
abbrev causeACTIVATE : Nat := 1
abbrev causeWDOG : Nat := 2
abbrev causeMCHECK : Nat := 3
abbrev causeHOST : Nat := 4

/-- Step 2 of Table 13.6: cores, caches and scheduler are reset, every thread DORMANT with count 0; the watchdog stops
(R341). Block interrupt bits stay set in their blocks, so the posts they hold stay. -/
def deckReset (s : State) : State :=
  { s with deck := { s.deck with
      st := .restarting, threads := s.deck.threads.map (fun p => (p.1, { p.2 with
        st := .dormant, posts := 0, faults := 0, faultTicks := [], timeout := none })),
      ready := [], running := [], coreUp := 0#4, postq := [],
      held := s.deck.held.filter (fun p => match p.1 with
        | .intBit _ _ => true
        | _ => false),
      wdogOn := false, sampling := [], w2 := [], beganAt := s.ticks } }

/-- Step 1 of Table 13.6 and the effects of Table 1.3: RESTART_BEGIN, the record with the cause, the queued posts
dropped and counted, the Mast from LOCKED to HOLDOVER (Table 2.4). -/
def restartBegin (cause : Nat) (s : State) : State :=
  let t := count (CTL_SCH_CNT 14) s.deck.postq.length s
  let u := logEvent srcCTL 1 4 (wordOf cause) [] (setInt CTL_INT 0 (wrF CTL_RESTART_INFO 0 3 cause t))
  let v := deckReset u
  let w := { v with deck := { v.deck with isStart := false, cause := cause, restarts := v.deck.restarts + 1 } }
  if w.mast.st = .locked then mastTo .holdover w else w

/-- A restart request (R343): ignored and counted while a restart or a start is in progress; no watchdog or machine
check arises while the Deck is FAILED. -/
def deckRestart (cause : Nat) (s : State) : State :=
  match s.deck.st with
  | .run => restartBegin cause s
  | .restarting => count (CTL_SCH_CNT 16) 1 s
  | .failed => if cause = causeWDOG ∨ cause = causeMCHECK then s else restartBegin cause s

/-- A Deck start of R516: steps 2 to 5 without a restart's marks. -/
def deckStart (s : State) : State :=
  let t := deckReset s
  { t with deck := { t.deck with isStart := true } }

/-- The threads of an image as DORMANT threads (R328, R329). -/
def loadThreads (cs : List (Nat × ThreadCfg)) (s : State) : State :=
  cs.foldl (fun t p => setThread p.1
    { thread t p.1 with prio := p.2.prio, affinity := p.2.affinity, hostPost := p.2.hostPost } t) s

/-- The running image's threads start READY: firmware threads 0 to 19 at step 4 and customer threads at step 5. -/
def startThreads (s : State) : State :=
  (s.cfg.threads.filter (fun p => decide (p.1 < 20 ∨ 64 ≤ p.1))).foldl (fun t p => makeReady false p.1 t) s

/-- Step 4 for the ports (Table 1.3): every ring is re-armed and every time-stamp queue emptied. -/
def rearmRings (s : State) : State :=
  forUpTo 64 (fun p t => rearmPort p t) s

/-- Steps 3 to 5 of Table 13.6 end and DECK_STATE reads RUN; LAST_MS is the restart's duration. -/
def deckRun (version : Word) (s : State) : State :=
  let t := loadThreads s.cfg.threads
    { s with deck := { s.deck with coreUp := 0xF#4, wdogOn := true, wdogAt := s.ticks } }
  let u := dispatch (startThreads (rearmRings t))
  let v := { u with deck := { u.deck with st := .run } }
  let w := wr HST_FW_VER version v
  if w.deck.isStart then w else setInt CTL_INT 1 (wrF CTL_RESTART_INFO 16 16 (min ((s.ticks - s.deck.beganAt) / 250000) 65535) w)

/-! Performance counters (R345 to R347). -/

/-- The register of a counter, its flag register and its flag bit. -/
def pcReg : PcCounter → Nat
  | .core c k => if k.val < 8 then CTL_PC_EV c.val (2 * k.val)
    else if k.val = 8 then CTL_PC_CYC c.val 0 else CTL_PC_RET c.val 0
  | .dataPath k => CTL_DP_CNT (2 * k.val)

def pcStat : PcCounter → Nat
  | .core c _ => CTL_PC_STAT c.val
  | .dataPath _ => CTL_DP_STAT

def pcBit : PcCounter → Nat
  | .core _ k => k.val
  | .dataPath k => k.val

/-- The count of a counter. -/
def pcValue (s : State) (c : PcCounter) : Nat := rd64 s (pcReg c)

/-- A counter's flag (R345). -/
def pcFlag (s : State) (c : PcCounter) : Bool := rdB s (pcStat c) (pcBit c)

/-- A counter's flag becomes set: CTL_INT.PC_OVF (R345). -/
def pcSetFlag (c : PcCounter) (s : State) : State :=
  if pcFlag s c then s else setInt CTL_INT 7 (wr (pcStat c) (withBit (rd s (pcStat c)) (pcBit c)) s)

/-- The count after `n` more events: on the M16K a counter that reaches 2^48 - 1 holds that value, on the M4K it wraps to
0 (R345). -/
def pcNext (s : State) (v n : Nat) : Nat := if isM4k s then (v + n) % 2 ^ 48 else min (v + n) (2 ^ 48 - 1)

/-- Add `n` events to a counter; reaching the limit sets the flag (R345). -/
def pcAdd (c : PcCounter) (n : Nat) (s : State) : State :=
  let v := pcValue s c
  let t := wr64 (pcReg c) (pcNext s v n) s
  if (if isM4k s then 2 ^ 48 else 2 ^ 48 - 1) ≤ v + n then pcSetFlag c t else t

/-- The CTRL register of a set, and its counters. -/
def pcCtrl : PcSet → Nat
  | .core c => CTL_PC_CTRL c.val
  | .dataPath => CTL_DP_CTRL

/-- The set of a counter. -/
def pcSetOf : PcCounter → PcSet
  | .core c _ => .core c
  | .dataPath _ => .dataPath

def pcCounters : PcSet → List PcCounter
  | .core c => (List.finRange 10).map (fun k => .core c k)
  | .dataPath => (List.finRange 32).map (fun k => .dataPath k)

/-- Zero a counter and its flag (R347). -/
def pcZero (c : PcCounter) (s : State) : State :=
  let t := wr64 (pcReg c) 0 s
  wr (pcStat c) (withBool (rd t (pcStat c)) (pcBit c) false) t

/-- A set counts: EN set, FREEZE clear (R347). -/
def pcCounting (s : State) (p : PcSet) : Bool := rdB s (pcCtrl p) 0 && !rdB s (pcCtrl p) 1

/-! Sampling (R349, R350). -/

/-- The words of core `c`'s sampling buffer not read yet, two per record. -/
def sampleWords (s : State) (c : Nat) : List (BitVec 64) := (window s (5 + c)).words

/-- PSB_LVL and FULL, LOST after a record was offered (R350). -/
def sampleLevel (s : State) (c : Nat) : Nat := ((sampleWords s c).length + 1) / 2

/-- A record of four words enters core `c`'s buffer, or is lost when 256 records are held (R350). -/
def pushSample (c : Nat) (w0 w1 w2 w3 : Word) (s : State) : State :=
  if 256 ≤ sampleLevel s c then
    let st := rd s (CTL_PC_STAT c)
    setInt CTL_INT 9 (wr (CTL_PC_STAT c)
      (withBit (withField st 21 11 (satAdd (field st 21 11) 1 2047)) 11) s)
  else
    let x := window s (5 + c)
    let t := setWindow (5 + c) { x with words := x.words ++ [pairWord w0 w1, pairWord w2 w3] } s
    if sampleLevel s c < 128 ∧ 128 ≤ sampleLevel t c then setInt CTL_INT 8 t else t

end Sys2Proof.Machine
end

