-- ==== Sys2Proof/Machine/LedgerOps.lean ====
section
/-!
DEFINITION. The Ledger's shared operations (R359 to R382): writing records, flushes, failure, tracks, the erase of a clear and
the sections a read delivers. Layouts the chapters leave out are the model's (notes/assumptions/24.md).
-/

namespace Sys2Proof.Machine

open Sys2Proof

/-! Failure and last words (R377, R378). -/

/-- The last-words block is written: the reason, the offset and the tick are of the failure. -/
def writeLastWords (reason ofs tick : Nat) (s : State) : State :=
  let l := s.ledger
  let x : LastWords :=
    { reason := reason, ofs := ofs, seq := l.seq, epoch := l.epoch, sec := taiSec s, opHours := l.opHours,
      pwrCycles := l.pwrCycles, drops := dropCounts s, lost := l.recordsLost, tick := tick }
  { s with sentry := { s.sentry with lastWords := some x }, ledger := { l with lwAt := s.ticks } }

/-- R377: the Ledger memory has failed. A clear under way ends with LEDGER_FAIL (Table 15.7). -/
def ledgerFail (reason ofs : Nat) (s : State) : State :=
  if s.ledger.fail then s
  else
    let t := if s.ledger.clr = .clearing then
        wrF LDG_CLR_STAT 2 3 5 (setLedger (fun l => { l with clr := .idle, clrWait := false }) s)
      else s
    let u := setLedger (fun l => { l with fail := true, failReason := reason, recordsLost := 0 }) t
    updateNodeOk (raise LDG_INT 6 (writeLastWords reason ofs u.sentry.tick u))

/-- R360: units that fail verification three times move to spares; with none left the memory fails. -/
def relocate : List Nat → State → State
  | [], s => s
  | u :: us, s =>
    if s.ledger.fail then s
    else if 0 < s.ledger.spares then
      relocate us (raise LDG_INT 7 (setLedger (fun l =>
        { l with spares := l.spares - 1, relocated := l.relocated ++ [u] }) s))
    else ledgerFail 1 (u * 1024) s

/-! The event log (R367, R369). -/

/-- Records the log holds (Table 15.1). -/
def logSize : Nat := 98304

/-- The lowest severity in the log. -/
def logLowest (l : List LRec) : Nat := l.foldl (fun v r => min v r.sev) 7

/-- The oldest record of severity `v` in the log. -/
def oldestOf (v : Nat) (l : List LRec) : Option LRec := l.find? (fun r => decide (r.sev = v))

/-- Remove the oldest record of severity `v`. -/
def dropOldest (v : Nat) : List LRec → List LRec
  | [] => []
  | r :: l => if r.sev = v then l else r :: dropOldest v l

/-- SEQ and EPOCH of the next record (R367). -/
def nextSeq (s : State) : Nat := (s.ledger.seq + 1) % 2 ^ 32
def nextEpoch (s : State) : Nat := if nextSeq s = 0 then (s.ledger.epoch + 1) % 256 else s.ledger.epoch

/-- The record enters the log with the next SEQ, in the peer's mirror frame too. -/
def logAppend (r : LRec) (s : State) : State :=
  let x := { r with seq := nextSeq s, epoch := nextEpoch s, frozen := false }
  let t := setLedger (fun l => { l with log := l.log ++ [x], seq := x.seq, epoch := x.epoch }) s
  if x.seq = 0 then raise LDG_INT 8 t else t

/-- R369: a record meets the log. A full log loses its oldest record of the lowest severity, or the record is refused. -/
def logWrite (r : LRec) (s : State) : State :=
  if s.ledger.log.length < logSize then logAppend r s
  else
    let v := logLowest s.ledger.log
    if v ≤ r.sev then
      let t := match oldestOf v s.ledger.log with
        | some o => eventOverrun o.epoch o.seq s
        | none => s
      logAppend r (raise LDG_INT 2 (setLedger (fun l => { l with log := dropOldest v l.log }) t))
    else raise LDG_INT 3 (bumpSat (LDG_REFUSED r.sev) s)

/-- A control record, in its rotation of 64. -/
def controlRecord (s : State) : State :=
  setLedger (fun l => { l with control := lastN 64 (l.control ++
    [{ epoch := l.epoch, seq := l.seq, opHours := l.opHours, pwrCycles := l.pwrCycles, clearPending := l.clrPending }]) }) s

/-! Flushes (R365, R366, R368, R429). -/

/-- An event as LEDGER_EVENT carries it. -/
def logOffered (e : LEvent) (s : State) : State := logEvent e.src.val e.code.toNat e.sev.val e.key e.data s

/-- The DROPS record. -/
def dropsRecord (s : State) : LRec :=
  newRecord s srcLDG 1 4 0#32 ((List.range 4).map (dropWord (dropCounts s)))

/-- Words cut into frames of `n`. -/
def framesOf (n : Nat) : Nat → List Word → List (List Word)
  | 0, _ => []
  | _ + 1, [] => []
  | k + 1, w :: ws => (w :: ws).take n :: framesOf n k ((w :: ws).drop n)

/-- The flushed records leave for the peer in LEDGER frames of at most 16 records. -/
def mirrorRecords (rs : List LRec) (s : State) : State :=
  if !isPair s then s
  else
    let ws := rs.flatMap recordWords
    (framesOf 256 (ws.length + 1) ws).foldl (fun t f => bulkSend shLEDGER f t) s

/-- The records written since the newest was `seq`. -/
def logSince (seq : Nat) (s : State) : List LRec := lastN ((s.ledger.seq + 2 ^ 32 - seq) % 2 ^ 32) s.ledger.log

/-- R361: 10 ms have passed since the last flush started. -/
def flushSpaced (s : State) : Bool :=
  match s.ledger.flushAt with
  | some t => decide (t + 2500000 ≤ s.ticks)
  | none => true

/-- The gap of a fault flush has passed; below 10 ms it acts as 10. -/
def faultGapOver (s : State) : Bool :=
  match s.ledger.flushAt with
  | some t => decide (t + atLeast 10 (rdF s LDG_CFG2 0 14) * 250000 ≤ s.ticks)
  | none => true

/-- FLUSH_S seconds have passed since the previous flush, or since the start where none has run
(notes/assumptions/34.md). -/
def flushPeriodic (s : State) : Bool :=
  decide (s.ledger.flushAt.getD 0 + atLeast 1 (rdF s LDG_CFG 0 8) * 250000000 ≤ s.ticks)

/-- A trigger of R366 holds, or a clear's own flush waits, and R361 lets a flush start. -/
def flushDue (s : State) : Bool :=
  flushSpaced s && (flushPeriodic s || s.ledger.flushReq || (s.ledger.faultFlush && faultGapOver s) || s.ledger.clrWait)

/-- The area being erased takes no record. -/
def erasing (s : State) : Bool := decide (s.ledger.clr = .clearing) && !s.ledger.clrWait

/-- A flush: the buffered records are frozen, the events of the write are offered, the records go to the log in buffer
order, then DROPS if records were dropped, then a control record. Nothing is written while the memory has failed or a
clear runs. -/
def flushRun (during : List LEvent) (badUnits : List Nat) (s : State) : State :=
  if s.ledger.fail || erasing s then during.foldl (fun t e => logOffered e t) s
  else
    let s1 := setLedger (fun l => { l with
      buf := l.buf.map (fun r => { r with frozen := true }), flushReq := false, faultFlush := false,
      flushAt := some s.ticks }) s
    let s2 := relocate badUnits (during.foldl (fun t e => logOffered e t) s1)
    if s2.ledger.fail then setLedger (fun l => { l with buf := l.buf.map (fun r => { r with frozen := false }) }) s2
    else
      let rs := s2.ledger.buf.filter (fun r => r.frozen)
      let s3 := rs.foldl (fun t r => logWrite r t)
        (setLedger (fun l => { l with buf := l.buf.filter (fun r => !r.frozen) }) s2)
      let s4 := if s.ledger.dropNote then logWrite (dropsRecord s3) (setLedger (fun l => { l with dropNote := false }) s3) else s3
      raise LDG_INT 0 (mirrorRecords (logSince s.ledger.seq s4) (controlRecord s4))

/-! Tracks (R371). -/

/-- The bin of a value between LO and HI. -/
def trackBin (lo hi v : Int) : Nat :=
  if v < lo then 0 else if hi ≤ v then 31 else ((v - lo) * 32 / (hi - lo)).toNat

/-- A track counts one sample. -/
def trackAdd (lo hi v : Int) (sec hours : Nat) (x : Track) : Track :=
  let b := trackBin lo hi v
  { bins := tset 0 x.bins b (satAdd (tget 0 x.bins b) 1 0xFFFFFFFF), count := (x.count + 1) % 2 ^ 64,
    sum := signedN (unsignedN (x.sum + v) 64) 64,
    min := match x.min with
      | some m => if v < m.1 then some (v, sec, hours) else some m
      | none => some (v, sec, hours),
    max := match x.max with
      | some m => if m.1 < v then some (v, sec, hours) else some m
      | none => some (v, sec, hours) }

def trackPut (k : Nat) (lo hi v : Int) (s : State) : State :=
  setLedger (fun l => { l with
    tracks := tset {} l.tracks k (trackAdd lo hi v (taiSec s) l.opHours (tget {} l.tracks k)) }) s

/-- The tracks are written into the older copy. -/
def trackWrite (s : State) : State :=
  if s.ledger.fail || erasing s then s
  else setLedger (fun l =>
    if l.copyTurn then { l with copyB := some l.tracks, badB := [], copyTurn := false, tracksAt := s.ticks }
    else { l with copyA := some l.tracks, badA := [], copyTurn := true, tracksAt := s.ticks }) s

/-- The newest valid copy of each track: one whose CRC fails gives way to the other copy, if that is valid. -/
def newestTracks (s : State) : Option (NMap Track) :=
  let l := s.ledger
  let (new, bad, old, bad2) := if l.copyTurn then (l.copyA, l.badA, l.copyB, l.badB) else (l.copyB, l.badB, l.copyA, l.badA)
  new.map (fun m => bad.foldl (fun a k =>
    tset {} a k (if k ∈ bad2 then {} else tget {} (old.getD []) k)) m)

/-- HIST_S seconds, at least 60, have passed since the tracks were last written. -/
def tracksDue (s : State) : Bool :=
  decide (s.ledger.tracksAt + atLeast 60 (rdF s LDG_CFG 16 16) * 250000000 ≤ s.ticks)

/-! The erase of a clear (R374, R375). -/

/-- The areas of a scope are erased; a read that has still to deliver of them ends. -/
def eraseScope (scope : Nat) (s : State) : State :=
  let s1 := if scope.testBit 0 then
      forUpTo 8 (fun k t => wr (LDG_DROP k) 0#32 (wr (LDG_REFUSED k) 0#32 t)) (setLedger (fun l => { l with
        log := [], reefedSummary := [], reefedHeaders := [] }) (if s.ledger.evRead = [] then s else ledgerOverrun s))
    else s
  let s2 := if scope.testBit 1 then
      setLedger (fun l => { l with tracks := [], copyA := none, copyB := none, badA := [], badB := [] }) s1
    else s1
  let s3 := if scope.testBit 2 then
      setEnergy (fun e => { e with records := [] }) (if s2.ledger.enRead = [] then s2 else ledgerOverrun s2)
    else s2
  if scope.testBit 3 then { s3 with nest := { s3.nest with baselines := [] } } else s3

/-- Step 7 of R375: the erase, CLEARED as the first record after it, and a control record without CLEAR_PENDING. -/
def clearFinish (s : State) : State :=
  let t := eraseScope s.ledger.clrScope s
  let u := logWrite (newRecord t srcLDG 3 6 (wordOf s.ledger.clrScope) []) (setLedger (fun l => { l with
    clrPending := false, clr := .idle, clrWait := false,
    clears := l.clears.map (fun c => { c with pending := false }) }) t)
  raise LDG_INT 5 (wrF LDG_CLR_STAT 2 3 0 (controlRecord u))

/-! What a read delivers (R380). -/

/-- A 40-bit (EPOCH, SEQ) is at or after another, compared modulo 2^40 within ±2^39 (R493). -/
def ledgerFrom (start x : Nat) : Bool := decide ((x + 2 ^ 40 - start % 2 ^ 40) % 2 ^ 40 < 2 ^ 39)

/-- The records at or after a start point (R380, R493). -/
def eventsFrom (epoch seq : Nat) (s : State) : List LRec :=
  s.ledger.log.filter (fun r => ledgerFrom (epoch * 2 ^ 32 + seq) (r.epoch * 2 ^ 32 + r.seq))

/-- The interval records that start at or after a TAI second. -/
def energyFrom (sec : Nat) (s : State) : List (List Word) :=
  (s.scales.en.records.map (fun r => r.1)).filter (fun ws =>
    decide (sec ≤ (ws.getD 0 0#32).toNat + 2 ^ 32 * field (ws.getD 1 0#32) 0 16))

def wordsBytes (ws : List Word) : List Nat := ws.flatMap wordBytes

/-- An extreme of a track: value, TAI seconds and OP_HOURS. -/
def extremeWords (m : Option (Int × Nat × Nat)) : List Word :=
  match m with
  | some (v, sec, h) => [loWord (unsignedN v 64), hiWord (unsignedN v 64), loWord sec, wordOf (sec / 2 ^ 32), wordOf h]
  | none => List.replicate 5 0#32

/-- A track copy: number, source and scaling, counts, extremes and CRC. -/
def trackWords (s : State) (k : Nat) (x : Track) : List Word :=
  let src := match (s.cfg.tracks.find? (fun p => decide (p.1 = k))).map (fun p => p.2) with
    | some c => [wordOf c.reg, wordOf (c.lo + 2 ^ 8 * c.bits + 2 ^ 16 * b2n c.signed), loWord (unsignedN c.low 64),
        loWord (unsignedN c.high 64)]
    | none => [0#32, 0#32, loWord (unsignedN (Config.trackRange k 0) 64), loWord (unsignedN (Config.trackRange k 1) 64)]
  let ws := wordOf k :: src ++ (List.range 32).map (fun b => wordOf (tget 0 x.bins b))
    ++ [loWord x.count, hiWord x.count, loWord (unsignedN x.sum 64), hiWord (unsignedN x.sum 64)]
    ++ extremeWords x.min ++ extremeWords x.max
  ws ++ [crcWords ws]

/-- An energy-gap record (Table 7.5). -/
def gapWords (g : GapRec) : List Word :=
  [wordOf (g.reason + 2 ^ 8 * b2n g.suspect), loWord (tagSec g.start), wordOf (tagSec g.start / 2 ^ 32), wordOf (tagNs g.start),
   loWord (tagSec g.fin), wordOf (tagSec g.fin / 2 ^ 32), wordOf (tagNs g.fin), wordOf g.ahSpan]
    ++ g.points.flatMap (fun p => wordOf p.point :: p.est.flatMap (fun v => [loWord v, hiWord v])
      ++ p.ah.flatMap (fun v => [loWord v, hiWord v]) ++ [p.vLast, p.pfLast])

/-- The ampere-hour values of a save. -/
def ahWords (x : AhSave) : List Word :=
  [wordOf x.seq, wordOf x.spanMs] ++ x.counts.flatMap (fun p => wordOf p.1 :: p.2.flatMap (fun v => [loWord v, hiWord v]))

/-- A clear record of 256 bytes. -/
def clearWords (c : ClearRec) : List Word :=
  let ws := [wordOf c.scope, BitVec.ofNat 32 c.nonce.toNat, hiWord c.nonce.toNat, wordOf c.fromEpoch, wordOf c.fromSeq,
    wordOf c.toEpoch, wordOf c.toSeq, loWord c.sec, wordOf (c.sec / 2 ^ 32), wordOf c.opHours, wordOf (b2n c.pending),
    wordOf c.parties.length] ++ c.parties.map wordOf
  ws ++ List.replicate (63 - ws.length) 0#32 ++ [crcWords ws]

/-- The bytes of a section, 0 to 7; `a` and `b` are the start point. -/
def sectionBytes (s : State) (a b : Nat) : Nat → List Nat
  | 0 => (eventsFrom b a s).flatMap (fun r => wordsBytes (recordWords r))
  | 1 => match newestTracks s with
    | some m => (List.range 256).flatMap (fun k => wordsBytes (trackWords s k (tget {} m k)))
    | none => []
  | 2 => (energyFrom (a + 2 ^ 32 * b) s).flatMap wordsBytes
  | 3 => (match newestSave s with
      | some x => wordsBytes (saveWords x)
      | none => [])
    ++ (match newestAh s with
      | some x => wordsBytes (ahWords x)
      | none => [])
    ++ s.scales.en.gaps.flatMap (fun g => wordsBytes (gapWords g))
  | 4 => match newestBaseline s with
    | some x => wordsBytes (baselineWords x)
    | none => []
  | 5 => s.ledger.reefedSummary ++ s.ledger.reefedHeaders
    ++ (match newestAh s with
      | some x => wordsBytes (ahWords x)
      | none => [])
  | 6 => s.ledger.clears.flatMap (fun c => wordsBytes (clearWords c))
  | _ => s.ledger.buf.flatMap (fun r => wordsBytes (recordWords r))

end Sys2Proof.Machine
end

