-- ==== Sys2Proof/Machine/Mast.lean ====
section
/-!
DEFINITION. The Mast's commands but the commits (Machine/Commit.lean): increments, the time block, the Mast states, leap
seconds, PPS and IRIG-B, time quality, the cycle clock and the schedule table (02_mast_time.md).
-/

namespace Sys2Proof.Machine

open Sys2Proof

/-- Done: the next state. -/
abbrev done (s : State) : Host.Outcome State Fault Refusal := .next s

/-! INCR_WRITE, NO_INCREMENT_TIMEOUT. -/

/-- R29, R40: HELD refuses the write, a value out of range is refused, another becomes the increment. DESIGN CHOICE
(notes/assumptions/40.md): a write that both would refuse reports WRITE_BLOCKED alone. -/
def incrWrite (v : Word) (s : State) : State :=
  if s.mast.st = .held then raise MST_INT 2 s
  else if 0x3FF7CED9 ≤ v.toNat ∧ v.toNat ≤ 0x40083127 then
    wr MST_INCR v { s with mast := { s.mast with incrAt := s.ticks } }
  else raise MST_INT 3 s

def execIncrWrite (who : Req) (v : Word) (s : State) : Host.Outcome State Fault Refusal :=
  done (serve (.incrWrite who v) who MST_INCR (incrWrite v) s)

/-- R40: LOCKED goes to HOLDOVER. -/
def lockedToHoldover (s : State) : State := if s.mast.st = .locked then mastTo .holdover s else s

/-- Table 2.3: no increment write for 4 s, counted from the last one taken (DESIGN CHOICE, notes/assumptions/40.md: a
refused write does not count). -/
def execNoIncrementTimeout (s : State) : Host.Outcome State Fault Refusal :=
  powered s (if s.mast.incrAt + 1000000000 ≤ s.ticks then lockedToHoldover s else s)

/-! The time block (R31 to R33). -/

def timeBlockFreeze (who : Req) (k : Nat) (s : State) : State :=
  let r := freezeRead (timeWords s) s.ticks k (reqIdx who) s.mast.freeze s.mast.torn
  answer who (r.1.setWidth 64) { s with mast := { s.mast with freeze := r.2 } }

def execTimeBlockFreeze (who : Req) (k : Fin 5) (s : State) : Host.Outcome State Fault Refusal :=
  done (serve (.timeBlockFreeze who k) who (MST_TIME_SUB + 4 * k.val) (timeBlockFreeze who k.val) s)

def timeBlockRelease (who : Req) (s : State) : State :=
  answer who ((releaseRead (timeWords s) 5 (reqIdx who) s.mast.freeze s.mast.torn).setWidth 64)
    { s with mast := { s.mast with
        freeze := tset none s.mast.freeze (reqIdx who) none, torn := tset false s.mast.torn (reqIdx who) false } }

def execTimeBlockRelease (who : Req) (s : State) : Host.Outcome State Fault Refusal :=
  done (serve (.timeBlockRelease who) who MST_TIME_SEC_HI (timeBlockRelease who) s)

/-- R33: a freeze held for 50 µs is released and the requester's sequence becomes torn. -/
def execTimeFreezeTimeout (who : Req) (s : State) : Host.Outcome State Fault Refusal :=
  powered s (if freezeOver s.mast.freeze s.ticks 12500 (reqIdx who) then
      { s with mast := { s.mast with
          freeze := tset none s.mast.freeze (reqIdx who) none, torn := tset false s.mast.torn (reqIdx who) true } }
    else s)

/-! MST_CTRL (R40, R41). -/

/-- R40: LOCKED from UNSYNC or HOLDOVER, with the guard armed and the holdover count cleared; ignored in HELD. -/
def lockSet (s : State) : State :=
  if s.mast.st = .unsync ∨ s.mast.st = .holdover then
    nodeEdge s (updateHoldExc { s with mast := { s.mast with
      st := .locked, guardArmed := true, holdSec := 0, holdTick := 0 } })
  else s

def execLockSet (who : Req) (s : State) : Host.Outcome State Fault Refusal :=
  done (serve (.lockSet who) who MST_CTRL lockSet s)

def execHoldSet (who : Req) (s : State) : Host.Outcome State Fault Refusal :=
  done (serve (.holdSet who) who MST_CTRL lockedToHoldover s)

/-- MST_CFG.GM_POLICY is FREE_RUN (Table 2.4). -/
def freeRun (s : State) : Bool := rdB s MST_CFG 0

/-- FREE_RUN: a grandmaster change or loss holds the Mast, but in UNSYNC (Table 2.4). -/
def gmHold (s : State) : State :=
  if s.mast.st = .locked ∨ s.mast.st = .holdover then mastTo .held s else s

/-- Table 2.4, GM_CHANGE: REFUSE_JUMP leaves the state; FREE_RUN goes to HELD. -/
def execGmChange (who : Req) (s : State) : Host.Outcome State Fault Refusal :=
  done (serve (.gmChange who) who MST_CTRL (fun t => if freeRun t then gmHold t else t) s)

/-- Table 2.4, GM_LOST: REFUSE_JUMP goes to HOLDOVER from LOCKED; FREE_RUN to HELD. -/
def execGmLost (who : Req) (s : State) : Host.Outcome State Fault Refusal :=
  done (serve (.gmLost who) who MST_CTRL (fun t => if freeRun t then gmHold t else lockedToHoldover t) s)

/-- Table 2.4, GM_RETURN: HELD under FREE_RUN goes to HOLDOVER. -/
def execGmReturn (who : Req) (s : State) : Host.Outcome State Fault Refusal :=
  done (serve (.gmReturn who) who MST_CTRL
    (fun t => if freeRun t ∧ t.mast.st = .held then mastTo .holdover t else t) s)

/-- R39, Table 2.4: the next commit bypasses the guard; HELD under FREE_RUN goes to HOLDOVER. -/
def guardAccept (s : State) : State :=
  let t := { s with mast := { s.mast with accept := true } }
  if freeRun t ∧ t.mast.st = .held then mastTo .holdover t else t

def execGuardAccept (who : Req) (s : State) : Host.Outcome State Fault Refusal :=
  done (serve (.guardAccept who) who MST_CTRL guardAccept s)

/-! LEAP_APPLIED (R50). -/

/-- The counter's second is at or after MST_LEAP_AT, in the era nearest the counter, and a leap is pending. -/
def leapDue (s : State) : Bool :=
  decide (rdF s MST_UTC_OFS 16 2 = 1 ∨ rdF s MST_UTC_OFS 16 2 = 2)
    && atOrAfter32 (taiSec s) (rd s MST_LEAP_AT).toNat

/-- The TAI second at which the pending leap applies, in the era nearest the counter (MST_LEAP_AT). -/
def leapSecond (s : State) : Nat := taiSec s - (taiSec s + 2 ^ 32 - (rd s MST_LEAP_AT).toNat) % 2 ^ 32

/-- R50: OFFSET moves by 1, LEAP clears, the second and direction are kept, LEAP_DONE and the record of Table 15.3. -/
def leapApplied (s : State) : State :=
  let ins := decide (rdF s MST_UTC_OFS 16 2 = 1)
  let ofs := unsignedN (utcOffset s + (if ins then 1 else -1)) 16
  let t := wr MST_UTC_OFS (wordOf ofs) { s with mast := { s.mast with lastLeap := some (leapSecond s, ins) } }
  logEvent srcMST 2 2 0#32 [] (raise MST_INT 9 t)

def execLeapApplied (s : State) : Host.Outcome State Fault Refusal := powered s (if leapDue s then leapApplied s else s)

/-! PPS and IRIG-B (R45, R46). -/

/-- R45: an edge between 999,900,000 and 1,000,100,000 ns after the last accepted one is accepted. DESIGN CHOICE
(notes/assumptions/40.md): so is the first edge since reset, which has none before it. -/
def ppsAccepts (s : State) : Bool :=
  match s.mast.ppsLast with
  | none => true
  | some t => decide (t + 999900000 ≤ taiAbsNs s ∧ taiAbsNs s ≤ t + 1000100000)

/-- R45, R38: the edge is stamped with the counter of its own tick. -/
def ppsEdge (s : State) : State :=
  let t := wr MST_PPS_SEC (loWord (taiSec s)) (wr MST_PPS_NS (wordOf (taiNs s)) s)
  if ppsAccepts s then { t with mast := { t.mast with ppsLast := some (taiAbsNs s), ppsOow := false } }
  else { t with mast := { t.mast with ppsOow := true } }

/-- MST_CFG.PPS_EN gates the stamping. -/
def execPpsEdge (s : State) : Host.Outcome State Fault Refusal := powered s (if rdB s MST_CFG 2 then ppsEdge s else s)

/-- R45: 1.1 s have passed since the last accepted edge, or since reset when there is none. -/
def ppsGone (s : State) : Bool :=
  match s.mast.ppsLast with
  | some t => decide (t + 1100000000 ≤ taiAbsNs s)
  | none => decide (275000000 ≤ s.ticks)

/-- R45: PPS_MISSING. -/
def execPpsMissing (s : State) : Host.Outcome State Fault Refusal :=
  powered s (if rdB s MST_CFG 2 ∧ ppsGone s then raise MST_INT 5 s else s)

/-- Days from 1970-01-01 to the first of January of a year. -/
def daysToYear (y : Nat) : Nat := (y - 1970) * 365 + (y - 1969) / 4 - (y - 1901) / 100 + (y - 1601) / 400

/-- The year the calendar gives (R46): that of the TAI time of R383. -/
def calendarYear (s : State) : Nat :=
  let d := calSec s / 86400
  ((List.range 300).foldl (fun y k => if daysToYear (1970 + k) ≤ d then 1970 + k else y) 1970)

/-- R46: a frame with a parity error under the extension or an invalid digit is discarded and counted; a good one is
converted to TAI, and its on-time reference marker is stamped with the counter of the command's own tick (R38). -/
def irigFrame (f : IrigFrame) (s : State) : State :=
  if !f.bcdOk || (f.ext && !f.parityOk) then
    wrF MST_IRIG_STAT 16 8 (satAdd (rdF s MST_IRIG_STAT 16 8) 1 255) s
  else
    let y := match f.year with
      | some y => y
      | none => calendarYear s
    let utc := (daysToYear y + (f.dayOfYear - 1)) * 86400 + f.secOfDay
    let st := withField (withField (withField (rd s MST_IRIG_STAT) 1 1 (b2n (f.ext && f.leapPending))) 2 4
      (if f.ext then f.quality.toNat else 0)) 6 1 (b2n f.year.isSome)
    wr MST_IRIG_STAT st (wr MST_IRIG_SEC (loWord (taiOfUtc s utc))
      { s with mast := { s.mast with irigAt := some s.ticks, irigStamp := some s.tai } })

/-- MST_CFG.IRIG_EN gates the decoder. -/
def execIrigFrame (f : IrigFrame) (s : State) : Host.Outcome State Fault Refusal :=
  powered s (if rdB s MST_CFG 3 then irigFrame f s else s)

/-! Time quality (R48). -/

def tqWrite (v : Word) (s : State) : State := updateHoldExc { s with mast := { s.mast with est := v } }

def execTqWrite (who : Req) (v : Word) (s : State) : Host.Outcome State Fault Refusal :=
  done (serve (.tqWrite who v) who MST_TQ (tqWrite v) s)

/-- R48: the holdover count of HOLDOVER or HELD has reached `sec` seconds: HOLD_EXC follows the bound. -/
def execHoldoverLimitCrossed (sec : BitVec 32) (s : State) : Host.Outcome State Fault Refusal :=
  powered s (if inHoldover s ∧ sec.toNat ≤ s.mast.holdSec then updateHoldExc s else s)

/-! The cycle clock (R52 to R56). -/

/-- The nominal frequency of MST_CFG.NOMINAL in nHz. -/
def nominalFreq (s : State) : Nat := if rdB s MST_CFG 1 then 60000000000 else 50000000000

/-- The reference MST_CYC_CFG.REF names; 3 acts as 1. -/
def cycRef (s : State) : Nat := if rdF s MST_CYC_CFG 0 2 = 3 then 1 else rdF s MST_CYC_CFG 0 2

/-- The lock threshold in units of 2^-32 turn: LOCK_DEG degrees, 0 acting as 1. -/
def lockAngle (s : State) : Nat := atLeast 1 (rdF s MST_CYC_CFG 16 4) * 2 ^ 32 / 360

/-- One tenth of the comparison rate in 1/20 Hz (R53): the rate is once per cycle under LOCAL, else the tableau rate. -/
def bwLimit (s : State) : Nat := 2 * (if s.mast.cyc.refActive = 0 then nominalFreq s / 1000000000 else s.cfg.tabRate)

/-- MST_CYC_CFG.BW in 1/20 Hz. -/
def bwAsked (s : State) : Nat := 10 * 2 ^ rdF s MST_CYC_CFG 7 2

/-- The bandwidth exceeds one tenth of the comparison rate (R53). -/
def bwClamps (s : State) : Bool := decide (bwLimit s < bwAsked s)

/-- The local reference channel's newest sample is not INVALID: no SETTLING, OVR or DEAD. -/
def localValid (s : State) : Bool :=
  match (tget ({} : Chan) s.scales.chans (rdF s MST_CYC_CFG 2 5)).hist with
  | x :: _ => decide (x.mark % 8 = 0)
  | [] => false

/-- The centre of inertia of a reference at the newest instant that the Crow's Nest processed (R52), with that instant. -/
def coiValue (s : State) (ref : Nat) : Option (Nat × Int) :=
  match s.nest.top.getLast? with
  | some i => (if ref = 2 then i.after.coiHome else i.after.coiSystem).map (fun a => (i.inst, a))
  | none => none

/-- The reference in use at the next comparison (R53). -/
def refNext (s : State) : Nat := if s.mast.cyc.refPend then cycRef s else s.mast.cyc.refActive

/-- The phase error of a comparison, the reference's angle less the clock's in 2^-32 turn, with a tableau instant's
number: under LOCAL at the channel's zero crossing, where the reference's angle is 0, else at the newest instant with
a value and not compared yet, where the reference's angle is the phase plus a quarter turn (R52). None: no valid
reference value. DESIGN CHOICE (notes/assumptions/40.md): the sign. -/
def phaseError (s : State) : Option (Int × Option Nat) :=
  if refNext s = 0 then
    if localValid s then some (signedN (unsignedN (-(cycAngle s : Int)) 32) 32, none) else none
  else match coiValue s (refNext s) with
    | none => none
    | some (i, a) =>
      if s.mast.cyc.compared.any (fun c => decide (i ≤ c.1)) then none
      else (s.mast.cyc.marks.find? (fun m => decide (m.1 = i))).map (fun m =>
        (signedN (unsignedN (a + 2 ^ 30 - (m.2 : Int)) 32) 32, some i))

/-- R55: one comparison with a phase error. The frequency the loop then steers to is a free value of the error, the
present frequency and the bandwidth in force (R53 gives its order, bandwidth and slew limit, not its gains). DESIGN
CHOICE (notes/assumptions/40.md): the comparison that takes FREE or FLYWHEEL to PULLIN is none of the 8. -/
def cycleCompare (err : Int) (inst : Option Nat) (s : State) : State :=
  let c := s.mast.cyc
  let near := decide (err.natAbs ≤ lockAngle s)
  let far := decide (4 * lockAngle s < err.natAbs)
  let inL := if near then c.inLock + 1 else 0
  let outL := if far then c.outLock + 1 else 0
  let c1 := { c with
    perr := wordOf (unsignedN err 32), inLock := inL, outLock := outL, refActive := refNext s, refPend := false,
    onFallback := c.onFallback && !c.refPend,
    compared := match inst with
      | some i => some (i, s.mkt.next)
      | none => c.compared }
  let s1 := { s with mast := { s.mast with cyc := c1 } }
  let c2 := { c1 with
    bwClamped := bwClamps s1, target := Config.loopTarget s.free err c.freq (min (bwAsked s1) (bwLimit s1)) }
  let s2 := drawFree { s1 with mast := { s1.mast with cyc := c2 } }
  match c.st with
  | .free | .flywheel => { s2 with mast := { s2.mast with cyc := { c2 with st := .pullin, inLock := 0, outLock := 0 } } }
  | .pullin =>
    if 8 ≤ inL then raise MST_INT 7 { s2 with mast := { s2.mast with cyc := { c2 with st := .locked, outLock := 0, lockedAt := s.ticks } } }
    else s2
  | .locked =>
    if 3 ≤ outL then raise MST_INT 6 { s2 with mast := { s2.mast with cyc := { c2 with st := .pullin, inLock := 0 } } }
    else s2

/-- R52: without a valid value of the reference there is no comparison. -/
def execCycleCompare (s : State) : Host.Outcome State Fault Refusal :=
  powered s (match phaseError s with
    | some e => cycleCompare e.1 e.2 s
    | none => s)

/-- The cycle clock leaves LOCKED: CYC_UNLOCK. -/
def cycLeave (st : CycState) (s : State) : State :=
  let t := { s with mast := { s.mast with cyc := { s.mast.cyc with
    st := st, inLock := 0, outLock := 0, target := s.mast.cyc.freq, flyAt := s.mast.cyc.count } } }
  if s.mast.cyc.st = .locked then raise MST_INT 6 t else t

/-- The case of R54 holds of the active reference: what the node measures of the channel is the command's operand, the
rest is in the state. -/
def refLost (why : RefLoss) (s : State) : Bool :=
  let ref := s.mast.cyc.refActive
  match why with
  | .rms p => decide (ref = 0 ∧ p < 200)
  | .frequency f => decide (f + 5000 < nominalFreq s / 1000000 ∨ nominalFreq s / 1000000 + 5000 < f)
  | .invalid => if ref = 0 then !localValid s else (coiValue s ref).isNone
  | .noValue => decide (ref ≠ 0) && (match s.mast.cyc.compared with
      | some c => decide (c.2 + 2 ≤ s.mkt.next)
      | none => true)

/-- R54, R55: LOCKED or PULLIN goes to FLYWHEEL at the last frequency held. -/
def execCycleReferenceLost (why : RefLoss) (s : State) : Host.Outcome State Fault Refusal :=
  powered s (if refLost why s ∧ (s.mast.cyc.st = .locked ∨ s.mast.cyc.st = .pullin) then cycLeave .flywheel s else s)

/-- R55: FLYWHEEL goes to PULLIN on the valid fallback reference, or to FREE. -/
def flywheelLimit (ok : Bool) (s : State) : State :=
  let fb := rdF s MST_CYC_CFG 9 2
  let c := s.mast.cyc
  if ok ∧ fb ≠ 3 then
    { s with mast := { s.mast with cyc := { c with
        st := .pullin, inLock := 0, outLock := 0, refActive := fb, onFallback := true } } }
  else { s with mast := { s.mast with cyc := { c with st := .free, target := nominalFreq s } } }

/-- FLY_CYC cycles have passed in FLYWHEEL; 0 acts as 1. -/
def flyOver (s : State) : Bool :=
  decide (atLeast 1 (rdF s MST_CYC_HOME 16 16) ≤ (s.mast.cyc.count + 2 ^ 32 - s.mast.cyc.flyAt % 2 ^ 32) % 2 ^ 32)

def execFlywheelLimit (ok : Bool) (s : State) : Host.Outcome State Fault Refusal :=
  powered s (if s.mast.cyc.st = .flywheel ∧ flyOver s then flywheelLimit ok s else s)

/-- R53: the reference changes at the next comparison and the clock goes to PULLIN. -/
def cycCfgWrite (v : Word) (s : State) : State :=
  let t := cycLeave .pullin (wr MST_CYC_CFG (v &&& 0xFFFFF#32) s)
  { t with mast := { t.mast with cyc := { t.mast.cyc with refPend := true } } }

def execCycCfgWrite (who : Req) (v : Word) (s : State) : Host.Outcome State Fault Refusal :=
  done (serve (.cycCfgWrite who v) who MST_CYC_CFG (cycCfgWrite v) s)

/-- R57, R339: a kernel tick: CTL_TICK counts, and every WAIT timeout runs down by one tick. -/
def kernelTick (s : State) : State :=
  wr CTL_TICK (rd s CTL_TICK + 1#32)
    { s with deck := { s.deck with threads := s.deck.threads.map (fun p =>
        (p.1, { p.2 with timeout := p.2.timeout.map (fun n => n - 1) })) } }

/-- The kernel ticks of the cycle clock's position (R57): the multiples of 1/TICK_DIV turn passed, modulo 2^32 cycles. -/
def kernelIndex (s : State) : Nat :=
  let d := atLeast 1 (rdF s MST_CFG 8 4)
  (s.mast.cyc.count * d + s.mast.cyc.angle * d / 2 ^ 64) % (2 ^ 32 * d)

/-- R57: the angle has passed the multiple of the next kernel tick. -/
def execKernelTick (s : State) : Host.Outcome State Fault Refusal :=
  powered s (if kernelIndex s = s.mast.cyc.kern then s
    else kernelTick { s with mast := { s.mast with cyc := { s.mast.cyc with
      kern := (s.mast.cyc.kern + 1) % (2 ^ 32 * atLeast 1 (rdF s MST_CFG 8 4)) } } })

/-! The schedule table (R58 to R64). -/

/-- R58: the entry fires if it is armed and due. -/
def execScheduleFire (e : Fin 512) (s : State) : Host.Outcome State Fault Refusal :=
  powered s (if schDue s (schEntry s e.val) then schOccur e.val false s else s)

def execSchLoad (who : Req) (s : State) : Host.Outcome State Fault Refusal :=
  done (serve (.schLoad who) who MST_SCH_CMD
    (fun t => wrF MST_SCH_STAT 1 3 0 (wrWords (MST_SCH_W 0) (schWords (schEntry t (rdF t MST_SCH_IDX 0 9))) t)) s)

def execSchStore (who : Req) (s : State) : Host.Outcome State Fault Refusal :=
  done (serve (.schStore who) who MST_SCH_CMD schStore s)

/-- R62: the entry is disarmed. -/
def schDisarm (e : Nat) (s : State) : State := setEntry e { schEntry s e with armed := false } s

def execSchDisarm (who : Req) (s : State) : Host.Outcome State Fault Refusal :=
  done (serve (.schDisarm who) who MST_SCH_CMD
    (fun t => wrF MST_SCH_STAT 1 3 0 (schDisarm (rdF t MST_SCH_IDX 0 9) t)) s)

def execSchDisarmAll (who : Req) (s : State) : Host.Outcome State Fault Refusal :=
  done (serve (.schDisarmAll who) who MST_SCH_CMD
    (fun t => wrF MST_SCH_STAT 1 3 0 (forUpTo 512 schDisarm t)) s)

end Sys2Proof.Machine
end

