-- ==== Sys2Proof/Machine/Signal.lean ====
section
/-!
DEFINITION. The arithmetic of the Crow's Nest (R226 to R246): logarithms, the samples of signals and branches, the sliding
spectrum, peaks and confidence. Values are integers in units of 2^-149, angles in 2^-32 turn, logarithms in 2^-64; the
roundings are the model's (notes/assumptions/8.md).
-/

namespace Sys2Proof.Machine

open Sys2Proof

/-! Logarithms. -/

/-- The fraction bits of a base-2 logarithm of a mantissa in [2^64, 2^65), `n` of them. -/
def logBits : Nat → Nat → Nat → Nat
  | 0, _, acc => acc
  | n + 1, m, acc =>
    let q := m * m / 2 ^ 64
    if 2 ^ 65 ≤ q then logBits n (q / 2) (2 * acc + 1) else logBits n q (2 * acc)

/-- log2 of a number in units of 2^-64; of 0, 0. -/
def log2Fix (n : Nat) : Nat :=
  let e := Nat.log2 n
  e * 2 ^ 64 + logBits 64 (if e ≤ 64 then n * 2 ^ (64 - e) else n / 2 ^ (e - 64)) 0

/-- ln(a / b) in units of 2^-64. -/
def lnRatio (a b : Nat) : Int := ((log2Fix a : Int) - (log2Fix b : Int)) * 12786308645202655660 / 2 ^ 64

/-! Samples (R227 to R229). -/

/-- A quantity is a valid measurement: PRESENT or LATE, and not INVALID. -/
def qValid (q : QVal) : Bool := !qAbsent q && !qHeld q && !qInvalid q

/-- The revision-n content of a quantity at an instant. -/
def nestQty (s : State) (inst : Nat) (q : QRef) : QVal :=
  match tabOf s inst with
  | some t => readQty s t false q
  | none => { flags := 0, words := [] }

def qAngle (q : QVal) : Nat := angleOf (qRe q) (qIm q)

/-- An angle unwrapped against the previous one, so that no step exceeds half a turn (R228). -/
def unwrap (prev : Int) (a : Nat) : Int := prev + signedN (unsignedN ((a : Int) - prev) 32) 32

/-- A monitored branch at an instant, after its previous sample (R227). Each of its values is missing with what it is
made of: the flow with V or I, θ with V or the reference, v with V; a missing value repeats the last valid one
(R229). -/
def branchVal (s : State) (inst : Nat) (b : MonBranch) (refAcc : Int) (ref : QVal) (prev : BrVal) : BrVal :=
  let v := nestQty s inst b.v
  let i := nestQty s inst b.i
  let flow := qValid v && qValid i
  let acc := if qValid v then unwrap prev.acc (qAngle v) else prev.acc
  let thOk := qValid v && qValid ref
  { p := if flow then (b.k : Int) * (qRe v * qRe i + qIm v * qIm i) / 2 ^ 149 else prev.p,
    q := if flow then (b.k : Int) * (qIm v * qRe i - qRe v * qIm i) / 2 ^ 149 else prev.q,
    th := if thOk then acc - refAcc else prev.th,
    v := if qValid v then lnRatio (magnitude (qRe v) (qIm v)) (f32Val b.vnom).natAbs else prev.v,
    ok := flow, thOk := thOk, acc := acc,
    suspect := if flow then qSuspect v || qSuspect i || (thOk && qSuspect ref) else prev.suspect }

/-- A watched signal at an instant (Table 9.2); a missing value repeats the last valid one (R229). -/
def signalVal (s : State) (inst : Nat) (c : SigCfg) (brs : List BrVal) (refAcc : Int) (ref : QVal) (prev : SigVal) :
    SigVal :=
  let br := brs.getD c.branch {}
  if c.kind = 3 then (if br.ok then { val := br.p, ok := true, suspect := br.suspect } else { prev with ok := false })
  else if c.kind = 4 then (if br.ok then { val := br.q, ok := true, suspect := br.suspect } else { prev with ok := false })
  else
    let q := nestQty s inst c.q
    if c.kind = 0 then
      let acc := if qValid q then unwrap prev.acc (qAngle q) else prev.acc
      if qValid q && qValid ref then
        { val := (acc - refAcc) * 360 * 2 ^ 117, ok := true, suspect := qSuspect q || qSuspect ref, acc := acc }
      else { prev with ok := false, acc := acc }
    else if qValid q then
      { val := if c.kind = 1 then (magnitude (qRe q) (qIm q) : Int) else qRe q, ok := true, suspect := qSuspect q }
    else { prev with ok := false }

/-! Averages. -/

/-- The mean of integers. -/
def meanInt (xs : List Int) : Int := xs.sum / (atLeast 1 xs.length : Nat)

/-- The root of the mean of the squares. -/
def rmsInt (xs : List Int) : Nat := isqrt ((xs.map (fun x => x.natAbs * x.natAbs)).sum / atLeast 1 xs.length)

/-- The square root of 2 times the RMS. -/
def bandAmp (xs : List Int) : Nat := isqrt (2 * (xs.map (fun x => x.natAbs * x.natAbs)).sum / atLeast 1 xs.length)

/-- The standard deviation of numbers. -/
def stdDev (fs : List Nat) : Nat :=
  let n := fs.length
  isqrt (n * (fs.map (fun f => f * f)).sum - fs.sum * fs.sum) / atLeast 1 n

/-! Fourier sums. -/

/-- Cosine and sine of 2 pi f m / r, with f in half-µHz. -/
def phaseAt (f2 m r : Nat) : Int × Int :=
  let d := 2000000 * atLeast 1 r
  cosSin (((f2 * m % d : Nat) : Int) * (2 * (piFix : Int)) / (d : Int))

/-- The sum of x[m] e^(-j 2 pi f m / r) over samples that start at instant `m0`. -/
def fourier (f2 r : Nat) : Nat → List Int → Int × Int
  | _, [] => (0, 0)
  | m, x :: xs =>
    let c := phaseAt f2 m r
    let t := fourier f2 r (m + 1) xs
    (t.1 + x * c.1 / 2 ^ 80, t.2 - x * c.2 / 2 ^ 80)

/-- Twice the centre frequency of fast bin `k` in µHz (R240). -/
def binFreq2 (df k : Nat) : Nat := 8000000 + (2 * k + 1) * df

/-- The 256 bins of a signal over its window (R241): the window is less its mean. -/
def fastBins (df r m0 : Nat) (xs : List Int) : List (Int × Int) :=
  let u := meanInt xs
  let ys := xs.map (fun x => x - u)
  (List.range 256).map (fun k => fourier (binFreq2 df k) r m0 ys)

/-- The squared magnitude of a bin. -/
def binPower (y : Int × Int) : Nat := y.1.natAbs * y.1.natAbs + y.2.natAbs * y.2.natAbs

def binMag (y : Int × Int) : Nat := magnitude y.1 y.2

/-- The band power of each bin in units of 2^-64: each signal's |Y|^2 over its squared RMS (R242). -/
def bandPower (sigs : List (List (Int × Int) × Nat)) : List Nat :=
  (List.range 256).map (fun k =>
    (sigs.map (fun p => if p.2 = 0 then 0 else binPower (p.1.getD k (0, 0)) * 2 ^ 64 / (p.2 * p.2))).sum)

/-- Insert in rising order. -/
def insertNat (x : Nat) : List Nat → List Nat
  | [] => [x]
  | y :: ys => if x ≤ y then x :: y :: ys else y :: insertNat x ys

def sortNat (xs : List Nat) : List Nat := xs.foldr insertNat []

/-- The median of 256 powers: the mean of the two in the middle. -/
def medianPower (ps : List Nat) : Nat :=
  let t := sortNat ps
  (t.getD 127 0 + t.getD 128 0) / 2

/-- A bin is a peak: above the median by PEAK_DB and above both neighbours (R242). -/
def isPeak (ps : List Nat) (peakDb k : Nat) : Bool :=
  let p := ps.getD k 0
  decide (0 < p ∧ (k = 0 ∨ ps.getD (k - 1) 0 < p) ∧ (k = 255 ∨ ps.getD (k + 1) 0 < p))
    && decide ((peakDb : Int) * 2 ^ 128
        < ((log2Fix p : Int) - (log2Fix (medianPower ps) : Int)) * 10 * 5553023288523357132)

/-- delta of R242 in units of 2^-32; 0 at the band's ends. -/
def peakDelta (ps : List Nat) (k : Nat) : Int :=
  if k = 0 ∨ 255 ≤ k then 0
  else
    let a : Int := log2Fix (ps.getD (k - 1) 0)
    let b : Int := log2Fix (ps.getD k 0)
    let c : Int := log2Fix (ps.getD (k + 1) 0)
    let d := a - 2 * b + c
    if d = 0 then 0 else (a - c) * 2 ^ 31 / d

/-- sin(pi d) / (pi d) in units of 2^-32; 1 when d is 0. -/
def sincFix (delta : Int) : Nat :=
  let x := delta * (piFix : Int) / 2 ^ 32
  if x = 0 then 2 ^ 32 else ((cosSin x).2 * 2 ^ 32 / x).natAbs

/-- The amplitude 2 |Y| / (L x correction). -/
def binAmp (l : Nat) (y : Int × Int) (corr : Nat) : Nat := 2 * binMag y * 2 ^ 32 / atLeast 1 (l * corr)

/-! Confidence (R239). -/

/-- A ratio a / b in units of 2^-32, kept between 0 and 1. -/
def unitRatio (a : Int) (b : Nat) : Nat := (clampInt 0 (2 ^ 32) (a * 2 ^ 32 / (atLeast 1 b : Nat))).toNat

/-- CONF in per cent, from the SNR in 2^-16 dB, the deviation and the value of the frequency, and q_valid. -/
def confidence (snr : Int) (dev freq qValid : Nat) : Nat :=
  let q1 := unitRatio (snr - 3 * 2 ^ 16) (17 * 2 ^ 16)
  let q2 := 2 ^ 32 - unitRatio (50 * dev : Nat) freq
  divRound (100 * q1 * q2 * qValid) (2 ^ 96)

/-- q_valid: the share of the squared participations that non-EXCLUDED signals hold, in 2^-32. -/
def validShare (rows : List (Bool × Nat)) : Nat :=
  let all := (rows.map (fun p => p.2 * p.2)).sum
  let ok := (rows.map (fun p => if p.1 then 0 else p.2 * p.2)).sum
  if all = 0 then 0 else ok * 2 ^ 32 / all

/-- The rows of a mode shape relative to the reference signal (R238): participations as (signal, EXCLUDED, magnitude,
phase). -/
def shapeRows (ref : Nat × Nat) (ps : List (Nat × Bool × Nat × Nat)) : List ShapeRow :=
  ps.map (fun p => { sig := p.1, excluded := p.2.1, mag := f32OfRat p.2.2.1 (atLeast 1 ref.1),
                     phase := (p.2.2.2 + 2 ^ 32 - ref.2) % 2 ^ 32 })

/-- The participation with the largest magnitude, the first of equals: signal, magnitude, phase. -/
def refPart (ps : List (Nat × Bool × Nat × Nat)) : Nat × Nat × Nat :=
  ps.foldl (fun a p => if a.2.1 < p.2.2.1 then (p.1, p.2.2.1, p.2.2.2) else a) ((ps.headD (0, false, 0, 0)).1, 0, 0)

/-! Dissipating energy (R244, R245). -/

/-- 2 / n times the Fourier sum of a window less its mean. -/
def demod (freq r m0 : Nat) (xs : List Int) : Int × Int :=
  let u := meanInt xs
  let y := fourier (2 * freq) r m0 (xs.map (fun x => x - u))
  (2 * y.1 / (atLeast 1 xs.length : Nat), 2 * y.2 / (atLeast 1 xs.length : Nat))

/-- Im(a b*) of two complex values. -/
def imConj (a b : Int × Int) : Int := a.2 * b.1 - a.1 * b.2

/-- D_b in W, units of 2^-149: omega / 2 times the sum, with theta in 2^-32 turn and v in 2^-64. -/
def dissipation (freq : Nat) (p th q v : Int × Int) : Int :=
  let a := imConj p th * (2 * (piFix : Int)) / 2 ^ 112 + imConj q v / 2 ^ 64
  a * (freq : Int) * (piFix : Int) / (1000000 * 2 ^ 80)

end Sys2Proof.Machine
end

