-- ==== Sys2Proof/Machine/OscOps.lean ====
section
/-!
DEFINITION. The oscillation watch as shared operations (R226 to R257): exclusion, amplitudes, the fast band, mode slots,
source location, extraction at the close, warming, seeding and the classes of Table 9.8.
-/

namespace Sys2Proof.Machine

open Sys2Proof

/-- A mode found at an extraction or instant: its number, frequency in µHz, damping ratio, amplitude, SNR, reference
signal and its magnitude, participations (signal, magnitude, phase), and TIME_SUSPECT. -/
structure ModeOut where
  num : Nat
  freq : Nat
  zeta : Word
  amp : Word
  snr : Int
  ref : Nat × Nat × Nat
  parts : List (Nat × Nat × Nat)
  suspect : Bool
  deriving DecidableEq, Repr

/-! Settings. -/

def oscRate (s : State) : Nat := atLeast 1 s.cfg.tabRate
def emOn (s : State) : Bool := rdB s NST_OSC_CFG 0
def fastOn (s : State) : Bool := rdB s NST_OSC_CFG 1
def locOn (s : State) : Bool := rdB s NST_OSC_CFG 2
def seedAlarm (s : State) : Bool := rdB s NST_OSC_CFG 4
def fastL (s : State) : Nat := atLeast 1 (rdF s NST_FAST_CFG 8 10)
def fastDf (s : State) : Nat := (rd s NST_FAST_DF).toNat
def ampWin (s : State) : Nat := atLeast 1 (rdF s NST_AMP_CFG 0 8) * oscRate s
def confMin (w : Word) : Nat := min 100 (field w 12 7)

/-- Samples of a signal, oldest first. -/
def sigSeries (h : List OscInst) (k : Nat) : List Int := h.map (fun i => (i.sigs.getD k {}).val)

/-- Some sample of signal `k`, or of branch `k`, in the last `n` instants is TIME_SUSPECT (R230). -/
def sigSuspect (h : List OscInst) (n k : Nat) : Bool := (lastN n h).any (fun i => (i.sigs.getD k {}).suspect)
def brSuspect (h : List OscInst) (n k : Nat) : Bool := (lastN n h).any (fun i => (i.brs.getD k {}).suspect)

/-! Exclusion (R229). -/

/-- The valid fraction over the last 10 s: valid and all. -/
def validCount (oks : List Bool) : Nat × Nat := ((oks.filter (fun b => b)).length, oks.length)

/-- EXCLUDED below 90 %, back at 98 %. -/
def excludedNext (was : Bool) (c : Nat × Nat) : Bool :=
  if was then decide (100 * c.1 < 98 * c.2) else decide (100 * c.1 < 90 * c.2)

/-! The fast band (R240 to R242). -/

/-- The fast band's samples: of instants since its history began. -/
def fastHist (s : State) (h : List OscInst) : List OscInst :=
  match s.nest.fastFirst with
  | some f => lastN (fastL s) (h.filter (fun i => decide (f ≤ i.inst)))
  | none => lastN (fastL s) h

/-- The bins and the RMS of the fast signals that take part: signal, bins, RMS. -/
def fastSpectra (s : State) (w : List OscInst) (ex : Nat → Bool) : List (Nat × List (Int × Int) × Nat) :=
  ((List.range s.cfg.nest.sigs.length).filter (fun k =>
      ((s.cfg.nest.sigs[k]?).map (fun c => c.fast)).getD false && !ex k)).map (fun k =>
    let xs := sigSeries w k
    (k, fastBins (fastDf s) (oscRate s) ((w.headD { inst := 0, tag := 0, sigs := [], brs := [], refAcc := 0, refOk := false, after := {} }).inst) xs,
     rmsInt xs))

/-- The corrected amplitude of a bin: the correction of R242 at a peak, 1 elsewhere. -/
def corrAmp (s : State) (ps : List Nat) (k : Nat) (y : Int × Int) : Nat :=
  binAmp (fastL s) y (if isPeak ps (rdF s NST_FAST_CFG 0 8) k then sincFix (peakDelta ps k) else 2 ^ 32)

/-- The largest corrected amplitude and its bin. -/
def fastAmpOf (s : State) (ps : List Nat) (bins : List (Int × Int)) : Nat × Nat :=
  (List.range 256).foldl (fun a k =>
    let v := corrAmp s ps k (bins.getD k (0, 0))
    if a.1 < v then (v, k) else a) (0, 0)

/-- The frequency of a peak in µHz. -/
def peakFreq (s : State) (ps : List Nat) (k : Nat) : Nat :=
  ((binFreq2 (fastDf s) k / 2 : Nat) + peakDelta ps k * (fastDf s : Int) / 2 ^ 32).toNat

/-- zeta of a peak: the measured half-power width less the window's, over 2 f. -/
def fastZeta (s : State) (ps : List Nat) (k : Nat) : Word :=
  let win := 886 * oscRate s * 1000 / fastL s
  f32OfRat (Config.halfPower ps k - win : Nat) (atLeast 1 (2 * peakFreq s ps k))

/-- The fast modes of an instant. -/
def fastModes (s : State) (sp : List (Nat × List (Int × Int) × Nat)) (ps : List Nat) (susp : Bool) : List ModeOut :=
  ((List.range 256).filter (isPeak ps (rdF s NST_FAST_CFG 0 8))).map (fun k =>
    let y := fun (p : Nat × List (Int × Int) × Nat) => p.2.1.getD k (0, 0)
    let r := sp.foldl (fun a p =>
      let v := binMag (y p) * 2 ^ 64 / atLeast 1 p.2.2
      if a.2 < v then (p.1, v) else a) ((sp.headD (0, [], 0)).1, 0)
    let ref := ((sp.find? (fun p => decide (p.1 = r.1))).map y).getD (0, 0)
    { num := k, freq := peakFreq s ps k, zeta := fastZeta s ps k, amp := f32Round (corrAmp s ps k ref : Nat) 1,
      snr := Config.fastSnr ps k, ref := (r.1, binMag ref, angleOf ref.1 ref.2),
      parts := sp.map (fun p => (p.1, binMag (y p), angleOf (y p).1 (y p).2)), suspect := susp })

/-! Mode slots (R243, Table 9.6). -/

def dist (a b : Nat) : Nat := if a ≤ b then b - a else a - b

/-- The nearest non-FREE slot within the tolerance. -/
def chooseSlot (slots : List (Nat × ModeSlot)) (tol : Nat → Nat) (m : ModeOut) : Option Nat :=
  (slots.foldl (fun a p =>
    if p.2.st = .free ∨ tol p.2.freq < dist m.freq p.2.freq then a
    else match a with
      | none => some p
      | some b => if dist m.freq p.2.freq < dist m.freq b.2.freq then some p else a) none).map (fun p => p.1)

/-- The mode that takes slot `j`: the nearest of those that chose it. -/
def matchOf (slots : List (Nat × ModeSlot)) (tol : Nat → Nat) (ms : List ModeOut) (j : Nat) (f : Nat) : Option ModeOut :=
  ms.foldl (fun a m =>
    if chooseSlot slots tol m ≠ some j then a
    else match a with
      | none => some m
      | some b => if dist m.freq f < dist b.freq f then some m else a) none

/-- A slot's values from its mode (R238, R239, R242); the participations of EXCLUDED signals stay those of the slot.
`keep` is the number of frequencies s_f takes. -/
def fillSlot (fast : Bool) (keep inst tag : Nat) (m : ModeOut) (x : ModeSlot) : ModeSlot :=
  let fs := lastN keep (x.freqs ++ [m.freq])
  let rows := shapeRows (m.ref.2.1, m.ref.2.2) (m.parts.map (fun p => (p.1, false, p.2.1, p.2.2)))
  let old := (x.shape.filter (fun r => !rows.any (fun q => decide (q.sig = r.sig)))).map (fun r => { r with excluded := true })
  let all := rows ++ old
  let share := validShare (all.map (fun r => (r.excluded, (f32Val r.mag).natAbs * 2 ^ 32 / 2 ^ 149)))
  { x with
    freq := m.freq, zeta := m.zeta, amp := m.amp, refSig := m.ref.1, suspect := m.suspect, inst := inst, tag := tag,
    freqs := fs, shape := all, conf := confidence m.snr (stdDev fs) m.freq share,
    forced := fast && decide (f32Val m.zeta * 1000 < 2 * f32One ∧ 1000 * stdDev fs < 5 * m.freq) }

/-- One slot at an extraction: matched with enough confidence, matched with too little, or not matched. `nConf`
matches make it TRACKED; `nFade` extractions end FADING. -/
def slotStep (fast : Bool) (cmin nConf nFade keep inst tag : Nat) (x : ModeSlot) (m : Option ModeOut) : ModeSlot :=
  match x.st, m with
  | .free, _ => x
  | .candidate, none => {}
  | .candidate, some o =>
    let y := fillSlot fast keep inst tag o x
    if y.conf < cmin then { y with seen := 0 }
    else if nConf ≤ x.seen + 1 then { y with st := .tracked, seen := 0, since := inst } else { y with seen := x.seen + 1 }
  | .tracked, none => { x with st := .fading, fade := 0 }
  | .tracked, some o =>
    let y := fillSlot fast keep inst tag o x
    if y.conf < cmin then { x with st := .fading, fade := 0 } else y
  | .fading, o =>
    let good := match o with
      | some m => decide (cmin ≤ (fillSlot fast keep inst tag m x).conf)
      | none => false
    match good, o with
    | true, some m => { fillSlot fast keep inst tag m x with st := .tracked, fade := 0, since := inst }
    | _, _ => if nFade ≤ x.fade + 1 then {} else { x with fade := x.fade + 1 }

/-- Place an unmatched mode in the lowest FREE slot of `first` to `first + n - 1`; else it is dropped. With enough
confidence this is the first of its consecutive extractions. -/
def placeMode (fast : Bool) (cmin keep inst tag first n : Nat) (warming seeded : Bool) (r : NMap ModeSlot × OscEv) (m : ModeOut) :
    NMap ModeSlot × OscEv :=
  match (List.range n).find? (fun j => decide ((tget ({} : ModeSlot) r.1 (first + j)).st = .free)) with
  | some j =>
    let x := fillSlot fast keep inst tag m {}
    (tset {} r.1 (first + j)
      { x with st := .candidate, seen := b2n (decide (cmin ≤ x.conf)), warming := warming, seeded := seeded }, r.2)
  | none => (r.1, { r.2 with ovf := r.2.ovf + 1 })

/-- All slots of a band at an extraction (R243). -/
def slotsStep (fast : Bool) (cmin nConf nFade keep inst tag first n : Nat) (tol : Nat → Nat) (warming seeded : Bool)
    (slots : NMap ModeSlot) (ms : List ModeOut) : NMap ModeSlot × OscEv :=
  let old := (List.range n).map (fun j => (first + j, tget ({} : ModeSlot) slots (first + j)))
  let new := old.map (fun p =>
    (p.1, { slotStep fast cmin nConf nFade keep inst tag p.2 (matchOf old tol ms p.1 p.2.freq) with
      warming := warming, seeded := seeded && p.2.seeded }))
  let clean := new.map (fun p => if p.2.st = .free then (p.1, ({} : ModeSlot)) else p)
  let slots1 := clean.foldl (fun t p => tset {} t p.1 p.2) slots
  let pairs := old.zip clean
  let ev : OscEv :=
    { news := (pairs.filter (fun p => decide (p.1.2.st = .candidate ∧ p.2.2.st = .tracked))).length,
      losts := (pairs.filter (fun p => decide (p.1.2.st = .fading ∧ p.2.2.st = .free))).length }
  let un := ms.filter (fun m => match chooseSlot old tol m with
    | some j => decide (matchOf old tol ms j (tget ({} : ModeSlot) slots j).freq ≠ some m)
    | none => true)
  un.foldl (placeMode fast cmin keep inst tag first n warming seeded) (slots1, ev)

/-! The classes of Table 9.8. -/

/-- A TRACKED mode below ZETA_LIM with CONF_MIN. -/
def lowDamped (thr : Word) (x : ModeSlot) : Bool :=
  decide (x.st = .tracked ∧ f32Val x.zeta * 10000 < (field thr 0 12 : Nat) * f32One ∧ confMin thr ≤ x.conf)

/-- It is suppressed: WARMING, or SEEDED without SEED_ALARM (R248, R250). -/
def suppressed (s : State) (x : ModeSlot) : Bool := x.warming || (x.seeded && !seedAlarm s)

def dampOf (s : State) (thr : Word) (slots : NMap ModeSlot) : Bool :=
  slots.any (fun p => lowDamped thr p.2 && !suppressed s p.2)

def suppCount (s : State) (thr : Word) (slots : NMap ModeSlot) : Nat :=
  (slots.filter (fun p => lowDamped thr p.2 && suppressed s p.2)).length

/-- An amplitude reaches its limit; a limit of 0 is off. -/
def ampOver (lim amp : Word) : Bool := decide (f32Val lim ≠ 0 ∧ f32Val lim ≤ f32Val amp)

def ampHolds (s : State) (sigs : NMap SigSt) : Bool :=
  (List.range s.cfg.nest.sigs.length).any (fun k =>
    let x := tget ({} : SigSt) sigs k
    match s.cfg.nest.sigs[k]? with
    | some c => c.amp && x.valid && (ampOver c.emLim x.emAmp || ampOver c.fastLim x.fastAmp)
    | none => false)

/-! One instant. -/

/-- The input of an instant after its predecessor's (R227 to R229). -/
def oscInput (s : State) (inst tag : Nat) (prev : Option OscInst) : OscInst :=
  let r := match s.cfg.nest.angRef with
    | some q => nestQty s inst q
    | none => { flags := 0, words := [] }
  let refOk := qValid r
  let acc0 := (prev.map (fun p => p.refAcc)).getD 0
  let acc := if refOk then unwrap acc0 (qAngle r) else acc0
  let pb := (prev.map (fun p => p.brs)).getD []
  let ps := (prev.map (fun p => p.sigs)).getD []
  let brs := (List.range s.cfg.nest.brs.length).map (fun k =>
    match s.cfg.nest.brs[k]? with
    | some b => branchVal s inst b acc r (pb.getD k {})
    | none => {})
  { inst := inst, tag := tag, brs := brs, refAcc := acc, refOk := refOk, after := {},
    sigs := (List.range s.cfg.nest.sigs.length).map (fun k =>
      match s.cfg.nest.sigs[k]? with
      | some c => signalVal s inst c brs acc r (ps.getD k {})
      | none => {}) }

/-- The state after an instant from its history, itself included, and the state before it: exclusion, amplitudes and, while
the fast band runs, the fast modes. -/
def oscAfter (s : State) (h : List OscInst) (cur : OscInst) (prev : OscSt) : OscSt × OscEv :=
  let win := lastN (10 * oscRate s) h
  let n := s.cfg.nest.sigs.length
  let cnt := fun k => validCount (win.map (fun i => (i.sigs.getD k {}).ok))
  let ex := fun k => excludedNext (tget ({} : SigSt) prev.sigs k).excluded (cnt k)
  let brEx := (List.range s.cfg.nest.brs.length).foldl (fun m k =>
    tset false m k (excludedNext (tget false prev.brEx k)
      (validCount (win.map (fun i => (i.brs.getD k {}).ok && (i.brs.getD k {}).thOk))))) []
  let fast := fastOn s && decide (s.nest.fastState ≠ .shed)
  let w := fastHist s h
  let sp := if fast then fastSpectra s w ex else []
  let ps := bandPower (sp.map (fun p => (p.2.1, p.2.2)))
  let susp := sp.any (fun p => sigSuspect w (fastL s) p.1)
  let sigs := (List.range n).foldl (fun m k =>
    let x := tget ({} : SigSt) prev.sigs k
    let c := s.cfg.nest.sigs[k]?
    let vals := sigSeries h k
    let em := if (c.map SigCfg.amp).getD false && !ex k then
        f32Round (bandAmp ((List.range (min (ampWin s) vals.length)).map (fun j =>
          Config.emBandPass (vals.take (vals.length - j)) (rd s NST_EM_BAND) (oscRate s))) : Nat) 1
      else x.emAmp
    let fa := match sp.find? (fun p => decide (p.1 = k)) with
      | some p => if (c.map SigCfg.amp).getD false then some (fastAmpOf s ps p.2.1) else none
      | none => none
    tset {} m k
      { excluded := ex k, pct := 100 * (cnt k).1 / atLeast 1 (cnt k).2, emAmp := em,
        fastAmp := match fa with
          | some a => f32Round (a.1 : Nat) 1
          | none => x.fastAmp,
        peakMhz := match fa with
          | some a => binFreq2 (fastDf s) a.2 / 2000
          | none => x.peakMhz,
        valid := (c.map SigCfg.amp).getD false && !ex k,
        suspect := sigSuspect h (ampWin s) k || (fa.isSome && sigSuspect w (fastL s) k) }) []
  let excl := ((List.range n).filter (fun k => ex k && !(tget ({} : SigSt) prev.sigs k).excluded)).length
  let thr := rd s NST_THR_FAST
  let tenth := divUp (oscRate s) 10
  let r := if fast then
      slotsStep true (confMin thr) tenth (oscRate s) tenth cur.inst cur.tag 32 32 (fun _ => fastDf s)
        (decide (s.nest.fastState = .warming)) false prev.slots (fastModes s sp ps susp)
    else (prev.slots, {})
  ({ sigs := sigs, brEx := brEx, slots := r.1, damp := if fast then dampOf s thr r.1 else prev.damp,
     amp := ampHolds s sigs },
   { r.2 with excl := excl, supp := if fast then suppCount s thr r.1 else 0 })

/-! Source location (R244 to R246). -/

/-- The instants of a location window: LOC_PER periods, at least 1 s. -/
def locLen (s : State) (freq : Nat) : Nat :=
  max (oscRate s) (rdF s NST_AMP_CFG 8 8 * 1000000 * oscRate s / atLeast 1 freq)

/-- D_b of each branch that takes part. -/
def locBranches (s : State) (w : List OscInst) (st : OscSt) (freq : Nat) : List (Nat × MonBranch × Int) :=
  let m0 := (w.head?.map (fun i => i.inst)).getD 0
  let d := fun (f : BrVal → Int) (k : Nat) => demod freq (oscRate s) m0 (w.map (fun i => f (i.brs.getD k {})))
  (List.range s.cfg.nest.brs.length).filterMap (fun k =>
    if tget false st.brEx k then none
    else (s.cfg.nest.brs[k]?).map (fun b =>
      (k, b, dissipation freq (d (fun v => v.p) k) (d (fun v => v.th) k) (d (fun v => v.q) k) (d (fun v => v.v) k))))

/-- The net outflow of a bus. -/
def outflow (ds : List (Nat × MonBranch × Int)) (bus : Nat) : Int :=
  (ds.map (fun p => (if p.2.1.fromBus = bus then p.2.2 else 0) - (if p.2.1.toBus = bus then p.2.2 else 0))).sum

/-- The entry with the largest value, the first of equals. -/
def largest (xs : List (Nat × Int)) : Nat × Int :=
  xs.foldl (fun a p => if a.2 < p.2 then p else a) (xs.headD (0, 0))

/-- A location result over the history up to an instant. -/
def locResult (s : State) (h : List OscInst) (st : OscSt) (freq : Nat) (warming : Bool) (x : LocSlot) : LocSlot :=
  let n := locLen s freq
  let ds := locBranches s (lastN n h) st freq
  let buses := sortNat (ds.flatMap (fun p => [p.2.1.fromBus, p.2.1.toBus])).eraseDups
  let flows := buses.map (fun b => (b, outflow ds b))
  let src := largest flows
  let top := ds.foldl (fun a p => if a.2.natAbs < p.2.2.natAbs then (p.1, p.2.2) else a)
    ((ds.headD (0, ⟨⟨0, .freq⟩, ⟨0, .freq⟩, 0, 0, 1, 0#32⟩, 0)).1, 0)
  let pos := (flows.map (fun p => if 0 < p.2 then p.2 else 0)).sum
  { x with
    valid := decide (n ≤ h.length), warming := warming, suspect := ds.any (fun d => brSuspect h n d.1),
    share := if 0 < pos then (100 * (if 0 < src.2 then src.2 else 0) / pos).toNat else 0,
    srcBus := src.1, dSrc := f32Round src.2 1000000, topBranch := top.1, dTop := f32Round top.2 1000000 }

def setNest (f : Nest → Nest) (s : State) : State := { s with nest := f s.nest }

/-- A mode slot of either band. -/
def modeSlot (em fast : NMap ModeSlot) (k : Nat) : ModeSlot := tget {} (if k < 32 then em else fast) k

/-- The TRACKED mode with the lowest damping that no location slot holds: ties to the larger AMP, then the lower slot. -/
def freshMode (em fast : NMap ModeSlot) (locs : NMap LocSlot) : Option Nat :=
  ((em ++ fast).foldl (fun a p =>
    if p.2.st ≠ .tracked ∨ locs.any (fun l => decide (l.2.mode = some p.1)) then a
    else match a with
      | none => some p
      | some b =>
        if f32Val p.2.zeta < f32Val b.2.zeta ∨ (f32Val p.2.zeta = f32Val b.2.zeta ∧ f32Val b.2.amp < f32Val p.2.amp)
        then some p else a) none).map (fun p => p.1)

/-- Free location slots take modes. -/
def locAssign (em fast : NMap ModeSlot) (locs : NMap LocSlot) : NMap LocSlot :=
  (List.range 4).foldl (fun t l =>
    if (tget ({} : LocSlot) t l).mode.isSome then t
    else match freshMode em fast t with
      | some k => tset {} t l { mode := some k }
      | none => t) locs

/-- Results for the slots whose mode is of the band. -/
def locRun (s : State) (fastBand : Bool) (h : List OscInst) (st : OscSt) (em : NMap ModeSlot) (locs : NMap LocSlot) :
    NMap LocSlot :=
  (List.range 4).foldl (fun t l =>
    let x := tget ({} : LocSlot) t l
    match x.mode with
    | none => t
    | some k =>
      if decide (32 ≤ k) ≠ fastBand then t
      else
        let m := modeSlot em st.slots k
        let f := if m.st = .free then x.freq else m.freq
        tset {} t l (locResult s h st f m.warming { x with freq := f }))
    (locAssign em st.slots locs)

/-- Location slots whose mode slot went FREE are freed, after their result (Table 9.10). -/
def locKeep (em fast : NMap ModeSlot) (locs : NMap LocSlot) : NMap LocSlot :=
  locs.filter (fun l => match l.2.mode with
    | some k => decide ((modeSlot em fast k).st ≠ .free)
    | none => false)

/-- The location slots that modes of a band hold. -/
def locsOf (fastBand : Bool) (locs : NMap LocSlot) : NMap LocSlot :=
  locs.filter (fun l => match l.2.mode with
    | some k => decide (decide (32 ≤ k) = fastBand)
    | none => false)

/-- The location slots of both bands: those that EM modes hold stand. -/
def locMerge (em fast : NMap LocSlot) : NMap LocSlot :=
  (locsOf true fast).foldl (fun m p => if em.any (fun q => decide (q.1 = p.1)) then m else tset {} m p.1 p.2) (locsOf false em)

/-! One instant computed after the instants before it, and again (R232). -/

/-- What an instant finds now. -/
def oscEnv (s : State) : OscEnv :=
  { fastSt := s.nest.fastState, fastFrom := s.nest.fastFirst, thr := rd s NST_THR_FAST, emSlots := s.nest.emSlots,
    emLocs := locsOf false s.nest.locs, emDamp := s.nest.emDamp }

/-- The state as an instant found it. -/
def oscAsOf (e : OscEnv) (s : State) : State :=
  wr NST_THR_FAST e.thr (setNest (fun n => { n with
    fastState := e.fastSt, fastFirst := e.fastFrom, emSlots := e.emSlots, emDamp := e.emDamp }) s)

/-- Slots of the shed band keep their values with SHED set (R255). -/
def shedSlots (m : NMap ModeSlot) : NMap ModeSlot := m.map (fun p => (p.1, { p.2 with shed := true }))

/-- The state that an instant goes on from: its predecessor's, without the fast band's where that has restarted since
(R251). -/
def oscBefore (e : OscEnv) (prev : Option OscInst) : OscSt :=
  match prev with
  | none => {}
  | some p => if p.env.fastFrom = e.fastFrom then p.after else { p.after with slots := [], damp := false }

/-- An instant with what it found, and the location results it issues, before slots are freed. -/
def oscOne (s0 : State) (e : OscEnv) (before : List OscInst) (locs0 : NMap LocSlot) (inst tag : Nat) : OscInst × NMap LocSlot :=
  let s := oscAsOf e s0
  let prev := before.getLast?
  let cur := oscInput s inst tag prev
  let h := before ++ [cur]
  let r0 := oscAfter s h cur (oscBefore e prev)
  let r := if e.fastSt = .shed then ({ r0.1 with slots := shedSlots r0.1.slots }, r0.2) else r0
  let locs := if locOn s ∧ s.nest.fastState ≠ .shed then locRun s true h r.1 e.emSlots locs0 else locs0
  ({ cur with env := e, after := { r.1 with locs := locKeep e.emSlots r.1.slots locs }, ev := r.2 }, locs)

/-- The location slots with which an instant is computed again: its predecessor's of the fast band, its own of the EM
band. -/
def locsAgain (before : List OscInst) (e : OscEnv) : NMap LocSlot :=
  locMerge e.emLocs (match before.getLast? with
    | some p => if p.env.fastFrom = e.fastFrom then p.after.locs else []
    | none => [])

/-- Later instants computed again, silently. -/
def oscLater (s : State) : List OscInst → List OscInst → List OscInst
  | before, [] => before
  | before, i :: is =>
    oscLater s (before ++ [(oscOne s i.env before (locsAgain before i.env) i.inst i.tag).1]) is

/-- OSC_SRC of some location slots. -/
def srcHolds (s : State) (locs : NMap LocSlot) : Bool :=
  locs.any (fun p => p.2.mode.isSome && p.2.valid && !p.2.warming && decide (rdF s NST_AMP_CFG 16 7 ≤ p.2.share))

/-! Issue of outputs. -/

def oscCount (k n : Nat) (s : State) : State := count (NST_OSC_CNT (2 * k)) n s

/-- Raise a bit when a condition holds. -/
def raiseIf (c : Bool) (a k : Nat) (s : State) : State := if c then raise a k s else s

/-- The counters and interrupts of what happened. -/
def oscEvents (e : OscEv) (s : State) : State :=
  raiseIf (decide (0 < e.ovf)) NST_OSC_INT 10 (raiseIf (decide (0 < e.losts)) NST_OSC_INT 1
    (raiseIf (decide (0 < e.news)) NST_OSC_INT 0
      (oscCount 7 e.supp (oscCount 6 e.excl (oscCount 5 e.ovf (oscCount 4 e.losts (oscCount 3 e.news s)))))))

/-- The classes' present values, with the interrupts of those that became true (NST_OSC_INT). -/
def oscNow (damp amp src : Bool) (s : State) : State :=
  raiseIf (src && !s.nest.srcNow) NST_OSC_INT 4 (raiseIf (amp && !s.nest.ampNow) NST_OSC_INT 3
    (raiseIf (damp && !s.nest.dampNow) NST_OSC_INT 2
      (setNest (fun n => { n with dampNow := damp, ampNow := amp, srcNow := src }) s)))

/-- The TIME_SUSPECT of the classes (R230): of some TRACKED mode, of some signal's amplitude, of some located source. -/
def dampSuspect (em fast : NMap ModeSlot) : Bool := (em ++ fast).any (fun p => decide (p.2.st = .tracked) && p.2.suspect)
def ampSuspect (sigs : NMap SigSt) : Bool := sigs.any (fun p => p.2.valid && p.2.suspect)
def srcSuspect (locs : NMap LocSlot) : Bool := locs.any (fun p => p.2.mode.isSome && p.2.suspect)

/-- The classes of an instant go to their rules (R252): the amplitudes always, the fast band's while it is not shed. -/
def oscClasses (i : OscInst) (locs : NMap LocSlot) (s : State) : State :=
  let x := i.after
  let t := classOutput 1 false i.inst i.tag false x.amp (ampSuspect x.sigs) s
  if fastOn s ∧ i.env.fastSt ≠ .shed then
    classOutput 2 false i.inst i.tag false (srcHolds s locs) (srcSuspect locs)
      (classOutput 0 false i.inst i.tag false (x.damp || i.env.emDamp) (dampSuspect i.env.emSlots x.slots) t)
  else t

/-- Warm-up of the fast band: the first instant at or after 60 s (R247). -/
def fastWarm (inst : Nat) (s : State) : State :=
  match s.nest.fastState, s.nest.fastFirst with
  | .warming, some f =>
    if f + 60 * oscRate s ≤ inst then raise NST_OSC_INT 5 (setNest (fun n => { n with fastState := .run }) s) else s
  | _, _ => s

/-- The first instants of the bands. -/
def oscFirst (inst : Nat) (s : State) : State :=
  setNest (fun n => { n with
    emFirst := match n.emFirst with
      | some f => some f
      | none => some inst,
    fastFirst := match n.fastFirst with
      | some f => some f
      | none => some inst }) s

/-- R231: revision 0 of an instant. -/
def oscSeal (inst : Nat) (s0 : State) : State :=
  let s := fastWarm inst (oscFirst inst s0)
  let r := oscOne s (oscEnv s) s.nest.osc s.nest.locs inst 0
  let t := setNest (fun n => { n with osc := n.osc ++ [r.1], locs := r.1.after.locs }) s
  let u := oscEvents r.1.ev (if fastOn t ∧ t.nest.fastState ≠ .shed then oscCount 1 1 t else t)
  oscClasses r.1 r.2 (oscNow (r.1.after.damp || u.nest.emDamp) r.1.after.amp (srcHolds u r.2) u)

/-- What a re-run counts that the instant had not counted before; each suppressed evaluation counts. -/
def evMore (new old : OscEv) : OscEv :=
  { excl := new.excl - old.excl, news := new.news - old.news, losts := new.losts - old.losts, ovf := new.ovf - old.ovf,
    supp := new.supp }

/-- R232: a revision of an instant already processed: its outputs are issued again with the tag, and later instants are
computed again without an issue. -/
def oscRerun (inst tag : Nat) (s : State) : State :=
  match s.nest.osc.find? (fun i => decide (i.inst = inst)) with
  | none => s
  | some old =>
    let before := s.nest.osc.filter (fun i => decide (i.inst < inst))
    let later := s.nest.osc.filter (fun i => decide (inst < i.inst))
    let r := oscOne s old.env before (locsAgain before old.env) inst tag
    let all := oscLater s (before ++ [r.1]) later
    let locs := locMerge s.nest.locs (((all.getLast?).map (fun i => i.after.locs)).getD [])
    let t := oscCount 2 1 (setNest (fun n => { n with osc := all, locs := locs }) s)
    oscClasses r.1 r.2 (oscEvents (evMore r.1.ev old.ev) (if later = [] then
      oscNow (r.1.after.damp || t.nest.emDamp) r.1.after.amp (srcHolds t r.2) t else t))

/-! The EM band (R235 to R239). -/

def emRate (s : State) : Nat := atLeast 1 (rdF s NST_OSC_CFG 16 5)

/-- The decimation D. -/
def emDec (s : State) : Nat := atLeast 1 (oscRate s / emRate s)

/-- G_d in instants. -/
def emDelay (s : State) : Nat := if emDec s = 1 then 0 else oscRate s / 5

/-- f in µHz and zeta of an eigenvalue (R237). -/
def eigFreq (s : State) (e : Config.Eigen) : Nat := emRate s * e.arg * 1000000 / 2 ^ 32

def eigZeta (e : Config.Eigen) : Word :=
  let w : Nat := e.arg * (2 * piFix) / 2 ^ 48
  f32OfRat (-e.ln) (atLeast 1 (magnitude e.ln w))

/-- F_LO and F_HI in µHz. -/
def emLo (s : State) : Nat := rdF s NST_EM_BAND 0 16 * 1000
def emHi (s : State) : Nat := rdF s NST_EM_BAND 16 16 * 1000

/-- The EM signals that are not EXCLUDED. -/
def emSignals (s : State) : List Nat :=
  let last := (s.nest.osc.getLast?.map (fun i => i.after)).getD {}
  (List.range s.cfg.nest.sigs.length).filter (fun k =>
    ((s.cfg.nest.sigs[k]?).map (fun c => c.em)).getD false && !(tget ({} : SigSt) last.sigs k).excluded)

/-- The low-pass of R235 at sample `c` of a signal's samples, oldest first: linear phase over G_d on either side, DC
gain 1; the ends repeat. -/
def lowPass (s : State) (xs : List Int) (c : Nat) : Int :=
  let x := fun (j : Nat) => xs.getD j (xs.getLastD 0)
  if emDec s = 1 then x c
  else
    let ds := (List.range (emDelay s)).map (fun d => d + 1)
    let half := (ds.map (Config.emTap (oscRate s))).sum
    (x c * (2 ^ 30 - 2 * half) + (ds.map (fun d => Config.emTap (oscRate s) d * (x (c - d) + x (c + d)))).sum) / 2 ^ 30

/-- The closed instants of the EM band up to `upTo`. -/
def emInsts (s : State) (upTo : Nat) : List OscInst :=
  s.nest.osc.filter (fun i => decide (i.inst ≤ upTo ∧ (s.nest.emFirst.getD 0) ≤ i.inst))

/-- A signal's decimated samples, oldest first: at every D-th instant from each whole TAI second whose low-pass is
complete (R235). -/
def emDecimated (s : State) (upTo k : Nat) : List Int :=
  let is := emInsts s upTo
  let xs := is.map (fun i => (i.sigs.getD k {}).val)
  (List.range is.length).filterMap (fun c =>
    let n := ((is[c]?).map OscInst.inst).getD 0
    if n % oscRate s % emDec s = 0 ∧ n + emDelay s ≤ upTo then some (lowPass s xs c) else none)

/-- The memory of the estimator in samples: T_MEM_S x r_em; its forgetting factor is 1 less its inverse. -/
def emMemory (s : State) : Nat := atLeast 1 (rdF s NST_EM_MEM 0 16 * emRate s)

/-- Samples over their running RMS, in 2^-32: the mean square forgets by 1 - 1/m, from the first one on. -/
def normalised (m : Nat) : Int → List Int → List Int
  | _, [] => []
  | ms, y :: ys =>
    let n := ms + (y * y - ms) / (m : Int)
    let r := isqrt n.toNat
    (if r = 0 then 0 else y * 2 ^ 32 / (r : Int)) :: normalised m n ys

/-- An EM signal as the estimator takes it (R236): high-passed at F_LO / 2, over its running RMS. -/
def emNormal (s : State) (xs : List Int) : List Int :=
  let ys := (List.range xs.length).map (fun j => Config.emHighPass (xs.take (j + 1)) (rdF s NST_EM_BAND 0 16) (emRate s))
  normalised (emMemory s) (ys.headD 0 * ys.headD 0) ys

/-- The normalised samples of the signals that take part, by signal. -/
def emRows (s : State) (upTo : Nat) : List (List Int) := (emSignals s).map (fun k => emNormal s (emDecimated s upTo k))

/-- AMP of R238: of the mode's component in the reference signal over AMP_WIN_S. -/
def emAmp (s : State) (upTo ref : Nat) (e : Config.Eigen) : Word :=
  f32Round (bandAmp (lastN (atLeast 1 (rdF s NST_AMP_CFG 0 8) * emRate s)
    (Config.modeComponent (emDecimated s upTo ref) e.arg e.ln)) : Nat) 1

/-- The modes of an extraction: complex pairs with a positive imaginary part within the band, at most ORDER / 2; the
participations are those of the signals that take part. -/
def emModes (s : State) (upTo : Nat) (es : List Config.Eigen) (susp : Bool) : List ModeOut :=
  let ok := (es.filter (fun e => decide (0 < e.arg ∧ e.arg < 2 ^ 31 ∧ emLo s ≤ eigFreq s e ∧ eigFreq s e ≤ emHi s))).take
    (rdF s NST_OSC_CFG 8 6 / 2)
  (List.range ok.length).filterMap (fun i => (ok[i]?).map (fun e =>
    let parts := (emSignals s).zip e.parts
    let ref := refPart (parts.map (fun p => (p.1, false, p.2.1, p.2.2)))
    { num := i, freq := eigFreq s e, zeta := eigZeta e, amp := emAmp s upTo ref.1 e, snr := e.snr, ref := ref, parts := parts,
      suspect := susp }))

/-- The end of the EM band's warm-up: the first extraction at or after T_warm (R247). -/
def emWarm (x : Nat) (s : State) : State :=
  match s.nest.emFirst with
  | some f =>
    if (s.nest.emState = .warming ∨ s.nest.emState = .seeded) ∧ f + rdF s NST_EM_MEM 16 16 * oscRate s ≤ x then
      raise NST_OSC_INT 5 (setNest (fun n => { n with emState := .run }) s)
    else s
  | none => s

/-- R249: a baseline may be written. -/
def baselineOk (s : State) : Bool :=
  !s.nest.stopped && decide (s.nest.emState = .run) && s.nest.emSlots.any (fun p => decide (p.2.st = .tracked))

/-- The 16 largest participations of a shape, the first of equals. -/
def largestParts (rows : List ShapeRow) : List ShapeRow :=
  (rows.foldl (fun l r => (l.takeWhile (fun x => decide (f32Val r.mag ≤ f32Val x.mag))) ++ r ::
    (l.dropWhile (fun x => decide (f32Val r.mag ≤ f32Val x.mag)))) []).take 16

/-- A mode-baseline record (Table 9.7); the Ledger keeps two slots, written alternately. -/
def baselineSave (s : State) : State :=
  if baselineOk s && !s.ledger.fail then
    let upTo := s.nest.extracted + emDelay s
    let b : Baseline :=
      { digest := s.cfg.nest.digest, rate := s.cfg.tabRate, order := rdF s NST_OSC_CFG 8 6, band := rd s NST_EM_BAND,
        sec := tabTime s s.nest.extracted / taiSecUnit,
        modes := (s.nest.emSlots.filter (fun p => decide (p.2.st = .tracked))).map (fun p =>
          (p.1, { p.2 with shape := largestParts p.2.shape })),
        subspace := Config.emSubspace (emRows s upTo) (rdF s NST_OSC_CFG 8 6) (emMemory s) s.nest.emSeed, crc := 0#32 }
    raise NST_OSC_INT 8 (setNest (fun n => { n with baselines := lastN 2 (n.baselines ++ [{ b with crc := baselineCrc b }]) }) s)
  else s

/-- NST_BASE.BASE_S; values below 60 act as 60. -/
def basePeriod (s : State) : Nat := max 60 (rdF s NST_BASE 0 16)

/-- R237: the extraction at instant `x`, final with the FINAL_REV of its tableau. -/
def emExtract (x upTo : Nat) (s0 : State) : State :=
  let s := emWarm x (setNest (fun n => { n with extracted := x }) s0)
  let tag := (tget none s.nest.finals x).getD 0
  let h := s.nest.osc.filter (fun i => decide (i.inst ≤ x))
  let susp := (emSignals s).any (fun k => sigSuspect h (rdF s NST_EM_MEM 0 16 * oscRate s) k)
  let thr := rd s NST_THR_EM
  let es := Config.emEigen (emRows s upTo) (rdF s NST_OSC_CFG 8 6) (emMemory s) s.nest.emSeed
  let r := slotsStep false (confMin thr) 3 10 10 x tag 0 24 (fun f => max (f / 20) 10000)
    (decide (s.nest.emState = .warming)) (decide (s.nest.emState = .seeded)) s.nest.emSlots (emModes s upTo es susp)
  let st := (s.nest.osc.getLast?.map (fun i => i.after)).getD {}
  let locs := if locOn s then locRun s false h st r.1 s.nest.locs else s.nest.locs
  let damp := dampOf s thr r.1
  let t := oscCount 0 1 (setNest (fun n => { n with emSlots := r.1, locs := locKeep r.1 st.slots locs, emDamp := damp }) s)
  let u := oscEvents { r.2 with supp := suppCount s thr r.1 } t
  let v := oscNow (damp || st.damp) u.nest.ampNow (srcHolds u locs) u
  let w := classOutput 2 true x tag false (srcHolds v locs) (srcSuspect locs)
    (classOutput 0 true x tag false (damp || st.damp) (dampSuspect r.1 st.slots) v)
  if w.nest.saveNow then baselineSave (setNest (fun n => { n with saveNow := false }) w) else w

/-- The close notice of an instant: it enters the estimator, and an extraction instant G_d before it is extracted. -/
def oscClose (inst rev : Nat) (s : State) : State :=
  let t := setNest (fun n => { n with finals := tset none n.finals inst (some rev) }) s
  let x := inst - emDelay t
  if emOn t ∧ emDelay t ≤ inst ∧ x % oscRate t = 0 ∧ t.nest.emFirst.any (fun f => decide (f ≤ x)) then emExtract x inst t
  else t

/-! Start, restart and shedding (R247 to R251, R255). -/

/-- R251: the EM band restarts WARMING, unseeded. -/
def emRestart (s : State) : State :=
  setNest (fun n => { n with
    emState := if emOn s then .warming else .off, emSlots := [], emFirst := none, emDamp := false, emSeed := [],
    locs := n.locs.filter (fun l => decide (l.2.mode.all (fun k => 32 ≤ k))) }) s

/-- R251: the fast band restarts WARMING. -/
def fastRestart (s : State) : State :=
  setNest (fun n => { n with
    fastState := if fastOn s then .warming else .off, fastFirst := none,
    osc := n.osc.map (fun i => { i with after := { i.after with slots := [], damp := false } }),
    locs := n.locs.filter (fun l => decide (l.2.mode.all (fun k => k < 32))) }) s

/-- R255: the fast band is shed; its slots keep their values with SHED set. -/
def fastShed (s : State) : State :=
  if fastOn s ∧ s.nest.fastState ≠ .shed then
    raise NST_OSC_INT 7 (setNest (fun n => { n with
      fastState := .shed,
      osc := n.osc.map (fun i => { i with
        after := { i.after with slots := shedSlots i.after.slots } }) }) s)
  else s

/-- Seeding's result (NST_SEED_STAT.RESULT, R250). -/
def seedResult (s : State) : Nat × Option Baseline :=
  if !rdB s NST_OSC_CFG 3 then (0, none)
  else match newestBaseline s with
    | none => (if s.nest.baselines = [] then 2 else 6, none)
    | some b =>
      if b.digest ≠ s.cfg.nest.digest then (3, some b)
      else if b.rate ≠ s.cfg.tabRate ∨ b.order ≠ rdF s NST_OSC_CFG 8 6 ∨ b.band ≠ rd s NST_EM_BAND then (5, some b)
      else if rdF s NST_SEED_CFG 0 16 * 3600 < taiSec s - b.sec then (4, some b)
      else (1, some b)

/-- The oscillation watch starts: no history; the EM band is SEEDED from the newest baseline or WARMING (R247, R250). -/
def oscStart (s : State) : State :=
  let t := setNest (fun n => { n with
    osc := [], finals := [], extracted := 0, emSlots := [], locs := [], emFirst := none, fastFirst := none,
    emDamp := false, dampNow := false, ampNow := false, srcNow := false, saveNow := false, stopped := false, emSeed := [],
    baseAt := s.ticks,
    emState := if emOn s then .warming else .off, fastState := if fastOn s then .warming else .off }) s
  let r := seedResult t
  let modes := (r.2.map (fun b => b.modes)).getD []
  let age := (r.2.map (fun b => (taiSec s - b.sec) / 3600)).getD 0
  let u := if r.1 = 1 ∧ emOn s then setNest (fun n => { n with
      emState := .seeded, emSeed := (r.2.map (fun b => b.subspace)).getD [],
      emSlots := modes.map (fun p => (p.1, { p.2 with st := .tracked, warming := false, seeded := true })) }) t
    else t
  if rdB s NST_OSC_CFG 3 then
    raise NST_OSC_INT 6 (wr NST_SEED_STAT
      (wordOf (r.1 + 8 * (if r.1 = 1 then min modes.length 31 else 0) + 2 ^ 8 * min age 0xFFFFFF)) u)
  else u

end Sys2Proof.Machine
end

