-- ==== Sys2Proof/Machine/TopoOps.lean ====
section
/-!
DEFINITION. The topology unit as shared operations (R259 to R280): status points, components, centres of inertia, candidates,
island slots, the latest-status graph, and the issue of its outputs.
-/

namespace Sys2Proof.Machine

open Sys2Proof

/-- A candidate (R268, R269): its buses, whether it is a coherency group, and its component. -/
structure Cand where
  buses : List Nat
  group : Bool
  comp : Nat
  deriving DecidableEq, Repr

/-! Settings. -/

/-- A difference of frequencies, in units of 2^-149 Hz, reaches FREQ_THR. -/
def freqReach (s : State) (d : Int) : Bool :=
  decide (((atLeast 1 (rdF s NST_ISL_THR 0 12) : Nat) : Int) * f32One ≤ (d.natAbs : Int) * 1000)

/-- A slip, in 2^-32 turn, reaches SLIP_DEG. -/
def slipReach (s : State) (d : Int) : Bool := decide (atLeast 1 (rdF s NST_ISL_THR 12 8) * 2 ^ 32 ≤ d.natAbs * 360)

/-- The persistence counts and the other settings. -/
def nPersist (s : State) : Nat := atLeast 1 (rdF s NST_ISL_THR 20 8)
def nSusp (s : State) : Nat := atLeast 1 (rdF s NST_ISL_SUSP 0 8)
def minBuses (s : State) : Nat := atLeast 1 (rdF s NST_ISL_SUSP 8 8)
def deadPct (s : State) : Nat := rdF s NST_ISL_SUSP 16 7
def mainBus (s : State) : Nat := rdF s NST_TOP_CFG 0 14
def homeBus (s : State) : Nat := rdF s MST_CYC_HOME 0 14

/-- INTER_MS lies between instants `a` and `b`. -/
def interPassed (s : State) (a b : Nat) : Bool := decide (rdF s NST_ISL_SUSP 24 8 * s.cfg.tabRate ≤ (b - a) * 100)

/-! Status points (R261, R262). -/

/-- What a digital word says of a point: closed, open, intermediate or bad. -/
inductive PointRead where
  | closed
  | opened
  | inter
  | bad
  deriving DecidableEq, Repr

def readPoint (c : PointCfg) (w : BitVec 16) : PointRead :=
  let lo := w.toNat.testBit c.bit
  let hi := w.toNat.testBit (c.bit + 1)
  if c.kind = 0 then (if lo then .closed else .opened)
  else if c.kind = 1 then (if lo then .opened else .closed)
  else if hi && !lo then .closed
  else if !hi && lo then .opened
  else if hi then .bad else .inter

/-- A point at an instant: `w` is its word when known. An intermediate value keeps the last known one for INTER_MS. -/
def pointStep (s : State) (c : PointCfg) (inst : Nat) (w : Option (BitVec 16)) (x : PointSt) : PointSt :=
  match w.map (readPoint c) with
  | none => { x with unknown := true }
  | some .closed => { known := some true, unknown := false, inter := none }
  | some .opened => { known := some false, unknown := false, inter := none }
  | some .bad => { x with unknown := true, inter := none }
  | some .inter =>
    let at0 := x.inter.getD inst
    { x with inter := some at0, unknown := x.known.isNone || interPassed s at0 inst }

/-- The value a point acts with. -/
def pointActs (c : PointCfg) (x : PointSt) : Bool := x.known.getD c.normal

/-- The state of point `k` in a table. -/
def pointOf (pts : NMap PointSt) (k : Nat) : PointSt := tget {} pts k

def pointCfg (s : State) (k : Nat) : PointCfg := (s.cfg.nest.points[k]?).getD ⟨0, 0, 0, 0, true⟩

/-- A branch is in service (R260). -/
def inService (s : State) (pts : Nat → PointSt) (b : TopBranch) : Bool :=
  b.points.all (fun k => pointActs (pointCfg s k) (pts k))

/-- A branch carries STATUS_LOST (R262). -/
def statusLost (pts : Nat → PointSt) (b : TopBranch) : Bool := b.points.any (fun k => (pts k).unknown)

/-! Components (R264). Each bus carries the number of the lowest bus of its component. -/

def joinBuses (comp : List Nat) (b : TopBranch) : List Nat :=
  let x := comp.getD b.fromBus b.fromBus
  let y := comp.getD b.toBus b.toBus
  if x = y then comp else comp.map (fun c => if c = max x y then min x y else c)

def components (s : State) (pts : Nat → PointSt) : List Nat :=
  (s.cfg.nest.branches.filter (inService s pts)).foldl joinBuses (List.range s.cfg.nest.buses)

def compOf (comp : List Nat) (bus : Nat) : Nat := comp.getD bus bus

/-! Measurements (R263). -/

def busVal (s : State) (inst : Nat) (m : MeasBus) : BusVal :=
  let f := nestQty s inst m.freq
  let v := m.volt.map (nestQty s inst)
  let ok := match v with
    | some q => qValid q
    | none => false
  let q := v.getD { flags := 0, words := [] }
  { valid := qValid f, freq := qRe f, suspect := qSuspect f || (ok && qSuspect q),
    dead := ok && decide ((magnitude (qRe q) (qIm q) : Int) * 100 < (deadPct s : Int) * f32Val m.vnom),
    theta := if ok then some (qAngle q) else none }

/-- H of a measured bus. -/
def busH (s : State) (bus : Nat) : Int :=
  match s.cfg.nest.meas.find? (fun p => decide (p.1 = bus)) with
  | some p => f32Val p.2.h
  | none => 0

def sumH (s : State) (buses : List Nat) : Int := (buses.map (busH s)).sum

def busAt (vals : List (Nat × BusVal)) (bus : Nat) : BusVal :=
  match vals.find? (fun p => decide (p.1 = bus)) with
  | some p => p.2
  | none => {}

/-- Valid, not DEAD. -/
def busLive (v : BusVal) : Bool := v.valid && !v.dead

/-- The live measured buses of a set. -/
def liveOf (vals : List (Nat × BusVal)) (p : Nat → Bool) : List Nat :=
  (vals.filter (fun x => p x.1 && busLive x.2)).map (fun x => x.1)

/-! Classes of components (R264). -/

def compLive (vals : List (Nat × BusVal)) (comp : List Nat) (c : Nat) : Bool :=
  vals.any (fun x => decide (compOf comp x.1 = c) && busLive x.2)

def compDead (vals : List (Nat × BusVal)) (comp : List Nat) (c : Nat) : Bool :=
  vals.any (fun x => decide (compOf comp x.1 = c) && x.2.valid) && !compLive vals comp c

/-- The components that contain a measured bus. -/
def measComps (vals : List (Nat × BusVal)) (comp : List Nat) : List Nat :=
  (vals.map (fun x => compOf comp x.1)).eraseDups

/-- The main component, if any component is LIVE. -/
def mainComp (s : State) (vals : List (Nat × BusVal)) (comp : List Nat) : Option Nat :=
  let c := compOf comp (mainBus s)
  if compLive vals comp c then some c
  else (((measComps vals comp).filter (compLive vals comp)).foldl (fun a d =>
    let h := sumH s (liveOf vals (fun b => decide (compOf comp b = d)))
    match a with
    | none => some (d, h)
    | some p => if p.2 < h then some (d, h) else a) none).map (fun p => p.1)

/-! Centres of inertia (R265). -/

def coiFreq (s : State) (vals : List (Nat × BusVal)) (g : List Nat) : Option Int :=
  if sumH s g = 0 then none
  else some ((g.map (fun b => busH s b * (busAt vals b).freq)).sum / sumH s g)

/-- An angle moved by whole turns into half a turn of `prev`. -/
def nearTurn (prev : Int) (a : Nat) : Int := prev + signedN (unsignedN ((a : Int) - prev) 32) 32

def coiTheta (s : State) (vals : List (Nat × BusVal)) (prev : Option Int) (g : List Nat) : Option Int :=
  let ok := g.filter (fun b => (busAt vals b).theta.isSome)
  if sumH s ok = 0 then none
  else some ((ok.map (fun b => busH s b * nearTurn (prev.getD 0) ((busAt vals b).theta.getD 0))).sum / sumH s ok)

/-! Coherency groups (R268). -/

/-- Buses by rising frequency. -/
def insertBus (vals : List (Nat × BusVal)) (b : Nat) : List Nat → List Nat
  | [] => [b]
  | c :: cs => if (busAt vals b).freq ≤ (busAt vals c).freq then b :: c :: cs else c :: insertBus vals b cs

def sortBuses (vals : List (Nat × BusVal)) (bs : List Nat) : List Nat := bs.foldr (insertBus vals) []

/-- Runs of a sorted list, split where neighbours differ by FREQ_THR or more. -/
def splitRuns (s : State) (vals : List (Nat × BusVal)) : List Nat → List (List Nat)
  | [] => []
  | b :: bs =>
    match splitRuns s vals bs with
    | [] => [[b]]
    | g :: gs =>
      if freqReach s ((busAt vals (g.headD b)).freq - (busAt vals b).freq) then [b] :: g :: gs else (b :: g) :: gs

/-- The groups of a component, and its core: the one with the largest H. -/
def groupsOf (s : State) (vals : List (Nat × BusVal)) (comp : List Nat) (c : Nat) : List (List Nat) :=
  splitRuns s vals (sortBuses vals (liveOf vals (fun b => decide (compOf comp b = c))))

def coreOf (s : State) (gs : List (List Nat)) : List Nat :=
  gs.foldl (fun a g => if sumH s a < sumH s g then g else a) []

/-- All buses of a component. -/
def compBuses (comp : List Nat) (c : Nat) : List Nat :=
  (List.range comp.length).filter (fun b => decide (compOf comp b = c))

/-- The candidates of an instant (R269), with the main component `m`. -/
def candidates (s : State) (vals : List (Nat × BusVal)) (comp : List Nat) (m : Nat) : List Cand :=
  let live := (measComps vals comp).filter (compLive vals comp)
  let parts := (live.filter (fun c => decide (c ≠ m))).map (fun c => { buses := compBuses comp c, group := false, comp := c })
  let groups := live.flatMap (fun c =>
    let gs := groupsOf s vals comp c
    (gs.filter (fun g => decide (g ≠ coreOf s gs ∧ minBuses s ≤ g.length))).map (fun g =>
      { buses := sortNat g, group := true, comp := c }))
  parts ++ groups

/-! Matching (R269). -/

/-- The shared H of two bus sets. -/
def sharedH (s : State) (a b : List Nat) : Int := sumH s (a.filter (fun x => decide (x ∈ b)))

/-- The non-FREE slot whose bus set shares the largest H with a candidate. -/
def chooseIsl (s : State) (slots : NMap IslSlot) (c : Cand) : Option Nat :=
  (slots.foldl (fun a p =>
    let h := sharedH s c.buses p.2.buses
    if p.2.st = .free ∨ h ≤ 0 then a
    else match a with
      | none => some (p.1, h)
      | some q => if q.2 < h then some (p.1, h) else a) none).map (fun p => p.1)

/-- The candidate that takes slot `j`. -/
def islMatch (s : State) (slots : NMap IslSlot) (cs : List Cand) (j : Nat) : Option Cand :=
  cs.foldl (fun a c =>
    if chooseIsl s slots c ≠ some j then a
    else match a with
      | none => some c
      | some b =>
        if sharedH s b.buses (tget ({} : IslSlot) slots j).buses < sharedH s c.buses (tget ({} : IslSlot) slots j).buses
        then some c else a) none

/-! Divergence (R267). -/

/-- The values of a slot over a bus set against the main core: f_COI, Δf, theta, slip, measured buses, suspect. -/
def islValues (s : State) (vals : List (Nat × BusVal)) (fM : Option Int) (tM : Option Int) (buses : List Nat) (x : IslSlot) :
    IslSlot :=
  let g := liveOf vals (fun b => decide (b ∈ buses))
  let f := coiFreq s vals g
  let t := coiTheta s vals x.theta g
  let sep := match t, tM with
    | some a, some m => some (a - m)
    | _, _ => none
  let t0 := match x.theta0, sep with
    | some a, _ => some a
    | none, v => v
  { x with
    buses := buses, measured := g.length, suspect := g.any (fun b => (busAt vals b).suspect),
    fCoi := match f with
      | some v => f32Round v 1
      | none => x.fCoi,
    df := match f, fM with
      | some a, some m => a - m
      | _, _ => x.df,
    theta := match t with
      | some a => some a
      | none => x.theta,
    theta0 := t0,
    slip := match sep, t0 with
      | some a, some b => a - b
      | _, _ => x.slip }

/-- Divergence over a bus set; none while a centre of inertia is missing. -/
def diverges (s : State) (vals : List (Nat × BusVal)) (fM : Option Int) (x : IslSlot) : Option Bool :=
  let g := liveOf vals (fun b => decide (b ∈ x.buses))
  match coiFreq s vals g, fM with
  | some _, some _ => some (freqReach s x.df || slipReach s x.slip)
  | _, _ => none

/-! Slots (Table 10.2). -/

/-- A slot changes state at an instant; one that comes back from ENDING keeps the instant of its declaration. -/
def islTo (st : IslState) (inst tag : Nat) (x : IslSlot) : IslSlot :=
  { x with
    st := st, inst := inst, tag := tag,
    declAt := if st = .declared ∧ x.st ≠ .ending then some inst else x.declAt }

/-- A PENDING slot with its candidate. Where the graph rejoins it at the instant at which its count would reach N, the
rejoin is judged first (Table 10.5). -/
def islPending (s : State) (inst tag : Nat) (wasGroup main : Bool) (c : Cand) (div : Option Bool) (x : IslSlot) : IslSlot :=
  let n := if c.group then nSusp s else nPersist s
  let rejoined := c.group && main && !wasGroup
  match div with
  | none => x
  | some false => if rejoined ∧ nPersist s ≤ x.count + 1 then {} else { x with count := 0 }
  | some true =>
    let y := { x with count := min 255 (x.count + 1) }
    if rejoined ∧ nPersist s ≤ y.count then islTo .suspected inst tag { y with reconnected := true }
    else if n ≤ y.count then islTo (if c.group then .suspected else .declared) inst tag y
    else y

/-- ENDING, from a state. -/
def islEnd (inst tag : Nat) (x : IslSlot) : IslSlot := islTo .ending inst tag { x with was := x.st, calm := 0 }

/-- A matched slot; `main` tells that its candidate lies in the main component. -/
def islMatched (s : State) (inst tag : Nat) (wasGroup main : Bool) (c : Cand) (div : Option Bool) (x : IslSlot) : IslSlot :=
  match x.st with
  | .free => x
  | .pending => islPending s inst tag wasGroup main c div x
  | .declared =>
    if !c.group || !main then x
    else if div = some false then islEnd inst tag x
    else if div = some true then islTo .suspected inst tag { x with reconnected := true } else x
  | .suspected =>
    if div = some false then islEnd inst tag x
    else if div = some true ∧ ¬ c.group then islTo .declared inst tag x else x
  | .ending =>
    if div = some true then islTo x.was inst tag x
    else if div = some false then (if nPersist s ≤ x.calm + 1 then {} else { x with calm := x.calm + 1 })
    else x

/-- A slot that no candidate matches; `dead` and `main` tell of its component, `div` is judged over its own buses. -/
def islUnmatched (s : State) (inst tag : Nat) (dead main unseen : Bool) (div : Option Bool) (x : IslSlot) : IslSlot :=
  match x.st with
  | .free => x
  | .pending =>
    if main ∧ ¬ x.group ∧ div = some true ∧ nPersist s ≤ x.count + 1 then
      islTo .suspected inst tag { x with
        count := min 255 (x.count + 1), reconnected := true }
    else {}
  | .declared =>
    if dead then islEnd inst tag { x with dead := true }
    else if unseen then x
    else if main ∧ div = some true then islTo .suspected inst tag { x with reconnected := true }
    else if main ∧ div = none then x
    else islEnd inst tag x
  | .suspected => islEnd inst tag x
  | .ending => {}

/-- One slot at an instant. -/
def islSlotStep (s : State) (vals : List (Nat × BusVal)) (comp : List Nat) (m : Option Nat) (fM tM : Option Int)
    (lost : List Nat) (cs : List Cand) (slots : NMap IslSlot) (inst tag j : Nat) (x : IslSlot) : IslSlot :=
  let y := match islMatch s slots cs j with
    | some c =>
      let v := islValues s vals fM tM c.buses { x with group := c.group }
      islMatched s inst tag x.group (decide (m = some c.comp)) c (diverges s vals fM v) v
    | none =>
      let k := compOf comp (x.buses.headD 0)
      let v := islValues s vals fM tM x.buses x
      islUnmatched s inst tag (compDead vals comp k) (decide (m = some k)) (!compLive vals comp k && !compDead vals comp k)
        (diverges s vals fM v) v
  let k := compOf comp (y.buses.headD 0)
  { y with statusLost := decide (y.st = .suspected) && lost.any (fun b =>
      match s.cfg.nest.branches[b]? with
      | some br => decide (compOf comp br.fromBus = k ∨ compOf comp br.toBus = k)
      | none => false) }

/-- An unmatched candidate takes the lowest FREE slot, or is left out. -/
def islPlace (s : State) (vals : List (Nat × BusVal)) (fM tM : Option Int) (inst tag : Nat) (r : NMap IslSlot × TopEv)
    (c : Cand) : NMap IslSlot × TopEv :=
  match (List.range 256).find? (fun j => decide ((tget ({} : IslSlot) r.1 j).st = .free)) with
  | none => (r.1, { r.2 with ovf := r.2.ovf + 1 })
  | some j =>
    let v := islValues s vals fM tM c.buses { group := c.group }
    let x := islTo .pending inst tag v
    (tset {} r.1 j (islPending s inst tag c.group false c (diverges s vals fM x) x), r.2)

/-- The slots that end at an instant, with their number: they are freed before its matching (R269). -/
def islFreed (s : State) (vals : List (Nat × BusVal)) (comp : List Nat) (m : Option Nat) (fM tM : Option Int) (lost : List Nat)
    (cs : List Cand) (slots : NMap IslSlot) (inst tag : Nat) : NMap IslSlot × Nat :=
  let gone := slots.filter (fun p =>
    decide (p.2.st ≠ .free ∧ (islSlotStep s vals comp m fM tM lost cs slots inst tag p.1 p.2).st = .free))
  (gone.foldl (fun t p => tset {} t p.1 {}) slots, (gone.filter (fun p => decide (p.2.st = .ending))).length)

/-- All slots at an instant; without a main component the slots stay as they are. -/
def islStep (s : State) (vals : List (Nat × BusVal)) (comp : List Nat) (m : Option Nat) (fM tM : Option Int)
    (lost : List Nat) (slots0 : NMap IslSlot) (inst tag : Nat) : NMap IslSlot × TopEv :=
  match m with
  | none => (slots0, {})
  | some c =>
    let cs := candidates s vals comp c
    let freed := islFreed s vals comp m fM tM lost cs slots0 inst tag
    let slots := freed.1
    let new := slots.map (fun p => (p.1, p.2, islSlotStep s vals comp m fM tM lost cs slots inst tag p.1 p.2))
    let slots1 := new.foldl (fun t p => tset {} t p.1 (if p.2.2.st = .free then {} else p.2.2)) []
    let un := cs.filter (fun d => match chooseIsl s slots d with
      | some j => decide (islMatch s slots cs j ≠ some d)
      | none => true)
    let ev : TopEv :=
      { declared := (new.filter (fun p => decide (p.2.1.st ≠ .declared ∧ p.2.2.st = .declared))).length,
        suspected := (new.filter (fun p => decide (p.2.1.st ≠ .suspected ∧ p.2.2.st = .suspected))).length,
        ended := freed.2 + (new.filter (fun p => decide (p.2.1.st = .ending ∧ p.2.2.st = .free))).length }
    let r := un.foldl (islPlace s vals fM tM inst tag) (slots1, ev)
    let fresh := (r.1.filter (fun p => decide ((tget ({} : IslSlot) slots1 p.1).st = .free))).map (fun p => p.2.st)
    (r.1, { r.2 with declared := r.2.declared + fresh.count .declared, suspected := r.2.suspected + fresh.count .suspected })

/-! One instant (R264 to R274). -/

/-- The status word of each point at an instant, when known: PRESENT, LATE or HELD, and not INVALID. -/
def topWords (s : State) (inst : Nat) : List (Option (BitVec 16)) :=
  s.cfg.nest.points.map (fun c =>
    let q := nestQty s inst ⟨c.stream, .digital c.word⟩
    if qAbsent q || qInvalid q then none else some ((q.words.getD 0 0#32).setWidth 16))

def topVals (s : State) (inst : Nat) : List (Nat × BusVal) := s.cfg.nest.meas.map (fun p => (p.1, busVal s inst p.2))

/-- The buses of the DECLARED islands. -/
def declaredBuses (slots : NMap IslSlot) : List Nat :=
  (slots.filter (fun p => decide (p.2.st = .declared))).flatMap (fun p => p.2.buses)

/-- The DECLARED slot that holds the home bus. -/
def homeIsland (s : State) (slots : NMap IslSlot) : Option IslSlot :=
  (slots.find? (fun p => decide (p.2.st = .declared ∧ homeBus s ∈ p.2.buses))).map (fun p => p.2)

/-- After a store error the counts are cleared, and the DECLARED and SUSPECTED slots are matched again from PENDING
(R278). -/
def rebuildSlots (slots : NMap IslSlot) : NMap IslSlot :=
  slots.map (fun p => if p.2.st = .pending ∨ p.2.st = .ending then (p.1, { p.2 with count := 0, calm := 0 })
    else (p.1, { p.2 with st := .pending, was := p.2.st, count := 0, calm := 0 }))

/-- The topology state after an instant, from the state before. -/
def topAfter (s : State) (words : List (Option (BitVec 16))) (vals : List (Nat × BusVal)) (inst tag : Nat) (prev : TopSt) :
    TopSt × TopEv :=
  let pts := (List.range s.cfg.nest.points.length).foldl (fun m k =>
    tset {} m k (pointStep s (pointCfg s k) inst (words.getD k none) (pointOf prev.pts k))) []
  let comp := components s (pointOf pts)
  let lost := (List.range s.cfg.nest.branches.length).filter (fun b =>
    ((s.cfg.nest.branches[b]?).map (statusLost (pointOf pts))).getD false)
  let m := mainComp s vals comp
  let core := match m with
    | some c => coreOf s (groupsOf s vals comp c)
    | none => []
  let fM := coiFreq s vals core
  let tM := coiTheta s vals prev.mainTheta core
  let r := islStep s vals comp m fM tM lost prev.slots inst tag
  let out := declaredBuses r.1
  let sys := coiTheta s vals prev.sysTheta (liveOf vals (fun b => !decide (b ∈ out)))
  let home := match homeIsland s r.1 with
    | some x => coiTheta s vals x.theta (liveOf vals (fun b => decide (b ∈ x.buses)))
    | none => sys
  let unseen := (comp.eraseDups.filter (fun c => !compLive vals comp c && !compDead vals comp c)).length
  ({ pts := pts, comp := comp, mainComp := m.getD 0, slots := r.1,
     mainTheta := if tM.isSome then tM else prev.mainTheta, sysTheta := if sys.isSome then sys else prev.sysTheta,
     lost := lost, unobserved := unseen, coiSystem := sys, coiHome := home },
   { r.2 with gained := (lost.filter (fun b => !decide (b ∈ prev.lost))).length })

/-- The settings of a processed instant, for a re-run. -/
def topSet (i : TopInst) (s : State) : State := wr NST_ISL_THR i.thr (wr NST_ISL_SUSP i.susp s)

/-- An instant, with its inputs and settings, after the instants before it. -/
def topOne (s : State) (before : List TopInst) (i : TopInst) : TopInst :=
  let prev := (before.getLast?.map TopInst.after).getD {}
  let prev1 := if i.rebuilt then { prev with slots := rebuildSlots prev.slots } else prev
  let r := topAfter (topSet i s) i.words i.buses i.inst i.tag prev1
  { i with after := r.1, ev := r.2 }

/-- What the unit reads at an instant, under the settings in force. -/
def topInput (s : State) (inst : Nat) (rebuild : Bool) : TopInst :=
  { inst := inst, tag := 0, words := topWords s inst, buses := topVals s inst, after := {}, rebuilt := rebuild,
    thr := rd s NST_ISL_THR, susp := rd s NST_ISL_SUSP }

/-- A declaration issued for an instant stands although a revision of an earlier one took its divergence away (R277). -/
def issuedSlot (inst : Nat) (new : NMap IslSlot) (p : Nat × IslSlot) : NMap IslSlot :=
  let y := tget ({} : IslSlot) new p.1
  if (p.2.st = .declared ∨ p.2.st = .suspected) ∧ p.2.inst = inst ∧ y.st = .free then tset {} new p.1 p.2
  else if (p.2.st = .declared ∨ p.2.st = .suspected) ∧ p.2.inst = inst ∧ y.st = .pending then
    tset {} new p.1 { y with st := p.2.st, inst := p.2.inst, tag := p.2.tag, declAt := p.2.declAt }
  else new

/-- A later instant again, after the revised history. -/
def topAgain (s : State) (before : List TopInst) (i : TopInst) : TopInst :=
  let x := topOne s before i
  { x with after := { x.after with slots := i.after.slots.foldl (issuedSlot i.inst) x.after.slots } }

def topLater (s : State) : List TopInst → List TopInst → List TopInst
  | before, [] => before
  | before, i :: is => topLater s (before ++ [topAgain s before i]) is

/-- What instants brought about, added up. -/
def topSum (is : List TopInst) : TopEv :=
  is.foldl (fun a i =>
    { gained := a.gained + i.ev.gained, declared := a.declared + i.ev.declared, suspected := a.suspected + i.ev.suspected,
      ended := a.ended + i.ev.ended, ovf := a.ovf + i.ev.ovf }) {}

/-- What a re-run brings about beyond what its instants had counted before. -/
def topMore (new old : TopEv) : TopEv :=
  { gained := new.gained - old.gained, declared := new.declared - old.declared, suspected := new.suspected - old.suspected,
    ended := new.ended - old.ended, ovf := new.ovf - old.ovf }

/-- The state after the last processed instant. -/
def topNow (s : State) : TopSt := (s.nest.top.getLast?.map TopInst.after).getD {}

/-- The measurements of the last processed instant. -/
def topBuses (s : State) : List (Nat × BusVal) := (s.nest.top.getLast?.map TopInst.buses).getD []

/-! Issue of outputs (R274). -/

def topCount (k n : Nat) (s : State) : State := count (NST_TOP_CNT (2 * k)) n s

def anyIsl (st : IslState) (slots : NMap IslSlot) : Bool := slots.any (fun p => decide (p.2.st = st))

/-- After a rebuild the classes hold until every surviving candidate is back in its state or counted to N (R278). -/
def rebuilding (slots : NMap IslSlot) : Bool :=
  slots.any (fun p => decide (p.2.st = .pending ∧ p.2.was ≠ .free))

def topEvents (e : TopEv) (s : State) : State :=
  let t := raiseIf (decide (0 < e.gained)) NST_TOP_INT 6 (raiseIf (decide (0 < e.ended)) NST_TOP_INT 4
    (raiseIf (decide (0 < e.suspected)) NST_TOP_INT 3 (raiseIf (decide (0 < e.declared)) NST_TOP_INT 2
      (topCount 8 e.gained (topCount 7 e.ovf (topCount 6 e.ended (topCount 5 e.suspected (topCount 4 e.declared s))))))))
  if 0 < e.ovf then logEvent srcNST 1 5 0#32 [] (raise NST_TOP_INT 5 t) else t

/-- R56: under COI_HOME, the declaration of the home bus's island changes the reference and the clock goes to PULLIN. -/
def homeChange (was now : Option IslSlot) (s : State) : State :=
  if cycRef s = 2 ∧ was.isNone ∧ now.isSome then
    let t := cycLeave .pullin s
    { t with mast := { t.mast with cyc := { t.mast.cyc with refPend := true } } }
  else s

/-- ISL_DECL and ISL_SUSP for an instant go to their rules; those of the newest instant stand in NST_TOP_STATUS. -/
def topClasses (newest : Bool) (x : TopInst) (s : State) : State :=
  let suspect := x.buses.any (fun p => p.2.suspect)
  let hold := s.nest.holdClasses && rebuilding x.after.slots
  let decl := if hold then s.nest.declNow else anyIsl .declared x.after.slots
  let susp := if hold then s.nest.suspNow else anyIsl .suspected x.after.slots
  classOutput 5 false x.inst x.tag false susp suspect (classOutput 4 false x.inst x.tag false decl suspect
    (if newest then setNest (fun n => { n with holdClasses := hold, declNow := decl, suspNow := susp }) s else s))

/-- Revision 0 of an instant (R277). -/
def topSeal (inst : Nat) (s : State) : State :=
  let i := topOne s s.nest.top (topInput s inst s.nest.rebuild)
  let was := homeIsland s (topNow s).slots
  let t := setNest (fun n => { n with top := n.top ++ [i], rebuild := false }) s
  let u := if s.nest.rebuild then topCount 11 1 t else t
  topClasses true i (homeChange was (homeIsland u i.after.slots) (topEvents i.ev (topCount 0 1 u)))

/-- A revision that changes what the unit reads (R277): the instant is issued again, later ones follow the revised
history. -/
def topRerun (inst tag : Nat) (s : State) : State :=
  match s.nest.top.find? (fun i => decide (i.inst = inst)) with
  | none => s
  | some old =>
    let before := s.nest.top.filter (fun i => decide (i.inst < inst))
    let later := s.nest.top.filter (fun i => decide (inst < i.inst))
    let i := topOne s before { old with tag := tag, words := topWords s inst, buses := topVals (topSet old s) inst }
    let all := topLater s (before ++ [i]) later
    let ev := topMore (topSum (all.filter (fun j => decide (inst ≤ j.inst)))) (topSum (old :: later))
    let was := homeIsland s (topNow s).slots
    let t := topCount 10 1 (setNest (fun n => { n with top := all }) s)
    topClasses (later = []) i (homeChange was (homeIsland t (topNow t).slots) (topEvents ev t))

/-! The latest-status graph (R275). -/

/-- A point in the latest-status graph: the highest instant placed and its state. -/
def latestOf (s : State) (k : Nat) : Option (Nat × PointSt) := tget none s.nest.latest k

def latestPt (s : State) (k : Nat) : PointSt := ((latestOf s k).map (fun p => p.2)).getD {}

/-- TOPO_SPLIT: two or more LIVE or UNOBSERVED components that contain a measured bus, by the last instant's validity. -/
def splitHolds (s : State) : Bool :=
  let comp := components s (latestPt s)
  let vals := s.cfg.nest.meas.map (fun p => (p.1, busAt (topBuses s) p.1))
  decide (2 ≤ ((measComps vals comp).filter (fun c => !compDead vals comp c)).length)

/-- The number of components with a measured bus. -/
def splitCount (s : State) : Nat :=
  (measComps (s.cfg.nest.meas.map (fun p => (p.1, ({} : BusVal)))) (components s (latestPt s))).length

/-- The placement's word for a point; none when the value is INVALID. -/
def placedWord (v : Slot) (c : PointCfg) : Option (BitVec 16) :=
  if v.invalid then none else some (v.digitals.getD c.word 0#16)

/-- A point takes a placed word of instant `inst`. -/
def latestPut (k inst : Nat) (v : Slot) (s : State) : State :=
  let x := pointStep s (pointCfg s k) inst (placedWord v (pointCfg s k)) (latestPt s k)
  setNest (fun n => { n with latest := tset none n.latest k (some (inst, x)) }) s

/-- The branches whose service state differs between two states' graphs. -/
def changedBranches (s t : State) : List (Nat × Bool) :=
  (List.range s.cfg.nest.branches.length).filterMap (fun b =>
    match s.cfg.nest.branches[b]? with
    | some br =>
      let was := inService s (latestPt s) br
      let now := inService t (latestPt t) br
      if was = now then none else some (b, now)
    | none => none)

/-- One in-service change: NST_SPLIT_W0 to W3 are latched. -/
def latchSplit (stream inst tag : Nat) (s : State) (p : Nat × Bool) : State :=
  topCount 1 1 (wrWords (NST_SPLIT_W 0)
    [wordOf (p.1 + 2 ^ 15 * b2n p.2 + 2 ^ 16 * tag), wordOf stream, loWord inst, hiWord inst] s)

/-- A placement reaches the unit (R275). -/
def topPlace (stream inst tag : Nat) (v : Slot) (s : State) : State :=
  let mine := (List.range s.cfg.nest.points.length).filter (fun k => decide ((pointCfg s k).stream = stream))
  let old := mine.filter (fun k => (latestOf s k).any (fun p => decide (inst < p.1)))
  let s0 := if old = [] then s else topCount 9 1 s
  let t := (mine.filter (fun k => !decide (k ∈ old))).foldl (fun u k => latestPut k inst v u) s0
  let ch := changedBranches s0 t
  if ch = [] then t
  else
    let n0 := splitCount s0
    let u := ch.foldl (latchSplit stream inst tag) t
    let n1 := splitCount u
    let w := if n0 < n1 then raise NST_TOP_INT 0 (topCount 2 1 u)
      else if n1 < n0 then raise NST_TOP_INT 1 (topCount 3 1 u) else u
    classOutput 3 false inst tag true (splitHolds w) v.suspect (setNest (fun n => { n with split := splitHolds w }) w)

/-! Start and errors. -/

/-- The unit starts: every point acts with NORMAL until its first placement (R273), and so does TOPO_SPLIT. -/
def topStart (s : State) : State :=
  let t := setNest (fun n => { n with
    top := [], latest := [], rebuild := false, holdClasses := false,
    declNow := false, suspNow := false }) s
  setNest (fun n => { n with split := splitHolds t }) t

/-- R278: an uncorrectable error in the topology state. -/
def topError (s : State) : State :=
  let t := setNest (fun n => { n with
    rebuild := true, holdClasses := true }) s
  raise NST_TOP_INT 7 t

/-! The streams the Crow's Nest reads (Table 5.6). -/

def nestStreams (s : State) : List Nat :=
  let c := s.cfg.nest
  ((c.sigs.filter (fun x => decide (x.kind < 3))).map (fun x => x.q.stream)
    ++ c.brs.flatMap (fun b => [b.v.stream, b.i.stream])
    ++ (match c.angRef with
      | some q => [q.stream]
      | none => [])
    ++ c.points.map (fun p => p.stream)
    ++ c.meas.flatMap (fun m => m.2.freq.stream :: (match m.2.volt with
      | some q => [q.stream]
      | none => []))).eraseDups

/-- The streams of the oscillation watch and of the topology unit. -/
def oscStreams (s : State) : List Nat :=
  let c := s.cfg.nest
  (c.sigs.filter (fun x => decide (x.kind < 3))).map (fun x => x.q.stream)
    ++ c.brs.flatMap (fun b => [b.v.stream, b.i.stream])
    ++ (match c.angRef with
      | some q => [q.stream]
      | none => [])

def topStreams (s : State) : List Nat :=
  let c := s.cfg.nest
  c.points.map (fun p => p.stream) ++ c.meas.flatMap (fun m => m.2.freq.stream :: (match m.2.volt with
    | some q => [q.stream]
    | none => []))

/-- Revision 0 at the read bell (R231, R277). -/
def nestSeal (inst : Nat) (s : State) : State := if s.nest.stopped then s else topSeal inst (oscSeal inst s)

/-- A revision with its changed streams (R232, R277). -/
def nestRevision (inst rev : Nat) (changed : List Nat) (s : State) : State :=
  if s.nest.stopped then s
  else
    let t := if (oscStreams s).any (fun n => decide (n ∈ changed)) then oscRerun inst rev s else s
    if (topStreams s).any (fun n => decide (n ∈ changed)) then topRerun inst rev t else t

/-- The close notice. -/
def nestClose (inst rev : Nat) (s : State) : State := if s.nest.stopped then s else oscClose inst rev s

/-- The Crow's Nest starts (R247, R250, R273). -/
def nestStart (s : State) : State := topStart (oscStart s)

end Sys2Proof.Machine
end

