-- ==== Sys2Proof/Machine/MarketOps.lean ====
section
/-!
DEFINITION. The Market's procedures as shared operations (R116 to R140): opening, placement, seal, revision, close, the
shedding of revisions, store errors, bells and their learning.
-/

namespace Sys2Proof.Machine

open Sys2Proof

/-! Classes and bells (R126, R127). -/

/-- MKT_CFG.CLASS_EN and WINDOW_MS. -/
def classOn (s : State) (k : Nat) : Bool := rdB s MKT_CFG k
def windowMs (s : State) : Nat := rdF s MKT_CFG 8 11

/-- MKT_CLS_STAT.ADAPTIVE. -/
def adaptive (s : State) (k : Nat) : Bool := rdB s (MKT_CLS_STAT k) 15

/-- A write of a bell: ignored for a fixed class, clamped to the limits (R127). -/
def bellWrite (k v : Nat) (s : State) : State :=
  if !adaptive s k then s
  else
    let lo := rdF s (MKT_CLS_LIM k) 0 16
    let hi := rdF s (MKT_CLS_LIM k) 16 16
    let c := if v < lo then 1 else if hi < v then 2 else 0
    let t := wrF (MKT_CLS_STAT k) 16 2 c (wr (MKT_CLS_BELL k) (wordOf (clampNat lo hi v)) s)
    if c = 0 then t else raise MKT_INT 0 t

/-- The largest fixed bell or upper clamp in use, in 0.1 ms. -/
def bellCeiling (s : State) : Nat :=
  ((List.range 8).map (fun k => if classOn s k then rdF s (MKT_CLS_LIM k) 16 16 else 0)).foldl max 0

/-- D_T of R146. -/
def storeDepth (s : State) : Nat := divUp ((bellCeiling s * 100 + windowMs s * 1000) * s.cfg.tabRate) 1000000 + 8

/-! Sections. -/

def secOf (t : Tableau) (k : Nat) : SecState := t.secs.getD k .unused

def setSec (k : Nat) (v : SecState) (t : Tableau) : Tableau := { t with secs := listSet t.secs k v }

def streamClass (s : State) (n : Nat) : Nat := ((streamCfg s n).map StreamCfg.cls).getD 0

/-- The latest-sealing class among these streams has sealed by the seal of class `k` (R140). -/
def bellFalls (s : State) (t : Tableau) (k : Nat) (ns : List Nat) : Bool :=
  ns.any (fun n => decide (streamClass s n = k)) && ns.all (fun n => decide (secOf t (streamClass s n) ≠ .open))

/-- The instants at which section `k` seals and closes, in TAI counter units (R118). -/
def sealTime (s : State) (t : Tableau) (k : Nat) : Nat := tabTime s t.inst + t.bells.getD k 0 * 100000 * taiNsUnit

def closeTime (s : State) (t : Tableau) (k : Nat) : Nat := sealTime s t k + t.window * 1000000 * taiNsUnit

/-! Rules (R137 to R139). -/

def ruleStreams (c : RuleCfg) : List Nat := (c.inputs.map QRef.stream).eraseDups

def ruleTab (t : Tableau) (r : Nat) : RuleTab := tget {} t.rules r

def setRuleTab (inst r : Nat) (f : RuleTab → RuleTab) (s : State) : State :=
  match tabOf s inst with
  | some t => setTab { t with rules := tset {} t.rules r (f (ruleTab t r)) } s
  | none => s

/-- Rules with an input in a stream: FEEDS. -/
def feeds (s : State) (n : Nat) : List (Nat × RuleCfg) :=
  s.cfg.rules.filter (fun p => decide (p.2.kind ≠ 6 ∧ n ∈ ruleStreams p.2))

/-- MISSING is 0. -/
def complete (t : Tableau) (c : RuleCfg) : Bool := (ruleStreams c).all (fun n => (recOf t n).seen)

/-- EVALUATE, counted under `cnt`, with the rule's state after it. -/
def evaluate (cnt r inst tag : Nat) (early : Bool) (s : State) : State :=
  setRuleTab inst r (fun _ => { done := true, dirty := false, evalRev := tag }) (evalRule r inst tag early (mktCount cnt 1 s))

/-! PLACE. -/

/-- A rule is fed by a placement. -/
def feedRule (inst tag : Nat) (s : State) (p : Nat × RuleCfg) : State :=
  match tabOf s inst with
  | none => s
  | some t =>
    if complete t p.2 then evaluate cEARLY_EVALS p.1 inst tag true s
    else if (ruleTab t p.1).done then setRuleTab inst p.1 (fun x => { x with dirty := true }) s
    else s

/-- The record of a placed value. -/
def placedRec (s : State) (n arr rev : Nat) (v : Slot) : Rec :=
  { rev := rev, seen := true, slot := v, flags := slotFlags (layoutOf s n) arr v }

/-- The tableau after the placement: in the record while the section is OPEN, pending otherwise. -/
def placeTab (s : State) (n : Nat) (v : Slot) (t : Tableau) : Tableau :=
  if secOf t (streamClass s n) = .open then setRec n (placedRec s n arrPRESENT 0 v) t
  else { setRec n { recOf t n with seen := true } t with
    pend := tset none t.pend n (some v), holding := true, holdAt := if t.holding then t.holdAt else s.ticks }

/-- A value is placed into its tableau (procedure PLACE, R20). -/
def placeIn (n inst : Nat) (v : Slot) (s : State) : State :=
  match tabOf s inst with
  | none => s
  | some t =>
    if t.st = .closed then s
    else
      let open0 := decide (secOf t (streamClass s n) = .open)
      let tag := if open0 then 0 else t.rev + 1
      let u := mktCount cPLACEMENTS 1 (setTab (placeTab s n v t) s)
      let w := if open0 then u else mktCount cLATE_PLACEMENTS 1 u
      let x := if s.nest.stopped then w else topPlace n inst tag v w
      (feeds s n).foldl (feedRule inst tag) x

/-- The values in flight for an instant are placed (R119). -/
def placeFlight (inst : Nat) (s : State) : State :=
  let mine := s.ing.handoff.filter (fun h => decide (h.2.1 = inst))
  mine.foldl (fun t h => placeIn h.1 inst h.2.2 t)
    { s with ing := { s.ing with handoff := s.ing.handoff.filter (fun h => decide (h.2.1 ≠ inst)) } }

/-! The tableau window follows its tableau. -/

/-- MKT_TW_STAT.REV_NOW, and the words that a tableau window has still to deliver, as the tableau now stands (R148). -/
def twRefresh (inst : Nat) (s : State) : State :=
  if s.mkt.twInst = some inst then
    match tabOf s inst with
    | some t =>
      let u := wrF MKT_TW_STAT 8 4 t.rev s
      let x := window u (winIdx .tableau)
      let bs := windowBytes u t
      if winBusy u .tableau then
        setWindow (winIdx .tableau) { x with words := lastN x.words.length (packWords bs.length bs) } u
      else u
    | none => s
  else s

/-! REVISE. -/

/-- The records after a revision. -/
def reviseRecs (s : State) (rev : Nat) (t : Tableau) : Tableau :=
  let a := t.pend.foldl (fun u p => match p.2 with
    | some v => setRec p.1 (placedRec s p.1 arrLATE rev v) u
    | none => u) t
  let b := if t.forced then (streamNumbers s).foldl (fun u n => setRec n { recOf u n with rev := rev } u) a else a
  { b with rev := rev, pend := [], holding := false, forced := false }

/-- A rule with a changed input is evaluated at the revision's tag unless it already was. -/
def reviseRule (inst rev : Nat) (s : State) (p : Nat × RuleCfg) : State :=
  match tabOf s inst with
  | none => s
  | some t =>
    if (ruleTab t p.1).dirty || decide ((ruleTab t p.1).evalRev < rev) then evaluate cREVISION_EVALS p.1 inst rev false s
    else s

/-- The next revision is issued (R131, R132, R134): `closing` at the close. -/
def revise (inst : Nat) (closing : Bool) (s : State) : State :=
  match tabOf s inst with
  | none => s
  | some t =>
    if t.pend = [] ∧ ¬ t.forced then s
    else if t.rev = 14 ∧ ¬ closing then setTab { t with holding := false } s
    else
      let rev := t.rev + 1
      let changed := if t.forced then streamNumbers s else t.pend.map (fun p => p.1)
      let fold := decide (rev = 15)
      let a := mktCount cREVISIONS_ISSUED 1 (setTab { reviseRecs s rev t with finalFold := t.finalFold || fold } s)
      let b := if fold then raise MKT_INT 2 (mktCount cFINAL_FOLDS 1 a) else a
      let c := s.cfg.outs.foldl (fun u o => outRevision o.1 o.2 inst rev changed u) b
      let d := nestRevision inst rev changed c
      twRefresh inst ((s.cfg.rules.filter (fun p =>
        decide (p.2.kind ≠ 6) && (ruleStreams p.2).any (fun n => decide (n ∈ changed)))).foldl (reviseRule inst rev) d)

/-! CLOSE (R119, R132, R133, R143). -/

/-- Every section of the tableau is closed: the values in flight, the last revision and the close notice. -/
def finishTab (inst : Nat) (s : State) : State :=
  let a := revise inst true (placeFlight inst s)
  match tabOf a inst with
  | none => a
  | some t =>
    let absent := ((streamNumbers a).filter (fun n => !(recOf t n).seen)).length
    let b := mktCount cABSENT_AT_CLOSE absent (setTab { t with st := .closed, holding := false } a)
    let c := rulesClose inst t.rev b
    let d := a.cfg.outs.foldl (fun u o => outClose o.1 o.2 inst t.rev u) c
    let e := digestClose inst t.rev (nestClose inst t.rev d)
    twRefresh inst (if rdF e MKT_RIB_CFG 0 16 = 0 then e
      else ribTake { e with mkt := { e.mkt with ribWait := e.mkt.ribWait ++ [inst] } })

/-- A SEALED section closes; `shed`: early, by R135. -/
def closeSection (inst k : Nat) (shed : Bool) (s : State) : State :=
  match tabOf s inst with
  | none => s
  | some t =>
    if secOf t k ≠ .sealed then s
    else
      let u := setSec k .closed { t with shed := t.shed || shed }
      let a := setTab u s
      let b := if shed then mktCount cSHED_CLOSES 1 a else a
      if u.secs.all (fun x => decide (x = .closed ∨ x = .unused)) then finishTab inst b else b

/-! SEAL (R118, R120, R130, R138). -/

/-- The value and flags that a stream's record at an instant holds: of the tableau, or kept when it has left the store. -/
def heldSource (s : State) (n inst : Nat) (l : Layout) : Option (Slot × List Nat) :=
  match tabOf s inst with
  | some w =>
    if !(recOf w n).seen then none
    else match tget none w.pend n with
      | some v => some (v, slotFlags l arrLATE v)
      | none => some ((recOf w n).slot, (recOf w n).flags)
  | none =>
    match tget none s.mkt.kept n with
    | some (i, r) => if i = inst then some (r.slot, r.flags) else none
    | none => none

/-- The instant's HELD fill of a stream (Table 5.4). -/
def heldFill (k : Nat) (t : Tableau) (s : State) (p : Nat × StreamCfg) : State :=
  let c := p.2
  match tabOf s t.inst with
  | none => s
  | some u =>
    if c.cls ≠ k ∨ s.cfg.tabRate ≤ c.rate ∨ ¬ c.slowHeld ∨ t.inst * c.rate % s.cfg.tabRate = 0 ∨ (recOf u p.1).seen then s
    else
      match heldSource s p.1 (tabInstant s c (t.inst * c.rate / s.cfg.tabRate)) c.layout with
      | none => s
      | some (v, fl) =>
        let held : Slot := { phasors := v.phasors, freq := v.freq, rocof := v.rocof, analogs := v.analogs, digitals := v.digitals }
        let r : Rec := { rev := 0, seen := false, slot := held,
                         flags := fl.map (fun f => arrHELD + 4 * b2n (f.testBit 2 || u.storeErr) + 8 * b2n (f.testBit 3)) }
        mktCount cHELD_FILLS 1 (setTab (setRec p.1 r u) s)

/-- A rule's bell evaluation at the seal of class `k` (R138, R140). -/
def sealRule (inst k : Nat) (s : State) (p : Nat × RuleCfg) : State :=
  match tabOf s inst with
  | none => s
  | some t =>
    if decide (p.2.kind ≠ 6) && bellFalls s t k (ruleStreams p.2) && !(ruleTab t p.1).done then
      evaluate cBELL_EVALS p.1 inst 0 false s
    else s

/-- MKT_REV.HOLD_US, at most 10,000, has passed since the first pending placement (R131). -/
def holdPassed (s : State) (t : Tableau) : Bool :=
  t.holding && decide (t.holdAt + 250 * min 10000 (rdF s MKT_REV 0 14) ≤ s.ticks)

/-- The seal of section `k` (procedure SEAL), with what falls due in its cycle: revision 0 complete at the last one, a
revision whose hold has run or that a store error forces, and the close of a shed window (R131, R125, R135). -/
def sealSection (inst k : Nat) (s : State) : State :=
  match tabOf s inst with
  | none => s
  | some t =>
    let a := s.cfg.streams.foldl (heldFill k t) s
    let b := match tabOf a inst with
      | some u => setTab { setSec k .sealed u with sealHeld := u.sealHeld.filter (fun j => decide (j ≠ k)) } a
      | none => a
    let c := s.cfg.rules.foldl (sealRule inst k) b
    let falls := fun (ns : List Nat) (u : State) => match tabOf u inst with
      | some x => bellFalls u x k ns
      | none => false
    let d := s.cfg.outs.foldl (fun u o => if falls (outStreams o.2) u then outSeal o.1 o.2 inst u else u) c
    let e := if falls (nestStreams s) d then nestSeal inst d else d
    let f := match tabOf e inst with
      | some u =>
        if u.secs.all (fun x => decide (x ≠ .open)) then
          let g := mktCount cREV0_COMPLETE 1 (setTab { u with st := .revising } e)
          if holdPassed g u ∨ u.forced then revise inst false g else g
        else e
      | none => e
    twRefresh inst (count evSEALS 1 (if s.mkt.shed || t.win0 then closeSection inst k true f else f))

/-- An earlier tableau's section of the class is still OPEN (R120). -/
def sealBlocked (s : State) (inst k : Nat) : Bool :=
  s.mkt.tabs.any (fun t => decide (t.inst < inst ∧ secOf t k = .open))

/-- Seals that waited follow, in instant order, in the same cycle (R120). -/
def sealFollow (k : Nat) (insts : List Nat) (s : State) : State :=
  insts.foldl (fun t i => match tabOf t i with
    | some x => if k ∈ x.sealHeld ∧ ¬ sealBlocked t i k then sealSection i k t else t
    | none => t) s

/-! OPEN (R116, R118, R121). -/

/-- A new tableau. -/
def newTab (s : State) (inst : Nat) (step : Bool) : Tableau :=
  let on := fun (k : Nat) => classOn s k
  { inst := inst, stepOpen := step, classEn := rdF s MKT_CFG 0 8,
    bells := (List.range 8).map (fun k => if on k then rdF s (MKT_CLS_BELL k) 0 16 else 0),
    window := if s.mkt.shed then 0 else windowMs s, win0 := s.mkt.shed,
    secs := (List.range 8).map (fun k => if on k then .open else .unused) }

/-- Close, seal and revision that have fallen due and not been carried out (R118, R120, R131). -/
def closeReady (s : State) (t : Tableau) : Bool :=
  (List.range 8).any (fun k => decide (secOf t k = .sealed ∧ closeTime s t k ≤ s.tai))

def sealReady (s : State) (t : Tableau) (k : Nat) : Bool :=
  decide (secOf t k = .open ∧ sealTime s t k ≤ s.tai) && !sealBlocked s t.inst k

def revReady (s : State) (t : Tableau) : Bool :=
  decide (t.st = .revising ∧ t.rev ≠ 14) && (t.forced || holdPassed s t)

/-- Events that come before a seal of section `k`, before a close, before a revision and before a placement (R136):
closes in instant order, then seals in instant and class order, then revisions, then placements. -/
def beforeClose (s : State) (inst : Nat) : Bool := s.mkt.tabs.any (fun t => decide (t.inst < inst) && closeReady s t)

def beforeSeal (s : State) (inst k : Nat) : Bool :=
  s.mkt.tabs.any (fun t => closeReady s t
    || (List.range 8).any (fun j => decide (t.inst < inst ∨ (t.inst = inst ∧ j < k)) && sealReady s t j))

def beforeRevision (s : State) : Bool :=
  s.mkt.tabs.any (fun t => closeReady s t || (List.range 8).any (sealReady s t))

def beforePlace (s : State) : Bool := beforeRevision s || s.mkt.tabs.any (revReady s)

/-- The records of slower HELD streams that a tableau leaving the store had placed. -/
def keepHeld (s : State) (t : Tableau) : NMap (Option (Nat × Rec)) :=
  s.cfg.streams.foldl (fun m p =>
    if p.2.slowHeld ∧ p.2.rate < s.cfg.tabRate ∧ (recOf t p.1).seen then tset none m p.1 (some (t.inst, recOf t p.1)) else m)
    s.mkt.kept

/-- A store slot is reused: the oldest closed tableau leaves the store, a read of it ends (R148), and if the ribbon has not
taken it, it is left out (R145). -/
def dropTab (t : Tableau) (s : State) : State :=
  let a := { s with mkt := { s.mkt with
    tabs := s.mkt.tabs.filter (fun x => decide (x.inst ≠ t.inst)), kept := keepHeld s t } }
  let b := if winBusy a .tableau ∧ a.mkt.twInst = some t.inst then
      setStat MKT_TW_STAT 12 true (endWindow .tableau whyOVERRUN a)
    else a
  if t.inst ∈ b.mkt.ribWait then
    ribMiss 1 { b with mkt := { b.mkt with ribWait := b.mkt.ribWait.filter (fun i => decide (i ≠ t.inst)) } }
  else b

/-- Room for one more tableau. -/
def storeRoom (s : State) : State :=
  match s.mkt.tabs with
  | t :: _ => if storeDepth s ≤ s.mkt.tabs.length ∧ t.st = .closed then dropTab t s else s
  | [] => s

/-- The clock's angle at the tableau instants, which a comparison with a centre of inertia uses (R52). -/
def markAngle (inst : Nat) (m : Mast) : Mast :=
  { m with cyc := { m.cyc with marks := ((inst, m.cyc.angle / 2 ^ 32) :: m.cyc.marks).take 64 } }

/-- The values that the stalls hold for an instant: those held early and those on their way, the last one of each
stream (a tier source's later value replaced the earlier in its slot), in stream order. -/
def heldFor (s : State) (i : Nat) : List (Nat × Slot) :=
  ((s.mkt.early ++ s.ing.handoff).filter (fun h => decide (h.2.1 = i))).foldl
    (fun m h => tset none m h.1 (some h.2.2)) ([] : NMap (Option Slot)) |>.filterMap (fun p => p.2.map (fun v => (p.1, v)))

/-- The tableau of the next instant opens and takes the values already held for it (R116). -/
def openTab (step : Bool) (s0 : State) : State :=
  let s := storeRoom s0
  let i := s.mkt.next
  let mine := heldFor s i
  let m : Market := { s.mkt with
    next := i + 1, tabs := s.mkt.tabs ++ [newTab s i step], early := s.mkt.early.filter (fun h => decide (h.2.1 ≠ i)) }
  let g : Ingest := { s.ing with handoff := s.ing.handoff.filter (fun h => decide (h.2.1 ≠ i)) }
  let a := mktCount cTABLEAUS_OPENED 1 { s with mkt := m, ing := g, mast := markAngle i s.mast }
  mine.foldl (fun t h => placeIn h.1 i h.2 t) (if step then mktCount cSTEP_OPENS 1 a else a)

/-- The Mast has generated the next instant. -/
def openDue (s : State) : Bool :=
  s.boot.dataPath && decide (0 < s.cfg.tabRate ∧ gridTime s.cfg.tabRate s.mkt.next ≤ s.tai)

/-! Start, shedding and store errors. -/

/-- The Market starts: no tableau, every adaptive bell at its upper clamp, the next instant the first after now
(R127), and a learning period of each class (R129, notes/assumptions/44.md). -/
def marketStart (s0 : State) : State :=
  let s := ribLose s0
  let a := { s with mkt := { s.mkt with
    next := if s.cfg.tabRate = 0 then 0 else s.tai * s.cfg.tabRate / taiSecUnit + 1,
    early := [], tabs := [], shed := false, kept := [],
    learnAt := (List.range 8).foldl (fun m k => tset 0 m k s.ticks) [] } }
  ribReport (forUpTo 8 (fun k t => wr (MKT_CLS_BELL k) (wordOf (rdF t (MKT_CLS_LIM k) 16 16)) t) a)

/-- R135: the window is forced to 0, each SEALED section closing in instant and class order, or is restored for later
openings. -/
def revisionShed (on : Bool) (s : State) : State :=
  if on = s.mkt.shed then s
  else if on then
    let a := raise MKT_INT 3 { s with mkt := { s.mkt with
      shed := true, tabs := s.mkt.tabs.map (fun t => { t with win0 := true }) } }
    (s.mkt.tabs.map Tableau.inst).foldl (fun t i => forUpTo 8 (fun k u => closeSection i k true u) t) a
  else { s with mkt := { s.mkt with shed := false } }

/-- Every quantity of the tableau becomes INVALID (R125). -/
def invalidateTab (s : State) (t : Tableau) : Tableau :=
  (streamNumbers s).foldl (fun u n =>
    setRec n { recOf u n with flags := (List.range (qtyCount (layoutOf s n))).map (fun i =>
      let f := (recOf u n).flags.getD i 0
      if f.testBit 2 then f else f + 4) } u) t

/-- An uncorrectable error in the tableau store (R125). -/
def storeError (inst : Nat) (s : State) : State :=
  let a := raise MKT_INT 4 (mktCount cTAB_ERRORS 1 s)
  match tabOf a inst with
  | none => a
  | some t =>
    let u := { invalidateTab a t with storeErr := true, forced := decide (t.st ≠ .closed) }
    let b := twRefresh inst (setTab u a)
    if t.st = .revising ∧ t.rev ≠ 14 then revise inst false b else b

/-! Bell learning (R129). -/

/-- The integer cube root of a number, from its bits downward. -/
def cbrtFrom : Nat → Nat → Nat → Nat
  | 0, r, _ => r
  | k + 1, r, n => let x := r + 2 ^ k; cbrtFrom k (if x * x * x ≤ n then x else r) n

/-- The lower edge of bin k > 0 of R113, 0.25 × 2^((k - 1)/3) ms, in 2^-10 ns. -/
def binEdge (k : Nat) : Nat := cbrtFrom 48 0 ((250000 * 2 ^ 10) ^ 3 * 2 ^ (k - 1))

/-- The bin that holds the 99.9th percentile, with the counts before it. -/
def percentileBin (h : NMap Nat) (total : Nat) : Nat × Nat :=
  let r := (List.range 48).foldl (fun (a : Nat × Nat × Bool) k =>
    if a.2.2 then a
    else
      let n := a.2.1 + tget 0 h k
      if 999 * total ≤ 1000 * n then (k, a.2.1, true) else (k, n, false)) (0, 0, false)
  (r.1, r.2.1)

/-- p in 2^-10 ns, by linear interpolation within its bin; `top` is the upper clamp. -/
def percentile (h : NMap Nat) (top : Nat) : Nat :=
  let total := ((List.range 48).map (fun k => tget 0 h k)).sum
  let b := percentileBin h total
  if b.1 = 47 then top
  else
    let lo := if b.1 = 0 then 0 else binEdge b.1
    let hi := if b.1 = 0 then 250000 * 2 ^ 10 else binEdge (b.1 + 1)
    lo + (hi - lo) * (999 * total - 1000 * b.2) / (1000 * atLeast 1 (tget 0 h b.1))

/-- The class histogram and its count are copied into the bank (MKT_CLS_CMD LOAD). -/
def clsLoad (s : State) : State :=
  let h := tget {} s.mkt.hist (rdF s MKT_CLS_IDX 0 3)
  forUpTo 48 (fun j t => wr (MKT_CLS_HIST j) (wordOf (tget 0 h.bins j)) t) (wr MKT_CLS_COUNT (wordOf h.count) s)

/-- The class's learning period has passed (R129). -/
def learnDue (s : State) (k : Nat) : Bool :=
  decide (tget 0 s.mkt.learnAt k + 250000000 * rdF s (MKT_CLS_LEARN k) 16 16 ≤ s.ticks)

/-- Firmware's learning of an adaptive class, once every learning period. -/
def bellLearn (k : Nat) (s0 : State) : State :=
  if !adaptive s0 k ∨ s0.deck.st ≠ .run ∨ ¬ s0.boot.dataPath ∨ !learnDue s0 k then s0
  else
    let s := { s0 with mkt := { s0.mkt with learnAt := tset 0 s0.mkt.learnAt k s0.ticks } }
    let t := clsLoad (wr MKT_CLS_IDX (wordOf k) s)
    let h := tget ({} : ClassHist) t.mkt.hist k
    if h.count < 1000 then t
    else
      let unit := 100000 * 2 ^ 10
      let p := percentile h.bins (rdF t (MKT_CLS_LIM k) 16 16 * unit)
      bellWrite k (divUp (p + rdF t (MKT_CLS_LEARN k) 0 16 * unit) unit) t

end Sys2Proof.Machine
end

