-- ==== Sys2Proof/Machine/Market.lean ====
section
/-!
DEFINITION. The Market's commands (05_market_alignment.md). An event that falls due at a TAI time has its effect once the
counter has reached that time (notes/assumptions/11.md).
-/

namespace Sys2Proof.Machine

open Sys2Proof

/-- R116: the tableau of the instant that the Mast generates. -/
def execTableauOpen (s : State) : Host.Outcome State Fault Refusal := inFull s (if openDue s then openTab false s else s)

/-- R118, R120: the section seals when its time has come and no event of R136 comes first, or waits for the preceding
tableau's. -/
def sectionSeal (inst k : Nat) (s : State) : State :=
  match tabOf s inst with
  | none => s
  | some t =>
    if secOf t k ≠ .open ∨ s.tai < sealTime s t k ∨ beforeSeal s inst k then s
    else if sealBlocked s inst k then
      if k ∈ t.sealHeld then s
      else raise MKT_INT 1 (mktCount cORDER_HOLDS 1 (setTab { t with sealHeld := t.sealHeld ++ [k] } s))
    else sealFollow k (s.mkt.tabs.map Tableau.inst) (sealSection inst k s)

def execSectionSeal (inst : Nat) (k : Fin 8) (s : State) : Host.Outcome State Fault Refusal := inFull s (sectionSeal inst k.val s)

/-- R118, R119: a SEALED section closes when its time has come, after those of earlier instants (R136). -/
def sectionClose (inst k : Nat) (s : State) : State :=
  match tabOf s inst with
  | none => s
  | some t => if s.tai < closeTime s t k ∨ beforeClose s inst then s else closeSection inst k false s

def execSectionClose (inst : Nat) (k : Fin 8) (s : State) : Host.Outcome State Fault Refusal :=
  inFull s (sectionClose inst k.val s)

/-- R20: the placement unit takes the next value: into its tableau, or held until its instant is generated. -/
def place (s : State) : State :=
  match s.ing.handoff with
  | [] => s
  | (n, inst, v) :: r =>
    let t := { s with ing := { s.ing with handoff := r } }
    if t.mkt.next ≤ inst then { t with mkt := { t.mkt with early := t.mkt.early ++ [(n, inst, v)] } }
    else twRefresh inst (placeIn n inst v t)

/-- A placement comes after the closes, seals and revisions that are due (R136). -/
def execPlace (s : State) : Host.Outcome State Fault Refusal := inFull s (if beforePlace s then s else place s)

/-- R131: the hold time has run out, or a store error forces the revision; B comes first, with every close and seal
that is due. -/
def revisionIssue (inst : Nat) (s : State) : State :=
  match tabOf s inst with
  | none => s
  | some t => if t.st = .revising ∧ (holdPassed s t ∨ t.forced) ∧ ¬ beforeRevision s then revise inst false s else s

def execRevisionIssue (inst : Nat) (s : State) : Host.Outcome State Fault Refusal := inFull s (revisionIssue inst s)

def execBellWrite (who : Req) (k : Fin 8) (v : BitVec 16) (s : State) : Host.Outcome State Fault Refusal :=
  .next (serve (.bellWrite who k v) who (MKT_CLS_BELL k.val) (bellWrite k.val v.toNat) s)

def execClsLoad (who : Req) (s : State) : Host.Outcome State Fault Refusal :=
  .next (serve (.clsLoad who) who MKT_CLS_CMD clsLoad s)

/-- The live class histogram, its count and the loaded copies are zeroed. -/
def clsClear (s : State) : State :=
  clsLoad { s with mkt := { s.mkt with hist := tset {} s.mkt.hist (rdF s MKT_CLS_IDX 0 3) {} } }

def execClsClear (who : Req) (s : State) : Host.Outcome State Fault Refusal :=
  .next (serve (.clsClear who) who MKT_CLS_CMD clsClear s)

def execBellLearn (k : Fin 8) (s : State) : Host.Outcome State Fault Refusal := inFull s (bellLearn k.val s)

def execMarketSnapshot (who : Req) (clr : Bool) (s : State) : Host.Outcome State Fault Refusal :=
  .next (serve (.marketSnapshot who clr) who MKT_SNAP
    (fun t => raise MKT_INT 7 (snapshot (MKT_CNT 0) 16 MKT_SNAP_SEQ clr t)) s)

/-! The data windows (R148, R149). -/

/-- R148: the tableau window opens on the instant of MKT_TW_INST. -/
def twOpen (s : State) : State :=
  let inst := rd64 s MKT_TW_INST_LO
  match tabOf s inst with
  | some t =>
    let bs := windowBytes s t
    openWindow .tableau (packWords bs.length bs) 0 (wr MKT_TW_STAT (wordOf (1 + 4 * tabCode t.st + 2 ^ 4 * t.rev + 2 ^ 8 * t.rev))
      { s with mkt := { s.mkt with twInst := some inst } })
  | none => openEmpty .tableau whyNOT_FOUND (wr MKT_TW_STAT 2#32 { s with mkt := { s.mkt with twInst := none } })

def execTwOpen (who : Req) (s : State) : Host.Outcome State Fault Refusal :=
  .next (serve (.twOpen who) who MKT_TW_CMD twOpen s)

def execTwAbort (who : Req) (s : State) : Host.Outcome State Fault Refusal :=
  .next (serve (.twAbort who) who MKT_TW_CMD (endWindow .tableau whyABORTED) s)

/-- R149: whole blocks, from the one with the instant to the newest. -/
def ribOpen (s : State) : State :=
  let bs := ribFrom s (rd64 s MKT_RIB_INST_LO)
  if bs = [] then openEmpty .ribbon whyNOT_FOUND (wr MKT_RIB_RSTAT 2#32 { s with mkt := { s.mkt with ribRead := [] } })
  else
    let bytes := bs.flatMap RibBlock.bytes
    openWindow .ribbon (packWords bytes.length bytes) (padOf bytes.length) (wr MKT_RIB_RSTAT 1#32
      { s with mkt := { s.mkt with ribRead := bs.map (fun b => (b.first, b.bytes.length)) } })

def execRibOpen (who : Req) (s : State) : Host.Outcome State Fault Refusal :=
  .next (serve (.ribOpen who) who MKT_RIB_CMD ribOpen s)

def execRibAbort (who : Req) (s : State) : Host.Outcome State Fault Refusal :=
  .next (serve (.ribAbort who) who MKT_RIB_CMD (endWindow .ribbon whyABORTED) s)

end Sys2Proof.Machine
end

