-- ==== Sys2Proof/Machine/Scales.lean ====
section
/-!
DEFINITION. The Scales' acquisition commands: SYNC, output samples, supervision, calibration and estimates
(06_scales_acquisition.md).
-/

namespace Sys2Proof.Machine

open Sys2Proof

/-- R158: an edge of the polarity SYNC_EDGE selects requests a SYNC when SYNC_PIN_EN is set. -/
def execSyncPinEdge (rising : Bool) (s : State) : Host.Outcome State Fault Refusal :=
  powered s (if rdB s SCL_CFG 0 && decide (rdB s SCL_CFG 1 ≠ rising) then syncRequest 1 s else s)

def execSclSyncGo (who : Req) (s : State) : Host.Outcome State Fault Refusal :=
  .next (serve (.sclSyncGo who) who SCL_SYNC (syncRequest 2) s)

/-- R158: the requests that are due at the MOD edge make one SYNC. -/
def execSyncApply (s : State) : Host.Outcome State Fault Refusal := powered s (syncApply s)

/-- R157: the bits complete an output of an enabled channel. -/
def execDecimatorOutput (ch : Fin 24) (bits : List Bool) (s : State) : Host.Outcome State Fault Refusal :=
  powered s (if chEnabled s ch.val && rdB s SCL_STATUS 0
      && decide (bits.length = 2 ^ chLogR s ch.val * cicPerOutput s ch.val)
    then channelOutput ch.val bits s else s)

/-- R160: a channel completes settling once its time has passed; the last sets SETTLED. -/
def settlingEnd (ch : Nat) (s : State) : State :=
  if rdB s (SCL_CH_STAT ch) 0 && settleDone s ch then
    let t := settleStatus (setStat (SCL_CH_STAT ch) 0 false s)
    if rdB t SCL_STATUS 2 then t else raise SCL_INT 1 t
  else s

def execSettlingEnd (ch : Fin 24) (s : State) : Host.Outcome State Fault Refusal := powered s (settlingEnd ch.val s)

/-- R161: DEAD, its sticky bit and the interrupt. -/
def channelDead (ch : Nat) (s : State) : State :=
  if chEnabled s ch && !rdB s (SCL_CH_STAT ch) 2 then
    raise SCL_INT 3 (setStat (SCL_CH_STAT ch) 3 true (setStat (SCL_CH_STAT ch) 2 true s))
  else s

def execChannelDead (ch : Fin 24) (s : State) : Host.Outcome State Fault Refusal := powered s (channelDead ch.val s)

/-- R161: DEAD clears at the first transition and the channel settles again. -/
def execDeadClear (ch : Fin 24) (s : State) : Host.Outcome State Fault Refusal :=
  powered s (if rdB s (SCL_CH_STAT ch.val) 2 then startSettling ch.val (setStat (SCL_CH_STAT ch.val) 2 false s) else s)

/-- R159 step 1: entry 511, a TAI entry with TARGET 1 at the second whole TAI second after the LOCK_SET. -/
def bootSyncStore (s : State) : State :=
  if s.mast.st = .locked ∧ ¬ s.scales.bootSync ∧ s.deck.st = .run then
    setScales (fun x => { x with bootSync := true })
      (setEntry 511 { armed := true, target := 1, inst := (taiSec s + 2) * 1000000000, count := 1 } s)
  else s

def execBootSyncStore (s : State) : Host.Outcome State Fault Refusal := powered s (bootSyncStore s)

/-- R159 step 3: 60 s after NODE_OK rose without an entry to LOCKED, once. -/
def execBootSyncFallback (s : State) : Host.Outcome State Fault Refusal :=
  powered s (if okFor s 60 ∧ s.mast.st ≠ .locked ∧ ¬ s.scales.bootSync ∧ ¬ s.scales.fallback ∧ s.deck.st = .run then
      syncRequest 2 (setScales (fun x => { x with fallback := true }) s)
    else s)

/-! User calibration (R168). -/

/-- An APPLY: refused under UCAL_LOCK; else the named channels take their staged sets at their next outputs, and a channel
that is not enabled at once. -/
def calApply (mask : Nat) (s : State) : State :=
  if ucalLocked s then raise SCL_INT 7 (wrF SCL_CAL_STAT 1 1 1 s)
  else
    calBusy (forUpTo 24 (fun ch t =>
      if mask.testBit ch then
        (if chEnabled t ch then setChan ch { chan t ch with take := true } t else applyUser ch t)
      else t) (wrF SCL_CAL_STAT 1 1 0 s))

/-- While BUSY an APPLY does not complete. -/
def execCalApply (who : Req) (mask : BitVec 24) (s : State) : Host.Outcome State Fault Refusal :=
  .next (serve (.calApply who mask) who SCL_CAL_APPLY (fun t =>
    if rdB t SCL_CAL_STAT 0 then holdWrite (.calApply who mask) who t else calApply mask.toNat t) s)

/-- The quantity SCL_PQ_IDX names. -/
def pqIdx (s : State) : Nat := rdF s SCL_PQ_IDX 0 10

def putPq (v : Word × Word) (s : State) : State := wr SCL_PQ_PH v.2 (wr SCL_PQ_MAG v.1 s)

def execPqLoad (who : Req) (s : State) : Host.Outcome State Fault Refusal :=
  .next (serve (.pqLoad who) who SCL_PQ_CMD (fun t => putPq (pqOf t (pqIdx t)) t) s)

/-- A STORE refused under UCAL_LOCK. -/
def pqRefuse (s : State) : State := raise SCL_INT 7 (wrF SCL_PQ_STAT 1 1 1 s)

/-- A stored correction takes effect: the record with the quantity and CAL_APPLIED. -/
def pqStored (s : State) : State :=
  logEvent srcSCL 2 3 (wordOf (pqIdx s)) [] (raise SCL_INT 6 (wrF SCL_PQ_STAT 1 1 0 s))

/-- The quantity exists: a local channel or an SV channel. -/
def qtyExists (s : State) (q : Nat) : Bool := decide (q < 24) || (svOfQty s q).isSome

/-- R168: M_u and phi_u are stored together. -/
def pqStore (s : State) : State :=
  if ucalLocked s then pqRefuse s
  else if qtyExists s (pqIdx s) then
    pqStored (setScales (fun x => { x with
      pq := tset (0x40000000#32, 0#32) x.pq (pqIdx s) (rd s SCL_PQ_MAG, rd s SCL_PQ_PH) }) s)
  else s

def execPqStore (who : Req) (s : State) : Host.Outcome State Fault Refusal :=
  .next (serve (.pqStore who) who SCL_PQ_CMD pqStore s)

/-- CMD 3 acts on SV channels. -/
def svGainLoad (s : State) : State := if (svOfQty s (pqIdx s)).isSome ∧ 24 ≤ pqIdx s then putPq (svGainOf s (pqIdx s)) s else s

def execSvGainLoad (who : Req) (s : State) : Host.Outcome State Fault Refusal :=
  .next (serve (.svGainLoad who) who SCL_PQ_CMD svGainLoad s)

/-- R168: G_u and O_u of an SV channel are stored together. -/
def svGainStore (s : State) : State :=
  if ucalLocked s then pqRefuse s
  else if (svOfQty s (pqIdx s)).isSome ∧ 24 ≤ pqIdx s then
    let t := setScales (fun x => { x with
      svGain := tset (0x40000000#32, 0#32) x.svGain (pqIdx s) (rd s SCL_PQ_MAG, rd s SCL_PQ_PH) }) s
    pqStored (match svOfQty s (pqIdx s) with
      | some (i, ch) => ucalSvPoints i ch t
      | none => t)
  else s

def execSvGainStore (who : Req) (s : State) : Host.Outcome State Fault Refusal :=
  .next (serve (.svGainStore who) who SCL_PQ_CMD svGainStore s)

/-- R165: the channel's factory words, zeros for 24 to 31. -/
def fcalLoad (ch : Nat) (s : State) : State :=
  forUpTo 5 (fun k t => wr (SCL_FCAL_W k) (fcal s ch k) t) (wr SCL_FCAL_IDX (wordOf ch) s)

def execFcalLoad (who : Req) (ch : BitVec 5) (s : State) : Host.Outcome State Fault Refusal :=
  .next (serve (.fcalLoad who ch) who SCL_FCAL_IDX (fcalLoad ch.toNat) s)

/-- R173, R176. -/
def execEstimateComplete (ls : Fin 64) (inst : Nat) (s : State) : Host.Outcome State Fault Refusal :=
  powered s (estimate ls.val inst s)

end Sys2Proof.Machine
end

