-- ==== Sys2Proof/Machine/Pair.lean ====
section
/-!
DEFINITION. The pair's commands (17_pair_redundancy.md): roles, the lease and the mute, heartbeats and the other Shroud frames,
the messages of a node to its Clerk, the Clerk service, and the resynchronisation of a repaired node.
-/

namespace Sys2Proof.Machine

open Sys2Proof

/-! Roles (Table 17.1). -/

def roleCode : Role → Nat
  | .standby => 0
  | .active => 1
  | .lapsed => 2
  | .resync => 3
  | .solo => 4
  | .clerkOnly => 5

/-- A role change: its interrupt, its record, and NODE_STATE follows (R295). -/
def setRole (r : Role) (s : State) : State :=
  if s.pair.role = r then s
  else nodeEdge s (raise SHR_INT 0 (pairRecord 1 4 (roleCode r) [] (setPair (fun p => { p with role := r }) s)))

/-- The firmware's actions are made while the Deck runs (R18). -/
def fwUp (s : State) : Bool := decide (s.deck.st = .run)

/-! The lease (R418 to R421). -/

/-- R431 calls for a REQUEST, at once. -/
def wantLease (s : State) : State := setPair (fun p => { p with wants := true, askNext := s.ticks }) s

/-- The node becomes ACTIVE: no CONFIRM, and no REQUEST is called for. -/
def becomeActive (s : State) : State :=
  setRole .active (setPair (fun p => { p with confirm := false, wants := false, askedAt := none, releaseAt := none }) s)

/-- A lease write (R419). The lease registers make the role of a PAIR node ACTIVE when the lease it writes is alive
(Table 17.1). -/
def leaseSet (dl : Nat) (s : State) : State :=
  let ahead := (dl + 2 ^ 32 - s.pair.mono % 2 ^ 32) % 2 ^ 32
  if ahead < 2 ^ 31 ∧ 300000 < ahead then raise SHR_INT 5 s
  else
    let t := setPair (fun p => { p with lease := true }) (wr SHR_LEASE_DL (wordOf dl) s)
    if isPair t && leaseLive t then becomeActive t else t

def execLeaseWrite (who : Req) (v : Word) (s : State) : Host.Outcome State Fault Refusal :=
  .next (serve (.leaseWrite who v) who SHR_LEASE_DL (leaseSet v.toNat) s)

/-- The lease ends at once: an ACTIVE node goes to STANDBY. -/
def dropLease (s : State) : State :=
  let t := setPair (fun p => { p with lease := false }) s
  if t.pair.role = .active then setRole .standby t else t

/-! Messages of the node to its Clerk (R430, R431). -/

/-- The 64 bytes of a Clerk message (Table 17.4), with its MAC. -/
def clerkBytes (typ pair node reason flags epoch seq remain ident : Nat) : List Nat :=
  let b := [84, 76, 66, 67, 1, typ] ++ beBytes 2 pair ++ [node, reason] ++ beBytes 2 flags ++ beBytes 4 epoch ++ beBytes 4 seq
    ++ beBytes 2 300 ++ beBytes 2 remain ++ beBytes 8 ident ++ List.replicate 16 0
  b ++ beBytes 16 (Config.crypt 0x200 (pair :: b) % 2 ^ 128)

/-- A message to the Clerk: 1 REQUEST, 2 RENEW, 3 RELEASE. Its number and send time are kept for the reply. -/
def clerkSend (typ epoch : Nat) (s : State) : State :=
  let seq := (s.pair.nodeSeq + 1) % 2 ^ 32
  let flags := b2n s.nodeOk + 2 * b2n (pairReady s) + 4 * b2n s.pair.peerSeen + 8 * b2n s.pair.diverged
  emit (.clerk (clerkBytes typ (pairId s) (nodeId s) 0 flags epoch seq 0 (Config.clerkIdent (1 + seq))))
    (setPair (fun p => { p with nodeSeq := seq, sent := lastN 8 (p.sent ++ [(seq, p.mono)]) }) s)

/-- The epoch the node holds: none outside ACTIVE and LAPSED. -/
def heldEpoch (s : State) : Nat :=
  if s.pair.role = .active ∨ s.pair.role = .lapsed then (rd s SHR_LEASE_EPOCH).toNat else 0

/-- The node gives up the lease: DROP, and RELEASE after it (R431). -/
def leaseRelease (s : State) : State :=
  if s.pair.role = .active ∧ fwUp s then
    let t := dropLease s
    let u := clerkSend 3 (rd t SHR_LEASE_EPOCH).toNat t
    setPair (fun p => { p with releaseAt := some u.ticks, releaseSeq := some p.nodeSeq }) u
  else dropLease s

def execLeaseDrop (who : Req) (s : State) : Host.Outcome State Fault Refusal :=
  .next (serve (.leaseDrop who) who SHR_LEASE_CTRL leaseRelease s)

/-- The deadline has passed: an ACTIVE node is LAPSED, and asks again when its peer is lost (R418, R431). -/
def leaseEnd (s : State) : State :=
  if !s.pair.lease || leaseLive s then s
  else
    let t := setPair (fun p => { p with lease := false }) s
    if t.pair.role = .active then
      let u := if t.pair.peerSeen then t else wantLease t
      raise SHR_INT 4 (shrCount 9 1 (pairRecord 3 6 ((rd u SHR_LEASE_EPOCH).toNat % 2 ^ 16) [] (setRole .lapsed u)))
    else t

def execLeaseExpiry (s : State) : Host.Outcome State Fault Refusal := inFull s (leaseEnd s)

/-- An ACTIVE node's RENEW, and the next one's time 100 ms on. -/
def clerkRenew (s : State) : State :=
  if isPair s ∧ s.pair.role = .active ∧ fwUp s then
    clerkSend 2 (heldEpoch s) (setPair (fun p => { p with renewAt := s.ticks + 25000000 }) s)
  else s

def execClerkRenew (s : State) : Host.Outcome State Fault Refusal :=
  inFull s (if s.pair.renewAt ≤ s.ticks then clerkRenew s else s)

/-- A REQUEST leaves when R431 calls for one, with NODE_OK high and CONFIRM clear: at once, and from a node that is
not ACTIVE again 100 ms after an unanswered one. -/
def clerkAsk (s : State) : State :=
  if isPair s && fwUp s && s.nodeOk && s.pair.wants && !s.pair.confirm && decide (s.pair.askNext ≤ s.ticks) then
    clerkSend 1 (heldEpoch s) (setPair (fun p => { p with
      askedAt := some s.ticks, askNext := s.ticks + 25000000, wants := decide (p.role ≠ .active) }) s)
  else s

def execClerkRequest (s : State) : Host.Outcome State Fault Refusal := inFull s (clerkAsk s)

/-- No valid reply has come for 300 ms: CLERK_LOST is set. -/
def clerkGone (s : State) : State :=
  if isPair s && !s.pair.clerkLost && decide (s.pair.replyAt + 75000000 ≤ s.ticks) then
    raise SHR_INT 6 (pairRecord 7 5 0 [] (setPair (fun p => { p with clerkLost := true }) s))
  else s

def execClerkLost (s : State) : Host.Outcome State Fault Refusal := inFull s (clerkGone s)

/-- A reply: accepted when its MAC holds, it is this node's, and it answers one of the last 8 messages; `f` takes the
time at which that message was sent (R430, R431). -/
def clerkReply (m : ClerkMsg) (f : Nat → State → State) (s : State) : State :=
  if !isPair s || !fwUp s then s
  else
    match s.pair.sent.find? (fun x => decide (x.1 = m.nodeSeq.toNat)) with
    | none => shrCount 10 1 s
    | some x =>
      if m.macOk ∧ m.pairId.toNat = pairId s ∧ m.nodeId.val = nodeId s then
        f x.2 (setPair (fun p => { p with clerkLost := false, askedAt := none, replyAt := s.ticks }) s)
      else shrCount 10 1 s

/-- The lease of a reply: epoch, then deadline t_s + 290 ms (R419, R433). -/
def takeLease (m : ClerkMsg) (ts : Nat) (s : State) : State :=
  leaseSet ((ts + 290000) % 2 ^ 32) (wr SHR_LEASE_EPOCH m.epoch s)

/-- The reply comes after the node's RELEASE was answered by nothing: it answers a message sent before it (Table 17.7). -/
def afterRelease (m : ClerkMsg) (s : State) : Bool :=
  match s.pair.releaseSeq with
  | none => true
  | some r => atOrAfter32 m.nodeSeq.toNat (r + 1)

/-- A GRANT (R433): the lease is written and the node is ACTIVE; every publication it drives transmits at once. -/
def granted (m : ClerkMsg) (ts : Nat) (s : State) : State :=
  if !afterRelease m s then s
  else
    let t := becomeActive (takeLease m ts (shrCount 8 1 s))
    if s.pair.role = .active then pubAll t else t

def execRxGrant (m : ClerkMsg) (s : State) : Host.Outcome State Fault Refusal := inFull s (clerkReply m (granted m) s)

/-- A RENEWED extends the lease of an ACTIVE or LAPSED node (Table 17.1). -/
def renewed (m : ClerkMsg) (ts : Nat) (s : State) : State :=
  if s.pair.role = .active ∨ s.pair.role = .lapsed then becomeActive (takeLease m ts s) else s

def execRxRenewed (m : ClerkMsg) (s : State) : Host.Outcome State Fault Refusal := inFull s (clerkReply m (renewed m) s)

/-- A DENY (R433): STALE_EPOCH drops the lease at once; after WAIT and QUIET the node asks again when REMAIN_MS have
passed, after NOT_READY when 100 ms have, and after UNKNOWN_PAIR as after an unanswered REQUEST. -/
def denied (m : ClerkMsg) (r : DenyReason) (_ : Nat) (s : State) : State :=
  if r = .staleEpoch then
    let t := dropLease s
    let u := if t.pair.role = .lapsed then setRole .standby t else t
    if u.pair.peerSeen then u else wantLease u
  else if r = .wait ∨ r = .quiet then setPair (fun p => { p with askNext := s.ticks + m.remainMs.toNat * 250000 }) s
  else if r = .notReady then setPair (fun p => { p with askNext := s.ticks + 25000000 }) s
  else s

def execRxDeny (m : ClerkMsg) (r : DenyReason) (s : State) : Host.Outcome State Fault Refusal :=
  inFull s (clerkReply m (denied m r) s)

/-! Shroud frames (R422, R423). -/

/-- A CREDIT frame returns the credits owed on a link. -/
def creditSend (l : Nat) (s : State) : State := if (shroud s l).owed = 0 then s else shroudSend l shCREDIT [] s

/-- A received frame: parity, CRC and pair decide whether it is kept. Its buffer is freed at once and its credits are
owed; those of bulk frames and of discarded ones go back in a CREDIT frame, the others with the next frame. -/
def shroudRx (l : Fin 2) (h : ShroudHdr) (bulk : Bool) (f : State → State) (s : State) : State :=
  let x := shroud s l.val
  if !isPair s || !x.up then s
  else
    let t := setShroud l.val { x with owed := x.owed + creditsOf h.len.toNat } s
    if h.parityOk ∧ h.crcOk ∧ h.pairId.toNat = pairId s then
      let u := f (creditsBack l.val h.credits.toNat t)
      if bulk then creditSend l.val u else u
    else creditSend l.val (shrCount 6 1 t)

def execRxCredit (l : Fin 2) (h : ShroudHdr) (s : State) : Host.Outcome State Fault Refusal :=
  inFull s (shroudRx l h false (fun t => t) s)

/-- LINK_INIT: the credits of the link are 256 again, and none is owed. -/
def linkReset (l : Nat) (s : State) : State :=
  let x := shroud s l
  drainWaits l x.waits (setShroud l { x with credits := 256, owed := 0 } s)

def execRxLinkInit (l : Fin 2) (h : ShroudHdr) (s : State) : Host.Outcome State Fault Refusal :=
  inFull s (shroudRx l h false (linkReset l.val) s)

/-- A link goes up, and LINK_INIT is sent, or down, and the bulk frames that waited on it use the other link. -/
def shroudChange (l : Nat) (up : Bool) (s : State) : State :=
  let x := shroud s l
  if x.up = up then s
  else if up then
    raise SHR_INT 3 (linkReset l (shroudSend l shLINK_INIT [] (setShroud l { x with up := true, credits := 256, owed := 0 } s)))
  else
    raise SHR_INT 3 (x.waits.foldl (fun t w => bulkSend w.1 w.2 t) (setShroud l { x with up := false, waits := [] } s))

def execShroudLinkChange (l : Fin 2) (up : Bool) (s : State) : Host.Outcome State Fault Refusal :=
  inFull s (if isPair s && portsUp s then shroudChange l.val up s else s)

/-! Heartbeats (R424, R425). -/

/-- The first 4 bytes of a SHA-384. -/
def hashPrefix (h : Nat) : Word := wordOf (fromLe (beBytes 4 (h / 2 ^ 352 % 2 ^ 32)))

/-- That of the running image. -/
def imageWord (s : State) : Word := hashPrefix s.till.img

/-- RELEASED goes out from HANDOVER_MS after the RELEASE, for 1 s (R431). -/
def releasedNow (s : State) : Bool :=
  match s.pair.releaseAt with
  | none => false
  | some a =>
    let d := s.ticks - a
    decide (250000 * clampNat 1 20 (rdF s SHR_CFG2 24 5) ≤ d ∧ d < 250000000)

/-- W1 of a heartbeat. -/
def hbFlags (s : State) : Nat :=
  roleCode s.pair.role % 4 + 8 * b2n s.nodeOk + 16 * b2n (isMuted s) + 32 * b2n s.pair.confirm + 64 * b2n (pairReady s)
    + 128 * b2n s.pair.diverged + 256 * mastCode s.mast.st + 1024 * deckCode s.deck.st + 4096 * b2n (releasedNow s)

def hbWords (s : State) : List Word :=
  [wordOf s.pair.hbSeq, wordOf (hbFlags s), rd s SHR_LEASE_EPOCH, rd s (SHR_PEER_W 0), wordOf s.pair.closed, imageWord s, 0#32, 0#32]

/-- The heartbeat leaves on every link that is up, every 10 ms. -/
def heartbeat (s : State) : State :=
  if !isPair s || decide (s.ticks < s.pair.hbAt) then s
  else
    let seq := (s.pair.hbSeq + 1) % 2 ^ 32
    let t := setPair (fun p => { p with hbSeq := seq, hbAt := s.ticks + 2500000, tx := tset none p.tx (seq % 64) (some p.mono) }) s
    let ws := hbWords t
    forUpTo 2 (fun l u => if (shroud u l).up then shrCount 0 1 (shroudSend l shHEARTBEAT ws u) else u) t

def execHeartbeatSend (s : State) : Host.Outcome State Fault Refusal := inFull s (heartbeat s)

/-- ROLE, NODE_OK, CONFIRM and RELEASED of a heartbeat's W1. -/
def hbRole (w : Word) : Nat := field w 0 3
def hbOk (w : Word) : Bool := bitAt w 3

/-- R420: a confirmation extends the lease; it never revives one that has passed. -/
def confirmLease (hb : Heartbeat) (s : State) : State :=
  let w := hb.flags
  let back := (s.pair.hbSeq + 2 ^ 32 - hb.confirmSeq.toNat) % 2 ^ 32
  if s.pair.role = .active ∧ s.nodeOk ∧ leaseLive s ∧ bitAt w 5 ∧ hb.epoch = rd s SHR_LEASE_EPOCH ∧ (hbRole w = 0 ∨ hbRole w = 3)
      ∧ hbOk w ∧ back < 64 then
    match tget none s.pair.tx (hb.confirmSeq.toNat % 64) with
    | none => s
    | some tx =>
      let dl := (tx + 290000) % 2 ^ 32
      if atOrAfter32 dl (rd s SHR_LEASE_DL).toNat then wr SHR_LEASE_DL (wordOf dl) s else s
  else s

/-- R421: the peer claims ACTIVE with a higher epoch than this node's, which drives or has lapsed. -/
def dualActive (hb : Heartbeat) (s : State) : State :=
  if hbRole hb.flags = 1 ∧ (rd s SHR_LEASE_EPOCH).toNat < hb.epoch.toNat ∧ (s.pair.role = .active ∨ s.pair.role = .lapsed) then
    raise SHR_INT 8 (pairRecord 4 7 0 [] (setRole .standby (setPair (fun p => { p with lease := false }) s)))
  else s

/-- The 1 s after which an unanswered REQUEST no longer counts at the Clerk (R432). -/
def asking (s : State) : Bool :=
  match s.pair.askedAt with
  | none => false
  | some a => decide (s.ticks < a + 250000000)

/-- What a new heartbeat means to a node that is not ACTIVE (R425, R431, R437): a trigger of a REQUEST, and CONFIRM. -/
def hbTriggers (old new : Word) (s : State) : State :=
  if s.pair.role = .active then s
  else
    let trig := (hbOk old && !hbOk new) || decide (hbRole new = 2 ∧ hbRole old ≠ 2) || (bitAt new 12 && !bitAt old 12)
    let t := if trig then setPair (fun p => { p with confirm := false }) (wantLease s) else s
    if hbRole new = 1 ∧ hbOk new then
      let u := setPair (fun p => { p with wants := false, releaseAt := none }) t
      if (u.pair.role = .standby ∨ u.pair.role = .resync) ∧ ¬ asking u then setPair (fun p => { p with confirm := true }) u else u
    else t

/-- The peer is seen: PEER_BACK after a loss, and a RESYNC node asks for its data (R424, R436). -/
def peerSeen (s : State) : State :=
  if s.pair.peerSeen then s
  else
    let t := setPair (fun p => { p with peerSeen := true, peerOnce := true, peerOut := false }) s
    let u := if s.pair.peerOnce then raise SHR_INT 2 t else t
    if u.pair.role = .resync then bulkSend shRESYNC_REQ [] u else u

/-- A valid heartbeat; the second copy of one, on the other link, only counts. -/
def heartbeatIn (hb : Heartbeat) (s0 : State) : State :=
  let s := shrCount 1 1 (setPair (fun p => { p with hbRxAt := s0.ticks }) s0)
  let old := rd s (SHR_PEER_W 1)
  if s.pair.peerSeen ∧ atOrAfter32 (rd s (SHR_PEER_W 0)).toNat hb.seq.toNat then s
  else
    let t := peerSeen (wrWords (SHR_PEER_W 0) [hb.seq, hb.flags, hb.epoch, hb.image] s)
    hbTriggers old hb.flags (confirmLease hb (dualActive hb t))

def execRxHeartbeat (l : Fin 2) (h : ShroudHdr) (hb : Heartbeat) (s : State) : Host.Outcome State Fault Refusal :=
  inFull s (shroudRx l h false (heartbeatIn hb) s)

/-- DATA of PEER_LOST (R429): SEQ, EPOCH and OP_HOURS of the newest mirrored record, and SRC and CODE of the three newest
mirrored records of severity 5 or above (notes/assumptions/24.md gives the packing). -/
def peerLostData (s : State) : List Word :=
  match s.pair.mirror.getLast? with
  | none => []
  | some r =>
    let hot := ((s.pair.mirror.filter (fun x => decide (5 ≤ field (x.getD 1 0#32) 16 3))).reverse.take 3).map
      (fun x => field (x.getD 1 0#32) 8 8 + 2 ^ 8 * field (x.getD 1 0#32) 19 5)
    [r.getD 0 0#32, wordOf (field (r.getD 1 0#32) 0 8), r.getD 7 0#32,
     wordOf (hot.getD 0 0 + 2 ^ 16 * hot.getD 1 0), wordOf (hot.getD 2 0)]

/-- HB_MISS × 10 ms; a value outside 3 to 20 acts as 5. -/
def lossTicks (s : State) : Nat :=
  let n := rdF s SHR_CFG 3 5
  2500000 * (if 3 ≤ n ∧ n ≤ 20 then n else 5)

/-- The peer is lost (R424, R425, R431): no valid heartbeat has come on either link for HB_MISS × 10 ms. -/
def peerGone (s : State) : State :=
  if !isPair s || s.pair.peerOut || decide (s.ticks < s.pair.hbRxAt + lossTicks s) then s
  else
    let t := setPair (fun p => { p with peerSeen := false, peerOut := true, confirm := false }) (wantLease s)
    if s.pair.peerSeen then raise SHR_INT 1 (shrCount 2 1 (pairRecord 2 5 0 (peerLostData s) t)) else t

def execPeerLost (s : State) : Host.Outcome State Fault Refusal := inFull s (peerGone s)

/-! Digests, health and mirrors (R426 to R429). -/

/-- A peer's digest is kept until the local close, at most 4,096 of them, or compared. -/
def digestIn (e : DigestEntry) (s : State) : State :=
  digCompare e.instant.toNat (setPair (fun p => { p with
    theirs := lastN 4096 (p.theirs ++ [(e.instant.toNat, e.digest.toNat)]) }) s)

def execRxDigest (l : Fin 2) (h : ShroudHdr) (es : List DigestEntry) (s : State) : Host.Outcome State Fault Refusal :=
  inFull s (shroudRx l h true (fun t => es.foldl (fun u e => digestIn e u) t) s)

def execDigestFrameSend (s : State) : Host.Outcome State Fault Refusal := 
  inFull s (if isPair s ∧ s.pair.digAt + 2500000 ≤ s.ticks then digSend s else s)

def execDigestUncompared (inst : Nat) (s : State) : Host.Outcome State Fault Refusal :=
  inFull s (if s.pair.own.any (fun d => decide (d.1 = inst) && digLate s d) then
      digOutcome 2 (setPair (fun p => { p with own := p.own.filter (fun d => decide (d.1 ≠ inst)) }) s)
    else s)

def execRxLedger (l : Fin 2) (h : ShroudHdr) (rs : List (List Word)) (s : State) : Host.Outcome State Fault Refusal :=
  inFull s (shroudRx l h true (fun t => shrCount 11 rs.length (setPair (fun p => { p with mirror := lastN 4096 (p.mirror ++ rs) }) t)) s)

def execRxEnergy (l : Fin 2) (h : ShroudHdr) (x : EnergySave) (s : State) : Host.Outcome State Fault Refusal :=
  inFull s (shroudRx l h true (setPair (fun p => { p with mirrorEnergy := some x, mirrorAge := 0 })) s)

def execRxHealth (l : Fin 2) (h : ShroudHdr) (ws : List Word) (s : State) : Host.Outcome State Fault Refusal :=
  inFull s (shroudRx l h true (setPair (fun p => { p with peerHealth := ws })) s)

/-- Streams with a frame accepted in the last second (ING_STATUS.ACTIVE_STREAMS). -/
def activeStreams (s : State) : Nat :=
  let live := fun (a : Option Nat) => match a with
    | some t => decide (s.ticks < t + 250000000)
    | none => false
  (s.ing.streams.filter (fun p => live p.2.lastTick)).length + (s.ing.subs.filter (fun p => live p.2.lastTick)).length

def bandCode : BandState → Nat
  | .off => 0
  | .warming => 1
  | .seeded => 2
  | .run => 3
  | .shed => 3

/-- FAST_STATE: the fast band is never SEEDED. -/
def fastCode : BandState → Nat
  | .off => 0
  | .warming => 1
  | .seeded => 1
  | .run => 2
  | .shed => 3

/-- The difference of two accumulators in parts per million of the larger (R428). -/
def ppmDiff (a b : Nat) : Nat := if max a b = 0 then 0 else (max a b - min a b) * 1000000 / max a b

/-- E_DIFF_PPM over AP_IMP and AP_EXP of the points that both nodes meter. -/
def energyDiff (s : State) : Nat :=
  match s.pair.mirrorEnergy with
  | none => 0
  | some x => ((enabledPoints s).map (fun k =>
      match x.points.find? (fun p => decide (p.1 = k)) with
      | none => 0
      | some p => max (ppmDiff ((meter s k).info.acc.getD 0 0) (p.2.acc.getD 0 0))
          (ppmDiff ((meter s k).info.acc.getD 1 0) (p.2.acc.getD 1 0)))).foldl max 0

/-- SHR_HEALTH0 to SHR_HEALTH3. -/
def healthRegs (s : State) : List Word :=
  let m := s.pair.marks
  [wordOf ((m.length - m.count 2) + 2 ^ 9 * m.count 1 + 2 ^ 18 * m.count 2),
   wordOf (min (activeStreams s) 16383 + 2 ^ 14 * bandCode s.nest.emState + 2 ^ 16 * fastCode s.nest.fastState),
   wordOf (min (energyDiff s) 0xFFFFFFFF), wordOf (min s.pair.mirrorAge 0xFFFFFFFF)]

/-- Every second the report is made, kept and sent: a heartbeat's flags, MST_TQ, and the four registers (R428). -/
def healthSend (s : State) : State :=
  if !isPair s || decide (s.ticks < s.pair.healthAt) then s
  else
    let t := setPair (fun p => { p with mirrorAge := satAdd p.mirrorAge 1 0xFFFFFFFF, healthAt := s.ticks + 250000000 }) s
    let ws := healthRegs t
    bulkSend shHEALTH (wordOf (hbFlags t) :: wordOf (tqReported t) :: ws) (wrWords (SHR_HEALTH 0) ws t)

def execHealthSend (s : State) : Host.Outcome State Fault Refusal := inFull s (healthSend s)

/-! Resynchronisation (R436). -/

/-- RESYNC_DATA: the live accumulators, DIR and interval state, the bell times and the newest baseline. -/
def resyncWords (s : State) : List Word :=
  saveWords (saveContent false s) ++ (List.range 8).map (fun k => rd s (MKT_CLS_BELL k))
    ++ (match newestBaseline s with
      | some b => baselineWords b
      | none => [])

def execRxResyncReq (l : Fin 2) (h : ShroudHdr) (s : State) : Host.Outcome State Fault Refusal :=
  inFull s (shroudRx l h true (fun t => bulkSend shRESYNC_DATA (resyncWords t) t) s)

/-- A RESYNC node keeps the accumulators for the interval boundary, writes the bell times, and stores the baseline for
its next start. -/
def resyncIn (d : ResyncData) (s : State) : State :=
  if s.pair.role ≠ .resync then s
  else
    let t := setPair (fun p => { p with adopt := some d.points }) s
    let u := if fwUp t then d.bells.foldl (fun v b => bellWrite b.1.val b.2.toNat v) t else t
    match d.baseline with
    | none => u
    | some b => if u.ledger.fail then u else setNest (fun n => { n with baselines := lastN 2 (n.baselines ++ [b]) }) u

def execRxResyncData (l : Fin 2) (h : ShroudHdr) (d : ResyncData) (s : State) : Host.Outcome State Fault Refusal :=
  inFull s (shroudRx l h true (resyncIn d) s)

/-- Step 6: the Mast is LOCKED, 64 consecutive digests matched, and no band is WARMING. -/
def resyncDone (s : State) : State :=
  if s.pair.role = .resync ∧ s.mast.st = .locked ∧ 64 ≤ s.pair.matchRun ∧ s.nest.emState ≠ .warming ∧ s.nest.fastState ≠ .warming then
    raise SHR_INT 9 (setRole .standby (setPair (fun p => { p with resynced := true }) s))
  else s

def execResyncDone (s : State) : Host.Outcome State Fault Refusal := inFull s (resyncDone s)

def execPairSnapshot (who : Req) (clr : Bool) (s : State) : Host.Outcome State Fault Refusal :=
  .next (serve (.pairSnapshot who clr) who SHR_SNAP
    (fun t => raise SHR_INT 10 (snapshot (SHR_CNT 0) 12 SHR_SNAP_SEQ clr t)) s)

/-! The Clerk service (R432, Table 17.5). Times are µs since reset. -/

def clerkNow (s : State) : Nat := s.ticks / 250

/-- L + G in µs. -/
def clerkWait : Nat := 320000

def clerkPair (s : State) (k : Nat) : ClerkPair := tget {} s.pair.clerks k

def setClerkPair (k : Nat) (x : ClerkPair) (s : State) : State :=
  setPair (fun p => { p with clerks := tset {} p.clerks k x }) s

abbrev reWAIT : Nat := 1
abbrev reSTALE_EPOCH : Nat := 2
abbrev reUNKNOWN_PAIR : Nat := 4
abbrev reQUIET : Nat := 5

/-- The end of the quiet period, while it lasts. -/
def clerkQuiet (s : State) : Option Nat :=
  match s.pair.quietUntil with
  | some q => if clerkNow s < q then some q else none
  | none => none

/-- A reply: 4 GRANT, 5 RENEWED, 6 DENY; it sets CLERK_RESTARTED in the quiet period. -/
def clerkAnswer (m : ClerkMsg) (typ reason epoch remain : Nat) (s : State) : State :=
  emit (.clerk (clerkBytes typ m.pairId.toNat m.nodeId.val reason (b2n (clerkQuiet s).isSome) epoch m.nodeSeq.toNat remain
    (Config.clerkIdent 0))) s

/-- A message at the Clerk service: its MAC, and whether its pair is served. -/
def clerkServe (m : ClerkMsg) (f : Nat → State → State) (s : State) : State :=
  if rdF s SHR_CFG 0 2 ≠ 2 then s
  else if !m.macOk then shrCount 10 1 s
  else if m.pairId.toNat ∉ s.cfg.clerkPairs then clerkAnswer m 6 reUNKNOWN_PAIR 0 0 s
  else f m.pairId.toNat s

/-- The run of REQUESTs of the sender: it begins anew after 1 s without one. -/
def clerkRun (n now : Nat) (x : ClerkPair) : ClerkPair :=
  let fresh := match tget none x.last n with
    | none => true
    | some t => decide (t + 1000000 ≤ now)
  { x with last := tset none x.last n (some now), first := if fresh then tset 0 x.first n now else x.first }

/-- µs until both conditions of a GRANT hold. -/
def clerkRemain (n now : Nat) (x : ClerkPair) : Nat :=
  if x.free = some n then 0
  else max (if x.holder.isNone then 0 else x.lastRenew + clerkWait - now) (tget 0 x.first n + clerkWait - now)

/-- A REQUEST. -/
def clerkRequestIn (m : ClerkMsg) (k : Nat) (s : State) : State :=
  let n := m.nodeId.val
  let now := clerkNow s
  let x := clerkRun n now (clerkPair s k)
  let t := setClerkPair k x s
  match clerkQuiet s with
  | some q => clerkAnswer m 6 reQUIET x.epoch (divUp (q - now) 1000) t
  | none =>
    if x.holder = some n then clerkAnswer m 5 0 x.epoch 0 (setClerkPair k { x with lastRenew := now } t)
    else if clerkRemain n now x = 0 then
      let e := (x.epoch + 1) % 2 ^ 32
      clerkAnswer m 4 0 e 0 (setClerkPair k { x with holder := some n, epoch := e, lastRenew := now, free := none } t)
    else clerkAnswer m 6 reWAIT x.epoch (divUp (clerkRemain n now x) 1000) t

def execClerkRxRequest (m : ClerkMsg) (s : State) : Host.Outcome State Fault Refusal := inFull s (clerkServe m (clerkRequestIn m) s)

/-- A RENEW. In the quiet period its sender is adopted, unless a holder with its epoch or a higher one was adopted
before. -/
def clerkRenewIn (m : ClerkMsg) (k : Nat) (s : State) : State :=
  let n := m.nodeId.val
  let x := clerkPair s k
  let same := decide (x.holder = some n ∧ x.epoch = m.epoch.toNat)
  let adopt := (clerkQuiet s).isSome && decide (x.holder = none ∨ x.epoch < m.epoch.toNat)
  if same || adopt then
    clerkAnswer m 5 0 m.epoch.toNat 0 (setClerkPair k
      { x with holder := some n, epoch := m.epoch.toNat, lastRenew := clerkNow s, free := none } s)
  else clerkAnswer m 6 reSTALE_EPOCH x.epoch 0 s

def execClerkRxRenew (m : ClerkMsg) (s : State) : Host.Outcome State Fault Refusal := inFull s (clerkServe m (clerkRenewIn m) s)

/-- A RELEASE of the holder: no holder, and the other node's next REQUEST is granted without waits. -/
def clerkReleaseIn (m : ClerkMsg) (k : Nat) (s : State) : State :=
  let x := clerkPair s k
  if x.holder = some m.nodeId.val ∧ x.epoch = m.epoch.toNat then
    setClerkPair k { x with holder := none, free := some (1 - m.nodeId.val) } s
  else s

def execClerkRxRelease (m : ClerkMsg) (s : State) : Host.Outcome State Fault Refusal := inFull s (clerkServe m (clerkReleaseIn m) s)

/-- The quiet period ends. -/
def execClerkQuietEnd (s : State) : Host.Outcome State Fault Refusal :=
  inFull s (if (clerkQuiet s).isNone then setPair (fun p => { p with quietUntil := none }) s else s)

/-! Start (R417, R436). -/

/-- The pair starts: a SOLO node is not muted, a PAIR node is in RESYNC, a Clerk has its quiet period. -/
def pairStart (s : State) : State :=
  let m := rdF s SHR_CFG 0 2
  let r : Role := if m = 1 then .resync else if m = 2 then .clerkOnly else .solo
  setPair (fun p => { p with
    role := r, lease := false, tx := [], peerSeen := false, peerOnce := false, confirm := false, releaseAt := none,
    wants := false, askedAt := none, askNext := 0, renewAt := s.ticks, replyAt := s.ticks, hbAt := s.ticks, hbRxAt := s.ticks,
    peerOut := false, healthAt := s.ticks, sent := [], own := [], theirs := [], marks := [], matchRun := 0, diverged := false,
    resynced := false, digests := [], adopt := none, clerks := [],
    quietUntil := if m = 2 then some (clerkNow s + clerkWait) else none }) s

end Sys2Proof.Machine
end

