-- ==== Sys2Proof/Machine/BootOps.lean ====
section
/-!
DEFINITION. The boot block's shared operations (R438 to R459): the boot record and the banks, the image checks, loading a
configuration, resets, and the activations and their end.
-/

namespace Sys2Proof.Machine

open Sys2Proof

/-! The boot record (R439). -/

/-- The second copy is the newer one. -/
def newerB (s : State) : Bool := decide (s.boot.copyA.seq < s.boot.copyB.seq)

/-- The copy with the higher sequence. -/
def bootRec (s : State) : BootRec := if newerB s then s.boot.copyB else s.boot.copyA

/-- The record is written into the other copy, with the next sequence. -/
def writeRec (f : BootRec → BootRec) (s : State) : State :=
  let x := { f (bootRec s) with seq := ((bootRec s).seq + 1) % 2 ^ 32 }
  { s with boot := if newerB s then { s.boot with copyA := x } else { s.boot with copyB := x } }

/-! The banks (R438). -/

def recBank (r : BootRec) (b : Nat) : BankState := if b = 0 then r.bankA else r.bankB

def recSetBank (b : Nat) (st : BankState) (r : BootRec) : BootRec :=
  if b = 0 then { r with bankA := st } else { r with bankB := st }

def bankState (s : State) (b : Nat) : BankState := recBank (bootRec s) b

/-- A bank's state changes: BANK_CHANGE. -/
def setBank (b : Nat) (st : BankState) (s : State) : State :=
  if bankState s b = st then s else raise BOT_INT 4 (writeRec (recSetBank b st) s)

/-- A record of Table 18.11. -/
def bootRecord (code sev key : Nat) (s : State) : State := logEvent srcBOT code sev (wordOf key) [] s

/-- A bank becomes REJECTED, with the result code of its failure. -/
def rejectBank (b code : Nat) (s : State) : State := bootRecord 3 5 code (setBank b .rejected s)

/-- The image that a bank holds. -/
def bankImage (s : State) (b : Nat) : Option PenegImage := tget none s.boot.images b

/-- The bank `b` becomes ACTIVE, the other one VALID if it was ACTIVE. -/
def recActivate (b : Nat) (r : BootRec) : BootRec :=
  let o := 1 - b
  let x := recSetBank b .active r
  { (if recBank r o = .active then recSetBank o .valid x else x) with activeBank := b }

/-! Image checks (R442, Table 18.3). -/

abbrev resBUSY : Nat := 1
abbrev resNOT_VERIFIED : Nat := 2
abbrev resPOWER : Nat := 3
abbrev resNOT_FW_ONLY : Nat := 4
abbrev resPEER_FIRST : Nat := 5
abbrev resPEER_NOT_OK : Nat := 6
abbrev resRECORDS_PENDING : Nat := 7
abbrev resACTIVE_BANK : Nat := 8
abbrev resBAD_STATE : Nat := 9
abbrev resBAD_FORMAT : Nat := 10
abbrev resBAD_SIG : Nat := 11
abbrev resBAD_FW_SIG : Nat := 12
abbrev resBAD_HW : Nat := 13
abbrev resBAD_UNIT : Nat := 14
abbrev resROLLBACK : Nat := 15
abbrev resBAD_HASH : Nat := 16

/-- Check 5: a bound image names this unit, whose ID needs the root. -/
def unitOk (s : State) (p : PenegImage) : Bool :=
  decide (p.unitId = 0) || (s.till.root.isSome && decide (p.unitId = s.till.uid))

/-- The result of the first check that fails, 0 when all pass. -/
def checkCode (s : State) (c : BankCheck) (img : Option PenegImage) : Nat :=
  match img with
  | none => resBAD_FORMAT
  | some p =>
    if !c.formatOk then resBAD_FORMAT
    else if !c.sigOk then resBAD_SIG
    else if !c.fwSigOk then resBAD_FW_SIG
    else if p.hwType ≠ rdF s HST_VARIANT 0 2 then resBAD_HW
    else if !unitOk s p then resBAD_UNIT
    else if p.secVer < (bootRec s).secMin then resROLLBACK
    else if !c.hashOk then resBAD_HASH
    else 0

/-! Loading a configuration (R14, R443 step 6, R453 step 6). -/

/-- The tables of an image within the variant's limits (Table 0.2). Peneg builds no image beyond them
(notes/assumptions/42.md). -/
def fitVariant (s : State) (i : Image) : Image :=
  { i with
    streams := i.streams.filter (fun p => decide (p.1 < streamLimit s)),
    nest := { i.nest with sigs := i.nest.sigs.take (signalLimit s), brs := i.nest.brs.take (branchLimit s) } }

/-- R78: a port with EEE_EN holds its PHY type's default wake time until the first write; R78's clamp bounds it too. -/
def phyDefault (s : State) (p : Nat) : State :=
  if rdB s (PRT_CFG p) 4 then wrF (PRT_EEE p) 16 7 (min 100 (Config.phyWake (rdF s (PRT_CFG p) 0 2))) s else s

/-- The register values that follow from the image and the variant: SHED_LIM_C starts at SHED_C (R14), the launch
profile's save period is 10 s and its legacy block is on (Table 0.4), the pipelines present, and the wake times. -/
def imageDefaults (launch : Bool) (s : State) : State :=
  let t := wrF ING_CFG 4 3 (pipeCount s) (wr PWR_CTRL (wordOf (rdF s PWR_CFG 0 8)) s)
  forUpTo 64 (fun p u => phyDefault u p)
    (wrF LDG_CFG 11 2 (if launch then 2 else 1) (if launch then setStat CAL_CFG 0 true (wrF SCL_EN_SAVE 0 12 10 t) else t))

/-- The Mast takes the new settings (Table 18.9): HOLD_EXC follows the new limit, the kernel ticks the new divisor,
and a changed reference is taken as a write of MST_CYC_CFG takes it; a clock that is FREE has it at once. -/
def mastConfig (old : Word) (s : State) : State :=
  let t := updateHoldExc { s with mast := { s.mast with cyc := { s.mast.cyc with kern := kernelIndex s } } }
  if t.mast.cyc.st = .free then { t with mast := { t.mast with cyc := { t.mast.cyc with refActive := cycRef t, refPend := false } } }
  else if field old 0 7 = rdF t MST_CYC_CFG 0 7 then t
  else
    let u := cycLeave .pullin t
    { u with mast := { u.mast with cyc := { u.mast.cyc with refPend := true } } }

/-- The registers whose value the image gives take those of image `p`; those of the old image return to their reset
values. -/
def loadConfig (p : PenegImage) (s : State) : State :=
  let clean := s.cfg.regs.foldl (fun t r => wr r.1 (regReset r.1) t) s
  let t := p.image.regs.foldl (fun u r => wr r.1 r.2 u)
    { clean with cfg := fitVariant s p.image, boot := { clean.boot with running := some p, configLost := false } }
  let u := mastConfig (rd s MST_CYC_CFG) (imageDefaults p.image.launch t)
  wrWords (BOT_IMG_W 0)
    [wordOf p.version, wordOf (p.secVer % 2 ^ 16 + 2 ^ 16 * b2n (decide (p.unitId ≠ 0)) + 2 ^ 17 * b2n p.image.launch),
     wordOf p.buildSec, hashPrefix p.imgHash]
    { u with till := { u.till with img := p.imgHash, conf := p.confHash } }

/-! Domain keys (R398). -/

/-- The domain key in slot `n`: slot 0 is AK. -/
def domainSlot (root n : Nat) (d : DomainCfg) : TillSlot :=
  { st := .valid, typ := if n = 0 then 2 else d.typ, usage := if n = 0 then 0x20 else d.usage,
    exportable := d.exportable && decide (n ≠ 0), label := d.label, fin := d.fin,
    key := Config.crypt 1 [root, if n = 0 then 0 else d.label] }

/-- The domain keys are derived; a key whose label changed is destroyed first, with its descendants (Table 18.9). -/
def deriveDomains (old : List DomainCfg) (s : State) : State :=
  match s.till.root with
  | none => s
  | some root =>
    forUpTo (max old.length s.cfg.domains.length) (fun n t =>
      match old[n]?, s.cfg.domains[n]? with
      | some a, some b =>
        if a.label = b.label then setSlot n (domainSlot root n b) t else setSlot n (domainSlot root n b) (destroySlot n t)
      | none, some b => setSlot n (domainSlot root n b) (destroySlot n t)
      | some _, none => destroySlot n t
      | none, none => t) s

/-- The sealed cache comes back (R401): an entry whose parent is the root or VALID, into its own slot; the others are
dropped and counted. -/
def restoreCache (s : State) : State :=
  let put := fun (t : State) (e : Nat × TillSlot) =>
    if (e.2.parent = 1024 ∨ (slotOf t e.2.parent).st = .valid) ∧ (slotOf t e.1).st = .free then
      let u := setSlot e.1 { e.2 with st := .valid } t
      { u with till := { u.till with restored := true, cache := u.till.cache ++ [e] } }
    else { t with till := { t.till with cacheDrop := satAdd t.till.cacheDrop 1 127 } }
  s.till.cache.foldl put { s with till := { s.till with cache := [], cacheDrop := 0, restored := false } }

/-! Resets. -/

/-- What of the calendar and the tamper registers the Sentry domain holds (R22, R411). -/
def sentryRegs : List Nat :=
  [TIL_TAMPER, TIL_TAMPER_TICK_LO, TIL_TAMPER_TICK_HI, CAL_STATUS, CAL_INT, CAL_REF_TICK_LO, CAL_REF_TICK_HI, CAL_REF_NS,
   CAL_REF_SEC_LO, CAL_REF_SEC_HI, CAL_VBAT_TICK_LO, CAL_VBAT_TICK_HI, CAL_VBAT_CNT, HST_VARIANT]

/-- The die is reset: what the flash, the Ledger memory and the Sentry domain hold stays. -/
def dieReset (s : State) : State :=
  let z := State.reset
  let kept := sentryRegs.foldl (fun t a => wr a (rd s a) t) z
  { kept with
    free := s.free, out := s.out, pending := s.pending,
    power := { z.power with vin := s.power.vin, vinHigh := s.power.vinHigh },
    ledger := { z.ledger with
      log := s.ledger.log, control := s.ledger.control, clears := s.ledger.clears, copyA := s.ledger.copyA,
      copyB := s.ledger.copyB, copyTurn := s.ledger.copyTurn, seq := s.ledger.seq, epoch := s.ledger.epoch,
      spares := s.ledger.spares, relocated := s.ledger.relocated, clrPending := s.ledger.clrPending,
      clrScope := s.ledger.clrScope, reefedSummary := s.ledger.reefedSummary, reefedHeaders := s.ledger.reefedHeaders },
    scales := { z.scales with en := { z.scales.en with
      records := s.scales.en.records, saves := s.scales.en.saves, ahSaves := s.scales.en.ahSaves, gaps := s.scales.en.gaps } },
    nest := { z.nest with baselines := s.nest.baselines },
    till := { z.till with
      seed := s.till.seed, enrolCount := s.till.enrolCount, certificate := s.till.certificate, calArea := s.till.calArea,
      cache := s.till.cache },
    sentry := { s.sentry with commit := false, latchPend := false, freeze := [], torn := [], posted := [] },
    boot := { z.boot with
      copyA := s.boot.copyA, copyB := s.boot.copyB, flash := s.boot.flash, images := s.boot.images, log := s.boot.log,
      cold := false } }

/-- Every rail is off: the node is Furled, and the next start is from power-off (R463). -/
def powerOff (s : State) : State :=
  let t := dieReset s
  { t with power := { t.power with st := .furled }, boot := { t.boot with phase := .held, cold := true } }

/-! The Deck's code (R452, R408). -/

/-- The bank that the Deck's code comes from. -/
def codeBank (s : State) : Nat := if s.boot.act = 0 then (bootRec s).activeBank else s.boot.target

/-- Step 3 of Table 13.6: the code and the threads of the code bank, measured as they are loaded. -/
def bootLoadCode (s : State) : State :=
  match bankImage s (codeBank s) with
  | none => s
  | some p => { s with cfg := { s.cfg with threads := p.image.threads }, till := { s.till with fw := p.fwHash } }

/-! Commands of BOT_CMD. -/

/-- A BOT_CMD runs; one ends with its result. -/
def botBusy (s : State) : State := wr BOT_CMD_STAT (wordOf 1) s
def botEnd (result : Nat) (s : State) : State := raise BOT_INT 0 (wr BOT_CMD_STAT (wordOf (2 * result)) s)

/-- A command refused while another runs (BUSY stays), or at once. -/
def botRefuse (result : Nat) (s : State) : State := wrF BOT_CMD_STAT 1 5 result s

/-- A VERIFY, an ERASE or an activation runs. -/
def bootBusy (s : State) : Bool := s.boot.job.isSome || decide (s.boot.act ≠ 0)

/-- A VERIFY or an ERASE of a bank, refused while a command runs and for the ACTIVE bank; the answer is the refusal's
code. -/
def jobRefusal (s : State) (b : Nat) : Nat :=
  if bootBusy s then resBUSY else if bankState s b = .active then resACTIVE_BANK else 0

def jobStartBank (erase : Bool) (b : Nat) (svc : Option Word) (s : State) : State :=
  { s with boot := { s.boot with job := some ⟨erase, b, svc⟩ } }

/-! Activations (R451 to R456). -/

/-- PEER_FIRST, PEER_NOT_OK and RECORDS_PENDING, which FORCE waives. -/
def forceable (s : State) (full : Bool) (p : PenegImage) : Nat :=
  let active := isPair s && decide (s.pair.role = .active)
  if active && s.pair.peerSeen && decide (rd s (SHR_PEER_W 3) ≠ hashPrefix p.imgHash) then resPEER_FIRST
  else if full && active && !(s.pair.peerSeen && rdB s (SHR_PEER_W 1) 3) then resPEER_NOT_OK
  else if full && s.cap.recs.any (fun r => !r.exported)
      && decide ((s.boot.running.map PenegImage.capHash) ≠ some p.capHash) then resRECORDS_PENDING
  else 0

/-- The firmware-only activation does not fit the running configuration. -/
def fwOnlyDiffers (s : State) (p : PenegImage) : Bool :=
  match s.boot.running with
  | none => true
  | some r => decide (p.confHash ≠ r.confHash ∨ p.hwType ≠ r.hwType ∨ p.image.launch ≠ r.image.launch)

/-- Why an activation is refused, in the order of Table 18.7; 0: it is not. -/
def actRefusal (s : State) (full : Bool) (b : Nat) (force : Bool) : Nat :=
  if bootBusy s then resBUSY
  else if bankState s b ≠ .valid then resNOT_VERIFIED
  else if s.power.st ≠ .fullSail then resPOWER
  else match bankImage s b with
    | none => resNOT_VERIFIED
    | some p =>
      if !full && fwOnlyDiffers s p then resNOT_FW_ONLY
      else if !force && decide (forceable s full p ≠ 0) then forceable s full p
      else if s.boot.mode ≠ .normal ∨ ¬ s.boot.started then resBAD_STATE
      else 0

/-- Every open tableau is closed at once: its sections seal, and close as R135 closes them. -/
def closeTabs (s : State) : State :=
  let t := { s with mkt := { s.mkt with tabs := s.mkt.tabs.map (fun x => { x with win0 := true }) } }
  (s.mkt.tabs.map Tableau.inst).foldl (fun u i => forUpTo 8 (fun k v =>
    let w := match tabOf v i with
      | some x => if secOf x k = .open then sealSection i k v else v
      | none => v
    closeSection i k true w) u) t

/-- The port-sink queues are emptied and the waiting items dropped. -/
def flushQueues (s : State) : State :=
  { s with egr := { s.egr with
      waits := [], queues := s.egr.queues.map (fun p => if qHost s p.1 then p else (p.1, { p.2 with items := [] })) } }

/-- A record under way ends with TRUNC. -/
def capTrunc (s : State) : State :=
  match s.cap.run with
  | some r => endRecord (recFlag true rTRUNC r) s
  | none => s

/-- Steps 1 to 4 of Table 18.8: the handover of an ACTIVE node, the tableaus, the saves, the flush and the silencing. -/
def silence (s : State) : State :=
  let s1 := if isPair s ∧ s.pair.role = .active then leaseRelease s else s
  let s2 := ownSave false (closeTabs s1)
  let s3 := (enabledPoints s2).foldl (endPoint false) s2
  let s4 := flushRun [] [] (baselineSave (capTrunc s3))
  let s5 := flushQueues s4
  let s6 := updateNodeOk { s5 with boot := { s5.boot with dataPath := false, silentAt := s5.ticks } }
  deckRestart causeACTIVATE s6

/-- An activation is accepted: its kind (1 firmware-only, 2 full) and bank. -/
def actStart (kind b : Nat) (s : State) : State :=
  let t := botBusy { s with boot := { s.boot with act := kind, actKind := kind, target := b } }
  if kind = 1 then deckRestart causeACTIVATE t else silence t

/-- ACTIVATE_FW or ACTIVATE_FULL (R451, R456): the preconditions, the re-check, and the start. The answer is the result. -/
def activate (full : Bool) (b : Nat) (force : Bool) (c : BankCheck) (s : State) : Nat × State :=
  let r := actRefusal s full b force
  if r ≠ 0 then (r, s)
  else
    let k := checkCode s c (bankImage s b)
    if k ≠ 0 then (resBAD_STATE, rejectBank b k s) else (0, actStart (if full then 2 else 1) b s)

/-- The new bank is ACTIVE and on trial (R452, R453 step 7). -/
def actDone (kind : Nat) (s : State) : State :=
  let b := s.boot.target
  let old := (bootRec s).activeBank
  let t := writeRec (fun r => { recActivate b r with prevBank := old, trial := true })
    { s with boot := { s.boot with act := 0, trialKind := kind } }
  botEnd 0 (raise BOT_INT 1 (bootRecord 1 4 kind (raise BOT_INT 4 t)))

/-- A revert is complete (R453, R455). -/
def revertDone (s : State) : State :=
  let t := { s with boot := { s.boot with act := 0 } }
  raise BOT_INT 3 (raise BOT_INT 1 (bootRecord 2 6 (bootRec t).activeBank t))

/-- The Deck has reached RUN: a firmware-only activation or revert is complete, and the first Clerk renewal is sent
(Table 13.6). -/
def bootDeckRun (s : State) : State :=
  let t := if s.boot.act = 1 then actDone 1 s
    else if s.boot.act = 3 ∧ s.boot.actKind = 1 then revertDone s else s
  clerkRenew (updateNodeOk t)

/-- A revert starts to bank `b`: the Deck restarts from it, after the silencing of a full one. -/
def revertStart (kind b : Nat) (s : State) : State :=
  let t := { s with boot := { s.boot with act := 3, actKind := kind, target := b } }
  if kind = 1 ∨ ¬ t.boot.dataPath then deckRestart causeACTIVATE t else silence t

/-- The trial bank is REJECTED and the previous one ACTIVE again. -/
def trialReject (s : State) : State :=
  let t := writeRec (fun x => { recActivate x.prevBank (recSetBank x.activeBank .rejected x) with trial := false }) s
  bootRecord 3 5 resBAD_STATE (raise BOT_INT 4 t)

/-- The Deck has FAILED (R455): a firmware-only activation under way or a trial reverts. -/
def bootDeckFailed (s : State) : State :=
  if s.boot.act = 1 then
    let t := botEnd resBAD_STATE (rejectBank s.boot.target resBAD_STATE s)
    revertStart 1 (bootRec t).activeBank t
  else if s.boot.act = 0 ∧ (bootRec s).trial then
    let t := trialReject s
    revertStart s.boot.trialKind (bootRec t).activeBank t
  else s

/-! Steps 5 to 7 of a full activation (R453, R454). -/

/-- A publication carries its state where its APPID, destination and dataset are unchanged (Table 18.9). -/
def carryPubs (old : List (Nat × PubCfg)) (s : State) : State :=
  let same := fun (p : Nat) => match old.find? (fun x => decide (x.1 = p)), s.cfg.pubs.find? (fun x => decide (x.1 = p)) with
    | some a, some b => decide (a.2.appid = b.2.appid ∧ a.2.k = b.2.k ∧ a.2.cast = b.2.cast ∧ a.2.rgoose = b.2.rgoose)
    | _, _ => false
  { s with egr := { s.egr with pubs := s.egr.pubs.filter (fun p => same p.1) } }

/-- The output streams that start ON. -/
def startOuts (s : State) : State :=
  { s with egr := { s.egr with outs := s.cfg.outs.foldl (fun m p =>
      tset {} m p.1 { tget {} m p.1 with on := p.2.startOn || p.2.alwaysOn, sent := [] }) s.egr.outs } }

/-- Metering starts from the newest save (R194). -/
def meteringOn (s : State) : State := wrF SCL_EN_STATUS 0 2 1 (setEnergy (fun e => { e with
    stopping := [], reefPend := false, saveAt := s.ticks, saveDue := none }) s)

/-! What the shed level keeps shed over a start of the data path (R16, R469). -/

/-- What level `k` sheds begins or ends (R325, R214, R135, R255). -/
def shedEffect (k : Nat) (on : Bool) (s : State) : State :=
  if k = 1 then
    let t := setPak (fun p => { p with shed := on }) s
    if on = s.pak.shed then t else raise PAK_INT 2 t
  else if k = 2 then capShed on s
  else if k = 3 then revisionShed on s
  else if on then fastShed s else fastRestart s

/-- Every level up to the present one is shed again. -/
def shedAgain (s : State) : State :=
  [1, 2, 3, 4].foldl (fun t k => if k = 1 ∨ k ≤ s.power.shed then shedEffect k (decide (k ≤ s.power.shed)) t else t) s

/-- The data path is configured and opens the first instant at or after now (R453 steps 6 and 7, R467 step 2). -/
def startDataPath (resume : Bool) (s : State) : State :=
  let t := { s with boot := { s.boot with dataPath := true },
                    ing := { order := s.ing.order, agedAt := s.ticks }, egr := { s.egr with rules := [], waits := [] } }
  startOuts (shedAgain (capStart resume (scalesStart resume (nestStart (marketStart { t with mkt := { t.mkt with hist := [] } })))))

/-- The configuration of `p` replaces the running one, and every block's state is carried or rebuilt as Table 18.9 says. -/
def reconfigure (p : PenegImage) (s : State) : State :=
  let old := s.cfg
  let sameRibbon := decide ((s.boot.running.map PenegImage.layoutHash) = some p.layoutHash ∧ old.ribbon = p.image.ribbon)
  let t := deriveDomains old.domains (loadConfig p s)
  let u := if sameRibbon then t else { t with mkt := { t.mkt with blocks := [], ribWait := [], ribAcc := [], ribInfo := 0, ribGap := 0 } }
  meteringOn (energyRestore (startDataPath false (carryPubs old.pubs u)))

/-- Ports whose mode changed between `s` and `t` relink: their links go down (R453). -/
def relink (s t : State) : State :=
  forUpTo 64 (fun p u =>
    if rdF s (PRT_CFG p) 0 2 = rdF t (PRT_CFG p) 0 2 ∧ portOn s p = portOn t p then u else linkChange p false false u) t

/-- Steps 6 and 7: reconfiguration and resumption; PAUSE_MS is the time since the silencing. -/
def resumeWith (p : PenegImage) (s : State) : State :=
  let t := relink s (reconfigure p s)
  let u := wrF BOT_TIMES 16 16 (min ((s.ticks - s.boot.silentAt) / 250000) 65535)
    { t with boot := { t.boot with actTick := some t.ticks } }
  if isPair u then pairStart u else u

/-- ACTIVATION_RESUME: the new bank, or on a mismatch the previous one once more; of a full revert, the bank returned to. -/
def activationResume (hashOk : Bool) (s : State) : State :=
  match bankImage s s.boot.target with
  | none => s
  | some p =>
    if s.boot.act = 2 then
      if hashOk then pubAll (updateNodeOk (actDone 2 (resumeWith p s)))
      else
        let t := botEnd resBAD_STATE (rejectBank s.boot.target resBAD_HASH s)
        revertStart 2 (bootRec t).activeBank t
    else if s.boot.act = 3 ∧ s.boot.actKind = 2 ∧ hashOk then
      pubAll (updateNodeOk (revertDone (resumeWith p s)))
    else s

end Sys2Proof.Machine
end

