-- ==== Sys2Proof/Machine/StartOps.lean ====
section
/-!
DEFINITION. The start sequence (R443 to R448): the Ledger's start, the mode, the Till's start, the bank, and the steps to
NODE_OK.
-/

namespace Sys2Proof.Machine

open Sys2Proof

/-! Step 3: the Ledger (R370, R375, R377, R379). -/

/-- OP_HOURS of the newest valid control record (R376), and PWR_CYCLES, which a start from power-off increments first. -/
def restoreCounts (s : State) : State :=
  let c := ((s.ledger.control.filter (fun r => !r.bad)).getLast?).getD {}
  setLedger (fun l => { l with
    opHours := c.opHours, pwrCycles := if s.boot.cold then satAdd c.pwrCycles 1 16777215 else c.pwrCycles,
    tracks := (newestTracks s).getD [], lwValid := s.sentry.lastWords.isSome, buf := [] }) s

/-- The report of an earlier failure: W0, W1, W4 and W12 of the block. -/
def lastWordsReport (s : State) : State :=
  match s.sentry.lastWords with
  | none => s
  | some x =>
    let ws := lastWordsWords x
    logEvent srcLDG 2 7 (wordOf x.reason) [ws.getD 0 0#32, ws.getD 1 0#32, ws.getD 4 0#32, ws.getD 12 0#32] s

/-- The Ledger starts: `code` is 0 when its checks pass, else the reason of R377. A clear that power cut short is
finished before any record is written. -/
def ledgerStart (code : Nat) (ofs : Word) (s : State) : State :=
  let t := restoreCounts s
  let lost := !s.ledger.control.isEmpty && s.ledger.control.all (fun r => r.bad)
  if code ≠ 0 ∨ lost = true then ledgerFail (if code = 2 ∨ code = 0 then 2 else 3) ofs.toNat t
  else lastWordsReport (if t.ledger.clrPending then clearFinish t else t)

/-! Step 2: the Till (R393 to R395, R411, R412, R414). -/

/-- SEAL_REASON of a start, 0 when it does not end SEALED. -/
def sealReason (i : StartInputs) (s : State) : Nat :=
  if !i.pufOk then 1 else if !i.selfTestOk then 2 else if rd s TIL_TAMPER ≠ 0#32 then 3 else 0

/-- The root is formed, or the Till is SEALED. -/
def tillBoot (i : StartInputs) (s : State) : State :=
  let r := sealReason i s
  if r ≠ 0 then { s with till := { s.till with st := .sealed, sealReason := r, root := none, uid := 0 } }
  else
    let root := Config.crypt 0x100 [s.till.seed]
    { s with till := { s.till with st := .starting, sealReason := 0, root := some root, uid := unitIdOf root } }

/-! Steps 1 and 5: the mode and the bank (R444). -/

/-- Recovery: no bank is ACTIVE in it; a Till that is not SEALED is READY, and the holder table is that of the ACTIVE
bank's image. -/
def enterRecovery (why : Nat) (s : State) : State :=
  let b := (bootRec s).activeBank
  let t := writeRec (fun r => { (if recBank r b = .active then recSetBank b .valid r else r) with why := why })
    { s with boot := { s.boot with mode := .recovery, phase := .running },
             cfg := { holders := ((bankImage s b).map (fun p => p.image.holders)).getD [] },
             till := { s.till with st := if s.till.st = .sealed then .sealed else .ready } }
  bootRecord 6 6 why t

/-- A start while TRIAL is set boots PREV_BANK; the trial bank becomes REJECTED. -/
def trialBoot (s : State) : State := if (bootRec s).trial then trialReject s else s

def bankCheck (i : StartInputs) (b : Nat) : BankCheck := if b = 0 then i.checkA else i.checkB

/-- The bank that starts: the chosen one, or the other one if it fails its checks (FALLBACK); none: NO_IMAGE. -/
def bootBank (i : StartInputs) (s : State) : Option Nat × State :=
  let b := (bootRec s).activeBank
  let k := checkCode s (bankCheck i b) (bankImage s b)
  if k = 0 then (some b, setBank b .active s)
  else
    let o := 1 - b
    let t := rejectBank b k s
    let j := checkCode t (bankCheck i o) (bankImage t o)
    if j = 0 then
      let u := writeRec (recActivate o) { t with boot := { t.boot with fallback := true } }
      (some o, bootRecord 5 6 o (raise BOT_INT 4 u))
    else (none, rejectBank o j t)

/-- A start that ends SEALED keeps the holder table and serves the service port (R447). -/
def sealedStart (p : PenegImage) (s : State) : State :=
  logEvent srcTIL 5 7 (wordOf s.till.sealReason) []
    { s with boot := { s.boot with mode := .sealed, phase := .running }, cfg := { holders := p.image.holders } }

/-! Steps 6 to 10. -/

/-- The TAI seconds that the calendar gives (R30, R383, R385). -/
def calendarSec (s : State) : Nat :=
  if s.sentry.refValid then calSec s
  else match s.ledger.log.getLast? with
    | some r => r.lastSec
    | none => 0

/-- Step 7: the domain keys, the sealed cache and the factory calibration (R167). -/
def tillKeys (fcalOk : Bool) (s : State) : State :=
  let t := restoreCache (deriveDomains [] s)
  let u := { t with till := { t.till with st := .ready } }
  if fcalOk then setStat SCL_FCAL_STAT 0 true u
  else
    logEvent srcSCL 3 6 0#32 [] (raise SCL_INT 8 (setStat SCL_EN_STATUS 3 true (setStat SCL_STATUS 3 true
      (setStat SCL_FCAL_STAT 1 true u))))

/-- Step 8: the Mast loads its seconds and stays UNSYNC, and the data path starts. -/
def startBlocks (s : State) : State :=
  let t := { s with tai := calendarSec s * taiSecUnit }
  let c := t.mast.cyc
  let u := { t with mast := { t.mast with cyc := { c with freq := nominalFreq t, target := nominalFreq t } } }
  pairStart (startDataPath false (meteringOn (energyRestore u)))

/-- Records that firmware writes at the start after a switch to VBAT or the loss of the Sentry domain (R384, R385). -/
def sentryReports (s : State) : State :=
  let t := if s.sentry.lostNew then logEvent srcCAL 2 5 0#32 [] s else s
  let u := if s.sentry.vbatNew then logEvent srcCAL 1 2 0#32 [rd t CAL_VBAT_TICK_LO, rd t CAL_VBAT_TICK_HI] t else t
  { u with sentry := { u.sentry with lostNew := false, vbatNew := false } }

/-- Steps 6 to 10 from bank `b`. -/
def normalStart (i : StartInputs) (b : Nat) (s : State) : State :=
  match bankImage s b with
  | none => s
  | some p =>
    let s1 := loadConfig p { s with boot := { s.boot with mode := .normal, phase := .running } }
    let s2 := startBlocks (tillKeys i.fcalOk s1)
    let s3 := deckRun i.fwVersion (bootLoadCode (deckStart s2))
    let s4 := wrF BOT_TIMES 0 16 i.bootMs.toNat { s3 with boot := { s3.boot with started := true } }
    sentryReports (updateNodeOk s4)

/-- NODE_START: the start sequence. -/
def nodeStart (i : StartInputs) (s : State) : State :=
  let s1 := tillBoot i (ledgerStart i.ledger i.ledgerOfs s)
  let r := bootRec s1
  if i.recoverLow then enterRecovery 1 s1
  else if r.failCnt = 3 then enterRecovery 2 s1
  else
    let s2 := writeRec (fun x => { x with failCnt := x.failCnt + 1, why := 0 }) (trialBoot s1)
    match bootBank i s2 with
    | (none, s3) => enterRecovery 3 s3
    | (some b, s3) =>
      match bankImage s3 b with
      | some p => if s3.till.st = .sealed then sealedStart p s3 else normalStart i b s3
      | none => s3

end Sys2Proof.Machine
end

