-- ==== Sys2Proof/Machine/Views.lean ====
section
/-!
DEFINITION. What a read of a register returns: the registers that show the state of a block (the RO fields of the register
tables), and for every other register the word stored in the register file.
-/

namespace Sys2Proof.Machine

open Sys2Proof

def tillCode : TillMode → Nat
  | .starting => 0
  | .ready => 1
  | .sealed => 2
  | .tampered => 3

def bankCode : BankState → Nat
  | .empty => 0
  | .writing => 1
  | .valid => 2
  | .rejected => 3
  | .active => 4

def modeCode : BootMode → Nat
  | .normal => 0
  | .sealed => 1
  | .recovery => 2

def powerCode : PowerState → Nat
  | .fullSail => 0
  | .reefed => 1
  | .furled => 2

/-! HST, BOT, PWR. -/

/-- HST_NODE. ROLE reads 0 until the start is done (notes/assumptions/26.md). -/
def hstNode (s : State) : Word :=
  wordOf (b2n s.nodeOk + 2 * modeCode s.boot.mode + 8 * b2n s.cfg.launch
    + 16 * (if s.boot.started then roleCode s.pair.role else 0) + 2 ^ 7 * tillCode s.till.st + 2 ^ 9 * deckCode s.deck.st)

/-- The summaries of the blocks, or of 32 ports (R479). -/
def bitsOf (n : Nat) (f : Nat → Bool) : Word := wordOf ((List.range n).foldl (fun w k => w + b2n (f k) * 2 ^ k) 0)

def viewHST (s : State) (a : Nat) : Option Word :=
  if a = HST_NODE then some (hstNode s)
  else if a = HST_ISR then some (bitsOf 18 (blockSummary s))
  else if a = HST_PRT_ISR_LO then some (bitsOf 32 (portSummary s))
  else if a = HST_PRT_ISR_HI then some (bitsOf 32 (fun k => portSummary s (k + 32)))
  else if HST_SERIAL 0 ≤ a ∧ a ≤ HST_SERIAL 3 then some (Config.serial ((a - HST_SERIAL 0) / 4))
  else if a = HST_ROM_VER then some Config.romVersion
  else if a = MSIX_PBA then some s.host.pba
  else none

/-- BOT_BANK_A, BOT_BANK_B. -/
def botBank (s : State) (b : Nat) : Word :=
  let st := bankState s b
  wordOf (bankCode st + 8 * tget 0 s.boot.last b
    + 2 ^ 16 * (if st = .valid ∨ st = .active then ((bankImage s b).map PenegImage.secVer).getD 0 % 2 ^ 16 else 0))

def viewBOT (s : State) (a : Nat) : Option Word :=
  let r := bootRec s
  if a = BOT_STATUS then
    some (wordOf (modeCode s.boot.mode + 4 * r.activeBank + 8 * b2n s.boot.fallback + 16 * b2n r.trial + 32 * s.boot.act
      + 2 ^ 8 * r.why))
  else if a = BOT_BANK 0 then some (botBank s 0)
  else if a = BOT_BANK 1 then some (botBank s 1)
  else if a = BOT_REC then some (wordOf (r.failCnt + 4 * r.prevBank + 2 ^ 16 * (r.secMin % 2 ^ 16)))
  else none

/-- The hold-up estimate in ms (R466): 0.85 × ½ × C × (V² - 2.4²) less 58 W for 5 ms, over 1.8 W, for C in 0.01 F and
V in mV; below 0 it is 0. -/
def holdupEst (s : State) : Nat :=
  let v := rdF s PWR_HU 0 16
  (425 * rdF s PWR_HU 16 16 * (v * v - 5760000) - 29 * 10 ^ 9) / 180000000

/-- EST ≥ 8 s. -/
def holdupReady (s : State) : Bool := decide (8000 ≤ holdupEst s)

/-- EST below 8 s with the store at 5.0 V, once C has been measured. -/
def holdupShort (s : State) : Bool := !holdupReady s && decide (5000 ≤ rdF s PWR_HU 0 16 ∧ rdF s PWR_HU 16 16 ≠ 0)

def viewPWR (s : State) (a : Nat) : Option Word :=
  if a = PWR_STATUS then
    some (wordOf (powerCode s.power.st % 2 + 4 * s.power.why + 16 * s.power.shed + 128 * b2n (holdupReady s)
      + 256 * b2n (rdB s PWR_STATUS 8) + 512 * rdF s PWR_STATUS 9 4))
  else if a = PWR_HU_EST then some (wordOf (holdupEst s))
  else none

/-! MST, CAL, PRT, ING, MKT. -/

def viewMST (s : State) (a : Nat) : Option Word :=
  if MST_TIME_SUB ≤ a ∧ a ≤ MST_TIME_SEC_HI then some ((timeWords s).getD ((a - MST_TIME_SUB) / 4) 0#32)
  else if a = MST_STATUS then some (mstStatus s)
  else if a = MST_TQ then some (wordOf (tqReported s))
  else if a = MST_HOLD then some (mstHold s)
  else if a = MST_CYC_STAT then some (mstCycStat s)
  else if a = MST_CYC_FREQ then some (wordOf (s.mast.cyc.freq / 1000))
  else if a = MST_CYC_PERR then some s.mast.cyc.perr
  else if a = MST_IRIG_STAT then some (mstIrigStat s)
  else if a = MST_SCH_STAT then some (mstSchStat s)
  else none

def viewCAL (s : State) (a : Nat) : Option Word :=
  if CAL_TICK_LO ≤ a ∧ a ≤ CAL_TICK_HI then some ((calWords s).getD ((a - CAL_TICK_LO) / 4) 0#32)
  else if a = CAL_STATUS then some (withBool (shadowWord s a) 3 s.sentry.commit)
  else if (a = CAL_STG_TIME ∨ a = CAL_STG_DATE) ∧ legacyOn s = false then some 0#32
  else if a ∈ sentryAddrs then some (shadowWord s a)
  else none

def viewPRT (s : State) (a : Nat) : Option Word :=
  let p := (a - 0x10000) / 0x400
  let x := port s p
  if a = PRT_STATUS p then
    some (wordOf (b2n x.linkUp + 2 * b2n x.anDone + 4 * b2n x.txLpi + 8 * b2n x.rxLpi + 16 * b2n x.xoff
      + 2 ^ 8 * (x.paused % 256) + 2 ^ 16 * min (bufBytes x / 64) 511))
  else if a = PRT_TSQ_STAT p then some (withField (rd s a) 0 7 x.tsq.length)
  else none

def viewING (s : State) (a : Nat) : Option Word :=
  if a = ING_STATUS then
    some (wordOf ((List.range 4).foldl (fun w k => w + b2n (decide (32 ≤ (fifo s k).length)) * 2 ^ k) 0
      + 2 ^ 16 * min (activeStreams s) 16383))
  else none

def viewMKT (s : State) (a : Nat) : Option Word :=
  if a = MKT_STATUS then
    some (wordOf (b2n s.mkt.shed + 2 ^ 16 * (s.mkt.tabs.filter (fun t => decide (t.st ≠ .closed))).length))
  else none

/-! SCL, CAP. -/

/-- The local stream that SCL_LS_IDX names. -/
def lsSelected (s : State) : Option LsCfg :=
  (s.cfg.scales.ls.find? (fun p => decide (p.1 = rdF s SCL_LS_IDX 0 6))).map (fun p => p.2)

def lsInfo (s : State) : Word :=
  match lsSelected s with
  | some c =>
    wordOf (c.phasors.length + 2 ^ 7 * c.analogs.length + 2 ^ 12 * c.digitals
      + 2 ^ 17 * ((streamCfg s (lsStream s (rdF s SCL_LS_IDX 0 6))).map (fun x => x.cls)).getD 0
      + 2 ^ 20 * b2n c.mClass + 2 ^ 21 * (if c.mClass then 0 else c.window))
  | none => 0#32

/-- The Scales subscription that SCL_SV_IDX names, with its SV subscription. -/
def svSelected (s : State) : Option (SvScCfg × Option SvSub) :=
  (s.cfg.scales.svs[rdF s SCL_SV_IDX 0 6]?).map (fun c =>
    (c, (s.cfg.subs.find? (fun p => decide (p.1 = c.sub))).map (fun p => p.2)))

/-- SCL_SV_CFG.RATE. -/
def svRateCode (r : Nat) : Nat := if r = 4000 then 0 else if r = 4800 then 1 else if r = 14400 then 2 else 3

def svCfgWord (s : State) : Word :=
  match svSelected s with
  | some (c, some x) => wordOf (min c.waitUs 10000 + 2 ^ 14 * svRateCode x.rate + 2 ^ 16 * x.channels)
  | _ => 0#32

def svSelSt (s : State) : SvSt :=
  match svSelected s with
  | some (c, _) => tget {} s.ing.subs c.sub
  | none => {}

def viewSCL (s : State) (a : Nat) : Option Word :=
  if a = SCL_SV_CFG then some (svCfgWord s)
  else if a = SCL_SV_GAPS then some (wordOf (svSelSt s).gaps)
  else if a = SCL_SV_INTERP then some (wordOf (svSelSt s).interp)
  else if a = SCL_SV_LATE then some (wordOf (svSelSt s).late)
  else if a = SCL_LS_INFO then some (lsInfo s)
  else if a = SCL_LS_LAT then some (wordOf (((lsSelected s).map (fun c => divRound (lsLatency s c) (1000 * taiNsUnit))).getD 0))
  else if a = SCL_LS_STAT then some (tget 0#32 s.scales.lsStat (rdF s SCL_LS_IDX 0 6))
  else none

def viewCAP (s : State) (a : Nat) : Option Word :=
  if a = CAP_STATUS then
    some (wordOf (s.cap.seq + 8 * b2n s.cap.run.isSome + 16 * b2n s.cap.deadPos.isSome + 32 * b2n s.cap.shed
      + 64 * b2n s.cap.reefed + 128 * b2n (!(makeRoom s).1)))
  else if a = CAP_STORE then
    some (wordOf (min s.cap.recs.length 65535 + 2 ^ 16 * ((storeSize - storeUsed s) / 2 ^ 20)))
  else if a = CAP_REC_OLD then some (wordOf (((s.cap.recs.head?).map CapRec.no).getD 0))
  else if a = CAP_REC_NEW then some (wordOf (((s.cap.recs.getLast?).map CapRec.no).getD 0))
  else if a = CAP_REC_STAT then
    some (wordOf (rdF s CAP_REC_STAT 0 4 + 16 * b2n (s.cap.recs.any (fun r => r.exported && decide (r.no = (rd s CAP_REC_IDX).toNat)))))
  else none

/-! NST. -/

/-- Seconds of EM warm-up or seeding left. -/
def warmLeft (s : State) : Nat :=
  if s.nest.emState = .warming ∨ s.nest.emState = .seeded then
    let t := rdF s NST_EM_MEM 16 16
    match s.nest.emFirst with
    | none => t
    | some f => min 65535 (divUp (f + t * oscRate s - max f s.nest.extracted) (oscRate s))
  else 0

def trackedIn (m : NMap ModeSlot) : Nat := (m.filter (fun p => decide (p.2.st = .tracked))).length

def oscStatus (s : State) : Word :=
  wordOf (bandCode s.nest.emState + 4 * fastCode s.nest.fastState + 16 * trackedIn s.nest.emSlots
    + 2 ^ 9 * trackedIn (((s.nest.osc.getLast?).map OscInst.after).getD {}).slots + 2 ^ 16 * warmLeft s)

/-- The words of a location slot. -/
def locWords (x : LocSlot) : List Word :=
  [wordOf (x.mode.getD 0 + 64 * b2n x.valid + 128 * b2n x.warming + 2 ^ 8 * x.share + 2 ^ 16 * x.srcBus), x.dSrc,
   wordOf x.topBranch, x.dTop]

def topStatus (s : State) : Word :=
  match s.nest.top.getLast? with
  | none => wordOf (2 ^ 15 * b2n s.nest.rebuild)
  | some i =>
    let live := (i.after.slots.filter (fun p => decide (p.2.st = .declared ∨ p.2.st = .suspected))).length
    wordOf ((measComps i.buses i.after.comp).length + 2 ^ 15 * b2n s.nest.rebuild + 2 ^ 16 * live
      + 2 ^ 25 * b2n s.nest.split + 2 ^ 26 * b2n s.nest.declNow + 2 ^ 27 * b2n s.nest.suspNow
      + 2 ^ 28 * min 15 i.after.unobserved)

def viewNST (s : State) (a : Nat) : Option Word :=
  if a = NST_OSC_STATUS then some (oscStatus s)
  else if NST_LOC 0 0 ≤ a ∧ a ≤ NST_LOC 3 3 then
    let k := (a - NST_LOC 0 0) / 4
    some ((locWords (tget {} s.nest.locs (k / 4))).getD (k % 4) 0#32)
  else if a = NST_TOP_STATUS then some (topStatus s)
  else none

/-! EGR, PAK, CTL, MEM. -/

/-- Pin `k` of ANN[7:0] (R290, Table 0.4). -/
def annPin (s : State) (k : Nat) : Bool :=
  if isMuted s || !s.boot.started then false
  else if !isLaunch s then (activeRules s).any (fun p => p.2.ann.testBit k)
  else if k < 4 then (activeRules s).any (fun p => decide (p.2.sev = k + 4))
  else if k = 4 then s.nest.declNow else if k = 5 then s.nest.suspNow else if k = 6 then s.nest.dampNow else s.nest.ampNow

/-- EGR_Q_STAT as its reader sees it; a register read is the host's here. -/
def qStatWord (s : State) (q : Nat) : Word :=
  let x := queue s q
  wordOf (x.items.length + 2 ^ 10 * b2n (qFull s q 1) + 2 ^ 11 * b2n (decide (tget [] x.staged 0 ≠ []))
    + 2 ^ 12 * b2n x.waiting.isSome + 2 ^ 13 * b2n x.oversize + 2 ^ 14 * b2n x.badLen)

def viewEGR (s : State) (a : Nat) : Option Word :=
  if a = EGR_STATUS then
    some (wordOf (b2n (isMuted s) + 2 ^ 8 * (bitsOf 8 (annPin s)).toNat + 2 ^ 16 * (activeRules s).length))
  else
    let q := (a - 0x49000) / 0x20
    if 0x49000 ≤ a ∧ q < 32 ∧ a = EGR_Q_STAT q then some (qStatWord s q) else none

def viewPAK (s : State) (a : Nat) : Option Word :=
  if a = PAK_STATUS then
    some (wordOf (b2n s.pak.engine.isSome + 2 * ((s.pak.engine.map PakBlock.chan).getD 0) + 8 * b2n s.pak.shed))
  else none

/-- The performance counters (R345). -/
def allCounters : List PcCounter :=
  (List.finRange 4).flatMap (fun c => pcCounters (.core c)) ++ pcCounters .dataPath

/-- CTL_PC_STAT with PSB_LVL; the high word of a counter carries its flag. -/
def viewCTL (s : State) (a : Nat) : Option Word :=
  if a = CTL_STATUS then some (ctlStatus s)
  else if a = CTL_SCH_STAT then some (ctlSchStat s)
  else if a = CTL_HPOST_STAT then some (ctlHpostStat s)
  else match (List.range 4).find? (fun c => decide (a = CTL_PC_STAT c)) with
    | some c => some (withField (rd s a) 12 9 (sampleLevel s c))
    | none => (allCounters.find? (fun c => decide (pcReg c + 4 = a))).map (fun c => withBool (rd s a) 31 (pcFlag s c))

def viewMEM (s : State) (a : Nat) : Option Word := if a = MEM_STATUS then some (memStatus s) else none

/-! LDG, TIL, SHR. -/

def viewLDG (s : State) (a : Nat) : Option Word :=
  if a = LDG_STATUS then some (ldgStatus s)
  else if a = LDG_SEQ then some (wordOf s.ledger.seq)
  else if a = LDG_EPOCH_PC then some (wordOf (s.ledger.epoch % 256 + 2 ^ 8 * s.ledger.pwrCycles))
  else if a = LDG_HOURS then some (wordOf s.ledger.opHours)
  else if a = LDG_CLR_STAT then some (ldgClrStat s)
  else if a = LDG_CLR_NONCE_LO then some (loWord s.ledger.clrNonce.toNat)
  else if a = LDG_CLR_NONCE_HI then some (hiWord s.ledger.clrNonce.toNat)
  else if LDG_SUM 0 ≤ a ∧ a ≤ LDG_SUM 7 then some ((ledgerSummary s).getD ((a - LDG_SUM 0) / 4) 0#32)
  else if LDG_LW 0 ≤ a ∧ a ≤ LDG_LW 15 then some (shadowWord s a)
  else none

def tilStatus (s : State) : Word :=
  wordOf (tillCode s.till.st + 4 * s.till.sealReason + 16 * b2n (tillBusy s 0) + 32 * b2n (tillBusy s 1)
    + 2 ^ 16 * s.till.cache.length + 2 ^ 23 * s.till.cacheDrop)

def viewTIL (s : State) (a : Nat) : Option Word :=
  if a = TIL_STATUS then some (tilStatus s)
  else if a = TIL_TAMPER ∨ a = TIL_TAMPER_TICK_LO ∨ a = TIL_TAMPER_TICK_HI then some (shadowWord s a)
  else if TIL_UID 0 ≤ a ∧ a ≤ TIL_UID 7 then
    some (if s.till.st = .sealed then 0#32 else wordOf (s.till.uid / 2 ^ (32 * (7 - (a - TIL_UID 0) / 4))))
  else if (TIL_MBOX_IN 0 ≤ a ∧ a ≤ TIL_MBOX_IN 63) ∨ (TIL_D_MBOX_IN 0 ≤ a ∧ a ≤ TIL_D_MBOX_IN 63) then some 0#32
  else none

def shrStatus (s : State) : Word :=
  wordOf (roleCode s.pair.role + 16 * b2n (isMuted s) + 32 * b2n s.pair.peerSeen + 64 * b2n (shroud s 0).up
    + 128 * b2n (shroud s 1).up + 256 * b2n s.pair.clerkLost + 512 * b2n s.pair.diverged + 1024 * b2n (pairReady s)
    + 2048 * b2n s.pair.confirm)

def viewSHR (s : State) (a : Nat) : Option Word :=
  if a = SHR_STATUS then some (shrStatus s) else if a = SHR_MONO then some (wordOf s.pair.mono) else none

/-- WIN_TAG and WIN_COUNT of a window (Table 20.4). -/
def viewWIN (s : State) (a : Nat) : Option Word :=
  (winBases.zipIdx.find? (fun p => decide (p.1 ≤ a ∧ a < p.1 + 16))).map (fun p =>
    let x := window s p.2
    ([loWord (winTag x).toNat, hiWord (winTag x).toNat, 0#32, x.count]).getD ((a - p.1) / 4) 0#32)

/-! A read. -/

/-- The view of a register in its block (Table 20.2). -/
def viewReg (s : State) (a : Nat) : Option Word :=
  if a < 0x1000 then viewHST s a
  else if a < 0x2000 then viewBOT s a
  else if a < 0x4000 then viewPWR s a
  else if a < 0x6000 then viewMST s a
  else if a < 0x10000 then viewCAL s a
  else if a < 0x20000 then viewPRT s a
  else if a < 0x28000 then viewING s a
  else if a < 0x30000 then viewMKT s a
  else if a < 0x38000 then viewSCL s a
  else if a < 0x40000 then viewCAP s a
  else if a < 0x48000 then viewNST s a
  else if a < 0x50000 then viewEGR s a
  else if a < 0x58000 then viewPAK s a
  else if a < 0x60000 then viewCTL s a
  else if a < 0x68000 then viewMEM s a
  else if a < 0x70000 then viewLDG s a
  else if a < 0x78000 then viewTIL s a
  else if a < 0x80000 then viewSHR s a
  else viewWIN s a

/-- The word a read of the register at byte offset `a` returns. -/
def readReg (s : State) (a : Nat) : Word :=
  match viewReg s a with
  | some v => v
  | none => rd s a

/-- The value a 64-bit read of two adjacent words returns, a time value or a FIFO entry among them (R11, R476). -/
def readReg64 (s : State) (a : Nat) : BitVec 64 := pairWord (readReg s a) (readReg s (a + 4))

end Sys2Proof.Machine
end

