-- ==== Sys2Proof/Machine/Boot.lean ====
section
/-!
DEFINITION. The boot commands (18_boot_update.md): the start, the banks, activations, the trial, and the service protocol.
-/

namespace Sys2Proof.Machine

open Sys2Proof

/-! Start and trial. -/

/-- R443: the start runs once the power-management unit has released the die's reset. -/
def execNodeStart (i : StartInputs) (s : State) : Host.Outcome State Fault Refusal :=
  .next (if s.boot.phase = .released ∧ s.power.st = .fullSail then nodeStart i s else s)

/-- R444: NODE_OK has been high for 60 s. -/
def execFailCntClear (s : State) : Host.Outcome State Fault Refusal :=
  inFull s (if okFor s 60 ∧ (bootRec s).failCnt ≠ 0 then writeRec (fun r => { r with failCnt := 0 }) s else s)

/-- R455: NODE_OK has been high for TRIAL_S; the trial is confirmed, and SEC_MIN rises to the image's SEC_VER. -/
def trialConfirm (s : State) : State :=
  if (bootRec s).trial ∧ okFor s (clampNat 60 3600 s.cfg.trialS) ∧ s.boot.act = 0 then
    let v := max (bootRec s).secMin (((bankImage s (bootRec s).activeBank).map PenegImage.secVer).getD 0)
    raise BOT_INT 2 (bootRecord 4 3 v (writeRec (fun r => { r with trial := false, secMin := v }) s))
  else s

def execTrialConfirm (s : State) : Host.Outcome State Fault Refusal := inFull s (trialConfirm s)

/-! VERIFY and ERASE by BOT_CMD (R438, R442). -/

/-- A VERIFY or ERASE by BOT_CMD. -/
def botJob (erase : Bool) (b : Nat) (s : State) : State :=
  let r := jobRefusal s b
  if r = 0 then botBusy (jobStartBank erase b none s) else if r = resBUSY then botRefuse r s else botEnd r s

def execBotVerify (who : Req) (bank : Fin 2) (s : State) : Host.Outcome State Fault Refusal :=
  .next (serve (.botVerify who bank) who BOT_CMD (botJob false bank.val) s)

def execBotErase (who : Req) (bank : Fin 2) (s : State) : Host.Outcome State Fault Refusal :=
  .next (serve (.botErase who bank) who BOT_CMD (botJob true bank.val) s)

/-- The recovery log keeps each command of recovery mode with its result (R448), up to the recovery area's 7 MiB
(Table 1.9); DESIGN CHOICE (notes/assumptions/24.md): a full log takes no more. -/
def logService (cmd status : Nat) (s : State) : State :=
  if s.boot.mode = .recovery ∧ s.boot.log.length + 2 ≤ 7 * 2 ^ 20 then
    { s with boot := { s.boot with log := s.boot.log ++ [cmd, status] } }
  else s

/-- A job ends with its result: for BOT_CMD, or by the reply to the service request. -/
def jobEnd (cmd result : Nat) (j : BankJob) (s : State) : State :=
  let t := { s with boot := { s.boot with job := none } }
  match j.svc with
  | some q => logService cmd result (svcReply cmd result q [] t)
  | none => botEnd result t

/-- R442: the first check that fails decides the result. -/
def bankVerifyDone (c : BankCheck) (img : Option PenegImage) (s : State) : State :=
  match s.boot.job with
  | some j =>
    if j.erase then s
    else
      let k := checkCode s c img
      let t := { s with boot := { s.boot with
        images := tset none s.boot.images j.bank img, last := tset 0 s.boot.last j.bank k } }
      jobEnd 4 k j (if k = 0 then setBank j.bank .valid t else rejectBank j.bank k t)
  | none => s

def execBankVerifyDone (check : BankCheck) (img : Option PenegImage) (s : State) : Host.Outcome State Fault Refusal :=
  inFull s (bankVerifyDone check img s)

/-- R438: an erased bank is EMPTY. -/
def bankEraseDone (s : State) : State :=
  match s.boot.job with
  | some j =>
    if j.erase then
      jobEnd 2 0 j (setBank j.bank .empty { s with boot := { s.boot with
        images := tset none s.boot.images j.bank none, flash := tset [] s.boot.flash j.bank [] } })
    else s
  | none => s

def execBankEraseDone (s : State) : Host.Outcome State Fault Refusal := inFull s (bankEraseDone s)

/-! Activations (R451 to R456). -/

/-- An activation by BOT_CMD: a refusal ends the command, or leaves BUSY while another runs. -/
def botActivate (full : Bool) (b : Nat) (force : Bool) (c : BankCheck) (s : State) : State :=
  let r := activate full b force c s
  if r.1 = 0 then r.2 else if r.1 = resBUSY then botRefuse r.1 r.2 else botEnd r.1 r.2

def execActivateFw (who : Req) (bank : Fin 2) (force : Bool) (check : BankCheck) (s : State) :
    Host.Outcome State Fault Refusal :=
  .next (serve (.activateFw who bank force check) who BOT_CMD (botActivate false bank.val force check) s)

def execActivateFull (who : Req) (bank : Fin 2) (force : Bool) (check : BankCheck) (s : State) :
    Host.Outcome State Fault Refusal :=
  .next (serve (.activateFull who bank force check) who BOT_CMD (botActivate true bank.val force check) s)

def execActivationResumption (hashOk : Bool) (s : State) : Host.Outcome State Fault Refusal := inFull s (activationResume hashOk s)

/-! The service protocol (R447 to R450, Table 18.6). -/

/-- A request is served: its CRC holds, the node is on and started, and in normal mode the firmware runs; while the
Deck restarts it is rejected as BUSY (R18). `f` gives the state after it and the reply's STATUS and payload, or none
when the reply comes later. -/
def svcServe (h : SvcHdr) (cmd : Nat) (f : State → Option (Nat × List Nat) × State) (s : State) : State :=
  if !h.crcOk || decide (s.power.st ≠ .fullSail ∨ s.boot.phase ≠ .running) then s
  else if s.boot.mode = .normal ∧ s.deck.st ≠ .run then
    (if s.deck.st = .restarting then svcReply cmd resBUSY h.seq [] s else s)
  else match f s with
    | (some r, t) => logService cmd r.1 (svcReply cmd r.1 h.seq r.2 t)
    | (none, t) => t

/-- A command that normal mode serves only with UPLOAD_EN, and recovery serves. -/
def uploadAllowed (s : State) : Bool :=
  decide (s.boot.mode = .recovery) || (decide (s.boot.mode = .normal) && rdB s BOT_CTRL 0)

/-- INFO: the mode, the bank states, the boot record and the running VERSION (notes/assumptions/24.md). -/
def infoPayload (s : State) : List Nat :=
  let r := bootRec s
  [modeCode s.boot.mode, bankCode r.bankA, bankCode r.bankB] ++ beBytes 4 r.seq
    ++ [r.activeBank, r.prevBank, b2n r.trial, r.failCnt] ++ beBytes 2 r.secMin ++ [r.why]
    ++ beBytes 4 ((s.boot.running.map PenegImage.version).getD 0)

def execSvcInfo (h : SvcHdr) (s : State) : Host.Outcome State Fault Refusal :=
  .next (svcServe h 1 (fun t => (some (0, infoPayload t), t)) s)

/-- ERASE and VERIFY reply when they are done. -/
def svcJob (h : SvcHdr) (erase : Bool) (b : Nat) (s : State) : Option (Nat × List Nat) × State :=
  if erase && !uploadAllowed s then (some (resBAD_STATE, []), s)
  else if jobRefusal s b ≠ 0 then (some (jobRefusal s b, []), s)
  else (none, jobStartBank erase b (some h.seq) s)

def execSvcErase (h : SvcHdr) (bank : Fin 2) (s : State) : Host.Outcome State Fault Refusal :=
  .next (svcServe h 2 (svcJob h true bank.val) s)

def execSvcVerify (h : SvcHdr) (bank : Fin 2) (s : State) : Host.Outcome State Fault Refusal :=
  .next (svcServe h 4 (svcJob h false bank.val) s)

/-- Bytes are programmed from offset `a` of a bank's 60 MiB (Table 1.9); an offset beyond them programs nothing. -/
def flashWrite : Nat → List Nat → NMap Nat → NMap Nat
  | _, [], m => m
  | a, b :: bs, m => flashWrite (a + 1) bs (if a < 60 * 2 ^ 20 then tset 255 m a (b % 256) else m)

/-- WRITE (R450): an EMPTY bank goes to WRITING. -/
def svcWrite (b ofs : Nat) (data : List Nat) (s : State) : Option (Nat × List Nat) × State :=
  if !uploadAllowed s then (some (resBAD_STATE, []), s)
  else if bankState s b = .active then (some (resACTIVE_BANK, []), s)
  else if bankState s b ≠ .empty ∧ bankState s b ≠ .writing then (some (resBAD_STATE, []), s)
  else
    let t := { s with boot := { s.boot with
      flash := tset [] s.boot.flash b (flashWrite ofs data (tget [] s.boot.flash b)) } }
    (some (0, []), setBank b .writing t)

def execSvcWrite (h : SvcHdr) (bank : Fin 2) (ofs : BitVec 26) (data : List (BitVec 8)) (s : State) :
    Host.Outcome State Fault Refusal :=
  .next (svcServe h 3 (svcWrite bank.val ofs.toNat (data.map BitVec.toNat)) s)

/-- ACTIVATE (R451): CMD, BANK and FORCE as in BOT_CMD; another CMD is no activation. -/
def svcActivate (cmd : Nat) (c : BankCheck) (s : State) : Option (Nat × List Nat) × State :=
  if s.boot.mode ≠ .normal ∨ rdB s BOT_CTRL 0 = false ∨ (fieldN cmd 0 3 ≠ 2 ∧ fieldN cmd 0 3 ≠ 3) then
    (some (resBAD_STATE, []), s)
  else
    let r := activate (decide (fieldN cmd 0 3 = 3)) (fieldN cmd 3 1) (cmd.testBit 4) c s
    (some (r.1, []), r.2)

def execSvcActivate (h : SvcHdr) (cmd : BitVec 8) (check : BankCheck) (s : State) : Host.Outcome State Fault Refusal :=
  .next (svcServe h 5 (svcActivate cmd.toNat check) s)

/-- The Till commands that a mode serves on the service port. -/
def svcTillAllows (s : State) (code : Nat) : Bool :=
  match s.boot.mode with
  | .normal => decide (code = 0x12 ∨ code = 0x13 ∨ code = 0x0F)
  | .sealed => decide (code = 0x12 ∨ code = 0x13 ∨ code = 0x15)
  | .recovery => decide (code = 0x12 ∨ code = 0x13 ∨ code = 0x15 ∨ code = 0x16)

/-- TILL: the command enters the Till's queue; the reply comes when it completes. -/
def svcTill (seq : Word) (code : Nat) (args mbox : List Nat) (cert ok : Bool) (s : State) :
    Option (Nat × List Nat) × State :=
  if !svcTillAllows s code then (some (resBAD_STATE, []), s)
  else if tillBusy s 2 then (some (resBUSY, []), s)
  else
    let r : TillReq := { iface := 2, code := code, cert := cert, ok := ok, args := args, mbox := mbox, seq := seq }
    (none, tillStart { s with till := { s.till with queue := s.till.queue ++ [r] } })

def execSvcTill (h : SvcHdr) (code : BitVec 8) (args : List Word) (mbox : List (BitVec 8)) (cert ok : Bool) (s : State) :
    Host.Outcome State Fault Refusal :=
  .next (svcServe h 6 (svcTill h.seq code.toNat (args.map BitVec.toNat) (mbox.map BitVec.toNat) cert ok) s)

/-- REBOOT (R448): FAIL_CNT is cleared, ACTIVE_BANK is the named bank, and the node restarts after its reply. -/
def svcReboot (h : SvcHdr) (b : Nat) (s : State) : Option (Nat × List Nat) × State :=
  if s.boot.mode = .normal then (some (resBAD_STATE, []), s)
  else if bankState s b ≠ .valid ∧ bankState s b ≠ .active then (some (resNOT_VERIFIED, []), s)
  else
    let t := logService 7 0 (svcReply 7 0 h.seq [] s)
    (none, dieReset (writeRec (fun r => { r with failCnt := 0, activeBank := b }) t))

def execSvcReboot (h : SvcHdr) (bank : Fin 2) (s : State) : Host.Outcome State Fault Refusal :=
  .next (svcServe h 7 (svcReboot h bank.val) s)

/-- LOG: 1,024 bytes of the recovery log; a byte not written reads 255. -/
def logPayload (ofs : Nat) (s : State) : List Nat := (List.range 1024).map (fun k => (s.boot.log[ofs + k]?).getD 255)

def execSvcLog (h : SvcHdr) (ofs : Word) (s : State) : Host.Outcome State Fault Refusal :=
  .next (svcServe h 8 (fun t => (some (0, logPayload ofs.toNat t), t)) s)

end Sys2Proof.Machine
end

