-- ==== Sys2Proof/Machine/Comtrade.lean ====
section
/-!
DEFINITION. The byte streams of a record's export (R222 to R224): the raw record, and the .cfg, .hdr and .dat files of IEEE
C37.111-2013. The order of a file's fields is the standard's, the texts R224 leaves open are the image's or the model's
(notes/assumptions/23.md).
-/

namespace Sys2Proof.Machine

open Sys2Proof

/-! Texts. -/

/-- A number in decimal, padded with zeros to `w` digits. -/
def decPad (w n : Nat) : List Nat :=
  let d := decText n
  List.replicate (w - d.length) 48 ++ d

def eol : List Nat := [13, 10]

/-- Fields joined by commas, as one line. -/
def csv : List (List Nat) → List Nat
  | [] => eol
  | [f] => f ++ eol
  | f :: r => f ++ [44] ++ csv r

/-- A real number n / d below 10^12 as a whole number of at least 12 digits with an exponent of ten. -/
def realText (n d : Nat) : List Nat :=
  if n = 0 then asc "0"
  else
    let k := ((List.range 120).find? (fun k => decide (d * 10 ^ 11 ≤ n * 10 ^ k))).getD 119
    decText (divRound (n * 10 ^ k) d) ++ (if k = 0 then [] else asc "E-" ++ decText k)

/-! Civil dates. -/

/-- Year, month and day of a count of days from 1970-01-01. -/
def civil (days : Nat) : Nat × Nat × Nat :=
  let z := days + 719468
  let era := z / 146097
  let doe := z % 146097
  let yoe := (doe - doe / 1460 + doe / 36524 - doe / 146096) / 365
  let doy := doe - (365 * yoe + yoe / 4 - yoe / 100)
  let mp := (5 * doy + 2) / 153
  let m := if mp < 10 then mp + 3 else mp - 9
  (yoe + era * 400 + (if m ≤ 2 then 1 else 0), m, doy - (153 * mp + 2) / 5 + 1)

/-- A tag as UTC date and time to 1 µs. -/
def dateLine (utc : Int) (tag : Nat) : List Nat :=
  let sec := ((tagSec tag : Int) - utc).toNat
  let c := civil (sec / 86400)
  let t := sec % 86400
  csv [decPad 2 c.2.2 ++ [47] ++ decPad 2 c.2.1 ++ [47] ++ decPad 4 c.1,
    decPad 2 (t / 3600) ++ [58] ++ decPad 2 (t / 60 % 60) ++ [58] ++ decPad 2 (t % 60) ++ [46] ++ decPad 6 (tagNs tag / 1000)]

/-! The files (R224). `b32` is BINARY32. -/

/-- One analogue line of the .cfg file: a is FS / 32,768 or FS / 2^31, b is 0, PS is P. -/
def analogLine (b32 : Bool) (n : Nat) (c : CapChan) : List Nat :=
  let top := if b32 then 2147483647 else 32767
  csv [decText n, c.ident, c.phase, c.circuit, c.unit,
    realText (f32Val c.full).natAbs (2 ^ (if b32 then 180 else 164)), asc "0", asc "0", asc "-" ++ decText top, decText top,
    asc "1", asc "1", asc "P"]

/-- The time-quality code as one hexadecimal digit. -/
def hexDigit (n : Nat) : List Nat := (Nat.toDigits 16 n).map (fun c => c.toUpper.toNat)

/-- The .cfg file. -/
def cfgFile (b32 : Bool) (r : CapRec) : List Nat :=
  let rows := r.rows.reverse
  let gaps := rows.any (fun x => x.missing)
  let first := ((rows.head?).map CapRow.tag).getD r.trig
  let chans := r.layout.chans
  csv [r.layout.station, r.layout.device, asc "2013"]
    ++ csv [decText (chans.length + 32), decText chans.length ++ asc "A", asc "32D"]
    ++ (List.range chans.length).flatMap (fun i => match chans[i]? with
      | some c => analogLine b32 (i + 1) c
      | none => [])
    ++ (List.range 32).flatMap (fun i => csv [decText (i + 1), r.layout.names.getD i [], [], [], asc "0"])
    ++ csv [decText r.hz]
    ++ (if gaps then csv [asc "0"] ++ csv [asc "0", decText rows.length]
        else csv [asc "1"] ++ csv [decText r.rate, decText rows.length])
    ++ dateLine r.utc first ++ dateLine r.utc r.trig
    ++ csv [if b32 then asc "BINARY32" else asc "BINARY"] ++ csv [asc "1"] ++ csv [asc "0", asc "0"]
    ++ csv [hexDigit (timeCode r.tq), decText (if r.leap = 3 then 0 else r.leap)]

/-- KEY=value as a line. -/
def keyLine (k : String) (v : List Nat) : List Nat := asc k ++ [61] ++ v ++ eol

/-- A TAI time as seconds and nanoseconds. -/
def taiText (t : Nat) : List Nat := decText (tagSec t) ++ [46] ++ decPad 9 (tagNs t)

/-- The flags of W1 as the header carries them. -/
def recW1 (r : CapRec) : Nat := ((headerWords r).getD 1 0#32).toNat

/-- The .hdr file. -/
def hdrFile (r : CapRec) : List Nat :=
  keyLine "SERIAL" ((List.range 4).flatMap (fun i => wordBytes (Config.serial i)))
    ++ keyLine "REC_NO" (decText r.no) ++ keyLine "TRIG_TAI" (taiText r.trig) ++ keyLine "TRIG_SAMPLE" (decText r.k)
    ++ keyLine "TRIG_FRAC" (decText r.frac) ++ keyLine "BELL_TAI" (taiText (r.bell.getD 0))
    ++ keyLine "DEAD_US" (decText r.dead) ++ keyLine "MISSED" (decText r.missed) ++ keyLine "FLAGS" (decText (recW1 r))
    ++ (gapTable r.rows.reverse).flatMap (fun g => keyLine "GAP" (decText g.1 ++ [44] ++ decText g.2))

/-- An analogue value in a .dat file: its upper 16 bits, or all 32. -/
def datValue (b32 : Bool) (v : Int) : List Nat := if b32 then leBytes 4 (unsignedN v 32) else leBytes 2 (unsignedN (v / 2 ^ 16) 16)

/-- The 32-byte unit of the stored record that holds byte `ofs` is damaged: it exports as zeros (Table 14.1). -/
def damagedAt (r : CapRec) (ofs : Nat) : Bool := decide (ofs / 32 ∈ r.damaged)

/-- Bytes from stored offset `ofs`, zero where they are damaged. -/
def undamaged (r : CapRec) : Nat → List Nat → List Nat
  | _, [] => []
  | ofs, b :: bs => (if damagedAt r ofs then 0 else b) :: undamaged r (ofs + 1) bs

/-- The values and the status word of stored sample `i`, zero where they are damaged: the samples lie after the header
and the gap table, four bytes a value (R222). -/
def storedRow (r : CapRec) (i : Nat) (x : CapRow) : CapRow :=
  let n := x.vals.length
  let a := fun j => damagedAt r (576 + 4 * (i * (n + 1) + j))
  { x with
    vals := (List.range n).map (fun j => if a j then 0 else x.vals.getD j 0), status := if a n then 0#32 else x.status }

/-- The .dat file: missing samples are omitted and their numbers skipped; times in µs from the first sample. -/
def datFile (b32 : Bool) (r : CapRec) : List Nat :=
  let rows := r.rows.reverse
  let first := ((rows.head?).map CapRow.tag).getD r.trig
  (List.range rows.length).flatMap (fun i => match rows[i]? with
    | some x =>
      if x.missing then []
      else
        let y := storedRow r i x
        leBytes 4 (i + 1) ++ leBytes 4 (tagUs first x.tag) ++ y.vals.flatMap (datValue b32) ++ wordBytes y.status
    | none => [])

/-- The raw record: header, gap table padded to 512 bytes, samples (R222). -/
def rawRecord (r : CapRec) : List Nat :=
  let rows := r.rows.reverse
  let g := (gapTable rows).flatMap (fun p => leBytes 4 p.1 ++ leBytes 4 p.2)
  undamaged r 0 ((headerWords r).flatMap wordBytes ++ g ++ List.replicate (512 - g.length) 0
    ++ rows.flatMap (fun x => x.vals.flatMap (fun v => leBytes 4 (unsignedN v 32)) ++ wordBytes x.status))

/-- The three files of a format: 0 the raw record alone, 1 BINARY, 2 BINARY32; 3 acts as 1. -/
def exportFiles (format : Nat) (r : CapRec) : List (List Nat) :=
  if format = 0 then [[], [], rawRecord r]
  else [cfgFile (decide (format = 2)) r, hdrFile r, datFile (decide (format = 2)) r]

/-- The 64-byte export header: the files' lengths, FORMAT, PACKED and RAW (R223 gives no layout). -/
def exportHeader (format : Nat) (packed raw : Bool) (files : List (List Nat)) : List Nat :=
  files.flatMap (fun f => leBytes 4 f.length) ++ leBytes 4 (format + 2 ^ 8 * b2n packed + 2 ^ 9 * b2n raw)
    ++ List.replicate 48 0

/-- The byte stream of an export, each file padded to 8 bytes or packed (R319: a flush after each). -/
def exportStream (s : State) (format : Nat) (pack : Bool) (r : CapRec) : List Nat :=
  let files := exportFiles format r
  let packed := pack && !s.pak.shed
  let full := files.filter (fun f => decide (f ≠ []))
  exportHeader format packed (pack && s.pak.shed) files
    ++ (if packed then (List.range full.length).flatMap (fun i =>
          packBlock 2 false false true (decide (i + 1 = full.length)) i 0 (full.getD i []))
        else files.flatMap pad8)

end Sys2Proof.Machine
end

