-- ==== Sys2Proof/Machine/Capture.lean ====
section
/-!
DEFINITION. The capture commands: record samples, input and bell edges, control, and the records held (08_capture.md).
-/

namespace Sys2Proof.Machine

open Sys2Proof

/-- R203. -/
def execCaptureSample (drained : Nat) (s : State) : Host.Outcome State Fault Refusal := powered s (capSample drained s)

/-- R210: an edge that holds its level for 1 µs changes the input's level at its stamp; CAP_DIN gives the source's level and
its events. -/
def dinEdge (i : Nat) (high held : Bool) (s : State) : State :=
  if !held then s
  else
    let at0 := quarterNs s.tai * 2 ^ 26
    let t := capEvent (128 + i) at0 high false s
    match rdF s CAP_DIN (2 * i) 2 with
    | 1 => capEvent (32 + i) at0 high false t
    | 2 => capEvent (32 + i) at0 (!high) false t
    | 3 => capEvent (32 + i) at0 high true t
    | _ => t

def execDinEdge (din : Fin 16) (high held : Bool) (s : State) : Host.Outcome State Fault Refusal :=
  powered s (dinEdge din.val high held s)

/-! The bell lines (R217 to R221). -/

/-- The stamp of a fall. -/
def bellStamp (l : Nat) (s : State) : State :=
  wr (CAP_BELL_SEC l) (loWord (taiSec s)) (wr (CAP_BELL_NS l) (wordOf (quarterNs s.tai % 4000000000)) s)

/-- t_b: the stamp less CAP_BELL_DLY (R218). -/
def bellInstant (l : Nat) (s : State) : Nat := (quarterNs s.tai - rdF s (CAP_BELL_DLY l) 0 14) * 2 ^ 26

/-- A fall of this module's own pulse: t_b goes into the record that drove it (R219). -/
def bellOwn (l : Nat) (s : State) : State :=
  match tget none s.cap.drove l with
  | none => s
  | some no =>
    let f := fun (r : CapRec) => if r.no = no then { r with bell := some (bellInstant l s) } else r
    setCap (fun c => { c with run := c.run.map f, recs := c.recs.map f }) s

/-- The line stays low until a tick at the least. -/
def lineLow (l lowNs : Nat) (s : State) : State :=
  setCap (fun c => { c with high := tset 0 c.high l (max (tget 0 c.high l) (s.ticks + divUp lowNs 4)) }) s

/-- R217, R218: a fall on a line in use is stamped; one of another module, after 10 µs high, is an event at t_b, and the
line reads low for its time. A fall while the line is low is merged. -/
def bellFall (l lowNs : Nat) (s : State) : State :=
  let mode := rdF s CAP_BELL_CFG (2 * l) 2
  let high := tget 0 s.cap.high l
  if mode = 0 ∨ mode = 3 then s
  else
    let t := lineLow l lowNs s
    if tget false s.cap.drive l then bellOwn l (bellStamp l t)
    else if s.ticks < high then t
    else if s.ticks < high + 2500 then bellStamp l t
    else
      let b := bellInstant l t
      raise CAP_INT 4 (capCount cBELL_FALLS 1
        (capEvent (48 + l) (b + lowNs * taiNsUnit) false false (capEvent (48 + l) b true false (bellStamp l t))))

def execBellLineFall (line : Fin 2) (lowNs : Nat) (s : State) : Host.Outcome State Fault Refusal :=
  powered s (bellFall line.val lowNs s)

/-- R217: the module releases the line after PULSE_US. -/
def bellPulseEnd (l : Nat) (s : State) : State :=
  if tget false s.cap.drive l ∧ tget 0 s.cap.driveAt l + rdF s CAP_BELL_CFG 16 10 * 250 ≤ s.ticks then
    emit (.bell l false) (lineLow l 0 (setCap (fun c => { c with
      drive := tset false c.drive l false, drove := tset none c.drove l none }) s))
  else s

def execBellPulseEnd (line : Fin 2) (s : State) : Host.Outcome State Fault Refusal := powered s (bellPulseEnd line.val s)

/-- R221: the drive is scheduled at the staged instant; ignored on a line that is not INOUT. -/
def bellTest (l : Nat) (s : State) : State :=
  if bellInOut s l then
    setCap (fun c => { c with test := some (l, (rd s CAP_BELL_TSEC).toNat * 1000000000 + rdF s CAP_BELL_TNS 0 30) }) s
  else s

def execBellTest (who : Req) (line : Fin 2) (s : State) : Host.Outcome State Fault Refusal :=
  .next (serve (.bellTest who line) who CAP_BELL_TEST (bellTest line.val) s)

/-- R221 step 2: at the instant (its seconds in 32 bits) the line is driven low and the fall is stamped. -/
def bellTestDrive (s : State) : State :=
  match s.cap.test with
  | none => s
  | some (l, at0) =>
    if taiSec s % 2 ^ 32 * 1000000000 + taiNs s < at0 then s
    else bellStamp l (emit (.bell l true) (setCap (fun c => { c with
      test := none, drive := tset false c.drive l true, driveAt := tset 0 c.driveAt l s.ticks }) s))

def execBellTestDrive (s : State) : Host.Outcome State Fault Refusal := powered s (bellTestDrive s)

/-! Control. -/

def execCaptureArm (who : Req) (arm : Bool) (s : State) : Host.Outcome State Fault Refusal :=
  .next (serve (.captureArm who arm) who CAP_CTRL (captureArm arm) s)

/-- R205: the trigger time is the tick at which the write completed. -/
def execCaptureForce (who : Req) (s : State) : Host.Outcome State Fault Refusal :=
  .next (serve (.captureForce who) who CAP_CTRL (fun t => setCap (fun c => { c with force := some t.tai }) t) s)

def execCaptureReset (who : Req) (s : State) : Host.Outcome State Fault Refusal :=
  .next (serve (.captureReset who) who CAP_CTRL (setCap (fun c => { c with toS0 := true })) s)

/-- R202: the level holds from the next record sample. -/
def execThLvlWrite (who : Req) (th : Fin 32) (v : Word) (s : State) : Host.Outcome State Fault Refusal :=
  .next (serve (.thLvlWrite who th v) who (CAP_TH_LVL th.val) (wr (CAP_TH_LVL th.val) v) s)

/-! The records held (R222 to R225). -/

abbrev recOK : Nat := 0
abbrev recNOT_FOUND : Nat := 1
abbrev recBUSY : Nat := 2
abbrev recRELEASED : Nat := 3

/-- The record CAP_REC_IDX names. -/
def recIdx (s : State) : Nat := (rd s CAP_REC_IDX).toNat

def recOfNo (s : State) (no : Nat) : Option CapRec := s.cap.recs.find? (fun r => decide (r.no = no))

/-- A command's RESULT; it has ended, so BUSY is clear. -/
def recStat (result : Nat) (s : State) : State := wr CAP_REC_STAT (wordOf (2 * result)) s

/-- A command on the selected record: BUSY_REC while it runs, NOT_FOUND when it is absent. -/
def onRecord (f : CapRec → State → State) (s : State) : State :=
  if (s.cap.run.map CapRec.no) = some (recIdx s) then recStat recBUSY s
  else match recOfNo s (recIdx s) with
    | none => recStat recNOT_FOUND s
    | some r => f r s

/-- INFO: the header goes to CAP_REC_HDR. -/
def recInfo (s : State) : State :=
  onRecord (fun r t => recStat recOK (wrWords (CAP_REC_HDR 0) (headerWords r) t)) s

def execRecInfo (who : Req) (s : State) : Host.Outcome State Fault Refusal :=
  .next (serve (.recInfo who) who CAP_REC_CMD recInfo s)

/-- FORMAT 3 acts as 1. -/
def recFormat (f : Nat) : Nat := if f = 3 then 1 else f

/-- The blocks of an export that wait or are in the engine are dropped. -/
def dropExport (s : State) : State := setWork 1 [] (dropEngine 1 s)

/-- EXPORT: the capture window opens on the record (R223), packed through channel 1 unless the Packer is shed. What an
earlier export left to deliver is dropped. -/
def recExport (format : Nat) (pack : Bool) (s : State) : State :=
  onRecord (fun r t =>
    let t1 := if t.cap.exporting.isSome then dropExport t else t
    let u := recStat recOK (setCap (fun c => { c with exporting := some r.no }) t1)
    if pack && !u.pak.shed then
      let files := exportFiles (recFormat format) r
      let head := exportHeader (recFormat format) true false files
      feedWindow (winIdx .capture) head false
        (setWork 1 (work u 1 ++ exportBlocks 1 2 (winIdx .capture) files) (openMore .capture u))
    else
      let bytes := exportStream u (recFormat format) pack r
      openWindow .capture (packWords bytes.length bytes) (padOf bytes.length) u) s

def execRecExport (who : Req) (format : BitVec 2) (pack : Bool) (s : State) : Host.Outcome State Fault Refusal :=
  .next (serve (.recExport who format pack) who CAP_REC_CMD (recExport format.toNat pack) s)

/-- RELEASE: the record's space is free; an export or a transfer of it ends (R225, R304). -/
def recRelease (s : State) : State :=
  onRecord (fun r t =>
    let u := setCap (fun c => { c with recs := c.recs.filter (fun x => decide (x.no ≠ r.no)) }) t
    let v := match u.egr.xf with
      | some x => if x.typ = 2 ∧ x.record = r.no then xfEnd xfOVERRUN u else u
      | none => u
    if v.cap.exporting = some r.no then
      recStat recRELEASED (dropExport (endWindow .capture whyABORTED (setCap (fun c => { c with exporting := none }) v)))
    else recStat recOK v) s

def execRecRelease (who : Req) (s : State) : Host.Outcome State Fault Refusal :=
  .next (serve (.recRelease who) who CAP_REC_CMD recRelease s)

/-- ABORT: the export under way ends. -/
def recAbort (s : State) : State :=
  if s.cap.exporting.isSome then
    dropExport (endWindow .capture whyABORTED (setCap (fun c => { c with exporting := none }) s))
  else s

def execRecAbort (who : Req) (s : State) : Host.Outcome State Fault Refusal :=
  .next (serve (.recAbort who) who CAP_REC_CMD recAbort s)

/-- The window delivered its last word: the record has been exported (EXPORT_DONE). -/
def exportDone (s : State) : State :=
  match s.cap.exporting with
  | none => s
  | some no =>
    let f := fun (r : CapRec) => if r.no = no then { r with exported := true } else r
    raise CAP_INT 5 (setCap (fun c => { c with exporting := none, recs := c.recs.map f }) s)

/-- R91: CLR also restarts CAP_DEAD_MAX. -/
def captureSnapshot (clr : Bool) (s : State) : State :=
  let t := raise CAP_INT 6 (snapshot (CAP_CNT 0) 8 CAP_SNAP_SEQ clr s)
  if clr then wr CAP_DEAD_MAX 0#32 t else t

def execCaptureSnapshot (who : Req) (clr : Bool) (s : State) : Host.Outcome State Fault Refusal :=
  .next (serve (.captureSnapshot who clr) who CAP_SNAP (captureSnapshot clr) s)

end Sys2Proof.Machine
end

