-- ==== Sys2Proof/Machine/Transfer.lean ====
section
/-!
DEFINITION. Bulk transfers over the egress ports (R304): the job, its byte stream and its datagrams.
-/

namespace Sys2Proof.Machine

open Sys2Proof

/-- A ribbon job's blocks: first instant and the offset in the byte stream at which each ends. -/
def blockEnds : Nat → List RibBlock → List (Nat × Nat)
  | _, [] => []
  | a, b :: bs => (b.first, a + b.bytes.length) :: blockEnds (a + b.bytes.length) bs

/-- RATE_MBPS, 0 acting as 100. -/
def xfRate (s : State) : Nat := if rdF s EGR_XF_SRC 16 16 = 0 then 100 else rdF s EGR_XF_SRC 16 16

/-- The job the registers describe with its byte stream; none: what it names is not found. -/
def xfJob (s : State) : Option XfJob :=
  let w := rd s EGR_XF_SRC
  let job := (s.egr.xfCount + 1) % 2 ^ 16
  if !bitAt w 0 then
    let bs := ribFrom s (rd64 s EGR_XF_ARG_LO)
    if bs = [] then none
    else some { job := job, typ := 1, record := bs.headD { first := 0, last := 0, gap := 0, bytes := [] } |>.first,
                queue := field w 4 5, dest := field w 9 4, bytes := bs.flatMap RibBlock.bytes, ofs := (rd s EGR_XF_OFS).toNat,
                blocks := blockEnds 0 bs, rate := xfRate s, nextAt := s.ticks }
  else
    match recOfNo s (rd s EGR_XF_ARG_LO).toNat with
    | none => none
    | some r =>
      some { job := job, typ := 2, record := r.no, queue := field w 4 5, dest := field w 9 4,
             bytes := exportStream s (recFormat (field w 1 2)) (bitAt w 3) r, ofs := (rd s EGR_XF_OFS).toNat, blocks := [],
             rate := xfRate s, nextAt := s.ticks }

/-- A resumed ribbon job whose instant is older than the oldest block held has lost its block. -/
def xfLost (s : State) : Bool :=
  !rdB s EGR_XF_SRC 0 && decide (rd s EGR_XF_OFS ≠ 0#32) && (match s.mkt.blocks with
    | b :: _ => decide (rd64 s EGR_XF_ARG_LO < b.first)
    | [] => false)

/-- GO: ignored while a job runs; a job that is not found ends at once. -/
def xfGo (s : State) : State :=
  if s.egr.xf.isSome then s
  else
    let job := (s.egr.xfCount + 1) % 2 ^ 16
    let t := wr EGR_XF_STAT (wordOf (2 ^ 16 * job)) { s with egr := { s.egr with xfCount := job } }
    match xfJob s with
    | none => xfEnd (if xfLost s then xfOVERRUN else xfNOT_FOUND) t
    | some j =>
      if j.bytes.length ≤ j.ofs then xfEnd xfOK t
      else wrF EGR_XF_STAT 0 1 1 { t with egr := { t.egr with xf := some j } }

def execXfGo (who : Req) (s : State) : Host.Outcome State Fault Refusal :=
  .next (serve (.xfGo who) who EGR_XF_CMD xfGo s)

/-- ABORT: the job ends; the datagram in progress is whole. -/
def xfAbort (s : State) : State := if s.egr.xf.isSome then xfEnd xfABORTED s else s

def execXfAbort (who : Req) (s : State) : Host.Outcome State Fault Refusal :=
  .next (serve (.xfAbort who) who EGR_XF_CMD xfAbort s)

/-- An earlier datagram of a job waits for room: the composer waits (R311). -/
def xfWaiting (s : State) : Bool :=
  s.egr.waits.any (fun w => match w.2.body with
    | .datagram _ _ _ _ _ _ => true
    | _ => false)

/-- The next datagram, once the job's rate allows it: a 16-byte header and up to 1,408 bytes, in a frame that adds 46
bytes of Ethernet, IPv4 and UDP. -/
def xfDatagram (s : State) : State :=
  match s.egr.xf with
  | none => s
  | some j =>
    if xfWaiting s ∨ s.ticks < j.nextAt then s
    else
      let pay := (j.bytes.drop j.ofs).take 1408
      let last := decide (j.bytes.length ≤ j.ofs + pay.length)
      let t := compose j.queue 0 (62 + pay.length) false none (.datagram j.job j.typ j.dest last j.ofs pay) s
      if last then xfEnd xfOK t
      else { t with egr := { t.egr with xf := some { j with
          ofs := j.ofs + pay.length, nextAt := s.ticks + divUp (pay.length * 2000) j.rate } } }

def execXfDatagram (s : State) : Host.Outcome State Fault Refusal := inFull s (xfDatagram s)

end Sys2Proof.Machine
end

