-- ==== Sys2Proof/Machine/HostOps.lean ====
section
/-!
DEFINITION. The host interface's shared operations (R471 to R484): its reset, the delivery of a window's words, and what a write
of a register's bytes changes.
-/

namespace Sys2Proof.Machine

open Sys2Proof

def setHost (f : HostIf → HostIf) (s : State) : State := { s with host := f s.host }

/-! Windows (R481 to R484). -/

/-- The window is a core's sampling window. -/
def isSampling (w : Win) : Bool := decide (5 ≤ winIdx w ∧ winIdx w ≤ 8)

/-- The Ledger's read under way ends by ABORT; LDG_RD_STAT is idle. -/
def ledgerAbort (s : State) : State :=
  if !winBusy s .ledger then s
  else
    wr LDG_RD_STAT 0#32 (endWindow .ledger whyABORTED (setWork 2 [] (dropEngine 2
      (setLedger (fun l => { l with evRead := [], enRead := [] }) s))))

/-- WIN_CMD = ABORT: the block's own ABORT. A sampling window has none. -/
def winAbort (w : Win) (s : State) : State :=
  match w with
  | .capture => recAbort s
  | .ledger => ledgerAbort s
  | .deckSampling _ => s
  | _ => endWindow w whyABORTED s

def allWins : List Win :=
  [.tableau, .ribbon, .capture, .modeShape, .island, .deckSampling 0, .deckSampling 1, .deckSampling 2, .deckSampling 3,
   .mirror, .ledger, .attestation]

/-- A window's opening ends ABORTED by a reset; a sampling window that stays enabled opens again (Table 20.5). -/
def winReset (w : Win) (s : State) : State :=
  if isSampling w then
    let x := window s (winIdx w)
    if x.ended then s
    else setWindow (winIdx w) { words := [], openSeq := (x.openSeq + 1) % 2 ^ 16, ended := false } s
  else winAbort w s

/-- A read that finds no word: counted, but for one in the cycle of an ABORT (Table 20.6). -/
def winUnder (x : Window) (s : State) : State :=
  if x.cutAt = some s.ticks then s else raise HST_INT 2 (bumpSat HST_UNDER s)

/-- The next word leaves the window: its value, or 0 from a poisoned codeword. -/
def winPop (w : Win) (poison : Bool) (s : State) : BitVec 64 × State :=
  let x := window s (winIdx w)
  match x.words with
  | [] => (0#64, winUnder x s)
  | v :: r =>
    let last := decide (r = []) && !x.more && !isSampling w
    let t := setWindow (winIdx w)
      { x with words := r, count := x.count + 1#32, ended := x.ended || last, why := if last then whyCOMPLETE else x.why } s
    if poison then (0#64, raise HST_INT 3 (bumpSat HST_POISON t)) else (v, t)

/-- The words of the open read that have been delivered: the interval records among them are marked (R359). -/
def markDelivered (s : State) : State :=
  let x := window s (winIdx .ledger)
  let n := if x.ended ∧ x.why = whyCOMPLETE then s.ledger.enRead.length else readDone s s.ledger.enFrom 16
  let got := s.ledger.enRead.take n
  if got = [] then s
  else setEnergy (fun e => { e with records := e.records.map (fun r => (r.1, r.2 || decide (r.1 ∈ got))) }) s

/-- What the delivery of a window's last word, or of a record's, does: EXPORT_DONE of a capture export, and the delivery of
interval records. -/
def afterRead (w : Win) (busy : Bool) (s : State) : State :=
  let fin := busy && decide ((window s (winIdx w)).why = whyCOMPLETE)
  match w with
  | .capture => if fin then exportDone s else s
  | .ledger =>
    let t := markDelivered s
    if fin then setLedger (fun l => { l with evRead := [], enRead := [] }) t else t
  | _ => s

/-- `n` words in ascending order, each answered; `poison` marks those of poisoned codewords. -/
def readWords (w : Win) : Nat → List Bool → State → State
  | 0, _, s => s
  | n + 1, ps, s =>
    let r := winPop w (ps.headD false) s
    readWords w n ps.tail (answer .host r.1 r.2)

/-- A read request in the aperture (R483). -/
def windowRead (w : Win) (r : WinRead) (poison : List Bool) (s : State) : State :=
  let busy := winBusy s w
  match r with
  | .word => afterRead w busy (readWords w 1 poison s)
  | .burst n => afterRead w busy (readWords w (min n 64) poison s)
  | .low =>
    match (window s (winIdx w)).words with
    | [] => answer .host 0#64 (winUnder (window s (winIdx w)) s)
    | v :: _ => answer .host (if poison.headD false then 0#64 else v % 2 ^ 32) s
  | .high =>
    let p := winPop w (poison.headD false) s
    afterRead w busy (answer .host (p.1 / 2 ^ 32) p.2)

/-- The mirror window opens on the ENERGY content and the records present (R429). -/
def mirrorOpen (s : State) : State :=
  let ws := (match s.pair.mirrorEnergy with
    | some x => saveWords x
    | none => []) ++ s.pair.mirror.flatten
  if ws = [] then openEmpty .mirror whyNOT_FOUND s
  else openWindow .mirror (packPairs ws) (if ws.length % 2 = 1 then 4 else 0) s

/-! The resets of R471. -/

/-- The HST registers but the identity registers and HST_INT, the MSI-X table and PBA, and every opening. Accesses that the
interface held are lost. -/
def hostReset (s : State) : State :=
  let t := setHost (fun h => { h with d3hot := false, funcMask := false, pba := 0#32, shadow := none, held := [] }) s
  let u := allWins.foldl (fun v w => winReset w v)
    (wr HST_POISON 0#32 (wr HST_UNDER 0#32 (wr HST_ERR_OFS 0#32 (wr HST_INT_EN 0#32 t))))
  forUpTo 16 (fun v x => wr (MSIX_ADDR v) 0#32 (wr (MSIX_UADDR v) 0#32 (wr (MSIX_DATA v) 0#32 (wr (MSIX_CTRL v) 1#32 x)))) u

/-- KEY of the LINK_RESET record (Table 20.7). -/
def resetKey : LinkReset → Nat
  | .flr => 0
  | .hotReset => 1
  | .linkDown => 2
  | .d3Return => 3

/-- The link is back: HST_INT.LINK_RESET and the record. -/
def linkBack (kind : LinkReset) (s : State) : State :=
  logEvent srcHST 2 3 (wordOf (resetKey kind)) [] (raise HST_INT 4 s)

/-- The messages whose PBA bits were set in D3hot are sent on the return to D0, by the table as it stands. -/
def sendPending (s : State) : State :=
  let t := setHost (fun h => { h with d3hot := false, pba := 0#32 }) s
  forUpTo 16 (fun v u => if s.host.pba.toNat.testBit v then sendVector v u else u) t

/-- A reset of the host interface alone. -/
def hostLinkReset (kind : LinkReset) (s : State) : State :=
  linkBack kind (hostReset (if kind = .d3Return then sendPending s else s))

/-! A write of register bytes (R477). -/

/-- The bits of the bytes that four byte enables name. -/
def byteMask (be : Nat) : Word :=
  wordOf ((List.range 4).foldl (fun w k => w + (if be.testBit k then 255 * 2 ^ (8 * k) else 0)) 0)

/-- The user value registers of a channel (R168): the channel of one of them. -/
def userChan? (a : Nat) : Option Nat :=
  (List.range 24).find? (fun ch => decide (a = SCL_CH_UGAIN ch ∨ a = SCL_CH_UOFS ch ∨ a = SCL_CH_UDLY ch))

/-- A port's ring registers, which only the Deck writes (R81). -/
def ringReg (a : Nat) : Bool :=
  decide (0x10000 ≤ a ∧ a < 0x20000) && decide (a % 0x400 = 0x20 ∨ a % 0x400 = 0x24)

/-- The RW bits that a requester's write changes: the map's, but for the registers a rule closes (PRT_RX_BASE while EN
= 1 among them). -/
def writable (who : Req) (a : Nat) (r : RegRow) (s : State) : Word :=
  if decide (who = .host) && ringReg a then 0#32
  else if a = SCL_EN_SAVE ∧ isLaunch s = true then 0#32
  else if 0x10000 ≤ a ∧ a < 0x20000 ∧ a % 0x400 = 0x20 ∧ rdB s (a + 4) 0 = true then 0#32
  else if (a = CAL_STG_TIME ∨ a = CAL_STG_DATE) ∧ legacyOn s = false then 0#32
  else wordOf r.rw

/-- What follows a write of a register: HOLD_EXC of a new limit (R48), the staged user values (R168), LOST that goes
with FULL (R350), the bound of SHED_LIM_C (R469), and RIB_SHORT, which is set while its condition holds (R144). -/
def writeEffect (a : Nat) (s : State) : State :=
  if a = MST_HOLD then updateHoldExc s
  else if a = MKT_INT ∧ s.boot.dataPath then ribReport s
  else if a = PWR_CTRL then wr PWR_CTRL (wordOf (min (rdF s PWR_CTRL 0 8) (rdF s PWR_CFG 0 8))) s
  else match userChan? a with
    | some ch => setStat SCL_CAL_PEND ch true s
    | none =>
      match (List.range 4).find? (fun c => decide (a = CTL_PC_STAT c)) with
      | some c => if rdB s (CTL_PC_STAT c) 11 then s else wrF (CTL_PC_STAT c) 21 11 0 s
      | none => s

/-- The registers whose writes post to the Sentry domain (R24). -/
def postedReg (a : Nat) : Bool := decide (a = CAL_STATUS ∨ a = CAL_INT ∨ a = CAL_STG_TIME ∨ a = CAL_STG_DATE)

/-- A write of bits `rw` and a clear of bits `clr`, with the message of a vector that becomes true by it. -/
def writeBits (a : Nat) (rw clr v : Word) (s : State) : State :=
  vectorEdge (vectorOf a) s (wr a (((rd s a &&& ~~~rw) ||| (v &&& rw)) &&& ~~~clr) s)

/-- The enabled bits of a 32-bit register are written: RW bits take their value, W1C bits written 1 clear, and reserved and
read-only bits stay. A vector whose OR becomes true by it sends (R480). A write to the Sentry domain posts (R24). -/
def writeWord (who : Req) (a : Nat) (m v : Word) (s : State) : State :=
  match regRow? a with
  | none => s
  | some r =>
    if m = 0#32 then s
    else
      let rw := writable who a r s &&& m
      let clr := v &&& m &&& wordOf r.w1c
      if postedReg a then { s with sentry := { s.sentry with posted := s.sentry.posted ++ [(a, rw, clr, v)] } }
      else writeEffect a (writeBits a rw clr v s)

/-- A write to this register does not complete now: staging while a commit pends (R388), and a Till interface's arguments
and mailbox while it is BUSY (R402). -/
def writeHolds (a : Nat) (s : State) : Bool :=
  (decide (a = CAL_STG_TIME ∨ a = CAL_STG_DATE) && legacyOn s && s.sentry.commit)
    || ([0, 1].any (fun i => tillBusy s i && (decide (tillBase i + 4 ≤ a ∧ a < tillBase i + 0x14)
      || decide ((if i = 1 then 0x70900 else 0x70100) ≤ a ∧ a < (if i = 1 then 0x70A00 else 0x70200)))))

/-- A write of the bytes of a 64-bit word at `a`. -/
def writeBytes (c : Instr) (who : Req) (a be : Nat) (v : BitVec 64) (s : State) : State :=
  let lo := byteMask (be % 16)
  let hi := byteMask (be / 16)
  if (lo ≠ 0#32 ∧ writeHolds a s = true) ∨ (hi ≠ 0#32 ∧ writeHolds (a + 4) s = true) then holdWrite c who s
  else writeWord who (a + 4) hi (hiWord v.toNat) (writeWord who a lo (loWord v.toNat) s)

/-! Held accesses (R474). -/

/-- The BAR0 offset of a write that a block can hold. -/
def heldOfs : Instr → Option Nat
  | .qCommit _ q _ _ => some (EGR_Q_COMMIT q.val)
  | .hostPost _ | .hostCancel _ _ => some CTL_HPOST
  | .calCommit _ => some CAL_COMMIT
  | .registerWrite _ ofs _ _ => some (8 * ofs.toNat)
  | .derive _ | .generate _ _ | .unwrap _ _ | .wrap _ | .destroy _ | .encrypt _ _ | .decrypt _ _ _ | .hmac _ _ | .sign _
  | .verify _ _ | .ecdh _ | .hash _ _ | .random _ | .pubkey _ | .attest _ | .gkMap _ | .gkUnmap _ | .authReq _ | .auth _ _
  | .zeroize _ | .enrol _ _ _ | .calEnrol _ | .purge _ => some TIL_CMD
  | .calApply _ _ => some SCL_CAL_APPLY
  | _ => none

/-- R474: the oldest held write has waited for 10 ms. -/
def heldExpired (s : State) : Bool := decide (s.host.heldAt + 2500000 ≤ s.ticks)

/-- HELD_WRITE_DROP: the oldest held write, to offset `a`, is discarded after 10 ms; `r` stay. -/
def heldDiscard (a : Nat) (r : List Instr) (s : State) : State :=
  logEvent srcHST 1 4 (wordOf (a / 16)) [] (raise HST_INT 1 (wr HST_ERR_OFS (wordOf (a + 2 ^ 20))
    (setHost (fun h => { h with held := r, heldAt := s.ticks }) s)))

def heldDrop (s : State) : State :=
  match s.host.held with
  | [] => s
  | c :: r =>
    match heldOfs c with
    | none => s
    | some a => if heldExpired s then heldDiscard a r s else s

/-- The held accesses are offered again in their order; `run` is the command's effect. -/
def hostRetry (run : Instr → State → State) (s : State) : State :=
  let t := s.host.held.foldl (fun t c => run c t) (setHost (fun h => { h with held := [] }) s)
  if t.host.held.length = s.host.held.length then setHost (fun h => { h with heldAt := s.host.heldAt }) t else t

end Sys2Proof.Machine
end

