-- ==== Sys2Proof/Machine/Calendar.lean ====
section
/-!
DEFINITION. The calendar in the Sentry domain (15_ledger_calendar.md, R383 to R390).
-/

namespace Sys2Proof.Machine

open Sys2Proof

def setSentry (f : Sentry → Sentry) (s : State) : State := { s with sentry := f s.sentry }

/-! The legacy calendar (R389, R390). -/

/-- A field that carries at `last` and at `top` counts on: the next value and the carry. -/
def fieldNext (last top v : Nat) : Nat × Bool := if v = last ∨ v = top then (0, true) else (v + 1, false)

def leapYear (y : Nat) : Bool := decide (y % 4 = 0 ∧ y ≠ 100 ∧ y ≤ 199)

def monthLen (y m : Nat) : Nat :=
  if m = 4 ∨ m = 6 ∨ m = 9 ∨ m = 11 then 30 else if m = 2 then (if leapYear y then 29 else 28) else 31

/-- The next date in CAL_LEG_DATE's layout, and whether the calendar wrapped. -/
def dateNext (d : Word) : Word × Bool :=
  let day := field d 0 5
  let m := field d 8 4
  let y := field d 16 8
  if day < monthLen y m then (withField d 0 5 (day + 1), false)
  else if m < 12 then (withField (withField d 0 5 1) 8 4 (m + 1), false)
  else if y < 199 then (withField (withField (withField d 0 5 1) 8 4 1) 16 8 (y + 1), false)
  else (withBit (withField (withField (withField d 0 5 1) 8 4 1) 16 8 0) 31, true)

/-- The next time in CAL_LEG_TIME's layout, and whether midnight came. -/
def timeNext (t : Word) : Word × Bool :=
  let a := fieldNext 59 63 (field t 0 6)
  let t1 := withField t 0 6 a.1
  if !a.2 then (t1, false)
  else
    let b := fieldNext 59 63 (field t 8 6)
    let t2 := withField t1 8 6 b.1
    if !b.2 then (t2, false)
    else
      let c := fieldNext 23 31 (field t 16 5)
      (withField t2 16 5 c.1, c.2)

/-- The calendar advances by one second. -/
def secondNext (s : State) : State :=
  let a := timeNext s.sentry.legTime
  let t := setSentry (fun x => { x with legTime := a.1 }) s
  if !a.2 then t
  else
    let d := dateNext s.sentry.legDate
    let u := setSentry (fun x => { x with legDate := d.1 }) t
    if d.2 then raise CAL_INT 0 u else u

/-! The shadow and the posted writes (R24). -/

/-- The Sentry domain's registers as they stand, in the order of sentryAddrs. -/
def sentryWords (s : State) : List Word :=
  [calStatus s, rd s CAL_INT, loWord s.sentry.tick, s.sentry.legTime, s.sentry.legDate, wordOf (s.sentry.tick / 2 ^ 32 % 2 ^ 16)]
    ++ ((sentryAddrs.drop 6).take 13).map (rd s) ++ lwWords s

/-- A SENTRY tick refreshes the shadow with what the domain held before it, and takes the posted writes; what they
change is in the shadow from the next tick on. -/
def sentryPosts (s : State) : State :=
  s.sentry.posted.foldl (fun t w => if postedReg w.1 then writeBits w.1 w.2.1 w.2.2.1 w.2.2.2 t else t)
    (setSentry (fun x => { x with shadow := sentryWords s, posted := [] }) s)

/-! The tick (R383, R388). -/

/-- The latch takes the tick and the Mast's time at it. -/
def refTake (s : State) : State :=
  if !s.sentry.latchPend then s
  else
    let t := setSentry (fun x => { x with latchPend := false, refValid := true }) s
    raise CAL_INT 2 (wr64 CAL_REF_SEC_LO (taiSec s) (wr CAL_REF_NS (wordOf (taiNs s)) (wr64 CAL_REF_TICK_LO s.sentry.tick t)))

/-- The posted commit acts, and clears WRAP. -/
def commitTake (s : State) : State :=
  raise CAL_INT 1 (setSentry (fun x => { x with
    commit := false, legTime := rd s CAL_STG_TIME &&& 0x1F3F3F#32, legDate := rd s CAL_STG_DATE &&& 0xFF0F1F#32 }) s)

/-- One crystal tick: a commit tick holds the staged value, and another second boundary advances the calendar. -/
def sentryTick (s : State) : State :=
  let t := refTake (setSentry (fun x => { x with tick := (x.tick + 1) % 2 ^ 48 }) (sentryPosts s))
  if t.sentry.commit then commitTake t
  else if t.sentry.tick % 2 ^ 15 = 0 then secondNext t
  else t

/-- The ticks up to the next second boundary: what was posted acts at the first. -/
def calSecond (s : State) : State :=
  if s.sentry.dead then s
  else
    let t := sentryTick s
    let n := t.sentry.tick % 2 ^ 15
    if n = 0 then t else sentryTick (setSentry (fun x => { x with tick := x.tick + (2 ^ 15 - 1 - n) }) t)

def execCalSecond (s : State) : Host.Outcome State Fault Refusal := done (calSecond s)

/-! Commands. -/

def execRefLatch (who : Req) (s : State) : Host.Outcome State Fault Refusal :=
  done (serve (.refLatch who) who CAL_REF_CMD (setSentry (fun x => { x with latchPend := true })) s)

/-- A commit is posted; another one does not complete while it pends. With the legacy calendar disabled the register is
reserved (R387). -/
def calCommit (who : Req) (s : State) : State :=
  if !legacyOn s then s
  else if s.sentry.commit then holdWrite (.calCommit who) who s
  else setSentry (fun x => { x with commit := true }) s

def execCalCommit (who : Req) (s : State) : Host.Outcome State Fault Refusal :=
  done (serve (.calCommit who) who CAL_COMMIT (calCommit who) s)

/-- R386: a read of one of the first three words freezes the block. -/
def calReadFreeze (who : Req) (k : Nat) (s : State) : State :=
  let r := freezeRead (calWords s) s.ticks k (reqIdx who) s.sentry.freeze s.sentry.torn
  answer who (r.1.setWidth 64) (setSentry (fun x => { x with freeze := r.2 }) s)

def execCalReadFreeze (who : Req) (k : Fin 3) (s : State) : Host.Outcome State Fault Refusal :=
  done (serve (.calReadFreeze who k) who (CAL_TICK_LO + 4 * k.val) (calReadFreeze who k.val) s)

def calReadRelease (who : Req) (s : State) : State :=
  answer who ((releaseRead (calWords s) 3 (reqIdx who) s.sentry.freeze s.sentry.torn).setWidth 64)
    (setSentry (fun x => { x with
      freeze := tset none x.freeze (reqIdx who) none, torn := tset false x.torn (reqIdx who) false }) s)

def execCalReadRelease (who : Req) (s : State) : Host.Outcome State Fault Refusal :=
  done (serve (.calReadRelease who) who CAL_TICK_HI (calReadRelease who) s)

/-- R386: a freeze held for 1 ms is released, and the requester's sequence is torn. -/
def calFreezeTimeout (r : Nat) (s : State) : State :=
  if freezeOver s.sentry.freeze s.ticks 250000 r then
    setSentry (fun x => { x with freeze := tset none x.freeze r none, torn := tset false x.torn r true }) s
  else s

def execCalFreezeTimeout (who : Req) (s : State) : Host.Outcome State Fault Refusal :=
  done (calFreezeTimeout (reqIdx who) s)

/-! The supply (R384, R385). -/

/-- The domain switches to VBAT, its input gone (R462). The first switch since VBAT_SEEN was cleared is latched. -/
def vbatSwitch (s : State) : State :=
  if s.sentry.onVbat ∨ s.sentry.dead = true ∨ 10000 ≤ s.power.vin then s
  else
    let t := setSentry (fun x => { x with onVbat := true }) (bumpSat CAL_VBAT_CNT s)
    let u := if rdB s CAL_STATUS 4 then t
      else setStat CAL_STATUS 4 true (wr64 CAL_VBAT_TICK_LO s.sentry.tick (setSentry (fun x => { x with vbatNew := true }) t))
    raise CAL_INT 3 u

def execVbatSwitch (s : State) : Host.Outcome State Fault Refusal := done (vbatSwitch s)

/-- Main power and VBAT are both gone: what the domain holds is lost, but for the tamper registers, which only enrolment
clears (R411). -/
def sentryLoss (s : State) : State :=
  if s.power.st ≠ .furled ∨ s.sentry.onVbat = false ∨ s.sentry.dead = true then s
  else
    let z := ([CAL_INT, CAL_REF_TICK_LO, CAL_REF_TICK_HI, CAL_REF_NS, CAL_REF_SEC_LO, CAL_REF_SEC_HI, CAL_VBAT_TICK_LO,
      CAL_VBAT_TICK_HI, CAL_VBAT_CNT]).foldl (fun t a => wr a 0#32 t) (wr CAL_STATUS 4#32 s)
    { z with sentry := { dead := true, lostNew := true }, till := { z.till with cache := [] } }

def execSentryLoss (s : State) : Host.Outcome State Fault Refusal := done (sentryLoss s)

end Sys2Proof.Machine
end

