-- ==== Sys2Proof/Machine/Commit.lean ====
section
/-!
DEFINITION. The Mast's commits (R34 to R42, R121): the staged value, the guard, and what a forward step fires.
-/

namespace Sys2Proof.Machine

open Sys2Proof

/-- The staged value in units of 2^-28 ns (R34). DESIGN CHOICE (notes/assumptions/40.md): 10^9 ns or more carry into
the seconds. -/
def stagedTime (s : State) : Nat :=
  ((rd s MST_STG_SEC_LO).toNat + 2 ^ 32 * rdF s MST_STG_SEC_HI 0 16) * taiSecUnit
    + rdF s MST_STG_NS 0 30 * taiNsUnit + rdF s MST_STG_SUB 0 16 * 2 ^ 12

/-- MST_GUARD.THRESH_NS in counter units; below 100 acts as 100. -/
def guardUnits (s : State) : Nat := atLeast 100 (rdF s MST_GUARD 0 30) * taiNsUnit

/-- The change a commit would make, as a distance. -/
def stepSize (old new : Nat) : Nat := if old ≤ new then new - old else old - new

/-- A commit is refused (R39, Table 2.4): in HELD under FREE_RUN every one, elsewhere one above the threshold of the armed
guard that no GUARD_ACCEPT bypasses. -/
def commitRefused (s : State) (new : Nat) : Bool :=
  (decide (s.mast.st = .held) && freeRun s)
    || (!s.mast.accept && s.mast.guardArmed && decide (guardUnits s < stepSize s.tai new))

/-- R39: the counter is untouched, STEP_REFUSED and its record; under REFUSE_JUMP the Mast goes to HELD. DESIGN CHOICE
(notes/assumptions/40.md): a GUARD_ACCEPT not yet used stays. -/
def refuseCommit (s : State) : State :=
  let t := logEvent srcMST 1 5 0#32 [] (raise MST_INT 1 s)
  if !freeRun s && decide (s.mast.st = .locked ∨ s.mast.st = .holdover) then mastTo .held t else t

/-! What a forward step fires (R42). -/

/-- The armed TAI entry with the earliest instant at or before the counter. -/
def nextSkipped (s : State) : Option Nat :=
  ((s.mast.sched.filter (fun p => p.2.armed && !p.2.angleKind && decide (p.2.inst * taiNsUnit ≤ s.tai))).foldl
    (fun a p => match a with
      | none => some p
      | some b => if p.2.inst < b.2.inst then some p else a) none).map (fun p => p.1)

/-- The number of firings the skipped span can hold. -/
def skippedCount (s : State) : Nat :=
  (s.mast.sched.map (fun p => (s.tai / taiNsUnit - p.2.inst) / (atLeast 1 p.2.period * 1000) + 1)).sum

/-- The number of tableau instants the skipped span can hold. -/
def skippedOpens (s : State) : Nat :=
  if s.boot.dataPath ∧ 0 < s.cfg.tabRate then s.tai * s.cfg.tabRate / taiSecUnit + 1 - s.mkt.next else 0

/-- The next tableau's instant lies in the skipped span, before the value at which the counter landed. -/
def openLate (s : State) : Bool := decide (gridTime s.cfg.tabRate s.mkt.next < s.tai)

/-- The next of what a forward step passes, in time order: a tableau instant before or at an entry's instant opens,
else the entry fires; LATE unless its instant is the counter's new value itself. -/
def skipOne (s : State) : State :=
  match nextSkipped s with
  | some e =>
    let i := (schEntry s e).inst * taiNsUnit
    if openDue s ∧ gridTime s.cfg.tabRate s.mkt.next ≤ i then openTab (openLate s) s else schOccur e (decide (i < s.tai)) s
  | none => if openDue s then openTab (openLate s) s else s

/-- Every tableau instant and every TAI schedule entry whose instant the step passed, in time order. -/
def fireSkipped (s : State) : State := forUpTo (skippedOpens s + skippedCount s) (fun _ t => skipOne t) s

/-- MOD stays aligned over a change of a whole number of its periods, 1/20,480,000 s (R152). -/
def modKeeps (old new : Nat) : Bool := decide (stepSize old new * 20480000 % taiSecUnit = 0)

/-- The commit is applied (R35): STEP_DONE, from HELD to HOLDOVER, the skipped instants, and the
local estimates' mark (R178). -/
def applyCommit (new : Nat) (s : State) : State :=
  let t := capStep <| scalesStep s.tai (taiWrap new) { s with tai := taiWrap new, mast := { s.mast with accept := false } }
  let u := if modKeeps s.tai new then t else setStat SCL_STATUS 1 false t
  let v := raise MST_INT 0 u
  let w := if v.mast.st = .held then mastTo .holdover v else v
  if s.tai < new then fireSkipped w else w

/-- A Deck restart runs: no commit is taken (R18, Table 2.4). The start's own Deck start is no restart (R516). -/
def deckRestarting (s : State) : Bool := decide (s.deck.st = .restarting) && !s.deck.isStart

/-- GUARD_ACCEPT lets exactly the next commit bypass the guard (R39). DESIGN CHOICE (notes/assumptions/40.md): a
commit not taken during a Deck restart changes nothing and reports nothing. -/
def commit (new : Nat) (s : State) : State :=
  if deckRestarting s then s else if commitRefused s new then refuseCommit s else applyCommit new s

/-- The counter's value after a STEP. DESIGN CHOICE (notes/assumptions/40.md): a backward step larger than the counter
ends at 0. -/
def steppedTime (s : State) (backward : Bool) : Nat := if backward then s.tai - stagedTime s else s.tai + stagedTime s

def execCommitSet (who : Req) (s : State) : Host.Outcome State Fault Refusal :=
  .next (serve (.commitSet who) who MST_COMMIT (fun t => commit (stagedTime t) t) s)

def execCommitStep (who : Req) (backward : Bool) (s : State) : Host.Outcome State Fault Refusal :=
  .next (serve (.commitStep who backward) who MST_COMMIT (fun t => commit (steppedTime t backward) t) s)

end Sys2Proof.Machine
end

