-- ==== Sys2Proof/Machine/Deck.lean ====
section
/-!
DEFINITION. The Deck's commands (13_deck.md): posts, threads, the watchdog, restarts and the performance counters.
-/

namespace Sys2Proof.Machine

open Sys2Proof

/-! Posts (R333, R334, R337). -/

/-- R334: the scheduler applies the post at the front of its queue, then the held posts and the trigger FIFO offer
theirs, and dispatch follows (R335). POSTS counts applied posts. -/
def postApply (s : State) : State :=
  match s.deck.postq with
  | [] => dispatch (drainTrig 32 (retryHeld s))
  | t :: r =>
    dispatch (drainTrig 32 (retryHeld (applyPost t (count (CTL_SCH_CNT 0) 1
      { s with deck := { s.deck with postq := r } }))))

def execPostApply (s : State) : Host.Outcome State Fault Refusal := inFull s (postApply s)

/-- R333: the POST of the thread that runs on `core`; held, the instruction does not retire (Table 13.3). A customer
thread posts to customer threads (R330). -/
def postInstruction (c target : Nat) (s : State) : State :=
  match runningOn s c with
  | some t => if 64 ≤ t ∧ target < 64 then s else offerPost (.instr c) target s
  | none => s

def execPostInstruction (core : Fin 4) (target : Fin 256) (s : State) : Host.Outcome State Fault Refusal :=
  inFull s (postInstruction core.val target.val s)

/-- CTL_HPOST: a thread without HOST_POST refuses the write; while a host post is held, the write does not complete. -/
def hostPostWrite (c : Instr) (t : Nat) (f : State → State) (s : State) : State :=
  if !(thread s t).hostPost then { s with deck := { s.deck with hostRefused := true } }
  else if hostPosting s then holdWrite c .host s
  else f { s with deck := { s.deck with hostRefused := false } }

def execHostPost (t : Fin 256) (s : State) : Host.Outcome State Fault Refusal :=
  .next (hostServe (.hostPost t) CTL_HPOST (hostPostWrite (.hostPost t) t.val (offerPost .host t.val)) s)

/-- R337: the count becomes 0 and a READY thread becomes WAITING. -/
def cancelThread (t : Nat) (s : State) : State :=
  let x := thread s t
  let u := count (CTL_SCH_CNT 6) 1 s
  if x.st = .ready then
    setThread t { x with posts := 0, st := .waiting }
      { u with deck := { u.deck with ready := u.deck.ready.filter (fun k => decide (k ≠ t)) } }
  else setThread t { x with posts := 0 } u

/-- R337: a post that would make the thread READY in the cycle of the CANCEL is consumed by it. -/
def hostCancel (t : Nat) (withPost : Bool) (s : State) : State :=
  if withPost ∧ s.deck.postq.head? = some t ∧ (thread s t).st = .waiting then
    cancelThread t (count (CTL_SCH_CNT 8) 1 { s with deck := { s.deck with postq := s.deck.postq.tail } })
  else cancelThread t s

def execHostCancel (t : Fin 256) (withPost : Bool) (s : State) : Host.Outcome State Fault Refusal :=
  .next (hostServe (.hostCancel t withPost) CTL_HPOST
    (hostPostWrite (.hostCancel t withPost) t.val (hostCancel t.val withPost)) s)

/-- R339: the timeout of the thread's WAIT has run down, and the timer unit posts it. -/
def execTickTimeout (t : Fin 256) (s : State) : Host.Outcome State Fault Refusal :=
  inFull s (if (thread s t.val).timeout = some 0 then
      offerPost .tick t.val (setThread t.val { thread s t.val with timeout := none } s)
    else s)

/-- R332: WAIT consumes a post, or the thread becomes WAITING, with its timeout (R339), and the core is idle. -/
def threadWait (c timeout : Nat) (s : State) : State :=
  match runningOn s c with
  | none => s
  | some t =>
    let x := thread s t
    if 0 < x.posts then setThread t { x with posts := x.posts - 1 } s
    else dispatch (setRunning c none (setThread t
      { x with st := .waiting, timeout := if timeout = 0 then none else some timeout } s))

def execThreadWait (core : Fin 4) (timeout : BitVec 16) (s : State) : Host.Outcome State Fault Refusal :=
  inFull s (threadWait core.val timeout.toNat s)

/-- R331: a customer thread that faults is stopped FAULTED and recorded, and firmware restarts it from its entry point
with its posts cleared, but not after the third fault within 60 s (15,000,000,000 MAST ticks). -/
def threadFault (c : Nat) (s : State) : State :=
  match runningOn s c with
  | none => s
  | some t =>
    if t < 64 then s
    else
      let x := thread s t
      let recent := s.ticks :: x.faultTicks.filter (fun k => decide (s.ticks ≤ k + 15000000000))
      let y := { x with st := .faulted, posts := 0, timeout := none, faults := satAdd x.faults 1 255, faultTicks := recent }
      let u := logEvent srcCTL 3 4 (wordOf t) [] (setInt CTL_INT 5 (setThread t y (setRunning c none s)))
      if 3 ≤ recent.length then dispatch u else dispatch (makeReady false t u)

def execThreadFault (core : Fin 4) (s : State) : Host.Outcome State Fault Refusal := inFull s (threadFault core.val s)

/-! Watchdog, machine check and restart (R341 to R344). -/

/-- R341: a write of KICK by a Deck core restarts the period; a host write is ignored. -/
def wdogKick (who : Req) (s : State) : State :=
  match who with
  | .host => s
  | .deck _ => { s with deck := { s.deck with wdogAt := s.ticks } }

def execWdogKick (who : Req) (s : State) : Host.Outcome State Fault Refusal :=
  .next (serve (.wdogKick who) who CTL_WDOG (wdogKick who) s)

/-- R341: PERIOD_MS have passed since the last kick, or since thread 19 started. -/
def wdogDue (s : State) : Bool := s.deck.wdogOn && decide (s.deck.wdogAt + rdF s CTL_WDOG 0 10 * 250000 ≤ s.ticks)

/-- R341: while the watchdog runs, its expiry restarts the Deck with cause WDOG. -/
def execWdogExpiry (s : State) : Host.Outcome State Fault Refusal :=
  inFull s (if wdogDue s ∧ s.deck.st = .run then deckRestart causeWDOG (setInt CTL_INT 4 s) else s)

/-- R342: an error in a customer thread's pages is R331; anywhere else it restarts the Deck with cause MCHECK. -/
def machineCheck (core : Nat) (customer : Bool) (s : State) : State :=
  if s.deck.st = .run then
    if customer then threadFault core (setInt CTL_INT 3 s) else deckRestart causeMCHECK (setInt CTL_INT 3 s)
  else s

def execMachineCheck (core : Fin 4) (customer : Bool) (s : State) : Host.Outcome State Fault Refusal :=
  inFull s (machineCheck core.val customer s)

def execHostRestart (who : Req) (key : BitVec 16) (s : State) : Host.Outcome State Fault Refusal :=
  .next (serve (.hostRestart who key) who CTL_RESTART
    (fun t => if key = 0x5A3C#16 then deckRestart causeHOST t else t) s)

/-- R344: steps 3 to 5. A verification failure leaves DECK_STATE RESTARTING. -/
def execDeckRestartDone (verified : Bool) (version : Word) (s : State) : Host.Outcome State Fault Refusal :=
  inFull s (if s.deck.st = .restarting ∧ verified then bootDeckRun (deckRun version (bootLoadCode s)) else s)

/-- R19: DECK_STATE FAILED, the cores stopped, NODE_OK low, the record and DECK_FAIL; a trial reverts (R455). -/
def deckFail (s : State) : State :=
  let t := deckReset s
  logEvent srcCTL 2 7 0#32 [] (setInt CTL_INT 2 (updateNodeOk { t with deck := { t.deck with st := .failed } }))

/-- R19, R516: 1 s has passed since the restart or the start began, and the Deck has not reached RUN. -/
def deckLate (s : State) : Bool := decide (s.deck.st = .restarting) && decide (s.deck.beganAt + 250000000 ≤ s.ticks)

def execDeckFailed (s : State) : Host.Outcome State Fault Refusal :=
  inFull s (if deckLate s then bootDeckFailed (deckFail s) else s)

/-! Performance counters (R345 to R349). -/

def execPcEn (who : Req) (set : PcSet) (on : Bool) (s : State) : Host.Outcome State Fault Refusal :=
  .next (serve (.pcEn who set on) who (pcCtrl set) (setStat (pcCtrl set) 0 on) s)

def execPcFreeze (who : Req) (set : PcSet) (on : Bool) (s : State) : Host.Outcome State Fault Refusal :=
  .next (serve (.pcFreeze who set on) who (pcCtrl set) (setStat (pcCtrl set) 1 on) s)

def execPcClear (who : Req) (set : PcSet) (s : State) : Host.Outcome State Fault Refusal :=
  .next (serve (.pcClear who set) who (pcCtrl set) (fun t => (pcCounters set).foldl (fun u c => pcZero c u) t) s)

/-- R346: the SEL register; its reserved bits read 0. The counter keeps its count (R347). -/
def execPcSelWrite (who : Req) (sel : PcSel) (v : Word) (s : State) : Host.Outcome State Fault Refusal :=
  match sel with
  | .core c k => .next (serve (.pcSelWrite who sel v) who (CTL_PC_SEL c.val k.val)
      (wr (CTL_PC_SEL c.val k.val) (v &&& 0x01FF03FF#32)) s)
  | .dataPath k => .next (serve (.pcSelWrite who sel v) who (CTL_DP_SEL k.val) (wr (CTL_DP_SEL k.val) (v &&& 0x3FF#32)) s)

/-- The core events marked P in Table 13.8. -/
def preciseEvents : List Nat := [0x002, 0x010, 0x011, 0x012, 0x013, 0x014, 0x021, 0x030, 0x031, 0x032]

/-- R349: SMODE is written; PRECISE starts only if the counter SCTR names selects an event marked P, and sets SMODE_BAD
otherwise. The sampling window is open while SMODE is not 0 (Table 20.5). -/
def pcSmode (c mode : Nat) (s : State) : State :=
  let t := wrF (CTL_PC_CTRL c) 3 2 mode s
  let ev := rdF t (CTL_PC_SEL c (rdF t (CTL_PC_CTRL c) 5 3)) 0 10
  let bad := decide (mode = 1 ∧ ev ∉ preciseEvents)
  let on := decide (mode = 1 ∨ mode = 2) && !bad
  let x := window t (5 + c)
  let u := if mode = 1 ∨ mode = 2 then
      (if x.ended then setWindow (5 + c)
        { words := [], openSeq := (x.openSeq + 1) % 2 ^ 16, ended := false, why := 0 } t else t)
    else setWindow (5 + c) { x with ended := true, why := if x.ended then x.why else whyABORTED, words := [] } t
  setStat (CTL_PC_STAT c) 10 bad
    { u with deck := { u.deck with sampling := tset false u.deck.sampling c on, w2 := tset none u.deck.w2 c none, w2At := tset 0 u.deck.w2At c u.ticks } }

def execPcSmode (who : Req) (c : Fin 4) (mode : BitVec 2) (s : State) : Host.Outcome State Fault Refusal :=
  .next (serve (.pcSmode who c mode) who (CTL_PC_CTRL c.val) (pcSmode c.val mode.toNat) s)

/-- SMODE of core `c`, while its sampling has started. -/
def sampleMode (s : State) (c : Nat) : Nat :=
  if tget false s.deck.sampling c then rdF s (CTL_PC_CTRL c) 3 2 else 0

/-- R349, Table 13.10: a PRECISE record of the instruction that causes the event SCTR counts. -/
def preciseSample (c : Nat) (addr : BitVec 48) (latency : Nat) (s : State) : State :=
  let ev := rdF s (CTL_PC_SEL c (rdF s (CTL_PC_CTRL c) 5 3)) 0 10
  let t := (runningOn s c).getD 0
  pushSample c (wordOf addr.toNat) (wordOf (addr.toNat / 2 ^ 32 + 2 ^ 16 * ev))
    (wordOf (min latency 65535 + 2 ^ 16 * t + 2 ^ 24 * threadPrio s t))
    (wordOf (pcValue s (.core (Fin.ofNat 4 c) 8))) s

def execPreciseSample (c : Fin 4) (addr : BitVec 48) (latency : BitVec 16) (s : State) :
    Host.Outcome State Fault Refusal :=
  inFull s (if sampleMode s c.val = 1 then preciseSample c.val addr latency.toNat s else s)

/-- At least PERIOD / 2 DECK cycles, six a tick, since the last window closed or SMODE was written. -/
def w2winDue (s : State) (c : Nat) : Bool :=
  decide (atLeast 1024 (rd s (CTL_PC_PERIOD c)).toNat / 2 ≤ 6 * (s.ticks - tget 0 s.deck.w2At c))

/-- R349: a window opens on the thread the core runs, no sooner than the interval's least length; no window opens on
an idle core. -/
def execW2winOpen (c : Fin 4) (addr : BitVec 48) (s : State) : Host.Outcome State Fault Refusal :=
  inFull s (if sampleMode s c.val = 2 ∧ tget none s.deck.w2 c.val = none ∧ w2winDue s c.val then
      match runningOn s c.val with
      | some t => { s with deck := { s.deck with w2 := tset none s.deck.w2 c.val (some ⟨addr, t⟩) } }
      | none => s
    else s)

/-- R349, Table 13.10: the record of the window that closes after `cycles` cycles; the four slot counts sum to
4 × CYCLES, so SLOTS_BACK is what the others leave. -/
def w2winClose (c cycles retired wasted front mask : Nat) (w : W2Win) (s : State) : State :=
  let total := 4 * cycles
  let r := min retired total
  let wa := min wasted (total - r)
  let f := min front (total - r - wa)
  let b := total - r - wa - f
  pushSample c (wordOf w.addr.toNat)
    (wordOf (w.addr.toNat / 2 ^ 32 + 2 ^ 26 + 2 ^ 27 * b2n (decide (cycles < 32))))
    (wordOf (r + 2 ^ 8 * wa + 2 ^ 16 * f + 2 ^ 24 * b))
    (wordOf (mask + 2 ^ 16 * w.thread + 2 ^ 24 * cycles))
    { s with deck := { s.deck with w2 := tset none s.deck.w2 c none, w2At := tset 0 s.deck.w2At c s.ticks } }

/-- A window closes early only where its thread has left the core. -/
def w2winMay (s : State) (c cycles : Nat) (w : W2Win) : Bool := decide (cycles = 32) || decide (runningOn s c ≠ some w.thread)

def execW2winClose (c : Fin 4) (cycles : Fin 33) (retired wasted front : Nat) (mask : BitVec 7) (s : State) :
    Host.Outcome State Fault Refusal :=
  inFull s (match tget none s.deck.w2 c.val with
    | some w => if w2winMay s c.val cycles.val w then w2winClose c.val (atLeast 1 cycles.val) retired wasted front mask.toNat w s else s
    | none => s)

/-- R345: a counter that counts reaches 2^48 - 1: on the M16K it holds that value, on the M4K it wraps to 0; its flag
is set. -/
def execPcOvf (c : PcCounter) (s : State) : Host.Outcome State Fault Refusal :=
  inFull s (if !pcCounting s (pcSetOf c) then s else pcSetFlag c (wr64 (pcReg c) (if isM4k s then 0 else 2 ^ 48 - 1) s))

/-! Windows onto the scheduler (R332, R91). -/

/-- CTL_TH_W0 and W1 of thread `t`. -/
def thWords (s : State) (t : Nat) : List Word :=
  let x := thread s t
  [wordOf (threadCode x.st + 2 ^ 3 * x.prio + 2 ^ 8 * x.affinity.toNat + 2 ^ 12 * x.core + 2 ^ 14 * b2n x.hostPost
     + 2 ^ 15 * b2n (decide (t < 64)) + 2 ^ 16 * x.posts + 2 ^ 24 * x.faults), x.dispatches]

def execThLoad (who : Req) (t : Fin 256) (s : State) : Host.Outcome State Fault Refusal :=
  .next (serve (.thLoad who t) who CTL_TH_IDX
    (fun u => wrWords (CTL_TH_W 0) (thWords u t.val) (wr CTL_TH_IDX (wordOf t.val) u)) s)

def execSchedSnapshot (who : Req) (clr : Bool) (s : State) : Host.Outcome State Fault Refusal :=
  .next (serve (.schedSnapshot who clr) who CTL_SCH_SNAP
    (fun t => setInt CTL_INT 10 (snapshot (CTL_SCH_CNT 0) 9 CTL_SCH_SNAP_SEQ clr t)) s)

end Sys2Proof.Machine
end

