-- ==== Sys2Proof/Machine/Ingest.lean ====
section
/-!
DEFINITION. Ingest's commands (04_ingest.md): the parse of one frame by Table 4.4, source commands, and the statistics.
-/

namespace Sys2Proof.Machine

open Sys2Proof

/-! Outcomes (R103). -/

/-- Codes of Table 4.4. -/
abbrev codeACCEPTED : Nat := 0
abbrev codeMALFORMED : Nat := 1
abbrev codeCRC_ERR : Nat := 2
abbrev codeUNSUPPORTED : Nat := 3
abbrev codeAUTH_FAIL : Nat := 4
abbrev codeKEY_UNKNOWN : Nat := 5
abbrev codeREPLAY : Nat := 6
abbrev codeUNKNOWN_SOURCE : Nat := 7
abbrev codeLAYOUT : Nat := 8
abbrev codeOVER_LIMIT : Nat := 9
abbrev codeTIME_FUTURE : Nat := 10
abbrev codeOFF_GRID : Nat := 11
abbrev codeSTALE : Nat := 12
abbrev codeDUPLICATE : Nat := 13
abbrev codeNON_COINCIDENT : Nat := 14
abbrev codeSIMULATED : Nat := 15
abbrev codeFWD_RING : Nat := 16

/-- One count of a code, node-wide. -/
def countCode (code : Nat) (s : State) : State := count (ING_REJ (2 * code)) 1 s

/-- AUTH_FAIL of ING_INT is set on an AUTH_FAIL, KEY_UNKNOWN or REPLAY rejection. -/
def rejectFrame (code : Nat) (s : State) : State :=
  let t := countCode code s
  if code = codeAUTH_FAIL ∨ code = codeKEY_UNKNOWN ∨ code = codeREPLAY then raise ING_INT 4 t else t

/-- A rejection that an entry's counters show. -/
def rejectStream (n code : Nat) (i : IngItem) (k : Nat) (s : State) : State :=
  let x := streamSt s n
  rejectFrame code (setStream n { x with
    rejected := (x.rejected + 1) % 2 ^ 32, lastReason := code, lastPort := i.port, lastPipe := k } s)

/-- R104: the first unknown source after UNKNOWN_SRC was cleared is latched. -/
def unknownSource (i : IngItem) (id addr : Nat) (sv : Bool) (s : State) : State :=
  let t := countCode codeUNKNOWN_SOURCE s
  if rdB s ING_INT 0 then t
  else raise ING_INT 0 (wr (ING_UNK 1) (wordOf addr)
    (wr (ING_UNK 0) (wordOf (id % 2 ^ 16 + 2 ^ 16 * i.port + 2 ^ 22 * b2n sv)) t))

/-- A stream's state changes (R102). -/
def streamTo (n : Nat) (st : StreamState) (s : State) : State :=
  let x := streamSt s n
  if x.st = st then s else raise ING_INT 1 (setStream n { x with st := st } s)

/-- The frame goes to its port's ring as a CLASS 8 frame and counts as FWD_RING (R96). -/
def forwardRing (i : IngItem) (s : State) : State :=
  toRing i.port i.len 8 i.pcp i.tci none i.bytes (countCode codeFWD_RING s)

/-! C37.118 (R96, R101 to R112). -/

/-- The frame type and version of a SYNC word; bit 7 is part of the type, so that a SYNC that Table 4.1 does not list
is none of its types. -/
def syncType (f : C37Frame) : Nat := f.sync.toNat / 16 % 16
def syncVersion (f : C37Frame) : Nat := f.sync.toNat % 16

/-- NUM_PMU lies in 1 to 16 (R98). -/
def numPmuOk (f : C37Frame) : Bool := decide (1 ≤ f.numPmu ∧ f.numPmu ≤ 16)

/-- Table 4.1: the frame and version are listed, and a configuration frame's NUM_PMU is supported. -/
def c37Supported (f : C37Frame) : Bool :=
  let v := syncVersion f
  match syncType f with
  | 0 | 1 | 4 => decide (v = 1 ∨ v = 2)
  | 2 | 3 => decide (v = 1 ∨ v = 2) && numPmuOk f
  | 5 => decide (v = 2) && numPmuOk f
  | _ => false

/-- A block declares more than the limits (Table 4.3, OVER_LIMIT). -/
def overLimits (b : PmuCfg) : Bool := decide (64 < b.phasors ∨ 16 < b.analogs ∨ 16 < b.digitals)

/-- The fields that R101 compares are equal; PHUNIT and ANUNIT only for fixed-point blocks. -/
def cfgMatches (c : StreamCfg) (f : C37Frame) (b : PmuCfg) : Bool :=
  let l := c.layout
  decide (b.phFloat = l.phFloat ∧ b.polar = l.polar ∧ b.freqFloat = l.freqFloat ∧ b.anFloat = l.anFloat)
    && decide (b.phasors = l.phasors ∧ b.analogs = l.analogs ∧ b.digitals = l.digitals)
    && (l.phFloat || decide (b.phUnits = l.phUnits)) && (l.anFloat || decide (b.anUnits = l.anUnits))
    && decide (b.fnom60 = l.fnom60) && decide (f.dataRate = c.rate) && decide (f.timeBase.toNat = c.timeBase)

/-- The state a CFG frame sets for a block's stream (R101, Table 4.3). -/
def cfgState (g : GroupCfg) (f : C37Frame) (c : StreamCfg) : StreamState :=
  match f.cfg[c.block]? with
  | none => .layoutMismatch
  | some b =>
    if overLimits b then .overLimit
    else if decide (f.numPmu = g.blocks.length) && cfgMatches c f b then .active
    else .layoutMismatch

/-- The bytes gathered of a stream's configuration frame. -/
def setFrag (l : List (BitVec 8)) (n : Nat) (s : State) : State := setStream n { streamSt s n with frag := l } s

/-- The configuration of a whole frame, or of its last fragment, sets the states (R101). -/
def cfgCompare (g : GroupCfg) (f : C37Frame) (q : Nat × StreamCfg) (s : State) : State :=
  streamTo q.1 (cfgState g f q.2) (setFrag [] q.1 s)

/-- A CFG-2 or CFG-3 frame: compared with the entries of its blocks and forwarded. The fragments of a CFG-3 frame are
gathered per stream up to 64 KiB, each forwarded, and compared with the last one. DESIGN CHOICE
(notes/assumptions/43.md): a fragment beyond 64 KiB is UNSUPPORTED and ends the gathering. -/
def parseCfg (i : IngItem) (ip : Nat) (f : C37Frame) (s : State) : State :=
  match groupOf s ip f.idcode.toNat, groupStreams s ip f.idcode.toNat with
  | some g, p :: ps =>
    let held := (streamSt s p.1).frag ++ f.body
    if 65536 < held.length then (p :: ps).foldl (fun u q => setFrag [] q.1 u) (rejectFrame codeUNSUPPORTED s)
    else
      forwardRing i ((p :: ps).foldl (fun u q => if f.more then setFrag held q.1 u else cfgCompare g f q u) s)
  | _, _ => unknownSource i f.idcode.toNat ip false s

/-- An accepted value: its slot, the entry's counters, and the hand-over (R109, R112). -/
def acceptValue (n : Nat) (c : StreamCfg) (i : IngItem) (k pipe : Nat) (v : Slot) (s : State) : State :=
  let x := putSlot s c v (streamSt s n)
  let t := countCode codeACCEPTED (setStream n { x with
    framesOk := (x.framesOk + 1) % 2 ^ 32, lastTq := v.tq, lastPort := i.port, lastPipe := pipe,
    lastTick := some s.ticks } s)
  if c.filtered ∧ s.cfg.tabRate < c.rate then filtHand n c k i.stamp t
  else handOver n (tabInstant s c k) v t

/-- The stale test of R112: of a FILTERED stream every tableau the frame belongs to has closed. An instant before the
TAI epoch has no tableau. -/
def staleFor (s : State) (c : StreamCfg) (at0 : Int) : Bool :=
  let k := at0.toNat
  if at0 < 0 then true
  else if c.filtered ∧ s.cfg.tabRate < c.rate then
    (filtTabs (fastN s c) k).all (fun m => sectionClosed s c.cls m)
  else sectionClosed s c.cls (tabInstant s c k)

/-- The checks of Table 4.4 from LAYOUT on, for one block of a data frame. -/
def parseBlock (i : IngItem) (pipe : Nat) (g : GroupCfg) (f : C37Frame) (lenOk : Bool) (n : Nat) (c : StreamCfg)
    (s : State) : State :=
  let x := streamSt s n
  if !lenOk then
    rejectStream n codeLAYOUT i pipe
      (if x.st = .active ∨ x.st = .cfgPending then streamTo n .layoutMismatch s else s)
  else
    match x.st with
    | .layoutMismatch => rejectStream n codeLAYOUT i pipe s
    | .overLimit => rejectStream n codeOVER_LIMIT i pipe s
    | _ =>
      let v0 := withHints c (f.fracsec.toNat / 2 ^ 24 % 16) (decodeBlock c.layout (blockData g c.block f.body))
      let s1 := if v0.cfgChg then raise ING_INT 2 (if x.st = .active then streamTo n .cfgPending s else s) else s
      let tag := frameTag s f.soc.toNat (f.fracsec.toNat % 2 ^ 24) c.timeBase i.stamp
      if ((i.stamp + futureLimit s c : Nat) : Int) < tag then rejectStream n codeTIME_FUTURE i pipe s1
      else if !onGrid s c tag then rejectStream n codeOFF_GRID i pipe s1
      else
        let at0 := tagInstant c.rate tag
        let k := at0.toNat
        let fast := decide (s.cfg.tabRate < c.rate)
        let lat : Int := (i.stamp : Int) - tag
        let meas := fun (t : State) => if fast && c.filtered then t else measureStream n c lat t
        if fast && !c.filtered && decide (at0 % (fastN s c : Int) ≠ 0) then countCode codeNON_COINCIDENT (meas s1)
        else
          let kc := if fast && !c.filtered then k / fastN s c else k
          let v := { v0 with
            instant := kc, arrival := i.stamp,
            ofsNs := (tag - (gridTime c.rate k : Int)) / (taiNsUnit : Int),
            port := i.port, pipe := pipe }
          if staleFor s c at0 then rejectStream n codeSTALE i pipe (meas s1)
          else
            match stallSlot s c x kc with
            | some h =>
              if c.tier ∧ h.tierRev < v.tierRev then acceptValue n c i k pipe v (meas s1)
              else rejectStream n codeDUPLICATE i pipe s1
            | none => acceptValue n c i k pipe v (meas s1)

/-- A data frame (R98): the group's length, then each configured block. -/
def parseData (i : IngItem) (pipe ip : Nat) (f : C37Frame) (s : State) : State :=
  match groupOf s ip f.idcode.toNat, groupStreams s ip f.idcode.toNat with
  | some g, p :: ps =>
    let lenOk := decide (f.body.length = (g.blocks.map blockBytes).sum)
    (p :: ps).foldl (fun t q => parseBlock i pipe g f lenOk q.1 q.2 t) s
  | _, _ => unknownSource i f.idcode.toNat ip false s

/-- FRACSEC reaches TIME_BASE (MALFORMED): a configuration frame's own, else that of the source's entries, if it has any. -/
def fracBad (s : State) (ip : Nat) (f : C37Frame) : Bool :=
  if syncType f = 2 ∨ syncType f = 3 ∨ syncType f = 5 then decide (f.timeBase.toNat ≤ f.fracsec.toNat % 2 ^ 24)
  else (groupStreams s ip f.idcode.toNat).any (fun p => decide (p.2.timeBase ≤ f.fracsec.toNat % 2 ^ 24))

/-- A whole configuration frame declares more blocks than its payload holds (MALFORMED). -/
def cfgShort (f : C37Frame) : Bool :=
  decide (syncType f = 3 ∨ syncType f = 5) && !f.more && decide (f.cfg.length < f.numPmu ∧ f.numPmu ≤ 16)

/-- A C37.118 frame (R96, R103). -/
def parseC37 (i : IngItem) (pipe ip : Nat) (f : C37Frame) (s : State) : State :=
  if f.sync.toNat / 256 ≠ 0xAA ∨ f.sizeOk = false ∨ fracBad s ip f ∨ cfgShort f then rejectFrame codeMALFORMED s
  else if !f.crcOk then rejectFrame codeCRC_ERR s
  else if !c37Supported f then rejectFrame codeUNSUPPORTED s
  else match syncType f with
    | 0 => parseData i pipe ip f s
    | 3 | 5 => parseCfg i ip f s
    | _ => forwardRing i s

/-! Sampled values (R99, R100, R162). -/

/-- The subscription of a frame's destination MAC, APPID and svID. -/
def subOf (s : State) (f : SvFrame) : Option (Nat × SvSub) :=
  s.cfg.subs.find? (fun p => decide (p.2.dmac = f.dmac ∧ p.2.appid = f.appid ∧ p.2.svid = f.svid))

def svSt (s : State) (n : Nat) : SvSt := tget {} s.ing.subs n

def setSv (n : Nat) (x : SvSt) (s : State) : State := { s with ing := { s.ing with subs := tset {} s.ing.subs n x } }

/-- R162: the TAI tag of a sample: the second for which the tag lies in the 1 s before the arrival stamp. -/
def svTag (rate cnt arrival : Nat) : Nat :=
  let frac := cnt * taiSecUnit / atLeast 1 rate
  (arrival - frac) / taiSecUnit * taiSecUnit + frac

/-- The sample of one ASDU with the hints of Table 4.5. -/
def svSample (n : Nat) (c : SvSub) (arrival : Nat) (a : SvAsdu) : SvSample :=
  { sub := n, smpCnt := a.smpCnt, tag := svTag c.rate a.smpCnt arrival,
    suspect := decide (a.smpSynch = 0) || (decide (a.smpSynch = 1) && !c.localOk),
    channels := a.channels.map (fun p => (p.1, decide (p.2.toNat % 4 ≠ 0))) }

/-- The samples of capture's own subscriptions are kept for 1 s. -/
def svCapture (v : SvSample) (s : State) : State :=
  { s with cap := { s.cap with svIn := s.cap.svIn.filter (fun x => decide (v.tag ≤ x.tag + taiSecUnit)) ++ [v] } }

/-- The sample goes to the Scales or to capture. -/
def svDeliver (n : Nat) (c : SvSub) (i : IngItem) (a : SvAsdu) (s : State) : State :=
  let t := setSv n { svSt s n with lastCnt := some a.smpCnt } s
  let v := svSample n c i.stamp a
  if c.toScales then svArrive n { tag := v.tag, suspect := v.suspect, channels := v.channels } i.stamp t
  else svCapture v t

/-- A rejection that a subscription's entry shows. -/
def rejectSv (n code : Nat) (i : IngItem) (pipe : Nat) (s : State) : State :=
  let x := svSt s n
  rejectFrame code (setSv n { x with
    rejected := (x.rejected + 1) % 2 ^ 32, lastReason := code, lastPort := i.port, lastPipe := pipe } s)

/-- A subscription's state changes (R102). -/
def svTo (n : Nat) (st : StreamState) (s : State) : State :=
  let x := svSt s n
  if x.st = st then s else raise ING_INT 1 (setSv n { x with st := st } s)

/-- A dataset of more than 8 channels (Table 4.3). -/
def svOver (f : SvFrame) : Bool := f.asdus.any (fun a => decide (8 < a.channels.length))

/-- The checks of an SV frame from the lookup on (Table 4.4), decided against the state before the frame (R102);
`addr` is what ING_UNK1 latches, and `spdu` the session's number of an R-SV frame. DEDUCED (notes/assumptions/43.md):
no CFG frame of a subscription exists, so OVER_LIMIT stays until the next start. -/
def parseSub (i : IngItem) (pipe addr : Nat) (f : SvFrame) (spdu : Option Nat) (s0 : State) : State :=
  match subOf s0 f with
  | none => unknownSource i f.appid.toNat addr true s0
  | some (n, c) =>
    let x := svSt s0 n
    let s := if svOver f then svTo n .overLimit s0 else s0
    if f.confRev ≠ c.confRev ∨ f.asdus.any (fun a => decide (a.channels.length ≠ c.channels ∧ a.channels.length ≤ 8)) = true then
      rejectSv n codeLAYOUT i pipe s
    else if svOver f ∨ x.st = .overLimit then rejectSv n codeOVER_LIMIT i pipe s
    else if f.simulated ∧ ¬ c.simOk then rejectSv n codeSIMULATED i pipe s
    else
      let fresh := f.asdus.filter (fun a => decide (x.lastCnt ≠ some a.smpCnt))
      if fresh = [] then rejectSv n codeDUPLICATE i pipe s
      else
        let t := setSv n { x with
          framesOk := (x.framesOk + 1) % 2 ^ 32, lastPort := i.port, lastPipe := pipe, lastTick := some s.ticks,
          lastSpdu := match spdu with
            | some v => some v
            | none => x.lastSpdu } s
        countCode codeACCEPTED (fresh.foldl (fun u a => svDeliver n c i a u) t)

/-- The first checks of an SV APDU: ASN.1, smpCnt below the rate, 1 to 8 ASDUs. -/
def svMalformed (s : State) (f : SvFrame) : Bool :=
  !f.asn1Ok || (match subOf s f with
    | some (_, c) => f.asdus.any (fun a => decide (c.rate ≤ a.smpCnt))
    | none => false)

def svUnsupported (f : SvFrame) : Bool := decide (f.asdus.length = 0 ∨ 8 < f.asdus.length)

def parseSv (i : IngItem) (pipe : Nat) (f : SvFrame) (s : State) : State :=
  if svMalformed s f then rejectFrame codeMALFORMED s
  else if svUnsupported f then rejectFrame codeUNSUPPORTED s
  else parseSub i pipe (f.dmac.toNat % 2 ^ 32) f none s

/-- The SPDU number is after the last accepted one, modulo 2^32 within 2^31 (Table 4.4, REPLAY). -/
def spduFresh (s : State) (r : RsvSession) (f : SvFrame) : Bool :=
  match subOf s f with
  | none => true
  | some (n, _) =>
    match (svSt s n).lastSpdu with
    | none => true
    | some l => decide (r.spdu.toNat ≠ l) && atOrAfter32 r.spdu.toNat l

/-- The session's key ID is accepted for the group of the frame's subscription at its arrival (R407). -/
def rsvKeyOk (s : State) (i : IngItem) (r : RsvSession) (f : SvFrame) : Bool :=
  match subOf s f with
  | some (_, c) => gkAccepts s r.keyId.toNat c.group (i.stamp / taiSecUnit)
  | none => (gkMapped s).any (fun e => gkAccepts s r.keyId.toNat e.group (i.stamp / taiSecUnit))

/-- The octets of the tag of an algorithm of R100, and the code of its length in the group-key table (TIL_GK_W1). -/
def rsvTagLen (alg : Nat) : Nat := if alg = 1 then 10 else if alg = 2 then 16 else 32

/-- The tag is the HMAC-SHA256 of the covered octets under the mapped key, truncated (R100); DEDUCED
(notes/assumptions/43.md): a truncation other than the entry's tag length is a wrong tag. -/
def rsvTagOk (s : State) (r : RsvSession) : Bool :=
  match (gkMapped s).find? (fun e => decide (e.keyId = r.keyId.toNat)) with
  | none => false
  | some e => decide (e.tagLen + 1 = r.alg)
      && decide (r.tag.map BitVec.toNat =
        (cryptBytes 0x08 (slotOf s e.slot).key 32 (r.covered.map BitVec.toNat)).take (rsvTagLen r.alg))

def parseRsv (i : IngItem) (pipe ip : Nat) (r : RsvSession) (f : SvFrame) (s : State) : State :=
  if svMalformed s f then rejectFrame codeMALFORMED s
  else if r.ident ≠ 0xA1#8 ∨ r.alg = 0 ∨ 3 < r.alg ∨ r.encrypted ∨ svUnsupported f then rejectFrame codeUNSUPPORTED s
  else if !rsvKeyOk s i r f then rejectFrame codeKEY_UNKNOWN s
  else if !rsvTagOk s r then rejectFrame codeAUTH_FAIL s
  else if !spduFresh s r f then rejectFrame codeREPLAY s
  else parseSub i pipe (ip % 2 ^ 32) f (some r.spdu.toNat) s

/-! INGEST_PARSE. -/

/-- One frame through a pipeline. -/
def parseItem (pipe : Nat) (i : IngItem) (s : State) : State :=
  match i.body with
  | .c37 ip f => parseC37 i pipe ip f s
  | .sv f => parseSv i pipe f s
  | .rsv ip r f => parseRsv i pipe ip r f s

def ingestParse (k : Nat) (s : State) : State :=
  match fifo s k with
  | [] => s
  | i :: r => parseItem k i (count (ING_PIPE (2 * k)) 1 (refillFifo k (setFifo k r s)))

def execIngestParse (k : Fin 4) (s : State) : Host.Outcome State Fault Refusal :=
  inFull s (if s.boot.dataPath ∧ k.val < pipeCount s then ingestParse k.val s else s)

/-! SEND_SOURCE_COMMAND (R97). -/

/-- A configuration is asked for on the stream's first use after start and in a state that calls for it (Table 4.2). -/
def cfgCalled (x : StreamSt) : Bool := !x.asked || decide (x.st = .layoutMismatch ∨ x.st = .cfgPending)

/-- Table 4.2: when a command is sent. Turn-on at start for an entry with START_CMD, CFG-3 for entries configured for
it; turn-off and the header frame are management's requests. -/
def sourceCmdOk (c : StreamCfg) (x : StreamSt) (cmd : SourceCmd) : Bool :=
  match cmd with
  | .turnOn => c.startCmd && !x.turnedOn
  | .sendCfg2 => !c.cfg3 && cfgCalled x
  | .sendCfg3 => c.cfg3 && cfgCalled x
  | .turnOff | .sendHeader => true

/-- The entry after a command. -/
def sourceAsked (cmd : SourceCmd) (x : StreamSt) : StreamSt :=
  match cmd with
  | .turnOn => { x with turnedOn := true }
  | .sendCfg2 | .sendCfg3 => { x with asked := true }
  | .turnOff | .sendHeader => x

/-- The command's frame is a firmware item of a queue whose sink is a port: 18 bytes behind 46 of Ethernet, IPv4, UDP
and FCS (notes/assumptions/43.md). It is not committed while the queue has no room. -/
def sendSource (n : Nat) (cmd : SourceCmd) (q prio : Nat) (s : State) : State :=
  if !qUsed s q || qHost s q || qFull s q 64 then s
  else
    qLand q { ident := s.egr.nextId, prio := prio, len := 64, body := .command n cmd }
      (nextItem (setStream n (sourceAsked cmd (streamSt s n)) s))

def execSourceCommandSend (n : BitVec 14) (cmd : SourceCmd) (q : Fin 32) (prio : Fin 8) (s : State) :
    Host.Outcome State Fault Refusal :=
  inFull s (match streamCfg s n.toNat with
    | some c =>
      if !c.isLocal && sourceCmdOk c (streamSt s n.toNat) cmd && decide (s.deck.st = .run) then
        sendSource n.toNat cmd q.val prio.val s
      else s
    | none => s)

/-! Statistics (R114, R115). -/

/-- Every bin and LAT_COUNT of an entry halved. -/
def halve (h : NMap Nat) : NMap Nat := h.foldl (fun m p => tset 0 m p.1 (p.2 / 2)) []

def ageEntry (x : StreamSt) : StreamSt := { x with hist := halve x.hist, latCount := x.latCount / 2 }

/-- R114, R128: with AGE_S not 0 every entry and every class histogram is halved. -/
def latAged (s : State) : State :=
  raise ING_INT 6
    { s with ing := { s.ing with agedAt := s.ticks, streams := s.ing.streams.foldl (fun m p => tset {} m p.1 (ageEntry p.2)) [] },
             mkt := { s.mkt with hist := s.mkt.hist.foldl (fun m p =>
               tset {} m p.1 { bins := halve p.2.bins, count := p.2.count / 2 }) [] } }

/-- AGE_S seconds have passed since the last ageing or the start. -/
def agePassed (s : State) : Bool :=
  decide (rdF s ING_LAT_CTRL 0 16 ≠ 0 ∧ s.ing.agedAt + 250000000 * rdF s ING_LAT_CTRL 0 16 ≤ s.ticks)

def execLatAged (s : State) : Host.Outcome State Fault Refusal :=
  inFull s (if agePassed s then latAged s else s)

/-- The entry selected by ING_STREAM_IDX; on the M4K bits 13:12 are ignored. -/
def selStream (s : State) : Nat := rdF s ING_STREAM_IDX 0 (if isM4k s then 12 else 14)

def streamCode : StreamState → Nat
  | .active => 0
  | .cfgPending => 1
  | .layoutMismatch => 2
  | .overLimit => 3

/-- ING_STREAM_W0 to W7 of an entry. -/
def streamWords (s : State) (c : StreamCfg) (x : StreamSt) : List Word :=
  [wordOf (streamCode x.st + 2 ^ 2 * c.cls + 2 ^ 5 * b2n c.tier + 2 ^ 7 * c.rateCode + 2 ^ 11 * b2n c.filtered
     + 2 ^ 12 * b2n c.slowHeld + 2 ^ 13 * c.tqMax + 2 ^ 17 * c.unlockMax + 2 ^ 19 * b2n c.testOk
     + 2 ^ 20 * b2n c.startCmd + 2 ^ 21 * stallDepth s c),
   wordOf x.framesOk, wordOf x.rejected,
   wordOf (x.lastReason + 2 ^ 4 * x.lastTq + 2 ^ 8 * x.lastPort + 2 ^ 14 * x.lastPipe + 2 ^ 16 * x.early),
   wordOf (unsignedN x.latMin 32), wordOf (unsignedN x.latMax 32), wordOf (unsignedN x.latMean 32), wordOf x.latCount]

/-- The 48 bins of a histogram. -/
def histWords (h : NMap Nat) : List Word := (List.range 48).map (fun k => wordOf (tget 0 h k))

/-- The words of a subscription's entry: bit 6 SV, and the fields a subscription has. -/
def svEntryWords (x : SvSt) : List Word :=
  [wordOf (streamCode x.st + 2 ^ 6), wordOf x.framesOk, wordOf x.rejected,
   wordOf (x.lastReason + 2 ^ 8 * x.lastPort + 2 ^ 14 * x.lastPipe), 0#32, 0#32, 0#32, 0#32]

/-- R115: the selected entry and its histogram are copied; an unconfigured one reads as zeros with EMPTY set. -/
def streamLoad (s : State) : State :=
  match streamCfg s (selStream s) with
  | some c =>
    let x := streamSt s (selStream s)
    wrWords (ING_HIST 0) (histWords x.hist) (wrWords (ING_STREAM_W 0) (streamWords s c x) (setStat ING_STREAM_STAT 1 false s))
  | none =>
    let p := s.cfg.subs.find? (fun p => decide (p.2.entry = selStream s))
    wrWords (ING_HIST 0) (histWords []) (wrWords (ING_STREAM_W 0)
      (match p with
        | some q => svEntryWords (svSt s q.1)
        | none => List.replicate 8 0#32) (setStat ING_STREAM_STAT 1 p.isNone s))

def execStreamLoad (who : Req) (s : State) : Host.Outcome State Fault Refusal :=
  .next (serve (.streamLoad who) who ING_STREAM_CMD streamLoad s)

/-- The statistics of an entry zeroed. -/
def clearLat (x : StreamSt) : StreamSt :=
  { x with early := 0, measured := false, latMin := 0, latMax := 0, latMean := 0, latCount := 0, hist := [] }

def execLatClear (who : Req) (s : State) : Host.Outcome State Fault Refusal :=
  .next (serve (.latClear who) who ING_STREAM_CMD
    (fun t => setStream (selStream t) (clearLat (streamSt t (selStream t))) t) s)

def execClearAll (who : Req) (s : State) : Host.Outcome State Fault Refusal :=
  .next (serve (.clearAll who) who ING_LAT_CTRL
    (fun t => { t with ing := { t.ing with streams := t.ing.streams.foldl (fun m p => tset {} m p.1 (clearLat p.2)) [] } }) s)

/-- The snapshot copies the ING_REJ and ING_PIPE counters (R91). -/
def ingestSnapshot (clr : Bool) (s : State) : State :=
  raise ING_INT 5 (forUpTo 4 (fun k => snapOne clr (ING_PIPE (2 * k))) (snapshot (ING_REJ 0) 17 ING_SNAP_SEQ clr s))

def execIngestSnapshot (who : Req) (clr : Bool) (s : State) : Host.Outcome State Fault Refusal :=
  .next (serve (.ingestSnapshot who clr) who ING_SNAP (ingestSnapshot clr) s)

end Sys2Proof.Machine
end

