-- ==== Sys2Proof/Machine/Ports.lean ====
section
/-!
DEFINITION. The ports' commands (03_ports.md): reception and classification, flow control, energy-efficient Ethernet, the
rings, the time-stamp queues and the snapshots.
-/

namespace Sys2Proof.Machine

open Sys2Proof

/-! RX_FRAME (R67 to R75). -/

/-- The counter of a frame that R68 drops, the first that applies in its order; none: a good frame. -/
def badFrame (s : State) (p : Nat) (f : RxFrame) : Option Nat :=
  if f.codeErr then some cRX_CODE_ERR
  else if rdF s (PRT_CFG p) 24 8 * 64 < f.len then some cRX_OVERSIZE
  else if f.len < 64 then some cRX_RUNT
  else if !f.fcsOk then some cRX_FCS_ERR
  else none

/-- The priority of a frame (R72). -/
def framePrio (s : State) (p : Nat) (f : RxFrame) : Nat :=
  match f.tci with
  | some t => if t.toNat % 4096 = 0 then rdF s (PRT_CFG p) 16 3 else t.toNat / 2 ^ 13
  | none => rdF s (PRT_CFG p) 16 3

/-- The counters of a good frame: frames, octets, cast, priority and jumbo. -/
def countGood (p : Nat) (f : RxFrame) (s : State) : State :=
  let cast := match f.da with
    | .port | .otherUnicast => cRX_UNICAST
    | .multicast _ => cRX_MULTICAST
    | .broadcast => cRX_BROADCAST
  let t := portCount p (cRX_PRIO0 + framePrio s p f) 1 (portCount p cast 1
    (portCount p cRX_OCTETS_OK f.len (portCount p cRX_FRAMES_OK 1 s)))
  if 1522 < f.len then portCount p cRX_JUMBO 1 t else t

/-- The paused priorities become `m`: TX_PAUSED_US counts the time any was paused (R75). -/
def setPaused (p m : Nat) (s : State) : State :=
  let x := port s p
  if x.paused = 0 ∧ m ≠ 0 then setPort p { x with paused := m, pausedAt := s.ticks } s
  else if x.paused ≠ 0 ∧ m = 0 then
    portCount p cTX_PAUSED_US (usSince s x.pausedAt) (setPort p { x with paused := 0 } s)
  else setPort p { x with paused := m } s

/-- The quanta of a priority run from now (R75). -/
def pauseFor (p prio quanta : Nat) (s : State) : State :=
  let x := port s p
  setPort p { x with pauseEnd := tset 0 x.pauseEnd prio (s.ticks + quantaTicks s p quanta) } s

/-- Row 1 of Table 3.2: a PFC frame pauses the priorities it names, quanta 0 releasing them; a legacy PAUSE acts on all
priorities while PFC_EN is 0, and is only counted otherwise (R75). -/
def macFrame (p : Nat) (k : RxKind) (s : State) : State :=
  match k with
  | .pfc qs =>
    let t := qs.foldl (fun u q => pauseFor p q.1.val q.2.toNat u) (portCount p cRX_PFC_FRAMES 1 s)
    setPaused p (qs.foldl (fun m q => if q.2 = 0#16 then m - fieldN m q.1.val 1 * 2 ^ q.1.val else m ||| 2 ^ q.1.val)
      (port s p).paused) t
  | .pause q =>
    let t := portCount p cRX_PAUSE_LEGACY 1 s
    if pfcMask s p = 0 then
      setPaused p (if q = 0#16 then 0 else 0xFF) (forUpTo 8 (fun k u => pauseFor p k q.toNat u) t)
    else t
  | _ => s

/-- Row 2: the destination address is accepted. -/
def daAccepted (s : State) (f : RxFrame) : Bool :=
  match f.da with
  | .port | .broadcast => true
  | .multicast a => decide (a ∈ s.cfg.mcast)
  | .otherUnicast => false

/-- Row 3: the VID is accepted. -/
def vidAccepted (s : State) (p : Nat) (f : RxFrame) : Bool :=
  match f.tci with
  | none => true
  | some t => decide (t.toNat % 4096 = 0)
      || (List.range 8).any (fun k => rdB s (PRT_VID p k) 15 && decide (rdF s (PRT_VID p k) 0 12 = t.toNat % 4096))

/-- PTP event messages: Sync, Delay_Req, Pdelay_Req and Pdelay_Resp. -/
def ptpEvent (k : RxKind) : Option (Nat × Nat) :=
  match k with
  | .ptp m q => if m.toNat < 4 then some (m.toNat, q.toNat) else none
  | _ => none

def isPtp (k : RxKind) : Bool :=
  match k with
  | .ptp _ _ => true
  | _ => false

/-- Rows 4 to 6 send the frame to Ingest: SV, UDP to port 102, UDP to a stream port of the image. -/
def goesToIngest (s : State) (k : RxKind) : Bool :=
  match k with
  | .sv | .rsv => true
  | .udp q => decide (q = 102#16 ∨ q ∈ s.cfg.udpPorts)
  | _ => false

/-- What Ingest finds in a frame: its content, or with none a payload that fails the first check of its row's protocol. -/
def ingestBody (f : RxFrame) : IngestBody :=
  match f.body with
  | some b => b
  | none =>
    let sv : SvFrame := { asn1Ok := false, dmac := 0#48, appid := 0#16, svid := 0, confRev := 0, simulated := false, asdus := [] }
    match f.kind with
    | .sv => .sv sv
    | .udp q =>
      if q = 102#16 then .rsv 0 { ident := 0#8, alg := 0, encrypted := false, keyId := 0#32, spdu := 0#32, tag := [], covered := [] } sv
      else .c37 0 { sync := 0#16, sizeOk := false, crcOk := false, idcode := 0#16, soc := 0#32, fracsec := 0#32, body := [],
                    cfg := [], dataRate := 0, timeBase := 0#24, more := false, numPmu := 0 }
    | _ => .rsv 0 { ident := 0#8, alg := 0, encrypted := false, keyId := 0#32, spdu := 0#32, tag := [], covered := [] } sv

/-- A good frame is classified by the first matching row of Table 3.2 (R69). -/
def classify (p : Nat) (f : RxFrame) (s : State) : State :=
  match f.kind with
  | .pfc _ | .pause _ => macFrame p f.kind s
  | _ =>
    if !daAccepted s f then portCount p cRX_FILTERED_DA 1 s
    else if !vidAccepted s p f then portCount p cRX_VLAN_FILTERED 1 s
    else if goesToIngest s f.kind then
      toIngest ⟨p, s.tai, s.ing.order, f.len, framePrio s p f, f.tci, ingestBody f, f.bytes.map BitVec.toNat⟩
        (portCount p cRX_TO_INGEST 1 { s with ing := { s.ing with order := s.ing.order + 1 } })
    else if rdB s (PRT_CFG p) 3 && isPtp f.kind then
      toRing p f.len 7 (framePrio s p f) f.tci (ptpEvent f.kind) (f.bytes.map BitVec.toNat) s
    else toRing p f.len 8 (framePrio s p f) f.tci none (f.bytes.map BitVec.toNat) s

/-- R67 to R69, R73, R74: the frame passes through the receive buffer, is dropped whole or classified. -/
def rxFrame (p : Nat) (f : RxFrame) (s : State) : State :=
  let occ := bufBytes (port s p)
  let t := bufReach p (min 24576 (occ + f.len)) (if f.blockErrs = 0 then s else portCount p cPCS_BLOCK_ERR f.blockErrs s)
  match badFrame s p f with
  | some c => portCount p c 1 t
  | none =>
    if 24576 < occ + f.len then raise (PRT_INT p) 6 (portCount p cRX_BUF_DROP 1 t)
    else classify p f (countGood p f t)

def execRxFrame (p : Fin 64) (f : RxFrame) (s : State) : Host.Outcome State Fault Refusal :=
  inFull s (if portOn s p.val && s.boot.dataPath then rxFrame p.val f s else s)

/-! Flow control (R73, R75). -/

/-- R73: 32,768 bit times, 64 quanta, after the last PFC frame. -/
def execPfcRefresh (p : Fin 64) (s : State) : Host.Outcome State Fault Refusal :=
  inFull s (if (port s p.val).xoff ∧ xonAtBytes s p.val ≤ bufBytes (port s p.val)
      ∧ (port s p.val).pfcAt + quantaTicks s p.val 64 ≤ s.ticks then sendPfc p.val 0xFFFF s else s)

/-- R73: below XON one PFC frame with quanta 0; XOFF_US counts the time of the pause. -/
def pfcXon (p : Nat) (s : State) : State :=
  portCount p cXOFF_US (usSince s (port s p).xoffAt) (sendPfcWith (fun x => { x with xoff := false }) p 0 s)

def execPfcXon (p : Fin 64) (s : State) : Host.Outcome State Fault Refusal :=
  inFull s (if (port s p.val).xoff ∧ bufBytes (port s p.val) < xonAtBytes s p.val then pfcXon p.val s else s)

/-- R75: the quanta that the last PFC or PAUSE frame gave the priority have run out. -/
def execPauseExpiry (p : Fin 64) (prio : Fin 8) (s : State) : Host.Outcome State Fault Refusal :=
  inFull s (let m := (port s p.val).paused
    if m.testBit prio.val ∧ tget 0 (port s p.val).pauseEnd prio.val ≤ s.ticks then setPaused p.val (m - 2 ^ prio.val) s else s)

/-! Energy-efficient Ethernet (R77 to R79). -/

/-- R77: no frame has been pending for IDLE_US; 0 acts as 1. -/
def lpiDue (s : State) (p : Nat) : Bool :=
  let x := port s p
  rdB s (PRT_CFG p) 4 && x.tx.isNone && !x.txLpi && !framePending s p
    && decide (x.idleAt + 250 * atLeast 1 (rdF s (PRT_EEE p) 0 8) ≤ s.ticks)

/-- R77: the transmitter enters low-power idle on a port with EEE_EN. -/
def execLpiEntry (p : Fin 64) (s : State) : Host.Outcome State Fault Refusal :=
  inFull s (if portOn s p.val ∧ lpiDue s p.val then
      portCount p.val cTX_LPI_ENTRIES 1 (setPort p.val { port s p.val with txLpi := true, txLpiAt := s.ticks } s)
    else s)

/-- R79: the peer enters or leaves low-power idle. -/
def rxLpi (p : Nat) (enter : Bool) (s : State) : State :=
  let x := port s p
  if enter ∧ x.rxLpi = false then
    portCount p cRX_LPI_ENTRIES 1 (setPort p { x with rxLpi := true, rxLpiAt := s.ticks } s)
  else if ¬ enter ∧ x.rxLpi then
    portCount p cRX_LPI_US (usSince s x.rxLpiAt) (setPort p { x with rxLpi := false } s)
  else s

def execRxLpiEntry (p : Fin 64) (enter : Bool) (s : State) : Host.Outcome State Fault Refusal :=
  inFull s (if portOn s p.val then rxLpi p.val enter s else s)

/-- R78: IDLE_US and TW_TX_US are written, TW_TX_US above 100 µs setting 100 and TW_CLAMPED. -/
def eeeWrite (p : Nat) (v : Word) (s : State) : State :=
  let tw := field v 16 7
  let t := wr (PRT_EEE p) (wordOf (field v 0 8 + 2 ^ 16 * min tw 100)) s
  if 100 < tw then raise (PRT_INT p) 7 t else t

def execEeeWrite (who : Req) (p : Fin 64) (v : Word) (s : State) : Host.Outcome State Fault Refusal :=
  .next (serve (.eeeWrite who p v) who (PRT_EEE p.val) (eeeWrite p.val v) s)

/-! Rings (R81, R84): only the Deck writes their registers; host writes are ignored. -/

/-- An access of which a host's is ignored (R81). -/
def deckOnly (who : Req) (f : State → State) (s : State) : State :=
  match who with
  | .host => s
  | .deck _ => f s

def ringEnable (p : Nat) (s : State) : State :=
  if ringOn s p then s
  else wr (PRT_RX_TAIL p) 0#32 (wr (PRT_RX_HEAD p) 0#32 (setStat (PRT_RX_CTRL p) 0 true
    (setPort p { port s p with descs := [] } s)))

def execRingEnable (who : Req) (p : Fin 64) (s : State) : Host.Outcome State Fault Refusal :=
  .next (serve (.ringEnable who p) who (PRT_RX_CTRL p.val) (deckOnly who (ringEnable p.val)) s)

def execRingDisable (who : Req) (p : Fin 64) (s : State) : Host.Outcome State Fault Refusal :=
  .next (serve (.ringDisable who p) who (PRT_RX_CTRL p.val) (deckOnly who (setStat (PRT_RX_CTRL p.val) 0 false)) s)

/-- R81 step 2: the descriptors up to the new TAIL are offered, each with its buffer. -/
def rxTailWrite (p tail : Nat) (bufs : List Nat) (s : State) : State :=
  let old := ringTail s p
  wr (PRT_RX_TAIL p) (wordOf tail)
    (forUpTo ((tail + 512 - old) % 512) (fun i t => offerDesc p ((old + i) % 512) (bufs.getD i 0) t) s)

def execRxTail (who : Req) (p : Fin 64) (index : BitVec 9) (bufs : List (BitVec 27)) (s : State) :
    Host.Outcome State Fault Refusal :=
  .next (serve (.rxTail who p index bufs) who (PRT_RX_TAIL p.val)
    (deckOnly who (rxTailWrite p.val index.toNat (bufs.map BitVec.toNat))) s)

/-- R81: HOLD_US after the first descriptor returned. -/
def readyDue (s : State) (p : Nat) : Bool :=
  match (port s p).readyPend with
  | some t => decide (t + 250 * rdF s (PRT_RX_CTRL p) 8 8 ≤ s.ticks)
  | none => false

/-- R81: the coalescing time after returned descriptors ends. -/
def execRxReadyCoalesce (p : Fin 64) (s : State) : Host.Outcome State Fault Refusal :=
  inFull s (if readyDue s p.val then raise (PRT_INT p.val) 1 (setPort p.val { port s p.val with readyPend := none } s) else s)

/-! Transmission and the time-stamp queue (R85 to R88). -/

/-- R85, R515: the frame's last bit leaves: its counters, and the stamp, taken at its start, of a two-step PTP event
frame. -/
def txFrameEnd (p : Nat) (s : State) : State :=
  match (port s p).tx with
  | none => s
  | some f =>
    let t := emit (.frame p f) (setPort p { port s p with tx := none, idleAt := s.ticks } s)
    let u := portCount p (cTX_UNICAST + f.cast) 1 (portCount p cTX_OCTETS_OK f.len (portCount p cTX_FRAMES_OK 1 t))
    match f.ptpEvent with
    | some (tag, m) => (tsqPush p true m tag (port s p).txStamp (portCount p cTX_PTP_EVENT 1 u)).1
    | none => u

def execTxFrameEnd (p : Fin 64) (s : State) : Host.Outcome State Fault Refusal :=
  inFull s (if portOn s p.val then txFrameEnd p.val s else s)

/-- R88: the head entry is latched and its first half returned; an empty queue returns 0. -/
def tsqLatch (who : Req) (p : Nat) (s : State) : State :=
  match (port s p).tsq with
  | [] => answer who 0#64 (setPort p { port s p with latched := none } s)
  | e :: _ => answer who (tsqWords01 e) (setPort p { port s p with latched := some e } s)

def execTsqLatch (who : Req) (p : Fin 64) (s : State) : Host.Outcome State Fault Refusal :=
  .next (serve (.tsqLatch who p) who (PRT_TSQ_W p.val 0) (tsqLatch who p.val) s)

/-- R88: the rest of the latched entry is returned and the entry popped; with an empty queue 0 is returned and nothing
popped. -/
def tsqPop (who : Req) (p : Nat) (s : State) : State :=
  match (port s p).tsq with
  | [] => answer who 0#64 s
  | e :: r =>
    answer who (tsqWords23 ((port s p).latched.getD e)) (setPort p { port s p with tsq := r, latched := none } s)

def execTsqPop (who : Req) (p : Fin 64) (s : State) : Host.Outcome State Fault Refusal :=
  .next (serve (.tsqPop who p) who (PRT_TSQ_W p.val 2) (tsqPop who p.val) s)

/-! Snapshots (R90 to R92, R515). -/

/-- The whole µs so far of each period that runs are counted (R89, R91); the rest of a µs stays to come. -/
def settleUs (p : Nat) (s : State) : State :=
  let x := port s p
  let us := fun (on : Bool) (at0 : Nat) => if on then usSince s at0 else 0
  let a := us (decide (x.paused ≠ 0)) x.pausedAt
  let b := us x.txLpi x.txLpiAt
  let c := us x.rxLpi x.rxLpiAt
  let d := us x.xoff x.xoffAt
  portCount p cTX_PAUSED_US a (portCount p cTX_LPI_US b (portCount p cRX_LPI_US c (portCount p cXOFF_US d
    (setPort p { x with
      pausedAt := x.pausedAt + 250 * a, txLpiAt := x.txLpiAt + 250 * b, rxLpiAt := x.rxLpiAt + 250 * c,
      xoffAt := x.xoffAt + 250 * d } s))))

/-- The gauge RX_BUF_PEAK is shown in counter 44; a clearing snapshot restarts it from the occupancy (R515). -/
def snapPort (clr : Bool) (p : Nat) (s : State) : State :=
  let x := port s p
  let t := snapshot (PRT_STAT p 0) 48 (PRT_SNAP_SEQ p) clr (settleUs p s)
  let u := wr64 (PRT_STAT p (2 * cRX_BUF_PEAK)) x.peak t
  let v := wr (PRT_SNAP_SEC p) (loWord (taiSec s)) (wr (PRT_SNAP_NS p) (wordOf (taiNs s)) u)
  raise (PRT_INT p) 8 (if clr then setPort p { port v p with peak := bufBytes x } v else v)

def execPortSnapshot (who : Req) (p : Fin 64) (clr : Bool) (s : State) : Host.Outcome State Fault Refusal :=
  .next (serve (.portSnapshot who p clr) who (PRT_SNAP p.val) (snapPort clr p.val) s)

/-- The snapshot of this tick becomes a clearing one (R90): the live counters keep what came after it. -/
def clearPort (p : Nat) (s : State) : State :=
  let t := forUpTo 48 (fun k u =>
    let a := PRT_STAT p (2 * k)
    { u with live := tset 0 u.live a ((liveCnt u a + 2 ^ 64 - rd64 u a) % 2 ^ 64) }) s
  setPort p { port t p with peak := bufBytes (port t p) } t

/-- R90: all 64 ports. Several ALL writes in one MAST tick make one snapshot, clearing if one of them is. -/
def snapAllPorts (clr : Bool) (s : State) : State :=
  match s.mast.snapAll with
  | some (t, c) =>
    if t = s.ticks then
      if clr && !c then forUpTo 64 clearPort { s with mast := { s.mast with snapAll := some (t, true) } } else s
    else forUpTo 64 (snapPort clr) { s with mast := { s.mast with snapAll := some (s.ticks, clr) } }
  | none => forUpTo 64 (snapPort clr) { s with mast := { s.mast with snapAll := some (s.ticks, clr) } }

def execPortSnapshotAll (who : Req) (clr : Bool) (s : State) : Host.Outcome State Fault Refusal :=
  .next (serve (.portSnapshotAll who clr) who (PRT_SNAP 0) (snapAllPorts clr) s)

/-! LINK_CHANGE (R515). -/

def execLinkChange (p : Fin 64) (up anDone : Bool) (s : State) : Host.Outcome State Fault Refusal :=
  inFull s (if portsUp s && portOn s p.val then linkChange p.val up anDone s else s)

end Sys2Proof.Machine
end

