-- ==== Sys2Proof/Machine/Egress.lean ====
section
/-!
DEFINITION. Egress's commands but the bulk transfers (Machine/Transfer.lean): publications, output streams, rules and the 32
queues (11_alarms_egress.md).
-/

namespace Sys2Proof.Machine

open Sys2Proof

/-! Publications (R295). -/

/-- R295: once the interval has passed since the last transmission, the dataset goes out again with the next sqNum,
and the interval doubles up to T_MAX_MS. -/
def gooseRetransmit (p : Nat) (s : State) : State :=
  match pubCfg s p with
  | none => s
  | some c =>
    let x := pubSt s p
    if x.interval = 0 ∨ s.ticks < x.sentAt + 250000 * x.interval then s
    else pubTransmit p (setPub p { x with sqNum := (x.sqNum + 1) % 2 ^ 32, interval := min (2 * x.interval) c.tMax } s)

def execGooseRetransmit (p : Fin 32) (s : State) : Host.Outcome State Fault Refusal := inFull s (gooseRetransmit p.val s)

/-- EGR_PUB_W0 to W3 of a publication. -/
def pubWords (s : State) (p : Nat) : List Word :=
  match pubCfg s p with
  | none => List.replicate 4 0#32
  | some c =>
    let x := pubSt s p
    [wordOf (b2n c.rgoose + 2 * (c.k - 1) + 2 ^ 4 * b2n c.auth + 2 ^ 5 * b2n (!c.auth || x.keyOk) + 2 ^ 6 * c.queue
       + 2 ^ 16 * c.tMax),
     wordOf (c.appid + 2 ^ 16 * c.keyGroup), wordOf x.stNum, wordOf x.sqNum]

def execPubLoad (who : Req) (p : Fin 32) (s : State) : Host.Outcome State Fault Refusal :=
  .next (serve (.pubLoad who p) who EGR_PUB_IDX
    (fun t => wrWords (EGR_PUB_W 0) (pubWords t p.val) (wr EGR_PUB_IDX (wordOf p.val) t)) s)

/-! Output streams (R302). -/

/-- Turn a stream on or off. -/
def outSwitch (k : Nat) (on : Bool) (s : State) : State := setOut k { outSt s k with on := on } s

/-- The answer to a request (R298, R301, R302): the header's text carries W; the CFG-1 answer is the CFG-2 answer's
layout. -/
def osContent (s : State) (k : Nat) (c : OutCfg) (cmd : OsCmd) : OsContent :=
  match cmd with
  | .sendHeader => .header (asc "REV_WINDOW_MS=" ++ decText (rdF s MKT_CFG 8 11))
  | _ => .layout c (outIdcode s k c) ((if c.tier then [none] else []) ++ (if c.revMode = 0 then [] else [some (asc "TLB_REV")]))

/-- R302: firmware answers or obeys a command frame; it needs the Deck in RUN. -/
def osCommandFrame (id : Nat) (cmd : OsCmd) (ip udp : Nat) (s : State) : State :=
  match s.cfg.outs.find? (fun p => decide (outIdcode s p.1 p.2 = id)) with
  | none => s
  | some (k, c) =>
    if s.deck.st ≠ .run then s
    else match cmd with
      | .turnOn => outSwitch k true s
      | .turnOff => if c.alwaysOn then s else outSwitch k false s
      | .extended => s
      | _ => emit (.osAnswer k cmd ip udp (osContent s k c cmd)) s

def execOsCommandFrame (id : BitVec 16) (cmd : OsCmd) (ip : Nat) (udp : BitVec 16) (s : State) :
    Host.Outcome State Fault Refusal := inFull s (osCommandFrame id.toNat cmd ip udp.toNat s)

/-- The stream that EGR_OS_IDX selects. -/
def selOut (s : State) : Nat := rdF s EGR_OS_IDX 0 6

/-- EGR_OS_W0 to W3 of an output stream. -/
def outWords (s : State) (k : Nat) : List Word :=
  match outCfg s k with
  | none => List.replicate 4 0#32
  | some c =>
    let x := outSt s k
    [wordOf (outIdcode s k c + 2 ^ 16 * c.rateCode + 2 ^ 20 * b2n c.filtered + 2 ^ 21 * c.revMode + 2 ^ 23 * b2n c.tier
       + 2 ^ 24 * c.blocks.length + 2 ^ 29 * b2n x.on + 2 ^ 30 * b2n c.alwaysOn + 2 ^ 31 * b2n c.startOn),
     wordOf (c.queue + 2 ^ 16 * rdF s MKT_CFG 8 11), wordOf x.frames, wordOf x.dropped]

def execOsLoad (who : Req) (s : State) : Host.Outcome State Fault Refusal :=
  .next (serve (.osLoad who) who EGR_OS_CMD
    (fun t => wrWords (EGR_OS_W 0) (outWords t (selOut t)) (setStat EGR_OS_STAT 1 (outCfg t (selOut t)).isNone t)) s)

/-- EGR_OS_CMD ON and OFF act on every defined stream, ALWAYS_ON included. -/
def osSwitch (on : Bool) (s : State) : State :=
  if (outCfg s (selOut s)).isNone then setStat EGR_OS_STAT 1 true s
  else outSwitch (selOut s) on (setStat EGR_OS_STAT 1 false s)

def execOsOn (who : Req) (s : State) : Host.Outcome State Fault Refusal :=
  .next (serve (.osOn who) who EGR_OS_CMD (osSwitch true) s)

def execOsOff (who : Req) (s : State) : Host.Outcome State Fault Refusal :=
  .next (serve (.osOff who) who EGR_OS_CMD (osSwitch false) s)

/-! Rules (EGR_RULE_CMD). -/

def selRule (s : State) : Nat := rdF s EGR_RULE_IDX 0 12

/-- EGR_RULE_W0 to W7 of a rule. -/
def ruleWords (s : State) (r : Nat) : List Word :=
  match ruleCfg s r with
  | none => List.replicate 8 0#32
  | some c =>
    let x := ruleSt s r
    let th := ruleThr s r c
    [wordOf (c.kind + 2 ^ 4 * c.sev + 2 ^ 7 * b2n (ruleActive s r) + 2 ^ 8 * c.ann + 2 ^ 16 * c.pub
       + 2 ^ 21 * b2n c.pubEn + 2 ^ 22 * c.hq + 2 ^ 27 * b2n c.hqEn + 2 ^ 28 * b2n c.finalEn + 2 ^ 29 * c.invPolicy),
     wordOf (c.persistOn + 2 ^ 8 * c.persistOff + 2 ^ 16 * c.inputs.length + 2 ^ 20 * c.cls), th.1, th.2,
     loWord x.lastInst, hiWord x.lastInst, wordOf (x.lastKind + 2 ^ 3 * x.lastTag), wordOf x.messages]

def execRuleLoad (who : Req) (s : State) : Host.Outcome State Fault Refusal :=
  .next (serve (.ruleLoad who) who EGR_RULE_CMD
    (fun t => wrWords (EGR_RULE_W01 0) (ruleWords t (selRule t))
      (setStat EGR_RULE_STAT 1 (ruleCfg t (selRule t)).isNone t)) s)

/-- STORE: THRESH and HYST of a defined rule become W2 and W3, and a Ledger record is written. -/
def ruleStore (s : State) : State :=
  let r := selRule s
  if (ruleCfg s r).isNone then setStat EGR_RULE_STAT 1 true s
  else
    logEvent srcEGR 1 3 (wordOf r) []
      (setRule r { ruleSt s r with stored := some (rd s (EGR_RULE_W23 0), rd s (EGR_RULE_W23 1)) }
        (setStat EGR_RULE_STAT 1 false s))

def execRuleStore (who : Req) (s : State) : Host.Outcome State Fault Refusal :=
  .next (serve (.ruleStore who) who EGR_RULE_CMD ruleStore s)

/-! Staging and commits (R306). -/

/-- The staging buffer of a requester: 0 the host's, 1 the Deck's. -/
def stageOf : Req → Nat
  | .host => 0
  | .deck _ => 1

def staged (s : State) (q b : Nat) : List Word := tget [] (queue s q).staged b

def setStaged (q b : Nat) (ws : List Word) (s : State) : State :=
  setQueue q { queue s q with staged := tset [] (queue s q).staged b ws } s

/-- The staged words exceed MAXFRM bytes of the bound port. -/
def stagedOver (s : State) (q : Nat) (ws : List Word) : Bool :=
  !qHost s q && decide (rdF s (PRT_CFG (qPort s q)) 24 8 * 64 < 4 * ws.length)

/-- One more staged word; OVERSIZE is set when it makes the item too long. A Deck push behind a Deck commit that waits does
not complete. -/
def qPush (who : Req) (q : Nat) (v : Word) (s : State) : State :=
  if stageOf who = 1 ∧ (queue s q).waiting.isSome then s
  else
    let ws := staged s q (stageOf who) ++ [v]
    let t := setStaged q (stageOf who) ws s
    if stagedOver t q ws then setQueue q { queue t q with oversize := true } t else t

def execQPush (who : Req) (q : Fin 32) (v : Word) (s : State) : Host.Outcome State Fault Refusal :=
  .next (serve (.qPush who q v) who (EGR_Q_PUSH q.val) (qPush who q.val v) s)

/-- LEN is 0 or larger than the words staged times 4. -/
def badLen (ws : List Word) (len : Nat) : Bool := decide (len = 0 ∨ 4 * ws.length < len)

/-- The item is discarded at its commit. -/
def commitDiscards (s : State) (q : Nat) (ws : List Word) (len : Nat) : Bool :=
  stagedOver s q ws || badLen ws len || !qUsed s q

/-- A commit of buffer `b` completes: the item lands, or is discarded; OVERSIZE and BAD_LEN tell of this commit. -/
def commitNow (q b prio len : Nat) (s : State) : State :=
  let ws := staged s q b
  let t := setQueue q { queue s q with
    staged := tset [] (queue s q).staged b [], oversize := stagedOver s q ws, badLen := badLen ws len } s
  if commitDiscards s q ws len then t
  else qLand q { ident := t.egr.nextId, prio := prio, len := len, body := .words (ws.take (divUp len 4)) } (nextItem t)

/-- R306: a commit to a full queue does not complete; the host's is held, the Deck's waits in the queue. -/
def qCommit (c : Instr) (who : Req) (q prio len : Nat) (s : State) : State :=
  let b := stageOf who
  if b = 1 ∧ (queue s q).waiting.isSome then s
  else if !commitDiscards s q (staged s q b) len && qFull s q len then
    (if b = 1 then setQueue q { queue s q with waiting := some (prio, len) } s else holdWrite c who s)
  else commitNow q b prio len s

def execQCommit (who : Req) (q : Fin 32) (prio : Fin 8) (len : BitVec 14) (s : State) :
    Host.Outcome State Fault Refusal :=
  .next (serve (.qCommit who q prio len) who (EGR_Q_COMMIT q.val)
    (qCommit (.qCommit who q prio len) who q.val prio.val len.toNat) s)

/-- The oldest held host write is a commit to queue `q`. -/
def heldCommit (s : State) (q : Nat) : Option (Nat × Nat) :=
  match s.host.held with
  | .qCommit .host p prio len :: _ => if p.val = q then some (prio.val, len.toNat) else none
  | _ => none

/-- R306: the first cycle that starts not full completes a Deck commit that waits, else the host's. -/
def qCommitLand (q : Nat) (s : State) : State :=
  match (queue s q).waiting, heldCommit s q with
  | some (prio, len), _ =>
    if qFull s q len then s else commitNow q 1 prio len (setQueue q { queue s q with waiting := none } s)
  | none, some (prio, len) =>
    if qFull s q len then s
    else commitNow q 0 prio len { s with host := { s.host with held := s.host.held.tail, heldAt := s.ticks } }
  | none, none => s

def execQCommitLand (q : Fin 32) (s : State) : Host.Outcome State Fault Refusal := inFull s (qCommitLand q.val s)

def execQDiscard (who : Req) (q : Fin 32) (s : State) : Host.Outcome State Fault Refusal :=
  .next (serve (.qDiscard who q) who (EGR_Q_COMMIT q.val)
    (fun t => if stageOf who = 1 ∧ (queue t q.val).waiting.isSome then t else setStaged q.val (stageOf who) [] t) s)

/-! The read side (R307 to R310). -/

/-- The highest-priority item, FIFO within a priority. -/
def qFirst (items : List QItem) : Option QItem :=
  items.foldl (fun a i => match a with
    | none => some i
    | some b => if b.prio < i.prio then some i else a) none

/-- Remove an item. -/
def qRemove (q ident : Nat) (s : State) : State :=
  setQueue q { queue s q with items := (queue s q).items.filter (fun i => decide (i.ident ≠ ident)) } s

/-- Bytes as words, the last one padded with zeros. -/
def bytesWord (bs : List Nat) (k : Nat) : Word := wordOf (fromLe ((bs.drop (4 * k)).take 4))

/-- The header of a transfer datagram (R304). -/
def datagramHeader (job typ : Nat) (last : Bool) (ofs : Nat) (payload : List Nat) : List Nat :=
  leBytes 4 (job + 2 ^ 16 * typ + 2 ^ 24 * b2n last) ++ leBytes 4 ofs ++ leBytes 4 payload.length
    ++ wordBytes (crc32c payload)

/-- Word `k` of an item. -/
def itemWord (i : QItem) (k : Nat) : Word :=
  match i.body with
  | .words ws => ws.getD k 0#32
  | .alarm a => (alarmWords a).getD k 0#32
  | .c37 _ bs => bytesWord bs k
  | .datagram j t _ l o p => bytesWord (datagramHeader j t l o p ++ p) k
  | _ => Config.frameWord i.ident k

/-- The item the next word comes from, with the word's number. -/
def qReading (s : State) (q : Nat) : Option (QItem × Nat) :=
  match (queue s q).reading with
  | some (ident, k) => ((queue s q).items.find? (fun i => decide (i.ident = ident))).map (fun i => (i, k))
  | none => (qFirst (queue s q).items).map (fun i => (i, 0))

/-- The words of an item. -/
def itemWords (i : QItem) : Nat := atLeast 1 (divUp i.len 4)

/-- EGR_Q_POP of a word. -/
def popWord (i : QItem) (k : Nat) : BitVec 64 :=
  BitVec.ofNat 64 ((itemWord i k).toNat + (if k = 0 then 2 ^ 32 * (i.len % 2 ^ 14) else 0) + 2 ^ 48 * b2n (decide (k = 0))
    + 2 ^ 49 * b2n (decide (k + 1 = itemWords i)) + 2 ^ 50 * (i.prio % 8) + 2 ^ 63)

/-- R307, R309: the host's read of the next word; the LAST word pops its item. -/
def qPop (q : Nat) (s : State) : State :=
  if (queue s q).flushed then answer .host (BitVec.ofNat 64 (2 ^ 53)) (setQueue q { queue s q with flushed := false } s)
  else if !qHost s q then answer .host 0#64 s
  else match qReading s q with
    | none => answer .host 0#64 s
    | some (i, k) =>
      let t := if k + 1 = itemWords i then
          let u := qRemove q i.ident s
          setQueue q { queue u q with reading := none } u
        else setQueue q { queue s q with reading := some (i.ident, k + 1) } s
      answer .host (popWord i k) t

def execQPop (q : Fin 32) (s : State) : Host.Outcome State Fault Refusal :=
  .next (serve (.qPop q) .host (EGR_Q_POP q.val 0) (qPop q.val) s)

/-- R309: every item goes, one partly read included; staged words stay. -/
def qFlush (q : Nat) (s : State) : State :=
  setQueue q { queue s q with items := [], reading := none, flushed := true } s

def execQFlush (who : Req) (q : Fin 32) (s : State) : Host.Outcome State Fault Refusal :=
  .next (serve (.qFlush who q) who (EGR_Q_CTRL q.val) (qFlush q.val) s)

/-! TX_START (R72, R305, R307, R312). -/

/-- The queues of a port class that hold items. -/
def classQueues (s : State) (p c : Nat) : List Nat :=
  (List.range 32).filter (fun q => qUsed s q && !qHost s q && decide (qPort s q = p ∧ qClass s q = c)
    && decide ((queue s q).items ≠ []))

/-- A class is paused by the peer (R75). -/
def classPaused (s : State) (p c : Nat) : Bool := (port s p).paused.testBit c

/-- The class is the highest that may transmit: strict order, 7 first. -/
def classTurn (s : State) (p c : Nat) : Bool :=
  !classPaused s p c && decide (classQueues s p c ≠ [])
    && (List.range 8).all (fun d => decide (d ≤ c) || classPaused s p d || decide (classQueues s p d = []))

/-- Round robin: the next queue after the last served. -/
def nextQueue (qs : List Nat) (last : Nat) : Nat :=
  match qs.find? (fun q => decide (last < q)) with
  | some q => q
  | none => qs.headD 0

/-- The cast of a frame of bytes: its destination address' first bits. -/
def wordsCast (ws : List Word) : Nat :=
  if ws.getD 0 0#32 = 0xFFFFFFFF#32 ∧ field (ws.getD 1 0#32) 0 16 = 0xFFFF then 2 else b2n (bitAt (ws.getD 0 0#32) 0)

/-- A two-step PTP event message among staged bytes: EtherType 0x88F7, untagged or with one tag, an event message type, and
the two-step flag; its tag is its sequenceId (notes/assumptions/22.md). -/
def wordsPtp (ws : List Word) : Option (Nat × Nat) :=
  let bs := ws.flatMap wordBytes
  let b := fun k => bs.getD k 0
  let at0 := if b 12 = 0x81 ∧ b 13 = 0x00 then 16 else 12
  if b at0 = 0x88 ∧ b (at0 + 1) = 0xF7 ∧ b (at0 + 2) % 16 < 4 ∧ (b (at0 + 8)).testBit 1 then
    some (256 * b (at0 + 32) + b (at0 + 33), b (at0 + 2) % 16)
  else none

/-- One-step transmission (R85): a Sync or Pdelay_Resp without the two-step flag gets its correctionField, bytes 8 to
15 of the PTP header, as it leaves; the correction is a free value of the frame and its stamp
(notes/assumptions/22.md). -/
def oneStepWords (stamp : Nat) (ws : List Word) : List Word :=
  let bs := ws.flatMap wordBytes
  let b := fun k => bs.getD k 0
  let at0 := if b 12 = 0x81 ∧ b 13 = 0x00 then 16 else 12
  if b at0 = 0x88 ∧ b (at0 + 1) = 0xF7 ∧ (b (at0 + 2) % 16 = 0 ∨ b (at0 + 2) % 16 = 3) ∧ ¬ (b (at0 + 8)).testBit 1
      ∧ at0 + 18 ≤ bs.length then
    let out := bs.take (at0 + 10) ++ beBytes 8 (Config.oneStepCorrection bs stamp) ++ bs.drop (at0 + 18)
    (List.range ws.length).map (bytesWord out)
  else ws

/-- The frame of an item that starts now. -/
def itemFrame (s : State) (i : QItem) : TxFrame :=
  match i.body with
  | .words ws => { len := i.len, cast := wordsCast ws, ptpEvent := wordsPtp ws, body := .words (oneStepWords s.tai ws) }
  | .goose g => { len := i.len, cast := ((pubCfg s g.pub).map (fun c => c.cast)).getD 1, ptpEvent := none, body := i.body }
  | .c37 k _ => { len := i.len, cast := ((outCfg s k).map (fun c => c.cast)).getD 0, ptpEvent := none, body := i.body }
  | .datagram _ _ d _ _ _ => { len := i.len, cast := s.cfg.xfCast.getD d 0, ptpEvent := none, body := i.body }
  | _ => { len := i.len, cast := 0, ptpEvent := none, body := i.body }

/-- The item's publication must authenticate it and its key is not usable now (R296). -/
def keyFails (s : State) (i : QItem) : Bool :=
  match i.body with
  | .goose g =>
    match pubCfg s g.pub with
    | some c => c.auth && (gkSend? s c.keyGroup).isNone
    | none => false
  | _ => false

/-- The item leaves its queue: onto the wire with its stamp (R44), or discarded while the node is muted or its key is
not usable. -/
def sendItem (p : Nat) (i : QItem) (s : State) : State :=
  if isMuted s then egrCount cMUTED_ITEMS 1 s
  else if keyFails s i then raise EGR_INT 3 (egrCount cKEY_FAIL 1 s)
  else
    let t := leaveTxLpi p s
    setPort p { port t p with tx := some (itemFrame t i), txStamp := s.tai, wake := none } t

/-- The class of the port starts its next item; a transmitter that wakes holds it (R77). -/
def txStart (p c : Nat) (s : State) : State :=
  if portOn s p ∧ (port s p).linkUp ∧ (port s p).tx = none ∧ wakeDone s p ∧ classTurn s p c then
    let key := 8 * p + c
    let q := nextQueue (classQueues s p c) (tget 32 s.egr.rr key)
    match qFirst (queue s q).items with
    | some i =>
      let t := qRemove q i.ident s
      sendItem p i { t with egr := { t.egr with rr := tset 32 t.egr.rr key q } }
    | none => s
  else s

def execTxStart (p : Fin 64) (c : Fin 8) (s : State) : Host.Outcome State Fault Refusal :=
  inFull s (if s.boot.dataPath then txStart p.val c.val s else s)

/-! Composers (R311). -/

/-- A waiting item leaves the waiting list. -/
def unwait (i : QItem) (s : State) : State :=
  { s with egr := { s.egr with waits := s.egr.waits.filter (fun w => decide (w.2.ident ≠ i.ident)) } }

def execComposerEnqueue (s : State) : Host.Outcome State Fault Refusal :=
  inFull s (match waiterReady? s with
    | some (q, i) => qLand q i (unwait i s)
    | none => s)

/-- R311: the oldest output-stream item that has waited 1 cyc is abandoned and counted. -/
def osItemAbandon (s : State) : State :=
  match s.egr.waits.find? (fun w => w.2.stream.isSome && decide (250000000 ≤ (s.ticks - w.2.since) * nominalHz s)) with
  | some (_, i) =>
    let k := i.stream.getD 0
    let t := unwait i s
    raise EGR_INT 4 (egrCount cOS_DROPPED 1 (setOut k { outSt t k with dropped := ((outSt t k).dropped + 1) % 2 ^ 32 } t))
  | none => s

def execOsItemAbandon (s : State) : Host.Outcome State Fault Refusal := inFull s (osItemAbandon s)

def execEgressSnapshot (who : Req) (clr : Bool) (s : State) : Host.Outcome State Fault Refusal :=
  .next (serve (.egressSnapshot who clr) who EGR_SNAP
    (fun t => raise EGR_INT 8 (snapshot (EGR_CNT 0) 12 EGR_SNAP_SEQ clr t)) s)

end Sys2Proof.Machine
end

