-- ==== Sys2Proof/Machine/Nest.lean ====
section
/-!
DEFINITION. The Crow's Nest's commands (09_crowsnest_oscillation.md, 10_crowsnest_islands.md): baselines, and the slots,
signals, branches, buses and windows that software reads.
-/

namespace Sys2Proof.Machine

open Sys2Proof

/-! Baselines (R249). -/

/-- Every BASE_S seconds, when the conditions of R249 allow. -/
def basePeriodic (s : State) : State :=
  if s.nest.baseAt + basePeriod s * 250000000 ≤ s.ticks then baselineSave (setNest (fun n => { n with baseAt := s.ticks }) s)
  else s

def execBaselineSave (s : State) : Host.Outcome State Fault Refusal := inFull s (basePeriodic s)

/-- SAVE_NOW asks for a baseline at the next extraction; while the band is WARMING or SEEDED none is written (R249). -/
def saveNow (s : State) : State := if s.nest.emState = .run then setNest (fun n => { n with saveNow := true }) s else s

def execBaselineSaveNow (who : Req) (s : State) : Host.Outcome State Fault Refusal :=
  .next (serve (.baselineSaveNow who) who NST_BASE saveNow s)

/-! Mode slots and signals. -/

/-- The state after the last processed instant. -/
def oscLast (s : State) : OscSt := (s.nest.osc.getLast?.map OscInst.after).getD {}

def modeStateCode : ModeState → Nat
  | .free => 0
  | .candidate => 1
  | .tracked => 2
  | .fading => 3

/-- A slot as NST_MODE_IDX numbers them. -/
def modeAt (s : State) (k : Nat) : ModeSlot := modeSlot s.nest.emSlots (oscLast s).slots k

/-- Instants as seconds. -/
def instSeconds (s : State) (n : Nat) : Nat := n / atLeast 1 s.cfg.tabRate

/-- NST_MODE_W0 to W7. -/
def modeWords (s : State) (k : Nat) : List Word :=
  let x := modeAt s k
  let newest := (s.nest.osc.getLast?.map OscInst.inst).getD 0
  [wordOf (modeStateCode x.st + 4 * b2n (decide (32 ≤ k)) + 8 * b2n x.warming + 16 * b2n x.seeded + 32 * b2n x.forced
     + 64 * b2n x.suspect + 128 * b2n x.shed + 2 ^ 8 * x.conf + 2 ^ 16 * x.refSig),
   wordOf x.freq, x.zeta, x.amp, loWord x.inst, hiWord x.inst, wordOf x.tag,
   wordOf (if x.st = .tracked then instSeconds s (newest - x.since) else 0)]

/-- Slots 24 to 31 are reserved. -/
def modeReserved (k : Nat) : Bool := decide (24 ≤ k ∧ k < 32)

/-- NST_MODE_STAT.RESULT of a command on a slot. -/
def modeResult (s : State) (k : Nat) : Nat :=
  if modeReserved k then 2 else if (modeAt s k).st = .free then 1 else 0

def modeLoad (s : State) : State :=
  let k := rdF s NST_MODE_IDX 0 6
  wr NST_MODE_STAT (wordOf (2 * modeResult s k)) (wrWords (NST_MODE_W 0) (modeWords s k) s)

def execModeLoad (who : Req) (s : State) : Host.Outcome State Fault Refusal :=
  .next (serve (.modeLoad who) who NST_MODE_CMD modeLoad s)

/-- The two window words of a signal (R258). -/
def shapeWords (s : State) (x : ModeSlot) (sig : Nat) : List (BitVec 64) :=
  match x.shape.find? (fun r => decide (r.sig = sig)) with
  | some r => [BitVec.ofNat 64 (sig + 2 ^ 13 * b2n r.excluded), BitVec.ofNat 64 (r.mag.toNat + 2 ^ 32 * r.phase)]
  | none => [BitVec.ofNat 64 (sig + 2 ^ 13 * b2n (tget ({} : SigSt) (oscLast s).sigs sig).excluded), 0#64]

/-- The watched signals of a slot's band, ascending. -/
def bandSignals (s : State) (k : Nat) : List Nat :=
  (List.range s.cfg.nest.sigs.length).filter (fun i => match s.cfg.nest.sigs[i]? with
    | some c => if k < 32 then c.em else c.fast
    | none => false)

/-- R258: the mode-shape window opens on the slot; it delivers nothing of a FREE or reserved one. -/
def modeShape (s : State) : State :=
  let k := rdF s NST_MODE_IDX 0 6
  let t := wr NST_MODE_STAT (wordOf (2 * modeResult s k)) s
  if modeResult s k = 0 then openWindow .modeShape ((bandSignals s k).flatMap (shapeWords s (modeAt s k))) 0 t
  else openEmpty .modeShape whyNOT_FOUND t

def execModeShape (who : Req) (s : State) : Host.Outcome State Fault Refusal :=
  .next (serve (.modeShape who) who NST_MODE_CMD modeShape s)

def execModeAbort (who : Req) (s : State) : Host.Outcome State Fault Refusal :=
  .next (serve (.modeAbort who) who NST_MODE_CMD (endWindow .modeShape whyABORTED) s)

/-- NST_SIG_W0 to W3; zeros beyond the watch set. -/
def sigWords (s : State) (k : Nat) : List Word :=
  match s.cfg.nest.sigs[k]? with
  | none => [0#32, 0#32, 0#32, 0#32]
  | some c =>
    let x := tget ({} : SigSt) (oscLast s).sigs k
    [wordOf (c.kind + 8 * b2n c.em + 16 * b2n c.fast + 32 * b2n c.amp + 64 * b2n x.excluded
       + 128 * b2n (x.valid && ampOver c.emLim x.emAmp) + 256 * b2n (x.valid && ampOver c.fastLim x.fastAmp) + 2 ^ 9 * x.pct),
     x.emAmp, x.fastAmp, wordOf x.peakMhz]

def sigLoad (k : Nat) (s : State) : State := wrWords (NST_SIG_W 0) (sigWords s k) (wr NST_SIG_IDX (wordOf k) s)

def execSigLoad (who : Req) (sig : BitVec 13) (s : State) : Host.Outcome State Fault Refusal :=
  .next (serve (.sigLoad who sig) who NST_SIG_IDX (sigLoad sig.toNat) s)

def execOscSnapshot (who : Req) (clr : Bool) (s : State) : Host.Outcome State Fault Refusal :=
  .next (serve (.oscSnapshot who clr) who NST_OSC_SNAP
    (fun t => raise NST_OSC_INT 11 (snapshot (NST_OSC_CNT 0) 8 NST_OSC_SNAP_SEQ clr t)) s)

/-! Status points, branches and buses. -/

/-- INTER_MS has passed since the instant at which a point became intermediate. -/
def interOver (s : State) (x : PointSt) : Bool :=
  match x.inter with
  | some a => decide (tabTime s a + rdF s NST_ISL_SUSP 24 8 * 10000000 * taiNsUnit ≤ s.tai)
  | none => false

/-- R261: a DOUBLE point held intermediate for INTER_MS is UNKNOWN in the latest-status graph from now on; the tableau
path judges the same of each processed instant (`pointStep`). -/
def interTimeout (k : Nat) (s : State) : State :=
  match latestOf s k with
  | none => s
  | some p =>
    if (pointCfg s k).kind = 2 ∧ interOver s p.2 then
      setNest (fun n => { n with latest := tset none n.latest k (some (p.1, { p.2 with unknown := true })) }) s
    else s

def execStatusInterTimeout (k : BitVec 16) (s : State) : Host.Outcome State Fault Refusal := inFull s (interTimeout k.toNat s)

/-- NST_BR_ENDS and NST_BR_STAT; zeros beyond the topology. -/
def brWords (s : State) (k : Nat) : Word × Word :=
  match s.cfg.nest.branches[k]? with
  | none => (0#32, 0#32)
  | some b =>
    let pts := pointOf (topNow s).pts
    (wordOf (b.fromBus + 2 ^ 16 * b.toBus),
     wordOf (b2n (inService s pts b) + 2 * b2n (inService s (latestPt s) b) + 4 * b2n (statusLost pts b)
       + 8 * b2n (b.points.any (fun j => (pts j).known.isNone)) + 16 * b2n (decide (b.points = []))))

def brLoad (k : Nat) (s : State) : State :=
  let w := brWords s k
  wr NST_BR_STAT w.2 (wr NST_BR_ENDS w.1 (wr NST_BR_IDX (wordOf k) s))

def execBrLoad (who : Req) (k : BitVec 15) (s : State) : Host.Outcome State Fault Refusal :=
  .next (serve (.brLoad who k) who NST_BR_IDX (brLoad k.toNat) s)

/-- The slot that tracks a bus. -/
def slotOfBus (s : State) (bus : Nat) : Option Nat :=
  ((topNow s).slots.find? (fun p => decide (p.2.st ≠ .free ∧ bus ∈ p.2.buses))).map (fun p => p.1)

def measured (s : State) (bus : Nat) : Bool := s.cfg.nest.meas.any (fun p => decide (p.1 = bus))

/-- NST_BUS_STAT. -/
def busWord (s : State) (bus : Nat) : Word :=
  if s.cfg.nest.buses ≤ bus then 0#32
  else
    let t := topNow s
    let v := busAt (topBuses s) bus
    wordOf (compOf t.comp bus + 2 ^ 15 * b2n (measured s bus) + 2 ^ 16 * b2n v.valid + 2 ^ 17 * b2n v.dead
      + 2 ^ 18 * b2n (decide (compOf t.comp bus = t.mainComp)) + 2 ^ 19 * b2n (slotOfBus s bus).isSome
      + 2 ^ 20 * (slotOfBus s bus).getD 0)

def busLoad (k : Nat) (s : State) : State := wr NST_BUS_STAT (busWord s k) (wr NST_BUS_IDX (wordOf k) s)

def execBusLoad (who : Req) (k : BitVec 14) (s : State) : Host.Outcome State Fault Refusal :=
  .next (serve (.busLoad who k) who NST_BUS_IDX (busLoad k.toNat) s)

/-! Island slots. -/

def islCode : IslState → Nat
  | .free => 0
  | .pending => 1
  | .declared => 2
  | .suspected => 3
  | .ending => 4

def islSlot (s : State) (k : Nat) : IslSlot := tget {} (topNow s).slots k

/-- NST_ISL_W0 to W7. -/
def islWords (x : IslSlot) : List Word :=
  [wordOf (islCode x.st + 8 * b2n x.statusLost + 16 * b2n x.suspect + 32 * b2n x.reconnected + 64 * b2n x.dead
     + 2 ^ 8 * min 255 x.count + 2 ^ 16 * (x.buses.length % 2 ^ 15)),
   x.fCoi, f32Round x.df 1, wordOf (unsignedN (x.theta.getD 0) 32), f32OfRat (x.slip * 360) (2 ^ 32),
   loWord x.inst, hiWord x.inst, wordOf (x.tag + 2 ^ 4 * (x.measured % 2 ^ 15))]

/-- NST_ISL_STAT.FREE. -/
def islStat (s : State) (k : Nat) : State := wr NST_ISL_STAT (wordOf (2 * b2n (decide ((islSlot s k).st = .free)))) s

def islLoad (s : State) : State :=
  let k := rdF s NST_ISL_IDX 0 8
  wrWords (NST_ISL_W 0) (islWords (islSlot s k)) (islStat s k)

def execIslLoad (who : Req) (s : State) : Host.Outcome State Fault Refusal :=
  .next (serve (.islLoad who) who NST_ISL_CMD islLoad s)

/-- R281: one word for each bus of the slot, ascending. -/
def memberWord (s : State) (b : Nat) : BitVec 64 :=
  BitVec.ofNat 64 (b + 2 ^ 14 * b2n (measured s b) + 2 ^ 15 * b2n (busAt (topBuses s) b).valid)

def islMembers (s : State) : State :=
  let k := rdF s NST_ISL_IDX 0 8
  if (islSlot s k).st = .free then openEmpty .island whyNOT_FOUND (islStat s k)
  else openWindow .island ((sortNat (islSlot s k).buses).map (memberWord s)) 0 (islStat s k)

def execIslMembers (who : Req) (s : State) : Host.Outcome State Fault Refusal :=
  .next (serve (.islMembers who) who NST_ISL_CMD islMembers s)

def execIslAbort (who : Req) (s : State) : Host.Outcome State Fault Refusal :=
  .next (serve (.islAbort who) who NST_ISL_CMD (endWindow .island whyABORTED) s)

def execTopoSnapshot (who : Req) (clr : Bool) (s : State) : Host.Outcome State Fault Refusal :=
  .next (serve (.topoSnapshot who clr) who NST_TOP_SNAP
    (fun t => raise NST_TOP_INT 8 (snapshot (NST_TOP_CNT 0) 12 NST_TOP_SNAP_SEQ clr t)) s)

end Sys2Proof.Machine
end

