-- ==== Sys2Proof/Machine/Packer.lean ====
section
/-!
DEFINITION. The Packer's commands (12_packer.md).
-/

namespace Sys2Proof.Machine

open Sys2Proof

/-- The input that firmware or a thread has placed at PAK_J_SRC; the host has no data path into the region (R321). -/
def jobInput (who : Req) (input : List Byte) : List Nat :=
  match who with
  | .host => []
  | .deck _ => input.map (fun b => b.toNat)

def execJobPack (who : Req) (k : BitVec 16) (input : List Byte) (s : State) : Host.Outcome State Fault Refusal :=
  .next (serve (.jobPack who k input) who PAK_J_CMD (jobStart 0 k.toNat (jobInput who input)) s)

def execJobUnpack (who : Req) (k : BitVec 16) (input : List Byte) (s : State) : Host.Outcome State Fault Refusal :=
  .next (serve (.jobUnpack who k input) who PAK_J_CMD (jobStart 1 k.toNat (jobInput who input)) s)

def execJobRaw (who : Req) (k : BitVec 16) (input : List Byte) (s : State) : Host.Outcome State Fault Refusal :=
  .next (serve (.jobRaw who k input) who PAK_J_CMD (jobStart 2 k.toNat (jobInput who input)) s)

/-- R319: the channel-3 block in progress ends after the bytes consumed; with none consumed nothing is emitted, and a block
that ends there by its length keeps FLUSHED clear (Table 12.2). -/
def jobFlush (consumed : Nat) (s : State) : State :=
  match s.pak.engine with
  | some b =>
    if b.chan = 3 ∧ b.unpack = false ∧ 0 < consumed ∧ consumed < b.bytes.length then
      setPak (fun p => { p with engine := some { b with bytes := b.bytes.take consumed, flushed := true, last := false } }) s
    else s
  | none => s

def execJobFlush (who : Req) (consumed : Nat) (s : State) : Host.Outcome State Fault Refusal :=
  .next (serve (.jobFlush who consumed) who PAK_J_CMD (jobFlush consumed) s)

def execJobAbort (who : Req) (s : State) : Host.Outcome State Fault Refusal :=
  .next (serve (.jobAbort who) who PAK_J_CMD (jobFail pakABORTED) s)

/-- R320, R325: the idle engine takes a block; one taken while the Packer is shed is written raw. -/
def packerBlockStart (s : State) : State :=
  if s.pak.engine.isSome then s
  else match takeBlock s with
    | some (b, t) => setPak (fun p => { p with engine := some { b with shed := s.pak.shed } }) t
    | none => s

def execPackerBlockStart (s : State) : Host.Outcome State Fault Refusal := inFull s (packerBlockStart s)

def execPackerBlockDone (s : State) : Host.Outcome State Fault Refusal :=
  inFull s (match s.pak.engine with
    | some b => finishBlock b s
    | none => s)

/-- R91: the eight counters are copied. -/
def execPackerSnapshot (who : Req) (clr : Bool) (s : State) : Host.Outcome State Fault Refusal :=
  .next (serve (.packerSnapshot who clr) who PAK_SNAP
    (fun t => raise PAK_INT 3 (snapshot (PAK_CNT 0) 8 PAK_SNAP_SEQ clr t)) s)

end Sys2Proof.Machine
end

