-- ==== Sys2Proof/Machine/Mem.lean ====
section
/-!
DEFINITION. Memory integrity (14_memory_integrity.md): corrections, uncorrectable errors and their consequences, and the patrol
scrubber.
-/

namespace Sys2Proof.Machine

open Sys2Proof

def setMem (f : MemInt → MemInt) (s : State) : State := { s with mem := f s.mem }

/-- The codeword of a byte address, and the codewords of the protected DRAM: 14,336 MiB of data in units of 32 bytes
(R356). -/
def codeword (addr : Nat) : Nat := addr / 32
def codewords : Nat := 469762048

/-- The MiB of DRAM in which a region of Table 14.1 lies: the partition of Table 1.7 in its order
(notes/assumptions/18.md); regions 0 to 2 share the data-path allocation, and regions from 10 lie in no DRAM. -/
def regionSpan (region : Nat) : Nat × Nat :=
  [(0, 12288), (0, 12288), (0, 12288), (12288, 12800), (12800, 13568), (13568, 14080), (14080, 14208), (14208, 14272),
   (14272, 14304), (14304, 14336)].getD region (0, 0)

/-- A byte address may lie in a region. -/
def inRegion (region addr : Nat) : Bool :=
  decide (10 ≤ region ∨ ((regionSpan region).1 ≤ addr / 2 ^ 20 ∧ addr / 2 ^ 20 < (regionSpan region).2))

/-- The region of a codeword that the scrubber reads; `hint` tells the three of the data-path allocation apart. -/
def patrolRegion (hint addr : Nat) : Nat :=
  if hint < 3 ∧ inRegion hint addr then hint else ((List.range 10).find? (fun r => inRegion r addr)).getD 9

/-! Consequences (Table 14.1). -/

def slotInvalid (v : Slot) : Slot := { v with invalid := true }

/-- The value of an instant, when it is stream `n`'s, is INVALID. -/
def entryInvalid (n k : Nat) (e : Nat × Nat × Slot) : Nat × Nat × Slot :=
  if e.1 = n ∧ e.2.2.instant = k then (e.1, e.2.1, slotInvalid e.2.2) else e

/-- Region 0: the stalled value of a stream's instant places INVALID, also where it waits for its placement. -/
def stallError (n k : Nat) (s : State) : State :=
  let x := streamSt s n
  let inv := fun (o : Option Slot) => match o with
    | some v => if v.instant = k then some (slotInvalid v) else some v
    | none => none
  let t := setStream n { x with stall := x.stall.map (fun p => (p.1, inv p.2)) } s
  { t with
    ing := { t.ing with handoff := t.ing.handoff.map (entryInvalid n k) },
    mkt := { t.mkt with
      early := t.mkt.early.map (entryInvalid n k),
      tabs := t.mkt.tabs.map (fun b => { b with pend := b.pend.map (fun p => if p.1 = n then (p.1, inv p.2) else p) }) } }

/-- Region 2: the ribbon block is dropped, and a read or a transfer of it ends. -/
def ribbonError (i : Nat) (s : State) : State :=
  match s.mkt.blocks[i]? with
  | none => s
  | some b => ribReport (ribOverwrite b.first { s with mkt := { s.mkt with blocks := s.mkt.blocks.eraseIdx i } })

/-- Region 4: the damaged 32 bytes of a record. -/
def recordError (no ofs : Nat) (s : State) : State :=
  setCap (fun c => { c with
    recs := c.recs.map (fun r => if r.no = no then { r with damaged := r.damaged ++ [ofs / 32] } else r) }) s

/-- Region 5: an error in the pages of a customer thread is R331 on the core that runs it; anywhere else it restarts
the Deck. -/
def deckError (thread : Option Nat) (s : State) : State :=
  match thread with
  | none => machineCheck 0 false s
  | some t => match (List.range 4).find? (fun c => decide (runningOn s c = some t)) with
    | some c => machineCheck c true s
    | none => s

/-- Region 10: the oldest frame in the port's receive buffer is dropped whole. In region 6 firmware discards the frame. -/
def bufferError (region p : Nat) (s : State) : State :=
  if region = 10 then setPort p { port s p with buf := (port s p).buf.tail } s else s

/-- Region 7: an item that is no alarm is discarded; an alarm is recomposed as it was. -/
def itemError (q : Nat) (s : State) : State :=
  let plain := (queue s q).items.filter (fun i => match i.body with
    | .alarm _ => false
    | _ => true)
  match qFirst plain with
  | some i => qRemove q i.ident s
  | none => s

/-- Region 8: the stream's entry is rebuilt with its statistics zeroed. -/
def streamError (n : Nat) (s : State) : State :=
  let x := streamSt s n
  setStream n { stall := x.stall, handed := x.handed, st := x.st } s

/-- Region 9: a reload that fails drops NODE_OK and is recorded. -/
def configLostNow (s : State) : State :=
  updateNodeOk (logEvent srcMEM 3 7 0#32 [] { s with boot := { s.boot with configLost := true } })

/-- Region 14: a time-stamp queue entry is lost as if refused. -/
def stampError (p i : Nat) (s : State) : State :=
  let x := port s p
  match x.tsq[i]? with
  | none => s
  | some e => tsqRefuse p e.egress e.tag (setPort p { x with tsq := x.tsq.eraseIdx i } s)

/-- Region 14: the oldest precise-sampling record of a core is discarded and counted in LOST. -/
def sampleError (c : Nat) (s : State) : State :=
  let x := window s (5 + c)
  if x.words = [] then s
  else
    wrF (CTL_PC_STAT c) 21 11 (satAdd (rdF s (CTL_PC_STAT c) 21 11) 1 2047) (setWindow (5 + c) { x with words := x.words.drop 2 } s)

/-- Region 13: an error in a stored record, whose CRC then fails (R376). -/
def logError (seq : Nat) (s : State) : State :=
  setLedger (fun l => { l with log := l.log.map (fun r => if r.seq = seq then { r with bad := true } else r) }) s

def trackError (k : Nat) (older : Bool) (s : State) : State :=
  setLedger (fun l => if l.copyTurn = older then { l with badB := k :: l.badB } else { l with badA := k :: l.badA }) s

def intervalError (i : Nat) (s : State) : State :=
  setEnergy (fun e => { e with
    records := e.records.mapIdx (fun k r => if k = i then (damaged i r.1.dropLast, r.2) else r) }) s

def baselineError (older : Bool) (s : State) : State :=
  let n := s.nest.baselines.length
  setNest (fun x => { x with
    baselines := x.baselines.mapIdx (fun k b =>
      if k + 1 + b2n older = n then { b with crc := baselineCrc b ^^^ (Config.ueDamage k 0 ||| 1#32) } else b) }) s

def controlError (i : Nat) (s : State) : State :=
  setLedger (fun l => { l with control := l.control.mapIdx (fun k r => if k = i then { r with bad := true } else r) }) s

/-- The regions in which a consumer meets the poison. -/
def targetRegions : UeTarget → List Nat
  | .none => List.range 15
  | .stall _ _ => [0]
  | .tableau _ => [1]
  | .ribbonBlock _ => [2]
  | .emBand | .fastBand | .topology => [3, 11]
  | .record _ _ => [4]
  | .deckCustomer _ => [5]
  | .deckOther => [5, 12]
  | .ringBuffer _ => [6, 10]
  | .egressAlarm _ | .egressItem _ | .packerJob _ => [7]
  | .streamEntry _ => [8]
  | .configReloaded | .configReloadFailed => [9]
  | .cacheClean => [12]
  | .shroudBuffer _ _ | .stampQueue _ _ | .sampleBuffer _ => [14]
  | .logRecord _ | .trackCopy _ _ | .intervalRecord _ | .baselineCopy _ | .controlRecord _ => [13]

/-- What the consumer that meets the poison does. -/
def consequenceOf (region : Nat) (target : UeTarget) (s : State) : State :=
  match target with
  | .none => s
  | .stall n k => stallError n k s
  | .tableau i => storeError i s
  | .ribbonBlock i => ribbonError i s
  | .emBand => raise NST_OSC_INT 9 (emRestart s)
  | .fastBand => raise NST_OSC_INT 9 (fastRestart s)
  | .topology => topError s
  | .record n o => recordError n o s
  | .deckCustomer t => deckError (some t.val) s
  | .deckOther => deckError none s
  | .ringBuffer p => bufferError region p.val s
  | .egressAlarm _ => s
  | .egressItem q => itemError q.val s
  | .packerJob c => pakMemErr c.val s
  | .streamEntry n => streamError n s
  | .configReloaded => s
  | .configReloadFailed => configLostNow s
  | .cacheClean => s
  | .shroudBuffer l n => creditsBack l.val n s
  | .stampQueue p i => stampError p.val i s
  | .sampleBuffer c => sampleError c.val s
  | .logRecord n => logError n s
  | .trackCopy k older => trackError k.val older s
  | .intervalRecord i => intervalError i s
  | .baselineCopy older => baselineError older s
  | .controlRecord i => controlError i s

/-- The consequence in `region`; a consumer of another region meets nothing. -/
def consequence (region : Nat) (target : UeTarget) (s : State) : State :=
  if region ∈ targetRegions target then consequenceOf region target s else s

/-! Errors (R351 to R357). -/

/-- An uncorrectable error is counted, recorded with region and address but in region 13, and latched in MEM_UE_ADDR. -/
def noteUe (region addr : Nat) (s : State) : State :=
  let t := raise MEM_INT 1 (count (MEM_CNT region 2) 1 s)
  let u := wr MEM_UE_ADDR_HI (wordOf (addr / 2 ^ 32 + 2 ^ 8 * region)) (wr MEM_UE_ADDR_LO (loWord addr) t)
  if region = 13 then u else logEvent srcMEM 1 6 (wordOf region) [loWord addr, wordOf (addr / 2 ^ 32)] u

/-- A consumer's read. The error that the scrubber found before is counted once (Table 14.2). -/
def memUe (region addr : Nat) (target : UeTarget) (s : State) : State :=
  let t := if codeword addr ∈ s.mem.poison then
      setMem (fun m => { m with poison := m.poison.filter (fun c => decide (c ≠ codeword addr)) }) s
    else noteUe region addr s
  consequence region target t

def execMemUe (region : Fin 15) (addr : BitVec 36) (target : UeTarget) (s : State) : Host.Outcome State Fault Refusal :=
  powered s (if inRegion region.val addr.toNat then memUe region.val addr.toNat target s else s)

/-- Once LANE_CE_THR corrections fall in one lane in a pass, the lane is degraded. -/
def laneCount (ch lane : Nat) (s : State) : State :=
  let k := 4 * ch + lane
  let n := tget 0 s.mem.laneCe k + 1
  let t := setMem (fun m => { m with laneCe := tset 0 m.laneCe k n }) s
  if s.mem.degraded.isNone ∧ atLeast 1 (rdF s MEM_CFG 0 8) ≤ n then
    logEvent srcMEM 2 6 (wordOf k) [] (raise MEM_INT 2 (setMem (fun m => { m with degraded := some (ch, lane) }) t))
  else t

/-- A DRAM unit of 4 KiB with RETIRE_CE corrections in a pass is retired, while the spare region has room. -/
def unitCount (region addr : Nat) (s : State) : State :=
  if 9 < region then s
  else
    let k := addr / 4096
    let n := tget 0 s.mem.unitCe k + 1
    let t := setMem (fun m => { m with unitCe := tset 0 m.unitCe k n }) s
    if atLeast 1 (rdF s MEM_CFG 8 8) ≤ n ∧ s.mem.retired.length < 65536 ∧ k ∉ s.mem.retired then
      raise MEM_INT 3 (setMem (fun m => { m with retired := m.retired ++ [k] }) t)
    else t

/-- The error is one more symbol in a codeword of a degraded lane (R352). -/
def onDegraded (ch lane : Nat) (s : State) : Bool :=
  match s.mem.degraded with
  | some d => decide (d.1 = ch ∧ d.2 ≠ lane)
  | none => false

/-- A correction; beside a degraded lane the error is uncorrectable, and its consumer acts on it (R352, R353). -/
def memCe (region addr ch lane : Nat) (target : UeTarget) (s : State) : State :=
  if onDegraded ch lane s then consequence region target (noteUe region addr s)
  else unitCount region addr (laneCount ch lane (raise MEM_INT 0 (count (MEM_CNT region 0) 1 s)))

def execMemCorrection (region : Fin 15) (addr : BitVec 36) (ch : Fin 2) (lane : Fin 4) (target : UeTarget) (s : State) :
    Host.Outcome State Fault Refusal :=
  powered s (if inRegion region.val addr.toNat then memCe region.val addr.toNat ch.val lane.val target s else s)

/-! Patrol (R356). -/

/-- After the last codeword the pass is done, and the next one takes PERIOD_H. -/
def patrolNext (s : State) : State :=
  if s.mem.scrubAt + 1 < codewords then setMem (fun m => { m with scrubAt := m.scrubAt + 1 }) s
  else
    raise MEM_INT 4 (setMem (fun m => { m with
      scrubAt := 0, scrubPeriod := atLeast 1 (rdF s MEM_SCRUB 0 8), scrubFrom := s.ticks, laneCe := [], unitCe := [] }) s)

/-- The pass's uniform rate has come to its next codeword: 3,600 s an hour of 250,000,000 ticks. -/
def patrolDue (s : State) : Bool :=
  decide (s.mem.scrubAt * (s.mem.scrubPeriod * 900000000000) ≤ (s.ticks - s.mem.scrubFrom) * codewords)

/-- The scrubber's read: a correction, or an error that it poisons for the next consumer. -/
def patrolRead (region : Nat) (r : PatrolResult) (s : State) : State :=
  let addr := 32 * s.mem.scrubAt
  let bad := fun (t : State) =>
    if s.mem.scrubAt ∈ t.mem.poison then
        t
      else setMem (fun m => { m with poison := m.poison ++ [s.mem.scrubAt] }) (noteUe region addr t)
  patrolNext (match r with
    | .clean => s
    | .corrected ch lane => if onDegraded ch.val lane.val s then bad s else memCe region addr ch.val lane.val .none s
    | .uncorrectable => bad s)

def execPatrolRead (region : Fin 15) (r : PatrolResult) (s : State) : Host.Outcome State Fault Refusal :=
  inFull s (if patrolDue s then patrolRead (patrolRegion region.val (32 * s.mem.scrubAt)) r s else s)

/-- R91: CE and UE of the 15 regions. -/
def execMemSnapshot (who : Req) (clr : Bool) (s : State) : Host.Outcome State Fault Refusal :=
  .next (serve (.memSnapshot who clr) who MEM_SNAP
    (fun t => raise MEM_INT 5 (snapshot (MEM_CNT 0 0) 30 MEM_SNAP_SEQ clr t)) s)

end Sys2Proof.Machine
end

