-- ==== Sys2Proof/Machine/Energy.lean ====
section
/-!
DEFINITION. The energy commands: interval ends, saves, supply-side checks, ampere-hour saves and snapshots
(07_scales_energy.md).
-/

namespace Sys2Proof.Machine

open Sys2Proof

/-- The TAI time of the cycle clock's latest wrap: now less the time its angle took. -/
def lastWrap (s : State) : Nat :=
  s.tai - s.mast.cyc.angle * (1000000000 * taiSecUnit) / (atLeast 1 s.mast.cyc.freq * 2 ^ 64)

/-- R186: the first angle wrap at or after a UTC boundary ends the interval of every enabled point; no boundary is passed
twice (R188). The record is written when the last mean before the wrap has been metered. -/
def execIntervalEnd (s : State) : Host.Outcome State Fault Refusal :=
  powered s (if metering s then
      (enabledPoints s).foldl (endInterval (lastWrap s) (utcBound s (tagSec (lastWrap s)))) (closeOverdue s)
    else s)

/-- R193, Table 7.2: SAVE_S seconds after the last save, once the records of an interval end are written. -/
def periodicSave (ok : Bool) (s : State) : State :=
  let t := closeOverdue (setEnergy (fun e => { e with saveAt := s.ticks }) s)
  if (enabledPoints t).any (fun k => (meter t k).closing.isSome) then setEnergy (fun e => { e with saveDue := some ok }) t
  else energySave ok false t

def execEnergySave (ok : Bool) (s : State) : Host.Outcome State Fault Refusal :=
  powered s (if metering s ∧ s.scales.en.saveAt + savePeriod s * 250000000 ≤ s.ticks then periodicSave ok s else s)

/-- R193: a save at the next sample. -/
def execEnergySaveNow (who : Req) (s : State) : Host.Outcome State Fault Refusal :=
  .next (serve (.energySaveNow who) who SCL_EN_SAVE (wrF SCL_EN_SAVE 12 1 1) s)

/-- R192: a cycle of the cycle clock has ended since the last checks. -/
def supplyCheck (s : State) : State :=
  (enabledPoints s).foldl checkPoint (setEnergy (fun e => { e with checked := s.mast.cyc.count }) s)

def execSupplyCheck (s : State) : Host.Outcome State Fault Refusal :=
  powered s (if s.scales.en.checked = s.mast.cyc.count then s else supplyCheck s)

/-- R196 step 6: the ampere-hour counters go into the alternate slot. -/
def ahSave (s : State) : State :=
  let seq := match newestAh s with
    | some a => a.seq + 1
    | none => 0
  let x : AhSave :=
    { seq := seq % 2 ^ 32, start := s.scales.en.lastMean, spanMs := tagUs s.scales.en.reefAt s.tai / 1000,
      counts := (enabledPoints s).map (fun k => (k, (meter s k).ah)) }
  setEnergy (fun e => { e with ahSaves := tset none e.ahSaves (seq % 2) (some x), ahAt := s.ticks }) s

/-- R196 step 6: 1 s after the last one; a last mean that has not come by then does not come. -/
def ahPeriod (s : State) : State :=
  let t := reefSettle s
  if enReefed t ∧ ¬ t.ledger.fail ∧ t.scales.en.ahAt + 250000000 ≤ t.ticks then ahSave t else t

def execAhSave (s : State) : Host.Outcome State Fault Refusal := powered s (ahPeriod s)

/-- The bank words of a point. -/
def snapPoint (s : State) (k : Nat) : State :=
  forUpTo 8 (fun j t => wr64 (PT_ACC k (2 * j)) (visible ((meter s k).info.acc.getD j 0)) t)
    (forUpTo 3 (fun j t => wr64 (PT_AH k (2 * j)) ((meter s k).ah.getD j 0) t) s)

/-- R185: the accumulators and the ampere-hours of every point after its last sample, with that sample's tag. -/
def energySnapshot (s : State) : State :=
  let t := forUpTo 8 (fun k u => snapPoint u k) s
  let u := wr SCL_EN_SNAP_SEC (loWord (tagSec s.scales.en.lastTag)) (wr SCL_EN_SNAP_NS (wordOf (tagNs s.scales.en.lastTag)) t)
  raise SCL_EN_INT 7 (bumpF SCL_EN_SNAP_SEQ 0 16 u)

def execEnergySnapshot (who : Req) (s : State) : Host.Outcome State Fault Refusal :=
  .next (serve (.energySnapshot who) who SCL_EN_SNAP energySnapshot s)

end Sys2Proof.Machine
end

