-- ==== Sys2Proof/Machine/Till.lean ====
section
/-!
DEFINITION. The Till's commands (16_till_security.md): the two interfaces, completion, expiries, tamper and the two
table loads.
-/

namespace Sys2Proof.Machine

open Sys2Proof

/-! The interfaces (R402). -/

/-- The interface of a requester: 0 the host's, 1 the Deck's. -/
def tillIface : Req → Nat
  | .host => 0
  | .deck _ => 1

/-- A write of a command's code: it waits behind the interface's own command, else the command enters the queue with its
arguments and its mailbox, and starts when the Till is free. -/
def tillEnter (c : Instr) (who : Req) (code : Nat) (more cert ok : Bool) (s : State) : State :=
  let i := tillIface who
  if tillBusy s i then holdWrite c who s
  else
    let r : TillReq := { iface := i, code := code, more := more, cert := cert, ok := ok, args := tillArgs s i, mbox := tillMbox s i }
    tillStart { s with till := { s.till with queue := s.till.queue ++ [r] } }

def tillCmd (c : Instr) (who : Req) (code : Nat) (more cert ok : Bool) (s : State) : State :=
  serve c who (tillBase (tillIface who)) (tillEnter c who code more cert ok) s

/-- R397. -/
def execDerive (who : Req) (s : State) : Host.Outcome State Fault Refusal :=
  .next (tillCmd (.derive who) who 0x01 false false true s)

/-- R393. -/
def execGenerate (who : Req) (pairOk : Bool) (s : State) : Host.Outcome State Fault Refusal :=
  .next (tillCmd (.generate who pairOk) who 0x02 false false pairOk s)

/-- R397. -/
def execUnwrap (who : Req) (ok : Bool) (s : State) : Host.Outcome State Fault Refusal :=
  .next (tillCmd (.unwrap who ok) who 0x03 false false ok s)

/-- R391. -/
def execWrap (who : Req) (s : State) : Host.Outcome State Fault Refusal :=
  .next (tillCmd (.wrap who) who 0x04 false false true s)

/-- R400. -/
def execDestroy (who : Req) (s : State) : Host.Outcome State Fault Refusal :=
  .next (tillCmd (.destroy who) who 0x05 false false true s)

/-- R403. -/
def execEncrypt (who : Req) (more : Bool) (s : State) : Host.Outcome State Fault Refusal :=
  .next (tillCmd (.encrypt who more) who 0x06 more false true s)

/-- R403. -/
def execDecrypt (who : Req) (more tagOk : Bool) (s : State) : Host.Outcome State Fault Refusal :=
  .next (tillCmd (.decrypt who more tagOk) who 0x07 more false tagOk s)

/-- R403. -/
def execHmac (who : Req) (more : Bool) (s : State) : Host.Outcome State Fault Refusal :=
  .next (tillCmd (.hmac who more) who 0x08 more false true s)

/-- R392. -/
def execSign (who : Req) (s : State) : Host.Outcome State Fault Refusal :=
  .next (tillCmd (.sign who) who 0x09 false false true s)

/-- R392. -/
def execVerify (who : Req) (ok : Bool) (s : State) : Host.Outcome State Fault Refusal :=
  .next (tillCmd (.verify who ok) who 0x0a false false ok s)

/-- R392. -/
def execEcdh (who : Req) (s : State) : Host.Outcome State Fault Refusal :=
  .next (tillCmd (.ecdh who) who 0x0b false false true s)

/-- R403. -/
def execHash (who : Req) (more : Bool) (s : State) : Host.Outcome State Fault Refusal :=
  .next (tillCmd (.hash who more) who 0x0c more false true s)

/-- R392. -/
def execRandom (who : Req) (s : State) : Host.Outcome State Fault Refusal :=
  .next (tillCmd (.random who) who 0x0d false false true s)

/-- R398. -/
def execPubkey (who : Req) (s : State) : Host.Outcome State Fault Refusal :=
  .next (tillCmd (.pubkey who) who 0x0e false false true s)

/-- R408. -/
def execAttest (who : Req) (s : State) : Host.Outcome State Fault Refusal :=
  .next (tillCmd (.attest who) who 0x0f false false true s)

/-- R406. -/
def execGkMap (who : Req) (s : State) : Host.Outcome State Fault Refusal :=
  .next (tillCmd (.gkMap who) who 0x10 false false true s)

/-- R405. -/
def execGkUnmap (who : Req) (s : State) : Host.Outcome State Fault Refusal :=
  .next (tillCmd (.gkUnmap who) who 0x11 false false true s)

/-- R410. -/
def execAuthReq (who : Req) (s : State) : Host.Outcome State Fault Refusal :=
  .next (tillCmd (.authReq who) who 0x12 false false true s)

/-- R410. -/
def execAuth (who : Req) (ok : Bool) (s : State) : Host.Outcome State Fault Refusal :=
  .next (tillCmd (.auth who ok) who 0x13 false false ok s)

/-- R409. -/
def execZeroize (who : Req) (s : State) : Host.Outcome State Fault Refusal :=
  .next (tillCmd (.zeroize who) who 0x14 false false true s)

/-- R415. -/
def execEnrol (who : Req) (cert certOk : Bool) (s : State) : Host.Outcome State Fault Refusal :=
  .next (tillCmd (.enrol who cert certOk) who 0x15 false cert certOk s)

/-- R416. -/
def execCalEnrol (who : Req) (s : State) : Host.Outcome State Fault Refusal :=
  .next (tillCmd (.calEnrol who) who 0x16 false false true s)

/-- R400. -/
def execPurge (who : Req) (s : State) : Host.Outcome State Fault Refusal :=
  .next (tillCmd (.purge who) who 0x17 false false true s)

/-! Completion. -/

/-- The command that runs stores a certificate: the node restarts when it completes (R415). -/
def endsInRestart (s : State) : Bool :=
  match s.till.running with
  | some (_, o) => match o.eff with
    | .cert _ => true
    | _ => false
  | none => false

/-- R402: the command that runs completes, and the next one starts. -/
def tillDone (s : State) : State :=
  let t := if s.till.running.isSome then count evTILL_OPERATIONS 1 s else s
  if endsInRestart s then dieReset (tillFinish t) else tillStart (tillFinish t)

def execTillCommandDone (s : State) : Host.Outcome State Fault Refusal := powered s (tillDone s)

/-- An operation has been open for 1 s since its last chunk. -/
def opOver (s : State) (i : Nat) : Bool :=
  match openOp s i with
  | some o => decide (o.since + 250000000 ≤ s.ticks)
  | none => false

/-- R403: an operation left open for 1 s ends, its output discarded. -/
def execTillOpTimeout (deck : Bool) (s : State) : Host.Outcome State Fault Refusal :=
  powered s (if opOver s (b2n deck) then setOpen (b2n deck) none s else s)

/-! Expiries (R405, R407, R410). -/

/-- The validity of a slot's key has ended. -/
def keyExpiry (n : Nat) (s : State) : State :=
  let x := slotOf s n
  if x.st = .valid ∧ x.fin ≠ 0 ∧ x.fin ≤ now32 s then setSlot n { x with expired := true } s else s

def execKeyExpiry (slot : Fin 1024) (s : State) : Host.Outcome State Fault Refusal := powered s (keyExpiry slot.val s)

/-- A request of an operation outside a clear is 60 s old. -/
def authOver (s : State) (op : Nat) : Bool :=
  match authReq s op with
  | some a => !lives60 s a.since
  | none => false

/-- A request of 60 s ends; a clear's is CLEAR_EXPIRY's. -/
def execAuthRequestExpiry (op : Fin 4) (s : State) : Host.Outcome State Fault Refusal :=
  powered s (if op.val ≠ 0 ∧ authOver s op.val then setAuth op.val none s else s)

/-- A usable entry is within 300 s of END, and no entry of its group ends later. -/
def gkExpiring (i : Nat) (s : State) : State :=
  match gkEntry s i with
  | none => s
  | some e =>
    if gkUsable s e && decide (e.fin ≤ now32 s + 300) && !(gkMapped s).any (fun x => decide (x.group = e.group ∧ e.fin < x.fin))
    then raise TIL_INT 4 s else s

def execGkExpiring (entry : Fin 256) (s : State) : Host.Outcome State Fault Refusal := powered s (gkExpiring entry.val s)

/-! Tamper (R411 to R413). -/

/-- The sources watched in the present state, of Table 16.7's bits. -/
def tamperWatched (s : State) : Nat := if s.power.st = .furled then 0b01011 else 0b11111

/-- Table 16.8's response outside Furled: before the root is formed the start ends SEALED; after it, an operation that runs
aborts, the keys go, and the Till is TAMPERED. -/
def tamperRun (src : Nat) (s : State) : State :=
  let t := latchTamper src s
  if s.boot.phase ≠ .running then { t with till := { t.till with st := .sealed, sealReason := 3 } }
  else
    let u := zeroizeAll (abortRunning t)
    let v := updateNodeOk { u with till := { u.till with st := .tampered } }
    tillStart (logEvent srcTIL 1 7 (rd v TIL_TAMPER) [] (raise TIL_INT 1 v))

/-- Sources that trip together. Furled, the Sentry empties the sealed key cache and latches FURLED; without supply it
watches nothing. -/
def tamper (sources : Nat) (s : State) : State :=
  let src := sources &&& tamperWatched s
  if src = 0 ∨ s.sentry.dead then s
  else if s.power.st = .furled then latchTamper (src + 32) { s with till := { s.till with cache := [] } }
  else tamperRun src s

def execTamperTrip (sources : BitVec 6) (s : State) : Host.Outcome State Fault Refusal := .next (tamper sources.toNat s)

/-! The loads (R397, R406). -/

def slotCode : SlotState → Nat
  | .free => 0
  | .valid => 1
  | .orphan => 2
  | .zeroized => 3

/-- TIL_SLOT_W0 to W3; a FREE slot reads 0. -/
def slotWords (x : TillSlot) : List Word :=
  if x.st = .free then [0#32, 0#32, 0#32, 0#32]
  else
    [wordOf (slotCode x.st + 4 * x.level + 16 * x.parent),
     wordOf (x.typ + 16 * x.usage + 2 ^ 12 * b2n x.exportable + 2 ^ 13 * b2n x.persist), wordOf x.label, wordOf x.fin]

def slotLoad (n : Nat) (s : State) : State :=
  wrWords (TIL_SLOT_W 0) (slotWords (slotOf s n)) (wr TIL_SLOT_IDX (wordOf n) s)

def execSlotLoad (who : Req) (slot : BitVec 10) (s : State) : Host.Outcome State Fault Refusal :=
  .next (serve (.slotLoad who slot) who TIL_SLOT_IDX (slotLoad slot.toNat) s)

/-- TIL_GK_W0 to W3. -/
def gkWords (s : State) (i : Nat) : List Word :=
  match gkEntry s i with
  | none => [0#32, 0#32, 0#32, 0#32]
  | some e =>
    [wordOf e.keyId, wordOf (e.group + 2 ^ 16 * e.tagLen + 2 ^ 18 + 2 ^ 19 * b2n (gkUsable s e) + 2 ^ 21 * e.slot),
     wordOf e.start, wordOf e.fin]

def gkLoad (i : Nat) (s : State) : State := wrWords (TIL_GK_W 0) (gkWords s i) (wr TIL_GK_IDX (wordOf i) s)

def execGkLoad (who : Req) (entry : BitVec 8) (s : State) : Host.Outcome State Fault Refusal :=
  .next (serve (.gkLoad who entry) who TIL_GK_IDX (gkLoad entry.toNat) s)

end Sys2Proof.Machine
end

