-- ==== Sys2Proof/Machine/PowerOps.lean ====
section
/-!
DEFINITION. The power-management unit's shared operations (R460 to R469): the Reefed sequence, the final flush, resumption, the
hold-up estimate and the shed levels.
-/

namespace Sys2Proof.Machine

open Sys2Proof

def setPower (f : Power → Power) (s : State) : State := { s with power := f s.power }

/-- Reasons of Reefed (PWR_STATUS.REEF_WHY). -/
abbrev reefPOWER : Nat := 1
abbrev reefTHERMAL : Nat := 2
abbrev reefCOMMAND : Nat := 3

/-! Thermal shedding (R469). -/

/-- Temperatures in 0.125 °C. -/
def dieTemp (s : State) : Int := signedN (rdF s PWR_DIE 0 16) 16

/-- The temperature at which level `k` (1 to 4) is entered, and that at or below which it is left after 10 s. -/
def shedEnter (s : State) (k : Nat) : Int :=
  8 * ((min (rdF s PWR_CFG 0 8) (rdF s PWR_CTRL 0 8) + (k - 1) * rdF s PWR_CFG 8 4 : Nat) : Int)
def shedLeave (s : State) (k : Nat) : Int := shedEnter s k - 8 * (rdF s PWR_CFG 12 4 : Nat)

/-- The level changes by one. -/
def shedTo (n k : Nat) (on : Bool) (s : State) : State :=
  logEvent srcPWR 4 4 (wordOf n) [] (raise PWR_INT 2 (shedEffect k on (setPower (fun p => { p with shed := n }) s)))

/-- Consecutive readings, 1 ms apart, at or below each level's leaving temperature; 10,001 of them span 10 s. -/
def calmCount (s : State) (temp : Int) : NMap Nat :=
  [1, 2, 3, 4].foldl (fun m k => tset 0 m k (if temp ≤ shedLeave s k then min 10001 (tget 0 s.power.calm k + 1) else 0)) []

/-- A reading changes the level by at most one: the next one up is entered, or the present one left. -/
def shedStep (temp : Int) (s : State) : State :=
  let t := setPower (fun p => { p with calm := calmCount s temp }) s
  let n := s.power.shed
  if n < 4 ∧ shedEnter s (n + 1) ≤ temp then shedTo (n + 1) (n + 1) true t
  else if 0 < n ∧ 10001 ≤ tget 0 t.power.calm n then shedTo (n - 1) n false t
  else t

/-- The level that a temperature gives at a resumption. -/
def shedOf (s : State) : Nat :=
  ([1, 2, 3, 4].filter (fun k => decide (shedEnter s k ≤ dieTemp s))).foldl max 0

/-- The level at a resumption, which the start of the data path then applies (R469); a changed one is reported. -/
def shedResume (s : State) : State :=
  let n := shedOf s
  if n = s.power.shed then s
  else logEvent srcPWR 4 4 (wordOf n) [] (raise PWR_INT 2 (setPower (fun p => { p with shed := n, calm := [] }) s))

/-! The Reefed sequence (R464, R465, R372). -/

/-- A port's power goes: its link is down and it holds no frame. -/
def portOff (p : Nat) (s : State) : State :=
  let t := if (port s p).linkUp then linkChange p false false s else s
  setPort p { port t p with txLpi := false, rxLpi := false, xoff := false, paused := 0, wake := none, buf := [] } t

/-- The cycle clock has no reference: LOCKED and PULLIN go to FLYWHEEL (Table 2.7). -/
def cycNoRef (s : State) : State :=
  if s.mast.cyc.st = .locked ∨ s.mast.cyc.st = .pullin then cycLeave .flywheel s else s

/-- An activation under way is abandoned, with the boot record unchanged (Table 18.10). -/
def actAbandon (s : State) : State :=
  if s.boot.act = 0 then s else botEnd resPOWER { s with boot := { s.boot with act := 0 } }

/-- Step 4 of Table 19.3: the links, the data path and the Deck stop; the tableaus go, and the Mast holds over. -/
def reefStop (s : State) : State :=
  let s1 := shroudChange 1 false (shroudChange 0 false (forUpTo 64 portOff (actAbandon s)))
  let sr := ribLose s1
  let s2 := hostReset { sr with
    boot := { sr.boot with dataPath := false }, ing := { sr.ing with fifo := [], handoff := [] },
    mkt := { sr.mkt with tabs := [], early := [] }, nest := { sr.nest with stopped := true } }
  let s3 := deckReset s2
  let s4 := cycNoRef { s3 with deck := { s3.deck with st := .failed } }
  updateNodeOk (if s4.mast.st = .locked then mastTo .holdover s4 else s4)

/-- The Reefed flush (R372). A clear's erase stops, its mark stays (R375). -/
def reefFlush (s : State) : State :=
  trackWrite (flushRun [] []
    (if s.ledger.clr = .clearing then setLedger (fun l => { l with clr := .idle, clrWait := false }) s else s))

/-- The sequence of Table 19.3 with a reason. -/
def reefEnter (why : Nat) (s : State) : State :=
  let s1 := setPower (fun p => { p with st := .reefed, why := why, hot := 0 }) s
  let s2 := logEvent srcPWR 1 5 (wordOf why) [] (raise PWR_INT 0 s1)
  let s3 := if why = reefTHERMAL then logEvent srcPWR 5 6 0#32 [] s2 else s2
  reefStop (reefFlush (capReef (energyReef s3)))

/-! The end of hold-up (R373, R468). -/

/-- The island summary of R279: each slot that is not FREE (notes/assumptions/24.md). -/
def islandSummary (s : State) : List Nat :=
  match s.nest.top.getLast? with
  | none => []
  | some i =>
    (i.after.slots.filter (fun p => decide (p.2.st ≠ .free))).flatMap (fun p =>
      wordsBytes [wordOf (p.1 + 2 ^ 8 * islCode p.2.st + 2 ^ 16 * p.2.buses.length), p.2.fCoi, f32OfRat p.2.df (2 ^ 149),
        loWord (unsignedN p.2.slip 64), hiWord (unsignedN p.2.slip 64), loWord (p.2.declAt.getD 0), hiWord (p.2.declAt.getD 0)])

/-- What the final flush writes. -/
def finalFlush (s : State) : State :=
  if s.ledger.fail then s
  else
    let s1 := flushRun [] [] (reefSettle s)
    let s2 := if enReefed s1 then ahSave s1 else s1
    let s3 := setLedger (fun l => { l with reefedSummary := islandSummary s2, reefedHeaders := reefHeaders s2 }) s2
    baselineSave { s3 with nest := { s3.nest with stopped := false } }

/-- The end-of-hold-up signal: the record, the final flush, and every rail off. -/
def holdupEnd (s : State) : State := powerOff (finalFlush (logEvent srcPWR 3 5 0#32 [] s))

/-! The store (R466). -/

/-- The store's energy above the reserve, less 5 ms of Full sail, is below 0 for a measured C (R468). -/
def storeThin (s : State) : Bool :=
  let v := rdF s PWR_HU 0 16
  let c := rdF s PWR_HU 16 16
  decide (c ≠ 0 ∧ 425 * c * (v * v - 5760000) < 29 * 10 ^ 9)

/-- HOLDUP_READY and HOLDUP_LOW follow the estimate of `t` against that of `s`. -/
def holdupChange (s t : State) : State :=
  let u := if !holdupReady s && holdupReady t then raise PWR_INT 3 t else t
  if holdupReady u then setStat PWR_STATUS 8 false u
  else if holdupShort u && !rdB u PWR_STATUS 8 then
    logEvent srcPWR 6 5 (wordOf (rdF u PWR_HU 16 16)) [] (raise PWR_INT 4 (setStat PWR_STATUS 8 true u))
  else u

/-! Rails (R461). -/

/-- Nominal mV of Table 19.1; VDRAM by its first voltage. -/
def railNominal : List Nat := [3300, 1800, 3300, 3300, 750, 800, 900, 1050]

/-- A rail is on: in Reefed V3V3, VDECK and VSERDES are off. -/
def railOn (s : State) (k : Nat) : Bool := decide (s.power.st = .fullSail) || decide (k ≠ 3 ∧ k ≠ 5 ∧ k ≠ 6)

/-- `mv` is outside `pct` per cent of nominal. -/
def railOut (k pct mv : Nat) : Bool :=
  let n := railNominal.getD k 0
  decide (pct * n < 100 * (mv - n) ∨ pct * n < 100 * (n - mv))

def rail (s : State) (k : Nat) : Rail := tget {} s.power.rails k

/-- One rail's measurement, every 1 ms: a non-core rail outside ±5 % at four readings in a row was so for 3 ms. -/
def railMeasure (k mv ma : Nat) (s : State) : State :=
  let x := rail s k
  let n := if k ≠ 4 ∧ k ≠ 5 ∧ railOn s k = true ∧ railOut k 5 mv = true then min 5 (x.outside + 1) else 0
  let least := match x.least with
    | some m => min m mv
    | none => mv
  let y : Rail := { mv := mv, least := some least, ma := ma, outside := n }
  let t := setPower (fun p => { p with rails := tset {} p.rails k y }) s
  if n = 4 then logEvent srcPWR 7 6 (wordOf k) [] (raise PWR_INT 5 (wrF PWR_STATUS 9 4 k t)) else t

/-! Resumption (R467). -/

/-- Steps 1 to 4 of a resumption. -/
def resume (version : Word) (s : State) : State :=
  let s1 := setPower (fun p => { p with st := .fullSail, hot := 0 }) { s with sentry := { s.sentry with onVbat := false } }
  let s2 := energyResume (startDataPath true (shedResume s1))
  let s3 := deckRun version (bootLoadCode (deckStart s2))
  let s4 := linkBack .linkDown (if isPair s3 then pairStart s3 else s3)
  updateNodeOk (raise PWR_INT 1 (logEvent srcPWR 2 3 (wordOf s.power.why) [] s4))

end Sys2Proof.Machine
end

