-- ==== Sys2Proof/Machine/Power.lean ====
section
/-!
DEFINITION. The power commands (19_power.md): the rails, power failure, shedding, the store and resumption.
-/

namespace Sys2Proof.Machine

open Sys2Proof

/-! Power-up (R460). -/

/-- One attempt: the die's reset is released, or every rail is off again. The Sentry runs from the standby rail (R462). -/
def railAttempt (fail : Option (Fin 8)) (s : State) : State :=
  let t := { s with sentry := { s.sentry with onVbat := false, dead := false } }
  match fail with
  | none =>
    { setPower (fun p => { p with st := .fullSail, tries := 0 }) t with boot := { t.boot with phase := .released } }
  | some r =>
    let n := t.power.tries + 1
    let u := setPower (fun p => { p with tries := n, triedAt := t.sentry.tick }) t
    if n = 3 then { u with sentry := { u.sentry with railFault := some r.val } } else u

/-- R460: the input has been at or above 10.8 V for 20 ms, 21 readings. -/
def execPowerUp (fail : Option (Fin 8)) (s : State) : Host.Outcome State Fault Refusal :=
  .next (if s.power.st = .furled ∧ s.sentry.furlLatch = false ∧ s.power.tries = 0 ∧ 21 ≤ s.power.vinHigh then railAttempt fail s else s)

/-- The attempt is repeated after 1 s of the crystal's time, up to three times in all. -/
def execRailRetry (fail : Option (Fin 8)) (s : State) : Host.Outcome State Fault Refusal :=
  .next (if s.power.st = .furled ∧ s.sentry.furlLatch = false ∧ 0 < s.power.tries ∧ s.power.tries < 3
      ∧ 32768 ≤ (s.sentry.tick + 2 ^ 48 - s.power.triedAt) % 2 ^ 48 then railAttempt fail s else s)

/-- R464: the input has fallen below 10.0 V; with it ends the wait after a third failure (R460). -/
def execFurlLatchClear (s : State) : Host.Outcome State Fault Refusal :=
  .next (if s.power.vin < 10000 then setPower (fun p => { p with tries := 0 }) { s with sentry := { s.sentry with furlLatch := false } } else s)

/-! Reefed (R464 to R468). -/

/-- A power failure in Full sail. Before step 8 of the start, and with a store below its reserve, the rails go off at
once. -/
def powerFail (s : State) : State :=
  if s.power.st ≠ .fullSail then s
  else if s.boot.started = false ∨ rdF s PWR_HU 0 16 < 2400 then powerOff s
  else
    let t := reefEnter reefPOWER s
    if storeThin t then holdupEnd t else t

def execPowerFail (s : State) : Host.Outcome State Fault Refusal :=
  .next (powerFail (setPower (fun p => { p with vin := 0, vinHigh := 0 }) s))

/-- FURL: the sequence with reason COMMAND, its last means taken, and then Furled with FURL_CMD latched. -/
def furlNow (key : BitVec 16) (s : State) : State :=
  if key ≠ 0xF0A1#16 ∨ s.boot.started = false then s
  else
    let t := powerOff (reefSettle (reefEnter reefCOMMAND s))
    { t with sentry := { t.sentry with furlLatch := true } }

def execFurl (who : Req) (key : BitVec 16) (s : State) : Host.Outcome State Fault Refusal :=
  .next (serve (.furl who key) who PWR_CMD (furlNow key) s)

/-- R468: the store has come down to V_RES. -/
def execHoldupEnd (s : State) : Host.Outcome State Fault Refusal :=
  .next (if s.power.st = .reefed ∧ rdF s PWR_HU 0 16 ≤ 2400 then holdupEnd s else s)

/-- R467: with reason POWER the input has been at or above 10.8 V for 100 ms, 101 readings; with reason THERMAL the
die is at or below RESUME_C. -/
def mayResume (s : State) : Bool :=
  decide (s.power.st = .reefed)
    && ((decide (s.power.why = reefPOWER) && decide (101 ≤ s.power.vinHigh))
      || (decide (s.power.why = reefTHERMAL) && decide (dieTemp s ≤ 8 * (rdF s PWR_CFG 24 8 : Nat))))

def execPowerResumption (version : Word) (s : State) : Host.Outcome State Fault Refusal :=
  .next (if mayResume s then resume version s else s)

/-! The sensor (R464, R469). -/

/-- TEMP and TEMP_MAX. -/
def noteTemp (temp : BitVec 16) (s : State) : State :=
  let m := if s.power.tempSeen then max (signedN (rdF s PWR_DIE 16 16) 16) temp.toInt else temp.toInt
  wr PWR_DIE (wordOf (temp.toNat + 2 ^ 16 * unsignedN m 16)) (setPower (fun p => { p with tempSeen := true }) s)

/-- A reading of the hottest sensor. A die at or above TRIP_C at 11 readings in a row, 1 ms apart, was so for 10 ms:
it enters Reefed; one that has not reached step 8 of its start loses its rails, as for a power failure (Table 19.4,
notes/assumptions/17.md). -/
def dieReading (temp : BitVec 16) (s : State) : State :=
    let t := noteTemp temp s
    if t.power.st = .reefed then t
    else
      let n := if 8 * (rdF t PWR_CFG 16 8 : Nat) ≤ temp.toInt then min 11 (t.power.hot + 1) else 0
      let u := setPower (fun p => { p with hot := n }) t
      if t.boot.started = false then (if n = 11 then powerOff u else u)
      else if n = 11 then reefEnter reefTHERMAL u
      else shedStep temp.toInt u

/-- Every 1 ms. A die below -50 °C or above 125 °C is a TEMP tamper (Table 16.7). -/
def sensorReading (temp : BitVec 16) (s : State) : State :=
  if s.power.st = .furled ∨ s.ticks < s.power.sensorDue then s
  else
    let t := dieReading temp (setPower (fun p => { p with sensorDue := s.ticks + 250000 }) s)
    if temp.toInt < -400 ∨ 1000 < temp.toInt then tamper 8 t else t

def execSensorReading (temp : BitVec 16) (s : State) : Host.Outcome State Fault Refusal := .next (sensorReading temp s)

/-! Measurements (R461, R466). -/

/-- VCORE or VDECK is outside ±10 % (R461). -/
def voltTamper (s : State) : Bool :=
  [4, 5].any (fun k => railOn s k && railOut k 10 (rail s k).mv)

def railMeasureAll : Nat → List (Nat × Nat) → State → State
  | _, [], s => s
  | k, p :: r, s => railMeasureAll (k + 1) r (if k < 8 then railMeasure k p.1 p.2 s else s)

/-- The input as the unit sees it from the standby rail, in every state: readings in a row at or above 10.8 V. -/
def noteInput (vin : Nat) (s : State) : State :=
  setPower (fun p => { p with vin := vin, vinHigh := if 10800 ≤ vin then min 101 (p.vinHigh + 1) else 0 }) s

/-- The measurements of 1 ms. A core rail outside ±10 % is a VOLT tamper. -/
def powerMeasure (rails : List (Nat × Nat)) (vin iin : BitVec 16) (pmw : Word) (vstore : BitVec 16) (s0 : State) : State :=
  let s := noteInput vin.toNat s0
  if s.power.st = .furled then s
  else if s0.ticks < s0.power.measDue then s0
  else
    let t := wr PWR_PIN pmw (wr PWR_IN (wordOf (vin.toNat + 2 ^ 16 * iin.toNat)) (railMeasureAll 0 rails
      (setPower (fun p => { p with measDue := s.ticks + 250000 }) s)))
    let u := holdupChange t (wrF PWR_HU 0 16 vstore.toNat t)
    if voltTamper u then tamper 4 u else u

def execRailMeasure (rails : List (Nat × Nat)) (vin iin : BitVec 16) (pmw : Word) (vstore : BitVec 16) (s : State) :
    Host.Outcome State Fault Refusal :=
  .next (powerMeasure rails vin iin pmw vstore s)

/-- The store is at 5.0 V and C is measured. -/
def execStoreChargeDone (cf : BitVec 16) (s : State) : Host.Outcome State Fault Refusal :=
  .next (if s.power.st = .fullSail then holdupChange s (wr PWR_HU (wordOf (5000 + 2 ^ 16 * cf.toNat)) s) else s)

/-- PWR_RAIL_V and PWR_RAIL_I of the rail. -/
def railLoad (k : Nat) (s : State) : State :=
  let x := rail s k
  wr PWR_RAIL_I (wordOf x.ma) (wr PWR_RAIL_V (wordOf (x.mv + 2 ^ 16 * x.least.getD 0)) (wrF PWR_RAIL_IDX 0 3 k s))

def execRailLoad (who : Req) (rail : Fin 8) (s : State) : Host.Outcome State Fault Refusal :=
  .next (serve (.railLoad who rail) who PWR_RAIL_IDX (railLoad rail.val) s)

end Sys2Proof.Machine
end

