-- ==== Sys2Proof/Machine/Earlier.lean ====
section
/-!
DEFINITION. Nine commands under the names and with the operands that the host's reading of exec (Host/Slice0/DispatchArms.lean) has for
them: each is the command of Syntax.lean with an operand left out that the state now supplies, or with one at its plainest value.
Nothing else of the model uses these names.
-/

namespace Sys2Proof

/-- CYCLE_COMPARISON; the reference's angle is taken from the state (R52). -/
def Instr.cycleComparison (_ : Word) : Instr := .cycleCompare

/-- RX_TAIL_WRITE with no buffer offered (R81). -/
def Instr.rxTailWrite (who : Req) (port : Fin 64) (index : BitVec 9) : Instr := .rxTail who port index []

/-- SEND_SOURCE_COMMAND through queue 0 (R97). -/
def Instr.sendSourceCommand (stream : BitVec 14) (cmd : SourceCmd) : Instr := .sourceCommandSend stream cmd 0 0

/-- BELL_FALL; the rest before it is taken from the state (R217). -/
def Instr.bellFall (line : Fin 2) (_ : Bool) (lowNs : Nat) : Instr := .bellLineFall line lowNs

/-- RESTART_DONE; its span is taken from the ticks of State. -/
def Instr.restartDone (verified : Bool) (version : Word) (_ : Nat) : Instr := .deckRestartDone verified version

/-- MEM_CE in a codeword whose loss meets no consumer (R352). -/
def Instr.memCe (region : Fin 15) (addr : BitVec 36) (channel : Fin 2) (lane : Fin 4) : Instr :=
  .memCorrection region addr channel lane .none

/-- ACTIVATION_RESUME; its span is taken from the ticks of State. -/
def Instr.activationResume (hashOk : Bool) (_ : Nat) : Instr := .activationResumption hashOk

/-- RESUMPTION; its span is taken from the ticks of State. -/
def Instr.resumption (version : Word) (_ : Nat) : Instr := .powerResumption version

/-- REFERENCE_LOST when the channel reads INVALID (R54). -/
def Instr.referenceLost : Instr := .cycleReferenceLost .invalid

namespace Machine

def execCycleComparison (_ : Word) (s : State) : Host.Outcome State Fault Refusal := execCycleCompare s

def execRxTailWrite (who : Req) (port : Fin 64) (index : BitVec 9) (s : State) : Host.Outcome State Fault Refusal :=
  execRxTail who port index [] s

def execSendSourceCommand (stream : BitVec 14) (cmd : SourceCmd) (s : State) : Host.Outcome State Fault Refusal :=
  execSourceCommandSend stream cmd 0 0 s

def execBellFall (line : Fin 2) (_ : Bool) (lowNs : Nat) (s : State) : Host.Outcome State Fault Refusal :=
  execBellLineFall line lowNs s

def execRestartDone (verified : Bool) (version : Word) (_ : Nat) (s : State) : Host.Outcome State Fault Refusal :=
  execDeckRestartDone verified version s

def execMemCe (region : Fin 15) (addr : BitVec 36) (channel : Fin 2) (lane : Fin 4) (s : State) :
    Host.Outcome State Fault Refusal :=
  execMemCorrection region addr channel lane .none s

def execActivationResume (hashOk : Bool) (_ : Nat) (s : State) : Host.Outcome State Fault Refusal :=
  execActivationResumption hashOk s

def execResumption (version : Word) (_ : Nat) (s : State) : Host.Outcome State Fault Refusal := execPowerResumption version s

def execReferenceLost (s : State) : Host.Outcome State Fault Refusal := execCycleReferenceLost .invalid s

end Machine

end Sys2Proof
end

