-- ==== Sys2Proof/Machine/HostIf.lean ====
section
/-!
DEFINITION. The host interface's commands (20_host_registers.md).
-/

namespace Sys2Proof.Machine

open Sys2Proof

/-! Resets and interrupts (R471, R480). -/

def execLinkReset (kind : LinkReset) (s : State) : Host.Outcome State Fault Refusal := inFull s (hostLinkReset kind s)

/-- D3hot: BAR0 is inaccessible until the return. -/
def execD3hotEntry (s : State) : Host.Outcome State Fault Refusal := inFull s (setHost (fun h => { h with d3hot := true }) s)

/-- The message goes again while the OR is true. -/
def eoi (v : Nat) (s : State) : State := if vectorTrue s v then sendVector v s else s

def execEoi (vector : Fin 16) (s : State) : Host.Outcome State Fault Refusal :=
  .next (hostServe (.eoi vector) HST_EOI (eoi vector.val) s)

/-- A pending vector is unmasked: its PBA bit clears, and it sends if its OR is true. -/
def unmasked (v : Nat) (s : State) : State :=
  if s.host.pba.toNat.testBit v && !rdB s (MSIX_CTRL v) 0 && !s.host.funcMask then
    eoi v (setHost (fun h => { h with pba := withBool h.pba v false }) s)
  else s

/-- A word of a table entry: of Vector Control, bit 0. -/
def msixWrite (v w : Nat) (x : Word) (s : State) : State :=
  unmasked v (wr (MSIX_ADDR v + 4 * w) (if w = 3 then x &&& 1#32 else x) s)

def execMsixTableWrite (vector : Fin 16) (w : Fin 4) (v : Word) (s : State) : Host.Outcome State Fault Refusal :=
  .next (hostServe (.msixTableWrite vector w v) (MSIX_ADDR vector.val + 4 * w.val) (msixWrite vector.val w.val v) s)

/-! 32-bit reads (R46, R476). -/

/-- A read there has a command of its own: the frozen blocks, the queues, the apertures and the fields that a read
clears. -/
def ownRead (a : Nat) : Bool :=
  decide (MST_TIME_SUB ≤ a ∧ a ≤ MST_TIME_SEC_HI) || decide (CAL_TICK_LO ≤ a ∧ a ≤ CAL_TICK_HI) || decide (a = MST_IRIG_STAT)
    || (decide (0x10000 ≤ a ∧ a < 0x20000) && decide (0x40 ≤ a % 0x400 ∧ a % 0x400 < 0x50))
    || (List.range 24).any (fun k => decide (a = SCL_CH_STAT k))
    || (List.range 32).any (fun q => decide (a = EGR_Q_POP q 0 ∨ a = EGR_Q_POP q 1))
    || (decide (0x80000 ≤ a ∧ a < 0xE1000) && !winBases.any (fun b => decide (b ≤ a ∧ a < b + 0x100)))

/-- A read of a lower word copies the upper one; an upper word read next, with no access between, is that copy. -/
def lowWordRead (shadow : Option (Nat × Word)) (a : Nat) (s : State) : State :=
  if ownRead a then s
  else if a % 8 = 0 then
    answer .host ((readReg s a).setWidth 64) (setHost (fun h => { h with shadow := some (a, readReg s (a + 4)) }) s)
  else
    let v := match shadow with
      | some p => if p.1 + 4 = a then p.2 else readReg s a
      | none => readReg s a
    answer .host (v.setWidth 64) s

/-- The word that `ofs` lies in; an offset of a block that does not respond in recovery mode reads 0 (R472). -/
def execLowWordRead (ofs : BitVec 20) (s : State) : Host.Outcome State Fault Refusal :=
  let a := ofs.toNat / 4 * 4
  .next (hostServe (.lowWordRead ofs) HST_ID
    (fun t => if responds t a then lowWordRead s.host.shadow a t else answer .host 0#64 t) s)

/-- The register that a read clears a field of. -/
def clearedReg : Option (Fin 24) → Nat
  | none => MST_IRIG_STAT
  | some ch => SCL_CH_STAT ch.val

/-- The read returns ERR_CNT or OVR_CNT with the rest of its word, and clears it. -/
def clearOnRead (who : Req) (ch : Option (Fin 24)) (s : State) : State :=
  let a := clearedReg ch
  answer who ((readReg s a).setWidth 64) (wrF a 16 (if ch.isNone then 8 else 16) 0 s)

def execClearOnRead (who : Req) (ch : Option (Fin 24)) (s : State) : Host.Outcome State Fault Refusal :=
  .next (serve (.clearOnRead who ch) who (clearedReg ch) (clearOnRead who ch) s)

/-! Windows (R483, R484). -/

/-- The base of a window. -/
def winBase (w : Win) : Nat := winBases.getD (winIdx w) 0

def execWindowRead (w : Win) (r : WinRead) (poison : List Bool) (s : State) : Host.Outcome State Fault Refusal :=
  .next (hostServe (.windowRead w r poison) (winBase w) (windowRead w r poison) s)

/-- OPEN acts on the pair mirror alone. -/
def execWinOpen (w : Win) (s : State) : Host.Outcome State Fault Refusal :=
  .next (hostServe (.winOpen w) (winBase w) (fun t => if w = .mirror then mirrorOpen t else t) s)

def execWinAbort (w : Win) (s : State) : Host.Outcome State Fault Refusal :=
  .next (hostServe (.winAbort w) (winBase w) (winAbort w) s)

/-! Writes and refused accesses (R473, R474, R477). -/

def execRegisterWrite (who : Req) (ofs : BitVec 17) (be : BitVec 8) (v : BitVec 64) (s : State) :
    Host.Outcome State Fault Refusal :=
  .next (serve (.registerWrite who ofs be v) who (8 * ofs.toNat)
    (writeBytes (.registerWrite who ofs be v) who (8 * ofs.toNat) be.toNat v) s)

/-- R474: the held write at the front is dropped after 10 ms. -/
def execHeldWriteDrop (s : State) : Host.Outcome State Fault Refusal := inFull s (heldDrop s)

/-- The access lies in one aligned 64-bit word, or is a read of up to 512 bytes in an aperture. -/
def acceptable (a len : Nat) (write : Bool) : Bool :=
  decide (0 < len) && (decide (a % 8 + len ≤ 8)
    || (!write && decide (len ≤ 512)
      && (List.range 12).any (fun w => decide (winBases.getD w 0 + 0x100 ≤ a
        ∧ a + len ≤ ([0x90000, 0xA0000, 0xB0000, 0xB8000, 0xC0000, 0xC2000, 0xC4000, 0xC6000, 0xC8000, 0xD0000, 0xE0000,
            0xE1000]).getD w 0))))

/-- A refused access: ACCESS_ERR and its offset; a read returns UR. -/
def refuseAccess (a : Nat) (write : Bool) (s : State) : State :=
  let t := raise HST_INT 0 (wr HST_ERR_OFS (wordOf (a + 2 ^ 20 * b2n write)) s)
  if write then t else emit (.unsupported a) t

def execUnsupportedRequest (ofs : BitVec 20) (len : Nat) (write : Bool) (s : State) : Host.Outcome State Fault Refusal :=
  .next (hostServe (.unsupportedRequest ofs len write) HST_ID
    (fun t => if acceptable ofs.toNat len write then t else refuseAccess ofs.toNat write t) s)

end Sys2Proof.Machine
end

