-- ==== Sys2Proof/Machine/Ledger.lean ====
section
/-!
DEFINITION. The Ledger's commands (15_ledger_calendar.md, R359 to R382).
-/

namespace Sys2Proof.Machine

open Sys2Proof

/-! Events, flushes and tracks. -/

/-- R364. -/
def execLedgerEvent (e : LEvent) (s : State) : Host.Outcome State Fault Refusal := powered s (logOffered e s)

/-- R366: a flush is asked for; it runs as LEDGER_FLUSH. -/
def execFlushNow (who : Req) (s : State) : Host.Outcome State Fault Refusal :=
  .next (serve (.flushNow who) who LDG_CTRL (setLedger (fun l => { l with flushReq := true })) s)

/-- What a fixed track samples. Track 6 counts the LATE placements since its last sample; `derived` is the hourly rate
of track 5 and the load of track 7, which no rule computes (notes/assumptions/34.md). -/
def fixedSample (s : State) (k : Nat) (derived : Int) : Int :=
  if k = 0 then dieTemp s
  else if k = 1 then rdF s PWR_IN 0 16
  else if k = 2 then (rd s PWR_PIN).toNat
  else if k = 3 then tqReported s
  else if k = 4 then (s.mast.cyc.freq : Int) - nominalFreq s
  else if k = 6 then (let n := liveCnt s (MKT_CNT 10)
    ((if n < s.ledger.lateSeen then n else n - s.ledger.lateSeen : Nat) : Int))
  else derived

/-- The value of a register field. -/
def trackField (s : State) (c : TrackCfg) : Int :=
  let v := field (readReg s c.reg) c.lo c.bits
  if c.signed then signedN v c.bits else v

/-- R371: a track of the image, or a fixed one, counts a sample. -/
def trackSample (k : Nat) (derived : Int) (s : State) : State :=
  if k < 8 then
    trackPut k (Config.trackRange k 0) (Config.trackRange k 1) (fixedSample s k derived)
      (setLedger (fun l => { l with lateSeen := if k = 6 then liveCnt s (MKT_CNT 10) else l.lateSeen }) s)
  else match (s.cfg.tracks.find? (fun p => decide (p.1 = k))).map (fun p => p.2) with
    | some c => trackPut k c.low c.high (trackField s c) s
    | none => s

/-- PERIOD of a track in seconds: 1 for the fixed ones. -/
def trackPeriod (s : State) (k : Nat) : Nat :=
  if k < 8 then 1
  else atLeast 1 (((s.cfg.tracks.find? (fun p => decide (p.1 = k))).map (fun p => p.2.periodS)).getD 1)

/-- A sample once PERIOD has passed since the one before it. -/
def trackTimed (k : Nat) (derived : Int) (s : State) : State :=
  if s.ticks < tget 0 s.ledger.trackDue k then s
  else
    trackSample k derived (setLedger (fun l => { l with
      trackDue := tset 0 l.trackDue k (s.ticks + trackPeriod s k * 250000000) }) s)

def execTrackSample (track : Fin 256) (derived : Int) (s : State) : Host.Outcome State Fault Refusal :=
  powered s (trackTimed track.val derived s)

/-- R371. -/
def execTrackWrite (s : State) : Host.Outcome State Fault Refusal := powered s (if tracksDue s then trackWrite s else s)

/-! Clears (R374, R375). -/

/-- RESULT codes of Table 15.5. -/
abbrev clrNO_REQUEST : Nat := 1
abbrev clrEXPIRED : Nat := 2
abbrev clrNOT_AUTHORIZED : Nat := 3
abbrev clrBUSY : Nat := 4
abbrev clrLEDGER_FAIL : Nat := 5
abbrev clrBAD_SCOPE : Nat := 6

def clrResult (r : Nat) (s : State) : State := wrF LDG_CLR_STAT 2 3 r s

/-- The request ends. -/
def clrEnd (s : State) : State := setLedger (fun l => { l with clr := .idle, clrParties := [] }) s

/-- A live request: one that CANCEL or its expiry can end. -/
def clrLive (s : State) : Bool := decide (s.ledger.clr = .awaitAuth ∨ s.ledger.clr = .authorized)

/-- 60 s have passed since the live REQUEST. -/
def clrOver (s : State) : Bool := clrLive s && decide (s.ledger.clrAt + 15000000000 ≤ s.ticks)

/-- The request expires. -/
def clrExpire (s : State) : State := clrResult clrEXPIRED (clrEnd s)

/-- REQUEST: a nonce and AWAIT_AUTH for the scope as written; a second REQUEST replaces the first (DESIGN CHOICE,
notes/assumptions/16.md). -/
def clearRequest (s : State) : State :=
  if s.ledger.fail then clrResult clrLEDGER_FAIL s
  else if s.ledger.clr = .clearing then clrResult clrBUSY s
  else if rdF s LDG_CLR_SCOPE 0 4 = 0 then clrResult clrBAD_SCOPE s
  else
    let n := BitVec.ofNat 64 (Config.crypt 0x12 [s.free])
    setLedger (fun l => { l with
        clr := .awaitAuth, clrScope := rdF s LDG_CLR_SCOPE 0 4, clrNonce := n, clrParties := [], clrAt := s.ticks })
      (drawFree s)

/-- The clear record: what the log holds is the range of an EVENTS clear. -/
def clearRecord (s : State) : ClearRec :=
  let l := s.ledger
  let r := if l.clrScope.testBit 0 then l.log else []
  { scope := l.clrScope, nonce := l.clrNonce, parties := l.clrParties,
    fromEpoch := (r.head?.map LRec.epoch).getD 0, fromSeq := (r.head?.map LRec.seq).getD 0,
    toEpoch := (r.getLast?.map LRec.epoch).getD 0, toSeq := (r.getLast?.map LRec.seq).getD 0,
    sec := taiSec s, opHours := l.opHours, pending := true }

/-- Step 6 of R375: the flush, the clear record and the mark; the erase is under way. A memory that fails in the flush
ends the clear (Table 15.7). -/
def clearBegin (during : List LEvent) (badUnits : List Nat) (s : State) : State :=
  let t := flushRun during badUnits (setLedger (fun l => { l with clr := .authorized, clrWait := false }) s)
  if t.ledger.fail then clrResult clrLEDGER_FAIL (clrEnd t)
  else
    controlRecord (setLedger (fun l => { l with
      clears := lastN 64 (l.clears ++ [clearRecord t]), clrPending := true, clr := .clearing, clrParties := [] }) t)

/-- R366: a flush that is due runs; one that a clear waits for is its step 6. -/
def flushTimed (during : List LEvent) (badUnits : List Nat) (s : State) : State :=
  if !flushDue s then s
  else if s.ledger.clrWait then clearBegin during badUnits s
  else flushRun during badUnits s

def execLedgerFlush (during : List LEvent) (badUnits : List Nat) (s : State) : Host.Outcome State Fault Refusal :=
  powered s (flushTimed during badUnits s)

/-- EXECUTE. An expiry in the same cycle comes first (Table 15.7); a flush that R361 delays leaves the clear waiting
for it. -/
def clearExecute (s : State) : State :=
  if s.ledger.fail then clrResult clrLEDGER_FAIL s
  else if clrOver s then clrExpire s
  else match s.ledger.clr with
    | .clearing => clrResult clrBUSY s
    | .idle => clrResult clrNO_REQUEST s
    | .awaitAuth => clrResult clrNOT_AUTHORIZED s
    | .authorized =>
      if flushSpaced s then clearBegin [] [] s else setLedger (fun l => { l with clr := .clearing, clrWait := true }) s

def execClearRequest (s : State) : Host.Outcome State Fault Refusal :=
  .next (hostServe .clearRequest LDG_CLR_CMD clearRequest s)

def execClearExecute (s : State) : Host.Outcome State Fault Refusal :=
  .next (hostServe .clearExecute LDG_CLR_CMD clearExecute s)

def execClearCancel (s : State) : Host.Outcome State Fault Refusal :=
  .next (hostServe .clearCancel LDG_CLR_CMD (fun t => if clrLive t then clrEnd t else t) s)

def execClearExpiry (s : State) : Host.Outcome State Fault Refusal :=
  powered s (if clrOver s then clrExpire s else s)

/-- Step 7. -/
def execClearEraseDone (s : State) : Host.Outcome State Fault Refusal :=
  powered s (if erasing s then clearFinish s else s)

/-! Last words (R378, R379). -/

/-- The block is written again when RECORDS_LOST has changed, once a second at most. -/
def lastWordsUpdate (s : State) : State :=
  match s.sentry.lastWords with
  | some x =>
    if s.ledger.fail && decide (x.lost ≠ s.ledger.recordsLost ∧ s.ledger.lwAt + 250000000 ≤ s.ticks) then
        writeLastWords x.reason x.ofs x.tick s
      else s
  | none => s

def execLastWordsUpdate (s : State) : Host.Outcome State Fault Refusal := powered s (lastWordsUpdate s)

/-- LW_ACK erases the block. -/
def lwAck (s : State) : State :=
  setLedger (fun l => { l with lwValid := false }) { s with sentry := { s.sentry with lastWords := none } }

def execLwAck (s : State) : Host.Outcome State Fault Refusal := .next (hostServe .lwAck LDG_CTRL lwAck s)

/-! Reads (R380, R381). -/

/-- The sections a read delivers: ALL is 15, and 8 to 14 act as 0. -/
def rdSections (s : State) : List Nat :=
  let n := rdF s LDG_RD_SEL 0 4
  if n = 15 then List.range 8 else if n < 8 then [n] else [0]

/-- The start point, which ALL takes as 0: SEQ and EPOCH, or the TAI seconds. -/
def rdFrom (s : State) : Nat × Nat :=
  if rdF s LDG_RD_SEL 0 4 = 15 then (0, 0) else ((rd s LDG_RD_ARG_LO).toNat, rdF s LDG_RD_ARG_HI 0 16)

/-- The bytes of each section, in order. -/
def rdContent (s : State) : List (List Nat) :=
  (rdSections s).map (fun k =>
    sectionBytes s (rdFrom s).1 (if k = 0 then (rdFrom s).2 % 256 else (rdFrom s).2) k)

/-- The records that the read has still to deliver: an overwrite of one ends it. -/
def rdTrack (s : State) : State :=
  let f := rdFrom s
  let ks := rdSections s
  setLedger (fun l => { l with
    evRead := if 0 ∈ ks then (eventsFrom (f.2 % 256) f.1 s).map (fun r => (r.epoch, r.seq)) else [],
    enRead := if 2 ∈ ks then energyFrom (f.1 + 2 ^ 32 * f.2) s else [],
    enFrom := (((ks.filter (fun k => decide (k < 2))).map (fun k => (sectionBytes s f.1 (f.2 % 256) k).length)).sum) / 8,
    packed := rdB s LDG_RD_SEL 4 }) s

/-- OPEN: LDG_RD_END takes the newest SEQ, and the window opens on what is stored now, packed through channel 2 or as
it is. A second OPEN ends the read before it. -/
def ledgerOpen (s : State) : State :=
  let cs := rdContent s
  let bs := cs.flatten
  let t := setWork 2 [] (dropEngine 2 (setLedger (fun l => { l with evRead := [], enRead := [] })
    (wr LDG_RD_END (wordOf s.ledger.seq) s)))
  if bs = [] then wr LDG_RD_STAT (wordOf rdNOT_FOUND) (openEmpty .ledger whyNOT_FOUND t)
  else
    let u := wr LDG_RD_STAT (wordOf rdFOUND) (rdTrack t)
    if rdB s LDG_RD_SEL 4 then setWork 2 (exportBlocks 2 3 (winIdx .ledger) cs) (openMore .ledger u)
    else openWindow .ledger (packWords bs.length bs) (padOf bs.length) u

def execLedgerReadOpen (s : State) : Host.Outcome State Fault Refusal :=
  .next (hostServe .ledgerReadOpen LDG_RD_CMD ledgerOpen s)

def execLedgerReadAbort (s : State) : Host.Outcome State Fault Refusal :=
  .next (hostServe .ledgerReadAbort LDG_RD_CMD ledgerAbort s)

end Sys2Proof.Machine
end

