-- ==== Sys2Proof/Machine/Dispatch.lean ====
section
/-!
DEFINITION. The meaning of every command: one arm per constructor of `Instr`.
-/

namespace Sys2Proof.Machine

open Sys2Proof

def exec (i : Instr) (s : State) : Host.Outcome State Fault Refusal :=
  match i with
  | .incrWrite who v => Sys2Proof.Machine.execIncrWrite who v s
  | .timeBlockFreeze who k => Sys2Proof.Machine.execTimeBlockFreeze who k s
  | .timeBlockRelease who => Sys2Proof.Machine.execTimeBlockRelease who s
  | .timeFreezeTimeout who => Sys2Proof.Machine.execTimeFreezeTimeout who s
  | .commitSet who => Sys2Proof.Machine.execCommitSet who s
  | .commitStep who backward => Sys2Proof.Machine.execCommitStep who backward s
  | .lockSet who => Sys2Proof.Machine.execLockSet who s
  | .holdSet who => Sys2Proof.Machine.execHoldSet who s
  | .gmChange who => Sys2Proof.Machine.execGmChange who s
  | .gmLost who => Sys2Proof.Machine.execGmLost who s
  | .gmReturn who => Sys2Proof.Machine.execGmReturn who s
  | .guardAccept who => Sys2Proof.Machine.execGuardAccept who s
  | .irigFrame f => Sys2Proof.Machine.execIrigFrame f s
  | .tqWrite who v => Sys2Proof.Machine.execTqWrite who v s
  | .cycleCompare => Sys2Proof.Machine.execCycleCompare s
  | .flywheelLimit fallbackValid => Sys2Proof.Machine.execFlywheelLimit fallbackValid s
  | .cycCfgWrite who v => Sys2Proof.Machine.execCycCfgWrite who v s
  | .scheduleFire e => Sys2Proof.Machine.execScheduleFire e s
  | .schLoad who => Sys2Proof.Machine.execSchLoad who s
  | .schStore who => Sys2Proof.Machine.execSchStore who s
  | .schDisarm who => Sys2Proof.Machine.execSchDisarm who s
  | .schDisarmAll who => Sys2Proof.Machine.execSchDisarmAll who s
  | .rxFrame port f => Sys2Proof.Machine.execRxFrame port f s
  | .pfcRefresh port => Sys2Proof.Machine.execPfcRefresh port s
  | .pfcXon port => Sys2Proof.Machine.execPfcXon port s
  | .pauseExpiry port prio => Sys2Proof.Machine.execPauseExpiry port prio s
  | .lpiEntry port => Sys2Proof.Machine.execLpiEntry port s
  | .eeeWrite who port v => Sys2Proof.Machine.execEeeWrite who port v s
  | .ringEnable who port => Sys2Proof.Machine.execRingEnable who port s
  | .ringDisable who port => Sys2Proof.Machine.execRingDisable who port s
  | .rxTail who port index bufs => Sys2Proof.Machine.execRxTail who port index bufs s
  | .txFrameEnd port => Sys2Proof.Machine.execTxFrameEnd port s
  | .tsqLatch who port => Sys2Proof.Machine.execTsqLatch who port s
  | .tsqPop who port => Sys2Proof.Machine.execTsqPop who port s
  | .portSnapshot who port clr => Sys2Proof.Machine.execPortSnapshot who port clr s
  | .portSnapshotAll who clr => Sys2Proof.Machine.execPortSnapshotAll who clr s
  | .linkChange port up anDone => Sys2Proof.Machine.execLinkChange port up anDone s
  | .ingestParse pipe => Sys2Proof.Machine.execIngestParse pipe s
  | .sourceCommandSend stream cmd queue prio => Sys2Proof.Machine.execSourceCommandSend stream cmd queue prio s
  | .streamLoad who => Sys2Proof.Machine.execStreamLoad who s
  | .latClear who => Sys2Proof.Machine.execLatClear who s
  | .clearAll who => Sys2Proof.Machine.execClearAll who s
  | .ingestSnapshot who clr => Sys2Proof.Machine.execIngestSnapshot who clr s
  | .sectionSeal instant cls => Sys2Proof.Machine.execSectionSeal instant cls s
  | .sectionClose instant cls => Sys2Proof.Machine.execSectionClose instant cls s
  | .revisionIssue instant => Sys2Proof.Machine.execRevisionIssue instant s
  | .bellWrite who cls bell => Sys2Proof.Machine.execBellWrite who cls bell s
  | .clsLoad who => Sys2Proof.Machine.execClsLoad who s
  | .clsClear who => Sys2Proof.Machine.execClsClear who s
  | .bellLearn cls => Sys2Proof.Machine.execBellLearn cls s
  | .marketSnapshot who clr => Sys2Proof.Machine.execMarketSnapshot who clr s
  | .twOpen who => Sys2Proof.Machine.execTwOpen who s
  | .twAbort who => Sys2Proof.Machine.execTwAbort who s
  | .ribOpen who => Sys2Proof.Machine.execRibOpen who s
  | .ribAbort who => Sys2Proof.Machine.execRibAbort who s
  | .syncPinEdge rising => Sys2Proof.Machine.execSyncPinEdge rising s
  | .sclSyncGo who => Sys2Proof.Machine.execSclSyncGo who s
  | .decimatorOutput ch bits => Sys2Proof.Machine.execDecimatorOutput ch bits s
  | .settlingEnd ch => Sys2Proof.Machine.execSettlingEnd ch s
  | .channelDead ch => Sys2Proof.Machine.execChannelDead ch s
  | .calApply who mask => Sys2Proof.Machine.execCalApply who mask s
  | .pqLoad who => Sys2Proof.Machine.execPqLoad who s
  | .pqStore who => Sys2Proof.Machine.execPqStore who s
  | .svGainLoad who => Sys2Proof.Machine.execSvGainLoad who s
  | .svGainStore who => Sys2Proof.Machine.execSvGainStore who s
  | .fcalLoad who ch => Sys2Proof.Machine.execFcalLoad who ch s
  | .estimateComplete ls instant => Sys2Proof.Machine.execEstimateComplete ls instant s
  | .energySave ok => Sys2Proof.Machine.execEnergySave ok s
  | .energySaveNow who => Sys2Proof.Machine.execEnergySaveNow who s
  | .energySnapshot who => Sys2Proof.Machine.execEnergySnapshot who s
  | .captureSample drained => Sys2Proof.Machine.execCaptureSample drained s
  | .dinEdge din high held => Sys2Proof.Machine.execDinEdge din high held s
  | .bellLineFall line lowNs => Sys2Proof.Machine.execBellLineFall line lowNs s
  | .bellPulseEnd line => Sys2Proof.Machine.execBellPulseEnd line s
  | .captureArm who arm => Sys2Proof.Machine.execCaptureArm who arm s
  | .captureForce who => Sys2Proof.Machine.execCaptureForce who s
  | .captureReset who => Sys2Proof.Machine.execCaptureReset who s
  | .thLvlWrite who th v => Sys2Proof.Machine.execThLvlWrite who th v s
  | .bellTest who line => Sys2Proof.Machine.execBellTest who line s
  | .recInfo who => Sys2Proof.Machine.execRecInfo who s
  | .recExport who format pack => Sys2Proof.Machine.execRecExport who format pack s
  | .recRelease who => Sys2Proof.Machine.execRecRelease who s
  | .recAbort who => Sys2Proof.Machine.execRecAbort who s
  | .captureSnapshot who clr => Sys2Proof.Machine.execCaptureSnapshot who clr s
  | .baselineSaveNow who => Sys2Proof.Machine.execBaselineSaveNow who s
  | .modeLoad who => Sys2Proof.Machine.execModeLoad who s
  | .modeShape who => Sys2Proof.Machine.execModeShape who s
  | .modeAbort who => Sys2Proof.Machine.execModeAbort who s
  | .sigLoad who sig => Sys2Proof.Machine.execSigLoad who sig s
  | .oscSnapshot who clr => Sys2Proof.Machine.execOscSnapshot who clr s
  | .statusInterTimeout point => Sys2Proof.Machine.execStatusInterTimeout point s
  | .brLoad who branch => Sys2Proof.Machine.execBrLoad who branch s
  | .busLoad who bus => Sys2Proof.Machine.execBusLoad who bus s
  | .islLoad who => Sys2Proof.Machine.execIslLoad who s
  | .islMembers who => Sys2Proof.Machine.execIslMembers who s
  | .islAbort who => Sys2Proof.Machine.execIslAbort who s
  | .topoSnapshot who clr => Sys2Proof.Machine.execTopoSnapshot who clr s
  | .gooseRetransmit pub => Sys2Proof.Machine.execGooseRetransmit pub s
  | .osCommandFrame idcode cmd srcIp srcUdp => Sys2Proof.Machine.execOsCommandFrame idcode cmd srcIp srcUdp s
  | .osLoad who => Sys2Proof.Machine.execOsLoad who s
  | .osOn who => Sys2Proof.Machine.execOsOn who s
  | .osOff who => Sys2Proof.Machine.execOsOff who s
  | .ruleLoad who => Sys2Proof.Machine.execRuleLoad who s
  | .ruleStore who => Sys2Proof.Machine.execRuleStore who s
  | .pubLoad who pub => Sys2Proof.Machine.execPubLoad who pub s
  | .xfGo who => Sys2Proof.Machine.execXfGo who s
  | .xfAbort who => Sys2Proof.Machine.execXfAbort who s
  | .qPush who q v => Sys2Proof.Machine.execQPush who q v s
  | .qCommit who q prio len => Sys2Proof.Machine.execQCommit who q prio len s
  | .qCommitLand q => Sys2Proof.Machine.execQCommitLand q s
  | .qDiscard who q => Sys2Proof.Machine.execQDiscard who q s
  | .qPop q => Sys2Proof.Machine.execQPop q s
  | .qFlush who q => Sys2Proof.Machine.execQFlush who q s
  | .txStart port cls => Sys2Proof.Machine.execTxStart port cls s
  | .egressSnapshot who clr => Sys2Proof.Machine.execEgressSnapshot who clr s
  | .jobPack who blockKib input => Sys2Proof.Machine.execJobPack who blockKib input s
  | .jobUnpack who blockKib input => Sys2Proof.Machine.execJobUnpack who blockKib input s
  | .jobRaw who blockKib input => Sys2Proof.Machine.execJobRaw who blockKib input s
  | .jobFlush who consumed => Sys2Proof.Machine.execJobFlush who consumed s
  | .jobAbort who => Sys2Proof.Machine.execJobAbort who s
  | .packerSnapshot who clr => Sys2Proof.Machine.execPackerSnapshot who clr s
  | .postInstruction core target => Sys2Proof.Machine.execPostInstruction core target s
  | .hostPost thread => Sys2Proof.Machine.execHostPost thread s
  | .hostCancel thread withPost => Sys2Proof.Machine.execHostCancel thread withPost s
  | .tickTimeout thread => Sys2Proof.Machine.execTickTimeout thread s
  | .threadWait core timeout => Sys2Proof.Machine.execThreadWait core timeout s
  | .threadFault core => Sys2Proof.Machine.execThreadFault core s
  | .wdogKick who => Sys2Proof.Machine.execWdogKick who s
  | .machineCheck core customer => Sys2Proof.Machine.execMachineCheck core customer s
  | .hostRestart who key => Sys2Proof.Machine.execHostRestart who key s
  | .deckRestartDone verified version => Sys2Proof.Machine.execDeckRestartDone verified version s
  | .pcEn who set on => Sys2Proof.Machine.execPcEn who set on s
  | .pcFreeze who set on => Sys2Proof.Machine.execPcFreeze who set on s
  | .pcClear who set => Sys2Proof.Machine.execPcClear who set s
  | .pcSelWrite who sel v => Sys2Proof.Machine.execPcSelWrite who sel v s
  | .pcSmode who core mode => Sys2Proof.Machine.execPcSmode who core mode s
  | .preciseSample core addr latency => Sys2Proof.Machine.execPreciseSample core addr latency s
  | .w2winOpen core addr => Sys2Proof.Machine.execW2winOpen core addr s
  | .w2winClose core cycles retired wasted front mask => Sys2Proof.Machine.execW2winClose core cycles retired wasted front mask s
  | .thLoad who thread => Sys2Proof.Machine.execThLoad who thread s
  | .schedSnapshot who clr => Sys2Proof.Machine.execSchedSnapshot who clr s
  | .memCorrection region addr channel lane target => Sys2Proof.Machine.execMemCorrection region addr channel lane target s
  | .memUe region addr target => Sys2Proof.Machine.execMemUe region addr target s
  | .patrolRead region r => Sys2Proof.Machine.execPatrolRead region r s
  | .memSnapshot who clr => Sys2Proof.Machine.execMemSnapshot who clr s
  | .ledgerEvent e => Sys2Proof.Machine.execLedgerEvent e s
  | .ledgerFlush during badUnits => Sys2Proof.Machine.execLedgerFlush during badUnits s
  | .flushNow who => Sys2Proof.Machine.execFlushNow who s
  | .trackSample track derived => Sys2Proof.Machine.execTrackSample track derived s
  | .refLatch who => Sys2Proof.Machine.execRefLatch who s
  | .calReadFreeze who k => Sys2Proof.Machine.execCalReadFreeze who k s
  | .calReadRelease who => Sys2Proof.Machine.execCalReadRelease who s
  | .calFreezeTimeout who => Sys2Proof.Machine.execCalFreezeTimeout who s
  | .calCommit who => Sys2Proof.Machine.execCalCommit who s
  | .derive who => Sys2Proof.Machine.execDerive who s
  | .generate who pairOk => Sys2Proof.Machine.execGenerate who pairOk s
  | .unwrap who ok => Sys2Proof.Machine.execUnwrap who ok s
  | .wrap who => Sys2Proof.Machine.execWrap who s
  | .destroy who => Sys2Proof.Machine.execDestroy who s
  | .encrypt who more => Sys2Proof.Machine.execEncrypt who more s
  | .decrypt who more tagOk => Sys2Proof.Machine.execDecrypt who more tagOk s
  | .hmac who more => Sys2Proof.Machine.execHmac who more s
  | .sign who => Sys2Proof.Machine.execSign who s
  | .verify who ok => Sys2Proof.Machine.execVerify who ok s
  | .ecdh who => Sys2Proof.Machine.execEcdh who s
  | .hash who more => Sys2Proof.Machine.execHash who more s
  | .random who => Sys2Proof.Machine.execRandom who s
  | .pubkey who => Sys2Proof.Machine.execPubkey who s
  | .attest who => Sys2Proof.Machine.execAttest who s
  | .gkMap who => Sys2Proof.Machine.execGkMap who s
  | .gkUnmap who => Sys2Proof.Machine.execGkUnmap who s
  | .authReq who => Sys2Proof.Machine.execAuthReq who s
  | .auth who ok => Sys2Proof.Machine.execAuth who ok s
  | .zeroize who => Sys2Proof.Machine.execZeroize who s
  | .enrol who cert certOk => Sys2Proof.Machine.execEnrol who cert certOk s
  | .calEnrol who => Sys2Proof.Machine.execCalEnrol who s
  | .purge who => Sys2Proof.Machine.execPurge who s
  | .tillOpTimeout deck => Sys2Proof.Machine.execTillOpTimeout deck s
  | .tamperTrip sources => Sys2Proof.Machine.execTamperTrip sources s
  | .keyExpiry slot => Sys2Proof.Machine.execKeyExpiry slot s
  | .authRequestExpiry op => Sys2Proof.Machine.execAuthRequestExpiry op s
  | .gkExpiring entry => Sys2Proof.Machine.execGkExpiring entry s
  | .slotLoad who slot => Sys2Proof.Machine.execSlotLoad who slot s
  | .gkLoad who entry => Sys2Proof.Machine.execGkLoad who entry s
  | .rxHeartbeat link h hb => Sys2Proof.Machine.execRxHeartbeat link h hb s
  | .rxDigest link h entries => Sys2Proof.Machine.execRxDigest link h entries s
  | .rxLedger link h records => Sys2Proof.Machine.execRxLedger link h records s
  | .rxEnergy link h save => Sys2Proof.Machine.execRxEnergy link h save s
  | .rxHealth link h report => Sys2Proof.Machine.execRxHealth link h report s
  | .rxResyncReq link h => Sys2Proof.Machine.execRxResyncReq link h s
  | .rxResyncData link h d => Sys2Proof.Machine.execRxResyncData link h d s
  | .rxCredit link h => Sys2Proof.Machine.execRxCredit link h s
  | .rxLinkInit link h => Sys2Proof.Machine.execRxLinkInit link h s
  | .shroudLinkChange link up => Sys2Proof.Machine.execShroudLinkChange link up s
  | .leaseWrite who v => Sys2Proof.Machine.execLeaseWrite who v s
  | .leaseDrop who => Sys2Proof.Machine.execLeaseDrop who s
  | .rxGrant m => Sys2Proof.Machine.execRxGrant m s
  | .rxRenewed m => Sys2Proof.Machine.execRxRenewed m s
  | .rxDeny m reason => Sys2Proof.Machine.execRxDeny m reason s
  | .clerkRxRequest m => Sys2Proof.Machine.execClerkRxRequest m s
  | .clerkRxRenew m => Sys2Proof.Machine.execClerkRxRenew m s
  | .clerkRxRelease m => Sys2Proof.Machine.execClerkRxRelease m s
  | .digestUncompared inst => Sys2Proof.Machine.execDigestUncompared inst s
  | .pairSnapshot who clr => Sys2Proof.Machine.execPairSnapshot who clr s
  | .nodeStart x => Sys2Proof.Machine.execNodeStart x s
  | .botVerify who bank => Sys2Proof.Machine.execBotVerify who bank s
  | .bankVerifyDone check img => Sys2Proof.Machine.execBankVerifyDone check img s
  | .botErase who bank => Sys2Proof.Machine.execBotErase who bank s
  | .activateFw who bank force check => Sys2Proof.Machine.execActivateFw who bank force check s
  | .activateFull who bank force check => Sys2Proof.Machine.execActivateFull who bank force check s
  | .activationResumption hashOk => Sys2Proof.Machine.execActivationResumption hashOk s
  | .svcInfo h => Sys2Proof.Machine.execSvcInfo h s
  | .svcErase h bank => Sys2Proof.Machine.execSvcErase h bank s
  | .svcWrite h bank ofs data => Sys2Proof.Machine.execSvcWrite h bank ofs data s
  | .svcVerify h bank => Sys2Proof.Machine.execSvcVerify h bank s
  | .svcActivate h cmd check => Sys2Proof.Machine.execSvcActivate h cmd check s
  | .svcTill h code args mbox cert ok => Sys2Proof.Machine.execSvcTill h code args mbox cert ok s
  | .svcReboot h bank => Sys2Proof.Machine.execSvcReboot h bank s
  | .svcLog h ofs => Sys2Proof.Machine.execSvcLog h ofs s
  | .powerUp fail => Sys2Proof.Machine.execPowerUp fail s
  | .railRetry fail => Sys2Proof.Machine.execRailRetry fail s
  | .railMeasure rails vin iin pmw vstore => Sys2Proof.Machine.execRailMeasure rails vin iin pmw vstore s
  | .sensorReading temp => Sys2Proof.Machine.execSensorReading temp s
  | .furl who key => Sys2Proof.Machine.execFurl who key s
  | .powerResumption version => Sys2Proof.Machine.execPowerResumption version s
  | .railLoad who rail => Sys2Proof.Machine.execRailLoad who rail s
  | .linkReset kind => Sys2Proof.Machine.execLinkReset kind s
  | .eoi vector => Sys2Proof.Machine.execEoi vector s
  | .msixTableWrite vector w v => Sys2Proof.Machine.execMsixTableWrite vector w v s
  | .lowWordRead ofs => Sys2Proof.Machine.execLowWordRead ofs s
  | .windowRead w r poison => Sys2Proof.Machine.execWindowRead w r poison s
  | .winOpen w => Sys2Proof.Machine.execWinOpen w s
  | .winAbort w => Sys2Proof.Machine.execWinAbort w s
  | .registerWrite who ofs be v => Sys2Proof.Machine.execRegisterWrite who ofs be v s
  | .holdoverLimitCrossed sec => Sys2Proof.Machine.execHoldoverLimitCrossed sec s
  | .rxLpiEntry port enter => Sys2Proof.Machine.execRxLpiEntry port enter s
  | .rxReadyCoalesce port => Sys2Proof.Machine.execRxReadyCoalesce port s
  | .deadClear ch => Sys2Proof.Machine.execDeadClear ch s
  | .storeChargeDone cf => Sys2Proof.Machine.execStoreChargeDone cf s
  | .pcOvf c => Sys2Proof.Machine.execPcOvf c s
  | .unsupportedRequest ofs len write => Sys2Proof.Machine.execUnsupportedRequest ofs len write s
  | .clearOnRead who ch => Sys2Proof.Machine.execClearOnRead who ch s
  | .noIncrementTimeout => Sys2Proof.Machine.execNoIncrementTimeout s
  | .leapApplied => Sys2Proof.Machine.execLeapApplied s
  | .ppsEdge => Sys2Proof.Machine.execPpsEdge s
  | .ppsMissing => Sys2Proof.Machine.execPpsMissing s
  | .cycleReferenceLost why => Sys2Proof.Machine.execCycleReferenceLost why s
  | .kernelTick => Sys2Proof.Machine.execKernelTick s
  | .latAged => Sys2Proof.Machine.execLatAged s
  | .tableauOpen => Sys2Proof.Machine.execTableauOpen s
  | .place => Sys2Proof.Machine.execPlace s
  | .syncApply => Sys2Proof.Machine.execSyncApply s
  | .bootSyncStore => Sys2Proof.Machine.execBootSyncStore s
  | .bootSyncFallback => Sys2Proof.Machine.execBootSyncFallback s
  | .intervalEnd => Sys2Proof.Machine.execIntervalEnd s
  | .supplyCheck => Sys2Proof.Machine.execSupplyCheck s
  | .ahSave => Sys2Proof.Machine.execAhSave s
  | .bellTestDrive => Sys2Proof.Machine.execBellTestDrive s
  | .baselineSave => Sys2Proof.Machine.execBaselineSave s
  | .xfDatagram => Sys2Proof.Machine.execXfDatagram s
  | .composerEnqueue => Sys2Proof.Machine.execComposerEnqueue s
  | .osItemAbandon => Sys2Proof.Machine.execOsItemAbandon s
  | .packerBlockStart => Sys2Proof.Machine.execPackerBlockStart s
  | .packerBlockDone => Sys2Proof.Machine.execPackerBlockDone s
  | .postApply => Sys2Proof.Machine.execPostApply s
  | .wdogExpiry => Sys2Proof.Machine.execWdogExpiry s
  | .deckFailed => Sys2Proof.Machine.execDeckFailed s
  | .trackWrite => Sys2Proof.Machine.execTrackWrite s
  | .clearRequest => Sys2Proof.Machine.execClearRequest s
  | .clearExecute => Sys2Proof.Machine.execClearExecute s
  | .clearCancel => Sys2Proof.Machine.execClearCancel s
  | .clearExpiry => Sys2Proof.Machine.execClearExpiry s
  | .clearEraseDone => Sys2Proof.Machine.execClearEraseDone s
  | .lastWordsUpdate => Sys2Proof.Machine.execLastWordsUpdate s
  | .lwAck => Sys2Proof.Machine.execLwAck s
  | .ledgerReadOpen => Sys2Proof.Machine.execLedgerReadOpen s
  | .ledgerReadAbort => Sys2Proof.Machine.execLedgerReadAbort s
  | .vbatSwitch => Sys2Proof.Machine.execVbatSwitch s
  | .sentryLoss => Sys2Proof.Machine.execSentryLoss s
  | .calSecond => Sys2Proof.Machine.execCalSecond s
  | .tillCommandDone => Sys2Proof.Machine.execTillCommandDone s
  | .heartbeatSend => Sys2Proof.Machine.execHeartbeatSend s
  | .peerLost => Sys2Proof.Machine.execPeerLost s
  | .leaseExpiry => Sys2Proof.Machine.execLeaseExpiry s
  | .clerkRenew => Sys2Proof.Machine.execClerkRenew s
  | .clerkRequest => Sys2Proof.Machine.execClerkRequest s
  | .clerkLost => Sys2Proof.Machine.execClerkLost s
  | .clerkQuietEnd => Sys2Proof.Machine.execClerkQuietEnd s
  | .digestFrameSend => Sys2Proof.Machine.execDigestFrameSend s
  | .healthSend => Sys2Proof.Machine.execHealthSend s
  | .resyncDone => Sys2Proof.Machine.execResyncDone s
  | .failCntClear => Sys2Proof.Machine.execFailCntClear s
  | .trialConfirm => Sys2Proof.Machine.execTrialConfirm s
  | .bankEraseDone => Sys2Proof.Machine.execBankEraseDone s
  | .powerFail => Sys2Proof.Machine.execPowerFail s
  | .furlLatchClear => Sys2Proof.Machine.execFurlLatchClear s
  | .holdupEnd => Sys2Proof.Machine.execHoldupEnd s
  | .heldWriteDrop => Sys2Proof.Machine.execHeldWriteDrop s
  | .d3hotEntry => Sys2Proof.Machine.execD3hotEntry s

end Sys2Proof.Machine
end

