-- ==== Sys2Proof/Machine/Tick.lean ====
section
/-!
DEFINITION. What a MAST tick of 4 ns does when no command waits (notes/assumptions/27.md): the counters of time go on, and host accesses
that were held are offered again.
-/

namespace Sys2Proof.Machine

open Sys2Proof

/-- The TAI counter adds MST_INCR (R27). -/
def taiTick (s : State) : State :=
  { s with
    ticks := s.ticks + 1, tai := taiWrap (s.tai + (rd s MST_INCR).toNat),
    scales := { s.scales with modTime := s.scales.modTime + (rd s MST_INCR).toNat } }

/-- The frequency goes toward its target by no more than SLEW Hz/s (R53): 4 nHz a tick for each Hz/s. -/
def slewed (s : State) : Nat :=
  let c := s.mast.cyc
  let d := 4 * atLeast 1 (rdF s MST_CYC_CFG 11 5)
  if c.freq < c.target then min c.target (c.freq + d) else max c.target (c.freq - d)

/-- The cycle clock's angle, in 2^-64 turn, advances by its frequency; its cycles count (R51, R53). -/
def cycleTick (s : State) : State :=
  let c := s.mast.cyc
  let a := c.angle + slewed s * 4 * 2 ^ 64 / 10 ^ 18
  { s with mast := { s.mast with cyc := { c with
      angle := a % 2 ^ 64, count := (c.count + a / 2 ^ 64) % 2 ^ 32, era := c.era + (c.count + a / 2 ^ 64) / 2 ^ 32,
      freq := slewed s } } }

/-- Seconds of HOLDOVER or HELD (R48). -/
def holdTickStep (s : State) : State :=
  if s.mast.st = .holdover ∨ s.mast.st = .held then
    if s.mast.holdTick + 1 < 250000000 then { s with mast := { s.mast with holdTick := s.mast.holdTick + 1 } }
    else updateHoldExc { s with mast := { s.mast with holdTick := 0, holdSec := min (s.mast.holdSec + 1) 0xFFFFFFFF } }
  else s

/-- SHR_MONO (R418), and the microseconds in which a Shroud frame waits for credits. -/
def monoTick (s : State) : State :=
  let t := setPair (fun p => { p with mono := s.ticks / 250 % 2 ^ 32 }) s
  if s.ticks % 250 = 0 ∧ [0, 1].any (fun l => decide ((shroud s l).waits ≠ [])) = true then shrCount 7 1 t else t

/-- What a live count gained since the last tick; one that a snapshot cleared starts again from 0. -/
def liveGain (s : State) (k : Nat) : Nat :=
  let a := tget 0 s.live k
  let b := tget 0 s.deck.seen k
  if a < b then a else a - b

/-- The live counts that make up an event of Table 13.9. -/
def dpKeys (e : Nat) : List Nat :=
  if e = 0x101 then [ING_PIPE 0, ING_PIPE 2, ING_PIPE 4, ING_PIPE 6]
  else if 0x102 ≤ e ∧ e ≤ 0x105 then [ING_PIPE (2 * (e - 0x102))]
  else if e = 0x110 then [MKT_CNT 8]
  else if e = 0x111 then [MKT_CNT 10]
  else if e = 0x112 then [MKT_CNT 4]
  else if e = 0x120 then [EGR_CNT 0]
  else if e = 0x121 then (List.range 6).map (fun k => EGR_CNT (2 * k + 2))
  else if e = 0x123 then [EGR_CNT 14]
  else if e = 0x130 then [NST_OSC_CNT 2]
  else if e = 0x131 then [NST_OSC_CNT 0]
  else if e = 0x142 then (List.range 10).map (fun r => MEM_CNT r 0)
  else if e = 0x150 then [PAK_CNT 6]
  else if e = 0x151 then [PAK_CNT 8]
  else if e = 0x190 then [CTL_SCH_CNT 0]
  else if e = 0x191 then [CTL_SCH_CNT 10]
  else [e]

/-- The CORE cycles, four a tick, that an event of Table 13.9 covers. -/
def dpCycles (s : State) (e : Nat) : Bool :=
  decide (e = 0x100) || (decide (e = 0x106) && (List.range 4).any (fun k => decide (32 ≤ (fifo s k).length)))
    || (decide (e = 0x122) && decide (s.egr.waits ≠ [])) || (decide (e = 0x161) && s.till.running.isSome)

/-- What data-path event `e` adds at a tick; a number that Table 13.9 does not list adds nothing (R346). -/
def dpGain (s : State) (e : Nat) : Nat :=
  if e < 0x100 ∨ 0x200 ≤ e then 0 else if dpCycles s e then 4 else ((dpKeys e).map (liveGain s)).sum

/-- What core event `e` adds at a tick, of those that do not rest on the instructions a core executes (R346). -/
def coreGain (s : State) (c e : Nat) : Nat :=
  if e = 0x001 then 6
  else if e = 0x044 then (if (runningOn s c).isNone then 6 else 0)
  else if e = 0x043 then (if s.deck.held.any (fun p => decide (p.1 = .instr c)) then 6 else 0)
  else if e = 0x041 ∨ e = 0x042 then liveGain s (coreEvent c e)
  else 0

/-- A counter takes `n` events. -/
def pcTake (c : PcCounter) (n : Nat) (s : State) : State := if n = 0 then s else pcAdd c n s

/-- The thread filter of a core's event counter (R346). -/
def pcThread (s : State) (c k : Nat) : Bool :=
  !rdB s (CTL_PC_SEL c k) 24 || decide (runningOn s c = some (rdF s (CTL_PC_SEL c k) 16 8))

/-- A core's counters at a tick: CYC and the event counters; with KERNEL clear none counts while a firmware thread runs. -/
def pcCore (c : Fin 4) (s : State) : State :=
  let firmware := match runningOn s c.val with
    | some k => decide (k < 64)
    | none => false
  if pcCounting s (.core c) && (rdB s (CTL_PC_CTRL c.val) 8 || !firmware) then
    (List.finRange 8).foldl (fun u k =>
      if pcThread s c.val k.val then
        pcTake (.core c ⟨k.val, by omega⟩) (coreGain s c.val (rdF s (CTL_PC_SEL c.val k.val) 0 10)) u
      else u) (pcAdd (.core c 8) 6 s)
  else s

/-- The data path's counters at a tick. -/
def pcDataPath (s : State) : State :=
  if pcCounting s .dataPath then
    (List.finRange 32).foldl (fun u k => pcTake (.dataPath k) (dpGain s (rdF s (CTL_DP_SEL k.val) 0 10)) u) s
  else s

/-- The Deck's cycles, six a tick: those with a post held (R334), and what the performance counters take (R345, R346). -/
def deckTick (s : State) : State :=
  let t := if s.deck.held ≠ [] then count (CTL_SCH_CNT 10) 6 s else s
  let u := pcDataPath ((List.finRange 4).foldl (fun u c => pcCore c u) t)
  { u with deck := { u.deck with seen := u.live } }

/-- OP_HOURS, in 1/16 h (R370). -/
def hoursTick (s : State) : State :=
  if s.ticks % 56250000000 = 0 then
    { s with ledger := { s.ledger with opHours := (s.ledger.opHours + 1) % 2 ^ 32 } }
  else s

/-- The crystal: 4 ns are 256 of the 1,953,125 parts of its period. -/
def crystalTick (s : State) : State :=
  if s.sentry.dead then s
  else if s.sentry.phase + 256 < 1953125 then setSentry (fun x => { x with phase := x.phase + 256 }) s
  else sentryTick (setSentry (fun x => { x with phase := x.phase + 256 - 1953125 }) s)

/-- A tick: the die's clocks stop in Furled, the crystal does not. -/
def tick (s : State) : State :=
  crystalTick (if s.power.st = .furled then s else hoursTick (deckTick (monoTick (holdTickStep (cycleTick (taiTick s))))))

/-- With no command waiting: the held accesses, which `run` carries out, and a tick. -/
def idle (run : Instr → State → State) (s : State) : State := tick (hostRetry run s)

end Sys2Proof.Machine
end

