-- ==== Sys2Proof/Machine/Step.lean ====
section
/-!
DEFINITION. One step: the command at the front of the queue runs with the queue's rest, and with none waiting the block's time goes
on by a tick (notes/assumptions/27.md).
-/

namespace Sys2Proof.Machine

open Sys2Proof

/-- A command's effect as a function of states: every command answers a next state (the lemmas Keeps*.lean under Laws/). -/
def run (i : Instr) (s : State) : State :=
  match exec i s with
  | .next t => t
  | .fault _ => s
  | .refused _ => s

def step (s : State) : Host.Outcome State Fault Refusal :=
  match s.pending with
  | [] => .next (idle run s)
  | c :: r => exec c { s with pending := r }

/-- The command that the word spells comes first; a word that spells none leaves the state. -/
def State.withFetchWord (s : State) (nbits w : Nat) : State :=
  match decodeTableWord nbits w with
  | some c => { s with pending := c :: s.pending }
  | none => s

end Sys2Proof.Machine
end

