-- ==== Sys2Proof/Safety.lean ====
section
/-!
DEFINITION. What a safe run keeps: the terms in which the whole-machine statements are made.
-/

namespace Sys2Proof.Machine

open Sys2Proof

/-- The register file and the live counters are in canonical form: keys strictly rising, and no entry equal to what an
unlisted key reads as. -/
def TablesWf (s : State) : Prop := mapWf regReset s.regs = true ∧ twf 0 s.live = true

/-- From `s` to `t` the queue of waiting commands stays, what was handed to the outside stays handed, no free value's
number is used again, and the tables stay canonical. -/
structure Keeps (s t : State) : Prop where
  queue : t.pending = s.pending
  out : s.out <+: t.out
  free : s.free ≤ t.free
  tables : TablesWf s → TablesWf t

/-- The access at byte offset `ofs` is served at once: the block there answers, and no write of the host is held
before a host's access (R465, R472, R474). -/
def Served (who : Req) (ofs : Nat) (s : State) : Prop :=
  responds s ofs = true ∧ (who = .host → s.host.d3hot = false ∧ s.host.held = [])

/-- The state in which a served access acts: a host's access ends the shadow of R476. -/
def accessed (who : Req) (s : State) : State :=
  match who with
  | .host => { s with host := { s.host with shadow := none } }
  | .deck _ => s

/-- The command answers a next state of which `P` holds. -/
def Completes (c : Instr) (s : State) (P : State → Prop) : Prop := ∃ t, exec c s = .next t ∧ P t

/-- The parts of the state. -/
inductive Part where
  | regs | live | ticks | tai | free | mast | host | deck | ports | ing | mkt | scales | cap | pak | nest | egr | pair | till | mem
  | ledger | sentry | boot | power | nodeOk | cfg | out | pending
  deriving DecidableEq, Repr

/-- A part is the same in two states. -/
def Part.same (s t : State) : Part → Prop
  | .regs => t.regs = s.regs
  | .live => t.live = s.live
  | .ticks => t.ticks = s.ticks
  | .tai => t.tai = s.tai
  | .free => t.free = s.free
  | .mast => t.mast = s.mast
  | .host => t.host = s.host
  | .deck => t.deck = s.deck
  | .ports => t.ports = s.ports
  | .ing => t.ing = s.ing
  | .mkt => t.mkt = s.mkt
  | .scales => t.scales = s.scales
  | .cap => t.cap = s.cap
  | .pak => t.pak = s.pak
  | .nest => t.nest = s.nest
  | .egr => t.egr = s.egr
  | .pair => t.pair = s.pair
  | .till => t.till = s.till
  | .mem => t.mem = s.mem
  | .ledger => t.ledger = s.ledger
  | .sentry => t.sentry = s.sentry
  | .boot => t.boot = s.boot
  | .power => t.power = s.power
  | .nodeOk => t.nodeOk = s.nodeOk
  | .cfg => t.cfg = s.cfg
  | .out => t.out = s.out
  | .pending => t.pending = s.pending

/-- From `s` to `t` nothing changes outside the parts `ps`. -/
structure Within (ps : List Part) (s t : State) : Prop where
  same : ∀ p, p ∉ ps → p.same s t

/-- A set of registers: `words` consecutive ones at `base`, and again at each of `count` places `step` apart (0:
without end). -/
structure RegSet where
  base : Nat
  step : Nat
  count : Nat
  words : Nat
  deriving DecidableEq, Repr

/-- The offset is one of the set's. -/
def RegSet.has (f : RegSet) (a : Nat) : Prop := ∃ i k, (f.count = 0 ∨ i < f.count) ∧ k < f.words ∧ a = f.base + f.step * i + 4 * k

/-- One register. -/
def reg (a : Nat) : RegSet := ⟨a, 0, 1, 1⟩

/-- `n` consecutive registers. -/
def regRun (a n : Nat) : RegSet := ⟨a, 0, 1, n⟩

/-- A register of each of `n` ports, channels or entries; `f` is its place in the entry with a number. -/
def regFam (f : Nat → Nat) (n : Nat) : RegSet := ⟨f 0, f 1 - f 0, n, 1⟩

/-- `w` consecutive registers of each of `n` entries. -/
def regFams (f : Nat → Nat) (n w : Nat) : RegSet := ⟨f 0, f 1 - f 0, n, w⟩

/-- From `s` to `t` no register changes but those of the sets `l`. -/
structure OnlyRegs (l : List RegSet) (s t : State) : Prop where
  same : ∀ a, (∀ f ∈ l, ¬ f.has a) → rd t a = rd s a

/-- Every register may change. -/
def anyReg : RegSet := ⟨0, 1, 0, 1⟩

/-- What a command may change: the parts of the state, and the registers. -/
structure Touched where
  parts : List Part
  regs : List RegSet
  deriving DecidableEq, Repr

/-- What each command may change: the effect that the rules give it, and what that effect brings about by the rules
that tie units together (an interrupt's line and its scheduler trigger, an event of the Ledger, an alarm, an item of
an egress queue, the access that ends a shadow or waits behind a held write). The operands may narrow it further. -/
def touched (c : Instr) : Touched :=
  match c with
  | .incrWrite .. =>
    ⟨[.regs, .mast, .host, .deck, .out], [reg CTL_INT, reg MST_INCR, reg MST_INT]⟩
  | .timeBlockFreeze .. | .timeBlockRelease .. =>
    ⟨[.mast, .host, .out], []⟩
  | .timeFreezeTimeout .. | .flywheelLimit .. | .holdoverLimitCrossed .. =>
    ⟨[.mast], []⟩
  | .commitSet .. | .commitStep .. =>
    ⟨[.regs, .live, .tai, .free, .mast, .host, .deck, .ports, .ing, .mkt, .scales, .cap, .nest, .egr, .ledger, .out], [reg CTL_INT,
      reg EGR_ALSEQ, reg EGR_INT, reg EGR_QINT, reg LDG_INT, reg MKT_INT, reg MKT_TW_STAT, reg MST_INT, reg NST_TOP_INT, reg
      SCL_STATUS, regFam LDG_DROP 8, regRun (NST_SPLIT_W 0) 4]⟩
  | .lockSet .. =>
    ⟨[.regs, .live, .mast, .host, .deck, .ports, .egr, .out], [reg CTL_INT, reg EGR_INT, reg EGR_QINT]⟩
  | .holdSet .. | .gmChange .. | .gmLost .. | .gmReturn .. | .guardAccept .. | .noIncrementTimeout =>
    ⟨[.regs, .live, .mast, .host, .deck, .ports, .egr, .out], [reg CTL_INT, reg EGR_INT, reg EGR_QINT, reg MST_INT]⟩
  | .irigFrame .. =>
    ⟨[.regs, .mast], [reg MST_IRIG_SEC, reg MST_IRIG_STAT]⟩
  | .tqWrite .. =>
    ⟨[.mast, .host], []⟩
  | .cycleCompare =>
    ⟨[.regs, .free, .mast, .host, .deck, .out], [reg CTL_INT, reg MST_INT]⟩
  | .cycCfgWrite .. =>
    ⟨[.regs, .mast, .host, .deck, .out], [reg CTL_INT, reg MST_CYC_CFG, reg MST_INT]⟩
  | .scheduleFire .. =>
    ⟨[.regs, .mast, .host, .deck, .scales, .cap, .out], [reg CTL_INT, reg MST_INT]⟩
  | .schLoad .. =>
    ⟨[.regs, .host], [reg MST_SCH_STAT, regRun (MST_SCH_W 0) 6]⟩
  | .schStore .. =>
    ⟨[.regs, .mast, .host, .deck, .scales, .cap, .out], [reg CTL_INT, reg MST_INT, reg MST_SCH_STAT]⟩
  | .schDisarm .. | .schDisarmAll .. =>
    ⟨[.regs, .mast, .host], [reg MST_SCH_STAT]⟩
  | .rxFrame .. =>
    ⟨[.regs, .live, .host, .deck, .ports, .ing, .out], [reg CTL_INT, reg ING_INT, regFam PRT_INT 64, regFam PRT_RX_HEAD 64, regFam
      PRT_TSQ_STAT 64]⟩
  | .pfcRefresh .. | .pfcXon .. =>
    ⟨[.live, .ports, .out], []⟩
  | .pauseExpiry .. | .lpiEntry .. | .rxLpiEntry .. =>
    ⟨[.live, .ports], []⟩
  | .eeeWrite .. =>
    ⟨[.regs, .host, .deck, .out], [reg CTL_INT, regFam PRT_EEE 64, regFam PRT_INT 64]⟩
  | .ringEnable .. =>
    ⟨[.regs, .host, .ports], [regFam PRT_RX_CTRL 64, regFam PRT_RX_HEAD 64, regFam PRT_RX_TAIL 64]⟩
  | .ringDisable .. =>
    ⟨[.regs, .host], [regFam PRT_RX_CTRL 64]⟩
  | .rxTail .. =>
    ⟨[.regs, .host, .ports], [regFam PRT_RX_TAIL 64]⟩
  | .txFrameEnd .. =>
    ⟨[.regs, .live, .host, .deck, .ports, .out], [reg CTL_INT, regFam PRT_INT 64, regFam PRT_TSQ_STAT 64]⟩
  | .tsqLatch .. | .tsqPop .. =>
    ⟨[.host, .ports, .out], []⟩
  | .portSnapshot .. =>
    ⟨[.regs, .live, .host, .deck, .ports, .out], [reg CTL_INT, regFam PRT_INT 64, regFam PRT_SNAP_NS 64, regFam PRT_SNAP_SEC 64,
      regFam PRT_SNAP_SEQ 64, regFams (fun i => PRT_STAT i 0) 64 96]⟩
  | .portSnapshotAll .. =>
    ⟨[.regs, .live, .mast, .host, .deck, .ports, .out], [reg CTL_INT, regFam PRT_INT 64, regFam PRT_SNAP_NS 64, regFam PRT_SNAP_SEC
      64, regFam PRT_SNAP_SEQ 64, regFams (fun i => PRT_STAT i 0) 64 96]⟩
  | .linkChange .. =>
    ⟨[.regs, .live, .host, .deck, .ports, .out], [reg CTL_INT, regFam PRT_INT 64]⟩
  | .ingestParse .. =>
    ⟨[.regs, .live, .free, .host, .deck, .ports, .ing, .mkt, .scales, .cap, .pair, .ledger, .out], [reg (ING_UNK 0), reg (ING_UNK
      1), reg CTL_INT, reg ING_INT, reg LDG_INT, reg LDG_RD_STAT, reg SCL_EN_INT, reg SCL_EN_SAVE, reg SCL_EN_SAVE_STAT, reg
      SCL_EN_STATUS, reg SCL_INT, regFam LDG_DROP 8, regFam PT_P 8, regFam PT_Q 8, regFam PT_STAT 8, ⟨PRT_INT 0, 0x400, 0, 1⟩,
      ⟨PRT_RX_HEAD 0, 0x400, 0, 1⟩, ⟨PRT_TSQ_STAT 0, 0x400, 0, 1⟩]⟩
  | .sourceCommandSend .. =>
    ⟨[.regs, .live, .host, .deck, .ports, .ing, .egr, .out], [reg CTL_INT, reg EGR_QINT]⟩
  | .streamLoad .. =>
    ⟨[.regs, .host], [reg ING_STREAM_STAT, regRun (ING_HIST 0) 48, regRun (ING_STREAM_W 0) 8]⟩
  | .latClear .. | .clearAll .. =>
    ⟨[.host, .ing], []⟩
  | .ingestSnapshot .. =>
    ⟨[.regs, .live, .host, .deck, .out], [reg CTL_INT, reg ING_INT, reg ING_SNAP_SEQ, regRun (ING_PIPE 0) 8, regRun (ING_REJ 0) 34]⟩
  | .sectionSeal .. | .sectionClose .. =>
    ⟨[.regs, .live, .free, .mast, .host, .deck, .ports, .ing, .mkt, .cap, .nest, .egr, .pair, .ledger, .out], [reg CTL_INT, reg
      EGR_ALSEQ, reg EGR_INT, reg EGR_QINT, reg LDG_INT, reg MKT_INT, reg MKT_TW_STAT, reg MST_INT, reg NST_ISL_SUSP, reg NST_ISL_THR,
      reg NST_OSC_INT, reg NST_THR_FAST, reg NST_TOP_INT, reg SHR_INT, regFam LDG_DROP 8, regRun (NST_SPLIT_W 0) 4]⟩
  | .revisionIssue .. =>
    ⟨[.regs, .live, .free, .mast, .host, .deck, .ports, .mkt, .cap, .nest, .egr, .ledger, .out], [reg CTL_INT, reg EGR_ALSEQ, reg
      EGR_INT, reg EGR_QINT, reg LDG_INT, reg MKT_INT, reg MKT_TW_STAT, reg MST_INT, reg NST_ISL_SUSP, reg NST_ISL_THR, reg
      NST_OSC_INT, reg NST_THR_FAST, reg NST_TOP_INT, regFam LDG_DROP 8]⟩
  | .bellWrite .. =>
    ⟨[.regs, .host, .deck, .out], [reg CTL_INT, reg MKT_INT, regFam MKT_CLS_BELL 8, regFam MKT_CLS_STAT 8]⟩
  | .clsLoad .. =>
    ⟨[.regs, .host], [reg MKT_CLS_COUNT, regFam MKT_CLS_HIST 48]⟩
  | .clsClear .. =>
    ⟨[.regs, .host, .mkt], [reg MKT_CLS_COUNT, regFam MKT_CLS_HIST 48]⟩
  | .bellLearn .. =>
    ⟨[.regs, .host, .deck, .mkt, .out], [reg CTL_INT, reg MKT_CLS_COUNT, reg MKT_CLS_IDX, reg MKT_INT, regFam MKT_CLS_BELL 8, regFam
      MKT_CLS_HIST 48, regFam MKT_CLS_STAT 8]⟩
  | .marketSnapshot .. =>
    ⟨[.regs, .live, .host, .deck, .out], [reg CTL_INT, reg MKT_INT, reg MKT_SNAP_SEQ, regRun (MKT_CNT 0) 32]⟩
  | .twOpen .. =>
    ⟨[.regs, .host, .mkt], [reg MKT_TW_STAT]⟩
  | .twAbort .. | .ribAbort .. | .modeAbort .. | .islAbort .. | .winOpen .. | .d3hotEntry =>
    ⟨[.host], []⟩
  | .ribOpen .. =>
    ⟨[.regs, .host, .mkt], [reg MKT_RIB_RSTAT]⟩
  | .syncPinEdge .. | .bootSyncFallback =>
    ⟨[.scales], []⟩
  | .sclSyncGo .. =>
    ⟨[.host, .scales], []⟩
  | .decimatorOutput .. =>
    ⟨[.regs, .free, .host, .deck, .scales, .pair, .ledger, .out], [reg CTL_INT, reg LDG_INT, reg LDG_RD_STAT, reg SCL_CAL_PEND, reg
      SCL_CAL_STAT, reg SCL_EN_INT, reg SCL_EN_SAVE, reg SCL_EN_SAVE_STAT, reg SCL_EN_STATUS, reg SCL_INT, regFam LDG_DROP 8, regFam
      PT_P 8, regFam PT_Q 8, regFam PT_STAT 8, regFam SCL_CH_FDLY 24, regFam SCL_CH_RMS 24, regFam SCL_CH_STAT 24]⟩
  | .settlingEnd .. =>
    ⟨[.regs, .host, .deck, .out], [reg CTL_INT, reg SCL_INT, reg SCL_STATUS, regFam SCL_CH_STAT 24]⟩
  | .channelDead .. =>
    ⟨[.regs, .host, .deck, .out], [reg CTL_INT, reg SCL_INT, regFam SCL_CH_STAT 24]⟩
  | .calApply .. =>
    ⟨[.regs, .host, .deck, .scales, .ledger, .out], [reg CTL_INT, reg LDG_INT, reg SCL_CAL_PEND, reg SCL_CAL_STAT, reg SCL_INT,
      regFam LDG_DROP 8, regFam SCL_CH_FDLY 24]⟩
  | .pqLoad .. | .svGainLoad .. =>
    ⟨[.regs, .host], [reg SCL_PQ_MAG, reg SCL_PQ_PH]⟩
  | .pqStore .. | .svGainStore .. =>
    ⟨[.regs, .host, .deck, .scales, .ledger, .out], [reg CTL_INT, reg LDG_INT, reg SCL_INT, reg SCL_PQ_STAT, regFam LDG_DROP 8]⟩
  | .fcalLoad .. =>
    ⟨[.regs, .host], [reg SCL_FCAL_IDX, regFam SCL_FCAL_W 5]⟩
  | .estimateComplete .. =>
    ⟨[.regs, .live, .free, .host, .deck, .ing, .mkt, .scales, .pair, .ledger, .out], [reg CTL_INT, reg LDG_INT, reg LDG_RD_STAT, reg
      SCL_EN_INT, reg SCL_EN_SAVE, reg SCL_EN_SAVE_STAT, reg SCL_EN_STATUS, reg SCL_INT, regFam LDG_DROP 8, regFam PT_P 8, regFam PT_Q
      8, regFam PT_STAT 8]⟩
  | .energySave .. =>
    ⟨[.regs, .host, .deck, .scales, .pair, .ledger, .out], [reg CTL_INT, reg LDG_INT, reg LDG_RD_STAT, reg SCL_EN_INT, reg
      SCL_EN_SAVE, reg SCL_EN_SAVE_STAT, regFam LDG_DROP 8]⟩
  | .energySaveNow .. =>
    ⟨[.regs, .host], [reg SCL_EN_SAVE]⟩
  | .energySnapshot .. =>
    ⟨[.regs, .host, .deck, .out], [reg CTL_INT, reg SCL_EN_INT, reg SCL_EN_SNAP_NS, reg SCL_EN_SNAP_SEC, reg SCL_EN_SNAP_SEQ,
      regFams (fun i => PT_ACC i 0) 8 16, regFams (fun i => PT_AH i 0) 8 6]⟩
  | .captureSample .. =>
    ⟨[.regs, .live, .host, .deck, .cap, .out], [reg CAP_DEAD, reg CAP_DEAD_MAX, reg CAP_INT, reg CTL_INT]⟩
  | .dinEdge .. =>
    ⟨[.cap], []⟩
  | .bellLineFall .. =>
    ⟨[.regs, .live, .host, .deck, .cap, .out], [reg CAP_INT, reg CTL_INT, regFam CAP_BELL_NS 2, regFam CAP_BELL_SEC 2]⟩
  | .bellPulseEnd .. =>
    ⟨[.cap, .out], []⟩
  | .captureArm .. =>
    ⟨[.regs, .host, .cap], [reg CAP_CTRL]⟩
  | .captureForce .. | .captureReset .. | .bellTest .. =>
    ⟨[.host, .cap], []⟩
  | .thLvlWrite .. =>
    ⟨[.regs, .host], [regFam CAP_TH_LVL 32]⟩
  | .recInfo .. =>
    ⟨[.regs, .host], [reg CAP_REC_STAT, regRun (CAP_REC_HDR 0) 16]⟩
  | .recExport .. =>
    ⟨[.regs, .host, .cap, .pak], [reg CAP_REC_STAT]⟩
  | .recRelease .. =>
    ⟨[.regs, .host, .deck, .cap, .pak, .egr, .out], [reg CAP_REC_STAT, reg CTL_INT, reg EGR_INT, reg EGR_XF_STAT]⟩
  | .recAbort .. =>
    ⟨[.host, .cap, .pak], []⟩
  | .captureSnapshot .. =>
    ⟨[.regs, .live, .host, .deck, .out], [reg CAP_DEAD_MAX, reg CAP_INT, reg CAP_SNAP_SEQ, reg CTL_INT, regRun (CAP_CNT 0) 16]⟩
  | .baselineSaveNow .. =>
    ⟨[.host, .nest], []⟩
  | .modeLoad .. =>
    ⟨[.regs, .host], [reg NST_MODE_STAT, regRun (NST_MODE_W 0) 8]⟩
  | .modeShape .. =>
    ⟨[.regs, .host], [reg NST_MODE_STAT]⟩
  | .sigLoad .. =>
    ⟨[.regs, .host], [reg NST_SIG_IDX, regRun (NST_SIG_W 0) 4]⟩
  | .oscSnapshot .. =>
    ⟨[.regs, .live, .host, .deck, .out], [reg CTL_INT, reg NST_OSC_INT, reg NST_OSC_SNAP_SEQ, regRun (NST_OSC_CNT 0) 16]⟩
  | .statusInterTimeout .. =>
    ⟨[.nest], []⟩
  | .brLoad .. =>
    ⟨[.regs, .host], [reg NST_BR_ENDS, reg NST_BR_IDX, reg NST_BR_STAT]⟩
  | .busLoad .. =>
    ⟨[.regs, .host], [reg NST_BUS_IDX, reg NST_BUS_STAT]⟩
  | .islLoad .. =>
    ⟨[.regs, .host], [reg NST_ISL_STAT, regRun (NST_ISL_W 0) 8]⟩
  | .islMembers .. =>
    ⟨[.regs, .host], [reg NST_ISL_STAT]⟩
  | .topoSnapshot .. =>
    ⟨[.regs, .live, .host, .deck, .out], [reg CTL_INT, reg NST_TOP_INT, reg NST_TOP_SNAP_SEQ, regRun (NST_TOP_CNT 0) 24]⟩
  | .gooseRetransmit .. =>
    ⟨[.regs, .live, .host, .deck, .ports, .egr, .out], [reg CTL_INT, reg EGR_INT, reg EGR_QINT]⟩
  | .osCommandFrame .. =>
    ⟨[.egr, .out], []⟩
  | .osLoad .. =>
    ⟨[.regs, .host], [reg EGR_OS_STAT, regRun (EGR_OS_W 0) 4]⟩
  | .osOn .. | .osOff .. =>
    ⟨[.regs, .host, .egr], [reg EGR_OS_STAT]⟩
  | .ruleLoad .. =>
    ⟨[.regs, .host], [reg EGR_RULE_STAT, regRun (EGR_RULE_W01 0) 8]⟩
  | .ruleStore .. =>
    ⟨[.regs, .host, .deck, .egr, .ledger, .out], [reg CTL_INT, reg EGR_RULE_STAT, reg LDG_INT, regFam LDG_DROP 8]⟩
  | .pubLoad .. =>
    ⟨[.regs, .host], [reg EGR_PUB_IDX, regRun (EGR_PUB_W 0) 4]⟩
  | .xfGo .. | .xfAbort .. =>
    ⟨[.regs, .host, .deck, .egr, .out], [reg CTL_INT, reg EGR_INT, reg EGR_XF_STAT]⟩
  | .qPush .. | .qDiscard .. | .qFlush .. =>
    ⟨[.host, .egr], []⟩
  | .qCommit .. | .qCommitLand .. | .composerEnqueue =>
    ⟨[.regs, .live, .host, .deck, .ports, .egr, .out], [reg CTL_INT, reg EGR_QINT]⟩
  | .qPop .. =>
    ⟨[.host, .egr, .out], []⟩
  | .txStart .. =>
    ⟨[.regs, .live, .host, .deck, .ports, .egr, .out], [reg CTL_INT, reg EGR_INT]⟩
  | .egressSnapshot .. =>
    ⟨[.regs, .live, .host, .deck, .out], [reg CTL_INT, reg EGR_INT, reg EGR_SNAP_SEQ, regRun (EGR_CNT 0) 24]⟩
  | .jobPack .. | .jobUnpack .. | .jobRaw .. =>
    ⟨[.regs, .host, .deck, .pak, .out], [reg CTL_INT, reg PAK_INT, reg PAK_J_IN_DONE, reg PAK_J_OUT_LEN, reg PAK_J_STAT]⟩
  | .jobFlush .. =>
    ⟨[.host, .pak], []⟩
  | .jobAbort .. =>
    ⟨[.regs, .live, .host, .deck, .pak, .out], [reg CTL_INT, reg PAK_INT, reg PAK_J_IN_DONE, reg PAK_J_OUT_LEN, reg PAK_J_STAT]⟩
  | .packerSnapshot .. =>
    ⟨[.regs, .live, .host, .deck, .out], [reg CTL_INT, reg PAK_INT, reg PAK_SNAP_SEQ, regRun (PAK_CNT 0) 16]⟩
  | .postInstruction .. | .hostPost .. | .tickTimeout .. =>
    ⟨[.regs, .host, .deck, .out], [reg CTL_INT]⟩
  | .hostCancel .. =>
    ⟨[.live, .host, .deck], []⟩
  | .threadWait .. =>
    ⟨[.live, .deck], []⟩
  | .threadFault .. =>
    ⟨[.regs, .live, .host, .deck, .ledger, .out], [reg CTL_INT, reg LDG_INT, regFam LDG_DROP 8]⟩
  | .wdogKick .. =>
    ⟨[.host, .deck], []⟩
  | .machineCheck .. | .hostRestart .. | .wdogExpiry =>
    ⟨[.regs, .live, .mast, .host, .deck, .ports, .egr, .ledger, .out], [reg CTL_INT, reg CTL_RESTART_INFO, reg EGR_INT, reg
      EGR_QINT, reg LDG_INT, reg MST_INT, regFam LDG_DROP 8]⟩
  | .deckRestartDone .. =>
    ⟨[.regs, .live, .host, .deck, .ports, .egr, .pair, .till, .ledger, .boot, .nodeOk, .cfg, .out], [reg BOT_CMD_STAT, reg BOT_INT,
      reg CTL_INT, reg CTL_RESTART_INFO, reg EGR_INT, reg EGR_QINT, reg HST_FW_VER, reg LDG_INT, regFam LDG_DROP 8, regFam PRT_RX_HEAD
      64, regFam PRT_RX_TAIL 64]⟩
  | .pcEn .. | .pcFreeze .. =>
    ⟨[.regs, .host], [reg CTL_DP_CTRL, regFam CTL_PC_CTRL 4]⟩
  | .pcClear .. =>
    ⟨[.regs, .host], [reg CTL_DP_STAT, regFam CTL_PC_STAT 4, regFams (fun i => CTL_PC_CYC i 0) 4 2, regFams (fun i => CTL_PC_EV i 0)
      4 16, regFams (fun i => CTL_PC_RET i 0) 4 2, regRun (CTL_DP_CNT 0) 64]⟩
  | .pcSelWrite .. =>
    ⟨[.regs, .host], [regFam CTL_DP_SEL 32, regFams (fun i => CTL_PC_SEL i 0) 4 8]⟩
  | .pcSmode .. =>
    ⟨[.regs, .host, .deck], [regFam CTL_PC_CTRL 4, regFam CTL_PC_STAT 4]⟩
  | .preciseSample .. =>
    ⟨[.regs, .host, .out], [reg CTL_INT, regFam CTL_PC_STAT 4]⟩
  | .w2winOpen .. =>
    ⟨[.deck], []⟩
  | .w2winClose .. =>
    ⟨[.regs, .host, .deck, .out], [reg CTL_INT, regFam CTL_PC_STAT 4]⟩
  | .thLoad .. =>
    ⟨[.regs, .host], [reg CTL_TH_IDX, regRun (CTL_TH_W 0) 2]⟩
  | .schedSnapshot .. =>
    ⟨[.regs, .live, .host, .out], [reg CTL_INT, reg CTL_SCH_SNAP_SEQ, regRun (CTL_SCH_CNT 0) 18]⟩
  | .memCorrection .. | .memUe .. | .patrolRead .. =>
    ⟨[.regs, .live, .free, .mast, .host, .deck, .ports, .ing, .mkt, .scales, .cap, .pak, .nest, .egr, .pair, .mem, .ledger, .boot,
      .nodeOk, .out], [reg CTL_INT, reg CTL_RESTART_INFO, reg EGR_ALSEQ, reg EGR_INT, reg EGR_QINT, reg EGR_XF_STAT, reg LDG_INT, reg
      LDG_RD_STAT, reg MEM_INT, reg MEM_UE_ADDR_HI, reg MEM_UE_ADDR_LO, reg MKT_INT, reg MKT_RIB_RSTAT, reg MKT_RIB_SPAN, reg
      MKT_TW_STAT, reg MST_INT, reg NST_ISL_SUSP, reg NST_ISL_THR, reg NST_OSC_INT, reg NST_THR_FAST, reg NST_TOP_INT, reg PAK_INT,
      reg PAK_J_IN_DONE, reg PAK_J_OUT_LEN, reg PAK_J_STAT, regFam CTL_PC_STAT 4, regFam LDG_DROP 8, regFam PRT_INT 64, regFam
      PRT_TSQ_STAT 64, regRun MKT_RIB_OLD_LO 2]⟩
  | .memSnapshot .. =>
    ⟨[.regs, .live, .host, .deck, .out], [reg CTL_INT, reg MEM_INT, reg MEM_SNAP_SEQ, regRun (MEM_CNT 0 0) 60]⟩
  | .ledgerEvent .. =>
    ⟨[.regs, .host, .deck, .ledger, .out], [reg CTL_INT, reg LDG_INT, regFam LDG_DROP 8]⟩
  | .ledgerFlush .. | .clearExecute =>
    ⟨[.regs, .live, .host, .deck, .ports, .egr, .pair, .ledger, .sentry, .boot, .nodeOk, .out], [reg CTL_INT, reg EGR_INT, reg
      EGR_QINT, reg LDG_CLR_STAT, reg LDG_INT, reg LDG_RD_STAT, regFam LDG_DROP 8, ⟨LDG_REFUSED 0, 4, 0, 1⟩]⟩
  | .flushNow .. | .clearCancel =>
    ⟨[.host, .ledger], []⟩
  | .trackSample .. =>
    ⟨[.cap, .ledger], []⟩
  | .refLatch .. | .calCommit .. =>
    ⟨[.host, .sentry], []⟩
  | .calReadFreeze .. | .calReadRelease .. =>
    ⟨[.host, .sentry, .out], []⟩
  | .calFreezeTimeout .. =>
    ⟨[.sentry], []⟩
  | .derive .. | .generate .. | .unwrap .. | .wrap .. | .destroy .. | .encrypt .. | .decrypt .. | .hmac .. | .sign ..
  | .verify .. | .ecdh .. | .hash .. | .random .. | .pubkey .. | .attest .. | .gkMap .. | .gkUnmap .. | .authReq .. | .auth ..
  | .zeroize .. | .enrol .. | .calEnrol .. | .purge .. =>
    ⟨[.regs, .free, .host, .till], [regRun 0x70200 64, regRun 0x70A00 64]⟩
  | .tillOpTimeout .. | .keyExpiry .. | .authRequestExpiry .. =>
    ⟨[.till], []⟩
  | .tamperTrip .. =>
    ⟨[.regs, .live, .free, .host, .deck, .ports, .egr, .till, .ledger, .boot, .nodeOk, .out], [reg (tillBase 0 + 0x14), reg
      (tillBase 1 + 0x14), reg CTL_INT, reg EGR_INT, reg EGR_QINT, reg LDG_INT, reg TIL_D_INT, reg TIL_INT, reg TIL_TAMPER, reg
      TIL_TAMPER_TICK_HI, reg TIL_TAMPER_TICK_LO, regFam LDG_DROP 8, regRun (tillBase 0 + 0x18) 4, regRun (tillBase 1 + 0x18) 4,
      regRun 0x70200 64, regRun 0x70A00 64]⟩
  | .gkExpiring .. =>
    ⟨[.regs, .host, .deck, .out], [reg CTL_INT, reg TIL_INT]⟩
  | .slotLoad .. =>
    ⟨[.regs, .host], [reg TIL_SLOT_IDX, regRun (TIL_SLOT_W 0) 4]⟩
  | .gkLoad .. =>
    ⟨[.regs, .host], [reg TIL_GK_IDX, regRun (TIL_GK_W 0) 4]⟩
  | .rxHeartbeat .. =>
    ⟨[.regs, .live, .host, .deck, .ports, .egr, .pair, .ledger, .out], [reg CTL_INT, reg EGR_INT, reg EGR_QINT, reg LDG_INT, reg
      SHR_INT, reg SHR_LEASE_DL, regFam LDG_DROP 8, regRun (SHR_PEER_W 0) 4]⟩
  | .rxDigest .. | .digestUncompared .. | .peerLost =>
    ⟨[.regs, .live, .host, .deck, .pair, .ledger, .out], [reg CTL_INT, reg LDG_INT, reg SHR_INT, regFam LDG_DROP 8]⟩
  | .rxLedger .. | .rxEnergy .. | .rxHealth .. | .rxResyncReq .. | .rxCredit .. | .rxLinkInit .. | .clerkRxRequest ..
  | .clerkRxRenew .. | .clerkRxRelease .. | .heartbeatSend =>
    ⟨[.live, .pair, .out], []⟩
  | .rxResyncData .. =>
    ⟨[.regs, .live, .host, .deck, .nest, .pair, .out], [reg CTL_INT, reg MKT_INT, regFam MKT_CLS_BELL 8, regFam MKT_CLS_STAT 8]⟩
  | .shroudLinkChange .. =>
    ⟨[.regs, .host, .deck, .pair, .out], [reg CTL_INT, reg SHR_INT]⟩
  | .leaseWrite .. =>
    ⟨[.regs, .live, .host, .deck, .ports, .egr, .pair, .ledger, .out], [reg CTL_INT, reg EGR_INT, reg EGR_QINT, reg LDG_INT, reg
      SHR_INT, reg SHR_LEASE_DL, regFam LDG_DROP 8]⟩
  | .leaseDrop .. | .rxDeny .. | .leaseExpiry | .resyncDone =>
    ⟨[.regs, .live, .host, .deck, .ports, .egr, .pair, .ledger, .out], [reg CTL_INT, reg EGR_INT, reg EGR_QINT, reg LDG_INT, reg
      SHR_INT, regFam LDG_DROP 8]⟩
  | .rxGrant .. | .rxRenewed .. =>
    ⟨[.regs, .live, .host, .deck, .ports, .egr, .pair, .ledger, .out], [reg CTL_INT, reg EGR_INT, reg EGR_QINT, reg LDG_INT, reg
      SHR_INT, reg SHR_LEASE_DL, reg SHR_LEASE_EPOCH, regFam LDG_DROP 8]⟩
  | .pairSnapshot .. =>
    ⟨[.regs, .live, .host, .deck, .out], [reg CTL_INT, reg SHR_INT, reg SHR_SNAP_SEQ, regRun (SHR_CNT 0) 24]⟩
  | .nodeStart .. =>
    ⟨[.regs, .live, .tai, .free, .mast, .host, .deck, .ports, .ing, .mkt, .scales, .cap, .pak, .nest, .egr, .pair, .till, .ledger,
      .sentry, .boot, .nodeOk, .cfg, .out], [anyReg]⟩
  | .botVerify .. | .botErase .. =>
    ⟨[.regs, .host, .deck, .boot, .out], [reg BOT_CMD_STAT, reg BOT_INT, reg CTL_INT]⟩
  | .bankVerifyDone .. =>
    ⟨[.regs, .free, .host, .deck, .ledger, .boot, .out], [reg BOT_CMD_STAT, reg BOT_INT, reg CTL_INT, reg LDG_INT, regFam LDG_DROP
      8]⟩
  | .activateFw .. | .activateFull .. | .svcActivate .. | .deckFailed =>
    ⟨[.regs, .live, .free, .mast, .host, .deck, .ports, .ing, .mkt, .scales, .cap, .nest, .egr, .pair, .ledger, .sentry, .boot,
      .nodeOk, .out], [reg BOT_CMD_STAT, reg BOT_INT, reg CAP_INT, reg CTL_INT, reg CTL_RESTART_INFO, reg EGR_ALSEQ, reg EGR_INT, reg
      EGR_QINT, reg LDG_CLR_STAT, reg LDG_INT, reg LDG_RD_STAT, reg MKT_INT, reg MKT_TW_STAT, reg MST_INT, reg NST_ISL_SUSP, reg
      NST_ISL_THR, reg NST_OSC_INT, reg NST_THR_FAST, reg NST_TOP_INT, reg SCL_EN_INT, reg SCL_EN_SAVE, reg SCL_EN_SAVE_STAT, reg
      SHR_INT, regFam LDG_DROP 8, regFam PT_STAT 8, regRun (NST_SPLIT_W 0) 4, ⟨LDG_REFUSED 0, 4, 0, 1⟩]⟩
  | .activationResumption .. =>
    ⟨[.regs, .live, .free, .mast, .host, .deck, .ports, .ing, .mkt, .scales, .cap, .pak, .nest, .egr, .pair, .till, .ledger,
      .sentry, .boot, .nodeOk, .cfg, .out], [anyReg]⟩
  | .svcInfo .. | .svcErase .. | .svcVerify .. | .svcLog .. =>
    ⟨[.free, .boot, .out], []⟩
  | .svcWrite .. =>
    ⟨[.regs, .free, .host, .deck, .boot, .out], [reg BOT_INT, reg CTL_INT]⟩
  | .svcTill .. =>
    ⟨[.regs, .free, .till, .boot, .out], [regRun 0x70200 64, regRun 0x70A00 64]⟩
  | .svcReboot .. | .sensorReading .. | .furl .. | .tillCommandDone | .powerFail | .holdupEnd =>
    ⟨[.regs, .live, .ticks, .tai, .free, .mast, .host, .deck, .ports, .ing, .mkt, .scales, .cap, .pak, .nest, .egr, .pair, .till,
      .mem, .ledger, .sentry, .boot, .power, .nodeOk, .cfg, .out], [anyReg]⟩
  | .powerUp .. | .railRetry .. =>
    ⟨[.sentry, .boot, .power], []⟩
  | .railMeasure .. =>
    ⟨[.regs, .live, .free, .host, .deck, .ports, .egr, .till, .ledger, .boot, .power, .nodeOk, .out], [reg (tillBase 0 + 0x14), reg
      (tillBase 1 + 0x14), reg CTL_INT, reg EGR_INT, reg EGR_QINT, reg LDG_INT, reg PWR_HU, reg PWR_IN, reg PWR_INT, reg PWR_PIN, reg
      PWR_STATUS, reg TIL_D_INT, reg TIL_INT, reg TIL_TAMPER, reg TIL_TAMPER_TICK_HI, reg TIL_TAMPER_TICK_LO, regFam LDG_DROP 8,
      regRun (tillBase 0 + 0x18) 4, regRun (tillBase 1 + 0x18) 4, regRun 0x70200 64, regRun 0x70A00 64]⟩
  | .powerResumption .. =>
    ⟨[.regs, .live, .free, .mast, .host, .deck, .ports, .ing, .mkt, .scales, .cap, .pak, .nest, .egr, .pair, .till, .ledger,
      .sentry, .boot, .power, .nodeOk, .cfg, .out], [reg CTL_INT, reg CTL_RESTART_INFO, reg EGR_ALSEQ, reg EGR_INT, reg EGR_QINT, reg
      HST_FW_VER, reg HST_INT, reg LDG_INT, reg LDG_RD_STAT, reg MKT_INT, reg MKT_RIB_SPAN, reg MKT_TW_STAT, reg MST_INT, reg
      NST_ISL_SUSP, reg NST_ISL_THR, reg NST_OSC_INT, reg NST_SEED_STAT, reg NST_THR_FAST, reg NST_TOP_INT, reg PAK_INT, reg PWR_INT,
      reg SCL_CAL_PEND, reg SCL_CAL_STAT, reg SCL_EN_INT, reg SCL_EN_SAVE, reg SCL_EN_SAVE_STAT, reg SCL_EN_STATUS, reg SCL_STATUS,
      reg SHR_INT, regFam LDG_DROP 8, regFam MKT_CLS_BELL 8, regFam PRT_RX_HEAD 64, regFam PRT_RX_TAIL 64, regFam PT_STAT 8, regFam
      SCL_CH_FDLY 24, regFam SCL_CH_STAT 24, regRun (NST_SPLIT_W 0) 4, regRun MKT_RIB_OLD_LO 2]⟩
  | .railLoad .. =>
    ⟨[.regs, .host], [reg PWR_RAIL_I, reg PWR_RAIL_IDX, reg PWR_RAIL_V]⟩
  | .linkReset .. =>
    ⟨[.regs, .host, .deck, .cap, .pak, .ledger, .out], [reg CTL_INT, reg HST_ERR_OFS, reg HST_INT, reg HST_INT_EN, reg HST_POISON,
      reg HST_UNDER, reg LDG_INT, reg LDG_RD_STAT, regFam LDG_DROP 8, regFam MSIX_ADDR 16, regFam MSIX_CTRL 16, regFam MSIX_DATA 16,
      regFam MSIX_UADDR 16]⟩
  | .eoi .. =>
    ⟨[.host, .out], []⟩
  | .msixTableWrite .. =>
    ⟨[.regs, .host, .out], [regRun (MSIX_ADDR 0) 64]⟩
  | .lowWordRead .. =>
    ⟨[.host, .cap, .out], []⟩
  | .windowRead .. =>
    ⟨[.regs, .host, .deck, .scales, .cap, .ledger, .out], [reg CAP_INT, reg CTL_INT, reg HST_INT, reg HST_POISON, reg HST_UNDER]⟩
  | .winAbort .. =>
    ⟨[.regs, .host, .cap, .pak, .ledger], [reg LDG_RD_STAT]⟩
  | .registerWrite _ ofs _ _ =>
    ⟨[.regs, .mast, .host, .deck, .sentry, .out], [regRun (8 * ofs.toNat) 2, reg CTL_INT, reg MKT_INT, reg MKT_RIB_SPAN, reg
      PWR_CTRL, reg SCL_CAL_PEND, regFam CTL_PC_STAT 4, regRun MKT_RIB_OLD_LO 2]⟩
  | .rxReadyCoalesce .. =>
    ⟨[.regs, .host, .deck, .ports, .out], [reg CTL_INT, regFam PRT_INT 64]⟩
  | .deadClear .. =>
    ⟨[.regs, .scales], [reg SCL_STATUS, regFam SCL_CH_STAT 24]⟩
  | .storeChargeDone .. =>
    ⟨[.regs, .host, .deck, .ledger, .out], [reg CTL_INT, reg LDG_INT, reg PWR_HU, reg PWR_INT, reg PWR_STATUS, regFam LDG_DROP 8]⟩
  | .pcOvf .. =>
    ⟨[.regs, .host, .out], [reg CTL_DP_STAT, reg CTL_INT, regFam CTL_PC_STAT 4, regFams (fun i => CTL_PC_CYC i 0) 4 2, regFams (fun
      i => CTL_PC_EV i 0) 4 16, regFams (fun i => CTL_PC_RET i 0) 4 2, regRun (CTL_DP_CNT 0) 64]⟩
  | .unsupportedRequest .. =>
    ⟨[.regs, .host, .deck, .out], [reg CTL_INT, reg HST_ERR_OFS, reg HST_INT]⟩
  | .clearOnRead .. =>
    ⟨[.regs, .host, .cap, .out], [reg MST_IRIG_STAT, regFam SCL_CH_STAT 24]⟩
  | .leapApplied =>
    ⟨[.regs, .mast, .host, .deck, .ledger, .out], [reg CTL_INT, reg LDG_INT, reg MST_INT, reg MST_UTC_OFS, regFam LDG_DROP 8]⟩
  | .ppsEdge =>
    ⟨[.regs, .mast], [reg MST_PPS_NS, reg MST_PPS_SEC]⟩
  | .ppsMissing =>
    ⟨[.regs, .host, .deck, .out], [reg CTL_INT, reg MST_INT]⟩
  | .cycleReferenceLost .. =>
    ⟨[.regs, .mast, .host, .deck, .out], [reg CTL_INT, reg MST_INT]⟩
  | .kernelTick =>
    ⟨[.regs, .mast, .deck], [reg CTL_TICK]⟩
  | .latAged =>
    ⟨[.regs, .host, .deck, .ing, .mkt, .out], [reg CTL_INT, reg ING_INT]⟩
  | .tableauOpen =>
    ⟨[.regs, .live, .free, .mast, .host, .deck, .ports, .ing, .mkt, .cap, .nest, .egr, .out], [reg CTL_INT, reg EGR_ALSEQ, reg
      EGR_INT, reg EGR_QINT, reg MKT_INT, reg MKT_TW_STAT, reg NST_TOP_INT, regRun (NST_SPLIT_W 0) 4]⟩
  | .place =>
    ⟨[.regs, .live, .free, .host, .deck, .ports, .ing, .mkt, .cap, .nest, .egr, .out], [reg CTL_INT, reg EGR_ALSEQ, reg EGR_INT, reg
      EGR_QINT, reg MKT_TW_STAT, reg NST_TOP_INT, regRun (NST_SPLIT_W 0) 4]⟩
  | .syncApply =>
    ⟨[.regs, .free, .host, .deck, .scales, .out], [reg CTL_INT, reg SCL_INT, reg SCL_STATUS, reg SCL_SYNC_NS, reg SCL_SYNC_SEC,
      regFam SCL_CH_STAT 24]⟩
  | .bootSyncStore =>
    ⟨[.mast, .scales], []⟩
  | .intervalEnd =>
    ⟨[.regs, .host, .deck, .scales, .pair, .ledger, .out], [reg CTL_INT, reg LDG_INT, reg LDG_RD_STAT, reg SCL_EN_INT, regFam
      LDG_DROP 8, regFam PT_STAT 8]⟩
  | .supplyCheck =>
    ⟨[.regs, .host, .deck, .scales, .ledger, .out], [reg CTL_INT, reg LDG_INT, reg SCL_EN_INT, regFam LDG_DROP 8, regFam PT_STAT 8]⟩
  | .ahSave =>
    ⟨[.regs, .free, .host, .deck, .scales, .pair, .ledger, .out], [reg CTL_INT, reg LDG_INT, reg LDG_RD_STAT, reg SCL_EN_INT, reg
      SCL_EN_SAVE, reg SCL_EN_SAVE_STAT, reg SCL_EN_STATUS, regFam LDG_DROP 8, regFam PT_STAT 8]⟩
  | .bellTestDrive =>
    ⟨[.regs, .cap, .out], [⟨CAP_BELL_NS 0, 8, 0, 1⟩, ⟨CAP_BELL_SEC 0, 8, 0, 1⟩]⟩
  | .baselineSave =>
    ⟨[.regs, .host, .deck, .nest, .out], [reg CTL_INT, reg NST_OSC_INT]⟩
  | .xfDatagram =>
    ⟨[.regs, .live, .host, .deck, .ports, .egr, .out], [reg CTL_INT, reg EGR_INT, reg EGR_QINT, reg EGR_XF_STAT]⟩
  | .osItemAbandon =>
    ⟨[.regs, .live, .host, .deck, .egr, .out], [reg CTL_INT, reg EGR_INT]⟩
  | .packerBlockStart =>
    ⟨[.mkt, .pak], []⟩
  | .packerBlockDone =>
    ⟨[.regs, .live, .host, .deck, .mkt, .pak, .egr, .out], [reg CTL_INT, reg EGR_INT, reg EGR_XF_STAT, reg MKT_INT, reg
      MKT_RIB_RSTAT, reg MKT_RIB_SPAN, reg PAK_INT, reg PAK_J_IN_DONE, reg PAK_J_OUT_LEN, reg PAK_J_STAT, regRun MKT_RIB_OLD_LO 2]⟩
  | .postApply =>
    ⟨[.live, .mast, .deck], []⟩
  | .trackWrite =>
    ⟨[.ledger], []⟩
  | .clearRequest =>
    ⟨[.regs, .free, .host, .ledger], [reg LDG_CLR_STAT]⟩
  | .clearExpiry =>
    ⟨[.regs, .ledger], [reg LDG_CLR_STAT]⟩
  | .clearEraseDone =>
    ⟨[.regs, .host, .deck, .scales, .nest, .ledger, .out], [reg CTL_INT, reg LDG_CLR_STAT, reg LDG_INT, reg LDG_RD_STAT, regFam
      LDG_DROP 8, regFam LDG_REFUSED 8, ⟨LDG_REFUSED 0, 4, 0, 1⟩]⟩
  | .lastWordsUpdate =>
    ⟨[.ledger, .sentry], []⟩
  | .lwAck =>
    ⟨[.host, .ledger, .sentry], []⟩
  | .ledgerReadOpen =>
    ⟨[.regs, .host, .pak, .ledger], [reg LDG_RD_END, reg LDG_RD_STAT]⟩
  | .ledgerReadAbort =>
    ⟨[.regs, .host, .pak, .ledger], [reg LDG_RD_STAT]⟩
  | .vbatSwitch =>
    ⟨[.regs, .host, .deck, .sentry, .out], [reg CAL_INT, reg CAL_STATUS, reg CAL_VBAT_CNT, reg CTL_INT, regRun CAL_VBAT_TICK_LO 2]⟩
  | .sentryLoss =>
    ⟨[.regs, .till, .sentry], [reg CAL_INT, reg CAL_REF_NS, reg CAL_REF_SEC_HI, reg CAL_REF_SEC_LO, reg CAL_REF_TICK_HI, reg
      CAL_REF_TICK_LO, reg CAL_STATUS, reg CAL_VBAT_CNT, reg CAL_VBAT_TICK_HI, reg CAL_VBAT_TICK_LO]⟩
  | .calSecond =>
    ⟨[.regs, .host, .deck, .sentry, .out], [reg CAL_INT, reg CAL_REF_NS, reg CAL_STATUS, reg CAL_STG_DATE, reg CAL_STG_TIME, reg
      CTL_INT, regRun CAL_REF_SEC_LO 2, regRun CAL_REF_TICK_LO 2]⟩
  | .clerkRenew | .clerkRequest | .digestFrameSend =>
    ⟨[.pair, .out], []⟩
  | .clerkLost =>
    ⟨[.regs, .host, .deck, .pair, .ledger, .out], [reg CTL_INT, reg LDG_INT, reg SHR_INT, regFam LDG_DROP 8]⟩
  | .clerkQuietEnd =>
    ⟨[.pair], []⟩
  | .healthSend =>
    ⟨[.regs, .pair, .out], [regRun (SHR_HEALTH 0) 4]⟩
  | .failCntClear =>
    ⟨[.boot], []⟩
  | .trialConfirm =>
    ⟨[.regs, .host, .deck, .ledger, .boot, .out], [reg BOT_INT, reg CTL_INT, reg LDG_INT, regFam LDG_DROP 8]⟩
  | .bankEraseDone =>
    ⟨[.regs, .free, .host, .deck, .boot, .out], [reg BOT_CMD_STAT, reg BOT_INT, reg CTL_INT]⟩
  | .furlLatchClear =>
    ⟨[.sentry, .power], []⟩
  | .heldWriteDrop =>
    ⟨[.regs, .host, .deck, .ledger, .out], [reg CTL_INT, reg HST_ERR_OFS, reg HST_INT, reg LDG_INT, regFam LDG_DROP 8]⟩

/-- The commands that act in Furled too: the power sequence and its input, the sentry's events and the calendar's
(Table 19.2, R384, R463). -/
def furledActs (c : Instr) : Bool :=
  match c with
  | .powerUp .. | .railRetry .. | .furlLatchClear | .vbatSwitch | .sentryLoss | .calSecond | .calFreezeTimeout .. | .tamperTrip .. |
    .railMeasure .. | .powerFail => true
  | _ => false

/-- A schedule entry as a firing leaves it before its advance (Table 2.8): FIRED, and LATE where it was stored past
(R63). -/
def firedEntry (s : State) (e : Nat) : SchEntry :=
  { schEntry s e with fired := true, late := (schEntry s e).late || (schEntry s e).own.isSome }

/-- The entry that MST_SCH_W0 to W5 spell. -/
def storedEntry (s : State) : SchEntry :=
  let w := fun k => (rd s (MST_SCH_W k)).toNat
  entryOfWords s (w 0) (w 1) (w 2) (w 3) (w 4) (w 5)

/-- A step stops neither with a fault nor with a refusal. -/
def Goes (s : State) : Prop := ∃ t, step s = .next t

end Sys2Proof.Machine
end

