-- ==== Sys2Proof/Certificates/Slice0/Obligations.lean ====
section
/-!
DEFINITION. The statements about the node, one definition each; OBLIGATIONS.json lists them with the rules and sections of the spec they
come from. A clause whose command answers a next state says so in its conclusion (`Completes`, or an equation); the frame of every
command is one statement (FrameOfCommands). Free values stay free: a statement that names one (a field of Config) holds for every value.
-/

open Sys2Proof Sys2Proof.Machine

/-- A step runs the command at the front of the queue. With the command c at the front of the queue, a step is exec of c on the
state with the rest of the queue. -/
def Obligations.FrontCommandRuns : Prop :=
  ∀ (c : Instr) (r : List Instr) (s : State), s.pending = c :: r → step s = exec c { s with pending := r }

/-- With no command waiting a MAST tick goes by. On an empty queue with no access held, a step outside Furled adds one tick and
MST_INCR to the TAI counter, and SHR_MONO counts whole microseconds of 250 ticks, with the queue still empty; in Furled the
ticks, the TAI counter, the Mast and the power part stand. With accesses of the host held, the step offers each again in its
order, before its tick, and where as many are held after as before, the front one's waiting time goes on. That an idle step is a
tick of 4 ns is the model's choice (notes/assumptions/27.md). -/
def Obligations.IdleStep : Prop :=
  (∀ s : State, s.pending = [] → s.host.held = [] → s.power.st ≠ .furled →
       ∃ t, step s = .next t ∧ t.pending = [] ∧ t.ticks = s.ticks + 1 ∧ t.tai = taiWrap (s.tai + (rd s MST_INCR).toNat) ∧
         t.pair.mono = (s.ticks + 1) / 250 % 2 ^ 32) ∧
  (∀ s : State, s.pending = [] → s.host.held = [] → s.power.st = .furled →
       ∃ t, step s = .next t ∧ t.pending = [] ∧ t.ticks = s.ticks ∧ t.tai = s.tai ∧ t.mast = s.mast ∧ t.power = s.power) ∧
  (∀ s : State, s.pending = [] →
       ∃ u, u = s.host.held.foldl (fun t c => run c t) { s with host := { s.host with held := [] } } ∧
         (u.host.held.length = s.host.held.length → step s = .next (tick { u with host := { u.host with heldAt := s.host.heldAt } })) ∧
         (u.host.held.length ≠ s.host.held.length → step s = .next (tick u))) ∧
  (∀ (c : Instr) (s t : State), exec c s = .next t → run c s = t)

/-- Every command answers a next state and keeps what every step keeps. For every command and every state, exec answers a next
state, in which the queue of waiting commands is as before, what was handed to the outside stays handed over, no number of a
free value is used again, and the register file and the live counters are in canonical form if they were. No command stops with
a fault or a refusal. -/
def Obligations.CommandsComplete : Prop :=
  ∀ (c : Instr) (s : State), Completes c s (Keeps s)

/-- Every step keeps the tables canonical, from every state that has them so. For every state whose register file and live counters
are in canonical form, a step answers a next state in which they are in canonical form again, nothing handed to the outside is
taken back, and of the queue only the front command is gone. -/
def Obligations.StepsKeepTables : Prop :=
  ∀ s : State, TablesWf s → ∃ t, step s = .next t ∧ TablesWf t ∧ s.out <+: t.out ∧ s.free ≤ t.free ∧ t.pending = s.pending.tail

/-- What each command leaves unchanged. For every command and every state, exec answers a next state in which no part of the state
changes outside the parts that the table `touched` gives the command, and no register of the register file changes outside the
registers it gives: every other register reads as before, and every other part (live counters, tick and TAI counters, Mast, host
interface, Deck, ports, Ingest, Market, Scales, capture, Packer, Crow's Nest, egress, pair, Till, memory integrity, Ledger,
sentry, boot, power, configuration) is the same. -/
def Obligations.FrameOfCommands : Prop :=
  ∀ (c : Instr) (s : State), Completes c s fun t => Within (touched c).parts s t ∧ OnlyRegs (touched c).regs s t

/-- In Furled the commands of the unpowered units change nothing. In Furled every command leaves the state, but those of the power
sequence and its input, of the sentry and of the calendar: POWER_UP, RAIL_RETRY, FURL_LATCH_CLEAR, VBAT_SWITCH, RAIL_MEASURE,
POWER_FAIL, SENTRY_LOSS, CAL_SECOND, CAL_FREEZE_TIMEOUT and TAMPER_TRIP. -/
def Obligations.FurledIsSilent : Prop :=
  ∀ (c : Instr) (s : State), s.power.st = .furled → furledActs c = false → exec c s = .next s

/-- A snapshot copies the live counters of its bank and restarts them when asked. A served snapshot of a block's counters leaves in
each pair of its bank's registers the live counter of that pair, and the live counters unchanged, or 0 with CLR: Ingest (the 17
rejections), market, capture, oscillation, topology, egress, Packer, scheduler, memory, pair and the port's bank. Of the port's
bank the four microsecond counters (paused, transmit LPI, receive LPI, XOFF) take with them the whole microseconds that a period
still running has lasted since it was last counted; RX_BUF_PEAK is copied and with CLR restarts from the buffer's occupancy. -/
def Obligations.SnapshotsCopy : Prop :=
  (∀ (who : Req) (clr : Bool) (k : Nat) (s : State), TablesWf s → Served who ING_SNAP s → k < 17 →
       Completes (.ingestSnapshot who clr) s fun t => rd64 t (ING_REJ 0 + 8 * k) = liveCnt s (ING_REJ 0 + 8 * k) % 2 ^ 64 ∧
         liveCnt t (ING_REJ 0 + 8 * k) = (if clr then 0 else liveCnt s (ING_REJ 0 + 8 * k))) ∧
  (∀ (who : Req) (clr : Bool) (k : Nat) (s : State), TablesWf s → Served who MKT_SNAP s → k < 16 →
       Completes (.marketSnapshot who clr) s fun t => rd64 t (MKT_CNT 0 + 8 * k) = liveCnt s (MKT_CNT 0 + 8 * k) % 2 ^ 64 ∧
         liveCnt t (MKT_CNT 0 + 8 * k) = (if clr then 0 else liveCnt s (MKT_CNT 0 + 8 * k))) ∧
  (∀ (who : Req) (clr : Bool) (k : Nat) (s : State), TablesWf s → Served who CAP_SNAP s → k < 8 →
       Completes (.captureSnapshot who clr) s fun t => rd64 t (CAP_CNT 0 + 8 * k) = liveCnt s (CAP_CNT 0 + 8 * k) % 2 ^ 64 ∧
         liveCnt t (CAP_CNT 0 + 8 * k) = (if clr then 0 else liveCnt s (CAP_CNT 0 + 8 * k))) ∧
  (∀ (who : Req) (clr : Bool) (k : Nat) (s : State), TablesWf s → Served who NST_OSC_SNAP s → k < 8 →
       Completes (.oscSnapshot who clr) s fun t => rd64 t (NST_OSC_CNT 0 + 8 * k) = liveCnt s (NST_OSC_CNT 0 + 8 * k) % 2 ^ 64 ∧
         liveCnt t (NST_OSC_CNT 0 + 8 * k) = (if clr then 0 else liveCnt s (NST_OSC_CNT 0 + 8 * k))) ∧
  (∀ (who : Req) (clr : Bool) (k : Nat) (s : State), TablesWf s → Served who NST_TOP_SNAP s → k < 12 →
       Completes (.topoSnapshot who clr) s fun t => rd64 t (NST_TOP_CNT 0 + 8 * k) = liveCnt s (NST_TOP_CNT 0 + 8 * k) % 2 ^ 64 ∧
         liveCnt t (NST_TOP_CNT 0 + 8 * k) = (if clr then 0 else liveCnt s (NST_TOP_CNT 0 + 8 * k))) ∧
  (∀ (who : Req) (clr : Bool) (k : Nat) (s : State), TablesWf s → Served who EGR_SNAP s → k < 12 →
       Completes (.egressSnapshot who clr) s fun t => rd64 t (EGR_CNT 0 + 8 * k) = liveCnt s (EGR_CNT 0 + 8 * k) % 2 ^ 64 ∧
         liveCnt t (EGR_CNT 0 + 8 * k) = (if clr then 0 else liveCnt s (EGR_CNT 0 + 8 * k))) ∧
  (∀ (who : Req) (clr : Bool) (k : Nat) (s : State), TablesWf s → Served who PAK_SNAP s → k < 8 →
       Completes (.packerSnapshot who clr) s fun t => rd64 t (PAK_CNT 0 + 8 * k) = liveCnt s (PAK_CNT 0 + 8 * k) % 2 ^ 64 ∧
         liveCnt t (PAK_CNT 0 + 8 * k) = (if clr then 0 else liveCnt s (PAK_CNT 0 + 8 * k))) ∧
  (∀ (who : Req) (clr : Bool) (k : Nat) (s : State), TablesWf s → Served who CTL_SCH_SNAP s → k < 9 →
       Completes (.schedSnapshot who clr) s fun t => rd64 t (CTL_SCH_CNT 0 + 8 * k) = liveCnt s (CTL_SCH_CNT 0 + 8 * k) % 2 ^ 64 ∧
         liveCnt t (CTL_SCH_CNT 0 + 8 * k) = (if clr then 0 else liveCnt s (CTL_SCH_CNT 0 + 8 * k))) ∧
  (∀ (who : Req) (clr : Bool) (k : Nat) (s : State), TablesWf s → Served who MEM_SNAP s → k < 30 →
       Completes (.memSnapshot who clr) s fun t => rd64 t (MEM_CNT 0 0 + 8 * k) = liveCnt s (MEM_CNT 0 0 + 8 * k) % 2 ^ 64 ∧
         liveCnt t (MEM_CNT 0 0 + 8 * k) = (if clr then 0 else liveCnt s (MEM_CNT 0 0 + 8 * k))) ∧
  (∀ (who : Req) (clr : Bool) (k : Nat) (s : State), TablesWf s → Served who SHR_SNAP s → k < 12 →
       Completes (.pairSnapshot who clr) s fun t => rd64 t (SHR_CNT 0 + 8 * k) = liveCnt s (SHR_CNT 0 + 8 * k) % 2 ^ 64 ∧
         liveCnt t (SHR_CNT 0 + 8 * k) = (if clr then 0 else liveCnt s (SHR_CNT 0 + 8 * k))) ∧
  (∀ (who : Req) (p : Fin 64) (clr : Bool) (k : Nat) (s : State), TablesWf s → Served who (PRT_SNAP p.val) s → k < 48 → k ≠ cRX_BUF_PEAK →
       k ≠ cTX_PAUSED_US → k ≠ cTX_LPI_US → k ≠ cRX_LPI_US → k ≠ cXOFF_US →
       Completes (.portSnapshot who p clr) s fun t => rd64 t (PRT_STAT p.val (2 * k)) = liveCnt s (PRT_STAT p.val (2 * k)) % 2 ^ 64 ∧
         liveCnt t (PRT_STAT p.val (2 * k)) = (if clr then 0 else liveCnt s (PRT_STAT p.val (2 * k)))) ∧
  (∀ (who : Req) (p : Fin 64) (s : State), TablesWf s → Served who (PRT_SNAP p.val) s →
       Completes (.portSnapshot who p true) s fun t => rd64 t (PRT_STAT p.val (2 * cRX_BUF_PEAK)) = (port s p.val).peak % 2 ^ 64 ∧
         ∃ x : Port, x.peak = bufBytes (port s p.val) ∧ t.ports = tset {} (settleUs p.val s).ports p.val x) ∧
  (∀ (who : Req) (p : Fin 64) (clr : Bool) (k u : Nat) (s : State), TablesWf s → Served who (PRT_SNAP p.val) s →
       (k, u) ∈ [(cTX_PAUSED_US, if (port s p.val).paused ≠ 0 then usSince s (port s p.val).pausedAt else 0),
         (cTX_LPI_US, if (port s p.val).txLpi then usSince s (port s p.val).txLpiAt else 0),
         (cRX_LPI_US, if (port s p.val).rxLpi then usSince s (port s p.val).rxLpiAt else 0),
         (cXOFF_US, if (port s p.val).xoff then usSince s (port s p.val).xoffAt else 0)] →
       Completes (.portSnapshot who p clr) s fun t => rd64 t (PRT_STAT p.val (2 * k)) = (liveCnt s (PRT_STAT p.val (2 * k)) + u) % 2 ^ 64 ∧
         liveCnt t (PRT_STAT p.val (2 * k)) = (if clr then 0 else (liveCnt s (PRT_STAT p.val (2 * k)) + u) % 2 ^ 64))

/-- The machine after reset reads its registers' reset values. After reset every register of the file reads the reset value of its
row and every live counter is 0; among the registers HST_ID reads 0x4D4F5245, MST_INCR 0x4000_0000 and each vector's control
word 1. The Mast is UNSYNC, no command waits, nothing was handed out, and the tables are in canonical form. -/
def Obligations.ResetValues : Prop :=
  (∀ a : Nat, rd State.reset a = regReset a ∧ liveCnt State.reset a = 0) ∧
  (rd State.reset HST_ID = 0x4D4F5245#32 ∧ rd State.reset MST_INCR = 0x40000000#32 ∧ (∀ v : Fin 16, rd State.reset (MSIX_CTRL v.val) = 1#32) ∧
       State.reset.mast.st = .unsync ∧ State.reset.pending = [] ∧ State.reset.out = []) ∧
  (TablesWf State.reset)

/-- A write of the increment: taken in the range of R29, refused outside it. A served write of MST_INCR: outside HELD a value from
0x3FF7_CED9 to 0x4008_3127 becomes the increment, which a tick adds to the TAI counter, and the Mast keeps only the tick of the
write beside; another value leaves the increment and the Mast and sets MST_INT.INCR_REJ; in HELD the write leaves the increment
and the Mast and sets MST_INT.WRITE_BLOCKED (of Table 2.3; that it sets this alone for a value out of range is the model's
choice, notes/assumptions/40.md). -/
def Obligations.MastIncrement : Prop :=
  (∀ (who : Req) (v : Word) (s : State), TablesWf s → Served who MST_INCR s → s.mast.st ≠ .held →
       0x3FF7CED9 ≤ v.toNat → v.toNat ≤ 0x40083127 →
       Completes (.incrWrite who v) s fun t => rd t MST_INCR = v ∧ t.mast = { s.mast with incrAt := s.ticks } ∧ (taiTick t).tai = taiWrap (s.tai + v.toNat)) ∧
  (∀ (who : Req) (v : Word) (s : State), TablesWf s → Served who MST_INCR s → s.mast.st ≠ .held →
       ¬ (0x3FF7CED9 ≤ v.toNat ∧ v.toNat ≤ 0x40083127) →
       Completes (.incrWrite who v) s fun t => rd t MST_INCR = rd s MST_INCR ∧ rdB t MST_INT 3 = true ∧ t.mast = s.mast) ∧
  (∀ (who : Req) (v : Word) (s : State), TablesWf s → Served who MST_INCR s → s.mast.st = .held →
       Completes (.incrWrite who v) s fun t => rd t MST_INCR = rd s MST_INCR ∧ rdB t MST_INT 2 = true ∧ t.mast = s.mast)

/-- The Mast's states under firmware's events, the 4 s rule and the grandmaster events. A served LOCK_SET takes UNSYNC or HOLDOVER
to LOCKED with the guard armed and no holdover seconds, and in LOCKED and HELD changes nothing. HOLD_SET takes LOCKED to
HOLDOVER with MST_INT.HOLD_ENTER set and changes nothing in another state; NO_INCREMENT_TIMEOUT does the same when no increment
write was taken for 4 s, and before that changes nothing. GM_CHANGE changes nothing under REFUSE_JUMP; under FREE_RUN it takes
LOCKED or HOLDOVER to HELD with HOLD_ENTER set and changes nothing in UNSYNC and HELD. GM_LOST takes LOCKED to HOLDOVER under
REFUSE_JUMP and LOCKED or HOLDOVER to HELD under FREE_RUN, each with HOLD_ENTER set, and changes nothing in the other states.
GM_RETURN takes HELD to HOLDOVER under FREE_RUN with HOLD_ENTER set and else changes nothing. GUARD_ACCEPT marks the next commit
as accepted, and in HELD under FREE_RUN goes to HOLDOVER with HOLD_ENTER set. Beside the shadow that a host access ends
(accessed), nothing changes means the state is the same. -/
def Obligations.MastStates : Prop :=
  (∀ (who : Req) (s : State), Served who MST_CTRL s → s.mast.st = .unsync ∨ s.mast.st = .holdover →
       Completes (.lockSet who) s fun t => t.mast.st = .locked ∧ t.mast.guardArmed = true ∧ t.mast.holdSec = 0) ∧
  (∀ (who : Req) (s : State), Served who MST_CTRL s → s.mast.st = .locked ∨ s.mast.st = .held →
       exec (.lockSet who) s = .next (accessed who s)) ∧
  (∀ (who : Req) (s : State), TablesWf s → Served who MST_CTRL s → s.mast.st = .locked →
       Completes (.holdSet who) s fun t => t.mast = { s.mast with st := .holdover } ∧ rdB t MST_INT 4 = true) ∧
  (∀ (who : Req) (s : State), Served who MST_CTRL s → s.mast.st ≠ .locked → exec (.holdSet who) s = .next (accessed who s)) ∧
  (∀ s : State, TablesWf s → s.power.st ≠ .furled → s.mast.st = .locked → s.mast.incrAt + 1000000000 ≤ s.ticks →
       Completes .noIncrementTimeout s fun t => t.mast = { s.mast with st := .holdover } ∧ rdB t MST_INT 4 = true) ∧
  (∀ s : State, s.power.st ≠ .furled → s.mast.st ≠ .locked ∨ s.ticks < s.mast.incrAt + 1000000000 → exec .noIncrementTimeout s = .next s) ∧
  (∀ (who : Req) (s : State), Served who MST_CTRL s → rdB s MST_CFG 0 = false → exec (.gmChange who) s = .next (accessed who s)) ∧
  (∀ (who : Req) (s : State), TablesWf s → Served who MST_CTRL s → rdB s MST_CFG 0 = true → s.mast.st = .locked ∨ s.mast.st = .holdover →
       Completes (.gmChange who) s fun t => t.mast = { s.mast with st := .held } ∧ rdB t MST_INT 4 = true) ∧
  (∀ (who : Req) (s : State), Served who MST_CTRL s → s.mast.st = .unsync ∨ s.mast.st = .held → exec (.gmChange who) s = .next (accessed who s)) ∧
  (∀ (who : Req) (s : State), TablesWf s → Served who MST_CTRL s → rdB s MST_CFG 0 = false → s.mast.st = .locked →
       Completes (.gmLost who) s fun t => t.mast = { s.mast with st := .holdover } ∧ rdB t MST_INT 4 = true) ∧
  (∀ (who : Req) (s : State), TablesWf s → Served who MST_CTRL s → rdB s MST_CFG 0 = true → s.mast.st = .locked ∨ s.mast.st = .holdover →
       Completes (.gmLost who) s fun t => t.mast = { s.mast with st := .held } ∧ rdB t MST_INT 4 = true) ∧
  (∀ (who : Req) (s : State), Served who MST_CTRL s →
       (if rdB s MST_CFG 0 then s.mast.st = .unsync ∨ s.mast.st = .held else s.mast.st ≠ .locked) →
       exec (.gmLost who) s = .next (accessed who s)) ∧
  (∀ (who : Req) (s : State), TablesWf s → Served who MST_CTRL s → rdB s MST_CFG 0 = true → s.mast.st = .held →
       Completes (.gmReturn who) s fun t => t.mast = { s.mast with st := .holdover } ∧ rdB t MST_INT 4 = true) ∧
  (∀ (who : Req) (s : State), Served who MST_CTRL s → rdB s MST_CFG 0 = false ∨ s.mast.st ≠ .held → exec (.gmReturn who) s = .next (accessed who s)) ∧
  (∀ (who : Req) (s : State), Served who MST_CTRL s → s.mast.st ≠ .held ∨ rdB s MST_CFG 0 = false →
       Completes (.guardAccept who) s fun t => t.mast = { s.mast with accept := true } ∧ ∀ a, rd t a = rd s a) ∧
  (∀ (who : Req) (s : State), TablesWf s → Served who MST_CTRL s → s.mast.st = .held → rdB s MST_CFG 0 = true →
       Completes (.guardAccept who) s fun t => t.mast = { s.mast with accept := true, st := .holdover } ∧ rdB t MST_INT 4 = true)

/-- The time block's reads and the end of a freeze that is held too long. A served read of one of the first five words returns the
requester's frozen word and leaves the Mast, when the requester holds a freeze; with no freeze and no torn mark it returns the
live word and freezes all six words at this tick; with a torn mark it returns the live word and freezes nothing. A served read
of the last word ends the requester's freeze and its torn mark; it returns the frozen word, the live word where nothing is
frozen, and the live word with TORN in bit 31 where the sequence is torn. TIME_FREEZE_TIMEOUT, once the freeze was held for 50
microseconds (12,500 ticks), releases it and marks the sequence as torn; before that, or with no freeze, it changes nothing. -/
def Obligations.MastTimeBlock : Prop :=
  (∀ (who : Req) (k : Fin 5) (s : State) (n : Nat) (ws : List Word), Served who (MST_TIME_SUB + 4 * k.val) s →
       tget none s.mast.freeze (reqIdx who) = some (n, ws) →
       Completes (.timeBlockFreeze who k) s fun t => t.out = s.out ++ [.readData who ((ws.getD k.val 0#32).setWidth 64)] ∧ t.mast = s.mast) ∧
  (∀ (who : Req) (k : Fin 5) (s : State), Served who (MST_TIME_SUB + 4 * k.val) s →
       tget none s.mast.freeze (reqIdx who) = none → tget false s.mast.torn (reqIdx who) = false →
       Completes (.timeBlockFreeze who k) s fun t => t.out = s.out ++ [.readData who (((timeWords s).getD k.val 0#32).setWidth 64)] ∧
         t.mast = { s.mast with freeze := tset none s.mast.freeze (reqIdx who) (some (s.ticks, timeWords s)) }) ∧
  (∀ (who : Req) (k : Fin 5) (s : State), Served who (MST_TIME_SUB + 4 * k.val) s →
       tget none s.mast.freeze (reqIdx who) = none → tget false s.mast.torn (reqIdx who) = true →
       Completes (.timeBlockFreeze who k) s fun t => t.out = s.out ++ [.readData who (((timeWords s).getD k.val 0#32).setWidth 64)] ∧
         t.mast = s.mast) ∧
  (∀ (who : Req) (s : State) (n : Nat) (ws : List Word), Served who MST_TIME_SEC_HI s → tget none s.mast.freeze (reqIdx who) = some (n, ws) →
       Completes (.timeBlockRelease who) s fun t => t.out = s.out ++ [.readData who ((ws.getD 5 0#32).setWidth 64)] ∧
         t.mast = { s.mast with freeze := tset none s.mast.freeze (reqIdx who) none, torn := tset false s.mast.torn (reqIdx who) false }) ∧
  (∀ (who : Req) (s : State), Served who MST_TIME_SEC_HI s → tget none s.mast.freeze (reqIdx who) = none →
       tget false s.mast.torn (reqIdx who) = false →
       Completes (.timeBlockRelease who) s fun t => t.out = s.out ++ [.readData who (((timeWords s).getD 5 0#32).setWidth 64)] ∧
         t.mast = { s.mast with freeze := tset none s.mast.freeze (reqIdx who) none, torn := tset false s.mast.torn (reqIdx who) false }) ∧
  (∀ (who : Req) (s : State), Served who MST_TIME_SEC_HI s → tget none s.mast.freeze (reqIdx who) = none →
       tget false s.mast.torn (reqIdx who) = true →
       Completes (.timeBlockRelease who) s fun t => t.out = s.out ++ [.readData who ((withBit ((timeWords s).getD 5 0#32) 31).setWidth 64)] ∧
         t.mast = { s.mast with freeze := tset none s.mast.freeze (reqIdx who) none, torn := tset false s.mast.torn (reqIdx who) false }) ∧
  (∀ (who : Req) (s : State) (n : Nat) (ws : List Word), s.power.st ≠ .furled → tget none s.mast.freeze (reqIdx who) = some (n, ws) → n + 12500 ≤ s.ticks →
       exec (.timeFreezeTimeout who) s = .next { s with mast := { s.mast with
         freeze := tset none s.mast.freeze (reqIdx who) none, torn := tset false s.mast.torn (reqIdx who) true } }) ∧
  (∀ (who : Req) (s : State), s.power.st ≠ .furled →
       (∀ n ws, tget none s.mast.freeze (reqIdx who) = some (n, ws) → s.ticks < n + 12500) → exec (.timeFreezeTimeout who) s = .next s)

/-- Commits of the TAI counter. Of a served COMMIT_SET and of a served COMMIT_STEP, forward and backward, outside a Deck restart: a
commit that is not refused gives the counter the staged value (SET), the counter plus the staged value (STEP forward) or the
counter less it (STEP backward; that a backward step larger than the counter ends at 0 is the model's choice,
notes/assumptions/40.md), uses up the accept mark, sets MST_INT.STEP_DONE and takes HELD to HOLDOVER, every other state staying;
a refused commit leaves the counter and the accept mark, sets MST_INT.STEP_REFUSED and, under REFUSE_JUMP, takes LOCKED and
HOLDOVER to HELD, every other state staying. A commit is refused in HELD under FREE_RUN, and elsewhere when the guard is armed,
no accept mark stands and the change is more than MST_GUARD.THRESH_NS (at least 100 ns). During a Deck restart a commit changes
nothing beside the access itself. -/
def Obligations.MastCommits : Prop :=
  (∀ (n : Nat) (s : State), commitRefused s n = true ↔ (s.mast.st = .held ∧ rdB s MST_CFG 0 = true) ∨
       (s.mast.accept = false ∧ s.mast.guardArmed = true ∧ max 100 (rdF s MST_GUARD 0 30) * taiNsUnit < max (s.tai - n) (n - s.tai))) ∧
  (∀ (who : Req) (s : State), TablesWf s → Served who MST_COMMIT s → deckRestarting s = false → commitRefused s (stagedTime s) = false →
       Completes (.commitSet who) s fun t => t.tai = taiWrap (stagedTime s) ∧ t.mast.accept = false ∧ rdB t MST_INT 0 = true ∧
         t.mast.st = (if s.mast.st = .held then .holdover else s.mast.st)) ∧
  (∀ (who : Req) (s : State), TablesWf s → Served who MST_COMMIT s → deckRestarting s = false → commitRefused s (stagedTime s) = true →
       Completes (.commitSet who) s fun t => t.tai = s.tai ∧ t.mast.accept = s.mast.accept ∧ rdB t MST_INT 1 = true ∧
         t.mast.st = (if rdB s MST_CFG 0 = false ∧ (s.mast.st = .locked ∨ s.mast.st = .holdover) then .held else s.mast.st)) ∧
  (∀ (who : Req) (backward : Bool) (s : State), TablesWf s → Served who MST_COMMIT s → deckRestarting s = false → commitRefused s (steppedTime s backward) = false →
       Completes (.commitStep who backward) s fun t => t.tai = taiWrap (if backward then s.tai - stagedTime s else s.tai + stagedTime s) ∧
         t.mast.accept = false ∧ rdB t MST_INT 0 = true ∧ t.mast.st = (if s.mast.st = .held then .holdover else s.mast.st)) ∧
  (∀ (who : Req) (backward : Bool) (s : State), TablesWf s → Served who MST_COMMIT s → deckRestarting s = false → commitRefused s (steppedTime s backward) = true →
       Completes (.commitStep who backward) s fun t => t.tai = s.tai ∧ t.mast.accept = s.mast.accept ∧ rdB t MST_INT 1 = true ∧
         t.mast.st = (if rdB s MST_CFG 0 = false ∧ (s.mast.st = .locked ∨ s.mast.st = .holdover) then .held else s.mast.st)) ∧
  (∀ (who : Req) (backward : Bool) (s : State), Served who MST_COMMIT s → deckRestarting s = true →
       exec (.commitSet who) s = .next (accessed who s) ∧ exec (.commitStep who backward) s = .next (accessed who s))

/-- LEAP_APPLIED, the PPS and IRIG-B inputs, the time estimate and the holdover limit. In a powered node: LEAP_APPLIED with a
pending leap whose second has come moves MST_UTC_OFS.OFFSET by one (up for LEAP 1, down for LEAP 2), clears LEAP, keeps the
leap's second and direction, sets MST_INT.LEAP_DONE and leaves the TAI counter; with none it changes nothing. PPS_EDGE with
PPS_EN stamps the counter's second and nanosecond and, accepted, becomes the last accepted edge with PPS_OOW clear, else sets
PPS_OOW; without PPS_EN it changes nothing. PPS_MISSING, when 1.1 s passed without an accepted edge, sets MST_INT.PPS_MISSING
and leaves the Mast. IRIG_FRAME with IRIG_EN: a frame with an invalid digit, or a parity error under the extension, adds 1 to
ERR_CNT, which saturates at 255, and leaves the Mast; a good one (a year in it, or the calendar's) gives MST_IRIG_SEC the TAI
second of its UTC and keeps the counter at its marker. A served write of MST_TQ gives the estimate, leaves the Mast's state and
every register. HOLDOVER_LIMIT_CROSSED in HOLDOVER or HELD, when the holdover count has reached its seconds, makes HOLD_EXC what
the bound of R48 gives and leaves the count. -/
def Obligations.MastInputs : Prop :=
  (∀ s : State, TablesWf s → s.power.st ≠ .furled → leapDue s = true →
       Completes .leapApplied s fun t => rdB t MST_INT 9 = true ∧ rdF t MST_UTC_OFS 16 2 = 0 ∧
         t.mast.lastLeap = some (leapSecond s, decide (rdF s MST_UTC_OFS 16 2 = 1)) ∧ t.tai = s.tai ∧
         rdF t MST_UTC_OFS 0 16 = unsignedN (utcOffset s + (if rdF s MST_UTC_OFS 16 2 = 1 then 1 else -1)) 16) ∧
  (∀ s : State, s.power.st ≠ .furled → leapDue s = false → exec .leapApplied s = .next s) ∧
  (∀ s : State, TablesWf s → s.power.st ≠ .furled → rdB s MST_CFG 2 = true →
       Completes .ppsEdge s fun t => rd t MST_PPS_SEC = loWord (taiSec s) ∧ rd t MST_PPS_NS = wordOf (taiNs s) ∧
         t.mast = (if ppsAccepts s then { s.mast with ppsLast := some (taiAbsNs s), ppsOow := false } else { s.mast with ppsOow := true })) ∧
  (∀ s : State, s.power.st ≠ .furled → rdB s MST_CFG 2 = false → exec .ppsEdge s = .next s) ∧
  (∀ s : State, TablesWf s → s.power.st ≠ .furled → rdB s MST_CFG 2 = true → ppsGone s = true →
       Completes .ppsMissing s fun t => rdB t MST_INT 5 = true ∧ t.mast = s.mast) ∧
  (∀ (f : IrigFrame) (s : State), TablesWf s → s.power.st ≠ .furled → rdB s MST_CFG 3 = true →
       f.bcdOk = false ∨ (f.ext = true ∧ f.parityOk = false) →
       Completes (.irigFrame f) s fun t => rdF t MST_IRIG_STAT 16 8 = min (rdF s MST_IRIG_STAT 16 8 + 1) 255 ∧ t.mast = s.mast) ∧
  (∀ (f : IrigFrame) (y : Nat) (s : State), TablesWf s → s.power.st ≠ .furled → rdB s MST_CFG 3 = true →
       f.bcdOk = true → f.ext = false ∨ f.parityOk = true → f.year = some y →
       Completes (.irigFrame f) s fun t => t.mast = { s.mast with irigAt := some s.ticks, irigStamp := some s.tai } ∧
         rd t MST_IRIG_SEC = loWord (taiOfUtc s ((daysToYear y + (f.dayOfYear - 1)) * 86400 + f.secOfDay))) ∧
  (∀ (f : IrigFrame) (s : State), TablesWf s → s.power.st ≠ .furled → rdB s MST_CFG 3 = true →
       f.bcdOk = true → f.ext = false ∨ f.parityOk = true → f.year = none →
       Completes (.irigFrame f) s fun t => t.mast = { s.mast with irigAt := some s.ticks, irigStamp := some s.tai } ∧
         rd t MST_IRIG_SEC = loWord (taiOfUtc s ((daysToYear (calendarYear s) + (f.dayOfYear - 1)) * 86400 + f.secOfDay))) ∧
  (∀ (who : Req) (v : Word) (s : State), Served who MST_TQ s →
       Completes (.tqWrite who v) s fun t => t.mast.est = v ∧ t.mast.st = s.mast.st ∧ ∀ a, rd t a = rd s a) ∧
  (∀ (sec : BitVec 32) (s : State), s.power.st ≠ .furled → inHoldover s = true → sec.toNat ≤ s.mast.holdSec →
       exec (.holdoverLimitCrossed sec) s = .next { s with mast := { s.mast with holdExc := tqExceeds s } })

/-- The cycle clock: comparisons, a lost reference, the flywheel's limit, a write of MST_CYC_CFG and the kernel tick. In a powered
node, for a CYCLE_COMPARISON with a valid reference, whose phase error is MST_CYC_PERR after it: FREE and FLYWHEEL go to PULLIN;
PULLIN goes to LOCKED with MST_INT.CYC_LOCK at the eighth comparison in a row within the lock threshold and stays PULLIN before;
LOCKED goes to PULLIN with CYC_UNLOCK at the third in a row beyond four times it and stays LOCKED before; the loop's new target
frequency is a free value of the error, the frequency and the bandwidth in force (notes/assumptions/2.md). With no valid
reference the comparison changes nothing. REFERENCE_LOST, where a case of R54 holds in LOCKED or PULLIN, goes to FLYWHEEL and
holds the frequency. FLYWHEEL_LIMIT, at FLY_CYC cycles in FLYWHEEL, goes to PULLIN on the fallback reference when that is valid
and configured, else to FREE toward the nominal frequency. A served write of MST_CYC_CFG takes its 20 bits, makes the change of
reference pend and goes to PULLIN. KERNEL_TICK, when the angle has passed the next multiple of 1/TICK_DIV turn, adds 1 to
CTL_TICK, counts every waiting thread's timeout down and counts the kernel tick; else it changes nothing. -/
def Obligations.MastCycleClock : Prop :=
  (∀ (e : Int) (i : Option Nat) (s : State), s.power.st ≠ .furled → phaseError s = some (e, i) → s.mast.cyc.st = .free ∨ s.mast.cyc.st = .flywheel →
       Completes .cycleCompare s fun t => t.mast.cyc.st = .pullin ∧ t.mast.cyc.perr = wordOf (unsignedN e 32) ∧ t.free = s.free + 1 ∧
         ∃ bw, t.mast.cyc.target = Config.loopTarget s.free e s.mast.cyc.freq bw) ∧
  (∀ (e : Int) (i : Option Nat) (s : State), TablesWf s → s.power.st ≠ .furled → phaseError s = some (e, i) → s.mast.cyc.st = .pullin → 7 ≤ s.mast.cyc.inLock →
       e.natAbs ≤ lockAngle s →
       Completes .cycleCompare s fun t => t.mast.cyc.st = .locked ∧ rdB t MST_INT 7 = true ∧ t.mast.cyc.perr = wordOf (unsignedN e 32)) ∧
  (∀ (e : Int) (i : Option Nat) (s : State), s.power.st ≠ .furled → phaseError s = some (e, i) → s.mast.cyc.st = .pullin →
       s.mast.cyc.inLock < 7 ∨ lockAngle s < e.natAbs →
       Completes .cycleCompare s fun t => t.mast.cyc.st = .pullin ∧ t.mast.cyc.perr = wordOf (unsignedN e 32) ∧
         t.mast.cyc.inLock = (if e.natAbs ≤ lockAngle s then s.mast.cyc.inLock + 1 else 0)) ∧
  (∀ (e : Int) (i : Option Nat) (s : State), TablesWf s → s.power.st ≠ .furled → phaseError s = some (e, i) → s.mast.cyc.st = .locked → 2 ≤ s.mast.cyc.outLock →
       4 * lockAngle s < e.natAbs →
       Completes .cycleCompare s fun t => t.mast.cyc.st = .pullin ∧ rdB t MST_INT 6 = true ∧ t.mast.cyc.perr = wordOf (unsignedN e 32)) ∧
  (∀ (e : Int) (i : Option Nat) (s : State), s.power.st ≠ .furled → phaseError s = some (e, i) → s.mast.cyc.st = .locked →
       s.mast.cyc.outLock < 2 ∨ e.natAbs ≤ 4 * lockAngle s →
       Completes .cycleCompare s fun t => t.mast.cyc.st = .locked ∧ t.mast.cyc.perr = wordOf (unsignedN e 32) ∧
         t.mast.cyc.outLock = (if 4 * lockAngle s < e.natAbs then s.mast.cyc.outLock + 1 else 0)) ∧
  (∀ s : State, s.power.st ≠ .furled → phaseError s = none → exec .cycleCompare s = .next s) ∧
  (∀ (why : RefLoss) (s : State), s.power.st ≠ .furled → refLost why s = true → s.mast.cyc.st = .locked ∨ s.mast.cyc.st = .pullin →
       Completes (.cycleReferenceLost why) s fun t => t.mast.cyc.st = .flywheel ∧ t.mast.cyc.target = s.mast.cyc.freq ∧ t.mast.cyc.freq = s.mast.cyc.freq ∧
         t.mast.cyc.flyAt = s.mast.cyc.count) ∧
  (∀ s : State, s.power.st ≠ .furled → s.mast.cyc.st = .flywheel → flyOver s = true → rdF s MST_CYC_CFG 9 2 ≠ 3 →
       Completes (.flywheelLimit true) s fun t => t.mast.cyc.st = .pullin ∧ t.mast.cyc.refActive = rdF s MST_CYC_CFG 9 2 ∧ t.mast.cyc.onFallback = true) ∧
  (∀ (ok : Bool) (s : State), s.power.st ≠ .furled → s.mast.cyc.st = .flywheel → flyOver s = true → ok = false ∨ rdF s MST_CYC_CFG 9 2 = 3 →
       Completes (.flywheelLimit ok) s fun t => t.mast.cyc.st = .free ∧
         t.mast.cyc.target = (if rdB s MST_CFG 1 then 60000000000 else 50000000000)) ∧
  (∀ (who : Req) (v : Word) (s : State), TablesWf s → Served who MST_CYC_CFG s →
       Completes (.cycCfgWrite who v) s fun t => rd t MST_CYC_CFG = v &&& 0xFFFFF#32 ∧ t.mast.cyc.refPend = true ∧ t.mast.cyc.st = .pullin) ∧
  (∀ s : State, TablesWf s → s.power.st ≠ .furled → kernelIndex s ≠ s.mast.cyc.kern →
       Completes .kernelTick s fun t => rd t CTL_TICK = rd s CTL_TICK + 1#32 ∧
         t.mast.cyc.kern = (s.mast.cyc.kern + 1) % (2 ^ 32 * atLeast 1 (rdF s MST_CFG 8 4)) ∧
         t.deck = { s.deck with threads := s.deck.threads.map (fun p => (p.1, { p.2 with timeout := p.2.timeout.map (fun n => n - 1) })) }) ∧
  (∀ s : State, s.power.st ≠ .furled → kernelIndex s = s.mast.cyc.kern → exec .kernelTick s = .next s)

/-- SCHEDULE_FIRE and the schedule table's commands. In a powered node SCHEDULE_FIRE of an entry that is armed and due: an ANGLE
entry with REQ_LOCK outside LOCKED is skipped, with its MISSED bit and MST_INT.SCH_SKIP set and its next occurrence in place;
every other entry fires: it gets FIRED and the next occurrence, and target 0 does nothing more, target 1 asks the Scales for a
SYNC with the tick's time, target 2 gives the capture unit schedule input ARG at the tick's time, target 3 puts thread ARG with
the tick's time in the trigger FIFO of 32, or, with the FIFO full, sets MISSED and SCH_SKIP (that FIRED is set then too is the
model's choice, notes/assumptions/40.md). An entry that is not armed and due leaves the state. A served LOAD returns the
selected entry's six words and leaves the Mast, with RESULT 0. A served STORE of a bad entry gives RESULT 1 and leaves the Mast;
a good one gives RESULT 0, and an entry that is not armed or whose first occurrence is not past replaces the selected entry as
the six words spell it. A served DISARM clears ARMED of the selected entry, a served DISARM_ALL of the 512 entries in turn, with
RESULT 0. -/
def Obligations.MastSchedule : Prop :=
  (∀ (e : Fin 512) (s : State), TablesWf s → s.power.st ≠ .furled → schDue s (schEntry s e.val) = true →
       (schEntry s e.val).angleKind = true → (schEntry s e.val).reqLock = true → s.mast.cyc.st ≠ .locked →
       Completes (.scheduleFire e) s fun t => rdB t MST_INT 8 = true ∧
         t.mast = { s.mast with sched := tset {} s.mast.sched e.val (schNext s { schEntry s e.val with missed := true }) }) ∧
  (∀ (e : Fin 512) (s : State), s.power.st ≠ .furled → schDue s (schEntry s e.val) = true →
       (schEntry s e.val).angleKind = false ∨ (schEntry s e.val).reqLock = false ∨ s.mast.cyc.st = .locked →
       (schEntry s e.val).target ≠ 3 →
       Completes (.scheduleFire e) s fun t =>
         t.mast.sched = tset {} (tset {} s.mast.sched e.val (firedEntry s e.val)) e.val (schNext s (firedEntry s e.val)) ∧
         t.scales.syncReq = (if (schEntry s e.val).target = 1 then (3, s.tai) :: s.scales.syncReq else s.scales.syncReq) ∧
         t.cap.ev = (if (schEntry s e.val).target = 2 then
           s.cap.ev ++ [{ src := 96 + (schEntry s e.val).arg, time := s.tai, level := true, edge := false }] else s.cap.ev) ∧
         t.mast.trig = s.mast.trig) ∧
  (∀ (e : Fin 512) (s : State), s.power.st ≠ .furled → schDue s (schEntry s e.val) = true →
       (schEntry s e.val).angleKind = false ∨ (schEntry s e.val).reqLock = false ∨ s.mast.cyc.st = .locked →
       (schEntry s e.val).target = 3 → s.mast.trig.length < 32 →
       Completes (.scheduleFire e) s fun t => t.mast.trig = s.mast.trig ++ [((schEntry s e.val).arg, s.tai)] ∧
         t.mast.sched = tset {} (tset {} s.mast.sched e.val (firedEntry s e.val)) e.val (schNext s (firedEntry s e.val))) ∧
  (∀ (e : Fin 512) (s : State), TablesWf s → s.power.st ≠ .furled → schDue s (schEntry s e.val) = true →
       (schEntry s e.val).angleKind = false ∨ (schEntry s e.val).reqLock = false ∨ s.mast.cyc.st = .locked →
       (schEntry s e.val).target = 3 → 32 ≤ s.mast.trig.length →
       Completes (.scheduleFire e) s fun t => t.mast.trig = s.mast.trig ∧ rdB t MST_INT 8 = true ∧
         (schEntry t e.val).missed = true) ∧
  (∀ (e : Fin 512) (s : State), s.power.st ≠ .furled → schDue s (schEntry s e.val) = false → exec (.scheduleFire e) s = .next s) ∧
  (∀ (who : Req) (k : Fin 6) (s : State), TablesWf s → Served who MST_SCH_CMD s →
       Completes (.schLoad who) s fun t => rd t (MST_SCH_W k.val) = (schWords (schEntry s (rdF s MST_SCH_IDX 0 9))).getD k.val 0#32 ∧ t.mast = s.mast ∧
         rdF t MST_SCH_STAT 1 3 = 0) ∧
  (∀ (who : Req) (s : State), TablesWf s → Served who MST_SCH_CMD s → badEntry (rd s (MST_SCH_W 0)).toNat (rd s (MST_SCH_W 4)).toNat = true →
       Completes (.schStore who) s fun t => rdF t MST_SCH_STAT 1 3 = 1 ∧ t.mast = s.mast) ∧
  (∀ (who : Req) (s : State), TablesWf s → Served who MST_SCH_CMD s → badEntry (rd s (MST_SCH_W 0)).toNat (rd s (MST_SCH_W 4)).toNat = false →
       rdB s (MST_SCH_W 0) 0 = false ∨ entryPast s (storedEntry s) = false →
       Completes (.schStore who) s fun t => rdF t MST_SCH_STAT 1 3 = 0 ∧
         t.mast = { s.mast with sched := tset {} s.mast.sched (rdF s MST_SCH_IDX 0 9) (storedEntry s) }) ∧
  (∀ (who : Req) (s : State), TablesWf s → Served who MST_SCH_CMD s →
       Completes (.schDisarm who) s fun t => rdF t MST_SCH_STAT 1 3 = 0 ∧ t.mast = { s.mast with
         sched := tset {} s.mast.sched (rdF s MST_SCH_IDX 0 9) { schEntry s (rdF s MST_SCH_IDX 0 9) with armed := false } }) ∧
  (∀ (who : Req) (s : State), TablesWf s → Served who MST_SCH_CMD s →
       Completes (.schDisarmAll who) s fun t => rdF t MST_SCH_STAT 1 3 = 0 ∧ t.mast = { s.mast with
         sched := (List.range 512).foldl (fun m e => tset {} m e { tget {} m e with armed := false }) s.mast.sched })

/-- A frame received on a port; PFC's refresh and release; the expiry of a pause. In Full sail: RX_FRAME on a disabled port changes
nothing. On an enabled port of a started data path, a bad frame counts 1 in the counter of the first reason of R68 that applies;
a good frame that overflows the receive buffer of 24,576 bytes counts 1 in RX_BUF_DROP and sets PRT_INT.BUF_OVF; a good frame
for another station counts 1 in RX_FILTERED_DA; none of these gives Ingest anything. A good SV frame whose address and VID are
accepted, on a port with nothing waiting and with room in its pipeline's FIFO, enters that FIFO last, with its TAI time and
order. A good frame of no other row, of at most 2,048 bytes, whose address and VID are accepted, takes the next descriptor of an
enabled ring with room: HEAD advances by one modulo 512 and RX_TO_RING counts 1. PFC_REFRESH, at 64 quanta after the last PFC
frame with the buffer at XON or above in XOFF, sends the PFC frame with quanta 0xFFFF; PFC_XON, with the buffer below XON in
XOFF, ends XOFF and sends it with quanta 0; each on a port outside low-power idle. PAUSE_EXPIRY, when the priority's quanta have
run out, ends the priority's pause where another stays paused, and where none does counts the paused time in TX_PAUSED_US. -/
def Obligations.PortReceive : Prop :=
  (∀ (p : Fin 64) (f : RxFrame) (s : State), s.power.st = .fullSail → rdB s (PRT_CFG p.val) 2 = false → exec (.rxFrame p f) s = .next s) ∧
  (∀ (p : Fin 64) (f : RxFrame) (c : Nat) (s : State), TablesWf s → s.power.st = .fullSail → rdB s (PRT_CFG p.val) 2 = true →
       s.boot.dataPath = true → badFrame s p.val f = some c →
       Completes (.rxFrame p f) s fun t => liveCnt t (PRT_STAT p.val (2 * c)) = (liveCnt s (PRT_STAT p.val (2 * c)) + 1) % 2 ^ 64 ∧
         t.ing = s.ing) ∧
  (∀ (p : Fin 64) (f : RxFrame) (s : State), TablesWf s → s.power.st = .fullSail → rdB s (PRT_CFG p.val) 2 = true →
       s.boot.dataPath = true → badFrame s p.val f = none → 24576 < bufBytes (port s p.val) + f.len →
       Completes (.rxFrame p f) s fun t => liveCnt t (PRT_STAT p.val 30) = (liveCnt s (PRT_STAT p.val 30) + 1) % 2 ^ 64 ∧
         rdB t (PRT_INT p.val) 6 = true ∧ t.ing = s.ing) ∧
  (∀ (p : Fin 64) (f : RxFrame) (s : State), TablesWf s → s.power.st = .fullSail → rdB s (PRT_CFG p.val) 2 = true →
       s.boot.dataPath = true → badFrame s p.val f = none → bufBytes (port s p.val) + f.len ≤ 24576 → f.kind = .other →
       f.da = .otherUnicast →
       Completes (.rxFrame p f) s fun t => liveCnt t (PRT_STAT p.val 22) = (liveCnt s (PRT_STAT p.val 22) + 1) % 2 ^ 64 ∧ t.ing = s.ing) ∧
  (∀ (p : Fin 64) (f : RxFrame) (s : State), s.power.st = .fullSail → rdB s (PRT_CFG p.val) 2 = true →
       s.boot.dataPath = true → badFrame s p.val f = none → f.len ≤ 24576 → f.kind = .sv → f.da = .port → f.tci = none →
       (port s p.val).buf = [] → (fifo s (pipeOf s p.val)).length < 32 →
       Completes (.rxFrame p f) s fun t => t.ing = { s.ing with
         order := s.ing.order + 1,
         fifo := tset [] s.ing.fifo (pipeOf s p.val) (fifo s (pipeOf s p.val) ++
           [⟨p.val, s.tai, s.ing.order, f.len, rdF s (PRT_CFG p.val) 16 3, none, ingestBody f, f.bytes.map BitVec.toNat⟩]) }) ∧
  (∀ (p : Fin 64) (f : RxFrame) (s : State), TablesWf s → s.power.st = .fullSail → rdB s (PRT_CFG p.val) 2 = true →
       s.boot.dataPath = true → badFrame s p.val f = none → bufBytes (port s p.val) + f.len ≤ 24576 → f.len ≤ 2048 → f.kind = .other → f.da = .port →
       f.tci = none → ringOn s p.val = true → ringRoom s p.val ≠ 0 →
       Completes (.rxFrame p f) s fun t => rd t (PRT_RX_HEAD p.val) = wordOf ((ringHead s p.val + 1) % 512) ∧
         liveCnt t (PRT_STAT p.val 12) = (liveCnt s (PRT_STAT p.val 12) + 1) % 2 ^ 64) ∧
  (∀ (p : Fin 64) (s : State), s.power.st = .fullSail → (port s p.val).xoff = true → xonAtBytes s p.val ≤ bufBytes (port s p.val) →
       (port s p.val).pfcAt + quantaTicks s p.val 64 ≤ s.ticks → (port s p.val).txLpi = false →
       Completes (.pfcRefresh p) s fun t => t.out = s.out ++ [.pfc p.val (rdF s (PRT_CFG p.val) 8 8) 0xFFFF] ∧
         t.ports = tset {} s.ports p.val { port s p.val with pfcAt := s.ticks }) ∧
  (∀ (p : Fin 64) (s : State), s.power.st = .fullSail → (port s p.val).xoff = true → bufBytes (port s p.val) < xonAtBytes s p.val →
       (port s p.val).txLpi = false →
       Completes (.pfcXon p) s fun t => t.out = s.out ++ [.pfc p.val (rdF s (PRT_CFG p.val) 8 8) 0] ∧
         t.ports = tset {} s.ports p.val { port s p.val with xoff := false, pfcAt := s.ticks }) ∧
  (∀ (p : Fin 64) (k : Fin 8) (s : State), s.power.st = .fullSail → (port s p.val).paused.testBit k.val = true →
       tget 0 (port s p.val).pauseEnd k.val ≤ s.ticks → (port s p.val).paused ≠ 2 ^ k.val →
       Completes (.pauseExpiry p k) s fun t =>
         t.ports = tset {} s.ports p.val { port s p.val with paused := (port s p.val).paused - 2 ^ k.val }) ∧
  (∀ (p : Fin 64) (k : Fin 8) (s : State), TablesWf s → s.power.st = .fullSail → (port s p.val).paused = 2 ^ k.val →
       tget 0 (port s p.val).pauseEnd k.val ≤ s.ticks →
       Completes (.pauseExpiry p k) s fun t =>
         t.ports = tset {} s.ports p.val { port s p.val with paused := 0 } ∧
         liveCnt t (PRT_STAT p.val 60) = (liveCnt s (PRT_STAT p.val 60) + (s.ticks - (port s p.val).pausedAt) / 250) % 2 ^ 64)

/-- Low-power idle, PRT_EEE, the receive ring's registers, a frame's end, the time-stamp queue, snapshots and link changes of a
port. In Full sail, on an enabled port: LPI_ENTRY with EEE_EN, when no frame is in transmission or pending for IDLE_US, enters
low-power idle at this tick and counts TX_LPI_ENTRIES. RX_LPI_ENTRY into it is kept and counts RX_LPI_ENTRIES; out of it the
time counts in RX_LPI_US. TX_FRAME_END hands out the frame, ends the transmission and counts TX_FRAMES_OK; of a two-step PTP
event frame the stamp taken at its start enters the time-stamp queue of 64 last, with the next SEQ. LINK_CHANGE of a started
node sets PRT_INT.LINK with the new state; down it counts LINK_DOWN. RX_READY_COALESCE at HOLD_US after the first returned
descriptor sets RX_READY. A served write of PRT_EEE keeps IDLE_US and TW_TX_US, at most 100, above which TW_CLAMPED is set. A
Deck core's RING_ENABLE of a disabled ring sets EN with HEAD and TAIL 0 and no descriptors; its RING_DISABLE clears EN; its
RX_TAIL_WRITE writes TAIL, offers the descriptors up to it and changes no other register; the host's change nothing. TSQ_LATCH
returns the head entry's first 64 bits and latches it, of an empty queue 0; TSQ_POP returns the latched entry's rest and pops
it, of an empty queue 0. PORT_SNAPSHOT takes the counter's second and nanosecond and sets PRT_INT.SNAP. PORT_SNAPSHOT_ALL takes
every port's, once in a MAST tick. -/
def Obligations.PortLinks : Prop :=
  (∀ (p : Fin 64) (s : State), TablesWf s → s.power.st = .fullSail → rdB s (PRT_CFG p.val) 2 = true → lpiDue s p.val = true →
       Completes (.lpiEntry p) s fun t => t.ports = tset {} s.ports p.val { port s p.val with txLpi := true, txLpiAt := s.ticks } ∧
         liveCnt t (PRT_STAT p.val 68) = (liveCnt s (PRT_STAT p.val 68) + 1) % 2 ^ 64) ∧
  (∀ (p : Fin 64) (s : State), TablesWf s → s.power.st = .fullSail → rdB s (PRT_CFG p.val) 2 = true → (port s p.val).rxLpi = false →
       Completes (.rxLpiEntry p true) s fun t => t.ports = tset {} s.ports p.val { port s p.val with rxLpi := true, rxLpiAt := s.ticks } ∧
         liveCnt t (PRT_STAT p.val 42) = (liveCnt s (PRT_STAT p.val 42) + 1) % 2 ^ 64) ∧
  (∀ (p : Fin 64) (s : State), TablesWf s → s.power.st = .fullSail → rdB s (PRT_CFG p.val) 2 = true → (port s p.val).rxLpi = true →
       Completes (.rxLpiEntry p false) s fun t => t.ports = tset {} s.ports p.val { port s p.val with rxLpi := false } ∧
         liveCnt t (PRT_STAT p.val 44) = (liveCnt s (PRT_STAT p.val 44) + (s.ticks - (port s p.val).rxLpiAt) / 250) % 2 ^ 64) ∧
  (∀ (who : Req) (p : Fin 64) (v : Word) (s : State), TablesWf s → Served who (PRT_EEE p.val) s →
       Completes (.eeeWrite who p v) s fun t => rd t (PRT_EEE p.val) = wordOf (field v 0 8 + 2 ^ 16 * min (field v 16 7) 100) ∧
         (100 < field v 16 7 → rdB t (PRT_INT p.val) 7 = true)) ∧
  (∀ (c : Fin 4) (p : Fin 64) (s : State), TablesWf s → Served (.deck c) (PRT_RX_CTRL p.val) s → ringOn s p.val = false →
       Completes (.ringEnable (.deck c) p) s fun t => rdB t (PRT_RX_CTRL p.val) 0 = true ∧ rd t (PRT_RX_HEAD p.val) = 0#32 ∧
         rd t (PRT_RX_TAIL p.val) = 0#32 ∧ t.ports = tset {} s.ports p.val { port s p.val with descs := [] }) ∧
  (∀ (c : Fin 4) (p : Fin 64) (s : State), TablesWf s → Served (.deck c) (PRT_RX_CTRL p.val) s →
       Completes (.ringDisable (.deck c) p) s fun t => rdB t (PRT_RX_CTRL p.val) 0 = false ∧ t.ports = s.ports) ∧
  (∀ (c : Fin 4) (p : Fin 64) (k : BitVec 9) (l : List (BitVec 27)) (s : State), TablesWf s → Served (.deck c) (PRT_RX_TAIL p.val) s →
       Completes (.rxTail (.deck c) p k l) s fun t => rd t (PRT_RX_TAIL p.val) = wordOf k.toNat ∧
         (∀ a, a ≠ PRT_RX_TAIL p.val → rd t a = rd s a) ∧
         t.ports = (forUpTo ((k.toNat + 512 - ringTail s p.val) % 512)
           (fun i u => offerDesc p.val ((ringTail s p.val + i) % 512) ((l.map BitVec.toNat).getD i 0) u) s).ports) ∧
  (∀ (p : Fin 64) (k : BitVec 9) (l : List (BitVec 27)) (s : State), Served .host (PRT_RX_CTRL p.val) s → Served .host (PRT_RX_TAIL p.val) s →
       exec (.rxTail .host p k l) s = .next (accessed .host s) ∧
       exec (.ringEnable .host p) s = .next (accessed .host s) ∧ exec (.ringDisable .host p) s = .next (accessed .host s)) ∧
  (∀ (p : Fin 64) (s : State), TablesWf s → s.power.st = .fullSail → readyDue s p.val = true →
       Completes (.rxReadyCoalesce p) s fun t => rdB t (PRT_INT p.val) 1 = true ∧
         t.ports = tset {} s.ports p.val { port s p.val with readyPend := none }) ∧
  (∀ (p : Fin 64) (f : TxFrame) (s : State), TablesWf s → s.power.st = .fullSail → rdB s (PRT_CFG p.val) 2 = true → (port s p.val).tx = some f →
       f.ptpEvent = none → f.cast < 3 →
       Completes (.txFrameEnd p) s fun t => t.out = s.out ++ [.frame p.val f] ∧
         t.ports = tset {} s.ports p.val { port s p.val with tx := none, idleAt := s.ticks } ∧
         liveCnt t (PRT_STAT p.val 48) = (liveCnt s (PRT_STAT p.val 48) + 1) % 2 ^ 64) ∧
  (∀ (p : Fin 64) (f : TxFrame) (tag m : Nat) (q : NMap Port) (s : State), s.power.st = .fullSail → rdB s (PRT_CFG p.val) 2 = true →
       (port s p.val).tx = some f → f.ptpEvent = some (tag, m) →
       q = tset {} s.ports p.val { port s p.val with tx := none, idleAt := s.ticks } → (tget {} q p.val).tsq.length < 64 →
       Completes (.txFrameEnd p) s fun t => s.out ++ [.frame p.val f] <+: t.out ∧
         t.ports = tset {} q p.val { tget {} q p.val with
           tsq := (tget {} q p.val).tsq ++ [⟨(port s p.val).txStamp, (tget {} q p.val).seq, true, m, tag⟩],
           seq := ((tget {} q p.val).seq + 1) % 256 }) ∧
  (∀ (who : Req) (p : Fin 64) (s : State), Served who (PRT_TSQ_W p.val 0) s → (port s p.val).tsq = [] →
       Completes (.tsqLatch who p) s fun t => t.out = s.out ++ [.readData who 0#64]) ∧
  (∀ (who : Req) (p : Fin 64) (e : TsqEntry) (r : List TsqEntry) (s : State), Served who (PRT_TSQ_W p.val 0) s →
       (port s p.val).tsq = e :: r →
       Completes (.tsqLatch who p) s fun t => t.out = s.out ++ [.readData who (tsqWords01 e)] ∧
         t.ports = tset {} s.ports p.val { port s p.val with latched := some e }) ∧
  (∀ (who : Req) (p : Fin 64) (s : State), Served who (PRT_TSQ_W p.val 2) s → (port s p.val).tsq = [] →
       Completes (.tsqPop who p) s fun t => t.out = s.out ++ [.readData who 0#64] ∧ t.ports = s.ports) ∧
  (∀ (who : Req) (p : Fin 64) (e : TsqEntry) (r : List TsqEntry) (s : State), Served who (PRT_TSQ_W p.val 2) s →
       (port s p.val).tsq = e :: r → (port s p.val).latched = some e →
       Completes (.tsqPop who p) s fun t => t.out = s.out ++ [.readData who (tsqWords23 e)] ∧
         t.ports = tset {} s.ports p.val { port s p.val with tsq := r, latched := none }) ∧
  (∀ (who : Req) (p : Fin 64) (clr : Bool) (s : State), TablesWf s → Served who (PRT_SNAP p.val) s →
       Completes (.portSnapshot who p clr) s fun t => rd t (PRT_SNAP_SEC p.val) = loWord (taiSec s) ∧
         rd t (PRT_SNAP_NS p.val) = wordOf (taiNs s) ∧ rdB t (PRT_INT p.val) 8 = true) ∧
  (∀ (who : Req) (clr : Bool) (s : State), Served who (PRT_SNAP 0) s → (∀ t c, s.mast.snapAll = some (t, c) → t ≠ s.ticks) →
       exec (.portSnapshotAll who clr) s =
         .next (forUpTo 64 (snapPort clr) { accessed who s with mast := { s.mast with snapAll := some (s.ticks, clr) } })) ∧
  (∀ (who : Req) (clr c : Bool) (s : State), Served who (PRT_SNAP 0) s → s.mast.snapAll = some (s.ticks, c) →
       exec (.portSnapshotAll who clr) s = .next (if clr && !c then
         forUpTo 64 clearPort { accessed who s with mast := { s.mast with snapAll := some (s.ticks, true) } } else accessed who s)) ∧
  (∀ (p : Fin 64) (a : Bool) (s : State), TablesWf s → s.power.st = .fullSail → s.boot.started = true → rdB s (PRT_CFG p.val) 2 = true →
       (port s p.val).linkUp = false →
       Completes (.linkChange p true a) s fun t => rdB t (PRT_INT p.val) 0 = true ∧
         t.ports = tset {} s.ports p.val { port s p.val with linkUp := true, anDone := a }) ∧
  (∀ (p : Fin 64) (a : Bool) (s : State), TablesWf s → s.power.st = .fullSail → s.boot.started = true → rdB s (PRT_CFG p.val) 2 = true →
       (port s p.val).linkUp = true →
       Completes (.linkChange p false a) s fun t => rdB t (PRT_INT p.val) 0 = true ∧
         liveCnt t (PRT_STAT p.val 46) = (liveCnt s (PRT_STAT p.val 46) + 1) % 2 ^ 64 ∧
         t.ports = tset {} s.ports p.val { port s p.val with linkUp := false, anDone := a, tx := none })

/-- Ingest's pipelines, the source commands, and the statistics of the streams. In Full sail: a pipeline of a data path that is not
started, or with an empty FIFO, leaves the state. A pipeline of a started data path that the variant has takes its FIFO's first
frame: the FIFO refills, the pipeline counts 1 frame, and the frame is parsed; a C37.118 frame of a wrong size then counts 1 as
MALFORMED and the Market is unchanged, and an SV frame that passes every check of its subscription counts 1 as ACCEPTED.
SEND_SOURCE_COMMAND for an external stream that the command fits, in RUN, to a Deck queue with room, puts the command last into
that queue; a command that does not fit leaves the state (notes/assumptions/43.md). LAT_AGED, when the aging period has passed,
halves every stream's and every class's histogram and counts, notes the tick and sets ING_INT bit 6; otherwise it leaves the
state. Served, STREAM_LOAD of a configured stream shows its good and rejected frames with EMPTY clear, of the entry of an SV
subscription that subscription's state, bit 6 and counts, and of no entry zero with EMPTY set; LAT_CLEAR clears the selected
stream's latency statistics, CLEAR_ALL every stream's; INGEST_SNAPSHOT sets ING_INT bit 5 and leaves the streams' state. -/
def Obligations.IngestFrames : Prop :=
  (∀ (k : Fin 4) (s : State), s.power.st = .fullSail → fifo s k.val = [] → exec (.ingestParse k) s = .next s) ∧
  (∀ (k : Fin 4) (i : IngItem) (r : List IngItem) (s : State), s.power.st = .fullSail → s.boot.dataPath = true → k.val < pipeCount s →
       fifo s k.val = i :: r →
       exec (.ingestParse k) s = .next (parseItem k.val i (count (ING_PIPE (2 * k.val)) 1 (refillFifo k.val (setFifo k.val r s))))) ∧
  (∀ (k : Fin 4) (i : IngItem) (r : List IngItem) (ip : Nat) (f : C37Frame) (s u : State), TablesWf s → s.power.st = .fullSail →
       s.boot.dataPath = true → k.val < pipeCount s → fifo s k.val = i :: r → i.body = .c37 ip f → f.sizeOk = false →
       u = count (ING_PIPE (2 * k.val)) 1 (refillFifo k.val (setFifo k.val r s)) →
       Completes (.ingestParse k) s fun t => liveCnt t (ING_REJ 2) = (liveCnt u (ING_REJ 2) + 1) % 2 ^ 64 ∧ t.mkt = s.mkt) ∧
  (∀ (k : Fin 4) (i : IngItem) (r : List IngItem) (f : SvFrame) (n : Nat) (c : SvSub) (s u : State), TablesWf s → s.power.st = .fullSail →
       s.boot.dataPath = true → k.val < pipeCount s → fifo s k.val = i :: r → i.body = .sv f →
       u = count (ING_PIPE (2 * k.val)) 1 (refillFifo k.val (setFifo k.val r s)) →
       svMalformed u f = false → svUnsupported f = false → subOf u f = some (n, c) → f.confRev = c.confRev →
       svOver f = false → (svSt u n).st ≠ .overLimit →
       f.asdus.any (fun a => decide (a.channels.length ≠ c.channels ∧ a.channels.length ≤ 8)) = false → f.simulated = false →
       f.asdus.filter (fun a => decide ((svSt u n).lastCnt ≠ some a.smpCnt)) ≠ [] →
       Completes (.ingestParse k) s fun t => liveCnt t (ING_REJ 0) = (liveCnt u (ING_REJ 0) + 1) % 2 ^ 64) ∧
  (∀ (n : BitVec 14) (cmd : SourceCmd) (q : Fin 32) (prio : Fin 8) (c : StreamCfg) (s : State), s.power.st = .fullSail →
       streamCfg s n.toNat = some c → c.isLocal = false → sourceCmdOk c (streamSt s n.toNat) cmd = true → s.deck.st = .run →
       qUsed s q.val = true → qHost s q.val = false → qFull s q.val 64 = false →
       Completes (.sourceCommandSend n cmd q prio) s fun t => (queue t q.val).items = (queue s q.val).items ++
         [{ ident := s.egr.nextId, prio := prio.val, len := 64, body := .command n.toNat cmd }]) ∧
  (∀ (n : BitVec 14) (cmd : SourceCmd) (q : Fin 32) (prio : Fin 8) (c : StreamCfg) (s : State), s.power.st = .fullSail →
       streamCfg s n.toNat = some c → sourceCmdOk c (streamSt s n.toNat) cmd = false → exec (.sourceCommandSend n cmd q prio) s = .next s) ∧
  (∀ s : State, TablesWf s → s.power.st = .fullSail → agePassed s = true →
       Completes .latAged s fun t => rdB t ING_INT 6 = true ∧ t.ing.agedAt = s.ticks ∧
         t.ing.streams = s.ing.streams.foldl (fun m p => tset {} m p.1 (ageEntry p.2)) [] ∧
         t.mkt.hist = s.mkt.hist.foldl (fun m p => tset {} m p.1 { bins := halve p.2.bins, count := p.2.count / 2 }) []) ∧
  (∀ s : State, s.power.st = .fullSail → agePassed s = false → exec .latAged s = .next s) ∧
  (∀ (who : Req) (c : StreamCfg) (s : State), TablesWf s → Served who ING_STREAM_CMD s → streamCfg s (selStream s) = some c →
       Completes (.streamLoad who) s fun t => rd t (ING_STREAM_W 1) = wordOf (streamSt s (selStream s)).framesOk ∧
         rd t (ING_STREAM_W 2) = wordOf (streamSt s (selStream s)).rejected ∧ rdB t ING_STREAM_STAT 1 = false) ∧
  (∀ (who : Req) (s : State), TablesWf s → Served who ING_STREAM_CMD s → streamCfg s (selStream s) = none →
       s.cfg.subs.find? (fun p => decide (p.2.entry = selStream s)) = none →
       Completes (.streamLoad who) s fun t => rd t (ING_STREAM_W 1) = 0#32 ∧ rdB t ING_STREAM_STAT 1 = true) ∧
  (∀ (who : Req) (n : Nat) (c : SvSub) (s : State), TablesWf s → Served who ING_STREAM_CMD s → streamCfg s (selStream s) = none →
       s.cfg.subs.find? (fun p => decide (p.2.entry = selStream s)) = some (n, c) →
       Completes (.streamLoad who) s fun t => rd t (ING_STREAM_W 0) = wordOf (streamCode (svSt s n).st + 2 ^ 6) ∧
         rd t (ING_STREAM_W 1) = wordOf (svSt s n).framesOk ∧ rd t (ING_STREAM_W 2) = wordOf (svSt s n).rejected ∧
         rdB t ING_STREAM_STAT 1 = false) ∧
  (∀ (who : Req) (s : State), Served who ING_STREAM_CMD s →
       Completes (.latClear who) s fun t => t.ing = { s.ing with
         streams := tset {} s.ing.streams (selStream s) (clearLat (streamSt s (selStream s))) } ∧ t.mkt = s.mkt) ∧
  (∀ (who : Req) (s : State), Served who ING_LAT_CTRL s →
       Completes (.clearAll who) s fun t => t.ing = { s.ing with
         streams := s.ing.streams.foldl (fun m p => tset {} m p.1 (clearLat p.2)) [] } ∧ t.mkt = s.mkt) ∧
  (∀ (who : Req) (clr : Bool) (s : State), TablesWf s → Served who ING_SNAP s →
       Completes (.ingestSnapshot who clr) s fun t => rdB t ING_INT 5 = true ∧ t.ing = s.ing) ∧
  (∀ (k : Fin 4) (s : State), s.power.st = .fullSail → s.boot.dataPath = false → exec (.ingestParse k) s = .next s)

/-- The Market's events and its window commands. In Full sail: TABLEAU_OPEN, when the next instant's time has come, opens its
tableau and places the values that wait for it (the model's operation openTab); with none waiting and room in the store, the new
tableau is the next instant's and comes last, and the next instant counts on; before its time it leaves the state. SECTION_SEAL,
at a section's seal time with no earlier close or seal due, seals the section and then the later ones held for it; where an
earlier tableau's section of the class is open, it is held once: MKT_INT bit 1 is set and ORDER_HOLDS counts 1. SECTION_CLOSE,
at a SEALED section's close time with no earlier close due, closes it; the last section's close finishes the tableau. PLACE,
with no close, seal or revision due, takes the first value handed over: for an instant not yet opened it waits, and otherwise it
goes into its tableau; with one due it leaves the state. REVISION_ISSUE, of a REVISING tableau whose hold time has passed or
that a store error forced, with no close or seal due, issues the next revision (the model's operation revise); of another state,
or before the hold time, it leaves the state. Served, TW_OPEN of an instant in the store shows RESULT 1, its state, and
REV_START and REV_NOW of its revision, and of another RESULT 2; RIB_OPEN of an instant in the ribbon shows RESULT 1 and covers
its blocks, and of another RESULT 2; TW_ABORT and RIB_ABORT end their window with reason 2. -/
def Obligations.MarketTableaus : Prop :=
  (∀ s : State, s.power.st = .fullSail → openDue s = true → storeRoom s = s → heldFor s s.mkt.next = [] →
       Completes .tableauOpen s fun t => t.mkt.next = s.mkt.next + 1 ∧ t.mkt.tabs = s.mkt.tabs ++ [newTab s s.mkt.next false] ∧ t.tai = s.tai) ∧
  (∀ s : State, s.power.st = .fullSail → openDue s = true → exec .tableauOpen s = .next (openTab false s)) ∧
  (∀ s : State, s.power.st = .fullSail → openDue s = false → exec .tableauOpen s = .next s) ∧
  (∀ (inst : Nat) (k : Fin 8) (t : Tableau) (s : State), s.power.st = .fullSail → tabOf s inst = some t → secOf t k.val = .open →
       sealTime s t k.val ≤ s.tai → beforeSeal s inst k.val = false → sealBlocked s inst k.val = false →
       exec (.sectionSeal inst k) s = .next (sealFollow k.val (s.mkt.tabs.map Tableau.inst) (sealSection inst k.val s))) ∧
  (∀ (inst : Nat) (k : Fin 8) (t : Tableau) (s : State), TablesWf s → s.power.st = .fullSail → tabOf s inst = some t →
       secOf t k.val = .open → sealTime s t k.val ≤ s.tai → beforeSeal s inst k.val = false → sealBlocked s inst k.val = true → k.val ∉ t.sealHeld →
       Completes (.sectionSeal inst k) s fun u => rdB u MKT_INT 1 = true ∧ liveCnt u (MKT_CNT 22) = (liveCnt s (MKT_CNT 22) + 1) % 2 ^ 64 ∧
         u.mkt = (setTab { t with sealHeld := t.sealHeld ++ [k.val] } s).mkt) ∧
  (∀ (inst : Nat) (k : Fin 8) (t : Tableau) (s : State), s.power.st = .fullSail → tabOf s inst = some t → secOf t k.val = .sealed →
       closeTime s t k.val ≤ s.tai → beforeClose s inst = false → (setSec k.val .closed t).secs.all (fun x => decide (x = .closed ∨ x = .unused)) = false →
       exec (.sectionClose inst k) s = .next (setTab (setSec k.val .closed t) s)) ∧
  (∀ (inst : Nat) (k : Fin 8) (t : Tableau) (s : State), s.power.st = .fullSail → tabOf s inst = some t → secOf t k.val = .sealed →
       closeTime s t k.val ≤ s.tai → beforeClose s inst = false → (setSec k.val .closed t).secs.all (fun x => decide (x = .closed ∨ x = .unused)) = true →
       exec (.sectionClose inst k) s = .next (finishTab inst (setTab (setSec k.val .closed t) s))) ∧
  (∀ (n inst : Nat) (v : Slot) (r : List (Nat × Nat × Slot)) (s : State), s.power.st = .fullSail → beforePlace s = false → s.ing.handoff = (n, inst, v) :: r →
       s.mkt.next ≤ inst →
       exec .place s = .next { s with ing := { s.ing with handoff := r }, mkt := { s.mkt with early := s.mkt.early ++ [(n, inst, v)] } }) ∧
  (∀ (n inst : Nat) (v : Slot) (r : List (Nat × Nat × Slot)) (s : State), s.power.st = .fullSail → beforePlace s = false → s.ing.handoff = (n, inst, v) :: r →
       inst < s.mkt.next → exec .place s = .next (twRefresh inst (placeIn n inst v { s with ing := { s.ing with handoff := r } }))) ∧
  (∀ s : State, s.power.st = .fullSail → beforePlace s = true → exec .place s = .next s) ∧
  (∀ (inst : Nat) (t : Tableau) (s : State), s.power.st = .fullSail → tabOf s inst = some t → t.st = .revising →
       holdPassed s t = true ∨ t.forced = true → beforeRevision s = false →
       exec (.revisionIssue inst) s = .next (revise inst false s)) ∧
  (∀ (inst : Nat) (t : Tableau) (s : State), s.power.st = .fullSail → tabOf s inst = some t →
       t.st ≠ .revising ∨ (holdPassed s t = false ∧ t.forced = false) → exec (.revisionIssue inst) s = .next s) ∧
  (∀ (who : Req) (t : Tableau) (s : State), TablesWf s → Served who MKT_TW_CMD s → tabOf s (rd64 s MKT_TW_INST_LO) = some t →
       Completes (.twOpen who) s fun u => rd u MKT_TW_STAT = wordOf (1 + 4 * tabCode t.st + 2 ^ 4 * t.rev + 2 ^ 8 * t.rev) ∧
         u.mkt = { s.mkt with twInst := some (rd64 s MKT_TW_INST_LO) }) ∧
  (∀ (who : Req) (s : State), TablesWf s → Served who MKT_TW_CMD s → tabOf s (rd64 s MKT_TW_INST_LO) = none →
       Completes (.twOpen who) s fun u => rd u MKT_TW_STAT = 2#32 ∧ u.mkt = { s.mkt with twInst := none }) ∧
  (∀ (who : Req) (s : State), Served who MKT_TW_CMD s → (window s 0).ended = false →
       Completes (.twAbort who) s fun t => t.host.windows = tset {} s.host.windows 0 { window s 0 with words := [], ended := true, why := 2, cutAt := some s.ticks } ∧
         t.mkt = s.mkt) ∧
  (∀ (who : Req) (s : State), TablesWf s → Served who MKT_RIB_CMD s → ribFrom s (rd64 s MKT_RIB_INST_LO) ≠ [] →
       Completes (.ribOpen who) s fun u => rd u MKT_RIB_RSTAT = 1#32 ∧
         u.mkt = { s.mkt with ribRead := (ribFrom s (rd64 s MKT_RIB_INST_LO)).map (fun b => (b.first, b.bytes.length)) }) ∧
  (∀ (who : Req) (s : State), TablesWf s → Served who MKT_RIB_CMD s → ribFrom s (rd64 s MKT_RIB_INST_LO) = [] →
       Completes (.ribOpen who) s fun u => rd u MKT_RIB_RSTAT = 2#32 ∧ u.mkt = { s.mkt with ribRead := [] }) ∧
  (∀ (who : Req) (s : State), Served who MKT_RIB_CMD s → (window s 1).ended = false →
       Completes (.ribAbort who) s fun t => t.host.windows = tset {} s.host.windows 1 { window s 1 with words := [], ended := true, why := 2, cutAt := some s.ticks } ∧
         t.mkt = s.mkt)

/-- The adaptive bells and the class histograms. Served, BELL_WRITE of an adaptive class writes the value within MKT_CLS_LIM with
CLAMP 0; below it the lower limit, above it the upper limit, each with MKT_INT bit 0 set; of a class that is not adaptive it
changes nothing but the access. CLS_LOAD loads the selected class's count; CLS_CLEAR clears the selected class's histogram. In
Full sail, BELL_LEARN of an adaptive class, in RUN with the data path started and the class's learning period passed, selects
the class and loads its histogram; below 1,000 counts the bell stays, and from 1,000 on the bell becomes the percentile plus the
margin, rounded up to 0.1 ms and clamped to MKT_CLS_LIM. Otherwise it leaves the state. Served, MARKET_SNAPSHOT sets MKT_INT bit
7 and leaves the Market's own state. -/
def Obligations.MarketBells : Prop :=
  (∀ (who : Req) (k : Fin 8) (v : BitVec 16) (s : State), TablesWf s → Served who (MKT_CLS_BELL k.val) s → adaptive s k.val = true →
       rdF s (MKT_CLS_LIM k.val) 0 16 ≤ v.toNat → v.toNat ≤ rdF s (MKT_CLS_LIM k.val) 16 16 →
       Completes (.bellWrite who k v) s fun t => rd t (MKT_CLS_BELL k.val) = wordOf v.toNat ∧ rdF t (MKT_CLS_STAT k.val) 16 2 = 0) ∧
  (∀ (who : Req) (k : Fin 8) (v : BitVec 16) (s : State), TablesWf s → Served who (MKT_CLS_BELL k.val) s → adaptive s k.val = true →
       v.toNat < rdF s (MKT_CLS_LIM k.val) 0 16 →
       Completes (.bellWrite who k v) s fun t => rd t (MKT_CLS_BELL k.val) = wordOf (rdF s (MKT_CLS_LIM k.val) 0 16) ∧ rdB t MKT_INT 0 = true) ∧
  (∀ (who : Req) (k : Fin 8) (v : BitVec 16) (s : State), TablesWf s → Served who (MKT_CLS_BELL k.val) s → adaptive s k.val = true →
       rdF s (MKT_CLS_LIM k.val) 0 16 ≤ rdF s (MKT_CLS_LIM k.val) 16 16 → rdF s (MKT_CLS_LIM k.val) 16 16 < v.toNat →
       Completes (.bellWrite who k v) s fun t => rd t (MKT_CLS_BELL k.val) = wordOf (rdF s (MKT_CLS_LIM k.val) 16 16) ∧ rdB t MKT_INT 0 = true) ∧
  (∀ (who : Req) (k : Fin 8) (v : BitVec 16) (s : State), Served who (MKT_CLS_BELL k.val) s → adaptive s k.val = false →
       Completes (.bellWrite who k v) s fun t => t = accessed who s) ∧
  (∀ (who : Req) (s : State), TablesWf s → Served who MKT_CLS_CMD s →
       Completes (.clsLoad who) s fun t => rd t MKT_CLS_COUNT = wordOf (tget ({} : ClassHist) s.mkt.hist (rdF s MKT_CLS_IDX 0 3)).count ∧
         t.mkt = s.mkt) ∧
  (∀ (who : Req) (s : State), Served who MKT_CLS_CMD s →
       Completes (.clsClear who) s fun t => t.mkt = { s.mkt with hist := tset {} s.mkt.hist (rdF s MKT_CLS_IDX 0 3) {} }) ∧
  (∀ (k : Fin 8) (s : State), TablesWf s → s.power.st = .fullSail → adaptive s k.val = true → s.deck.st = .run → s.boot.dataPath = true →
       learnDue s k.val = true → (tget ({} : ClassHist) s.mkt.hist k.val).count < 1000 →
       Completes (.bellLearn k) s fun t => rd t MKT_CLS_IDX = wordOf k.val ∧ t.mkt.learnAt = tset 0 s.mkt.learnAt k.val s.ticks ∧ rd t (MKT_CLS_BELL k.val) = rd s (MKT_CLS_BELL k.val)) ∧
  (∀ (k : Fin 8) (h : ClassHist) (s : State), TablesWf s → s.power.st = .fullSail → adaptive s k.val = true → s.deck.st = .run →
       s.boot.dataPath = true → learnDue s k.val = true → h = tget {} s.mkt.hist k.val → 1000 ≤ h.count →
       Completes (.bellLearn k) s fun t => rd t (MKT_CLS_BELL k.val) = wordOf (clampNat (rdF s (MKT_CLS_LIM k.val) 0 16)
         (rdF s (MKT_CLS_LIM k.val) 16 16) (divUp (percentile h.bins (rdF s (MKT_CLS_LIM k.val) 16 16 * (100000 * 2 ^ 10)) +
           rdF s (MKT_CLS_LEARN k.val) 0 16 * (100000 * 2 ^ 10)) (100000 * 2 ^ 10)))) ∧
  (∀ (k : Fin 8) (s : State), s.power.st = .fullSail → adaptive s k.val = false ∨ s.deck.st ≠ .run ∨ learnDue s k.val = false →
       exec (.bellLearn k) s = .next s) ∧
  (∀ (who : Req) (clr : Bool) (s : State), TablesWf s → Served who MKT_SNAP s →
       Completes (.marketSnapshot who clr) s fun t => rdB t MKT_INT 7 = true ∧ t.mkt = s.mkt)

/-- SYNC of the Scales, settling, the DEAD supervision and the boot synchronization. Outside Furled: an edge of the polarity of
SCL_CFG, with the pin enabled, adds a request of source 1 with its time, and with the pin disabled the state stays; SCL_SYNC.GO,
served, adds one of source 2. SYNC_APPLY with requests waiting empties them, stamps SCL_SYNC_SEC and SCL_SYNC_NS with the Mast's
time, sets SCL_STATUS bit 1 and SCL_INT bit 0; with none the state stays. SETTLING_END of a settling channel whose settling
periods have passed ends its settling, and with it sets SCL_INT bit 1 where no enabled channel settles any more; of another
channel, or before the periods have passed, the state stays. CHANNEL_DEAD of an enabled channel not yet DEAD sets its DEAD and
its latch and SCL_INT bit 3; of a disabled channel the state stays. DEAD_CLEAR of a DEAD channel clears DEAD and starts
settling; of another the state stays. BOOT_SYNC_STORE, with the Mast locked and the Deck in RUN for the first time, stores the
single-shot SYNC entry 511 two seconds ahead; BOOT_SYNC_FALLBACK, with NODE_OK for 60 s, the Mast not locked, no entry stored
and none requested yet, adds a request of source 2; once the entry is stored both leave the state (notes/assumptions/45.md). -/
def Obligations.ScalesSync : Prop :=
  (∀ (rising : Bool) (s : State), s.power.st ≠ .furled → rdB s SCL_CFG 0 = true → rdB s SCL_CFG 1 ≠ rising →
       exec (.syncPinEdge rising) s = .next { s with scales := { s.scales with syncReq := s.scales.syncReq ++ [(1, s.tai)] } }) ∧
  (∀ (rising : Bool) (s : State), s.power.st ≠ .furled → rdB s SCL_CFG 0 = false → exec (.syncPinEdge rising) s = .next s) ∧
  (∀ (who : Req) (s : State), Served who SCL_SYNC s →
       Completes (.sclSyncGo who) s fun t => t.scales = { s.scales with syncReq := s.scales.syncReq ++ [(2, s.tai)] } ∧ t.regs = s.regs) ∧
  (∀ s : State, TablesWf s → s.power.st ≠ .furled → s.scales.syncReq ≠ [] →
       Completes .syncApply s fun t => t.scales.syncReq = [] ∧ rd t SCL_SYNC_SEC = loWord (taiSec s) ∧
         rd t SCL_SYNC_NS = wordOf (taiNs s) ∧ rdB t SCL_INT 0 = true ∧ rdB t SCL_STATUS 1 = true) ∧
  (∀ s : State, s.power.st ≠ .furled → s.scales.syncReq = [] → exec .syncApply s = .next s) ∧
  (∀ (ch : Fin 24) (s : State), TablesWf s → s.power.st ≠ .furled → rdB s (SCL_CH_STAT ch.val) 0 = true → settleDone s ch.val = true →
       rdB (settleStatus (setStat (SCL_CH_STAT ch.val) 0 false s)) SCL_STATUS 2 = false →
       Completes (.settlingEnd ch) s fun t => rdB t SCL_INT 1 = true ∧ t.scales = s.scales) ∧
  (∀ (ch : Fin 24) (s : State), s.power.st ≠ .furled → rdB s (SCL_CH_STAT ch.val) 0 = true → settleDone s ch.val = true →
       rdB (settleStatus (setStat (SCL_CH_STAT ch.val) 0 false s)) SCL_STATUS 2 = true →
       exec (.settlingEnd ch) s = .next (settleStatus (setStat (SCL_CH_STAT ch.val) 0 false s))) ∧
  (∀ (ch : Fin 24) (s : State), s.power.st ≠ .furled → rdB s (SCL_CH_STAT ch.val) 0 = false ∨ settleDone s ch.val = false →
       exec (.settlingEnd ch) s = .next s) ∧
  (∀ (ch : Fin 24) (s : State), TablesWf s → s.power.st ≠ .furled → rdB s (SCL_CH_CFG ch.val) 0 = true → rdB s (SCL_CH_STAT ch.val) 2 = false →
       Completes (.channelDead ch) s fun t => rdB t (SCL_CH_STAT ch.val) 2 = true ∧ rdB t (SCL_CH_STAT ch.val) 3 = true ∧
         rdB t SCL_INT 3 = true) ∧
  (∀ (ch : Fin 24) (s : State), s.power.st ≠ .furled → rdB s (SCL_CH_CFG ch.val) 0 = false → exec (.channelDead ch) s = .next s) ∧
  (∀ (ch : Fin 24) (s : State), TablesWf s → s.power.st ≠ .furled → rdB s (SCL_CH_STAT ch.val) 2 = true →
       Completes (.deadClear ch) s fun t => rdB t (SCL_CH_STAT ch.val) 2 = false ∧ rdB t (SCL_CH_STAT ch.val) 0 = true) ∧
  (∀ (ch : Fin 24) (s : State), s.power.st ≠ .furled → rdB s (SCL_CH_STAT ch.val) 2 = false → exec (.deadClear ch) s = .next s) ∧
  (∀ s : State, s.power.st ≠ .furled → s.mast.st = .locked → s.scales.bootSync = false → s.deck.st = .run →
       Completes .bootSyncStore s fun t => t.scales.bootSync = true ∧
         t.mast.sched = tset {} s.mast.sched 511 { armed := true, target := 1, inst := (taiSec s + 2) * 1000000000, count := 1 }) ∧
  (∀ s : State, s.power.st ≠ .furled → okFor s 60 = true → s.mast.st ≠ .locked → s.scales.bootSync = false → s.scales.fallback = false →
       s.deck.st = .run →
       exec .bootSyncFallback s = .next { s with scales := { s.scales with fallback := true, syncReq := s.scales.syncReq ++ [(2, s.tai)] } }) ∧
  (∀ s : State, s.power.st ≠ .furled → s.scales.bootSync = true →
       exec .bootSyncStore s = .next s ∧ exec .bootSyncFallback s = .next s)

/-- The output samples and the estimates of the Scales. Outside Furled: DECIMATOR_OUTPUT of an enabled channel, with the Scales
started and as many bits as one output takes, runs the output through the channel (the model's operation channelOutput:
decimation, overrange, calibration, waveform, register RMS, metering); with another number of bits, or of a disabled channel,
the state stays. ESTIMATE_COMPLETE of a configured local stream at an instant after its last, not skipped by a step and whose
latency has passed, first settles the SV samples of its window, then notes the instant as its last and hands its value over to
the Market last; an instant not after its last, one skipped by a step, and one whose latency has not passed leave the state. -/
def Obligations.ScalesOutputs : Prop :=
  (∀ (ch : Fin 24) (bits : List Bool) (s : State), s.power.st ≠ .furled → rdB s (SCL_CH_CFG ch.val) 0 = true → rdB s SCL_STATUS 0 = true →
       bits.length = 2 ^ chLogR s ch.val * cicPerOutput s ch.val →
       exec (.decimatorOutput ch bits) s = .next (channelOutput ch.val bits s)) ∧
  (∀ (ch : Fin 24) (bits : List Bool) (s : State), s.power.st ≠ .furled →
       bits.length ≠ 2 ^ chLogR s ch.val * cicPerOutput s ch.val → exec (.decimatorOutput ch bits) s = .next s) ∧
  (∀ (ch : Fin 24) (bits : List Bool) (s : State), s.power.st ≠ .furled → rdB s (SCL_CH_CFG ch.val) 0 = false →
       exec (.decimatorOutput ch bits) s = .next s) ∧
  (∀ (i : Fin 64) (inst l : Nat) (c : LsCfg) (sc : StreamCfg) (s : State), s.power.st ≠ .furled →
       (s.cfg.scales.ls.find? (fun p => decide (p.1 = i.val))).map (fun p => p.2) = some c → streamCfg s (lsStream s i.val) = some sc →
       tget none s.scales.lsLast i.val = some l → inst ≤ l → exec (.estimateComplete i inst) s = .next s) ∧
  (∀ (i : Fin 64) (inst : Nat) (c : LsCfg) (sc : StreamCfg) (s : State), s.power.st ≠ .furled →
       (s.cfg.scales.ls.find? (fun p => decide (p.1 = i.val))).map (fun p => p.2) = some c → streamCfg s (lsStream s i.val) = some sc →
       inSkipped s (gridTime (atLeast 1 s.cfg.tabRate) inst) = true → exec (.estimateComplete i inst) s = .next s) ∧
  (∀ (i : Fin 64) (inst : Nat) (c : LsCfg) (sc : StreamCfg) (s : State), s.power.st ≠ .furled →
       (s.cfg.scales.ls.find? (fun p => decide (p.1 = i.val))).map (fun p => p.2) = some c → streamCfg s (lsStream s i.val) = some sc →
       s.tai < gridTime (atLeast 1 s.cfg.tabRate) inst + lsLatency s c → exec (.estimateComplete i inst) s = .next s) ∧
  (∀ (i : Fin 64) (inst : Nat) (c : LsCfg) (sc : StreamCfg) (s u : State), s.power.st ≠ .furled →
       (s.cfg.scales.ls.find? (fun p => decide (p.1 = i.val))).map (fun p => p.2) = some c → streamCfg s (lsStream s i.val) = some sc →
       (tget none s.scales.lsLast i.val).all (fun l => decide (l < inst)) = true →
       inSkipped s (gridTime (atLeast 1 s.cfg.tabRate) inst) = false →
       gridTime (atLeast 1 s.cfg.tabRate) inst + lsLatency s c ≤ s.tai → u = lsSettle c (gridTime (atLeast 1 s.cfg.tabRate) inst) s →
       Completes (.estimateComplete i inst) s fun t => t.scales.lsLast = tset none u.scales.lsLast i.val (some inst) ∧
         t.ing.handoff = u.ing.handoff ++ [(lsStream s i.val, inst, lsSlot u c inst (gridTime (atLeast 1 s.cfg.tabRate) inst))])

/-- User calibration of the Scales, and the factory words. Served, with no channel waiting: SCL_CAL_APPLY under UCAL_LOCK sets
SCL_CAL_STAT bit 1 and SCL_INT bit 7 and leaves the Scales; without it, each enabled channel of the mask waits for its next
output and each disabled one takes its correction at once, and BUSY shows whether one waits (with an empty mask none). PQ_LOAD
shows the quantity's correction in SCL_PQ_MAG and SCL_PQ_PH, SV_GAIN_LOAD that of a sampled-value quantity. PQ_STORE and
SV_GAIN_STORE under UCAL_LOCK set SCL_PQ_STAT bit 1 and SCL_INT bit 7 and leave the Scales; without it they put the two
registers in as the correction of the quantity, which exists, and set SCL_INT bit 6. FCAL_LOAD of a channel, with the
calibration area good, shows the channel's factory words (the first and the last of the five are named). -/
def Obligations.ScalesCalibration : Prop :=
  (∀ (who : Req) (mask : BitVec 24) (s : State), TablesWf s → Served who SCL_CAL_APPLY s → rdB s SCL_CAL_STAT 0 = false →
       rdB s SCL_CFG 2 = true →
       Completes (.calApply who mask) s fun t => rdF t SCL_CAL_STAT 1 1 = 1 ∧ rdB t SCL_INT 7 = true ∧ t.scales = s.scales) ∧
  (∀ (who : Req) (mask : BitVec 24) (s : State), Served who SCL_CAL_APPLY s → rdB s SCL_CAL_STAT 0 = false →
       rdB s SCL_CFG 2 = false → mask = 0#24 →
       exec (.calApply who mask) s = .next (calBusy (wrF SCL_CAL_STAT 1 1 0 (accessed who s)))) ∧
  (∀ (who : Req) (mask : BitVec 24) (s : State), Served who SCL_CAL_APPLY s → rdB s SCL_CAL_STAT 0 = false →
       rdB s SCL_CFG 2 = false →
       Completes (.calApply who mask) s fun t => t = calBusy (forUpTo 24 (fun ch u => if mask.toNat.testBit ch then
         (if chEnabled u ch then setChan ch { chan u ch with take := true } u else applyUser ch u) else u)
           (wrF SCL_CAL_STAT 1 1 0 (accessed who s)))) ∧
  (∀ (who : Req) (s : State), TablesWf s → Served who SCL_PQ_CMD s →
       Completes (.pqLoad who) s fun t => rd t SCL_PQ_MAG = (tget (0x40000000#32, 0#32) s.scales.pq (rdF s SCL_PQ_IDX 0 10)).1 ∧
         rd t SCL_PQ_PH = (tget (0x40000000#32, 0#32) s.scales.pq (rdF s SCL_PQ_IDX 0 10)).2 ∧ t.scales = s.scales) ∧
  (∀ (who : Req) (s : State), TablesWf s → Served who SCL_PQ_CMD s → rdB s SCL_CFG 2 = true →
       Completes (.pqStore who) s fun t => rdF t SCL_PQ_STAT 1 1 = 1 ∧ rdB t SCL_INT 7 = true ∧ t.scales = s.scales) ∧
  (∀ (who : Req) (s : State), TablesWf s → Served who SCL_PQ_CMD s → rdB s SCL_CFG 2 = false → rdF s SCL_PQ_IDX 0 10 < 24 →
       Completes (.pqStore who) s fun t => rdB t SCL_INT 6 = true ∧
         t.scales = { s.scales with pq := tset (0x40000000#32, 0#32) s.scales.pq (rdF s SCL_PQ_IDX 0 10) (rd s SCL_PQ_MAG, rd s SCL_PQ_PH) }) ∧
  (∀ (who : Req) (q : Nat × Nat) (s : State), TablesWf s → Served who SCL_PQ_CMD s → 24 ≤ rdF s SCL_PQ_IDX 0 10 →
       svOfQty s (rdF s SCL_PQ_IDX 0 10) = some q →
       Completes (.svGainLoad who) s fun t =>
         rd t SCL_PQ_MAG = (tget (0x40000000#32, 0#32) s.scales.svGain (rdF s SCL_PQ_IDX 0 10)).1 ∧
         rd t SCL_PQ_PH = (tget (0x40000000#32, 0#32) s.scales.svGain (rdF s SCL_PQ_IDX 0 10)).2 ∧ t.scales = s.scales) ∧
  (∀ (who : Req) (q : Nat × Nat) (s : State), TablesWf s → Served who SCL_PQ_CMD s → rdB s SCL_CFG 2 = false →
       24 ≤ rdF s SCL_PQ_IDX 0 10 → svOfQty s (rdF s SCL_PQ_IDX 0 10) = some q →
       Completes (.svGainStore who) s fun t => rdB t SCL_INT 6 = true ∧
         t.scales.svGain = tset (0x40000000#32, 0#32) s.scales.svGain (rdF s SCL_PQ_IDX 0 10) (rd s SCL_PQ_MAG, rd s SCL_PQ_PH)) ∧
  (∀ (who : Req) (s : State), TablesWf s → Served who SCL_PQ_CMD s → rdB s SCL_CFG 2 = true →
       Completes (.svGainStore who) s fun t => rdF t SCL_PQ_STAT 1 1 = 1 ∧ rdB t SCL_INT 7 = true ∧ t.scales = s.scales) ∧
  (∀ (who : Req) (ch : BitVec 5) (s : State), TablesWf s → Served who SCL_FCAL_IDX s → ch.toNat ≤ 23 → rdB s SCL_FCAL_STAT 1 = false →
       Completes (.fcalLoad who ch) s fun t =>
         rd t (SCL_FCAL_W 0) = tget 0#32 s.till.calArea (5 * ch.toNat) ∧
         rd t (SCL_FCAL_W 4) = tget 0#32 s.till.calArea (5 * ch.toNat + 4))

/-- Energy saves, snapshots, interval ends and supply checks. Outside Furled: ENERGY_SAVE with metering on and its period passed, no
interval record waiting, no failed flash and no pair, writes the saved content into the slot that does not hold the newest good
save (slot 0 with none), notes the tick, and shows the sequence and slot in SCL_EN_SAVE_STAT; one that fails sets SAVE_FAIL and
SCL_EN_INT bit 5; with an interval record that still waits, the save waits for it and the slots stay; with metering off or
before the period has passed the state stays (notes/assumptions/46.md). SCL_EN_SAVE.NOW, served, asks for a save. INTERVAL_END
with metering on first writes the overdue records, then ends the interval of every enabled point at the latest wrap; with
metering off the state stays. SUPPLY_CHECK checks every enabled point once per cycle: at the same cycle again the state stays.
AH_SAVE in current-only measurement with no point waiting for its last mean and 1 s since the last, writes the counts of the
enabled points with the next sequence into the alternate slot, with its start and span; otherwise the state stays. EN_SNAP,
served, takes the tag of the last sample into SCL_EN_SNAP_NS, sets SCL_EN_INT bit 7 and leaves the Scales. -/
def Obligations.EnergyCommands : Prop :=
  (∀ s : State, TablesWf s → s.power.st ≠ .furled → rdB s SCL_EN_STATUS 0 = true → s.ledger.fail = false → isPair s = false →
       s.scales.en.saveAt + savePeriod s * 250000000 ≤ s.ticks → (∀ k, (meter s k).closing = none) →
       Completes (.energySave true) s fun t => t.scales.en.saveAt = s.ticks ∧ t.scales.en.saves = tset none s.scales.en.saves
           (((newestSlot s).map (fun p => 1 - p.1)).getD 0) (some (saveContent false s)) ∧
         rd t SCL_EN_SAVE_STAT = wordOf ((saveContent false s).seq + 2 ^ 24 * ((newestSlot s).map (fun p => 1 - p.1)).getD 0)) ∧
  (∀ (ok : Bool) (s : State), s.power.st ≠ .furled →
       rdB s SCL_EN_STATUS 0 = false ∨ s.ticks < s.scales.en.saveAt + savePeriod s * 250000000 → exec (.energySave ok) s = .next s) ∧
  (∀ s : State, TablesWf s → s.power.st ≠ .furled → rdB s SCL_EN_STATUS 0 = true →
       s.scales.en.saveAt + savePeriod s * 250000000 ≤ s.ticks → (∀ k, (meter s k).closing = none) →
       Completes (.energySave false) s fun t => rdF t SCL_EN_SAVE_STAT 25 1 = 1 ∧ rdB t SCL_EN_INT 5 = true) ∧
  (∀ (k : Nat) (ok : Bool) (s : State), s.power.st ≠ .furled → rdB s SCL_EN_STATUS 0 = true →
       s.scales.en.saveAt + savePeriod s * 250000000 ≤ s.ticks → k ∈ enabledPoints s → (meter s k).closing.isSome = true →
       (∀ j c, (meter s j).closing = some c → s.tai < c.wrap + taiSecUnit) →
       Completes (.energySave ok) s fun t => t.scales.en.saveDue = some ok ∧ t.scales.en.saves = s.scales.en.saves) ∧
  (∀ (who : Req) (s : State), TablesWf s → Served who SCL_EN_SAVE s →
       Completes (.energySaveNow who) s fun t => rdF t SCL_EN_SAVE 12 1 = 1 ∧ t.scales = s.scales) ∧
  (∀ s : State, s.power.st ≠ .furled → rdB s SCL_EN_STATUS 0 = true →
       exec .intervalEnd s = .next ((enabledPoints s).foldl (endInterval (lastWrap s) (utcBound s (tagSec (lastWrap s)))) (closeOverdue s))) ∧
  (∀ s : State, s.power.st ≠ .furled → rdB s SCL_EN_STATUS 0 = false → exec .intervalEnd s = .next s) ∧
  (∀ s : State, s.power.st ≠ .furled → s.scales.en.checked ≠ s.mast.cyc.count →
       exec .supplyCheck s = .next ((enabledPoints s).foldl checkPoint
         { s with scales := { s.scales with en := { s.scales.en with checked := s.mast.cyc.count } } })) ∧
  (∀ s : State, s.power.st ≠ .furled → s.scales.en.checked = s.mast.cyc.count → exec .supplyCheck s = .next s) ∧
  (∀ s : State, s.power.st ≠ .furled → s.scales.en.reefPend = false → rdB s SCL_EN_STATUS 1 = true → s.ledger.fail = false →
       s.scales.en.ahAt + 250000000 ≤ s.ticks →
       Completes .ahSave s fun t => t.scales.en.ahAt = s.ticks ∧
         t.scales.en.ahSaves = tset none s.scales.en.ahSaves (((newestAh s).map (fun a => a.seq + 1)).getD 0 % 2)
           (some { seq := ((newestAh s).map (fun a => a.seq + 1)).getD 0 % 2 ^ 32, start := s.scales.en.lastMean,
                   spanMs := tagUs s.scales.en.reefAt s.tai / 1000, counts := (enabledPoints s).map (fun k => (k, (meter s k).ah)) })) ∧
  (∀ s : State, s.power.st ≠ .furled → s.scales.en.reefPend = false → rdB s SCL_EN_STATUS 1 = false ∨ s.ticks < s.scales.en.ahAt + 250000000 →
       exec .ahSave s = .next s) ∧
  (∀ (who : Req) (s : State), TablesWf s → Served who SCL_EN_SNAP s →
       Completes (.energySnapshot who) s fun t => rdB t SCL_EN_INT 7 = true ∧
         rd t SCL_EN_SNAP_NS = wordOf (s.scales.en.lastTag / 2 ^ 28 % 1000000000) ∧ t.scales = s.scales)

/-- The capture's record samples, binary inputs and bell lines. Outside Furled: CAPTURE_SAMPLE with a next record sample, complete
or waited for, and not held back in Reefed, takes the sample's row into the capture (the model's operation capTake: thresholds,
sequencer, record); with none, or while a channel is still missing within its wait, the state stays. DIN_EDGE that does not hold
leaves the state; one that holds, at the stamp in units of 0.25 ns, gives the input's level and, as CAP_DIN says, nothing more,
its level, the opposite level, or an edge. BELL_FALL on a line in use that the node does not drive and that was high for 10 µs
stamps the line, gives the fall and its rise as events at the instant less the line's delay, sets CAP_INT bit 4 and counts 1;
high for less, it only stamps; on a line of mode 0 the state stays. BELL_PULSE_END of a driven line whose pulse has lasted
PULSE_US releases it; earlier, or of a line not driven, the state stays. BELL_TEST, served, keeps the instant for an INOUT line;
BELL_TEST_DRIVE drives the line at that instant and stamps it, and before it, or with none kept, the state stays
(notes/assumptions/47.md). -/
def Obligations.CaptureInputs : Prop :=
  (∀ (drained k tag : Nat) (s : State), s.power.st ≠ .furled → capNext s = some (k, tag) →
       (s.cap.reefed = false ∨ rdB s CAP_CFG 10 = true) → ((capRow s tag).missing = false ∨ capWaited s tag = true) →
       exec (.captureSample drained) s = .next (capTake drained (capRow s tag)
         { s with cap := { s.cap with taken := k, svFrom := some tag } })) ∧
  (∀ (drained : Nat) (s : State), s.power.st ≠ .furled → capNext s = none → exec (.captureSample drained) s = .next s) ∧
  (∀ (drained k tag : Nat) (s : State), s.power.st ≠ .furled → capNext s = some (k, tag) → (capRow s tag).missing = true →
       capWaited s tag = false → exec (.captureSample drained) s = .next s) ∧
  (∀ (i : Fin 16) (high : Bool) (s : State), s.power.st ≠ .furled → exec (.dinEdge i high false) s = .next s) ∧
  (∀ (i : Fin 16) (high : Bool) (s : State), s.power.st ≠ .furled → rdF s CAP_DIN (2 * i.val) 2 = 0 →
       exec (.dinEdge i high true) s = .next { s with cap := { s.cap with
         ev := s.cap.ev ++ [{ src := 128 + i.val, time := s.tai / 2 ^ 26 * 2 ^ 26, level := high, edge := false }] } }) ∧
  (∀ (i : Fin 16) (high : Bool) (s : State), s.power.st ≠ .furled → rdF s CAP_DIN (2 * i.val) 2 = 1 →
       Completes (.dinEdge i high true) s fun t => t.cap.ev =
         s.cap.ev ++ [{ src := 128 + i.val, time := s.tai / 2 ^ 26 * 2 ^ 26, level := high, edge := false },
           { src := 32 + i.val, time := s.tai / 2 ^ 26 * 2 ^ 26, level := high, edge := false }]) ∧
  (∀ (i : Fin 16) (high : Bool) (s : State), s.power.st ≠ .furled → rdF s CAP_DIN (2 * i.val) 2 = 3 →
       Completes (.dinEdge i high true) s fun t => t.cap.ev =
         s.cap.ev ++ [{ src := 128 + i.val, time := s.tai / 2 ^ 26 * 2 ^ 26, level := high, edge := false },
           { src := 32 + i.val, time := s.tai / 2 ^ 26 * 2 ^ 26, level := high, edge := true }]) ∧
  (∀ (i : Fin 16) (high : Bool) (s : State), s.power.st ≠ .furled → rdF s CAP_DIN (2 * i.val) 2 = 2 →
       Completes (.dinEdge i high true) s fun t => t.cap.ev =
         s.cap.ev ++ [{ src := 128 + i.val, time := s.tai / 2 ^ 26 * 2 ^ 26, level := high, edge := false },
           { src := 32 + i.val, time := s.tai / 2 ^ 26 * 2 ^ 26, level := !high, edge := false }]) ∧
  (∀ (l : Fin 2) (lowNs : Nat) (s : State), TablesWf s → s.power.st ≠ .furled →
       (rdF s CAP_BELL_CFG (2 * l.val) 2 = 1 ∨ rdF s CAP_BELL_CFG (2 * l.val) 2 = 2) →
       tget false s.cap.drive l.val = false → tget 0 s.cap.high l.val + 2500 ≤ s.ticks →
       Completes (.bellLineFall l lowNs) s fun t => rdB t CAP_INT 4 = true ∧
         liveCnt t (CAP_CNT 14) = (liveCnt s (CAP_CNT 14) + 1) % 2 ^ 64 ∧
         rd t (CAP_BELL_NS l.val) = wordOf (s.tai / 2 ^ 26 % 4000000000) ∧
         t.cap.ev = s.cap.ev ++ [{ src := 48 + l.val, time := (s.tai / 2 ^ 26 - rdF s (CAP_BELL_DLY l.val) 0 14) * 2 ^ 26, level := true, edge := false },
           { src := 48 + l.val, time := (s.tai / 2 ^ 26 - rdF s (CAP_BELL_DLY l.val) 0 14) * 2 ^ 26 + lowNs * taiNsUnit, level := false, edge := false }] ∧
         t.cap.high = tset 0 s.cap.high l.val (max (tget 0 s.cap.high l.val) (s.ticks + (lowNs + 3) / 4))) ∧
  (∀ (l : Fin 2) (lowNs : Nat) (s : State), TablesWf s → s.power.st ≠ .furled →
       (rdF s CAP_BELL_CFG (2 * l.val) 2 = 1 ∨ rdF s CAP_BELL_CFG (2 * l.val) 2 = 2) →
       tget false s.cap.drive l.val = false → tget 0 s.cap.high l.val ≤ s.ticks → s.ticks < tget 0 s.cap.high l.val + 2500 →
       Completes (.bellLineFall l lowNs) s fun t => t.cap.ev = s.cap.ev ∧
         rd t (CAP_BELL_NS l.val) = wordOf (s.tai / 2 ^ 26 % 4000000000)) ∧
  (∀ (l : Fin 2) (lowNs : Nat) (s : State), s.power.st ≠ .furled → rdF s CAP_BELL_CFG (2 * l.val) 2 = 0 →
       exec (.bellLineFall l lowNs) s = .next s) ∧
  (∀ (l : Fin 2) (s : State), s.power.st ≠ .furled → tget false s.cap.drive l.val = true →
       tget 0 s.cap.driveAt l.val + rdF s CAP_BELL_CFG 16 10 * 250 ≤ s.ticks →
       Completes (.bellPulseEnd l) s fun t => t.out = s.out ++ [.bell l.val false] ∧
         t.cap.drive = tset false s.cap.drive l.val false ∧ t.cap.ev = s.cap.ev) ∧
  (∀ (l : Fin 2) (s : State), s.power.st ≠ .furled →
       tget false s.cap.drive l.val = false ∨ s.ticks < tget 0 s.cap.driveAt l.val + rdF s CAP_BELL_CFG 16 10 * 250 →
       exec (.bellPulseEnd l) s = .next s) ∧
  (∀ (who : Req) (l : Fin 2) (s : State), Served who CAP_BELL_TEST s → rdF s CAP_BELL_CFG (2 * l.val) 2 = 2 →
       Completes (.bellTest who l) s fun t =>
         t.cap = { s.cap with test := some (l.val, (rd s CAP_BELL_TSEC).toNat * 1000000000 + rdF s CAP_BELL_TNS 0 30) }) ∧
  (∀ (l : Nat) (at0 : Nat) (s : State), s.power.st ≠ .furled → s.cap.test = some (l, at0) →
       at0 ≤ taiSec s % 2 ^ 32 * 1000000000 + taiNs s →
       Completes .bellTestDrive s fun t => t.out = s.out ++ [.bell l true] ∧
         t.cap = { s.cap with test := none, drive := tset false s.cap.drive l true, driveAt := tset 0 s.cap.driveAt l s.ticks }) ∧
  (∀ (l : Nat) (at0 : Nat) (s : State), s.power.st ≠ .furled →
       s.cap.test = none ∨ (s.cap.test = some (l, at0) ∧ taiSec s % 2 ^ 32 * 1000000000 + taiNs s < at0) →
       exec .bellTestDrive s = .next s)

/-- Arming, the records held and the snapshot of the capture. Served: CAP_CTRL.ARM sets ARM with the sequencer in S0, its counters
at 0 and its entry at the time now, where it was clear; disarming clears ARM and puts S0. FORCE keeps the time of its write, and
leaves the registers. RESET asks for S0 at the next sample, and leaves the registers. TH_LVL_WRITE writes the threshold's level.
INFO, EXPORT and RELEASE of the record that runs show BUSY_REC, and with no record held NOT_FOUND. INFO of a record held puts
its header into CAP_REC_HDR. EXPORT without PACK of a record held, none being exported, marks it as exported and shows OK.
RELEASE of a record held, none being exported and no transfer running, frees it. ABORT of an export ends it and empties the
Packer's work of channel 1; without an export it changes nothing but the access. CAP_SNAP with CLR clears CAP_DEAD_MAX, sets
CAP_INT bit 6 and leaves the capture's own state. -/
def Obligations.CaptureRecords : Prop :=
  (∀ (who : Req) (s : State), TablesWf s → Served who CAP_CTRL s → rdB s CAP_CTRL 0 = false →
       Completes (.captureArm who true) s fun t => rdF t CAP_CTRL 0 1 = 1 ∧
         t.cap = { s.cap with seq := 0, cntA := 0, cntB := 0, entered := cyclePos s s.tai }) ∧
  (∀ (who : Req) (s : State), TablesWf s → Served who CAP_CTRL s →
       Completes (.captureArm who false) s fun t => rdF t CAP_CTRL 0 1 = 0 ∧ t.cap = { s.cap with seq := 0 }) ∧
  (∀ (who : Req) (s : State), Served who CAP_CTRL s →
       Completes (.captureForce who) s fun t => t.cap = { s.cap with force := some s.tai } ∧ t.regs = s.regs) ∧
  (∀ (who : Req) (s : State), Served who CAP_CTRL s →
       Completes (.captureReset who) s fun t => t.cap = { s.cap with toS0 := true } ∧ t.regs = s.regs) ∧
  (∀ (who : Req) (th : Fin 32) (v : Word) (s : State), TablesWf s → Served who (CAP_TH_LVL th.val) s →
       Completes (.thLvlWrite who th v) s fun t => rd t (CAP_TH_LVL th.val) = v ∧ t.cap = s.cap) ∧
  (∀ (who : Req) (r : CapRec) (s : State), TablesWf s → s.cap.run = some r → r.no = (rd s CAP_REC_IDX).toNat → Served who CAP_REC_CMD s →
       exec (.recInfo who) s = .next (recStat 2 (accessed who s)) ∧
         (∀ f pack, exec (.recExport who f pack) s = .next (recStat 2 (accessed who s))) ∧
         exec (.recRelease who) s = .next (recStat 2 (accessed who s))) ∧
  (∀ (who : Req) (s : State), s.cap.run = none → s.cap.recs = [] → Served who CAP_REC_CMD s →
       exec (.recInfo who) s = .next (recStat 1 (accessed who s)) ∧
         (∀ f pack, exec (.recExport who f pack) s = .next (recStat 1 (accessed who s))) ∧
         exec (.recRelease who) s = .next (recStat 1 (accessed who s))) ∧
  (∀ (who : Req) (r : CapRec) (s : State), Served who CAP_REC_CMD s → s.cap.run = none →
       s.cap.recs.find? (fun x => decide (x.no = (rd s CAP_REC_IDX).toNat)) = some r →
       exec (.recInfo who) s = .next (recStat 0 (wrWords (CAP_REC_HDR 0) (headerWords r) (accessed who s)))) ∧
  (∀ (who : Req) (r : CapRec) (f : BitVec 2) (s : State), TablesWf s → s.cap.exporting = none → Served who CAP_REC_CMD s → s.cap.run = none →
       s.cap.recs.find? (fun x => decide (x.no = (rd s CAP_REC_IDX).toNat)) = some r →
       Completes (.recExport who f false) s fun t => t.cap = { s.cap with exporting := some r.no } ∧ rd t CAP_REC_STAT = 0#32) ∧
  (∀ (who : Req) (r : CapRec) (s : State), Served who CAP_REC_CMD s → s.cap.run = none → s.cap.exporting = none → s.egr.xf = none →
       s.cap.recs.find? (fun x => decide (x.no = (rd s CAP_REC_IDX).toNat)) = some r →
       Completes (.recRelease who) s fun t => t.cap = { s.cap with recs := s.cap.recs.filter (fun x => decide (x.no ≠ r.no)) }) ∧
  (∀ (who : Req) (no : Nat) (s : State), Served who CAP_REC_CMD s → s.cap.exporting = some no →
       Completes (.recAbort who) s fun t => t.cap = { s.cap with exporting := none } ∧ t.pak.work = tset [] s.pak.work 1 []) ∧
  (∀ (who : Req) (s : State), Served who CAP_REC_CMD s → s.cap.exporting = none → exec (.recAbort who) s = .next (accessed who s)) ∧
  (∀ (who : Req) (s : State), TablesWf s → Served who CAP_SNAP s →
       Completes (.captureSnapshot who true) s fun t => rd t CAP_DEAD_MAX = 0#32 ∧ rdB t CAP_INT 6 = true ∧ t.cap = s.cap)

/-- Baselines, mode slots, mode shapes and signals of the Crow's Nest. In Full sail, BASELINE_SAVE when its period has passed notes
the tick; with the extraction in RUN, a mode tracked and the flash good it adds a baseline, of the image's digest, the rate, the
order, the band, the second of the last extraction and the tracked modes with their largest shape parts, and with its CRC, to
the two kept and sets NST_OSC_INT bit 8; otherwise it adds none, and before the period has passed it leaves the state. Served:
NST_BASE.SAVE_NOW asks for a baseline in RUN and otherwise changes nothing but the access; LOAD of a slot writes its eight words
and its RESULT; SHAPE of an occupied slot opens the window on the shape words of its band's signals, of a free or reserved one
an ended window of reason 4, and ABORT ends it with reason 2; SIG_IDX loads the signal's words; NST_OSC_SNAP sets NST_OSC_INT
bit 11 and leaves the Crow's Nest's own state. -/
def Obligations.NestOscillation : Prop :=
  (∀ s : State, TablesWf s → s.power.st = .fullSail → s.nest.baseAt + basePeriod s * 250000000 ≤ s.ticks → baselineOk s = true →
       s.ledger.fail = false →
       Completes .baselineSave s fun t => rdB t NST_OSC_INT 8 = true ∧ t.nest.baseAt = s.ticks ∧
         ∃ b : Baseline, t.nest.baselines = lastN 2 (s.nest.baselines ++ [{ b with crc := baselineCrc b }]) ∧
           b.digest = s.cfg.nest.digest ∧ b.rate = s.cfg.tabRate ∧ b.order = rdF s NST_OSC_CFG 8 6 ∧ b.band = rd s NST_EM_BAND ∧
           b.sec = tabTime s s.nest.extracted / taiSecUnit ∧
           b.modes = (s.nest.emSlots.filter (fun p => decide (p.2.st = .tracked))).map (fun p =>
             (p.1, { p.2 with shape := largestParts p.2.shape }))) ∧
  (∀ s : State, s.power.st = .fullSail → s.nest.baseAt + basePeriod s * 250000000 ≤ s.ticks → baselineOk s = false →
       exec .baselineSave s = .next { s with nest := { s.nest with baseAt := s.ticks } }) ∧
  (∀ s : State, s.power.st = .fullSail → s.ticks < s.nest.baseAt + basePeriod s * 250000000 → exec .baselineSave s = .next s) ∧
  (∀ (who : Req) (s : State), Served who NST_BASE s → s.nest.emState = .run →
       Completes (.baselineSaveNow who) s fun t => t.nest = { s.nest with saveNow := true }) ∧
  (∀ (who : Req) (s : State), Served who NST_BASE s → s.nest.emState ≠ .run → exec (.baselineSaveNow who) s = .next (accessed who s)) ∧
  (∀ (who : Req) (i : Nat) (s : State), TablesWf s → Served who NST_MODE_CMD s → i < 8 →
       Completes (.modeLoad who) s fun t => rd t (NST_MODE_W i) = (modeWords s (rdF s NST_MODE_IDX 0 6)).getD i 0#32 ∧
         rd t NST_MODE_STAT = wordOf (2 * modeResult s (rdF s NST_MODE_IDX 0 6))) ∧
  (∀ (who : Req) (s : State), Served who NST_MODE_CMD s → modeResult s (rdF s NST_MODE_IDX 0 6) = 0 →
       Completes (.modeShape who) s fun t => t.host.windows = tset {} s.host.windows (winIdx .modeShape)
         { words := (bandSignals s (rdF s NST_MODE_IDX 0 6)).flatMap (shapeWords s (modeAt s (rdF s NST_MODE_IDX 0 6))),
           openSeq := ((window s (winIdx .modeShape)).openSeq + 1) % 2 ^ 16,
           ended := decide ((bandSignals s (rdF s NST_MODE_IDX 0 6)).flatMap (shapeWords s (modeAt s (rdF s NST_MODE_IDX 0 6))) = []),
           why := if (bandSignals s (rdF s NST_MODE_IDX 0 6)).flatMap (shapeWords s (modeAt s (rdF s NST_MODE_IDX 0 6))) = []
             then 1 else 0, pad := 0, count := 0#32 }) ∧
  (∀ (who : Req) (s : State), Served who NST_MODE_CMD s → modeResult s (rdF s NST_MODE_IDX 0 6) ≠ 0 →
       Completes (.modeShape who) s fun t => t.host.windows = tset {} s.host.windows (winIdx .modeShape)
         { words := [], openSeq := ((window s (winIdx .modeShape)).openSeq + 1) % 2 ^ 16, ended := true, why := 4 }) ∧
  (∀ (who : Req) (s : State), Served who NST_MODE_CMD s → (window s (winIdx .modeShape)).ended = false →
       Completes (.modeAbort who) s fun t => t.host.windows = tset {} s.host.windows (winIdx .modeShape)
         { window s (winIdx .modeShape) with words := [], ended := true, why := 2, cutAt := some s.ticks }) ∧
  (∀ (who : Req) (k : BitVec 13) (i : Nat) (s : State), TablesWf s → Served who NST_SIG_IDX s → i < 4 →
       Completes (.sigLoad who k) s fun t => rd t (NST_SIG_W i) = (sigWords s k.toNat).getD i 0#32 ∧ rd t NST_SIG_IDX = wordOf k.toNat) ∧
  (∀ (who : Req) (clr : Bool) (s : State), TablesWf s → Served who NST_OSC_SNAP s →
       Completes (.oscSnapshot who clr) s fun t => rdB t NST_OSC_INT 11 = true ∧ t.nest = s.nest)

/-- Status points, branches, buses and island slots of the Crow's Nest. In Full sail, STATUS_INTER_TIMEOUT of a double point whose
latest status has been intermediate for INTER_S makes it UNKNOWN in the latest status and changes nothing else; of another
point, of one with no status, or before INTER_S has passed, it leaves the state (notes/assumptions/48.md). Served: BR_IDX and
BUS_IDX load the words of the branch and of the bus; LOAD of an island slot writes its eight words and FREE; MEMBERS of an
occupied slot opens the window on its buses' words, ascending, of a free one an ended window of reason 4, and ABORT ends it with
reason 2; NST_TOP_SNAP sets NST_TOP_INT bit 8 and leaves the Crow's Nest's own state. -/
def Obligations.NestTopology : Prop :=
  (∀ (k : BitVec 16) (i : Nat) (p : PointSt) (s : State), s.power.st = .fullSail → (pointCfg s k.toNat).kind = 2 →
       tget none s.nest.latest k.toNat = some (i, p) → interOver s p = true →
       Completes (.statusInterTimeout k) s fun t =>
         t = { s with nest := { s.nest with latest := tset none s.nest.latest k.toNat (some (i, { p with unknown := true })) } }) ∧
  (∀ (k : BitVec 16) (s : State), s.power.st = .fullSail →
       (pointCfg s k.toNat).kind ≠ 2 ∨ tget none s.nest.latest k.toNat = none ∨
         (∃ i p, tget none s.nest.latest k.toNat = some (i, p) ∧ interOver s p = false) →
       exec (.statusInterTimeout k) s = .next s) ∧
  (∀ (who : Req) (k : BitVec 15) (s : State), TablesWf s → Served who NST_BR_IDX s →
       Completes (.brLoad who k) s fun t => rd t NST_BR_ENDS = (brWords s k.toNat).1 ∧ rd t NST_BR_STAT = (brWords s k.toNat).2 ∧
         rd t NST_BR_IDX = wordOf k.toNat) ∧
  (∀ (who : Req) (k : BitVec 14) (s : State), TablesWf s → Served who NST_BUS_IDX s →
       Completes (.busLoad who k) s fun t => rd t NST_BUS_STAT = busWord s k.toNat ∧ rd t NST_BUS_IDX = wordOf k.toNat) ∧
  (∀ (who : Req) (i : Nat) (s : State), TablesWf s → Served who NST_ISL_CMD s → i < 8 →
       Completes (.islLoad who) s fun t => rd t (NST_ISL_W i) = (islWords (tget {} (topNow s).slots (rdF s NST_ISL_IDX 0 8))).getD i 0#32 ∧
         rd t NST_ISL_STAT = wordOf (2 * b2n (decide ((tget ({} : IslSlot) (topNow s).slots (rdF s NST_ISL_IDX 0 8)).st = .free)))) ∧
  (∀ (who : Req) (s : State), Served who NST_ISL_CMD s → (tget ({} : IslSlot) (topNow s).slots (rdF s NST_ISL_IDX 0 8)).st ≠ .free →
       Completes (.islMembers who) s fun t => (window t (winIdx .island)).words = (window (openWindow .island
         ((sortNat (tget ({} : IslSlot) (topNow s).slots (rdF s NST_ISL_IDX 0 8)).buses).map (memberWord s)) 0 s) (winIdx .island)).words) ∧
  (∀ (who : Req) (s : State), Served who NST_ISL_CMD s → (tget ({} : IslSlot) (topNow s).slots (rdF s NST_ISL_IDX 0 8)).st = .free →
       Completes (.islMembers who) s fun t => t.host.windows = tset {} s.host.windows (winIdx .island)
         { words := [], openSeq := ((window s (winIdx .island)).openSeq + 1) % 2 ^ 16, ended := true, why := 4 }) ∧
  (∀ (who : Req) (s : State), Served who NST_ISL_CMD s → (window s (winIdx .island)).ended = false →
       Completes (.islAbort who) s fun t => t.host.windows = tset {} s.host.windows (winIdx .island)
         { window s (winIdx .island) with words := [], ended := true, why := 2, cutAt := some s.ticks }) ∧
  (∀ (who : Req) (clr : Bool) (s : State), TablesWf s → Served who NST_TOP_SNAP s →
       Completes (.topoSnapshot who clr) s fun t => rdB t NST_TOP_INT 8 = true ∧ t.nest = s.nest)

/-- GOOSE retransmission, and the words and switches of output streams and rules. In Full sail: GOOSE_RETRANSMIT of a publication
whose interval has passed sends its dataset with the next sqNum and the interval doubled up to its maximum (the model's
operation pubTransmit); of no publication, with no interval, or before it has passed, the state stays. OS_COMMAND_FRAME for a
defined stream, in RUN: a turn-on switches it on; a turn-off switches it off, and for an ALWAYS_ON stream leaves the state; a
command that asks for a header or a configuration is answered with its content; outside RUN, or for no defined stream, the state
stays. Served: PUB_IDX loads the publication's words; OS_CMD.LOAD the stream's words with EMPTY; ON and OFF switch a defined
stream and clear EMPTY, and ON of an undefined one sets EMPTY and leaves egress; RULE_CMD.LOAD loads the rule's words with
EMPTY; STORE keeps the two threshold words of a defined rule and clears EMPTY, and of an undefined one sets EMPTY and leaves
egress. -/
def Obligations.EgressStreams : Prop :=
  (∀ (p : Fin 32) (c : PubCfg) (s : State), s.power.st = .fullSail → pubCfg s p.val = some c → (pubSt s p.val).interval ≠ 0 →
       (pubSt s p.val).sentAt + 250000 * (pubSt s p.val).interval ≤ s.ticks →
       exec (.gooseRetransmit p) s = .next (pubTransmit p.val (setPub p.val { pubSt s p.val with
         sqNum := ((pubSt s p.val).sqNum + 1) % 2 ^ 32, interval := min (2 * (pubSt s p.val).interval) c.tMax } s))) ∧
  (∀ (p : Fin 32) (s : State), s.power.st = .fullSail →
       pubCfg s p.val = none ∨ (pubSt s p.val).interval = 0 ∨ s.ticks < (pubSt s p.val).sentAt + 250000 * (pubSt s p.val).interval →
       exec (.gooseRetransmit p) s = .next s) ∧
  (∀ (who : Req) (p : Fin 32) (i : Nat) (s : State), TablesWf s → Served who EGR_PUB_IDX s → i < 4 →
       Completes (.pubLoad who p) s fun t => rd t (EGR_PUB_W i) = (pubWords s p.val).getD i 0#32 ∧ rd t EGR_PUB_IDX = wordOf p.val) ∧
  (∀ (id udp : BitVec 16) (ip k : Nat) (c : OutCfg) (s : State), s.power.st = .fullSail → s.deck.st = .run →
       s.cfg.outs.find? (fun p => decide (outIdcode s p.1 p.2 = id.toNat)) = some (k, c) →
       Completes (.osCommandFrame id .turnOn ip udp) s fun t => t.egr.outs = tset {} s.egr.outs k { tget {} s.egr.outs k with on := true }) ∧
  (∀ (id udp : BitVec 16) (ip k : Nat) (c : OutCfg) (s : State), s.power.st = .fullSail → s.deck.st = .run →
       s.cfg.outs.find? (fun p => decide (outIdcode s p.1 p.2 = id.toNat)) = some (k, c) → c.alwaysOn = false →
       Completes (.osCommandFrame id .turnOff ip udp) s fun t => t.egr.outs = tset {} s.egr.outs k { tget {} s.egr.outs k with on := false }) ∧
  (∀ (id udp : BitVec 16) (ip k : Nat) (c : OutCfg) (s : State), s.power.st = .fullSail → s.deck.st = .run →
       s.cfg.outs.find? (fun p => decide (outIdcode s p.1 p.2 = id.toNat)) = some (k, c) → c.alwaysOn = true →
       exec (.osCommandFrame id .turnOff ip udp) s = .next s) ∧
  (∀ (id udp : BitVec 16) (cmd : OsCmd) (ip k : Nat) (c : OutCfg) (s : State), s.power.st = .fullSail → s.deck.st = .run →
       s.cfg.outs.find? (fun p => decide (outIdcode s p.1 p.2 = id.toNat)) = some (k, c) →
       cmd ≠ .turnOn → cmd ≠ .turnOff → cmd ≠ .extended →
       exec (.osCommandFrame id cmd ip udp) s = .next (emit (.osAnswer k cmd ip udp.toNat (osContent s k c cmd)) s)) ∧
  (∀ (id udp : BitVec 16) (cmd : OsCmd) (ip : Nat) (s : State), s.power.st = .fullSail → s.deck.st ≠ .run →
       exec (.osCommandFrame id cmd ip udp) s = .next s) ∧
  (∀ (id udp : BitVec 16) (cmd : OsCmd) (ip : Nat) (s : State), s.power.st = .fullSail →
       s.cfg.outs.find? (fun p => decide (outIdcode s p.1 p.2 = id.toNat)) = none → exec (.osCommandFrame id cmd ip udp) s = .next s) ∧
  (∀ (who : Req) (i : Nat) (s : State), TablesWf s → Served who EGR_OS_CMD s → i < 4 →
       Completes (.osLoad who) s fun t => rd t (EGR_OS_W i) = (outWords s (rdF s EGR_OS_IDX 0 6)).getD i 0#32 ∧
         rdB t EGR_OS_STAT 1 = (outCfg s (rdF s EGR_OS_IDX 0 6)).isNone) ∧
  (∀ (who : Req) (c : OutCfg) (s : State), TablesWf s → Served who EGR_OS_CMD s → outCfg s (rdF s EGR_OS_IDX 0 6) = some c →
       Completes (.osOn who) s fun t => rdB t EGR_OS_STAT 1 = false ∧
         t.egr = { s.egr with outs := tset {} s.egr.outs (rdF s EGR_OS_IDX 0 6) { tget {} s.egr.outs (rdF s EGR_OS_IDX 0 6) with on := true } }) ∧
  (∀ (who : Req) (c : OutCfg) (s : State), TablesWf s → Served who EGR_OS_CMD s → outCfg s (rdF s EGR_OS_IDX 0 6) = some c →
       Completes (.osOff who) s fun t => rdB t EGR_OS_STAT 1 = false ∧
         t.egr = { s.egr with outs := tset {} s.egr.outs (rdF s EGR_OS_IDX 0 6) { tget {} s.egr.outs (rdF s EGR_OS_IDX 0 6) with on := false } }) ∧
  (∀ (who : Req) (s : State), TablesWf s → Served who EGR_OS_CMD s → outCfg s (rdF s EGR_OS_IDX 0 6) = none →
       Completes (.osOn who) s fun t => rdB t EGR_OS_STAT 1 = true ∧ t.egr = s.egr) ∧
  (∀ (who : Req) (i : Nat) (s : State), TablesWf s → Served who EGR_RULE_CMD s → i < 8 →
       Completes (.ruleLoad who) s fun t => rd t (EGR_RULE_W01 0 + 4 * i) = (ruleWords s (rdF s EGR_RULE_IDX 0 12)).getD i 0#32 ∧
         rdB t EGR_RULE_STAT 1 = (ruleCfg s (rdF s EGR_RULE_IDX 0 12)).isNone) ∧
  (∀ (who : Req) (c : RuleCfg) (s : State), TablesWf s → Served who EGR_RULE_CMD s → ruleCfg s (rdF s EGR_RULE_IDX 0 12) = some c →
       Completes (.ruleStore who) s fun t => rdB t EGR_RULE_STAT 1 = false ∧
         t.egr = { s.egr with
           rules := tset {} s.egr.rules (rdF s EGR_RULE_IDX 0 12) {
             tget {} s.egr.rules (rdF s EGR_RULE_IDX 0 12) with stored := some (rd s (EGR_RULE_W23 0), rd s (EGR_RULE_W23 1)) } }) ∧
  (∀ (who : Req) (s : State), TablesWf s → Served who EGR_RULE_CMD s → ruleCfg s (rdF s EGR_RULE_IDX 0 12) = none →
       Completes (.ruleStore who) s fun t => rdB t EGR_RULE_STAT 1 = true ∧ t.egr = s.egr)

/-- The egress queues: staging, commits, the host's reads and the flush. Served: a host push to a host queue appends its word to the
host's staging buffer. A host commit that the queue takes (its words fit, LEN fits, the queue is in use) with room lands them as
the newest item with the next number and empties the buffer; one it does not take empties the buffer and notes OVERSIZE and
BAD_LEN; one for a full queue is held with the accesses. A Deck commit for a full queue waits in the queue. In Full sail
QCOMMIT_LAND commits the Deck's waiting item when there is room, else the host's held commit when there is; with no room, or
neither, the state stays. A host discard empties the host's buffer. A read of a flushed queue gives FLUSHED and clears it; of an
empty one 0; the first word of a longer item gives it and notes the next; the only word of a queue's one item gives it and pops
the item. A flush empties the queue's items and the read. COMPOSER_ENQUEUE lands a waiting item that has room; with none the
state stays. OS_ITEM_ABANDON drops the first output-stream item that has waited one nominal cycle, sets EGR_INT bit 4 and counts
1; with none the state stays. EGR_SNAP sets EGR_INT bit 8 and leaves egress. -/
def Obligations.EgressQueues : Prop :=
  (∀ (q : Fin 32) (v : Word) (s : State), Served .host (EGR_Q_PUSH q.val) s → qHost s q.val = true →
       Completes (.qPush .host q v) s fun t => t.egr.queues = tset {} s.egr.queues q.val { queue s q.val with
         staged := tset [] (queue s q.val).staged 0 (tget [] (queue s q.val).staged 0 ++ [v]) }) ∧
  (∀ (q : Fin 32) (prio : Fin 8) (len : BitVec 14) (s : State), twf ({} : Queue) s.egr.queues = true →
       Served .host (EGR_Q_COMMIT q.val) s → commitDiscards s q.val (staged s q.val 0) len.toNat = false → qFull s q.val len.toNat = false →
       Completes (.qCommit .host q prio len) s fun t => t.egr.nextId = s.egr.nextId + 1 ∧
         queue t q.val = { queue s q.val with
           staged := tset [] (queue s q.val).staged 0 [], oversize := stagedOver s q.val (staged s q.val 0),
           badLen := badLen (staged s q.val 0) len.toNat,
           items := (queue s q.val).items ++ [{ ident := s.egr.nextId, prio := prio.val, len := len.toNat, body := .words ((staged s q.val 0).take (divUp len.toNat 4)) }] }) ∧
  (∀ (q : Fin 32) (prio : Fin 8) (len : BitVec 14) (s : State), Served .host (EGR_Q_COMMIT q.val) s →
       commitDiscards s q.val (staged s q.val 0) len.toNat = true →
       Completes (.qCommit .host q prio len) s fun t => t.egr = { s.egr with
         queues := tset {} s.egr.queues q.val { queue s q.val with
           staged := tset [] (queue s q.val).staged 0 [], oversize := stagedOver s q.val (staged s q.val 0),
           badLen := badLen (staged s q.val 0) len.toNat } }) ∧
  (∀ (q : Fin 32) (prio : Fin 8) (len : BitVec 14) (s : State), Served .host (EGR_Q_COMMIT q.val) s →
       commitDiscards s q.val (staged s q.val 0) len.toNat = false → qFull s q.val len.toNat = true →
       Completes (.qCommit .host q prio len) s fun t => t.host.held = s.host.held ++ [.qCommit .host q prio len] ∧ t.egr = s.egr) ∧
  (∀ (k : Fin 4) (q : Fin 32) (prio : Fin 8) (len : BitVec 14) (s : State), Served (.deck k) (EGR_Q_COMMIT q.val) s →
       (queue s q.val).waiting = none → commitDiscards s q.val (staged s q.val 1) len.toNat = false → qFull s q.val len.toNat = true →
       Completes (.qCommit (.deck k) q prio len) s fun t =>
         t.egr.queues = tset {} s.egr.queues q.val { queue s q.val with waiting := some (prio.val, len.toNat) }) ∧
  (∀ (q : Fin 32) (prio len : Nat) (s : State), s.power.st = .fullSail → (queue s q.val).waiting = some (prio, len) →
       qFull s q.val len = false →
       exec (.qCommitLand q) s = .next (commitNow q.val 1 prio len (setQueue q.val { queue s q.val with waiting := none } s))) ∧
  (∀ (q : Fin 32) (prio : Fin 8) (len : BitVec 14) (r : List Instr) (s : State), s.power.st = .fullSail → (queue s q.val).waiting = none →
       s.host.held = .qCommit .host q prio len :: r → qFull s q.val len.toNat = false →
       exec (.qCommitLand q) s = .next (commitNow q.val 0 prio.val len.toNat { s with host := { s.host with held := r, heldAt := s.ticks } })) ∧
  (∀ (q : Fin 32) (prio len : Nat) (s : State), s.power.st = .fullSail → (queue s q.val).waiting = some (prio, len) →
       qFull s q.val len = true → exec (.qCommitLand q) s = .next s) ∧
  (∀ (q : Fin 32) (s : State), s.power.st = .fullSail → (queue s q.val).waiting = none → s.host.held = [] →
       exec (.qCommitLand q) s = .next s) ∧
  (∀ (q : Fin 32) (s : State), Served .host (EGR_Q_COMMIT q.val) s →
       Completes (.qDiscard .host q) s fun t =>
         t.egr.queues = tset {} s.egr.queues q.val { queue s q.val with staged := tset [] (queue s q.val).staged 0 [] }) ∧
  (∀ (q : Fin 32) (s : State), Served .host (EGR_Q_POP q.val 0) s → (queue s q.val).flushed = true →
       Completes (.qPop q) s fun t => t.out = s.out ++ [.readData .host (BitVec.ofNat 64 (2 ^ 53))] ∧
         t.egr.queues = tset {} s.egr.queues q.val { queue s q.val with flushed := false }) ∧
  (∀ (q : Fin 32) (s : State), Served .host (EGR_Q_POP q.val 0) s → (queue s q.val).flushed = false → (queue s q.val).items = [] →
       (queue s q.val).reading = none →
       Completes (.qPop q) s fun t => t.out = s.out ++ [.readData .host 0#64] ∧ t.egr = s.egr) ∧
  (∀ (q : Fin 32) (i : QItem) (s : State), Served .host (EGR_Q_POP q.val 0) s →
       (queue s q.val).flushed = false → qHost s q.val = true → (queue s q.val).reading = none → qFirst (queue s q.val).items = some i → 4 < i.len →
       Completes (.qPop q) s fun t => t.out = s.out ++ [.readData .host (popWord i 0)] ∧
         t.egr.queues = tset {} s.egr.queues q.val { queue s q.val with reading := some (i.ident, 1) }) ∧
  (∀ (q : Fin 32) (i : QItem) (s : State), twf ({} : Queue) s.egr.queues = true → Served .host (EGR_Q_POP q.val 0) s →
       (queue s q.val).flushed = false → qHost s q.val = true → (queue s q.val).items = [i] → (queue s q.val).reading = none → i.len ≤ 4 →
       Completes (.qPop q) s fun t => t.out = s.out ++ [.readData .host (popWord i 0)] ∧ (queue t q.val).items = []) ∧
  (∀ (who : Req) (q : Fin 32) (s : State), Served who (EGR_Q_CTRL q.val) s →
       Completes (.qFlush who q) s fun t => t.egr = { s.egr with
         queues := tset {} s.egr.queues q.val { queue s q.val with items := [], reading := none, flushed := true } }) ∧
  (∀ (q : Nat) (i : QItem) (s : State), s.power.st = .fullSail → waiterReady? s = some (q, i) →
       exec .composerEnqueue s = .next (qLand q i { s with egr := { s.egr with
         waits := s.egr.waits.filter (fun w => decide (w.2.ident ≠ i.ident)) } })) ∧
  (∀ s : State, s.power.st = .fullSail → waiterReady? s = none → exec .composerEnqueue s = .next s) ∧
  (∀ (q : Nat) (i : QItem) (s : State), TablesWf s → s.power.st = .fullSail → s.egr.waits.find? (fun w => w.2.stream.isSome && decide (250000000 ≤ (s.ticks - w.2.since) * nominalHz s)) = some (q, i) →
       Completes .osItemAbandon s fun t => rdB t EGR_INT 4 = true ∧
         t.egr.waits = s.egr.waits.filter (fun w => decide (w.2.ident ≠ i.ident)) ∧
         liveCnt t (EGR_CNT 16) = (liveCnt s (EGR_CNT 16) + 1) % 2 ^ 64) ∧
  (∀ s : State, s.power.st = .fullSail →
       s.egr.waits.find? (fun w => w.2.stream.isSome && decide (250000000 ≤ (s.ticks - w.2.since) * nominalHz s)) = none →
       exec .osItemAbandon s = .next s) ∧
  (∀ (who : Req) (clr : Bool) (s : State), TablesWf s → Served who EGR_SNAP s →
       Completes (.egressSnapshot who clr) s fun t => rdB t EGR_INT 8 = true ∧ t.egr = s.egr)

/-- The start of a transmission and the bulk transfers. In Full sail with the data path started: TX_START on an enabled port with
link, awake and not sending, of the class whose turn it is, takes the first item of the class's next queue out of it and notes
the queue as served; where the node is not muted and the item's key is usable the port starts its frame with the Mast's time as
its stamp; a muted node counts it in MUTED_ITEMS and leaves the ports; with no turn, no enabled port, no link, a frame running
or a wake running the state stays. Served: XF_CMD.GO with a job the registers describe and bytes to send starts it with BUSY and
counts it, and while one runs changes nothing but the access; ABORT ends the job with ABORTED and EGR_INT bit 6, and with none
changes nothing but the access. In Full sail XF_DATAGRAM of a running job whose time has come, with none of its datagrams
waiting, moves the job by its payload of 1,408 bytes and sets its next time by the rate, the datagram landing last in the job's
queue where that has room and nothing waits for it; the last one ends the job with OK and EGR_INT bit 6; with no job, one
waiting, or before its time the state stays (notes/assumptions/49.md). -/
def Obligations.EgressTransmission : Prop :=
  (∀ (p : Fin 64) (c : Fin 8) (i : QItem) (s : State), s.power.st = .fullSail → s.boot.dataPath = true → portOn s p.val = true → (port s p.val).linkUp = true → wakeDone s p.val = true →
       (port s p.val).tx = none → classTurn s p.val c.val = true →
       qFirst (queue s (nextQueue (classQueues s p.val c.val) (tget 32 s.egr.rr (8 * p.val + c.val)))).items = some i →
       Completes (.txStart p c) s fun t => t.egr.rr = tset 32 s.egr.rr (8 * p.val + c.val)
           (nextQueue (classQueues s p.val c.val) (tget 32 s.egr.rr (8 * p.val + c.val))) ∧
         t.egr.queues = (qRemove (nextQueue (classQueues s p.val c.val) (tget 32 s.egr.rr (8 * p.val + c.val))) i.ident s).egr.queues) ∧
  (∀ (p : Fin 64) (c : Fin 8) (i : QItem) (s : State), s.power.st = .fullSail → s.boot.dataPath = true → portOn s p.val = true →
       (port s p.val).linkUp = true → wakeDone s p.val = true → (port s p.val).tx = none → classTurn s p.val c.val = true →
       isMuted s = false → keyFails s i = false →
       qFirst (queue s (nextQueue (classQueues s p.val c.val) (tget 32 s.egr.rr (8 * p.val + c.val)))).items = some i →
       Completes (.txStart p c) s fun t => (port t p.val).tx = some (itemFrame s i) ∧ (port t p.val).txStamp = s.tai) ∧
  (∀ (p : Fin 64) (c : Fin 8) (i : QItem) (s : State), TablesWf s → s.power.st = .fullSail → s.boot.dataPath = true →
       portOn s p.val = true → (port s p.val).linkUp = true → wakeDone s p.val = true → (port s p.val).tx = none → classTurn s p.val c.val = true → isMuted s = true →
       qFirst (queue s (nextQueue (classQueues s p.val c.val) (tget 32 s.egr.rr (8 * p.val + c.val)))).items = some i →
       Completes (.txStart p c) s fun t => liveCnt t (EGR_CNT 20) = (liveCnt s (EGR_CNT 20) + 1) % 2 ^ 64 ∧ t.ports = s.ports) ∧
  (∀ (p : Fin 64) (c : Fin 8) (s : State), s.power.st = .fullSail →
       classTurn s p.val c.val = false ∨ portOn s p.val = false ∨ (port s p.val).linkUp = false ∨ (port s p.val).tx ≠ none ∨ wakeDone s p.val = false →
       exec (.txStart p c) s = .next s) ∧
  (∀ (who : Req) (j : XfJob) (s : State), TablesWf s → Served who EGR_XF_CMD s → s.egr.xf = none → xfJob s = some j → j.ofs < j.bytes.length →
       Completes (.xfGo who) s fun t => t.egr = { s.egr with xfCount := (s.egr.xfCount + 1) % 2 ^ 16, xf := some j } ∧
         rdF t EGR_XF_STAT 0 1 = 1) ∧
  (∀ (who : Req) (j : XfJob) (s : State), Served who EGR_XF_CMD s → s.egr.xf = some j → exec (.xfGo who) s = .next (accessed who s)) ∧
  (∀ (who : Req) (j : XfJob) (s : State), TablesWf s → Served who EGR_XF_CMD s → s.egr.xf = some j →
       Completes (.xfAbort who) s fun t => t.egr = { s.egr with xf := none } ∧ rdF t EGR_XF_STAT 0 4 = 6 ∧ rdB t EGR_INT 6 = true) ∧
  (∀ (who : Req) (s : State), Served who EGR_XF_CMD s → s.egr.xf = none → exec (.xfAbort who) s = .next (accessed who s)) ∧
  (∀ (j : XfJob) (s : State), s.power.st = .fullSail → s.egr.xf = some j → xfWaiting s = false → j.nextAt ≤ s.ticks →
       j.ofs + 1408 < j.bytes.length →
       Completes .xfDatagram s fun t => t.egr.xf = some { j with ofs := j.ofs + 1408, nextAt := s.ticks + divUp (1408 * 2000) j.rate }) ∧
  (∀ (j : XfJob) (s : State), s.power.st = .fullSail → s.egr.xf = some j → xfWaiting s = false → j.nextAt ≤ s.ticks →
       j.ofs + 1408 < j.bytes.length → qUsed s j.queue = true → qFull s j.queue 1470 = false →
       s.egr.waits.all (fun w => decide (w.1 ≠ j.queue)) = true →
       Completes .xfDatagram s fun t => (queue t j.queue).items = (queue s j.queue).items ++
         [{ ident := s.egr.nextId, prio := 0, len := 1470,
            body := .datagram j.job j.typ j.dest false j.ofs ((j.bytes.drop j.ofs).take 1408) }]) ∧
  (∀ (j : XfJob) (s : State), TablesWf s → s.power.st = .fullSail → s.egr.xf = some j → xfWaiting s = false → j.nextAt ≤ s.ticks →
       j.bytes.length ≤ j.ofs + 1408 →
       Completes .xfDatagram s fun t => t.egr.xf = none ∧ rdF t EGR_XF_STAT 0 4 = 0 ∧ rdB t EGR_INT 6 = true) ∧
  (∀ s : State, s.power.st = .fullSail → s.egr.xf = none ∨ (∃ j, s.egr.xf = some j ∧ (xfWaiting s = true ∨ s.ticks < j.nextAt)) →
       exec .xfDatagram s = .next s)

/-- The Packer's jobs and blocks. Served: JOB_PACK, JOB_UNPACK and JOB_RAW with no job running and LEN not 0 put the Deck's input at
PAK_J_SRC (a host job brings none) and start the job of the operation with the destination registers, a block of at least 4 KiB
and nothing done, with BUSY; JOB_PACK with LEN 0 ends at once with OK and PAK_INT bit 0 (notes/assumptions/49.md); while a job
runs each changes nothing but the access. JOB_FLUSH ends the channel-3 packing block in progress after the bytes consumed, where
some and not all are; with none consumed it changes nothing but the access. JOB_ABORT of a job ends it with ABORTED, PAK_INT bit
1 and one count; with none it changes nothing but the access. In Full sail: PACKER_BLOCK_START of an idle engine takes the next
block there is (the model's operation takeBlock, by channel), and with none, or with a block running, leaves the state.
PACKER_BLOCK_DONE finishes the running block (the model's operation finishBlock); for a window that has ended, and for an
unpacking whose job was cancelled, the engine only becomes idle; with no block the state stays. Served, PAK_SNAP sets PAK_INT
bit 3 and leaves the Packer's own state. -/
def Obligations.PackerJobs : Prop :=
  (∀ (who : Req) (k : BitVec 16) (input : List Byte) (s : State), TablesWf s → Served who PAK_J_CMD s → s.pak.job = none →
       rd s PAK_J_LEN ≠ 0#32 →
       Completes (.jobPack who k input) s fun t => rd t PAK_J_STAT = 1#32 ∧
         t.pak.mem = regionWrite (rd s PAK_J_SRC).toNat (jobInput who input) s.pak.mem ∧
         (t.pak.job.map fun j => (j.op, j.dst, j.dlen, j.block, j.pos, j.out)) =
           some (0, (rd s PAK_J_DST).toNat, (rd s PAK_J_DLEN).toNat, atLeast 4 k.toNat * 1024, 0, [])) ∧
  (∀ (who : Req) (k : BitVec 16) (input : List Byte) (s : State), TablesWf s → Served who PAK_J_CMD s → s.pak.job = none →
       rd s PAK_J_LEN ≠ 0#32 →
       Completes (.jobUnpack who k input) s fun t => rd t PAK_J_STAT = 1#32 ∧
         (t.pak.job.map fun j => (j.op, j.dst, j.dlen, j.pos, j.out)) =
           some (1, (rd s PAK_J_DST).toNat, (rd s PAK_J_DLEN).toNat, 0, [])) ∧
  (∀ (who : Req) (k : BitVec 16) (input : List Byte) (s : State), TablesWf s → Served who PAK_J_CMD s → s.pak.job = none →
       rd s PAK_J_LEN ≠ 0#32 →
       Completes (.jobRaw who k input) s fun t => rd t PAK_J_STAT = 1#32 ∧
         (t.pak.job.map fun j => (j.op, j.dst, j.dlen, j.block, j.pos, j.out)) =
           some (2, (rd s PAK_J_DST).toNat, (rd s PAK_J_DLEN).toNat, atLeast 4 k.toNat * 1024, 0, [])) ∧
  (∀ (who : Req) (k : BitVec 16) (input : List Byte) (s : State), TablesWf s → Served who PAK_J_CMD s → s.pak.job = none →
       rd s PAK_J_LEN = 0#32 →
       Completes (.jobPack who k input) s fun t => rd t PAK_J_STAT = 0#32 ∧ rdB t PAK_INT 0 = true ∧ t.pak.job = none) ∧
  (∀ (who : Req) (k : BitVec 16) (input : List Byte) (j : PakJob) (s : State), Served who PAK_J_CMD s → s.pak.job = some j →
       exec (.jobPack who k input) s = .next (accessed who s) ∧ exec (.jobUnpack who k input) s = .next (accessed who s) ∧
         exec (.jobRaw who k input) s = .next (accessed who s)) ∧
  (∀ (who : Req) (n : Nat) (b : PakBlock) (s : State), Served who PAK_J_CMD s → s.pak.engine = some b → b.chan = 3 → b.unpack = false →
       0 < n → n < b.bytes.length →
       Completes (.jobFlush who n) s fun t =>
         t.pak = { s.pak with engine := some { b with bytes := b.bytes.take n, flushed := true, last := false } }) ∧
  (∀ (who : Req) (b : PakBlock) (s : State), Served who PAK_J_CMD s → s.pak.engine = some b →
       exec (.jobFlush who 0) s = .next (accessed who s)) ∧
  (∀ (who : Req) (j : PakJob) (s : State), TablesWf s → Served who PAK_J_CMD s → s.pak.job = some j →
       Completes (.jobAbort who) s fun t => t.pak.job = none ∧ rdB t PAK_INT 1 = true ∧
         rd t PAK_J_STAT = wordOf (2 * pakABORTED) ∧ liveCnt t (PAK_CNT 10) = (liveCnt s (PAK_CNT 10) + 1) % 2 ^ 64) ∧
  (∀ (who : Req) (s : State), Served who PAK_J_CMD s → s.pak.job = none → exec (.jobAbort who) s = .next (accessed who s)) ∧
  (∀ (b : PakBlock) (t : State) (s : State), s.power.st = .fullSail → s.pak.engine = none → takeBlock s = some (b, t) →
       exec .packerBlockStart s = .next { t with pak := { t.pak with engine := some { b with shed := s.pak.shed } } }) ∧
  (∀ s : State, s.power.st = .fullSail → s.pak.engine = none → takeBlock s = none → exec .packerBlockStart s = .next s) ∧
  (∀ (b : PakBlock) (s : State), s.power.st = .fullSail → s.pak.engine = some b → exec .packerBlockStart s = .next s) ∧
  (∀ (b : PakBlock) (s : State), s.power.st = .fullSail → s.pak.engine = some b → exec .packerBlockDone s = .next (finishBlock b s)) ∧
  (∀ (b : PakBlock) (s : State), s.power.st = .fullSail → s.pak.engine = some b → b.unpack = false → b.chan ≠ 0 → b.chan ≠ 3 →
       (window s b.window).ended = true → Completes .packerBlockDone s fun t => t.pak = { s.pak with engine := none }) ∧
  (∀ (b : PakBlock) (s : State), s.power.st = .fullSail → s.pak.engine = some b → b.unpack = true → s.pak.job = none →
       Completes .packerBlockDone s fun t => t.pak = { s.pak with engine := none } ∧ t.regs = s.regs) ∧
  (∀ s : State, s.power.st = .fullSail → s.pak.engine = none → exec .packerBlockDone s = .next s) ∧
  (∀ (who : Req) (clr : Bool) (s : State), TablesWf s → Served who PAK_SNAP s →
       Completes (.packerSnapshot who clr) s fun t => rdB t PAK_INT 3 = true ∧ t.pak = s.pak)

/-- Memory integrity: uncorrectable errors, corrections and patrol. Outside Furled: MEM_UE at an address of its region outside the
poison list counts 1 uncorrectable error of the region, latches the address in MEM_UE_ADDR and sets MEM_INT bit 1; the named
contents it struck, where they lie in the region, take the consequence of the spec's table (the model's operation
consequenceOf); at an address on the list it only takes it off the list. MEM_CE at an address of its region and not on a
degraded channel's other lanes counts 1 correction of the region and counts the lane and the 4 KiB unit (the model's operations
laneCount and unitCount); on another lane of the degraded channel it counts as an uncorrectable error. Outside the region both
leave the state (notes/assumptions/18.md). In Full sail, PATROL_READ when due of a clean codeword moves to the next, and after
the last starts the next pass with the configured period, the lane and unit counts empty and MEM_INT bit 4 set; of an
uncorrectable one not on the poison list it notes the error, adds the codeword to the list and moves on; before its time it
leaves the state. Served, MEM_SNAP sets MEM_INT bit 5 and leaves the memory's own state. -/
def Obligations.MemoryErrors : Prop :=
  (∀ (region : Fin 15) (addr : BitVec 36) (s : State), TablesWf s → s.power.st ≠ .furled → inRegion region.val addr.toNat = true →
       addr.toNat / 32 ∉ s.mem.poison →
       Completes (.memUe region addr .none) s fun t =>
         liveCnt t (MEM_CNT region.val 2) = (liveCnt s (MEM_CNT region.val 2) + 1) % 2 ^ 64 ∧
         rd t MEM_UE_ADDR_LO = loWord addr.toNat ∧ rdB t MEM_INT 1 = true ∧ t.mem = s.mem) ∧
  (∀ (region : Fin 15) (addr : BitVec 36) (target : UeTarget) (s : State), s.power.st ≠ .furled → inRegion region.val addr.toNat = true →
       addr.toNat / 32 ∉ s.mem.poison → region.val ∈ targetRegions target →
       exec (.memUe region addr target) s = .next (consequenceOf region.val target (noteUe region.val addr.toNat s))) ∧
  (∀ (region : Fin 15) (addr : BitVec 36) (s : State), s.power.st ≠ .furled → inRegion region.val addr.toNat = true →
       addr.toNat / 32 ∈ s.mem.poison →
       exec (.memUe region addr .none) s = .next { s with mem := { s.mem with
         poison := s.mem.poison.filter (fun c => decide (c ≠ addr.toNat / 32)) } }) ∧
  (∀ (region : Fin 15) (addr : BitVec 36) (ch : Fin 2) (lane : Fin 4) (target : UeTarget) (s : State), s.power.st ≠ .furled →
       inRegion region.val addr.toNat = false →
       exec (.memUe region addr target) s = .next s ∧ exec (.memCorrection region addr ch lane target) s = .next s) ∧
  (∀ (region : Fin 15) (addr : BitVec 36) (ch : Fin 2) (lane : Fin 4) (target : UeTarget) (s : State), TablesWf s → s.power.st ≠ .furled →
       inRegion region.val addr.toNat = true → onDegraded ch.val lane.val s = false →
       Completes (.memCorrection region addr ch lane target) s fun t =>
         liveCnt t (MEM_CNT region.val 0) = (liveCnt s (MEM_CNT region.val 0) + 1) % 2 ^ 64 ∧
         t = unitCount region.val addr.toNat (laneCount ch.val lane.val (raise MEM_INT 0 (count (MEM_CNT region.val 0) 1 s)))) ∧
  (∀ (region : Fin 15) (addr : BitVec 36) (ch : Fin 2) (lane : Fin 4) (l : Nat) (s : State), TablesWf s → s.power.st ≠ .furled →
       inRegion region.val addr.toNat = true → s.mem.degraded = some (ch.val, l) → l ≠ lane.val →
       Completes (.memCorrection region addr ch lane .none) s fun t =>
         liveCnt t (MEM_CNT region.val 2) = (liveCnt s (MEM_CNT region.val 2) + 1) % 2 ^ 64 ∧
         rd t MEM_UE_ADDR_LO = loWord addr.toNat ∧ rdB t MEM_INT 1 = true ∧ t.mem = s.mem) ∧
  (∀ (region : Fin 15) (s : State), s.power.st = .fullSail → patrolDue s = true → s.mem.scrubAt + 1 < 469762048 →
       exec (.patrolRead region .clean) s = .next { s with mem := { s.mem with scrubAt := s.mem.scrubAt + 1 } }) ∧
  (∀ (region : Fin 15) (s : State), TablesWf s → s.power.st = .fullSail → patrolDue s = true → 469762048 ≤ s.mem.scrubAt + 1 →
       Completes (.patrolRead region .clean) s fun t => t.mem.scrubAt = 0 ∧ t.mem.laneCe = [] ∧ t.mem.unitCe = [] ∧
         t.mem.scrubPeriod = atLeast 1 (rdF s MEM_SCRUB 0 8) ∧ rdB t MEM_INT 4 = true) ∧
  (∀ (region : Fin 15) (r : PatrolResult) (s : State), s.power.st = .fullSail → patrolDue s = false →
       exec (.patrolRead region r) s = .next s) ∧
  (∀ (region : Fin 15) (s : State), s.power.st = .fullSail → patrolDue s = true → s.mem.scrubAt ∉ s.mem.poison →
       exec (.patrolRead region .uncorrectable) s = .next (patrolNext
         { noteUe (patrolRegion region.val (32 * s.mem.scrubAt)) (32 * s.mem.scrubAt) s with
           mem := { s.mem with poison := s.mem.poison ++ [s.mem.scrubAt] } })) ∧
  (∀ (who : Req) (clr : Bool) (s : State), TablesWf s → Served who MEM_SNAP s →
       Completes (.memSnapshot who clr) s fun t => rdB t MEM_INT 5 = true ∧ t.mem = s.mem)

/-- Posts, CANCEL, WAIT and thread faults on the Deck. In Full sail: POST_APPLY applies the front post, if there is one, counts it,
then offers the held posts and the trigger FIFO and dispatches; a post to a DORMANT thread counts 1 in LOST and leaves the Deck.
POST_INSTRUCTION of a core that runs a thread (a customer's only to customer threads) offers the post, which enters the queue
where it has room; of an idle core, or to a firmware thread from a customer's, the state stays. TICK_TIMEOUT of a thread whose
timeout has run down clears it and posts the thread; of another the state stays. THREAD_WAIT with a post pending consumes it;
with none the thread is WAITING with its timeout (0: none) and its core idle, and the Deck dispatches. THREAD_FAULT of a
customer thread stops it FAULTED with its posts cleared, sets CTL_INT bit 5, records it, and makes it ready again unless it is
the third fault within 60 s; of a firmware thread the state stays (notes/assumptions/50.md). Served: a host POST to a thread
with HOST_POST enters the queue, is held behind one that is held, and to a thread without it is refused; a CANCEL clears the
posts and counts 1, and takes a READY thread to WAITING; CTL_TH_IDX loads the thread's two words. -/
def Obligations.DeckPosts : Prop :=
  (∀ (t : Nat) (r : List Nat) (s : State), s.power.st = .fullSail → s.deck.postq = t :: r →
       exec .postApply s = .next (dispatch (drainTrig 32 (retryHeld (applyPost t (count (CTL_SCH_CNT 0) 1
         { s with deck := { s.deck with postq := r } })))))) ∧
  (∀ s : State, s.power.st = .fullSail → s.deck.postq = [] →
       exec .postApply s = .next (dispatch (drainTrig 32 (retryHeld s)))) ∧
  (∀ (t : Nat) (s : State), TablesWf s → (thread s t).st = .dormant →
       liveCnt (applyPost t s) (CTL_SCH_CNT 12) = (liveCnt s (CTL_SCH_CNT 12) + 1) % 2 ^ 64 ∧ (applyPost t s).deck = s.deck) ∧
  (∀ (c : Fin 4) (t : Fin 256) (u : Nat) (s : State), s.power.st = .fullSail → tget none s.deck.running c.val = some u →
       u < 64 ∨ 64 ≤ t.val → exec (.postInstruction c t) s = .next (offerPost (.instr c.val) t.val s)) ∧
  (∀ (c : Fin 4) (t : Fin 256) (s : State), s.power.st = .fullSail →
       tget none s.deck.running c.val = none ∨ (t.val < 64 ∧ ∃ u, tget none s.deck.running c.val = some u ∧ 64 ≤ u) →
       exec (.postInstruction c t) s = .next s) ∧
  (∀ (c : Fin 4) (t : Fin 256) (u : Nat) (s : State), s.power.st = .fullSail → tget none s.deck.running c.val = some u →
       u < 64 ∨ 64 ≤ t.val → postRoom s t.val = true →
       exec (.postInstruction c t) s = .next { s with deck := { s.deck with postq := s.deck.postq ++ [t.val] } }) ∧
  (∀ (t : Fin 256) (s : State), Served .host CTL_HPOST s → (thread s t.val).hostPost = true → hostPosting s = false →
       postRoom s t.val = true →
       Completes (.hostPost t) s fun u => u.deck = { s.deck with hostRefused := false, postq := s.deck.postq ++ [t.val] }) ∧
  (∀ (t : Fin 256) (s : State), Served .host CTL_HPOST s → (thread s t.val).hostPost = false →
       Completes (.hostPost t) s fun u => u.deck = { s.deck with hostRefused := true }) ∧
  (∀ (t : Fin 256) (s : State), Served .host CTL_HPOST s → (thread s t.val).hostPost = true → hostPosting s = true →
       Completes (.hostPost t) s fun u => u.host.held = s.host.held ++ [.hostPost t] ∧ u.deck = s.deck) ∧
  (∀ (t : Fin 256) (s : State), TablesWf s → Served .host CTL_HPOST s → (thread s t.val).hostPost = true → hostPosting s = false →
       (thread s t.val).st = .waiting →
       Completes (.hostCancel t false) s fun u => u.deck.threads = tset {} s.deck.threads t.val { thread s t.val with posts := 0 } ∧
         liveCnt u (CTL_SCH_CNT 6) = (liveCnt s (CTL_SCH_CNT 6) + 1) % 2 ^ 64) ∧
  (∀ (t : Fin 256) (s : State), TablesWf s → Served .host CTL_HPOST s → (thread s t.val).hostPost = true → hostPosting s = false →
       (thread s t.val).st = .ready →
       Completes (.hostCancel t false) s fun u => u.deck.ready = s.deck.ready.filter (fun k => decide (k ≠ t.val)) ∧
         u.deck.threads = tset {} s.deck.threads t.val { thread s t.val with posts := 0, st := .waiting } ∧
         liveCnt u (CTL_SCH_CNT 6) = (liveCnt s (CTL_SCH_CNT 6) + 1) % 2 ^ 64) ∧
  (∀ (t : Fin 256) (s : State), s.power.st = .fullSail → (thread s t.val).timeout = some 0 →
       exec (.tickTimeout t) s = .next (offerPost .tick t.val { s with deck := { s.deck with
         threads := tset {} s.deck.threads t.val { thread s t.val with timeout := none } } })) ∧
  (∀ (t : Fin 256) (s : State), s.power.st = .fullSail → (thread s t.val).timeout ≠ some 0 → exec (.tickTimeout t) s = .next s) ∧
  (∀ (c : Fin 4) (n : BitVec 16) (t : Nat) (s : State), s.power.st = .fullSail → tget none s.deck.running c.val = some t →
       0 < (thread s t).posts →
       exec (.threadWait c n) s = .next { s with deck := { s.deck with
         threads := tset {} s.deck.threads t { thread s t with posts := (thread s t).posts - 1 } } }) ∧
  (∀ (c : Fin 4) (n : BitVec 16) (t : Nat) (s : State), s.power.st = .fullSail → tget none s.deck.running c.val = some t →
       (thread s t).posts = 0 → n ≠ 0#16 →
       exec (.threadWait c n) s = .next (dispatch { s with deck := { s.deck with
         threads := tset {} s.deck.threads t { thread s t with st := .waiting, timeout := some n.toNat },
         running := tset none s.deck.running c.val none } })) ∧
  (∀ (c : Fin 4) (t : Nat) (s : State), s.power.st = .fullSail → tget none s.deck.running c.val = some t →
       (thread s t).posts = 0 →
       exec (.threadWait c 0#16) s = .next (dispatch { s with deck := { s.deck with
         threads := tset {} s.deck.threads t { thread s t with st := .waiting, timeout := none },
         running := tset none s.deck.running c.val none } })) ∧
  (∀ (c : Fin 4) (t : Nat) (s : State), s.power.st = .fullSail → tget none s.deck.running c.val = some t → 64 ≤ t →
       3 ≤ (s.ticks :: (thread s t).faultTicks.filter (fun k => decide (s.ticks ≤ k + 15000000000))).length →
       exec (.threadFault c) s = .next (dispatch (logEvent srcCTL 3 4 (wordOf t) [] (setInt CTL_INT 5 (setThread t
         { thread s t with
           st := .faulted, posts := 0, timeout := none, faults := satAdd (thread s t).faults 1 255,
           faultTicks := s.ticks :: (thread s t).faultTicks.filter (fun k => decide (s.ticks ≤ k + 15000000000)) }
         (setRunning c.val none s)))))) ∧
  (∀ (c : Fin 4) (t : Nat) (s : State), s.power.st = .fullSail → tget none s.deck.running c.val = some t → 64 ≤ t →
       (s.ticks :: (thread s t).faultTicks.filter (fun k => decide (s.ticks ≤ k + 15000000000))).length < 3 →
       exec (.threadFault c) s = .next (dispatch (makeReady false t (logEvent srcCTL 3 4 (wordOf t) [] (setInt CTL_INT 5 (setThread t
         { thread s t with
           st := .faulted, posts := 0, timeout := none, faults := satAdd (thread s t).faults 1 255,
           faultTicks := s.ticks :: (thread s t).faultTicks.filter (fun k => decide (s.ticks ≤ k + 15000000000)) }
         (setRunning c.val none s))))))) ∧
  (∀ (c : Fin 4) (t : Nat) (s : State), s.power.st = .fullSail → tget none s.deck.running c.val = some t → t < 64 →
       exec (.threadFault c) s = .next s) ∧
  (∀ (who : Req) (t : Fin 256) (s : State), TablesWf s → Served who CTL_TH_IDX s →
       Completes (.thLoad who t) s fun u => rd u (CTL_TH_W 0) = (thWords s t.val).getD 0 0#32 ∧
         rd u (CTL_TH_W 1) = (thread s t.val).dispatches ∧ rd u CTL_TH_IDX = wordOf t.val)

/-- The watchdog, machine checks and the restart of the Deck. Served: a kick of a Deck core restarts the watchdog's period, and the
host's changes nothing but the access. The host's key restarts a Deck in RUN or FAILED with cause 4, only counts 1 for one that
restarts already, and another key changes nothing but the access. In Full sail: WDOG_EXPIRY of a running watchdog whose period
has passed, in RUN, sets CTL_INT bit 4 and restarts the Deck with cause 2; with the watchdog off, before the period, or in
another state it leaves the state. MACHINE_CHECK in RUN sets CTL_INT bit 3 and restarts the Deck with cause 3, or in a
customer's pages faults the thread; in another state it leaves the state. A restart with the Mast not locked leaves the Deck
RESTARTING with its cause, no posts, no ready threads and the watchdog off. RESTART_DONE, verified, of a RESTARTING Deck loads
the code and runs the Deck (the model's operations bootLoadCode, deckRun, bootDeckRun), and deckRun at a start gives RUN;
unverified it leaves the state. DECK_FAILED, 1 s after the restart began, of a RESTARTING Deck leaves it FAILED (deckFail,
bootDeckFailed); earlier, or in another state, both leave the state (notes/assumptions/50.md). -/
def Obligations.DeckRestart : Prop :=
  (∀ (k : Fin 4) (s : State), Served (.deck k) CTL_WDOG s →
       Completes (.wdogKick (.deck k)) s fun t => t.deck = { s.deck with wdogAt := s.ticks }) ∧
  (∀ s : State, Served .host CTL_WDOG s → exec (.wdogKick .host) s = .next (accessed .host s)) ∧
  (∀ s : State, s.power.st = .fullSail → wdogDue s = true → s.deck.st = .run →
       exec .wdogExpiry s = .next (restartBegin 2 (setInt CTL_INT 4 s))) ∧
  (∀ s : State, s.power.st = .fullSail →
       s.deck.wdogOn = false ∨ s.ticks < s.deck.wdogAt + rdF s CTL_WDOG 0 10 * 250000 ∨ s.deck.st ≠ .run → exec .wdogExpiry s = .next s) ∧
  (∀ (c : Fin 4) (s : State), s.power.st = .fullSail → s.deck.st = .run →
       exec (.machineCheck c false) s = .next (restartBegin 3 (setInt CTL_INT 3 s))) ∧
  (∀ (c : Fin 4) (s : State), s.power.st = .fullSail → s.deck.st = .run →
       exec (.machineCheck c true) s = .next (threadFault c.val (setInt CTL_INT 3 s))) ∧
  (∀ (c : Fin 4) (customer : Bool) (s : State), s.power.st = .fullSail → s.deck.st ≠ .run → exec (.machineCheck c customer) s = .next s) ∧
  (∀ (who : Req) (s : State), Served who CTL_RESTART s → s.deck.st = .run →
       exec (.hostRestart who 0x5A3C#16) s = .next (restartBegin 4 (accessed who s))) ∧
  (∀ (who : Req) (s : State), Served who CTL_RESTART s → s.deck.st = .failed →
       exec (.hostRestart who 0x5A3C#16) s = .next (restartBegin 4 (accessed who s))) ∧
  (∀ (who : Req) (s : State), TablesWf s → Served who CTL_RESTART s → s.deck.st = .restarting →
       Completes (.hostRestart who 0x5A3C#16) s fun t => t.deck = s.deck ∧ liveCnt t (CTL_SCH_CNT 16) = (liveCnt s (CTL_SCH_CNT 16) + 1) % 2 ^ 64) ∧
  (∀ (who : Req) (key : BitVec 16) (s : State), Served who CTL_RESTART s → key ≠ 0x5A3C#16 →
       exec (.hostRestart who key) s = .next (accessed who s)) ∧
  (∀ (cause : Nat) (s : State), s.mast.st ≠ .locked →
       (restartBegin cause s).deck.st = .restarting ∧ (restartBegin cause s).deck.cause = cause ∧
         (restartBegin cause s).deck.postq = [] ∧ (restartBegin cause s).deck.ready = [] ∧ (restartBegin cause s).deck.wdogOn = false) ∧
  (∀ (version : Word) (s : State), s.power.st = .fullSail → s.deck.st = .restarting →
       exec (.deckRestartDone true version) s = .next (bootDeckRun (deckRun version (bootLoadCode s)))) ∧
  (∀ (version : Word) (s : State), s.deck.isStart = true → (deckRun version s).deck.st = .run) ∧
  (∀ (version : Word) (s : State), s.power.st = .fullSail → exec (.deckRestartDone false version) s = .next s) ∧
  (∀ s : State, s.power.st = .fullSail → s.deck.st = .restarting → s.deck.beganAt + 250000000 ≤ s.ticks →
       exec .deckFailed s = .next (bootDeckFailed (deckFail s))) ∧
  (∀ s : State, s.power.st = .fullSail → s.ticks < s.deck.beganAt + 250000000 → exec .deckFailed s = .next s) ∧
  (∀ s : State, s.power.st = .fullSail → s.deck.st ≠ .restarting → exec .deckFailed s = .next s ∧
       ∀ version, exec (.deckRestartDone true version) s = .next s)

/-- The performance counters of the Deck and their sampling. Served: EN and FREEZE write their bit and leave the Deck; CLEAR zeroes
every counter of its set with its flag, which reads 0 after; SEL of a core counter and of a data-path counter keep their
reserved bits 0. SMODE 0 ends the core's sampling with no window open and SMODE_BAD clear; SMODE 2 starts it with SMODE_BAD
clear. In Full sail: PRECISE_SAMPLE in PRECISE mode records the sample (the model's operation preciseSample), and in another
leaves the state. W2WIN_OPEN in window mode, with no window open, the least interval passed and a thread on the core, opens one
at the address on that thread; in another mode, too early, or on an idle core the state stays. W2WIN_CLOSE of an open window,
after 32 cycles or with its thread off the core, closes it and notes the tick, where the buffer holds fewer than 128 records; a
shorter window of a running thread, or none, leaves the state (notes/assumptions/50.md). PC_OVF of a counter that counts sets
its flag and leaves it at 2^48 - 1, or on the M4K at 0; of one that does not count the state stays. Served, CTL_SCH_SNAP sets
CTL_INT bit 10 and leaves the Deck's own state. -/
def Obligations.DeckCounters : Prop :=
  (∀ (who : Req) (set : PcSet) (on : Bool) (s : State), TablesWf s → Served who (pcCtrl set) s →
       Completes (.pcEn who set on) s fun t => rdB t (pcCtrl set) 0 = on ∧ t.deck = s.deck) ∧
  (∀ (who : Req) (set : PcSet) (on : Bool) (s : State), TablesWf s → Served who (pcCtrl set) s →
       Completes (.pcFreeze who set on) s fun t => rdB t (pcCtrl set) 1 = on ∧ t.deck = s.deck) ∧
  (∀ (who : Req) (set : PcSet) (s : State), Served who (pcCtrl set) s →
       exec (.pcClear who set) s = .next ((pcCounters set).foldl (fun u c => wr (pcStat c) (withBool (rd (wr64 (pcReg c) 0 u) (pcStat c)) (pcBit c) false)
         (wr64 (pcReg c) 0 u)) (accessed who s))) ∧
  (∀ (c : PcCounter) (s : State), TablesWf s → pcFlag (pcZero c s) c = false) ∧
  (∀ (who : Req) (c : Fin 4) (k : Fin 8) (v : Word) (s : State), TablesWf s → Served who (CTL_PC_SEL c.val k.val) s →
       Completes (.pcSelWrite who (.core c k) v) s fun t => rd t (CTL_PC_SEL c.val k.val) = v &&& 0x01FF03FF#32 ∧ t.deck = s.deck) ∧
  (∀ (who : Req) (k : Fin 32) (v : Word) (s : State), TablesWf s → Served who (CTL_DP_SEL k.val) s →
       Completes (.pcSelWrite who (.dataPath k) v) s fun t => rd t (CTL_DP_SEL k.val) = v &&& 0x3FF#32 ∧ t.deck = s.deck) ∧
  (∀ (who : Req) (c : Fin 4) (s : State), TablesWf s → Served who (CTL_PC_CTRL c.val) s →
       Completes (.pcSmode who c 0#2) s fun t => t.deck.sampling = tset false s.deck.sampling c.val false ∧
         t.deck.w2 = tset none s.deck.w2 c.val none ∧ rdB t (CTL_PC_STAT c.val) 10 = false) ∧
  (∀ (who : Req) (c : Fin 4) (s : State), TablesWf s → Served who (CTL_PC_CTRL c.val) s →
       Completes (.pcSmode who c 2#2) s fun t => t.deck.sampling = tset false s.deck.sampling c.val true ∧
         rdB t (CTL_PC_STAT c.val) 10 = false) ∧
  (∀ (c : Fin 4) (a : BitVec 48) (l : BitVec 16) (s : State), s.power.st = .fullSail → sampleMode s c.val = 1 →
       exec (.preciseSample c a l) s = .next (preciseSample c.val a l.toNat s)) ∧
  (∀ (c : Fin 4) (a : BitVec 48) (l : BitVec 16) (s : State), s.power.st = .fullSail → sampleMode s c.val ≠ 1 →
       exec (.preciseSample c a l) s = .next s) ∧
  (∀ (c : Fin 4) (a : BitVec 48) (t : Nat) (s : State), s.power.st = .fullSail → sampleMode s c.val = 2 →
       tget none s.deck.w2 c.val = none → w2winDue s c.val = true → tget none s.deck.running c.val = some t →
       exec (.w2winOpen c a) s = .next { s with deck := { s.deck with w2 := tset none s.deck.w2 c.val (some ⟨a, t⟩) } }) ∧
  (∀ (c : Fin 4) (a : BitVec 48) (s : State), s.power.st = .fullSail →
       sampleMode s c.val ≠ 2 ∨ w2winDue s c.val = false ∨ tget none s.deck.running c.val = none → exec (.w2winOpen c a) s = .next s) ∧
  (∀ (c : Fin 4) (n : Fin 33) (r w f : Nat) (m : BitVec 7) (x : W2Win) (s : State), s.power.st = .fullSail →
       tget none s.deck.w2 c.val = some x → (n.val = 32 ∨ tget none s.deck.running c.val ≠ some x.thread) → sampleLevel s c.val < 128 →
       Completes (.w2winClose c n r w f m) s fun t => t.deck.w2 = tset none s.deck.w2 c.val none ∧ t.deck.w2At = tset 0 s.deck.w2At c.val s.ticks) ∧
  (∀ (c : Fin 4) (n : Fin 33) (r w f : Nat) (m : BitVec 7) (x : W2Win) (s : State), s.power.st = .fullSail →
       tget none s.deck.w2 c.val = some x → n.val ≠ 32 → tget none s.deck.running c.val = some x.thread →
       exec (.w2winClose c n r w f m) s = .next s) ∧
  (∀ (c : Fin 4) (n : Fin 33) (r w f : Nat) (m : BitVec 7) (s : State), s.power.st = .fullSail → tget none s.deck.w2 c.val = none →
       exec (.w2winClose c n r w f m) s = .next s) ∧
  (∀ (c : PcCounter) (s : State), s.power.st = .fullSail → pcCounting s (pcSetOf c) = true →
       exec (.pcOvf c) s = .next (pcSetFlag c (wr64 (pcReg c) (if isM4k s then 0 else 2 ^ 48 - 1) s))) ∧
  (∀ (c : PcCounter) (s : State), s.power.st = .fullSail → pcCounting s (pcSetOf c) = false → exec (.pcOvf c) s = .next s) ∧
  (∀ (who : Req) (clr : Bool) (s : State), TablesWf s → Served who CTL_SCH_SNAP s →
       Completes (.schedSnapshot who clr) s fun t => rdB t CTL_INT 10 = true ∧ t.deck = s.deck)

/-- Events coalesce or make a new entry. Outside Furled: an offered event whose SRC, CODE and KEY match an unfrozen buffered record,
the first that does, adds 1 to its REPEAT below 0xFFFF_FFFF and sets its last second, and changes nothing else; one that matches
none, with fewer than 256 entries, adds a new entry last, with REPEAT 1 and the event's DATA. -/
def Obligations.LedgerCoalesces : Prop :=
  (∀ (e : LEvent) (a b : List LRec) (r : LRec) (s : State), s.power.st ≠ .furled → s.ledger.buf = a ++ r :: b →
       (∀ x ∈ a, coalesces e.src.val e.code.toNat e.key x = false) → r.frozen = false → r.src = e.src.val → r.code = e.code.toNat →
       r.key = e.key → r.rept < 0xFFFFFFFF →
       exec (.ledgerEvent e) s = .next { s with ledger := { s.ledger with
         buf := a ++ { r with rept := r.rept + 1, lastSec := taiSec s } :: b } }) ∧
  (∀ (e : LEvent) (s : State), s.power.st ≠ .furled → (∀ x ∈ s.ledger.buf, coalesces e.src.val e.code.toNat e.key x = false) →
       s.ledger.buf.length < 256 →
       Completes (.ledgerEvent e) s fun t =>
         t.ledger.buf = s.ledger.buf ++ [newRecord s e.src.val e.code.toNat e.sev.val e.key e.data] ∧
         (newRecord s e.src.val e.code.toNat e.sev.val e.key e.data).rept = 1 ∧
         (newRecord s e.src.val e.code.toNat e.sev.val e.key e.data).data = e.data)

/-- SEQ and EPOCH of the log. A record written to the log, with room or in place of the oldest of the lowest severity with no read
open, takes SEQ one higher than the last modulo 2^32, and EPOCH increments modulo 256 where SEQ passes from 0xFFFF_FFFF to 0,
starting with the record that takes SEQ 0; the record is the newest of the log, with both. The records from a start point are
those of the log that stand at or after it in the cyclic order of (EPOCH, SEQ), the number of 40 bits EPOCH above SEQ; for
epochs fewer than 127 apart that is: of a later epoch, or of the same with a SEQ not below. The erase of a clear, of any scope,
leaves SEQ and EPOCH. -/
def Obligations.LedgerSequence : Prop :=
  (∀ (r : LRec) (s : State), s.ledger.log.length < 98304 →
       (logWrite r s).ledger.seq = (s.ledger.seq + 1) % 2 ^ 32 ∧
       (logWrite r s).ledger.epoch = (if s.ledger.seq % 2 ^ 32 = 0xFFFFFFFF then (s.ledger.epoch + 1) % 256 else s.ledger.epoch) ∧
       (logWrite r s).ledger.log = s.ledger.log ++ [{ r with
         seq := (logWrite r s).ledger.seq, epoch := (logWrite r s).ledger.epoch, frozen := false }]) ∧
  (∀ (r : LRec) (s : State), 98304 ≤ s.ledger.log.length → logLowest s.ledger.log ≤ r.sev → s.ledger.evRead = [] →
       (logWrite r s).ledger.seq = (s.ledger.seq + 1) % 2 ^ 32 ∧
       (logWrite r s).ledger.epoch = (if s.ledger.seq % 2 ^ 32 = 0xFFFFFFFF then (s.ledger.epoch + 1) % 256 else s.ledger.epoch) ∧
       (logWrite r s).ledger.log = dropOldest (logLowest s.ledger.log) s.ledger.log ++ [{ r with
         seq := (logWrite r s).ledger.seq, epoch := (logWrite r s).ledger.epoch, frozen := false }]) ∧
  (∀ (scope : Nat) (s : State), (eraseScope scope s).ledger.seq = s.ledger.seq ∧ (eraseScope scope s).ledger.epoch = s.ledger.epoch) ∧
  (∀ (epoch seq : Nat) (r : LRec) (s : State), r ∈ eventsFrom epoch seq s ↔
       r ∈ s.ledger.log ∧ (r.epoch * 2 ^ 32 + r.seq + 2 ^ 40 - (epoch * 2 ^ 32 + seq) % 2 ^ 40) % 2 ^ 40 < 2 ^ 39) ∧
  (∀ (epoch seq : Nat) (r : LRec) (s : State), r ∈ s.ledger.log → seq < 2 ^ 32 → r.seq < 2 ^ 32 → epoch < 256 → r.epoch < 256 →
       r.epoch < epoch + 128 → epoch < r.epoch + 127 →
       (r ∈ eventsFrom epoch seq s ↔ epoch < r.epoch ∨ (epoch = r.epoch ∧ seq ≤ r.seq)))

/-- Flushes, tracks, clears, last words and reads of the Ledger. Outside Furled: LEDGER_FLUSH when a flush is due, at least 10 ms
after the last one began, writes the frozen buffer to the log with the next SEQ (shown for an empty buffer and for one record,
with no bad unit and no pair) and adds a control record; one a clear waits for is the clear's step 6; with a failed memory only
the events of its time are offered; with none due, or sooner than 10 ms, the state stays. TRACK_SAMPLE of a due track counts the
value in it and notes the next time; a track not due leaves the state. A value below the range counts in bin 0, at or above its
top in bin 31. TRACK_WRITE when due writes the copy whose turn it is. CLEAR_EXPIRY of a live request after 60 s ends it as
EXPIRED, otherwise nothing; CLEAR_ERASE_DONE finishes an erase that runs, otherwise nothing. LAST_WORDS_UPDATE with a failed
memory, a changed loss count and 1 s since the last write writes the block again; with no block, or no failure, the state stays.
Served: FLUSH_NOW asks for a flush; REQUEST of a scope draws a nonce and awaits authorization, and of none answers BAD_SCOPE;
EXECUTE in time answers NOT_AUTHORIZED before authorization, and after it begins the clear, or waits for its flush; CANCEL ends
a live request; LW_ACK erases the block; OPEN with nothing to deliver answers NOT_FOUND with LDG_RD_END; ABORT ends the read
(notes/assumptions/34.md). -/
def Obligations.LedgerCommands : Prop :=
  (∀ (es : List LEvent) (bad : List Nat) (s : State), s.power.st ≠ .furled → s.ledger.fail = true → flushDue s = true → s.ledger.clrWait = false →
       exec (.ledgerFlush es bad) s = .next (es.foldl (fun t e => logOffered e t) s)) ∧
  (∀ (es : List LEvent) (bad : List Nat) (s : State), s.power.st ≠ .furled → flushDue s = false → exec (.ledgerFlush es bad) s = .next s) ∧
  (∀ (es : List LEvent) (bad : List Nat) (t : Nat) (s : State), s.power.st ≠ .furled → s.ledger.flushAt = some t → s.ticks < t + 2500000 →
       exec (.ledgerFlush es bad) s = .next s) ∧
  (∀ (es : List LEvent) (bad : List Nat) (s : State), s.power.st ≠ .furled → flushDue s = true → s.ledger.clrWait = true →
       exec (.ledgerFlush es bad) s = .next (clearBegin es bad s)) ∧
  (∀ s : State, s.power.st ≠ .furled → s.ledger.fail = false → s.ledger.clr ≠ .clearing → s.ledger.buf = [] → s.ledger.dropNote = false →
       isPair s = false → flushDue s = true → s.ledger.clrWait = false →
       Completes (.ledgerFlush [] []) s fun t => t.ledger.flushReq = false ∧ t.ledger.faultFlush = false ∧ t.ledger.log = s.ledger.log ∧
         t.ledger.flushAt = some s.ticks ∧ t.ledger.control = lastN 64 (s.ledger.control ++ [{
           epoch := s.ledger.epoch, seq := s.ledger.seq, opHours := s.ledger.opHours, pwrCycles := s.ledger.pwrCycles,
           clearPending := s.ledger.clrPending }])) ∧
  (∀ (r : LRec) (s : State), s.power.st ≠ .furled → s.ledger.fail = false → s.ledger.clr ≠ .clearing → s.ledger.buf = [r] → s.ledger.dropNote = false →
       isPair s = false → flushDue s = true → s.ledger.clrWait = false → s.ledger.log.length < 98304 →
       Completes (.ledgerFlush [] []) s fun t => t.ledger.buf = [] ∧
         t.ledger.log = s.ledger.log ++ [{ r with seq := nextSeq s, epoch := nextEpoch s, frozen := false }]) ∧
  (∀ (who : Req) (s : State), Served who LDG_CTRL s →
       Completes (.flushNow who) s fun t => t.ledger = { s.ledger with flushReq := true } ∧ t.regs = s.regs) ∧
  (∀ (k : Fin 256) (d : Int) (c : TrackCfg) (s u : State), s.power.st ≠ .furled → 8 ≤ k.val → tget 0 s.ledger.trackDue k.val ≤ s.ticks →
       (s.cfg.tracks.find? (fun p => decide (p.1 = k.val))).map (fun p => p.2) = some c →
       u = { s with ledger := { s.ledger with trackDue := tset 0 s.ledger.trackDue k.val (s.ticks + trackPeriod s k.val * 250000000) } } →
       exec (.trackSample k d) s = .next (trackPut k.val c.low c.high (trackField u c) u)) ∧
  (∀ (k : Fin 256) (d : Int) (s : State), s.power.st ≠ .furled → k.val < 8 → tget 0 s.ledger.trackDue k.val ≤ s.ticks →
       Completes (.trackSample k d) s fun t => t.ledger.trackDue = tset 0 s.ledger.trackDue k.val (s.ticks + 250000000) ∧
         t.ledger.tracks = tset {} s.ledger.tracks k.val (trackAdd (Config.trackRange k.val 0) (Config.trackRange k.val 1)
           (fixedSample s k.val d) (taiSec s) s.ledger.opHours (tget {} s.ledger.tracks k.val))) ∧
  (∀ (k : Fin 256) (d : Int) (s : State), s.power.st ≠ .furled → s.ticks < tget 0 s.ledger.trackDue k.val → exec (.trackSample k d) s = .next s) ∧
  (∀ (lo hi v : Int) (sec h : Nat) (x : Track), (trackAdd lo hi v sec h x).count = (x.count + 1) % 2 ^ 64 ∧
       (v < lo → (trackAdd lo hi v sec h x).bins = tset 0 x.bins 0 (satAdd (tget 0 x.bins 0) 1 0xFFFFFFFF)) ∧
       (lo ≤ v → hi ≤ v → (trackAdd lo hi v sec h x).bins = tset 0 x.bins 31 (satAdd (tget 0 x.bins 31) 1 0xFFFFFFFF))) ∧
  (∀ s : State, s.power.st ≠ .furled → s.ledger.fail = false → s.ledger.clr ≠ .clearing →
       s.ledger.tracksAt + atLeast 60 (rdF s LDG_CFG 16 16) * 250000000 ≤ s.ticks →
       Completes .trackWrite s fun t => t.ledger = if s.ledger.copyTurn = true
         then { s.ledger with copyB := some s.ledger.tracks, badB := [], copyTurn := false, tracksAt := s.ticks }
         else { s.ledger with copyA := some s.ledger.tracks, badA := [], copyTurn := true, tracksAt := s.ticks }) ∧
  (∀ s : State, s.power.st ≠ .furled → s.ticks < s.ledger.tracksAt + atLeast 60 (rdF s LDG_CFG 16 16) * 250000000 →
       exec .trackWrite s = .next s) ∧
  (∀ s : State, Served .host LDG_CLR_CMD s → s.ledger.fail = false → s.ledger.clr ≠ .clearing → rdF s LDG_CLR_SCOPE 0 4 ≠ 0 →
       Completes .clearRequest s fun t => t.free = s.free + 1 ∧ t.ledger.clr = .awaitAuth ∧ t.ledger.clrScope = rdF s LDG_CLR_SCOPE 0 4 ∧
         t.ledger.clrParties = []) ∧
  (∀ s : State, TablesWf s → Served .host LDG_CLR_CMD s → s.ledger.fail = false → s.ledger.clr ≠ .clearing → rdF s LDG_CLR_SCOPE 0 4 = 0 →
       Completes .clearRequest s fun t => rdF t LDG_CLR_STAT 2 3 = 6 ∧ t.ledger = s.ledger) ∧
  (∀ s : State, Served .host LDG_CLR_CMD s → s.ledger.fail = false → s.ledger.clr = .authorized → s.ticks < s.ledger.clrAt + 15000000000 →
       flushSpaced s = true → exec .clearExecute s = .next (clearBegin [] [] (accessed .host s))) ∧
  (∀ s : State, Served .host LDG_CLR_CMD s → s.ledger.fail = false → s.ledger.clr = .authorized → s.ticks < s.ledger.clrAt + 15000000000 →
       flushSpaced s = false → Completes .clearExecute s fun t => t.ledger = { s.ledger with clr := .clearing, clrWait := true }) ∧
  (∀ (es : List LEvent) (bad : List Nat) (s : State),
       (flushRun es bad (setLedger (fun l => { l with clr := .authorized, clrWait := false }) s)).ledger.fail = false →
       (clearBegin es bad s).ledger.clr = .clearing ∧ (clearBegin es bad s).ledger.clrPending = true) ∧
  (∀ s : State, TablesWf s → Served .host LDG_CLR_CMD s → s.ledger.fail = false → s.ledger.clr = .awaitAuth →
       s.ticks < s.ledger.clrAt + 15000000000 →
       Completes .clearExecute s fun t => rdF t LDG_CLR_STAT 2 3 = 3 ∧ t.ledger = s.ledger) ∧
  (∀ s : State, Served .host LDG_CLR_CMD s → s.ledger.clr = .awaitAuth ∨ s.ledger.clr = .authorized →
       Completes .clearCancel s fun t => t.ledger = { s.ledger with clr := .idle, clrParties := [] } ∧ t.regs = s.regs) ∧
  (∀ s : State, TablesWf s → s.power.st ≠ .furled → s.ledger.clr = .awaitAuth ∨ s.ledger.clr = .authorized →
       s.ledger.clrAt + 15000000000 ≤ s.ticks →
       Completes .clearExpiry s fun t => t.ledger = { s.ledger with clr := .idle, clrParties := [] } ∧ rdF t LDG_CLR_STAT 2 3 = 2) ∧
  (∀ s : State, s.power.st ≠ .furled →
       s.ticks < s.ledger.clrAt + 15000000000 ∨ s.ledger.clr = .idle ∨ s.ledger.clr = .clearing → exec .clearExpiry s = .next s) ∧
  (∀ s : State, s.power.st ≠ .furled → s.ledger.clr = .clearing → s.ledger.clrWait = false → exec .clearEraseDone s = .next (clearFinish s)) ∧
  (∀ s : State, s.power.st ≠ .furled → s.ledger.clr ≠ .clearing ∨ s.ledger.clrWait = true → exec .clearEraseDone s = .next s) ∧
  (∀ (x : LastWords) (s : State), s.power.st ≠ .furled → s.sentry.lastWords = some x → s.ledger.fail = true → x.lost ≠ s.ledger.recordsLost →
       s.ledger.lwAt + 250000000 ≤ s.ticks →
       Completes .lastWordsUpdate s fun t => t.sentry.lastWords = some {
         reason := x.reason, ofs := x.ofs, seq := s.ledger.seq,
         epoch := s.ledger.epoch, sec := taiSec s, opHours := s.ledger.opHours, pwrCycles := s.ledger.pwrCycles, drops := dropCounts s,
         lost := s.ledger.recordsLost, tick := x.tick } ∧ t.ledger.lwAt = s.ticks) ∧
  (∀ s : State, s.power.st ≠ .furled → s.sentry.lastWords = none ∨ s.ledger.fail = false → exec .lastWordsUpdate s = .next s) ∧
  (∀ s : State, Served .host LDG_CTRL s →
       Completes .lwAck s fun t => t.sentry = { s.sentry with lastWords := none } ∧ t.ledger = { s.ledger with lwValid := false }) ∧
  (∀ s : State, TablesWf s → Served .host LDG_RD_CMD s → (rdContent (accessed .host s)).flatten = [] →
       Completes .ledgerReadOpen s fun t => rd t LDG_RD_STAT = 2#32 ∧ rd t LDG_RD_END = wordOf s.ledger.seq) ∧
  (∀ s : State, TablesWf s → Served .host LDG_RD_CMD s → (window s (winIdx .ledger)).ended = false →
       Completes .ledgerReadAbort s fun t => rd t LDG_RD_STAT = 0#32 ∧ t.host.windows = tset {} s.host.windows (winIdx .ledger)
         { window s (winIdx .ledger) with words := [], ended := true, why := 2, cutAt := some s.ticks })

/-- A second boundary of the legacy calendar: fields, date and a posted commit. With the Sentry domain alive, no latch and no commit
posted, CAL_SECOND at a state whose next tick has bits 14:0 at 0 answers a next state in which each field of the legacy time has
advanced: seconds and minutes 0 to 58 by 1, 59 and 63 to 0 with a carry, 60 to 62 by 1, hours 0 to 22 by 1, 23 and 31 to 0, 24
to 30 by 1, a field without a carry into it staying; the hour's wrap takes the date to the day rule's next date, which the
statement CalendarDates gives. With a commit posted the same command takes the values of CAL_STG_TIME and CAL_STG_DATE as they
stand once the posted writes have been taken, in the calendar's defined bits and whatever they are, and the calendar does not
advance at that tick. A posted latch takes at a tick the tick count, the nanoseconds and the low TAI seconds into the reference
registers, sets REF_VALID and CAL_INT.REF_LATCHED, and changes nothing else of the domain. -/
def Obligations.CalendarFields : Prop :=
  (∀ s : State, s.sentry.dead = false → s.sentry.latchPend = false → s.sentry.commit = false → (s.sentry.tick + 1) % 2 ^ 48 % 2 ^ 15 = 0 →
       Completes .calSecond s fun t =>
         field t.sentry.legTime 0 6 = (if field s.sentry.legTime 0 6 = 59 ∨ field s.sentry.legTime 0 6 = 63 then 0
           else field s.sentry.legTime 0 6 + 1) ∧
         field t.sentry.legTime 8 6 = (if field s.sentry.legTime 0 6 = 59 ∨ field s.sentry.legTime 0 6 = 63 then
             (if field s.sentry.legTime 8 6 = 59 ∨ field s.sentry.legTime 8 6 = 63 then 0 else field s.sentry.legTime 8 6 + 1)
           else field s.sentry.legTime 8 6) ∧
         field t.sentry.legTime 16 5 = (if (field s.sentry.legTime 0 6 = 59 ∨ field s.sentry.legTime 0 6 = 63) ∧
               (field s.sentry.legTime 8 6 = 59 ∨ field s.sentry.legTime 8 6 = 63) then
             (if field s.sentry.legTime 16 5 = 23 ∨ field s.sentry.legTime 16 5 = 31 then 0 else field s.sentry.legTime 16 5 + 1)
           else field s.sentry.legTime 16 5) ∧
         t.sentry.legDate = (if (field s.sentry.legTime 0 6 = 59 ∨ field s.sentry.legTime 0 6 = 63) ∧
               (field s.sentry.legTime 8 6 = 59 ∨ field s.sentry.legTime 8 6 = 63) ∧
               (field s.sentry.legTime 16 5 = 23 ∨ field s.sentry.legTime 16 5 = 31) then (dateNext s.sentry.legDate).1
           else s.sentry.legDate)) ∧
  (∀ s : State, s.sentry.dead = false → s.sentry.latchPend = false → s.sentry.commit = true → (s.sentry.tick + 1) % 2 ^ 48 % 2 ^ 15 = 0 →
       Completes .calSecond s fun t => t.sentry.legTime = rd (sentryPosts s) CAL_STG_TIME &&& 0x1F3F3F#32 ∧
         t.sentry.legDate = rd (sentryPosts s) CAL_STG_DATE &&& 0xFF0F1F#32 ∧ t.sentry.commit = false) ∧
  (∀ s : State, TablesWf s → s.sentry.latchPend = true → rd (refTake s) CAL_REF_TICK_LO = loWord s.sentry.tick ∧
       rd (refTake s) CAL_REF_NS = wordOf (taiNs s) ∧ rd (refTake s) CAL_REF_SEC_LO = loWord (taiSec s) ∧
       (refTake s).sentry = { s.sentry with latchPend := false, refValid := true } ∧ rdB (refTake s) CAL_INT 2 = true)

/-- The day rule of the legacy calendar (R390). A day below the month's length advances by 1; otherwise the day becomes 1 and the
month advances, month 12 or above to month 1 of the next year, and a year of 199 or above becomes 0 with WRAP; the length is 30
for months 4, 6, 9 and 11, 29 for month 2 of a leap year and 28 of another, and 31 for the rest; a year is leap when it is a
multiple of 4, not 100 and at most 199. -/
def Obligations.CalendarDates : Prop :=
  (∀ y m : Nat, monthLen y m = (if m = 4 ∨ m = 6 ∨ m = 9 ∨ m = 11 then 30
       else if m = 2 then (if y % 4 = 0 ∧ y ≠ 100 ∧ y ≤ 199 then 29 else 28) else 31)) ∧
  (∀ d : Word, field d 0 5 < monthLen (field d 16 8) (field d 8 4) → field (dateNext d).1 0 5 = field d 0 5 + 1 ∧
       field (dateNext d).1 8 4 = field d 8 4 ∧ field (dateNext d).1 16 8 = field d 16 8 ∧ (dateNext d).2 = false) ∧
  (∀ d : Word, monthLen (field d 16 8) (field d 8 4) ≤ field d 0 5 → field d 8 4 < 12 → field (dateNext d).1 0 5 = 1 ∧
       field (dateNext d).1 8 4 = field d 8 4 + 1 ∧ field (dateNext d).1 16 8 = field d 16 8 ∧ (dateNext d).2 = false) ∧
  (∀ d : Word, monthLen (field d 16 8) (field d 8 4) ≤ field d 0 5 → 12 ≤ field d 8 4 → field d 16 8 < 199 →
       field (dateNext d).1 0 5 = 1 ∧ field (dateNext d).1 8 4 = 1 ∧ field (dateNext d).1 16 8 = field d 16 8 + 1 ∧ (dateNext d).2 = false) ∧
  (∀ d : Word, monthLen (field d 16 8) (field d 8 4) ≤ field d 0 5 → 12 ≤ field d 8 4 → 199 ≤ field d 16 8 →
       field (dateNext d).1 0 5 = 1 ∧ field (dateNext d).1 8 4 = 1 ∧ field (dateNext d).1 16 8 = 0 ∧ bitAt (dateNext d).1 31 = true ∧
         (dateNext d).2 = true) ∧
  (∀ s : State, TablesWf s → (timeNext s.sentry.legTime).2 = true → (dateNext s.sentry.legDate).2 = true → rdB (secondNext s) CAL_INT 0 = true)

/-- The calendar's latch, commit, reads, freeze and supply. Accepted writes of CAL_REF_CMD.LATCH and, with the legacy calendar
enabled and none posted, of CAL_COMMIT are posted and change no register; a host's commit behind a posted one is held, and one
with the legacy calendar disabled leaves the state the access leaves. The time block is the shadow's words, those of the legacy
calendar 0 where it is disabled. An accepted read of one of its first three words answers the live word and freezes the block
for the requester with the tick it began at, answers the frozen word where it is frozen, and the live word without a new freeze
where the last one was torn; the read of the last word answers it as releaseRead gives it (TORN in bit 31 after a torn freeze)
and clears freeze and torn. CAL_FREEZE_TIMEOUT at 250,000 ticks (1 ms) or more after the freeze began releases it as torn, and
before that leaves the state. VBAT_SWITCH below 10 V at the input, off VBAT and alive, goes onto VBAT, counts, raises
VBAT_SWITCH and, with VBAT_SEEN clear, latches the tick's low word and sets VBAT_SEEN; with it set the latched tick stays;
otherwise it leaves the state (the 10 V is the model's choice, notes/assumptions/17.md). SENTRY_LOSS, in Furled on VBAT, leaves
a dead domain with SENTRY_LOST set and the count clear, the Till's battery-held cache empty and TIL_TAMPER as it was; otherwise
it leaves the state. -/
def Obligations.CalendarCommands : Prop :=
  (∀ (who : Req) (s : State), Served who CAL_REF_CMD s →
       Completes (.refLatch who) s fun t => t.sentry = { s.sentry with latchPend := true } ∧ t.regs = s.regs) ∧
  (∀ (who : Req) (s : State), Served who CAL_COMMIT s → rdB s CAL_CFG 0 = true → s.sentry.commit = false →
       Completes (.calCommit who) s fun t => t.sentry = { s.sentry with commit := true } ∧ t.regs = s.regs) ∧
  (∀ s : State, Served .host CAL_COMMIT s → rdB s CAL_CFG 0 = true → s.sentry.commit = true →
       Completes (.calCommit .host) s fun t => t.host.held = s.host.held ++ [.calCommit .host] ∧ t.sentry = s.sentry) ∧
  (∀ (who : Req) (s : State), Served who CAL_COMMIT s → rdB s CAL_CFG 0 = false → exec (.calCommit who) s = .next (accessed who s)) ∧
  (∀ (who : Req) (k : Fin 3) (s : State), Served who (CAL_TICK_LO + 4 * k.val) s → tget none s.sentry.freeze (reqIdx who) = none →
       tget false s.sentry.torn (reqIdx who) = false →
       Completes (.calReadFreeze who k) s fun t => t.out = s.out ++ [.readData who (((calWords s).getD k.val 0#32).setWidth 64)] ∧
         t.sentry.freeze = tset none s.sentry.freeze (reqIdx who) (some (s.ticks, calWords s))) ∧
  (∀ (who : Req) (k : Fin 3) (x : Nat × List Word) (s : State), Served who (CAL_TICK_LO + 4 * k.val) s →
       tget none s.sentry.freeze (reqIdx who) = some x →
       Completes (.calReadFreeze who k) s fun t => t.out = s.out ++ [.readData who ((x.2.getD k.val 0#32).setWidth 64)] ∧ t.sentry = s.sentry) ∧
  (∀ (who : Req) (s : State), Served who CAL_TICK_HI s →
       Completes (.calReadRelease who) s fun t => t.sentry.freeze = tset none s.sentry.freeze (reqIdx who) none ∧
         t.sentry.torn = tset false s.sentry.torn (reqIdx who) false ∧
         t.out = s.out ++ [.readData who ((releaseRead (calWords s) 3 (reqIdx who) s.sentry.freeze s.sentry.torn).setWidth 64)]) ∧
  (∀ (who : Req) (x : Nat × List Word) (s : State), tget none s.sentry.freeze (reqIdx who) = some x → x.1 + 250000 ≤ s.ticks →
       exec (.calFreezeTimeout who) s = .next { s with sentry := { s.sentry with
         freeze := tset none s.sentry.freeze (reqIdx who) none, torn := tset false s.sentry.torn (reqIdx who) true } }) ∧
  (∀ (who : Req) (x : Nat × List Word) (s : State), tget none s.sentry.freeze (reqIdx who) = some x → s.ticks < x.1 + 250000 →
       exec (.calFreezeTimeout who) s = .next s) ∧
  (∀ (who : Req) (k : Fin 3) (s : State), Served who (CAL_TICK_LO + 4 * k.val) s → tget none s.sentry.freeze (reqIdx who) = none →
       tget false s.sentry.torn (reqIdx who) = true →
       Completes (.calReadFreeze who k) s fun t => t.out = s.out ++ [.readData who (((calWords s).getD k.val 0#32).setWidth 64)] ∧
         t.sentry = s.sentry) ∧
  (∀ s : State, calWords s = [shadowWord s CAL_TICK_LO, if legacyOn s then shadowWord s CAL_LEG_TIME else 0#32,
       if legacyOn s then shadowWord s CAL_LEG_DATE else 0#32, shadowWord s CAL_TICK_HI]) ∧
  (∀ s : State, TablesWf s → s.sentry.onVbat = false → s.sentry.dead = false → rdB s CAL_STATUS 4 = false → s.power.vin < 10000 →
       Completes .vbatSwitch s fun t => t.sentry.onVbat = true ∧ t.sentry.vbatNew = true ∧ rdB t CAL_INT 3 = true ∧ rdB t CAL_STATUS 4 = true ∧
         rd t CAL_VBAT_TICK_LO = loWord s.sentry.tick ∧
         rd t CAL_VBAT_CNT = wordOf (satAdd (rd s CAL_VBAT_CNT).toNat 1 0xFFFFFFFF)) ∧
  (∀ s : State, TablesWf s → s.sentry.onVbat = false → s.sentry.dead = false → rdB s CAL_STATUS 4 = true → s.power.vin < 10000 →
       Completes .vbatSwitch s fun t => t.sentry = { s.sentry with onVbat := true } ∧ rdB t CAL_INT 3 = true ∧ rdB t CAL_STATUS 4 = true ∧
         rd t CAL_VBAT_TICK_LO = rd s CAL_VBAT_TICK_LO ∧
         rd t CAL_VBAT_CNT = wordOf (satAdd (rd s CAL_VBAT_CNT).toNat 1 0xFFFFFFFF)) ∧
  (∀ s : State, s.sentry.onVbat = true ∨ s.sentry.dead = true ∨ 10000 ≤ s.power.vin → exec .vbatSwitch s = .next s) ∧
  (∀ s : State, TablesWf s → s.power.st = .furled → s.sentry.onVbat = true → s.sentry.dead = false →
       Completes .sentryLoss s fun t => t.sentry = { dead := true, lostNew := true } ∧ t.till.cache = [] ∧ rd t CAL_VBAT_CNT = 0#32 ∧
         rd t CAL_STATUS = 4#32 ∧ rd t TIL_TAMPER = rd s TIL_TAMPER) ∧
  (∀ s : State, s.power.st ≠ .furled ∨ s.sentry.onVbat = false ∨ s.sentry.dead = true → exec .sentryLoss s = .next s)

/-- Every Till command enters its interface and starts when the Till is free; the host waits at a busy one. Each of the 23 commands,
accepted from the host or a Deck thread while the Till runs nothing and nothing waits at it, answers a next state in which it
runs on its requester's interface with that interface's arguments and mailbox as they stood, with nothing waiting, one free
value drawn and the result tillRun gives in the state in which it starts; the statement TillResults says what tillRun gives and
TillEvents what the end of the operation does with it. Each of them, accepted from the host while the host's interface is busy,
is held for the host, and the Till stays. -/
def Obligations.TillCommands : Prop :=
  (∀ (who : Req) (a b : Bool) (c : Instr) (code : Nat) (more cert ok : Bool) (s : State),
       (c, code, more, cert, ok) ∈ [(Instr.derive who, 0x01, false, false, true), (.generate who a, 0x02, false, false, a),
         (.unwrap who a, 0x03, false, false, a), (.wrap who, 0x04, false, false, true), (.destroy who, 0x05, false, false, true),
         (.encrypt who a, 0x06, a, false, true), (.decrypt who a b, 0x07, a, false, b), (.hmac who a, 0x08, a, false, true),
         (.sign who, 0x09, false, false, true), (.verify who a, 0x0A, false, false, a), (.ecdh who, 0x0B, false, false, true),
         (.hash who a, 0x0C, a, false, true), (.random who, 0x0D, false, false, true), (.pubkey who, 0x0E, false, false, true),
         (.attest who, 0x0F, false, false, true), (.gkMap who, 0x10, false, false, true), (.gkUnmap who, 0x11, false, false, true),
         (.authReq who, 0x12, false, false, true), (.auth who a, 0x13, false, false, a), (.zeroize who, 0x14, false, false, true),
         (.enrol who a b, 0x15, false, a, b), (.calEnrol who, 0x16, false, false, true), (.purge who, 0x17, false, false, true)] →
       Served who (tillBase (tillIface who)) s → s.till.running = none → s.till.queue = [] →
       Completes c s fun t => t.till.queue = [] ∧ t.free = s.free + 1 ∧
         (t.till.running.map fun p => p.1) = some {
           iface := tillIface who, code := code, more := more, cert := cert, ok := ok,
           args := tillArgs s (tillIface who), mbox := tillMbox s (tillIface who) } ∧
         t.till.running = some ({
             iface := tillIface who, code := code, more := more, cert := cert, ok := ok,
             args := tillArgs s (tillIface who), mbox := tillMbox s (tillIface who) },
           tillRun { accessed who s with till := { s.till with queue := [{
               iface := tillIface who, code := code, more := more, cert := cert, ok := ok,
               args := tillArgs s (tillIface who), mbox := tillMbox s (tillIface who) }] } }
             {
               iface := tillIface who, code := code, more := more, cert := cert, ok := ok,
               args := tillArgs s (tillIface who), mbox := tillMbox s (tillIface who) })) ∧
  (∀ (a b : Bool) (c : Instr) (code : Nat) (more cert ok : Bool) (s : State),
       (c, code, more, cert, ok) ∈ [(Instr.derive .host, 0x01, false, false, true), (.generate .host a, 0x02, false, false, a),
         (.unwrap .host a, 0x03, false, false, a), (.wrap .host, 0x04, false, false, true), (.destroy .host, 0x05, false, false, true),
         (.encrypt .host a, 0x06, a, false, true), (.decrypt .host a b, 0x07, a, false, b), (.hmac .host a, 0x08, a, false, true),
         (.sign .host, 0x09, false, false, true), (.verify .host a, 0x0A, false, false, a), (.ecdh .host, 0x0B, false, false, true),
         (.hash .host a, 0x0C, a, false, true), (.random .host, 0x0D, false, false, true), (.pubkey .host, 0x0E, false, false, true),
         (.attest .host, 0x0F, false, false, true), (.gkMap .host, 0x10, false, false, true), (.gkUnmap .host, 0x11, false, false, true),
         (.authReq .host, 0x12, false, false, true), (.auth .host a, 0x13, false, false, a), (.zeroize .host, 0x14, false, false, true),
         (.enrol .host a b, 0x15, false, a, b), (.calEnrol .host, 0x16, false, false, true), (.purge .host, 0x17, false, false, true)] →
       Served .host (tillBase 0) s → tillBusy s 0 = true →
       Completes c s fun t => t.host.held = s.host.held ++ [c] ∧ t.till = s.till)

/-- What a Till command gives by the Till's state, the command's arguments and its verdict. The result tillRun takes from the state:
status 5 in TAMPERED, 6 in SEALED but for AUTH_REQ, AUTH, ENROL and CAL_ENROL, 1 for another code than the open operation's,
else that of the code. DESTROY of a VALID or ORPHAN slot destroys it. DERIVE, GENERATE and UNWRAP under a parent that allows it
create at the parent's next level, ECDH at the key's own parent and level; level above 2 is DEPTH, no free slot NO_SLOT, and a
created slot is VALID with the level, parent and arguments given. WRAP needs EXPORTABLE (USAGE) and gives 256 bytes; UNWRAP and
a final DECRYPT with a failed check give VERIFY_FAIL, VERIFY its verdict. ENCRYPT, DECRYPT, HMAC and HASH give the length and,
at the last chunk, 256, 256, the tag's and 48 bytes; SIGN, PUBKEY and ATTEST their bytes; RANDOM above 256 is BAD_CMD, else so
many bytes. GK_MAP up to index 255 with a tag length and a usable key maps the entry of the mailbox's words, GK_UNMAP unmaps,
PURGE counts the orphans. ZEROIZE unauthorized is 11, authorized zeroizes; ENROL in normal mode and CAL_ENROL outside recovery
are 13, with their authorization (a certificate: with ENROL done and its check) they enrol; AUTH_REQ for 1 to 3 opens a request
with a nonce; AUTH without a live request is 14, of a holder counted already AUTH_FAIL, of one with the role, check and not
counted it counts. Cryptographic bytes are free values (notes/assumptions/2.md). -/
def Obligations.TillResults : Prop :=
  (∀ (r : TillReq) (s : State), s.till.st = .tampered → tillRun s r = { status := 5 }) ∧
  (∀ (r : TillReq) (s : State), s.till.st = .sealed → r.code ≠ 0x12 → r.code ≠ 0x13 → r.code ≠ 0x15 → r.code ≠ 0x16 →
       tillRun s r = { status := 6 }) ∧
  (∀ (r : TillReq) (o : TillOpen) (s : State), s.till.st = .ready → tget none s.till.opened r.iface = some o → o.code ≠ r.code →
       tillRun s r = { status := 1 }) ∧
  (∀ (r : TillReq) (s : State), s.till.st = .ready → codeClash s r = false → tillRun s r = runCode s r) ∧
  (∀ (r : TillReq) (s : State), r.code = 0x05 → argA r ≤ 1023 → (slotOf s (argA r)).st = .valid ∨ (slotOf s (argA r)).st = .orphan →
       runCode s r = { status := 0, eff := .destroy (argA r) }) ∧
  (∀ (r : TillReq) (s : State), r.code = 0x01 → parentStatus s (argA r) 6 = 0 → 2 < childLevel s (argA r) → runCode s r = { status := 9 }) ∧
  (∀ (r : TillReq) (s : State), r.code = 0x02 → parentStatus s (argA r) 8 = 0 → r.ok = true → 2 < childLevel s (argA r) →
       runCode s r = { status := 9 }) ∧
  (∀ (r : TillReq) (n : Nat) (s : State), r.code = 0x01 → parentStatus s (argA r) 6 = 0 → childLevel s (argA r) ≤ 2 →
       fieldN (arg r 2) 0 4 ≤ 4 → (arg r 2).testBit 13 = false → pickSlot? s = some n →
       ∃ x : TillSlot, runCode s r = { status := 0, slot := n, eff := .create n x } ∧ x.st = .valid ∧ x.level = childLevel s (argA r) ∧
         x.parent = argA r ∧ x.typ = fieldN (arg r 2) 0 4 ∧ x.usage = fieldN (arg r 2) 4 8 ∧ x.label = arg r 1 ∧ x.fin = arg r 3) ∧
  (∀ (p l lb a fin key n : Nat) (s : State), l ≤ 2 → fieldN a 0 4 ≤ 4 → (a.testBit 13 = true → s.till.cache.length < 64) → pickSlot? s = some n →
       createOut s p l lb a fin key = { status := 0, slot := n, eff := .create n {
         st := .valid, level := l, parent := p, typ := fieldN a 0 4, usage := fieldN a 4 8, exportable := a.testBit 12,
         persist := a.testBit 13, label := lb, fin := fin, key := key } }) ∧
  (∀ (p l lb a fin key : Nat) (s : State), l ≤ 2 → fieldN a 0 4 ≤ 4 → pickSlot? s = none → createOut s p l lb a fin key = { status := tsNO_SLOT }) ∧
  (∀ (r : TillReq) (s : State), r.code = 0x02 → parentStatus s (argA r) 8 = 0 → (fieldN (arg r 2) 0 4 = 2 → r.ok = true) →
       runCode s r = createOut s (argA r) (childLevel s (argA r)) 0 (arg r 2) (arg r 3) (Config.crypt 2 [s.free])) ∧
  (∀ (r : TillReq) (s : State), r.code = 0x03 → useStatus s (argA r) 3 [0, 1, 2, 3, 4] = 0 → childLevel s (argA r) ≤ 2 → r.ok = true →
       runCode s r = createOut s (argA r) (childLevel s (argA r)) (arg r 1) (arg r 2) (arg r 3) (Config.crypt 3 ((slotOf s (argA r)).key :: r.mbox))) ∧
  (∀ (r : TillReq) (s : State), r.code = 0x04 → slotStatus s (argA r) = 0 → useStatus s (argB r) 2 [0, 1, 2, 3, 4] = 0 →
       (slotOf s (argA r)).exportable = true → slotExpired s (slotOf s (argA r)) = false →
       (runCode s r).status = 0 ∧ (runCode s r).mbox.length = 256 ∧ (runCode s r).eff = .none) ∧
  (∀ (c u : Nat) (t : List Nat) (r : TillReq) (s : State), (c, u, t) ∈ [(0x06, 0, [0]), (0x07, 1, [0]), (0x08, 4, [1])] → r.code = c →
       useStatus s (fieldN ((chunkArgs s r).getD 0 0) 0 11) u t = 0 → chunkBad s r = false → (c = 0x07 → r.ok = true) →
       (runCode s r).status = 0 ∧ (runCode s r).outs = [arg r 1] ∧ (runCode s r).eff = .none ∧
         (r.more = false → (runCode s r).mbox.length = (if c = 0x08 then tagBytes s r else 256))) ∧
  (∀ (r : TillReq) (s : State), r.code = 0x0C → chunkBad s r = false → (runCode s r).status = 0 ∧ (runCode s r).outs = [arg r 1] ∧
       (r.more = false → (runCode s r).mbox = cryptBytes 0x0C 0 48 (chunkData s r))) ∧
  (∀ (r : TillReq) (s : State), r.code = 0x07 → useStatus s (fieldN ((chunkArgs s r).getD 0 0) 0 11) 1 [0] = 0 → chunkBad s r = false →
       r.more = false → r.ok = false → runCode s r = { status := 10 }) ∧
  (∀ (r : TillReq) (s : State), r.code = 0x09 → useStatus s (argA r) 5 [2] = 0 →
       runCode s r = { status := 0, mbox := cryptBytes 9 (slotOf s (argA r)).key 96 (s.free :: r.mbox.take 48) }) ∧
  (∀ (r : TillReq) (s : State), r.code = 0x0B → useStatus s (argA r) 7 [3] = 0 →
       runCode s r = createOut s (slotOf s (argA r)).parent (slotOf s (argA r)).level (arg r 1) (arg r 2) (arg r 3)
         (Config.crypt 0x0B ((slotOf s (argA r)).key :: r.mbox))) ∧
  (∀ (r : TillReq) (s : State), r.code = 0x0E → useStatus s (argA r) 8 [2] = 0 →
       runCode s r = { status := 0, mbox := cryptBytes 0x0E (slotOf s (argA r)).key 97 [] }) ∧
  (∀ (r : TillReq) (s : State), r.code = 0x0F → slotStatus s 0 = 0 →
       runCode s r = { status := 0, eff := .attest (attestStatement s (r.mbox.take 32) ++ s.till.certificate) }) ∧
  (∀ (r : TillReq) (s : State), r.code = 0x10 → fieldN (fromLe ((r.mbox.drop 4).take 4)) 16 2 ≠ 3 → arg r 1 ≤ 255 →
       useStatus s (fieldN (fromLe ((r.mbox.drop 4).take 4)) 21 10) 8 [1] = 0 →
       runCode s r = { status := 0, eff := .gkMap (arg r 1) {
         keyId := fromLe (r.mbox.take 4), group := fieldN (fromLe ((r.mbox.drop 4).take 4)) 0 16,
         tagLen := fieldN (fromLe ((r.mbox.drop 4).take 4)) 16 2, slot := fieldN (fromLe ((r.mbox.drop 4).take 4)) 21 10,
         start := fromLe ((r.mbox.drop 8).take 4), fin := fromLe ((r.mbox.drop 12).take 4) } }) ∧
  (∀ (r : TillReq) (s : State), r.code = 0x11 → arg r 1 ≤ 255 → runCode s r = { status := 0, eff := .gkUnmap (arg r 1) }) ∧
  (∀ (r : TillReq) (s : State), r.code = 0x17 → runCode s r = { status := 0, outs := [(orphans s).length], eff := .purge }) ∧
  (∀ (r : TillReq) (s : State), r.code = 0x04 → slotStatus s (argA r) = 0 → useStatus s (argB r) 2 [0, 1, 2, 3, 4] = 0 →
       (slotOf s (argA r)).exportable = false → runCode s r = { status := 7 }) ∧
  (∀ (r : TillReq) (s : State), r.code = 0x03 → useStatus s (argA r) 3 [0, 1, 2, 3, 4] = 0 → childLevel s (argA r) ≤ 2 → r.ok = false →
       runCode s r = { status := 10 }) ∧
  (∀ (r : TillReq) (s : State), r.code = 0x0A → useStatus s (argA r) 8 [2] = 0 →
       runCode s r = if r.ok = true then { status := 0 } else { status := 10 }) ∧
  (∀ (r : TillReq) (s : State), r.code = 0x0D → (runCode s r).status = (if 256 < arg r 1 then 1 else 0) ∧
       (arg r 1 ≤ 256 → (runCode s r).mbox.length = arg r 1)) ∧
  (∀ (r : TillReq) (s : State), r.code = 0x14 → authorized s 1 = false → runCode s r = { status := 11 }) ∧
  (∀ (r : TillReq) (s : State), r.code = 0x14 → authorized s 1 = true → runCode s r = { status := 0, eff := .zeroize }) ∧
  (∀ (r : TillReq) (s : State), r.code = 0x15 → s.boot.mode = .normal → runCode s r = { status := 13 }) ∧
  (∀ (r : TillReq) (s : State), r.code = 0x15 → s.boot.mode ≠ .normal → r.cert = false → authorized s 2 = true →
       runCode s r = { status := 0, mbox := cryptBytes 0x15 s.free 256 [], eff := .enrol s.free }) ∧
  (∀ (r : TillReq) (s : State), r.code = 0x15 → s.boot.mode ≠ .normal → r.cert = true → s.till.enrolled = true → r.ok = true →
       runCode s r = { status := 0, eff := .cert r.mbox }) ∧
  (∀ (r : TillReq) (s : State), r.code = 0x16 → s.boot.mode ≠ .recovery → runCode s r = { status := 13 }) ∧
  (∀ (r : TillReq) (s : State), r.code = 0x16 → s.boot.mode = .recovery → authorized s 3 = true →
       runCode s r = { status := 0, eff := .calEnrol r.mbox }) ∧
  (∀ (r : TillReq) (s : State), r.code = 0x12 → 1 ≤ arg r 2 → arg r 2 ≤ 3 →
       runCode s r = {
         status := 0, outs := [Config.crypt 0x12 [s.free] % 2 ^ 64 % 2 ^ 32, Config.crypt 0x12 [s.free] % 2 ^ 64 / 2 ^ 32],
         eff := .request (arg r 2) (Config.crypt 0x12 [s.free] % 2 ^ 64) }) ∧
  (∀ (r : TillReq) (s : State), r.code = 0x13 → arg r 2 ≤ 3 → requestLive s (arg r 2) = false → runCode s r = { status := 14 }) ∧
  (∀ (r : TillReq) (s : State), r.code = 0x13 → arg r 2 ≤ 3 → requestLive s (arg r 2) = true → arg r 1 ∈ countedHolders s (arg r 2) →
       runCode s r = { status := 12, eff := .authFail (arg r 1) }) ∧
  (∀ (r : TillReq) (s : State), r.code = 0x13 → arg r 2 ≤ 3 → requestLive s (arg r 2) = true → r.ok = true →
       lacksRole s (arg r 2) (arg r 1) = false → arg r 1 ∉ countedHolders s (arg r 2) →
       runCode s r = { status := 0, eff := .counted (arg r 2) (arg r 1) })

/-- Ends, expiries, tamper and the loads of the Till. The end of an operation, outside Furled, answers the state in which the
interface takes the result (status and slot, outputs, mailbox, CMD_DONE; the statement's first clause for a host command without
an effect) after the result's effect, with the next waiting command started and the operation counted; a certificate's end
resets the die instead; with nothing running or waiting it leaves the state. The effects: a created slot holds what the result
says and a persistent one joins the cache; GK_MAP and GK_UNMAP write their entry; a request opens with its nonce at the tick;
ZEROIZE zeroizes every slot, ends the root and its own authorization; a counted holder joins its request, which is complete. An
open operation times out at 250,000,000 ticks (1 s) after it began, not before. A VALID key past a validity end expires and one
without an end does not. A request other than the clear's ends 60 s after it was opened, not before. A usable mapped entry
within 300 s of its END, with no later entry of its group, sets KEY_EXPIRING; an index without an entry leaves the state. A trip
of a watched source outside Furled, running, zeroizes every slot, ends the root and the open operations and leaves the Till
TAMPERED; in Furled it empties the cache; the sixth source alone leaves the state. A slot's and an entry's four words are loaded
with the index. -/
def Obligations.TillEvents : Prop :=
  (∀ (r : TillReq) (o : TillOut) (s : State), TablesWf s → s.power.st ≠ .furled → s.till.running = some (r, o) → s.till.queue = [] →
       r.iface = 0 → o.eff = .none →
       Completes .tillCommandDone s fun t => t.till.running = none ∧ rdB t TIL_INT 0 = true ∧
         rd t TIL_RES = wordOf (o.status + 2 ^ 16 * o.slot)) ∧
  (∀ (r : TillReq) (o : TillOut) (s : State), s.power.st ≠ .furled → s.till.running = some (r, o) → endsInRestart s = false →
       exec .tillCommandDone s = .next (tillStart (putResult r o (applyEffect o.eff
         { count evTILL_OPERATIONS 1 s with till := { s.till with running := none } })))) ∧
  (∀ (r : TillReq) (o : TillOut) (bs : List Nat) (s : State), s.power.st ≠ .furled → s.till.running = some (r, o) → o.eff = .cert bs →
       exec .tillCommandDone s = .next (dieReset (tillFinish (count evTILL_OPERATIONS 1 s)))) ∧
  (∀ s : State, s.till.running = none → s.till.queue = [] → exec .tillCommandDone s = .next s) ∧
  (∀ (n : Nat) (x : TillSlot) (s : State), twf ({} : TillSlot) s.till.slots = true → slotOf (applyEffect (.create n x) s) n = x ∧
       (applyEffect (.create n x) s).till.cache = (if x.persist = true then s.till.cache ++ [(n, x)] else s.till.cache)) ∧
  (∀ (n op h : Nat) (g : GkEntry) (s : State), (applyEffect (.gkMap n g) s).till = { s.till with gk := tset none s.till.gk n (some g) } ∧
       (applyEffect (.gkUnmap n) s).till = { s.till with gk := tset none s.till.gk n none } ∧
       (applyEffect (.request op n) s).till = { s.till with
         auths := tset none s.till.auths op (some { nonce := n, since := s.ticks }) } ∧
       (applyEffect .zeroize s).till = { s.till with slots := allZeroized, root := none, auths := tset none s.till.auths 1 none } ∧
       (applyEffect (.authFail h) s).till = s.till ∧
       ∀ a, authReq s op = some a → op ≠ 0 → (applyEffect (.counted op h) s).till = { s.till with
         auths := tset none s.till.auths op (some { a with holders := a.holders ++ [h], complete := true }) }) ∧
  (∀ (deck : Bool) (o : TillOpen) (s : State), s.power.st ≠ .furled → openOp s (b2n deck) = some o → o.since + 250000000 ≤ s.ticks →
       exec (.tillOpTimeout deck) s = .next { s with till := { s.till with opened := tset none s.till.opened (b2n deck) none } }) ∧
  (∀ (deck : Bool) (s : State), opOver s (b2n deck) = false → exec (.tillOpTimeout deck) s = .next s) ∧
  (∀ (n : Fin 1024) (s : State), s.power.st ≠ .furled → (slotOf s n.val).st = .valid → (slotOf s n.val).fin ≠ 0 →
       (slotOf s n.val).fin ≤ taiSec s % 2 ^ 32 →
       exec (.keyExpiry n) s = .next { s with till := { s.till with
         slots := tset {} s.till.slots n.val { slotOf s n.val with expired := true } } }) ∧
  (∀ (n : Fin 1024) (s : State), s.power.st ≠ .furled → (slotOf s n.val).fin = 0 → exec (.keyExpiry n) s = .next s) ∧
  (∀ (op : Fin 4) (a : AuthReq) (s : State), s.power.st ≠ .furled → op.val ≠ 0 → authReq s op.val = some a → a.since + 15000000000 ≤ s.ticks →
       exec (.authRequestExpiry op) s = .next { s with till := { s.till with auths := tset none s.till.auths op.val none } }) ∧
  (∀ (op : Fin 4) (s : State), op.val = 0 ∨ authOver s op.val = false → exec (.authRequestExpiry op) s = .next s) ∧
  (∀ (i : Fin 256) (e : GkEntry) (s : State), TablesWf s → s.power.st ≠ .furled → tget none s.till.gk i.val = some e → gkUsable s e = true →
       e.fin ≤ taiSec s % 2 ^ 32 + 300 → (∀ x ∈ gkMapped s, x.group = e.group → x.fin ≤ e.fin) →
       Completes (.gkExpiring i) s fun t => rdB t TIL_INT 4 = true ∧ t.till = s.till) ∧
  (∀ (i : Fin 256) (s : State), s.power.st ≠ .furled → tget none s.till.gk i.val = none → exec (.gkExpiring i) s = .next s) ∧
  (∀ (src : BitVec 6) (s : State), s.power.st ≠ .furled → s.sentry.dead = false → src.toNat &&& 0b11111 ≠ 0 → s.boot.phase = .running →
       s.till.queue = [] →
       Completes (.tamperTrip src) s fun t => t.till.st = .tampered ∧ t.till.root = none ∧ t.till.opened = [] ∧
         t.till.slots = (List.range 1024).map (fun n => (n, { st := .zeroized }))) ∧
  (∀ (src : BitVec 6) (s : State), s.power.st = .furled → s.sentry.dead = false → src.toNat &&& 0b01011 ≠ 0 →
       Completes (.tamperTrip src) s fun t => t.till = { s.till with cache := [] }) ∧
  (∀ s : State, exec (.tamperTrip 0b100000#6) s = .next s) ∧
  (∀ (who : Req) (n : BitVec 10) (i : Nat) (s : State), TablesWf s → Served who TIL_SLOT_IDX s → i < 4 →
       Completes (.slotLoad who n) s fun t => rd t (TIL_SLOT_W i) = (slotWords (slotOf s n.toNat)).getD i 0#32 ∧ rd t TIL_SLOT_IDX = wordOf n.toNat) ∧
  (∀ (who : Req) (n : BitVec 8) (i : Nat) (s : State), TablesWf s → Served who TIL_GK_IDX s → i < 4 →
       Completes (.gkLoad who n) s fun t => rd t (TIL_GK_W i) = (gkWords s n.toNat).getD i 0#32 ∧ rd t TIL_GK_IDX = wordOf n.toNat)

/-- Lease writes, drops and expiry, and the egress mute. An accepted lease write whose deadline is at most 300 ms ahead of SHR_MONO,
or behind it, writes it and keeps a lease, and makes a PAIR node whose new lease is alive ACTIVE; one further ahead sets
LEASE_REJ and leaves the lease and the node's pair state. An accepted drop ends the lease of an ACTIVE node, which goes to
STANDBY and, while the Deck runs, sends its Clerk a RELEASE, whose tick and number are kept; on a node that is not ACTIVE it
clears the lease and sends nothing. LEASE_EXPIRY on an ACTIVE node whose lease has passed its deadline makes it LAPSED without a
lease, raises LAPSED, and with the peer not seen calls for a REQUEST at once; with the lease alive, or none, it leaves the
state. The egress is muted exactly when the node is not SOLO and holds no lease that is before its deadline, whatever else the
state holds. -/
def Obligations.PairLease : Prop :=
  (∀ (who : Req) (v : Word) (s : State), TablesWf s → Served who SHR_LEASE_DL s →
       (2 ^ 31 ≤ (v.toNat + 2 ^ 32 - s.pair.mono % 2 ^ 32) % 2 ^ 32 ∨ (v.toNat + 2 ^ 32 - s.pair.mono % 2 ^ 32) % 2 ^ 32 ≤ 300000) →
       Completes (.leaseWrite who v) s fun t => rd t SHR_LEASE_DL = v ∧ t.pair.lease = true ∧
         (isPair s = true → leaseLive t = true → t.pair.role = .active)) ∧
  (∀ (who : Req) (v : Word) (s : State), TablesWf s → Served who SHR_LEASE_DL s →
       (v.toNat + 2 ^ 32 - s.pair.mono % 2 ^ 32) % 2 ^ 32 < 2 ^ 31 → 300000 < (v.toNat + 2 ^ 32 - s.pair.mono % 2 ^ 32) % 2 ^ 32 →
       Completes (.leaseWrite who v) s fun t => rdB t SHR_INT 5 = true ∧ t.pair = s.pair ∧ rd t SHR_LEASE_DL = rd s SHR_LEASE_DL) ∧
  (∀ (who : Req) (s : State), Served who SHR_LEASE_CTRL s → s.pair.role = .active →
       Completes (.leaseDrop who) s fun t => t.pair.lease = false ∧ t.pair.role = .standby ∧
         (s.deck.st = .run → t.pair.releaseAt = some s.ticks ∧ t.pair.nodeSeq = (s.pair.nodeSeq + 1) % 2 ^ 32 ∧
           t.pair.releaseSeq = some t.pair.nodeSeq ∧ ∃ b, t.out.getLast? = some (.clerk b))) ∧
  (∀ (who : Req) (s : State), Served who SHR_LEASE_CTRL s → s.pair.role ≠ .active →
       Completes (.leaseDrop who) s fun t => t.pair = { s.pair with lease := false } ∧ t.out = s.out) ∧
  (∀ s : State, TablesWf s → s.power.st = .fullSail → s.pair.lease = true → leaseLive s = false → s.pair.role = .active →
       Completes .leaseExpiry s fun t => t.pair.role = .lapsed ∧ t.pair.lease = false ∧ rdB t SHR_INT 4 = true ∧
         (s.pair.peerSeen = false → t.pair.wants = true ∧ t.pair.askNext = s.ticks)) ∧
  (∀ s : State, s.power.st = .fullSail → leaseLive s = true → exec .leaseExpiry s = .next s) ∧
  (∀ s : State, s.power.st = .fullSail → s.pair.lease = false → exec .leaseExpiry s = .next s) ∧
  (∀ s : State, isMuted s = true ↔ s.pair.role ≠ .solo ∧ ¬ (s.pair.lease = true ∧ atOrAfter32 s.pair.mono (rd s SHR_LEASE_DL).toNat = false))

/-- A node's messages to its Clerk and the Clerk's replies. In Full Sail with the Deck running, an ACTIVE node of a pair sends RENEW
when 100 ms have passed since the last, and CLERK_RENEW otherwise leaves the state; a node of a pair with NODE_OK high, without
CONFIRM, that calls for the lease and whose next asking time has come sends REQUEST, asks again 100 ms on unless it is ACTIVE,
and CLERK_REQUEST otherwise leaves the state. Each message takes the next number and is kept with its SHR_MONO time among the
last eight. CLERK_LOST 300 ms after the last valid reply sets its interrupt and state once, and otherwise leaves the state. A
reply of this node's pair and identity, with its MAC, to one of the last eight messages ends CLERK_LOST and the asking and keeps
its tick. On a GRANT after the last RELEASE the epoch is written and, unless it is refused, the deadline 290 ms after that
message, and the node is ACTIVE; on a GRANT before it nothing else changes. A RENEWED does the same for an ACTIVE or LAPSED node
and nothing else for another. A DENY for a stale epoch takes an ACTIVE node's lease, makes it STANDBY and, with the peer not
seen, calls for a REQUEST at once; WAIT and QUIET put the next asking REMAIN_MS on, NOT_READY 100 ms (model's choices:
notes/assumptions/14.md). A reply to none of the eight, or with a failed MAC, is only counted. -/
def Obligations.PairClerk : Prop :=
  (∀ s : State, s.power.st = .fullSail → isPair s = true → s.pair.role = .active → s.deck.st = .run → s.pair.renewAt ≤ s.ticks →
       Completes .clerkRenew s fun t => t.pair = { s.pair with
           renewAt := s.ticks + 25000000, nodeSeq := (s.pair.nodeSeq + 1) % 2 ^ 32,
           sent := lastN 8 (s.pair.sent ++ [((s.pair.nodeSeq + 1) % 2 ^ 32, s.pair.mono)]) } ∧
         ∃ b, t.out = s.out ++ [.clerk b]) ∧
  (∀ s : State, s.power.st = .fullSail → (s.ticks < s.pair.renewAt ∨ isPair s = false ∨ s.pair.role ≠ .active ∨ s.deck.st ≠ .run) →
       exec .clerkRenew s = .next s) ∧
  (∀ s : State, s.power.st = .fullSail → isPair s = true → s.deck.st = .run → s.nodeOk = true → s.pair.wants = true → s.pair.confirm = false →
       s.pair.askNext ≤ s.ticks →
       Completes .clerkRequest s fun t => t.pair = { s.pair with
           askedAt := some s.ticks, askNext := s.ticks + 25000000, wants := decide (s.pair.role ≠ .active),
           nodeSeq := (s.pair.nodeSeq + 1) % 2 ^ 32,
           sent := lastN 8 (s.pair.sent ++ [((s.pair.nodeSeq + 1) % 2 ^ 32, s.pair.mono)]) } ∧
         ∃ b, t.out = s.out ++ [.clerk b]) ∧
  (∀ s : State, s.power.st = .fullSail → (isPair s = false ∨ s.deck.st ≠ .run ∨ s.nodeOk = false ∨ s.pair.wants = false ∨ s.pair.confirm = true ∨
       s.ticks < s.pair.askNext) → exec .clerkRequest s = .next s) ∧
  (∀ s : State, TablesWf s → s.power.st = .fullSail → isPair s = true → s.pair.clerkLost = false → s.pair.replyAt + 75000000 ≤ s.ticks →
       Completes .clerkLost s fun t => t.pair = { s.pair with clerkLost := true } ∧ rdB t SHR_INT 6 = true) ∧
  (∀ s : State, s.power.st = .fullSail → (isPair s = false ∨ s.pair.clerkLost = true ∨ s.ticks < s.pair.replyAt + 75000000) →
       exec .clerkLost s = .next s) ∧
  (∀ (m : ClerkMsg) (x : Nat × Nat) (s : State), TablesWf s → s.power.st = .fullSail → isPair s = true → s.deck.st = .run →
       s.pair.sent.find? (fun y => decide (y.1 = m.nodeSeq.toNat)) = some x → m.macOk = true → m.pairId.toNat = pairId s →
       m.nodeId.val = nodeId s → afterRelease m s = true →
       (2 ^ 31 ≤ ((x.2 + 290000) % 2 ^ 32 + 2 ^ 32 - s.pair.mono % 2 ^ 32) % 2 ^ 32 ∨
         ((x.2 + 290000) % 2 ^ 32 + 2 ^ 32 - s.pair.mono % 2 ^ 32) % 2 ^ 32 ≤ 300000) →
       Completes (.rxGrant m) s fun t => rd t SHR_LEASE_DL = wordOf (x.2 + 290000) ∧ rd t SHR_LEASE_EPOCH = m.epoch ∧
         t.pair.lease = true ∧ t.pair.role = .active ∧ t.pair.clerkLost = false) ∧
  (∀ (m : ClerkMsg) (x : Nat × Nat) (s : State), s.power.st = .fullSail → isPair s = true → s.deck.st = .run →
       s.pair.sent.find? (fun y => decide (y.1 = m.nodeSeq.toNat)) = some x → m.macOk = true → m.pairId.toNat = pairId s →
       m.nodeId.val = nodeId s → afterRelease m s = false →
       exec (.rxGrant m) s = .next { s with pair := { s.pair with clerkLost := false, askedAt := none, replyAt := s.ticks } }) ∧
  (∀ (m : ClerkMsg) (x : Nat × Nat) (s : State), TablesWf s → s.power.st = .fullSail → isPair s = true → s.deck.st = .run →
       s.pair.sent.find? (fun y => decide (y.1 = m.nodeSeq.toNat)) = some x → m.macOk = true → m.pairId.toNat = pairId s →
       m.nodeId.val = nodeId s → s.pair.role = .active ∨ s.pair.role = .lapsed →
       (2 ^ 31 ≤ ((x.2 + 290000) % 2 ^ 32 + 2 ^ 32 - s.pair.mono % 2 ^ 32) % 2 ^ 32 ∨
         ((x.2 + 290000) % 2 ^ 32 + 2 ^ 32 - s.pair.mono % 2 ^ 32) % 2 ^ 32 ≤ 300000) →
       Completes (.rxRenewed m) s fun t => rd t SHR_LEASE_DL = wordOf (x.2 + 290000) ∧ rd t SHR_LEASE_EPOCH = m.epoch ∧
         t.pair.lease = true ∧ t.pair.role = .active) ∧
  (∀ (m : ClerkMsg) (x : Nat × Nat) (s : State), s.power.st = .fullSail → isPair s = true → s.deck.st = .run →
       s.pair.sent.find? (fun y => decide (y.1 = m.nodeSeq.toNat)) = some x → m.macOk = true → m.pairId.toNat = pairId s →
       m.nodeId.val = nodeId s → s.pair.role ≠ .active → s.pair.role ≠ .lapsed →
       exec (.rxRenewed m) s = .next { s with pair := { s.pair with clerkLost := false, askedAt := none, replyAt := s.ticks } }) ∧
  (∀ (m : ClerkMsg) (x : Nat × Nat) (s : State), s.power.st = .fullSail → isPair s = true → s.deck.st = .run →
       s.pair.sent.find? (fun y => decide (y.1 = m.nodeSeq.toNat)) = some x → m.macOk = true → m.pairId.toNat = pairId s →
       m.nodeId.val = nodeId s → s.pair.role = .active →
       Completes (.rxDeny m .staleEpoch) s fun t => t.pair.lease = false ∧ t.pair.role = .standby ∧
         (s.pair.peerSeen = false → t.pair.wants = true ∧ t.pair.askNext = s.ticks)) ∧
  (∀ (m : ClerkMsg) (r : DenyReason) (x : Nat × Nat) (s : State), s.power.st = .fullSail → isPair s = true → s.deck.st = .run →
       s.pair.sent.find? (fun y => decide (y.1 = m.nodeSeq.toNat)) = some x → m.macOk = true → m.pairId.toNat = pairId s →
       m.nodeId.val = nodeId s → r ≠ .staleEpoch →
       exec (.rxDeny m r) s = .next { s with pair := { s.pair with
         clerkLost := false, askedAt := none, replyAt := s.ticks,
         askNext := (if r = .wait ∨ r = .quiet then s.ticks + m.remainMs.toNat * 250000
           else if r = .notReady then s.ticks + 25000000 else s.pair.askNext) } }) ∧
  (∀ (m : ClerkMsg) (r : DenyReason) (c : Instr) (s : State), c ∈ [.rxGrant m, .rxRenewed m, .rxDeny m r] → s.power.st = .fullSail →
       isPair s = true → s.deck.st = .run →
       (s.pair.sent.find? (fun y => decide (y.1 = m.nodeSeq.toNat)) = none ∨ m.macOk = false) →
       exec c s = .next (count (SHR_CNT 20) 1 s))

/-- Shroud frames kept and discarded, links that come up and go down, and the heartbeat sent. In Full Sail on a link of a pair that
is up: a kept CREDIT frame, with nothing waiting, returns its credits up to 256 and owes its own, and a kept LINK_INIT leaves
256 credits and none owed; each of the nine kinds of frame with a parity, CRC or pair error is counted as CRC error and changes
nothing in the register file and in the pair's state but the links. On a link that is down, or outside PAIR mode, each of the
nine leaves the state. A link that comes up has 256 credits, says so with LINK_CHANGE and sends a frame on it; one that goes
down with nothing waiting says so and keeps the role; a change to what it is already, or outside PAIR mode, leaves the state. A
heartbeat 10 ms after the last, or later, takes the next number and keeps its SHR_MONO time; with both links down it sends
nothing, and with both up it is counted twice and writes no register; before, or outside PAIR mode, HEARTBEAT_SEND leaves the
state. -/
def Obligations.PairLinks : Prop :=
  (∀ (l : Fin 2) (h : ShroudHdr) (s : State), s.power.st = .fullSail → isPair s = true → (shroud s l.val).up = true → h.parityOk = true →
       h.crcOk = true → h.pairId.toNat = pairId s → (shroud s l.val).waits = [] →
       Completes (.rxCredit l h) s fun t => shroud t l.val = { shroud s l.val with
         owed := (shroud s l.val).owed + creditsOf h.len.toNat, credits := min 256 ((shroud s l.val).credits + h.credits.toNat) }) ∧
  (∀ (l : Fin 2) (h : ShroudHdr) (s : State), s.power.st = .fullSail → isPair s = true → (shroud s l.val).up = true → h.parityOk = true →
       h.crcOk = true → h.pairId.toNat = pairId s → (shroud s l.val).waits = [] →
       Completes (.rxLinkInit l h) s fun t => shroud t l.val = { shroud s l.val with owed := 0, credits := 256 }) ∧
  (∀ (l : Fin 2) (h : ShroudHdr) (hb : Heartbeat) (es : List DigestEntry) (rs : List (List Word)) (x : EnergySave) (ws : List Word)
       (d : ResyncData) (c : Instr) (s : State),
       c ∈ [.rxCredit l h, .rxLinkInit l h, .rxHeartbeat l h hb, .rxDigest l h es, .rxLedger l h rs, .rxEnergy l h x, .rxHealth l h ws,
         .rxResyncReq l h, .rxResyncData l h d] →
       TablesWf s → s.power.st = .fullSail → isPair s = true → (shroud s l.val).up = true →
       (h.parityOk = false ∨ h.crcOk = false ∨ h.pairId.toNat ≠ pairId s) →
       Completes c s fun t => liveCnt t (SHR_CNT 12) = (liveCnt s (SHR_CNT 12) + 1) % 2 ^ 64 ∧ t.regs = s.regs ∧
         t.pair = { s.pair with links := t.pair.links }) ∧
  (∀ (l : Fin 2) (h : ShroudHdr) (hb : Heartbeat) (es : List DigestEntry) (rs : List (List Word)) (x : EnergySave) (ws : List Word)
       (d : ResyncData) (c : Instr) (s : State),
       c ∈ [.rxCredit l h, .rxLinkInit l h, .rxHeartbeat l h hb, .rxDigest l h es, .rxLedger l h rs, .rxEnergy l h x, .rxHealth l h ws,
         .rxResyncReq l h, .rxResyncData l h d] →
       s.power.st = .fullSail → (isPair s = false ∨ (shroud s l.val).up = false) → exec c s = .next s) ∧
  (∀ (l : Fin 2) (s : State), TablesWf s → s.power.st = .fullSail → s.boot.started = true → isPair s = true → (shroud s l.val).up = false →
       (shroud s l.val).waits = [] →
       Completes (.shroudLinkChange l true) s fun t => (shroud t l.val).up = true ∧ (shroud t l.val).credits = 256 ∧ rdB t SHR_INT 3 = true ∧
         ∃ ws, s.out ++ [OutMsg.shroud l.val ws] <+: t.out) ∧
  (∀ (l : Fin 2) (s : State), TablesWf s → s.power.st = .fullSail → s.boot.started = true → isPair s = true → (shroud s l.val).up = true →
       (shroud s l.val).waits = [] →
       Completes (.shroudLinkChange l false) s fun t => t.pair.links = tset {} s.pair.links l.val { shroud s l.val with up := false, waits := [] } ∧ rdB t SHR_INT 3 = true ∧ t.pair.role = s.pair.role) ∧
  (∀ s : State, s.power.st = .fullSail → isPair s = true → s.pair.hbAt ≤ s.ticks → (shroud s 0).up = false → (shroud s 1).up = false →
       exec .heartbeatSend s = .next { s with pair := { s.pair with
         hbSeq := (s.pair.hbSeq + 1) % 2 ^ 32, hbAt := s.ticks + 2500000,
         tx := tset none s.pair.tx ((s.pair.hbSeq + 1) % 2 ^ 32 % 64) (some s.pair.mono) } }) ∧
  (∀ s : State, TablesWf s → s.power.st = .fullSail → isPair s = true → s.pair.hbAt ≤ s.ticks → (shroud s 0).up = true → (shroud s 1).up = true →
       Completes .heartbeatSend s fun t => liveCnt t (SHR_CNT 0) = (liveCnt s (SHR_CNT 0) + 2) % 2 ^ 64 ∧ t.regs = s.regs ∧
         t.pair.hbSeq = (s.pair.hbSeq + 1) % 2 ^ 32 ∧ t.pair.hbAt = s.ticks + 2500000) ∧
  (∀ s : State, s.power.st = .fullSail → (isPair s = false ∨ s.ticks < s.pair.hbAt) → exec .heartbeatSend s = .next s) ∧
  (∀ (l : Fin 2) (up : Bool) (s : State), s.power.st = .fullSail → (isPair s = false ∨ portsUp s = false ∨ (shroud s l.val).up = up) →
       exec (.shroudLinkChange l up) s = .next s)

/-- Heartbeats received, the peer lost, and the confirmation of the lease. In Full Sail, on a link that is up, a kept heartbeat
whose number is not at or before the last one's, or the first of a peer not seen, is kept as the peer's four words and the peer
is seen; on an ACTIVE node a claim of ACTIVE with an epoch above its own sends it to STANDBY without a lease and sets
DUAL_ACTIVE; a second copy only counts, writes no register and keeps its tick as that of the last heartbeat. PEER_LOST when
HB_MISS times 10 ms (a HB_MISS outside 3 to 20 acts as 5) have passed since the last heartbeat, once until the next: the peer is
not seen, CONFIRM ends and a REQUEST is called for at once, and for a peer that had been seen PEER_LOST is set; otherwise it
leaves the state. A confirmation leaves the state, or sets the deadline to 290 ms after the heartbeat it confirms was sent, no
earlier than it stood, on an ACTIVE node with NODE_OK high whose lease is alive and of the same epoch. On a node that is not
ACTIVE a peer's NODE_OK that falls, its LAPSED or its RELEASED calls for a REQUEST at once and ends CONFIRM, unless the
heartbeat claims ACTIVE with NODE_OK; a STANDBY node that has not asked within 1 s sets CONFIRM for one that does (its own
REQUEST's second is the model's choice, notes/assumptions/14.md). -/
def Obligations.PairHeartbeats : Prop :=
  (∀ (l : Fin 2) (h : ShroudHdr) (hb : Heartbeat) (i : Nat) (s : State), TablesWf s → s.power.st = .fullSail → isPair s = true →
       (shroud s l.val).up = true → h.parityOk = true → h.crcOk = true → h.pairId.toNat = pairId s →
       (s.pair.peerSeen = false ∨ atOrAfter32 (rd s (SHR_PEER_W 0)).toNat hb.seq.toNat = false) → i < 4 →
       Completes (.rxHeartbeat l h hb) s fun t => t.pair.peerSeen = true ∧
         rd t (SHR_PEER_W i) = [hb.seq, hb.flags, hb.epoch, hb.image].getD i 0#32) ∧
  (∀ (l : Fin 2) (h : ShroudHdr) (hb : Heartbeat) (s : State), TablesWf s → s.power.st = .fullSail → isPair s = true →
       (shroud s l.val).up = true → h.parityOk = true → h.crcOk = true → h.pairId.toNat = pairId s →
       (s.pair.peerSeen = false ∨ atOrAfter32 (rd s (SHR_PEER_W 0)).toNat hb.seq.toNat = false) →
       s.pair.role = .active → hbRole hb.flags = 1 → (rd s SHR_LEASE_EPOCH).toNat < hb.epoch.toNat →
       Completes (.rxHeartbeat l h hb) s fun t => t.pair.role = .standby ∧ t.pair.lease = false ∧ rdB t SHR_INT 8 = true) ∧
  (∀ (l : Fin 2) (h : ShroudHdr) (hb : Heartbeat) (s : State), TablesWf s → s.power.st = .fullSail → isPair s = true →
       (shroud s l.val).up = true → h.parityOk = true → h.crcOk = true → h.pairId.toNat = pairId s →
       s.pair.peerSeen = true → atOrAfter32 (rd s (SHR_PEER_W 0)).toNat hb.seq.toNat = true →
       Completes (.rxHeartbeat l h hb) s fun t => t.regs = s.regs ∧ liveCnt t (SHR_CNT 2) = (liveCnt s (SHR_CNT 2) + 1) % 2 ^ 64 ∧
         t.pair = { s.pair with links := t.pair.links, hbRxAt := s.ticks }) ∧
  (∀ s : State, TablesWf s → s.power.st = .fullSail → isPair s = true → s.pair.peerSeen = true → s.pair.peerOut = false →
       s.pair.hbRxAt + lossTicks s ≤ s.ticks →
       Completes .peerLost s fun t => t.pair = { s.pair with
         peerSeen := false, peerOut := true, confirm := false, wants := true, askNext := s.ticks } ∧ rdB t SHR_INT 1 = true) ∧
  (∀ s : State, s.power.st = .fullSail → isPair s = true → s.pair.peerSeen = false → s.pair.peerOut = false →
       s.pair.hbRxAt + lossTicks s ≤ s.ticks →
       exec .peerLost s = .next { s with pair := { s.pair with
         peerSeen := false, peerOut := true, confirm := false, wants := true, askNext := s.ticks } }) ∧
  (∀ s : State, s.power.st = .fullSail → (isPair s = false ∨ s.pair.peerOut = true ∨ s.ticks < s.pair.hbRxAt + lossTicks s) →
       exec .peerLost s = .next s) ∧
  (∀ s : State, lossTicks s = 2500000 * (if 3 ≤ rdF s SHR_CFG 3 5 ∧ rdF s SHR_CFG 3 5 ≤ 20 then rdF s SHR_CFG 3 5 else 5)) ∧
  (∀ (hb : Heartbeat) (s : State), TablesWf s →
       confirmLease hb s = s ∨ ∃ tx, tget none s.pair.tx (hb.confirmSeq.toNat % 64) = some tx ∧
         rd (confirmLease hb s) SHR_LEASE_DL = wordOf ((tx + 290000) % 2 ^ 32) ∧
         atOrAfter32 ((tx + 290000) % 2 ^ 32) (rd s SHR_LEASE_DL).toNat = true ∧ s.pair.role = .active ∧ s.nodeOk = true ∧
         leaseLive s = true ∧ hb.epoch = rd s SHR_LEASE_EPOCH) ∧
  (∀ (old new : Word) (s : State), s.pair.role = .standby → hbRole new = 1 → hbOk new = true → asking s = false →
       (hbTriggers old new s).pair.confirm = true ∧ (hbTriggers old new s).pair.wants = false) ∧
  (∀ (old new : Word) (s : State), s.pair.role ≠ .active →
       (hbOk old = true ∧ hbOk new = false ∨ hbRole new = 2 ∧ hbRole old ≠ 2 ∨ bitAt new 12 = true ∧ bitAt old 12 = false) →
       ¬ (hbRole new = 1 ∧ hbOk new = true) →
       (hbTriggers old new s).pair = { s.pair with wants := true, askNext := s.ticks, confirm := false })

/-- Digests and their comparison, the mirrors, the peer's report and the snapshot. In Full Sail, on a link of a pair that is up: a
kept digest of an instant without an own digest joins the last 4,096 of the peer's and compares nothing; one that meets an own
digest of its instant removes both and marks the comparison, uncompared when the own one is 2 s old or more, else a match or a
mismatch. A mark joins the last 256, a match lengthens the run of matches and a mismatch ends it; a node that is not DIVERGED
becomes so exactly when DIG_LIMIT or more of the marks are mismatches, and a DIVERGED one stays so exactly while its run is
below 256. DIGEST_UNCOMPARED removes an own digest of its instant that has waited 2 s and marks it uncompared, and with none so
old leaves the state. DIGEST_FRAME_SEND 10 ms after the first entry empties the preparation and writes no register, and before
leaves the state. A kept LEDGER frame's records join the mirror's newest 4,096, an ENERGY frame's content and a HEALTH frame's
words are kept. HEALTH_SEND each second ages the energy mirror by one and writes the four report registers; before, it leaves
the state. An accepted snapshot sets SNAP_DONE and leaves the pair's state. -/
def Obligations.PairData : Prop :=
  (∀ (l : Fin 2) (h : ShroudHdr) (e : DigestEntry) (s : State), s.power.st = .fullSail → isPair s = true →
       (shroud s l.val).up = true → h.parityOk = true → h.crcOk = true → h.pairId.toNat = pairId s →
       s.pair.own.find? (fun d => decide (d.1 = e.instant.toNat)) = none →
       Completes (.rxDigest l h [e]) s fun t => t.pair.own = s.pair.own ∧ t.pair.marks = s.pair.marks ∧
         t.pair.theirs = lastN 4096 (s.pair.theirs ++ [(e.instant.toNat, e.digest.toNat)])) ∧
  (∀ (m : Nat) (s : State), (digOutcome m s).pair.marks = lastN 256 (s.pair.marks ++ [m]) ∧
       (digOutcome 0 s).pair.matchRun = s.pair.matchRun + 1 ∧ (digOutcome 1 s).pair.matchRun = 0 ∧
       (s.pair.diverged = false → (digOutcome m s).pair.diverged = decide (digLimit s ≤ (lastN 256 (s.pair.marks ++ [m])).count 1)) ∧
       (s.pair.diverged = true → (digOutcome m s).pair.diverged = decide ((digOutcome m s).pair.matchRun < 256))) ∧
  (∀ (l : Fin 2) (h : ShroudHdr) (e : DigestEntry) (a : Nat × Nat × Nat) (s : State), s.power.st = .fullSail → isPair s = true →
       (shroud s l.val).up = true → h.parityOk = true → h.crcOk = true → h.pairId.toNat = pairId s →
       s.pair.own.find? (fun d => decide (d.1 = e.instant.toNat)) = some a → s.pair.theirs.find? (fun d => decide (d.1 = e.instant.toNat)) = none →
       Completes (.rxDigest l h [e]) s fun t => t.pair.own = s.pair.own.filter (fun d => decide (d.1 ≠ e.instant.toNat)) ∧
         t.pair.theirs = (lastN 4096 (s.pair.theirs ++ [(e.instant.toNat, e.digest.toNat)])).filter (fun d => decide (d.1 ≠ e.instant.toNat)) ∧
         t.pair.marks = lastN 256 (s.pair.marks ++ [if a.2.2 + 500000000 ≤ s.ticks then 2 else if a.2.1 = e.digest.toNat then 0 else 1])) ∧
  (∀ (inst : Nat) (a : Nat × Nat × Nat) (s : State), s.power.st = .fullSail → a ∈ s.pair.own → a.1 = inst → a.2.2 + 500000000 ≤ s.ticks →
       Completes (.digestUncompared inst) s fun t => t.pair.own = s.pair.own.filter (fun d => decide (d.1 ≠ inst)) ∧
         t.pair.marks = lastN 256 (s.pair.marks ++ [2])) ∧
  (∀ (inst : Nat) (s : State), s.power.st = .fullSail → (∀ a ∈ s.pair.own, a.1 = inst → s.ticks < a.2.2 + 500000000) →
       exec (.digestUncompared inst) s = .next s) ∧
  (∀ s : State, s.power.st = .fullSail → isPair s = true → s.pair.digAt + 2500000 ≤ s.ticks →
       Completes .digestFrameSend s fun t => t.pair = { s.pair with links := t.pair.links, digests := [] } ∧ t.regs = s.regs) ∧
  (∀ s : State, s.power.st = .fullSail → (isPair s = false ∨ s.ticks < s.pair.digAt + 2500000) → exec .digestFrameSend s = .next s) ∧
  (∀ (l : Fin 2) (h : ShroudHdr) (rs : List (List Word)) (s : State), s.power.st = .fullSail → isPair s = true →
       (shroud s l.val).up = true → h.parityOk = true → h.crcOk = true → h.pairId.toNat = pairId s →
       Completes (.rxLedger l h rs) s fun t => t.pair = { s.pair with links := t.pair.links, mirror := lastN 4096 (s.pair.mirror ++ rs) }) ∧
  (∀ (l : Fin 2) (h : ShroudHdr) (x : EnergySave) (s : State), s.power.st = .fullSail → isPair s = true →
       (shroud s l.val).up = true → h.parityOk = true → h.crcOk = true → h.pairId.toNat = pairId s →
       Completes (.rxEnergy l h x) s fun t => t.pair = { s.pair with links := t.pair.links, mirrorEnergy := some x, mirrorAge := 0 }) ∧
  (∀ (l : Fin 2) (h : ShroudHdr) (ws : List Word) (s : State), s.power.st = .fullSail → isPair s = true →
       (shroud s l.val).up = true → h.parityOk = true → h.crcOk = true → h.pairId.toNat = pairId s →
       Completes (.rxHealth l h ws) s fun t => t.pair = { s.pair with links := t.pair.links, peerHealth := ws }) ∧
  (∀ (i : Nat) (s : State), TablesWf s → s.power.st = .fullSail → isPair s = true → s.pair.healthAt ≤ s.ticks → i < 4 →
       Completes .healthSend s fun t => t.pair.mirrorAge = satAdd s.pair.mirrorAge 1 0xFFFFFFFF ∧ t.pair.healthAt = s.ticks + 250000000 ∧
         rd t (SHR_HEALTH i) = (healthRegs { s with pair := { s.pair with
           mirrorAge := satAdd s.pair.mirrorAge 1 0xFFFFFFFF, healthAt := s.ticks + 250000000 } }).getD i 0#32) ∧
  (∀ s : State, s.power.st = .fullSail → (isPair s = false ∨ s.ticks < s.pair.healthAt) → exec .healthSend s = .next s) ∧
  (∀ (who : Req) (clr : Bool) (s : State), TablesWf s → Served who SHR_SNAP s →
       Completes (.pairSnapshot who clr) s fun t => rdB t SHR_INT 10 = true ∧ t.pair = s.pair)

/-- A resynchronising node: requests answered, data adopted, the end of the resynchronisation. In Full Sail, on a link of a pair
that is up: a kept RESYNC_REQ changes of the pair's state only the links, and no register; kept RESYNC_DATA at a node in RESYNC,
with its flash writable, keeps the accumulators for the next interval, joins the baseline to the newest two and leaves the role,
and at a node in another role changes of the pair's state only the links, and no register nor baseline. RESYNC_DONE at a node in
RESYNC whose Mast is LOCKED, with a run of 64 matches or more and no band WARMING, makes it STANDBY and resynchronised and sets
its interrupt; otherwise it leaves the state. -/
def Obligations.PairResync : Prop :=
  (∀ (l : Fin 2) (h : ShroudHdr) (s : State), s.power.st = .fullSail → isPair s = true →
       (shroud s l.val).up = true → h.parityOk = true → h.crcOk = true → h.pairId.toNat = pairId s →
       Completes (.rxResyncReq l h) s fun t => t.pair = { s.pair with links := t.pair.links } ∧ t.regs = s.regs) ∧
  (∀ (l : Fin 2) (h : ShroudHdr) (d : ResyncData) (b : Baseline) (s : State), s.power.st = .fullSail → isPair s = true →
       (shroud s l.val).up = true → h.parityOk = true → h.crcOk = true → h.pairId.toNat = pairId s → s.pair.role = .resync →
       s.ledger.fail = false → d.baseline = some b → Completes (.rxResyncData l h d) s fun t => t.pair.adopt = some d.points ∧ t.pair.role = .resync ∧
         t.nest.baselines = lastN 2 (s.nest.baselines ++ [b])) ∧
  (∀ (l : Fin 2) (h : ShroudHdr) (d : ResyncData) (s : State), s.power.st = .fullSail → isPair s = true →
       (shroud s l.val).up = true → h.parityOk = true → h.crcOk = true → h.pairId.toNat = pairId s → s.pair.role ≠ .resync →
       Completes (.rxResyncData l h d) s fun t => t.pair = { s.pair with links := t.pair.links } ∧ t.nest = s.nest ∧ t.regs = s.regs) ∧
  (∀ s : State, TablesWf s → s.power.st = .fullSail → s.pair.role = .resync → s.mast.st = .locked → 64 ≤ s.pair.matchRun →
       s.nest.emState ≠ .warming → s.nest.fastState ≠ .warming →
       Completes .resyncDone s fun t => t.pair.role = .standby ∧ t.pair.resynced = true ∧ rdB t SHR_INT 9 = true) ∧
  (∀ s : State, s.power.st = .fullSail → (s.pair.role ≠ .resync ∨ s.mast.st ≠ .locked ∨ s.pair.matchRun < 64 ∨ s.nest.emState = .warming ∨
       s.nest.fastState = .warming) → exec .resyncDone s = .next s)

/-- The Clerk service: REQUEST, RENEW, RELEASE, other messages and the quiet period. In Full Sail a node in CLERK mode, for a
message of a served pair with its MAC and outside its quiet period: a REQUEST of the holder keeps holder and epoch and its
renewing time is now; one of the other node whose waits have passed is granted with the next epoch, and the holder's release is
used up; one whose waits have not passed, or in the quiet period, keeps holder and epoch. The time left for a REQUEST is that of
clerkRemain: 320 ms after the holder's last renewing and after the first REQUEST of the sender's run, none after the other
node's release. A RENEW of the holder with its epoch, or in the quiet period of a pair without a holder or with a higher epoch,
makes the sender the holder with its epoch, renewed now (adopting the higher epoch is the model's choice,
notes/assumptions/14.md); another is answered and changes nothing of the pair's state. A RELEASE of the holder with its epoch
leaves none and frees the other node's next REQUEST; another leaves the state. A message with a failed MAC is only counted, and
one of a pair not served is answered and changes nothing of the pair's state; a node in another mode ignores all three. The
quiet period ends at its time, not before. -/
def Obligations.ClerkService : Prop :=
  (∀ (m : ClerkMsg) (s : State), s.power.st = .fullSail → rdF s SHR_CFG 0 2 = 2 → m.macOk = true → m.pairId.toNat ∈ s.cfg.clerkPairs →
       clerkQuiet s = none → (clerkPair s m.pairId.toNat).holder = some m.nodeId.val →
       Completes (.clerkRxRequest m) s fun t => ∃ x, x.holder = some m.nodeId.val ∧ x.epoch = (clerkPair s m.pairId.toNat).epoch ∧
         x.lastRenew = s.ticks / 250 ∧ t.pair.clerks = tset {} (tset {} s.pair.clerks m.pairId.toNat
           (clerkRun m.nodeId.val (s.ticks / 250) (clerkPair s m.pairId.toNat))) m.pairId.toNat x) ∧
  (∀ (m : ClerkMsg) (s : State), s.power.st = .fullSail → rdF s SHR_CFG 0 2 = 2 → m.macOk = true → m.pairId.toNat ∈ s.cfg.clerkPairs →
       clerkQuiet s = none → (clerkPair s m.pairId.toNat).holder ≠ some m.nodeId.val →
       clerkRemain m.nodeId.val (s.ticks / 250) (clerkRun m.nodeId.val (s.ticks / 250) (clerkPair s m.pairId.toNat)) = 0 →
       Completes (.clerkRxRequest m) s fun t => ∃ x, x.holder = some m.nodeId.val ∧
         x.epoch = ((clerkPair s m.pairId.toNat).epoch + 1) % 2 ^ 32 ∧ x.lastRenew = s.ticks / 250 ∧ x.free = none ∧
         t.pair.clerks = tset {} (tset {} s.pair.clerks m.pairId.toNat
           (clerkRun m.nodeId.val (s.ticks / 250) (clerkPair s m.pairId.toNat))) m.pairId.toNat x) ∧
  (∀ (m : ClerkMsg) (s : State), s.power.st = .fullSail → rdF s SHR_CFG 0 2 = 2 → m.macOk = true → m.pairId.toNat ∈ s.cfg.clerkPairs →
       ((∃ q, clerkQuiet s = some q) ∨ ((clerkPair s m.pairId.toNat).holder ≠ some m.nodeId.val ∧
         clerkRemain m.nodeId.val (s.ticks / 250) (clerkRun m.nodeId.val (s.ticks / 250) (clerkPair s m.pairId.toNat)) ≠ 0)) →
       Completes (.clerkRxRequest m) s fun t => ∃ x, x.holder = (clerkPair s m.pairId.toNat).holder ∧
         x.epoch = (clerkPair s m.pairId.toNat).epoch ∧ t.pair.clerks = tset {} s.pair.clerks m.pairId.toNat x) ∧
  (∀ (n now : Nat) (x : ClerkPair), clerkRemain n now x = (if x.free = some n then 0
       else max (if x.holder.isNone then 0 else x.lastRenew + 320000 - now) (tget 0 x.first n + 320000 - now))) ∧
  (∀ (m : ClerkMsg) (s : State), s.power.st = .fullSail → rdF s SHR_CFG 0 2 = 2 → m.macOk = true → m.pairId.toNat ∈ s.cfg.clerkPairs →
       ((clerkPair s m.pairId.toNat).holder = some m.nodeId.val ∧ (clerkPair s m.pairId.toNat).epoch = m.epoch.toNat ∨
         (clerkQuiet s).isSome = true ∧
           ((clerkPair s m.pairId.toNat).holder = none ∨ (clerkPair s m.pairId.toNat).epoch < m.epoch.toNat)) →
       Completes (.clerkRxRenew m) s fun t => t.pair.clerks = tset {} s.pair.clerks m.pairId.toNat { clerkPair s m.pairId.toNat with
         holder := some m.nodeId.val, epoch := m.epoch.toNat, lastRenew := s.ticks / 250, free := none }) ∧
  (∀ (m : ClerkMsg) (s : State), s.power.st = .fullSail → rdF s SHR_CFG 0 2 = 2 → m.macOk = true → m.pairId.toNat ∈ s.cfg.clerkPairs →
       ((clerkQuiet s).isSome = true → (clerkPair s m.pairId.toNat).holder ≠ none ∧ m.epoch.toNat ≤ (clerkPair s m.pairId.toNat).epoch) → ((clerkPair s m.pairId.toNat).holder ≠ some m.nodeId.val ∨ (clerkPair s m.pairId.toNat).epoch ≠ m.epoch.toNat) →
       Completes (.clerkRxRenew m) s fun t => t.pair = s.pair ∧ ∃ b, t.out = s.out ++ [.clerk b]) ∧
  (∀ (m : ClerkMsg) (s : State), s.power.st = .fullSail → rdF s SHR_CFG 0 2 = 2 → m.macOk = true → m.pairId.toNat ∈ s.cfg.clerkPairs →
       (clerkPair s m.pairId.toNat).holder = some m.nodeId.val → (clerkPair s m.pairId.toNat).epoch = m.epoch.toNat →
       exec (.clerkRxRelease m) s = .next { s with pair := { s.pair with
         clerks := tset {} s.pair.clerks m.pairId.toNat { clerkPair s m.pairId.toNat with holder := none, free := some (1 - m.nodeId.val) } } }) ∧
  (∀ (m : ClerkMsg) (s : State), s.power.st = .fullSail → rdF s SHR_CFG 0 2 = 2 → m.macOk = true → m.pairId.toNat ∈ s.cfg.clerkPairs →
       ((clerkPair s m.pairId.toNat).holder ≠ some m.nodeId.val ∨ (clerkPair s m.pairId.toNat).epoch ≠ m.epoch.toNat) →
       exec (.clerkRxRelease m) s = .next s) ∧
  (∀ (m : ClerkMsg) (c : Instr) (s : State), c ∈ [.clerkRxRequest m, .clerkRxRenew m, .clerkRxRelease m] → s.power.st = .fullSail →
       rdF s SHR_CFG 0 2 = 2 → (m.macOk = false → exec c s = .next (count (SHR_CNT 20) 1 s)) ∧
         (m.macOk = true → m.pairId.toNat ∉ s.cfg.clerkPairs → Completes c s fun t => t.pair = s.pair ∧ ∃ b, t.out = s.out ++ [.clerk b])) ∧
  (∀ (m : ClerkMsg) (c : Instr) (s : State), c ∈ [.clerkRxRequest m, .clerkRxRenew m, .clerkRxRelease m] → s.power.st = .fullSail →
       rdF s SHR_CFG 0 2 ≠ 2 → exec c s = .next s) ∧
  (∀ (q : Nat) (s : State), s.power.st = .fullSail → s.pair.quietUntil = some q → q ≤ s.ticks / 250 →
       exec .clerkQuietEnd s = .next { s with pair := { s.pair with quietUntil := none } }) ∧
  (∀ (q : Nat) (s : State), s.power.st = .fullSail → s.pair.quietUntil = some q → s.ticks / 250 < q →
       clerkQuiet s = some q ∧ exec .clerkQuietEnd s = .next s)

/-- VERIFY and ERASE of the banks, the trial and the failure counter. An accepted VERIFY or ERASE of a bank that is not ACTIVE, with
no job and no activation, becomes the job and BOT_CMD_STAT shows BUSY alone; one of the ACTIVE bank changes nothing of the boot
state, gives result 8 and sets CMD_DONE. In Full Sail the end of a VERIFY whose checks give 0 leaves its bank VALID with the
image, of one whose checks fail REJECTED with that result, and of an ERASE leaves it EMPTY without an image or bytes, each with
no job and CMD_DONE set; with no job both ends leave the state. The checks: a bad format is 10, else a bad signature 11, else a
bad firmware signature 12, and an image of the node's HW_TYPE for any unit with a SEC_VER below SEC_MIN is 15; 0 says that
format, both signatures, HW_TYPE, SEC_VER and hash all hold. TRIAL_CONFIRM with NODE_OK high for TRIAL_S (60 to 3600 s) and no
activation ends the trial, does not lower SEC_MIN and sets its interrupt; without a trial, before that, or during an activation
it leaves the state. FAIL_CNT_CLEAR with NODE_OK high for 60 s and FAIL_CNT not 0 writes a boot record with FAIL_CNT 0 and no
register, and otherwise leaves the state. okFor counts the seconds from NODE_OK's rise. The clauses on boot records ask for a
sequence number below 2^32 - 1. -/
def Obligations.BootBanks : Prop :=
  (∀ (who : Req) (bank : Fin 2) (erase : Bool) (c : Instr) (s : State), TablesWf s →
       (c, erase) ∈ [(Instr.botVerify who bank, false), (.botErase who bank, true)] → Served who BOT_CMD s → s.boot.job = none → s.boot.act = 0 →
       bankState s bank.val ≠ .active →
       Completes c s fun t => t.boot = { s.boot with job := some ⟨erase, bank.val, none⟩ } ∧ rd t BOT_CMD_STAT = 1#32) ∧
  (∀ (who : Req) (bank : Fin 2) (c : Instr) (s : State), TablesWf s → c ∈ [.botVerify who bank, .botErase who bank] → Served who BOT_CMD s →
       s.boot.job = none → s.boot.act = 0 → bankState s bank.val = .active →
       Completes c s fun t => t.boot = s.boot ∧ rd t BOT_CMD_STAT = wordOf (2 * 8) ∧ rdB t BOT_INT 0 = true) ∧
  (∀ (check : BankCheck) (img : Option PenegImage) (b : Nat) (s : State), TablesWf s → s.power.st = .fullSail → s.boot.job = some ⟨false, b, none⟩ →
       (bootRec s).seq + 1 < 2 ^ 32 → checkCode s check img = 0 →
       Completes (.bankVerifyDone check img) s fun t => bankState t b = .valid ∧ t.boot.job = none ∧ rd t BOT_CMD_STAT = 0#32 ∧
         rdB t BOT_INT 0 = true ∧ t.boot.images = tset none s.boot.images b img) ∧
  (∀ (check : BankCheck) (img : Option PenegImage) (b : Nat) (s : State), TablesWf s → s.power.st = .fullSail → s.boot.job = some ⟨false, b, none⟩ →
       (bootRec s).seq + 1 < 2 ^ 32 → checkCode s check img ≠ 0 →
       Completes (.bankVerifyDone check img) s fun t => bankState t b = .rejected ∧ t.boot.job = none ∧
         rd t BOT_CMD_STAT = wordOf (2 * checkCode s check img) ∧ rdB t BOT_INT 0 = true) ∧
  (∀ (c : BankCheck) (p : PenegImage) (s : State), (c.formatOk = false → checkCode s c (some p) = 10) ∧
       (c.formatOk = true → c.sigOk = false → checkCode s c (some p) = 11) ∧
       (c.formatOk = true → c.sigOk = true → c.fwSigOk = false → checkCode s c (some p) = 12) ∧
       (c.formatOk = true → c.sigOk = true → c.fwSigOk = true → p.hwType = rdF s HST_VARIANT 0 2 → p.unitId = 0 →
         p.secVer < (bootRec s).secMin → checkCode s c (some p) = 15) ∧
       (checkCode s c (some p) = 0 → c.formatOk = true ∧ c.sigOk = true ∧ c.fwSigOk = true ∧ p.hwType = rdF s HST_VARIANT 0 2 ∧
         (bootRec s).secMin ≤ p.secVer ∧ c.hashOk = true)) ∧
  (∀ (b : Nat) (s : State), TablesWf s → s.power.st = .fullSail → s.boot.job = some ⟨true, b, none⟩ → (bootRec s).seq + 1 < 2 ^ 32 →
       Completes .bankEraseDone s fun t => bankState t b = .empty ∧ t.boot.job = none ∧ rd t BOT_CMD_STAT = 0#32 ∧ rdB t BOT_INT 0 = true ∧
         t.boot.images = tset none s.boot.images b none ∧ t.boot.flash = tset [] s.boot.flash b []) ∧
  (∀ (check : BankCheck) (img : Option PenegImage) (c : Instr) (s : State), c ∈ [.bankVerifyDone check img, .bankEraseDone] →
       s.power.st = .fullSail → s.boot.job = none → exec c s = .next s) ∧
  (∀ s : State, TablesWf s → s.power.st = .fullSail → (bootRec s).trial = true → okFor s (clampNat 60 3600 s.cfg.trialS) = true → s.boot.act = 0 → (bootRec s).seq + 1 < 2 ^ 32 →
       Completes .trialConfirm s fun t => (bootRec t).trial = false ∧ (bootRec s).secMin ≤ (bootRec t).secMin ∧ rdB t BOT_INT 2 = true) ∧
  (∀ s : State, s.power.st = .fullSail → ((bootRec s).trial = false ∨ okFor s (clampNat 60 3600 s.cfg.trialS) = false ∨ s.boot.act ≠ 0) → exec .trialConfirm s = .next s) ∧
  (∀ s : State, s.power.st = .fullSail → okFor s 60 = true → (bootRec s).failCnt ≠ 0 → (bootRec s).seq + 1 < 2 ^ 32 →
       Completes .failCntClear s fun t => bootRec t = { bootRec s with seq := (bootRec s).seq + 1, failCnt := 0 } ∧ t.regs = s.regs) ∧
  (∀ s : State, s.power.st = .fullSail → (okFor s 60 = false ∨ (bootRec s).failCnt = 0) → exec .failCntClear s = .next s) ∧
  (∀ (n t : Nat) (s : State), s.boot.okAt = some t → okFor s n = (s.nodeOk && decide (t + 250000000 * n ≤ s.ticks)))

/-- Activations: started, refused, resumed. An accepted ACTIVATE that no refusal stops and whose image's checks give 0 starts: a
firmware-only one leaves the boot state with that activation and its target alone, a full one with its own and the data path
stopped. One that is refused with another result than BUSY changes nothing of the boot state, gives that result and sets
CMD_DONE. The refusals: a busy boot unit gives BUSY, else a bank that is not VALID gives NOT_VERIFIED, else POWER outside Full
Sail. In Full Sail the resumption of a full activation whose target holds an image, with the hash that holds (and a record
sequence below 2^32 - 1), makes that bank ACTIVE and on trial with the old one as PREV_BANK, its image the running one and the
data path running again; with a hash that fails a reversion of the full kind is in progress, to the bank that is active once the
target is rejected; with no activation it leaves the state. -/
def Obligations.BootActivations : Prop :=
  (∀ (who : Req) (bank : Fin 2) (force : Bool) (check : BankCheck) (s : State), Served who BOT_CMD s →
       actRefusal (accessed who s) false bank.val force = 0 → checkCode (accessed who s) check (bankImage s bank.val) = 0 →
       Completes (.activateFw who bank force check) s fun t => t.boot = { s.boot with act := 1, actKind := 1, target := bank.val }) ∧
  (∀ (who : Req) (bank : Fin 2) (force : Bool) (check : BankCheck) (s : State), Served who BOT_CMD s →
       actRefusal (accessed who s) true bank.val force = 0 → checkCode (accessed who s) check (bankImage s bank.val) = 0 →
       Completes (.activateFull who bank force check) s fun t => t.boot.act = 2 ∧ t.boot.actKind = 2 ∧ t.boot.target = bank.val ∧
         t.boot.dataPath = false) ∧
  (∀ (who : Req) (bank : Fin 2) (force full : Bool) (check : BankCheck) (c : Instr) (s : State), TablesWf s →
       (c, full) ∈ [(Instr.activateFw who bank force check, false), (.activateFull who bank force check, true)] → Served who BOT_CMD s →
       actRefusal (accessed who s) full bank.val force ≠ 0 → actRefusal (accessed who s) full bank.val force ≠ 1 →
       Completes c s fun t => t.boot = s.boot ∧ rd t BOT_CMD_STAT = wordOf (2 * actRefusal (accessed who s) full bank.val force) ∧
         rdB t BOT_INT 0 = true) ∧
  (∀ (full force : Bool) (b : Nat) (s : State), (bootBusy s = true → actRefusal s full b force = 1) ∧
       (bootBusy s = false → bankState s b ≠ .valid → actRefusal s full b force = 2) ∧
       (bootBusy s = false → bankState s b = .valid → s.power.st ≠ .fullSail → actRefusal s full b force = 3)) ∧
  (∀ (p : PenegImage) (s : State), s.power.st = .fullSail → s.boot.act = 2 → bankImage s s.boot.target = some p →
       (bootRec s).seq + 1 < 2 ^ 32 →
       Completes (.activationResumption true) s fun t => (bootRec t).activeBank = s.boot.target ∧ (bootRec t).trial = true ∧
         (bootRec t).prevBank = (bootRec s).activeBank ∧ bankState t s.boot.target = .active ∧ t.boot.act = 0 ∧ t.boot.trialKind = 2 ∧
         t.boot.running = some p ∧ t.boot.dataPath = true) ∧
  (∀ (p : PenegImage) (s : State), s.power.st = .fullSail → s.boot.act = 2 → bankImage s s.boot.target = some p →
       Completes (.activationResumption false) s fun t => t.boot.act = 3 ∧ t.boot.actKind = 2 ∧
         t.boot.target = (bootRec (rejectBank s.boot.target 16 s)).activeBank) ∧
  (∀ (ok : Bool) (s : State), s.power.st = .fullSail → s.boot.act = 0 → exec (.activationResumption ok) s = .next s)

/-- The start of a node: refused, into recovery, and normal. Before the reset is released, or outside Full Sail, NODE_START leaves
the state. Released and in Full Sail (with a record sequence below 2^32 - 1), with the recovery input low, or without it after
FAIL_CNT 3, it answers a node running in recovery mode whose boot record holds the reason (1 for the input, 2 for the count) and
the same FAIL_CNT. With neither, no trial, an ACTIVE bank whose image's checks give 0 in every state that has the Till, the
registers and the SEC_MIN of the start, and a Till that is not SEALED, it answers a node running normally, started, with its
data path up, that bank's image running, FAIL_CNT one higher and the same bank active. -/
def Obligations.BootStart : Prop :=
  (∀ (i : StartInputs) (s : State), s.boot.phase ≠ .released ∨ s.power.st ≠ .fullSail → exec (.nodeStart i) s = .next s) ∧
  (∀ (i : StartInputs) (s : State), s.boot.phase = .released → s.power.st = .fullSail → (bootRec s).seq + 1 < 2 ^ 32 →
       (i.recoverLow = true ∨ (i.recoverLow = false ∧ (bootRec s).failCnt = 3)) →
       Completes (.nodeStart i) s fun t => t.boot.mode = .recovery ∧ t.boot.phase = .running ∧
         (bootRec t).why = (if i.recoverLow = true then 1 else 2) ∧ (bootRec t).failCnt = (bootRec s).failCnt) ∧
  (∀ (i : StartInputs) (p : PenegImage) (s : State), s.boot.phase = .released → s.power.st = .fullSail → (bootRec s).seq + 1 < 2 ^ 32 →
       i.recoverLow = false → (bootRec s).failCnt ≠ 3 → (bootRec s).trial = false → bankState s (bootRec s).activeBank = .active →
       bankImage s (bootRec s).activeBank = some p →
       (∀ u : State, u.till = (tillBoot i (ledgerStart i.ledger i.ledgerOfs s)).till → u.regs = (tillBoot i (ledgerStart i.ledger i.ledgerOfs s)).regs →
         (bootRec u).secMin = (bootRec s).secMin → checkCode u (bankCheck i (bootRec s).activeBank) (some p) = 0) →
       (tillBoot i (ledgerStart i.ledger i.ledgerOfs s)).till.st ≠ .sealed →
       Completes (.nodeStart i) s fun t => t.boot.mode = .normal ∧ t.boot.phase = .running ∧ t.boot.started = true ∧ t.boot.dataPath = true ∧
         t.boot.running = some p ∧ (bootRec t).failCnt = (bootRec s).failCnt + 1 ∧ (bootRec t).activeBank = (bootRec s).activeBank)

/-- The service protocol's requests. In Full Sail, running, for a request with its CRC in a mode other than normal or with the Deck
in RUN: INFO and LOG are answered with their payloads and change no register and no boot record; an ERASE (where uploading is
allowed) or VERIFY that nothing refuses becomes the job; a WRITE where uploading is allowed to an EMPTY bank stores its bytes
and leaves the bank WRITING; an ACTIVATE of kind 2 in normal mode with UPLOAD_EN, whose bank and force its bits 3 and 4 name,
that nothing refuses and whose checks give 0, leaves the boot state with that firmware-only activation and target alone, one of
kind 3 starts a full one and stops the data path; an allowed Till command with the Till idle runs on the service interface; a
REBOOT outside normal mode to a VALID bank names it, clears FAIL_CNT and leaves the die released from reset, not started, in
Full Sail, with the log kept, and in normal mode it is answered and leaves the boot state. Each of the eight with a failed CRC
leaves the state, and in normal mode while the Deck restarts is answered with BUSY alone. The clauses on boot records ask for a
sequence number below 2^32 - 1. -/
def Obligations.ServiceRequests : Prop :=
  (∀ (h : SvcHdr) (bank : Fin 2) (ofs : BitVec 26) (data : List (BitVec 8)) (cmd code : BitVec 8) (check : BankCheck) (args : List Word)
       (mbox : List (BitVec 8)) (cert ok : Bool) (w : Word) (c : Instr) (s : State),
       c ∈ [.svcInfo h, .svcErase h bank, .svcWrite h bank ofs data, .svcVerify h bank, .svcActivate h cmd check,
         .svcTill h code args mbox cert ok, .svcReboot h bank, .svcLog h w] → h.crcOk = false → exec c s = .next s) ∧
  (∀ (h : SvcHdr) (bank : Fin 2) (ofs : BitVec 26) (data : List (BitVec 8)) (cmd code : BitVec 8) (check : BankCheck) (args : List Word)
       (mbox : List (BitVec 8)) (cert ok : Bool) (w : Word) (c : Instr) (n : Nat) (s : State),
       (c, n) ∈ [(Instr.svcInfo h, 1), (.svcErase h bank, 2), (.svcWrite h bank ofs data, 3), (.svcVerify h bank, 4), (.svcActivate h cmd check, 5),
         (.svcTill h code args mbox cert ok, 6), (.svcReboot h bank, 7), (.svcLog h w, 8)] →
       h.crcOk = true → s.power.st = .fullSail → s.boot.phase = .running → s.boot.mode = .normal → s.deck.st = .restarting →
       exec c s = .next (svcReply n 1 h.seq [] s)) ∧
  (∀ (h : SvcHdr) (s : State), h.crcOk = true → s.power.st = .fullSail → s.boot.phase = .running → (s.boot.mode ≠ .normal ∨ s.deck.st = .run) →
       Completes (.svcInfo h) s fun t => t.regs = s.regs ∧ bootRec t = bootRec s ∧ t.free = s.free + 1 ∧
         ∃ b, t.out = s.out ++ [.service b] ∧ b.take 8 = [84, 76, 66, 83, 1, 1, 0, 0] ∧ b.drop 24 = infoPayload s) ∧
  (∀ (h : SvcHdr) (w : Word) (s : State), h.crcOk = true → s.power.st = .fullSail → s.boot.phase = .running → (s.boot.mode ≠ .normal ∨ s.deck.st = .run) →
       Completes (.svcLog h w) s fun t => t.regs = s.regs ∧ bootRec t = bootRec s ∧ t.free = s.free + 1 ∧
         ∃ b, t.out = s.out ++ [.service b] ∧ b.take 8 = [84, 76, 66, 83, 1, 8, 0, 0] ∧ b.drop 24 = logPayload w.toNat s) ∧
  (∀ (h : SvcHdr) (bank : Fin 2) (erase : Bool) (c : Instr) (s : State), (c, erase) ∈ [(Instr.svcErase h bank, true), (.svcVerify h bank, false)] →
       h.crcOk = true → s.power.st = .fullSail → s.boot.phase = .running → (s.boot.mode ≠ .normal ∨ s.deck.st = .run) →
       (erase = true → uploadAllowed s = true) → jobRefusal s bank.val = 0 →
       exec c s = .next { s with boot := { s.boot with job := some ⟨erase, bank.val, some h.seq⟩ } }) ∧
  (∀ (h : SvcHdr) (bank : Fin 2) (ofs : BitVec 26) (data : List (BitVec 8)) (s : State), h.crcOk = true → s.power.st = .fullSail →
       s.boot.phase = .running → (s.boot.mode ≠ .normal ∨ s.deck.st = .run) → uploadAllowed s = true → bankState s bank.val = .empty →
       (bootRec s).seq + 1 < 2 ^ 32 →
       Completes (.svcWrite h bank ofs data) s fun t => bankState t bank.val = .writing ∧
         t.boot.flash = tset [] s.boot.flash bank.val (flashWrite ofs.toNat (data.map BitVec.toNat) (tget [] s.boot.flash bank.val))) ∧
  (∀ (h : SvcHdr) (cmd : BitVec 8) (check : BankCheck) (s : State), h.crcOk = true → s.power.st = .fullSail → s.boot.phase = .running →
       s.deck.st = .run → s.boot.mode = .normal → rdB s BOT_CTRL 0 = true → fieldN cmd.toNat 0 3 = 2 →
       actRefusal s false (fieldN cmd.toNat 3 1) (cmd.toNat.testBit 4) = 0 → checkCode s check (bankImage s (fieldN cmd.toNat 3 1)) = 0 →
       Completes (.svcActivate h cmd check) s fun t => t.boot = { s.boot with act := 1, actKind := 1, target := fieldN cmd.toNat 3 1 }) ∧
  (∀ (h : SvcHdr) (cmd : BitVec 8) (check : BankCheck) (s : State), h.crcOk = true → s.power.st = .fullSail → s.boot.phase = .running →
       s.deck.st = .run → s.boot.mode = .normal → rdB s BOT_CTRL 0 = true → fieldN cmd.toNat 0 3 = 3 →
       actRefusal s true (fieldN cmd.toNat 3 1) (cmd.toNat.testBit 4) = 0 → checkCode s check (bankImage s (fieldN cmd.toNat 3 1)) = 0 →
       Completes (.svcActivate h cmd check) s fun t => t.boot.act = 2 ∧ t.boot.actKind = 2 ∧ t.boot.target = fieldN cmd.toNat 3 1 ∧
         t.boot.dataPath = false) ∧
  (∀ (h : SvcHdr) (code : BitVec 8) (args : List Word) (mbox : List (BitVec 8)) (cert ok : Bool) (s : State), h.crcOk = true →
       s.power.st = .fullSail → s.boot.phase = .running → (s.boot.mode ≠ .normal ∨ s.deck.st = .run) → svcTillAllows s code.toNat = true →
       s.till.running = none → s.till.queue = [] →
       Completes (.svcTill h code args mbox cert ok) s fun t => t.till.queue = [] ∧ (t.till.running.map fun p => p.1) = some {
         iface := 2, code := code.toNat, cert := cert, ok := ok, args := args.map BitVec.toNat, mbox := mbox.map BitVec.toNat, seq := h.seq }) ∧
  (∀ (h : SvcHdr) (bank : Fin 2) (s : State), h.crcOk = true → s.power.st = .fullSail → s.boot.phase = .running → s.boot.mode ≠ .normal →
       bankState s bank.val = .valid → (bootRec s).seq + 1 < 2 ^ 32 →
       Completes (.svcReboot h bank) s fun t => (bootRec t).activeBank = bank.val ∧ (bootRec t).failCnt = 0 ∧ t.boot.phase = .released ∧
         t.boot.started = false ∧ t.nodeOk = false ∧ t.power.st = .fullSail ∧ t.ledger.log = s.ledger.log) ∧
  (∀ (h : SvcHdr) (bank : Fin 2) (s : State), h.crcOk = true → s.power.st = .fullSail → s.boot.phase = .running → s.boot.mode = .normal →
       s.deck.st = .run → Completes (.svcReboot h bank) s fun t => t.boot = s.boot ∧ ∃ b, t.out = s.out ++ [.service b])

/-- Power-up, the retries, power failure, FURL, the end of hold-up and resumption. In Furled, unlatched and with the input high for
21 readings (20 ms), the first power-up whose rails hold releases the die's reset into Full Sail, and one that fails is counted
with its crystal tick; a retry, a second of the crystal's time later, does the same, the second failure counts, and the third
keeps the rail that failed. Outside Furled, latched, after three tries, or before those times, both leave the state.
FURL_LATCH_CLEAR below 10 V clears the latch and the tries, and above leaves the state. A power failure in Full Sail of a
started node with V_RES or more and energy enough in its store once it is Reefed enters Reefed for POWER without data path and
tableaus, the Deck FAILED and NODE_OK low; of one that has not started, whose store is below V_RES or has too little energy, it
ends in Furled with the die held in reset; outside Full Sail it only takes the input as off. HOLDUP_END in Reefed at or below
V_RES ends in Furled, else leaves the state. An accepted FURL with its key on a started node ends in Furled and latched, with
another key or not started it does nothing further. A resumption in Reefed for POWER after 101 high readings (100 ms), or for
THERMAL at or below RESUME_C, is back in Full Sail with the data path and off VBAT; otherwise, and for COMMAND, it leaves the
state. STORE_CHARGE_DONE in Full Sail sets PWR_HU to 5.0 V and the capacitance. Counting readings for times is the model's
choice (notes/assumptions/17.md). -/
def Obligations.PowerStates : Prop :=
  (∀ s : State, s.power.st = .furled → s.sentry.furlLatch = false → s.power.tries = 0 → 21 ≤ s.power.vinHigh →
       Completes (.powerUp none) s fun t => t.power = { s.power with st := .fullSail, tries := 0 } ∧ t.boot = { s.boot with phase := .released } ∧
         t.sentry = { s.sentry with onVbat := false, dead := false }) ∧
  (∀ (r : Fin 8) (s : State), s.power.st = .furled → s.sentry.furlLatch = false → s.power.tries = 0 → 21 ≤ s.power.vinHigh →
       Completes (.powerUp (some r)) s fun t => t.power = { s.power with tries := 1, triedAt := s.sentry.tick } ∧ t.boot = s.boot ∧
         t.sentry = { s.sentry with onVbat := false, dead := false }) ∧
  (∀ s : State, s.power.st = .furled → s.sentry.furlLatch = false → 0 < s.power.tries → s.power.tries < 3 →
       32768 ≤ (s.sentry.tick + 2 ^ 48 - s.power.triedAt) % 2 ^ 48 →
       Completes (.railRetry none) s fun t => t.power = { s.power with st := .fullSail, tries := 0 } ∧ t.boot = { s.boot with phase := .released }) ∧
  (∀ (r : Fin 8) (s : State), s.power.st = .furled → s.sentry.furlLatch = false → s.power.tries = 1 →
       32768 ≤ (s.sentry.tick + 2 ^ 48 - s.power.triedAt) % 2 ^ 48 →
       Completes (.railRetry (some r)) s fun t => t.power = { s.power with tries := 2, triedAt := s.sentry.tick } ∧ t.boot = s.boot) ∧
  (∀ (r : Fin 8) (s : State), s.power.st = .furled → s.sentry.furlLatch = false → s.power.tries = 2 →
       32768 ≤ (s.sentry.tick + 2 ^ 48 - s.power.triedAt) % 2 ^ 48 →
       Completes (.railRetry (some r)) s fun t => t.power = { s.power with tries := 3, triedAt := s.sentry.tick } ∧
         t.sentry.railFault = some r.val ∧ t.boot = s.boot) ∧
  (∀ (f : Option (Fin 8)) (c : Instr) (s : State), c ∈ [.powerUp f, .railRetry f] →
       (s.power.st ≠ .furled ∨ s.sentry.furlLatch = true ∨ 3 ≤ s.power.tries) → exec c s = .next s) ∧
  (∀ (f : Option (Fin 8)) (s : State), (s.power.vinHigh < 21 → exec (.powerUp f) s = .next s) ∧
       ((s.sentry.tick + 2 ^ 48 - s.power.triedAt) % 2 ^ 48 < 32768 → exec (.railRetry f) s = .next s)) ∧
  (∀ s : State, (s.power.vin < 10000 → exec .furlLatchClear s = .next { s with
         sentry := { s.sentry with furlLatch := false }, power := { s.power with tries := 0 } }) ∧
       (10000 ≤ s.power.vin → exec .furlLatchClear s = .next s)) ∧
  (∀ s : State, s.power.st = .fullSail → s.boot.started = true → 2400 ≤ rdF s PWR_HU 0 16 →
       storeThin (reefEnter 1 { s with power := { s.power with vin := 0, vinHigh := 0 } }) = false →
       Completes .powerFail s fun t => t.power = { s.power with st := .reefed, why := 1, hot := 0, vin := 0, vinHigh := 0 } ∧
         t.boot.dataPath = false ∧ t.deck.st = .failed ∧ t.nodeOk = false ∧ t.mkt.tabs = []) ∧
  (∀ s : State, s.power.st = .fullSail → (s.boot.started = false ∨ rdF s PWR_HU 0 16 < 2400) →
       Completes .powerFail s fun t => t.power.st = .furled ∧ t.boot.phase = .held ∧ t.boot.cold = true ∧ t.nodeOk = false ∧
         t.ledger.log = s.ledger.log) ∧
  (∀ s : State, s.power.st = .fullSail → s.boot.started = true → 2400 ≤ rdF s PWR_HU 0 16 →
       storeThin (reefEnter 1 { s with power := { s.power with vin := 0, vinHigh := 0 } }) = true →
       Completes .powerFail s fun t => t.power.st = .furled ∧ t.boot.phase = .held ∧ t.boot.cold = true ∧ t.nodeOk = false) ∧
  (∀ s : State, s.power.st ≠ .fullSail → exec .powerFail s = .next { s with power := { s.power with vin := 0, vinHigh := 0 } }) ∧
  (∀ s : State, s.power.st = .reefed → rdF s PWR_HU 0 16 ≤ 2400 → Completes .holdupEnd s fun t => t.power.st = .furled ∧ t.boot.phase = .held ∧
       t.boot.cold = true ∧ t.nodeOk = false) ∧
  (∀ s : State, s.power.st ≠ .reefed ∨ 2400 < rdF s PWR_HU 0 16 → exec .holdupEnd s = .next s) ∧
  (∀ (who : Req) (s : State), Served who PWR_CMD s → s.boot.started = true →
       Completes (.furl who 0xF0A1#16) s fun t => t.power.st = .furled ∧ t.sentry.furlLatch = true ∧ t.boot.phase = .held ∧ t.nodeOk = false) ∧
  (∀ (who : Req) (key : BitVec 16) (s : State), Served who PWR_CMD s → (key ≠ 0xF0A1#16 ∨ s.boot.started = false) →
       exec (.furl who key) s = .next (accessed who s)) ∧
  (∀ (v : Word) (s : State), s.power.st = .reefed →
       (s.power.why = 1 ∧ 101 ≤ s.power.vinHigh ∨ s.power.why = 2 ∧ dieTemp s ≤ 8 * (rdF s PWR_CFG 24 8 : Nat)) →
       Completes (.powerResumption v) s fun t => t.power.st = .fullSail ∧ t.boot = { s.boot with dataPath := true, okAt := t.boot.okAt } ∧
         t.sentry.onVbat = false) ∧
  (∀ (cf : BitVec 16) (s : State), TablesWf s → s.power.st = .fullSail →
       Completes (.storeChargeDone cf) s fun t => rd t PWR_HU = wordOf (5000 + 2 ^ 16 * cf.toNat) ∧ t.power = s.power) ∧
  (∀ (v : Word) (s : State), (s.power.st ≠ .reefed ∨ s.power.why = 1 ∧ s.power.vinHigh < 101 ∨
         s.power.why = 2 ∧ ¬ dieTemp s ≤ 8 * (rdF s PWR_CFG 24 8 : Nat) ∨ s.power.why = 3) →
       exec (.powerResumption v) s = .next s) ∧
  (∀ (cf : BitVec 16) (s : State), s.power.st ≠ .fullSail → exec (.storeChargeDone cf) s = .next s)

/-- The sensor, shedding, the input, the rails and the store. A reading of the sensor 1 ms after the last or later, between -50 and
125 degrees, in Full Sail: before the node has started it is kept in TEMP and counted among the readings in a row at TRIP_C, and
the eleventh turns every rail off; after, the eleventh enters Reefed for THERMAL without the data path, and another makes one
shed step on a state with the count. A shed step at the next level's temperature raises the level by one with SHED_CHANGE, else
one whose level has been calm for 10,001 readings lowers it by one. A reading outside those temperatures is a TEMP tamper after
the reading; in Furled, or before the time, SENSOR_READING leaves the state. RAIL_MEASURE in Furled keeps the input and counts
its readings in a row at 10.8 V or above; otherwise, before 1 ms since the last, it leaves the state, and with one rail and no
core rail out of its limits keeps the input's voltage, current and power, the store's voltage and that rail's voltage and
current. An accepted RAIL_LOAD gives the rail's entry. Counting readings for times, and the rails going off before the start,
are the model's choice (notes/assumptions/17.md). -/
def Obligations.PowerMeasurements : Prop :=
  (∀ (temp : BitVec 16) (s : State), TablesWf s → s.power.st = .fullSail → s.boot.started = false → s.power.sensorDue ≤ s.ticks →
       -400 ≤ temp.toInt → temp.toInt ≤ 1000 → (8 * (rdF s PWR_CFG 16 8 : Nat) ≤ temp.toInt → s.power.hot < 10) →
       Completes (.sensorReading temp) s fun t => rdF t PWR_DIE 0 16 = temp.toNat ∧ t.power = { s.power with
         tempSeen := true, sensorDue := s.ticks + 250000,
         hot := (if 8 * (rdF s PWR_CFG 16 8 : Nat) ≤ temp.toInt then min 11 (s.power.hot + 1) else 0) }) ∧
  (∀ (temp : BitVec 16) (s : State), s.power.st = .fullSail → s.boot.started = false → s.power.sensorDue ≤ s.ticks →
       temp.toInt ≤ 1000 → -400 ≤ temp.toInt → s.power.hot = 10 → 8 * (rdF s PWR_CFG 16 8 : Nat) ≤ temp.toInt →
       Completes (.sensorReading temp) s fun t => t.power.st = .furled ∧ t.boot.phase = .held ∧ t.nodeOk = false) ∧
  (∀ (temp : BitVec 16) (s : State), s.power.st = .fullSail → s.boot.started = true → s.power.sensorDue ≤ s.ticks → temp.toInt ≤ 1000 →
       -400 ≤ temp.toInt → s.power.hot = 10 → 8 * (rdF s PWR_CFG 16 8 : Nat) ≤ temp.toInt →
       Completes (.sensorReading temp) s fun t => t.power.st = .reefed ∧ t.power.why = 2 ∧ t.boot.dataPath = false ∧ t.nodeOk = false) ∧
  (∀ (temp : BitVec 16) (s : State), s.power.st = .fullSail → s.boot.started = true → s.power.sensorDue ≤ s.ticks → temp.toInt ≤ 1000 →
       -400 ≤ temp.toInt → (8 * (rdF s PWR_CFG 16 8 : Nat) ≤ temp.toInt → s.power.hot < 10) →
       Completes (.sensorReading temp) s fun t => ∃ u : State, t = shedStep temp.toInt u ∧ u.power = { s.power with
         tempSeen := true, sensorDue := s.ticks + 250000,
         hot := (if 8 * (rdF s PWR_CFG 16 8 : Nat) ≤ temp.toInt then min 11 (s.power.hot + 1) else 0) }) ∧
  (∀ (temp : BitVec 16) (s : State), s.power.st ≠ .furled → s.power.sensorDue ≤ s.ticks → (temp.toInt < -400 ∨ 1000 < temp.toInt) →
       exec (.sensorReading temp) s = .next (tamper 8 (dieReading temp { s with power := { s.power with sensorDue := s.ticks + 250000 } }))) ∧
  (∀ (temp : Int) (s : State), TablesWf s → s.power.shed < 4 → shedEnter s (s.power.shed + 1) ≤ temp →
       (shedStep temp s).power.shed = s.power.shed + 1 ∧ rdB (shedStep temp s) PWR_INT 2 = true) ∧
  (∀ (temp : Int) (s : State), ¬ (s.power.shed < 4 ∧ shedEnter s (s.power.shed + 1) ≤ temp) → 0 < s.power.shed →
       10001 ≤ tget 0 (calmCount s temp) s.power.shed → (shedStep temp s).power.shed = s.power.shed - 1) ∧
  (∀ (temp : BitVec 16) (s : State), s.power.st = .furled ∨ s.ticks < s.power.sensorDue → exec (.sensorReading temp) s = .next s) ∧
  (∀ (rails : List (Nat × Nat)) (vin iin vstore : BitVec 16) (pmw : Word) (s : State), s.power.st = .furled →
       exec (.railMeasure rails vin iin pmw vstore) s = .next { s with power := { s.power with
         vin := vin.toNat, vinHigh := (if 10800 ≤ vin.toNat then min 101 (s.power.vinHigh + 1) else 0) } }) ∧
  (∀ (rails : List (Nat × Nat)) (vin iin vstore : BitVec 16) (pmw : Word) (s : State), s.power.st ≠ .furled → s.ticks < s.power.measDue →
       exec (.railMeasure rails vin iin pmw vstore) s = .next s) ∧
  (∀ (mv ma : Nat) (vin iin vstore : BitVec 16) (pmw : Word) (s : State), TablesWf s → s.power.st ≠ .furled → s.power.measDue ≤ s.ticks →
       voltTamper s = false →
       Completes (.railMeasure [(mv, ma)] vin iin pmw vstore) s fun t => rd t PWR_IN = wordOf (vin.toNat + 2 ^ 16 * iin.toNat) ∧
         rd t PWR_PIN = pmw ∧ rdF t PWR_HU 0 16 = vstore.toNat ∧ (rail t 0).mv = mv ∧ (rail t 0).ma = ma) ∧
  (∀ (who : Req) (k : Fin 8) (s : State), TablesWf s → Served who PWR_RAIL_IDX s →
       Completes (.railLoad who k) s fun t => rd t PWR_RAIL_V = wordOf ((rail s k.val).mv + 2 ^ 16 * (rail s k.val).least.getD 0) ∧
         rd t PWR_RAIL_I = wordOf (rail s k.val).ma ∧ rdF t PWR_RAIL_IDX 0 3 = k.val)

/-- The host interface's resets, interrupts, held writes and refused accesses. In Full Sail a reset of the host interface sets
HST_INT.LINK_RESET, empties the held accesses, clears the D3hot mark and leaves every vector masked with data 0; D3hot entry
sets that mark and nothing else. An EOI whose vector's OR is true sends that vector's message with its address and data and
changes no register, or, where the vector or the function is masked, sets its pending bit and sends nothing; an EOI whose OR is
false only counts as an access, which forgets a kept upper word. A table word takes what is written, of Vector Control bit 0
alone, and no other register changes. A 32-bit read of a lower word answers it and keeps the upper one, and the next access, a
read of that upper word, answers the kept value. A read of a read-clear field answers the register and leaves the field 0.
HELD_WRITE_DROP in Full Sail drops the oldest held write once 10 ms have gone by since the front write began to wait, sets the
write-drop bit of HST_INT and puts the write's offset with the write mark in HST_ERR_OFS; before that time, or with nothing
held, it leaves the state. A request that the interface does not accept sets ACCESS_ERR with the offset and the write mark, and
a read of that kind is answered unsupported; an accepted one only counts as an access. That an access held behind a held one
starts its 10 ms when it comes to the front is the model's choice (notes/assumptions/5.md). -/
def Obligations.HostInterface : Prop :=
  (∀ (kind : LinkReset) (s : State), TablesWf s → s.power.st = .fullSail →
       Completes (.linkReset kind) s fun t => rdB t HST_INT 4 = true ∧ t.host.held = [] ∧ t.host.d3hot = false ∧
         ∀ v : Fin 16, rd t (MSIX_CTRL v.val) = 1#32 ∧ rd t (MSIX_DATA v.val) = 0#32) ∧
  (∀ s : State, s.power.st = .fullSail → exec .d3hotEntry s = .next { s with host := { s.host with d3hot := true } }) ∧
  (∀ (v : Fin 16) (s : State), Served .host HST_EOI s → vectorTrue s v.val = true → s.host.funcMask = false → rdB s (MSIX_CTRL v.val) 0 = false →
       Completes (.eoi v) s fun t => t.out = s.out ++ [.msix v.val (rd64 s (MSIX_ADDR v.val)) (rd s (MSIX_DATA v.val))] ∧ t.regs = s.regs) ∧
  (∀ (v : Fin 16) (s : State), Served .host HST_EOI s → vectorTrue s v.val = true → (s.host.funcMask = true ∨ rdB s (MSIX_CTRL v.val) 0 = true) →
       Completes (.eoi v) s fun t => t.host.pba = withBit s.host.pba v.val ∧ t.out = s.out ∧ t.regs = s.regs) ∧
  (∀ (v : Fin 16) (s : State), Served .host HST_EOI s → vectorTrue s v.val = false → exec (.eoi v) s = .next (accessed .host s)) ∧
  (∀ (v : Fin 16) (w : Fin 4) (x : Word) (s : State), TablesWf s → Served .host (MSIX_ADDR v.val + 4 * w.val) s →
       Completes (.msixTableWrite v w x) s fun t => rd t (MSIX_ADDR v.val + 4 * w.val) = (if w.val = 3 then x &&& 1#32 else x) ∧
         ∀ b, b ≠ MSIX_ADDR v.val + 4 * w.val → rd t b = rd s b) ∧
  (∀ (ofs : BitVec 20) (s : State), Served .host HST_ID s → responds s (ofs.toNat / 4 * 4) = true → ownRead (ofs.toNat / 4 * 4) = false →
       ofs.toNat / 4 * 4 % 8 = 0 →
       exec (.lowWordRead ofs) s = .next { s with
         out := s.out ++ [.readData .host ((readReg (accessed .host s) (ofs.toNat / 4 * 4)).setWidth 64)]
         host := { s.host with shadow := some (ofs.toNat / 4 * 4, readReg (accessed .host s) (ofs.toNat / 4 * 4 + 4)) } }) ∧
  (∀ (ofs : BitVec 20) (w : Word) (s : State), Served .host HST_ID s → responds s (ofs.toNat / 4 * 4) = true → ownRead (ofs.toNat / 4 * 4) = false →
       ofs.toNat / 4 * 4 % 8 = 4 → s.host.shadow = some (ofs.toNat / 4 * 4 - 4, w) →
       exec (.lowWordRead ofs) s = .next { s with
         out := s.out ++ [.readData .host (w.setWidth 64)]
         host := { s.host with shadow := none } }) ∧
  (∀ (who : Req) (ch : Option (Fin 24)) (s : State), TablesWf s → Served who (clearedReg ch) s →
       Completes (.clearOnRead who ch) s fun t => rdF t (clearedReg ch) 16 (if ch.isNone then 8 else 16) = 0 ∧
         t.out = s.out ++ [.readData who ((readReg (accessed who s) (clearedReg ch)).setWidth 64)]) ∧
  (∀ (c : Instr) (r : List Instr) (a : Nat) (s : State), TablesWf s → s.power.st = .fullSail → s.host.held = c :: r → heldOfs c = some a →
       s.host.heldAt + 2500000 ≤ s.ticks →
       Completes .heldWriteDrop s fun t => t.host.held = r ∧ rdB t HST_INT 1 = true ∧ rd t HST_ERR_OFS = wordOf (a + 2 ^ 20)) ∧
  (∀ s : State, s.power.st = .fullSail → s.host.held = [] ∨ s.ticks < s.host.heldAt + 2500000 → exec .heldWriteDrop s = .next s) ∧
  (∀ (ofs : BitVec 20) (len : Nat) (write : Bool) (s : State), TablesWf s → Served .host HST_ID s → acceptable ofs.toNat len write = false →
       Completes (.unsupportedRequest ofs len write) s fun t => rdB t HST_INT 0 = true ∧
         rd t HST_ERR_OFS = wordOf (ofs.toNat + 2 ^ 20 * b2n write) ∧ (write = false → .unsupported ofs.toNat ∈ t.out)) ∧
  (∀ (ofs : BitVec 20) (len : Nat) (write : Bool) (s : State), Served .host HST_ID s → acceptable ofs.toNat len write = true →
       exec (.unsupportedRequest ofs len write) s = .next (accessed .host s))

/-- The window reads and the register writes. Every access here is one the host interface serves. A 64-bit read of an open window
answers and drops its next word and counts it; of an empty window it answers 0, counts an underrun and sets its bit, but in the
tick of its abort only answers 0; a poisoned codeword answers 0, is dropped and counted and sets POISON. A burst of up to 64
words of a window with no more words to come, other than the capture's and the Ledger's, answers them in order. A 32-bit read of
a lower half drops nothing, of an upper half answers it. The last word of an export marks its record exported, ends the export
and sets CAP_INT's bit 5. OPEN on any window but the mirror's only counts as an access; on the mirror's it gives the mirrored
words, or NOT_FOUND where there are none. ABORT empties an open window and ends it with ABORTED and the tick, the capture's with
its export, the Ledger's with its read status and its words; a sampling window's only counts as an access. A write that is not
held, to registers without an effect of their own and not held by the Sentry, changes of the bytes enabled the writable bits and
clears the bits written 1 that clear so, and no other register. A write to one Sentry-held CAL register is posted and changes no
register. A write that meets a busy Till unit or a commit under way is held. PWR_CTRL keeps to its ceiling; a user gain or delay
marks its channel pending; a written-off LOST clears its count; a write of MST_HOLD's upper word renews HOLD_EXC. The abort's
tick is the model's choice (notes/assumptions/32.md). -/
def Obligations.HostWindows : Prop :=
  (∀ (w : Win) (v : BitVec 64) (r : List (BitVec 64)) (s : State), Served .host (winBase w) s → winBusy s w = true →
       (window s (winIdx w)).words = v :: r →
       Completes (.windowRead w .word []) s fun t => s.out ++ [.readData .host v] <+: t.out ∧ (window t (winIdx w)).words = r ∧
         (window t (winIdx w)).count = (window s (winIdx w)).count + 1#32 ∧ ∀ b, b ≠ CAP_INT → b ≠ CTL_INT → rd t b = rd s b) ∧
  (∀ (w : Win) (poison : List Bool) (s : State), TablesWf s → Served .host (winBase w) s → (window s (winIdx w)).words = [] →
       (window s (winIdx w)).cutAt ≠ some s.ticks →
       Completes (.windowRead w .word poison) s fun t => .readData .host 0#64 ∈ t.out ∧ rdB t HST_INT 2 = true ∧
         rd t HST_UNDER = wordOf (satAdd (rd s HST_UNDER).toNat 1 0xFFFFFFFF) ∧ t.host.windows = s.host.windows) ∧
  (∀ (w : Win) (poison : List Bool) (s : State), Served .host (winBase w) s → w ≠ .capture → w ≠ .ledger → (window s (winIdx w)).words = [] →
       (window s (winIdx w)).cutAt = some s.ticks →
       exec (.windowRead w .word poison) s = .next { accessed .host s with out := s.out ++ [.readData .host 0#64] }) ∧
  (∀ (w : Win) (v : BitVec 64) (r : List (BitVec 64)) (ps : List Bool) (s : State), TablesWf s → Served .host (winBase w) s →
       (window s (winIdx w)).words = v :: r → winBusy s w = true →
       Completes (.windowRead w .word (true :: ps)) s fun t => .readData .host 0#64 ∈ t.out ∧ rdB t HST_INT 3 = true ∧
         rd t HST_POISON = wordOf (satAdd (rd s HST_POISON).toNat 1 0xFFFFFFFF) ∧ (window t (winIdx w)).words = r) ∧
  (∀ (w : Win) (l r : List (BitVec 64)) (s : State), Served .host (winBase w) s → w ≠ .capture → w ≠ .ledger → winBusy s w = true →
       (window s (winIdx w)).more = false → (window s (winIdx w)).words = l ++ r → l.length ≤ 64 →
       Completes (.windowRead w (.burst l.length) []) s fun t => t.out = s.out ++ l.map (.readData .host) ∧ (window t (winIdx w)).words = r ∧ t.regs = s.regs) ∧
  (∀ (w : Win) (v : BitVec 64) (r : List (BitVec 64)) (s : State), Served .host (winBase w) s → (window s (winIdx w)).words = v :: r →
       exec (.windowRead w .low []) s = .next { accessed .host s with out := s.out ++ [.readData .host (v % 2 ^ 32)] } ∧
       Completes (.windowRead w .high []) s fun t => s.out ++ [.readData .host (v / 2 ^ 32)] <+: t.out) ∧
  (∀ (v : BitVec 64) (n : Nat) (s : State), TablesWf s → Served .host (winBase .capture) s → winBusy s .capture = true → (window s 2).words = [v] →
       (window s 2).more = false → s.cap.exporting = some n →
       Completes (.windowRead .capture .word []) s fun t => t.cap.exporting = none ∧ rdB t CAP_INT 5 = true ∧
         t.cap.recs = s.cap.recs.map (fun x => if x.no = n then { x with exported := true } else x)) ∧
  (∀ (w : Win) (s : State), Served .host (winBase w) s → w ≠ .mirror → exec (.winOpen w) s = .next (accessed .host s)) ∧
  (∀ s : State, Served .host (winBase .mirror) s → s.pair.mirrorEnergy = none → s.pair.mirror.flatten ≠ [] →
       Completes (.winOpen .mirror) s fun t => (window t (winIdx .mirror)).words = packPairs s.pair.mirror.flatten ∧
         (window t (winIdx .mirror)).openSeq = ((window s (winIdx .mirror)).openSeq + 1) % 2 ^ 16 ∧ t.regs = s.regs) ∧
  (∀ s : State, Served .host (winBase .mirror) s → s.pair.mirrorEnergy = none → s.pair.mirror.flatten = [] →
       Completes (.winOpen .mirror) s fun t => (window t (winIdx .mirror)).words = [] ∧ (window t (winIdx .mirror)).ended = true ∧
         (window t (winIdx .mirror)).why = 4) ∧
  (∀ (w : Win) (s : State), Served .host (winBase w) s → w ∈ [.tableau, .ribbon, .modeShape, .island, .mirror, .attestation] →
       (window s (winIdx w)).ended = false →
       Completes (.winAbort w) s fun t => (window t (winIdx w)).words = [] ∧ (window t (winIdx w)).ended = true ∧
         (window t (winIdx w)).why = 2 ∧ (window t (winIdx w)).cutAt = some s.ticks ∧ t.regs = s.regs) ∧
  (∀ (r : Nat) (s : State), Served .host (winBase .capture) s → s.cap.exporting = some r → (window s (winIdx .capture)).ended = false →
       Completes (.winAbort .capture) s fun t => (window t (winIdx .capture)).words = [] ∧ (window t (winIdx .capture)).ended = true ∧
         t.cap.exporting = none ∧ t.regs = s.regs) ∧
  (∀ s : State, TablesWf s → Served .host (winBase .ledger) s → (window s (winIdx .ledger)).ended = false →
       Completes (.winAbort .ledger) s fun t => (window t (winIdx .ledger)).words = [] ∧ (window t (winIdx .ledger)).ended = true ∧
         t.ledger = { s.ledger with evRead := [], enRead := [] } ∧ rd t LDG_RD_STAT = 0#32) ∧
  (∀ (c : Fin 4) (s : State), Served .host (winBase (.deckSampling c)) s → exec (.winAbort (.deckSampling c)) s = .next (accessed .host s)) ∧
  (∀ (who : Req) (ofs : BitVec 17) (be : BitVec 8) (v : BitVec 64) (s : State), TablesWf s → Served who (8 * ofs.toNat) s →
       writeHolds (8 * ofs.toNat) s = false → writeHolds (8 * ofs.toNat + 4) s = false →
       postedReg (8 * ofs.toNat) = false → postedReg (8 * ofs.toNat + 4) = false →
       (∀ u, writeEffect (8 * ofs.toNat) u = u) → (∀ u, writeEffect (8 * ofs.toNat + 4) u = u) →
       Completes (.registerWrite who ofs be v) s fun t =>
         (∀ r, regRow? (8 * ofs.toNat) = some r → rd t (8 * ofs.toNat) =
           ((rd s (8 * ofs.toNat) &&& ~~~(writable who (8 * ofs.toNat) r s &&& byteMask (be.toNat % 16))) |||
             (loWord v.toNat &&& (writable who (8 * ofs.toNat) r s &&& byteMask (be.toNat % 16)))) &&&
             ~~~(loWord v.toNat &&& byteMask (be.toNat % 16) &&& wordOf r.w1c)) ∧
         (∀ r, regRow? (8 * ofs.toNat + 4) = some r → rd t (8 * ofs.toNat + 4) =
           ((rd s (8 * ofs.toNat + 4) &&& ~~~(writable who (8 * ofs.toNat + 4) r s &&& byteMask (be.toNat / 16))) |||
             (hiWord v.toNat &&& (writable who (8 * ofs.toNat + 4) r s &&& byteMask (be.toNat / 16)))) &&&
             ~~~(hiWord v.toNat &&& byteMask (be.toNat / 16) &&& wordOf r.w1c)) ∧
         (∀ b, b ≠ 8 * ofs.toNat → b ≠ 8 * ofs.toNat + 4 → rd t b = rd s b)) ∧
  (∀ (who : Req) (ofs : BitVec 17) (be : BitVec 8) (v : BitVec 64) (r : RegRow) (s : State), Served who (8 * ofs.toNat) s →
       writeHolds (8 * ofs.toNat) s = false → postedReg (8 * ofs.toNat) = true → regRow? (8 * ofs.toNat) = some r →
       byteMask (be.toNat / 16) = 0#32 → byteMask (be.toNat % 16) ≠ 0#32 →
       Completes (.registerWrite who ofs be v) s fun t => t.regs = s.regs ∧ t.sentry = { s.sentry with
         posted := s.sentry.posted ++ [(8 * ofs.toNat, writable who (8 * ofs.toNat) r s &&& byteMask (be.toNat % 16),
           loWord v.toNat &&& byteMask (be.toNat % 16) &&& wordOf r.w1c, loWord v.toNat)] }) ∧
  (∀ (ofs : BitVec 17) (be : BitVec 8) (v : BitVec 64) (s : State), Served .host (8 * ofs.toNat) s →
       ((byteMask (be.toNat % 16) ≠ 0#32 ∧ writeHolds (8 * ofs.toNat) s = true) ∨
         (byteMask (be.toNat / 16) ≠ 0#32 ∧ writeHolds (8 * ofs.toNat + 4) s = true)) →
       Completes (.registerWrite .host ofs be v) s fun t => t.host.held = [.registerWrite .host ofs be v] ∧ t.regs = s.regs) ∧
  (∀ (v : BitVec 64) (who : Req) (s : State), TablesWf s → Served who PWR_CTRL s →
       Completes (.registerWrite who 0x402#17 0x0F#8 v) s fun t => (rd t PWR_CTRL).toNat = min (((rd s PWR_CTRL &&& ~~~0xFF#32) ||| (loWord v.toNat &&& 0xFF#32)).toNat % 256) (rdF s PWR_CFG 0 8)) ∧
  (∀ (v : BitVec 64) (who : Req) (ch : Fin 24) (s : State), TablesWf s → Served who (SCL_CH_UGAIN ch.val) s → Served who (SCL_CH_UDLY ch.val) s →
       Completes (.registerWrite who (BitVec.ofNat 17 (SCL_CH_UGAIN ch.val / 8)) 0x0F#8 v) s (fun t => rdB t SCL_CAL_PEND ch.val = true) ∧
       Completes (.registerWrite who (BitVec.ofNat 17 (SCL_CH_UGAIN ch.val / 8)) 0xF0#8 v) s (fun t => rdB t SCL_CAL_PEND ch.val = true) ∧
       Completes (.registerWrite who (BitVec.ofNat 17 (SCL_CH_UDLY ch.val / 8)) 0x0F#8 v) s (fun t => rdB t SCL_CAL_PEND ch.val = true)) ∧
  (∀ (v : BitVec 64) (who : Req) (c : Fin 4) (s : State), TablesWf s → Served who (CTL_PC_STAT c.val) s → v.toNat.testBit 11 = true →
       Completes (.registerWrite who (BitVec.ofNat 17 (CTL_PC_STAT c.val / 8)) 0x0F#8 v) s fun t =>
         rdB t (CTL_PC_STAT c.val) 11 = false ∧ rdF t (CTL_PC_STAT c.val) 21 11 = 0) ∧
  (∀ (v : BitVec 64) (who : Req) (s : State), Served who 0x4068 s → Completes (.registerWrite who 0x80D#17 0xF0#8 v) s fun t =>
         t.mast = { s.mast with holdExc := tqExceeds t })
end

