-- ==== Sys2Proof/Laws/Fields.lean ====
section
/-!
SUPPORT. Fields of words: reading a field after writing one, and bits after setting one.
-/

namespace Sys2Proof.Machine

set_option Elab.async false
set_option linter.all false

theorem fieldN_lt (w lo n : Nat) : fieldN w lo n < 2 ^ n := Nat.mod_lt _ (Nat.two_pow_pos n)

/-- A number cut at two places. -/
theorem cut3 (w lo n : Nat) : w = w / 2 ^ (lo + n) * 2 ^ (lo + n) + fieldN w lo n * 2 ^ lo + w % 2 ^ lo := by
  have h1 := Nat.div_add_mod w (2 ^ lo)
  have h2 := Nat.div_add_mod (w / 2 ^ lo) (2 ^ n)
  rw [Nat.div_div_eq_div_mul, ← Nat.pow_add] at h2
  unfold fieldN
  calc w = 2 ^ lo * (w / 2 ^ lo) + w % 2 ^ lo := h1.symm
    _ = 2 ^ lo * (2 ^ n * (w / 2 ^ (lo + n)) + w / 2 ^ lo % 2 ^ n) + w % 2 ^ lo := by rw [h2]
    _ = _ := by rw [Nat.pow_add]; ring

/-- The number that `withField` makes. -/
theorem withField_toNat (w : BitVec 32) (lo n v : Nat) (h : lo + n ≤ 32) :
    (withField w lo n v).toNat = w.toNat / 2 ^ (lo + n) * 2 ^ (lo + n) + v % 2 ^ n * 2 ^ lo + w.toNat % 2 ^ lo := by
  have hw := w.isLt
  have hc := cut3 w.toNat lo n
  have hv : v % 2 ^ n < 2 ^ n := Nat.mod_lt _ (Nat.two_pow_pos n)
  have hr : w.toNat % 2 ^ lo < 2 ^ lo := Nat.mod_lt _ (Nat.two_pow_pos lo)
  unfold withField
  rw [BitVec.toNat_ofNat]
  have e : w.toNat - fieldN w.toNat lo n * 2 ^ lo + v % 2 ^ n * 2 ^ lo =
      w.toNat / 2 ^ (lo + n) * 2 ^ (lo + n) + v % 2 ^ n * 2 ^ lo + w.toNat % 2 ^ lo := by omega
  rw [e]
  refine Nat.mod_eq_of_lt ?_
  have hq : w.toNat / 2 ^ (lo + n) < 2 ^ (32 - (lo + n)) := by
    rw [Nat.div_lt_iff_lt_mul (Nat.two_pow_pos _), ← Nat.pow_add]
    have : 32 - (lo + n) + (lo + n) = 32 := by omega
    rw [this]; exact hw
  have h1 : v % 2 ^ n * 2 ^ lo + w.toNat % 2 ^ lo < 2 ^ (lo + n) := by
    have : (v % 2 ^ n + 1) * 2 ^ lo ≤ 2 ^ n * 2 ^ lo := Nat.mul_le_mul_right _ hv
    rw [Nat.pow_add, Nat.mul_comm (2 ^ lo)]
    nlinarith
  have h2 : (w.toNat / 2 ^ (lo + n) + 1) * 2 ^ (lo + n) ≤ 2 ^ 32 := by
    have := Nat.mul_le_mul_right (2 ^ (lo + n)) hq
    rw [← Nat.pow_add] at this
    have e2 : 32 - (lo + n) + (lo + n) = 32 := by omega
    rwa [e2] at this
  nlinarith

/-- The field written reads back. -/
theorem field_withField (w : BitVec 32) (lo n v : Nat) (h : lo + n ≤ 32) : field (withField w lo n v) lo n = v % 2 ^ n := by
  unfold field fieldN
  rw [withField_toNat w lo n v h, Nat.pow_add]
  have hr : w.toNat % 2 ^ lo < 2 ^ lo := Nat.mod_lt _ (Nat.two_pow_pos lo)
  have e : w.toNat / (2 ^ lo * 2 ^ n) * (2 ^ lo * 2 ^ n) + v % 2 ^ n * 2 ^ lo + w.toNat % 2 ^ lo =
      2 ^ lo * (w.toNat / (2 ^ lo * 2 ^ n) * 2 ^ n + v % 2 ^ n) + w.toNat % 2 ^ lo := by ring
  rw [e, Nat.mul_add_div (Nat.two_pow_pos lo), Nat.div_eq_of_lt hr, Nat.add_zero, Nat.mul_comm _ (2 ^ n), Nat.mul_add_mod,
    Nat.mod_mod]

/-- A field above the one written reads as before. -/
theorem field_withField_above (w : BitVec 32) (lo n v lo' m : Nat) (h : lo + n ≤ 32) (ho : lo + n ≤ lo') :
    field (withField w lo n v) lo' m = field w lo' m := by
  have hv : v % 2 ^ n < 2 ^ n := Nat.mod_lt _ (Nat.two_pow_pos n)
  have hr : w.toNat % 2 ^ lo < 2 ^ lo := Nat.mod_lt _ (Nat.two_pow_pos lo)
  have h1 : v % 2 ^ n * 2 ^ lo + w.toNat % 2 ^ lo < 2 ^ (lo + n) := by
    have : (v % 2 ^ n + 1) * 2 ^ lo ≤ 2 ^ n * 2 ^ lo := Nat.mul_le_mul_right _ hv
    rw [Nat.pow_add, Nat.mul_comm (2 ^ lo)]
    nlinarith
  unfold field fieldN
  congr 1
  have e : lo' = (lo + n) + (lo' - (lo + n)) := by omega
  rw [e, Nat.pow_add (2) (lo + n), ← Nat.div_div_eq_div_mul, ← Nat.div_div_eq_div_mul, withField_toNat w lo n v h]
  congr 1
  rw [Nat.add_assoc, Nat.mul_comm, Nat.mul_add_div (Nat.two_pow_pos _), Nat.div_eq_of_lt h1, Nat.add_zero]

/-- A field below the one written reads as before. -/
theorem field_withField_below (w : BitVec 32) (lo n v lo' m : Nat) (h : lo + n ≤ 32) (ho : lo' + m ≤ lo) :
    field (withField w lo n v) lo' m = field w lo' m := by
  have key : ∀ k : Nat, k / 2 ^ lo' % 2 ^ m = k % 2 ^ lo / 2 ^ lo' % 2 ^ m := by
    intro k
    have e : lo = lo' + (m + (lo - (lo' + m))) := by omega
    rw [e, Nat.pow_add 2 lo', Nat.mod_mul_right_div_self, Nat.pow_add 2 m, Nat.mod_mul_right_mod]
  unfold field fieldN
  rw [key, key w.toNat, withField_toNat w lo n v h]
  congr 2
  rw [Nat.pow_add]
  have e : w.toNat / (2 ^ lo * 2 ^ n) * (2 ^ lo * 2 ^ n) + v % 2 ^ n * 2 ^ lo + w.toNat % 2 ^ lo =
      2 ^ lo * (w.toNat / (2 ^ lo * 2 ^ n) * 2 ^ n + v % 2 ^ n) + w.toNat % 2 ^ lo := by ring
  rw [e, Nat.mul_add_mod, Nat.mod_mod]

/-- Fields that do not overlap. -/
theorem field_withField_ne (w : BitVec 32) (lo n v lo' m : Nat) (h : lo + n ≤ 32) (ho : lo + n ≤ lo' ∨ lo' + m ≤ lo) :
    field (withField w lo n v) lo' m = field w lo' m :=
  ho.elim (field_withField_above w lo n v lo' m h) (field_withField_below w lo n v lo' m h)

theorem bitAt_eq_field (w : BitVec 32) (k : Nat) : bitAt w k = decide (field w k 1 = 1) := by
  unfold bitAt field fieldN
  rw [Nat.testBit_eq_decide_div_mod_eq, Nat.pow_one]

/-- A bit after `withBit`. -/
theorem bitAt_withBit (w : BitVec 32) (k j : Nat) (h : k < 32) : bitAt (withBit w k) j = (decide (k = j) || bitAt w j) := by
  unfold bitAt withBit
  rw [BitVec.toNat_or, Nat.testBit_or, BitVec.toNat_ofNat,
    Nat.mod_eq_of_lt (Nat.pow_lt_pow_right (by omega) h), Nat.testBit_two_pow, Bool.or_comm]

theorem bitAt_withBool (w : BitVec 32) (k : Nat) (b : Bool) (h : k < 32) : bitAt (withBool w k b) k = b := by
  rw [bitAt_eq_field]
  unfold withBool
  rw [field_withField _ _ _ _ (by omega)]
  cases b <;> decide

theorem bitAt_withBool_ne (w : BitVec 32) (k j : Nat) (b : Bool) (h : k < 32) (hj : j ≠ k) : bitAt (withBool w k b) j = bitAt w j := by
  rw [bitAt_eq_field, bitAt_eq_field]
  unfold withBool
  rw [field_withField_ne _ _ _ _ _ _ (by omega) (by omega)]

end Sys2Proof.Machine
end

