-- ==== Sys2Proof/Laws/Tables.lean ====
section
/-!
SUPPORT. Sparse tables: reading after writing, and the canonical form that every write keeps.
-/

namespace Sys2Proof.Machine

set_option Elab.async false
set_option linter.all false

theorem mapSet_keys {α : Type} [DecidableEq α] (d : Nat → α) (m : NMap α) (a b : Nat) (v : α)
    (hm : m.all (fun p => decide (b < p.1)) = true) (hb : b < a) : (mapSet d m a v).all (fun p => decide (b < p.1)) = true := by
  induction m with
  | nil => unfold mapSet; split <;> simp [hb]
  | cons p m ih =>
    obtain ⟨k, w⟩ := p
    rw [List.all_cons, Bool.and_eq_true, decide_eq_true_eq] at hm
    have ih := ih hm.2
    unfold mapSet
    repeat' split
    all_goals try simp only [List.all_cons, Bool.and_eq_true, decide_eq_true_eq]
    · exact hm
    · exact ⟨hb, hm⟩
    · exact hm.2
    · exact ⟨hb, hm.2⟩
    · exact ⟨hm.1, ih⟩

theorem mapSet_wf {α : Type} [DecidableEq α] (d : Nat → α) (m : NMap α) (a : Nat) (v : α) (h : mapWf d m = true) :
    mapWf d (mapSet d m a v) = true := by
  induction m with
  | nil => unfold mapSet; split <;> simp_all [mapWf]
  | cons p m ih =>
    obtain ⟨k, w⟩ := p
    have hd := h
    unfold mapWf at h
    simp only [Bool.and_eq_true, decide_eq_true_eq] at h
    have up : ∀ b, b < k → m.all (fun p => decide (b < p.1)) = true := fun b hb => by
      have := h.1.2
      rw [List.all_eq_true] at this ⊢
      exact fun x hx => by have := this x hx; rw [decide_eq_true_eq] at this ⊢; exact Nat.lt_trans hb this
    unfold mapSet
    repeat' split
    · exact hd
    · rename_i hk hv
      unfold mapWf
      simp only [Bool.and_eq_true, decide_eq_true_eq]
      exact ⟨⟨hv, by rw [List.all_cons, up a hk]; simp [hk]⟩, hd⟩
    · exact h.2
    · rename_i hk hv
      subst hk
      unfold mapWf
      simp only [Bool.and_eq_true, decide_eq_true_eq]
      exact ⟨⟨hv, h.1.2⟩, h.2⟩
    · unfold mapWf
      simp only [Bool.and_eq_true, decide_eq_true_eq]
      exact ⟨⟨h.1.1, mapSet_keys d m a k v h.1.2 (by omega)⟩, ih h.2⟩

/-- A key that stands before every listed one is not listed. -/
theorem mapGet_below {α : Type} (d : Nat → α) (m : NMap α) (a : Nat) (h : m.all (fun p => decide (a < p.1)) = true) :
    mapGet d m a = d a := by
  induction m with
  | nil => rfl
  | cons p m ih =>
    obtain ⟨k, w⟩ := p
    rw [List.all_cons, Bool.and_eq_true, decide_eq_true_eq] at h
    unfold mapGet
    rw [if_neg (by have := h.1; omega), ih h.2]

/-- Another key reads as before. -/
theorem mapGet_mapSet_ne {α : Type} [DecidableEq α] (d : Nat → α) (m : NMap α) (a b : Nat) (v : α) (h : b ≠ a) :
    mapGet d (mapSet d m a v) b = mapGet d m b := by
  induction m with
  | nil => unfold mapSet; split <;> simp [mapGet, Ne.symm h]
  | cons p m ih =>
    obtain ⟨k, w⟩ := p
    unfold mapSet
    repeat' split
    all_goals subst_vars
    all_goals simp only [mapGet, if_neg (Ne.symm h), ih]

/-- A canonical table reads back what was written. -/
theorem mapGet_mapSet_same {α : Type} [DecidableEq α] (d : Nat → α) (m : NMap α) (a : Nat) (v : α) (h : mapWf d m = true) :
    mapGet d (mapSet d m a v) a = v := by
  induction m with
  | nil => unfold mapSet; split <;> simp_all [mapGet]
  | cons p m ih =>
    obtain ⟨k, w⟩ := p
    unfold mapWf at h
    simp only [Bool.and_eq_true, decide_eq_true_eq] at h
    unfold mapSet
    repeat' split
    · rename_i hk hv
      unfold mapGet
      rw [if_neg (by omega), hv]
      refine mapGet_below d m a ?_
      have := h.1.2
      rw [List.all_eq_true] at this ⊢
      exact fun x hx => by have := this x hx; rw [decide_eq_true_eq] at this ⊢; omega
    · simp [mapGet]
    · rename_i hk hv
      subst hk
      rw [mapGet_below d m a h.1.2, hv]
    · simp [mapGet]
    · unfold mapGet
      rw [if_neg (by omega)]
      exact ih h.2

theorem tget_tset_ne {α : Type} [DecidableEq α] (d : α) (m : NMap α) (a b : Nat) (v : α) (h : b ≠ a) :
    tget d (tset d m a v) b = tget d m b := mapGet_mapSet_ne _ m a b v h

theorem tget_tset_same {α : Type} [DecidableEq α] (d : α) (m : NMap α) (a : Nat) (v : α) (h : twf d m = true) :
    tget d (tset d m a v) a = v := mapGet_mapSet_same _ m a v h

end Sys2Proof.Machine
end

