-- ==== Sys2Proof/Laws/State.lean ====
section
/-!
SUPPORT. What one update of the state leaves and gives, field by field; reading registers after writing them.
-/

namespace Sys2Proof.Machine

open Sys2Proof

set_option Elab.async false
set_option linter.all false

@[simp] theorem wr_live (a : Nat) (v : Word) (s : State) : (wr a v s).live = s.live := rfl
@[simp] theorem wr_ticks (a : Nat) (v : Word) (s : State) : (wr a v s).ticks = s.ticks := rfl
@[simp] theorem wr_tai (a : Nat) (v : Word) (s : State) : (wr a v s).tai = s.tai := rfl
@[simp] theorem wr_free (a : Nat) (v : Word) (s : State) : (wr a v s).free = s.free := rfl
@[simp] theorem wr_mast (a : Nat) (v : Word) (s : State) : (wr a v s).mast = s.mast := rfl
@[simp] theorem wr_host (a : Nat) (v : Word) (s : State) : (wr a v s).host = s.host := rfl
@[simp] theorem wr_deck (a : Nat) (v : Word) (s : State) : (wr a v s).deck = s.deck := rfl
@[simp] theorem wr_ports (a : Nat) (v : Word) (s : State) : (wr a v s).ports = s.ports := rfl
@[simp] theorem wr_ing (a : Nat) (v : Word) (s : State) : (wr a v s).ing = s.ing := rfl
@[simp] theorem wr_mkt (a : Nat) (v : Word) (s : State) : (wr a v s).mkt = s.mkt := rfl
@[simp] theorem wr_scales (a : Nat) (v : Word) (s : State) : (wr a v s).scales = s.scales := rfl
@[simp] theorem wr_cap (a : Nat) (v : Word) (s : State) : (wr a v s).cap = s.cap := rfl
@[simp] theorem wr_pak (a : Nat) (v : Word) (s : State) : (wr a v s).pak = s.pak := rfl
@[simp] theorem wr_nest (a : Nat) (v : Word) (s : State) : (wr a v s).nest = s.nest := rfl
@[simp] theorem wr_egr (a : Nat) (v : Word) (s : State) : (wr a v s).egr = s.egr := rfl
@[simp] theorem wr_pair (a : Nat) (v : Word) (s : State) : (wr a v s).pair = s.pair := rfl
@[simp] theorem wr_till (a : Nat) (v : Word) (s : State) : (wr a v s).till = s.till := rfl
@[simp] theorem wr_mem (a : Nat) (v : Word) (s : State) : (wr a v s).mem = s.mem := rfl
@[simp] theorem wr_ledger (a : Nat) (v : Word) (s : State) : (wr a v s).ledger = s.ledger := rfl
@[simp] theorem wr_sentry (a : Nat) (v : Word) (s : State) : (wr a v s).sentry = s.sentry := rfl
@[simp] theorem wr_boot (a : Nat) (v : Word) (s : State) : (wr a v s).boot = s.boot := rfl
@[simp] theorem wr_power (a : Nat) (v : Word) (s : State) : (wr a v s).power = s.power := rfl
@[simp] theorem wr_nodeOk (a : Nat) (v : Word) (s : State) : (wr a v s).nodeOk = s.nodeOk := rfl
@[simp] theorem wr_cfg (a : Nat) (v : Word) (s : State) : (wr a v s).cfg = s.cfg := rfl
@[simp] theorem wr_out (a : Nat) (v : Word) (s : State) : (wr a v s).out = s.out := rfl
@[simp] theorem wr_pending (a : Nat) (v : Word) (s : State) : (wr a v s).pending = s.pending := rfl

@[simp] theorem liveCnt_wr (a : Nat) (v : Word) (s : State) (b : Nat) : liveCnt (wr a v s) b = liveCnt s b := rfl

@[simp] theorem drawFree_regs (s : State) : (drawFree s).regs = s.regs := rfl
@[simp] theorem drawFree_live (s : State) : (drawFree s).live = s.live := rfl
@[simp] theorem drawFree_ticks (s : State) : (drawFree s).ticks = s.ticks := rfl
@[simp] theorem drawFree_tai (s : State) : (drawFree s).tai = s.tai := rfl
@[simp] theorem drawFree_mast (s : State) : (drawFree s).mast = s.mast := rfl
@[simp] theorem drawFree_host (s : State) : (drawFree s).host = s.host := rfl
@[simp] theorem drawFree_deck (s : State) : (drawFree s).deck = s.deck := rfl
@[simp] theorem drawFree_ports (s : State) : (drawFree s).ports = s.ports := rfl
@[simp] theorem drawFree_ing (s : State) : (drawFree s).ing = s.ing := rfl
@[simp] theorem drawFree_mkt (s : State) : (drawFree s).mkt = s.mkt := rfl
@[simp] theorem drawFree_scales (s : State) : (drawFree s).scales = s.scales := rfl
@[simp] theorem drawFree_cap (s : State) : (drawFree s).cap = s.cap := rfl
@[simp] theorem drawFree_pak (s : State) : (drawFree s).pak = s.pak := rfl
@[simp] theorem drawFree_nest (s : State) : (drawFree s).nest = s.nest := rfl
@[simp] theorem drawFree_egr (s : State) : (drawFree s).egr = s.egr := rfl
@[simp] theorem drawFree_pair (s : State) : (drawFree s).pair = s.pair := rfl
@[simp] theorem drawFree_till (s : State) : (drawFree s).till = s.till := rfl
@[simp] theorem drawFree_mem (s : State) : (drawFree s).mem = s.mem := rfl
@[simp] theorem drawFree_ledger (s : State) : (drawFree s).ledger = s.ledger := rfl
@[simp] theorem drawFree_sentry (s : State) : (drawFree s).sentry = s.sentry := rfl
@[simp] theorem drawFree_boot (s : State) : (drawFree s).boot = s.boot := rfl
@[simp] theorem drawFree_power (s : State) : (drawFree s).power = s.power := rfl
@[simp] theorem drawFree_nodeOk (s : State) : (drawFree s).nodeOk = s.nodeOk := rfl
@[simp] theorem drawFree_cfg (s : State) : (drawFree s).cfg = s.cfg := rfl
@[simp] theorem drawFree_out (s : State) : (drawFree s).out = s.out := rfl
@[simp] theorem drawFree_pending (s : State) : (drawFree s).pending = s.pending := rfl

@[simp] theorem rd_drawFree (s : State) (b : Nat) : rd (drawFree s) b = rd s b := rfl
@[simp] theorem liveCnt_drawFree (s : State) (b : Nat) : liveCnt (drawFree s) b = liveCnt s b := rfl

@[simp] theorem emit_regs (m : OutMsg) (s : State) : (emit m s).regs = s.regs := rfl
@[simp] theorem emit_live (m : OutMsg) (s : State) : (emit m s).live = s.live := rfl
@[simp] theorem emit_ticks (m : OutMsg) (s : State) : (emit m s).ticks = s.ticks := rfl
@[simp] theorem emit_tai (m : OutMsg) (s : State) : (emit m s).tai = s.tai := rfl
@[simp] theorem emit_free (m : OutMsg) (s : State) : (emit m s).free = s.free := rfl
@[simp] theorem emit_mast (m : OutMsg) (s : State) : (emit m s).mast = s.mast := rfl
@[simp] theorem emit_host (m : OutMsg) (s : State) : (emit m s).host = s.host := rfl
@[simp] theorem emit_deck (m : OutMsg) (s : State) : (emit m s).deck = s.deck := rfl
@[simp] theorem emit_ports (m : OutMsg) (s : State) : (emit m s).ports = s.ports := rfl
@[simp] theorem emit_ing (m : OutMsg) (s : State) : (emit m s).ing = s.ing := rfl
@[simp] theorem emit_mkt (m : OutMsg) (s : State) : (emit m s).mkt = s.mkt := rfl
@[simp] theorem emit_scales (m : OutMsg) (s : State) : (emit m s).scales = s.scales := rfl
@[simp] theorem emit_cap (m : OutMsg) (s : State) : (emit m s).cap = s.cap := rfl
@[simp] theorem emit_pak (m : OutMsg) (s : State) : (emit m s).pak = s.pak := rfl
@[simp] theorem emit_nest (m : OutMsg) (s : State) : (emit m s).nest = s.nest := rfl
@[simp] theorem emit_egr (m : OutMsg) (s : State) : (emit m s).egr = s.egr := rfl
@[simp] theorem emit_pair (m : OutMsg) (s : State) : (emit m s).pair = s.pair := rfl
@[simp] theorem emit_till (m : OutMsg) (s : State) : (emit m s).till = s.till := rfl
@[simp] theorem emit_mem (m : OutMsg) (s : State) : (emit m s).mem = s.mem := rfl
@[simp] theorem emit_ledger (m : OutMsg) (s : State) : (emit m s).ledger = s.ledger := rfl
@[simp] theorem emit_sentry (m : OutMsg) (s : State) : (emit m s).sentry = s.sentry := rfl
@[simp] theorem emit_boot (m : OutMsg) (s : State) : (emit m s).boot = s.boot := rfl
@[simp] theorem emit_power (m : OutMsg) (s : State) : (emit m s).power = s.power := rfl
@[simp] theorem emit_nodeOk (m : OutMsg) (s : State) : (emit m s).nodeOk = s.nodeOk := rfl
@[simp] theorem emit_cfg (m : OutMsg) (s : State) : (emit m s).cfg = s.cfg := rfl
@[simp] theorem emit_pending (m : OutMsg) (s : State) : (emit m s).pending = s.pending := rfl

@[simp] theorem rd_emit (m : OutMsg) (s : State) (b : Nat) : rd (emit m s) b = rd s b := rfl
@[simp] theorem liveCnt_emit (m : OutMsg) (s : State) (b : Nat) : liveCnt (emit m s) b = liveCnt s b := rfl

@[simp] theorem count_regs (a n : Nat) (s : State) : (count a n s).regs = s.regs := rfl
@[simp] theorem count_ticks (a n : Nat) (s : State) : (count a n s).ticks = s.ticks := rfl
@[simp] theorem count_tai (a n : Nat) (s : State) : (count a n s).tai = s.tai := rfl
@[simp] theorem count_free (a n : Nat) (s : State) : (count a n s).free = s.free := rfl
@[simp] theorem count_mast (a n : Nat) (s : State) : (count a n s).mast = s.mast := rfl
@[simp] theorem count_host (a n : Nat) (s : State) : (count a n s).host = s.host := rfl
@[simp] theorem count_deck (a n : Nat) (s : State) : (count a n s).deck = s.deck := rfl
@[simp] theorem count_ports (a n : Nat) (s : State) : (count a n s).ports = s.ports := rfl
@[simp] theorem count_ing (a n : Nat) (s : State) : (count a n s).ing = s.ing := rfl
@[simp] theorem count_mkt (a n : Nat) (s : State) : (count a n s).mkt = s.mkt := rfl
@[simp] theorem count_scales (a n : Nat) (s : State) : (count a n s).scales = s.scales := rfl
@[simp] theorem count_cap (a n : Nat) (s : State) : (count a n s).cap = s.cap := rfl
@[simp] theorem count_pak (a n : Nat) (s : State) : (count a n s).pak = s.pak := rfl
@[simp] theorem count_nest (a n : Nat) (s : State) : (count a n s).nest = s.nest := rfl
@[simp] theorem count_egr (a n : Nat) (s : State) : (count a n s).egr = s.egr := rfl
@[simp] theorem count_pair (a n : Nat) (s : State) : (count a n s).pair = s.pair := rfl
@[simp] theorem count_till (a n : Nat) (s : State) : (count a n s).till = s.till := rfl
@[simp] theorem count_mem (a n : Nat) (s : State) : (count a n s).mem = s.mem := rfl
@[simp] theorem count_ledger (a n : Nat) (s : State) : (count a n s).ledger = s.ledger := rfl
@[simp] theorem count_sentry (a n : Nat) (s : State) : (count a n s).sentry = s.sentry := rfl
@[simp] theorem count_boot (a n : Nat) (s : State) : (count a n s).boot = s.boot := rfl
@[simp] theorem count_power (a n : Nat) (s : State) : (count a n s).power = s.power := rfl
@[simp] theorem count_nodeOk (a n : Nat) (s : State) : (count a n s).nodeOk = s.nodeOk := rfl
@[simp] theorem count_cfg (a n : Nat) (s : State) : (count a n s).cfg = s.cfg := rfl
@[simp] theorem count_out (a n : Nat) (s : State) : (count a n s).out = s.out := rfl
@[simp] theorem count_pending (a n : Nat) (s : State) : (count a n s).pending = s.pending := rfl

@[simp] theorem rd_count (a n : Nat) (s : State) (b : Nat) : rd (count a n s) b = rd s b := rfl

@[simp] theorem setThread_regs (t : Nat) (x : Thread) (s : State) : (setThread t x s).regs = s.regs := rfl
@[simp] theorem setThread_live (t : Nat) (x : Thread) (s : State) : (setThread t x s).live = s.live := rfl
@[simp] theorem setThread_ticks (t : Nat) (x : Thread) (s : State) : (setThread t x s).ticks = s.ticks := rfl
@[simp] theorem setThread_tai (t : Nat) (x : Thread) (s : State) : (setThread t x s).tai = s.tai := rfl
@[simp] theorem setThread_free (t : Nat) (x : Thread) (s : State) : (setThread t x s).free = s.free := rfl
@[simp] theorem setThread_mast (t : Nat) (x : Thread) (s : State) : (setThread t x s).mast = s.mast := rfl
@[simp] theorem setThread_host (t : Nat) (x : Thread) (s : State) : (setThread t x s).host = s.host := rfl
@[simp] theorem setThread_ports (t : Nat) (x : Thread) (s : State) : (setThread t x s).ports = s.ports := rfl
@[simp] theorem setThread_ing (t : Nat) (x : Thread) (s : State) : (setThread t x s).ing = s.ing := rfl
@[simp] theorem setThread_mkt (t : Nat) (x : Thread) (s : State) : (setThread t x s).mkt = s.mkt := rfl
@[simp] theorem setThread_scales (t : Nat) (x : Thread) (s : State) : (setThread t x s).scales = s.scales := rfl
@[simp] theorem setThread_cap (t : Nat) (x : Thread) (s : State) : (setThread t x s).cap = s.cap := rfl
@[simp] theorem setThread_pak (t : Nat) (x : Thread) (s : State) : (setThread t x s).pak = s.pak := rfl
@[simp] theorem setThread_nest (t : Nat) (x : Thread) (s : State) : (setThread t x s).nest = s.nest := rfl
@[simp] theorem setThread_egr (t : Nat) (x : Thread) (s : State) : (setThread t x s).egr = s.egr := rfl
@[simp] theorem setThread_pair (t : Nat) (x : Thread) (s : State) : (setThread t x s).pair = s.pair := rfl
@[simp] theorem setThread_till (t : Nat) (x : Thread) (s : State) : (setThread t x s).till = s.till := rfl
@[simp] theorem setThread_mem (t : Nat) (x : Thread) (s : State) : (setThread t x s).mem = s.mem := rfl
@[simp] theorem setThread_ledger (t : Nat) (x : Thread) (s : State) : (setThread t x s).ledger = s.ledger := rfl
@[simp] theorem setThread_sentry (t : Nat) (x : Thread) (s : State) : (setThread t x s).sentry = s.sentry := rfl
@[simp] theorem setThread_boot (t : Nat) (x : Thread) (s : State) : (setThread t x s).boot = s.boot := rfl
@[simp] theorem setThread_power (t : Nat) (x : Thread) (s : State) : (setThread t x s).power = s.power := rfl
@[simp] theorem setThread_nodeOk (t : Nat) (x : Thread) (s : State) : (setThread t x s).nodeOk = s.nodeOk := rfl
@[simp] theorem setThread_cfg (t : Nat) (x : Thread) (s : State) : (setThread t x s).cfg = s.cfg := rfl
@[simp] theorem setThread_out (t : Nat) (x : Thread) (s : State) : (setThread t x s).out = s.out := rfl
@[simp] theorem setThread_pending (t : Nat) (x : Thread) (s : State) : (setThread t x s).pending = s.pending := rfl

@[simp] theorem rd_setThread (t : Nat) (x : Thread) (s : State) (b : Nat) : rd (setThread t x s) b = rd s b := rfl
@[simp] theorem liveCnt_setThread (t : Nat) (x : Thread) (s : State) (b : Nat) : liveCnt (setThread t x s) b = liveCnt s b := rfl

@[simp] theorem setWindow_regs (w : Nat) (x : Window) (s : State) : (setWindow w x s).regs = s.regs := rfl
@[simp] theorem setWindow_live (w : Nat) (x : Window) (s : State) : (setWindow w x s).live = s.live := rfl
@[simp] theorem setWindow_ticks (w : Nat) (x : Window) (s : State) : (setWindow w x s).ticks = s.ticks := rfl
@[simp] theorem setWindow_tai (w : Nat) (x : Window) (s : State) : (setWindow w x s).tai = s.tai := rfl
@[simp] theorem setWindow_free (w : Nat) (x : Window) (s : State) : (setWindow w x s).free = s.free := rfl
@[simp] theorem setWindow_mast (w : Nat) (x : Window) (s : State) : (setWindow w x s).mast = s.mast := rfl
@[simp] theorem setWindow_deck (w : Nat) (x : Window) (s : State) : (setWindow w x s).deck = s.deck := rfl
@[simp] theorem setWindow_ports (w : Nat) (x : Window) (s : State) : (setWindow w x s).ports = s.ports := rfl
@[simp] theorem setWindow_ing (w : Nat) (x : Window) (s : State) : (setWindow w x s).ing = s.ing := rfl
@[simp] theorem setWindow_mkt (w : Nat) (x : Window) (s : State) : (setWindow w x s).mkt = s.mkt := rfl
@[simp] theorem setWindow_scales (w : Nat) (x : Window) (s : State) : (setWindow w x s).scales = s.scales := rfl
@[simp] theorem setWindow_cap (w : Nat) (x : Window) (s : State) : (setWindow w x s).cap = s.cap := rfl
@[simp] theorem setWindow_pak (w : Nat) (x : Window) (s : State) : (setWindow w x s).pak = s.pak := rfl
@[simp] theorem setWindow_nest (w : Nat) (x : Window) (s : State) : (setWindow w x s).nest = s.nest := rfl
@[simp] theorem setWindow_egr (w : Nat) (x : Window) (s : State) : (setWindow w x s).egr = s.egr := rfl
@[simp] theorem setWindow_pair (w : Nat) (x : Window) (s : State) : (setWindow w x s).pair = s.pair := rfl
@[simp] theorem setWindow_till (w : Nat) (x : Window) (s : State) : (setWindow w x s).till = s.till := rfl
@[simp] theorem setWindow_mem (w : Nat) (x : Window) (s : State) : (setWindow w x s).mem = s.mem := rfl
@[simp] theorem setWindow_ledger (w : Nat) (x : Window) (s : State) : (setWindow w x s).ledger = s.ledger := rfl
@[simp] theorem setWindow_sentry (w : Nat) (x : Window) (s : State) : (setWindow w x s).sentry = s.sentry := rfl
@[simp] theorem setWindow_boot (w : Nat) (x : Window) (s : State) : (setWindow w x s).boot = s.boot := rfl
@[simp] theorem setWindow_power (w : Nat) (x : Window) (s : State) : (setWindow w x s).power = s.power := rfl
@[simp] theorem setWindow_nodeOk (w : Nat) (x : Window) (s : State) : (setWindow w x s).nodeOk = s.nodeOk := rfl
@[simp] theorem setWindow_cfg (w : Nat) (x : Window) (s : State) : (setWindow w x s).cfg = s.cfg := rfl
@[simp] theorem setWindow_out (w : Nat) (x : Window) (s : State) : (setWindow w x s).out = s.out := rfl
@[simp] theorem setWindow_pending (w : Nat) (x : Window) (s : State) : (setWindow w x s).pending = s.pending := rfl

@[simp] theorem rd_setWindow (w : Nat) (x : Window) (s : State) (b : Nat) : rd (setWindow w x s) b = rd s b := rfl
@[simp] theorem liveCnt_setWindow (w : Nat) (x : Window) (s : State) (b : Nat) : liveCnt (setWindow w x s) b = liveCnt s b := rfl

@[simp] theorem setCap_regs (f : Capture → Capture) (s : State) : (setCap f s).regs = s.regs := rfl
@[simp] theorem setCap_live (f : Capture → Capture) (s : State) : (setCap f s).live = s.live := rfl
@[simp] theorem setCap_ticks (f : Capture → Capture) (s : State) : (setCap f s).ticks = s.ticks := rfl
@[simp] theorem setCap_tai (f : Capture → Capture) (s : State) : (setCap f s).tai = s.tai := rfl
@[simp] theorem setCap_free (f : Capture → Capture) (s : State) : (setCap f s).free = s.free := rfl
@[simp] theorem setCap_mast (f : Capture → Capture) (s : State) : (setCap f s).mast = s.mast := rfl
@[simp] theorem setCap_host (f : Capture → Capture) (s : State) : (setCap f s).host = s.host := rfl
@[simp] theorem setCap_deck (f : Capture → Capture) (s : State) : (setCap f s).deck = s.deck := rfl
@[simp] theorem setCap_ports (f : Capture → Capture) (s : State) : (setCap f s).ports = s.ports := rfl
@[simp] theorem setCap_ing (f : Capture → Capture) (s : State) : (setCap f s).ing = s.ing := rfl
@[simp] theorem setCap_mkt (f : Capture → Capture) (s : State) : (setCap f s).mkt = s.mkt := rfl
@[simp] theorem setCap_scales (f : Capture → Capture) (s : State) : (setCap f s).scales = s.scales := rfl
@[simp] theorem setCap_pak (f : Capture → Capture) (s : State) : (setCap f s).pak = s.pak := rfl
@[simp] theorem setCap_nest (f : Capture → Capture) (s : State) : (setCap f s).nest = s.nest := rfl
@[simp] theorem setCap_egr (f : Capture → Capture) (s : State) : (setCap f s).egr = s.egr := rfl
@[simp] theorem setCap_pair (f : Capture → Capture) (s : State) : (setCap f s).pair = s.pair := rfl
@[simp] theorem setCap_till (f : Capture → Capture) (s : State) : (setCap f s).till = s.till := rfl
@[simp] theorem setCap_mem (f : Capture → Capture) (s : State) : (setCap f s).mem = s.mem := rfl
@[simp] theorem setCap_ledger (f : Capture → Capture) (s : State) : (setCap f s).ledger = s.ledger := rfl
@[simp] theorem setCap_sentry (f : Capture → Capture) (s : State) : (setCap f s).sentry = s.sentry := rfl
@[simp] theorem setCap_boot (f : Capture → Capture) (s : State) : (setCap f s).boot = s.boot := rfl
@[simp] theorem setCap_power (f : Capture → Capture) (s : State) : (setCap f s).power = s.power := rfl
@[simp] theorem setCap_nodeOk (f : Capture → Capture) (s : State) : (setCap f s).nodeOk = s.nodeOk := rfl
@[simp] theorem setCap_cfg (f : Capture → Capture) (s : State) : (setCap f s).cfg = s.cfg := rfl
@[simp] theorem setCap_out (f : Capture → Capture) (s : State) : (setCap f s).out = s.out := rfl
@[simp] theorem setCap_pending (f : Capture → Capture) (s : State) : (setCap f s).pending = s.pending := rfl

@[simp] theorem rd_setCap (f : Capture → Capture) (s : State) (b : Nat) : rd (setCap f s) b = rd s b := rfl
@[simp] theorem liveCnt_setCap (f : Capture → Capture) (s : State) (b : Nat) : liveCnt (setCap f s) b = liveCnt s b := rfl

@[simp] theorem setScales_regs (f : Scales → Scales) (s : State) : (setScales f s).regs = s.regs := rfl
@[simp] theorem setScales_live (f : Scales → Scales) (s : State) : (setScales f s).live = s.live := rfl
@[simp] theorem setScales_ticks (f : Scales → Scales) (s : State) : (setScales f s).ticks = s.ticks := rfl
@[simp] theorem setScales_tai (f : Scales → Scales) (s : State) : (setScales f s).tai = s.tai := rfl
@[simp] theorem setScales_free (f : Scales → Scales) (s : State) : (setScales f s).free = s.free := rfl
@[simp] theorem setScales_mast (f : Scales → Scales) (s : State) : (setScales f s).mast = s.mast := rfl
@[simp] theorem setScales_host (f : Scales → Scales) (s : State) : (setScales f s).host = s.host := rfl
@[simp] theorem setScales_deck (f : Scales → Scales) (s : State) : (setScales f s).deck = s.deck := rfl
@[simp] theorem setScales_ports (f : Scales → Scales) (s : State) : (setScales f s).ports = s.ports := rfl
@[simp] theorem setScales_ing (f : Scales → Scales) (s : State) : (setScales f s).ing = s.ing := rfl
@[simp] theorem setScales_mkt (f : Scales → Scales) (s : State) : (setScales f s).mkt = s.mkt := rfl
@[simp] theorem setScales_cap (f : Scales → Scales) (s : State) : (setScales f s).cap = s.cap := rfl
@[simp] theorem setScales_pak (f : Scales → Scales) (s : State) : (setScales f s).pak = s.pak := rfl
@[simp] theorem setScales_nest (f : Scales → Scales) (s : State) : (setScales f s).nest = s.nest := rfl
@[simp] theorem setScales_egr (f : Scales → Scales) (s : State) : (setScales f s).egr = s.egr := rfl
@[simp] theorem setScales_pair (f : Scales → Scales) (s : State) : (setScales f s).pair = s.pair := rfl
@[simp] theorem setScales_till (f : Scales → Scales) (s : State) : (setScales f s).till = s.till := rfl
@[simp] theorem setScales_mem (f : Scales → Scales) (s : State) : (setScales f s).mem = s.mem := rfl
@[simp] theorem setScales_ledger (f : Scales → Scales) (s : State) : (setScales f s).ledger = s.ledger := rfl
@[simp] theorem setScales_sentry (f : Scales → Scales) (s : State) : (setScales f s).sentry = s.sentry := rfl
@[simp] theorem setScales_boot (f : Scales → Scales) (s : State) : (setScales f s).boot = s.boot := rfl
@[simp] theorem setScales_power (f : Scales → Scales) (s : State) : (setScales f s).power = s.power := rfl
@[simp] theorem setScales_nodeOk (f : Scales → Scales) (s : State) : (setScales f s).nodeOk = s.nodeOk := rfl
@[simp] theorem setScales_cfg (f : Scales → Scales) (s : State) : (setScales f s).cfg = s.cfg := rfl
@[simp] theorem setScales_out (f : Scales → Scales) (s : State) : (setScales f s).out = s.out := rfl
@[simp] theorem setScales_pending (f : Scales → Scales) (s : State) : (setScales f s).pending = s.pending := rfl

@[simp] theorem rd_setScales (f : Scales → Scales) (s : State) (b : Nat) : rd (setScales f s) b = rd s b := rfl
@[simp] theorem liveCnt_setScales (f : Scales → Scales) (s : State) (b : Nat) : liveCnt (setScales f s) b = liveCnt s b := rfl

@[simp] theorem setHost_regs (f : HostIf → HostIf) (s : State) : (setHost f s).regs = s.regs := rfl
@[simp] theorem setHost_live (f : HostIf → HostIf) (s : State) : (setHost f s).live = s.live := rfl
@[simp] theorem setHost_ticks (f : HostIf → HostIf) (s : State) : (setHost f s).ticks = s.ticks := rfl
@[simp] theorem setHost_tai (f : HostIf → HostIf) (s : State) : (setHost f s).tai = s.tai := rfl
@[simp] theorem setHost_free (f : HostIf → HostIf) (s : State) : (setHost f s).free = s.free := rfl
@[simp] theorem setHost_mast (f : HostIf → HostIf) (s : State) : (setHost f s).mast = s.mast := rfl
@[simp] theorem setHost_deck (f : HostIf → HostIf) (s : State) : (setHost f s).deck = s.deck := rfl
@[simp] theorem setHost_ports (f : HostIf → HostIf) (s : State) : (setHost f s).ports = s.ports := rfl
@[simp] theorem setHost_ing (f : HostIf → HostIf) (s : State) : (setHost f s).ing = s.ing := rfl
@[simp] theorem setHost_mkt (f : HostIf → HostIf) (s : State) : (setHost f s).mkt = s.mkt := rfl
@[simp] theorem setHost_scales (f : HostIf → HostIf) (s : State) : (setHost f s).scales = s.scales := rfl
@[simp] theorem setHost_cap (f : HostIf → HostIf) (s : State) : (setHost f s).cap = s.cap := rfl
@[simp] theorem setHost_pak (f : HostIf → HostIf) (s : State) : (setHost f s).pak = s.pak := rfl
@[simp] theorem setHost_nest (f : HostIf → HostIf) (s : State) : (setHost f s).nest = s.nest := rfl
@[simp] theorem setHost_egr (f : HostIf → HostIf) (s : State) : (setHost f s).egr = s.egr := rfl
@[simp] theorem setHost_pair (f : HostIf → HostIf) (s : State) : (setHost f s).pair = s.pair := rfl
@[simp] theorem setHost_till (f : HostIf → HostIf) (s : State) : (setHost f s).till = s.till := rfl
@[simp] theorem setHost_mem (f : HostIf → HostIf) (s : State) : (setHost f s).mem = s.mem := rfl
@[simp] theorem setHost_ledger (f : HostIf → HostIf) (s : State) : (setHost f s).ledger = s.ledger := rfl
@[simp] theorem setHost_sentry (f : HostIf → HostIf) (s : State) : (setHost f s).sentry = s.sentry := rfl
@[simp] theorem setHost_boot (f : HostIf → HostIf) (s : State) : (setHost f s).boot = s.boot := rfl
@[simp] theorem setHost_power (f : HostIf → HostIf) (s : State) : (setHost f s).power = s.power := rfl
@[simp] theorem setHost_nodeOk (f : HostIf → HostIf) (s : State) : (setHost f s).nodeOk = s.nodeOk := rfl
@[simp] theorem setHost_cfg (f : HostIf → HostIf) (s : State) : (setHost f s).cfg = s.cfg := rfl
@[simp] theorem setHost_out (f : HostIf → HostIf) (s : State) : (setHost f s).out = s.out := rfl
@[simp] theorem setHost_pending (f : HostIf → HostIf) (s : State) : (setHost f s).pending = s.pending := rfl

@[simp] theorem rd_setHost (f : HostIf → HostIf) (s : State) (b : Nat) : rd (setHost f s) b = rd s b := rfl
@[simp] theorem liveCnt_setHost (f : HostIf → HostIf) (s : State) (b : Nat) : liveCnt (setHost f s) b = liveCnt s b := rfl

@[simp] theorem setLedger_regs (f : Ledger → Ledger) (s : State) : (setLedger f s).regs = s.regs := rfl
@[simp] theorem setLedger_live (f : Ledger → Ledger) (s : State) : (setLedger f s).live = s.live := rfl
@[simp] theorem setLedger_ticks (f : Ledger → Ledger) (s : State) : (setLedger f s).ticks = s.ticks := rfl
@[simp] theorem setLedger_tai (f : Ledger → Ledger) (s : State) : (setLedger f s).tai = s.tai := rfl
@[simp] theorem setLedger_free (f : Ledger → Ledger) (s : State) : (setLedger f s).free = s.free := rfl
@[simp] theorem setLedger_mast (f : Ledger → Ledger) (s : State) : (setLedger f s).mast = s.mast := rfl
@[simp] theorem setLedger_host (f : Ledger → Ledger) (s : State) : (setLedger f s).host = s.host := rfl
@[simp] theorem setLedger_deck (f : Ledger → Ledger) (s : State) : (setLedger f s).deck = s.deck := rfl
@[simp] theorem setLedger_ports (f : Ledger → Ledger) (s : State) : (setLedger f s).ports = s.ports := rfl
@[simp] theorem setLedger_ing (f : Ledger → Ledger) (s : State) : (setLedger f s).ing = s.ing := rfl
@[simp] theorem setLedger_mkt (f : Ledger → Ledger) (s : State) : (setLedger f s).mkt = s.mkt := rfl
@[simp] theorem setLedger_scales (f : Ledger → Ledger) (s : State) : (setLedger f s).scales = s.scales := rfl
@[simp] theorem setLedger_cap (f : Ledger → Ledger) (s : State) : (setLedger f s).cap = s.cap := rfl
@[simp] theorem setLedger_pak (f : Ledger → Ledger) (s : State) : (setLedger f s).pak = s.pak := rfl
@[simp] theorem setLedger_nest (f : Ledger → Ledger) (s : State) : (setLedger f s).nest = s.nest := rfl
@[simp] theorem setLedger_egr (f : Ledger → Ledger) (s : State) : (setLedger f s).egr = s.egr := rfl
@[simp] theorem setLedger_pair (f : Ledger → Ledger) (s : State) : (setLedger f s).pair = s.pair := rfl
@[simp] theorem setLedger_till (f : Ledger → Ledger) (s : State) : (setLedger f s).till = s.till := rfl
@[simp] theorem setLedger_mem (f : Ledger → Ledger) (s : State) : (setLedger f s).mem = s.mem := rfl
@[simp] theorem setLedger_sentry (f : Ledger → Ledger) (s : State) : (setLedger f s).sentry = s.sentry := rfl
@[simp] theorem setLedger_boot (f : Ledger → Ledger) (s : State) : (setLedger f s).boot = s.boot := rfl
@[simp] theorem setLedger_power (f : Ledger → Ledger) (s : State) : (setLedger f s).power = s.power := rfl
@[simp] theorem setLedger_nodeOk (f : Ledger → Ledger) (s : State) : (setLedger f s).nodeOk = s.nodeOk := rfl
@[simp] theorem setLedger_cfg (f : Ledger → Ledger) (s : State) : (setLedger f s).cfg = s.cfg := rfl
@[simp] theorem setLedger_out (f : Ledger → Ledger) (s : State) : (setLedger f s).out = s.out := rfl
@[simp] theorem setLedger_pending (f : Ledger → Ledger) (s : State) : (setLedger f s).pending = s.pending := rfl

@[simp] theorem rd_setLedger (f : Ledger → Ledger) (s : State) (b : Nat) : rd (setLedger f s) b = rd s b := rfl
@[simp] theorem liveCnt_setLedger (f : Ledger → Ledger) (s : State) (b : Nat) : liveCnt (setLedger f s) b = liveCnt s b := rfl

@[simp] theorem setNest_regs (f : Nest → Nest) (s : State) : (setNest f s).regs = s.regs := rfl
@[simp] theorem setNest_live (f : Nest → Nest) (s : State) : (setNest f s).live = s.live := rfl
@[simp] theorem setNest_ticks (f : Nest → Nest) (s : State) : (setNest f s).ticks = s.ticks := rfl
@[simp] theorem setNest_tai (f : Nest → Nest) (s : State) : (setNest f s).tai = s.tai := rfl
@[simp] theorem setNest_free (f : Nest → Nest) (s : State) : (setNest f s).free = s.free := rfl
@[simp] theorem setNest_mast (f : Nest → Nest) (s : State) : (setNest f s).mast = s.mast := rfl
@[simp] theorem setNest_host (f : Nest → Nest) (s : State) : (setNest f s).host = s.host := rfl
@[simp] theorem setNest_deck (f : Nest → Nest) (s : State) : (setNest f s).deck = s.deck := rfl
@[simp] theorem setNest_ports (f : Nest → Nest) (s : State) : (setNest f s).ports = s.ports := rfl
@[simp] theorem setNest_ing (f : Nest → Nest) (s : State) : (setNest f s).ing = s.ing := rfl
@[simp] theorem setNest_mkt (f : Nest → Nest) (s : State) : (setNest f s).mkt = s.mkt := rfl
@[simp] theorem setNest_scales (f : Nest → Nest) (s : State) : (setNest f s).scales = s.scales := rfl
@[simp] theorem setNest_cap (f : Nest → Nest) (s : State) : (setNest f s).cap = s.cap := rfl
@[simp] theorem setNest_pak (f : Nest → Nest) (s : State) : (setNest f s).pak = s.pak := rfl
@[simp] theorem setNest_egr (f : Nest → Nest) (s : State) : (setNest f s).egr = s.egr := rfl
@[simp] theorem setNest_pair (f : Nest → Nest) (s : State) : (setNest f s).pair = s.pair := rfl
@[simp] theorem setNest_till (f : Nest → Nest) (s : State) : (setNest f s).till = s.till := rfl
@[simp] theorem setNest_mem (f : Nest → Nest) (s : State) : (setNest f s).mem = s.mem := rfl
@[simp] theorem setNest_ledger (f : Nest → Nest) (s : State) : (setNest f s).ledger = s.ledger := rfl
@[simp] theorem setNest_sentry (f : Nest → Nest) (s : State) : (setNest f s).sentry = s.sentry := rfl
@[simp] theorem setNest_boot (f : Nest → Nest) (s : State) : (setNest f s).boot = s.boot := rfl
@[simp] theorem setNest_power (f : Nest → Nest) (s : State) : (setNest f s).power = s.power := rfl
@[simp] theorem setNest_nodeOk (f : Nest → Nest) (s : State) : (setNest f s).nodeOk = s.nodeOk := rfl
@[simp] theorem setNest_cfg (f : Nest → Nest) (s : State) : (setNest f s).cfg = s.cfg := rfl
@[simp] theorem setNest_out (f : Nest → Nest) (s : State) : (setNest f s).out = s.out := rfl
@[simp] theorem setNest_pending (f : Nest → Nest) (s : State) : (setNest f s).pending = s.pending := rfl

@[simp] theorem rd_setNest (f : Nest → Nest) (s : State) (b : Nat) : rd (setNest f s) b = rd s b := rfl
@[simp] theorem liveCnt_setNest (f : Nest → Nest) (s : State) (b : Nat) : liveCnt (setNest f s) b = liveCnt s b := rfl

@[simp] theorem setPak_regs (f : Packer → Packer) (s : State) : (setPak f s).regs = s.regs := rfl
@[simp] theorem setPak_live (f : Packer → Packer) (s : State) : (setPak f s).live = s.live := rfl
@[simp] theorem setPak_ticks (f : Packer → Packer) (s : State) : (setPak f s).ticks = s.ticks := rfl
@[simp] theorem setPak_tai (f : Packer → Packer) (s : State) : (setPak f s).tai = s.tai := rfl
@[simp] theorem setPak_free (f : Packer → Packer) (s : State) : (setPak f s).free = s.free := rfl
@[simp] theorem setPak_mast (f : Packer → Packer) (s : State) : (setPak f s).mast = s.mast := rfl
@[simp] theorem setPak_host (f : Packer → Packer) (s : State) : (setPak f s).host = s.host := rfl
@[simp] theorem setPak_deck (f : Packer → Packer) (s : State) : (setPak f s).deck = s.deck := rfl
@[simp] theorem setPak_ports (f : Packer → Packer) (s : State) : (setPak f s).ports = s.ports := rfl
@[simp] theorem setPak_ing (f : Packer → Packer) (s : State) : (setPak f s).ing = s.ing := rfl
@[simp] theorem setPak_mkt (f : Packer → Packer) (s : State) : (setPak f s).mkt = s.mkt := rfl
@[simp] theorem setPak_scales (f : Packer → Packer) (s : State) : (setPak f s).scales = s.scales := rfl
@[simp] theorem setPak_cap (f : Packer → Packer) (s : State) : (setPak f s).cap = s.cap := rfl
@[simp] theorem setPak_nest (f : Packer → Packer) (s : State) : (setPak f s).nest = s.nest := rfl
@[simp] theorem setPak_egr (f : Packer → Packer) (s : State) : (setPak f s).egr = s.egr := rfl
@[simp] theorem setPak_pair (f : Packer → Packer) (s : State) : (setPak f s).pair = s.pair := rfl
@[simp] theorem setPak_till (f : Packer → Packer) (s : State) : (setPak f s).till = s.till := rfl
@[simp] theorem setPak_mem (f : Packer → Packer) (s : State) : (setPak f s).mem = s.mem := rfl
@[simp] theorem setPak_ledger (f : Packer → Packer) (s : State) : (setPak f s).ledger = s.ledger := rfl
@[simp] theorem setPak_sentry (f : Packer → Packer) (s : State) : (setPak f s).sentry = s.sentry := rfl
@[simp] theorem setPak_boot (f : Packer → Packer) (s : State) : (setPak f s).boot = s.boot := rfl
@[simp] theorem setPak_power (f : Packer → Packer) (s : State) : (setPak f s).power = s.power := rfl
@[simp] theorem setPak_nodeOk (f : Packer → Packer) (s : State) : (setPak f s).nodeOk = s.nodeOk := rfl
@[simp] theorem setPak_cfg (f : Packer → Packer) (s : State) : (setPak f s).cfg = s.cfg := rfl
@[simp] theorem setPak_out (f : Packer → Packer) (s : State) : (setPak f s).out = s.out := rfl
@[simp] theorem setPak_pending (f : Packer → Packer) (s : State) : (setPak f s).pending = s.pending := rfl

@[simp] theorem rd_setPak (f : Packer → Packer) (s : State) (b : Nat) : rd (setPak f s) b = rd s b := rfl
@[simp] theorem liveCnt_setPak (f : Packer → Packer) (s : State) (b : Nat) : liveCnt (setPak f s) b = liveCnt s b := rfl

@[simp] theorem setPair_regs (f : Pair → Pair) (s : State) : (setPair f s).regs = s.regs := rfl
@[simp] theorem setPair_live (f : Pair → Pair) (s : State) : (setPair f s).live = s.live := rfl
@[simp] theorem setPair_ticks (f : Pair → Pair) (s : State) : (setPair f s).ticks = s.ticks := rfl
@[simp] theorem setPair_tai (f : Pair → Pair) (s : State) : (setPair f s).tai = s.tai := rfl
@[simp] theorem setPair_free (f : Pair → Pair) (s : State) : (setPair f s).free = s.free := rfl
@[simp] theorem setPair_mast (f : Pair → Pair) (s : State) : (setPair f s).mast = s.mast := rfl
@[simp] theorem setPair_host (f : Pair → Pair) (s : State) : (setPair f s).host = s.host := rfl
@[simp] theorem setPair_deck (f : Pair → Pair) (s : State) : (setPair f s).deck = s.deck := rfl
@[simp] theorem setPair_ports (f : Pair → Pair) (s : State) : (setPair f s).ports = s.ports := rfl
@[simp] theorem setPair_ing (f : Pair → Pair) (s : State) : (setPair f s).ing = s.ing := rfl
@[simp] theorem setPair_mkt (f : Pair → Pair) (s : State) : (setPair f s).mkt = s.mkt := rfl
@[simp] theorem setPair_scales (f : Pair → Pair) (s : State) : (setPair f s).scales = s.scales := rfl
@[simp] theorem setPair_cap (f : Pair → Pair) (s : State) : (setPair f s).cap = s.cap := rfl
@[simp] theorem setPair_pak (f : Pair → Pair) (s : State) : (setPair f s).pak = s.pak := rfl
@[simp] theorem setPair_nest (f : Pair → Pair) (s : State) : (setPair f s).nest = s.nest := rfl
@[simp] theorem setPair_egr (f : Pair → Pair) (s : State) : (setPair f s).egr = s.egr := rfl
@[simp] theorem setPair_till (f : Pair → Pair) (s : State) : (setPair f s).till = s.till := rfl
@[simp] theorem setPair_mem (f : Pair → Pair) (s : State) : (setPair f s).mem = s.mem := rfl
@[simp] theorem setPair_ledger (f : Pair → Pair) (s : State) : (setPair f s).ledger = s.ledger := rfl
@[simp] theorem setPair_sentry (f : Pair → Pair) (s : State) : (setPair f s).sentry = s.sentry := rfl
@[simp] theorem setPair_boot (f : Pair → Pair) (s : State) : (setPair f s).boot = s.boot := rfl
@[simp] theorem setPair_power (f : Pair → Pair) (s : State) : (setPair f s).power = s.power := rfl
@[simp] theorem setPair_nodeOk (f : Pair → Pair) (s : State) : (setPair f s).nodeOk = s.nodeOk := rfl
@[simp] theorem setPair_cfg (f : Pair → Pair) (s : State) : (setPair f s).cfg = s.cfg := rfl
@[simp] theorem setPair_out (f : Pair → Pair) (s : State) : (setPair f s).out = s.out := rfl
@[simp] theorem setPair_pending (f : Pair → Pair) (s : State) : (setPair f s).pending = s.pending := rfl

@[simp] theorem rd_setPair (f : Pair → Pair) (s : State) (b : Nat) : rd (setPair f s) b = rd s b := rfl
@[simp] theorem liveCnt_setPair (f : Pair → Pair) (s : State) (b : Nat) : liveCnt (setPair f s) b = liveCnt s b := rfl

@[simp] theorem setPort_regs (p : Nat) (x : Port) (s : State) : (setPort p x s).regs = s.regs := rfl
@[simp] theorem setPort_live (p : Nat) (x : Port) (s : State) : (setPort p x s).live = s.live := rfl
@[simp] theorem setPort_ticks (p : Nat) (x : Port) (s : State) : (setPort p x s).ticks = s.ticks := rfl
@[simp] theorem setPort_tai (p : Nat) (x : Port) (s : State) : (setPort p x s).tai = s.tai := rfl
@[simp] theorem setPort_free (p : Nat) (x : Port) (s : State) : (setPort p x s).free = s.free := rfl
@[simp] theorem setPort_mast (p : Nat) (x : Port) (s : State) : (setPort p x s).mast = s.mast := rfl
@[simp] theorem setPort_host (p : Nat) (x : Port) (s : State) : (setPort p x s).host = s.host := rfl
@[simp] theorem setPort_deck (p : Nat) (x : Port) (s : State) : (setPort p x s).deck = s.deck := rfl
@[simp] theorem setPort_ing (p : Nat) (x : Port) (s : State) : (setPort p x s).ing = s.ing := rfl
@[simp] theorem setPort_mkt (p : Nat) (x : Port) (s : State) : (setPort p x s).mkt = s.mkt := rfl
@[simp] theorem setPort_scales (p : Nat) (x : Port) (s : State) : (setPort p x s).scales = s.scales := rfl
@[simp] theorem setPort_cap (p : Nat) (x : Port) (s : State) : (setPort p x s).cap = s.cap := rfl
@[simp] theorem setPort_pak (p : Nat) (x : Port) (s : State) : (setPort p x s).pak = s.pak := rfl
@[simp] theorem setPort_nest (p : Nat) (x : Port) (s : State) : (setPort p x s).nest = s.nest := rfl
@[simp] theorem setPort_egr (p : Nat) (x : Port) (s : State) : (setPort p x s).egr = s.egr := rfl
@[simp] theorem setPort_pair (p : Nat) (x : Port) (s : State) : (setPort p x s).pair = s.pair := rfl
@[simp] theorem setPort_till (p : Nat) (x : Port) (s : State) : (setPort p x s).till = s.till := rfl
@[simp] theorem setPort_mem (p : Nat) (x : Port) (s : State) : (setPort p x s).mem = s.mem := rfl
@[simp] theorem setPort_ledger (p : Nat) (x : Port) (s : State) : (setPort p x s).ledger = s.ledger := rfl
@[simp] theorem setPort_sentry (p : Nat) (x : Port) (s : State) : (setPort p x s).sentry = s.sentry := rfl
@[simp] theorem setPort_boot (p : Nat) (x : Port) (s : State) : (setPort p x s).boot = s.boot := rfl
@[simp] theorem setPort_power (p : Nat) (x : Port) (s : State) : (setPort p x s).power = s.power := rfl
@[simp] theorem setPort_nodeOk (p : Nat) (x : Port) (s : State) : (setPort p x s).nodeOk = s.nodeOk := rfl
@[simp] theorem setPort_cfg (p : Nat) (x : Port) (s : State) : (setPort p x s).cfg = s.cfg := rfl
@[simp] theorem setPort_out (p : Nat) (x : Port) (s : State) : (setPort p x s).out = s.out := rfl
@[simp] theorem setPort_pending (p : Nat) (x : Port) (s : State) : (setPort p x s).pending = s.pending := rfl

@[simp] theorem rd_setPort (p : Nat) (x : Port) (s : State) (b : Nat) : rd (setPort p x s) b = rd s b := rfl
@[simp] theorem liveCnt_setPort (p : Nat) (x : Port) (s : State) (b : Nat) : liveCnt (setPort p x s) b = liveCnt s b := rfl

@[simp] theorem setPower_regs (f : Power → Power) (s : State) : (setPower f s).regs = s.regs := rfl
@[simp] theorem setPower_live (f : Power → Power) (s : State) : (setPower f s).live = s.live := rfl
@[simp] theorem setPower_ticks (f : Power → Power) (s : State) : (setPower f s).ticks = s.ticks := rfl
@[simp] theorem setPower_tai (f : Power → Power) (s : State) : (setPower f s).tai = s.tai := rfl
@[simp] theorem setPower_free (f : Power → Power) (s : State) : (setPower f s).free = s.free := rfl
@[simp] theorem setPower_mast (f : Power → Power) (s : State) : (setPower f s).mast = s.mast := rfl
@[simp] theorem setPower_host (f : Power → Power) (s : State) : (setPower f s).host = s.host := rfl
@[simp] theorem setPower_deck (f : Power → Power) (s : State) : (setPower f s).deck = s.deck := rfl
@[simp] theorem setPower_ports (f : Power → Power) (s : State) : (setPower f s).ports = s.ports := rfl
@[simp] theorem setPower_ing (f : Power → Power) (s : State) : (setPower f s).ing = s.ing := rfl
@[simp] theorem setPower_mkt (f : Power → Power) (s : State) : (setPower f s).mkt = s.mkt := rfl
@[simp] theorem setPower_scales (f : Power → Power) (s : State) : (setPower f s).scales = s.scales := rfl
@[simp] theorem setPower_cap (f : Power → Power) (s : State) : (setPower f s).cap = s.cap := rfl
@[simp] theorem setPower_pak (f : Power → Power) (s : State) : (setPower f s).pak = s.pak := rfl
@[simp] theorem setPower_nest (f : Power → Power) (s : State) : (setPower f s).nest = s.nest := rfl
@[simp] theorem setPower_egr (f : Power → Power) (s : State) : (setPower f s).egr = s.egr := rfl
@[simp] theorem setPower_pair (f : Power → Power) (s : State) : (setPower f s).pair = s.pair := rfl
@[simp] theorem setPower_till (f : Power → Power) (s : State) : (setPower f s).till = s.till := rfl
@[simp] theorem setPower_mem (f : Power → Power) (s : State) : (setPower f s).mem = s.mem := rfl
@[simp] theorem setPower_ledger (f : Power → Power) (s : State) : (setPower f s).ledger = s.ledger := rfl
@[simp] theorem setPower_sentry (f : Power → Power) (s : State) : (setPower f s).sentry = s.sentry := rfl
@[simp] theorem setPower_boot (f : Power → Power) (s : State) : (setPower f s).boot = s.boot := rfl
@[simp] theorem setPower_nodeOk (f : Power → Power) (s : State) : (setPower f s).nodeOk = s.nodeOk := rfl
@[simp] theorem setPower_cfg (f : Power → Power) (s : State) : (setPower f s).cfg = s.cfg := rfl
@[simp] theorem setPower_out (f : Power → Power) (s : State) : (setPower f s).out = s.out := rfl
@[simp] theorem setPower_pending (f : Power → Power) (s : State) : (setPower f s).pending = s.pending := rfl

@[simp] theorem rd_setPower (f : Power → Power) (s : State) (b : Nat) : rd (setPower f s) b = rd s b := rfl
@[simp] theorem liveCnt_setPower (f : Power → Power) (s : State) (b : Nat) : liveCnt (setPower f s) b = liveCnt s b := rfl

@[simp] theorem setMem_regs (f : MemInt → MemInt) (s : State) : (setMem f s).regs = s.regs := rfl
@[simp] theorem setMem_live (f : MemInt → MemInt) (s : State) : (setMem f s).live = s.live := rfl
@[simp] theorem setMem_ticks (f : MemInt → MemInt) (s : State) : (setMem f s).ticks = s.ticks := rfl
@[simp] theorem setMem_tai (f : MemInt → MemInt) (s : State) : (setMem f s).tai = s.tai := rfl
@[simp] theorem setMem_free (f : MemInt → MemInt) (s : State) : (setMem f s).free = s.free := rfl
@[simp] theorem setMem_mast (f : MemInt → MemInt) (s : State) : (setMem f s).mast = s.mast := rfl
@[simp] theorem setMem_host (f : MemInt → MemInt) (s : State) : (setMem f s).host = s.host := rfl
@[simp] theorem setMem_deck (f : MemInt → MemInt) (s : State) : (setMem f s).deck = s.deck := rfl
@[simp] theorem setMem_ports (f : MemInt → MemInt) (s : State) : (setMem f s).ports = s.ports := rfl
@[simp] theorem setMem_ing (f : MemInt → MemInt) (s : State) : (setMem f s).ing = s.ing := rfl
@[simp] theorem setMem_mkt (f : MemInt → MemInt) (s : State) : (setMem f s).mkt = s.mkt := rfl
@[simp] theorem setMem_scales (f : MemInt → MemInt) (s : State) : (setMem f s).scales = s.scales := rfl
@[simp] theorem setMem_cap (f : MemInt → MemInt) (s : State) : (setMem f s).cap = s.cap := rfl
@[simp] theorem setMem_pak (f : MemInt → MemInt) (s : State) : (setMem f s).pak = s.pak := rfl
@[simp] theorem setMem_nest (f : MemInt → MemInt) (s : State) : (setMem f s).nest = s.nest := rfl
@[simp] theorem setMem_egr (f : MemInt → MemInt) (s : State) : (setMem f s).egr = s.egr := rfl
@[simp] theorem setMem_pair (f : MemInt → MemInt) (s : State) : (setMem f s).pair = s.pair := rfl
@[simp] theorem setMem_till (f : MemInt → MemInt) (s : State) : (setMem f s).till = s.till := rfl
@[simp] theorem setMem_ledger (f : MemInt → MemInt) (s : State) : (setMem f s).ledger = s.ledger := rfl
@[simp] theorem setMem_sentry (f : MemInt → MemInt) (s : State) : (setMem f s).sentry = s.sentry := rfl
@[simp] theorem setMem_boot (f : MemInt → MemInt) (s : State) : (setMem f s).boot = s.boot := rfl
@[simp] theorem setMem_power (f : MemInt → MemInt) (s : State) : (setMem f s).power = s.power := rfl
@[simp] theorem setMem_nodeOk (f : MemInt → MemInt) (s : State) : (setMem f s).nodeOk = s.nodeOk := rfl
@[simp] theorem setMem_cfg (f : MemInt → MemInt) (s : State) : (setMem f s).cfg = s.cfg := rfl
@[simp] theorem setMem_out (f : MemInt → MemInt) (s : State) : (setMem f s).out = s.out := rfl
@[simp] theorem setMem_pending (f : MemInt → MemInt) (s : State) : (setMem f s).pending = s.pending := rfl

@[simp] theorem rd_setMem (f : MemInt → MemInt) (s : State) (b : Nat) : rd (setMem f s) b = rd s b := rfl
@[simp] theorem liveCnt_setMem (f : MemInt → MemInt) (s : State) (b : Nat) : liveCnt (setMem f s) b = liveCnt s b := rfl

@[simp] theorem setSentry_regs (f : Sentry → Sentry) (s : State) : (setSentry f s).regs = s.regs := rfl
@[simp] theorem setSentry_live (f : Sentry → Sentry) (s : State) : (setSentry f s).live = s.live := rfl
@[simp] theorem setSentry_ticks (f : Sentry → Sentry) (s : State) : (setSentry f s).ticks = s.ticks := rfl
@[simp] theorem setSentry_tai (f : Sentry → Sentry) (s : State) : (setSentry f s).tai = s.tai := rfl
@[simp] theorem setSentry_free (f : Sentry → Sentry) (s : State) : (setSentry f s).free = s.free := rfl
@[simp] theorem setSentry_mast (f : Sentry → Sentry) (s : State) : (setSentry f s).mast = s.mast := rfl
@[simp] theorem setSentry_host (f : Sentry → Sentry) (s : State) : (setSentry f s).host = s.host := rfl
@[simp] theorem setSentry_deck (f : Sentry → Sentry) (s : State) : (setSentry f s).deck = s.deck := rfl
@[simp] theorem setSentry_ports (f : Sentry → Sentry) (s : State) : (setSentry f s).ports = s.ports := rfl
@[simp] theorem setSentry_ing (f : Sentry → Sentry) (s : State) : (setSentry f s).ing = s.ing := rfl
@[simp] theorem setSentry_mkt (f : Sentry → Sentry) (s : State) : (setSentry f s).mkt = s.mkt := rfl
@[simp] theorem setSentry_scales (f : Sentry → Sentry) (s : State) : (setSentry f s).scales = s.scales := rfl
@[simp] theorem setSentry_cap (f : Sentry → Sentry) (s : State) : (setSentry f s).cap = s.cap := rfl
@[simp] theorem setSentry_pak (f : Sentry → Sentry) (s : State) : (setSentry f s).pak = s.pak := rfl
@[simp] theorem setSentry_nest (f : Sentry → Sentry) (s : State) : (setSentry f s).nest = s.nest := rfl
@[simp] theorem setSentry_egr (f : Sentry → Sentry) (s : State) : (setSentry f s).egr = s.egr := rfl
@[simp] theorem setSentry_pair (f : Sentry → Sentry) (s : State) : (setSentry f s).pair = s.pair := rfl
@[simp] theorem setSentry_till (f : Sentry → Sentry) (s : State) : (setSentry f s).till = s.till := rfl
@[simp] theorem setSentry_mem (f : Sentry → Sentry) (s : State) : (setSentry f s).mem = s.mem := rfl
@[simp] theorem setSentry_ledger (f : Sentry → Sentry) (s : State) : (setSentry f s).ledger = s.ledger := rfl
@[simp] theorem setSentry_boot (f : Sentry → Sentry) (s : State) : (setSentry f s).boot = s.boot := rfl
@[simp] theorem setSentry_power (f : Sentry → Sentry) (s : State) : (setSentry f s).power = s.power := rfl
@[simp] theorem setSentry_nodeOk (f : Sentry → Sentry) (s : State) : (setSentry f s).nodeOk = s.nodeOk := rfl
@[simp] theorem setSentry_cfg (f : Sentry → Sentry) (s : State) : (setSentry f s).cfg = s.cfg := rfl
@[simp] theorem setSentry_out (f : Sentry → Sentry) (s : State) : (setSentry f s).out = s.out := rfl
@[simp] theorem setSentry_pending (f : Sentry → Sentry) (s : State) : (setSentry f s).pending = s.pending := rfl

@[simp] theorem rd_setSentry (f : Sentry → Sentry) (s : State) (b : Nat) : rd (setSentry f s) b = rd s b := rfl
@[simp] theorem liveCnt_setSentry (f : Sentry → Sentry) (s : State) (b : Nat) : liveCnt (setSentry f s) b = liveCnt s b := rfl

@[simp] theorem setCap_cap (f : Capture → Capture) (s : State) : (setCap f s).cap = f s.cap := rfl
@[simp] theorem setScales_scales (f : Scales → Scales) (s : State) : (setScales f s).scales = f s.scales := rfl
@[simp] theorem setHost_host (f : HostIf → HostIf) (s : State) : (setHost f s).host = f s.host := rfl
@[simp] theorem setLedger_ledger (f : Ledger → Ledger) (s : State) : (setLedger f s).ledger = f s.ledger := rfl
@[simp] theorem setNest_nest (f : Nest → Nest) (s : State) : (setNest f s).nest = f s.nest := rfl
@[simp] theorem setPak_pak (f : Packer → Packer) (s : State) : (setPak f s).pak = f s.pak := rfl
@[simp] theorem setPair_pair (f : Pair → Pair) (s : State) : (setPair f s).pair = f s.pair := rfl
@[simp] theorem setPower_power (f : Power → Power) (s : State) : (setPower f s).power = f s.power := rfl
@[simp] theorem setMem_mem (f : MemInt → MemInt) (s : State) : (setMem f s).mem = f s.mem := rfl
@[simp] theorem setSentry_sentry (f : Sentry → Sentry) (s : State) : (setSentry f s).sentry = f s.sentry := rfl
@[simp] theorem drawFree_free (s : State) : (drawFree s).free = s.free + 1 := rfl
@[simp] theorem emit_out (m : OutMsg) (s : State) : (emit m s).out = s.out ++ [m] := rfl

/-- Another register reads as before. -/
theorem rd_wr_ne (a b : Nat) (v : Word) (s : State) (h : b ≠ a) : rd (wr a v s) b = rd s b := mapGet_mapSet_ne _ _ _ _ _ h

/-- The register written reads back, in a state whose tables are canonical. -/
theorem rd_wr_same (a : Nat) (v : Word) (s : State) (h : TablesWf s) : rd (wr a v s) a = v := mapGet_mapSet_same _ _ _ _ h.1

theorem rd_wr (a b : Nat) (v : Word) (s : State) (h : TablesWf s) : rd (wr a v s) b = if b = a then v else rd s b := by
  split
  · rename_i e; rw [e]; exact rd_wr_same a v s h
  · exact rd_wr_ne a b v s ‹_›

theorem liveCnt_count_ne (a b n : Nat) (s : State) (h : b ≠ a) : liveCnt (count a n s) b = liveCnt s b :=
  tget_tset_ne _ _ _ _ _ h

/-- A live counter counts modulo 2^64. -/
theorem liveCnt_count_same (a n : Nat) (s : State) (h : TablesWf s) : liveCnt (count a n s) a = (liveCnt s a + n) % 2 ^ 64 :=
  tget_tset_same _ _ _ _ h.2

/-- A field of a register reads back what was written to it, and its other fields read as before. -/
theorem rdF_wrF (a lo n v lo' m : Nat) (s : State) (hs : TablesWf s) (h : lo + n ≤ 32) :
    rdF (wrF a lo n v s) a lo n = v % 2 ^ n ∧
      (lo + n ≤ lo' ∨ lo' + m ≤ lo → rdF (wrF a lo n v s) a lo' m = rdF s a lo' m) := by
  unfold rdF wrF
  rw [rd_wr_same _ _ _ hs]
  exact ⟨field_withField _ _ _ _ h, field_withField_ne _ _ _ _ _ _ h⟩

theorem rdB_setStat (a k : Nat) (b : Bool) (s : State) (hs : TablesWf s) (h : k < 32) : rdB (setStat a k b s) a k = b := by
  unfold rdB setStat
  rw [rd_wr_same _ _ _ hs, bitAt_withBool _ _ _ h]

theorem rd_setStat_ne (a k c : Nat) (b : Bool) (s : State) (h : c ≠ a) : rd (setStat a k b s) c = rd s c := rd_wr_ne _ _ _ _ h

/-- Consecutive words: a register outside them reads as before. -/
theorem rd_wrWords_out (a : Nat) (ws : List Word) (s : State) (b : Nat) (h : b < a ∨ a + 4 * ws.length ≤ b) :
    rd (wrWords a ws s) b = rd s b := by
  induction ws generalizing a s with
  | nil => rfl
  | cons w ws ih =>
    rw [List.length_cons] at h
    show rd (wrWords (a + 4) ws (wr a w s)) b = _
    rw [ih _ _ (by omega), rd_wr_ne _ _ _ _ (by omega)]

/-- Consecutive words: the one at an index reads back. -/
theorem rd_wrWords_in (a : Nat) (ws : List Word) (s : State) (i : Nat) (hs : TablesWf s) (h : i < ws.length) :
    rd (wrWords a ws s) (a + 4 * i) = ws.getD i 0#32 := by
  induction ws generalizing a s i with
  | nil => exact absurd h (Nat.not_lt_zero _)
  | cons w ws ih =>
    show rd (wrWords (a + 4) ws (wr a w s)) _ = _
    cases i with
    | zero => rw [rd_wrWords_out _ _ _ _ (by omega)]; exact rd_wr_same _ _ _ hs
    | succ i =>
      rw [show a + 4 * (i + 1) = a + 4 + 4 * i by omega]
      exact ih _ _ _ ⟨mapSet_wf _ _ _ _ hs.1, hs.2⟩ (Nat.lt_of_succ_lt_succ h)

end Sys2Proof.Machine
end

