-- ==== Sys2Proof/Laws/Shared.lean ====
section
/-!
SUPPORT. The shared operations: what setting an interrupt bit, offering a post and recording an event can do, said once.
-/

namespace Sys2Proof.Machine

open Sys2Proof

set_option Elab.async false
set_option linter.all false

/-- Sending a vector's message changes at most the PBA and what was handed out. -/
theorem vectorEdge_cases (v : Nat) (s t : State) :
    vectorEdge v s t = t ∨ vectorEdge v s t = { t with host := { t.host with pba := withBit t.host.pba v } } ∨
      vectorEdge v s t = emit (.msix v (rd64 t (MSIX_ADDR v)) (rd t (MSIX_DATA v))) t := by
  unfold vectorEdge sendVector
  repeat' split
  · exact .inr (.inl rfl)
  · exact .inr (.inr rfl)
  · exact .inl rfl

/-- Setting an interrupt bit writes that register, and may send its vector's message. -/
theorem setInt_regs (a k : Nat) (s : State) : (setInt a k s).regs = (wr a (withBit (rd s a) k) s).regs := by
  unfold setInt
  obtain h | h | h := vectorEdge_cases (vectorOf a) s (wr a (withBit (rd s a) k) s) <;> rw [h] <;> rfl

theorem rd_setInt_same (a k : Nat) (s : State) (h : TablesWf s) : rd (setInt a k s) a = withBit (rd s a) k := by
  unfold rd at *
  rw [setInt_regs]
  exact rd_wr_same a _ s h

theorem rd_setInt_ne (a k b : Nat) (s : State) (h : b ≠ a) : rd (setInt a k s) b = rd s b := by
  unfold rd
  rw [setInt_regs]
  exact rd_wr_ne a b _ s h

/-- Where a fold of steps that each keep a value ends, the value is kept. -/
theorem foldl_keep {α β : Type} (g : State → β) (f : State → α → State) (l : List α) (s : State) (h : ∀ u x, g (f u x) = g u) :
    g (l.foldl f s) = g s := by
  induction l generalizing s with
  | nil => rfl
  | cons x l ih => rw [List.foldl_cons, ih, h]

@[simp] theorem setInt_live (a k : Nat) (s : State) : (setInt a k s).live = s.live := by
  unfold setInt
  obtain h | h | h := vectorEdge_cases (vectorOf a) s (wr a (withBit (rd s a) k) s) <;> rw [h] <;> rfl

@[simp] theorem setInt_ticks (a k : Nat) (s : State) : (setInt a k s).ticks = s.ticks := by
  unfold setInt
  obtain h | h | h := vectorEdge_cases (vectorOf a) s (wr a (withBit (rd s a) k) s) <;> rw [h] <;> rfl

@[simp] theorem setInt_tai (a k : Nat) (s : State) : (setInt a k s).tai = s.tai := by
  unfold setInt
  obtain h | h | h := vectorEdge_cases (vectorOf a) s (wr a (withBit (rd s a) k) s) <;> rw [h] <;> rfl

@[simp] theorem setInt_free (a k : Nat) (s : State) : (setInt a k s).free = s.free := by
  unfold setInt
  obtain h | h | h := vectorEdge_cases (vectorOf a) s (wr a (withBit (rd s a) k) s) <;> rw [h] <;> rfl

@[simp] theorem setInt_mast (a k : Nat) (s : State) : (setInt a k s).mast = s.mast := by
  unfold setInt
  obtain h | h | h := vectorEdge_cases (vectorOf a) s (wr a (withBit (rd s a) k) s) <;> rw [h] <;> rfl

@[simp] theorem setInt_deck (a k : Nat) (s : State) : (setInt a k s).deck = s.deck := by
  unfold setInt
  obtain h | h | h := vectorEdge_cases (vectorOf a) s (wr a (withBit (rd s a) k) s) <;> rw [h] <;> rfl

@[simp] theorem setInt_ports (a k : Nat) (s : State) : (setInt a k s).ports = s.ports := by
  unfold setInt
  obtain h | h | h := vectorEdge_cases (vectorOf a) s (wr a (withBit (rd s a) k) s) <;> rw [h] <;> rfl

@[simp] theorem setInt_ing (a k : Nat) (s : State) : (setInt a k s).ing = s.ing := by
  unfold setInt
  obtain h | h | h := vectorEdge_cases (vectorOf a) s (wr a (withBit (rd s a) k) s) <;> rw [h] <;> rfl

@[simp] theorem setInt_mkt (a k : Nat) (s : State) : (setInt a k s).mkt = s.mkt := by
  unfold setInt
  obtain h | h | h := vectorEdge_cases (vectorOf a) s (wr a (withBit (rd s a) k) s) <;> rw [h] <;> rfl

@[simp] theorem setInt_scales (a k : Nat) (s : State) : (setInt a k s).scales = s.scales := by
  unfold setInt
  obtain h | h | h := vectorEdge_cases (vectorOf a) s (wr a (withBit (rd s a) k) s) <;> rw [h] <;> rfl

@[simp] theorem setInt_cap (a k : Nat) (s : State) : (setInt a k s).cap = s.cap := by
  unfold setInt
  obtain h | h | h := vectorEdge_cases (vectorOf a) s (wr a (withBit (rd s a) k) s) <;> rw [h] <;> rfl

@[simp] theorem setInt_pak (a k : Nat) (s : State) : (setInt a k s).pak = s.pak := by
  unfold setInt
  obtain h | h | h := vectorEdge_cases (vectorOf a) s (wr a (withBit (rd s a) k) s) <;> rw [h] <;> rfl

@[simp] theorem setInt_nest (a k : Nat) (s : State) : (setInt a k s).nest = s.nest := by
  unfold setInt
  obtain h | h | h := vectorEdge_cases (vectorOf a) s (wr a (withBit (rd s a) k) s) <;> rw [h] <;> rfl

@[simp] theorem setInt_egr (a k : Nat) (s : State) : (setInt a k s).egr = s.egr := by
  unfold setInt
  obtain h | h | h := vectorEdge_cases (vectorOf a) s (wr a (withBit (rd s a) k) s) <;> rw [h] <;> rfl

@[simp] theorem setInt_pair (a k : Nat) (s : State) : (setInt a k s).pair = s.pair := by
  unfold setInt
  obtain h | h | h := vectorEdge_cases (vectorOf a) s (wr a (withBit (rd s a) k) s) <;> rw [h] <;> rfl

@[simp] theorem setInt_till (a k : Nat) (s : State) : (setInt a k s).till = s.till := by
  unfold setInt
  obtain h | h | h := vectorEdge_cases (vectorOf a) s (wr a (withBit (rd s a) k) s) <;> rw [h] <;> rfl

@[simp] theorem setInt_mem (a k : Nat) (s : State) : (setInt a k s).mem = s.mem := by
  unfold setInt
  obtain h | h | h := vectorEdge_cases (vectorOf a) s (wr a (withBit (rd s a) k) s) <;> rw [h] <;> rfl

@[simp] theorem setInt_ledger (a k : Nat) (s : State) : (setInt a k s).ledger = s.ledger := by
  unfold setInt
  obtain h | h | h := vectorEdge_cases (vectorOf a) s (wr a (withBit (rd s a) k) s) <;> rw [h] <;> rfl

@[simp] theorem setInt_sentry (a k : Nat) (s : State) : (setInt a k s).sentry = s.sentry := by
  unfold setInt
  obtain h | h | h := vectorEdge_cases (vectorOf a) s (wr a (withBit (rd s a) k) s) <;> rw [h] <;> rfl

@[simp] theorem setInt_boot (a k : Nat) (s : State) : (setInt a k s).boot = s.boot := by
  unfold setInt
  obtain h | h | h := vectorEdge_cases (vectorOf a) s (wr a (withBit (rd s a) k) s) <;> rw [h] <;> rfl

@[simp] theorem setInt_power (a k : Nat) (s : State) : (setInt a k s).power = s.power := by
  unfold setInt
  obtain h | h | h := vectorEdge_cases (vectorOf a) s (wr a (withBit (rd s a) k) s) <;> rw [h] <;> rfl

@[simp] theorem setInt_nodeOk (a k : Nat) (s : State) : (setInt a k s).nodeOk = s.nodeOk := by
  unfold setInt
  obtain h | h | h := vectorEdge_cases (vectorOf a) s (wr a (withBit (rd s a) k) s) <;> rw [h] <;> rfl

@[simp] theorem setInt_cfg (a k : Nat) (s : State) : (setInt a k s).cfg = s.cfg := by
  unfold setInt
  obtain h | h | h := vectorEdge_cases (vectorOf a) s (wr a (withBit (rd s a) k) s) <;> rw [h] <;> rfl

@[simp] theorem setInt_pending (a k : Nat) (s : State) : (setInt a k s).pending = s.pending := by
  unfold setInt
  obtain h | h | h := vectorEdge_cases (vectorOf a) s (wr a (withBit (rd s a) k) s) <;> rw [h] <;> rfl

@[simp] theorem offerPost_live (p : PostSource) (t : Nat) (s : State) : (offerPost p t s).live = s.live := by
  unfold offerPost
  dsimp only
  repeat' split
  all_goals simp

@[simp] theorem raise_live (a k : Nat) (s : State) : (raise a k s).live = s.live := by
  unfold raise
  dsimp only
  split
  · rw [foldl_keep State.live _ _ _ (fun u x => offerPost_live _ x u), setInt_live]
  · exact setInt_live a k s

@[simp] theorem offerPost_ticks (p : PostSource) (t : Nat) (s : State) : (offerPost p t s).ticks = s.ticks := by
  unfold offerPost
  dsimp only
  repeat' split
  all_goals simp

@[simp] theorem raise_ticks (a k : Nat) (s : State) : (raise a k s).ticks = s.ticks := by
  unfold raise
  dsimp only
  split
  · rw [foldl_keep State.ticks _ _ _ (fun u x => offerPost_ticks _ x u), setInt_ticks]
  · exact setInt_ticks a k s

@[simp] theorem offerPost_tai (p : PostSource) (t : Nat) (s : State) : (offerPost p t s).tai = s.tai := by
  unfold offerPost
  dsimp only
  repeat' split
  all_goals simp

@[simp] theorem raise_tai (a k : Nat) (s : State) : (raise a k s).tai = s.tai := by
  unfold raise
  dsimp only
  split
  · rw [foldl_keep State.tai _ _ _ (fun u x => offerPost_tai _ x u), setInt_tai]
  · exact setInt_tai a k s

@[simp] theorem offerPost_free (p : PostSource) (t : Nat) (s : State) : (offerPost p t s).free = s.free := by
  unfold offerPost
  dsimp only
  repeat' split
  all_goals simp

@[simp] theorem raise_free (a k : Nat) (s : State) : (raise a k s).free = s.free := by
  unfold raise
  dsimp only
  split
  · rw [foldl_keep State.free _ _ _ (fun u x => offerPost_free _ x u), setInt_free]
  · exact setInt_free a k s

@[simp] theorem offerPost_mast (p : PostSource) (t : Nat) (s : State) : (offerPost p t s).mast = s.mast := by
  unfold offerPost
  dsimp only
  repeat' split
  all_goals simp

@[simp] theorem raise_mast (a k : Nat) (s : State) : (raise a k s).mast = s.mast := by
  unfold raise
  dsimp only
  split
  · rw [foldl_keep State.mast _ _ _ (fun u x => offerPost_mast _ x u), setInt_mast]
  · exact setInt_mast a k s

@[simp] theorem offerPost_ports (p : PostSource) (t : Nat) (s : State) : (offerPost p t s).ports = s.ports := by
  unfold offerPost
  dsimp only
  repeat' split
  all_goals simp

@[simp] theorem raise_ports (a k : Nat) (s : State) : (raise a k s).ports = s.ports := by
  unfold raise
  dsimp only
  split
  · rw [foldl_keep State.ports _ _ _ (fun u x => offerPost_ports _ x u), setInt_ports]
  · exact setInt_ports a k s

@[simp] theorem offerPost_ing (p : PostSource) (t : Nat) (s : State) : (offerPost p t s).ing = s.ing := by
  unfold offerPost
  dsimp only
  repeat' split
  all_goals simp

@[simp] theorem raise_ing (a k : Nat) (s : State) : (raise a k s).ing = s.ing := by
  unfold raise
  dsimp only
  split
  · rw [foldl_keep State.ing _ _ _ (fun u x => offerPost_ing _ x u), setInt_ing]
  · exact setInt_ing a k s

@[simp] theorem offerPost_mkt (p : PostSource) (t : Nat) (s : State) : (offerPost p t s).mkt = s.mkt := by
  unfold offerPost
  dsimp only
  repeat' split
  all_goals simp

@[simp] theorem raise_mkt (a k : Nat) (s : State) : (raise a k s).mkt = s.mkt := by
  unfold raise
  dsimp only
  split
  · rw [foldl_keep State.mkt _ _ _ (fun u x => offerPost_mkt _ x u), setInt_mkt]
  · exact setInt_mkt a k s

@[simp] theorem offerPost_scales (p : PostSource) (t : Nat) (s : State) : (offerPost p t s).scales = s.scales := by
  unfold offerPost
  dsimp only
  repeat' split
  all_goals simp

@[simp] theorem raise_scales (a k : Nat) (s : State) : (raise a k s).scales = s.scales := by
  unfold raise
  dsimp only
  split
  · rw [foldl_keep State.scales _ _ _ (fun u x => offerPost_scales _ x u), setInt_scales]
  · exact setInt_scales a k s

@[simp] theorem offerPost_cap (p : PostSource) (t : Nat) (s : State) : (offerPost p t s).cap = s.cap := by
  unfold offerPost
  dsimp only
  repeat' split
  all_goals simp

@[simp] theorem raise_cap (a k : Nat) (s : State) : (raise a k s).cap = s.cap := by
  unfold raise
  dsimp only
  split
  · rw [foldl_keep State.cap _ _ _ (fun u x => offerPost_cap _ x u), setInt_cap]
  · exact setInt_cap a k s

@[simp] theorem offerPost_pak (p : PostSource) (t : Nat) (s : State) : (offerPost p t s).pak = s.pak := by
  unfold offerPost
  dsimp only
  repeat' split
  all_goals simp

@[simp] theorem raise_pak (a k : Nat) (s : State) : (raise a k s).pak = s.pak := by
  unfold raise
  dsimp only
  split
  · rw [foldl_keep State.pak _ _ _ (fun u x => offerPost_pak _ x u), setInt_pak]
  · exact setInt_pak a k s

@[simp] theorem offerPost_nest (p : PostSource) (t : Nat) (s : State) : (offerPost p t s).nest = s.nest := by
  unfold offerPost
  dsimp only
  repeat' split
  all_goals simp

@[simp] theorem raise_nest (a k : Nat) (s : State) : (raise a k s).nest = s.nest := by
  unfold raise
  dsimp only
  split
  · rw [foldl_keep State.nest _ _ _ (fun u x => offerPost_nest _ x u), setInt_nest]
  · exact setInt_nest a k s

@[simp] theorem offerPost_egr (p : PostSource) (t : Nat) (s : State) : (offerPost p t s).egr = s.egr := by
  unfold offerPost
  dsimp only
  repeat' split
  all_goals simp

@[simp] theorem raise_egr (a k : Nat) (s : State) : (raise a k s).egr = s.egr := by
  unfold raise
  dsimp only
  split
  · rw [foldl_keep State.egr _ _ _ (fun u x => offerPost_egr _ x u), setInt_egr]
  · exact setInt_egr a k s

@[simp] theorem offerPost_pair (p : PostSource) (t : Nat) (s : State) : (offerPost p t s).pair = s.pair := by
  unfold offerPost
  dsimp only
  repeat' split
  all_goals simp

@[simp] theorem raise_pair (a k : Nat) (s : State) : (raise a k s).pair = s.pair := by
  unfold raise
  dsimp only
  split
  · rw [foldl_keep State.pair _ _ _ (fun u x => offerPost_pair _ x u), setInt_pair]
  · exact setInt_pair a k s

@[simp] theorem offerPost_till (p : PostSource) (t : Nat) (s : State) : (offerPost p t s).till = s.till := by
  unfold offerPost
  dsimp only
  repeat' split
  all_goals simp

@[simp] theorem raise_till (a k : Nat) (s : State) : (raise a k s).till = s.till := by
  unfold raise
  dsimp only
  split
  · rw [foldl_keep State.till _ _ _ (fun u x => offerPost_till _ x u), setInt_till]
  · exact setInt_till a k s

@[simp] theorem offerPost_mem (p : PostSource) (t : Nat) (s : State) : (offerPost p t s).mem = s.mem := by
  unfold offerPost
  dsimp only
  repeat' split
  all_goals simp

@[simp] theorem raise_mem (a k : Nat) (s : State) : (raise a k s).mem = s.mem := by
  unfold raise
  dsimp only
  split
  · rw [foldl_keep State.mem _ _ _ (fun u x => offerPost_mem _ x u), setInt_mem]
  · exact setInt_mem a k s

@[simp] theorem offerPost_ledger (p : PostSource) (t : Nat) (s : State) : (offerPost p t s).ledger = s.ledger := by
  unfold offerPost
  dsimp only
  repeat' split
  all_goals simp

@[simp] theorem raise_ledger (a k : Nat) (s : State) : (raise a k s).ledger = s.ledger := by
  unfold raise
  dsimp only
  split
  · rw [foldl_keep State.ledger _ _ _ (fun u x => offerPost_ledger _ x u), setInt_ledger]
  · exact setInt_ledger a k s

@[simp] theorem offerPost_sentry (p : PostSource) (t : Nat) (s : State) : (offerPost p t s).sentry = s.sentry := by
  unfold offerPost
  dsimp only
  repeat' split
  all_goals simp

@[simp] theorem raise_sentry (a k : Nat) (s : State) : (raise a k s).sentry = s.sentry := by
  unfold raise
  dsimp only
  split
  · rw [foldl_keep State.sentry _ _ _ (fun u x => offerPost_sentry _ x u), setInt_sentry]
  · exact setInt_sentry a k s

@[simp] theorem offerPost_boot (p : PostSource) (t : Nat) (s : State) : (offerPost p t s).boot = s.boot := by
  unfold offerPost
  dsimp only
  repeat' split
  all_goals simp

@[simp] theorem raise_boot (a k : Nat) (s : State) : (raise a k s).boot = s.boot := by
  unfold raise
  dsimp only
  split
  · rw [foldl_keep State.boot _ _ _ (fun u x => offerPost_boot _ x u), setInt_boot]
  · exact setInt_boot a k s

@[simp] theorem offerPost_power (p : PostSource) (t : Nat) (s : State) : (offerPost p t s).power = s.power := by
  unfold offerPost
  dsimp only
  repeat' split
  all_goals simp

@[simp] theorem raise_power (a k : Nat) (s : State) : (raise a k s).power = s.power := by
  unfold raise
  dsimp only
  split
  · rw [foldl_keep State.power _ _ _ (fun u x => offerPost_power _ x u), setInt_power]
  · exact setInt_power a k s

@[simp] theorem offerPost_nodeOk (p : PostSource) (t : Nat) (s : State) : (offerPost p t s).nodeOk = s.nodeOk := by
  unfold offerPost
  dsimp only
  repeat' split
  all_goals simp

@[simp] theorem raise_nodeOk (a k : Nat) (s : State) : (raise a k s).nodeOk = s.nodeOk := by
  unfold raise
  dsimp only
  split
  · rw [foldl_keep State.nodeOk _ _ _ (fun u x => offerPost_nodeOk _ x u), setInt_nodeOk]
  · exact setInt_nodeOk a k s

@[simp] theorem offerPost_cfg (p : PostSource) (t : Nat) (s : State) : (offerPost p t s).cfg = s.cfg := by
  unfold offerPost
  dsimp only
  repeat' split
  all_goals simp

@[simp] theorem raise_cfg (a k : Nat) (s : State) : (raise a k s).cfg = s.cfg := by
  unfold raise
  dsimp only
  split
  · rw [foldl_keep State.cfg _ _ _ (fun u x => offerPost_cfg _ x u), setInt_cfg]
  · exact setInt_cfg a k s

@[simp] theorem offerPost_pending (p : PostSource) (t : Nat) (s : State) : (offerPost p t s).pending = s.pending := by
  unfold offerPost
  dsimp only
  repeat' split
  all_goals simp

@[simp] theorem raise_pending (a k : Nat) (s : State) : (raise a k s).pending = s.pending := by
  unfold raise
  dsimp only
  split
  · rw [foldl_keep State.pending _ _ _ (fun u x => offerPost_pending _ x u), setInt_pending]
  · exact setInt_pending a k s

theorem rd_offerPost (p : PostSource) (t b : Nat) (s : State) (h : b ≠ CTL_INT) : rd (offerPost p t s) b = rd s b := by
  unfold offerPost
  dsimp only
  repeat' split
  · rfl
  · exact rd_setInt_ne _ _ _ _ h
  · rfl

/-- Setting an interrupt bit with its posts leaves every other register but CTL_INT, where an overflow is noted (R334). -/
theorem rd_raise_ne (a k b : Nat) (s : State) (h : b ≠ a) (hc : b ≠ CTL_INT) : rd (raise a k s) b = rd s b := by
  unfold raise
  dsimp only
  split
  · rw [foldl_keep (fun u => rd u b) _ _ _ (fun u x => rd_offerPost _ x b u hc), rd_setInt_ne _ _ _ _ h]
  · exact rd_setInt_ne _ _ _ _ h

/-- The register whose bit is set. -/
theorem rd_raise_same (a k : Nat) (s : State) (hs : TablesWf s) (hc : a ≠ CTL_INT) : rd (raise a k s) a = withBit (rd s a) k := by
  unfold raise
  dsimp only
  split
  · rw [foldl_keep (fun u => rd u a) _ _ _ (fun u x => rd_offerPost _ x a u hc), rd_setInt_same _ _ _ hs]
  · exact rd_setInt_same _ _ _ hs

/-- An interrupt bit that was raised is set, and the other bits of its register stay. -/
theorem rdB_raise (a k j : Nat) (s : State) (hs : TablesWf s) (hc : a ≠ CTL_INT) (hk : k < 32) :
    rdB (raise a k s) a j = (decide (k = j) || rdB s a j) := by
  unfold rdB
  rw [rd_raise_same a k s hs hc, bitAt_withBit _ _ _ hk]

@[simp] theorem logEvent_live (src code sev : Nat) (key : Word) (data : List Word) (s : State) :
    (logEvent src code sev key data s).live = s.live := by
  unfold logEvent countDrop flushAsked bumpSat
  repeat' split
  all_goals simp

@[simp] theorem logEvent_ticks (src code sev : Nat) (key : Word) (data : List Word) (s : State) :
    (logEvent src code sev key data s).ticks = s.ticks := by
  unfold logEvent countDrop flushAsked bumpSat
  repeat' split
  all_goals simp

@[simp] theorem logEvent_tai (src code sev : Nat) (key : Word) (data : List Word) (s : State) :
    (logEvent src code sev key data s).tai = s.tai := by
  unfold logEvent countDrop flushAsked bumpSat
  repeat' split
  all_goals simp

@[simp] theorem logEvent_free (src code sev : Nat) (key : Word) (data : List Word) (s : State) :
    (logEvent src code sev key data s).free = s.free := by
  unfold logEvent countDrop flushAsked bumpSat
  repeat' split
  all_goals simp

@[simp] theorem logEvent_mast (src code sev : Nat) (key : Word) (data : List Word) (s : State) :
    (logEvent src code sev key data s).mast = s.mast := by
  unfold logEvent countDrop flushAsked bumpSat
  repeat' split
  all_goals simp

@[simp] theorem logEvent_ports (src code sev : Nat) (key : Word) (data : List Word) (s : State) :
    (logEvent src code sev key data s).ports = s.ports := by
  unfold logEvent countDrop flushAsked bumpSat
  repeat' split
  all_goals simp

@[simp] theorem logEvent_ing (src code sev : Nat) (key : Word) (data : List Word) (s : State) :
    (logEvent src code sev key data s).ing = s.ing := by
  unfold logEvent countDrop flushAsked bumpSat
  repeat' split
  all_goals simp

@[simp] theorem logEvent_mkt (src code sev : Nat) (key : Word) (data : List Word) (s : State) :
    (logEvent src code sev key data s).mkt = s.mkt := by
  unfold logEvent countDrop flushAsked bumpSat
  repeat' split
  all_goals simp

@[simp] theorem logEvent_scales (src code sev : Nat) (key : Word) (data : List Word) (s : State) :
    (logEvent src code sev key data s).scales = s.scales := by
  unfold logEvent countDrop flushAsked bumpSat
  repeat' split
  all_goals simp

@[simp] theorem logEvent_cap (src code sev : Nat) (key : Word) (data : List Word) (s : State) :
    (logEvent src code sev key data s).cap = s.cap := by
  unfold logEvent countDrop flushAsked bumpSat
  repeat' split
  all_goals simp

@[simp] theorem logEvent_pak (src code sev : Nat) (key : Word) (data : List Word) (s : State) :
    (logEvent src code sev key data s).pak = s.pak := by
  unfold logEvent countDrop flushAsked bumpSat
  repeat' split
  all_goals simp

@[simp] theorem logEvent_nest (src code sev : Nat) (key : Word) (data : List Word) (s : State) :
    (logEvent src code sev key data s).nest = s.nest := by
  unfold logEvent countDrop flushAsked bumpSat
  repeat' split
  all_goals simp

@[simp] theorem logEvent_egr (src code sev : Nat) (key : Word) (data : List Word) (s : State) :
    (logEvent src code sev key data s).egr = s.egr := by
  unfold logEvent countDrop flushAsked bumpSat
  repeat' split
  all_goals simp

@[simp] theorem logEvent_pair (src code sev : Nat) (key : Word) (data : List Word) (s : State) :
    (logEvent src code sev key data s).pair = s.pair := by
  unfold logEvent countDrop flushAsked bumpSat
  repeat' split
  all_goals simp

@[simp] theorem logEvent_till (src code sev : Nat) (key : Word) (data : List Word) (s : State) :
    (logEvent src code sev key data s).till = s.till := by
  unfold logEvent countDrop flushAsked bumpSat
  repeat' split
  all_goals simp

@[simp] theorem logEvent_mem (src code sev : Nat) (key : Word) (data : List Word) (s : State) :
    (logEvent src code sev key data s).mem = s.mem := by
  unfold logEvent countDrop flushAsked bumpSat
  repeat' split
  all_goals simp

@[simp] theorem logEvent_sentry (src code sev : Nat) (key : Word) (data : List Word) (s : State) :
    (logEvent src code sev key data s).sentry = s.sentry := by
  unfold logEvent countDrop flushAsked bumpSat
  repeat' split
  all_goals simp

@[simp] theorem logEvent_boot (src code sev : Nat) (key : Word) (data : List Word) (s : State) :
    (logEvent src code sev key data s).boot = s.boot := by
  unfold logEvent countDrop flushAsked bumpSat
  repeat' split
  all_goals simp

@[simp] theorem logEvent_power (src code sev : Nat) (key : Word) (data : List Word) (s : State) :
    (logEvent src code sev key data s).power = s.power := by
  unfold logEvent countDrop flushAsked bumpSat
  repeat' split
  all_goals simp

@[simp] theorem logEvent_nodeOk (src code sev : Nat) (key : Word) (data : List Word) (s : State) :
    (logEvent src code sev key data s).nodeOk = s.nodeOk := by
  unfold logEvent countDrop flushAsked bumpSat
  repeat' split
  all_goals simp

@[simp] theorem logEvent_cfg (src code sev : Nat) (key : Word) (data : List Word) (s : State) :
    (logEvent src code sev key data s).cfg = s.cfg := by
  unfold logEvent countDrop flushAsked bumpSat
  repeat' split
  all_goals simp

@[simp] theorem logEvent_pending (src code sev : Nat) (key : Word) (data : List Word) (s : State) :
    (logEvent src code sev key data s).pending = s.pending := by
  unfold logEvent countDrop flushAsked bumpSat
  repeat' split
  all_goals simp

theorem rd_countDrop (sev b : Nat) (s : State) (h1 : b ≠ CTL_INT) (h2 : b ≠ LDG_INT) (h3 : b ≠ LDG_DROP sev) :
    rd (countDrop sev s) b = rd s b := by
  unfold countDrop bumpSat
  rw [rd_raise_ne _ _ _ _ h2 h1, rd_wr_ne _ _ _ _ h3]
  rfl

/-- Recording an event writes no register but the Ledger's drop counts and what setting its interrupt can write (R368). -/
theorem rd_logEvent (src code sev b : Nat) (key : Word) (data : List Word) (s : State) (h1 : b ≠ CTL_INT) (h2 : b ≠ LDG_INT)
    (h3 : ∀ v, b ≠ LDG_DROP v) : rd (logEvent src code sev key data s) b = rd s b := by
  unfold logEvent
  dsimp only
  repeat' split
  · rfl
  · rfl
  · exact rd_countDrop _ _ _ h1 h2 (h3 _)
  · rw [rd_countDrop _ _ _ h1 h2 (h3 _)]
    rfl

end Sys2Proof.Machine
end

