-- ==== Sys2Proof/Laws/Access.lean ====
section
/-!
SUPPORT. What a served access does, and when an event of a powered unit happens: the cases of the operations that guard a command.
-/

namespace Sys2Proof.Machine

open Sys2Proof

set_option Elab.async false
set_option linter.all false

/-- A served access acts on the state in which the shadow of R476 has ended. -/
theorem serve_served (c : Instr) (who : Req) (ofs : Nat) (f : State → State) (s : State) (h : Served who ofs s) :
    serve c who ofs f s = f (accessed who s) := by
  obtain ⟨hr, hh⟩ := h
  cases who with
  | host =>
    have hp : s.power.st = .fullSail := by
      unfold responds at hr
      simp only [Bool.and_eq_true, decide_eq_true_eq] at hr
      exact hr.1
    obtain ⟨h1, h2⟩ := hh rfl
    have hr' : responds { s with host := { s.host with shadow := none } } ofs = true := hr
    show hostServe c ofs f s = _
    unfold hostServe
    rw [if_neg (by simp [h1, hp]), if_neg (by simp [h2])]
    exact if_pos hr'
  | deck c => simp [serve, accessed, hr]

/-- A Deck core's access to a block that does not answer changes nothing. -/
theorem serve_deck_silent (c : Instr) (k : Fin 4) (ofs : Nat) (f : State → State) (s : State) (h : responds s ofs = false) :
    serve c (.deck k) ofs f s = s := by
  simp [serve, h]

theorem inFull_full (s t : State) (h : s.power.st = .fullSail) : inFull s t = .next t := by
  unfold inFull; rw [if_pos h]

theorem inFull_not (s t : State) (h : s.power.st ≠ .fullSail) : inFull s t = .next s := by
  unfold inFull; rw [if_neg h]

theorem powered_on (s t : State) (h : s.power.st ≠ .furled) : powered s t = .next t := by
  unfold powered; rw [if_neg h]

theorem powered_off (s t : State) (h : s.power.st = .furled) : powered s t = .next s := by
  unfold powered; rw [if_pos h]

@[simp] theorem accessed_regs (who : Req) (s : State) : (accessed who s).regs = s.regs := by cases who <;> rfl
@[simp] theorem rd_accessed (who : Req) (s : State) (a : Nat) : rd (accessed who s) a = rd s a := by cases who <;> rfl
@[simp] theorem rdF_accessed (who : Req) (s : State) (a lo n : Nat) : rdF (accessed who s) a lo n = rdF s a lo n := by
  cases who <;> rfl
@[simp] theorem rdB_accessed (who : Req) (s : State) (a k : Nat) : rdB (accessed who s) a k = rdB s a k := by cases who <;> rfl
theorem accessed_tables (who : Req) (s : State) (h : TablesWf s) : TablesWf (accessed who s) := by cases who <;> exact h
@[simp] theorem accessed_live (who : Req) (s : State) : (accessed who s).live = s.live := by cases who <;> rfl
@[simp] theorem accessed_ticks (who : Req) (s : State) : (accessed who s).ticks = s.ticks := by cases who <;> rfl
@[simp] theorem accessed_tai (who : Req) (s : State) : (accessed who s).tai = s.tai := by cases who <;> rfl
@[simp] theorem accessed_free (who : Req) (s : State) : (accessed who s).free = s.free := by cases who <;> rfl
@[simp] theorem accessed_mast (who : Req) (s : State) : (accessed who s).mast = s.mast := by cases who <;> rfl
@[simp] theorem accessed_deck (who : Req) (s : State) : (accessed who s).deck = s.deck := by cases who <;> rfl
@[simp] theorem accessed_ports (who : Req) (s : State) : (accessed who s).ports = s.ports := by cases who <;> rfl
@[simp] theorem accessed_ing (who : Req) (s : State) : (accessed who s).ing = s.ing := by cases who <;> rfl
@[simp] theorem accessed_mkt (who : Req) (s : State) : (accessed who s).mkt = s.mkt := by cases who <;> rfl
@[simp] theorem accessed_scales (who : Req) (s : State) : (accessed who s).scales = s.scales := by cases who <;> rfl
@[simp] theorem accessed_cap (who : Req) (s : State) : (accessed who s).cap = s.cap := by cases who <;> rfl
@[simp] theorem accessed_pak (who : Req) (s : State) : (accessed who s).pak = s.pak := by cases who <;> rfl
@[simp] theorem accessed_nest (who : Req) (s : State) : (accessed who s).nest = s.nest := by cases who <;> rfl
@[simp] theorem accessed_egr (who : Req) (s : State) : (accessed who s).egr = s.egr := by cases who <;> rfl
@[simp] theorem accessed_pair (who : Req) (s : State) : (accessed who s).pair = s.pair := by cases who <;> rfl
@[simp] theorem accessed_till (who : Req) (s : State) : (accessed who s).till = s.till := by cases who <;> rfl
@[simp] theorem accessed_mem (who : Req) (s : State) : (accessed who s).mem = s.mem := by cases who <;> rfl
@[simp] theorem accessed_ledger (who : Req) (s : State) : (accessed who s).ledger = s.ledger := by cases who <;> rfl
@[simp] theorem accessed_sentry (who : Req) (s : State) : (accessed who s).sentry = s.sentry := by cases who <;> rfl
@[simp] theorem accessed_boot (who : Req) (s : State) : (accessed who s).boot = s.boot := by cases who <;> rfl
@[simp] theorem accessed_power (who : Req) (s : State) : (accessed who s).power = s.power := by cases who <;> rfl
@[simp] theorem accessed_nodeOk (who : Req) (s : State) : (accessed who s).nodeOk = s.nodeOk := by cases who <;> rfl
@[simp] theorem accessed_cfg (who : Req) (s : State) : (accessed who s).cfg = s.cfg := by cases who <;> rfl
@[simp] theorem accessed_out (who : Req) (s : State) : (accessed who s).out = s.out := by cases who <;> rfl
@[simp] theorem accessed_pending (who : Req) (s : State) : (accessed who s).pending = s.pending := by cases who <;> rfl

/-- A served access completes with what its operation gives. -/
theorem completes_served {c : Instr} {who : Req} {ofs : Nat} {f : State → State} {s : State} {P : State → Prop}
    (hx : exec c s = .next (serve c who ofs f s)) (h : Served who ofs s) (hp : P (f (accessed who s))) : Completes c s P :=
  ⟨_, hx, by rw [serve_served c who ofs f s h]; exact hp⟩

/-- An event of a unit that only Full sail powers, in Full sail. -/
theorem completes_full {c : Instr} {s t : State} {P : State → Prop} (hx : exec c s = inFull s t) (h : s.power.st = .fullSail)
    (hp : P t) : Completes c s P :=
  ⟨t, hx.trans (inFull_full s t h), hp⟩

/-- An event of a unit that Full sail and Reefed power, outside Furled. -/
theorem completes_powered {c : Instr} {s t : State} {P : State → Prop} (hx : exec c s = powered s t) (h : s.power.st ≠ .furled)
    (hp : P t) : Completes c s P :=
  ⟨t, hx.trans (powered_on s t h), hp⟩

end Sys2Proof.Machine
end

