-- ==== Sys2Proof/Laws/Keeps.lean ====
section
/-!
SUPPORT. What every operation keeps (Safety.Keeps): how operations compose, and the four that write a table, draw a free value or
hand something out. The files Keeps<Group>.lean say it of every other operation, one lemma each.
-/

namespace Sys2Proof.Machine

open Sys2Proof

set_option Elab.async false
set_option linter.all false

theorem Keeps.refl (s : State) : Keeps s s := ⟨rfl, List.prefix_refl _, Nat.le_refl _, id⟩

theorem Keeps.trans {r s t : State} (a : Keeps r s) (b : Keeps s t) : Keeps r t :=
  ⟨b.queue.trans a.queue, a.out.trans b.out, Nat.le_trans a.free b.free, fun h => b.tables (a.tables h)⟩

theorem Keeps.app {r s : State} {f : State → State} (hf : ∀ u, Keeps u (f u)) (h : Keeps r s) : Keeps r (f s) :=
  h.trans (hf s)

theorem Keeps.ite {r a b : State} {c : Prop} [Decidable c] (ha : Keeps r a) (hb : Keeps r b) : Keeps r (if c then a else b) := by
  split <;> assumption

theorem Keeps.foldl {α : Type} {r s : State} {f : State → α → State} {l : List α} (h : Keeps r s)
    (hf : ∀ u x, Keeps u (f u x)) : Keeps r (l.foldl f s) := by
  induction l generalizing s with
  | nil => exact h
  | cons x l ih => exact ih (h.trans (hf s x))

theorem Keeps.forUpTo {r s : State} {f : Nat → State → State} {n : Nat} (h : Keeps r s) (hf : ∀ k u, Keeps u (f k u)) :
    Keeps r (forUpTo n f s) := Keeps.foldl h (fun u k => hf k u)

/-- A state that differs from one kept in no table, number or queue. -/
theorem Keeps.same {r t u : State} (h : Keeps r t) (h1 : u.pending = t.pending) (h2 : u.out = t.out) (h3 : u.free = t.free)
    (h4 : u.regs = t.regs) (h5 : u.live = t.live) : Keeps r u :=
  h.trans ⟨h1, h2 ▸ List.prefix_refl _, Nat.le_of_eq h3.symm, fun w => by unfold TablesWf at *; rw [h4, h5]; exact w⟩

theorem Keeps.lit {r t : State} (h : Keeps r t) {ticks : Nat} {tai : Nat} {mast : Mast} {host : HostIf} {deck : Deck} {ports : NMap Port} {ing : Ingest} {mkt : Market} {scales : Scales} {cap : Capture} {pak : Packer} {nest : Nest} {egr : Egress} {pair : Pair} {till : Till} {mem : MemInt} {ledger : Ledger} {sentry : Sentry} {boot : Boot} {power : Power} {nodeOk : Bool} {cfg : Image} :
    Keeps r ⟨t.regs, t.live, ticks, tai, t.free, mast, host, deck, ports, ing, mkt, scales, cap, pak, nest, egr, pair, till, mem, ledger, sentry, boot, power, nodeOk, cfg, t.out, t.pending⟩ :=
  h.same rfl rfl rfl rfl rfl

/-- The command answers a next state that keeps what a run keeps. -/
def Answers (r : State) (o : Host.Outcome State Fault Refusal) : Prop := ∃ t, o = .next t ∧ Keeps r t

theorem Answers.next {r t : State} (h : Keeps r t) : Answers r (.next t) := ⟨t, rfl, h⟩
theorem Answers.inFull {r s t : State} (h : Keeps r s) (k : Keeps r t) : Answers r (inFull s t) := ⟨_, rfl, Keeps.ite k h⟩
theorem Answers.powered {r s t : State} (h : Keeps r s) (k : Keeps r t) : Answers r (powered s t) := ⟨_, rfl, Keeps.ite h k⟩
theorem done_keeps {r t : State} (h : Keeps r t) : Answers r (done t) := ⟨_, rfl, h⟩

theorem wr_keeps {r : State} (a : Nat) (v : Word) (s : State) (h : Keeps r s) : Keeps r (wr a v s) :=
  h.trans ⟨rfl, List.prefix_refl _, Nat.le_refl _, fun w => ⟨mapSet_wf _ _ _ _ w.1, w.2⟩⟩

theorem count_keeps {r : State} (a n : Nat) (s : State) (h : Keeps r s) : Keeps r (count a n s) :=
  h.trans ⟨rfl, List.prefix_refl _, Nat.le_refl _, fun w => ⟨w.1, mapSet_wf _ _ _ _ w.2⟩⟩

theorem emit_keeps {r : State} (m : OutMsg) (s : State) (h : Keeps r s) : Keeps r (emit m s) :=
  h.trans ⟨rfl, List.prefix_append _ _, Nat.le_refl _, id⟩

theorem drawFree_keeps {r : State} (s : State) (h : Keeps r s) : Keeps r (drawFree s) :=
  h.trans ⟨rfl, List.prefix_refl _, Nat.le_succ _, id⟩

theorem clearLive_keeps {r : State} {v : Nat} (a : Nat) (t : State) (h : Keeps r t) :
    Keeps r { t with live := tset 0 t.live a v } :=
  h.trans ⟨rfl, List.prefix_refl _, Nat.le_refl _, fun w => ⟨w.1, mapSet_wf _ _ _ _ w.2⟩⟩

end Sys2Proof.Machine
end

