-- ==== Sys2Proof/Laws/KeepsShared.lean ====
section
/-!
SUPPORT. What each operation keeps (Safety.Keeps): the operations of Ops, the queues, the ports, the rules, the energy records and the packer.
-/

namespace Sys2Proof.Machine

open Sys2Proof

set_option Elab.async false
set_option linter.all false

set_option maxRecDepth 4000

theorem answer_keeps {s₀ : State} (who : Req) (v : BitVec 64) (s : State) (h₀ : Keeps s₀ s) : Keeps s₀ (answer who v s) := by
  unfold answer
  with_reducible repeat' first
    | assumption
    | apply emit_keeps

theorem wrF_keeps {s₀ : State} (a : Nat) (lo : Nat) (n : Nat) (v : Nat) (s : State) (h₀ : Keeps s₀ s) :
    Keeps s₀ (wrF a lo n v s) := by
  unfold wrF
  with_reducible repeat' first
    | assumption
    | apply wr_keeps

theorem bumpF_keeps {s₀ : State} (a : Nat) (lo : Nat) (n : Nat) (s : State) (h₀ : Keeps s₀ s) : Keeps s₀ (bumpF a lo n s) := by
  unfold bumpF
  with_reducible repeat' first
    | assumption
    | apply wrF_keeps

theorem bumpSat_keeps {s₀ : State} (a : Nat) (s : State) (h₀ : Keeps s₀ s) : Keeps s₀ (bumpSat a s) := by
  unfold bumpSat
  with_reducible repeat' first
    | assumption
    | apply wr_keeps

theorem sendVector_keeps {s₀ : State} (v : Nat) (s : State) (h₀ : Keeps s₀ s) : Keeps s₀ (sendVector v s) := by
  unfold sendVector
  with_reducible repeat' first
    | apply Keeps.ite
    | apply emit_keeps
    | (apply Keeps.lit; first | exact Keeps.refl _ | assumption)

theorem vectorEdge_keeps {s₀ : State} (v : Nat) (s : State) (t : State) (h₀ : Keeps s₀ t) : Keeps s₀ (vectorEdge v s t) := by
  unfold vectorEdge
  with_reducible repeat' first
    | assumption
    | apply Keeps.ite
    | apply sendVector_keeps

theorem setInt_keeps {s₀ : State} (a : Nat) (k : Nat) (s : State) (h₀ : Keeps s₀ s) : Keeps s₀ (setInt a k s) := by
  unfold setInt
  with_reducible repeat' first
    | assumption
    | apply vectorEdge_keeps
    | apply wr_keeps

theorem offerPost_keeps {s₀ : State} (src : PostSource) (t : Nat) (s : State) (h₀ : Keeps s₀ s) :
    Keeps s₀ (offerPost src t s) := by
  unfold offerPost
  with_reducible repeat' first
    | apply Keeps.ite
    | apply setInt_keeps
    | (apply Keeps.lit; first | exact Keeps.refl _ | assumption)

theorem raise_keeps {s₀ : State} (a : Nat) (k : Nat) (s : State) (h₀ : Keeps s₀ s) : Keeps s₀ (raise a k s) := by
  unfold raise
  with_reducible repeat' first
    | exact Keeps.refl _
    | assumption
    | (intro _; try dsimp only)
    | apply Keeps.ite
    | apply offerPost_keeps
    | apply setInt_keeps
    | apply Keeps.foldl

theorem countDrop_keeps {s₀ : State} (sev : Nat) (s : State) (h₀ : Keeps s₀ s) : Keeps s₀ (countDrop sev s) := by
  unfold countDrop
  with_reducible repeat' first
    | apply bumpSat_keeps
    | apply raise_keeps
    | (apply Keeps.lit; first | exact Keeps.refl _ | assumption)

theorem setWindow_keeps {s₀ : State} (w : Nat) (x : Window) (s : State) (h₀ : Keeps s₀ s) : Keeps s₀ (setWindow w x s) := by
  unfold setWindow
  with_reducible repeat' (apply Keeps.lit; first | exact Keeps.refl _ | assumption)

theorem endWindow_keeps {s₀ : State} (w : Win) (why : Nat) (s : State) (h₀ : Keeps s₀ s) : Keeps s₀ (endWindow w why s) := by
  unfold endWindow
  with_reducible repeat' first
    | assumption
    | apply Keeps.ite
    | apply setWindow_keeps

theorem flushAsked_keeps {s₀ : State} (sev : Nat) (s : State) (h₀ : Keeps s₀ s) : Keeps s₀ (flushAsked sev s) := by
  unfold flushAsked
  with_reducible repeat' (apply Keeps.lit; first | exact Keeps.refl _ | assumption)

theorem holdWrite_keeps {s₀ : State} (c : Instr) (who : Req) (s : State) (h₀ : Keeps s₀ s) : Keeps s₀ (holdWrite c who s) := by
  unfold holdWrite
  with_reducible repeat' first
    | (apply Keeps.lit; first | exact Keeps.refl _ | assumption | intro _ | apply Keeps.ite | apply Keeps.foldl | apply Keeps.forUpTo)
    | split

theorem hostServe_keeps {s₀ : State} (c : Instr) (ofs : Nat) (f : State → State) (s : State) (h_f : ∀ (u : State), Keeps u (f u))
    (h₀ : Keeps s₀ s) :
    Keeps s₀ (hostServe c ofs f s) := by
  unfold hostServe
  with_reducible repeat' first
    | apply Keeps.ite
    | apply Keeps.app h_f
    | (apply Keeps.lit; first | exact Keeps.refl _ | assumption)

theorem logEvent_keeps {s₀ : State} (src : Nat) (code : Nat) (sev : Nat) (key : Word) (data : List Word) (s : State)
    (h₀ : Keeps s₀ s) :
    Keeps s₀ (logEvent src code sev key data s) := by
  unfold logEvent
  with_reducible repeat' first
    | (apply Keeps.lit; first | exact Keeps.refl _ | assumption | intro _ | apply Keeps.ite | apply countDrop_keeps | apply flushAsked_keeps | apply Keeps.foldl | apply Keeps.forUpTo)
    | split

theorem openEmpty_keeps {s₀ : State} (w : Win) (why : Nat) (s : State) (h₀ : Keeps s₀ s) : Keeps s₀ (openEmpty w why s) := by
  unfold openEmpty
  with_reducible repeat' first
    | assumption
    | apply setWindow_keeps

theorem openWindow_keeps {s₀ : State} (w : Win) (ws : List (BitVec 64)) (pad : Nat) (s : State) (h₀ : Keeps s₀ s) :
    Keeps s₀ (openWindow w ws pad s) := by
  unfold openWindow
  with_reducible repeat' first
    | assumption
    | apply setWindow_keeps

theorem serve_keeps {s₀ : State} (c : Instr) (who : Req) (ofs : Nat) (f : State → State) (s : State) (h_f : ∀ (u : State), Keeps u (f u))
    (h₀ : Keeps s₀ s) :
    Keeps s₀ (serve c who ofs f s) := by
  unfold serve
  with_reducible repeat' first
    | assumption
    | apply Keeps.app h_f
    | apply hostServe_keeps
    | split

theorem setStat_keeps {s₀ : State} (a : Nat) (k : Nat) (b : Bool) (s : State) (h₀ : Keeps s₀ s) : Keeps s₀ (setStat a k b s) := by
  unfold setStat
  with_reducible repeat' first
    | assumption
    | apply wr_keeps

theorem setThread_keeps {s₀ : State} (t : Nat) (x : Thread) (s : State) (h₀ : Keeps s₀ s) : Keeps s₀ (setThread t x s) := by
  unfold setThread
  with_reducible repeat' (apply Keeps.lit; first | exact Keeps.refl _ | assumption)

theorem wr64_keeps {s₀ : State} (a : Nat) (v : Nat) (s : State) (h₀ : Keeps s₀ s) : Keeps s₀ (wr64 a v s) := by
  unfold wr64
  with_reducible repeat' first
    | assumption
    | apply wr_keeps

theorem snapOne_keeps {s₀ : State} (clr : Bool) (a : Nat) (s : State) (h₀ : Keeps s₀ s) : Keeps s₀ (snapOne clr a s) := by
  have h := wr64_keeps a (liveCnt s a) s h₀
  unfold snapOne
  split
  · exact clearLive_keeps _ _ h
  · exact h

theorem snapshot_keeps {s₀ : State} (base n seq : Nat) (clr : Bool) (s : State) (h₀ : Keeps s₀ s) :
    Keeps s₀ (snapshot base n seq clr s) :=
  bumpF_keeps _ _ _ _ (Keeps.forUpTo h₀ fun _ u => snapOne_keeps _ _ u (Keeps.refl u))

theorem wrWords_keeps {s₀ : State} (a : Nat) (l : List Word) (s : State) (h₀ : Keeps s₀ s) : Keeps s₀ (wrWords a l s) := by
  induction l generalizing a s with
  | nil => exact h₀
  | cons w ws ih => exact ih _ _ (wr_keeps _ _ _ h₀)

theorem updateHoldExc_keeps {s₀ : State} (s : State) (h₀ : Keeps s₀ s) : Keeps s₀ (updateHoldExc s) := by
  unfold updateHoldExc
  with_reducible repeat' (apply Keeps.lit; first | exact Keeps.refl _ | assumption)

theorem portCount_keeps {s₀ : State} (p : Nat) (k : Nat) (n : Nat) (s : State) (h₀ : Keeps s₀ s) :
    Keeps s₀ (portCount p k n s) := by
  unfold portCount
  with_reducible repeat' first
    | assumption
    | apply count_keeps

theorem setPort_keeps {s₀ : State} (p : Nat) (x : Port) (s : State) (h₀ : Keeps s₀ s) : Keeps s₀ (setPort p x s) := by
  unfold setPort
  with_reducible repeat' (apply Keeps.lit; first | exact Keeps.refl _ | assumption)

theorem leaveTxLpi_keeps {s₀ : State} (p : Nat) (s : State) (h₀ : Keeps s₀ s) : Keeps s₀ (leaveTxLpi p s) := by
  unfold leaveTxLpi
  with_reducible repeat' first
    | assumption
    | apply Keeps.ite
    | apply portCount_keeps
    | apply setPort_keeps

theorem setLedger_keeps {s₀ : State} (f : Ledger → Ledger) (s : State) (h₀ : Keeps s₀ s) : Keeps s₀ (setLedger f s) := by
  unfold setLedger
  with_reducible repeat' (apply Keeps.lit; first | exact Keeps.refl _ | assumption)

theorem ledgerOverrun_keeps {s₀ : State} (s : State) (h₀ : Keeps s₀ s) : Keeps s₀ (ledgerOverrun s) := by
  unfold ledgerOverrun
  with_reducible repeat' first
    | assumption
    | apply endWindow_keeps
    | apply setLedger_keeps
    | apply wr_keeps

theorem energyOverrun_keeps {s₀ : State} (ws : List Word) (s : State) (h₀ : Keeps s₀ s) : Keeps s₀ (energyOverrun ws s) := by
  unfold energyOverrun
  with_reducible repeat' first
    | assumption
    | apply Keeps.ite
    | apply ledgerOverrun_keeps

theorem eventOverrun_keeps {s₀ : State} (epoch : Nat) (seq : Nat) (s : State) (h₀ : Keeps s₀ s) :
    Keeps s₀ (eventOverrun epoch seq s) := by
  unfold eventOverrun
  with_reducible repeat' first
    | assumption
    | apply Keeps.ite
    | apply ledgerOverrun_keeps

theorem svcReply_keeps {s₀ : State} (cmd : Nat) (status : Nat) (seq : Word) (payload : List Nat) (s : State) (h₀ : Keeps s₀ s) :
    Keeps s₀ (svcReply cmd status seq payload s) := by
  unfold svcReply
  with_reducible repeat' first
    | assumption
    | apply emit_keeps
    | apply drawFree_keeps

theorem putOuts_keeps {s₀ : State} (i : Nat) (ws : List Nat) (s : State) (h₀ : Keeps s₀ s) : Keeps s₀ (putOuts i ws s) := by
  unfold putOuts
  with_reducible repeat' first
    | exact Keeps.refl _
    | assumption
    | (intro _; try dsimp only)
    | apply wr_keeps
    | apply Keeps.forUpTo

theorem putMbox_keeps {s₀ : State} (i : Nat) (bs : List Nat) (s : State) (h₀ : Keeps s₀ s) : Keeps s₀ (putMbox i bs s) := by
  unfold putMbox
  with_reducible repeat' first
    | exact Keeps.refl _
    | assumption
    | (intro _; try dsimp only)
    | apply wr_keeps
    | apply Keeps.forUpTo

theorem putResult_keeps {s₀ : State} (r : TillReq) (o : TillOut) (s : State) (h₀ : Keeps s₀ s) : Keeps s₀ (putResult r o s) := by
  unfold putResult
  with_reducible repeat' first
    | assumption
    | apply Keeps.ite
    | apply putOuts_keeps
    | apply wr_keeps
    | apply raise_keeps
    | apply putMbox_keeps
    | apply svcReply_keeps

theorem abortRunning_keeps {s₀ : State} (s : State) (h₀ : Keeps s₀ s) : Keeps s₀ (abortRunning s) := by
  unfold abortRunning
  with_reducible repeat' first
    | (apply Keeps.lit; first | exact Keeps.refl _ | assumption | intro _ | apply Keeps.ite | apply putResult_keeps | apply Keeps.foldl | apply Keeps.forUpTo)
    | split

theorem setAuth_keeps {s₀ : State} (op : Nat) (x : Option AuthReq) (s : State) (h₀ : Keeps s₀ s) : Keeps s₀ (setAuth op x s) := by
  unfold setAuth
  with_reducible repeat' (apply Keeps.lit; first | exact Keeps.refl _ | assumption)

theorem setSlot_keeps {s₀ : State} (n : Nat) (x : TillSlot) (s : State) (h₀ : Keeps s₀ s) : Keeps s₀ (setSlot n x s) := by
  unfold setSlot
  with_reducible repeat' (apply Keeps.lit; first | exact Keeps.refl _ | assumption)

theorem orphan_keeps {s₀ : State} (n : Nat) (s : State) (h₀ : Keeps s₀ s) : Keeps s₀ (orphan n s) := by
  unfold orphan
  with_reducible repeat' first
    | assumption
    | apply setSlot_keeps

theorem destroySlot_keeps {s₀ : State} (n : Nat) (s : State) (h₀ : Keeps s₀ s) : Keeps s₀ (destroySlot n s) := by
  unfold destroySlot
  with_reducible repeat' first
    | (intro _; try dsimp only)
    | apply orphan_keeps
    | apply setSlot_keeps
    | apply Keeps.foldl
    | (apply Keeps.lit; first | exact Keeps.refl _ | assumption)

theorem applyEffect_keeps {s₀ : State} (e : TillEffect) (s : State) (h₀ : Keeps s₀ s) : Keeps s₀ (applyEffect e s) := by
  unfold applyEffect
  with_reducible repeat' first
    | (intro _; try dsimp only)
    | (apply Keeps.lit; first | exact Keeps.refl _ | assumption | intro _ | apply Keeps.ite | apply logEvent_keeps | apply setAuth_keeps | apply openWindow_keeps | apply wr_keeps | apply raise_keeps | apply destroySlot_keeps | apply setSlot_keeps | apply Keeps.foldl | apply Keeps.forUpTo)
    | split

theorem latchTamper_keeps {s₀ : State} (src : Nat) (s : State) (h₀ : Keeps s₀ s) : Keeps s₀ (latchTamper src s) := by
  unfold latchTamper
  with_reducible repeat' first
    | assumption
    | apply Keeps.ite
    | apply wr_keeps

theorem setOpen_keeps {s₀ : State} (i : Nat) (x : Option TillOpen) (s : State) (h₀ : Keeps s₀ s) : Keeps s₀ (setOpen i x s) := by
  unfold setOpen
  with_reducible repeat' (apply Keeps.lit; first | exact Keeps.refl _ | assumption)

theorem tillFinish_keeps {s₀ : State} (s : State) (h₀ : Keeps s₀ s) : Keeps s₀ (tillFinish s) := by
  unfold tillFinish
  with_reducible repeat' first
    | (apply Keeps.lit; first | exact Keeps.refl _ | assumption | intro _ | apply Keeps.ite | apply applyEffect_keeps | apply putResult_keeps | apply Keeps.foldl | apply Keeps.forUpTo)
    | split

theorem tillStart_keeps {s₀ : State} (s : State) (h₀ : Keeps s₀ s) : Keeps s₀ (tillStart s) := by
  unfold tillStart
  with_reducible repeat' first
    | (apply Keeps.lit; first | exact Keeps.refl _ | assumption | intro _ | apply Keeps.ite | apply setOpen_keeps | apply drawFree_keeps | apply putMbox_keeps | apply Keeps.foldl | apply Keeps.forUpTo)
    | split

theorem zeroizeAll_keeps {s₀ : State} (s : State) (h₀ : Keeps s₀ s) : Keeps s₀ (zeroizeAll s) := by
  unfold zeroizeAll
  with_reducible repeat' (apply Keeps.lit; first | exact Keeps.refl _ | assumption)

theorem egrCount_keeps {s₀ : State} (k : Nat) (n : Nat) (s : State) (h₀ : Keeps s₀ s) : Keeps s₀ (egrCount k n s) := by
  unfold egrCount
  with_reducible repeat' first
    | assumption
    | apply count_keeps

theorem nextItem_keeps {s₀ : State} (s : State) (h₀ : Keeps s₀ s) : Keeps s₀ (nextItem s) := by
  unfold nextItem
  with_reducible repeat' (apply Keeps.lit; first | exact Keeps.refl _ | assumption)

theorem setQueue_keeps {s₀ : State} (q : Nat) (x : Queue) (s : State) (h₀ : Keeps s₀ s) : Keeps s₀ (setQueue q x s) := by
  unfold setQueue
  with_reducible repeat' (apply Keeps.lit; first | exact Keeps.refl _ | assumption)

theorem countFrame_keeps {s₀ : State} (o : Option Nat) (s : State) (h₀ : Keeps s₀ s) : Keeps s₀ (countFrame o s) := by
  unfold countFrame
  with_reducible repeat' first
    | (apply Keeps.lit; first | exact Keeps.refl _ | assumption | intro _ | apply Keeps.ite | apply egrCount_keeps | apply Keeps.foldl | apply Keeps.forUpTo)
    | split

theorem qLand_keeps {s₀ : State} (q : Nat) (i : QItem) (s : State) (h₀ : Keeps s₀ s) : Keeps s₀ (qLand q i s) := by
  unfold qLand
  with_reducible repeat' first
    | assumption
    | apply Keeps.ite
    | apply setQueue_keeps
    | apply countFrame_keeps
    | apply leaveTxLpi_keeps
    | apply raise_keeps

theorem compose_keeps {s₀ : State} (q : Nat) (prio : Nat) (len : Nat) (alarm : Bool) (stream : Option Nat) (body : TxBody) (s : State)
    (h₀ : Keeps s₀ s) :
    Keeps s₀ (compose q prio len alarm stream body s) := by
  unfold compose
  with_reducible repeat' first
    | apply raise_keeps
    | apply qLand_keeps
    | (apply Keeps.lit; first | exact Keeps.refl _ | assumption | intro _ | apply Keeps.ite | apply egrCount_keeps | apply nextItem_keeps)

theorem setPub_keeps {s₀ : State} (p : Nat) (x : PubSt) (s : State) (h₀ : Keeps s₀ s) : Keeps s₀ (setPub p x s) := by
  unfold setPub
  with_reducible repeat' (apply Keeps.lit; first | exact Keeps.refl _ | assumption)

theorem pubTransmit_keeps {s₀ : State} (p : Nat) (s : State) (h₀ : Keeps s₀ s) : Keeps s₀ (pubTransmit p s) := by
  unfold pubTransmit
  with_reducible repeat' first
    | assumption
    | apply Keeps.ite
    | apply egrCount_keeps
    | apply setPub_keeps
    | apply compose_keeps
    | apply raise_keeps
    | split

theorem pubNew_keeps {s₀ : State} (p : Nat) (a : Option AlarmRec) (s : State) (h₀ : Keeps s₀ s) : Keeps s₀ (pubNew p a s) := by
  unfold pubNew
  with_reducible repeat' first
    | assumption
    | apply setPub_keeps
    | apply pubTransmit_keeps
    | split

theorem pubAll_keeps {s₀ : State} (s : State) (h₀ : Keeps s₀ s) : Keeps s₀ (pubAll s) := by
  unfold pubAll
  with_reducible repeat' first
    | exact Keeps.refl _
    | assumption
    | (intro _; try dsimp only)
    | apply Keeps.ite
    | apply pubNew_keeps
    | apply Keeps.foldl

theorem nodeEdge_keeps {s₀ : State} (s : State) (t : State) (h₀ : Keeps s₀ t) : Keeps s₀ (nodeEdge s t) := by
  unfold nodeEdge
  with_reducible repeat' first
    | assumption
    | apply Keeps.ite
    | apply pubAll_keeps

theorem mastTo_keeps {s₀ : State} (st : MastState) (s : State) (h₀ : Keeps s₀ s) : Keeps s₀ (mastTo st s) := by
  unfold mastTo
  with_reducible repeat' first
    | apply nodeEdge_keeps
    | apply raise_keeps
    | (apply Keeps.lit; first | exact Keeps.refl _ | assumption)

theorem updateNodeOk_keeps {s₀ : State} (s : State) (h₀ : Keeps s₀ s) : Keeps s₀ (updateNodeOk s) := by
  unfold updateNodeOk
  with_reducible repeat' first
    | apply nodeEdge_keeps
    | (apply Keeps.lit; first | exact Keeps.refl _ | assumption)

theorem capChange_keeps {s₀ : State} (e : CapEv) (s : State) (h₀ : Keeps s₀ s) : Keeps s₀ (capChange e s) := by
  unfold capChange
  with_reducible repeat' (apply Keeps.lit; first | exact Keeps.refl _ | assumption)

theorem capEvent_keeps {s₀ : State} (src : Nat) (time : Nat) (level : Bool) (edge : Bool) (s : State) (h₀ : Keeps s₀ s) :
    Keeps s₀ (capEvent src time level edge s) := by
  unfold capEvent
  with_reducible repeat' first
    | assumption
    | apply capChange_keeps

theorem setEntry_keeps {s₀ : State} (e : Nat) (x : SchEntry) (s : State) (h₀ : Keeps s₀ s) : Keeps s₀ (setEntry e x s) := by
  unfold setEntry
  with_reducible repeat' (apply Keeps.lit; first | exact Keeps.refl _ | assumption)

theorem schTarget_keeps {s₀ : State} (e : Nat) (s : State) (h₀ : Keeps s₀ s) : Keeps s₀ (schTarget e s) := by
  unfold schTarget
  try dsimp only
  with_reducible repeat' first
    | (apply Keeps.lit; first | exact Keeps.refl _ | assumption | intro _ | apply Keeps.ite | apply setEntry_keeps | apply raise_keeps | apply capEvent_keeps | apply Keeps.foldl | apply Keeps.forUpTo)
    | split

theorem schOccur_keeps {s₀ : State} (e : Nat) (late : Bool) (s : State) (h₀ : Keeps s₀ s) : Keeps s₀ (schOccur e late s) := by
  unfold schOccur
  with_reducible repeat' first
    | assumption
    | apply Keeps.ite
    | apply schTarget_keeps
    | apply setEntry_keeps
    | apply raise_keeps

theorem storePast_keeps {s₀ : State} (e : Nat) (x : SchEntry) (s : State) (h₀ : Keeps s₀ s) : Keeps s₀ (storePast e x s) := by
  unfold storePast
  with_reducible repeat' first
    | assumption
    | apply Keeps.ite
    | apply setEntry_keeps
    | apply schOccur_keeps
    | apply raise_keeps

theorem schStore_keeps {s₀ : State} (s : State) (h₀ : Keeps s₀ s) : Keeps s₀ (schStore s) := by
  unfold schStore
  with_reducible repeat' first
    | assumption
    | apply Keeps.ite
    | apply wrF_keeps
    | apply setEntry_keeps
    | apply storePast_keeps

theorem sendPfcWith_keeps {s₀ : State} (f : Port → Port) (p : Nat) (quanta : Nat) (s : State) (h₀ : Keeps s₀ s) :
    Keeps s₀ (sendPfcWith f p quanta s) := by
  unfold sendPfcWith
  with_reducible repeat' first
    | assumption
    | apply portCount_keeps
    | apply emit_keeps
    | apply leaveTxLpi_keeps
    | apply setPort_keeps

theorem sendPfc_keeps {s₀ : State} (p : Nat) (quanta : Nat) (s : State) (h₀ : Keeps s₀ s) : Keeps s₀ (sendPfc p quanta s) := by
  unfold sendPfc
  with_reducible repeat' first
    | assumption
    | apply sendPfcWith_keeps

theorem bufReach_keeps {s₀ : State} (p : Nat) (bytes : Nat) (s : State) (h₀ : Keeps s₀ s) : Keeps s₀ (bufReach p bytes s) := by
  unfold bufReach
  with_reducible repeat' first
    | assumption
    | apply Keeps.ite
    | apply sendPfc_keeps
    | apply setPort_keeps

theorem linkChange_keeps {s₀ : State} (p : Nat) (up : Bool) (anDone : Bool) (s : State) (h₀ : Keeps s₀ s) :
    Keeps s₀ (linkChange p up anDone s) := by
  unfold linkChange
  with_reducible repeat' first
    | assumption
    | apply Keeps.ite
    | apply portCount_keeps
    | apply raise_keeps
    | apply setPort_keeps

theorem offerDesc_keeps {s₀ : State} (p : Nat) (i : Nat) (buf : Nat) (s : State) (h₀ : Keeps s₀ s) :
    Keeps s₀ (offerDesc p i buf s) := by
  unfold offerDesc
  with_reducible repeat' first
    | assumption
    | apply setPort_keeps

theorem putDesc_keeps {s₀ : State} (p : Nat) (w1 : Nat) (w2 : Nat) (w3 : Nat) (bytes : List Nat) (s : State) (h₀ : Keeps s₀ s) :
    Keeps s₀ (putDesc p w1 w2 w3 bytes s) := by
  unfold putDesc
  with_reducible repeat' first
    | assumption
    | apply wr_keeps
    | apply setPort_keeps

theorem putFrame_keeps {s₀ : State} (p : Nat) (len : Nat) (cls : Nat) (pcp : Nat) (tci : Nat) (seq : Nat) (tagged : Bool) (stamped : Bool) (lost : Bool) (whole : Bool) (bytes : List Nat) (k : Nat) (s : State)
    (h₀ : Keeps s₀ s) :
    Keeps s₀ (putFrame p len cls pcp tci seq tagged stamped lost whole bytes k s) := by
  unfold putFrame
  with_reducible repeat' first
    | exact Keeps.refl _
    | assumption
    | (intro _; try dsimp only)
    | apply putDesc_keeps
    | apply Keeps.forUpTo

theorem rearmPort_keeps {s₀ : State} (p : Nat) (s : State) (h₀ : Keeps s₀ s) : Keeps s₀ (rearmPort p s) := by
  unfold rearmPort
  with_reducible repeat' first
    | assumption
    | apply Keeps.ite
    | apply wr_keeps
    | apply setPort_keeps

theorem setFifo_keeps {s₀ : State} (k : Nat) (l : List IngItem) (s : State) (h₀ : Keeps s₀ s) : Keeps s₀ (setFifo k l s) := by
  unfold setFifo
  with_reducible repeat' (apply Keeps.lit; first | exact Keeps.refl _ | assumption)

theorem refillFifo_keeps {s₀ : State} (k : Nat) (s : State) (h₀ : Keeps s₀ s) : Keeps s₀ (refillFifo k s) := by
  unfold refillFifo
  with_reducible repeat' first
    | assumption
    | apply setFifo_keeps
    | apply raise_keeps
    | apply setPort_keeps
    | split

theorem rxReady_keeps {s₀ : State} (p : Nat) (s : State) (h₀ : Keeps s₀ s) : Keeps s₀ (rxReady p s) := by
  unfold rxReady
  with_reducible repeat' first
    | assumption
    | apply Keeps.ite
    | apply raise_keeps
    | apply setPort_keeps

theorem toIngest_keeps {s₀ : State} (i : IngItem) (s : State) (h₀ : Keeps s₀ s) : Keeps s₀ (toIngest i s) := by
  unfold toIngest
  with_reducible repeat' first
    | assumption
    | apply Keeps.ite
    | apply setFifo_keeps
    | apply raise_keeps
    | apply setPort_keeps

theorem tsqRefuse_keeps {s₀ : State} (p : Nat) (egress : Bool) (tag : Nat) (s : State) (h₀ : Keeps s₀ s) :
    Keeps s₀ (tsqRefuse p egress tag s) := by
  unfold tsqRefuse
  with_reducible repeat' first
    | assumption
    | apply Keeps.ite
    | apply setStat_keeps
    | apply portCount_keeps
    | apply wrF_keeps
    | apply raise_keeps

theorem tsqPush_keeps {s₀ : State} (p : Nat) (egress : Bool) (msg : Nat) (tag : Nat) (stamp : Nat) (s : State) (h₀ : Keeps s₀ s) :
    Keeps s₀ (tsqPush p egress msg tag stamp s).1 := by
  unfold tsqPush
  try dsimp only
  with_reducible repeat' first
    | assumption
    | apply tsqRefuse_keeps
    | apply raise_keeps
    | apply setPort_keeps
    | split

theorem toRing_keeps {s₀ : State} (p : Nat) (len : Nat) (cls : Nat) (pcp : Nat) (tci : Option (BitVec 16)) (event : Option (Nat × Nat)) (bytes : List Nat) (s : State)
    (h₀ : Keeps s₀ s) :
    Keeps s₀ (toRing p len cls pcp tci event bytes s) := by
  unfold toRing
  with_reducible repeat' first
    | assumption
    | apply Keeps.ite
    | apply portCount_keeps
    | apply tsqPush_keeps
    | apply putFrame_keeps
    | apply rxReady_keeps
    | apply raise_keeps
    | split

theorem setStream_keeps {s₀ : State} (n : Nat) (x : StreamSt) (s : State) (h₀ : Keeps s₀ s) : Keeps s₀ (setStream n x s) := by
  unfold setStream
  with_reducible repeat' (apply Keeps.lit; first | exact Keeps.refl _ | assumption)

theorem handOver_keeps {s₀ : State} (n : Nat) (inst : Nat) (v : Slot) (s : State) (h₀ : Keeps s₀ s) :
    Keeps s₀ (handOver n inst v s) := by
  unfold handOver
  with_reducible repeat' (apply Keeps.lit; first | exact Keeps.refl _ | assumption)

theorem measureStream_keeps {s₀ : State} (n : Nat) (c : StreamCfg) (u : Int) (s : State) (h₀ : Keeps s₀ s) :
    Keeps s₀ (measureStream n c u s) := by
  unfold measureStream
  with_reducible repeat' first
    | apply setStream_keeps
    | (apply Keeps.lit; first | exact Keeps.refl _ | assumption)

theorem filtHand_keeps {s₀ : State} (n : Nat) (cfg : StreamCfg) (k : Nat) (arrival : Nat) (s : State) (h₀ : Keeps s₀ s) :
    Keeps s₀ (filtHand n cfg k arrival s) := by
  unfold filtHand
  with_reducible repeat' first
    | exact Keeps.refl _
    | assumption
    | (intro _; try dsimp only)
    | apply Keeps.ite
    | apply setStream_keeps
    | apply handOver_keeps
    | apply measureStream_keeps
    | apply Keeps.foldl

theorem setTab_keeps {s₀ : State} (t : Tableau) (s : State) (h₀ : Keeps s₀ s) : Keeps s₀ (setTab t s) := by
  unfold setTab
  with_reducible repeat' (apply Keeps.lit; first | exact Keeps.refl _ | assumption)

theorem capAlarm_keeps {s₀ : State} (r : Nat) (inst : Nat) (level : Bool) (quiet : Bool) (s : State) (h₀ : Keeps s₀ s) :
    Keeps s₀ (capAlarm r inst level quiet s) := by
  unfold capAlarm
  with_reducible repeat' first
    | exact Keeps.refl _
    | assumption
    | (intro _; try dsimp only)
    | apply Keeps.ite
    | apply capChange_keeps
    | apply Keeps.forUpTo

theorem setRule_keeps {s₀ : State} (r : Nat) (x : RuleSt) (s : State) (h₀ : Keeps s₀ s) : Keeps s₀ (setRule r x s) := by
  unfold setRule
  with_reducible repeat' (apply Keeps.lit; first | exact Keeps.refl _ | assumption)

theorem sendAlarm_keeps {s₀ : State} (r : Nat) (inst : Nat) (c : RuleCfg) (a : AlarmRec) (s : State) (h₀ : Keeps s₀ s) :
    Keeps s₀ (sendAlarm r inst c a s) := by
  unfold sendAlarm
  with_reducible repeat' first
    | assumption
    | apply Keeps.ite
    | apply egrCount_keeps
    | apply setRule_keeps
    | apply compose_keeps
    | apply pubNew_keeps
    | apply wr_keeps
    | apply raise_keeps

theorem ruleResult_keeps {s₀ : State} (r : Nat) (inst : Nat) (step : Nat) (c : RuleCfg) (cond : Bool) (vals : List Word) (a : AlarmRec) (s : State)
    (h₀ : Keeps s₀ s) :
    Keeps s₀ (ruleResult r inst step c cond vals a s) := by
  unfold ruleResult
  with_reducible repeat' first
    | assumption
    | apply Keeps.ite
    | apply setRule_keeps
    | apply sendAlarm_keeps
    | apply capAlarm_keeps
    | split

theorem classOutput_keeps {s₀ : State} (cls : Nat) (em : Bool) (inst : Nat) (tag : Nat) (early : Bool) (value : Bool) (suspect : Bool) (s : State)
    (h₀ : Keeps s₀ s) :
    Keeps s₀ (classOutput cls em inst tag early value suspect s) := by
  unfold classOutput
  with_reducible repeat' first
    | exact Keeps.refl _
    | assumption
    | (intro _; try dsimp only)
    | apply egrCount_keeps
    | apply ruleResult_keeps
    | apply drawFree_keeps
    | apply Keeps.foldl

theorem evalRule_keeps {s₀ : State} (r : Nat) (inst : Nat) (tag : Nat) (early : Bool) (s : State) (h₀ : Keeps s₀ s) :
    Keeps s₀ (evalRule r inst tag early s) := by
  unfold evalRule
  with_reducible repeat' first
    | assumption
    | apply egrCount_keeps
    | apply ruleResult_keeps
    | apply drawFree_keeps
    | split

theorem finalMessage_keeps {s₀ : State} (inst : Nat) (rev : Nat) (s : State) (p : Nat × RuleCfg) (h₀ : Keeps s₀ s) :
    Keeps s₀ (finalMessage inst rev s p) := by
  unfold finalMessage
  try dsimp only
  with_reducible repeat' first
    | assumption
    | apply setRule_keeps
    | apply sendAlarm_keeps
    | split

theorem rulesClose_keeps {s₀ : State} (inst : Nat) (rev : Nat) (s : State) (h₀ : Keeps s₀ s) :
    Keeps s₀ (rulesClose inst rev s) := by
  unfold rulesClose
  with_reducible repeat' first
    | exact Keeps.refl _
    | assumption
    | (intro _; try dsimp only)
    | apply finalMessage_keeps
    | apply Keeps.foldl

theorem setOut_keeps {s₀ : State} (k : Nat) (x : OutSt) (s : State) (h₀ : Keeps s₀ s) : Keeps s₀ (setOut k x s) := by
  unfold setOut
  with_reducible repeat' (apply Keeps.lit; first | exact Keeps.refl _ | assumption)

theorem sendOut_keeps {s₀ : State} (k : Nat) (c : OutCfg) (m : Nat) (rev : Nat) (final : Bool) (s : State) (h₀ : Keeps s₀ s) :
    Keeps s₀ (sendOut k c m rev final s) := by
  unfold sendOut
  with_reducible repeat' first
    | assumption
    | apply compose_keeps
    | apply setOut_keeps

theorem outClose_keeps {s₀ : State} (k : Nat) (c : OutCfg) (inst : Nat) (rev : Nat) (s : State) (h₀ : Keeps s₀ s) :
    Keeps s₀ (outClose k c inst rev s) := by
  unfold outClose
  with_reducible repeat' first
    | assumption
    | apply sendOut_keeps
    | apply setOut_keeps
    | split

theorem outRevision_keeps {s₀ : State} (k : Nat) (c : OutCfg) (inst : Nat) (rev : Nat) (changed : List Nat) (s : State)
    (h₀ : Keeps s₀ s) :
    Keeps s₀ (outRevision k c inst rev changed s) := by
  unfold outRevision
  with_reducible repeat' first
    | exact Keeps.refl _
    | assumption
    | (intro _; try dsimp only)
    | apply Keeps.ite
    | apply sendOut_keeps
    | apply Keeps.foldl

theorem outSeal_keeps {s₀ : State} (k : Nat) (c : OutCfg) (inst : Nat) (s : State) (h₀ : Keeps s₀ s) :
    Keeps s₀ (outSeal k c inst s) := by
  unfold outSeal
  with_reducible repeat' first
    | assumption
    | apply sendOut_keeps
    | split

theorem setPair_keeps {s₀ : State} (f : Pair → Pair) (s : State) (h₀ : Keeps s₀ s) : Keeps s₀ (setPair f s) := by
  unfold setPair
  with_reducible repeat' (apply Keeps.lit; first | exact Keeps.refl _ | assumption)

theorem setShroud_keeps {s₀ : State} (l : Nat) (x : Shroud) (s : State) (h₀ : Keeps s₀ s) : Keeps s₀ (setShroud l x s) := by
  unfold setShroud
  with_reducible repeat' first
    | assumption
    | apply setPair_keeps

theorem shroudOut_keeps {s₀ : State} (l : Nat) (typ : Nat) (ws : List Word) (s : State) (h₀ : Keeps s₀ s) :
    Keeps s₀ (shroudOut l typ ws s) := by
  unfold shroudOut
  with_reducible repeat' first
    | assumption
    | apply setShroud_keeps
    | apply emit_keeps

theorem shroudSend_keeps {s₀ : State} (l : Nat) (typ : Nat) (ws : List Word) (s : State) (h₀ : Keeps s₀ s) :
    Keeps s₀ (shroudSend l typ ws s) := by
  unfold shroudSend
  with_reducible repeat' first
    | assumption
    | apply Keeps.ite
    | apply setShroud_keeps
    | apply shroudOut_keeps

theorem bulkSend_keeps {s₀ : State} (typ : Nat) (ws : List Word) (s : State) (h₀ : Keeps s₀ s) :
    Keeps s₀ (bulkSend typ ws s) := by
  unfold bulkSend
  with_reducible repeat' first
    | assumption
    | apply shroudSend_keeps

theorem drainWaits_keeps {s₀ : State} (l : Nat) (w : List (Nat × List Word)) (s : State) (h₀ : Keeps s₀ s) :
    Keeps s₀ (drainWaits l w s) := by
  induction w generalizing s with
  | nil => exact h₀
  | cons w r ih =>
    unfold drainWaits
    split
    · exact ih _ (shroudOut_keeps _ _ _ _ (setShroud_keeps _ _ _ h₀))
    · exact h₀

theorem creditsBack_keeps {s₀ : State} (l : Nat) (n : Nat) (s : State) (h₀ : Keeps s₀ s) : Keeps s₀ (creditsBack l n s) := by
  unfold creditsBack
  with_reducible repeat' first
    | assumption
    | apply setShroud_keeps
    | apply drainWaits_keeps

theorem pairRecord_keeps {s₀ : State} (code : Nat) (sev : Nat) (key : Nat) (data : List Word) (s : State) (h₀ : Keeps s₀ s) :
    Keeps s₀ (pairRecord code sev key data s) := by
  unfold pairRecord
  with_reducible repeat' first
    | assumption
    | apply logEvent_keeps

theorem shrCount_keeps {s₀ : State} (k : Nat) (n : Nat) (s : State) (h₀ : Keeps s₀ s) : Keeps s₀ (shrCount k n s) := by
  unfold shrCount
  with_reducible repeat' first
    | assumption
    | apply count_keeps

theorem digOutcome_keeps {s₀ : State} (m : Nat) (s : State) (h₀ : Keeps s₀ s) : Keeps s₀ (digOutcome m s) := by
  unfold digOutcome
  with_reducible repeat' first
    | assumption
    | apply Keeps.ite
    | apply pairRecord_keeps
    | apply raise_keeps
    | apply setPair_keeps
    | apply shrCount_keeps

theorem digCompare_keeps {s₀ : State} (inst : Nat) (s : State) (h₀ : Keeps s₀ s) : Keeps s₀ (digCompare inst s) := by
  unfold digCompare
  with_reducible repeat' first
    | assumption
    | apply setPair_keeps
    | apply digOutcome_keeps
    | split

theorem digSend_keeps {s₀ : State} (s : State) (h₀ : Keeps s₀ s) : Keeps s₀ (digSend s) := by
  unfold digSend
  with_reducible repeat' first
    | assumption
    | apply Keeps.ite
    | apply bulkSend_keeps
    | apply setPair_keeps

theorem digestClose_keeps {s₀ : State} (inst : Nat) (rev : Nat) (s : State) (h₀ : Keeps s₀ s) :
    Keeps s₀ (digestClose inst rev s) := by
  unfold digestClose
  with_reducible repeat' first
    | assumption
    | apply Keeps.ite
    | apply digCompare_keeps
    | apply digSend_keeps
    | apply setPair_keeps
    | split

theorem setScales_keeps {s₀ : State} (f : Scales → Scales) (s : State) (h₀ : Keeps s₀ s) : Keeps s₀ (setScales f s) := by
  unfold setScales
  with_reducible repeat' (apply Keeps.lit; first | exact Keeps.refl _ | assumption)

theorem setEnergy_keeps {s₀ : State} (f : Energy → Energy) (s : State) (h₀ : Keeps s₀ s) : Keeps s₀ (setEnergy f s) := by
  unfold setEnergy
  with_reducible repeat' first
    | assumption
    | apply setScales_keeps

theorem setMeter_keeps {s₀ : State} (k : Nat) (x : Meter) (s : State) (h₀ : Keeps s₀ s) : Keeps s₀ (setMeter k x s) := by
  unfold setMeter
  with_reducible repeat' first
    | assumption
    | apply setEnergy_keeps

theorem setInfo_keeps {s₀ : State} (k : Nat) (f : EnPoint → EnPoint) (s : State) (h₀ : Keeps s₀ s) :
    Keeps s₀ (setInfo k f s) := by
  unfold setInfo
  with_reducible repeat' first
    | assumption
    | apply setMeter_keeps

theorem adoptPoint_keeps {s₀ : State} (k : Nat) (s : State) (h₀ : Keeps s₀ s) : Keeps s₀ (adoptPoint k s) := by
  unfold adoptPoint
  with_reducible repeat' first
    | (apply Keeps.lit; first | exact Keeps.refl _ | assumption | intro _ | apply Keeps.ite | apply setInfo_keeps | apply pairRecord_keeps | apply Keeps.foldl | apply Keeps.forUpTo)
    | split

theorem onInterval_keeps {s₀ : State} (k : Nat) (f : Interval → Interval) (s : State) (h₀ : Keeps s₀ s) :
    Keeps s₀ (onInterval k f s) := by
  unfold onInterval
  with_reducible repeat' first
    | assumption
    | apply setInfo_keeps
    | apply setMeter_keeps
    | split

theorem checkBit_keeps {s₀ : State} (k : Nat) (b : Nat) (cond : Bool) (s : State) (h₀ : Keeps s₀ s) :
    Keeps s₀ (checkBit k b cond s) := by
  unfold checkBit
  with_reducible repeat' first
    | assumption
    | apply Keeps.ite
    | apply setStat_keeps
    | apply logEvent_keeps
    | apply setMeter_keeps
    | apply raise_keeps
    | apply onInterval_keeps

theorem checkPoint_keeps {s₀ : State} (s : State) (k : Nat) (h₀ : Keeps s₀ s) : Keeps s₀ (checkPoint s k) := by
  unfold checkPoint
  with_reducible repeat' first
    | exact Keeps.refl _
    | assumption
    | (intro _; try dsimp only)
    | apply Keeps.ite
    | apply checkBit_keeps
    | apply Keeps.forUpTo

theorem keepInterval_keeps {s₀ : State} (ws : List Word) (s : State) (h₀ : Keeps s₀ s) : Keeps s₀ (keepInterval ws s) := by
  unfold keepInterval
  with_reducible repeat' first
    | assumption
    | apply Keeps.ite
    | apply energyOverrun_keeps
    | apply setEnergy_keeps
    | apply raise_keeps

theorem writeInterval_keeps {s₀ : State} (whole : Bool) (k : Nat) (wrap : Nat) (cycles : Nat) (bound : Nat) (x : Interval) (s : State)
    (h₀ : Keeps s₀ s) :
    Keeps s₀ (writeInterval whole k wrap cycles bound x s) := by
  unfold writeInterval
  with_reducible repeat' first
    | assumption
    | apply Keeps.ite
    | apply keepInterval_keeps
    | apply setInfo_keeps
    | apply adoptPoint_keeps
    | apply raise_keeps

theorem writeClosing_keeps {s₀ : State} (k : Nat) (s : State) (h₀ : Keeps s₀ s) : Keeps s₀ (writeClosing k s) := by
  unfold writeClosing
  with_reducible repeat' first
    | assumption
    | apply setMeter_keeps
    | apply writeInterval_keeps
    | split

theorem closeBefore_keeps {s₀ : State} (k : Nat) (tag : Nat) (s : State) (h₀ : Keeps s₀ s) : Keeps s₀ (closeBefore k tag s) := by
  unfold closeBefore
  with_reducible repeat' first
    | assumption
    | apply writeClosing_keeps
    | split

theorem closeGap_keeps {s₀ : State} (tag : Nat) (s : State) (h₀ : Keeps s₀ s) : Keeps s₀ (closeGap tag s) := by
  unfold closeGap
  with_reducible repeat' first
    | assumption
    | apply setEnergy_keeps
    | apply raise_keeps
    | split

theorem closeOverdue_keeps {s₀ : State} (s : State) (h₀ : Keeps s₀ s) : Keeps s₀ (closeOverdue s) := by
  unfold closeOverdue
  with_reducible repeat' first
    | exact Keeps.refl _
    | assumption
    | (intro _; try dsimp only)
    | apply writeClosing_keeps
    | apply Keeps.foldl
    | split

theorem dirChange_keeps {s₀ : State} (k : Nat) (new : Bool) (s : State) (h₀ : Keeps s₀ s) : Keeps s₀ (dirChange k new s) := by
  unfold dirChange
  try dsimp only
  with_reducible repeat' first
    | assumption
    | apply setInfo_keeps
    | apply wrF_keeps
    | apply raise_keeps
    | apply onInterval_keeps
    | split

theorem endInterval_keeps {s₀ : State} (wrap : Nat) (bound : Nat) (s : State) (k : Nat) (h₀ : Keeps s₀ s) :
    Keeps s₀ (endInterval wrap bound s k) := by
  unfold endInterval
  with_reducible repeat' first
    | assumption
    | apply Keeps.ite
    | apply wrF_keeps
    | apply setMeter_keeps
    | apply writeClosing_keeps

theorem endPoint_keeps {s₀ : State} (reefed : Bool) (s : State) (k : Nat) (h₀ : Keeps s₀ s) : Keeps s₀ (endPoint reefed s k) := by
  unfold endPoint
  with_reducible repeat' first
    | assumption
    | apply Keeps.ite
    | apply wrF_keeps
    | apply setMeter_keeps
    | apply writeClosing_keeps
    | apply writeInterval_keeps

theorem energySave_keeps {s₀ : State} (ok : Bool) (reefed : Bool) (s : State) (h₀ : Keeps s₀ s) :
    Keeps s₀ (energySave ok reefed s) := by
  unfold energySave
  with_reducible repeat' first
    | assumption
    | apply Keeps.ite
    | apply setEnergy_keeps
    | apply bulkSend_keeps
    | apply wrF_keeps
    | apply wr_keeps
    | apply raise_keeps

theorem ownSave_keeps {s₀ : State} (reefed : Bool) (s : State) (h₀ : Keeps s₀ s) : Keeps s₀ (ownSave reefed s) := by
  unfold ownSave
  with_reducible repeat' first
    | assumption
    | apply energySave_keeps
    | apply drawFree_keeps

theorem reefDone_keeps {s₀ : State} (s : State) (h₀ : Keeps s₀ s) : Keeps s₀ (reefDone s) := by
  unfold reefDone
  with_reducible repeat' first
    | exact Keeps.refl _
    | assumption
    | (intro _; try dsimp only)
    | apply ownSave_keeps
    | apply endPoint_keeps
    | apply setEnergy_keeps
    | apply wrF_keeps
    | apply raise_keeps
    | apply Keeps.foldl

theorem energyReef_keeps {s₀ : State} (s : State) (h₀ : Keeps s₀ s) : Keeps s₀ (energyReef s) := by
  unfold energyReef
  with_reducible repeat' first
    | assumption
    | apply Keeps.ite
    | apply setEnergy_keeps
    | apply reefDone_keeps

theorem energyRestore_keeps {s₀ : State} (s : State) (h₀ : Keeps s₀ s) : Keeps s₀ (energyRestore s) := by
  unfold energyRestore
  with_reducible repeat' first
    | assumption
    | apply setEnergy_keeps
    | apply wrF_keeps
    | apply wr_keeps
    | split

theorem reefSettle_keeps {s₀ : State} (s : State) (h₀ : Keeps s₀ s) : Keeps s₀ (reefSettle s) := by
  unfold reefSettle
  with_reducible repeat' first
    | assumption
    | apply Keeps.ite
    | apply reefDone_keeps

theorem energyResume_keeps {s₀ : State} (s : State) (h₀ : Keeps s₀ s) : Keeps s₀ (energyResume s) := by
  unfold energyResume
  with_reducible repeat' first
    | exact Keeps.refl _
    | assumption
    | (intro _; try dsimp only)
    | apply setEnergy_keeps
    | apply wrF_keeps
    | apply setMeter_keeps
    | apply reefSettle_keeps
    | apply Keeps.foldl

theorem markUcal_keeps {s₀ : State} (p : State → Nat → Bool) (s : State) (h₀ : Keeps s₀ s) : Keeps s₀ (markUcal p s) := by
  unfold markUcal
  with_reducible repeat' first
    | exact Keeps.refl _
    | assumption
    | (intro _; try dsimp only)
    | apply Keeps.ite
    | apply setInfo_keeps
    | apply Keeps.foldl

theorem startMean_keeps {s₀ : State} (k : Nat) (tag : Nat) (s : State) (h₀ : Keeps s₀ s) : Keeps s₀ (startMean k tag s) := by
  unfold startMean
  with_reducible repeat' first
    | assumption
    | apply Keeps.ite
    | apply setInfo_keeps
    | apply setMeter_keeps
    | apply onInterval_keeps

theorem meterMean_keeps {s₀ : State} (k : Nat) (n : Nat) (s : State) (h₀ : Keeps s₀ s) : Keeps s₀ (meterMean k n s) := by
  unfold meterMean
  with_reducible repeat' first
    | assumption
    | apply dirChange_keeps
    | apply setEnergy_keeps
    | apply setInfo_keeps
    | apply startMean_keeps
    | apply wr_keeps
    | apply closeBefore_keeps
    | apply closeGap_keeps
    | apply onInterval_keeps

theorem reefSample_keeps {s₀ : State} (k : Nat) (s : State) (h₀ : Keeps s₀ s) : Keeps s₀ (reefSample k s) := by
  unfold reefSample
  try dsimp only
  with_reducible repeat' first
    | assumption
    | apply setMeter_keeps
    | split

theorem saveAtSample_keeps {s₀ : State} (s : State) (h₀ : Keeps s₀ s) : Keeps s₀ (saveAtSample s) := by
  unfold saveAtSample
  with_reducible repeat' first
    | assumption
    | apply Keeps.ite
    | apply ownSave_keeps
    | apply setEnergy_keeps
    | apply energySave_keeps
    | apply closeOverdue_keeps
    | split

theorem meterSample_keeps {s₀ : State} (k : Nat) (tag : Nat) (mark : Nat) (vs : List Int) (cs : List Int) (s : State)
    (h₀ : Keeps s₀ s) :
    Keeps s₀ (meterSample k tag mark vs cs s) := by
  unfold meterSample
  with_reducible repeat' first
    | assumption
    | apply Keeps.ite
    | apply meterMean_keeps
    | apply setEnergy_keeps
    | apply reefSample_keeps
    | apply saveAtSample_keeps
    | apply setMeter_keeps
    | apply reefDone_keeps

theorem stepPoints_keeps {s₀ : State} (s : State) (h₀ : Keeps s₀ s) : Keeps s₀ (stepPoints s) := by
  unfold stepPoints
  with_reducible repeat' first
    | exact Keeps.refl _
    | assumption
    | (intro _; try dsimp only)
    | apply Keeps.ite
    | apply setInfo_keeps
    | apply Keeps.foldl

theorem ucalPoints_keeps {s₀ : State} (ch : Nat) (s : State) (h₀ : Keeps s₀ s) : Keeps s₀ (ucalPoints ch s) := by
  unfold ucalPoints
  with_reducible repeat' first
    | assumption
    | apply markUcal_keeps

theorem ucalSvPoints_keeps {s₀ : State} (i : Nat) (ch : Nat) (s : State) (h₀ : Keeps s₀ s) : Keeps s₀ (ucalSvPoints i ch s) := by
  unfold ucalSvPoints
  with_reducible repeat' first
    | assumption
    | apply markUcal_keeps

theorem feedWindow_keeps {s₀ : State} (w : Nat) (bs : List Nat) (last : Bool) (s : State) (h₀ : Keeps s₀ s) :
    Keeps s₀ (feedWindow w bs last s) := by
  unfold feedWindow
  with_reducible repeat' first
    | assumption
    | apply Keeps.ite
    | apply setWindow_keeps

theorem mktCount_keeps {s₀ : State} (k : Nat) (n : Nat) (s : State) (h₀ : Keeps s₀ s) : Keeps s₀ (mktCount k n s) := by
  unfold mktCount
  with_reducible repeat' first
    | assumption
    | apply count_keeps

theorem openMore_keeps {s₀ : State} (w : Win) (s : State) (h₀ : Keeps s₀ s) : Keeps s₀ (openMore w s) := by
  unfold openMore
  with_reducible repeat' first
    | assumption
    | apply setWindow_keeps

theorem ribMiss_keeps {s₀ : State} (n : Nat) (s : State) (h₀ : Keeps s₀ s) : Keeps s₀ (ribMiss n s) := by
  unfold ribMiss
  with_reducible repeat' first
    | apply raise_keeps
    | apply mktCount_keeps
    | (apply Keeps.lit; first | exact Keeps.refl _ | assumption)

theorem ribLose_keeps {s₀ : State} (s : State) (h₀ : Keeps s₀ s) : Keeps s₀ (ribLose s) := by
  unfold ribLose
  with_reducible repeat' first
    | apply Keeps.ite
    | apply ribMiss_keeps
    | (apply Keeps.lit; first | exact Keeps.refl _ | assumption)

theorem xfEnd_keeps {s₀ : State} (result : Nat) (s : State) (h₀ : Keeps s₀ s) : Keeps s₀ (xfEnd result s) := by
  unfold xfEnd
  with_reducible repeat' first
    | apply wrF_keeps
    | apply raise_keeps
    | (apply Keeps.lit; first | exact Keeps.refl _ | assumption)

theorem ribOverwrite_keeps {s₀ : State} (first : Nat) (s : State) (h₀ : Keeps s₀ s) : Keeps s₀ (ribOverwrite first s) := by
  unfold ribOverwrite
  try dsimp only
  with_reducible repeat' first
    | assumption
    | apply setStat_keeps
    | apply xfEnd_keeps
    | apply endWindow_keeps
    | split

theorem ribReport_keeps {s₀ : State} (s : State) (h₀ : Keeps s₀ s) : Keeps s₀ (ribReport s) := by
  unfold ribReport
  with_reducible repeat' first
    | assumption
    | apply Keeps.ite
    | apply wr64_keeps
    | apply wr_keeps
    | apply raise_keeps

theorem ribPut_keeps {s₀ : State} (b : RibBlock) (s : State) (h₀ : Keeps s₀ s) : Keeps s₀ (ribPut b s) := by
  unfold ribPut
  with_reducible repeat' first
    | (intro _; try dsimp only)
    | apply ribOverwrite_keeps
    | apply ribReport_keeps
    | apply Keeps.foldl
    | (apply Keeps.lit; first | exact Keeps.refl _ | assumption)

theorem ribTakeOne_keeps {s₀ : State} (s : State) (h₀ : Keeps s₀ s) : Keeps s₀ (ribTakeOne s) := by
  unfold ribTakeOne
  with_reducible repeat' first
    | (apply Keeps.lit; first | exact Keeps.refl _ | assumption | intro _ | apply Keeps.ite | apply Keeps.foldl | apply Keeps.forUpTo)
    | split

theorem ribTake_keeps {s₀ : State} (s : State) (h₀ : Keeps s₀ s) : Keeps s₀ (ribTake s) := by
  unfold ribTake
  with_reducible repeat' first
    | exact Keeps.refl _
    | assumption
    | (intro _; try dsimp only)
    | apply ribTakeOne_keeps
    | apply Keeps.forUpTo

theorem pakCount_keeps {s₀ : State} (k : Nat) (n : Nat) (s : State) (h₀ : Keeps s₀ s) : Keeps s₀ (pakCount k n s) := by
  unfold pakCount
  with_reducible repeat' first
    | assumption
    | apply count_keeps

theorem countBlock_keeps {s₀ : State} (b : PakBlock) (out : List Nat) (s : State) (h₀ : Keeps s₀ s) :
    Keeps s₀ (countBlock b out s) := by
  unfold countBlock
  with_reducible repeat' first
    | assumption
    | apply Keeps.ite
    | apply pakCount_keeps

theorem setPak_keeps {s₀ : State} (f : Packer → Packer) (s : State) (h₀ : Keeps s₀ s) : Keeps s₀ (setPak f s) := by
  unfold setPak
  with_reducible repeat' (apply Keeps.lit; first | exact Keeps.refl _ | assumption)

theorem dropEngine_keeps {s₀ : State} (c : Nat) (s : State) (h₀ : Keeps s₀ s) : Keeps s₀ (dropEngine c s) := by
  unfold dropEngine
  with_reducible repeat' first
    | assumption
    | apply setPak_keeps
    | split

theorem jobStat_keeps {s₀ : State} (busy : Bool) (result : Nat) (s : State) (h₀ : Keeps s₀ s) :
    Keeps s₀ (jobStat busy result s) := by
  unfold jobStat
  with_reducible repeat' first
    | assumption
    | apply wr_keeps

theorem jobFail_keeps {s₀ : State} (result : Nat) (s : State) (h₀ : Keeps s₀ s) : Keeps s₀ (jobFail result s) := by
  unfold jobFail
  with_reducible repeat' first
    | assumption
    | apply Keeps.ite
    | apply setPak_keeps
    | apply pakCount_keeps
    | apply jobStat_keeps
    | apply dropEngine_keeps
    | apply wr_keeps
    | apply raise_keeps

theorem jobNext_keeps {s₀ : State} (j : PakJob) (s : State) (h₀ : Keeps s₀ s) : Keeps s₀ (jobNext j s) := by
  unfold jobNext
  with_reducible repeat' first
    | assumption
    | apply Keeps.ite
    | apply setPak_keeps
    | apply jobStat_keeps
    | apply jobFail_keeps
    | apply wr_keeps
    | apply raise_keeps

theorem finishBlock_keeps {s₀ : State} (b : PakBlock) (s : State) (h₀ : Keeps s₀ s) : Keeps s₀ (finishBlock b s) := by
  unfold finishBlock
  with_reducible repeat' first
    | assumption
    | apply Keeps.ite
    | apply setPak_keeps
    | apply pakCount_keeps
    | apply jobFail_keeps
    | apply feedWindow_keeps
    | apply countBlock_keeps
    | apply ribPut_keeps
    | apply jobNext_keeps
    | split

theorem jobStart_keeps {s₀ : State} (op : Nat) (blockKib : Nat) (input : List Nat) (s : State) (h₀ : Keeps s₀ s) :
    Keeps s₀ (jobStart op blockKib input s) := by
  unfold jobStart
  with_reducible repeat' first
    | assumption
    | apply Keeps.ite
    | apply setPak_keeps
    | apply jobStat_keeps
    | apply wr_keeps
    | apply raise_keeps

theorem setWork_keeps {s₀ : State} (c : Nat) (l : List PakBlock) (s : State) (h₀ : Keeps s₀ s) : Keeps s₀ (setWork c l s) := by
  unfold setWork
  with_reducible repeat' first
    | assumption
    | apply setPak_keeps

theorem pakMemErr_keeps {s₀ : State} (c : Nat) (s : State) (h₀ : Keeps s₀ s) : Keeps s₀ (pakMemErr c s) := by
  unfold pakMemErr
  with_reducible repeat' first
    | assumption
    | apply ribMiss_keeps
    | apply pakCount_keeps
    | apply jobFail_keeps
    | apply endWindow_keeps
    | apply dropEngine_keeps
    | apply wr_keeps
    | apply setWork_keeps
    | apply raise_keeps
    | split

end Sys2Proof.Machine
end

