-- ==== Sys2Proof/Laws/KeepsUnits.lean ====
section
/-!
SUPPORT. What each operation keeps (Safety.Keeps): the operations of the Ledger, the Deck, the Scales, the Capture and the Nest.
-/

namespace Sys2Proof.Machine

open Sys2Proof

set_option Elab.async false
set_option linter.all false

set_option maxRecDepth 4000

theorem controlRecord_keeps {s₀ : State} (s : State) (h₀ : Keeps s₀ s) : Keeps s₀ (controlRecord s) := by
  unfold controlRecord
  with_reducible repeat' first
    | assumption
    | apply setLedger_keeps

theorem eraseScope_keeps {s₀ : State} (scope : Nat) (s : State) (h₀ : Keeps s₀ s) : Keeps s₀ (eraseScope scope s) := by
  unfold eraseScope
  with_reducible repeat' first
    | (intro _; try dsimp only)
    | apply ledgerOverrun_keeps
    | apply setEnergy_keeps
    | apply setLedger_keeps
    | apply wr_keeps
    | apply Keeps.forUpTo
    | (apply Keeps.lit; first | exact Keeps.refl _ | assumption | intro _ | apply Keeps.ite)

theorem logAppend_keeps {s₀ : State} (r : LRec) (s : State) (h₀ : Keeps s₀ s) : Keeps s₀ (logAppend r s) := by
  unfold logAppend
  with_reducible repeat' first
    | assumption
    | apply Keeps.ite
    | apply setLedger_keeps
    | apply raise_keeps

theorem logWrite_keeps {s₀ : State} (r : LRec) (s : State) (h₀ : Keeps s₀ s) : Keeps s₀ (logWrite r s) := by
  unfold logWrite
  with_reducible repeat' first
    | assumption
    | apply Keeps.ite
    | apply logAppend_keeps
    | apply bumpSat_keeps
    | apply eventOverrun_keeps
    | apply setLedger_keeps
    | apply raise_keeps
    | split

theorem clearFinish_keeps {s₀ : State} (s : State) (h₀ : Keeps s₀ s) : Keeps s₀ (clearFinish s) := by
  unfold clearFinish
  with_reducible repeat' first
    | assumption
    | apply wrF_keeps
    | apply setLedger_keeps
    | apply raise_keeps
    | apply controlRecord_keeps
    | apply eraseScope_keeps
    | apply logWrite_keeps

theorem logOffered_keeps {s₀ : State} (e : LEvent) (s : State) (h₀ : Keeps s₀ s) : Keeps s₀ (logOffered e s) := by
  unfold logOffered
  with_reducible repeat' first
    | assumption
    | apply logEvent_keeps

theorem mirrorRecords_keeps {s₀ : State} (rs : List LRec) (s : State) (h₀ : Keeps s₀ s) : Keeps s₀ (mirrorRecords rs s) := by
  unfold mirrorRecords
  with_reducible repeat' first
    | exact Keeps.refl _
    | assumption
    | (intro _; try dsimp only)
    | apply Keeps.ite
    | apply bulkSend_keeps
    | apply Keeps.foldl

theorem writeLastWords_keeps {s₀ : State} (reason : Nat) (ofs : Nat) (tick : Nat) (s : State) (h₀ : Keeps s₀ s) :
    Keeps s₀ (writeLastWords reason ofs tick s) := by
  unfold writeLastWords
  with_reducible repeat' (apply Keeps.lit; first | exact Keeps.refl _ | assumption)

theorem ledgerFail_keeps {s₀ : State} (reason : Nat) (ofs : Nat) (s : State) (h₀ : Keeps s₀ s) :
    Keeps s₀ (ledgerFail reason ofs s) := by
  unfold ledgerFail
  with_reducible repeat' first
    | assumption
    | apply Keeps.ite
    | apply wrF_keeps
    | apply setLedger_keeps
    | apply writeLastWords_keeps
    | apply raise_keeps
    | apply updateNodeOk_keeps

theorem relocate_keeps {s₀ : State} (l : List Nat) (s : State) (h₀ : Keeps s₀ s) : Keeps s₀ (relocate l s) := by
  induction l generalizing s with
  | nil => exact h₀
  | cons u us ih =>
    unfold relocate
    split
    · exact h₀
    · split
      · exact ih _ (raise_keeps _ _ _ (setLedger_keeps _ _ h₀))
      · exact ledgerFail_keeps _ _ _ h₀

theorem flushRun_keeps {s₀ : State} (during : List LEvent) (badUnits : List Nat) (s : State) (h₀ : Keeps s₀ s) :
    Keeps s₀ (flushRun during badUnits s) := by
  unfold flushRun
  with_reducible repeat' first
    | exact Keeps.refl _
    | assumption
    | (intro _; try dsimp only)
    | apply Keeps.ite
    | apply logOffered_keeps
    | apply setLedger_keeps
    | apply mirrorRecords_keeps
    | apply relocate_keeps
    | apply raise_keeps
    | apply controlRecord_keeps
    | apply logWrite_keeps
    | apply Keeps.foldl

theorem trackPut_keeps {s₀ : State} (k : Nat) (lo : Int) (hi : Int) (v : Int) (s : State) (h₀ : Keeps s₀ s) :
    Keeps s₀ (trackPut k lo hi v s) := by
  unfold trackPut
  with_reducible repeat' first
    | assumption
    | apply setLedger_keeps

theorem trackWrite_keeps {s₀ : State} (s : State) (h₀ : Keeps s₀ s) : Keeps s₀ (trackWrite s) := by
  unfold trackWrite
  with_reducible repeat' first
    | assumption
    | apply Keeps.ite
    | apply setLedger_keeps

theorem makeReady_keeps {s₀ : State} (head : Bool) (t : Nat) (s : State) (h₀ : Keeps s₀ s) : Keeps s₀ (makeReady head t s) := by
  unfold makeReady
  with_reducible repeat' first
    | apply setThread_keeps
    | (apply Keeps.lit; first | exact Keeps.refl _ | assumption)

theorem applyPost_keeps {s₀ : State} (t : Nat) (s : State) (h₀ : Keeps s₀ s) : Keeps s₀ (applyPost t s) := by
  unfold applyPost
  try dsimp only
  with_reducible repeat' first
    | assumption
    | apply setThread_keeps
    | apply makeReady_keeps
    | apply count_keeps
    | split

theorem deckReset_keeps {s₀ : State} (s : State) (h₀ : Keeps s₀ s) : Keeps s₀ (deckReset s) := by
  unfold deckReset
  with_reducible repeat' (apply Keeps.lit; first | exact Keeps.refl _ | assumption)

theorem restartBegin_keeps {s₀ : State} (cause : Nat) (s : State) (h₀ : Keeps s₀ s) : Keeps s₀ (restartBegin cause s) := by
  unfold restartBegin
  with_reducible repeat' first
    | apply mastTo_keeps
    | apply count_keeps
    | (apply Keeps.lit; first | exact Keeps.refl _ | assumption | intro _ | apply Keeps.ite | apply logEvent_keeps | apply wrF_keeps | apply setInt_keeps | apply deckReset_keeps)

theorem deckRestart_keeps {s₀ : State} (cause : Nat) (s : State) (h₀ : Keeps s₀ s) : Keeps s₀ (deckRestart cause s) := by
  unfold deckRestart
  with_reducible repeat' first
    | assumption
    | apply restartBegin_keeps
    | apply count_keeps
    | split

theorem startThreads_keeps {s₀ : State} (s : State) (h₀ : Keeps s₀ s) : Keeps s₀ (startThreads s) := by
  unfold startThreads
  with_reducible repeat' first
    | exact Keeps.refl _
    | assumption
    | (intro _; try dsimp only)
    | apply makeReady_keeps
    | apply Keeps.foldl

theorem rearmRings_keeps {s₀ : State} (s : State) (h₀ : Keeps s₀ s) : Keeps s₀ (rearmRings s) := by
  unfold rearmRings
  with_reducible repeat' first
    | exact Keeps.refl _
    | assumption
    | (intro _; try dsimp only)
    | apply rearmPort_keeps
    | apply Keeps.forUpTo

theorem loadThreads_keeps {s₀ : State} (cs : List (Nat × ThreadCfg)) (s : State) (h₀ : Keeps s₀ s) :
    Keeps s₀ (loadThreads cs s) := by
  unfold loadThreads
  with_reducible repeat' first
    | exact Keeps.refl _
    | assumption
    | (intro _; try dsimp only)
    | apply setThread_keeps
    | apply Keeps.foldl

theorem setRunning_keeps {s₀ : State} (c : Nat) (t : Option Nat) (s : State) (h₀ : Keeps s₀ s) : Keeps s₀ (setRunning c t s) := by
  unfold setRunning
  with_reducible repeat' (apply Keeps.lit; first | exact Keeps.refl _ | assumption)

theorem preempt_keeps {s₀ : State} (c : Nat) (s : State) (h₀ : Keeps s₀ s) : Keeps s₀ (preempt c s) := by
  unfold preempt
  with_reducible repeat' first
    | assumption
    | apply setRunning_keeps
    | apply makeReady_keeps
    | apply count_keeps
    | split

theorem startOn_keeps {s₀ : State} (t : Nat) (c : Nat) (s : State) (h₀ : Keeps s₀ s) : Keeps s₀ (startOn t c s) := by
  unfold startOn
  with_reducible repeat' first
    | apply setRunning_keeps
    | apply setThread_keeps
    | apply count_keeps
    | (apply Keeps.lit; first | exact Keeps.refl _ | assumption)

theorem dispatchOne_keeps {s₀ : State} (s t : State) (h₀ : Keeps s₀ s) (h : dispatchOne s = some t) : Keeps s₀ t := by
  unfold dispatchOne at h
  repeat' split at h
  all_goals cases h
  · exact startOn_keeps _ _ _ h₀
  · exact startOn_keeps _ _ _ (preempt_keeps _ _ h₀)

theorem dispatchN_keeps {s₀ : State} (n : Nat) (s : State) (h₀ : Keeps s₀ s) : Keeps s₀ (dispatchN n s) := by
  induction n generalizing s with
  | zero => exact h₀
  | succ n ih =>
    unfold dispatchN
    split
    · exact ih _ (dispatchOne_keeps _ _ h₀ ‹_›)
    · exact h₀

theorem dispatch_keeps {s₀ : State} (s : State) (h₀ : Keeps s₀ s) : Keeps s₀ (dispatch s) := by
  unfold dispatch
  with_reducible repeat' first
    | assumption
    | apply dispatchN_keeps

theorem deckRun_keeps {s₀ : State} (version : Word) (s : State) (h₀ : Keeps s₀ s) : Keeps s₀ (deckRun version s) := by
  unfold deckRun
  with_reducible repeat' (apply Keeps.lit; first | exact Keeps.refl _ | assumption | intro _ | apply Keeps.ite | apply startThreads_keeps | apply wrF_keeps | apply rearmRings_keeps | apply loadThreads_keeps | apply setInt_keeps | apply wr_keeps | apply dispatch_keeps)

theorem deckStart_keeps {s₀ : State} (s : State) (h₀ : Keeps s₀ s) : Keeps s₀ (deckStart s) := by
  unfold deckStart
  with_reducible repeat' (apply Keeps.lit; first | exact Keeps.refl _ | assumption | intro _ | apply Keeps.ite | apply deckReset_keeps)

theorem drainTrig_keeps {s₀ : State} (n : Nat) (s : State) (h₀ : Keeps s₀ s) : Keeps s₀ (drainTrig n s) := by
  induction n generalizing s with
  | zero => exact h₀
  | succ n ih =>
    unfold drainTrig
    split
    · exact h₀
    · split
      · exact ih _ (h₀.same rfl rfl rfl rfl rfl)
      · exact h₀

theorem pcSetFlag_keeps {s₀ : State} (c : PcCounter) (s : State) (h₀ : Keeps s₀ s) : Keeps s₀ (pcSetFlag c s) := by
  unfold pcSetFlag
  with_reducible repeat' first
    | assumption
    | apply Keeps.ite
    | apply setInt_keeps
    | apply wr_keeps

theorem pcAdd_keeps {s₀ : State} (c : PcCounter) (n : Nat) (s : State) (h₀ : Keeps s₀ s) : Keeps s₀ (pcAdd c n s) := by
  unfold pcAdd
  with_reducible repeat' first
    | assumption
    | apply Keeps.ite
    | apply pcSetFlag_keeps
    | apply wr64_keeps

theorem pcZero_keeps {s₀ : State} (c : PcCounter) (s : State) (h₀ : Keeps s₀ s) : Keeps s₀ (pcZero c s) := by
  unfold pcZero
  with_reducible repeat' first
    | assumption
    | apply wr64_keeps
    | apply wr_keeps

theorem pushSample_keeps {s₀ : State} (c : Nat) (w0 : Word) (w1 : Word) (w2 : Word) (w3 : Word) (s : State) (h₀ : Keeps s₀ s) :
    Keeps s₀ (pushSample c w0 w1 w2 w3 s) := by
  unfold pushSample
  with_reducible repeat' first
    | assumption
    | apply Keeps.ite
    | apply setInt_keeps
    | apply wr_keeps
    | apply setWindow_keeps

theorem retryHeld_keeps {s₀ : State} (s : State) (h₀ : Keeps s₀ s) : Keeps s₀ (retryHeld s) := by
  unfold retryHeld
  with_reducible repeat' first
    | (intro _; try dsimp only)
    | apply Keeps.ite
    | apply Keeps.foldl
    | (apply Keeps.lit; first | exact Keeps.refl _ | assumption)

theorem setChan_keeps {s₀ : State} (ch : Nat) (x : Chan) (s : State) (h₀ : Keeps s₀ s) : Keeps s₀ (setChan ch x s) := by
  unfold setChan
  with_reducible repeat' first
    | assumption
    | apply setScales_keeps

theorem setDelay_keeps {s₀ : State} (ch : Nat) (s : State) (h₀ : Keeps s₀ s) : Keeps s₀ (setDelay ch s) := by
  unfold setDelay
  with_reducible repeat' first
    | assumption
    | apply wr_keeps

theorem takeUser_keeps {s₀ : State} (ch : Nat) (s : State) (h₀ : Keeps s₀ s) : Keeps s₀ (takeUser ch s) := by
  unfold takeUser
  with_reducible repeat' first
    | assumption
    | apply setChan_keeps
    | apply setDelay_keeps

theorem calBusy_keeps {s₀ : State} (s : State) (h₀ : Keeps s₀ s) : Keeps s₀ (calBusy s) := by
  unfold calBusy
  with_reducible repeat' first
    | assumption
    | apply wrF_keeps

theorem applyUser_keeps {s₀ : State} (ch : Nat) (s : State) (h₀ : Keeps s₀ s) : Keeps s₀ (applyUser ch s) := by
  unfold applyUser
  with_reducible repeat' first
    | assumption
    | apply setStat_keeps
    | apply logEvent_keeps
    | apply takeUser_keeps
    | apply ucalPoints_keeps
    | apply calBusy_keeps
    | apply raise_keeps

theorem markOvr_keeps {s₀ : State} (ch : Nat) (s : State) (h₀ : Keeps s₀ s) : Keeps s₀ (markOvr ch s) := by
  unfold markOvr
  with_reducible repeat' first
    | assumption
    | apply setStat_keeps
    | apply wrF_keeps
    | apply raise_keeps

theorem localMeter_keeps {s₀ : State} (s : State) (k : Nat) (h₀ : Keeps s₀ s) : Keeps s₀ (localMeter s k) := by
  unfold localMeter
  with_reducible repeat' first
    | assumption
    | apply Keeps.ite
    | apply setMeter_keeps
    | apply meterSample_keeps

theorem rmsRegister_keeps {s₀ : State} (ch : Nat) (hist : List ScSample) (s : State) (h₀ : Keeps s₀ s) :
    Keeps s₀ (rmsRegister ch hist s) := by
  unfold rmsRegister
  with_reducible repeat' first
    | assumption
    | apply Keeps.ite
    | apply wr_keeps
    | split

theorem channelOutput_keeps {s₀ : State} (ch : Nat) (bits : List Bool) (s : State) (h₀ : Keeps s₀ s) :
    Keeps s₀ (channelOutput ch bits s) := by
  unfold channelOutput
  with_reducible repeat' first
    | exact Keeps.refl _
    | assumption
    | (intro _; try dsimp only)
    | apply Keeps.ite
    | apply markOvr_keeps
    | apply setChan_keeps
    | apply localMeter_keeps
    | apply rmsRegister_keeps
    | apply drawFree_keeps
    | apply applyUser_keeps
    | apply Keeps.foldl

theorem setSvHist_keeps {s₀ : State} (i : Nat) (x : SvHist) (s : State) (h₀ : Keeps s₀ s) : Keeps s₀ (setSvHist i x s) := by
  unfold setSvHist
  with_reducible repeat' first
    | assumption
    | apply setScales_keeps

theorem svCounts_keeps {s₀ : State} (n : Nat) (f : SvSt → SvSt) (s : State) (h₀ : Keeps s₀ s) : Keeps s₀ (svCounts n f s) := by
  unfold svCounts
  with_reducible repeat' (apply Keeps.lit; first | exact Keeps.refl _ | assumption)

theorem svMeter_keeps {s₀ : State} (i : Nat) (r : SvRec) (s : State) (h₀ : Keeps s₀ s) : Keeps s₀ (svMeter i r s) := by
  unfold svMeter
  with_reducible repeat' first
    | exact Keeps.refl _
    | assumption
    | (intro _; try dsimp only)
    | apply Keeps.ite
    | apply meterSample_keeps
    | apply Keeps.foldl

theorem svAppend_keeps {s₀ : State} (i : Nat) (r : SvRec) (s : State) (h₀ : Keeps s₀ s) : Keeps s₀ (svAppend i r s) := by
  unfold svAppend
  with_reducible repeat' first
    | assumption
    | apply svMeter_keeps
    | apply setSvHist_keeps

theorem svGap_keeps {s₀ : State} (i : Nat) (s : State) (h₀ : Keeps s₀ s) : Keeps s₀ (svGap i s) := by
  unfold svGap
  with_reducible repeat' first
    | assumption
    | apply svCounts_keeps
    | apply raise_keeps

theorem svSettleOne_keeps {s₀ : State} (i : Nat) (r : SvRec) (s : State) (h₀ : Keeps s₀ s) : Keeps s₀ (svSettleOne i r s) := by
  unfold svSettleOne
  with_reducible repeat' first
    | assumption
    | apply Keeps.ite
    | apply svCounts_keeps
    | apply setSvHist_keeps
    | apply svAppend_keeps
    | apply svGap_keeps
    | split

theorem svSettle_keeps {s₀ : State} (i : Nat) (p : SvRec → Bool) (s : State) (h₀ : Keeps s₀ s) : Keeps s₀ (svSettle i p s) := by
  unfold svSettle
  with_reducible repeat' first
    | exact Keeps.refl _
    | assumption
    | (intro _; try dsimp only)
    | apply setSvHist_keeps
    | apply svSettleOne_keeps
    | apply Keeps.foldl

theorem svWindowEnd_keeps {s₀ : State} (i : Nat) (upTo : Nat) (s : State) (h₀ : Keeps s₀ s) :
    Keeps s₀ (svWindowEnd i upTo s) := by
  unfold svWindowEnd
  with_reducible repeat' first
    | assumption
    | apply Keeps.ite
    | apply setSvHist_keeps
    | apply svSettle_keeps
    | apply svGap_keeps

theorem lsSettle_keeps {s₀ : State} (c : LsCfg) (t : Nat) (s : State) (h₀ : Keeps s₀ s) : Keeps s₀ (lsSettle c t s) := by
  unfold lsSettle
  with_reducible repeat' first
    | exact Keeps.refl _
    | assumption
    | (intro _; try dsimp only)
    | apply svWindowEnd_keeps
    | apply Keeps.foldl

theorem estimate_keeps {s₀ : State} (i : Nat) (inst : Nat) (s : State) (h₀ : Keeps s₀ s) : Keeps s₀ (estimate i inst s) := by
  unfold estimate
  with_reducible repeat' first
    | assumption
    | apply Keeps.ite
    | apply lsSettle_keeps
    | apply setStream_keeps
    | apply setScales_keeps
    | apply handOver_keeps
    | apply measureStream_keeps
    | apply count_keeps
    | split

theorem settleStatus_keeps {s₀ : State} (s : State) (h₀ : Keeps s₀ s) : Keeps s₀ (settleStatus s) := by
  unfold settleStatus
  with_reducible repeat' first
    | assumption
    | apply setStat_keeps

theorem startSettling_keeps {s₀ : State} (ch : Nat) (s : State) (h₀ : Keeps s₀ s) : Keeps s₀ (startSettling ch s) := by
  unfold startSettling
  with_reducible repeat' first
    | assumption
    | apply setStat_keeps
    | apply setChan_keeps
    | apply settleStatus_keeps

theorem userStart_keeps {s₀ : State} (s : State) (h₀ : Keeps s₀ s) : Keeps s₀ (userStart s) := by
  unfold userStart
  with_reducible repeat' first
    | exact Keeps.refl _
    | assumption
    | (intro _; try dsimp only)
    | apply takeUser_keeps
    | apply setScales_keeps
    | apply calBusy_keeps
    | apply wr_keeps
    | apply Keeps.forUpTo

theorem scalesStart_keeps {s₀ : State} (resume : Bool) (s : State) (h₀ : Keeps s₀ s) : Keeps s₀ (scalesStart resume s) := by
  unfold scalesStart
  with_reducible repeat' first
    | exact Keeps.refl _
    | assumption
    | (intro _; try dsimp only)
    | apply Keeps.ite
    | apply setStat_keeps
    | apply setEnergy_keeps
    | apply startSettling_keeps
    | apply userStart_keeps
    | apply setScales_keeps
    | apply settleStatus_keeps
    | apply Keeps.forUpTo

theorem scalesStep_keeps {s₀ : State} (old : Nat) (new : Nat) (s : State) (h₀ : Keeps s₀ s) :
    Keeps s₀ (scalesStep old new s) := by
  unfold scalesStep
  with_reducible repeat' first
    | assumption
    | apply Keeps.ite
    | apply stepPoints_keeps
    | apply setScales_keeps

theorem svArrive_keeps {s₀ : State} (n : Nat) (r : SvRec) (arrival : Nat) (s : State) (h₀ : Keeps s₀ s) :
    Keeps s₀ (svArrive n r arrival s) := by
  unfold svArrive
  with_reducible repeat' first
    | assumption
    | apply svCounts_keeps
    | apply setSvHist_keeps
    | apply svSettle_keeps
    | apply raise_keeps
    | split

theorem syncChan_keeps {s₀ : State} (ch : Nat) (s : State) (h₀ : Keeps s₀ s) : Keeps s₀ (syncChan ch s) := by
  unfold syncChan
  with_reducible repeat' first
    | assumption
    | apply Keeps.ite
    | apply startSettling_keeps
    | apply setChan_keeps

theorem syncApply_keeps {s₀ : State} (s : State) (h₀ : Keeps s₀ s) : Keeps s₀ (syncApply s) := by
  unfold syncApply
  with_reducible repeat' first
    | exact Keeps.refl _
    | assumption
    | (intro _; try dsimp only)
    | apply Keeps.ite
    | apply setStat_keeps
    | apply syncChan_keeps
    | apply wrF_keeps
    | apply setScales_keeps
    | apply wr_keeps
    | apply raise_keeps
    | apply drawFree_keeps
    | apply Keeps.forUpTo

theorem syncRequest_keeps {s₀ : State} (src : Nat) (s : State) (h₀ : Keeps s₀ s) : Keeps s₀ (syncRequest src s) := by
  unfold syncRequest
  with_reducible repeat' first
    | assumption
    | apply setScales_keeps

theorem setCap_keeps {s₀ : State} (f : Capture → Capture) (s : State) (h₀ : Keeps s₀ s) : Keeps s₀ (setCap f s) := by
  unfold setCap
  with_reducible repeat' (apply Keeps.lit; first | exact Keeps.refl _ | assumption)

theorem backToS0_keeps {s₀ : State} (row : CapRow) (s : State) (h₀ : Keeps s₀ s) : Keeps s₀ (backToS0 row s) := by
  unfold backToS0
  with_reducible repeat' first
    | assumption
    | apply Keeps.ite
    | apply setCap_keeps

theorem capCount_keeps {s₀ : State} (k : Nat) (n : Nat) (s : State) (h₀ : Keeps s₀ s) : Keeps s₀ (capCount k n s) := by
  unfold capCount
  with_reducible repeat' first
    | assumption
    | apply count_keeps

theorem endRecord_keeps {s₀ : State} (r : CapRec) (s : State) (h₀ : Keeps s₀ s) : Keeps s₀ (endRecord r s) := by
  unfold endRecord
  with_reducible repeat' first
    | assumption
    | apply raise_keeps
    | apply setCap_keeps

theorem capReef_keeps {s₀ : State} (s : State) (h₀ : Keeps s₀ s) : Keeps s₀ (capReef s) := by
  unfold capReef
  with_reducible repeat' first
    | assumption
    | apply endRecord_keeps
    | apply setCap_keeps
    | split

theorem recordLimits_keeps {s₀ : State} (pos : Int) (s : State) (h₀ : Keeps s₀ s) : Keeps s₀ (recordLimits pos s) := by
  unfold recordLimits
  with_reducible repeat' first
    | assumption
    | apply Keeps.ite
    | apply endRecord_keeps
    | split

theorem countGaps_keeps {s₀ : State} (gaps : Nat) (samples : Nat) (s : State) (h₀ : Keeps s₀ s) :
    Keeps s₀ (countGaps gaps samples s) := by
  unfold countGaps
  with_reducible repeat' first
    | assumption
    | apply Keeps.ite
    | apply capCount_keeps
    | apply raise_keeps

theorem joinRows_keeps {s₀ : State} (rows : List CapRow) (r : CapRec) (s : State) (h₀ : Keeps s₀ s) :
    Keeps s₀ (joinRows rows r s) := by
  unfold joinRows
  with_reducible repeat' first
    | assumption
    | apply countGaps_keeps
    | apply setCap_keeps

theorem extendRecord_keeps {s₀ : State} (row : CapRow) (drained : Nat) (s : State) (h₀ : Keeps s₀ s) :
    Keeps s₀ (extendRecord row drained s) := by
  unfold extendRecord
  with_reducible repeat' first
    | assumption
    | apply Keeps.ite
    | apply recordLimits_keeps
    | apply endRecord_keeps
    | apply joinRows_keeps
    | apply setCap_keeps
    | split

theorem releaseFor_keeps {s₀ : State} (need n : Nat) (s : State) (h₀ : Keeps s₀ s) : Keeps s₀ (releaseFor need n s) := by
  induction n generalizing s with
  | zero => exact h₀
  | succ n ih =>
    unfold releaseFor
    repeat' split
    · exact h₀
    · exact h₀
    · exact ih _ (setCap_keeps _ _ h₀)

theorem makeRoom_keeps {s₀ : State} (s : State) (h₀ : Keeps s₀ s) : Keeps s₀ (makeRoom s).2 := by
  unfold makeRoom
  try dsimp only
  with_reducible repeat' first
    | assumption
    | apply releaseFor_keeps
    | split

theorem refuse_keeps {s₀ : State} (k : Nat) (s : State) (h₀ : Keeps s₀ s) : Keeps s₀ (refuse k s) := by
  unfold refuse
  with_reducible repeat' first
    | assumption
    | apply capCount_keeps
    | apply raise_keeps
    | apply setCap_keeps

theorem startRecord_keeps {s₀ : State} (src : Nat) (state : Nat) (te : Nat) (forced : Bool) (s : State) (h₀ : Keeps s₀ s) :
    Keeps s₀ (startRecord src state te forced s) := by
  unfold startRecord
  with_reducible repeat' first
    | assumption
    | apply Keeps.ite
    | apply makeRoom_keeps
    | apply countGaps_keeps
    | apply capCount_keeps
    | apply raise_keeps
    | apply refuse_keeps
    | apply setCap_keeps

theorem retrigger_keeps {s₀ : State} (r : CapRec) (te : Nat) (s : State) (h₀ : Keeps s₀ s) : Keeps s₀ (retrigger r te s) := by
  unfold retrigger
  with_reducible repeat' first
    | assumption
    | apply Keeps.ite
    | apply capCount_keeps
    | apply setCap_keeps

theorem capTrigger_keeps {s₀ : State} (src : Nat) (state : Nat) (te : Nat) (forced : Bool) (s : State) (h₀ : Keeps s₀ s) :
    Keeps s₀ (capTrigger src state te forced s) := by
  unfold capTrigger
  with_reducible repeat' first
    | assumption
    | apply startRecord_keeps
    | apply retrigger_keeps
    | split

theorem forceStep_keeps {s₀ : State} (tag : Nat) (before : Option Nat) (s : State) (h₀ : Keeps s₀ s) :
    Keeps s₀ (forceStep tag before s) := by
  unfold forceStep
  with_reducible repeat' first
    | assumption
    | apply Keeps.ite
    | apply capTrigger_keeps
    | apply refuse_keeps
    | apply setCap_keeps
    | split

theorem deadEnd_keeps {s₀ : State} (row : CapRow) (s : State) (h₀ : Keeps s₀ s) : Keeps s₀ (deadEnd row s) := by
  unfold deadEnd
  with_reducible repeat' first
    | assumption
    | apply wr_keeps
    | apply setCap_keeps
    | split

theorem driveBell_keeps {s₀ : State} (l : Nat) (s : State) (h₀ : Keeps s₀ s) : Keeps s₀ (driveBell l s) := by
  unfold driveBell
  with_reducible repeat' first
    | assumption
    | apply Keeps.ite
    | apply emit_keeps
    | apply setCap_keeps

theorem driveBells_keeps {s₀ : State} (state : Nat) (s : State) (h₀ : Keeps s₀ s) : Keeps s₀ (driveBells state s) := by
  unfold driveBells
  with_reducible repeat' first
    | assumption
    | apply Keeps.ite
    | apply driveBell_keeps

theorem enterState_keeps {s₀ : State} (state : Nat) (src : Nat) (te : Nat) (pos : Int) (s : State) (h₀ : Keeps s₀ s) :
    Keeps s₀ (enterState state src te pos s) := by
  unfold enterState
  with_reducible repeat' first
    | assumption
    | apply Keeps.ite
    | apply capTrigger_keeps
    | apply driveBells_keeps
    | apply setCap_keeps

theorem seqStep_keeps {s₀ : State} (evs : List (Nat × Nat)) (tag : Nat) (pos : Int) (s : State) (h₀ : Keeps s₀ s) :
    Keeps s₀ (seqStep evs tag pos s) := by
  unfold seqStep
  try dsimp only
  with_reducible repeat' first
    | assumption
    | apply enterState_keeps
    | apply setCap_keeps
    | split

theorem seqRefuse_keeps {s₀ : State} (k : Nat) (evs : List (Nat × Nat)) (tag : Nat) (pos : Int) (s : State) (h₀ : Keeps s₀ s) :
    Keeps s₀ (seqRefuse k evs tag pos s) := by
  unfold seqRefuse
  try dsimp only
  with_reducible repeat' first
    | assumption
    | apply enterState_keeps
    | apply refuse_keeps
    | apply setCap_keeps
    | split

theorem seqHeld_keeps {s₀ : State} (k : Nat) (evs : List (Nat × Nat)) (tag : Nat) (pos : Int) (s : State) (h₀ : Keeps s₀ s) :
    Keeps s₀ (seqHeld k evs tag pos s) := by
  unfold seqHeld
  with_reducible repeat' first
    | assumption
    | apply Keeps.ite
    | apply refuse_keeps
    | apply setCap_keeps
    | split

theorem capSequence_keeps {s₀ : State} (ended : Bool) (evs : List (Nat × Nat)) (row : CapRow) (s : State) (h₀ : Keeps s₀ s) :
    Keeps s₀ (capSequence ended evs row s) := by
  unfold capSequence
  with_reducible repeat' first
    | assumption
    | apply Keeps.ite
    | apply seqStep_keeps
    | apply seqRefuse_keeps
    | apply seqHeld_keeps

theorem setLevel_keeps {s₀ : State} (src : Nat) (b : Bool) (s : State) (h₀ : Keeps s₀ s) : Keeps s₀ (setLevel src b s) := by
  unfold setLevel
  with_reducible repeat' first
    | assumption
    | apply setCap_keeps

theorem schLow_keeps {s₀ : State} (s : State) (h₀ : Keeps s₀ s) : Keeps s₀ (schLow s) := by
  unfold schLow
  with_reducible repeat' first
    | exact Keeps.refl _
    | assumption
    | (intro _; try dsimp only)
    | apply setLevel_keeps
    | apply Keeps.forUpTo

theorem takeEv_keeps {s₀ : State} (p : State × List (Nat × Nat)) (e : CapEv) (h₀ : Keeps s₀ p.1) : Keeps s₀ (takeEv p e).1 := by
  have h := setLevel_keeps e.src e.level p.1 h₀
  unfold takeEv
  dsimp only
  split <;> exact h

theorem termStep_keeps {s₀ : State} (tag : Nat) (p : State × List (Nat × Nat)) (k : Nat) (h₀ : Keeps s₀ p.1) :
    Keeps s₀ (termStep tag p k).1 := by
  have h := setLevel_keeps (112 + k) (termLevel p.1 k) p.1 h₀
  unfold termStep
  dsimp only
  repeat' split
  · exact h₀
  · exact h
  · exact h

theorem Keeps.foldlFst {α β : Type} {r : State} {f : State × β → α → State × β} {l : List α} {p : State × β} (h : Keeps r p.1)
    (hf : ∀ p x, Keeps r p.1 → Keeps r (f p x).1) : Keeps r (l.foldl f p).1 := by
  induction l generalizing p with
  | nil => exact h
  | cons x l ih => exact ih (hf p x h)

theorem termSteps_keeps {s₀ : State} (time : Nat) (p : State × List (Nat × Nat)) (h₀ : Keeps s₀ p.1) :
    Keeps s₀ (termSteps time p).1 :=
  Keeps.foldlFst h₀ fun p e h => termStep_keeps _ p e h

theorem takeEvs_keeps {s₀ : State} (evs : List CapEv) (s : State) (h₀ : Keeps s₀ s) : Keeps s₀ (takeEvs evs s).1 :=
  Keeps.foldlFst (p := (s, [])) h₀ fun p e h => termSteps_keeps _ _ (takeEv_keeps p e h)

theorem capTake_keeps {s₀ : State} (drained : Nat) (row0 : CapRow) (s : State) (h₀ : Keeps s₀ s) :
    Keeps s₀ (capTake drained row0 s) := by
  unfold capTake
  extract_lets tag s0 s1 ths due p row s3 s4 s5 evs ended
  have h1 : Keeps s₀ s1 := setCap_keeps _ _ (termSteps_keeps _ _ (schLow_keeps _ h₀))
  have h2 : Keeps s₀ p.1 := takeEvs_keeps _ _ (setCap_keeps _ _ h1)
  have h3 : Keeps s₀ s4 := deadEnd_keeps _ _ (backToS0_keeps _ _ (setCap_keeps _ _ h2))
  exact forceStep_keeps _ _ _ (capSequence_keeps _ _ _ _ (extendRecord_keeps _ _ _ h3))

theorem capSample_keeps {s₀ : State} (drained : Nat) (s : State) (h₀ : Keeps s₀ s) : Keeps s₀ (capSample drained s) := by
  unfold capSample
  with_reducible repeat' first
    | assumption
    | apply Keeps.ite
    | apply capTake_keeps
    | apply setCap_keeps
    | split

theorem capShed_keeps {s₀ : State} (on : Bool) (s : State) (h₀ : Keeps s₀ s) : Keeps s₀ (capShed on s) := by
  unfold capShed
  with_reducible repeat' first
    | assumption
    | apply setCap_keeps

theorem capStart_keeps {s₀ : State} (resume : Bool) (s : State) (h₀ : Keeps s₀ s) : Keeps s₀ (capStart resume s) := by
  unfold capStart
  with_reducible repeat' first
    | assumption
    | apply setCap_keeps

theorem capStep_keeps {s₀ : State} (s : State) (h₀ : Keeps s₀ s) : Keeps s₀ (capStep s) := by
  unfold capStep
  with_reducible repeat' first
    | assumption
    | apply setCap_keeps

theorem captureArm_keeps {s₀ : State} (on : Bool) (s : State) (h₀ : Keeps s₀ s) : Keeps s₀ (captureArm on s) := by
  unfold captureArm
  with_reducible repeat' first
    | assumption
    | apply Keeps.ite
    | apply wrF_keeps
    | apply setCap_keeps

theorem setNest_keeps {s₀ : State} (f : Nest → Nest) (s : State) (h₀ : Keeps s₀ s) : Keeps s₀ (setNest f s) := by
  unfold setNest
  with_reducible repeat' (apply Keeps.lit; first | exact Keeps.refl _ | assumption)

theorem baselineSave_keeps {s₀ : State} (s : State) (h₀ : Keeps s₀ s) : Keeps s₀ (baselineSave s) := by
  unfold baselineSave
  with_reducible repeat' first
    | assumption
    | apply Keeps.ite
    | apply setNest_keeps
    | apply raise_keeps

theorem raiseIf_keeps {s₀ : State} (c : Bool) (a : Nat) (k : Nat) (s : State) (h₀ : Keeps s₀ s) : Keeps s₀ (raiseIf c a k s) := by
  unfold raiseIf
  with_reducible repeat' first
    | assumption
    | apply Keeps.ite
    | apply raise_keeps

theorem oscCount_keeps {s₀ : State} (k : Nat) (n : Nat) (s : State) (h₀ : Keeps s₀ s) : Keeps s₀ (oscCount k n s) := by
  unfold oscCount
  with_reducible repeat' first
    | assumption
    | apply count_keeps

theorem oscEvents_keeps {s₀ : State} (e : OscEv) (s : State) (h₀ : Keeps s₀ s) : Keeps s₀ (oscEvents e s) := by
  unfold oscEvents
  with_reducible repeat' first
    | assumption
    | apply raiseIf_keeps
    | apply oscCount_keeps

theorem oscNow_keeps {s₀ : State} (damp : Bool) (amp : Bool) (src : Bool) (s : State) (h₀ : Keeps s₀ s) :
    Keeps s₀ (oscNow damp amp src s) := by
  unfold oscNow
  with_reducible repeat' first
    | assumption
    | apply raiseIf_keeps
    | apply setNest_keeps

theorem emWarm_keeps {s₀ : State} (x : Nat) (s : State) (h₀ : Keeps s₀ s) : Keeps s₀ (emWarm x s) := by
  unfold emWarm
  with_reducible repeat' first
    | assumption
    | apply setNest_keeps
    | apply raise_keeps
    | split

theorem emExtract_keeps {s₀ : State} (x : Nat) (upTo : Nat) (s0 : State) (h₀ : Keeps s₀ s0) : Keeps s₀ (emExtract x upTo s0) := by
  unfold emExtract
  with_reducible repeat' first
    | assumption
    | apply Keeps.ite
    | apply oscEvents_keeps
    | apply baselineSave_keeps
    | apply oscNow_keeps
    | apply oscCount_keeps
    | apply setNest_keeps
    | apply emWarm_keeps
    | apply classOutput_keeps

theorem emRestart_keeps {s₀ : State} (s : State) (h₀ : Keeps s₀ s) : Keeps s₀ (emRestart s) := by
  unfold emRestart
  with_reducible repeat' first
    | assumption
    | apply setNest_keeps

theorem fastRestart_keeps {s₀ : State} (s : State) (h₀ : Keeps s₀ s) : Keeps s₀ (fastRestart s) := by
  unfold fastRestart
  with_reducible repeat' first
    | assumption
    | apply setNest_keeps

theorem fastShed_keeps {s₀ : State} (s : State) (h₀ : Keeps s₀ s) : Keeps s₀ (fastShed s) := by
  unfold fastShed
  with_reducible repeat' first
    | assumption
    | apply Keeps.ite
    | apply setNest_keeps
    | apply raise_keeps

theorem fastWarm_keeps {s₀ : State} (inst : Nat) (s : State) (h₀ : Keeps s₀ s) : Keeps s₀ (fastWarm inst s) := by
  unfold fastWarm
  with_reducible repeat' first
    | assumption
    | apply setNest_keeps
    | apply raise_keeps
    | split

theorem oscAsOf_keeps {s₀ : State} (e : OscEnv) (s : State) (h₀ : Keeps s₀ s) : Keeps s₀ (oscAsOf e s) := by
  unfold oscAsOf
  with_reducible repeat' first
    | assumption
    | apply setNest_keeps
    | apply wr_keeps

theorem oscClasses_keeps {s₀ : State} (i : OscInst) (locs : NMap LocSlot) (s : State) (h₀ : Keeps s₀ s) :
    Keeps s₀ (oscClasses i locs s) := by
  unfold oscClasses
  with_reducible repeat' first
    | assumption
    | apply Keeps.ite
    | apply classOutput_keeps

theorem oscClose_keeps {s₀ : State} (inst : Nat) (rev : Nat) (s : State) (h₀ : Keeps s₀ s) : Keeps s₀ (oscClose inst rev s) := by
  unfold oscClose
  with_reducible repeat' first
    | assumption
    | apply Keeps.ite
    | apply emExtract_keeps
    | apply setNest_keeps

theorem oscFirst_keeps {s₀ : State} (inst : Nat) (s : State) (h₀ : Keeps s₀ s) : Keeps s₀ (oscFirst inst s) := by
  unfold oscFirst
  with_reducible repeat' first
    | assumption
    | apply setNest_keeps

theorem oscRerun_keeps {s₀ : State} (inst : Nat) (tag : Nat) (s : State) (h₀ : Keeps s₀ s) : Keeps s₀ (oscRerun inst tag s) := by
  unfold oscRerun
  with_reducible repeat' first
    | assumption
    | apply oscEvents_keeps
    | apply oscNow_keeps
    | apply oscCount_keeps
    | apply setNest_keeps
    | apply oscClasses_keeps
    | split

theorem oscSeal_keeps {s₀ : State} (inst : Nat) (s0 : State) (h₀ : Keeps s₀ s0) : Keeps s₀ (oscSeal inst s0) := by
  unfold oscSeal
  with_reducible repeat' first
    | assumption
    | apply Keeps.ite
    | apply oscEvents_keeps
    | apply oscNow_keeps
    | apply fastWarm_keeps
    | apply oscCount_keeps
    | apply setNest_keeps
    | apply oscClasses_keeps
    | apply oscFirst_keeps

theorem oscStart_keeps {s₀ : State} (s : State) (h₀ : Keeps s₀ s) : Keeps s₀ (oscStart s) := by
  unfold oscStart
  with_reducible repeat' first
    | assumption
    | apply Keeps.ite
    | apply setNest_keeps
    | apply wr_keeps
    | apply raise_keeps

end Sys2Proof.Machine
end

