-- ==== Sys2Proof/Laws/KeepsMast.lean ====
section
/-!
SUPPORT. What each operation keeps (Safety.Keeps): the Mast, the topology, the Scales and the market.
-/

namespace Sys2Proof.Machine

open Sys2Proof

set_option Elab.async false
set_option linter.all false

set_option maxRecDepth 4000

theorem cycLeave_keeps {s₀ : State} (st : CycState) (s : State) (h₀ : Keeps s₀ s) : Keeps s₀ (cycLeave st s) := by
  unfold cycLeave
  with_reducible repeat' first
    | apply Keeps.ite
    | apply raise_keeps
    | (apply Keeps.lit; first | exact Keeps.refl _ | assumption)

theorem cycCfgWrite_keeps {s₀ : State} (v : Word) (s : State) (h₀ : Keeps s₀ s) : Keeps s₀ (cycCfgWrite v s) := by
  unfold cycCfgWrite
  with_reducible repeat' (apply Keeps.lit; first | exact Keeps.refl _ | assumption | intro _ | apply Keeps.ite | apply wr_keeps | apply cycLeave_keeps)

theorem cycleCompare_keeps {s₀ : State} (err : Int) (inst : Option Nat) (s : State) (h₀ : Keeps s₀ s) :
    Keeps s₀ (cycleCompare err inst s) := by
  unfold cycleCompare
  try dsimp only
  with_reducible repeat' first
    | apply Keeps.ite
    | (apply Keeps.lit; first | exact Keeps.refl _ | assumption | intro _ | apply Keeps.ite | apply raise_keeps | apply drawFree_keeps | apply Keeps.foldl | apply Keeps.forUpTo)
    | split

theorem execCycCfgWrite_keeps {s₀ : State} (who : Req) (v : Word) (s : State) (h₀ : Keeps s₀ s) :
    Answers s₀ (execCycCfgWrite who v s) := by
  unfold execCycCfgWrite
  with_reducible repeat' first
    | exact Keeps.refl _
    | assumption
    | (intro _; try dsimp only)
    | apply Answers.next
    | apply serve_keeps
    | apply cycCfgWrite_keeps

theorem execCycleCompare_keeps {s₀ : State} (s : State) (h₀ : Keeps s₀ s) : Answers s₀ (execCycleCompare s) := by
  unfold execCycleCompare
  with_reducible repeat' first
    | assumption
    | apply Answers.powered
    | apply cycleCompare_keeps
    | split

theorem flywheelLimit_keeps {s₀ : State} (ok : Bool) (s : State) (h₀ : Keeps s₀ s) : Keeps s₀ (flywheelLimit ok s) := by
  unfold flywheelLimit
  with_reducible repeat' first
    | apply Keeps.ite
    | (apply Keeps.lit; first | exact Keeps.refl _ | assumption)

theorem execFlywheelLimit_keeps {s₀ : State} (ok : Bool) (s : State) (h₀ : Keeps s₀ s) : Answers s₀ (execFlywheelLimit ok s) := by
  unfold execFlywheelLimit
  with_reducible repeat' first
    | assumption
    | apply Keeps.ite
    | apply Answers.powered
    | apply flywheelLimit_keeps

theorem gmHold_keeps {s₀ : State} (s : State) (h₀ : Keeps s₀ s) : Keeps s₀ (gmHold s) := by
  unfold gmHold
  with_reducible repeat' first
    | assumption
    | apply Keeps.ite
    | apply mastTo_keeps

theorem execGmChange_keeps {s₀ : State} (who : Req) (s : State) (h₀ : Keeps s₀ s) : Answers s₀ (execGmChange who s) := by
  unfold execGmChange
  with_reducible repeat' first
    | exact Keeps.refl _
    | assumption
    | (intro _; try dsimp only)
    | apply Keeps.ite
    | apply Answers.next
    | apply serve_keeps
    | apply gmHold_keeps

theorem lockedToHoldover_keeps {s₀ : State} (s : State) (h₀ : Keeps s₀ s) : Keeps s₀ (lockedToHoldover s) := by
  unfold lockedToHoldover
  with_reducible repeat' first
    | assumption
    | apply Keeps.ite
    | apply mastTo_keeps

theorem execGmLost_keeps {s₀ : State} (who : Req) (s : State) (h₀ : Keeps s₀ s) : Answers s₀ (execGmLost who s) := by
  unfold execGmLost
  with_reducible repeat' first
    | exact Keeps.refl _
    | assumption
    | (intro _; try dsimp only)
    | apply Keeps.ite
    | apply Answers.next
    | apply serve_keeps
    | apply lockedToHoldover_keeps
    | apply gmHold_keeps

theorem execGmReturn_keeps {s₀ : State} (who : Req) (s : State) (h₀ : Keeps s₀ s) : Answers s₀ (execGmReturn who s) := by
  unfold execGmReturn
  with_reducible repeat' first
    | exact Keeps.refl _
    | assumption
    | (intro _; try dsimp only)
    | apply Keeps.ite
    | apply Answers.next
    | apply serve_keeps
    | apply mastTo_keeps

theorem guardAccept_keeps {s₀ : State} (s : State) (h₀ : Keeps s₀ s) : Keeps s₀ (guardAccept s) := by
  unfold guardAccept
  with_reducible repeat' first
    | apply Keeps.ite
    | apply mastTo_keeps
    | (apply Keeps.lit; first | exact Keeps.refl _ | assumption)

theorem execGuardAccept_keeps {s₀ : State} (who : Req) (s : State) (h₀ : Keeps s₀ s) : Answers s₀ (execGuardAccept who s) := by
  unfold execGuardAccept
  with_reducible repeat' first
    | exact Keeps.refl _
    | assumption
    | (intro _; try dsimp only)
    | apply Answers.next
    | apply guardAccept_keeps
    | apply serve_keeps

theorem execHoldSet_keeps {s₀ : State} (who : Req) (s : State) (h₀ : Keeps s₀ s) : Answers s₀ (execHoldSet who s) := by
  unfold execHoldSet
  with_reducible repeat' first
    | exact Keeps.refl _
    | assumption
    | (intro _; try dsimp only)
    | apply Answers.next
    | apply serve_keeps
    | apply lockedToHoldover_keeps

theorem execHoldoverLimitCrossed_keeps {s₀ : State} (sec : BitVec 32) (s : State) (h₀ : Keeps s₀ s) :
    Answers s₀ (execHoldoverLimitCrossed sec s) := by
  unfold execHoldoverLimitCrossed
  with_reducible repeat' first
    | assumption
    | apply Keeps.ite
    | apply Answers.powered
    | apply updateHoldExc_keeps

theorem incrWrite_keeps {s₀ : State} (v : Word) (s : State) (h₀ : Keeps s₀ s) : Keeps s₀ (incrWrite v s) := by
  unfold incrWrite
  with_reducible repeat' first
    | apply Keeps.ite
    | apply wr_keeps
    | apply raise_keeps
    | (apply Keeps.lit; first | exact Keeps.refl _ | assumption)

theorem execIncrWrite_keeps {s₀ : State} (who : Req) (v : Word) (s : State) (h₀ : Keeps s₀ s) :
    Answers s₀ (execIncrWrite who v s) := by
  unfold execIncrWrite
  with_reducible repeat' first
    | exact Keeps.refl _
    | assumption
    | (intro _; try dsimp only)
    | apply Answers.next
    | apply incrWrite_keeps
    | apply serve_keeps

theorem irigFrame_keeps {s₀ : State} (f : IrigFrame) (s : State) (h₀ : Keeps s₀ s) : Keeps s₀ (irigFrame f s) := by
  unfold irigFrame
  with_reducible repeat' first
    | apply Keeps.ite
    | apply wrF_keeps
    | apply wr_keeps
    | (apply Keeps.lit; first | exact Keeps.refl _ | assumption)

theorem execIrigFrame_keeps {s₀ : State} (f : IrigFrame) (s : State) (h₀ : Keeps s₀ s) : Answers s₀ (execIrigFrame f s) := by
  unfold execIrigFrame
  with_reducible repeat' first
    | assumption
    | apply Keeps.ite
    | apply Answers.powered
    | apply irigFrame_keeps

theorem kernelTick_keeps {s₀ : State} (s : State) (h₀ : Keeps s₀ s) : Keeps s₀ (kernelTick s) := by
  unfold kernelTick
  with_reducible repeat' first
    | apply wr_keeps
    | (apply Keeps.lit; first | exact Keeps.refl _ | assumption)

theorem execKernelTick_keeps {s₀ : State} (s : State) (h₀ : Keeps s₀ s) : Answers s₀ (execKernelTick s) := by
  unfold execKernelTick
  with_reducible repeat' first
    | apply Keeps.ite
    | apply Answers.powered
    | apply kernelTick_keeps
    | (apply Keeps.lit; first | exact Keeps.refl _ | assumption)

theorem leapApplied_keeps {s₀ : State} (s : State) (h₀ : Keeps s₀ s) : Keeps s₀ (leapApplied s) := by
  unfold leapApplied
  with_reducible repeat' first
    | apply logEvent_keeps
    | apply wr_keeps
    | apply raise_keeps
    | (apply Keeps.lit; first | exact Keeps.refl _ | assumption)

theorem execLeapApplied_keeps {s₀ : State} (s : State) (h₀ : Keeps s₀ s) : Answers s₀ (execLeapApplied s) := by
  unfold execLeapApplied
  with_reducible repeat' first
    | assumption
    | apply Keeps.ite
    | apply Answers.powered
    | apply leapApplied_keeps

theorem lockSet_keeps {s₀ : State} (s : State) (h₀ : Keeps s₀ s) : Keeps s₀ (lockSet s) := by
  unfold lockSet
  with_reducible repeat' first
    | apply Keeps.ite
    | apply updateHoldExc_keeps
    | apply nodeEdge_keeps
    | (apply Keeps.lit; first | exact Keeps.refl _ | assumption)

theorem execLockSet_keeps {s₀ : State} (who : Req) (s : State) (h₀ : Keeps s₀ s) : Answers s₀ (execLockSet who s) := by
  unfold execLockSet
  with_reducible repeat' first
    | exact Keeps.refl _
    | assumption
    | (intro _; try dsimp only)
    | apply Answers.next
    | apply lockSet_keeps
    | apply serve_keeps

theorem execNoIncrementTimeout_keeps {s₀ : State} (s : State) (h₀ : Keeps s₀ s) : Answers s₀ (execNoIncrementTimeout s) := by
  unfold execNoIncrementTimeout
  with_reducible repeat' first
    | assumption
    | apply Keeps.ite
    | apply Answers.powered
    | apply lockedToHoldover_keeps

theorem ppsEdge_keeps {s₀ : State} (s : State) (h₀ : Keeps s₀ s) : Keeps s₀ (ppsEdge s) := by
  unfold ppsEdge
  with_reducible repeat' (apply Keeps.lit; first | exact Keeps.refl _ | assumption | intro _ | apply Keeps.ite | apply wr_keeps)

theorem execPpsEdge_keeps {s₀ : State} (s : State) (h₀ : Keeps s₀ s) : Answers s₀ (execPpsEdge s) := by
  unfold execPpsEdge
  with_reducible repeat' first
    | assumption
    | apply Keeps.ite
    | apply Answers.powered
    | apply ppsEdge_keeps

theorem execPpsMissing_keeps {s₀ : State} (s : State) (h₀ : Keeps s₀ s) : Answers s₀ (execPpsMissing s) := by
  unfold execPpsMissing
  with_reducible repeat' first
    | assumption
    | apply Keeps.ite
    | apply Answers.powered
    | apply raise_keeps

theorem execCycleReferenceLost_keeps {s₀ : State} (why : RefLoss) (s : State) (h₀ : Keeps s₀ s) :
    Answers s₀ (execCycleReferenceLost why s) := by
  unfold execCycleReferenceLost
  with_reducible repeat' first
    | assumption
    | apply Keeps.ite
    | apply Answers.powered
    | apply cycLeave_keeps

theorem schDisarm_keeps {s₀ : State} (e : Nat) (s : State) (h₀ : Keeps s₀ s) : Keeps s₀ (schDisarm e s) := by
  unfold schDisarm
  with_reducible repeat' first
    | assumption
    | apply setEntry_keeps

theorem execSchDisarm_keeps {s₀ : State} (who : Req) (s : State) (h₀ : Keeps s₀ s) : Answers s₀ (execSchDisarm who s) := by
  unfold execSchDisarm
  with_reducible repeat' first
    | exact Keeps.refl _
    | assumption
    | (intro _; try dsimp only)
    | apply Answers.next
    | apply wrF_keeps
    | apply serve_keeps
    | apply schDisarm_keeps

theorem execSchDisarmAll_keeps {s₀ : State} (who : Req) (s : State) (h₀ : Keeps s₀ s) : Answers s₀ (execSchDisarmAll who s) := by
  unfold execSchDisarmAll
  with_reducible repeat' first
    | exact Keeps.refl _
    | assumption
    | (intro _; try dsimp only)
    | apply Answers.next
    | apply wrF_keeps
    | apply serve_keeps
    | apply schDisarm_keeps
    | apply Keeps.forUpTo

theorem execSchLoad_keeps {s₀ : State} (who : Req) (s : State) (h₀ : Keeps s₀ s) : Answers s₀ (execSchLoad who s) := by
  unfold execSchLoad
  with_reducible repeat' first
    | exact Keeps.refl _
    | assumption
    | (intro _; try dsimp only)
    | apply Answers.next
    | apply wrWords_keeps
    | apply wrF_keeps
    | apply serve_keeps

theorem execSchStore_keeps {s₀ : State} (who : Req) (s : State) (h₀ : Keeps s₀ s) : Answers s₀ (execSchStore who s) := by
  unfold execSchStore
  with_reducible repeat' first
    | exact Keeps.refl _
    | assumption
    | (intro _; try dsimp only)
    | apply Answers.next
    | apply serve_keeps
    | apply schStore_keeps

theorem execScheduleFire_keeps {s₀ : State} (e : Fin 512) (s : State) (h₀ : Keeps s₀ s) : Answers s₀ (execScheduleFire e s) := by
  unfold execScheduleFire
  with_reducible repeat' first
    | assumption
    | apply Keeps.ite
    | apply Answers.powered
    | apply schOccur_keeps

theorem timeBlockFreeze_keeps {s₀ : State} (who : Req) (k : Nat) (s : State) (h₀ : Keeps s₀ s) :
    Keeps s₀ (timeBlockFreeze who k s) := by
  unfold timeBlockFreeze
  with_reducible repeat' first
    | apply answer_keeps
    | (apply Keeps.lit; first | exact Keeps.refl _ | assumption)

theorem execTimeBlockFreeze_keeps {s₀ : State} (who : Req) (k : Fin 5) (s : State) (h₀ : Keeps s₀ s) :
    Answers s₀ (execTimeBlockFreeze who k s) := by
  unfold execTimeBlockFreeze
  with_reducible repeat' first
    | exact Keeps.refl _
    | assumption
    | (intro _; try dsimp only)
    | apply Answers.next
    | apply timeBlockFreeze_keeps
    | apply serve_keeps

theorem timeBlockRelease_keeps {s₀ : State} (who : Req) (s : State) (h₀ : Keeps s₀ s) : Keeps s₀ (timeBlockRelease who s) := by
  unfold timeBlockRelease
  with_reducible repeat' first
    | apply answer_keeps
    | (apply Keeps.lit; first | exact Keeps.refl _ | assumption)

theorem execTimeBlockRelease_keeps {s₀ : State} (who : Req) (s : State) (h₀ : Keeps s₀ s) :
    Answers s₀ (execTimeBlockRelease who s) := by
  unfold execTimeBlockRelease
  with_reducible repeat' first
    | exact Keeps.refl _
    | assumption
    | (intro _; try dsimp only)
    | apply Answers.next
    | apply timeBlockRelease_keeps
    | apply serve_keeps

theorem execTimeFreezeTimeout_keeps {s₀ : State} (who : Req) (s : State) (h₀ : Keeps s₀ s) :
    Answers s₀ (execTimeFreezeTimeout who s) := by
  unfold execTimeFreezeTimeout
  with_reducible repeat' first
    | apply Keeps.ite
    | apply Answers.powered
    | (apply Keeps.lit; first | exact Keeps.refl _ | assumption)

theorem tqWrite_keeps {s₀ : State} (v : Word) (s : State) (h₀ : Keeps s₀ s) : Keeps s₀ (tqWrite v s) := by
  unfold tqWrite
  with_reducible repeat' first
    | apply updateHoldExc_keeps
    | (apply Keeps.lit; first | exact Keeps.refl _ | assumption)

theorem execTqWrite_keeps {s₀ : State} (who : Req) (v : Word) (s : State) (h₀ : Keeps s₀ s) :
    Answers s₀ (execTqWrite who v s) := by
  unfold execTqWrite
  with_reducible repeat' first
    | exact Keeps.refl _
    | assumption
    | (intro _; try dsimp only)
    | apply Answers.next
    | apply serve_keeps
    | apply tqWrite_keeps

theorem homeChange_keeps {s₀ : State} (was : Option IslSlot) (now : Option IslSlot) (s : State) (h₀ : Keeps s₀ s) :
    Keeps s₀ (homeChange was now s) := by
  unfold homeChange
  with_reducible repeat' (apply Keeps.lit; first | exact Keeps.refl _ | assumption | intro _ | apply Keeps.ite | apply cycLeave_keeps)

theorem topCount_keeps {s₀ : State} (k : Nat) (n : Nat) (s : State) (h₀ : Keeps s₀ s) : Keeps s₀ (topCount k n s) := by
  unfold topCount
  with_reducible repeat' first
    | assumption
    | apply count_keeps

theorem latchSplit_keeps {s₀ : State} (stream : Nat) (inst : Nat) (tag : Nat) (s : State) (p : Nat × Bool) (h₀ : Keeps s₀ s) :
    Keeps s₀ (latchSplit stream inst tag s p) := by
  unfold latchSplit
  with_reducible repeat' first
    | assumption
    | apply wrWords_keeps
    | apply topCount_keeps

theorem latestPut_keeps {s₀ : State} (k : Nat) (inst : Nat) (v : Slot) (s : State) (h₀ : Keeps s₀ s) :
    Keeps s₀ (latestPut k inst v s) := by
  unfold latestPut
  with_reducible repeat' first
    | assumption
    | apply setNest_keeps

theorem nestClose_keeps {s₀ : State} (inst : Nat) (rev : Nat) (s : State) (h₀ : Keeps s₀ s) :
    Keeps s₀ (nestClose inst rev s) := by
  unfold nestClose
  with_reducible repeat' first
    | assumption
    | apply Keeps.ite
    | apply oscClose_keeps

theorem topSet_keeps {s₀ : State} (i : TopInst) (s : State) (h₀ : Keeps s₀ s) : Keeps s₀ (topSet i s) := by
  unfold topSet
  with_reducible repeat' first
    | assumption
    | apply wr_keeps

theorem topClasses_keeps {s₀ : State} (newest : Bool) (x : TopInst) (s : State) (h₀ : Keeps s₀ s) :
    Keeps s₀ (topClasses newest x s) := by
  unfold topClasses
  with_reducible repeat' first
    | assumption
    | apply Keeps.ite
    | apply setNest_keeps
    | apply classOutput_keeps

theorem topEvents_keeps {s₀ : State} (e : TopEv) (s : State) (h₀ : Keeps s₀ s) : Keeps s₀ (topEvents e s) := by
  unfold topEvents
  with_reducible repeat' first
    | assumption
    | apply Keeps.ite
    | apply logEvent_keeps
    | apply raiseIf_keeps
    | apply topCount_keeps
    | apply raise_keeps

theorem topRerun_keeps {s₀ : State} (inst : Nat) (tag : Nat) (s : State) (h₀ : Keeps s₀ s) : Keeps s₀ (topRerun inst tag s) := by
  unfold topRerun
  with_reducible repeat' first
    | assumption
    | apply topCount_keeps
    | apply homeChange_keeps
    | apply setNest_keeps
    | apply topClasses_keeps
    | apply topEvents_keeps
    | split

theorem nestRevision_keeps {s₀ : State} (inst : Nat) (rev : Nat) (changed : List Nat) (s : State) (h₀ : Keeps s₀ s) :
    Keeps s₀ (nestRevision inst rev changed s) := by
  unfold nestRevision
  with_reducible repeat' first
    | assumption
    | apply Keeps.ite
    | apply topRerun_keeps
    | apply oscRerun_keeps

theorem topSeal_keeps {s₀ : State} (inst : Nat) (s : State) (h₀ : Keeps s₀ s) : Keeps s₀ (topSeal inst s) := by
  unfold topSeal
  with_reducible repeat' first
    | assumption
    | apply Keeps.ite
    | apply topCount_keeps
    | apply homeChange_keeps
    | apply setNest_keeps
    | apply topClasses_keeps
    | apply topEvents_keeps

theorem nestSeal_keeps {s₀ : State} (inst : Nat) (s : State) (h₀ : Keeps s₀ s) : Keeps s₀ (nestSeal inst s) := by
  unfold nestSeal
  with_reducible repeat' first
    | assumption
    | apply Keeps.ite
    | apply oscSeal_keeps
    | apply topSeal_keeps

theorem topStart_keeps {s₀ : State} (s : State) (h₀ : Keeps s₀ s) : Keeps s₀ (topStart s) := by
  unfold topStart
  with_reducible repeat' first
    | assumption
    | apply setNest_keeps

theorem nestStart_keeps {s₀ : State} (s : State) (h₀ : Keeps s₀ s) : Keeps s₀ (nestStart s) := by
  unfold nestStart
  with_reducible repeat' first
    | assumption
    | apply oscStart_keeps
    | apply topStart_keeps

theorem topError_keeps {s₀ : State} (s : State) (h₀ : Keeps s₀ s) : Keeps s₀ (topError s) := by
  unfold topError
  with_reducible repeat' first
    | assumption
    | apply setNest_keeps
    | apply raise_keeps

theorem topPlace_keeps {s₀ : State} (stream : Nat) (inst : Nat) (tag : Nat) (v : Slot) (s : State) (h₀ : Keeps s₀ s) :
    Keeps s₀ (topPlace stream inst tag v s) := by
  unfold topPlace
  with_reducible repeat' first
    | exact Keeps.refl _
    | assumption
    | (intro _; try dsimp only)
    | apply Keeps.ite
    | apply topCount_keeps
    | apply setNest_keeps
    | apply latestPut_keeps
    | apply raise_keeps
    | apply classOutput_keeps
    | apply latchSplit_keeps
    | apply Keeps.foldl

theorem bootSyncStore_keeps {s₀ : State} (s : State) (h₀ : Keeps s₀ s) : Keeps s₀ (bootSyncStore s) := by
  unfold bootSyncStore
  with_reducible repeat' first
    | assumption
    | apply Keeps.ite
    | apply setScales_keeps
    | apply setEntry_keeps

theorem calApply_keeps {s₀ : State} (mask : Nat) (s : State) (h₀ : Keeps s₀ s) : Keeps s₀ (calApply mask s) := by
  unfold calApply
  with_reducible repeat' first
    | exact Keeps.refl _
    | assumption
    | (intro _; try dsimp only)
    | apply Keeps.ite
    | apply wrF_keeps
    | apply setChan_keeps
    | apply calBusy_keeps
    | apply raise_keeps
    | apply applyUser_keeps
    | apply Keeps.forUpTo

theorem channelDead_keeps {s₀ : State} (ch : Nat) (s : State) (h₀ : Keeps s₀ s) : Keeps s₀ (channelDead ch s) := by
  unfold channelDead
  with_reducible repeat' first
    | assumption
    | apply Keeps.ite
    | apply setStat_keeps
    | apply raise_keeps

theorem execBootSyncFallback_keeps {s₀ : State} (s : State) (h₀ : Keeps s₀ s) : Answers s₀ (execBootSyncFallback s) := by
  unfold execBootSyncFallback
  with_reducible repeat' first
    | assumption
    | apply Keeps.ite
    | apply Answers.powered
    | apply syncRequest_keeps
    | apply setScales_keeps

theorem execBootSyncStore_keeps {s₀ : State} (s : State) (h₀ : Keeps s₀ s) : Answers s₀ (execBootSyncStore s) := by
  unfold execBootSyncStore
  with_reducible repeat' first
    | assumption
    | apply Answers.powered
    | apply bootSyncStore_keeps

theorem execCalApply_keeps {s₀ : State} (who : Req) (mask : BitVec 24) (s : State) (h₀ : Keeps s₀ s) :
    Answers s₀ (execCalApply who mask s) := by
  unfold execCalApply
  with_reducible repeat' first
    | exact Keeps.refl _
    | assumption
    | (intro _; try dsimp only)
    | apply Keeps.ite
    | apply Answers.next
    | apply calApply_keeps
    | apply holdWrite_keeps
    | apply serve_keeps

theorem execChannelDead_keeps {s₀ : State} (ch : Fin 24) (s : State) (h₀ : Keeps s₀ s) : Answers s₀ (execChannelDead ch s) := by
  unfold execChannelDead
  with_reducible repeat' first
    | assumption
    | apply Answers.powered
    | apply channelDead_keeps

theorem execDeadClear_keeps {s₀ : State} (ch : Fin 24) (s : State) (h₀ : Keeps s₀ s) : Answers s₀ (execDeadClear ch s) := by
  unfold execDeadClear
  with_reducible repeat' first
    | assumption
    | apply Keeps.ite
    | apply Answers.powered
    | apply setStat_keeps
    | apply startSettling_keeps

theorem execDecimatorOutput_keeps {s₀ : State} (ch : Fin 24) (bits : List Bool) (s : State) (h₀ : Keeps s₀ s) :
    Answers s₀ (execDecimatorOutput ch bits s) := by
  unfold execDecimatorOutput
  with_reducible repeat' first
    | assumption
    | apply Keeps.ite
    | apply Answers.powered
    | apply channelOutput_keeps

theorem execEstimateComplete_keeps {s₀ : State} (ls : Fin 64) (inst : Nat) (s : State) (h₀ : Keeps s₀ s) :
    Answers s₀ (execEstimateComplete ls inst s) := by
  unfold execEstimateComplete
  with_reducible repeat' first
    | assumption
    | apply Answers.powered
    | apply estimate_keeps

theorem fcalLoad_keeps {s₀ : State} (ch : Nat) (s : State) (h₀ : Keeps s₀ s) : Keeps s₀ (fcalLoad ch s) := by
  unfold fcalLoad
  with_reducible repeat' first
    | exact Keeps.refl _
    | assumption
    | (intro _; try dsimp only)
    | apply wr_keeps
    | apply Keeps.forUpTo

theorem execFcalLoad_keeps {s₀ : State} (who : Req) (ch : BitVec 5) (s : State) (h₀ : Keeps s₀ s) :
    Answers s₀ (execFcalLoad who ch s) := by
  unfold execFcalLoad
  with_reducible repeat' first
    | exact Keeps.refl _
    | assumption
    | (intro _; try dsimp only)
    | apply Answers.next
    | apply serve_keeps
    | apply fcalLoad_keeps

theorem putPq_keeps {s₀ : State} (v : Word × Word) (s : State) (h₀ : Keeps s₀ s) : Keeps s₀ (putPq v s) := by
  unfold putPq
  with_reducible repeat' first
    | assumption
    | apply wr_keeps

theorem execPqLoad_keeps {s₀ : State} (who : Req) (s : State) (h₀ : Keeps s₀ s) : Answers s₀ (execPqLoad who s) := by
  unfold execPqLoad
  with_reducible repeat' first
    | exact Keeps.refl _
    | assumption
    | (intro _; try dsimp only)
    | apply Answers.next
    | apply putPq_keeps
    | apply serve_keeps

theorem pqStored_keeps {s₀ : State} (s : State) (h₀ : Keeps s₀ s) : Keeps s₀ (pqStored s) := by
  unfold pqStored
  with_reducible repeat' first
    | assumption
    | apply logEvent_keeps
    | apply wrF_keeps
    | apply raise_keeps

theorem pqRefuse_keeps {s₀ : State} (s : State) (h₀ : Keeps s₀ s) : Keeps s₀ (pqRefuse s) := by
  unfold pqRefuse
  with_reducible repeat' first
    | assumption
    | apply wrF_keeps
    | apply raise_keeps

theorem pqStore_keeps {s₀ : State} (s : State) (h₀ : Keeps s₀ s) : Keeps s₀ (pqStore s) := by
  unfold pqStore
  with_reducible repeat' first
    | assumption
    | apply Keeps.ite
    | apply pqStored_keeps
    | apply pqRefuse_keeps
    | apply setScales_keeps

theorem execPqStore_keeps {s₀ : State} (who : Req) (s : State) (h₀ : Keeps s₀ s) : Answers s₀ (execPqStore who s) := by
  unfold execPqStore
  with_reducible repeat' first
    | exact Keeps.refl _
    | assumption
    | (intro _; try dsimp only)
    | apply Answers.next
    | apply serve_keeps
    | apply pqStore_keeps

theorem execSclSyncGo_keeps {s₀ : State} (who : Req) (s : State) (h₀ : Keeps s₀ s) : Answers s₀ (execSclSyncGo who s) := by
  unfold execSclSyncGo
  with_reducible repeat' first
    | exact Keeps.refl _
    | assumption
    | (intro _; try dsimp only)
    | apply Answers.next
    | apply syncRequest_keeps
    | apply serve_keeps

theorem settlingEnd_keeps {s₀ : State} (ch : Nat) (s : State) (h₀ : Keeps s₀ s) : Keeps s₀ (settlingEnd ch s) := by
  unfold settlingEnd
  with_reducible repeat' first
    | assumption
    | apply Keeps.ite
    | apply setStat_keeps
    | apply settleStatus_keeps
    | apply raise_keeps

theorem execSettlingEnd_keeps {s₀ : State} (ch : Fin 24) (s : State) (h₀ : Keeps s₀ s) : Answers s₀ (execSettlingEnd ch s) := by
  unfold execSettlingEnd
  with_reducible repeat' first
    | assumption
    | apply Answers.powered
    | apply settlingEnd_keeps

theorem svGainLoad_keeps {s₀ : State} (s : State) (h₀ : Keeps s₀ s) : Keeps s₀ (svGainLoad s) := by
  unfold svGainLoad
  with_reducible repeat' first
    | assumption
    | apply Keeps.ite
    | apply putPq_keeps

theorem execSvGainLoad_keeps {s₀ : State} (who : Req) (s : State) (h₀ : Keeps s₀ s) : Answers s₀ (execSvGainLoad who s) := by
  unfold execSvGainLoad
  with_reducible repeat' first
    | exact Keeps.refl _
    | assumption
    | (intro _; try dsimp only)
    | apply Answers.next
    | apply svGainLoad_keeps
    | apply serve_keeps

theorem svGainStore_keeps {s₀ : State} (s : State) (h₀ : Keeps s₀ s) : Keeps s₀ (svGainStore s) := by
  unfold svGainStore
  with_reducible repeat' first
    | assumption
    | apply pqStored_keeps
    | apply pqRefuse_keeps
    | apply setScales_keeps
    | apply ucalSvPoints_keeps
    | split

theorem execSvGainStore_keeps {s₀ : State} (who : Req) (s : State) (h₀ : Keeps s₀ s) : Answers s₀ (execSvGainStore who s) := by
  unfold execSvGainStore
  with_reducible repeat' first
    | exact Keeps.refl _
    | assumption
    | (intro _; try dsimp only)
    | apply Answers.next
    | apply serve_keeps
    | apply svGainStore_keeps

theorem execSyncApply_keeps {s₀ : State} (s : State) (h₀ : Keeps s₀ s) : Answers s₀ (execSyncApply s) := by
  unfold execSyncApply
  with_reducible repeat' first
    | assumption
    | apply Answers.powered
    | apply syncApply_keeps

theorem execSyncPinEdge_keeps {s₀ : State} (rising : Bool) (s : State) (h₀ : Keeps s₀ s) :
    Answers s₀ (execSyncPinEdge rising s) := by
  unfold execSyncPinEdge
  with_reducible repeat' first
    | assumption
    | apply Keeps.ite
    | apply Answers.powered
    | apply syncRequest_keeps

theorem bellWrite_keeps {s₀ : State} (k : Nat) (v : Nat) (s : State) (h₀ : Keeps s₀ s) : Keeps s₀ (bellWrite k v s) := by
  unfold bellWrite
  with_reducible repeat' first
    | assumption
    | apply Keeps.ite
    | apply wrF_keeps
    | apply wr_keeps
    | apply raise_keeps

theorem clsLoad_keeps {s₀ : State} (s : State) (h₀ : Keeps s₀ s) : Keeps s₀ (clsLoad s) := by
  unfold clsLoad
  with_reducible repeat' first
    | exact Keeps.refl _
    | assumption
    | (intro _; try dsimp only)
    | apply wr_keeps
    | apply Keeps.forUpTo

theorem bellLearn_keeps {s₀ : State} (k : Nat) (s0 : State) (h₀ : Keeps s₀ s0) : Keeps s₀ (bellLearn k s0) := by
  unfold bellLearn
  with_reducible repeat' first
    | apply Keeps.ite
    | apply bellWrite_keeps
    | apply wr_keeps
    | apply clsLoad_keeps
    | (apply Keeps.lit; first | exact Keeps.refl _ | assumption)

theorem twRefresh_keeps {s₀ : State} (inst : Nat) (s : State) (h₀ : Keeps s₀ s) : Keeps s₀ (twRefresh inst s) := by
  unfold twRefresh
  with_reducible repeat' first
    | assumption
    | apply Keeps.ite
    | apply wrF_keeps
    | apply setWindow_keeps
    | split

theorem setRuleTab_keeps {s₀ : State} (inst : Nat) (r : Nat) (f : RuleTab → RuleTab) (s : State) (h₀ : Keeps s₀ s) :
    Keeps s₀ (setRuleTab inst r f s) := by
  unfold setRuleTab
  with_reducible repeat' first
    | assumption
    | apply setTab_keeps
    | split

theorem evaluate_keeps {s₀ : State} (cnt : Nat) (r : Nat) (inst : Nat) (tag : Nat) (early : Bool) (s : State) (h₀ : Keeps s₀ s) :
    Keeps s₀ (evaluate cnt r inst tag early s) := by
  unfold evaluate
  with_reducible repeat' first
    | assumption
    | apply setRuleTab_keeps
    | apply mktCount_keeps
    | apply evalRule_keeps

theorem feedRule_keeps {s₀ : State} (inst : Nat) (tag : Nat) (s : State) (p : Nat × RuleCfg) (h₀ : Keeps s₀ s) :
    Keeps s₀ (feedRule inst tag s p) := by
  unfold feedRule
  with_reducible repeat' first
    | assumption
    | apply setRuleTab_keeps
    | apply evaluate_keeps
    | split

theorem placeIn_keeps {s₀ : State} (n : Nat) (inst : Nat) (v : Slot) (s : State) (h₀ : Keeps s₀ s) :
    Keeps s₀ (placeIn n inst v s) := by
  unfold placeIn
  with_reducible repeat' first
    | exact Keeps.refl _
    | assumption
    | (intro _; try dsimp only)
    | apply feedRule_keeps
    | apply topPlace_keeps
    | apply setTab_keeps
    | apply mktCount_keeps
    | apply Keeps.foldl
    | split

theorem placeFlight_keeps {s₀ : State} (inst : Nat) (s : State) (h₀ : Keeps s₀ s) : Keeps s₀ (placeFlight inst s) := by
  unfold placeFlight
  with_reducible repeat' first
    | (intro _; try dsimp only)
    | apply placeIn_keeps
    | apply Keeps.foldl
    | (apply Keeps.lit; first | exact Keeps.refl _ | assumption)

theorem reviseRule_keeps {s₀ : State} (inst : Nat) (rev : Nat) (s : State) (p : Nat × RuleCfg) (h₀ : Keeps s₀ s) :
    Keeps s₀ (reviseRule inst rev s p) := by
  unfold reviseRule
  with_reducible repeat' first
    | assumption
    | apply evaluate_keeps
    | split

theorem revise_keeps {s₀ : State} (inst : Nat) (closing : Bool) (s : State) (h₀ : Keeps s₀ s) :
    Keeps s₀ (revise inst closing s) := by
  unfold revise
  with_reducible repeat' first
    | exact Keeps.refl _
    | assumption
    | (intro _; try dsimp only)
    | apply twRefresh_keeps
    | apply nestRevision_keeps
    | apply reviseRule_keeps
    | apply outRevision_keeps
    | apply raise_keeps
    | apply setTab_keeps
    | apply mktCount_keeps
    | apply Keeps.foldl
    | split

theorem finishTab_keeps {s₀ : State} (inst : Nat) (s : State) (h₀ : Keeps s₀ s) : Keeps s₀ (finishTab inst s) := by
  unfold finishTab
  try dsimp only
  with_reducible repeat' first
    | (intro _; try dsimp only)
    | (apply Keeps.lit; first | exact Keeps.refl _ | assumption | intro _ | apply Keeps.ite | apply twRefresh_keeps | apply digestClose_keeps | apply placeFlight_keeps | apply nestClose_keeps | apply rulesClose_keeps | apply revise_keeps | apply ribTake_keeps | apply setTab_keeps | apply mktCount_keeps | apply outClose_keeps | apply Keeps.foldl | apply Keeps.forUpTo)
    | split

theorem closeSection_keeps {s₀ : State} (inst : Nat) (k : Nat) (shed : Bool) (s : State) (h₀ : Keeps s₀ s) :
    Keeps s₀ (closeSection inst k shed s) := by
  unfold closeSection
  with_reducible repeat' first
    | assumption
    | apply Keeps.ite
    | apply finishTab_keeps
    | apply setTab_keeps
    | apply mktCount_keeps
    | split

theorem dropTab_keeps {s₀ : State} (t : Tableau) (s : State) (h₀ : Keeps s₀ s) : Keeps s₀ (dropTab t s) := by
  unfold dropTab
  with_reducible repeat' first
    | apply ribMiss_keeps
    | apply setStat_keeps
    | apply endWindow_keeps
    | (apply Keeps.lit; first | exact Keeps.refl _ | assumption | intro _ | apply Keeps.ite)

theorem heldFill_keeps {s₀ : State} (k : Nat) (t : Tableau) (s : State) (p : Nat × StreamCfg) (h₀ : Keeps s₀ s) :
    Keeps s₀ (heldFill k t s p) := by
  unfold heldFill
  with_reducible repeat' first
    | assumption
    | apply Keeps.ite
    | apply setTab_keeps
    | apply mktCount_keeps
    | split

theorem marketStart_keeps {s₀ : State} (s0 : State) (h₀ : Keeps s₀ s0) : Keeps s₀ (marketStart s0) := by
  unfold marketStart
  with_reducible repeat' first
    | (intro _; try dsimp only)
    | apply Keeps.forUpTo
    | (apply Keeps.lit; first | exact Keeps.refl _ | assumption | intro _ | apply Keeps.ite | apply ribReport_keeps | apply wr_keeps | apply ribLose_keeps)

theorem storeRoom_keeps {s₀ : State} (s : State) (h₀ : Keeps s₀ s) : Keeps s₀ (storeRoom s) := by
  unfold storeRoom
  with_reducible repeat' first
    | assumption
    | apply dropTab_keeps
    | split

theorem openTab_keeps {s₀ : State} (step : Bool) (s0 : State) (h₀ : Keeps s₀ s0) : Keeps s₀ (openTab step s0) := by
  unfold openTab
  with_reducible repeat' first
    | (intro _; try dsimp only)
    | apply Keeps.foldl
    | (apply Keeps.lit; first | exact Keeps.refl _ | assumption | intro _ | apply Keeps.ite | apply placeIn_keeps | apply mktCount_keeps | apply storeRoom_keeps)

theorem revisionShed_keeps {s₀ : State} (on : Bool) (s : State) (h₀ : Keeps s₀ s) : Keeps s₀ (revisionShed on s) := by
  unfold revisionShed
  with_reducible repeat' first
    | (intro _; try dsimp only)
    | apply Keeps.ite
    | apply closeSection_keeps
    | apply raise_keeps
    | apply Keeps.foldl
    | apply Keeps.forUpTo
    | (apply Keeps.lit; first | exact Keeps.refl _ | assumption)

theorem sealRule_keeps {s₀ : State} (inst : Nat) (k : Nat) (s : State) (p : Nat × RuleCfg) (h₀ : Keeps s₀ s) :
    Keeps s₀ (sealRule inst k s p) := by
  unfold sealRule
  with_reducible repeat' first
    | assumption
    | apply evaluate_keeps
    | split

theorem sealSection_keeps {s₀ : State} (inst : Nat) (k : Nat) (s : State) (h₀ : Keeps s₀ s) :
    Keeps s₀ (sealSection inst k s) := by
  unfold sealSection
  with_reducible repeat' first
    | exact Keeps.refl _
    | assumption
    | (intro _; try dsimp only)
    | apply Keeps.ite
    | apply twRefresh_keeps
    | apply closeSection_keeps
    | apply sealRule_keeps
    | apply revise_keeps
    | apply heldFill_keeps
    | apply nestSeal_keeps
    | apply setTab_keeps
    | apply outSeal_keeps
    | apply mktCount_keeps
    | apply count_keeps
    | apply Keeps.foldl
    | split

theorem sealFollow_keeps {s₀ : State} (k : Nat) (insts : List Nat) (s : State) (h₀ : Keeps s₀ s) :
    Keeps s₀ (sealFollow k insts s) := by
  unfold sealFollow
  with_reducible repeat' first
    | exact Keeps.refl _
    | assumption
    | (intro _; try dsimp only)
    | apply sealSection_keeps
    | apply Keeps.foldl
    | split

theorem storeError_keeps {s₀ : State} (inst : Nat) (s : State) (h₀ : Keeps s₀ s) : Keeps s₀ (storeError inst s) := by
  unfold storeError
  try dsimp only
  with_reducible repeat' first
    | assumption
    | apply twRefresh_keeps
    | apply revise_keeps
    | apply raise_keeps
    | apply setTab_keeps
    | apply mktCount_keeps
    | split

theorem clsClear_keeps {s₀ : State} (s : State) (h₀ : Keeps s₀ s) : Keeps s₀ (clsClear s) := by
  unfold clsClear
  with_reducible repeat' first
    | apply clsLoad_keeps
    | (apply Keeps.lit; first | exact Keeps.refl _ | assumption)

theorem execBellLearn_keeps {s₀ : State} (k : Fin 8) (s : State) (h₀ : Keeps s₀ s) : Answers s₀ (execBellLearn k s) := by
  unfold execBellLearn
  with_reducible repeat' first
    | assumption
    | apply Answers.inFull
    | apply bellLearn_keeps

theorem execBellWrite_keeps {s₀ : State} (who : Req) (k : Fin 8) (v : BitVec 16) (s : State) (h₀ : Keeps s₀ s) :
    Answers s₀ (execBellWrite who k v s) := by
  unfold execBellWrite
  with_reducible repeat' first
    | exact Keeps.refl _
    | assumption
    | (intro _; try dsimp only)
    | apply Answers.next
    | apply bellWrite_keeps
    | apply serve_keeps

theorem execClsClear_keeps {s₀ : State} (who : Req) (s : State) (h₀ : Keeps s₀ s) : Answers s₀ (execClsClear who s) := by
  unfold execClsClear
  with_reducible repeat' first
    | exact Keeps.refl _
    | assumption
    | (intro _; try dsimp only)
    | apply Answers.next
    | apply clsClear_keeps
    | apply serve_keeps

theorem execClsLoad_keeps {s₀ : State} (who : Req) (s : State) (h₀ : Keeps s₀ s) : Answers s₀ (execClsLoad who s) := by
  unfold execClsLoad
  with_reducible repeat' first
    | exact Keeps.refl _
    | assumption
    | (intro _; try dsimp only)
    | apply Answers.next
    | apply serve_keeps
    | apply clsLoad_keeps

theorem execMarketSnapshot_keeps {s₀ : State} (who : Req) (clr : Bool) (s : State) (h₀ : Keeps s₀ s) :
    Answers s₀ (execMarketSnapshot who clr s) := by
  unfold execMarketSnapshot
  with_reducible repeat' first
    | exact Keeps.refl _
    | assumption
    | (intro _; try dsimp only)
    | apply Answers.next
    | apply snapshot_keeps
    | apply serve_keeps
    | apply raise_keeps

theorem place_keeps {s₀ : State} (s : State) (h₀ : Keeps s₀ s) : Keeps s₀ (place s) := by
  unfold place
  try dsimp only
  with_reducible repeat' first
    | (apply Keeps.lit; first | exact Keeps.refl _ | assumption | intro _ | apply Keeps.ite | apply twRefresh_keeps | apply placeIn_keeps | apply Keeps.foldl | apply Keeps.forUpTo)
    | split

theorem execPlace_keeps {s₀ : State} (s : State) (h₀ : Keeps s₀ s) : Answers s₀ (execPlace s) := by
  unfold execPlace
  with_reducible repeat' first
    | assumption
    | apply Keeps.ite
    | apply Answers.inFull
    | apply place_keeps

theorem revisionIssue_keeps {s₀ : State} (inst : Nat) (s : State) (h₀ : Keeps s₀ s) : Keeps s₀ (revisionIssue inst s) := by
  unfold revisionIssue
  with_reducible repeat' first
    | assumption
    | apply revise_keeps
    | split

theorem execRevisionIssue_keeps {s₀ : State} (inst : Nat) (s : State) (h₀ : Keeps s₀ s) :
    Answers s₀ (execRevisionIssue inst s) := by
  unfold execRevisionIssue
  with_reducible repeat' first
    | assumption
    | apply Answers.inFull
    | apply revisionIssue_keeps

theorem execRibAbort_keeps {s₀ : State} (who : Req) (s : State) (h₀ : Keeps s₀ s) : Answers s₀ (execRibAbort who s) := by
  unfold execRibAbort
  with_reducible repeat' first
    | exact Keeps.refl _
    | assumption
    | (intro _; try dsimp only)
    | apply Answers.next
    | apply endWindow_keeps
    | apply serve_keeps

theorem ribOpen_keeps {s₀ : State} (s : State) (h₀ : Keeps s₀ s) : Keeps s₀ (ribOpen s) := by
  unfold ribOpen
  with_reducible repeat' first
    | apply Keeps.ite
    | apply openWindow_keeps
    | apply wr_keeps
    | apply openEmpty_keeps
    | (apply Keeps.lit; first | exact Keeps.refl _ | assumption)

theorem execRibOpen_keeps {s₀ : State} (who : Req) (s : State) (h₀ : Keeps s₀ s) : Answers s₀ (execRibOpen who s) := by
  unfold execRibOpen
  with_reducible repeat' first
    | exact Keeps.refl _
    | assumption
    | (intro _; try dsimp only)
    | apply Answers.next
    | apply ribOpen_keeps
    | apply serve_keeps

theorem sectionClose_keeps {s₀ : State} (inst : Nat) (k : Nat) (s : State) (h₀ : Keeps s₀ s) :
    Keeps s₀ (sectionClose inst k s) := by
  unfold sectionClose
  with_reducible repeat' first
    | assumption
    | apply closeSection_keeps
    | split

theorem execSectionClose_keeps {s₀ : State} (inst : Nat) (k : Fin 8) (s : State) (h₀ : Keeps s₀ s) :
    Answers s₀ (execSectionClose inst k s) := by
  unfold execSectionClose
  with_reducible repeat' first
    | assumption
    | apply Answers.inFull
    | apply sectionClose_keeps

theorem sectionSeal_keeps {s₀ : State} (inst : Nat) (k : Nat) (s : State) (h₀ : Keeps s₀ s) :
    Keeps s₀ (sectionSeal inst k s) := by
  unfold sectionSeal
  with_reducible repeat' first
    | assumption
    | apply sealSection_keeps
    | apply sealFollow_keeps
    | apply raise_keeps
    | apply setTab_keeps
    | apply mktCount_keeps
    | split

theorem execSectionSeal_keeps {s₀ : State} (inst : Nat) (k : Fin 8) (s : State) (h₀ : Keeps s₀ s) :
    Answers s₀ (execSectionSeal inst k s) := by
  unfold execSectionSeal
  with_reducible repeat' first
    | assumption
    | apply Answers.inFull
    | apply sectionSeal_keeps

theorem execTableauOpen_keeps {s₀ : State} (s : State) (h₀ : Keeps s₀ s) : Answers s₀ (execTableauOpen s) := by
  unfold execTableauOpen
  with_reducible repeat' first
    | assumption
    | apply Keeps.ite
    | apply Answers.inFull
    | apply openTab_keeps

theorem execTwAbort_keeps {s₀ : State} (who : Req) (s : State) (h₀ : Keeps s₀ s) : Answers s₀ (execTwAbort who s) := by
  unfold execTwAbort
  with_reducible repeat' first
    | exact Keeps.refl _
    | assumption
    | (intro _; try dsimp only)
    | apply Answers.next
    | apply endWindow_keeps
    | apply serve_keeps

theorem twOpen_keeps {s₀ : State} (s : State) (h₀ : Keeps s₀ s) : Keeps s₀ (twOpen s) := by
  unfold twOpen
  try dsimp only
  with_reducible repeat' first
    | (apply Keeps.lit; first | exact Keeps.refl _ | assumption | intro _ | apply Keeps.ite | apply openWindow_keeps | apply wr_keeps | apply openEmpty_keeps | apply Keeps.foldl | apply Keeps.forUpTo)
    | split

theorem execTwOpen_keeps {s₀ : State} (who : Req) (s : State) (h₀ : Keeps s₀ s) : Answers s₀ (execTwOpen who s) := by
  unfold execTwOpen
  with_reducible repeat' first
    | exact Keeps.refl _
    | assumption
    | (intro _; try dsimp only)
    | apply Answers.next
    | apply twOpen_keeps
    | apply serve_keeps

end Sys2Proof.Machine
end

