-- ==== Sys2Proof/Laws/KeepsPair.lean ====
section
/-!
SUPPORT. What each operation keeps (Safety.Keeps): the pair and the boot.
-/

namespace Sys2Proof.Machine

open Sys2Proof

set_option Elab.async false
set_option linter.all false

set_option maxRecDepth 4000

theorem setRole_keeps {s₀ : State} (r : Role) (s : State) (h₀ : Keeps s₀ s) : Keeps s₀ (setRole r s) := by
  unfold setRole
  with_reducible repeat' first
    | assumption
    | apply Keeps.ite
    | apply pairRecord_keeps
    | apply nodeEdge_keeps
    | apply raise_keeps
    | apply setPair_keeps

theorem becomeActive_keeps {s₀ : State} (s : State) (h₀ : Keeps s₀ s) : Keeps s₀ (becomeActive s) := by
  unfold becomeActive
  with_reducible repeat' first
    | assumption
    | apply setRole_keeps
    | apply setPair_keeps

theorem clerkAnswer_keeps {s₀ : State} (m : ClerkMsg) (typ : Nat) (reason : Nat) (epoch : Nat) (remain : Nat) (s : State)
    (h₀ : Keeps s₀ s) :
    Keeps s₀ (clerkAnswer m typ reason epoch remain s) := by
  unfold clerkAnswer
  with_reducible repeat' first
    | assumption
    | apply emit_keeps

theorem clerkSend_keeps {s₀ : State} (typ : Nat) (epoch : Nat) (s : State) (h₀ : Keeps s₀ s) :
    Keeps s₀ (clerkSend typ epoch s) := by
  unfold clerkSend
  with_reducible repeat' first
    | assumption
    | apply emit_keeps
    | apply setPair_keeps

theorem clerkAsk_keeps {s₀ : State} (s : State) (h₀ : Keeps s₀ s) : Keeps s₀ (clerkAsk s) := by
  unfold clerkAsk
  with_reducible repeat' first
    | assumption
    | apply Keeps.ite
    | apply clerkSend_keeps
    | apply setPair_keeps

theorem clerkGone_keeps {s₀ : State} (s : State) (h₀ : Keeps s₀ s) : Keeps s₀ (clerkGone s) := by
  unfold clerkGone
  with_reducible repeat' first
    | assumption
    | apply Keeps.ite
    | apply pairRecord_keeps
    | apply raise_keeps
    | apply setPair_keeps

theorem setClerkPair_keeps {s₀ : State} (k : Nat) (x : ClerkPair) (s : State) (h₀ : Keeps s₀ s) :
    Keeps s₀ (setClerkPair k x s) := by
  unfold setClerkPair
  with_reducible repeat' first
    | assumption
    | apply setPair_keeps

theorem clerkReleaseIn_keeps {s₀ : State} (m : ClerkMsg) (k : Nat) (s : State) (h₀ : Keeps s₀ s) :
    Keeps s₀ (clerkReleaseIn m k s) := by
  unfold clerkReleaseIn
  with_reducible repeat' first
    | assumption
    | apply Keeps.ite
    | apply setClerkPair_keeps

theorem clerkRenew_keeps {s₀ : State} (s : State) (h₀ : Keeps s₀ s) : Keeps s₀ (clerkRenew s) := by
  unfold clerkRenew
  with_reducible repeat' first
    | assumption
    | apply Keeps.ite
    | apply clerkSend_keeps
    | apply setPair_keeps

theorem clerkRenewIn_keeps {s₀ : State} (m : ClerkMsg) (k : Nat) (s : State) (h₀ : Keeps s₀ s) :
    Keeps s₀ (clerkRenewIn m k s) := by
  unfold clerkRenewIn
  with_reducible repeat' first
    | assumption
    | apply Keeps.ite
    | apply setClerkPair_keeps
    | apply clerkAnswer_keeps

theorem clerkReply_keeps {s₀ : State} (m : ClerkMsg) (f : Nat → State → State) (s : State) (hf : ∀ n u, Keeps u (f n u))
    (h₀ : Keeps s₀ s) : Keeps s₀ (clerkReply m f s) := by
  unfold clerkReply
  repeat' split
  · exact h₀
  · exact shrCount_keeps _ _ _ h₀
  · exact (setPair_keeps _ _ h₀).trans (hf _ _)
  · exact shrCount_keeps _ _ _ h₀

theorem clerkRequestIn_keeps {s₀ : State} (m : ClerkMsg) (k : Nat) (s : State) (h₀ : Keeps s₀ s) :
    Keeps s₀ (clerkRequestIn m k s) := by
  unfold clerkRequestIn
  with_reducible repeat' first
    | assumption
    | apply Keeps.ite
    | apply setClerkPair_keeps
    | apply clerkAnswer_keeps
    | split

theorem clerkServe_keeps {s₀ : State} (m : ClerkMsg) (f : Nat → State → State) (s : State) (hf : ∀ n u, Keeps u (f n u))
    (h₀ : Keeps s₀ s) : Keeps s₀ (clerkServe m f s) := by
  unfold clerkServe
  repeat' split
  · exact h₀
  · exact shrCount_keeps _ _ _ h₀
  · exact clerkAnswer_keeps _ _ _ _ _ _ h₀
  · exact h₀.trans (hf _ _)

theorem confirmLease_keeps {s₀ : State} (hb : Heartbeat) (s : State) (h₀ : Keeps s₀ s) : Keeps s₀ (confirmLease hb s) := by
  unfold confirmLease
  with_reducible repeat' first
    | assumption
    | apply Keeps.ite
    | apply wr_keeps
    | split

theorem creditSend_keeps {s₀ : State} (l : Nat) (s : State) (h₀ : Keeps s₀ s) : Keeps s₀ (creditSend l s) := by
  unfold creditSend
  with_reducible repeat' first
    | assumption
    | apply Keeps.ite
    | apply shroudSend_keeps

theorem dropLease_keeps {s₀ : State} (s : State) (h₀ : Keeps s₀ s) : Keeps s₀ (dropLease s) := by
  unfold dropLease
  with_reducible repeat' first
    | assumption
    | apply Keeps.ite
    | apply setRole_keeps
    | apply setPair_keeps

theorem wantLease_keeps {s₀ : State} (s : State) (h₀ : Keeps s₀ s) : Keeps s₀ (wantLease s) := by
  unfold wantLease
  with_reducible repeat' first
    | assumption
    | apply setPair_keeps

theorem denied_keeps {s₀ : State} (m : ClerkMsg) (r : DenyReason) (a2 : Nat) (s : State) (h₀ : Keeps s₀ s) :
    Keeps s₀ (denied m r a2 s) := by
  unfold denied
  with_reducible repeat' first
    | assumption
    | apply Keeps.ite
    | apply dropLease_keeps
    | apply setRole_keeps
    | apply setPair_keeps
    | apply wantLease_keeps

theorem digestIn_keeps {s₀ : State} (e : DigestEntry) (s : State) (h₀ : Keeps s₀ s) : Keeps s₀ (digestIn e s) := by
  unfold digestIn
  with_reducible repeat' first
    | assumption
    | apply digCompare_keeps
    | apply setPair_keeps

theorem dualActive_keeps {s₀ : State} (hb : Heartbeat) (s : State) (h₀ : Keeps s₀ s) : Keeps s₀ (dualActive hb s) := by
  unfold dualActive
  with_reducible repeat' first
    | assumption
    | apply Keeps.ite
    | apply pairRecord_keeps
    | apply setRole_keeps
    | apply raise_keeps
    | apply setPair_keeps

theorem execClerkLost_keeps {s₀ : State} (s : State) (h₀ : Keeps s₀ s) : Answers s₀ (execClerkLost s) := by
  unfold execClerkLost
  with_reducible repeat' first
    | assumption
    | apply Answers.inFull
    | apply clerkGone_keeps

theorem execClerkQuietEnd_keeps {s₀ : State} (s : State) (h₀ : Keeps s₀ s) : Answers s₀ (execClerkQuietEnd s) := by
  unfold execClerkQuietEnd
  with_reducible repeat' first
    | assumption
    | apply Keeps.ite
    | apply Answers.inFull
    | apply setPair_keeps

theorem execClerkRenew_keeps {s₀ : State} (s : State) (h₀ : Keeps s₀ s) : Answers s₀ (execClerkRenew s) := by
  unfold execClerkRenew
  with_reducible repeat' first
    | assumption
    | apply Keeps.ite
    | apply Answers.inFull
    | apply clerkRenew_keeps

theorem execClerkRequest_keeps {s₀ : State} (s : State) (h₀ : Keeps s₀ s) : Answers s₀ (execClerkRequest s) := by
  unfold execClerkRequest
  with_reducible repeat' first
    | assumption
    | apply Answers.inFull
    | apply clerkAsk_keeps

theorem execClerkRxRelease_keeps {s₀ : State} (m : ClerkMsg) (s : State) (h₀ : Keeps s₀ s) :
    Answers s₀ (execClerkRxRelease m s) := by
  unfold execClerkRxRelease
  with_reducible repeat' first
    | exact Keeps.refl _
    | assumption
    | (intro _; try dsimp only)
    | apply Answers.inFull
    | apply clerkServe_keeps
    | apply clerkReleaseIn_keeps

theorem execClerkRxRenew_keeps {s₀ : State} (m : ClerkMsg) (s : State) (h₀ : Keeps s₀ s) : Answers s₀ (execClerkRxRenew m s) := by
  unfold execClerkRxRenew
  with_reducible repeat' first
    | exact Keeps.refl _
    | assumption
    | (intro _; try dsimp only)
    | apply Answers.inFull
    | apply clerkRenewIn_keeps
    | apply clerkServe_keeps

theorem execClerkRxRequest_keeps {s₀ : State} (m : ClerkMsg) (s : State) (h₀ : Keeps s₀ s) :
    Answers s₀ (execClerkRxRequest m s) := by
  unfold execClerkRxRequest
  with_reducible repeat' first
    | exact Keeps.refl _
    | assumption
    | (intro _; try dsimp only)
    | apply Answers.inFull
    | apply clerkRequestIn_keeps
    | apply clerkServe_keeps

theorem execDigestFrameSend_keeps {s₀ : State} (s : State) (h₀ : Keeps s₀ s) : Answers s₀ (execDigestFrameSend s) := by
  unfold execDigestFrameSend
  with_reducible repeat' first
    | assumption
    | apply Keeps.ite
    | apply Answers.inFull
    | apply digSend_keeps

theorem execDigestUncompared_keeps {s₀ : State} (inst : Nat) (s : State) (h₀ : Keeps s₀ s) :
    Answers s₀ (execDigestUncompared inst s) := by
  unfold execDigestUncompared
  with_reducible repeat' first
    | assumption
    | apply Keeps.ite
    | apply Answers.inFull
    | apply setPair_keeps
    | apply digOutcome_keeps

theorem healthSend_keeps {s₀ : State} (s : State) (h₀ : Keeps s₀ s) : Keeps s₀ (healthSend s) := by
  unfold healthSend
  with_reducible repeat' first
    | assumption
    | apply Keeps.ite
    | apply wrWords_keeps
    | apply bulkSend_keeps
    | apply setPair_keeps

theorem execHealthSend_keeps {s₀ : State} (s : State) (h₀ : Keeps s₀ s) : Answers s₀ (execHealthSend s) := by
  unfold execHealthSend
  with_reducible repeat' first
    | assumption
    | apply Answers.inFull
    | apply healthSend_keeps

theorem heartbeat_keeps {s₀ : State} (s : State) (h₀ : Keeps s₀ s) : Keeps s₀ (heartbeat s) := by
  unfold heartbeat
  with_reducible repeat' first
    | exact Keeps.refl _
    | assumption
    | (intro _; try dsimp only)
    | apply Keeps.ite
    | apply shroudSend_keeps
    | apply setPair_keeps
    | apply shrCount_keeps
    | apply Keeps.forUpTo

theorem execHeartbeatSend_keeps {s₀ : State} (s : State) (h₀ : Keeps s₀ s) : Answers s₀ (execHeartbeatSend s) := by
  unfold execHeartbeatSend
  with_reducible repeat' first
    | assumption
    | apply Answers.inFull
    | apply heartbeat_keeps

theorem leaseRelease_keeps {s₀ : State} (s : State) (h₀ : Keeps s₀ s) : Keeps s₀ (leaseRelease s) := by
  unfold leaseRelease
  with_reducible repeat' first
    | assumption
    | apply Keeps.ite
    | apply clerkSend_keeps
    | apply dropLease_keeps
    | apply setPair_keeps

theorem execLeaseDrop_keeps {s₀ : State} (who : Req) (s : State) (h₀ : Keeps s₀ s) : Answers s₀ (execLeaseDrop who s) := by
  unfold execLeaseDrop
  with_reducible repeat' first
    | exact Keeps.refl _
    | assumption
    | (intro _; try dsimp only)
    | apply Answers.next
    | apply leaseRelease_keeps
    | apply serve_keeps

theorem leaseEnd_keeps {s₀ : State} (s : State) (h₀ : Keeps s₀ s) : Keeps s₀ (leaseEnd s) := by
  unfold leaseEnd
  with_reducible repeat' first
    | assumption
    | apply Keeps.ite
    | apply pairRecord_keeps
    | apply setRole_keeps
    | apply raise_keeps
    | apply setPair_keeps
    | apply shrCount_keeps
    | apply wantLease_keeps

theorem execLeaseExpiry_keeps {s₀ : State} (s : State) (h₀ : Keeps s₀ s) : Answers s₀ (execLeaseExpiry s) := by
  unfold execLeaseExpiry
  with_reducible repeat' first
    | assumption
    | apply Answers.inFull
    | apply leaseEnd_keeps

theorem leaseSet_keeps {s₀ : State} (dl : Nat) (s : State) (h₀ : Keeps s₀ s) : Keeps s₀ (leaseSet dl s) := by
  unfold leaseSet
  with_reducible repeat' first
    | assumption
    | apply Keeps.ite
    | apply becomeActive_keeps
    | apply wr_keeps
    | apply raise_keeps
    | apply setPair_keeps

theorem execLeaseWrite_keeps {s₀ : State} (who : Req) (v : Word) (s : State) (h₀ : Keeps s₀ s) :
    Answers s₀ (execLeaseWrite who v s) := by
  unfold execLeaseWrite
  with_reducible repeat' first
    | exact Keeps.refl _
    | assumption
    | (intro _; try dsimp only)
    | apply Answers.next
    | apply leaseSet_keeps
    | apply serve_keeps

theorem execPairSnapshot_keeps {s₀ : State} (who : Req) (clr : Bool) (s : State) (h₀ : Keeps s₀ s) :
    Answers s₀ (execPairSnapshot who clr s) := by
  unfold execPairSnapshot
  with_reducible repeat' first
    | exact Keeps.refl _
    | assumption
    | (intro _; try dsimp only)
    | apply Answers.next
    | apply snapshot_keeps
    | apply serve_keeps
    | apply raise_keeps

theorem peerGone_keeps {s₀ : State} (s : State) (h₀ : Keeps s₀ s) : Keeps s₀ (peerGone s) := by
  unfold peerGone
  with_reducible repeat' first
    | assumption
    | apply Keeps.ite
    | apply pairRecord_keeps
    | apply raise_keeps
    | apply setPair_keeps
    | apply shrCount_keeps
    | apply wantLease_keeps

theorem execPeerLost_keeps {s₀ : State} (s : State) (h₀ : Keeps s₀ s) : Answers s₀ (execPeerLost s) := by
  unfold execPeerLost
  with_reducible repeat' first
    | assumption
    | apply Answers.inFull
    | apply peerGone_keeps

theorem resyncDone_keeps {s₀ : State} (s : State) (h₀ : Keeps s₀ s) : Keeps s₀ (resyncDone s) := by
  unfold resyncDone
  with_reducible repeat' first
    | assumption
    | apply Keeps.ite
    | apply setRole_keeps
    | apply raise_keeps
    | apply setPair_keeps

theorem execResyncDone_keeps {s₀ : State} (s : State) (h₀ : Keeps s₀ s) : Answers s₀ (execResyncDone s) := by
  unfold execResyncDone
  with_reducible repeat' first
    | assumption
    | apply Answers.inFull
    | apply resyncDone_keeps

theorem shroudRx_keeps {s₀ : State} (l : Fin 2) (h : ShroudHdr) (bulk : Bool) (f : State → State) (s : State) (h_f : ∀ (u : State), Keeps u (f u))
    (h₀ : Keeps s₀ s) :
    Keeps s₀ (shroudRx l h bulk f s) := by
  unfold shroudRx
  with_reducible repeat' first
    | assumption
    | apply Keeps.ite
    | apply Keeps.app h_f
    | apply setShroud_keeps
    | apply creditSend_keeps
    | apply creditsBack_keeps
    | apply shrCount_keeps

theorem execRxCredit_keeps {s₀ : State} (l : Fin 2) (h : ShroudHdr) (s : State) (h₀ : Keeps s₀ s) :
    Answers s₀ (execRxCredit l h s) := by
  unfold execRxCredit
  with_reducible repeat' first
    | exact Keeps.refl _
    | assumption
    | (intro _; try dsimp only)
    | apply Answers.inFull
    | apply shroudRx_keeps

theorem execRxDeny_keeps {s₀ : State} (m : ClerkMsg) (r : DenyReason) (s : State) (h₀ : Keeps s₀ s) :
    Answers s₀ (execRxDeny m r s) := by
  unfold execRxDeny
  with_reducible repeat' first
    | exact Keeps.refl _
    | assumption
    | (intro _; try dsimp only)
    | apply Answers.inFull
    | apply clerkReply_keeps
    | apply denied_keeps

theorem execRxDigest_keeps {s₀ : State} (l : Fin 2) (h : ShroudHdr) (es : List DigestEntry) (s : State) (h₀ : Keeps s₀ s) :
    Answers s₀ (execRxDigest l h es s) := by
  unfold execRxDigest
  with_reducible repeat' first
    | exact Keeps.refl _
    | assumption
    | (intro _; try dsimp only)
    | apply Answers.inFull
    | apply digestIn_keeps
    | apply shroudRx_keeps
    | apply Keeps.foldl

theorem execRxEnergy_keeps {s₀ : State} (l : Fin 2) (h : ShroudHdr) (x : EnergySave) (s : State) (h₀ : Keeps s₀ s) :
    Answers s₀ (execRxEnergy l h x s) := by
  unfold execRxEnergy
  with_reducible repeat' first
    | exact Keeps.refl _
    | assumption
    | (intro _; try dsimp only)
    | apply Answers.inFull
    | apply shroudRx_keeps
    | apply setPair_keeps

theorem takeLease_keeps {s₀ : State} (m : ClerkMsg) (ts : Nat) (s : State) (h₀ : Keeps s₀ s) : Keeps s₀ (takeLease m ts s) := by
  unfold takeLease
  with_reducible repeat' first
    | assumption
    | apply leaseSet_keeps
    | apply wr_keeps

theorem granted_keeps {s₀ : State} (m : ClerkMsg) (ts : Nat) (s : State) (h₀ : Keeps s₀ s) : Keeps s₀ (granted m ts s) := by
  unfold granted
  with_reducible repeat' first
    | assumption
    | apply Keeps.ite
    | apply takeLease_keeps
    | apply becomeActive_keeps
    | apply shrCount_keeps
    | apply pubAll_keeps

theorem execRxGrant_keeps {s₀ : State} (m : ClerkMsg) (s : State) (h₀ : Keeps s₀ s) : Answers s₀ (execRxGrant m s) := by
  unfold execRxGrant
  with_reducible repeat' first
    | exact Keeps.refl _
    | assumption
    | (intro _; try dsimp only)
    | apply Answers.inFull
    | apply clerkReply_keeps
    | apply granted_keeps

theorem execRxHealth_keeps {s₀ : State} (l : Fin 2) (h : ShroudHdr) (ws : List Word) (s : State) (h₀ : Keeps s₀ s) :
    Answers s₀ (execRxHealth l h ws s) := by
  unfold execRxHealth
  with_reducible repeat' first
    | exact Keeps.refl _
    | assumption
    | (intro _; try dsimp only)
    | apply Answers.inFull
    | apply shroudRx_keeps
    | apply setPair_keeps

theorem hbTriggers_keeps {s₀ : State} (old : Word) (new : Word) (s : State) (h₀ : Keeps s₀ s) :
    Keeps s₀ (hbTriggers old new s) := by
  unfold hbTriggers
  with_reducible repeat' first
    | assumption
    | apply Keeps.ite
    | apply setPair_keeps
    | apply wantLease_keeps

theorem peerSeen_keeps {s₀ : State} (s : State) (h₀ : Keeps s₀ s) : Keeps s₀ (peerSeen s) := by
  unfold peerSeen
  with_reducible repeat' first
    | assumption
    | apply Keeps.ite
    | apply bulkSend_keeps
    | apply raise_keeps
    | apply setPair_keeps

theorem heartbeatIn_keeps {s₀ : State} (hb : Heartbeat) (s0 : State) (h₀ : Keeps s₀ s0) : Keeps s₀ (heartbeatIn hb s0) := by
  unfold heartbeatIn
  with_reducible repeat' first
    | assumption
    | apply Keeps.ite
    | apply wrWords_keeps
    | apply confirmLease_keeps
    | apply hbTriggers_keeps
    | apply dualActive_keeps
    | apply setPair_keeps
    | apply shrCount_keeps
    | apply peerSeen_keeps

theorem execRxHeartbeat_keeps {s₀ : State} (l : Fin 2) (h : ShroudHdr) (hb : Heartbeat) (s : State) (h₀ : Keeps s₀ s) :
    Answers s₀ (execRxHeartbeat l h hb s) := by
  unfold execRxHeartbeat
  with_reducible repeat' first
    | exact Keeps.refl _
    | assumption
    | (intro _; try dsimp only)
    | apply Answers.inFull
    | apply heartbeatIn_keeps
    | apply shroudRx_keeps

theorem execRxLedger_keeps {s₀ : State} (l : Fin 2) (h : ShroudHdr) (rs : List (List Word)) (s : State) (h₀ : Keeps s₀ s) :
    Answers s₀ (execRxLedger l h rs s) := by
  unfold execRxLedger
  with_reducible repeat' first
    | exact Keeps.refl _
    | assumption
    | (intro _; try dsimp only)
    | apply Answers.inFull
    | apply shroudRx_keeps
    | apply setPair_keeps
    | apply shrCount_keeps

theorem linkReset_keeps {s₀ : State} (l : Nat) (s : State) (h₀ : Keeps s₀ s) : Keeps s₀ (linkReset l s) := by
  unfold linkReset
  with_reducible repeat' first
    | assumption
    | apply setShroud_keeps
    | apply drainWaits_keeps

theorem execRxLinkInit_keeps {s₀ : State} (l : Fin 2) (h : ShroudHdr) (s : State) (h₀ : Keeps s₀ s) :
    Answers s₀ (execRxLinkInit l h s) := by
  unfold execRxLinkInit
  with_reducible repeat' first
    | exact Keeps.refl _
    | assumption
    | (intro _; try dsimp only)
    | apply Answers.inFull
    | apply linkReset_keeps
    | apply shroudRx_keeps

theorem renewed_keeps {s₀ : State} (m : ClerkMsg) (ts : Nat) (s : State) (h₀ : Keeps s₀ s) : Keeps s₀ (renewed m ts s) := by
  unfold renewed
  with_reducible repeat' first
    | assumption
    | apply Keeps.ite
    | apply takeLease_keeps
    | apply becomeActive_keeps

theorem execRxRenewed_keeps {s₀ : State} (m : ClerkMsg) (s : State) (h₀ : Keeps s₀ s) : Answers s₀ (execRxRenewed m s) := by
  unfold execRxRenewed
  with_reducible repeat' first
    | exact Keeps.refl _
    | assumption
    | (intro _; try dsimp only)
    | apply Answers.inFull
    | apply renewed_keeps
    | apply clerkReply_keeps

theorem resyncIn_keeps {s₀ : State} (d : ResyncData) (s : State) (h₀ : Keeps s₀ s) : Keeps s₀ (resyncIn d s) := by
  unfold resyncIn
  with_reducible repeat' first
    | exact Keeps.refl _
    | assumption
    | (intro _; try dsimp only)
    | apply Keeps.ite
    | apply bellWrite_keeps
    | apply setNest_keeps
    | apply setPair_keeps
    | apply Keeps.foldl
    | split

theorem execRxResyncData_keeps {s₀ : State} (l : Fin 2) (h : ShroudHdr) (d : ResyncData) (s : State) (h₀ : Keeps s₀ s) :
    Answers s₀ (execRxResyncData l h d s) := by
  unfold execRxResyncData
  with_reducible repeat' first
    | exact Keeps.refl _
    | assumption
    | (intro _; try dsimp only)
    | apply Answers.inFull
    | apply resyncIn_keeps
    | apply shroudRx_keeps

theorem execRxResyncReq_keeps {s₀ : State} (l : Fin 2) (h : ShroudHdr) (s : State) (h₀ : Keeps s₀ s) :
    Answers s₀ (execRxResyncReq l h s) := by
  unfold execRxResyncReq
  with_reducible repeat' first
    | exact Keeps.refl _
    | assumption
    | (intro _; try dsimp only)
    | apply Answers.inFull
    | apply bulkSend_keeps
    | apply shroudRx_keeps

theorem shroudChange_keeps {s₀ : State} (l : Nat) (up : Bool) (s : State) (h₀ : Keeps s₀ s) : Keeps s₀ (shroudChange l up s) := by
  unfold shroudChange
  with_reducible repeat' first
    | exact Keeps.refl _
    | assumption
    | (intro _; try dsimp only)
    | apply Keeps.ite
    | apply linkReset_keeps
    | apply shroudSend_keeps
    | apply setShroud_keeps
    | apply bulkSend_keeps
    | apply raise_keeps
    | apply Keeps.foldl

theorem execShroudLinkChange_keeps {s₀ : State} (l : Fin 2) (up : Bool) (s : State) (h₀ : Keeps s₀ s) :
    Answers s₀ (execShroudLinkChange l up s) := by
  unfold execShroudLinkChange
  with_reducible repeat' first
    | assumption
    | apply Keeps.ite
    | apply Answers.inFull
    | apply shroudChange_keeps

theorem pairStart_keeps {s₀ : State} (s : State) (h₀ : Keeps s₀ s) : Keeps s₀ (pairStart s) := by
  unfold pairStart
  with_reducible repeat' first
    | assumption
    | apply setPair_keeps

theorem bootRecord_keeps {s₀ : State} (code : Nat) (sev : Nat) (key : Nat) (s : State) (h₀ : Keeps s₀ s) :
    Keeps s₀ (bootRecord code sev key s) := by
  unfold bootRecord
  with_reducible repeat' first
    | assumption
    | apply logEvent_keeps

theorem writeRec_keeps {s₀ : State} (f : BootRec → BootRec) (s : State) (h₀ : Keeps s₀ s) : Keeps s₀ (writeRec f s) := by
  unfold writeRec
  with_reducible repeat' (apply Keeps.lit; first | exact Keeps.refl _ | assumption)

theorem botEnd_keeps {s₀ : State} (result : Nat) (s : State) (h₀ : Keeps s₀ s) : Keeps s₀ (botEnd result s) := by
  unfold botEnd
  with_reducible repeat' first
    | assumption
    | apply wr_keeps
    | apply raise_keeps

theorem actDone_keeps {s₀ : State} (kind : Nat) (s : State) (h₀ : Keeps s₀ s) : Keeps s₀ (actDone kind s) := by
  unfold actDone
  with_reducible repeat' first
    | apply bootRecord_keeps
    | apply writeRec_keeps
    | apply botEnd_keeps
    | apply raise_keeps
    | (apply Keeps.lit; first | exact Keeps.refl _ | assumption)

theorem flushQueues_keeps {s₀ : State} (s : State) (h₀ : Keeps s₀ s) : Keeps s₀ (flushQueues s) := by
  unfold flushQueues
  with_reducible repeat' (apply Keeps.lit; first | exact Keeps.refl _ | assumption)

theorem closeTabs_keeps {s₀ : State} (s : State) (h₀ : Keeps s₀ s) : Keeps s₀ (closeTabs s) := by
  unfold closeTabs
  with_reducible repeat' first
    | (intro _; try dsimp only)
    | (apply Keeps.lit; first | exact Keeps.refl _ | assumption | intro _ | apply Keeps.ite | apply closeSection_keeps | apply sealSection_keeps | apply Keeps.foldl | apply Keeps.forUpTo)
    | split

theorem capTrunc_keeps {s₀ : State} (s : State) (h₀ : Keeps s₀ s) : Keeps s₀ (capTrunc s) := by
  unfold capTrunc
  with_reducible repeat' first
    | assumption
    | apply endRecord_keeps
    | split

theorem silence_keeps {s₀ : State} (s : State) (h₀ : Keeps s₀ s) : Keeps s₀ (silence s) := by
  unfold silence
  with_reducible repeat' first
    | (intro _; try dsimp only)
    | apply closeTabs_keeps
    | apply deckRestart_keeps
    | apply flushRun_keeps
    | apply capTrunc_keeps
    | apply updateNodeOk_keeps
    | apply Keeps.foldl
    | (apply Keeps.lit; first | exact Keeps.refl _ | assumption | intro _ | apply Keeps.ite | apply ownSave_keeps | apply leaseRelease_keeps | apply baselineSave_keeps | apply endPoint_keeps | apply flushQueues_keeps)

theorem botBusy_keeps {s₀ : State} (s : State) (h₀ : Keeps s₀ s) : Keeps s₀ (botBusy s) := by
  unfold botBusy
  with_reducible repeat' first
    | assumption
    | apply wr_keeps

theorem actStart_keeps {s₀ : State} (kind : Nat) (b : Nat) (s : State) (h₀ : Keeps s₀ s) : Keeps s₀ (actStart kind b s) := by
  unfold actStart
  with_reducible repeat' first
    | apply Keeps.ite
    | apply deckRestart_keeps
    | apply silence_keeps
    | apply botBusy_keeps
    | (apply Keeps.lit; first | exact Keeps.refl _ | assumption)

theorem setBank_keeps {s₀ : State} (b : Nat) (st : BankState) (s : State) (h₀ : Keeps s₀ s) : Keeps s₀ (setBank b st s) := by
  unfold setBank
  with_reducible repeat' first
    | assumption
    | apply Keeps.ite
    | apply writeRec_keeps
    | apply raise_keeps

theorem rejectBank_keeps {s₀ : State} (b : Nat) (code : Nat) (s : State) (h₀ : Keeps s₀ s) : Keeps s₀ (rejectBank b code s) := by
  unfold rejectBank
  with_reducible repeat' first
    | assumption
    | apply setBank_keeps
    | apply bootRecord_keeps

theorem activate_keeps {s₀ : State} (full : Bool) (b : Nat) (force : Bool) (c : BankCheck) (s : State) (h₀ : Keeps s₀ s) :
    Keeps s₀ (activate full b force c s).2 := by
  unfold activate
  try dsimp only
  with_reducible repeat' first
    | assumption
    | apply actStart_keeps
    | apply rejectBank_keeps
    | split

theorem revertStart_keeps {s₀ : State} (kind : Nat) (b : Nat) (s : State) (h₀ : Keeps s₀ s) :
    Keeps s₀ (revertStart kind b s) := by
  unfold revertStart
  with_reducible repeat' first
    | apply Keeps.ite
    | apply deckRestart_keeps
    | apply silence_keeps
    | (apply Keeps.lit; first | exact Keeps.refl _ | assumption)

theorem relink_keeps {s₀ : State} (s : State) (t : State) (h₀ : Keeps s₀ t) : Keeps s₀ (relink s t) := by
  unfold relink
  with_reducible repeat' first
    | exact Keeps.refl _
    | assumption
    | (intro _; try dsimp only)
    | apply Keeps.ite
    | apply linkChange_keeps
    | apply Keeps.forUpTo

theorem startOuts_keeps {s₀ : State} (s : State) (h₀ : Keeps s₀ s) : Keeps s₀ (startOuts s) := by
  unfold startOuts
  with_reducible repeat' (apply Keeps.lit; first | exact Keeps.refl _ | assumption)

theorem shedEffect_keeps {s₀ : State} (k : Nat) (on : Bool) (s : State) (h₀ : Keeps s₀ s) : Keeps s₀ (shedEffect k on s) := by
  unfold shedEffect
  with_reducible repeat' first
    | assumption
    | apply Keeps.ite
    | apply capShed_keeps
    | apply setPak_keeps
    | apply fastShed_keeps
    | apply fastRestart_keeps
    | apply revisionShed_keeps
    | apply raise_keeps

theorem shedAgain_keeps {s₀ : State} (s : State) (h₀ : Keeps s₀ s) : Keeps s₀ (shedAgain s) := by
  unfold shedAgain
  with_reducible repeat' first
    | exact Keeps.refl _
    | assumption
    | (intro _; try dsimp only)
    | apply Keeps.ite
    | apply shedEffect_keeps
    | apply Keeps.foldl

theorem startDataPath_keeps {s₀ : State} (resume : Bool) (s : State) (h₀ : Keeps s₀ s) : Keeps s₀ (startDataPath resume s) := by
  unfold startDataPath
  try dsimp only
  with_reducible repeat' first
    | apply startOuts_keeps
    | apply marketStart_keeps
    | apply nestStart_keeps
    | apply capStart_keeps
    | apply shedAgain_keeps
    | apply scalesStart_keeps
    | (apply Keeps.lit; first | exact Keeps.refl _ | assumption)

theorem carryPubs_keeps {s₀ : State} (old : List (Nat × PubCfg)) (s : State) (h₀ : Keeps s₀ s) : Keeps s₀ (carryPubs old s) := by
  unfold carryPubs
  with_reducible repeat' (apply Keeps.lit; first | exact Keeps.refl _ | assumption)

theorem deriveDomains_keeps {s₀ : State} (old : List DomainCfg) (s : State) (h₀ : Keeps s₀ s) :
    Keeps s₀ (deriveDomains old s) := by
  unfold deriveDomains
  with_reducible repeat' first
    | exact Keeps.refl _
    | assumption
    | (intro _; try dsimp only)
    | apply destroySlot_keeps
    | apply setSlot_keeps
    | apply Keeps.forUpTo
    | split

theorem mastConfig_keeps {s₀ : State} (old : Word) (s : State) (h₀ : Keeps s₀ s) : Keeps s₀ (mastConfig old s) := by
  unfold mastConfig
  with_reducible repeat' (apply Keeps.lit; first | exact Keeps.refl _ | assumption | intro _ | apply Keeps.ite | apply updateHoldExc_keeps | apply cycLeave_keeps)

theorem phyDefault_keeps {s₀ : State} (s : State) (p : Nat) (h₀ : Keeps s₀ s) : Keeps s₀ (phyDefault s p) := by
  unfold phyDefault
  with_reducible repeat' first
    | assumption
    | apply Keeps.ite
    | apply wrF_keeps

theorem imageDefaults_keeps {s₀ : State} (launch : Bool) (s : State) (h₀ : Keeps s₀ s) : Keeps s₀ (imageDefaults launch s) := by
  unfold imageDefaults
  with_reducible repeat' first
    | exact Keeps.refl _
    | assumption
    | (intro _; try dsimp only)
    | apply Keeps.ite
    | apply setStat_keeps
    | apply phyDefault_keeps
    | apply wrF_keeps
    | apply wr_keeps
    | apply Keeps.forUpTo

theorem loadConfig_keeps {s₀ : State} (p : PenegImage) (s : State) (h₀ : Keeps s₀ s) : Keeps s₀ (loadConfig p s) := by
  unfold loadConfig
  with_reducible repeat' first
    | (intro _; try dsimp only)
    | (apply Keeps.lit; first | exact Keeps.refl _ | assumption | intro _ | apply Keeps.ite | apply wrWords_keeps | apply mastConfig_keeps | apply wr_keeps | apply imageDefaults_keeps | apply Keeps.foldl)

theorem meteringOn_keeps {s₀ : State} (s : State) (h₀ : Keeps s₀ s) : Keeps s₀ (meteringOn s) := by
  unfold meteringOn
  with_reducible repeat' first
    | assumption
    | apply setEnergy_keeps
    | apply wrF_keeps

theorem reconfigure_keeps {s₀ : State} (p : PenegImage) (s : State) (h₀ : Keeps s₀ s) : Keeps s₀ (reconfigure p s) := by
  unfold reconfigure
  with_reducible repeat' first
    | apply energyRestore_keeps
    | apply loadConfig_keeps
    | apply meteringOn_keeps
    | (apply Keeps.lit; first | exact Keeps.refl _ | assumption | intro _ | apply Keeps.ite | apply startDataPath_keeps | apply carryPubs_keeps | apply deriveDomains_keeps)

theorem resumeWith_keeps {s₀ : State} (p : PenegImage) (s : State) (h₀ : Keeps s₀ s) : Keeps s₀ (resumeWith p s) := by
  unfold resumeWith
  with_reducible repeat' first
    | apply reconfigure_keeps
    | apply pairStart_keeps
    | (apply Keeps.lit; first | exact Keeps.refl _ | assumption | intro _ | apply Keeps.ite | apply wrF_keeps | apply relink_keeps)

theorem revertDone_keeps {s₀ : State} (s : State) (h₀ : Keeps s₀ s) : Keeps s₀ (revertDone s) := by
  unfold revertDone
  with_reducible repeat' first
    | apply bootRecord_keeps
    | apply raise_keeps
    | (apply Keeps.lit; first | exact Keeps.refl _ | assumption)

theorem activationResume_keeps {s₀ : State} (hashOk : Bool) (s : State) (h₀ : Keeps s₀ s) :
    Keeps s₀ (activationResume hashOk s) := by
  unfold activationResume
  with_reducible repeat' first
    | assumption
    | apply rejectBank_keeps
    | apply revertStart_keeps
    | apply actDone_keeps
    | apply resumeWith_keeps
    | apply botEnd_keeps
    | apply revertDone_keeps
    | apply pubAll_keeps
    | apply updateNodeOk_keeps
    | split

theorem trialReject_keeps {s₀ : State} (s : State) (h₀ : Keeps s₀ s) : Keeps s₀ (trialReject s) := by
  unfold trialReject
  with_reducible repeat' first
    | assumption
    | apply bootRecord_keeps
    | apply writeRec_keeps
    | apply raise_keeps

theorem bootDeckFailed_keeps {s₀ : State} (s : State) (h₀ : Keeps s₀ s) : Keeps s₀ (bootDeckFailed s) := by
  unfold bootDeckFailed
  with_reducible repeat' first
    | assumption
    | apply Keeps.ite
    | apply rejectBank_keeps
    | apply revertStart_keeps
    | apply botEnd_keeps
    | apply trialReject_keeps

theorem bootDeckRun_keeps {s₀ : State} (s : State) (h₀ : Keeps s₀ s) : Keeps s₀ (bootDeckRun s) := by
  unfold bootDeckRun
  with_reducible repeat' first
    | assumption
    | apply Keeps.ite
    | apply clerkRenew_keeps
    | apply actDone_keeps
    | apply revertDone_keeps
    | apply updateNodeOk_keeps

theorem bootLoadCode_keeps {s₀ : State} (s : State) (h₀ : Keeps s₀ s) : Keeps s₀ (bootLoadCode s) := by
  unfold bootLoadCode
  with_reducible repeat' first
    | (apply Keeps.lit; first | exact Keeps.refl _ | assumption | intro _ | apply Keeps.ite | apply Keeps.foldl | apply Keeps.forUpTo)
    | split

theorem botRefuse_keeps {s₀ : State} (result : Nat) (s : State) (h₀ : Keeps s₀ s) : Keeps s₀ (botRefuse result s) := by
  unfold botRefuse
  with_reducible repeat' first
    | assumption
    | apply wrF_keeps

theorem jobStartBank_keeps {s₀ : State} (erase : Bool) (b : Nat) (svc : Option Word) (s : State) (h₀ : Keeps s₀ s) :
    Keeps s₀ (jobStartBank erase b svc s) := by
  unfold jobStartBank
  with_reducible repeat' (apply Keeps.lit; first | exact Keeps.refl _ | assumption)

theorem dieReset_keeps {s₀ : State} (s : State) (h₀ : Keeps s₀ s) : Keeps s₀ (dieReset s) := by
  have h := Keeps.foldl (l := sentryRegs) (f := fun t a => wr a (rd s a) t) (Keeps.refl State.reset)
    (fun u a => wr_keeps _ _ u (Keeps.refl u))
  have ht := h.tables ⟨rfl, rfl⟩
  unfold dieReset
  refine h₀.trans ⟨by dsimp only, ?_, ?_, fun _ => ?_⟩
  · exact List.prefix_refl _
  · exact Nat.le_refl _
  · unfold TablesWf at *
    dsimp only
    exact ht

theorem powerOff_keeps {s₀ : State} (s : State) (h₀ : Keeps s₀ s) : Keeps s₀ (powerOff s) := by
  have h := dieReset_keeps s h₀
  unfold powerOff
  generalize dieReset s = t at *
  exact h.same rfl rfl rfl rfl rfl

theorem restoreCache_keeps {s₀ : State} (s : State) (h₀ : Keeps s₀ s) : Keeps s₀ (restoreCache s) := by
  unfold restoreCache
  with_reducible repeat' first
    | (intro _; try dsimp only)
    | apply Keeps.foldl
    | (apply Keeps.lit; first | exact Keeps.refl _ | assumption | intro _ | apply Keeps.ite | apply setSlot_keeps)

theorem bootBank_keeps {s₀ : State} (i : StartInputs) (s : State) (h₀ : Keeps s₀ s) : Keeps s₀ (bootBank i s).2 := by
  unfold bootBank
  try dsimp only
  with_reducible repeat' first
    | (apply Keeps.lit; first | exact Keeps.refl _ | assumption | intro _ | apply Keeps.ite | apply setBank_keeps | apply bootRecord_keeps | apply rejectBank_keeps | apply writeRec_keeps | apply raise_keeps | apply Keeps.foldl | apply Keeps.forUpTo)
    | split

theorem enterRecovery_keeps {s₀ : State} (why : Nat) (s : State) (h₀ : Keeps s₀ s) : Keeps s₀ (enterRecovery why s) := by
  unfold enterRecovery
  with_reducible repeat' first
    | apply bootRecord_keeps
    | apply writeRec_keeps
    | (apply Keeps.lit; first | exact Keeps.refl _ | assumption)

theorem lastWordsReport_keeps {s₀ : State} (s : State) (h₀ : Keeps s₀ s) : Keeps s₀ (lastWordsReport s) := by
  unfold lastWordsReport
  with_reducible repeat' first
    | assumption
    | apply logEvent_keeps
    | split

theorem restoreCounts_keeps {s₀ : State} (s : State) (h₀ : Keeps s₀ s) : Keeps s₀ (restoreCounts s) := by
  unfold restoreCounts
  with_reducible repeat' first
    | assumption
    | apply setLedger_keeps

theorem ledgerStart_keeps {s₀ : State} (code : Nat) (ofs : Word) (s : State) (h₀ : Keeps s₀ s) :
    Keeps s₀ (ledgerStart code ofs s) := by
  unfold ledgerStart
  with_reducible repeat' first
    | assumption
    | apply Keeps.ite
    | apply lastWordsReport_keeps
    | apply clearFinish_keeps
    | apply ledgerFail_keeps
    | apply restoreCounts_keeps

theorem tillKeys_keeps {s₀ : State} (fcalOk : Bool) (s : State) (h₀ : Keeps s₀ s) : Keeps s₀ (tillKeys fcalOk s) := by
  unfold tillKeys
  with_reducible repeat' first
    | apply deriveDomains_keeps
    | apply raise_keeps
    | (apply Keeps.lit; first | exact Keeps.refl _ | assumption | intro _ | apply Keeps.ite | apply setStat_keeps | apply logEvent_keeps | apply restoreCache_keeps)

theorem startBlocks_keeps {s₀ : State} (s : State) (h₀ : Keeps s₀ s) : Keeps s₀ (startBlocks s) := by
  unfold startBlocks
  try dsimp only
  with_reducible repeat' first
    | apply startDataPath_keeps
    | apply energyRestore_keeps
    | apply pairStart_keeps
    | apply meteringOn_keeps
    | (apply Keeps.lit; first | exact Keeps.refl _ | assumption)

theorem sentryReports_keeps {s₀ : State} (s : State) (h₀ : Keeps s₀ s) : Keeps s₀ (sentryReports s) := by
  unfold sentryReports
  with_reducible repeat' first
    | apply logEvent_keeps
    | (apply Keeps.lit; first | exact Keeps.refl _ | assumption | intro _ | apply Keeps.ite)

theorem normalStart_keeps {s₀ : State} (i : StartInputs) (b : Nat) (s : State) (h₀ : Keeps s₀ s) :
    Keeps s₀ (normalStart i b s) := by
  unfold normalStart
  with_reducible repeat' first
    | (apply Keeps.lit; first | exact Keeps.refl _ | assumption | intro _ | apply Keeps.ite | apply deckRun_keeps | apply wrF_keeps | apply tillKeys_keeps | apply bootLoadCode_keeps | apply loadConfig_keeps | apply startBlocks_keeps | apply sentryReports_keeps | apply deckStart_keeps | apply updateNodeOk_keeps | apply Keeps.foldl | apply Keeps.forUpTo)
    | split

theorem sealedStart_keeps {s₀ : State} (p : PenegImage) (s : State) (h₀ : Keeps s₀ s) : Keeps s₀ (sealedStart p s) := by
  unfold sealedStart
  with_reducible repeat' first
    | apply logEvent_keeps
    | (apply Keeps.lit; first | exact Keeps.refl _ | assumption)

theorem trialBoot_keeps {s₀ : State} (s : State) (h₀ : Keeps s₀ s) : Keeps s₀ (trialBoot s) := by
  unfold trialBoot
  with_reducible repeat' first
    | assumption
    | apply Keeps.ite
    | apply trialReject_keeps

theorem tillBoot_keeps {s₀ : State} (i : StartInputs) (s : State) (h₀ : Keeps s₀ s) : Keeps s₀ (tillBoot i s) := by
  unfold tillBoot
  with_reducible repeat' first
    | apply Keeps.ite
    | (apply Keeps.lit; first | exact Keeps.refl _ | assumption)

theorem nodeStart_keeps {s₀ : State} (i : StartInputs) (s : State) (h₀ : Keeps s₀ s) : Keeps s₀ (nodeStart i s) := by
  unfold nodeStart
  extract_lets s1 r s2
  have h1 : Keeps s₀ s1 := tillBoot_keeps _ _ (ledgerStart_keeps _ _ _ h₀)
  have h2 : Keeps s₀ s2 := writeRec_keeps _ _ (trialBoot_keeps _ h1)
  repeat' split
  · exact enterRecovery_keeps _ _ h1
  · exact enterRecovery_keeps _ _ h1
  all_goals have h3 := bootBank_keeps i s2 h2; rw [‹bootBank i s2 = _›] at h3
  · exact enterRecovery_keeps _ _ h3
  · exact sealedStart_keeps _ _ h3
  · exact normalStart_keeps _ _ _ h3
  · exact h3

theorem logService_keeps {s₀ : State} (cmd : Nat) (status : Nat) (s : State) (h₀ : Keeps s₀ s) :
    Keeps s₀ (logService cmd status s) := by
  unfold logService
  with_reducible repeat' first
    | apply Keeps.ite
    | (apply Keeps.lit; first | exact Keeps.refl _ | assumption)

theorem jobEnd_keeps {s₀ : State} (cmd : Nat) (result : Nat) (j : BankJob) (s : State) (h₀ : Keeps s₀ s) :
    Keeps s₀ (jobEnd cmd result j s) := by
  unfold jobEnd
  with_reducible repeat' first
    | (apply Keeps.lit; first | exact Keeps.refl _ | assumption | intro _ | apply Keeps.ite | apply botEnd_keeps | apply logService_keeps | apply svcReply_keeps | apply Keeps.foldl | apply Keeps.forUpTo)
    | split

theorem bankEraseDone_keeps {s₀ : State} (s : State) (h₀ : Keeps s₀ s) : Keeps s₀ (bankEraseDone s) := by
  unfold bankEraseDone
  with_reducible repeat' first
    | (apply Keeps.lit; first | exact Keeps.refl _ | assumption | intro _ | apply Keeps.ite | apply setBank_keeps | apply jobEnd_keeps | apply Keeps.foldl | apply Keeps.forUpTo)
    | split

theorem bankVerifyDone_keeps {s₀ : State} (c : BankCheck) (img : Option PenegImage) (s : State) (h₀ : Keeps s₀ s) :
    Keeps s₀ (bankVerifyDone c img s) := by
  unfold bankVerifyDone
  with_reducible repeat' first
    | (apply Keeps.lit; first | exact Keeps.refl _ | assumption | intro _ | apply Keeps.ite | apply setBank_keeps | apply rejectBank_keeps | apply jobEnd_keeps | apply Keeps.foldl | apply Keeps.forUpTo)
    | split

theorem botActivate_keeps {s₀ : State} (full : Bool) (b : Nat) (force : Bool) (c : BankCheck) (s : State) (h₀ : Keeps s₀ s) :
    Keeps s₀ (botActivate full b force c s) := by
  unfold botActivate
  with_reducible repeat' first
    | assumption
    | apply Keeps.ite
    | apply activate_keeps
    | apply botRefuse_keeps
    | apply botEnd_keeps

theorem botJob_keeps {s₀ : State} (erase : Bool) (b : Nat) (s : State) (h₀ : Keeps s₀ s) : Keeps s₀ (botJob erase b s) := by
  unfold botJob
  with_reducible repeat' first
    | assumption
    | apply Keeps.ite
    | apply jobStartBank_keeps
    | apply botBusy_keeps
    | apply botRefuse_keeps
    | apply botEnd_keeps

theorem execActivateFull_keeps {s₀ : State} (who : Req) (bank : Fin 2) (force : Bool) (check : BankCheck) (s : State)
    (h₀ : Keeps s₀ s) :
    Answers s₀ (execActivateFull who bank force check s) := by
  unfold execActivateFull
  with_reducible repeat' first
    | exact Keeps.refl _
    | assumption
    | (intro _; try dsimp only)
    | apply Answers.next
    | apply botActivate_keeps
    | apply serve_keeps

theorem execActivateFw_keeps {s₀ : State} (who : Req) (bank : Fin 2) (force : Bool) (check : BankCheck) (s : State)
    (h₀ : Keeps s₀ s) :
    Answers s₀ (execActivateFw who bank force check s) := by
  unfold execActivateFw
  with_reducible repeat' first
    | exact Keeps.refl _
    | assumption
    | (intro _; try dsimp only)
    | apply Answers.next
    | apply botActivate_keeps
    | apply serve_keeps

theorem execActivationResumption_keeps {s₀ : State} (hashOk : Bool) (s : State) (h₀ : Keeps s₀ s) :
    Answers s₀ (execActivationResumption hashOk s) := by
  unfold execActivationResumption
  with_reducible repeat' first
    | assumption
    | apply Answers.inFull
    | apply activationResume_keeps

theorem execBankEraseDone_keeps {s₀ : State} (s : State) (h₀ : Keeps s₀ s) : Answers s₀ (execBankEraseDone s) := by
  unfold execBankEraseDone
  with_reducible repeat' first
    | assumption
    | apply Answers.inFull
    | apply bankEraseDone_keeps

theorem execBankVerifyDone_keeps {s₀ : State} (check : BankCheck) (img : Option PenegImage) (s : State) (h₀ : Keeps s₀ s) :
    Answers s₀ (execBankVerifyDone check img s) := by
  unfold execBankVerifyDone
  with_reducible repeat' first
    | assumption
    | apply Answers.inFull
    | apply bankVerifyDone_keeps

theorem execBotErase_keeps {s₀ : State} (who : Req) (bank : Fin 2) (s : State) (h₀ : Keeps s₀ s) :
    Answers s₀ (execBotErase who bank s) := by
  unfold execBotErase
  with_reducible repeat' first
    | exact Keeps.refl _
    | assumption
    | (intro _; try dsimp only)
    | apply Answers.next
    | apply botJob_keeps
    | apply serve_keeps

theorem execBotVerify_keeps {s₀ : State} (who : Req) (bank : Fin 2) (s : State) (h₀ : Keeps s₀ s) :
    Answers s₀ (execBotVerify who bank s) := by
  unfold execBotVerify
  with_reducible repeat' first
    | exact Keeps.refl _
    | assumption
    | (intro _; try dsimp only)
    | apply Answers.next
    | apply botJob_keeps
    | apply serve_keeps

theorem execFailCntClear_keeps {s₀ : State} (s : State) (h₀ : Keeps s₀ s) : Answers s₀ (execFailCntClear s) := by
  unfold execFailCntClear
  with_reducible repeat' first
    | assumption
    | apply Keeps.ite
    | apply Answers.inFull
    | apply writeRec_keeps

theorem execNodeStart_keeps {s₀ : State} (i : StartInputs) (s : State) (h₀ : Keeps s₀ s) : Answers s₀ (execNodeStart i s) := by
  unfold execNodeStart
  with_reducible repeat' first
    | assumption
    | apply Keeps.ite
    | apply Answers.next
    | apply nodeStart_keeps

theorem svcServe_keeps {s₀ : State} (h : SvcHdr) (cmd : Nat) (f : State → Option (Nat × List Nat) × State) (s : State)
    (hf : ∀ u, Keeps u (f u).2) (h₀ : Keeps s₀ s) : Keeps s₀ (svcServe h cmd f s) := by
  have h1 := h₀.trans (hf s)
  unfold svcServe
  refine Keeps.ite h₀ (Keeps.ite (Keeps.ite (svcReply_keeps _ _ _ _ _ h₀) h₀) ?_)
  split
  all_goals rw [‹f s = _›] at h1
  · exact logService_keeps _ _ _ (svcReply_keeps _ _ _ _ _ h1)
  · exact h1

theorem svcActivate_keeps {s₀ : State} (cmd : Nat) (c : BankCheck) (s : State) (h₀ : Keeps s₀ s) :
    Keeps s₀ (svcActivate cmd c s).2 := by
  unfold svcActivate
  with_reducible repeat' first
    | assumption
    | apply activate_keeps
    | split

theorem execSvcActivate_keeps {s₀ : State} (h : SvcHdr) (cmd : BitVec 8) (check : BankCheck) (s : State) (h₀ : Keeps s₀ s) :
    Answers s₀ (execSvcActivate h cmd check s) := by
  unfold execSvcActivate
  with_reducible repeat' first
    | exact Keeps.refl _
    | assumption
    | (intro _; try dsimp only)
    | apply Answers.next
    | apply svcServe_keeps
    | apply svcActivate_keeps

theorem svcJob_keeps {s₀ : State} (h : SvcHdr) (erase : Bool) (b : Nat) (s : State) (h₀ : Keeps s₀ s) :
    Keeps s₀ (svcJob h erase b s).2 := by
  unfold svcJob
  with_reducible repeat' first
    | assumption
    | apply jobStartBank_keeps
    | split

theorem execSvcErase_keeps {s₀ : State} (h : SvcHdr) (bank : Fin 2) (s : State) (h₀ : Keeps s₀ s) :
    Answers s₀ (execSvcErase h bank s) := by
  unfold execSvcErase
  with_reducible repeat' first
    | exact Keeps.refl _
    | assumption
    | (intro _; try dsimp only)
    | apply Answers.next
    | apply svcServe_keeps
    | apply svcJob_keeps

theorem execSvcInfo_keeps {s₀ : State} (h : SvcHdr) (s : State) (h₀ : Keeps s₀ s) : Answers s₀ (execSvcInfo h s) := by
  unfold execSvcInfo
  with_reducible repeat' first
    | exact Keeps.refl _
    | assumption
    | (intro _; try dsimp only)
    | apply Answers.next
    | apply svcServe_keeps

theorem execSvcLog_keeps {s₀ : State} (h : SvcHdr) (ofs : Word) (s : State) (h₀ : Keeps s₀ s) :
    Answers s₀ (execSvcLog h ofs s) := by
  unfold execSvcLog
  with_reducible repeat' first
    | exact Keeps.refl _
    | assumption
    | (intro _; try dsimp only)
    | apply Answers.next
    | apply svcServe_keeps

theorem svcReboot_keeps {s₀ : State} (h : SvcHdr) (b : Nat) (s : State) (h₀ : Keeps s₀ s) : Keeps s₀ (svcReboot h b s).2 := by
  unfold svcReboot
  with_reducible repeat' first
    | assumption
    | apply dieReset_keeps
    | apply writeRec_keeps
    | apply logService_keeps
    | apply svcReply_keeps
    | split

theorem execSvcReboot_keeps {s₀ : State} (h : SvcHdr) (bank : Fin 2) (s : State) (h₀ : Keeps s₀ s) :
    Answers s₀ (execSvcReboot h bank s) := by
  unfold execSvcReboot
  with_reducible repeat' first
    | exact Keeps.refl _
    | assumption
    | (intro _; try dsimp only)
    | apply Answers.next
    | apply svcServe_keeps
    | apply svcReboot_keeps

theorem svcTill_keeps {s₀ : State} (seq : Word) (code : Nat) (args : List Nat) (mbox : List Nat) (cert : Bool) (ok : Bool) (s : State)
    (h₀ : Keeps s₀ s) :
    Keeps s₀ (svcTill seq code args mbox cert ok s).2 := by
  unfold svcTill
  with_reducible repeat' first
    | (apply Keeps.lit; first | exact Keeps.refl _ | assumption | intro _ | apply Keeps.ite | apply tillStart_keeps | apply Keeps.foldl | apply Keeps.forUpTo)
    | split

theorem execSvcTill_keeps {s₀ : State} (h : SvcHdr) (code : BitVec 8) (args : List Word) (mbox : List (BitVec 8)) (cert : Bool) (ok : Bool) (s : State)
    (h₀ : Keeps s₀ s) :
    Answers s₀ (execSvcTill h code args mbox cert ok s) := by
  unfold execSvcTill
  with_reducible repeat' first
    | exact Keeps.refl _
    | assumption
    | (intro _; try dsimp only)
    | apply Answers.next
    | apply svcServe_keeps
    | apply svcTill_keeps

theorem execSvcVerify_keeps {s₀ : State} (h : SvcHdr) (bank : Fin 2) (s : State) (h₀ : Keeps s₀ s) :
    Answers s₀ (execSvcVerify h bank s) := by
  unfold execSvcVerify
  with_reducible repeat' first
    | exact Keeps.refl _
    | assumption
    | (intro _; try dsimp only)
    | apply Answers.next
    | apply svcServe_keeps
    | apply svcJob_keeps

theorem svcWrite_keeps {s₀ : State} (b : Nat) (ofs : Nat) (data : List Nat) (s : State) (h₀ : Keeps s₀ s) :
    Keeps s₀ (svcWrite b ofs data s).2 := by
  unfold svcWrite
  with_reducible repeat' first
    | (apply Keeps.lit; first | exact Keeps.refl _ | assumption | intro _ | apply Keeps.ite | apply setBank_keeps | apply Keeps.foldl | apply Keeps.forUpTo)
    | split

theorem execSvcWrite_keeps {s₀ : State} (h : SvcHdr) (bank : Fin 2) (ofs : BitVec 26) (data : List (BitVec 8)) (s : State)
    (h₀ : Keeps s₀ s) :
    Answers s₀ (execSvcWrite h bank ofs data s) := by
  unfold execSvcWrite
  with_reducible repeat' first
    | exact Keeps.refl _
    | assumption
    | (intro _; try dsimp only)
    | apply Answers.next
    | apply svcServe_keeps
    | apply svcWrite_keeps

theorem trialConfirm_keeps {s₀ : State} (s : State) (h₀ : Keeps s₀ s) : Keeps s₀ (trialConfirm s) := by
  unfold trialConfirm
  with_reducible repeat' first
    | assumption
    | apply Keeps.ite
    | apply bootRecord_keeps
    | apply writeRec_keeps
    | apply raise_keeps

theorem execTrialConfirm_keeps {s₀ : State} (s : State) (h₀ : Keeps s₀ s) : Answers s₀ (execTrialConfirm s) := by
  unfold execTrialConfirm
  with_reducible repeat' first
    | assumption
    | apply Answers.inFull
    | apply trialConfirm_keeps

end Sys2Proof.Machine
end

