-- ==== Sys2Proof/Laws/KeepsDeck.lean ====
section
/-!
SUPPORT. What each operation keeps (Safety.Keeps): the Calendar, the Capture, the commit block and the Deck.
-/

namespace Sys2Proof.Machine

open Sys2Proof

set_option Elab.async false
set_option linter.all false

set_option maxRecDepth 4000

theorem bellStamp_keeps {s₀ : State} (l : Nat) (s : State) (h₀ : Keeps s₀ s) : Keeps s₀ (bellStamp l s) := by
  unfold bellStamp
  with_reducible repeat' first
    | assumption
    | apply wr_keeps

theorem bellOwn_keeps {s₀ : State} (l : Nat) (s : State) (h₀ : Keeps s₀ s) : Keeps s₀ (bellOwn l s) := by
  unfold bellOwn
  with_reducible repeat' first
    | assumption
    | apply setCap_keeps
    | split

theorem lineLow_keeps {s₀ : State} (l : Nat) (lowNs : Nat) (s : State) (h₀ : Keeps s₀ s) : Keeps s₀ (lineLow l lowNs s) := by
  unfold lineLow
  with_reducible repeat' first
    | assumption
    | apply setCap_keeps

theorem bellFall_keeps {s₀ : State} (l : Nat) (lowNs : Nat) (s : State) (h₀ : Keeps s₀ s) : Keeps s₀ (bellFall l lowNs s) := by
  unfold bellFall
  with_reducible repeat' first
    | assumption
    | apply Keeps.ite
    | apply bellStamp_keeps
    | apply capCount_keeps
    | apply bellOwn_keeps
    | apply lineLow_keeps
    | apply raise_keeps
    | apply capEvent_keeps

theorem bellPulseEnd_keeps {s₀ : State} (l : Nat) (s : State) (h₀ : Keeps s₀ s) : Keeps s₀ (bellPulseEnd l s) := by
  unfold bellPulseEnd
  with_reducible repeat' first
    | assumption
    | apply Keeps.ite
    | apply emit_keeps
    | apply lineLow_keeps
    | apply setCap_keeps

theorem bellTest_keeps {s₀ : State} (l : Nat) (s : State) (h₀ : Keeps s₀ s) : Keeps s₀ (bellTest l s) := by
  unfold bellTest
  with_reducible repeat' first
    | assumption
    | apply Keeps.ite
    | apply setCap_keeps

theorem bellTestDrive_keeps {s₀ : State} (s : State) (h₀ : Keeps s₀ s) : Keeps s₀ (bellTestDrive s) := by
  unfold bellTestDrive
  with_reducible repeat' first
    | assumption
    | apply bellStamp_keeps
    | apply emit_keeps
    | apply setCap_keeps
    | split

theorem captureSnapshot_keeps {s₀ : State} (clr : Bool) (s : State) (h₀ : Keeps s₀ s) : Keeps s₀ (captureSnapshot clr s) := by
  unfold captureSnapshot
  with_reducible repeat' first
    | assumption
    | apply Keeps.ite
    | apply snapshot_keeps
    | apply wr_keeps
    | apply raise_keeps

theorem dinEdge_keeps {s₀ : State} (i : Nat) (high : Bool) (held : Bool) (s : State) (h₀ : Keeps s₀ s) :
    Keeps s₀ (dinEdge i high held s) := by
  unfold dinEdge
  with_reducible repeat' first
    | assumption
    | apply capEvent_keeps
    | split

theorem dropExport_keeps {s₀ : State} (s : State) (h₀ : Keeps s₀ s) : Keeps s₀ (dropExport s) := by
  unfold dropExport
  with_reducible repeat' first
    | assumption
    | apply dropEngine_keeps
    | apply setWork_keeps

theorem execBellLineFall_keeps {s₀ : State} (line : Fin 2) (lowNs : Nat) (s : State) (h₀ : Keeps s₀ s) :
    Answers s₀ (execBellLineFall line lowNs s) := by
  unfold execBellLineFall
  with_reducible repeat' first
    | assumption
    | apply Answers.powered
    | apply bellFall_keeps

theorem execBellPulseEnd_keeps {s₀ : State} (line : Fin 2) (s : State) (h₀ : Keeps s₀ s) :
    Answers s₀ (execBellPulseEnd line s) := by
  unfold execBellPulseEnd
  with_reducible repeat' first
    | assumption
    | apply Answers.powered
    | apply bellPulseEnd_keeps

theorem execBellTest_keeps {s₀ : State} (who : Req) (line : Fin 2) (s : State) (h₀ : Keeps s₀ s) :
    Answers s₀ (execBellTest who line s) := by
  unfold execBellTest
  with_reducible repeat' first
    | exact Keeps.refl _
    | assumption
    | (intro _; try dsimp only)
    | apply Answers.next
    | apply bellTest_keeps
    | apply serve_keeps

theorem execBellTestDrive_keeps {s₀ : State} (s : State) (h₀ : Keeps s₀ s) : Answers s₀ (execBellTestDrive s) := by
  unfold execBellTestDrive
  with_reducible repeat' first
    | assumption
    | apply Answers.powered
    | apply bellTestDrive_keeps

theorem execCaptureArm_keeps {s₀ : State} (who : Req) (arm : Bool) (s : State) (h₀ : Keeps s₀ s) :
    Answers s₀ (execCaptureArm who arm s) := by
  unfold execCaptureArm
  with_reducible repeat' first
    | exact Keeps.refl _
    | assumption
    | (intro _; try dsimp only)
    | apply Answers.next
    | apply captureArm_keeps
    | apply serve_keeps

theorem execCaptureForce_keeps {s₀ : State} (who : Req) (s : State) (h₀ : Keeps s₀ s) : Answers s₀ (execCaptureForce who s) := by
  unfold execCaptureForce
  with_reducible repeat' first
    | exact Keeps.refl _
    | assumption
    | (intro _; try dsimp only)
    | apply Answers.next
    | apply serve_keeps
    | apply setCap_keeps

theorem execCaptureReset_keeps {s₀ : State} (who : Req) (s : State) (h₀ : Keeps s₀ s) : Answers s₀ (execCaptureReset who s) := by
  unfold execCaptureReset
  with_reducible repeat' first
    | exact Keeps.refl _
    | assumption
    | (intro _; try dsimp only)
    | apply Answers.next
    | apply serve_keeps
    | apply setCap_keeps

theorem execCaptureSample_keeps {s₀ : State} (drained : Nat) (s : State) (h₀ : Keeps s₀ s) :
    Answers s₀ (execCaptureSample drained s) := by
  unfold execCaptureSample
  with_reducible repeat' first
    | assumption
    | apply Answers.powered
    | apply capSample_keeps

theorem execCaptureSnapshot_keeps {s₀ : State} (who : Req) (clr : Bool) (s : State) (h₀ : Keeps s₀ s) :
    Answers s₀ (execCaptureSnapshot who clr s) := by
  unfold execCaptureSnapshot
  with_reducible repeat' first
    | exact Keeps.refl _
    | assumption
    | (intro _; try dsimp only)
    | apply Answers.next
    | apply captureSnapshot_keeps
    | apply serve_keeps

theorem execDinEdge_keeps {s₀ : State} (din : Fin 16) (high : Bool) (held : Bool) (s : State) (h₀ : Keeps s₀ s) :
    Answers s₀ (execDinEdge din high held s) := by
  unfold execDinEdge
  with_reducible repeat' first
    | assumption
    | apply Answers.powered
    | apply dinEdge_keeps

theorem recAbort_keeps {s₀ : State} (s : State) (h₀ : Keeps s₀ s) : Keeps s₀ (recAbort s) := by
  unfold recAbort
  with_reducible repeat' first
    | assumption
    | apply Keeps.ite
    | apply dropExport_keeps
    | apply endWindow_keeps
    | apply setCap_keeps

theorem execRecAbort_keeps {s₀ : State} (who : Req) (s : State) (h₀ : Keeps s₀ s) : Answers s₀ (execRecAbort who s) := by
  unfold execRecAbort
  with_reducible repeat' first
    | exact Keeps.refl _
    | assumption
    | (intro _; try dsimp only)
    | apply Answers.next
    | apply recAbort_keeps
    | apply serve_keeps

theorem recStat_keeps {s₀ : State} (result : Nat) (s : State) (h₀ : Keeps s₀ s) : Keeps s₀ (recStat result s) := by
  unfold recStat
  with_reducible repeat' first
    | assumption
    | apply wr_keeps

theorem onRecord_keeps {s₀ : State} (f : CapRec → State → State) (s : State) (hf : ∀ r u, Keeps u (f r u)) (h₀ : Keeps s₀ s) :
    Keeps s₀ (onRecord f s) := by
  unfold onRecord
  repeat' split
  · exact recStat_keeps _ _ h₀
  · exact recStat_keeps _ _ h₀
  · exact h₀.trans (hf _ _)

theorem recExport_keeps {s₀ : State} (format : Nat) (pack : Bool) (s : State) (h₀ : Keeps s₀ s) :
    Keeps s₀ (recExport format pack s) := by
  unfold recExport
  with_reducible repeat' first
    | exact Keeps.refl _
    | assumption
    | (intro _; try dsimp only)
    | apply Keeps.ite
    | apply dropExport_keeps
    | apply openMore_keeps
    | apply openWindow_keeps
    | apply recStat_keeps
    | apply feedWindow_keeps
    | apply setWork_keeps
    | apply onRecord_keeps
    | apply setCap_keeps

theorem execRecExport_keeps {s₀ : State} (who : Req) (format : BitVec 2) (pack : Bool) (s : State) (h₀ : Keeps s₀ s) :
    Answers s₀ (execRecExport who format pack s) := by
  unfold execRecExport
  with_reducible repeat' first
    | exact Keeps.refl _
    | assumption
    | (intro _; try dsimp only)
    | apply Answers.next
    | apply recExport_keeps
    | apply serve_keeps

theorem recInfo_keeps {s₀ : State} (s : State) (h₀ : Keeps s₀ s) : Keeps s₀ (recInfo s) := by
  unfold recInfo
  with_reducible repeat' first
    | exact Keeps.refl _
    | assumption
    | (intro _; try dsimp only)
    | apply wrWords_keeps
    | apply recStat_keeps
    | apply onRecord_keeps

theorem execRecInfo_keeps {s₀ : State} (who : Req) (s : State) (h₀ : Keeps s₀ s) : Answers s₀ (execRecInfo who s) := by
  unfold execRecInfo
  with_reducible repeat' first
    | exact Keeps.refl _
    | assumption
    | (intro _; try dsimp only)
    | apply Answers.next
    | apply recInfo_keeps
    | apply serve_keeps

theorem recRelease_keeps {s₀ : State} (s : State) (h₀ : Keeps s₀ s) : Keeps s₀ (recRelease s) := by
  unfold recRelease
  with_reducible repeat' first
    | exact Keeps.refl _
    | assumption
    | (intro _; try dsimp only)
    | apply dropExport_keeps
    | apply xfEnd_keeps
    | apply recStat_keeps
    | apply endWindow_keeps
    | apply onRecord_keeps
    | apply setCap_keeps
    | split

theorem execRecRelease_keeps {s₀ : State} (who : Req) (s : State) (h₀ : Keeps s₀ s) : Answers s₀ (execRecRelease who s) := by
  unfold execRecRelease
  with_reducible repeat' first
    | exact Keeps.refl _
    | assumption
    | (intro _; try dsimp only)
    | apply Answers.next
    | apply recRelease_keeps
    | apply serve_keeps

theorem execThLvlWrite_keeps {s₀ : State} (who : Req) (th : Fin 32) (v : Word) (s : State) (h₀ : Keeps s₀ s) :
    Answers s₀ (execThLvlWrite who th v s) := by
  unfold execThLvlWrite
  with_reducible repeat' first
    | exact Keeps.refl _
    | assumption
    | (intro _; try dsimp only)
    | apply Answers.next
    | apply wr_keeps
    | apply serve_keeps

theorem exportDone_keeps {s₀ : State} (s : State) (h₀ : Keeps s₀ s) : Keeps s₀ (exportDone s) := by
  unfold exportDone
  with_reducible repeat' first
    | assumption
    | apply raise_keeps
    | apply setCap_keeps
    | split

end Sys2Proof.Machine
end

