-- ==== Sys2Proof/Laws/KeepsPorts.lean ====
section
/-!
SUPPORT. What each operation keeps (Safety.Keeps): the ports, the egress, the energy records and the transfers.
-/

namespace Sys2Proof.Machine

open Sys2Proof

set_option Elab.async false
set_option linter.all false

set_option maxRecDepth 4000

theorem xfAbort_keeps {s₀ : State} (s : State) (h₀ : Keeps s₀ s) : Keeps s₀ (xfAbort s) := by
  unfold xfAbort
  with_reducible repeat' first
    | assumption
    | apply Keeps.ite
    | apply xfEnd_keeps

theorem execXfAbort_keeps {s₀ : State} (who : Req) (s : State) (h₀ : Keeps s₀ s) : Answers s₀ (execXfAbort who s) := by
  unfold execXfAbort
  with_reducible repeat' first
    | exact Keeps.refl _
    | assumption
    | (intro _; try dsimp only)
    | apply Answers.next
    | apply xfAbort_keeps
    | apply serve_keeps

theorem xfDatagram_keeps {s₀ : State} (s : State) (h₀ : Keeps s₀ s) : Keeps s₀ (xfDatagram s) := by
  unfold xfDatagram
  with_reducible repeat' first
    | (apply Keeps.lit; first | exact Keeps.refl _ | assumption | intro _ | apply Keeps.ite | apply xfEnd_keeps | apply compose_keeps | apply Keeps.foldl | apply Keeps.forUpTo)
    | split

theorem execXfDatagram_keeps {s₀ : State} (s : State) (h₀ : Keeps s₀ s) : Answers s₀ (execXfDatagram s) := by
  unfold execXfDatagram
  with_reducible repeat' first
    | assumption
    | apply Answers.inFull
    | apply xfDatagram_keeps

theorem xfGo_keeps {s₀ : State} (s : State) (h₀ : Keeps s₀ s) : Keeps s₀ (xfGo s) := by
  unfold xfGo
  with_reducible repeat' first
    | (apply Keeps.lit; first | exact Keeps.refl _ | assumption | intro _ | apply Keeps.ite | apply xfEnd_keeps | apply wrF_keeps | apply wr_keeps | apply Keeps.foldl | apply Keeps.forUpTo)
    | split

theorem execXfGo_keeps {s₀ : State} (who : Req) (s : State) (h₀ : Keeps s₀ s) : Answers s₀ (execXfGo who s) := by
  unfold execXfGo
  with_reducible repeat' first
    | exact Keeps.refl _
    | assumption
    | (intro _; try dsimp only)
    | apply Answers.next
    | apply xfGo_keeps
    | apply serve_keeps

end Sys2Proof.Machine
end

