-- ==== Sys2Proof/Laws/KeepsHost.lean ====
section
/-!
SUPPORT. What each operation keeps (Safety.Keeps): the host interface and the ingest.
-/

namespace Sys2Proof.Machine

open Sys2Proof

set_option Elab.async false
set_option linter.all false

set_option maxRecDepth 4000

theorem markDelivered_keeps {s₀ : State} (s : State) (h₀ : Keeps s₀ s) : Keeps s₀ (markDelivered s) := by
  unfold markDelivered
  with_reducible repeat' first
    | assumption
    | apply Keeps.ite
    | apply setEnergy_keeps

theorem afterRead_keeps {s₀ : State} (w : Win) (busy : Bool) (s : State) (h₀ : Keeps s₀ s) : Keeps s₀ (afterRead w busy s) := by
  unfold afterRead
  with_reducible repeat' first
    | assumption
    | apply Keeps.ite
    | apply setLedger_keeps
    | apply markDelivered_keeps
    | apply exportDone_keeps
    | split

theorem setHost_keeps {s₀ : State} (f : HostIf → HostIf) (s : State) (h₀ : Keeps s₀ s) : Keeps s₀ (setHost f s) := by
  unfold setHost
  with_reducible repeat' (apply Keeps.lit; first | exact Keeps.refl _ | assumption)

theorem heldDiscard_keeps {s₀ : State} (a : Nat) (r : List Instr) (s : State) (h₀ : Keeps s₀ s) :
    Keeps s₀ (heldDiscard a r s) := by
  unfold heldDiscard
  with_reducible repeat' first
    | assumption
    | apply logEvent_keeps
    | apply setHost_keeps
    | apply wr_keeps
    | apply raise_keeps

theorem heldDrop_keeps {s₀ : State} (s : State) (h₀ : Keeps s₀ s) : Keeps s₀ (heldDrop s) := by
  unfold heldDrop
  with_reducible repeat' first
    | assumption
    | apply heldDiscard_keeps
    | split

theorem ledgerAbort_keeps {s₀ : State} (s : State) (h₀ : Keeps s₀ s) : Keeps s₀ (ledgerAbort s) := by
  unfold ledgerAbort
  with_reducible repeat' first
    | assumption
    | apply Keeps.ite
    | apply endWindow_keeps
    | apply dropEngine_keeps
    | apply setLedger_keeps
    | apply wr_keeps
    | apply setWork_keeps

theorem winAbort_keeps {s₀ : State} (w : Win) (s : State) (h₀ : Keeps s₀ s) : Keeps s₀ (winAbort w s) := by
  unfold winAbort
  with_reducible repeat' first
    | assumption
    | apply recAbort_keeps
    | apply endWindow_keeps
    | apply ledgerAbort_keeps
    | split

theorem winReset_keeps {s₀ : State} (w : Win) (s : State) (h₀ : Keeps s₀ s) : Keeps s₀ (winReset w s) := by
  unfold winReset
  with_reducible repeat' first
    | assumption
    | apply Keeps.ite
    | apply setWindow_keeps
    | apply winAbort_keeps

theorem hostReset_keeps {s₀ : State} (s : State) (h₀ : Keeps s₀ s) : Keeps s₀ (hostReset s) := by
  unfold hostReset
  with_reducible repeat' first
    | exact Keeps.refl _
    | assumption
    | (intro _; try dsimp only)
    | apply setHost_keeps
    | apply wr_keeps
    | apply winReset_keeps
    | apply Keeps.foldl
    | apply Keeps.forUpTo

theorem linkBack_keeps {s₀ : State} (kind : LinkReset) (s : State) (h₀ : Keeps s₀ s) : Keeps s₀ (linkBack kind s) := by
  unfold linkBack
  with_reducible repeat' first
    | assumption
    | apply logEvent_keeps
    | apply raise_keeps

theorem sendPending_keeps {s₀ : State} (s : State) (h₀ : Keeps s₀ s) : Keeps s₀ (sendPending s) := by
  unfold sendPending
  with_reducible repeat' first
    | exact Keeps.refl _
    | assumption
    | (intro _; try dsimp only)
    | apply Keeps.ite
    | apply sendVector_keeps
    | apply setHost_keeps
    | apply Keeps.forUpTo

theorem hostLinkReset_keeps {s₀ : State} (kind : LinkReset) (s : State) (h₀ : Keeps s₀ s) : Keeps s₀ (hostLinkReset kind s) := by
  unfold hostLinkReset
  with_reducible repeat' first
    | assumption
    | apply Keeps.ite
    | apply hostReset_keeps
    | apply linkBack_keeps
    | apply sendPending_keeps

theorem hostRetry_keeps {s₀ : State} (run : Instr → State → State) (s : State) (h_run : ∀ (x0 : Instr) (u : State), Keeps u (run x0 u))
    (h₀ : Keeps s₀ s) :
    Keeps s₀ (hostRetry run s) := by
  unfold hostRetry
  with_reducible repeat' first
    | assumption
    | (intro _; try dsimp only)
    | apply Keeps.ite
    | apply h_run
    | apply setHost_keeps
    | apply Keeps.foldl

theorem mirrorOpen_keeps {s₀ : State} (s : State) (h₀ : Keeps s₀ s) : Keeps s₀ (mirrorOpen s) := by
  unfold mirrorOpen
  with_reducible repeat' first
    | assumption
    | apply Keeps.ite
    | apply openWindow_keeps
    | apply openEmpty_keeps

theorem winUnder_keeps {s₀ : State} (x : Window) (s : State) (h₀ : Keeps s₀ s) : Keeps s₀ (winUnder x s) := by
  unfold winUnder
  with_reducible repeat' first
    | assumption
    | apply Keeps.ite
    | apply bumpSat_keeps
    | apply raise_keeps

theorem winPop_keeps {s₀ : State} (w : Win) (poison : Bool) (s : State) (h₀ : Keeps s₀ s) : Keeps s₀ (winPop w poison s).2 := by
  unfold winPop
  try dsimp only
  with_reducible repeat' first
    | assumption
    | apply bumpSat_keeps
    | apply winUnder_keeps
    | apply raise_keeps
    | apply setWindow_keeps
    | split

theorem readWords_keeps {s₀ : State} (w : Win) (n : Nat) (l : List Bool) (s : State) (h₀ : Keeps s₀ s) :
    Keeps s₀ (readWords w n l s) := by
  induction n generalizing l s with
  | zero => exact h₀
  | succ n ih => exact ih _ _ (answer_keeps _ _ _ (winPop_keeps _ _ _ h₀))

theorem windowRead_keeps {s₀ : State} (w : Win) (r : WinRead) (poison : List Bool) (s : State) (h₀ : Keeps s₀ s) :
    Keeps s₀ (windowRead w r poison s) := by
  unfold windowRead
  with_reducible repeat' first
    | assumption
    | apply answer_keeps
    | apply readWords_keeps
    | apply afterRead_keeps
    | apply winUnder_keeps
    | apply winPop_keeps
    | split

theorem writeBits_keeps {s₀ : State} (a : Nat) (rw : Word) (clr : Word) (v : Word) (s : State) (h₀ : Keeps s₀ s) :
    Keeps s₀ (writeBits a rw clr v s) := by
  unfold writeBits
  with_reducible repeat' first
    | assumption
    | apply vectorEdge_keeps
    | apply wr_keeps

theorem writeEffect_keeps {s₀ : State} (a : Nat) (s : State) (h₀ : Keeps s₀ s) : Keeps s₀ (writeEffect a s) := by
  unfold writeEffect
  with_reducible repeat' first
    | assumption
    | apply setStat_keeps
    | apply wrF_keeps
    | apply updateHoldExc_keeps
    | apply ribReport_keeps
    | apply wr_keeps
    | split

theorem writeWord_keeps {s₀ : State} (who : Req) (a : Nat) (m : Word) (v : Word) (s : State) (h₀ : Keeps s₀ s) :
    Keeps s₀ (writeWord who a m v s) := by
  unfold writeWord
  with_reducible repeat' first
    | (apply Keeps.lit; first | exact Keeps.refl _ | assumption | intro _ | apply Keeps.ite | apply writeBits_keeps | apply writeEffect_keeps | apply Keeps.foldl | apply Keeps.forUpTo)
    | split

theorem writeBytes_keeps {s₀ : State} (c : Instr) (who : Req) (a : Nat) (be : Nat) (v : BitVec 64) (s : State) (h₀ : Keeps s₀ s) :
    Keeps s₀ (writeBytes c who a be v s) := by
  unfold writeBytes
  with_reducible repeat' first
    | assumption
    | apply Keeps.ite
    | apply writeWord_keeps
    | apply holdWrite_keeps

theorem setSentry_keeps {s₀ : State} (f : Sentry → Sentry) (s : State) (h₀ : Keeps s₀ s) : Keeps s₀ (setSentry f s) := by
  unfold setSentry
  with_reducible repeat' (apply Keeps.lit; first | exact Keeps.refl _ | assumption)

theorem calCommit_keeps {s₀ : State} (who : Req) (s : State) (h₀ : Keeps s₀ s) : Keeps s₀ (calCommit who s) := by
  unfold calCommit
  with_reducible repeat' first
    | assumption
    | apply Keeps.ite
    | apply setSentry_keeps
    | apply holdWrite_keeps

theorem calFreezeTimeout_keeps {s₀ : State} (r : Nat) (s : State) (h₀ : Keeps s₀ s) : Keeps s₀ (calFreezeTimeout r s) := by
  unfold calFreezeTimeout
  with_reducible repeat' first
    | assumption
    | apply Keeps.ite
    | apply setSentry_keeps

theorem calReadFreeze_keeps {s₀ : State} (who : Req) (k : Nat) (s : State) (h₀ : Keeps s₀ s) :
    Keeps s₀ (calReadFreeze who k s) := by
  unfold calReadFreeze
  with_reducible repeat' first
    | assumption
    | apply setSentry_keeps
    | apply answer_keeps

theorem calReadRelease_keeps {s₀ : State} (who : Req) (s : State) (h₀ : Keeps s₀ s) : Keeps s₀ (calReadRelease who s) := by
  unfold calReadRelease
  with_reducible repeat' first
    | assumption
    | apply setSentry_keeps
    | apply answer_keeps

theorem commitTake_keeps {s₀ : State} (s : State) (h₀ : Keeps s₀ s) : Keeps s₀ (commitTake s) := by
  unfold commitTake
  with_reducible repeat' first
    | assumption
    | apply setSentry_keeps
    | apply raise_keeps

theorem refTake_keeps {s₀ : State} (s : State) (h₀ : Keeps s₀ s) : Keeps s₀ (refTake s) := by
  unfold refTake
  with_reducible repeat' first
    | assumption
    | apply Keeps.ite
    | apply setSentry_keeps
    | apply wr64_keeps
    | apply wr_keeps
    | apply raise_keeps

theorem sentryPosts_keeps {s₀ : State} (s : State) (h₀ : Keeps s₀ s) : Keeps s₀ (sentryPosts s) := by
  unfold sentryPosts
  with_reducible repeat' first
    | exact Keeps.refl _
    | assumption
    | (intro _; try dsimp only)
    | apply Keeps.ite
    | apply setSentry_keeps
    | apply writeBits_keeps
    | apply Keeps.foldl

theorem secondNext_keeps {s₀ : State} (s : State) (h₀ : Keeps s₀ s) : Keeps s₀ (secondNext s) := by
  unfold secondNext
  with_reducible repeat' first
    | assumption
    | apply Keeps.ite
    | apply setSentry_keeps
    | apply raise_keeps

theorem sentryTick_keeps {s₀ : State} (s : State) (h₀ : Keeps s₀ s) : Keeps s₀ (sentryTick s) := by
  unfold sentryTick
  with_reducible repeat' first
    | assumption
    | apply Keeps.ite
    | apply setSentry_keeps
    | apply commitTake_keeps
    | apply refTake_keeps
    | apply sentryPosts_keeps
    | apply secondNext_keeps

theorem calSecond_keeps {s₀ : State} (s : State) (h₀ : Keeps s₀ s) : Keeps s₀ (calSecond s) := by
  unfold calSecond
  with_reducible repeat' first
    | assumption
    | apply Keeps.ite
    | apply setSentry_keeps
    | apply sentryTick_keeps

theorem execCalCommit_keeps {s₀ : State} (who : Req) (s : State) (h₀ : Keeps s₀ s) : Answers s₀ (execCalCommit who s) := by
  unfold execCalCommit
  with_reducible repeat' first
    | exact Keeps.refl _
    | assumption
    | (intro _; try dsimp only)
    | apply Answers.next
    | apply calCommit_keeps
    | apply serve_keeps

theorem execCalFreezeTimeout_keeps {s₀ : State} (who : Req) (s : State) (h₀ : Keeps s₀ s) :
    Answers s₀ (execCalFreezeTimeout who s) := by
  unfold execCalFreezeTimeout
  with_reducible repeat' first
    | assumption
    | apply Answers.next
    | apply calFreezeTimeout_keeps

theorem execCalReadFreeze_keeps {s₀ : State} (who : Req) (k : Fin 3) (s : State) (h₀ : Keeps s₀ s) :
    Answers s₀ (execCalReadFreeze who k s) := by
  unfold execCalReadFreeze
  with_reducible repeat' first
    | exact Keeps.refl _
    | assumption
    | (intro _; try dsimp only)
    | apply Answers.next
    | apply calReadFreeze_keeps
    | apply serve_keeps

theorem execCalReadRelease_keeps {s₀ : State} (who : Req) (s : State) (h₀ : Keeps s₀ s) :
    Answers s₀ (execCalReadRelease who s) := by
  unfold execCalReadRelease
  with_reducible repeat' first
    | exact Keeps.refl _
    | assumption
    | (intro _; try dsimp only)
    | apply Answers.next
    | apply calReadRelease_keeps
    | apply serve_keeps

theorem execCalSecond_keeps {s₀ : State} (s : State) (h₀ : Keeps s₀ s) : Answers s₀ (execCalSecond s) := by
  unfold execCalSecond
  with_reducible repeat' first
    | assumption
    | apply Answers.next
    | apply calSecond_keeps

theorem execRefLatch_keeps {s₀ : State} (who : Req) (s : State) (h₀ : Keeps s₀ s) : Answers s₀ (execRefLatch who s) := by
  unfold execRefLatch
  with_reducible repeat' first
    | exact Keeps.refl _
    | assumption
    | (intro _; try dsimp only)
    | apply Answers.next
    | apply setSentry_keeps
    | apply serve_keeps

theorem sentryLoss_keeps {s₀ : State} (s : State) (h₀ : Keeps s₀ s) : Keeps s₀ (sentryLoss s) := by
  unfold sentryLoss
  with_reducible repeat' first
    | (intro _; try dsimp only)
    | (apply Keeps.lit; first | exact Keeps.refl _ | assumption | intro _ | apply Keeps.ite | apply wr_keeps | apply Keeps.foldl)

theorem execSentryLoss_keeps {s₀ : State} (s : State) (h₀ : Keeps s₀ s) : Answers s₀ (execSentryLoss s) := by
  unfold execSentryLoss
  with_reducible repeat' first
    | assumption
    | apply Answers.next
    | apply sentryLoss_keeps

theorem vbatSwitch_keeps {s₀ : State} (s : State) (h₀ : Keeps s₀ s) : Keeps s₀ (vbatSwitch s) := by
  unfold vbatSwitch
  with_reducible repeat' first
    | assumption
    | apply Keeps.ite
    | apply setStat_keeps
    | apply setSentry_keeps
    | apply bumpSat_keeps
    | apply wr64_keeps
    | apply raise_keeps

theorem execVbatSwitch_keeps {s₀ : State} (s : State) (h₀ : Keeps s₀ s) : Answers s₀ (execVbatSwitch s) := by
  unfold execVbatSwitch
  with_reducible repeat' first
    | assumption
    | apply Answers.next
    | apply vbatSwitch_keeps

theorem skipOne_keeps {s₀ : State} (s : State) (h₀ : Keeps s₀ s) : Keeps s₀ (skipOne s) := by
  unfold skipOne
  with_reducible repeat' first
    | assumption
    | apply Keeps.ite
    | apply openTab_keeps
    | apply schOccur_keeps
    | split

theorem fireSkipped_keeps {s₀ : State} (s : State) (h₀ : Keeps s₀ s) : Keeps s₀ (fireSkipped s) := by
  unfold fireSkipped
  with_reducible repeat' first
    | exact Keeps.refl _
    | assumption
    | (intro _; try dsimp only)
    | apply skipOne_keeps
    | apply Keeps.forUpTo

theorem applyCommit_keeps {s₀ : State} (new : Nat) (s : State) (h₀ : Keeps s₀ s) : Keeps s₀ (applyCommit new s) := by
  unfold applyCommit
  with_reducible repeat' first
    | apply Keeps.ite
    | apply setStat_keeps
    | apply fireSkipped_keeps
    | apply capStep_keeps
    | apply scalesStep_keeps
    | apply raise_keeps
    | apply mastTo_keeps
    | (apply Keeps.lit; first | exact Keeps.refl _ | assumption)

theorem refuseCommit_keeps {s₀ : State} (s : State) (h₀ : Keeps s₀ s) : Keeps s₀ (refuseCommit s) := by
  unfold refuseCommit
  with_reducible repeat' first
    | assumption
    | apply Keeps.ite
    | apply logEvent_keeps
    | apply raise_keeps
    | apply mastTo_keeps

theorem commit_keeps {s₀ : State} (new : Nat) (s : State) (h₀ : Keeps s₀ s) : Keeps s₀ (commit new s) := by
  unfold commit
  with_reducible repeat' first
    | assumption
    | apply Keeps.ite
    | apply refuseCommit_keeps
    | apply applyCommit_keeps

theorem execCommitSet_keeps {s₀ : State} (who : Req) (s : State) (h₀ : Keeps s₀ s) : Answers s₀ (execCommitSet who s) := by
  unfold execCommitSet
  with_reducible repeat' first
    | exact Keeps.refl _
    | assumption
    | (intro _; try dsimp only)
    | apply Answers.next
    | apply commit_keeps
    | apply serve_keeps

theorem execCommitStep_keeps {s₀ : State} (who : Req) (backward : Bool) (s : State) (h₀ : Keeps s₀ s) :
    Answers s₀ (execCommitStep who backward s) := by
  unfold execCommitStep
  with_reducible repeat' first
    | exact Keeps.refl _
    | assumption
    | (intro _; try dsimp only)
    | apply Answers.next
    | apply commit_keeps
    | apply serve_keeps

theorem cancelThread_keeps {s₀ : State} (t : Nat) (s : State) (h₀ : Keeps s₀ s) : Keeps s₀ (cancelThread t s) := by
  unfold cancelThread
  with_reducible repeat' (apply Keeps.lit; first | exact Keeps.refl _ | assumption | intro _ | apply Keeps.ite | apply setThread_keeps | apply count_keeps)

theorem deckFail_keeps {s₀ : State} (s : State) (h₀ : Keeps s₀ s) : Keeps s₀ (deckFail s) := by
  unfold deckFail
  with_reducible repeat' first
    | apply updateNodeOk_keeps
    | (apply Keeps.lit; first | exact Keeps.refl _ | assumption | intro _ | apply Keeps.ite | apply logEvent_keeps | apply setInt_keeps | apply deckReset_keeps)

theorem execDeckFailed_keeps {s₀ : State} (s : State) (h₀ : Keeps s₀ s) : Answers s₀ (execDeckFailed s) := by
  unfold execDeckFailed
  with_reducible repeat' first
    | assumption
    | apply Keeps.ite
    | apply Answers.inFull
    | apply deckFail_keeps
    | apply bootDeckFailed_keeps

theorem hostPostWrite_keeps {s₀ : State} (c : Instr) (t : Nat) (f : State → State) (s : State) (h_f : ∀ (u : State), Keeps u (f u))
    (h₀ : Keeps s₀ s) :
    Keeps s₀ (hostPostWrite c t f s) := by
  unfold hostPostWrite
  with_reducible repeat' first
    | apply Keeps.ite
    | apply Keeps.app h_f
    | apply holdWrite_keeps
    | (apply Keeps.lit; first | exact Keeps.refl _ | assumption)

theorem hostCancel_keeps {s₀ : State} (t : Nat) (withPost : Bool) (s : State) (h₀ : Keeps s₀ s) :
    Keeps s₀ (hostCancel t withPost s) := by
  unfold hostCancel
  with_reducible repeat' first
    | apply Keeps.ite
    | apply cancelThread_keeps
    | apply count_keeps
    | (apply Keeps.lit; first | exact Keeps.refl _ | assumption)

theorem execHostCancel_keeps {s₀ : State} (t : Fin 256) (withPost : Bool) (s : State) (h₀ : Keeps s₀ s) :
    Answers s₀ (execHostCancel t withPost s) := by
  unfold execHostCancel
  with_reducible repeat' first
    | exact Keeps.refl _
    | assumption
    | (intro _; try dsimp only)
    | apply Answers.next
    | apply hostServe_keeps
    | apply hostPostWrite_keeps
    | apply hostCancel_keeps

theorem execHostPost_keeps {s₀ : State} (t : Fin 256) (s : State) (h₀ : Keeps s₀ s) : Answers s₀ (execHostPost t s) := by
  unfold execHostPost
  with_reducible repeat' first
    | exact Keeps.refl _
    | assumption
    | (intro _; try dsimp only)
    | apply Answers.next
    | apply hostServe_keeps
    | apply offerPost_keeps
    | apply hostPostWrite_keeps

theorem execHostRestart_keeps {s₀ : State} (who : Req) (key : BitVec 16) (s : State) (h₀ : Keeps s₀ s) :
    Answers s₀ (execHostRestart who key s) := by
  unfold execHostRestart
  with_reducible repeat' first
    | exact Keeps.refl _
    | assumption
    | (intro _; try dsimp only)
    | apply Keeps.ite
    | apply Answers.next
    | apply deckRestart_keeps
    | apply serve_keeps

theorem threadFault_keeps {s₀ : State} (c : Nat) (s : State) (h₀ : Keeps s₀ s) : Keeps s₀ (threadFault c s) := by
  unfold threadFault
  with_reducible repeat' first
    | assumption
    | apply Keeps.ite
    | apply logEvent_keeps
    | apply setInt_keeps
    | apply setRunning_keeps
    | apply setThread_keeps
    | apply makeReady_keeps
    | apply dispatch_keeps
    | split

theorem machineCheck_keeps {s₀ : State} (core : Nat) (customer : Bool) (s : State) (h₀ : Keeps s₀ s) :
    Keeps s₀ (machineCheck core customer s) := by
  unfold machineCheck
  with_reducible repeat' first
    | assumption
    | apply Keeps.ite
    | apply deckRestart_keeps
    | apply setInt_keeps
    | apply threadFault_keeps

theorem execMachineCheck_keeps {s₀ : State} (core : Fin 4) (customer : Bool) (s : State) (h₀ : Keeps s₀ s) :
    Answers s₀ (execMachineCheck core customer s) := by
  unfold execMachineCheck
  with_reducible repeat' first
    | assumption
    | apply Answers.inFull
    | apply machineCheck_keeps

theorem execPcClear_keeps {s₀ : State} (who : Req) (set : PcSet) (s : State) (h₀ : Keeps s₀ s) :
    Answers s₀ (execPcClear who set s) := by
  unfold execPcClear
  with_reducible repeat' first
    | exact Keeps.refl _
    | assumption
    | (intro _; try dsimp only)
    | apply Answers.next
    | apply serve_keeps
    | apply pcZero_keeps
    | apply Keeps.foldl

theorem execPcEn_keeps {s₀ : State} (who : Req) (set : PcSet) (on : Bool) (s : State) (h₀ : Keeps s₀ s) :
    Answers s₀ (execPcEn who set on s) := by
  unfold execPcEn
  with_reducible repeat' first
    | exact Keeps.refl _
    | assumption
    | (intro _; try dsimp only)
    | apply Answers.next
    | apply setStat_keeps
    | apply serve_keeps

theorem execPcFreeze_keeps {s₀ : State} (who : Req) (set : PcSet) (on : Bool) (s : State) (h₀ : Keeps s₀ s) :
    Answers s₀ (execPcFreeze who set on s) := by
  unfold execPcFreeze
  with_reducible repeat' first
    | exact Keeps.refl _
    | assumption
    | (intro _; try dsimp only)
    | apply Answers.next
    | apply setStat_keeps
    | apply serve_keeps

theorem execPcOvf_keeps {s₀ : State} (c : PcCounter) (s : State) (h₀ : Keeps s₀ s) : Answers s₀ (execPcOvf c s) := by
  unfold execPcOvf
  with_reducible repeat' first
    | assumption
    | apply Keeps.ite
    | apply Answers.inFull
    | apply pcSetFlag_keeps
    | apply wr64_keeps

theorem execPcSelWrite_keeps {s₀ : State} (who : Req) (sel : PcSel) (v : Word) (s : State) (h₀ : Keeps s₀ s) :
    Answers s₀ (execPcSelWrite who sel v s) := by
  unfold execPcSelWrite
  with_reducible repeat' first
    | exact Keeps.refl _
    | assumption
    | (intro _; try dsimp only)
    | apply Answers.next
    | apply wr_keeps
    | apply serve_keeps
    | split

theorem pcSmode_keeps {s₀ : State} (c : Nat) (mode : Nat) (s : State) (h₀ : Keeps s₀ s) : Keeps s₀ (pcSmode c mode s) := by
  unfold pcSmode
  with_reducible repeat' first
    | apply setStat_keeps
    | apply wrF_keeps
    | apply setWindow_keeps
    | (apply Keeps.lit; first | exact Keeps.refl _ | assumption | intro _ | apply Keeps.ite)

theorem execPcSmode_keeps {s₀ : State} (who : Req) (c : Fin 4) (mode : BitVec 2) (s : State) (h₀ : Keeps s₀ s) :
    Answers s₀ (execPcSmode who c mode s) := by
  unfold execPcSmode
  with_reducible repeat' first
    | exact Keeps.refl _
    | assumption
    | (intro _; try dsimp only)
    | apply Answers.next
    | apply pcSmode_keeps
    | apply serve_keeps

theorem postApply_keeps {s₀ : State} (s : State) (h₀ : Keeps s₀ s) : Keeps s₀ (postApply s) := by
  unfold postApply
  with_reducible repeat' first
    | (apply Keeps.lit; first | exact Keeps.refl _ | assumption | intro _ | apply Keeps.ite | apply retryHeld_keeps | apply applyPost_keeps | apply drainTrig_keeps | apply count_keeps | apply dispatch_keeps | apply Keeps.foldl | apply Keeps.forUpTo)
    | split

theorem execPostApply_keeps {s₀ : State} (s : State) (h₀ : Keeps s₀ s) : Answers s₀ (execPostApply s) := by
  unfold execPostApply
  with_reducible repeat' first
    | assumption
    | apply Answers.inFull
    | apply postApply_keeps

theorem postInstruction_keeps {s₀ : State} (c : Nat) (target : Nat) (s : State) (h₀ : Keeps s₀ s) :
    Keeps s₀ (postInstruction c target s) := by
  unfold postInstruction
  with_reducible repeat' first
    | assumption
    | apply offerPost_keeps
    | split

theorem execPostInstruction_keeps {s₀ : State} (core : Fin 4) (target : Fin 256) (s : State) (h₀ : Keeps s₀ s) :
    Answers s₀ (execPostInstruction core target s) := by
  unfold execPostInstruction
  with_reducible repeat' first
    | assumption
    | apply Answers.inFull
    | apply postInstruction_keeps

theorem preciseSample_keeps {s₀ : State} (c : Nat) (addr : BitVec 48) (latency : Nat) (s : State) (h₀ : Keeps s₀ s) :
    Keeps s₀ (preciseSample c addr latency s) := by
  unfold preciseSample
  with_reducible repeat' first
    | assumption
    | apply pushSample_keeps

theorem execPreciseSample_keeps {s₀ : State} (c : Fin 4) (addr : BitVec 48) (latency : BitVec 16) (s : State) (h₀ : Keeps s₀ s) :
    Answers s₀ (execPreciseSample c addr latency s) := by
  unfold execPreciseSample
  with_reducible repeat' first
    | assumption
    | apply Keeps.ite
    | apply Answers.inFull
    | apply preciseSample_keeps

theorem execDeckRestartDone_keeps {s₀ : State} (verified : Bool) (version : Word) (s : State) (h₀ : Keeps s₀ s) :
    Answers s₀ (execDeckRestartDone verified version s) := by
  unfold execDeckRestartDone
  with_reducible repeat' first
    | assumption
    | apply Keeps.ite
    | apply Answers.inFull
    | apply deckRun_keeps
    | apply bootDeckRun_keeps
    | apply bootLoadCode_keeps

theorem execSchedSnapshot_keeps {s₀ : State} (who : Req) (clr : Bool) (s : State) (h₀ : Keeps s₀ s) :
    Answers s₀ (execSchedSnapshot who clr s) := by
  unfold execSchedSnapshot
  with_reducible repeat' first
    | exact Keeps.refl _
    | assumption
    | (intro _; try dsimp only)
    | apply Answers.next
    | apply snapshot_keeps
    | apply setInt_keeps
    | apply serve_keeps

theorem execThLoad_keeps {s₀ : State} (who : Req) (t : Fin 256) (s : State) (h₀ : Keeps s₀ s) :
    Answers s₀ (execThLoad who t s) := by
  unfold execThLoad
  with_reducible repeat' first
    | exact Keeps.refl _
    | assumption
    | (intro _; try dsimp only)
    | apply Answers.next
    | apply wrWords_keeps
    | apply wr_keeps
    | apply serve_keeps

theorem execThreadFault_keeps {s₀ : State} (core : Fin 4) (s : State) (h₀ : Keeps s₀ s) :
    Answers s₀ (execThreadFault core s) := by
  unfold execThreadFault
  with_reducible repeat' first
    | assumption
    | apply Answers.inFull
    | apply threadFault_keeps

theorem threadWait_keeps {s₀ : State} (c : Nat) (timeout : Nat) (s : State) (h₀ : Keeps s₀ s) :
    Keeps s₀ (threadWait c timeout s) := by
  unfold threadWait
  with_reducible repeat' first
    | assumption
    | apply Keeps.ite
    | apply setRunning_keeps
    | apply setThread_keeps
    | apply dispatch_keeps
    | split

theorem execThreadWait_keeps {s₀ : State} (core : Fin 4) (timeout : BitVec 16) (s : State) (h₀ : Keeps s₀ s) :
    Answers s₀ (execThreadWait core timeout s) := by
  unfold execThreadWait
  with_reducible repeat' first
    | assumption
    | apply Answers.inFull
    | apply threadWait_keeps

theorem execTickTimeout_keeps {s₀ : State} (t : Fin 256) (s : State) (h₀ : Keeps s₀ s) : Answers s₀ (execTickTimeout t s) := by
  unfold execTickTimeout
  with_reducible repeat' first
    | assumption
    | apply Keeps.ite
    | apply Answers.inFull
    | apply offerPost_keeps
    | apply setThread_keeps

theorem w2winClose_keeps {s₀ : State} (c : Nat) (cycles : Nat) (retired : Nat) (wasted : Nat) (front : Nat) (mask : Nat) (w : W2Win) (s : State)
    (h₀ : Keeps s₀ s) :
    Keeps s₀ (w2winClose c cycles retired wasted front mask w s) := by
  unfold w2winClose
  with_reducible repeat' first
    | apply pushSample_keeps
    | (apply Keeps.lit; first | exact Keeps.refl _ | assumption)

theorem execW2winClose_keeps {s₀ : State} (c : Fin 4) (cycles : Fin 33) (retired : Nat) (wasted : Nat) (front : Nat) (mask : BitVec 7) (s : State)
    (h₀ : Keeps s₀ s) :
    Answers s₀ (execW2winClose c cycles retired wasted front mask s) := by
  unfold execW2winClose
  with_reducible repeat' first
    | assumption
    | apply Answers.inFull
    | apply w2winClose_keeps
    | split

theorem execW2winOpen_keeps {s₀ : State} (c : Fin 4) (addr : BitVec 48) (s : State) (h₀ : Keeps s₀ s) :
    Answers s₀ (execW2winOpen c addr s) := by
  unfold execW2winOpen
  with_reducible repeat' first
    | apply Answers.inFull
    | (apply Keeps.lit; first | exact Keeps.refl _ | assumption | intro _ | apply Keeps.ite | apply Answers.inFull | apply Answers.powered | apply Answers.next | apply inFull_keeps | apply Keeps.foldl | apply Keeps.forUpTo)
    | split

theorem execWdogExpiry_keeps {s₀ : State} (s : State) (h₀ : Keeps s₀ s) : Answers s₀ (execWdogExpiry s) := by
  unfold execWdogExpiry
  with_reducible repeat' first
    | assumption
    | apply Keeps.ite
    | apply Answers.inFull
    | apply deckRestart_keeps
    | apply setInt_keeps

theorem wdogKick_keeps {s₀ : State} (who : Req) (s : State) (h₀ : Keeps s₀ s) : Keeps s₀ (wdogKick who s) := by
  unfold wdogKick
  with_reducible repeat' first
    | (apply Keeps.lit; first | exact Keeps.refl _ | assumption | intro _ | apply Keeps.ite | apply Keeps.foldl | apply Keeps.forUpTo)
    | split

theorem execWdogKick_keeps {s₀ : State} (who : Req) (s : State) (h₀ : Keeps s₀ s) : Answers s₀ (execWdogKick who s) := by
  unfold execWdogKick
  with_reducible repeat' first
    | exact Keeps.refl _
    | assumption
    | (intro _; try dsimp only)
    | apply Answers.next
    | apply wdogKick_keeps
    | apply serve_keeps

theorem setPaused_keeps {s₀ : State} (p : Nat) (m : Nat) (s : State) (h₀ : Keeps s₀ s) : Keeps s₀ (setPaused p m s) := by
  unfold setPaused
  with_reducible repeat' first
    | assumption
    | apply Keeps.ite
    | apply portCount_keeps
    | apply setPort_keeps

theorem pauseFor_keeps {s₀ : State} (p : Nat) (prio : Nat) (quanta : Nat) (s : State) (h₀ : Keeps s₀ s) :
    Keeps s₀ (pauseFor p prio quanta s) := by
  unfold pauseFor
  with_reducible repeat' first
    | assumption
    | apply setPort_keeps

theorem macFrame_keeps {s₀ : State} (p : Nat) (k : RxKind) (s : State) (h₀ : Keeps s₀ s) : Keeps s₀ (macFrame p k s) := by
  unfold macFrame
  with_reducible repeat' first
    | exact Keeps.refl _
    | assumption
    | (intro _; try dsimp only)
    | apply portCount_keeps
    | apply setPaused_keeps
    | apply pauseFor_keeps
    | apply Keeps.foldl
    | apply Keeps.forUpTo
    | split

theorem classify_keeps {s₀ : State} (p : Nat) (f : RxFrame) (s : State) (h₀ : Keeps s₀ s) : Keeps s₀ (classify p f s) := by
  unfold classify
  with_reducible repeat' first
    | (apply Keeps.lit; first | exact Keeps.refl _ | assumption | intro _ | apply Keeps.ite | apply portCount_keeps | apply macFrame_keeps | apply toIngest_keeps | apply toRing_keeps | apply Keeps.foldl | apply Keeps.forUpTo)
    | split

theorem clearPort_keeps {s₀ : State} (p : Nat) (s : State) (h₀ : Keeps s₀ s) : Keeps s₀ (clearPort p s) := by
  unfold clearPort
  exact setPort_keeps _ _ _ (Keeps.forUpTo h₀ fun k u => clearLive_keeps _ _ (Keeps.refl u))

theorem countGood_keeps {s₀ : State} (p : Nat) (f : RxFrame) (s : State) (h₀ : Keeps s₀ s) : Keeps s₀ (countGood p f s) := by
  unfold countGood
  with_reducible repeat' first
    | assumption
    | apply Keeps.ite
    | apply portCount_keeps

theorem deckOnly_keeps {s₀ : State} (who : Req) (f : State → State) (s : State) (h_f : ∀ (u : State), Keeps u (f u))
    (h₀ : Keeps s₀ s) :
    Keeps s₀ (deckOnly who f s) := by
  unfold deckOnly
  with_reducible repeat' first
    | assumption
    | apply Keeps.app h_f
    | split

theorem eeeWrite_keeps {s₀ : State} (p : Nat) (v : Word) (s : State) (h₀ : Keeps s₀ s) : Keeps s₀ (eeeWrite p v s) := by
  unfold eeeWrite
  with_reducible repeat' first
    | assumption
    | apply Keeps.ite
    | apply wr_keeps
    | apply raise_keeps

theorem execEeeWrite_keeps {s₀ : State} (who : Req) (p : Fin 64) (v : Word) (s : State) (h₀ : Keeps s₀ s) :
    Answers s₀ (execEeeWrite who p v s) := by
  unfold execEeeWrite
  with_reducible repeat' first
    | exact Keeps.refl _
    | assumption
    | (intro _; try dsimp only)
    | apply Answers.next
    | apply eeeWrite_keeps
    | apply serve_keeps

theorem execLinkChange_keeps {s₀ : State} (p : Fin 64) (up : Bool) (anDone : Bool) (s : State) (h₀ : Keeps s₀ s) :
    Answers s₀ (execLinkChange p up anDone s) := by
  unfold execLinkChange
  with_reducible repeat' first
    | assumption
    | apply Keeps.ite
    | apply Answers.inFull
    | apply linkChange_keeps

theorem execLpiEntry_keeps {s₀ : State} (p : Fin 64) (s : State) (h₀ : Keeps s₀ s) : Answers s₀ (execLpiEntry p s) := by
  unfold execLpiEntry
  with_reducible repeat' first
    | assumption
    | apply Keeps.ite
    | apply Answers.inFull
    | apply portCount_keeps
    | apply setPort_keeps

theorem execPauseExpiry_keeps {s₀ : State} (p : Fin 64) (prio : Fin 8) (s : State) (h₀ : Keeps s₀ s) :
    Answers s₀ (execPauseExpiry p prio s) := by
  unfold execPauseExpiry
  with_reducible repeat' first
    | assumption
    | apply Keeps.ite
    | apply Answers.inFull
    | apply setPaused_keeps

theorem execPfcRefresh_keeps {s₀ : State} (p : Fin 64) (s : State) (h₀ : Keeps s₀ s) : Answers s₀ (execPfcRefresh p s) := by
  unfold execPfcRefresh
  with_reducible repeat' first
    | assumption
    | apply Keeps.ite
    | apply Answers.inFull
    | apply sendPfc_keeps

theorem pfcXon_keeps {s₀ : State} (p : Nat) (s : State) (h₀ : Keeps s₀ s) : Keeps s₀ (pfcXon p s) := by
  unfold pfcXon
  with_reducible repeat' first
    | assumption
    | apply portCount_keeps
    | apply sendPfcWith_keeps

theorem execPfcXon_keeps {s₀ : State} (p : Fin 64) (s : State) (h₀ : Keeps s₀ s) : Answers s₀ (execPfcXon p s) := by
  unfold execPfcXon
  with_reducible repeat' first
    | assumption
    | apply Keeps.ite
    | apply Answers.inFull
    | apply pfcXon_keeps

theorem settleUs_keeps {s₀ : State} (p : Nat) (s : State) (h₀ : Keeps s₀ s) : Keeps s₀ (settleUs p s) := by
  unfold settleUs
  with_reducible repeat' first
    | assumption
    | apply portCount_keeps
    | apply setPort_keeps

theorem snapPort_keeps {s₀ : State} (clr : Bool) (p : Nat) (s : State) (h₀ : Keeps s₀ s) : Keeps s₀ (snapPort clr p s) := by
  unfold snapPort
  with_reducible repeat' first
    | assumption
    | apply Keeps.ite
    | apply settleUs_keeps
    | apply snapshot_keeps
    | apply wr64_keeps
    | apply wr_keeps
    | apply raise_keeps
    | apply setPort_keeps

theorem execPortSnapshot_keeps {s₀ : State} (who : Req) (p : Fin 64) (clr : Bool) (s : State) (h₀ : Keeps s₀ s) :
    Answers s₀ (execPortSnapshot who p clr s) := by
  unfold execPortSnapshot
  with_reducible repeat' first
    | exact Keeps.refl _
    | assumption
    | (intro _; try dsimp only)
    | apply Answers.next
    | apply snapPort_keeps
    | apply serve_keeps

theorem snapAllPorts_keeps {s₀ : State} (clr : Bool) (s : State) (h₀ : Keeps s₀ s) : Keeps s₀ (snapAllPorts clr s) := by
  unfold snapAllPorts
  with_reducible repeat' first
    | (intro _; try dsimp only)
    | (apply Keeps.lit; first | exact Keeps.refl _ | assumption | intro _ | apply Keeps.ite | apply clearPort_keeps | apply snapPort_keeps | apply Keeps.foldl | apply Keeps.forUpTo)
    | split

theorem execPortSnapshotAll_keeps {s₀ : State} (who : Req) (clr : Bool) (s : State) (h₀ : Keeps s₀ s) :
    Answers s₀ (execPortSnapshotAll who clr s) := by
  unfold execPortSnapshotAll
  with_reducible repeat' first
    | exact Keeps.refl _
    | assumption
    | (intro _; try dsimp only)
    | apply Answers.next
    | apply serve_keeps
    | apply snapAllPorts_keeps

theorem execRingDisable_keeps {s₀ : State} (who : Req) (p : Fin 64) (s : State) (h₀ : Keeps s₀ s) :
    Answers s₀ (execRingDisable who p s) := by
  unfold execRingDisable
  with_reducible repeat' first
    | exact Keeps.refl _
    | assumption
    | (intro _; try dsimp only)
    | apply Answers.next
    | apply setStat_keeps
    | apply deckOnly_keeps
    | apply serve_keeps

theorem ringEnable_keeps {s₀ : State} (p : Nat) (s : State) (h₀ : Keeps s₀ s) : Keeps s₀ (ringEnable p s) := by
  unfold ringEnable
  with_reducible repeat' first
    | assumption
    | apply Keeps.ite
    | apply setStat_keeps
    | apply wr_keeps
    | apply setPort_keeps

theorem execRingEnable_keeps {s₀ : State} (who : Req) (p : Fin 64) (s : State) (h₀ : Keeps s₀ s) :
    Answers s₀ (execRingEnable who p s) := by
  unfold execRingEnable
  with_reducible repeat' first
    | exact Keeps.refl _
    | assumption
    | (intro _; try dsimp only)
    | apply Answers.next
    | apply deckOnly_keeps
    | apply serve_keeps
    | apply ringEnable_keeps

theorem rxFrame_keeps {s₀ : State} (p : Nat) (f : RxFrame) (s : State) (h₀ : Keeps s₀ s) : Keeps s₀ (rxFrame p f s) := by
  unfold rxFrame
  with_reducible repeat' first
    | assumption
    | apply Keeps.ite
    | apply portCount_keeps
    | apply countGood_keeps
    | apply classify_keeps
    | apply raise_keeps
    | apply bufReach_keeps
    | split

theorem execRxFrame_keeps {s₀ : State} (p : Fin 64) (f : RxFrame) (s : State) (h₀ : Keeps s₀ s) :
    Answers s₀ (execRxFrame p f s) := by
  unfold execRxFrame
  with_reducible repeat' first
    | assumption
    | apply Keeps.ite
    | apply Answers.inFull
    | apply rxFrame_keeps

theorem rxLpi_keeps {s₀ : State} (p : Nat) (enter : Bool) (s : State) (h₀ : Keeps s₀ s) : Keeps s₀ (rxLpi p enter s) := by
  unfold rxLpi
  with_reducible repeat' first
    | assumption
    | apply Keeps.ite
    | apply portCount_keeps
    | apply setPort_keeps

theorem execRxLpiEntry_keeps {s₀ : State} (p : Fin 64) (enter : Bool) (s : State) (h₀ : Keeps s₀ s) :
    Answers s₀ (execRxLpiEntry p enter s) := by
  unfold execRxLpiEntry
  with_reducible repeat' first
    | assumption
    | apply Keeps.ite
    | apply Answers.inFull
    | apply rxLpi_keeps

theorem execRxReadyCoalesce_keeps {s₀ : State} (p : Fin 64) (s : State) (h₀ : Keeps s₀ s) :
    Answers s₀ (execRxReadyCoalesce p s) := by
  unfold execRxReadyCoalesce
  with_reducible repeat' first
    | assumption
    | apply Keeps.ite
    | apply Answers.inFull
    | apply raise_keeps
    | apply setPort_keeps

theorem rxTailWrite_keeps {s₀ : State} (p : Nat) (tail : Nat) (bufs : List Nat) (s : State) (h₀ : Keeps s₀ s) :
    Keeps s₀ (rxTailWrite p tail bufs s) := by
  unfold rxTailWrite
  with_reducible repeat' first
    | exact Keeps.refl _
    | assumption
    | (intro _; try dsimp only)
    | apply wr_keeps
    | apply offerDesc_keeps
    | apply Keeps.forUpTo

theorem execRxTail_keeps {s₀ : State} (who : Req) (p : Fin 64) (index : BitVec 9) (bufs : List (BitVec 27)) (s : State)
    (h₀ : Keeps s₀ s) :
    Answers s₀ (execRxTail who p index bufs s) := by
  unfold execRxTail
  with_reducible repeat' first
    | exact Keeps.refl _
    | assumption
    | (intro _; try dsimp only)
    | apply Answers.next
    | apply deckOnly_keeps
    | apply rxTailWrite_keeps
    | apply serve_keeps

theorem tsqLatch_keeps {s₀ : State} (who : Req) (p : Nat) (s : State) (h₀ : Keeps s₀ s) : Keeps s₀ (tsqLatch who p s) := by
  unfold tsqLatch
  with_reducible repeat' first
    | assumption
    | apply answer_keeps
    | apply setPort_keeps
    | split

theorem execTsqLatch_keeps {s₀ : State} (who : Req) (p : Fin 64) (s : State) (h₀ : Keeps s₀ s) :
    Answers s₀ (execTsqLatch who p s) := by
  unfold execTsqLatch
  with_reducible repeat' first
    | exact Keeps.refl _
    | assumption
    | (intro _; try dsimp only)
    | apply Answers.next
    | apply tsqLatch_keeps
    | apply serve_keeps

theorem tsqPop_keeps {s₀ : State} (who : Req) (p : Nat) (s : State) (h₀ : Keeps s₀ s) : Keeps s₀ (tsqPop who p s) := by
  unfold tsqPop
  with_reducible repeat' first
    | assumption
    | apply answer_keeps
    | apply setPort_keeps
    | split

theorem execTsqPop_keeps {s₀ : State} (who : Req) (p : Fin 64) (s : State) (h₀ : Keeps s₀ s) :
    Answers s₀ (execTsqPop who p s) := by
  unfold execTsqPop
  with_reducible repeat' first
    | exact Keeps.refl _
    | assumption
    | (intro _; try dsimp only)
    | apply Answers.next
    | apply serve_keeps
    | apply tsqPop_keeps

theorem txFrameEnd_keeps {s₀ : State} (p : Nat) (s : State) (h₀ : Keeps s₀ s) : Keeps s₀ (txFrameEnd p s) := by
  unfold txFrameEnd
  with_reducible repeat' first
    | assumption
    | apply portCount_keeps
    | apply tsqPush_keeps
    | apply emit_keeps
    | apply setPort_keeps
    | split

theorem execTxFrameEnd_keeps {s₀ : State} (p : Fin 64) (s : State) (h₀ : Keeps s₀ s) : Answers s₀ (execTxFrameEnd p s) := by
  unfold execTxFrameEnd
  with_reducible repeat' first
    | assumption
    | apply Keeps.ite
    | apply Answers.inFull
    | apply txFrameEnd_keeps

theorem commitNow_keeps {s₀ : State} (q : Nat) (b : Nat) (prio : Nat) (len : Nat) (s : State) (h₀ : Keeps s₀ s) :
    Keeps s₀ (commitNow q b prio len s) := by
  unfold commitNow
  with_reducible repeat' first
    | assumption
    | apply Keeps.ite
    | apply setQueue_keeps
    | apply nextItem_keeps
    | apply qLand_keeps

theorem unwait_keeps {s₀ : State} (i : QItem) (s : State) (h₀ : Keeps s₀ s) : Keeps s₀ (unwait i s) := by
  unfold unwait
  with_reducible repeat' (apply Keeps.lit; first | exact Keeps.refl _ | assumption)

theorem execComposerEnqueue_keeps {s₀ : State} (s : State) (h₀ : Keeps s₀ s) : Answers s₀ (execComposerEnqueue s) := by
  unfold execComposerEnqueue
  with_reducible repeat' first
    | assumption
    | apply Answers.inFull
    | apply unwait_keeps
    | apply qLand_keeps
    | split

theorem execEgressSnapshot_keeps {s₀ : State} (who : Req) (clr : Bool) (s : State) (h₀ : Keeps s₀ s) :
    Answers s₀ (execEgressSnapshot who clr s) := by
  unfold execEgressSnapshot
  with_reducible repeat' first
    | exact Keeps.refl _
    | assumption
    | (intro _; try dsimp only)
    | apply Answers.next
    | apply snapshot_keeps
    | apply serve_keeps
    | apply raise_keeps

theorem gooseRetransmit_keeps {s₀ : State} (p : Nat) (s : State) (h₀ : Keeps s₀ s) : Keeps s₀ (gooseRetransmit p s) := by
  unfold gooseRetransmit
  with_reducible repeat' first
    | assumption
    | apply Keeps.ite
    | apply setPub_keeps
    | apply pubTransmit_keeps
    | split

theorem execGooseRetransmit_keeps {s₀ : State} (p : Fin 32) (s : State) (h₀ : Keeps s₀ s) :
    Answers s₀ (execGooseRetransmit p s) := by
  unfold execGooseRetransmit
  with_reducible repeat' first
    | assumption
    | apply Answers.inFull
    | apply gooseRetransmit_keeps

theorem outSwitch_keeps {s₀ : State} (k : Nat) (on : Bool) (s : State) (h₀ : Keeps s₀ s) : Keeps s₀ (outSwitch k on s) := by
  unfold outSwitch
  with_reducible repeat' first
    | assumption
    | apply setOut_keeps

theorem osCommandFrame_keeps {s₀ : State} (id : Nat) (cmd : OsCmd) (ip : Nat) (udp : Nat) (s : State) (h₀ : Keeps s₀ s) :
    Keeps s₀ (osCommandFrame id cmd ip udp s) := by
  unfold osCommandFrame
  with_reducible repeat' first
    | assumption
    | apply emit_keeps
    | apply outSwitch_keeps
    | split

theorem execOsCommandFrame_keeps {s₀ : State} (id : BitVec 16) (cmd : OsCmd) (ip : Nat) (udp : BitVec 16) (s : State)
    (h₀ : Keeps s₀ s) :
    Answers s₀ (execOsCommandFrame id cmd ip udp s) := by
  unfold execOsCommandFrame
  with_reducible repeat' first
    | assumption
    | apply Answers.inFull
    | apply osCommandFrame_keeps

theorem osItemAbandon_keeps {s₀ : State} (s : State) (h₀ : Keeps s₀ s) : Keeps s₀ (osItemAbandon s) := by
  unfold osItemAbandon
  with_reducible repeat' first
    | assumption
    | apply egrCount_keeps
    | apply unwait_keeps
    | apply raise_keeps
    | apply setOut_keeps
    | split

theorem execOsItemAbandon_keeps {s₀ : State} (s : State) (h₀ : Keeps s₀ s) : Answers s₀ (execOsItemAbandon s) := by
  unfold execOsItemAbandon
  with_reducible repeat' first
    | assumption
    | apply Answers.inFull
    | apply osItemAbandon_keeps

theorem execOsLoad_keeps {s₀ : State} (who : Req) (s : State) (h₀ : Keeps s₀ s) : Answers s₀ (execOsLoad who s) := by
  unfold execOsLoad
  with_reducible repeat' first
    | exact Keeps.refl _
    | assumption
    | (intro _; try dsimp only)
    | apply Answers.next
    | apply setStat_keeps
    | apply wrWords_keeps
    | apply serve_keeps

theorem osSwitch_keeps {s₀ : State} (on : Bool) (s : State) (h₀ : Keeps s₀ s) : Keeps s₀ (osSwitch on s) := by
  unfold osSwitch
  with_reducible repeat' first
    | assumption
    | apply Keeps.ite
    | apply setStat_keeps
    | apply outSwitch_keeps

theorem execOsOff_keeps {s₀ : State} (who : Req) (s : State) (h₀ : Keeps s₀ s) : Answers s₀ (execOsOff who s) := by
  unfold execOsOff
  with_reducible repeat' first
    | exact Keeps.refl _
    | assumption
    | (intro _; try dsimp only)
    | apply Answers.next
    | apply serve_keeps
    | apply osSwitch_keeps

theorem execOsOn_keeps {s₀ : State} (who : Req) (s : State) (h₀ : Keeps s₀ s) : Answers s₀ (execOsOn who s) := by
  unfold execOsOn
  with_reducible repeat' first
    | exact Keeps.refl _
    | assumption
    | (intro _; try dsimp only)
    | apply Answers.next
    | apply serve_keeps
    | apply osSwitch_keeps

theorem execPubLoad_keeps {s₀ : State} (who : Req) (p : Fin 32) (s : State) (h₀ : Keeps s₀ s) :
    Answers s₀ (execPubLoad who p s) := by
  unfold execPubLoad
  with_reducible repeat' first
    | exact Keeps.refl _
    | assumption
    | (intro _; try dsimp only)
    | apply Answers.next
    | apply wrWords_keeps
    | apply wr_keeps
    | apply serve_keeps

theorem qCommit_keeps {s₀ : State} (c : Instr) (who : Req) (q : Nat) (prio : Nat) (len : Nat) (s : State) (h₀ : Keeps s₀ s) :
    Keeps s₀ (qCommit c who q prio len s) := by
  unfold qCommit
  with_reducible repeat' first
    | assumption
    | apply Keeps.ite
    | apply setQueue_keeps
    | apply commitNow_keeps
    | apply holdWrite_keeps

theorem execQCommit_keeps {s₀ : State} (who : Req) (q : Fin 32) (prio : Fin 8) (len : BitVec 14) (s : State) (h₀ : Keeps s₀ s) :
    Answers s₀ (execQCommit who q prio len s) := by
  unfold execQCommit
  with_reducible repeat' first
    | exact Keeps.refl _
    | assumption
    | (intro _; try dsimp only)
    | apply Answers.next
    | apply serve_keeps
    | apply qCommit_keeps

theorem qCommitLand_keeps {s₀ : State} (q : Nat) (s : State) (h₀ : Keeps s₀ s) : Keeps s₀ (qCommitLand q s) := by
  unfold qCommitLand
  with_reducible repeat' first
    | (apply Keeps.lit; first | exact Keeps.refl _ | assumption | intro _ | apply Keeps.ite | apply setQueue_keeps | apply commitNow_keeps | apply Keeps.foldl | apply Keeps.forUpTo)
    | split

theorem execQCommitLand_keeps {s₀ : State} (q : Fin 32) (s : State) (h₀ : Keeps s₀ s) : Answers s₀ (execQCommitLand q s) := by
  unfold execQCommitLand
  with_reducible repeat' first
    | assumption
    | apply Answers.inFull
    | apply qCommitLand_keeps

theorem setStaged_keeps {s₀ : State} (q : Nat) (b : Nat) (ws : List Word) (s : State) (h₀ : Keeps s₀ s) :
    Keeps s₀ (setStaged q b ws s) := by
  unfold setStaged
  with_reducible repeat' first
    | assumption
    | apply setQueue_keeps

theorem execQDiscard_keeps {s₀ : State} (who : Req) (q : Fin 32) (s : State) (h₀ : Keeps s₀ s) :
    Answers s₀ (execQDiscard who q s) := by
  unfold execQDiscard
  with_reducible repeat' first
    | exact Keeps.refl _
    | assumption
    | (intro _; try dsimp only)
    | apply Keeps.ite
    | apply Answers.next
    | apply setStaged_keeps
    | apply serve_keeps

theorem qFlush_keeps {s₀ : State} (q : Nat) (s : State) (h₀ : Keeps s₀ s) : Keeps s₀ (qFlush q s) := by
  unfold qFlush
  with_reducible repeat' first
    | assumption
    | apply setQueue_keeps

theorem execQFlush_keeps {s₀ : State} (who : Req) (q : Fin 32) (s : State) (h₀ : Keeps s₀ s) :
    Answers s₀ (execQFlush who q s) := by
  unfold execQFlush
  with_reducible repeat' first
    | exact Keeps.refl _
    | assumption
    | (intro _; try dsimp only)
    | apply Answers.next
    | apply qFlush_keeps
    | apply serve_keeps

theorem qRemove_keeps {s₀ : State} (q : Nat) (ident : Nat) (s : State) (h₀ : Keeps s₀ s) : Keeps s₀ (qRemove q ident s) := by
  unfold qRemove
  with_reducible repeat' first
    | assumption
    | apply setQueue_keeps

theorem qPop_keeps {s₀ : State} (q : Nat) (s : State) (h₀ : Keeps s₀ s) : Keeps s₀ (qPop q s) := by
  unfold qPop
  with_reducible repeat' first
    | assumption
    | apply setQueue_keeps
    | apply answer_keeps
    | apply qRemove_keeps
    | split

theorem execQPop_keeps {s₀ : State} (q : Fin 32) (s : State) (h₀ : Keeps s₀ s) : Answers s₀ (execQPop q s) := by
  unfold execQPop
  with_reducible repeat' first
    | exact Keeps.refl _
    | assumption
    | (intro _; try dsimp only)
    | apply Answers.next
    | apply qPop_keeps
    | apply serve_keeps

theorem qPush_keeps {s₀ : State} (who : Req) (q : Nat) (v : Word) (s : State) (h₀ : Keeps s₀ s) : Keeps s₀ (qPush who q v s) := by
  unfold qPush
  with_reducible repeat' first
    | assumption
    | apply Keeps.ite
    | apply setQueue_keeps
    | apply setStaged_keeps

theorem execQPush_keeps {s₀ : State} (who : Req) (q : Fin 32) (v : Word) (s : State) (h₀ : Keeps s₀ s) :
    Answers s₀ (execQPush who q v s) := by
  unfold execQPush
  with_reducible repeat' first
    | exact Keeps.refl _
    | assumption
    | (intro _; try dsimp only)
    | apply Answers.next
    | apply qPush_keeps
    | apply serve_keeps

theorem execRuleLoad_keeps {s₀ : State} (who : Req) (s : State) (h₀ : Keeps s₀ s) : Answers s₀ (execRuleLoad who s) := by
  unfold execRuleLoad
  with_reducible repeat' first
    | exact Keeps.refl _
    | assumption
    | (intro _; try dsimp only)
    | apply Answers.next
    | apply setStat_keeps
    | apply wrWords_keeps
    | apply serve_keeps

theorem ruleStore_keeps {s₀ : State} (s : State) (h₀ : Keeps s₀ s) : Keeps s₀ (ruleStore s) := by
  unfold ruleStore
  with_reducible repeat' first
    | assumption
    | apply Keeps.ite
    | apply setStat_keeps
    | apply logEvent_keeps
    | apply setRule_keeps

theorem execRuleStore_keeps {s₀ : State} (who : Req) (s : State) (h₀ : Keeps s₀ s) : Answers s₀ (execRuleStore who s) := by
  unfold execRuleStore
  with_reducible repeat' first
    | exact Keeps.refl _
    | assumption
    | (intro _; try dsimp only)
    | apply Answers.next
    | apply ruleStore_keeps
    | apply serve_keeps

theorem sendItem_keeps {s₀ : State} (p : Nat) (i : QItem) (s : State) (h₀ : Keeps s₀ s) : Keeps s₀ (sendItem p i s) := by
  unfold sendItem
  with_reducible repeat' first
    | assumption
    | apply Keeps.ite
    | apply egrCount_keeps
    | apply leaveTxLpi_keeps
    | apply raise_keeps
    | apply setPort_keeps

theorem txStart_keeps {s₀ : State} (p : Nat) (c : Nat) (s : State) (h₀ : Keeps s₀ s) : Keeps s₀ (txStart p c s) := by
  unfold txStart
  try dsimp only
  with_reducible repeat' first
    | (apply Keeps.lit; first | exact Keeps.refl _ | assumption | intro _ | apply Keeps.ite | apply sendItem_keeps | apply qRemove_keeps | apply Keeps.foldl | apply Keeps.forUpTo)
    | split

theorem execTxStart_keeps {s₀ : State} (p : Fin 64) (c : Fin 8) (s : State) (h₀ : Keeps s₀ s) :
    Answers s₀ (execTxStart p c s) := by
  unfold execTxStart
  with_reducible repeat' first
    | assumption
    | apply Keeps.ite
    | apply Answers.inFull
    | apply txStart_keeps

theorem ahSave_keeps {s₀ : State} (s : State) (h₀ : Keeps s₀ s) : Keeps s₀ (ahSave s) := by
  unfold ahSave
  with_reducible repeat' first
    | assumption
    | apply setEnergy_keeps

theorem ahPeriod_keeps {s₀ : State} (s : State) (h₀ : Keeps s₀ s) : Keeps s₀ (ahPeriod s) := by
  unfold ahPeriod
  with_reducible repeat' first
    | assumption
    | apply Keeps.ite
    | apply ahSave_keeps
    | apply reefSettle_keeps

theorem snapPoint_keeps {s₀ : State} (s : State) (k : Nat) (h₀ : Keeps s₀ s) : Keeps s₀ (snapPoint s k) := by
  unfold snapPoint
  with_reducible repeat' first
    | exact Keeps.refl _
    | assumption
    | (intro _; try dsimp only)
    | apply wr64_keeps
    | apply Keeps.forUpTo

theorem energySnapshot_keeps {s₀ : State} (s : State) (h₀ : Keeps s₀ s) : Keeps s₀ (energySnapshot s) := by
  unfold energySnapshot
  with_reducible repeat' first
    | exact Keeps.refl _
    | assumption
    | (intro _; try dsimp only)
    | apply snapPoint_keeps
    | apply bumpF_keeps
    | apply wr_keeps
    | apply raise_keeps
    | apply Keeps.forUpTo

theorem execAhSave_keeps {s₀ : State} (s : State) (h₀ : Keeps s₀ s) : Answers s₀ (execAhSave s) := by
  unfold execAhSave
  with_reducible repeat' first
    | assumption
    | apply Answers.powered
    | apply ahPeriod_keeps

theorem periodicSave_keeps {s₀ : State} (ok : Bool) (s : State) (h₀ : Keeps s₀ s) : Keeps s₀ (periodicSave ok s) := by
  unfold periodicSave
  with_reducible repeat' first
    | assumption
    | apply Keeps.ite
    | apply setEnergy_keeps
    | apply energySave_keeps
    | apply closeOverdue_keeps

theorem execEnergySave_keeps {s₀ : State} (ok : Bool) (s : State) (h₀ : Keeps s₀ s) : Answers s₀ (execEnergySave ok s) := by
  unfold execEnergySave
  with_reducible repeat' first
    | assumption
    | apply Keeps.ite
    | apply Answers.powered
    | apply periodicSave_keeps

theorem execEnergySaveNow_keeps {s₀ : State} (who : Req) (s : State) (h₀ : Keeps s₀ s) :
    Answers s₀ (execEnergySaveNow who s) := by
  unfold execEnergySaveNow
  with_reducible repeat' first
    | exact Keeps.refl _
    | assumption
    | (intro _; try dsimp only)
    | apply Answers.next
    | apply wrF_keeps
    | apply serve_keeps

theorem execEnergySnapshot_keeps {s₀ : State} (who : Req) (s : State) (h₀ : Keeps s₀ s) :
    Answers s₀ (execEnergySnapshot who s) := by
  unfold execEnergySnapshot
  with_reducible repeat' first
    | exact Keeps.refl _
    | assumption
    | (intro _; try dsimp only)
    | apply Answers.next
    | apply energySnapshot_keeps
    | apply serve_keeps

theorem execIntervalEnd_keeps {s₀ : State} (s : State) (h₀ : Keeps s₀ s) : Answers s₀ (execIntervalEnd s) := by
  unfold execIntervalEnd
  with_reducible repeat' first
    | exact Keeps.refl _
    | assumption
    | (intro _; try dsimp only)
    | apply Keeps.ite
    | apply Answers.powered
    | apply closeOverdue_keeps
    | apply endInterval_keeps
    | apply Keeps.foldl

theorem supplyCheck_keeps {s₀ : State} (s : State) (h₀ : Keeps s₀ s) : Keeps s₀ (supplyCheck s) := by
  unfold supplyCheck
  with_reducible repeat' first
    | exact Keeps.refl _
    | assumption
    | (intro _; try dsimp only)
    | apply checkPoint_keeps
    | apply setEnergy_keeps
    | apply Keeps.foldl

theorem execSupplyCheck_keeps {s₀ : State} (s : State) (h₀ : Keeps s₀ s) : Answers s₀ (execSupplyCheck s) := by
  unfold execSupplyCheck
  with_reducible repeat' first
    | assumption
    | apply Keeps.ite
    | apply Answers.powered
    | apply supplyCheck_keeps

theorem clearOnRead_keeps {s₀ : State} (who : Req) (ch : Option (Fin 24)) (s : State) (h₀ : Keeps s₀ s) :
    Keeps s₀ (clearOnRead who ch s) := by
  unfold clearOnRead
  with_reducible repeat' first
    | assumption
    | apply wrF_keeps
    | apply answer_keeps

theorem eoi_keeps {s₀ : State} (v : Nat) (s : State) (h₀ : Keeps s₀ s) : Keeps s₀ (eoi v s) := by
  unfold eoi
  with_reducible repeat' first
    | assumption
    | apply Keeps.ite
    | apply sendVector_keeps

theorem execClearOnRead_keeps {s₀ : State} (who : Req) (ch : Option (Fin 24)) (s : State) (h₀ : Keeps s₀ s) :
    Answers s₀ (execClearOnRead who ch s) := by
  unfold execClearOnRead
  with_reducible repeat' first
    | exact Keeps.refl _
    | assumption
    | (intro _; try dsimp only)
    | apply Answers.next
    | apply serve_keeps
    | apply clearOnRead_keeps

theorem execD3hotEntry_keeps {s₀ : State} (s : State) (h₀ : Keeps s₀ s) : Answers s₀ (execD3hotEntry s) := by
  unfold execD3hotEntry
  with_reducible repeat' first
    | assumption
    | apply Answers.inFull
    | apply setHost_keeps

theorem execEoi_keeps {s₀ : State} (vector : Fin 16) (s : State) (h₀ : Keeps s₀ s) : Answers s₀ (execEoi vector s) := by
  unfold execEoi
  with_reducible repeat' first
    | exact Keeps.refl _
    | assumption
    | (intro _; try dsimp only)
    | apply Answers.next
    | apply hostServe_keeps
    | apply eoi_keeps

theorem execHeldWriteDrop_keeps {s₀ : State} (s : State) (h₀ : Keeps s₀ s) : Answers s₀ (execHeldWriteDrop s) := by
  unfold execHeldWriteDrop
  with_reducible repeat' first
    | assumption
    | apply Answers.inFull
    | apply heldDrop_keeps

theorem execLinkReset_keeps {s₀ : State} (kind : LinkReset) (s : State) (h₀ : Keeps s₀ s) :
    Answers s₀ (execLinkReset kind s) := by
  unfold execLinkReset
  with_reducible repeat' first
    | assumption
    | apply Answers.inFull
    | apply hostLinkReset_keeps

theorem lowWordRead_keeps {s₀ : State} (shadow : Option (Nat × Word)) (a : Nat) (s : State) (h₀ : Keeps s₀ s) :
    Keeps s₀ (lowWordRead shadow a s) := by
  unfold lowWordRead
  with_reducible repeat' first
    | assumption
    | apply Keeps.ite
    | apply answer_keeps
    | apply setHost_keeps

theorem execLowWordRead_keeps {s₀ : State} (ofs : BitVec 20) (s : State) (h₀ : Keeps s₀ s) :
    Answers s₀ (execLowWordRead ofs s) := by
  unfold execLowWordRead
  with_reducible repeat' first
    | exact Keeps.refl _
    | assumption
    | (intro _; try dsimp only)
    | apply Keeps.ite
    | apply Answers.next
    | apply hostServe_keeps
    | apply lowWordRead_keeps
    | apply answer_keeps

theorem unmasked_keeps {s₀ : State} (v : Nat) (s : State) (h₀ : Keeps s₀ s) : Keeps s₀ (unmasked v s) := by
  unfold unmasked
  with_reducible repeat' first
    | assumption
    | apply Keeps.ite
    | apply setHost_keeps
    | apply eoi_keeps

theorem msixWrite_keeps {s₀ : State} (v : Nat) (w : Nat) (x : Word) (s : State) (h₀ : Keeps s₀ s) :
    Keeps s₀ (msixWrite v w x s) := by
  unfold msixWrite
  with_reducible repeat' first
    | assumption
    | apply wr_keeps
    | apply unmasked_keeps

theorem execMsixTableWrite_keeps {s₀ : State} (vector : Fin 16) (w : Fin 4) (v : Word) (s : State) (h₀ : Keeps s₀ s) :
    Answers s₀ (execMsixTableWrite vector w v s) := by
  unfold execMsixTableWrite
  with_reducible repeat' first
    | exact Keeps.refl _
    | assumption
    | (intro _; try dsimp only)
    | apply Answers.next
    | apply hostServe_keeps
    | apply msixWrite_keeps

theorem execRegisterWrite_keeps {s₀ : State} (who : Req) (ofs : BitVec 17) (be : BitVec 8) (v : BitVec 64) (s : State)
    (h₀ : Keeps s₀ s) :
    Answers s₀ (execRegisterWrite who ofs be v s) := by
  unfold execRegisterWrite
  with_reducible repeat' first
    | exact Keeps.refl _
    | assumption
    | (intro _; try dsimp only)
    | apply Answers.next
    | apply serve_keeps
    | apply writeBytes_keeps

theorem refuseAccess_keeps {s₀ : State} (a : Nat) (write : Bool) (s : State) (h₀ : Keeps s₀ s) :
    Keeps s₀ (refuseAccess a write s) := by
  unfold refuseAccess
  with_reducible repeat' first
    | assumption
    | apply Keeps.ite
    | apply emit_keeps
    | apply wr_keeps
    | apply raise_keeps

theorem execUnsupportedRequest_keeps {s₀ : State} (ofs : BitVec 20) (len : Nat) (write : Bool) (s : State) (h₀ : Keeps s₀ s) :
    Answers s₀ (execUnsupportedRequest ofs len write s) := by
  unfold execUnsupportedRequest
  with_reducible repeat' first
    | exact Keeps.refl _
    | assumption
    | (intro _; try dsimp only)
    | apply Keeps.ite
    | apply Answers.next
    | apply hostServe_keeps
    | apply refuseAccess_keeps

theorem execWinAbort_keeps {s₀ : State} (w : Win) (s : State) (h₀ : Keeps s₀ s) : Answers s₀ (execWinAbort w s) := by
  unfold execWinAbort
  with_reducible repeat' first
    | exact Keeps.refl _
    | assumption
    | (intro _; try dsimp only)
    | apply Answers.next
    | apply hostServe_keeps
    | apply winAbort_keeps

theorem execWinOpen_keeps {s₀ : State} (w : Win) (s : State) (h₀ : Keeps s₀ s) : Answers s₀ (execWinOpen w s) := by
  unfold execWinOpen
  with_reducible repeat' first
    | exact Keeps.refl _
    | assumption
    | (intro _; try dsimp only)
    | apply Keeps.ite
    | apply Answers.next
    | apply hostServe_keeps
    | apply mirrorOpen_keeps

theorem execWindowRead_keeps {s₀ : State} (w : Win) (r : WinRead) (poison : List Bool) (s : State) (h₀ : Keeps s₀ s) :
    Answers s₀ (execWindowRead w r poison s) := by
  unfold execWindowRead
  with_reducible repeat' first
    | exact Keeps.refl _
    | assumption
    | (intro _; try dsimp only)
    | apply Answers.next
    | apply hostServe_keeps
    | apply windowRead_keeps

theorem countCode_keeps {s₀ : State} (code : Nat) (s : State) (h₀ : Keeps s₀ s) : Keeps s₀ (countCode code s) := by
  unfold countCode
  with_reducible repeat' first
    | assumption
    | apply count_keeps

theorem acceptValue_keeps {s₀ : State} (n : Nat) (c : StreamCfg) (i : IngItem) (k : Nat) (pipe : Nat) (v : Slot) (s : State)
    (h₀ : Keeps s₀ s) :
    Keeps s₀ (acceptValue n c i k pipe v s) := by
  unfold acceptValue
  with_reducible repeat' first
    | assumption
    | apply Keeps.ite
    | apply setStream_keeps
    | apply countCode_keeps
    | apply handOver_keeps
    | apply filtHand_keeps

theorem streamTo_keeps {s₀ : State} (n : Nat) (st : StreamState) (s : State) (h₀ : Keeps s₀ s) : Keeps s₀ (streamTo n st s) := by
  unfold streamTo
  with_reducible repeat' first
    | assumption
    | apply Keeps.ite
    | apply setStream_keeps
    | apply raise_keeps

theorem setFrag_keeps {s₀ : State} (l : List (BitVec 8)) (n : Nat) (s : State) (h₀ : Keeps s₀ s) : Keeps s₀ (setFrag l n s) := by
  unfold setFrag
  with_reducible repeat' first
    | assumption
    | apply setStream_keeps

theorem cfgCompare_keeps {s₀ : State} (g : GroupCfg) (f : C37Frame) (q : Nat × StreamCfg) (s : State) (h₀ : Keeps s₀ s) :
    Keeps s₀ (cfgCompare g f q s) := by
  unfold cfgCompare
  with_reducible repeat' first
    | assumption
    | apply streamTo_keeps
    | apply setFrag_keeps

theorem execClearAll_keeps {s₀ : State} (who : Req) (s : State) (h₀ : Keeps s₀ s) : Answers s₀ (execClearAll who s) := by
  unfold execClearAll
  with_reducible repeat' first
    | assumption
    | (intro _; try dsimp only)
    | apply Answers.next
    | apply serve_keeps
    | (apply Keeps.lit; first | exact Keeps.refl _)

theorem rejectFrame_keeps {s₀ : State} (code : Nat) (s : State) (h₀ : Keeps s₀ s) : Keeps s₀ (rejectFrame code s) := by
  unfold rejectFrame
  with_reducible repeat' first
    | assumption
    | apply Keeps.ite
    | apply countCode_keeps
    | apply raise_keeps

theorem setSv_keeps {s₀ : State} (n : Nat) (x : SvSt) (s : State) (h₀ : Keeps s₀ s) : Keeps s₀ (setSv n x s) := by
  unfold setSv
  with_reducible repeat' (apply Keeps.lit; first | exact Keeps.refl _ | assumption)

theorem svTo_keeps {s₀ : State} (n : Nat) (st : StreamState) (s : State) (h₀ : Keeps s₀ s) : Keeps s₀ (svTo n st s) := by
  unfold svTo
  with_reducible repeat' first
    | assumption
    | apply Keeps.ite
    | apply setSv_keeps
    | apply raise_keeps

theorem rejectSv_keeps {s₀ : State} (n : Nat) (code : Nat) (i : IngItem) (pipe : Nat) (s : State) (h₀ : Keeps s₀ s) :
    Keeps s₀ (rejectSv n code i pipe s) := by
  unfold rejectSv
  with_reducible repeat' first
    | assumption
    | apply rejectFrame_keeps
    | apply setSv_keeps

theorem svCapture_keeps {s₀ : State} (v : SvSample) (s : State) (h₀ : Keeps s₀ s) : Keeps s₀ (svCapture v s) := by
  unfold svCapture
  with_reducible repeat' (apply Keeps.lit; first | exact Keeps.refl _ | assumption)

theorem svDeliver_keeps {s₀ : State} (n : Nat) (c : SvSub) (i : IngItem) (a : SvAsdu) (s : State) (h₀ : Keeps s₀ s) :
    Keeps s₀ (svDeliver n c i a s) := by
  unfold svDeliver
  with_reducible repeat' first
    | assumption
    | apply Keeps.ite
    | apply setSv_keeps
    | apply svCapture_keeps
    | apply svArrive_keeps

theorem unknownSource_keeps {s₀ : State} (i : IngItem) (id : Nat) (addr : Nat) (sv : Bool) (s : State) (h₀ : Keeps s₀ s) :
    Keeps s₀ (unknownSource i id addr sv s) := by
  unfold unknownSource
  with_reducible repeat' first
    | assumption
    | apply Keeps.ite
    | apply countCode_keeps
    | apply wr_keeps
    | apply raise_keeps

theorem parseSub_keeps {s₀ : State} (i : IngItem) (pipe : Nat) (addr : Nat) (f : SvFrame) (spdu : Option Nat) (s0 : State)
    (h₀ : Keeps s₀ s0) :
    Keeps s₀ (parseSub i pipe addr f spdu s0) := by
  unfold parseSub
  with_reducible repeat' first
    | exact Keeps.refl _
    | assumption
    | (intro _; try dsimp only)
    | apply Keeps.ite
    | apply svTo_keeps
    | apply rejectSv_keeps
    | apply countCode_keeps
    | apply setSv_keeps
    | apply svDeliver_keeps
    | apply unknownSource_keeps
    | apply Keeps.foldl
    | split

theorem parseRsv_keeps {s₀ : State} (i : IngItem) (pipe : Nat) (ip : Nat) (r : RsvSession) (f : SvFrame) (s : State)
    (h₀ : Keeps s₀ s) :
    Keeps s₀ (parseRsv i pipe ip r f s) := by
  unfold parseRsv
  with_reducible repeat' first
    | assumption
    | apply Keeps.ite
    | apply rejectFrame_keeps
    | apply parseSub_keeps

theorem parseSv_keeps {s₀ : State} (i : IngItem) (pipe : Nat) (f : SvFrame) (s : State) (h₀ : Keeps s₀ s) :
    Keeps s₀ (parseSv i pipe f s) := by
  unfold parseSv
  with_reducible repeat' first
    | assumption
    | apply Keeps.ite
    | apply rejectFrame_keeps
    | apply parseSub_keeps

theorem forwardRing_keeps {s₀ : State} (i : IngItem) (s : State) (h₀ : Keeps s₀ s) : Keeps s₀ (forwardRing i s) := by
  unfold forwardRing
  with_reducible repeat' first
    | assumption
    | apply countCode_keeps
    | apply toRing_keeps

theorem parseCfg_keeps {s₀ : State} (i : IngItem) (ip : Nat) (f : C37Frame) (s : State) (h₀ : Keeps s₀ s) :
    Keeps s₀ (parseCfg i ip f s) := by
  unfold parseCfg
  with_reducible repeat' first
    | exact Keeps.refl _
    | assumption
    | (intro _; try dsimp only)
    | apply Keeps.ite
    | apply rejectFrame_keeps
    | apply forwardRing_keeps
    | apply cfgCompare_keeps
    | apply unknownSource_keeps
    | apply setFrag_keeps
    | apply Keeps.foldl
    | split

theorem rejectStream_keeps {s₀ : State} (n : Nat) (code : Nat) (i : IngItem) (k : Nat) (s : State) (h₀ : Keeps s₀ s) :
    Keeps s₀ (rejectStream n code i k s) := by
  unfold rejectStream
  with_reducible repeat' first
    | assumption
    | apply setStream_keeps
    | apply rejectFrame_keeps

theorem parseBlock_keeps {s₀ : State} (i : IngItem) (pipe : Nat) (g : GroupCfg) (f : C37Frame) (lenOk : Bool) (n : Nat) (c : StreamCfg) (s : State)
    (h₀ : Keeps s₀ s) :
    Keeps s₀ (parseBlock i pipe g f lenOk n c s) := by
  unfold parseBlock
  with_reducible repeat' first
    | assumption
    | apply Keeps.ite
    | apply acceptValue_keeps
    | apply streamTo_keeps
    | apply rejectStream_keeps
    | apply countCode_keeps
    | apply measureStream_keeps
    | apply raise_keeps
    | split

theorem parseData_keeps {s₀ : State} (i : IngItem) (pipe : Nat) (ip : Nat) (f : C37Frame) (s : State) (h₀ : Keeps s₀ s) :
    Keeps s₀ (parseData i pipe ip f s) := by
  unfold parseData
  with_reducible repeat' first
    | exact Keeps.refl _
    | assumption
    | (intro _; try dsimp only)
    | apply parseBlock_keeps
    | apply unknownSource_keeps
    | apply Keeps.foldl
    | split

theorem parseC37_keeps {s₀ : State} (i : IngItem) (pipe : Nat) (ip : Nat) (f : C37Frame) (s : State) (h₀ : Keeps s₀ s) :
    Keeps s₀ (parseC37 i pipe ip f s) := by
  unfold parseC37
  with_reducible repeat' first
    | assumption
    | apply parseCfg_keeps
    | apply rejectFrame_keeps
    | apply forwardRing_keeps
    | apply parseData_keeps
    | split

theorem parseItem_keeps {s₀ : State} (pipe : Nat) (i : IngItem) (s : State) (h₀ : Keeps s₀ s) :
    Keeps s₀ (parseItem pipe i s) := by
  unfold parseItem
  with_reducible repeat' first
    | assumption
    | apply parseRsv_keeps
    | apply parseSv_keeps
    | apply parseC37_keeps
    | split

theorem ingestParse_keeps {s₀ : State} (k : Nat) (s : State) (h₀ : Keeps s₀ s) : Keeps s₀ (ingestParse k s) := by
  unfold ingestParse
  with_reducible repeat' first
    | assumption
    | apply parseItem_keeps
    | apply setFifo_keeps
    | apply refillFifo_keeps
    | apply count_keeps
    | split

theorem execIngestParse_keeps {s₀ : State} (k : Fin 4) (s : State) (h₀ : Keeps s₀ s) : Answers s₀ (execIngestParse k s) := by
  unfold execIngestParse
  with_reducible repeat' first
    | assumption
    | apply Keeps.ite
    | apply Answers.inFull
    | apply ingestParse_keeps

theorem ingestSnapshot_keeps {s₀ : State} (clr : Bool) (s : State) (h₀ : Keeps s₀ s) : Keeps s₀ (ingestSnapshot clr s) :=
  raise_keeps _ _ _ (Keeps.forUpTo (snapshot_keeps _ _ _ _ _ h₀) fun _ u => snapOne_keeps _ _ u (Keeps.refl u))

theorem execIngestSnapshot_keeps {s₀ : State} (who : Req) (clr : Bool) (s : State) (h₀ : Keeps s₀ s) :
    Answers s₀ (execIngestSnapshot who clr s) := by
  unfold execIngestSnapshot
  with_reducible repeat' first
    | exact Keeps.refl _
    | assumption
    | (intro _; try dsimp only)
    | apply Answers.next
    | apply ingestSnapshot_keeps
    | apply serve_keeps

theorem latAged_keeps {s₀ : State} (s : State) (h₀ : Keeps s₀ s) : Keeps s₀ (latAged s) := by
  unfold latAged
  with_reducible repeat' first
    | apply raise_keeps
    | (apply Keeps.lit; first | exact Keeps.refl _ | assumption)

theorem execLatAged_keeps {s₀ : State} (s : State) (h₀ : Keeps s₀ s) : Answers s₀ (execLatAged s) := by
  unfold execLatAged
  with_reducible repeat' first
    | assumption
    | apply Keeps.ite
    | apply Answers.inFull
    | apply latAged_keeps

theorem execLatClear_keeps {s₀ : State} (who : Req) (s : State) (h₀ : Keeps s₀ s) : Answers s₀ (execLatClear who s) := by
  unfold execLatClear
  with_reducible repeat' first
    | exact Keeps.refl _
    | assumption
    | (intro _; try dsimp only)
    | apply Answers.next
    | apply setStream_keeps
    | apply serve_keeps

theorem sendSource_keeps {s₀ : State} (n : Nat) (cmd : SourceCmd) (q : Nat) (prio : Nat) (s : State) (h₀ : Keeps s₀ s) :
    Keeps s₀ (sendSource n cmd q prio s) := by
  unfold sendSource
  with_reducible repeat' first
    | assumption
    | apply Keeps.ite
    | apply setStream_keeps
    | apply nextItem_keeps
    | apply qLand_keeps

theorem execSourceCommandSend_keeps {s₀ : State} (n : BitVec 14) (cmd : SourceCmd) (q : Fin 32) (prio : Fin 8) (s : State)
    (h₀ : Keeps s₀ s) :
    Answers s₀ (execSourceCommandSend n cmd q prio s) := by
  unfold execSourceCommandSend
  with_reducible repeat' first
    | assumption
    | apply Answers.inFull
    | apply sendSource_keeps
    | split

theorem streamLoad_keeps {s₀ : State} (s : State) (h₀ : Keeps s₀ s) : Keeps s₀ (streamLoad s) := by
  unfold streamLoad
  with_reducible repeat' first
    | assumption
    | apply setStat_keeps
    | apply wrWords_keeps
    | split

theorem execStreamLoad_keeps {s₀ : State} (who : Req) (s : State) (h₀ : Keeps s₀ s) : Answers s₀ (execStreamLoad who s) := by
  unfold execStreamLoad
  with_reducible repeat' first
    | exact Keeps.refl _
    | assumption
    | (intro _; try dsimp only)
    | apply Answers.next
    | apply streamLoad_keeps
    | apply serve_keeps

end Sys2Proof.Machine
end

