-- ==== Sys2Proof/Laws/KeepsTill.lean ====
section
/-!
SUPPORT. What each operation keeps (Safety.Keeps): the Till, the Nest, the power and the Ledger.
-/

namespace Sys2Proof.Machine

open Sys2Proof

set_option Elab.async false
set_option linter.all false

set_option maxRecDepth 4000

theorem tillEnter_keeps {s₀ : State} (c : Instr) (who : Req) (code : Nat) (more : Bool) (cert : Bool) (ok : Bool) (s : State)
    (h₀ : Keeps s₀ s) :
    Keeps s₀ (tillEnter c who code more cert ok s) := by
  unfold tillEnter
  with_reducible repeat' first
    | apply Keeps.ite
    | apply tillStart_keeps
    | apply holdWrite_keeps
    | (apply Keeps.lit; first | exact Keeps.refl _ | assumption)

theorem tillCmd_keeps {s₀ : State} (c : Instr) (who : Req) (code : Nat) (more : Bool) (cert : Bool) (ok : Bool) (s : State)
    (h₀ : Keeps s₀ s) :
    Keeps s₀ (tillCmd c who code more cert ok s) := by
  unfold tillCmd
  with_reducible repeat' first
    | exact Keeps.refl _
    | assumption
    | (intro _; try dsimp only)
    | apply tillEnter_keeps
    | apply serve_keeps

theorem execAttest_keeps {s₀ : State} (who : Req) (s : State) (h₀ : Keeps s₀ s) : Answers s₀ (execAttest who s) := by
  unfold execAttest
  with_reducible repeat' first
    | assumption
    | apply Answers.next
    | apply tillCmd_keeps

theorem execAuth_keeps {s₀ : State} (who : Req) (ok : Bool) (s : State) (h₀ : Keeps s₀ s) : Answers s₀ (execAuth who ok s) := by
  unfold execAuth
  with_reducible repeat' first
    | assumption
    | apply Answers.next
    | apply tillCmd_keeps

theorem execAuthReq_keeps {s₀ : State} (who : Req) (s : State) (h₀ : Keeps s₀ s) : Answers s₀ (execAuthReq who s) := by
  unfold execAuthReq
  with_reducible repeat' first
    | assumption
    | apply Answers.next
    | apply tillCmd_keeps

theorem execAuthRequestExpiry_keeps {s₀ : State} (op : Fin 4) (s : State) (h₀ : Keeps s₀ s) :
    Answers s₀ (execAuthRequestExpiry op s) := by
  unfold execAuthRequestExpiry
  with_reducible repeat' first
    | assumption
    | apply Keeps.ite
    | apply Answers.powered
    | apply setAuth_keeps

theorem execCalEnrol_keeps {s₀ : State} (who : Req) (s : State) (h₀ : Keeps s₀ s) : Answers s₀ (execCalEnrol who s) := by
  unfold execCalEnrol
  with_reducible repeat' first
    | assumption
    | apply Answers.next
    | apply tillCmd_keeps

theorem execDecrypt_keeps {s₀ : State} (who : Req) (more : Bool) (tagOk : Bool) (s : State) (h₀ : Keeps s₀ s) :
    Answers s₀ (execDecrypt who more tagOk s) := by
  unfold execDecrypt
  with_reducible repeat' first
    | assumption
    | apply Answers.next
    | apply tillCmd_keeps

theorem execDerive_keeps {s₀ : State} (who : Req) (s : State) (h₀ : Keeps s₀ s) : Answers s₀ (execDerive who s) := by
  unfold execDerive
  with_reducible repeat' first
    | assumption
    | apply Answers.next
    | apply tillCmd_keeps

theorem execDestroy_keeps {s₀ : State} (who : Req) (s : State) (h₀ : Keeps s₀ s) : Answers s₀ (execDestroy who s) := by
  unfold execDestroy
  with_reducible repeat' first
    | assumption
    | apply Answers.next
    | apply tillCmd_keeps

theorem execEcdh_keeps {s₀ : State} (who : Req) (s : State) (h₀ : Keeps s₀ s) : Answers s₀ (execEcdh who s) := by
  unfold execEcdh
  with_reducible repeat' first
    | assumption
    | apply Answers.next
    | apply tillCmd_keeps

theorem execEncrypt_keeps {s₀ : State} (who : Req) (more : Bool) (s : State) (h₀ : Keeps s₀ s) :
    Answers s₀ (execEncrypt who more s) := by
  unfold execEncrypt
  with_reducible repeat' first
    | assumption
    | apply Answers.next
    | apply tillCmd_keeps

theorem execEnrol_keeps {s₀ : State} (who : Req) (cert : Bool) (certOk : Bool) (s : State) (h₀ : Keeps s₀ s) :
    Answers s₀ (execEnrol who cert certOk s) := by
  unfold execEnrol
  with_reducible repeat' first
    | assumption
    | apply Answers.next
    | apply tillCmd_keeps

theorem execGenerate_keeps {s₀ : State} (who : Req) (pairOk : Bool) (s : State) (h₀ : Keeps s₀ s) :
    Answers s₀ (execGenerate who pairOk s) := by
  unfold execGenerate
  with_reducible repeat' first
    | assumption
    | apply Answers.next
    | apply tillCmd_keeps

theorem gkExpiring_keeps {s₀ : State} (i : Nat) (s : State) (h₀ : Keeps s₀ s) : Keeps s₀ (gkExpiring i s) := by
  unfold gkExpiring
  with_reducible repeat' first
    | assumption
    | apply raise_keeps
    | split

theorem execGkExpiring_keeps {s₀ : State} (entry : Fin 256) (s : State) (h₀ : Keeps s₀ s) :
    Answers s₀ (execGkExpiring entry s) := by
  unfold execGkExpiring
  with_reducible repeat' first
    | assumption
    | apply Answers.powered
    | apply gkExpiring_keeps

theorem gkLoad_keeps {s₀ : State} (i : Nat) (s : State) (h₀ : Keeps s₀ s) : Keeps s₀ (gkLoad i s) := by
  unfold gkLoad
  with_reducible repeat' first
    | assumption
    | apply wrWords_keeps
    | apply wr_keeps

theorem execGkLoad_keeps {s₀ : State} (who : Req) (entry : BitVec 8) (s : State) (h₀ : Keeps s₀ s) :
    Answers s₀ (execGkLoad who entry s) := by
  unfold execGkLoad
  with_reducible repeat' first
    | exact Keeps.refl _
    | assumption
    | (intro _; try dsimp only)
    | apply Answers.next
    | apply serve_keeps
    | apply gkLoad_keeps

theorem execGkMap_keeps {s₀ : State} (who : Req) (s : State) (h₀ : Keeps s₀ s) : Answers s₀ (execGkMap who s) := by
  unfold execGkMap
  with_reducible repeat' first
    | assumption
    | apply Answers.next
    | apply tillCmd_keeps

theorem execGkUnmap_keeps {s₀ : State} (who : Req) (s : State) (h₀ : Keeps s₀ s) : Answers s₀ (execGkUnmap who s) := by
  unfold execGkUnmap
  with_reducible repeat' first
    | assumption
    | apply Answers.next
    | apply tillCmd_keeps

theorem execHash_keeps {s₀ : State} (who : Req) (more : Bool) (s : State) (h₀ : Keeps s₀ s) :
    Answers s₀ (execHash who more s) := by
  unfold execHash
  with_reducible repeat' first
    | assumption
    | apply Answers.next
    | apply tillCmd_keeps

theorem execHmac_keeps {s₀ : State} (who : Req) (more : Bool) (s : State) (h₀ : Keeps s₀ s) :
    Answers s₀ (execHmac who more s) := by
  unfold execHmac
  with_reducible repeat' first
    | assumption
    | apply Answers.next
    | apply tillCmd_keeps

theorem keyExpiry_keeps {s₀ : State} (n : Nat) (s : State) (h₀ : Keeps s₀ s) : Keeps s₀ (keyExpiry n s) := by
  unfold keyExpiry
  with_reducible repeat' first
    | assumption
    | apply Keeps.ite
    | apply setSlot_keeps

theorem execKeyExpiry_keeps {s₀ : State} (slot : Fin 1024) (s : State) (h₀ : Keeps s₀ s) : Answers s₀ (execKeyExpiry slot s) := by
  unfold execKeyExpiry
  with_reducible repeat' first
    | assumption
    | apply Answers.powered
    | apply keyExpiry_keeps

theorem execPubkey_keeps {s₀ : State} (who : Req) (s : State) (h₀ : Keeps s₀ s) : Answers s₀ (execPubkey who s) := by
  unfold execPubkey
  with_reducible repeat' first
    | assumption
    | apply Answers.next
    | apply tillCmd_keeps

theorem execPurge_keeps {s₀ : State} (who : Req) (s : State) (h₀ : Keeps s₀ s) : Answers s₀ (execPurge who s) := by
  unfold execPurge
  with_reducible repeat' first
    | assumption
    | apply Answers.next
    | apply tillCmd_keeps

theorem execRandom_keeps {s₀ : State} (who : Req) (s : State) (h₀ : Keeps s₀ s) : Answers s₀ (execRandom who s) := by
  unfold execRandom
  with_reducible repeat' first
    | assumption
    | apply Answers.next
    | apply tillCmd_keeps

theorem execSign_keeps {s₀ : State} (who : Req) (s : State) (h₀ : Keeps s₀ s) : Answers s₀ (execSign who s) := by
  unfold execSign
  with_reducible repeat' first
    | assumption
    | apply Answers.next
    | apply tillCmd_keeps

theorem slotLoad_keeps {s₀ : State} (n : Nat) (s : State) (h₀ : Keeps s₀ s) : Keeps s₀ (slotLoad n s) := by
  unfold slotLoad
  with_reducible repeat' first
    | assumption
    | apply wrWords_keeps
    | apply wr_keeps

theorem execSlotLoad_keeps {s₀ : State} (who : Req) (slot : BitVec 10) (s : State) (h₀ : Keeps s₀ s) :
    Answers s₀ (execSlotLoad who slot s) := by
  unfold execSlotLoad
  with_reducible repeat' first
    | exact Keeps.refl _
    | assumption
    | (intro _; try dsimp only)
    | apply Answers.next
    | apply slotLoad_keeps
    | apply serve_keeps

theorem tamperRun_keeps {s₀ : State} (src : Nat) (s : State) (h₀ : Keeps s₀ s) : Keeps s₀ (tamperRun src s) := by
  unfold tamperRun
  with_reducible repeat' first
    | apply raise_keeps
    | apply updateNodeOk_keeps
    | (apply Keeps.lit; first | exact Keeps.refl _ | assumption | intro _ | apply Keeps.ite | apply logEvent_keeps | apply tillStart_keeps | apply abortRunning_keeps | apply latchTamper_keeps | apply zeroizeAll_keeps)

theorem tamper_keeps {s₀ : State} (sources : Nat) (s : State) (h₀ : Keeps s₀ s) : Keeps s₀ (tamper sources s) := by
  unfold tamper
  with_reducible repeat' first
    | apply Keeps.ite
    | apply tamperRun_keeps
    | apply latchTamper_keeps
    | (apply Keeps.lit; first | exact Keeps.refl _ | assumption)

theorem execTamperTrip_keeps {s₀ : State} (sources : BitVec 6) (s : State) (h₀ : Keeps s₀ s) :
    Answers s₀ (execTamperTrip sources s) := by
  unfold execTamperTrip
  with_reducible repeat' first
    | assumption
    | apply Answers.next
    | apply tamper_keeps

theorem tillDone_keeps {s₀ : State} (s : State) (h₀ : Keeps s₀ s) : Keeps s₀ (tillDone s) := by
  have h : Keeps s₀ (tillFinish (if s.till.running.isSome then count evTILL_OPERATIONS 1 s else s)) :=
    tillFinish_keeps _ (Keeps.ite (count_keeps _ _ _ h₀) h₀)
  unfold tillDone
  dsimp only
  generalize tillFinish (if s.till.running.isSome then count evTILL_OPERATIONS 1 s else s) = t at h ⊢
  split
  · exact dieReset_keeps _ h
  · exact tillStart_keeps _ h

theorem execTillCommandDone_keeps {s₀ : State} (s : State) (h₀ : Keeps s₀ s) : Answers s₀ (execTillCommandDone s) := by
  unfold execTillCommandDone
  with_reducible repeat' first
    | assumption
    | apply Answers.powered
    | apply tillDone_keeps

theorem execTillOpTimeout_keeps {s₀ : State} (deck : Bool) (s : State) (h₀ : Keeps s₀ s) :
    Answers s₀ (execTillOpTimeout deck s) := by
  unfold execTillOpTimeout
  with_reducible repeat' first
    | assumption
    | apply Keeps.ite
    | apply Answers.powered
    | apply setOpen_keeps

theorem execUnwrap_keeps {s₀ : State} (who : Req) (ok : Bool) (s : State) (h₀ : Keeps s₀ s) :
    Answers s₀ (execUnwrap who ok s) := by
  unfold execUnwrap
  with_reducible repeat' first
    | assumption
    | apply Answers.next
    | apply tillCmd_keeps

theorem execVerify_keeps {s₀ : State} (who : Req) (ok : Bool) (s : State) (h₀ : Keeps s₀ s) :
    Answers s₀ (execVerify who ok s) := by
  unfold execVerify
  with_reducible repeat' first
    | assumption
    | apply Answers.next
    | apply tillCmd_keeps

theorem execWrap_keeps {s₀ : State} (who : Req) (s : State) (h₀ : Keeps s₀ s) : Answers s₀ (execWrap who s) := by
  unfold execWrap
  with_reducible repeat' first
    | assumption
    | apply Answers.next
    | apply tillCmd_keeps

theorem execZeroize_keeps {s₀ : State} (who : Req) (s : State) (h₀ : Keeps s₀ s) : Answers s₀ (execZeroize who s) := by
  unfold execZeroize
  with_reducible repeat' first
    | assumption
    | apply Answers.next
    | apply tillCmd_keeps

theorem basePeriodic_keeps {s₀ : State} (s : State) (h₀ : Keeps s₀ s) : Keeps s₀ (basePeriodic s) := by
  unfold basePeriodic
  with_reducible repeat' first
    | assumption
    | apply Keeps.ite
    | apply baselineSave_keeps
    | apply setNest_keeps

theorem brLoad_keeps {s₀ : State} (k : Nat) (s : State) (h₀ : Keeps s₀ s) : Keeps s₀ (brLoad k s) := by
  unfold brLoad
  with_reducible repeat' first
    | assumption
    | apply wr_keeps

theorem busLoad_keeps {s₀ : State} (k : Nat) (s : State) (h₀ : Keeps s₀ s) : Keeps s₀ (busLoad k s) := by
  unfold busLoad
  with_reducible repeat' first
    | assumption
    | apply wr_keeps

theorem execBaselineSave_keeps {s₀ : State} (s : State) (h₀ : Keeps s₀ s) : Answers s₀ (execBaselineSave s) := by
  unfold execBaselineSave
  with_reducible repeat' first
    | assumption
    | apply Answers.inFull
    | apply basePeriodic_keeps

theorem saveNow_keeps {s₀ : State} (s : State) (h₀ : Keeps s₀ s) : Keeps s₀ (saveNow s) := by
  unfold saveNow
  with_reducible repeat' first
    | assumption
    | apply Keeps.ite
    | apply setNest_keeps

theorem execBaselineSaveNow_keeps {s₀ : State} (who : Req) (s : State) (h₀ : Keeps s₀ s) :
    Answers s₀ (execBaselineSaveNow who s) := by
  unfold execBaselineSaveNow
  with_reducible repeat' first
    | exact Keeps.refl _
    | assumption
    | (intro _; try dsimp only)
    | apply Answers.next
    | apply serve_keeps
    | apply saveNow_keeps

theorem execBrLoad_keeps {s₀ : State} (who : Req) (k : BitVec 15) (s : State) (h₀ : Keeps s₀ s) :
    Answers s₀ (execBrLoad who k s) := by
  unfold execBrLoad
  with_reducible repeat' first
    | exact Keeps.refl _
    | assumption
    | (intro _; try dsimp only)
    | apply Answers.next
    | apply brLoad_keeps
    | apply serve_keeps

theorem execBusLoad_keeps {s₀ : State} (who : Req) (k : BitVec 14) (s : State) (h₀ : Keeps s₀ s) :
    Answers s₀ (execBusLoad who k s) := by
  unfold execBusLoad
  with_reducible repeat' first
    | exact Keeps.refl _
    | assumption
    | (intro _; try dsimp only)
    | apply Answers.next
    | apply busLoad_keeps
    | apply serve_keeps

theorem execIslAbort_keeps {s₀ : State} (who : Req) (s : State) (h₀ : Keeps s₀ s) : Answers s₀ (execIslAbort who s) := by
  unfold execIslAbort
  with_reducible repeat' first
    | exact Keeps.refl _
    | assumption
    | (intro _; try dsimp only)
    | apply Answers.next
    | apply endWindow_keeps
    | apply serve_keeps

theorem islStat_keeps {s₀ : State} (s : State) (k : Nat) (h₀ : Keeps s₀ s) : Keeps s₀ (islStat s k) := by
  unfold islStat
  with_reducible repeat' first
    | assumption
    | apply wr_keeps

theorem islLoad_keeps {s₀ : State} (s : State) (h₀ : Keeps s₀ s) : Keeps s₀ (islLoad s) := by
  unfold islLoad
  with_reducible repeat' first
    | assumption
    | apply wrWords_keeps
    | apply islStat_keeps

theorem execIslLoad_keeps {s₀ : State} (who : Req) (s : State) (h₀ : Keeps s₀ s) : Answers s₀ (execIslLoad who s) := by
  unfold execIslLoad
  with_reducible repeat' first
    | exact Keeps.refl _
    | assumption
    | (intro _; try dsimp only)
    | apply Answers.next
    | apply islLoad_keeps
    | apply serve_keeps

theorem islMembers_keeps {s₀ : State} (s : State) (h₀ : Keeps s₀ s) : Keeps s₀ (islMembers s) := by
  unfold islMembers
  with_reducible repeat' first
    | assumption
    | apply Keeps.ite
    | apply openWindow_keeps
    | apply openEmpty_keeps
    | apply islStat_keeps

theorem execIslMembers_keeps {s₀ : State} (who : Req) (s : State) (h₀ : Keeps s₀ s) : Answers s₀ (execIslMembers who s) := by
  unfold execIslMembers
  with_reducible repeat' first
    | exact Keeps.refl _
    | assumption
    | (intro _; try dsimp only)
    | apply Answers.next
    | apply islMembers_keeps
    | apply serve_keeps

theorem execModeAbort_keeps {s₀ : State} (who : Req) (s : State) (h₀ : Keeps s₀ s) : Answers s₀ (execModeAbort who s) := by
  unfold execModeAbort
  with_reducible repeat' first
    | exact Keeps.refl _
    | assumption
    | (intro _; try dsimp only)
    | apply Answers.next
    | apply endWindow_keeps
    | apply serve_keeps

theorem modeLoad_keeps {s₀ : State} (s : State) (h₀ : Keeps s₀ s) : Keeps s₀ (modeLoad s) := by
  unfold modeLoad
  with_reducible repeat' first
    | assumption
    | apply wrWords_keeps
    | apply wr_keeps

theorem execModeLoad_keeps {s₀ : State} (who : Req) (s : State) (h₀ : Keeps s₀ s) : Answers s₀ (execModeLoad who s) := by
  unfold execModeLoad
  with_reducible repeat' first
    | exact Keeps.refl _
    | assumption
    | (intro _; try dsimp only)
    | apply Answers.next
    | apply modeLoad_keeps
    | apply serve_keeps

theorem modeShape_keeps {s₀ : State} (s : State) (h₀ : Keeps s₀ s) : Keeps s₀ (modeShape s) := by
  unfold modeShape
  with_reducible repeat' first
    | assumption
    | apply Keeps.ite
    | apply openWindow_keeps
    | apply wr_keeps
    | apply openEmpty_keeps

theorem execModeShape_keeps {s₀ : State} (who : Req) (s : State) (h₀ : Keeps s₀ s) : Answers s₀ (execModeShape who s) := by
  unfold execModeShape
  with_reducible repeat' first
    | exact Keeps.refl _
    | assumption
    | (intro _; try dsimp only)
    | apply Answers.next
    | apply serve_keeps
    | apply modeShape_keeps

theorem execOscSnapshot_keeps {s₀ : State} (who : Req) (clr : Bool) (s : State) (h₀ : Keeps s₀ s) :
    Answers s₀ (execOscSnapshot who clr s) := by
  unfold execOscSnapshot
  with_reducible repeat' first
    | exact Keeps.refl _
    | assumption
    | (intro _; try dsimp only)
    | apply Answers.next
    | apply snapshot_keeps
    | apply serve_keeps
    | apply raise_keeps

theorem sigLoad_keeps {s₀ : State} (k : Nat) (s : State) (h₀ : Keeps s₀ s) : Keeps s₀ (sigLoad k s) := by
  unfold sigLoad
  with_reducible repeat' first
    | assumption
    | apply wrWords_keeps
    | apply wr_keeps

theorem execSigLoad_keeps {s₀ : State} (who : Req) (sig : BitVec 13) (s : State) (h₀ : Keeps s₀ s) :
    Answers s₀ (execSigLoad who sig s) := by
  unfold execSigLoad
  with_reducible repeat' first
    | exact Keeps.refl _
    | assumption
    | (intro _; try dsimp only)
    | apply Answers.next
    | apply serve_keeps
    | apply sigLoad_keeps

theorem interTimeout_keeps {s₀ : State} (k : Nat) (s : State) (h₀ : Keeps s₀ s) : Keeps s₀ (interTimeout k s) := by
  unfold interTimeout
  with_reducible repeat' first
    | assumption
    | apply setNest_keeps
    | split

theorem execStatusInterTimeout_keeps {s₀ : State} (k : BitVec 16) (s : State) (h₀ : Keeps s₀ s) :
    Answers s₀ (execStatusInterTimeout k s) := by
  unfold execStatusInterTimeout
  with_reducible repeat' first
    | assumption
    | apply Answers.inFull
    | apply interTimeout_keeps

theorem execTopoSnapshot_keeps {s₀ : State} (who : Req) (clr : Bool) (s : State) (h₀ : Keeps s₀ s) :
    Answers s₀ (execTopoSnapshot who clr s) := by
  unfold execTopoSnapshot
  with_reducible repeat' first
    | exact Keeps.refl _
    | assumption
    | (intro _; try dsimp only)
    | apply Answers.next
    | apply snapshot_keeps
    | apply serve_keeps
    | apply raise_keeps

theorem actAbandon_keeps {s₀ : State} (s : State) (h₀ : Keeps s₀ s) : Keeps s₀ (actAbandon s) := by
  unfold actAbandon
  with_reducible repeat' first
    | apply Keeps.ite
    | apply botEnd_keeps
    | (apply Keeps.lit; first | exact Keeps.refl _ | assumption)

theorem cycNoRef_keeps {s₀ : State} (s : State) (h₀ : Keeps s₀ s) : Keeps s₀ (cycNoRef s) := by
  unfold cycNoRef
  with_reducible repeat' first
    | assumption
    | apply Keeps.ite
    | apply cycLeave_keeps

theorem finalFlush_keeps {s₀ : State} (s : State) (h₀ : Keeps s₀ s) : Keeps s₀ (finalFlush s) := by
  unfold finalFlush
  with_reducible repeat' first
    | apply reefSettle_keeps
    | (apply Keeps.lit; first | exact Keeps.refl _ | assumption | intro _ | apply Keeps.ite | apply ahSave_keeps | apply baselineSave_keeps | apply flushRun_keeps | apply setLedger_keeps)

theorem holdupChange_keeps {s₀ : State} (s : State) (t : State) (h₀ : Keeps s₀ t) : Keeps s₀ (holdupChange s t) := by
  unfold holdupChange
  with_reducible repeat' first
    | assumption
    | apply Keeps.ite
    | apply setStat_keeps
    | apply logEvent_keeps
    | apply raise_keeps

theorem holdupEnd_keeps {s₀ : State} (s : State) (h₀ : Keeps s₀ s) : Keeps s₀ (holdupEnd s) := by
  unfold holdupEnd
  with_reducible repeat' first
    | assumption
    | apply logEvent_keeps
    | apply powerOff_keeps
    | apply finalFlush_keeps

theorem portOff_keeps {s₀ : State} (p : Nat) (s : State) (h₀ : Keeps s₀ s) : Keeps s₀ (portOff p s) := by
  unfold portOff
  with_reducible repeat' first
    | assumption
    | apply Keeps.ite
    | apply linkChange_keeps
    | apply setPort_keeps

theorem setPower_keeps {s₀ : State} (f : Power → Power) (s : State) (h₀ : Keeps s₀ s) : Keeps s₀ (setPower f s) := by
  unfold setPower
  with_reducible repeat' (apply Keeps.lit; first | exact Keeps.refl _ | assumption)

theorem railMeasure_keeps {s₀ : State} (k : Nat) (mv : Nat) (ma : Nat) (s : State) (h₀ : Keeps s₀ s) :
    Keeps s₀ (railMeasure k mv ma s) := by
  unfold railMeasure
  with_reducible repeat' first
    | assumption
    | apply Keeps.ite
    | apply logEvent_keeps
    | apply setPower_keeps
    | apply wrF_keeps
    | apply raise_keeps

theorem reefFlush_keeps {s₀ : State} (s : State) (h₀ : Keeps s₀ s) : Keeps s₀ (reefFlush s) := by
  unfold reefFlush
  with_reducible repeat' first
    | assumption
    | apply Keeps.ite
    | apply trackWrite_keeps
    | apply flushRun_keeps
    | apply setLedger_keeps

theorem reefStop_keeps {s₀ : State} (s : State) (h₀ : Keeps s₀ s) : Keeps s₀ (reefStop s) := by
  unfold reefStop
  with_reducible repeat' first
    | (intro _; try dsimp only)
    | apply cycNoRef_keeps
    | apply portOff_keeps
    | apply updateNodeOk_keeps
    | apply Keeps.forUpTo
    | (apply Keeps.lit; first | exact Keeps.refl _ | assumption | intro _ | apply Keeps.ite | apply actAbandon_keeps | apply shroudChange_keeps | apply deckReset_keeps | apply hostReset_keeps | apply mastTo_keeps | apply ribLose_keeps)

theorem reefEnter_keeps {s₀ : State} (why : Nat) (s : State) (h₀ : Keeps s₀ s) : Keeps s₀ (reefEnter why s) := by
  unfold reefEnter
  with_reducible repeat' first
    | assumption
    | apply Keeps.ite
    | apply logEvent_keeps
    | apply setPower_keeps
    | apply reefFlush_keeps
    | apply energyReef_keeps
    | apply raise_keeps
    | apply capReef_keeps
    | apply reefStop_keeps

theorem shedResume_keeps {s₀ : State} (s : State) (h₀ : Keeps s₀ s) : Keeps s₀ (shedResume s) := by
  unfold shedResume
  with_reducible repeat' first
    | assumption
    | apply Keeps.ite
    | apply logEvent_keeps
    | apply setPower_keeps
    | apply raise_keeps

theorem resume_keeps {s₀ : State} (version : Word) (s : State) (h₀ : Keeps s₀ s) : Keeps s₀ (resume version s) := by
  unfold resume
  with_reducible repeat' first
    | apply Keeps.ite
    | apply startDataPath_keeps
    | apply logEvent_keeps
    | apply setPower_keeps
    | apply deckRun_keeps
    | apply shedResume_keeps
    | apply bootLoadCode_keeps
    | apply pairStart_keeps
    | apply linkBack_keeps
    | apply raise_keeps
    | apply energyResume_keeps
    | apply deckStart_keeps
    | apply updateNodeOk_keeps
    | (apply Keeps.lit; first | exact Keeps.refl _ | assumption)

theorem shedTo_keeps {s₀ : State} (n : Nat) (k : Nat) (on : Bool) (s : State) (h₀ : Keeps s₀ s) : Keeps s₀ (shedTo n k on s) := by
  unfold shedTo
  with_reducible repeat' first
    | assumption
    | apply logEvent_keeps
    | apply setPower_keeps
    | apply shedEffect_keeps
    | apply raise_keeps

theorem shedStep_keeps {s₀ : State} (temp : Int) (s : State) (h₀ : Keeps s₀ s) : Keeps s₀ (shedStep temp s) := by
  unfold shedStep
  with_reducible repeat' first
    | assumption
    | apply Keeps.ite
    | apply setPower_keeps
    | apply shedTo_keeps

theorem clrEnd_keeps {s₀ : State} (s : State) (h₀ : Keeps s₀ s) : Keeps s₀ (clrEnd s) := by
  unfold clrEnd
  with_reducible repeat' first
    | assumption
    | apply setLedger_keeps

theorem clrResult_keeps {s₀ : State} (r : Nat) (s : State) (h₀ : Keeps s₀ s) : Keeps s₀ (clrResult r s) := by
  unfold clrResult
  with_reducible repeat' first
    | assumption
    | apply wrF_keeps

theorem clearBegin_keeps {s₀ : State} (during : List LEvent) (badUnits : List Nat) (s : State) (h₀ : Keeps s₀ s) :
    Keeps s₀ (clearBegin during badUnits s) := by
  unfold clearBegin
  with_reducible repeat' first
    | assumption
    | apply Keeps.ite
    | apply clrEnd_keeps
    | apply flushRun_keeps
    | apply setLedger_keeps
    | apply clrResult_keeps
    | apply controlRecord_keeps

theorem clrExpire_keeps {s₀ : State} (s : State) (h₀ : Keeps s₀ s) : Keeps s₀ (clrExpire s) := by
  unfold clrExpire
  with_reducible repeat' first
    | assumption
    | apply clrEnd_keeps
    | apply clrResult_keeps

theorem clearExecute_keeps {s₀ : State} (s : State) (h₀ : Keeps s₀ s) : Keeps s₀ (clearExecute s) := by
  unfold clearExecute
  with_reducible repeat' first
    | assumption
    | apply clearBegin_keeps
    | apply setLedger_keeps
    | apply clrResult_keeps
    | apply clrExpire_keeps
    | split

theorem clearRequest_keeps {s₀ : State} (s : State) (h₀ : Keeps s₀ s) : Keeps s₀ (clearRequest s) := by
  unfold clearRequest
  with_reducible repeat' first
    | assumption
    | apply Keeps.ite
    | apply setLedger_keeps
    | apply clrResult_keeps
    | apply drawFree_keeps

theorem execClearCancel_keeps {s₀ : State} (s : State) (h₀ : Keeps s₀ s) : Answers s₀ (execClearCancel s) := by
  unfold execClearCancel
  with_reducible repeat' first
    | exact Keeps.refl _
    | assumption
    | (intro _; try dsimp only)
    | apply Keeps.ite
    | apply Answers.next
    | apply hostServe_keeps
    | apply clrEnd_keeps

theorem execClearEraseDone_keeps {s₀ : State} (s : State) (h₀ : Keeps s₀ s) : Answers s₀ (execClearEraseDone s) := by
  unfold execClearEraseDone
  with_reducible repeat' first
    | assumption
    | apply Keeps.ite
    | apply Answers.powered
    | apply clearFinish_keeps

theorem execClearExecute_keeps {s₀ : State} (s : State) (h₀ : Keeps s₀ s) : Answers s₀ (execClearExecute s) := by
  unfold execClearExecute
  with_reducible repeat' first
    | exact Keeps.refl _
    | assumption
    | (intro _; try dsimp only)
    | apply Answers.next
    | apply hostServe_keeps
    | apply clearExecute_keeps

theorem execClearExpiry_keeps {s₀ : State} (s : State) (h₀ : Keeps s₀ s) : Answers s₀ (execClearExpiry s) := by
  unfold execClearExpiry
  with_reducible repeat' first
    | assumption
    | apply Keeps.ite
    | apply Answers.powered
    | apply clrExpire_keeps

theorem execClearRequest_keeps {s₀ : State} (s : State) (h₀ : Keeps s₀ s) : Answers s₀ (execClearRequest s) := by
  unfold execClearRequest
  with_reducible repeat' first
    | exact Keeps.refl _
    | assumption
    | (intro _; try dsimp only)
    | apply Answers.next
    | apply hostServe_keeps
    | apply clearRequest_keeps

theorem execFlushNow_keeps {s₀ : State} (who : Req) (s : State) (h₀ : Keeps s₀ s) : Answers s₀ (execFlushNow who s) := by
  unfold execFlushNow
  with_reducible repeat' first
    | exact Keeps.refl _
    | assumption
    | (intro _; try dsimp only)
    | apply Answers.next
    | apply setLedger_keeps
    | apply serve_keeps

theorem lastWordsUpdate_keeps {s₀ : State} (s : State) (h₀ : Keeps s₀ s) : Keeps s₀ (lastWordsUpdate s) := by
  unfold lastWordsUpdate
  with_reducible repeat' first
    | assumption
    | apply writeLastWords_keeps
    | split

theorem execLastWordsUpdate_keeps {s₀ : State} (s : State) (h₀ : Keeps s₀ s) : Answers s₀ (execLastWordsUpdate s) := by
  unfold execLastWordsUpdate
  with_reducible repeat' first
    | assumption
    | apply Answers.powered
    | apply lastWordsUpdate_keeps

theorem execLedgerEvent_keeps {s₀ : State} (e : LEvent) (s : State) (h₀ : Keeps s₀ s) : Answers s₀ (execLedgerEvent e s) := by
  unfold execLedgerEvent
  with_reducible repeat' first
    | assumption
    | apply Answers.powered
    | apply logOffered_keeps

theorem flushTimed_keeps {s₀ : State} (during : List LEvent) (badUnits : List Nat) (s : State) (h₀ : Keeps s₀ s) :
    Keeps s₀ (flushTimed during badUnits s) := by
  unfold flushTimed
  with_reducible repeat' first
    | assumption
    | apply Keeps.ite
    | apply clearBegin_keeps
    | apply flushRun_keeps

theorem execLedgerFlush_keeps {s₀ : State} (during : List LEvent) (badUnits : List Nat) (s : State) (h₀ : Keeps s₀ s) :
    Answers s₀ (execLedgerFlush during badUnits s) := by
  unfold execLedgerFlush
  with_reducible repeat' first
    | assumption
    | apply Answers.powered
    | apply flushTimed_keeps

theorem execLedgerReadAbort_keeps {s₀ : State} (s : State) (h₀ : Keeps s₀ s) : Answers s₀ (execLedgerReadAbort s) := by
  unfold execLedgerReadAbort
  with_reducible repeat' first
    | exact Keeps.refl _
    | assumption
    | (intro _; try dsimp only)
    | apply Answers.next
    | apply hostServe_keeps
    | apply ledgerAbort_keeps

theorem rdTrack_keeps {s₀ : State} (s : State) (h₀ : Keeps s₀ s) : Keeps s₀ (rdTrack s) := by
  unfold rdTrack
  with_reducible repeat' first
    | assumption
    | apply setLedger_keeps

theorem ledgerOpen_keeps {s₀ : State} (s : State) (h₀ : Keeps s₀ s) : Keeps s₀ (ledgerOpen s) := by
  unfold ledgerOpen
  with_reducible repeat' first
    | assumption
    | apply Keeps.ite
    | apply openMore_keeps
    | apply rdTrack_keeps
    | apply openWindow_keeps
    | apply dropEngine_keeps
    | apply setLedger_keeps
    | apply wr_keeps
    | apply setWork_keeps
    | apply openEmpty_keeps

theorem execLedgerReadOpen_keeps {s₀ : State} (s : State) (h₀ : Keeps s₀ s) : Answers s₀ (execLedgerReadOpen s) := by
  unfold execLedgerReadOpen
  with_reducible repeat' first
    | exact Keeps.refl _
    | assumption
    | (intro _; try dsimp only)
    | apply Answers.next
    | apply hostServe_keeps
    | apply ledgerOpen_keeps

theorem lwAck_keeps {s₀ : State} (s : State) (h₀ : Keeps s₀ s) : Keeps s₀ (lwAck s) := by
  unfold lwAck
  with_reducible repeat' first
    | apply setLedger_keeps
    | (apply Keeps.lit; first | exact Keeps.refl _ | assumption)

theorem execLwAck_keeps {s₀ : State} (s : State) (h₀ : Keeps s₀ s) : Answers s₀ (execLwAck s) := by
  unfold execLwAck
  with_reducible repeat' first
    | exact Keeps.refl _
    | assumption
    | (intro _; try dsimp only)
    | apply Answers.next
    | apply hostServe_keeps
    | apply lwAck_keeps

theorem trackSample_keeps {s₀ : State} (k : Nat) (derived : Int) (s : State) (h₀ : Keeps s₀ s) :
    Keeps s₀ (trackSample k derived s) := by
  unfold trackSample
  with_reducible repeat' first
    | assumption
    | apply trackPut_keeps
    | apply setLedger_keeps
    | split

theorem trackTimed_keeps {s₀ : State} (k : Nat) (derived : Int) (s : State) (h₀ : Keeps s₀ s) :
    Keeps s₀ (trackTimed k derived s) := by
  unfold trackTimed
  with_reducible repeat' first
    | assumption
    | apply Keeps.ite
    | apply setLedger_keeps
    | apply trackSample_keeps

theorem execTrackSample_keeps {s₀ : State} (track : Fin 256) (derived : Int) (s : State) (h₀ : Keeps s₀ s) :
    Answers s₀ (execTrackSample track derived s) := by
  unfold execTrackSample
  with_reducible repeat' first
    | assumption
    | apply Answers.powered
    | apply trackTimed_keeps

theorem execTrackWrite_keeps {s₀ : State} (s : State) (h₀ : Keeps s₀ s) : Answers s₀ (execTrackWrite s) := by
  unfold execTrackWrite
  with_reducible repeat' first
    | assumption
    | apply Keeps.ite
    | apply Answers.powered
    | apply trackWrite_keeps

end Sys2Proof.Machine
end

