-- ==== Sys2Proof/Laws/KeepsMem.lean ====
section
/-!
SUPPORT. What each operation keeps (Safety.Keeps): the packer, the memories, the power events and the tick.
-/

namespace Sys2Proof.Machine

open Sys2Proof

set_option Elab.async false
set_option linter.all false

set_option maxRecDepth 4000

theorem execJobAbort_keeps {s₀ : State} (who : Req) (s : State) (h₀ : Keeps s₀ s) : Answers s₀ (execJobAbort who s) := by
  unfold execJobAbort
  with_reducible repeat' first
    | exact Keeps.refl _
    | assumption
    | (intro _; try dsimp only)
    | apply Answers.next
    | apply jobFail_keeps
    | apply serve_keeps

theorem jobFlush_keeps {s₀ : State} (consumed : Nat) (s : State) (h₀ : Keeps s₀ s) : Keeps s₀ (jobFlush consumed s) := by
  unfold jobFlush
  with_reducible repeat' first
    | assumption
    | apply setPak_keeps
    | split

theorem execJobFlush_keeps {s₀ : State} (who : Req) (consumed : Nat) (s : State) (h₀ : Keeps s₀ s) :
    Answers s₀ (execJobFlush who consumed s) := by
  unfold execJobFlush
  with_reducible repeat' first
    | exact Keeps.refl _
    | assumption
    | (intro _; try dsimp only)
    | apply Answers.next
    | apply jobFlush_keeps
    | apply serve_keeps

theorem execJobPack_keeps {s₀ : State} (who : Req) (k : BitVec 16) (input : List Byte) (s : State) (h₀ : Keeps s₀ s) :
    Answers s₀ (execJobPack who k input s) := by
  unfold execJobPack
  with_reducible repeat' first
    | exact Keeps.refl _
    | assumption
    | (intro _; try dsimp only)
    | apply Answers.next
    | apply jobStart_keeps
    | apply serve_keeps

theorem execJobRaw_keeps {s₀ : State} (who : Req) (k : BitVec 16) (input : List Byte) (s : State) (h₀ : Keeps s₀ s) :
    Answers s₀ (execJobRaw who k input s) := by
  unfold execJobRaw
  with_reducible repeat' first
    | exact Keeps.refl _
    | assumption
    | (intro _; try dsimp only)
    | apply Answers.next
    | apply jobStart_keeps
    | apply serve_keeps

theorem execJobUnpack_keeps {s₀ : State} (who : Req) (k : BitVec 16) (input : List Byte) (s : State) (h₀ : Keeps s₀ s) :
    Answers s₀ (execJobUnpack who k input s) := by
  unfold execJobUnpack
  with_reducible repeat' first
    | exact Keeps.refl _
    | assumption
    | (intro _; try dsimp only)
    | apply Answers.next
    | apply jobStart_keeps
    | apply serve_keeps

theorem execPackerBlockDone_keeps {s₀ : State} (s : State) (h₀ : Keeps s₀ s) : Answers s₀ (execPackerBlockDone s) := by
  unfold execPackerBlockDone
  with_reducible repeat' first
    | assumption
    | apply Answers.inFull
    | apply finishBlock_keeps
    | split

theorem takeBlock_keeps {s₀ : State} (s : State) (b : PakBlock) (t : State) (h₀ : Keeps s₀ s) (h : takeBlock s = some (b, t)) :
    Keeps s₀ t := by
  unfold takeBlock at h
  repeat' split at h
  all_goals cases h
  · exact ribTake_keeps _ (h₀.same rfl rfl rfl rfl rfl)
  · exact setWork_keeps _ _ _ h₀
  · exact setWork_keeps _ _ _ h₀
  · exact h₀

theorem packerBlockStart_keeps {s₀ : State} (s : State) (h₀ : Keeps s₀ s) : Keeps s₀ (packerBlockStart s) := by
  unfold packerBlockStart
  repeat' split
  · exact h₀
  · exact setPak_keeps _ _ (takeBlock_keeps _ _ _ h₀ ‹_›)
  · exact h₀

theorem execPackerBlockStart_keeps {s₀ : State} (s : State) (h₀ : Keeps s₀ s) : Answers s₀ (execPackerBlockStart s) := by
  unfold execPackerBlockStart
  with_reducible repeat' first
    | assumption
    | apply Answers.inFull
    | apply packerBlockStart_keeps

theorem execPackerSnapshot_keeps {s₀ : State} (who : Req) (clr : Bool) (s : State) (h₀ : Keeps s₀ s) :
    Answers s₀ (execPackerSnapshot who clr s) := by
  unfold execPackerSnapshot
  with_reducible repeat' first
    | exact Keeps.refl _
    | assumption
    | (intro _; try dsimp only)
    | apply Answers.next
    | apply snapshot_keeps
    | apply serve_keeps
    | apply raise_keeps

theorem baselineError_keeps {s₀ : State} (older : Bool) (s : State) (h₀ : Keeps s₀ s) : Keeps s₀ (baselineError older s) := by
  unfold baselineError
  with_reducible repeat' first
    | assumption
    | apply setNest_keeps

theorem bufferError_keeps {s₀ : State} (region : Nat) (p : Nat) (s : State) (h₀ : Keeps s₀ s) :
    Keeps s₀ (bufferError region p s) := by
  unfold bufferError
  with_reducible repeat' first
    | assumption
    | apply Keeps.ite
    | apply setPort_keeps

theorem configLostNow_keeps {s₀ : State} (s : State) (h₀ : Keeps s₀ s) : Keeps s₀ (configLostNow s) := by
  unfold configLostNow
  with_reducible repeat' first
    | apply logEvent_keeps
    | apply updateNodeOk_keeps
    | (apply Keeps.lit; first | exact Keeps.refl _ | assumption)

theorem sampleError_keeps {s₀ : State} (c : Nat) (s : State) (h₀ : Keeps s₀ s) : Keeps s₀ (sampleError c s) := by
  unfold sampleError
  with_reducible repeat' first
    | assumption
    | apply Keeps.ite
    | apply wrF_keeps
    | apply setWindow_keeps

theorem itemError_keeps {s₀ : State} (q : Nat) (s : State) (h₀ : Keeps s₀ s) : Keeps s₀ (itemError q s) := by
  unfold itemError
  try dsimp only
  with_reducible repeat' first
    | assumption
    | apply qRemove_keeps
    | split

theorem stallError_keeps {s₀ : State} (n : Nat) (k : Nat) (s : State) (h₀ : Keeps s₀ s) : Keeps s₀ (stallError n k s) := by
  unfold stallError
  with_reducible repeat' (apply Keeps.lit; first | exact Keeps.refl _ | assumption | intro _ | apply Keeps.ite | apply setStream_keeps)

theorem ribbonError_keeps {s₀ : State} (i : Nat) (s : State) (h₀ : Keeps s₀ s) : Keeps s₀ (ribbonError i s) := by
  unfold ribbonError
  with_reducible repeat' first
    | (apply Keeps.lit; first | exact Keeps.refl _ | assumption | intro _ | apply Keeps.ite | apply ribOverwrite_keeps | apply ribReport_keeps | apply Keeps.foldl | apply Keeps.forUpTo)
    | split

theorem stampError_keeps {s₀ : State} (p : Nat) (i : Nat) (s : State) (h₀ : Keeps s₀ s) : Keeps s₀ (stampError p i s) := by
  unfold stampError
  try dsimp only
  with_reducible repeat' first
    | assumption
    | apply tsqRefuse_keeps
    | apply setPort_keeps
    | split

theorem recordError_keeps {s₀ : State} (no : Nat) (ofs : Nat) (s : State) (h₀ : Keeps s₀ s) :
    Keeps s₀ (recordError no ofs s) := by
  unfold recordError
  with_reducible repeat' first
    | assumption
    | apply setCap_keeps

theorem trackError_keeps {s₀ : State} (k : Nat) (older : Bool) (s : State) (h₀ : Keeps s₀ s) :
    Keeps s₀ (trackError k older s) := by
  unfold trackError
  with_reducible repeat' first
    | assumption
    | apply setLedger_keeps

theorem controlError_keeps {s₀ : State} (i : Nat) (s : State) (h₀ : Keeps s₀ s) : Keeps s₀ (controlError i s) := by
  unfold controlError
  with_reducible repeat' first
    | assumption
    | apply setLedger_keeps

theorem intervalError_keeps {s₀ : State} (i : Nat) (s : State) (h₀ : Keeps s₀ s) : Keeps s₀ (intervalError i s) := by
  unfold intervalError
  with_reducible repeat' first
    | assumption
    | apply setEnergy_keeps

theorem logError_keeps {s₀ : State} (seq : Nat) (s : State) (h₀ : Keeps s₀ s) : Keeps s₀ (logError seq s) := by
  unfold logError
  with_reducible repeat' first
    | assumption
    | apply setLedger_keeps

theorem streamError_keeps {s₀ : State} (n : Nat) (s : State) (h₀ : Keeps s₀ s) : Keeps s₀ (streamError n s) := by
  unfold streamError
  with_reducible repeat' first
    | assumption
    | apply setStream_keeps

theorem deckError_keeps {s₀ : State} (thread : Option Nat) (s : State) (h₀ : Keeps s₀ s) : Keeps s₀ (deckError thread s) := by
  unfold deckError
  with_reducible repeat' first
    | assumption
    | apply machineCheck_keeps
    | split

theorem consequenceOf_keeps {s₀ : State} (region : Nat) (target : UeTarget) (s : State) (h₀ : Keeps s₀ s) :
    Keeps s₀ (consequenceOf region target s) := by
  unfold consequenceOf
  with_reducible repeat' first
    | assumption
    | apply emRestart_keeps
    | apply sampleError_keeps
    | apply itemError_keeps
    | apply stallError_keeps
    | apply ribbonError_keeps
    | apply fastRestart_keeps
    | apply bufferError_keeps
    | apply stampError_keeps
    | apply recordError_keeps
    | apply pakMemErr_keeps
    | apply topError_keeps
    | apply trackError_keeps
    | apply controlError_keeps
    | apply baselineError_keeps
    | apply creditsBack_keeps
    | apply intervalError_keeps
    | apply storeError_keeps
    | apply configLostNow_keeps
    | apply raise_keeps
    | apply logError_keeps
    | apply streamError_keeps
    | apply deckError_keeps
    | split

theorem consequence_keeps {s₀ : State} (region : Nat) (target : UeTarget) (s : State) (h₀ : Keeps s₀ s) :
    Keeps s₀ (consequence region target s) := by
  unfold consequence
  with_reducible repeat' first
    | assumption
    | apply Keeps.ite
    | apply consequenceOf_keeps

theorem setMem_keeps {s₀ : State} (f : MemInt → MemInt) (s : State) (h₀ : Keeps s₀ s) : Keeps s₀ (setMem f s) := by
  unfold setMem
  with_reducible repeat' (apply Keeps.lit; first | exact Keeps.refl _ | assumption)

theorem laneCount_keeps {s₀ : State} (ch : Nat) (lane : Nat) (s : State) (h₀ : Keeps s₀ s) : Keeps s₀ (laneCount ch lane s) := by
  unfold laneCount
  with_reducible repeat' first
    | assumption
    | apply Keeps.ite
    | apply logEvent_keeps
    | apply setMem_keeps
    | apply raise_keeps

theorem noteUe_keeps {s₀ : State} (region : Nat) (addr : Nat) (s : State) (h₀ : Keeps s₀ s) :
    Keeps s₀ (noteUe region addr s) := by
  unfold noteUe
  with_reducible repeat' first
    | assumption
    | apply Keeps.ite
    | apply logEvent_keeps
    | apply wr_keeps
    | apply raise_keeps
    | apply count_keeps

theorem unitCount_keeps {s₀ : State} (region : Nat) (addr : Nat) (s : State) (h₀ : Keeps s₀ s) :
    Keeps s₀ (unitCount region addr s) := by
  unfold unitCount
  with_reducible repeat' first
    | assumption
    | apply Keeps.ite
    | apply setMem_keeps
    | apply raise_keeps

theorem memCe_keeps {s₀ : State} (region : Nat) (addr : Nat) (ch : Nat) (lane : Nat) (target : UeTarget) (s : State)
    (h₀ : Keeps s₀ s) :
    Keeps s₀ (memCe region addr ch lane target s) := by
  unfold memCe
  with_reducible repeat' first
    | assumption
    | apply Keeps.ite
    | apply consequence_keeps
    | apply laneCount_keeps
    | apply noteUe_keeps
    | apply raise_keeps
    | apply unitCount_keeps
    | apply count_keeps

theorem execMemCorrection_keeps {s₀ : State} (region : Fin 15) (addr : BitVec 36) (ch : Fin 2) (lane : Fin 4) (target : UeTarget) (s : State)
    (h₀ : Keeps s₀ s) :
    Answers s₀ (execMemCorrection region addr ch lane target s) := by
  unfold execMemCorrection
  with_reducible repeat' first
    | assumption
    | apply Keeps.ite
    | apply Answers.powered
    | apply memCe_keeps

theorem execMemSnapshot_keeps {s₀ : State} (who : Req) (clr : Bool) (s : State) (h₀ : Keeps s₀ s) :
    Answers s₀ (execMemSnapshot who clr s) := by
  unfold execMemSnapshot
  with_reducible repeat' first
    | exact Keeps.refl _
    | assumption
    | (intro _; try dsimp only)
    | apply Answers.next
    | apply snapshot_keeps
    | apply serve_keeps
    | apply raise_keeps

theorem memUe_keeps {s₀ : State} (region : Nat) (addr : Nat) (target : UeTarget) (s : State) (h₀ : Keeps s₀ s) :
    Keeps s₀ (memUe region addr target s) := by
  unfold memUe
  with_reducible repeat' first
    | assumption
    | apply Keeps.ite
    | apply consequence_keeps
    | apply setMem_keeps
    | apply noteUe_keeps

theorem execMemUe_keeps {s₀ : State} (region : Fin 15) (addr : BitVec 36) (target : UeTarget) (s : State) (h₀ : Keeps s₀ s) :
    Answers s₀ (execMemUe region addr target s) := by
  unfold execMemUe
  with_reducible repeat' first
    | assumption
    | apply Keeps.ite
    | apply Answers.powered
    | apply memUe_keeps

theorem patrolNext_keeps {s₀ : State} (s : State) (h₀ : Keeps s₀ s) : Keeps s₀ (patrolNext s) := by
  unfold patrolNext
  with_reducible repeat' first
    | assumption
    | apply Keeps.ite
    | apply setMem_keeps
    | apply raise_keeps

theorem patrolRead_keeps {s₀ : State} (region : Nat) (r : PatrolResult) (s : State) (h₀ : Keeps s₀ s) :
    Keeps s₀ (patrolRead region r s) := by
  unfold patrolRead
  with_reducible repeat' first
    | assumption
    | apply Keeps.ite
    | apply patrolNext_keeps
    | apply setMem_keeps
    | apply noteUe_keeps
    | apply memCe_keeps
    | split

theorem execPatrolRead_keeps {s₀ : State} (region : Fin 15) (r : PatrolResult) (s : State) (h₀ : Keeps s₀ s) :
    Answers s₀ (execPatrolRead region r s) := by
  unfold execPatrolRead
  with_reducible repeat' first
    | assumption
    | apply Keeps.ite
    | apply Answers.inFull
    | apply patrolRead_keeps

theorem noteTemp_keeps {s₀ : State} (temp : BitVec 16) (s : State) (h₀ : Keeps s₀ s) : Keeps s₀ (noteTemp temp s) := by
  unfold noteTemp
  with_reducible repeat' first
    | assumption
    | apply setPower_keeps
    | apply wr_keeps

theorem dieReading_keeps {s₀ : State} (temp : BitVec 16) (s : State) (h₀ : Keeps s₀ s) : Keeps s₀ (dieReading temp s) := by
  unfold dieReading
  with_reducible repeat' first
    | assumption
    | apply Keeps.ite
    | apply setPower_keeps
    | apply powerOff_keeps
    | apply shedStep_keeps
    | apply reefEnter_keeps
    | apply noteTemp_keeps

theorem furlNow_keeps {s₀ : State} (key : BitVec 16) (s : State) (h₀ : Keeps s₀ s) : Keeps s₀ (furlNow key s) := by
  unfold furlNow
  with_reducible repeat' first
    | apply reefEnter_keeps
    | apply reefSettle_keeps
    | (apply Keeps.lit; first | exact Keeps.refl _ | assumption | intro _ | apply Keeps.ite | apply powerOff_keeps)

theorem execFurl_keeps {s₀ : State} (who : Req) (key : BitVec 16) (s : State) (h₀ : Keeps s₀ s) :
    Answers s₀ (execFurl who key s) := by
  unfold execFurl
  with_reducible repeat' first
    | exact Keeps.refl _
    | assumption
    | (intro _; try dsimp only)
    | apply Answers.next
    | apply furlNow_keeps
    | apply serve_keeps

theorem execFurlLatchClear_keeps {s₀ : State} (s : State) (h₀ : Keeps s₀ s) : Answers s₀ (execFurlLatchClear s) := by
  unfold execFurlLatchClear
  with_reducible repeat' first
    | apply Keeps.ite
    | apply Answers.next
    | apply setPower_keeps
    | (apply Keeps.lit; first | exact Keeps.refl _ | assumption)

theorem execHoldupEnd_keeps {s₀ : State} (s : State) (h₀ : Keeps s₀ s) : Answers s₀ (execHoldupEnd s) := by
  unfold execHoldupEnd
  with_reducible repeat' first
    | assumption
    | apply Keeps.ite
    | apply Answers.next
    | apply holdupEnd_keeps

theorem powerFail_keeps {s₀ : State} (s : State) (h₀ : Keeps s₀ s) : Keeps s₀ (powerFail s) := by
  unfold powerFail
  with_reducible repeat' first
    | assumption
    | apply Keeps.ite
    | apply powerOff_keeps
    | apply holdupEnd_keeps
    | apply reefEnter_keeps

theorem execPowerFail_keeps {s₀ : State} (s : State) (h₀ : Keeps s₀ s) : Answers s₀ (execPowerFail s) := by
  unfold execPowerFail
  with_reducible repeat' first
    | assumption
    | apply Answers.next
    | apply setPower_keeps
    | apply powerFail_keeps

theorem railAttempt_keeps {s₀ : State} (fail : Option (Fin 8)) (s : State) (h₀ : Keeps s₀ s) : Keeps s₀ (railAttempt fail s) := by
  unfold railAttempt
  with_reducible repeat' first
    | (apply Keeps.lit; first | exact Keeps.refl _ | assumption | intro _ | apply Keeps.ite | apply setPower_keeps | apply Keeps.foldl | apply Keeps.forUpTo)
    | split

theorem execPowerUp_keeps {s₀ : State} (fail : Option (Fin 8)) (s : State) (h₀ : Keeps s₀ s) :
    Answers s₀ (execPowerUp fail s) := by
  unfold execPowerUp
  with_reducible repeat' first
    | assumption
    | apply Keeps.ite
    | apply Answers.next
    | apply railAttempt_keeps

theorem railLoad_keeps {s₀ : State} (k : Nat) (s : State) (h₀ : Keeps s₀ s) : Keeps s₀ (railLoad k s) := by
  unfold railLoad
  with_reducible repeat' first
    | assumption
    | apply wrF_keeps
    | apply wr_keeps

theorem execRailLoad_keeps {s₀ : State} (who : Req) (rail : Fin 8) (s : State) (h₀ : Keeps s₀ s) :
    Answers s₀ (execRailLoad who rail s) := by
  unfold execRailLoad
  with_reducible repeat' first
    | exact Keeps.refl _
    | assumption
    | (intro _; try dsimp only)
    | apply Answers.next
    | apply railLoad_keeps
    | apply serve_keeps

theorem noteInput_keeps {s₀ : State} (vin : Nat) (s : State) (h₀ : Keeps s₀ s) : Keeps s₀ (noteInput vin s) := by
  unfold noteInput
  with_reducible repeat' first
    | assumption
    | apply setPower_keeps

theorem railMeasureAll_keeps {s₀ : State} (k : Nat) (l : List (Nat × Nat)) (s : State) (h₀ : Keeps s₀ s) :
    Keeps s₀ (railMeasureAll k l s) := by
  induction l generalizing k s with
  | nil => exact h₀
  | cons p r ih =>
    refine ih _ _ ?_
    split
    · exact railMeasure_keeps _ _ _ _ h₀
    · exact h₀

theorem powerMeasure_keeps {s₀ : State} (rails : List (Nat × Nat)) (vin : BitVec 16) (iin : BitVec 16) (pmw : Word) (vstore : BitVec 16) (s0 : State)
    (h₀ : Keeps s₀ s0) :
    Keeps s₀ (powerMeasure rails vin iin pmw vstore s0) := by
  unfold powerMeasure
  with_reducible repeat' first
    | assumption
    | apply Keeps.ite
    | apply setPower_keeps
    | apply noteInput_keeps
    | apply tamper_keeps
    | apply wrF_keeps
    | apply holdupChange_keeps
    | apply railMeasureAll_keeps
    | apply wr_keeps

theorem execRailMeasure_keeps {s₀ : State} (rails : List (Nat × Nat)) (vin : BitVec 16) (iin : BitVec 16) (pmw : Word) (vstore : BitVec 16) (s : State)
    (h₀ : Keeps s₀ s) :
    Answers s₀ (execRailMeasure rails vin iin pmw vstore s) := by
  unfold execRailMeasure
  with_reducible repeat' first
    | assumption
    | apply Answers.next
    | apply powerMeasure_keeps

theorem execRailRetry_keeps {s₀ : State} (fail : Option (Fin 8)) (s : State) (h₀ : Keeps s₀ s) :
    Answers s₀ (execRailRetry fail s) := by
  unfold execRailRetry
  with_reducible repeat' first
    | assumption
    | apply Keeps.ite
    | apply Answers.next
    | apply railAttempt_keeps

theorem execPowerResumption_keeps {s₀ : State} (version : Word) (s : State) (h₀ : Keeps s₀ s) :
    Answers s₀ (execPowerResumption version s) := by
  unfold execPowerResumption
  with_reducible repeat' first
    | assumption
    | apply Keeps.ite
    | apply Answers.next
    | apply resume_keeps

theorem sensorReading_keeps {s₀ : State} (temp : BitVec 16) (s : State) (h₀ : Keeps s₀ s) : Keeps s₀ (sensorReading temp s) := by
  unfold sensorReading
  with_reducible repeat' first
    | assumption
    | apply Keeps.ite
    | apply setPower_keeps
    | apply tamper_keeps
    | apply dieReading_keeps

theorem execSensorReading_keeps {s₀ : State} (temp : BitVec 16) (s : State) (h₀ : Keeps s₀ s) :
    Answers s₀ (execSensorReading temp s) := by
  unfold execSensorReading
  with_reducible repeat' first
    | assumption
    | apply Answers.next
    | apply sensorReading_keeps

theorem execStoreChargeDone_keeps {s₀ : State} (cf : BitVec 16) (s : State) (h₀ : Keeps s₀ s) :
    Answers s₀ (execStoreChargeDone cf s) := by
  unfold execStoreChargeDone
  with_reducible repeat' first
    | assumption
    | apply Keeps.ite
    | apply Answers.next
    | apply holdupChange_keeps
    | apply wr_keeps

theorem crystalTick_keeps {s₀ : State} (s : State) (h₀ : Keeps s₀ s) : Keeps s₀ (crystalTick s) := by
  unfold crystalTick
  with_reducible repeat' first
    | assumption
    | apply Keeps.ite
    | apply setSentry_keeps
    | apply sentryTick_keeps

theorem cycleTick_keeps {s₀ : State} (s : State) (h₀ : Keeps s₀ s) : Keeps s₀ (cycleTick s) := by
  unfold cycleTick
  with_reducible repeat' (apply Keeps.lit; first | exact Keeps.refl _ | assumption)

theorem pcTake_keeps {s₀ : State} (c : PcCounter) (n : Nat) (s : State) (h₀ : Keeps s₀ s) : Keeps s₀ (pcTake c n s) := by
  unfold pcTake
  with_reducible repeat' first
    | assumption
    | apply Keeps.ite
    | apply pcAdd_keeps

theorem pcDataPath_keeps {s₀ : State} (s : State) (h₀ : Keeps s₀ s) : Keeps s₀ (pcDataPath s) := by
  unfold pcDataPath
  with_reducible repeat' first
    | exact Keeps.refl _
    | assumption
    | (intro _; try dsimp only)
    | apply Keeps.ite
    | apply pcTake_keeps
    | apply Keeps.foldl

theorem pcCore_keeps {s₀ : State} (c : Fin 4) (s : State) (h₀ : Keeps s₀ s) : Keeps s₀ (pcCore c s) := by
  unfold pcCore
  with_reducible repeat' first
    | exact Keeps.refl _
    | assumption
    | (intro _; try dsimp only)
    | apply Keeps.ite
    | apply pcAdd_keeps
    | apply pcTake_keeps
    | apply Keeps.foldl

theorem deckTick_keeps {s₀ : State} (s : State) (h₀ : Keeps s₀ s) : Keeps s₀ (deckTick s) := by
  unfold deckTick
  with_reducible repeat' first
    | (intro _; try dsimp only)
    | apply pcCore_keeps
    | apply count_keeps
    | apply Keeps.foldl
    | (apply Keeps.lit; first | exact Keeps.refl _ | assumption | intro _ | apply Keeps.ite | apply pcDataPath_keeps)

theorem holdTickStep_keeps {s₀ : State} (s : State) (h₀ : Keeps s₀ s) : Keeps s₀ (holdTickStep s) := by
  unfold holdTickStep
  with_reducible repeat' first
    | apply Keeps.ite
    | apply updateHoldExc_keeps
    | (apply Keeps.lit; first | exact Keeps.refl _ | assumption)

theorem hoursTick_keeps {s₀ : State} (s : State) (h₀ : Keeps s₀ s) : Keeps s₀ (hoursTick s) := by
  unfold hoursTick
  with_reducible repeat' first
    | apply Keeps.ite
    | (apply Keeps.lit; first | exact Keeps.refl _ | assumption)

theorem taiTick_keeps {s₀ : State} (s : State) (h₀ : Keeps s₀ s) : Keeps s₀ (taiTick s) := by
  unfold taiTick
  with_reducible repeat' (apply Keeps.lit; first | exact Keeps.refl _ | assumption)

theorem monoTick_keeps {s₀ : State} (s : State) (h₀ : Keeps s₀ s) : Keeps s₀ (monoTick s) := by
  unfold monoTick
  with_reducible repeat' first
    | assumption
    | apply Keeps.ite
    | apply setPair_keeps
    | apply shrCount_keeps

theorem tick_keeps {s₀ : State} (s : State) (h₀ : Keeps s₀ s) : Keeps s₀ (tick s) := by
  unfold tick
  with_reducible repeat' first
    | assumption
    | apply Keeps.ite
    | apply holdTickStep_keeps
    | apply hoursTick_keeps
    | apply crystalTick_keeps
    | apply taiTick_keeps
    | apply monoTick_keeps
    | apply deckTick_keeps
    | apply cycleTick_keeps

theorem idle_keeps {s₀ : State} (run : Instr → State → State) (s : State) (h_run : ∀ (x0 : Instr) (u : State), Keeps u (run x0 u))
    (h₀ : Keeps s₀ s) :
    Keeps s₀ (idle run s) := by
  unfold idle
  with_reducible repeat' first
    | assumption
    | apply hostRetry_keeps
    | apply tick_keeps

theorem accessed_keeps {s₀ : State} (who : Req) (s : State) (h₀ : Keeps s₀ s) : Keeps s₀ (accessed who s) := by
  unfold accessed
  with_reducible repeat' first
    | (apply Keeps.lit; first | exact Keeps.refl _ | assumption | intro _ | apply Keeps.ite | apply Keeps.foldl | apply Keeps.forUpTo)
    | split

end Sys2Proof.Machine
end

