-- ==== Sys2Proof/Laws/Within.lean ====
section
/-!
SUPPORT. Which parts of the state an operation can change (Safety.Within): how operations compose. The files Within<Group>.lean say it
of every operation, one lemma each.
-/

namespace Sys2Proof.Machine

open Sys2Proof

set_option Elab.async false
set_option linter.all false

theorem Within.refl {L : List Part} (s : State) : Within L s s := ⟨fun p _ => by cases p <;> rfl⟩

theorem Within.trans {L : List Part} {r s t : State} (a : Within L r s) (b : Within L s t) : Within L r t := ⟨fun p hp => by
  have h1 := a.same p hp
  have h2 := b.same p hp
  cases p <;> exact Eq.trans h2 h1⟩

theorem Within.mono {L M : List Part} {s t : State} (h : Within L s t) (hl : L ⊆ M) : Within M s t :=
  ⟨fun p hp => h.same p fun q => hp (hl q)⟩

theorem Within.app {L : List Part} {r s : State} {f : State → State} (hf : ∀ u, Within L u (f u)) (h : Within L r s) : Within L r (f s) :=
  h.trans (hf s)

theorem Within.ite {L : List Part} {r a b : State} {c : Prop} [Decidable c] (ha : Within L r a) (hb : Within L r b) :
    Within L r (if c then a else b) := by
  split <;> assumption

theorem Within.foldl {α : Type} {L : List Part} {r s : State} {f : State → α → State} {l : List α} (h : Within L r s)
    (hf : ∀ u x, Within L u (f u x)) : Within L r (l.foldl f s) := by
  induction l generalizing s with
  | nil => exact h
  | cons x l ih => exact ih (h.trans (hf s x))

theorem Within.forUpTo {L : List Part} {r s : State} {f : Nat → State → State} {n : Nat} (h : Within L r s)
    (hf : ∀ k u, Within L u (f k u)) : Within L r (forUpTo n f s) := Within.foldl h (fun u k => hf k u)

theorem Within.foldlFst {α β : Type} {L : List Part} {r : State} {f : State × β → α → State × β} {l : List α} {p : State × β}
    (h : Within L r p.1) (hf : ∀ p x, Within L r p.1 → Within L r (f p x).1) : Within L r (l.foldl f p).1 := by
  induction l generalizing p with
  | nil => exact h
  | cons x l ih => exact ih (hf p x h)

/-- A state made by replacing parts of another. -/
theorem Within.lit {L : List Part} {r t : State} {regs : NMap Word} {live : NMap Nat} {ticks : Nat} {tai : Nat} {free : Nat} {mast : Mast} {host : HostIf} {deck : Deck} {ports : NMap Port} {ing : Ingest} {mkt : Market} {scales : Scales} {cap : Capture} {pak : Packer} {nest : Nest} {egr : Egress} {pair : Pair} {till : Till} {mem : MemInt} {ledger : Ledger} {sentry : Sentry} {boot : Boot} {power : Power} {nodeOk : Bool} {cfg : Image} {out : List OutMsg} (h : Within L r t)
    (h_regs : .regs ∈ L ∨ regs = t.regs) (h_live : .live ∈ L ∨ live = t.live) (h_ticks : .ticks ∈ L ∨ ticks = t.ticks) (h_tai : .tai ∈ L ∨ tai = t.tai) (h_free : .free ∈ L ∨ free = t.free) (h_mast : .mast ∈ L ∨ mast = t.mast) (h_host : .host ∈ L ∨ host = t.host) (h_deck : .deck ∈ L ∨ deck = t.deck) (h_ports : .ports ∈ L ∨ ports = t.ports) (h_ing : .ing ∈ L ∨ ing = t.ing) (h_mkt : .mkt ∈ L ∨ mkt = t.mkt) (h_scales : .scales ∈ L ∨ scales = t.scales) (h_cap : .cap ∈ L ∨ cap = t.cap) (h_pak : .pak ∈ L ∨ pak = t.pak) (h_nest : .nest ∈ L ∨ nest = t.nest) (h_egr : .egr ∈ L ∨ egr = t.egr) (h_pair : .pair ∈ L ∨ pair = t.pair) (h_till : .till ∈ L ∨ till = t.till) (h_mem : .mem ∈ L ∨ mem = t.mem) (h_ledger : .ledger ∈ L ∨ ledger = t.ledger) (h_sentry : .sentry ∈ L ∨ sentry = t.sentry) (h_boot : .boot ∈ L ∨ boot = t.boot) (h_power : .power ∈ L ∨ power = t.power) (h_nodeOk : .nodeOk ∈ L ∨ nodeOk = t.nodeOk) (h_cfg : .cfg ∈ L ∨ cfg = t.cfg) (h_out : .out ∈ L ∨ out = t.out) :
    Within L r ⟨regs, live, ticks, tai, free, mast, host, deck, ports, ing, mkt, scales, cap, pak, nest, egr, pair, till, mem, ledger, sentry, boot, power, nodeOk, cfg, out, t.pending⟩ := by
  refine h.trans ⟨fun p hp => ?_⟩
  cases p <;> first | rfl | exact (Or.resolve_left (by assumption) hp)

/-- The command answers a next state in which nothing changes outside the parts `L`. -/
def AnswersIn (L : List Part) (r : State) (o : Host.Outcome State Fault Refusal) : Prop := ∃ t, o = .next t ∧ Within L r t

theorem AnswersIn.next {L : List Part} {r t : State} (h : Within L r t) : AnswersIn L r (.next t) := ⟨t, rfl, h⟩
theorem AnswersIn.inFull {L : List Part} {r s t : State} (h : Within L r s) (k : Within L r t) : AnswersIn L r (inFull s t) :=
  ⟨_, rfl, Within.ite k h⟩
theorem AnswersIn.powered {L : List Part} {r s t : State} (h : Within L r s) (k : Within L r t) : AnswersIn L r (powered s t) :=
  ⟨_, rfl, Within.ite h k⟩
theorem done_within {L : List Part} {r t : State} (h : Within L r t) (_ : ([] : List Part) ⊆ L) : AnswersIn L r (done t) := ⟨_, rfl, h⟩

end Sys2Proof.Machine
end

