-- ==== Sys2Proof/Laws/WithinShared.lean ====
section
/-!
SUPPORT. Which parts each operation can change (Safety.Within): the operations of Ops, the queues, the ports, the rules, the energy records and the packer.
-/

namespace Sys2Proof.Machine

open Sys2Proof

set_option Elab.async false
set_option linter.all false

set_option maxRecDepth 4000

theorem emit_within {L : List Part} {s₀ : State} (m : OutMsg) (s : State) (h₀ : Within L s₀ s)
    (hL : [.out] ⊆ L) : Within L s₀ (emit m s) := by
  unfold emit
  repeat' ((with_reducible apply Within.lit); all_goals first | exact Or.inl (hL (by decide)) | with_reducible exact Or.inr rfl | with_reducible assumption)

theorem answer_within {L : List Part} {s₀ : State} (who : Req) (v : BitVec 64) (s : State) (h₀ : Within L s₀ s)
    (hL : [.out] ⊆ L) : Within L s₀ (answer who v s) := by
  unfold answer
  with_reducible repeat' first
    | assumption
    | apply emit_within

theorem wr_within {L : List Part} {s₀ : State} (a : Nat) (v : Word) (s : State) (h₀ : Within L s₀ s)
    (hL : [.regs] ⊆ L) : Within L s₀ (wr a v s) := by
  unfold wr
  repeat' ((with_reducible apply Within.lit); all_goals first | exact Or.inl (hL (by decide)) | with_reducible exact Or.inr rfl | with_reducible assumption)

theorem wrF_within {L : List Part} {s₀ : State} (a : Nat) (lo : Nat) (n : Nat) (v : Nat) (s : State) (h₀ : Within L s₀ s)
    (hL : [.regs] ⊆ L) : Within L s₀ (wrF a lo n v s) := by
  unfold wrF
  with_reducible repeat' first
    | assumption
    | apply wr_within

theorem bumpF_within {L : List Part} {s₀ : State} (a : Nat) (lo : Nat) (n : Nat) (s : State) (h₀ : Within L s₀ s)
    (hL : [.regs] ⊆ L) : Within L s₀ (bumpF a lo n s) := by
  unfold bumpF
  with_reducible repeat' first
    | assumption
    | apply wrF_within

theorem bumpSat_within {L : List Part} {s₀ : State} (a : Nat) (s : State) (h₀ : Within L s₀ s)
    (hL : [.regs] ⊆ L) : Within L s₀ (bumpSat a s) := by
  unfold bumpSat
  with_reducible repeat' first
    | assumption
    | apply wr_within

theorem count_within {L : List Part} {s₀ : State} (a : Nat) (n : Nat) (s : State) (h₀ : Within L s₀ s)
    (hL : [.live] ⊆ L) : Within L s₀ (count a n s) := by
  unfold count
  repeat' ((with_reducible apply Within.lit); all_goals first | exact Or.inl (hL (by decide)) | with_reducible exact Or.inr rfl | with_reducible assumption)

theorem sendVector_within {L : List Part} {s₀ : State} (v : Nat) (s : State) (h₀ : Within L s₀ s)
    (hL : [.host, .out] ⊆ L) : Within L s₀ (sendVector v s) := by
  unfold sendVector
  repeat' first
    | exact List.Subset.trans (by decide) hL
    | ((with_reducible apply Within.lit); all_goals first | exact Or.inl (hL (by decide)) | with_reducible exact Or.inr rfl | with_reducible assumption | with_reducible apply Within.ite | with_reducible apply emit_within)

theorem vectorEdge_within {L : List Part} {s₀ : State} (v : Nat) (s : State) (t : State) (h₀ : Within L s₀ t)
    (hL : [.host, .out] ⊆ L) : Within L s₀ (vectorEdge v s t) := by
  unfold vectorEdge
  with_reducible repeat' first
    | assumption
    | apply Within.ite
    | apply sendVector_within

theorem setInt_within {L : List Part} {s₀ : State} (a : Nat) (k : Nat) (s : State) (h₀ : Within L s₀ s)
    (hL : [.regs, .host, .out] ⊆ L) : Within L s₀ (setInt a k s) := by
  unfold setInt
  with_reducible repeat' first
    | assumption
    | exact List.Subset.trans (by decide) hL
    | apply vectorEdge_within
    | apply wr_within

theorem offerPost_within {L : List Part} {s₀ : State} (src : PostSource) (t : Nat) (s : State) (h₀ : Within L s₀ s)
    (hL : [.regs, .host, .deck, .out] ⊆ L) : Within L s₀ (offerPost src t s) := by
  unfold offerPost
  repeat' first
    | exact List.Subset.trans (by decide) hL
    | ((with_reducible apply Within.lit); all_goals first | exact Or.inl (hL (by decide)) | with_reducible exact Or.inr rfl | with_reducible assumption | with_reducible apply Within.ite | with_reducible apply setInt_within)

theorem raise_within {L : List Part} {s₀ : State} (a : Nat) (k : Nat) (s : State) (h₀ : Within L s₀ s)
    (hL : [.regs, .host, .deck, .out] ⊆ L) : Within L s₀ (raise a k s) := by
  unfold raise
  with_reducible repeat' first
    | exact Within.refl _
    | assumption
    | exact List.Subset.trans (by decide) hL
    | (intro _; try dsimp only)
    | apply Within.ite
    | apply offerPost_within
    | apply setInt_within
    | apply Within.foldl

theorem countDrop_within {L : List Part} {s₀ : State} (sev : Nat) (s : State) (h₀ : Within L s₀ s)
    (hL : [.regs, .host, .deck, .ledger, .out] ⊆ L) : Within L s₀ (countDrop sev s) := by
  unfold countDrop
  repeat' first
    | exact List.Subset.trans (by decide) hL
    | ((with_reducible apply Within.lit); all_goals first | exact Or.inl (hL (by decide)) | with_reducible exact Or.inr rfl | with_reducible assumption | with_reducible apply bumpSat_within | with_reducible apply raise_within)

theorem drawFree_within {L : List Part} {s₀ : State} (s : State) (h₀ : Within L s₀ s)
    (hL : [.free] ⊆ L) : Within L s₀ (drawFree s) := by
  unfold drawFree
  repeat' ((with_reducible apply Within.lit); all_goals first | exact Or.inl (hL (by decide)) | with_reducible exact Or.inr rfl | with_reducible assumption)

theorem setWindow_within {L : List Part} {s₀ : State} (w : Nat) (x : Window) (s : State) (h₀ : Within L s₀ s)
    (hL : [.host] ⊆ L) : Within L s₀ (setWindow w x s) := by
  unfold setWindow
  repeat' ((with_reducible apply Within.lit); all_goals first | exact Or.inl (hL (by decide)) | with_reducible exact Or.inr rfl | with_reducible assumption)

theorem endWindow_within {L : List Part} {s₀ : State} (w : Win) (why : Nat) (s : State) (h₀ : Within L s₀ s)
    (hL : [.host] ⊆ L) : Within L s₀ (endWindow w why s) := by
  unfold endWindow
  with_reducible repeat' first
    | assumption
    | apply Within.ite
    | apply setWindow_within

theorem flushAsked_within {L : List Part} {s₀ : State} (sev : Nat) (s : State) (h₀ : Within L s₀ s)
    (hL : [.ledger] ⊆ L) : Within L s₀ (flushAsked sev s) := by
  unfold flushAsked
  repeat' ((with_reducible apply Within.lit); all_goals first | exact Or.inl (hL (by decide)) | with_reducible exact Or.inr rfl | with_reducible assumption)

theorem holdWrite_within {L : List Part} {s₀ : State} (c : Instr) (who : Req) (s : State) (h₀ : Within L s₀ s)
    (hL : [.host] ⊆ L) : Within L s₀ (holdWrite c who s) := by
  unfold holdWrite
  repeat' first
    | ((with_reducible apply Within.lit); all_goals first | exact Or.inl (hL (by decide)) | with_reducible exact Or.inr rfl | with_reducible assumption)
    | split

theorem hostServe_within {L : List Part} {s₀ : State} (c : Instr) (ofs : Nat) (f : State → State) (s : State) (h_f : ∀ (u : State), Within L u (f u))
    (h₀ : Within L s₀ s)
    (hL : [.host] ⊆ L) : Within L s₀ (hostServe c ofs f s) := by
  unfold hostServe
  repeat' ((with_reducible apply Within.lit); all_goals first | exact Or.inl (hL (by decide)) | with_reducible exact Or.inr rfl | with_reducible assumption | with_reducible apply Within.ite | with_reducible apply Within.app h_f)

theorem logEvent_within {L : List Part} {s₀ : State} (src : Nat) (code : Nat) (sev : Nat) (key : Word) (data : List Word) (s : State)
    (h₀ : Within L s₀ s)
    (hL : [.regs, .host, .deck, .ledger, .out] ⊆ L) : Within L s₀ (logEvent src code sev key data s) := by
  unfold logEvent
  repeat' first
    | exact List.Subset.trans (by decide) hL
    | ((with_reducible apply Within.lit); all_goals first | exact Or.inl (hL (by decide)) | with_reducible exact Or.inr rfl | with_reducible assumption | with_reducible apply countDrop_within | with_reducible apply flushAsked_within)
    | split

theorem openEmpty_within {L : List Part} {s₀ : State} (w : Win) (why : Nat) (s : State) (h₀ : Within L s₀ s)
    (hL : [.host] ⊆ L) : Within L s₀ (openEmpty w why s) := by
  unfold openEmpty
  with_reducible repeat' first
    | assumption
    | apply setWindow_within

theorem openWindow_within {L : List Part} {s₀ : State} (w : Win) (ws : List (BitVec 64)) (pad : Nat) (s : State)
    (h₀ : Within L s₀ s)
    (hL : [.host] ⊆ L) : Within L s₀ (openWindow w ws pad s) := by
  unfold openWindow
  with_reducible repeat' first
    | assumption
    | apply setWindow_within

theorem serve_within {L : List Part} {s₀ : State} (c : Instr) (who : Req) (ofs : Nat) (f : State → State) (s : State) (h_f : ∀ (u : State), Within L u (f u))
    (h₀ : Within L s₀ s)
    (hL : [.host] ⊆ L) : Within L s₀ (serve c who ofs f s) := by
  unfold serve
  with_reducible repeat' first
    | assumption
    | apply Within.app h_f
    | apply hostServe_within
    | split

theorem setStat_within {L : List Part} {s₀ : State} (a : Nat) (k : Nat) (b : Bool) (s : State) (h₀ : Within L s₀ s)
    (hL : [.regs] ⊆ L) : Within L s₀ (setStat a k b s) := by
  unfold setStat
  with_reducible repeat' first
    | assumption
    | apply wr_within

theorem setThread_within {L : List Part} {s₀ : State} (t : Nat) (x : Thread) (s : State) (h₀ : Within L s₀ s)
    (hL : [.deck] ⊆ L) : Within L s₀ (setThread t x s) := by
  unfold setThread
  repeat' ((with_reducible apply Within.lit); all_goals first | exact Or.inl (hL (by decide)) | with_reducible exact Or.inr rfl | with_reducible assumption)

theorem wr64_within {L : List Part} {s₀ : State} (a : Nat) (v : Nat) (s : State) (h₀ : Within L s₀ s)
    (hL : [.regs] ⊆ L) : Within L s₀ (wr64 a v s) := by
  unfold wr64
  with_reducible repeat' first
    | assumption
    | apply wr_within

theorem snapOne_within {L : List Part} {s₀ : State} (clr : Bool) (a : Nat) (s : State)
    (h₀ : Within L s₀ s) (hL : [.regs, .live] ⊆ L) :
    Within L s₀ (snapOne clr a s) := by
  have h := wr64_within a (liveCnt s a) s h₀ (List.Subset.trans (by decide) hL)
  unfold snapOne
  split
  · refine h.trans ⟨fun p hp => ?_⟩
    cases p <;> first | rfl | exact absurd (hL (by decide)) hp
  · exact h

theorem snapshot_within {L : List Part} {s₀ : State} (base n seq : Nat) (clr : Bool) (s : State)
    (h₀ : Within L s₀ s) (hL : [.regs, .live] ⊆ L) :
    Within L s₀ (snapshot base n seq clr s) :=
  bumpF_within _ _ _ _ (Within.forUpTo h₀ fun _ u => snapOne_within _ _ u (Within.refl u) hL) (List.Subset.trans (by decide) hL)

theorem wrWords_within {L : List Part} {s₀ : State} (a : Nat) (l : List Word) (s : State)
    (h₀ : Within L s₀ s) (hL : [.regs] ⊆ L) :
    Within L s₀ (wrWords a l s) := by
  induction l generalizing a s with
  | nil => exact h₀
  | cons w ws ih => exact ih _ _ (wr_within _ _ _ h₀ hL)

theorem updateHoldExc_within {L : List Part} {s₀ : State} (s : State) (h₀ : Within L s₀ s)
    (hL : [.mast] ⊆ L) : Within L s₀ (updateHoldExc s) := by
  unfold updateHoldExc
  repeat' ((with_reducible apply Within.lit); all_goals first | exact Or.inl (hL (by decide)) | with_reducible exact Or.inr rfl | with_reducible assumption)

theorem portCount_within {L : List Part} {s₀ : State} (p : Nat) (k : Nat) (n : Nat) (s : State) (h₀ : Within L s₀ s)
    (hL : [.live] ⊆ L) : Within L s₀ (portCount p k n s) := by
  unfold portCount
  with_reducible repeat' first
    | assumption
    | apply count_within

theorem setPort_within {L : List Part} {s₀ : State} (p : Nat) (x : Port) (s : State) (h₀ : Within L s₀ s)
    (hL : [.ports] ⊆ L) : Within L s₀ (setPort p x s) := by
  unfold setPort
  repeat' ((with_reducible apply Within.lit); all_goals first | exact Or.inl (hL (by decide)) | with_reducible exact Or.inr rfl | with_reducible assumption)

theorem leaveTxLpi_within {L : List Part} {s₀ : State} (p : Nat) (s : State) (h₀ : Within L s₀ s)
    (hL : [.live, .ports] ⊆ L) : Within L s₀ (leaveTxLpi p s) := by
  unfold leaveTxLpi
  with_reducible repeat' first
    | assumption
    | exact List.Subset.trans (by decide) hL
    | apply Within.ite
    | apply portCount_within
    | apply setPort_within

theorem setLedger_within {L : List Part} {s₀ : State} (f : Ledger → Ledger) (s : State) (h₀ : Within L s₀ s)
    (hL : [.ledger] ⊆ L) : Within L s₀ (setLedger f s) := by
  unfold setLedger
  repeat' ((with_reducible apply Within.lit); all_goals first | exact Or.inl (hL (by decide)) | with_reducible exact Or.inr rfl | with_reducible assumption)

theorem ledgerOverrun_within {L : List Part} {s₀ : State} (s : State) (h₀ : Within L s₀ s)
    (hL : [.regs, .host, .ledger] ⊆ L) : Within L s₀ (ledgerOverrun s) := by
  unfold ledgerOverrun
  with_reducible repeat' first
    | assumption
    | exact List.Subset.trans (by decide) hL
    | apply endWindow_within
    | apply setLedger_within
    | apply wr_within

theorem energyOverrun_within {L : List Part} {s₀ : State} (ws : List Word) (s : State) (h₀ : Within L s₀ s)
    (hL : [.regs, .host, .ledger] ⊆ L) : Within L s₀ (energyOverrun ws s) := by
  unfold energyOverrun
  with_reducible repeat' first
    | assumption
    | apply Within.ite
    | apply ledgerOverrun_within

theorem eventOverrun_within {L : List Part} {s₀ : State} (epoch : Nat) (seq : Nat) (s : State) (h₀ : Within L s₀ s)
    (hL : [.regs, .host, .ledger] ⊆ L) : Within L s₀ (eventOverrun epoch seq s) := by
  unfold eventOverrun
  with_reducible repeat' first
    | assumption
    | apply Within.ite
    | apply ledgerOverrun_within

theorem svcReply_within {L : List Part} {s₀ : State} (cmd : Nat) (status : Nat) (seq : Word) (payload : List Nat) (s : State)
    (h₀ : Within L s₀ s)
    (hL : [.free, .out] ⊆ L) : Within L s₀ (svcReply cmd status seq payload s) := by
  unfold svcReply
  with_reducible repeat' first
    | assumption
    | exact List.Subset.trans (by decide) hL
    | apply emit_within
    | apply drawFree_within

theorem putOuts_within {L : List Part} {s₀ : State} (i : Nat) (ws : List Nat) (s : State) (h₀ : Within L s₀ s)
    (hL : [.regs] ⊆ L) : Within L s₀ (putOuts i ws s) := by
  unfold putOuts
  with_reducible repeat' first
    | exact Within.refl _
    | assumption
    | (intro _; try dsimp only)
    | apply wr_within
    | apply Within.forUpTo

theorem putMbox_within {L : List Part} {s₀ : State} (i : Nat) (bs : List Nat) (s : State) (h₀ : Within L s₀ s)
    (hL : [.regs] ⊆ L) : Within L s₀ (putMbox i bs s) := by
  unfold putMbox
  with_reducible repeat' first
    | exact Within.refl _
    | assumption
    | (intro _; try dsimp only)
    | apply wr_within
    | apply Within.forUpTo

theorem putResult_within {L : List Part} {s₀ : State} (r : TillReq) (o : TillOut) (s : State) (h₀ : Within L s₀ s)
    (hL : [.regs, .free, .host, .deck, .out] ⊆ L) : Within L s₀ (putResult r o s) := by
  unfold putResult
  with_reducible repeat' first
    | assumption
    | exact List.Subset.trans (by decide) hL
    | apply Within.ite
    | apply putOuts_within
    | apply wr_within
    | apply raise_within
    | apply putMbox_within
    | apply svcReply_within

theorem abortRunning_within {L : List Part} {s₀ : State} (s : State) (h₀ : Within L s₀ s)
    (hL : [.regs, .free, .host, .deck, .till, .out] ⊆ L) : Within L s₀ (abortRunning s) := by
  unfold abortRunning
  repeat' first
    | exact List.Subset.trans (by decide) hL
    | ((with_reducible apply Within.lit); all_goals first | exact Or.inl (hL (by decide)) | with_reducible exact Or.inr rfl | with_reducible assumption | with_reducible apply putResult_within)
    | split

theorem setAuth_within {L : List Part} {s₀ : State} (op : Nat) (x : Option AuthReq) (s : State) (h₀ : Within L s₀ s)
    (hL : [.till] ⊆ L) : Within L s₀ (setAuth op x s) := by
  unfold setAuth
  repeat' ((with_reducible apply Within.lit); all_goals first | exact Or.inl (hL (by decide)) | with_reducible exact Or.inr rfl | with_reducible assumption)

theorem setSlot_within {L : List Part} {s₀ : State} (n : Nat) (x : TillSlot) (s : State) (h₀ : Within L s₀ s)
    (hL : [.till] ⊆ L) : Within L s₀ (setSlot n x s) := by
  unfold setSlot
  repeat' ((with_reducible apply Within.lit); all_goals first | exact Or.inl (hL (by decide)) | with_reducible exact Or.inr rfl | with_reducible assumption)

theorem orphan_within {L : List Part} {s₀ : State} (n : Nat) (s : State) (h₀ : Within L s₀ s)
    (hL : [.till] ⊆ L) : Within L s₀ (orphan n s) := by
  unfold orphan
  with_reducible repeat' first
    | assumption
    | apply setSlot_within

theorem destroySlot_within {L : List Part} {s₀ : State} (n : Nat) (s : State) (h₀ : Within L s₀ s)
    (hL : [.till] ⊆ L) : Within L s₀ (destroySlot n s) := by
  unfold destroySlot
  repeat' first
    | with_reducible assumption
    | (intro _; try dsimp only)
    | ((with_reducible apply Within.lit); all_goals first | exact Or.inl (hL (by decide)) | with_reducible exact Or.inr rfl | with_reducible exact Within.refl _ | with_reducible assumption | with_reducible apply orphan_within | with_reducible apply setSlot_within | with_reducible apply Within.foldl)

theorem applyEffect_within {L : List Part} {s₀ : State} (e : TillEffect) (s : State) (h₀ : Within L s₀ s)
    (hL : [.regs, .host, .deck, .till, .ledger, .out] ⊆ L) : Within L s₀ (applyEffect e s) := by
  unfold applyEffect
  repeat' first
    | exact List.Subset.trans (by decide) hL
    | (intro _; try dsimp only)
    | ((with_reducible apply Within.lit); all_goals first | exact Or.inl (hL (by decide)) | with_reducible exact Or.inr rfl | with_reducible exact Within.refl _ | with_reducible assumption | with_reducible apply Within.ite | with_reducible apply logEvent_within | with_reducible apply setAuth_within | with_reducible apply openWindow_within | with_reducible apply wr_within | with_reducible apply raise_within | with_reducible apply destroySlot_within | with_reducible apply setSlot_within | with_reducible apply Within.foldl)
    | split

theorem latchTamper_within {L : List Part} {s₀ : State} (src : Nat) (s : State) (h₀ : Within L s₀ s)
    (hL : [.regs] ⊆ L) : Within L s₀ (latchTamper src s) := by
  unfold latchTamper
  with_reducible repeat' first
    | assumption
    | apply Within.ite
    | apply wr_within

theorem setOpen_within {L : List Part} {s₀ : State} (i : Nat) (x : Option TillOpen) (s : State) (h₀ : Within L s₀ s)
    (hL : [.till] ⊆ L) : Within L s₀ (setOpen i x s) := by
  unfold setOpen
  repeat' ((with_reducible apply Within.lit); all_goals first | exact Or.inl (hL (by decide)) | with_reducible exact Or.inr rfl | with_reducible assumption)

theorem tillFinish_within {L : List Part} {s₀ : State} (s : State) (h₀ : Within L s₀ s)
    (hL : [.regs, .free, .host, .deck, .till, .ledger, .out] ⊆ L) : Within L s₀ (tillFinish s) := by
  unfold tillFinish
  repeat' first
    | exact List.Subset.trans (by decide) hL
    | ((with_reducible apply Within.lit); all_goals first | exact Or.inl (hL (by decide)) | with_reducible exact Or.inr rfl | with_reducible assumption | with_reducible apply applyEffect_within | with_reducible apply putResult_within)
    | split

theorem tillStart_within {L : List Part} {s₀ : State} (s : State) (h₀ : Within L s₀ s)
    (hL : [.regs, .free, .till] ⊆ L) : Within L s₀ (tillStart s) := by
  unfold tillStart
  repeat' first
    | exact List.Subset.trans (by decide) hL
    | ((with_reducible apply Within.lit); all_goals first | exact Or.inl (hL (by decide)) | with_reducible exact Or.inr rfl | with_reducible assumption | with_reducible apply setOpen_within | with_reducible apply drawFree_within | with_reducible apply putMbox_within)
    | split

theorem zeroizeAll_within {L : List Part} {s₀ : State} (s : State) (h₀ : Within L s₀ s)
    (hL : [.till] ⊆ L) : Within L s₀ (zeroizeAll s) := by
  unfold zeroizeAll
  repeat' ((with_reducible apply Within.lit); all_goals first | exact Or.inl (hL (by decide)) | with_reducible exact Or.inr rfl | with_reducible assumption)

theorem egrCount_within {L : List Part} {s₀ : State} (k : Nat) (n : Nat) (s : State) (h₀ : Within L s₀ s)
    (hL : [.live] ⊆ L) : Within L s₀ (egrCount k n s) := by
  unfold egrCount
  with_reducible repeat' first
    | assumption
    | apply count_within

theorem nextItem_within {L : List Part} {s₀ : State} (s : State) (h₀ : Within L s₀ s)
    (hL : [.egr] ⊆ L) : Within L s₀ (nextItem s) := by
  unfold nextItem
  repeat' ((with_reducible apply Within.lit); all_goals first | exact Or.inl (hL (by decide)) | with_reducible exact Or.inr rfl | with_reducible assumption)

theorem setQueue_within {L : List Part} {s₀ : State} (q : Nat) (x : Queue) (s : State) (h₀ : Within L s₀ s)
    (hL : [.egr] ⊆ L) : Within L s₀ (setQueue q x s) := by
  unfold setQueue
  repeat' ((with_reducible apply Within.lit); all_goals first | exact Or.inl (hL (by decide)) | with_reducible exact Or.inr rfl | with_reducible assumption)

theorem countFrame_within {L : List Part} {s₀ : State} (o : Option Nat) (s : State) (h₀ : Within L s₀ s)
    (hL : [.live, .egr] ⊆ L) : Within L s₀ (countFrame o s) := by
  unfold countFrame
  repeat' first
    | exact List.Subset.trans (by decide) hL
    | ((with_reducible apply Within.lit); all_goals first | exact Or.inl (hL (by decide)) | with_reducible exact Or.inr rfl | with_reducible assumption | with_reducible apply egrCount_within)
    | split

theorem qLand_within {L : List Part} {s₀ : State} (q : Nat) (i : QItem) (s : State) (h₀ : Within L s₀ s)
    (hL : [.regs, .live, .host, .deck, .ports, .egr, .out] ⊆ L) : Within L s₀ (qLand q i s) := by
  unfold qLand
  with_reducible repeat' first
    | assumption
    | exact List.Subset.trans (by decide) hL
    | apply Within.ite
    | apply setQueue_within
    | apply countFrame_within
    | apply leaveTxLpi_within
    | apply raise_within

theorem compose_within {L : List Part} {s₀ : State} (q : Nat) (prio : Nat) (len : Nat) (alarm : Bool) (stream : Option Nat) (body : TxBody) (s : State)
    (h₀ : Within L s₀ s)
    (hL : [.regs, .live, .host, .deck, .ports, .egr, .out] ⊆ L) : Within L s₀ (compose q prio len alarm stream body s) := by
  unfold compose
  repeat' first
    | exact List.Subset.trans (by decide) hL
    | ((with_reducible apply Within.lit); all_goals first | exact Or.inl (hL (by decide)) | with_reducible exact Or.inr rfl | with_reducible assumption | with_reducible apply Within.ite | with_reducible apply egrCount_within | with_reducible apply nextItem_within | with_reducible apply raise_within | with_reducible apply qLand_within)

theorem setPub_within {L : List Part} {s₀ : State} (p : Nat) (x : PubSt) (s : State) (h₀ : Within L s₀ s)
    (hL : [.egr] ⊆ L) : Within L s₀ (setPub p x s) := by
  unfold setPub
  repeat' ((with_reducible apply Within.lit); all_goals first | exact Or.inl (hL (by decide)) | with_reducible exact Or.inr rfl | with_reducible assumption)

theorem pubTransmit_within {L : List Part} {s₀ : State} (p : Nat) (s : State) (h₀ : Within L s₀ s)
    (hL : [.regs, .live, .host, .deck, .ports, .egr, .out] ⊆ L) : Within L s₀ (pubTransmit p s) := by
  unfold pubTransmit
  with_reducible repeat' first
    | assumption
    | exact List.Subset.trans (by decide) hL
    | apply Within.ite
    | apply egrCount_within
    | apply setPub_within
    | apply compose_within
    | apply raise_within
    | split

theorem pubNew_within {L : List Part} {s₀ : State} (p : Nat) (a : Option AlarmRec) (s : State) (h₀ : Within L s₀ s)
    (hL : [.regs, .live, .host, .deck, .ports, .egr, .out] ⊆ L) : Within L s₀ (pubNew p a s) := by
  unfold pubNew
  with_reducible repeat' first
    | assumption
    | exact List.Subset.trans (by decide) hL
    | apply setPub_within
    | apply pubTransmit_within
    | split

theorem pubAll_within {L : List Part} {s₀ : State} (s : State) (h₀ : Within L s₀ s)
    (hL : [.regs, .live, .host, .deck, .ports, .egr, .out] ⊆ L) : Within L s₀ (pubAll s) := by
  unfold pubAll
  with_reducible repeat' first
    | exact Within.refl _
    | assumption
    | (intro _; try dsimp only)
    | apply Within.ite
    | apply pubNew_within
    | apply Within.foldl

theorem nodeEdge_within {L : List Part} {s₀ : State} (s : State) (t : State) (h₀ : Within L s₀ t)
    (hL : [.regs, .live, .host, .deck, .ports, .egr, .out] ⊆ L) : Within L s₀ (nodeEdge s t) := by
  unfold nodeEdge
  with_reducible repeat' first
    | assumption
    | apply Within.ite
    | apply pubAll_within

theorem mastTo_within {L : List Part} {s₀ : State} (st : MastState) (s : State) (h₀ : Within L s₀ s)
    (hL : [.regs, .live, .mast, .host, .deck, .ports, .egr, .out] ⊆ L) : Within L s₀ (mastTo st s) := by
  unfold mastTo
  repeat' first
    | exact List.Subset.trans (by decide) hL
    | ((with_reducible apply Within.lit); all_goals first | exact Or.inl (hL (by decide)) | with_reducible exact Or.inr rfl | with_reducible assumption | with_reducible apply nodeEdge_within | with_reducible apply raise_within)

theorem updateNodeOk_within {L : List Part} {s₀ : State} (s : State) (h₀ : Within L s₀ s)
    (hL : [.regs, .live, .host, .deck, .ports, .egr, .boot, .nodeOk, .out] ⊆ L) : Within L s₀ (updateNodeOk s) := by
  unfold updateNodeOk
  repeat' first
    | exact List.Subset.trans (by decide) hL
    | ((with_reducible apply Within.lit); all_goals first | exact Or.inl (hL (by decide)) | with_reducible exact Or.inr rfl | with_reducible assumption | with_reducible apply nodeEdge_within)

theorem capChange_within {L : List Part} {s₀ : State} (e : CapEv) (s : State) (h₀ : Within L s₀ s)
    (hL : [.cap] ⊆ L) : Within L s₀ (capChange e s) := by
  unfold capChange
  repeat' ((with_reducible apply Within.lit); all_goals first | exact Or.inl (hL (by decide)) | with_reducible exact Or.inr rfl | with_reducible assumption)

theorem capEvent_within {L : List Part} {s₀ : State} (src : Nat) (time : Nat) (level : Bool) (edge : Bool) (s : State)
    (h₀ : Within L s₀ s)
    (hL : [.cap] ⊆ L) : Within L s₀ (capEvent src time level edge s) := by
  unfold capEvent
  with_reducible repeat' first
    | assumption
    | apply capChange_within

theorem setEntry_within {L : List Part} {s₀ : State} (e : Nat) (x : SchEntry) (s : State) (h₀ : Within L s₀ s)
    (hL : [.mast] ⊆ L) : Within L s₀ (setEntry e x s) := by
  unfold setEntry
  repeat' ((with_reducible apply Within.lit); all_goals first | exact Or.inl (hL (by decide)) | with_reducible exact Or.inr rfl | with_reducible assumption)

theorem schTarget_within {L : List Part} {s₀ : State} (e : Nat) (s : State) (h₀ : Within L s₀ s)
    (hL : [.regs, .mast, .host, .deck, .scales, .cap, .out] ⊆ L) : Within L s₀ (schTarget e s) := by
  unfold schTarget
  try dsimp only
  repeat' first
    | exact List.Subset.trans (by decide) hL
    | ((with_reducible apply Within.lit); all_goals first | exact Or.inl (hL (by decide)) | with_reducible exact Or.inr rfl | with_reducible assumption | with_reducible apply setEntry_within | with_reducible apply raise_within | with_reducible apply capEvent_within)
    | split

theorem schOccur_within {L : List Part} {s₀ : State} (e : Nat) (late : Bool) (s : State) (h₀ : Within L s₀ s)
    (hL : [.regs, .mast, .host, .deck, .scales, .cap, .out] ⊆ L) : Within L s₀ (schOccur e late s) := by
  unfold schOccur
  with_reducible repeat' first
    | assumption
    | exact List.Subset.trans (by decide) hL
    | apply Within.ite
    | apply schTarget_within
    | apply setEntry_within
    | apply raise_within

theorem storePast_within {L : List Part} {s₀ : State} (e : Nat) (x : SchEntry) (s : State) (h₀ : Within L s₀ s)
    (hL : [.regs, .mast, .host, .deck, .scales, .cap, .out] ⊆ L) : Within L s₀ (storePast e x s) := by
  unfold storePast
  with_reducible repeat' first
    | assumption
    | exact List.Subset.trans (by decide) hL
    | apply Within.ite
    | apply setEntry_within
    | apply schOccur_within
    | apply raise_within

theorem schStore_within {L : List Part} {s₀ : State} (s : State) (h₀ : Within L s₀ s)
    (hL : [.regs, .mast, .host, .deck, .scales, .cap, .out] ⊆ L) : Within L s₀ (schStore s) := by
  unfold schStore
  with_reducible repeat' first
    | assumption
    | exact List.Subset.trans (by decide) hL
    | apply Within.ite
    | apply wrF_within
    | apply setEntry_within
    | apply storePast_within

theorem sendPfcWith_within {L : List Part} {s₀ : State} (f : Port → Port) (p : Nat) (quanta : Nat) (s : State)
    (h₀ : Within L s₀ s)
    (hL : [.live, .ports, .out] ⊆ L) : Within L s₀ (sendPfcWith f p quanta s) := by
  unfold sendPfcWith
  with_reducible repeat' first
    | assumption
    | exact List.Subset.trans (by decide) hL
    | apply portCount_within
    | apply emit_within
    | apply leaveTxLpi_within
    | apply setPort_within

theorem sendPfc_within {L : List Part} {s₀ : State} (p : Nat) (quanta : Nat) (s : State) (h₀ : Within L s₀ s)
    (hL : [.live, .ports, .out] ⊆ L) : Within L s₀ (sendPfc p quanta s) := by
  unfold sendPfc
  with_reducible repeat' first
    | assumption
    | apply sendPfcWith_within

theorem bufReach_within {L : List Part} {s₀ : State} (p : Nat) (bytes : Nat) (s : State) (h₀ : Within L s₀ s)
    (hL : [.live, .ports, .out] ⊆ L) : Within L s₀ (bufReach p bytes s) := by
  unfold bufReach
  with_reducible repeat' first
    | assumption
    | exact List.Subset.trans (by decide) hL
    | apply Within.ite
    | apply sendPfc_within
    | apply setPort_within

theorem linkChange_within {L : List Part} {s₀ : State} (p : Nat) (up : Bool) (anDone : Bool) (s : State) (h₀ : Within L s₀ s)
    (hL : [.regs, .live, .host, .deck, .ports, .out] ⊆ L) : Within L s₀ (linkChange p up anDone s) := by
  unfold linkChange
  with_reducible repeat' first
    | assumption
    | exact List.Subset.trans (by decide) hL
    | apply Within.ite
    | apply portCount_within
    | apply raise_within
    | apply setPort_within

theorem offerDesc_within {L : List Part} {s₀ : State} (p : Nat) (i : Nat) (buf : Nat) (s : State) (h₀ : Within L s₀ s)
    (hL : [.ports] ⊆ L) : Within L s₀ (offerDesc p i buf s) := by
  unfold offerDesc
  with_reducible repeat' first
    | assumption
    | apply setPort_within

theorem putDesc_within {L : List Part} {s₀ : State} (p : Nat) (w1 : Nat) (w2 : Nat) (w3 : Nat) (bytes : List Nat) (s : State)
    (h₀ : Within L s₀ s)
    (hL : [.regs, .ports] ⊆ L) : Within L s₀ (putDesc p w1 w2 w3 bytes s) := by
  unfold putDesc
  with_reducible repeat' first
    | assumption
    | exact List.Subset.trans (by decide) hL
    | apply wr_within
    | apply setPort_within

theorem putFrame_within {L : List Part} {s₀ : State} (p : Nat) (len : Nat) (cls : Nat) (pcp : Nat) (tci : Nat) (seq : Nat) (tagged : Bool) (stamped : Bool) (lost : Bool) (whole : Bool) (bytes : List Nat) (k : Nat) (s : State)
    (h₀ : Within L s₀ s)
    (hL : [.regs, .ports] ⊆ L) : Within L s₀ (putFrame p len cls pcp tci seq tagged stamped lost whole bytes k s) := by
  unfold putFrame
  with_reducible repeat' first
    | exact Within.refl _
    | assumption
    | (intro _; try dsimp only)
    | apply putDesc_within
    | apply Within.forUpTo

theorem rearmPort_within {L : List Part} {s₀ : State} (p : Nat) (s : State) (h₀ : Within L s₀ s)
    (hL : [.regs, .ports] ⊆ L) : Within L s₀ (rearmPort p s) := by
  unfold rearmPort
  with_reducible repeat' first
    | assumption
    | exact List.Subset.trans (by decide) hL
    | apply Within.ite
    | apply wr_within
    | apply setPort_within

theorem setFifo_within {L : List Part} {s₀ : State} (k : Nat) (l : List IngItem) (s : State) (h₀ : Within L s₀ s)
    (hL : [.ing] ⊆ L) : Within L s₀ (setFifo k l s) := by
  unfold setFifo
  repeat' ((with_reducible apply Within.lit); all_goals first | exact Or.inl (hL (by decide)) | with_reducible exact Or.inr rfl | with_reducible assumption)

theorem refillFifo_within {L : List Part} {s₀ : State} (k : Nat) (s : State) (h₀ : Within L s₀ s)
    (hL : [.regs, .host, .deck, .ports, .ing, .out] ⊆ L) : Within L s₀ (refillFifo k s) := by
  unfold refillFifo
  with_reducible repeat' first
    | assumption
    | exact List.Subset.trans (by decide) hL
    | apply setFifo_within
    | apply raise_within
    | apply setPort_within
    | split

theorem rxReady_within {L : List Part} {s₀ : State} (p : Nat) (s : State) (h₀ : Within L s₀ s)
    (hL : [.regs, .host, .deck, .ports, .out] ⊆ L) : Within L s₀ (rxReady p s) := by
  unfold rxReady
  with_reducible repeat' first
    | assumption
    | exact List.Subset.trans (by decide) hL
    | apply Within.ite
    | apply raise_within
    | apply setPort_within

theorem toIngest_within {L : List Part} {s₀ : State} (i : IngItem) (s : State) (h₀ : Within L s₀ s)
    (hL : [.regs, .host, .deck, .ports, .ing, .out] ⊆ L) : Within L s₀ (toIngest i s) := by
  unfold toIngest
  with_reducible repeat' first
    | assumption
    | exact List.Subset.trans (by decide) hL
    | apply Within.ite
    | apply setFifo_within
    | apply raise_within
    | apply setPort_within

theorem tsqRefuse_within {L : List Part} {s₀ : State} (p : Nat) (egress : Bool) (tag : Nat) (s : State) (h₀ : Within L s₀ s)
    (hL : [.regs, .live, .host, .deck, .out] ⊆ L) : Within L s₀ (tsqRefuse p egress tag s) := by
  unfold tsqRefuse
  with_reducible repeat' first
    | assumption
    | exact List.Subset.trans (by decide) hL
    | apply Within.ite
    | apply setStat_within
    | apply portCount_within
    | apply wrF_within
    | apply raise_within

theorem tsqPush_within {L : List Part} {s₀ : State} (p : Nat) (egress : Bool) (msg : Nat) (tag : Nat) (stamp : Nat) (s : State)
    (h₀ : Within L s₀ s)
    (hL : [.regs, .live, .host, .deck, .ports, .out] ⊆ L) : Within L s₀ (tsqPush p egress msg tag stamp s).1 := by
  unfold tsqPush
  try dsimp only
  with_reducible repeat' first
    | assumption
    | exact List.Subset.trans (by decide) hL
    | apply tsqRefuse_within
    | apply raise_within
    | apply setPort_within
    | split

theorem toRing_within {L : List Part} {s₀ : State} (p : Nat) (len : Nat) (cls : Nat) (pcp : Nat) (tci : Option (BitVec 16)) (event : Option (Nat × Nat)) (bytes : List Nat) (s : State)
    (h₀ : Within L s₀ s)
    (hL : [.regs, .live, .host, .deck, .ports, .out] ⊆ L) : Within L s₀ (toRing p len cls pcp tci event bytes s) := by
  unfold toRing
  with_reducible repeat' first
    | assumption
    | exact List.Subset.trans (by decide) hL
    | apply Within.ite
    | apply portCount_within
    | apply tsqPush_within
    | apply putFrame_within
    | apply rxReady_within
    | apply raise_within
    | split

theorem setStream_within {L : List Part} {s₀ : State} (n : Nat) (x : StreamSt) (s : State) (h₀ : Within L s₀ s)
    (hL : [.ing] ⊆ L) : Within L s₀ (setStream n x s) := by
  unfold setStream
  repeat' ((with_reducible apply Within.lit); all_goals first | exact Or.inl (hL (by decide)) | with_reducible exact Or.inr rfl | with_reducible assumption)

theorem handOver_within {L : List Part} {s₀ : State} (n : Nat) (inst : Nat) (v : Slot) (s : State) (h₀ : Within L s₀ s)
    (hL : [.ing] ⊆ L) : Within L s₀ (handOver n inst v s) := by
  unfold handOver
  repeat' ((with_reducible apply Within.lit); all_goals first | exact Or.inl (hL (by decide)) | with_reducible exact Or.inr rfl | with_reducible assumption)

theorem measureStream_within {L : List Part} {s₀ : State} (n : Nat) (c : StreamCfg) (u : Int) (s : State) (h₀ : Within L s₀ s)
    (hL : [.ing, .mkt] ⊆ L) : Within L s₀ (measureStream n c u s) := by
  unfold measureStream
  repeat' first
    | exact List.Subset.trans (by decide) hL
    | ((with_reducible apply Within.lit); all_goals first | exact Or.inl (hL (by decide)) | with_reducible exact Or.inr rfl | with_reducible assumption | with_reducible apply setStream_within)

theorem filtHand_within {L : List Part} {s₀ : State} (n : Nat) (cfg : StreamCfg) (k : Nat) (arrival : Nat) (s : State)
    (h₀ : Within L s₀ s)
    (hL : [.ing, .mkt] ⊆ L) : Within L s₀ (filtHand n cfg k arrival s) := by
  unfold filtHand
  with_reducible repeat' first
    | exact Within.refl _
    | assumption
    | exact List.Subset.trans (by decide) hL
    | (intro _; try dsimp only)
    | apply Within.ite
    | apply setStream_within
    | apply handOver_within
    | apply measureStream_within
    | apply Within.foldl

theorem setTab_within {L : List Part} {s₀ : State} (t : Tableau) (s : State) (h₀ : Within L s₀ s)
    (hL : [.mkt] ⊆ L) : Within L s₀ (setTab t s) := by
  unfold setTab
  repeat' ((with_reducible apply Within.lit); all_goals first | exact Or.inl (hL (by decide)) | with_reducible exact Or.inr rfl | with_reducible assumption)

theorem capAlarm_within {L : List Part} {s₀ : State} (r : Nat) (inst : Nat) (level : Bool) (quiet : Bool) (s : State)
    (h₀ : Within L s₀ s)
    (hL : [.cap] ⊆ L) : Within L s₀ (capAlarm r inst level quiet s) := by
  unfold capAlarm
  with_reducible repeat' first
    | exact Within.refl _
    | assumption
    | (intro _; try dsimp only)
    | apply Within.ite
    | apply capChange_within
    | apply Within.forUpTo

theorem setRule_within {L : List Part} {s₀ : State} (r : Nat) (x : RuleSt) (s : State) (h₀ : Within L s₀ s)
    (hL : [.egr] ⊆ L) : Within L s₀ (setRule r x s) := by
  unfold setRule
  repeat' ((with_reducible apply Within.lit); all_goals first | exact Or.inl (hL (by decide)) | with_reducible exact Or.inr rfl | with_reducible assumption)

theorem sendAlarm_within {L : List Part} {s₀ : State} (r : Nat) (inst : Nat) (c : RuleCfg) (a : AlarmRec) (s : State)
    (h₀ : Within L s₀ s)
    (hL : [.regs, .live, .host, .deck, .ports, .egr, .out] ⊆ L) : Within L s₀ (sendAlarm r inst c a s) := by
  unfold sendAlarm
  with_reducible repeat' first
    | assumption
    | exact List.Subset.trans (by decide) hL
    | apply Within.ite
    | apply egrCount_within
    | apply setRule_within
    | apply compose_within
    | apply pubNew_within
    | apply wr_within
    | apply raise_within

theorem ruleResult_within {L : List Part} {s₀ : State} (r : Nat) (inst : Nat) (step : Nat) (c : RuleCfg) (cond : Bool) (vals : List Word) (a : AlarmRec) (s : State)
    (h₀ : Within L s₀ s)
    (hL : [.regs, .live, .host, .deck, .ports, .cap, .egr, .out] ⊆ L) : Within L s₀ (ruleResult r inst step c cond vals a s) := by
  unfold ruleResult
  with_reducible repeat' first
    | assumption
    | exact List.Subset.trans (by decide) hL
    | apply Within.ite
    | apply setRule_within
    | apply sendAlarm_within
    | apply capAlarm_within
    | split

theorem classOutput_within {L : List Part} {s₀ : State} (cls : Nat) (em : Bool) (inst : Nat) (tag : Nat) (early : Bool) (value : Bool) (suspect : Bool) (s : State)
    (h₀ : Within L s₀ s)
    (hL : [.regs, .live, .free, .host, .deck, .ports, .cap, .egr, .out] ⊆ L) :
    Within L s₀ (classOutput cls em inst tag early value suspect s) := by
  unfold classOutput
  with_reducible repeat' first
    | exact Within.refl _
    | assumption
    | exact List.Subset.trans (by decide) hL
    | (intro _; try dsimp only)
    | apply egrCount_within
    | apply ruleResult_within
    | apply drawFree_within
    | apply Within.foldl

theorem evalRule_within {L : List Part} {s₀ : State} (r : Nat) (inst : Nat) (tag : Nat) (early : Bool) (s : State)
    (h₀ : Within L s₀ s)
    (hL : [.regs, .live, .free, .host, .deck, .ports, .cap, .egr, .out] ⊆ L) : Within L s₀ (evalRule r inst tag early s) := by
  unfold evalRule
  with_reducible repeat' first
    | assumption
    | exact List.Subset.trans (by decide) hL
    | apply egrCount_within
    | apply ruleResult_within
    | apply drawFree_within
    | split

theorem finalMessage_within {L : List Part} {s₀ : State} (inst : Nat) (rev : Nat) (s : State) (p : Nat × RuleCfg)
    (h₀ : Within L s₀ s)
    (hL : [.regs, .live, .host, .deck, .ports, .egr, .out] ⊆ L) : Within L s₀ (finalMessage inst rev s p) := by
  unfold finalMessage
  try dsimp only
  with_reducible repeat' first
    | assumption
    | exact List.Subset.trans (by decide) hL
    | apply setRule_within
    | apply sendAlarm_within
    | split

theorem rulesClose_within {L : List Part} {s₀ : State} (inst : Nat) (rev : Nat) (s : State) (h₀ : Within L s₀ s)
    (hL : [.regs, .live, .host, .deck, .ports, .egr, .out] ⊆ L) : Within L s₀ (rulesClose inst rev s) := by
  unfold rulesClose
  with_reducible repeat' first
    | exact Within.refl _
    | assumption
    | (intro _; try dsimp only)
    | apply finalMessage_within
    | apply Within.foldl

theorem setOut_within {L : List Part} {s₀ : State} (k : Nat) (x : OutSt) (s : State) (h₀ : Within L s₀ s)
    (hL : [.egr] ⊆ L) : Within L s₀ (setOut k x s) := by
  unfold setOut
  repeat' ((with_reducible apply Within.lit); all_goals first | exact Or.inl (hL (by decide)) | with_reducible exact Or.inr rfl | with_reducible assumption)

theorem sendOut_within {L : List Part} {s₀ : State} (k : Nat) (c : OutCfg) (m : Nat) (rev : Nat) (final : Bool) (s : State)
    (h₀ : Within L s₀ s)
    (hL : [.regs, .live, .host, .deck, .ports, .egr, .out] ⊆ L) : Within L s₀ (sendOut k c m rev final s) := by
  unfold sendOut
  with_reducible repeat' first
    | assumption
    | exact List.Subset.trans (by decide) hL
    | apply compose_within
    | apply setOut_within

theorem outClose_within {L : List Part} {s₀ : State} (k : Nat) (c : OutCfg) (inst : Nat) (rev : Nat) (s : State)
    (h₀ : Within L s₀ s)
    (hL : [.regs, .live, .host, .deck, .ports, .egr, .out] ⊆ L) : Within L s₀ (outClose k c inst rev s) := by
  unfold outClose
  with_reducible repeat' first
    | assumption
    | exact List.Subset.trans (by decide) hL
    | apply sendOut_within
    | apply setOut_within
    | split

theorem outRevision_within {L : List Part} {s₀ : State} (k : Nat) (c : OutCfg) (inst : Nat) (rev : Nat) (changed : List Nat) (s : State)
    (h₀ : Within L s₀ s)
    (hL : [.regs, .live, .host, .deck, .ports, .egr, .out] ⊆ L) : Within L s₀ (outRevision k c inst rev changed s) := by
  unfold outRevision
  with_reducible repeat' first
    | exact Within.refl _
    | assumption
    | (intro _; try dsimp only)
    | apply Within.ite
    | apply sendOut_within
    | apply Within.foldl

theorem outSeal_within {L : List Part} {s₀ : State} (k : Nat) (c : OutCfg) (inst : Nat) (s : State) (h₀ : Within L s₀ s)
    (hL : [.regs, .live, .host, .deck, .ports, .egr, .out] ⊆ L) : Within L s₀ (outSeal k c inst s) := by
  unfold outSeal
  with_reducible repeat' first
    | assumption
    | apply sendOut_within
    | split

theorem setPair_within {L : List Part} {s₀ : State} (f : Pair → Pair) (s : State) (h₀ : Within L s₀ s)
    (hL : [.pair] ⊆ L) : Within L s₀ (setPair f s) := by
  unfold setPair
  repeat' ((with_reducible apply Within.lit); all_goals first | exact Or.inl (hL (by decide)) | with_reducible exact Or.inr rfl | with_reducible assumption)

theorem setShroud_within {L : List Part} {s₀ : State} (l : Nat) (x : Shroud) (s : State) (h₀ : Within L s₀ s)
    (hL : [.pair] ⊆ L) : Within L s₀ (setShroud l x s) := by
  unfold setShroud
  with_reducible repeat' first
    | assumption
    | apply setPair_within

theorem shroudOut_within {L : List Part} {s₀ : State} (l : Nat) (typ : Nat) (ws : List Word) (s : State) (h₀ : Within L s₀ s)
    (hL : [.pair, .out] ⊆ L) : Within L s₀ (shroudOut l typ ws s) := by
  unfold shroudOut
  with_reducible repeat' first
    | assumption
    | exact List.Subset.trans (by decide) hL
    | apply setShroud_within
    | apply emit_within

theorem shroudSend_within {L : List Part} {s₀ : State} (l : Nat) (typ : Nat) (ws : List Word) (s : State) (h₀ : Within L s₀ s)
    (hL : [.pair, .out] ⊆ L) : Within L s₀ (shroudSend l typ ws s) := by
  unfold shroudSend
  with_reducible repeat' first
    | assumption
    | exact List.Subset.trans (by decide) hL
    | apply Within.ite
    | apply setShroud_within
    | apply shroudOut_within

theorem bulkSend_within {L : List Part} {s₀ : State} (typ : Nat) (ws : List Word) (s : State) (h₀ : Within L s₀ s)
    (hL : [.pair, .out] ⊆ L) : Within L s₀ (bulkSend typ ws s) := by
  unfold bulkSend
  with_reducible repeat' first
    | assumption
    | apply shroudSend_within

theorem drainWaits_within {L : List Part} {s₀ : State} (l : Nat) (w : List (Nat × List Word)) (s : State) (h₀ : Within L s₀ s)
    (hL : [.pair, .out] ⊆ L) : Within L s₀ (drainWaits l w s) := by
  induction w generalizing s with
  | nil => exact h₀
  | cons w r ih =>
    unfold drainWaits
    split
    · exact ih _ (shroudOut_within _ _ _ _ (setShroud_within _ _ _ h₀ (List.Subset.trans (by decide) hL)) (List.Subset.trans (by decide) hL))
    · exact h₀

theorem creditsBack_within {L : List Part} {s₀ : State} (l : Nat) (n : Nat) (s : State) (h₀ : Within L s₀ s)
    (hL : [.pair, .out] ⊆ L) : Within L s₀ (creditsBack l n s) := by
  unfold creditsBack
  with_reducible repeat' first
    | assumption
    | exact List.Subset.trans (by decide) hL
    | apply setShroud_within
    | apply drainWaits_within

theorem pairRecord_within {L : List Part} {s₀ : State} (code : Nat) (sev : Nat) (key : Nat) (data : List Word) (s : State)
    (h₀ : Within L s₀ s)
    (hL : [.regs, .host, .deck, .ledger, .out] ⊆ L) : Within L s₀ (pairRecord code sev key data s) := by
  unfold pairRecord
  with_reducible repeat' first
    | assumption
    | apply logEvent_within

theorem shrCount_within {L : List Part} {s₀ : State} (k : Nat) (n : Nat) (s : State) (h₀ : Within L s₀ s)
    (hL : [.live] ⊆ L) : Within L s₀ (shrCount k n s) := by
  unfold shrCount
  with_reducible repeat' first
    | assumption
    | apply count_within

theorem digOutcome_within {L : List Part} {s₀ : State} (m : Nat) (s : State) (h₀ : Within L s₀ s)
    (hL : [.regs, .live, .host, .deck, .pair, .ledger, .out] ⊆ L) : Within L s₀ (digOutcome m s) := by
  unfold digOutcome
  with_reducible repeat' first
    | assumption
    | exact List.Subset.trans (by decide) hL
    | apply Within.ite
    | apply pairRecord_within
    | apply raise_within
    | apply setPair_within
    | apply shrCount_within

theorem digCompare_within {L : List Part} {s₀ : State} (inst : Nat) (s : State) (h₀ : Within L s₀ s)
    (hL : [.regs, .live, .host, .deck, .pair, .ledger, .out] ⊆ L) : Within L s₀ (digCompare inst s) := by
  unfold digCompare
  with_reducible repeat' first
    | assumption
    | exact List.Subset.trans (by decide) hL
    | apply setPair_within
    | apply digOutcome_within
    | split

theorem digSend_within {L : List Part} {s₀ : State} (s : State) (h₀ : Within L s₀ s)
    (hL : [.pair, .out] ⊆ L) : Within L s₀ (digSend s) := by
  unfold digSend
  with_reducible repeat' first
    | assumption
    | exact List.Subset.trans (by decide) hL
    | apply Within.ite
    | apply bulkSend_within
    | apply setPair_within

theorem digestClose_within {L : List Part} {s₀ : State} (inst : Nat) (rev : Nat) (s : State) (h₀ : Within L s₀ s)
    (hL : [.regs, .live, .host, .deck, .pair, .ledger, .out] ⊆ L) : Within L s₀ (digestClose inst rev s) := by
  unfold digestClose
  with_reducible repeat' first
    | assumption
    | exact List.Subset.trans (by decide) hL
    | apply Within.ite
    | apply digCompare_within
    | apply digSend_within
    | apply setPair_within
    | split

theorem setScales_within {L : List Part} {s₀ : State} (f : Scales → Scales) (s : State) (h₀ : Within L s₀ s)
    (hL : [.scales] ⊆ L) : Within L s₀ (setScales f s) := by
  unfold setScales
  repeat' ((with_reducible apply Within.lit); all_goals first | exact Or.inl (hL (by decide)) | with_reducible exact Or.inr rfl | with_reducible assumption)

theorem setEnergy_within {L : List Part} {s₀ : State} (f : Energy → Energy) (s : State) (h₀ : Within L s₀ s)
    (hL : [.scales] ⊆ L) : Within L s₀ (setEnergy f s) := by
  unfold setEnergy
  with_reducible repeat' first
    | assumption
    | apply setScales_within

theorem setMeter_within {L : List Part} {s₀ : State} (k : Nat) (x : Meter) (s : State) (h₀ : Within L s₀ s)
    (hL : [.scales] ⊆ L) : Within L s₀ (setMeter k x s) := by
  unfold setMeter
  with_reducible repeat' first
    | assumption
    | apply setEnergy_within

theorem setInfo_within {L : List Part} {s₀ : State} (k : Nat) (f : EnPoint → EnPoint) (s : State) (h₀ : Within L s₀ s)
    (hL : [.scales] ⊆ L) : Within L s₀ (setInfo k f s) := by
  unfold setInfo
  with_reducible repeat' first
    | assumption
    | apply setMeter_within

theorem adoptPoint_within {L : List Part} {s₀ : State} (k : Nat) (s : State) (h₀ : Within L s₀ s)
    (hL : [.regs, .host, .deck, .scales, .pair, .ledger, .out] ⊆ L) : Within L s₀ (adoptPoint k s) := by
  unfold adoptPoint
  repeat' first
    | exact List.Subset.trans (by decide) hL
    | ((with_reducible apply Within.lit); all_goals first | exact Or.inl (hL (by decide)) | with_reducible exact Or.inr rfl | with_reducible assumption | with_reducible apply setInfo_within | with_reducible apply pairRecord_within)
    | split

theorem onInterval_within {L : List Part} {s₀ : State} (k : Nat) (f : Interval → Interval) (s : State) (h₀ : Within L s₀ s)
    (hL : [.scales] ⊆ L) : Within L s₀ (onInterval k f s) := by
  unfold onInterval
  with_reducible repeat' first
    | assumption
    | apply setInfo_within
    | apply setMeter_within
    | split

theorem checkBit_within {L : List Part} {s₀ : State} (k : Nat) (b : Nat) (cond : Bool) (s : State) (h₀ : Within L s₀ s)
    (hL : [.regs, .host, .deck, .scales, .ledger, .out] ⊆ L) : Within L s₀ (checkBit k b cond s) := by
  unfold checkBit
  with_reducible repeat' first
    | assumption
    | exact List.Subset.trans (by decide) hL
    | apply Within.ite
    | apply setStat_within
    | apply logEvent_within
    | apply setMeter_within
    | apply raise_within
    | apply onInterval_within

theorem checkPoint_within {L : List Part} {s₀ : State} (s : State) (k : Nat) (h₀ : Within L s₀ s)
    (hL : [.regs, .host, .deck, .scales, .ledger, .out] ⊆ L) : Within L s₀ (checkPoint s k) := by
  unfold checkPoint
  with_reducible repeat' first
    | exact Within.refl _
    | assumption
    | (intro _; try dsimp only)
    | apply Within.ite
    | apply checkBit_within
    | apply Within.forUpTo

theorem keepInterval_within {L : List Part} {s₀ : State} (ws : List Word) (s : State) (h₀ : Within L s₀ s)
    (hL : [.regs, .host, .deck, .scales, .ledger, .out] ⊆ L) : Within L s₀ (keepInterval ws s) := by
  unfold keepInterval
  with_reducible repeat' first
    | assumption
    | exact List.Subset.trans (by decide) hL
    | apply Within.ite
    | apply energyOverrun_within
    | apply setEnergy_within
    | apply raise_within

theorem writeInterval_within {L : List Part} {s₀ : State} (whole : Bool) (k : Nat) (wrap : Nat) (cycles : Nat) (bound : Nat) (x : Interval) (s : State)
    (h₀ : Within L s₀ s)
    (hL : [.regs, .host, .deck, .scales, .pair, .ledger, .out] ⊆ L) :
    Within L s₀ (writeInterval whole k wrap cycles bound x s) := by
  unfold writeInterval
  with_reducible repeat' first
    | assumption
    | exact List.Subset.trans (by decide) hL
    | apply Within.ite
    | apply keepInterval_within
    | apply setInfo_within
    | apply adoptPoint_within
    | apply raise_within

theorem writeClosing_within {L : List Part} {s₀ : State} (k : Nat) (s : State) (h₀ : Within L s₀ s)
    (hL : [.regs, .host, .deck, .scales, .pair, .ledger, .out] ⊆ L) : Within L s₀ (writeClosing k s) := by
  unfold writeClosing
  with_reducible repeat' first
    | assumption
    | exact List.Subset.trans (by decide) hL
    | apply setMeter_within
    | apply writeInterval_within
    | split

theorem closeBefore_within {L : List Part} {s₀ : State} (k : Nat) (tag : Nat) (s : State) (h₀ : Within L s₀ s)
    (hL : [.regs, .host, .deck, .scales, .pair, .ledger, .out] ⊆ L) : Within L s₀ (closeBefore k tag s) := by
  unfold closeBefore
  with_reducible repeat' first
    | assumption
    | apply writeClosing_within
    | split

theorem closeGap_within {L : List Part} {s₀ : State} (tag : Nat) (s : State) (h₀ : Within L s₀ s)
    (hL : [.regs, .host, .deck, .scales, .out] ⊆ L) : Within L s₀ (closeGap tag s) := by
  unfold closeGap
  with_reducible repeat' first
    | assumption
    | exact List.Subset.trans (by decide) hL
    | apply setEnergy_within
    | apply raise_within
    | split

theorem closeOverdue_within {L : List Part} {s₀ : State} (s : State) (h₀ : Within L s₀ s)
    (hL : [.regs, .host, .deck, .scales, .pair, .ledger, .out] ⊆ L) : Within L s₀ (closeOverdue s) := by
  unfold closeOverdue
  with_reducible repeat' first
    | exact Within.refl _
    | assumption
    | (intro _; try dsimp only)
    | apply writeClosing_within
    | apply Within.foldl
    | split

theorem dirChange_within {L : List Part} {s₀ : State} (k : Nat) (new : Bool) (s : State) (h₀ : Within L s₀ s)
    (hL : [.regs, .host, .deck, .scales, .out] ⊆ L) : Within L s₀ (dirChange k new s) := by
  unfold dirChange
  try dsimp only
  with_reducible repeat' first
    | assumption
    | exact List.Subset.trans (by decide) hL
    | apply setInfo_within
    | apply wrF_within
    | apply raise_within
    | apply onInterval_within
    | split

theorem endInterval_within {L : List Part} {s₀ : State} (wrap : Nat) (bound : Nat) (s : State) (k : Nat) (h₀ : Within L s₀ s)
    (hL : [.regs, .host, .deck, .scales, .pair, .ledger, .out] ⊆ L) : Within L s₀ (endInterval wrap bound s k) := by
  unfold endInterval
  with_reducible repeat' first
    | assumption
    | exact List.Subset.trans (by decide) hL
    | apply Within.ite
    | apply wrF_within
    | apply setMeter_within
    | apply writeClosing_within

theorem endPoint_within {L : List Part} {s₀ : State} (reefed : Bool) (s : State) (k : Nat) (h₀ : Within L s₀ s)
    (hL : [.regs, .host, .deck, .scales, .pair, .ledger, .out] ⊆ L) : Within L s₀ (endPoint reefed s k) := by
  unfold endPoint
  with_reducible repeat' first
    | assumption
    | exact List.Subset.trans (by decide) hL
    | apply Within.ite
    | apply wrF_within
    | apply setMeter_within
    | apply writeClosing_within
    | apply writeInterval_within

theorem energySave_within {L : List Part} {s₀ : State} (ok : Bool) (reefed : Bool) (s : State) (h₀ : Within L s₀ s)
    (hL : [.regs, .host, .deck, .scales, .pair, .out] ⊆ L) : Within L s₀ (energySave ok reefed s) := by
  unfold energySave
  with_reducible repeat' first
    | assumption
    | exact List.Subset.trans (by decide) hL
    | apply Within.ite
    | apply setEnergy_within
    | apply bulkSend_within
    | apply wrF_within
    | apply wr_within
    | apply raise_within

theorem ownSave_within {L : List Part} {s₀ : State} (reefed : Bool) (s : State) (h₀ : Within L s₀ s)
    (hL : [.regs, .free, .host, .deck, .scales, .pair, .out] ⊆ L) : Within L s₀ (ownSave reefed s) := by
  unfold ownSave
  with_reducible repeat' first
    | assumption
    | exact List.Subset.trans (by decide) hL
    | apply energySave_within
    | apply drawFree_within

theorem reefDone_within {L : List Part} {s₀ : State} (s : State) (h₀ : Within L s₀ s)
    (hL : [.regs, .free, .host, .deck, .scales, .pair, .ledger, .out] ⊆ L) : Within L s₀ (reefDone s) := by
  unfold reefDone
  with_reducible repeat' first
    | exact Within.refl _
    | assumption
    | exact List.Subset.trans (by decide) hL
    | (intro _; try dsimp only)
    | apply ownSave_within
    | apply endPoint_within
    | apply setEnergy_within
    | apply wrF_within
    | apply raise_within
    | apply Within.foldl

theorem energyReef_within {L : List Part} {s₀ : State} (s : State) (h₀ : Within L s₀ s)
    (hL : [.regs, .free, .host, .deck, .scales, .pair, .ledger, .out] ⊆ L) : Within L s₀ (energyReef s) := by
  unfold energyReef
  with_reducible repeat' first
    | assumption
    | exact List.Subset.trans (by decide) hL
    | apply Within.ite
    | apply setEnergy_within
    | apply reefDone_within

theorem energyRestore_within {L : List Part} {s₀ : State} (s : State) (h₀ : Within L s₀ s)
    (hL : [.regs, .scales] ⊆ L) : Within L s₀ (energyRestore s) := by
  unfold energyRestore
  with_reducible repeat' first
    | assumption
    | exact List.Subset.trans (by decide) hL
    | apply setEnergy_within
    | apply wrF_within
    | apply wr_within
    | split

theorem reefSettle_within {L : List Part} {s₀ : State} (s : State) (h₀ : Within L s₀ s)
    (hL : [.regs, .free, .host, .deck, .scales, .pair, .ledger, .out] ⊆ L) : Within L s₀ (reefSettle s) := by
  unfold reefSettle
  with_reducible repeat' first
    | assumption
    | apply Within.ite
    | apply reefDone_within

theorem energyResume_within {L : List Part} {s₀ : State} (s : State) (h₀ : Within L s₀ s)
    (hL : [.regs, .free, .host, .deck, .scales, .pair, .ledger, .out] ⊆ L) : Within L s₀ (energyResume s) := by
  unfold energyResume
  with_reducible repeat' first
    | exact Within.refl _
    | assumption
    | exact List.Subset.trans (by decide) hL
    | (intro _; try dsimp only)
    | apply setEnergy_within
    | apply wrF_within
    | apply setMeter_within
    | apply reefSettle_within
    | apply Within.foldl

theorem markUcal_within {L : List Part} {s₀ : State} (p : State → Nat → Bool) (s : State) (h₀ : Within L s₀ s)
    (hL : [.scales] ⊆ L) : Within L s₀ (markUcal p s) := by
  unfold markUcal
  with_reducible repeat' first
    | exact Within.refl _
    | assumption
    | (intro _; try dsimp only)
    | apply Within.ite
    | apply setInfo_within
    | apply Within.foldl

theorem startMean_within {L : List Part} {s₀ : State} (k : Nat) (tag : Nat) (s : State) (h₀ : Within L s₀ s)
    (hL : [.scales] ⊆ L) : Within L s₀ (startMean k tag s) := by
  unfold startMean
  with_reducible repeat' first
    | assumption
    | apply Within.ite
    | apply setInfo_within
    | apply setMeter_within
    | apply onInterval_within

theorem meterMean_within {L : List Part} {s₀ : State} (k : Nat) (n : Nat) (s : State) (h₀ : Within L s₀ s)
    (hL : [.regs, .host, .deck, .scales, .pair, .ledger, .out] ⊆ L) : Within L s₀ (meterMean k n s) := by
  unfold meterMean
  with_reducible repeat' first
    | assumption
    | exact List.Subset.trans (by decide) hL
    | apply dirChange_within
    | apply setEnergy_within
    | apply setInfo_within
    | apply startMean_within
    | apply wr_within
    | apply closeBefore_within
    | apply closeGap_within
    | apply onInterval_within

theorem reefSample_within {L : List Part} {s₀ : State} (k : Nat) (s : State) (h₀ : Within L s₀ s)
    (hL : [.scales] ⊆ L) : Within L s₀ (reefSample k s) := by
  unfold reefSample
  try dsimp only
  with_reducible repeat' first
    | assumption
    | apply setMeter_within
    | split

theorem saveAtSample_within {L : List Part} {s₀ : State} (s : State) (h₀ : Within L s₀ s)
    (hL : [.regs, .free, .host, .deck, .scales, .pair, .ledger, .out] ⊆ L) : Within L s₀ (saveAtSample s) := by
  unfold saveAtSample
  with_reducible repeat' first
    | assumption
    | exact List.Subset.trans (by decide) hL
    | apply Within.ite
    | apply ownSave_within
    | apply setEnergy_within
    | apply energySave_within
    | apply closeOverdue_within
    | split

theorem meterSample_within {L : List Part} {s₀ : State} (k : Nat) (tag : Nat) (mark : Nat) (vs : List Int) (cs : List Int) (s : State)
    (h₀ : Within L s₀ s)
    (hL : [.regs, .free, .host, .deck, .scales, .pair, .ledger, .out] ⊆ L) : Within L s₀ (meterSample k tag mark vs cs s) := by
  unfold meterSample
  with_reducible repeat' first
    | assumption
    | exact List.Subset.trans (by decide) hL
    | apply Within.ite
    | apply meterMean_within
    | apply setEnergy_within
    | apply reefSample_within
    | apply saveAtSample_within
    | apply setMeter_within
    | apply reefDone_within

theorem stepPoints_within {L : List Part} {s₀ : State} (s : State) (h₀ : Within L s₀ s)
    (hL : [.scales] ⊆ L) : Within L s₀ (stepPoints s) := by
  unfold stepPoints
  with_reducible repeat' first
    | exact Within.refl _
    | assumption
    | (intro _; try dsimp only)
    | apply Within.ite
    | apply setInfo_within
    | apply Within.foldl

theorem ucalPoints_within {L : List Part} {s₀ : State} (ch : Nat) (s : State) (h₀ : Within L s₀ s)
    (hL : [.scales] ⊆ L) : Within L s₀ (ucalPoints ch s) := by
  unfold ucalPoints
  with_reducible repeat' first
    | assumption
    | apply markUcal_within

theorem ucalSvPoints_within {L : List Part} {s₀ : State} (i : Nat) (ch : Nat) (s : State) (h₀ : Within L s₀ s)
    (hL : [.scales] ⊆ L) : Within L s₀ (ucalSvPoints i ch s) := by
  unfold ucalSvPoints
  with_reducible repeat' first
    | assumption
    | apply markUcal_within

theorem feedWindow_within {L : List Part} {s₀ : State} (w : Nat) (bs : List Nat) (last : Bool) (s : State) (h₀ : Within L s₀ s)
    (hL : [.host] ⊆ L) : Within L s₀ (feedWindow w bs last s) := by
  unfold feedWindow
  with_reducible repeat' first
    | assumption
    | apply Within.ite
    | apply setWindow_within

theorem mktCount_within {L : List Part} {s₀ : State} (k : Nat) (n : Nat) (s : State) (h₀ : Within L s₀ s)
    (hL : [.live] ⊆ L) : Within L s₀ (mktCount k n s) := by
  unfold mktCount
  with_reducible repeat' first
    | assumption
    | apply count_within

theorem openMore_within {L : List Part} {s₀ : State} (w : Win) (s : State) (h₀ : Within L s₀ s)
    (hL : [.host] ⊆ L) : Within L s₀ (openMore w s) := by
  unfold openMore
  with_reducible repeat' first
    | assumption
    | apply setWindow_within

theorem ribMiss_within {L : List Part} {s₀ : State} (n : Nat) (s : State) (h₀ : Within L s₀ s)
    (hL : [.regs, .live, .host, .deck, .mkt, .out] ⊆ L) : Within L s₀ (ribMiss n s) := by
  unfold ribMiss
  repeat' first
    | exact List.Subset.trans (by decide) hL
    | ((with_reducible apply Within.lit); all_goals first | exact Or.inl (hL (by decide)) | with_reducible exact Or.inr rfl | with_reducible assumption | with_reducible apply raise_within | with_reducible apply mktCount_within)

theorem ribLose_within {L : List Part} {s₀ : State} (s : State) (h₀ : Within L s₀ s)
    (hL : [.regs, .live, .host, .deck, .mkt, .out] ⊆ L) : Within L s₀ (ribLose s) := by
  unfold ribLose
  repeat' first
    | with_reducible assumption
    | ((with_reducible apply Within.lit); all_goals first | exact Or.inl (hL (by decide)) | with_reducible exact Or.inr rfl | with_reducible assumption | with_reducible apply Within.ite | with_reducible apply ribMiss_within)

theorem xfEnd_within {L : List Part} {s₀ : State} (result : Nat) (s : State) (h₀ : Within L s₀ s)
    (hL : [.regs, .host, .deck, .egr, .out] ⊆ L) : Within L s₀ (xfEnd result s) := by
  unfold xfEnd
  repeat' first
    | exact List.Subset.trans (by decide) hL
    | ((with_reducible apply Within.lit); all_goals first | exact Or.inl (hL (by decide)) | with_reducible exact Or.inr rfl | with_reducible assumption | with_reducible apply wrF_within | with_reducible apply raise_within)

theorem ribOverwrite_within {L : List Part} {s₀ : State} (first : Nat) (s : State) (h₀ : Within L s₀ s)
    (hL : [.regs, .host, .deck, .egr, .out] ⊆ L) : Within L s₀ (ribOverwrite first s) := by
  unfold ribOverwrite
  try dsimp only
  with_reducible repeat' first
    | assumption
    | exact List.Subset.trans (by decide) hL
    | apply setStat_within
    | apply xfEnd_within
    | apply endWindow_within
    | split

theorem ribReport_within {L : List Part} {s₀ : State} (s : State) (h₀ : Within L s₀ s)
    (hL : [.regs, .host, .deck, .out] ⊆ L) : Within L s₀ (ribReport s) := by
  unfold ribReport
  with_reducible repeat' first
    | assumption
    | exact List.Subset.trans (by decide) hL
    | apply Within.ite
    | apply wr64_within
    | apply wr_within
    | apply raise_within

theorem ribPut_within {L : List Part} {s₀ : State} (b : RibBlock) (s : State) (h₀ : Within L s₀ s)
    (hL : [.regs, .host, .deck, .mkt, .egr, .out] ⊆ L) : Within L s₀ (ribPut b s) := by
  unfold ribPut
  repeat' first
    | exact List.Subset.trans (by decide) hL
    | (intro _; try dsimp only)
    | ((with_reducible apply Within.lit); all_goals first | exact Or.inl (hL (by decide)) | with_reducible exact Or.inr rfl | with_reducible exact Within.refl _ | with_reducible assumption | with_reducible apply ribOverwrite_within | with_reducible apply ribReport_within | with_reducible apply Within.foldl)

theorem ribTakeOne_within {L : List Part} {s₀ : State} (s : State) (h₀ : Within L s₀ s)
    (hL : [.mkt] ⊆ L) : Within L s₀ (ribTakeOne s) := by
  unfold ribTakeOne
  repeat' first
    | ((with_reducible apply Within.lit); all_goals first | exact Or.inl (hL (by decide)) | with_reducible exact Or.inr rfl | with_reducible assumption)
    | split

theorem ribTake_within {L : List Part} {s₀ : State} (s : State) (h₀ : Within L s₀ s)
    (hL : [.mkt] ⊆ L) : Within L s₀ (ribTake s) := by
  unfold ribTake
  with_reducible repeat' first
    | exact Within.refl _
    | assumption
    | (intro _; try dsimp only)
    | apply ribTakeOne_within
    | apply Within.forUpTo

theorem pakCount_within {L : List Part} {s₀ : State} (k : Nat) (n : Nat) (s : State) (h₀ : Within L s₀ s)
    (hL : [.live] ⊆ L) : Within L s₀ (pakCount k n s) := by
  unfold pakCount
  with_reducible repeat' first
    | assumption
    | apply count_within

theorem countBlock_within {L : List Part} {s₀ : State} (b : PakBlock) (out : List Nat) (s : State) (h₀ : Within L s₀ s)
    (hL : [.live] ⊆ L) : Within L s₀ (countBlock b out s) := by
  unfold countBlock
  with_reducible repeat' first
    | assumption
    | apply Within.ite
    | apply pakCount_within

theorem setPak_within {L : List Part} {s₀ : State} (f : Packer → Packer) (s : State) (h₀ : Within L s₀ s)
    (hL : [.pak] ⊆ L) : Within L s₀ (setPak f s) := by
  unfold setPak
  repeat' ((with_reducible apply Within.lit); all_goals first | exact Or.inl (hL (by decide)) | with_reducible exact Or.inr rfl | with_reducible assumption)

theorem dropEngine_within {L : List Part} {s₀ : State} (c : Nat) (s : State) (h₀ : Within L s₀ s)
    (hL : [.pak] ⊆ L) : Within L s₀ (dropEngine c s) := by
  unfold dropEngine
  with_reducible repeat' first
    | assumption
    | apply setPak_within
    | split

theorem jobStat_within {L : List Part} {s₀ : State} (busy : Bool) (result : Nat) (s : State) (h₀ : Within L s₀ s)
    (hL : [.regs] ⊆ L) : Within L s₀ (jobStat busy result s) := by
  unfold jobStat
  with_reducible repeat' first
    | assumption
    | apply wr_within

theorem jobFail_within {L : List Part} {s₀ : State} (result : Nat) (s : State) (h₀ : Within L s₀ s)
    (hL : [.regs, .live, .host, .deck, .pak, .out] ⊆ L) : Within L s₀ (jobFail result s) := by
  unfold jobFail
  with_reducible repeat' first
    | assumption
    | exact List.Subset.trans (by decide) hL
    | apply Within.ite
    | apply setPak_within
    | apply pakCount_within
    | apply jobStat_within
    | apply dropEngine_within
    | apply wr_within
    | apply raise_within

theorem jobNext_within {L : List Part} {s₀ : State} (j : PakJob) (s : State) (h₀ : Within L s₀ s)
    (hL : [.regs, .live, .host, .deck, .pak, .out] ⊆ L) : Within L s₀ (jobNext j s) := by
  unfold jobNext
  with_reducible repeat' first
    | assumption
    | exact List.Subset.trans (by decide) hL
    | apply Within.ite
    | apply setPak_within
    | apply jobStat_within
    | apply jobFail_within
    | apply wr_within
    | apply raise_within

theorem finishBlock_within {L : List Part} {s₀ : State} (b : PakBlock) (s : State) (h₀ : Within L s₀ s)
    (hL : [.regs, .live, .host, .deck, .mkt, .pak, .egr, .out] ⊆ L) : Within L s₀ (finishBlock b s) := by
  unfold finishBlock
  with_reducible repeat' first
    | assumption
    | exact List.Subset.trans (by decide) hL
    | apply Within.ite
    | apply setPak_within
    | apply pakCount_within
    | apply jobFail_within
    | apply feedWindow_within
    | apply countBlock_within
    | apply ribPut_within
    | apply jobNext_within
    | split

theorem jobStart_within {L : List Part} {s₀ : State} (op : Nat) (blockKib : Nat) (input : List Nat) (s : State)
    (h₀ : Within L s₀ s)
    (hL : [.regs, .host, .deck, .pak, .out] ⊆ L) : Within L s₀ (jobStart op blockKib input s) := by
  unfold jobStart
  with_reducible repeat' first
    | assumption
    | exact List.Subset.trans (by decide) hL
    | apply Within.ite
    | apply setPak_within
    | apply jobStat_within
    | apply wr_within
    | apply raise_within

theorem setWork_within {L : List Part} {s₀ : State} (c : Nat) (l : List PakBlock) (s : State) (h₀ : Within L s₀ s)
    (hL : [.pak] ⊆ L) : Within L s₀ (setWork c l s) := by
  unfold setWork
  with_reducible repeat' first
    | assumption
    | apply setPak_within

theorem pakMemErr_within {L : List Part} {s₀ : State} (c : Nat) (s : State) (h₀ : Within L s₀ s)
    (hL : [.regs, .live, .host, .deck, .mkt, .pak, .out] ⊆ L) : Within L s₀ (pakMemErr c s) := by
  unfold pakMemErr
  with_reducible repeat' first
    | assumption
    | exact List.Subset.trans (by decide) hL
    | apply ribMiss_within
    | apply pakCount_within
    | apply jobFail_within
    | apply endWindow_within
    | apply dropEngine_within
    | apply wr_within
    | apply setWork_within
    | apply raise_within
    | split

end Sys2Proof.Machine
end

