-- ==== Sys2Proof/Laws/Registers.lean ====
section
/-!
SUPPORT. Registers that the publications of a NODE_STATE change leave (R295).
-/

namespace Sys2Proof.Machine

open Sys2Proof

set_option Elab.async false
set_option linter.all false

theorem rd_leaveTxLpi (p b : Nat) (s : State) : rd (leaveTxLpi p s) b = rd s b := by
  unfold leaveTxLpi
  dsimp only
  split <;> rfl

theorem rd_countFrame (k : Option Nat) (b : Nat) (s : State) : rd (countFrame k s) b = rd s b := by
  cases k <;> rfl

/-- An item that lands in a queue writes no register but the queue's level interrupt. -/
theorem rd_qLand (q b : Nat) (i : QItem) (s : State) (h2 : b ≠ EGR_QINT) (h3 : b ≠ CTL_INT) : rd (qLand q i s) b = rd s b := by
  unfold qLand
  extract_lets x lim u t
  have hu : rd u b = rd s b := rd_countFrame _ _ _
  have ht : rd t b = rd s b := by
    unfold t
    split
    · exact hu
    · exact (rd_leaveTxLpi _ _ _).trans hu
  split
  · exact (rd_raise_ne _ _ _ _ h2 h3).trans ht
  · exact ht

theorem rd_compose (q prio len b : Nat) (al : Bool) (o : Option Nat) (x : TxBody) (s : State) (h1 : b ≠ EGR_INT) (h2 : b ≠ EGR_QINT)
    (h3 : b ≠ CTL_INT) : rd (compose q prio len al o x s) b = rd s b := by
  unfold compose
  dsimp only
  repeat' split
  · rfl
  · rw [rd_raise_ne _ _ _ _ h1 h3]; rfl
  · rfl
  · exact rd_qLand _ _ _ _ h2 h3

theorem rd_pubTransmit (p b : Nat) (s : State) (h1 : b ≠ EGR_INT) (h2 : b ≠ EGR_QINT) (h3 : b ≠ CTL_INT) :
    rd (pubTransmit p s) b = rd s b := by
  unfold pubTransmit
  dsimp only
  repeat' split
  · rfl
  · rw [rd_raise_ne _ _ _ _ h1 h3]; rfl
  · rw [rd_compose _ _ _ _ _ _ _ _ h1 h2 h3]; rfl
  · rw [rd_raise_ne _ _ _ _ h1 h3]; rfl
  · rw [rd_compose _ _ _ _ _ _ _ _ h1 h2 h3]; rfl

theorem rd_pubNew (p b : Nat) (a : Option AlarmRec) (s : State) (h1 : b ≠ EGR_INT) (h2 : b ≠ EGR_QINT) (h3 : b ≠ CTL_INT) :
    rd (pubNew p a s) b = rd s b := by
  unfold pubNew
  split
  · rfl
  · exact rd_pubTransmit _ _ _ h1 h2 h3

/-- A NODE_STATE change writes no register but the egress interrupts and what their posts can write. -/
theorem rd_nodeEdge (s t : State) (b : Nat) (h1 : b ≠ EGR_INT) (h2 : b ≠ EGR_QINT) (h3 : b ≠ CTL_INT) :
    rd (nodeEdge s t) b = rd t b := by
  unfold nodeEdge pubAll
  repeat' split
  · rfl
  · exact foldl_keep (fun u => rd u b) _ _ _ (fun u x => rd_pubNew _ _ _ _ h1 h2 h3)
  · rfl

/-- A NODE_STATE change leaves the Mast. -/
theorem nodeEdge_mast (s t : State) : (nodeEdge s t).mast = t.mast :=
  (nodeEdge_within (L := [.regs, .live, .host, .deck, .ports, .egr, .out]) s t (Within.refl t) (by decide)).same .mast (by decide)

/-- The Mast's own part after a change of its state. -/
theorem mastTo_mast (st : MastState) (s : State) : (mastTo st s).mast = { s.mast with st := st } := by
  unfold mastTo
  have h : (nodeEdge s (raise MST_INT 4 { s with mast := { s.mast with st := st } })).mast = _ :=
    (nodeEdge_within (L := [.regs, .live, .host, .deck, .ports, .egr, .out]) s _ (Within.refl _) (by decide)).same .mast (by decide)
  rw [h]
  simp

/-- Entering HOLDOVER or HELD sets HOLD_ENTER. -/
theorem rdB_mastTo (st : MastState) (s : State) (hs : TablesWf s) : rdB (mastTo st s) MST_INT 4 = true := by
  unfold mastTo rdB
  rw [rd_nodeEdge _ _ _ (by decide) (by decide) (by decide), rd_raise_same _ _ _ (by exact hs) (by decide), bitAt_withBit _ _ _ (by decide)]
  rfl

end Sys2Proof.Machine
end

