-- ==== Sys2Proof/Laws/WithinUnits.lean ====
section
/-!
SUPPORT. Which parts each operation can change (Safety.Within): the operations of the Ledger, the Deck, the Scales, the Capture and the Nest.
-/

namespace Sys2Proof.Machine

open Sys2Proof

set_option Elab.async false
set_option linter.all false

set_option maxRecDepth 4000

theorem controlRecord_within {L : List Part} {s₀ : State} (s : State) (h₀ : Within L s₀ s)
    (hL : [.ledger] ⊆ L) : Within L s₀ (controlRecord s) := by
  unfold controlRecord
  with_reducible repeat' first
    | assumption
    | apply setLedger_within

theorem eraseScope_within {L : List Part} {s₀ : State} (scope : Nat) (s : State) (h₀ : Within L s₀ s)
    (hL : [.regs, .host, .scales, .nest, .ledger] ⊆ L) : Within L s₀ (eraseScope scope s) := by
  unfold eraseScope
  repeat' first
    | exact List.Subset.trans (by decide) hL
    | (intro _; try dsimp only)
    | ((with_reducible apply Within.lit); all_goals first | exact Or.inl (hL (by decide)) | with_reducible exact Or.inr rfl | with_reducible exact Within.refl _ | with_reducible assumption | with_reducible apply Within.ite | with_reducible apply ledgerOverrun_within | with_reducible apply setEnergy_within | with_reducible apply setLedger_within | with_reducible apply wr_within | with_reducible apply Within.forUpTo)

theorem logAppend_within {L : List Part} {s₀ : State} (r : LRec) (s : State) (h₀ : Within L s₀ s)
    (hL : [.regs, .host, .deck, .ledger, .out] ⊆ L) : Within L s₀ (logAppend r s) := by
  unfold logAppend
  with_reducible repeat' first
    | assumption
    | exact List.Subset.trans (by decide) hL
    | apply Within.ite
    | apply setLedger_within
    | apply raise_within

theorem logWrite_within {L : List Part} {s₀ : State} (r : LRec) (s : State) (h₀ : Within L s₀ s)
    (hL : [.regs, .host, .deck, .ledger, .out] ⊆ L) : Within L s₀ (logWrite r s) := by
  unfold logWrite
  with_reducible repeat' first
    | assumption
    | exact List.Subset.trans (by decide) hL
    | apply Within.ite
    | apply logAppend_within
    | apply bumpSat_within
    | apply eventOverrun_within
    | apply setLedger_within
    | apply raise_within
    | split

theorem clearFinish_within {L : List Part} {s₀ : State} (s : State) (h₀ : Within L s₀ s)
    (hL : [.regs, .host, .deck, .scales, .nest, .ledger, .out] ⊆ L) : Within L s₀ (clearFinish s) := by
  unfold clearFinish
  with_reducible repeat' first
    | assumption
    | exact List.Subset.trans (by decide) hL
    | apply wrF_within
    | apply setLedger_within
    | apply raise_within
    | apply controlRecord_within
    | apply eraseScope_within
    | apply logWrite_within

theorem logOffered_within {L : List Part} {s₀ : State} (e : LEvent) (s : State) (h₀ : Within L s₀ s)
    (hL : [.regs, .host, .deck, .ledger, .out] ⊆ L) : Within L s₀ (logOffered e s) := by
  unfold logOffered
  with_reducible repeat' first
    | assumption
    | apply logEvent_within

theorem mirrorRecords_within {L : List Part} {s₀ : State} (rs : List LRec) (s : State) (h₀ : Within L s₀ s)
    (hL : [.pair, .out] ⊆ L) : Within L s₀ (mirrorRecords rs s) := by
  unfold mirrorRecords
  with_reducible repeat' first
    | exact Within.refl _
    | assumption
    | (intro _; try dsimp only)
    | apply Within.ite
    | apply bulkSend_within
    | apply Within.foldl

theorem writeLastWords_within {L : List Part} {s₀ : State} (reason : Nat) (ofs : Nat) (tick : Nat) (s : State)
    (h₀ : Within L s₀ s)
    (hL : [.ledger, .sentry] ⊆ L) : Within L s₀ (writeLastWords reason ofs tick s) := by
  unfold writeLastWords
  repeat' ((with_reducible apply Within.lit); all_goals first | exact Or.inl (hL (by decide)) | with_reducible exact Or.inr rfl | with_reducible assumption)

theorem ledgerFail_within {L : List Part} {s₀ : State} (reason : Nat) (ofs : Nat) (s : State) (h₀ : Within L s₀ s)
    (hL : [.regs, .live, .host, .deck, .ports, .egr, .ledger, .sentry, .boot, .nodeOk, .out] ⊆ L) :
    Within L s₀ (ledgerFail reason ofs s) := by
  unfold ledgerFail
  with_reducible repeat' first
    | assumption
    | exact List.Subset.trans (by decide) hL
    | apply Within.ite
    | apply wrF_within
    | apply setLedger_within
    | apply writeLastWords_within
    | apply raise_within
    | apply updateNodeOk_within

theorem relocate_within {L : List Part} {s₀ : State} (l : List Nat) (s : State)
    (h₀ : Within L s₀ s) (hL : [.regs, .live, .host, .deck, .ports, .egr, .ledger, .sentry, .boot, .nodeOk, .out] ⊆ L) :
    Within L s₀ (relocate l s) := by
  induction l generalizing s with
  | nil => exact h₀
  | cons u us ih =>
    unfold relocate
    split
    · exact h₀
    · split
      · exact ih _ (raise_within _ _ _ (setLedger_within _ _ h₀ (List.Subset.trans (by decide) hL)) (List.Subset.trans (by decide) hL))
      · exact ledgerFail_within _ _ _ h₀ (List.Subset.trans (by decide) hL)

theorem flushRun_within {L : List Part} {s₀ : State} (during : List LEvent) (badUnits : List Nat) (s : State) (h₀ : Within L s₀ s)
    (hL : [.regs, .live, .host, .deck, .ports, .egr, .pair, .ledger, .sentry, .boot, .nodeOk, .out] ⊆ L) :
    Within L s₀ (flushRun during badUnits s) := by
  unfold flushRun
  with_reducible repeat' first
    | exact Within.refl _
    | assumption
    | exact List.Subset.trans (by decide) hL
    | (intro _; try dsimp only)
    | apply Within.ite
    | apply logOffered_within
    | apply setLedger_within
    | apply mirrorRecords_within
    | apply relocate_within
    | apply raise_within
    | apply controlRecord_within
    | apply logWrite_within
    | apply Within.foldl

theorem trackPut_within {L : List Part} {s₀ : State} (k : Nat) (lo : Int) (hi : Int) (v : Int) (s : State) (h₀ : Within L s₀ s)
    (hL : [.ledger] ⊆ L) : Within L s₀ (trackPut k lo hi v s) := by
  unfold trackPut
  with_reducible repeat' first
    | assumption
    | apply setLedger_within

theorem trackWrite_within {L : List Part} {s₀ : State} (s : State) (h₀ : Within L s₀ s)
    (hL : [.ledger] ⊆ L) : Within L s₀ (trackWrite s) := by
  unfold trackWrite
  with_reducible repeat' first
    | assumption
    | apply Within.ite
    | apply setLedger_within

theorem makeReady_within {L : List Part} {s₀ : State} (head : Bool) (t : Nat) (s : State) (h₀ : Within L s₀ s)
    (hL : [.deck] ⊆ L) : Within L s₀ (makeReady head t s) := by
  unfold makeReady
  repeat' first
    | with_reducible assumption
    | ((with_reducible apply Within.lit); all_goals first | exact Or.inl (hL (by decide)) | with_reducible exact Or.inr rfl | with_reducible assumption | with_reducible apply setThread_within)

theorem applyPost_within {L : List Part} {s₀ : State} (t : Nat) (s : State) (h₀ : Within L s₀ s)
    (hL : [.live, .deck] ⊆ L) : Within L s₀ (applyPost t s) := by
  unfold applyPost
  try dsimp only
  with_reducible repeat' first
    | assumption
    | exact List.Subset.trans (by decide) hL
    | apply setThread_within
    | apply makeReady_within
    | apply count_within
    | split

theorem deckReset_within {L : List Part} {s₀ : State} (s : State) (h₀ : Within L s₀ s)
    (hL : [.deck] ⊆ L) : Within L s₀ (deckReset s) := by
  unfold deckReset
  repeat' ((with_reducible apply Within.lit); all_goals first | exact Or.inl (hL (by decide)) | with_reducible exact Or.inr rfl | with_reducible assumption)

theorem restartBegin_within {L : List Part} {s₀ : State} (cause : Nat) (s : State) (h₀ : Within L s₀ s)
    (hL : [.regs, .live, .mast, .host, .deck, .ports, .egr, .ledger, .out] ⊆ L) : Within L s₀ (restartBegin cause s) := by
  unfold restartBegin
  repeat' first
    | exact List.Subset.trans (by decide) hL
    | ((with_reducible apply Within.lit); all_goals first | exact Or.inl (hL (by decide)) | with_reducible exact Or.inr rfl | with_reducible assumption | with_reducible apply Within.ite | with_reducible apply logEvent_within | with_reducible apply wrF_within | with_reducible apply setInt_within | with_reducible apply deckReset_within | with_reducible apply mastTo_within | with_reducible apply count_within)

theorem deckRestart_within {L : List Part} {s₀ : State} (cause : Nat) (s : State) (h₀ : Within L s₀ s)
    (hL : [.regs, .live, .mast, .host, .deck, .ports, .egr, .ledger, .out] ⊆ L) : Within L s₀ (deckRestart cause s) := by
  unfold deckRestart
  with_reducible repeat' first
    | assumption
    | exact List.Subset.trans (by decide) hL
    | apply restartBegin_within
    | apply count_within
    | split

theorem startThreads_within {L : List Part} {s₀ : State} (s : State) (h₀ : Within L s₀ s)
    (hL : [.deck] ⊆ L) : Within L s₀ (startThreads s) := by
  unfold startThreads
  with_reducible repeat' first
    | exact Within.refl _
    | assumption
    | (intro _; try dsimp only)
    | apply makeReady_within
    | apply Within.foldl

theorem rearmRings_within {L : List Part} {s₀ : State} (s : State) (h₀ : Within L s₀ s)
    (hL : [.regs, .ports] ⊆ L) : Within L s₀ (rearmRings s) := by
  unfold rearmRings
  with_reducible repeat' first
    | exact Within.refl _
    | assumption
    | (intro _; try dsimp only)
    | apply rearmPort_within
    | apply Within.forUpTo

theorem loadThreads_within {L : List Part} {s₀ : State} (cs : List (Nat × ThreadCfg)) (s : State) (h₀ : Within L s₀ s)
    (hL : [.deck] ⊆ L) : Within L s₀ (loadThreads cs s) := by
  unfold loadThreads
  with_reducible repeat' first
    | exact Within.refl _
    | assumption
    | (intro _; try dsimp only)
    | apply setThread_within
    | apply Within.foldl

theorem setRunning_within {L : List Part} {s₀ : State} (c : Nat) (t : Option Nat) (s : State) (h₀ : Within L s₀ s)
    (hL : [.deck] ⊆ L) : Within L s₀ (setRunning c t s) := by
  unfold setRunning
  repeat' ((with_reducible apply Within.lit); all_goals first | exact Or.inl (hL (by decide)) | with_reducible exact Or.inr rfl | with_reducible assumption)

theorem preempt_within {L : List Part} {s₀ : State} (c : Nat) (s : State) (h₀ : Within L s₀ s)
    (hL : [.live, .deck] ⊆ L) : Within L s₀ (preempt c s) := by
  unfold preempt
  with_reducible repeat' first
    | assumption
    | exact List.Subset.trans (by decide) hL
    | apply setRunning_within
    | apply makeReady_within
    | apply count_within
    | split

theorem startOn_within {L : List Part} {s₀ : State} (t : Nat) (c : Nat) (s : State) (h₀ : Within L s₀ s)
    (hL : [.live, .deck] ⊆ L) : Within L s₀ (startOn t c s) := by
  unfold startOn
  repeat' first
    | exact List.Subset.trans (by decide) hL
    | ((with_reducible apply Within.lit); all_goals first | exact Or.inl (hL (by decide)) | with_reducible exact Or.inr rfl | with_reducible assumption | with_reducible apply setRunning_within | with_reducible apply setThread_within | with_reducible apply count_within)

theorem dispatchOne_within {L : List Part} {s₀ : State} (s t : State) (h₀ : Within L s₀ s) (hL : [.live, .deck] ⊆ L)
    (h : dispatchOne s = some t) : Within L s₀ t := by
  unfold dispatchOne at h
  repeat' split at h
  all_goals cases h
  · exact startOn_within _ _ _ h₀ (List.Subset.trans (by decide) hL)
  · exact startOn_within _ _ _ (preempt_within _ _ h₀ (List.Subset.trans (by decide) hL)) (List.Subset.trans (by decide) hL)

theorem dispatchN_within {L : List Part} {s₀ : State} (n : Nat) (s : State) (h₀ : Within L s₀ s) (hL : [.live, .deck] ⊆ L) :
    Within L s₀ (dispatchN n s) := by
  induction n generalizing s with
  | zero => exact h₀
  | succ n ih =>
    unfold dispatchN
    split
    · exact ih _ (dispatchOne_within _ _ h₀ hL ‹_›)
    · exact h₀

theorem dispatch_within {L : List Part} {s₀ : State} (s : State) (h₀ : Within L s₀ s)
    (hL : [.live, .deck] ⊆ L) : Within L s₀ (dispatch s) := by
  unfold dispatch
  with_reducible repeat' first
    | assumption
    | apply dispatchN_within

theorem deckRun_within {L : List Part} {s₀ : State} (version : Word) (s : State) (h₀ : Within L s₀ s)
    (hL : [.regs, .live, .host, .deck, .ports, .out] ⊆ L) : Within L s₀ (deckRun version s) := by
  unfold deckRun
  repeat' first
    | exact List.Subset.trans (by decide) hL
    | ((with_reducible apply Within.lit); all_goals first | exact Or.inl (hL (by decide)) | with_reducible exact Or.inr rfl | with_reducible assumption | with_reducible apply Within.ite | with_reducible apply startThreads_within | with_reducible apply wrF_within | with_reducible apply rearmRings_within | with_reducible apply loadThreads_within | with_reducible apply setInt_within | with_reducible apply wr_within | with_reducible apply dispatch_within)

theorem deckStart_within {L : List Part} {s₀ : State} (s : State) (h₀ : Within L s₀ s)
    (hL : [.deck] ⊆ L) : Within L s₀ (deckStart s) := by
  unfold deckStart
  repeat' first
    | with_reducible assumption
    | ((with_reducible apply Within.lit); all_goals first | exact Or.inl (hL (by decide)) | with_reducible exact Or.inr rfl | with_reducible apply deckReset_within)

theorem drainTrig_within {L : List Part} {s₀ : State} (n : Nat) (s : State) (h₀ : Within L s₀ s) (hL : [.mast, .deck] ⊆ L) :
    Within L s₀ (drainTrig n s) := by
  induction n generalizing s with
  | zero => exact h₀
  | succ n ih =>
    unfold drainTrig
    split
    · exact h₀
    · split
      · refine ih _ (h₀.trans ⟨fun p hp => ?_⟩)
        cases p <;> first | rfl | exact absurd (hL (by decide)) hp
      · exact h₀

theorem pcSetFlag_within {L : List Part} {s₀ : State} (c : PcCounter) (s : State) (h₀ : Within L s₀ s)
    (hL : [.regs, .host, .out] ⊆ L) : Within L s₀ (pcSetFlag c s) := by
  unfold pcSetFlag
  with_reducible repeat' first
    | assumption
    | exact List.Subset.trans (by decide) hL
    | apply Within.ite
    | apply setInt_within
    | apply wr_within

theorem pcAdd_within {L : List Part} {s₀ : State} (c : PcCounter) (n : Nat) (s : State) (h₀ : Within L s₀ s)
    (hL : [.regs, .host, .out] ⊆ L) : Within L s₀ (pcAdd c n s) := by
  unfold pcAdd
  with_reducible repeat' first
    | assumption
    | exact List.Subset.trans (by decide) hL
    | apply Within.ite
    | apply pcSetFlag_within
    | apply wr64_within

theorem pcZero_within {L : List Part} {s₀ : State} (c : PcCounter) (s : State) (h₀ : Within L s₀ s)
    (hL : [.regs] ⊆ L) : Within L s₀ (pcZero c s) := by
  unfold pcZero
  with_reducible repeat' first
    | assumption
    | apply wr64_within
    | apply wr_within

theorem pushSample_within {L : List Part} {s₀ : State} (c : Nat) (w0 : Word) (w1 : Word) (w2 : Word) (w3 : Word) (s : State)
    (h₀ : Within L s₀ s)
    (hL : [.regs, .host, .out] ⊆ L) : Within L s₀ (pushSample c w0 w1 w2 w3 s) := by
  unfold pushSample
  with_reducible repeat' first
    | assumption
    | exact List.Subset.trans (by decide) hL
    | apply Within.ite
    | apply setInt_within
    | apply wr_within
    | apply setWindow_within

theorem retryHeld_within {L : List Part} {s₀ : State} (s : State) (h₀ : Within L s₀ s)
    (hL : [.deck] ⊆ L) : Within L s₀ (retryHeld s) := by
  unfold retryHeld
  repeat' first
    | (intro _; try dsimp only)
    | ((with_reducible apply Within.lit); all_goals first | exact Or.inl (hL (by decide)) | with_reducible exact Or.inr rfl | with_reducible exact Within.refl _ | with_reducible assumption | with_reducible apply Within.ite | with_reducible apply Within.foldl)

theorem setChan_within {L : List Part} {s₀ : State} (ch : Nat) (x : Chan) (s : State) (h₀ : Within L s₀ s)
    (hL : [.scales] ⊆ L) : Within L s₀ (setChan ch x s) := by
  unfold setChan
  with_reducible repeat' first
    | assumption
    | apply setScales_within

theorem setDelay_within {L : List Part} {s₀ : State} (ch : Nat) (s : State) (h₀ : Within L s₀ s)
    (hL : [.regs] ⊆ L) : Within L s₀ (setDelay ch s) := by
  unfold setDelay
  with_reducible repeat' first
    | assumption
    | apply wr_within

theorem takeUser_within {L : List Part} {s₀ : State} (ch : Nat) (s : State) (h₀ : Within L s₀ s)
    (hL : [.regs, .scales] ⊆ L) : Within L s₀ (takeUser ch s) := by
  unfold takeUser
  with_reducible repeat' first
    | assumption
    | exact List.Subset.trans (by decide) hL
    | apply setChan_within
    | apply setDelay_within

theorem calBusy_within {L : List Part} {s₀ : State} (s : State) (h₀ : Within L s₀ s)
    (hL : [.regs] ⊆ L) : Within L s₀ (calBusy s) := by
  unfold calBusy
  with_reducible repeat' first
    | assumption
    | apply wrF_within

theorem applyUser_within {L : List Part} {s₀ : State} (ch : Nat) (s : State) (h₀ : Within L s₀ s)
    (hL : [.regs, .host, .deck, .scales, .ledger, .out] ⊆ L) : Within L s₀ (applyUser ch s) := by
  unfold applyUser
  with_reducible repeat' first
    | assumption
    | exact List.Subset.trans (by decide) hL
    | apply setStat_within
    | apply logEvent_within
    | apply takeUser_within
    | apply ucalPoints_within
    | apply calBusy_within
    | apply raise_within

theorem markOvr_within {L : List Part} {s₀ : State} (ch : Nat) (s : State) (h₀ : Within L s₀ s)
    (hL : [.regs, .host, .deck, .out] ⊆ L) : Within L s₀ (markOvr ch s) := by
  unfold markOvr
  with_reducible repeat' first
    | assumption
    | exact List.Subset.trans (by decide) hL
    | apply setStat_within
    | apply wrF_within
    | apply raise_within

theorem localMeter_within {L : List Part} {s₀ : State} (s : State) (k : Nat) (h₀ : Within L s₀ s)
    (hL : [.regs, .free, .host, .deck, .scales, .pair, .ledger, .out] ⊆ L) : Within L s₀ (localMeter s k) := by
  unfold localMeter
  with_reducible repeat' first
    | assumption
    | exact List.Subset.trans (by decide) hL
    | apply Within.ite
    | apply setMeter_within
    | apply meterSample_within

theorem rmsRegister_within {L : List Part} {s₀ : State} (ch : Nat) (hist : List ScSample) (s : State) (h₀ : Within L s₀ s)
    (hL : [.regs] ⊆ L) : Within L s₀ (rmsRegister ch hist s) := by
  unfold rmsRegister
  with_reducible repeat' first
    | assumption
    | apply Within.ite
    | apply wr_within
    | split

theorem channelOutput_within {L : List Part} {s₀ : State} (ch : Nat) (bits : List Bool) (s : State) (h₀ : Within L s₀ s)
    (hL : [.regs, .free, .host, .deck, .scales, .pair, .ledger, .out] ⊆ L) : Within L s₀ (channelOutput ch bits s) := by
  unfold channelOutput
  with_reducible repeat' first
    | exact Within.refl _
    | assumption
    | exact List.Subset.trans (by decide) hL
    | (intro _; try dsimp only)
    | apply Within.ite
    | apply markOvr_within
    | apply setChan_within
    | apply localMeter_within
    | apply rmsRegister_within
    | apply drawFree_within
    | apply applyUser_within
    | apply Within.foldl

theorem setSvHist_within {L : List Part} {s₀ : State} (i : Nat) (x : SvHist) (s : State) (h₀ : Within L s₀ s)
    (hL : [.scales] ⊆ L) : Within L s₀ (setSvHist i x s) := by
  unfold setSvHist
  with_reducible repeat' first
    | assumption
    | apply setScales_within

theorem svCounts_within {L : List Part} {s₀ : State} (n : Nat) (f : SvSt → SvSt) (s : State) (h₀ : Within L s₀ s)
    (hL : [.ing] ⊆ L) : Within L s₀ (svCounts n f s) := by
  unfold svCounts
  repeat' ((with_reducible apply Within.lit); all_goals first | exact Or.inl (hL (by decide)) | with_reducible exact Or.inr rfl | with_reducible assumption)

theorem svMeter_within {L : List Part} {s₀ : State} (i : Nat) (r : SvRec) (s : State) (h₀ : Within L s₀ s)
    (hL : [.regs, .free, .host, .deck, .scales, .pair, .ledger, .out] ⊆ L) : Within L s₀ (svMeter i r s) := by
  unfold svMeter
  with_reducible repeat' first
    | exact Within.refl _
    | assumption
    | (intro _; try dsimp only)
    | apply Within.ite
    | apply meterSample_within
    | apply Within.foldl

theorem svAppend_within {L : List Part} {s₀ : State} (i : Nat) (r : SvRec) (s : State) (h₀ : Within L s₀ s)
    (hL : [.regs, .free, .host, .deck, .scales, .pair, .ledger, .out] ⊆ L) : Within L s₀ (svAppend i r s) := by
  unfold svAppend
  with_reducible repeat' first
    | assumption
    | exact List.Subset.trans (by decide) hL
    | apply svMeter_within
    | apply setSvHist_within

theorem svGap_within {L : List Part} {s₀ : State} (i : Nat) (s : State) (h₀ : Within L s₀ s)
    (hL : [.regs, .host, .deck, .ing, .out] ⊆ L) : Within L s₀ (svGap i s) := by
  unfold svGap
  with_reducible repeat' first
    | assumption
    | exact List.Subset.trans (by decide) hL
    | apply svCounts_within
    | apply raise_within

theorem svSettleOne_within {L : List Part} {s₀ : State} (i : Nat) (r : SvRec) (s : State) (h₀ : Within L s₀ s)
    (hL : [.regs, .free, .host, .deck, .ing, .scales, .pair, .ledger, .out] ⊆ L) : Within L s₀ (svSettleOne i r s) := by
  unfold svSettleOne
  with_reducible repeat' first
    | assumption
    | exact List.Subset.trans (by decide) hL
    | apply Within.ite
    | apply svCounts_within
    | apply setSvHist_within
    | apply svAppend_within
    | apply svGap_within
    | split

theorem svSettle_within {L : List Part} {s₀ : State} (i : Nat) (p : SvRec → Bool) (s : State) (h₀ : Within L s₀ s)
    (hL : [.regs, .free, .host, .deck, .ing, .scales, .pair, .ledger, .out] ⊆ L) : Within L s₀ (svSettle i p s) := by
  unfold svSettle
  with_reducible repeat' first
    | exact Within.refl _
    | assumption
    | exact List.Subset.trans (by decide) hL
    | (intro _; try dsimp only)
    | apply setSvHist_within
    | apply svSettleOne_within
    | apply Within.foldl

theorem svWindowEnd_within {L : List Part} {s₀ : State} (i : Nat) (upTo : Nat) (s : State) (h₀ : Within L s₀ s)
    (hL : [.regs, .free, .host, .deck, .ing, .scales, .pair, .ledger, .out] ⊆ L) : Within L s₀ (svWindowEnd i upTo s) := by
  unfold svWindowEnd
  with_reducible repeat' first
    | assumption
    | exact List.Subset.trans (by decide) hL
    | apply Within.ite
    | apply setSvHist_within
    | apply svSettle_within
    | apply svGap_within

theorem lsSettle_within {L : List Part} {s₀ : State} (c : LsCfg) (t : Nat) (s : State) (h₀ : Within L s₀ s)
    (hL : [.regs, .free, .host, .deck, .ing, .scales, .pair, .ledger, .out] ⊆ L) : Within L s₀ (lsSettle c t s) := by
  unfold lsSettle
  with_reducible repeat' first
    | exact Within.refl _
    | assumption
    | (intro _; try dsimp only)
    | apply svWindowEnd_within
    | apply Within.foldl

theorem estimate_within {L : List Part} {s₀ : State} (i : Nat) (inst : Nat) (s : State) (h₀ : Within L s₀ s)
    (hL : [.regs, .live, .free, .host, .deck, .ing, .mkt, .scales, .pair, .ledger, .out] ⊆ L) :
    Within L s₀ (estimate i inst s) := by
  unfold estimate
  with_reducible repeat' first
    | assumption
    | exact List.Subset.trans (by decide) hL
    | apply Within.ite
    | apply lsSettle_within
    | apply setStream_within
    | apply setScales_within
    | apply handOver_within
    | apply measureStream_within
    | apply count_within
    | split

theorem settleStatus_within {L : List Part} {s₀ : State} (s : State) (h₀ : Within L s₀ s)
    (hL : [.regs] ⊆ L) : Within L s₀ (settleStatus s) := by
  unfold settleStatus
  with_reducible repeat' first
    | assumption
    | apply setStat_within

theorem startSettling_within {L : List Part} {s₀ : State} (ch : Nat) (s : State) (h₀ : Within L s₀ s)
    (hL : [.regs, .scales] ⊆ L) : Within L s₀ (startSettling ch s) := by
  unfold startSettling
  with_reducible repeat' first
    | assumption
    | exact List.Subset.trans (by decide) hL
    | apply setStat_within
    | apply setChan_within
    | apply settleStatus_within

theorem userStart_within {L : List Part} {s₀ : State} (s : State) (h₀ : Within L s₀ s)
    (hL : [.regs, .scales] ⊆ L) : Within L s₀ (userStart s) := by
  unfold userStart
  with_reducible repeat' first
    | exact Within.refl _
    | assumption
    | exact List.Subset.trans (by decide) hL
    | (intro _; try dsimp only)
    | apply takeUser_within
    | apply setScales_within
    | apply calBusy_within
    | apply wr_within
    | apply Within.forUpTo

theorem scalesStart_within {L : List Part} {s₀ : State} (resume : Bool) (s : State) (h₀ : Within L s₀ s)
    (hL : [.regs, .scales] ⊆ L) : Within L s₀ (scalesStart resume s) := by
  unfold scalesStart
  with_reducible repeat' first
    | exact Within.refl _
    | assumption
    | exact List.Subset.trans (by decide) hL
    | (intro _; try dsimp only)
    | apply Within.ite
    | apply setStat_within
    | apply setEnergy_within
    | apply startSettling_within
    | apply userStart_within
    | apply setScales_within
    | apply settleStatus_within
    | apply Within.forUpTo

theorem scalesStep_within {L : List Part} {s₀ : State} (old : Nat) (new : Nat) (s : State) (h₀ : Within L s₀ s)
    (hL : [.scales] ⊆ L) : Within L s₀ (scalesStep old new s) := by
  unfold scalesStep
  with_reducible repeat' first
    | assumption
    | apply Within.ite
    | apply stepPoints_within
    | apply setScales_within

theorem svArrive_within {L : List Part} {s₀ : State} (n : Nat) (r : SvRec) (arrival : Nat) (s : State) (h₀ : Within L s₀ s)
    (hL : [.regs, .free, .host, .deck, .ing, .scales, .pair, .ledger, .out] ⊆ L) : Within L s₀ (svArrive n r arrival s) := by
  unfold svArrive
  with_reducible repeat' first
    | assumption
    | exact List.Subset.trans (by decide) hL
    | apply svCounts_within
    | apply setSvHist_within
    | apply svSettle_within
    | apply raise_within
    | split

theorem syncChan_within {L : List Part} {s₀ : State} (ch : Nat) (s : State) (h₀ : Within L s₀ s)
    (hL : [.regs, .scales] ⊆ L) : Within L s₀ (syncChan ch s) := by
  unfold syncChan
  with_reducible repeat' first
    | assumption
    | exact List.Subset.trans (by decide) hL
    | apply Within.ite
    | apply startSettling_within
    | apply setChan_within

theorem syncApply_within {L : List Part} {s₀ : State} (s : State) (h₀ : Within L s₀ s)
    (hL : [.regs, .free, .host, .deck, .scales, .out] ⊆ L) : Within L s₀ (syncApply s) := by
  unfold syncApply
  with_reducible repeat' first
    | exact Within.refl _
    | assumption
    | exact List.Subset.trans (by decide) hL
    | (intro _; try dsimp only)
    | apply Within.ite
    | apply setStat_within
    | apply syncChan_within
    | apply wrF_within
    | apply setScales_within
    | apply wr_within
    | apply raise_within
    | apply drawFree_within
    | apply Within.forUpTo

theorem syncRequest_within {L : List Part} {s₀ : State} (src : Nat) (s : State) (h₀ : Within L s₀ s)
    (hL : [.scales] ⊆ L) : Within L s₀ (syncRequest src s) := by
  unfold syncRequest
  with_reducible repeat' first
    | assumption
    | apply setScales_within

theorem setCap_within {L : List Part} {s₀ : State} (f : Capture → Capture) (s : State) (h₀ : Within L s₀ s)
    (hL : [.cap] ⊆ L) : Within L s₀ (setCap f s) := by
  unfold setCap
  repeat' ((with_reducible apply Within.lit); all_goals first | exact Or.inl (hL (by decide)) | with_reducible exact Or.inr rfl | with_reducible assumption)

theorem backToS0_within {L : List Part} {s₀ : State} (row : CapRow) (s : State) (h₀ : Within L s₀ s)
    (hL : [.cap] ⊆ L) : Within L s₀ (backToS0 row s) := by
  unfold backToS0
  with_reducible repeat' first
    | assumption
    | apply Within.ite
    | apply setCap_within

theorem capCount_within {L : List Part} {s₀ : State} (k : Nat) (n : Nat) (s : State) (h₀ : Within L s₀ s)
    (hL : [.live] ⊆ L) : Within L s₀ (capCount k n s) := by
  unfold capCount
  with_reducible repeat' first
    | assumption
    | apply count_within

theorem endRecord_within {L : List Part} {s₀ : State} (r : CapRec) (s : State) (h₀ : Within L s₀ s)
    (hL : [.regs, .host, .deck, .cap, .out] ⊆ L) : Within L s₀ (endRecord r s) := by
  unfold endRecord
  with_reducible repeat' first
    | assumption
    | exact List.Subset.trans (by decide) hL
    | apply raise_within
    | apply setCap_within

theorem capReef_within {L : List Part} {s₀ : State} (s : State) (h₀ : Within L s₀ s)
    (hL : [.regs, .host, .deck, .cap, .out] ⊆ L) : Within L s₀ (capReef s) := by
  unfold capReef
  with_reducible repeat' first
    | assumption
    | exact List.Subset.trans (by decide) hL
    | apply endRecord_within
    | apply setCap_within
    | split

theorem recordLimits_within {L : List Part} {s₀ : State} (pos : Int) (s : State) (h₀ : Within L s₀ s)
    (hL : [.regs, .host, .deck, .cap, .out] ⊆ L) : Within L s₀ (recordLimits pos s) := by
  unfold recordLimits
  with_reducible repeat' first
    | assumption
    | apply Within.ite
    | apply endRecord_within
    | split

theorem countGaps_within {L : List Part} {s₀ : State} (gaps : Nat) (samples : Nat) (s : State) (h₀ : Within L s₀ s)
    (hL : [.regs, .live, .host, .deck, .out] ⊆ L) : Within L s₀ (countGaps gaps samples s) := by
  unfold countGaps
  with_reducible repeat' first
    | assumption
    | exact List.Subset.trans (by decide) hL
    | apply Within.ite
    | apply capCount_within
    | apply raise_within

theorem joinRows_within {L : List Part} {s₀ : State} (rows : List CapRow) (r : CapRec) (s : State) (h₀ : Within L s₀ s)
    (hL : [.regs, .live, .host, .deck, .cap, .out] ⊆ L) : Within L s₀ (joinRows rows r s) := by
  unfold joinRows
  with_reducible repeat' first
    | assumption
    | exact List.Subset.trans (by decide) hL
    | apply countGaps_within
    | apply setCap_within

theorem extendRecord_within {L : List Part} {s₀ : State} (row : CapRow) (drained : Nat) (s : State) (h₀ : Within L s₀ s)
    (hL : [.regs, .live, .host, .deck, .cap, .out] ⊆ L) : Within L s₀ (extendRecord row drained s) := by
  unfold extendRecord
  with_reducible repeat' first
    | assumption
    | exact List.Subset.trans (by decide) hL
    | apply Within.ite
    | apply recordLimits_within
    | apply endRecord_within
    | apply joinRows_within
    | apply setCap_within
    | split

theorem releaseFor_within {L : List Part} {s₀ : State} (need n : Nat) (s : State) (h₀ : Within L s₀ s) (hL : [.cap] ⊆ L) :
    Within L s₀ (releaseFor need n s) := by
  induction n generalizing s with
  | zero => exact h₀
  | succ n ih =>
    unfold releaseFor
    repeat' split
    · exact h₀
    · exact h₀
    · exact ih _ (setCap_within _ _ h₀ (List.Subset.trans (by decide) hL))

theorem makeRoom_within {L : List Part} {s₀ : State} (s : State) (h₀ : Within L s₀ s)
    (hL : [.cap] ⊆ L) : Within L s₀ (makeRoom s).2 := by
  unfold makeRoom
  try dsimp only
  with_reducible repeat' first
    | assumption
    | apply releaseFor_within
    | split

theorem refuse_within {L : List Part} {s₀ : State} (k : Nat) (s : State) (h₀ : Within L s₀ s)
    (hL : [.regs, .live, .host, .deck, .cap, .out] ⊆ L) : Within L s₀ (refuse k s) := by
  unfold refuse
  with_reducible repeat' first
    | assumption
    | exact List.Subset.trans (by decide) hL
    | apply capCount_within
    | apply raise_within
    | apply setCap_within

theorem startRecord_within {L : List Part} {s₀ : State} (src : Nat) (state : Nat) (te : Nat) (forced : Bool) (s : State)
    (h₀ : Within L s₀ s)
    (hL : [.regs, .live, .host, .deck, .cap, .out] ⊆ L) : Within L s₀ (startRecord src state te forced s) := by
  unfold startRecord
  with_reducible repeat' first
    | assumption
    | exact List.Subset.trans (by decide) hL
    | apply Within.ite
    | apply makeRoom_within
    | apply countGaps_within
    | apply capCount_within
    | apply raise_within
    | apply refuse_within
    | apply setCap_within

theorem retrigger_within {L : List Part} {s₀ : State} (r : CapRec) (te : Nat) (s : State) (h₀ : Within L s₀ s)
    (hL : [.live, .cap] ⊆ L) : Within L s₀ (retrigger r te s) := by
  unfold retrigger
  with_reducible repeat' first
    | assumption
    | exact List.Subset.trans (by decide) hL
    | apply Within.ite
    | apply capCount_within
    | apply setCap_within

theorem capTrigger_within {L : List Part} {s₀ : State} (src : Nat) (state : Nat) (te : Nat) (forced : Bool) (s : State)
    (h₀ : Within L s₀ s)
    (hL : [.regs, .live, .host, .deck, .cap, .out] ⊆ L) : Within L s₀ (capTrigger src state te forced s) := by
  unfold capTrigger
  with_reducible repeat' first
    | assumption
    | exact List.Subset.trans (by decide) hL
    | apply startRecord_within
    | apply retrigger_within
    | split

theorem forceStep_within {L : List Part} {s₀ : State} (tag : Nat) (before : Option Nat) (s : State) (h₀ : Within L s₀ s)
    (hL : [.regs, .live, .host, .deck, .cap, .out] ⊆ L) : Within L s₀ (forceStep tag before s) := by
  unfold forceStep
  with_reducible repeat' first
    | assumption
    | exact List.Subset.trans (by decide) hL
    | apply Within.ite
    | apply capTrigger_within
    | apply refuse_within
    | apply setCap_within
    | split

theorem deadEnd_within {L : List Part} {s₀ : State} (row : CapRow) (s : State) (h₀ : Within L s₀ s)
    (hL : [.regs, .cap] ⊆ L) : Within L s₀ (deadEnd row s) := by
  unfold deadEnd
  with_reducible repeat' first
    | assumption
    | exact List.Subset.trans (by decide) hL
    | apply wr_within
    | apply setCap_within
    | split

theorem driveBell_within {L : List Part} {s₀ : State} (l : Nat) (s : State) (h₀ : Within L s₀ s)
    (hL : [.cap, .out] ⊆ L) : Within L s₀ (driveBell l s) := by
  unfold driveBell
  with_reducible repeat' first
    | assumption
    | exact List.Subset.trans (by decide) hL
    | apply Within.ite
    | apply emit_within
    | apply setCap_within

theorem driveBells_within {L : List Part} {s₀ : State} (state : Nat) (s : State) (h₀ : Within L s₀ s)
    (hL : [.cap, .out] ⊆ L) : Within L s₀ (driveBells state s) := by
  unfold driveBells
  with_reducible repeat' first
    | assumption
    | apply Within.ite
    | apply driveBell_within

theorem enterState_within {L : List Part} {s₀ : State} (state : Nat) (src : Nat) (te : Nat) (pos : Int) (s : State)
    (h₀ : Within L s₀ s)
    (hL : [.regs, .live, .host, .deck, .cap, .out] ⊆ L) : Within L s₀ (enterState state src te pos s) := by
  unfold enterState
  with_reducible repeat' first
    | assumption
    | exact List.Subset.trans (by decide) hL
    | apply Within.ite
    | apply capTrigger_within
    | apply driveBells_within
    | apply setCap_within

theorem seqStep_within {L : List Part} {s₀ : State} (evs : List (Nat × Nat)) (tag : Nat) (pos : Int) (s : State)
    (h₀ : Within L s₀ s)
    (hL : [.regs, .live, .host, .deck, .cap, .out] ⊆ L) : Within L s₀ (seqStep evs tag pos s) := by
  unfold seqStep
  try dsimp only
  with_reducible repeat' first
    | assumption
    | exact List.Subset.trans (by decide) hL
    | apply enterState_within
    | apply setCap_within
    | split

theorem seqRefuse_within {L : List Part} {s₀ : State} (k : Nat) (evs : List (Nat × Nat)) (tag : Nat) (pos : Int) (s : State)
    (h₀ : Within L s₀ s)
    (hL : [.regs, .live, .host, .deck, .cap, .out] ⊆ L) : Within L s₀ (seqRefuse k evs tag pos s) := by
  unfold seqRefuse
  try dsimp only
  with_reducible repeat' first
    | assumption
    | exact List.Subset.trans (by decide) hL
    | apply enterState_within
    | apply refuse_within
    | apply setCap_within
    | split

theorem seqHeld_within {L : List Part} {s₀ : State} (k : Nat) (evs : List (Nat × Nat)) (tag : Nat) (pos : Int) (s : State)
    (h₀ : Within L s₀ s)
    (hL : [.regs, .live, .host, .deck, .cap, .out] ⊆ L) : Within L s₀ (seqHeld k evs tag pos s) := by
  unfold seqHeld
  with_reducible repeat' first
    | assumption
    | exact List.Subset.trans (by decide) hL
    | apply Within.ite
    | apply refuse_within
    | apply setCap_within
    | split

theorem capSequence_within {L : List Part} {s₀ : State} (ended : Bool) (evs : List (Nat × Nat)) (row : CapRow) (s : State)
    (h₀ : Within L s₀ s)
    (hL : [.regs, .live, .host, .deck, .cap, .out] ⊆ L) : Within L s₀ (capSequence ended evs row s) := by
  unfold capSequence
  with_reducible repeat' first
    | assumption
    | apply Within.ite
    | apply seqStep_within
    | apply seqRefuse_within
    | apply seqHeld_within

theorem setLevel_within {L : List Part} {s₀ : State} (src : Nat) (b : Bool) (s : State) (h₀ : Within L s₀ s)
    (hL : [.cap] ⊆ L) : Within L s₀ (setLevel src b s) := by
  unfold setLevel
  with_reducible repeat' first
    | assumption
    | apply setCap_within

theorem schLow_within {L : List Part} {s₀ : State} (s : State) (h₀ : Within L s₀ s)
    (hL : [.cap] ⊆ L) : Within L s₀ (schLow s) := by
  unfold schLow
  with_reducible repeat' first
    | exact Within.refl _
    | assumption
    | (intro _; try dsimp only)
    | apply setLevel_within
    | apply Within.forUpTo

theorem takeEv_within {L : List Part} {s₀ : State} (p : State × List (Nat × Nat)) (e : CapEv) (h₀ : Within L s₀ p.1)
    (hL : [.cap] ⊆ L) : Within L s₀ (takeEv p e).1 := by
  have h := setLevel_within e.src e.level p.1 h₀ (List.Subset.trans (by decide) hL)
  unfold takeEv
  dsimp only
  split <;> exact h

theorem termStep_within {L : List Part} {s₀ : State} (tag : Nat) (p : State × List (Nat × Nat)) (k : Nat) (h₀ : Within L s₀ p.1)
    (hL : [.cap] ⊆ L) : Within L s₀ (termStep tag p k).1 := by
  have h := setLevel_within (112 + k) (termLevel p.1 k) p.1 h₀ (List.Subset.trans (by decide) hL)
  unfold termStep
  dsimp only
  repeat' split
  · exact h₀
  · exact h
  · exact h

theorem termSteps_within {L : List Part} {s₀ : State} (time : Nat) (p : State × List (Nat × Nat)) (h₀ : Within L s₀ p.1)
    (hL : [.cap] ⊆ L) : Within L s₀ (termSteps time p).1 :=
  Within.foldlFst h₀ fun p e h => termStep_within _ p e h (List.Subset.trans (by decide) hL)

theorem takeEvs_within {L : List Part} {s₀ : State} (evs : List CapEv) (s : State) (h₀ : Within L s₀ s) (hL : [.cap] ⊆ L) :
    Within L s₀ (takeEvs evs s).1 :=
  Within.foldlFst (p := (s, [])) h₀ fun p e h => termSteps_within _ _ (takeEv_within p e h (List.Subset.trans (by decide) hL)) (List.Subset.trans (by decide) hL)

theorem capTake_within {L : List Part} {s₀ : State} (drained : Nat) (row0 : CapRow) (s : State)
    (h₀ : Within L s₀ s) (hL : [.regs, .live, .host, .deck, .cap, .out] ⊆ L) :
    Within L s₀ (capTake drained row0 s) := by
  unfold capTake
  extract_lets tag s0 s1 ths due p row s3 s4 s5 evs ended
  have h1 : Within L s₀ s1 := setCap_within _ _ (termSteps_within _ _ (schLow_within _ h₀ (List.Subset.trans (by decide) hL)) (List.Subset.trans (by decide) hL)) (List.Subset.trans (by decide) hL)
  have h2 : Within L s₀ p.1 := takeEvs_within _ _ (setCap_within _ _ h1 (List.Subset.trans (by decide) hL)) (List.Subset.trans (by decide) hL)
  have h3 : Within L s₀ s4 := deadEnd_within _ _ (backToS0_within _ _ (setCap_within _ _ h2 (List.Subset.trans (by decide) hL)) (List.Subset.trans (by decide) hL)) (List.Subset.trans (by decide) hL)
  exact forceStep_within _ _ _ (capSequence_within _ _ _ _ (extendRecord_within _ _ _ h3 (List.Subset.trans (by decide) hL)) (List.Subset.trans (by decide) hL)) (List.Subset.trans (by decide) hL)

theorem capSample_within {L : List Part} {s₀ : State} (drained : Nat) (s : State) (h₀ : Within L s₀ s)
    (hL : [.regs, .live, .host, .deck, .cap, .out] ⊆ L) : Within L s₀ (capSample drained s) := by
  unfold capSample
  with_reducible repeat' first
    | assumption
    | exact List.Subset.trans (by decide) hL
    | apply Within.ite
    | apply capTake_within
    | apply setCap_within
    | split

theorem capShed_within {L : List Part} {s₀ : State} (on : Bool) (s : State) (h₀ : Within L s₀ s)
    (hL : [.cap] ⊆ L) : Within L s₀ (capShed on s) := by
  unfold capShed
  with_reducible repeat' first
    | assumption
    | apply setCap_within

theorem capStart_within {L : List Part} {s₀ : State} (resume : Bool) (s : State) (h₀ : Within L s₀ s)
    (hL : [.cap] ⊆ L) : Within L s₀ (capStart resume s) := by
  unfold capStart
  with_reducible repeat' first
    | assumption
    | apply setCap_within

theorem capStep_within {L : List Part} {s₀ : State} (s : State) (h₀ : Within L s₀ s)
    (hL : [.cap] ⊆ L) : Within L s₀ (capStep s) := by
  unfold capStep
  with_reducible repeat' first
    | assumption
    | apply setCap_within

theorem captureArm_within {L : List Part} {s₀ : State} (on : Bool) (s : State) (h₀ : Within L s₀ s)
    (hL : [.regs, .cap] ⊆ L) : Within L s₀ (captureArm on s) := by
  unfold captureArm
  with_reducible repeat' first
    | assumption
    | exact List.Subset.trans (by decide) hL
    | apply Within.ite
    | apply wrF_within
    | apply setCap_within

theorem setNest_within {L : List Part} {s₀ : State} (f : Nest → Nest) (s : State) (h₀ : Within L s₀ s)
    (hL : [.nest] ⊆ L) : Within L s₀ (setNest f s) := by
  unfold setNest
  repeat' ((with_reducible apply Within.lit); all_goals first | exact Or.inl (hL (by decide)) | with_reducible exact Or.inr rfl | with_reducible assumption)

theorem baselineSave_within {L : List Part} {s₀ : State} (s : State) (h₀ : Within L s₀ s)
    (hL : [.regs, .host, .deck, .nest, .out] ⊆ L) : Within L s₀ (baselineSave s) := by
  unfold baselineSave
  with_reducible repeat' first
    | assumption
    | exact List.Subset.trans (by decide) hL
    | apply Within.ite
    | apply setNest_within
    | apply raise_within

theorem raiseIf_within {L : List Part} {s₀ : State} (c : Bool) (a : Nat) (k : Nat) (s : State) (h₀ : Within L s₀ s)
    (hL : [.regs, .host, .deck, .out] ⊆ L) : Within L s₀ (raiseIf c a k s) := by
  unfold raiseIf
  with_reducible repeat' first
    | assumption
    | apply Within.ite
    | apply raise_within

theorem oscCount_within {L : List Part} {s₀ : State} (k : Nat) (n : Nat) (s : State) (h₀ : Within L s₀ s)
    (hL : [.live] ⊆ L) : Within L s₀ (oscCount k n s) := by
  unfold oscCount
  with_reducible repeat' first
    | assumption
    | apply count_within

theorem oscEvents_within {L : List Part} {s₀ : State} (e : OscEv) (s : State) (h₀ : Within L s₀ s)
    (hL : [.regs, .live, .host, .deck, .out] ⊆ L) : Within L s₀ (oscEvents e s) := by
  unfold oscEvents
  with_reducible repeat' first
    | assumption
    | exact List.Subset.trans (by decide) hL
    | apply raiseIf_within
    | apply oscCount_within

theorem oscNow_within {L : List Part} {s₀ : State} (damp : Bool) (amp : Bool) (src : Bool) (s : State) (h₀ : Within L s₀ s)
    (hL : [.regs, .host, .deck, .nest, .out] ⊆ L) : Within L s₀ (oscNow damp amp src s) := by
  unfold oscNow
  with_reducible repeat' first
    | assumption
    | exact List.Subset.trans (by decide) hL
    | apply raiseIf_within
    | apply setNest_within

theorem emWarm_within {L : List Part} {s₀ : State} (x : Nat) (s : State) (h₀ : Within L s₀ s)
    (hL : [.regs, .host, .deck, .nest, .out] ⊆ L) : Within L s₀ (emWarm x s) := by
  unfold emWarm
  with_reducible repeat' first
    | assumption
    | exact List.Subset.trans (by decide) hL
    | apply setNest_within
    | apply raise_within
    | split

theorem emExtract_within {L : List Part} {s₀ : State} (x : Nat) (upTo : Nat) (s0 : State) (h₀ : Within L s₀ s0)
    (hL : [.regs, .live, .free, .host, .deck, .ports, .cap, .nest, .egr, .out] ⊆ L) : Within L s₀ (emExtract x upTo s0) := by
  unfold emExtract
  with_reducible repeat' first
    | assumption
    | exact List.Subset.trans (by decide) hL
    | apply Within.ite
    | apply oscEvents_within
    | apply baselineSave_within
    | apply oscNow_within
    | apply oscCount_within
    | apply setNest_within
    | apply emWarm_within
    | apply classOutput_within

theorem emRestart_within {L : List Part} {s₀ : State} (s : State) (h₀ : Within L s₀ s)
    (hL : [.nest] ⊆ L) : Within L s₀ (emRestart s) := by
  unfold emRestart
  with_reducible repeat' first
    | assumption
    | apply setNest_within

theorem fastRestart_within {L : List Part} {s₀ : State} (s : State) (h₀ : Within L s₀ s)
    (hL : [.nest] ⊆ L) : Within L s₀ (fastRestart s) := by
  unfold fastRestart
  with_reducible repeat' first
    | assumption
    | apply setNest_within

theorem fastShed_within {L : List Part} {s₀ : State} (s : State) (h₀ : Within L s₀ s)
    (hL : [.regs, .host, .deck, .nest, .out] ⊆ L) : Within L s₀ (fastShed s) := by
  unfold fastShed
  with_reducible repeat' first
    | assumption
    | exact List.Subset.trans (by decide) hL
    | apply Within.ite
    | apply setNest_within
    | apply raise_within

theorem fastWarm_within {L : List Part} {s₀ : State} (inst : Nat) (s : State) (h₀ : Within L s₀ s)
    (hL : [.regs, .host, .deck, .nest, .out] ⊆ L) : Within L s₀ (fastWarm inst s) := by
  unfold fastWarm
  with_reducible repeat' first
    | assumption
    | exact List.Subset.trans (by decide) hL
    | apply setNest_within
    | apply raise_within
    | split

theorem oscAsOf_within {L : List Part} {s₀ : State} (e : OscEnv) (s : State) (h₀ : Within L s₀ s)
    (hL : [.regs, .nest] ⊆ L) : Within L s₀ (oscAsOf e s) := by
  unfold oscAsOf
  with_reducible repeat' first
    | assumption
    | exact List.Subset.trans (by decide) hL
    | apply setNest_within
    | apply wr_within

theorem oscClasses_within {L : List Part} {s₀ : State} (i : OscInst) (locs : NMap LocSlot) (s : State) (h₀ : Within L s₀ s)
    (hL : [.regs, .live, .free, .host, .deck, .ports, .cap, .egr, .out] ⊆ L) : Within L s₀ (oscClasses i locs s) := by
  unfold oscClasses
  with_reducible repeat' first
    | assumption
    | apply Within.ite
    | apply classOutput_within

theorem oscClose_within {L : List Part} {s₀ : State} (inst : Nat) (rev : Nat) (s : State) (h₀ : Within L s₀ s)
    (hL : [.regs, .live, .free, .host, .deck, .ports, .cap, .nest, .egr, .out] ⊆ L) : Within L s₀ (oscClose inst rev s) := by
  unfold oscClose
  with_reducible repeat' first
    | assumption
    | exact List.Subset.trans (by decide) hL
    | apply Within.ite
    | apply emExtract_within
    | apply setNest_within

theorem oscFirst_within {L : List Part} {s₀ : State} (inst : Nat) (s : State) (h₀ : Within L s₀ s)
    (hL : [.nest] ⊆ L) : Within L s₀ (oscFirst inst s) := by
  unfold oscFirst
  with_reducible repeat' first
    | assumption
    | apply setNest_within

theorem oscRerun_within {L : List Part} {s₀ : State} (inst : Nat) (tag : Nat) (s : State) (h₀ : Within L s₀ s)
    (hL : [.regs, .live, .free, .host, .deck, .ports, .cap, .nest, .egr, .out] ⊆ L) : Within L s₀ (oscRerun inst tag s) := by
  unfold oscRerun
  with_reducible repeat' first
    | assumption
    | exact List.Subset.trans (by decide) hL
    | apply oscEvents_within
    | apply oscNow_within
    | apply oscCount_within
    | apply setNest_within
    | apply oscClasses_within
    | split

theorem oscSeal_within {L : List Part} {s₀ : State} (inst : Nat) (s0 : State) (h₀ : Within L s₀ s0)
    (hL : [.regs, .live, .free, .host, .deck, .ports, .cap, .nest, .egr, .out] ⊆ L) : Within L s₀ (oscSeal inst s0) := by
  unfold oscSeal
  with_reducible repeat' first
    | assumption
    | exact List.Subset.trans (by decide) hL
    | apply Within.ite
    | apply oscEvents_within
    | apply oscNow_within
    | apply fastWarm_within
    | apply oscCount_within
    | apply setNest_within
    | apply oscClasses_within
    | apply oscFirst_within

theorem oscStart_within {L : List Part} {s₀ : State} (s : State) (h₀ : Within L s₀ s)
    (hL : [.regs, .host, .deck, .nest, .out] ⊆ L) : Within L s₀ (oscStart s) := by
  unfold oscStart
  with_reducible repeat' first
    | assumption
    | exact List.Subset.trans (by decide) hL
    | apply Within.ite
    | apply setNest_within
    | apply wr_within
    | apply raise_within

end Sys2Proof.Machine
end

