-- ==== Sys2Proof/Laws/WithinMast.lean ====
section
/-!
SUPPORT. Which parts each operation can change (Safety.Within): the Mast, the topology, the Scales and the market.
-/

namespace Sys2Proof.Machine

open Sys2Proof

set_option Elab.async false
set_option linter.all false

set_option maxRecDepth 4000

theorem cycLeave_within {L : List Part} {s₀ : State} (st : CycState) (s : State) (h₀ : Within L s₀ s)
    (hL : [.regs, .mast, .host, .deck, .out] ⊆ L) : Within L s₀ (cycLeave st s) := by
  unfold cycLeave
  repeat' first
    | exact List.Subset.trans (by decide) hL
    | ((with_reducible apply Within.lit); all_goals first | exact Or.inl (hL (by decide)) | with_reducible exact Or.inr rfl | with_reducible assumption | with_reducible apply Within.ite | with_reducible apply raise_within)

theorem cycCfgWrite_within {L : List Part} {s₀ : State} (v : Word) (s : State) (h₀ : Within L s₀ s)
    (hL : [.regs, .mast, .host, .deck, .out] ⊆ L) : Within L s₀ (cycCfgWrite v s) := by
  unfold cycCfgWrite
  repeat' first
    | exact List.Subset.trans (by decide) hL
    | ((with_reducible apply Within.lit); all_goals first | exact Or.inl (hL (by decide)) | with_reducible exact Or.inr rfl | with_reducible assumption | with_reducible apply wr_within | with_reducible apply cycLeave_within)

theorem cycleCompare_within {L : List Part} {s₀ : State} (err : Int) (inst : Option Nat) (s : State) (h₀ : Within L s₀ s)
    (hL : [.regs, .free, .mast, .host, .deck, .out] ⊆ L) : Within L s₀ (cycleCompare err inst s) := by
  unfold cycleCompare
  try dsimp only
  repeat' first
    | exact List.Subset.trans (by decide) hL
    | with_reducible apply Within.ite
    | ((with_reducible apply Within.lit); all_goals first | exact Or.inl (hL (by decide)) | with_reducible exact Or.inr rfl | with_reducible assumption | with_reducible apply raise_within | with_reducible apply drawFree_within)
    | split

theorem execCycCfgWrite_within {L : List Part} {s₀ : State} (who : Req) (v : Word) (s : State) (h₀ : Within L s₀ s)
    (hL : [.regs, .mast, .host, .deck, .out] ⊆ L) : AnswersIn L s₀ (execCycCfgWrite who v s) := by
  unfold execCycCfgWrite
  with_reducible repeat' first
    | exact Within.refl _
    | assumption
    | exact List.Subset.trans (by decide) hL
    | (intro _; try dsimp only)
    | apply AnswersIn.next
    | apply serve_within
    | apply cycCfgWrite_within

theorem execCycleCompare_within {L : List Part} {s₀ : State} (s : State) (h₀ : Within L s₀ s)
    (hL : [.regs, .free, .mast, .host, .deck, .out] ⊆ L) : AnswersIn L s₀ (execCycleCompare s) := by
  unfold execCycleCompare
  with_reducible repeat' first
    | assumption
    | apply AnswersIn.powered
    | apply cycleCompare_within
    | split

theorem flywheelLimit_within {L : List Part} {s₀ : State} (ok : Bool) (s : State) (h₀ : Within L s₀ s)
    (hL : [.mast] ⊆ L) : Within L s₀ (flywheelLimit ok s) := by
  unfold flywheelLimit
  repeat' ((with_reducible apply Within.lit); all_goals first | exact Or.inl (hL (by decide)) | with_reducible exact Or.inr rfl | with_reducible assumption | with_reducible apply Within.ite)

theorem execFlywheelLimit_within {L : List Part} {s₀ : State} (ok : Bool) (s : State) (h₀ : Within L s₀ s)
    (hL : [.mast] ⊆ L) : AnswersIn L s₀ (execFlywheelLimit ok s) := by
  unfold execFlywheelLimit
  with_reducible repeat' first
    | assumption
    | apply Within.ite
    | apply AnswersIn.powered
    | apply flywheelLimit_within

theorem gmHold_within {L : List Part} {s₀ : State} (s : State) (h₀ : Within L s₀ s)
    (hL : [.regs, .live, .mast, .host, .deck, .ports, .egr, .out] ⊆ L) : Within L s₀ (gmHold s) := by
  unfold gmHold
  with_reducible repeat' first
    | assumption
    | apply Within.ite
    | apply mastTo_within

theorem execGmChange_within {L : List Part} {s₀ : State} (who : Req) (s : State) (h₀ : Within L s₀ s)
    (hL : [.regs, .live, .mast, .host, .deck, .ports, .egr, .out] ⊆ L) : AnswersIn L s₀ (execGmChange who s) := by
  unfold execGmChange
  with_reducible repeat' first
    | exact Within.refl _
    | assumption
    | exact List.Subset.trans (by decide) hL
    | (intro _; try dsimp only)
    | apply Within.ite
    | apply AnswersIn.next
    | apply serve_within
    | apply gmHold_within

theorem lockedToHoldover_within {L : List Part} {s₀ : State} (s : State) (h₀ : Within L s₀ s)
    (hL : [.regs, .live, .mast, .host, .deck, .ports, .egr, .out] ⊆ L) : Within L s₀ (lockedToHoldover s) := by
  unfold lockedToHoldover
  with_reducible repeat' first
    | assumption
    | apply Within.ite
    | apply mastTo_within

theorem execGmLost_within {L : List Part} {s₀ : State} (who : Req) (s : State) (h₀ : Within L s₀ s)
    (hL : [.regs, .live, .mast, .host, .deck, .ports, .egr, .out] ⊆ L) : AnswersIn L s₀ (execGmLost who s) := by
  unfold execGmLost
  with_reducible repeat' first
    | exact Within.refl _
    | assumption
    | exact List.Subset.trans (by decide) hL
    | (intro _; try dsimp only)
    | apply Within.ite
    | apply AnswersIn.next
    | apply serve_within
    | apply lockedToHoldover_within
    | apply gmHold_within

theorem execGmReturn_within {L : List Part} {s₀ : State} (who : Req) (s : State) (h₀ : Within L s₀ s)
    (hL : [.regs, .live, .mast, .host, .deck, .ports, .egr, .out] ⊆ L) : AnswersIn L s₀ (execGmReturn who s) := by
  unfold execGmReturn
  with_reducible repeat' first
    | exact Within.refl _
    | assumption
    | exact List.Subset.trans (by decide) hL
    | (intro _; try dsimp only)
    | apply Within.ite
    | apply AnswersIn.next
    | apply serve_within
    | apply mastTo_within

theorem guardAccept_within {L : List Part} {s₀ : State} (s : State) (h₀ : Within L s₀ s)
    (hL : [.regs, .live, .mast, .host, .deck, .ports, .egr, .out] ⊆ L) : Within L s₀ (guardAccept s) := by
  unfold guardAccept
  repeat' first
    | with_reducible assumption
    | ((with_reducible apply Within.lit); all_goals first | exact Or.inl (hL (by decide)) | with_reducible exact Or.inr rfl | with_reducible assumption | with_reducible apply Within.ite | with_reducible apply mastTo_within)

theorem execGuardAccept_within {L : List Part} {s₀ : State} (who : Req) (s : State) (h₀ : Within L s₀ s)
    (hL : [.regs, .live, .mast, .host, .deck, .ports, .egr, .out] ⊆ L) : AnswersIn L s₀ (execGuardAccept who s) := by
  unfold execGuardAccept
  with_reducible repeat' first
    | exact Within.refl _
    | assumption
    | exact List.Subset.trans (by decide) hL
    | (intro _; try dsimp only)
    | apply AnswersIn.next
    | apply guardAccept_within
    | apply serve_within

theorem execHoldSet_within {L : List Part} {s₀ : State} (who : Req) (s : State) (h₀ : Within L s₀ s)
    (hL : [.regs, .live, .mast, .host, .deck, .ports, .egr, .out] ⊆ L) : AnswersIn L s₀ (execHoldSet who s) := by
  unfold execHoldSet
  with_reducible repeat' first
    | exact Within.refl _
    | assumption
    | exact List.Subset.trans (by decide) hL
    | (intro _; try dsimp only)
    | apply AnswersIn.next
    | apply serve_within
    | apply lockedToHoldover_within

theorem execHoldoverLimitCrossed_within {L : List Part} {s₀ : State} (sec : BitVec 32) (s : State) (h₀ : Within L s₀ s)
    (hL : [.mast] ⊆ L) : AnswersIn L s₀ (execHoldoverLimitCrossed sec s) := by
  unfold execHoldoverLimitCrossed
  with_reducible repeat' first
    | assumption
    | apply Within.ite
    | apply AnswersIn.powered
    | apply updateHoldExc_within

theorem incrWrite_within {L : List Part} {s₀ : State} (v : Word) (s : State) (h₀ : Within L s₀ s)
    (hL : [.regs, .mast, .host, .deck, .out] ⊆ L) : Within L s₀ (incrWrite v s) := by
  unfold incrWrite
  repeat' first
    | exact List.Subset.trans (by decide) hL
    | ((with_reducible apply Within.lit); all_goals first | exact Or.inl (hL (by decide)) | with_reducible exact Or.inr rfl | with_reducible assumption | with_reducible apply Within.ite | with_reducible apply wr_within | with_reducible apply raise_within)

theorem execIncrWrite_within {L : List Part} {s₀ : State} (who : Req) (v : Word) (s : State) (h₀ : Within L s₀ s)
    (hL : [.regs, .mast, .host, .deck, .out] ⊆ L) : AnswersIn L s₀ (execIncrWrite who v s) := by
  unfold execIncrWrite
  with_reducible repeat' first
    | exact Within.refl _
    | assumption
    | exact List.Subset.trans (by decide) hL
    | (intro _; try dsimp only)
    | apply AnswersIn.next
    | apply incrWrite_within
    | apply serve_within

theorem irigFrame_within {L : List Part} {s₀ : State} (f : IrigFrame) (s : State) (h₀ : Within L s₀ s)
    (hL : [.regs, .mast] ⊆ L) : Within L s₀ (irigFrame f s) := by
  unfold irigFrame
  repeat' first
    | exact List.Subset.trans (by decide) hL
    | ((with_reducible apply Within.lit); all_goals first | exact Or.inl (hL (by decide)) | with_reducible exact Or.inr rfl | with_reducible assumption | with_reducible apply Within.ite | with_reducible apply wrF_within | with_reducible apply wr_within)

theorem execIrigFrame_within {L : List Part} {s₀ : State} (f : IrigFrame) (s : State) (h₀ : Within L s₀ s)
    (hL : [.regs, .mast] ⊆ L) : AnswersIn L s₀ (execIrigFrame f s) := by
  unfold execIrigFrame
  with_reducible repeat' first
    | assumption
    | apply Within.ite
    | apply AnswersIn.powered
    | apply irigFrame_within

theorem kernelTick_within {L : List Part} {s₀ : State} (s : State) (h₀ : Within L s₀ s)
    (hL : [.regs, .deck] ⊆ L) : Within L s₀ (kernelTick s) := by
  unfold kernelTick
  repeat' first
    | exact List.Subset.trans (by decide) hL
    | ((with_reducible apply Within.lit); all_goals first | exact Or.inl (hL (by decide)) | with_reducible exact Or.inr rfl | with_reducible assumption | with_reducible apply wr_within)

theorem execKernelTick_within {L : List Part} {s₀ : State} (s : State) (h₀ : Within L s₀ s)
    (hL : [.regs, .mast, .deck] ⊆ L) : AnswersIn L s₀ (execKernelTick s) := by
  unfold execKernelTick
  repeat' first
    | exact List.Subset.trans (by decide) hL
    | with_reducible apply AnswersIn.powered
    | ((with_reducible apply Within.lit); all_goals first | exact Or.inl (hL (by decide)) | with_reducible exact Or.inr rfl | with_reducible assumption | with_reducible apply Within.ite | with_reducible apply kernelTick_within)

theorem leapApplied_within {L : List Part} {s₀ : State} (s : State) (h₀ : Within L s₀ s)
    (hL : [.regs, .mast, .host, .deck, .ledger, .out] ⊆ L) : Within L s₀ (leapApplied s) := by
  unfold leapApplied
  repeat' first
    | exact List.Subset.trans (by decide) hL
    | ((with_reducible apply Within.lit); all_goals first | exact Or.inl (hL (by decide)) | with_reducible exact Or.inr rfl | with_reducible assumption | with_reducible apply logEvent_within | with_reducible apply wr_within | with_reducible apply raise_within)

theorem execLeapApplied_within {L : List Part} {s₀ : State} (s : State) (h₀ : Within L s₀ s)
    (hL : [.regs, .mast, .host, .deck, .ledger, .out] ⊆ L) : AnswersIn L s₀ (execLeapApplied s) := by
  unfold execLeapApplied
  with_reducible repeat' first
    | assumption
    | apply Within.ite
    | apply AnswersIn.powered
    | apply leapApplied_within

theorem lockSet_within {L : List Part} {s₀ : State} (s : State) (h₀ : Within L s₀ s)
    (hL : [.regs, .live, .mast, .host, .deck, .ports, .egr, .out] ⊆ L) : Within L s₀ (lockSet s) := by
  unfold lockSet
  repeat' first
    | exact List.Subset.trans (by decide) hL
    | ((with_reducible apply Within.lit); all_goals first | exact Or.inl (hL (by decide)) | with_reducible exact Or.inr rfl | with_reducible assumption | with_reducible apply Within.ite | with_reducible apply updateHoldExc_within | with_reducible apply nodeEdge_within)

theorem execLockSet_within {L : List Part} {s₀ : State} (who : Req) (s : State) (h₀ : Within L s₀ s)
    (hL : [.regs, .live, .mast, .host, .deck, .ports, .egr, .out] ⊆ L) : AnswersIn L s₀ (execLockSet who s) := by
  unfold execLockSet
  with_reducible repeat' first
    | exact Within.refl _
    | assumption
    | exact List.Subset.trans (by decide) hL
    | (intro _; try dsimp only)
    | apply AnswersIn.next
    | apply lockSet_within
    | apply serve_within

theorem execNoIncrementTimeout_within {L : List Part} {s₀ : State} (s : State) (h₀ : Within L s₀ s)
    (hL : [.regs, .live, .mast, .host, .deck, .ports, .egr, .out] ⊆ L) : AnswersIn L s₀ (execNoIncrementTimeout s) := by
  unfold execNoIncrementTimeout
  with_reducible repeat' first
    | assumption
    | apply Within.ite
    | apply AnswersIn.powered
    | apply lockedToHoldover_within

theorem ppsEdge_within {L : List Part} {s₀ : State} (s : State) (h₀ : Within L s₀ s)
    (hL : [.regs, .mast] ⊆ L) : Within L s₀ (ppsEdge s) := by
  unfold ppsEdge
  repeat' first
    | exact List.Subset.trans (by decide) hL
    | ((with_reducible apply Within.lit); all_goals first | exact Or.inl (hL (by decide)) | with_reducible exact Or.inr rfl | with_reducible assumption | with_reducible apply Within.ite | with_reducible apply wr_within)

theorem execPpsEdge_within {L : List Part} {s₀ : State} (s : State) (h₀ : Within L s₀ s)
    (hL : [.regs, .mast] ⊆ L) : AnswersIn L s₀ (execPpsEdge s) := by
  unfold execPpsEdge
  with_reducible repeat' first
    | assumption
    | apply Within.ite
    | apply AnswersIn.powered
    | apply ppsEdge_within

theorem execPpsMissing_within {L : List Part} {s₀ : State} (s : State) (h₀ : Within L s₀ s)
    (hL : [.regs, .host, .deck, .out] ⊆ L) : AnswersIn L s₀ (execPpsMissing s) := by
  unfold execPpsMissing
  with_reducible repeat' first
    | assumption
    | apply Within.ite
    | apply AnswersIn.powered
    | apply raise_within

theorem execCycleReferenceLost_within {L : List Part} {s₀ : State} (why : RefLoss) (s : State) (h₀ : Within L s₀ s)
    (hL : [.regs, .mast, .host, .deck, .out] ⊆ L) : AnswersIn L s₀ (execCycleReferenceLost why s) := by
  unfold execCycleReferenceLost
  with_reducible repeat' first
    | assumption
    | apply Within.ite
    | apply AnswersIn.powered
    | apply cycLeave_within

theorem schDisarm_within {L : List Part} {s₀ : State} (e : Nat) (s : State) (h₀ : Within L s₀ s)
    (hL : [.mast] ⊆ L) : Within L s₀ (schDisarm e s) := by
  unfold schDisarm
  with_reducible repeat' first
    | assumption
    | apply setEntry_within

theorem execSchDisarm_within {L : List Part} {s₀ : State} (who : Req) (s : State) (h₀ : Within L s₀ s)
    (hL : [.regs, .mast, .host] ⊆ L) : AnswersIn L s₀ (execSchDisarm who s) := by
  unfold execSchDisarm
  with_reducible repeat' first
    | exact Within.refl _
    | assumption
    | exact List.Subset.trans (by decide) hL
    | (intro _; try dsimp only)
    | apply AnswersIn.next
    | apply wrF_within
    | apply serve_within
    | apply schDisarm_within

theorem execSchDisarmAll_within {L : List Part} {s₀ : State} (who : Req) (s : State) (h₀ : Within L s₀ s)
    (hL : [.regs, .mast, .host] ⊆ L) : AnswersIn L s₀ (execSchDisarmAll who s) := by
  unfold execSchDisarmAll
  with_reducible repeat' first
    | exact Within.refl _
    | assumption
    | exact List.Subset.trans (by decide) hL
    | (intro _; try dsimp only)
    | apply AnswersIn.next
    | apply wrF_within
    | apply serve_within
    | apply schDisarm_within
    | apply Within.forUpTo

theorem execSchLoad_within {L : List Part} {s₀ : State} (who : Req) (s : State) (h₀ : Within L s₀ s)
    (hL : [.regs, .host] ⊆ L) : AnswersIn L s₀ (execSchLoad who s) := by
  unfold execSchLoad
  with_reducible repeat' first
    | exact Within.refl _
    | assumption
    | exact List.Subset.trans (by decide) hL
    | (intro _; try dsimp only)
    | apply AnswersIn.next
    | apply wrWords_within
    | apply wrF_within
    | apply serve_within

theorem execSchStore_within {L : List Part} {s₀ : State} (who : Req) (s : State) (h₀ : Within L s₀ s)
    (hL : [.regs, .mast, .host, .deck, .scales, .cap, .out] ⊆ L) : AnswersIn L s₀ (execSchStore who s) := by
  unfold execSchStore
  with_reducible repeat' first
    | exact Within.refl _
    | assumption
    | exact List.Subset.trans (by decide) hL
    | (intro _; try dsimp only)
    | apply AnswersIn.next
    | apply serve_within
    | apply schStore_within

theorem execScheduleFire_within {L : List Part} {s₀ : State} (e : Fin 512) (s : State) (h₀ : Within L s₀ s)
    (hL : [.regs, .mast, .host, .deck, .scales, .cap, .out] ⊆ L) : AnswersIn L s₀ (execScheduleFire e s) := by
  unfold execScheduleFire
  with_reducible repeat' first
    | assumption
    | apply Within.ite
    | apply AnswersIn.powered
    | apply schOccur_within

theorem timeBlockFreeze_within {L : List Part} {s₀ : State} (who : Req) (k : Nat) (s : State) (h₀ : Within L s₀ s)
    (hL : [.mast, .out] ⊆ L) : Within L s₀ (timeBlockFreeze who k s) := by
  unfold timeBlockFreeze
  repeat' first
    | exact List.Subset.trans (by decide) hL
    | ((with_reducible apply Within.lit); all_goals first | exact Or.inl (hL (by decide)) | with_reducible exact Or.inr rfl | with_reducible assumption | with_reducible apply answer_within)

theorem execTimeBlockFreeze_within {L : List Part} {s₀ : State} (who : Req) (k : Fin 5) (s : State) (h₀ : Within L s₀ s)
    (hL : [.mast, .host, .out] ⊆ L) : AnswersIn L s₀ (execTimeBlockFreeze who k s) := by
  unfold execTimeBlockFreeze
  with_reducible repeat' first
    | exact Within.refl _
    | assumption
    | exact List.Subset.trans (by decide) hL
    | (intro _; try dsimp only)
    | apply AnswersIn.next
    | apply timeBlockFreeze_within
    | apply serve_within

theorem timeBlockRelease_within {L : List Part} {s₀ : State} (who : Req) (s : State) (h₀ : Within L s₀ s)
    (hL : [.mast, .out] ⊆ L) : Within L s₀ (timeBlockRelease who s) := by
  unfold timeBlockRelease
  repeat' first
    | exact List.Subset.trans (by decide) hL
    | ((with_reducible apply Within.lit); all_goals first | exact Or.inl (hL (by decide)) | with_reducible exact Or.inr rfl | with_reducible assumption | with_reducible apply answer_within)

theorem execTimeBlockRelease_within {L : List Part} {s₀ : State} (who : Req) (s : State) (h₀ : Within L s₀ s)
    (hL : [.mast, .host, .out] ⊆ L) : AnswersIn L s₀ (execTimeBlockRelease who s) := by
  unfold execTimeBlockRelease
  with_reducible repeat' first
    | exact Within.refl _
    | assumption
    | exact List.Subset.trans (by decide) hL
    | (intro _; try dsimp only)
    | apply AnswersIn.next
    | apply timeBlockRelease_within
    | apply serve_within

theorem execTimeFreezeTimeout_within {L : List Part} {s₀ : State} (who : Req) (s : State) (h₀ : Within L s₀ s)
    (hL : [.mast] ⊆ L) : AnswersIn L s₀ (execTimeFreezeTimeout who s) := by
  unfold execTimeFreezeTimeout
  repeat' first
    | with_reducible apply AnswersIn.powered
    | ((with_reducible apply Within.lit); all_goals first | exact Or.inl (hL (by decide)) | with_reducible exact Or.inr rfl | with_reducible assumption | with_reducible apply Within.ite)

theorem tqWrite_within {L : List Part} {s₀ : State} (v : Word) (s : State) (h₀ : Within L s₀ s)
    (hL : [.mast] ⊆ L) : Within L s₀ (tqWrite v s) := by
  unfold tqWrite
  repeat' first
    | with_reducible assumption
    | ((with_reducible apply Within.lit); all_goals first | exact Or.inl (hL (by decide)) | with_reducible exact Or.inr rfl | with_reducible assumption | with_reducible apply updateHoldExc_within)

theorem execTqWrite_within {L : List Part} {s₀ : State} (who : Req) (v : Word) (s : State) (h₀ : Within L s₀ s)
    (hL : [.mast, .host] ⊆ L) : AnswersIn L s₀ (execTqWrite who v s) := by
  unfold execTqWrite
  with_reducible repeat' first
    | exact Within.refl _
    | assumption
    | exact List.Subset.trans (by decide) hL
    | (intro _; try dsimp only)
    | apply AnswersIn.next
    | apply serve_within
    | apply tqWrite_within

theorem homeChange_within {L : List Part} {s₀ : State} (was : Option IslSlot) (now : Option IslSlot) (s : State)
    (h₀ : Within L s₀ s)
    (hL : [.regs, .mast, .host, .deck, .out] ⊆ L) : Within L s₀ (homeChange was now s) := by
  unfold homeChange
  repeat' first
    | with_reducible assumption
    | ((with_reducible apply Within.lit); all_goals first | exact Or.inl (hL (by decide)) | with_reducible exact Or.inr rfl | with_reducible apply Within.ite | with_reducible apply cycLeave_within)

theorem topCount_within {L : List Part} {s₀ : State} (k : Nat) (n : Nat) (s : State) (h₀ : Within L s₀ s)
    (hL : [.live] ⊆ L) : Within L s₀ (topCount k n s) := by
  unfold topCount
  with_reducible repeat' first
    | assumption
    | apply count_within

theorem latchSplit_within {L : List Part} {s₀ : State} (stream : Nat) (inst : Nat) (tag : Nat) (s : State) (p : Nat × Bool)
    (h₀ : Within L s₀ s)
    (hL : [.regs, .live] ⊆ L) : Within L s₀ (latchSplit stream inst tag s p) := by
  unfold latchSplit
  with_reducible repeat' first
    | assumption
    | exact List.Subset.trans (by decide) hL
    | apply wrWords_within
    | apply topCount_within

theorem latestPut_within {L : List Part} {s₀ : State} (k : Nat) (inst : Nat) (v : Slot) (s : State) (h₀ : Within L s₀ s)
    (hL : [.nest] ⊆ L) : Within L s₀ (latestPut k inst v s) := by
  unfold latestPut
  with_reducible repeat' first
    | assumption
    | apply setNest_within

theorem nestClose_within {L : List Part} {s₀ : State} (inst : Nat) (rev : Nat) (s : State) (h₀ : Within L s₀ s)
    (hL : [.regs, .live, .free, .host, .deck, .ports, .cap, .nest, .egr, .out] ⊆ L) : Within L s₀ (nestClose inst rev s) := by
  unfold nestClose
  with_reducible repeat' first
    | assumption
    | apply Within.ite
    | apply oscClose_within

theorem topSet_within {L : List Part} {s₀ : State} (i : TopInst) (s : State) (h₀ : Within L s₀ s)
    (hL : [.regs] ⊆ L) : Within L s₀ (topSet i s) := by
  unfold topSet
  with_reducible repeat' first
    | assumption
    | apply wr_within

theorem topClasses_within {L : List Part} {s₀ : State} (newest : Bool) (x : TopInst) (s : State) (h₀ : Within L s₀ s)
    (hL : [.regs, .live, .free, .host, .deck, .ports, .cap, .nest, .egr, .out] ⊆ L) : Within L s₀ (topClasses newest x s) := by
  unfold topClasses
  with_reducible repeat' first
    | assumption
    | exact List.Subset.trans (by decide) hL
    | apply Within.ite
    | apply setNest_within
    | apply classOutput_within

theorem topEvents_within {L : List Part} {s₀ : State} (e : TopEv) (s : State) (h₀ : Within L s₀ s)
    (hL : [.regs, .live, .host, .deck, .ledger, .out] ⊆ L) : Within L s₀ (topEvents e s) := by
  unfold topEvents
  with_reducible repeat' first
    | assumption
    | exact List.Subset.trans (by decide) hL
    | apply Within.ite
    | apply logEvent_within
    | apply raiseIf_within
    | apply topCount_within
    | apply raise_within

theorem topRerun_within {L : List Part} {s₀ : State} (inst : Nat) (tag : Nat) (s : State) (h₀ : Within L s₀ s)
    (hL : [.regs, .live, .free, .mast, .host, .deck, .ports, .cap, .nest, .egr, .ledger, .out] ⊆ L) :
    Within L s₀ (topRerun inst tag s) := by
  unfold topRerun
  with_reducible repeat' first
    | assumption
    | exact List.Subset.trans (by decide) hL
    | apply topCount_within
    | apply homeChange_within
    | apply setNest_within
    | apply topClasses_within
    | apply topEvents_within
    | split

theorem nestRevision_within {L : List Part} {s₀ : State} (inst : Nat) (rev : Nat) (changed : List Nat) (s : State)
    (h₀ : Within L s₀ s)
    (hL : [.regs, .live, .free, .mast, .host, .deck, .ports, .cap, .nest, .egr, .ledger, .out] ⊆ L) :
    Within L s₀ (nestRevision inst rev changed s) := by
  unfold nestRevision
  with_reducible repeat' first
    | assumption
    | exact List.Subset.trans (by decide) hL
    | apply Within.ite
    | apply topRerun_within
    | apply oscRerun_within

theorem topSeal_within {L : List Part} {s₀ : State} (inst : Nat) (s : State) (h₀ : Within L s₀ s)
    (hL : [.regs, .live, .free, .mast, .host, .deck, .ports, .cap, .nest, .egr, .ledger, .out] ⊆ L) :
    Within L s₀ (topSeal inst s) := by
  unfold topSeal
  with_reducible repeat' first
    | assumption
    | exact List.Subset.trans (by decide) hL
    | apply Within.ite
    | apply topCount_within
    | apply homeChange_within
    | apply setNest_within
    | apply topClasses_within
    | apply topEvents_within

theorem nestSeal_within {L : List Part} {s₀ : State} (inst : Nat) (s : State) (h₀ : Within L s₀ s)
    (hL : [.regs, .live, .free, .mast, .host, .deck, .ports, .cap, .nest, .egr, .ledger, .out] ⊆ L) :
    Within L s₀ (nestSeal inst s) := by
  unfold nestSeal
  with_reducible repeat' first
    | assumption
    | exact List.Subset.trans (by decide) hL
    | apply Within.ite
    | apply oscSeal_within
    | apply topSeal_within

theorem topStart_within {L : List Part} {s₀ : State} (s : State) (h₀ : Within L s₀ s)
    (hL : [.nest] ⊆ L) : Within L s₀ (topStart s) := by
  unfold topStart
  with_reducible repeat' first
    | assumption
    | apply setNest_within

theorem nestStart_within {L : List Part} {s₀ : State} (s : State) (h₀ : Within L s₀ s)
    (hL : [.regs, .host, .deck, .nest, .out] ⊆ L) : Within L s₀ (nestStart s) := by
  unfold nestStart
  with_reducible repeat' first
    | assumption
    | exact List.Subset.trans (by decide) hL
    | apply oscStart_within
    | apply topStart_within

theorem topError_within {L : List Part} {s₀ : State} (s : State) (h₀ : Within L s₀ s)
    (hL : [.regs, .host, .deck, .nest, .out] ⊆ L) : Within L s₀ (topError s) := by
  unfold topError
  with_reducible repeat' first
    | assumption
    | exact List.Subset.trans (by decide) hL
    | apply setNest_within
    | apply raise_within

theorem topPlace_within {L : List Part} {s₀ : State} (stream : Nat) (inst : Nat) (tag : Nat) (v : Slot) (s : State)
    (h₀ : Within L s₀ s)
    (hL : [.regs, .live, .free, .host, .deck, .ports, .cap, .nest, .egr, .out] ⊆ L) :
    Within L s₀ (topPlace stream inst tag v s) := by
  unfold topPlace
  with_reducible repeat' first
    | exact Within.refl _
    | assumption
    | exact List.Subset.trans (by decide) hL
    | (intro _; try dsimp only)
    | apply Within.ite
    | apply topCount_within
    | apply setNest_within
    | apply latestPut_within
    | apply raise_within
    | apply classOutput_within
    | apply latchSplit_within
    | apply Within.foldl

theorem bootSyncStore_within {L : List Part} {s₀ : State} (s : State) (h₀ : Within L s₀ s)
    (hL : [.mast, .scales] ⊆ L) : Within L s₀ (bootSyncStore s) := by
  unfold bootSyncStore
  with_reducible repeat' first
    | assumption
    | exact List.Subset.trans (by decide) hL
    | apply Within.ite
    | apply setScales_within
    | apply setEntry_within

theorem calApply_within {L : List Part} {s₀ : State} (mask : Nat) (s : State) (h₀ : Within L s₀ s)
    (hL : [.regs, .host, .deck, .scales, .ledger, .out] ⊆ L) : Within L s₀ (calApply mask s) := by
  unfold calApply
  with_reducible repeat' first
    | exact Within.refl _
    | assumption
    | exact List.Subset.trans (by decide) hL
    | (intro _; try dsimp only)
    | apply Within.ite
    | apply wrF_within
    | apply setChan_within
    | apply calBusy_within
    | apply raise_within
    | apply applyUser_within
    | apply Within.forUpTo

theorem channelDead_within {L : List Part} {s₀ : State} (ch : Nat) (s : State) (h₀ : Within L s₀ s)
    (hL : [.regs, .host, .deck, .out] ⊆ L) : Within L s₀ (channelDead ch s) := by
  unfold channelDead
  with_reducible repeat' first
    | assumption
    | exact List.Subset.trans (by decide) hL
    | apply Within.ite
    | apply setStat_within
    | apply raise_within

theorem execBootSyncFallback_within {L : List Part} {s₀ : State} (s : State) (h₀ : Within L s₀ s)
    (hL : [.scales] ⊆ L) : AnswersIn L s₀ (execBootSyncFallback s) := by
  unfold execBootSyncFallback
  with_reducible repeat' first
    | assumption
    | apply Within.ite
    | apply AnswersIn.powered
    | apply syncRequest_within
    | apply setScales_within

theorem execBootSyncStore_within {L : List Part} {s₀ : State} (s : State) (h₀ : Within L s₀ s)
    (hL : [.mast, .scales] ⊆ L) : AnswersIn L s₀ (execBootSyncStore s) := by
  unfold execBootSyncStore
  with_reducible repeat' first
    | assumption
    | apply AnswersIn.powered
    | apply bootSyncStore_within

theorem execCalApply_within {L : List Part} {s₀ : State} (who : Req) (mask : BitVec 24) (s : State) (h₀ : Within L s₀ s)
    (hL : [.regs, .host, .deck, .scales, .ledger, .out] ⊆ L) : AnswersIn L s₀ (execCalApply who mask s) := by
  unfold execCalApply
  with_reducible repeat' first
    | exact Within.refl _
    | assumption
    | exact List.Subset.trans (by decide) hL
    | (intro _; try dsimp only)
    | apply Within.ite
    | apply AnswersIn.next
    | apply calApply_within
    | apply holdWrite_within
    | apply serve_within

theorem execChannelDead_within {L : List Part} {s₀ : State} (ch : Fin 24) (s : State) (h₀ : Within L s₀ s)
    (hL : [.regs, .host, .deck, .out] ⊆ L) : AnswersIn L s₀ (execChannelDead ch s) := by
  unfold execChannelDead
  with_reducible repeat' first
    | assumption
    | apply AnswersIn.powered
    | apply channelDead_within

theorem execDeadClear_within {L : List Part} {s₀ : State} (ch : Fin 24) (s : State) (h₀ : Within L s₀ s)
    (hL : [.regs, .scales] ⊆ L) : AnswersIn L s₀ (execDeadClear ch s) := by
  unfold execDeadClear
  with_reducible repeat' first
    | assumption
    | exact List.Subset.trans (by decide) hL
    | apply Within.ite
    | apply AnswersIn.powered
    | apply setStat_within
    | apply startSettling_within

theorem execDecimatorOutput_within {L : List Part} {s₀ : State} (ch : Fin 24) (bits : List Bool) (s : State) (h₀ : Within L s₀ s)
    (hL : [.regs, .free, .host, .deck, .scales, .pair, .ledger, .out] ⊆ L) : AnswersIn L s₀ (execDecimatorOutput ch bits s) := by
  unfold execDecimatorOutput
  with_reducible repeat' first
    | assumption
    | apply Within.ite
    | apply AnswersIn.powered
    | apply channelOutput_within

theorem execEstimateComplete_within {L : List Part} {s₀ : State} (ls : Fin 64) (inst : Nat) (s : State) (h₀ : Within L s₀ s)
    (hL : [.regs, .live, .free, .host, .deck, .ing, .mkt, .scales, .pair, .ledger, .out] ⊆ L) :
    AnswersIn L s₀ (execEstimateComplete ls inst s) := by
  unfold execEstimateComplete
  with_reducible repeat' first
    | assumption
    | apply AnswersIn.powered
    | apply estimate_within

theorem fcalLoad_within {L : List Part} {s₀ : State} (ch : Nat) (s : State) (h₀ : Within L s₀ s)
    (hL : [.regs] ⊆ L) : Within L s₀ (fcalLoad ch s) := by
  unfold fcalLoad
  with_reducible repeat' first
    | exact Within.refl _
    | assumption
    | (intro _; try dsimp only)
    | apply wr_within
    | apply Within.forUpTo

theorem execFcalLoad_within {L : List Part} {s₀ : State} (who : Req) (ch : BitVec 5) (s : State) (h₀ : Within L s₀ s)
    (hL : [.regs, .host] ⊆ L) : AnswersIn L s₀ (execFcalLoad who ch s) := by
  unfold execFcalLoad
  with_reducible repeat' first
    | exact Within.refl _
    | assumption
    | exact List.Subset.trans (by decide) hL
    | (intro _; try dsimp only)
    | apply AnswersIn.next
    | apply serve_within
    | apply fcalLoad_within

theorem putPq_within {L : List Part} {s₀ : State} (v : Word × Word) (s : State) (h₀ : Within L s₀ s)
    (hL : [.regs] ⊆ L) : Within L s₀ (putPq v s) := by
  unfold putPq
  with_reducible repeat' first
    | assumption
    | apply wr_within

theorem execPqLoad_within {L : List Part} {s₀ : State} (who : Req) (s : State) (h₀ : Within L s₀ s)
    (hL : [.regs, .host] ⊆ L) : AnswersIn L s₀ (execPqLoad who s) := by
  unfold execPqLoad
  with_reducible repeat' first
    | exact Within.refl _
    | assumption
    | exact List.Subset.trans (by decide) hL
    | (intro _; try dsimp only)
    | apply AnswersIn.next
    | apply putPq_within
    | apply serve_within

theorem pqStored_within {L : List Part} {s₀ : State} (s : State) (h₀ : Within L s₀ s)
    (hL : [.regs, .host, .deck, .ledger, .out] ⊆ L) : Within L s₀ (pqStored s) := by
  unfold pqStored
  with_reducible repeat' first
    | assumption
    | exact List.Subset.trans (by decide) hL
    | apply logEvent_within
    | apply wrF_within
    | apply raise_within

theorem pqRefuse_within {L : List Part} {s₀ : State} (s : State) (h₀ : Within L s₀ s)
    (hL : [.regs, .host, .deck, .out] ⊆ L) : Within L s₀ (pqRefuse s) := by
  unfold pqRefuse
  with_reducible repeat' first
    | assumption
    | exact List.Subset.trans (by decide) hL
    | apply wrF_within
    | apply raise_within

theorem pqStore_within {L : List Part} {s₀ : State} (s : State) (h₀ : Within L s₀ s)
    (hL : [.regs, .host, .deck, .scales, .ledger, .out] ⊆ L) : Within L s₀ (pqStore s) := by
  unfold pqStore
  with_reducible repeat' first
    | assumption
    | exact List.Subset.trans (by decide) hL
    | apply Within.ite
    | apply pqStored_within
    | apply pqRefuse_within
    | apply setScales_within

theorem execPqStore_within {L : List Part} {s₀ : State} (who : Req) (s : State) (h₀ : Within L s₀ s)
    (hL : [.regs, .host, .deck, .scales, .ledger, .out] ⊆ L) : AnswersIn L s₀ (execPqStore who s) := by
  unfold execPqStore
  with_reducible repeat' first
    | exact Within.refl _
    | assumption
    | exact List.Subset.trans (by decide) hL
    | (intro _; try dsimp only)
    | apply AnswersIn.next
    | apply serve_within
    | apply pqStore_within

theorem execSclSyncGo_within {L : List Part} {s₀ : State} (who : Req) (s : State) (h₀ : Within L s₀ s)
    (hL : [.host, .scales] ⊆ L) : AnswersIn L s₀ (execSclSyncGo who s) := by
  unfold execSclSyncGo
  with_reducible repeat' first
    | exact Within.refl _
    | assumption
    | exact List.Subset.trans (by decide) hL
    | (intro _; try dsimp only)
    | apply AnswersIn.next
    | apply syncRequest_within
    | apply serve_within

theorem settlingEnd_within {L : List Part} {s₀ : State} (ch : Nat) (s : State) (h₀ : Within L s₀ s)
    (hL : [.regs, .host, .deck, .out] ⊆ L) : Within L s₀ (settlingEnd ch s) := by
  unfold settlingEnd
  with_reducible repeat' first
    | assumption
    | exact List.Subset.trans (by decide) hL
    | apply Within.ite
    | apply setStat_within
    | apply settleStatus_within
    | apply raise_within

theorem execSettlingEnd_within {L : List Part} {s₀ : State} (ch : Fin 24) (s : State) (h₀ : Within L s₀ s)
    (hL : [.regs, .host, .deck, .out] ⊆ L) : AnswersIn L s₀ (execSettlingEnd ch s) := by
  unfold execSettlingEnd
  with_reducible repeat' first
    | assumption
    | apply AnswersIn.powered
    | apply settlingEnd_within

theorem svGainLoad_within {L : List Part} {s₀ : State} (s : State) (h₀ : Within L s₀ s)
    (hL : [.regs] ⊆ L) : Within L s₀ (svGainLoad s) := by
  unfold svGainLoad
  with_reducible repeat' first
    | assumption
    | apply Within.ite
    | apply putPq_within

theorem execSvGainLoad_within {L : List Part} {s₀ : State} (who : Req) (s : State) (h₀ : Within L s₀ s)
    (hL : [.regs, .host] ⊆ L) : AnswersIn L s₀ (execSvGainLoad who s) := by
  unfold execSvGainLoad
  with_reducible repeat' first
    | exact Within.refl _
    | assumption
    | exact List.Subset.trans (by decide) hL
    | (intro _; try dsimp only)
    | apply AnswersIn.next
    | apply svGainLoad_within
    | apply serve_within

theorem svGainStore_within {L : List Part} {s₀ : State} (s : State) (h₀ : Within L s₀ s)
    (hL : [.regs, .host, .deck, .scales, .ledger, .out] ⊆ L) : Within L s₀ (svGainStore s) := by
  unfold svGainStore
  with_reducible repeat' first
    | assumption
    | exact List.Subset.trans (by decide) hL
    | apply pqStored_within
    | apply pqRefuse_within
    | apply setScales_within
    | apply ucalSvPoints_within
    | split

theorem execSvGainStore_within {L : List Part} {s₀ : State} (who : Req) (s : State) (h₀ : Within L s₀ s)
    (hL : [.regs, .host, .deck, .scales, .ledger, .out] ⊆ L) : AnswersIn L s₀ (execSvGainStore who s) := by
  unfold execSvGainStore
  with_reducible repeat' first
    | exact Within.refl _
    | assumption
    | exact List.Subset.trans (by decide) hL
    | (intro _; try dsimp only)
    | apply AnswersIn.next
    | apply serve_within
    | apply svGainStore_within

theorem execSyncApply_within {L : List Part} {s₀ : State} (s : State) (h₀ : Within L s₀ s)
    (hL : [.regs, .free, .host, .deck, .scales, .out] ⊆ L) : AnswersIn L s₀ (execSyncApply s) := by
  unfold execSyncApply
  with_reducible repeat' first
    | assumption
    | apply AnswersIn.powered
    | apply syncApply_within

theorem execSyncPinEdge_within {L : List Part} {s₀ : State} (rising : Bool) (s : State) (h₀ : Within L s₀ s)
    (hL : [.scales] ⊆ L) : AnswersIn L s₀ (execSyncPinEdge rising s) := by
  unfold execSyncPinEdge
  with_reducible repeat' first
    | assumption
    | apply Within.ite
    | apply AnswersIn.powered
    | apply syncRequest_within

theorem bellWrite_within {L : List Part} {s₀ : State} (k : Nat) (v : Nat) (s : State) (h₀ : Within L s₀ s)
    (hL : [.regs, .host, .deck, .out] ⊆ L) : Within L s₀ (bellWrite k v s) := by
  unfold bellWrite
  with_reducible repeat' first
    | assumption
    | exact List.Subset.trans (by decide) hL
    | apply Within.ite
    | apply wrF_within
    | apply wr_within
    | apply raise_within

theorem clsLoad_within {L : List Part} {s₀ : State} (s : State) (h₀ : Within L s₀ s)
    (hL : [.regs] ⊆ L) : Within L s₀ (clsLoad s) := by
  unfold clsLoad
  with_reducible repeat' first
    | exact Within.refl _
    | assumption
    | (intro _; try dsimp only)
    | apply wr_within
    | apply Within.forUpTo

theorem bellLearn_within {L : List Part} {s₀ : State} (k : Nat) (s0 : State) (h₀ : Within L s₀ s0)
    (hL : [.regs, .host, .deck, .mkt, .out] ⊆ L) : Within L s₀ (bellLearn k s0) := by
  unfold bellLearn
  repeat' first
    | exact List.Subset.trans (by decide) hL
    | ((with_reducible apply Within.lit); all_goals first | exact Or.inl (hL (by decide)) | with_reducible exact Or.inr rfl | with_reducible assumption | with_reducible apply Within.ite | with_reducible apply bellWrite_within | with_reducible apply wr_within | with_reducible apply clsLoad_within)

theorem twRefresh_within {L : List Part} {s₀ : State} (inst : Nat) (s : State) (h₀ : Within L s₀ s)
    (hL : [.regs, .host] ⊆ L) : Within L s₀ (twRefresh inst s) := by
  unfold twRefresh
  with_reducible repeat' first
    | assumption
    | exact List.Subset.trans (by decide) hL
    | apply Within.ite
    | apply wrF_within
    | apply setWindow_within
    | split

theorem setRuleTab_within {L : List Part} {s₀ : State} (inst : Nat) (r : Nat) (f : RuleTab → RuleTab) (s : State)
    (h₀ : Within L s₀ s)
    (hL : [.mkt] ⊆ L) : Within L s₀ (setRuleTab inst r f s) := by
  unfold setRuleTab
  with_reducible repeat' first
    | assumption
    | apply setTab_within
    | split

theorem evaluate_within {L : List Part} {s₀ : State} (cnt : Nat) (r : Nat) (inst : Nat) (tag : Nat) (early : Bool) (s : State)
    (h₀ : Within L s₀ s)
    (hL : [.regs, .live, .free, .host, .deck, .ports, .mkt, .cap, .egr, .out] ⊆ L) :
    Within L s₀ (evaluate cnt r inst tag early s) := by
  unfold evaluate
  with_reducible repeat' first
    | assumption
    | exact List.Subset.trans (by decide) hL
    | apply setRuleTab_within
    | apply mktCount_within
    | apply evalRule_within

theorem feedRule_within {L : List Part} {s₀ : State} (inst : Nat) (tag : Nat) (s : State) (p : Nat × RuleCfg) (h₀ : Within L s₀ s)
    (hL : [.regs, .live, .free, .host, .deck, .ports, .mkt, .cap, .egr, .out] ⊆ L) : Within L s₀ (feedRule inst tag s p) := by
  unfold feedRule
  with_reducible repeat' first
    | assumption
    | exact List.Subset.trans (by decide) hL
    | apply setRuleTab_within
    | apply evaluate_within
    | split

theorem placeIn_within {L : List Part} {s₀ : State} (n : Nat) (inst : Nat) (v : Slot) (s : State) (h₀ : Within L s₀ s)
    (hL : [.regs, .live, .free, .host, .deck, .ports, .mkt, .cap, .nest, .egr, .out] ⊆ L) : Within L s₀ (placeIn n inst v s) := by
  unfold placeIn
  with_reducible repeat' first
    | exact Within.refl _
    | assumption
    | exact List.Subset.trans (by decide) hL
    | (intro _; try dsimp only)
    | apply feedRule_within
    | apply topPlace_within
    | apply setTab_within
    | apply mktCount_within
    | apply Within.foldl
    | split

theorem placeFlight_within {L : List Part} {s₀ : State} (inst : Nat) (s : State) (h₀ : Within L s₀ s)
    (hL : [.regs, .live, .free, .host, .deck, .ports, .ing, .mkt, .cap, .nest, .egr, .out] ⊆ L) :
    Within L s₀ (placeFlight inst s) := by
  unfold placeFlight
  repeat' first
    | exact List.Subset.trans (by decide) hL
    | (intro _; try dsimp only)
    | ((with_reducible apply Within.lit); all_goals first | exact Or.inl (hL (by decide)) | with_reducible exact Or.inr rfl | with_reducible exact Within.refl _ | with_reducible assumption | with_reducible apply placeIn_within | with_reducible apply Within.foldl)

theorem reviseRule_within {L : List Part} {s₀ : State} (inst : Nat) (rev : Nat) (s : State) (p : Nat × RuleCfg)
    (h₀ : Within L s₀ s)
    (hL : [.regs, .live, .free, .host, .deck, .ports, .mkt, .cap, .egr, .out] ⊆ L) : Within L s₀ (reviseRule inst rev s p) := by
  unfold reviseRule
  with_reducible repeat' first
    | assumption
    | apply evaluate_within
    | split

theorem revise_within {L : List Part} {s₀ : State} (inst : Nat) (closing : Bool) (s : State) (h₀ : Within L s₀ s)
    (hL : [.regs, .live, .free, .mast, .host, .deck, .ports, .mkt, .cap, .nest, .egr, .ledger, .out] ⊆ L) :
    Within L s₀ (revise inst closing s) := by
  unfold revise
  with_reducible repeat' first
    | exact Within.refl _
    | assumption
    | exact List.Subset.trans (by decide) hL
    | (intro _; try dsimp only)
    | apply twRefresh_within
    | apply nestRevision_within
    | apply reviseRule_within
    | apply outRevision_within
    | apply raise_within
    | apply setTab_within
    | apply mktCount_within
    | apply Within.foldl
    | split

theorem finishTab_within {L : List Part} {s₀ : State} (inst : Nat) (s : State) (h₀ : Within L s₀ s)
    (hL : [.regs, .live, .free, .mast, .host, .deck, .ports, .ing, .mkt, .cap, .nest, .egr, .pair, .ledger, .out] ⊆ L) :
    Within L s₀ (finishTab inst s) := by
  unfold finishTab
  try dsimp only
  repeat' first
    | exact List.Subset.trans (by decide) hL
    | (intro _; try dsimp only)
    | ((with_reducible apply Within.lit); all_goals first | exact Or.inl (hL (by decide)) | with_reducible exact Or.inr rfl | with_reducible exact Within.refl _ | with_reducible assumption | with_reducible apply twRefresh_within | with_reducible apply digestClose_within | with_reducible apply placeFlight_within | with_reducible apply nestClose_within | with_reducible apply rulesClose_within | with_reducible apply revise_within | with_reducible apply ribTake_within | with_reducible apply setTab_within | with_reducible apply mktCount_within | with_reducible apply outClose_within | with_reducible apply Within.foldl)
    | split

theorem closeSection_within {L : List Part} {s₀ : State} (inst : Nat) (k : Nat) (shed : Bool) (s : State) (h₀ : Within L s₀ s)
    (hL : [.regs, .live, .free, .mast, .host, .deck, .ports, .ing, .mkt, .cap, .nest, .egr, .pair, .ledger, .out] ⊆ L) :
    Within L s₀ (closeSection inst k shed s) := by
  unfold closeSection
  with_reducible repeat' first
    | assumption
    | exact List.Subset.trans (by decide) hL
    | apply Within.ite
    | apply finishTab_within
    | apply setTab_within
    | apply mktCount_within
    | split

theorem dropTab_within {L : List Part} {s₀ : State} (t : Tableau) (s : State) (h₀ : Within L s₀ s)
    (hL : [.regs, .live, .host, .deck, .mkt, .out] ⊆ L) : Within L s₀ (dropTab t s) := by
  unfold dropTab
  repeat' first
    | exact List.Subset.trans (by decide) hL
    | ((with_reducible apply Within.lit); all_goals first | exact Or.inl (hL (by decide)) | with_reducible exact Or.inr rfl | with_reducible assumption | with_reducible apply Within.ite | with_reducible apply ribMiss_within | with_reducible apply setStat_within | with_reducible apply endWindow_within)

theorem heldFill_within {L : List Part} {s₀ : State} (k : Nat) (t : Tableau) (s : State) (p : Nat × StreamCfg)
    (h₀ : Within L s₀ s)
    (hL : [.live, .mkt] ⊆ L) : Within L s₀ (heldFill k t s p) := by
  unfold heldFill
  with_reducible repeat' first
    | assumption
    | exact List.Subset.trans (by decide) hL
    | apply Within.ite
    | apply setTab_within
    | apply mktCount_within
    | split

theorem marketStart_within {L : List Part} {s₀ : State} (s0 : State) (h₀ : Within L s₀ s0)
    (hL : [.regs, .live, .host, .deck, .mkt, .out] ⊆ L) : Within L s₀ (marketStart s0) := by
  unfold marketStart
  repeat' first
    | exact List.Subset.trans (by decide) hL
    | (intro _; try dsimp only)
    | ((with_reducible apply Within.lit); all_goals first | exact Or.inl (hL (by decide)) | with_reducible exact Or.inr rfl | with_reducible exact Within.refl _ | with_reducible assumption | with_reducible apply ribReport_within | with_reducible apply wr_within | with_reducible apply ribLose_within | with_reducible apply Within.forUpTo)

theorem storeRoom_within {L : List Part} {s₀ : State} (s : State) (h₀ : Within L s₀ s)
    (hL : [.regs, .live, .host, .deck, .mkt, .out] ⊆ L) : Within L s₀ (storeRoom s) := by
  unfold storeRoom
  with_reducible repeat' first
    | assumption
    | apply dropTab_within
    | split

theorem openTab_within {L : List Part} {s₀ : State} (step : Bool) (s0 : State) (h₀ : Within L s₀ s0)
    (hL : [.regs, .live, .free, .mast, .host, .deck, .ports, .ing, .mkt, .cap, .nest, .egr, .out] ⊆ L) :
    Within L s₀ (openTab step s0) := by
  unfold openTab
  repeat' first
    | exact List.Subset.trans (by decide) hL
    | (intro _; try dsimp only)
    | ((with_reducible apply Within.lit); all_goals first | exact Or.inl (hL (by decide)) | with_reducible exact Or.inr rfl | with_reducible exact Within.refl _ | with_reducible assumption | with_reducible apply Within.ite | with_reducible apply placeIn_within | with_reducible apply mktCount_within | with_reducible apply storeRoom_within | with_reducible apply Within.foldl)

theorem revisionShed_within {L : List Part} {s₀ : State} (on : Bool) (s : State) (h₀ : Within L s₀ s)
    (hL : [.regs, .live, .free, .mast, .host, .deck, .ports, .ing, .mkt, .cap, .nest, .egr, .pair, .ledger, .out] ⊆ L) :
    Within L s₀ (revisionShed on s) := by
  unfold revisionShed
  repeat' first
    | exact List.Subset.trans (by decide) hL
    | (intro _; try dsimp only)
    | ((with_reducible apply Within.lit); all_goals first | exact Or.inl (hL (by decide)) | with_reducible exact Or.inr rfl | with_reducible exact Within.refl _ | with_reducible assumption | with_reducible apply Within.ite | with_reducible apply closeSection_within | with_reducible apply raise_within | with_reducible apply Within.foldl | with_reducible apply Within.forUpTo)

theorem sealRule_within {L : List Part} {s₀ : State} (inst : Nat) (k : Nat) (s : State) (p : Nat × RuleCfg) (h₀ : Within L s₀ s)
    (hL : [.regs, .live, .free, .host, .deck, .ports, .mkt, .cap, .egr, .out] ⊆ L) : Within L s₀ (sealRule inst k s p) := by
  unfold sealRule
  with_reducible repeat' first
    | assumption
    | apply evaluate_within
    | split

theorem sealSection_within {L : List Part} {s₀ : State} (inst : Nat) (k : Nat) (s : State) (h₀ : Within L s₀ s)
    (hL : [.regs, .live, .free, .mast, .host, .deck, .ports, .ing, .mkt, .cap, .nest, .egr, .pair, .ledger, .out] ⊆ L) :
    Within L s₀ (sealSection inst k s) := by
  unfold sealSection
  with_reducible repeat' first
    | exact Within.refl _
    | assumption
    | exact List.Subset.trans (by decide) hL
    | (intro _; try dsimp only)
    | apply Within.ite
    | apply twRefresh_within
    | apply closeSection_within
    | apply sealRule_within
    | apply revise_within
    | apply heldFill_within
    | apply nestSeal_within
    | apply setTab_within
    | apply outSeal_within
    | apply mktCount_within
    | apply count_within
    | apply Within.foldl
    | split

theorem sealFollow_within {L : List Part} {s₀ : State} (k : Nat) (insts : List Nat) (s : State) (h₀ : Within L s₀ s)
    (hL : [.regs, .live, .free, .mast, .host, .deck, .ports, .ing, .mkt, .cap, .nest, .egr, .pair, .ledger, .out] ⊆ L) :
    Within L s₀ (sealFollow k insts s) := by
  unfold sealFollow
  with_reducible repeat' first
    | exact Within.refl _
    | assumption
    | (intro _; try dsimp only)
    | apply sealSection_within
    | apply Within.foldl
    | split

theorem storeError_within {L : List Part} {s₀ : State} (inst : Nat) (s : State) (h₀ : Within L s₀ s)
    (hL : [.regs, .live, .free, .mast, .host, .deck, .ports, .mkt, .cap, .nest, .egr, .ledger, .out] ⊆ L) :
    Within L s₀ (storeError inst s) := by
  unfold storeError
  try dsimp only
  with_reducible repeat' first
    | assumption
    | exact List.Subset.trans (by decide) hL
    | apply twRefresh_within
    | apply revise_within
    | apply raise_within
    | apply setTab_within
    | apply mktCount_within
    | split

theorem clsClear_within {L : List Part} {s₀ : State} (s : State) (h₀ : Within L s₀ s)
    (hL : [.regs, .mkt] ⊆ L) : Within L s₀ (clsClear s) := by
  unfold clsClear
  repeat' first
    | exact List.Subset.trans (by decide) hL
    | ((with_reducible apply Within.lit); all_goals first | exact Or.inl (hL (by decide)) | with_reducible exact Or.inr rfl | with_reducible assumption | with_reducible apply clsLoad_within)

theorem execBellLearn_within {L : List Part} {s₀ : State} (k : Fin 8) (s : State) (h₀ : Within L s₀ s)
    (hL : [.regs, .host, .deck, .mkt, .out] ⊆ L) : AnswersIn L s₀ (execBellLearn k s) := by
  unfold execBellLearn
  with_reducible repeat' first
    | assumption
    | apply AnswersIn.inFull
    | apply bellLearn_within

theorem execBellWrite_within {L : List Part} {s₀ : State} (who : Req) (k : Fin 8) (v : BitVec 16) (s : State) (h₀ : Within L s₀ s)
    (hL : [.regs, .host, .deck, .out] ⊆ L) : AnswersIn L s₀ (execBellWrite who k v s) := by
  unfold execBellWrite
  with_reducible repeat' first
    | exact Within.refl _
    | assumption
    | exact List.Subset.trans (by decide) hL
    | (intro _; try dsimp only)
    | apply AnswersIn.next
    | apply bellWrite_within
    | apply serve_within

theorem execClsClear_within {L : List Part} {s₀ : State} (who : Req) (s : State) (h₀ : Within L s₀ s)
    (hL : [.regs, .host, .mkt] ⊆ L) : AnswersIn L s₀ (execClsClear who s) := by
  unfold execClsClear
  with_reducible repeat' first
    | exact Within.refl _
    | assumption
    | exact List.Subset.trans (by decide) hL
    | (intro _; try dsimp only)
    | apply AnswersIn.next
    | apply clsClear_within
    | apply serve_within

theorem execClsLoad_within {L : List Part} {s₀ : State} (who : Req) (s : State) (h₀ : Within L s₀ s)
    (hL : [.regs, .host] ⊆ L) : AnswersIn L s₀ (execClsLoad who s) := by
  unfold execClsLoad
  with_reducible repeat' first
    | exact Within.refl _
    | assumption
    | exact List.Subset.trans (by decide) hL
    | (intro _; try dsimp only)
    | apply AnswersIn.next
    | apply serve_within
    | apply clsLoad_within

theorem execMarketSnapshot_within {L : List Part} {s₀ : State} (who : Req) (clr : Bool) (s : State) (h₀ : Within L s₀ s)
    (hL : [.regs, .live, .host, .deck, .out] ⊆ L) : AnswersIn L s₀ (execMarketSnapshot who clr s) := by
  unfold execMarketSnapshot
  with_reducible repeat' first
    | exact Within.refl _
    | assumption
    | exact List.Subset.trans (by decide) hL
    | (intro _; try dsimp only)
    | apply AnswersIn.next
    | apply snapshot_within
    | apply serve_within
    | apply raise_within

theorem place_within {L : List Part} {s₀ : State} (s : State) (h₀ : Within L s₀ s)
    (hL : [.regs, .live, .free, .host, .deck, .ports, .ing, .mkt, .cap, .nest, .egr, .out] ⊆ L) : Within L s₀ (place s) := by
  unfold place
  try dsimp only
  repeat' first
    | exact List.Subset.trans (by decide) hL
    | ((with_reducible apply Within.lit); all_goals first | exact Or.inl (hL (by decide)) | with_reducible exact Or.inr rfl | with_reducible assumption | with_reducible apply twRefresh_within | with_reducible apply placeIn_within)
    | split

theorem execPlace_within {L : List Part} {s₀ : State} (s : State) (h₀ : Within L s₀ s)
    (hL : [.regs, .live, .free, .host, .deck, .ports, .ing, .mkt, .cap, .nest, .egr, .out] ⊆ L) :
    AnswersIn L s₀ (execPlace s) := by
  unfold execPlace
  with_reducible repeat' first
    | assumption
    | apply Within.ite
    | apply AnswersIn.inFull
    | apply place_within

theorem revisionIssue_within {L : List Part} {s₀ : State} (inst : Nat) (s : State) (h₀ : Within L s₀ s)
    (hL : [.regs, .live, .free, .mast, .host, .deck, .ports, .mkt, .cap, .nest, .egr, .ledger, .out] ⊆ L) :
    Within L s₀ (revisionIssue inst s) := by
  unfold revisionIssue
  with_reducible repeat' first
    | assumption
    | apply revise_within
    | split

theorem execRevisionIssue_within {L : List Part} {s₀ : State} (inst : Nat) (s : State) (h₀ : Within L s₀ s)
    (hL : [.regs, .live, .free, .mast, .host, .deck, .ports, .mkt, .cap, .nest, .egr, .ledger, .out] ⊆ L) :
    AnswersIn L s₀ (execRevisionIssue inst s) := by
  unfold execRevisionIssue
  with_reducible repeat' first
    | assumption
    | apply AnswersIn.inFull
    | apply revisionIssue_within

theorem execRibAbort_within {L : List Part} {s₀ : State} (who : Req) (s : State) (h₀ : Within L s₀ s)
    (hL : [.host] ⊆ L) : AnswersIn L s₀ (execRibAbort who s) := by
  unfold execRibAbort
  with_reducible repeat' first
    | exact Within.refl _
    | assumption
    | (intro _; try dsimp only)
    | apply AnswersIn.next
    | apply endWindow_within
    | apply serve_within

theorem ribOpen_within {L : List Part} {s₀ : State} (s : State) (h₀ : Within L s₀ s)
    (hL : [.regs, .host, .mkt] ⊆ L) : Within L s₀ (ribOpen s) := by
  unfold ribOpen
  repeat' first
    | exact List.Subset.trans (by decide) hL
    | ((with_reducible apply Within.lit); all_goals first | exact Or.inl (hL (by decide)) | with_reducible exact Or.inr rfl | with_reducible assumption | with_reducible apply Within.ite | with_reducible apply openWindow_within | with_reducible apply wr_within | with_reducible apply openEmpty_within)

theorem execRibOpen_within {L : List Part} {s₀ : State} (who : Req) (s : State) (h₀ : Within L s₀ s)
    (hL : [.regs, .host, .mkt] ⊆ L) : AnswersIn L s₀ (execRibOpen who s) := by
  unfold execRibOpen
  with_reducible repeat' first
    | exact Within.refl _
    | assumption
    | exact List.Subset.trans (by decide) hL
    | (intro _; try dsimp only)
    | apply AnswersIn.next
    | apply ribOpen_within
    | apply serve_within

theorem sectionClose_within {L : List Part} {s₀ : State} (inst : Nat) (k : Nat) (s : State) (h₀ : Within L s₀ s)
    (hL : [.regs, .live, .free, .mast, .host, .deck, .ports, .ing, .mkt, .cap, .nest, .egr, .pair, .ledger, .out] ⊆ L) :
    Within L s₀ (sectionClose inst k s) := by
  unfold sectionClose
  with_reducible repeat' first
    | assumption
    | apply closeSection_within
    | split

theorem execSectionClose_within {L : List Part} {s₀ : State} (inst : Nat) (k : Fin 8) (s : State) (h₀ : Within L s₀ s)
    (hL : [.regs, .live, .free, .mast, .host, .deck, .ports, .ing, .mkt, .cap, .nest, .egr, .pair, .ledger, .out] ⊆ L) :
    AnswersIn L s₀ (execSectionClose inst k s) := by
  unfold execSectionClose
  with_reducible repeat' first
    | assumption
    | apply AnswersIn.inFull
    | apply sectionClose_within

theorem sectionSeal_within {L : List Part} {s₀ : State} (inst : Nat) (k : Nat) (s : State) (h₀ : Within L s₀ s)
    (hL : [.regs, .live, .free, .mast, .host, .deck, .ports, .ing, .mkt, .cap, .nest, .egr, .pair, .ledger, .out] ⊆ L) :
    Within L s₀ (sectionSeal inst k s) := by
  unfold sectionSeal
  with_reducible repeat' first
    | assumption
    | exact List.Subset.trans (by decide) hL
    | apply sealSection_within
    | apply sealFollow_within
    | apply raise_within
    | apply setTab_within
    | apply mktCount_within
    | split

theorem execSectionSeal_within {L : List Part} {s₀ : State} (inst : Nat) (k : Fin 8) (s : State) (h₀ : Within L s₀ s)
    (hL : [.regs, .live, .free, .mast, .host, .deck, .ports, .ing, .mkt, .cap, .nest, .egr, .pair, .ledger, .out] ⊆ L) :
    AnswersIn L s₀ (execSectionSeal inst k s) := by
  unfold execSectionSeal
  with_reducible repeat' first
    | assumption
    | apply AnswersIn.inFull
    | apply sectionSeal_within

theorem execTableauOpen_within {L : List Part} {s₀ : State} (s : State) (h₀ : Within L s₀ s)
    (hL : [.regs, .live, .free, .mast, .host, .deck, .ports, .ing, .mkt, .cap, .nest, .egr, .out] ⊆ L) :
    AnswersIn L s₀ (execTableauOpen s) := by
  unfold execTableauOpen
  with_reducible repeat' first
    | assumption
    | apply Within.ite
    | apply AnswersIn.inFull
    | apply openTab_within

theorem execTwAbort_within {L : List Part} {s₀ : State} (who : Req) (s : State) (h₀ : Within L s₀ s)
    (hL : [.host] ⊆ L) : AnswersIn L s₀ (execTwAbort who s) := by
  unfold execTwAbort
  with_reducible repeat' first
    | exact Within.refl _
    | assumption
    | (intro _; try dsimp only)
    | apply AnswersIn.next
    | apply endWindow_within
    | apply serve_within

theorem twOpen_within {L : List Part} {s₀ : State} (s : State) (h₀ : Within L s₀ s)
    (hL : [.regs, .host, .mkt] ⊆ L) : Within L s₀ (twOpen s) := by
  unfold twOpen
  try dsimp only
  repeat' first
    | exact List.Subset.trans (by decide) hL
    | ((with_reducible apply Within.lit); all_goals first | exact Or.inl (hL (by decide)) | with_reducible exact Or.inr rfl | with_reducible assumption | with_reducible apply openWindow_within | with_reducible apply wr_within | with_reducible apply openEmpty_within)
    | split

theorem execTwOpen_within {L : List Part} {s₀ : State} (who : Req) (s : State) (h₀ : Within L s₀ s)
    (hL : [.regs, .host, .mkt] ⊆ L) : AnswersIn L s₀ (execTwOpen who s) := by
  unfold execTwOpen
  with_reducible repeat' first
    | exact Within.refl _
    | assumption
    | exact List.Subset.trans (by decide) hL
    | (intro _; try dsimp only)
    | apply AnswersIn.next
    | apply twOpen_within
    | apply serve_within

end Sys2Proof.Machine
end

