-- ==== Sys2Proof/Laws/WithinPair.lean ====
section
/-!
SUPPORT. Which parts each operation can change (Safety.Within): the pair and the boot.
-/

namespace Sys2Proof.Machine

open Sys2Proof

set_option Elab.async false
set_option linter.all false

set_option maxRecDepth 4000

theorem setRole_within {L : List Part} {s₀ : State} (r : Role) (s : State) (h₀ : Within L s₀ s)
    (hL : [.regs, .live, .host, .deck, .ports, .egr, .pair, .ledger, .out] ⊆ L) : Within L s₀ (setRole r s) := by
  unfold setRole
  with_reducible repeat' first
    | assumption
    | exact List.Subset.trans (by decide) hL
    | apply Within.ite
    | apply pairRecord_within
    | apply nodeEdge_within
    | apply raise_within
    | apply setPair_within

theorem becomeActive_within {L : List Part} {s₀ : State} (s : State) (h₀ : Within L s₀ s)
    (hL : [.regs, .live, .host, .deck, .ports, .egr, .pair, .ledger, .out] ⊆ L) : Within L s₀ (becomeActive s) := by
  unfold becomeActive
  with_reducible repeat' first
    | assumption
    | exact List.Subset.trans (by decide) hL
    | apply setRole_within
    | apply setPair_within

theorem clerkAnswer_within {L : List Part} {s₀ : State} (m : ClerkMsg) (typ : Nat) (reason : Nat) (epoch : Nat) (remain : Nat) (s : State)
    (h₀ : Within L s₀ s)
    (hL : [.out] ⊆ L) : Within L s₀ (clerkAnswer m typ reason epoch remain s) := by
  unfold clerkAnswer
  with_reducible repeat' first
    | assumption
    | apply emit_within

theorem clerkSend_within {L : List Part} {s₀ : State} (typ : Nat) (epoch : Nat) (s : State) (h₀ : Within L s₀ s)
    (hL : [.pair, .out] ⊆ L) : Within L s₀ (clerkSend typ epoch s) := by
  unfold clerkSend
  with_reducible repeat' first
    | assumption
    | exact List.Subset.trans (by decide) hL
    | apply emit_within
    | apply setPair_within

theorem clerkAsk_within {L : List Part} {s₀ : State} (s : State) (h₀ : Within L s₀ s)
    (hL : [.pair, .out] ⊆ L) : Within L s₀ (clerkAsk s) := by
  unfold clerkAsk
  with_reducible repeat' first
    | assumption
    | exact List.Subset.trans (by decide) hL
    | apply Within.ite
    | apply clerkSend_within
    | apply setPair_within

theorem clerkGone_within {L : List Part} {s₀ : State} (s : State) (h₀ : Within L s₀ s)
    (hL : [.regs, .host, .deck, .pair, .ledger, .out] ⊆ L) : Within L s₀ (clerkGone s) := by
  unfold clerkGone
  with_reducible repeat' first
    | assumption
    | exact List.Subset.trans (by decide) hL
    | apply Within.ite
    | apply pairRecord_within
    | apply raise_within
    | apply setPair_within

theorem setClerkPair_within {L : List Part} {s₀ : State} (k : Nat) (x : ClerkPair) (s : State) (h₀ : Within L s₀ s)
    (hL : [.pair] ⊆ L) : Within L s₀ (setClerkPair k x s) := by
  unfold setClerkPair
  with_reducible repeat' first
    | assumption
    | apply setPair_within

theorem clerkReleaseIn_within {L : List Part} {s₀ : State} (m : ClerkMsg) (k : Nat) (s : State) (h₀ : Within L s₀ s)
    (hL : [.pair] ⊆ L) : Within L s₀ (clerkReleaseIn m k s) := by
  unfold clerkReleaseIn
  with_reducible repeat' first
    | assumption
    | apply Within.ite
    | apply setClerkPair_within

theorem clerkRenew_within {L : List Part} {s₀ : State} (s : State) (h₀ : Within L s₀ s)
    (hL : [.pair, .out] ⊆ L) : Within L s₀ (clerkRenew s) := by
  unfold clerkRenew
  with_reducible repeat' first
    | assumption
    | exact List.Subset.trans (by decide) hL
    | apply Within.ite
    | apply clerkSend_within
    | apply setPair_within

theorem clerkRenewIn_within {L : List Part} {s₀ : State} (m : ClerkMsg) (k : Nat) (s : State) (h₀ : Within L s₀ s)
    (hL : [.pair, .out] ⊆ L) : Within L s₀ (clerkRenewIn m k s) := by
  unfold clerkRenewIn
  with_reducible repeat' first
    | assumption
    | exact List.Subset.trans (by decide) hL
    | apply Within.ite
    | apply setClerkPair_within
    | apply clerkAnswer_within

theorem clerkReply_within {L : List Part} {s₀ : State} (m : ClerkMsg) (f : Nat → State → State) (s : State)
    (hf : ∀ n u, Within L u (f n u)) (h₀ : Within L s₀ s) (hL : [.live, .pair] ⊆ L) : Within L s₀ (clerkReply m f s) := by
  unfold clerkReply
  repeat' split
  · exact h₀
  · exact shrCount_within _ _ _ h₀ (List.Subset.trans (by decide) hL)
  · exact (setPair_within _ _ h₀ (List.Subset.trans (by decide) hL)).trans (hf _ _)
  · exact shrCount_within _ _ _ h₀ (List.Subset.trans (by decide) hL)

theorem clerkRequestIn_within {L : List Part} {s₀ : State} (m : ClerkMsg) (k : Nat) (s : State) (h₀ : Within L s₀ s)
    (hL : [.pair, .out] ⊆ L) : Within L s₀ (clerkRequestIn m k s) := by
  unfold clerkRequestIn
  with_reducible repeat' first
    | assumption
    | exact List.Subset.trans (by decide) hL
    | apply Within.ite
    | apply setClerkPair_within
    | apply clerkAnswer_within
    | split

theorem clerkServe_within {L : List Part} {s₀ : State} (m : ClerkMsg) (f : Nat → State → State) (s : State)
    (hf : ∀ n u, Within L u (f n u)) (h₀ : Within L s₀ s) (hL : [.live, .out] ⊆ L) : Within L s₀ (clerkServe m f s) := by
  unfold clerkServe
  repeat' split
  · exact h₀
  · exact shrCount_within _ _ _ h₀ (List.Subset.trans (by decide) hL)
  · exact clerkAnswer_within _ _ _ _ _ _ h₀ (List.Subset.trans (by decide) hL)
  · exact h₀.trans (hf _ _)

theorem confirmLease_within {L : List Part} {s₀ : State} (hb : Heartbeat) (s : State) (h₀ : Within L s₀ s)
    (hL : [.regs] ⊆ L) : Within L s₀ (confirmLease hb s) := by
  unfold confirmLease
  with_reducible repeat' first
    | assumption
    | apply Within.ite
    | apply wr_within
    | split

theorem creditSend_within {L : List Part} {s₀ : State} (l : Nat) (s : State) (h₀ : Within L s₀ s)
    (hL : [.pair, .out] ⊆ L) : Within L s₀ (creditSend l s) := by
  unfold creditSend
  with_reducible repeat' first
    | assumption
    | apply Within.ite
    | apply shroudSend_within

theorem dropLease_within {L : List Part} {s₀ : State} (s : State) (h₀ : Within L s₀ s)
    (hL : [.regs, .live, .host, .deck, .ports, .egr, .pair, .ledger, .out] ⊆ L) : Within L s₀ (dropLease s) := by
  unfold dropLease
  with_reducible repeat' first
    | assumption
    | exact List.Subset.trans (by decide) hL
    | apply Within.ite
    | apply setRole_within
    | apply setPair_within

theorem wantLease_within {L : List Part} {s₀ : State} (s : State) (h₀ : Within L s₀ s)
    (hL : [.pair] ⊆ L) : Within L s₀ (wantLease s) := by
  unfold wantLease
  with_reducible repeat' first
    | assumption
    | apply setPair_within

theorem denied_within {L : List Part} {s₀ : State} (m : ClerkMsg) (r : DenyReason) (a2 : Nat) (s : State) (h₀ : Within L s₀ s)
    (hL : [.regs, .live, .host, .deck, .ports, .egr, .pair, .ledger, .out] ⊆ L) : Within L s₀ (denied m r a2 s) := by
  unfold denied
  with_reducible repeat' first
    | assumption
    | exact List.Subset.trans (by decide) hL
    | apply Within.ite
    | apply dropLease_within
    | apply setRole_within
    | apply setPair_within
    | apply wantLease_within

theorem digestIn_within {L : List Part} {s₀ : State} (e : DigestEntry) (s : State) (h₀ : Within L s₀ s)
    (hL : [.regs, .live, .host, .deck, .pair, .ledger, .out] ⊆ L) : Within L s₀ (digestIn e s) := by
  unfold digestIn
  with_reducible repeat' first
    | assumption
    | exact List.Subset.trans (by decide) hL
    | apply digCompare_within
    | apply setPair_within

theorem dualActive_within {L : List Part} {s₀ : State} (hb : Heartbeat) (s : State) (h₀ : Within L s₀ s)
    (hL : [.regs, .live, .host, .deck, .ports, .egr, .pair, .ledger, .out] ⊆ L) : Within L s₀ (dualActive hb s) := by
  unfold dualActive
  with_reducible repeat' first
    | assumption
    | exact List.Subset.trans (by decide) hL
    | apply Within.ite
    | apply pairRecord_within
    | apply setRole_within
    | apply raise_within
    | apply setPair_within

theorem execClerkLost_within {L : List Part} {s₀ : State} (s : State) (h₀ : Within L s₀ s)
    (hL : [.regs, .host, .deck, .pair, .ledger, .out] ⊆ L) : AnswersIn L s₀ (execClerkLost s) := by
  unfold execClerkLost
  with_reducible repeat' first
    | assumption
    | apply AnswersIn.inFull
    | apply clerkGone_within

theorem execClerkQuietEnd_within {L : List Part} {s₀ : State} (s : State) (h₀ : Within L s₀ s)
    (hL : [.pair] ⊆ L) : AnswersIn L s₀ (execClerkQuietEnd s) := by
  unfold execClerkQuietEnd
  with_reducible repeat' first
    | assumption
    | apply Within.ite
    | apply AnswersIn.inFull
    | apply setPair_within

theorem execClerkRenew_within {L : List Part} {s₀ : State} (s : State) (h₀ : Within L s₀ s)
    (hL : [.pair, .out] ⊆ L) : AnswersIn L s₀ (execClerkRenew s) := by
  unfold execClerkRenew
  with_reducible repeat' first
    | assumption
    | apply Within.ite
    | apply AnswersIn.inFull
    | apply clerkRenew_within

theorem execClerkRequest_within {L : List Part} {s₀ : State} (s : State) (h₀ : Within L s₀ s)
    (hL : [.pair, .out] ⊆ L) : AnswersIn L s₀ (execClerkRequest s) := by
  unfold execClerkRequest
  with_reducible repeat' first
    | assumption
    | apply AnswersIn.inFull
    | apply clerkAsk_within

theorem execClerkRxRelease_within {L : List Part} {s₀ : State} (m : ClerkMsg) (s : State) (h₀ : Within L s₀ s)
    (hL : [.live, .pair, .out] ⊆ L) : AnswersIn L s₀ (execClerkRxRelease m s) := by
  unfold execClerkRxRelease
  with_reducible repeat' first
    | exact Within.refl _
    | assumption
    | exact List.Subset.trans (by decide) hL
    | (intro _; try dsimp only)
    | apply AnswersIn.inFull
    | apply clerkServe_within
    | apply clerkReleaseIn_within

theorem execClerkRxRenew_within {L : List Part} {s₀ : State} (m : ClerkMsg) (s : State) (h₀ : Within L s₀ s)
    (hL : [.live, .pair, .out] ⊆ L) : AnswersIn L s₀ (execClerkRxRenew m s) := by
  unfold execClerkRxRenew
  with_reducible repeat' first
    | exact Within.refl _
    | assumption
    | exact List.Subset.trans (by decide) hL
    | (intro _; try dsimp only)
    | apply AnswersIn.inFull
    | apply clerkRenewIn_within
    | apply clerkServe_within

theorem execClerkRxRequest_within {L : List Part} {s₀ : State} (m : ClerkMsg) (s : State) (h₀ : Within L s₀ s)
    (hL : [.live, .pair, .out] ⊆ L) : AnswersIn L s₀ (execClerkRxRequest m s) := by
  unfold execClerkRxRequest
  with_reducible repeat' first
    | exact Within.refl _
    | assumption
    | exact List.Subset.trans (by decide) hL
    | (intro _; try dsimp only)
    | apply AnswersIn.inFull
    | apply clerkRequestIn_within
    | apply clerkServe_within

theorem execDigestFrameSend_within {L : List Part} {s₀ : State} (s : State) (h₀ : Within L s₀ s)
    (hL : [.pair, .out] ⊆ L) : AnswersIn L s₀ (execDigestFrameSend s) := by
  unfold execDigestFrameSend
  with_reducible repeat' first
    | assumption
    | apply Within.ite
    | apply AnswersIn.inFull
    | apply digSend_within

theorem execDigestUncompared_within {L : List Part} {s₀ : State} (inst : Nat) (s : State) (h₀ : Within L s₀ s)
    (hL : [.regs, .live, .host, .deck, .pair, .ledger, .out] ⊆ L) : AnswersIn L s₀ (execDigestUncompared inst s) := by
  unfold execDigestUncompared
  with_reducible repeat' first
    | assumption
    | exact List.Subset.trans (by decide) hL
    | apply Within.ite
    | apply AnswersIn.inFull
    | apply setPair_within
    | apply digOutcome_within

theorem healthSend_within {L : List Part} {s₀ : State} (s : State) (h₀ : Within L s₀ s)
    (hL : [.regs, .pair, .out] ⊆ L) : Within L s₀ (healthSend s) := by
  unfold healthSend
  with_reducible repeat' first
    | assumption
    | exact List.Subset.trans (by decide) hL
    | apply Within.ite
    | apply wrWords_within
    | apply bulkSend_within
    | apply setPair_within

theorem execHealthSend_within {L : List Part} {s₀ : State} (s : State) (h₀ : Within L s₀ s)
    (hL : [.regs, .pair, .out] ⊆ L) : AnswersIn L s₀ (execHealthSend s) := by
  unfold execHealthSend
  with_reducible repeat' first
    | assumption
    | apply AnswersIn.inFull
    | apply healthSend_within

theorem heartbeat_within {L : List Part} {s₀ : State} (s : State) (h₀ : Within L s₀ s)
    (hL : [.live, .pair, .out] ⊆ L) : Within L s₀ (heartbeat s) := by
  unfold heartbeat
  with_reducible repeat' first
    | exact Within.refl _
    | assumption
    | exact List.Subset.trans (by decide) hL
    | (intro _; try dsimp only)
    | apply Within.ite
    | apply shroudSend_within
    | apply setPair_within
    | apply shrCount_within
    | apply Within.forUpTo

theorem execHeartbeatSend_within {L : List Part} {s₀ : State} (s : State) (h₀ : Within L s₀ s)
    (hL : [.live, .pair, .out] ⊆ L) : AnswersIn L s₀ (execHeartbeatSend s) := by
  unfold execHeartbeatSend
  with_reducible repeat' first
    | assumption
    | apply AnswersIn.inFull
    | apply heartbeat_within

theorem leaseRelease_within {L : List Part} {s₀ : State} (s : State) (h₀ : Within L s₀ s)
    (hL : [.regs, .live, .host, .deck, .ports, .egr, .pair, .ledger, .out] ⊆ L) : Within L s₀ (leaseRelease s) := by
  unfold leaseRelease
  with_reducible repeat' first
    | assumption
    | exact List.Subset.trans (by decide) hL
    | apply Within.ite
    | apply clerkSend_within
    | apply dropLease_within
    | apply setPair_within

theorem execLeaseDrop_within {L : List Part} {s₀ : State} (who : Req) (s : State) (h₀ : Within L s₀ s)
    (hL : [.regs, .live, .host, .deck, .ports, .egr, .pair, .ledger, .out] ⊆ L) : AnswersIn L s₀ (execLeaseDrop who s) := by
  unfold execLeaseDrop
  with_reducible repeat' first
    | exact Within.refl _
    | assumption
    | exact List.Subset.trans (by decide) hL
    | (intro _; try dsimp only)
    | apply AnswersIn.next
    | apply leaseRelease_within
    | apply serve_within

theorem leaseEnd_within {L : List Part} {s₀ : State} (s : State) (h₀ : Within L s₀ s)
    (hL : [.regs, .live, .host, .deck, .ports, .egr, .pair, .ledger, .out] ⊆ L) : Within L s₀ (leaseEnd s) := by
  unfold leaseEnd
  with_reducible repeat' first
    | assumption
    | exact List.Subset.trans (by decide) hL
    | apply Within.ite
    | apply pairRecord_within
    | apply setRole_within
    | apply raise_within
    | apply setPair_within
    | apply shrCount_within
    | apply wantLease_within

theorem execLeaseExpiry_within {L : List Part} {s₀ : State} (s : State) (h₀ : Within L s₀ s)
    (hL : [.regs, .live, .host, .deck, .ports, .egr, .pair, .ledger, .out] ⊆ L) : AnswersIn L s₀ (execLeaseExpiry s) := by
  unfold execLeaseExpiry
  with_reducible repeat' first
    | assumption
    | apply AnswersIn.inFull
    | apply leaseEnd_within

theorem leaseSet_within {L : List Part} {s₀ : State} (dl : Nat) (s : State) (h₀ : Within L s₀ s)
    (hL : [.regs, .live, .host, .deck, .ports, .egr, .pair, .ledger, .out] ⊆ L) : Within L s₀ (leaseSet dl s) := by
  unfold leaseSet
  with_reducible repeat' first
    | assumption
    | exact List.Subset.trans (by decide) hL
    | apply Within.ite
    | apply becomeActive_within
    | apply wr_within
    | apply raise_within
    | apply setPair_within

theorem execLeaseWrite_within {L : List Part} {s₀ : State} (who : Req) (v : Word) (s : State) (h₀ : Within L s₀ s)
    (hL : [.regs, .live, .host, .deck, .ports, .egr, .pair, .ledger, .out] ⊆ L) : AnswersIn L s₀ (execLeaseWrite who v s) := by
  unfold execLeaseWrite
  with_reducible repeat' first
    | exact Within.refl _
    | assumption
    | exact List.Subset.trans (by decide) hL
    | (intro _; try dsimp only)
    | apply AnswersIn.next
    | apply leaseSet_within
    | apply serve_within

theorem execPairSnapshot_within {L : List Part} {s₀ : State} (who : Req) (clr : Bool) (s : State) (h₀ : Within L s₀ s)
    (hL : [.regs, .live, .host, .deck, .out] ⊆ L) : AnswersIn L s₀ (execPairSnapshot who clr s) := by
  unfold execPairSnapshot
  with_reducible repeat' first
    | exact Within.refl _
    | assumption
    | exact List.Subset.trans (by decide) hL
    | (intro _; try dsimp only)
    | apply AnswersIn.next
    | apply snapshot_within
    | apply serve_within
    | apply raise_within

theorem peerGone_within {L : List Part} {s₀ : State} (s : State) (h₀ : Within L s₀ s)
    (hL : [.regs, .live, .host, .deck, .pair, .ledger, .out] ⊆ L) : Within L s₀ (peerGone s) := by
  unfold peerGone
  with_reducible repeat' first
    | assumption
    | exact List.Subset.trans (by decide) hL
    | apply Within.ite
    | apply pairRecord_within
    | apply raise_within
    | apply setPair_within
    | apply shrCount_within
    | apply wantLease_within

theorem execPeerLost_within {L : List Part} {s₀ : State} (s : State) (h₀ : Within L s₀ s)
    (hL : [.regs, .live, .host, .deck, .pair, .ledger, .out] ⊆ L) : AnswersIn L s₀ (execPeerLost s) := by
  unfold execPeerLost
  with_reducible repeat' first
    | assumption
    | apply AnswersIn.inFull
    | apply peerGone_within

theorem resyncDone_within {L : List Part} {s₀ : State} (s : State) (h₀ : Within L s₀ s)
    (hL : [.regs, .live, .host, .deck, .ports, .egr, .pair, .ledger, .out] ⊆ L) : Within L s₀ (resyncDone s) := by
  unfold resyncDone
  with_reducible repeat' first
    | assumption
    | exact List.Subset.trans (by decide) hL
    | apply Within.ite
    | apply setRole_within
    | apply raise_within
    | apply setPair_within

theorem execResyncDone_within {L : List Part} {s₀ : State} (s : State) (h₀ : Within L s₀ s)
    (hL : [.regs, .live, .host, .deck, .ports, .egr, .pair, .ledger, .out] ⊆ L) : AnswersIn L s₀ (execResyncDone s) := by
  unfold execResyncDone
  with_reducible repeat' first
    | assumption
    | apply AnswersIn.inFull
    | apply resyncDone_within

theorem shroudRx_within {L : List Part} {s₀ : State} (l : Fin 2) (h : ShroudHdr) (bulk : Bool) (f : State → State) (s : State) (h_f : ∀ (u : State), Within L u (f u))
    (h₀ : Within L s₀ s)
    (hL : [.live, .pair, .out] ⊆ L) : Within L s₀ (shroudRx l h bulk f s) := by
  unfold shroudRx
  with_reducible repeat' first
    | assumption
    | exact List.Subset.trans (by decide) hL
    | apply Within.ite
    | apply Within.app h_f
    | apply setShroud_within
    | apply creditSend_within
    | apply creditsBack_within
    | apply shrCount_within

theorem execRxCredit_within {L : List Part} {s₀ : State} (l : Fin 2) (h : ShroudHdr) (s : State) (h₀ : Within L s₀ s)
    (hL : [.live, .pair, .out] ⊆ L) : AnswersIn L s₀ (execRxCredit l h s) := by
  unfold execRxCredit
  with_reducible repeat' first
    | exact Within.refl _
    | assumption
    | (intro _; try dsimp only)
    | apply AnswersIn.inFull
    | apply shroudRx_within

theorem execRxDeny_within {L : List Part} {s₀ : State} (m : ClerkMsg) (r : DenyReason) (s : State) (h₀ : Within L s₀ s)
    (hL : [.regs, .live, .host, .deck, .ports, .egr, .pair, .ledger, .out] ⊆ L) : AnswersIn L s₀ (execRxDeny m r s) := by
  unfold execRxDeny
  with_reducible repeat' first
    | exact Within.refl _
    | assumption
    | exact List.Subset.trans (by decide) hL
    | (intro _; try dsimp only)
    | apply AnswersIn.inFull
    | apply clerkReply_within
    | apply denied_within

theorem execRxDigest_within {L : List Part} {s₀ : State} (l : Fin 2) (h : ShroudHdr) (es : List DigestEntry) (s : State)
    (h₀ : Within L s₀ s)
    (hL : [.regs, .live, .host, .deck, .pair, .ledger, .out] ⊆ L) : AnswersIn L s₀ (execRxDigest l h es s) := by
  unfold execRxDigest
  with_reducible repeat' first
    | exact Within.refl _
    | assumption
    | exact List.Subset.trans (by decide) hL
    | (intro _; try dsimp only)
    | apply AnswersIn.inFull
    | apply digestIn_within
    | apply shroudRx_within
    | apply Within.foldl

theorem execRxEnergy_within {L : List Part} {s₀ : State} (l : Fin 2) (h : ShroudHdr) (x : EnergySave) (s : State)
    (h₀ : Within L s₀ s)
    (hL : [.live, .pair, .out] ⊆ L) : AnswersIn L s₀ (execRxEnergy l h x s) := by
  unfold execRxEnergy
  with_reducible repeat' first
    | exact Within.refl _
    | assumption
    | exact List.Subset.trans (by decide) hL
    | (intro _; try dsimp only)
    | apply AnswersIn.inFull
    | apply shroudRx_within
    | apply setPair_within

theorem takeLease_within {L : List Part} {s₀ : State} (m : ClerkMsg) (ts : Nat) (s : State) (h₀ : Within L s₀ s)
    (hL : [.regs, .live, .host, .deck, .ports, .egr, .pair, .ledger, .out] ⊆ L) : Within L s₀ (takeLease m ts s) := by
  unfold takeLease
  with_reducible repeat' first
    | assumption
    | exact List.Subset.trans (by decide) hL
    | apply leaseSet_within
    | apply wr_within

theorem granted_within {L : List Part} {s₀ : State} (m : ClerkMsg) (ts : Nat) (s : State) (h₀ : Within L s₀ s)
    (hL : [.regs, .live, .host, .deck, .ports, .egr, .pair, .ledger, .out] ⊆ L) : Within L s₀ (granted m ts s) := by
  unfold granted
  with_reducible repeat' first
    | assumption
    | exact List.Subset.trans (by decide) hL
    | apply Within.ite
    | apply takeLease_within
    | apply becomeActive_within
    | apply shrCount_within
    | apply pubAll_within

theorem execRxGrant_within {L : List Part} {s₀ : State} (m : ClerkMsg) (s : State) (h₀ : Within L s₀ s)
    (hL : [.regs, .live, .host, .deck, .ports, .egr, .pair, .ledger, .out] ⊆ L) : AnswersIn L s₀ (execRxGrant m s) := by
  unfold execRxGrant
  with_reducible repeat' first
    | exact Within.refl _
    | assumption
    | exact List.Subset.trans (by decide) hL
    | (intro _; try dsimp only)
    | apply AnswersIn.inFull
    | apply clerkReply_within
    | apply granted_within

theorem execRxHealth_within {L : List Part} {s₀ : State} (l : Fin 2) (h : ShroudHdr) (ws : List Word) (s : State)
    (h₀ : Within L s₀ s)
    (hL : [.live, .pair, .out] ⊆ L) : AnswersIn L s₀ (execRxHealth l h ws s) := by
  unfold execRxHealth
  with_reducible repeat' first
    | exact Within.refl _
    | assumption
    | exact List.Subset.trans (by decide) hL
    | (intro _; try dsimp only)
    | apply AnswersIn.inFull
    | apply shroudRx_within
    | apply setPair_within

theorem hbTriggers_within {L : List Part} {s₀ : State} (old : Word) (new : Word) (s : State) (h₀ : Within L s₀ s)
    (hL : [.pair] ⊆ L) : Within L s₀ (hbTriggers old new s) := by
  unfold hbTriggers
  with_reducible repeat' first
    | assumption
    | apply Within.ite
    | apply setPair_within
    | apply wantLease_within

theorem peerSeen_within {L : List Part} {s₀ : State} (s : State) (h₀ : Within L s₀ s)
    (hL : [.regs, .host, .deck, .pair, .out] ⊆ L) : Within L s₀ (peerSeen s) := by
  unfold peerSeen
  with_reducible repeat' first
    | assumption
    | exact List.Subset.trans (by decide) hL
    | apply Within.ite
    | apply bulkSend_within
    | apply raise_within
    | apply setPair_within

theorem heartbeatIn_within {L : List Part} {s₀ : State} (hb : Heartbeat) (s0 : State) (h₀ : Within L s₀ s0)
    (hL : [.regs, .live, .host, .deck, .ports, .egr, .pair, .ledger, .out] ⊆ L) : Within L s₀ (heartbeatIn hb s0) := by
  unfold heartbeatIn
  with_reducible repeat' first
    | assumption
    | exact List.Subset.trans (by decide) hL
    | apply Within.ite
    | apply wrWords_within
    | apply confirmLease_within
    | apply hbTriggers_within
    | apply dualActive_within
    | apply setPair_within
    | apply shrCount_within
    | apply peerSeen_within

theorem execRxHeartbeat_within {L : List Part} {s₀ : State} (l : Fin 2) (h : ShroudHdr) (hb : Heartbeat) (s : State)
    (h₀ : Within L s₀ s)
    (hL : [.regs, .live, .host, .deck, .ports, .egr, .pair, .ledger, .out] ⊆ L) : AnswersIn L s₀ (execRxHeartbeat l h hb s) := by
  unfold execRxHeartbeat
  with_reducible repeat' first
    | exact Within.refl _
    | assumption
    | exact List.Subset.trans (by decide) hL
    | (intro _; try dsimp only)
    | apply AnswersIn.inFull
    | apply heartbeatIn_within
    | apply shroudRx_within

theorem execRxLedger_within {L : List Part} {s₀ : State} (l : Fin 2) (h : ShroudHdr) (rs : List (List Word)) (s : State)
    (h₀ : Within L s₀ s)
    (hL : [.live, .pair, .out] ⊆ L) : AnswersIn L s₀ (execRxLedger l h rs s) := by
  unfold execRxLedger
  with_reducible repeat' first
    | exact Within.refl _
    | assumption
    | exact List.Subset.trans (by decide) hL
    | (intro _; try dsimp only)
    | apply AnswersIn.inFull
    | apply shroudRx_within
    | apply setPair_within
    | apply shrCount_within

theorem linkReset_within {L : List Part} {s₀ : State} (l : Nat) (s : State) (h₀ : Within L s₀ s)
    (hL : [.pair, .out] ⊆ L) : Within L s₀ (linkReset l s) := by
  unfold linkReset
  with_reducible repeat' first
    | assumption
    | exact List.Subset.trans (by decide) hL
    | apply setShroud_within
    | apply drainWaits_within

theorem execRxLinkInit_within {L : List Part} {s₀ : State} (l : Fin 2) (h : ShroudHdr) (s : State) (h₀ : Within L s₀ s)
    (hL : [.live, .pair, .out] ⊆ L) : AnswersIn L s₀ (execRxLinkInit l h s) := by
  unfold execRxLinkInit
  with_reducible repeat' first
    | exact Within.refl _
    | assumption
    | exact List.Subset.trans (by decide) hL
    | (intro _; try dsimp only)
    | apply AnswersIn.inFull
    | apply linkReset_within
    | apply shroudRx_within

theorem renewed_within {L : List Part} {s₀ : State} (m : ClerkMsg) (ts : Nat) (s : State) (h₀ : Within L s₀ s)
    (hL : [.regs, .live, .host, .deck, .ports, .egr, .pair, .ledger, .out] ⊆ L) : Within L s₀ (renewed m ts s) := by
  unfold renewed
  with_reducible repeat' first
    | assumption
    | apply Within.ite
    | apply takeLease_within
    | apply becomeActive_within

theorem execRxRenewed_within {L : List Part} {s₀ : State} (m : ClerkMsg) (s : State) (h₀ : Within L s₀ s)
    (hL : [.regs, .live, .host, .deck, .ports, .egr, .pair, .ledger, .out] ⊆ L) : AnswersIn L s₀ (execRxRenewed m s) := by
  unfold execRxRenewed
  with_reducible repeat' first
    | exact Within.refl _
    | assumption
    | exact List.Subset.trans (by decide) hL
    | (intro _; try dsimp only)
    | apply AnswersIn.inFull
    | apply renewed_within
    | apply clerkReply_within

theorem resyncIn_within {L : List Part} {s₀ : State} (d : ResyncData) (s : State) (h₀ : Within L s₀ s)
    (hL : [.regs, .host, .deck, .nest, .pair, .out] ⊆ L) : Within L s₀ (resyncIn d s) := by
  unfold resyncIn
  with_reducible repeat' first
    | exact Within.refl _
    | assumption
    | exact List.Subset.trans (by decide) hL
    | (intro _; try dsimp only)
    | apply Within.ite
    | apply bellWrite_within
    | apply setNest_within
    | apply setPair_within
    | apply Within.foldl
    | split

theorem execRxResyncData_within {L : List Part} {s₀ : State} (l : Fin 2) (h : ShroudHdr) (d : ResyncData) (s : State)
    (h₀ : Within L s₀ s)
    (hL : [.regs, .live, .host, .deck, .nest, .pair, .out] ⊆ L) : AnswersIn L s₀ (execRxResyncData l h d s) := by
  unfold execRxResyncData
  with_reducible repeat' first
    | exact Within.refl _
    | assumption
    | exact List.Subset.trans (by decide) hL
    | (intro _; try dsimp only)
    | apply AnswersIn.inFull
    | apply resyncIn_within
    | apply shroudRx_within

theorem execRxResyncReq_within {L : List Part} {s₀ : State} (l : Fin 2) (h : ShroudHdr) (s : State) (h₀ : Within L s₀ s)
    (hL : [.live, .pair, .out] ⊆ L) : AnswersIn L s₀ (execRxResyncReq l h s) := by
  unfold execRxResyncReq
  with_reducible repeat' first
    | exact Within.refl _
    | assumption
    | exact List.Subset.trans (by decide) hL
    | (intro _; try dsimp only)
    | apply AnswersIn.inFull
    | apply bulkSend_within
    | apply shroudRx_within

theorem shroudChange_within {L : List Part} {s₀ : State} (l : Nat) (up : Bool) (s : State) (h₀ : Within L s₀ s)
    (hL : [.regs, .host, .deck, .pair, .out] ⊆ L) : Within L s₀ (shroudChange l up s) := by
  unfold shroudChange
  with_reducible repeat' first
    | exact Within.refl _
    | assumption
    | exact List.Subset.trans (by decide) hL
    | (intro _; try dsimp only)
    | apply Within.ite
    | apply linkReset_within
    | apply shroudSend_within
    | apply setShroud_within
    | apply bulkSend_within
    | apply raise_within
    | apply Within.foldl

theorem execShroudLinkChange_within {L : List Part} {s₀ : State} (l : Fin 2) (up : Bool) (s : State) (h₀ : Within L s₀ s)
    (hL : [.regs, .host, .deck, .pair, .out] ⊆ L) : AnswersIn L s₀ (execShroudLinkChange l up s) := by
  unfold execShroudLinkChange
  with_reducible repeat' first
    | assumption
    | apply Within.ite
    | apply AnswersIn.inFull
    | apply shroudChange_within

theorem pairStart_within {L : List Part} {s₀ : State} (s : State) (h₀ : Within L s₀ s)
    (hL : [.pair] ⊆ L) : Within L s₀ (pairStart s) := by
  unfold pairStart
  with_reducible repeat' first
    | assumption
    | apply setPair_within

theorem bootRecord_within {L : List Part} {s₀ : State} (code : Nat) (sev : Nat) (key : Nat) (s : State) (h₀ : Within L s₀ s)
    (hL : [.regs, .host, .deck, .ledger, .out] ⊆ L) : Within L s₀ (bootRecord code sev key s) := by
  unfold bootRecord
  with_reducible repeat' first
    | assumption
    | apply logEvent_within

theorem writeRec_within {L : List Part} {s₀ : State} (f : BootRec → BootRec) (s : State) (h₀ : Within L s₀ s)
    (hL : [.boot] ⊆ L) : Within L s₀ (writeRec f s) := by
  unfold writeRec
  repeat' ((with_reducible apply Within.lit); all_goals first | exact Or.inl (hL (by decide)) | with_reducible exact Or.inr rfl | with_reducible assumption)

theorem botEnd_within {L : List Part} {s₀ : State} (result : Nat) (s : State) (h₀ : Within L s₀ s)
    (hL : [.regs, .host, .deck, .out] ⊆ L) : Within L s₀ (botEnd result s) := by
  unfold botEnd
  with_reducible repeat' first
    | assumption
    | exact List.Subset.trans (by decide) hL
    | apply wr_within
    | apply raise_within

theorem actDone_within {L : List Part} {s₀ : State} (kind : Nat) (s : State) (h₀ : Within L s₀ s)
    (hL : [.regs, .host, .deck, .ledger, .boot, .out] ⊆ L) : Within L s₀ (actDone kind s) := by
  unfold actDone
  repeat' first
    | exact List.Subset.trans (by decide) hL
    | ((with_reducible apply Within.lit); all_goals first | exact Or.inl (hL (by decide)) | with_reducible exact Or.inr rfl | with_reducible assumption | with_reducible apply bootRecord_within | with_reducible apply writeRec_within | with_reducible apply botEnd_within | with_reducible apply raise_within)

theorem flushQueues_within {L : List Part} {s₀ : State} (s : State) (h₀ : Within L s₀ s)
    (hL : [.egr] ⊆ L) : Within L s₀ (flushQueues s) := by
  unfold flushQueues
  repeat' ((with_reducible apply Within.lit); all_goals first | exact Or.inl (hL (by decide)) | with_reducible exact Or.inr rfl | with_reducible assumption)

theorem closeTabs_within {L : List Part} {s₀ : State} (s : State) (h₀ : Within L s₀ s)
    (hL : [.regs, .live, .free, .mast, .host, .deck, .ports, .ing, .mkt, .cap, .nest, .egr, .pair, .ledger, .out] ⊆ L) :
    Within L s₀ (closeTabs s) := by
  unfold closeTabs
  repeat' first
    | with_reducible assumption
    | (intro _; try dsimp only)
    | ((with_reducible apply Within.lit); all_goals first | exact Or.inl (hL (by decide)) | with_reducible exact Or.inr rfl | with_reducible exact Within.refl _ | with_reducible assumption | with_reducible apply closeSection_within | with_reducible apply sealSection_within | with_reducible apply Within.foldl | with_reducible apply Within.forUpTo)
    | split

theorem capTrunc_within {L : List Part} {s₀ : State} (s : State) (h₀ : Within L s₀ s)
    (hL : [.regs, .host, .deck, .cap, .out] ⊆ L) : Within L s₀ (capTrunc s) := by
  unfold capTrunc
  with_reducible repeat' first
    | assumption
    | apply endRecord_within
    | split

theorem silence_within {L : List Part} {s₀ : State} (s : State) (h₀ : Within L s₀ s)
    (hL : [.regs, .live, .free, .mast, .host, .deck, .ports, .ing, .mkt, .scales, .cap, .nest, .egr, .pair, .ledger, .sentry, .boot, .nodeOk, .out] ⊆ L) :
    Within L s₀ (silence s) := by
  unfold silence
  repeat' first
    | exact List.Subset.trans (by decide) hL
    | (intro _; try dsimp only)
    | ((with_reducible apply Within.lit); all_goals first | exact Or.inl (hL (by decide)) | with_reducible exact Or.inr rfl | with_reducible exact Within.refl _ | with_reducible assumption | with_reducible apply Within.ite | with_reducible apply ownSave_within | with_reducible apply leaseRelease_within | with_reducible apply baselineSave_within | with_reducible apply endPoint_within | with_reducible apply flushQueues_within | with_reducible apply closeTabs_within | with_reducible apply deckRestart_within | with_reducible apply flushRun_within | with_reducible apply capTrunc_within | with_reducible apply updateNodeOk_within | with_reducible apply Within.foldl)

theorem botBusy_within {L : List Part} {s₀ : State} (s : State) (h₀ : Within L s₀ s)
    (hL : [.regs] ⊆ L) : Within L s₀ (botBusy s) := by
  unfold botBusy
  with_reducible repeat' first
    | assumption
    | apply wr_within

theorem actStart_within {L : List Part} {s₀ : State} (kind : Nat) (b : Nat) (s : State) (h₀ : Within L s₀ s)
    (hL : [.regs, .live, .free, .mast, .host, .deck, .ports, .ing, .mkt, .scales, .cap, .nest, .egr, .pair, .ledger, .sentry, .boot, .nodeOk, .out] ⊆ L) :
    Within L s₀ (actStart kind b s) := by
  unfold actStart
  repeat' first
    | exact List.Subset.trans (by decide) hL
    | ((with_reducible apply Within.lit); all_goals first | exact Or.inl (hL (by decide)) | with_reducible exact Or.inr rfl | with_reducible assumption | with_reducible apply Within.ite | with_reducible apply deckRestart_within | with_reducible apply silence_within | with_reducible apply botBusy_within)

theorem setBank_within {L : List Part} {s₀ : State} (b : Nat) (st : BankState) (s : State) (h₀ : Within L s₀ s)
    (hL : [.regs, .host, .deck, .boot, .out] ⊆ L) : Within L s₀ (setBank b st s) := by
  unfold setBank
  with_reducible repeat' first
    | assumption
    | exact List.Subset.trans (by decide) hL
    | apply Within.ite
    | apply writeRec_within
    | apply raise_within

theorem rejectBank_within {L : List Part} {s₀ : State} (b : Nat) (code : Nat) (s : State) (h₀ : Within L s₀ s)
    (hL : [.regs, .host, .deck, .ledger, .boot, .out] ⊆ L) : Within L s₀ (rejectBank b code s) := by
  unfold rejectBank
  with_reducible repeat' first
    | assumption
    | exact List.Subset.trans (by decide) hL
    | apply setBank_within
    | apply bootRecord_within

theorem activate_within {L : List Part} {s₀ : State} (full : Bool) (b : Nat) (force : Bool) (c : BankCheck) (s : State)
    (h₀ : Within L s₀ s)
    (hL : [.regs, .live, .free, .mast, .host, .deck, .ports, .ing, .mkt, .scales, .cap, .nest, .egr, .pair, .ledger, .sentry, .boot, .nodeOk, .out] ⊆ L) :
    Within L s₀ (activate full b force c s).2 := by
  unfold activate
  try dsimp only
  with_reducible repeat' first
    | assumption
    | exact List.Subset.trans (by decide) hL
    | apply actStart_within
    | apply rejectBank_within
    | split

theorem revertStart_within {L : List Part} {s₀ : State} (kind : Nat) (b : Nat) (s : State) (h₀ : Within L s₀ s)
    (hL : [.regs, .live, .free, .mast, .host, .deck, .ports, .ing, .mkt, .scales, .cap, .nest, .egr, .pair, .ledger, .sentry, .boot, .nodeOk, .out] ⊆ L) :
    Within L s₀ (revertStart kind b s) := by
  unfold revertStart
  repeat' first
    | exact List.Subset.trans (by decide) hL
    | ((with_reducible apply Within.lit); all_goals first | exact Or.inl (hL (by decide)) | with_reducible exact Or.inr rfl | with_reducible assumption | with_reducible apply Within.ite | with_reducible apply deckRestart_within | with_reducible apply silence_within)

theorem relink_within {L : List Part} {s₀ : State} (s : State) (t : State) (h₀ : Within L s₀ t)
    (hL : [.regs, .live, .host, .deck, .ports, .out] ⊆ L) : Within L s₀ (relink s t) := by
  unfold relink
  with_reducible repeat' first
    | exact Within.refl _
    | assumption
    | (intro _; try dsimp only)
    | apply Within.ite
    | apply linkChange_within
    | apply Within.forUpTo

theorem startOuts_within {L : List Part} {s₀ : State} (s : State) (h₀ : Within L s₀ s)
    (hL : [.egr] ⊆ L) : Within L s₀ (startOuts s) := by
  unfold startOuts
  repeat' ((with_reducible apply Within.lit); all_goals first | exact Or.inl (hL (by decide)) | with_reducible exact Or.inr rfl | with_reducible assumption)

theorem shedEffect_within {L : List Part} {s₀ : State} (k : Nat) (on : Bool) (s : State) (h₀ : Within L s₀ s)
    (hL : [.regs, .live, .free, .mast, .host, .deck, .ports, .ing, .mkt, .cap, .pak, .nest, .egr, .pair, .ledger, .out] ⊆ L) :
    Within L s₀ (shedEffect k on s) := by
  unfold shedEffect
  with_reducible repeat' first
    | assumption
    | exact List.Subset.trans (by decide) hL
    | apply Within.ite
    | apply capShed_within
    | apply setPak_within
    | apply fastShed_within
    | apply fastRestart_within
    | apply revisionShed_within
    | apply raise_within

theorem shedAgain_within {L : List Part} {s₀ : State} (s : State) (h₀ : Within L s₀ s)
    (hL : [.regs, .live, .free, .mast, .host, .deck, .ports, .ing, .mkt, .cap, .pak, .nest, .egr, .pair, .ledger, .out] ⊆ L) :
    Within L s₀ (shedAgain s) := by
  unfold shedAgain
  with_reducible repeat' first
    | exact Within.refl _
    | assumption
    | (intro _; try dsimp only)
    | apply Within.ite
    | apply shedEffect_within
    | apply Within.foldl

theorem startDataPath_within {L : List Part} {s₀ : State} (resume : Bool) (s : State) (h₀ : Within L s₀ s)
    (hL : [.regs, .live, .free, .mast, .host, .deck, .ports, .ing, .mkt, .scales, .cap, .pak, .nest, .egr, .pair, .ledger, .boot, .out] ⊆ L) :
    Within L s₀ (startDataPath resume s) := by
  unfold startDataPath
  try dsimp only
  repeat' first
    | exact List.Subset.trans (by decide) hL
    | ((with_reducible apply Within.lit); all_goals first | exact Or.inl (hL (by decide)) | with_reducible exact Or.inr rfl | with_reducible assumption | with_reducible apply startOuts_within | with_reducible apply marketStart_within | with_reducible apply nestStart_within | with_reducible apply capStart_within | with_reducible apply shedAgain_within | with_reducible apply scalesStart_within)

theorem carryPubs_within {L : List Part} {s₀ : State} (old : List (Nat × PubCfg)) (s : State) (h₀ : Within L s₀ s)
    (hL : [.egr] ⊆ L) : Within L s₀ (carryPubs old s) := by
  unfold carryPubs
  repeat' ((with_reducible apply Within.lit); all_goals first | exact Or.inl (hL (by decide)) | with_reducible exact Or.inr rfl | with_reducible assumption)

theorem deriveDomains_within {L : List Part} {s₀ : State} (old : List DomainCfg) (s : State) (h₀ : Within L s₀ s)
    (hL : [.till] ⊆ L) : Within L s₀ (deriveDomains old s) := by
  unfold deriveDomains
  with_reducible repeat' first
    | exact Within.refl _
    | assumption
    | (intro _; try dsimp only)
    | apply destroySlot_within
    | apply setSlot_within
    | apply Within.forUpTo
    | split

theorem mastConfig_within {L : List Part} {s₀ : State} (old : Word) (s : State) (h₀ : Within L s₀ s)
    (hL : [.regs, .mast, .host, .deck, .out] ⊆ L) : Within L s₀ (mastConfig old s) := by
  unfold mastConfig
  repeat' first
    | exact List.Subset.trans (by decide) hL
    | ((with_reducible apply Within.lit); all_goals first | exact Or.inl (hL (by decide)) | with_reducible exact Or.inr rfl | with_reducible assumption | with_reducible apply Within.ite | with_reducible apply updateHoldExc_within | with_reducible apply cycLeave_within)

theorem phyDefault_within {L : List Part} {s₀ : State} (s : State) (p : Nat) (h₀ : Within L s₀ s)
    (hL : [.regs] ⊆ L) : Within L s₀ (phyDefault s p) := by
  unfold phyDefault
  with_reducible repeat' first
    | assumption
    | apply Within.ite
    | apply wrF_within

theorem imageDefaults_within {L : List Part} {s₀ : State} (launch : Bool) (s : State) (h₀ : Within L s₀ s)
    (hL : [.regs] ⊆ L) : Within L s₀ (imageDefaults launch s) := by
  unfold imageDefaults
  with_reducible repeat' first
    | exact Within.refl _
    | assumption
    | (intro _; try dsimp only)
    | apply Within.ite
    | apply setStat_within
    | apply phyDefault_within
    | apply wrF_within
    | apply wr_within
    | apply Within.forUpTo

theorem loadConfig_within {L : List Part} {s₀ : State} (p : PenegImage) (s : State) (h₀ : Within L s₀ s)
    (hL : [.regs, .mast, .host, .deck, .till, .boot, .cfg, .out] ⊆ L) : Within L s₀ (loadConfig p s) := by
  unfold loadConfig
  repeat' first
    | exact List.Subset.trans (by decide) hL
    | (intro _; try dsimp only)
    | ((with_reducible apply Within.lit); all_goals first | exact Or.inl (hL (by decide)) | with_reducible exact Or.inr rfl | with_reducible exact Within.refl _ | with_reducible assumption | with_reducible apply wrWords_within | with_reducible apply mastConfig_within | with_reducible apply wr_within | with_reducible apply imageDefaults_within | with_reducible apply Within.foldl)

theorem meteringOn_within {L : List Part} {s₀ : State} (s : State) (h₀ : Within L s₀ s)
    (hL : [.regs, .scales] ⊆ L) : Within L s₀ (meteringOn s) := by
  unfold meteringOn
  with_reducible repeat' first
    | assumption
    | exact List.Subset.trans (by decide) hL
    | apply setEnergy_within
    | apply wrF_within

theorem reconfigure_within {L : List Part} {s₀ : State} (p : PenegImage) (s : State) (h₀ : Within L s₀ s)
    (hL : [.regs, .live, .free, .mast, .host, .deck, .ports, .ing, .mkt, .scales, .cap, .pak, .nest, .egr, .pair, .till, .ledger, .boot, .cfg, .out] ⊆ L) :
    Within L s₀ (reconfigure p s) := by
  unfold reconfigure
  repeat' first
    | exact List.Subset.trans (by decide) hL
    | ((with_reducible apply Within.lit); all_goals first | exact Or.inl (hL (by decide)) | with_reducible exact Or.inr rfl | with_reducible assumption | with_reducible apply Within.ite | with_reducible apply startDataPath_within | with_reducible apply carryPubs_within | with_reducible apply deriveDomains_within | with_reducible apply energyRestore_within | with_reducible apply loadConfig_within | with_reducible apply meteringOn_within)

theorem resumeWith_within {L : List Part} {s₀ : State} (p : PenegImage) (s : State) (h₀ : Within L s₀ s)
    (hL : [.regs, .live, .free, .mast, .host, .deck, .ports, .ing, .mkt, .scales, .cap, .pak, .nest, .egr, .pair, .till, .ledger, .boot, .cfg, .out] ⊆ L) :
    Within L s₀ (resumeWith p s) := by
  unfold resumeWith
  repeat' first
    | exact List.Subset.trans (by decide) hL
    | ((with_reducible apply Within.lit); all_goals first | exact Or.inl (hL (by decide)) | with_reducible exact Or.inr rfl | with_reducible assumption | with_reducible apply Within.ite | with_reducible apply wrF_within | with_reducible apply relink_within | with_reducible apply reconfigure_within | with_reducible apply pairStart_within)

theorem revertDone_within {L : List Part} {s₀ : State} (s : State) (h₀ : Within L s₀ s)
    (hL : [.regs, .host, .deck, .ledger, .boot, .out] ⊆ L) : Within L s₀ (revertDone s) := by
  unfold revertDone
  repeat' first
    | exact List.Subset.trans (by decide) hL
    | ((with_reducible apply Within.lit); all_goals first | exact Or.inl (hL (by decide)) | with_reducible exact Or.inr rfl | with_reducible assumption | with_reducible apply bootRecord_within | with_reducible apply raise_within)

theorem activationResume_within {L : List Part} {s₀ : State} (hashOk : Bool) (s : State) (h₀ : Within L s₀ s)
    (hL : [.regs, .live, .free, .mast, .host, .deck, .ports, .ing, .mkt, .scales, .cap, .pak, .nest, .egr, .pair, .till, .ledger, .sentry, .boot, .nodeOk, .cfg, .out] ⊆ L) :
    Within L s₀ (activationResume hashOk s) := by
  unfold activationResume
  with_reducible repeat' first
    | assumption
    | exact List.Subset.trans (by decide) hL
    | apply rejectBank_within
    | apply revertStart_within
    | apply actDone_within
    | apply resumeWith_within
    | apply botEnd_within
    | apply revertDone_within
    | apply pubAll_within
    | apply updateNodeOk_within
    | split

theorem trialReject_within {L : List Part} {s₀ : State} (s : State) (h₀ : Within L s₀ s)
    (hL : [.regs, .host, .deck, .ledger, .boot, .out] ⊆ L) : Within L s₀ (trialReject s) := by
  unfold trialReject
  with_reducible repeat' first
    | assumption
    | exact List.Subset.trans (by decide) hL
    | apply bootRecord_within
    | apply writeRec_within
    | apply raise_within

theorem bootDeckFailed_within {L : List Part} {s₀ : State} (s : State) (h₀ : Within L s₀ s)
    (hL : [.regs, .live, .free, .mast, .host, .deck, .ports, .ing, .mkt, .scales, .cap, .nest, .egr, .pair, .ledger, .sentry, .boot, .nodeOk, .out] ⊆ L) :
    Within L s₀ (bootDeckFailed s) := by
  unfold bootDeckFailed
  with_reducible repeat' first
    | assumption
    | exact List.Subset.trans (by decide) hL
    | apply Within.ite
    | apply rejectBank_within
    | apply revertStart_within
    | apply botEnd_within
    | apply trialReject_within

theorem bootDeckRun_within {L : List Part} {s₀ : State} (s : State) (h₀ : Within L s₀ s)
    (hL : [.regs, .live, .host, .deck, .ports, .egr, .pair, .ledger, .boot, .nodeOk, .out] ⊆ L) :
    Within L s₀ (bootDeckRun s) := by
  unfold bootDeckRun
  with_reducible repeat' first
    | assumption
    | exact List.Subset.trans (by decide) hL
    | apply Within.ite
    | apply clerkRenew_within
    | apply actDone_within
    | apply revertDone_within
    | apply updateNodeOk_within

theorem bootLoadCode_within {L : List Part} {s₀ : State} (s : State) (h₀ : Within L s₀ s)
    (hL : [.till, .cfg] ⊆ L) : Within L s₀ (bootLoadCode s) := by
  unfold bootLoadCode
  repeat' first
    | ((with_reducible apply Within.lit); all_goals first | exact Or.inl (hL (by decide)) | with_reducible exact Or.inr rfl | with_reducible assumption)
    | split

theorem botRefuse_within {L : List Part} {s₀ : State} (result : Nat) (s : State) (h₀ : Within L s₀ s)
    (hL : [.regs] ⊆ L) : Within L s₀ (botRefuse result s) := by
  unfold botRefuse
  with_reducible repeat' first
    | assumption
    | apply wrF_within

theorem jobStartBank_within {L : List Part} {s₀ : State} (erase : Bool) (b : Nat) (svc : Option Word) (s : State)
    (h₀ : Within L s₀ s)
    (hL : [.boot] ⊆ L) : Within L s₀ (jobStartBank erase b svc s) := by
  unfold jobStartBank
  repeat' ((with_reducible apply Within.lit); all_goals first | exact Or.inl (hL (by decide)) | with_reducible exact Or.inr rfl | with_reducible assumption)

theorem dieReset_within {L : List Part} {s₀ : State} (s : State)
    (h₀ : Within L s₀ s) (hL : [.regs, .live, .ticks, .tai, .mast, .host, .deck, .ports, .ing, .mkt, .scales, .cap, .pak, .nest, .egr, .pair, .till, .mem, .ledger, .sentry, .boot, .power, .nodeOk, .cfg] ⊆ L) :
    Within L s₀ (dieReset s) := by
  unfold dieReset
  refine h₀.trans ⟨fun p hp => ?_⟩
  cases p
  case free => show _ = _; dsimp only
  case out => show _ = _; dsimp only
  case pending => show _ = _; dsimp only
  all_goals exact absurd (hL (by decide)) hp

theorem powerOff_within {L : List Part} {s₀ : State} (s : State)
    (h₀ : Within L s₀ s) (hL : [.regs, .live, .ticks, .tai, .mast, .host, .deck, .ports, .ing, .mkt, .scales, .cap, .pak, .nest, .egr, .pair, .till, .mem, .ledger, .sentry, .boot, .power, .nodeOk, .cfg] ⊆ L) :
    Within L s₀ (powerOff s) := by
  have h := dieReset_within s h₀ (List.Subset.trans (by decide) hL)
  unfold powerOff
  generalize dieReset s = t at *
  refine h.trans ⟨fun p hp => ?_⟩
  cases p <;> first | rfl | exact absurd (hL (by decide)) hp

theorem restoreCache_within {L : List Part} {s₀ : State} (s : State) (h₀ : Within L s₀ s)
    (hL : [.till] ⊆ L) : Within L s₀ (restoreCache s) := by
  unfold restoreCache
  repeat' first
    | with_reducible assumption
    | (intro _; try dsimp only)
    | ((with_reducible apply Within.lit); all_goals first | exact Or.inl (hL (by decide)) | with_reducible exact Or.inr rfl | with_reducible exact Within.refl _ | with_reducible assumption | with_reducible apply Within.ite | with_reducible apply setSlot_within | with_reducible apply Within.foldl)

theorem bootBank_within {L : List Part} {s₀ : State} (i : StartInputs) (s : State) (h₀ : Within L s₀ s)
    (hL : [.regs, .host, .deck, .ledger, .boot, .out] ⊆ L) : Within L s₀ (bootBank i s).2 := by
  unfold bootBank
  try dsimp only
  repeat' first
    | exact List.Subset.trans (by decide) hL
    | ((with_reducible apply Within.lit); all_goals first | exact Or.inl (hL (by decide)) | with_reducible exact Or.inr rfl | with_reducible assumption | with_reducible apply setBank_within | with_reducible apply bootRecord_within | with_reducible apply rejectBank_within | with_reducible apply writeRec_within | with_reducible apply raise_within)
    | split

theorem enterRecovery_within {L : List Part} {s₀ : State} (why : Nat) (s : State) (h₀ : Within L s₀ s)
    (hL : [.regs, .host, .deck, .till, .ledger, .boot, .cfg, .out] ⊆ L) : Within L s₀ (enterRecovery why s) := by
  unfold enterRecovery
  repeat' first
    | exact List.Subset.trans (by decide) hL
    | ((with_reducible apply Within.lit); all_goals first | exact Or.inl (hL (by decide)) | with_reducible exact Or.inr rfl | with_reducible assumption | with_reducible apply bootRecord_within | with_reducible apply writeRec_within)

theorem lastWordsReport_within {L : List Part} {s₀ : State} (s : State) (h₀ : Within L s₀ s)
    (hL : [.regs, .host, .deck, .ledger, .out] ⊆ L) : Within L s₀ (lastWordsReport s) := by
  unfold lastWordsReport
  with_reducible repeat' first
    | assumption
    | apply logEvent_within
    | split

theorem restoreCounts_within {L : List Part} {s₀ : State} (s : State) (h₀ : Within L s₀ s)
    (hL : [.ledger] ⊆ L) : Within L s₀ (restoreCounts s) := by
  unfold restoreCounts
  with_reducible repeat' first
    | assumption
    | apply setLedger_within

theorem ledgerStart_within {L : List Part} {s₀ : State} (code : Nat) (ofs : Word) (s : State) (h₀ : Within L s₀ s)
    (hL : [.regs, .live, .host, .deck, .ports, .scales, .nest, .egr, .ledger, .sentry, .boot, .nodeOk, .out] ⊆ L) :
    Within L s₀ (ledgerStart code ofs s) := by
  unfold ledgerStart
  with_reducible repeat' first
    | assumption
    | exact List.Subset.trans (by decide) hL
    | apply Within.ite
    | apply lastWordsReport_within
    | apply clearFinish_within
    | apply ledgerFail_within
    | apply restoreCounts_within

theorem tillKeys_within {L : List Part} {s₀ : State} (fcalOk : Bool) (s : State) (h₀ : Within L s₀ s)
    (hL : [.regs, .host, .deck, .till, .ledger, .out] ⊆ L) : Within L s₀ (tillKeys fcalOk s) := by
  unfold tillKeys
  repeat' first
    | exact List.Subset.trans (by decide) hL
    | ((with_reducible apply Within.lit); all_goals first | exact Or.inl (hL (by decide)) | with_reducible exact Or.inr rfl | with_reducible assumption | with_reducible apply Within.ite | with_reducible apply setStat_within | with_reducible apply logEvent_within | with_reducible apply restoreCache_within | with_reducible apply deriveDomains_within | with_reducible apply raise_within)

theorem startBlocks_within {L : List Part} {s₀ : State} (s : State) (h₀ : Within L s₀ s)
    (hL : [.regs, .live, .tai, .free, .mast, .host, .deck, .ports, .ing, .mkt, .scales, .cap, .pak, .nest, .egr, .pair, .ledger, .boot, .out] ⊆ L) :
    Within L s₀ (startBlocks s) := by
  unfold startBlocks
  try dsimp only
  repeat' first
    | exact List.Subset.trans (by decide) hL
    | ((with_reducible apply Within.lit); all_goals first | exact Or.inl (hL (by decide)) | with_reducible exact Or.inr rfl | with_reducible assumption | with_reducible apply startDataPath_within | with_reducible apply energyRestore_within | with_reducible apply pairStart_within | with_reducible apply meteringOn_within)

theorem sentryReports_within {L : List Part} {s₀ : State} (s : State) (h₀ : Within L s₀ s)
    (hL : [.regs, .host, .deck, .ledger, .sentry, .out] ⊆ L) : Within L s₀ (sentryReports s) := by
  unfold sentryReports
  repeat' first
    | exact List.Subset.trans (by decide) hL
    | ((with_reducible apply Within.lit); all_goals first | exact Or.inl (hL (by decide)) | with_reducible exact Or.inr rfl | with_reducible assumption | with_reducible apply Within.ite | with_reducible apply logEvent_within)

theorem normalStart_within {L : List Part} {s₀ : State} (i : StartInputs) (b : Nat) (s : State) (h₀ : Within L s₀ s)
    (hL : [.regs, .live, .tai, .free, .mast, .host, .deck, .ports, .ing, .mkt, .scales, .cap, .pak, .nest, .egr, .pair, .till, .ledger, .sentry, .boot, .nodeOk, .cfg, .out] ⊆ L) :
    Within L s₀ (normalStart i b s) := by
  unfold normalStart
  repeat' first
    | exact List.Subset.trans (by decide) hL
    | ((with_reducible apply Within.lit); all_goals first | exact Or.inl (hL (by decide)) | with_reducible exact Or.inr rfl | with_reducible assumption | with_reducible apply deckRun_within | with_reducible apply wrF_within | with_reducible apply tillKeys_within | with_reducible apply bootLoadCode_within | with_reducible apply loadConfig_within | with_reducible apply startBlocks_within | with_reducible apply sentryReports_within | with_reducible apply deckStart_within | with_reducible apply updateNodeOk_within)
    | split

theorem sealedStart_within {L : List Part} {s₀ : State} (p : PenegImage) (s : State) (h₀ : Within L s₀ s)
    (hL : [.regs, .host, .deck, .ledger, .boot, .cfg, .out] ⊆ L) : Within L s₀ (sealedStart p s) := by
  unfold sealedStart
  repeat' first
    | exact List.Subset.trans (by decide) hL
    | ((with_reducible apply Within.lit); all_goals first | exact Or.inl (hL (by decide)) | with_reducible exact Or.inr rfl | with_reducible assumption | with_reducible apply logEvent_within)

theorem trialBoot_within {L : List Part} {s₀ : State} (s : State) (h₀ : Within L s₀ s)
    (hL : [.regs, .host, .deck, .ledger, .boot, .out] ⊆ L) : Within L s₀ (trialBoot s) := by
  unfold trialBoot
  with_reducible repeat' first
    | assumption
    | apply Within.ite
    | apply trialReject_within

theorem tillBoot_within {L : List Part} {s₀ : State} (i : StartInputs) (s : State) (h₀ : Within L s₀ s)
    (hL : [.till] ⊆ L) : Within L s₀ (tillBoot i s) := by
  unfold tillBoot
  repeat' ((with_reducible apply Within.lit); all_goals first | exact Or.inl (hL (by decide)) | with_reducible exact Or.inr rfl | with_reducible assumption | with_reducible apply Within.ite)

theorem nodeStart_within {L : List Part} {s₀ : State} (i : StartInputs) (s : State)
    (h₀ : Within L s₀ s) (hL : [.regs, .live, .tai, .free, .mast, .host, .deck, .ports, .ing, .mkt, .scales, .cap, .pak, .nest, .egr, .pair, .till, .ledger, .sentry, .boot, .nodeOk, .cfg, .out] ⊆ L) :
    Within L s₀ (nodeStart i s) := by
  unfold nodeStart
  extract_lets s1 r s2
  have h1 : Within L s₀ s1 := tillBoot_within _ _ (ledgerStart_within _ _ _ h₀ (List.Subset.trans (by decide) hL)) (List.Subset.trans (by decide) hL)
  have h2 : Within L s₀ s2 := writeRec_within _ _ (trialBoot_within _ h1 (List.Subset.trans (by decide) hL)) (List.Subset.trans (by decide) hL)
  repeat' split
  · exact enterRecovery_within _ _ h1 (List.Subset.trans (by decide) hL)
  · exact enterRecovery_within _ _ h1 (List.Subset.trans (by decide) hL)
  all_goals have h3 := bootBank_within i s2 h2 (List.Subset.trans (by decide) hL); rw [‹bootBank i s2 = _›] at h3
  · exact enterRecovery_within _ _ h3 (List.Subset.trans (by decide) hL)
  · exact sealedStart_within _ _ h3 (List.Subset.trans (by decide) hL)
  · exact normalStart_within _ _ _ h3 (List.Subset.trans (by decide) hL)
  · exact h3

theorem logService_within {L : List Part} {s₀ : State} (cmd : Nat) (status : Nat) (s : State) (h₀ : Within L s₀ s)
    (hL : [.boot] ⊆ L) : Within L s₀ (logService cmd status s) := by
  unfold logService
  repeat' ((with_reducible apply Within.lit); all_goals first | exact Or.inl (hL (by decide)) | with_reducible exact Or.inr rfl | with_reducible assumption | with_reducible apply Within.ite)

theorem jobEnd_within {L : List Part} {s₀ : State} (cmd : Nat) (result : Nat) (j : BankJob) (s : State) (h₀ : Within L s₀ s)
    (hL : [.regs, .free, .host, .deck, .boot, .out] ⊆ L) : Within L s₀ (jobEnd cmd result j s) := by
  unfold jobEnd
  repeat' first
    | exact List.Subset.trans (by decide) hL
    | ((with_reducible apply Within.lit); all_goals first | exact Or.inl (hL (by decide)) | with_reducible exact Or.inr rfl | with_reducible assumption | with_reducible apply botEnd_within | with_reducible apply logService_within | with_reducible apply svcReply_within)
    | split

theorem bankEraseDone_within {L : List Part} {s₀ : State} (s : State) (h₀ : Within L s₀ s)
    (hL : [.regs, .free, .host, .deck, .boot, .out] ⊆ L) : Within L s₀ (bankEraseDone s) := by
  unfold bankEraseDone
  repeat' first
    | exact List.Subset.trans (by decide) hL
    | ((with_reducible apply Within.lit); all_goals first | exact Or.inl (hL (by decide)) | with_reducible exact Or.inr rfl | with_reducible assumption | with_reducible apply setBank_within | with_reducible apply jobEnd_within)
    | split

theorem bankVerifyDone_within {L : List Part} {s₀ : State} (c : BankCheck) (img : Option PenegImage) (s : State)
    (h₀ : Within L s₀ s)
    (hL : [.regs, .free, .host, .deck, .ledger, .boot, .out] ⊆ L) : Within L s₀ (bankVerifyDone c img s) := by
  unfold bankVerifyDone
  repeat' first
    | exact List.Subset.trans (by decide) hL
    | ((with_reducible apply Within.lit); all_goals first | exact Or.inl (hL (by decide)) | with_reducible exact Or.inr rfl | with_reducible assumption | with_reducible apply setBank_within | with_reducible apply rejectBank_within | with_reducible apply jobEnd_within)
    | split

theorem botActivate_within {L : List Part} {s₀ : State} (full : Bool) (b : Nat) (force : Bool) (c : BankCheck) (s : State)
    (h₀ : Within L s₀ s)
    (hL : [.regs, .live, .free, .mast, .host, .deck, .ports, .ing, .mkt, .scales, .cap, .nest, .egr, .pair, .ledger, .sentry, .boot, .nodeOk, .out] ⊆ L) :
    Within L s₀ (botActivate full b force c s) := by
  unfold botActivate
  with_reducible repeat' first
    | assumption
    | exact List.Subset.trans (by decide) hL
    | apply Within.ite
    | apply activate_within
    | apply botRefuse_within
    | apply botEnd_within

theorem botJob_within {L : List Part} {s₀ : State} (erase : Bool) (b : Nat) (s : State) (h₀ : Within L s₀ s)
    (hL : [.regs, .host, .deck, .boot, .out] ⊆ L) : Within L s₀ (botJob erase b s) := by
  unfold botJob
  with_reducible repeat' first
    | assumption
    | exact List.Subset.trans (by decide) hL
    | apply Within.ite
    | apply jobStartBank_within
    | apply botBusy_within
    | apply botRefuse_within
    | apply botEnd_within

theorem execActivateFull_within {L : List Part} {s₀ : State} (who : Req) (bank : Fin 2) (force : Bool) (check : BankCheck) (s : State)
    (h₀ : Within L s₀ s)
    (hL : [.regs, .live, .free, .mast, .host, .deck, .ports, .ing, .mkt, .scales, .cap, .nest, .egr, .pair, .ledger, .sentry, .boot, .nodeOk, .out] ⊆ L) :
    AnswersIn L s₀ (execActivateFull who bank force check s) := by
  unfold execActivateFull
  with_reducible repeat' first
    | exact Within.refl _
    | assumption
    | exact List.Subset.trans (by decide) hL
    | (intro _; try dsimp only)
    | apply AnswersIn.next
    | apply botActivate_within
    | apply serve_within

theorem execActivateFw_within {L : List Part} {s₀ : State} (who : Req) (bank : Fin 2) (force : Bool) (check : BankCheck) (s : State)
    (h₀ : Within L s₀ s)
    (hL : [.regs, .live, .free, .mast, .host, .deck, .ports, .ing, .mkt, .scales, .cap, .nest, .egr, .pair, .ledger, .sentry, .boot, .nodeOk, .out] ⊆ L) :
    AnswersIn L s₀ (execActivateFw who bank force check s) := by
  unfold execActivateFw
  with_reducible repeat' first
    | exact Within.refl _
    | assumption
    | exact List.Subset.trans (by decide) hL
    | (intro _; try dsimp only)
    | apply AnswersIn.next
    | apply botActivate_within
    | apply serve_within

theorem execActivationResumption_within {L : List Part} {s₀ : State} (hashOk : Bool) (s : State) (h₀ : Within L s₀ s)
    (hL : [.regs, .live, .free, .mast, .host, .deck, .ports, .ing, .mkt, .scales, .cap, .pak, .nest, .egr, .pair, .till, .ledger, .sentry, .boot, .nodeOk, .cfg, .out] ⊆ L) :
    AnswersIn L s₀ (execActivationResumption hashOk s) := by
  unfold execActivationResumption
  with_reducible repeat' first
    | assumption
    | apply AnswersIn.inFull
    | apply activationResume_within

theorem execBankEraseDone_within {L : List Part} {s₀ : State} (s : State) (h₀ : Within L s₀ s)
    (hL : [.regs, .free, .host, .deck, .boot, .out] ⊆ L) : AnswersIn L s₀ (execBankEraseDone s) := by
  unfold execBankEraseDone
  with_reducible repeat' first
    | assumption
    | apply AnswersIn.inFull
    | apply bankEraseDone_within

theorem execBankVerifyDone_within {L : List Part} {s₀ : State} (check : BankCheck) (img : Option PenegImage) (s : State)
    (h₀ : Within L s₀ s)
    (hL : [.regs, .free, .host, .deck, .ledger, .boot, .out] ⊆ L) : AnswersIn L s₀ (execBankVerifyDone check img s) := by
  unfold execBankVerifyDone
  with_reducible repeat' first
    | assumption
    | apply AnswersIn.inFull
    | apply bankVerifyDone_within

theorem execBotErase_within {L : List Part} {s₀ : State} (who : Req) (bank : Fin 2) (s : State) (h₀ : Within L s₀ s)
    (hL : [.regs, .host, .deck, .boot, .out] ⊆ L) : AnswersIn L s₀ (execBotErase who bank s) := by
  unfold execBotErase
  with_reducible repeat' first
    | exact Within.refl _
    | assumption
    | exact List.Subset.trans (by decide) hL
    | (intro _; try dsimp only)
    | apply AnswersIn.next
    | apply botJob_within
    | apply serve_within

theorem execBotVerify_within {L : List Part} {s₀ : State} (who : Req) (bank : Fin 2) (s : State) (h₀ : Within L s₀ s)
    (hL : [.regs, .host, .deck, .boot, .out] ⊆ L) : AnswersIn L s₀ (execBotVerify who bank s) := by
  unfold execBotVerify
  with_reducible repeat' first
    | exact Within.refl _
    | assumption
    | exact List.Subset.trans (by decide) hL
    | (intro _; try dsimp only)
    | apply AnswersIn.next
    | apply botJob_within
    | apply serve_within

theorem execFailCntClear_within {L : List Part} {s₀ : State} (s : State) (h₀ : Within L s₀ s)
    (hL : [.boot] ⊆ L) : AnswersIn L s₀ (execFailCntClear s) := by
  unfold execFailCntClear
  with_reducible repeat' first
    | assumption
    | apply Within.ite
    | apply AnswersIn.inFull
    | apply writeRec_within

theorem execNodeStart_within {L : List Part} {s₀ : State} (i : StartInputs) (s : State) (h₀ : Within L s₀ s)
    (hL : [.regs, .live, .tai, .free, .mast, .host, .deck, .ports, .ing, .mkt, .scales, .cap, .pak, .nest, .egr, .pair, .till, .ledger, .sentry, .boot, .nodeOk, .cfg, .out] ⊆ L) :
    AnswersIn L s₀ (execNodeStart i s) := by
  unfold execNodeStart
  with_reducible repeat' first
    | assumption
    | apply Within.ite
    | apply AnswersIn.next
    | apply nodeStart_within

theorem svcServe_within {L : List Part} {s₀ : State} (h : SvcHdr) (cmd : Nat) (f : State → Option (Nat × List Nat) × State)
    (s : State) (hf : ∀ u, Within L u (f u).2) (h₀ : Within L s₀ s) (hL : [.free, .boot, .out] ⊆ L) : Within L s₀ (svcServe h cmd f s) := by
  have h1 := h₀.trans (hf s)
  unfold svcServe
  refine Within.ite h₀ (Within.ite (Within.ite (svcReply_within _ _ _ _ _ h₀ (List.Subset.trans (by decide) hL)) h₀) ?_)
  split
  all_goals rw [‹f s = _›] at h1
  · exact logService_within _ _ _ (svcReply_within _ _ _ _ _ h1 (List.Subset.trans (by decide) hL)) (List.Subset.trans (by decide) hL)
  · exact h1

theorem svcActivate_within {L : List Part} {s₀ : State} (cmd : Nat) (c : BankCheck) (s : State) (h₀ : Within L s₀ s)
    (hL : [.regs, .live, .free, .mast, .host, .deck, .ports, .ing, .mkt, .scales, .cap, .nest, .egr, .pair, .ledger, .sentry, .boot, .nodeOk, .out] ⊆ L) :
    Within L s₀ (svcActivate cmd c s).2 := by
  unfold svcActivate
  with_reducible repeat' first
    | assumption
    | apply activate_within
    | split

theorem execSvcActivate_within {L : List Part} {s₀ : State} (h : SvcHdr) (cmd : BitVec 8) (check : BankCheck) (s : State)
    (h₀ : Within L s₀ s)
    (hL : [.regs, .live, .free, .mast, .host, .deck, .ports, .ing, .mkt, .scales, .cap, .nest, .egr, .pair, .ledger, .sentry, .boot, .nodeOk, .out] ⊆ L) :
    AnswersIn L s₀ (execSvcActivate h cmd check s) := by
  unfold execSvcActivate
  with_reducible repeat' first
    | exact Within.refl _
    | assumption
    | exact List.Subset.trans (by decide) hL
    | (intro _; try dsimp only)
    | apply AnswersIn.next
    | apply svcServe_within
    | apply svcActivate_within

theorem svcJob_within {L : List Part} {s₀ : State} (h : SvcHdr) (erase : Bool) (b : Nat) (s : State) (h₀ : Within L s₀ s)
    (hL : [.boot] ⊆ L) : Within L s₀ (svcJob h erase b s).2 := by
  unfold svcJob
  with_reducible repeat' first
    | assumption
    | apply jobStartBank_within
    | split

theorem execSvcErase_within {L : List Part} {s₀ : State} (h : SvcHdr) (bank : Fin 2) (s : State) (h₀ : Within L s₀ s)
    (hL : [.free, .boot, .out] ⊆ L) : AnswersIn L s₀ (execSvcErase h bank s) := by
  unfold execSvcErase
  with_reducible repeat' first
    | exact Within.refl _
    | assumption
    | exact List.Subset.trans (by decide) hL
    | (intro _; try dsimp only)
    | apply AnswersIn.next
    | apply svcServe_within
    | apply svcJob_within

theorem execSvcInfo_within {L : List Part} {s₀ : State} (h : SvcHdr) (s : State) (h₀ : Within L s₀ s)
    (hL : [.free, .boot, .out] ⊆ L) : AnswersIn L s₀ (execSvcInfo h s) := by
  unfold execSvcInfo
  with_reducible repeat' first
    | exact Within.refl _
    | assumption
    | (intro _; try dsimp only)
    | apply AnswersIn.next
    | apply svcServe_within

theorem execSvcLog_within {L : List Part} {s₀ : State} (h : SvcHdr) (ofs : Word) (s : State) (h₀ : Within L s₀ s)
    (hL : [.free, .boot, .out] ⊆ L) : AnswersIn L s₀ (execSvcLog h ofs s) := by
  unfold execSvcLog
  with_reducible repeat' first
    | exact Within.refl _
    | assumption
    | (intro _; try dsimp only)
    | apply AnswersIn.next
    | apply svcServe_within

theorem svcReboot_within {L : List Part} {s₀ : State} (h : SvcHdr) (b : Nat) (s : State) (h₀ : Within L s₀ s)
    (hL : [.regs, .live, .ticks, .tai, .free, .mast, .host, .deck, .ports, .ing, .mkt, .scales, .cap, .pak, .nest, .egr, .pair, .till, .mem, .ledger, .sentry, .boot, .power, .nodeOk, .cfg, .out] ⊆ L) :
    Within L s₀ (svcReboot h b s).2 := by
  unfold svcReboot
  with_reducible repeat' first
    | assumption
    | exact List.Subset.trans (by decide) hL
    | apply dieReset_within
    | apply writeRec_within
    | apply logService_within
    | apply svcReply_within
    | split

theorem execSvcReboot_within {L : List Part} {s₀ : State} (h : SvcHdr) (bank : Fin 2) (s : State) (h₀ : Within L s₀ s)
    (hL : [.regs, .live, .ticks, .tai, .free, .mast, .host, .deck, .ports, .ing, .mkt, .scales, .cap, .pak, .nest, .egr, .pair, .till, .mem, .ledger, .sentry, .boot, .power, .nodeOk, .cfg, .out] ⊆ L) :
    AnswersIn L s₀ (execSvcReboot h bank s) := by
  unfold execSvcReboot
  with_reducible repeat' first
    | exact Within.refl _
    | assumption
    | exact List.Subset.trans (by decide) hL
    | (intro _; try dsimp only)
    | apply AnswersIn.next
    | apply svcServe_within
    | apply svcReboot_within

theorem svcTill_within {L : List Part} {s₀ : State} (seq : Word) (code : Nat) (args : List Nat) (mbox : List Nat) (cert : Bool) (ok : Bool) (s : State)
    (h₀ : Within L s₀ s)
    (hL : [.regs, .free, .till] ⊆ L) : Within L s₀ (svcTill seq code args mbox cert ok s).2 := by
  unfold svcTill
  repeat' first
    | with_reducible assumption
    | ((with_reducible apply Within.lit); all_goals first | exact Or.inl (hL (by decide)) | with_reducible exact Or.inr rfl | with_reducible assumption | with_reducible apply tillStart_within)
    | split

theorem execSvcTill_within {L : List Part} {s₀ : State} (h : SvcHdr) (code : BitVec 8) (args : List Word) (mbox : List (BitVec 8)) (cert : Bool) (ok : Bool) (s : State)
    (h₀ : Within L s₀ s)
    (hL : [.regs, .free, .till, .boot, .out] ⊆ L) : AnswersIn L s₀ (execSvcTill h code args mbox cert ok s) := by
  unfold execSvcTill
  with_reducible repeat' first
    | exact Within.refl _
    | assumption
    | exact List.Subset.trans (by decide) hL
    | (intro _; try dsimp only)
    | apply AnswersIn.next
    | apply svcServe_within
    | apply svcTill_within

theorem execSvcVerify_within {L : List Part} {s₀ : State} (h : SvcHdr) (bank : Fin 2) (s : State) (h₀ : Within L s₀ s)
    (hL : [.free, .boot, .out] ⊆ L) : AnswersIn L s₀ (execSvcVerify h bank s) := by
  unfold execSvcVerify
  with_reducible repeat' first
    | exact Within.refl _
    | assumption
    | exact List.Subset.trans (by decide) hL
    | (intro _; try dsimp only)
    | apply AnswersIn.next
    | apply svcServe_within
    | apply svcJob_within

theorem svcWrite_within {L : List Part} {s₀ : State} (b : Nat) (ofs : Nat) (data : List Nat) (s : State) (h₀ : Within L s₀ s)
    (hL : [.regs, .host, .deck, .boot, .out] ⊆ L) : Within L s₀ (svcWrite b ofs data s).2 := by
  unfold svcWrite
  repeat' first
    | with_reducible assumption
    | ((with_reducible apply Within.lit); all_goals first | exact Or.inl (hL (by decide)) | with_reducible exact Or.inr rfl | with_reducible assumption | with_reducible apply setBank_within)
    | split

theorem execSvcWrite_within {L : List Part} {s₀ : State} (h : SvcHdr) (bank : Fin 2) (ofs : BitVec 26) (data : List (BitVec 8)) (s : State)
    (h₀ : Within L s₀ s)
    (hL : [.regs, .free, .host, .deck, .boot, .out] ⊆ L) : AnswersIn L s₀ (execSvcWrite h bank ofs data s) := by
  unfold execSvcWrite
  with_reducible repeat' first
    | exact Within.refl _
    | assumption
    | exact List.Subset.trans (by decide) hL
    | (intro _; try dsimp only)
    | apply AnswersIn.next
    | apply svcServe_within
    | apply svcWrite_within

theorem trialConfirm_within {L : List Part} {s₀ : State} (s : State) (h₀ : Within L s₀ s)
    (hL : [.regs, .host, .deck, .ledger, .boot, .out] ⊆ L) : Within L s₀ (trialConfirm s) := by
  unfold trialConfirm
  with_reducible repeat' first
    | assumption
    | exact List.Subset.trans (by decide) hL
    | apply Within.ite
    | apply bootRecord_within
    | apply writeRec_within
    | apply raise_within

theorem execTrialConfirm_within {L : List Part} {s₀ : State} (s : State) (h₀ : Within L s₀ s)
    (hL : [.regs, .host, .deck, .ledger, .boot, .out] ⊆ L) : AnswersIn L s₀ (execTrialConfirm s) := by
  unfold execTrialConfirm
  with_reducible repeat' first
    | assumption
    | apply AnswersIn.inFull
    | apply trialConfirm_within

end Sys2Proof.Machine
end

