-- ==== Sys2Proof/Laws/WithinDeck.lean ====
section
/-!
SUPPORT. Which parts each operation can change (Safety.Within): the Calendar, the Capture, the commit block and the Deck.
-/

namespace Sys2Proof.Machine

open Sys2Proof

set_option Elab.async false
set_option linter.all false

set_option maxRecDepth 4000

theorem bellStamp_within {L : List Part} {s₀ : State} (l : Nat) (s : State) (h₀ : Within L s₀ s)
    (hL : [.regs] ⊆ L) : Within L s₀ (bellStamp l s) := by
  unfold bellStamp
  with_reducible repeat' first
    | assumption
    | apply wr_within

theorem bellOwn_within {L : List Part} {s₀ : State} (l : Nat) (s : State) (h₀ : Within L s₀ s)
    (hL : [.cap] ⊆ L) : Within L s₀ (bellOwn l s) := by
  unfold bellOwn
  with_reducible repeat' first
    | assumption
    | apply setCap_within
    | split

theorem lineLow_within {L : List Part} {s₀ : State} (l : Nat) (lowNs : Nat) (s : State) (h₀ : Within L s₀ s)
    (hL : [.cap] ⊆ L) : Within L s₀ (lineLow l lowNs s) := by
  unfold lineLow
  with_reducible repeat' first
    | assumption
    | apply setCap_within

theorem bellFall_within {L : List Part} {s₀ : State} (l : Nat) (lowNs : Nat) (s : State) (h₀ : Within L s₀ s)
    (hL : [.regs, .live, .host, .deck, .cap, .out] ⊆ L) : Within L s₀ (bellFall l lowNs s) := by
  unfold bellFall
  with_reducible repeat' first
    | assumption
    | exact List.Subset.trans (by decide) hL
    | apply Within.ite
    | apply bellStamp_within
    | apply capCount_within
    | apply bellOwn_within
    | apply lineLow_within
    | apply raise_within
    | apply capEvent_within

theorem bellPulseEnd_within {L : List Part} {s₀ : State} (l : Nat) (s : State) (h₀ : Within L s₀ s)
    (hL : [.cap, .out] ⊆ L) : Within L s₀ (bellPulseEnd l s) := by
  unfold bellPulseEnd
  with_reducible repeat' first
    | assumption
    | exact List.Subset.trans (by decide) hL
    | apply Within.ite
    | apply emit_within
    | apply lineLow_within
    | apply setCap_within

theorem bellTest_within {L : List Part} {s₀ : State} (l : Nat) (s : State) (h₀ : Within L s₀ s)
    (hL : [.cap] ⊆ L) : Within L s₀ (bellTest l s) := by
  unfold bellTest
  with_reducible repeat' first
    | assumption
    | apply Within.ite
    | apply setCap_within

theorem bellTestDrive_within {L : List Part} {s₀ : State} (s : State) (h₀ : Within L s₀ s)
    (hL : [.regs, .cap, .out] ⊆ L) : Within L s₀ (bellTestDrive s) := by
  unfold bellTestDrive
  with_reducible repeat' first
    | assumption
    | exact List.Subset.trans (by decide) hL
    | apply bellStamp_within
    | apply emit_within
    | apply setCap_within
    | split

theorem captureSnapshot_within {L : List Part} {s₀ : State} (clr : Bool) (s : State) (h₀ : Within L s₀ s)
    (hL : [.regs, .live, .host, .deck, .out] ⊆ L) : Within L s₀ (captureSnapshot clr s) := by
  unfold captureSnapshot
  with_reducible repeat' first
    | assumption
    | exact List.Subset.trans (by decide) hL
    | apply Within.ite
    | apply snapshot_within
    | apply wr_within
    | apply raise_within

theorem dinEdge_within {L : List Part} {s₀ : State} (i : Nat) (high : Bool) (held : Bool) (s : State) (h₀ : Within L s₀ s)
    (hL : [.cap] ⊆ L) : Within L s₀ (dinEdge i high held s) := by
  unfold dinEdge
  with_reducible repeat' first
    | assumption
    | apply capEvent_within
    | split

theorem dropExport_within {L : List Part} {s₀ : State} (s : State) (h₀ : Within L s₀ s)
    (hL : [.pak] ⊆ L) : Within L s₀ (dropExport s) := by
  unfold dropExport
  with_reducible repeat' first
    | assumption
    | apply dropEngine_within
    | apply setWork_within

theorem execBellLineFall_within {L : List Part} {s₀ : State} (line : Fin 2) (lowNs : Nat) (s : State) (h₀ : Within L s₀ s)
    (hL : [.regs, .live, .host, .deck, .cap, .out] ⊆ L) : AnswersIn L s₀ (execBellLineFall line lowNs s) := by
  unfold execBellLineFall
  with_reducible repeat' first
    | assumption
    | apply AnswersIn.powered
    | apply bellFall_within

theorem execBellPulseEnd_within {L : List Part} {s₀ : State} (line : Fin 2) (s : State) (h₀ : Within L s₀ s)
    (hL : [.cap, .out] ⊆ L) : AnswersIn L s₀ (execBellPulseEnd line s) := by
  unfold execBellPulseEnd
  with_reducible repeat' first
    | assumption
    | apply AnswersIn.powered
    | apply bellPulseEnd_within

theorem execBellTest_within {L : List Part} {s₀ : State} (who : Req) (line : Fin 2) (s : State) (h₀ : Within L s₀ s)
    (hL : [.host, .cap] ⊆ L) : AnswersIn L s₀ (execBellTest who line s) := by
  unfold execBellTest
  with_reducible repeat' first
    | exact Within.refl _
    | assumption
    | exact List.Subset.trans (by decide) hL
    | (intro _; try dsimp only)
    | apply AnswersIn.next
    | apply bellTest_within
    | apply serve_within

theorem execBellTestDrive_within {L : List Part} {s₀ : State} (s : State) (h₀ : Within L s₀ s)
    (hL : [.regs, .cap, .out] ⊆ L) : AnswersIn L s₀ (execBellTestDrive s) := by
  unfold execBellTestDrive
  with_reducible repeat' first
    | assumption
    | apply AnswersIn.powered
    | apply bellTestDrive_within

theorem execCaptureArm_within {L : List Part} {s₀ : State} (who : Req) (arm : Bool) (s : State) (h₀ : Within L s₀ s)
    (hL : [.regs, .host, .cap] ⊆ L) : AnswersIn L s₀ (execCaptureArm who arm s) := by
  unfold execCaptureArm
  with_reducible repeat' first
    | exact Within.refl _
    | assumption
    | exact List.Subset.trans (by decide) hL
    | (intro _; try dsimp only)
    | apply AnswersIn.next
    | apply captureArm_within
    | apply serve_within

theorem execCaptureForce_within {L : List Part} {s₀ : State} (who : Req) (s : State) (h₀ : Within L s₀ s)
    (hL : [.host, .cap] ⊆ L) : AnswersIn L s₀ (execCaptureForce who s) := by
  unfold execCaptureForce
  with_reducible repeat' first
    | exact Within.refl _
    | assumption
    | exact List.Subset.trans (by decide) hL
    | (intro _; try dsimp only)
    | apply AnswersIn.next
    | apply serve_within
    | apply setCap_within

theorem execCaptureReset_within {L : List Part} {s₀ : State} (who : Req) (s : State) (h₀ : Within L s₀ s)
    (hL : [.host, .cap] ⊆ L) : AnswersIn L s₀ (execCaptureReset who s) := by
  unfold execCaptureReset
  with_reducible repeat' first
    | exact Within.refl _
    | assumption
    | exact List.Subset.trans (by decide) hL
    | (intro _; try dsimp only)
    | apply AnswersIn.next
    | apply serve_within
    | apply setCap_within

theorem execCaptureSample_within {L : List Part} {s₀ : State} (drained : Nat) (s : State) (h₀ : Within L s₀ s)
    (hL : [.regs, .live, .host, .deck, .cap, .out] ⊆ L) : AnswersIn L s₀ (execCaptureSample drained s) := by
  unfold execCaptureSample
  with_reducible repeat' first
    | assumption
    | apply AnswersIn.powered
    | apply capSample_within

theorem execCaptureSnapshot_within {L : List Part} {s₀ : State} (who : Req) (clr : Bool) (s : State) (h₀ : Within L s₀ s)
    (hL : [.regs, .live, .host, .deck, .out] ⊆ L) : AnswersIn L s₀ (execCaptureSnapshot who clr s) := by
  unfold execCaptureSnapshot
  with_reducible repeat' first
    | exact Within.refl _
    | assumption
    | exact List.Subset.trans (by decide) hL
    | (intro _; try dsimp only)
    | apply AnswersIn.next
    | apply captureSnapshot_within
    | apply serve_within

theorem execDinEdge_within {L : List Part} {s₀ : State} (din : Fin 16) (high : Bool) (held : Bool) (s : State)
    (h₀ : Within L s₀ s)
    (hL : [.cap] ⊆ L) : AnswersIn L s₀ (execDinEdge din high held s) := by
  unfold execDinEdge
  with_reducible repeat' first
    | assumption
    | apply AnswersIn.powered
    | apply dinEdge_within

theorem recAbort_within {L : List Part} {s₀ : State} (s : State) (h₀ : Within L s₀ s)
    (hL : [.host, .cap, .pak] ⊆ L) : Within L s₀ (recAbort s) := by
  unfold recAbort
  with_reducible repeat' first
    | assumption
    | exact List.Subset.trans (by decide) hL
    | apply Within.ite
    | apply dropExport_within
    | apply endWindow_within
    | apply setCap_within

theorem execRecAbort_within {L : List Part} {s₀ : State} (who : Req) (s : State) (h₀ : Within L s₀ s)
    (hL : [.host, .cap, .pak] ⊆ L) : AnswersIn L s₀ (execRecAbort who s) := by
  unfold execRecAbort
  with_reducible repeat' first
    | exact Within.refl _
    | assumption
    | exact List.Subset.trans (by decide) hL
    | (intro _; try dsimp only)
    | apply AnswersIn.next
    | apply recAbort_within
    | apply serve_within

theorem recStat_within {L : List Part} {s₀ : State} (result : Nat) (s : State) (h₀ : Within L s₀ s)
    (hL : [.regs] ⊆ L) : Within L s₀ (recStat result s) := by
  unfold recStat
  with_reducible repeat' first
    | assumption
    | apply wr_within

theorem onRecord_within {L : List Part} {s₀ : State} (f : CapRec → State → State) (s : State) (hf : ∀ r u, Within L u (f r u))
    (h₀ : Within L s₀ s) (hL : [.regs] ⊆ L) : Within L s₀ (onRecord f s) := by
  unfold onRecord
  repeat' split
  · exact recStat_within _ _ h₀ (List.Subset.trans (by decide) hL)
  · exact recStat_within _ _ h₀ (List.Subset.trans (by decide) hL)
  · exact h₀.trans (hf _ _)

theorem recExport_within {L : List Part} {s₀ : State} (format : Nat) (pack : Bool) (s : State) (h₀ : Within L s₀ s)
    (hL : [.regs, .host, .cap, .pak] ⊆ L) : Within L s₀ (recExport format pack s) := by
  unfold recExport
  with_reducible repeat' first
    | exact Within.refl _
    | assumption
    | exact List.Subset.trans (by decide) hL
    | (intro _; try dsimp only)
    | apply Within.ite
    | apply dropExport_within
    | apply openMore_within
    | apply openWindow_within
    | apply recStat_within
    | apply feedWindow_within
    | apply setWork_within
    | apply onRecord_within
    | apply setCap_within

theorem execRecExport_within {L : List Part} {s₀ : State} (who : Req) (format : BitVec 2) (pack : Bool) (s : State)
    (h₀ : Within L s₀ s)
    (hL : [.regs, .host, .cap, .pak] ⊆ L) : AnswersIn L s₀ (execRecExport who format pack s) := by
  unfold execRecExport
  with_reducible repeat' first
    | exact Within.refl _
    | assumption
    | exact List.Subset.trans (by decide) hL
    | (intro _; try dsimp only)
    | apply AnswersIn.next
    | apply recExport_within
    | apply serve_within

theorem recInfo_within {L : List Part} {s₀ : State} (s : State) (h₀ : Within L s₀ s)
    (hL : [.regs] ⊆ L) : Within L s₀ (recInfo s) := by
  unfold recInfo
  with_reducible repeat' first
    | exact Within.refl _
    | assumption
    | (intro _; try dsimp only)
    | apply wrWords_within
    | apply recStat_within
    | apply onRecord_within

theorem execRecInfo_within {L : List Part} {s₀ : State} (who : Req) (s : State) (h₀ : Within L s₀ s)
    (hL : [.regs, .host] ⊆ L) : AnswersIn L s₀ (execRecInfo who s) := by
  unfold execRecInfo
  with_reducible repeat' first
    | exact Within.refl _
    | assumption
    | exact List.Subset.trans (by decide) hL
    | (intro _; try dsimp only)
    | apply AnswersIn.next
    | apply recInfo_within
    | apply serve_within

theorem recRelease_within {L : List Part} {s₀ : State} (s : State) (h₀ : Within L s₀ s)
    (hL : [.regs, .host, .deck, .cap, .pak, .egr, .out] ⊆ L) : Within L s₀ (recRelease s) := by
  unfold recRelease
  with_reducible repeat' first
    | exact Within.refl _
    | assumption
    | exact List.Subset.trans (by decide) hL
    | (intro _; try dsimp only)
    | apply dropExport_within
    | apply xfEnd_within
    | apply recStat_within
    | apply endWindow_within
    | apply onRecord_within
    | apply setCap_within
    | split

theorem execRecRelease_within {L : List Part} {s₀ : State} (who : Req) (s : State) (h₀ : Within L s₀ s)
    (hL : [.regs, .host, .deck, .cap, .pak, .egr, .out] ⊆ L) : AnswersIn L s₀ (execRecRelease who s) := by
  unfold execRecRelease
  with_reducible repeat' first
    | exact Within.refl _
    | assumption
    | exact List.Subset.trans (by decide) hL
    | (intro _; try dsimp only)
    | apply AnswersIn.next
    | apply recRelease_within
    | apply serve_within

theorem execThLvlWrite_within {L : List Part} {s₀ : State} (who : Req) (th : Fin 32) (v : Word) (s : State) (h₀ : Within L s₀ s)
    (hL : [.regs, .host] ⊆ L) : AnswersIn L s₀ (execThLvlWrite who th v s) := by
  unfold execThLvlWrite
  with_reducible repeat' first
    | exact Within.refl _
    | assumption
    | exact List.Subset.trans (by decide) hL
    | (intro _; try dsimp only)
    | apply AnswersIn.next
    | apply wr_within
    | apply serve_within

theorem exportDone_within {L : List Part} {s₀ : State} (s : State) (h₀ : Within L s₀ s)
    (hL : [.regs, .host, .deck, .cap, .out] ⊆ L) : Within L s₀ (exportDone s) := by
  unfold exportDone
  with_reducible repeat' first
    | assumption
    | exact List.Subset.trans (by decide) hL
    | apply raise_within
    | apply setCap_within
    | split

end Sys2Proof.Machine
end

