-- ==== Sys2Proof/Laws/WithinPorts.lean ====
section
/-!
SUPPORT. Which parts each operation can change (Safety.Within): the ports, the egress, the energy records and the transfers.
-/

namespace Sys2Proof.Machine

open Sys2Proof

set_option Elab.async false
set_option linter.all false

set_option maxRecDepth 4000

theorem xfAbort_within {L : List Part} {s₀ : State} (s : State) (h₀ : Within L s₀ s)
    (hL : [.regs, .host, .deck, .egr, .out] ⊆ L) : Within L s₀ (xfAbort s) := by
  unfold xfAbort
  with_reducible repeat' first
    | assumption
    | apply Within.ite
    | apply xfEnd_within

theorem execXfAbort_within {L : List Part} {s₀ : State} (who : Req) (s : State) (h₀ : Within L s₀ s)
    (hL : [.regs, .host, .deck, .egr, .out] ⊆ L) : AnswersIn L s₀ (execXfAbort who s) := by
  unfold execXfAbort
  with_reducible repeat' first
    | exact Within.refl _
    | assumption
    | exact List.Subset.trans (by decide) hL
    | (intro _; try dsimp only)
    | apply AnswersIn.next
    | apply xfAbort_within
    | apply serve_within

theorem xfDatagram_within {L : List Part} {s₀ : State} (s : State) (h₀ : Within L s₀ s)
    (hL : [.regs, .live, .host, .deck, .ports, .egr, .out] ⊆ L) : Within L s₀ (xfDatagram s) := by
  unfold xfDatagram
  repeat' first
    | exact List.Subset.trans (by decide) hL
    | ((with_reducible apply Within.lit); all_goals first | exact Or.inl (hL (by decide)) | with_reducible exact Or.inr rfl | with_reducible assumption | with_reducible apply Within.ite | with_reducible apply xfEnd_within | with_reducible apply compose_within)
    | split

theorem execXfDatagram_within {L : List Part} {s₀ : State} (s : State) (h₀ : Within L s₀ s)
    (hL : [.regs, .live, .host, .deck, .ports, .egr, .out] ⊆ L) : AnswersIn L s₀ (execXfDatagram s) := by
  unfold execXfDatagram
  with_reducible repeat' first
    | assumption
    | apply AnswersIn.inFull
    | apply xfDatagram_within

theorem xfGo_within {L : List Part} {s₀ : State} (s : State) (h₀ : Within L s₀ s)
    (hL : [.regs, .host, .deck, .egr, .out] ⊆ L) : Within L s₀ (xfGo s) := by
  unfold xfGo
  repeat' first
    | exact List.Subset.trans (by decide) hL
    | ((with_reducible apply Within.lit); all_goals first | exact Or.inl (hL (by decide)) | with_reducible exact Or.inr rfl | with_reducible assumption | with_reducible apply xfEnd_within | with_reducible apply wrF_within | with_reducible apply wr_within)
    | split

theorem execXfGo_within {L : List Part} {s₀ : State} (who : Req) (s : State) (h₀ : Within L s₀ s)
    (hL : [.regs, .host, .deck, .egr, .out] ⊆ L) : AnswersIn L s₀ (execXfGo who s) := by
  unfold execXfGo
  with_reducible repeat' first
    | exact Within.refl _
    | assumption
    | exact List.Subset.trans (by decide) hL
    | (intro _; try dsimp only)
    | apply AnswersIn.next
    | apply xfGo_within
    | apply serve_within

end Sys2Proof.Machine
end

