-- ==== Sys2Proof/Laws/WithinHost.lean ====
section
/-!
SUPPORT. Which parts each operation can change (Safety.Within): the host interface and the ingest.
-/

namespace Sys2Proof.Machine

open Sys2Proof

set_option Elab.async false
set_option linter.all false

set_option maxRecDepth 4000

theorem markDelivered_within {L : List Part} {s₀ : State} (s : State) (h₀ : Within L s₀ s)
    (hL : [.scales] ⊆ L) : Within L s₀ (markDelivered s) := by
  unfold markDelivered
  with_reducible repeat' first
    | assumption
    | apply Within.ite
    | apply setEnergy_within

theorem afterRead_within {L : List Part} {s₀ : State} (w : Win) (busy : Bool) (s : State) (h₀ : Within L s₀ s)
    (hL : [.regs, .host, .deck, .scales, .cap, .ledger, .out] ⊆ L) : Within L s₀ (afterRead w busy s) := by
  unfold afterRead
  with_reducible repeat' first
    | assumption
    | exact List.Subset.trans (by decide) hL
    | apply Within.ite
    | apply setLedger_within
    | apply markDelivered_within
    | apply exportDone_within
    | split

theorem setHost_within {L : List Part} {s₀ : State} (f : HostIf → HostIf) (s : State) (h₀ : Within L s₀ s)
    (hL : [.host] ⊆ L) : Within L s₀ (setHost f s) := by
  unfold setHost
  repeat' ((with_reducible apply Within.lit); all_goals first | exact Or.inl (hL (by decide)) | with_reducible exact Or.inr rfl | with_reducible assumption)

theorem heldDiscard_within {L : List Part} {s₀ : State} (a : Nat) (r : List Instr) (s : State) (h₀ : Within L s₀ s)
    (hL : [.regs, .host, .deck, .ledger, .out] ⊆ L) : Within L s₀ (heldDiscard a r s) := by
  unfold heldDiscard
  with_reducible repeat' first
    | assumption
    | exact List.Subset.trans (by decide) hL
    | apply logEvent_within
    | apply setHost_within
    | apply wr_within
    | apply raise_within

theorem heldDrop_within {L : List Part} {s₀ : State} (s : State) (h₀ : Within L s₀ s)
    (hL : [.regs, .host, .deck, .ledger, .out] ⊆ L) : Within L s₀ (heldDrop s) := by
  unfold heldDrop
  with_reducible repeat' first
    | assumption
    | apply heldDiscard_within
    | split

theorem ledgerAbort_within {L : List Part} {s₀ : State} (s : State) (h₀ : Within L s₀ s)
    (hL : [.regs, .host, .pak, .ledger] ⊆ L) : Within L s₀ (ledgerAbort s) := by
  unfold ledgerAbort
  with_reducible repeat' first
    | assumption
    | exact List.Subset.trans (by decide) hL
    | apply Within.ite
    | apply endWindow_within
    | apply dropEngine_within
    | apply setLedger_within
    | apply wr_within
    | apply setWork_within

theorem winAbort_within {L : List Part} {s₀ : State} (w : Win) (s : State) (h₀ : Within L s₀ s)
    (hL : [.regs, .host, .cap, .pak, .ledger] ⊆ L) : Within L s₀ (winAbort w s) := by
  unfold winAbort
  with_reducible repeat' first
    | assumption
    | exact List.Subset.trans (by decide) hL
    | apply recAbort_within
    | apply endWindow_within
    | apply ledgerAbort_within
    | split

theorem winReset_within {L : List Part} {s₀ : State} (w : Win) (s : State) (h₀ : Within L s₀ s)
    (hL : [.regs, .host, .cap, .pak, .ledger] ⊆ L) : Within L s₀ (winReset w s) := by
  unfold winReset
  with_reducible repeat' first
    | assumption
    | exact List.Subset.trans (by decide) hL
    | apply Within.ite
    | apply setWindow_within
    | apply winAbort_within

theorem hostReset_within {L : List Part} {s₀ : State} (s : State) (h₀ : Within L s₀ s)
    (hL : [.regs, .host, .cap, .pak, .ledger] ⊆ L) : Within L s₀ (hostReset s) := by
  unfold hostReset
  with_reducible repeat' first
    | exact Within.refl _
    | assumption
    | exact List.Subset.trans (by decide) hL
    | (intro _; try dsimp only)
    | apply setHost_within
    | apply wr_within
    | apply winReset_within
    | apply Within.foldl
    | apply Within.forUpTo

theorem linkBack_within {L : List Part} {s₀ : State} (kind : LinkReset) (s : State) (h₀ : Within L s₀ s)
    (hL : [.regs, .host, .deck, .ledger, .out] ⊆ L) : Within L s₀ (linkBack kind s) := by
  unfold linkBack
  with_reducible repeat' first
    | assumption
    | exact List.Subset.trans (by decide) hL
    | apply logEvent_within
    | apply raise_within

theorem sendPending_within {L : List Part} {s₀ : State} (s : State) (h₀ : Within L s₀ s)
    (hL : [.host, .out] ⊆ L) : Within L s₀ (sendPending s) := by
  unfold sendPending
  with_reducible repeat' first
    | exact Within.refl _
    | assumption
    | exact List.Subset.trans (by decide) hL
    | (intro _; try dsimp only)
    | apply Within.ite
    | apply sendVector_within
    | apply setHost_within
    | apply Within.forUpTo

theorem hostLinkReset_within {L : List Part} {s₀ : State} (kind : LinkReset) (s : State) (h₀ : Within L s₀ s)
    (hL : [.regs, .host, .deck, .cap, .pak, .ledger, .out] ⊆ L) : Within L s₀ (hostLinkReset kind s) := by
  unfold hostLinkReset
  with_reducible repeat' first
    | assumption
    | exact List.Subset.trans (by decide) hL
    | apply Within.ite
    | apply hostReset_within
    | apply linkBack_within
    | apply sendPending_within

theorem hostRetry_within {L : List Part} {s₀ : State} (run : Instr → State → State) (s : State) (h_run : ∀ (x0 : Instr) (u : State), Within L u (run x0 u))
    (h₀ : Within L s₀ s)
    (hL : [.host] ⊆ L) : Within L s₀ (hostRetry run s) := by
  unfold hostRetry
  with_reducible repeat' first
    | assumption
    | (intro _; try dsimp only)
    | apply Within.ite
    | apply h_run
    | apply setHost_within
    | apply Within.foldl

theorem mirrorOpen_within {L : List Part} {s₀ : State} (s : State) (h₀ : Within L s₀ s)
    (hL : [.host] ⊆ L) : Within L s₀ (mirrorOpen s) := by
  unfold mirrorOpen
  with_reducible repeat' first
    | assumption
    | apply Within.ite
    | apply openWindow_within
    | apply openEmpty_within

theorem winUnder_within {L : List Part} {s₀ : State} (x : Window) (s : State) (h₀ : Within L s₀ s)
    (hL : [.regs, .host, .deck, .out] ⊆ L) : Within L s₀ (winUnder x s) := by
  unfold winUnder
  with_reducible repeat' first
    | assumption
    | exact List.Subset.trans (by decide) hL
    | apply Within.ite
    | apply bumpSat_within
    | apply raise_within

theorem winPop_within {L : List Part} {s₀ : State} (w : Win) (poison : Bool) (s : State) (h₀ : Within L s₀ s)
    (hL : [.regs, .host, .deck, .out] ⊆ L) : Within L s₀ (winPop w poison s).2 := by
  unfold winPop
  try dsimp only
  with_reducible repeat' first
    | assumption
    | exact List.Subset.trans (by decide) hL
    | apply bumpSat_within
    | apply winUnder_within
    | apply raise_within
    | apply setWindow_within
    | split

theorem readWords_within {L : List Part} {s₀ : State} (w : Win) (n : Nat) (l : List Bool) (s : State) (h₀ : Within L s₀ s)
    (hL : [.regs, .host, .deck, .out] ⊆ L) : Within L s₀ (readWords w n l s) := by
  induction n generalizing l s with
  | zero => exact h₀
  | succ n ih => exact ih _ _ (answer_within _ _ _ (winPop_within _ _ _ h₀ (List.Subset.trans (by decide) hL)) (List.Subset.trans (by decide) hL))

theorem windowRead_within {L : List Part} {s₀ : State} (w : Win) (r : WinRead) (poison : List Bool) (s : State)
    (h₀ : Within L s₀ s)
    (hL : [.regs, .host, .deck, .scales, .cap, .ledger, .out] ⊆ L) : Within L s₀ (windowRead w r poison s) := by
  unfold windowRead
  with_reducible repeat' first
    | assumption
    | exact List.Subset.trans (by decide) hL
    | apply answer_within
    | apply readWords_within
    | apply afterRead_within
    | apply winUnder_within
    | apply winPop_within
    | split

theorem writeBits_within {L : List Part} {s₀ : State} (a : Nat) (rw : Word) (clr : Word) (v : Word) (s : State)
    (h₀ : Within L s₀ s)
    (hL : [.regs, .host, .out] ⊆ L) : Within L s₀ (writeBits a rw clr v s) := by
  unfold writeBits
  with_reducible repeat' first
    | assumption
    | exact List.Subset.trans (by decide) hL
    | apply vectorEdge_within
    | apply wr_within

theorem writeEffect_within {L : List Part} {s₀ : State} (a : Nat) (s : State) (h₀ : Within L s₀ s)
    (hL : [.regs, .mast, .host, .deck, .out] ⊆ L) : Within L s₀ (writeEffect a s) := by
  unfold writeEffect
  with_reducible repeat' first
    | assumption
    | exact List.Subset.trans (by decide) hL
    | apply setStat_within
    | apply wrF_within
    | apply updateHoldExc_within
    | apply ribReport_within
    | apply wr_within
    | split

theorem writeWord_within {L : List Part} {s₀ : State} (who : Req) (a : Nat) (m : Word) (v : Word) (s : State) (h₀ : Within L s₀ s)
    (hL : [.regs, .mast, .host, .deck, .sentry, .out] ⊆ L) : Within L s₀ (writeWord who a m v s) := by
  unfold writeWord
  repeat' first
    | exact List.Subset.trans (by decide) hL
    | ((with_reducible apply Within.lit); all_goals first | exact Or.inl (hL (by decide)) | with_reducible exact Or.inr rfl | with_reducible assumption | with_reducible apply writeBits_within | with_reducible apply writeEffect_within)
    | split

theorem writeBytes_within {L : List Part} {s₀ : State} (c : Instr) (who : Req) (a : Nat) (be : Nat) (v : BitVec 64) (s : State)
    (h₀ : Within L s₀ s)
    (hL : [.regs, .mast, .host, .deck, .sentry, .out] ⊆ L) : Within L s₀ (writeBytes c who a be v s) := by
  unfold writeBytes
  with_reducible repeat' first
    | assumption
    | exact List.Subset.trans (by decide) hL
    | apply Within.ite
    | apply writeWord_within
    | apply holdWrite_within

theorem setSentry_within {L : List Part} {s₀ : State} (f : Sentry → Sentry) (s : State) (h₀ : Within L s₀ s)
    (hL : [.sentry] ⊆ L) : Within L s₀ (setSentry f s) := by
  unfold setSentry
  repeat' ((with_reducible apply Within.lit); all_goals first | exact Or.inl (hL (by decide)) | with_reducible exact Or.inr rfl | with_reducible assumption)

theorem calCommit_within {L : List Part} {s₀ : State} (who : Req) (s : State) (h₀ : Within L s₀ s)
    (hL : [.host, .sentry] ⊆ L) : Within L s₀ (calCommit who s) := by
  unfold calCommit
  with_reducible repeat' first
    | assumption
    | exact List.Subset.trans (by decide) hL
    | apply Within.ite
    | apply setSentry_within
    | apply holdWrite_within

theorem calFreezeTimeout_within {L : List Part} {s₀ : State} (r : Nat) (s : State) (h₀ : Within L s₀ s)
    (hL : [.sentry] ⊆ L) : Within L s₀ (calFreezeTimeout r s) := by
  unfold calFreezeTimeout
  with_reducible repeat' first
    | assumption
    | apply Within.ite
    | apply setSentry_within

theorem calReadFreeze_within {L : List Part} {s₀ : State} (who : Req) (k : Nat) (s : State) (h₀ : Within L s₀ s)
    (hL : [.sentry, .out] ⊆ L) : Within L s₀ (calReadFreeze who k s) := by
  unfold calReadFreeze
  with_reducible repeat' first
    | assumption
    | exact List.Subset.trans (by decide) hL
    | apply setSentry_within
    | apply answer_within

theorem calReadRelease_within {L : List Part} {s₀ : State} (who : Req) (s : State) (h₀ : Within L s₀ s)
    (hL : [.sentry, .out] ⊆ L) : Within L s₀ (calReadRelease who s) := by
  unfold calReadRelease
  with_reducible repeat' first
    | assumption
    | exact List.Subset.trans (by decide) hL
    | apply setSentry_within
    | apply answer_within

theorem commitTake_within {L : List Part} {s₀ : State} (s : State) (h₀ : Within L s₀ s)
    (hL : [.regs, .host, .deck, .sentry, .out] ⊆ L) : Within L s₀ (commitTake s) := by
  unfold commitTake
  with_reducible repeat' first
    | assumption
    | exact List.Subset.trans (by decide) hL
    | apply setSentry_within
    | apply raise_within

theorem refTake_within {L : List Part} {s₀ : State} (s : State) (h₀ : Within L s₀ s)
    (hL : [.regs, .host, .deck, .sentry, .out] ⊆ L) : Within L s₀ (refTake s) := by
  unfold refTake
  with_reducible repeat' first
    | assumption
    | exact List.Subset.trans (by decide) hL
    | apply Within.ite
    | apply setSentry_within
    | apply wr64_within
    | apply wr_within
    | apply raise_within

theorem sentryPosts_within {L : List Part} {s₀ : State} (s : State) (h₀ : Within L s₀ s)
    (hL : [.regs, .host, .sentry, .out] ⊆ L) : Within L s₀ (sentryPosts s) := by
  unfold sentryPosts
  with_reducible repeat' first
    | exact Within.refl _
    | assumption
    | exact List.Subset.trans (by decide) hL
    | (intro _; try dsimp only)
    | apply Within.ite
    | apply setSentry_within
    | apply writeBits_within
    | apply Within.foldl

theorem secondNext_within {L : List Part} {s₀ : State} (s : State) (h₀ : Within L s₀ s)
    (hL : [.regs, .host, .deck, .sentry, .out] ⊆ L) : Within L s₀ (secondNext s) := by
  unfold secondNext
  with_reducible repeat' first
    | assumption
    | exact List.Subset.trans (by decide) hL
    | apply Within.ite
    | apply setSentry_within
    | apply raise_within

theorem sentryTick_within {L : List Part} {s₀ : State} (s : State) (h₀ : Within L s₀ s)
    (hL : [.regs, .host, .deck, .sentry, .out] ⊆ L) : Within L s₀ (sentryTick s) := by
  unfold sentryTick
  with_reducible repeat' first
    | assumption
    | exact List.Subset.trans (by decide) hL
    | apply Within.ite
    | apply setSentry_within
    | apply commitTake_within
    | apply refTake_within
    | apply sentryPosts_within
    | apply secondNext_within

theorem calSecond_within {L : List Part} {s₀ : State} (s : State) (h₀ : Within L s₀ s)
    (hL : [.regs, .host, .deck, .sentry, .out] ⊆ L) : Within L s₀ (calSecond s) := by
  unfold calSecond
  with_reducible repeat' first
    | assumption
    | exact List.Subset.trans (by decide) hL
    | apply Within.ite
    | apply setSentry_within
    | apply sentryTick_within

theorem execCalCommit_within {L : List Part} {s₀ : State} (who : Req) (s : State) (h₀ : Within L s₀ s)
    (hL : [.host, .sentry] ⊆ L) : AnswersIn L s₀ (execCalCommit who s) := by
  unfold execCalCommit
  with_reducible repeat' first
    | exact Within.refl _
    | assumption
    | exact List.Subset.trans (by decide) hL
    | (intro _; try dsimp only)
    | apply AnswersIn.next
    | apply calCommit_within
    | apply serve_within

theorem execCalFreezeTimeout_within {L : List Part} {s₀ : State} (who : Req) (s : State) (h₀ : Within L s₀ s)
    (hL : [.sentry] ⊆ L) : AnswersIn L s₀ (execCalFreezeTimeout who s) := by
  unfold execCalFreezeTimeout
  with_reducible repeat' first
    | assumption
    | apply AnswersIn.next
    | apply calFreezeTimeout_within

theorem execCalReadFreeze_within {L : List Part} {s₀ : State} (who : Req) (k : Fin 3) (s : State) (h₀ : Within L s₀ s)
    (hL : [.host, .sentry, .out] ⊆ L) : AnswersIn L s₀ (execCalReadFreeze who k s) := by
  unfold execCalReadFreeze
  with_reducible repeat' first
    | exact Within.refl _
    | assumption
    | exact List.Subset.trans (by decide) hL
    | (intro _; try dsimp only)
    | apply AnswersIn.next
    | apply calReadFreeze_within
    | apply serve_within

theorem execCalReadRelease_within {L : List Part} {s₀ : State} (who : Req) (s : State) (h₀ : Within L s₀ s)
    (hL : [.host, .sentry, .out] ⊆ L) : AnswersIn L s₀ (execCalReadRelease who s) := by
  unfold execCalReadRelease
  with_reducible repeat' first
    | exact Within.refl _
    | assumption
    | exact List.Subset.trans (by decide) hL
    | (intro _; try dsimp only)
    | apply AnswersIn.next
    | apply calReadRelease_within
    | apply serve_within

theorem execCalSecond_within {L : List Part} {s₀ : State} (s : State) (h₀ : Within L s₀ s)
    (hL : [.regs, .host, .deck, .sentry, .out] ⊆ L) : AnswersIn L s₀ (execCalSecond s) := by
  unfold execCalSecond
  with_reducible repeat' first
    | assumption
    | apply AnswersIn.next
    | apply calSecond_within

theorem execRefLatch_within {L : List Part} {s₀ : State} (who : Req) (s : State) (h₀ : Within L s₀ s)
    (hL : [.host, .sentry] ⊆ L) : AnswersIn L s₀ (execRefLatch who s) := by
  unfold execRefLatch
  with_reducible repeat' first
    | exact Within.refl _
    | assumption
    | exact List.Subset.trans (by decide) hL
    | (intro _; try dsimp only)
    | apply AnswersIn.next
    | apply setSentry_within
    | apply serve_within

theorem sentryLoss_within {L : List Part} {s₀ : State} (s : State) (h₀ : Within L s₀ s)
    (hL : [.regs, .till, .sentry] ⊆ L) : Within L s₀ (sentryLoss s) := by
  unfold sentryLoss
  repeat' first
    | exact List.Subset.trans (by decide) hL
    | (intro _; try dsimp only)
    | ((with_reducible apply Within.lit); all_goals first | exact Or.inl (hL (by decide)) | with_reducible exact Or.inr rfl | with_reducible exact Within.refl _ | with_reducible assumption | with_reducible apply Within.ite | with_reducible apply wr_within | with_reducible apply Within.foldl)

theorem execSentryLoss_within {L : List Part} {s₀ : State} (s : State) (h₀ : Within L s₀ s)
    (hL : [.regs, .till, .sentry] ⊆ L) : AnswersIn L s₀ (execSentryLoss s) := by
  unfold execSentryLoss
  with_reducible repeat' first
    | assumption
    | apply AnswersIn.next
    | apply sentryLoss_within

theorem vbatSwitch_within {L : List Part} {s₀ : State} (s : State) (h₀ : Within L s₀ s)
    (hL : [.regs, .host, .deck, .sentry, .out] ⊆ L) : Within L s₀ (vbatSwitch s) := by
  unfold vbatSwitch
  with_reducible repeat' first
    | assumption
    | exact List.Subset.trans (by decide) hL
    | apply Within.ite
    | apply setStat_within
    | apply setSentry_within
    | apply bumpSat_within
    | apply wr64_within
    | apply raise_within

theorem execVbatSwitch_within {L : List Part} {s₀ : State} (s : State) (h₀ : Within L s₀ s)
    (hL : [.regs, .host, .deck, .sentry, .out] ⊆ L) : AnswersIn L s₀ (execVbatSwitch s) := by
  unfold execVbatSwitch
  with_reducible repeat' first
    | assumption
    | apply AnswersIn.next
    | apply vbatSwitch_within

theorem skipOne_within {L : List Part} {s₀ : State} (s : State) (h₀ : Within L s₀ s)
    (hL : [.regs, .live, .free, .mast, .host, .deck, .ports, .ing, .mkt, .scales, .cap, .nest, .egr, .out] ⊆ L) :
    Within L s₀ (skipOne s) := by
  unfold skipOne
  with_reducible repeat' first
    | assumption
    | exact List.Subset.trans (by decide) hL
    | apply Within.ite
    | apply openTab_within
    | apply schOccur_within
    | split

theorem fireSkipped_within {L : List Part} {s₀ : State} (s : State) (h₀ : Within L s₀ s)
    (hL : [.regs, .live, .free, .mast, .host, .deck, .ports, .ing, .mkt, .scales, .cap, .nest, .egr, .out] ⊆ L) :
    Within L s₀ (fireSkipped s) := by
  unfold fireSkipped
  with_reducible repeat' first
    | exact Within.refl _
    | assumption
    | (intro _; try dsimp only)
    | apply skipOne_within
    | apply Within.forUpTo

theorem applyCommit_within {L : List Part} {s₀ : State} (new : Nat) (s : State) (h₀ : Within L s₀ s)
    (hL : [.regs, .live, .tai, .free, .mast, .host, .deck, .ports, .ing, .mkt, .scales, .cap, .nest, .egr, .out] ⊆ L) :
    Within L s₀ (applyCommit new s) := by
  unfold applyCommit
  repeat' first
    | exact List.Subset.trans (by decide) hL
    | with_reducible apply Within.ite
    | with_reducible apply fireSkipped_within
    | with_reducible apply raise_within
    | with_reducible apply mastTo_within
    | ((with_reducible apply Within.lit); all_goals first | exact Or.inl (hL (by decide)) | with_reducible exact Or.inr rfl | with_reducible assumption | with_reducible apply setStat_within | with_reducible apply capStep_within | with_reducible apply scalesStep_within)

theorem refuseCommit_within {L : List Part} {s₀ : State} (s : State) (h₀ : Within L s₀ s)
    (hL : [.regs, .live, .mast, .host, .deck, .ports, .egr, .ledger, .out] ⊆ L) : Within L s₀ (refuseCommit s) := by
  unfold refuseCommit
  with_reducible repeat' first
    | assumption
    | exact List.Subset.trans (by decide) hL
    | apply Within.ite
    | apply logEvent_within
    | apply raise_within
    | apply mastTo_within

theorem commit_within {L : List Part} {s₀ : State} (new : Nat) (s : State) (h₀ : Within L s₀ s)
    (hL : [.regs, .live, .tai, .free, .mast, .host, .deck, .ports, .ing, .mkt, .scales, .cap, .nest, .egr, .ledger, .out] ⊆ L) :
    Within L s₀ (commit new s) := by
  unfold commit
  with_reducible repeat' first
    | assumption
    | exact List.Subset.trans (by decide) hL
    | apply Within.ite
    | apply refuseCommit_within
    | apply applyCommit_within

theorem execCommitSet_within {L : List Part} {s₀ : State} (who : Req) (s : State) (h₀ : Within L s₀ s)
    (hL : [.regs, .live, .tai, .free, .mast, .host, .deck, .ports, .ing, .mkt, .scales, .cap, .nest, .egr, .ledger, .out] ⊆ L) :
    AnswersIn L s₀ (execCommitSet who s) := by
  unfold execCommitSet
  with_reducible repeat' first
    | exact Within.refl _
    | assumption
    | exact List.Subset.trans (by decide) hL
    | (intro _; try dsimp only)
    | apply AnswersIn.next
    | apply commit_within
    | apply serve_within

theorem execCommitStep_within {L : List Part} {s₀ : State} (who : Req) (backward : Bool) (s : State) (h₀ : Within L s₀ s)
    (hL : [.regs, .live, .tai, .free, .mast, .host, .deck, .ports, .ing, .mkt, .scales, .cap, .nest, .egr, .ledger, .out] ⊆ L) :
    AnswersIn L s₀ (execCommitStep who backward s) := by
  unfold execCommitStep
  with_reducible repeat' first
    | exact Within.refl _
    | assumption
    | exact List.Subset.trans (by decide) hL
    | (intro _; try dsimp only)
    | apply AnswersIn.next
    | apply commit_within
    | apply serve_within

theorem cancelThread_within {L : List Part} {s₀ : State} (t : Nat) (s : State) (h₀ : Within L s₀ s)
    (hL : [.live, .deck] ⊆ L) : Within L s₀ (cancelThread t s) := by
  unfold cancelThread
  repeat' first
    | exact List.Subset.trans (by decide) hL
    | ((with_reducible apply Within.lit); all_goals first | exact Or.inl (hL (by decide)) | with_reducible exact Or.inr rfl | with_reducible assumption | with_reducible apply Within.ite | with_reducible apply setThread_within | with_reducible apply count_within)

theorem deckFail_within {L : List Part} {s₀ : State} (s : State) (h₀ : Within L s₀ s)
    (hL : [.regs, .live, .host, .deck, .ports, .egr, .ledger, .boot, .nodeOk, .out] ⊆ L) : Within L s₀ (deckFail s) := by
  unfold deckFail
  repeat' first
    | exact List.Subset.trans (by decide) hL
    | ((with_reducible apply Within.lit); all_goals first | exact Or.inl (hL (by decide)) | with_reducible exact Or.inr rfl | with_reducible assumption | with_reducible apply logEvent_within | with_reducible apply setInt_within | with_reducible apply deckReset_within | with_reducible apply updateNodeOk_within)

theorem execDeckFailed_within {L : List Part} {s₀ : State} (s : State) (h₀ : Within L s₀ s)
    (hL : [.regs, .live, .free, .mast, .host, .deck, .ports, .ing, .mkt, .scales, .cap, .nest, .egr, .pair, .ledger, .sentry, .boot, .nodeOk, .out] ⊆ L) :
    AnswersIn L s₀ (execDeckFailed s) := by
  unfold execDeckFailed
  with_reducible repeat' first
    | assumption
    | exact List.Subset.trans (by decide) hL
    | apply Within.ite
    | apply AnswersIn.inFull
    | apply deckFail_within
    | apply bootDeckFailed_within

theorem hostPostWrite_within {L : List Part} {s₀ : State} (c : Instr) (t : Nat) (f : State → State) (s : State) (h_f : ∀ (u : State), Within L u (f u))
    (h₀ : Within L s₀ s)
    (hL : [.host, .deck] ⊆ L) : Within L s₀ (hostPostWrite c t f s) := by
  unfold hostPostWrite
  repeat' first
    | exact List.Subset.trans (by decide) hL
    | ((with_reducible apply Within.lit); all_goals first | exact Or.inl (hL (by decide)) | with_reducible exact Or.inr rfl | with_reducible assumption | with_reducible apply Within.ite | with_reducible apply Within.app h_f | with_reducible apply holdWrite_within)

theorem hostCancel_within {L : List Part} {s₀ : State} (t : Nat) (withPost : Bool) (s : State) (h₀ : Within L s₀ s)
    (hL : [.live, .deck] ⊆ L) : Within L s₀ (hostCancel t withPost s) := by
  unfold hostCancel
  repeat' first
    | exact List.Subset.trans (by decide) hL
    | ((with_reducible apply Within.lit); all_goals first | exact Or.inl (hL (by decide)) | with_reducible exact Or.inr rfl | with_reducible assumption | with_reducible apply Within.ite | with_reducible apply cancelThread_within | with_reducible apply count_within)

theorem execHostCancel_within {L : List Part} {s₀ : State} (t : Fin 256) (withPost : Bool) (s : State) (h₀ : Within L s₀ s)
    (hL : [.live, .host, .deck] ⊆ L) : AnswersIn L s₀ (execHostCancel t withPost s) := by
  unfold execHostCancel
  with_reducible repeat' first
    | exact Within.refl _
    | assumption
    | exact List.Subset.trans (by decide) hL
    | (intro _; try dsimp only)
    | apply AnswersIn.next
    | apply hostServe_within
    | apply hostPostWrite_within
    | apply hostCancel_within

theorem execHostPost_within {L : List Part} {s₀ : State} (t : Fin 256) (s : State) (h₀ : Within L s₀ s)
    (hL : [.regs, .host, .deck, .out] ⊆ L) : AnswersIn L s₀ (execHostPost t s) := by
  unfold execHostPost
  with_reducible repeat' first
    | exact Within.refl _
    | assumption
    | exact List.Subset.trans (by decide) hL
    | (intro _; try dsimp only)
    | apply AnswersIn.next
    | apply hostServe_within
    | apply offerPost_within
    | apply hostPostWrite_within

theorem execHostRestart_within {L : List Part} {s₀ : State} (who : Req) (key : BitVec 16) (s : State) (h₀ : Within L s₀ s)
    (hL : [.regs, .live, .mast, .host, .deck, .ports, .egr, .ledger, .out] ⊆ L) : AnswersIn L s₀ (execHostRestart who key s) := by
  unfold execHostRestart
  with_reducible repeat' first
    | exact Within.refl _
    | assumption
    | exact List.Subset.trans (by decide) hL
    | (intro _; try dsimp only)
    | apply Within.ite
    | apply AnswersIn.next
    | apply deckRestart_within
    | apply serve_within

theorem threadFault_within {L : List Part} {s₀ : State} (c : Nat) (s : State) (h₀ : Within L s₀ s)
    (hL : [.regs, .live, .host, .deck, .ledger, .out] ⊆ L) : Within L s₀ (threadFault c s) := by
  unfold threadFault
  with_reducible repeat' first
    | assumption
    | exact List.Subset.trans (by decide) hL
    | apply Within.ite
    | apply logEvent_within
    | apply setInt_within
    | apply setRunning_within
    | apply setThread_within
    | apply makeReady_within
    | apply dispatch_within
    | split

theorem machineCheck_within {L : List Part} {s₀ : State} (core : Nat) (customer : Bool) (s : State) (h₀ : Within L s₀ s)
    (hL : [.regs, .live, .mast, .host, .deck, .ports, .egr, .ledger, .out] ⊆ L) : Within L s₀ (machineCheck core customer s) := by
  unfold machineCheck
  with_reducible repeat' first
    | assumption
    | exact List.Subset.trans (by decide) hL
    | apply Within.ite
    | apply deckRestart_within
    | apply setInt_within
    | apply threadFault_within

theorem execMachineCheck_within {L : List Part} {s₀ : State} (core : Fin 4) (customer : Bool) (s : State) (h₀ : Within L s₀ s)
    (hL : [.regs, .live, .mast, .host, .deck, .ports, .egr, .ledger, .out] ⊆ L) :
    AnswersIn L s₀ (execMachineCheck core customer s) := by
  unfold execMachineCheck
  with_reducible repeat' first
    | assumption
    | apply AnswersIn.inFull
    | apply machineCheck_within

theorem execPcClear_within {L : List Part} {s₀ : State} (who : Req) (set : PcSet) (s : State) (h₀ : Within L s₀ s)
    (hL : [.regs, .host] ⊆ L) : AnswersIn L s₀ (execPcClear who set s) := by
  unfold execPcClear
  with_reducible repeat' first
    | exact Within.refl _
    | assumption
    | exact List.Subset.trans (by decide) hL
    | (intro _; try dsimp only)
    | apply AnswersIn.next
    | apply serve_within
    | apply pcZero_within
    | apply Within.foldl

theorem execPcEn_within {L : List Part} {s₀ : State} (who : Req) (set : PcSet) (on : Bool) (s : State) (h₀ : Within L s₀ s)
    (hL : [.regs, .host] ⊆ L) : AnswersIn L s₀ (execPcEn who set on s) := by
  unfold execPcEn
  with_reducible repeat' first
    | exact Within.refl _
    | assumption
    | exact List.Subset.trans (by decide) hL
    | (intro _; try dsimp only)
    | apply AnswersIn.next
    | apply setStat_within
    | apply serve_within

theorem execPcFreeze_within {L : List Part} {s₀ : State} (who : Req) (set : PcSet) (on : Bool) (s : State) (h₀ : Within L s₀ s)
    (hL : [.regs, .host] ⊆ L) : AnswersIn L s₀ (execPcFreeze who set on s) := by
  unfold execPcFreeze
  with_reducible repeat' first
    | exact Within.refl _
    | assumption
    | exact List.Subset.trans (by decide) hL
    | (intro _; try dsimp only)
    | apply AnswersIn.next
    | apply setStat_within
    | apply serve_within

theorem execPcOvf_within {L : List Part} {s₀ : State} (c : PcCounter) (s : State) (h₀ : Within L s₀ s)
    (hL : [.regs, .host, .out] ⊆ L) : AnswersIn L s₀ (execPcOvf c s) := by
  unfold execPcOvf
  with_reducible repeat' first
    | assumption
    | exact List.Subset.trans (by decide) hL
    | apply Within.ite
    | apply AnswersIn.inFull
    | apply pcSetFlag_within
    | apply wr64_within

theorem execPcSelWrite_within {L : List Part} {s₀ : State} (who : Req) (sel : PcSel) (v : Word) (s : State) (h₀ : Within L s₀ s)
    (hL : [.regs, .host] ⊆ L) : AnswersIn L s₀ (execPcSelWrite who sel v s) := by
  unfold execPcSelWrite
  with_reducible repeat' first
    | exact Within.refl _
    | assumption
    | exact List.Subset.trans (by decide) hL
    | (intro _; try dsimp only)
    | apply AnswersIn.next
    | apply wr_within
    | apply serve_within
    | split

theorem pcSmode_within {L : List Part} {s₀ : State} (c : Nat) (mode : Nat) (s : State) (h₀ : Within L s₀ s)
    (hL : [.regs, .host, .deck] ⊆ L) : Within L s₀ (pcSmode c mode s) := by
  unfold pcSmode
  repeat' first
    | exact List.Subset.trans (by decide) hL
    | ((with_reducible apply Within.lit); all_goals first | exact Or.inl (hL (by decide)) | with_reducible exact Or.inr rfl | with_reducible assumption | with_reducible apply Within.ite | with_reducible apply setStat_within | with_reducible apply wrF_within | with_reducible apply setWindow_within)

theorem execPcSmode_within {L : List Part} {s₀ : State} (who : Req) (c : Fin 4) (mode : BitVec 2) (s : State) (h₀ : Within L s₀ s)
    (hL : [.regs, .host, .deck] ⊆ L) : AnswersIn L s₀ (execPcSmode who c mode s) := by
  unfold execPcSmode
  with_reducible repeat' first
    | exact Within.refl _
    | assumption
    | exact List.Subset.trans (by decide) hL
    | (intro _; try dsimp only)
    | apply AnswersIn.next
    | apply pcSmode_within
    | apply serve_within

theorem postApply_within {L : List Part} {s₀ : State} (s : State) (h₀ : Within L s₀ s)
    (hL : [.live, .mast, .deck] ⊆ L) : Within L s₀ (postApply s) := by
  unfold postApply
  repeat' first
    | exact List.Subset.trans (by decide) hL
    | ((with_reducible apply Within.lit); all_goals first | exact Or.inl (hL (by decide)) | with_reducible exact Or.inr rfl | with_reducible assumption | with_reducible apply retryHeld_within | with_reducible apply applyPost_within | with_reducible apply drainTrig_within | with_reducible apply count_within | with_reducible apply dispatch_within)
    | split

theorem execPostApply_within {L : List Part} {s₀ : State} (s : State) (h₀ : Within L s₀ s)
    (hL : [.live, .mast, .deck] ⊆ L) : AnswersIn L s₀ (execPostApply s) := by
  unfold execPostApply
  with_reducible repeat' first
    | assumption
    | apply AnswersIn.inFull
    | apply postApply_within

theorem postInstruction_within {L : List Part} {s₀ : State} (c : Nat) (target : Nat) (s : State) (h₀ : Within L s₀ s)
    (hL : [.regs, .host, .deck, .out] ⊆ L) : Within L s₀ (postInstruction c target s) := by
  unfold postInstruction
  with_reducible repeat' first
    | assumption
    | apply offerPost_within
    | split

theorem execPostInstruction_within {L : List Part} {s₀ : State} (core : Fin 4) (target : Fin 256) (s : State) (h₀ : Within L s₀ s)
    (hL : [.regs, .host, .deck, .out] ⊆ L) : AnswersIn L s₀ (execPostInstruction core target s) := by
  unfold execPostInstruction
  with_reducible repeat' first
    | assumption
    | apply AnswersIn.inFull
    | apply postInstruction_within

theorem preciseSample_within {L : List Part} {s₀ : State} (c : Nat) (addr : BitVec 48) (latency : Nat) (s : State)
    (h₀ : Within L s₀ s)
    (hL : [.regs, .host, .out] ⊆ L) : Within L s₀ (preciseSample c addr latency s) := by
  unfold preciseSample
  with_reducible repeat' first
    | assumption
    | apply pushSample_within

theorem execPreciseSample_within {L : List Part} {s₀ : State} (c : Fin 4) (addr : BitVec 48) (latency : BitVec 16) (s : State)
    (h₀ : Within L s₀ s)
    (hL : [.regs, .host, .out] ⊆ L) : AnswersIn L s₀ (execPreciseSample c addr latency s) := by
  unfold execPreciseSample
  with_reducible repeat' first
    | assumption
    | apply Within.ite
    | apply AnswersIn.inFull
    | apply preciseSample_within

theorem execDeckRestartDone_within {L : List Part} {s₀ : State} (verified : Bool) (version : Word) (s : State) (h₀ : Within L s₀ s)
    (hL : [.regs, .live, .host, .deck, .ports, .egr, .pair, .till, .ledger, .boot, .nodeOk, .cfg, .out] ⊆ L) :
    AnswersIn L s₀ (execDeckRestartDone verified version s) := by
  unfold execDeckRestartDone
  with_reducible repeat' first
    | assumption
    | exact List.Subset.trans (by decide) hL
    | apply Within.ite
    | apply AnswersIn.inFull
    | apply deckRun_within
    | apply bootDeckRun_within
    | apply bootLoadCode_within

theorem execSchedSnapshot_within {L : List Part} {s₀ : State} (who : Req) (clr : Bool) (s : State) (h₀ : Within L s₀ s)
    (hL : [.regs, .live, .host, .out] ⊆ L) : AnswersIn L s₀ (execSchedSnapshot who clr s) := by
  unfold execSchedSnapshot
  with_reducible repeat' first
    | exact Within.refl _
    | assumption
    | exact List.Subset.trans (by decide) hL
    | (intro _; try dsimp only)
    | apply AnswersIn.next
    | apply snapshot_within
    | apply setInt_within
    | apply serve_within

theorem execThLoad_within {L : List Part} {s₀ : State} (who : Req) (t : Fin 256) (s : State) (h₀ : Within L s₀ s)
    (hL : [.regs, .host] ⊆ L) : AnswersIn L s₀ (execThLoad who t s) := by
  unfold execThLoad
  with_reducible repeat' first
    | exact Within.refl _
    | assumption
    | exact List.Subset.trans (by decide) hL
    | (intro _; try dsimp only)
    | apply AnswersIn.next
    | apply wrWords_within
    | apply wr_within
    | apply serve_within

theorem execThreadFault_within {L : List Part} {s₀ : State} (core : Fin 4) (s : State) (h₀ : Within L s₀ s)
    (hL : [.regs, .live, .host, .deck, .ledger, .out] ⊆ L) : AnswersIn L s₀ (execThreadFault core s) := by
  unfold execThreadFault
  with_reducible repeat' first
    | assumption
    | apply AnswersIn.inFull
    | apply threadFault_within

theorem threadWait_within {L : List Part} {s₀ : State} (c : Nat) (timeout : Nat) (s : State) (h₀ : Within L s₀ s)
    (hL : [.live, .deck] ⊆ L) : Within L s₀ (threadWait c timeout s) := by
  unfold threadWait
  with_reducible repeat' first
    | assumption
    | exact List.Subset.trans (by decide) hL
    | apply Within.ite
    | apply setRunning_within
    | apply setThread_within
    | apply dispatch_within
    | split

theorem execThreadWait_within {L : List Part} {s₀ : State} (core : Fin 4) (timeout : BitVec 16) (s : State) (h₀ : Within L s₀ s)
    (hL : [.live, .deck] ⊆ L) : AnswersIn L s₀ (execThreadWait core timeout s) := by
  unfold execThreadWait
  with_reducible repeat' first
    | assumption
    | apply AnswersIn.inFull
    | apply threadWait_within

theorem execTickTimeout_within {L : List Part} {s₀ : State} (t : Fin 256) (s : State) (h₀ : Within L s₀ s)
    (hL : [.regs, .host, .deck, .out] ⊆ L) : AnswersIn L s₀ (execTickTimeout t s) := by
  unfold execTickTimeout
  with_reducible repeat' first
    | assumption
    | exact List.Subset.trans (by decide) hL
    | apply Within.ite
    | apply AnswersIn.inFull
    | apply offerPost_within
    | apply setThread_within

theorem w2winClose_within {L : List Part} {s₀ : State} (c : Nat) (cycles : Nat) (retired : Nat) (wasted : Nat) (front : Nat) (mask : Nat) (w : W2Win) (s : State)
    (h₀ : Within L s₀ s)
    (hL : [.regs, .host, .deck, .out] ⊆ L) : Within L s₀ (w2winClose c cycles retired wasted front mask w s) := by
  unfold w2winClose
  repeat' first
    | exact List.Subset.trans (by decide) hL
    | ((with_reducible apply Within.lit); all_goals first | exact Or.inl (hL (by decide)) | with_reducible exact Or.inr rfl | with_reducible assumption | with_reducible apply pushSample_within)

theorem execW2winClose_within {L : List Part} {s₀ : State} (c : Fin 4) (cycles : Fin 33) (retired : Nat) (wasted : Nat) (front : Nat) (mask : BitVec 7) (s : State)
    (h₀ : Within L s₀ s)
    (hL : [.regs, .host, .deck, .out] ⊆ L) : AnswersIn L s₀ (execW2winClose c cycles retired wasted front mask s) := by
  unfold execW2winClose
  with_reducible repeat' first
    | assumption
    | apply AnswersIn.inFull
    | apply w2winClose_within
    | split

theorem execW2winOpen_within {L : List Part} {s₀ : State} (c : Fin 4) (addr : BitVec 48) (s : State) (h₀ : Within L s₀ s)
    (hL : [.deck] ⊆ L) : AnswersIn L s₀ (execW2winOpen c addr s) := by
  unfold execW2winOpen
  repeat' first
    | with_reducible apply AnswersIn.inFull
    | ((with_reducible apply Within.lit); all_goals first | exact Or.inl (hL (by decide)) | with_reducible exact Or.inr rfl | with_reducible assumption)
    | split

theorem execWdogExpiry_within {L : List Part} {s₀ : State} (s : State) (h₀ : Within L s₀ s)
    (hL : [.regs, .live, .mast, .host, .deck, .ports, .egr, .ledger, .out] ⊆ L) : AnswersIn L s₀ (execWdogExpiry s) := by
  unfold execWdogExpiry
  with_reducible repeat' first
    | assumption
    | exact List.Subset.trans (by decide) hL
    | apply Within.ite
    | apply AnswersIn.inFull
    | apply deckRestart_within
    | apply setInt_within

theorem wdogKick_within {L : List Part} {s₀ : State} (who : Req) (s : State) (h₀ : Within L s₀ s)
    (hL : [.deck] ⊆ L) : Within L s₀ (wdogKick who s) := by
  unfold wdogKick
  repeat' first
    | ((with_reducible apply Within.lit); all_goals first | exact Or.inl (hL (by decide)) | with_reducible exact Or.inr rfl | with_reducible assumption)
    | split

theorem execWdogKick_within {L : List Part} {s₀ : State} (who : Req) (s : State) (h₀ : Within L s₀ s)
    (hL : [.host, .deck] ⊆ L) : AnswersIn L s₀ (execWdogKick who s) := by
  unfold execWdogKick
  with_reducible repeat' first
    | exact Within.refl _
    | assumption
    | exact List.Subset.trans (by decide) hL
    | (intro _; try dsimp only)
    | apply AnswersIn.next
    | apply wdogKick_within
    | apply serve_within

theorem setPaused_within {L : List Part} {s₀ : State} (p : Nat) (m : Nat) (s : State) (h₀ : Within L s₀ s)
    (hL : [.live, .ports] ⊆ L) : Within L s₀ (setPaused p m s) := by
  unfold setPaused
  with_reducible repeat' first
    | assumption
    | exact List.Subset.trans (by decide) hL
    | apply Within.ite
    | apply portCount_within
    | apply setPort_within

theorem pauseFor_within {L : List Part} {s₀ : State} (p : Nat) (prio : Nat) (quanta : Nat) (s : State) (h₀ : Within L s₀ s)
    (hL : [.ports] ⊆ L) : Within L s₀ (pauseFor p prio quanta s) := by
  unfold pauseFor
  with_reducible repeat' first
    | assumption
    | apply setPort_within

theorem macFrame_within {L : List Part} {s₀ : State} (p : Nat) (k : RxKind) (s : State) (h₀ : Within L s₀ s)
    (hL : [.live, .ports] ⊆ L) : Within L s₀ (macFrame p k s) := by
  unfold macFrame
  with_reducible repeat' first
    | exact Within.refl _
    | assumption
    | exact List.Subset.trans (by decide) hL
    | (intro _; try dsimp only)
    | apply portCount_within
    | apply setPaused_within
    | apply pauseFor_within
    | apply Within.foldl
    | apply Within.forUpTo
    | split

theorem classify_within {L : List Part} {s₀ : State} (p : Nat) (f : RxFrame) (s : State) (h₀ : Within L s₀ s)
    (hL : [.regs, .live, .host, .deck, .ports, .ing, .out] ⊆ L) : Within L s₀ (classify p f s) := by
  unfold classify
  repeat' first
    | exact List.Subset.trans (by decide) hL
    | ((with_reducible apply Within.lit); all_goals first | exact Or.inl (hL (by decide)) | with_reducible exact Or.inr rfl | with_reducible assumption | with_reducible apply portCount_within | with_reducible apply macFrame_within | with_reducible apply toIngest_within | with_reducible apply toRing_within)
    | split

theorem clearPort_within {L : List Part} {s₀ : State} (p : Nat) (s : State) (h₀ : Within L s₀ s)
    (hL : [.live, .ports] ⊆ L) : Within L s₀ (clearPort p s) := by
  unfold clearPort
  repeat' first
    | exact List.Subset.trans (by decide) hL
    | (intro _; try dsimp only)
    | ((with_reducible apply Within.lit); all_goals first | exact Or.inl (hL (by decide)) | with_reducible exact Or.inr rfl | with_reducible exact Within.refl _ | with_reducible assumption | with_reducible apply setPort_within | with_reducible apply Within.forUpTo)

theorem countGood_within {L : List Part} {s₀ : State} (p : Nat) (f : RxFrame) (s : State) (h₀ : Within L s₀ s)
    (hL : [.live] ⊆ L) : Within L s₀ (countGood p f s) := by
  unfold countGood
  with_reducible repeat' first
    | assumption
    | apply Within.ite
    | apply portCount_within

theorem deckOnly_within {L : List Part} {s₀ : State} (who : Req) (f : State → State) (s : State) (h_f : ∀ (u : State), Within L u (f u))
    (h₀ : Within L s₀ s)
    (hL : [] ⊆ L) : Within L s₀ (deckOnly who f s) := by
  unfold deckOnly
  with_reducible repeat' first
    | assumption
    | apply Within.app h_f
    | split

theorem eeeWrite_within {L : List Part} {s₀ : State} (p : Nat) (v : Word) (s : State) (h₀ : Within L s₀ s)
    (hL : [.regs, .host, .deck, .out] ⊆ L) : Within L s₀ (eeeWrite p v s) := by
  unfold eeeWrite
  with_reducible repeat' first
    | assumption
    | exact List.Subset.trans (by decide) hL
    | apply Within.ite
    | apply wr_within
    | apply raise_within

theorem execEeeWrite_within {L : List Part} {s₀ : State} (who : Req) (p : Fin 64) (v : Word) (s : State) (h₀ : Within L s₀ s)
    (hL : [.regs, .host, .deck, .out] ⊆ L) : AnswersIn L s₀ (execEeeWrite who p v s) := by
  unfold execEeeWrite
  with_reducible repeat' first
    | exact Within.refl _
    | assumption
    | exact List.Subset.trans (by decide) hL
    | (intro _; try dsimp only)
    | apply AnswersIn.next
    | apply eeeWrite_within
    | apply serve_within

theorem execLinkChange_within {L : List Part} {s₀ : State} (p : Fin 64) (up : Bool) (anDone : Bool) (s : State)
    (h₀ : Within L s₀ s)
    (hL : [.regs, .live, .host, .deck, .ports, .out] ⊆ L) : AnswersIn L s₀ (execLinkChange p up anDone s) := by
  unfold execLinkChange
  with_reducible repeat' first
    | assumption
    | apply Within.ite
    | apply AnswersIn.inFull
    | apply linkChange_within

theorem execLpiEntry_within {L : List Part} {s₀ : State} (p : Fin 64) (s : State) (h₀ : Within L s₀ s)
    (hL : [.live, .ports] ⊆ L) : AnswersIn L s₀ (execLpiEntry p s) := by
  unfold execLpiEntry
  with_reducible repeat' first
    | assumption
    | exact List.Subset.trans (by decide) hL
    | apply Within.ite
    | apply AnswersIn.inFull
    | apply portCount_within
    | apply setPort_within

theorem execPauseExpiry_within {L : List Part} {s₀ : State} (p : Fin 64) (prio : Fin 8) (s : State) (h₀ : Within L s₀ s)
    (hL : [.live, .ports] ⊆ L) : AnswersIn L s₀ (execPauseExpiry p prio s) := by
  unfold execPauseExpiry
  with_reducible repeat' first
    | assumption
    | apply Within.ite
    | apply AnswersIn.inFull
    | apply setPaused_within

theorem execPfcRefresh_within {L : List Part} {s₀ : State} (p : Fin 64) (s : State) (h₀ : Within L s₀ s)
    (hL : [.live, .ports, .out] ⊆ L) : AnswersIn L s₀ (execPfcRefresh p s) := by
  unfold execPfcRefresh
  with_reducible repeat' first
    | assumption
    | apply Within.ite
    | apply AnswersIn.inFull
    | apply sendPfc_within

theorem pfcXon_within {L : List Part} {s₀ : State} (p : Nat) (s : State) (h₀ : Within L s₀ s)
    (hL : [.live, .ports, .out] ⊆ L) : Within L s₀ (pfcXon p s) := by
  unfold pfcXon
  with_reducible repeat' first
    | assumption
    | exact List.Subset.trans (by decide) hL
    | apply portCount_within
    | apply sendPfcWith_within

theorem execPfcXon_within {L : List Part} {s₀ : State} (p : Fin 64) (s : State) (h₀ : Within L s₀ s)
    (hL : [.live, .ports, .out] ⊆ L) : AnswersIn L s₀ (execPfcXon p s) := by
  unfold execPfcXon
  with_reducible repeat' first
    | assumption
    | apply Within.ite
    | apply AnswersIn.inFull
    | apply pfcXon_within

theorem settleUs_within {L : List Part} {s₀ : State} (p : Nat) (s : State) (h₀ : Within L s₀ s)
    (hL : [.live, .ports] ⊆ L) : Within L s₀ (settleUs p s) := by
  unfold settleUs
  with_reducible repeat' first
    | assumption
    | exact List.Subset.trans (by decide) hL
    | apply portCount_within
    | apply setPort_within

theorem snapPort_within {L : List Part} {s₀ : State} (clr : Bool) (p : Nat) (s : State) (h₀ : Within L s₀ s)
    (hL : [.regs, .live, .host, .deck, .ports, .out] ⊆ L) : Within L s₀ (snapPort clr p s) := by
  unfold snapPort
  with_reducible repeat' first
    | assumption
    | exact List.Subset.trans (by decide) hL
    | apply Within.ite
    | apply settleUs_within
    | apply snapshot_within
    | apply wr64_within
    | apply wr_within
    | apply raise_within
    | apply setPort_within

theorem execPortSnapshot_within {L : List Part} {s₀ : State} (who : Req) (p : Fin 64) (clr : Bool) (s : State)
    (h₀ : Within L s₀ s)
    (hL : [.regs, .live, .host, .deck, .ports, .out] ⊆ L) : AnswersIn L s₀ (execPortSnapshot who p clr s) := by
  unfold execPortSnapshot
  with_reducible repeat' first
    | exact Within.refl _
    | assumption
    | exact List.Subset.trans (by decide) hL
    | (intro _; try dsimp only)
    | apply AnswersIn.next
    | apply snapPort_within
    | apply serve_within

theorem snapAllPorts_within {L : List Part} {s₀ : State} (clr : Bool) (s : State) (h₀ : Within L s₀ s)
    (hL : [.regs, .live, .mast, .host, .deck, .ports, .out] ⊆ L) : Within L s₀ (snapAllPorts clr s) := by
  unfold snapAllPorts
  repeat' first
    | exact List.Subset.trans (by decide) hL
    | (intro _; try dsimp only)
    | ((with_reducible apply Within.lit); all_goals first | exact Or.inl (hL (by decide)) | with_reducible exact Or.inr rfl | with_reducible exact Within.refl _ | with_reducible assumption | with_reducible apply clearPort_within | with_reducible apply snapPort_within | with_reducible apply Within.forUpTo)
    | split

theorem execPortSnapshotAll_within {L : List Part} {s₀ : State} (who : Req) (clr : Bool) (s : State) (h₀ : Within L s₀ s)
    (hL : [.regs, .live, .mast, .host, .deck, .ports, .out] ⊆ L) : AnswersIn L s₀ (execPortSnapshotAll who clr s) := by
  unfold execPortSnapshotAll
  with_reducible repeat' first
    | exact Within.refl _
    | assumption
    | exact List.Subset.trans (by decide) hL
    | (intro _; try dsimp only)
    | apply AnswersIn.next
    | apply serve_within
    | apply snapAllPorts_within

theorem execRingDisable_within {L : List Part} {s₀ : State} (who : Req) (p : Fin 64) (s : State) (h₀ : Within L s₀ s)
    (hL : [.regs, .host] ⊆ L) : AnswersIn L s₀ (execRingDisable who p s) := by
  unfold execRingDisable
  with_reducible repeat' first
    | exact Within.refl _
    | assumption
    | exact List.Subset.trans (by decide) hL
    | (intro _; try dsimp only)
    | apply AnswersIn.next
    | apply setStat_within
    | apply deckOnly_within
    | apply serve_within

theorem ringEnable_within {L : List Part} {s₀ : State} (p : Nat) (s : State) (h₀ : Within L s₀ s)
    (hL : [.regs, .ports] ⊆ L) : Within L s₀ (ringEnable p s) := by
  unfold ringEnable
  with_reducible repeat' first
    | assumption
    | exact List.Subset.trans (by decide) hL
    | apply Within.ite
    | apply setStat_within
    | apply wr_within
    | apply setPort_within

theorem execRingEnable_within {L : List Part} {s₀ : State} (who : Req) (p : Fin 64) (s : State) (h₀ : Within L s₀ s)
    (hL : [.regs, .host, .ports] ⊆ L) : AnswersIn L s₀ (execRingEnable who p s) := by
  unfold execRingEnable
  with_reducible repeat' first
    | exact Within.refl _
    | assumption
    | exact List.Subset.trans (by decide) hL
    | (intro _; try dsimp only)
    | apply AnswersIn.next
    | apply deckOnly_within
    | apply serve_within
    | apply ringEnable_within

theorem rxFrame_within {L : List Part} {s₀ : State} (p : Nat) (f : RxFrame) (s : State) (h₀ : Within L s₀ s)
    (hL : [.regs, .live, .host, .deck, .ports, .ing, .out] ⊆ L) : Within L s₀ (rxFrame p f s) := by
  unfold rxFrame
  with_reducible repeat' first
    | assumption
    | exact List.Subset.trans (by decide) hL
    | apply Within.ite
    | apply portCount_within
    | apply countGood_within
    | apply classify_within
    | apply raise_within
    | apply bufReach_within
    | split

theorem execRxFrame_within {L : List Part} {s₀ : State} (p : Fin 64) (f : RxFrame) (s : State) (h₀ : Within L s₀ s)
    (hL : [.regs, .live, .host, .deck, .ports, .ing, .out] ⊆ L) : AnswersIn L s₀ (execRxFrame p f s) := by
  unfold execRxFrame
  with_reducible repeat' first
    | assumption
    | apply Within.ite
    | apply AnswersIn.inFull
    | apply rxFrame_within

theorem rxLpi_within {L : List Part} {s₀ : State} (p : Nat) (enter : Bool) (s : State) (h₀ : Within L s₀ s)
    (hL : [.live, .ports] ⊆ L) : Within L s₀ (rxLpi p enter s) := by
  unfold rxLpi
  with_reducible repeat' first
    | assumption
    | exact List.Subset.trans (by decide) hL
    | apply Within.ite
    | apply portCount_within
    | apply setPort_within

theorem execRxLpiEntry_within {L : List Part} {s₀ : State} (p : Fin 64) (enter : Bool) (s : State) (h₀ : Within L s₀ s)
    (hL : [.live, .ports] ⊆ L) : AnswersIn L s₀ (execRxLpiEntry p enter s) := by
  unfold execRxLpiEntry
  with_reducible repeat' first
    | assumption
    | apply Within.ite
    | apply AnswersIn.inFull
    | apply rxLpi_within

theorem execRxReadyCoalesce_within {L : List Part} {s₀ : State} (p : Fin 64) (s : State) (h₀ : Within L s₀ s)
    (hL : [.regs, .host, .deck, .ports, .out] ⊆ L) : AnswersIn L s₀ (execRxReadyCoalesce p s) := by
  unfold execRxReadyCoalesce
  with_reducible repeat' first
    | assumption
    | exact List.Subset.trans (by decide) hL
    | apply Within.ite
    | apply AnswersIn.inFull
    | apply raise_within
    | apply setPort_within

theorem rxTailWrite_within {L : List Part} {s₀ : State} (p : Nat) (tail : Nat) (bufs : List Nat) (s : State) (h₀ : Within L s₀ s)
    (hL : [.regs, .ports] ⊆ L) : Within L s₀ (rxTailWrite p tail bufs s) := by
  unfold rxTailWrite
  with_reducible repeat' first
    | exact Within.refl _
    | assumption
    | exact List.Subset.trans (by decide) hL
    | (intro _; try dsimp only)
    | apply wr_within
    | apply offerDesc_within
    | apply Within.forUpTo

theorem execRxTail_within {L : List Part} {s₀ : State} (who : Req) (p : Fin 64) (index : BitVec 9) (bufs : List (BitVec 27)) (s : State)
    (h₀ : Within L s₀ s)
    (hL : [.regs, .host, .ports] ⊆ L) : AnswersIn L s₀ (execRxTail who p index bufs s) := by
  unfold execRxTail
  with_reducible repeat' first
    | exact Within.refl _
    | assumption
    | exact List.Subset.trans (by decide) hL
    | (intro _; try dsimp only)
    | apply AnswersIn.next
    | apply deckOnly_within
    | apply rxTailWrite_within
    | apply serve_within

theorem tsqLatch_within {L : List Part} {s₀ : State} (who : Req) (p : Nat) (s : State) (h₀ : Within L s₀ s)
    (hL : [.ports, .out] ⊆ L) : Within L s₀ (tsqLatch who p s) := by
  unfold tsqLatch
  with_reducible repeat' first
    | assumption
    | exact List.Subset.trans (by decide) hL
    | apply answer_within
    | apply setPort_within
    | split

theorem execTsqLatch_within {L : List Part} {s₀ : State} (who : Req) (p : Fin 64) (s : State) (h₀ : Within L s₀ s)
    (hL : [.host, .ports, .out] ⊆ L) : AnswersIn L s₀ (execTsqLatch who p s) := by
  unfold execTsqLatch
  with_reducible repeat' first
    | exact Within.refl _
    | assumption
    | exact List.Subset.trans (by decide) hL
    | (intro _; try dsimp only)
    | apply AnswersIn.next
    | apply tsqLatch_within
    | apply serve_within

theorem tsqPop_within {L : List Part} {s₀ : State} (who : Req) (p : Nat) (s : State) (h₀ : Within L s₀ s)
    (hL : [.ports, .out] ⊆ L) : Within L s₀ (tsqPop who p s) := by
  unfold tsqPop
  with_reducible repeat' first
    | assumption
    | exact List.Subset.trans (by decide) hL
    | apply answer_within
    | apply setPort_within
    | split

theorem execTsqPop_within {L : List Part} {s₀ : State} (who : Req) (p : Fin 64) (s : State) (h₀ : Within L s₀ s)
    (hL : [.host, .ports, .out] ⊆ L) : AnswersIn L s₀ (execTsqPop who p s) := by
  unfold execTsqPop
  with_reducible repeat' first
    | exact Within.refl _
    | assumption
    | exact List.Subset.trans (by decide) hL
    | (intro _; try dsimp only)
    | apply AnswersIn.next
    | apply serve_within
    | apply tsqPop_within

theorem txFrameEnd_within {L : List Part} {s₀ : State} (p : Nat) (s : State) (h₀ : Within L s₀ s)
    (hL : [.regs, .live, .host, .deck, .ports, .out] ⊆ L) : Within L s₀ (txFrameEnd p s) := by
  unfold txFrameEnd
  with_reducible repeat' first
    | assumption
    | exact List.Subset.trans (by decide) hL
    | apply portCount_within
    | apply tsqPush_within
    | apply emit_within
    | apply setPort_within
    | split

theorem execTxFrameEnd_within {L : List Part} {s₀ : State} (p : Fin 64) (s : State) (h₀ : Within L s₀ s)
    (hL : [.regs, .live, .host, .deck, .ports, .out] ⊆ L) : AnswersIn L s₀ (execTxFrameEnd p s) := by
  unfold execTxFrameEnd
  with_reducible repeat' first
    | assumption
    | apply Within.ite
    | apply AnswersIn.inFull
    | apply txFrameEnd_within

theorem commitNow_within {L : List Part} {s₀ : State} (q : Nat) (b : Nat) (prio : Nat) (len : Nat) (s : State)
    (h₀ : Within L s₀ s)
    (hL : [.regs, .live, .host, .deck, .ports, .egr, .out] ⊆ L) : Within L s₀ (commitNow q b prio len s) := by
  unfold commitNow
  with_reducible repeat' first
    | assumption
    | exact List.Subset.trans (by decide) hL
    | apply Within.ite
    | apply setQueue_within
    | apply nextItem_within
    | apply qLand_within

theorem unwait_within {L : List Part} {s₀ : State} (i : QItem) (s : State) (h₀ : Within L s₀ s)
    (hL : [.egr] ⊆ L) : Within L s₀ (unwait i s) := by
  unfold unwait
  repeat' ((with_reducible apply Within.lit); all_goals first | exact Or.inl (hL (by decide)) | with_reducible exact Or.inr rfl | with_reducible assumption)

theorem execComposerEnqueue_within {L : List Part} {s₀ : State} (s : State) (h₀ : Within L s₀ s)
    (hL : [.regs, .live, .host, .deck, .ports, .egr, .out] ⊆ L) : AnswersIn L s₀ (execComposerEnqueue s) := by
  unfold execComposerEnqueue
  with_reducible repeat' first
    | assumption
    | exact List.Subset.trans (by decide) hL
    | apply AnswersIn.inFull
    | apply unwait_within
    | apply qLand_within
    | split

theorem execEgressSnapshot_within {L : List Part} {s₀ : State} (who : Req) (clr : Bool) (s : State) (h₀ : Within L s₀ s)
    (hL : [.regs, .live, .host, .deck, .out] ⊆ L) : AnswersIn L s₀ (execEgressSnapshot who clr s) := by
  unfold execEgressSnapshot
  with_reducible repeat' first
    | exact Within.refl _
    | assumption
    | exact List.Subset.trans (by decide) hL
    | (intro _; try dsimp only)
    | apply AnswersIn.next
    | apply snapshot_within
    | apply serve_within
    | apply raise_within

theorem gooseRetransmit_within {L : List Part} {s₀ : State} (p : Nat) (s : State) (h₀ : Within L s₀ s)
    (hL : [.regs, .live, .host, .deck, .ports, .egr, .out] ⊆ L) : Within L s₀ (gooseRetransmit p s) := by
  unfold gooseRetransmit
  with_reducible repeat' first
    | assumption
    | exact List.Subset.trans (by decide) hL
    | apply Within.ite
    | apply setPub_within
    | apply pubTransmit_within
    | split

theorem execGooseRetransmit_within {L : List Part} {s₀ : State} (p : Fin 32) (s : State) (h₀ : Within L s₀ s)
    (hL : [.regs, .live, .host, .deck, .ports, .egr, .out] ⊆ L) : AnswersIn L s₀ (execGooseRetransmit p s) := by
  unfold execGooseRetransmit
  with_reducible repeat' first
    | assumption
    | apply AnswersIn.inFull
    | apply gooseRetransmit_within

theorem outSwitch_within {L : List Part} {s₀ : State} (k : Nat) (on : Bool) (s : State) (h₀ : Within L s₀ s)
    (hL : [.egr] ⊆ L) : Within L s₀ (outSwitch k on s) := by
  unfold outSwitch
  with_reducible repeat' first
    | assumption
    | apply setOut_within

theorem osCommandFrame_within {L : List Part} {s₀ : State} (id : Nat) (cmd : OsCmd) (ip : Nat) (udp : Nat) (s : State)
    (h₀ : Within L s₀ s)
    (hL : [.egr, .out] ⊆ L) : Within L s₀ (osCommandFrame id cmd ip udp s) := by
  unfold osCommandFrame
  with_reducible repeat' first
    | assumption
    | exact List.Subset.trans (by decide) hL
    | apply emit_within
    | apply outSwitch_within
    | split

theorem execOsCommandFrame_within {L : List Part} {s₀ : State} (id : BitVec 16) (cmd : OsCmd) (ip : Nat) (udp : BitVec 16) (s : State)
    (h₀ : Within L s₀ s)
    (hL : [.egr, .out] ⊆ L) : AnswersIn L s₀ (execOsCommandFrame id cmd ip udp s) := by
  unfold execOsCommandFrame
  with_reducible repeat' first
    | assumption
    | apply AnswersIn.inFull
    | apply osCommandFrame_within

theorem osItemAbandon_within {L : List Part} {s₀ : State} (s : State) (h₀ : Within L s₀ s)
    (hL : [.regs, .live, .host, .deck, .egr, .out] ⊆ L) : Within L s₀ (osItemAbandon s) := by
  unfold osItemAbandon
  with_reducible repeat' first
    | assumption
    | exact List.Subset.trans (by decide) hL
    | apply egrCount_within
    | apply unwait_within
    | apply raise_within
    | apply setOut_within
    | split

theorem execOsItemAbandon_within {L : List Part} {s₀ : State} (s : State) (h₀ : Within L s₀ s)
    (hL : [.regs, .live, .host, .deck, .egr, .out] ⊆ L) : AnswersIn L s₀ (execOsItemAbandon s) := by
  unfold execOsItemAbandon
  with_reducible repeat' first
    | assumption
    | apply AnswersIn.inFull
    | apply osItemAbandon_within

theorem execOsLoad_within {L : List Part} {s₀ : State} (who : Req) (s : State) (h₀ : Within L s₀ s)
    (hL : [.regs, .host] ⊆ L) : AnswersIn L s₀ (execOsLoad who s) := by
  unfold execOsLoad
  with_reducible repeat' first
    | exact Within.refl _
    | assumption
    | exact List.Subset.trans (by decide) hL
    | (intro _; try dsimp only)
    | apply AnswersIn.next
    | apply setStat_within
    | apply wrWords_within
    | apply serve_within

theorem osSwitch_within {L : List Part} {s₀ : State} (on : Bool) (s : State) (h₀ : Within L s₀ s)
    (hL : [.regs, .egr] ⊆ L) : Within L s₀ (osSwitch on s) := by
  unfold osSwitch
  with_reducible repeat' first
    | assumption
    | exact List.Subset.trans (by decide) hL
    | apply Within.ite
    | apply setStat_within
    | apply outSwitch_within

theorem execOsOff_within {L : List Part} {s₀ : State} (who : Req) (s : State) (h₀ : Within L s₀ s)
    (hL : [.regs, .host, .egr] ⊆ L) : AnswersIn L s₀ (execOsOff who s) := by
  unfold execOsOff
  with_reducible repeat' first
    | exact Within.refl _
    | assumption
    | exact List.Subset.trans (by decide) hL
    | (intro _; try dsimp only)
    | apply AnswersIn.next
    | apply serve_within
    | apply osSwitch_within

theorem execOsOn_within {L : List Part} {s₀ : State} (who : Req) (s : State) (h₀ : Within L s₀ s)
    (hL : [.regs, .host, .egr] ⊆ L) : AnswersIn L s₀ (execOsOn who s) := by
  unfold execOsOn
  with_reducible repeat' first
    | exact Within.refl _
    | assumption
    | exact List.Subset.trans (by decide) hL
    | (intro _; try dsimp only)
    | apply AnswersIn.next
    | apply serve_within
    | apply osSwitch_within

theorem execPubLoad_within {L : List Part} {s₀ : State} (who : Req) (p : Fin 32) (s : State) (h₀ : Within L s₀ s)
    (hL : [.regs, .host] ⊆ L) : AnswersIn L s₀ (execPubLoad who p s) := by
  unfold execPubLoad
  with_reducible repeat' first
    | exact Within.refl _
    | assumption
    | exact List.Subset.trans (by decide) hL
    | (intro _; try dsimp only)
    | apply AnswersIn.next
    | apply wrWords_within
    | apply wr_within
    | apply serve_within

theorem qCommit_within {L : List Part} {s₀ : State} (c : Instr) (who : Req) (q : Nat) (prio : Nat) (len : Nat) (s : State)
    (h₀ : Within L s₀ s)
    (hL : [.regs, .live, .host, .deck, .ports, .egr, .out] ⊆ L) : Within L s₀ (qCommit c who q prio len s) := by
  unfold qCommit
  with_reducible repeat' first
    | assumption
    | exact List.Subset.trans (by decide) hL
    | apply Within.ite
    | apply setQueue_within
    | apply commitNow_within
    | apply holdWrite_within

theorem execQCommit_within {L : List Part} {s₀ : State} (who : Req) (q : Fin 32) (prio : Fin 8) (len : BitVec 14) (s : State)
    (h₀ : Within L s₀ s)
    (hL : [.regs, .live, .host, .deck, .ports, .egr, .out] ⊆ L) : AnswersIn L s₀ (execQCommit who q prio len s) := by
  unfold execQCommit
  with_reducible repeat' first
    | exact Within.refl _
    | assumption
    | exact List.Subset.trans (by decide) hL
    | (intro _; try dsimp only)
    | apply AnswersIn.next
    | apply serve_within
    | apply qCommit_within

theorem qCommitLand_within {L : List Part} {s₀ : State} (q : Nat) (s : State) (h₀ : Within L s₀ s)
    (hL : [.regs, .live, .host, .deck, .ports, .egr, .out] ⊆ L) : Within L s₀ (qCommitLand q s) := by
  unfold qCommitLand
  repeat' first
    | exact List.Subset.trans (by decide) hL
    | ((with_reducible apply Within.lit); all_goals first | exact Or.inl (hL (by decide)) | with_reducible exact Or.inr rfl | with_reducible assumption | with_reducible apply setQueue_within | with_reducible apply commitNow_within)
    | split

theorem execQCommitLand_within {L : List Part} {s₀ : State} (q : Fin 32) (s : State) (h₀ : Within L s₀ s)
    (hL : [.regs, .live, .host, .deck, .ports, .egr, .out] ⊆ L) : AnswersIn L s₀ (execQCommitLand q s) := by
  unfold execQCommitLand
  with_reducible repeat' first
    | assumption
    | apply AnswersIn.inFull
    | apply qCommitLand_within

theorem setStaged_within {L : List Part} {s₀ : State} (q : Nat) (b : Nat) (ws : List Word) (s : State) (h₀ : Within L s₀ s)
    (hL : [.egr] ⊆ L) : Within L s₀ (setStaged q b ws s) := by
  unfold setStaged
  with_reducible repeat' first
    | assumption
    | apply setQueue_within

theorem execQDiscard_within {L : List Part} {s₀ : State} (who : Req) (q : Fin 32) (s : State) (h₀ : Within L s₀ s)
    (hL : [.host, .egr] ⊆ L) : AnswersIn L s₀ (execQDiscard who q s) := by
  unfold execQDiscard
  with_reducible repeat' first
    | exact Within.refl _
    | assumption
    | exact List.Subset.trans (by decide) hL
    | (intro _; try dsimp only)
    | apply Within.ite
    | apply AnswersIn.next
    | apply setStaged_within
    | apply serve_within

theorem qFlush_within {L : List Part} {s₀ : State} (q : Nat) (s : State) (h₀ : Within L s₀ s)
    (hL : [.egr] ⊆ L) : Within L s₀ (qFlush q s) := by
  unfold qFlush
  with_reducible repeat' first
    | assumption
    | apply setQueue_within

theorem execQFlush_within {L : List Part} {s₀ : State} (who : Req) (q : Fin 32) (s : State) (h₀ : Within L s₀ s)
    (hL : [.host, .egr] ⊆ L) : AnswersIn L s₀ (execQFlush who q s) := by
  unfold execQFlush
  with_reducible repeat' first
    | exact Within.refl _
    | assumption
    | exact List.Subset.trans (by decide) hL
    | (intro _; try dsimp only)
    | apply AnswersIn.next
    | apply qFlush_within
    | apply serve_within

theorem qRemove_within {L : List Part} {s₀ : State} (q : Nat) (ident : Nat) (s : State) (h₀ : Within L s₀ s)
    (hL : [.egr] ⊆ L) : Within L s₀ (qRemove q ident s) := by
  unfold qRemove
  with_reducible repeat' first
    | assumption
    | apply setQueue_within

theorem qPop_within {L : List Part} {s₀ : State} (q : Nat) (s : State) (h₀ : Within L s₀ s)
    (hL : [.egr, .out] ⊆ L) : Within L s₀ (qPop q s) := by
  unfold qPop
  with_reducible repeat' first
    | assumption
    | exact List.Subset.trans (by decide) hL
    | apply setQueue_within
    | apply answer_within
    | apply qRemove_within
    | split

theorem execQPop_within {L : List Part} {s₀ : State} (q : Fin 32) (s : State) (h₀ : Within L s₀ s)
    (hL : [.host, .egr, .out] ⊆ L) : AnswersIn L s₀ (execQPop q s) := by
  unfold execQPop
  with_reducible repeat' first
    | exact Within.refl _
    | assumption
    | exact List.Subset.trans (by decide) hL
    | (intro _; try dsimp only)
    | apply AnswersIn.next
    | apply qPop_within
    | apply serve_within

theorem qPush_within {L : List Part} {s₀ : State} (who : Req) (q : Nat) (v : Word) (s : State) (h₀ : Within L s₀ s)
    (hL : [.egr] ⊆ L) : Within L s₀ (qPush who q v s) := by
  unfold qPush
  with_reducible repeat' first
    | assumption
    | apply Within.ite
    | apply setQueue_within
    | apply setStaged_within

theorem execQPush_within {L : List Part} {s₀ : State} (who : Req) (q : Fin 32) (v : Word) (s : State) (h₀ : Within L s₀ s)
    (hL : [.host, .egr] ⊆ L) : AnswersIn L s₀ (execQPush who q v s) := by
  unfold execQPush
  with_reducible repeat' first
    | exact Within.refl _
    | assumption
    | exact List.Subset.trans (by decide) hL
    | (intro _; try dsimp only)
    | apply AnswersIn.next
    | apply qPush_within
    | apply serve_within

theorem execRuleLoad_within {L : List Part} {s₀ : State} (who : Req) (s : State) (h₀ : Within L s₀ s)
    (hL : [.regs, .host] ⊆ L) : AnswersIn L s₀ (execRuleLoad who s) := by
  unfold execRuleLoad
  with_reducible repeat' first
    | exact Within.refl _
    | assumption
    | exact List.Subset.trans (by decide) hL
    | (intro _; try dsimp only)
    | apply AnswersIn.next
    | apply setStat_within
    | apply wrWords_within
    | apply serve_within

theorem ruleStore_within {L : List Part} {s₀ : State} (s : State) (h₀ : Within L s₀ s)
    (hL : [.regs, .host, .deck, .egr, .ledger, .out] ⊆ L) : Within L s₀ (ruleStore s) := by
  unfold ruleStore
  with_reducible repeat' first
    | assumption
    | exact List.Subset.trans (by decide) hL
    | apply Within.ite
    | apply setStat_within
    | apply logEvent_within
    | apply setRule_within

theorem execRuleStore_within {L : List Part} {s₀ : State} (who : Req) (s : State) (h₀ : Within L s₀ s)
    (hL : [.regs, .host, .deck, .egr, .ledger, .out] ⊆ L) : AnswersIn L s₀ (execRuleStore who s) := by
  unfold execRuleStore
  with_reducible repeat' first
    | exact Within.refl _
    | assumption
    | exact List.Subset.trans (by decide) hL
    | (intro _; try dsimp only)
    | apply AnswersIn.next
    | apply ruleStore_within
    | apply serve_within

theorem sendItem_within {L : List Part} {s₀ : State} (p : Nat) (i : QItem) (s : State) (h₀ : Within L s₀ s)
    (hL : [.regs, .live, .host, .deck, .ports, .out] ⊆ L) : Within L s₀ (sendItem p i s) := by
  unfold sendItem
  with_reducible repeat' first
    | assumption
    | exact List.Subset.trans (by decide) hL
    | apply Within.ite
    | apply egrCount_within
    | apply leaveTxLpi_within
    | apply raise_within
    | apply setPort_within

theorem txStart_within {L : List Part} {s₀ : State} (p : Nat) (c : Nat) (s : State) (h₀ : Within L s₀ s)
    (hL : [.regs, .live, .host, .deck, .ports, .egr, .out] ⊆ L) : Within L s₀ (txStart p c s) := by
  unfold txStart
  try dsimp only
  repeat' first
    | exact List.Subset.trans (by decide) hL
    | ((with_reducible apply Within.lit); all_goals first | exact Or.inl (hL (by decide)) | with_reducible exact Or.inr rfl | with_reducible assumption | with_reducible apply sendItem_within | with_reducible apply qRemove_within)
    | split

theorem execTxStart_within {L : List Part} {s₀ : State} (p : Fin 64) (c : Fin 8) (s : State) (h₀ : Within L s₀ s)
    (hL : [.regs, .live, .host, .deck, .ports, .egr, .out] ⊆ L) : AnswersIn L s₀ (execTxStart p c s) := by
  unfold execTxStart
  with_reducible repeat' first
    | assumption
    | apply Within.ite
    | apply AnswersIn.inFull
    | apply txStart_within

theorem ahSave_within {L : List Part} {s₀ : State} (s : State) (h₀ : Within L s₀ s)
    (hL : [.scales] ⊆ L) : Within L s₀ (ahSave s) := by
  unfold ahSave
  with_reducible repeat' first
    | assumption
    | apply setEnergy_within

theorem ahPeriod_within {L : List Part} {s₀ : State} (s : State) (h₀ : Within L s₀ s)
    (hL : [.regs, .free, .host, .deck, .scales, .pair, .ledger, .out] ⊆ L) : Within L s₀ (ahPeriod s) := by
  unfold ahPeriod
  with_reducible repeat' first
    | assumption
    | exact List.Subset.trans (by decide) hL
    | apply Within.ite
    | apply ahSave_within
    | apply reefSettle_within

theorem snapPoint_within {L : List Part} {s₀ : State} (s : State) (k : Nat) (h₀ : Within L s₀ s)
    (hL : [.regs] ⊆ L) : Within L s₀ (snapPoint s k) := by
  unfold snapPoint
  with_reducible repeat' first
    | exact Within.refl _
    | assumption
    | (intro _; try dsimp only)
    | apply wr64_within
    | apply Within.forUpTo

theorem energySnapshot_within {L : List Part} {s₀ : State} (s : State) (h₀ : Within L s₀ s)
    (hL : [.regs, .host, .deck, .out] ⊆ L) : Within L s₀ (energySnapshot s) := by
  unfold energySnapshot
  with_reducible repeat' first
    | exact Within.refl _
    | assumption
    | exact List.Subset.trans (by decide) hL
    | (intro _; try dsimp only)
    | apply snapPoint_within
    | apply bumpF_within
    | apply wr_within
    | apply raise_within
    | apply Within.forUpTo

theorem execAhSave_within {L : List Part} {s₀ : State} (s : State) (h₀ : Within L s₀ s)
    (hL : [.regs, .free, .host, .deck, .scales, .pair, .ledger, .out] ⊆ L) : AnswersIn L s₀ (execAhSave s) := by
  unfold execAhSave
  with_reducible repeat' first
    | assumption
    | apply AnswersIn.powered
    | apply ahPeriod_within

theorem periodicSave_within {L : List Part} {s₀ : State} (ok : Bool) (s : State) (h₀ : Within L s₀ s)
    (hL : [.regs, .host, .deck, .scales, .pair, .ledger, .out] ⊆ L) : Within L s₀ (periodicSave ok s) := by
  unfold periodicSave
  with_reducible repeat' first
    | assumption
    | exact List.Subset.trans (by decide) hL
    | apply Within.ite
    | apply setEnergy_within
    | apply energySave_within
    | apply closeOverdue_within

theorem execEnergySave_within {L : List Part} {s₀ : State} (ok : Bool) (s : State) (h₀ : Within L s₀ s)
    (hL : [.regs, .host, .deck, .scales, .pair, .ledger, .out] ⊆ L) : AnswersIn L s₀ (execEnergySave ok s) := by
  unfold execEnergySave
  with_reducible repeat' first
    | assumption
    | apply Within.ite
    | apply AnswersIn.powered
    | apply periodicSave_within

theorem execEnergySaveNow_within {L : List Part} {s₀ : State} (who : Req) (s : State) (h₀ : Within L s₀ s)
    (hL : [.regs, .host] ⊆ L) : AnswersIn L s₀ (execEnergySaveNow who s) := by
  unfold execEnergySaveNow
  with_reducible repeat' first
    | exact Within.refl _
    | assumption
    | exact List.Subset.trans (by decide) hL
    | (intro _; try dsimp only)
    | apply AnswersIn.next
    | apply wrF_within
    | apply serve_within

theorem execEnergySnapshot_within {L : List Part} {s₀ : State} (who : Req) (s : State) (h₀ : Within L s₀ s)
    (hL : [.regs, .host, .deck, .out] ⊆ L) : AnswersIn L s₀ (execEnergySnapshot who s) := by
  unfold execEnergySnapshot
  with_reducible repeat' first
    | exact Within.refl _
    | assumption
    | exact List.Subset.trans (by decide) hL
    | (intro _; try dsimp only)
    | apply AnswersIn.next
    | apply energySnapshot_within
    | apply serve_within

theorem execIntervalEnd_within {L : List Part} {s₀ : State} (s : State) (h₀ : Within L s₀ s)
    (hL : [.regs, .host, .deck, .scales, .pair, .ledger, .out] ⊆ L) : AnswersIn L s₀ (execIntervalEnd s) := by
  unfold execIntervalEnd
  with_reducible repeat' first
    | exact Within.refl _
    | assumption
    | (intro _; try dsimp only)
    | apply Within.ite
    | apply AnswersIn.powered
    | apply closeOverdue_within
    | apply endInterval_within
    | apply Within.foldl

theorem supplyCheck_within {L : List Part} {s₀ : State} (s : State) (h₀ : Within L s₀ s)
    (hL : [.regs, .host, .deck, .scales, .ledger, .out] ⊆ L) : Within L s₀ (supplyCheck s) := by
  unfold supplyCheck
  with_reducible repeat' first
    | exact Within.refl _
    | assumption
    | exact List.Subset.trans (by decide) hL
    | (intro _; try dsimp only)
    | apply checkPoint_within
    | apply setEnergy_within
    | apply Within.foldl

theorem execSupplyCheck_within {L : List Part} {s₀ : State} (s : State) (h₀ : Within L s₀ s)
    (hL : [.regs, .host, .deck, .scales, .ledger, .out] ⊆ L) : AnswersIn L s₀ (execSupplyCheck s) := by
  unfold execSupplyCheck
  with_reducible repeat' first
    | assumption
    | apply Within.ite
    | apply AnswersIn.powered
    | apply supplyCheck_within

theorem clearOnRead_within {L : List Part} {s₀ : State} (who : Req) (ch : Option (Fin 24)) (s : State) (h₀ : Within L s₀ s)
    (hL : [.regs, .cap, .out] ⊆ L) : Within L s₀ (clearOnRead who ch s) := by
  unfold clearOnRead
  with_reducible repeat' first
    | assumption
    | exact List.Subset.trans (by decide) hL
    | apply wrF_within
    | apply answer_within

theorem eoi_within {L : List Part} {s₀ : State} (v : Nat) (s : State) (h₀ : Within L s₀ s)
    (hL : [.host, .out] ⊆ L) : Within L s₀ (eoi v s) := by
  unfold eoi
  with_reducible repeat' first
    | assumption
    | apply Within.ite
    | apply sendVector_within

theorem execClearOnRead_within {L : List Part} {s₀ : State} (who : Req) (ch : Option (Fin 24)) (s : State) (h₀ : Within L s₀ s)
    (hL : [.regs, .host, .cap, .out] ⊆ L) : AnswersIn L s₀ (execClearOnRead who ch s) := by
  unfold execClearOnRead
  with_reducible repeat' first
    | exact Within.refl _
    | assumption
    | exact List.Subset.trans (by decide) hL
    | (intro _; try dsimp only)
    | apply AnswersIn.next
    | apply serve_within
    | apply clearOnRead_within

theorem execD3hotEntry_within {L : List Part} {s₀ : State} (s : State) (h₀ : Within L s₀ s)
    (hL : [.host] ⊆ L) : AnswersIn L s₀ (execD3hotEntry s) := by
  unfold execD3hotEntry
  with_reducible repeat' first
    | assumption
    | apply AnswersIn.inFull
    | apply setHost_within

theorem execEoi_within {L : List Part} {s₀ : State} (vector : Fin 16) (s : State) (h₀ : Within L s₀ s)
    (hL : [.host, .out] ⊆ L) : AnswersIn L s₀ (execEoi vector s) := by
  unfold execEoi
  with_reducible repeat' first
    | exact Within.refl _
    | assumption
    | exact List.Subset.trans (by decide) hL
    | (intro _; try dsimp only)
    | apply AnswersIn.next
    | apply hostServe_within
    | apply eoi_within

theorem execHeldWriteDrop_within {L : List Part} {s₀ : State} (s : State) (h₀ : Within L s₀ s)
    (hL : [.regs, .host, .deck, .ledger, .out] ⊆ L) : AnswersIn L s₀ (execHeldWriteDrop s) := by
  unfold execHeldWriteDrop
  with_reducible repeat' first
    | assumption
    | apply AnswersIn.inFull
    | apply heldDrop_within

theorem execLinkReset_within {L : List Part} {s₀ : State} (kind : LinkReset) (s : State) (h₀ : Within L s₀ s)
    (hL : [.regs, .host, .deck, .cap, .pak, .ledger, .out] ⊆ L) : AnswersIn L s₀ (execLinkReset kind s) := by
  unfold execLinkReset
  with_reducible repeat' first
    | assumption
    | apply AnswersIn.inFull
    | apply hostLinkReset_within

theorem lowWordRead_within {L : List Part} {s₀ : State} (shadow : Option (Nat × Word)) (a : Nat) (s : State) (h₀ : Within L s₀ s)
    (hL : [.host, .cap, .out] ⊆ L) : Within L s₀ (lowWordRead shadow a s) := by
  unfold lowWordRead
  with_reducible repeat' first
    | assumption
    | exact List.Subset.trans (by decide) hL
    | apply Within.ite
    | apply answer_within
    | apply setHost_within

theorem execLowWordRead_within {L : List Part} {s₀ : State} (ofs : BitVec 20) (s : State) (h₀ : Within L s₀ s)
    (hL : [.host, .cap, .out] ⊆ L) : AnswersIn L s₀ (execLowWordRead ofs s) := by
  unfold execLowWordRead
  with_reducible repeat' first
    | exact Within.refl _
    | assumption
    | exact List.Subset.trans (by decide) hL
    | (intro _; try dsimp only)
    | apply Within.ite
    | apply AnswersIn.next
    | apply hostServe_within
    | apply lowWordRead_within
    | apply answer_within

theorem unmasked_within {L : List Part} {s₀ : State} (v : Nat) (s : State) (h₀ : Within L s₀ s)
    (hL : [.host, .out] ⊆ L) : Within L s₀ (unmasked v s) := by
  unfold unmasked
  with_reducible repeat' first
    | assumption
    | exact List.Subset.trans (by decide) hL
    | apply Within.ite
    | apply setHost_within
    | apply eoi_within

theorem msixWrite_within {L : List Part} {s₀ : State} (v : Nat) (w : Nat) (x : Word) (s : State) (h₀ : Within L s₀ s)
    (hL : [.regs, .host, .out] ⊆ L) : Within L s₀ (msixWrite v w x s) := by
  unfold msixWrite
  with_reducible repeat' first
    | assumption
    | exact List.Subset.trans (by decide) hL
    | apply wr_within
    | apply unmasked_within

theorem execMsixTableWrite_within {L : List Part} {s₀ : State} (vector : Fin 16) (w : Fin 4) (v : Word) (s : State)
    (h₀ : Within L s₀ s)
    (hL : [.regs, .host, .out] ⊆ L) : AnswersIn L s₀ (execMsixTableWrite vector w v s) := by
  unfold execMsixTableWrite
  with_reducible repeat' first
    | exact Within.refl _
    | assumption
    | exact List.Subset.trans (by decide) hL
    | (intro _; try dsimp only)
    | apply AnswersIn.next
    | apply hostServe_within
    | apply msixWrite_within

theorem execRegisterWrite_within {L : List Part} {s₀ : State} (who : Req) (ofs : BitVec 17) (be : BitVec 8) (v : BitVec 64) (s : State)
    (h₀ : Within L s₀ s)
    (hL : [.regs, .mast, .host, .deck, .sentry, .out] ⊆ L) : AnswersIn L s₀ (execRegisterWrite who ofs be v s) := by
  unfold execRegisterWrite
  with_reducible repeat' first
    | exact Within.refl _
    | assumption
    | exact List.Subset.trans (by decide) hL
    | (intro _; try dsimp only)
    | apply AnswersIn.next
    | apply serve_within
    | apply writeBytes_within

theorem refuseAccess_within {L : List Part} {s₀ : State} (a : Nat) (write : Bool) (s : State) (h₀ : Within L s₀ s)
    (hL : [.regs, .host, .deck, .out] ⊆ L) : Within L s₀ (refuseAccess a write s) := by
  unfold refuseAccess
  with_reducible repeat' first
    | assumption
    | exact List.Subset.trans (by decide) hL
    | apply Within.ite
    | apply emit_within
    | apply wr_within
    | apply raise_within

theorem execUnsupportedRequest_within {L : List Part} {s₀ : State} (ofs : BitVec 20) (len : Nat) (write : Bool) (s : State)
    (h₀ : Within L s₀ s)
    (hL : [.regs, .host, .deck, .out] ⊆ L) : AnswersIn L s₀ (execUnsupportedRequest ofs len write s) := by
  unfold execUnsupportedRequest
  with_reducible repeat' first
    | exact Within.refl _
    | assumption
    | exact List.Subset.trans (by decide) hL
    | (intro _; try dsimp only)
    | apply Within.ite
    | apply AnswersIn.next
    | apply hostServe_within
    | apply refuseAccess_within

theorem execWinAbort_within {L : List Part} {s₀ : State} (w : Win) (s : State) (h₀ : Within L s₀ s)
    (hL : [.regs, .host, .cap, .pak, .ledger] ⊆ L) : AnswersIn L s₀ (execWinAbort w s) := by
  unfold execWinAbort
  with_reducible repeat' first
    | exact Within.refl _
    | assumption
    | exact List.Subset.trans (by decide) hL
    | (intro _; try dsimp only)
    | apply AnswersIn.next
    | apply hostServe_within
    | apply winAbort_within

theorem execWinOpen_within {L : List Part} {s₀ : State} (w : Win) (s : State) (h₀ : Within L s₀ s)
    (hL : [.host] ⊆ L) : AnswersIn L s₀ (execWinOpen w s) := by
  unfold execWinOpen
  with_reducible repeat' first
    | exact Within.refl _
    | assumption
    | (intro _; try dsimp only)
    | apply Within.ite
    | apply AnswersIn.next
    | apply hostServe_within
    | apply mirrorOpen_within

theorem execWindowRead_within {L : List Part} {s₀ : State} (w : Win) (r : WinRead) (poison : List Bool) (s : State)
    (h₀ : Within L s₀ s)
    (hL : [.regs, .host, .deck, .scales, .cap, .ledger, .out] ⊆ L) : AnswersIn L s₀ (execWindowRead w r poison s) := by
  unfold execWindowRead
  with_reducible repeat' first
    | exact Within.refl _
    | assumption
    | exact List.Subset.trans (by decide) hL
    | (intro _; try dsimp only)
    | apply AnswersIn.next
    | apply hostServe_within
    | apply windowRead_within

theorem countCode_within {L : List Part} {s₀ : State} (code : Nat) (s : State) (h₀ : Within L s₀ s)
    (hL : [.live] ⊆ L) : Within L s₀ (countCode code s) := by
  unfold countCode
  with_reducible repeat' first
    | assumption
    | apply count_within

theorem acceptValue_within {L : List Part} {s₀ : State} (n : Nat) (c : StreamCfg) (i : IngItem) (k : Nat) (pipe : Nat) (v : Slot) (s : State)
    (h₀ : Within L s₀ s)
    (hL : [.live, .ing, .mkt] ⊆ L) : Within L s₀ (acceptValue n c i k pipe v s) := by
  unfold acceptValue
  with_reducible repeat' first
    | assumption
    | exact List.Subset.trans (by decide) hL
    | apply Within.ite
    | apply setStream_within
    | apply countCode_within
    | apply handOver_within
    | apply filtHand_within

theorem streamTo_within {L : List Part} {s₀ : State} (n : Nat) (st : StreamState) (s : State) (h₀ : Within L s₀ s)
    (hL : [.regs, .host, .deck, .ing, .out] ⊆ L) : Within L s₀ (streamTo n st s) := by
  unfold streamTo
  with_reducible repeat' first
    | assumption
    | exact List.Subset.trans (by decide) hL
    | apply Within.ite
    | apply setStream_within
    | apply raise_within

theorem setFrag_within {L : List Part} {s₀ : State} (l : List (BitVec 8)) (n : Nat) (s : State) (h₀ : Within L s₀ s)
    (hL : [.ing] ⊆ L) : Within L s₀ (setFrag l n s) := by
  unfold setFrag
  with_reducible repeat' first
    | assumption
    | apply setStream_within

theorem cfgCompare_within {L : List Part} {s₀ : State} (g : GroupCfg) (f : C37Frame) (q : Nat × StreamCfg) (s : State)
    (h₀ : Within L s₀ s)
    (hL : [.regs, .host, .deck, .ing, .out] ⊆ L) : Within L s₀ (cfgCompare g f q s) := by
  unfold cfgCompare
  with_reducible repeat' first
    | assumption
    | exact List.Subset.trans (by decide) hL
    | apply streamTo_within
    | apply setFrag_within

theorem execClearAll_within {L : List Part} {s₀ : State} (who : Req) (s : State) (h₀ : Within L s₀ s)
    (hL : [.host, .ing] ⊆ L) : AnswersIn L s₀ (execClearAll who s) := by
  unfold execClearAll
  repeat' first
    | exact List.Subset.trans (by decide) hL
    | (intro _; try dsimp only)
    | with_reducible apply AnswersIn.next
    | ((with_reducible apply Within.lit); all_goals first | exact Or.inl (hL (by decide)) | with_reducible exact Or.inr rfl | with_reducible exact Within.refl _ | with_reducible assumption | with_reducible apply serve_within)

theorem rejectFrame_within {L : List Part} {s₀ : State} (code : Nat) (s : State) (h₀ : Within L s₀ s)
    (hL : [.regs, .live, .host, .deck, .out] ⊆ L) : Within L s₀ (rejectFrame code s) := by
  unfold rejectFrame
  with_reducible repeat' first
    | assumption
    | exact List.Subset.trans (by decide) hL
    | apply Within.ite
    | apply countCode_within
    | apply raise_within

theorem setSv_within {L : List Part} {s₀ : State} (n : Nat) (x : SvSt) (s : State) (h₀ : Within L s₀ s)
    (hL : [.ing] ⊆ L) : Within L s₀ (setSv n x s) := by
  unfold setSv
  repeat' ((with_reducible apply Within.lit); all_goals first | exact Or.inl (hL (by decide)) | with_reducible exact Or.inr rfl | with_reducible assumption)

theorem svTo_within {L : List Part} {s₀ : State} (n : Nat) (st : StreamState) (s : State) (h₀ : Within L s₀ s)
    (hL : [.regs, .host, .deck, .ing, .out] ⊆ L) : Within L s₀ (svTo n st s) := by
  unfold svTo
  with_reducible repeat' first
    | assumption
    | exact List.Subset.trans (by decide) hL
    | apply Within.ite
    | apply setSv_within
    | apply raise_within

theorem rejectSv_within {L : List Part} {s₀ : State} (n : Nat) (code : Nat) (i : IngItem) (pipe : Nat) (s : State)
    (h₀ : Within L s₀ s)
    (hL : [.regs, .live, .host, .deck, .ing, .out] ⊆ L) : Within L s₀ (rejectSv n code i pipe s) := by
  unfold rejectSv
  with_reducible repeat' first
    | assumption
    | exact List.Subset.trans (by decide) hL
    | apply rejectFrame_within
    | apply setSv_within

theorem svCapture_within {L : List Part} {s₀ : State} (v : SvSample) (s : State) (h₀ : Within L s₀ s)
    (hL : [.cap] ⊆ L) : Within L s₀ (svCapture v s) := by
  unfold svCapture
  repeat' ((with_reducible apply Within.lit); all_goals first | exact Or.inl (hL (by decide)) | with_reducible exact Or.inr rfl | with_reducible assumption)

theorem svDeliver_within {L : List Part} {s₀ : State} (n : Nat) (c : SvSub) (i : IngItem) (a : SvAsdu) (s : State)
    (h₀ : Within L s₀ s)
    (hL : [.regs, .free, .host, .deck, .ing, .scales, .cap, .pair, .ledger, .out] ⊆ L) : Within L s₀ (svDeliver n c i a s) := by
  unfold svDeliver
  with_reducible repeat' first
    | assumption
    | exact List.Subset.trans (by decide) hL
    | apply Within.ite
    | apply setSv_within
    | apply svCapture_within
    | apply svArrive_within

theorem unknownSource_within {L : List Part} {s₀ : State} (i : IngItem) (id : Nat) (addr : Nat) (sv : Bool) (s : State)
    (h₀ : Within L s₀ s)
    (hL : [.regs, .live, .host, .deck, .out] ⊆ L) : Within L s₀ (unknownSource i id addr sv s) := by
  unfold unknownSource
  with_reducible repeat' first
    | assumption
    | exact List.Subset.trans (by decide) hL
    | apply Within.ite
    | apply countCode_within
    | apply wr_within
    | apply raise_within

theorem parseSub_within {L : List Part} {s₀ : State} (i : IngItem) (pipe : Nat) (addr : Nat) (f : SvFrame) (spdu : Option Nat) (s0 : State)
    (h₀ : Within L s₀ s0)
    (hL : [.regs, .live, .free, .host, .deck, .ing, .scales, .cap, .pair, .ledger, .out] ⊆ L) :
    Within L s₀ (parseSub i pipe addr f spdu s0) := by
  unfold parseSub
  with_reducible repeat' first
    | exact Within.refl _
    | assumption
    | exact List.Subset.trans (by decide) hL
    | (intro _; try dsimp only)
    | apply Within.ite
    | apply svTo_within
    | apply rejectSv_within
    | apply countCode_within
    | apply setSv_within
    | apply svDeliver_within
    | apply unknownSource_within
    | apply Within.foldl
    | split

theorem parseRsv_within {L : List Part} {s₀ : State} (i : IngItem) (pipe : Nat) (ip : Nat) (r : RsvSession) (f : SvFrame) (s : State)
    (h₀ : Within L s₀ s)
    (hL : [.regs, .live, .free, .host, .deck, .ing, .scales, .cap, .pair, .ledger, .out] ⊆ L) :
    Within L s₀ (parseRsv i pipe ip r f s) := by
  unfold parseRsv
  with_reducible repeat' first
    | assumption
    | exact List.Subset.trans (by decide) hL
    | apply Within.ite
    | apply rejectFrame_within
    | apply parseSub_within

theorem parseSv_within {L : List Part} {s₀ : State} (i : IngItem) (pipe : Nat) (f : SvFrame) (s : State) (h₀ : Within L s₀ s)
    (hL : [.regs, .live, .free, .host, .deck, .ing, .scales, .cap, .pair, .ledger, .out] ⊆ L) :
    Within L s₀ (parseSv i pipe f s) := by
  unfold parseSv
  with_reducible repeat' first
    | assumption
    | exact List.Subset.trans (by decide) hL
    | apply Within.ite
    | apply rejectFrame_within
    | apply parseSub_within

theorem forwardRing_within {L : List Part} {s₀ : State} (i : IngItem) (s : State) (h₀ : Within L s₀ s)
    (hL : [.regs, .live, .host, .deck, .ports, .out] ⊆ L) : Within L s₀ (forwardRing i s) := by
  unfold forwardRing
  with_reducible repeat' first
    | assumption
    | exact List.Subset.trans (by decide) hL
    | apply countCode_within
    | apply toRing_within

theorem parseCfg_within {L : List Part} {s₀ : State} (i : IngItem) (ip : Nat) (f : C37Frame) (s : State) (h₀ : Within L s₀ s)
    (hL : [.regs, .live, .host, .deck, .ports, .ing, .out] ⊆ L) : Within L s₀ (parseCfg i ip f s) := by
  unfold parseCfg
  with_reducible repeat' first
    | exact Within.refl _
    | assumption
    | exact List.Subset.trans (by decide) hL
    | (intro _; try dsimp only)
    | apply Within.ite
    | apply rejectFrame_within
    | apply forwardRing_within
    | apply cfgCompare_within
    | apply unknownSource_within
    | apply setFrag_within
    | apply Within.foldl
    | split

theorem rejectStream_within {L : List Part} {s₀ : State} (n : Nat) (code : Nat) (i : IngItem) (k : Nat) (s : State)
    (h₀ : Within L s₀ s)
    (hL : [.regs, .live, .host, .deck, .ing, .out] ⊆ L) : Within L s₀ (rejectStream n code i k s) := by
  unfold rejectStream
  with_reducible repeat' first
    | assumption
    | exact List.Subset.trans (by decide) hL
    | apply setStream_within
    | apply rejectFrame_within

theorem parseBlock_within {L : List Part} {s₀ : State} (i : IngItem) (pipe : Nat) (g : GroupCfg) (f : C37Frame) (lenOk : Bool) (n : Nat) (c : StreamCfg) (s : State)
    (h₀ : Within L s₀ s)
    (hL : [.regs, .live, .host, .deck, .ing, .mkt, .out] ⊆ L) : Within L s₀ (parseBlock i pipe g f lenOk n c s) := by
  unfold parseBlock
  with_reducible repeat' first
    | assumption
    | exact List.Subset.trans (by decide) hL
    | apply Within.ite
    | apply acceptValue_within
    | apply streamTo_within
    | apply rejectStream_within
    | apply countCode_within
    | apply measureStream_within
    | apply raise_within
    | split

theorem parseData_within {L : List Part} {s₀ : State} (i : IngItem) (pipe : Nat) (ip : Nat) (f : C37Frame) (s : State)
    (h₀ : Within L s₀ s)
    (hL : [.regs, .live, .host, .deck, .ing, .mkt, .out] ⊆ L) : Within L s₀ (parseData i pipe ip f s) := by
  unfold parseData
  with_reducible repeat' first
    | exact Within.refl _
    | assumption
    | exact List.Subset.trans (by decide) hL
    | (intro _; try dsimp only)
    | apply parseBlock_within
    | apply unknownSource_within
    | apply Within.foldl
    | split

theorem parseC37_within {L : List Part} {s₀ : State} (i : IngItem) (pipe : Nat) (ip : Nat) (f : C37Frame) (s : State)
    (h₀ : Within L s₀ s)
    (hL : [.regs, .live, .host, .deck, .ports, .ing, .mkt, .out] ⊆ L) : Within L s₀ (parseC37 i pipe ip f s) := by
  unfold parseC37
  with_reducible repeat' first
    | assumption
    | exact List.Subset.trans (by decide) hL
    | apply parseCfg_within
    | apply rejectFrame_within
    | apply forwardRing_within
    | apply parseData_within
    | split

theorem parseItem_within {L : List Part} {s₀ : State} (pipe : Nat) (i : IngItem) (s : State) (h₀ : Within L s₀ s)
    (hL : [.regs, .live, .free, .host, .deck, .ports, .ing, .mkt, .scales, .cap, .pair, .ledger, .out] ⊆ L) :
    Within L s₀ (parseItem pipe i s) := by
  unfold parseItem
  with_reducible repeat' first
    | assumption
    | exact List.Subset.trans (by decide) hL
    | apply parseRsv_within
    | apply parseSv_within
    | apply parseC37_within
    | split

theorem ingestParse_within {L : List Part} {s₀ : State} (k : Nat) (s : State) (h₀ : Within L s₀ s)
    (hL : [.regs, .live, .free, .host, .deck, .ports, .ing, .mkt, .scales, .cap, .pair, .ledger, .out] ⊆ L) :
    Within L s₀ (ingestParse k s) := by
  unfold ingestParse
  with_reducible repeat' first
    | assumption
    | exact List.Subset.trans (by decide) hL
    | apply parseItem_within
    | apply setFifo_within
    | apply refillFifo_within
    | apply count_within
    | split

theorem execIngestParse_within {L : List Part} {s₀ : State} (k : Fin 4) (s : State) (h₀ : Within L s₀ s)
    (hL : [.regs, .live, .free, .host, .deck, .ports, .ing, .mkt, .scales, .cap, .pair, .ledger, .out] ⊆ L) :
    AnswersIn L s₀ (execIngestParse k s) := by
  unfold execIngestParse
  with_reducible repeat' first
    | assumption
    | apply Within.ite
    | apply AnswersIn.inFull
    | apply ingestParse_within

theorem ingestSnapshot_within {L : List Part} {s₀ : State} (clr : Bool) (s : State)
    (h₀ : Within L s₀ s) (hL : [.regs, .live, .host, .deck, .out] ⊆ L) :
    Within L s₀ (ingestSnapshot clr s) :=
  raise_within _ _ _ (Within.forUpTo (snapshot_within _ _ _ _ _ h₀ (List.Subset.trans (by decide) hL))
    fun _ u => snapOne_within _ _ u (Within.refl u) (List.Subset.trans (by decide) hL)) (List.Subset.trans (by decide) hL)

theorem execIngestSnapshot_within {L : List Part} {s₀ : State} (who : Req) (clr : Bool) (s : State) (h₀ : Within L s₀ s)
    (hL : [.regs, .live, .host, .deck, .out] ⊆ L) : AnswersIn L s₀ (execIngestSnapshot who clr s) := by
  unfold execIngestSnapshot
  with_reducible repeat' first
    | exact Within.refl _
    | assumption
    | exact List.Subset.trans (by decide) hL
    | (intro _; try dsimp only)
    | apply AnswersIn.next
    | apply ingestSnapshot_within
    | apply serve_within

theorem latAged_within {L : List Part} {s₀ : State} (s : State) (h₀ : Within L s₀ s)
    (hL : [.regs, .host, .deck, .ing, .mkt, .out] ⊆ L) : Within L s₀ (latAged s) := by
  unfold latAged
  repeat' first
    | exact List.Subset.trans (by decide) hL
    | ((with_reducible apply Within.lit); all_goals first | exact Or.inl (hL (by decide)) | with_reducible exact Or.inr rfl | with_reducible assumption | with_reducible apply raise_within)

theorem execLatAged_within {L : List Part} {s₀ : State} (s : State) (h₀ : Within L s₀ s)
    (hL : [.regs, .host, .deck, .ing, .mkt, .out] ⊆ L) : AnswersIn L s₀ (execLatAged s) := by
  unfold execLatAged
  with_reducible repeat' first
    | assumption
    | apply Within.ite
    | apply AnswersIn.inFull
    | apply latAged_within

theorem execLatClear_within {L : List Part} {s₀ : State} (who : Req) (s : State) (h₀ : Within L s₀ s)
    (hL : [.host, .ing] ⊆ L) : AnswersIn L s₀ (execLatClear who s) := by
  unfold execLatClear
  with_reducible repeat' first
    | exact Within.refl _
    | assumption
    | exact List.Subset.trans (by decide) hL
    | (intro _; try dsimp only)
    | apply AnswersIn.next
    | apply setStream_within
    | apply serve_within

theorem sendSource_within {L : List Part} {s₀ : State} (n : Nat) (cmd : SourceCmd) (q : Nat) (prio : Nat) (s : State)
    (h₀ : Within L s₀ s)
    (hL : [.regs, .live, .host, .deck, .ports, .ing, .egr, .out] ⊆ L) : Within L s₀ (sendSource n cmd q prio s) := by
  unfold sendSource
  with_reducible repeat' first
    | assumption
    | exact List.Subset.trans (by decide) hL
    | apply Within.ite
    | apply setStream_within
    | apply nextItem_within
    | apply qLand_within

theorem execSourceCommandSend_within {L : List Part} {s₀ : State} (n : BitVec 14) (cmd : SourceCmd) (q : Fin 32) (prio : Fin 8) (s : State)
    (h₀ : Within L s₀ s)
    (hL : [.regs, .live, .host, .deck, .ports, .ing, .egr, .out] ⊆ L) :
    AnswersIn L s₀ (execSourceCommandSend n cmd q prio s) := by
  unfold execSourceCommandSend
  with_reducible repeat' first
    | assumption
    | apply AnswersIn.inFull
    | apply sendSource_within
    | split

theorem streamLoad_within {L : List Part} {s₀ : State} (s : State) (h₀ : Within L s₀ s)
    (hL : [.regs] ⊆ L) : Within L s₀ (streamLoad s) := by
  unfold streamLoad
  with_reducible repeat' first
    | assumption
    | apply setStat_within
    | apply wrWords_within
    | split

theorem execStreamLoad_within {L : List Part} {s₀ : State} (who : Req) (s : State) (h₀ : Within L s₀ s)
    (hL : [.regs, .host] ⊆ L) : AnswersIn L s₀ (execStreamLoad who s) := by
  unfold execStreamLoad
  with_reducible repeat' first
    | exact Within.refl _
    | assumption
    | exact List.Subset.trans (by decide) hL
    | (intro _; try dsimp only)
    | apply AnswersIn.next
    | apply streamLoad_within
    | apply serve_within

end Sys2Proof.Machine
end

