-- ==== Sys2Proof/Laws/WithinTill.lean ====
section
/-!
SUPPORT. Which parts each operation can change (Safety.Within): the Till, the Nest, the power and the Ledger.
-/

namespace Sys2Proof.Machine

open Sys2Proof

set_option Elab.async false
set_option linter.all false

set_option maxRecDepth 4000

theorem tillEnter_within {L : List Part} {s₀ : State} (c : Instr) (who : Req) (code : Nat) (more : Bool) (cert : Bool) (ok : Bool) (s : State)
    (h₀ : Within L s₀ s)
    (hL : [.regs, .free, .host, .till] ⊆ L) : Within L s₀ (tillEnter c who code more cert ok s) := by
  unfold tillEnter
  repeat' first
    | exact List.Subset.trans (by decide) hL
    | ((with_reducible apply Within.lit); all_goals first | exact Or.inl (hL (by decide)) | with_reducible exact Or.inr rfl | with_reducible assumption | with_reducible apply Within.ite | with_reducible apply tillStart_within | with_reducible apply holdWrite_within)

theorem tillCmd_within {L : List Part} {s₀ : State} (c : Instr) (who : Req) (code : Nat) (more : Bool) (cert : Bool) (ok : Bool) (s : State)
    (h₀ : Within L s₀ s)
    (hL : [.regs, .free, .host, .till] ⊆ L) : Within L s₀ (tillCmd c who code more cert ok s) := by
  unfold tillCmd
  with_reducible repeat' first
    | exact Within.refl _
    | assumption
    | exact List.Subset.trans (by decide) hL
    | (intro _; try dsimp only)
    | apply tillEnter_within
    | apply serve_within

theorem execAttest_within {L : List Part} {s₀ : State} (who : Req) (s : State) (h₀ : Within L s₀ s)
    (hL : [.regs, .free, .host, .till] ⊆ L) : AnswersIn L s₀ (execAttest who s) := by
  unfold execAttest
  with_reducible repeat' first
    | assumption
    | apply AnswersIn.next
    | apply tillCmd_within

theorem execAuth_within {L : List Part} {s₀ : State} (who : Req) (ok : Bool) (s : State) (h₀ : Within L s₀ s)
    (hL : [.regs, .free, .host, .till] ⊆ L) : AnswersIn L s₀ (execAuth who ok s) := by
  unfold execAuth
  with_reducible repeat' first
    | assumption
    | apply AnswersIn.next
    | apply tillCmd_within

theorem execAuthReq_within {L : List Part} {s₀ : State} (who : Req) (s : State) (h₀ : Within L s₀ s)
    (hL : [.regs, .free, .host, .till] ⊆ L) : AnswersIn L s₀ (execAuthReq who s) := by
  unfold execAuthReq
  with_reducible repeat' first
    | assumption
    | apply AnswersIn.next
    | apply tillCmd_within

theorem execAuthRequestExpiry_within {L : List Part} {s₀ : State} (op : Fin 4) (s : State) (h₀ : Within L s₀ s)
    (hL : [.till] ⊆ L) : AnswersIn L s₀ (execAuthRequestExpiry op s) := by
  unfold execAuthRequestExpiry
  with_reducible repeat' first
    | assumption
    | apply Within.ite
    | apply AnswersIn.powered
    | apply setAuth_within

theorem execCalEnrol_within {L : List Part} {s₀ : State} (who : Req) (s : State) (h₀ : Within L s₀ s)
    (hL : [.regs, .free, .host, .till] ⊆ L) : AnswersIn L s₀ (execCalEnrol who s) := by
  unfold execCalEnrol
  with_reducible repeat' first
    | assumption
    | apply AnswersIn.next
    | apply tillCmd_within

theorem execDecrypt_within {L : List Part} {s₀ : State} (who : Req) (more : Bool) (tagOk : Bool) (s : State) (h₀ : Within L s₀ s)
    (hL : [.regs, .free, .host, .till] ⊆ L) : AnswersIn L s₀ (execDecrypt who more tagOk s) := by
  unfold execDecrypt
  with_reducible repeat' first
    | assumption
    | apply AnswersIn.next
    | apply tillCmd_within

theorem execDerive_within {L : List Part} {s₀ : State} (who : Req) (s : State) (h₀ : Within L s₀ s)
    (hL : [.regs, .free, .host, .till] ⊆ L) : AnswersIn L s₀ (execDerive who s) := by
  unfold execDerive
  with_reducible repeat' first
    | assumption
    | apply AnswersIn.next
    | apply tillCmd_within

theorem execDestroy_within {L : List Part} {s₀ : State} (who : Req) (s : State) (h₀ : Within L s₀ s)
    (hL : [.regs, .free, .host, .till] ⊆ L) : AnswersIn L s₀ (execDestroy who s) := by
  unfold execDestroy
  with_reducible repeat' first
    | assumption
    | apply AnswersIn.next
    | apply tillCmd_within

theorem execEcdh_within {L : List Part} {s₀ : State} (who : Req) (s : State) (h₀ : Within L s₀ s)
    (hL : [.regs, .free, .host, .till] ⊆ L) : AnswersIn L s₀ (execEcdh who s) := by
  unfold execEcdh
  with_reducible repeat' first
    | assumption
    | apply AnswersIn.next
    | apply tillCmd_within

theorem execEncrypt_within {L : List Part} {s₀ : State} (who : Req) (more : Bool) (s : State) (h₀ : Within L s₀ s)
    (hL : [.regs, .free, .host, .till] ⊆ L) : AnswersIn L s₀ (execEncrypt who more s) := by
  unfold execEncrypt
  with_reducible repeat' first
    | assumption
    | apply AnswersIn.next
    | apply tillCmd_within

theorem execEnrol_within {L : List Part} {s₀ : State} (who : Req) (cert : Bool) (certOk : Bool) (s : State) (h₀ : Within L s₀ s)
    (hL : [.regs, .free, .host, .till] ⊆ L) : AnswersIn L s₀ (execEnrol who cert certOk s) := by
  unfold execEnrol
  with_reducible repeat' first
    | assumption
    | apply AnswersIn.next
    | apply tillCmd_within

theorem execGenerate_within {L : List Part} {s₀ : State} (who : Req) (pairOk : Bool) (s : State) (h₀ : Within L s₀ s)
    (hL : [.regs, .free, .host, .till] ⊆ L) : AnswersIn L s₀ (execGenerate who pairOk s) := by
  unfold execGenerate
  with_reducible repeat' first
    | assumption
    | apply AnswersIn.next
    | apply tillCmd_within

theorem gkExpiring_within {L : List Part} {s₀ : State} (i : Nat) (s : State) (h₀ : Within L s₀ s)
    (hL : [.regs, .host, .deck, .out] ⊆ L) : Within L s₀ (gkExpiring i s) := by
  unfold gkExpiring
  with_reducible repeat' first
    | assumption
    | apply raise_within
    | split

theorem execGkExpiring_within {L : List Part} {s₀ : State} (entry : Fin 256) (s : State) (h₀ : Within L s₀ s)
    (hL : [.regs, .host, .deck, .out] ⊆ L) : AnswersIn L s₀ (execGkExpiring entry s) := by
  unfold execGkExpiring
  with_reducible repeat' first
    | assumption
    | apply AnswersIn.powered
    | apply gkExpiring_within

theorem gkLoad_within {L : List Part} {s₀ : State} (i : Nat) (s : State) (h₀ : Within L s₀ s)
    (hL : [.regs] ⊆ L) : Within L s₀ (gkLoad i s) := by
  unfold gkLoad
  with_reducible repeat' first
    | assumption
    | apply wrWords_within
    | apply wr_within

theorem execGkLoad_within {L : List Part} {s₀ : State} (who : Req) (entry : BitVec 8) (s : State) (h₀ : Within L s₀ s)
    (hL : [.regs, .host] ⊆ L) : AnswersIn L s₀ (execGkLoad who entry s) := by
  unfold execGkLoad
  with_reducible repeat' first
    | exact Within.refl _
    | assumption
    | exact List.Subset.trans (by decide) hL
    | (intro _; try dsimp only)
    | apply AnswersIn.next
    | apply serve_within
    | apply gkLoad_within

theorem execGkMap_within {L : List Part} {s₀ : State} (who : Req) (s : State) (h₀ : Within L s₀ s)
    (hL : [.regs, .free, .host, .till] ⊆ L) : AnswersIn L s₀ (execGkMap who s) := by
  unfold execGkMap
  with_reducible repeat' first
    | assumption
    | apply AnswersIn.next
    | apply tillCmd_within

theorem execGkUnmap_within {L : List Part} {s₀ : State} (who : Req) (s : State) (h₀ : Within L s₀ s)
    (hL : [.regs, .free, .host, .till] ⊆ L) : AnswersIn L s₀ (execGkUnmap who s) := by
  unfold execGkUnmap
  with_reducible repeat' first
    | assumption
    | apply AnswersIn.next
    | apply tillCmd_within

theorem execHash_within {L : List Part} {s₀ : State} (who : Req) (more : Bool) (s : State) (h₀ : Within L s₀ s)
    (hL : [.regs, .free, .host, .till] ⊆ L) : AnswersIn L s₀ (execHash who more s) := by
  unfold execHash
  with_reducible repeat' first
    | assumption
    | apply AnswersIn.next
    | apply tillCmd_within

theorem execHmac_within {L : List Part} {s₀ : State} (who : Req) (more : Bool) (s : State) (h₀ : Within L s₀ s)
    (hL : [.regs, .free, .host, .till] ⊆ L) : AnswersIn L s₀ (execHmac who more s) := by
  unfold execHmac
  with_reducible repeat' first
    | assumption
    | apply AnswersIn.next
    | apply tillCmd_within

theorem keyExpiry_within {L : List Part} {s₀ : State} (n : Nat) (s : State) (h₀ : Within L s₀ s)
    (hL : [.till] ⊆ L) : Within L s₀ (keyExpiry n s) := by
  unfold keyExpiry
  with_reducible repeat' first
    | assumption
    | apply Within.ite
    | apply setSlot_within

theorem execKeyExpiry_within {L : List Part} {s₀ : State} (slot : Fin 1024) (s : State) (h₀ : Within L s₀ s)
    (hL : [.till] ⊆ L) : AnswersIn L s₀ (execKeyExpiry slot s) := by
  unfold execKeyExpiry
  with_reducible repeat' first
    | assumption
    | apply AnswersIn.powered
    | apply keyExpiry_within

theorem execPubkey_within {L : List Part} {s₀ : State} (who : Req) (s : State) (h₀ : Within L s₀ s)
    (hL : [.regs, .free, .host, .till] ⊆ L) : AnswersIn L s₀ (execPubkey who s) := by
  unfold execPubkey
  with_reducible repeat' first
    | assumption
    | apply AnswersIn.next
    | apply tillCmd_within

theorem execPurge_within {L : List Part} {s₀ : State} (who : Req) (s : State) (h₀ : Within L s₀ s)
    (hL : [.regs, .free, .host, .till] ⊆ L) : AnswersIn L s₀ (execPurge who s) := by
  unfold execPurge
  with_reducible repeat' first
    | assumption
    | apply AnswersIn.next
    | apply tillCmd_within

theorem execRandom_within {L : List Part} {s₀ : State} (who : Req) (s : State) (h₀ : Within L s₀ s)
    (hL : [.regs, .free, .host, .till] ⊆ L) : AnswersIn L s₀ (execRandom who s) := by
  unfold execRandom
  with_reducible repeat' first
    | assumption
    | apply AnswersIn.next
    | apply tillCmd_within

theorem execSign_within {L : List Part} {s₀ : State} (who : Req) (s : State) (h₀ : Within L s₀ s)
    (hL : [.regs, .free, .host, .till] ⊆ L) : AnswersIn L s₀ (execSign who s) := by
  unfold execSign
  with_reducible repeat' first
    | assumption
    | apply AnswersIn.next
    | apply tillCmd_within

theorem slotLoad_within {L : List Part} {s₀ : State} (n : Nat) (s : State) (h₀ : Within L s₀ s)
    (hL : [.regs] ⊆ L) : Within L s₀ (slotLoad n s) := by
  unfold slotLoad
  with_reducible repeat' first
    | assumption
    | apply wrWords_within
    | apply wr_within

theorem execSlotLoad_within {L : List Part} {s₀ : State} (who : Req) (slot : BitVec 10) (s : State) (h₀ : Within L s₀ s)
    (hL : [.regs, .host] ⊆ L) : AnswersIn L s₀ (execSlotLoad who slot s) := by
  unfold execSlotLoad
  with_reducible repeat' first
    | exact Within.refl _
    | assumption
    | exact List.Subset.trans (by decide) hL
    | (intro _; try dsimp only)
    | apply AnswersIn.next
    | apply slotLoad_within
    | apply serve_within

theorem tamperRun_within {L : List Part} {s₀ : State} (src : Nat) (s : State) (h₀ : Within L s₀ s)
    (hL : [.regs, .live, .free, .host, .deck, .ports, .egr, .till, .ledger, .boot, .nodeOk, .out] ⊆ L) :
    Within L s₀ (tamperRun src s) := by
  unfold tamperRun
  repeat' first
    | exact List.Subset.trans (by decide) hL
    | ((with_reducible apply Within.lit); all_goals first | exact Or.inl (hL (by decide)) | with_reducible exact Or.inr rfl | with_reducible assumption | with_reducible apply Within.ite | with_reducible apply logEvent_within | with_reducible apply tillStart_within | with_reducible apply abortRunning_within | with_reducible apply latchTamper_within | with_reducible apply zeroizeAll_within | with_reducible apply raise_within | with_reducible apply updateNodeOk_within)

theorem tamper_within {L : List Part} {s₀ : State} (sources : Nat) (s : State) (h₀ : Within L s₀ s)
    (hL : [.regs, .live, .free, .host, .deck, .ports, .egr, .till, .ledger, .boot, .nodeOk, .out] ⊆ L) :
    Within L s₀ (tamper sources s) := by
  unfold tamper
  repeat' first
    | exact List.Subset.trans (by decide) hL
    | ((with_reducible apply Within.lit); all_goals first | exact Or.inl (hL (by decide)) | with_reducible exact Or.inr rfl | with_reducible assumption | with_reducible apply Within.ite | with_reducible apply tamperRun_within | with_reducible apply latchTamper_within)

theorem execTamperTrip_within {L : List Part} {s₀ : State} (sources : BitVec 6) (s : State) (h₀ : Within L s₀ s)
    (hL : [.regs, .live, .free, .host, .deck, .ports, .egr, .till, .ledger, .boot, .nodeOk, .out] ⊆ L) :
    AnswersIn L s₀ (execTamperTrip sources s) := by
  unfold execTamperTrip
  with_reducible repeat' first
    | assumption
    | apply AnswersIn.next
    | apply tamper_within

theorem tillDone_within {L : List Part} {s₀ : State} (s : State)
    (h₀ : Within L s₀ s) (hL : [.regs, .live, .ticks, .tai, .free, .mast, .host, .deck, .ports, .ing, .mkt, .scales, .cap, .pak, .nest, .egr, .pair, .till, .mem, .ledger, .sentry, .boot, .power, .nodeOk, .cfg, .out] ⊆ L) : Within L s₀ (tillDone s) := by
  have h : Within L s₀ (tillFinish (if s.till.running.isSome then count evTILL_OPERATIONS 1 s else s)) :=
    tillFinish_within _ (Within.ite (count_within _ _ _ h₀ (List.Subset.trans (by decide) hL)) h₀) (List.Subset.trans (by decide) hL)
  unfold tillDone
  dsimp only
  generalize tillFinish (if s.till.running.isSome then count evTILL_OPERATIONS 1 s else s) = t at h ⊢
  split
  · exact dieReset_within _ h (List.Subset.trans (by decide) hL)
  · exact tillStart_within _ h (List.Subset.trans (by decide) hL)

theorem execTillCommandDone_within {L : List Part} {s₀ : State} (s : State) (h₀ : Within L s₀ s)
    (hL : [.regs, .live, .ticks, .tai, .free, .mast, .host, .deck, .ports, .ing, .mkt, .scales, .cap, .pak, .nest, .egr, .pair, .till, .mem, .ledger, .sentry, .boot, .power, .nodeOk, .cfg, .out] ⊆ L) :
    AnswersIn L s₀ (execTillCommandDone s) := by
  unfold execTillCommandDone
  with_reducible repeat' first
    | assumption
    | apply AnswersIn.powered
    | apply tillDone_within

theorem execTillOpTimeout_within {L : List Part} {s₀ : State} (deck : Bool) (s : State) (h₀ : Within L s₀ s)
    (hL : [.till] ⊆ L) : AnswersIn L s₀ (execTillOpTimeout deck s) := by
  unfold execTillOpTimeout
  with_reducible repeat' first
    | assumption
    | apply Within.ite
    | apply AnswersIn.powered
    | apply setOpen_within

theorem execUnwrap_within {L : List Part} {s₀ : State} (who : Req) (ok : Bool) (s : State) (h₀ : Within L s₀ s)
    (hL : [.regs, .free, .host, .till] ⊆ L) : AnswersIn L s₀ (execUnwrap who ok s) := by
  unfold execUnwrap
  with_reducible repeat' first
    | assumption
    | apply AnswersIn.next
    | apply tillCmd_within

theorem execVerify_within {L : List Part} {s₀ : State} (who : Req) (ok : Bool) (s : State) (h₀ : Within L s₀ s)
    (hL : [.regs, .free, .host, .till] ⊆ L) : AnswersIn L s₀ (execVerify who ok s) := by
  unfold execVerify
  with_reducible repeat' first
    | assumption
    | apply AnswersIn.next
    | apply tillCmd_within

theorem execWrap_within {L : List Part} {s₀ : State} (who : Req) (s : State) (h₀ : Within L s₀ s)
    (hL : [.regs, .free, .host, .till] ⊆ L) : AnswersIn L s₀ (execWrap who s) := by
  unfold execWrap
  with_reducible repeat' first
    | assumption
    | apply AnswersIn.next
    | apply tillCmd_within

theorem execZeroize_within {L : List Part} {s₀ : State} (who : Req) (s : State) (h₀ : Within L s₀ s)
    (hL : [.regs, .free, .host, .till] ⊆ L) : AnswersIn L s₀ (execZeroize who s) := by
  unfold execZeroize
  with_reducible repeat' first
    | assumption
    | apply AnswersIn.next
    | apply tillCmd_within

theorem basePeriodic_within {L : List Part} {s₀ : State} (s : State) (h₀ : Within L s₀ s)
    (hL : [.regs, .host, .deck, .nest, .out] ⊆ L) : Within L s₀ (basePeriodic s) := by
  unfold basePeriodic
  with_reducible repeat' first
    | assumption
    | exact List.Subset.trans (by decide) hL
    | apply Within.ite
    | apply baselineSave_within
    | apply setNest_within

theorem brLoad_within {L : List Part} {s₀ : State} (k : Nat) (s : State) (h₀ : Within L s₀ s)
    (hL : [.regs] ⊆ L) : Within L s₀ (brLoad k s) := by
  unfold brLoad
  with_reducible repeat' first
    | assumption
    | apply wr_within

theorem busLoad_within {L : List Part} {s₀ : State} (k : Nat) (s : State) (h₀ : Within L s₀ s)
    (hL : [.regs] ⊆ L) : Within L s₀ (busLoad k s) := by
  unfold busLoad
  with_reducible repeat' first
    | assumption
    | apply wr_within

theorem execBaselineSave_within {L : List Part} {s₀ : State} (s : State) (h₀ : Within L s₀ s)
    (hL : [.regs, .host, .deck, .nest, .out] ⊆ L) : AnswersIn L s₀ (execBaselineSave s) := by
  unfold execBaselineSave
  with_reducible repeat' first
    | assumption
    | apply AnswersIn.inFull
    | apply basePeriodic_within

theorem saveNow_within {L : List Part} {s₀ : State} (s : State) (h₀ : Within L s₀ s)
    (hL : [.nest] ⊆ L) : Within L s₀ (saveNow s) := by
  unfold saveNow
  with_reducible repeat' first
    | assumption
    | apply Within.ite
    | apply setNest_within

theorem execBaselineSaveNow_within {L : List Part} {s₀ : State} (who : Req) (s : State) (h₀ : Within L s₀ s)
    (hL : [.host, .nest] ⊆ L) : AnswersIn L s₀ (execBaselineSaveNow who s) := by
  unfold execBaselineSaveNow
  with_reducible repeat' first
    | exact Within.refl _
    | assumption
    | exact List.Subset.trans (by decide) hL
    | (intro _; try dsimp only)
    | apply AnswersIn.next
    | apply serve_within
    | apply saveNow_within

theorem execBrLoad_within {L : List Part} {s₀ : State} (who : Req) (k : BitVec 15) (s : State) (h₀ : Within L s₀ s)
    (hL : [.regs, .host] ⊆ L) : AnswersIn L s₀ (execBrLoad who k s) := by
  unfold execBrLoad
  with_reducible repeat' first
    | exact Within.refl _
    | assumption
    | exact List.Subset.trans (by decide) hL
    | (intro _; try dsimp only)
    | apply AnswersIn.next
    | apply brLoad_within
    | apply serve_within

theorem execBusLoad_within {L : List Part} {s₀ : State} (who : Req) (k : BitVec 14) (s : State) (h₀ : Within L s₀ s)
    (hL : [.regs, .host] ⊆ L) : AnswersIn L s₀ (execBusLoad who k s) := by
  unfold execBusLoad
  with_reducible repeat' first
    | exact Within.refl _
    | assumption
    | exact List.Subset.trans (by decide) hL
    | (intro _; try dsimp only)
    | apply AnswersIn.next
    | apply busLoad_within
    | apply serve_within

theorem execIslAbort_within {L : List Part} {s₀ : State} (who : Req) (s : State) (h₀ : Within L s₀ s)
    (hL : [.host] ⊆ L) : AnswersIn L s₀ (execIslAbort who s) := by
  unfold execIslAbort
  with_reducible repeat' first
    | exact Within.refl _
    | assumption
    | (intro _; try dsimp only)
    | apply AnswersIn.next
    | apply endWindow_within
    | apply serve_within

theorem islStat_within {L : List Part} {s₀ : State} (s : State) (k : Nat) (h₀ : Within L s₀ s)
    (hL : [.regs] ⊆ L) : Within L s₀ (islStat s k) := by
  unfold islStat
  with_reducible repeat' first
    | assumption
    | apply wr_within

theorem islLoad_within {L : List Part} {s₀ : State} (s : State) (h₀ : Within L s₀ s)
    (hL : [.regs] ⊆ L) : Within L s₀ (islLoad s) := by
  unfold islLoad
  with_reducible repeat' first
    | assumption
    | apply wrWords_within
    | apply islStat_within

theorem execIslLoad_within {L : List Part} {s₀ : State} (who : Req) (s : State) (h₀ : Within L s₀ s)
    (hL : [.regs, .host] ⊆ L) : AnswersIn L s₀ (execIslLoad who s) := by
  unfold execIslLoad
  with_reducible repeat' first
    | exact Within.refl _
    | assumption
    | exact List.Subset.trans (by decide) hL
    | (intro _; try dsimp only)
    | apply AnswersIn.next
    | apply islLoad_within
    | apply serve_within

theorem islMembers_within {L : List Part} {s₀ : State} (s : State) (h₀ : Within L s₀ s)
    (hL : [.regs, .host] ⊆ L) : Within L s₀ (islMembers s) := by
  unfold islMembers
  with_reducible repeat' first
    | assumption
    | exact List.Subset.trans (by decide) hL
    | apply Within.ite
    | apply openWindow_within
    | apply openEmpty_within
    | apply islStat_within

theorem execIslMembers_within {L : List Part} {s₀ : State} (who : Req) (s : State) (h₀ : Within L s₀ s)
    (hL : [.regs, .host] ⊆ L) : AnswersIn L s₀ (execIslMembers who s) := by
  unfold execIslMembers
  with_reducible repeat' first
    | exact Within.refl _
    | assumption
    | exact List.Subset.trans (by decide) hL
    | (intro _; try dsimp only)
    | apply AnswersIn.next
    | apply islMembers_within
    | apply serve_within

theorem execModeAbort_within {L : List Part} {s₀ : State} (who : Req) (s : State) (h₀ : Within L s₀ s)
    (hL : [.host] ⊆ L) : AnswersIn L s₀ (execModeAbort who s) := by
  unfold execModeAbort
  with_reducible repeat' first
    | exact Within.refl _
    | assumption
    | (intro _; try dsimp only)
    | apply AnswersIn.next
    | apply endWindow_within
    | apply serve_within

theorem modeLoad_within {L : List Part} {s₀ : State} (s : State) (h₀ : Within L s₀ s)
    (hL : [.regs] ⊆ L) : Within L s₀ (modeLoad s) := by
  unfold modeLoad
  with_reducible repeat' first
    | assumption
    | apply wrWords_within
    | apply wr_within

theorem execModeLoad_within {L : List Part} {s₀ : State} (who : Req) (s : State) (h₀ : Within L s₀ s)
    (hL : [.regs, .host] ⊆ L) : AnswersIn L s₀ (execModeLoad who s) := by
  unfold execModeLoad
  with_reducible repeat' first
    | exact Within.refl _
    | assumption
    | exact List.Subset.trans (by decide) hL
    | (intro _; try dsimp only)
    | apply AnswersIn.next
    | apply modeLoad_within
    | apply serve_within

theorem modeShape_within {L : List Part} {s₀ : State} (s : State) (h₀ : Within L s₀ s)
    (hL : [.regs, .host] ⊆ L) : Within L s₀ (modeShape s) := by
  unfold modeShape
  with_reducible repeat' first
    | assumption
    | exact List.Subset.trans (by decide) hL
    | apply Within.ite
    | apply openWindow_within
    | apply wr_within
    | apply openEmpty_within

theorem execModeShape_within {L : List Part} {s₀ : State} (who : Req) (s : State) (h₀ : Within L s₀ s)
    (hL : [.regs, .host] ⊆ L) : AnswersIn L s₀ (execModeShape who s) := by
  unfold execModeShape
  with_reducible repeat' first
    | exact Within.refl _
    | assumption
    | exact List.Subset.trans (by decide) hL
    | (intro _; try dsimp only)
    | apply AnswersIn.next
    | apply serve_within
    | apply modeShape_within

theorem execOscSnapshot_within {L : List Part} {s₀ : State} (who : Req) (clr : Bool) (s : State) (h₀ : Within L s₀ s)
    (hL : [.regs, .live, .host, .deck, .out] ⊆ L) : AnswersIn L s₀ (execOscSnapshot who clr s) := by
  unfold execOscSnapshot
  with_reducible repeat' first
    | exact Within.refl _
    | assumption
    | exact List.Subset.trans (by decide) hL
    | (intro _; try dsimp only)
    | apply AnswersIn.next
    | apply snapshot_within
    | apply serve_within
    | apply raise_within

theorem sigLoad_within {L : List Part} {s₀ : State} (k : Nat) (s : State) (h₀ : Within L s₀ s)
    (hL : [.regs] ⊆ L) : Within L s₀ (sigLoad k s) := by
  unfold sigLoad
  with_reducible repeat' first
    | assumption
    | apply wrWords_within
    | apply wr_within

theorem execSigLoad_within {L : List Part} {s₀ : State} (who : Req) (sig : BitVec 13) (s : State) (h₀ : Within L s₀ s)
    (hL : [.regs, .host] ⊆ L) : AnswersIn L s₀ (execSigLoad who sig s) := by
  unfold execSigLoad
  with_reducible repeat' first
    | exact Within.refl _
    | assumption
    | exact List.Subset.trans (by decide) hL
    | (intro _; try dsimp only)
    | apply AnswersIn.next
    | apply serve_within
    | apply sigLoad_within

theorem interTimeout_within {L : List Part} {s₀ : State} (k : Nat) (s : State) (h₀ : Within L s₀ s)
    (hL : [.nest] ⊆ L) : Within L s₀ (interTimeout k s) := by
  unfold interTimeout
  with_reducible repeat' first
    | assumption
    | apply setNest_within
    | split

theorem execStatusInterTimeout_within {L : List Part} {s₀ : State} (k : BitVec 16) (s : State) (h₀ : Within L s₀ s)
    (hL : [.nest] ⊆ L) : AnswersIn L s₀ (execStatusInterTimeout k s) := by
  unfold execStatusInterTimeout
  with_reducible repeat' first
    | assumption
    | apply AnswersIn.inFull
    | apply interTimeout_within

theorem execTopoSnapshot_within {L : List Part} {s₀ : State} (who : Req) (clr : Bool) (s : State) (h₀ : Within L s₀ s)
    (hL : [.regs, .live, .host, .deck, .out] ⊆ L) : AnswersIn L s₀ (execTopoSnapshot who clr s) := by
  unfold execTopoSnapshot
  with_reducible repeat' first
    | exact Within.refl _
    | assumption
    | exact List.Subset.trans (by decide) hL
    | (intro _; try dsimp only)
    | apply AnswersIn.next
    | apply snapshot_within
    | apply serve_within
    | apply raise_within

theorem actAbandon_within {L : List Part} {s₀ : State} (s : State) (h₀ : Within L s₀ s)
    (hL : [.regs, .host, .deck, .boot, .out] ⊆ L) : Within L s₀ (actAbandon s) := by
  unfold actAbandon
  repeat' first
    | exact List.Subset.trans (by decide) hL
    | ((with_reducible apply Within.lit); all_goals first | exact Or.inl (hL (by decide)) | with_reducible exact Or.inr rfl | with_reducible assumption | with_reducible apply Within.ite | with_reducible apply botEnd_within)

theorem cycNoRef_within {L : List Part} {s₀ : State} (s : State) (h₀ : Within L s₀ s)
    (hL : [.regs, .mast, .host, .deck, .out] ⊆ L) : Within L s₀ (cycNoRef s) := by
  unfold cycNoRef
  with_reducible repeat' first
    | assumption
    | apply Within.ite
    | apply cycLeave_within

theorem finalFlush_within {L : List Part} {s₀ : State} (s : State) (h₀ : Within L s₀ s)
    (hL : [.regs, .live, .free, .host, .deck, .ports, .scales, .nest, .egr, .pair, .ledger, .sentry, .boot, .nodeOk, .out] ⊆ L) :
    Within L s₀ (finalFlush s) := by
  unfold finalFlush
  repeat' first
    | exact List.Subset.trans (by decide) hL
    | ((with_reducible apply Within.lit); all_goals first | exact Or.inl (hL (by decide)) | with_reducible exact Or.inr rfl | with_reducible assumption | with_reducible apply Within.ite | with_reducible apply ahSave_within | with_reducible apply baselineSave_within | with_reducible apply flushRun_within | with_reducible apply setLedger_within | with_reducible apply reefSettle_within)

theorem holdupChange_within {L : List Part} {s₀ : State} (s : State) (t : State) (h₀ : Within L s₀ t)
    (hL : [.regs, .host, .deck, .ledger, .out] ⊆ L) : Within L s₀ (holdupChange s t) := by
  unfold holdupChange
  with_reducible repeat' first
    | assumption
    | exact List.Subset.trans (by decide) hL
    | apply Within.ite
    | apply setStat_within
    | apply logEvent_within
    | apply raise_within

theorem holdupEnd_within {L : List Part} {s₀ : State} (s : State) (h₀ : Within L s₀ s)
    (hL : [.regs, .live, .ticks, .tai, .free, .mast, .host, .deck, .ports, .ing, .mkt, .scales, .cap, .pak, .nest, .egr, .pair, .till, .mem, .ledger, .sentry, .boot, .power, .nodeOk, .cfg, .out] ⊆ L) :
    Within L s₀ (holdupEnd s) := by
  unfold holdupEnd
  with_reducible repeat' first
    | assumption
    | exact List.Subset.trans (by decide) hL
    | apply logEvent_within
    | apply powerOff_within
    | apply finalFlush_within

theorem portOff_within {L : List Part} {s₀ : State} (p : Nat) (s : State) (h₀ : Within L s₀ s)
    (hL : [.regs, .live, .host, .deck, .ports, .out] ⊆ L) : Within L s₀ (portOff p s) := by
  unfold portOff
  with_reducible repeat' first
    | assumption
    | exact List.Subset.trans (by decide) hL
    | apply Within.ite
    | apply linkChange_within
    | apply setPort_within

theorem setPower_within {L : List Part} {s₀ : State} (f : Power → Power) (s : State) (h₀ : Within L s₀ s)
    (hL : [.power] ⊆ L) : Within L s₀ (setPower f s) := by
  unfold setPower
  repeat' ((with_reducible apply Within.lit); all_goals first | exact Or.inl (hL (by decide)) | with_reducible exact Or.inr rfl | with_reducible assumption)

theorem railMeasure_within {L : List Part} {s₀ : State} (k : Nat) (mv : Nat) (ma : Nat) (s : State) (h₀ : Within L s₀ s)
    (hL : [.regs, .host, .deck, .ledger, .power, .out] ⊆ L) : Within L s₀ (railMeasure k mv ma s) := by
  unfold railMeasure
  with_reducible repeat' first
    | assumption
    | exact List.Subset.trans (by decide) hL
    | apply Within.ite
    | apply logEvent_within
    | apply setPower_within
    | apply wrF_within
    | apply raise_within

theorem reefFlush_within {L : List Part} {s₀ : State} (s : State) (h₀ : Within L s₀ s)
    (hL : [.regs, .live, .host, .deck, .ports, .egr, .pair, .ledger, .sentry, .boot, .nodeOk, .out] ⊆ L) :
    Within L s₀ (reefFlush s) := by
  unfold reefFlush
  with_reducible repeat' first
    | assumption
    | exact List.Subset.trans (by decide) hL
    | apply Within.ite
    | apply trackWrite_within
    | apply flushRun_within
    | apply setLedger_within

theorem reefStop_within {L : List Part} {s₀ : State} (s : State)
    (h₀ : Within L s₀ s) (hL : [.regs, .live, .mast, .host, .deck, .ports, .ing, .mkt, .cap, .pak, .nest, .egr, .pair, .ledger, .boot, .nodeOk, .out] ⊆ L) :
    Within L s₀ (reefStop s) := by
  have h1 := ribLose_within _ (shroudChange_within 1 false _ (shroudChange_within 0 false _
    (Within.forUpTo (n := 64) (actAbandon_within s h₀ (List.Subset.trans (by decide) hL)) fun k u => portOff_within k u (Within.refl u) (List.Subset.trans (by decide) hL)) (List.Subset.trans (by decide) hL)) (List.Subset.trans (by decide) hL)) (List.Subset.trans (by decide) hL)
  unfold reefStop
  dsimp only at h1 ⊢
  generalize ribLose _ = s1 at *
  have h2 : Within L s₀ { s1 with
      boot := { s1.boot with dataPath := false }, ing := { s1.ing with fifo := [], handoff := [] },
      mkt := { s1.mkt with tabs := [], early := [] }, nest := { s1.nest with stopped := true } } :=
    h1.trans ⟨fun p hp => by cases p <;> first | rfl | exact absurd (hL (by decide)) hp⟩
  have h3 := deckReset_within _ (hostReset_within _ h2 (List.Subset.trans (by decide) hL)) (List.Subset.trans (by decide) hL)
  dsimp only at h3 ⊢
  generalize deckReset _ = s3 at *
  have h4 : Within L s₀ { s3 with deck := { s3.deck with st := .failed } } :=
    h3.trans ⟨fun p hp => by cases p <;> first | rfl | exact absurd (hL (by decide)) hp⟩
  have h5 := cycNoRef_within _ h4 (List.Subset.trans (by decide) hL)
  generalize cycNoRef _ = s4 at *
  exact updateNodeOk_within _ (Within.ite (mastTo_within _ _ h5 (List.Subset.trans (by decide) hL)) h5) (List.Subset.trans (by decide) hL)

theorem reefEnter_within {L : List Part} {s₀ : State} (why : Nat) (s : State) (h₀ : Within L s₀ s)
    (hL : [.regs, .live, .free, .mast, .host, .deck, .ports, .ing, .mkt, .scales, .cap, .pak, .nest, .egr, .pair, .ledger, .sentry, .boot, .power, .nodeOk, .out] ⊆ L) :
    Within L s₀ (reefEnter why s) := by
  unfold reefEnter
  with_reducible repeat' first
    | assumption
    | exact List.Subset.trans (by decide) hL
    | apply Within.ite
    | apply logEvent_within
    | apply setPower_within
    | apply reefFlush_within
    | apply energyReef_within
    | apply raise_within
    | apply capReef_within
    | apply reefStop_within

theorem shedResume_within {L : List Part} {s₀ : State} (s : State) (h₀ : Within L s₀ s)
    (hL : [.regs, .host, .deck, .ledger, .power, .out] ⊆ L) : Within L s₀ (shedResume s) := by
  unfold shedResume
  with_reducible repeat' first
    | assumption
    | exact List.Subset.trans (by decide) hL
    | apply Within.ite
    | apply logEvent_within
    | apply setPower_within
    | apply raise_within

theorem resume_within {L : List Part} {s₀ : State} (version : Word) (s : State) (h₀ : Within L s₀ s)
    (hL : [.regs, .live, .free, .mast, .host, .deck, .ports, .ing, .mkt, .scales, .cap, .pak, .nest, .egr, .pair, .till, .ledger, .sentry, .boot, .power, .nodeOk, .cfg, .out] ⊆ L) :
    Within L s₀ (resume version s) := by
  unfold resume
  repeat' first
    | exact List.Subset.trans (by decide) hL
    | ((with_reducible apply Within.lit); all_goals first | exact Or.inl (hL (by decide)) | with_reducible exact Or.inr rfl | with_reducible assumption | with_reducible apply Within.ite | with_reducible apply startDataPath_within | with_reducible apply logEvent_within | with_reducible apply setPower_within | with_reducible apply deckRun_within | with_reducible apply shedResume_within | with_reducible apply bootLoadCode_within | with_reducible apply pairStart_within | with_reducible apply linkBack_within | with_reducible apply raise_within | with_reducible apply energyResume_within | with_reducible apply deckStart_within | with_reducible apply updateNodeOk_within)

theorem shedTo_within {L : List Part} {s₀ : State} (n : Nat) (k : Nat) (on : Bool) (s : State) (h₀ : Within L s₀ s)
    (hL : [.regs, .live, .free, .mast, .host, .deck, .ports, .ing, .mkt, .cap, .pak, .nest, .egr, .pair, .ledger, .power, .out] ⊆ L) :
    Within L s₀ (shedTo n k on s) := by
  unfold shedTo
  with_reducible repeat' first
    | assumption
    | exact List.Subset.trans (by decide) hL
    | apply logEvent_within
    | apply setPower_within
    | apply shedEffect_within
    | apply raise_within

theorem shedStep_within {L : List Part} {s₀ : State} (temp : Int) (s : State) (h₀ : Within L s₀ s)
    (hL : [.regs, .live, .free, .mast, .host, .deck, .ports, .ing, .mkt, .cap, .pak, .nest, .egr, .pair, .ledger, .power, .out] ⊆ L) :
    Within L s₀ (shedStep temp s) := by
  unfold shedStep
  with_reducible repeat' first
    | assumption
    | exact List.Subset.trans (by decide) hL
    | apply Within.ite
    | apply setPower_within
    | apply shedTo_within

theorem clrEnd_within {L : List Part} {s₀ : State} (s : State) (h₀ : Within L s₀ s)
    (hL : [.ledger] ⊆ L) : Within L s₀ (clrEnd s) := by
  unfold clrEnd
  with_reducible repeat' first
    | assumption
    | apply setLedger_within

theorem clrResult_within {L : List Part} {s₀ : State} (r : Nat) (s : State) (h₀ : Within L s₀ s)
    (hL : [.regs] ⊆ L) : Within L s₀ (clrResult r s) := by
  unfold clrResult
  with_reducible repeat' first
    | assumption
    | apply wrF_within

theorem clearBegin_within {L : List Part} {s₀ : State} (during : List LEvent) (badUnits : List Nat) (s : State)
    (h₀ : Within L s₀ s)
    (hL : [.regs, .live, .host, .deck, .ports, .egr, .pair, .ledger, .sentry, .boot, .nodeOk, .out] ⊆ L) :
    Within L s₀ (clearBegin during badUnits s) := by
  unfold clearBegin
  with_reducible repeat' first
    | assumption
    | exact List.Subset.trans (by decide) hL
    | apply Within.ite
    | apply clrEnd_within
    | apply flushRun_within
    | apply setLedger_within
    | apply clrResult_within
    | apply controlRecord_within

theorem clrExpire_within {L : List Part} {s₀ : State} (s : State) (h₀ : Within L s₀ s)
    (hL : [.regs, .ledger] ⊆ L) : Within L s₀ (clrExpire s) := by
  unfold clrExpire
  with_reducible repeat' first
    | assumption
    | exact List.Subset.trans (by decide) hL
    | apply clrEnd_within
    | apply clrResult_within

theorem clearExecute_within {L : List Part} {s₀ : State} (s : State) (h₀ : Within L s₀ s)
    (hL : [.regs, .live, .host, .deck, .ports, .egr, .pair, .ledger, .sentry, .boot, .nodeOk, .out] ⊆ L) :
    Within L s₀ (clearExecute s) := by
  unfold clearExecute
  with_reducible repeat' first
    | assumption
    | exact List.Subset.trans (by decide) hL
    | apply clearBegin_within
    | apply setLedger_within
    | apply clrResult_within
    | apply clrExpire_within
    | split

theorem clearRequest_within {L : List Part} {s₀ : State} (s : State) (h₀ : Within L s₀ s)
    (hL : [.regs, .free, .ledger] ⊆ L) : Within L s₀ (clearRequest s) := by
  unfold clearRequest
  with_reducible repeat' first
    | assumption
    | exact List.Subset.trans (by decide) hL
    | apply Within.ite
    | apply setLedger_within
    | apply clrResult_within
    | apply drawFree_within

theorem execClearCancel_within {L : List Part} {s₀ : State} (s : State) (h₀ : Within L s₀ s)
    (hL : [.host, .ledger] ⊆ L) : AnswersIn L s₀ (execClearCancel s) := by
  unfold execClearCancel
  with_reducible repeat' first
    | exact Within.refl _
    | assumption
    | exact List.Subset.trans (by decide) hL
    | (intro _; try dsimp only)
    | apply Within.ite
    | apply AnswersIn.next
    | apply hostServe_within
    | apply clrEnd_within

theorem execClearEraseDone_within {L : List Part} {s₀ : State} (s : State) (h₀ : Within L s₀ s)
    (hL : [.regs, .host, .deck, .scales, .nest, .ledger, .out] ⊆ L) : AnswersIn L s₀ (execClearEraseDone s) := by
  unfold execClearEraseDone
  with_reducible repeat' first
    | assumption
    | apply Within.ite
    | apply AnswersIn.powered
    | apply clearFinish_within

theorem execClearExecute_within {L : List Part} {s₀ : State} (s : State) (h₀ : Within L s₀ s)
    (hL : [.regs, .live, .host, .deck, .ports, .egr, .pair, .ledger, .sentry, .boot, .nodeOk, .out] ⊆ L) :
    AnswersIn L s₀ (execClearExecute s) := by
  unfold execClearExecute
  with_reducible repeat' first
    | exact Within.refl _
    | assumption
    | exact List.Subset.trans (by decide) hL
    | (intro _; try dsimp only)
    | apply AnswersIn.next
    | apply hostServe_within
    | apply clearExecute_within

theorem execClearExpiry_within {L : List Part} {s₀ : State} (s : State) (h₀ : Within L s₀ s)
    (hL : [.regs, .ledger] ⊆ L) : AnswersIn L s₀ (execClearExpiry s) := by
  unfold execClearExpiry
  with_reducible repeat' first
    | assumption
    | apply Within.ite
    | apply AnswersIn.powered
    | apply clrExpire_within

theorem execClearRequest_within {L : List Part} {s₀ : State} (s : State) (h₀ : Within L s₀ s)
    (hL : [.regs, .free, .host, .ledger] ⊆ L) : AnswersIn L s₀ (execClearRequest s) := by
  unfold execClearRequest
  with_reducible repeat' first
    | exact Within.refl _
    | assumption
    | exact List.Subset.trans (by decide) hL
    | (intro _; try dsimp only)
    | apply AnswersIn.next
    | apply hostServe_within
    | apply clearRequest_within

theorem execFlushNow_within {L : List Part} {s₀ : State} (who : Req) (s : State) (h₀ : Within L s₀ s)
    (hL : [.host, .ledger] ⊆ L) : AnswersIn L s₀ (execFlushNow who s) := by
  unfold execFlushNow
  with_reducible repeat' first
    | exact Within.refl _
    | assumption
    | exact List.Subset.trans (by decide) hL
    | (intro _; try dsimp only)
    | apply AnswersIn.next
    | apply setLedger_within
    | apply serve_within

theorem lastWordsUpdate_within {L : List Part} {s₀ : State} (s : State) (h₀ : Within L s₀ s)
    (hL : [.ledger, .sentry] ⊆ L) : Within L s₀ (lastWordsUpdate s) := by
  unfold lastWordsUpdate
  with_reducible repeat' first
    | assumption
    | apply writeLastWords_within
    | split

theorem execLastWordsUpdate_within {L : List Part} {s₀ : State} (s : State) (h₀ : Within L s₀ s)
    (hL : [.ledger, .sentry] ⊆ L) : AnswersIn L s₀ (execLastWordsUpdate s) := by
  unfold execLastWordsUpdate
  with_reducible repeat' first
    | assumption
    | apply AnswersIn.powered
    | apply lastWordsUpdate_within

theorem execLedgerEvent_within {L : List Part} {s₀ : State} (e : LEvent) (s : State) (h₀ : Within L s₀ s)
    (hL : [.regs, .host, .deck, .ledger, .out] ⊆ L) : AnswersIn L s₀ (execLedgerEvent e s) := by
  unfold execLedgerEvent
  with_reducible repeat' first
    | assumption
    | apply AnswersIn.powered
    | apply logOffered_within

theorem flushTimed_within {L : List Part} {s₀ : State} (during : List LEvent) (badUnits : List Nat) (s : State)
    (h₀ : Within L s₀ s)
    (hL : [.regs, .live, .host, .deck, .ports, .egr, .pair, .ledger, .sentry, .boot, .nodeOk, .out] ⊆ L) :
    Within L s₀ (flushTimed during badUnits s) := by
  unfold flushTimed
  with_reducible repeat' first
    | assumption
    | apply Within.ite
    | apply clearBegin_within
    | apply flushRun_within

theorem execLedgerFlush_within {L : List Part} {s₀ : State} (during : List LEvent) (badUnits : List Nat) (s : State)
    (h₀ : Within L s₀ s)
    (hL : [.regs, .live, .host, .deck, .ports, .egr, .pair, .ledger, .sentry, .boot, .nodeOk, .out] ⊆ L) :
    AnswersIn L s₀ (execLedgerFlush during badUnits s) := by
  unfold execLedgerFlush
  with_reducible repeat' first
    | assumption
    | apply AnswersIn.powered
    | apply flushTimed_within

theorem execLedgerReadAbort_within {L : List Part} {s₀ : State} (s : State) (h₀ : Within L s₀ s)
    (hL : [.regs, .host, .pak, .ledger] ⊆ L) : AnswersIn L s₀ (execLedgerReadAbort s) := by
  unfold execLedgerReadAbort
  with_reducible repeat' first
    | exact Within.refl _
    | assumption
    | exact List.Subset.trans (by decide) hL
    | (intro _; try dsimp only)
    | apply AnswersIn.next
    | apply hostServe_within
    | apply ledgerAbort_within

theorem rdTrack_within {L : List Part} {s₀ : State} (s : State) (h₀ : Within L s₀ s)
    (hL : [.ledger] ⊆ L) : Within L s₀ (rdTrack s) := by
  unfold rdTrack
  with_reducible repeat' first
    | assumption
    | apply setLedger_within

theorem ledgerOpen_within {L : List Part} {s₀ : State} (s : State) (h₀ : Within L s₀ s)
    (hL : [.regs, .host, .pak, .ledger] ⊆ L) : Within L s₀ (ledgerOpen s) := by
  unfold ledgerOpen
  with_reducible repeat' first
    | assumption
    | exact List.Subset.trans (by decide) hL
    | apply Within.ite
    | apply openMore_within
    | apply rdTrack_within
    | apply openWindow_within
    | apply dropEngine_within
    | apply setLedger_within
    | apply wr_within
    | apply setWork_within
    | apply openEmpty_within

theorem execLedgerReadOpen_within {L : List Part} {s₀ : State} (s : State) (h₀ : Within L s₀ s)
    (hL : [.regs, .host, .pak, .ledger] ⊆ L) : AnswersIn L s₀ (execLedgerReadOpen s) := by
  unfold execLedgerReadOpen
  with_reducible repeat' first
    | exact Within.refl _
    | assumption
    | exact List.Subset.trans (by decide) hL
    | (intro _; try dsimp only)
    | apply AnswersIn.next
    | apply hostServe_within
    | apply ledgerOpen_within

theorem lwAck_within {L : List Part} {s₀ : State} (s : State) (h₀ : Within L s₀ s)
    (hL : [.ledger, .sentry] ⊆ L) : Within L s₀ (lwAck s) := by
  unfold lwAck
  repeat' first
    | exact List.Subset.trans (by decide) hL
    | ((with_reducible apply Within.lit); all_goals first | exact Or.inl (hL (by decide)) | with_reducible exact Or.inr rfl | with_reducible assumption | with_reducible apply setLedger_within)

theorem execLwAck_within {L : List Part} {s₀ : State} (s : State) (h₀ : Within L s₀ s)
    (hL : [.host, .ledger, .sentry] ⊆ L) : AnswersIn L s₀ (execLwAck s) := by
  unfold execLwAck
  with_reducible repeat' first
    | exact Within.refl _
    | assumption
    | exact List.Subset.trans (by decide) hL
    | (intro _; try dsimp only)
    | apply AnswersIn.next
    | apply hostServe_within
    | apply lwAck_within

theorem trackSample_within {L : List Part} {s₀ : State} (k : Nat) (derived : Int) (s : State) (h₀ : Within L s₀ s)
    (hL : [.cap, .ledger] ⊆ L) : Within L s₀ (trackSample k derived s) := by
  unfold trackSample
  with_reducible repeat' first
    | assumption
    | exact List.Subset.trans (by decide) hL
    | apply trackPut_within
    | apply setLedger_within
    | split

theorem trackTimed_within {L : List Part} {s₀ : State} (k : Nat) (derived : Int) (s : State) (h₀ : Within L s₀ s)
    (hL : [.cap, .ledger] ⊆ L) : Within L s₀ (trackTimed k derived s) := by
  unfold trackTimed
  with_reducible repeat' first
    | assumption
    | exact List.Subset.trans (by decide) hL
    | apply Within.ite
    | apply setLedger_within
    | apply trackSample_within

theorem execTrackSample_within {L : List Part} {s₀ : State} (track : Fin 256) (derived : Int) (s : State) (h₀ : Within L s₀ s)
    (hL : [.cap, .ledger] ⊆ L) : AnswersIn L s₀ (execTrackSample track derived s) := by
  unfold execTrackSample
  with_reducible repeat' first
    | assumption
    | apply AnswersIn.powered
    | apply trackTimed_within

theorem execTrackWrite_within {L : List Part} {s₀ : State} (s : State) (h₀ : Within L s₀ s)
    (hL : [.ledger] ⊆ L) : AnswersIn L s₀ (execTrackWrite s) := by
  unfold execTrackWrite
  with_reducible repeat' first
    | assumption
    | apply Within.ite
    | apply AnswersIn.powered
    | apply trackWrite_within

end Sys2Proof.Machine
end

