-- ==== Sys2Proof/Laws/WithinMem.lean ====
section
/-!
SUPPORT. Which parts each operation can change (Safety.Within): the packer, the memories, the power events and the tick.
-/

namespace Sys2Proof.Machine

open Sys2Proof

set_option Elab.async false
set_option linter.all false

set_option maxRecDepth 4000

theorem execJobAbort_within {L : List Part} {s₀ : State} (who : Req) (s : State) (h₀ : Within L s₀ s)
    (hL : [.regs, .live, .host, .deck, .pak, .out] ⊆ L) : AnswersIn L s₀ (execJobAbort who s) := by
  unfold execJobAbort
  with_reducible repeat' first
    | exact Within.refl _
    | assumption
    | exact List.Subset.trans (by decide) hL
    | (intro _; try dsimp only)
    | apply AnswersIn.next
    | apply jobFail_within
    | apply serve_within

theorem jobFlush_within {L : List Part} {s₀ : State} (consumed : Nat) (s : State) (h₀ : Within L s₀ s)
    (hL : [.pak] ⊆ L) : Within L s₀ (jobFlush consumed s) := by
  unfold jobFlush
  with_reducible repeat' first
    | assumption
    | apply setPak_within
    | split

theorem execJobFlush_within {L : List Part} {s₀ : State} (who : Req) (consumed : Nat) (s : State) (h₀ : Within L s₀ s)
    (hL : [.host, .pak] ⊆ L) : AnswersIn L s₀ (execJobFlush who consumed s) := by
  unfold execJobFlush
  with_reducible repeat' first
    | exact Within.refl _
    | assumption
    | exact List.Subset.trans (by decide) hL
    | (intro _; try dsimp only)
    | apply AnswersIn.next
    | apply jobFlush_within
    | apply serve_within

theorem execJobPack_within {L : List Part} {s₀ : State} (who : Req) (k : BitVec 16) (input : List Byte) (s : State)
    (h₀ : Within L s₀ s)
    (hL : [.regs, .host, .deck, .pak, .out] ⊆ L) : AnswersIn L s₀ (execJobPack who k input s) := by
  unfold execJobPack
  with_reducible repeat' first
    | exact Within.refl _
    | assumption
    | exact List.Subset.trans (by decide) hL
    | (intro _; try dsimp only)
    | apply AnswersIn.next
    | apply jobStart_within
    | apply serve_within

theorem execJobRaw_within {L : List Part} {s₀ : State} (who : Req) (k : BitVec 16) (input : List Byte) (s : State)
    (h₀ : Within L s₀ s)
    (hL : [.regs, .host, .deck, .pak, .out] ⊆ L) : AnswersIn L s₀ (execJobRaw who k input s) := by
  unfold execJobRaw
  with_reducible repeat' first
    | exact Within.refl _
    | assumption
    | exact List.Subset.trans (by decide) hL
    | (intro _; try dsimp only)
    | apply AnswersIn.next
    | apply jobStart_within
    | apply serve_within

theorem execJobUnpack_within {L : List Part} {s₀ : State} (who : Req) (k : BitVec 16) (input : List Byte) (s : State)
    (h₀ : Within L s₀ s)
    (hL : [.regs, .host, .deck, .pak, .out] ⊆ L) : AnswersIn L s₀ (execJobUnpack who k input s) := by
  unfold execJobUnpack
  with_reducible repeat' first
    | exact Within.refl _
    | assumption
    | exact List.Subset.trans (by decide) hL
    | (intro _; try dsimp only)
    | apply AnswersIn.next
    | apply jobStart_within
    | apply serve_within

theorem execPackerBlockDone_within {L : List Part} {s₀ : State} (s : State) (h₀ : Within L s₀ s)
    (hL : [.regs, .live, .host, .deck, .mkt, .pak, .egr, .out] ⊆ L) : AnswersIn L s₀ (execPackerBlockDone s) := by
  unfold execPackerBlockDone
  with_reducible repeat' first
    | assumption
    | apply AnswersIn.inFull
    | apply finishBlock_within
    | split

theorem takeBlock_within {L : List Part} {s₀ : State} (s : State) (b : PakBlock) (t : State) (h₀ : Within L s₀ s)
    (hL : [.mkt, .pak] ⊆ L) (h : takeBlock s = some (b, t)) : Within L s₀ t := by
  unfold takeBlock at h
  repeat' split at h
  all_goals cases h
  · refine ribTake_within _ (h₀.trans ⟨fun p hp => ?_⟩) (List.Subset.trans (by decide) hL)
    cases p <;> first | rfl | exact absurd (hL (by decide)) hp
  · exact setWork_within _ _ _ h₀ (List.Subset.trans (by decide) hL)
  · exact setWork_within _ _ _ h₀ (List.Subset.trans (by decide) hL)
  · exact h₀

theorem packerBlockStart_within {L : List Part} {s₀ : State} (s : State) (h₀ : Within L s₀ s) (hL : [.mkt, .pak] ⊆ L) :
    Within L s₀ (packerBlockStart s) := by
  unfold packerBlockStart
  repeat' split
  · exact h₀
  · exact setPak_within _ _ (takeBlock_within _ _ _ h₀ (List.Subset.trans (by decide) hL) ‹_›) (List.Subset.trans (by decide) hL)
  · exact h₀

theorem execPackerBlockStart_within {L : List Part} {s₀ : State} (s : State) (h₀ : Within L s₀ s)
    (hL : [.mkt, .pak] ⊆ L) : AnswersIn L s₀ (execPackerBlockStart s) := by
  unfold execPackerBlockStart
  with_reducible repeat' first
    | assumption
    | apply AnswersIn.inFull
    | apply packerBlockStart_within

theorem execPackerSnapshot_within {L : List Part} {s₀ : State} (who : Req) (clr : Bool) (s : State) (h₀ : Within L s₀ s)
    (hL : [.regs, .live, .host, .deck, .out] ⊆ L) : AnswersIn L s₀ (execPackerSnapshot who clr s) := by
  unfold execPackerSnapshot
  with_reducible repeat' first
    | exact Within.refl _
    | assumption
    | exact List.Subset.trans (by decide) hL
    | (intro _; try dsimp only)
    | apply AnswersIn.next
    | apply snapshot_within
    | apply serve_within
    | apply raise_within

theorem baselineError_within {L : List Part} {s₀ : State} (older : Bool) (s : State) (h₀ : Within L s₀ s)
    (hL : [.nest] ⊆ L) : Within L s₀ (baselineError older s) := by
  unfold baselineError
  with_reducible repeat' first
    | assumption
    | apply setNest_within

theorem bufferError_within {L : List Part} {s₀ : State} (region : Nat) (p : Nat) (s : State) (h₀ : Within L s₀ s)
    (hL : [.ports] ⊆ L) : Within L s₀ (bufferError region p s) := by
  unfold bufferError
  with_reducible repeat' first
    | assumption
    | apply Within.ite
    | apply setPort_within

theorem configLostNow_within {L : List Part} {s₀ : State} (s : State) (h₀ : Within L s₀ s)
    (hL : [.regs, .live, .host, .deck, .ports, .egr, .ledger, .boot, .nodeOk, .out] ⊆ L) : Within L s₀ (configLostNow s) := by
  unfold configLostNow
  repeat' first
    | exact List.Subset.trans (by decide) hL
    | ((with_reducible apply Within.lit); all_goals first | exact Or.inl (hL (by decide)) | with_reducible exact Or.inr rfl | with_reducible assumption | with_reducible apply logEvent_within | with_reducible apply updateNodeOk_within)

theorem sampleError_within {L : List Part} {s₀ : State} (c : Nat) (s : State) (h₀ : Within L s₀ s)
    (hL : [.regs, .host] ⊆ L) : Within L s₀ (sampleError c s) := by
  unfold sampleError
  with_reducible repeat' first
    | assumption
    | exact List.Subset.trans (by decide) hL
    | apply Within.ite
    | apply wrF_within
    | apply setWindow_within

theorem itemError_within {L : List Part} {s₀ : State} (q : Nat) (s : State) (h₀ : Within L s₀ s)
    (hL : [.egr] ⊆ L) : Within L s₀ (itemError q s) := by
  unfold itemError
  try dsimp only
  with_reducible repeat' first
    | assumption
    | apply qRemove_within
    | split

theorem stallError_within {L : List Part} {s₀ : State} (n : Nat) (k : Nat) (s : State) (h₀ : Within L s₀ s)
    (hL : [.ing, .mkt] ⊆ L) : Within L s₀ (stallError n k s) := by
  unfold stallError
  repeat' first
    | exact List.Subset.trans (by decide) hL
    | ((with_reducible apply Within.lit); all_goals first | exact Or.inl (hL (by decide)) | with_reducible exact Or.inr rfl | with_reducible assumption | with_reducible apply setStream_within)

theorem ribbonError_within {L : List Part} {s₀ : State} (i : Nat) (s : State) (h₀ : Within L s₀ s)
    (hL : [.regs, .host, .deck, .mkt, .egr, .out] ⊆ L) : Within L s₀ (ribbonError i s) := by
  unfold ribbonError
  repeat' first
    | exact List.Subset.trans (by decide) hL
    | ((with_reducible apply Within.lit); all_goals first | exact Or.inl (hL (by decide)) | with_reducible exact Or.inr rfl | with_reducible assumption | with_reducible apply ribOverwrite_within | with_reducible apply ribReport_within)
    | split

theorem stampError_within {L : List Part} {s₀ : State} (p : Nat) (i : Nat) (s : State) (h₀ : Within L s₀ s)
    (hL : [.regs, .live, .host, .deck, .ports, .out] ⊆ L) : Within L s₀ (stampError p i s) := by
  unfold stampError
  try dsimp only
  with_reducible repeat' first
    | assumption
    | exact List.Subset.trans (by decide) hL
    | apply tsqRefuse_within
    | apply setPort_within
    | split

theorem recordError_within {L : List Part} {s₀ : State} (no : Nat) (ofs : Nat) (s : State) (h₀ : Within L s₀ s)
    (hL : [.cap] ⊆ L) : Within L s₀ (recordError no ofs s) := by
  unfold recordError
  with_reducible repeat' first
    | assumption
    | apply setCap_within

theorem trackError_within {L : List Part} {s₀ : State} (k : Nat) (older : Bool) (s : State) (h₀ : Within L s₀ s)
    (hL : [.ledger] ⊆ L) : Within L s₀ (trackError k older s) := by
  unfold trackError
  with_reducible repeat' first
    | assumption
    | apply setLedger_within

theorem controlError_within {L : List Part} {s₀ : State} (i : Nat) (s : State) (h₀ : Within L s₀ s)
    (hL : [.ledger] ⊆ L) : Within L s₀ (controlError i s) := by
  unfold controlError
  with_reducible repeat' first
    | assumption
    | apply setLedger_within

theorem intervalError_within {L : List Part} {s₀ : State} (i : Nat) (s : State) (h₀ : Within L s₀ s)
    (hL : [.scales] ⊆ L) : Within L s₀ (intervalError i s) := by
  unfold intervalError
  with_reducible repeat' first
    | assumption
    | apply setEnergy_within

theorem logError_within {L : List Part} {s₀ : State} (seq : Nat) (s : State) (h₀ : Within L s₀ s)
    (hL : [.ledger] ⊆ L) : Within L s₀ (logError seq s) := by
  unfold logError
  with_reducible repeat' first
    | assumption
    | apply setLedger_within

theorem streamError_within {L : List Part} {s₀ : State} (n : Nat) (s : State) (h₀ : Within L s₀ s)
    (hL : [.ing] ⊆ L) : Within L s₀ (streamError n s) := by
  unfold streamError
  with_reducible repeat' first
    | assumption
    | apply setStream_within

theorem deckError_within {L : List Part} {s₀ : State} (thread : Option Nat) (s : State) (h₀ : Within L s₀ s)
    (hL : [.regs, .live, .mast, .host, .deck, .ports, .egr, .ledger, .out] ⊆ L) : Within L s₀ (deckError thread s) := by
  unfold deckError
  with_reducible repeat' first
    | assumption
    | apply machineCheck_within
    | split

theorem consequenceOf_within {L : List Part} {s₀ : State} (region : Nat) (target : UeTarget) (s : State) (h₀ : Within L s₀ s)
    (hL : [.regs, .live, .free, .mast, .host, .deck, .ports, .ing, .mkt, .scales, .cap, .pak, .nest, .egr, .pair, .ledger, .boot, .nodeOk, .out] ⊆ L) :
    Within L s₀ (consequenceOf region target s) := by
  unfold consequenceOf
  with_reducible repeat' first
    | assumption
    | exact List.Subset.trans (by decide) hL
    | apply emRestart_within
    | apply sampleError_within
    | apply itemError_within
    | apply stallError_within
    | apply ribbonError_within
    | apply fastRestart_within
    | apply bufferError_within
    | apply stampError_within
    | apply recordError_within
    | apply pakMemErr_within
    | apply topError_within
    | apply trackError_within
    | apply controlError_within
    | apply baselineError_within
    | apply creditsBack_within
    | apply intervalError_within
    | apply storeError_within
    | apply configLostNow_within
    | apply raise_within
    | apply logError_within
    | apply streamError_within
    | apply deckError_within
    | split

theorem consequence_within {L : List Part} {s₀ : State} (region : Nat) (target : UeTarget) (s : State) (h₀ : Within L s₀ s)
    (hL : [.regs, .live, .free, .mast, .host, .deck, .ports, .ing, .mkt, .scales, .cap, .pak, .nest, .egr, .pair, .ledger, .boot, .nodeOk, .out] ⊆ L) :
    Within L s₀ (consequence region target s) := by
  unfold consequence
  with_reducible repeat' first
    | assumption
    | apply Within.ite
    | apply consequenceOf_within

theorem setMem_within {L : List Part} {s₀ : State} (f : MemInt → MemInt) (s : State) (h₀ : Within L s₀ s)
    (hL : [.mem] ⊆ L) : Within L s₀ (setMem f s) := by
  unfold setMem
  repeat' ((with_reducible apply Within.lit); all_goals first | exact Or.inl (hL (by decide)) | with_reducible exact Or.inr rfl | with_reducible assumption)

theorem laneCount_within {L : List Part} {s₀ : State} (ch : Nat) (lane : Nat) (s : State) (h₀ : Within L s₀ s)
    (hL : [.regs, .host, .deck, .mem, .ledger, .out] ⊆ L) : Within L s₀ (laneCount ch lane s) := by
  unfold laneCount
  with_reducible repeat' first
    | assumption
    | exact List.Subset.trans (by decide) hL
    | apply Within.ite
    | apply logEvent_within
    | apply setMem_within
    | apply raise_within

theorem noteUe_within {L : List Part} {s₀ : State} (region : Nat) (addr : Nat) (s : State) (h₀ : Within L s₀ s)
    (hL : [.regs, .live, .host, .deck, .ledger, .out] ⊆ L) : Within L s₀ (noteUe region addr s) := by
  unfold noteUe
  with_reducible repeat' first
    | assumption
    | exact List.Subset.trans (by decide) hL
    | apply Within.ite
    | apply logEvent_within
    | apply wr_within
    | apply raise_within
    | apply count_within

theorem unitCount_within {L : List Part} {s₀ : State} (region : Nat) (addr : Nat) (s : State) (h₀ : Within L s₀ s)
    (hL : [.regs, .host, .deck, .mem, .out] ⊆ L) : Within L s₀ (unitCount region addr s) := by
  unfold unitCount
  with_reducible repeat' first
    | assumption
    | exact List.Subset.trans (by decide) hL
    | apply Within.ite
    | apply setMem_within
    | apply raise_within

theorem memCe_within {L : List Part} {s₀ : State} (region : Nat) (addr : Nat) (ch : Nat) (lane : Nat) (target : UeTarget) (s : State)
    (h₀ : Within L s₀ s)
    (hL : [.regs, .live, .free, .mast, .host, .deck, .ports, .ing, .mkt, .scales, .cap, .pak, .nest, .egr, .pair, .mem, .ledger, .boot, .nodeOk, .out] ⊆ L) :
    Within L s₀ (memCe region addr ch lane target s) := by
  unfold memCe
  with_reducible repeat' first
    | assumption
    | exact List.Subset.trans (by decide) hL
    | apply Within.ite
    | apply consequence_within
    | apply laneCount_within
    | apply noteUe_within
    | apply raise_within
    | apply unitCount_within
    | apply count_within

theorem execMemCorrection_within {L : List Part} {s₀ : State} (region : Fin 15) (addr : BitVec 36) (ch : Fin 2) (lane : Fin 4) (target : UeTarget) (s : State)
    (h₀ : Within L s₀ s)
    (hL : [.regs, .live, .free, .mast, .host, .deck, .ports, .ing, .mkt, .scales, .cap, .pak, .nest, .egr, .pair, .mem, .ledger, .boot, .nodeOk, .out] ⊆ L) :
    AnswersIn L s₀ (execMemCorrection region addr ch lane target s) := by
  unfold execMemCorrection
  with_reducible repeat' first
    | assumption
    | apply Within.ite
    | apply AnswersIn.powered
    | apply memCe_within

theorem execMemSnapshot_within {L : List Part} {s₀ : State} (who : Req) (clr : Bool) (s : State) (h₀ : Within L s₀ s)
    (hL : [.regs, .live, .host, .deck, .out] ⊆ L) : AnswersIn L s₀ (execMemSnapshot who clr s) := by
  unfold execMemSnapshot
  with_reducible repeat' first
    | exact Within.refl _
    | assumption
    | exact List.Subset.trans (by decide) hL
    | (intro _; try dsimp only)
    | apply AnswersIn.next
    | apply snapshot_within
    | apply serve_within
    | apply raise_within

theorem memUe_within {L : List Part} {s₀ : State} (region : Nat) (addr : Nat) (target : UeTarget) (s : State) (h₀ : Within L s₀ s)
    (hL : [.regs, .live, .free, .mast, .host, .deck, .ports, .ing, .mkt, .scales, .cap, .pak, .nest, .egr, .pair, .mem, .ledger, .boot, .nodeOk, .out] ⊆ L) :
    Within L s₀ (memUe region addr target s) := by
  unfold memUe
  with_reducible repeat' first
    | assumption
    | exact List.Subset.trans (by decide) hL
    | apply Within.ite
    | apply consequence_within
    | apply setMem_within
    | apply noteUe_within

theorem execMemUe_within {L : List Part} {s₀ : State} (region : Fin 15) (addr : BitVec 36) (target : UeTarget) (s : State)
    (h₀ : Within L s₀ s)
    (hL : [.regs, .live, .free, .mast, .host, .deck, .ports, .ing, .mkt, .scales, .cap, .pak, .nest, .egr, .pair, .mem, .ledger, .boot, .nodeOk, .out] ⊆ L) :
    AnswersIn L s₀ (execMemUe region addr target s) := by
  unfold execMemUe
  with_reducible repeat' first
    | assumption
    | apply Within.ite
    | apply AnswersIn.powered
    | apply memUe_within

theorem patrolNext_within {L : List Part} {s₀ : State} (s : State) (h₀ : Within L s₀ s)
    (hL : [.regs, .host, .deck, .mem, .out] ⊆ L) : Within L s₀ (patrolNext s) := by
  unfold patrolNext
  with_reducible repeat' first
    | assumption
    | exact List.Subset.trans (by decide) hL
    | apply Within.ite
    | apply setMem_within
    | apply raise_within

theorem patrolRead_within {L : List Part} {s₀ : State} (region : Nat) (r : PatrolResult) (s : State) (h₀ : Within L s₀ s)
    (hL : [.regs, .live, .free, .mast, .host, .deck, .ports, .ing, .mkt, .scales, .cap, .pak, .nest, .egr, .pair, .mem, .ledger, .boot, .nodeOk, .out] ⊆ L) :
    Within L s₀ (patrolRead region r s) := by
  unfold patrolRead
  with_reducible repeat' first
    | assumption
    | exact List.Subset.trans (by decide) hL
    | apply Within.ite
    | apply patrolNext_within
    | apply setMem_within
    | apply noteUe_within
    | apply memCe_within
    | split

theorem execPatrolRead_within {L : List Part} {s₀ : State} (region : Fin 15) (r : PatrolResult) (s : State) (h₀ : Within L s₀ s)
    (hL : [.regs, .live, .free, .mast, .host, .deck, .ports, .ing, .mkt, .scales, .cap, .pak, .nest, .egr, .pair, .mem, .ledger, .boot, .nodeOk, .out] ⊆ L) :
    AnswersIn L s₀ (execPatrolRead region r s) := by
  unfold execPatrolRead
  with_reducible repeat' first
    | assumption
    | apply Within.ite
    | apply AnswersIn.inFull
    | apply patrolRead_within

theorem noteTemp_within {L : List Part} {s₀ : State} (temp : BitVec 16) (s : State) (h₀ : Within L s₀ s)
    (hL : [.regs, .power] ⊆ L) : Within L s₀ (noteTemp temp s) := by
  unfold noteTemp
  with_reducible repeat' first
    | assumption
    | exact List.Subset.trans (by decide) hL
    | apply setPower_within
    | apply wr_within

theorem dieReading_within {L : List Part} {s₀ : State} (temp : BitVec 16) (s : State) (h₀ : Within L s₀ s)
    (hL : [.regs, .live, .ticks, .tai, .free, .mast, .host, .deck, .ports, .ing, .mkt, .scales, .cap, .pak, .nest, .egr, .pair, .till, .mem, .ledger, .sentry, .boot, .power, .nodeOk, .cfg, .out] ⊆ L) :
    Within L s₀ (dieReading temp s) := by
  unfold dieReading
  with_reducible repeat' first
    | assumption
    | exact List.Subset.trans (by decide) hL
    | apply Within.ite
    | apply setPower_within
    | apply powerOff_within
    | apply shedStep_within
    | apply reefEnter_within
    | apply noteTemp_within

theorem furlNow_within {L : List Part} {s₀ : State} (key : BitVec 16) (s : State)
    (h₀ : Within L s₀ s) (hL : [.regs, .live, .ticks, .tai, .free, .mast, .host, .deck, .ports, .ing, .mkt, .scales, .cap, .pak, .nest, .egr, .pair, .till, .mem, .ledger, .sentry, .boot, .power, .nodeOk, .cfg, .out] ⊆ L) :
    Within L s₀ (furlNow key s) := by
  unfold furlNow
  split
  · exact h₀
  · have h := powerOff_within _ (reefSettle_within _ (reefEnter_within reefCOMMAND s h₀ (List.Subset.trans (by decide) hL)) (List.Subset.trans (by decide) hL)) (List.Subset.trans (by decide) hL)
    dsimp only
    generalize powerOff _ = t at *
    refine h.trans ⟨fun p hp => ?_⟩
    cases p <;> first | rfl | exact absurd (hL (by decide)) hp

theorem execFurl_within {L : List Part} {s₀ : State} (who : Req) (key : BitVec 16) (s : State) (h₀ : Within L s₀ s)
    (hL : [.regs, .live, .ticks, .tai, .free, .mast, .host, .deck, .ports, .ing, .mkt, .scales, .cap, .pak, .nest, .egr, .pair, .till, .mem, .ledger, .sentry, .boot, .power, .nodeOk, .cfg, .out] ⊆ L) :
    AnswersIn L s₀ (execFurl who key s) := by
  unfold execFurl
  with_reducible repeat' first
    | exact Within.refl _
    | assumption
    | exact List.Subset.trans (by decide) hL
    | (intro _; try dsimp only)
    | apply AnswersIn.next
    | apply furlNow_within
    | apply serve_within

theorem execFurlLatchClear_within {L : List Part} {s₀ : State} (s : State) (h₀ : Within L s₀ s)
    (hL : [.sentry, .power] ⊆ L) : AnswersIn L s₀ (execFurlLatchClear s) := by
  unfold execFurlLatchClear
  repeat' first
    | exact List.Subset.trans (by decide) hL
    | with_reducible apply AnswersIn.next
    | ((with_reducible apply Within.lit); all_goals first | exact Or.inl (hL (by decide)) | with_reducible exact Or.inr rfl | with_reducible assumption | with_reducible apply Within.ite | with_reducible apply setPower_within)

theorem execHoldupEnd_within {L : List Part} {s₀ : State} (s : State) (h₀ : Within L s₀ s)
    (hL : [.regs, .live, .ticks, .tai, .free, .mast, .host, .deck, .ports, .ing, .mkt, .scales, .cap, .pak, .nest, .egr, .pair, .till, .mem, .ledger, .sentry, .boot, .power, .nodeOk, .cfg, .out] ⊆ L) :
    AnswersIn L s₀ (execHoldupEnd s) := by
  unfold execHoldupEnd
  with_reducible repeat' first
    | assumption
    | apply Within.ite
    | apply AnswersIn.next
    | apply holdupEnd_within

theorem powerFail_within {L : List Part} {s₀ : State} (s : State) (h₀ : Within L s₀ s)
    (hL : [.regs, .live, .ticks, .tai, .free, .mast, .host, .deck, .ports, .ing, .mkt, .scales, .cap, .pak, .nest, .egr, .pair, .till, .mem, .ledger, .sentry, .boot, .power, .nodeOk, .cfg, .out] ⊆ L) :
    Within L s₀ (powerFail s) := by
  unfold powerFail
  with_reducible repeat' first
    | assumption
    | exact List.Subset.trans (by decide) hL
    | apply Within.ite
    | apply powerOff_within
    | apply holdupEnd_within
    | apply reefEnter_within

theorem execPowerFail_within {L : List Part} {s₀ : State} (s : State) (h₀ : Within L s₀ s)
    (hL : [.regs, .live, .ticks, .tai, .free, .mast, .host, .deck, .ports, .ing, .mkt, .scales, .cap, .pak, .nest, .egr, .pair, .till, .mem, .ledger, .sentry, .boot, .power, .nodeOk, .cfg, .out] ⊆ L) :
    AnswersIn L s₀ (execPowerFail s) := by
  unfold execPowerFail
  with_reducible repeat' first
    | assumption
    | exact List.Subset.trans (by decide) hL
    | apply AnswersIn.next
    | apply setPower_within
    | apply powerFail_within

theorem railAttempt_within {L : List Part} {s₀ : State} (fail : Option (Fin 8)) (s : State) (h₀ : Within L s₀ s)
    (hL : [.sentry, .boot, .power] ⊆ L) : Within L s₀ (railAttempt fail s) := by
  unfold railAttempt
  repeat' first
    | exact List.Subset.trans (by decide) hL
    | ((with_reducible apply Within.lit); all_goals first | exact Or.inl (hL (by decide)) | with_reducible exact Or.inr rfl | with_reducible assumption | with_reducible apply Within.ite | with_reducible apply setPower_within)
    | split

theorem execPowerUp_within {L : List Part} {s₀ : State} (fail : Option (Fin 8)) (s : State) (h₀ : Within L s₀ s)
    (hL : [.sentry, .boot, .power] ⊆ L) : AnswersIn L s₀ (execPowerUp fail s) := by
  unfold execPowerUp
  with_reducible repeat' first
    | assumption
    | apply Within.ite
    | apply AnswersIn.next
    | apply railAttempt_within

theorem railLoad_within {L : List Part} {s₀ : State} (k : Nat) (s : State) (h₀ : Within L s₀ s)
    (hL : [.regs] ⊆ L) : Within L s₀ (railLoad k s) := by
  unfold railLoad
  with_reducible repeat' first
    | assumption
    | apply wrF_within
    | apply wr_within

theorem execRailLoad_within {L : List Part} {s₀ : State} (who : Req) (rail : Fin 8) (s : State) (h₀ : Within L s₀ s)
    (hL : [.regs, .host] ⊆ L) : AnswersIn L s₀ (execRailLoad who rail s) := by
  unfold execRailLoad
  with_reducible repeat' first
    | exact Within.refl _
    | assumption
    | exact List.Subset.trans (by decide) hL
    | (intro _; try dsimp only)
    | apply AnswersIn.next
    | apply railLoad_within
    | apply serve_within

theorem noteInput_within {L : List Part} {s₀ : State} (vin : Nat) (s : State) (h₀ : Within L s₀ s)
    (hL : [.power] ⊆ L) : Within L s₀ (noteInput vin s) := by
  unfold noteInput
  with_reducible repeat' first
    | assumption
    | apply setPower_within

theorem railMeasureAll_within {L : List Part} {s₀ : State} (k : Nat) (l : List (Nat × Nat)) (s : State) (h₀ : Within L s₀ s)
    (hL : [.regs, .host, .deck, .ledger, .power, .out] ⊆ L) : Within L s₀ (railMeasureAll k l s) := by
  induction l generalizing k s with
  | nil => exact h₀
  | cons p r ih =>
    refine ih _ _ ?_
    split
    · exact railMeasure_within _ _ _ _ h₀ (List.Subset.trans (by decide) hL)
    · exact h₀

theorem powerMeasure_within {L : List Part} {s₀ : State} (rails : List (Nat × Nat)) (vin : BitVec 16) (iin : BitVec 16) (pmw : Word) (vstore : BitVec 16) (s0 : State)
    (h₀ : Within L s₀ s0)
    (hL : [.regs, .live, .free, .host, .deck, .ports, .egr, .till, .ledger, .boot, .power, .nodeOk, .out] ⊆ L) :
    Within L s₀ (powerMeasure rails vin iin pmw vstore s0) := by
  unfold powerMeasure
  with_reducible repeat' first
    | assumption
    | exact List.Subset.trans (by decide) hL
    | apply Within.ite
    | apply setPower_within
    | apply noteInput_within
    | apply tamper_within
    | apply wrF_within
    | apply holdupChange_within
    | apply railMeasureAll_within
    | apply wr_within

theorem execRailMeasure_within {L : List Part} {s₀ : State} (rails : List (Nat × Nat)) (vin : BitVec 16) (iin : BitVec 16) (pmw : Word) (vstore : BitVec 16) (s : State)
    (h₀ : Within L s₀ s)
    (hL : [.regs, .live, .free, .host, .deck, .ports, .egr, .till, .ledger, .boot, .power, .nodeOk, .out] ⊆ L) :
    AnswersIn L s₀ (execRailMeasure rails vin iin pmw vstore s) := by
  unfold execRailMeasure
  with_reducible repeat' first
    | assumption
    | apply AnswersIn.next
    | apply powerMeasure_within

theorem execRailRetry_within {L : List Part} {s₀ : State} (fail : Option (Fin 8)) (s : State) (h₀ : Within L s₀ s)
    (hL : [.sentry, .boot, .power] ⊆ L) : AnswersIn L s₀ (execRailRetry fail s) := by
  unfold execRailRetry
  with_reducible repeat' first
    | assumption
    | apply Within.ite
    | apply AnswersIn.next
    | apply railAttempt_within

theorem execPowerResumption_within {L : List Part} {s₀ : State} (version : Word) (s : State) (h₀ : Within L s₀ s)
    (hL : [.regs, .live, .free, .mast, .host, .deck, .ports, .ing, .mkt, .scales, .cap, .pak, .nest, .egr, .pair, .till, .ledger, .sentry, .boot, .power, .nodeOk, .cfg, .out] ⊆ L) :
    AnswersIn L s₀ (execPowerResumption version s) := by
  unfold execPowerResumption
  with_reducible repeat' first
    | assumption
    | apply Within.ite
    | apply AnswersIn.next
    | apply resume_within

theorem sensorReading_within {L : List Part} {s₀ : State} (temp : BitVec 16) (s : State) (h₀ : Within L s₀ s)
    (hL : [.regs, .live, .ticks, .tai, .free, .mast, .host, .deck, .ports, .ing, .mkt, .scales, .cap, .pak, .nest, .egr, .pair, .till, .mem, .ledger, .sentry, .boot, .power, .nodeOk, .cfg, .out] ⊆ L) :
    Within L s₀ (sensorReading temp s) := by
  unfold sensorReading
  with_reducible repeat' first
    | assumption
    | exact List.Subset.trans (by decide) hL
    | apply Within.ite
    | apply setPower_within
    | apply tamper_within
    | apply dieReading_within

theorem execSensorReading_within {L : List Part} {s₀ : State} (temp : BitVec 16) (s : State) (h₀ : Within L s₀ s)
    (hL : [.regs, .live, .ticks, .tai, .free, .mast, .host, .deck, .ports, .ing, .mkt, .scales, .cap, .pak, .nest, .egr, .pair, .till, .mem, .ledger, .sentry, .boot, .power, .nodeOk, .cfg, .out] ⊆ L) :
    AnswersIn L s₀ (execSensorReading temp s) := by
  unfold execSensorReading
  with_reducible repeat' first
    | assumption
    | apply AnswersIn.next
    | apply sensorReading_within

theorem execStoreChargeDone_within {L : List Part} {s₀ : State} (cf : BitVec 16) (s : State) (h₀ : Within L s₀ s)
    (hL : [.regs, .host, .deck, .ledger, .out] ⊆ L) : AnswersIn L s₀ (execStoreChargeDone cf s) := by
  unfold execStoreChargeDone
  with_reducible repeat' first
    | assumption
    | exact List.Subset.trans (by decide) hL
    | apply Within.ite
    | apply AnswersIn.next
    | apply holdupChange_within
    | apply wr_within

theorem crystalTick_within {L : List Part} {s₀ : State} (s : State) (h₀ : Within L s₀ s)
    (hL : [.regs, .host, .deck, .sentry, .out] ⊆ L) : Within L s₀ (crystalTick s) := by
  unfold crystalTick
  with_reducible repeat' first
    | assumption
    | exact List.Subset.trans (by decide) hL
    | apply Within.ite
    | apply setSentry_within
    | apply sentryTick_within

theorem cycleTick_within {L : List Part} {s₀ : State} (s : State) (h₀ : Within L s₀ s)
    (hL : [.mast] ⊆ L) : Within L s₀ (cycleTick s) := by
  unfold cycleTick
  repeat' ((with_reducible apply Within.lit); all_goals first | exact Or.inl (hL (by decide)) | with_reducible exact Or.inr rfl | with_reducible assumption)

theorem pcTake_within {L : List Part} {s₀ : State} (c : PcCounter) (n : Nat) (s : State) (h₀ : Within L s₀ s)
    (hL : [.regs, .host, .out] ⊆ L) : Within L s₀ (pcTake c n s) := by
  unfold pcTake
  with_reducible repeat' first
    | assumption
    | apply Within.ite
    | apply pcAdd_within

theorem pcDataPath_within {L : List Part} {s₀ : State} (s : State) (h₀ : Within L s₀ s)
    (hL : [.regs, .host, .out] ⊆ L) : Within L s₀ (pcDataPath s) := by
  unfold pcDataPath
  with_reducible repeat' first
    | exact Within.refl _
    | assumption
    | (intro _; try dsimp only)
    | apply Within.ite
    | apply pcTake_within
    | apply Within.foldl

theorem pcCore_within {L : List Part} {s₀ : State} (c : Fin 4) (s : State) (h₀ : Within L s₀ s)
    (hL : [.regs, .host, .out] ⊆ L) : Within L s₀ (pcCore c s) := by
  unfold pcCore
  with_reducible repeat' first
    | exact Within.refl _
    | assumption
    | (intro _; try dsimp only)
    | apply Within.ite
    | apply pcAdd_within
    | apply pcTake_within
    | apply Within.foldl

theorem deckTick_within {L : List Part} {s₀ : State} (s : State) (h₀ : Within L s₀ s)
    (hL : [.regs, .live, .host, .deck, .out] ⊆ L) : Within L s₀ (deckTick s) := by
  unfold deckTick
  repeat' first
    | exact List.Subset.trans (by decide) hL
    | (intro _; try dsimp only)
    | ((with_reducible apply Within.lit); all_goals first | exact Or.inl (hL (by decide)) | with_reducible exact Or.inr rfl | with_reducible exact Within.refl _ | with_reducible assumption | with_reducible apply Within.ite | with_reducible apply pcDataPath_within | with_reducible apply pcCore_within | with_reducible apply count_within | with_reducible apply Within.foldl)

theorem holdTickStep_within {L : List Part} {s₀ : State} (s : State) (h₀ : Within L s₀ s)
    (hL : [.mast] ⊆ L) : Within L s₀ (holdTickStep s) := by
  unfold holdTickStep
  repeat' first
    | with_reducible assumption
    | ((with_reducible apply Within.lit); all_goals first | exact Or.inl (hL (by decide)) | with_reducible exact Or.inr rfl | with_reducible assumption | with_reducible apply Within.ite | with_reducible apply updateHoldExc_within)

theorem hoursTick_within {L : List Part} {s₀ : State} (s : State) (h₀ : Within L s₀ s)
    (hL : [.ledger] ⊆ L) : Within L s₀ (hoursTick s) := by
  unfold hoursTick
  repeat' ((with_reducible apply Within.lit); all_goals first | exact Or.inl (hL (by decide)) | with_reducible exact Or.inr rfl | with_reducible assumption | with_reducible apply Within.ite)

theorem taiTick_within {L : List Part} {s₀ : State} (s : State) (h₀ : Within L s₀ s)
    (hL : [.ticks, .tai, .scales] ⊆ L) : Within L s₀ (taiTick s) := by
  unfold taiTick
  repeat' ((with_reducible apply Within.lit); all_goals first | exact Or.inl (hL (by decide)) | with_reducible exact Or.inr rfl | with_reducible assumption)

theorem monoTick_within {L : List Part} {s₀ : State} (s : State) (h₀ : Within L s₀ s)
    (hL : [.live, .pair] ⊆ L) : Within L s₀ (monoTick s) := by
  unfold monoTick
  with_reducible repeat' first
    | assumption
    | exact List.Subset.trans (by decide) hL
    | apply Within.ite
    | apply setPair_within
    | apply shrCount_within

theorem tick_within {L : List Part} {s₀ : State} (s : State) (h₀ : Within L s₀ s)
    (hL : [.regs, .live, .ticks, .tai, .mast, .host, .deck, .scales, .pair, .ledger, .sentry, .out] ⊆ L) :
    Within L s₀ (tick s) := by
  unfold tick
  with_reducible repeat' first
    | assumption
    | exact List.Subset.trans (by decide) hL
    | apply Within.ite
    | apply holdTickStep_within
    | apply hoursTick_within
    | apply crystalTick_within
    | apply taiTick_within
    | apply monoTick_within
    | apply deckTick_within
    | apply cycleTick_within

theorem idle_within {L : List Part} {s₀ : State} (run : Instr → State → State) (s : State) (h_run : ∀ (x0 : Instr) (u : State), Within L u (run x0 u))
    (h₀ : Within L s₀ s)
    (hL : [.regs, .live, .ticks, .tai, .mast, .host, .deck, .scales, .pair, .ledger, .sentry, .out] ⊆ L) :
    Within L s₀ (idle run s) := by
  unfold idle
  with_reducible repeat' first
    | assumption
    | exact List.Subset.trans (by decide) hL
    | apply hostRetry_within
    | apply tick_within

theorem accessed_within {L : List Part} {s₀ : State} (who : Req) (s : State) (h₀ : Within L s₀ s)
    (hL : [.host] ⊆ L) : Within L s₀ (accessed who s) := by
  unfold accessed
  repeat' first
    | ((with_reducible apply Within.lit); all_goals first | exact Or.inl (hL (by decide)) | with_reducible exact Or.inr rfl | with_reducible assumption)
    | split

end Sys2Proof.Machine
end

