-- ==== Sys2Proof/Laws/Regs.lean ====
section
/-!
SUPPORT. Which registers an operation can change (Safety.OnlyRegs): how operations compose. The files Regs<Group>.lean say it of every
operation that writes registers, one lemma each.
-/

namespace Sys2Proof.Machine

open Sys2Proof

set_option Elab.async false
set_option linter.all false

theorem OnlyRegs.refl {R : List RegSet} (s : State) : OnlyRegs R s s := ⟨fun _ _ => rfl⟩

theorem OnlyRegs.trans {R : List RegSet} {r s t : State} (a : OnlyRegs R r s) (b : OnlyRegs R s t) : OnlyRegs R r t :=
  ⟨fun x hx => (b.same x hx).trans (a.same x hx)⟩

theorem OnlyRegs.of_regs {R : List RegSet} {r s t : State} (a : OnlyRegs R r s) (h : t.regs = s.regs) : OnlyRegs R r t :=
  a.trans ⟨fun x _ => by unfold rd; rw [h]⟩

/-- An operation that leaves the registers. -/
theorem OnlyRegs.pass {R : List RegSet} {L : List Part} {r s t : State} (a : OnlyRegs R r s) (h : Within L s t) (hn : .regs ∉ L) :
    OnlyRegs R r t := a.of_regs (h.same .regs hn)

theorem OnlyRegs.app {R : List RegSet} {r s : State} {f : State → State} (hf : ∀ u, OnlyRegs R u (f u)) (h : OnlyRegs R r s) :
    OnlyRegs R r (f s) := h.trans (hf s)

theorem OnlyRegs.ite {R : List RegSet} {r a b : State} {c : Prop} [Decidable c] (ha : OnlyRegs R r a) (hb : OnlyRegs R r b) :
    OnlyRegs R r (if c then a else b) := by
  split <;> assumption

theorem OnlyRegs.foldl {α : Type} {R : List RegSet} {r s : State} {f : State → α → State} {l : List α} (h : OnlyRegs R r s)
    (hf : ∀ u x, OnlyRegs R u (f u x)) : OnlyRegs R r (l.foldl f s) := by
  induction l generalizing s with
  | nil => exact h
  | cons x l ih => exact ih (h.trans (hf s x))

/-- A fold whose steps are taken over members of the list. -/
theorem OnlyRegs.foldlMem {α : Type} {R : List RegSet} {r s : State} {f : State → α → State} {l : List α} (h : OnlyRegs R r s)
    (hf : ∀ x ∈ l, ∀ u, OnlyRegs R u (f u x)) : OnlyRegs R r (l.foldl f s) := by
  induction l generalizing s with
  | nil => exact h
  | cons x l ih => exact ih (h.trans (hf x (List.mem_cons_self ..) s)) fun y hy => hf y (List.mem_cons_of_mem _ hy)

theorem OnlyRegs.forUpTo {R : List RegSet} {r s : State} {f : Nat → State → State} {n : Nat} (h : OnlyRegs R r s)
    (hf : ∀ k, k < n → ∀ u, OnlyRegs R u (f k u)) : OnlyRegs R r (forUpTo n f s) :=
  OnlyRegs.foldlMem h fun k hk u => hf k (List.mem_range.mp hk) u

theorem OnlyRegs.foldlPoints {R : List RegSet} {r s x : State} {f : State → Nat → State} (h : OnlyRegs R r s)
    (hf : ∀ k, k < 8 → ∀ u, OnlyRegs R u (f u k)) : OnlyRegs R r ((enabledPoints x).foldl f s) :=
  OnlyRegs.foldlMem h fun k hk u => hf k (List.mem_range.mp (List.mem_of_mem_filter hk)) u

/-- A state made by replacing other parts of another. -/
theorem OnlyRegs.lit {R : List RegSet} {r t : State} {live : NMap Nat} {ticks : Nat} {tai : Nat} {free : Nat} {mast : Mast} {host
    : HostIf} {deck : Deck} {ports : NMap Port} {ing : Ingest} {mkt : Market} {scales : Scales} {cap : Capture} {pak : Packer} {nest :
    Nest} {egr : Egress} {pair : Pair} {till : Till} {mem : MemInt} {ledger : Ledger} {sentry : Sentry} {boot : Boot} {power : Power}
    {nodeOk : Bool} {cfg : Image} {out : List OutMsg} {pending : List Instr} (h : OnlyRegs R r t) :
    OnlyRegs R r ⟨t.regs, live, ticks, tai, free, mast, host, deck, ports, ing, mkt, scales, cap, pak, nest, egr, pair, till, mem,
      ledger, sentry, boot, power, nodeOk, cfg, out, pending⟩ := ⟨fun a ha => h.same a ha⟩

/-- The offset belongs to one of the sets. -/
def Covered (R : List RegSet) (a : Nat) : Prop := ∃ f ∈ R, f.has a

theorem covReg {R : List RegSet} {a : Nat} (h : reg a ∈ R) : Covered R a := ⟨_, h, 0, 0, .inr Nat.one_pos, Nat.one_pos, rfl⟩

theorem covRun {R : List RegSet} {a n : Nat} (h : regRun a n ∈ R) : ∀ k, k < n → Covered R (a + 4 * k) :=
  fun k hk => ⟨_, h, 0, k, .inr Nat.one_pos, hk, rfl⟩

theorem covTwo {R : List RegSet} {a : Nat} (h : regRun a 2 ∈ R) : Covered R a ∧ Covered R (a + 4) :=
  ⟨covRun h 0 (by decide), covRun h 1 (by decide)⟩

theorem covAny {R : List RegSet} (h : anyReg ∈ R) (a : Nat) : Covered R a := ⟨_, h, a, 0, .inl rfl, Nat.one_pos, by show a = 0 + 1 * a + 4 * 0; omega⟩

theorem covWide {R : List RegSet} {a n i : Nat} (h : (⟨a, n, 0, 1⟩ : RegSet) ∈ R) : Covered R (a + n * i) := ⟨_, h, i, 0, .inl
    rfl, Nat.one_pos, rfl⟩

theorem covFam {R : List RegSet} {f : Nat → Nat} {n i : Nat} (h : regFam f n ∈ R) (hl : ∀ i, f i = f 0 + (f 1 - f 0) * i) (hi : i
    < n) :
    Covered R (f i) := ⟨_, h, i, 0, .inr hi, Nat.one_pos, hl i⟩

theorem covFams {R : List RegSet} {f : Nat → Nat} {n m i : Nat} (h : regFams f n m ∈ R) (hl : ∀ i, f i = f 0 + (f 1 - f 0) * i)
    (hi : i < n) :
    ∀ k, k < m → Covered R (f i + 4 * k) := fun k hk => ⟨_, h, i, k, .inr hi, hk, by show f i + 4 * k = f 0 + (f 1 - f 0) * i + 4 * k; rw [← hl i]⟩

/-- The command answers a next state in which no register changes but those of `R`. -/
def AnswersOnly (R : List RegSet) (r : State) (o : Host.Outcome State Fault Refusal) : Prop := ∃ t, o = .next t ∧ OnlyRegs R r t

theorem AnswersOnly.next {R : List RegSet} {r t : State} (h : OnlyRegs R r t) : AnswersOnly R r (.next t) := ⟨t, rfl, h⟩
theorem AnswersOnly.done {R : List RegSet} {r t : State} (h : OnlyRegs R r t) : AnswersOnly R r (done t) := ⟨t, rfl, h⟩
theorem AnswersOnly.inFull {R : List RegSet} {r s t : State} (h : OnlyRegs R r s) (k : OnlyRegs R r t) : AnswersOnly R r (inFull s
    t) :=
  ⟨_, rfl, OnlyRegs.ite k h⟩
theorem AnswersOnly.powered {R : List RegSet} {r s t : State} (h : OnlyRegs R r s) (k : OnlyRegs R r t) : AnswersOnly R r (powered
    s t) :=
  ⟨_, rfl, OnlyRegs.ite h k⟩

theorem wr_only {R : List RegSet} {s₀ : State} (a : Nat) (v : Word) (s : State) (h₀ : OnlyRegs R s₀ s) (hc : Covered R a) :
    OnlyRegs R s₀ (wr a v s) := h₀.trans ⟨fun b hb => rd_wr_ne a b v s (by
  rintro rfl
  obtain ⟨f, hf, h⟩ := hc
  exact hb f hf h)⟩

theorem wrWords_only {R : List RegSet} {s₀ : State} (a : Nat) (l : List Word) (s : State) (n : Nat) (h₀ : OnlyRegs R s₀ s) (hl :
    l.length ≤ n)
    (hR : regRun a n ∈ R) : OnlyRegs R s₀ (wrWords a l s) := by
  have key : ∀ (l : List Word) (a : Nat) (s : State), OnlyRegs R s₀ s → (∀ k, k < l.length → Covered R (a + 4 * k)) → OnlyRegs R
      s₀ (wrWords a l s) := by
    intro l
    induction l with
    | nil => exact fun _ _ h _ => h
    | cons w ws ih =>
      intro a s h hk
      refine ih (a + 4) _ (wr_only _ _ _ h (hk 0 (Nat.succ_pos _))) fun k hk' => ?_
      have := hk (k + 1) (Nat.succ_lt_succ hk')
      rwa [show a + 4 * (k + 1) = a + 4 + 4 * k from by omega] at this
  exact key l a s h₀ fun k hk => covRun hR k (Nat.lt_of_lt_of_le hk hl)

end Sys2Proof.Machine
end

