-- ==== Sys2Proof/Laws/RegsShared.lean ====
section
/-!
SUPPORT. Which registers each operation can change (Safety.OnlyRegs): the operations of Ops, the queues, the ports, the rules, the energy records and the packer.
-/

namespace Sys2Proof.Machine

open Sys2Proof

set_option Elab.async false
set_option linter.all false

set_option maxRecDepth 4000

theorem emit_only {R : List RegSet} {s₀ : State} (m : OutMsg) (s : State) (h₀ : OnlyRegs R s₀ s) :
    OnlyRegs R s₀ (emit m s) := h₀.pass (emit_within (L := [.out]) m s (Within.refl s) (List.Subset.refl _)) (by decide)

theorem answer_only {R : List RegSet} {s₀ : State} (who : Req) (v : BitVec 64) (s : State) (h₀ : OnlyRegs R s₀ s) :
    OnlyRegs R s₀ (answer who v s) := h₀.pass (answer_within (L := [.out]) who v s (Within.refl s) (List.Subset.refl _)) (by decide)

theorem wrF_only {R : List RegSet} {s₀ : State} (a : Nat) (lo : Nat) (n : Nat) (v : Nat) (s : State) (hc : Covered R a) (h₀ :
    OnlyRegs R s₀ s)
    (hR : [] ⊆ R) : OnlyRegs R s₀ (wrF a lo n v s) := by
  unfold wrF
  with_reducible repeat' first
    | assumption
    | apply wr_only

theorem bumpF_only {R : List RegSet} {s₀ : State} (a : Nat) (lo : Nat) (n : Nat) (s : State) (hc : Covered R a) (h₀ : OnlyRegs R s₀ s)
    (hR : [] ⊆ R) : OnlyRegs R s₀ (bumpF a lo n s) := by
  unfold bumpF
  with_reducible repeat' first
    | assumption
    | apply wrF_only

theorem bumpSat_only {R : List RegSet} {s₀ : State} (a : Nat) (s : State) (hc : Covered R a) (h₀ : OnlyRegs R s₀ s)
    (hR : [] ⊆ R) : OnlyRegs R s₀ (bumpSat a s) := by
  unfold bumpSat
  with_reducible repeat' first
    | assumption
    | apply wr_only

theorem count_only {R : List RegSet} {s₀ : State} (a : Nat) (n : Nat) (s : State) (h₀ : OnlyRegs R s₀ s) :
    OnlyRegs R s₀ (count a n s) := h₀.pass (count_within (L := [.live]) a n s (Within.refl s) (List.Subset.refl _)) (by decide)

theorem vectorEdge_only {R : List RegSet} {s₀ : State} (v : Nat) (s : State) (t : State) (h₀ : OnlyRegs R s₀ t) :
    OnlyRegs R s₀ (vectorEdge v s t) := h₀.pass (vectorEdge_within (L := [.host, .out]) v s t (Within.refl t) (List.Subset.refl
      _)) (by decide)

theorem setInt_only {R : List RegSet} {s₀ : State} (a : Nat) (k : Nat) (s : State) (hc : Covered R a) (h₀ : OnlyRegs R s₀ s)
    (hR : [] ⊆ R) : OnlyRegs R s₀ (setInt a k s) := by
  unfold setInt
  with_reducible repeat' first
    | assumption
    | apply vectorEdge_only
    | apply wr_only

theorem offerPost_only {R : List RegSet} {s₀ : State} (src : PostSource) (t : Nat) (s : State) (h₀ : OnlyRegs R s₀ s)
    (hR : [reg CTL_INT] ⊆ R) : OnlyRegs R s₀ (offerPost src t s) := by
  unfold offerPost
  repeat' first
    | exact List.Subset.trans (by decide) hR
    | exact covReg (hR (by decide))
    | with_reducible apply setInt_only
    | with_reducible apply OnlyRegs.foldlPoints
    | (with_reducible apply OnlyRegs.lit; first | with_reducible assumption | with_reducible apply OnlyRegs.ite)

theorem raise_only {R : List RegSet} {s₀ : State} (a : Nat) (k : Nat) (s : State) (hc : Covered R a) (h₀ : OnlyRegs R s₀ s)
    (hR : [reg CTL_INT] ⊆ R) : OnlyRegs R s₀ (raise a k s) := by
  unfold raise
  with_reducible repeat' first
    | exact OnlyRegs.refl _
    | assumption
    | exact List.Subset.trans (by decide) hR
    | (intro _; try dsimp only)
    | apply OnlyRegs.ite
    | apply offerPost_only
    | apply setInt_only
    | apply OnlyRegs.foldlPoints
    | apply OnlyRegs.foldl

theorem countDrop_only {R : List RegSet} {s₀ : State} (sev : Nat) (s : State) (b_sev : sev < 8) (h₀ : OnlyRegs R s₀ s)
    (hR : [reg CTL_INT, reg LDG_INT, regFam LDG_DROP 8] ⊆ R) : OnlyRegs R s₀ (countDrop sev s) := by
  unfold countDrop
  exact raise_only _ _ _ (covReg (hR (by decide))) (bumpSat_only _ _
    (covFam (f := LDG_DROP) (n := 8) (hR (by decide)) (fun i => by simp only [LDG_DROP]) b_sev) (h₀.of_regs rfl)
    (List.nil_subset _)) (List.Subset.trans (by decide) hR)

theorem drawFree_only {R : List RegSet} {s₀ : State} (s : State) (h₀ : OnlyRegs R s₀ s) :
    OnlyRegs R s₀ (drawFree s) := h₀.pass (drawFree_within (L := [.free]) s (Within.refl s) (List.Subset.refl _)) (by decide)

theorem setWindow_only {R : List RegSet} {s₀ : State} (w : Nat) (x : Window) (s : State) (h₀ : OnlyRegs R s₀ s) :
    OnlyRegs R s₀ (setWindow w x s) := h₀.pass (setWindow_within (L := [.host]) w x s (Within.refl s) (List.Subset.refl _)) (by
      decide)

theorem endWindow_only {R : List RegSet} {s₀ : State} (w : Win) (why : Nat) (s : State) (h₀ : OnlyRegs R s₀ s) :
    OnlyRegs R s₀ (endWindow w why s) := h₀.pass (endWindow_within (L := [.host]) w why s (Within.refl s) (List.Subset.refl _))
      (by decide)

theorem flushAsked_only {R : List RegSet} {s₀ : State} (sev : Nat) (s : State) (h₀ : OnlyRegs R s₀ s) :
    OnlyRegs R s₀ (flushAsked sev s) := h₀.pass (flushAsked_within (L := [.ledger]) sev s (Within.refl s) (List.Subset.refl _))
      (by decide)

theorem holdWrite_only {R : List RegSet} {s₀ : State} (c : Instr) (who : Req) (s : State) (h₀ : OnlyRegs R s₀ s) :
    OnlyRegs R s₀ (holdWrite c who s) := h₀.pass (holdWrite_within (L := [.host]) c who s (Within.refl s) (List.Subset.refl _))
      (by decide)

theorem hostServe_only {R : List RegSet} {s₀ : State} (c : Instr) (ofs : Nat) (f : State → State) (s : State) (h_f : ∀ (u :
    State), OnlyRegs R u (f u)) (h₀ : OnlyRegs R s₀ s)
    (hR : [] ⊆ R) : OnlyRegs R s₀ (hostServe c ofs f s) := by
  unfold hostServe
  with_reducible repeat' first
    | apply OnlyRegs.app h_f
    | apply h_f
    | apply OnlyRegs.foldlPoints
    | (apply OnlyRegs.lit; first | assumption | apply OnlyRegs.ite)

theorem logEvent_only {R : List RegSet} {s₀ : State} (src code sev : Nat) (key : Word) (data : List Word) (s : State) (b_sev : sev
    < 8)
    (h₀ : OnlyRegs R s₀ s) (hR : [reg CTL_INT, reg LDG_INT, regFam LDG_DROP 8] ⊆ R) : OnlyRegs R s₀ (logEvent src code sev key
      data s) := by
  unfold logEvent
  dsimp only
  split
  · exact h₀.of_regs rfl
  · split
    · exact h₀.of_regs rfl
    · split
      · exact countDrop_only _ _ b_sev h₀ hR
      · rename_i hv
        exact countDrop_only _ _ (Nat.lt_trans (List.mem_range.mp (List.mem_of_find?_eq_some hv)) b_sev) (h₀.of_regs rfl) hR

theorem openEmpty_only {R : List RegSet} {s₀ : State} (w : Win) (why : Nat) (s : State) (h₀ : OnlyRegs R s₀ s) :
    OnlyRegs R s₀ (openEmpty w why s) := h₀.pass (openEmpty_within (L := [.host]) w why s (Within.refl s) (List.Subset.refl _))
      (by decide)

theorem openWindow_only {R : List RegSet} {s₀ : State} (w : Win) (ws : List (BitVec 64)) (pad : Nat) (s : State) (h₀ : OnlyRegs R
    s₀ s) :
    OnlyRegs R s₀ (openWindow w ws pad s) := h₀.pass (openWindow_within (L := [.host]) w ws pad s (Within.refl s)
      (List.Subset.refl _)) (by decide)

theorem serve_only {R : List RegSet} {s₀ : State} (c : Instr) (who : Req) (ofs : Nat) (f : State → State) (s : State) (h_f : ∀ (u
    : State), OnlyRegs R u (f u)) (h₀ : OnlyRegs R s₀ s)
    (hR : [] ⊆ R) : OnlyRegs R s₀ (serve c who ofs f s) := by
  unfold serve
  with_reducible repeat' first
    | assumption
    | apply OnlyRegs.app h_f
    | apply h_f
    | apply hostServe_only
    | apply OnlyRegs.foldlPoints
    | split

theorem setStat_only {R : List RegSet} {s₀ : State} (a : Nat) (k : Nat) (b : Bool) (s : State) (hc : Covered R a) (h₀ : OnlyRegs R
    s₀ s)
    (hR : [] ⊆ R) : OnlyRegs R s₀ (setStat a k b s) := by
  unfold setStat
  with_reducible repeat' first
    | assumption
    | apply wr_only

theorem setThread_only {R : List RegSet} {s₀ : State} (t : Nat) (x : Thread) (s : State) (h₀ : OnlyRegs R s₀ s) :
    OnlyRegs R s₀ (setThread t x s) := h₀.pass (setThread_within (L := [.deck]) t x s (Within.refl s) (List.Subset.refl _)) (by
      decide)

theorem wr64_only {R : List RegSet} {s₀ : State} (a v : Nat) (s : State) (hc : Covered R a ∧ Covered R (a + 4)) (h₀ : OnlyRegs R s₀ s)
    (_ : [] ⊆ R) : OnlyRegs R s₀ (wr64 a v s) :=
  wr_only _ _ _ (wr_only _ _ _ h₀ hc.1) hc.2

theorem snapOne_only {R : List RegSet} {s₀ : State} (clr : Bool) (a : Nat) (s : State) (hc : Covered R a ∧ Covered R (a + 4))
    (h₀ : OnlyRegs R s₀ s) (_ : [] ⊆ R) : OnlyRegs R s₀ (snapOne clr a s) := by
  unfold snapOne
  split
  · exact (wr64_only a _ s hc h₀ (List.nil_subset _)).of_regs rfl
  · exact wr64_only a _ s hc h₀ (List.nil_subset _)

theorem snapshot_only {R : List RegSet} {s₀ : State} (base n seq : Nat) (clr : Bool) (s : State) (h₀ : OnlyRegs R s₀ s)
    (hb : ∀ k, k < 2 * n → Covered R (base + 4 * k)) (hs : Covered R seq) : OnlyRegs R s₀ (snapshot base n seq clr s) :=
  bumpF_only _ _ _ _ hs (OnlyRegs.forUpTo h₀ fun k hk u => snapOne_only _ _ u
    ⟨by have := hb (2 * k) (by omega); rwa [show base + 4 * (2 * k) = base + 8 * k from by omega] at this,
     by have := hb (2 * k + 1) (by omega); rwa [show base + 4 * (2 * k + 1) = base + 8 * k + 4 from by omega] at this⟩
    (OnlyRegs.refl u) (List.nil_subset _)) (List.nil_subset _)

theorem updateHoldExc_only {R : List RegSet} {s₀ : State} (s : State) (h₀ : OnlyRegs R s₀ s) :
    OnlyRegs R s₀ (updateHoldExc s) := h₀.pass (updateHoldExc_within (L := [.mast]) s (Within.refl s) (List.Subset.refl _)) (by
      decide)

theorem portCount_only {R : List RegSet} {s₀ : State} (p : Nat) (k : Nat) (n : Nat) (s : State) (h₀ : OnlyRegs R s₀ s) :
    OnlyRegs R s₀ (portCount p k n s) := h₀.pass (portCount_within (L := [.live]) p k n s (Within.refl s) (List.Subset.refl _))
      (by decide)

theorem setPort_only {R : List RegSet} {s₀ : State} (p : Nat) (x : Port) (s : State) (h₀ : OnlyRegs R s₀ s) :
    OnlyRegs R s₀ (setPort p x s) := h₀.pass (setPort_within (L := [.ports]) p x s (Within.refl s) (List.Subset.refl _)) (by decide)

theorem leaveTxLpi_only {R : List RegSet} {s₀ : State} (p : Nat) (s : State) (h₀ : OnlyRegs R s₀ s) :
    OnlyRegs R s₀ (leaveTxLpi p s) := h₀.pass (leaveTxLpi_within (L := [.live, .ports]) p s (Within.refl s) (List.Subset.refl _))
      (by decide)

theorem setLedger_only {R : List RegSet} {s₀ : State} (f : Ledger → Ledger) (s : State) (h₀ : OnlyRegs R s₀ s) :
    OnlyRegs R s₀ (setLedger f s) := h₀.pass (setLedger_within (L := [.ledger]) f s (Within.refl s) (List.Subset.refl _)) (by decide)

theorem ledgerOverrun_only {R : List RegSet} {s₀ : State} (s : State) (h₀ : OnlyRegs R s₀ s)
    (hR : [reg LDG_RD_STAT] ⊆ R) : OnlyRegs R s₀ (ledgerOverrun s) := by
  unfold ledgerOverrun
  repeat' first
    | with_reducible assumption
    | exact covReg (hR (by decide))
    | with_reducible apply endWindow_only
    | with_reducible apply setLedger_only
    | with_reducible apply wr_only

theorem energyOverrun_only {R : List RegSet} {s₀ : State} (ws : List Word) (s : State) (h₀ : OnlyRegs R s₀ s)
    (hR : [reg LDG_RD_STAT] ⊆ R) : OnlyRegs R s₀ (energyOverrun ws s) := by
  unfold energyOverrun
  with_reducible repeat' first
    | assumption
    | apply OnlyRegs.ite
    | apply ledgerOverrun_only

theorem eventOverrun_only {R : List RegSet} {s₀ : State} (epoch : Nat) (seq : Nat) (s : State) (h₀ : OnlyRegs R s₀ s)
    (hR : [reg LDG_RD_STAT] ⊆ R) : OnlyRegs R s₀ (eventOverrun epoch seq s) := by
  unfold eventOverrun
  with_reducible repeat' first
    | assumption
    | apply OnlyRegs.ite
    | apply ledgerOverrun_only

theorem svcReply_only {R : List RegSet} {s₀ : State} (cmd : Nat) (status : Nat) (seq : Word) (payload : List Nat) (s : State) (h₀
    : OnlyRegs R s₀ s) :
    OnlyRegs R s₀ (svcReply cmd status seq payload s) := h₀.pass (svcReply_within (L := [.free, .out]) cmd status seq payload s
      (Within.refl s) (List.Subset.refl _)) (by decide)

theorem putOuts_only {R : List RegSet} {s₀ : State} (i : Nat) (ws : List Nat) (s : State) (h₀ : OnlyRegs R s₀ s)
    (hR : [regRun (tillBase 0 + 0x18) 4, regRun (tillBase 1 + 0x18) 4] ⊆ R) : OnlyRegs R s₀ (putOuts i ws s) := by
  refine OnlyRegs.forUpTo h₀ fun k hk u => wr_only _ _ _ (OnlyRegs.refl u) ?_
  have e : tillBase i = tillBase 0 ∨ tillBase i = tillBase 1 := by unfold tillBase; split <;> simp
  rcases e with e | e <;> rw [e]
  · exact covRun (hR (by decide)) k hk
  · exact covRun (hR (by decide)) k hk

theorem putMbox_only {R : List RegSet} {s₀ : State} (i : Nat) (bs : List Nat) (s : State) (h₀ : OnlyRegs R s₀ s)
    (hR : [regRun 0x70200 64, regRun 0x70A00 64] ⊆ R) : OnlyRegs R s₀ (putMbox i bs s) := by
  refine OnlyRegs.forUpTo h₀ fun k hk u => wr_only _ _ _ (OnlyRegs.refl u) ?_
  split
  · exact covRun (hR (by decide)) k hk
  · exact covRun (hR (by decide)) k hk

theorem putResult_only {R : List RegSet} {s₀ : State} (r : TillReq) (o : TillOut) (s : State) (h₀ : OnlyRegs R s₀ s)
    (hR : [reg (tillBase 0 + 0x14), reg (tillBase 1 + 0x14), reg CTL_INT, reg TIL_D_INT, reg TIL_INT, regRun (tillBase 0 + 0x18)
      4, regRun (tillBase 1 + 0x18) 4, regRun 0x70200 64, regRun 0x70A00 64] ⊆ R) : OnlyRegs R s₀ (putResult r o s) := by
  unfold putResult
  have hc : Covered R (tillBase r.iface + 0x14) := by
    have e : tillBase r.iface = tillBase 0 ∨ tillBase r.iface = tillBase 1 := by unfold tillBase; split <;> simp
    rcases e with e | e <;> rw [e]
    · exact covReg (hR (by decide))
    · exact covReg (hR (by decide))
  have h : OnlyRegs R s₀ (putOuts r.iface o.outs (putMbox r.iface o.mbox (wr (tillBase r.iface + 0x14) (wordOf (o.status + 2 ^ 16
      * o.slot)) s))) :=
    putOuts_only _ _ _ (putMbox_only _ _ _ (wr_only _ _ _ h₀ hc) (List.Subset.trans (by decide) hR)) (List.Subset.trans (by
      decide) hR)
  split
  · exact svcReply_only _ _ _ _ _ h₀
  · dsimp only
    split
    · exact wr_only _ _ _ h (covReg (hR (by decide)))
    · exact raise_only _ _ _ (covReg (hR (by decide))) h (List.Subset.trans (by decide) hR)

theorem abortRunning_only {R : List RegSet} {s₀ : State} (s : State) (h₀ : OnlyRegs R s₀ s)
    (hR : [reg (tillBase 0 + 0x14), reg (tillBase 1 + 0x14), reg CTL_INT, reg TIL_D_INT, reg TIL_INT, regRun (tillBase 0 + 0x18)
      4, regRun (tillBase 1 + 0x18) 4, regRun 0x70200 64, regRun 0x70A00 64] ⊆ R) : OnlyRegs R s₀ (abortRunning s) := by
  unfold abortRunning
  with_reducible repeat' first
    | assumption
    | apply putResult_only
    | apply OnlyRegs.foldlPoints
    | (apply OnlyRegs.lit; first | assumption)
    | split

theorem setAuth_only {R : List RegSet} {s₀ : State} (op : Nat) (x : Option AuthReq) (s : State) (h₀ : OnlyRegs R s₀ s) :
    OnlyRegs R s₀ (setAuth op x s) := h₀.pass (setAuth_within (L := [.till]) op x s (Within.refl s) (List.Subset.refl _)) (by decide)

theorem setSlot_only {R : List RegSet} {s₀ : State} (n : Nat) (x : TillSlot) (s : State) (h₀ : OnlyRegs R s₀ s) :
    OnlyRegs R s₀ (setSlot n x s) := h₀.pass (setSlot_within (L := [.till]) n x s (Within.refl s) (List.Subset.refl _)) (by decide)

theorem destroySlot_only {R : List RegSet} {s₀ : State} (n : Nat) (s : State) (h₀ : OnlyRegs R s₀ s) :
    OnlyRegs R s₀ (destroySlot n s) := h₀.pass (destroySlot_within (L := [.till]) n s (Within.refl s) (List.Subset.refl _)) (by
      decide)

theorem applyEffect_only {R : List RegSet} {s₀ : State} (e : TillEffect) (s : State) (h₀ : OnlyRegs R s₀ s)
    (hR : [reg CTL_INT, reg LDG_INT, reg TIL_INT, reg TIL_TAMPER, regFam LDG_DROP 8] ⊆ R) : OnlyRegs R s₀ (applyEffect e s) := by
  unfold applyEffect
  repeat' first
    | exact List.Subset.trans (by decide) hR
    | (intro _; try dsimp only)
    | exact covReg (hR (by decide))
    | (show (_ : Nat) < _; decide)
    | with_reducible apply logEvent_only
    | with_reducible apply setAuth_only
    | with_reducible apply openWindow_only
    | with_reducible apply wr_only
    | with_reducible apply raise_only
    | with_reducible apply destroySlot_only
    | with_reducible apply setSlot_only
    | with_reducible apply OnlyRegs.foldlPoints
    | (with_reducible apply OnlyRegs.lit; first | with_reducible exact OnlyRegs.refl _ | with_reducible assumption | with_reducible apply OnlyRegs.ite | with_reducible apply setSlot_only | with_reducible apply OnlyRegs.foldl)
    | split

theorem latchTamper_only {R : List RegSet} {s₀ : State} (src : Nat) (s : State) (h₀ : OnlyRegs R s₀ s)
    (hR : [reg TIL_TAMPER, reg TIL_TAMPER_TICK_HI, reg TIL_TAMPER_TICK_LO] ⊆ R) : OnlyRegs R s₀ (latchTamper src s) := by
  unfold latchTamper
  repeat' first
    | with_reducible assumption
    | with_reducible apply OnlyRegs.ite
    | exact covReg (hR (by decide))
    | with_reducible apply wr_only

theorem setOpen_only {R : List RegSet} {s₀ : State} (i : Nat) (x : Option TillOpen) (s : State) (h₀ : OnlyRegs R s₀ s) :
    OnlyRegs R s₀ (setOpen i x s) := h₀.pass (setOpen_within (L := [.till]) i x s (Within.refl s) (List.Subset.refl _)) (by decide)

theorem tillFinish_only {R : List RegSet} {s₀ : State} (s : State) (h₀ : OnlyRegs R s₀ s)
    (hR : [reg (tillBase 0 + 0x14), reg (tillBase 1 + 0x14), reg CTL_INT, reg LDG_INT, reg TIL_D_INT, reg TIL_INT, reg TIL_TAMPER,
      regFam LDG_DROP 8, regRun (tillBase 0 + 0x18) 4, regRun (tillBase 1 + 0x18) 4, regRun 0x70200 64, regRun 0x70A00 64] ⊆ R) :
      OnlyRegs R s₀ (tillFinish s) := by
  unfold tillFinish
  with_reducible repeat' first
    | exact List.Subset.trans (by decide) hR
    | apply applyEffect_only
    | apply putResult_only
    | apply OnlyRegs.foldlPoints
    | (apply OnlyRegs.lit; first | assumption)
    | split

theorem tillStart_only {R : List RegSet} {s₀ : State} (s : State) (h₀ : OnlyRegs R s₀ s)
    (hR : [regRun 0x70200 64, regRun 0x70A00 64] ⊆ R) : OnlyRegs R s₀ (tillStart s) := by
  unfold tillStart
  with_reducible repeat' first
    | assumption
    | apply setOpen_only
    | apply drawFree_only
    | apply putMbox_only
    | apply OnlyRegs.foldlPoints
    | (apply OnlyRegs.lit; first | apply setOpen_only)
    | split

theorem zeroizeAll_only {R : List RegSet} {s₀ : State} (s : State) (h₀ : OnlyRegs R s₀ s) :
    OnlyRegs R s₀ (zeroizeAll s) := h₀.pass (zeroizeAll_within (L := [.till]) s (Within.refl s) (List.Subset.refl _)) (by decide)

theorem egrCount_only {R : List RegSet} {s₀ : State} (k : Nat) (n : Nat) (s : State) (h₀ : OnlyRegs R s₀ s) :
    OnlyRegs R s₀ (egrCount k n s) := h₀.pass (egrCount_within (L := [.live]) k n s (Within.refl s) (List.Subset.refl _)) (by decide)

theorem nextItem_only {R : List RegSet} {s₀ : State} (s : State) (h₀ : OnlyRegs R s₀ s) :
    OnlyRegs R s₀ (nextItem s) := h₀.pass (nextItem_within (L := [.egr]) s (Within.refl s) (List.Subset.refl _)) (by decide)

theorem setQueue_only {R : List RegSet} {s₀ : State} (q : Nat) (x : Queue) (s : State) (h₀ : OnlyRegs R s₀ s) :
    OnlyRegs R s₀ (setQueue q x s) := h₀.pass (setQueue_within (L := [.egr]) q x s (Within.refl s) (List.Subset.refl _)) (by decide)

theorem countFrame_only {R : List RegSet} {s₀ : State} (o : Option Nat) (s : State) (h₀ : OnlyRegs R s₀ s) :
    OnlyRegs R s₀ (countFrame o s) := h₀.pass (countFrame_within (L := [.live, .egr]) o s (Within.refl s) (List.Subset.refl _))
      (by decide)

theorem qLand_only {R : List RegSet} {s₀ : State} (q : Nat) (i : QItem) (s : State) (h₀ : OnlyRegs R s₀ s)
    (hR : [reg CTL_INT, reg EGR_QINT] ⊆ R) : OnlyRegs R s₀ (qLand q i s) := by
  unfold qLand
  repeat' first
    | with_reducible assumption
    | exact List.Subset.trans (by decide) hR
    | with_reducible apply OnlyRegs.ite
    | exact covReg (hR (by decide))
    | with_reducible apply setQueue_only
    | with_reducible apply countFrame_only
    | with_reducible apply leaveTxLpi_only
    | with_reducible apply raise_only

theorem compose_only {R : List RegSet} {s₀ : State} (q : Nat) (prio : Nat) (len : Nat) (alarm : Bool) (stream : Option Nat) (body
    : TxBody) (s : State) (h₀ : OnlyRegs R s₀ s)
    (hR : [reg CTL_INT, reg EGR_INT, reg EGR_QINT] ⊆ R) : OnlyRegs R s₀ (compose q prio len alarm stream body s) := by
  unfold compose
  repeat' first
    | exact List.Subset.trans (by decide) hR
    | exact covReg (hR (by decide))
    | with_reducible apply egrCount_only
    | with_reducible apply nextItem_only
    | with_reducible apply raise_only
    | with_reducible apply qLand_only
    | with_reducible apply OnlyRegs.foldlPoints
    | (with_reducible apply OnlyRegs.lit; first | with_reducible assumption | with_reducible apply OnlyRegs.ite | with_reducible apply nextItem_only)

theorem setPub_only {R : List RegSet} {s₀ : State} (p : Nat) (x : PubSt) (s : State) (h₀ : OnlyRegs R s₀ s) :
    OnlyRegs R s₀ (setPub p x s) := h₀.pass (setPub_within (L := [.egr]) p x s (Within.refl s) (List.Subset.refl _)) (by decide)

theorem pubTransmit_only {R : List RegSet} {s₀ : State} (p : Nat) (s : State) (h₀ : OnlyRegs R s₀ s)
    (hR : [reg CTL_INT, reg EGR_INT, reg EGR_QINT] ⊆ R) : OnlyRegs R s₀ (pubTransmit p s) := by
  unfold pubTransmit
  try dsimp only
  repeat' first
    | with_reducible assumption
    | exact List.Subset.trans (by decide) hR
    | exact covReg (hR (by decide))
    | with_reducible apply egrCount_only
    | with_reducible apply setPub_only
    | with_reducible apply compose_only
    | with_reducible apply raise_only
    | with_reducible apply OnlyRegs.foldlPoints
    | split

theorem pubNew_only {R : List RegSet} {s₀ : State} (p : Nat) (a : Option AlarmRec) (s : State) (h₀ : OnlyRegs R s₀ s)
    (hR : [reg CTL_INT, reg EGR_INT, reg EGR_QINT] ⊆ R) : OnlyRegs R s₀ (pubNew p a s) := by
  unfold pubNew
  with_reducible repeat' first
    | assumption
    | apply setPub_only
    | apply pubTransmit_only
    | apply OnlyRegs.foldlPoints
    | split

theorem pubAll_only {R : List RegSet} {s₀ : State} (s : State) (h₀ : OnlyRegs R s₀ s)
    (hR : [reg CTL_INT, reg EGR_INT, reg EGR_QINT] ⊆ R) : OnlyRegs R s₀ (pubAll s) := by
  unfold pubAll
  with_reducible repeat' first
    | exact OnlyRegs.refl _
    | assumption
    | (intro _; try dsimp only)
    | apply OnlyRegs.ite
    | apply pubNew_only
    | apply OnlyRegs.foldlPoints
    | apply OnlyRegs.foldl

theorem nodeEdge_only {R : List RegSet} {s₀ : State} (s : State) (t : State) (h₀ : OnlyRegs R s₀ t)
    (hR : [reg CTL_INT, reg EGR_INT, reg EGR_QINT] ⊆ R) : OnlyRegs R s₀ (nodeEdge s t) := by
  unfold nodeEdge
  with_reducible repeat' first
    | assumption
    | apply OnlyRegs.ite
    | apply pubAll_only

theorem mastTo_only {R : List RegSet} {s₀ : State} (st : MastState) (s : State) (h₀ : OnlyRegs R s₀ s)
    (hR : [reg CTL_INT, reg EGR_INT, reg EGR_QINT, reg MST_INT] ⊆ R) : OnlyRegs R s₀ (mastTo st s) := by
  unfold mastTo
  repeat' first
    | exact List.Subset.trans (by decide) hR
    | exact covReg (hR (by decide))
    | with_reducible apply nodeEdge_only
    | with_reducible apply raise_only
    | with_reducible apply OnlyRegs.foldlPoints
    | (with_reducible apply OnlyRegs.lit; first | with_reducible assumption)

theorem updateNodeOk_only {R : List RegSet} {s₀ : State} (s : State) (h₀ : OnlyRegs R s₀ s)
    (hR : [reg CTL_INT, reg EGR_INT, reg EGR_QINT] ⊆ R) : OnlyRegs R s₀ (updateNodeOk s) := by
  unfold updateNodeOk
  with_reducible repeat' first
    | assumption
    | apply nodeEdge_only
    | apply OnlyRegs.foldlPoints
    | (apply OnlyRegs.lit; first | assumption)

theorem capEvent_only {R : List RegSet} {s₀ : State} (src : Nat) (time : Nat) (level : Bool) (edge : Bool) (s : State) (h₀ :
    OnlyRegs R s₀ s) :
    OnlyRegs R s₀ (capEvent src time level edge s) := h₀.pass (capEvent_within (L := [.cap]) src time level edge s (Within.refl s)
      (List.Subset.refl _)) (by decide)

theorem setEntry_only {R : List RegSet} {s₀ : State} (e : Nat) (x : SchEntry) (s : State) (h₀ : OnlyRegs R s₀ s) :
    OnlyRegs R s₀ (setEntry e x s) := h₀.pass (setEntry_within (L := [.mast]) e x s (Within.refl s) (List.Subset.refl _)) (by decide)

theorem schTarget_only {R : List RegSet} {s₀ : State} (e : Nat) (s : State) (h₀ : OnlyRegs R s₀ s)
    (hR : [reg CTL_INT, reg MST_INT] ⊆ R) : OnlyRegs R s₀ (schTarget e s) := by
  unfold schTarget
  try dsimp only
  repeat' first
    | exact List.Subset.trans (by decide) hR
    | exact covReg (hR (by decide))
    | with_reducible apply setEntry_only
    | with_reducible apply raise_only
    | with_reducible apply capEvent_only
    | with_reducible apply OnlyRegs.foldlPoints
    | (with_reducible apply OnlyRegs.lit; first | with_reducible assumption)
    | split

theorem schOccur_only {R : List RegSet} {s₀ : State} (e : Nat) (late : Bool) (s : State) (h₀ : OnlyRegs R s₀ s)
    (hR : [reg CTL_INT, reg MST_INT] ⊆ R) : OnlyRegs R s₀ (schOccur e late s) := by
  unfold schOccur
  repeat' first
    | with_reducible assumption
    | exact List.Subset.trans (by decide) hR
    | with_reducible apply OnlyRegs.ite
    | exact covReg (hR (by decide))
    | with_reducible apply schTarget_only
    | with_reducible apply setEntry_only
    | with_reducible apply raise_only

theorem storePast_only {R : List RegSet} {s₀ : State} (e : Nat) (x : SchEntry) (s : State) (h₀ : OnlyRegs R s₀ s)
    (hR : [reg CTL_INT, reg MST_INT] ⊆ R) : OnlyRegs R s₀ (storePast e x s) := by
  unfold storePast
  repeat' first
    | with_reducible assumption
    | exact List.Subset.trans (by decide) hR
    | with_reducible apply OnlyRegs.ite
    | exact covReg (hR (by decide))
    | with_reducible apply setEntry_only
    | with_reducible apply schOccur_only
    | with_reducible apply raise_only

theorem schStore_only {R : List RegSet} {s₀ : State} (s : State) (h₀ : OnlyRegs R s₀ s)
    (hR : [reg CTL_INT, reg MST_INT, reg MST_SCH_STAT] ⊆ R) : OnlyRegs R s₀ (schStore s) := by
  unfold schStore
  repeat' first
    | with_reducible assumption
    | exact List.Subset.trans (by decide) hR
    | with_reducible apply OnlyRegs.ite
    | exact covReg (hR (by decide))
    | with_reducible apply wrF_only
    | with_reducible apply setEntry_only
    | with_reducible apply storePast_only

theorem sendPfc_only {R : List RegSet} {s₀ : State} (p : Nat) (quanta : Nat) (s : State) (h₀ : OnlyRegs R s₀ s) :
    OnlyRegs R s₀ (sendPfc p quanta s) := h₀.pass (sendPfc_within (L := [.live, .ports, .out]) p quanta s (Within.refl s)
      (List.Subset.refl _)) (by decide)

theorem bufReach_only {R : List RegSet} {s₀ : State} (p : Nat) (bytes : Nat) (s : State) (h₀ : OnlyRegs R s₀ s) :
    OnlyRegs R s₀ (bufReach p bytes s) := h₀.pass (bufReach_within (L := [.live, .ports, .out]) p bytes s (Within.refl s)
      (List.Subset.refl _)) (by decide)

theorem linkChange_only {R : List RegSet} {s₀ : State} (p : Nat) (up : Bool) (anDone : Bool) (s : State) (b_p : p < 64) (h₀ :
    OnlyRegs R s₀ s)
    (hR : [reg CTL_INT, regFam PRT_INT 64] ⊆ R) : OnlyRegs R s₀ (linkChange p up anDone s) := by
  unfold linkChange
  repeat' first
    | with_reducible assumption
    | exact List.Subset.trans (by decide) hR
    | with_reducible apply OnlyRegs.ite
    | refine covFam (n := 64) (hR (by decide)) (fun i => by simp only [PRT_INT]) ?_
    | with_reducible apply portCount_only
    | with_reducible apply raise_only
    | with_reducible apply setPort_only

theorem offerDesc_only {R : List RegSet} {s₀ : State} (p : Nat) (i : Nat) (buf : Nat) (s : State) (h₀ : OnlyRegs R s₀ s) :
    OnlyRegs R s₀ (offerDesc p i buf s) := h₀.pass (offerDesc_within (L := [.ports]) p i buf s (Within.refl s) (List.Subset.refl
      _)) (by decide)

theorem putDesc_only {R : List RegSet} {s₀ : State} (p : Nat) (w1 : Nat) (w2 : Nat) (w3 : Nat) (bytes : List Nat) (s : State) (c0
    : Covered R (PRT_RX_HEAD p)) (h₀ : OnlyRegs R s₀ s)
    (hR : [] ⊆ R) : OnlyRegs R s₀ (putDesc p w1 w2 w3 bytes s) := by
  unfold putDesc
  with_reducible repeat' first
    | assumption
    | apply wr_only
    | apply setPort_only

theorem putFrame_only {R : List RegSet} {s₀ : State} (p : Nat) (len : Nat) (cls : Nat) (pcp : Nat) (tci : Nat) (seq : Nat) (tagged
    : Bool) (stamped : Bool) (lost : Bool) (whole : Bool) (bytes : List Nat) (k : Nat) (s : State) (c0 : Covered R (PRT_RX_HEAD p))
    (h₀ : OnlyRegs R s₀ s)
    (hR : [] ⊆ R) : OnlyRegs R s₀ (putFrame p len cls pcp tci seq tagged stamped lost whole bytes k s) := by
  unfold putFrame
  with_reducible repeat' first
    | exact OnlyRegs.refl _
    | assumption
    | (intro _; try dsimp only)
    | apply putDesc_only
    | apply OnlyRegs.foldlPoints
    | apply OnlyRegs.forUpTo

theorem rearmPort_only {R : List RegSet} {s₀ : State} (p : Nat) (s : State) (b_p : p < 64) (h₀ : OnlyRegs R s₀ s)
    (hR : [regFam PRT_RX_HEAD 64, regFam PRT_RX_TAIL 64] ⊆ R) : OnlyRegs R s₀ (rearmPort p s) := by
  unfold rearmPort
  repeat' first
    | with_reducible assumption
    | with_reducible apply OnlyRegs.ite
    | refine covFam (n := 64) (hR (by decide)) (fun i => by simp only [PRT_RX_HEAD, PRT_RX_TAIL]) ?_
    | with_reducible apply wr_only
    | with_reducible apply setPort_only

theorem setFifo_only {R : List RegSet} {s₀ : State} (k : Nat) (l : List IngItem) (s : State) (h₀ : OnlyRegs R s₀ s) :
    OnlyRegs R s₀ (setFifo k l s) := h₀.pass (setFifo_within (L := [.ing]) k l s (Within.refl s) (List.Subset.refl _)) (by decide)

theorem refillFifo_only {R : List RegSet} {s₀ : State} (k : Nat) (s : State) (h₀ : OnlyRegs R s₀ s)
    (hR : [reg CTL_INT, reg ING_INT] ⊆ R) : OnlyRegs R s₀ (refillFifo k s) := by
  unfold refillFifo
  repeat' first
    | with_reducible assumption
    | exact List.Subset.trans (by decide) hR
    | exact covReg (hR (by decide))
    | with_reducible apply setFifo_only
    | with_reducible apply raise_only
    | with_reducible apply setPort_only
    | with_reducible apply OnlyRegs.foldlPoints
    | split

theorem rxReady_only {R : List RegSet} {s₀ : State} (p : Nat) (s : State) (c0 : Covered R (PRT_INT p)) (h₀ : OnlyRegs R s₀ s)
    (hR : [reg CTL_INT] ⊆ R) : OnlyRegs R s₀ (rxReady p s) := by
  unfold rxReady
  with_reducible repeat' first
    | assumption
    | apply OnlyRegs.ite
    | apply raise_only
    | apply setPort_only

theorem toIngest_only {R : List RegSet} {s₀ : State} (i : IngItem) (s : State) (h₀ : OnlyRegs R s₀ s)
    (hR : [reg CTL_INT, reg ING_INT] ⊆ R) : OnlyRegs R s₀ (toIngest i s) := by
  unfold toIngest
  repeat' first
    | with_reducible assumption
    | exact List.Subset.trans (by decide) hR
    | with_reducible apply OnlyRegs.ite
    | exact covReg (hR (by decide))
    | with_reducible apply setFifo_only
    | with_reducible apply raise_only
    | with_reducible apply setPort_only

theorem tsqRefuse_only {R : List RegSet} {s₀ : State} (p : Nat) (egress : Bool) (tag : Nat) (s : State) (c0 : Covered R
    (PRT_TSQ_STAT p)) (c1 : Covered R (PRT_INT p)) (h₀ : OnlyRegs R s₀ s)
    (hR : [reg CTL_INT] ⊆ R) : OnlyRegs R s₀ (tsqRefuse p egress tag s) := by
  unfold tsqRefuse
  with_reducible repeat' first
    | assumption
    | exact List.Subset.trans (by decide) hR
    | apply OnlyRegs.ite
    | apply setStat_only
    | apply portCount_only
    | apply wrF_only
    | apply raise_only

theorem tsqPush_only {R : List RegSet} {s₀ : State} (p : Nat) (egress : Bool) (msg : Nat) (tag : Nat) (stamp : Nat) (s : State)
    (c0 : Covered R (PRT_TSQ_STAT p)) (c1 : Covered R (PRT_INT p)) (h₀ : OnlyRegs R s₀ s)
    (hR : [reg CTL_INT] ⊆ R) : OnlyRegs R s₀ (tsqPush p egress msg tag stamp s).1 := by
  unfold tsqPush
  try dsimp only
  with_reducible repeat' first
    | assumption
    | apply tsqRefuse_only
    | apply raise_only
    | apply setPort_only
    | apply OnlyRegs.foldlPoints
    | split

theorem toRing_only {R : List RegSet} {s₀ : State} (p : Nat) (len : Nat) (cls : Nat) (pcp : Nat) (tci : Option (BitVec 16)) (event
    : Option (Nat × Nat)) (bytes : List Nat) (s : State) (c0 : Covered R (PRT_RX_HEAD p)) (c1 : Covered R (PRT_TSQ_STAT p)) (c2 :
    Covered R (PRT_INT p)) (h₀ : OnlyRegs R s₀ s)
    (hR : [reg CTL_INT] ⊆ R) : OnlyRegs R s₀ (toRing p len cls pcp tci event bytes s) := by
  unfold toRing
  try dsimp only
  with_reducible repeat' first
    | assumption
    | exact List.Subset.trans (by decide) hR
    | apply portCount_only
    | apply tsqPush_only
    | apply putFrame_only
    | apply rxReady_only
    | apply raise_only
    | apply OnlyRegs.foldlPoints
    | split

theorem setStream_only {R : List RegSet} {s₀ : State} (n : Nat) (x : StreamSt) (s : State) (h₀ : OnlyRegs R s₀ s) :
    OnlyRegs R s₀ (setStream n x s) := h₀.pass (setStream_within (L := [.ing]) n x s (Within.refl s) (List.Subset.refl _)) (by decide)

theorem handOver_only {R : List RegSet} {s₀ : State} (n : Nat) (inst : Nat) (v : Slot) (s : State) (h₀ : OnlyRegs R s₀ s) :
    OnlyRegs R s₀ (handOver n inst v s) := h₀.pass (handOver_within (L := [.ing]) n inst v s (Within.refl s) (List.Subset.refl _))
      (by decide)

theorem measureStream_only {R : List RegSet} {s₀ : State} (n : Nat) (c : StreamCfg) (u : Int) (s : State) (h₀ : OnlyRegs R s₀ s) :
    OnlyRegs R s₀ (measureStream n c u s) := h₀.pass (measureStream_within (L := [.ing, .mkt]) n c u s (Within.refl s)
      (List.Subset.refl _)) (by decide)

theorem setTab_only {R : List RegSet} {s₀ : State} (t : Tableau) (s : State) (h₀ : OnlyRegs R s₀ s) :
    OnlyRegs R s₀ (setTab t s) := h₀.pass (setTab_within (L := [.mkt]) t s (Within.refl s) (List.Subset.refl _)) (by decide)

theorem capAlarm_only {R : List RegSet} {s₀ : State} (r : Nat) (inst : Nat) (level : Bool) (quiet : Bool) (s : State) (h₀ :
    OnlyRegs R s₀ s) :
    OnlyRegs R s₀ (capAlarm r inst level quiet s) := h₀.pass (capAlarm_within (L := [.cap]) r inst level quiet s (Within.refl s)
      (List.Subset.refl _)) (by decide)

theorem setRule_only {R : List RegSet} {s₀ : State} (r : Nat) (x : RuleSt) (s : State) (h₀ : OnlyRegs R s₀ s) :
    OnlyRegs R s₀ (setRule r x s) := h₀.pass (setRule_within (L := [.egr]) r x s (Within.refl s) (List.Subset.refl _)) (by decide)

theorem sendAlarm_only {R : List RegSet} {s₀ : State} (r : Nat) (inst : Nat) (c : RuleCfg) (a : AlarmRec) (s : State) (h₀ :
    OnlyRegs R s₀ s)
    (hR : [reg CTL_INT, reg EGR_ALSEQ, reg EGR_INT, reg EGR_QINT] ⊆ R) : OnlyRegs R s₀ (sendAlarm r inst c a s) := by
  unfold sendAlarm
  repeat' first
    | with_reducible assumption
    | exact List.Subset.trans (by decide) hR
    | with_reducible apply OnlyRegs.ite
    | exact covReg (hR (by decide))
    | with_reducible apply egrCount_only
    | with_reducible apply setRule_only
    | with_reducible apply compose_only
    | with_reducible apply pubNew_only
    | with_reducible apply wr_only
    | with_reducible apply raise_only

theorem ruleResult_only {R : List RegSet} {s₀ : State} (r : Nat) (inst : Nat) (step : Nat) (c : RuleCfg) (cond : Bool) (vals :
    List Word) (a : AlarmRec) (s : State) (h₀ : OnlyRegs R s₀ s)
    (hR : [reg CTL_INT, reg EGR_ALSEQ, reg EGR_INT, reg EGR_QINT] ⊆ R) : OnlyRegs R s₀ (ruleResult r inst step c cond vals a s) := by
  unfold ruleResult
  try dsimp only
  with_reducible repeat' first
    | assumption
    | apply setRule_only
    | apply sendAlarm_only
    | apply capAlarm_only
    | apply OnlyRegs.foldlPoints
    | split

theorem classOutput_only {R : List RegSet} {s₀ : State} (cls : Nat) (em : Bool) (inst : Nat) (tag : Nat) (early : Bool) (value :
    Bool) (suspect : Bool) (s : State) (h₀ : OnlyRegs R s₀ s)
    (hR : [reg CTL_INT, reg EGR_ALSEQ, reg EGR_INT, reg EGR_QINT] ⊆ R) : OnlyRegs R s₀ (classOutput cls em inst tag early value
      suspect s) := by
  unfold classOutput
  with_reducible repeat' first
    | exact OnlyRegs.refl _
    | assumption
    | (intro _; try dsimp only)
    | apply egrCount_only
    | apply ruleResult_only
    | apply drawFree_only
    | apply OnlyRegs.foldlPoints
    | apply OnlyRegs.foldl

theorem evalRule_only {R : List RegSet} {s₀ : State} (r : Nat) (inst : Nat) (tag : Nat) (early : Bool) (s : State) (h₀ : OnlyRegs
    R s₀ s)
    (hR : [reg CTL_INT, reg EGR_ALSEQ, reg EGR_INT, reg EGR_QINT] ⊆ R) : OnlyRegs R s₀ (evalRule r inst tag early s) := by
  unfold evalRule
  with_reducible repeat' first
    | assumption
    | apply egrCount_only
    | apply ruleResult_only
    | apply drawFree_only
    | apply OnlyRegs.foldlPoints
    | split

theorem finalMessage_only {R : List RegSet} {s₀ : State} (inst : Nat) (rev : Nat) (s : State) (p : Nat × RuleCfg) (h₀ : OnlyRegs R
    s₀ s)
    (hR : [reg CTL_INT, reg EGR_ALSEQ, reg EGR_INT, reg EGR_QINT] ⊆ R) : OnlyRegs R s₀ (finalMessage inst rev s p) := by
  unfold finalMessage
  try dsimp only
  with_reducible repeat' first
    | assumption
    | apply setRule_only
    | apply sendAlarm_only
    | apply OnlyRegs.foldlPoints
    | split

theorem rulesClose_only {R : List RegSet} {s₀ : State} (inst : Nat) (rev : Nat) (s : State) (h₀ : OnlyRegs R s₀ s)
    (hR : [reg CTL_INT, reg EGR_ALSEQ, reg EGR_INT, reg EGR_QINT] ⊆ R) : OnlyRegs R s₀ (rulesClose inst rev s) := by
  unfold rulesClose
  with_reducible repeat' first
    | exact OnlyRegs.refl _
    | assumption
    | (intro _; try dsimp only)
    | apply finalMessage_only
    | apply OnlyRegs.foldlPoints
    | apply OnlyRegs.foldl

theorem setOut_only {R : List RegSet} {s₀ : State} (k : Nat) (x : OutSt) (s : State) (h₀ : OnlyRegs R s₀ s) :
    OnlyRegs R s₀ (setOut k x s) := h₀.pass (setOut_within (L := [.egr]) k x s (Within.refl s) (List.Subset.refl _)) (by decide)

theorem sendOut_only {R : List RegSet} {s₀ : State} (k : Nat) (c : OutCfg) (m : Nat) (rev : Nat) (final : Bool) (s : State) (h₀ :
    OnlyRegs R s₀ s)
    (hR : [reg CTL_INT, reg EGR_INT, reg EGR_QINT] ⊆ R) : OnlyRegs R s₀ (sendOut k c m rev final s) := by
  unfold sendOut
  with_reducible repeat' first
    | assumption
    | apply compose_only
    | apply setOut_only

theorem outClose_only {R : List RegSet} {s₀ : State} (k : Nat) (c : OutCfg) (inst : Nat) (rev : Nat) (s : State) (h₀ : OnlyRegs R
    s₀ s)
    (hR : [reg CTL_INT, reg EGR_INT, reg EGR_QINT] ⊆ R) : OnlyRegs R s₀ (outClose k c inst rev s) := by
  unfold outClose
  with_reducible repeat' first
    | assumption
    | apply sendOut_only
    | apply setOut_only
    | apply OnlyRegs.foldlPoints
    | split

theorem outRevision_only {R : List RegSet} {s₀ : State} (k : Nat) (c : OutCfg) (inst : Nat) (rev : Nat) (changed : List Nat) (s :
    State) (h₀ : OnlyRegs R s₀ s)
    (hR : [reg CTL_INT, reg EGR_INT, reg EGR_QINT] ⊆ R) : OnlyRegs R s₀ (outRevision k c inst rev changed s) := by
  unfold outRevision
  with_reducible repeat' first
    | exact OnlyRegs.refl _
    | assumption
    | (intro _; try dsimp only)
    | apply OnlyRegs.ite
    | apply sendOut_only
    | apply OnlyRegs.foldlPoints
    | apply OnlyRegs.foldl

theorem outSeal_only {R : List RegSet} {s₀ : State} (k : Nat) (c : OutCfg) (inst : Nat) (s : State) (h₀ : OnlyRegs R s₀ s)
    (hR : [reg CTL_INT, reg EGR_INT, reg EGR_QINT] ⊆ R) : OnlyRegs R s₀ (outSeal k c inst s) := by
  unfold outSeal
  with_reducible repeat' first
    | assumption
    | apply sendOut_only
    | apply OnlyRegs.foldlPoints
    | split

theorem setPair_only {R : List RegSet} {s₀ : State} (f : Pair → Pair) (s : State) (h₀ : OnlyRegs R s₀ s) :
    OnlyRegs R s₀ (setPair f s) := h₀.pass (setPair_within (L := [.pair]) f s (Within.refl s) (List.Subset.refl _)) (by decide)

theorem setShroud_only {R : List RegSet} {s₀ : State} (l : Nat) (x : Shroud) (s : State) (h₀ : OnlyRegs R s₀ s) :
    OnlyRegs R s₀ (setShroud l x s) := h₀.pass (setShroud_within (L := [.pair]) l x s (Within.refl s) (List.Subset.refl _)) (by
      decide)

theorem shroudSend_only {R : List RegSet} {s₀ : State} (l : Nat) (typ : Nat) (ws : List Word) (s : State) (h₀ : OnlyRegs R s₀ s) :
    OnlyRegs R s₀ (shroudSend l typ ws s) := h₀.pass (shroudSend_within (L := [.pair, .out]) l typ ws s (Within.refl s)
      (List.Subset.refl _)) (by decide)

theorem bulkSend_only {R : List RegSet} {s₀ : State} (typ : Nat) (ws : List Word) (s : State) (h₀ : OnlyRegs R s₀ s) :
    OnlyRegs R s₀ (bulkSend typ ws s) := h₀.pass (bulkSend_within (L := [.pair, .out]) typ ws s (Within.refl s) (List.Subset.refl
      _)) (by decide)

theorem creditsBack_only {R : List RegSet} {s₀ : State} (l : Nat) (n : Nat) (s : State) (h₀ : OnlyRegs R s₀ s) :
    OnlyRegs R s₀ (creditsBack l n s) := h₀.pass (creditsBack_within (L := [.pair, .out]) l n s (Within.refl s) (List.Subset.refl
      _)) (by decide)

theorem pairRecord_only {R : List RegSet} {s₀ : State} (code : Nat) (sev : Nat) (key : Nat) (data : List Word) (s : State) (b_sev
    : sev < 8) (h₀ : OnlyRegs R s₀ s)
    (hR : [reg CTL_INT, reg LDG_INT, regFam LDG_DROP 8] ⊆ R) : OnlyRegs R s₀ (pairRecord code sev key data s) := by
  unfold pairRecord
  with_reducible repeat' first
    | assumption
    | apply logEvent_only

theorem shrCount_only {R : List RegSet} {s₀ : State} (k : Nat) (n : Nat) (s : State) (h₀ : OnlyRegs R s₀ s) :
    OnlyRegs R s₀ (shrCount k n s) := h₀.pass (shrCount_within (L := [.live]) k n s (Within.refl s) (List.Subset.refl _)) (by decide)

theorem digOutcome_only {R : List RegSet} {s₀ : State} (m : Nat) (s : State) (h₀ : OnlyRegs R s₀ s)
    (hR : [reg CTL_INT, reg LDG_INT, reg SHR_INT, regFam LDG_DROP 8] ⊆ R) : OnlyRegs R s₀ (digOutcome m s) := by
  unfold digOutcome
  repeat' first
    | with_reducible assumption
    | exact List.Subset.trans (by decide) hR
    | with_reducible apply OnlyRegs.ite
    | exact covReg (hR (by decide))
    | (show (_ : Nat) < _; decide)
    | with_reducible apply pairRecord_only
    | with_reducible apply raise_only
    | with_reducible apply setPair_only
    | with_reducible apply shrCount_only

theorem digCompare_only {R : List RegSet} {s₀ : State} (inst : Nat) (s : State) (h₀ : OnlyRegs R s₀ s)
    (hR : [reg CTL_INT, reg LDG_INT, reg SHR_INT, regFam LDG_DROP 8] ⊆ R) : OnlyRegs R s₀ (digCompare inst s) := by
  unfold digCompare
  with_reducible repeat' first
    | assumption
    | apply setPair_only
    | apply digOutcome_only
    | apply OnlyRegs.foldlPoints
    | split

theorem digSend_only {R : List RegSet} {s₀ : State} (s : State) (h₀ : OnlyRegs R s₀ s) :
    OnlyRegs R s₀ (digSend s) := h₀.pass (digSend_within (L := [.pair, .out]) s (Within.refl s) (List.Subset.refl _)) (by decide)

theorem digestClose_only {R : List RegSet} {s₀ : State} (inst : Nat) (rev : Nat) (s : State) (h₀ : OnlyRegs R s₀ s)
    (hR : [reg CTL_INT, reg LDG_INT, reg SHR_INT, regFam LDG_DROP 8] ⊆ R) : OnlyRegs R s₀ (digestClose inst rev s) := by
  unfold digestClose
  try dsimp only
  with_reducible repeat' first
    | assumption
    | apply digCompare_only
    | apply digSend_only
    | apply setPair_only
    | apply OnlyRegs.foldlPoints
    | split

theorem setScales_only {R : List RegSet} {s₀ : State} (f : Scales → Scales) (s : State) (h₀ : OnlyRegs R s₀ s) :
    OnlyRegs R s₀ (setScales f s) := h₀.pass (setScales_within (L := [.scales]) f s (Within.refl s) (List.Subset.refl _)) (by decide)

theorem setEnergy_only {R : List RegSet} {s₀ : State} (f : Energy → Energy) (s : State) (h₀ : OnlyRegs R s₀ s) :
    OnlyRegs R s₀ (setEnergy f s) := h₀.pass (setEnergy_within (L := [.scales]) f s (Within.refl s) (List.Subset.refl _)) (by decide)

theorem setMeter_only {R : List RegSet} {s₀ : State} (k : Nat) (x : Meter) (s : State) (h₀ : OnlyRegs R s₀ s) :
    OnlyRegs R s₀ (setMeter k x s) := h₀.pass (setMeter_within (L := [.scales]) k x s (Within.refl s) (List.Subset.refl _)) (by
      decide)

theorem setInfo_only {R : List RegSet} {s₀ : State} (k : Nat) (f : EnPoint → EnPoint) (s : State) (h₀ : OnlyRegs R s₀ s) :
    OnlyRegs R s₀ (setInfo k f s) := h₀.pass (setInfo_within (L := [.scales]) k f s (Within.refl s) (List.Subset.refl _)) (by decide)

theorem adoptPoint_only {R : List RegSet} {s₀ : State} (k : Nat) (s : State) (h₀ : OnlyRegs R s₀ s)
    (hR : [reg CTL_INT, reg LDG_INT, regFam LDG_DROP 8] ⊆ R) : OnlyRegs R s₀ (adoptPoint k s) := by
  unfold adoptPoint
  with_reducible repeat' first
    | assumption
    | (show (_ : Nat) < _; decide)
    | apply setInfo_only
    | apply pairRecord_only
    | apply OnlyRegs.foldlPoints
    | (apply OnlyRegs.lit; first | assumption)
    | split

theorem onInterval_only {R : List RegSet} {s₀ : State} (k : Nat) (f : Interval → Interval) (s : State) (h₀ : OnlyRegs R s₀ s) :
    OnlyRegs R s₀ (onInterval k f s) := h₀.pass (onInterval_within (L := [.scales]) k f s (Within.refl s) (List.Subset.refl _))
      (by decide)

theorem checkBit_only {R : List RegSet} {s₀ : State} (k : Nat) (b : Nat) (cond : Bool) (s : State) (b_k : k < 8) (h₀ : OnlyRegs R
    s₀ s)
    (hR : [reg CTL_INT, reg LDG_INT, reg SCL_EN_INT, regFam LDG_DROP 8, regFam PT_STAT 8] ⊆ R) : OnlyRegs R s₀ (checkBit k b cond
      s) := by
  unfold checkBit
  repeat' first
    | with_reducible assumption
    | exact List.Subset.trans (by decide) hR
    | with_reducible apply OnlyRegs.ite
    | exact covReg (hR (by decide))
    | refine covFam (n := 8) (hR (by decide)) (fun i => by simp only [PT_STAT]) ?_
    | (show (_ : Nat) < _; decide)
    | with_reducible apply setStat_only
    | with_reducible apply logEvent_only
    | with_reducible apply setMeter_only
    | with_reducible apply raise_only
    | with_reducible apply onInterval_only

theorem checkPoint_only {R : List RegSet} {s₀ : State} (s : State) (k : Nat) (b_k : k < 8) (h₀ : OnlyRegs R s₀ s)
    (hR : [reg CTL_INT, reg LDG_INT, reg SCL_EN_INT, regFam LDG_DROP 8, regFam PT_STAT 8] ⊆ R) : OnlyRegs R s₀ (checkPoint s k) := by
  unfold checkPoint
  with_reducible repeat' first
    | exact OnlyRegs.refl _
    | assumption
    | (intro _; try dsimp only)
    | apply OnlyRegs.ite
    | apply checkBit_only
    | apply OnlyRegs.foldlPoints
    | apply OnlyRegs.forUpTo

theorem keepInterval_only {R : List RegSet} {s₀ : State} (ws : List Word) (s : State) (h₀ : OnlyRegs R s₀ s)
    (hR : [reg CTL_INT, reg LDG_INT, reg LDG_RD_STAT] ⊆ R) : OnlyRegs R s₀ (keepInterval ws s) := by
  unfold keepInterval
  repeat' first
    | with_reducible assumption
    | exact List.Subset.trans (by decide) hR
    | with_reducible apply OnlyRegs.ite
    | exact covReg (hR (by decide))
    | with_reducible apply energyOverrun_only
    | with_reducible apply setEnergy_only
    | with_reducible apply raise_only

theorem writeInterval_only {R : List RegSet} {s₀ : State} (whole : Bool) (k : Nat) (wrap : Nat) (cycles : Nat) (bound : Nat) (x :
    Interval) (s : State) (h₀ : OnlyRegs R s₀ s)
    (hR : [reg CTL_INT, reg LDG_INT, reg LDG_RD_STAT, reg SCL_EN_INT, regFam LDG_DROP 8] ⊆ R) : OnlyRegs R s₀ (writeInterval whole
      k wrap cycles bound x s) := by
  unfold writeInterval
  repeat' first
    | with_reducible assumption
    | exact List.Subset.trans (by decide) hR
    | with_reducible apply OnlyRegs.ite
    | exact covReg (hR (by decide))
    | with_reducible apply keepInterval_only
    | with_reducible apply setInfo_only
    | with_reducible apply adoptPoint_only
    | with_reducible apply raise_only

theorem writeClosing_only {R : List RegSet} {s₀ : State} (k : Nat) (s : State) (h₀ : OnlyRegs R s₀ s)
    (hR : [reg CTL_INT, reg LDG_INT, reg LDG_RD_STAT, reg SCL_EN_INT, regFam LDG_DROP 8] ⊆ R) : OnlyRegs R s₀ (writeClosing k s) := by
  unfold writeClosing
  with_reducible repeat' first
    | assumption
    | apply setMeter_only
    | apply writeInterval_only
    | apply OnlyRegs.foldlPoints
    | split

theorem closeBefore_only {R : List RegSet} {s₀ : State} (k : Nat) (tag : Nat) (s : State) (h₀ : OnlyRegs R s₀ s)
    (hR : [reg CTL_INT, reg LDG_INT, reg LDG_RD_STAT, reg SCL_EN_INT, regFam LDG_DROP 8] ⊆ R) : OnlyRegs R s₀ (closeBefore k tag
      s) := by
  unfold closeBefore
  with_reducible repeat' first
    | assumption
    | apply writeClosing_only
    | apply OnlyRegs.foldlPoints
    | split

theorem closeGap_only {R : List RegSet} {s₀ : State} (tag : Nat) (s : State) (h₀ : OnlyRegs R s₀ s)
    (hR : [reg CTL_INT, reg SCL_EN_INT] ⊆ R) : OnlyRegs R s₀ (closeGap tag s) := by
  unfold closeGap
  repeat' first
    | with_reducible assumption
    | exact List.Subset.trans (by decide) hR
    | exact covReg (hR (by decide))
    | with_reducible apply setEnergy_only
    | with_reducible apply raise_only
    | with_reducible apply OnlyRegs.foldlPoints
    | split

theorem closeOverdue_only {R : List RegSet} {s₀ : State} (s : State) (h₀ : OnlyRegs R s₀ s)
    (hR : [reg CTL_INT, reg LDG_INT, reg LDG_RD_STAT, reg SCL_EN_INT, regFam LDG_DROP 8] ⊆ R) : OnlyRegs R s₀ (closeOverdue s) := by
  unfold closeOverdue
  with_reducible repeat' first
    | exact OnlyRegs.refl _
    | assumption
    | (intro _; try dsimp only)
    | apply writeClosing_only
    | apply OnlyRegs.foldlPoints
    | split

theorem dirChange_only {R : List RegSet} {s₀ : State} (k : Nat) (new : Bool) (s : State) (b_k : k < 8) (h₀ : OnlyRegs R s₀ s)
    (hR : [reg CTL_INT, reg SCL_EN_INT, regFam PT_STAT 8] ⊆ R) : OnlyRegs R s₀ (dirChange k new s) := by
  unfold dirChange
  try dsimp only
  repeat' first
    | with_reducible assumption
    | exact List.Subset.trans (by decide) hR
    | exact covReg (hR (by decide))
    | refine covFam (n := 8) (hR (by decide)) (fun i => by simp only [PT_STAT]) ?_
    | with_reducible apply setInfo_only
    | with_reducible apply wrF_only
    | with_reducible apply raise_only
    | with_reducible apply onInterval_only
    | with_reducible apply OnlyRegs.foldlPoints
    | split

theorem endInterval_only {R : List RegSet} {s₀ : State} (wrap : Nat) (bound : Nat) (s : State) (k : Nat) (b_k : k < 8) (h₀ :
    OnlyRegs R s₀ s)
    (hR : [reg CTL_INT, reg LDG_INT, reg LDG_RD_STAT, reg SCL_EN_INT, regFam LDG_DROP 8, regFam PT_STAT 8] ⊆ R) : OnlyRegs R s₀
      (endInterval wrap bound s k) := by
  unfold endInterval
  repeat' first
    | with_reducible assumption
    | exact List.Subset.trans (by decide) hR
    | with_reducible apply OnlyRegs.ite
    | refine covFam (n := 8) (hR (by decide)) (fun i => by simp only [PT_STAT]) ?_
    | with_reducible apply wrF_only
    | with_reducible apply setMeter_only
    | with_reducible apply writeClosing_only

theorem endPoint_only {R : List RegSet} {s₀ : State} (reefed : Bool) (s : State) (k : Nat) (b_k : k < 8) (h₀ : OnlyRegs R s₀ s)
    (hR : [reg CTL_INT, reg LDG_INT, reg LDG_RD_STAT, reg SCL_EN_INT, regFam LDG_DROP 8, regFam PT_STAT 8] ⊆ R) : OnlyRegs R s₀
      (endPoint reefed s k) := by
  unfold endPoint
  repeat' first
    | with_reducible assumption
    | exact List.Subset.trans (by decide) hR
    | with_reducible apply OnlyRegs.ite
    | refine covFam (n := 8) (hR (by decide)) (fun i => by simp only [PT_STAT]) ?_
    | with_reducible apply wrF_only
    | with_reducible apply setMeter_only
    | with_reducible apply writeClosing_only
    | with_reducible apply writeInterval_only

theorem energySave_only {R : List RegSet} {s₀ : State} (ok : Bool) (reefed : Bool) (s : State) (h₀ : OnlyRegs R s₀ s)
    (hR : [reg CTL_INT, reg SCL_EN_INT, reg SCL_EN_SAVE, reg SCL_EN_SAVE_STAT] ⊆ R) : OnlyRegs R s₀ (energySave ok reefed s) := by
  unfold energySave
  repeat' first
    | with_reducible assumption
    | exact List.Subset.trans (by decide) hR
    | with_reducible apply OnlyRegs.ite
    | exact covReg (hR (by decide))
    | with_reducible apply setEnergy_only
    | with_reducible apply bulkSend_only
    | with_reducible apply wrF_only
    | with_reducible apply wr_only
    | with_reducible apply raise_only

theorem ownSave_only {R : List RegSet} {s₀ : State} (reefed : Bool) (s : State) (h₀ : OnlyRegs R s₀ s)
    (hR : [reg CTL_INT, reg SCL_EN_INT, reg SCL_EN_SAVE, reg SCL_EN_SAVE_STAT] ⊆ R) : OnlyRegs R s₀ (ownSave reefed s) := by
  unfold ownSave
  with_reducible repeat' first
    | assumption
    | apply energySave_only
    | apply drawFree_only

theorem reefDone_only {R : List RegSet} {s₀ : State} (s : State) (h₀ : OnlyRegs R s₀ s)
    (hR : [reg CTL_INT, reg LDG_INT, reg LDG_RD_STAT, reg SCL_EN_INT, reg SCL_EN_SAVE, reg SCL_EN_SAVE_STAT, reg SCL_EN_STATUS,
      regFam LDG_DROP 8, regFam PT_STAT 8] ⊆ R) : OnlyRegs R s₀ (reefDone s) := by
  unfold reefDone
  repeat' first
    | with_reducible exact OnlyRegs.refl _
    | with_reducible assumption
    | exact List.Subset.trans (by decide) hR
    | (intro _; try dsimp only)
    | exact covReg (hR (by decide))
    | with_reducible apply ownSave_only
    | with_reducible apply endPoint_only
    | with_reducible apply setEnergy_only
    | with_reducible apply wrF_only
    | with_reducible apply raise_only
    | with_reducible apply OnlyRegs.foldlPoints

theorem energyReef_only {R : List RegSet} {s₀ : State} (s : State) (h₀ : OnlyRegs R s₀ s)
    (hR : [reg CTL_INT, reg LDG_INT, reg LDG_RD_STAT, reg SCL_EN_INT, reg SCL_EN_SAVE, reg SCL_EN_SAVE_STAT, reg SCL_EN_STATUS,
      regFam LDG_DROP 8, regFam PT_STAT 8] ⊆ R) : OnlyRegs R s₀ (energyReef s) := by
  unfold energyReef
  with_reducible repeat' first
    | assumption
    | apply OnlyRegs.ite
    | apply setEnergy_only
    | apply reefDone_only

theorem energyRestore_only {R : List RegSet} {s₀ : State} (s : State) (h₀ : OnlyRegs R s₀ s)
    (hR : [reg SCL_EN_SAVE_STAT, reg SCL_EN_STATUS] ⊆ R) : OnlyRegs R s₀ (energyRestore s) := by
  unfold energyRestore
  repeat' first
    | with_reducible assumption
    | exact List.Subset.trans (by decide) hR
    | exact covReg (hR (by decide))
    | with_reducible apply setEnergy_only
    | with_reducible apply wrF_only
    | with_reducible apply wr_only
    | with_reducible apply OnlyRegs.foldlPoints
    | split

theorem reefSettle_only {R : List RegSet} {s₀ : State} (s : State) (h₀ : OnlyRegs R s₀ s)
    (hR : [reg CTL_INT, reg LDG_INT, reg LDG_RD_STAT, reg SCL_EN_INT, reg SCL_EN_SAVE, reg SCL_EN_SAVE_STAT, reg SCL_EN_STATUS,
      regFam LDG_DROP 8, regFam PT_STAT 8] ⊆ R) : OnlyRegs R s₀ (reefSettle s) := by
  unfold reefSettle
  with_reducible repeat' first
    | assumption
    | apply OnlyRegs.ite
    | apply reefDone_only

theorem energyResume_only {R : List RegSet} {s₀ : State} (s : State) (h₀ : OnlyRegs R s₀ s)
    (hR : [reg CTL_INT, reg LDG_INT, reg LDG_RD_STAT, reg SCL_EN_INT, reg SCL_EN_SAVE, reg SCL_EN_SAVE_STAT, reg SCL_EN_STATUS,
      regFam LDG_DROP 8, regFam PT_STAT 8] ⊆ R) : OnlyRegs R s₀ (energyResume s) := by
  unfold energyResume
  repeat' first
    | with_reducible exact OnlyRegs.refl _
    | with_reducible assumption
    | exact List.Subset.trans (by decide) hR
    | (intro _; try dsimp only)
    | exact covReg (hR (by decide))
    | with_reducible apply setEnergy_only
    | with_reducible apply wrF_only
    | with_reducible apply setMeter_only
    | with_reducible apply reefSettle_only
    | with_reducible apply OnlyRegs.foldlPoints

theorem startMean_only {R : List RegSet} {s₀ : State} (k : Nat) (tag : Nat) (s : State) (h₀ : OnlyRegs R s₀ s) :
    OnlyRegs R s₀ (startMean k tag s) := h₀.pass (startMean_within (L := [.scales]) k tag s (Within.refl s) (List.Subset.refl _))
      (by decide)

theorem meterMean_only {R : List RegSet} {s₀ : State} (k : Nat) (n : Nat) (s : State) (b_k : k < 8) (h₀ : OnlyRegs R s₀ s)
    (hR : [reg CTL_INT, reg LDG_INT, reg LDG_RD_STAT, reg SCL_EN_INT, regFam LDG_DROP 8, regFam PT_P 8, regFam PT_Q 8, regFam
      PT_STAT 8] ⊆ R) : OnlyRegs R s₀ (meterMean k n s) := by
  unfold meterMean
  repeat' first
    | with_reducible assumption
    | exact List.Subset.trans (by decide) hR
    | refine covFam (n := 8) (hR (by decide)) (fun i => by simp only [PT_P, PT_Q]) ?_
    | with_reducible apply dirChange_only
    | with_reducible apply setEnergy_only
    | with_reducible apply setInfo_only
    | with_reducible apply startMean_only
    | with_reducible apply wr_only
    | with_reducible apply closeBefore_only
    | with_reducible apply closeGap_only
    | with_reducible apply onInterval_only

theorem reefSample_only {R : List RegSet} {s₀ : State} (k : Nat) (s : State) (h₀ : OnlyRegs R s₀ s) :
    OnlyRegs R s₀ (reefSample k s) := h₀.pass (reefSample_within (L := [.scales]) k s (Within.refl s) (List.Subset.refl _)) (by
      decide)

theorem saveAtSample_only {R : List RegSet} {s₀ : State} (s : State) (h₀ : OnlyRegs R s₀ s)
    (hR : [reg CTL_INT, reg LDG_INT, reg LDG_RD_STAT, reg SCL_EN_INT, reg SCL_EN_SAVE, reg SCL_EN_SAVE_STAT, regFam LDG_DROP 8] ⊆
      R) : OnlyRegs R s₀ (saveAtSample s) := by
  unfold saveAtSample
  try dsimp only
  with_reducible repeat' first
    | assumption
    | exact List.Subset.trans (by decide) hR
    | apply ownSave_only
    | apply setEnergy_only
    | apply energySave_only
    | apply closeOverdue_only
    | apply OnlyRegs.foldlPoints
    | split

theorem meterSample_only {R : List RegSet} {s₀ : State} (k : Nat) (tag : Nat) (mark : Nat) (vs : List Int) (cs : List Int) (s :
    State) (b_k : k < 8) (h₀ : OnlyRegs R s₀ s)
    (hR : [reg CTL_INT, reg LDG_INT, reg LDG_RD_STAT, reg SCL_EN_INT, reg SCL_EN_SAVE, reg SCL_EN_SAVE_STAT, reg SCL_EN_STATUS,
      regFam LDG_DROP 8, regFam PT_P 8, regFam PT_Q 8, regFam PT_STAT 8] ⊆ R) : OnlyRegs R s₀ (meterSample k tag mark vs cs s) := by
  unfold meterSample
  with_reducible repeat' first
    | assumption
    | exact List.Subset.trans (by decide) hR
    | apply OnlyRegs.ite
    | apply meterMean_only
    | apply setEnergy_only
    | apply reefSample_only
    | apply saveAtSample_only
    | apply setMeter_only
    | apply reefDone_only

theorem ucalPoints_only {R : List RegSet} {s₀ : State} (ch : Nat) (s : State) (h₀ : OnlyRegs R s₀ s) :
    OnlyRegs R s₀ (ucalPoints ch s) := h₀.pass (ucalPoints_within (L := [.scales]) ch s (Within.refl s) (List.Subset.refl _)) (by
      decide)

theorem ucalSvPoints_only {R : List RegSet} {s₀ : State} (i : Nat) (ch : Nat) (s : State) (h₀ : OnlyRegs R s₀ s) :
    OnlyRegs R s₀ (ucalSvPoints i ch s) := h₀.pass (ucalSvPoints_within (L := [.scales]) i ch s (Within.refl s) (List.Subset.refl
      _)) (by decide)

theorem feedWindow_only {R : List RegSet} {s₀ : State} (w : Nat) (bs : List Nat) (last : Bool) (s : State) (h₀ : OnlyRegs R s₀ s) :
    OnlyRegs R s₀ (feedWindow w bs last s) := h₀.pass (feedWindow_within (L := [.host]) w bs last s (Within.refl s)
      (List.Subset.refl _)) (by decide)

theorem mktCount_only {R : List RegSet} {s₀ : State} (k : Nat) (n : Nat) (s : State) (h₀ : OnlyRegs R s₀ s) :
    OnlyRegs R s₀ (mktCount k n s) := h₀.pass (mktCount_within (L := [.live]) k n s (Within.refl s) (List.Subset.refl _)) (by decide)

theorem openMore_only {R : List RegSet} {s₀ : State} (w : Win) (s : State) (h₀ : OnlyRegs R s₀ s) :
    OnlyRegs R s₀ (openMore w s) := h₀.pass (openMore_within (L := [.host]) w s (Within.refl s) (List.Subset.refl _)) (by decide)

theorem ribMiss_only {R : List RegSet} {s₀ : State} (n : Nat) (s : State) (h₀ : OnlyRegs R s₀ s)
    (hR : [reg CTL_INT, reg MKT_INT] ⊆ R) : OnlyRegs R s₀ (ribMiss n s) := by
  unfold ribMiss
  repeat' first
    | exact List.Subset.trans (by decide) hR
    | exact covReg (hR (by decide))
    | with_reducible apply raise_only
    | with_reducible apply mktCount_only
    | with_reducible apply OnlyRegs.foldlPoints
    | (with_reducible apply OnlyRegs.lit; first | with_reducible assumption)

theorem ribLose_only {R : List RegSet} {s₀ : State} (s : State) (h₀ : OnlyRegs R s₀ s)
    (hR : [reg CTL_INT, reg MKT_INT] ⊆ R) : OnlyRegs R s₀ (ribLose s) := by
  unfold ribLose
  with_reducible repeat' first
    | assumption
    | apply ribMiss_only
    | apply OnlyRegs.foldlPoints
    | (apply OnlyRegs.lit; first | assumption | apply OnlyRegs.ite)

theorem xfEnd_only {R : List RegSet} {s₀ : State} (result : Nat) (s : State) (h₀ : OnlyRegs R s₀ s)
    (hR : [reg CTL_INT, reg EGR_INT, reg EGR_XF_STAT] ⊆ R) : OnlyRegs R s₀ (xfEnd result s) := by
  unfold xfEnd
  repeat' first
    | exact List.Subset.trans (by decide) hR
    | exact covReg (hR (by decide))
    | with_reducible apply wrF_only
    | with_reducible apply raise_only
    | with_reducible apply OnlyRegs.foldlPoints
    | (with_reducible apply OnlyRegs.lit; first | with_reducible assumption)

theorem ribOverwrite_only {R : List RegSet} {s₀ : State} (first : Nat) (s : State) (h₀ : OnlyRegs R s₀ s)
    (hR : [reg CTL_INT, reg EGR_INT, reg EGR_XF_STAT, reg MKT_RIB_RSTAT] ⊆ R) : OnlyRegs R s₀ (ribOverwrite first s) := by
  unfold ribOverwrite
  try dsimp only
  repeat' first
    | with_reducible assumption
    | exact List.Subset.trans (by decide) hR
    | exact covReg (hR (by decide))
    | with_reducible apply setStat_only
    | with_reducible apply xfEnd_only
    | with_reducible apply endWindow_only
    | with_reducible apply OnlyRegs.foldlPoints
    | split

theorem ribReport_only {R : List RegSet} {s₀ : State} (s : State) (h₀ : OnlyRegs R s₀ s)
    (hR : [reg CTL_INT, reg MKT_INT, reg MKT_RIB_SPAN, regRun MKT_RIB_OLD_LO 2] ⊆ R) : OnlyRegs R s₀ (ribReport s) := by
  unfold ribReport
  repeat' first
    | with_reducible assumption
    | exact List.Subset.trans (by decide) hR
    | with_reducible apply OnlyRegs.ite
    | exact covReg (hR (by decide))
    | exact covTwo (hR (by decide))
    | with_reducible apply wr64_only
    | with_reducible apply wr_only
    | with_reducible apply raise_only

theorem ribPut_only {R : List RegSet} {s₀ : State} (b : RibBlock) (s : State) (h₀ : OnlyRegs R s₀ s)
    (hR : [reg CTL_INT, reg EGR_INT, reg EGR_XF_STAT, reg MKT_INT, reg MKT_RIB_RSTAT, reg MKT_RIB_SPAN, regRun MKT_RIB_OLD_LO 2] ⊆
      R) : OnlyRegs R s₀ (ribPut b s) := by
  unfold ribPut
  with_reducible repeat' first
    | exact List.Subset.trans (by decide) hR
    | (intro _; try dsimp only)
    | apply ribOverwrite_only
    | apply ribReport_only
    | apply OnlyRegs.foldlPoints
    | (apply OnlyRegs.lit; first | exact OnlyRegs.refl _ | assumption | apply OnlyRegs.foldl)

theorem ribTake_only {R : List RegSet} {s₀ : State} (s : State) (h₀ : OnlyRegs R s₀ s) :
    OnlyRegs R s₀ (ribTake s) := h₀.pass (ribTake_within (L := [.mkt]) s (Within.refl s) (List.Subset.refl _)) (by decide)

theorem pakCount_only {R : List RegSet} {s₀ : State} (k : Nat) (n : Nat) (s : State) (h₀ : OnlyRegs R s₀ s) :
    OnlyRegs R s₀ (pakCount k n s) := h₀.pass (pakCount_within (L := [.live]) k n s (Within.refl s) (List.Subset.refl _)) (by decide)

theorem countBlock_only {R : List RegSet} {s₀ : State} (b : PakBlock) (out : List Nat) (s : State) (h₀ : OnlyRegs R s₀ s) :
    OnlyRegs R s₀ (countBlock b out s) := h₀.pass (countBlock_within (L := [.live]) b out s (Within.refl s) (List.Subset.refl _))
      (by decide)

theorem setPak_only {R : List RegSet} {s₀ : State} (f : Packer → Packer) (s : State) (h₀ : OnlyRegs R s₀ s) :
    OnlyRegs R s₀ (setPak f s) := h₀.pass (setPak_within (L := [.pak]) f s (Within.refl s) (List.Subset.refl _)) (by decide)

theorem dropEngine_only {R : List RegSet} {s₀ : State} (c : Nat) (s : State) (h₀ : OnlyRegs R s₀ s) :
    OnlyRegs R s₀ (dropEngine c s) := h₀.pass (dropEngine_within (L := [.pak]) c s (Within.refl s) (List.Subset.refl _)) (by decide)

theorem jobStat_only {R : List RegSet} {s₀ : State} (busy : Bool) (result : Nat) (s : State) (h₀ : OnlyRegs R s₀ s)
    (hR : [reg PAK_J_STAT] ⊆ R) : OnlyRegs R s₀ (jobStat busy result s) := by
  unfold jobStat
  repeat' first
    | with_reducible assumption
    | exact covReg (hR (by decide))
    | with_reducible apply wr_only

theorem jobFail_only {R : List RegSet} {s₀ : State} (result : Nat) (s : State) (h₀ : OnlyRegs R s₀ s)
    (hR : [reg CTL_INT, reg PAK_INT, reg PAK_J_IN_DONE, reg PAK_J_OUT_LEN, reg PAK_J_STAT] ⊆ R) : OnlyRegs R s₀ (jobFail result s)
      := by
  unfold jobFail
  repeat' first
    | with_reducible assumption
    | exact List.Subset.trans (by decide) hR
    | with_reducible apply OnlyRegs.ite
    | exact covReg (hR (by decide))
    | with_reducible apply setPak_only
    | with_reducible apply pakCount_only
    | with_reducible apply jobStat_only
    | with_reducible apply dropEngine_only
    | with_reducible apply wr_only
    | with_reducible apply raise_only

theorem jobNext_only {R : List RegSet} {s₀ : State} (j : PakJob) (s : State) (h₀ : OnlyRegs R s₀ s)
    (hR : [reg CTL_INT, reg PAK_INT, reg PAK_J_IN_DONE, reg PAK_J_OUT_LEN, reg PAK_J_STAT] ⊆ R) : OnlyRegs R s₀ (jobNext j s) := by
  unfold jobNext
  repeat' first
    | with_reducible assumption
    | exact List.Subset.trans (by decide) hR
    | with_reducible apply OnlyRegs.ite
    | exact covReg (hR (by decide))
    | with_reducible apply setPak_only
    | with_reducible apply jobStat_only
    | with_reducible apply jobFail_only
    | with_reducible apply wr_only
    | with_reducible apply raise_only

theorem finishBlock_only {R : List RegSet} {s₀ : State} (b : PakBlock) (s : State) (h₀ : OnlyRegs R s₀ s)
    (hR : [reg CTL_INT, reg EGR_INT, reg EGR_XF_STAT, reg MKT_INT, reg MKT_RIB_RSTAT, reg MKT_RIB_SPAN, reg PAK_INT, reg
      PAK_J_IN_DONE, reg PAK_J_OUT_LEN, reg PAK_J_STAT, regRun MKT_RIB_OLD_LO 2] ⊆ R) : OnlyRegs R s₀ (finishBlock b s) := by
  unfold finishBlock
  try dsimp only
  with_reducible repeat' first
    | assumption
    | exact List.Subset.trans (by decide) hR
    | apply setPak_only
    | apply pakCount_only
    | apply jobFail_only
    | apply feedWindow_only
    | apply countBlock_only
    | apply ribPut_only
    | apply jobNext_only
    | apply OnlyRegs.foldlPoints
    | split

theorem jobStart_only {R : List RegSet} {s₀ : State} (op : Nat) (blockKib : Nat) (input : List Nat) (s : State) (h₀ : OnlyRegs R s₀ s)
    (hR : [reg CTL_INT, reg PAK_INT, reg PAK_J_IN_DONE, reg PAK_J_OUT_LEN, reg PAK_J_STAT] ⊆ R) : OnlyRegs R s₀ (jobStart op
      blockKib input s) := by
  unfold jobStart
  repeat' first
    | with_reducible assumption
    | exact List.Subset.trans (by decide) hR
    | with_reducible apply OnlyRegs.ite
    | exact covReg (hR (by decide))
    | with_reducible apply setPak_only
    | with_reducible apply jobStat_only
    | with_reducible apply wr_only
    | with_reducible apply raise_only

theorem setWork_only {R : List RegSet} {s₀ : State} (c : Nat) (l : List PakBlock) (s : State) (h₀ : OnlyRegs R s₀ s) :
    OnlyRegs R s₀ (setWork c l s) := h₀.pass (setWork_within (L := [.pak]) c l s (Within.refl s) (List.Subset.refl _)) (by decide)

theorem pakMemErr_only {R : List RegSet} {s₀ : State} (c : Nat) (s : State) (h₀ : OnlyRegs R s₀ s)
    (hR : [reg CTL_INT, reg LDG_RD_STAT, reg MKT_INT, reg PAK_INT, reg PAK_J_IN_DONE, reg PAK_J_OUT_LEN, reg PAK_J_STAT] ⊆ R) :
      OnlyRegs R s₀ (pakMemErr c s) := by
  unfold pakMemErr
  repeat' first
    | with_reducible assumption
    | exact List.Subset.trans (by decide) hR
    | exact covReg (hR (by decide))
    | with_reducible apply ribMiss_only
    | with_reducible apply pakCount_only
    | with_reducible apply jobFail_only
    | with_reducible apply endWindow_only
    | with_reducible apply dropEngine_only
    | with_reducible apply wr_only
    | with_reducible apply setWork_only
    | with_reducible apply raise_only
    | with_reducible apply OnlyRegs.foldlPoints
    | split

end Sys2Proof.Machine
end

