-- ==== Sys2Proof/Laws/RegsUnits.lean ====
section
/-!
SUPPORT. Which registers each operation can change (Safety.OnlyRegs): the operations of the Ledger, the Deck, the Scales, the Capture and the Nest.
-/

namespace Sys2Proof.Machine

open Sys2Proof

set_option Elab.async false
set_option linter.all false

set_option maxRecDepth 4000

theorem controlRecord_only {R : List RegSet} {s₀ : State} (s : State) (h₀ : OnlyRegs R s₀ s) :
    OnlyRegs R s₀ (controlRecord s) := h₀.pass (controlRecord_within (L := [.ledger]) s (Within.refl s) (List.Subset.refl _)) (by
      decide)

theorem eraseScope_only {R : List RegSet} {s₀ : State} (scope : Nat) (s : State) (h₀ : OnlyRegs R s₀ s)
    (hR : [reg LDG_RD_STAT, regFam LDG_DROP 8, regFam LDG_REFUSED 8] ⊆ R) : OnlyRegs R s₀ (eraseScope scope s) := by
  unfold eraseScope
  repeat' first
    | with_reducible assumption
    | exact List.Subset.trans (by decide) hR
    | (intro _; try dsimp only)
    | refine covFam (n := 8) (hR (by decide)) (fun i => by simp only [LDG_DROP, LDG_REFUSED]) ?_
    | with_reducible apply ledgerOverrun_only
    | with_reducible apply setEnergy_only
    | with_reducible apply setLedger_only
    | with_reducible apply wr_only
    | with_reducible apply OnlyRegs.foldlPoints
    | (with_reducible apply OnlyRegs.lit; first | with_reducible exact OnlyRegs.refl _ | with_reducible apply OnlyRegs.ite | with_reducible apply OnlyRegs.forUpTo)

theorem logAppend_only {R : List RegSet} {s₀ : State} (r : LRec) (s : State) (h₀ : OnlyRegs R s₀ s)
    (hR : [reg CTL_INT, reg LDG_INT] ⊆ R) : OnlyRegs R s₀ (logAppend r s) := by
  unfold logAppend
  repeat' first
    | with_reducible assumption
    | exact List.Subset.trans (by decide) hR
    | with_reducible apply OnlyRegs.ite
    | exact covReg (hR (by decide))
    | with_reducible apply setLedger_only
    | with_reducible apply raise_only

theorem logWrite_only {R : List RegSet} {s₀ : State} (r : LRec) (s : State) (h₀ : OnlyRegs R s₀ s)
    (hR : [reg CTL_INT, reg LDG_INT, reg LDG_RD_STAT, ⟨LDG_REFUSED 0, 4, 0, 1⟩] ⊆ R) : OnlyRegs R s₀ (logWrite r s) := by
  unfold logWrite
  have hs : ∀ (o : Option LRec) (v : Nat), OnlyRegs R s₀ (match o with
        | some o => eventOverrun o.epoch o.seq s
        | none => s) := by
    intro o _
    cases o with
    | none => exact h₀
    | some o => exact eventOverrun_only _ _ _ h₀ (List.Subset.trans (by decide) hR)
  split
  · exact logAppend_only _ _ h₀ (List.Subset.trans (by decide) hR)
  · dsimp only
    split
    · exact logAppend_only _ _ (raise_only _ _ _ (covReg (hR (by decide))) (setLedger_only _ _ (hs _ 0)) (List.Subset.trans (by decide) hR)) (List.Subset.trans (by decide) hR)
    · refine raise_only _ _ _ (covReg (hR (by decide))) (bumpSat_only _ _ ?_ h₀ (List.nil_subset _)) (List.Subset.trans (by decide) hR)
      exact covWide (a := LDG_REFUSED 0) (n := 4) (hR (by decide))

theorem clearFinish_only {R : List RegSet} {s₀ : State} (s : State) (h₀ : OnlyRegs R s₀ s)
    (hR : [reg CTL_INT, reg LDG_CLR_STAT, reg LDG_INT, reg LDG_RD_STAT, regFam LDG_DROP 8, regFam LDG_REFUSED 8, ⟨LDG_REFUSED 0,
      4, 0, 1⟩] ⊆ R) : OnlyRegs R s₀ (clearFinish s) := by
  unfold clearFinish
  repeat' first
    | with_reducible assumption
    | exact List.Subset.trans (by decide) hR
    | exact covReg (hR (by decide))
    | with_reducible apply wrF_only
    | with_reducible apply setLedger_only
    | with_reducible apply raise_only
    | with_reducible apply controlRecord_only
    | with_reducible apply eraseScope_only
    | with_reducible apply logWrite_only

theorem logOffered_only {R : List RegSet} {s₀ : State} (e : LEvent) (s : State) (h₀ : OnlyRegs R s₀ s)
    (hR : [reg CTL_INT, reg LDG_INT, regFam LDG_DROP 8] ⊆ R) : OnlyRegs R s₀ (logOffered e s) := by
  unfold logOffered
  with_reducible repeat' first
    | assumption
    | exact Fin.isLt _
    | apply logEvent_only

theorem mirrorRecords_only {R : List RegSet} {s₀ : State} (rs : List LRec) (s : State) (h₀ : OnlyRegs R s₀ s) :
    OnlyRegs R s₀ (mirrorRecords rs s) := h₀.pass (mirrorRecords_within (L := [.pair, .out]) rs s (Within.refl s)
      (List.Subset.refl _)) (by decide)

theorem writeLastWords_only {R : List RegSet} {s₀ : State} (reason : Nat) (ofs : Nat) (tick : Nat) (s : State) (h₀ : OnlyRegs R s₀
    s) :
    OnlyRegs R s₀ (writeLastWords reason ofs tick s) := h₀.pass (writeLastWords_within (L := [.ledger, .sentry]) reason ofs tick s
      (Within.refl s) (List.Subset.refl _)) (by decide)

theorem ledgerFail_only {R : List RegSet} {s₀ : State} (reason : Nat) (ofs : Nat) (s : State) (h₀ : OnlyRegs R s₀ s)
    (hR : [reg CTL_INT, reg EGR_INT, reg EGR_QINT, reg LDG_CLR_STAT, reg LDG_INT] ⊆ R) : OnlyRegs R s₀ (ledgerFail reason ofs s) := by
  unfold ledgerFail
  repeat' first
    | with_reducible assumption
    | exact List.Subset.trans (by decide) hR
    | with_reducible apply OnlyRegs.ite
    | exact covReg (hR (by decide))
    | with_reducible apply wrF_only
    | with_reducible apply setLedger_only
    | with_reducible apply writeLastWords_only
    | with_reducible apply raise_only
    | with_reducible apply updateNodeOk_only

theorem relocate_only {R : List RegSet} {s₀ : State} (l : List Nat) (s : State) (h₀ : OnlyRegs R s₀ s)
    (hR : [reg CTL_INT, reg EGR_INT, reg EGR_QINT, reg LDG_CLR_STAT, reg LDG_INT] ⊆ R) : OnlyRegs R s₀ (relocate l s) := by
  induction l generalizing s with
  | nil => exact h₀
  | cons u us ih =>
    unfold relocate
    split
    · exact h₀
    · split
      · exact ih _ (raise_only _ _ _ (covReg (hR (by decide))) (setLedger_only _ _ h₀) (List.Subset.trans (by decide) hR))
      · exact ledgerFail_only _ _ _ h₀ (List.Subset.trans (by decide) hR)

theorem flushRun_only {R : List RegSet} {s₀ : State} (during : List LEvent) (badUnits : List Nat) (s : State) (h₀ : OnlyRegs R s₀ s)
    (hR : [reg CTL_INT, reg EGR_INT, reg EGR_QINT, reg LDG_CLR_STAT, reg LDG_INT, reg LDG_RD_STAT, regFam LDG_DROP 8, ⟨LDG_REFUSED
      0, 4, 0, 1⟩] ⊆ R) : OnlyRegs R s₀ (flushRun during badUnits s) := by
  unfold flushRun
  repeat' first
    | with_reducible exact OnlyRegs.refl _
    | with_reducible assumption
    | exact List.Subset.trans (by decide) hR
    | (intro _; try dsimp only)
    | with_reducible apply OnlyRegs.ite
    | exact covReg (hR (by decide))
    | with_reducible apply logOffered_only
    | with_reducible apply setLedger_only
    | with_reducible apply mirrorRecords_only
    | with_reducible apply relocate_only
    | with_reducible apply raise_only
    | with_reducible apply controlRecord_only
    | with_reducible apply logWrite_only
    | with_reducible apply OnlyRegs.foldlPoints
    | with_reducible apply OnlyRegs.foldl

theorem trackWrite_only {R : List RegSet} {s₀ : State} (s : State) (h₀ : OnlyRegs R s₀ s) :
    OnlyRegs R s₀ (trackWrite s) := h₀.pass (trackWrite_within (L := [.ledger]) s (Within.refl s) (List.Subset.refl _)) (by decide)

theorem makeReady_only {R : List RegSet} {s₀ : State} (head : Bool) (t : Nat) (s : State) (h₀ : OnlyRegs R s₀ s) :
    OnlyRegs R s₀ (makeReady head t s) := h₀.pass (makeReady_within (L := [.deck]) head t s (Within.refl s) (List.Subset.refl _))
      (by decide)

theorem deckReset_only {R : List RegSet} {s₀ : State} (s : State) (h₀ : OnlyRegs R s₀ s) :
    OnlyRegs R s₀ (deckReset s) := h₀.pass (deckReset_within (L := [.deck]) s (Within.refl s) (List.Subset.refl _)) (by decide)

theorem restartBegin_only {R : List RegSet} {s₀ : State} (cause : Nat) (s : State) (h₀ : OnlyRegs R s₀ s)
    (hR : [reg CTL_INT, reg CTL_RESTART_INFO, reg EGR_INT, reg EGR_QINT, reg LDG_INT, reg MST_INT, regFam LDG_DROP 8] ⊆ R) :
      OnlyRegs R s₀ (restartBegin cause s) := by
  unfold restartBegin
  repeat' first
    | exact List.Subset.trans (by decide) hR
    | exact covReg (hR (by decide))
    | (show (_ : Nat) < _; decide)
    | with_reducible apply logEvent_only
    | with_reducible apply wrF_only
    | with_reducible apply setInt_only
    | with_reducible apply deckReset_only
    | with_reducible apply mastTo_only
    | with_reducible apply count_only
    | with_reducible apply OnlyRegs.foldlPoints
    | (with_reducible apply OnlyRegs.lit; first | with_reducible assumption | with_reducible apply OnlyRegs.ite | with_reducible apply deckReset_only)

theorem deckRestart_only {R : List RegSet} {s₀ : State} (cause : Nat) (s : State) (h₀ : OnlyRegs R s₀ s)
    (hR : [reg CTL_INT, reg CTL_RESTART_INFO, reg EGR_INT, reg EGR_QINT, reg LDG_INT, reg MST_INT, regFam LDG_DROP 8] ⊆ R) :
      OnlyRegs R s₀ (deckRestart cause s) := by
  unfold deckRestart
  with_reducible repeat' first
    | assumption
    | apply restartBegin_only
    | apply count_only
    | apply OnlyRegs.foldlPoints
    | split

theorem startThreads_only {R : List RegSet} {s₀ : State} (s : State) (h₀ : OnlyRegs R s₀ s) :
    OnlyRegs R s₀ (startThreads s) := h₀.pass (startThreads_within (L := [.deck]) s (Within.refl s) (List.Subset.refl _)) (by decide)

theorem rearmRings_only {R : List RegSet} {s₀ : State} (s : State) (h₀ : OnlyRegs R s₀ s)
    (hR : [regFam PRT_RX_HEAD 64, regFam PRT_RX_TAIL 64] ⊆ R) : OnlyRegs R s₀ (rearmRings s) := by
  unfold rearmRings
  with_reducible repeat' first
    | exact OnlyRegs.refl _
    | assumption
    | (intro _; try dsimp only)
    | apply rearmPort_only
    | apply OnlyRegs.foldlPoints
    | apply OnlyRegs.forUpTo

theorem loadThreads_only {R : List RegSet} {s₀ : State} (cs : List (Nat × ThreadCfg)) (s : State) (h₀ : OnlyRegs R s₀ s) :
    OnlyRegs R s₀ (loadThreads cs s) := h₀.pass (loadThreads_within (L := [.deck]) cs s (Within.refl s) (List.Subset.refl _)) (by
      decide)

theorem setRunning_only {R : List RegSet} {s₀ : State} (c : Nat) (t : Option Nat) (s : State) (h₀ : OnlyRegs R s₀ s) :
    OnlyRegs R s₀ (setRunning c t s) := h₀.pass (setRunning_within (L := [.deck]) c t s (Within.refl s) (List.Subset.refl _)) (by
      decide)

theorem dispatch_only {R : List RegSet} {s₀ : State} (s : State) (h₀ : OnlyRegs R s₀ s) :
    OnlyRegs R s₀ (dispatch s) := h₀.pass (dispatch_within (L := [.live, .deck]) s (Within.refl s) (List.Subset.refl _)) (by decide)

theorem deckRun_only {R : List RegSet} {s₀ : State} (version : Word) (s : State) (h₀ : OnlyRegs R s₀ s)
    (hR : [reg CTL_INT, reg CTL_RESTART_INFO, reg HST_FW_VER, regFam PRT_RX_HEAD 64, regFam PRT_RX_TAIL 64] ⊆ R) : OnlyRegs R s₀
      (deckRun version s) := by
  unfold deckRun
  repeat' first
    | exact List.Subset.trans (by decide) hR
    | exact covReg (hR (by decide))
    | with_reducible apply startThreads_only
    | with_reducible apply wrF_only
    | with_reducible apply rearmRings_only
    | with_reducible apply loadThreads_only
    | with_reducible apply setInt_only
    | with_reducible apply wr_only
    | with_reducible apply dispatch_only
    | with_reducible apply OnlyRegs.foldlPoints
    | (with_reducible apply OnlyRegs.lit; first | with_reducible assumption | with_reducible apply OnlyRegs.ite | with_reducible apply dispatch_only)

theorem deckStart_only {R : List RegSet} {s₀ : State} (s : State) (h₀ : OnlyRegs R s₀ s) :
    OnlyRegs R s₀ (deckStart s) := h₀.pass (deckStart_within (L := [.deck]) s (Within.refl s) (List.Subset.refl _)) (by decide)

theorem pcStat_covered {R : List RegSet} (c : PcCounter) (hR : [reg CTL_DP_STAT, regFam CTL_PC_STAT 4] ⊆ R) : Covered R (pcStat c)
    := by
  cases c with
  | core c k => exact covFam (f := CTL_PC_STAT) (n := 4) (hR (by decide)) (fun i => by simp only [CTL_PC_STAT]) c.isLt
  | dataPath k => exact covReg (a := CTL_DP_STAT) (hR (by decide))

theorem pcReg_covered {R : List RegSet} (c : PcCounter) (hR : [regFams (fun i => CTL_PC_CYC i 0) 4 2, regFams (fun i => CTL_PC_EV
    i 0) 4 16,
      regFams (fun i => CTL_PC_RET i 0) 4 2, regRun (CTL_DP_CNT 0) 64] ⊆ R) : Covered R (pcReg c) ∧ Covered R (pcReg c + 4) := by
  have fam : ∀ (f : Nat → Nat) (m k i : Nat), regFams f 4 m ∈ R → (∀ i, f i = f 0 + (f 1 - f 0) * i) → i < 4 → k + 1 < m →
      Covered R (f i + 4 * k) ∧ Covered R (f i + 4 * k + 4) := fun f m k i h hl hi hk =>
    ⟨covFams h hl hi k (by omega), by have := covFams h hl hi (k + 1) hk; rwa [show f i + 4 * (k + 1) = f i + 4 * k + 4 from by omega] at this⟩
  cases c with
  | core c k =>
    have ev : k.val < 8 → Covered R (CTL_PC_EV c.val (2 * k.val)) ∧ Covered R (CTL_PC_EV c.val (2 * k.val) + 4) := fun hk => by
      have := fam (fun i => CTL_PC_EV i 0) 16 (2 * k.val) c.val (hR (by decide)) (fun i => by simp only [CTL_PC_EV]; omega) c.isLt (by omega)
      simpa only [CTL_PC_EV, Nat.mul_zero, Nat.add_zero] using this
    have cyc := fam (fun i => CTL_PC_CYC i 0) 2 0 c.val (hR (by decide)) (fun i => by simp only [CTL_PC_CYC]; omega) c.isLt (by decide)
    have ret := fam (fun i => CTL_PC_RET i 0) 2 0 c.val (hR (by decide)) (fun i => by simp only [CTL_PC_RET]; omega) c.isLt (by decide)
    unfold pcReg
    by_cases hk : k.val < 8
    · simp only [hk, if_true]
      exact ev hk
    · by_cases h8 : k.val = 8
      · simp only [hk, h8, if_true, if_false]
        exact cyc
      · simp only [hk, h8, if_false]
        exact ret
  | dataPath k =>
    have := k.isLt
    refine ⟨?_, ?_⟩
    · have := covRun (R := R) (a := CTL_DP_CNT 0) (n := 64) (hR (by decide)) (2 * k.val) (by omega)
      simpa only [pcReg, CTL_DP_CNT, Nat.mul_zero, Nat.add_zero] using this
    · have := covRun (R := R) (a := CTL_DP_CNT 0) (n := 64) (hR (by decide)) (2 * k.val + 1) (by omega)
      rwa [show CTL_DP_CNT 0 + 4 * (2 * k.val + 1) = pcReg (.dataPath k) + 4 from by simp only [pcReg, CTL_DP_CNT]; omega] at this

theorem pcCtrl_covered {R : List RegSet} (c : PcSet) (hR : [reg CTL_DP_CTRL, regFam CTL_PC_CTRL 4] ⊆ R) : Covered R (pcCtrl c) := by
  cases c with
  | core c => exact covFam (f := CTL_PC_CTRL) (n := 4) (hR (by decide)) (fun i => by simp only [CTL_PC_CTRL]) c.isLt
  | dataPath => exact covReg (a := CTL_DP_CTRL) (hR (by decide))

theorem pcSetFlag_only {R : List RegSet} {s₀ : State} (c : PcCounter) (s : State) (h₀ : OnlyRegs R s₀ s)
    (hR : [reg CTL_DP_STAT, reg CTL_INT, regFam CTL_PC_STAT 4] ⊆ R) : OnlyRegs R s₀ (pcSetFlag c s) := by
  unfold pcSetFlag
  split
  · exact h₀
  · exact setInt_only _ _ _ (covReg (hR (by decide))) (wr_only _ _ _ h₀ (pcStat_covered c (List.Subset.trans (by decide) hR))) (List.nil_subset _)

theorem pcAdd_only {R : List RegSet} {s₀ : State} (c : PcCounter) (n : Nat) (s : State) (h₀ : OnlyRegs R s₀ s)
    (hR : [reg CTL_DP_STAT, reg CTL_INT, regFam CTL_PC_STAT 4, regFams (fun i => CTL_PC_CYC i 0) 4 2, regFams (fun i => CTL_PC_EV
      i 0) 4 16, regFams (fun i => CTL_PC_RET i 0) 4 2, regRun (CTL_DP_CNT 0) 64] ⊆ R) : OnlyRegs R s₀ (pcAdd c n s) := by
  have h : ∀ v, OnlyRegs R s₀ (wr64 (pcReg c) v s) := fun v => wr64_only _ _ _ (pcReg_covered c (List.Subset.trans (by decide)
      hR)) h₀ (List.nil_subset _)
  unfold pcAdd
  exact OnlyRegs.ite (pcSetFlag_only _ _ (h _) (List.Subset.trans (by decide) hR)) (h _)

theorem pcZero_only {R : List RegSet} {s₀ : State} (c : PcCounter) (s : State) (h₀ : OnlyRegs R s₀ s)
    (hR : [reg CTL_DP_STAT, regFam CTL_PC_STAT 4, regFams (fun i => CTL_PC_CYC i 0) 4 2, regFams (fun i => CTL_PC_EV i 0) 4 16,
      regFams (fun i => CTL_PC_RET i 0) 4 2, regRun (CTL_DP_CNT 0) 64] ⊆ R) : OnlyRegs R s₀ (pcZero c s) := by
  unfold pcZero
  exact wr_only _ _ _ (wr64_only _ _ _ (pcReg_covered c (List.Subset.trans (by decide) hR)) h₀ (List.nil_subset _))
      (pcStat_covered c (List.Subset.trans (by decide) hR))

theorem pushSample_only {R : List RegSet} {s₀ : State} (c : Nat) (w0 : Word) (w1 : Word) (w2 : Word) (w3 : Word) (s : State) (b_c
    : c < 4) (h₀ : OnlyRegs R s₀ s)
    (hR : [reg CTL_INT, regFam CTL_PC_STAT 4] ⊆ R) : OnlyRegs R s₀ (pushSample c w0 w1 w2 w3 s) := by
  unfold pushSample
  repeat' first
    | with_reducible assumption
    | exact List.Subset.trans (by decide) hR
    | with_reducible apply OnlyRegs.ite
    | exact covReg (hR (by decide))
    | refine covFam (n := 4) (hR (by decide)) (fun i => by simp only [CTL_PC_STAT]) ?_
    | with_reducible apply setInt_only
    | with_reducible apply wr_only
    | with_reducible apply setWindow_only

theorem setChan_only {R : List RegSet} {s₀ : State} (ch : Nat) (x : Chan) (s : State) (h₀ : OnlyRegs R s₀ s) :
    OnlyRegs R s₀ (setChan ch x s) := h₀.pass (setChan_within (L := [.scales]) ch x s (Within.refl s) (List.Subset.refl _)) (by
      decide)

theorem setDelay_only {R : List RegSet} {s₀ : State} (ch : Nat) (s : State) (b_ch : ch < 24) (h₀ : OnlyRegs R s₀ s)
    (hR : [regFam SCL_CH_FDLY 24] ⊆ R) : OnlyRegs R s₀ (setDelay ch s) := by
  unfold setDelay
  repeat' first
    | with_reducible assumption
    | refine covFam (n := 24) (hR (by decide)) (fun i => by simp only [SCL_CH_FDLY]) ?_
    | with_reducible apply wr_only

theorem takeUser_only {R : List RegSet} {s₀ : State} (ch : Nat) (s : State) (b_ch : ch < 24) (h₀ : OnlyRegs R s₀ s)
    (hR : [regFam SCL_CH_FDLY 24] ⊆ R) : OnlyRegs R s₀ (takeUser ch s) := by
  unfold takeUser
  with_reducible repeat' first
    | assumption
    | apply setChan_only
    | apply setDelay_only

theorem calBusy_only {R : List RegSet} {s₀ : State} (s : State) (h₀ : OnlyRegs R s₀ s)
    (hR : [reg SCL_CAL_STAT] ⊆ R) : OnlyRegs R s₀ (calBusy s) := by
  unfold calBusy
  repeat' first
    | with_reducible assumption
    | exact List.Subset.trans (by decide) hR
    | exact covReg (hR (by decide))
    | with_reducible apply wrF_only

theorem applyUser_only {R : List RegSet} {s₀ : State} (ch : Nat) (s : State) (b_ch : ch < 24) (h₀ : OnlyRegs R s₀ s)
    (hR : [reg CTL_INT, reg LDG_INT, reg SCL_CAL_PEND, reg SCL_CAL_STAT, reg SCL_INT, regFam LDG_DROP 8, regFam SCL_CH_FDLY 24] ⊆
      R) : OnlyRegs R s₀ (applyUser ch s) := by
  unfold applyUser
  repeat' first
    | with_reducible assumption
    | exact List.Subset.trans (by decide) hR
    | exact covReg (hR (by decide))
    | (show (_ : Nat) < _; decide)
    | with_reducible apply setStat_only
    | with_reducible apply logEvent_only
    | with_reducible apply takeUser_only
    | with_reducible apply ucalPoints_only
    | with_reducible apply calBusy_only
    | with_reducible apply raise_only

theorem markOvr_only {R : List RegSet} {s₀ : State} (ch : Nat) (s : State) (b_ch : ch < 24) (h₀ : OnlyRegs R s₀ s)
    (hR : [reg CTL_INT, reg SCL_INT, regFam SCL_CH_STAT 24] ⊆ R) : OnlyRegs R s₀ (markOvr ch s) := by
  unfold markOvr
  repeat' first
    | with_reducible assumption
    | exact List.Subset.trans (by decide) hR
    | exact covReg (hR (by decide))
    | refine covFam (n := 24) (hR (by decide)) (fun i => by simp only [SCL_CH_STAT]) ?_
    | with_reducible apply setStat_only
    | with_reducible apply wrF_only
    | with_reducible apply raise_only

theorem localMeter_only {R : List RegSet} {s₀ : State} (s : State) (k : Nat) (b_k : k < 8) (h₀ : OnlyRegs R s₀ s)
    (hR : [reg CTL_INT, reg LDG_INT, reg LDG_RD_STAT, reg SCL_EN_INT, reg SCL_EN_SAVE, reg SCL_EN_SAVE_STAT, reg SCL_EN_STATUS,
      regFam LDG_DROP 8, regFam PT_P 8, regFam PT_Q 8, regFam PT_STAT 8] ⊆ R) : OnlyRegs R s₀ (localMeter s k) := by
  unfold localMeter
  with_reducible repeat' first
    | assumption
    | apply OnlyRegs.ite
    | apply setMeter_only
    | apply meterSample_only

theorem rmsRegister_only {R : List RegSet} {s₀ : State} (ch : Nat) (hist : List ScSample) (s : State) (b_ch : ch < 24) (h₀ :
    OnlyRegs R s₀ s)
    (hR : [regFam SCL_CH_RMS 24] ⊆ R) : OnlyRegs R s₀ (rmsRegister ch hist s) := by
  unfold rmsRegister
  try dsimp only
  repeat' first
    | with_reducible assumption
    | refine covFam (n := 24) (hR (by decide)) (fun i => by simp only [SCL_CH_RMS]) ?_
    | with_reducible apply wr_only
    | with_reducible apply OnlyRegs.foldlPoints
    | split

theorem channelOutput_only {R : List RegSet} {s₀ : State} (ch : Nat) (bits : List Bool) (s : State) (b_ch : ch < 24) (h₀ :
    OnlyRegs R s₀ s)
    (hR : [reg CTL_INT, reg LDG_INT, reg LDG_RD_STAT, reg SCL_CAL_PEND, reg SCL_CAL_STAT, reg SCL_EN_INT, reg SCL_EN_SAVE, reg
      SCL_EN_SAVE_STAT, reg SCL_EN_STATUS, reg SCL_INT, regFam LDG_DROP 8, regFam PT_P 8, regFam PT_Q 8, regFam PT_STAT 8, regFam
      SCL_CH_FDLY 24, regFam SCL_CH_RMS 24, regFam SCL_CH_STAT 24] ⊆ R) : OnlyRegs R s₀ (channelOutput ch bits s) := by
  unfold channelOutput
  extract_lets d s0 s1 ovr s2 tag mark x hist s3
  have h0 : OnlyRegs R s₀ s0 := drawFree_only _ (setChan_only _ _ _ h₀)
  have h1 : OnlyRegs R s₀ s1 := OnlyRegs.ite (applyUser_only _ _ b_ch h0 (List.Subset.trans (by decide) hR)) h0
  have h2 : OnlyRegs R s₀ s2 := OnlyRegs.ite (markOvr_only _ _ b_ch h1 (List.Subset.trans (by decide) hR)) h1
  have h3 : OnlyRegs R s₀ s3 := setChan_only _ _ _ h2
  refine OnlyRegs.foldlMem (rmsRegister_only _ _ _ b_ch h3 (List.Subset.trans (by decide) hR)) fun k hk u => ?_
  exact localMeter_only _ _ (List.mem_range.mp (List.mem_of_mem_filter hk)) (OnlyRegs.refl u) (List.Subset.trans (by decide) hR)

theorem setSvHist_only {R : List RegSet} {s₀ : State} (i : Nat) (x : SvHist) (s : State) (h₀ : OnlyRegs R s₀ s) :
    OnlyRegs R s₀ (setSvHist i x s) := h₀.pass (setSvHist_within (L := [.scales]) i x s (Within.refl s) (List.Subset.refl _)) (by
      decide)

theorem svCounts_only {R : List RegSet} {s₀ : State} (n : Nat) (f : SvSt → SvSt) (s : State) (h₀ : OnlyRegs R s₀ s) :
    OnlyRegs R s₀ (svCounts n f s) := h₀.pass (svCounts_within (L := [.ing]) n f s (Within.refl s) (List.Subset.refl _)) (by decide)

theorem svMeter_only {R : List RegSet} {s₀ : State} (i : Nat) (r : SvRec) (s : State) (h₀ : OnlyRegs R s₀ s)
    (hR : [reg CTL_INT, reg LDG_INT, reg LDG_RD_STAT, reg SCL_EN_INT, reg SCL_EN_SAVE, reg SCL_EN_SAVE_STAT, reg SCL_EN_STATUS,
      regFam LDG_DROP 8, regFam PT_P 8, regFam PT_Q 8, regFam PT_STAT 8] ⊆ R) : OnlyRegs R s₀ (svMeter i r s) := by
  unfold svMeter
  refine OnlyRegs.foldlMem h₀ fun k hk u => ?_
  have hk8 : k < 8 := List.mem_range.mp (List.mem_of_mem_filter hk)
  split
  · exact meterSample_only _ _ _ _ _ _ hk8 (OnlyRegs.refl u) hR
  · exact OnlyRegs.refl u

theorem svAppend_only {R : List RegSet} {s₀ : State} (i : Nat) (r : SvRec) (s : State) (h₀ : OnlyRegs R s₀ s)
    (hR : [reg CTL_INT, reg LDG_INT, reg LDG_RD_STAT, reg SCL_EN_INT, reg SCL_EN_SAVE, reg SCL_EN_SAVE_STAT, reg SCL_EN_STATUS,
      regFam LDG_DROP 8, regFam PT_P 8, regFam PT_Q 8, regFam PT_STAT 8] ⊆ R) : OnlyRegs R s₀ (svAppend i r s) := by
  unfold svAppend
  with_reducible repeat' first
    | assumption
    | apply svMeter_only
    | apply setSvHist_only

theorem svGap_only {R : List RegSet} {s₀ : State} (i : Nat) (s : State) (h₀ : OnlyRegs R s₀ s)
    (hR : [reg CTL_INT, reg SCL_INT] ⊆ R) : OnlyRegs R s₀ (svGap i s) := by
  unfold svGap
  repeat' first
    | with_reducible assumption
    | exact List.Subset.trans (by decide) hR
    | exact covReg (hR (by decide))
    | with_reducible apply svCounts_only
    | with_reducible apply raise_only

theorem svSettleOne_only {R : List RegSet} {s₀ : State} (i : Nat) (r : SvRec) (s : State) (h₀ : OnlyRegs R s₀ s)
    (hR : [reg CTL_INT, reg LDG_INT, reg LDG_RD_STAT, reg SCL_EN_INT, reg SCL_EN_SAVE, reg SCL_EN_SAVE_STAT, reg SCL_EN_STATUS,
      reg SCL_INT, regFam LDG_DROP 8, regFam PT_P 8, regFam PT_Q 8, regFam PT_STAT 8] ⊆ R) : OnlyRegs R s₀ (svSettleOne i r s) := by
  unfold svSettleOne
  try dsimp only
  with_reducible repeat' first
    | assumption
    | exact List.Subset.trans (by decide) hR
    | apply svCounts_only
    | apply setSvHist_only
    | apply svAppend_only
    | apply svGap_only
    | apply OnlyRegs.foldlPoints
    | split

theorem svSettle_only {R : List RegSet} {s₀ : State} (i : Nat) (p : SvRec → Bool) (s : State) (h₀ : OnlyRegs R s₀ s)
    (hR : [reg CTL_INT, reg LDG_INT, reg LDG_RD_STAT, reg SCL_EN_INT, reg SCL_EN_SAVE, reg SCL_EN_SAVE_STAT, reg SCL_EN_STATUS,
      reg SCL_INT, regFam LDG_DROP 8, regFam PT_P 8, regFam PT_Q 8, regFam PT_STAT 8] ⊆ R) : OnlyRegs R s₀ (svSettle i p s) := by
  unfold svSettle
  with_reducible repeat' first
    | exact OnlyRegs.refl _
    | assumption
    | (intro _; try dsimp only)
    | apply setSvHist_only
    | apply svSettleOne_only
    | apply OnlyRegs.foldlPoints
    | apply OnlyRegs.foldl

theorem svWindowEnd_only {R : List RegSet} {s₀ : State} (i : Nat) (upTo : Nat) (s : State) (h₀ : OnlyRegs R s₀ s)
    (hR : [reg CTL_INT, reg LDG_INT, reg LDG_RD_STAT, reg SCL_EN_INT, reg SCL_EN_SAVE, reg SCL_EN_SAVE_STAT, reg SCL_EN_STATUS,
      reg SCL_INT, regFam LDG_DROP 8, regFam PT_P 8, regFam PT_Q 8, regFam PT_STAT 8] ⊆ R) : OnlyRegs R s₀ (svWindowEnd i upTo s) :=
      by
  unfold svWindowEnd
  with_reducible repeat' first
    | assumption
    | exact List.Subset.trans (by decide) hR
    | apply OnlyRegs.ite
    | apply setSvHist_only
    | apply svSettle_only
    | apply svGap_only

theorem lsSettle_only {R : List RegSet} {s₀ : State} (c : LsCfg) (t : Nat) (s : State) (h₀ : OnlyRegs R s₀ s)
    (hR : [reg CTL_INT, reg LDG_INT, reg LDG_RD_STAT, reg SCL_EN_INT, reg SCL_EN_SAVE, reg SCL_EN_SAVE_STAT, reg SCL_EN_STATUS,
      reg SCL_INT, regFam LDG_DROP 8, regFam PT_P 8, regFam PT_Q 8, regFam PT_STAT 8] ⊆ R) : OnlyRegs R s₀ (lsSettle c t s) := by
  unfold lsSettle
  with_reducible repeat' first
    | exact OnlyRegs.refl _
    | assumption
    | (intro _; try dsimp only)
    | apply svWindowEnd_only
    | apply OnlyRegs.foldlPoints
    | apply OnlyRegs.foldl

theorem estimate_only {R : List RegSet} {s₀ : State} (i : Nat) (inst : Nat) (s : State) (h₀ : OnlyRegs R s₀ s)
    (hR : [reg CTL_INT, reg LDG_INT, reg LDG_RD_STAT, reg SCL_EN_INT, reg SCL_EN_SAVE, reg SCL_EN_SAVE_STAT, reg SCL_EN_STATUS,
      reg SCL_INT, regFam LDG_DROP 8, regFam PT_P 8, regFam PT_Q 8, regFam PT_STAT 8] ⊆ R) : OnlyRegs R s₀ (estimate i inst s) := by
  unfold estimate
  try dsimp only
  with_reducible repeat' first
    | assumption
    | apply lsSettle_only
    | apply setStream_only
    | apply setScales_only
    | apply handOver_only
    | apply measureStream_only
    | apply count_only
    | apply OnlyRegs.foldlPoints
    | split

theorem settleStatus_only {R : List RegSet} {s₀ : State} (s : State) (h₀ : OnlyRegs R s₀ s)
    (hR : [reg SCL_STATUS] ⊆ R) : OnlyRegs R s₀ (settleStatus s) := by
  unfold settleStatus
  repeat' first
    | with_reducible assumption
    | exact List.Subset.trans (by decide) hR
    | exact covReg (hR (by decide))
    | with_reducible apply setStat_only

theorem startSettling_only {R : List RegSet} {s₀ : State} (ch : Nat) (s : State) (b_ch : ch < 24) (h₀ : OnlyRegs R s₀ s)
    (hR : [reg SCL_STATUS, regFam SCL_CH_STAT 24] ⊆ R) : OnlyRegs R s₀ (startSettling ch s) := by
  unfold startSettling
  repeat' first
    | with_reducible assumption
    | exact List.Subset.trans (by decide) hR
    | refine covFam (n := 24) (hR (by decide)) (fun i => by simp only [SCL_CH_STAT]) ?_
    | with_reducible apply setStat_only
    | with_reducible apply setChan_only
    | with_reducible apply settleStatus_only

theorem userStart_only {R : List RegSet} {s₀ : State} (s : State) (h₀ : OnlyRegs R s₀ s)
    (hR : [reg SCL_CAL_PEND, reg SCL_CAL_STAT, regFam SCL_CH_FDLY 24] ⊆ R) : OnlyRegs R s₀ (userStart s) := by
  unfold userStart
  repeat' first
    | with_reducible exact OnlyRegs.refl _
    | with_reducible assumption
    | exact List.Subset.trans (by decide) hR
    | (intro _; try dsimp only)
    | exact covReg (hR (by decide))
    | with_reducible apply takeUser_only
    | with_reducible apply setScales_only
    | with_reducible apply calBusy_only
    | with_reducible apply wr_only
    | with_reducible apply OnlyRegs.foldlPoints
    | with_reducible apply OnlyRegs.forUpTo

theorem scalesStart_only {R : List RegSet} {s₀ : State} (resume : Bool) (s : State) (h₀ : OnlyRegs R s₀ s)
    (hR : [reg SCL_CAL_PEND, reg SCL_CAL_STAT, reg SCL_STATUS, regFam SCL_CH_FDLY 24, regFam SCL_CH_STAT 24] ⊆ R) : OnlyRegs R s₀
      (scalesStart resume s) := by
  unfold scalesStart
  repeat' first
    | with_reducible exact OnlyRegs.refl _
    | with_reducible assumption
    | exact List.Subset.trans (by decide) hR
    | (intro _; try dsimp only)
    | with_reducible apply OnlyRegs.ite
    | exact covReg (hR (by decide))
    | with_reducible apply setStat_only
    | with_reducible apply setEnergy_only
    | with_reducible apply startSettling_only
    | with_reducible apply userStart_only
    | with_reducible apply setScales_only
    | with_reducible apply settleStatus_only
    | with_reducible apply OnlyRegs.foldlPoints
    | with_reducible apply OnlyRegs.forUpTo

theorem scalesStep_only {R : List RegSet} {s₀ : State} (old : Nat) (new : Nat) (s : State) (h₀ : OnlyRegs R s₀ s) :
    OnlyRegs R s₀ (scalesStep old new s) := h₀.pass (scalesStep_within (L := [.scales]) old new s (Within.refl s)
      (List.Subset.refl _)) (by decide)

theorem svArrive_only {R : List RegSet} {s₀ : State} (n : Nat) (r : SvRec) (arrival : Nat) (s : State) (h₀ : OnlyRegs R s₀ s)
    (hR : [reg CTL_INT, reg LDG_INT, reg LDG_RD_STAT, reg SCL_EN_INT, reg SCL_EN_SAVE, reg SCL_EN_SAVE_STAT, reg SCL_EN_STATUS,
      reg SCL_INT, regFam LDG_DROP 8, regFam PT_P 8, regFam PT_Q 8, regFam PT_STAT 8] ⊆ R) : OnlyRegs R s₀ (svArrive n r arrival s)
      := by
  unfold svArrive
  repeat' first
    | with_reducible assumption
    | exact List.Subset.trans (by decide) hR
    | exact covReg (hR (by decide))
    | with_reducible apply svCounts_only
    | with_reducible apply setSvHist_only
    | with_reducible apply svSettle_only
    | with_reducible apply raise_only
    | with_reducible apply OnlyRegs.foldlPoints
    | split

theorem syncChan_only {R : List RegSet} {s₀ : State} (ch : Nat) (s : State) (b_ch : ch < 24) (h₀ : OnlyRegs R s₀ s)
    (hR : [reg SCL_STATUS, regFam SCL_CH_STAT 24] ⊆ R) : OnlyRegs R s₀ (syncChan ch s) := by
  unfold syncChan
  with_reducible repeat' first
    | assumption
    | apply OnlyRegs.ite
    | apply startSettling_only
    | apply setChan_only

theorem syncApply_only {R : List RegSet} {s₀ : State} (s : State) (h₀ : OnlyRegs R s₀ s)
    (hR : [reg CTL_INT, reg SCL_INT, reg SCL_STATUS, reg SCL_SYNC_NS, reg SCL_SYNC_SEC, regFam SCL_CH_STAT 24] ⊆ R) : OnlyRegs R
      s₀ (syncApply s) := by
  unfold syncApply
  repeat' first
    | with_reducible exact OnlyRegs.refl _
    | with_reducible assumption
    | exact List.Subset.trans (by decide) hR
    | (intro _; try dsimp only)
    | with_reducible apply OnlyRegs.ite
    | exact covReg (hR (by decide))
    | with_reducible apply setStat_only
    | with_reducible apply syncChan_only
    | with_reducible apply wrF_only
    | with_reducible apply setScales_only
    | with_reducible apply wr_only
    | with_reducible apply raise_only
    | with_reducible apply drawFree_only
    | with_reducible apply OnlyRegs.foldlPoints
    | with_reducible apply OnlyRegs.forUpTo

theorem syncRequest_only {R : List RegSet} {s₀ : State} (src : Nat) (s : State) (h₀ : OnlyRegs R s₀ s) :
    OnlyRegs R s₀ (syncRequest src s) := h₀.pass (syncRequest_within (L := [.scales]) src s (Within.refl s) (List.Subset.refl _))
      (by decide)

theorem setCap_only {R : List RegSet} {s₀ : State} (f : Capture → Capture) (s : State) (h₀ : OnlyRegs R s₀ s) :
    OnlyRegs R s₀ (setCap f s) := h₀.pass (setCap_within (L := [.cap]) f s (Within.refl s) (List.Subset.refl _)) (by decide)

theorem backToS0_only {R : List RegSet} {s₀ : State} (row : CapRow) (s : State) (h₀ : OnlyRegs R s₀ s) :
    OnlyRegs R s₀ (backToS0 row s) := h₀.pass (backToS0_within (L := [.cap]) row s (Within.refl s) (List.Subset.refl _)) (by decide)

theorem capCount_only {R : List RegSet} {s₀ : State} (k : Nat) (n : Nat) (s : State) (h₀ : OnlyRegs R s₀ s) :
    OnlyRegs R s₀ (capCount k n s) := h₀.pass (capCount_within (L := [.live]) k n s (Within.refl s) (List.Subset.refl _)) (by decide)

theorem endRecord_only {R : List RegSet} {s₀ : State} (r : CapRec) (s : State) (h₀ : OnlyRegs R s₀ s)
    (hR : [reg CAP_INT, reg CTL_INT] ⊆ R) : OnlyRegs R s₀ (endRecord r s) := by
  unfold endRecord
  repeat' first
    | with_reducible assumption
    | exact List.Subset.trans (by decide) hR
    | exact covReg (hR (by decide))
    | with_reducible apply raise_only
    | with_reducible apply setCap_only

theorem capReef_only {R : List RegSet} {s₀ : State} (s : State) (h₀ : OnlyRegs R s₀ s)
    (hR : [reg CAP_INT, reg CTL_INT] ⊆ R) : OnlyRegs R s₀ (capReef s) := by
  unfold capReef
  with_reducible repeat' first
    | assumption
    | apply endRecord_only
    | apply setCap_only
    | apply OnlyRegs.foldlPoints
    | split

theorem recordLimits_only {R : List RegSet} {s₀ : State} (pos : Int) (s : State) (h₀ : OnlyRegs R s₀ s)
    (hR : [reg CAP_INT, reg CTL_INT] ⊆ R) : OnlyRegs R s₀ (recordLimits pos s) := by
  unfold recordLimits
  try dsimp only
  with_reducible repeat' first
    | assumption
    | apply endRecord_only
    | apply OnlyRegs.foldlPoints
    | split

theorem countGaps_only {R : List RegSet} {s₀ : State} (gaps : Nat) (samples : Nat) (s : State) (h₀ : OnlyRegs R s₀ s)
    (hR : [reg CAP_INT, reg CTL_INT] ⊆ R) : OnlyRegs R s₀ (countGaps gaps samples s) := by
  unfold countGaps
  repeat' first
    | with_reducible assumption
    | exact List.Subset.trans (by decide) hR
    | with_reducible apply OnlyRegs.ite
    | exact covReg (hR (by decide))
    | with_reducible apply capCount_only
    | with_reducible apply raise_only

theorem joinRows_only {R : List RegSet} {s₀ : State} (rows : List CapRow) (r : CapRec) (s : State) (h₀ : OnlyRegs R s₀ s)
    (hR : [reg CAP_INT, reg CTL_INT] ⊆ R) : OnlyRegs R s₀ (joinRows rows r s) := by
  unfold joinRows
  with_reducible repeat' first
    | assumption
    | apply countGaps_only
    | apply setCap_only

theorem extendRecord_only {R : List RegSet} {s₀ : State} (row : CapRow) (drained : Nat) (s : State) (h₀ : OnlyRegs R s₀ s)
    (hR : [reg CAP_INT, reg CTL_INT] ⊆ R) : OnlyRegs R s₀ (extendRecord row drained s) := by
  unfold extendRecord
  try dsimp only
  with_reducible repeat' first
    | assumption
    | apply recordLimits_only
    | apply endRecord_only
    | apply joinRows_only
    | apply setCap_only
    | apply OnlyRegs.foldlPoints
    | split

theorem makeRoom_only {R : List RegSet} {s₀ : State} (s : State) (h₀ : OnlyRegs R s₀ s) :
    OnlyRegs R s₀ (makeRoom s).2 := h₀.pass (makeRoom_within (L := [.cap]) s (Within.refl s) (List.Subset.refl _)) (by decide)

theorem refuse_only {R : List RegSet} {s₀ : State} (k : Nat) (s : State) (h₀ : OnlyRegs R s₀ s)
    (hR : [reg CAP_INT, reg CTL_INT] ⊆ R) : OnlyRegs R s₀ (refuse k s) := by
  unfold refuse
  repeat' first
    | with_reducible assumption
    | exact List.Subset.trans (by decide) hR
    | exact covReg (hR (by decide))
    | with_reducible apply capCount_only
    | with_reducible apply raise_only
    | with_reducible apply setCap_only

theorem startRecord_only {R : List RegSet} {s₀ : State} (src : Nat) (state : Nat) (te : Nat) (forced : Bool) (s : State) (h₀ :
    OnlyRegs R s₀ s)
    (hR : [reg CAP_INT, reg CTL_INT] ⊆ R) : OnlyRegs R s₀ (startRecord src state te forced s) := by
  unfold startRecord
  repeat' first
    | with_reducible assumption
    | exact List.Subset.trans (by decide) hR
    | with_reducible apply OnlyRegs.ite
    | exact covReg (hR (by decide))
    | with_reducible apply makeRoom_only
    | with_reducible apply countGaps_only
    | with_reducible apply capCount_only
    | with_reducible apply raise_only
    | with_reducible apply refuse_only
    | with_reducible apply setCap_only

theorem retrigger_only {R : List RegSet} {s₀ : State} (r : CapRec) (te : Nat) (s : State) (h₀ : OnlyRegs R s₀ s) :
    OnlyRegs R s₀ (retrigger r te s) := h₀.pass (retrigger_within (L := [.live, .cap]) r te s (Within.refl s) (List.Subset.refl
      _)) (by decide)

theorem capTrigger_only {R : List RegSet} {s₀ : State} (src : Nat) (state : Nat) (te : Nat) (forced : Bool) (s : State) (h₀ :
    OnlyRegs R s₀ s)
    (hR : [reg CAP_INT, reg CTL_INT] ⊆ R) : OnlyRegs R s₀ (capTrigger src state te forced s) := by
  unfold capTrigger
  with_reducible repeat' first
    | assumption
    | apply startRecord_only
    | apply retrigger_only
    | apply OnlyRegs.foldlPoints
    | split

theorem forceStep_only {R : List RegSet} {s₀ : State} (tag : Nat) (before : Option Nat) (s : State) (h₀ : OnlyRegs R s₀ s)
    (hR : [reg CAP_INT, reg CTL_INT] ⊆ R) : OnlyRegs R s₀ (forceStep tag before s) := by
  unfold forceStep
  try dsimp only
  with_reducible repeat' first
    | assumption
    | apply capTrigger_only
    | apply refuse_only
    | apply setCap_only
    | apply OnlyRegs.foldlPoints
    | split

theorem deadEnd_only {R : List RegSet} {s₀ : State} (row : CapRow) (s : State) (h₀ : OnlyRegs R s₀ s)
    (hR : [reg CAP_DEAD, reg CAP_DEAD_MAX] ⊆ R) : OnlyRegs R s₀ (deadEnd row s) := by
  unfold deadEnd
  repeat' first
    | with_reducible assumption
    | exact covReg (hR (by decide))
    | with_reducible apply wr_only
    | with_reducible apply setCap_only
    | with_reducible apply OnlyRegs.foldlPoints
    | split

theorem driveBells_only {R : List RegSet} {s₀ : State} (state : Nat) (s : State) (h₀ : OnlyRegs R s₀ s) :
    OnlyRegs R s₀ (driveBells state s) := h₀.pass (driveBells_within (L := [.cap, .out]) state s (Within.refl s) (List.Subset.refl
      _)) (by decide)

theorem enterState_only {R : List RegSet} {s₀ : State} (state : Nat) (src : Nat) (te : Nat) (pos : Int) (s : State) (h₀ : OnlyRegs
    R s₀ s)
    (hR : [reg CAP_INT, reg CTL_INT] ⊆ R) : OnlyRegs R s₀ (enterState state src te pos s) := by
  unfold enterState
  with_reducible repeat' first
    | assumption
    | apply OnlyRegs.ite
    | apply capTrigger_only
    | apply driveBells_only
    | apply setCap_only

theorem seqStep_only {R : List RegSet} {s₀ : State} (evs : List (Nat × Nat)) (tag : Nat) (pos : Int) (s : State) (h₀ : OnlyRegs R
    s₀ s)
    (hR : [reg CAP_INT, reg CTL_INT] ⊆ R) : OnlyRegs R s₀ (seqStep evs tag pos s) := by
  unfold seqStep
  try dsimp only
  with_reducible repeat' first
    | assumption
    | apply enterState_only
    | apply setCap_only
    | apply OnlyRegs.foldlPoints
    | split

theorem seqRefuse_only {R : List RegSet} {s₀ : State} (k : Nat) (evs : List (Nat × Nat)) (tag : Nat) (pos : Int) (s : State) (h₀ :
    OnlyRegs R s₀ s)
    (hR : [reg CAP_INT, reg CTL_INT] ⊆ R) : OnlyRegs R s₀ (seqRefuse k evs tag pos s) := by
  unfold seqRefuse
  try dsimp only
  with_reducible repeat' first
    | assumption
    | apply enterState_only
    | apply refuse_only
    | apply setCap_only
    | apply OnlyRegs.foldlPoints
    | split

theorem seqHeld_only {R : List RegSet} {s₀ : State} (k : Nat) (evs : List (Nat × Nat)) (tag : Nat) (pos : Int) (s : State) (h₀ :
    OnlyRegs R s₀ s)
    (hR : [reg CAP_INT, reg CTL_INT] ⊆ R) : OnlyRegs R s₀ (seqHeld k evs tag pos s) := by
  unfold seqHeld
  try dsimp only
  with_reducible repeat' first
    | assumption
    | apply refuse_only
    | apply setCap_only
    | apply OnlyRegs.foldlPoints
    | split

theorem capSequence_only {R : List RegSet} {s₀ : State} (ended : Bool) (evs : List (Nat × Nat)) (row : CapRow) (s : State) (h₀ :
    OnlyRegs R s₀ s)
    (hR : [reg CAP_INT, reg CTL_INT] ⊆ R) : OnlyRegs R s₀ (capSequence ended evs row s) := by
  unfold capSequence
  with_reducible repeat' first
    | assumption
    | apply OnlyRegs.ite
    | apply seqStep_only
    | apply seqRefuse_only
    | apply seqHeld_only

theorem schLow_only {R : List RegSet} {s₀ : State} (s : State) (h₀ : OnlyRegs R s₀ s) :
    OnlyRegs R s₀ (schLow s) := h₀.pass (schLow_within (L := [.cap]) s (Within.refl s) (List.Subset.refl _)) (by decide)

theorem takeEvs_only {R : List RegSet} {s₀ : State} (evs : List CapEv) (s : State) (h₀ : OnlyRegs R s₀ s) :
    OnlyRegs R s₀ (takeEvs evs s).1 := h₀.pass (takeEvs_within (L := [.cap]) evs s (Within.refl s) (List.Subset.refl _)) (by decide)

theorem capTake_only {R : List RegSet} {s₀ : State} (drained : Nat) (row0 : CapRow) (s : State) (h₀ : OnlyRegs R s₀ s)
    (hR : [reg CAP_DEAD, reg CAP_DEAD_MAX, reg CAP_INT, reg CTL_INT] ⊆ R) : OnlyRegs R s₀ (capTake drained row0 s) := by
  unfold capTake
  extract_lets tag s0 s1 ths due p row s3 s4 s5 evs ended
  have hs : OnlyRegs R s₀ (schLow s) := schLow_only _ h₀
  have h1 : OnlyRegs R s₀ s1 := setCap_only _ _ (hs.pass (L := [.cap]) (termSteps_within _ _ (Within.refl _) (List.Subset.refl _))
      (by decide))
  have h2 : OnlyRegs R s₀ p.1 := (setCap_only _ _ h1).pass (L := [.cap]) (takeEvs_within _ _ (Within.refl _) (List.Subset.refl _))
      (by decide)
  have h3 : OnlyRegs R s₀ s4 := deadEnd_only _ _ (backToS0_only _ _ (setCap_only _ _ h2)) (List.Subset.trans (by decide) hR)
  exact forceStep_only _ _ _ (capSequence_only _ _ _ _ (extendRecord_only _ _ _ h3 (List.Subset.trans (by decide) hR))
      (List.Subset.trans (by decide) hR)) (List.Subset.trans (by decide) hR)

theorem capSample_only {R : List RegSet} {s₀ : State} (drained : Nat) (s : State) (h₀ : OnlyRegs R s₀ s)
    (hR : [reg CAP_DEAD, reg CAP_DEAD_MAX, reg CAP_INT, reg CTL_INT] ⊆ R) : OnlyRegs R s₀ (capSample drained s) := by
  unfold capSample
  try dsimp only
  with_reducible repeat' first
    | assumption
    | apply capTake_only
    | apply setCap_only
    | apply OnlyRegs.foldlPoints
    | split

theorem capShed_only {R : List RegSet} {s₀ : State} (on : Bool) (s : State) (h₀ : OnlyRegs R s₀ s) :
    OnlyRegs R s₀ (capShed on s) := h₀.pass (capShed_within (L := [.cap]) on s (Within.refl s) (List.Subset.refl _)) (by decide)

theorem capStart_only {R : List RegSet} {s₀ : State} (resume : Bool) (s : State) (h₀ : OnlyRegs R s₀ s) :
    OnlyRegs R s₀ (capStart resume s) := h₀.pass (capStart_within (L := [.cap]) resume s (Within.refl s) (List.Subset.refl _)) (by
      decide)

theorem capStep_only {R : List RegSet} {s₀ : State} (s : State) (h₀ : OnlyRegs R s₀ s) :
    OnlyRegs R s₀ (capStep s) := h₀.pass (capStep_within (L := [.cap]) s (Within.refl s) (List.Subset.refl _)) (by decide)

theorem captureArm_only {R : List RegSet} {s₀ : State} (on : Bool) (s : State) (h₀ : OnlyRegs R s₀ s)
    (hR : [reg CAP_CTRL] ⊆ R) : OnlyRegs R s₀ (captureArm on s) := by
  unfold captureArm
  repeat' first
    | with_reducible assumption
    | exact List.Subset.trans (by decide) hR
    | with_reducible apply OnlyRegs.ite
    | exact covReg (hR (by decide))
    | with_reducible apply wrF_only
    | with_reducible apply setCap_only

theorem setNest_only {R : List RegSet} {s₀ : State} (f : Nest → Nest) (s : State) (h₀ : OnlyRegs R s₀ s) :
    OnlyRegs R s₀ (setNest f s) := h₀.pass (setNest_within (L := [.nest]) f s (Within.refl s) (List.Subset.refl _)) (by decide)

theorem baselineSave_only {R : List RegSet} {s₀ : State} (s : State) (h₀ : OnlyRegs R s₀ s)
    (hR : [reg CTL_INT, reg NST_OSC_INT] ⊆ R) : OnlyRegs R s₀ (baselineSave s) := by
  unfold baselineSave
  repeat' first
    | with_reducible assumption
    | exact List.Subset.trans (by decide) hR
    | with_reducible apply OnlyRegs.ite
    | exact covReg (hR (by decide))
    | with_reducible apply setNest_only
    | with_reducible apply raise_only

theorem raiseIf_only {R : List RegSet} {s₀ : State} (c : Bool) (a : Nat) (k : Nat) (s : State) (hc : Covered R a) (h₀ : OnlyRegs R
    s₀ s)
    (hR : [reg CTL_INT] ⊆ R) : OnlyRegs R s₀ (raiseIf c a k s) := by
  unfold raiseIf
  with_reducible repeat' first
    | assumption
    | apply OnlyRegs.ite
    | apply raise_only

theorem oscCount_only {R : List RegSet} {s₀ : State} (k : Nat) (n : Nat) (s : State) (h₀ : OnlyRegs R s₀ s) :
    OnlyRegs R s₀ (oscCount k n s) := h₀.pass (oscCount_within (L := [.live]) k n s (Within.refl s) (List.Subset.refl _)) (by decide)

theorem oscEvents_only {R : List RegSet} {s₀ : State} (e : OscEv) (s : State) (h₀ : OnlyRegs R s₀ s)
    (hR : [reg CTL_INT, reg NST_OSC_INT] ⊆ R) : OnlyRegs R s₀ (oscEvents e s) := by
  unfold oscEvents
  repeat' first
    | with_reducible assumption
    | exact List.Subset.trans (by decide) hR
    | exact covReg (hR (by decide))
    | with_reducible apply raiseIf_only
    | with_reducible apply oscCount_only

theorem oscNow_only {R : List RegSet} {s₀ : State} (damp : Bool) (amp : Bool) (src : Bool) (s : State) (h₀ : OnlyRegs R s₀ s)
    (hR : [reg CTL_INT, reg NST_OSC_INT] ⊆ R) : OnlyRegs R s₀ (oscNow damp amp src s) := by
  unfold oscNow
  repeat' first
    | with_reducible assumption
    | exact List.Subset.trans (by decide) hR
    | exact covReg (hR (by decide))
    | with_reducible apply raiseIf_only
    | with_reducible apply setNest_only

theorem emWarm_only {R : List RegSet} {s₀ : State} (x : Nat) (s : State) (h₀ : OnlyRegs R s₀ s)
    (hR : [reg CTL_INT, reg NST_OSC_INT] ⊆ R) : OnlyRegs R s₀ (emWarm x s) := by
  unfold emWarm
  repeat' first
    | with_reducible assumption
    | exact List.Subset.trans (by decide) hR
    | exact covReg (hR (by decide))
    | with_reducible apply setNest_only
    | with_reducible apply raise_only
    | with_reducible apply OnlyRegs.foldlPoints
    | split

theorem emExtract_only {R : List RegSet} {s₀ : State} (x : Nat) (upTo : Nat) (s0 : State) (h₀ : OnlyRegs R s₀ s0)
    (hR : [reg CTL_INT, reg EGR_ALSEQ, reg EGR_INT, reg EGR_QINT, reg NST_OSC_INT] ⊆ R) : OnlyRegs R s₀ (emExtract x upTo s0) := by
  unfold emExtract
  with_reducible repeat' first
    | assumption
    | exact List.Subset.trans (by decide) hR
    | apply OnlyRegs.ite
    | apply oscEvents_only
    | apply baselineSave_only
    | apply oscNow_only
    | apply oscCount_only
    | apply setNest_only
    | apply emWarm_only
    | apply classOutput_only

theorem emRestart_only {R : List RegSet} {s₀ : State} (s : State) (h₀ : OnlyRegs R s₀ s) :
    OnlyRegs R s₀ (emRestart s) := h₀.pass (emRestart_within (L := [.nest]) s (Within.refl s) (List.Subset.refl _)) (by decide)

theorem fastRestart_only {R : List RegSet} {s₀ : State} (s : State) (h₀ : OnlyRegs R s₀ s) :
    OnlyRegs R s₀ (fastRestart s) := h₀.pass (fastRestart_within (L := [.nest]) s (Within.refl s) (List.Subset.refl _)) (by decide)

theorem fastShed_only {R : List RegSet} {s₀ : State} (s : State) (h₀ : OnlyRegs R s₀ s)
    (hR : [reg CTL_INT, reg NST_OSC_INT] ⊆ R) : OnlyRegs R s₀ (fastShed s) := by
  unfold fastShed
  repeat' first
    | with_reducible assumption
    | exact List.Subset.trans (by decide) hR
    | with_reducible apply OnlyRegs.ite
    | exact covReg (hR (by decide))
    | with_reducible apply setNest_only
    | with_reducible apply raise_only

theorem fastWarm_only {R : List RegSet} {s₀ : State} (inst : Nat) (s : State) (h₀ : OnlyRegs R s₀ s)
    (hR : [reg CTL_INT, reg NST_OSC_INT] ⊆ R) : OnlyRegs R s₀ (fastWarm inst s) := by
  unfold fastWarm
  repeat' first
    | with_reducible assumption
    | exact List.Subset.trans (by decide) hR
    | exact covReg (hR (by decide))
    | with_reducible apply setNest_only
    | with_reducible apply raise_only
    | with_reducible apply OnlyRegs.foldlPoints
    | split

theorem oscAsOf_only {R : List RegSet} {s₀ : State} (e : OscEnv) (s : State) (h₀ : OnlyRegs R s₀ s)
    (hR : [reg NST_THR_FAST] ⊆ R) : OnlyRegs R s₀ (oscAsOf e s) := by
  unfold oscAsOf
  repeat' first
    | with_reducible assumption
    | exact covReg (hR (by decide))
    | with_reducible apply setNest_only
    | with_reducible apply wr_only

theorem oscClasses_only {R : List RegSet} {s₀ : State} (i : OscInst) (locs : NMap LocSlot) (s : State) (h₀ : OnlyRegs R s₀ s)
    (hR : [reg CTL_INT, reg EGR_ALSEQ, reg EGR_INT, reg EGR_QINT] ⊆ R) : OnlyRegs R s₀ (oscClasses i locs s) := by
  unfold oscClasses
  with_reducible repeat' first
    | assumption
    | apply OnlyRegs.ite
    | apply classOutput_only

theorem oscClose_only {R : List RegSet} {s₀ : State} (inst : Nat) (rev : Nat) (s : State) (h₀ : OnlyRegs R s₀ s)
    (hR : [reg CTL_INT, reg EGR_ALSEQ, reg EGR_INT, reg EGR_QINT, reg NST_OSC_INT] ⊆ R) : OnlyRegs R s₀ (oscClose inst rev s) := by
  unfold oscClose
  with_reducible repeat' first
    | assumption
    | apply OnlyRegs.ite
    | apply emExtract_only
    | apply setNest_only

theorem oscFirst_only {R : List RegSet} {s₀ : State} (inst : Nat) (s : State) (h₀ : OnlyRegs R s₀ s) :
    OnlyRegs R s₀ (oscFirst inst s) := h₀.pass (oscFirst_within (L := [.nest]) inst s (Within.refl s) (List.Subset.refl _)) (by
      decide)

theorem oscRerun_only {R : List RegSet} {s₀ : State} (inst : Nat) (tag : Nat) (s : State) (h₀ : OnlyRegs R s₀ s)
    (hR : [reg CTL_INT, reg EGR_ALSEQ, reg EGR_INT, reg EGR_QINT, reg NST_OSC_INT, reg NST_THR_FAST] ⊆ R) : OnlyRegs R s₀
      (oscRerun inst tag s) := by
  unfold oscRerun
  with_reducible repeat' first
    | assumption
    | exact List.Subset.trans (by decide) hR
    | apply oscEvents_only
    | apply oscNow_only
    | apply oscCount_only
    | apply setNest_only
    | apply oscClasses_only
    | apply OnlyRegs.foldlPoints
    | split

theorem oscSeal_only {R : List RegSet} {s₀ : State} (inst : Nat) (s0 : State) (h₀ : OnlyRegs R s₀ s0)
    (hR : [reg CTL_INT, reg EGR_ALSEQ, reg EGR_INT, reg EGR_QINT, reg NST_OSC_INT, reg NST_THR_FAST] ⊆ R) : OnlyRegs R s₀ (oscSeal
      inst s0) := by
  unfold oscSeal
  with_reducible repeat' first
    | assumption
    | exact List.Subset.trans (by decide) hR
    | apply OnlyRegs.ite
    | apply oscEvents_only
    | apply oscNow_only
    | apply fastWarm_only
    | apply oscCount_only
    | apply setNest_only
    | apply oscClasses_only
    | apply oscFirst_only

theorem oscStart_only {R : List RegSet} {s₀ : State} (s : State) (h₀ : OnlyRegs R s₀ s)
    (hR : [reg CTL_INT, reg NST_OSC_INT, reg NST_SEED_STAT] ⊆ R) : OnlyRegs R s₀ (oscStart s) := by
  unfold oscStart
  repeat' first
    | with_reducible assumption
    | exact List.Subset.trans (by decide) hR
    | with_reducible apply OnlyRegs.ite
    | exact covReg (hR (by decide))
    | with_reducible apply setNest_only
    | with_reducible apply wr_only
    | with_reducible apply raise_only

end Sys2Proof.Machine
end

