-- ==== Sys2Proof/Laws/RegsMast.lean ====
section
/-!
SUPPORT. Which registers each operation can change (Safety.OnlyRegs): the Mast, the topology, the Scales and the market.
-/

namespace Sys2Proof.Machine

open Sys2Proof

set_option Elab.async false
set_option linter.all false

set_option maxRecDepth 4000

theorem cycLeave_only {R : List RegSet} {s₀ : State} (st : CycState) (s : State) (h₀ : OnlyRegs R s₀ s)
    (hR : [reg CTL_INT, reg MST_INT] ⊆ R) : OnlyRegs R s₀ (cycLeave st s) := by
  unfold cycLeave
  repeat' first
    | exact List.Subset.trans (by decide) hR
    | exact covReg (hR (by decide))
    | with_reducible apply raise_only
    | with_reducible apply OnlyRegs.foldlPoints
    | (with_reducible apply OnlyRegs.lit; first | with_reducible assumption | with_reducible apply OnlyRegs.ite)

theorem cycCfgWrite_only {R : List RegSet} {s₀ : State} (v : Word) (s : State) (h₀ : OnlyRegs R s₀ s)
    (hR : [reg CTL_INT, reg MST_CYC_CFG, reg MST_INT] ⊆ R) : OnlyRegs R s₀ (cycCfgWrite v s) := by
  unfold cycCfgWrite
  repeat' first
    | exact List.Subset.trans (by decide) hR
    | exact covReg (hR (by decide))
    | with_reducible apply wr_only
    | with_reducible apply cycLeave_only
    | with_reducible apply OnlyRegs.foldlPoints
    | (with_reducible apply OnlyRegs.lit; first | with_reducible assumption | with_reducible apply cycLeave_only)

theorem cycleCompare_only {R : List RegSet} {s₀ : State} (err : Int) (inst : Option Nat) (s : State) (h₀ : OnlyRegs R s₀ s)
    (hR : [reg CTL_INT, reg MST_INT] ⊆ R) : OnlyRegs R s₀ (cycleCompare err inst s) := by
  unfold cycleCompare
  try dsimp only
  repeat' first
    | exact List.Subset.trans (by decide) hR
    | with_reducible apply OnlyRegs.ite
    | exact covReg (hR (by decide))
    | with_reducible apply raise_only
    | with_reducible apply drawFree_only
    | with_reducible apply OnlyRegs.foldlPoints
    | (with_reducible apply OnlyRegs.lit; first | with_reducible assumption | with_reducible apply drawFree_only)
    | split

theorem execCycCfgWrite_only {R : List RegSet} {s₀ : State} (who : Req) (v : Word) (s : State) (h₀ : OnlyRegs R s₀ s)
    (hR : [reg CTL_INT, reg MST_CYC_CFG, reg MST_INT] ⊆ R) : AnswersOnly R s₀ (execCycCfgWrite who v s) := by
  unfold execCycCfgWrite
  with_reducible repeat' first
    | exact OnlyRegs.refl _
    | assumption
    | exact List.Subset.trans (by decide) hR
    | (intro _; try dsimp only)
    | apply AnswersOnly.inFull
    | apply AnswersOnly.powered
    | apply AnswersOnly.next
    | apply AnswersOnly.done
    | apply serve_only
    | apply cycCfgWrite_only

theorem execCycleCompare_only {R : List RegSet} {s₀ : State} (s : State) (h₀ : OnlyRegs R s₀ s)
    (hR : [reg CTL_INT, reg MST_INT] ⊆ R) : AnswersOnly R s₀ (execCycleCompare s) := by
  unfold execCycleCompare
  with_reducible repeat' first
    | assumption
    | apply AnswersOnly.inFull
    | apply AnswersOnly.powered
    | apply AnswersOnly.next
    | apply AnswersOnly.done
    | apply cycleCompare_only
    | apply powered_only
    | apply OnlyRegs.foldlPoints
    | split

theorem flywheelLimit_only {R : List RegSet} {s₀ : State} (ok : Bool) (s : State) (h₀ : OnlyRegs R s₀ s) :
    OnlyRegs R s₀ (flywheelLimit ok s) := h₀.pass (flywheelLimit_within (L := [.mast]) ok s (Within.refl s) (List.Subset.refl _))
      (by decide)

theorem gmHold_only {R : List RegSet} {s₀ : State} (s : State) (h₀ : OnlyRegs R s₀ s)
    (hR : [reg CTL_INT, reg EGR_INT, reg EGR_QINT, reg MST_INT] ⊆ R) : OnlyRegs R s₀ (gmHold s) := by
  unfold gmHold
  with_reducible repeat' first
    | assumption
    | apply OnlyRegs.ite
    | apply mastTo_only

theorem execGmChange_only {R : List RegSet} {s₀ : State} (who : Req) (s : State) (h₀ : OnlyRegs R s₀ s)
    (hR : [reg CTL_INT, reg EGR_INT, reg EGR_QINT, reg MST_INT] ⊆ R) : AnswersOnly R s₀ (execGmChange who s) := by
  unfold execGmChange
  with_reducible repeat' first
    | exact OnlyRegs.refl _
    | assumption
    | exact List.Subset.trans (by decide) hR
    | (intro _; try dsimp only)
    | apply OnlyRegs.ite
    | apply AnswersOnly.inFull
    | apply AnswersOnly.powered
    | apply AnswersOnly.next
    | apply AnswersOnly.done
    | apply serve_only
    | apply gmHold_only

theorem lockedToHoldover_only {R : List RegSet} {s₀ : State} (s : State) (h₀ : OnlyRegs R s₀ s)
    (hR : [reg CTL_INT, reg EGR_INT, reg EGR_QINT, reg MST_INT] ⊆ R) : OnlyRegs R s₀ (lockedToHoldover s) := by
  unfold lockedToHoldover
  with_reducible repeat' first
    | assumption
    | apply OnlyRegs.ite
    | apply mastTo_only

theorem execGmLost_only {R : List RegSet} {s₀ : State} (who : Req) (s : State) (h₀ : OnlyRegs R s₀ s)
    (hR : [reg CTL_INT, reg EGR_INT, reg EGR_QINT, reg MST_INT] ⊆ R) : AnswersOnly R s₀ (execGmLost who s) := by
  unfold execGmLost
  with_reducible repeat' first
    | exact OnlyRegs.refl _
    | assumption
    | exact List.Subset.trans (by decide) hR
    | (intro _; try dsimp only)
    | apply OnlyRegs.ite
    | apply AnswersOnly.inFull
    | apply AnswersOnly.powered
    | apply AnswersOnly.next
    | apply AnswersOnly.done
    | apply serve_only
    | apply lockedToHoldover_only
    | apply gmHold_only

theorem execGmReturn_only {R : List RegSet} {s₀ : State} (who : Req) (s : State) (h₀ : OnlyRegs R s₀ s)
    (hR : [reg CTL_INT, reg EGR_INT, reg EGR_QINT, reg MST_INT] ⊆ R) : AnswersOnly R s₀ (execGmReturn who s) := by
  unfold execGmReturn
  with_reducible repeat' first
    | exact OnlyRegs.refl _
    | assumption
    | exact List.Subset.trans (by decide) hR
    | (intro _; try dsimp only)
    | apply OnlyRegs.ite
    | apply AnswersOnly.inFull
    | apply AnswersOnly.powered
    | apply AnswersOnly.next
    | apply AnswersOnly.done
    | apply serve_only
    | apply mastTo_only

theorem guardAccept_only {R : List RegSet} {s₀ : State} (s : State) (h₀ : OnlyRegs R s₀ s)
    (hR : [reg CTL_INT, reg EGR_INT, reg EGR_QINT, reg MST_INT] ⊆ R) : OnlyRegs R s₀ (guardAccept s) := by
  unfold guardAccept
  with_reducible repeat' first
    | assumption
    | apply mastTo_only
    | apply OnlyRegs.foldlPoints
    | (apply OnlyRegs.lit; first | assumption | apply OnlyRegs.ite)

theorem execGuardAccept_only {R : List RegSet} {s₀ : State} (who : Req) (s : State) (h₀ : OnlyRegs R s₀ s)
    (hR : [reg CTL_INT, reg EGR_INT, reg EGR_QINT, reg MST_INT] ⊆ R) : AnswersOnly R s₀ (execGuardAccept who s) := by
  unfold execGuardAccept
  with_reducible repeat' first
    | exact OnlyRegs.refl _
    | assumption
    | exact List.Subset.trans (by decide) hR
    | (intro _; try dsimp only)
    | apply AnswersOnly.inFull
    | apply AnswersOnly.powered
    | apply AnswersOnly.next
    | apply AnswersOnly.done
    | apply guardAccept_only
    | apply serve_only

theorem execHoldSet_only {R : List RegSet} {s₀ : State} (who : Req) (s : State) (h₀ : OnlyRegs R s₀ s)
    (hR : [reg CTL_INT, reg EGR_INT, reg EGR_QINT, reg MST_INT] ⊆ R) : AnswersOnly R s₀ (execHoldSet who s) := by
  unfold execHoldSet
  with_reducible repeat' first
    | exact OnlyRegs.refl _
    | assumption
    | exact List.Subset.trans (by decide) hR
    | (intro _; try dsimp only)
    | apply AnswersOnly.inFull
    | apply AnswersOnly.powered
    | apply AnswersOnly.next
    | apply AnswersOnly.done
    | apply serve_only
    | apply lockedToHoldover_only

theorem incrWrite_only {R : List RegSet} {s₀ : State} (v : Word) (s : State) (h₀ : OnlyRegs R s₀ s)
    (hR : [reg CTL_INT, reg MST_INCR, reg MST_INT] ⊆ R) : OnlyRegs R s₀ (incrWrite v s) := by
  unfold incrWrite
  repeat' first
    | exact List.Subset.trans (by decide) hR
    | exact covReg (hR (by decide))
    | with_reducible apply wr_only
    | with_reducible apply raise_only
    | with_reducible apply OnlyRegs.foldlPoints
    | (with_reducible apply OnlyRegs.lit; first | with_reducible assumption | with_reducible apply OnlyRegs.ite)

theorem execIncrWrite_only {R : List RegSet} {s₀ : State} (who : Req) (v : Word) (s : State) (h₀ : OnlyRegs R s₀ s)
    (hR : [reg CTL_INT, reg MST_INCR, reg MST_INT] ⊆ R) : AnswersOnly R s₀ (execIncrWrite who v s) := by
  unfold execIncrWrite
  with_reducible repeat' first
    | exact OnlyRegs.refl _
    | assumption
    | exact List.Subset.trans (by decide) hR
    | (intro _; try dsimp only)
    | apply AnswersOnly.inFull
    | apply AnswersOnly.powered
    | apply AnswersOnly.next
    | apply AnswersOnly.done
    | apply incrWrite_only
    | apply serve_only

theorem irigFrame_only {R : List RegSet} {s₀ : State} (f : IrigFrame) (s : State) (h₀ : OnlyRegs R s₀ s)
    (hR : [reg MST_IRIG_SEC, reg MST_IRIG_STAT] ⊆ R) : OnlyRegs R s₀ (irigFrame f s) := by
  unfold irigFrame
  repeat' first
    | exact List.Subset.trans (by decide) hR
    | exact covReg (hR (by decide))
    | with_reducible apply wrF_only
    | with_reducible apply wr_only
    | with_reducible apply OnlyRegs.foldlPoints
    | (with_reducible apply OnlyRegs.lit; first | with_reducible assumption | with_reducible apply OnlyRegs.ite)

theorem execIrigFrame_only {R : List RegSet} {s₀ : State} (f : IrigFrame) (s : State) (h₀ : OnlyRegs R s₀ s)
    (hR : [reg MST_IRIG_SEC, reg MST_IRIG_STAT] ⊆ R) : AnswersOnly R s₀ (execIrigFrame f s) := by
  unfold execIrigFrame
  with_reducible repeat' first
    | assumption
    | apply OnlyRegs.ite
    | apply AnswersOnly.inFull
    | apply AnswersOnly.powered
    | apply AnswersOnly.next
    | apply AnswersOnly.done
    | apply powered_only
    | apply irigFrame_only

theorem kernelTick_only {R : List RegSet} {s₀ : State} (s : State) (h₀ : OnlyRegs R s₀ s)
    (hR : [reg CTL_TICK] ⊆ R) : OnlyRegs R s₀ (kernelTick s) := by
  unfold kernelTick
  repeat' first
    | exact covReg (hR (by decide))
    | with_reducible apply wr_only
    | with_reducible apply OnlyRegs.foldlPoints
    | (with_reducible apply OnlyRegs.lit; first | with_reducible assumption)

theorem execKernelTick_only {R : List RegSet} {s₀ : State} (s : State) (h₀ : OnlyRegs R s₀ s)
    (hR : [reg CTL_TICK] ⊆ R) : AnswersOnly R s₀ (execKernelTick s) := by
  unfold execKernelTick
  with_reducible repeat' first
    | assumption
    | apply AnswersOnly.inFull
    | apply AnswersOnly.powered
    | apply AnswersOnly.next
    | apply AnswersOnly.done
    | apply kernelTick_only
    | apply powered_only
    | apply OnlyRegs.foldlPoints
    | (apply OnlyRegs.lit; first | assumption | apply OnlyRegs.ite)

theorem leapApplied_only {R : List RegSet} {s₀ : State} (s : State) (h₀ : OnlyRegs R s₀ s)
    (hR : [reg CTL_INT, reg LDG_INT, reg MST_INT, reg MST_UTC_OFS, regFam LDG_DROP 8] ⊆ R) : OnlyRegs R s₀ (leapApplied s) := by
  unfold leapApplied
  repeat' first
    | exact List.Subset.trans (by decide) hR
    | exact covReg (hR (by decide))
    | (show (_ : Nat) < _; decide)
    | with_reducible apply logEvent_only
    | with_reducible apply wr_only
    | with_reducible apply raise_only
    | with_reducible apply OnlyRegs.foldlPoints
    | (with_reducible apply OnlyRegs.lit; first | with_reducible assumption)

theorem execLeapApplied_only {R : List RegSet} {s₀ : State} (s : State) (h₀ : OnlyRegs R s₀ s)
    (hR : [reg CTL_INT, reg LDG_INT, reg MST_INT, reg MST_UTC_OFS, regFam LDG_DROP 8] ⊆ R) : AnswersOnly R s₀ (execLeapApplied s)
      := by
  unfold execLeapApplied
  with_reducible repeat' first
    | assumption
    | apply OnlyRegs.ite
    | apply AnswersOnly.inFull
    | apply AnswersOnly.powered
    | apply AnswersOnly.next
    | apply AnswersOnly.done
    | apply leapApplied_only

theorem lockSet_only {R : List RegSet} {s₀ : State} (s : State) (h₀ : OnlyRegs R s₀ s)
    (hR : [reg CTL_INT, reg EGR_INT, reg EGR_QINT] ⊆ R) : OnlyRegs R s₀ (lockSet s) := by
  unfold lockSet
  with_reducible repeat' first
    | assumption
    | apply updateHoldExc_only
    | apply nodeEdge_only
    | apply OnlyRegs.foldlPoints
    | (apply OnlyRegs.lit; first | assumption | apply OnlyRegs.ite)

theorem execLockSet_only {R : List RegSet} {s₀ : State} (who : Req) (s : State) (h₀ : OnlyRegs R s₀ s)
    (hR : [reg CTL_INT, reg EGR_INT, reg EGR_QINT] ⊆ R) : AnswersOnly R s₀ (execLockSet who s) := by
  unfold execLockSet
  with_reducible repeat' first
    | exact OnlyRegs.refl _
    | assumption
    | exact List.Subset.trans (by decide) hR
    | (intro _; try dsimp only)
    | apply AnswersOnly.inFull
    | apply AnswersOnly.powered
    | apply AnswersOnly.next
    | apply AnswersOnly.done
    | apply lockSet_only
    | apply serve_only

theorem execNoIncrementTimeout_only {R : List RegSet} {s₀ : State} (s : State) (h₀ : OnlyRegs R s₀ s)
    (hR : [reg CTL_INT, reg EGR_INT, reg EGR_QINT, reg MST_INT] ⊆ R) : AnswersOnly R s₀ (execNoIncrementTimeout s) := by
  unfold execNoIncrementTimeout
  with_reducible repeat' first
    | assumption
    | apply OnlyRegs.ite
    | apply AnswersOnly.inFull
    | apply AnswersOnly.powered
    | apply AnswersOnly.next
    | apply AnswersOnly.done
    | apply powered_only
    | apply lockedToHoldover_only

theorem ppsEdge_only {R : List RegSet} {s₀ : State} (s : State) (h₀ : OnlyRegs R s₀ s)
    (hR : [reg MST_PPS_NS, reg MST_PPS_SEC] ⊆ R) : OnlyRegs R s₀ (ppsEdge s) := by
  unfold ppsEdge
  repeat' first
    | exact covReg (hR (by decide))
    | with_reducible apply wr_only
    | with_reducible apply OnlyRegs.foldlPoints
    | (with_reducible apply OnlyRegs.lit; first | with_reducible assumption | with_reducible apply OnlyRegs.ite | with_reducible apply wr_only)

theorem execPpsEdge_only {R : List RegSet} {s₀ : State} (s : State) (h₀ : OnlyRegs R s₀ s)
    (hR : [reg MST_PPS_NS, reg MST_PPS_SEC] ⊆ R) : AnswersOnly R s₀ (execPpsEdge s) := by
  unfold execPpsEdge
  with_reducible repeat' first
    | assumption
    | apply OnlyRegs.ite
    | apply AnswersOnly.inFull
    | apply AnswersOnly.powered
    | apply AnswersOnly.next
    | apply AnswersOnly.done
    | apply powered_only
    | apply ppsEdge_only

theorem execPpsMissing_only {R : List RegSet} {s₀ : State} (s : State) (h₀ : OnlyRegs R s₀ s)
    (hR : [reg CTL_INT, reg MST_INT] ⊆ R) : AnswersOnly R s₀ (execPpsMissing s) := by
  unfold execPpsMissing
  repeat' first
    | with_reducible assumption
    | exact List.Subset.trans (by decide) hR
    | with_reducible apply OnlyRegs.ite
    | with_reducible apply AnswersOnly.inFull
    | with_reducible apply AnswersOnly.powered
    | with_reducible apply AnswersOnly.next
    | with_reducible apply AnswersOnly.done
    | exact covReg (hR (by decide))
    | with_reducible apply powered_only
    | with_reducible apply raise_only

theorem execCycleReferenceLost_only {R : List RegSet} {s₀ : State} (why : RefLoss) (s : State) (h₀ : OnlyRegs R s₀ s)
    (hR : [reg CTL_INT, reg MST_INT] ⊆ R) : AnswersOnly R s₀ (execCycleReferenceLost why s) := by
  unfold execCycleReferenceLost
  with_reducible repeat' first
    | assumption
    | apply OnlyRegs.ite
    | apply AnswersOnly.inFull
    | apply AnswersOnly.powered
    | apply AnswersOnly.next
    | apply AnswersOnly.done
    | apply powered_only
    | apply cycLeave_only

theorem schDisarm_only {R : List RegSet} {s₀ : State} (e : Nat) (s : State) (h₀ : OnlyRegs R s₀ s) :
    OnlyRegs R s₀ (schDisarm e s) := h₀.pass (schDisarm_within (L := [.mast]) e s (Within.refl s) (List.Subset.refl _)) (by decide)

theorem execSchDisarm_only {R : List RegSet} {s₀ : State} (who : Req) (s : State) (h₀ : OnlyRegs R s₀ s)
    (hR : [reg MST_SCH_STAT] ⊆ R) : AnswersOnly R s₀ (execSchDisarm who s) := by
  unfold execSchDisarm
  repeat' first
    | with_reducible exact OnlyRegs.refl _
    | with_reducible assumption
    | exact List.Subset.trans (by decide) hR
    | (intro _; try dsimp only)
    | with_reducible apply AnswersOnly.inFull
    | with_reducible apply AnswersOnly.powered
    | with_reducible apply AnswersOnly.next
    | with_reducible apply AnswersOnly.done
    | exact covReg (hR (by decide))
    | with_reducible apply wrF_only
    | with_reducible apply serve_only
    | with_reducible apply schDisarm_only

theorem execSchDisarmAll_only {R : List RegSet} {s₀ : State} (who : Req) (s : State) (h₀ : OnlyRegs R s₀ s)
    (hR : [reg MST_SCH_STAT] ⊆ R) : AnswersOnly R s₀ (execSchDisarmAll who s) := by
  unfold execSchDisarmAll
  repeat' first
    | with_reducible exact OnlyRegs.refl _
    | with_reducible assumption
    | exact List.Subset.trans (by decide) hR
    | (intro _; try dsimp only)
    | with_reducible apply AnswersOnly.inFull
    | with_reducible apply AnswersOnly.powered
    | with_reducible apply AnswersOnly.next
    | with_reducible apply AnswersOnly.done
    | exact covReg (hR (by decide))
    | with_reducible apply wrF_only
    | with_reducible apply serve_only
    | with_reducible apply schDisarm_only
    | with_reducible apply OnlyRegs.foldlPoints
    | with_reducible apply OnlyRegs.forUpTo

theorem execSchLoad_only {R : List RegSet} {s₀ : State} (who : Req) (s : State) (h₀ : OnlyRegs R s₀ s) (hR : [reg MST_SCH_STAT,
    regRun (MST_SCH_W 0) 6] ⊆ R) :
    AnswersOnly R s₀ (execSchLoad who s) :=
  AnswersOnly.done (serve_only _ _ _ _ _ (fun u => wrF_only _ _ _ _ _ (covReg (hR (by decide)))
    (wrWords_only _ _ _ 6 (OnlyRegs.refl u) (by simp [schWords]) (hR (by decide))) (List.nil_subset _)) h₀ (List.nil_subset _))

theorem execSchStore_only {R : List RegSet} {s₀ : State} (who : Req) (s : State) (h₀ : OnlyRegs R s₀ s)
    (hR : [reg CTL_INT, reg MST_INT, reg MST_SCH_STAT] ⊆ R) : AnswersOnly R s₀ (execSchStore who s) := by
  unfold execSchStore
  with_reducible repeat' first
    | exact OnlyRegs.refl _
    | assumption
    | exact List.Subset.trans (by decide) hR
    | (intro _; try dsimp only)
    | apply AnswersOnly.inFull
    | apply AnswersOnly.powered
    | apply AnswersOnly.next
    | apply AnswersOnly.done
    | apply serve_only
    | apply schStore_only

theorem execScheduleFire_only {R : List RegSet} {s₀ : State} (e : Fin 512) (s : State) (h₀ : OnlyRegs R s₀ s)
    (hR : [reg CTL_INT, reg MST_INT] ⊆ R) : AnswersOnly R s₀ (execScheduleFire e s) := by
  unfold execScheduleFire
  with_reducible repeat' first
    | assumption
    | apply OnlyRegs.ite
    | apply AnswersOnly.inFull
    | apply AnswersOnly.powered
    | apply AnswersOnly.next
    | apply AnswersOnly.done
    | apply powered_only
    | apply schOccur_only

theorem timeBlockFreeze_only {R : List RegSet} {s₀ : State} (who : Req) (k : Nat) (s : State) (h₀ : OnlyRegs R s₀ s) :
    OnlyRegs R s₀ (timeBlockFreeze who k s) := h₀.pass (timeBlockFreeze_within (L := [.mast, .out]) who k s (Within.refl s)
      (List.Subset.refl _)) (by decide)

theorem timeBlockRelease_only {R : List RegSet} {s₀ : State} (who : Req) (s : State) (h₀ : OnlyRegs R s₀ s) :
    OnlyRegs R s₀ (timeBlockRelease who s) := h₀.pass (timeBlockRelease_within (L := [.mast, .out]) who s (Within.refl s)
      (List.Subset.refl _)) (by decide)

theorem tqWrite_only {R : List RegSet} {s₀ : State} (v : Word) (s : State) (h₀ : OnlyRegs R s₀ s) :
    OnlyRegs R s₀ (tqWrite v s) := h₀.pass (tqWrite_within (L := [.mast]) v s (Within.refl s) (List.Subset.refl _)) (by decide)

theorem homeChange_only {R : List RegSet} {s₀ : State} (was : Option IslSlot) (now : Option IslSlot) (s : State) (h₀ : OnlyRegs R
    s₀ s)
    (hR : [reg CTL_INT, reg MST_INT] ⊆ R) : OnlyRegs R s₀ (homeChange was now s) := by
  unfold homeChange
  with_reducible repeat' first
    | assumption
    | apply cycLeave_only
    | apply OnlyRegs.foldlPoints
    | (apply OnlyRegs.lit; first | apply OnlyRegs.ite | apply cycLeave_only)

theorem topCount_only {R : List RegSet} {s₀ : State} (k : Nat) (n : Nat) (s : State) (h₀ : OnlyRegs R s₀ s) :
    OnlyRegs R s₀ (topCount k n s) := h₀.pass (topCount_within (L := [.live]) k n s (Within.refl s) (List.Subset.refl _)) (by decide)

theorem latchSplit_only {R : List RegSet} {s₀ : State} (stream : Nat) (inst : Nat) (tag : Nat) (s : State) (p : Nat × Bool) (h₀ :
    OnlyRegs R s₀ s)
    (hR : [regRun (NST_SPLIT_W 0) 4] ⊆ R) : OnlyRegs R s₀ (latchSplit stream inst tag s p) := by
  unfold latchSplit
  repeat' first
    | with_reducible assumption
    | refine wrWords_only _ _ _ 4 ?_ (by simp) (hR (by decide))
    | with_reducible apply topCount_only

theorem latestPut_only {R : List RegSet} {s₀ : State} (k : Nat) (inst : Nat) (v : Slot) (s : State) (h₀ : OnlyRegs R s₀ s) :
    OnlyRegs R s₀ (latestPut k inst v s) := h₀.pass (latestPut_within (L := [.nest]) k inst v s (Within.refl s) (List.Subset.refl
      _)) (by decide)

theorem nestClose_only {R : List RegSet} {s₀ : State} (inst : Nat) (rev : Nat) (s : State) (h₀ : OnlyRegs R s₀ s)
    (hR : [reg CTL_INT, reg EGR_ALSEQ, reg EGR_INT, reg EGR_QINT, reg NST_OSC_INT] ⊆ R) : OnlyRegs R s₀ (nestClose inst rev s) := by
  unfold nestClose
  with_reducible repeat' first
    | assumption
    | apply OnlyRegs.ite
    | apply oscClose_only

theorem topSet_only {R : List RegSet} {s₀ : State} (i : TopInst) (s : State) (h₀ : OnlyRegs R s₀ s)
    (hR : [reg NST_ISL_SUSP, reg NST_ISL_THR] ⊆ R) : OnlyRegs R s₀ (topSet i s) := by
  unfold topSet
  repeat' first
    | with_reducible assumption
    | exact covReg (hR (by decide))
    | with_reducible apply wr_only

theorem topClasses_only {R : List RegSet} {s₀ : State} (newest : Bool) (x : TopInst) (s : State) (h₀ : OnlyRegs R s₀ s)
    (hR : [reg CTL_INT, reg EGR_ALSEQ, reg EGR_INT, reg EGR_QINT] ⊆ R) : OnlyRegs R s₀ (topClasses newest x s) := by
  unfold topClasses
  with_reducible repeat' first
    | assumption
    | apply OnlyRegs.ite
    | apply setNest_only
    | apply classOutput_only

theorem topEvents_only {R : List RegSet} {s₀ : State} (e : TopEv) (s : State) (h₀ : OnlyRegs R s₀ s)
    (hR : [reg CTL_INT, reg LDG_INT, reg NST_TOP_INT, regFam LDG_DROP 8] ⊆ R) : OnlyRegs R s₀ (topEvents e s) := by
  unfold topEvents
  repeat' first
    | with_reducible assumption
    | exact List.Subset.trans (by decide) hR
    | with_reducible apply OnlyRegs.ite
    | exact covReg (hR (by decide))
    | (show (_ : Nat) < _; decide)
    | with_reducible apply logEvent_only
    | with_reducible apply raiseIf_only
    | with_reducible apply topCount_only
    | with_reducible apply raise_only

theorem topRerun_only {R : List RegSet} {s₀ : State} (inst : Nat) (tag : Nat) (s : State) (h₀ : OnlyRegs R s₀ s)
    (hR : [reg CTL_INT, reg EGR_ALSEQ, reg EGR_INT, reg EGR_QINT, reg LDG_INT, reg MST_INT, reg NST_ISL_SUSP, reg NST_ISL_THR, reg
      NST_TOP_INT, regFam LDG_DROP 8] ⊆ R) : OnlyRegs R s₀ (topRerun inst tag s) := by
  unfold topRerun
  with_reducible repeat' first
    | assumption
    | exact List.Subset.trans (by decide) hR
    | apply topSet_only
    | apply topCount_only
    | apply homeChange_only
    | apply setNest_only
    | apply topClasses_only
    | apply topEvents_only
    | apply OnlyRegs.foldlPoints
    | split

theorem nestRevision_only {R : List RegSet} {s₀ : State} (inst : Nat) (rev : Nat) (changed : List Nat) (s : State) (h₀ : OnlyRegs
    R s₀ s)
    (hR : [reg CTL_INT, reg EGR_ALSEQ, reg EGR_INT, reg EGR_QINT, reg LDG_INT, reg MST_INT, reg NST_ISL_SUSP, reg NST_ISL_THR, reg
      NST_OSC_INT, reg NST_THR_FAST, reg NST_TOP_INT, regFam LDG_DROP 8] ⊆ R) : OnlyRegs R s₀ (nestRevision inst rev changed s) :=
      by
  unfold nestRevision
  with_reducible repeat' first
    | assumption
    | exact List.Subset.trans (by decide) hR
    | apply OnlyRegs.ite
    | apply topRerun_only
    | apply oscRerun_only

theorem topSeal_only {R : List RegSet} {s₀ : State} (inst : Nat) (s : State) (h₀ : OnlyRegs R s₀ s)
    (hR : [reg CTL_INT, reg EGR_ALSEQ, reg EGR_INT, reg EGR_QINT, reg LDG_INT, reg MST_INT, reg NST_ISL_SUSP, reg NST_ISL_THR, reg
      NST_TOP_INT, regFam LDG_DROP 8] ⊆ R) : OnlyRegs R s₀ (topSeal inst s) := by
  unfold topSeal
  with_reducible repeat' first
    | assumption
    | exact List.Subset.trans (by decide) hR
    | apply OnlyRegs.ite
    | apply topCount_only
    | apply homeChange_only
    | apply setNest_only
    | apply topClasses_only
    | apply topEvents_only

theorem nestSeal_only {R : List RegSet} {s₀ : State} (inst : Nat) (s : State) (h₀ : OnlyRegs R s₀ s)
    (hR : [reg CTL_INT, reg EGR_ALSEQ, reg EGR_INT, reg EGR_QINT, reg LDG_INT, reg MST_INT, reg NST_ISL_SUSP, reg NST_ISL_THR, reg
      NST_OSC_INT, reg NST_THR_FAST, reg NST_TOP_INT, regFam LDG_DROP 8] ⊆ R) : OnlyRegs R s₀ (nestSeal inst s) := by
  unfold nestSeal
  with_reducible repeat' first
    | assumption
    | exact List.Subset.trans (by decide) hR
    | apply OnlyRegs.ite
    | apply oscSeal_only
    | apply topSeal_only

theorem topStart_only {R : List RegSet} {s₀ : State} (s : State) (h₀ : OnlyRegs R s₀ s) :
    OnlyRegs R s₀ (topStart s) := h₀.pass (topStart_within (L := [.nest]) s (Within.refl s) (List.Subset.refl _)) (by decide)

theorem nestStart_only {R : List RegSet} {s₀ : State} (s : State) (h₀ : OnlyRegs R s₀ s)
    (hR : [reg CTL_INT, reg NST_OSC_INT, reg NST_SEED_STAT] ⊆ R) : OnlyRegs R s₀ (nestStart s) := by
  unfold nestStart
  with_reducible repeat' first
    | assumption
    | apply oscStart_only
    | apply topStart_only

theorem topError_only {R : List RegSet} {s₀ : State} (s : State) (h₀ : OnlyRegs R s₀ s)
    (hR : [reg CTL_INT, reg NST_TOP_INT] ⊆ R) : OnlyRegs R s₀ (topError s) := by
  unfold topError
  repeat' first
    | with_reducible assumption
    | exact List.Subset.trans (by decide) hR
    | exact covReg (hR (by decide))
    | with_reducible apply setNest_only
    | with_reducible apply raise_only

theorem topPlace_only {R : List RegSet} {s₀ : State} (stream : Nat) (inst : Nat) (tag : Nat) (v : Slot) (s : State) (h₀ : OnlyRegs
    R s₀ s)
    (hR : [reg CTL_INT, reg EGR_ALSEQ, reg EGR_INT, reg EGR_QINT, reg NST_TOP_INT, regRun (NST_SPLIT_W 0) 4] ⊆ R) : OnlyRegs R s₀
      (topPlace stream inst tag v s) := by
  unfold topPlace
  repeat' first
    | with_reducible exact OnlyRegs.refl _
    | with_reducible assumption
    | exact List.Subset.trans (by decide) hR
    | (intro _; try dsimp only)
    | with_reducible apply OnlyRegs.ite
    | exact covReg (hR (by decide))
    | with_reducible apply topCount_only
    | with_reducible apply setNest_only
    | with_reducible apply latestPut_only
    | with_reducible apply raise_only
    | with_reducible apply classOutput_only
    | with_reducible apply latchSplit_only
    | with_reducible apply OnlyRegs.foldlPoints
    | with_reducible apply OnlyRegs.foldl

theorem bootSyncStore_only {R : List RegSet} {s₀ : State} (s : State) (h₀ : OnlyRegs R s₀ s) :
    OnlyRegs R s₀ (bootSyncStore s) := h₀.pass (bootSyncStore_within (L := [.mast, .scales]) s (Within.refl s) (List.Subset.refl
      _)) (by decide)

theorem calApply_only {R : List RegSet} {s₀ : State} (mask : Nat) (s : State) (h₀ : OnlyRegs R s₀ s)
    (hR : [reg CTL_INT, reg LDG_INT, reg SCL_CAL_PEND, reg SCL_CAL_STAT, reg SCL_INT, regFam LDG_DROP 8, regFam SCL_CH_FDLY 24] ⊆
      R) : OnlyRegs R s₀ (calApply mask s) := by
  unfold calApply
  repeat' first
    | with_reducible exact OnlyRegs.refl _
    | with_reducible assumption
    | exact List.Subset.trans (by decide) hR
    | (intro _; try dsimp only)
    | with_reducible apply OnlyRegs.ite
    | exact covReg (hR (by decide))
    | with_reducible apply wrF_only
    | with_reducible apply setChan_only
    | with_reducible apply calBusy_only
    | with_reducible apply raise_only
    | with_reducible apply applyUser_only
    | with_reducible apply OnlyRegs.foldlPoints
    | with_reducible apply OnlyRegs.forUpTo

theorem channelDead_only {R : List RegSet} {s₀ : State} (ch : Nat) (s : State) (b_ch : ch < 24) (h₀ : OnlyRegs R s₀ s)
    (hR : [reg CTL_INT, reg SCL_INT, regFam SCL_CH_STAT 24] ⊆ R) : OnlyRegs R s₀ (channelDead ch s) := by
  unfold channelDead
  repeat' first
    | with_reducible assumption
    | exact List.Subset.trans (by decide) hR
    | with_reducible apply OnlyRegs.ite
    | exact covReg (hR (by decide))
    | refine covFam (n := 24) (hR (by decide)) (fun i => by simp only [SCL_CH_STAT]) ?_
    | with_reducible apply setStat_only
    | with_reducible apply raise_only

theorem execCalApply_only {R : List RegSet} {s₀ : State} (who : Req) (mask : BitVec 24) (s : State) (h₀ : OnlyRegs R s₀ s)
    (hR : [reg CTL_INT, reg LDG_INT, reg SCL_CAL_PEND, reg SCL_CAL_STAT, reg SCL_INT, regFam LDG_DROP 8, regFam SCL_CH_FDLY 24] ⊆
      R) : AnswersOnly R s₀ (execCalApply who mask s) := by
  unfold execCalApply
  with_reducible repeat' first
    | exact OnlyRegs.refl _
    | assumption
    | exact List.Subset.trans (by decide) hR
    | (intro _; try dsimp only)
    | apply OnlyRegs.ite
    | apply AnswersOnly.inFull
    | apply AnswersOnly.powered
    | apply AnswersOnly.next
    | apply AnswersOnly.done
    | apply calApply_only
    | apply holdWrite_only
    | apply serve_only

theorem execChannelDead_only {R : List RegSet} {s₀ : State} (ch : Fin 24) (s : State) (h₀ : OnlyRegs R s₀ s)
    (hR : [reg CTL_INT, reg SCL_INT, regFam SCL_CH_STAT 24] ⊆ R) : AnswersOnly R s₀ (execChannelDead ch s) := by
  unfold execChannelDead
  with_reducible repeat' first
    | assumption
    | apply AnswersOnly.inFull
    | apply AnswersOnly.powered
    | apply AnswersOnly.next
    | apply AnswersOnly.done
    | exact Fin.isLt _
    | apply channelDead_only

theorem execDeadClear_only {R : List RegSet} {s₀ : State} (ch : Fin 24) (s : State) (h₀ : OnlyRegs R s₀ s)
    (hR : [reg SCL_STATUS, regFam SCL_CH_STAT 24] ⊆ R) : AnswersOnly R s₀ (execDeadClear ch s) := by
  unfold execDeadClear
  repeat' first
    | with_reducible assumption
    | exact List.Subset.trans (by decide) hR
    | with_reducible apply OnlyRegs.ite
    | with_reducible apply AnswersOnly.inFull
    | with_reducible apply AnswersOnly.powered
    | with_reducible apply AnswersOnly.next
    | with_reducible apply AnswersOnly.done
    | refine covFam (n := 24) (hR (by decide)) (fun i => by simp only [SCL_CH_STAT]) ?_
    | exact Fin.isLt _
    | with_reducible apply setStat_only
    | with_reducible apply startSettling_only

theorem execDecimatorOutput_only {R : List RegSet} {s₀ : State} (ch : Fin 24) (bits : List Bool) (s : State) (h₀ : OnlyRegs R s₀ s)
    (hR : [reg CTL_INT, reg LDG_INT, reg LDG_RD_STAT, reg SCL_CAL_PEND, reg SCL_CAL_STAT, reg SCL_EN_INT, reg SCL_EN_SAVE, reg
      SCL_EN_SAVE_STAT, reg SCL_EN_STATUS, reg SCL_INT, regFam LDG_DROP 8, regFam PT_P 8, regFam PT_Q 8, regFam PT_STAT 8, regFam
      SCL_CH_FDLY 24, regFam SCL_CH_RMS 24, regFam SCL_CH_STAT 24] ⊆ R) : AnswersOnly R s₀ (execDecimatorOutput ch bits s) := by
  unfold execDecimatorOutput
  with_reducible repeat' first
    | assumption
    | apply OnlyRegs.ite
    | apply AnswersOnly.inFull
    | apply AnswersOnly.powered
    | apply AnswersOnly.next
    | apply AnswersOnly.done
    | exact Fin.isLt _
    | apply powered_only
    | apply channelOutput_only

theorem execEstimateComplete_only {R : List RegSet} {s₀ : State} (ls : Fin 64) (inst : Nat) (s : State) (h₀ : OnlyRegs R s₀ s)
    (hR : [reg CTL_INT, reg LDG_INT, reg LDG_RD_STAT, reg SCL_EN_INT, reg SCL_EN_SAVE, reg SCL_EN_SAVE_STAT, reg SCL_EN_STATUS,
      reg SCL_INT, regFam LDG_DROP 8, regFam PT_P 8, regFam PT_Q 8, regFam PT_STAT 8] ⊆ R) : AnswersOnly R s₀ (execEstimateComplete
      ls inst s) := by
  unfold execEstimateComplete
  with_reducible repeat' first
    | assumption
    | apply AnswersOnly.inFull
    | apply AnswersOnly.powered
    | apply AnswersOnly.next
    | apply AnswersOnly.done
    | apply powered_only
    | apply estimate_only

theorem fcalLoad_only {R : List RegSet} {s₀ : State} (ch : Nat) (s : State) (h₀ : OnlyRegs R s₀ s)
    (hR : [reg SCL_FCAL_IDX, regFam SCL_FCAL_W 5] ⊆ R) : OnlyRegs R s₀ (fcalLoad ch s) := by
  unfold fcalLoad
  repeat' first
    | with_reducible exact OnlyRegs.refl _
    | with_reducible assumption
    | (intro _; try dsimp only)
    | exact covReg (hR (by decide))
    | refine covFam (n := 5) (hR (by decide)) (fun i => by simp only [SCL_FCAL_W]) ?_
    | with_reducible apply wr_only
    | with_reducible apply OnlyRegs.foldlPoints
    | with_reducible apply OnlyRegs.forUpTo

theorem execFcalLoad_only {R : List RegSet} {s₀ : State} (who : Req) (ch : BitVec 5) (s : State) (h₀ : OnlyRegs R s₀ s)
    (hR : [reg SCL_FCAL_IDX, regFam SCL_FCAL_W 5] ⊆ R) : AnswersOnly R s₀ (execFcalLoad who ch s) := by
  unfold execFcalLoad
  with_reducible repeat' first
    | exact OnlyRegs.refl _
    | assumption
    | exact List.Subset.trans (by decide) hR
    | (intro _; try dsimp only)
    | apply AnswersOnly.inFull
    | apply AnswersOnly.powered
    | apply AnswersOnly.next
    | apply AnswersOnly.done
    | apply serve_only
    | apply fcalLoad_only

theorem putPq_only {R : List RegSet} {s₀ : State} (v : Word × Word) (s : State) (h₀ : OnlyRegs R s₀ s)
    (hR : [reg SCL_PQ_MAG, reg SCL_PQ_PH] ⊆ R) : OnlyRegs R s₀ (putPq v s) := by
  unfold putPq
  repeat' first
    | with_reducible assumption
    | exact covReg (hR (by decide))
    | with_reducible apply wr_only

theorem execPqLoad_only {R : List RegSet} {s₀ : State} (who : Req) (s : State) (h₀ : OnlyRegs R s₀ s)
    (hR : [reg SCL_PQ_MAG, reg SCL_PQ_PH] ⊆ R) : AnswersOnly R s₀ (execPqLoad who s) := by
  unfold execPqLoad
  with_reducible repeat' first
    | exact OnlyRegs.refl _
    | assumption
    | exact List.Subset.trans (by decide) hR
    | (intro _; try dsimp only)
    | apply AnswersOnly.inFull
    | apply AnswersOnly.powered
    | apply AnswersOnly.next
    | apply AnswersOnly.done
    | apply putPq_only
    | apply serve_only

theorem pqStored_only {R : List RegSet} {s₀ : State} (s : State) (h₀ : OnlyRegs R s₀ s)
    (hR : [reg CTL_INT, reg LDG_INT, reg SCL_INT, reg SCL_PQ_STAT, regFam LDG_DROP 8] ⊆ R) : OnlyRegs R s₀ (pqStored s) := by
  unfold pqStored
  repeat' first
    | with_reducible assumption
    | exact List.Subset.trans (by decide) hR
    | exact covReg (hR (by decide))
    | (show (_ : Nat) < _; decide)
    | with_reducible apply logEvent_only
    | with_reducible apply wrF_only
    | with_reducible apply raise_only

theorem pqRefuse_only {R : List RegSet} {s₀ : State} (s : State) (h₀ : OnlyRegs R s₀ s)
    (hR : [reg CTL_INT, reg SCL_INT, reg SCL_PQ_STAT] ⊆ R) : OnlyRegs R s₀ (pqRefuse s) := by
  unfold pqRefuse
  repeat' first
    | with_reducible assumption
    | exact List.Subset.trans (by decide) hR
    | exact covReg (hR (by decide))
    | with_reducible apply wrF_only
    | with_reducible apply raise_only

theorem pqStore_only {R : List RegSet} {s₀ : State} (s : State) (h₀ : OnlyRegs R s₀ s)
    (hR : [reg CTL_INT, reg LDG_INT, reg SCL_INT, reg SCL_PQ_STAT, regFam LDG_DROP 8] ⊆ R) : OnlyRegs R s₀ (pqStore s) := by
  unfold pqStore
  with_reducible repeat' first
    | assumption
    | exact List.Subset.trans (by decide) hR
    | apply OnlyRegs.ite
    | apply pqStored_only
    | apply pqRefuse_only
    | apply setScales_only

theorem execPqStore_only {R : List RegSet} {s₀ : State} (who : Req) (s : State) (h₀ : OnlyRegs R s₀ s)
    (hR : [reg CTL_INT, reg LDG_INT, reg SCL_INT, reg SCL_PQ_STAT, regFam LDG_DROP 8] ⊆ R) : AnswersOnly R s₀ (execPqStore who s)
      := by
  unfold execPqStore
  with_reducible repeat' first
    | exact OnlyRegs.refl _
    | assumption
    | exact List.Subset.trans (by decide) hR
    | (intro _; try dsimp only)
    | apply AnswersOnly.inFull
    | apply AnswersOnly.powered
    | apply AnswersOnly.next
    | apply AnswersOnly.done
    | apply serve_only
    | apply pqStore_only

theorem settlingEnd_only {R : List RegSet} {s₀ : State} (ch : Nat) (s : State) (b_ch : ch < 24) (h₀ : OnlyRegs R s₀ s)
    (hR : [reg CTL_INT, reg SCL_INT, reg SCL_STATUS, regFam SCL_CH_STAT 24] ⊆ R) : OnlyRegs R s₀ (settlingEnd ch s) := by
  unfold settlingEnd
  repeat' first
    | with_reducible assumption
    | exact List.Subset.trans (by decide) hR
    | with_reducible apply OnlyRegs.ite
    | exact covReg (hR (by decide))
    | refine covFam (n := 24) (hR (by decide)) (fun i => by simp only [SCL_CH_STAT]) ?_
    | with_reducible apply setStat_only
    | with_reducible apply settleStatus_only
    | with_reducible apply raise_only

theorem execSettlingEnd_only {R : List RegSet} {s₀ : State} (ch : Fin 24) (s : State) (h₀ : OnlyRegs R s₀ s)
    (hR : [reg CTL_INT, reg SCL_INT, reg SCL_STATUS, regFam SCL_CH_STAT 24] ⊆ R) : AnswersOnly R s₀ (execSettlingEnd ch s) := by
  unfold execSettlingEnd
  with_reducible repeat' first
    | assumption
    | apply AnswersOnly.inFull
    | apply AnswersOnly.powered
    | apply AnswersOnly.next
    | apply AnswersOnly.done
    | exact Fin.isLt _
    | apply settlingEnd_only

theorem svGainLoad_only {R : List RegSet} {s₀ : State} (s : State) (h₀ : OnlyRegs R s₀ s)
    (hR : [reg SCL_PQ_MAG, reg SCL_PQ_PH] ⊆ R) : OnlyRegs R s₀ (svGainLoad s) := by
  unfold svGainLoad
  with_reducible repeat' first
    | assumption
    | apply OnlyRegs.ite
    | apply putPq_only

theorem execSvGainLoad_only {R : List RegSet} {s₀ : State} (who : Req) (s : State) (h₀ : OnlyRegs R s₀ s)
    (hR : [reg SCL_PQ_MAG, reg SCL_PQ_PH] ⊆ R) : AnswersOnly R s₀ (execSvGainLoad who s) := by
  unfold execSvGainLoad
  with_reducible repeat' first
    | exact OnlyRegs.refl _
    | assumption
    | exact List.Subset.trans (by decide) hR
    | (intro _; try dsimp only)
    | apply AnswersOnly.inFull
    | apply AnswersOnly.powered
    | apply AnswersOnly.next
    | apply AnswersOnly.done
    | apply svGainLoad_only
    | apply serve_only

theorem svGainStore_only {R : List RegSet} {s₀ : State} (s : State) (h₀ : OnlyRegs R s₀ s)
    (hR : [reg CTL_INT, reg LDG_INT, reg SCL_INT, reg SCL_PQ_STAT, regFam LDG_DROP 8] ⊆ R) : OnlyRegs R s₀ (svGainStore s) := by
  unfold svGainStore
  with_reducible repeat' first
    | assumption
    | exact List.Subset.trans (by decide) hR
    | apply pqStored_only
    | apply pqRefuse_only
    | apply setScales_only
    | apply ucalSvPoints_only
    | apply OnlyRegs.foldlPoints
    | split

theorem execSvGainStore_only {R : List RegSet} {s₀ : State} (who : Req) (s : State) (h₀ : OnlyRegs R s₀ s)
    (hR : [reg CTL_INT, reg LDG_INT, reg SCL_INT, reg SCL_PQ_STAT, regFam LDG_DROP 8] ⊆ R) : AnswersOnly R s₀ (execSvGainStore who
      s) := by
  unfold execSvGainStore
  with_reducible repeat' first
    | exact OnlyRegs.refl _
    | assumption
    | exact List.Subset.trans (by decide) hR
    | (intro _; try dsimp only)
    | apply AnswersOnly.inFull
    | apply AnswersOnly.powered
    | apply AnswersOnly.next
    | apply AnswersOnly.done
    | apply serve_only
    | apply svGainStore_only

theorem execSyncApply_only {R : List RegSet} {s₀ : State} (s : State) (h₀ : OnlyRegs R s₀ s)
    (hR : [reg CTL_INT, reg SCL_INT, reg SCL_STATUS, reg SCL_SYNC_NS, reg SCL_SYNC_SEC, regFam SCL_CH_STAT 24] ⊆ R) : AnswersOnly
      R s₀ (execSyncApply s) := by
  unfold execSyncApply
  with_reducible repeat' first
    | assumption
    | apply AnswersOnly.inFull
    | apply AnswersOnly.powered
    | apply AnswersOnly.next
    | apply AnswersOnly.done
    | apply powered_only
    | apply syncApply_only

theorem bellWrite_only {R : List RegSet} {s₀ : State} (k : Nat) (v : Nat) (s : State) (b_k : k < 8) (h₀ : OnlyRegs R s₀ s)
    (hR : [reg CTL_INT, reg MKT_INT, regFam MKT_CLS_BELL 8, regFam MKT_CLS_STAT 8] ⊆ R) : OnlyRegs R s₀ (bellWrite k v s) := by
  unfold bellWrite
  repeat' first
    | with_reducible assumption
    | exact List.Subset.trans (by decide) hR
    | with_reducible apply OnlyRegs.ite
    | exact covReg (hR (by decide))
    | refine covFam (n := 8) (hR (by decide)) (fun i => by simp only [MKT_CLS_BELL, MKT_CLS_STAT]) ?_
    | with_reducible apply wrF_only
    | with_reducible apply wr_only
    | with_reducible apply raise_only

theorem clsLoad_only {R : List RegSet} {s₀ : State} (s : State) (h₀ : OnlyRegs R s₀ s)
    (hR : [reg MKT_CLS_COUNT, regFam MKT_CLS_HIST 48] ⊆ R) : OnlyRegs R s₀ (clsLoad s) := by
  unfold clsLoad
  repeat' first
    | with_reducible exact OnlyRegs.refl _
    | with_reducible assumption
    | (intro _; try dsimp only)
    | exact covReg (hR (by decide))
    | refine covFam (n := 48) (hR (by decide)) (fun i => by simp only [MKT_CLS_HIST]) ?_
    | with_reducible apply wr_only
    | with_reducible apply OnlyRegs.foldlPoints
    | with_reducible apply OnlyRegs.forUpTo

theorem bellLearn_only {R : List RegSet} {s₀ : State} (k : Nat) (s0 : State) (b_k : k < 8) (h₀ : OnlyRegs R s₀ s0)
    (hR : [reg CTL_INT, reg MKT_CLS_COUNT, reg MKT_CLS_IDX, reg MKT_INT, regFam MKT_CLS_BELL 8, regFam MKT_CLS_HIST 48, regFam
      MKT_CLS_STAT 8] ⊆ R) : OnlyRegs R s₀ (bellLearn k s0) := by
  unfold bellLearn
  repeat' first
    | with_reducible assumption
    | exact List.Subset.trans (by decide) hR
    | exact covReg (hR (by decide))
    | with_reducible apply bellWrite_only
    | with_reducible apply wr_only
    | with_reducible apply clsLoad_only
    | with_reducible apply OnlyRegs.foldlPoints
    | (with_reducible apply OnlyRegs.lit; first | with_reducible assumption | with_reducible apply OnlyRegs.ite)

theorem twRefresh_only {R : List RegSet} {s₀ : State} (inst : Nat) (s : State) (h₀ : OnlyRegs R s₀ s)
    (hR : [reg MKT_TW_STAT] ⊆ R) : OnlyRegs R s₀ (twRefresh inst s) := by
  unfold twRefresh
  try dsimp only
  repeat' first
    | with_reducible assumption
    | exact List.Subset.trans (by decide) hR
    | exact covReg (hR (by decide))
    | with_reducible apply wrF_only
    | with_reducible apply setWindow_only
    | with_reducible apply OnlyRegs.foldlPoints
    | split

theorem setRuleTab_only {R : List RegSet} {s₀ : State} (inst : Nat) (r : Nat) (f : RuleTab → RuleTab) (s : State) (h₀ : OnlyRegs R
    s₀ s) :
    OnlyRegs R s₀ (setRuleTab inst r f s) := h₀.pass (setRuleTab_within (L := [.mkt]) inst r f s (Within.refl s) (List.Subset.refl
      _)) (by decide)

theorem evaluate_only {R : List RegSet} {s₀ : State} (cnt : Nat) (r : Nat) (inst : Nat) (tag : Nat) (early : Bool) (s : State) (h₀
    : OnlyRegs R s₀ s)
    (hR : [reg CTL_INT, reg EGR_ALSEQ, reg EGR_INT, reg EGR_QINT] ⊆ R) : OnlyRegs R s₀ (evaluate cnt r inst tag early s) := by
  unfold evaluate
  with_reducible repeat' first
    | assumption
    | apply setRuleTab_only
    | apply mktCount_only
    | apply evalRule_only

theorem feedRule_only {R : List RegSet} {s₀ : State} (inst : Nat) (tag : Nat) (s : State) (p : Nat × RuleCfg) (h₀ : OnlyRegs R s₀ s)
    (hR : [reg CTL_INT, reg EGR_ALSEQ, reg EGR_INT, reg EGR_QINT] ⊆ R) : OnlyRegs R s₀ (feedRule inst tag s p) := by
  unfold feedRule
  with_reducible repeat' first
    | assumption
    | apply setRuleTab_only
    | apply evaluate_only
    | apply OnlyRegs.foldlPoints
    | split

theorem placeIn_only {R : List RegSet} {s₀ : State} (n : Nat) (inst : Nat) (v : Slot) (s : State) (h₀ : OnlyRegs R s₀ s)
    (hR : [reg CTL_INT, reg EGR_ALSEQ, reg EGR_INT, reg EGR_QINT, reg NST_TOP_INT, regRun (NST_SPLIT_W 0) 4] ⊆ R) : OnlyRegs R s₀
      (placeIn n inst v s) := by
  unfold placeIn
  with_reducible repeat' first
    | exact OnlyRegs.refl _
    | assumption
    | exact List.Subset.trans (by decide) hR
    | (intro _; try dsimp only)
    | apply feedRule_only
    | apply topPlace_only
    | apply setTab_only
    | apply mktCount_only
    | apply OnlyRegs.foldlPoints
    | apply OnlyRegs.foldl
    | split

theorem placeFlight_only {R : List RegSet} {s₀ : State} (inst : Nat) (s : State) (h₀ : OnlyRegs R s₀ s)
    (hR : [reg CTL_INT, reg EGR_ALSEQ, reg EGR_INT, reg EGR_QINT, reg NST_TOP_INT, regRun (NST_SPLIT_W 0) 4] ⊆ R) : OnlyRegs R s₀
      (placeFlight inst s) := by
  unfold placeFlight
  with_reducible repeat' first
    | assumption
    | (intro _; try dsimp only)
    | apply placeIn_only
    | apply OnlyRegs.foldlPoints
    | (apply OnlyRegs.lit; first | exact OnlyRegs.refl _ | assumption | apply OnlyRegs.foldl)

theorem reviseRule_only {R : List RegSet} {s₀ : State} (inst : Nat) (rev : Nat) (s : State) (p : Nat × RuleCfg) (h₀ : OnlyRegs R s₀ s)
    (hR : [reg CTL_INT, reg EGR_ALSEQ, reg EGR_INT, reg EGR_QINT] ⊆ R) : OnlyRegs R s₀ (reviseRule inst rev s p) := by
  unfold reviseRule
  with_reducible repeat' first
    | assumption
    | apply evaluate_only
    | apply OnlyRegs.foldlPoints
    | split

theorem revise_only {R : List RegSet} {s₀ : State} (inst : Nat) (closing : Bool) (s : State) (h₀ : OnlyRegs R s₀ s)
    (hR : [reg CTL_INT, reg EGR_ALSEQ, reg EGR_INT, reg EGR_QINT, reg LDG_INT, reg MKT_INT, reg MKT_TW_STAT, reg MST_INT, reg
      NST_ISL_SUSP, reg NST_ISL_THR, reg NST_OSC_INT, reg NST_THR_FAST, reg NST_TOP_INT, regFam LDG_DROP 8] ⊆ R) : OnlyRegs R s₀
      (revise inst closing s) := by
  unfold revise
  repeat' first
    | with_reducible exact OnlyRegs.refl _
    | with_reducible assumption
    | exact List.Subset.trans (by decide) hR
    | (intro _; try dsimp only)
    | exact covReg (hR (by decide))
    | with_reducible apply twRefresh_only
    | with_reducible apply nestRevision_only
    | with_reducible apply reviseRule_only
    | with_reducible apply outRevision_only
    | with_reducible apply raise_only
    | with_reducible apply setTab_only
    | with_reducible apply mktCount_only
    | with_reducible apply OnlyRegs.foldlPoints
    | with_reducible apply OnlyRegs.foldl
    | split

theorem finishTab_only {R : List RegSet} {s₀ : State} (inst : Nat) (s : State) (h₀ : OnlyRegs R s₀ s)
    (hR : [reg CTL_INT, reg EGR_ALSEQ, reg EGR_INT, reg EGR_QINT, reg LDG_INT, reg MKT_INT, reg MKT_TW_STAT, reg MST_INT, reg
      NST_ISL_SUSP, reg NST_ISL_THR, reg NST_OSC_INT, reg NST_THR_FAST, reg NST_TOP_INT, reg SHR_INT, regFam LDG_DROP 8, regRun
      (NST_SPLIT_W 0) 4] ⊆ R) : OnlyRegs R s₀ (finishTab inst s) := by
  unfold finishTab
  try dsimp only
  with_reducible repeat' first
    | exact List.Subset.trans (by decide) hR
    | (intro _; try dsimp only)
    | apply twRefresh_only
    | apply digestClose_only
    | apply placeFlight_only
    | apply nestClose_only
    | apply rulesClose_only
    | apply revise_only
    | apply ribTake_only
    | apply setTab_only
    | apply mktCount_only
    | apply outClose_only
    | apply OnlyRegs.foldlPoints
    | (apply OnlyRegs.lit; first | exact OnlyRegs.refl _ | assumption | apply digestClose_only | apply OnlyRegs.foldl)
    | split

theorem closeSection_only {R : List RegSet} {s₀ : State} (inst : Nat) (k : Nat) (shed : Bool) (s : State) (h₀ : OnlyRegs R s₀ s)
    (hR : [reg CTL_INT, reg EGR_ALSEQ, reg EGR_INT, reg EGR_QINT, reg LDG_INT, reg MKT_INT, reg MKT_TW_STAT, reg MST_INT, reg
      NST_ISL_SUSP, reg NST_ISL_THR, reg NST_OSC_INT, reg NST_THR_FAST, reg NST_TOP_INT, reg SHR_INT, regFam LDG_DROP 8, regRun
      (NST_SPLIT_W 0) 4] ⊆ R) : OnlyRegs R s₀ (closeSection inst k shed s) := by
  unfold closeSection
  try dsimp only
  with_reducible repeat' first
    | assumption
    | apply finishTab_only
    | apply setTab_only
    | apply mktCount_only
    | apply OnlyRegs.foldlPoints
    | split

theorem dropTab_only {R : List RegSet} {s₀ : State} (t : Tableau) (s : State) (h₀ : OnlyRegs R s₀ s)
    (hR : [reg CTL_INT, reg MKT_INT, reg MKT_TW_STAT] ⊆ R) : OnlyRegs R s₀ (dropTab t s) := by
  unfold dropTab
  repeat' first
    | exact List.Subset.trans (by decide) hR
    | exact covReg (hR (by decide))
    | with_reducible apply ribMiss_only
    | with_reducible apply setStat_only
    | with_reducible apply endWindow_only
    | with_reducible apply OnlyRegs.foldlPoints
    | (with_reducible apply OnlyRegs.lit; first | with_reducible assumption | with_reducible apply OnlyRegs.ite)

theorem heldFill_only {R : List RegSet} {s₀ : State} (k : Nat) (t : Tableau) (s : State) (p : Nat × StreamCfg) (h₀ : OnlyRegs R s₀
    s) :
    OnlyRegs R s₀ (heldFill k t s p) := h₀.pass (heldFill_within (L := [.live, .mkt]) k t s p (Within.refl s) (List.Subset.refl
      _)) (by decide)

theorem marketStart_only {R : List RegSet} {s₀ : State} (s0 : State) (h₀ : OnlyRegs R s₀ s0)
    (hR : [reg CTL_INT, reg MKT_INT, reg MKT_RIB_SPAN, regFam MKT_CLS_BELL 8, regRun MKT_RIB_OLD_LO 2] ⊆ R) : OnlyRegs R s₀
      (marketStart s0) := by
  unfold marketStart
  repeat' first
    | with_reducible assumption
    | exact List.Subset.trans (by decide) hR
    | (intro _; try dsimp only)
    | refine covFam (n := 8) (hR (by decide)) (fun i => by simp only [MKT_CLS_BELL]) ?_
    | with_reducible apply ribReport_only
    | with_reducible apply wr_only
    | with_reducible apply ribLose_only
    | with_reducible apply OnlyRegs.foldlPoints
    | (with_reducible apply OnlyRegs.lit; first | with_reducible exact OnlyRegs.refl _ | with_reducible apply ribLose_only | with_reducible apply OnlyRegs.forUpTo)

theorem storeRoom_only {R : List RegSet} {s₀ : State} (s : State) (h₀ : OnlyRegs R s₀ s)
    (hR : [reg CTL_INT, reg MKT_INT, reg MKT_TW_STAT] ⊆ R) : OnlyRegs R s₀ (storeRoom s) := by
  unfold storeRoom
  with_reducible repeat' first
    | assumption
    | apply dropTab_only
    | apply OnlyRegs.foldlPoints
    | split

theorem openTab_only {R : List RegSet} {s₀ : State} (step : Bool) (s0 : State) (h₀ : OnlyRegs R s₀ s0)
    (hR : [reg CTL_INT, reg EGR_ALSEQ, reg EGR_INT, reg EGR_QINT, reg MKT_INT, reg MKT_TW_STAT, reg NST_TOP_INT, regRun
      (NST_SPLIT_W 0) 4] ⊆ R) : OnlyRegs R s₀ (openTab step s0) := by
  unfold openTab
  with_reducible repeat' first
    | exact List.Subset.trans (by decide) hR
    | (intro _; try dsimp only)
    | apply placeIn_only
    | apply mktCount_only
    | apply storeRoom_only
    | apply OnlyRegs.foldlPoints
    | (apply OnlyRegs.lit; first | exact OnlyRegs.refl _ | assumption | apply OnlyRegs.ite | apply storeRoom_only | apply OnlyRegs.foldl)

theorem revisionShed_only {R : List RegSet} {s₀ : State} (on : Bool) (s : State) (h₀ : OnlyRegs R s₀ s)
    (hR : [reg CTL_INT, reg EGR_ALSEQ, reg EGR_INT, reg EGR_QINT, reg LDG_INT, reg MKT_INT, reg MKT_TW_STAT, reg MST_INT, reg
      NST_ISL_SUSP, reg NST_ISL_THR, reg NST_OSC_INT, reg NST_THR_FAST, reg NST_TOP_INT, reg SHR_INT, regFam LDG_DROP 8, regRun
      (NST_SPLIT_W 0) 4] ⊆ R) : OnlyRegs R s₀ (revisionShed on s) := by
  unfold revisionShed
  repeat' first
    | exact List.Subset.trans (by decide) hR
    | (intro _; try dsimp only)
    | exact covReg (hR (by decide))
    | with_reducible apply closeSection_only
    | with_reducible apply raise_only
    | with_reducible apply OnlyRegs.foldlPoints
    | (with_reducible apply OnlyRegs.lit; first | with_reducible exact OnlyRegs.refl _ | with_reducible assumption | with_reducible apply OnlyRegs.ite | with_reducible apply OnlyRegs.foldl | with_reducible apply OnlyRegs.forUpTo)

theorem sealRule_only {R : List RegSet} {s₀ : State} (inst : Nat) (k : Nat) (s : State) (p : Nat × RuleCfg) (h₀ : OnlyRegs R s₀ s)
    (hR : [reg CTL_INT, reg EGR_ALSEQ, reg EGR_INT, reg EGR_QINT] ⊆ R) : OnlyRegs R s₀ (sealRule inst k s p) := by
  unfold sealRule
  with_reducible repeat' first
    | assumption
    | apply evaluate_only
    | apply OnlyRegs.foldlPoints
    | split

theorem sealSection_only {R : List RegSet} {s₀ : State} (inst : Nat) (k : Nat) (s : State) (h₀ : OnlyRegs R s₀ s)
    (hR : [reg CTL_INT, reg EGR_ALSEQ, reg EGR_INT, reg EGR_QINT, reg LDG_INT, reg MKT_INT, reg MKT_TW_STAT, reg MST_INT, reg
      NST_ISL_SUSP, reg NST_ISL_THR, reg NST_OSC_INT, reg NST_THR_FAST, reg NST_TOP_INT, reg SHR_INT, regFam LDG_DROP 8, regRun
      (NST_SPLIT_W 0) 4] ⊆ R) : OnlyRegs R s₀ (sealSection inst k s) := by
  unfold sealSection
  with_reducible repeat' first
    | exact OnlyRegs.refl _
    | assumption
    | exact List.Subset.trans (by decide) hR
    | (intro _; try dsimp only)
    | apply OnlyRegs.ite
    | apply twRefresh_only
    | apply closeSection_only
    | apply sealRule_only
    | apply revise_only
    | apply heldFill_only
    | apply nestSeal_only
    | apply setTab_only
    | apply outSeal_only
    | apply mktCount_only
    | apply count_only
    | apply OnlyRegs.foldlPoints
    | apply OnlyRegs.foldl
    | split

theorem sealFollow_only {R : List RegSet} {s₀ : State} (k : Nat) (insts : List Nat) (s : State) (h₀ : OnlyRegs R s₀ s)
    (hR : [reg CTL_INT, reg EGR_ALSEQ, reg EGR_INT, reg EGR_QINT, reg LDG_INT, reg MKT_INT, reg MKT_TW_STAT, reg MST_INT, reg
      NST_ISL_SUSP, reg NST_ISL_THR, reg NST_OSC_INT, reg NST_THR_FAST, reg NST_TOP_INT, reg SHR_INT, regFam LDG_DROP 8, regRun
      (NST_SPLIT_W 0) 4] ⊆ R) : OnlyRegs R s₀ (sealFollow k insts s) := by
  unfold sealFollow
  with_reducible repeat' first
    | exact OnlyRegs.refl _
    | assumption
    | (intro _; try dsimp only)
    | apply sealSection_only
    | apply OnlyRegs.foldlPoints
    | apply OnlyRegs.foldl
    | split

theorem storeError_only {R : List RegSet} {s₀ : State} (inst : Nat) (s : State) (h₀ : OnlyRegs R s₀ s)
    (hR : [reg CTL_INT, reg EGR_ALSEQ, reg EGR_INT, reg EGR_QINT, reg LDG_INT, reg MKT_INT, reg MKT_TW_STAT, reg MST_INT, reg
      NST_ISL_SUSP, reg NST_ISL_THR, reg NST_OSC_INT, reg NST_THR_FAST, reg NST_TOP_INT, regFam LDG_DROP 8] ⊆ R) : OnlyRegs R s₀
      (storeError inst s) := by
  unfold storeError
  try dsimp only
  repeat' first
    | with_reducible assumption
    | exact List.Subset.trans (by decide) hR
    | exact covReg (hR (by decide))
    | with_reducible apply twRefresh_only
    | with_reducible apply revise_only
    | with_reducible apply raise_only
    | with_reducible apply setTab_only
    | with_reducible apply mktCount_only
    | with_reducible apply OnlyRegs.foldlPoints
    | split

theorem clsClear_only {R : List RegSet} {s₀ : State} (s : State) (h₀ : OnlyRegs R s₀ s)
    (hR : [reg MKT_CLS_COUNT, regFam MKT_CLS_HIST 48] ⊆ R) : OnlyRegs R s₀ (clsClear s) := by
  unfold clsClear
  with_reducible repeat' first
    | assumption
    | apply clsLoad_only
    | apply OnlyRegs.foldlPoints
    | (apply OnlyRegs.lit; first | assumption)

theorem execBellLearn_only {R : List RegSet} {s₀ : State} (k : Fin 8) (s : State) (h₀ : OnlyRegs R s₀ s)
    (hR : [reg CTL_INT, reg MKT_CLS_COUNT, reg MKT_CLS_IDX, reg MKT_INT, regFam MKT_CLS_BELL 8, regFam MKT_CLS_HIST 48, regFam
      MKT_CLS_STAT 8] ⊆ R) : AnswersOnly R s₀ (execBellLearn k s) := by
  unfold execBellLearn
  with_reducible repeat' first
    | assumption
    | apply AnswersOnly.inFull
    | apply AnswersOnly.powered
    | apply AnswersOnly.next
    | apply AnswersOnly.done
    | exact Fin.isLt _
    | apply inFull_only
    | apply bellLearn_only

theorem execBellWrite_only {R : List RegSet} {s₀ : State} (who : Req) (k : Fin 8) (v : BitVec 16) (s : State) (h₀ : OnlyRegs R s₀ s)
    (hR : [reg CTL_INT, reg MKT_INT, regFam MKT_CLS_BELL 8, regFam MKT_CLS_STAT 8] ⊆ R) : AnswersOnly R s₀ (execBellWrite who k v
      s) := by
  unfold execBellWrite
  with_reducible repeat' first
    | exact OnlyRegs.refl _
    | assumption
    | exact List.Subset.trans (by decide) hR
    | (intro _; try dsimp only)
    | apply AnswersOnly.inFull
    | apply AnswersOnly.powered
    | apply AnswersOnly.next
    | apply AnswersOnly.done
    | exact Fin.isLt _
    | apply bellWrite_only
    | apply serve_only

theorem execClsClear_only {R : List RegSet} {s₀ : State} (who : Req) (s : State) (h₀ : OnlyRegs R s₀ s)
    (hR : [reg MKT_CLS_COUNT, regFam MKT_CLS_HIST 48] ⊆ R) : AnswersOnly R s₀ (execClsClear who s) := by
  unfold execClsClear
  with_reducible repeat' first
    | exact OnlyRegs.refl _
    | assumption
    | exact List.Subset.trans (by decide) hR
    | (intro _; try dsimp only)
    | apply AnswersOnly.inFull
    | apply AnswersOnly.powered
    | apply AnswersOnly.next
    | apply AnswersOnly.done
    | apply clsClear_only
    | apply serve_only

theorem execClsLoad_only {R : List RegSet} {s₀ : State} (who : Req) (s : State) (h₀ : OnlyRegs R s₀ s)
    (hR : [reg MKT_CLS_COUNT, regFam MKT_CLS_HIST 48] ⊆ R) : AnswersOnly R s₀ (execClsLoad who s) := by
  unfold execClsLoad
  with_reducible repeat' first
    | exact OnlyRegs.refl _
    | assumption
    | exact List.Subset.trans (by decide) hR
    | (intro _; try dsimp only)
    | apply AnswersOnly.inFull
    | apply AnswersOnly.powered
    | apply AnswersOnly.next
    | apply AnswersOnly.done
    | apply serve_only
    | apply clsLoad_only

theorem execMarketSnapshot_only {R : List RegSet} {s₀ : State} (who : Req) (clr : Bool) (s : State) (h₀ : OnlyRegs R s₀ s)
    (hR : [reg CTL_INT, reg MKT_INT, reg MKT_SNAP_SEQ, regRun (MKT_CNT 0) 32] ⊆ R) : AnswersOnly R s₀ (execMarketSnapshot who clr
      s) := by
  unfold execMarketSnapshot
  repeat' first
    | with_reducible exact OnlyRegs.refl _
    | with_reducible assumption
    | exact List.Subset.trans (by decide) hR
    | (intro _; try dsimp only)
    | with_reducible apply AnswersOnly.inFull
    | with_reducible apply AnswersOnly.powered
    | with_reducible apply AnswersOnly.next
    | with_reducible apply AnswersOnly.done
    | exact covReg (hR (by decide))
    | refine snapshot_only _ 16 _ _ _ ?_ (covRun (hR (by decide))) ?_
    | with_reducible apply serve_only
    | with_reducible apply raise_only

theorem place_only {R : List RegSet} {s₀ : State} (s : State) (h₀ : OnlyRegs R s₀ s)
    (hR : [reg CTL_INT, reg EGR_ALSEQ, reg EGR_INT, reg EGR_QINT, reg MKT_TW_STAT, reg NST_TOP_INT, regRun (NST_SPLIT_W 0) 4] ⊆ R)
      : OnlyRegs R s₀ (place s) := by
  unfold place
  try dsimp only
  with_reducible repeat' first
    | exact List.Subset.trans (by decide) hR
    | apply twRefresh_only
    | apply placeIn_only
    | apply OnlyRegs.foldlPoints
    | (apply OnlyRegs.lit; first | assumption)
    | split

theorem execPlace_only {R : List RegSet} {s₀ : State} (s : State) (h₀ : OnlyRegs R s₀ s)
    (hR : [reg CTL_INT, reg EGR_ALSEQ, reg EGR_INT, reg EGR_QINT, reg MKT_TW_STAT, reg NST_TOP_INT, regRun (NST_SPLIT_W 0) 4] ⊆ R)
      : AnswersOnly R s₀ (execPlace s) := by
  unfold execPlace
  with_reducible repeat' first
    | assumption
    | apply OnlyRegs.ite
    | apply AnswersOnly.inFull
    | apply AnswersOnly.powered
    | apply AnswersOnly.next
    | apply AnswersOnly.done
    | apply inFull_only
    | apply place_only

theorem revisionIssue_only {R : List RegSet} {s₀ : State} (inst : Nat) (s : State) (h₀ : OnlyRegs R s₀ s)
    (hR : [reg CTL_INT, reg EGR_ALSEQ, reg EGR_INT, reg EGR_QINT, reg LDG_INT, reg MKT_INT, reg MKT_TW_STAT, reg MST_INT, reg
      NST_ISL_SUSP, reg NST_ISL_THR, reg NST_OSC_INT, reg NST_THR_FAST, reg NST_TOP_INT, regFam LDG_DROP 8] ⊆ R) : OnlyRegs R s₀
      (revisionIssue inst s) := by
  unfold revisionIssue
  with_reducible repeat' first
    | assumption
    | apply revise_only
    | apply OnlyRegs.foldlPoints
    | split

theorem execRevisionIssue_only {R : List RegSet} {s₀ : State} (inst : Nat) (s : State) (h₀ : OnlyRegs R s₀ s)
    (hR : [reg CTL_INT, reg EGR_ALSEQ, reg EGR_INT, reg EGR_QINT, reg LDG_INT, reg MKT_INT, reg MKT_TW_STAT, reg MST_INT, reg
      NST_ISL_SUSP, reg NST_ISL_THR, reg NST_OSC_INT, reg NST_THR_FAST, reg NST_TOP_INT, regFam LDG_DROP 8] ⊆ R) : AnswersOnly R s₀
      (execRevisionIssue inst s) := by
  unfold execRevisionIssue
  with_reducible repeat' first
    | assumption
    | apply AnswersOnly.inFull
    | apply AnswersOnly.powered
    | apply AnswersOnly.next
    | apply AnswersOnly.done
    | apply revisionIssue_only

theorem ribOpen_only {R : List RegSet} {s₀ : State} (s : State) (h₀ : OnlyRegs R s₀ s)
    (hR : [reg MKT_RIB_RSTAT] ⊆ R) : OnlyRegs R s₀ (ribOpen s) := by
  unfold ribOpen
  repeat' first
    | exact covReg (hR (by decide))
    | with_reducible apply openWindow_only
    | with_reducible apply wr_only
    | with_reducible apply openEmpty_only
    | with_reducible apply OnlyRegs.foldlPoints
    | (with_reducible apply OnlyRegs.lit; first | with_reducible assumption | with_reducible apply OnlyRegs.ite)

theorem execRibOpen_only {R : List RegSet} {s₀ : State} (who : Req) (s : State) (h₀ : OnlyRegs R s₀ s)
    (hR : [reg MKT_RIB_RSTAT] ⊆ R) : AnswersOnly R s₀ (execRibOpen who s) := by
  unfold execRibOpen
  with_reducible repeat' first
    | exact OnlyRegs.refl _
    | assumption
    | exact List.Subset.trans (by decide) hR
    | (intro _; try dsimp only)
    | apply AnswersOnly.inFull
    | apply AnswersOnly.powered
    | apply AnswersOnly.next
    | apply AnswersOnly.done
    | apply ribOpen_only
    | apply serve_only

theorem sectionClose_only {R : List RegSet} {s₀ : State} (inst : Nat) (k : Nat) (s : State) (h₀ : OnlyRegs R s₀ s)
    (hR : [reg CTL_INT, reg EGR_ALSEQ, reg EGR_INT, reg EGR_QINT, reg LDG_INT, reg MKT_INT, reg MKT_TW_STAT, reg MST_INT, reg
      NST_ISL_SUSP, reg NST_ISL_THR, reg NST_OSC_INT, reg NST_THR_FAST, reg NST_TOP_INT, reg SHR_INT, regFam LDG_DROP 8, regRun
      (NST_SPLIT_W 0) 4] ⊆ R) : OnlyRegs R s₀ (sectionClose inst k s) := by
  unfold sectionClose
  with_reducible repeat' first
    | assumption
    | apply closeSection_only
    | apply OnlyRegs.foldlPoints
    | split

theorem execSectionClose_only {R : List RegSet} {s₀ : State} (inst : Nat) (k : Fin 8) (s : State) (h₀ : OnlyRegs R s₀ s)
    (hR : [reg CTL_INT, reg EGR_ALSEQ, reg EGR_INT, reg EGR_QINT, reg LDG_INT, reg MKT_INT, reg MKT_TW_STAT, reg MST_INT, reg
      NST_ISL_SUSP, reg NST_ISL_THR, reg NST_OSC_INT, reg NST_THR_FAST, reg NST_TOP_INT, reg SHR_INT, regFam LDG_DROP 8, regRun
      (NST_SPLIT_W 0) 4] ⊆ R) : AnswersOnly R s₀ (execSectionClose inst k s) := by
  unfold execSectionClose
  with_reducible repeat' first
    | assumption
    | apply AnswersOnly.inFull
    | apply AnswersOnly.powered
    | apply AnswersOnly.next
    | apply AnswersOnly.done
    | apply inFull_only
    | apply sectionClose_only

theorem sectionSeal_only {R : List RegSet} {s₀ : State} (inst : Nat) (k : Nat) (s : State) (h₀ : OnlyRegs R s₀ s)
    (hR : [reg CTL_INT, reg EGR_ALSEQ, reg EGR_INT, reg EGR_QINT, reg LDG_INT, reg MKT_INT, reg MKT_TW_STAT, reg MST_INT, reg
      NST_ISL_SUSP, reg NST_ISL_THR, reg NST_OSC_INT, reg NST_THR_FAST, reg NST_TOP_INT, reg SHR_INT, regFam LDG_DROP 8, regRun
      (NST_SPLIT_W 0) 4] ⊆ R) : OnlyRegs R s₀ (sectionSeal inst k s) := by
  unfold sectionSeal
  repeat' first
    | with_reducible assumption
    | exact List.Subset.trans (by decide) hR
    | exact covReg (hR (by decide))
    | with_reducible apply sealSection_only
    | with_reducible apply sealFollow_only
    | with_reducible apply raise_only
    | with_reducible apply setTab_only
    | with_reducible apply mktCount_only
    | with_reducible apply OnlyRegs.foldlPoints
    | split

theorem execSectionSeal_only {R : List RegSet} {s₀ : State} (inst : Nat) (k : Fin 8) (s : State) (h₀ : OnlyRegs R s₀ s)
    (hR : [reg CTL_INT, reg EGR_ALSEQ, reg EGR_INT, reg EGR_QINT, reg LDG_INT, reg MKT_INT, reg MKT_TW_STAT, reg MST_INT, reg
      NST_ISL_SUSP, reg NST_ISL_THR, reg NST_OSC_INT, reg NST_THR_FAST, reg NST_TOP_INT, reg SHR_INT, regFam LDG_DROP 8, regRun
      (NST_SPLIT_W 0) 4] ⊆ R) : AnswersOnly R s₀ (execSectionSeal inst k s) := by
  unfold execSectionSeal
  with_reducible repeat' first
    | assumption
    | apply AnswersOnly.inFull
    | apply AnswersOnly.powered
    | apply AnswersOnly.next
    | apply AnswersOnly.done
    | apply inFull_only
    | apply sectionSeal_only

theorem execTableauOpen_only {R : List RegSet} {s₀ : State} (s : State) (h₀ : OnlyRegs R s₀ s)
    (hR : [reg CTL_INT, reg EGR_ALSEQ, reg EGR_INT, reg EGR_QINT, reg MKT_INT, reg MKT_TW_STAT, reg NST_TOP_INT, regRun
      (NST_SPLIT_W 0) 4] ⊆ R) : AnswersOnly R s₀ (execTableauOpen s) := by
  unfold execTableauOpen
  with_reducible repeat' first
    | assumption
    | apply OnlyRegs.ite
    | apply AnswersOnly.inFull
    | apply AnswersOnly.powered
    | apply AnswersOnly.next
    | apply AnswersOnly.done
    | apply openTab_only

theorem twOpen_only {R : List RegSet} {s₀ : State} (s : State) (h₀ : OnlyRegs R s₀ s)
    (hR : [reg MKT_TW_STAT] ⊆ R) : OnlyRegs R s₀ (twOpen s) := by
  unfold twOpen
  try dsimp only
  repeat' first
    | exact covReg (hR (by decide))
    | with_reducible apply openWindow_only
    | with_reducible apply wr_only
    | with_reducible apply openEmpty_only
    | with_reducible apply OnlyRegs.foldlPoints
    | (with_reducible apply OnlyRegs.lit; first | with_reducible assumption)
    | split

theorem execTwOpen_only {R : List RegSet} {s₀ : State} (who : Req) (s : State) (h₀ : OnlyRegs R s₀ s)
    (hR : [reg MKT_TW_STAT] ⊆ R) : AnswersOnly R s₀ (execTwOpen who s) := by
  unfold execTwOpen
  with_reducible repeat' first
    | exact OnlyRegs.refl _
    | assumption
    | exact List.Subset.trans (by decide) hR
    | (intro _; try dsimp only)
    | apply AnswersOnly.inFull
    | apply AnswersOnly.powered
    | apply AnswersOnly.next
    | apply AnswersOnly.done
    | apply twOpen_only
    | apply serve_only

end Sys2Proof.Machine
end

