-- ==== Sys2Proof/Laws/RegsPair.lean ====
section
/-!
SUPPORT. Which registers each operation can change (Safety.OnlyRegs): the pair and the boot.
-/

namespace Sys2Proof.Machine

open Sys2Proof

set_option Elab.async false
set_option linter.all false

set_option maxRecDepth 4000

theorem setRole_only {R : List RegSet} {s₀ : State} (r : Role) (s : State) (h₀ : OnlyRegs R s₀ s)
    (hR : [reg CTL_INT, reg EGR_INT, reg EGR_QINT, reg LDG_INT, reg SHR_INT, regFam LDG_DROP 8] ⊆ R) : OnlyRegs R s₀ (setRole r s)
      := by
  unfold setRole
  repeat' first
    | with_reducible assumption
    | exact List.Subset.trans (by decide) hR
    | with_reducible apply OnlyRegs.ite
    | exact covReg (hR (by decide))
    | (show (_ : Nat) < _; decide)
    | with_reducible apply pairRecord_only
    | with_reducible apply nodeEdge_only
    | with_reducible apply raise_only
    | with_reducible apply setPair_only

theorem becomeActive_only {R : List RegSet} {s₀ : State} (s : State) (h₀ : OnlyRegs R s₀ s)
    (hR : [reg CTL_INT, reg EGR_INT, reg EGR_QINT, reg LDG_INT, reg SHR_INT, regFam LDG_DROP 8] ⊆ R) : OnlyRegs R s₀ (becomeActive
      s) := by
  unfold becomeActive
  with_reducible repeat' first
    | assumption
    | apply setRole_only
    | apply setPair_only

theorem clerkAnswer_only {R : List RegSet} {s₀ : State} (m : ClerkMsg) (typ : Nat) (reason : Nat) (epoch : Nat) (remain : Nat) (s
    : State) (h₀ : OnlyRegs R s₀ s) :
    OnlyRegs R s₀ (clerkAnswer m typ reason epoch remain s) := h₀.pass (clerkAnswer_within (L := [.out]) m typ reason epoch remain
      s (Within.refl s) (List.Subset.refl _)) (by decide)

theorem clerkSend_only {R : List RegSet} {s₀ : State} (typ : Nat) (epoch : Nat) (s : State) (h₀ : OnlyRegs R s₀ s) :
    OnlyRegs R s₀ (clerkSend typ epoch s) := h₀.pass (clerkSend_within (L := [.pair, .out]) typ epoch s (Within.refl s)
      (List.Subset.refl _)) (by decide)

theorem clerkAsk_only {R : List RegSet} {s₀ : State} (s : State) (h₀ : OnlyRegs R s₀ s) :
    OnlyRegs R s₀ (clerkAsk s) := h₀.pass (clerkAsk_within (L := [.pair, .out]) s (Within.refl s) (List.Subset.refl _)) (by decide)

theorem clerkGone_only {R : List RegSet} {s₀ : State} (s : State) (h₀ : OnlyRegs R s₀ s)
    (hR : [reg CTL_INT, reg LDG_INT, reg SHR_INT, regFam LDG_DROP 8] ⊆ R) : OnlyRegs R s₀ (clerkGone s) := by
  unfold clerkGone
  repeat' first
    | with_reducible assumption
    | exact List.Subset.trans (by decide) hR
    | with_reducible apply OnlyRegs.ite
    | exact covReg (hR (by decide))
    | (show (_ : Nat) < _; decide)
    | with_reducible apply pairRecord_only
    | with_reducible apply raise_only
    | with_reducible apply setPair_only

theorem clerkReleaseIn_only {R : List RegSet} {s₀ : State} (m : ClerkMsg) (k : Nat) (s : State) (h₀ : OnlyRegs R s₀ s) :
    OnlyRegs R s₀ (clerkReleaseIn m k s) := h₀.pass (clerkReleaseIn_within (L := [.pair]) m k s (Within.refl s) (List.Subset.refl
      _)) (by decide)

theorem clerkRenew_only {R : List RegSet} {s₀ : State} (s : State) (h₀ : OnlyRegs R s₀ s) :
    OnlyRegs R s₀ (clerkRenew s) := h₀.pass (clerkRenew_within (L := [.pair, .out]) s (Within.refl s) (List.Subset.refl _)) (by
      decide)

theorem clerkRenewIn_only {R : List RegSet} {s₀ : State} (m : ClerkMsg) (k : Nat) (s : State) (h₀ : OnlyRegs R s₀ s) :
    OnlyRegs R s₀ (clerkRenewIn m k s) := h₀.pass (clerkRenewIn_within (L := [.pair, .out]) m k s (Within.refl s)
      (List.Subset.refl _)) (by decide)

theorem clerkReply_only {R : List RegSet} {s₀ : State} (m : ClerkMsg) (f : Nat → State → State) (s : State) (h_f : ∀ (x0 : Nat) (u
    : State), OnlyRegs R u (f x0 u))
    (h₀ : OnlyRegs R s₀ s) (_ : [] ⊆ R) : OnlyRegs R s₀ (clerkReply m f s) := by
  unfold clerkReply
  repeat' split
  · exact h₀
  · exact shrCount_only _ _ _ h₀
  · exact (setPair_only _ _ h₀).trans (h_f _ _)
  · exact shrCount_only _ _ _ h₀

theorem clerkRequestIn_only {R : List RegSet} {s₀ : State} (m : ClerkMsg) (k : Nat) (s : State) (h₀ : OnlyRegs R s₀ s) :
    OnlyRegs R s₀ (clerkRequestIn m k s) := h₀.pass (clerkRequestIn_within (L := [.pair, .out]) m k s (Within.refl s)
      (List.Subset.refl _)) (by decide)

theorem clerkServe_only {R : List RegSet} {s₀ : State} (m : ClerkMsg) (f : Nat → State → State) (s : State) (h_f : ∀ (x0 : Nat) (u
    : State), OnlyRegs R u (f x0 u))
    (h₀ : OnlyRegs R s₀ s) (_ : [] ⊆ R) : OnlyRegs R s₀ (clerkServe m f s) := by
  unfold clerkServe
  repeat' split
  · exact h₀
  · exact shrCount_only _ _ _ h₀
  · exact clerkAnswer_only _ _ _ _ _ _ h₀
  · exact h₀.trans (h_f _ _)

theorem confirmLease_only {R : List RegSet} {s₀ : State} (hb : Heartbeat) (s : State) (h₀ : OnlyRegs R s₀ s)
    (hR : [reg SHR_LEASE_DL] ⊆ R) : OnlyRegs R s₀ (confirmLease hb s) := by
  unfold confirmLease
  try dsimp only
  repeat' first
    | with_reducible assumption
    | exact covReg (hR (by decide))
    | with_reducible apply wr_only
    | with_reducible apply OnlyRegs.foldlPoints
    | split

theorem creditSend_only {R : List RegSet} {s₀ : State} (l : Nat) (s : State) (h₀ : OnlyRegs R s₀ s) :
    OnlyRegs R s₀ (creditSend l s) := h₀.pass (creditSend_within (L := [.pair, .out]) l s (Within.refl s) (List.Subset.refl _))
      (by decide)

theorem dropLease_only {R : List RegSet} {s₀ : State} (s : State) (h₀ : OnlyRegs R s₀ s)
    (hR : [reg CTL_INT, reg EGR_INT, reg EGR_QINT, reg LDG_INT, reg SHR_INT, regFam LDG_DROP 8] ⊆ R) : OnlyRegs R s₀ (dropLease s)
      := by
  unfold dropLease
  with_reducible repeat' first
    | assumption
    | apply OnlyRegs.ite
    | apply setRole_only
    | apply setPair_only

theorem wantLease_only {R : List RegSet} {s₀ : State} (s : State) (h₀ : OnlyRegs R s₀ s) :
    OnlyRegs R s₀ (wantLease s) := h₀.pass (wantLease_within (L := [.pair]) s (Within.refl s) (List.Subset.refl _)) (by decide)

theorem denied_only {R : List RegSet} {s₀ : State} (m : ClerkMsg) (r : DenyReason) (a2 : Nat) (s : State) (h₀ : OnlyRegs R s₀ s)
    (hR : [reg CTL_INT, reg EGR_INT, reg EGR_QINT, reg LDG_INT, reg SHR_INT, regFam LDG_DROP 8] ⊆ R) : OnlyRegs R s₀ (denied m r
      a2 s) := by
  unfold denied
  with_reducible repeat' first
    | assumption
    | apply OnlyRegs.ite
    | apply dropLease_only
    | apply setRole_only
    | apply setPair_only
    | apply wantLease_only

theorem digestIn_only {R : List RegSet} {s₀ : State} (e : DigestEntry) (s : State) (h₀ : OnlyRegs R s₀ s)
    (hR : [reg CTL_INT, reg LDG_INT, reg SHR_INT, regFam LDG_DROP 8] ⊆ R) : OnlyRegs R s₀ (digestIn e s) := by
  unfold digestIn
  with_reducible repeat' first
    | assumption
    | apply digCompare_only
    | apply setPair_only

theorem dualActive_only {R : List RegSet} {s₀ : State} (hb : Heartbeat) (s : State) (h₀ : OnlyRegs R s₀ s)
    (hR : [reg CTL_INT, reg EGR_INT, reg EGR_QINT, reg LDG_INT, reg SHR_INT, regFam LDG_DROP 8] ⊆ R) : OnlyRegs R s₀ (dualActive
      hb s) := by
  unfold dualActive
  repeat' first
    | with_reducible assumption
    | exact List.Subset.trans (by decide) hR
    | with_reducible apply OnlyRegs.ite
    | exact covReg (hR (by decide))
    | (show (_ : Nat) < _; decide)
    | with_reducible apply pairRecord_only
    | with_reducible apply setRole_only
    | with_reducible apply raise_only
    | with_reducible apply setPair_only

theorem execClerkLost_only {R : List RegSet} {s₀ : State} (s : State) (h₀ : OnlyRegs R s₀ s)
    (hR : [reg CTL_INT, reg LDG_INT, reg SHR_INT, regFam LDG_DROP 8] ⊆ R) : AnswersOnly R s₀ (execClerkLost s) := by
  unfold execClerkLost
  with_reducible repeat' first
    | assumption
    | apply AnswersOnly.inFull
    | apply AnswersOnly.powered
    | apply AnswersOnly.next
    | apply AnswersOnly.done
    | apply inFull_only
    | apply clerkGone_only

theorem execDigestUncompared_only {R : List RegSet} {s₀ : State} (inst : Nat) (s : State) (h₀ : OnlyRegs R s₀ s)
    (hR : [reg CTL_INT, reg LDG_INT, reg SHR_INT, regFam LDG_DROP 8] ⊆ R) : AnswersOnly R s₀ (execDigestUncompared inst s) := by
  unfold execDigestUncompared
  with_reducible repeat' first
    | assumption
    | apply OnlyRegs.ite
    | apply AnswersOnly.inFull
    | apply AnswersOnly.powered
    | apply AnswersOnly.next
    | apply AnswersOnly.done
    | apply inFull_only
    | apply setPair_only
    | apply digOutcome_only

theorem healthSend_only {R : List RegSet} {s₀ : State} (s : State) (h₀ : OnlyRegs R s₀ s) (hR : [regRun (SHR_HEALTH 0) 4] ⊆ R) :
    OnlyRegs R s₀ (healthSend s) := by
  unfold healthSend
  split
  · exact h₀
  · exact bulkSend_only _ _ _ (wrWords_only _ _ _ 4 (setPair_only _ _ h₀) (by simp [healthRegs]) (hR (by decide)))

theorem execHealthSend_only {R : List RegSet} {s₀ : State} (s : State) (h₀ : OnlyRegs R s₀ s)
    (hR : [regRun (SHR_HEALTH 0) 4] ⊆ R) : AnswersOnly R s₀ (execHealthSend s) := by
  unfold execHealthSend
  with_reducible repeat' first
    | assumption
    | apply AnswersOnly.inFull
    | apply AnswersOnly.powered
    | apply AnswersOnly.next
    | apply AnswersOnly.done
    | apply inFull_only
    | apply healthSend_only

theorem heartbeat_only {R : List RegSet} {s₀ : State} (s : State) (h₀ : OnlyRegs R s₀ s) :
    OnlyRegs R s₀ (heartbeat s) := h₀.pass (heartbeat_within (L := [.live, .pair, .out]) s (Within.refl s) (List.Subset.refl _))
      (by decide)

theorem leaseRelease_only {R : List RegSet} {s₀ : State} (s : State) (h₀ : OnlyRegs R s₀ s)
    (hR : [reg CTL_INT, reg EGR_INT, reg EGR_QINT, reg LDG_INT, reg SHR_INT, regFam LDG_DROP 8] ⊆ R) : OnlyRegs R s₀ (leaseRelease
      s) := by
  unfold leaseRelease
  with_reducible repeat' first
    | assumption
    | apply OnlyRegs.ite
    | apply clerkSend_only
    | apply dropLease_only
    | apply setPair_only

theorem execLeaseDrop_only {R : List RegSet} {s₀ : State} (who : Req) (s : State) (h₀ : OnlyRegs R s₀ s)
    (hR : [reg CTL_INT, reg EGR_INT, reg EGR_QINT, reg LDG_INT, reg SHR_INT, regFam LDG_DROP 8] ⊆ R) : AnswersOnly R s₀
      (execLeaseDrop who s) := by
  unfold execLeaseDrop
  with_reducible repeat' first
    | exact OnlyRegs.refl _
    | assumption
    | exact List.Subset.trans (by decide) hR
    | (intro _; try dsimp only)
    | apply AnswersOnly.inFull
    | apply AnswersOnly.powered
    | apply AnswersOnly.next
    | apply AnswersOnly.done
    | apply leaseRelease_only
    | apply serve_only

theorem leaseEnd_only {R : List RegSet} {s₀ : State} (s : State) (h₀ : OnlyRegs R s₀ s)
    (hR : [reg CTL_INT, reg EGR_INT, reg EGR_QINT, reg LDG_INT, reg SHR_INT, regFam LDG_DROP 8] ⊆ R) : OnlyRegs R s₀ (leaseEnd s)
      := by
  unfold leaseEnd
  repeat' first
    | with_reducible assumption
    | exact List.Subset.trans (by decide) hR
    | with_reducible apply OnlyRegs.ite
    | exact covReg (hR (by decide))
    | (show (_ : Nat) < _; decide)
    | with_reducible apply pairRecord_only
    | with_reducible apply setRole_only
    | with_reducible apply raise_only
    | with_reducible apply setPair_only
    | with_reducible apply shrCount_only
    | with_reducible apply wantLease_only

theorem execLeaseExpiry_only {R : List RegSet} {s₀ : State} (s : State) (h₀ : OnlyRegs R s₀ s)
    (hR : [reg CTL_INT, reg EGR_INT, reg EGR_QINT, reg LDG_INT, reg SHR_INT, regFam LDG_DROP 8] ⊆ R) : AnswersOnly R s₀
      (execLeaseExpiry s) := by
  unfold execLeaseExpiry
  with_reducible repeat' first
    | assumption
    | apply AnswersOnly.inFull
    | apply AnswersOnly.powered
    | apply AnswersOnly.next
    | apply AnswersOnly.done
    | apply leaseEnd_only

theorem leaseSet_only {R : List RegSet} {s₀ : State} (dl : Nat) (s : State) (h₀ : OnlyRegs R s₀ s)
    (hR : [reg CTL_INT, reg EGR_INT, reg EGR_QINT, reg LDG_INT, reg SHR_INT, reg SHR_LEASE_DL, regFam LDG_DROP 8] ⊆ R) : OnlyRegs
      R s₀ (leaseSet dl s) := by
  unfold leaseSet
  repeat' first
    | with_reducible assumption
    | exact List.Subset.trans (by decide) hR
    | with_reducible apply OnlyRegs.ite
    | exact covReg (hR (by decide))
    | with_reducible apply becomeActive_only
    | with_reducible apply wr_only
    | with_reducible apply raise_only
    | with_reducible apply setPair_only

theorem execLeaseWrite_only {R : List RegSet} {s₀ : State} (who : Req) (v : Word) (s : State) (h₀ : OnlyRegs R s₀ s)
    (hR : [reg CTL_INT, reg EGR_INT, reg EGR_QINT, reg LDG_INT, reg SHR_INT, reg SHR_LEASE_DL, regFam LDG_DROP 8] ⊆ R) :
      AnswersOnly R s₀ (execLeaseWrite who v s) := by
  unfold execLeaseWrite
  with_reducible repeat' first
    | exact OnlyRegs.refl _
    | assumption
    | exact List.Subset.trans (by decide) hR
    | (intro _; try dsimp only)
    | apply AnswersOnly.inFull
    | apply AnswersOnly.powered
    | apply AnswersOnly.next
    | apply AnswersOnly.done
    | apply leaseSet_only
    | apply serve_only

theorem execPairSnapshot_only {R : List RegSet} {s₀ : State} (who : Req) (clr : Bool) (s : State) (h₀ : OnlyRegs R s₀ s)
    (hR : [reg CTL_INT, reg SHR_INT, reg SHR_SNAP_SEQ, regRun (SHR_CNT 0) 24] ⊆ R) : AnswersOnly R s₀ (execPairSnapshot who clr s)
      := by
  unfold execPairSnapshot
  repeat' first
    | with_reducible exact OnlyRegs.refl _
    | with_reducible assumption
    | exact List.Subset.trans (by decide) hR
    | (intro _; try dsimp only)
    | with_reducible apply AnswersOnly.inFull
    | with_reducible apply AnswersOnly.powered
    | with_reducible apply AnswersOnly.next
    | with_reducible apply AnswersOnly.done
    | exact covReg (hR (by decide))
    | refine snapshot_only _ 12 _ _ _ ?_ (covRun (hR (by decide))) ?_
    | with_reducible apply serve_only
    | with_reducible apply raise_only

theorem peerGone_only {R : List RegSet} {s₀ : State} (s : State) (h₀ : OnlyRegs R s₀ s)
    (hR : [reg CTL_INT, reg LDG_INT, reg SHR_INT, regFam LDG_DROP 8] ⊆ R) : OnlyRegs R s₀ (peerGone s) := by
  unfold peerGone
  repeat' first
    | with_reducible assumption
    | exact List.Subset.trans (by decide) hR
    | with_reducible apply OnlyRegs.ite
    | exact covReg (hR (by decide))
    | (show (_ : Nat) < _; decide)
    | with_reducible apply pairRecord_only
    | with_reducible apply raise_only
    | with_reducible apply setPair_only
    | with_reducible apply shrCount_only
    | with_reducible apply wantLease_only

theorem execPeerLost_only {R : List RegSet} {s₀ : State} (s : State) (h₀ : OnlyRegs R s₀ s)
    (hR : [reg CTL_INT, reg LDG_INT, reg SHR_INT, regFam LDG_DROP 8] ⊆ R) : AnswersOnly R s₀ (execPeerLost s) := by
  unfold execPeerLost
  with_reducible repeat' first
    | assumption
    | apply AnswersOnly.inFull
    | apply AnswersOnly.powered
    | apply AnswersOnly.next
    | apply AnswersOnly.done
    | apply inFull_only
    | apply peerGone_only

theorem resyncDone_only {R : List RegSet} {s₀ : State} (s : State) (h₀ : OnlyRegs R s₀ s)
    (hR : [reg CTL_INT, reg EGR_INT, reg EGR_QINT, reg LDG_INT, reg SHR_INT, regFam LDG_DROP 8] ⊆ R) : OnlyRegs R s₀ (resyncDone
      s) := by
  unfold resyncDone
  repeat' first
    | with_reducible assumption
    | exact List.Subset.trans (by decide) hR
    | with_reducible apply OnlyRegs.ite
    | exact covReg (hR (by decide))
    | with_reducible apply setRole_only
    | with_reducible apply raise_only
    | with_reducible apply setPair_only

theorem execResyncDone_only {R : List RegSet} {s₀ : State} (s : State) (h₀ : OnlyRegs R s₀ s)
    (hR : [reg CTL_INT, reg EGR_INT, reg EGR_QINT, reg LDG_INT, reg SHR_INT, regFam LDG_DROP 8] ⊆ R) : AnswersOnly R s₀
      (execResyncDone s) := by
  unfold execResyncDone
  with_reducible repeat' first
    | assumption
    | apply AnswersOnly.inFull
    | apply AnswersOnly.powered
    | apply AnswersOnly.next
    | apply AnswersOnly.done
    | apply inFull_only
    | apply resyncDone_only

theorem shroudRx_only {R : List RegSet} {s₀ : State} (l : Fin 2) (h : ShroudHdr) (bulk : Bool) (f : State → State) (s : State)
    (h_f : ∀ (u : State), OnlyRegs R u (f u)) (h₀ : OnlyRegs R s₀ s)
    (hR : [] ⊆ R) : OnlyRegs R s₀ (shroudRx l h bulk f s) := by
  unfold shroudRx
  with_reducible repeat' first
    | assumption
    | apply OnlyRegs.ite
    | apply OnlyRegs.app h_f
    | apply h_f
    | apply setShroud_only
    | apply creditSend_only
    | apply creditsBack_only
    | apply shrCount_only

theorem execRxDeny_only {R : List RegSet} {s₀ : State} (m : ClerkMsg) (r : DenyReason) (s : State) (h₀ : OnlyRegs R s₀ s)
    (hR : [reg CTL_INT, reg EGR_INT, reg EGR_QINT, reg LDG_INT, reg SHR_INT, regFam LDG_DROP 8] ⊆ R) : AnswersOnly R s₀
      (execRxDeny m r s) := by
  unfold execRxDeny
  with_reducible repeat' first
    | exact OnlyRegs.refl _
    | assumption
    | exact List.Subset.trans (by decide) hR
    | (intro _; try dsimp only)
    | apply AnswersOnly.inFull
    | apply AnswersOnly.powered
    | apply AnswersOnly.next
    | apply AnswersOnly.done
    | apply inFull_only
    | apply clerkReply_only
    | apply denied_only

theorem execRxDigest_only {R : List RegSet} {s₀ : State} (l : Fin 2) (h : ShroudHdr) (es : List DigestEntry) (s : State) (h₀ :
    OnlyRegs R s₀ s)
    (hR : [reg CTL_INT, reg LDG_INT, reg SHR_INT, regFam LDG_DROP 8] ⊆ R) : AnswersOnly R s₀ (execRxDigest l h es s) := by
  unfold execRxDigest
  with_reducible repeat' first
    | exact OnlyRegs.refl _
    | assumption
    | exact List.Subset.trans (by decide) hR
    | (intro _; try dsimp only)
    | apply AnswersOnly.inFull
    | apply AnswersOnly.powered
    | apply AnswersOnly.next
    | apply AnswersOnly.done
    | apply inFull_only
    | apply digestIn_only
    | apply shroudRx_only
    | apply OnlyRegs.foldlPoints
    | apply OnlyRegs.foldl

theorem takeLease_only {R : List RegSet} {s₀ : State} (m : ClerkMsg) (ts : Nat) (s : State) (h₀ : OnlyRegs R s₀ s)
    (hR : [reg CTL_INT, reg EGR_INT, reg EGR_QINT, reg LDG_INT, reg SHR_INT, reg SHR_LEASE_DL, reg SHR_LEASE_EPOCH, regFam
      LDG_DROP 8] ⊆ R) : OnlyRegs R s₀ (takeLease m ts s) := by
  unfold takeLease
  repeat' first
    | with_reducible assumption
    | exact List.Subset.trans (by decide) hR
    | exact covReg (hR (by decide))
    | with_reducible apply leaseSet_only
    | with_reducible apply wr_only

theorem granted_only {R : List RegSet} {s₀ : State} (m : ClerkMsg) (ts : Nat) (s : State) (h₀ : OnlyRegs R s₀ s)
    (hR : [reg CTL_INT, reg EGR_INT, reg EGR_QINT, reg LDG_INT, reg SHR_INT, reg SHR_LEASE_DL, reg SHR_LEASE_EPOCH, regFam
      LDG_DROP 8] ⊆ R) : OnlyRegs R s₀ (granted m ts s) := by
  unfold granted
  with_reducible repeat' first
    | assumption
    | exact List.Subset.trans (by decide) hR
    | apply OnlyRegs.ite
    | apply takeLease_only
    | apply becomeActive_only
    | apply shrCount_only
    | apply pubAll_only

theorem execRxGrant_only {R : List RegSet} {s₀ : State} (m : ClerkMsg) (s : State) (h₀ : OnlyRegs R s₀ s)
    (hR : [reg CTL_INT, reg EGR_INT, reg EGR_QINT, reg LDG_INT, reg SHR_INT, reg SHR_LEASE_DL, reg SHR_LEASE_EPOCH, regFam
      LDG_DROP 8] ⊆ R) : AnswersOnly R s₀ (execRxGrant m s) := by
  unfold execRxGrant
  with_reducible repeat' first
    | exact OnlyRegs.refl _
    | assumption
    | exact List.Subset.trans (by decide) hR
    | (intro _; try dsimp only)
    | apply AnswersOnly.inFull
    | apply AnswersOnly.powered
    | apply AnswersOnly.next
    | apply AnswersOnly.done
    | apply inFull_only
    | apply clerkReply_only
    | apply granted_only

theorem hbTriggers_only {R : List RegSet} {s₀ : State} (old : Word) (new : Word) (s : State) (h₀ : OnlyRegs R s₀ s) :
    OnlyRegs R s₀ (hbTriggers old new s) := h₀.pass (hbTriggers_within (L := [.pair]) old new s (Within.refl s) (List.Subset.refl
      _)) (by decide)

theorem peerSeen_only {R : List RegSet} {s₀ : State} (s : State) (h₀ : OnlyRegs R s₀ s)
    (hR : [reg CTL_INT, reg SHR_INT] ⊆ R) : OnlyRegs R s₀ (peerSeen s) := by
  unfold peerSeen
  repeat' first
    | with_reducible assumption
    | exact List.Subset.trans (by decide) hR
    | with_reducible apply OnlyRegs.ite
    | exact covReg (hR (by decide))
    | with_reducible apply bulkSend_only
    | with_reducible apply raise_only
    | with_reducible apply setPair_only

theorem heartbeatIn_only {R : List RegSet} {s₀ : State} (hb : Heartbeat) (s0 : State) (h₀ : OnlyRegs R s₀ s0)
    (hR : [reg CTL_INT, reg EGR_INT, reg EGR_QINT, reg LDG_INT, reg SHR_INT, reg SHR_LEASE_DL, regFam LDG_DROP 8, regRun
      (SHR_PEER_W 0) 4] ⊆ R) : OnlyRegs R s₀ (heartbeatIn hb s0) := by
  unfold heartbeatIn
  repeat' first
    | with_reducible assumption
    | exact List.Subset.trans (by decide) hR
    | with_reducible apply OnlyRegs.ite
    | refine wrWords_only _ _ _ 4 ?_ (by simp) (hR (by decide))
    | with_reducible apply confirmLease_only
    | with_reducible apply hbTriggers_only
    | with_reducible apply dualActive_only
    | with_reducible apply setPair_only
    | with_reducible apply shrCount_only
    | with_reducible apply peerSeen_only

theorem execRxHeartbeat_only {R : List RegSet} {s₀ : State} (l : Fin 2) (h : ShroudHdr) (hb : Heartbeat) (s : State) (h₀ :
    OnlyRegs R s₀ s)
    (hR : [reg CTL_INT, reg EGR_INT, reg EGR_QINT, reg LDG_INT, reg SHR_INT, reg SHR_LEASE_DL, regFam LDG_DROP 8, regRun
      (SHR_PEER_W 0) 4] ⊆ R) : AnswersOnly R s₀ (execRxHeartbeat l h hb s) := by
  unfold execRxHeartbeat
  with_reducible repeat' first
    | exact OnlyRegs.refl _
    | assumption
    | exact List.Subset.trans (by decide) hR
    | (intro _; try dsimp only)
    | apply AnswersOnly.inFull
    | apply AnswersOnly.powered
    | apply AnswersOnly.next
    | apply AnswersOnly.done
    | apply inFull_only
    | apply heartbeatIn_only
    | apply shroudRx_only

theorem linkReset_only {R : List RegSet} {s₀ : State} (l : Nat) (s : State) (h₀ : OnlyRegs R s₀ s) :
    OnlyRegs R s₀ (linkReset l s) := h₀.pass (linkReset_within (L := [.pair, .out]) l s (Within.refl s) (List.Subset.refl _)) (by
      decide)

theorem renewed_only {R : List RegSet} {s₀ : State} (m : ClerkMsg) (ts : Nat) (s : State) (h₀ : OnlyRegs R s₀ s)
    (hR : [reg CTL_INT, reg EGR_INT, reg EGR_QINT, reg LDG_INT, reg SHR_INT, reg SHR_LEASE_DL, reg SHR_LEASE_EPOCH, regFam
      LDG_DROP 8] ⊆ R) : OnlyRegs R s₀ (renewed m ts s) := by
  unfold renewed
  with_reducible repeat' first
    | assumption
    | exact List.Subset.trans (by decide) hR
    | apply OnlyRegs.ite
    | apply takeLease_only
    | apply becomeActive_only

theorem execRxRenewed_only {R : List RegSet} {s₀ : State} (m : ClerkMsg) (s : State) (h₀ : OnlyRegs R s₀ s)
    (hR : [reg CTL_INT, reg EGR_INT, reg EGR_QINT, reg LDG_INT, reg SHR_INT, reg SHR_LEASE_DL, reg SHR_LEASE_EPOCH, regFam
      LDG_DROP 8] ⊆ R) : AnswersOnly R s₀ (execRxRenewed m s) := by
  unfold execRxRenewed
  with_reducible repeat' first
    | exact OnlyRegs.refl _
    | assumption
    | exact List.Subset.trans (by decide) hR
    | (intro _; try dsimp only)
    | apply AnswersOnly.inFull
    | apply AnswersOnly.powered
    | apply AnswersOnly.next
    | apply AnswersOnly.done
    | apply renewed_only
    | apply inFull_only
    | apply clerkReply_only

theorem resyncIn_only {R : List RegSet} {s₀ : State} (d : ResyncData) (s : State) (h₀ : OnlyRegs R s₀ s)
    (hR : [reg CTL_INT, reg MKT_INT, regFam MKT_CLS_BELL 8, regFam MKT_CLS_STAT 8] ⊆ R) : OnlyRegs R s₀ (resyncIn d s) := by
  unfold resyncIn
  try dsimp only
  with_reducible repeat' first
    | exact OnlyRegs.refl _
    | assumption
    | (intro _; try dsimp only)
    | exact Fin.isLt _
    | apply bellWrite_only
    | apply setNest_only
    | apply setPair_only
    | apply OnlyRegs.foldlPoints
    | apply OnlyRegs.foldl
    | split

theorem execRxResyncData_only {R : List RegSet} {s₀ : State} (l : Fin 2) (h : ShroudHdr) (d : ResyncData) (s : State) (h₀ :
    OnlyRegs R s₀ s)
    (hR : [reg CTL_INT, reg MKT_INT, regFam MKT_CLS_BELL 8, regFam MKT_CLS_STAT 8] ⊆ R) : AnswersOnly R s₀ (execRxResyncData l h d
      s) := by
  unfold execRxResyncData
  with_reducible repeat' first
    | exact OnlyRegs.refl _
    | assumption
    | exact List.Subset.trans (by decide) hR
    | (intro _; try dsimp only)
    | apply AnswersOnly.inFull
    | apply AnswersOnly.powered
    | apply AnswersOnly.next
    | apply AnswersOnly.done
    | apply inFull_only
    | apply resyncIn_only
    | apply shroudRx_only

theorem shroudChange_only {R : List RegSet} {s₀ : State} (l : Nat) (up : Bool) (s : State) (h₀ : OnlyRegs R s₀ s)
    (hR : [reg CTL_INT, reg SHR_INT] ⊆ R) : OnlyRegs R s₀ (shroudChange l up s) := by
  unfold shroudChange
  repeat' first
    | with_reducible exact OnlyRegs.refl _
    | with_reducible assumption
    | exact List.Subset.trans (by decide) hR
    | (intro _; try dsimp only)
    | with_reducible apply OnlyRegs.ite
    | exact covReg (hR (by decide))
    | with_reducible apply linkReset_only
    | with_reducible apply shroudSend_only
    | with_reducible apply setShroud_only
    | with_reducible apply bulkSend_only
    | with_reducible apply raise_only
    | with_reducible apply OnlyRegs.foldlPoints
    | with_reducible apply OnlyRegs.foldl

theorem execShroudLinkChange_only {R : List RegSet} {s₀ : State} (l : Fin 2) (up : Bool) (s : State) (h₀ : OnlyRegs R s₀ s)
    (hR : [reg CTL_INT, reg SHR_INT] ⊆ R) : AnswersOnly R s₀ (execShroudLinkChange l up s) := by
  unfold execShroudLinkChange
  with_reducible repeat' first
    | assumption
    | apply OnlyRegs.ite
    | apply AnswersOnly.inFull
    | apply AnswersOnly.powered
    | apply AnswersOnly.next
    | apply AnswersOnly.done
    | apply shroudChange_only

theorem pairStart_only {R : List RegSet} {s₀ : State} (s : State) (h₀ : OnlyRegs R s₀ s) :
    OnlyRegs R s₀ (pairStart s) := h₀.pass (pairStart_within (L := [.pair]) s (Within.refl s) (List.Subset.refl _)) (by decide)

theorem bootRecord_only {R : List RegSet} {s₀ : State} (code : Nat) (sev : Nat) (key : Nat) (s : State) (b_sev : sev < 8) (h₀ :
    OnlyRegs R s₀ s)
    (hR : [reg CTL_INT, reg LDG_INT, regFam LDG_DROP 8] ⊆ R) : OnlyRegs R s₀ (bootRecord code sev key s) := by
  unfold bootRecord
  with_reducible repeat' first
    | assumption
    | apply logEvent_only

theorem writeRec_only {R : List RegSet} {s₀ : State} (f : BootRec → BootRec) (s : State) (h₀ : OnlyRegs R s₀ s) :
    OnlyRegs R s₀ (writeRec f s) := h₀.pass (writeRec_within (L := [.boot]) f s (Within.refl s) (List.Subset.refl _)) (by decide)

theorem botEnd_only {R : List RegSet} {s₀ : State} (result : Nat) (s : State) (h₀ : OnlyRegs R s₀ s)
    (hR : [reg BOT_CMD_STAT, reg BOT_INT, reg CTL_INT] ⊆ R) : OnlyRegs R s₀ (botEnd result s) := by
  unfold botEnd
  repeat' first
    | with_reducible assumption
    | exact List.Subset.trans (by decide) hR
    | exact covReg (hR (by decide))
    | with_reducible apply wr_only
    | with_reducible apply raise_only

theorem actDone_only {R : List RegSet} {s₀ : State} (kind : Nat) (s : State) (h₀ : OnlyRegs R s₀ s)
    (hR : [reg BOT_CMD_STAT, reg BOT_INT, reg CTL_INT, reg LDG_INT, regFam LDG_DROP 8] ⊆ R) : OnlyRegs R s₀ (actDone kind s) := by
  unfold actDone
  repeat' first
    | exact List.Subset.trans (by decide) hR
    | exact covReg (hR (by decide))
    | (show (_ : Nat) < _; decide)
    | with_reducible apply bootRecord_only
    | with_reducible apply writeRec_only
    | with_reducible apply botEnd_only
    | with_reducible apply raise_only
    | with_reducible apply OnlyRegs.foldlPoints
    | (with_reducible apply OnlyRegs.lit; first | with_reducible assumption)

theorem flushQueues_only {R : List RegSet} {s₀ : State} (s : State) (h₀ : OnlyRegs R s₀ s) :
    OnlyRegs R s₀ (flushQueues s) := h₀.pass (flushQueues_within (L := [.egr]) s (Within.refl s) (List.Subset.refl _)) (by decide)

theorem closeTabs_only {R : List RegSet} {s₀ : State} (s : State) (h₀ : OnlyRegs R s₀ s)
    (hR : [reg CTL_INT, reg EGR_ALSEQ, reg EGR_INT, reg EGR_QINT, reg LDG_INT, reg MKT_INT, reg MKT_TW_STAT, reg MST_INT, reg
      NST_ISL_SUSP, reg NST_ISL_THR, reg NST_OSC_INT, reg NST_THR_FAST, reg NST_TOP_INT, reg SHR_INT, regFam LDG_DROP 8, regRun
      (NST_SPLIT_W 0) 4] ⊆ R) : OnlyRegs R s₀ (closeTabs s) := by
  unfold closeTabs
  with_reducible repeat' first
    | assumption
    | (intro _; try dsimp only)
    | apply closeSection_only
    | apply sealSection_only
    | apply OnlyRegs.foldlPoints
    | (apply OnlyRegs.lit; first | exact OnlyRegs.refl _ | assumption | apply OnlyRegs.foldl | apply OnlyRegs.forUpTo)
    | split

theorem capTrunc_only {R : List RegSet} {s₀ : State} (s : State) (h₀ : OnlyRegs R s₀ s)
    (hR : [reg CAP_INT, reg CTL_INT] ⊆ R) : OnlyRegs R s₀ (capTrunc s) := by
  unfold capTrunc
  with_reducible repeat' first
    | assumption
    | apply endRecord_only
    | apply OnlyRegs.foldlPoints
    | split

theorem silence_only {R : List RegSet} {s₀ : State} (s : State) (h₀ : OnlyRegs R s₀ s)
    (hR : [reg CAP_INT, reg CTL_INT, reg CTL_RESTART_INFO, reg EGR_ALSEQ, reg EGR_INT, reg EGR_QINT, reg LDG_CLR_STAT, reg
      LDG_INT, reg LDG_RD_STAT, reg MKT_INT, reg MKT_TW_STAT, reg MST_INT, reg NST_ISL_SUSP, reg NST_ISL_THR, reg NST_OSC_INT, reg
      NST_THR_FAST, reg NST_TOP_INT, reg SCL_EN_INT, reg SCL_EN_SAVE, reg SCL_EN_SAVE_STAT, reg SHR_INT, regFam LDG_DROP 8, regFam
      PT_STAT 8, regRun (NST_SPLIT_W 0) 4, ⟨LDG_REFUSED 0, 4, 0, 1⟩] ⊆ R) : OnlyRegs R s₀ (silence s) := by
  unfold silence
  with_reducible repeat' first
    | assumption
    | exact List.Subset.trans (by decide) hR
    | (intro _; try dsimp only)
    | apply ownSave_only
    | apply leaseRelease_only
    | apply baselineSave_only
    | apply endPoint_only
    | apply flushQueues_only
    | apply closeTabs_only
    | apply deckRestart_only
    | apply flushRun_only
    | apply capTrunc_only
    | apply updateNodeOk_only
    | apply OnlyRegs.foldlPoints
    | (apply OnlyRegs.lit; first | exact OnlyRegs.refl _ | apply OnlyRegs.ite | apply flushQueues_only)

theorem botBusy_only {R : List RegSet} {s₀ : State} (s : State) (h₀ : OnlyRegs R s₀ s)
    (hR : [reg BOT_CMD_STAT] ⊆ R) : OnlyRegs R s₀ (botBusy s) := by
  unfold botBusy
  repeat' first
    | with_reducible assumption
    | exact covReg (hR (by decide))
    | with_reducible apply wr_only

theorem actStart_only {R : List RegSet} {s₀ : State} (kind : Nat) (b : Nat) (s : State) (h₀ : OnlyRegs R s₀ s)
    (hR : [reg BOT_CMD_STAT, reg CAP_INT, reg CTL_INT, reg CTL_RESTART_INFO, reg EGR_ALSEQ, reg EGR_INT, reg EGR_QINT, reg
      LDG_CLR_STAT, reg LDG_INT, reg LDG_RD_STAT, reg MKT_INT, reg MKT_TW_STAT, reg MST_INT, reg NST_ISL_SUSP, reg NST_ISL_THR, reg
      NST_OSC_INT, reg NST_THR_FAST, reg NST_TOP_INT, reg SCL_EN_INT, reg SCL_EN_SAVE, reg SCL_EN_SAVE_STAT, reg SHR_INT, regFam
      LDG_DROP 8, regFam PT_STAT 8, regRun (NST_SPLIT_W 0) 4, ⟨LDG_REFUSED 0, 4, 0, 1⟩] ⊆ R) : OnlyRegs R s₀ (actStart kind b s) :=
      by
  unfold actStart
  with_reducible repeat' first
    | exact List.Subset.trans (by decide) hR
    | apply deckRestart_only
    | apply silence_only
    | apply botBusy_only
    | apply OnlyRegs.foldlPoints
    | (apply OnlyRegs.lit; first | assumption | apply OnlyRegs.ite)

theorem setBank_only {R : List RegSet} {s₀ : State} (b : Nat) (st : BankState) (s : State) (h₀ : OnlyRegs R s₀ s)
    (hR : [reg BOT_INT, reg CTL_INT] ⊆ R) : OnlyRegs R s₀ (setBank b st s) := by
  unfold setBank
  repeat' first
    | with_reducible assumption
    | exact List.Subset.trans (by decide) hR
    | with_reducible apply OnlyRegs.ite
    | exact covReg (hR (by decide))
    | with_reducible apply writeRec_only
    | with_reducible apply raise_only

theorem rejectBank_only {R : List RegSet} {s₀ : State} (b : Nat) (code : Nat) (s : State) (h₀ : OnlyRegs R s₀ s)
    (hR : [reg BOT_INT, reg CTL_INT, reg LDG_INT, regFam LDG_DROP 8] ⊆ R) : OnlyRegs R s₀ (rejectBank b code s) := by
  unfold rejectBank
  with_reducible repeat' first
    | assumption
    | exact List.Subset.trans (by decide) hR
    | (show (_ : Nat) < _; decide)
    | apply setBank_only
    | apply bootRecord_only

theorem activate_only {R : List RegSet} {s₀ : State} (full : Bool) (b : Nat) (force : Bool) (c : BankCheck) (s : State) (h₀ :
    OnlyRegs R s₀ s)
    (hR : [reg BOT_CMD_STAT, reg BOT_INT, reg CAP_INT, reg CTL_INT, reg CTL_RESTART_INFO, reg EGR_ALSEQ, reg EGR_INT, reg
      EGR_QINT, reg LDG_CLR_STAT, reg LDG_INT, reg LDG_RD_STAT, reg MKT_INT, reg MKT_TW_STAT, reg MST_INT, reg NST_ISL_SUSP, reg
      NST_ISL_THR, reg NST_OSC_INT, reg NST_THR_FAST, reg NST_TOP_INT, reg SCL_EN_INT, reg SCL_EN_SAVE, reg SCL_EN_SAVE_STAT, reg
      SHR_INT, regFam LDG_DROP 8, regFam PT_STAT 8, regRun (NST_SPLIT_W 0) 4, ⟨LDG_REFUSED 0, 4, 0, 1⟩] ⊆ R) : OnlyRegs R s₀
      (activate full b force c s).2 := by
  unfold activate
  try dsimp only
  with_reducible repeat' first
    | assumption
    | exact List.Subset.trans (by decide) hR
    | apply actStart_only
    | apply rejectBank_only
    | apply OnlyRegs.foldlPoints
    | split

theorem revertStart_only {R : List RegSet} {s₀ : State} (kind : Nat) (b : Nat) (s : State) (h₀ : OnlyRegs R s₀ s)
    (hR : [reg CAP_INT, reg CTL_INT, reg CTL_RESTART_INFO, reg EGR_ALSEQ, reg EGR_INT, reg EGR_QINT, reg LDG_CLR_STAT, reg
      LDG_INT, reg LDG_RD_STAT, reg MKT_INT, reg MKT_TW_STAT, reg MST_INT, reg NST_ISL_SUSP, reg NST_ISL_THR, reg NST_OSC_INT, reg
      NST_THR_FAST, reg NST_TOP_INT, reg SCL_EN_INT, reg SCL_EN_SAVE, reg SCL_EN_SAVE_STAT, reg SHR_INT, regFam LDG_DROP 8, regFam
      PT_STAT 8, regRun (NST_SPLIT_W 0) 4, ⟨LDG_REFUSED 0, 4, 0, 1⟩] ⊆ R) : OnlyRegs R s₀ (revertStart kind b s) := by
  unfold revertStart
  with_reducible repeat' first
    | exact List.Subset.trans (by decide) hR
    | apply deckRestart_only
    | apply silence_only
    | apply OnlyRegs.foldlPoints
    | (apply OnlyRegs.lit; first | assumption | apply OnlyRegs.ite)

theorem relink_only {R : List RegSet} {s₀ : State} (s : State) (t : State) (h₀ : OnlyRegs R s₀ t)
    (hR : [reg CTL_INT, regFam PRT_INT 64] ⊆ R) : OnlyRegs R s₀ (relink s t) := by
  unfold relink
  with_reducible repeat' first
    | exact OnlyRegs.refl _
    | assumption
    | (intro _; try dsimp only)
    | apply OnlyRegs.ite
    | apply linkChange_only
    | apply OnlyRegs.foldlPoints
    | apply OnlyRegs.forUpTo

theorem startOuts_only {R : List RegSet} {s₀ : State} (s : State) (h₀ : OnlyRegs R s₀ s) :
    OnlyRegs R s₀ (startOuts s) := h₀.pass (startOuts_within (L := [.egr]) s (Within.refl s) (List.Subset.refl _)) (by decide)

theorem shedEffect_only {R : List RegSet} {s₀ : State} (k : Nat) (on : Bool) (s : State) (h₀ : OnlyRegs R s₀ s)
    (hR : [reg CTL_INT, reg EGR_ALSEQ, reg EGR_INT, reg EGR_QINT, reg LDG_INT, reg MKT_INT, reg MKT_TW_STAT, reg MST_INT, reg
      NST_ISL_SUSP, reg NST_ISL_THR, reg NST_OSC_INT, reg NST_THR_FAST, reg NST_TOP_INT, reg PAK_INT, reg SHR_INT, regFam LDG_DROP
      8, regRun (NST_SPLIT_W 0) 4] ⊆ R) : OnlyRegs R s₀ (shedEffect k on s) := by
  unfold shedEffect
  repeat' first
    | with_reducible assumption
    | exact List.Subset.trans (by decide) hR
    | with_reducible apply OnlyRegs.ite
    | exact covReg (hR (by decide))
    | with_reducible apply capShed_only
    | with_reducible apply setPak_only
    | with_reducible apply fastShed_only
    | with_reducible apply fastRestart_only
    | with_reducible apply revisionShed_only
    | with_reducible apply raise_only

theorem shedAgain_only {R : List RegSet} {s₀ : State} (s : State) (h₀ : OnlyRegs R s₀ s)
    (hR : [reg CTL_INT, reg EGR_ALSEQ, reg EGR_INT, reg EGR_QINT, reg LDG_INT, reg MKT_INT, reg MKT_TW_STAT, reg MST_INT, reg
      NST_ISL_SUSP, reg NST_ISL_THR, reg NST_OSC_INT, reg NST_THR_FAST, reg NST_TOP_INT, reg PAK_INT, reg SHR_INT, regFam LDG_DROP
      8, regRun (NST_SPLIT_W 0) 4] ⊆ R) : OnlyRegs R s₀ (shedAgain s) := by
  unfold shedAgain
  with_reducible repeat' first
    | exact OnlyRegs.refl _
    | assumption
    | (intro _; try dsimp only)
    | apply OnlyRegs.ite
    | apply shedEffect_only
    | apply OnlyRegs.foldlPoints
    | apply OnlyRegs.foldl

theorem startDataPath_only {R : List RegSet} {s₀ : State} (resume : Bool) (s : State) (h₀ : OnlyRegs R s₀ s)
    (hR : [reg CTL_INT, reg EGR_ALSEQ, reg EGR_INT, reg EGR_QINT, reg LDG_INT, reg MKT_INT, reg MKT_RIB_SPAN, reg MKT_TW_STAT, reg
      MST_INT, reg NST_ISL_SUSP, reg NST_ISL_THR, reg NST_OSC_INT, reg NST_SEED_STAT, reg NST_THR_FAST, reg NST_TOP_INT, reg
      PAK_INT, reg SCL_CAL_PEND, reg SCL_CAL_STAT, reg SCL_STATUS, reg SHR_INT, regFam LDG_DROP 8, regFam MKT_CLS_BELL 8, regFam
      SCL_CH_FDLY 24, regFam SCL_CH_STAT 24, regRun (NST_SPLIT_W 0) 4, regRun MKT_RIB_OLD_LO 2] ⊆ R) : OnlyRegs R s₀ (startDataPath
      resume s) := by
  unfold startDataPath
  try dsimp only
  with_reducible repeat' first
    | exact List.Subset.trans (by decide) hR
    | apply startOuts_only
    | apply marketStart_only
    | apply nestStart_only
    | apply capStart_only
    | apply shedAgain_only
    | apply scalesStart_only
    | apply OnlyRegs.foldlPoints
    | (apply OnlyRegs.lit; first | assumption)

theorem carryPubs_only {R : List RegSet} {s₀ : State} (old : List (Nat × PubCfg)) (s : State) (h₀ : OnlyRegs R s₀ s) :
    OnlyRegs R s₀ (carryPubs old s) := h₀.pass (carryPubs_within (L := [.egr]) old s (Within.refl s) (List.Subset.refl _)) (by decide)

theorem deriveDomains_only {R : List RegSet} {s₀ : State} (old : List DomainCfg) (s : State) (h₀ : OnlyRegs R s₀ s) :
    OnlyRegs R s₀ (deriveDomains old s) := h₀.pass (deriveDomains_within (L := [.till]) old s (Within.refl s) (List.Subset.refl
      _)) (by decide)

theorem mastConfig_only {R : List RegSet} {s₀ : State} (old : Word) (s : State) (h₀ : OnlyRegs R s₀ s)
    (hR : [reg CTL_INT, reg MST_INT] ⊆ R) : OnlyRegs R s₀ (mastConfig old s) := by
  unfold mastConfig
  with_reducible repeat' first
    | assumption
    | apply updateHoldExc_only
    | apply cycLeave_only
    | apply OnlyRegs.foldlPoints
    | (apply OnlyRegs.lit; first | assumption | apply OnlyRegs.ite | apply updateHoldExc_only | apply cycLeave_only)

theorem phyDefault_only {R : List RegSet} {s₀ : State} (s : State) (p : Nat) (b_p : p < 64) (h₀ : OnlyRegs R s₀ s)
    (hR : [regFam PRT_EEE 64] ⊆ R) : OnlyRegs R s₀ (phyDefault s p) := by
  unfold phyDefault
  repeat' first
    | with_reducible assumption
    | exact List.Subset.trans (by decide) hR
    | with_reducible apply OnlyRegs.ite
    | refine covFam (n := 64) (hR (by decide)) (fun i => by simp only [PRT_EEE]) ?_
    | with_reducible apply wrF_only

theorem imageDefaults_only {R : List RegSet} {s₀ : State} (launch : Bool) (s : State) (h₀ : OnlyRegs R s₀ s)
    (hR : [reg CAL_CFG, reg ING_CFG, reg LDG_CFG, reg PWR_CTRL, reg SCL_EN_SAVE, regFam PRT_EEE 64] ⊆ R) : OnlyRegs R s₀
      (imageDefaults launch s) := by
  unfold imageDefaults
  repeat' first
    | with_reducible exact OnlyRegs.refl _
    | with_reducible assumption
    | exact List.Subset.trans (by decide) hR
    | (intro _; try dsimp only)
    | with_reducible apply OnlyRegs.ite
    | exact covReg (hR (by decide))
    | with_reducible apply setStat_only
    | with_reducible apply phyDefault_only
    | with_reducible apply wrF_only
    | with_reducible apply wr_only
    | with_reducible apply OnlyRegs.foldlPoints
    | with_reducible apply OnlyRegs.forUpTo

theorem meteringOn_only {R : List RegSet} {s₀ : State} (s : State) (h₀ : OnlyRegs R s₀ s)
    (hR : [reg SCL_EN_STATUS] ⊆ R) : OnlyRegs R s₀ (meteringOn s) := by
  unfold meteringOn
  repeat' first
    | with_reducible assumption
    | exact List.Subset.trans (by decide) hR
    | exact covReg (hR (by decide))
    | with_reducible apply setEnergy_only
    | with_reducible apply wrF_only

theorem revertDone_only {R : List RegSet} {s₀ : State} (s : State) (h₀ : OnlyRegs R s₀ s)
    (hR : [reg BOT_INT, reg CTL_INT, reg LDG_INT, regFam LDG_DROP 8] ⊆ R) : OnlyRegs R s₀ (revertDone s) := by
  unfold revertDone
  repeat' first
    | exact List.Subset.trans (by decide) hR
    | exact covReg (hR (by decide))
    | (show (_ : Nat) < _; decide)
    | with_reducible apply bootRecord_only
    | with_reducible apply raise_only
    | with_reducible apply OnlyRegs.foldlPoints
    | (with_reducible apply OnlyRegs.lit; first | with_reducible assumption)

theorem trialReject_only {R : List RegSet} {s₀ : State} (s : State) (h₀ : OnlyRegs R s₀ s)
    (hR : [reg BOT_INT, reg CTL_INT, reg LDG_INT, regFam LDG_DROP 8] ⊆ R) : OnlyRegs R s₀ (trialReject s) := by
  unfold trialReject
  repeat' first
    | with_reducible assumption
    | exact List.Subset.trans (by decide) hR
    | exact covReg (hR (by decide))
    | (show (_ : Nat) < _; decide)
    | with_reducible apply bootRecord_only
    | with_reducible apply writeRec_only
    | with_reducible apply raise_only

theorem bootDeckFailed_only {R : List RegSet} {s₀ : State} (s : State) (h₀ : OnlyRegs R s₀ s)
    (hR : [reg BOT_CMD_STAT, reg BOT_INT, reg CAP_INT, reg CTL_INT, reg CTL_RESTART_INFO, reg EGR_ALSEQ, reg EGR_INT, reg
      EGR_QINT, reg LDG_CLR_STAT, reg LDG_INT, reg LDG_RD_STAT, reg MKT_INT, reg MKT_TW_STAT, reg MST_INT, reg NST_ISL_SUSP, reg
      NST_ISL_THR, reg NST_OSC_INT, reg NST_THR_FAST, reg NST_TOP_INT, reg SCL_EN_INT, reg SCL_EN_SAVE, reg SCL_EN_SAVE_STAT, reg
      SHR_INT, regFam LDG_DROP 8, regFam PT_STAT 8, regRun (NST_SPLIT_W 0) 4, ⟨LDG_REFUSED 0, 4, 0, 1⟩] ⊆ R) : OnlyRegs R s₀
      (bootDeckFailed s) := by
  unfold bootDeckFailed
  with_reducible repeat' first
    | assumption
    | exact List.Subset.trans (by decide) hR
    | apply OnlyRegs.ite
    | apply rejectBank_only
    | apply revertStart_only
    | apply botEnd_only
    | apply trialReject_only

theorem bootDeckRun_only {R : List RegSet} {s₀ : State} (s : State) (h₀ : OnlyRegs R s₀ s)
    (hR : [reg BOT_CMD_STAT, reg BOT_INT, reg CTL_INT, reg EGR_INT, reg EGR_QINT, reg LDG_INT, regFam LDG_DROP 8] ⊆ R) : OnlyRegs
      R s₀ (bootDeckRun s) := by
  unfold bootDeckRun
  with_reducible repeat' first
    | assumption
    | exact List.Subset.trans (by decide) hR
    | apply OnlyRegs.ite
    | apply clerkRenew_only
    | apply actDone_only
    | apply revertDone_only
    | apply updateNodeOk_only

theorem bootLoadCode_only {R : List RegSet} {s₀ : State} (s : State) (h₀ : OnlyRegs R s₀ s) :
    OnlyRegs R s₀ (bootLoadCode s) := h₀.pass (bootLoadCode_within (L := [.till, .cfg]) s (Within.refl s) (List.Subset.refl _))
      (by decide)

theorem botRefuse_only {R : List RegSet} {s₀ : State} (result : Nat) (s : State) (h₀ : OnlyRegs R s₀ s)
    (hR : [reg BOT_CMD_STAT] ⊆ R) : OnlyRegs R s₀ (botRefuse result s) := by
  unfold botRefuse
  repeat' first
    | with_reducible assumption
    | exact List.Subset.trans (by decide) hR
    | exact covReg (hR (by decide))
    | with_reducible apply wrF_only

theorem jobStartBank_only {R : List RegSet} {s₀ : State} (erase : Bool) (b : Nat) (svc : Option Word) (s : State) (h₀ : OnlyRegs R
    s₀ s) :
    OnlyRegs R s₀ (jobStartBank erase b svc s) := h₀.pass (jobStartBank_within (L := [.boot]) erase b svc s (Within.refl s)
      (List.Subset.refl _)) (by decide)

theorem restoreCache_only {R : List RegSet} {s₀ : State} (s : State) (h₀ : OnlyRegs R s₀ s) :
    OnlyRegs R s₀ (restoreCache s) := h₀.pass (restoreCache_within (L := [.till]) s (Within.refl s) (List.Subset.refl _)) (by decide)

theorem bootBank_only {R : List RegSet} {s₀ : State} (i : StartInputs) (s : State) (h₀ : OnlyRegs R s₀ s)
    (hR : [reg BOT_INT, reg CTL_INT, reg LDG_INT, regFam LDG_DROP 8] ⊆ R) : OnlyRegs R s₀ (bootBank i s).2 := by
  unfold bootBank
  try dsimp only
  repeat' first
    | exact List.Subset.trans (by decide) hR
    | exact covReg (hR (by decide))
    | (show (_ : Nat) < _; decide)
    | with_reducible apply setBank_only
    | with_reducible apply bootRecord_only
    | with_reducible apply rejectBank_only
    | with_reducible apply writeRec_only
    | with_reducible apply raise_only
    | with_reducible apply OnlyRegs.foldlPoints
    | (with_reducible apply OnlyRegs.lit; first | with_reducible assumption | with_reducible apply rejectBank_only)
    | split

theorem enterRecovery_only {R : List RegSet} {s₀ : State} (why : Nat) (s : State) (h₀ : OnlyRegs R s₀ s)
    (hR : [reg CTL_INT, reg LDG_INT, regFam LDG_DROP 8] ⊆ R) : OnlyRegs R s₀ (enterRecovery why s) := by
  unfold enterRecovery
  with_reducible repeat' first
    | assumption
    | (show (_ : Nat) < _; decide)
    | apply bootRecord_only
    | apply writeRec_only
    | apply OnlyRegs.foldlPoints
    | (apply OnlyRegs.lit; first | assumption)

theorem lastWordsReport_only {R : List RegSet} {s₀ : State} (s : State) (h₀ : OnlyRegs R s₀ s)
    (hR : [reg CTL_INT, reg LDG_INT, regFam LDG_DROP 8] ⊆ R) : OnlyRegs R s₀ (lastWordsReport s) := by
  unfold lastWordsReport
  with_reducible repeat' first
    | assumption
    | (show (_ : Nat) < _; decide)
    | apply logEvent_only
    | apply OnlyRegs.foldlPoints
    | split

theorem restoreCounts_only {R : List RegSet} {s₀ : State} (s : State) (h₀ : OnlyRegs R s₀ s) :
    OnlyRegs R s₀ (restoreCounts s) := h₀.pass (restoreCounts_within (L := [.ledger]) s (Within.refl s) (List.Subset.refl _)) (by
      decide)

theorem ledgerStart_only {R : List RegSet} {s₀ : State} (code : Nat) (ofs : Word) (s : State) (h₀ : OnlyRegs R s₀ s)
    (hR : [reg CTL_INT, reg EGR_INT, reg EGR_QINT, reg LDG_CLR_STAT, reg LDG_INT, reg LDG_RD_STAT, regFam LDG_DROP 8, regFam
      LDG_REFUSED 8, ⟨LDG_REFUSED 0, 4, 0, 1⟩] ⊆ R) : OnlyRegs R s₀ (ledgerStart code ofs s) := by
  unfold ledgerStart
  with_reducible repeat' first
    | assumption
    | exact List.Subset.trans (by decide) hR
    | apply OnlyRegs.ite
    | apply lastWordsReport_only
    | apply clearFinish_only
    | apply ledgerFail_only
    | apply restoreCounts_only

theorem tillKeys_only {R : List RegSet} {s₀ : State} (fcalOk : Bool) (s : State) (h₀ : OnlyRegs R s₀ s)
    (hR : [reg CTL_INT, reg LDG_INT, reg SCL_EN_STATUS, reg SCL_FCAL_STAT, reg SCL_INT, reg SCL_STATUS, regFam LDG_DROP 8] ⊆ R) :
      OnlyRegs R s₀ (tillKeys fcalOk s) := by
  unfold tillKeys
  repeat' first
    | exact List.Subset.trans (by decide) hR
    | exact covReg (hR (by decide))
    | (show (_ : Nat) < _; decide)
    | with_reducible apply setStat_only
    | with_reducible apply logEvent_only
    | with_reducible apply restoreCache_only
    | with_reducible apply deriveDomains_only
    | with_reducible apply raise_only
    | with_reducible apply OnlyRegs.foldlPoints
    | (with_reducible apply OnlyRegs.lit; first | with_reducible assumption | with_reducible apply OnlyRegs.ite | with_reducible apply restoreCache_only)

theorem startBlocks_only {R : List RegSet} {s₀ : State} (s : State) (h₀ : OnlyRegs R s₀ s)
    (hR : [reg CTL_INT, reg EGR_ALSEQ, reg EGR_INT, reg EGR_QINT, reg LDG_INT, reg MKT_INT, reg MKT_RIB_SPAN, reg MKT_TW_STAT, reg
      MST_INT, reg NST_ISL_SUSP, reg NST_ISL_THR, reg NST_OSC_INT, reg NST_SEED_STAT, reg NST_THR_FAST, reg NST_TOP_INT, reg
      PAK_INT, reg SCL_CAL_PEND, reg SCL_CAL_STAT, reg SCL_EN_SAVE_STAT, reg SCL_EN_STATUS, reg SCL_STATUS, reg SHR_INT, regFam
      LDG_DROP 8, regFam MKT_CLS_BELL 8, regFam SCL_CH_FDLY 24, regFam SCL_CH_STAT 24, regRun (NST_SPLIT_W 0) 4, regRun
      MKT_RIB_OLD_LO 2] ⊆ R) : OnlyRegs R s₀ (startBlocks s) := by
  unfold startBlocks
  try dsimp only
  with_reducible repeat' first
    | exact List.Subset.trans (by decide) hR
    | apply startDataPath_only
    | apply energyRestore_only
    | apply pairStart_only
    | apply meteringOn_only
    | apply OnlyRegs.foldlPoints
    | (apply OnlyRegs.lit; first | assumption)

theorem sentryReports_only {R : List RegSet} {s₀ : State} (s : State) (h₀ : OnlyRegs R s₀ s)
    (hR : [reg CTL_INT, reg LDG_INT, regFam LDG_DROP 8] ⊆ R) : OnlyRegs R s₀ (sentryReports s) := by
  unfold sentryReports
  with_reducible repeat' first
    | assumption
    | (show (_ : Nat) < _; decide)
    | apply logEvent_only
    | apply OnlyRegs.foldlPoints
    | (apply OnlyRegs.lit; first | apply OnlyRegs.ite)

theorem sealedStart_only {R : List RegSet} {s₀ : State} (p : PenegImage) (s : State) (h₀ : OnlyRegs R s₀ s)
    (hR : [reg CTL_INT, reg LDG_INT, regFam LDG_DROP 8] ⊆ R) : OnlyRegs R s₀ (sealedStart p s) := by
  unfold sealedStart
  with_reducible repeat' first
    | assumption
    | (show (_ : Nat) < _; decide)
    | apply logEvent_only
    | apply OnlyRegs.foldlPoints
    | (apply OnlyRegs.lit; first | assumption)

theorem trialBoot_only {R : List RegSet} {s₀ : State} (s : State) (h₀ : OnlyRegs R s₀ s)
    (hR : [reg BOT_INT, reg CTL_INT, reg LDG_INT, regFam LDG_DROP 8] ⊆ R) : OnlyRegs R s₀ (trialBoot s) := by
  unfold trialBoot
  with_reducible repeat' first
    | assumption
    | apply OnlyRegs.ite
    | apply trialReject_only

theorem tillBoot_only {R : List RegSet} {s₀ : State} (i : StartInputs) (s : State) (h₀ : OnlyRegs R s₀ s) :
    OnlyRegs R s₀ (tillBoot i s) := h₀.pass (tillBoot_within (L := [.till]) i s (Within.refl s) (List.Subset.refl _)) (by decide)

theorem logService_only {R : List RegSet} {s₀ : State} (cmd : Nat) (status : Nat) (s : State) (h₀ : OnlyRegs R s₀ s) :
    OnlyRegs R s₀ (logService cmd status s) := h₀.pass (logService_within (L := [.boot]) cmd status s (Within.refl s)
      (List.Subset.refl _)) (by decide)

theorem jobEnd_only {R : List RegSet} {s₀ : State} (cmd : Nat) (result : Nat) (j : BankJob) (s : State) (h₀ : OnlyRegs R s₀ s)
    (hR : [reg BOT_CMD_STAT, reg BOT_INT, reg CTL_INT] ⊆ R) : OnlyRegs R s₀ (jobEnd cmd result j s) := by
  unfold jobEnd
  with_reducible repeat' first
    | assumption
    | apply botEnd_only
    | apply logService_only
    | apply svcReply_only
    | apply OnlyRegs.foldlPoints
    | (apply OnlyRegs.lit; first | assumption)
    | split

theorem bankEraseDone_only {R : List RegSet} {s₀ : State} (s : State) (h₀ : OnlyRegs R s₀ s)
    (hR : [reg BOT_CMD_STAT, reg BOT_INT, reg CTL_INT] ⊆ R) : OnlyRegs R s₀ (bankEraseDone s) := by
  unfold bankEraseDone
  with_reducible repeat' first
    | exact List.Subset.trans (by decide) hR
    | apply setBank_only
    | apply jobEnd_only
    | apply OnlyRegs.foldlPoints
    | (apply OnlyRegs.lit; first | assumption)
    | split

theorem bankVerifyDone_only {R : List RegSet} {s₀ : State} (c : BankCheck) (img : Option PenegImage) (s : State) (h₀ : OnlyRegs R
    s₀ s)
    (hR : [reg BOT_CMD_STAT, reg BOT_INT, reg CTL_INT, reg LDG_INT, regFam LDG_DROP 8] ⊆ R) : OnlyRegs R s₀ (bankVerifyDone c img
      s) := by
  unfold bankVerifyDone
  with_reducible repeat' first
    | exact List.Subset.trans (by decide) hR
    | apply setBank_only
    | apply rejectBank_only
    | apply jobEnd_only
    | apply OnlyRegs.foldlPoints
    | (apply OnlyRegs.lit; first | assumption)
    | split

theorem botActivate_only {R : List RegSet} {s₀ : State} (full : Bool) (b : Nat) (force : Bool) (c : BankCheck) (s : State) (h₀ :
    OnlyRegs R s₀ s)
    (hR : [reg BOT_CMD_STAT, reg BOT_INT, reg CAP_INT, reg CTL_INT, reg CTL_RESTART_INFO, reg EGR_ALSEQ, reg EGR_INT, reg
      EGR_QINT, reg LDG_CLR_STAT, reg LDG_INT, reg LDG_RD_STAT, reg MKT_INT, reg MKT_TW_STAT, reg MST_INT, reg NST_ISL_SUSP, reg
      NST_ISL_THR, reg NST_OSC_INT, reg NST_THR_FAST, reg NST_TOP_INT, reg SCL_EN_INT, reg SCL_EN_SAVE, reg SCL_EN_SAVE_STAT, reg
      SHR_INT, regFam LDG_DROP 8, regFam PT_STAT 8, regRun (NST_SPLIT_W 0) 4, ⟨LDG_REFUSED 0, 4, 0, 1⟩] ⊆ R) : OnlyRegs R s₀
      (botActivate full b force c s) := by
  unfold botActivate
  with_reducible repeat' first
    | assumption
    | exact List.Subset.trans (by decide) hR
    | apply OnlyRegs.ite
    | apply activate_only
    | apply botRefuse_only
    | apply botEnd_only

theorem botJob_only {R : List RegSet} {s₀ : State} (erase : Bool) (b : Nat) (s : State) (h₀ : OnlyRegs R s₀ s)
    (hR : [reg BOT_CMD_STAT, reg BOT_INT, reg CTL_INT] ⊆ R) : OnlyRegs R s₀ (botJob erase b s) := by
  unfold botJob
  with_reducible repeat' first
    | assumption
    | exact List.Subset.trans (by decide) hR
    | apply OnlyRegs.ite
    | apply jobStartBank_only
    | apply botBusy_only
    | apply botRefuse_only
    | apply botEnd_only

theorem execActivateFull_only {R : List RegSet} {s₀ : State} (who : Req) (bank : Fin 2) (force : Bool) (check : BankCheck) (s :
    State) (h₀ : OnlyRegs R s₀ s)
    (hR : [reg BOT_CMD_STAT, reg BOT_INT, reg CAP_INT, reg CTL_INT, reg CTL_RESTART_INFO, reg EGR_ALSEQ, reg EGR_INT, reg
      EGR_QINT, reg LDG_CLR_STAT, reg LDG_INT, reg LDG_RD_STAT, reg MKT_INT, reg MKT_TW_STAT, reg MST_INT, reg NST_ISL_SUSP, reg
      NST_ISL_THR, reg NST_OSC_INT, reg NST_THR_FAST, reg NST_TOP_INT, reg SCL_EN_INT, reg SCL_EN_SAVE, reg SCL_EN_SAVE_STAT, reg
      SHR_INT, regFam LDG_DROP 8, regFam PT_STAT 8, regRun (NST_SPLIT_W 0) 4, ⟨LDG_REFUSED 0, 4, 0, 1⟩] ⊆ R) : AnswersOnly R s₀
      (execActivateFull who bank force check s) := by
  unfold execActivateFull
  with_reducible repeat' first
    | exact OnlyRegs.refl _
    | assumption
    | exact List.Subset.trans (by decide) hR
    | (intro _; try dsimp only)
    | apply AnswersOnly.inFull
    | apply AnswersOnly.powered
    | apply AnswersOnly.next
    | apply AnswersOnly.done
    | apply botActivate_only
    | apply serve_only

theorem execActivateFw_only {R : List RegSet} {s₀ : State} (who : Req) (bank : Fin 2) (force : Bool) (check : BankCheck) (s :
    State) (h₀ : OnlyRegs R s₀ s)
    (hR : [reg BOT_CMD_STAT, reg BOT_INT, reg CAP_INT, reg CTL_INT, reg CTL_RESTART_INFO, reg EGR_ALSEQ, reg EGR_INT, reg
      EGR_QINT, reg LDG_CLR_STAT, reg LDG_INT, reg LDG_RD_STAT, reg MKT_INT, reg MKT_TW_STAT, reg MST_INT, reg NST_ISL_SUSP, reg
      NST_ISL_THR, reg NST_OSC_INT, reg NST_THR_FAST, reg NST_TOP_INT, reg SCL_EN_INT, reg SCL_EN_SAVE, reg SCL_EN_SAVE_STAT, reg
      SHR_INT, regFam LDG_DROP 8, regFam PT_STAT 8, regRun (NST_SPLIT_W 0) 4, ⟨LDG_REFUSED 0, 4, 0, 1⟩] ⊆ R) : AnswersOnly R s₀
      (execActivateFw who bank force check s) := by
  unfold execActivateFw
  with_reducible repeat' first
    | exact OnlyRegs.refl _
    | assumption
    | exact List.Subset.trans (by decide) hR
    | (intro _; try dsimp only)
    | apply AnswersOnly.inFull
    | apply AnswersOnly.powered
    | apply AnswersOnly.next
    | apply AnswersOnly.done
    | apply botActivate_only
    | apply serve_only

theorem execBankEraseDone_only {R : List RegSet} {s₀ : State} (s : State) (h₀ : OnlyRegs R s₀ s)
    (hR : [reg BOT_CMD_STAT, reg BOT_INT, reg CTL_INT] ⊆ R) : AnswersOnly R s₀ (execBankEraseDone s) := by
  unfold execBankEraseDone
  with_reducible repeat' first
    | assumption
    | apply AnswersOnly.inFull
    | apply AnswersOnly.powered
    | apply AnswersOnly.next
    | apply AnswersOnly.done
    | apply inFull_only
    | apply bankEraseDone_only

theorem execBankVerifyDone_only {R : List RegSet} {s₀ : State} (check : BankCheck) (img : Option PenegImage) (s : State) (h₀ :
    OnlyRegs R s₀ s)
    (hR : [reg BOT_CMD_STAT, reg BOT_INT, reg CTL_INT, reg LDG_INT, regFam LDG_DROP 8] ⊆ R) : AnswersOnly R s₀ (execBankVerifyDone
      check img s) := by
  unfold execBankVerifyDone
  with_reducible repeat' first
    | assumption
    | apply AnswersOnly.inFull
    | apply AnswersOnly.powered
    | apply AnswersOnly.next
    | apply AnswersOnly.done
    | apply inFull_only
    | apply bankVerifyDone_only

theorem execBotErase_only {R : List RegSet} {s₀ : State} (who : Req) (bank : Fin 2) (s : State) (h₀ : OnlyRegs R s₀ s)
    (hR : [reg BOT_CMD_STAT, reg BOT_INT, reg CTL_INT] ⊆ R) : AnswersOnly R s₀ (execBotErase who bank s) := by
  unfold execBotErase
  with_reducible repeat' first
    | exact OnlyRegs.refl _
    | assumption
    | exact List.Subset.trans (by decide) hR
    | (intro _; try dsimp only)
    | apply AnswersOnly.inFull
    | apply AnswersOnly.powered
    | apply AnswersOnly.next
    | apply AnswersOnly.done
    | apply botJob_only
    | apply serve_only

theorem execBotVerify_only {R : List RegSet} {s₀ : State} (who : Req) (bank : Fin 2) (s : State) (h₀ : OnlyRegs R s₀ s)
    (hR : [reg BOT_CMD_STAT, reg BOT_INT, reg CTL_INT] ⊆ R) : AnswersOnly R s₀ (execBotVerify who bank s) := by
  unfold execBotVerify
  with_reducible repeat' first
    | exact OnlyRegs.refl _
    | assumption
    | exact List.Subset.trans (by decide) hR
    | (intro _; try dsimp only)
    | apply AnswersOnly.inFull
    | apply AnswersOnly.powered
    | apply AnswersOnly.next
    | apply AnswersOnly.done
    | apply botJob_only
    | apply serve_only

theorem svcServe_only {R : List RegSet} {s₀ : State} (h : SvcHdr) (cmd : Nat) (f : State → Option (Nat × List Nat) × State) (s :
    State)
    (h_f : ∀ (u : State), OnlyRegs R u (f u).2) (h₀ : OnlyRegs R s₀ s) (_ : [] ⊆ R) : OnlyRegs R s₀ (svcServe h cmd f s) := by
  have h1 := h₀.trans (h_f s)
  unfold svcServe
  refine OnlyRegs.ite h₀ (OnlyRegs.ite (OnlyRegs.ite (svcReply_only _ _ _ _ _ h₀) h₀) ?_)
  split
  all_goals rw [‹f s = _›] at h1
  · exact logService_only _ _ _ (svcReply_only _ _ _ _ _ h1)
  · exact h1

theorem svcActivate_only {R : List RegSet} {s₀ : State} (cmd : Nat) (c : BankCheck) (s : State) (h₀ : OnlyRegs R s₀ s)
    (hR : [reg BOT_CMD_STAT, reg BOT_INT, reg CAP_INT, reg CTL_INT, reg CTL_RESTART_INFO, reg EGR_ALSEQ, reg EGR_INT, reg
      EGR_QINT, reg LDG_CLR_STAT, reg LDG_INT, reg LDG_RD_STAT, reg MKT_INT, reg MKT_TW_STAT, reg MST_INT, reg NST_ISL_SUSP, reg
      NST_ISL_THR, reg NST_OSC_INT, reg NST_THR_FAST, reg NST_TOP_INT, reg SCL_EN_INT, reg SCL_EN_SAVE, reg SCL_EN_SAVE_STAT, reg
      SHR_INT, regFam LDG_DROP 8, regFam PT_STAT 8, regRun (NST_SPLIT_W 0) 4, ⟨LDG_REFUSED 0, 4, 0, 1⟩] ⊆ R) : OnlyRegs R s₀
      (svcActivate cmd c s).2 := by
  unfold svcActivate
  with_reducible repeat' first
    | assumption
    | apply activate_only
    | apply OnlyRegs.foldlPoints
    | split

theorem execSvcActivate_only {R : List RegSet} {s₀ : State} (h : SvcHdr) (cmd : BitVec 8) (check : BankCheck) (s : State) (h₀ :
    OnlyRegs R s₀ s)
    (hR : [reg BOT_CMD_STAT, reg BOT_INT, reg CAP_INT, reg CTL_INT, reg CTL_RESTART_INFO, reg EGR_ALSEQ, reg EGR_INT, reg
      EGR_QINT, reg LDG_CLR_STAT, reg LDG_INT, reg LDG_RD_STAT, reg MKT_INT, reg MKT_TW_STAT, reg MST_INT, reg NST_ISL_SUSP, reg
      NST_ISL_THR, reg NST_OSC_INT, reg NST_THR_FAST, reg NST_TOP_INT, reg SCL_EN_INT, reg SCL_EN_SAVE, reg SCL_EN_SAVE_STAT, reg
      SHR_INT, regFam LDG_DROP 8, regFam PT_STAT 8, regRun (NST_SPLIT_W 0) 4, ⟨LDG_REFUSED 0, 4, 0, 1⟩] ⊆ R) : AnswersOnly R s₀
      (execSvcActivate h cmd check s) := by
  unfold execSvcActivate
  with_reducible repeat' first
    | exact OnlyRegs.refl _
    | assumption
    | exact List.Subset.trans (by decide) hR
    | (intro _; try dsimp only)
    | apply AnswersOnly.inFull
    | apply AnswersOnly.powered
    | apply AnswersOnly.next
    | apply AnswersOnly.done
    | apply svcServe_only
    | apply svcActivate_only

theorem svcJob_only {R : List RegSet} {s₀ : State} (h : SvcHdr) (erase : Bool) (b : Nat) (s : State) (h₀ : OnlyRegs R s₀ s) :
    OnlyRegs R s₀ (svcJob h erase b s).2 := h₀.pass (svcJob_within (L := [.boot]) h erase b s (Within.refl s) (List.Subset.refl
      _)) (by decide)

theorem svcTill_only {R : List RegSet} {s₀ : State} (seq : Word) (code : Nat) (args : List Nat) (mbox : List Nat) (cert : Bool)
    (ok : Bool) (s : State) (h₀ : OnlyRegs R s₀ s)
    (hR : [regRun 0x70200 64, regRun 0x70A00 64] ⊆ R) : OnlyRegs R s₀ (svcTill seq code args mbox cert ok s).2 := by
  unfold svcTill
  with_reducible repeat' first
    | assumption
    | apply tillStart_only
    | apply OnlyRegs.foldlPoints
    | (apply OnlyRegs.lit; first | assumption)
    | split

theorem execSvcTill_only {R : List RegSet} {s₀ : State} (h : SvcHdr) (code : BitVec 8) (args : List Word) (mbox : List (BitVec 8))
    (cert : Bool) (ok : Bool) (s : State) (h₀ : OnlyRegs R s₀ s)
    (hR : [regRun 0x70200 64, regRun 0x70A00 64] ⊆ R) : AnswersOnly R s₀ (execSvcTill h code args mbox cert ok s) := by
  unfold execSvcTill
  with_reducible repeat' first
    | exact OnlyRegs.refl _
    | assumption
    | exact List.Subset.trans (by decide) hR
    | (intro _; try dsimp only)
    | apply AnswersOnly.inFull
    | apply AnswersOnly.powered
    | apply AnswersOnly.next
    | apply AnswersOnly.done
    | apply svcServe_only
    | apply svcTill_only

theorem svcWrite_only {R : List RegSet} {s₀ : State} (b : Nat) (ofs : Nat) (data : List Nat) (s : State) (h₀ : OnlyRegs R s₀ s)
    (hR : [reg BOT_INT, reg CTL_INT] ⊆ R) : OnlyRegs R s₀ (svcWrite b ofs data s).2 := by
  unfold svcWrite
  with_reducible repeat' first
    | assumption
    | apply setBank_only
    | apply OnlyRegs.foldlPoints
    | (apply OnlyRegs.lit; first | assumption)
    | split

theorem execSvcWrite_only {R : List RegSet} {s₀ : State} (h : SvcHdr) (bank : Fin 2) (ofs : BitVec 26) (data : List (BitVec 8)) (s
    : State) (h₀ : OnlyRegs R s₀ s)
    (hR : [reg BOT_INT, reg CTL_INT] ⊆ R) : AnswersOnly R s₀ (execSvcWrite h bank ofs data s) := by
  unfold execSvcWrite
  with_reducible repeat' first
    | exact OnlyRegs.refl _
    | assumption
    | exact List.Subset.trans (by decide) hR
    | (intro _; try dsimp only)
    | apply AnswersOnly.inFull
    | apply AnswersOnly.powered
    | apply AnswersOnly.next
    | apply AnswersOnly.done
    | apply svcServe_only
    | apply svcWrite_only

theorem trialConfirm_only {R : List RegSet} {s₀ : State} (s : State) (h₀ : OnlyRegs R s₀ s)
    (hR : [reg BOT_INT, reg CTL_INT, reg LDG_INT, regFam LDG_DROP 8] ⊆ R) : OnlyRegs R s₀ (trialConfirm s) := by
  unfold trialConfirm
  repeat' first
    | with_reducible assumption
    | exact List.Subset.trans (by decide) hR
    | with_reducible apply OnlyRegs.ite
    | exact covReg (hR (by decide))
    | (show (_ : Nat) < _; decide)
    | with_reducible apply bootRecord_only
    | with_reducible apply writeRec_only
    | with_reducible apply raise_only

theorem execTrialConfirm_only {R : List RegSet} {s₀ : State} (s : State) (h₀ : OnlyRegs R s₀ s)
    (hR : [reg BOT_INT, reg CTL_INT, reg LDG_INT, regFam LDG_DROP 8] ⊆ R) : AnswersOnly R s₀ (execTrialConfirm s) := by
  unfold execTrialConfirm
  with_reducible repeat' first
    | assumption
    | apply AnswersOnly.inFull
    | apply AnswersOnly.powered
    | apply AnswersOnly.next
    | apply AnswersOnly.done
    | apply inFull_only
    | apply trialConfirm_only

end Sys2Proof.Machine
end

