-- ==== Sys2Proof/Laws/RegsDeck.lean ====
section
/-!
SUPPORT. Which registers each operation can change (Safety.OnlyRegs): the Calendar, the Capture, the commit block and the Deck.
-/

namespace Sys2Proof.Machine

open Sys2Proof

set_option Elab.async false
set_option linter.all false

set_option maxRecDepth 4000

theorem bellStamp_only {R : List RegSet} {s₀ : State} (l : Nat) (s : State) (c0 : Covered R (CAP_BELL_NS l)) (c1 : Covered R
    (CAP_BELL_SEC l)) (h₀ : OnlyRegs R s₀ s)
    (hR : [] ⊆ R) : OnlyRegs R s₀ (bellStamp l s) := by
  unfold bellStamp
  with_reducible repeat' first
    | assumption
    | apply wr_only

theorem bellOwn_only {R : List RegSet} {s₀ : State} (l : Nat) (s : State) (h₀ : OnlyRegs R s₀ s) :
    OnlyRegs R s₀ (bellOwn l s) := h₀.pass (bellOwn_within (L := [.cap]) l s (Within.refl s) (List.Subset.refl _)) (by decide)

theorem lineLow_only {R : List RegSet} {s₀ : State} (l : Nat) (lowNs : Nat) (s : State) (h₀ : OnlyRegs R s₀ s) :
    OnlyRegs R s₀ (lineLow l lowNs s) := h₀.pass (lineLow_within (L := [.cap]) l lowNs s (Within.refl s) (List.Subset.refl _)) (by
      decide)

theorem bellFall_only {R : List RegSet} {s₀ : State} (l : Nat) (lowNs : Nat) (s : State) (b_l : l < 2) (h₀ : OnlyRegs R s₀ s)
    (hR : [reg CAP_INT, reg CTL_INT, regFam CAP_BELL_NS 2, regFam CAP_BELL_SEC 2] ⊆ R) : OnlyRegs R s₀ (bellFall l lowNs s) := by
  unfold bellFall
  repeat' first
    | with_reducible assumption
    | exact List.Subset.trans (by decide) hR
    | with_reducible apply OnlyRegs.ite
    | exact covReg (hR (by decide))
    | refine covFam (n := 2) (hR (by decide)) (fun i => by simp only [CAP_BELL_NS, CAP_BELL_SEC]) ?_
    | with_reducible apply bellStamp_only
    | with_reducible apply capCount_only
    | with_reducible apply bellOwn_only
    | with_reducible apply lineLow_only
    | with_reducible apply raise_only
    | with_reducible apply capEvent_only

theorem bellPulseEnd_only {R : List RegSet} {s₀ : State} (l : Nat) (s : State) (h₀ : OnlyRegs R s₀ s) :
    OnlyRegs R s₀ (bellPulseEnd l s) := h₀.pass (bellPulseEnd_within (L := [.cap, .out]) l s (Within.refl s) (List.Subset.refl _))
      (by decide)

theorem bellTest_only {R : List RegSet} {s₀ : State} (l : Nat) (s : State) (h₀ : OnlyRegs R s₀ s) :
    OnlyRegs R s₀ (bellTest l s) := h₀.pass (bellTest_within (L := [.cap]) l s (Within.refl s) (List.Subset.refl _)) (by decide)

theorem bellTestDrive_only {R : List RegSet} {s₀ : State} (s : State) (h₀ : OnlyRegs R s₀ s) (hR : [⟨CAP_BELL_NS 0, 8, 0, 1⟩,
    ⟨CAP_BELL_SEC 0, 8, 0, 1⟩] ⊆ R) :
    OnlyRegs R s₀ (bellTestDrive s) := by
  unfold bellTestDrive
  split
  · exact h₀
  · rename_i l _ _
    split
    · exact h₀
    · exact bellStamp_only _ _ (covWide (a := CAP_BELL_NS 0) (n := 8) (hR (by decide))) (covWide (a := CAP_BELL_SEC 0) (n := 8) (hR (by decide)))
        (emit_only _ _ (setCap_only _ _ h₀)) (List.nil_subset _)

theorem captureSnapshot_only {R : List RegSet} {s₀ : State} (clr : Bool) (s : State) (h₀ : OnlyRegs R s₀ s)
    (hR : [reg CAP_DEAD_MAX, reg CAP_INT, reg CAP_SNAP_SEQ, reg CTL_INT, regRun (CAP_CNT 0) 16] ⊆ R) : OnlyRegs R s₀
      (captureSnapshot clr s) := by
  unfold captureSnapshot
  repeat' first
    | with_reducible assumption
    | exact List.Subset.trans (by decide) hR
    | with_reducible apply OnlyRegs.ite
    | exact covReg (hR (by decide))
    | refine snapshot_only _ 8 _ _ _ ?_ (covRun (hR (by decide))) ?_
    | with_reducible apply wr_only
    | with_reducible apply raise_only

theorem dinEdge_only {R : List RegSet} {s₀ : State} (i : Nat) (high : Bool) (held : Bool) (s : State) (h₀ : OnlyRegs R s₀ s) :
    OnlyRegs R s₀ (dinEdge i high held s) := h₀.pass (dinEdge_within (L := [.cap]) i high held s (Within.refl s) (List.Subset.refl
      _)) (by decide)

theorem dropExport_only {R : List RegSet} {s₀ : State} (s : State) (h₀ : OnlyRegs R s₀ s) :
    OnlyRegs R s₀ (dropExport s) := h₀.pass (dropExport_within (L := [.pak]) s (Within.refl s) (List.Subset.refl _)) (by decide)

theorem execBellLineFall_only {R : List RegSet} {s₀ : State} (line : Fin 2) (lowNs : Nat) (s : State) (h₀ : OnlyRegs R s₀ s)
    (hR : [reg CAP_INT, reg CTL_INT, regFam CAP_BELL_NS 2, regFam CAP_BELL_SEC 2] ⊆ R) : AnswersOnly R s₀ (execBellLineFall line lowNs
      s) := by
  unfold execBellLineFall
  with_reducible repeat' first
    | assumption
    | apply AnswersOnly.inFull
    | apply AnswersOnly.powered
    | apply AnswersOnly.next
    | apply AnswersOnly.done
    | exact Fin.isLt _
    | apply bellFall_only

theorem execBellTestDrive_only {R : List RegSet} {s₀ : State} (s : State) (h₀ : OnlyRegs R s₀ s)
    (hR : [⟨CAP_BELL_NS 0, 8, 0, 1⟩, ⟨CAP_BELL_SEC 0, 8, 0, 1⟩] ⊆ R) : AnswersOnly R s₀ (execBellTestDrive s) := by
  unfold execBellTestDrive
  with_reducible repeat' first
    | assumption
    | apply AnswersOnly.inFull
    | apply AnswersOnly.powered
    | apply AnswersOnly.next
    | apply AnswersOnly.done
    | apply bellTestDrive_only

theorem execCaptureArm_only {R : List RegSet} {s₀ : State} (who : Req) (arm : Bool) (s : State) (h₀ : OnlyRegs R s₀ s)
    (hR : [reg CAP_CTRL] ⊆ R) : AnswersOnly R s₀ (execCaptureArm who arm s) := by
  unfold execCaptureArm
  with_reducible repeat' first
    | exact OnlyRegs.refl _
    | assumption
    | exact List.Subset.trans (by decide) hR
    | (intro _; try dsimp only)
    | apply AnswersOnly.inFull
    | apply AnswersOnly.powered
    | apply AnswersOnly.next
    | apply AnswersOnly.done
    | apply captureArm_only
    | apply serve_only

theorem execCaptureSample_only {R : List RegSet} {s₀ : State} (drained : Nat) (s : State) (h₀ : OnlyRegs R s₀ s)
    (hR : [reg CAP_DEAD, reg CAP_DEAD_MAX, reg CAP_INT, reg CTL_INT] ⊆ R) : AnswersOnly R s₀ (execCaptureSample drained s) := by
  unfold execCaptureSample
  with_reducible repeat' first
    | assumption
    | apply AnswersOnly.inFull
    | apply AnswersOnly.powered
    | apply AnswersOnly.next
    | apply AnswersOnly.done
    | apply powered_only
    | apply capSample_only

theorem execCaptureSnapshot_only {R : List RegSet} {s₀ : State} (who : Req) (clr : Bool) (s : State) (h₀ : OnlyRegs R s₀ s)
    (hR : [reg CAP_DEAD_MAX, reg CAP_INT, reg CAP_SNAP_SEQ, reg CTL_INT, regRun (CAP_CNT 0) 16] ⊆ R) : AnswersOnly R s₀
      (execCaptureSnapshot who clr s) := by
  unfold execCaptureSnapshot
  with_reducible repeat' first
    | exact OnlyRegs.refl _
    | assumption
    | exact List.Subset.trans (by decide) hR
    | (intro _; try dsimp only)
    | apply AnswersOnly.inFull
    | apply AnswersOnly.powered
    | apply AnswersOnly.next
    | apply AnswersOnly.done
    | apply captureSnapshot_only
    | apply serve_only

theorem recAbort_only {R : List RegSet} {s₀ : State} (s : State) (h₀ : OnlyRegs R s₀ s) :
    OnlyRegs R s₀ (recAbort s) := h₀.pass (recAbort_within (L := [.host, .cap, .pak]) s (Within.refl s) (List.Subset.refl _)) (by
      decide)

theorem recStat_only {R : List RegSet} {s₀ : State} (result : Nat) (s : State) (h₀ : OnlyRegs R s₀ s)
    (hR : [reg CAP_REC_STAT] ⊆ R) : OnlyRegs R s₀ (recStat result s) := by
  unfold recStat
  repeat' first
    | with_reducible assumption
    | exact covReg (hR (by decide))
    | with_reducible apply wr_only

theorem onRecord_only {R : List RegSet} {s₀ : State} (f : CapRec → State → State) (s : State) (h_f : ∀ (x0 : CapRec) (u : State),
    OnlyRegs R u (f x0 u))
    (h₀ : OnlyRegs R s₀ s) (hR : [reg CAP_REC_STAT] ⊆ R) : OnlyRegs R s₀ (onRecord f s) := by
  unfold onRecord
  repeat' split
  · exact recStat_only _ _ h₀ hR
  · exact recStat_only _ _ h₀ hR
  · exact h₀.trans (h_f _ _)

theorem recExport_only {R : List RegSet} {s₀ : State} (format : Nat) (pack : Bool) (s : State) (h₀ : OnlyRegs R s₀ s)
    (hR : [reg CAP_REC_STAT] ⊆ R) : OnlyRegs R s₀ (recExport format pack s) := by
  unfold recExport
  with_reducible repeat' first
    | exact OnlyRegs.refl _
    | assumption
    | (intro _; try dsimp only)
    | apply OnlyRegs.ite
    | apply dropExport_only
    | apply openMore_only
    | apply openWindow_only
    | apply recStat_only
    | apply feedWindow_only
    | apply setWork_only
    | apply onRecord_only
    | apply setCap_only

theorem execRecExport_only {R : List RegSet} {s₀ : State} (who : Req) (format : BitVec 2) (pack : Bool) (s : State) (h₀ : OnlyRegs
    R s₀ s)
    (hR : [reg CAP_REC_STAT] ⊆ R) : AnswersOnly R s₀ (execRecExport who format pack s) := by
  unfold execRecExport
  with_reducible repeat' first
    | exact OnlyRegs.refl _
    | assumption
    | exact List.Subset.trans (by decide) hR
    | (intro _; try dsimp only)
    | apply AnswersOnly.inFull
    | apply AnswersOnly.powered
    | apply AnswersOnly.next
    | apply AnswersOnly.done
    | apply recExport_only
    | apply serve_only

theorem recInfo_only {R : List RegSet} {s₀ : State} (s : State) (h₀ : OnlyRegs R s₀ s) (hR : [reg CAP_REC_STAT, regRun
    (CAP_REC_HDR 0) 16] ⊆ R) :
    OnlyRegs R s₀ (recInfo s) :=
  onRecord_only _ _ (fun r u => recStat_only _ _ (wrWords_only _ _ _ 16 (OnlyRegs.refl u) (by simp [headerWords]) (hR (by decide)))
    (List.Subset.trans (by decide) hR)) h₀ (List.Subset.trans (by decide) hR)

theorem execRecInfo_only {R : List RegSet} {s₀ : State} (who : Req) (s : State) (h₀ : OnlyRegs R s₀ s)
    (hR : [reg CAP_REC_STAT, regRun (CAP_REC_HDR 0) 16] ⊆ R) : AnswersOnly R s₀ (execRecInfo who s) := by
  unfold execRecInfo
  with_reducible repeat' first
    | exact OnlyRegs.refl _
    | assumption
    | exact List.Subset.trans (by decide) hR
    | (intro _; try dsimp only)
    | apply AnswersOnly.inFull
    | apply AnswersOnly.powered
    | apply AnswersOnly.next
    | apply AnswersOnly.done
    | apply recInfo_only
    | apply serve_only

theorem recRelease_only {R : List RegSet} {s₀ : State} (s : State) (h₀ : OnlyRegs R s₀ s)
    (hR : [reg CAP_REC_STAT, reg CTL_INT, reg EGR_INT, reg EGR_XF_STAT] ⊆ R) : OnlyRegs R s₀ (recRelease s) := by
  unfold recRelease
  with_reducible repeat' first
    | exact OnlyRegs.refl _
    | assumption
    | exact List.Subset.trans (by decide) hR
    | (intro _; try dsimp only)
    | apply dropExport_only
    | apply xfEnd_only
    | apply recStat_only
    | apply endWindow_only
    | apply onRecord_only
    | apply setCap_only
    | apply OnlyRegs.foldlPoints
    | split

theorem execRecRelease_only {R : List RegSet} {s₀ : State} (who : Req) (s : State) (h₀ : OnlyRegs R s₀ s)
    (hR : [reg CAP_REC_STAT, reg CTL_INT, reg EGR_INT, reg EGR_XF_STAT] ⊆ R) : AnswersOnly R s₀ (execRecRelease who s) := by
  unfold execRecRelease
  with_reducible repeat' first
    | exact OnlyRegs.refl _
    | assumption
    | exact List.Subset.trans (by decide) hR
    | (intro _; try dsimp only)
    | apply AnswersOnly.inFull
    | apply AnswersOnly.powered
    | apply AnswersOnly.next
    | apply AnswersOnly.done
    | apply recRelease_only
    | apply serve_only

theorem execThLvlWrite_only {R : List RegSet} {s₀ : State} (who : Req) (th : Fin 32) (v : Word) (s : State) (h₀ : OnlyRegs R s₀ s)
    (hR : [regFam CAP_TH_LVL 32] ⊆ R) : AnswersOnly R s₀ (execThLvlWrite who th v s) := by
  unfold execThLvlWrite
  repeat' first
    | with_reducible exact OnlyRegs.refl _
    | with_reducible assumption
    | exact List.Subset.trans (by decide) hR
    | (intro _; try dsimp only)
    | with_reducible apply AnswersOnly.inFull
    | with_reducible apply AnswersOnly.powered
    | with_reducible apply AnswersOnly.next
    | with_reducible apply AnswersOnly.done
    | refine covFam (n := 32) (hR (by decide)) (fun i => by simp only [CAP_TH_LVL]) ?_
    | exact Fin.isLt _
    | with_reducible apply wr_only
    | with_reducible apply serve_only

theorem exportDone_only {R : List RegSet} {s₀ : State} (s : State) (h₀ : OnlyRegs R s₀ s)
    (hR : [reg CAP_INT, reg CTL_INT] ⊆ R) : OnlyRegs R s₀ (exportDone s) := by
  unfold exportDone
  repeat' first
    | with_reducible assumption
    | exact List.Subset.trans (by decide) hR
    | exact covReg (hR (by decide))
    | with_reducible apply raise_only
    | with_reducible apply setCap_only
    | with_reducible apply OnlyRegs.foldlPoints
    | split

end Sys2Proof.Machine
end

