-- ==== Sys2Proof/Laws/RegsPorts.lean ====
section
/-!
SUPPORT. Which registers each operation can change (Safety.OnlyRegs): the ports, the egress, the energy records and the transfers.
-/

namespace Sys2Proof.Machine

open Sys2Proof

set_option Elab.async false
set_option linter.all false

set_option maxRecDepth 4000

theorem xfAbort_only {R : List RegSet} {s₀ : State} (s : State) (h₀ : OnlyRegs R s₀ s)
    (hR : [reg CTL_INT, reg EGR_INT, reg EGR_XF_STAT] ⊆ R) : OnlyRegs R s₀ (xfAbort s) := by
  unfold xfAbort
  with_reducible repeat' first
    | assumption
    | apply OnlyRegs.ite
    | apply xfEnd_only

theorem execXfAbort_only {R : List RegSet} {s₀ : State} (who : Req) (s : State) (h₀ : OnlyRegs R s₀ s)
    (hR : [reg CTL_INT, reg EGR_INT, reg EGR_XF_STAT] ⊆ R) : AnswersOnly R s₀ (execXfAbort who s) := by
  unfold execXfAbort
  with_reducible repeat' first
    | exact OnlyRegs.refl _
    | assumption
    | exact List.Subset.trans (by decide) hR
    | (intro _; try dsimp only)
    | apply AnswersOnly.inFull
    | apply AnswersOnly.powered
    | apply AnswersOnly.next
    | apply AnswersOnly.done
    | apply xfAbort_only
    | apply serve_only

theorem xfDatagram_only {R : List RegSet} {s₀ : State} (s : State) (h₀ : OnlyRegs R s₀ s)
    (hR : [reg CTL_INT, reg EGR_INT, reg EGR_QINT, reg EGR_XF_STAT] ⊆ R) : OnlyRegs R s₀ (xfDatagram s) := by
  unfold xfDatagram
  with_reducible repeat' first
    | exact List.Subset.trans (by decide) hR
    | apply xfEnd_only
    | apply compose_only
    | apply OnlyRegs.foldlPoints
    | (apply OnlyRegs.lit; first | assumption | apply OnlyRegs.ite | apply compose_only)
    | split

theorem execXfDatagram_only {R : List RegSet} {s₀ : State} (s : State) (h₀ : OnlyRegs R s₀ s)
    (hR : [reg CTL_INT, reg EGR_INT, reg EGR_QINT, reg EGR_XF_STAT] ⊆ R) : AnswersOnly R s₀ (execXfDatagram s) := by
  unfold execXfDatagram
  with_reducible repeat' first
    | assumption
    | apply AnswersOnly.inFull
    | apply AnswersOnly.powered
    | apply AnswersOnly.next
    | apply AnswersOnly.done
    | apply inFull_only
    | apply xfDatagram_only

theorem xfGo_only {R : List RegSet} {s₀ : State} (s : State) (h₀ : OnlyRegs R s₀ s)
    (hR : [reg CTL_INT, reg EGR_INT, reg EGR_XF_STAT] ⊆ R) : OnlyRegs R s₀ (xfGo s) := by
  unfold xfGo
  repeat' first
    | exact List.Subset.trans (by decide) hR
    | exact covReg (hR (by decide))
    | with_reducible apply xfEnd_only
    | with_reducible apply wrF_only
    | with_reducible apply wr_only
    | with_reducible apply OnlyRegs.foldlPoints
    | (with_reducible apply OnlyRegs.lit; first | with_reducible assumption | with_reducible apply wr_only)
    | split

theorem execXfGo_only {R : List RegSet} {s₀ : State} (who : Req) (s : State) (h₀ : OnlyRegs R s₀ s)
    (hR : [reg CTL_INT, reg EGR_INT, reg EGR_XF_STAT] ⊆ R) : AnswersOnly R s₀ (execXfGo who s) := by
  unfold execXfGo
  with_reducible repeat' first
    | exact OnlyRegs.refl _
    | assumption
    | exact List.Subset.trans (by decide) hR
    | (intro _; try dsimp only)
    | apply AnswersOnly.inFull
    | apply AnswersOnly.powered
    | apply AnswersOnly.next
    | apply AnswersOnly.done
    | apply xfGo_only
    | apply serve_only

end Sys2Proof.Machine
end

