-- ==== Sys2Proof/Laws/RegsHost.lean ====
section
/-!
SUPPORT. Which registers each operation can change (Safety.OnlyRegs): the host interface and the ingest.
-/

namespace Sys2Proof.Machine

open Sys2Proof

set_option Elab.async false
set_option linter.all false

set_option maxRecDepth 4000

theorem markDelivered_only {R : List RegSet} {s₀ : State} (s : State) (h₀ : OnlyRegs R s₀ s) :
    OnlyRegs R s₀ (markDelivered s) := h₀.pass (markDelivered_within (L := [.scales]) s (Within.refl s) (List.Subset.refl _)) (by
      decide)

theorem afterRead_only {R : List RegSet} {s₀ : State} (w : Win) (busy : Bool) (s : State) (h₀ : OnlyRegs R s₀ s)
    (hR : [reg CAP_INT, reg CTL_INT] ⊆ R) : OnlyRegs R s₀ (afterRead w busy s) := by
  unfold afterRead
  try dsimp only
  with_reducible repeat' first
    | assumption
    | apply setLedger_only
    | apply markDelivered_only
    | apply exportDone_only
    | apply OnlyRegs.foldlPoints
    | split

theorem setHost_only {R : List RegSet} {s₀ : State} (f : HostIf → HostIf) (s : State) (h₀ : OnlyRegs R s₀ s) :
    OnlyRegs R s₀ (setHost f s) := h₀.pass (setHost_within (L := [.host]) f s (Within.refl s) (List.Subset.refl _)) (by decide)

theorem heldDiscard_only {R : List RegSet} {s₀ : State} (a : Nat) (r : List Instr) (s : State) (h₀ : OnlyRegs R s₀ s)
    (hR : [reg CTL_INT, reg HST_ERR_OFS, reg HST_INT, reg LDG_INT, regFam LDG_DROP 8] ⊆ R) : OnlyRegs R s₀ (heldDiscard a r s) := by
  unfold heldDiscard
  repeat' first
    | with_reducible assumption
    | exact List.Subset.trans (by decide) hR
    | exact covReg (hR (by decide))
    | (show (_ : Nat) < _; decide)
    | with_reducible apply logEvent_only
    | with_reducible apply setHost_only
    | with_reducible apply wr_only
    | with_reducible apply raise_only

theorem heldDrop_only {R : List RegSet} {s₀ : State} (s : State) (h₀ : OnlyRegs R s₀ s)
    (hR : [reg CTL_INT, reg HST_ERR_OFS, reg HST_INT, reg LDG_INT, regFam LDG_DROP 8] ⊆ R) : OnlyRegs R s₀ (heldDrop s) := by
  unfold heldDrop
  with_reducible repeat' first
    | assumption
    | apply heldDiscard_only
    | apply OnlyRegs.foldlPoints
    | split

theorem ledgerAbort_only {R : List RegSet} {s₀ : State} (s : State) (h₀ : OnlyRegs R s₀ s)
    (hR : [reg LDG_RD_STAT] ⊆ R) : OnlyRegs R s₀ (ledgerAbort s) := by
  unfold ledgerAbort
  repeat' first
    | with_reducible assumption
    | with_reducible apply OnlyRegs.ite
    | exact covReg (hR (by decide))
    | with_reducible apply endWindow_only
    | with_reducible apply dropEngine_only
    | with_reducible apply setLedger_only
    | with_reducible apply wr_only
    | with_reducible apply setWork_only

theorem winAbort_only {R : List RegSet} {s₀ : State} (w : Win) (s : State) (h₀ : OnlyRegs R s₀ s)
    (hR : [reg LDG_RD_STAT] ⊆ R) : OnlyRegs R s₀ (winAbort w s) := by
  unfold winAbort
  with_reducible repeat' first
    | assumption
    | apply recAbort_only
    | apply endWindow_only
    | apply ledgerAbort_only
    | apply OnlyRegs.foldlPoints
    | split

theorem winReset_only {R : List RegSet} {s₀ : State} (w : Win) (s : State) (h₀ : OnlyRegs R s₀ s)
    (hR : [reg LDG_RD_STAT] ⊆ R) : OnlyRegs R s₀ (winReset w s) := by
  unfold winReset
  with_reducible repeat' first
    | assumption
    | apply OnlyRegs.ite
    | apply setWindow_only
    | apply winAbort_only

theorem hostReset_only {R : List RegSet} {s₀ : State} (s : State) (h₀ : OnlyRegs R s₀ s)
    (hR : [reg HST_ERR_OFS, reg HST_INT_EN, reg HST_POISON, reg HST_UNDER, reg LDG_RD_STAT, regFam MSIX_ADDR 16, regFam MSIX_CTRL
      16, regFam MSIX_DATA 16, regFam MSIX_UADDR 16] ⊆ R) : OnlyRegs R s₀ (hostReset s) := by
  unfold hostReset
  repeat' first
    | with_reducible exact OnlyRegs.refl _
    | with_reducible assumption
    | exact List.Subset.trans (by decide) hR
    | (intro _; try dsimp only)
    | exact covReg (hR (by decide))
    | refine covFam (n := 16) (hR (by decide)) (fun i => by simp only [MSIX_ADDR, MSIX_CTRL, MSIX_DATA, MSIX_UADDR]) ?_
    | with_reducible apply setHost_only
    | with_reducible apply wr_only
    | with_reducible apply winReset_only
    | with_reducible apply OnlyRegs.foldlPoints
    | with_reducible apply OnlyRegs.foldl
    | with_reducible apply OnlyRegs.forUpTo

theorem linkBack_only {R : List RegSet} {s₀ : State} (kind : LinkReset) (s : State) (h₀ : OnlyRegs R s₀ s)
    (hR : [reg CTL_INT, reg HST_INT, reg LDG_INT, regFam LDG_DROP 8] ⊆ R) : OnlyRegs R s₀ (linkBack kind s) := by
  unfold linkBack
  repeat' first
    | with_reducible assumption
    | exact List.Subset.trans (by decide) hR
    | exact covReg (hR (by decide))
    | (show (_ : Nat) < _; decide)
    | with_reducible apply logEvent_only
    | with_reducible apply raise_only

theorem sendPending_only {R : List RegSet} {s₀ : State} (s : State) (h₀ : OnlyRegs R s₀ s) :
    OnlyRegs R s₀ (sendPending s) := h₀.pass (sendPending_within (L := [.host, .out]) s (Within.refl s) (List.Subset.refl _)) (by
      decide)

theorem hostLinkReset_only {R : List RegSet} {s₀ : State} (kind : LinkReset) (s : State) (h₀ : OnlyRegs R s₀ s)
    (hR : [reg CTL_INT, reg HST_ERR_OFS, reg HST_INT, reg HST_INT_EN, reg HST_POISON, reg HST_UNDER, reg LDG_INT, reg LDG_RD_STAT,
      regFam LDG_DROP 8, regFam MSIX_ADDR 16, regFam MSIX_CTRL 16, regFam MSIX_DATA 16, regFam MSIX_UADDR 16] ⊆ R) : OnlyRegs R s₀
      (hostLinkReset kind s) := by
  unfold hostLinkReset
  with_reducible repeat' first
    | assumption
    | exact List.Subset.trans (by decide) hR
    | apply OnlyRegs.ite
    | apply hostReset_only
    | apply linkBack_only
    | apply sendPending_only

theorem hostRetry_only {R : List RegSet} {s₀ : State} (run : Instr → State → State) (s : State) (h_run : ∀ (x0 : Instr) (u :
    State), OnlyRegs R u (run x0 u)) (h₀ : OnlyRegs R s₀ s)
    (hR : [] ⊆ R) : OnlyRegs R s₀ (hostRetry run s) := by
  unfold hostRetry
  with_reducible repeat' first
    | assumption
    | (intro _; try dsimp only)
    | apply OnlyRegs.ite
    | apply OnlyRegs.app h_run
    | apply h_run
    | apply setHost_only
    | apply OnlyRegs.foldlPoints
    | apply OnlyRegs.foldl

theorem mirrorOpen_only {R : List RegSet} {s₀ : State} (s : State) (h₀ : OnlyRegs R s₀ s) :
    OnlyRegs R s₀ (mirrorOpen s) := h₀.pass (mirrorOpen_within (L := [.host]) s (Within.refl s) (List.Subset.refl _)) (by decide)

theorem winUnder_only {R : List RegSet} {s₀ : State} (x : Window) (s : State) (h₀ : OnlyRegs R s₀ s)
    (hR : [reg CTL_INT, reg HST_INT, reg HST_UNDER] ⊆ R) : OnlyRegs R s₀ (winUnder x s) := by
  unfold winUnder
  repeat' first
    | with_reducible assumption
    | exact List.Subset.trans (by decide) hR
    | with_reducible apply OnlyRegs.ite
    | exact covReg (hR (by decide))
    | with_reducible apply bumpSat_only
    | with_reducible apply raise_only

theorem winPop_only {R : List RegSet} {s₀ : State} (w : Win) (poison : Bool) (s : State) (h₀ : OnlyRegs R s₀ s)
    (hR : [reg CTL_INT, reg HST_INT, reg HST_POISON, reg HST_UNDER] ⊆ R) : OnlyRegs R s₀ (winPop w poison s).2 := by
  unfold winPop
  try dsimp only
  repeat' first
    | with_reducible assumption
    | exact List.Subset.trans (by decide) hR
    | exact covReg (hR (by decide))
    | with_reducible apply bumpSat_only
    | with_reducible apply winUnder_only
    | with_reducible apply raise_only
    | with_reducible apply setWindow_only
    | with_reducible apply OnlyRegs.foldlPoints
    | split

theorem readWords_only {R : List RegSet} {s₀ : State} (w : Win) (n : Nat) (l : List Bool) (s : State) (h₀ : OnlyRegs R s₀ s)
    (hR : [reg CTL_INT, reg HST_INT, reg HST_POISON, reg HST_UNDER] ⊆ R) : OnlyRegs R s₀ (readWords w n l s) := by
  induction n generalizing l s with
  | zero => exact h₀
  | succ n ih => exact ih _ _ (answer_only _ _ _ (winPop_only _ _ _ h₀ hR))

theorem windowRead_only {R : List RegSet} {s₀ : State} (w : Win) (r : WinRead) (poison : List Bool) (s : State) (h₀ : OnlyRegs R s₀ s)
    (hR : [reg CAP_INT, reg CTL_INT, reg HST_INT, reg HST_POISON, reg HST_UNDER] ⊆ R) : OnlyRegs R s₀ (windowRead w r poison s) := by
  unfold windowRead
  with_reducible repeat' first
    | assumption
    | exact List.Subset.trans (by decide) hR
    | apply answer_only
    | apply readWords_only
    | apply afterRead_only
    | apply winUnder_only
    | apply winPop_only
    | apply OnlyRegs.foldlPoints
    | split

theorem writeBits_only {R : List RegSet} {s₀ : State} (a : Nat) (rw clr v : Word) (s : State) (hc : Covered R a) (h₀ : OnlyRegs R
    s₀ s) :
    OnlyRegs R s₀ (writeBits a rw clr v s) := vectorEdge_only _ _ _ (wr_only _ _ _ h₀ hc)

theorem writeEffect_only {R : List RegSet} {s₀ : State} (a : Nat) (s : State) (h₀ : OnlyRegs R s₀ s)
    (hR : [reg CTL_INT, reg MKT_INT, reg MKT_RIB_SPAN, reg PWR_CTRL, reg SCL_CAL_PEND, regFam CTL_PC_STAT 4, regRun MKT_RIB_OLD_LO
      2] ⊆ R) : OnlyRegs R s₀ (writeEffect a s) := by
  unfold writeEffect
  refine OnlyRegs.ite (updateHoldExc_only _ h₀) (OnlyRegs.ite (ribReport_only _ h₀ (List.Subset.trans (by decide) hR))
    (OnlyRegs.ite (wr_only _ _ _ h₀ (covReg (hR (by decide)))) ?_))
  split
  · exact setStat_only _ _ _ _ (covReg (hR (by decide))) h₀ (List.nil_subset _)
  · split
    · rename_i hc
      refine OnlyRegs.ite h₀ (wrF_only _ _ _ _ _ (covFam (f := CTL_PC_STAT) (n := 4) (hR (by decide)) (fun i => by simp only
        [CTL_PC_STAT]) ?_) h₀ (List.nil_subset _))
      exact List.mem_range.mp (List.mem_of_find?_eq_some hc)
    · exact h₀

theorem writeWord_only {R : List RegSet} {s₀ : State} (who : Req) (a : Nat) (m v : Word) (s : State) (hc : Covered R a) (h₀ :
    OnlyRegs R s₀ s)
    (hR : [reg CTL_INT, reg MKT_INT, reg MKT_RIB_SPAN, reg PWR_CTRL, reg SCL_CAL_PEND, regFam CTL_PC_STAT 4, regRun MKT_RIB_OLD_LO
      2] ⊆ R) : OnlyRegs R s₀ (writeWord who a m v s) := by
  unfold writeWord
  split
  · exact h₀
  · dsimp only
    split
    · exact h₀
    · split
      · exact h₀.of_regs rfl
      · exact writeEffect_only _ _ (writeBits_only _ _ _ _ _ hc h₀) hR

theorem writeBytes_only {R : List RegSet} {s₀ : State} (c : Instr) (who : Req) (a be : Nat) (v : BitVec 64) (s : State) (hc :
    Covered R a ∧ Covered R (a + 4))
    (h₀ : OnlyRegs R s₀ s) (hR : [reg CTL_INT, reg MKT_INT, reg MKT_RIB_SPAN, reg PWR_CTRL, reg SCL_CAL_PEND, regFam CTL_PC_STAT
      4, regRun MKT_RIB_OLD_LO 2] ⊆ R) : OnlyRegs R s₀ (writeBytes c who a be v s) := by
  unfold writeBytes
  dsimp only
  split
  · exact holdWrite_only _ _ _ h₀
  · exact writeWord_only _ _ _ _ _ hc.2 (writeWord_only _ _ _ _ _ hc.1 h₀ hR) hR

theorem setSentry_only {R : List RegSet} {s₀ : State} (f : Sentry → Sentry) (s : State) (h₀ : OnlyRegs R s₀ s) :
    OnlyRegs R s₀ (setSentry f s) := h₀.pass (setSentry_within (L := [.sentry]) f s (Within.refl s) (List.Subset.refl _)) (by decide)

theorem calCommit_only {R : List RegSet} {s₀ : State} (who : Req) (s : State) (h₀ : OnlyRegs R s₀ s) :
    OnlyRegs R s₀ (calCommit who s) := h₀.pass (calCommit_within (L := [.host, .sentry]) who s (Within.refl s) (List.Subset.refl
      _)) (by decide)

theorem calFreezeTimeout_only {R : List RegSet} {s₀ : State} (r : Nat) (s : State) (h₀ : OnlyRegs R s₀ s) :
    OnlyRegs R s₀ (calFreezeTimeout r s) := h₀.pass (calFreezeTimeout_within (L := [.sentry]) r s (Within.refl s)
      (List.Subset.refl _)) (by decide)

theorem calReadFreeze_only {R : List RegSet} {s₀ : State} (who : Req) (k : Nat) (s : State) (h₀ : OnlyRegs R s₀ s) :
    OnlyRegs R s₀ (calReadFreeze who k s) := h₀.pass (calReadFreeze_within (L := [.sentry, .out]) who k s (Within.refl s)
      (List.Subset.refl _)) (by decide)

theorem calReadRelease_only {R : List RegSet} {s₀ : State} (who : Req) (s : State) (h₀ : OnlyRegs R s₀ s) :
    OnlyRegs R s₀ (calReadRelease who s) := h₀.pass (calReadRelease_within (L := [.sentry, .out]) who s (Within.refl s)
      (List.Subset.refl _)) (by decide)

theorem commitTake_only {R : List RegSet} {s₀ : State} (s : State) (h₀ : OnlyRegs R s₀ s)
    (hR : [reg CAL_INT, reg CTL_INT] ⊆ R) : OnlyRegs R s₀ (commitTake s) := by
  unfold commitTake
  repeat' first
    | with_reducible assumption
    | exact List.Subset.trans (by decide) hR
    | exact covReg (hR (by decide))
    | with_reducible apply setSentry_only
    | with_reducible apply raise_only

theorem refTake_only {R : List RegSet} {s₀ : State} (s : State) (h₀ : OnlyRegs R s₀ s)
    (hR : [reg CAL_INT, reg CAL_REF_NS, reg CTL_INT, regRun CAL_REF_SEC_LO 2, regRun CAL_REF_TICK_LO 2] ⊆ R) : OnlyRegs R s₀
      (refTake s) := by
  unfold refTake
  repeat' first
    | with_reducible assumption
    | exact List.Subset.trans (by decide) hR
    | with_reducible apply OnlyRegs.ite
    | exact covReg (hR (by decide))
    | exact covTwo (hR (by decide))
    | with_reducible apply setSentry_only
    | with_reducible apply wr64_only
    | with_reducible apply wr_only
    | with_reducible apply raise_only

theorem sentryPosts_only {R : List RegSet} {s₀ : State} (s : State) (h₀ : OnlyRegs R s₀ s) (hR : [reg CAL_INT, reg CAL_STATUS, reg
    CAL_STG_DATE, reg CAL_STG_TIME] ⊆ R) : OnlyRegs R s₀ (sentryPosts s) := by
  refine OnlyRegs.foldl (setSentry_only _ _ h₀) fun u w => ?_
  split
  · rename_i hp
    refine writeBits_only _ _ _ _ _ ?_ (OnlyRegs.refl u)
    simp only [postedReg, decide_eq_true_eq] at hp
    rcases hp with h | h | h | h <;> rw [h] <;> exact covReg (hR (by decide))
  · exact OnlyRegs.refl u

theorem secondNext_only {R : List RegSet} {s₀ : State} (s : State) (h₀ : OnlyRegs R s₀ s)
    (hR : [reg CAL_INT, reg CTL_INT] ⊆ R) : OnlyRegs R s₀ (secondNext s) := by
  unfold secondNext
  repeat' first
    | with_reducible assumption
    | exact List.Subset.trans (by decide) hR
    | with_reducible apply OnlyRegs.ite
    | exact covReg (hR (by decide))
    | with_reducible apply setSentry_only
    | with_reducible apply raise_only

theorem sentryTick_only {R : List RegSet} {s₀ : State} (s : State) (h₀ : OnlyRegs R s₀ s)
    (hR : [reg CAL_INT, reg CAL_REF_NS, reg CAL_STATUS, reg CAL_STG_DATE, reg CAL_STG_TIME, reg CTL_INT, regRun CAL_REF_SEC_LO 2,
      regRun CAL_REF_TICK_LO 2] ⊆ R) : OnlyRegs R s₀ (sentryTick s) := by
  unfold sentryTick
  with_reducible repeat' first
    | assumption
    | exact List.Subset.trans (by decide) hR
    | apply OnlyRegs.ite
    | apply setSentry_only
    | apply commitTake_only
    | apply refTake_only
    | apply sentryPosts_only
    | apply secondNext_only

theorem calSecond_only {R : List RegSet} {s₀ : State} (s : State) (h₀ : OnlyRegs R s₀ s)
    (hR : [reg CAL_INT, reg CAL_REF_NS, reg CAL_STATUS, reg CAL_STG_DATE, reg CAL_STG_TIME, reg CTL_INT, regRun CAL_REF_SEC_LO 2,
      regRun CAL_REF_TICK_LO 2] ⊆ R) : OnlyRegs R s₀ (calSecond s) := by
  unfold calSecond
  with_reducible repeat' first
    | assumption
    | apply OnlyRegs.ite
    | apply setSentry_only
    | apply sentryTick_only

theorem execCalSecond_only {R : List RegSet} {s₀ : State} (s : State) (h₀ : OnlyRegs R s₀ s)
    (hR : [reg CAL_INT, reg CAL_REF_NS, reg CAL_STATUS, reg CAL_STG_DATE, reg CAL_STG_TIME, reg CTL_INT, regRun CAL_REF_SEC_LO 2,
      regRun CAL_REF_TICK_LO 2] ⊆ R) : AnswersOnly R s₀ (execCalSecond s) := by
  unfold execCalSecond
  with_reducible repeat' first
    | assumption
    | apply AnswersOnly.inFull
    | apply AnswersOnly.powered
    | apply AnswersOnly.next
    | apply AnswersOnly.done
    | apply calSecond_only

theorem sentryLoss_only {R : List RegSet} {s₀ : State} (s : State) (h₀ : OnlyRegs R s₀ s)
    (hR : [reg CAL_INT, reg CAL_REF_NS, reg CAL_REF_SEC_HI, reg CAL_REF_SEC_LO, reg CAL_REF_TICK_HI, reg CAL_REF_TICK_LO, reg
      CAL_STATUS, reg CAL_VBAT_CNT, reg CAL_VBAT_TICK_HI, reg CAL_VBAT_TICK_LO] ⊆ R) : OnlyRegs R s₀ (sentryLoss s) := by
  unfold sentryLoss
  split
  · exact h₀
  · refine OnlyRegs.of_regs (OnlyRegs.foldlMem (wr_only _ _ _ h₀ (covReg (hR (by decide)))) fun a ha u => wr_only _ _ _ (OnlyRegs.refl u) (covReg (hR ?_))) rfl
    simp only [List.mem_cons, List.not_mem_nil, or_false] at ha
    rcases ha with rfl | rfl | rfl | rfl | rfl | rfl | rfl | rfl | rfl <;> decide +kernel

theorem execSentryLoss_only {R : List RegSet} {s₀ : State} (s : State) (h₀ : OnlyRegs R s₀ s)
    (hR : [reg CAL_INT, reg CAL_REF_NS, reg CAL_REF_SEC_HI, reg CAL_REF_SEC_LO, reg CAL_REF_TICK_HI, reg CAL_REF_TICK_LO, reg
      CAL_STATUS, reg CAL_VBAT_CNT, reg CAL_VBAT_TICK_HI, reg CAL_VBAT_TICK_LO] ⊆ R) : AnswersOnly R s₀ (execSentryLoss s) := by
  unfold execSentryLoss
  with_reducible repeat' first
    | assumption
    | apply AnswersOnly.inFull
    | apply AnswersOnly.powered
    | apply AnswersOnly.next
    | apply AnswersOnly.done
    | apply sentryLoss_only

theorem vbatSwitch_only {R : List RegSet} {s₀ : State} (s : State) (h₀ : OnlyRegs R s₀ s)
    (hR : [reg CAL_INT, reg CAL_STATUS, reg CAL_VBAT_CNT, reg CTL_INT, regRun CAL_VBAT_TICK_LO 2] ⊆ R) : OnlyRegs R s₀ (vbatSwitch
      s) := by
  unfold vbatSwitch
  repeat' first
    | with_reducible assumption
    | exact List.Subset.trans (by decide) hR
    | with_reducible apply OnlyRegs.ite
    | exact covReg (hR (by decide))
    | exact covTwo (hR (by decide))
    | with_reducible apply setStat_only
    | with_reducible apply setSentry_only
    | with_reducible apply bumpSat_only
    | with_reducible apply wr64_only
    | with_reducible apply raise_only

theorem execVbatSwitch_only {R : List RegSet} {s₀ : State} (s : State) (h₀ : OnlyRegs R s₀ s)
    (hR : [reg CAL_INT, reg CAL_STATUS, reg CAL_VBAT_CNT, reg CTL_INT, regRun CAL_VBAT_TICK_LO 2] ⊆ R) : AnswersOnly R s₀
      (execVbatSwitch s) := by
  unfold execVbatSwitch
  with_reducible repeat' first
    | assumption
    | apply AnswersOnly.inFull
    | apply AnswersOnly.powered
    | apply AnswersOnly.next
    | apply AnswersOnly.done
    | apply vbatSwitch_only

theorem skipOne_only {R : List RegSet} {s₀ : State} (s : State) (h₀ : OnlyRegs R s₀ s)
    (hR : [reg CTL_INT, reg EGR_ALSEQ, reg EGR_INT, reg EGR_QINT, reg MKT_INT, reg MKT_TW_STAT, reg MST_INT, reg NST_TOP_INT,
      regRun (NST_SPLIT_W 0) 4] ⊆ R) : OnlyRegs R s₀ (skipOne s) := by
  unfold skipOne
  try dsimp only
  with_reducible repeat' first
    | assumption
    | exact List.Subset.trans (by decide) hR
    | apply openTab_only
    | apply schOccur_only
    | apply OnlyRegs.foldlPoints
    | split

theorem fireSkipped_only {R : List RegSet} {s₀ : State} (s : State) (h₀ : OnlyRegs R s₀ s)
    (hR : [reg CTL_INT, reg EGR_ALSEQ, reg EGR_INT, reg EGR_QINT, reg MKT_INT, reg MKT_TW_STAT, reg MST_INT, reg NST_TOP_INT,
      regRun (NST_SPLIT_W 0) 4] ⊆ R) : OnlyRegs R s₀ (fireSkipped s) := by
  unfold fireSkipped
  with_reducible repeat' first
    | exact OnlyRegs.refl _
    | assumption
    | (intro _; try dsimp only)
    | apply skipOne_only
    | apply OnlyRegs.foldlPoints
    | apply OnlyRegs.forUpTo

theorem applyCommit_only {R : List RegSet} {s₀ : State} (new : Nat) (s : State) (h₀ : OnlyRegs R s₀ s)
    (hR : [reg CTL_INT, reg EGR_ALSEQ, reg EGR_INT, reg EGR_QINT, reg MKT_INT, reg MKT_TW_STAT, reg MST_INT, reg NST_TOP_INT, reg
      SCL_STATUS, regRun (NST_SPLIT_W 0) 4] ⊆ R) : OnlyRegs R s₀ (applyCommit new s) := by
  unfold applyCommit
  repeat' first
    | exact List.Subset.trans (by decide) hR
    | with_reducible apply OnlyRegs.ite
    | exact covReg (hR (by decide))
    | with_reducible apply setStat_only
    | with_reducible apply fireSkipped_only
    | with_reducible apply capStep_only
    | with_reducible apply scalesStep_only
    | with_reducible apply raise_only
    | with_reducible apply mastTo_only
    | with_reducible apply OnlyRegs.foldlPoints
    | (with_reducible apply OnlyRegs.lit; first | with_reducible assumption)

theorem refuseCommit_only {R : List RegSet} {s₀ : State} (s : State) (h₀ : OnlyRegs R s₀ s)
    (hR : [reg CTL_INT, reg EGR_INT, reg EGR_QINT, reg LDG_INT, reg MST_INT, regFam LDG_DROP 8] ⊆ R) : OnlyRegs R s₀ (refuseCommit
      s) := by
  unfold refuseCommit
  repeat' first
    | with_reducible assumption
    | exact List.Subset.trans (by decide) hR
    | with_reducible apply OnlyRegs.ite
    | exact covReg (hR (by decide))
    | (show (_ : Nat) < _; decide)
    | with_reducible apply logEvent_only
    | with_reducible apply raise_only
    | with_reducible apply mastTo_only

theorem commit_only {R : List RegSet} {s₀ : State} (new : Nat) (s : State) (h₀ : OnlyRegs R s₀ s)
    (hR : [reg CTL_INT, reg EGR_ALSEQ, reg EGR_INT, reg EGR_QINT, reg LDG_INT, reg MKT_INT, reg MKT_TW_STAT, reg MST_INT, reg
      NST_TOP_INT, reg SCL_STATUS, regFam LDG_DROP 8, regRun (NST_SPLIT_W 0) 4] ⊆ R) : OnlyRegs R s₀ (commit new s) := by
  unfold commit
  with_reducible repeat' first
    | assumption
    | exact List.Subset.trans (by decide) hR
    | apply OnlyRegs.ite
    | apply refuseCommit_only
    | apply applyCommit_only

theorem execCommitSet_only {R : List RegSet} {s₀ : State} (who : Req) (s : State) (h₀ : OnlyRegs R s₀ s)
    (hR : [reg CTL_INT, reg EGR_ALSEQ, reg EGR_INT, reg EGR_QINT, reg LDG_INT, reg MKT_INT, reg MKT_TW_STAT, reg MST_INT, reg
      NST_TOP_INT, reg SCL_STATUS, regFam LDG_DROP 8, regRun (NST_SPLIT_W 0) 4] ⊆ R) : AnswersOnly R s₀ (execCommitSet who s) := by
  unfold execCommitSet
  with_reducible repeat' first
    | exact OnlyRegs.refl _
    | assumption
    | exact List.Subset.trans (by decide) hR
    | (intro _; try dsimp only)
    | apply AnswersOnly.inFull
    | apply AnswersOnly.powered
    | apply AnswersOnly.next
    | apply AnswersOnly.done
    | apply commit_only
    | apply serve_only

theorem execCommitStep_only {R : List RegSet} {s₀ : State} (who : Req) (backward : Bool) (s : State) (h₀ : OnlyRegs R s₀ s)
    (hR : [reg CTL_INT, reg EGR_ALSEQ, reg EGR_INT, reg EGR_QINT, reg LDG_INT, reg MKT_INT, reg MKT_TW_STAT, reg MST_INT, reg
      NST_TOP_INT, reg SCL_STATUS, regFam LDG_DROP 8, regRun (NST_SPLIT_W 0) 4] ⊆ R) : AnswersOnly R s₀ (execCommitStep who backward
      s) := by
  unfold execCommitStep
  with_reducible repeat' first
    | exact OnlyRegs.refl _
    | assumption
    | exact List.Subset.trans (by decide) hR
    | (intro _; try dsimp only)
    | apply AnswersOnly.inFull
    | apply AnswersOnly.powered
    | apply AnswersOnly.next
    | apply AnswersOnly.done
    | apply commit_only
    | apply serve_only

theorem deckFail_only {R : List RegSet} {s₀ : State} (s : State) (h₀ : OnlyRegs R s₀ s)
    (hR : [reg CTL_INT, reg EGR_INT, reg EGR_QINT, reg LDG_INT, regFam LDG_DROP 8] ⊆ R) : OnlyRegs R s₀ (deckFail s) := by
  unfold deckFail
  repeat' first
    | exact List.Subset.trans (by decide) hR
    | exact covReg (hR (by decide))
    | (show (_ : Nat) < _; decide)
    | with_reducible apply logEvent_only
    | with_reducible apply setInt_only
    | with_reducible apply deckReset_only
    | with_reducible apply updateNodeOk_only
    | with_reducible apply OnlyRegs.foldlPoints
    | (with_reducible apply OnlyRegs.lit; first | with_reducible assumption | with_reducible apply deckReset_only)

theorem execDeckFailed_only {R : List RegSet} {s₀ : State} (s : State) (h₀ : OnlyRegs R s₀ s)
    (hR : [reg BOT_CMD_STAT, reg BOT_INT, reg CAP_INT, reg CTL_INT, reg CTL_RESTART_INFO, reg EGR_ALSEQ, reg EGR_INT, reg
      EGR_QINT, reg LDG_CLR_STAT, reg LDG_INT, reg LDG_RD_STAT, reg MKT_INT, reg MKT_TW_STAT, reg MST_INT, reg NST_ISL_SUSP, reg
      NST_ISL_THR, reg NST_OSC_INT, reg NST_THR_FAST, reg NST_TOP_INT, reg SCL_EN_INT, reg SCL_EN_SAVE, reg SCL_EN_SAVE_STAT, reg
      SHR_INT, regFam LDG_DROP 8, regFam PT_STAT 8, regRun (NST_SPLIT_W 0) 4, ⟨LDG_REFUSED 0, 4, 0, 1⟩] ⊆ R) : AnswersOnly R s₀
      (execDeckFailed s) := by
  unfold execDeckFailed
  with_reducible repeat' first
    | assumption
    | exact List.Subset.trans (by decide) hR
    | apply OnlyRegs.ite
    | apply AnswersOnly.inFull
    | apply AnswersOnly.powered
    | apply AnswersOnly.next
    | apply AnswersOnly.done
    | apply inFull_only
    | apply deckFail_only
    | apply bootDeckFailed_only

theorem hostPostWrite_only {R : List RegSet} {s₀ : State} (c : Instr) (t : Nat) (f : State → State) (s : State) (h_f : ∀ (u :
    State), OnlyRegs R u (f u)) (h₀ : OnlyRegs R s₀ s)
    (hR : [] ⊆ R) : OnlyRegs R s₀ (hostPostWrite c t f s) := by
  unfold hostPostWrite
  with_reducible repeat' first
    | apply OnlyRegs.app h_f
    | apply h_f
    | apply holdWrite_only
    | apply OnlyRegs.foldlPoints
    | (apply OnlyRegs.lit; first | assumption | apply OnlyRegs.ite)

theorem hostCancel_only {R : List RegSet} {s₀ : State} (t : Nat) (withPost : Bool) (s : State) (h₀ : OnlyRegs R s₀ s) :
    OnlyRegs R s₀ (hostCancel t withPost s) := h₀.pass (hostCancel_within (L := [.live, .deck]) t withPost s (Within.refl s)
      (List.Subset.refl _)) (by decide)

theorem execHostPost_only {R : List RegSet} {s₀ : State} (t : Fin 256) (s : State) (h₀ : OnlyRegs R s₀ s)
    (hR : [reg CTL_INT] ⊆ R) : AnswersOnly R s₀ (execHostPost t s) := by
  unfold execHostPost
  with_reducible repeat' first
    | exact OnlyRegs.refl _
    | assumption
    | exact List.Subset.trans (by decide) hR
    | (intro _; try dsimp only)
    | apply AnswersOnly.inFull
    | apply AnswersOnly.powered
    | apply AnswersOnly.next
    | apply AnswersOnly.done
    | apply hostServe_only
    | apply offerPost_only
    | apply hostPostWrite_only

theorem execHostRestart_only {R : List RegSet} {s₀ : State} (who : Req) (key : BitVec 16) (s : State) (h₀ : OnlyRegs R s₀ s)
    (hR : [reg CTL_INT, reg CTL_RESTART_INFO, reg EGR_INT, reg EGR_QINT, reg LDG_INT, reg MST_INT, regFam LDG_DROP 8] ⊆ R) :
      AnswersOnly R s₀ (execHostRestart who key s) := by
  unfold execHostRestart
  with_reducible repeat' first
    | exact OnlyRegs.refl _
    | assumption
    | exact List.Subset.trans (by decide) hR
    | (intro _; try dsimp only)
    | apply OnlyRegs.ite
    | apply AnswersOnly.inFull
    | apply AnswersOnly.powered
    | apply AnswersOnly.next
    | apply AnswersOnly.done
    | apply deckRestart_only
    | apply serve_only

theorem threadFault_only {R : List RegSet} {s₀ : State} (c : Nat) (s : State) (h₀ : OnlyRegs R s₀ s)
    (hR : [reg CTL_INT, reg LDG_INT, regFam LDG_DROP 8] ⊆ R) : OnlyRegs R s₀ (threadFault c s) := by
  unfold threadFault
  try dsimp only
  repeat' first
    | with_reducible assumption
    | exact List.Subset.trans (by decide) hR
    | exact covReg (hR (by decide))
    | (show (_ : Nat) < _; decide)
    | with_reducible apply logEvent_only
    | with_reducible apply setInt_only
    | with_reducible apply setRunning_only
    | with_reducible apply setThread_only
    | with_reducible apply makeReady_only
    | with_reducible apply dispatch_only
    | with_reducible apply OnlyRegs.foldlPoints
    | split

theorem machineCheck_only {R : List RegSet} {s₀ : State} (core : Nat) (customer : Bool) (s : State) (h₀ : OnlyRegs R s₀ s)
    (hR : [reg CTL_INT, reg CTL_RESTART_INFO, reg EGR_INT, reg EGR_QINT, reg LDG_INT, reg MST_INT, regFam LDG_DROP 8] ⊆ R) :
      OnlyRegs R s₀ (machineCheck core customer s) := by
  unfold machineCheck
  repeat' first
    | with_reducible assumption
    | exact List.Subset.trans (by decide) hR
    | with_reducible apply OnlyRegs.ite
    | exact covReg (hR (by decide))
    | with_reducible apply deckRestart_only
    | with_reducible apply setInt_only
    | with_reducible apply threadFault_only

theorem execMachineCheck_only {R : List RegSet} {s₀ : State} (core : Fin 4) (customer : Bool) (s : State) (h₀ : OnlyRegs R s₀ s)
    (hR : [reg CTL_INT, reg CTL_RESTART_INFO, reg EGR_INT, reg EGR_QINT, reg LDG_INT, reg MST_INT, regFam LDG_DROP 8] ⊆ R) :
      AnswersOnly R s₀ (execMachineCheck core customer s) := by
  unfold execMachineCheck
  with_reducible repeat' first
    | assumption
    | apply AnswersOnly.inFull
    | apply AnswersOnly.powered
    | apply AnswersOnly.next
    | apply AnswersOnly.done
    | apply inFull_only
    | apply machineCheck_only

theorem execPcClear_only {R : List RegSet} {s₀ : State} (who : Req) (set : PcSet) (s : State) (h₀ : OnlyRegs R s₀ s)
    (hR : [reg CTL_DP_STAT, regFam CTL_PC_STAT 4, regFams (fun i => CTL_PC_CYC i 0) 4 2, regFams (fun i => CTL_PC_EV i 0) 4 16,
      regFams (fun i => CTL_PC_RET i 0) 4 2, regRun (CTL_DP_CNT 0) 64] ⊆ R) : AnswersOnly R s₀ (execPcClear who set s) := by
  unfold execPcClear
  with_reducible repeat' first
    | exact OnlyRegs.refl _
    | assumption
    | exact List.Subset.trans (by decide) hR
    | (intro _; try dsimp only)
    | apply AnswersOnly.inFull
    | apply AnswersOnly.powered
    | apply AnswersOnly.next
    | apply AnswersOnly.done
    | apply serve_only
    | apply pcZero_only
    | apply OnlyRegs.foldlPoints
    | apply OnlyRegs.foldl

theorem execPcEn_only {R : List RegSet} {s₀ : State} (who : Req) (set : PcSet) (on : Bool) (s : State) (h₀ : OnlyRegs R s₀ s)
    (hR : [reg CTL_DP_CTRL, regFam CTL_PC_CTRL 4] ⊆ R) : AnswersOnly R s₀ (execPcEn who set on s) :=
  AnswersOnly.next (serve_only _ _ _ _ _ (fun u => setStat_only _ _ _ _ (pcCtrl_covered set hR) (OnlyRegs.refl u) (List.nil_subset
      _)) h₀
    (List.nil_subset _))

theorem execPcFreeze_only {R : List RegSet} {s₀ : State} (who : Req) (set : PcSet) (on : Bool) (s : State) (h₀ : OnlyRegs R s₀ s)
    (hR : [reg CTL_DP_CTRL, regFam CTL_PC_CTRL 4] ⊆ R) : AnswersOnly R s₀ (execPcFreeze who set on s) :=
  AnswersOnly.next (serve_only _ _ _ _ _ (fun u => setStat_only _ _ _ _ (pcCtrl_covered set hR) (OnlyRegs.refl u) (List.nil_subset
      _)) h₀
    (List.nil_subset _))

theorem execPcOvf_only {R : List RegSet} {s₀ : State} (c : PcCounter) (s : State) (h₀ : OnlyRegs R s₀ s)
    (hR : [reg CTL_DP_STAT, reg CTL_INT, regFam CTL_PC_STAT 4, regFams (fun i => CTL_PC_CYC i 0) 4 2, regFams (fun i => CTL_PC_EV
      i 0) 4 16, regFams (fun i => CTL_PC_RET i 0) 4 2, regRun (CTL_DP_CNT 0) 64] ⊆ R) : AnswersOnly R s₀ (execPcOvf c s) :=
  AnswersOnly.inFull h₀ (OnlyRegs.ite h₀ (pcSetFlag_only _ _ (wr64_only _ _ _ (pcReg_covered c (List.Subset.trans (by decide) hR))
      h₀ (List.nil_subset _)) (List.Subset.trans (by decide) hR)))

theorem execPcSelWrite_only {R : List RegSet} {s₀ : State} (who : Req) (sel : PcSel) (v : Word) (s : State) (h₀ : OnlyRegs R s₀ s)
    (hR : [regFam CTL_DP_SEL 32, regFams (fun i => CTL_PC_SEL i 0) 4 8] ⊆ R) : AnswersOnly R s₀ (execPcSelWrite who sel v s) := by
  cases sel with
  | core c k =>
    refine AnswersOnly.next (serve_only _ _ _ _ _ (fun u => wr_only _ _ _ (OnlyRegs.refl u) ?_) h₀ (List.nil_subset _))
    have := covFams (R := R) (f := fun i => CTL_PC_SEL i 0) (n := 4) (m := 8) (hR (by decide)) (fun i => by simp only [CTL_PC_SEL]; omega) c.isLt k.val k.isLt
    simpa only [CTL_PC_SEL, Nat.mul_zero, Nat.add_zero] using this
  | dataPath k =>
    exact AnswersOnly.next (serve_only _ _ _ _ _ (fun u => wr_only _ _ _ (OnlyRegs.refl u)
      (covFam (f := CTL_DP_SEL) (n := 32) (hR (by decide)) (fun i => by simp only [CTL_DP_SEL]) k.isLt)) h₀ (List.nil_subset _))

theorem pcSmode_only {R : List RegSet} {s₀ : State} (c : Nat) (mode : Nat) (s : State) (b_c : c < 4) (h₀ : OnlyRegs R s₀ s)
    (hR : [regFam CTL_PC_CTRL 4, regFam CTL_PC_STAT 4] ⊆ R) : OnlyRegs R s₀ (pcSmode c mode s) := by
  unfold pcSmode
  repeat' first
    | with_reducible assumption
    | exact List.Subset.trans (by decide) hR
    | refine covFam (n := 4) (hR (by decide)) (fun i => by simp only [CTL_PC_CTRL, CTL_PC_STAT]) ?_
    | with_reducible apply setStat_only
    | with_reducible apply wrF_only
    | with_reducible apply setWindow_only
    | with_reducible apply OnlyRegs.foldlPoints
    | (with_reducible apply OnlyRegs.lit; first | with_reducible apply OnlyRegs.ite)

theorem execPcSmode_only {R : List RegSet} {s₀ : State} (who : Req) (c : Fin 4) (mode : BitVec 2) (s : State) (h₀ : OnlyRegs R s₀ s)
    (hR : [regFam CTL_PC_CTRL 4, regFam CTL_PC_STAT 4] ⊆ R) : AnswersOnly R s₀ (execPcSmode who c mode s) := by
  unfold execPcSmode
  with_reducible repeat' first
    | exact OnlyRegs.refl _
    | assumption
    | exact List.Subset.trans (by decide) hR
    | (intro _; try dsimp only)
    | apply AnswersOnly.inFull
    | apply AnswersOnly.powered
    | apply AnswersOnly.next
    | apply AnswersOnly.done
    | exact Fin.isLt _
    | apply pcSmode_only
    | apply serve_only

theorem postApply_only {R : List RegSet} {s₀ : State} (s : State) (h₀ : OnlyRegs R s₀ s) :
    OnlyRegs R s₀ (postApply s) := h₀.pass (postApply_within (L := [.live, .mast, .deck]) s (Within.refl s) (List.Subset.refl _))
      (by decide)

theorem postInstruction_only {R : List RegSet} {s₀ : State} (c : Nat) (target : Nat) (s : State) (h₀ : OnlyRegs R s₀ s)
    (hR : [reg CTL_INT] ⊆ R) : OnlyRegs R s₀ (postInstruction c target s) := by
  unfold postInstruction
  with_reducible repeat' first
    | assumption
    | apply offerPost_only
    | apply OnlyRegs.foldlPoints
    | split

theorem execPostInstruction_only {R : List RegSet} {s₀ : State} (core : Fin 4) (target : Fin 256) (s : State) (h₀ : OnlyRegs R s₀ s)
    (hR : [reg CTL_INT] ⊆ R) : AnswersOnly R s₀ (execPostInstruction core target s) := by
  unfold execPostInstruction
  with_reducible repeat' first
    | assumption
    | apply AnswersOnly.inFull
    | apply AnswersOnly.powered
    | apply AnswersOnly.next
    | apply AnswersOnly.done
    | apply inFull_only
    | apply postInstruction_only

theorem preciseSample_only {R : List RegSet} {s₀ : State} (c : Nat) (addr : BitVec 48) (latency : Nat) (s : State) (b_c : c < 4)
    (h₀ : OnlyRegs R s₀ s)
    (hR : [reg CTL_INT, regFam CTL_PC_STAT 4] ⊆ R) : OnlyRegs R s₀ (preciseSample c addr latency s) := by
  unfold preciseSample
  with_reducible repeat' first
    | assumption
    | apply pushSample_only

theorem execPreciseSample_only {R : List RegSet} {s₀ : State} (c : Fin 4) (addr : BitVec 48) (latency : BitVec 16) (s : State) (h₀
    : OnlyRegs R s₀ s)
    (hR : [reg CTL_INT, regFam CTL_PC_STAT 4] ⊆ R) : AnswersOnly R s₀ (execPreciseSample c addr latency s) := by
  unfold execPreciseSample
  with_reducible repeat' first
    | assumption
    | apply OnlyRegs.ite
    | apply AnswersOnly.inFull
    | apply AnswersOnly.powered
    | apply AnswersOnly.next
    | apply AnswersOnly.done
    | exact Fin.isLt _
    | apply preciseSample_only

theorem execDeckRestartDone_only {R : List RegSet} {s₀ : State} (verified : Bool) (version : Word) (s : State) (h₀ : OnlyRegs R s₀ s)
    (hR : [reg BOT_CMD_STAT, reg BOT_INT, reg CTL_INT, reg CTL_RESTART_INFO, reg EGR_INT, reg EGR_QINT, reg HST_FW_VER, reg
      LDG_INT, regFam LDG_DROP 8, regFam PRT_RX_HEAD 64, regFam PRT_RX_TAIL 64] ⊆ R) : AnswersOnly R s₀ (execDeckRestartDone verified
      version s) := by
  unfold execDeckRestartDone
  with_reducible repeat' first
    | assumption
    | exact List.Subset.trans (by decide) hR
    | apply OnlyRegs.ite
    | apply AnswersOnly.inFull
    | apply AnswersOnly.powered
    | apply AnswersOnly.next
    | apply AnswersOnly.done
    | apply inFull_only
    | apply deckRun_only
    | apply bootDeckRun_only
    | apply bootLoadCode_only

theorem execSchedSnapshot_only {R : List RegSet} {s₀ : State} (who : Req) (clr : Bool) (s : State) (h₀ : OnlyRegs R s₀ s)
    (hR : [reg CTL_INT, reg CTL_SCH_SNAP_SEQ, regRun (CTL_SCH_CNT 0) 18] ⊆ R) : AnswersOnly R s₀ (execSchedSnapshot who clr s) := by
  unfold execSchedSnapshot
  repeat' first
    | with_reducible exact OnlyRegs.refl _
    | with_reducible assumption
    | exact List.Subset.trans (by decide) hR
    | (intro _; try dsimp only)
    | with_reducible apply AnswersOnly.inFull
    | with_reducible apply AnswersOnly.powered
    | with_reducible apply AnswersOnly.next
    | with_reducible apply AnswersOnly.done
    | exact covReg (hR (by decide))
    | refine snapshot_only _ 9 _ _ _ ?_ (covRun (hR (by decide))) ?_
    | with_reducible apply setInt_only
    | with_reducible apply serve_only

theorem execThLoad_only {R : List RegSet} {s₀ : State} (who : Req) (t : Fin 256) (s : State) (h₀ : OnlyRegs R s₀ s)
    (hR : [reg CTL_TH_IDX, regRun (CTL_TH_W 0) 2] ⊆ R) : AnswersOnly R s₀ (execThLoad who t s) :=
  AnswersOnly.next (serve_only _ _ _ _ _ (fun u => wrWords_only _ _ _ 2 (wr_only _ _ _ (OnlyRegs.refl u) (covReg (hR (by decide))))
    (by simp [thWords]) (hR (by decide))) h₀ (List.nil_subset _))

theorem execThreadFault_only {R : List RegSet} {s₀ : State} (core : Fin 4) (s : State) (h₀ : OnlyRegs R s₀ s)
    (hR : [reg CTL_INT, reg LDG_INT, regFam LDG_DROP 8] ⊆ R) : AnswersOnly R s₀ (execThreadFault core s) := by
  unfold execThreadFault
  with_reducible repeat' first
    | assumption
    | apply AnswersOnly.inFull
    | apply AnswersOnly.powered
    | apply AnswersOnly.next
    | apply AnswersOnly.done
    | apply inFull_only
    | apply threadFault_only

theorem threadWait_only {R : List RegSet} {s₀ : State} (c : Nat) (timeout : Nat) (s : State) (h₀ : OnlyRegs R s₀ s) :
    OnlyRegs R s₀ (threadWait c timeout s) := h₀.pass (threadWait_within (L := [.live, .deck]) c timeout s (Within.refl s)
      (List.Subset.refl _)) (by decide)

theorem execTickTimeout_only {R : List RegSet} {s₀ : State} (t : Fin 256) (s : State) (h₀ : OnlyRegs R s₀ s)
    (hR : [reg CTL_INT] ⊆ R) : AnswersOnly R s₀ (execTickTimeout t s) := by
  unfold execTickTimeout
  with_reducible repeat' first
    | assumption
    | apply OnlyRegs.ite
    | apply AnswersOnly.inFull
    | apply AnswersOnly.powered
    | apply AnswersOnly.next
    | apply AnswersOnly.done
    | apply inFull_only
    | apply offerPost_only
    | apply setThread_only

theorem w2winClose_only {R : List RegSet} {s₀ : State} (c : Nat) (cycles : Nat) (retired : Nat) (wasted : Nat) (front : Nat) (mask
    : Nat) (w : W2Win) (s : State) (b_c : c < 4) (h₀ : OnlyRegs R s₀ s)
    (hR : [reg CTL_INT, regFam CTL_PC_STAT 4] ⊆ R) : OnlyRegs R s₀ (w2winClose c cycles retired wasted front mask w s) := by
  unfold w2winClose
  with_reducible repeat' first
    | assumption
    | apply pushSample_only
    | apply OnlyRegs.foldlPoints
    | (apply OnlyRegs.lit; first | assumption)

theorem execW2winClose_only {R : List RegSet} {s₀ : State} (c : Fin 4) (cycles : Fin 33) (retired : Nat) (wasted : Nat) (front :
    Nat) (mask : BitVec 7) (s : State) (h₀ : OnlyRegs R s₀ s)
    (hR : [reg CTL_INT, regFam CTL_PC_STAT 4] ⊆ R) : AnswersOnly R s₀ (execW2winClose c cycles retired wasted front mask s) := by
  unfold execW2winClose
  with_reducible repeat' first
    | assumption
    | apply AnswersOnly.inFull
    | apply AnswersOnly.powered
    | apply AnswersOnly.next
    | apply AnswersOnly.done
    | exact Fin.isLt _
    | apply inFull_only
    | apply w2winClose_only
    | apply OnlyRegs.foldlPoints
    | split

theorem execWdogExpiry_only {R : List RegSet} {s₀ : State} (s : State) (h₀ : OnlyRegs R s₀ s)
    (hR : [reg CTL_INT, reg CTL_RESTART_INFO, reg EGR_INT, reg EGR_QINT, reg LDG_INT, reg MST_INT, regFam LDG_DROP 8] ⊆ R) :
      AnswersOnly R s₀ (execWdogExpiry s) := by
  unfold execWdogExpiry
  repeat' first
    | with_reducible assumption
    | exact List.Subset.trans (by decide) hR
    | with_reducible apply OnlyRegs.ite
    | with_reducible apply AnswersOnly.inFull
    | with_reducible apply AnswersOnly.powered
    | with_reducible apply AnswersOnly.next
    | with_reducible apply AnswersOnly.done
    | exact covReg (hR (by decide))
    | with_reducible apply inFull_only
    | with_reducible apply deckRestart_only
    | with_reducible apply setInt_only

theorem wdogKick_only {R : List RegSet} {s₀ : State} (who : Req) (s : State) (h₀ : OnlyRegs R s₀ s) :
    OnlyRegs R s₀ (wdogKick who s) := h₀.pass (wdogKick_within (L := [.deck]) who s (Within.refl s) (List.Subset.refl _)) (by decide)

theorem setPaused_only {R : List RegSet} {s₀ : State} (p : Nat) (m : Nat) (s : State) (h₀ : OnlyRegs R s₀ s) :
    OnlyRegs R s₀ (setPaused p m s) := h₀.pass (setPaused_within (L := [.live, .ports]) p m s (Within.refl s) (List.Subset.refl
      _)) (by decide)

theorem macFrame_only {R : List RegSet} {s₀ : State} (p : Nat) (k : RxKind) (s : State) (h₀ : OnlyRegs R s₀ s) :
    OnlyRegs R s₀ (macFrame p k s) := h₀.pass (macFrame_within (L := [.live, .ports]) p k s (Within.refl s) (List.Subset.refl _))
      (by decide)

theorem classify_only {R : List RegSet} {s₀ : State} (p : Nat) (f : RxFrame) (s : State) (b_p : p < 64) (h₀ : OnlyRegs R s₀ s)
    (hR : [reg CTL_INT, reg ING_INT, regFam PRT_INT 64, regFam PRT_RX_HEAD 64, regFam PRT_TSQ_STAT 64] ⊆ R) : OnlyRegs R s₀
      (classify p f s) := by
  unfold classify
  repeat' first
    | with_reducible assumption
    | exact List.Subset.trans (by decide) hR
    | refine covFam (n := 64) (hR (by decide)) (fun i => by simp only [PRT_INT, PRT_RX_HEAD, PRT_TSQ_STAT]) ?_
    | with_reducible apply portCount_only
    | with_reducible apply macFrame_only
    | with_reducible apply toIngest_only
    | with_reducible apply toRing_only
    | with_reducible apply OnlyRegs.foldlPoints
    | (with_reducible apply OnlyRegs.lit; first | with_reducible assumption)
    | split

theorem clearPort_only {R : List RegSet} {s₀ : State} (p : Nat) (s : State) (h₀ : OnlyRegs R s₀ s) :
    OnlyRegs R s₀ (clearPort p s) := h₀.pass (clearPort_within (L := [.live, .ports]) p s (Within.refl s) (List.Subset.refl _))
      (by decide)

theorem countGood_only {R : List RegSet} {s₀ : State} (p : Nat) (f : RxFrame) (s : State) (h₀ : OnlyRegs R s₀ s) :
    OnlyRegs R s₀ (countGood p f s) := h₀.pass (countGood_within (L := [.live]) p f s (Within.refl s) (List.Subset.refl _)) (by
      decide)

theorem deckOnly_only {R : List RegSet} {s₀ : State} (who : Req) (f : State → State) (s : State) (h_f : ∀ (u : State), OnlyRegs R
    u (f u)) (h₀ : OnlyRegs R s₀ s)
    (hR : [] ⊆ R) : OnlyRegs R s₀ (deckOnly who f s) := by
  unfold deckOnly
  with_reducible repeat' first
    | assumption
    | apply OnlyRegs.app h_f
    | apply h_f
    | apply OnlyRegs.foldlPoints
    | split

theorem eeeWrite_only {R : List RegSet} {s₀ : State} (p : Nat) (v : Word) (s : State) (b_p : p < 64) (h₀ : OnlyRegs R s₀ s)
    (hR : [reg CTL_INT, regFam PRT_EEE 64, regFam PRT_INT 64] ⊆ R) : OnlyRegs R s₀ (eeeWrite p v s) := by
  unfold eeeWrite
  repeat' first
    | with_reducible assumption
    | exact List.Subset.trans (by decide) hR
    | with_reducible apply OnlyRegs.ite
    | refine covFam (n := 64) (hR (by decide)) (fun i => by simp only [PRT_EEE, PRT_INT]) ?_
    | with_reducible apply wr_only
    | with_reducible apply raise_only

theorem execEeeWrite_only {R : List RegSet} {s₀ : State} (who : Req) (p : Fin 64) (v : Word) (s : State) (h₀ : OnlyRegs R s₀ s)
    (hR : [reg CTL_INT, regFam PRT_EEE 64, regFam PRT_INT 64] ⊆ R) : AnswersOnly R s₀ (execEeeWrite who p v s) := by
  unfold execEeeWrite
  with_reducible repeat' first
    | exact OnlyRegs.refl _
    | assumption
    | exact List.Subset.trans (by decide) hR
    | (intro _; try dsimp only)
    | apply AnswersOnly.inFull
    | apply AnswersOnly.powered
    | apply AnswersOnly.next
    | apply AnswersOnly.done
    | exact Fin.isLt _
    | apply eeeWrite_only
    | apply serve_only

theorem execLinkChange_only {R : List RegSet} {s₀ : State} (p : Fin 64) (up : Bool) (anDone : Bool) (s : State) (h₀ : OnlyRegs R s₀ s)
    (hR : [reg CTL_INT, regFam PRT_INT 64] ⊆ R) : AnswersOnly R s₀ (execLinkChange p up anDone s) := by
  unfold execLinkChange
  with_reducible repeat' first
    | assumption
    | apply OnlyRegs.ite
    | apply AnswersOnly.inFull
    | apply AnswersOnly.powered
    | apply AnswersOnly.next
    | apply AnswersOnly.done
    | exact Fin.isLt _
    | apply inFull_only
    | apply linkChange_only

theorem pfcXon_only {R : List RegSet} {s₀ : State} (p : Nat) (s : State) (h₀ : OnlyRegs R s₀ s) :
    OnlyRegs R s₀ (pfcXon p s) := h₀.pass (pfcXon_within (L := [.live, .ports, .out]) p s (Within.refl s) (List.Subset.refl _))
      (by decide)

theorem settleUs_only {R : List RegSet} {s₀ : State} (p : Nat) (s : State) (h₀ : OnlyRegs R s₀ s) :
    OnlyRegs R s₀ (settleUs p s) := h₀.pass (settleUs_within (L := [.live, .ports]) p s (Within.refl s) (List.Subset.refl _)) (by
      decide)

theorem snapPort_only {R : List RegSet} {s₀ : State} (clr : Bool) (p : Nat) (s : State) (b_p : p < 64) (h₀ : OnlyRegs R s₀ s)
    (hR : [reg CTL_INT, regFam PRT_INT 64, regFam PRT_SNAP_NS 64, regFam PRT_SNAP_SEC 64, regFam PRT_SNAP_SEQ 64, regFams (fun i
      => PRT_STAT i 0) 64 96] ⊆ R) : OnlyRegs R s₀ (snapPort clr p s) := by
  have run : ∀ k, k < 96 → Covered R (PRT_STAT p 0 + 4 * k) :=
    covFams (f := fun i => PRT_STAT i 0) (n := 64) (m := 96) (hR (by decide)) (fun i => by simp only [PRT_STAT]; omega) b_p
  unfold snapPort
  extract_lets x t u v
  have ht : OnlyRegs R s₀ t := snapshot_only _ 48 _ _ _ (settleUs_only _ _ h₀) run (covFam (f := PRT_SNAP_SEQ) (n := 64) (hR (by
      decide)) (fun i => by simp only [PRT_SNAP_SEQ]) b_p)
  have hu : OnlyRegs R s₀ u := wr64_only _ _ _ ⟨by
    have := run (2 * cRX_BUF_PEAK) (by decide)
    simpa only [PRT_STAT, Nat.mul_zero, Nat.add_zero] using this, by
    have := run (2 * cRX_BUF_PEAK + 1) (by decide)
    rwa [show PRT_STAT p 0 + 4 * (2 * cRX_BUF_PEAK + 1) = PRT_STAT p (2 * cRX_BUF_PEAK) + 4 from by simp only [PRT_STAT]; omega] at this⟩
    ht (List.nil_subset _)
  have hv : OnlyRegs R s₀ v := wr_only _ _ _ (wr_only _ _ _ hu (covFam (f := PRT_SNAP_NS) (n := 64) (hR (by decide)) (fun i => by
      simp only [PRT_SNAP_NS]) b_p))
    (covFam (f := PRT_SNAP_SEC) (n := 64) (hR (by decide)) (fun i => by simp only [PRT_SNAP_SEC]) b_p)
  exact raise_only _ _ _ (covFam (f := PRT_INT) (n := 64) (hR (by decide)) (fun i => by simp only [PRT_INT]) b_p) (OnlyRegs.ite
      (setPort_only _ _ _ hv) hv)
    (List.Subset.trans (by decide) hR)

theorem execPortSnapshot_only {R : List RegSet} {s₀ : State} (who : Req) (p : Fin 64) (clr : Bool) (s : State) (h₀ : OnlyRegs R s₀ s)
    (hR : [reg CTL_INT, regFam PRT_INT 64, regFam PRT_SNAP_NS 64, regFam PRT_SNAP_SEC 64, regFam PRT_SNAP_SEQ 64, regFams (fun i
      => PRT_STAT i 0) 64 96] ⊆ R) : AnswersOnly R s₀ (execPortSnapshot who p clr s) := by
  unfold execPortSnapshot
  with_reducible repeat' first
    | exact OnlyRegs.refl _
    | assumption
    | exact List.Subset.trans (by decide) hR
    | (intro _; try dsimp only)
    | apply AnswersOnly.inFull
    | apply AnswersOnly.powered
    | apply AnswersOnly.next
    | apply AnswersOnly.done
    | exact Fin.isLt _
    | apply snapPort_only
    | apply serve_only

theorem snapAllPorts_only {R : List RegSet} {s₀ : State} (clr : Bool) (s : State) (h₀ : OnlyRegs R s₀ s)
    (hR : [reg CTL_INT, regFam PRT_INT 64, regFam PRT_SNAP_NS 64, regFam PRT_SNAP_SEC 64, regFam PRT_SNAP_SEQ 64, regFams (fun i
      => PRT_STAT i 0) 64 96] ⊆ R) : OnlyRegs R s₀ (snapAllPorts clr s) := by
  unfold snapAllPorts
  with_reducible repeat' first
    | assumption
    | (intro _; try dsimp only)
    | apply clearPort_only
    | apply snapPort_only
    | apply OnlyRegs.foldlPoints
    | (apply OnlyRegs.lit; first | exact OnlyRegs.refl _ | assumption | apply OnlyRegs.forUpTo)
    | split

theorem execPortSnapshotAll_only {R : List RegSet} {s₀ : State} (who : Req) (clr : Bool) (s : State) (h₀ : OnlyRegs R s₀ s)
    (hR : [reg CTL_INT, regFam PRT_INT 64, regFam PRT_SNAP_NS 64, regFam PRT_SNAP_SEC 64, regFam PRT_SNAP_SEQ 64, regFams (fun i
      => PRT_STAT i 0) 64 96] ⊆ R) : AnswersOnly R s₀ (execPortSnapshotAll who clr s) := by
  unfold execPortSnapshotAll
  with_reducible repeat' first
    | exact OnlyRegs.refl _
    | assumption
    | exact List.Subset.trans (by decide) hR
    | (intro _; try dsimp only)
    | apply AnswersOnly.inFull
    | apply AnswersOnly.powered
    | apply AnswersOnly.next
    | apply AnswersOnly.done
    | apply serve_only
    | apply snapAllPorts_only

theorem execRingDisable_only {R : List RegSet} {s₀ : State} (who : Req) (p : Fin 64) (s : State) (h₀ : OnlyRegs R s₀ s)
    (hR : [regFam PRT_RX_CTRL 64] ⊆ R) : AnswersOnly R s₀ (execRingDisable who p s) := by
  unfold execRingDisable
  repeat' first
    | with_reducible exact OnlyRegs.refl _
    | with_reducible assumption
    | exact List.Subset.trans (by decide) hR
    | (intro _; try dsimp only)
    | with_reducible apply AnswersOnly.inFull
    | with_reducible apply AnswersOnly.powered
    | with_reducible apply AnswersOnly.next
    | with_reducible apply AnswersOnly.done
    | refine covFam (n := 64) (hR (by decide)) (fun i => by simp only [PRT_RX_CTRL]) ?_
    | exact Fin.isLt _
    | with_reducible apply setStat_only
    | with_reducible apply deckOnly_only
    | with_reducible apply serve_only

theorem ringEnable_only {R : List RegSet} {s₀ : State} (p : Nat) (s : State) (b_p : p < 64) (h₀ : OnlyRegs R s₀ s)
    (hR : [regFam PRT_RX_CTRL 64, regFam PRT_RX_HEAD 64, regFam PRT_RX_TAIL 64] ⊆ R) : OnlyRegs R s₀ (ringEnable p s) := by
  unfold ringEnable
  repeat' first
    | with_reducible assumption
    | exact List.Subset.trans (by decide) hR
    | with_reducible apply OnlyRegs.ite
    | refine covFam (n := 64) (hR (by decide)) (fun i => by simp only [PRT_RX_CTRL, PRT_RX_HEAD, PRT_RX_TAIL]) ?_
    | with_reducible apply setStat_only
    | with_reducible apply wr_only
    | with_reducible apply setPort_only

theorem execRingEnable_only {R : List RegSet} {s₀ : State} (who : Req) (p : Fin 64) (s : State) (h₀ : OnlyRegs R s₀ s)
    (hR : [regFam PRT_RX_CTRL 64, regFam PRT_RX_HEAD 64, regFam PRT_RX_TAIL 64] ⊆ R) : AnswersOnly R s₀ (execRingEnable who p s) := by
  unfold execRingEnable
  with_reducible repeat' first
    | exact OnlyRegs.refl _
    | assumption
    | exact List.Subset.trans (by decide) hR
    | (intro _; try dsimp only)
    | apply AnswersOnly.inFull
    | apply AnswersOnly.powered
    | apply AnswersOnly.next
    | apply AnswersOnly.done
    | exact Fin.isLt _
    | apply deckOnly_only
    | apply serve_only
    | apply ringEnable_only

theorem rxFrame_only {R : List RegSet} {s₀ : State} (p : Nat) (f : RxFrame) (s : State) (b_p : p < 64) (h₀ : OnlyRegs R s₀ s)
    (hR : [reg CTL_INT, reg ING_INT, regFam PRT_INT 64, regFam PRT_RX_HEAD 64, regFam PRT_TSQ_STAT 64] ⊆ R) : OnlyRegs R s₀
      (rxFrame p f s) := by
  unfold rxFrame
  try dsimp only
  repeat' first
    | with_reducible assumption
    | exact List.Subset.trans (by decide) hR
    | refine covFam (n := 64) (hR (by decide)) (fun i => by simp only [PRT_INT]) ?_
    | with_reducible apply portCount_only
    | with_reducible apply countGood_only
    | with_reducible apply classify_only
    | with_reducible apply raise_only
    | with_reducible apply bufReach_only
    | with_reducible apply OnlyRegs.foldlPoints
    | split

theorem execRxFrame_only {R : List RegSet} {s₀ : State} (p : Fin 64) (f : RxFrame) (s : State) (h₀ : OnlyRegs R s₀ s)
    (hR : [reg CTL_INT, reg ING_INT, regFam PRT_INT 64, regFam PRT_RX_HEAD 64, regFam PRT_TSQ_STAT 64] ⊆ R) : AnswersOnly R s₀
      (execRxFrame p f s) := by
  unfold execRxFrame
  with_reducible repeat' first
    | assumption
    | apply OnlyRegs.ite
    | apply AnswersOnly.inFull
    | apply AnswersOnly.powered
    | apply AnswersOnly.next
    | apply AnswersOnly.done
    | exact Fin.isLt _
    | apply inFull_only
    | apply rxFrame_only

theorem rxLpi_only {R : List RegSet} {s₀ : State} (p : Nat) (enter : Bool) (s : State) (h₀ : OnlyRegs R s₀ s) :
    OnlyRegs R s₀ (rxLpi p enter s) := h₀.pass (rxLpi_within (L := [.live, .ports]) p enter s (Within.refl s) (List.Subset.refl
      _)) (by decide)

theorem execRxReadyCoalesce_only {R : List RegSet} {s₀ : State} (p : Fin 64) (s : State) (h₀ : OnlyRegs R s₀ s)
    (hR : [reg CTL_INT, regFam PRT_INT 64] ⊆ R) : AnswersOnly R s₀ (execRxReadyCoalesce p s) := by
  unfold execRxReadyCoalesce
  repeat' first
    | with_reducible assumption
    | exact List.Subset.trans (by decide) hR
    | with_reducible apply OnlyRegs.ite
    | with_reducible apply AnswersOnly.inFull
    | with_reducible apply AnswersOnly.powered
    | with_reducible apply AnswersOnly.next
    | with_reducible apply AnswersOnly.done
    | refine covFam (n := 64) (hR (by decide)) (fun i => by simp only [PRT_INT]) ?_
    | exact Fin.isLt _
    | with_reducible apply inFull_only
    | with_reducible apply raise_only
    | with_reducible apply setPort_only

theorem rxTailWrite_only {R : List RegSet} {s₀ : State} (p : Nat) (tail : Nat) (bufs : List Nat) (s : State) (b_p : p < 64) (h₀ :
    OnlyRegs R s₀ s)
    (hR : [regFam PRT_RX_TAIL 64] ⊆ R) : OnlyRegs R s₀ (rxTailWrite p tail bufs s) := by
  unfold rxTailWrite
  repeat' first
    | with_reducible exact OnlyRegs.refl _
    | with_reducible assumption
    | (intro _; try dsimp only)
    | refine covFam (n := 64) (hR (by decide)) (fun i => by simp only [PRT_RX_TAIL]) ?_
    | with_reducible apply wr_only
    | with_reducible apply offerDesc_only
    | with_reducible apply OnlyRegs.foldlPoints
    | with_reducible apply OnlyRegs.forUpTo

theorem execRxTail_only {R : List RegSet} {s₀ : State} (who : Req) (p : Fin 64) (index : BitVec 9) (bufs : List (BitVec 27))
    (s : State) (h₀ : OnlyRegs R s₀ s)
    (hR : [regFam PRT_RX_TAIL 64] ⊆ R) : AnswersOnly R s₀ (execRxTail who p index bufs s) := by
  unfold execRxTail
  with_reducible repeat' first
    | exact OnlyRegs.refl _
    | assumption
    | exact List.Subset.trans (by decide) hR
    | (intro _; try dsimp only)
    | apply AnswersOnly.inFull
    | apply AnswersOnly.powered
    | apply AnswersOnly.next
    | apply AnswersOnly.done
    | exact Fin.isLt _
    | apply deckOnly_only
    | apply rxTailWrite_only
    | apply serve_only

theorem tsqLatch_only {R : List RegSet} {s₀ : State} (who : Req) (p : Nat) (s : State) (h₀ : OnlyRegs R s₀ s) :
    OnlyRegs R s₀ (tsqLatch who p s) := h₀.pass (tsqLatch_within (L := [.ports, .out]) who p s (Within.refl s) (List.Subset.refl
      _)) (by decide)

theorem tsqPop_only {R : List RegSet} {s₀ : State} (who : Req) (p : Nat) (s : State) (h₀ : OnlyRegs R s₀ s) :
    OnlyRegs R s₀ (tsqPop who p s) := h₀.pass (tsqPop_within (L := [.ports, .out]) who p s (Within.refl s) (List.Subset.refl _))
      (by decide)

theorem txFrameEnd_only {R : List RegSet} {s₀ : State} (p : Nat) (s : State) (b_p : p < 64) (h₀ : OnlyRegs R s₀ s)
    (hR : [reg CTL_INT, regFam PRT_INT 64, regFam PRT_TSQ_STAT 64] ⊆ R) : OnlyRegs R s₀ (txFrameEnd p s) := by
  unfold txFrameEnd
  repeat' first
    | with_reducible assumption
    | exact List.Subset.trans (by decide) hR
    | refine covFam (n := 64) (hR (by decide)) (fun i => by simp only [PRT_INT, PRT_TSQ_STAT]) ?_
    | with_reducible apply portCount_only
    | with_reducible apply tsqPush_only
    | with_reducible apply emit_only
    | with_reducible apply setPort_only
    | with_reducible apply OnlyRegs.foldlPoints
    | split

theorem execTxFrameEnd_only {R : List RegSet} {s₀ : State} (p : Fin 64) (s : State) (h₀ : OnlyRegs R s₀ s)
    (hR : [reg CTL_INT, regFam PRT_INT 64, regFam PRT_TSQ_STAT 64] ⊆ R) : AnswersOnly R s₀ (execTxFrameEnd p s) := by
  unfold execTxFrameEnd
  with_reducible repeat' first
    | assumption
    | apply OnlyRegs.ite
    | apply AnswersOnly.inFull
    | apply AnswersOnly.powered
    | apply AnswersOnly.next
    | apply AnswersOnly.done
    | exact Fin.isLt _
    | apply inFull_only
    | apply txFrameEnd_only

theorem commitNow_only {R : List RegSet} {s₀ : State} (q : Nat) (b : Nat) (prio : Nat) (len : Nat) (s : State) (h₀ : OnlyRegs R s₀ s)
    (hR : [reg CTL_INT, reg EGR_QINT] ⊆ R) : OnlyRegs R s₀ (commitNow q b prio len s) := by
  unfold commitNow
  with_reducible repeat' first
    | assumption
    | apply OnlyRegs.ite
    | apply setQueue_only
    | apply nextItem_only
    | apply qLand_only

theorem unwait_only {R : List RegSet} {s₀ : State} (i : QItem) (s : State) (h₀ : OnlyRegs R s₀ s) :
    OnlyRegs R s₀ (unwait i s) := h₀.pass (unwait_within (L := [.egr]) i s (Within.refl s) (List.Subset.refl _)) (by decide)

theorem execComposerEnqueue_only {R : List RegSet} {s₀ : State} (s : State) (h₀ : OnlyRegs R s₀ s)
    (hR : [reg CTL_INT, reg EGR_QINT] ⊆ R) : AnswersOnly R s₀ (execComposerEnqueue s) := by
  unfold execComposerEnqueue
  with_reducible repeat' first
    | assumption
    | apply AnswersOnly.inFull
    | apply AnswersOnly.powered
    | apply AnswersOnly.next
    | apply AnswersOnly.done
    | apply inFull_only
    | apply unwait_only
    | apply qLand_only
    | apply OnlyRegs.foldlPoints
    | split

theorem execEgressSnapshot_only {R : List RegSet} {s₀ : State} (who : Req) (clr : Bool) (s : State) (h₀ : OnlyRegs R s₀ s)
    (hR : [reg CTL_INT, reg EGR_INT, reg EGR_SNAP_SEQ, regRun (EGR_CNT 0) 24] ⊆ R) : AnswersOnly R s₀ (execEgressSnapshot who clr
      s) := by
  unfold execEgressSnapshot
  repeat' first
    | with_reducible exact OnlyRegs.refl _
    | with_reducible assumption
    | exact List.Subset.trans (by decide) hR
    | (intro _; try dsimp only)
    | with_reducible apply AnswersOnly.inFull
    | with_reducible apply AnswersOnly.powered
    | with_reducible apply AnswersOnly.next
    | with_reducible apply AnswersOnly.done
    | exact covReg (hR (by decide))
    | refine snapshot_only _ 12 _ _ _ ?_ (covRun (hR (by decide))) ?_
    | with_reducible apply serve_only
    | with_reducible apply raise_only

theorem gooseRetransmit_only {R : List RegSet} {s₀ : State} (p : Nat) (s : State) (h₀ : OnlyRegs R s₀ s)
    (hR : [reg CTL_INT, reg EGR_INT, reg EGR_QINT] ⊆ R) : OnlyRegs R s₀ (gooseRetransmit p s) := by
  unfold gooseRetransmit
  try dsimp only
  with_reducible repeat' first
    | assumption
    | apply setPub_only
    | apply pubTransmit_only
    | apply OnlyRegs.foldlPoints
    | split

theorem execGooseRetransmit_only {R : List RegSet} {s₀ : State} (p : Fin 32) (s : State) (h₀ : OnlyRegs R s₀ s)
    (hR : [reg CTL_INT, reg EGR_INT, reg EGR_QINT] ⊆ R) : AnswersOnly R s₀ (execGooseRetransmit p s) := by
  unfold execGooseRetransmit
  with_reducible repeat' first
    | assumption
    | apply AnswersOnly.inFull
    | apply AnswersOnly.powered
    | apply AnswersOnly.next
    | apply AnswersOnly.done
    | apply gooseRetransmit_only

theorem outSwitch_only {R : List RegSet} {s₀ : State} (k : Nat) (on : Bool) (s : State) (h₀ : OnlyRegs R s₀ s) :
    OnlyRegs R s₀ (outSwitch k on s) := h₀.pass (outSwitch_within (L := [.egr]) k on s (Within.refl s) (List.Subset.refl _)) (by
      decide)

theorem osCommandFrame_only {R : List RegSet} {s₀ : State} (id : Nat) (cmd : OsCmd) (ip : Nat) (udp : Nat) (s : State) (h₀ :
    OnlyRegs R s₀ s) :
    OnlyRegs R s₀ (osCommandFrame id cmd ip udp s) := h₀.pass (osCommandFrame_within (L := [.egr, .out]) id cmd ip udp s
      (Within.refl s) (List.Subset.refl _)) (by decide)

theorem osItemAbandon_only {R : List RegSet} {s₀ : State} (s : State) (h₀ : OnlyRegs R s₀ s)
    (hR : [reg CTL_INT, reg EGR_INT] ⊆ R) : OnlyRegs R s₀ (osItemAbandon s) := by
  unfold osItemAbandon
  repeat' first
    | with_reducible assumption
    | exact List.Subset.trans (by decide) hR
    | exact covReg (hR (by decide))
    | with_reducible apply egrCount_only
    | with_reducible apply unwait_only
    | with_reducible apply raise_only
    | with_reducible apply setOut_only
    | with_reducible apply OnlyRegs.foldlPoints
    | split

theorem execOsItemAbandon_only {R : List RegSet} {s₀ : State} (s : State) (h₀ : OnlyRegs R s₀ s)
    (hR : [reg CTL_INT, reg EGR_INT] ⊆ R) : AnswersOnly R s₀ (execOsItemAbandon s) := by
  unfold execOsItemAbandon
  with_reducible repeat' first
    | assumption
    | apply AnswersOnly.inFull
    | apply AnswersOnly.powered
    | apply AnswersOnly.next
    | apply AnswersOnly.done
    | apply inFull_only
    | apply osItemAbandon_only

theorem execOsLoad_only {R : List RegSet} {s₀ : State} (who : Req) (s : State) (h₀ : OnlyRegs R s₀ s)
    (hR : [reg EGR_OS_STAT, regRun (EGR_OS_W 0) 4] ⊆ R) : AnswersOnly R s₀ (execOsLoad who s) :=
  AnswersOnly.next (serve_only _ _ _ _ _ (fun u => wrWords_only _ _ _ 4 (setStat_only _ _ _ _ (covReg (hR (by decide)))
      (OnlyRegs.refl u) (List.nil_subset _))
    (by unfold outWords; split <;> simp) (hR (by decide))) h₀ (List.nil_subset _))

theorem osSwitch_only {R : List RegSet} {s₀ : State} (on : Bool) (s : State) (h₀ : OnlyRegs R s₀ s)
    (hR : [reg EGR_OS_STAT] ⊆ R) : OnlyRegs R s₀ (osSwitch on s) := by
  unfold osSwitch
  repeat' first
    | with_reducible assumption
    | exact List.Subset.trans (by decide) hR
    | with_reducible apply OnlyRegs.ite
    | exact covReg (hR (by decide))
    | with_reducible apply setStat_only
    | with_reducible apply outSwitch_only

theorem execOsOff_only {R : List RegSet} {s₀ : State} (who : Req) (s : State) (h₀ : OnlyRegs R s₀ s)
    (hR : [reg EGR_OS_STAT] ⊆ R) : AnswersOnly R s₀ (execOsOff who s) := by
  unfold execOsOff
  with_reducible repeat' first
    | exact OnlyRegs.refl _
    | assumption
    | exact List.Subset.trans (by decide) hR
    | (intro _; try dsimp only)
    | apply AnswersOnly.inFull
    | apply AnswersOnly.powered
    | apply AnswersOnly.next
    | apply AnswersOnly.done
    | apply serve_only
    | apply osSwitch_only

theorem execOsOn_only {R : List RegSet} {s₀ : State} (who : Req) (s : State) (h₀ : OnlyRegs R s₀ s)
    (hR : [reg EGR_OS_STAT] ⊆ R) : AnswersOnly R s₀ (execOsOn who s) := by
  unfold execOsOn
  with_reducible repeat' first
    | exact OnlyRegs.refl _
    | assumption
    | exact List.Subset.trans (by decide) hR
    | (intro _; try dsimp only)
    | apply AnswersOnly.inFull
    | apply AnswersOnly.powered
    | apply AnswersOnly.next
    | apply AnswersOnly.done
    | apply serve_only
    | apply osSwitch_only

theorem execPubLoad_only {R : List RegSet} {s₀ : State} (who : Req) (p : Fin 32) (s : State) (h₀ : OnlyRegs R s₀ s)
    (hR : [reg EGR_PUB_IDX, regRun (EGR_PUB_W 0) 4] ⊆ R) : AnswersOnly R s₀ (execPubLoad who p s) :=
  AnswersOnly.next (serve_only _ _ _ _ _ (fun u => wrWords_only _ _ _ 4 (wr_only _ _ _ (OnlyRegs.refl u) (covReg (hR (by decide))))
    (by unfold pubWords; split <;> simp) (hR (by decide))) h₀ (List.nil_subset _))

theorem qCommit_only {R : List RegSet} {s₀ : State} (c : Instr) (who : Req) (q : Nat) (prio : Nat) (len : Nat) (s : State) (h₀ :
    OnlyRegs R s₀ s)
    (hR : [reg CTL_INT, reg EGR_QINT] ⊆ R) : OnlyRegs R s₀ (qCommit c who q prio len s) := by
  unfold qCommit
  with_reducible repeat' first
    | assumption
    | apply OnlyRegs.ite
    | apply setQueue_only
    | apply commitNow_only
    | apply holdWrite_only

theorem execQCommit_only {R : List RegSet} {s₀ : State} (who : Req) (q : Fin 32) (prio : Fin 8) (len : BitVec 14) (s : State) (h₀
    : OnlyRegs R s₀ s)
    (hR : [reg CTL_INT, reg EGR_QINT] ⊆ R) : AnswersOnly R s₀ (execQCommit who q prio len s) := by
  unfold execQCommit
  with_reducible repeat' first
    | exact OnlyRegs.refl _
    | assumption
    | exact List.Subset.trans (by decide) hR
    | (intro _; try dsimp only)
    | apply AnswersOnly.inFull
    | apply AnswersOnly.powered
    | apply AnswersOnly.next
    | apply AnswersOnly.done
    | apply serve_only
    | apply qCommit_only

theorem qCommitLand_only {R : List RegSet} {s₀ : State} (q : Nat) (s : State) (h₀ : OnlyRegs R s₀ s)
    (hR : [reg CTL_INT, reg EGR_QINT] ⊆ R) : OnlyRegs R s₀ (qCommitLand q s) := by
  unfold qCommitLand
  with_reducible repeat' first
    | assumption
    | apply setQueue_only
    | apply commitNow_only
    | apply OnlyRegs.foldlPoints
    | (apply OnlyRegs.lit; first | assumption)
    | split

theorem execQCommitLand_only {R : List RegSet} {s₀ : State} (q : Fin 32) (s : State) (h₀ : OnlyRegs R s₀ s)
    (hR : [reg CTL_INT, reg EGR_QINT] ⊆ R) : AnswersOnly R s₀ (execQCommitLand q s) := by
  unfold execQCommitLand
  with_reducible repeat' first
    | assumption
    | apply AnswersOnly.inFull
    | apply AnswersOnly.powered
    | apply AnswersOnly.next
    | apply AnswersOnly.done
    | apply inFull_only
    | apply qCommitLand_only

theorem setStaged_only {R : List RegSet} {s₀ : State} (q : Nat) (b : Nat) (ws : List Word) (s : State) (h₀ : OnlyRegs R s₀ s) :
    OnlyRegs R s₀ (setStaged q b ws s) := h₀.pass (setStaged_within (L := [.egr]) q b ws s (Within.refl s) (List.Subset.refl _))
      (by decide)

theorem qFlush_only {R : List RegSet} {s₀ : State} (q : Nat) (s : State) (h₀ : OnlyRegs R s₀ s) :
    OnlyRegs R s₀ (qFlush q s) := h₀.pass (qFlush_within (L := [.egr]) q s (Within.refl s) (List.Subset.refl _)) (by decide)

theorem qRemove_only {R : List RegSet} {s₀ : State} (q : Nat) (ident : Nat) (s : State) (h₀ : OnlyRegs R s₀ s) :
    OnlyRegs R s₀ (qRemove q ident s) := h₀.pass (qRemove_within (L := [.egr]) q ident s (Within.refl s) (List.Subset.refl _)) (by
      decide)

theorem qPop_only {R : List RegSet} {s₀ : State} (q : Nat) (s : State) (h₀ : OnlyRegs R s₀ s) :
    OnlyRegs R s₀ (qPop q s) := h₀.pass (qPop_within (L := [.egr, .out]) q s (Within.refl s) (List.Subset.refl _)) (by decide)

theorem qPush_only {R : List RegSet} {s₀ : State} (who : Req) (q : Nat) (v : Word) (s : State) (h₀ : OnlyRegs R s₀ s) :
    OnlyRegs R s₀ (qPush who q v s) := h₀.pass (qPush_within (L := [.egr]) who q v s (Within.refl s) (List.Subset.refl _)) (by decide)

theorem execRuleLoad_only {R : List RegSet} {s₀ : State} (who : Req) (s : State) (h₀ : OnlyRegs R s₀ s)
    (hR : [reg EGR_RULE_STAT, regRun (EGR_RULE_W01 0) 8] ⊆ R) : AnswersOnly R s₀ (execRuleLoad who s) :=
  AnswersOnly.next (serve_only _ _ _ _ _ (fun u => wrWords_only _ _ _ 8 (setStat_only _ _ _ _ (covReg (hR (by decide)))
      (OnlyRegs.refl u) (List.nil_subset _))
    (by unfold ruleWords; split <;> simp) (hR (by decide))) h₀ (List.nil_subset _))

theorem ruleStore_only {R : List RegSet} {s₀ : State} (s : State) (h₀ : OnlyRegs R s₀ s)
    (hR : [reg CTL_INT, reg EGR_RULE_STAT, reg LDG_INT, regFam LDG_DROP 8] ⊆ R) : OnlyRegs R s₀ (ruleStore s) := by
  unfold ruleStore
  repeat' first
    | with_reducible assumption
    | exact List.Subset.trans (by decide) hR
    | with_reducible apply OnlyRegs.ite
    | exact covReg (hR (by decide))
    | (show (_ : Nat) < _; decide)
    | with_reducible apply setStat_only
    | with_reducible apply logEvent_only
    | with_reducible apply setRule_only

theorem execRuleStore_only {R : List RegSet} {s₀ : State} (who : Req) (s : State) (h₀ : OnlyRegs R s₀ s)
    (hR : [reg CTL_INT, reg EGR_RULE_STAT, reg LDG_INT, regFam LDG_DROP 8] ⊆ R) : AnswersOnly R s₀ (execRuleStore who s) := by
  unfold execRuleStore
  with_reducible repeat' first
    | exact OnlyRegs.refl _
    | assumption
    | exact List.Subset.trans (by decide) hR
    | (intro _; try dsimp only)
    | apply AnswersOnly.inFull
    | apply AnswersOnly.powered
    | apply AnswersOnly.next
    | apply AnswersOnly.done
    | apply ruleStore_only
    | apply serve_only

theorem sendItem_only {R : List RegSet} {s₀ : State} (p : Nat) (i : QItem) (s : State) (h₀ : OnlyRegs R s₀ s)
    (hR : [reg CTL_INT, reg EGR_INT] ⊆ R) : OnlyRegs R s₀ (sendItem p i s) := by
  unfold sendItem
  repeat' first
    | with_reducible assumption
    | exact List.Subset.trans (by decide) hR
    | with_reducible apply OnlyRegs.ite
    | exact covReg (hR (by decide))
    | with_reducible apply egrCount_only
    | with_reducible apply leaveTxLpi_only
    | with_reducible apply raise_only
    | with_reducible apply setPort_only

theorem txStart_only {R : List RegSet} {s₀ : State} (p : Nat) (c : Nat) (s : State) (h₀ : OnlyRegs R s₀ s)
    (hR : [reg CTL_INT, reg EGR_INT] ⊆ R) : OnlyRegs R s₀ (txStart p c s) := by
  unfold txStart
  try dsimp only
  with_reducible repeat' first
    | assumption
    | apply sendItem_only
    | apply qRemove_only
    | apply OnlyRegs.foldlPoints
    | (apply OnlyRegs.lit; first | apply qRemove_only)
    | split

theorem execTxStart_only {R : List RegSet} {s₀ : State} (p : Fin 64) (c : Fin 8) (s : State) (h₀ : OnlyRegs R s₀ s)
    (hR : [reg CTL_INT, reg EGR_INT] ⊆ R) : AnswersOnly R s₀ (execTxStart p c s) := by
  unfold execTxStart
  with_reducible repeat' first
    | assumption
    | apply OnlyRegs.ite
    | apply AnswersOnly.inFull
    | apply AnswersOnly.powered
    | apply AnswersOnly.next
    | apply AnswersOnly.done
    | apply inFull_only
    | apply txStart_only

theorem ahSave_only {R : List RegSet} {s₀ : State} (s : State) (h₀ : OnlyRegs R s₀ s) :
    OnlyRegs R s₀ (ahSave s) := h₀.pass (ahSave_within (L := [.scales]) s (Within.refl s) (List.Subset.refl _)) (by decide)

theorem ahPeriod_only {R : List RegSet} {s₀ : State} (s : State) (h₀ : OnlyRegs R s₀ s)
    (hR : [reg CTL_INT, reg LDG_INT, reg LDG_RD_STAT, reg SCL_EN_INT, reg SCL_EN_SAVE, reg SCL_EN_SAVE_STAT, reg SCL_EN_STATUS,
      regFam LDG_DROP 8, regFam PT_STAT 8] ⊆ R) : OnlyRegs R s₀ (ahPeriod s) := by
  unfold ahPeriod
  with_reducible repeat' first
    | assumption
    | apply OnlyRegs.ite
    | apply ahSave_only
    | apply reefSettle_only

theorem snapPoint_only {R : List RegSet} {s₀ : State} (s : State) (k : Nat) (b_k : k < 8) (h₀ : OnlyRegs R s₀ s)
    (hR : [regFams (fun i => PT_ACC i 0) 8 16, regFams (fun i => PT_AH i 0) 8 6] ⊆ R) : OnlyRegs R s₀ (snapPoint s k) := by
  have acc : ∀ j, j < 16 → Covered R (PT_ACC k j) := fun j hj => by
    have := covFams (R := R) (f := fun i => PT_ACC i 0) (n := 8) (m := 16) (hR (by decide)) (fun i => by simp only [PT_ACC]; omega) b_k j hj
    simpa only [PT_ACC, Nat.mul_zero, Nat.add_zero] using this
  have ah : ∀ j, j < 6 → Covered R (PT_AH k j) := fun j hj => by
    have := covFams (R := R) (f := fun i => PT_AH i 0) (n := 8) (m := 6) (hR (by decide)) (fun i => by simp only [PT_AH]; omega) b_k j hj
    simpa only [PT_AH, Nat.mul_zero, Nat.add_zero] using this
  refine OnlyRegs.forUpTo (OnlyRegs.forUpTo h₀ fun j hj u => ?_) fun j hj u => ?_
  · exact wr64_only _ _ _ ⟨ah _ (by omega), ah (2 * j + 1) (by omega)⟩ (OnlyRegs.refl u) (List.nil_subset _)
  · exact wr64_only _ _ _ ⟨acc _ (by omega), acc (2 * j + 1) (by omega)⟩ (OnlyRegs.refl u) (List.nil_subset _)

theorem energySnapshot_only {R : List RegSet} {s₀ : State} (s : State) (h₀ : OnlyRegs R s₀ s)
    (hR : [reg CTL_INT, reg SCL_EN_INT, reg SCL_EN_SNAP_NS, reg SCL_EN_SNAP_SEC, reg SCL_EN_SNAP_SEQ, regFams (fun i => PT_ACC i
      0) 8 16, regFams (fun i => PT_AH i 0) 8 6] ⊆ R) : OnlyRegs R s₀ (energySnapshot s) := by
  unfold energySnapshot
  repeat' first
    | with_reducible exact OnlyRegs.refl _
    | with_reducible assumption
    | exact List.Subset.trans (by decide) hR
    | (intro _; try dsimp only)
    | exact covReg (hR (by decide))
    | with_reducible apply snapPoint_only
    | with_reducible apply bumpF_only
    | with_reducible apply wr_only
    | with_reducible apply raise_only
    | with_reducible apply OnlyRegs.foldlPoints
    | with_reducible apply OnlyRegs.forUpTo

theorem execAhSave_only {R : List RegSet} {s₀ : State} (s : State) (h₀ : OnlyRegs R s₀ s)
    (hR : [reg CTL_INT, reg LDG_INT, reg LDG_RD_STAT, reg SCL_EN_INT, reg SCL_EN_SAVE, reg SCL_EN_SAVE_STAT, reg SCL_EN_STATUS,
      regFam LDG_DROP 8, regFam PT_STAT 8] ⊆ R) : AnswersOnly R s₀ (execAhSave s) := by
  unfold execAhSave
  with_reducible repeat' first
    | assumption
    | apply AnswersOnly.inFull
    | apply AnswersOnly.powered
    | apply AnswersOnly.next
    | apply AnswersOnly.done
    | apply ahPeriod_only

theorem periodicSave_only {R : List RegSet} {s₀ : State} (ok : Bool) (s : State) (h₀ : OnlyRegs R s₀ s)
    (hR : [reg CTL_INT, reg LDG_INT, reg LDG_RD_STAT, reg SCL_EN_INT, reg SCL_EN_SAVE, reg SCL_EN_SAVE_STAT, regFam LDG_DROP 8] ⊆
      R) : OnlyRegs R s₀ (periodicSave ok s) := by
  unfold periodicSave
  with_reducible repeat' first
    | assumption
    | exact List.Subset.trans (by decide) hR
    | apply OnlyRegs.ite
    | apply setEnergy_only
    | apply energySave_only
    | apply closeOverdue_only

theorem execEnergySave_only {R : List RegSet} {s₀ : State} (ok : Bool) (s : State) (h₀ : OnlyRegs R s₀ s)
    (hR : [reg CTL_INT, reg LDG_INT, reg LDG_RD_STAT, reg SCL_EN_INT, reg SCL_EN_SAVE, reg SCL_EN_SAVE_STAT, regFam LDG_DROP 8] ⊆
      R) : AnswersOnly R s₀ (execEnergySave ok s) := by
  unfold execEnergySave
  with_reducible repeat' first
    | assumption
    | apply OnlyRegs.ite
    | apply AnswersOnly.inFull
    | apply AnswersOnly.powered
    | apply AnswersOnly.next
    | apply AnswersOnly.done
    | apply powered_only
    | apply periodicSave_only

theorem execEnergySaveNow_only {R : List RegSet} {s₀ : State} (who : Req) (s : State) (h₀ : OnlyRegs R s₀ s)
    (hR : [reg SCL_EN_SAVE] ⊆ R) : AnswersOnly R s₀ (execEnergySaveNow who s) := by
  unfold execEnergySaveNow
  repeat' first
    | with_reducible exact OnlyRegs.refl _
    | with_reducible assumption
    | exact List.Subset.trans (by decide) hR
    | (intro _; try dsimp only)
    | with_reducible apply AnswersOnly.inFull
    | with_reducible apply AnswersOnly.powered
    | with_reducible apply AnswersOnly.next
    | with_reducible apply AnswersOnly.done
    | exact covReg (hR (by decide))
    | with_reducible apply wrF_only
    | with_reducible apply serve_only

theorem execEnergySnapshot_only {R : List RegSet} {s₀ : State} (who : Req) (s : State) (h₀ : OnlyRegs R s₀ s)
    (hR : [reg CTL_INT, reg SCL_EN_INT, reg SCL_EN_SNAP_NS, reg SCL_EN_SNAP_SEC, reg SCL_EN_SNAP_SEQ, regFams (fun i => PT_ACC i
      0) 8 16, regFams (fun i => PT_AH i 0) 8 6] ⊆ R) : AnswersOnly R s₀ (execEnergySnapshot who s) := by
  unfold execEnergySnapshot
  with_reducible repeat' first
    | exact OnlyRegs.refl _
    | assumption
    | exact List.Subset.trans (by decide) hR
    | (intro _; try dsimp only)
    | apply AnswersOnly.inFull
    | apply AnswersOnly.powered
    | apply AnswersOnly.next
    | apply AnswersOnly.done
    | apply energySnapshot_only
    | apply serve_only

theorem execIntervalEnd_only {R : List RegSet} {s₀ : State} (s : State) (h₀ : OnlyRegs R s₀ s)
    (hR : [reg CTL_INT, reg LDG_INT, reg LDG_RD_STAT, reg SCL_EN_INT, regFam LDG_DROP 8, regFam PT_STAT 8] ⊆ R) : AnswersOnly R s₀
      (execIntervalEnd s) := by
  unfold execIntervalEnd
  with_reducible repeat' first
    | exact OnlyRegs.refl _
    | assumption
    | exact List.Subset.trans (by decide) hR
    | (intro _; try dsimp only)
    | apply OnlyRegs.ite
    | apply AnswersOnly.inFull
    | apply AnswersOnly.powered
    | apply AnswersOnly.next
    | apply AnswersOnly.done
    | apply powered_only
    | apply closeOverdue_only
    | apply endInterval_only
    | apply OnlyRegs.foldlPoints

theorem supplyCheck_only {R : List RegSet} {s₀ : State} (s : State) (h₀ : OnlyRegs R s₀ s)
    (hR : [reg CTL_INT, reg LDG_INT, reg SCL_EN_INT, regFam LDG_DROP 8, regFam PT_STAT 8] ⊆ R) : OnlyRegs R s₀ (supplyCheck s) := by
  unfold supplyCheck
  with_reducible repeat' first
    | exact OnlyRegs.refl _
    | assumption
    | (intro _; try dsimp only)
    | apply checkPoint_only
    | apply setEnergy_only
    | apply OnlyRegs.foldlPoints

theorem execSupplyCheck_only {R : List RegSet} {s₀ : State} (s : State) (h₀ : OnlyRegs R s₀ s)
    (hR : [reg CTL_INT, reg LDG_INT, reg SCL_EN_INT, regFam LDG_DROP 8, regFam PT_STAT 8] ⊆ R) : AnswersOnly R s₀ (execSupplyCheck
      s) := by
  unfold execSupplyCheck
  with_reducible repeat' first
    | assumption
    | apply OnlyRegs.ite
    | apply AnswersOnly.inFull
    | apply AnswersOnly.powered
    | apply AnswersOnly.next
    | apply AnswersOnly.done
    | apply supplyCheck_only

theorem clearOnRead_only {R : List RegSet} {s₀ : State} (who : Req) (ch : Option (Fin 24)) (s : State) (h₀ : OnlyRegs R s₀ s)
    (hR : [reg MST_IRIG_STAT, regFam SCL_CH_STAT 24] ⊆ R) : OnlyRegs R s₀ (clearOnRead who ch s) := by
  unfold clearOnRead
  refine answer_only _ _ _ (wrF_only _ _ _ _ _ ?_ h₀ (List.nil_subset _))
  cases ch with
  | none => exact covReg (hR (by decide))
  | some c => exact covFam (f := SCL_CH_STAT) (n := 24) (hR (by decide)) (fun i => by simp only [SCL_CH_STAT]) c.isLt

theorem eoi_only {R : List RegSet} {s₀ : State} (v : Nat) (s : State) (h₀ : OnlyRegs R s₀ s) :
    OnlyRegs R s₀ (eoi v s) := h₀.pass (eoi_within (L := [.host, .out]) v s (Within.refl s) (List.Subset.refl _)) (by decide)

theorem execClearOnRead_only {R : List RegSet} {s₀ : State} (who : Req) (ch : Option (Fin 24)) (s : State) (h₀ : OnlyRegs R s₀ s)
    (hR : [reg MST_IRIG_STAT, regFam SCL_CH_STAT 24] ⊆ R) : AnswersOnly R s₀ (execClearOnRead who ch s) := by
  unfold execClearOnRead
  with_reducible repeat' first
    | exact OnlyRegs.refl _
    | assumption
    | exact List.Subset.trans (by decide) hR
    | (intro _; try dsimp only)
    | apply AnswersOnly.inFull
    | apply AnswersOnly.powered
    | apply AnswersOnly.next
    | apply AnswersOnly.done
    | apply serve_only
    | apply clearOnRead_only

theorem execHeldWriteDrop_only {R : List RegSet} {s₀ : State} (s : State) (h₀ : OnlyRegs R s₀ s)
    (hR : [reg CTL_INT, reg HST_ERR_OFS, reg HST_INT, reg LDG_INT, regFam LDG_DROP 8] ⊆ R) : AnswersOnly R s₀ (execHeldWriteDrop
      s) := by
  unfold execHeldWriteDrop
  with_reducible repeat' first
    | assumption
    | apply AnswersOnly.inFull
    | apply AnswersOnly.powered
    | apply AnswersOnly.next
    | apply AnswersOnly.done
    | apply inFull_only
    | apply heldDrop_only

theorem execLinkReset_only {R : List RegSet} {s₀ : State} (kind : LinkReset) (s : State) (h₀ : OnlyRegs R s₀ s)
    (hR : [reg CTL_INT, reg HST_ERR_OFS, reg HST_INT, reg HST_INT_EN, reg HST_POISON, reg HST_UNDER, reg LDG_INT, reg LDG_RD_STAT,
      regFam LDG_DROP 8, regFam MSIX_ADDR 16, regFam MSIX_CTRL 16, regFam MSIX_DATA 16, regFam MSIX_UADDR 16] ⊆ R) : AnswersOnly R
      s₀ (execLinkReset kind s) := by
  unfold execLinkReset
  with_reducible repeat' first
    | assumption
    | apply AnswersOnly.inFull
    | apply AnswersOnly.powered
    | apply AnswersOnly.next
    | apply AnswersOnly.done
    | apply inFull_only
    | apply hostLinkReset_only

theorem lowWordRead_only {R : List RegSet} {s₀ : State} (shadow : Option (Nat × Word)) (a : Nat) (s : State) (h₀ : OnlyRegs R s₀ s) :
    OnlyRegs R s₀ (lowWordRead shadow a s) := h₀.pass (lowWordRead_within (L := [.host, .cap, .out]) shadow a s (Within.refl s)
      (List.Subset.refl _)) (by decide)

theorem unmasked_only {R : List RegSet} {s₀ : State} (v : Nat) (s : State) (h₀ : OnlyRegs R s₀ s) :
    OnlyRegs R s₀ (unmasked v s) := h₀.pass (unmasked_within (L := [.host, .out]) v s (Within.refl s) (List.Subset.refl _)) (by
      decide)

theorem execMsixTableWrite_set {R : List RegSet} (v : Fin 16) (w : Fin 4) (h : regRun (MSIX_ADDR 0) 64 ∈ R) : Covered R (MSIX_ADDR
    v.val + 4 * w.val) := by
  have := covRun h (4 * v.val + w.val) (by have := v.isLt; have := w.isLt; omega)
  rwa [show MSIX_ADDR 0 + 4 * (4 * v.val + w.val) = MSIX_ADDR v.val + 4 * w.val from by simp only [MSIX_ADDR]; omega] at this

theorem msixWrite_only {R : List RegSet} {s₀ : State} (v w : Nat) (x : Word) (s : State) (hc : Covered R (MSIX_ADDR v + 4 * w))
    (h₀ : OnlyRegs R s₀ s) (_ : [] ⊆ R) :
    OnlyRegs R s₀ (msixWrite v w x s) := unmasked_only _ _ (wr_only _ _ _ h₀ hc)

theorem execMsixTableWrite_only {R : List RegSet} {s₀ : State} (vector : Fin 16) (w : Fin 4) (v : Word) (s : State) (h₀ : OnlyRegs
    R s₀ s)
    (hR : [regRun (MSIX_ADDR 0) 64] ⊆ R) : AnswersOnly R s₀ (execMsixTableWrite vector w v s) :=
  AnswersOnly.next (hostServe_only _ _ _ _ (fun u => msixWrite_only _ _ _ _ (execMsixTableWrite_set vector w (hR (by decide)))
      (OnlyRegs.refl u) (List.nil_subset _))
    h₀ (List.nil_subset _))

theorem execRegisterWrite_only {R : List RegSet} {s₀ : State} (who : Req) (ofs : BitVec 17) (be : BitVec 8) (v : BitVec 64) (s :
    State) (hc : regRun (8 * ofs.toNat) 2 ∈ R)
    (h₀ : OnlyRegs R s₀ s) (hR : [reg CTL_INT, reg MKT_INT, reg MKT_RIB_SPAN, reg PWR_CTRL, reg SCL_CAL_PEND, regFam CTL_PC_STAT
      4, regRun MKT_RIB_OLD_LO 2] ⊆ R) :
    AnswersOnly R s₀ (execRegisterWrite who ofs be v s) :=
  AnswersOnly.next (serve_only _ _ _ _ _ (fun u => writeBytes_only _ _ _ _ _ _ (covTwo hc) (OnlyRegs.refl u) hR) h₀
      (List.nil_subset _))

theorem refuseAccess_only {R : List RegSet} {s₀ : State} (a : Nat) (write : Bool) (s : State) (h₀ : OnlyRegs R s₀ s)
    (hR : [reg CTL_INT, reg HST_ERR_OFS, reg HST_INT] ⊆ R) : OnlyRegs R s₀ (refuseAccess a write s) := by
  unfold refuseAccess
  repeat' first
    | with_reducible assumption
    | exact List.Subset.trans (by decide) hR
    | with_reducible apply OnlyRegs.ite
    | exact covReg (hR (by decide))
    | with_reducible apply emit_only
    | with_reducible apply wr_only
    | with_reducible apply raise_only

theorem execUnsupportedRequest_only {R : List RegSet} {s₀ : State} (ofs : BitVec 20) (len : Nat) (write : Bool) (s : State) (h₀ :
    OnlyRegs R s₀ s)
    (hR : [reg CTL_INT, reg HST_ERR_OFS, reg HST_INT] ⊆ R) : AnswersOnly R s₀ (execUnsupportedRequest ofs len write s) := by
  unfold execUnsupportedRequest
  with_reducible repeat' first
    | exact OnlyRegs.refl _
    | assumption
    | exact List.Subset.trans (by decide) hR
    | (intro _; try dsimp only)
    | apply OnlyRegs.ite
    | apply AnswersOnly.inFull
    | apply AnswersOnly.powered
    | apply AnswersOnly.next
    | apply AnswersOnly.done
    | apply hostServe_only
    | apply refuseAccess_only

theorem execWinAbort_only {R : List RegSet} {s₀ : State} (w : Win) (s : State) (h₀ : OnlyRegs R s₀ s)
    (hR : [reg LDG_RD_STAT] ⊆ R) : AnswersOnly R s₀ (execWinAbort w s) := by
  unfold execWinAbort
  with_reducible repeat' first
    | exact OnlyRegs.refl _
    | assumption
    | exact List.Subset.trans (by decide) hR
    | (intro _; try dsimp only)
    | apply AnswersOnly.inFull
    | apply AnswersOnly.powered
    | apply AnswersOnly.next
    | apply AnswersOnly.done
    | apply hostServe_only
    | apply winAbort_only

theorem execWindowRead_only {R : List RegSet} {s₀ : State} (w : Win) (r : WinRead) (poison : List Bool) (s : State) (h₀ : OnlyRegs
    R s₀ s)
    (hR : [reg CAP_INT, reg CTL_INT, reg HST_INT, reg HST_POISON, reg HST_UNDER] ⊆ R) : AnswersOnly R s₀ (execWindowRead w r
      poison s) := by
  unfold execWindowRead
  with_reducible repeat' first
    | exact OnlyRegs.refl _
    | assumption
    | exact List.Subset.trans (by decide) hR
    | (intro _; try dsimp only)
    | apply AnswersOnly.inFull
    | apply AnswersOnly.powered
    | apply AnswersOnly.next
    | apply AnswersOnly.done
    | apply hostServe_only
    | apply windowRead_only

theorem countCode_only {R : List RegSet} {s₀ : State} (code : Nat) (s : State) (h₀ : OnlyRegs R s₀ s) :
    OnlyRegs R s₀ (countCode code s) := h₀.pass (countCode_within (L := [.live]) code s (Within.refl s) (List.Subset.refl _)) (by
      decide)

theorem acceptValue_only {R : List RegSet} {s₀ : State} (n : Nat) (c : StreamCfg) (i : IngItem) (k : Nat) (pipe : Nat) (v : Slot)
    (s : State) (h₀ : OnlyRegs R s₀ s) :
    OnlyRegs R s₀ (acceptValue n c i k pipe v s) := h₀.pass (acceptValue_within (L := [.live, .ing, .mkt]) n c i k pipe v s
      (Within.refl s) (List.Subset.refl _)) (by decide)

theorem streamTo_only {R : List RegSet} {s₀ : State} (n : Nat) (st : StreamState) (s : State) (h₀ : OnlyRegs R s₀ s)
    (hR : [reg CTL_INT, reg ING_INT] ⊆ R) : OnlyRegs R s₀ (streamTo n st s) := by
  unfold streamTo
  repeat' first
    | with_reducible assumption
    | exact List.Subset.trans (by decide) hR
    | with_reducible apply OnlyRegs.ite
    | exact covReg (hR (by decide))
    | with_reducible apply setStream_only
    | with_reducible apply raise_only

theorem setFrag_only {R : List RegSet} {s₀ : State} (l : List (BitVec 8)) (n : Nat) (s : State) (h₀ : OnlyRegs R s₀ s) :
    OnlyRegs R s₀ (setFrag l n s) := h₀.pass (setFrag_within (L := [.ing]) l n s (Within.refl s) (List.Subset.refl _)) (by decide)

theorem cfgCompare_only {R : List RegSet} {s₀ : State} (g : GroupCfg) (f : C37Frame) (q : Nat × StreamCfg) (s : State) (h₀ :
    OnlyRegs R s₀ s)
    (hR : [reg CTL_INT, reg ING_INT] ⊆ R) : OnlyRegs R s₀ (cfgCompare g f q s) := by
  unfold cfgCompare
  with_reducible repeat' first
    | assumption
    | apply streamTo_only
    | apply setFrag_only

theorem rejectFrame_only {R : List RegSet} {s₀ : State} (code : Nat) (s : State) (h₀ : OnlyRegs R s₀ s)
    (hR : [reg CTL_INT, reg ING_INT] ⊆ R) : OnlyRegs R s₀ (rejectFrame code s) := by
  unfold rejectFrame
  repeat' first
    | with_reducible assumption
    | exact List.Subset.trans (by decide) hR
    | with_reducible apply OnlyRegs.ite
    | exact covReg (hR (by decide))
    | with_reducible apply countCode_only
    | with_reducible apply raise_only

theorem setSv_only {R : List RegSet} {s₀ : State} (n : Nat) (x : SvSt) (s : State) (h₀ : OnlyRegs R s₀ s) :
    OnlyRegs R s₀ (setSv n x s) := h₀.pass (setSv_within (L := [.ing]) n x s (Within.refl s) (List.Subset.refl _)) (by decide)

theorem svTo_only {R : List RegSet} {s₀ : State} (n : Nat) (st : StreamState) (s : State) (h₀ : OnlyRegs R s₀ s)
    (hR : [reg CTL_INT, reg ING_INT] ⊆ R) : OnlyRegs R s₀ (svTo n st s) := by
  unfold svTo
  repeat' first
    | with_reducible assumption
    | exact List.Subset.trans (by decide) hR
    | with_reducible apply OnlyRegs.ite
    | exact covReg (hR (by decide))
    | with_reducible apply setSv_only
    | with_reducible apply raise_only

theorem rejectSv_only {R : List RegSet} {s₀ : State} (n : Nat) (code : Nat) (i : IngItem) (pipe : Nat) (s : State) (h₀ : OnlyRegs
    R s₀ s)
    (hR : [reg CTL_INT, reg ING_INT] ⊆ R) : OnlyRegs R s₀ (rejectSv n code i pipe s) := by
  unfold rejectSv
  with_reducible repeat' first
    | assumption
    | apply rejectFrame_only
    | apply setSv_only

theorem svCapture_only {R : List RegSet} {s₀ : State} (v : SvSample) (s : State) (h₀ : OnlyRegs R s₀ s) :
    OnlyRegs R s₀ (svCapture v s) := h₀.pass (svCapture_within (L := [.cap]) v s (Within.refl s) (List.Subset.refl _)) (by decide)

theorem svDeliver_only {R : List RegSet} {s₀ : State} (n : Nat) (c : SvSub) (i : IngItem) (a : SvAsdu) (s : State) (h₀ : OnlyRegs
    R s₀ s)
    (hR : [reg CTL_INT, reg LDG_INT, reg LDG_RD_STAT, reg SCL_EN_INT, reg SCL_EN_SAVE, reg SCL_EN_SAVE_STAT, reg SCL_EN_STATUS,
      reg SCL_INT, regFam LDG_DROP 8, regFam PT_P 8, regFam PT_Q 8, regFam PT_STAT 8] ⊆ R) : OnlyRegs R s₀ (svDeliver n c i a s) :=
      by
  unfold svDeliver
  with_reducible repeat' first
    | assumption
    | apply OnlyRegs.ite
    | apply setSv_only
    | apply svCapture_only
    | apply svArrive_only

theorem unknownSource_only {R : List RegSet} {s₀ : State} (i : IngItem) (id : Nat) (addr : Nat) (sv : Bool) (s : State) (h₀ :
    OnlyRegs R s₀ s)
    (hR : [reg (ING_UNK 0), reg (ING_UNK 1), reg CTL_INT, reg ING_INT] ⊆ R) : OnlyRegs R s₀ (unknownSource i id addr sv s) := by
  unfold unknownSource
  repeat' first
    | with_reducible assumption
    | exact List.Subset.trans (by decide) hR
    | with_reducible apply OnlyRegs.ite
    | exact covReg (hR (by decide))
    | with_reducible apply countCode_only
    | with_reducible apply wr_only
    | with_reducible apply raise_only

theorem parseSub_only {R : List RegSet} {s₀ : State} (i : IngItem) (pipe : Nat) (addr : Nat) (f : SvFrame) (spdu : Option Nat) (s0
    : State) (h₀ : OnlyRegs R s₀ s0)
    (hR : [reg (ING_UNK 0), reg (ING_UNK 1), reg CTL_INT, reg ING_INT, reg LDG_INT, reg LDG_RD_STAT, reg SCL_EN_INT, reg
      SCL_EN_SAVE, reg SCL_EN_SAVE_STAT, reg SCL_EN_STATUS, reg SCL_INT, regFam LDG_DROP 8, regFam PT_P 8, regFam PT_Q 8, regFam
      PT_STAT 8] ⊆ R) : OnlyRegs R s₀ (parseSub i pipe addr f spdu s0) := by
  unfold parseSub
  try dsimp only
  with_reducible repeat' first
    | exact OnlyRegs.refl _
    | assumption
    | exact List.Subset.trans (by decide) hR
    | (intro _; try dsimp only)
    | apply svTo_only
    | apply rejectSv_only
    | apply countCode_only
    | apply setSv_only
    | apply svDeliver_only
    | apply unknownSource_only
    | apply OnlyRegs.foldlPoints
    | apply OnlyRegs.foldl
    | split

theorem parseRsv_only {R : List RegSet} {s₀ : State} (i : IngItem) (pipe : Nat) (ip : Nat) (r : RsvSession) (f : SvFrame) (s :
    State) (h₀ : OnlyRegs R s₀ s)
    (hR : [reg (ING_UNK 0), reg (ING_UNK 1), reg CTL_INT, reg ING_INT, reg LDG_INT, reg LDG_RD_STAT, reg SCL_EN_INT, reg
      SCL_EN_SAVE, reg SCL_EN_SAVE_STAT, reg SCL_EN_STATUS, reg SCL_INT, regFam LDG_DROP 8, regFam PT_P 8, regFam PT_Q 8, regFam
      PT_STAT 8] ⊆ R) : OnlyRegs R s₀ (parseRsv i pipe ip r f s) := by
  unfold parseRsv
  with_reducible repeat' first
    | assumption
    | exact List.Subset.trans (by decide) hR
    | apply OnlyRegs.ite
    | apply rejectFrame_only
    | apply parseSub_only

theorem parseSv_only {R : List RegSet} {s₀ : State} (i : IngItem) (pipe : Nat) (f : SvFrame) (s : State) (h₀ : OnlyRegs R s₀ s)
    (hR : [reg (ING_UNK 0), reg (ING_UNK 1), reg CTL_INT, reg ING_INT, reg LDG_INT, reg LDG_RD_STAT, reg SCL_EN_INT, reg
      SCL_EN_SAVE, reg SCL_EN_SAVE_STAT, reg SCL_EN_STATUS, reg SCL_INT, regFam LDG_DROP 8, regFam PT_P 8, regFam PT_Q 8, regFam
      PT_STAT 8] ⊆ R) : OnlyRegs R s₀ (parseSv i pipe f s) := by
  unfold parseSv
  with_reducible repeat' first
    | assumption
    | exact List.Subset.trans (by decide) hR
    | apply OnlyRegs.ite
    | apply rejectFrame_only
    | apply parseSub_only

theorem forwardRing_only {R : List RegSet} {s₀ : State} (i : IngItem) (s : State) (h₀ : OnlyRegs R s₀ s)
    (hR : [reg CTL_INT, ⟨PRT_INT 0, 0x400, 0, 1⟩, ⟨PRT_RX_HEAD 0, 0x400, 0, 1⟩, ⟨PRT_TSQ_STAT 0, 0x400, 0, 1⟩] ⊆ R) :
    OnlyRegs R s₀ (forwardRing i s) :=
  toRing_only _ _ _ _ _ _ _ _ (covWide (a := PRT_RX_HEAD 0) (n := 0x400) (hR (by decide))) (covWide (a := PRT_TSQ_STAT 0) (n :=
      0x400) (hR (by decide)))
    (covWide (a := PRT_INT 0) (n := 0x400) (hR (by decide))) (countCode_only _ _ h₀) (List.Subset.trans (by decide) hR)

theorem parseCfg_only {R : List RegSet} {s₀ : State} (i : IngItem) (ip : Nat) (f : C37Frame) (s : State) (h₀ : OnlyRegs R s₀ s)
    (hR : [reg (ING_UNK 0), reg (ING_UNK 1), reg CTL_INT, reg ING_INT, ⟨PRT_INT 0, 0x400, 0, 1⟩, ⟨PRT_RX_HEAD 0, 0x400, 0, 1⟩,
      ⟨PRT_TSQ_STAT 0, 0x400, 0, 1⟩] ⊆ R) : OnlyRegs R s₀ (parseCfg i ip f s) := by
  unfold parseCfg
  try dsimp only
  with_reducible repeat' first
    | exact OnlyRegs.refl _
    | assumption
    | exact List.Subset.trans (by decide) hR
    | (intro _; try dsimp only)
    | apply rejectFrame_only
    | apply forwardRing_only
    | apply cfgCompare_only
    | apply unknownSource_only
    | apply setFrag_only
    | apply OnlyRegs.foldlPoints
    | apply OnlyRegs.foldl
    | split

theorem rejectStream_only {R : List RegSet} {s₀ : State} (n : Nat) (code : Nat) (i : IngItem) (k : Nat) (s : State) (h₀ : OnlyRegs
    R s₀ s)
    (hR : [reg CTL_INT, reg ING_INT] ⊆ R) : OnlyRegs R s₀ (rejectStream n code i k s) := by
  unfold rejectStream
  with_reducible repeat' first
    | assumption
    | apply setStream_only
    | apply rejectFrame_only

theorem parseBlock_only {R : List RegSet} {s₀ : State} (i : IngItem) (pipe : Nat) (g : GroupCfg) (f : C37Frame) (lenOk : Bool) (n
    : Nat) (c : StreamCfg) (s : State) (h₀ : OnlyRegs R s₀ s)
    (hR : [reg CTL_INT, reg ING_INT] ⊆ R) : OnlyRegs R s₀ (parseBlock i pipe g f lenOk n c s) := by
  unfold parseBlock
  repeat' first
    | with_reducible assumption
    | exact List.Subset.trans (by decide) hR
    | with_reducible apply OnlyRegs.ite
    | exact covReg (hR (by decide))
    | with_reducible apply acceptValue_only
    | with_reducible apply streamTo_only
    | with_reducible apply rejectStream_only
    | with_reducible apply countCode_only
    | with_reducible apply measureStream_only
    | with_reducible apply raise_only
    | with_reducible apply OnlyRegs.foldlPoints
    | split

theorem parseData_only {R : List RegSet} {s₀ : State} (i : IngItem) (pipe : Nat) (ip : Nat) (f : C37Frame) (s : State) (h₀ :
    OnlyRegs R s₀ s)
    (hR : [reg (ING_UNK 0), reg (ING_UNK 1), reg CTL_INT, reg ING_INT] ⊆ R) : OnlyRegs R s₀ (parseData i pipe ip f s) := by
  unfold parseData
  with_reducible repeat' first
    | exact OnlyRegs.refl _
    | assumption
    | exact List.Subset.trans (by decide) hR
    | (intro _; try dsimp only)
    | apply parseBlock_only
    | apply unknownSource_only
    | apply OnlyRegs.foldlPoints
    | apply OnlyRegs.foldl
    | split

theorem parseC37_only {R : List RegSet} {s₀ : State} (i : IngItem) (pipe : Nat) (ip : Nat) (f : C37Frame) (s : State) (h₀ :
    OnlyRegs R s₀ s)
    (hR : [reg (ING_UNK 0), reg (ING_UNK 1), reg CTL_INT, reg ING_INT, ⟨PRT_INT 0, 0x400, 0, 1⟩, ⟨PRT_RX_HEAD 0, 0x400, 0, 1⟩,
      ⟨PRT_TSQ_STAT 0, 0x400, 0, 1⟩] ⊆ R) : OnlyRegs R s₀ (parseC37 i pipe ip f s) := by
  unfold parseC37
  with_reducible repeat' first
    | assumption
    | exact List.Subset.trans (by decide) hR
    | apply parseCfg_only
    | apply rejectFrame_only
    | apply forwardRing_only
    | apply parseData_only
    | apply OnlyRegs.foldlPoints
    | split

theorem parseItem_only {R : List RegSet} {s₀ : State} (pipe : Nat) (i : IngItem) (s : State) (h₀ : OnlyRegs R s₀ s)
    (hR : [reg (ING_UNK 0), reg (ING_UNK 1), reg CTL_INT, reg ING_INT, reg LDG_INT, reg LDG_RD_STAT, reg SCL_EN_INT, reg
      SCL_EN_SAVE, reg SCL_EN_SAVE_STAT, reg SCL_EN_STATUS, reg SCL_INT, regFam LDG_DROP 8, regFam PT_P 8, regFam PT_Q 8, regFam
      PT_STAT 8, ⟨PRT_INT 0, 0x400, 0, 1⟩, ⟨PRT_RX_HEAD 0, 0x400, 0, 1⟩, ⟨PRT_TSQ_STAT 0, 0x400, 0, 1⟩] ⊆ R) : OnlyRegs R s₀
      (parseItem pipe i s) := by
  unfold parseItem
  with_reducible repeat' first
    | assumption
    | exact List.Subset.trans (by decide) hR
    | apply parseRsv_only
    | apply parseSv_only
    | apply parseC37_only
    | apply OnlyRegs.foldlPoints
    | split

theorem ingestParse_only {R : List RegSet} {s₀ : State} (k : Nat) (s : State) (h₀ : OnlyRegs R s₀ s)
    (hR : [reg (ING_UNK 0), reg (ING_UNK 1), reg CTL_INT, reg ING_INT, reg LDG_INT, reg LDG_RD_STAT, reg SCL_EN_INT, reg
      SCL_EN_SAVE, reg SCL_EN_SAVE_STAT, reg SCL_EN_STATUS, reg SCL_INT, regFam LDG_DROP 8, regFam PT_P 8, regFam PT_Q 8, regFam
      PT_STAT 8, ⟨PRT_INT 0, 0x400, 0, 1⟩, ⟨PRT_RX_HEAD 0, 0x400, 0, 1⟩, ⟨PRT_TSQ_STAT 0, 0x400, 0, 1⟩] ⊆ R) : OnlyRegs R s₀
      (ingestParse k s) := by
  unfold ingestParse
  with_reducible repeat' first
    | assumption
    | exact List.Subset.trans (by decide) hR
    | apply parseItem_only
    | apply setFifo_only
    | apply refillFifo_only
    | apply count_only
    | apply OnlyRegs.foldlPoints
    | split

theorem execIngestParse_only {R : List RegSet} {s₀ : State} (k : Fin 4) (s : State) (h₀ : OnlyRegs R s₀ s)
    (hR : [reg (ING_UNK 0), reg (ING_UNK 1), reg CTL_INT, reg ING_INT, reg LDG_INT, reg LDG_RD_STAT, reg SCL_EN_INT, reg
      SCL_EN_SAVE, reg SCL_EN_SAVE_STAT, reg SCL_EN_STATUS, reg SCL_INT, regFam LDG_DROP 8, regFam PT_P 8, regFam PT_Q 8, regFam
      PT_STAT 8, ⟨PRT_INT 0, 0x400, 0, 1⟩, ⟨PRT_RX_HEAD 0, 0x400, 0, 1⟩, ⟨PRT_TSQ_STAT 0, 0x400, 0, 1⟩] ⊆ R) : AnswersOnly R s₀
      (execIngestParse k s) := by
  unfold execIngestParse
  with_reducible repeat' first
    | assumption
    | apply OnlyRegs.ite
    | apply AnswersOnly.inFull
    | apply AnswersOnly.powered
    | apply AnswersOnly.next
    | apply AnswersOnly.done
    | apply inFull_only
    | apply ingestParse_only

theorem ingestSnapshot_only {R : List RegSet} {s₀ : State} (clr : Bool) (s : State) (h₀ : OnlyRegs R s₀ s)
    (hR : [reg CTL_INT, reg ING_INT, reg ING_SNAP_SEQ, regRun (ING_PIPE 0) 8, regRun (ING_REJ 0) 34] ⊆ R) : OnlyRegs R s₀
      (ingestSnapshot clr s) := by
  refine raise_only _ _ _ (covReg (hR (by decide))) (OnlyRegs.forUpTo (snapshot_only _ 17 _ _ _ h₀ (covRun (hR (by decide)))
      (covReg (hR (by decide))))
    fun k hk u => snapOne_only _ _ _ ⟨?_, ?_⟩ (OnlyRegs.refl u) (List.nil_subset _)) (List.Subset.trans (by decide) hR)
  · have := covRun (R := R) (a := ING_PIPE 0) (n := 8) (hR (by decide)) (2 * k) (by omega)
    simpa only [ING_PIPE, Nat.mul_zero, Nat.add_zero] using this
  · have := covRun (R := R) (a := ING_PIPE 0) (n := 8) (hR (by decide)) (2 * k + 1) (by omega)
    rwa [show ING_PIPE 0 + 4 * (2 * k + 1) = ING_PIPE (2 * k) + 4 from by simp only [ING_PIPE]; omega] at this

theorem execIngestSnapshot_only {R : List RegSet} {s₀ : State} (who : Req) (clr : Bool) (s : State) (h₀ : OnlyRegs R s₀ s)
    (hR : [reg CTL_INT, reg ING_INT, reg ING_SNAP_SEQ, regRun (ING_PIPE 0) 8, regRun (ING_REJ 0) 34] ⊆ R) : AnswersOnly R s₀
      (execIngestSnapshot who clr s) := by
  unfold execIngestSnapshot
  with_reducible repeat' first
    | exact OnlyRegs.refl _
    | assumption
    | exact List.Subset.trans (by decide) hR
    | (intro _; try dsimp only)
    | apply AnswersOnly.inFull
    | apply AnswersOnly.powered
    | apply AnswersOnly.next
    | apply AnswersOnly.done
    | apply ingestSnapshot_only
    | apply serve_only

theorem latAged_only {R : List RegSet} {s₀ : State} (s : State) (h₀ : OnlyRegs R s₀ s)
    (hR : [reg CTL_INT, reg ING_INT] ⊆ R) : OnlyRegs R s₀ (latAged s) := by
  unfold latAged
  repeat' first
    | exact List.Subset.trans (by decide) hR
    | exact covReg (hR (by decide))
    | with_reducible apply raise_only
    | with_reducible apply OnlyRegs.foldlPoints
    | (with_reducible apply OnlyRegs.lit; first | with_reducible assumption)

theorem execLatAged_only {R : List RegSet} {s₀ : State} (s : State) (h₀ : OnlyRegs R s₀ s)
    (hR : [reg CTL_INT, reg ING_INT] ⊆ R) : AnswersOnly R s₀ (execLatAged s) := by
  unfold execLatAged
  with_reducible repeat' first
    | assumption
    | apply OnlyRegs.ite
    | apply AnswersOnly.inFull
    | apply AnswersOnly.powered
    | apply AnswersOnly.next
    | apply AnswersOnly.done
    | apply latAged_only

theorem sendSource_only {R : List RegSet} {s₀ : State} (n : Nat) (cmd : SourceCmd) (q : Nat) (prio : Nat) (s : State) (h₀ :
    OnlyRegs R s₀ s)
    (hR : [reg CTL_INT, reg EGR_QINT] ⊆ R) : OnlyRegs R s₀ (sendSource n cmd q prio s) := by
  unfold sendSource
  with_reducible repeat' first
    | assumption
    | apply OnlyRegs.ite
    | apply setStream_only
    | apply nextItem_only
    | apply qLand_only

theorem execSourceCommandSend_only {R : List RegSet} {s₀ : State} (n : BitVec 14) (cmd : SourceCmd) (q : Fin 32) (prio : Fin 8) (s
    : State) (h₀ : OnlyRegs R s₀ s)
    (hR : [reg CTL_INT, reg EGR_QINT] ⊆ R) : AnswersOnly R s₀ (execSourceCommandSend n cmd q prio s) := by
  unfold execSourceCommandSend
  with_reducible repeat' first
    | assumption
    | apply AnswersOnly.inFull
    | apply AnswersOnly.powered
    | apply AnswersOnly.next
    | apply AnswersOnly.done
    | apply inFull_only
    | apply sendSource_only
    | apply OnlyRegs.foldlPoints
    | split

theorem streamLoad_only {R : List RegSet} {s₀ : State} (s : State) (h₀ : OnlyRegs R s₀ s)
    (hR : [reg ING_STREAM_STAT, regRun (ING_HIST 0) 48, regRun (ING_STREAM_W 0) 8] ⊆ R) : OnlyRegs R s₀ (streamLoad s) := by
  unfold streamLoad
  split
  · exact wrWords_only _ _ _ 48 (wrWords_only _ _ _ 8 (setStat_only _ _ _ _ (covReg (hR (by decide))) h₀ (List.nil_subset _)) (by simp [streamWords]) (hR (by decide)))
      (by simp [histWords]) (hR (by decide))
  · exact wrWords_only _ _ _ 48 (wrWords_only _ _ _ 8 (setStat_only _ _ _ _ (covReg (hR (by decide))) h₀ (List.nil_subset _)) (by split <;> simp [svEntryWords]) (hR (by decide)))
      (by simp [histWords]) (hR (by decide))

theorem execStreamLoad_only {R : List RegSet} {s₀ : State} (who : Req) (s : State) (h₀ : OnlyRegs R s₀ s)
    (hR : [reg ING_STREAM_STAT, regRun (ING_HIST 0) 48, regRun (ING_STREAM_W 0) 8] ⊆ R) : AnswersOnly R s₀ (execStreamLoad who s)
      := by
  unfold execStreamLoad
  with_reducible repeat' first
    | exact OnlyRegs.refl _
    | assumption
    | exact List.Subset.trans (by decide) hR
    | (intro _; try dsimp only)
    | apply AnswersOnly.inFull
    | apply AnswersOnly.powered
    | apply AnswersOnly.next
    | apply AnswersOnly.done
    | apply streamLoad_only
    | apply serve_only

end Sys2Proof.Machine
end

