-- ==== Sys2Proof/Laws/RegsTill.lean ====
section
/-!
SUPPORT. Which registers each operation can change (Safety.OnlyRegs): the Till, the Nest, the power and the Ledger.
-/

namespace Sys2Proof.Machine

open Sys2Proof

set_option Elab.async false
set_option linter.all false

set_option maxRecDepth 4000

theorem tillEnter_only {R : List RegSet} {s₀ : State} (c : Instr) (who : Req) (code : Nat) (more : Bool) (cert : Bool) (ok : Bool)
    (s : State) (h₀ : OnlyRegs R s₀ s)
    (hR : [regRun 0x70200 64, regRun 0x70A00 64] ⊆ R) : OnlyRegs R s₀ (tillEnter c who code more cert ok s) := by
  unfold tillEnter
  with_reducible repeat' first
    | assumption
    | apply tillStart_only
    | apply holdWrite_only
    | apply OnlyRegs.foldlPoints
    | (apply OnlyRegs.lit; first | assumption | apply OnlyRegs.ite)

theorem tillCmd_only {R : List RegSet} {s₀ : State} (c : Instr) (who : Req) (code : Nat) (more : Bool) (cert : Bool) (ok : Bool)
    (s : State) (h₀ : OnlyRegs R s₀ s)
    (hR : [regRun 0x70200 64, regRun 0x70A00 64] ⊆ R) : OnlyRegs R s₀ (tillCmd c who code more cert ok s) := by
  unfold tillCmd
  with_reducible repeat' first
    | exact OnlyRegs.refl _
    | assumption
    | exact List.Subset.trans (by decide) hR
    | (intro _; try dsimp only)
    | apply tillEnter_only
    | apply serve_only

theorem execAttest_only {R : List RegSet} {s₀ : State} (who : Req) (s : State) (h₀ : OnlyRegs R s₀ s)
    (hR : [regRun 0x70200 64, regRun 0x70A00 64] ⊆ R) : AnswersOnly R s₀ (execAttest who s) := by
  unfold execAttest
  with_reducible repeat' first
    | assumption
    | apply AnswersOnly.inFull
    | apply AnswersOnly.powered
    | apply AnswersOnly.next
    | apply AnswersOnly.done
    | apply tillCmd_only

theorem execAuth_only {R : List RegSet} {s₀ : State} (who : Req) (ok : Bool) (s : State) (h₀ : OnlyRegs R s₀ s)
    (hR : [regRun 0x70200 64, regRun 0x70A00 64] ⊆ R) : AnswersOnly R s₀ (execAuth who ok s) := by
  unfold execAuth
  with_reducible repeat' first
    | assumption
    | apply AnswersOnly.inFull
    | apply AnswersOnly.powered
    | apply AnswersOnly.next
    | apply AnswersOnly.done
    | apply tillCmd_only

theorem execAuthReq_only {R : List RegSet} {s₀ : State} (who : Req) (s : State) (h₀ : OnlyRegs R s₀ s)
    (hR : [regRun 0x70200 64, regRun 0x70A00 64] ⊆ R) : AnswersOnly R s₀ (execAuthReq who s) := by
  unfold execAuthReq
  with_reducible repeat' first
    | assumption
    | apply AnswersOnly.inFull
    | apply AnswersOnly.powered
    | apply AnswersOnly.next
    | apply AnswersOnly.done
    | apply tillCmd_only

theorem execCalEnrol_only {R : List RegSet} {s₀ : State} (who : Req) (s : State) (h₀ : OnlyRegs R s₀ s)
    (hR : [regRun 0x70200 64, regRun 0x70A00 64] ⊆ R) : AnswersOnly R s₀ (execCalEnrol who s) := by
  unfold execCalEnrol
  with_reducible repeat' first
    | assumption
    | apply AnswersOnly.inFull
    | apply AnswersOnly.powered
    | apply AnswersOnly.next
    | apply AnswersOnly.done
    | apply tillCmd_only

theorem execDecrypt_only {R : List RegSet} {s₀ : State} (who : Req) (more : Bool) (tagOk : Bool) (s : State) (h₀ : OnlyRegs R s₀ s)
    (hR : [regRun 0x70200 64, regRun 0x70A00 64] ⊆ R) : AnswersOnly R s₀ (execDecrypt who more tagOk s) := by
  unfold execDecrypt
  with_reducible repeat' first
    | assumption
    | apply AnswersOnly.inFull
    | apply AnswersOnly.powered
    | apply AnswersOnly.next
    | apply AnswersOnly.done
    | apply tillCmd_only

theorem execDerive_only {R : List RegSet} {s₀ : State} (who : Req) (s : State) (h₀ : OnlyRegs R s₀ s)
    (hR : [regRun 0x70200 64, regRun 0x70A00 64] ⊆ R) : AnswersOnly R s₀ (execDerive who s) := by
  unfold execDerive
  with_reducible repeat' first
    | assumption
    | apply AnswersOnly.inFull
    | apply AnswersOnly.powered
    | apply AnswersOnly.next
    | apply AnswersOnly.done
    | apply tillCmd_only

theorem execDestroy_only {R : List RegSet} {s₀ : State} (who : Req) (s : State) (h₀ : OnlyRegs R s₀ s)
    (hR : [regRun 0x70200 64, regRun 0x70A00 64] ⊆ R) : AnswersOnly R s₀ (execDestroy who s) := by
  unfold execDestroy
  with_reducible repeat' first
    | assumption
    | apply AnswersOnly.inFull
    | apply AnswersOnly.powered
    | apply AnswersOnly.next
    | apply AnswersOnly.done
    | apply tillCmd_only

theorem execEcdh_only {R : List RegSet} {s₀ : State} (who : Req) (s : State) (h₀ : OnlyRegs R s₀ s)
    (hR : [regRun 0x70200 64, regRun 0x70A00 64] ⊆ R) : AnswersOnly R s₀ (execEcdh who s) := by
  unfold execEcdh
  with_reducible repeat' first
    | assumption
    | apply AnswersOnly.inFull
    | apply AnswersOnly.powered
    | apply AnswersOnly.next
    | apply AnswersOnly.done
    | apply tillCmd_only

theorem execEncrypt_only {R : List RegSet} {s₀ : State} (who : Req) (more : Bool) (s : State) (h₀ : OnlyRegs R s₀ s)
    (hR : [regRun 0x70200 64, regRun 0x70A00 64] ⊆ R) : AnswersOnly R s₀ (execEncrypt who more s) := by
  unfold execEncrypt
  with_reducible repeat' first
    | assumption
    | apply AnswersOnly.inFull
    | apply AnswersOnly.powered
    | apply AnswersOnly.next
    | apply AnswersOnly.done
    | apply tillCmd_only

theorem execEnrol_only {R : List RegSet} {s₀ : State} (who : Req) (cert : Bool) (certOk : Bool) (s : State) (h₀ : OnlyRegs R s₀ s)
    (hR : [regRun 0x70200 64, regRun 0x70A00 64] ⊆ R) : AnswersOnly R s₀ (execEnrol who cert certOk s) := by
  unfold execEnrol
  with_reducible repeat' first
    | assumption
    | apply AnswersOnly.inFull
    | apply AnswersOnly.powered
    | apply AnswersOnly.next
    | apply AnswersOnly.done
    | apply tillCmd_only

theorem execGenerate_only {R : List RegSet} {s₀ : State} (who : Req) (pairOk : Bool) (s : State) (h₀ : OnlyRegs R s₀ s)
    (hR : [regRun 0x70200 64, regRun 0x70A00 64] ⊆ R) : AnswersOnly R s₀ (execGenerate who pairOk s) := by
  unfold execGenerate
  with_reducible repeat' first
    | assumption
    | apply AnswersOnly.inFull
    | apply AnswersOnly.powered
    | apply AnswersOnly.next
    | apply AnswersOnly.done
    | apply tillCmd_only

theorem gkExpiring_only {R : List RegSet} {s₀ : State} (i : Nat) (s : State) (h₀ : OnlyRegs R s₀ s)
    (hR : [reg CTL_INT, reg TIL_INT] ⊆ R) : OnlyRegs R s₀ (gkExpiring i s) := by
  unfold gkExpiring
  repeat' first
    | with_reducible assumption
    | exact List.Subset.trans (by decide) hR
    | exact covReg (hR (by decide))
    | with_reducible apply raise_only
    | with_reducible apply OnlyRegs.foldlPoints
    | split

theorem execGkExpiring_only {R : List RegSet} {s₀ : State} (entry : Fin 256) (s : State) (h₀ : OnlyRegs R s₀ s)
    (hR : [reg CTL_INT, reg TIL_INT] ⊆ R) : AnswersOnly R s₀ (execGkExpiring entry s) := by
  unfold execGkExpiring
  with_reducible repeat' first
    | assumption
    | apply AnswersOnly.inFull
    | apply AnswersOnly.powered
    | apply AnswersOnly.next
    | apply AnswersOnly.done
    | apply gkExpiring_only

theorem gkLoad_only {R : List RegSet} {s₀ : State} (i : Nat) (s : State) (h₀ : OnlyRegs R s₀ s) (hR : [reg TIL_GK_IDX, regRun
    (TIL_GK_W 0) 4] ⊆ R) : OnlyRegs R s₀ (gkLoad i s) := by
  unfold gkLoad
  exact wrWords_only _ _ _ 4 (wr_only _ _ _ h₀ (covReg (hR (by decide)))) (by unfold gkWords; split <;> simp) (hR (by decide))

theorem execGkLoad_only {R : List RegSet} {s₀ : State} (who : Req) (entry : BitVec 8) (s : State) (h₀ : OnlyRegs R s₀ s)
    (hR : [reg TIL_GK_IDX, regRun (TIL_GK_W 0) 4] ⊆ R) : AnswersOnly R s₀ (execGkLoad who entry s) := by
  unfold execGkLoad
  with_reducible repeat' first
    | exact OnlyRegs.refl _
    | assumption
    | exact List.Subset.trans (by decide) hR
    | (intro _; try dsimp only)
    | apply AnswersOnly.inFull
    | apply AnswersOnly.powered
    | apply AnswersOnly.next
    | apply AnswersOnly.done
    | apply serve_only
    | apply gkLoad_only

theorem execGkMap_only {R : List RegSet} {s₀ : State} (who : Req) (s : State) (h₀ : OnlyRegs R s₀ s)
    (hR : [regRun 0x70200 64, regRun 0x70A00 64] ⊆ R) : AnswersOnly R s₀ (execGkMap who s) := by
  unfold execGkMap
  with_reducible repeat' first
    | assumption
    | apply AnswersOnly.inFull
    | apply AnswersOnly.powered
    | apply AnswersOnly.next
    | apply AnswersOnly.done
    | apply tillCmd_only

theorem execGkUnmap_only {R : List RegSet} {s₀ : State} (who : Req) (s : State) (h₀ : OnlyRegs R s₀ s)
    (hR : [regRun 0x70200 64, regRun 0x70A00 64] ⊆ R) : AnswersOnly R s₀ (execGkUnmap who s) := by
  unfold execGkUnmap
  with_reducible repeat' first
    | assumption
    | apply AnswersOnly.inFull
    | apply AnswersOnly.powered
    | apply AnswersOnly.next
    | apply AnswersOnly.done
    | apply tillCmd_only

theorem execHash_only {R : List RegSet} {s₀ : State} (who : Req) (more : Bool) (s : State) (h₀ : OnlyRegs R s₀ s)
    (hR : [regRun 0x70200 64, regRun 0x70A00 64] ⊆ R) : AnswersOnly R s₀ (execHash who more s) := by
  unfold execHash
  with_reducible repeat' first
    | assumption
    | apply AnswersOnly.inFull
    | apply AnswersOnly.powered
    | apply AnswersOnly.next
    | apply AnswersOnly.done
    | apply tillCmd_only

theorem execHmac_only {R : List RegSet} {s₀ : State} (who : Req) (more : Bool) (s : State) (h₀ : OnlyRegs R s₀ s)
    (hR : [regRun 0x70200 64, regRun 0x70A00 64] ⊆ R) : AnswersOnly R s₀ (execHmac who more s) := by
  unfold execHmac
  with_reducible repeat' first
    | assumption
    | apply AnswersOnly.inFull
    | apply AnswersOnly.powered
    | apply AnswersOnly.next
    | apply AnswersOnly.done
    | apply tillCmd_only

theorem keyExpiry_only {R : List RegSet} {s₀ : State} (n : Nat) (s : State) (h₀ : OnlyRegs R s₀ s) :
    OnlyRegs R s₀ (keyExpiry n s) := h₀.pass (keyExpiry_within (L := [.till]) n s (Within.refl s) (List.Subset.refl _)) (by decide)

theorem execPubkey_only {R : List RegSet} {s₀ : State} (who : Req) (s : State) (h₀ : OnlyRegs R s₀ s)
    (hR : [regRun 0x70200 64, regRun 0x70A00 64] ⊆ R) : AnswersOnly R s₀ (execPubkey who s) := by
  unfold execPubkey
  with_reducible repeat' first
    | assumption
    | apply AnswersOnly.inFull
    | apply AnswersOnly.powered
    | apply AnswersOnly.next
    | apply AnswersOnly.done
    | apply tillCmd_only

theorem execPurge_only {R : List RegSet} {s₀ : State} (who : Req) (s : State) (h₀ : OnlyRegs R s₀ s)
    (hR : [regRun 0x70200 64, regRun 0x70A00 64] ⊆ R) : AnswersOnly R s₀ (execPurge who s) := by
  unfold execPurge
  with_reducible repeat' first
    | assumption
    | apply AnswersOnly.inFull
    | apply AnswersOnly.powered
    | apply AnswersOnly.next
    | apply AnswersOnly.done
    | apply tillCmd_only

theorem execRandom_only {R : List RegSet} {s₀ : State} (who : Req) (s : State) (h₀ : OnlyRegs R s₀ s)
    (hR : [regRun 0x70200 64, regRun 0x70A00 64] ⊆ R) : AnswersOnly R s₀ (execRandom who s) := by
  unfold execRandom
  with_reducible repeat' first
    | assumption
    | apply AnswersOnly.inFull
    | apply AnswersOnly.powered
    | apply AnswersOnly.next
    | apply AnswersOnly.done
    | apply tillCmd_only

theorem execSign_only {R : List RegSet} {s₀ : State} (who : Req) (s : State) (h₀ : OnlyRegs R s₀ s)
    (hR : [regRun 0x70200 64, regRun 0x70A00 64] ⊆ R) : AnswersOnly R s₀ (execSign who s) := by
  unfold execSign
  with_reducible repeat' first
    | assumption
    | apply AnswersOnly.inFull
    | apply AnswersOnly.powered
    | apply AnswersOnly.next
    | apply AnswersOnly.done
    | apply tillCmd_only

theorem slotLoad_only {R : List RegSet} {s₀ : State} (n : Nat) (s : State) (h₀ : OnlyRegs R s₀ s) (hR : [reg TIL_SLOT_IDX, regRun
    (TIL_SLOT_W 0) 4] ⊆ R) : OnlyRegs R s₀ (slotLoad n s) := by
  unfold slotLoad
  exact wrWords_only _ _ _ 4 (wr_only _ _ _ h₀ (covReg (hR (by decide)))) (by unfold slotWords; split <;> simp) (hR (by decide))

theorem execSlotLoad_only {R : List RegSet} {s₀ : State} (who : Req) (slot : BitVec 10) (s : State) (h₀ : OnlyRegs R s₀ s)
    (hR : [reg TIL_SLOT_IDX, regRun (TIL_SLOT_W 0) 4] ⊆ R) : AnswersOnly R s₀ (execSlotLoad who slot s) := by
  unfold execSlotLoad
  with_reducible repeat' first
    | exact OnlyRegs.refl _
    | assumption
    | exact List.Subset.trans (by decide) hR
    | (intro _; try dsimp only)
    | apply AnswersOnly.inFull
    | apply AnswersOnly.powered
    | apply AnswersOnly.next
    | apply AnswersOnly.done
    | apply slotLoad_only
    | apply serve_only

theorem tamperRun_only {R : List RegSet} {s₀ : State} (src : Nat) (s : State) (h₀ : OnlyRegs R s₀ s)
    (hR : [reg (tillBase 0 + 0x14), reg (tillBase 1 + 0x14), reg CTL_INT, reg EGR_INT, reg EGR_QINT, reg LDG_INT, reg TIL_D_INT,
      reg TIL_INT, reg TIL_TAMPER, reg TIL_TAMPER_TICK_HI, reg TIL_TAMPER_TICK_LO, regFam LDG_DROP 8, regRun (tillBase 0 + 0x18) 4,
      regRun (tillBase 1 + 0x18) 4, regRun 0x70200 64, regRun 0x70A00 64] ⊆ R) : OnlyRegs R s₀ (tamperRun src s) := by
  unfold tamperRun
  repeat' first
    | exact List.Subset.trans (by decide) hR
    | exact covReg (hR (by decide))
    | (show (_ : Nat) < _; decide)
    | with_reducible apply logEvent_only
    | with_reducible apply tillStart_only
    | with_reducible apply abortRunning_only
    | with_reducible apply latchTamper_only
    | with_reducible apply zeroizeAll_only
    | with_reducible apply raise_only
    | with_reducible apply updateNodeOk_only
    | with_reducible apply OnlyRegs.foldlPoints
    | (with_reducible apply OnlyRegs.lit; first | with_reducible assumption | with_reducible apply OnlyRegs.ite | with_reducible apply latchTamper_only | with_reducible apply zeroizeAll_only)

theorem tamper_only {R : List RegSet} {s₀ : State} (sources : Nat) (s : State) (h₀ : OnlyRegs R s₀ s)
    (hR : [reg (tillBase 0 + 0x14), reg (tillBase 1 + 0x14), reg CTL_INT, reg EGR_INT, reg EGR_QINT, reg LDG_INT, reg TIL_D_INT,
      reg TIL_INT, reg TIL_TAMPER, reg TIL_TAMPER_TICK_HI, reg TIL_TAMPER_TICK_LO, regFam LDG_DROP 8, regRun (tillBase 0 + 0x18) 4,
      regRun (tillBase 1 + 0x18) 4, regRun 0x70200 64, regRun 0x70A00 64] ⊆ R) : OnlyRegs R s₀ (tamper sources s) := by
  unfold tamper
  with_reducible repeat' first
    | exact List.Subset.trans (by decide) hR
    | apply tamperRun_only
    | apply latchTamper_only
    | apply OnlyRegs.foldlPoints
    | (apply OnlyRegs.lit; first | assumption | apply OnlyRegs.ite)

theorem execTamperTrip_only {R : List RegSet} {s₀ : State} (sources : BitVec 6) (s : State) (h₀ : OnlyRegs R s₀ s)
    (hR : [reg (tillBase 0 + 0x14), reg (tillBase 1 + 0x14), reg CTL_INT, reg EGR_INT, reg EGR_QINT, reg LDG_INT, reg TIL_D_INT,
      reg TIL_INT, reg TIL_TAMPER, reg TIL_TAMPER_TICK_HI, reg TIL_TAMPER_TICK_LO, regFam LDG_DROP 8, regRun (tillBase 0 + 0x18) 4,
      regRun (tillBase 1 + 0x18) 4, regRun 0x70200 64, regRun 0x70A00 64] ⊆ R) : AnswersOnly R s₀ (execTamperTrip sources s) := by
  unfold execTamperTrip
  with_reducible repeat' first
    | assumption
    | apply AnswersOnly.inFull
    | apply AnswersOnly.powered
    | apply AnswersOnly.next
    | apply AnswersOnly.done
    | apply tamper_only

theorem execUnwrap_only {R : List RegSet} {s₀ : State} (who : Req) (ok : Bool) (s : State) (h₀ : OnlyRegs R s₀ s)
    (hR : [regRun 0x70200 64, regRun 0x70A00 64] ⊆ R) : AnswersOnly R s₀ (execUnwrap who ok s) := by
  unfold execUnwrap
  with_reducible repeat' first
    | assumption
    | apply AnswersOnly.inFull
    | apply AnswersOnly.powered
    | apply AnswersOnly.next
    | apply AnswersOnly.done
    | apply tillCmd_only

theorem execVerify_only {R : List RegSet} {s₀ : State} (who : Req) (ok : Bool) (s : State) (h₀ : OnlyRegs R s₀ s)
    (hR : [regRun 0x70200 64, regRun 0x70A00 64] ⊆ R) : AnswersOnly R s₀ (execVerify who ok s) := by
  unfold execVerify
  with_reducible repeat' first
    | assumption
    | apply AnswersOnly.inFull
    | apply AnswersOnly.powered
    | apply AnswersOnly.next
    | apply AnswersOnly.done
    | apply tillCmd_only

theorem execWrap_only {R : List RegSet} {s₀ : State} (who : Req) (s : State) (h₀ : OnlyRegs R s₀ s)
    (hR : [regRun 0x70200 64, regRun 0x70A00 64] ⊆ R) : AnswersOnly R s₀ (execWrap who s) := by
  unfold execWrap
  with_reducible repeat' first
    | assumption
    | apply AnswersOnly.inFull
    | apply AnswersOnly.powered
    | apply AnswersOnly.next
    | apply AnswersOnly.done
    | apply tillCmd_only

theorem execZeroize_only {R : List RegSet} {s₀ : State} (who : Req) (s : State) (h₀ : OnlyRegs R s₀ s)
    (hR : [regRun 0x70200 64, regRun 0x70A00 64] ⊆ R) : AnswersOnly R s₀ (execZeroize who s) := by
  unfold execZeroize
  with_reducible repeat' first
    | assumption
    | apply AnswersOnly.inFull
    | apply AnswersOnly.powered
    | apply AnswersOnly.next
    | apply AnswersOnly.done
    | apply tillCmd_only

theorem basePeriodic_only {R : List RegSet} {s₀ : State} (s : State) (h₀ : OnlyRegs R s₀ s)
    (hR : [reg CTL_INT, reg NST_OSC_INT] ⊆ R) : OnlyRegs R s₀ (basePeriodic s) := by
  unfold basePeriodic
  with_reducible repeat' first
    | assumption
    | apply OnlyRegs.ite
    | apply baselineSave_only
    | apply setNest_only

theorem brLoad_only {R : List RegSet} {s₀ : State} (k : Nat) (s : State) (h₀ : OnlyRegs R s₀ s)
    (hR : [reg NST_BR_ENDS, reg NST_BR_IDX, reg NST_BR_STAT] ⊆ R) : OnlyRegs R s₀ (brLoad k s) := by
  unfold brLoad
  repeat' first
    | with_reducible assumption
    | exact covReg (hR (by decide))
    | with_reducible apply wr_only

theorem busLoad_only {R : List RegSet} {s₀ : State} (k : Nat) (s : State) (h₀ : OnlyRegs R s₀ s)
    (hR : [reg NST_BUS_IDX, reg NST_BUS_STAT] ⊆ R) : OnlyRegs R s₀ (busLoad k s) := by
  unfold busLoad
  repeat' first
    | with_reducible assumption
    | exact covReg (hR (by decide))
    | with_reducible apply wr_only

theorem execBaselineSave_only {R : List RegSet} {s₀ : State} (s : State) (h₀ : OnlyRegs R s₀ s)
    (hR : [reg CTL_INT, reg NST_OSC_INT] ⊆ R) : AnswersOnly R s₀ (execBaselineSave s) := by
  unfold execBaselineSave
  with_reducible repeat' first
    | assumption
    | apply AnswersOnly.inFull
    | apply AnswersOnly.powered
    | apply AnswersOnly.next
    | apply AnswersOnly.done
    | apply inFull_only
    | apply basePeriodic_only

theorem saveNow_only {R : List RegSet} {s₀ : State} (s : State) (h₀ : OnlyRegs R s₀ s) :
    OnlyRegs R s₀ (saveNow s) := h₀.pass (saveNow_within (L := [.nest]) s (Within.refl s) (List.Subset.refl _)) (by decide)

theorem execBrLoad_only {R : List RegSet} {s₀ : State} (who : Req) (k : BitVec 15) (s : State) (h₀ : OnlyRegs R s₀ s)
    (hR : [reg NST_BR_ENDS, reg NST_BR_IDX, reg NST_BR_STAT] ⊆ R) : AnswersOnly R s₀ (execBrLoad who k s) := by
  unfold execBrLoad
  with_reducible repeat' first
    | exact OnlyRegs.refl _
    | assumption
    | exact List.Subset.trans (by decide) hR
    | (intro _; try dsimp only)
    | apply AnswersOnly.inFull
    | apply AnswersOnly.powered
    | apply AnswersOnly.next
    | apply AnswersOnly.done
    | apply brLoad_only
    | apply serve_only

theorem execBusLoad_only {R : List RegSet} {s₀ : State} (who : Req) (k : BitVec 14) (s : State) (h₀ : OnlyRegs R s₀ s)
    (hR : [reg NST_BUS_IDX, reg NST_BUS_STAT] ⊆ R) : AnswersOnly R s₀ (execBusLoad who k s) := by
  unfold execBusLoad
  with_reducible repeat' first
    | exact OnlyRegs.refl _
    | assumption
    | exact List.Subset.trans (by decide) hR
    | (intro _; try dsimp only)
    | apply AnswersOnly.inFull
    | apply AnswersOnly.powered
    | apply AnswersOnly.next
    | apply AnswersOnly.done
    | apply busLoad_only
    | apply serve_only

theorem islStat_only {R : List RegSet} {s₀ : State} (s : State) (k : Nat) (h₀ : OnlyRegs R s₀ s)
    (hR : [reg NST_ISL_STAT] ⊆ R) : OnlyRegs R s₀ (islStat s k) := by
  unfold islStat
  repeat' first
    | with_reducible assumption
    | exact covReg (hR (by decide))
    | with_reducible apply wr_only

theorem islLoad_only {R : List RegSet} {s₀ : State} (s : State) (h₀ : OnlyRegs R s₀ s) (hR : [reg NST_ISL_STAT, regRun (NST_ISL_W
    0) 8] ⊆ R) : OnlyRegs R s₀ (islLoad s) := by
  unfold islLoad
  exact wrWords_only _ _ _ 8 (islStat_only _ _ h₀ (List.Subset.trans (by decide) hR)) (by simp [islWords]) (hR (by decide))

theorem execIslLoad_only {R : List RegSet} {s₀ : State} (who : Req) (s : State) (h₀ : OnlyRegs R s₀ s)
    (hR : [reg NST_ISL_STAT, regRun (NST_ISL_W 0) 8] ⊆ R) : AnswersOnly R s₀ (execIslLoad who s) := by
  unfold execIslLoad
  with_reducible repeat' first
    | exact OnlyRegs.refl _
    | assumption
    | exact List.Subset.trans (by decide) hR
    | (intro _; try dsimp only)
    | apply AnswersOnly.inFull
    | apply AnswersOnly.powered
    | apply AnswersOnly.next
    | apply AnswersOnly.done
    | apply islLoad_only
    | apply serve_only

theorem islMembers_only {R : List RegSet} {s₀ : State} (s : State) (h₀ : OnlyRegs R s₀ s)
    (hR : [reg NST_ISL_STAT] ⊆ R) : OnlyRegs R s₀ (islMembers s) := by
  unfold islMembers
  with_reducible repeat' first
    | assumption
    | apply OnlyRegs.ite
    | apply openWindow_only
    | apply openEmpty_only
    | apply islStat_only

theorem execIslMembers_only {R : List RegSet} {s₀ : State} (who : Req) (s : State) (h₀ : OnlyRegs R s₀ s)
    (hR : [reg NST_ISL_STAT] ⊆ R) : AnswersOnly R s₀ (execIslMembers who s) := by
  unfold execIslMembers
  with_reducible repeat' first
    | exact OnlyRegs.refl _
    | assumption
    | exact List.Subset.trans (by decide) hR
    | (intro _; try dsimp only)
    | apply AnswersOnly.inFull
    | apply AnswersOnly.powered
    | apply AnswersOnly.next
    | apply AnswersOnly.done
    | apply islMembers_only
    | apply serve_only

theorem modeLoad_only {R : List RegSet} {s₀ : State} (s : State) (h₀ : OnlyRegs R s₀ s) (hR : [reg NST_MODE_STAT, regRun
    (NST_MODE_W 0) 8] ⊆ R) :
    OnlyRegs R s₀ (modeLoad s) := by
  unfold modeLoad
  exact wr_only _ _ _ (wrWords_only _ _ _ 8 h₀ (by simp [modeWords]) (hR (by decide))) (covReg (hR (by decide)))

theorem execModeLoad_only {R : List RegSet} {s₀ : State} (who : Req) (s : State) (h₀ : OnlyRegs R s₀ s)
    (hR : [reg NST_MODE_STAT, regRun (NST_MODE_W 0) 8] ⊆ R) : AnswersOnly R s₀ (execModeLoad who s) := by
  unfold execModeLoad
  with_reducible repeat' first
    | exact OnlyRegs.refl _
    | assumption
    | exact List.Subset.trans (by decide) hR
    | (intro _; try dsimp only)
    | apply AnswersOnly.inFull
    | apply AnswersOnly.powered
    | apply AnswersOnly.next
    | apply AnswersOnly.done
    | apply modeLoad_only
    | apply serve_only

theorem modeShape_only {R : List RegSet} {s₀ : State} (s : State) (h₀ : OnlyRegs R s₀ s)
    (hR : [reg NST_MODE_STAT] ⊆ R) : OnlyRegs R s₀ (modeShape s) := by
  unfold modeShape
  repeat' first
    | with_reducible assumption
    | with_reducible apply OnlyRegs.ite
    | exact covReg (hR (by decide))
    | with_reducible apply openWindow_only
    | with_reducible apply wr_only
    | with_reducible apply openEmpty_only

theorem execModeShape_only {R : List RegSet} {s₀ : State} (who : Req) (s : State) (h₀ : OnlyRegs R s₀ s)
    (hR : [reg NST_MODE_STAT] ⊆ R) : AnswersOnly R s₀ (execModeShape who s) := by
  unfold execModeShape
  with_reducible repeat' first
    | exact OnlyRegs.refl _
    | assumption
    | exact List.Subset.trans (by decide) hR
    | (intro _; try dsimp only)
    | apply AnswersOnly.inFull
    | apply AnswersOnly.powered
    | apply AnswersOnly.next
    | apply AnswersOnly.done
    | apply serve_only
    | apply modeShape_only

theorem execOscSnapshot_only {R : List RegSet} {s₀ : State} (who : Req) (clr : Bool) (s : State) (h₀ : OnlyRegs R s₀ s)
    (hR : [reg CTL_INT, reg NST_OSC_INT, reg NST_OSC_SNAP_SEQ, regRun (NST_OSC_CNT 0) 16] ⊆ R) : AnswersOnly R s₀ (execOscSnapshot
      who clr s) := by
  unfold execOscSnapshot
  repeat' first
    | with_reducible exact OnlyRegs.refl _
    | with_reducible assumption
    | exact List.Subset.trans (by decide) hR
    | (intro _; try dsimp only)
    | with_reducible apply AnswersOnly.inFull
    | with_reducible apply AnswersOnly.powered
    | with_reducible apply AnswersOnly.next
    | with_reducible apply AnswersOnly.done
    | exact covReg (hR (by decide))
    | refine snapshot_only _ 8 _ _ _ ?_ (covRun (hR (by decide))) ?_
    | with_reducible apply serve_only
    | with_reducible apply raise_only

theorem sigLoad_only {R : List RegSet} {s₀ : State} (k : Nat) (s : State) (h₀ : OnlyRegs R s₀ s) (hR : [reg NST_SIG_IDX, regRun
    (NST_SIG_W 0) 4] ⊆ R) : OnlyRegs R s₀ (sigLoad k s) := by
  unfold sigLoad
  exact wrWords_only _ _ _ 4 (wr_only _ _ _ h₀ (covReg (hR (by decide)))) (by unfold sigWords; split <;> simp) (hR (by decide))

theorem execSigLoad_only {R : List RegSet} {s₀ : State} (who : Req) (sig : BitVec 13) (s : State) (h₀ : OnlyRegs R s₀ s)
    (hR : [reg NST_SIG_IDX, regRun (NST_SIG_W 0) 4] ⊆ R) : AnswersOnly R s₀ (execSigLoad who sig s) := by
  unfold execSigLoad
  with_reducible repeat' first
    | exact OnlyRegs.refl _
    | assumption
    | exact List.Subset.trans (by decide) hR
    | (intro _; try dsimp only)
    | apply AnswersOnly.inFull
    | apply AnswersOnly.powered
    | apply AnswersOnly.next
    | apply AnswersOnly.done
    | apply serve_only
    | apply sigLoad_only

theorem interTimeout_only {R : List RegSet} {s₀ : State} (k : Nat) (s : State) (h₀ : OnlyRegs R s₀ s) :
    OnlyRegs R s₀ (interTimeout k s) := h₀.pass (interTimeout_within (L := [.nest]) k s (Within.refl s) (List.Subset.refl _)) (by
      decide)

theorem execTopoSnapshot_only {R : List RegSet} {s₀ : State} (who : Req) (clr : Bool) (s : State) (h₀ : OnlyRegs R s₀ s)
    (hR : [reg CTL_INT, reg NST_TOP_INT, reg NST_TOP_SNAP_SEQ, regRun (NST_TOP_CNT 0) 24] ⊆ R) : AnswersOnly R s₀
      (execTopoSnapshot who clr s) := by
  unfold execTopoSnapshot
  repeat' first
    | with_reducible exact OnlyRegs.refl _
    | with_reducible assumption
    | exact List.Subset.trans (by decide) hR
    | (intro _; try dsimp only)
    | with_reducible apply AnswersOnly.inFull
    | with_reducible apply AnswersOnly.powered
    | with_reducible apply AnswersOnly.next
    | with_reducible apply AnswersOnly.done
    | exact covReg (hR (by decide))
    | refine snapshot_only _ 12 _ _ _ ?_ (covRun (hR (by decide))) ?_
    | with_reducible apply serve_only
    | with_reducible apply raise_only

theorem actAbandon_only {R : List RegSet} {s₀ : State} (s : State) (h₀ : OnlyRegs R s₀ s)
    (hR : [reg BOT_CMD_STAT, reg BOT_INT, reg CTL_INT] ⊆ R) : OnlyRegs R s₀ (actAbandon s) := by
  unfold actAbandon
  with_reducible repeat' first
    | assumption
    | apply botEnd_only
    | apply OnlyRegs.foldlPoints
    | (apply OnlyRegs.lit; first | assumption | apply OnlyRegs.ite)

theorem cycNoRef_only {R : List RegSet} {s₀ : State} (s : State) (h₀ : OnlyRegs R s₀ s)
    (hR : [reg CTL_INT, reg MST_INT] ⊆ R) : OnlyRegs R s₀ (cycNoRef s) := by
  unfold cycNoRef
  with_reducible repeat' first
    | assumption
    | apply OnlyRegs.ite
    | apply cycLeave_only

theorem finalFlush_only {R : List RegSet} {s₀ : State} (s : State) (h₀ : OnlyRegs R s₀ s)
    (hR : [reg CTL_INT, reg EGR_INT, reg EGR_QINT, reg LDG_CLR_STAT, reg LDG_INT, reg LDG_RD_STAT, reg NST_OSC_INT, reg
      SCL_EN_INT, reg SCL_EN_SAVE, reg SCL_EN_SAVE_STAT, reg SCL_EN_STATUS, regFam LDG_DROP 8, regFam PT_STAT 8, ⟨LDG_REFUSED 0, 4,
      0, 1⟩] ⊆ R) : OnlyRegs R s₀ (finalFlush s) := by
  unfold finalFlush
  with_reducible repeat' first
    | exact List.Subset.trans (by decide) hR
    | apply ahSave_only
    | apply baselineSave_only
    | apply flushRun_only
    | apply setLedger_only
    | apply reefSettle_only
    | apply OnlyRegs.foldlPoints
    | (apply OnlyRegs.lit; first | assumption | apply OnlyRegs.ite | apply setLedger_only)

theorem holdupChange_only {R : List RegSet} {s₀ : State} (s : State) (t : State) (h₀ : OnlyRegs R s₀ t)
    (hR : [reg CTL_INT, reg LDG_INT, reg PWR_INT, reg PWR_STATUS, regFam LDG_DROP 8] ⊆ R) : OnlyRegs R s₀ (holdupChange s t) := by
  unfold holdupChange
  repeat' first
    | with_reducible assumption
    | exact List.Subset.trans (by decide) hR
    | with_reducible apply OnlyRegs.ite
    | exact covReg (hR (by decide))
    | (show (_ : Nat) < _; decide)
    | with_reducible apply setStat_only
    | with_reducible apply logEvent_only
    | with_reducible apply raise_only

theorem portOff_only {R : List RegSet} {s₀ : State} (p : Nat) (s : State) (b_p : p < 64) (h₀ : OnlyRegs R s₀ s)
    (hR : [reg CTL_INT, regFam PRT_INT 64] ⊆ R) : OnlyRegs R s₀ (portOff p s) := by
  unfold portOff
  with_reducible repeat' first
    | assumption
    | apply OnlyRegs.ite
    | apply linkChange_only
    | apply setPort_only

theorem setPower_only {R : List RegSet} {s₀ : State} (f : Power → Power) (s : State) (h₀ : OnlyRegs R s₀ s) :
    OnlyRegs R s₀ (setPower f s) := h₀.pass (setPower_within (L := [.power]) f s (Within.refl s) (List.Subset.refl _)) (by decide)

theorem railMeasure_only {R : List RegSet} {s₀ : State} (k : Nat) (mv : Nat) (ma : Nat) (s : State) (h₀ : OnlyRegs R s₀ s)
    (hR : [reg CTL_INT, reg LDG_INT, reg PWR_INT, reg PWR_STATUS, regFam LDG_DROP 8] ⊆ R) : OnlyRegs R s₀ (railMeasure k mv ma s)
      := by
  unfold railMeasure
  repeat' first
    | with_reducible assumption
    | exact List.Subset.trans (by decide) hR
    | with_reducible apply OnlyRegs.ite
    | exact covReg (hR (by decide))
    | (show (_ : Nat) < _; decide)
    | with_reducible apply logEvent_only
    | with_reducible apply setPower_only
    | with_reducible apply wrF_only
    | with_reducible apply raise_only

theorem reefFlush_only {R : List RegSet} {s₀ : State} (s : State) (h₀ : OnlyRegs R s₀ s)
    (hR : [reg CTL_INT, reg EGR_INT, reg EGR_QINT, reg LDG_CLR_STAT, reg LDG_INT, reg LDG_RD_STAT, regFam LDG_DROP 8, ⟨LDG_REFUSED
      0, 4, 0, 1⟩] ⊆ R) : OnlyRegs R s₀ (reefFlush s) := by
  unfold reefFlush
  with_reducible repeat' first
    | assumption
    | apply OnlyRegs.ite
    | apply trackWrite_only
    | apply flushRun_only
    | apply setLedger_only

theorem reefStop_only {R : List RegSet} {s₀ : State} (s : State) (h₀ : OnlyRegs R s₀ s)
    (hR : [reg BOT_CMD_STAT, reg BOT_INT, reg CTL_INT, reg EGR_INT, reg EGR_QINT, reg HST_ERR_OFS, reg HST_INT_EN, reg HST_POISON,
      reg HST_UNDER, reg LDG_RD_STAT, reg MKT_INT, reg MST_INT, reg SHR_INT, regFam MSIX_ADDR 16, regFam MSIX_CTRL 16, regFam
      MSIX_DATA 16, regFam MSIX_UADDR 16, regFam PRT_INT 64] ⊆ R) : OnlyRegs R s₀ (reefStop s) := by
  unfold reefStop
  with_reducible repeat' first
    | assumption
    | exact List.Subset.trans (by decide) hR
    | (intro _; try dsimp only)
    | apply actAbandon_only
    | apply shroudChange_only
    | apply deckReset_only
    | apply hostReset_only
    | apply mastTo_only
    | apply ribLose_only
    | apply cycNoRef_only
    | apply portOff_only
    | apply updateNodeOk_only
    | apply OnlyRegs.foldlPoints
    | (apply OnlyRegs.lit; first | exact OnlyRegs.refl _ | apply OnlyRegs.ite | apply deckReset_only | apply ribLose_only | apply OnlyRegs.forUpTo)

theorem reefEnter_only {R : List RegSet} {s₀ : State} (why : Nat) (s : State) (h₀ : OnlyRegs R s₀ s)
    (hR : [reg BOT_CMD_STAT, reg BOT_INT, reg CAP_INT, reg CTL_INT, reg EGR_INT, reg EGR_QINT, reg HST_ERR_OFS, reg HST_INT_EN,
      reg HST_POISON, reg HST_UNDER, reg LDG_CLR_STAT, reg LDG_INT, reg LDG_RD_STAT, reg MKT_INT, reg MST_INT, reg PWR_INT, reg
      SCL_EN_INT, reg SCL_EN_SAVE, reg SCL_EN_SAVE_STAT, reg SCL_EN_STATUS, reg SHR_INT, regFam LDG_DROP 8, regFam MSIX_ADDR 16,
      regFam MSIX_CTRL 16, regFam MSIX_DATA 16, regFam MSIX_UADDR 16, regFam PRT_INT 64, regFam PT_STAT 8, ⟨LDG_REFUSED 0, 4, 0, 1⟩]
      ⊆ R) : OnlyRegs R s₀ (reefEnter why s) := by
  unfold reefEnter
  repeat' first
    | with_reducible assumption
    | exact List.Subset.trans (by decide) hR
    | with_reducible apply OnlyRegs.ite
    | exact covReg (hR (by decide))
    | (show (_ : Nat) < _; decide)
    | with_reducible apply logEvent_only
    | with_reducible apply setPower_only
    | with_reducible apply reefFlush_only
    | with_reducible apply energyReef_only
    | with_reducible apply raise_only
    | with_reducible apply capReef_only
    | with_reducible apply reefStop_only

theorem shedResume_only {R : List RegSet} {s₀ : State} (s : State) (h₀ : OnlyRegs R s₀ s)
    (hR : [reg CTL_INT, reg LDG_INT, reg PWR_INT, regFam LDG_DROP 8] ⊆ R) : OnlyRegs R s₀ (shedResume s) := by
  unfold shedResume
  repeat' first
    | with_reducible assumption
    | exact List.Subset.trans (by decide) hR
    | with_reducible apply OnlyRegs.ite
    | exact covReg (hR (by decide))
    | (show (_ : Nat) < _; decide)
    | with_reducible apply logEvent_only
    | with_reducible apply setPower_only
    | with_reducible apply raise_only

theorem resume_only {R : List RegSet} {s₀ : State} (version : Word) (s : State) (h₀ : OnlyRegs R s₀ s)
    (hR : [reg CTL_INT, reg CTL_RESTART_INFO, reg EGR_ALSEQ, reg EGR_INT, reg EGR_QINT, reg HST_FW_VER, reg HST_INT, reg LDG_INT,
      reg LDG_RD_STAT, reg MKT_INT, reg MKT_RIB_SPAN, reg MKT_TW_STAT, reg MST_INT, reg NST_ISL_SUSP, reg NST_ISL_THR, reg
      NST_OSC_INT, reg NST_SEED_STAT, reg NST_THR_FAST, reg NST_TOP_INT, reg PAK_INT, reg PWR_INT, reg SCL_CAL_PEND, reg
      SCL_CAL_STAT, reg SCL_EN_INT, reg SCL_EN_SAVE, reg SCL_EN_SAVE_STAT, reg SCL_EN_STATUS, reg SCL_STATUS, reg SHR_INT, regFam
      LDG_DROP 8, regFam MKT_CLS_BELL 8, regFam PRT_RX_HEAD 64, regFam PRT_RX_TAIL 64, regFam PT_STAT 8, regFam SCL_CH_FDLY 24,
      regFam SCL_CH_STAT 24, regRun (NST_SPLIT_W 0) 4, regRun MKT_RIB_OLD_LO 2] ⊆ R) : OnlyRegs R s₀ (resume version s) := by
  unfold resume
  repeat' first
    | exact List.Subset.trans (by decide) hR
    | exact covReg (hR (by decide))
    | (show (_ : Nat) < _; decide)
    | with_reducible apply startDataPath_only
    | with_reducible apply logEvent_only
    | with_reducible apply setPower_only
    | with_reducible apply deckRun_only
    | with_reducible apply shedResume_only
    | with_reducible apply bootLoadCode_only
    | with_reducible apply pairStart_only
    | with_reducible apply linkBack_only
    | with_reducible apply raise_only
    | with_reducible apply energyResume_only
    | with_reducible apply deckStart_only
    | with_reducible apply updateNodeOk_only
    | with_reducible apply OnlyRegs.foldlPoints
    | (with_reducible apply OnlyRegs.lit; first | with_reducible assumption | with_reducible apply OnlyRegs.ite)

theorem shedTo_only {R : List RegSet} {s₀ : State} (n : Nat) (k : Nat) (on : Bool) (s : State) (h₀ : OnlyRegs R s₀ s)
    (hR : [reg CTL_INT, reg EGR_ALSEQ, reg EGR_INT, reg EGR_QINT, reg LDG_INT, reg MKT_INT, reg MKT_TW_STAT, reg MST_INT, reg
      NST_ISL_SUSP, reg NST_ISL_THR, reg NST_OSC_INT, reg NST_THR_FAST, reg NST_TOP_INT, reg PAK_INT, reg PWR_INT, reg SHR_INT,
      regFam LDG_DROP 8, regRun (NST_SPLIT_W 0) 4] ⊆ R) : OnlyRegs R s₀ (shedTo n k on s) := by
  unfold shedTo
  repeat' first
    | with_reducible assumption
    | exact List.Subset.trans (by decide) hR
    | exact covReg (hR (by decide))
    | (show (_ : Nat) < _; decide)
    | with_reducible apply logEvent_only
    | with_reducible apply setPower_only
    | with_reducible apply shedEffect_only
    | with_reducible apply raise_only

theorem shedStep_only {R : List RegSet} {s₀ : State} (temp : Int) (s : State) (h₀ : OnlyRegs R s₀ s)
    (hR : [reg CTL_INT, reg EGR_ALSEQ, reg EGR_INT, reg EGR_QINT, reg LDG_INT, reg MKT_INT, reg MKT_TW_STAT, reg MST_INT, reg
      NST_ISL_SUSP, reg NST_ISL_THR, reg NST_OSC_INT, reg NST_THR_FAST, reg NST_TOP_INT, reg PAK_INT, reg PWR_INT, reg SHR_INT,
      regFam LDG_DROP 8, regRun (NST_SPLIT_W 0) 4] ⊆ R) : OnlyRegs R s₀ (shedStep temp s) := by
  unfold shedStep
  with_reducible repeat' first
    | assumption
    | apply OnlyRegs.ite
    | apply setPower_only
    | apply shedTo_only

theorem clrEnd_only {R : List RegSet} {s₀ : State} (s : State) (h₀ : OnlyRegs R s₀ s) :
    OnlyRegs R s₀ (clrEnd s) := h₀.pass (clrEnd_within (L := [.ledger]) s (Within.refl s) (List.Subset.refl _)) (by decide)

theorem clrResult_only {R : List RegSet} {s₀ : State} (r : Nat) (s : State) (h₀ : OnlyRegs R s₀ s)
    (hR : [reg LDG_CLR_STAT] ⊆ R) : OnlyRegs R s₀ (clrResult r s) := by
  unfold clrResult
  repeat' first
    | with_reducible assumption
    | exact List.Subset.trans (by decide) hR
    | exact covReg (hR (by decide))
    | with_reducible apply wrF_only

theorem clearBegin_only {R : List RegSet} {s₀ : State} (during : List LEvent) (badUnits : List Nat) (s : State) (h₀ : OnlyRegs R s₀ s)
    (hR : [reg CTL_INT, reg EGR_INT, reg EGR_QINT, reg LDG_CLR_STAT, reg LDG_INT, reg LDG_RD_STAT, regFam LDG_DROP 8, ⟨LDG_REFUSED
      0, 4, 0, 1⟩] ⊆ R) : OnlyRegs R s₀ (clearBegin during badUnits s) := by
  unfold clearBegin
  with_reducible repeat' first
    | assumption
    | exact List.Subset.trans (by decide) hR
    | apply OnlyRegs.ite
    | apply clrEnd_only
    | apply flushRun_only
    | apply setLedger_only
    | apply clrResult_only
    | apply controlRecord_only

theorem clrExpire_only {R : List RegSet} {s₀ : State} (s : State) (h₀ : OnlyRegs R s₀ s)
    (hR : [reg LDG_CLR_STAT] ⊆ R) : OnlyRegs R s₀ (clrExpire s) := by
  unfold clrExpire
  with_reducible repeat' first
    | assumption
    | apply clrEnd_only
    | apply clrResult_only

theorem clearExecute_only {R : List RegSet} {s₀ : State} (s : State) (h₀ : OnlyRegs R s₀ s)
    (hR : [reg CTL_INT, reg EGR_INT, reg EGR_QINT, reg LDG_CLR_STAT, reg LDG_INT, reg LDG_RD_STAT, regFam LDG_DROP 8, ⟨LDG_REFUSED
      0, 4, 0, 1⟩] ⊆ R) : OnlyRegs R s₀ (clearExecute s) := by
  unfold clearExecute
  with_reducible repeat' first
    | assumption
    | exact List.Subset.trans (by decide) hR
    | apply clearBegin_only
    | apply setLedger_only
    | apply clrResult_only
    | apply clrExpire_only
    | apply OnlyRegs.foldlPoints
    | split

theorem clearRequest_only {R : List RegSet} {s₀ : State} (s : State) (h₀ : OnlyRegs R s₀ s)
    (hR : [reg LDG_CLR_STAT] ⊆ R) : OnlyRegs R s₀ (clearRequest s) := by
  unfold clearRequest
  with_reducible repeat' first
    | assumption
    | apply OnlyRegs.ite
    | apply setLedger_only
    | apply clrResult_only
    | apply drawFree_only

theorem execClearEraseDone_only {R : List RegSet} {s₀ : State} (s : State) (h₀ : OnlyRegs R s₀ s)
    (hR : [reg CTL_INT, reg LDG_CLR_STAT, reg LDG_INT, reg LDG_RD_STAT, regFam LDG_DROP 8, regFam LDG_REFUSED 8, ⟨LDG_REFUSED 0,
      4, 0, 1⟩] ⊆ R) : AnswersOnly R s₀ (execClearEraseDone s) := by
  unfold execClearEraseDone
  with_reducible repeat' first
    | assumption
    | apply OnlyRegs.ite
    | apply AnswersOnly.inFull
    | apply AnswersOnly.powered
    | apply AnswersOnly.next
    | apply AnswersOnly.done
    | apply powered_only
    | apply clearFinish_only

theorem execClearExecute_only {R : List RegSet} {s₀ : State} (s : State) (h₀ : OnlyRegs R s₀ s)
    (hR : [reg CTL_INT, reg EGR_INT, reg EGR_QINT, reg LDG_CLR_STAT, reg LDG_INT, reg LDG_RD_STAT, regFam LDG_DROP 8, ⟨LDG_REFUSED
      0, 4, 0, 1⟩] ⊆ R) : AnswersOnly R s₀ (execClearExecute s) := by
  unfold execClearExecute
  with_reducible repeat' first
    | exact OnlyRegs.refl _
    | assumption
    | exact List.Subset.trans (by decide) hR
    | (intro _; try dsimp only)
    | apply AnswersOnly.inFull
    | apply AnswersOnly.powered
    | apply AnswersOnly.next
    | apply AnswersOnly.done
    | apply hostServe_only
    | apply clearExecute_only

theorem execClearExpiry_only {R : List RegSet} {s₀ : State} (s : State) (h₀ : OnlyRegs R s₀ s)
    (hR : [reg LDG_CLR_STAT] ⊆ R) : AnswersOnly R s₀ (execClearExpiry s) := by
  unfold execClearExpiry
  with_reducible repeat' first
    | assumption
    | apply OnlyRegs.ite
    | apply AnswersOnly.inFull
    | apply AnswersOnly.powered
    | apply AnswersOnly.next
    | apply AnswersOnly.done
    | apply powered_only
    | apply clrExpire_only

theorem execClearRequest_only {R : List RegSet} {s₀ : State} (s : State) (h₀ : OnlyRegs R s₀ s)
    (hR : [reg LDG_CLR_STAT] ⊆ R) : AnswersOnly R s₀ (execClearRequest s) := by
  unfold execClearRequest
  with_reducible repeat' first
    | exact OnlyRegs.refl _
    | assumption
    | exact List.Subset.trans (by decide) hR
    | (intro _; try dsimp only)
    | apply AnswersOnly.inFull
    | apply AnswersOnly.powered
    | apply AnswersOnly.next
    | apply AnswersOnly.done
    | apply hostServe_only
    | apply clearRequest_only

theorem lastWordsUpdate_only {R : List RegSet} {s₀ : State} (s : State) (h₀ : OnlyRegs R s₀ s) :
    OnlyRegs R s₀ (lastWordsUpdate s) := h₀.pass (lastWordsUpdate_within (L := [.ledger, .sentry]) s (Within.refl s)
      (List.Subset.refl _)) (by decide)

theorem execLedgerEvent_only {R : List RegSet} {s₀ : State} (e : LEvent) (s : State) (h₀ : OnlyRegs R s₀ s)
    (hR : [reg CTL_INT, reg LDG_INT, regFam LDG_DROP 8] ⊆ R) : AnswersOnly R s₀ (execLedgerEvent e s) := by
  unfold execLedgerEvent
  with_reducible repeat' first
    | assumption
    | apply AnswersOnly.inFull
    | apply AnswersOnly.powered
    | apply AnswersOnly.next
    | apply AnswersOnly.done
    | apply logOffered_only

theorem flushTimed_only {R : List RegSet} {s₀ : State} (during : List LEvent) (badUnits : List Nat) (s : State) (h₀ : OnlyRegs R s₀ s)
    (hR : [reg CTL_INT, reg EGR_INT, reg EGR_QINT, reg LDG_CLR_STAT, reg LDG_INT, reg LDG_RD_STAT, regFam LDG_DROP 8, ⟨LDG_REFUSED
      0, 4, 0, 1⟩] ⊆ R) : OnlyRegs R s₀ (flushTimed during badUnits s) := by
  unfold flushTimed
  with_reducible repeat' first
    | assumption
    | apply OnlyRegs.ite
    | apply clearBegin_only
    | apply flushRun_only

theorem execLedgerFlush_only {R : List RegSet} {s₀ : State} (during : List LEvent) (badUnits : List Nat) (s : State) (h₀ :
    OnlyRegs R s₀ s)
    (hR : [reg CTL_INT, reg EGR_INT, reg EGR_QINT, reg LDG_CLR_STAT, reg LDG_INT, reg LDG_RD_STAT, regFam LDG_DROP 8, ⟨LDG_REFUSED
      0, 4, 0, 1⟩] ⊆ R) : AnswersOnly R s₀ (execLedgerFlush during badUnits s) := by
  unfold execLedgerFlush
  with_reducible repeat' first
    | assumption
    | apply AnswersOnly.inFull
    | apply AnswersOnly.powered
    | apply AnswersOnly.next
    | apply AnswersOnly.done
    | apply flushTimed_only

theorem execLedgerReadAbort_only {R : List RegSet} {s₀ : State} (s : State) (h₀ : OnlyRegs R s₀ s)
    (hR : [reg LDG_RD_STAT] ⊆ R) : AnswersOnly R s₀ (execLedgerReadAbort s) := by
  unfold execLedgerReadAbort
  with_reducible repeat' first
    | exact OnlyRegs.refl _
    | assumption
    | exact List.Subset.trans (by decide) hR
    | (intro _; try dsimp only)
    | apply AnswersOnly.inFull
    | apply AnswersOnly.powered
    | apply AnswersOnly.next
    | apply AnswersOnly.done
    | apply hostServe_only
    | apply ledgerAbort_only

theorem rdTrack_only {R : List RegSet} {s₀ : State} (s : State) (h₀ : OnlyRegs R s₀ s) :
    OnlyRegs R s₀ (rdTrack s) := h₀.pass (rdTrack_within (L := [.ledger]) s (Within.refl s) (List.Subset.refl _)) (by decide)

theorem ledgerOpen_only {R : List RegSet} {s₀ : State} (s : State) (h₀ : OnlyRegs R s₀ s)
    (hR : [reg LDG_RD_END, reg LDG_RD_STAT] ⊆ R) : OnlyRegs R s₀ (ledgerOpen s) := by
  unfold ledgerOpen
  repeat' first
    | with_reducible assumption
    | with_reducible apply OnlyRegs.ite
    | exact covReg (hR (by decide))
    | with_reducible apply openMore_only
    | with_reducible apply rdTrack_only
    | with_reducible apply openWindow_only
    | with_reducible apply dropEngine_only
    | with_reducible apply setLedger_only
    | with_reducible apply wr_only
    | with_reducible apply setWork_only
    | with_reducible apply openEmpty_only

theorem execLedgerReadOpen_only {R : List RegSet} {s₀ : State} (s : State) (h₀ : OnlyRegs R s₀ s)
    (hR : [reg LDG_RD_END, reg LDG_RD_STAT] ⊆ R) : AnswersOnly R s₀ (execLedgerReadOpen s) := by
  unfold execLedgerReadOpen
  with_reducible repeat' first
    | exact OnlyRegs.refl _
    | assumption
    | exact List.Subset.trans (by decide) hR
    | (intro _; try dsimp only)
    | apply AnswersOnly.inFull
    | apply AnswersOnly.powered
    | apply AnswersOnly.next
    | apply AnswersOnly.done
    | apply hostServe_only
    | apply ledgerOpen_only

theorem lwAck_only {R : List RegSet} {s₀ : State} (s : State) (h₀ : OnlyRegs R s₀ s) :
    OnlyRegs R s₀ (lwAck s) := h₀.pass (lwAck_within (L := [.ledger, .sentry]) s (Within.refl s) (List.Subset.refl _)) (by decide)

theorem trackTimed_only {R : List RegSet} {s₀ : State} (k : Nat) (derived : Int) (s : State) (h₀ : OnlyRegs R s₀ s) :
    OnlyRegs R s₀ (trackTimed k derived s) := h₀.pass (trackTimed_within (L := [.cap, .ledger]) k derived s (Within.refl s)
      (List.Subset.refl _)) (by decide)

end Sys2Proof.Machine
end

