-- ==== Sys2Proof/Laws/RegsMem.lean ====
section
/-!
SUPPORT. Which registers each operation can change (Safety.OnlyRegs): the packer, the memories, the power events and the tick.
-/

namespace Sys2Proof.Machine

open Sys2Proof

set_option Elab.async false
set_option linter.all false

set_option maxRecDepth 4000

theorem execJobAbort_only {R : List RegSet} {s₀ : State} (who : Req) (s : State) (h₀ : OnlyRegs R s₀ s)
    (hR : [reg CTL_INT, reg PAK_INT, reg PAK_J_IN_DONE, reg PAK_J_OUT_LEN, reg PAK_J_STAT] ⊆ R) : AnswersOnly R s₀ (execJobAbort
      who s) := by
  unfold execJobAbort
  with_reducible repeat' first
    | exact OnlyRegs.refl _
    | assumption
    | exact List.Subset.trans (by decide) hR
    | (intro _; try dsimp only)
    | apply AnswersOnly.inFull
    | apply AnswersOnly.powered
    | apply AnswersOnly.next
    | apply AnswersOnly.done
    | apply jobFail_only
    | apply serve_only

theorem jobFlush_only {R : List RegSet} {s₀ : State} (consumed : Nat) (s : State) (h₀ : OnlyRegs R s₀ s) :
    OnlyRegs R s₀ (jobFlush consumed s) := h₀.pass (jobFlush_within (L := [.pak]) consumed s (Within.refl s) (List.Subset.refl _))
      (by decide)

theorem execJobPack_only {R : List RegSet} {s₀ : State} (who : Req) (k : BitVec 16) (input : List Byte) (s : State) (h₀ : OnlyRegs
    R s₀ s)
    (hR : [reg CTL_INT, reg PAK_INT, reg PAK_J_IN_DONE, reg PAK_J_OUT_LEN, reg PAK_J_STAT] ⊆ R) : AnswersOnly R s₀ (execJobPack
      who k input s) := by
  unfold execJobPack
  with_reducible repeat' first
    | exact OnlyRegs.refl _
    | assumption
    | exact List.Subset.trans (by decide) hR
    | (intro _; try dsimp only)
    | apply AnswersOnly.inFull
    | apply AnswersOnly.powered
    | apply AnswersOnly.next
    | apply AnswersOnly.done
    | apply jobStart_only
    | apply serve_only

theorem execJobRaw_only {R : List RegSet} {s₀ : State} (who : Req) (k : BitVec 16) (input : List Byte) (s : State) (h₀ : OnlyRegs
    R s₀ s)
    (hR : [reg CTL_INT, reg PAK_INT, reg PAK_J_IN_DONE, reg PAK_J_OUT_LEN, reg PAK_J_STAT] ⊆ R) : AnswersOnly R s₀ (execJobRaw who
      k input s) := by
  unfold execJobRaw
  with_reducible repeat' first
    | exact OnlyRegs.refl _
    | assumption
    | exact List.Subset.trans (by decide) hR
    | (intro _; try dsimp only)
    | apply AnswersOnly.inFull
    | apply AnswersOnly.powered
    | apply AnswersOnly.next
    | apply AnswersOnly.done
    | apply jobStart_only
    | apply serve_only

theorem execJobUnpack_only {R : List RegSet} {s₀ : State} (who : Req) (k : BitVec 16) (input : List Byte) (s : State) (h₀ :
    OnlyRegs R s₀ s)
    (hR : [reg CTL_INT, reg PAK_INT, reg PAK_J_IN_DONE, reg PAK_J_OUT_LEN, reg PAK_J_STAT] ⊆ R) : AnswersOnly R s₀ (execJobUnpack
      who k input s) := by
  unfold execJobUnpack
  with_reducible repeat' first
    | exact OnlyRegs.refl _
    | assumption
    | exact List.Subset.trans (by decide) hR
    | (intro _; try dsimp only)
    | apply AnswersOnly.inFull
    | apply AnswersOnly.powered
    | apply AnswersOnly.next
    | apply AnswersOnly.done
    | apply jobStart_only
    | apply serve_only

theorem execPackerBlockDone_only {R : List RegSet} {s₀ : State} (s : State) (h₀ : OnlyRegs R s₀ s)
    (hR : [reg CTL_INT, reg EGR_INT, reg EGR_XF_STAT, reg MKT_INT, reg MKT_RIB_RSTAT, reg MKT_RIB_SPAN, reg PAK_INT, reg
      PAK_J_IN_DONE, reg PAK_J_OUT_LEN, reg PAK_J_STAT, regRun MKT_RIB_OLD_LO 2] ⊆ R) : AnswersOnly R s₀ (execPackerBlockDone s) :=
      by
  unfold execPackerBlockDone
  with_reducible repeat' first
    | assumption
    | apply AnswersOnly.inFull
    | apply AnswersOnly.powered
    | apply AnswersOnly.next
    | apply AnswersOnly.done
    | apply inFull_only
    | apply finishBlock_only
    | apply OnlyRegs.foldlPoints
    | split

theorem packerBlockStart_only {R : List RegSet} {s₀ : State} (s : State) (h₀ : OnlyRegs R s₀ s) :
    OnlyRegs R s₀ (packerBlockStart s) := h₀.pass (packerBlockStart_within (L := [.mkt, .pak]) s (Within.refl s) (List.Subset.refl
      _)) (by decide)

theorem execPackerSnapshot_only {R : List RegSet} {s₀ : State} (who : Req) (clr : Bool) (s : State) (h₀ : OnlyRegs R s₀ s)
    (hR : [reg CTL_INT, reg PAK_INT, reg PAK_SNAP_SEQ, regRun (PAK_CNT 0) 16] ⊆ R) : AnswersOnly R s₀ (execPackerSnapshot who clr
      s) := by
  unfold execPackerSnapshot
  repeat' first
    | with_reducible exact OnlyRegs.refl _
    | with_reducible assumption
    | exact List.Subset.trans (by decide) hR
    | (intro _; try dsimp only)
    | with_reducible apply AnswersOnly.inFull
    | with_reducible apply AnswersOnly.powered
    | with_reducible apply AnswersOnly.next
    | with_reducible apply AnswersOnly.done
    | exact covReg (hR (by decide))
    | refine snapshot_only _ 8 _ _ _ ?_ (covRun (hR (by decide))) ?_
    | with_reducible apply serve_only
    | with_reducible apply raise_only

theorem baselineError_only {R : List RegSet} {s₀ : State} (older : Bool) (s : State) (h₀ : OnlyRegs R s₀ s) :
    OnlyRegs R s₀ (baselineError older s) := h₀.pass (baselineError_within (L := [.nest]) older s (Within.refl s)
      (List.Subset.refl _)) (by decide)

theorem bufferError_only {R : List RegSet} {s₀ : State} (region : Nat) (p : Nat) (s : State) (h₀ : OnlyRegs R s₀ s) :
    OnlyRegs R s₀ (bufferError region p s) := h₀.pass (bufferError_within (L := [.ports]) region p s (Within.refl s)
      (List.Subset.refl _)) (by decide)

theorem configLostNow_only {R : List RegSet} {s₀ : State} (s : State) (h₀ : OnlyRegs R s₀ s)
    (hR : [reg CTL_INT, reg EGR_INT, reg EGR_QINT, reg LDG_INT, regFam LDG_DROP 8] ⊆ R) : OnlyRegs R s₀ (configLostNow s) := by
  unfold configLostNow
  with_reducible repeat' first
    | exact List.Subset.trans (by decide) hR
    | (show (_ : Nat) < _; decide)
    | apply logEvent_only
    | apply updateNodeOk_only
    | apply OnlyRegs.foldlPoints
    | (apply OnlyRegs.lit; first | assumption)

theorem sampleError_only {R : List RegSet} {s₀ : State} (c : Nat) (s : State) (b_c : c < 4) (h₀ : OnlyRegs R s₀ s)
    (hR : [regFam CTL_PC_STAT 4] ⊆ R) : OnlyRegs R s₀ (sampleError c s) := by
  unfold sampleError
  repeat' first
    | with_reducible assumption
    | exact List.Subset.trans (by decide) hR
    | with_reducible apply OnlyRegs.ite
    | refine covFam (n := 4) (hR (by decide)) (fun i => by simp only [CTL_PC_STAT]) ?_
    | with_reducible apply wrF_only
    | with_reducible apply setWindow_only

theorem itemError_only {R : List RegSet} {s₀ : State} (q : Nat) (s : State) (h₀ : OnlyRegs R s₀ s) :
    OnlyRegs R s₀ (itemError q s) := h₀.pass (itemError_within (L := [.egr]) q s (Within.refl s) (List.Subset.refl _)) (by decide)

theorem stallError_only {R : List RegSet} {s₀ : State} (n : Nat) (k : Nat) (s : State) (h₀ : OnlyRegs R s₀ s) :
    OnlyRegs R s₀ (stallError n k s) := h₀.pass (stallError_within (L := [.ing, .mkt]) n k s (Within.refl s) (List.Subset.refl _))
      (by decide)

theorem ribbonError_only {R : List RegSet} {s₀ : State} (i : Nat) (s : State) (h₀ : OnlyRegs R s₀ s)
    (hR : [reg CTL_INT, reg EGR_INT, reg EGR_XF_STAT, reg MKT_INT, reg MKT_RIB_RSTAT, reg MKT_RIB_SPAN, regRun MKT_RIB_OLD_LO 2] ⊆
      R) : OnlyRegs R s₀ (ribbonError i s) := by
  unfold ribbonError
  with_reducible repeat' first
    | exact List.Subset.trans (by decide) hR
    | apply ribOverwrite_only
    | apply ribReport_only
    | apply OnlyRegs.foldlPoints
    | (apply OnlyRegs.lit; first | assumption)
    | split

theorem stampError_only {R : List RegSet} {s₀ : State} (p : Nat) (i : Nat) (s : State) (b_p : p < 64) (h₀ : OnlyRegs R s₀ s)
    (hR : [reg CTL_INT, regFam PRT_INT 64, regFam PRT_TSQ_STAT 64] ⊆ R) : OnlyRegs R s₀ (stampError p i s) := by
  unfold stampError
  try dsimp only
  repeat' first
    | with_reducible assumption
    | exact List.Subset.trans (by decide) hR
    | refine covFam (n := 64) (hR (by decide)) (fun i => by simp only [PRT_INT, PRT_TSQ_STAT]) ?_
    | with_reducible apply tsqRefuse_only
    | with_reducible apply setPort_only
    | with_reducible apply OnlyRegs.foldlPoints
    | split

theorem recordError_only {R : List RegSet} {s₀ : State} (no : Nat) (ofs : Nat) (s : State) (h₀ : OnlyRegs R s₀ s) :
    OnlyRegs R s₀ (recordError no ofs s) := h₀.pass (recordError_within (L := [.cap]) no ofs s (Within.refl s) (List.Subset.refl
      _)) (by decide)

theorem trackError_only {R : List RegSet} {s₀ : State} (k : Nat) (older : Bool) (s : State) (h₀ : OnlyRegs R s₀ s) :
    OnlyRegs R s₀ (trackError k older s) := h₀.pass (trackError_within (L := [.ledger]) k older s (Within.refl s)
      (List.Subset.refl _)) (by decide)

theorem controlError_only {R : List RegSet} {s₀ : State} (i : Nat) (s : State) (h₀ : OnlyRegs R s₀ s) :
    OnlyRegs R s₀ (controlError i s) := h₀.pass (controlError_within (L := [.ledger]) i s (Within.refl s) (List.Subset.refl _))
      (by decide)

theorem intervalError_only {R : List RegSet} {s₀ : State} (i : Nat) (s : State) (h₀ : OnlyRegs R s₀ s) :
    OnlyRegs R s₀ (intervalError i s) := h₀.pass (intervalError_within (L := [.scales]) i s (Within.refl s) (List.Subset.refl _))
      (by decide)

theorem logError_only {R : List RegSet} {s₀ : State} (seq : Nat) (s : State) (h₀ : OnlyRegs R s₀ s) :
    OnlyRegs R s₀ (logError seq s) := h₀.pass (logError_within (L := [.ledger]) seq s (Within.refl s) (List.Subset.refl _)) (by
      decide)

theorem streamError_only {R : List RegSet} {s₀ : State} (n : Nat) (s : State) (h₀ : OnlyRegs R s₀ s) :
    OnlyRegs R s₀ (streamError n s) := h₀.pass (streamError_within (L := [.ing]) n s (Within.refl s) (List.Subset.refl _)) (by decide)

theorem deckError_only {R : List RegSet} {s₀ : State} (thread : Option Nat) (s : State) (h₀ : OnlyRegs R s₀ s)
    (hR : [reg CTL_INT, reg CTL_RESTART_INFO, reg EGR_INT, reg EGR_QINT, reg LDG_INT, reg MST_INT, regFam LDG_DROP 8] ⊆ R) :
      OnlyRegs R s₀ (deckError thread s) := by
  unfold deckError
  with_reducible repeat' first
    | assumption
    | apply machineCheck_only
    | apply OnlyRegs.foldlPoints
    | split

theorem consequenceOf_only {R : List RegSet} {s₀ : State} (region : Nat) (target : UeTarget) (s : State) (h₀ : OnlyRegs R s₀ s)
    (hR : [reg CTL_INT, reg CTL_RESTART_INFO, reg EGR_ALSEQ, reg EGR_INT, reg EGR_QINT, reg EGR_XF_STAT, reg LDG_INT, reg
      LDG_RD_STAT, reg MKT_INT, reg MKT_RIB_RSTAT, reg MKT_RIB_SPAN, reg MKT_TW_STAT, reg MST_INT, reg NST_ISL_SUSP, reg
      NST_ISL_THR, reg NST_OSC_INT, reg NST_THR_FAST, reg NST_TOP_INT, reg PAK_INT, reg PAK_J_IN_DONE, reg PAK_J_OUT_LEN, reg
      PAK_J_STAT, regFam CTL_PC_STAT 4, regFam LDG_DROP 8, regFam PRT_INT 64, regFam PRT_TSQ_STAT 64, regRun MKT_RIB_OLD_LO 2] ⊆ R)
      : OnlyRegs R s₀ (consequenceOf region target s) := by
  unfold consequenceOf
  repeat' first
    | with_reducible assumption
    | exact List.Subset.trans (by decide) hR
    | exact covReg (hR (by decide))
    | exact Fin.isLt _
    | with_reducible apply emRestart_only
    | with_reducible apply sampleError_only
    | with_reducible apply itemError_only
    | with_reducible apply stallError_only
    | with_reducible apply ribbonError_only
    | with_reducible apply fastRestart_only
    | with_reducible apply bufferError_only
    | with_reducible apply stampError_only
    | with_reducible apply recordError_only
    | with_reducible apply pakMemErr_only
    | with_reducible apply topError_only
    | with_reducible apply trackError_only
    | with_reducible apply controlError_only
    | with_reducible apply baselineError_only
    | with_reducible apply creditsBack_only
    | with_reducible apply intervalError_only
    | with_reducible apply storeError_only
    | with_reducible apply configLostNow_only
    | with_reducible apply raise_only
    | with_reducible apply logError_only
    | with_reducible apply streamError_only
    | with_reducible apply deckError_only
    | with_reducible apply OnlyRegs.foldlPoints
    | split

theorem consequence_only {R : List RegSet} {s₀ : State} (region : Nat) (target : UeTarget) (s : State) (h₀ : OnlyRegs R s₀ s)
    (hR : [reg CTL_INT, reg CTL_RESTART_INFO, reg EGR_ALSEQ, reg EGR_INT, reg EGR_QINT, reg EGR_XF_STAT, reg LDG_INT, reg
      LDG_RD_STAT, reg MKT_INT, reg MKT_RIB_RSTAT, reg MKT_RIB_SPAN, reg MKT_TW_STAT, reg MST_INT, reg NST_ISL_SUSP, reg
      NST_ISL_THR, reg NST_OSC_INT, reg NST_THR_FAST, reg NST_TOP_INT, reg PAK_INT, reg PAK_J_IN_DONE, reg PAK_J_OUT_LEN, reg
      PAK_J_STAT, regFam CTL_PC_STAT 4, regFam LDG_DROP 8, regFam PRT_INT 64, regFam PRT_TSQ_STAT 64, regRun MKT_RIB_OLD_LO 2] ⊆ R)
      : OnlyRegs R s₀ (consequence region target s) := by
  unfold consequence
  with_reducible repeat' first
    | assumption
    | apply OnlyRegs.ite
    | apply consequenceOf_only

theorem setMem_only {R : List RegSet} {s₀ : State} (f : MemInt → MemInt) (s : State) (h₀ : OnlyRegs R s₀ s) :
    OnlyRegs R s₀ (setMem f s) := h₀.pass (setMem_within (L := [.mem]) f s (Within.refl s) (List.Subset.refl _)) (by decide)

theorem laneCount_only {R : List RegSet} {s₀ : State} (ch : Nat) (lane : Nat) (s : State) (h₀ : OnlyRegs R s₀ s)
    (hR : [reg CTL_INT, reg LDG_INT, reg MEM_INT, regFam LDG_DROP 8] ⊆ R) : OnlyRegs R s₀ (laneCount ch lane s) := by
  unfold laneCount
  repeat' first
    | with_reducible assumption
    | exact List.Subset.trans (by decide) hR
    | with_reducible apply OnlyRegs.ite
    | exact covReg (hR (by decide))
    | (show (_ : Nat) < _; decide)
    | with_reducible apply logEvent_only
    | with_reducible apply setMem_only
    | with_reducible apply raise_only

theorem noteUe_only {R : List RegSet} {s₀ : State} (region : Nat) (addr : Nat) (s : State) (h₀ : OnlyRegs R s₀ s)
    (hR : [reg CTL_INT, reg LDG_INT, reg MEM_INT, reg MEM_UE_ADDR_HI, reg MEM_UE_ADDR_LO, regFam LDG_DROP 8] ⊆ R) : OnlyRegs R s₀
      (noteUe region addr s) := by
  unfold noteUe
  repeat' first
    | with_reducible assumption
    | exact List.Subset.trans (by decide) hR
    | with_reducible apply OnlyRegs.ite
    | exact covReg (hR (by decide))
    | (show (_ : Nat) < _; decide)
    | with_reducible apply logEvent_only
    | with_reducible apply wr_only
    | with_reducible apply raise_only
    | with_reducible apply count_only

theorem unitCount_only {R : List RegSet} {s₀ : State} (region : Nat) (addr : Nat) (s : State) (h₀ : OnlyRegs R s₀ s)
    (hR : [reg CTL_INT, reg MEM_INT] ⊆ R) : OnlyRegs R s₀ (unitCount region addr s) := by
  unfold unitCount
  repeat' first
    | with_reducible assumption
    | exact List.Subset.trans (by decide) hR
    | with_reducible apply OnlyRegs.ite
    | exact covReg (hR (by decide))
    | with_reducible apply setMem_only
    | with_reducible apply raise_only

theorem memCe_only {R : List RegSet} {s₀ : State} (region : Nat) (addr : Nat) (ch : Nat) (lane : Nat) (target : UeTarget) (s :
    State) (h₀ : OnlyRegs R s₀ s)
    (hR : [reg CTL_INT, reg CTL_RESTART_INFO, reg EGR_ALSEQ, reg EGR_INT, reg EGR_QINT, reg EGR_XF_STAT, reg LDG_INT, reg
      LDG_RD_STAT, reg MEM_INT, reg MEM_UE_ADDR_HI, reg MEM_UE_ADDR_LO, reg MKT_INT, reg MKT_RIB_RSTAT, reg MKT_RIB_SPAN, reg
      MKT_TW_STAT, reg MST_INT, reg NST_ISL_SUSP, reg NST_ISL_THR, reg NST_OSC_INT, reg NST_THR_FAST, reg NST_TOP_INT, reg PAK_INT,
      reg PAK_J_IN_DONE, reg PAK_J_OUT_LEN, reg PAK_J_STAT, regFam CTL_PC_STAT 4, regFam LDG_DROP 8, regFam PRT_INT 64, regFam
      PRT_TSQ_STAT 64, regRun MKT_RIB_OLD_LO 2] ⊆ R) : OnlyRegs R s₀ (memCe region addr ch lane target s) := by
  unfold memCe
  repeat' first
    | with_reducible assumption
    | exact List.Subset.trans (by decide) hR
    | with_reducible apply OnlyRegs.ite
    | exact covReg (hR (by decide))
    | with_reducible apply consequence_only
    | with_reducible apply laneCount_only
    | with_reducible apply noteUe_only
    | with_reducible apply raise_only
    | with_reducible apply unitCount_only
    | with_reducible apply count_only

theorem execMemCorrection_only {R : List RegSet} {s₀ : State} (region : Fin 15) (addr : BitVec 36) (ch : Fin 2) (lane : Fin 4) (target :
    UeTarget) (s : State) (h₀ : OnlyRegs R s₀ s)
    (hR : [reg CTL_INT, reg CTL_RESTART_INFO, reg EGR_ALSEQ, reg EGR_INT, reg EGR_QINT, reg EGR_XF_STAT, reg LDG_INT, reg
      LDG_RD_STAT, reg MEM_INT, reg MEM_UE_ADDR_HI, reg MEM_UE_ADDR_LO, reg MKT_INT, reg MKT_RIB_RSTAT, reg MKT_RIB_SPAN, reg
      MKT_TW_STAT, reg MST_INT, reg NST_ISL_SUSP, reg NST_ISL_THR, reg NST_OSC_INT, reg NST_THR_FAST, reg NST_TOP_INT, reg PAK_INT,
      reg PAK_J_IN_DONE, reg PAK_J_OUT_LEN, reg PAK_J_STAT, regFam CTL_PC_STAT 4, regFam LDG_DROP 8, regFam PRT_INT 64, regFam
      PRT_TSQ_STAT 64, regRun MKT_RIB_OLD_LO 2] ⊆ R) : AnswersOnly R s₀ (execMemCorrection region addr ch lane target s) := by
  unfold execMemCorrection
  with_reducible repeat' first
    | assumption
    | apply OnlyRegs.ite
    | apply AnswersOnly.inFull
    | apply AnswersOnly.powered
    | apply AnswersOnly.next
    | apply AnswersOnly.done
    | apply powered_only
    | apply memCe_only

theorem execMemSnapshot_only {R : List RegSet} {s₀ : State} (who : Req) (clr : Bool) (s : State) (h₀ : OnlyRegs R s₀ s)
    (hR : [reg CTL_INT, reg MEM_INT, reg MEM_SNAP_SEQ, regRun (MEM_CNT 0 0) 60] ⊆ R) : AnswersOnly R s₀ (execMemSnapshot who clr
      s) := by
  unfold execMemSnapshot
  repeat' first
    | with_reducible exact OnlyRegs.refl _
    | with_reducible assumption
    | exact List.Subset.trans (by decide) hR
    | (intro _; try dsimp only)
    | with_reducible apply AnswersOnly.inFull
    | with_reducible apply AnswersOnly.powered
    | with_reducible apply AnswersOnly.next
    | with_reducible apply AnswersOnly.done
    | exact covReg (hR (by decide))
    | refine snapshot_only _ 30 _ _ _ ?_ (covRun (hR (by decide))) ?_
    | with_reducible apply serve_only
    | with_reducible apply raise_only

theorem memUe_only {R : List RegSet} {s₀ : State} (region : Nat) (addr : Nat) (target : UeTarget) (s : State) (h₀ : OnlyRegs R s₀ s)
    (hR : [reg CTL_INT, reg CTL_RESTART_INFO, reg EGR_ALSEQ, reg EGR_INT, reg EGR_QINT, reg EGR_XF_STAT, reg LDG_INT, reg
      LDG_RD_STAT, reg MEM_INT, reg MEM_UE_ADDR_HI, reg MEM_UE_ADDR_LO, reg MKT_INT, reg MKT_RIB_RSTAT, reg MKT_RIB_SPAN, reg
      MKT_TW_STAT, reg MST_INT, reg NST_ISL_SUSP, reg NST_ISL_THR, reg NST_OSC_INT, reg NST_THR_FAST, reg NST_TOP_INT, reg PAK_INT,
      reg PAK_J_IN_DONE, reg PAK_J_OUT_LEN, reg PAK_J_STAT, regFam CTL_PC_STAT 4, regFam LDG_DROP 8, regFam PRT_INT 64, regFam
      PRT_TSQ_STAT 64, regRun MKT_RIB_OLD_LO 2] ⊆ R) : OnlyRegs R s₀ (memUe region addr target s) := by
  unfold memUe
  with_reducible repeat' first
    | assumption
    | exact List.Subset.trans (by decide) hR
    | apply OnlyRegs.ite
    | apply consequence_only
    | apply setMem_only
    | apply noteUe_only

theorem execMemUe_only {R : List RegSet} {s₀ : State} (region : Fin 15) (addr : BitVec 36) (target : UeTarget) (s : State) (h₀ :
    OnlyRegs R s₀ s)
    (hR : [reg CTL_INT, reg CTL_RESTART_INFO, reg EGR_ALSEQ, reg EGR_INT, reg EGR_QINT, reg EGR_XF_STAT, reg LDG_INT, reg
      LDG_RD_STAT, reg MEM_INT, reg MEM_UE_ADDR_HI, reg MEM_UE_ADDR_LO, reg MKT_INT, reg MKT_RIB_RSTAT, reg MKT_RIB_SPAN, reg
      MKT_TW_STAT, reg MST_INT, reg NST_ISL_SUSP, reg NST_ISL_THR, reg NST_OSC_INT, reg NST_THR_FAST, reg NST_TOP_INT, reg PAK_INT,
      reg PAK_J_IN_DONE, reg PAK_J_OUT_LEN, reg PAK_J_STAT, regFam CTL_PC_STAT 4, regFam LDG_DROP 8, regFam PRT_INT 64, regFam
      PRT_TSQ_STAT 64, regRun MKT_RIB_OLD_LO 2] ⊆ R) : AnswersOnly R s₀ (execMemUe region addr target s) := by
  unfold execMemUe
  with_reducible repeat' first
    | assumption
    | apply OnlyRegs.ite
    | apply AnswersOnly.inFull
    | apply AnswersOnly.powered
    | apply AnswersOnly.next
    | apply AnswersOnly.done
    | apply memUe_only

theorem patrolNext_only {R : List RegSet} {s₀ : State} (s : State) (h₀ : OnlyRegs R s₀ s)
    (hR : [reg CTL_INT, reg MEM_INT] ⊆ R) : OnlyRegs R s₀ (patrolNext s) := by
  unfold patrolNext
  repeat' first
    | with_reducible assumption
    | exact List.Subset.trans (by decide) hR
    | with_reducible apply OnlyRegs.ite
    | exact covReg (hR (by decide))
    | with_reducible apply setMem_only
    | with_reducible apply raise_only

theorem patrolRead_only {R : List RegSet} {s₀ : State} (region : Nat) (r : PatrolResult) (s : State) (h₀ : OnlyRegs R s₀ s)
    (hR : [reg CTL_INT, reg CTL_RESTART_INFO, reg EGR_ALSEQ, reg EGR_INT, reg EGR_QINT, reg EGR_XF_STAT, reg LDG_INT, reg
      LDG_RD_STAT, reg MEM_INT, reg MEM_UE_ADDR_HI, reg MEM_UE_ADDR_LO, reg MKT_INT, reg MKT_RIB_RSTAT, reg MKT_RIB_SPAN, reg
      MKT_TW_STAT, reg MST_INT, reg NST_ISL_SUSP, reg NST_ISL_THR, reg NST_OSC_INT, reg NST_THR_FAST, reg NST_TOP_INT, reg PAK_INT,
      reg PAK_J_IN_DONE, reg PAK_J_OUT_LEN, reg PAK_J_STAT, regFam CTL_PC_STAT 4, regFam LDG_DROP 8, regFam PRT_INT 64, regFam
      PRT_TSQ_STAT 64, regRun MKT_RIB_OLD_LO 2] ⊆ R) : OnlyRegs R s₀ (patrolRead region r s) := by
  unfold patrolRead
  try dsimp only
  with_reducible repeat' first
    | assumption
    | exact List.Subset.trans (by decide) hR
    | apply patrolNext_only
    | apply setMem_only
    | apply noteUe_only
    | apply memCe_only
    | apply OnlyRegs.foldlPoints
    | split

theorem execPatrolRead_only {R : List RegSet} {s₀ : State} (region : Fin 15) (r : PatrolResult) (s : State) (h₀ : OnlyRegs R s₀ s)
    (hR : [reg CTL_INT, reg CTL_RESTART_INFO, reg EGR_ALSEQ, reg EGR_INT, reg EGR_QINT, reg EGR_XF_STAT, reg LDG_INT, reg
      LDG_RD_STAT, reg MEM_INT, reg MEM_UE_ADDR_HI, reg MEM_UE_ADDR_LO, reg MKT_INT, reg MKT_RIB_RSTAT, reg MKT_RIB_SPAN, reg
      MKT_TW_STAT, reg MST_INT, reg NST_ISL_SUSP, reg NST_ISL_THR, reg NST_OSC_INT, reg NST_THR_FAST, reg NST_TOP_INT, reg PAK_INT,
      reg PAK_J_IN_DONE, reg PAK_J_OUT_LEN, reg PAK_J_STAT, regFam CTL_PC_STAT 4, regFam LDG_DROP 8, regFam PRT_INT 64, regFam
      PRT_TSQ_STAT 64, regRun MKT_RIB_OLD_LO 2] ⊆ R) : AnswersOnly R s₀ (execPatrolRead region r s) := by
  unfold execPatrolRead
  with_reducible repeat' first
    | assumption
    | apply OnlyRegs.ite
    | apply AnswersOnly.inFull
    | apply AnswersOnly.powered
    | apply AnswersOnly.next
    | apply AnswersOnly.done
    | apply inFull_only
    | apply patrolRead_only

theorem noteTemp_only {R : List RegSet} {s₀ : State} (temp : BitVec 16) (s : State) (h₀ : OnlyRegs R s₀ s)
    (hR : [reg PWR_DIE] ⊆ R) : OnlyRegs R s₀ (noteTemp temp s) := by
  unfold noteTemp
  repeat' first
    | with_reducible assumption
    | exact covReg (hR (by decide))
    | with_reducible apply setPower_only
    | with_reducible apply wr_only

theorem railAttempt_only {R : List RegSet} {s₀ : State} (fail : Option (Fin 8)) (s : State) (h₀ : OnlyRegs R s₀ s) :
    OnlyRegs R s₀ (railAttempt fail s) := h₀.pass (railAttempt_within (L := [.sentry, .boot, .power]) fail s (Within.refl s)
      (List.Subset.refl _)) (by decide)

theorem railLoad_only {R : List RegSet} {s₀ : State} (k : Nat) (s : State) (h₀ : OnlyRegs R s₀ s)
    (hR : [reg PWR_RAIL_I, reg PWR_RAIL_IDX, reg PWR_RAIL_V] ⊆ R) : OnlyRegs R s₀ (railLoad k s) := by
  unfold railLoad
  repeat' first
    | with_reducible assumption
    | exact List.Subset.trans (by decide) hR
    | exact covReg (hR (by decide))
    | with_reducible apply wrF_only
    | with_reducible apply wr_only

theorem execRailLoad_only {R : List RegSet} {s₀ : State} (who : Req) (rail : Fin 8) (s : State) (h₀ : OnlyRegs R s₀ s)
    (hR : [reg PWR_RAIL_I, reg PWR_RAIL_IDX, reg PWR_RAIL_V] ⊆ R) : AnswersOnly R s₀ (execRailLoad who rail s) := by
  unfold execRailLoad
  with_reducible repeat' first
    | exact OnlyRegs.refl _
    | assumption
    | exact List.Subset.trans (by decide) hR
    | (intro _; try dsimp only)
    | apply AnswersOnly.inFull
    | apply AnswersOnly.powered
    | apply AnswersOnly.next
    | apply AnswersOnly.done
    | apply railLoad_only
    | apply serve_only

theorem noteInput_only {R : List RegSet} {s₀ : State} (vin : Nat) (s : State) (h₀ : OnlyRegs R s₀ s) :
    OnlyRegs R s₀ (noteInput vin s) := h₀.pass (noteInput_within (L := [.power]) vin s (Within.refl s) (List.Subset.refl _)) (by
      decide)

theorem railMeasureAll_only {R : List RegSet} {s₀ : State} (k : Nat) (l : List (Nat × Nat)) (s : State) (h₀ : OnlyRegs R s₀ s)
    (hR : [reg CTL_INT, reg LDG_INT, reg PWR_INT, reg PWR_STATUS, regFam LDG_DROP 8] ⊆ R) : OnlyRegs R s₀ (railMeasureAll k l s) := by
  induction l generalizing k s with
  | nil => exact h₀
  | cons p r ih =>
    unfold railMeasureAll
    exact ih _ _ (OnlyRegs.ite (railMeasure_only _ _ _ _ h₀ hR) h₀)

theorem powerMeasure_only {R : List RegSet} {s₀ : State} (rails : List (Nat × Nat)) (vin : BitVec 16) (iin : BitVec 16) (pmw :
    Word) (vstore : BitVec 16) (s0 : State) (h₀ : OnlyRegs R s₀ s0)
    (hR : [reg (tillBase 0 + 0x14), reg (tillBase 1 + 0x14), reg CTL_INT, reg EGR_INT, reg EGR_QINT, reg LDG_INT, reg PWR_HU, reg
      PWR_IN, reg PWR_INT, reg PWR_PIN, reg PWR_STATUS, reg TIL_D_INT, reg TIL_INT, reg TIL_TAMPER, reg TIL_TAMPER_TICK_HI, reg
      TIL_TAMPER_TICK_LO, regFam LDG_DROP 8, regRun (tillBase 0 + 0x18) 4, regRun (tillBase 1 + 0x18) 4, regRun 0x70200 64, regRun
      0x70A00 64] ⊆ R) : OnlyRegs R s₀ (powerMeasure rails vin iin pmw vstore s0) := by
  unfold powerMeasure
  repeat' first
    | with_reducible assumption
    | exact List.Subset.trans (by decide) hR
    | with_reducible apply OnlyRegs.ite
    | exact covReg (hR (by decide))
    | with_reducible apply setPower_only
    | with_reducible apply noteInput_only
    | with_reducible apply tamper_only
    | with_reducible apply wrF_only
    | with_reducible apply holdupChange_only
    | with_reducible apply railMeasureAll_only
    | with_reducible apply wr_only

theorem execRailMeasure_only {R : List RegSet} {s₀ : State} (rails : List (Nat × Nat)) (vin : BitVec 16) (iin : BitVec 16) (pmw :
    Word) (vstore : BitVec 16) (s : State) (h₀ : OnlyRegs R s₀ s)
    (hR : [reg (tillBase 0 + 0x14), reg (tillBase 1 + 0x14), reg CTL_INT, reg EGR_INT, reg EGR_QINT, reg LDG_INT, reg PWR_HU, reg
      PWR_IN, reg PWR_INT, reg PWR_PIN, reg PWR_STATUS, reg TIL_D_INT, reg TIL_INT, reg TIL_TAMPER, reg TIL_TAMPER_TICK_HI, reg
      TIL_TAMPER_TICK_LO, regFam LDG_DROP 8, regRun (tillBase 0 + 0x18) 4, regRun (tillBase 1 + 0x18) 4, regRun 0x70200 64, regRun
      0x70A00 64] ⊆ R) : AnswersOnly R s₀ (execRailMeasure rails vin iin pmw vstore s) := by
  unfold execRailMeasure
  with_reducible repeat' first
    | assumption
    | apply AnswersOnly.inFull
    | apply AnswersOnly.powered
    | apply AnswersOnly.next
    | apply AnswersOnly.done
    | apply powerMeasure_only

theorem execPowerResumption_only {R : List RegSet} {s₀ : State} (version : Word) (s : State) (h₀ : OnlyRegs R s₀ s)
    (hR : [reg CTL_INT, reg CTL_RESTART_INFO, reg EGR_ALSEQ, reg EGR_INT, reg EGR_QINT, reg HST_FW_VER, reg HST_INT, reg LDG_INT,
      reg LDG_RD_STAT, reg MKT_INT, reg MKT_RIB_SPAN, reg MKT_TW_STAT, reg MST_INT, reg NST_ISL_SUSP, reg NST_ISL_THR, reg
      NST_OSC_INT, reg NST_SEED_STAT, reg NST_THR_FAST, reg NST_TOP_INT, reg PAK_INT, reg PWR_INT, reg SCL_CAL_PEND, reg
      SCL_CAL_STAT, reg SCL_EN_INT, reg SCL_EN_SAVE, reg SCL_EN_SAVE_STAT, reg SCL_EN_STATUS, reg SCL_STATUS, reg SHR_INT, regFam
      LDG_DROP 8, regFam MKT_CLS_BELL 8, regFam PRT_RX_HEAD 64, regFam PRT_RX_TAIL 64, regFam PT_STAT 8, regFam SCL_CH_FDLY 24,
      regFam SCL_CH_STAT 24, regRun (NST_SPLIT_W 0) 4, regRun MKT_RIB_OLD_LO 2] ⊆ R) : AnswersOnly R s₀ (execPowerResumption version s)
      := by
  unfold execPowerResumption
  with_reducible repeat' first
    | assumption
    | apply OnlyRegs.ite
    | apply AnswersOnly.inFull
    | apply AnswersOnly.powered
    | apply AnswersOnly.next
    | apply AnswersOnly.done
    | apply resume_only

theorem execStoreChargeDone_only {R : List RegSet} {s₀ : State} (cf : BitVec 16) (s : State) (h₀ : OnlyRegs R s₀ s)
    (hR : [reg CTL_INT, reg LDG_INT, reg PWR_HU, reg PWR_INT, reg PWR_STATUS, regFam LDG_DROP 8] ⊆ R) : AnswersOnly R s₀
      (execStoreChargeDone cf s) := by
  unfold execStoreChargeDone
  repeat' first
    | with_reducible assumption
    | exact List.Subset.trans (by decide) hR
    | with_reducible apply OnlyRegs.ite
    | with_reducible apply AnswersOnly.inFull
    | with_reducible apply AnswersOnly.powered
    | with_reducible apply AnswersOnly.next
    | with_reducible apply AnswersOnly.done
    | exact covReg (hR (by decide))
    | with_reducible apply holdupChange_only
    | with_reducible apply wr_only

theorem crystalTick_only {R : List RegSet} {s₀ : State} (s : State) (h₀ : OnlyRegs R s₀ s)
    (hR : [reg CAL_INT, reg CAL_REF_NS, reg CAL_STATUS, reg CAL_STG_DATE, reg CAL_STG_TIME, reg CTL_INT, regRun CAL_REF_SEC_LO 2,
      regRun CAL_REF_TICK_LO 2] ⊆ R) : OnlyRegs R s₀ (crystalTick s) := by
  unfold crystalTick
  with_reducible repeat' first
    | assumption
    | apply OnlyRegs.ite
    | apply setSentry_only
    | apply sentryTick_only

theorem cycleTick_only {R : List RegSet} {s₀ : State} (s : State) (h₀ : OnlyRegs R s₀ s) :
    OnlyRegs R s₀ (cycleTick s) := h₀.pass (cycleTick_within (L := [.mast]) s (Within.refl s) (List.Subset.refl _)) (by decide)

theorem pcTake_only {R : List RegSet} {s₀ : State} (c : PcCounter) (n : Nat) (s : State) (h₀ : OnlyRegs R s₀ s)
    (hR : [reg CTL_DP_STAT, reg CTL_INT, regFam CTL_PC_STAT 4, regFams (fun i => CTL_PC_CYC i 0) 4 2, regFams (fun i => CTL_PC_EV
      i 0) 4 16, regFams (fun i => CTL_PC_RET i 0) 4 2, regRun (CTL_DP_CNT 0) 64] ⊆ R) : OnlyRegs R s₀ (pcTake c n s) := by
  unfold pcTake
  with_reducible repeat' first
    | assumption
    | apply OnlyRegs.ite
    | apply pcAdd_only

theorem pcDataPath_only {R : List RegSet} {s₀ : State} (s : State) (h₀ : OnlyRegs R s₀ s)
    (hR : [reg CTL_DP_STAT, reg CTL_INT, regFam CTL_PC_STAT 4, regFams (fun i => CTL_PC_CYC i 0) 4 2, regFams (fun i => CTL_PC_EV
      i 0) 4 16, regFams (fun i => CTL_PC_RET i 0) 4 2, regRun (CTL_DP_CNT 0) 64] ⊆ R) : OnlyRegs R s₀ (pcDataPath s) := by
  unfold pcDataPath
  with_reducible repeat' first
    | exact OnlyRegs.refl _
    | assumption
    | (intro _; try dsimp only)
    | apply OnlyRegs.ite
    | apply pcTake_only
    | apply OnlyRegs.foldlPoints
    | apply OnlyRegs.foldl

theorem pcCore_only {R : List RegSet} {s₀ : State} (c : Fin 4) (s : State) (h₀ : OnlyRegs R s₀ s)
    (hR : [reg CTL_DP_STAT, reg CTL_INT, regFam CTL_PC_STAT 4, regFams (fun i => CTL_PC_CYC i 0) 4 2, regFams (fun i => CTL_PC_EV
      i 0) 4 16, regFams (fun i => CTL_PC_RET i 0) 4 2, regRun (CTL_DP_CNT 0) 64] ⊆ R) : OnlyRegs R s₀ (pcCore c s) := by
  unfold pcCore
  with_reducible repeat' first
    | exact OnlyRegs.refl _
    | assumption
    | (intro _; try dsimp only)
    | apply OnlyRegs.ite
    | apply pcAdd_only
    | apply pcTake_only
    | apply OnlyRegs.foldlPoints
    | apply OnlyRegs.foldl

theorem deckTick_only {R : List RegSet} {s₀ : State} (s : State) (h₀ : OnlyRegs R s₀ s)
    (hR : [reg CTL_DP_STAT, reg CTL_INT, regFam CTL_PC_STAT 4, regFams (fun i => CTL_PC_CYC i 0) 4 2, regFams (fun i => CTL_PC_EV
      i 0) 4 16, regFams (fun i => CTL_PC_RET i 0) 4 2, regRun (CTL_DP_CNT 0) 64] ⊆ R) : OnlyRegs R s₀ (deckTick s) := by
  unfold deckTick
  with_reducible repeat' first
    | assumption
    | (intro _; try dsimp only)
    | apply pcDataPath_only
    | apply pcCore_only
    | apply count_only
    | apply OnlyRegs.foldlPoints
    | (apply OnlyRegs.lit; first | exact OnlyRegs.refl _ | apply OnlyRegs.ite | apply pcDataPath_only | apply OnlyRegs.foldl)

theorem holdTickStep_only {R : List RegSet} {s₀ : State} (s : State) (h₀ : OnlyRegs R s₀ s) :
    OnlyRegs R s₀ (holdTickStep s) := h₀.pass (holdTickStep_within (L := [.mast]) s (Within.refl s) (List.Subset.refl _)) (by decide)

theorem hoursTick_only {R : List RegSet} {s₀ : State} (s : State) (h₀ : OnlyRegs R s₀ s) :
    OnlyRegs R s₀ (hoursTick s) := h₀.pass (hoursTick_within (L := [.ledger]) s (Within.refl s) (List.Subset.refl _)) (by decide)

theorem taiTick_only {R : List RegSet} {s₀ : State} (s : State) (h₀ : OnlyRegs R s₀ s) :
    OnlyRegs R s₀ (taiTick s) := h₀.pass (taiTick_within (L := [.ticks, .tai, .scales]) s (Within.refl s) (List.Subset.refl _))
      (by decide)

theorem monoTick_only {R : List RegSet} {s₀ : State} (s : State) (h₀ : OnlyRegs R s₀ s) :
    OnlyRegs R s₀ (monoTick s) := h₀.pass (monoTick_within (L := [.live, .pair]) s (Within.refl s) (List.Subset.refl _)) (by decide)

theorem tick_only {R : List RegSet} {s₀ : State} (s : State) (h₀ : OnlyRegs R s₀ s)
    (hR : [reg CAL_INT, reg CAL_REF_NS, reg CAL_STATUS, reg CAL_STG_DATE, reg CAL_STG_TIME, reg CTL_DP_STAT, reg CTL_INT, regFam
      CTL_PC_STAT 4, regFams (fun i => CTL_PC_CYC i 0) 4 2, regFams (fun i => CTL_PC_EV i 0) 4 16, regFams (fun i => CTL_PC_RET i 0)
      4 2, regRun (CTL_DP_CNT 0) 64, regRun CAL_REF_SEC_LO 2, regRun CAL_REF_TICK_LO 2] ⊆ R) : OnlyRegs R s₀ (tick s) := by
  unfold tick
  with_reducible repeat' first
    | assumption
    | exact List.Subset.trans (by decide) hR
    | apply OnlyRegs.ite
    | apply holdTickStep_only
    | apply hoursTick_only
    | apply crystalTick_only
    | apply taiTick_only
    | apply monoTick_only
    | apply deckTick_only
    | apply cycleTick_only

theorem idle_only {R : List RegSet} {s₀ : State} (run : Instr → State → State) (s : State) (h_run : ∀ (x0 : Instr) (u : State),
    OnlyRegs R u (run x0 u)) (h₀ : OnlyRegs R s₀ s)
    (hR : [reg CAL_INT, reg CAL_REF_NS, reg CAL_STATUS, reg CAL_STG_DATE, reg CAL_STG_TIME, reg CTL_DP_STAT, reg CTL_INT, regFam
      CTL_PC_STAT 4, regFams (fun i => CTL_PC_CYC i 0) 4 2, regFams (fun i => CTL_PC_EV i 0) 4 16, regFams (fun i => CTL_PC_RET i 0)
      4 2, regRun (CTL_DP_CNT 0) 64, regRun CAL_REF_SEC_LO 2, regRun CAL_REF_TICK_LO 2] ⊆ R) : OnlyRegs R s₀ (idle run s) := by
  unfold idle
  with_reducible repeat' first
    | assumption
    | exact List.Subset.trans (by decide) hR
    | apply OnlyRegs.app h_run
    | apply h_run
    | apply hostRetry_only
    | apply tick_only

end Sys2Proof.Machine
end

