-- ==== Sys2Proof/Laws/Facts.lean ====
section
/-!
SUPPORT. Facts about the shared operations that statements about several commands rest on: what a register, a counter or a part reads
after them.
-/

namespace Sys2Proof.Machine

open Sys2Proof

set_option Elab.async false
set_option linter.all false

theorem Within.of {L : List Part} {s t : State} (h : Within L s t) (p : Part) (hp : p ∉ L := by decide) : p.same s t := h.same p hp

theorem rd_of_regs {s t : State} (h : t.regs = s.regs) (a : Nat) : rd t a = rd s a := by unfold rd; rw [h]

theorem tables_of_eq {s t : State} (h : TablesWf s) (h1 : t.regs = s.regs) (h2 : t.live = s.live) : TablesWf t := by
  unfold TablesWf at *
  rw [h1, h2]
  exact h

theorem wr_tables {a : Nat} {v : Word} {s : State} (h : TablesWf s) : TablesWf (wr a v s) := (wr_keeps a v s (Keeps.refl s)).tables h

theorem count_tables {a n : Nat} {s : State} (h : TablesWf s) : TablesWf (count a n s) := (count_keeps a n s (Keeps.refl s)).tables h

theorem raise_tables {a n : Nat} {s : State} (h : TablesWf s) : TablesWf (raise a n s) := (raise_keeps a n s (Keeps.refl s)).tables h

theorem setInt_tables {a n : Nat} {s : State} (h : TablesWf s) : TablesWf (setInt a n s) :=
  (setInt_keeps a n s (Keeps.refl s)).tables h

theorem logEvent_tables {a b c : Nat} {k d} {s : State} (h : TablesWf s) : TablesWf (logEvent a b c k d s) :=
  (logEvent_keeps a b c k d s (Keeps.refl s)).tables h

theorem serve_regs_host (who : Req) (s : State) : (accessed who s).regs = s.regs := by cases who <;> rfl

theorem exec_served_eq {c : Instr} {who : Req} {ofs : Nat} {f : State → State} {s t : State} (h : Served who ofs s) (hx : exec c s
    = .next (serve c who ofs f s)) (e : f (accessed who s) = t) : exec c s = .next t := by
  rw [hx, serve_served c who ofs f s h, e]

theorem applyCommit_tai (n : Nat) (s : State) : (applyCommit n s).tai = taiWrap n := by
  have hw : ∀ w : State, w.tai = taiWrap n → (if s.tai < n then fireSkipped w else w).tai = taiWrap n := by
    intro w hw
    split
    · exact ((fireSkipped_within _ (Within.refl w) (List.Subset.refl _)).of .tai).trans hw
    · exact hw
  have hb : ∀ b : State, b.tai = taiWrap n → (if (raise MST_INT 0 b).mast.st = .held then mastTo .holdover (raise MST_INT 0 b) else raise MST_INT 0 b).tai = taiWrap n := by
    intro b hb
    have hv : (raise MST_INT 0 b).tai = taiWrap n := (raise_tai _ _ _).trans hb
    split
    · exact ((mastTo_within _ _ (Within.refl (raise MST_INT 0 b)) (List.Subset.refl _)).of .tai).trans hv
    · exact hv
  unfold applyCommit
  apply hw
  apply hb
  have hc : ∀ w : State, (capStep w).tai = w.tai := fun w => (capStep_within w (Within.refl w) (List.Subset.refl _)).of .tai
  have ht := (hc _).trans ((scalesStep_within s.tai (taiWrap n) _ (Within.refl { s with tai := taiWrap n, mast := { s.mast with accept := false } }) (List.Subset.refl _)).of .tai)
  split <;> exact ht

theorem refuseCommit_tai (s : State) : (refuseCommit s).tai = s.tai :=
  (refuseCommit_within s (Within.refl s) (List.Subset.refl _)).of .tai

theorem live_count_self {a n : Nat} {s : State} (h : TablesWf s) : liveCnt (count a n s) a = (liveCnt s a + n) % 2 ^ 64 :=
  liveCnt_count_same a n s h

theorem live_count_other {a b n : Nat} {s : State} (h : b ≠ a) : liveCnt (count a n s) b = liveCnt s b := liveCnt_count_ne a b n s h

theorem live_of_eq {s t : State} (h : t.live = s.live) (a : Nat) : liveCnt t a = liveCnt s a := by unfold liveCnt; rw [h]

theorem leaveLpi_lc (p k : Nat) (s : State) (hk : k ≠ cTX_LPI_US) : liveCnt (leaveTxLpi p s) (PRT_STAT p (2 * k)) = liveCnt s
    (PRT_STAT p (2 * k)) := by
  unfold leaveTxLpi portCount
  dsimp only
  split
  · rw [live_count_other (by simp only [PRT_STAT]; unfold cTX_LPI_US at *; omega)]
    rfl
  · rfl

theorem bufReach_lc (p b k : Nat) (s : State) (hk : k ≠ cTX_PFC_FRAMES) (hl : k ≠ cTX_LPI_US := by
  decide) : liveCnt (bufReach p b s) (PRT_STAT p (2 * k)) = liveCnt s (PRT_STAT p (2 * k)) := by
  unfold bufReach sendPfc sendPfcWith portCount
  dsimp only
  split
  · rw [live_count_other (by simp only [PRT_STAT]; unfold cTX_PFC_FRAMES at *; omega)]
    exact leaveLpi_lc p k _ hl
  · rfl

theorem rdB_raise_self {a k : Nat} {s : State} (hs : TablesWf s) (hc : a ≠ CTL_INT) (hk : k < 32) : rdB (raise a k s) a k = true := by
  rw [rdB_raise _ _ _ _ hs hc hk]; simp

theorem exec_powered_eq {c : Instr} {s t u : State} (h : s.power.st ≠ .furled) (hx : exec c s = powered s t) (e : t = u) : exec c
    s = .next u := by
  rw [hx, powered_on _ _ h, e]

theorem exec_full_eq {c : Instr} {s t u : State} (h : s.power.st = .fullSail) (hx : exec c s = inFull s t) (e : t = u) : exec c s
    = .next u := by
  rw [hx, inFull_full _ _ h, e]

theorem rdF_wrF_self {a lo n v : Nat} {s : State} (hs : TablesWf s) (h : lo + n ≤ 32 := by
  decide) (hv : v < 2 ^ n := by decide) : rdF (wrF a lo n v s) a lo n = v := by
  unfold rdF wrF; rw [rd_wr_same _ _ _ hs, field_withField _ _ _ _ h, Nat.mod_eq_of_lt hv]

theorem rdF_raise_other {a b k lo n : Nat} {s : State} (h1 : b ≠ a := by
  decide) (h2 : b ≠ CTL_INT := by decide) : rdF (raise a k s) b lo n = rdF s b lo n := by
  unfold rdF; rw [rd_raise_ne _ _ _ _ h1 h2]

theorem rdB_raise_other {a b k j : Nat} {s : State} (h1 : b ≠ a := by
  decide) (h2 : b ≠ CTL_INT := by decide) : rdB (raise a k s) b j = rdB s b j := by
  unfold rdB; rw [rd_raise_ne _ _ _ _ h1 h2]

theorem rdF_wrF_other {a b lo n v lo' n' : Nat} {s : State} (h1 : b ≠ a := by
  decide) : rdF (wrF a lo n v s) b lo' n' = rdF s b lo' n' := by
  unfold rdF wrF; rw [rd_wr_ne _ _ _ _ h1]

theorem rdB_wrF_other {a b lo n v j : Nat} {s : State} (h1 : b ≠ a := by decide) : rdB (wrF a lo n v s) b j = rdB s b j := by
  unfold rdB wrF; rw [rd_wr_ne _ _ _ _ h1]

theorem rdB_wr_other {a b j : Nat} {v : Word} {s : State} (h1 : b ≠ a := by decide) : rdB (wr a v s) b j = rdB s b j := by
  unfold rdB; rw [rd_wr_ne _ _ _ _ h1]

theorem rdF_wr_other {a b lo n : Nat} {v : Word} {s : State} (h1 : b ≠ a := by decide) : rdF (wr a v s) b lo n = rdF s b lo n := by
  unfold rdF; rw [rd_wr_ne _ _ _ _ h1]

theorem rdB_setStat_self {a k : Nat} {b : Bool} {s : State} (hs : TablesWf s) (h : k < 32 := by
  decide) : rdB (setStat a k b s) a k = b := by
  unfold rdB setStat; rw [rd_wr_same _ _ _ hs, bitAt_withBool _ _ _ h]

theorem rdB_setStat_bit {a k j : Nat} {b : Bool} {s : State} (hs : TablesWf s) (h : k < 32 := by
  decide) (hj : j ≠ k := by decide) : rdB (setStat a k b s) a j = rdB s a j := by
  unfold rdB setStat; rw [rd_wr_same _ _ _ hs, bitAt_withBool_ne _ _ _ _ h hj]

theorem rdB_setStat_other {a c k j : Nat} {b : Bool} {s : State} (h1 : c ≠ a := by
  decide) : rdB (setStat a k b s) c j = rdB s c j := by
  unfold rdB setStat; rw [rd_wr_ne _ _ _ _ h1]

theorem rd_logEvent_low {src code sev b : Nat} {key : Word} {data : List Word} {s : State} (h1 : b ≠ CTL_INT := by
  decide) (h2 : b < 0x68000 := by decide) : rd (logEvent src code sev key data s) b = rd s b :=
  rd_logEvent src code sev b key data s h1 (by unfold LDG_INT; omega) (by intro v; unfold LDG_DROP; omega)

theorem rdB_logEvent_low {src code sev b j : Nat} {key : Word} {data : List Word} {s : State} (h1 : b ≠ CTL_INT := by
  decide) (h2 : b < 0x68000 := by decide) : rdB (logEvent src code sev key data s) b j = rdB s b j := by
  unfold rdB; rw [rd_logEvent_low h1 h2]

theorem rdF_logEvent_low {src code sev b lo n : Nat} {key : Word} {data : List Word} {s : State} (h1 : b ≠ CTL_INT := by
  decide) (h2 : b < 0x68000 := by decide) : rdF (logEvent src code sev key data s) b lo n = rdF s b lo n := by
  unfold rdF; rw [rd_logEvent_low h1 h2]

theorem accessed_windows (who : Req) (s : State) : (accessed who s).host.windows = s.host.windows := by cases who <;> rfl

theorem window_accessed (who : Req) (s : State) (k : Nat) : window (accessed who s) k = window s k := by
  unfold window
  rw [accessed_windows]

theorem endWindow_open (w : Win) (why : Nat) (s : State) (h : (window s (winIdx w)).ended = false) :
    (endWindow w why s).host.windows = tset {} s.host.windows (winIdx w) { window s (winIdx w) with words := [], ended := true, why := why, cutAt := if why = whyABORTED then some s.ticks else none } := by
  unfold endWindow; dsimp only; rw [if_neg (by rw [h]; decide)]; rfl

theorem rd_wrWords_word {b : Nat} {ws : List Word} {s : State} (i : Nat) (hs : TablesWf s) (h : i < ws.length) : rd (wrWords b ws
    s) (b + 4 * i) = ws.getD i 0#32 :=
  rd_wrWords_in b ws s i hs h

theorem rdB_raise_snapshot {a k base n seq : Nat} {clr : Bool} {s : State} (hs : TablesWf s) (hc : a ≠ CTL_INT := by
  decide) (hk : k < 32 := by decide) : rdB (raise a k (snapshot base n seq clr s)) a k = true :=
  rdB_raise_self ((snapshot_keeps base n seq clr _ (Keeps.refl s)).tables hs) hc hk

theorem rdB_setInt_self {a k : Nat} {s : State} (hs : TablesWf s) (hk : k < 32 := by decide) : rdB (setInt a k s) a k = true := by
  unfold rdB; rw [rd_setInt_same _ _ _ hs, bitAt_withBit _ _ _ hk]; simp

theorem rdB_setInt_other {a k b j : Nat} {s : State} (h : b ≠ a := by decide) : rdB (setInt a k s) b j = rdB s b j := by
  unfold rdB; rw [rd_setInt_ne _ _ _ _ h]

theorem nodeEdge_pair (s t : State) : (nodeEdge s t).pair = t.pair :=
  (nodeEdge_within s t (Within.refl t) (List.Subset.refl _)).of .pair

theorem pairRecord_pair (a b c : Nat) (d : List Word) (s : State) : (pairRecord a b c d s).pair = s.pair := logEvent_pair _ _ _ _ _ _

theorem setRole_pair (r : Role) (s : State) : (setRole r s).pair = { s.pair with role := r } := by
  unfold setRole
  split
  · rename_i h; rw [← h]
  · rw [nodeEdge_pair, raise_pair, pairRecord_pair]; rfl

theorem lowestBelow_lt (sev : Nat) (l : List LRec) (v : Nat) (h : lowestBelow sev l = some v) : v < sev :=
  List.mem_range.mp (List.mem_of_find?_eq_some h)

theorem rd_record {src code sev b : Nat} {key : Word} {data : List Word} {s : State} (hs : sev < 8 := by
  decide) (h : 0x70000 ≤ b := by decide) : rd (logEvent src code sev key data s) b = rd s b := by
  have hc : b ≠ CTL_INT := by unfold CTL_INT; omega
  have hi : b ≠ LDG_INT := by unfold LDG_INT; omega
  have hd : ∀ v, v < 8 → b ≠ LDG_DROP v := by intro v hv; unfold LDG_DROP; omega
  unfold logEvent
  dsimp only
  split
  · rfl
  · split
    · rfl
    · split
      · exact rd_countDrop _ _ _ hc hi (hd _ hs)
      · rename_i hv
        exact rd_countDrop _ _ _ hc hi (hd _ (by have := lowestBelow_lt _ _ _ hv; omega))

theorem rd_setRole (r : Role) (s : State) (b : Nat) (h : 0x70000 ≤ b := by
  decide) (h1 : b ≠ SHR_INT := by decide) : rd (setRole r s) b = rd s b := by
  have hc : b ≠ CTL_INT := by unfold CTL_INT; omega
  unfold setRole
  split
  · rfl
  · rw [rd_nodeEdge _ _ _ (by unfold EGR_INT; omega) (by unfold EGR_QINT; omega) hc, rd_raise_ne _ _ _ _ h1 hc]
    exact rd_record (by decide) h

def LinksOnly (s t : State) : Prop :=
  t.regs = s.regs ∧ t.live = s.live ∧ t.power = s.power ∧ t.deck = s.deck ∧ t.nodeOk = s.nodeOk ∧ t.mast = s.mast ∧ t.nest = s.nest ∧ ∃ L, t.pair = { s.pair with links := L }

theorem LinksOnly.refl (s : State) : LinksOnly s s := ⟨rfl, rfl, rfl, rfl, rfl, rfl, rfl, s.pair.links, rfl⟩

theorem LinksOnly.trans {s t u : State} (h : LinksOnly s t) (k : LinksOnly t u) : LinksOnly s u := by
  obtain ⟨a, b, c, d, e, f, g, L, hL⟩ := h
  obtain ⟨a', b', c', d', e', f', g', L', hL'⟩ := k
  exact ⟨a'.trans a, b'.trans b, c'.trans c, d'.trans d, e'.trans e, f'.trans f, g'.trans g, L', by rw [hL', hL]⟩

theorem linksOnly_setShroud (l : Nat) (x : Shroud) (s : State) : LinksOnly s (setShroud l x s) :=
  ⟨rfl, rfl, rfl, rfl, rfl, rfl, rfl, _, rfl⟩

theorem linksOnly_shroudOut (l y : Nat) (ws : List Word) (s : State) : LinksOnly s (shroudOut l y ws s) :=
  ⟨rfl, rfl, rfl, rfl, rfl, rfl, rfl, _, rfl⟩

theorem linksOnly_drainWaits (l : Nat) (ws : List (Nat × List Word)) (s : State) : LinksOnly s (drainWaits l ws s) := by
  induction ws generalizing s with
  | nil => exact .refl s
  | cons w r ih =>
    unfold drainWaits
    split
    · exact ((linksOnly_setShroud _ _ _).trans (linksOnly_shroudOut _ _ _ _)).trans (ih _)
    · exact .refl s

theorem linksOnly_creditsBack (l n : Nat) (s : State) : LinksOnly s (creditsBack l n s) :=
  (linksOnly_setShroud _ _ _).trans (linksOnly_drainWaits _ _ _)

theorem linksOnly_shroudSend (l y : Nat) (ws : List Word) (s : State) : LinksOnly s (shroudSend l y ws s) := by
  unfold shroudSend
  dsimp only
  repeat' split
  · exact .refl s
  · exact linksOnly_shroudOut _ _ _ _
  · exact linksOnly_setShroud _ _ _

theorem linksOnly_bulkSend (y : Nat) (ws : List Word) (s : State) : LinksOnly s (bulkSend y ws s) := linksOnly_shroudSend _ _ _ _

theorem linksOnly_creditSend (l : Nat) (s : State) : LinksOnly s (creditSend l s) := by
  unfold creditSend
  split
  · exact .refl s
  · exact linksOnly_shroudSend _ _ _ _

theorem LinksOnly.rd {s t : State} (h : LinksOnly s t) (a : Nat) : rd t a = rd s a := rd_of_regs h.1 a

theorem LinksOnly.tables {s t : State} (h : LinksOnly s t) (hw : TablesWf s) : TablesWf t := tables_of_eq hw h.1 h.2.1
/-- What a kept frame does. -/
theorem shroudRx_kept (l : Fin 2) (h : ShroudHdr) (bulk : Bool) (f : State → State) (s : State) (h1 : isPair s = true)
    (h2 : (shroud s l.val).up = true) (h3 : h.parityOk = true) (h4 : h.crcOk = true) (h5 : h.pairId.toNat = pairId s) :
    ∃ u, LinksOnly s u ∧ LinksOnly (f u) (shroudRx l h bulk f s) := by
  refine ⟨creditsBack l.val h.credits.toNat (setShroud l.val { shroud s l.val with owed := (shroud s l.val).owed + creditsOf h.len.toNat } s), (linksOnly_setShroud _ _ _).trans (linksOnly_creditsBack _ _ _), ?_⟩
  unfold shroudRx
  dsimp only
  rw [if_neg (by rw [h1, h2]; decide), if_pos ⟨h3, h4, h5⟩]
  split
  · exact linksOnly_creditSend _ _
  · exact .refl _

theorem becomeActive_pair (s : State) : (becomeActive s).pair =
    { s.pair with confirm := false, wants := false, askedAt := none, releaseAt := none, role := .active } := by
  unfold becomeActive; rw [setRole_pair]; rfl

theorem becomeActive_lease (s : State) : (becomeActive s).pair.lease = s.pair.lease := by rw [becomeActive_pair]

theorem becomeActive_role (s : State) : (becomeActive s).pair.role = .active := by rw [becomeActive_pair]

theorem becomeActive_clerkLost (s : State) : (becomeActive s).pair.clerkLost = s.pair.clerkLost := by rw [becomeActive_pair]

theorem leaseSet_cases (dl : Nat) (s : State) : leaseSet dl s = raise SHR_INT 5 s ∨ leaseSet dl s = becomeActive (setPair (fun p
    => { p with lease := true }) (wr SHR_LEASE_DL (wordOf dl) s)) ∨ leaseSet dl s = setPair (fun p => { p with lease := true }) (wr
    SHR_LEASE_DL (wordOf dl) s) := by
  unfold leaseSet
  dsimp only
  split
  · exact Or.inl rfl
  · split
    · exact Or.inr (Or.inl rfl)
    · exact Or.inr (Or.inr rfl)

theorem leaseSet_lost (dl : Nat) (s : State) : (leaseSet dl s).pair.clerkLost = s.pair.clerkLost := by
  rcases leaseSet_cases dl s with h | h | h
  · rw [h, raise_pair]
  · rw [h, becomeActive_clerkLost]; rfl
  · rw [h]; rfl

theorem takeLease_lost (m : ClerkMsg) (ts : Nat) (s : State) : (takeLease m ts s).pair.clerkLost = s.pair.clerkLost :=
  leaseSet_lost _ _

theorem rd_becomeActive (s : State) (b : Nat) (h : 0x70000 ≤ b := by
  decide) (h1 : b ≠ SHR_INT := by decide) : rd (becomeActive s) b = rd s b := by
  unfold becomeActive; rw [rd_setRole _ _ _ h h1]; rfl

theorem takeLease_alive (m : ClerkMsg) (ts mo : Nat) (s : State) (hw : TablesWf s) (hm : s.pair.mono = mo)
    (h : 2 ^ 31 ≤ ((ts + 290000) % 2 ^ 32 + 2 ^ 32 - mo % 2 ^ 32) % 2 ^ 32 ∨ ((ts + 290000) % 2 ^ 32 + 2 ^ 32 - mo % 2 ^ 32) % 2 ^ 32 ≤ 300000) :
    rd (takeLease m ts s) SHR_LEASE_DL = wordOf (ts + 290000) ∧ rd (takeLease m ts s) SHR_LEASE_EPOCH = m.epoch ∧ (takeLease m ts s).pair.lease = true := by
  unfold takeLease leaseSet
  dsimp only
  have hm' : (wr SHR_LEASE_EPOCH m.epoch s).pair.mono = mo := hm
  rw [if_neg (by rw [hm']; omega)]
  have hz : wordOf ((ts + 290000) % 2 ^ 32) = wordOf (ts + 290000) := by
    apply BitVec.eq_of_toNat_eq; simp [wordOf]
  rw [hz]
  have hr : rd (setPair (fun p => { p with lease := true }) (wr SHR_LEASE_DL (wordOf (ts + 290000)) (wr SHR_LEASE_EPOCH m.epoch s))) SHR_LEASE_DL = wordOf (ts + 290000) := rd_wr_same _ _ _ (wr_tables hw)
  have he : rd (setPair (fun p => { p with lease := true }) (wr SHR_LEASE_DL (wordOf (ts + 290000)) (wr SHR_LEASE_EPOCH m.epoch s))) SHR_LEASE_EPOCH = m.epoch := (rd_wr_ne _ _ _ _ (by decide)).trans (rd_wr_same _ _ _ hw)
  have hl : (setPair (fun p => { p with lease := true }) (wr SHR_LEASE_DL (wordOf (ts + 290000)) (wr SHR_LEASE_EPOCH m.epoch s))).pair.lease = true := rfl
  generalize setPair (fun p => { p with lease := true }) (wr SHR_LEASE_DL (wordOf (ts + 290000)) (wr SHR_LEASE_EPOCH m.epoch s)) = u at *
  split
  · exact ⟨(rd_becomeActive _ _).trans hr, (rd_becomeActive _ _).trans he, by rw [becomeActive_pair]; exact hl⟩
  · exact ⟨hr, he, hl⟩

theorem pubAll_pair (s : State) : (pubAll s).pair = s.pair := (pubAll_within s (Within.refl s) (List.Subset.refl _)).of .pair

theorem rd_pubAll (s : State) (b : Nat) (h : 0x70000 ≤ b := by decide) : rd (pubAll s) b = rd s b := by
  unfold pubAll
  split
  · exact foldl_keep (fun u => rd u b) _ _ _ (fun u x => rd_pubNew _ _ _ _ (by unfold EGR_INT; omega) (by unfold EGR_QINT; omega) (by unfold CTL_INT; omega))
  · rfl
/-- What an accepted reply does. -/
theorem reply_served (m : ClerkMsg) (f : Nat → State → State) (x : Nat × Nat) (s : State) (h1 : isPair s = true) (h2 : s.deck.st =
    .run)
    (h3 : s.pair.sent.find? (fun x => decide (x.1 = m.nodeSeq.toNat)) = some x) (h4 : m.macOk = true) (h5 : m.pairId.toNat = pairId s)
    (h6 : m.nodeId.val = nodeId s) : clerkReply m f s = f x.2 { s with pair := { s.pair with clerkLost := false, askedAt := none, replyAt := s.ticks } } := by
  unfold clerkReply
  rw [if_neg (by rw [h1]; unfold fwUp; rw [h2]; decide), h3]
  dsimp only
  rw [if_pos ⟨h4, h5, h6⟩]
  rfl

theorem tget_tset_value {α : Type} [DecidableEq α] (d : α) (m : NMap α) (a : Nat) (v : α) (h : v ≠ d) : tget d (tset d m a v) a =
    v := by
  unfold tget tset
  induction m with
  | nil => unfold mapSet; rw [if_neg h]; simp [mapGet]
  | cons p m ih =>
    obtain ⟨k, w⟩ := p
    unfold mapSet
    split
    · simp [mapGet]
    · split
      · simp [mapGet]
      · unfold mapGet
        rw [if_neg (by omega)]
        exact ih

theorem shroud_setShroud (l : Nat) (x : Shroud) (s : State) (h : x.up = true) : shroud (setShroud l x s) l = x :=
  tget_tset_value _ _ _ _ (by intro e; rw [e] at h; cases h)

theorem dualActive_cases (hb : Heartbeat) (s : State) : dualActive hb s = s ∨ dualActive hb s = raise SHR_INT 8 (pairRecord 4 7 0
    [] (setRole .standby (setPair (fun p => { p with lease := false }) s))) := by
  unfold dualActive
  split
  · exact Or.inr rfl
  · exact Or.inl rfl

theorem confirmLease_cases (hb : Heartbeat) (s : State) : confirmLease hb s = s ∨ ∃ v, confirmLease hb s = wr SHR_LEASE_DL v s := by
  unfold confirmLease
  dsimp only
  split
  · split
    · exact Or.inl rfl
    · split
      · exact Or.inr ⟨_, rfl⟩
      · exact Or.inl rfl
  · exact Or.inl rfl

theorem hbTriggers_regs (a b : Word) (s : State) : (hbTriggers a b s).regs = s.regs :=
  (hbTriggers_within a b s (Within.refl s) (List.Subset.refl _)).of .regs

theorem rd_dualActive (hb : Heartbeat) (s : State) (b : Nat) (h : 0x70000 ≤ b := by
  decide) (h1 : b ≠ SHR_INT := by decide) : rd (dualActive hb s) b = rd s b := by
  rcases dualActive_cases hb s with e | e <;> rw [e]
  rw [rd_raise_ne _ _ _ _ h1 (by unfold CTL_INT; omega)]
  exact (rd_record (by decide) h).trans ((rd_setRole _ _ _ h h1).trans rfl)

theorem rd_confirmLease (hb : Heartbeat) (s : State) (b : Nat) (h : b ≠ SHR_LEASE_DL := by
  decide) : rd (confirmLease hb s) b = rd s b := by
  rcases confirmLease_cases hb s with e | ⟨v, e⟩ <;> rw [e]
  exact rd_wr_ne _ _ _ _ h

theorem confirmLease_pair (hb : Heartbeat) (s : State) : (confirmLease hb s).pair = s.pair := by
  rcases confirmLease_cases hb s with e | ⟨v, e⟩ <;> rw [e]
  rfl

theorem hbTriggers_pair (a b : Word) (s : State) : (hbTriggers a b s).pair.peerSeen = s.pair.peerSeen ∧ (hbTriggers a b
    s).pair.role = s.pair.role ∧ (hbTriggers a b s).pair.lease = s.pair.lease := by
  unfold hbTriggers
  dsimp only
  repeat' split
  all_goals exact ⟨rfl, rfl, rfl⟩

theorem dualActive_peerSeen (hb : Heartbeat) (s : State) : (dualActive hb s).pair.peerSeen = s.pair.peerSeen := by
  rcases dualActive_cases hb s with e | e <;> rw [e]
  rw [raise_pair, pairRecord_pair, setRole_pair]; rfl

theorem peerSeen_cases (s : State) : (peerSeen s = s ∧ s.pair.peerSeen = true) ∨ ∃ u, (u = setPair (fun p =>
    { p with peerSeen := true, peerOnce := true, peerOut := false }) s ∨ u = raise SHR_INT 2 (setPair (fun p =>
    { p with peerSeen := true, peerOnce := true, peerOut := false }) s)) ∧ (peerSeen s = u ∨ peerSeen s = bulkSend shRESYNC_REQ [] u)
    := by
  unfold peerSeen
  split
  · rename_i h; exact Or.inl ⟨rfl, h⟩
  · dsimp only
    refine Or.inr ⟨if s.pair.peerOnce = true then raise SHR_INT 2 (setPair (fun p => { p with peerSeen := true, peerOnce := true, peerOut := false }) s) else setPair (fun p => { p with peerSeen := true, peerOnce := true, peerOut := false }) s, ?_, ?_⟩
    · split
      · exact Or.inr rfl
      · exact Or.inl rfl
    · generalize (if s.pair.peerOnce = true then raise SHR_INT 2 (setPair (fun p => { p with peerSeen := true, peerOnce := true, peerOut := false }) s) else setPair (fun p => { p with peerSeen := true, peerOnce := true, peerOut := false }) s) = u
      split
      · exact Or.inr rfl
      · exact Or.inl rfl

theorem peerSeen_pair (s : State) : (peerSeen s).pair.peerSeen = true ∧ (peerSeen s).pair.role = s.pair.role ∧ (peerSeen
    s).pair.lease = s.pair.lease := by
  rcases peerSeen_cases s with ⟨e, h⟩ | ⟨u, hu, e⟩
  · rw [e]; exact ⟨h, rfl, rfl⟩
  · have hup : u.pair.peerSeen = true ∧ u.pair.role = s.pair.role ∧ u.pair.lease = s.pair.lease := by
      rcases hu with rfl | rfl
      · exact ⟨rfl, rfl, rfl⟩
      · rw [raise_pair]; exact ⟨rfl, rfl, rfl⟩
    rcases e with e | e <;> rw [e]
    · exact hup
    · obtain ⟨_, _, _, _, _, _, _, L, hL⟩ := linksOnly_bulkSend shRESYNC_REQ [] u
      rw [hL]; exact hup

theorem rd_peerSeen (s : State) (b : Nat) (h : b ≠ CTL_INT := by
  decide) (h1 : b ≠ SHR_INT := by decide) : rd (peerSeen s) b = rd s b := by
  rcases peerSeen_cases s with ⟨e, _⟩ | ⟨u, hu, e⟩
  · rw [e]
  · have hup : rd u b = rd s b := by
      rcases hu with rfl | rfl
      · rfl
      · rw [rd_raise_ne _ _ _ _ h1 h]; rfl
    rcases e with e | e <;> rw [e]
    · exact hup
    · rw [(linksOnly_bulkSend _ _ _).rd]; exact hup

theorem digOutcome_pair (m : Nat) (s : State) : (digOutcome m s).pair = { s.pair with
    marks := lastN 256 (s.pair.marks ++ [m]),
    matchRun := (if m = 0 then s.pair.matchRun + 1 else if m = 1 then 0 else s.pair.matchRun),
    diverged := (if s.pair.diverged then decide ((if m = 0 then s.pair.matchRun + 1 else if m = 1 then 0 else s.pair.matchRun) < 256) else decide (digLimit s ≤ (lastN 256 (s.pair.marks ++ [m])).count 1)) } := by
  unfold digOutcome
  dsimp only
  generalize hk : (if m = 0 then s.pair.matchRun + 1 else if m = 1 then 0 else s.pair.matchRun) = k
  generalize lastN 256 (s.pair.marks ++ [m]) = ms
  generalize digLimit s = dl
  have hq : ∀ v : State, (if m = 0 then shrCount 3 1 v else if m = 1 then shrCount 4 1 (shrCount 3 1 v) else shrCount 5 1 v).pair = v.pair := by
    intro v
    split
    · rfl
    · split <;> rfl
  have ho : ∀ v : State, (if (!s.pair.diverged && decide (dl ≤ List.count 1 ms)) = true then raise SHR_INT 7 (pairRecord 5 5 0 [] v) else v).pair = v.pair := by
    intro v
    split
    · rw [raise_pair, pairRecord_pair]
    · rfl
  rw [ho, hq]
  rfl

theorem digPairs_one (ts : List (Nat × Nat)) (i d k x : Nat) (u : State) (ho : u.pair.own = [(i, d, k)]) (ht : ts = [(i, x)]) :
    digCompare i { u with pair := { u.pair with theirs := ts } } = digOutcome (if k + 500000000 ≤ u.ticks then 2 else if d = x then 0 else 1) { u with pair := { u.pair with own := [], theirs := [] } } := by
  subst ht
  unfold digCompare setPair digLate
  dsimp only
  rw [ho]
  simp

theorem digPairs_none (ts : List (Nat × Nat)) (i : Nat) (u : State) (ho : u.pair.own = []) :
    digCompare i { u with pair := { u.pair with theirs := ts } } = { u with pair := { u.pair with theirs := ts } } := by
  unfold digCompare
  dsimp only
  rw [ho]
  rfl

theorem digestIn_eq (e : DigestEntry) (u : State) : digestIn e u = digCompare e.instant.toNat
    { u with pair := { u.pair with theirs := lastN 4096 (u.pair.theirs ++ [(e.instant.toNat, e.digest.toNat)]) } } := by
  unfold digestIn setPair
  rfl

theorem digOutcome_parts (m : Nat) (s : State) : (digOutcome m s).pair.own = s.pair.own ∧ (digOutcome m s).pair.theirs =
    s.pair.theirs ∧ (digOutcome m s).pair.marks = lastN 256 (s.pair.marks ++ [m]) := by
  have h := digOutcome_pair m s
  generalize lastN 256 (s.pair.marks ++ [m]) = ms at *
  rw [h]
  exact ⟨rfl, rfl, rfl⟩

theorem digestIn_links (e : DigestEntry) (u s : State) (ms : List (Nat × Nat)) (p : Pair) (L : NMap Shroud) (hp : p =
    { (digestIn e u).pair with links := L })
    (hms : lastN 4096 (u.pair.theirs ++ [(e.instant.toNat, e.digest.toNat)]) = ms) (ho : u.pair.own = []) (hm : u.pair.marks = s.pair.marks) :
    p.own = [] ∧ p.marks = s.pair.marks ∧ p.theirs = ms := by
  have hd := digestIn_eq e u
  rw [hms, digPairs_none _ _ _ ho] at hd
  rw [hp, hd]
  exact ⟨ho, hm, rfl⟩

theorem bootRec_copyB (t : State) (h : t.boot.copyA.seq < t.boot.copyB.seq) : bootRec t = t.boot.copyB := by
  unfold bootRec newerB; rw [decide_eq_true h]; rfl

theorem bootRec_copyA (t : State) (h : ¬ t.boot.copyA.seq < t.boot.copyB.seq) : bootRec t = t.boot.copyA := by
  unfold bootRec newerB; rw [decide_eq_false h]; rfl

theorem bootRec_write (f : BootRec → BootRec) (s : State) (h : (bootRec s).seq + 1 < 2 ^ 32) : bootRec (writeRec f s) =
    { f (bootRec s) with seq := (bootRec s).seq + 1 } := by
  have hm : ((bootRec s).seq + 1) % 2 ^ 32 = (bootRec s).seq + 1 := Nat.mod_eq_of_lt h
  unfold writeRec
  rw [hm]
  by_cases hb : s.boot.copyA.seq < s.boot.copyB.seq
  · have hn : newerB s = true := decide_eq_true hb
    have he := bootRec_copyB s hb
    dsimp only
    rw [hn, if_pos rfl]
    refine bootRec_copyA _ ?_
    show ¬ ((bootRec s).seq + 1 < s.boot.copyB.seq)
    rw [he]; omega
  · have hn : newerB s = false := decide_eq_false hb
    have he := bootRec_copyA s hb
    dsimp only
    rw [hn, if_neg (by decide)]
    refine bootRec_copyB _ ?_
    show s.boot.copyA.seq < (bootRec s).seq + 1
    rw [he]; omega

theorem bootRec_eq {s t : State} (h : t.boot = s.boot) : bootRec t = bootRec s := by unfold bootRec newerB; rw [h]

theorem bankState_set (b : Nat) (st : BankState) (s : State) (h : (bootRec s).seq + 1 < 2 ^ 32) : bankState (setBank b st s) b =
    st := by
  unfold setBank
  split
  · assumption
  · unfold bankState
    rw [bootRec_eq (raise_boot _ _ _), bootRec_write _ _ h]
    unfold recSetBank recBank
    by_cases hb : b = 0
    · rw [if_pos hb, if_pos hb]
    · rw [if_neg hb, if_neg hb]

theorem setBank_boot (b : Nat) (st : BankState) (s : State) : (setBank b st s).boot.job = s.boot.job ∧ (setBank b st
    s).boot.images = s.boot.images ∧ (setBank b st s).boot.flash = s.boot.flash ∧ (setBank b st s).boot.act = s.boot.act := by
  unfold setBank
  split
  · exact ⟨rfl, rfl, rfl, rfl⟩
  · rw [raise_boot]
    unfold writeRec
    dsimp only
    split <;> exact ⟨rfl, rfl, rfl, rfl⟩

theorem botEnd_facts {n : Nat} {s : State} (hw : TablesWf s) : rdB (botEnd n s) BOT_INT 0 = true ∧ rd (botEnd n s) BOT_CMD_STAT =
    wordOf (2 * n) ∧ (botEnd n s).boot = s.boot := by
  unfold botEnd
  exact ⟨rdB_raise_self (wr_tables hw) (by decide) (by decide), (rd_raise_ne _ _ _ _ (by decide) (by decide)).trans (rd_wr_same _ _ _ hw), raise_boot _ _ _⟩

theorem svc_served (h : SvcHdr) (k : Nat) (f : State → Option (Nat × List Nat) × State) (s : State) (h1 : h.crcOk = true) (h2 :
    s.power.st = .fullSail)
    (h3 : s.boot.phase = .running) (h4 : s.boot.mode ≠ .normal ∨ s.deck.st = .run) :
    svcServe h k f s = match f s with
      | (some r, t) => logService k r.1 (svcReply k r.1 h.seq r.2 t)
      | (none, t) => t := by
  unfold svcServe
  rw [if_neg (by rw [h1, h2, h3]; decide), if_neg (by rcases h4 with h4 | h4 <;> simp [h4])]
  all_goals (generalize f s = x; rcases x with ⟨_ | _, t⟩ <;> rfl)

theorem leBytes_length (n x : Nat) : (leBytes n x).length = n := by
  induction n generalizing x with
  | zero => rfl
  | succ n ih => unfold leBytes; simp [ih]

theorem beBytes_length (n x : Nat) : (beBytes n x).length = n := by unfold beBytes; rw [List.length_reverse, leBytes_length]

theorem reply_drop (cmd st a b c : Nat) (f : Nat) (p : List Nat) : ([84, 76, 66, 83, 1, cmd, st, 0] ++ beBytes 4 a ++ beBytes 4 b
    ++ beBytes 2 c ++ [0, 0] ++ beBytes 4 f ++ p).drop 24 = p := by
  have h : ([84, 76, 66, 83, 1, cmd, st, 0] ++ beBytes 4 a ++ beBytes 4 b ++ beBytes 2 c ++ [0, 0] ++ beBytes 4 f).length = 24 := by simp [beBytes_length]
  exact List.drop_left' h

theorem dieReset_node (v : State) : (dieReset v).nodeOk = false ∧ (dieReset v).power =
    { State.reset.power with vin := v.power.vin, vinHigh := v.power.vinHigh } := by
  have h : ∀ l : List Nat, (l.foldl (fun t a => wr a (rd v a) t) State.reset).nodeOk = false := fun l =>
    foldl_keep (fun u : State => u.nodeOk) (fun t a => wr a (rd v a) t) l State.reset (fun u a => rfl)
  have e : (dieReset v).nodeOk = (sentryRegs.foldl (fun t a => wr a (rd v a) t) State.reset).nodeOk := by unfold dieReset; dsimp only
  exact ⟨e.trans (h sentryRegs), by unfold dieReset; dsimp only⟩

theorem logService_regs (a b : Nat) (s : State) : (logService a b s).regs = s.regs := by unfold logService; split <;> rfl

theorem logService_free (a b : Nat) (s : State) : (logService a b s).free = s.free := by unfold logService; split <;> rfl

theorem logService_out (a b : Nat) (s : State) : (logService a b s).out = s.out := by unfold logService; split <;> rfl

theorem bootRec_logService (a b : Nat) (s : State) : bootRec (logService a b s) = bootRec s := by unfold logService; split <;> rfl

theorem updNode_boot (s : State) : (updateNodeOk s).boot =
    { s.boot with okAt := if nodeOkHolds s then (if s.nodeOk then s.boot.okAt else some s.ticks) else none } := by
  unfold updateNodeOk
  rw [(nodeEdge_within _ _ (Within.refl _) (List.Subset.refl _)).of .boot]

theorem updateNodeOk_false (s : State) (h : nodeOkHolds s = false) : (updateNodeOk s).nodeOk = false := by
  unfold updateNodeOk
  rw [(nodeEdge_within _ _ (Within.refl _) (List.Subset.refl _)).of .nodeOk]
  exact h

theorem offerPost_deckState (p : PostSource) (t : Nat) (s : State) : (offerPost p t s).deck.st = s.deck.st := by
  unfold offerPost
  dsimp only
  repeat' split
  · rfl
  · rw [setInt_deck]
  · rfl

theorem raise_deckState (a k : Nat) (s : State) : (raise a k s).deck.st = s.deck.st := by
  unfold raise
  dsimp only
  split
  · exact (foldl_keep (fun u : State => u.deck.st) _ _ _ (fun u x => offerPost_deckState _ _ _)).trans (congrArg Deck.st (setInt_deck _ _ _))
  · rw [setInt_deck]

theorem countFrame_deck (k : Option Nat) (u : State) : (countFrame k u).deck = u.deck := by cases k <;> rfl

theorem leaveLpi_deck (p : Nat) (u : State) : (leaveTxLpi p u).deck = u.deck := by
  unfold leaveTxLpi
  dsimp only
  split <;> rfl

theorem qLand_deck (q : Nat) (i : QItem) (s : State) : (qLand q i s).deck.st = s.deck.st := by
  unfold qLand
  dsimp only
  repeat' split
  all_goals first | (rw [raise_deckState, countFrame_deck]; rfl) | (rw [raise_deckState, leaveLpi_deck, countFrame_deck]; rfl) | (rw [leaveLpi_deck, countFrame_deck]; rfl) | (rw [countFrame_deck]; rfl)

theorem compose_deckState (q prio len : Nat) (al : Bool) (o : Option Nat) (x : TxBody) (s : State) : (compose q prio len al o x
    s).deck.st = s.deck.st := by
  unfold compose
  dsimp only
  repeat' split
  all_goals first | rfl | exact qLand_deck _ _ _ | (rw [raise_deckState]; rfl)

theorem pubTransmit_deckState (p : Nat) (s : State) : (pubTransmit p s).deck.st = s.deck.st := by
  unfold pubTransmit
  dsimp only
  repeat' split
  · rfl
  · rw [raise_deckState]; rfl
  · rw [compose_deckState]; rfl
  · rw [raise_deckState]; rfl
  · rw [compose_deckState]; rfl

theorem nodeEdge_deckState (s t : State) : (nodeEdge s t).deck.st = t.deck.st := by
  unfold nodeEdge pubAll
  repeat' split
  · rfl
  · refine foldl_keep (fun u : State => u.deck.st) _ _ _ (fun u x => ?_)
    unfold pubNew
    split
    · rfl
    · rw [pubTransmit_deckState]; rfl
  · rfl

theorem mastTo_deckState (m : MastState) (s : State) : (mastTo m s).deck.st = s.deck.st := by
  unfold mastTo; rw [nodeEdge_deckState, raise_deckState]

theorem updateNodeOk_deckState (s : State) : (updateNodeOk s).deck.st = s.deck.st := by unfold updateNodeOk; rw [nodeEdge_deckState]

theorem cycNoRef_deckState (s : State) : (cycNoRef s).deck.st = s.deck.st := by
  unfold cycNoRef cycLeave
  dsimp only
  repeat' split
  · rw [raise_deckState]
  · rfl
  · rfl

theorem reefStop_facts (w : State) : (reefStop w).power = w.power ∧ (reefStop w).boot =
    { w.boot with act := 0, dataPath := false, okAt := none } ∧
    (reefStop w).deck.st = .failed ∧ (reefStop w).nodeOk = false ∧ (reefStop w).mkt.tabs = [] := by
  unfold reefStop
  dsimp only
  have ha : (actAbandon w).power = w.power ∧ (actAbandon w).boot = { w.boot with act := 0 } := by
    unfold actAbandon
    split
    · rename_i h; exact ⟨rfl, by rw [← h]⟩
    · unfold botEnd; exact ⟨by rw [raise_power]; rfl, by rw [raise_boot]; rfl⟩
  have h1 : (shroudChange 1 false (shroudChange 0 false (forUpTo 64 portOff (actAbandon w)))).power = w.power ∧ (shroudChange 1 false (shroudChange 0 false (forUpTo 64 portOff (actAbandon w)))).boot = { w.boot with act := 0 } := by
    have hp : ∀ u : State, (forUpTo 64 portOff u).power = u.power ∧ (forUpTo 64 portOff u).boot = u.boot := fun u =>
      ⟨foldl_keep (fun v : State => v.power) _ _ _ (fun v k => (portOff_within k v (Within.refl v) (List.Subset.refl _)).of .power),
       foldl_keep (fun v : State => v.boot) _ _ _ (fun v k => (portOff_within k v (Within.refl v) (List.Subset.refl _)).of .boot)⟩
    constructor
    · rw [(shroudChange_within 1 false _ (Within.refl _) (List.Subset.refl _)).of .power, (shroudChange_within 0 false _ (Within.refl _) (List.Subset.refl _)).of .power, (hp _).1, ha.1]
    · rw [(shroudChange_within 1 false _ (Within.refl _) (List.Subset.refl _)).of .boot, (shroudChange_within 0 false _ (Within.refl _) (List.Subset.refl _)).of .boot, (hp _).2, ha.2]
  generalize shroudChange 1 false (shroudChange 0 false (forUpTo 64 portOff (actAbandon w))) = s1 at *
  have hr : (ribLose s1).power = s1.power ∧ (ribLose s1).boot = s1.boot := 
    ⟨(ribLose_within s1 (Within.refl s1) (List.Subset.refl _)).of .power, (ribLose_within s1 (Within.refl s1) (List.Subset.refl _)).of .boot⟩
  rw [← hr.1, ← hr.2] at h1
  generalize ribLose s1 = s1 at *
  have h2 : ∀ u : State, (hostReset u).power = u.power ∧ (hostReset u).boot = u.boot ∧ (hostReset u).mkt = u.mkt := fun u =>
    ⟨(hostReset_within u (Within.refl u) (List.Subset.refl _)).of .power, (hostReset_within u (Within.refl u) (List.Subset.refl _)).of .boot, (hostReset_within u (Within.refl u) (List.Subset.refl _)).of .mkt⟩
  have hx : ∃ z : State, z = hostReset { s1 with boot := { s1.boot with dataPath := false }, ing := { s1.ing with fifo := [], handoff := [] }, mkt := { s1.mkt with tabs := [], early := [] }, nest := { s1.nest with stopped := true } } ∧ z.power = w.power ∧ z.boot = { w.boot with act := 0, dataPath := false } ∧ z.mkt.tabs = [] := by
    refine ⟨_, rfl, ?_, ?_, ?_⟩
    · rw [(h2 _).1]; exact h1.1
    · rw [(h2 _).2.1]; dsimp only; rw [h1.2]
    · rw [(h2 _).2.2]
  obtain ⟨z, hz, z1, z2, z3⟩ := hx
  rw [← hz]
  have h4 : ∀ u : State, (cycNoRef u).power = u.power ∧ (cycNoRef u).boot = u.boot ∧ (cycNoRef u).mkt = u.mkt := fun u =>
    ⟨(cycNoRef_within u (Within.refl u) (List.Subset.refl _)).of .power, (cycNoRef_within u (Within.refl u) (List.Subset.refl _)).of .boot, (cycNoRef_within u (Within.refl u) (List.Subset.refl _)).of .mkt⟩
  have hy : ∃ y : State, y = cycNoRef { deckReset z with deck := { (deckReset z).deck with st := .failed } } ∧ y.power = w.power ∧ y.boot = { w.boot with act := 0, dataPath := false } ∧ y.mkt.tabs = [] ∧ y.deck.st = .failed := by
    refine ⟨_, rfl, ?_, ?_, ?_, ?_⟩
    · rw [(h4 _).1]; exact z1
    · rw [(h4 _).2.1]; exact z2
    · rw [(h4 _).2.2]; exact z3
    · rw [cycNoRef_deckState]
  obtain ⟨y, hy, y1, y2, y3, y4⟩ := hy
  rw [← hy]
  have hm : ∀ x : State, (x = y ∨ x = mastTo .holdover y) → x.power = w.power ∧ x.boot = { w.boot with act := 0, dataPath := false } ∧ x.mkt.tabs = [] ∧ x.deck.st = .failed := by
    intro x hx
    rcases hx with rfl | rfl
    · exact ⟨y1, y2, y3, y4⟩
    · rw [(mastTo_within _ y (Within.refl y) (List.Subset.refl _)).of .power, (mastTo_within _ y (Within.refl y) (List.Subset.refl _)).of .boot, (mastTo_within _ y (Within.refl y) (List.Subset.refl _)).of .mkt, mastTo_deckState]
      exact ⟨y1, y2, y3, y4⟩
  have hfin : ∀ x : State, (x = y ∨ x = mastTo .holdover y) → (updateNodeOk x).power = w.power ∧ (updateNodeOk x).boot = { w.boot with act := 0, dataPath := false, okAt := none } ∧
      (updateNodeOk x).deck.st = .failed ∧ (updateNodeOk x).nodeOk = false ∧ (updateNodeOk x).mkt.tabs = [] := by
    intro x hx
    obtain ⟨a, b, c, d⟩ := hm x hx
    have hn : nodeOkHolds x = false := by
      unfold nodeOkHolds
      rw [d]; simp
    rw [(updateNodeOk_within x (Within.refl x) (List.Subset.refl _)).of .power, updNode_boot, (updateNodeOk_within x (Within.refl x) (List.Subset.refl _)).of .mkt, updateNodeOk_deckState, hn, b]
    exact ⟨a, rfl, d, updateNodeOk_false _ hn, c⟩
  split
  · exact hfin _ (Or.inr rfl)
  · exact hfin _ (Or.inl rfl)

theorem flushNil_boot (s : State) : (flushRun [] [] s).boot = s.boot := by
  unfold flushRun
  dsimp only [List.foldl, relocate]
  have hl : ∀ r u, (logWrite r u).boot = u.boot := fun r u => (logWrite_within r u (Within.refl u) (List.Subset.refl _)).of .boot
  have hm : ∀ rs u, (mirrorRecords rs u).boot = u.boot := fun rs u => (mirrorRecords_within rs u (Within.refl u) (List.Subset.refl _)).of .boot
  have hf : ∀ (rs : List LRec) (u : State), (rs.foldl (fun t r => logWrite r t) u).boot = u.boot := fun rs u => foldl_keep (fun v : State => v.boot) _ rs u (fun v r => hl r v)
  split
  · rfl
  · split
    · rfl
    · have hc : ∀ u, (controlRecord u).boot = u.boot := fun u => (controlRecord_within u (Within.refl u) (List.Subset.refl _)).of .boot
      rw [raise_boot, hm, hc]
      split
      · rw [hl]; exact hf _ _
      · exact hf _ _

theorem reefFlush_boot (s : State) : (reefFlush s).boot = s.boot := by
  unfold reefFlush
  rw [(trackWrite_within _ (Within.refl _) (List.Subset.refl _)).of .boot, flushNil_boot]
  split <;> rfl

theorem reefEnter_facts (why : Nat) (s : State) : (reefEnter why s).power = { s.power with st := .reefed, why := why, hot := 0 } ∧
    (reefEnter why s).boot = { s.boot with act := 0, dataPath := false, okAt := none } ∧
    (reefEnter why s).deck.st = .failed ∧ (reefEnter why s).nodeOk = false ∧ (reefEnter why s).mkt.tabs = [] := by
  unfold reefEnter
  dsimp only
  obtain ⟨a, b, c, d, e⟩ := reefStop_facts (reefFlush (capReef (energyReef (if why = reefTHERMAL then logEvent srcPWR 5 6 0#32 [] (logEvent srcPWR 1 5 (wordOf why) [] (raise PWR_INT 0 (setPower (fun p => { p with st := .reefed, why := why, hot := 0 }) s))) else logEvent srcPWR 1 5 (wordOf why) [] (raise PWR_INT 0 (setPower (fun p => { p with st := .reefed, why := why, hot := 0 }) s))))))
  have hw : ∀ v : State, (v = logEvent srcPWR 1 5 (wordOf why) [] (raise PWR_INT 0 (setPower (fun p => { p with st := .reefed, why := why, hot := 0 }) s)) ∨ v = logEvent srcPWR 5 6 0#32 [] (logEvent srcPWR 1 5 (wordOf why) [] (raise PWR_INT 0 (setPower (fun p => { p with st := .reefed, why := why, hot := 0 }) s)))) →
      (reefFlush (capReef (energyReef v))).power = { s.power with st := .reefed, why := why, hot := 0 } ∧ (reefFlush (capReef (energyReef v))).boot = s.boot := by
    intro v hv
    rw [(reefFlush_within _ (Within.refl _) (List.Subset.refl _)).of .power, (capReef_within _ (Within.refl _) (List.Subset.refl _)).of .power, (energyReef_within _ (Within.refl _) (List.Subset.refl _)).of .power,
      reefFlush_boot, (capReef_within _ (Within.refl _) (List.Subset.refl _)).of .boot, (energyReef_within _ (Within.refl _) (List.Subset.refl _)).of .boot]
    rcases hv with rfl | rfl
    · rw [logEvent_power, raise_power, logEvent_boot, raise_boot]; exact ⟨rfl, rfl⟩
    · rw [logEvent_power, logEvent_power, raise_power, logEvent_boot, logEvent_boot, raise_boot]; exact ⟨rfl, rfl⟩
  have hv : (reefFlush (capReef (energyReef (if why = reefTHERMAL then logEvent srcPWR 5 6 0#32 [] (logEvent srcPWR 1 5 (wordOf why) [] (raise PWR_INT 0 (setPower (fun p => { p with st := .reefed, why := why, hot := 0 }) s))) else logEvent srcPWR 1 5 (wordOf why) [] (raise PWR_INT 0 (setPower (fun p => { p with st := .reefed, why := why, hot := 0 }) s)))))).power = { s.power with st := .reefed, why := why, hot := 0 } ∧
      (reefFlush (capReef (energyReef (if why = reefTHERMAL then logEvent srcPWR 5 6 0#32 [] (logEvent srcPWR 1 5 (wordOf why) [] (raise PWR_INT 0 (setPower (fun p => { p with st := .reefed, why := why, hot := 0 }) s))) else logEvent srcPWR 1 5 (wordOf why) [] (raise PWR_INT 0 (setPower (fun p => { p with st := .reefed, why := why, hot := 0 }) s)))))).boot = s.boot := by
    split
    · exact hw _ (Or.inr rfl)
    · exact hw _ (Or.inl rfl)
  rw [hv.1] at a
  rw [hv.2] at b
  exact ⟨a, b, c, d, e⟩

theorem powerOff_facts (s : State) : (powerOff s).power.st = .furled ∧ (powerOff s).boot.phase = .held ∧ (powerOff s).boot.cold =
    true ∧ (powerOff s).nodeOk = false ∧ (powerOff s).ledger.log = s.ledger.log := by
  have hd := dieReset_node s
  have hl : (dieReset s).ledger.log = s.ledger.log := by unfold dieReset; rfl
  unfold powerOff
  generalize dieReset s = u at *
  exact ⟨rfl, rfl, rfl, hd.1, hl⟩

theorem resume_facts (v : Word) (s : State) : (resume v s).power.st = .fullSail ∧ (resume v s).boot =
    { s.boot with dataPath := true, okAt := (resume v s).boot.okAt } ∧ (resume v s).sentry.onVbat = false := by
  unfold resume
  dsimp only
  have hu : ∀ u : State, (updateNodeOk u).power = u.power ∧ (updateNodeOk u).boot = { u.boot with okAt := (updateNodeOk u).boot.okAt } ∧ (updateNodeOk u).sentry = u.sentry := fun u =>
    ⟨(updateNodeOk_within u (Within.refl u) (List.Subset.refl _)).of .power, by rw [updNode_boot], (updateNodeOk_within u (Within.refl u) (List.Subset.refl _)).of .sentry⟩
  have hl : ∀ u : State, (linkBack .linkDown u).power = u.power ∧ (linkBack .linkDown u).boot = u.boot ∧ (linkBack .linkDown u).sentry = u.sentry := fun u =>
    ⟨(linkBack_within _ u (Within.refl u) (List.Subset.refl _)).of .power, (linkBack_within _ u (Within.refl u) (List.Subset.refl _)).of .boot, (linkBack_within _ u (Within.refl u) (List.Subset.refl _)).of .sentry⟩
  have hp : ∀ u : State, (pairStart u).power = u.power ∧ (pairStart u).boot = u.boot ∧ (pairStart u).sentry = u.sentry := fun u =>
    ⟨(pairStart_within u (Within.refl u) (List.Subset.refl _)).of .power, (pairStart_within u (Within.refl u) (List.Subset.refl _)).of .boot, (pairStart_within u (Within.refl u) (List.Subset.refl _)).of .sentry⟩
  have hd : ∀ u : State, (deckRun v (bootLoadCode (deckStart u))).power = u.power ∧ (deckRun v (bootLoadCode (deckStart u))).boot = u.boot ∧ (deckRun v (bootLoadCode (deckStart u))).sentry = u.sentry := by
    intro u
    refine ⟨?_, ?_, ?_⟩
    · rw [(deckRun_within _ _ (Within.refl _) (List.Subset.refl _)).of .power, (bootLoadCode_within _ (Within.refl _) (List.Subset.refl _)).of .power]; rfl
    · rw [(deckRun_within _ _ (Within.refl _) (List.Subset.refl _)).of .boot, (bootLoadCode_within _ (Within.refl _) (List.Subset.refl _)).of .boot]; rfl
    · rw [(deckRun_within _ _ (Within.refl _) (List.Subset.refl _)).of .sentry, (bootLoadCode_within _ (Within.refl _) (List.Subset.refl _)).of .sentry]; rfl
  have hs : ∀ u : State, (shedResume u).power.st = u.power.st ∧ (shedResume u).boot = u.boot ∧ (shedResume u).sentry = u.sentry := by
    intro u
    refine ⟨?_, (shedResume_within u (Within.refl u) (List.Subset.refl _)).of .boot, (shedResume_within u (Within.refl u) (List.Subset.refl _)).of .sentry⟩
    unfold shedResume
    dsimp only
    split
    · rfl
    · rw [logEvent_power, raise_power]; rfl
  have he : ∀ u : State, (energyResume u).power = u.power ∧ (energyResume u).boot = u.boot ∧ (energyResume u).sentry = u.sentry := fun u =>
    ⟨(energyResume_within u (Within.refl u) (List.Subset.refl _)).of .power, (energyResume_within u (Within.refl u) (List.Subset.refl _)).of .boot, (energyResume_within u (Within.refl u) (List.Subset.refl _)).of .sentry⟩
  have hsd : ∀ w : State, (startDataPath true w).boot = { w.boot with dataPath := true } := by
    intro w
    unfold startDataPath
    dsimp only
    rw [(startOuts_within _ (Within.refl _) (List.Subset.refl _)).of .boot, (shedAgain_within _ (Within.refl _) (List.Subset.refl _)).of .boot, (capStart_within _ _ (Within.refl _) (List.Subset.refl _)).of .boot, (scalesStart_within _ _ (Within.refl _) (List.Subset.refl _)).of .boot, (nestStart_within _ (Within.refl _) (List.Subset.refl _)).of .boot, (marketStart_within _ (Within.refl _) (List.Subset.refl _)).of .boot]
  have hsp : ∀ w : State, (startDataPath true w).power = w.power ∧ (startDataPath true w).sentry = w.sentry := fun w =>
    ⟨(startDataPath_within true w (Within.refl w) (List.Subset.refl _)).of .power, (startDataPath_within true w (Within.refl w) (List.Subset.refl _)).of .sentry⟩
  have hpp : ∀ (b : Bool) (u : State), (if b = true then pairStart u else u).power = u.power ∧ (if b = true then pairStart u else u).boot = u.boot ∧ (if b = true then pairStart u else u).sentry = u.sentry := by
    intro b u; cases b
    · exact ⟨rfl, rfl, rfl⟩
    · exact hp u
  refine ⟨?_, ?_, ?_⟩
  · rw [(hu _).1, raise_power, logEvent_power, (hl _).1, (hpp _ _).1, (hd _).1, (he _).1, (hsp _).1, (hs _).1]; rfl
  · refine (hu _).2.1.trans ?_
    rw [raise_boot, logEvent_boot, (hl _).2.1, (hpp _ _).2.1, (hd _).2.1, (he _).2.1, hsd, (hs _).2.1]; rfl
  · rw [(hu _).2.2, raise_sentry, logEvent_sentry, (hl _).2.2, (hpp _ _).2.2, (hd _).2.2, (he _).2.2, (hsp _).2, (hs _).2.2]; rfl

theorem rd_holdupChange (s t : State) (b : Nat) (h1 : b ≠ PWR_INT := by
  decide) (h2 : b ≠ PWR_STATUS := by decide) (h3 : b ≠ CTL_INT := by decide) (h4 : b < 0x68000 := by decide) :
    rd (holdupChange s t) b = rd t b := by
  unfold holdupChange
  dsimp only
  have hu : rd (if (!holdupReady s && holdupReady t) = true then raise PWR_INT 3 t else t) b = rd t b := by
    split
    · exact rd_raise_ne _ _ _ _ h1 h3
    · rfl
  generalize (if (!holdupReady s && holdupReady t) = true then raise PWR_INT 3 t else t) = u at *
  have hst : ∀ k x, rd (setStat PWR_STATUS k x u) b = rd u b := fun k x => rd_wr_ne _ _ _ _ h2
  repeat' split
  · rw [hst]; exact hu
  · rw [rd_logEvent_low h3 h4, rd_raise_ne _ _ _ _ h1 h3, hst]; exact hu
  · exact hu

theorem noteTemp_temp (temp : BitVec 16) (s : State) (hw : TablesWf s) : rdF (noteTemp temp s) PWR_DIE 0 16 = temp.toNat := by
  unfold noteTemp rdF
  dsimp only
  generalize (if s.power.tempSeen = true then max (signedN (field (rd s PWR_DIE) 16 16) 16) temp.toInt else temp.toInt) = m
  have hx : ∀ n : Nat, field (wordOf (temp.toNat + 2 ^ 16 * n)) 0 16 = temp.toNat := by
    intro n
    unfold field fieldN wordOf
    have := temp.isLt
    simp
    omega
  exact (congrArg (fun w => field w 0 16) (rd_wr_same _ _ _ (tables_of_eq hw rfl rfl))).trans (hx _)

theorem railMeasure_power (k mv ma : Nat) (s : State) : ∃ y : Rail, (railMeasure k mv ma s).power =
    { s.power with rails := tset {} s.power.rails k y } ∧
    (tget {} (tset {} s.power.rails k y) k).mv = mv ∧ (tget {} (tset {} s.power.rails k y) k).ma = ma := by
  have key : ∃ (n m : Nat), (railMeasure k mv ma s).power = { s.power with rails := tset {} s.power.rails k { mv := mv, least := some m, ma := ma, outside := n } } := by
    unfold railMeasure
    dsimp only
    generalize (if k ≠ 4 ∧ k ≠ 5 ∧ railOn s k = true ∧ railOut k 5 mv = true then min 5 ((rail s k).outside + 1) else 0) = n
    refine ⟨n, (match (rail s k).least with | some m => min m mv | none => mv), ?_⟩
    split
    · rw [logEvent_power, raise_power]; rfl
    · rfl
  obtain ⟨n, m, h⟩ := key
  refine ⟨_, h, ?_, ?_⟩
  · rw [tget_tset_value _ _ _ _ (by intro h; injection h with _ h2; cases h2)]
  · rw [tget_tset_value _ _ _ _ (by intro h; injection h with _ h2; cases h2)]

def HostPba (s t : State) : Prop := ∃ p, t.host = { s.host with pba := p }

theorem HostPba.refl (s : State) : HostPba s s := ⟨s.host.pba, rfl⟩

theorem HostPba.trans {s t u : State} (h : HostPba s t) (k : HostPba t u) : HostPba s u := by
  obtain ⟨p, h⟩ := h; obtain ⟨q, k⟩ := k; exact ⟨q, by rw [k, h]⟩

theorem hostPba_foldl {α : Type} (f : State → α → State) (l : List α) (s : State) (h : ∀ u x, HostPba u (f u x)) : HostPba s
    (l.foldl f s) := by
  induction l generalizing s with
  | nil => exact .refl s
  | cons x r ih => exact (h s x).trans (ih _)

theorem hostPba_setInt (a k : Nat) (s : State) : HostPba s (setInt a k s) := by
  unfold setInt
  obtain h | h | h := vectorEdge_cases (vectorOf a) s (wr a (withBit (rd s a) k) s) <;> rw [h]
  · exact ⟨_, rfl⟩
  · exact ⟨_, rfl⟩
  · exact ⟨_, rfl⟩

theorem hostPba_offerPost (p : PostSource) (t : Nat) (u : State) : HostPba u (offerPost p t u) := by
  unfold offerPost
  dsimp only
  repeat' split
  all_goals first | exact ⟨_, rfl⟩ | exact hostPba_setInt _ _ _

theorem hostPba_raise (a k : Nat) (s : State) : HostPba s (raise a k s) := by
  unfold raise
  dsimp only
  split
  · exact (hostPba_setInt a k s).trans (hostPba_foldl _ _ _ (fun u x => hostPba_offerPost _ _ _))
  · exact hostPba_setInt a k s

theorem hostPba_logEvent (src code sev : Nat) (key : Word) (data : List Word) (s : State) : HostPba s (logEvent src code sev key
    data s) := by
  have hc : ∀ (v : Nat) (u : State), HostPba u (countDrop v u) := by
    intro v u
    unfold countDrop
    refine HostPba.trans ?_ (hostPba_raise _ _ _)
    exact ⟨_, rfl⟩
  unfold logEvent
  dsimp only
  repeat' split
  all_goals first | exact ⟨_, rfl⟩ | exact hc _ _

theorem raise_held (a k : Nat) (s : State) : (raise a k s).host.held = s.host.held := by obtain ⟨p, h⟩ := hostPba_raise a k s; rw [h]

theorem raise_d3hot (a k : Nat) (s : State) : (raise a k s).host.d3hot = s.host.d3hot := by
  obtain ⟨p, h⟩ := hostPba_raise a k s
  rw [h]

theorem raise_windows (a k : Nat) (s : State) : (raise a k s).host.windows = s.host.windows := by
  obtain ⟨p, h⟩ := hostPba_raise a k s
  rw [h]

theorem logEvent_held (src code sev : Nat) (key : Word) (data : List Word) (s : State) :
    (logEvent src code sev key data s).host.held = s.host.held := by obtain ⟨p, h⟩ := hostPba_logEvent src code sev key data s; rw [h]

theorem logEvent_d3hot (src code sev : Nat) (key : Word) (data : List Word) (s : State) :
    (logEvent src code sev key data s).host.d3hot = s.host.d3hot := by obtain ⟨p, h⟩ := hostPba_logEvent src code sev key data s; rw [h]

def HostWin (s t : State) : Prop := t.host.held = s.host.held ∧ t.host.d3hot = s.host.d3hot

theorem HostWin.trans {s t u : State} (h : HostWin s t) (k : HostWin t u) : HostWin s u := ⟨k.1.trans h.1, k.2.trans h.2⟩

theorem hostWin_foldl {α : Type} (f : State → α → State) (l : List α) (s : State) (h : ∀ u x, HostWin u (f u x)) : HostWin s
    (l.foldl f s) := by
  induction l generalizing s with
  | nil => exact ⟨rfl, rfl⟩
  | cons x r ih => exact (h s x).trans (ih _)

theorem hostWin_endWindow (w : Win) (why : Nat) (s : State) : HostWin s (endWindow w why s) := by
  unfold endWindow; dsimp only; split <;> exact ⟨rfl, rfl⟩

theorem dropEngine_host (c : Nat) (s : State) : (dropEngine c s).host = s.host := by
  unfold dropEngine; repeat' split
  all_goals rfl

theorem hostWin_winAbort (w : Win) (s : State) : HostWin s (winAbort w s) := by
  unfold winAbort
  split
  · unfold recAbort
    split
    · have := hostWin_endWindow .capture whyABORTED (setCap (fun c => { c with exporting := none }) s)
      unfold dropExport setWork
      unfold HostWin at *
      show (dropEngine 1 _).host.held = _ ∧ (dropEngine 1 _).host.d3hot = _
      rw [dropEngine_host]
      exact this
    · exact ⟨rfl, rfl⟩
  · unfold ledgerAbort
    split
    · exact ⟨rfl, rfl⟩
    · refine HostWin.trans ?_ (HostWin.trans (hostWin_endWindow .ledger whyABORTED _) ⟨rfl, rfl⟩)
      unfold HostWin setWork
      show (dropEngine 2 _).host.held = _ ∧ (dropEngine 2 _).host.d3hot = _
      rw [dropEngine_host]
      exact ⟨rfl, rfl⟩
  · exact ⟨rfl, rfl⟩
  · exact hostWin_endWindow _ _ _

theorem hostWin_winReset (w : Win) (s : State) : HostWin s (winReset w s) := by
  unfold winReset
  dsimp only
  repeat' split
  · exact ⟨rfl, rfl⟩
  · exact ⟨rfl, rfl⟩
  · exact hostWin_winAbort w s

theorem hostWin_tableClear (n : Nat) (u : State) (hn : n ≤ 16) : HostWin u (forUpTo n (fun v x => wr (MSIX_ADDR v) 0#32 (wr
    (MSIX_UADDR v) 0#32 (wr (MSIX_DATA v) 0#32 (wr (MSIX_CTRL v) 1#32 x)))) u) ∧
    (TablesWf u → TablesWf (forUpTo n (fun v x => wr (MSIX_ADDR v) 0#32 (wr (MSIX_UADDR v) 0#32 (wr (MSIX_DATA v) 0#32 (wr (MSIX_CTRL v) 1#32 x)))) u) ∧
    ∀ v < n, rd (forUpTo n (fun v x => wr (MSIX_ADDR v) 0#32 (wr (MSIX_UADDR v) 0#32 (wr (MSIX_DATA v) 0#32 (wr (MSIX_CTRL v) 1#32 x)))) u) (MSIX_CTRL v) = 1#32 ∧
      rd (forUpTo n (fun v x => wr (MSIX_ADDR v) 0#32 (wr (MSIX_UADDR v) 0#32 (wr (MSIX_DATA v) 0#32 (wr (MSIX_CTRL v) 1#32 x)))) u) (MSIX_DATA v) = 0#32) := by
  induction n with
  | zero => exact ⟨⟨rfl, rfl⟩, fun h => ⟨h, fun v hv => absurd hv (Nat.not_lt_zero _)⟩⟩
  | succ n ih =>
    obtain ⟨h1, h2⟩ := ih (by omega)
    unfold forUpTo at *
    rw [List.range_succ, List.foldl_append]
    generalize (List.range n).foldl _ u = x at *
    refine ⟨h1.trans ⟨rfl, rfl⟩, fun hu => ?_⟩
    obtain ⟨h3, h4⟩ := h2 hu
    refine ⟨wr_tables (wr_tables (wr_tables (wr_tables h3))), fun v hv => ?_⟩
    show rd (wr (MSIX_ADDR n) 0#32 (wr (MSIX_UADDR n) 0#32 (wr (MSIX_DATA n) 0#32 (wr (MSIX_CTRL n) 1#32 x)))) _ = _ ∧ rd (wr (MSIX_ADDR n) 0#32 (wr (MSIX_UADDR n) 0#32 (wr (MSIX_DATA n) 0#32 (wr (MSIX_CTRL n) 1#32 x)))) _ = _
    by_cases e : v = n
    · subst e
      refine ⟨?_, ?_⟩
      · rw [rd_wr_ne _ _ _ _ (by simp only [MSIX_ADDR, MSIX_CTRL]; omega), rd_wr_ne _ _ _ _ (by simp only [MSIX_UADDR, MSIX_CTRL]; omega), rd_wr_ne _ _ _ _ (by simp only [MSIX_DATA, MSIX_CTRL]; omega), rd_wr_same _ _ _ h3]
      · rw [rd_wr_ne _ _ _ _ (by simp only [MSIX_ADDR, MSIX_DATA]; omega), rd_wr_ne _ _ _ _ (by simp only [MSIX_UADDR, MSIX_DATA]; omega), rd_wr_same _ _ _ (wr_tables h3)]
    · obtain ⟨a, b⟩ := h4 v (by omega)
      refine ⟨?_, ?_⟩
      · rw [rd_wr_ne _ _ _ _ (by simp only [MSIX_ADDR, MSIX_CTRL]; omega), rd_wr_ne _ _ _ _ (by simp only [MSIX_UADDR, MSIX_CTRL]; omega), rd_wr_ne _ _ _ _ (by simp only [MSIX_DATA, MSIX_CTRL]; omega), rd_wr_ne _ _ _ _ (by simp only [MSIX_CTRL]; omega), a]
      · rw [rd_wr_ne _ _ _ _ (by simp only [MSIX_ADDR, MSIX_DATA]; omega), rd_wr_ne _ _ _ _ (by simp only [MSIX_UADDR, MSIX_DATA]; omega), rd_wr_ne _ _ _ _ (by simp only [MSIX_DATA]; omega), rd_wr_ne _ _ _ _ (by simp only [MSIX_CTRL, MSIX_DATA]; omega), b]

theorem winReset_tables (w : Win) (s : State) (h : TablesWf s) : TablesWf (winReset w s) :=
  (winReset_keeps w s (Keeps.refl s)).tables h

theorem hostReset_facts (s : State) (hw : TablesWf s) : TablesWf (hostReset s) ∧ (hostReset s).host.held = [] ∧ (hostReset
    s).host.d3hot = false ∧
    ∀ v < 16, rd (hostReset s) (MSIX_CTRL v) = 1#32 ∧ rd (hostReset s) (MSIX_DATA v) = 0#32 := by
  unfold hostReset
  extract_lets t u
  have t1 : TablesWf t := tables_of_eq hw rfl rfl
  have hu : TablesWf u ∧ HostWin t u := by
    have := (fun (l : List Win) => show ∀ x, TablesWf x → HostWin t x → TablesWf (l.foldl (fun v w => winReset w v) x) ∧ HostWin t (l.foldl (fun v w => winReset w v) x) from by
      induction l with
      | nil => exact fun x a b => ⟨a, b⟩
      | cons y r ih => exact fun x a b => ih _ (winReset_tables y x a) (b.trans (hostWin_winReset y x)))
    exact this allWins _ (wr_tables (wr_tables (wr_tables (wr_tables t1)))) ⟨rfl, rfl⟩
  obtain ⟨a, b⟩ := hostWin_tableClear 16 u (Nat.le_refl _)
  obtain ⟨c, d⟩ := b hu.1
  exact ⟨c, a.1.trans hu.2.1, a.2.trans hu.2.2, d⟩

theorem linkBack_facts (kind : LinkReset) (x : State) (hw : TablesWf x) : rdB (linkBack kind x) HST_INT 4 = true ∧ (linkBack kind
    x).host.held = x.host.held ∧
    (linkBack kind x).host.d3hot = x.host.d3hot ∧ ∀ b, b < 0x68000 → b ≠ CTL_INT → b ≠ HST_INT → rd (linkBack kind x) b = rd x b := by
  unfold linkBack
  refine ⟨?_, ?_, ?_, ?_⟩
  · rw [rdB_logEvent_low]; exact rdB_raise_self hw (by decide) (by decide)
  · rw [logEvent_held, raise_held]
  · rw [logEvent_d3hot, raise_d3hot]
  · intro b h1 h2 h3
    rw [rd_logEvent_low h2 h1, rd_raise_ne _ _ _ _ h3 h2]

theorem hostLinkReset_facts (kind : LinkReset) (s : State) (hw : TablesWf s) : rdB (hostLinkReset kind s) HST_INT 4 = true ∧
    (hostLinkReset kind s).host.held = [] ∧
    (hostLinkReset kind s).host.d3hot = false ∧ ∀ v : Fin 16, rd (hostLinkReset kind s) (MSIX_CTRL v.val) = 1#32 ∧ rd (hostLinkReset kind s) (MSIX_DATA v.val) = 0#32 := by
  unfold hostLinkReset
  have hp : TablesWf (if kind = .d3Return then sendPending s else s) := by
    split
    · exact (sendPending_keeps s (Keeps.refl s)).tables hw
    · exact hw
  generalize (if kind = .d3Return then sendPending s else s) = x at *
  obtain ⟨a, b, c, d⟩ := hostReset_facts x hp
  obtain ⟨e, f, g, h⟩ := linkBack_facts kind _ a
  refine ⟨e, f.trans b, g.trans c, fun v => ?_⟩
  have := v.isLt
  obtain ⟨p, q⟩ := d v.val v.isLt
  refine ⟨?_, ?_⟩
  · rw [h _ (by simp only [MSIX_CTRL]; omega) (by simp only [MSIX_CTRL, CTL_INT]; omega) (by simp only [MSIX_CTRL, HST_INT]; omega), p]
  · rw [h _ (by simp only [MSIX_DATA]; omega) (by simp only [MSIX_DATA, CTL_INT]; omega) (by simp only [MSIX_DATA, HST_INT]; omega), q]

theorem rdF_wrF_zero {a lo n : Nat} {s : State} (hs : TablesWf s) (h : lo + n ≤ 32) : rdF (wrF a lo n 0 s) a lo n = 0 := by
  unfold rdF wrF; rw [rd_wr_same _ _ _ hs, field_withField _ _ _ _ h, Nat.zero_mod]

theorem afterRead_rd (w : Win) (busy : Bool) (s : State) (b : Nat) (h1 : b ≠ CAP_INT) (h2 : b ≠ CTL_INT) : rd (afterRead w busy s)
    b = rd s b := by
  unfold afterRead
  dsimp only
  split
  · split
    · unfold exportDone
      split
      · rfl
      · rw [rd_raise_ne _ _ _ _ h1 h2]; rfl
    · rfl
  · have hm : rd (markDelivered s) b = rd s b := by
      unfold markDelivered
      dsimp only
      repeat' split
      all_goals rfl
    split
    · exact hm
    · exact hm
  · rfl

theorem afterRead_win (w : Win) (busy : Bool) (s : State) : (afterRead w busy s).host.windows = s.host.windows := by
  unfold afterRead
  dsimp only
  split
  · split
    · unfold exportDone
      split
      · rfl
      · rw [raise_windows]; rfl
    · rfl
  · have hm : (markDelivered s).host.windows = s.host.windows := by
      unfold markDelivered
      dsimp only
      repeat' split
      all_goals rfl
    split
    · exact hm
    · exact hm
  · rfl

theorem afterRead_out (w : Win) (busy : Bool) (s : State) : s.out <+: (afterRead w busy s).out :=
  (afterRead_keeps w busy s (Keeps.refl s)).out

theorem afterRead_mem (w : Win) (busy : Bool) (s : State) (m : OutMsg) (h : m ∈ s.out) : m ∈ (afterRead w busy s).out := by
  obtain ⟨l, hl⟩ := afterRead_out w busy s
  rw [← hl]
  exact List.mem_append_left _ h
/-- The window after a pop. -/
def popped (w : Win) (x : Window) (r : List (BitVec 64)) : Window :=
  { x with
    words := r
    count := x.count + 1#32
    ended := x.ended || (decide (r = []) && !x.more && !isSampling w)
    why := if (decide (r = []) && !x.more && !isSampling w) = true then whyCOMPLETE else x.why }

theorem winPop_cons (w : Win) (v : BitVec 64) (r : List (BitVec 64)) (s : State) (h : (window s (winIdx w)).words = v :: r) :
    winPop w false s = (v, setWindow (winIdx w) (popped w (window s (winIdx w)) r) s) := by
  unfold winPop
  dsimp only
  rw [h]
  rfl

theorem winPop_poison (w : Win) (v : BitVec 64) (r : List (BitVec 64)) (s : State) (h : (window s (winIdx w)).words = v :: r) :
    winPop w true s = (0#64, raise HST_INT 3 (bumpSat HST_POISON (setWindow (winIdx w) (popped w (window s (winIdx w)) r) s))) := by
  unfold winPop
  dsimp only
  rw [h]
  rfl

theorem popped_used (w : Win) (x : Window) (r : List (BitVec 64)) (h : x.ended = false) : popped w x r ≠ {} := by
  intro e
  have h1 : (popped w x r).ended = true := by rw [e]
  have h2 : (popped w x r).why = 0 := by rw [e]
  unfold popped at h1 h2
  rw [h, Bool.false_or] at h1
  rw [if_pos h1] at h2
  cases h2

theorem window_set (k : Nat) (x : Window) (s : State) (h : x ≠ {}) : window (setWindow k x s) k = x := by
  unfold window setWindow
  exact tget_tset_value _ _ _ _ h

theorem readWords_out (w : Win) (l r : List (BitVec 64)) (s : State) (h : (window s (winIdx w)).words = l ++ r) (he : l ≠ [] →
    (window s (winIdx w)).ended = false)
    (hm : (window s (winIdx w)).more = false) :
    (readWords w l.length [] s).out = s.out ++ l.map (.readData .host) ∧ (window (readWords w l.length [] s) (winIdx w)).words = r ∧
      (readWords w l.length [] s).regs = s.regs := by
  induction l generalizing s with
  | nil => exact ⟨(List.append_nil _).symm, h, rfl⟩
  | cons v l ih =>
    have hp := winPop_cons w v (l ++ r) s h
    have h0 := he (List.cons_ne_nil _ _)
    have hx := window_set (winIdx w) (popped w (window s (winIdx w)) (l ++ r)) s (popped_used w _ _ h0)
    have hs : readWords w (v :: l).length [] s = readWords w l.length [] (answer .host v (setWindow (winIdx w) (popped w (window s (winIdx w)) (l ++ r)) s)) := by
      show readWords w l.length [] (answer .host (winPop w false s).1 (winPop w false s).2) = _
      rw [hp]
    rw [hs]
    have hy : window (answer .host v (setWindow (winIdx w) (popped w (window s (winIdx w)) (l ++ r)) s)) (winIdx w) = popped w (window s (winIdx w)) (l ++ r) := hx
    obtain ⟨a, b, c⟩ := ih (answer .host v (setWindow (winIdx w) (popped w (window s (winIdx w)) (l ++ r)) s)) (by rw [hy]; rfl) (by
      intro hl
      rw [hy]
      unfold popped
      show ((window s (winIdx w)).ended || _) = false
      rw [h0, decide_eq_false (by intro e; exact hl (List.append_eq_nil_iff.mp e).1)]
      rfl) (by rw [hy]; exact hm)
    refine ⟨?_, b, c⟩
    rw [a]
    show (s.out ++ [_]) ++ _ = _
    rw [List.append_assoc]
    rfl

theorem writeBits_same (a : Nat) (rw clr v : Word) (s : State) (hw : TablesWf s) : rd (writeBits a rw clr v s) a = ((rd s a &&&
    ~~~rw) ||| (v &&& rw)) &&& ~~~clr := by
  unfold writeBits
  obtain h | h | h := vectorEdge_cases (vectorOf a) s (wr a (((rd s a &&& ~~~rw) ||| (v &&& rw)) &&& ~~~clr) s) <;> rw [h] <;> exact rd_wr_same _ _ _ hw

theorem writeBits_ne (a b : Nat) (rw clr v : Word) (s : State) (hb : b ≠ a) : rd (writeBits a rw clr v s) b = rd s b := by
  unfold writeBits
  obtain h | h | h := vectorEdge_cases (vectorOf a) s (wr a (((rd s a &&& ~~~rw) ||| (v &&& rw)) &&& ~~~clr) s) <;> rw [h] <;> exact rd_wr_ne _ _ _ _ hb

theorem writeBits_tw (a : Nat) (rw clr v : Word) (s : State) (hw : TablesWf s) : TablesWf (writeBits a rw clr v s) := by
  unfold writeBits
  obtain h | h | h := vectorEdge_cases (vectorOf a) s (wr a (((rd s a &&& ~~~rw) ||| (v &&& rw)) &&& ~~~clr) s) <;> rw [h] <;> exact wr_tables hw

theorem writeBits_mast (a : Nat) (rw clr v : Word) (s : State) : (writeBits a rw clr v s).mast = s.mast := by
  unfold writeBits
  obtain h | h | h := vectorEdge_cases (vectorOf a) s (wr a (((rd s a &&& ~~~rw) ||| (v &&& rw)) &&& ~~~clr) s) <;> rw [h] <;> rfl

theorem writeWord_same (who : Req) (a : Nat) (m v : Word) (s : State) (r : RegRow) (hw : TablesWf s) (hr : regRow? a = some r) (he
    : ∀ u, writeEffect a u = u)
    (hp : postedReg a = false := by decide) :
    rd (writeWord who a m v s) a = ((rd s a &&& ~~~(writable who a r s &&& m)) ||| (v &&& (writable who a r s &&& m))) &&& ~~~(v &&& m &&& wordOf r.w1c) := by
  unfold writeWord
  rw [hr]
  dsimp only
  split
  · rename_i h0
    rw [h0]
    simp only [BitVec.and_zero, BitVec.zero_and, BitVec.or_zero]
    rw [show ~~~(0#32) = BitVec.allOnes 32 from rfl, BitVec.and_allOnes, BitVec.and_allOnes]
  · rw [hp, if_neg (by decide), he, writeBits_same _ _ _ _ _ hw]

theorem writeWord_ne (who : Req) (a b : Nat) (m v : Word) (s : State) (hb : b ≠ a) (he : ∀ u, writeEffect a u = u) :
    rd (writeWord who a m v s) b = rd s b := by
  unfold writeWord
  split
  · rfl
  · dsimp only
    split
    · rfl
    · split
      · rfl
      · rw [he, writeBits_ne _ _ _ _ _ _ hb]

theorem writeWord_cfg (who : Req) (a : Nat) (m v : Word) (s : State) : (writeWord who a m v s).cfg = s.cfg :=
  (writeWord_within who a m v s (Within.refl s) (List.Subset.refl _)).of .cfg

theorem writable_after (who : Req) (a : Nat) (r : RegRow) (m v : Word) (s : State) (he : ∀ u, writeEffect a u = u) :
    writable who (a + 4) r (writeWord who a m v s) = writable who (a + 4) r s := by
  unfold writable isLaunch
  have h8 : rdB (writeWord who a m v s) (a + 4 + 4) 0 = rdB s (a + 4 + 4) 0 := by
    unfold rdB
    rw [writeWord_ne _ _ _ _ _ _ (by omega) he]
  rw [writeWord_cfg, h8]
  by_cases h : a + 4 = CAL_STG_TIME ∨ a + 4 = CAL_STG_DATE
  · have : legacyOn (writeWord who a m v s) = legacyOn s := by
      unfold legacyOn rdB
      rw [writeWord_ne _ _ _ _ _ _ (by rcases h with h | h <;> simp only [CAL_CFG, CAL_STG_TIME, CAL_STG_DATE] at * <;> omega) he]
    rw [this]
  · have : ((a + 4 = CAL_STG_TIME ∨ a + 4 = CAL_STG_DATE) ∧ legacyOn (writeWord who a m v s) = false) = ((a + 4 = CAL_STG_TIME ∨ a + 4 = CAL_STG_DATE) ∧ legacyOn s = false) :=
      propext ⟨fun hh => absurd hh.1 h, fun hh => absurd hh.1 h⟩
    simp only [this]

theorem popped_prefix (s : State) (v : BitVec 64) (w : Win) (b : Bool) (x : State) (h : x.out = s.out ++ [.readData .host v]) :
    s.out ++ [.readData .host v] <+: (afterRead w b x).out := by
  rw [← h]; exact afterRead_out w b x

theorem byteMask_none : byteMask 0 = 0#32 := by decide

theorem byteMask_all : byteMask 15 = 0xFFFFFFFF#32 := by decide

theorem writeWord_none (who : Req) (a : Nat) (v : Word) (s : State) : writeWord who a 0#32 v s = s := by
  unfold writeWord
  split
  · rfl
  · dsimp only
    rw [if_pos rfl]

theorem writeBytes_low (c : Instr) (who : Req) (a : Nat) (v : BitVec 64) (s : State) (h : writeHolds a s = false) :
    writeBytes c who a 15 v s = writeWord who a 0xFFFFFFFF#32 (loWord v.toNat) s := by
  unfold writeBytes
  dsimp only
  rw [show 15 % 16 = 15 from rfl, show 15 / 16 = 0 from rfl, byteMask_none, byteMask_all, h, if_neg (by simp), writeWord_none]

theorem writeBytes_high (c : Instr) (who : Req) (a : Nat) (v : BitVec 64) (s : State) (h : writeHolds (a + 4) s = false) :
    writeBytes c who a 240 v s = writeWord who (a + 4) 0xFFFFFFFF#32 (hiWord v.toNat) s := by
  unfold writeBytes
  dsimp only
  rw [show 240 % 16 = 0 from rfl, show 240 / 16 = 15 from rfl, byteMask_none, byteMask_all, h, if_neg (by simp), writeWord_none]

theorem writeWord_full (who : Req) (a : Nat) (v : Word) (s : State) (r : RegRow) (hr : regRow? a = some r) (hp : postedReg a =
    false) :
    ∃ u : State, writeWord who a 0xFFFFFFFF#32 v s = writeEffect a u ∧ u.mast = s.mast ∧ (∀ b, b ≠ a → rd u b = rd s b) ∧
      (TablesWf s → TablesWf u ∧ rd u a = ((rd s a &&& ~~~(writable who a r s &&& 0xFFFFFFFF#32)) ||| (v &&& (writable who a r s &&& 0xFFFFFFFF#32))) &&& ~~~(v &&& 0xFFFFFFFF#32 &&& wordOf r.w1c)) := by
  unfold writeWord
  rw [hr]
  dsimp only
  rw [if_neg (by decide), hp, if_neg (by decide)]
  exact ⟨_, rfl, writeBits_mast _ _ _ _ _, fun b hb => writeBits_ne _ _ _ _ _ _ hb, fun hw => ⟨writeBits_tw _ _ _ _ _ hw, writeBits_same _ _ _ _ _ hw⟩⟩

theorem writeHolds_plain (a : Nat) (s : State) (h : a < 0x6020 ∨ (0x6028 ≤ a ∧ a < 0x70000)) : writeHolds a s = false := by
  unfold writeHolds
  have h1 : decide (a = CAL_STG_TIME ∨ a = CAL_STG_DATE) = false := decide_eq_false (by simp only [CAL_STG_TIME, CAL_STG_DATE]; omega)
  rw [h1, Bool.false_and, Bool.false_and, Bool.false_or]
  rw [List.any_eq_false]
  intro i hi
  simp only [List.mem_cons, List.not_mem_nil, or_false] at hi
  rcases hi with rfl | rfl
  · have h2 : decide (tillBase 0 + 4 ≤ a ∧ a < tillBase 0 + 0x14) = false := decide_eq_false (by simp only [tillBase]; norm_num; omega)
    have h3 : decide ((if 0 = 1 then 0x70900 else 0x70100) ≤ a ∧ a < (if 0 = 1 then 0x70A00 else 0x70200)) = false := decide_eq_false (by norm_num; omega)
    rw [h2, h3]; simp
  · have h2 : decide (tillBase 1 + 4 ≤ a ∧ a < tillBase 1 + 0x14) = false := decide_eq_false (by simp only [tillBase]; norm_num; omega)
    have h3 : decide ((if 1 = 1 then 0x70900 else 0x70100) ≤ a ∧ a < (if 1 = 1 then 0x70A00 else 0x70200)) = false := decide_eq_false (by norm_num; omega)
    rw [h2, h3]; simp
/-- A set of registers may hold the offset. -/
def RegSet.hits (f : RegSet) (a : Nat) : Bool :=
  decide (f.count = 0) || (List.range f.count).any (fun i => (List.range f.words).any (fun k => decide (a = f.base + f.step * i + 4 * k)))

theorem RegSet.hits_of {f : RegSet} {a : Nat} (h : f.has a) : f.hits a = true := by
  obtain ⟨i, k, h1, h2, h3⟩ := h
  unfold RegSet.hits
  rcases h1 with h1 | h1
  · simp [h1]
  · rw [Bool.or_eq_true]
    exact .inr (List.any_eq_true.mpr ⟨i, List.mem_range.mpr h1, List.any_eq_true.mpr ⟨k, List.mem_range.mpr h2, decide_eq_true h3⟩⟩)

theorem OnlyRegs.read {R : List RegSet} {s t : State} (h : OnlyRegs R s t) (a : Nat) (hn : R.all (fun f => !f.hits a) = true := by
  decide) : rd t a = rd s a :=
  h.same a fun f hf hh => by
    have := List.all_eq_true.mp hn f hf
    rw [RegSet.hits_of hh] at this
    cases this

theorem openTab_st (b : Bool) (s : State) : (openTab b s).mast.st = s.mast.st ∧ (openTab b s).mast.accept = s.mast.accept := by
  have hr : (storeRoom s).mast = s.mast := (storeRoom_within s (Within.refl s) (List.Subset.refl _)).of .mast
  unfold openTab
  dsimp only
  have hk : ∀ (l : List (Nat × Slot)) (i : Nat) (u : State), (l.foldl (fun t h => placeIn h.1 i h.2 t) u).mast = u.mast := fun l i u =>
    foldl_keep (fun v : State => v.mast) _ _ u (fun v h => (placeIn_within _ _ _ v (Within.refl v) (List.Subset.refl _)).of .mast)
  rw [hk]
  have hm : ∀ (i : Nat) (m : Mast), (markAngle i m).st = m.st ∧ (markAngle i m).accept = m.accept := fun i m => ⟨rfl, rfl⟩
  split <;> (unfold mktCount count; exact ⟨(hm _ _).1.trans (by rw [hr]), (hm _ _).2.trans (by rw [hr])⟩)

theorem schTarget_st (e : Nat) (s : State) : (schTarget e s).mast.st = s.mast.st ∧ (schTarget e s).mast.accept = s.mast.accept := by
  unfold schTarget
  dsimp only
  split
  · exact ⟨rfl, rfl⟩
  · exact ⟨rfl, rfl⟩
  · split
    · exact ⟨rfl, rfl⟩
    · rw [raise_mast]; exact ⟨rfl, rfl⟩
  · exact ⟨rfl, rfl⟩

theorem schOccur_st (e : Nat) (b : Bool) (s : State) : (schOccur e b s).mast.st = s.mast.st ∧ (schOccur e b s).mast.accept =
    s.mast.accept := by
  unfold schOccur
  dsimp only
  split
  · rw [raise_mast]; exact ⟨rfl, rfl⟩
  · exact ⟨(schTarget_st _ _).1, (schTarget_st _ _).2⟩

theorem skipOne_st (s : State) : (skipOne s).mast.st = s.mast.st ∧ (skipOne s).mast.accept = s.mast.accept := by
  unfold skipOne
  dsimp only
  repeat' split
  all_goals first | exact openTab_st _ _ | exact schOccur_st _ _ _ | exact ⟨rfl, rfl⟩

theorem schTarget_bit (e : Nat) (s : State) (hs : TablesWf s) (h : rdB s MST_INT 0 = true) : rdB (schTarget e s) MST_INT 0 = true
    := by
  unfold schTarget
  dsimp only
  split
  · exact h
  · exact h
  · split
    · exact h
    · rw [rdB_raise _ _ _ _ (by exact tables_of_eq hs rfl rfl) (by decide) (by decide), show rdB (setEntry e _ s) MST_INT 0 = true from h, Bool.or_true]
  · exact h

theorem schOccur_bit (e : Nat) (b : Bool) (s : State) (hs : TablesWf s) (h : rdB s MST_INT 0 = true) : rdB (schOccur e b s)
    MST_INT 0 = true := by
  unfold schOccur
  dsimp only
  split
  · rw [rdB_raise _ _ _ _ (by exact tables_of_eq hs rfl rfl) (by decide) (by decide), show rdB (setEntry e _ s) MST_INT 0 = true from h, Bool.or_true]
  · exact schTarget_bit e (setEntry e _ s) (tables_of_eq hs rfl rfl) h

theorem openTab_bit (b : Bool) (s : State) : rd (openTab b s) MST_INT = rd s MST_INT :=
  (openTab_only b s (OnlyRegs.refl s) (List.Subset.refl _)).read MST_INT

theorem skipOne_bit (s : State) (hs : TablesWf s) (h : rdB s MST_INT 0 = true) : rdB (skipOne s) MST_INT 0 = true := by
  have ho : ∀ b, rdB (openTab b s) MST_INT 0 = true := fun b => by unfold rdB at *; rw [openTab_bit]; exact h
  unfold skipOne
  split
  · rename_i e _
    have hc := schOccur_bit e (decide ((schEntry s e).inst * taiNsUnit < s.tai)) s hs h
    dsimp only
    split
    · exact ho _
    · exact hc
  · split
    · exact ho _
    · exact h
/-- What the firings of a forward step leave of the Mast and of the interrupt word. -/
theorem fireSkipped_facts (s : State) (hs : TablesWf s) (h : rdB s MST_INT 0 = true) :
    (fireSkipped s).mast.st = s.mast.st ∧ (fireSkipped s).mast.accept = s.mast.accept ∧ rdB (fireSkipped s) MST_INT 0 = true := by
  unfold fireSkipped forUpTo
  generalize List.range _ = l
  suffices ∀ u : State, TablesWf u → rdB u MST_INT 0 = true → (l.foldl (fun t _ => skipOne t) u).mast.st = u.mast.st ∧ (l.foldl (fun t _ => skipOne t) u).mast.accept = u.mast.accept ∧ rdB (l.foldl (fun t _ => skipOne t) u) MST_INT 0 = true from this s hs h
  induction l with
  | nil => exact fun u _ h => ⟨rfl, rfl, h⟩
  | cons x l ih =>
    intro u hu h
    obtain ⟨a, b, c⟩ := ih (skipOne u) ((skipOne_keeps u (Keeps.refl u)).tables hu) (skipOne_bit u hu h)
    exact ⟨a.trans (skipOne_st u).1, b.trans (skipOne_st u).2, c⟩
/-- What an applied commit leaves. -/
theorem applyCommit_facts (n : Nat) (s : State) (hs : TablesWf s) : (applyCommit n s).tai = taiWrap n ∧
    (applyCommit n s).mast.st = (if s.mast.st = .held then .holdover else s.mast.st) ∧ (applyCommit n s).mast.accept = false ∧
    rdB (applyCommit n s) MST_INT 0 = true := by
  refine ⟨applyCommit_tai n s, ?_⟩
  have hf : ∀ w : State, TablesWf w → rdB w MST_INT 0 = true → (if s.tai < n then fireSkipped w else w).mast.st = w.mast.st ∧ (if s.tai < n then fireSkipped w else w).mast.accept = w.mast.accept ∧ rdB (if s.tai < n then fireSkipped w else w) MST_INT 0 = true := by
    intro w hw h
    split
    · exact fireSkipped_facts w hw h
    · exact ⟨rfl, rfl, h⟩
  have hm : ∀ w : State, TablesWf w → rdB w MST_INT 0 = true → rdB (if w.mast.st = .held then mastTo .holdover w else w) MST_INT 0 = true ∧ TablesWf (if w.mast.st = .held then mastTo .holdover w else w) := by
    intro w hw h
    split
    · have hn := fun u v => (nodeEdge_only u v (OnlyRegs.refl v) (List.Subset.refl _)).read MST_INT
      refine ⟨?_, (mastTo_keeps _ _ (Keeps.refl w)).tables hw⟩
      unfold mastTo rdB
      rw [hn]
      exact (rdB_raise _ _ _ _ (by exact tables_of_eq hw rfl rfl) (by decide) (by decide)).trans (by rw [show rdB { w with mast := { w.mast with st := .holdover } } MST_INT 0 = true from h, Bool.or_true])
    · exact ⟨h, hw⟩
  have hk : ∀ w : State, (capStep w).mast = w.mast := fun w => (capStep_within w (Within.refl w) (List.Subset.refl _)).of .mast
  have ht := (hk _).trans ((scalesStep_within s.tai (taiWrap n) _ (Within.refl { s with tai := taiWrap n, mast := { s.mast with accept := false } }) (List.Subset.refl _)).of .mast)
  have hu : TablesWf (capStep (scalesStep s.tai (taiWrap n) { s with tai := taiWrap n, mast := { s.mast with accept := false } })) :=
    (capStep_keeps _ (scalesStep_keeps _ _ _ (Keeps.refl _))).tables (by exact hs)
  unfold applyCommit
  dsimp only
  generalize capStep (scalesStep s.tai (taiWrap n) { s with tai := taiWrap n, mast := { s.mast with accept := false } }) = t at ht hu
  have h1 : ∀ u : State, u.mast = t.mast → TablesWf u → rdB (raise MST_INT 0 u) MST_INT 0 = true ∧ TablesWf (raise MST_INT 0 u) ∧ (raise MST_INT 0 u).mast = t.mast := fun u hx hy =>
    ⟨rdB_raise_self hy (by decide) (by decide), raise_tables hy, (raise_mast _ _ _).trans hx⟩
  obtain ⟨a, b, c⟩ := h1 (if modKeeps s.tai n then t else setStat SCL_STATUS 1 false t) (by split <;> rfl) (by split; exact hu; exact wr_tables hu)
  generalize raise MST_INT 0 (if modKeeps s.tai n then t else setStat SCL_STATUS 1 false t) = v at a b c
  obtain ⟨d, e⟩ := hm v b a
  obtain ⟨f, g, k⟩ := hf _ e d
  refine ⟨f.trans ?_, g.trans ?_, k⟩
  · rw [show v.mast.st = s.mast.st by rw [c, ht]]
    split
    · rw [mastTo_mast]
    · rw [c, ht]
  · split
    · rw [mastTo_mast]; rw [c, ht]
    · rw [c, ht]
/-- What a refused commit leaves beside the counter. -/
theorem refuseCommit_facts (s : State) (hs : TablesWf s) :
    (refuseCommit s).mast.st = (if rdB s MST_CFG 0 = false ∧ (s.mast.st = .locked ∨ s.mast.st = .holdover) then .held else s.mast.st) ∧
      (refuseCommit s).mast.accept = s.mast.accept ∧ rdB (refuseCommit s) MST_INT 1 = true := by
  have hm : (logEvent srcMST 1 5 0#32 [] (raise MST_INT 1 s)).mast = s.mast := by rw [logEvent_mast, raise_mast]
  have hb : rdB (logEvent srcMST 1 5 0#32 [] (raise MST_INT 1 s)) MST_INT 1 = true := (rdB_logEvent_low (by decide) (by decide)).trans (rdB_raise_self hs (by decide) (by decide))
  have hw : TablesWf (logEvent srcMST 1 5 0#32 [] (raise MST_INT 1 s)) := logEvent_tables (raise_tables hs)
  unfold refuseCommit
  dsimp only
  generalize logEvent srcMST 1 5 0#32 [] (raise MST_INT 1 s) = t at hm hb hw
  split
  · rename_i h
    simp only [Bool.and_eq_true, Bool.not_eq_true', decide_eq_true_eq] at h
    rw [if_pos ⟨h.1, h.2⟩, mastTo_mast]
    refine ⟨rfl, by rw [hm], ?_⟩
    have hn := fun u v => (nodeEdge_only u v (OnlyRegs.refl v) (List.Subset.refl _)).read MST_INT
    unfold mastTo rdB
    rw [hn]
    exact (rdB_raise _ _ _ _ (by exact tables_of_eq hw rfl rfl) (by decide) (by decide)).trans (by rw [show rdB { t with mast := { t.mast with st := .held } } MST_INT 1 = true from hb, Bool.or_true])
  · rename_i h
    simp only [Bool.and_eq_true, Bool.not_eq_true', decide_eq_true_eq] at h
    rw [if_neg (fun x => h ⟨x.1, x.2⟩), hm]
    exact ⟨rfl, rfl, hb⟩

theorem fired_entry (s : State) (e : Nat) : schEntry (setEntry e (firedEntry s e) s) e = firedEntry s e :=
  tget_tset_value _ _ _ _ (by intro h; have : true = false := congrArg SchEntry.fired h; cases this)
/-- The next occurrence rests on the clocks alone. -/
theorem schNext_of {s t : State} (h1 : t.tai = s.tai) (h2 : t.mast.cyc = s.mast.cyc) (x : SchEntry) : schNext t x = schNext s x := by
  unfold schNext firstFuture anglePassed cycAngle taiAbsNs
  rw [h1, h2]
/-- A firing to a target other than the Deck. -/
theorem fire_facts (e : Nat) (s : State) (ht : (schEntry s e).target ≠ 3) (t : State)
    (h : t = setEntry e (schNext (schTarget e (setEntry e (firedEntry s e) s))
      (schEntry (schTarget e (setEntry e (firedEntry s e) s)) e))
      (schTarget e (setEntry e (firedEntry s e) s))) :
    t.mast.sched = tset {} (tset {} s.mast.sched e (firedEntry s e)) e (schNext s (firedEntry s e)) ∧
      t.scales.syncReq = (if (schEntry s e).target = 1 then (3, s.tai) :: s.scales.syncReq else s.scales.syncReq) ∧
      t.cap.ev = (if (schEntry s e).target = 2 then
        s.cap.ev ++ [{ src := 96 + (schEntry s e).arg, time := s.tai, level := true, edge := false }] else s.cap.ev) ∧
      t.mast.trig = s.mast.trig := by
  have hx := fired_entry s e
  generalize hy : setEntry e (firedEntry s e) s = y at h hx
  have h0 : (firedEntry s e).target = (schEntry s e).target ∧ (firedEntry s e).arg = (schEntry s e).arg := ⟨rfl, rfl⟩
  have hz : (schTarget e y).mast = y.mast ∧ (schTarget e y).tai = y.tai ∧
      (schTarget e y).scales.syncReq = (if (schEntry s e).target = 1 then (3, s.tai) :: s.scales.syncReq else s.scales.syncReq) ∧
      (schTarget e y).cap.ev = (if (schEntry s e).target = 2 then
        s.cap.ev ++ [{ src := 96 + (schEntry s e).arg, time := s.tai, level := true, edge := false }] else s.cap.ev) := by
    unfold schTarget
    dsimp only
    rw [hx, h0.1, h0.2]
    have hq : y.scales = s.scales ∧ y.cap = s.cap ∧ y.tai = s.tai := by subst hy; exact ⟨rfl, rfl, rfl⟩
    split
    · rename_i he; rw [if_pos he, if_neg (by omega)]; refine ⟨rfl, rfl, ?_, congrArg Capture.ev hq.2.1⟩
      show (3, y.tai) :: y.scales.syncReq = _
      rw [hq.1, hq.2.2]
    · rename_i he; rw [if_neg (by omega), if_pos he]; refine ⟨rfl, rfl, congrArg Scales.syncReq hq.1, ?_⟩
      show y.cap.ev ++ _ = _
      rw [hq.2.1, hq.2.2]
    · rename_i he; exact absurd he ht
    · rename_i h1 h2 h3
      rw [if_neg h1, if_neg h2]
      exact ⟨rfl, rfl, congrArg Scales.syncReq hq.1, congrArg Capture.ev hq.2.1⟩
  have hs : schEntry (schTarget e y) e = firedEntry s e := by unfold schEntry; rw [hz.1]; exact hx
  rw [hs] at h
  have hn : schNext (schTarget e y) (firedEntry s e) = schNext s (firedEntry s e) :=
    schNext_of (hz.2.1.trans (by subst hy; rfl)) (by rw [hz.1]; subst hy; rfl) _
  rw [hn] at h
  subst h
  refine ⟨?_, hz.2.2.1, hz.2.2.2, ?_⟩
  · show tset {} (schTarget e y).mast.sched e _ = _
    rw [hz.1]; subst hy; rfl
  · show (schTarget e y).mast.trig = _
    rw [hz.1]; subst hy; rfl
/-- A firing to the Deck with room in the trigger FIFO. -/
theorem post_facts (e : Nat) (s : State) (ht : (schEntry s e).target = 3) (hl : s.mast.trig.length < 32) (t : State)
    (h : t = setEntry e (schNext (schTarget e (setEntry e (firedEntry s e) s))
      (schEntry (schTarget e (setEntry e (firedEntry s e) s)) e))
      (schTarget e (setEntry e (firedEntry s e) s))) :
    t.mast.trig = s.mast.trig ++ [((schEntry s e).arg, s.tai)] ∧
      t.mast.sched = tset {} (tset {} s.mast.sched e (firedEntry s e)) e (schNext s (firedEntry s e)) := by
  have hx := fired_entry s e
  generalize hy : setEntry e (firedEntry s e) s = y at h hx
  have hz : schTarget e y = { y with mast := { y.mast with trig := y.mast.trig ++ [((schEntry s e).arg, s.tai)] } } := by
    unfold schTarget
    dsimp only
    rw [hx, show (firedEntry s e).target = 3 from ht]
    show (if _ then _ else _) = _
    rw [if_pos (by subst hy; exact hl)]
    subst hy; rfl
  have hs : schEntry (schTarget e y) e = firedEntry s e := by rw [hz]; exact hx
  rw [hs, schNext_of (s := s) (by rw [hz]; subst hy; rfl) (by rw [hz]; subst hy; rfl), hz] at h
  subst h
  subst hy
  exact ⟨rfl, rfl⟩
/-- A firing to the Deck with the trigger FIFO full. -/
theorem full_facts (e : Nat) (s : State) (hw : TablesWf s) (ht : (schEntry s e).target = 3) (hl : 32 ≤ s.mast.trig.length) (t : State)
    (h : t = setEntry e (schNext (schTarget e (setEntry e (firedEntry s e) s))
      (schEntry (schTarget e (setEntry e (firedEntry s e) s)) e))
      (schTarget e (setEntry e (firedEntry s e) s))) :
    t.mast.trig = s.mast.trig ∧ rdB t MST_INT 8 = true ∧ (schEntry t e).missed = true := by
  have hx := fired_entry s e
  generalize hy : setEntry e (firedEntry s e) s = y at h hx
  have hz : schTarget e y = raise MST_INT 8 (setEntry e { firedEntry s e with missed := true } y) := by
    unfold schTarget
    dsimp only
    rw [hx, show (firedEntry s e).target = 3 from ht]
    show (if _ then _ else _) = _
    rw [if_neg (by subst hy; exact Nat.not_lt.mpr hl)]
  have hs : schEntry (schTarget e y) e = { firedEntry s e with missed := true } := by
    rw [hz]
    unfold schEntry
    rw [raise_mast]
    exact tget_tset_value _ _ _ _ (by intro h; have : true = false := congrArg SchEntry.missed h; cases this)
  rw [hs] at h
  have hm : ∀ (u : State) (x : SchEntry), x.missed = true → (schNext u x).missed = true := by
    intro u x hx
    have ha : ∀ z : SchEntry, (schAdvance z).missed = z.missed := by
      intro z; unfold schAdvance; dsimp only; repeat' split
      all_goals rfl
    have hf : ∀ z : SchEntry, (firstFuture u z).missed = z.missed := by
      intro z; unfold firstFuture; dsimp only; split <;> rfl
    unfold schNext
    split
    · dsimp only
      split
      · rw [hf]; exact (ha x).trans hx
      · exact (ha x).trans hx
    · exact (ha x).trans hx
  subst h
  refine ⟨?_, ?_, ?_⟩
  · show (schTarget e y).mast.trig = _
    rw [hz, raise_mast]; subst hy; rfl
  · show rdB (schTarget e y) MST_INT 8 = true
    rw [hz]; exact rdB_raise_self (by subst hy; exact tables_of_eq hw rfl rfl) (by decide) (by decide)
  · have hk := hm (schTarget e y) _ (show ({ firedEntry s e with missed := true } : SchEntry).missed = true from rfl)
    unfold schEntry setEntry
    dsimp only
    rw [tget_tset_value]
    · exact hk
    · intro hh; rw [hh] at hk; cases hk

theorem irigFrame_mast (f : IrigFrame) (s : State) (hb : f.bcdOk = true) (he : f.ext = false ∨ f.parityOk = true) :
    (irigFrame f s).mast = { s.mast with irigAt := some s.ticks, irigStamp := some s.tai } := by
  unfold irigFrame
  rw [if_neg (by rcases he with he | he <;> simp [hb, he])]
  simp only [wr_mast]

theorem irigFrame_sec (f : IrigFrame) (y : Nat) (s : State) (hy : f.year = some y) (hw : TablesWf s) (hb : f.bcdOk = true) (he :
    f.ext = false ∨ f.parityOk = true) :
    rd (irigFrame f s) MST_IRIG_SEC = loWord (taiOfUtc s ((daysToYear y + (f.dayOfYear - 1)) * 86400 + f.secOfDay)) := by
  unfold irigFrame
  rw [if_neg (by rcases he with he | he <;> simp [hb, he])]
  dsimp only
  rw [rd_wr_ne _ _ _ _ (by decide), rd_wr_same _ _ _ (by exact tables_of_eq hw rfl rfl)]
  simp [hy]

theorem irigFrame_sec_cal (f : IrigFrame) (s : State) (hy : f.year = none) (hw : TablesWf s) (hb : f.bcdOk = true) (he : f.ext =
    false ∨ f.parityOk = true) :
    rd (irigFrame f s) MST_IRIG_SEC = loWord (taiOfUtc s ((daysToYear (calendarYear s) + (f.dayOfYear - 1)) * 86400 + f.secOfDay)) := by
  unfold irigFrame
  rw [if_neg (by rcases he with he | he <;> simp [hb, he])]
  dsimp only
  rw [rd_wr_ne _ _ _ _ (by decide), rd_wr_same _ _ _ (by exact tables_of_eq hw rfl rfl)]
  simp [hy]
/-- What the passage through the receive buffer keeps. -/
theorem rxBuffer_facts (p b k n : Nat) (s : State) (hw : TablesWf s) (hk : k ≠ cTX_PFC_FRAMES) (hl : k ≠ cTX_LPI_US) (hc : k ≠
    cPCS_BLOCK_ERR) :
    TablesWf (bufReach p b (if n = 0 then s else portCount p cPCS_BLOCK_ERR n s)) ∧
      liveCnt (bufReach p b (if n = 0 then s else portCount p cPCS_BLOCK_ERR n s)) (PRT_STAT p (2 * k)) = liveCnt s (PRT_STAT p (2 * k)) ∧
      (bufReach p b (if n = 0 then s else portCount p cPCS_BLOCK_ERR n s)).ing = s.ing := by
  have h : TablesWf (if n = 0 then s else portCount p cPCS_BLOCK_ERR n s) ∧ liveCnt (if n = 0 then s else portCount p cPCS_BLOCK_ERR n s) (PRT_STAT p (2 * k)) = liveCnt s (PRT_STAT p (2 * k)) ∧
      (if n = 0 then s else portCount p cPCS_BLOCK_ERR n s).ing = s.ing := by
    split
    · exact ⟨hw, rfl, rfl⟩
    · unfold portCount
      exact ⟨count_tables hw, live_count_other (by simp only [PRT_STAT]; unfold cPCS_BLOCK_ERR at *; omega), rfl⟩
  generalize (if n = 0 then s else portCount p cPCS_BLOCK_ERR n s) = u at h
  obtain ⟨h1, h2, h3⟩ := h
  exact ⟨(bufReach_keeps p b u (Keeps.refl u)).tables h1, (bufReach_lc p b k u hk hl).trans h2,
    ((bufReach_within p b u (Within.refl u) (List.Subset.refl _)).of .ing).trans h3⟩

theorem framePrio_lt (s : State) (p : Nat) (f : RxFrame) : framePrio s p f < 8 := by
  have hr : rdF s (PRT_CFG p) 16 3 < 8 := by unfold rdF field fieldN; omega
  unfold framePrio
  split
  · rename_i t ht
    split
    · exact hr
    · have := t.isLt; omega
  · exact hr
/-- The counters of a good frame leave those from 5 to 35 as they are. -/
theorem countGood_lc (p k : Nat) (f : RxFrame) (s : State) (h1 : 5 ≤ k) (h2 : k < 36) :
    liveCnt (countGood p f s) (PRT_STAT p (2 * k)) = liveCnt s (PRT_STAT p (2 * k)) := by
  have hp := framePrio_lt s p f
  have hc : ∀ c, c ≠ k → PRT_STAT p (2 * k) ≠ PRT_STAT p (2 * c) := by intro c hc; simp only [PRT_STAT]; omega
  have he : ∀ c, c < 5 → liveCnt (count (PRT_STAT p (2 * (cRX_PRIO0 + framePrio s p f))) 1 (count (PRT_STAT p (2 * c)) 1 (count (PRT_STAT p (2 * cRX_OCTETS_OK)) f.len (count (PRT_STAT p (2 * cRX_FRAMES_OK)) 1 s)))) (PRT_STAT p (2 * k)) = liveCnt s (PRT_STAT p (2 * k)) := by
    intro c h
    rw [live_count_other (hc _ (by unfold cRX_PRIO0; omega)), live_count_other (hc _ (by omega)), live_count_other (hc _ (by unfold cRX_OCTETS_OK; omega)), live_count_other (hc _ (by unfold cRX_FRAMES_OK; omega))]
  unfold countGood portCount
  cases f.da
  all_goals (dsimp only; split)
  all_goals first
    | exact he _ (by decide)
    | exact (live_count_other (hc _ (by unfold cRX_JUMBO; omega))).trans (he _ (by decide))

theorem port_setPort (p : Nat) (x : Port) (s : State) (h : x ≠ {}) : port (setPort p x s) p = x := tget_tset_value _ _ _ _ h

theorem leaveLpi_port (p : Nat) (s : State) (h : ∀ b w, { port s p with txLpi := b, wake := w } ≠ ({} : Port)) :
    ∃ b w, port (leaveTxLpi p s) p = { port s p with txLpi := b, wake := w } := by
  unfold leaveTxLpi
  dsimp only
  split
  · refine ⟨false, some s.ticks, ?_⟩
    exact port_setPort _ _ _ (h _ _)
  · exact ⟨_, _, rfl⟩
/-- The frames that wait in the port's buffer stay. -/
theorem bufReach_buf (p b : Nat) (s : State) (hb : 0 < b) : (port (bufReach p b s) p).buf = (port s p).buf := by
  have h1 : ({ port s p with peak := max (port s p).peak b } : Port) ≠ {} := by
    intro h
    have : max (port s p).peak b = 0 := congrArg Port.peak h
    omega
  have hp := port_setPort p _ s h1
  unfold bufReach
  dsimp only
  generalize setPort p { port s p with peak := max (port s p).peak b } s = t at hp
  split
  · have h2 : ({ port t p with xoff := true, xoffAt := s.ticks } : Port) ≠ {} := by
      intro h
      have : true = false := congrArg Port.xoff h
      cases this
    have hq := port_setPort p _ t h2
    unfold sendPfc sendPfcWith
    dsimp only
    generalize setPort p { port t p with xoff := true, xoffAt := s.ticks } t = u at hq
    obtain ⟨x, w, hx⟩ := leaveLpi_port p u (by
      rw [hq]
      intro b w h
      have : true = false := congrArg Port.xoff h
      cases this)
    have h3 : ({ port (leaveTxLpi p u) p with pfcAt := u.ticks } : Port) ≠ {} := by
      rw [hx, hq]
      intro h
      have : true = false := congrArg Port.xoff h
      cases this
    refine (congrArg Port.buf (port_setPort p _ (leaveTxLpi p u) h3)).trans ?_
    show (port (leaveTxLpi p u) p).buf = _
    rw [hx, hq, hp]
  · rw [hp]
/-- A frame that finds room in its pipeline's FIFO. -/
theorem toIngest_ing (i : IngItem) (v : State) (h1 : (fifo v (pipeOf v i.port)).length < 32) (h2 : (port v i.port).buf = []) :
    (toIngest i v).ing = { v.ing with fifo := tset [] v.ing.fifo (pipeOf v i.port) (fifo v (pipeOf v i.port) ++ [i]) } := by
  unfold toIngest
  dsimp only
  rw [if_pos ⟨h1, h2⟩]
  split
  · rw [raise_ing]; rfl
  · rfl

theorem pipeOf_of {s t : State} (h1 : t.cfg = s.cfg) (h2 : t.regs = s.regs) (p : Nat) : pipeOf t p = pipeOf s p := by
  unfold pipeOf pipeCount isM4k rdF
  rw [h1, rd_of_regs h2]
/-- A good SV frame for the port enters its pipeline's FIFO. -/
theorem rxFrame_ingest (p : Nat) (f : RxFrame) (s : State) (hk : f.kind = .sv) (hda : f.da = .port) (hv : f.tci = none)
    (hbuf : (port s p).buf = []) (hf : (fifo s (pipeOf s p)).length < 32) (b n : Nat) (hpos : 0 < b) :
    (classify p f (countGood p f (bufReach p b (if n = 0 then s else portCount p cPCS_BLOCK_ERR n s)))).ing = { s.ing with
      order := s.ing.order + 1,
      fifo := tset [] s.ing.fifo (pipeOf s p) (fifo s (pipeOf s p) ++
        [⟨p, s.tai, s.ing.order, f.len, rdF s (PRT_CFG p) 16 3, none, ingestBody f, f.bytes.map BitVec.toNat⟩]) } := by
  have w1 : Within [.live, .ports, .out] s (bufReach p b (if n = 0 then s else portCount p cPCS_BLOCK_ERR n s)) :=
    bufReach_within _ _ _ (by split; exact Within.refl s; exact portCount_within _ _ _ _ (Within.refl s) (by decide)) (by decide)
  have w := countGood_within p f _ w1 (L := [.live, .ports, .out]) (by decide)
  have hb : (port (countGood p f (bufReach p b (if n = 0 then s else portCount p cPCS_BLOCK_ERR n s))) p).buf = [] := by
    have h1 : (countGood p f (bufReach p b (if n = 0 then s else portCount p cPCS_BLOCK_ERR n s))).ports = (bufReach p b (if n = 0 then s else portCount p cPCS_BLOCK_ERR n s)).ports :=
      (countGood_within p f _ (Within.refl _) (List.Subset.refl _)).of .ports
    unfold port
    rw [h1]
    refine (bufReach_buf p b _ hpos).trans ?_
    split <;> exact hbuf
  generalize countGood p f (bufReach p b (if n = 0 then s else portCount p cPCS_BLOCK_ERR n s)) = u at *
  unfold classify
  rw [hk]
  dsimp only
  have ha : daAccepted u f = true := by unfold daAccepted; rw [hda]
  have hvv : vidAccepted u p f = true := by unfold vidAccepted; rw [hv]
  rw [ha, hvv, if_neg (by decide), if_neg (by decide), if_pos (show goesToIngest u .sv = true from rfl)]
  have hp : framePrio u p f = rdF s (PRT_CFG p) 16 3 := by unfold framePrio rdF; rw [hv]; exact congrArg (fun x => field x 16 3) (rd_of_regs (w.of .regs) _)
  have hpo : pipeOf (portCount p cRX_TO_INGEST 1 { u with ing := { u.ing with order := u.ing.order + 1 } }) p = pipeOf s p :=
    pipeOf_of (by exact w.of .cfg) (by exact w.of .regs) p
  have hfi : fifo (portCount p cRX_TO_INGEST 1 { u with ing := { u.ing with order := u.ing.order + 1 } }) (pipeOf s p) = fifo s (pipeOf s p) := by
    show tget [] u.ing.fifo _ = _
    rw [w.of .ing]; rfl
  rw [toIngest_ing _ _ (by dsimp only; rw [hpo, hfi]; exact hf) (by exact hb)]
  dsimp only
  rw [hpo, hfi, hp, w.of .tai, hv]
  show ({ u.ing with order := u.ing.order + 1, fifo := tset [] u.ing.fifo _ (_ ++ [⟨p, s.tai, u.ing.order, _, _, _, _, _⟩]) } : Ingest) = _
  rw [w.of .ing]

/-- A good frame of one buffer goes to the ring. -/
theorem rxFrame_ring (p : Fin 64) (f : RxFrame) (s : State) (hw : TablesWf s) (hk : f.kind = .other) (hda : f.da = .port) (hv :
    f.tci = none)
    (hr : ringOn s p.val = true) (hroom : ringRoom s p.val ≠ 0) (h1 : f.len ≤ 2048) (h2 : 64 ≤ f.len) (b n : Nat) :
    rd (classify p.val f (countGood p.val f (bufReach p.val b (if n = 0 then s else portCount p.val cPCS_BLOCK_ERR n s)))) (PRT_RX_HEAD p.val) =
        wordOf ((ringHead s p.val + 1) % 512) ∧
      liveCnt (classify p.val f (countGood p.val f (bufReach p.val b (if n = 0 then s else portCount p.val cPCS_BLOCK_ERR n s)))) (PRT_STAT p.val 12) =
        (liveCnt s (PRT_STAT p.val 12) + 1) % 2 ^ 64 := by
  obtain ⟨x1, x2, _⟩ := rxBuffer_facts p.val b 6 n s hw (by decide) (by decide) (by decide)
  have w1 : Within [.live, .ports, .out] s (bufReach p.val b (if n = 0 then s else portCount p.val cPCS_BLOCK_ERR n s)) :=
    bufReach_within _ _ _ (by split; exact Within.refl s; exact portCount_within _ _ _ _ (Within.refl s) (by decide)) (by decide)
  have w := countGood_within p.val f _ w1 (L := [.live, .ports, .out]) (by decide)
  have hl := (countGood_lc p.val 6 f (bufReach p.val b (if n = 0 then s else portCount p.val cPCS_BLOCK_ERR n s)) (by decide) (by decide)).trans x2
  have hx := (countGood_keeps p.val f _ (Keeps.refl (bufReach p.val b (if n = 0 then s else portCount p.val cPCS_BLOCK_ERR n s)))).tables x1
  generalize countGood p.val f (bufReach p.val b (if n = 0 then s else portCount p.val cPCS_BLOCK_ERR n s)) = u at *
  have ha : daAccepted u f = true := by unfold daAccepted; rw [hda]
  have hvv : vidAccepted u p.val f = true := by unfold vidAccepted; rw [hv]
  have hre : ∀ a, rd u a = rd s a := fun a => rd_of_regs (w.of .regs) a
  have hon : ringOn u p.val = true := by unfold ringOn rdB at *; rw [hre]; exact hr
  have hhead : ringHead u p.val = ringHead s p.val := by unfold ringHead rdF; rw [hre]
  have hro : ringRoom u p.val = ringRoom s p.val := by unfold ringRoom ringTail rdF; rw [hhead, hre]
  have hd : divUp f.len 2048 = 1 := by unfold divUp; omega
  unfold classify
  rw [hk]
  dsimp only
  rw [ha, hvv, if_neg (by decide), if_neg (by decide), if_neg (by simp [goesToIngest]), if_neg (by simp [isPtp])]
  unfold toRing
  rw [hon, hro, if_neg (by simp [hroom]), hd]
  dsimp only
  rw [show min 1 (ringRoom s p.val) = 1 by omega, if_pos rfl]
  have hq : ∀ (v : State) (a b c d : Nat) (l : List Nat), rd (putDesc p.val a b c l v) (PRT_RX_HEAD p.val) = wordOf ((ringHead v p.val + 1) % 512) ∨ ¬ TablesWf v := by
    intro v a b c d l
    by_cases hv : TablesWf v
    · left; unfold putDesc; exact rd_wr_same _ _ _ (tables_of_eq hv rfl rfl)
    · exact .inr hv
  generalize hz : portCount p.val cRX_TO_RING 1 u = z
  have hzr : z.regs = u.regs := by subst hz; rfl
  have hzl : liveCnt z (PRT_STAT p.val 12) = (liveCnt u (PRT_STAT p.val 12) + 1) % 2 ^ 64 := by subst hz; exact live_count_self hx
  have hzw : TablesWf z := by subst hz; exact count_tables hx
  have hready : ∀ v : State, rd (rxReady p.val v) (PRT_RX_HEAD p.val) = rd v (PRT_RX_HEAD p.val) ∧ liveCnt (rxReady p.val v) (PRT_STAT p.val 12) = liveCnt v (PRT_STAT p.val 12) := by
    intro v
    refine ⟨?_, live_of_eq ((rxReady_within p.val v (Within.refl v) (List.Subset.refl _)).of .live) _⟩
    unfold rxReady
    split
    · exact rd_raise_ne _ _ _ _ (by simp only [PRT_RX_HEAD, PRT_INT]; omega) (by simp only [PRT_RX_HEAD, CTL_INT]; omega)
    · split <;> rfl
  rw [(hready _).1, (hready _).2]
  unfold putFrame forUpTo
  rw [show List.range 1 = [0] from rfl]
  dsimp only [List.foldl]
  refine ⟨?_, ?_⟩
  · refine ((hq z _ _ _ 0 _).resolve_right (fun x => x hzw)).trans ?_
    unfold ringHead rdF at *
    rw [rd_of_regs hzr]
    rw [hhead]
  · unfold putDesc
    refine (live_of_eq (s := z) rfl _).trans (hzl.trans ?_)
    rw [hl]

theorem raise_out' (a k : Nat) (s : State) : s.out <+: (raise a k s).out := (raise_keeps a k s (Keeps.refl s)).out
/-- A snapshot takes the counter's time. -/
theorem snapPort_time (clr : Bool) (p : Fin 64) (s u : State) (h1 : u.tai = s.tai) (h2 : u.ticks = s.ticks) (hw : TablesWf u) :
    rd (snapPort clr p.val u) (PRT_SNAP_SEC p.val) = loWord (taiSec s) ∧ rd (snapPort clr p.val u) (PRT_SNAP_NS p.val) = wordOf (taiNs s) ∧
      rdB (snapPort clr p.val u) (PRT_INT p.val) 8 = true := by
  have e1 : taiSec u = taiSec s := by unfold taiSec; rw [h1]
  have e2 : taiNs u = taiNs s := by unfold taiNs; rw [h1]
  unfold snapPort
  dsimp only
  rw [e1, e2]
  have hx : TablesWf (wr64 (PRT_STAT p.val (2 * cRX_BUF_PEAK)) (port u p.val).peak (snapshot (PRT_STAT p.val 0) 48 (PRT_SNAP_SEQ p.val) clr (settleUs p.val u))) :=
    (wr64_keeps _ _ _ (snapshot_keeps _ _ _ _ _ (settleUs_keeps _ _ (Keeps.refl u)))).tables hw
  generalize wr64 (PRT_STAT p.val (2 * cRX_BUF_PEAK)) (port u p.val).peak (snapshot (PRT_STAT p.val 0) 48 (PRT_SNAP_SEQ p.val) clr (settleUs p.val u)) = y at hx
  have hr : ∀ v : State, v.regs = (wr (PRT_SNAP_SEC p.val) (loWord (taiSec s)) (wr (PRT_SNAP_NS p.val) (wordOf (taiNs s)) y)).regs → TablesWf v →
      rd (raise (PRT_INT p.val) 8 v) (PRT_SNAP_SEC p.val) = loWord (taiSec s) ∧ rd (raise (PRT_INT p.val) 8 v) (PRT_SNAP_NS p.val) = wordOf (taiNs s) ∧
        rdB (raise (PRT_INT p.val) 8 v) (PRT_INT p.val) 8 = true := by
    intro v hv hvw
    have hp := p.isLt
    refine ⟨?_, ?_, rdB_raise_self hvw (by simp only [PRT_INT, CTL_INT, ne_eq]; omega) (by decide)⟩
    · rw [rd_raise_ne _ _ _ _ (by simp only [PRT_INT, PRT_SNAP_SEC, ne_eq]; omega) (by simp only [CTL_INT, PRT_SNAP_SEC, ne_eq]; omega), rd_of_regs hv, rd_wr_same _ _ _ (wr_tables hx)]
    · rw [rd_raise_ne _ _ _ _ (by simp only [PRT_INT, PRT_SNAP_NS, ne_eq]; omega) (by simp only [CTL_INT, PRT_SNAP_NS, ne_eq]; omega), rd_of_regs hv,
        rd_wr_ne _ _ _ _ (by simp only [PRT_SNAP_SEC, PRT_SNAP_NS, ne_eq]; omega), rd_wr_same _ _ _ hx]
  split
  · exact hr _ rfl (by exact tables_of_eq (wr_tables (wr_tables hx)) rfl rfl)
  · exact hr _ rfl (wr_tables (wr_tables hx))

theorem badFrame_len {s : State} {p : Nat} {f : RxFrame} (h : badFrame s p f = none) : 64 ≤ f.len := by
  unfold badFrame at h
  split at h
  · cases h
  · split at h
    · cases h
    · split at h
      · cases h
      · omega

theorem leaveLpi_off {p : Nat} {s : State} (h : (port s p).txLpi = false) : leaveTxLpi p s = s := by
  unfold leaveTxLpi
  dsimp only
  rw [if_neg (by simp [h])]

theorem snapAll_fresh (clr : Bool) (u : State) (hn : ∀ t c, u.mast.snapAll = some (t, c) → t ≠ u.ticks) :
    snapAllPorts clr u = forUpTo 64 (snapPort clr) { u with mast := { u.mast with snapAll := some (u.ticks, clr) } } := by
  unfold snapAllPorts
  split
  · rename_i t c e
    rw [if_neg (hn t c e)]
  · rfl

theorem snapAll_again (clr c : Bool) (u : State) (hn : u.mast.snapAll = some (u.ticks, c)) :
    snapAllPorts clr u = if clr && !c then forUpTo 64 clearPort { u with mast := { u.mast with snapAll := some (u.ticks, true) } } else u := by
  unfold snapAllPorts
  rw [hn]
  dsimp only
  rw [if_pos rfl]

theorem qLand_queue (q : Nat) (i : QItem) (s : State) :
    queue (qLand q i s) q = { queue s q with items := (queue s q).items ++ [i] } := by
  have h0 : ∀ u : State, queue (countFrame i.stream u) q = queue u q := by intro u; cases i.stream <;> rfl
  have h1 : ∀ (p : Nat) (u : State), queue (leaveTxLpi p u) q = queue u q := by
    intro p u; unfold leaveTxLpi; dsimp only; split <;> rfl
  have h2 : ∀ (a k : Nat) (u : State), queue (raise a k u) q = queue u q := by
    intro a k u; unfold queue; rw [raise_egr]
  have h3 : ∀ x : Queue, x ≠ {} → queue (setQueue q x s) q = x := fun x h => tget_tset_value _ _ _ _ h
  have h4 := h3 { queue s q with items := (queue s q).items ++ [i] } (by intro h; have := congrArg Queue.items h; simp at this)
  unfold qLand
  dsimp only
  split <;> split <;> simp only [h0, h1, h2, h4]

theorem bellWrite_bell (k : Fin 8) (v : Nat) (s : State) (hw : TablesWf s) (ha : adaptive s k.val = true) :
    rd (bellWrite k.val v s) (MKT_CLS_BELL k.val) = wordOf (clampNat (rdF s (MKT_CLS_LIM k.val) 0 16) (rdF s (MKT_CLS_LIM k.val) 16 16) v) := by
  have h : ∀ c, rd (wrF (MKT_CLS_STAT k.val) 16 2 c (wr (MKT_CLS_BELL k.val) (wordOf (clampNat (rdF s (MKT_CLS_LIM k.val) 0 16) (rdF s (MKT_CLS_LIM k.val) 16 16) v)) s)) (MKT_CLS_BELL k.val) =
      wordOf (clampNat (rdF s (MKT_CLS_LIM k.val) 0 16) (rdF s (MKT_CLS_LIM k.val) 16 16) v) := fun c => by
    unfold wrF
    rw [rd_wr_ne _ _ _ _ (by simp only [MKT_CLS_BELL, MKT_CLS_STAT, ne_eq]; omega), rd_wr_same _ _ _ hw]
  unfold bellWrite
  dsimp only
  rw [if_neg (by simp [ha])]
  generalize (if v < rdF s (MKT_CLS_LIM k.val) 0 16 then 1 else if rdF s (MKT_CLS_LIM k.val) 16 16 < v then 2 else 0) = c
  split
  · exact h c
  · rw [rd_raise_ne _ _ _ _ (by simp only [MKT_CLS_BELL, MKT_INT, ne_eq]; omega) (by simp only [MKT_CLS_BELL, CTL_INT, ne_eq]; omega)]
    exact h c

theorem clsLoad_rd (s : State) (a : Nat) (h : a < MKT_CLS_COUNT) : rd (clsLoad s) a = rd s a := by
  unfold clsLoad
  refine (foldl_keep (fun u => rd u a) _ _ _ (fun u j => rd_wr_ne _ _ _ _ ?_)).trans (rd_wr_ne _ _ _ _ (by omega))
  simp only [MKT_CLS_HIST, MKT_CLS_COUNT] at *; omega

theorem clsLoad_mkt (s : State) : (clsLoad s).mkt = s.mkt := (clsLoad_within _ (Within.refl _) (List.Subset.refl _)).of .mkt

theorem clsLoad_tw {s : State} (h : TablesWf s) : TablesWf (clsLoad s) := (clsLoad_keeps s (Keeps.refl s)).tables h

theorem closeOverdue_none (s : State) (h : ∀ k, (meter s k).closing = none) : closeOverdue s = s := by
  have : ∀ (l : List Nat), l.foldl (fun t k =>
    match (meter t k).closing with
    | some c => if c.wrap + taiSecUnit ≤ t.tai then writeClosing k t else t
    | none => t) s = s := by
    intro l
    induction l with
    | nil => rfl
    | cons a l ih =>
      rw [List.foldl_cons]
      have : (match (meter s a).closing with
        | some c => if c.wrap + taiSecUnit ≤ s.tai then writeClosing a s else s
        | none => s) = s := by rw [h a]
      simp only [h a]
      exact ih
  exact this _

theorem newestSlot_eq {s t : State} (h : t.scales.en.saves = s.scales.en.saves) : newestSlot t = newestSlot s := by
  unfold newestSlot goodSave; rw [h]

theorem saveContent_eq (b : Bool) {s t : State} (h : t.scales.en.saves = s.scales.en.saves) (h1 : t.scales.en.lastTag =
    s.scales.en.lastTag)
    (h2 : t.scales.en.lastMean = s.scales.en.lastMean) (h3 : t.scales.en.points = s.scales.en.points) (h4 : rd t SCL_EN_CFG = rd s SCL_EN_CFG) :
    saveContent b t = saveContent b s := by
  have hm : ∀ k, meter t k = meter s k := by intro k; unfold meter; rw [h3]
  have hp : enabledPoints t = enabledPoints s := by unfold enabledPoints rdB; rw [h4]
  unfold saveContent newestSave
  simp only [newestSlot_eq h, h1, h2, hm, hp]

theorem saveContent_seq (b : Bool) (s : State) : (saveContent b s).seq < 2 ^ 24 := by
  show (match newestSave s with
    | some x => (x.seq + 1) % 2 ^ 24
    | none => 1) < 2 ^ 24
  split
  · exact Nat.mod_lt _ (by decide)
  · decide

theorem closeOverdue_wait (s : State) (h : ∀ k c, (meter s k).closing = some c → s.tai < c.wrap + taiSecUnit) : closeOverdue s = s
    := by
  have : ∀ (l : List Nat), l.foldl (fun t k =>
    match (meter t k).closing with
    | some c => if c.wrap + taiSecUnit ≤ t.tai then writeClosing k t else t
    | none => t) s = s := by
    intro l
    induction l with
    | nil => rfl
    | cons a l ih =>
      rw [List.foldl_cons]
      cases hc : (meter s a).closing with
      | none => exact ih
      | some c =>
        have := h a c hc
        simp only [hc, if_neg (Nat.not_le.mpr this)]
        exact ih
  exact this _

theorem raise_egr_if (c : Prop) [Decidable c] (a k : Nat) (u : State) : (if c then raise a k u else u).egr = u.egr := by
  split
  · rw [raise_egr]
  · rfl

theorem countFrame_next (k : Option Nat) (u : State) : (countFrame k u).egr.nextId = u.egr.nextId := by cases k <;> rfl

theorem leaveLpi_egr (p : Nat) (u : State) : (leaveTxLpi p u).egr = u.egr := by
  unfold leaveTxLpi; dsimp only; split <;> rfl

theorem qLand_next (q : Nat) (i : QItem) (s : State) : (qLand q i s).egr.nextId = s.egr.nextId := by
  unfold qLand
  dsimp only
  rw [raise_egr_if]
  split
  · rw [countFrame_next]; rfl
  · rw [leaveLpi_egr, countFrame_next]; rfl

theorem queue_setQueue (q : Nat) (x : Queue) (s : State) (h : twf ({} : Queue) s.egr.queues = true) : queue (setQueue q x s) q = x :=
  mapGet_mapSet_same _ _ _ _ h

theorem itemFrame_eq {s t : State} (i : QItem) (h : t.cfg = s.cfg) (h1 : t.tai = s.tai) : itemFrame t i = itemFrame s i := by
  unfold itemFrame pubCfg outCfg
  rw [h, h1]

theorem sendItem_sent (p : Nat) (i : QItem) (s : State) (h : isMuted s = false) (h1 : keyFails s i = false) :
    (port (sendItem p i s) p).tx = some (itemFrame s i) ∧ (port (sendItem p i s) p).txStamp = s.tai := by
  unfold sendItem
  rw [if_neg (by rw [h]; decide), if_neg (by rw [h1]; decide)]
  dsimp only
  rw [port_setPort _ _ _ (by intro hx; have := congrArg Port.tx hx; simp at this)]
  refine ⟨congrArg some (itemFrame_eq i ?_ ?_), rfl⟩
  · unfold leaveTxLpi; dsimp only; split <;> rfl
  · unfold leaveTxLpi; dsimp only; split <;> rfl

theorem compose_lands (q prio len : Nat) (al : Bool) (o : Option Nat) (x : TxBody) (s : State) (h : qUsed s q = true) (h1 : qFull
    s q len = false)
    (h2 : s.egr.waits.all (fun w => decide (w.1 ≠ q)) = true) :
    compose q prio len al o x s = qLand q { ident := s.egr.nextId, prio := prio, len := len, body := x, stream := o } (nextItem s) := by
  unfold compose
  dsimp only
  rw [if_neg (by rw [h]; decide), if_neg]
  rw [h1, Bool.false_or]
  intro hx
  rw [List.any_eq_true] at hx
  rw [List.all_eq_true] at h2
  obtain ⟨w, hw, hy⟩ := hx
  have := h2 w hw
  simp_all

theorem isMuted_egr (e : Egress) (s : State) : isMuted { s with egr := e } = isMuted s := rfl

theorem keyFails_egr (e : Egress) (s : State) (i : QItem) : keyFails { s with egr := e } i = keyFails s i := by
  unfold keyFails pubCfg
  rfl

theorem txStart_send (p c : Nat) (i : QItem) (s : State) (h : portOn s p = true ∧ (port s p).linkUp = true ∧ (port s p).tx = none
    ∧ wakeDone s p = true ∧ classTurn s p c = true)
    (h5 : qFirst (queue s (nextQueue (classQueues s p c) (tget 32 s.egr.rr (8 * p + c)))).items = some i) :
    ∃ e : Egress, txStart p c s = sendItem p i { s with egr := e } := by
  unfold txStart
  dsimp only
  rw [if_pos h, h5]
  exact ⟨_, rfl⟩

theorem laneCount_live (ch lane : Nat) (s : State) : (laneCount ch lane s).live = s.live := by
  unfold laneCount
  dsimp only
  split
  · rw [logEvent_live, raise_live]; rfl
  · rfl

theorem unitCount_live (r a : Nat) (s : State) : (unitCount r a s).live = s.live := by
  unfold unitCount
  dsimp only
  split
  · rfl
  · split
    · rw [raise_live]; rfl
    · rfl

theorem noteUe_facts (region : Fin 15) (addr : Nat) (s : State) (hw : TablesWf s) :
    liveCnt (noteUe region.val addr s) (MEM_CNT region.val 2) = (liveCnt s (MEM_CNT region.val 2) + 1) % 2 ^ 64 ∧
      rd (noteUe region.val addr s) MEM_UE_ADDR_LO = loWord addr ∧ rdB (noteUe region.val addr s) MEM_INT 1 = true ∧
      (noteUe region.val addr s).mem = s.mem := by
  unfold noteUe
  dsimp only
  have hx : TablesWf (raise MEM_INT 1 (count (MEM_CNT region.val 2) 1 s)) := raise_tables (count_tables hw)
  have hi : rdB (raise MEM_INT 1 (count (MEM_CNT region.val 2) 1 s)) MEM_INT 1 = true := rdB_raise_self (count_tables hw) (by decide) (by decide)
  have hl : liveCnt (raise MEM_INT 1 (count (MEM_CNT region.val 2) 1 s)) (MEM_CNT region.val 2) = (liveCnt s (MEM_CNT region.val 2) + 1) % 2 ^ 64 := by
    rw [live_of_eq (raise_live _ _ _)]; exact live_count_self hw
  have hm : (raise MEM_INT 1 (count (MEM_CNT region.val 2) 1 s)).mem = s.mem := by rw [raise_mem]; rfl
  generalize raise MEM_INT 1 (count (MEM_CNT region.val 2) 1 s) = u at *
  have key : ∀ w : State, w = wr MEM_UE_ADDR_HI (wordOf (addr / 2 ^ 32 + 2 ^ 8 * region.val)) (wr MEM_UE_ADDR_LO (loWord addr) u) →
      liveCnt w (MEM_CNT region.val 2) = (liveCnt s (MEM_CNT region.val 2) + 1) % 2 ^ 64 ∧ rd w MEM_UE_ADDR_LO = loWord addr ∧ rdB w MEM_INT 1 = true ∧ w.mem = s.mem := by
    intro w e
    subst e
    refine ⟨(live_of_eq rfl _).trans hl, ?_, ?_, hm⟩
    · rw [rd_wr_ne _ _ _ _ (by decide), rd_wr_same _ _ _ hx]
    · rw [rdB_wr_other, rdB_wr_other]; exact hi
  split
  · exact key _ rfl
  · obtain ⟨a, b, c, d⟩ := key _ rfl
    refine ⟨?_, ?_, ?_, ?_⟩
    · rw [live_of_eq (logEvent_live _ _ _ _ _ _)]; exact a
    · rw [rd_logEvent_low]; exact b
    · rw [rdB_logEvent_low]; exact c
    · rw [logEvent_mem]; exact d

theorem consequence_none (r : Nat) (s : State) : consequence r .none s = s := by
  unfold consequence; split <;> rfl

theorem logWrite_appends (r : LRec) (s : State) (h : s.ledger.log.length < 98304) :
    (logWrite r s).ledger = { s.ledger with
      log := s.ledger.log ++ [{ r with seq := nextSeq s, epoch := nextEpoch s, frozen := false }], seq := nextSeq s, epoch := nextEpoch s } := by
  have e : (logWrite r s).ledger = (logAppend r s).ledger := by unfold logWrite logSize; rw [if_pos h]
  rw [e]
  unfold logAppend
  dsimp only
  split
  · rw [raise_ledger]; rfl
  · rfl

theorem isPair_ledger (f : Ledger → Ledger) (s : State) : isPair (setLedger f s) = isPair s := rfl

theorem logWrite_pair (r : LRec) (s : State) (h : isPair s = false) (hl : s.ledger.log.length < 98304) : isPair (logWrite r s) =
    false := by
  have e : logWrite r s = logAppend r s := by unfold logWrite logSize; rw [if_pos hl]
  rw [e]
  unfold logAppend
  dsimp only
  split
  · unfold isPair rdF
    rw [rd_raise_ne _ _ _ _ (by decide) (by decide)]
    exact h
  · exact h

theorem mirror_none (rs : List LRec) (u : State) (h : isPair u = false) : mirrorRecords rs u = u := by
  unfold mirrorRecords; rw [h]; rfl

theorem writeBits_sentry (a : Nat) (rw clr v : Word) (s : State) : (writeBits a rw clr v s).sentry = s.sentry := by
  unfold writeBits
  obtain h | h | h := vectorEdge_cases (vectorOf a) s (wr a (((rd s a &&& ~~~rw) ||| (v &&& rw)) &&& ~~~clr) s) <;> rw [h] <;> rfl

theorem posts_sentry (s : State) : (sentryPosts s).sentry = { s.sentry with shadow := sentryWords s, posted := [] } := by
  unfold sentryPosts
  have h : ∀ (l : List (Nat × Word × Word × Word)) (t : State),
      (l.foldl (fun t w => if postedReg w.1 then writeBits w.1 w.2.1 w.2.2.1 w.2.2.2 t else t) t).sentry = t.sentry := by
    intro l
    induction l with
    | nil => intro t; rfl
    | cons w l ih =>
      intro t
      rw [List.foldl_cons, ih]
      split
      · exact writeBits_sentry _ _ _ _ _
      · rfl
  rw [h]
  rfl

theorem sentryPosts_nil (s : State) (h : s.sentry.posted = []) : sentryPosts s =
    { s with sentry := { s.sentry with shadow := sentryWords s, posted := [] } } := by
  unfold sentryPosts
  rw [h]
  rfl

theorem refTake_none (s : State) (h : s.sentry.latchPend = false) : refTake s = s := by
  unfold refTake
  rw [if_pos (by rw [h]; rfl)]

theorem shroudRx_kept_at (l : Fin 2) (h : ShroudHdr) (bulk : Bool) (f : State → State) (s : State) (h1 : isPair s = true)
    (h2 : (shroud s l.val).up = true) (h3 : h.parityOk = true) (h4 : h.crcOk = true) (h5 : h.pairId.toNat = pairId s) :
    ∃ u, LinksOnly s u ∧ u.ticks = s.ticks ∧ LinksOnly (f u) (shroudRx l h bulk f s) := by
  refine ⟨creditsBack l.val h.credits.toNat (setShroud l.val { shroud s l.val with owed := (shroud s l.val).owed + creditsOf h.len.toNat } s), (linksOnly_setShroud _ _ _).trans (linksOnly_creditsBack _ _ _),
    (creditsBack_within _ _ _ (Within.refl _) (List.Subset.refl _)).of .ticks, ?_⟩
  unfold shroudRx
  dsimp only
  rw [if_neg (by rw [h1, h2]; decide), if_pos ⟨h3, h4, h5⟩]
  split
  · exact linksOnly_creditSend _ _
  · exact .refl _
/-- A kept heartbeat acts on a state that differs from the one before in the links and in the tick of the last heartbeat. -/
theorem rx_heartbeat (l : Fin 2) (h : ShroudHdr) (hb : Heartbeat) (s : State) (h1 : isPair s = true)
    (h2 : (shroud s l.val).up = true) (h3 : h.parityOk = true) (h4 : h.crcOk = true) (h5 : h.pairId.toNat = pairId s) :
    ∃ v L, v.regs = s.regs ∧ v.live = s.live ∧ v.pair = { s.pair with links := L, hbRxAt := s.ticks } ∧ v.ticks = s.ticks ∧
      LinksOnly (if (shrCount 1 1 v).pair.peerSeen ∧ atOrAfter32 (rd (shrCount 1 1 v) (SHR_PEER_W 0)).toNat hb.seq.toNat then shrCount 1 1 v
        else hbTriggers (rd (shrCount 1 1 v) (SHR_PEER_W 1)) hb.flags (confirmLease hb (dualActive hb
          (peerSeen (wrWords (SHR_PEER_W 0) [hb.seq, hb.flags, hb.epoch, hb.image] (shrCount 1 1 v)))))) (shroudRx l h false (heartbeatIn hb) s) := by
  obtain ⟨u, hu, ht, hf⟩ := shroudRx_kept_at l h false (heartbeatIn hb) s h1 h2 h3 h4 h5
  obtain ⟨ua, ub, _, _, _, _, _, M, hM⟩ := hu
  refine ⟨setPair (fun p => { p with hbRxAt := u.ticks }) u, M, ua, ub, ?_, ht, hf⟩
  show ({ u.pair with hbRxAt := u.ticks } : Pair) = _
  rw [hM, ht]

theorem find_lastN {α : Type} (p : α → Bool) (ts : List α) (x : α) (k : Nat) (hk : 0 < k) (h : ts.find? p = none) (hx : p x = true) :
    (lastN k (ts ++ [x])).find? p = some x := by
  unfold lastN
  rw [List.length_append, List.length_singleton, show ts.length + 1 - k = ts.length - (k - 1) by omega, List.drop_append_of_le_length (by omega), List.find?_append]
  have : (ts.drop (ts.length - (k - 1))).find? p = none := by
    rw [List.find?_eq_none] at *
    intro y hy
    exact h y (List.mem_of_mem_drop hy)
  rw [this]
  simp [hx]

theorem digCompare_waits (inst : Nat) (u : State) (h : u.pair.own.find? (fun d => decide (d.1 = inst)) = none) : digCompare inst u
    = u := by
  unfold digCompare
  rw [h]

theorem digestIn_waits (e : DigestEntry) (u : State) (ms : List (Nat × Nat)) (hms : lastN 4096 (u.pair.theirs ++
    [(e.instant.toNat, e.digest.toNat)]) = ms)
    (h : u.pair.own.find? (fun d => decide (d.1 = e.instant.toNat)) = none) : (digestIn e u).pair = { u.pair with theirs := ms } := by
  have hd := digestIn_eq e u
  rw [hms, digCompare_waits _ _ (by exact h)] at hd
  rw [hd]

theorem digCompare_meets (inst x : Nat) (a : Nat × Nat × Nat) (u : State) (h : u.pair.own.find? (fun d => decide (d.1 = inst)) =
    some a)
    (ht : u.pair.theirs.find? (fun d => decide (d.1 = inst)) = some (inst, x)) :
    (digCompare inst u).pair.own = u.pair.own.filter (fun d => decide (d.1 ≠ inst)) ∧
      (digCompare inst u).pair.theirs = u.pair.theirs.filter (fun d => decide (d.1 ≠ inst)) ∧
      (digCompare inst u).pair.marks = lastN 256 (u.pair.marks ++ [if a.2.2 + 500000000 ≤ u.ticks then 2 else if a.2.1 = x then 0 else 1]) := by
  unfold digCompare digLate
  rw [h, ht]
  dsimp only
  simp only [decide_eq_true_eq]
  generalize (if a.2.2 + 500000000 ≤ u.ticks then 2 else if a.2.1 = x then 0 else 1) = k
  obtain ⟨x, y, z⟩ := digOutcome_parts k (setPair (fun p => { p with own := p.own.filter (fun d => decide (d.1 ≠ inst)), theirs := p.theirs.filter (fun d => decide (d.1 ≠ inst)) }) u)
  exact ⟨x, y, z⟩

theorem digestIn_meets (e : DigestEntry) (a : Nat × Nat × Nat) (u : State) (ms : List (Nat × Nat)) (hms : lastN 4096
    (u.pair.theirs ++ [(e.instant.toNat, e.digest.toNat)]) = ms)
    (h : u.pair.own.find? (fun d => decide (d.1 = e.instant.toNat)) = some a) (hf : ms.find? (fun d => decide (d.1 = e.instant.toNat)) = some (e.instant.toNat, e.digest.toNat)) :
    (digestIn e u).pair.own = u.pair.own.filter (fun d => decide (d.1 ≠ e.instant.toNat)) ∧
      (digestIn e u).pair.theirs = ms.filter (fun d => decide (d.1 ≠ e.instant.toNat)) ∧
      (digestIn e u).pair.marks = lastN 256 (u.pair.marks ++ [if a.2.2 + 500000000 ≤ u.ticks then 2 else if a.2.1 = e.digest.toNat then 0 else 1]) := by
  have hd := digestIn_eq e u
  rw [hms] at hd
  rw [hd]
  exact digCompare_meets _ _ _ { u with pair := { u.pair with theirs := ms } } h hf

theorem shroudRx_kept_ledger (l : Fin 2) (h : ShroudHdr) (bulk : Bool) (f : State → State) (s : State) (h1 : isPair s = true)
    (h2 : (shroud s l.val).up = true) (h3 : h.parityOk = true) (h4 : h.crcOk = true) (h5 : h.pairId.toNat = pairId s) :
    ∃ u, LinksOnly s u ∧ u.ledger = s.ledger ∧ LinksOnly (f u) (shroudRx l h bulk f s) := by
  refine ⟨creditsBack l.val h.credits.toNat (setShroud l.val { shroud s l.val with owed := (shroud s l.val).owed + creditsOf h.len.toNat } s), (linksOnly_setShroud _ _ _).trans (linksOnly_creditsBack _ _ _),
    (creditsBack_within _ _ _ (Within.refl _) (List.Subset.refl _)).of .ledger, ?_⟩
  unfold shroudRx
  dsimp only
  rw [if_neg (by rw [h1, h2]; decide), if_pos ⟨h3, h4, h5⟩]
  split
  · exact linksOnly_creditSend _ _
  · exact .refl _

theorem bellWrite_fail (k v : Nat) (s : State) : (bellWrite k v s).ledger.fail = s.ledger.fail := by
  unfold bellWrite
  repeat' (first | split | dsimp only)
  all_goals try rw [raise_ledger]
  all_goals rfl

theorem silence_boot (s : State) : (silence s).boot.act = s.boot.act ∧ (silence s).boot.actKind = s.boot.actKind ∧ (silence
    s).boot.target = s.boot.target ∧ (silence s).boot.dataPath = false := by
  unfold silence
  dsimp only
  rw [(deckRestart_within causeACTIVATE _ (Within.refl _) (List.Subset.refl _)).of .boot, updNode_boot]
  dsimp only
  have hf : ∀ u, (flushQueues u).boot = u.boot := fun u => rfl
  have h : (flushRun [] [] (baselineSave (capTrunc ((enabledPoints (ownSave false (closeTabs (if isPair s = true ∧ s.pair.role = Role.active then leaseRelease s else s)))).foldl (endPoint false) (ownSave false (closeTabs (if isPair s = true ∧ s.pair.role = Role.active then leaseRelease s else s))))))).boot = s.boot := by
    rw [flushNil_boot, (baselineSave_within _ (Within.refl _) (List.Subset.refl _)).of .boot, (capTrunc_within _ (Within.refl _) (List.Subset.refl _)).of .boot,
      foldl_keep (fun v => v.boot) _ _ _ (fun v k => (endPoint_within false v k (Within.refl _) (List.Subset.refl _)).of .boot),
      (ownSave_within _ _ (Within.refl _) (List.Subset.refl _)).of .boot, (closeTabs_within _ (Within.refl _) (List.Subset.refl _)).of .boot]
    split
    · rw [(leaseRelease_within _ (Within.refl _) (List.Subset.refl _)).of .boot]
    · rfl
  rw [hf, h]
  exact ⟨rfl, rfl, rfl, rfl⟩

theorem reconfigure_boot (p : PenegImage) (s : State) : (reconfigure p s).boot =
    { s.boot with running := some p, configLost := false, dataPath := true } := by
  unfold reconfigure startDataPath
  dsimp only
  have hm : ∀ u : State, (meteringOn u).boot = u.boot := fun u => (meteringOn_within u (Within.refl u) (List.Subset.refl _)).of .boot
  have he : ∀ u : State, (energyRestore u).boot = u.boot := fun u => (energyRestore_within u (Within.refl u) (List.Subset.refl _)).of .boot
  have ho : ∀ u : State, (startOuts u).boot = u.boot := fun u => (startOuts_within u (Within.refl u) (List.Subset.refl _)).of .boot
  have hsa : ∀ u : State, (shedAgain u).boot = u.boot := fun u => (shedAgain_within u (Within.refl u) (List.Subset.refl _)).of .boot
  have hc : ∀ u : State, (capStart false u).boot = u.boot := fun u => (capStart_within false u (Within.refl u) (List.Subset.refl _)).of .boot
  have hs : ∀ u : State, (scalesStart false u).boot = u.boot := fun u => (scalesStart_within false u (Within.refl u) (List.Subset.refl _)).of .boot
  have hn : ∀ u : State, (nestStart u).boot = u.boot := fun u => (nestStart_within u (Within.refl u) (List.Subset.refl _)).of .boot
  have hk : ∀ u : State, (marketStart u).boot = u.boot := fun u => (marketStart_within u (Within.refl u) (List.Subset.refl _)).of .boot
  have hcp : ∀ o (u : State), (carryPubs o u).boot = u.boot := fun o u => (carryPubs_within o u (Within.refl u) (List.Subset.refl _)).of .boot
  have hdd : ∀ o (u : State), (deriveDomains o u).boot = u.boot := fun o u => (deriveDomains_within o u (Within.refl u) (List.Subset.refl _)).of .boot
  have hlc : (loadConfig p s).boot = { s.boot with running := some p, configLost := false } := by
    have hww : ∀ (r : List (Nat × Word)) (u : State), (r.foldl (fun t r => wr r.1 r.2 t) u).boot = u.boot := fun r u => foldl_keep (fun v => v.boot) _ _ _ (fun v x => rfl)
    have hwz : ∀ (r : List (Nat × Word)) (u : State), (r.foldl (fun t r => wr r.1 (regReset r.1) t) u).boot = u.boot := fun r u => foldl_keep (fun v => v.boot) _ _ _ (fun v x => rfl)
    unfold loadConfig
    dsimp only
    rw [(wrWords_within _ _ _ (Within.refl _) (List.Subset.refl _)).of .boot]
    dsimp only
    rw [(mastConfig_within _ _ (Within.refl _) (List.Subset.refl _)).of .boot, (imageDefaults_within _ _ (Within.refl _) (List.Subset.refl _)).of .boot, hww]
    dsimp only
    rw [hwz]
  rw [hm, he, ho, hsa, hc, hs, hn, hk]
  dsimp only
  rw [hcp]
  split
  · rw [hdd, hlc]
  · dsimp only
    rw [hdd, hlc]

theorem resumeWith_boot (p : PenegImage) (s : State) : ∃ a, (resumeWith p s).boot =
    { s.boot with running := some p, configLost := false, dataPath := true, actTick := a } := by
  unfold resumeWith
  dsimp only
  have hps : ∀ u : State, (pairStart u).boot = u.boot := fun u => (pairStart_within u (Within.refl u) (List.Subset.refl _)).of .boot
  have hr : (relink s (reconfigure p s)).boot = (reconfigure p s).boot := (relink_within s _ (Within.refl _) (List.Subset.refl _)).of .boot
  refine ⟨some (relink s (reconfigure p s)).ticks, ?_⟩
  split
  · rw [hps]
    show ({ (relink s (reconfigure p s)).boot with actTick := some (relink s (reconfigure p s)).ticks } : Boot) = _
    rw [hr, reconfigure_boot]
  · show ({ (relink s (reconfigure p s)).boot with actTick := some (relink s (reconfigure p s)).ticks } : Boot) = _
    rw [hr, reconfigure_boot]

theorem updateNodeOk_boot_okAt (u : State) : (updateNodeOk u).boot = { u.boot with okAt := (updateNodeOk u).boot.okAt } := by
  rw [updNode_boot]

theorem revertStart_full (b : Nat) (s : State) : (revertStart 2 b s).boot.act = 3 ∧ (revertStart 2 b s).boot.actKind = 2 ∧
    (revertStart 2 b s).boot.target = b ∧
    (s.boot.dataPath = false → (revertStart 2 b s).boot.dataPath = false) := by
  unfold revertStart
  dsimp only
  split
  · rw [(deckRestart_within causeACTIVATE _ (Within.refl _) (List.Subset.refl _)).of .boot]
    exact ⟨rfl, rfl, rfl, fun h => h⟩
  · obtain ⟨x, y, z, w⟩ := silence_boot { s with boot := { s.boot with act := 3, actKind := 2, target := b } }
    exact ⟨x, y, z, fun _ => w⟩

theorem bootRec_ok {s t : State} {x : Option Nat} (h : t.boot = { s.boot with okAt := x }) : bootRec t = bootRec s := by
  unfold bootRec newerB
  rw [h]

theorem okAt_trans {a b c : Boot} (h : b = { a with okAt := b.okAt }) (k : c = { b with okAt := c.okAt }) : c =
    { a with okAt := c.okAt } := by
  rw [h] at k; exact k

theorem ledgerFail_ok (c o : Nat) (s : State) : (ledgerFail c o s).boot = { s.boot with okAt := (ledgerFail c o s).boot.okAt } := by
  unfold ledgerFail
  split
  · rfl
  · dsimp only
    have hw : ∀ a b n u, (writeLastWords a b n u).boot = u.boot := fun a b n u => (writeLastWords_within a b n u (Within.refl u) (List.Subset.refl _)).of .boot
    refine okAt_trans ?_ (updateNodeOk_boot_okAt _)
    rw [raise_boot, hw]
    split <;> rfl

theorem clearFinish_boot (s : State) : (clearFinish s).boot = s.boot :=
  (clearFinish_within _ (Within.refl _) (List.Subset.refl _)).of .boot

theorem ledgerStart_ok (c : Nat) (o : Word) (s : State) : (ledgerStart c o s).boot =
    { s.boot with okAt := (ledgerStart c o s).boot.okAt } := by
  unfold ledgerStart
  dsimp only
  have hr : (restoreCounts s).boot = s.boot := rfl
  split
  · exact okAt_trans (by rw [hr]) (ledgerFail_ok _ _ _)
  · rw [(lastWordsReport_within _ (Within.refl _) (List.Subset.refl _)).of .boot]
    split
    · rw [clearFinish_boot, hr]
    · rw [hr]

theorem tillBoot_boot (i : StartInputs) (s : State) : (tillBoot i s).boot = s.boot := by
  unfold tillBoot
  dsimp only
  split <;> rfl

theorem startLedger_boot (i : StartInputs) (s : State) : (tillBoot i (ledgerStart i.ledger i.ledgerOfs s)).boot =
    { s.boot with okAt := (tillBoot i (ledgerStart i.ledger i.ledgerOfs s)).boot.okAt } := by
  rw [tillBoot_boot]
  exact ledgerStart_ok _ _ _

theorem startDataPath_boot (b : Bool) (w : State) : (startDataPath b w).boot = { w.boot with dataPath := true } := by
  have ho : ∀ u : State, (startOuts u).boot = u.boot := fun u => (startOuts_within u (Within.refl u) (List.Subset.refl _)).of .boot
  have hsa : ∀ u : State, (shedAgain u).boot = u.boot := fun u => (shedAgain_within u (Within.refl u) (List.Subset.refl _)).of .boot
  have hc : ∀ u : State, (capStart b u).boot = u.boot := fun u => (capStart_within b u (Within.refl u) (List.Subset.refl _)).of .boot
  have hs : ∀ u : State, (scalesStart b u).boot = u.boot := fun u => (scalesStart_within b u (Within.refl u) (List.Subset.refl _)).of .boot
  have hn : ∀ u : State, (nestStart u).boot = u.boot := fun u => (nestStart_within u (Within.refl u) (List.Subset.refl _)).of .boot
  have hk : ∀ u : State, (marketStart u).boot = u.boot := fun u => (marketStart_within u (Within.refl u) (List.Subset.refl _)).of .boot
  unfold startDataPath
  dsimp only
  rw [ho, hsa, hc, hs, hn, hk]

theorem loadConfig_boot (p : PenegImage) (s : State) : (loadConfig p s).boot =
    { s.boot with running := some p, configLost := false } := by
  have hww : ∀ (r : List (Nat × Word)) (u : State), (r.foldl (fun t r => wr r.1 r.2 t) u).boot = u.boot := fun r u => foldl_keep (fun v => v.boot) _ _ _ (fun v x => rfl)
  have hwz : ∀ (r : List (Nat × Word)) (u : State), (r.foldl (fun t r => wr r.1 (regReset r.1) t) u).boot = u.boot := fun r u => foldl_keep (fun v => v.boot) _ _ _ (fun v x => rfl)
  unfold loadConfig
  dsimp only
  rw [(wrWords_within _ _ _ (Within.refl _) (List.Subset.refl _)).of .boot]
  dsimp only
  rw [(mastConfig_within _ _ (Within.refl _) (List.Subset.refl _)).of .boot, (imageDefaults_within _ _ (Within.refl _) (List.Subset.refl _)).of .boot, hww]
  dsimp only
  rw [hwz]

theorem startBlocks_boot (w : State) : (startBlocks w).boot = { w.boot with dataPath := true } := by
  unfold startBlocks
  dsimp only
  rw [(pairStart_within _ (Within.refl _) (List.Subset.refl _)).of .boot, startDataPath_boot, (meteringOn_within _ (Within.refl _) (List.Subset.refl _)).of .boot,
    (energyRestore_within _ (Within.refl _) (List.Subset.refl _)).of .boot]

theorem deckRun_boot (v : Word) (s : State) : (deckRun v s).boot = s.boot :=
  (deckRun_within v s (Within.refl s) (List.Subset.refl _)).of .boot

theorem retry_none {run : Instr → State → State} {s : State} (h : s.host.held = []) : hostRetry run s = s := by
  have h0 : setHost (fun h => { h with held := [] }) s = s := by
    show ({ s with host := { s.host with held := [] } } : State) = s
    rw [show ({ s.host with held := [] } : HostIf) = s.host by rw [← h]]
  unfold hostRetry
  dsimp only
  rw [h0, h, List.foldl_nil, if_pos (by rw [h])]
  rfl


theorem hostServe_furled {c : Instr} {a : Nat} {f : State → State} {s : State} (h : s.power.st = .furled) : hostServe c a f s = s
    := by
  unfold hostServe
  rw [if_pos (by simp [h])]

theorem serve_furled {c : Instr} {who : Req} {a : Nat} {f : State → State} {s : State} (h : s.power.st = .furled) : serve c who a
    f s = s := by
  cases who with
  | host => exact hostServe_furled h
  | deck k => exact serve_deck_silent _ _ _ _ _ (by simp [responds, h])

theorem svcServe_furled {h : SvcHdr} {cmd : Nat} {f : State → Option (Nat × List Nat) × State} {s : State} (hf : s.power.st =
    .furled) :
    svcServe h cmd f s = s := by
  unfold svcServe
  rw [if_pos (by simp [hf])]

/-! Snapshots. -/
theorem snapOne_rd {clr : Bool} {a b : Nat} {s : State} (h : b ≠ a) (h4 : b ≠ a + 4) : rd (snapOne clr a s) b = rd s b := by
  unfold snapOne wr64
  cases clr
  · exact (rd_wr_ne _ _ _ _ h4).trans (rd_wr_ne _ _ _ _ h)
  · exact (rd_wr_ne _ _ _ _ h4).trans (rd_wr_ne _ _ _ _ h)

theorem snapOne_self {clr : Bool} {a : Nat} {s : State} (hs : TablesWf s) : rd64 (snapOne clr a s) a = liveCnt s a % 2 ^ 64 := by
  have k : rd64 (snapOne clr a s) a = rd64 (wr64 a (liveCnt s a) s) a := by
    unfold snapOne
    cases clr <;> rfl
  rw [k]
  unfold rd64 wr64
  have hw : TablesWf (wr a (loWord (liveCnt s a)) s) := (wr_keeps _ _ _ (Keeps.refl s)).tables hs
  rw [rd_wr_same _ _ _ hw, rd_wr_ne _ _ _ _ (by omega), rd_wr_same _ _ _ hs]
  show (BitVec.ofNat 32 _).toNat + 2 ^ 32 * (BitVec.ofNat 32 _).toNat = _
  rw [BitVec.toNat_ofNat, BitVec.toNat_ofNat]
  omega

theorem snapOne_live {clr : Bool} {a b : Nat} {s : State} (hs : TablesWf s) :
    liveCnt (snapOne clr a s) b = if clr = true ∧ b = a then 0 else liveCnt s b := by
  unfold snapOne
  cases clr with
  | false => rw [if_neg (by simp)]; rfl
  | true =>
    show tget 0 (tset 0 s.live a 0) b = _
    by_cases h : b = a
    · rw [if_pos ⟨rfl, h⟩, h]
      exact tget_tset_same _ _ _ _ hs.2
    · rw [if_neg (fun x => h x.2)]
      exact tget_tset_ne _ _ _ _ _ h

theorem snapOnes_facts {base : Nat} {clr : Bool} {s : State} (hs : TablesWf s) : ∀ n, TablesWf (forUpTo n (fun k => snapOne clr
    (base + 8 * k)) s) ∧
    (∀ b, b < base ∨ base + 8 * n ≤ b → rd (forUpTo n (fun k => snapOne clr (base + 8 * k)) s) b = rd s b) ∧
    (∀ j, n ≤ j → liveCnt (forUpTo n (fun k => snapOne clr (base + 8 * k)) s) (base + 8 * j) = liveCnt s (base + 8 * j)) ∧
    (∀ j, j < n → rd64 (forUpTo n (fun k => snapOne clr (base + 8 * k)) s) (base + 8 * j) = liveCnt s (base + 8 * j) % 2 ^ 64 ∧
      liveCnt (forUpTo n (fun k => snapOne clr (base + 8 * k)) s) (base + 8 * j) = if clr then 0 else liveCnt s (base + 8 * j)) := by
  intro n
  induction n with
  | zero => exact ⟨hs, fun _ _ => rfl, fun _ _ => rfl, fun j h => absurd h (Nat.not_lt_zero j)⟩
  | succ n ih =>
    have e : forUpTo (n + 1) (fun k => snapOne clr (base + 8 * k)) s =
        snapOne clr (base + 8 * n) (forUpTo n (fun k => snapOne clr (base + 8 * k)) s) := by
      unfold forUpTo
      rw [List.range_succ, List.foldl_append]
      rfl
    rw [e]
    generalize forUpTo n (fun k => snapOne clr (base + 8 * k)) s = t at ih
    obtain ⟨i1, i2, i3, i4⟩ := ih
    refine ⟨(snapOne_keeps _ _ _ (Keeps.refl t)).tables i1, ?_, ?_, ?_⟩
    · intro b hb
      rw [snapOne_rd (by omega) (by omega)]
      exact i2 b (by omega)
    · intro j hj
      rw [snapOne_live i1, if_neg (by omega)]
      exact i3 j (by omega)
    · intro j hj
      by_cases h : j = n
      · subst h
        rw [snapOne_self i1, snapOne_live i1, i3 j (Nat.le_refl _)]
        refine ⟨rfl, ?_⟩
        cases clr <;> simp
      · have hj' : j < n := by omega
        obtain ⟨a, b⟩ := i4 j hj'
        refine ⟨?_, ?_⟩
        · rw [← a]
          unfold rd64
          rw [snapOne_rd (by omega) (by omega), snapOne_rd (by omega) (by omega)]
        · rw [snapOne_live i1, if_neg (by omega), b]

theorem snapshot_facts {base n seq k : Nat} {clr : Bool} {s t : State} (hs : TablesWf s) (hk : k < n)
    (hq : seq < base ∨ base + 8 * n ≤ seq) (hr : ∀ b, b = base + 8 * k ∨ b = base + 8 * k + 4 → rd t b = rd (snapshot base n seq clr s) b)
    (hl : liveCnt t (base + 8 * k) = liveCnt (snapshot base n seq clr s) (base + 8 * k)) :
    rd64 t (base + 8 * k) = liveCnt s (base + 8 * k) % 2 ^ 64 ∧
      liveCnt t (base + 8 * k) = (if clr then 0 else liveCnt s (base + 8 * k)) := by
  obtain ⟨_, _, _, h⟩ := snapOnes_facts (base := base) (clr := clr) hs n
  obtain ⟨a, b⟩ := h k hk
  refine ⟨?_, ?_⟩
  · rw [← a]
    unfold rd64
    rw [hr _ (.inl rfl), hr _ (.inr rfl)]
    unfold snapshot bumpF wrF
    rw [rd_wr_ne _ _ _ _ (by omega), rd_wr_ne _ _ _ _ (by omega)]
  · rw [← b]
    exact hl

/-- A snapshot whose interrupt is raised. -/
theorem snapshot_raised {base n seq a i k : Nat} {clr : Bool} {s : State} (hs : TablesWf s) (hk : k < n)
    (hq : seq < base ∨ base + 8 * n ≤ seq) (ha : a < base ∨ base + 8 * n ≤ a) (hc : CTL_INT < base ∨ base + 8 * n ≤ CTL_INT) :
    rd64 (raise a i (snapshot base n seq clr s)) (base + 8 * k) = liveCnt s (base + 8 * k) % 2 ^ 64 ∧
      liveCnt (raise a i (snapshot base n seq clr s)) (base + 8 * k) = (if clr then 0 else liveCnt s (base + 8 * k)) :=
  snapshot_facts hs hk hq (fun b h1 => rd_raise_ne _ _ _ _ (by omega) (by omega))
    (congrArg (fun m => tget 0 m (base + 8 * k)) ((raise_within a i _ (Within.refl _) (List.Subset.refl _)).of .live))

theorem liveOther {clr : Bool} {a b : Nat} {u : State} (h : b ≠ a) : liveCnt (snapOne clr a u) b = liveCnt u b := by
  unfold snapOne
  cases clr
  · rfl
  · exact tget_tset_ne _ _ _ _ _ h

theorem forUpTo_live {f : Nat → State → State} {n b : Nat} {s : State} (h : ∀ k, k < n → ∀ u, liveCnt (f k u) b = liveCnt u b) :
    liveCnt (forUpTo n f s) b = liveCnt s b := by
  induction n with
  | zero => rfl
  | succ n ih =>
    have e : forUpTo (n + 1) f s = f n (forUpTo n f s) := by
      unfold forUpTo
      rw [List.range_succ, List.foldl_append]
      rfl
    rw [e, h n (Nat.lt_succ_self n), ih fun k hk => h k (Nat.lt_succ_of_lt hk)]

theorem settle_other {p k : Nat} {s : State} (h1 : k ≠ cTX_PAUSED_US) (h2 : k ≠ cTX_LPI_US) (h3 : k ≠ cRX_LPI_US) (h4 : k ≠
    cXOFF_US) :
    liveCnt (settleUs p s) (PRT_STAT p (2 * k)) = liveCnt s (PRT_STAT p (2 * k)) := by
  have hp : ∀ j, k ≠ j → PRT_STAT p (2 * k) ≠ PRT_STAT p (2 * j) := fun j h => by simp only [PRT_STAT]; omega
  unfold settleUs portCount
  dsimp only
  rw [live_count_other (hp _ h1), live_count_other (hp _ h2), live_count_other (hp _ h3), live_count_other (hp _ h4)]
  rfl

theorem settle_us {p k u : Nat} {s : State} (hs : TablesWf s) (h : (k, u) ∈ [
      (cTX_PAUSED_US, if (port s p).paused ≠ 0 then usSince s (port s p).pausedAt else 0),
      (cTX_LPI_US, if (port s p).txLpi then usSince s (port s p).txLpiAt else 0),
      (cRX_LPI_US, if (port s p).rxLpi then usSince s (port s p).rxLpiAt else 0),
      (cXOFF_US, if (port s p).xoff then usSince s (port s p).xoffAt else 0)]) :
    liveCnt (settleUs p s) (PRT_STAT p (2 * k)) = (liveCnt s (PRT_STAT p (2 * k)) + u) % 2 ^ 64 := by
  have hp : ∀ i j, i ≠ j → PRT_STAT p (2 * i) ≠ PRT_STAT p (2 * j) := fun i j h => by simp only [PRT_STAT]; omega
  have e : (if decide ((port s p).paused ≠ 0) = true then usSince s (port s p).pausedAt else 0) = if (port s p).paused ≠ 0 then usSince s (port s p).pausedAt else 0 := by
    by_cases hh : (port s p).paused ≠ 0
    · rw [if_pos hh, if_pos (decide_eq_true hh)]
    · rw [if_neg hh, if_neg (by rw [decide_eq_false hh]; decide)]
  unfold settleUs portCount
  dsimp only
  rw [e]
  simp only [List.mem_cons, List.not_mem_nil, or_false, Prod.mk.injEq] at h
  have tw : ∀ x : Port, TablesWf (setPort p x s) := fun x => tables_of_eq hs rfl rfl
  rcases h with ⟨rfl, rfl⟩ | ⟨rfl, rfl⟩ | ⟨rfl, rfl⟩ | ⟨rfl, rfl⟩
  · rw [live_count_self (count_tables (count_tables (count_tables (tw _)))), live_count_other (hp _ _ (by decide)), live_count_other (hp _ _ (by decide)), live_count_other (hp _ _ (by decide))]
    rfl
  · rw [live_count_other (hp _ _ (by decide)), live_count_self (count_tables (count_tables (tw _))), live_count_other (hp _ _ (by decide)), live_count_other (hp _ _ (by decide))]
    rfl
  · rw [live_count_other (hp _ _ (by decide)), live_count_other (hp _ _ (by decide)), live_count_self (count_tables (tw _)), live_count_other (hp _ _ (by decide))]
    rfl
  · rw [live_count_other (hp _ _ (by decide)), live_count_other (hp _ _ (by decide)), live_count_other (hp _ _ (by decide)), live_count_self (tw _)]
    rfl

theorem settle_facts {p : Nat} {s : State} : (settleUs p s).regs = s.regs ∧ (TablesWf s → TablesWf (settleUs p s)) ∧ (settleUs p
    s).ticks = s.ticks ∧ (settleUs p s).tai = s.tai := by
  have w := settleUs_within p s (Within.refl s) (List.Subset.refl _)
  exact ⟨w.of .regs, (settleUs_keeps p s (Keeps.refl s)).tables, w.of .ticks, w.of .tai⟩

theorem snapPort_rd {clr : Bool} {p b : Nat} {s : State} (h1 : b ≠ PRT_INT p) (h2 : b ≠ CTL_INT) (h3 : b ≠ PRT_SNAP_SEC p) (h4 : b
    ≠ PRT_SNAP_NS p) :
    rd (snapPort clr p s) b = rd (wr64 (PRT_STAT p (2 * cRX_BUF_PEAK)) (port s p).peak (snapshot (PRT_STAT p 0) 48 (PRT_SNAP_SEQ p) clr (settleUs p s))) b := by
  unfold snapPort
  dsimp only
  generalize wr64 (PRT_STAT p (2 * cRX_BUF_PEAK)) (port s p).peak (snapshot (PRT_STAT p 0) 48 (PRT_SNAP_SEQ p) clr (settleUs p s)) = u
  rw [rd_raise_ne _ _ _ _ h1 h2]
  have e : rd (wr (PRT_SNAP_SEC p) (loWord (taiSec s)) (wr (PRT_SNAP_NS p) (wordOf (taiNs s)) u)) b = rd u b := by
    rw [rd_wr_ne _ _ _ _ h3, rd_wr_ne _ _ _ _ h4]
  split
  · exact e
  · exact e

theorem snapPort_live {clr : Bool} {p b : Nat} {s : State} :
    liveCnt (snapPort clr p s) b = liveCnt (snapshot (PRT_STAT p 0) 48 (PRT_SNAP_SEQ p) clr (settleUs p s)) b := by
  unfold snapPort
  dsimp only
  generalize snapshot (PRT_STAT p 0) 48 (PRT_SNAP_SEQ p) clr (settleUs p s) = u
  refine (congrArg (fun m => tget 0 m b) ((raise_within (PRT_INT p) 8 _ (Within.refl _) (List.Subset.refl _)).of .live)).trans ?_
  cases clr <;> rfl

theorem snapPort_peak {p : Nat} {s : State} : ∃ x : Port, x.peak = bufBytes (port s p) ∧
    (snapPort true p s).ports = tset {} (settleUs p s).ports p x := by
  have h := (snapshot_within (PRT_STAT p 0) 48 (PRT_SNAP_SEQ p) true (settleUs p s) (Within.refl _) (List.Subset.refl _)).of .ports
  unfold snapPort
  dsimp only
  generalize snapshot (PRT_STAT p 0) 48 (PRT_SNAP_SEQ p) true (settleUs p s) = u at h
  refine ⟨{ port (wr (PRT_SNAP_SEC p) (loWord (taiSec s)) (wr (PRT_SNAP_NS p) (wordOf (taiNs s)) (wr64 (PRT_STAT p (2 * cRX_BUF_PEAK)) (port s p).peak u))) p with peak := bufBytes (port s p) }, rfl, ((raise_within (PRT_INT p) 8 _ (Within.refl _) (List.Subset.refl _)).of .ports).trans ?_⟩
  show tset {} u.ports p _ = _
  rw [show u.ports = (settleUs p s).ports from h]

end Sys2Proof.Machine
end

