-- ==== Sys2Proof/WellFormed.lean ====
section
/-!
DEFINITION. Which commands are well formed: the bounds the spec puts on an operand that the operand's type leaves out.
-/

namespace Sys2Proof

/-- An event carries at most 20 bytes of DATA (Table 15.2). -/
def LEvent.wf (e : LEvent) : Bool := decide (e.data.length ≤ 5)

/-- A decoded IRIG-B frame names a day and a second of it (R46). -/
def IrigFrame.wf (f : IrigFrame) : Bool :=
  !f.bcdOk || (decide (1 ≤ f.dayOfYear ∧ f.dayOfYear ≤ 366) && decide (f.secOfDay ≤ 86400))

/-- An SV frame carries 1 to 8 ASDUs (R99). -/
def IngestBody.wf : IngestBody → Bool
  | .c37 _ _ => true
  | .sv f | .rsv _ _ f => decide (1 ≤ f.asdus.length ∧ f.asdus.length ≤ 8)

/-- A received frame has a length, and a PFC frame at most one quanta per priority (R67, R69). -/
def RxFrame.wf (f : RxFrame) : Bool :=
  decide (0 < f.len ∧ f.bytes.length ≤ f.len) && (match f.body with
    | some b => b.wf
    | none => true)
    && (match f.kind with
      | .pfc q => decide (q.length ≤ 8)
      | _ => true)

/-- The item an uncorrectable error hits lies in its region (Table 14.1). -/
def UeTarget.fits (region : Fin 15) : UeTarget → Bool
  | .none => true
  | .stall _ _ => decide (region.val = 0)
  | .tableau _ => decide (region.val = 1)
  | .ribbonBlock _ => decide (region.val = 2)
  | .emBand | .fastBand | .topology => decide (region.val = 3 ∨ region.val = 11)
  | .record _ _ => decide (region.val = 4)
  | .deckCustomer _ => decide (region.val = 5)
  | .deckOther => decide (region.val = 5 ∨ region.val = 12)
  | .ringBuffer _ => decide (region.val = 6 ∨ region.val = 10)
  | .egressAlarm _ | .egressItem _ | .packerJob _ => decide (region.val = 7)
  | .streamEntry _ => decide (region.val = 8)
  | .configReloaded | .configReloadFailed => decide (region.val = 9)
  | .cacheClean => decide (region.val = 12)
  | .shroudBuffer _ _ | .stampQueue _ _ | .sampleBuffer _ => decide (region.val = 14)
  | .logRecord _ | .trackCopy _ _ | .intervalRecord _ | .baselineCopy _ | .controlRecord _ => decide (region.val = 13)

/-- The words a read request asks for (R483). -/
def WinRead.words : WinRead → Nat
  | .burst n => n
  | _ => 1

/-- The command is well formed. -/
def wellFormed : Instr → Bool
  | .irigFrame f => f.wf
  | .rxFrame _ f => f.wf
  | .rxTail _ _ _ bufs => decide (bufs.length ≤ 511)
  | .decimatorOutput _ bits => decide (bits ≠ [])
  | .osCommandFrame _ _ ip _ => decide (ip < 2 ^ 32)
  | .jobPack _ _ input | .jobUnpack _ _ input | .jobRaw _ _ input => decide (input.length ≤ 2 ^ 26)
  | .w2winClose _ cycles a b c _ => decide (a + b + c ≤ 4 * cycles.val)
  | .memCorrection region _ _ _ target | .memUe region _ target => target.fits region
  | .ledgerEvent e => e.wf
  | .ledgerFlush during bad => during.all LEvent.wf && bad.all (fun u => decide (u < 16384))
  | .rxDigest _ _ es => decide (1 ≤ es.length ∧ es.length ≤ 32)
  | .rxLedger _ _ rs => decide (rs.length ≤ 16) && rs.all (fun r => decide (r.length = 16))
  | .rxEnergy _ _ x => decide (x.points.length ≤ 8)
  | .nodeStart i => decide (i.ledger = 0 ∨ i.ledger = 2 ∨ i.ledger = 3)
  | .svcWrite _ _ _ data => decide (data.length ≤ 1024)
  | .svcTill _ _ args mbox _ _ => decide (args.length ≤ 4 ∧ mbox.length ≤ 256)
  | .railMeasure rails _ _ _ _ => decide (rails.length = 8) && rails.all (fun r => decide (r.1 < 65536))
  | .windowRead _ r poison => decide (1 ≤ r.words ∧ r.words ≤ 64 ∧ poison.length ≤ r.words)
  | .lowWordRead ofs => decide (ofs.toNat % 4 = 0)
  | .unsupportedRequest ofs len write => decide (ofs.toNat % 8 + len > 8 ∨ len = 0) && (write || decide (len ≤ 4096))
  | _ => true

end Sys2Proof
end

