-- ==== Sys2Proof/Tests/Slice0.lean ====
section
/-!
SUPPORT. The model's own tests: an ill-formed term for each check of WellFormed.lean, single commands on small states with results
taken from the rules, and for every statement of Certificates/Slice0/Obligations.lean values that meet its hypotheses.
-/

namespace Sys2Proof.Machine

open Sys2Proof

set_option Elab.async false
set_option linter.all false

set_option maxRecDepth 8000

/-! Values the tests use. -/

/-- A node that has started and runs its data path. -/
def up : State := { State.reset with boot := { phase := .running, started := true, dataPath := true } }

/-- A frame of 64 bytes to the port's own address. -/
def rxPlain : RxFrame := { len := 64, codeErr := false, fcsOk := true, da := .port, tci := none, kind := .other, body := none }

/-- An SV frame with `n` samples. -/
def svOf (n : Nat) : SvFrame :=
  { asn1Ok := true, dmac := 0#48, appid := 0#16, svid := 0, confRev := 1, simulated := false,
    asdus := List.replicate n { smpCnt := 0, smpSynch := 2, channels := [] } }

/-- A good frame on a Shroud link. -/
def shroudHdr : ShroudHdr := { parityOk := true, crcOk := true, pairId := 0#16, nodeId := 0, credits := 0#8, len := 0#16, seq := 0#32 }

/-- A decoded IRIG-B frame of day 1. -/
def irigDay : IrigFrame :=
  { parityOk := true, bcdOk := true, dayOfYear := 1, secOfDay := 0, year := none, ext := false, leapPending := false, quality := 0#4 }

/-! Ill-formed commands. -/

theorem test_illformed_irig_day : wellFormed (.irigFrame { irigDay with dayOfYear := 0 }) = false := by decide
theorem test_illformed_irig_second : wellFormed (.irigFrame { irigDay with secOfDay := 86401 }) = false := by decide
theorem test_wellformed_irig : wellFormed (.irigFrame irigDay) = true := by decide
theorem test_illformed_frame_length : wellFormed (.rxFrame 0 { rxPlain with len := 0 }) = false := by decide
theorem test_illformed_frame_asdus : wellFormed (.rxFrame 0 { rxPlain with kind := .sv, body := some (.sv (svOf 9)) }) = false := by decide
theorem test_illformed_frame_pfc :
    wellFormed (.rxFrame 0 { rxPlain with kind := .pfc (List.replicate 9 (0, 1#16)) }) = false := by decide
theorem test_illformed_decimator : wellFormed (.decimatorOutput 0 []) = false := by decide
theorem test_illformed_os_command : wellFormed (.osCommandFrame 1#16 .turnOn (2 ^ 32) 0#16) = false := by decide
theorem test_illformed_w2win : wellFormed (.w2winClose 0 1 2 2 1 0) = false := by decide
theorem test_illformed_memory_target : wellFormed (.memUe 2 0#36 (.stall 0 0)) = false := by decide
theorem test_illformed_correction : wellFormed (.memCorrection 2 0#36 0 0 (.logRecord 0)) = false := by decide
theorem test_illformed_event : wellFormed (.ledgerEvent ⟨1, 1#8, 0, 0#32, List.replicate 6 0#32⟩) = false := by decide
theorem test_illformed_flush : wellFormed (.ledgerFlush [] [16384]) = false := by decide
theorem test_illformed_digest : wellFormed (.rxDigest 0 shroudHdr []) = false := by decide
theorem test_illformed_mirror : wellFormed (.rxLedger 0 shroudHdr [[0#32]]) = false := by decide
theorem test_illformed_energy :
    wellFormed (.rxEnergy 0 shroudHdr { seq := 0, tag := 0, mean := 0, reefed := false, points := List.replicate 9 (0, {}), crc := 0#32 }) = false := by decide
theorem test_illformed_rails : wellFormed (.railMeasure [] 0#16 0#16 0#32 0#16) = false := by decide
theorem test_illformed_burst : wellFormed (.windowRead .capture (.burst 65) []) = false := by decide
theorem test_illformed_low_word : wellFormed (.lowWordRead 2#20) = false := by decide
theorem test_illformed_request : wellFormed (.unsupportedRequest 0#20 4 true) = false := by decide

/-! Single commands. -/

/-- R29: the least increment the node takes, and one below it. -/
theorem test_incr_least : rd (run (.incrWrite .host 0x3FF7CED9#32) up) MST_INCR = 0x3FF7CED9#32 := by decide
theorem test_incr_refused : rd (run (.incrWrite .host 0x3FF7CED8#32) up) MST_INCR = 0x40000000#32 := by decide
/-- R29: a refused increment sets INCR_REJ (bit 3). -/
theorem test_incr_rejected : rd (run (.incrWrite .host 0#32) up) MST_INT = 8#32 := by decide
/-- Table 2.3: LOCK_SET takes UNSYNC to LOCKED. -/
theorem test_lock_set : (run (.lockSet .host) up).mast.st = .locked := by decide
/-- Table 2.3: HOLD_SET leaves UNSYNC. -/
theorem test_hold_set : (run (.holdSet .host) up).mast.st = .unsync := by decide
/-- R27: a tick adds the nominal 4 ns. -/
theorem test_tick : (run .kernelTick up).tai = 0 ∧ (taiTick up).tai = 4 * 2 ^ 28 := by decide
/-- R65: a port that is not enabled counts nothing. -/
theorem test_port_off : (run (.rxFrame 3 rxPlain) up).live = [] := by decide
/-- R81: the host's write of a ring's enable is ignored. -/
theorem test_ring_host : ringOn (run (.ringEnable .host 5) up) 5 = false := by decide
theorem test_ring_deck : ringOn (run (.ringEnable (.deck 1) 63) up) 63 = true := by decide
/-- R471: D3hot makes BAR0 inaccessible. -/
theorem test_d3hot : (run (.incrWrite .host 0x40000001#32) (run .d3hotEntry up)).regs = [] := by decide
/-- Table 19.2: in Furled an event of the Mast does not happen. -/
theorem test_furled : run .noIncrementTimeout { up with power := { st := .furled } } = { up with power := { st := .furled } } := by decide
/-- R32: a freeze of a core is its own. -/
theorem test_freeze : (run (.timeBlockFreeze (.deck 2) 0) up).mast.freeze.length = 1 := by decide
/-- A step runs the command at the front. -/
theorem test_command_front : step { up with pending := [.lockSet .host] } = exec (.lockSet .host) up := rfl

/-! What each obligation assumes can be met: a state and operands for the hypotheses of every clause that has some. -/

theorem logLowest_le (l : List LRec) : logLowest l ≤ 7 := by
  have h : ∀ (k : List LRec) (v : Nat), k.foldl (fun v r => min v r.sev) v ≤ v := by
    intro k
    induction k with
    | nil => intro v; exact Nat.le_refl v
    | cons x k ih => intro v; exact Nat.le_trans (ih (min v x.sev)) (Nat.min_le_left v x.sev)
  exact h l 7

theorem pickSlot_some (s : State) (k : Nat) (hk : k < 1024) (h : (decide (domains s ≤ k) && decide ((slotOf s k).st = .free)) = true) :
    ∃ n, pickSlot? s = some n := by
  unfold pickSlot?
  have hm : k ∈ freeSlots s := List.mem_filter.mpr ⟨List.mem_range.mpr hk, h⟩
  generalize freeSlots s = l at hm
  cases l with
  | nil => exact absurd hm (List.not_mem_nil)
  | cons a l => exact ⟨_, List.getElem?_eq_getElem (Nat.mod_lt _ (by simp))⟩

/-- An image of hardware type 1. -/
def img1 : PenegImage :=
  { hwType := 1, unitId := 0, secVer := 0, version := 0, buildSec := 0, fwHash := 0, imgHash := 0, confHash := 0, capHash := 0,
    layoutHash := 0, image := {} }

/-- It passes every check. -/
theorem img1_good (u : State) (h1 : rdF u HST_VARIANT 0 2 = 1) (h2 : (bootRec u).secMin = 0) :
    checkCode u ⟨true, true, true, true⟩ (some img1) = 0 := by
  simp [checkCode, unitOk, img1, h1, h2]

/-- One slot is in use. -/
def slotUp : State := { up with till := { slots := [(0, { st := .valid, usage := 255 })] } }

/-- A C37.118 frame of a wrong size. -/
def c37x : C37Frame :=
  { sync := 0#16, sizeOk := false, crcOk := false, idcode := 0#16, soc := 0#32, fracsec := 0#32, body := [], cfg := [],
    dataRate := 0, timeBase := 0#24, more := false, numPmu := 0 }

/-- Every slot that may be taken is in use. -/
def slotsFull : State := wrF TIL_CFG 0 10 1023 { up with till := { slots := [(1023, { st := .valid })] } }

theorem slotsFull_none : pickSlot? slotsFull = none := by
  have h : freeSlots slotsFull = [] := by
    unfold freeSlots
    refine List.filter_eq_nil_iff.mpr fun n hn => ?_
    have hd : domains slotsFull = 1023 := by decide
    rw [hd]
    by_cases hk : n = 1023
    · subst hk
      decide
    · have := List.mem_range.mp hn
      simp [show ¬ 1023 ≤ n by omega]
  unfold pickSlot?
  rw [h]

theorem test_meets_FrontCommandRuns :
    ∃ (c : Instr) (r : List Instr) (s : State), s.pending = c :: r :=
  ⟨(.incrWrite .host 0#32), [], { up with pending := ((.incrWrite .host 0#32) : Instr) :: [] }, by decide⟩

theorem test_meets_IdleStep :
    (∃ (s : State), s.pending = [] ∧ s.host.held = [] ∧ s.power.st ≠ .furled) ∧
    (∃ (s : State), s.pending = [] ∧ s.host.held = [] ∧ s.power.st = .furled) ∧
    (∃ (s : State), s.pending = []) ∧
    (∃ (c : Instr) (s : State) (t : State), exec c s = .next t) :=
  ⟨⟨{ up with pending := [], host := { held := [] } }, by decide, by decide, by decide⟩,
   ⟨{ up with pending := [], host := { held := [] }, power := { st := .furled } }, by decide, by decide, by decide⟩,
   ⟨{ up with pending := [] }, by decide⟩,
   ⟨.incrWrite .host 0#32, up, _, rfl⟩⟩

theorem test_meets_StepsKeepTables :
    ∃ (s : State), TablesWf s :=
  ⟨up, ⟨by decide, by decide⟩⟩

theorem test_meets_FurledIsSilent :
    ∃ (c : Instr) (s : State), s.power.st = .furled ∧ furledActs c = false :=
  ⟨(.incrWrite .host 0#32), { up with power := { st := .furled } }, by decide, by decide⟩

theorem test_meets_SnapshotsCopy :
    (∃ (who : Req) (clr : Bool) (k : Nat) (s : State), TablesWf s ∧ Served who ING_SNAP s ∧ k < 17) ∧
    (∃ (who : Req) (clr : Bool) (k : Nat) (s : State), TablesWf s ∧ Served who MKT_SNAP s ∧ k < 16) ∧
    (∃ (who : Req) (clr : Bool) (k : Nat) (s : State), TablesWf s ∧ Served who CAP_SNAP s ∧ k < 8) ∧
    (∃ (who : Req) (clr : Bool) (k : Nat) (s : State), TablesWf s ∧ Served who NST_OSC_SNAP s ∧ k < 8) ∧
    (∃ (who : Req) (clr : Bool) (k : Nat) (s : State), TablesWf s ∧ Served who NST_TOP_SNAP s ∧ k < 12) ∧
    (∃ (who : Req) (clr : Bool) (k : Nat) (s : State), TablesWf s ∧ Served who EGR_SNAP s ∧ k < 12) ∧
    (∃ (who : Req) (clr : Bool) (k : Nat) (s : State), TablesWf s ∧ Served who PAK_SNAP s ∧ k < 8) ∧
    (∃ (who : Req) (clr : Bool) (k : Nat) (s : State), TablesWf s ∧ Served who CTL_SCH_SNAP s ∧ k < 9) ∧
    (∃ (who : Req) (clr : Bool) (k : Nat) (s : State), TablesWf s ∧ Served who MEM_SNAP s ∧ k < 30) ∧
    (∃ (who : Req) (clr : Bool) (k : Nat) (s : State), TablesWf s ∧ Served who SHR_SNAP s ∧ k < 12) ∧
    (∃ (who : Req) (p : Fin 64) (clr : Bool) (k : Nat) (s : State),
      TablesWf s ∧ Served who (PRT_SNAP p.val) s ∧ k < 48 ∧ k ≠ cRX_BUF_PEAK ∧ k ≠ cTX_PAUSED_US ∧ k ≠ cTX_LPI_US ∧
      k ≠ cRX_LPI_US ∧ k ≠ cXOFF_US) ∧
    (∃ (who : Req) (p : Fin 64) (s : State), TablesWf s ∧ Served who (PRT_SNAP p.val) s) ∧
    (∃ (who : Req) (p : Fin 64) (clr : Bool) (k : Nat) (u : Nat) (s : State), TablesWf s ∧ Served who (PRT_SNAP p.val) s ∧
      (k, u) ∈ [(cTX_PAUSED_US, if (port s p.val).paused ≠ 0 then usSince s (port s p.val).pausedAt else 0), (cTX_LPI_US, if (port s p.val).txLpi then usSince s (port s p.val).txLpiAt else 0), (cRX_LPI_US, if (port s p.val).rxLpi then usSince s (port s p.val).rxLpiAt else 0), (cXOFF_US, if (port s p.val).xoff then usSince s (port s p.val).xoffAt else 0)]) :=
  ⟨⟨.host, false, 0, up, ⟨by decide, by decide⟩, ⟨by decide, fun _ => ⟨rfl, rfl⟩⟩, by decide⟩,
   ⟨.host, false, 0, up, ⟨by decide, by decide⟩, ⟨by decide, fun _ => ⟨rfl, rfl⟩⟩, by decide⟩,
   ⟨.host, false, 0, up, ⟨by decide, by decide⟩, ⟨by decide, fun _ => ⟨rfl, rfl⟩⟩, by decide⟩,
   ⟨.host, false, 0, up, ⟨by decide, by decide⟩, ⟨by decide, fun _ => ⟨rfl, rfl⟩⟩, by decide⟩,
   ⟨.host, false, 0, up, ⟨by decide, by decide⟩, ⟨by decide, fun _ => ⟨rfl, rfl⟩⟩, by decide⟩,
   ⟨.host, false, 0, up, ⟨by decide, by decide⟩, ⟨by decide, fun _ => ⟨rfl, rfl⟩⟩, by decide⟩,
   ⟨.host, false, 0, up, ⟨by decide, by decide⟩, ⟨by decide, fun _ => ⟨rfl, rfl⟩⟩, by decide⟩,
   ⟨.host, false, 0, up, ⟨by decide, by decide⟩, ⟨by decide, fun _ => ⟨rfl, rfl⟩⟩, by decide⟩,
   ⟨.host, false, 0, up, ⟨by decide, by decide⟩, ⟨by decide, fun _ => ⟨rfl, rfl⟩⟩, by decide⟩,
   ⟨.host, false, 0, up, ⟨by decide, by decide⟩, ⟨by decide, fun _ => ⟨rfl, rfl⟩⟩, by decide⟩,
   ⟨.host, 0, false, 0, up, ⟨by decide, by decide⟩, ⟨by decide, fun _ => ⟨rfl, rfl⟩⟩, by decide, by decide, by decide,
    by decide, by decide, by decide⟩,
   ⟨.host, 0, up, ⟨by decide, by decide⟩, ⟨by decide, fun _ => ⟨rfl, rfl⟩⟩⟩,
   ⟨.host, 0, false, cTX_PAUSED_US, 0, up, ⟨by decide, by decide⟩, ⟨by decide, fun _ => ⟨rfl, rfl⟩⟩, by decide⟩⟩

theorem test_meets_MastIncrement :
    (∃ (who : Req) (v : Word) (s : State),
      TablesWf s ∧ Served who MST_INCR s ∧ s.mast.st ≠ .held ∧ 0x3FF7CED9 ≤ v.toNat ∧ v.toNat ≤ 0x40083127) ∧
    (∃ (who : Req) (v : Word) (s : State),
      TablesWf s ∧ Served who MST_INCR s ∧ s.mast.st ≠ .held ∧ (¬ (0x3FF7CED9 ≤ v.toNat ∧ v.toNat ≤ 0x40083127))) ∧
    (∃ (who : Req) (v : Word) (s : State), TablesWf s ∧ Served who MST_INCR s ∧ s.mast.st = .held) :=
  ⟨⟨.host, 0x3FF7CED9#32, up, ⟨by decide, by decide⟩, ⟨by decide, fun _ => ⟨rfl, rfl⟩⟩, by decide, by decide, by decide⟩,
   ⟨.host, 0#32, up, ⟨by decide, by decide⟩, ⟨by decide, fun _ => ⟨rfl, rfl⟩⟩, by decide, by decide⟩,
   ⟨.host, 0#32, { up with mast := { st := .held } }, ⟨by decide, by decide⟩, ⟨by decide, fun _ => ⟨rfl, rfl⟩⟩, by decide⟩⟩

theorem test_meets_MastStates :
    (∃ (who : Req) (s : State), Served who MST_CTRL s ∧ (s.mast.st = .unsync ∨ s.mast.st = .holdover)) ∧
    (∃ (who : Req) (s : State), Served who MST_CTRL s ∧ (s.mast.st = .locked ∨ s.mast.st = .held)) ∧
    (∃ (who : Req) (s : State), TablesWf s ∧ Served who MST_CTRL s ∧ s.mast.st = .locked) ∧
    (∃ (who : Req) (s : State), Served who MST_CTRL s ∧ s.mast.st ≠ .locked) ∧
    (∃ (s : State), TablesWf s ∧ s.power.st ≠ .furled ∧ s.mast.st = .locked ∧ s.mast.incrAt + 1000000000 ≤ s.ticks) ∧
    (∃ (s : State), s.power.st ≠ .furled ∧ (s.mast.st ≠ .locked ∨ s.ticks < s.mast.incrAt + 1000000000)) ∧
    (∃ (who : Req) (s : State), Served who MST_CTRL s ∧ rdB s MST_CFG 0 = false) ∧
    (∃ (who : Req) (s : State),
      TablesWf s ∧ Served who MST_CTRL s ∧ rdB s MST_CFG 0 = true ∧ (s.mast.st = .locked ∨ s.mast.st = .holdover)) ∧
    (∃ (who : Req) (s : State), Served who MST_CTRL s ∧ (s.mast.st = .unsync ∨ s.mast.st = .held)) ∧
    (∃ (who : Req) (s : State), TablesWf s ∧ Served who MST_CTRL s ∧ rdB s MST_CFG 0 = false ∧ s.mast.st = .locked) ∧
    (∃ (who : Req) (s : State),
      Served who MST_CTRL s ∧ ((if rdB s MST_CFG 0 then s.mast.st = .unsync ∨ s.mast.st = .held else s.mast.st ≠ .locked))) ∧
    (∃ (who : Req) (s : State), TablesWf s ∧ Served who MST_CTRL s ∧ rdB s MST_CFG 0 = true ∧ s.mast.st = .held) ∧
    (∃ (who : Req) (s : State), Served who MST_CTRL s ∧ (rdB s MST_CFG 0 = false ∨ s.mast.st ≠ .held)) ∧
    (∃ (who : Req) (s : State), Served who MST_CTRL s ∧ (s.mast.st ≠ .held ∨ rdB s MST_CFG 0 = false)) ∧
    (∃ (who : Req) (s : State), TablesWf s ∧ Served who MST_CTRL s ∧ s.mast.st = .held ∧ rdB s MST_CFG 0 = true) :=
  ⟨⟨.host, { up with mast := { st := .unsync } }, ⟨by decide, fun _ => ⟨rfl, rfl⟩⟩, by decide⟩,
   ⟨.host, { up with mast := { st := .locked } }, ⟨by decide, fun _ => ⟨rfl, rfl⟩⟩, by decide⟩,
   ⟨.host, { up with mast := { st := .locked } }, ⟨by decide, by decide⟩, ⟨by decide, fun _ => ⟨rfl, rfl⟩⟩, by decide⟩,
   ⟨.host, up, ⟨by decide, fun _ => ⟨rfl, rfl⟩⟩, by decide⟩,
   ⟨{ up with mast := { st := .locked }, ticks := 1000000000 }, ⟨by decide, by decide⟩, by decide, by decide, by decide⟩,
   ⟨up, by decide, by decide⟩,
   ⟨.host, up, ⟨by decide, fun _ => ⟨rfl, rfl⟩⟩, by decide⟩,
   ⟨.host, wrF MST_CFG 0 1 1 ({ up with mast := { st := .locked } }), ⟨by decide, by decide⟩, ⟨by decide, fun _ => ⟨rfl, rfl⟩⟩,
    by decide, by decide⟩,
   ⟨.host, { up with mast := { st := .unsync } }, ⟨by decide, fun _ => ⟨rfl, rfl⟩⟩, by decide⟩,
   ⟨.host, { up with mast := { st := .locked } }, ⟨by decide, by decide⟩, ⟨by decide, fun _ => ⟨rfl, rfl⟩⟩, by decide, by decide⟩,
   ⟨.host, up, ⟨by decide, fun _ => ⟨rfl, rfl⟩⟩, by decide⟩,
   ⟨.host, wrF MST_CFG 0 1 1 ({ up with mast := { st := .held } }), ⟨by decide, by decide⟩, ⟨by decide, fun _ => ⟨rfl, rfl⟩⟩,
    by decide, by decide⟩,
   ⟨.host, up, ⟨by decide, fun _ => ⟨rfl, rfl⟩⟩, by decide⟩,
   ⟨.host, up, ⟨by decide, fun _ => ⟨rfl, rfl⟩⟩, by decide⟩,
   ⟨.host, wrF MST_CFG 0 1 1 ({ up with mast := { st := .held } }), ⟨by decide, by decide⟩, ⟨by decide, fun _ => ⟨rfl, rfl⟩⟩,
    by decide, by decide⟩⟩

theorem test_meets_MastTimeBlock :
    (∃ (who : Req) (k : Fin 5) (s : State) (n : Nat) (ws : List Word),
      Served who (MST_TIME_SUB + 4 * k.val) s ∧ tget none s.mast.freeze (reqIdx who) = some (n, ws)) ∧
    (∃ (who : Req) (k : Fin 5) (s : State),
      Served who (MST_TIME_SUB + 4 * k.val) s ∧ tget none s.mast.freeze (reqIdx who) = none ∧
      tget false s.mast.torn (reqIdx who) = false) ∧
    (∃ (who : Req) (k : Fin 5) (s : State),
      Served who (MST_TIME_SUB + 4 * k.val) s ∧ tget none s.mast.freeze (reqIdx who) = none ∧
      tget false s.mast.torn (reqIdx who) = true) ∧
    (∃ (who : Req) (s : State) (n : Nat) (ws : List Word),
      Served who MST_TIME_SEC_HI s ∧ tget none s.mast.freeze (reqIdx who) = some (n, ws)) ∧
    (∃ (who : Req) (s : State),
      Served who MST_TIME_SEC_HI s ∧ tget none s.mast.freeze (reqIdx who) = none ∧ tget false s.mast.torn (reqIdx who) = false) ∧
    (∃ (who : Req) (s : State),
      Served who MST_TIME_SEC_HI s ∧ tget none s.mast.freeze (reqIdx who) = none ∧ tget false s.mast.torn (reqIdx who) = true) ∧
    (∃ (who : Req) (s : State) (n : Nat) (ws : List Word),
      s.power.st ≠ .furled ∧ tget none s.mast.freeze (reqIdx who) = some (n, ws) ∧ n + 12500 ≤ s.ticks) ∧
    (∃ (who : Req) (s : State),
      s.power.st ≠ .furled ∧ ((∀ n ws, tget none s.mast.freeze (reqIdx who) = some (n, ws) → s.ticks < n + 12500))) :=
  ⟨⟨.host, 0, { up with mast := { freeze := [((reqIdx (.host : Req)), some (0, []))] } }, 0, [],
    ⟨by decide, fun _ => ⟨rfl, rfl⟩⟩, by decide⟩,
   ⟨.host, 0, { up with mast := { freeze := [((reqIdx (.host : Req)), none)], torn := [((reqIdx (.host : Req)), false)] } },
    ⟨by decide, fun _ => ⟨rfl, rfl⟩⟩, by decide, by decide⟩,
   ⟨.host, 0, { up with mast := { freeze := [((reqIdx (.host : Req)), none)], torn := [((reqIdx (.host : Req)), true)] } },
    ⟨by decide, fun _ => ⟨rfl, rfl⟩⟩, by decide, by decide⟩,
   ⟨.host, { up with mast := { freeze := [((reqIdx (.host : Req)), some (0, []))] } }, 0, [], ⟨by decide, fun _ => ⟨rfl, rfl⟩⟩,
    by decide⟩,
   ⟨.host, { up with mast := { freeze := [((reqIdx (.host : Req)), none)], torn := [((reqIdx (.host : Req)), false)] } },
    ⟨by decide, fun _ => ⟨rfl, rfl⟩⟩, by decide, by decide⟩,
   ⟨.host, { up with mast := { freeze := [((reqIdx (.host : Req)), none)], torn := [((reqIdx (.host : Req)), true)] } },
    ⟨by decide, fun _ => ⟨rfl, rfl⟩⟩, by decide, by decide⟩,
   ⟨.host, { up with mast := { freeze := [(0, some (0, []))] }, ticks := 12500 }, 0, [], by decide, by decide, by decide⟩,
   ⟨.host, up, by decide, fun n ws h => by cases h⟩⟩

theorem test_meets_MastCommits :
    (∃ (who : Req) (s : State),
      TablesWf s ∧ Served who MST_COMMIT s ∧ deckRestarting s = false ∧ commitRefused s (stagedTime s) = false) ∧
    (∃ (who : Req) (s : State),
      TablesWf s ∧ Served who MST_COMMIT s ∧ deckRestarting s = false ∧ commitRefused s (stagedTime s) = true) ∧
    (∃ (who : Req) (backward : Bool) (s : State),
      TablesWf s ∧ Served who MST_COMMIT s ∧ deckRestarting s = false ∧ commitRefused s (steppedTime s backward) = false) ∧
    (∃ (who : Req) (backward : Bool) (s : State),
      TablesWf s ∧ Served who MST_COMMIT s ∧ deckRestarting s = false ∧ commitRefused s (steppedTime s backward) = true) ∧
    (∃ (who : Req) (backward : Bool) (s : State), Served who MST_COMMIT s ∧ deckRestarting s = true) :=
  ⟨⟨.host, up, ⟨by decide, by decide⟩, ⟨by decide, fun _ => ⟨rfl, rfl⟩⟩, by decide, by decide⟩,
   ⟨.host, wrF MST_CFG 0 1 1 ({ up with mast := { st := .held } }), ⟨by decide, by decide⟩, ⟨by decide, fun _ => ⟨rfl, rfl⟩⟩,
    by decide, by decide⟩,
   ⟨.host, false, up, ⟨by decide, by decide⟩, ⟨by decide, fun _ => ⟨rfl, rfl⟩⟩, by decide, by decide⟩,
   ⟨.host, false, wrF MST_CFG 0 1 1 ({ up with mast := { st := .held } }), ⟨by decide, by decide⟩,
    ⟨by decide, fun _ => ⟨rfl, rfl⟩⟩, by decide, by decide⟩,
   ⟨.host, false, { up with deck := { st := .restarting, isStart := false } }, ⟨by decide, fun _ => ⟨rfl, rfl⟩⟩, by decide⟩⟩

theorem test_meets_MastInputs :
    (∃ (s : State), TablesWf s ∧ s.power.st ≠ .furled ∧ leapDue s = true) ∧
    (∃ (s : State), s.power.st ≠ .furled ∧ leapDue s = false) ∧
    (∃ (s : State), TablesWf s ∧ s.power.st ≠ .furled ∧ rdB s MST_CFG 2 = true) ∧
    (∃ (s : State), s.power.st ≠ .furled ∧ rdB s MST_CFG 2 = false) ∧
    (∃ (s : State), TablesWf s ∧ s.power.st ≠ .furled ∧ rdB s MST_CFG 2 = true ∧ ppsGone s = true) ∧
    (∃ (f : IrigFrame) (s : State),
      TablesWf s ∧ s.power.st ≠ .furled ∧ rdB s MST_CFG 3 = true ∧ (f.bcdOk = false ∨ (f.ext = true ∧ f.parityOk = false))) ∧
    (∃ (f : IrigFrame) (y : Nat) (s : State),
      TablesWf s ∧ s.power.st ≠ .furled ∧ rdB s MST_CFG 3 = true ∧ f.bcdOk = true ∧ (f.ext = false ∨ f.parityOk = true) ∧
      f.year = some y) ∧
    (∃ (f : IrigFrame) (s : State),
      TablesWf s ∧ s.power.st ≠ .furled ∧ rdB s MST_CFG 3 = true ∧ f.bcdOk = true ∧ (f.ext = false ∨ f.parityOk = true) ∧
      f.year = none) ∧
    (∃ (who : Req) (v : Word) (s : State), Served who MST_TQ s) ∧
    (∃ (sec : BitVec 32) (s : State), s.power.st ≠ .furled ∧ inHoldover s = true ∧ sec.toNat ≤ s.mast.holdSec) :=
  ⟨⟨wrF MST_UTC_OFS 16 2 1 (up), ⟨by decide, by decide⟩, by decide, by decide⟩,
   ⟨up, by decide, by decide⟩,
   ⟨wrF MST_CFG 2 1 1 up, ⟨by decide, by decide⟩, by decide, by decide⟩,
   ⟨up, by decide, by decide⟩,
   ⟨wrF MST_CFG 2 1 1 ({ up with ticks := 275000000 }), ⟨by decide, by decide⟩, by decide, by decide, by decide⟩,
   ⟨{ parityOk := false, bcdOk := false, dayOfYear := 0, secOfDay := 0, year := none, ext := false, leapPending := false, quality := 0#4 },
    wrF MST_CFG 3 1 1 up, ⟨by decide, by decide⟩, by decide, by decide, by decide⟩,
   ⟨{ parityOk := true, bcdOk := true, dayOfYear := 1, secOfDay := 0, year := some 0, ext := false, leapPending := false, quality := 0#4 },
    0, wrF MST_CFG 3 1 1 (wrF MST_CFG 3 1 1 up), ⟨by decide, by decide⟩, by decide, by decide, by decide, by decide, by decide⟩,
   ⟨{ parityOk := true, bcdOk := true, dayOfYear := 1, secOfDay := 0, year := none, ext := false, leapPending := false, quality := 0#4 },
    wrF MST_CFG 3 1 1 (wrF MST_CFG 3 1 1 up), ⟨by decide, by decide⟩, by decide, by decide, by decide, by decide, by decide⟩,
   ⟨.host, 0#32, up, ⟨by decide, fun _ => ⟨rfl, rfl⟩⟩⟩,
   ⟨0#32, { up with mast := { st := .held } }, by decide, by decide, by decide⟩⟩

theorem test_meets_MastCycleClock :
    (∃ (e : Int) (i : Option Nat) (s : State),
      s.power.st ≠ .furled ∧ phaseError s = some (e, i) ∧ (s.mast.cyc.st = .free ∨ s.mast.cyc.st = .flywheel)) ∧
    (∃ (e : Int) (i : Option Nat) (s : State),
      TablesWf s ∧ s.power.st ≠ .furled ∧ phaseError s = some (e, i) ∧ s.mast.cyc.st = .pullin ∧ 7 ≤ s.mast.cyc.inLock ∧
      e.natAbs ≤ lockAngle s) ∧
    (∃ (e : Int) (i : Option Nat) (s : State), s.power.st ≠ .furled ∧ phaseError s = some (e, i) ∧ s.mast.cyc.st = .pullin ∧
      (s.mast.cyc.inLock < 7 ∨ lockAngle s < e.natAbs)) ∧
    (∃ (e : Int) (i : Option Nat) (s : State),
      TablesWf s ∧ s.power.st ≠ .furled ∧ phaseError s = some (e, i) ∧ s.mast.cyc.st = .locked ∧ 2 ≤ s.mast.cyc.outLock ∧
      4 * lockAngle s < e.natAbs) ∧
    (∃ (e : Int) (i : Option Nat) (s : State), s.power.st ≠ .furled ∧ phaseError s = some (e, i) ∧ s.mast.cyc.st = .locked ∧
      (s.mast.cyc.outLock < 2 ∨ e.natAbs ≤ 4 * lockAngle s)) ∧
    (∃ (s : State), s.power.st ≠ .furled ∧ phaseError s = none) ∧
    (∃ (why : RefLoss) (s : State),
      s.power.st ≠ .furled ∧ refLost why s = true ∧ (s.mast.cyc.st = .locked ∨ s.mast.cyc.st = .pullin)) ∧
    (∃ (s : State), s.power.st ≠ .furled ∧ s.mast.cyc.st = .flywheel ∧ flyOver s = true ∧ rdF s MST_CYC_CFG 9 2 ≠ 3) ∧
    (∃ (ok : Bool) (s : State),
      s.power.st ≠ .furled ∧ s.mast.cyc.st = .flywheel ∧ flyOver s = true ∧ (ok = false ∨ rdF s MST_CYC_CFG 9 2 = 3)) ∧
    (∃ (who : Req) (v : Word) (s : State), TablesWf s ∧ Served who MST_CYC_CFG s) ∧
    (∃ (s : State), TablesWf s ∧ s.power.st ≠ .furled ∧ kernelIndex s ≠ s.mast.cyc.kern) ∧
    (∃ (s : State), s.power.st ≠ .furled ∧ kernelIndex s = s.mast.cyc.kern) :=
  ⟨⟨0, none,
    { up with mast := { cyc := { st := .free } }, scales := { chans := [(0, { hist := [{ tag := 0, turn := 0, x := 0, mark := 0 }] })] } },
    by decide, by decide, by decide⟩,
   ⟨0, none,
    { up with mast := { cyc := { st := .pullin, inLock := 7 } }, scales := { chans := [(0, { hist := [{ tag := 0, turn := 0, x := 0, mark := 0 }] })] } },
    ⟨by decide, by decide⟩, by decide, by decide, by decide, by decide, by decide⟩,
   ⟨0, none,
    { up with mast := { cyc := { st := .pullin } }, scales := { chans := [(0, { hist := [{ tag := 0, turn := 0, x := 0, mark := 0 }] })] } },
    by decide, by decide, by decide, by decide⟩,
   ⟨-2147483648, none,
    { up with mast := { cyc := { st := .locked, outLock := 2, angle := 2 ^ 63 } }, scales := { chans := [(0, { hist := [{ tag := 0, turn := 0, x := 0, mark := 0 }] })] } },
    ⟨by decide, by decide⟩, by decide, by decide, by decide, by decide, by decide⟩,
   ⟨0, none,
    { up with mast := { cyc := { st := .locked } }, scales := { chans := [(0, { hist := [{ tag := 0, turn := 0, x := 0, mark := 0 }] })] } },
    by decide, by decide, by decide, by decide⟩,
   ⟨up, by decide, by decide⟩,
   ⟨(.rms 0), { up with mast := { cyc := { st := .locked } } }, by decide, by decide, by decide⟩,
   ⟨{ up with mast := { cyc := { st := .flywheel, count := 1 } } }, by decide, by decide, by decide, by decide⟩,
   ⟨false, { up with mast := { cyc := { st := .flywheel, count := 1 } } }, by decide, by decide, by decide, by decide⟩,
   ⟨.host, 0#32, up, ⟨by decide, by decide⟩, ⟨by decide, fun _ => ⟨rfl, rfl⟩⟩⟩,
   ⟨{ up with mast := { cyc := { count := 1 } } }, ⟨by decide, by decide⟩, by decide, by decide⟩,
   ⟨up, by decide, by decide⟩⟩

theorem test_meets_MastSchedule :
    (∃ (e : Fin 512) (s : State),
      TablesWf s ∧ s.power.st ≠ .furled ∧ schDue s (schEntry s e.val) = true ∧ (schEntry s e.val).angleKind = true ∧
      (schEntry s e.val).reqLock = true ∧ s.mast.cyc.st ≠ .locked) ∧
    (∃ (e : Fin 512) (s : State), s.power.st ≠ .furled ∧ schDue s (schEntry s e.val) = true ∧
      ((schEntry s e.val).angleKind = false ∨ (schEntry s e.val).reqLock = false ∨ s.mast.cyc.st = .locked) ∧
      (schEntry s e.val).target ≠ 3) ∧
    (∃ (e : Fin 512) (s : State), s.power.st ≠ .furled ∧ schDue s (schEntry s e.val) = true ∧
      ((schEntry s e.val).angleKind = false ∨ (schEntry s e.val).reqLock = false ∨ s.mast.cyc.st = .locked) ∧
      (schEntry s e.val).target = 3 ∧ s.mast.trig.length < 32) ∧
    (∃ (e : Fin 512) (s : State), TablesWf s ∧ s.power.st ≠ .furled ∧ schDue s (schEntry s e.val) = true ∧
      ((schEntry s e.val).angleKind = false ∨ (schEntry s e.val).reqLock = false ∨ s.mast.cyc.st = .locked) ∧
      (schEntry s e.val).target = 3 ∧ 32 ≤ s.mast.trig.length) ∧
    (∃ (e : Fin 512) (s : State), s.power.st ≠ .furled ∧ schDue s (schEntry s e.val) = false) ∧
    (∃ (who : Req) (k : Fin 6) (s : State), TablesWf s ∧ Served who MST_SCH_CMD s) ∧
    (∃ (who : Req) (s : State),
      TablesWf s ∧ Served who MST_SCH_CMD s ∧ badEntry (rd s (MST_SCH_W 0)).toNat (rd s (MST_SCH_W 4)).toNat = true) ∧
    (∃ (who : Req) (s : State),
      TablesWf s ∧ Served who MST_SCH_CMD s ∧ badEntry (rd s (MST_SCH_W 0)).toNat (rd s (MST_SCH_W 4)).toNat = false ∧
      (rdB s (MST_SCH_W 0) 0 = false ∨ entryPast s (storedEntry s) = false)) ∧
    (∃ (who : Req) (s : State), TablesWf s ∧ Served who MST_SCH_CMD s) :=
  ⟨⟨0, { up with mast := { sched := [(0, { armed := true, angleKind := true, reqLock := true })] } }, ⟨by decide, by decide⟩,
    by decide, by decide, by decide, by decide, by decide⟩,
   ⟨0, { up with mast := { sched := [(0, { armed := true })] } }, by decide, by decide, by decide, by decide⟩,
   ⟨0, { up with mast := { sched := [(0, { armed := true, target := 3 })] } }, by decide, by decide, by decide, by decide,
    by decide⟩,
   ⟨0, { up with mast := { sched := [(0, { armed := true, target := 3 })], trig := List.replicate 32 (0, 0) } },
    ⟨by decide, by decide⟩, by decide, by decide, by decide, by decide, by decide⟩,
   ⟨0, up, by decide, by decide⟩,
   ⟨.host, 0, up, ⟨by decide, by decide⟩, ⟨by decide, fun _ => ⟨rfl, rfl⟩⟩⟩,
   ⟨.host, wrF (MST_SCH_W 0) 4 4 4 (up), ⟨by decide, by decide⟩, ⟨by decide, fun _ => ⟨rfl, rfl⟩⟩, by decide⟩,
   ⟨.host, up, ⟨by decide, by decide⟩, ⟨by decide, fun _ => ⟨rfl, rfl⟩⟩, by decide, by decide⟩,
   ⟨.host, up, ⟨by decide, by decide⟩, ⟨by decide, fun _ => ⟨rfl, rfl⟩⟩⟩⟩

theorem test_meets_PortReceive :
    (∃ (p : Fin 64) (f : RxFrame) (s : State), s.power.st = .fullSail ∧ rdB s (PRT_CFG p.val) 2 = false) ∧
    (∃ (p : Fin 64) (f : RxFrame) (c : Nat) (s : State),
      TablesWf s ∧ s.power.st = .fullSail ∧ rdB s (PRT_CFG p.val) 2 = true ∧ s.boot.dataPath = true ∧
      badFrame s p.val f = some c) ∧
    (∃ (p : Fin 64) (f : RxFrame) (s : State),
      TablesWf s ∧ s.power.st = .fullSail ∧ rdB s (PRT_CFG p.val) 2 = true ∧ s.boot.dataPath = true ∧
      badFrame s p.val f = none ∧ 24576 < bufBytes (port s p.val) + f.len) ∧
    (∃ (p : Fin 64) (f : RxFrame) (s : State),
      TablesWf s ∧ s.power.st = .fullSail ∧ rdB s (PRT_CFG p.val) 2 = true ∧ s.boot.dataPath = true ∧
      badFrame s p.val f = none ∧ bufBytes (port s p.val) + f.len ≤ 24576 ∧ f.kind = .other ∧ f.da = .otherUnicast) ∧
    (∃ (p : Fin 64) (f : RxFrame) (s : State),
      s.power.st = .fullSail ∧ rdB s (PRT_CFG p.val) 2 = true ∧ s.boot.dataPath = true ∧ badFrame s p.val f = none ∧
      f.len ≤ 24576 ∧ f.kind = .sv ∧ f.da = .port ∧ f.tci = none ∧ (port s p.val).buf = [] ∧
      (fifo s (pipeOf s p.val)).length < 32) ∧
    (∃ (p : Fin 64) (f : RxFrame) (s : State),
      TablesWf s ∧ s.power.st = .fullSail ∧ rdB s (PRT_CFG p.val) 2 = true ∧ s.boot.dataPath = true ∧
      badFrame s p.val f = none ∧ bufBytes (port s p.val) + f.len ≤ 24576 ∧ f.len ≤ 2048 ∧ f.kind = .other ∧ f.da = .port ∧
      f.tci = none ∧ ringOn s p.val = true ∧ ringRoom s p.val ≠ 0) ∧
    (∃ (p : Fin 64) (s : State),
      s.power.st = .fullSail ∧ (port s p.val).xoff = true ∧ xonAtBytes s p.val ≤ bufBytes (port s p.val) ∧
      (port s p.val).pfcAt + quantaTicks s p.val 64 ≤ s.ticks ∧ (port s p.val).txLpi = false) ∧
    (∃ (p : Fin 64) (s : State),
      s.power.st = .fullSail ∧ (port s p.val).xoff = true ∧ bufBytes (port s p.val) < xonAtBytes s p.val ∧
      (port s p.val).txLpi = false) ∧
    (∃ (p : Fin 64) (k : Fin 8) (s : State),
      s.power.st = .fullSail ∧ (port s p.val).paused.testBit k.val = true ∧ tget 0 (port s p.val).pauseEnd k.val ≤ s.ticks ∧
      (port s p.val).paused ≠ 2 ^ k.val) ∧
    (∃ (p : Fin 64) (k : Fin 8) (s : State),
      TablesWf s ∧ s.power.st = .fullSail ∧ (port s p.val).paused = 2 ^ k.val ∧ tget 0 (port s p.val).pauseEnd k.val ≤ s.ticks) :=
  ⟨⟨0, { len := 0, codeErr := false, fcsOk := false, da := .port, tci := none, kind := (.pfc []), body := none },
    { up with power := { st := .fullSail } }, by decide, by decide⟩,
   ⟨0, { len := 0, codeErr := true, fcsOk := false, da := .port, tci := none, kind := (.pfc []), body := none }, cRX_CODE_ERR,
    wrF (PRT_CFG (0 : Fin 64).val) 2 1 1 ({ up with power := { st := .fullSail }, boot := { up.boot with dataPath := true } }),
    ⟨by decide, by decide⟩, by decide, by decide, by decide, by decide⟩,
   ⟨0, { len := 64, codeErr := false, fcsOk := true, da := .port, tci := none, kind := (.pfc []), body := none },
    wrF (PRT_CFG 0) 24 8 1 (wrF (PRT_CFG (0 : Fin 64).val) 2 1 1 ({ up with power := { st := .fullSail }, boot := { up.boot with dataPath := true }, ports := [(0, { buf := [{ port := 0, stamp := 0, order := 0, len := 24576, pcp := 0, tci := none, body := .c37 0 c37x }] })] })),
    ⟨by decide, by decide⟩, by decide, by decide, by decide, by decide, by decide⟩,
   ⟨0, { len := 64, codeErr := false, fcsOk := true, da := .otherUnicast, tci := none, kind := .other, body := none },
    wrF (PRT_CFG 0) 24 8 1 (wrF (PRT_CFG (0 : Fin 64).val) 2 1 1 ({ up with power := { st := .fullSail }, boot := { up.boot with dataPath := true } })),
    ⟨by decide, by decide⟩, by decide, by decide, by decide, by decide, by decide, by decide, by decide⟩,
   ⟨0, { len := 64, codeErr := false, fcsOk := true, da := .port, tci := none, kind := .sv, body := none },
    wrF (PRT_CFG 0) 24 8 1 (wrF (PRT_CFG (0 : Fin 64).val) 2 1 1 ({ up with power := { st := .fullSail }, boot := { up.boot with dataPath := true }, ports := [((0 : Fin 64).val, { buf := [] })] })),
    by decide, by decide, by decide, by decide, by decide, by decide, by decide, by decide, by decide, by decide⟩,
   ⟨0, { len := 64, codeErr := false, fcsOk := true, da := .port, tci := none, kind := .other, body := none },
    wrF (PRT_RX_TAIL 0) 0 9 1 (wrF (PRT_RX_CTRL 0) 0 1 1 (wrF (PRT_CFG 0) 24 8 1 (wrF (PRT_CFG (0 : Fin 64).val) 2 1 1 ({ up with power := { st := .fullSail }, boot := { up.boot with dataPath := true } })))),
    ⟨by decide, by decide⟩, by decide, by decide, by decide, by decide, by decide, by decide, by decide, by decide, by decide,
    by decide, by decide⟩,
   ⟨0,
    { up with power := { st := .fullSail }, ports := [((0 : Fin 64).val, { xoff := true, txLpi := false })], ticks := 1000000 },
    by decide, by decide, by decide, by decide, by decide⟩,
   ⟨0,
    wrF (PRT_PFC 0) 16 9 1 ({ up with power := { st := .fullSail }, ports := [((0 : Fin 64).val, { xoff := true, txLpi := false })] }),
    by decide, by decide, by decide, by decide⟩,
   ⟨0, 0, { up with power := { st := .fullSail }, ports := [(0, { paused := 3 })] }, by decide, by decide, by decide, by decide⟩,
   ⟨0, 0, { up with power := { st := .fullSail }, ports := [((0 : Fin 64).val, { paused := 2 ^ (0 : Fin 8).val })] },
    ⟨by decide, by decide⟩, by decide, by decide, by decide⟩⟩

theorem test_meets_PortLinks :
    (∃ (p : Fin 64) (s : State), TablesWf s ∧ s.power.st = .fullSail ∧ rdB s (PRT_CFG p.val) 2 = true ∧ lpiDue s p.val = true) ∧
    (∃ (p : Fin 64) (s : State),
      TablesWf s ∧ s.power.st = .fullSail ∧ rdB s (PRT_CFG p.val) 2 = true ∧ (port s p.val).rxLpi = false) ∧
    (∃ (p : Fin 64) (s : State),
      TablesWf s ∧ s.power.st = .fullSail ∧ rdB s (PRT_CFG p.val) 2 = true ∧ (port s p.val).rxLpi = true) ∧
    (∃ (who : Req) (p : Fin 64) (v : Word) (s : State), TablesWf s ∧ Served who (PRT_EEE p.val) s) ∧
    (∃ (c : Fin 4) (p : Fin 64) (s : State), TablesWf s ∧ Served (.deck c) (PRT_RX_CTRL p.val) s ∧ ringOn s p.val = false) ∧
    (∃ (c : Fin 4) (p : Fin 64) (s : State), TablesWf s ∧ Served (.deck c) (PRT_RX_CTRL p.val) s) ∧
    (∃ (c : Fin 4) (p : Fin 64) (k : BitVec 9) (l : List (BitVec 27)) (s : State),
      TablesWf s ∧ Served (.deck c) (PRT_RX_TAIL p.val) s) ∧
    (∃ (p : Fin 64) (k : BitVec 9) (l : List (BitVec 27)) (s : State),
      Served .host (PRT_RX_CTRL p.val) s ∧ Served .host (PRT_RX_TAIL p.val) s) ∧
    (∃ (p : Fin 64) (s : State), TablesWf s ∧ s.power.st = .fullSail ∧ readyDue s p.val = true) ∧
    (∃ (p : Fin 64) (f : TxFrame) (s : State),
      TablesWf s ∧ s.power.st = .fullSail ∧ rdB s (PRT_CFG p.val) 2 = true ∧ (port s p.val).tx = some f ∧ f.ptpEvent = none ∧
      f.cast < 3) ∧
    (∃ (p : Fin 64) (f : TxFrame) (tag : Nat) (m : Nat) (q : NMap Port) (s : State),
      s.power.st = .fullSail ∧ rdB s (PRT_CFG p.val) 2 = true ∧ (port s p.val).tx = some f ∧ f.ptpEvent = some (tag, m) ∧
      q = tset {} s.ports p.val { port s p.val with tx := none, idleAt := s.ticks } ∧ (tget {} q p.val).tsq.length < 64) ∧
    (∃ (who : Req) (p : Fin 64) (s : State), Served who (PRT_TSQ_W p.val 0) s ∧ (port s p.val).tsq = []) ∧
    (∃ (who : Req) (p : Fin 64) (e : TsqEntry) (r : List TsqEntry) (s : State),
      Served who (PRT_TSQ_W p.val 0) s ∧ (port s p.val).tsq = e :: r) ∧
    (∃ (who : Req) (p : Fin 64) (s : State), Served who (PRT_TSQ_W p.val 2) s ∧ (port s p.val).tsq = []) ∧
    (∃ (who : Req) (p : Fin 64) (e : TsqEntry) (r : List TsqEntry) (s : State),
      Served who (PRT_TSQ_W p.val 2) s ∧ (port s p.val).tsq = e :: r ∧ (port s p.val).latched = some e) ∧
    (∃ (who : Req) (p : Fin 64) (clr : Bool) (s : State), TablesWf s ∧ Served who (PRT_SNAP p.val) s) ∧
    (∃ (who : Req) (clr : Bool) (s : State),
      Served who (PRT_SNAP 0) s ∧ ((∀ t c, s.mast.snapAll = some (t, c) → t ≠ s.ticks))) ∧
    (∃ (who : Req) (clr : Bool) (c : Bool) (s : State), Served who (PRT_SNAP 0) s ∧ s.mast.snapAll = some (s.ticks, c)) ∧
    (∃ (p : Fin 64) (a : Bool) (s : State),
      TablesWf s ∧ s.power.st = .fullSail ∧ s.boot.started = true ∧ rdB s (PRT_CFG p.val) 2 = true ∧
      (port s p.val).linkUp = false) ∧
    (∃ (p : Fin 64) (a : Bool) (s : State),
      TablesWf s ∧ s.power.st = .fullSail ∧ s.boot.started = true ∧ rdB s (PRT_CFG p.val) 2 = true ∧
      (port s p.val).linkUp = true) :=
  ⟨⟨0,
    wrF (PRT_CFG 0) 4 1 1 (wrF (PRT_CFG (0 : Fin 64).val) 2 1 1 ({ up with power := { st := .fullSail }, ticks := 1000000 })),
    ⟨by decide, by decide⟩, by decide, by decide, by decide⟩,
   ⟨0,
    wrF (PRT_CFG (0 : Fin 64).val) 2 1 1 ({ up with power := { st := .fullSail }, ports := [((0 : Fin 64).val, { rxLpi := false })] }),
    ⟨by decide, by decide⟩, by decide, by decide, by decide⟩,
   ⟨0,
    wrF (PRT_CFG (0 : Fin 64).val) 2 1 1 ({ up with power := { st := .fullSail }, ports := [((0 : Fin 64).val, { rxLpi := true })] }),
    ⟨by decide, by decide⟩, by decide, by decide, by decide⟩,
   ⟨.host, 0, 0#32, up, ⟨by decide, by decide⟩, ⟨by decide, fun _ => ⟨rfl, rfl⟩⟩⟩,
   ⟨0, 0, up, ⟨by decide, by decide⟩, ⟨by decide, fun _ => ⟨rfl, rfl⟩⟩, by decide⟩,
   ⟨0, 0, up, ⟨by decide, by decide⟩, ⟨by decide, fun _ => ⟨rfl, rfl⟩⟩⟩,
   ⟨0, 0, 0#9, [], up, ⟨by decide, by decide⟩, ⟨by decide, fun _ => ⟨rfl, rfl⟩⟩⟩,
   ⟨0, 0#9, [], up, ⟨by decide, fun _ => ⟨rfl, rfl⟩⟩, ⟨by decide, fun _ => ⟨rfl, rfl⟩⟩⟩,
   ⟨0, { up with power := { st := .fullSail }, ports := [(0, { readyPend := some 0 })] }, ⟨by decide, by decide⟩, by decide,
    by decide⟩,
   ⟨0, { len := 0, cast := 0, ptpEvent := none, body := .none },
    wrF (PRT_CFG (0 : Fin 64).val) 2 1 1 ({ up with power := { st := .fullSail }, ports := [((0 : Fin 64).val, { tx := some ({ len := 0, cast := 0, ptpEvent := none, body := .none } : TxFrame) })] }),
    ⟨by decide, by decide⟩, by decide, by decide, by decide, by decide, by decide⟩,
   ⟨0, { len := 0, cast := 0, ptpEvent := some (0, 0), body := .none }, 0, 0,
    tset {} [(0, { tx := some { len := 0, cast := 0, ptpEvent := some (0, 0), body := .none } })] 0 {},
    wrF (PRT_CFG 0) 2 1 1 (wrF (PRT_CFG (0 : Fin 64).val) 2 1 1 ({ up with power := { st := .fullSail }, ports := [(0, { tx := some { len := 0, cast := 0, ptpEvent := some (0, 0), body := .none } })] })),
    by decide, by decide, by decide, by decide, by decide, by decide⟩,
   ⟨.host, 0, { up with ports := [((0 : Fin 64).val, { tsq := [] })] }, ⟨by decide, fun _ => ⟨rfl, rfl⟩⟩, by decide⟩,
   ⟨.host, 0, { stamp := 0, seq := 0, egress := false, msgType := 0, tag := 0 }, [],
    { up with ports := [((0 : Fin 64).val, { tsq := ({ stamp := 0, seq := 0, egress := false, msgType := 0, tag := 0 } : TsqEntry) :: [] })] },
    ⟨by decide, fun _ => ⟨rfl, rfl⟩⟩, by decide⟩,
   ⟨.host, 0, { up with ports := [((0 : Fin 64).val, { tsq := [] })] }, ⟨by decide, fun _ => ⟨rfl, rfl⟩⟩, by decide⟩,
   ⟨.host, 0, { stamp := 0, seq := 0, egress := false, msgType := 0, tag := 0 }, [],
    { up with ports := [((0 : Fin 64).val, { tsq := ({ stamp := 0, seq := 0, egress := false, msgType := 0, tag := 0 } : TsqEntry) :: [], latched := some ({ stamp := 0, seq := 0, egress := false, msgType := 0, tag := 0 } : TsqEntry) })] },
    ⟨by decide, fun _ => ⟨rfl, rfl⟩⟩, by decide, by decide⟩,
   ⟨.host, 0, false, up, ⟨by decide, by decide⟩, ⟨by decide, fun _ => ⟨rfl, rfl⟩⟩⟩,
   ⟨.host, false, up, ⟨by decide, fun _ => ⟨rfl, rfl⟩⟩, fun t c h => by cases h⟩,
   ⟨.host, false, false, { up with mast := { snapAll := some (0, false) } }, ⟨by decide, fun _ => ⟨rfl, rfl⟩⟩, by decide⟩,
   ⟨0, false,
    wrF (PRT_CFG (0 : Fin 64).val) 2 1 1 ({ up with power := { st := .fullSail }, boot := { up.boot with started := true }, ports := [((0 : Fin 64).val, { linkUp := false })] }),
    ⟨by decide, by decide⟩, by decide, by decide, by decide, by decide⟩,
   ⟨0, false,
    wrF (PRT_CFG (0 : Fin 64).val) 2 1 1 ({ up with power := { st := .fullSail }, boot := { up.boot with started := true }, ports := [((0 : Fin 64).val, { linkUp := true })] }),
    ⟨by decide, by decide⟩, by decide, by decide, by decide, by decide⟩⟩

theorem test_meets_IngestFrames :
    (∃ (k : Fin 4) (s : State), s.power.st = .fullSail ∧ fifo s k.val = []) ∧
    (∃ (k : Fin 4) (i : IngItem) (r : List IngItem) (s : State),
      s.power.st = .fullSail ∧ s.boot.dataPath = true ∧ k.val < pipeCount s ∧ fifo s k.val = i :: r) ∧
    (∃ (k : Fin 4) (i : IngItem) (r : List IngItem) (ip : Nat) (f : C37Frame) (s : State) (u : State),
      TablesWf s ∧ s.power.st = .fullSail ∧ s.boot.dataPath = true ∧ k.val < pipeCount s ∧ fifo s k.val = i :: r ∧
      i.body = .c37 ip f ∧ f.sizeOk = false ∧ u = count (ING_PIPE (2 * k.val)) 1 (refillFifo k.val (setFifo k.val r s))) ∧
    (∃ (k : Fin 4) (i : IngItem) (r : List IngItem) (f : SvFrame) (n : Nat) (c : SvSub) (s : State) (u : State),
      TablesWf s ∧ s.power.st = .fullSail ∧ s.boot.dataPath = true ∧ k.val < pipeCount s ∧ fifo s k.val = i :: r ∧
      i.body = .sv f ∧ u = count (ING_PIPE (2 * k.val)) 1 (refillFifo k.val (setFifo k.val r s)) ∧ svMalformed u f = false ∧
      svUnsupported f = false ∧ subOf u f = some (n, c) ∧ f.confRev = c.confRev ∧ svOver f = false ∧
      (svSt u n).st ≠ .overLimit ∧
      (f.asdus.any (fun a => decide (a.channels.length ≠ c.channels ∧ a.channels.length ≤ 8)) = false) ∧ f.simulated = false ∧
      f.asdus.filter (fun a => decide ((svSt u n).lastCnt ≠ some a.smpCnt)) ≠ []) ∧
    (∃ (n : BitVec 14) (cmd : SourceCmd) (q : Fin 32) (prio : Fin 8) (c : StreamCfg) (s : State),
      s.power.st = .fullSail ∧ streamCfg s n.toNat = some c ∧ c.isLocal = false ∧
      sourceCmdOk c (streamSt s n.toNat) cmd = true ∧ s.deck.st = .run ∧ qUsed s q.val = true ∧ qHost s q.val = false ∧
      qFull s q.val 64 = false) ∧
    (∃ (n : BitVec 14) (cmd : SourceCmd) (q : Fin 32) (prio : Fin 8) (c : StreamCfg) (s : State),
      s.power.st = .fullSail ∧ streamCfg s n.toNat = some c ∧ sourceCmdOk c (streamSt s n.toNat) cmd = false) ∧
    (∃ (s : State), TablesWf s ∧ s.power.st = .fullSail ∧ agePassed s = true) ∧
    (∃ (s : State), s.power.st = .fullSail ∧ agePassed s = false) ∧
    (∃ (who : Req) (c : StreamCfg) (s : State), TablesWf s ∧ Served who ING_STREAM_CMD s ∧ streamCfg s (selStream s) = some c) ∧
    (∃ (who : Req) (s : State), TablesWf s ∧ Served who ING_STREAM_CMD s ∧ streamCfg s (selStream s) = none ∧
      s.cfg.subs.find? (fun p => decide (p.2.entry = selStream s)) = none) ∧
    (∃ (who : Req) (n : Nat) (c : SvSub) (s : State),
      TablesWf s ∧ Served who ING_STREAM_CMD s ∧ streamCfg s (selStream s) = none ∧
      s.cfg.subs.find? (fun p => decide (p.2.entry = selStream s)) = some (n, c)) ∧
    (∃ (who : Req) (s : State), Served who ING_STREAM_CMD s) ∧
    (∃ (who : Req) (s : State), Served who ING_LAT_CTRL s) ∧
    (∃ (who : Req) (clr : Bool) (s : State), TablesWf s ∧ Served who ING_SNAP s) ∧
    (∃ (k : Fin 4) (s : State), s.power.st = .fullSail ∧ s.boot.dataPath = false) :=
  ⟨⟨0, { up with power := { st := .fullSail }, ing := { fifo := [((0 : Fin 4).val, [])] } }, by decide, by decide⟩,
   ⟨0, { port := 0, stamp := 0, order := 0, len := 0, pcp := 0, tci := none, body := (.c37 0 c37x) }, [],
    { up with power := { st := .fullSail }, boot := { up.boot with dataPath := true }, ing := { fifo := [((0 : Fin 4).val, ({ port := 0, stamp := 0, order := 0, len := 0, pcp := 0, tci := none, body := (.c37 0 c37x) } : IngItem) :: [])] } },
    by decide, by decide, by decide, by decide⟩,
   ⟨0, { port := 0, stamp := 0, order := 0, len := 0, pcp := 0, tci := none, body := .c37 0 c37x }, [], 0,
    { sync := 0#16, sizeOk := false, crcOk := false, idcode := 0#16, soc := 0#32, fracsec := 0#32, body := [], cfg := [], dataRate := 0, timeBase := 0#24, more := false, numPmu := 0 },
    { up with power := { st := .fullSail }, boot := { up.boot with dataPath := true }, ing := { fifo := [((0 : Fin 4).val, ({ port := 0, stamp := 0, order := 0, len := 0, pcp := 0, tci := none, body := .c37 0 c37x } : IngItem) :: [])] } },
    count (ING_PIPE (2 * (0 : Fin 4).val)) 1 (refillFifo (0 : Fin 4).val (setFifo (0 : Fin 4).val [] ({ up with power := { st := .fullSail }, boot := { up.boot with dataPath := true }, ing := { fifo := [((0 : Fin 4).val, ({ port := 0, stamp := 0, order := 0, len := 0, pcp := 0, tci := none, body := .c37 0 c37x } : IngItem) :: [])] } }))),
    ⟨by decide, by decide⟩, by decide, by decide, by decide, by decide, by decide, by decide, by decide⟩,
   ⟨0,
    { port := 0, stamp := 0, order := 0, len := 0, pcp := 0, tci := none, body := .sv { asn1Ok := true, dmac := 0#48, appid := 0#16, svid := 0, confRev := 0, simulated := false, asdus := [{ smpCnt := 0, smpSynch := 0, channels := [] }] } },
    [],
    { asn1Ok := true, dmac := 0#48, appid := 0#16, svid := 0, confRev := 0, simulated := false, asdus := [{ smpCnt := 0, smpSynch := 0, channels := [] }] },
    0,
    { dmac := 0#48, appid := 0#16, svid := 0, confRev := 0, rate := 1, channels := 0, toScales := false, simOk := false, localOk := false, group := 0, entry := 0 },
    { up with power := { st := .fullSail }, boot := { up.boot with dataPath := true }, ing := { fifo := [((0 : Fin 4).val, ({ port := 0, stamp := 0, order := 0, len := 0, pcp := 0, tci := none, body := .sv { asn1Ok := true, dmac := 0#48, appid := 0#16, svid := 0, confRev := 0, simulated := false, asdus := [{ smpCnt := 0, smpSynch := 0, channels := [] }] } } : IngItem) :: [])] }, cfg := { subs := [(0, ({ dmac := 0#48, appid := 0#16, svid := 0, confRev := 0, rate := 1, channels := 0, toScales := false, simOk := false, localOk := false, group := 0, entry := 0 } : SvSub))] } },
    count (ING_PIPE (2 * (0 : Fin 4).val)) 1 (refillFifo (0 : Fin 4).val (setFifo (0 : Fin 4).val [] ({ up with power := { st := .fullSail }, boot := { up.boot with dataPath := true }, ing := { fifo := [((0 : Fin 4).val, ({ port := 0, stamp := 0, order := 0, len := 0, pcp := 0, tci := none, body := .sv { asn1Ok := true, dmac := 0#48, appid := 0#16, svid := 0, confRev := 0, simulated := false, asdus := [{ smpCnt := 0, smpSynch := 0, channels := [] }] } } : IngItem) :: [])] }, cfg := { subs := [(0, ({ dmac := 0#48, appid := 0#16, svid := 0, confRev := 0, rate := 1, channels := 0, toScales := false, simOk := false, localOk := false, group := 0, entry := 0 } : SvSub))] } }))),
    ⟨by decide, by decide⟩, by decide, by decide, by decide, by decide, by decide, by decide, by decide, by decide, by decide,
    by decide, by decide, by decide, by decide, by decide, by decide⟩,
   ⟨0#14, .turnOff, 0, 0,
    { srcIp := 0, idcode := 0, block := 0, layout := { phFloat := false, polar := false, freqFloat := false, anFloat := false, phasors := 0, analogs := 0, digitals := 0, phUnits := [], anUnits := [], fnom60 := false }, cls := 0, rate := 0, rateCode := 0, timeBase := 0, tier := false, filtered := false, slowHeld := false, tqMax := 0, unlockMax := 0, testOk := false, startCmd := false, cfg3 := false, isLocal := false },
    wrF (EGR_Q_CFG 0) 10 11 1025 ({ up with power := { st := .fullSail }, cfg := { streams := [((0#14 : BitVec 14).toNat, ({ srcIp := 0, idcode := 0, block := 0, layout := { phFloat := false, polar := false, freqFloat := false, anFloat := false, phasors := 0, analogs := 0, digitals := 0, phUnits := [], anUnits := [], fnom60 := false }, cls := 0, rate := 0, rateCode := 0, timeBase := 0, tier := false, filtered := false, slowHeld := false, tqMax := 0, unlockMax := 0, testOk := false, startCmd := false, cfg3 := false, isLocal := false } : StreamCfg))] }, deck := { st := .run } }),
    by decide, by decide, by decide, by decide, by decide, by decide, by decide, by decide⟩,
   ⟨0#14, .turnOn, 0, 0,
    { srcIp := 0, idcode := 0, block := 0, layout := { phFloat := false, polar := false, freqFloat := false, anFloat := false, phasors := 0, analogs := 0, digitals := 0, phUnits := [], anUnits := [], fnom60 := false }, cls := 0, rate := 0, rateCode := 0, timeBase := 0, tier := false, filtered := false, slowHeld := false, tqMax := 0, unlockMax := 0, testOk := false, startCmd := false, cfg3 := false, isLocal := false },
    { up with power := { st := .fullSail }, cfg := { streams := [((0#14 : BitVec 14).toNat, ({ srcIp := 0, idcode := 0, block := 0, layout := { phFloat := false, polar := false, freqFloat := false, anFloat := false, phasors := 0, analogs := 0, digitals := 0, phUnits := [], anUnits := [], fnom60 := false }, cls := 0, rate := 0, rateCode := 0, timeBase := 0, tier := false, filtered := false, slowHeld := false, tqMax := 0, unlockMax := 0, testOk := false, startCmd := false, cfg3 := false, isLocal := false } : StreamCfg))] } },
    by decide, by decide, by decide⟩,
   ⟨wrF ING_LAT_CTRL 0 16 1 ({ up with power := { st := .fullSail }, ticks := 10 ^ 11 }), ⟨by decide, by decide⟩, by decide,
    by decide⟩,
   ⟨{ up with power := { st := .fullSail } }, by decide, by decide⟩,
   ⟨.host,
    { srcIp := 0, idcode := 0, block := 0, layout := { phFloat := false, polar := false, freqFloat := false, anFloat := false, phasors := 0, analogs := 0, digitals := 0, phUnits := [], anUnits := [], fnom60 := false }, cls := 0, rate := 0, rateCode := 0, timeBase := 0, tier := false, filtered := false, slowHeld := false, tqMax := 0, unlockMax := 0, testOk := false, startCmd := false, cfg3 := false, isLocal := false },
    { up with cfg := { streams := [(0, ({ srcIp := 0, idcode := 0, block := 0, layout := { phFloat := false, polar := false, freqFloat := false, anFloat := false, phasors := 0, analogs := 0, digitals := 0, phUnits := [], anUnits := [], fnom60 := false }, cls := 0, rate := 0, rateCode := 0, timeBase := 0, tier := false, filtered := false, slowHeld := false, tqMax := 0, unlockMax := 0, testOk := false, startCmd := false, cfg3 := false, isLocal := false } : StreamCfg))] } },
    ⟨by decide, by decide⟩, ⟨by decide, fun _ => ⟨rfl, rfl⟩⟩, by decide⟩,
   ⟨.host, up, ⟨by decide, by decide⟩, ⟨by decide, fun _ => ⟨rfl, rfl⟩⟩, by decide, by decide⟩,
   ⟨.host, 0,
    { dmac := 0#48, appid := 0#16, svid := 0, confRev := 0, rate := 0, channels := 0, toScales := false, simOk := false, localOk := false, group := 0, entry := 0 },
    { up with cfg := { subs := [(0, ({ dmac := 0#48, appid := 0#16, svid := 0, confRev := 0, rate := 0, channels := 0, toScales := false, simOk := false, localOk := false, group := 0, entry := 0 } : SvSub))] } },
    ⟨by decide, by decide⟩, ⟨by decide, fun _ => ⟨rfl, rfl⟩⟩, by decide, by decide⟩,
   ⟨.host, up, ⟨by decide, fun _ => ⟨rfl, rfl⟩⟩⟩,
   ⟨.host, up, ⟨by decide, fun _ => ⟨rfl, rfl⟩⟩⟩,
   ⟨.host, false, up, ⟨by decide, by decide⟩, ⟨by decide, fun _ => ⟨rfl, rfl⟩⟩⟩,
   ⟨0, { up with power := { st := .fullSail }, boot := { up.boot with dataPath := false } }, by decide, by decide⟩⟩

theorem test_meets_MarketTableaus :
    (∃ (s : State), s.power.st = .fullSail ∧ openDue s = true ∧ storeRoom s = s ∧ heldFor s s.mkt.next = []) ∧
    (∃ (s : State), s.power.st = .fullSail ∧ openDue s = true) ∧
    (∃ (s : State), s.power.st = .fullSail ∧ openDue s = false) ∧
    (∃ (inst : Nat) (k : Fin 8) (t : Tableau) (s : State),
      s.power.st = .fullSail ∧ tabOf s inst = some t ∧ secOf t k.val = .open ∧ sealTime s t k.val ≤ s.tai ∧
      beforeSeal s inst k.val = false ∧ sealBlocked s inst k.val = false) ∧
    (∃ (inst : Nat) (k : Fin 8) (t : Tableau) (s : State),
      TablesWf s ∧ s.power.st = .fullSail ∧ tabOf s inst = some t ∧ secOf t k.val = .open ∧ sealTime s t k.val ≤ s.tai ∧
      beforeSeal s inst k.val = false ∧ sealBlocked s inst k.val = true ∧ k.val ∉ t.sealHeld) ∧
    (∃ (inst : Nat) (k : Fin 8) (t : Tableau) (s : State),
      s.power.st = .fullSail ∧ tabOf s inst = some t ∧ secOf t k.val = .sealed ∧ closeTime s t k.val ≤ s.tai ∧
      beforeClose s inst = false ∧ ((setSec k.val .closed t).secs.all (fun x => decide (x = .closed ∨ x = .unused)) = false)) ∧
    (∃ (inst : Nat) (k : Fin 8) (t : Tableau) (s : State),
      s.power.st = .fullSail ∧ tabOf s inst = some t ∧ secOf t k.val = .sealed ∧ closeTime s t k.val ≤ s.tai ∧
      beforeClose s inst = false ∧ ((setSec k.val .closed t).secs.all (fun x => decide (x = .closed ∨ x = .unused)) = true)) ∧
    (∃ (n : Nat) (inst : Nat) (v : Slot) (r : List (Nat × Nat × Slot)) (s : State),
      s.power.st = .fullSail ∧ beforePlace s = false ∧ s.ing.handoff = (n, inst, v) :: r ∧ s.mkt.next ≤ inst) ∧
    (∃ (n : Nat) (inst : Nat) (v : Slot) (r : List (Nat × Nat × Slot)) (s : State),
      s.power.st = .fullSail ∧ beforePlace s = false ∧ s.ing.handoff = (n, inst, v) :: r ∧ inst < s.mkt.next) ∧
    (∃ (s : State), s.power.st = .fullSail ∧ beforePlace s = true) ∧
    (∃ (inst : Nat) (t : Tableau) (s : State),
      s.power.st = .fullSail ∧ tabOf s inst = some t ∧ t.st = .revising ∧ (holdPassed s t = true ∨ t.forced = true) ∧
      beforeRevision s = false) ∧
    (∃ (inst : Nat) (t : Tableau) (s : State),
      s.power.st = .fullSail ∧ tabOf s inst = some t ∧ (t.st ≠ .revising ∨ (holdPassed s t = false ∧ t.forced = false))) ∧
    (∃ (who : Req) (t : Tableau) (s : State), TablesWf s ∧ Served who MKT_TW_CMD s ∧ tabOf s (rd64 s MKT_TW_INST_LO) = some t) ∧
    (∃ (who : Req) (s : State), TablesWf s ∧ Served who MKT_TW_CMD s ∧ tabOf s (rd64 s MKT_TW_INST_LO) = none) ∧
    (∃ (who : Req) (s : State), Served who MKT_TW_CMD s ∧ (window s 0).ended = false) ∧
    (∃ (who : Req) (s : State), TablesWf s ∧ Served who MKT_RIB_CMD s ∧ ribFrom s (rd64 s MKT_RIB_INST_LO) ≠ []) ∧
    (∃ (who : Req) (s : State), TablesWf s ∧ Served who MKT_RIB_CMD s ∧ ribFrom s (rd64 s MKT_RIB_INST_LO) = []) ∧
    (∃ (who : Req) (s : State), Served who MKT_RIB_CMD s ∧ (window s 1).ended = false) :=
  ⟨⟨{ up with power := { st := .fullSail }, boot := { up.boot with dataPath := true }, cfg := { tabRate := 1 } }, by decide,
    by decide, by decide, by decide⟩,
   ⟨{ up with power := { st := .fullSail }, boot := { up.boot with dataPath := true }, cfg := { tabRate := 1 } }, by decide,
    by decide⟩,
   ⟨{ up with power := { st := .fullSail } }, by decide, by decide⟩,
   ⟨0, 0, { inst := 0, secs := [.open] },
    { up with power := { st := .fullSail }, mkt := { tabs := [({ inst := 0, secs := [.open] } : Tableau)] } }, by decide,
    by decide, by decide, by decide, by decide, by decide⟩,
   ⟨1, 1, { inst := 1, secs := [.unused, .open] },
    { up with power := { st := .fullSail }, mkt := { tabs := [{ inst := 0, secs := [.unused, .open], bells := [0, 10 ^ 30] }, ({ inst := 1, secs := [.unused, .open] } : Tableau)] }, tai := 2 ^ 100 },
    ⟨by decide, by decide⟩, by decide, by decide, by decide, by decide, by decide, by decide, by decide⟩,
   ⟨0, 0, { inst := 0, secs := [.sealed, .open] },
    { up with power := { st := .fullSail }, mkt := { tabs := [({ inst := 0, secs := [.sealed, .open] } : Tableau)] } },
    by decide, by decide, by decide, by decide, by decide, by decide⟩,
   ⟨0, 0, { inst := 0, secs := [.sealed] },
    { up with power := { st := .fullSail }, mkt := { tabs := [({ inst := 0, secs := [.sealed] } : Tableau)] } }, by decide,
    by decide, by decide, by decide, by decide, by decide⟩,
   ⟨0, 0, {  }, [], { up with power := { st := .fullSail }, ing := { handoff := (0, 0, ({  } : Slot)) :: [] } }, by decide,
    by decide, by decide, by decide⟩,
   ⟨0, 0, {  }, [],
    { up with power := { st := .fullSail }, ing := { handoff := (0, 0, ({  } : Slot)) :: [] }, mkt := { next := 1 } },
    by decide, by decide, by decide, by decide⟩,
   ⟨{ up with power := { st := .fullSail }, mkt := { tabs := [{ inst := 0, secs := [.sealed] }] } }, by decide, by decide⟩,
   ⟨0, { inst := 0, secs := [.closed], st := .revising, holding := true },
    { up with power := { st := .fullSail }, mkt := { tabs := [({ inst := 0, secs := [.closed], st := .revising, holding := true } : Tableau)] }, ticks := 10 ^ 8 },
    by decide, by decide, by decide, by decide, by decide⟩,
   ⟨0, { inst := 0 }, { up with power := { st := .fullSail }, mkt := { tabs := [({ inst := 0 } : Tableau)] } }, by decide,
    by decide, by decide⟩,
   ⟨.host, { inst := 0 }, { up with mkt := { tabs := [({ inst := 0 } : Tableau)] } }, ⟨by decide, by decide⟩,
    ⟨by decide, fun _ => ⟨rfl, rfl⟩⟩, by decide⟩,
   ⟨.host, up, ⟨by decide, by decide⟩, ⟨by decide, fun _ => ⟨rfl, rfl⟩⟩, by decide⟩,
   ⟨.host, { up with host := { windows := [(0, { ended := false })] } }, ⟨by decide, fun _ => ⟨rfl, rfl⟩⟩, by decide⟩,
   ⟨.host, { up with mkt := { blocks := [{ first := 0, last := 0, gap := 0, bytes := [] }] } }, ⟨by decide, by decide⟩,
    ⟨by decide, fun _ => ⟨rfl, rfl⟩⟩, by decide⟩,
   ⟨.host, up, ⟨by decide, by decide⟩, ⟨by decide, fun _ => ⟨rfl, rfl⟩⟩, by decide⟩,
   ⟨.host, { up with host := { windows := [(1, { ended := false })] } }, ⟨by decide, fun _ => ⟨rfl, rfl⟩⟩, by decide⟩⟩

theorem test_meets_MarketBells :
    (∃ (who : Req) (k : Fin 8) (v : BitVec 16) (s : State),
      TablesWf s ∧ Served who (MKT_CLS_BELL k.val) s ∧ adaptive s k.val = true ∧ rdF s (MKT_CLS_LIM k.val) 0 16 ≤ v.toNat ∧
      v.toNat ≤ rdF s (MKT_CLS_LIM k.val) 16 16) ∧
    (∃ (who : Req) (k : Fin 8) (v : BitVec 16) (s : State),
      TablesWf s ∧ Served who (MKT_CLS_BELL k.val) s ∧ adaptive s k.val = true ∧ v.toNat < rdF s (MKT_CLS_LIM k.val) 0 16) ∧
    (∃ (who : Req) (k : Fin 8) (v : BitVec 16) (s : State),
      TablesWf s ∧ Served who (MKT_CLS_BELL k.val) s ∧ adaptive s k.val = true ∧
      rdF s (MKT_CLS_LIM k.val) 0 16 ≤ rdF s (MKT_CLS_LIM k.val) 16 16 ∧ rdF s (MKT_CLS_LIM k.val) 16 16 < v.toNat) ∧
    (∃ (who : Req) (k : Fin 8) (v : BitVec 16) (s : State), Served who (MKT_CLS_BELL k.val) s ∧ adaptive s k.val = false) ∧
    (∃ (who : Req) (s : State), TablesWf s ∧ Served who MKT_CLS_CMD s) ∧
    (∃ (who : Req) (s : State), Served who MKT_CLS_CMD s) ∧
    (∃ (k : Fin 8) (s : State),
      TablesWf s ∧ s.power.st = .fullSail ∧ adaptive s k.val = true ∧ s.deck.st = .run ∧ s.boot.dataPath = true ∧
      learnDue s k.val = true ∧ (tget ({} : ClassHist) s.mkt.hist k.val).count < 1000) ∧
    (∃ (k : Fin 8) (h : ClassHist) (s : State),
      TablesWf s ∧ s.power.st = .fullSail ∧ adaptive s k.val = true ∧ s.deck.st = .run ∧ s.boot.dataPath = true ∧
      learnDue s k.val = true ∧ h = tget {} s.mkt.hist k.val ∧ 1000 ≤ h.count) ∧
    (∃ (k : Fin 8) (s : State),
      s.power.st = .fullSail ∧ (adaptive s k.val = false ∨ s.deck.st ≠ .run ∨ learnDue s k.val = false)) ∧
    (∃ (who : Req) (clr : Bool) (s : State), TablesWf s ∧ Served who MKT_SNAP s) :=
  ⟨⟨.host, 0, 0#16, wrF (MKT_CLS_STAT 0) 15 1 1 (up), ⟨by decide, by decide⟩, ⟨by decide, fun _ => ⟨rfl, rfl⟩⟩, by decide,
    by decide, by decide⟩,
   ⟨.host, 0, 0#16, wrF (MKT_CLS_LIM 0) 0 16 1 (wrF (MKT_CLS_STAT 0) 15 1 1 (up)), ⟨by decide, by decide⟩,
    ⟨by decide, fun _ => ⟨rfl, rfl⟩⟩, by decide, by decide⟩,
   ⟨.host, 0, 1#16, wrF (MKT_CLS_STAT 0) 15 1 1 (up), ⟨by decide, by decide⟩, ⟨by decide, fun _ => ⟨rfl, rfl⟩⟩, by decide,
    by decide, by decide⟩,
   ⟨.host, 0, 0#16, up, ⟨by decide, fun _ => ⟨rfl, rfl⟩⟩, by decide⟩,
   ⟨.host, up, ⟨by decide, by decide⟩, ⟨by decide, fun _ => ⟨rfl, rfl⟩⟩⟩,
   ⟨.host, up, ⟨by decide, fun _ => ⟨rfl, rfl⟩⟩⟩,
   ⟨0,
    wrF (MKT_CLS_STAT 0) 15 1 1 ({ up with power := { st := .fullSail }, deck := { st := .run }, boot := { up.boot with dataPath := true } }),
    ⟨by decide, by decide⟩, by decide, by decide, by decide, by decide, by decide, by decide⟩,
   ⟨0, { count := 1000 },
    wrF (MKT_CLS_STAT 0) 15 1 1 ({ up with power := { st := .fullSail }, deck := { st := .run }, boot := { up.boot with dataPath := true }, mkt := { hist := [(0, { count := 1000 })] } }),
    ⟨by decide, by decide⟩, by decide, by decide, by decide, by decide, by decide, by decide, by decide⟩,
   ⟨0, { up with power := { st := .fullSail } }, by decide, by decide⟩,
   ⟨.host, false, up, ⟨by decide, by decide⟩, ⟨by decide, fun _ => ⟨rfl, rfl⟩⟩⟩⟩

theorem test_meets_ScalesSync :
    (∃ (rising : Bool) (s : State), s.power.st ≠ .furled ∧ rdB s SCL_CFG 0 = true ∧ rdB s SCL_CFG 1 ≠ rising) ∧
    (∃ (rising : Bool) (s : State), s.power.st ≠ .furled ∧ rdB s SCL_CFG 0 = false) ∧
    (∃ (who : Req) (s : State), Served who SCL_SYNC s) ∧
    (∃ (s : State), TablesWf s ∧ s.power.st ≠ .furled ∧ s.scales.syncReq ≠ []) ∧
    (∃ (s : State), s.power.st ≠ .furled ∧ s.scales.syncReq = []) ∧
    (∃ (ch : Fin 24) (s : State),
      TablesWf s ∧ s.power.st ≠ .furled ∧ rdB s (SCL_CH_STAT ch.val) 0 = true ∧ settleDone s ch.val = true ∧
      rdB (settleStatus (setStat (SCL_CH_STAT ch.val) 0 false s)) SCL_STATUS 2 = false) ∧
    (∃ (ch : Fin 24) (s : State), s.power.st ≠ .furled ∧ rdB s (SCL_CH_STAT ch.val) 0 = true ∧ settleDone s ch.val = true ∧
      rdB (settleStatus (setStat (SCL_CH_STAT ch.val) 0 false s)) SCL_STATUS 2 = true) ∧
    (∃ (ch : Fin 24) (s : State), s.power.st ≠ .furled ∧ (rdB s (SCL_CH_STAT ch.val) 0 = false ∨ settleDone s ch.val = false)) ∧
    (∃ (ch : Fin 24) (s : State),
      TablesWf s ∧ s.power.st ≠ .furled ∧ rdB s (SCL_CH_CFG ch.val) 0 = true ∧ rdB s (SCL_CH_STAT ch.val) 2 = false) ∧
    (∃ (ch : Fin 24) (s : State), s.power.st ≠ .furled ∧ rdB s (SCL_CH_CFG ch.val) 0 = false) ∧
    (∃ (ch : Fin 24) (s : State), TablesWf s ∧ s.power.st ≠ .furled ∧ rdB s (SCL_CH_STAT ch.val) 2 = true) ∧
    (∃ (ch : Fin 24) (s : State), s.power.st ≠ .furled ∧ rdB s (SCL_CH_STAT ch.val) 2 = false) ∧
    (∃ (s : State), s.power.st ≠ .furled ∧ s.mast.st = .locked ∧ s.scales.bootSync = false ∧ s.deck.st = .run) ∧
    (∃ (s : State),
      s.power.st ≠ .furled ∧ okFor s 60 = true ∧ s.mast.st ≠ .locked ∧ s.scales.bootSync = false ∧ s.scales.fallback = false ∧
      s.deck.st = .run) ∧
    (∃ (s : State), s.power.st ≠ .furled ∧ s.scales.bootSync = true) :=
  ⟨⟨true, wrF SCL_CFG 0 1 1 up, by decide, by decide, by decide⟩,
   ⟨false, up, by decide, by decide⟩,
   ⟨.host, up, ⟨by decide, fun _ => ⟨rfl, rfl⟩⟩⟩,
   ⟨{ up with scales := { syncReq := [0] } }, ⟨by decide, by decide⟩, by decide, by decide⟩,
   ⟨{ up with scales := { syncReq := [] } }, by decide, by decide⟩,
   ⟨0, wrF (SCL_CH_STAT (0 : Fin 24).val) 0 1 1 ({ up with scales := { modTime := 10 ^ 30 } }), ⟨by decide, by decide⟩,
    by decide, by decide, by decide, by decide⟩,
   ⟨0,
    wrF (SCL_CH_STAT 1) 0 1 1 (wrF (SCL_CH_CFG 1) 0 1 1 (wrF (SCL_CH_STAT (0 : Fin 24).val) 0 1 1 ({ up with scales := { modTime := 10 ^ 30 } }))),
    by decide, by decide, by decide, by decide⟩,
   ⟨0, up, by decide, by decide⟩,
   ⟨0, wrF (SCL_CH_CFG (0 : Fin 24).val) 0 1 1 up, ⟨by decide, by decide⟩, by decide, by decide, by decide⟩,
   ⟨0, up, by decide, by decide⟩,
   ⟨0, wrF (SCL_CH_STAT (0 : Fin 24).val) 2 1 1 up, ⟨by decide, by decide⟩, by decide, by decide⟩,
   ⟨0, up, by decide, by decide⟩,
   ⟨{ up with mast := { st := .locked }, scales := { bootSync := false }, deck := { st := .run } }, by decide, by decide,
    by decide, by decide⟩,
   ⟨{ up with scales := { bootSync := false, fallback := false }, deck := { st := .run }, boot := { up.boot with okAt := some 0 }, nodeOk := true, ticks := 10 ^ 11 },
    by decide, by decide, by decide, by decide, by decide, by decide⟩,
   ⟨{ up with scales := { bootSync := true } }, by decide, by decide⟩⟩

theorem test_meets_ScalesOutputs :
    (∃ (ch : Fin 24) (bits : List Bool) (s : State),
      s.power.st ≠ .furled ∧ rdB s (SCL_CH_CFG ch.val) 0 = true ∧ rdB s SCL_STATUS 0 = true ∧
      bits.length = 2 ^ chLogR s ch.val * cicPerOutput s ch.val) ∧
    (∃ (ch : Fin 24) (bits : List Bool) (s : State),
      s.power.st ≠ .furled ∧ bits.length ≠ 2 ^ chLogR s ch.val * cicPerOutput s ch.val) ∧
    (∃ (ch : Fin 24) (bits : List Bool) (s : State), s.power.st ≠ .furled ∧ rdB s (SCL_CH_CFG ch.val) 0 = false) ∧
    (∃ (i : Fin 64) (inst : Nat) (l : Nat) (c : LsCfg) (sc : StreamCfg) (s : State),
      s.power.st ≠ .furled ∧ (s.cfg.scales.ls.find? (fun p => decide (p.1 = i.val))).map (fun p => p.2) = some c ∧
      streamCfg s (lsStream s i.val) = some sc ∧ tget none s.scales.lsLast i.val = some l ∧ inst ≤ l) ∧
    (∃ (i : Fin 64) (inst : Nat) (c : LsCfg) (sc : StreamCfg) (s : State),
      s.power.st ≠ .furled ∧ (s.cfg.scales.ls.find? (fun p => decide (p.1 = i.val))).map (fun p => p.2) = some c ∧
      streamCfg s (lsStream s i.val) = some sc ∧ inSkipped s (gridTime (atLeast 1 s.cfg.tabRate) inst) = true) ∧
    (∃ (i : Fin 64) (inst : Nat) (c : LsCfg) (sc : StreamCfg) (s : State),
      s.power.st ≠ .furled ∧ (s.cfg.scales.ls.find? (fun p => decide (p.1 = i.val))).map (fun p => p.2) = some c ∧
      streamCfg s (lsStream s i.val) = some sc ∧ s.tai < gridTime (atLeast 1 s.cfg.tabRate) inst + lsLatency s c) ∧
    (∃ (i : Fin 64) (inst : Nat) (c : LsCfg) (sc : StreamCfg) (s : State) (u : State),
      s.power.st ≠ .furled ∧ (s.cfg.scales.ls.find? (fun p => decide (p.1 = i.val))).map (fun p => p.2) = some c ∧
      streamCfg s (lsStream s i.val) = some sc ∧ (tget none s.scales.lsLast i.val).all (fun l => decide (l < inst)) = true ∧
      inSkipped s (gridTime (atLeast 1 s.cfg.tabRate) inst) = false ∧
      gridTime (atLeast 1 s.cfg.tabRate) inst + lsLatency s c ≤ s.tai ∧
      u = lsSettle c (gridTime (atLeast 1 s.cfg.tabRate) inst) s) :=
  ⟨⟨0, List.replicate 32 false, wrF SCL_STATUS 0 1 1 (wrF (SCL_CH_CFG (0 : Fin 24).val) 0 1 1 up), by decide, by decide,
    by decide, by decide⟩,
   ⟨0, [], up, by decide, by decide⟩,
   ⟨0, [], up, by decide, by decide⟩,
   ⟨0, 0, 0, { mClass := false, window := 0, phasors := [], source := (.chan 0), analogs := [], digitals := 0 },
    { srcIp := 0, idcode := 0, block := 0, layout := { phFloat := false, polar := false, freqFloat := false, anFloat := false, phasors := 0, analogs := 0, digitals := 0, phUnits := [], anUnits := [], fnom60 := false }, cls := 0, rate := 0, rateCode := 0, timeBase := 0, tier := false, filtered := false, slowHeld := false, tqMax := 0, unlockMax := 0, testOk := false, startCmd := false, cfg3 := false, isLocal := false },
    { up with cfg := { scales := { ls := [(0, ({ mClass := false, window := 0, phasors := [], source := (.chan 0), analogs := [], digitals := 0 } : LsCfg))] }, streams := [(16320, ({ srcIp := 0, idcode := 0, block := 0, layout := { phFloat := false, polar := false, freqFloat := false, anFloat := false, phasors := 0, analogs := 0, digitals := 0, phUnits := [], anUnits := [], fnom60 := false }, cls := 0, rate := 0, rateCode := 0, timeBase := 0, tier := false, filtered := false, slowHeld := false, tqMax := 0, unlockMax := 0, testOk := false, startCmd := false, cfg3 := false, isLocal := false } : StreamCfg))] }, scales := { lsLast := [((0 : Fin 64).val, some 0)] } },
    by decide, by decide, by decide, by decide, by decide⟩,
   ⟨0, 1, { mClass := false, window := 0, phasors := [], source := (.chan 0), analogs := [], digitals := 0 },
    { srcIp := 0, idcode := 0, block := 0, layout := { phFloat := false, polar := false, freqFloat := false, anFloat := false, phasors := 0, analogs := 0, digitals := 0, phUnits := [], anUnits := [], fnom60 := false }, cls := 0, rate := 0, rateCode := 0, timeBase := 0, tier := false, filtered := false, slowHeld := false, tqMax := 0, unlockMax := 0, testOk := false, startCmd := false, cfg3 := false, isLocal := false },
    { up with cfg := { scales := { ls := [(0, ({ mClass := false, window := 0, phasors := [], source := (.chan 0), analogs := [], digitals := 0 } : LsCfg))] }, streams := [(16320, ({ srcIp := 0, idcode := 0, block := 0, layout := { phFloat := false, polar := false, freqFloat := false, anFloat := false, phasors := 0, analogs := 0, digitals := 0, phUnits := [], anUnits := [], fnom60 := false }, cls := 0, rate := 0, rateCode := 0, timeBase := 0, tier := false, filtered := false, slowHeld := false, tqMax := 0, unlockMax := 0, testOk := false, startCmd := false, cfg3 := false, isLocal := false } : StreamCfg))], tabRate := 1 }, scales := { commits := [(0, 2 ^ 100)] } },
    by decide, by decide, by decide, by decide⟩,
   ⟨0, 0, { mClass := false, window := 0, phasors := [], source := (.chan 0), analogs := [], digitals := 0 },
    { srcIp := 0, idcode := 0, block := 0, layout := { phFloat := false, polar := false, freqFloat := false, anFloat := false, phasors := 0, analogs := 0, digitals := 0, phUnits := [], anUnits := [], fnom60 := false }, cls := 0, rate := 0, rateCode := 0, timeBase := 0, tier := false, filtered := false, slowHeld := false, tqMax := 0, unlockMax := 0, testOk := false, startCmd := false, cfg3 := false, isLocal := false },
    { up with cfg := { scales := { ls := [(0, ({ mClass := false, window := 0, phasors := [], source := (.chan 0), analogs := [], digitals := 0 } : LsCfg))] }, streams := [(16320, ({ srcIp := 0, idcode := 0, block := 0, layout := { phFloat := false, polar := false, freqFloat := false, anFloat := false, phasors := 0, analogs := 0, digitals := 0, phUnits := [], anUnits := [], fnom60 := false }, cls := 0, rate := 0, rateCode := 0, timeBase := 0, tier := false, filtered := false, slowHeld := false, tqMax := 0, unlockMax := 0, testOk := false, startCmd := false, cfg3 := false, isLocal := false } : StreamCfg))] } },
    by decide, by decide, by decide, by decide⟩,
   ⟨0, 0, { mClass := false, window := 0, phasors := [], source := (.chan 0), analogs := [], digitals := 0 },
    { srcIp := 0, idcode := 0, block := 0, layout := { phFloat := false, polar := false, freqFloat := false, anFloat := false, phasors := 0, analogs := 0, digitals := 0, phUnits := [], anUnits := [], fnom60 := false }, cls := 0, rate := 0, rateCode := 0, timeBase := 0, tier := false, filtered := false, slowHeld := false, tqMax := 0, unlockMax := 0, testOk := false, startCmd := false, cfg3 := false, isLocal := false },
    { up with cfg := { scales := { ls := [(0, ({ mClass := false, window := 0, phasors := [], source := (.chan 0), analogs := [], digitals := 0 } : LsCfg))] }, streams := [(16320, ({ srcIp := 0, idcode := 0, block := 0, layout := { phFloat := false, polar := false, freqFloat := false, anFloat := false, phasors := 0, analogs := 0, digitals := 0, phUnits := [], anUnits := [], fnom60 := false }, cls := 0, rate := 0, rateCode := 0, timeBase := 0, tier := false, filtered := false, slowHeld := false, tqMax := 0, unlockMax := 0, testOk := false, startCmd := false, cfg3 := false, isLocal := false } : StreamCfg))] }, tai := 2 ^ 100 },
    lsSettle ({ mClass := false, window := 0, phasors := [], source := (.chan 0), analogs := [], digitals := 0 } : LsCfg) (gridTime (atLeast 1 ({ up with cfg := { scales := { ls := [(0, ({ mClass := false, window := 0, phasors := [], source := (.chan 0), analogs := [], digitals := 0 } : LsCfg))] }, streams := [(16320, ({ srcIp := 0, idcode := 0, block := 0, layout := { phFloat := false, polar := false, freqFloat := false, anFloat := false, phasors := 0, analogs := 0, digitals := 0, phUnits := [], anUnits := [], fnom60 := false }, cls := 0, rate := 0, rateCode := 0, timeBase := 0, tier := false, filtered := false, slowHeld := false, tqMax := 0, unlockMax := 0, testOk := false, startCmd := false, cfg3 := false, isLocal := false } : StreamCfg))] }, tai := 2 ^ 100 }).cfg.tabRate) 0) ({ up with cfg := { scales := { ls := [(0, ({ mClass := false, window := 0, phasors := [], source := (.chan 0), analogs := [], digitals := 0 } : LsCfg))] }, streams := [(16320, ({ srcIp := 0, idcode := 0, block := 0, layout := { phFloat := false, polar := false, freqFloat := false, anFloat := false, phasors := 0, analogs := 0, digitals := 0, phUnits := [], anUnits := [], fnom60 := false }, cls := 0, rate := 0, rateCode := 0, timeBase := 0, tier := false, filtered := false, slowHeld := false, tqMax := 0, unlockMax := 0, testOk := false, startCmd := false, cfg3 := false, isLocal := false } : StreamCfg))] }, tai := 2 ^ 100 }),
    by decide, by decide, by decide, by decide, by decide, by decide, by decide⟩⟩

theorem test_meets_ScalesCalibration :
    (∃ (who : Req) (mask : BitVec 24) (s : State),
      TablesWf s ∧ Served who SCL_CAL_APPLY s ∧ rdB s SCL_CAL_STAT 0 = false ∧ rdB s SCL_CFG 2 = true) ∧
    (∃ (who : Req) (mask : BitVec 24) (s : State),
      Served who SCL_CAL_APPLY s ∧ rdB s SCL_CAL_STAT 0 = false ∧ rdB s SCL_CFG 2 = false ∧ mask = 0#24) ∧
    (∃ (who : Req) (mask : BitVec 24) (s : State),
      Served who SCL_CAL_APPLY s ∧ rdB s SCL_CAL_STAT 0 = false ∧ rdB s SCL_CFG 2 = false) ∧
    (∃ (who : Req) (s : State), TablesWf s ∧ Served who SCL_PQ_CMD s) ∧
    (∃ (who : Req) (s : State), TablesWf s ∧ Served who SCL_PQ_CMD s ∧ rdB s SCL_CFG 2 = true) ∧
    (∃ (who : Req) (s : State), TablesWf s ∧ Served who SCL_PQ_CMD s ∧ rdB s SCL_CFG 2 = false ∧ rdF s SCL_PQ_IDX 0 10 < 24) ∧
    (∃ (who : Req) (q : Nat × Nat) (s : State),
      TablesWf s ∧ Served who SCL_PQ_CMD s ∧ 24 ≤ rdF s SCL_PQ_IDX 0 10 ∧ svOfQty s (rdF s SCL_PQ_IDX 0 10) = some q) ∧
    (∃ (who : Req) (q : Nat × Nat) (s : State),
      TablesWf s ∧ Served who SCL_PQ_CMD s ∧ rdB s SCL_CFG 2 = false ∧ 24 ≤ rdF s SCL_PQ_IDX 0 10 ∧
      svOfQty s (rdF s SCL_PQ_IDX 0 10) = some q) ∧
    (∃ (who : Req) (ch : BitVec 5) (s : State),
      TablesWf s ∧ Served who SCL_FCAL_IDX s ∧ ch.toNat ≤ 23 ∧ rdB s SCL_FCAL_STAT 1 = false) :=
  ⟨⟨.host, 0#24, wrF SCL_CFG 2 1 1 up, ⟨by decide, by decide⟩, ⟨by decide, fun _ => ⟨rfl, rfl⟩⟩, by decide, by decide⟩,
   ⟨.host, 0#24, up, ⟨by decide, fun _ => ⟨rfl, rfl⟩⟩, by decide, by decide, by decide⟩,
   ⟨.host, 0#24, up, ⟨by decide, fun _ => ⟨rfl, rfl⟩⟩, by decide, by decide⟩,
   ⟨.host, up, ⟨by decide, by decide⟩, ⟨by decide, fun _ => ⟨rfl, rfl⟩⟩⟩,
   ⟨.host, wrF SCL_CFG 2 1 1 up, ⟨by decide, by decide⟩, ⟨by decide, fun _ => ⟨rfl, rfl⟩⟩, by decide⟩,
   ⟨.host, up, ⟨by decide, by decide⟩, ⟨by decide, fun _ => ⟨rfl, rfl⟩⟩, by decide, by decide⟩,
   ⟨.host, (0, 0),
    wrF SCL_PQ_IDX 0 10 24 ({ up with cfg := { scales := { svs := [{ sub := 0, waitUs := 0, scale := [0] }] } } }),
    ⟨by decide, by decide⟩, ⟨by decide, fun _ => ⟨rfl, rfl⟩⟩, by decide, by decide⟩,
   ⟨.host, (0, 0),
    wrF SCL_PQ_IDX 0 10 24 ({ up with cfg := { scales := { svs := [{ sub := 0, waitUs := 0, scale := [0] }] } } }),
    ⟨by decide, by decide⟩, ⟨by decide, fun _ => ⟨rfl, rfl⟩⟩, by decide, by decide, by decide⟩,
   ⟨.host, 0#5, up, ⟨by decide, by decide⟩, ⟨by decide, fun _ => ⟨rfl, rfl⟩⟩, by decide, by decide⟩⟩

theorem test_meets_EnergyCommands :
    (∃ (s : State),
      TablesWf s ∧ s.power.st ≠ .furled ∧ rdB s SCL_EN_STATUS 0 = true ∧ s.ledger.fail = false ∧ isPair s = false ∧
      s.scales.en.saveAt + savePeriod s * 250000000 ≤ s.ticks ∧ ((∀ k, (meter s k).closing = none))) ∧
    (∃ (ok : Bool) (s : State),
      s.power.st ≠ .furled ∧ (rdB s SCL_EN_STATUS 0 = false ∨ s.ticks < s.scales.en.saveAt + savePeriod s * 250000000)) ∧
    (∃ (s : State), TablesWf s ∧ s.power.st ≠ .furled ∧ rdB s SCL_EN_STATUS 0 = true ∧
      s.scales.en.saveAt + savePeriod s * 250000000 ≤ s.ticks ∧ ((∀ k, (meter s k).closing = none))) ∧
    (∃ (k : Nat) (ok : Bool) (s : State),
      s.power.st ≠ .furled ∧ rdB s SCL_EN_STATUS 0 = true ∧ s.scales.en.saveAt + savePeriod s * 250000000 ≤ s.ticks ∧
      k ∈ enabledPoints s ∧ (meter s k).closing.isSome = true ∧
      ((∀ j c, (meter s j).closing = some c → s.tai < c.wrap + taiSecUnit))) ∧
    (∃ (who : Req) (s : State), TablesWf s ∧ Served who SCL_EN_SAVE s) ∧
    (∃ (s : State), s.power.st ≠ .furled ∧ rdB s SCL_EN_STATUS 0 = true) ∧
    (∃ (s : State), s.power.st ≠ .furled ∧ rdB s SCL_EN_STATUS 0 = false) ∧
    (∃ (s : State), s.power.st ≠ .furled ∧ s.scales.en.checked ≠ s.mast.cyc.count) ∧
    (∃ (s : State), s.power.st ≠ .furled ∧ s.scales.en.checked = s.mast.cyc.count) ∧
    (∃ (s : State),
      s.power.st ≠ .furled ∧ s.scales.en.reefPend = false ∧ rdB s SCL_EN_STATUS 1 = true ∧ s.ledger.fail = false ∧
      s.scales.en.ahAt + 250000000 ≤ s.ticks) ∧
    (∃ (s : State), s.power.st ≠ .furled ∧ s.scales.en.reefPend = false ∧
      (rdB s SCL_EN_STATUS 1 = false ∨ s.ticks < s.scales.en.ahAt + 250000000)) ∧
    (∃ (who : Req) (s : State), TablesWf s ∧ Served who SCL_EN_SNAP s) :=
  ⟨⟨wrF SCL_EN_STATUS 0 1 1 ({ up with ledger := { fail := false }, ticks := 10 ^ 13 }), ⟨by decide, by decide⟩, by decide,
    by decide, by decide, by decide, by decide, fun _ => rfl⟩,
   ⟨false, up, by decide, by decide⟩,
   ⟨wrF SCL_EN_STATUS 0 1 1 ({ up with ticks := 10 ^ 13 }), ⟨by decide, by decide⟩, by decide, by decide, by decide,
    fun _ => rfl⟩,
   ⟨0, false,
    wrF SCL_EN_CFG 0 1 1 (wrF SCL_EN_STATUS 0 1 1 (wrF SCL_EN_STATUS 0 1 1 ({ up with scales := { en := { points := [(0, { closing := some { ivl := {}, wrap := 0, cycles := 0, bound := 0 } })] } }, ticks := 10 ^ 13 }))),
    by decide, by decide, by decide, by decide, by decide,
    fun _ _ _ => Nat.lt_of_lt_of_le (show 0 < taiSecUnit by decide) (Nat.le_add_left _ _)⟩,
   ⟨.host, up, ⟨by decide, by decide⟩, ⟨by decide, fun _ => ⟨rfl, rfl⟩⟩⟩,
   ⟨wrF SCL_EN_STATUS 0 1 1 up, by decide, by decide⟩,
   ⟨up, by decide, by decide⟩,
   ⟨{ up with mast := { cyc := { count := 1 } } }, by decide, by decide⟩,
   ⟨{ up with scales := { en := { checked := 0 } } }, by decide, by decide⟩,
   ⟨wrF SCL_EN_STATUS 1 1 1 ({ up with scales := { en := { reefPend := false } }, ledger := { fail := false }, ticks := 10 ^ 11 }),
    by decide, by decide, by decide, by decide, by decide⟩,
   ⟨{ up with scales := { en := { reefPend := false } } }, by decide, by decide, by decide⟩,
   ⟨.host, up, ⟨by decide, by decide⟩, ⟨by decide, fun _ => ⟨rfl, rfl⟩⟩⟩⟩

theorem test_meets_CaptureInputs :
    (∃ (drained : Nat) (k : Nat) (tag : Nat) (s : State),
      s.power.st ≠ .furled ∧ capNext s = some (k, tag) ∧ ((s.cap.reefed = false ∨ rdB s CAP_CFG 10 = true)) ∧
      (((capRow s tag).missing = false ∨ capWaited s tag = true))) ∧
    (∃ (drained : Nat) (s : State), s.power.st ≠ .furled ∧ capNext s = none) ∧
    (∃ (drained : Nat) (k : Nat) (tag : Nat) (s : State),
      s.power.st ≠ .furled ∧ capNext s = some (k, tag) ∧ (capRow s tag).missing = true ∧ capWaited s tag = false) ∧
    (∃ (i : Fin 16) (high : Bool) (s : State), s.power.st ≠ .furled) ∧
    (∃ (i : Fin 16) (high : Bool) (s : State), s.power.st ≠ .furled ∧ rdF s CAP_DIN (2 * i.val) 2 = 0) ∧
    (∃ (i : Fin 16) (high : Bool) (s : State), s.power.st ≠ .furled ∧ rdF s CAP_DIN (2 * i.val) 2 = 1) ∧
    (∃ (i : Fin 16) (high : Bool) (s : State), s.power.st ≠ .furled ∧ rdF s CAP_DIN (2 * i.val) 2 = 3) ∧
    (∃ (i : Fin 16) (high : Bool) (s : State), s.power.st ≠ .furled ∧ rdF s CAP_DIN (2 * i.val) 2 = 2) ∧
    (∃ (l : Fin 2) (lowNs : Nat) (s : State),
      TablesWf s ∧ s.power.st ≠ .furled ∧ ((rdF s CAP_BELL_CFG (2 * l.val) 2 = 1 ∨ rdF s CAP_BELL_CFG (2 * l.val) 2 = 2)) ∧
      tget false s.cap.drive l.val = false ∧ tget 0 s.cap.high l.val + 2500 ≤ s.ticks) ∧
    (∃ (l : Fin 2) (lowNs : Nat) (s : State),
      TablesWf s ∧ s.power.st ≠ .furled ∧ ((rdF s CAP_BELL_CFG (2 * l.val) 2 = 1 ∨ rdF s CAP_BELL_CFG (2 * l.val) 2 = 2)) ∧
      tget false s.cap.drive l.val = false ∧ tget 0 s.cap.high l.val ≤ s.ticks ∧ s.ticks < tget 0 s.cap.high l.val + 2500) ∧
    (∃ (l : Fin 2) (lowNs : Nat) (s : State), s.power.st ≠ .furled ∧ rdF s CAP_BELL_CFG (2 * l.val) 2 = 0) ∧
    (∃ (l : Fin 2) (s : State), s.power.st ≠ .furled ∧ tget false s.cap.drive l.val = true ∧
      tget 0 s.cap.driveAt l.val + rdF s CAP_BELL_CFG 16 10 * 250 ≤ s.ticks) ∧
    (∃ (l : Fin 2) (s : State), s.power.st ≠ .furled ∧
      (tget false s.cap.drive l.val = false ∨ s.ticks < tget 0 s.cap.driveAt l.val + rdF s CAP_BELL_CFG 16 10 * 250)) ∧
    (∃ (who : Req) (l : Fin 2) (s : State), Served who CAP_BELL_TEST s ∧ rdF s CAP_BELL_CFG (2 * l.val) 2 = 2) ∧
    (∃ (l : Nat) (at0 : Nat) (s : State),
      s.power.st ≠ .furled ∧ s.cap.test = some (l, at0) ∧ at0 ≤ taiSec s % 2 ^ 32 * 1000000000 + taiNs s) ∧
    (∃ (l : Nat) (at0 : Nat) (s : State),
      s.power.st ≠ .furled ∧ (s.cap.test = none ∨ (s.cap.test = some (l, at0) ∧ taiSec s % 2 ^ 32 * 1000000000 + taiNs s < at0))) :=
  ⟨⟨0, 1, 0,
    wrF CAP_CFG 0 7 1 ({ up with cap := { reefed := false }, cfg := { cap := { chans := [{ src := .localChan 0, full := 0#32, ident := [], phase := [], circuit := [], unit := [] }] } }, scales := { chans := [(0, { waves := [⟨0, 0, 0, 0⟩], count := 1 })] } }),
    by decide, by decide, by decide, by decide⟩,
   ⟨0, up, by decide, by decide⟩,
   ⟨0, 1, 0,
    wrF CAP_LAT 0 16 1 (wrF CAP_CFG 0 7 2 ({ up with cfg := { cap := { chans := [{ src := .localChan 0, full := 0#32, ident := [], phase := [], circuit := [], unit := [] }, { src := .localChan 1, full := 0#32, ident := [], phase := [], circuit := [], unit := [] }] } }, scales := { chans := [(0, { waves := [⟨0, 0, 0, 0⟩], count := 1 })] } })),
    by decide, by decide, by decide, by decide⟩,
   ⟨0, false, up, by decide⟩,
   ⟨0, false, wrF CAP_DIN (2 * (0 : Fin 16).val) 2 0 up, by decide, by decide⟩,
   ⟨0, false, wrF CAP_DIN (2 * (0 : Fin 16).val) 2 1 up, by decide, by decide⟩,
   ⟨0, false, wrF CAP_DIN (2 * (0 : Fin 16).val) 2 3 up, by decide, by decide⟩,
   ⟨0, false, wrF CAP_DIN (2 * (0 : Fin 16).val) 2 2 up, by decide, by decide⟩,
   ⟨0, 0,
    wrF CAP_BELL_CFG (2 * (0 : Fin 2).val) 2 1 ({ up with cap := { drive := [((0 : Fin 2).val, false)] }, ticks := 2500 }),
    ⟨by decide, by decide⟩, by decide, by decide, by decide, by decide⟩,
   ⟨0, 0, wrF CAP_BELL_CFG (2 * (0 : Fin 2).val) 2 1 ({ up with cap := { drive := [((0 : Fin 2).val, false)] } }),
    ⟨by decide, by decide⟩, by decide, by decide, by decide, by decide, by decide⟩,
   ⟨0, 0, wrF CAP_BELL_CFG (2 * (0 : Fin 2).val) 2 0 up, by decide, by decide⟩,
   ⟨0, { up with cap := { drive := [((0 : Fin 2).val, true)] } }, by decide, by decide, by decide⟩,
   ⟨0, { up with cap := { drive := [((0 : Fin 2).val, false)] } }, by decide, by decide⟩,
   ⟨.host, 0, wrF CAP_BELL_CFG (2 * (0 : Fin 2).val) 2 2 up, ⟨by decide, fun _ => ⟨rfl, rfl⟩⟩, by decide⟩,
   ⟨0, 0, { up with cap := { test := some (0, 0) } }, by decide, by decide, by decide⟩,
   ⟨0, 0, { up with cap := { test := none } }, by decide, by decide⟩⟩

theorem test_meets_CaptureRecords :
    (∃ (who : Req) (s : State), TablesWf s ∧ Served who CAP_CTRL s ∧ rdB s CAP_CTRL 0 = false) ∧
    (∃ (who : Req) (s : State), TablesWf s ∧ Served who CAP_CTRL s) ∧
    (∃ (who : Req) (s : State), Served who CAP_CTRL s) ∧
    (∃ (who : Req) (th : Fin 32) (v : Word) (s : State), TablesWf s ∧ Served who (CAP_TH_LVL th.val) s) ∧
    (∃ (who : Req) (r : CapRec) (s : State),
      TablesWf s ∧ s.cap.run = some r ∧ r.no = (rd s CAP_REC_IDX).toNat ∧ Served who CAP_REC_CMD s) ∧
    (∃ (who : Req) (s : State), s.cap.run = none ∧ s.cap.recs = [] ∧ Served who CAP_REC_CMD s) ∧
    (∃ (who : Req) (r : CapRec) (s : State), Served who CAP_REC_CMD s ∧ s.cap.run = none ∧
      s.cap.recs.find? (fun x => decide (x.no = (rd s CAP_REC_IDX).toNat)) = some r) ∧
    (∃ (who : Req) (r : CapRec) (f : BitVec 2) (s : State),
      TablesWf s ∧ s.cap.exporting = none ∧ Served who CAP_REC_CMD s ∧ s.cap.run = none ∧
      s.cap.recs.find? (fun x => decide (x.no = (rd s CAP_REC_IDX).toNat)) = some r) ∧
    (∃ (who : Req) (r : CapRec) (s : State),
      Served who CAP_REC_CMD s ∧ s.cap.run = none ∧ s.cap.exporting = none ∧ s.egr.xf = none ∧
      s.cap.recs.find? (fun x => decide (x.no = (rd s CAP_REC_IDX).toNat)) = some r) ∧
    (∃ (who : Req) (no : Nat) (s : State), Served who CAP_REC_CMD s ∧ s.cap.exporting = some no) ∧
    (∃ (who : Req) (s : State), Served who CAP_REC_CMD s ∧ s.cap.exporting = none) ∧
    (∃ (who : Req) (s : State), TablesWf s ∧ Served who CAP_SNAP s) :=
  ⟨⟨.host, up, ⟨by decide, by decide⟩, ⟨by decide, fun _ => ⟨rfl, rfl⟩⟩, by decide⟩,
   ⟨.host, up, ⟨by decide, by decide⟩, ⟨by decide, fun _ => ⟨rfl, rfl⟩⟩⟩,
   ⟨.host, up, ⟨by decide, fun _ => ⟨rfl, rfl⟩⟩⟩,
   ⟨.host, 0, 0#32, up, ⟨by decide, by decide⟩, ⟨by decide, fun _ => ⟨rfl, rfl⟩⟩⟩,
   ⟨.host,
    { no := 0, flags := 0, trig := 0, src := 0, state := 0, k := 0, frac := 0, dead := 0, missed := 0, rows := [], endPos := 0, maxPos := 0 },
    { up with cap := { run := some ({ no := 0, flags := 0, trig := 0, src := 0, state := 0, k := 0, frac := 0, dead := 0, missed := 0, rows := [], endPos := 0, maxPos := 0 } : CapRec) } },
    ⟨by decide, by decide⟩, by decide, by decide, ⟨by decide, fun _ => ⟨rfl, rfl⟩⟩⟩,
   ⟨.host, { up with cap := { run := none, recs := [] } }, by decide, by decide, ⟨by decide, fun _ => ⟨rfl, rfl⟩⟩⟩,
   ⟨.host,
    { no := 0, flags := 0, trig := 0, src := 0, state := 0, k := 0, frac := 0, dead := 0, missed := 0, rows := [], endPos := 0, maxPos := 0 },
    { up with cap := { run := none, recs := [({ no := 0, flags := 0, trig := 0, src := 0, state := 0, k := 0, frac := 0, dead := 0, missed := 0, rows := [], endPos := 0, maxPos := 0 } : CapRec)] } },
    ⟨by decide, fun _ => ⟨rfl, rfl⟩⟩, by decide, by decide⟩,
   ⟨.host,
    { no := 0, flags := 0, trig := 0, src := 0, state := 0, k := 0, frac := 0, dead := 0, missed := 0, rows := [], endPos := 0, maxPos := 0 },
    0#2,
    { up with cap := { exporting := none, run := none, recs := [({ no := 0, flags := 0, trig := 0, src := 0, state := 0, k := 0, frac := 0, dead := 0, missed := 0, rows := [], endPos := 0, maxPos := 0 } : CapRec)] } },
    ⟨by decide, by decide⟩, by decide, ⟨by decide, fun _ => ⟨rfl, rfl⟩⟩, by decide, by decide⟩,
   ⟨.host,
    { no := 0, flags := 0, trig := 0, src := 0, state := 0, k := 0, frac := 0, dead := 0, missed := 0, rows := [], endPos := 0, maxPos := 0 },
    { up with cap := { run := none, exporting := none, recs := [({ no := 0, flags := 0, trig := 0, src := 0, state := 0, k := 0, frac := 0, dead := 0, missed := 0, rows := [], endPos := 0, maxPos := 0 } : CapRec)] }, egr := { xf := none } },
    ⟨by decide, fun _ => ⟨rfl, rfl⟩⟩, by decide, by decide, by decide, by decide⟩,
   ⟨.host, 0, { up with cap := { exporting := some 0 } }, ⟨by decide, fun _ => ⟨rfl, rfl⟩⟩, by decide⟩,
   ⟨.host, { up with cap := { exporting := none } }, ⟨by decide, fun _ => ⟨rfl, rfl⟩⟩, by decide⟩,
   ⟨.host, up, ⟨by decide, by decide⟩, ⟨by decide, fun _ => ⟨rfl, rfl⟩⟩⟩⟩

theorem test_meets_NestOscillation :
    (∃ (s : State),
      TablesWf s ∧ s.power.st = .fullSail ∧ s.nest.baseAt + basePeriod s * 250000000 ≤ s.ticks ∧ baselineOk s = true ∧
      s.ledger.fail = false) ∧
    (∃ (s : State), s.power.st = .fullSail ∧ s.nest.baseAt + basePeriod s * 250000000 ≤ s.ticks ∧ baselineOk s = false) ∧
    (∃ (s : State), s.power.st = .fullSail ∧ s.ticks < s.nest.baseAt + basePeriod s * 250000000) ∧
    (∃ (who : Req) (s : State), Served who NST_BASE s ∧ s.nest.emState = .run) ∧
    (∃ (who : Req) (s : State), Served who NST_BASE s ∧ s.nest.emState ≠ .run) ∧
    (∃ (who : Req) (i : Nat) (s : State), TablesWf s ∧ Served who NST_MODE_CMD s ∧ i < 8) ∧
    (∃ (who : Req) (s : State), Served who NST_MODE_CMD s ∧ modeResult s (rdF s NST_MODE_IDX 0 6) = 0) ∧
    (∃ (who : Req) (s : State), Served who NST_MODE_CMD s ∧ modeResult s (rdF s NST_MODE_IDX 0 6) ≠ 0) ∧
    (∃ (who : Req) (s : State), Served who NST_MODE_CMD s ∧ (window s (winIdx .modeShape)).ended = false) ∧
    (∃ (who : Req) (k : BitVec 13) (i : Nat) (s : State), TablesWf s ∧ Served who NST_SIG_IDX s ∧ i < 4) ∧
    (∃ (who : Req) (clr : Bool) (s : State), TablesWf s ∧ Served who NST_OSC_SNAP s) :=
  ⟨⟨{ up with power := { st := .fullSail }, ledger := { fail := false }, nest := { emState := .run, emSlots := [(0, { st := .tracked })] }, ticks := 10 ^ 13 },
    ⟨by decide, by decide⟩, by decide, by decide, by decide, by decide⟩,
   ⟨{ up with power := { st := .fullSail }, ticks := 10 ^ 13 }, by decide, by decide, by decide⟩,
   ⟨{ up with power := { st := .fullSail } }, by decide, by decide⟩,
   ⟨.host, { up with nest := { emState := .run } }, ⟨by decide, fun _ => ⟨rfl, rfl⟩⟩, by decide⟩,
   ⟨.host, up, ⟨by decide, fun _ => ⟨rfl, rfl⟩⟩, by decide⟩,
   ⟨.host, 0, up, ⟨by decide, by decide⟩, ⟨by decide, fun _ => ⟨rfl, rfl⟩⟩, by decide⟩,
   ⟨.host, { up with nest := { emSlots := [(0, { st := .tracked })] } }, ⟨by decide, fun _ => ⟨rfl, rfl⟩⟩, by decide⟩,
   ⟨.host, up, ⟨by decide, fun _ => ⟨rfl, rfl⟩⟩, by decide⟩,
   ⟨.host, { up with host := { windows := [((winIdx .modeShape), { ended := false })] } }, ⟨by decide, fun _ => ⟨rfl, rfl⟩⟩,
    by decide⟩,
   ⟨.host, 0#13, 0, up, ⟨by decide, by decide⟩, ⟨by decide, fun _ => ⟨rfl, rfl⟩⟩, by decide⟩,
   ⟨.host, false, up, ⟨by decide, by decide⟩, ⟨by decide, fun _ => ⟨rfl, rfl⟩⟩⟩⟩

theorem test_meets_NestTopology :
    (∃ (k : BitVec 16) (i : Nat) (p : PointSt) (s : State),
      s.power.st = .fullSail ∧ (pointCfg s k.toNat).kind = 2 ∧ tget none s.nest.latest k.toNat = some (i, p) ∧
      interOver s p = true) ∧
    (∃ (k : BitVec 16) (s : State), s.power.st = .fullSail ∧
      ((pointCfg s k.toNat).kind ≠ 2 ∨ tget none s.nest.latest k.toNat = none ∨ (∃ i p, tget none s.nest.latest k.toNat = some (i, p) ∧ interOver s p = false))) ∧
    (∃ (who : Req) (k : BitVec 15) (s : State), TablesWf s ∧ Served who NST_BR_IDX s) ∧
    (∃ (who : Req) (k : BitVec 14) (s : State), TablesWf s ∧ Served who NST_BUS_IDX s) ∧
    (∃ (who : Req) (i : Nat) (s : State), TablesWf s ∧ Served who NST_ISL_CMD s ∧ i < 8) ∧
    (∃ (who : Req) (s : State),
      Served who NST_ISL_CMD s ∧ (tget ({} : IslSlot) (topNow s).slots (rdF s NST_ISL_IDX 0 8)).st ≠ .free) ∧
    (∃ (who : Req) (s : State),
      Served who NST_ISL_CMD s ∧ (tget ({} : IslSlot) (topNow s).slots (rdF s NST_ISL_IDX 0 8)).st = .free) ∧
    (∃ (who : Req) (s : State), Served who NST_ISL_CMD s ∧ (window s (winIdx .island)).ended = false) ∧
    (∃ (who : Req) (clr : Bool) (s : State), TablesWf s ∧ Served who NST_TOP_SNAP s) :=
  ⟨⟨0#16, 0, { inter := some 0 },
    { up with power := { st := .fullSail }, nest := { latest := [((0#16 : BitVec 16).toNat, some (0, ({ inter := some 0 } : PointSt)))] }, cfg := { nest := { points := [⟨0, 0, 0, 2, true⟩] } } },
    by decide, by decide, by decide, by decide⟩,
   ⟨0#16, { up with power := { st := .fullSail } }, by decide, .inl (by decide)⟩,
   ⟨.host, 0#15, up, ⟨by decide, by decide⟩, ⟨by decide, fun _ => ⟨rfl, rfl⟩⟩⟩,
   ⟨.host, 0#14, up, ⟨by decide, by decide⟩, ⟨by decide, fun _ => ⟨rfl, rfl⟩⟩⟩,
   ⟨.host, 0, up, ⟨by decide, by decide⟩, ⟨by decide, fun _ => ⟨rfl, rfl⟩⟩, by decide⟩,
   ⟨.host,
    { up with nest := { top := [{ inst := 0, tag := 0, words := [], buses := [], after := { slots := [(0, { st := .declared })] } }] } },
    ⟨by decide, fun _ => ⟨rfl, rfl⟩⟩, by decide⟩,
   ⟨.host, up, ⟨by decide, fun _ => ⟨rfl, rfl⟩⟩, by decide⟩,
   ⟨.host, { up with host := { windows := [((winIdx .island), { ended := false })] } }, ⟨by decide, fun _ => ⟨rfl, rfl⟩⟩,
    by decide⟩,
   ⟨.host, false, up, ⟨by decide, by decide⟩, ⟨by decide, fun _ => ⟨rfl, rfl⟩⟩⟩⟩

theorem test_meets_EgressStreams :
    (∃ (p : Fin 32) (c : PubCfg) (s : State),
      s.power.st = .fullSail ∧ pubCfg s p.val = some c ∧ (pubSt s p.val).interval ≠ 0 ∧
      (pubSt s p.val).sentAt + 250000 * (pubSt s p.val).interval ≤ s.ticks) ∧
    (∃ (p : Fin 32) (s : State), s.power.st = .fullSail ∧
      (pubCfg s p.val = none ∨ (pubSt s p.val).interval = 0 ∨ s.ticks < (pubSt s p.val).sentAt + 250000 * (pubSt s p.val).interval)) ∧
    (∃ (who : Req) (p : Fin 32) (i : Nat) (s : State), TablesWf s ∧ Served who EGR_PUB_IDX s ∧ i < 4) ∧
    (∃ (id : BitVec 16) (udp : BitVec 16) (ip : Nat) (k : Nat) (c : OutCfg) (s : State),
      s.power.st = .fullSail ∧ s.deck.st = .run ∧
      s.cfg.outs.find? (fun p => decide (outIdcode s p.1 p.2 = id.toNat)) = some (k, c)) ∧
    (∃ (id : BitVec 16) (udp : BitVec 16) (ip : Nat) (k : Nat) (c : OutCfg) (s : State),
      s.power.st = .fullSail ∧ s.deck.st = .run ∧
      s.cfg.outs.find? (fun p => decide (outIdcode s p.1 p.2 = id.toNat)) = some (k, c) ∧ c.alwaysOn = false) ∧
    (∃ (id : BitVec 16) (udp : BitVec 16) (ip : Nat) (k : Nat) (c : OutCfg) (s : State),
      s.power.st = .fullSail ∧ s.deck.st = .run ∧
      s.cfg.outs.find? (fun p => decide (outIdcode s p.1 p.2 = id.toNat)) = some (k, c) ∧ c.alwaysOn = true) ∧
    (∃ (id : BitVec 16) (udp : BitVec 16) (cmd : OsCmd) (ip : Nat) (k : Nat) (c : OutCfg) (s : State),
      s.power.st = .fullSail ∧ s.deck.st = .run ∧
      s.cfg.outs.find? (fun p => decide (outIdcode s p.1 p.2 = id.toNat)) = some (k, c) ∧ cmd ≠ .turnOn ∧ cmd ≠ .turnOff ∧
      cmd ≠ .extended) ∧
    (∃ (id : BitVec 16) (udp : BitVec 16) (cmd : OsCmd) (ip : Nat) (s : State), s.power.st = .fullSail ∧ s.deck.st ≠ .run) ∧
    (∃ (id : BitVec 16) (udp : BitVec 16) (cmd : OsCmd) (ip : Nat) (s : State),
      s.power.st = .fullSail ∧ s.cfg.outs.find? (fun p => decide (outIdcode s p.1 p.2 = id.toNat)) = none) ∧
    (∃ (who : Req) (i : Nat) (s : State), TablesWf s ∧ Served who EGR_OS_CMD s ∧ i < 4) ∧
    (∃ (who : Req) (c : OutCfg) (s : State), TablesWf s ∧ Served who EGR_OS_CMD s ∧ outCfg s (rdF s EGR_OS_IDX 0 6) = some c) ∧
    (∃ (who : Req) (s : State), TablesWf s ∧ Served who EGR_OS_CMD s ∧ outCfg s (rdF s EGR_OS_IDX 0 6) = none) ∧
    (∃ (who : Req) (i : Nat) (s : State), TablesWf s ∧ Served who EGR_RULE_CMD s ∧ i < 8) ∧
    (∃ (who : Req) (c : RuleCfg) (s : State),
      TablesWf s ∧ Served who EGR_RULE_CMD s ∧ ruleCfg s (rdF s EGR_RULE_IDX 0 12) = some c) ∧
    (∃ (who : Req) (s : State), TablesWf s ∧ Served who EGR_RULE_CMD s ∧ ruleCfg s (rdF s EGR_RULE_IDX 0 12) = none) :=
  ⟨⟨0, { rgoose := false, k := 0, auth := false, queue := 0, tMax := 0, appid := 0, keyGroup := 0, len := 0, cast := 0 },
    { up with power := { st := .fullSail }, cfg := { pubs := [((0 : Fin 32).val, ({ rgoose := false, k := 0, auth := false, queue := 0, tMax := 0, appid := 0, keyGroup := 0, len := 0, cast := 0 } : PubCfg))] }, egr := { pubs := [(0, { interval := 1 })] }, ticks := 10 ^ 11 },
    by decide, by decide, by decide, by decide⟩,
   ⟨0, { up with power := { st := .fullSail } }, by decide, by decide⟩,
   ⟨.host, 0, 0, up, ⟨by decide, by decide⟩, ⟨by decide, fun _ => ⟨rfl, rfl⟩⟩, by decide⟩,
   ⟨0#16, 0#16, 0, 0,
    { idcode := 0, rate := 0, rateCode := 0, filtered := false, revMode := 0, tier := false, queue := 0, alwaysOn := false, startOn := false, timeBase := 0, cast := 0, blocks := [] },
    { up with power := { st := .fullSail }, deck := { st := .run }, cfg := { outs := [(0, ({ idcode := 0, rate := 0, rateCode := 0, filtered := false, revMode := 0, tier := false, queue := 0, alwaysOn := false, startOn := false, timeBase := 0, cast := 0, blocks := [] } : OutCfg))] } },
    by decide, by decide, by decide⟩,
   ⟨0#16, 0#16, 0, 0,
    { idcode := 0, rate := 0, rateCode := 0, filtered := false, revMode := 0, tier := false, queue := 0, alwaysOn := false, startOn := false, timeBase := 0, cast := 0, blocks := [] },
    { up with power := { st := .fullSail }, deck := { st := .run }, cfg := { outs := [(0, ({ idcode := 0, rate := 0, rateCode := 0, filtered := false, revMode := 0, tier := false, queue := 0, alwaysOn := false, startOn := false, timeBase := 0, cast := 0, blocks := [] } : OutCfg))] } },
    by decide, by decide, by decide, by decide⟩,
   ⟨0#16, 0#16, 0, 0,
    { idcode := 0, rate := 0, rateCode := 0, filtered := false, revMode := 0, tier := false, queue := 0, alwaysOn := true, startOn := false, timeBase := 0, cast := 0, blocks := [] },
    { up with power := { st := .fullSail }, deck := { st := .run }, cfg := { outs := [(0, ({ idcode := 0, rate := 0, rateCode := 0, filtered := false, revMode := 0, tier := false, queue := 0, alwaysOn := true, startOn := false, timeBase := 0, cast := 0, blocks := [] } : OutCfg))] } },
    by decide, by decide, by decide, by decide⟩,
   ⟨0#16, 0#16, .sendHeader, 0, 0,
    { idcode := 0, rate := 0, rateCode := 0, filtered := false, revMode := 0, tier := false, queue := 0, alwaysOn := false, startOn := false, timeBase := 0, cast := 0, blocks := [] },
    { up with power := { st := .fullSail }, deck := { st := .run }, cfg := { outs := [(0, ({ idcode := 0, rate := 0, rateCode := 0, filtered := false, revMode := 0, tier := false, queue := 0, alwaysOn := false, startOn := false, timeBase := 0, cast := 0, blocks := [] } : OutCfg))] } },
    by decide, by decide, by decide, by decide, by decide, by decide⟩,
   ⟨0#16, 0#16, .turnOff, 0, { up with power := { st := .fullSail } }, by decide, by decide⟩,
   ⟨0#16, 0#16, .turnOff, 0, { up with power := { st := .fullSail } }, by decide, by decide⟩,
   ⟨.host, 0, up, ⟨by decide, by decide⟩, ⟨by decide, fun _ => ⟨rfl, rfl⟩⟩, by decide⟩,
   ⟨.host,
    { idcode := 0, rate := 0, rateCode := 0, filtered := false, revMode := 0, tier := false, queue := 0, alwaysOn := false, startOn := false, timeBase := 0, cast := 0, blocks := [] },
    { up with cfg := { outs := [(0, ({ idcode := 0, rate := 0, rateCode := 0, filtered := false, revMode := 0, tier := false, queue := 0, alwaysOn := false, startOn := false, timeBase := 0, cast := 0, blocks := [] } : OutCfg))] } },
    ⟨by decide, by decide⟩, ⟨by decide, fun _ => ⟨rfl, rfl⟩⟩, by decide⟩,
   ⟨.host, up, ⟨by decide, by decide⟩, ⟨by decide, fun _ => ⟨rfl, rfl⟩⟩, by decide⟩,
   ⟨.host, 0, up, ⟨by decide, by decide⟩, ⟨by decide, fun _ => ⟨rfl, rfl⟩⟩, by decide⟩,
   ⟨.host,
    { kind := 0, sev := 0, ann := 0, pub := 0, pubEn := false, hq := 0, hqEn := false, finalEn := false, invPolicy := 0, persistOn := 0, persistOff := 0, inputs := [], cls := 0, emBand := false, thresh := 0#32, hyst := 0#32 },
    { up with cfg := { rules := [(0, ({ kind := 0, sev := 0, ann := 0, pub := 0, pubEn := false, hq := 0, hqEn := false, finalEn := false, invPolicy := 0, persistOn := 0, persistOff := 0, inputs := [], cls := 0, emBand := false, thresh := 0#32, hyst := 0#32 } : RuleCfg))] } },
    ⟨by decide, by decide⟩, ⟨by decide, fun _ => ⟨rfl, rfl⟩⟩, by decide⟩,
   ⟨.host, up, ⟨by decide, by decide⟩, ⟨by decide, fun _ => ⟨rfl, rfl⟩⟩, by decide⟩⟩

theorem test_meets_EgressQueues :
    (∃ (q : Fin 32) (v : Word) (s : State), Served .host (EGR_Q_PUSH q.val) s ∧ qHost s q.val = true) ∧
    (∃ (q : Fin 32) (prio : Fin 8) (len : BitVec 14) (s : State),
      twf ({} : Queue) s.egr.queues = true ∧ Served .host (EGR_Q_COMMIT q.val) s ∧
      commitDiscards s q.val (staged s q.val 0) len.toNat = false ∧ qFull s q.val len.toNat = false) ∧
    (∃ (q : Fin 32) (prio : Fin 8) (len : BitVec 14) (s : State),
      Served .host (EGR_Q_COMMIT q.val) s ∧ commitDiscards s q.val (staged s q.val 0) len.toNat = true) ∧
    (∃ (q : Fin 32) (prio : Fin 8) (len : BitVec 14) (s : State),
      Served .host (EGR_Q_COMMIT q.val) s ∧ commitDiscards s q.val (staged s q.val 0) len.toNat = false ∧
      qFull s q.val len.toNat = true) ∧
    (∃ (k : Fin 4) (q : Fin 32) (prio : Fin 8) (len : BitVec 14) (s : State),
      Served (.deck k) (EGR_Q_COMMIT q.val) s ∧ (queue s q.val).waiting = none ∧
      commitDiscards s q.val (staged s q.val 1) len.toNat = false ∧ qFull s q.val len.toNat = true) ∧
    (∃ (q : Fin 32) (prio : Nat) (len : Nat) (s : State),
      s.power.st = .fullSail ∧ (queue s q.val).waiting = some (prio, len) ∧ qFull s q.val len = false) ∧
    (∃ (q : Fin 32) (prio : Fin 8) (len : BitVec 14) (r : List Instr) (s : State),
      s.power.st = .fullSail ∧ (queue s q.val).waiting = none ∧ s.host.held = .qCommit .host q prio len :: r ∧
      qFull s q.val len.toNat = false) ∧
    (∃ (q : Fin 32) (prio : Nat) (len : Nat) (s : State),
      s.power.st = .fullSail ∧ (queue s q.val).waiting = some (prio, len) ∧ qFull s q.val len = true) ∧
    (∃ (q : Fin 32) (s : State), s.power.st = .fullSail ∧ (queue s q.val).waiting = none ∧ s.host.held = []) ∧
    (∃ (q : Fin 32) (s : State), Served .host (EGR_Q_COMMIT q.val) s) ∧
    (∃ (q : Fin 32) (s : State), Served .host (EGR_Q_POP q.val 0) s ∧ (queue s q.val).flushed = true) ∧
    (∃ (q : Fin 32) (s : State),
      Served .host (EGR_Q_POP q.val 0) s ∧ (queue s q.val).flushed = false ∧ (queue s q.val).items = [] ∧
      (queue s q.val).reading = none) ∧
    (∃ (q : Fin 32) (i : QItem) (s : State),
      Served .host (EGR_Q_POP q.val 0) s ∧ (queue s q.val).flushed = false ∧ qHost s q.val = true ∧
      (queue s q.val).reading = none ∧ qFirst (queue s q.val).items = some i ∧ 4 < i.len) ∧
    (∃ (q : Fin 32) (i : QItem) (s : State),
      twf ({} : Queue) s.egr.queues = true ∧ Served .host (EGR_Q_POP q.val 0) s ∧ (queue s q.val).flushed = false ∧
      qHost s q.val = true ∧ (queue s q.val).items = [i] ∧ (queue s q.val).reading = none ∧ i.len ≤ 4) ∧
    (∃ (who : Req) (q : Fin 32) (s : State), Served who (EGR_Q_CTRL q.val) s) ∧
    (∃ (q : Nat) (i : QItem) (s : State), s.power.st = .fullSail ∧ waiterReady? s = some (q, i)) ∧
    (∃ (s : State), s.power.st = .fullSail ∧ waiterReady? s = none) ∧
    (∃ (q : Nat) (i : QItem) (s : State), TablesWf s ∧ s.power.st = .fullSail ∧
      s.egr.waits.find? (fun w => w.2.stream.isSome && decide (250000000 ≤ (s.ticks - w.2.since) * nominalHz s)) = some (q, i)) ∧
    (∃ (s : State), s.power.st = .fullSail ∧
      s.egr.waits.find? (fun w => w.2.stream.isSome && decide (250000000 ≤ (s.ticks - w.2.since) * nominalHz s)) = none) ∧
    (∃ (who : Req) (clr : Bool) (s : State), TablesWf s ∧ Served who EGR_SNAP s) :=
  ⟨⟨0, 0#32, wrF (EGR_Q_CFG 0) 0 1 1 (up), ⟨by decide, fun _ => ⟨rfl, rfl⟩⟩, by decide⟩,
   ⟨0, 0, 4#14, wrF (EGR_Q_CFG 0) 0 21 0x100401 ({ up with egr := { queues := [(0, { staged := [(0, [0#32])] })] } }),
    by decide, ⟨by decide, fun _ => ⟨rfl, rfl⟩⟩, by decide, by decide⟩,
   ⟨0, 0, 0#14, up, ⟨by decide, fun _ => ⟨rfl, rfl⟩⟩, by decide⟩,
   ⟨0, 0, 4#14, wrF (EGR_Q_CFG 0) 0 21 0x100001 ({ up with egr := { queues := [(0, { staged := [(0, [0#32])] })] } }),
    ⟨by decide, fun _ => ⟨rfl, rfl⟩⟩, by decide, by decide⟩,
   ⟨0, 0, 0, 4#14, wrF (EGR_Q_CFG 0) 0 21 0x100001 ({ up with egr := { queues := [(0, { staged := [(1, [0#32])] })] } }),
    ⟨by decide, fun _ => ⟨rfl, rfl⟩⟩, by decide, by decide, by decide⟩,
   ⟨0, 0, 0,
    wrF (EGR_Q_CFG 0) 10 10 1 ({ up with power := { st := .fullSail }, egr := { queues := [(0, { waiting := some (0, 0) })] } }),
    by decide, by decide, by decide⟩,
   ⟨0, 0, 0#14, [],
    wrF (EGR_Q_CFG 0) 10 10 1 ({ up with power := { st := .fullSail }, egr := { queues := [(0, { waiting := none })] }, host := { held := .qCommit .host 0 0 (0#14 : BitVec 14) :: [] } }),
    by decide, by decide, by decide, by decide⟩,
   ⟨0, 0, 0, { up with power := { st := .fullSail }, egr := { queues := [(0, { waiting := some (0, 0) })] } }, by decide,
    by decide, by decide⟩,
   ⟨0, { up with power := { st := .fullSail }, egr := { queues := [(0, { waiting := none })] }, host := { held := [] } },
    by decide, by decide, by decide⟩,
   ⟨0, up, ⟨by decide, fun _ => ⟨rfl, rfl⟩⟩⟩,
   ⟨0, { up with egr := { queues := [(0, { flushed := true })] } }, ⟨by decide, fun _ => ⟨rfl, rfl⟩⟩, by decide⟩,
   ⟨0, { up with egr := { queues := [(0, { flushed := false, items := [], reading := none })] } },
    ⟨by decide, fun _ => ⟨rfl, rfl⟩⟩, by decide, by decide, by decide⟩,
   ⟨0, { ident := 0, prio := 0, len := 8, body := .words [] },
    wrF (EGR_Q_CFG 0) 0 1 1 ({ up with egr := { queues := [(0, { items := [({ ident := 0, prio := 0, len := 8, body := .words [] } : QItem)] })] } }),
    ⟨by decide, fun _ => ⟨rfl, rfl⟩⟩, by decide, by decide, by decide, by decide, by decide⟩,
   ⟨0, { ident := 0, prio := 0, len := 0, body := .none },
    wrF (EGR_Q_CFG 0) 0 1 1 ({ up with egr := { queues := [(0, { flushed := false, items := [({ ident := 0, prio := 0, len := 0, body := .none } : QItem)], reading := none })] } }),
    by decide, ⟨by decide, fun _ => ⟨rfl, rfl⟩⟩, by decide, by decide, by decide, by decide, by decide⟩,
   ⟨.host, 0, up, ⟨by decide, fun _ => ⟨rfl, rfl⟩⟩⟩,
   ⟨0, { ident := 0, prio := 0, len := 0, body := .none },
    wrF (EGR_Q_CFG 0) 10 10 1 ({ up with power := { st := .fullSail }, egr := { waits := [(0, ({ ident := 0, prio := 0, len := 0, body := .none } : QItem))] } }),
    by decide, by decide⟩,
   ⟨{ up with power := { st := .fullSail } }, by decide, by decide⟩,
   ⟨0, { ident := 0, prio := 0, len := 0, body := .none, stream := some 0 },
    { up with power := { st := .fullSail }, egr := { waits := [(0, ({ ident := 0, prio := 0, len := 0, body := .none, stream := some 0 } : QItem))] }, ticks := 10 ^ 9 },
    ⟨by decide, by decide⟩, by decide, by decide⟩,
   ⟨{ up with power := { st := .fullSail } }, by decide, by decide⟩,
   ⟨.host, false, up, ⟨by decide, by decide⟩, ⟨by decide, fun _ => ⟨rfl, rfl⟩⟩⟩⟩

theorem test_meets_EgressTransmission :
    (∃ (p : Fin 64) (c : Fin 8) (i : QItem) (s : State),
      s.power.st = .fullSail ∧ s.boot.dataPath = true ∧ portOn s p.val = true ∧ (port s p.val).linkUp = true ∧
      wakeDone s p.val = true ∧ (port s p.val).tx = none ∧ classTurn s p.val c.val = true ∧
      qFirst (queue s (nextQueue (classQueues s p.val c.val) (tget 32 s.egr.rr (8 * p.val + c.val)))).items = some i) ∧
    (∃ (p : Fin 64) (c : Fin 8) (i : QItem) (s : State),
      s.power.st = .fullSail ∧ s.boot.dataPath = true ∧ portOn s p.val = true ∧ (port s p.val).linkUp = true ∧
      wakeDone s p.val = true ∧ (port s p.val).tx = none ∧ classTurn s p.val c.val = true ∧ isMuted s = false ∧
      keyFails s i = false ∧
      qFirst (queue s (nextQueue (classQueues s p.val c.val) (tget 32 s.egr.rr (8 * p.val + c.val)))).items = some i) ∧
    (∃ (p : Fin 64) (c : Fin 8) (i : QItem) (s : State),
      TablesWf s ∧ s.power.st = .fullSail ∧ s.boot.dataPath = true ∧ portOn s p.val = true ∧ (port s p.val).linkUp = true ∧
      wakeDone s p.val = true ∧ (port s p.val).tx = none ∧ classTurn s p.val c.val = true ∧ isMuted s = true ∧
      qFirst (queue s (nextQueue (classQueues s p.val c.val) (tget 32 s.egr.rr (8 * p.val + c.val)))).items = some i) ∧
    (∃ (p : Fin 64) (c : Fin 8) (s : State), s.power.st = .fullSail ∧
      (classTurn s p.val c.val = false ∨ portOn s p.val = false ∨ (port s p.val).linkUp = false ∨ (port s p.val).tx ≠ none ∨ wakeDone s p.val = false)) ∧
    (∃ (who : Req) (j : XfJob) (s : State),
      TablesWf s ∧ Served who EGR_XF_CMD s ∧ s.egr.xf = none ∧ xfJob s = some j ∧ j.ofs < j.bytes.length) ∧
    (∃ (who : Req) (j : XfJob) (s : State), Served who EGR_XF_CMD s ∧ s.egr.xf = some j) ∧
    (∃ (who : Req) (j : XfJob) (s : State), TablesWf s ∧ Served who EGR_XF_CMD s ∧ s.egr.xf = some j) ∧
    (∃ (who : Req) (s : State), Served who EGR_XF_CMD s ∧ s.egr.xf = none) ∧
    (∃ (j : XfJob) (s : State),
      s.power.st = .fullSail ∧ s.egr.xf = some j ∧ xfWaiting s = false ∧ j.nextAt ≤ s.ticks ∧ j.ofs + 1408 < j.bytes.length) ∧
    (∃ (j : XfJob) (s : State),
      s.power.st = .fullSail ∧ s.egr.xf = some j ∧ xfWaiting s = false ∧ j.nextAt ≤ s.ticks ∧ j.ofs + 1408 < j.bytes.length ∧
      qUsed s j.queue = true ∧ qFull s j.queue 1470 = false ∧ s.egr.waits.all (fun w => decide (w.1 ≠ j.queue)) = true) ∧
    (∃ (j : XfJob) (s : State),
      TablesWf s ∧ s.power.st = .fullSail ∧ s.egr.xf = some j ∧ xfWaiting s = false ∧ j.nextAt ≤ s.ticks ∧
      j.bytes.length ≤ j.ofs + 1408) ∧
    (∃ (s : State),
      s.power.st = .fullSail ∧ (s.egr.xf = none ∨ (∃ j, s.egr.xf = some j ∧ (xfWaiting s = true ∨ s.ticks < j.nextAt)))) :=
  ⟨⟨0, 0, { ident := 0, prio := 0, len := 0, body := .none },
    wrF (EGR_Q_CFG 0) 0 21 0x100000 (wrF (PRT_CFG 0) 2 1 1 ({ up with power := { st := .fullSail }, boot := { up.boot with dataPath := true }, ports := [((0 : Fin 64).val, { linkUp := true, tx := none })], egr := { queues := [(0, { items := [({ ident := 0, prio := 0, len := 0, body := .none } : QItem)] })] } })),
    by decide, by decide, by decide, by decide, by decide, by decide, by decide, by decide⟩,
   ⟨0, 0, { ident := 0, prio := 0, len := 0, body := .none },
    wrF (EGR_Q_CFG 0) 0 21 0x100000 (wrF (PRT_CFG 0) 2 1 1 ({ up with power := { st := .fullSail }, boot := { up.boot with dataPath := true }, ports := [((0 : Fin 64).val, { linkUp := true, tx := none })], egr := { queues := [(0, { items := [({ ident := 0, prio := 0, len := 0, body := .none } : QItem)] })] }, pair := { role := .solo } })),
    by decide, by decide, by decide, by decide, by decide, by decide, by decide, by decide, by decide, by decide⟩,
   ⟨0, 0, { ident := 0, prio := 0, len := 0, body := .none },
    wrF (EGR_Q_CFG 0) 0 21 0x100000 (wrF (PRT_CFG 0) 2 1 1 ({ up with power := { st := .fullSail }, boot := { up.boot with dataPath := true }, ports := [((0 : Fin 64).val, { linkUp := true, tx := none })], egr := { queues := [(0, { items := [({ ident := 0, prio := 0, len := 0, body := .none } : QItem)] })] } })),
    ⟨by decide, by decide⟩, by decide, by decide, by decide, by decide, by decide, by decide, by decide, by decide, by decide⟩,
   ⟨0, 0, { up with power := { st := .fullSail } }, by decide, by decide⟩,
   ⟨.host,
    { job := 1, typ := 1, record := 0, queue := 0, dest := 0, bytes := [0], ofs := 0, blocks := blockEnds 0 [{ first := 0, last := 0, gap := 0, bytes := [0] }], rate := 100, nextAt := 0 },
    { up with egr := { xf := none }, mkt := { blocks := [{ first := 0, last := 0, gap := 0, bytes := [0] }] } },
    ⟨by decide, by decide⟩, ⟨by decide, fun _ => ⟨rfl, rfl⟩⟩, by decide, by decide, by decide⟩,
   ⟨.host,
    { job := 0, typ := 0, record := 0, queue := 0, dest := 0, bytes := [], ofs := 0, blocks := [], rate := 0, nextAt := 0 },
    { up with egr := { xf := some ({ job := 0, typ := 0, record := 0, queue := 0, dest := 0, bytes := [], ofs := 0, blocks := [], rate := 0, nextAt := 0 } : XfJob) } },
    ⟨by decide, fun _ => ⟨rfl, rfl⟩⟩, by decide⟩,
   ⟨.host,
    { job := 0, typ := 0, record := 0, queue := 0, dest := 0, bytes := [], ofs := 0, blocks := [], rate := 0, nextAt := 0 },
    { up with egr := { xf := some ({ job := 0, typ := 0, record := 0, queue := 0, dest := 0, bytes := [], ofs := 0, blocks := [], rate := 0, nextAt := 0 } : XfJob) } },
    ⟨by decide, by decide⟩, ⟨by decide, fun _ => ⟨rfl, rfl⟩⟩, by decide⟩,
   ⟨.host, { up with egr := { xf := none } }, ⟨by decide, fun _ => ⟨rfl, rfl⟩⟩, by decide⟩,
   ⟨{ job := 0, typ := 0, record := 0, queue := 0, dest := 0, bytes := List.replicate 1409 0, ofs := 0, blocks := [], rate := 0, nextAt := 0 },
    { up with power := { st := .fullSail }, egr := { xf := some ({ job := 0, typ := 0, record := 0, queue := 0, dest := 0, bytes := List.replicate 1409 0, ofs := 0, blocks := [], rate := 0, nextAt := 0 } : XfJob) } },
    by decide, by decide, by decide, by decide, by simp⟩,
   ⟨{ job := 1, typ := 1, record := 0, queue := 0, dest := 0, bytes := List.replicate 1409 0, ofs := 0, blocks := [], rate := 100, nextAt := 0 },
    wrF (EGR_Q_CFG 0) 10 11 1025 ({ up with power := { st := .fullSail }, egr := { xf := some ({ job := 1, typ := 1, record := 0, queue := 0, dest := 0, bytes := List.replicate 1409 0, ofs := 0, blocks := [], rate := 100, nextAt := 0 } : XfJob) } }),
    by decide, by decide, by decide, by decide, by decide, by decide, by decide, by decide⟩,
   ⟨{ job := 0, typ := 0, record := 0, queue := 0, dest := 0, bytes := [], ofs := 0, blocks := [], rate := 0, nextAt := 0 },
    { up with power := { st := .fullSail }, egr := { xf := some ({ job := 0, typ := 0, record := 0, queue := 0, dest := 0, bytes := [], ofs := 0, blocks := [], rate := 0, nextAt := 0 } : XfJob) } },
    ⟨by decide, by decide⟩, by decide, by decide, by decide, by decide, by decide⟩,
   ⟨{ up with power := { st := .fullSail }, egr := { xf := none, waits := [(0, { ident := 0, prio := 0, len := 0, body := .datagram 0 0 0 false 0 [] })] } },
    by decide, by decide⟩⟩

theorem test_meets_PackerJobs :
    (∃ (who : Req) (k : BitVec 16) (input : List Byte) (s : State),
      TablesWf s ∧ Served who PAK_J_CMD s ∧ s.pak.job = none ∧ rd s PAK_J_LEN ≠ 0#32) ∧
    (∃ (who : Req) (k : BitVec 16) (input : List Byte) (s : State),
      TablesWf s ∧ Served who PAK_J_CMD s ∧ s.pak.job = none ∧ rd s PAK_J_LEN = 0#32) ∧
    (∃ (who : Req) (k : BitVec 16) (input : List Byte) (j : PakJob) (s : State), Served who PAK_J_CMD s ∧ s.pak.job = some j) ∧
    (∃ (who : Req) (n : Nat) (b : PakBlock) (s : State),
      Served who PAK_J_CMD s ∧ s.pak.engine = some b ∧ b.chan = 3 ∧ b.unpack = false ∧ 0 < n ∧ n < b.bytes.length) ∧
    (∃ (who : Req) (b : PakBlock) (s : State), Served who PAK_J_CMD s ∧ s.pak.engine = some b) ∧
    (∃ (who : Req) (j : PakJob) (s : State), TablesWf s ∧ Served who PAK_J_CMD s ∧ s.pak.job = some j) ∧
    (∃ (who : Req) (s : State), Served who PAK_J_CMD s ∧ s.pak.job = none) ∧
    (∃ (b : PakBlock) (t : State) (s : State), s.power.st = .fullSail ∧ s.pak.engine = none ∧ takeBlock s = some (b, t)) ∧
    (∃ (s : State), s.power.st = .fullSail ∧ s.pak.engine = none ∧ takeBlock s = none) ∧
    (∃ (b : PakBlock) (s : State), s.power.st = .fullSail ∧ s.pak.engine = some b) ∧
    (∃ (b : PakBlock) (s : State),
      s.power.st = .fullSail ∧ s.pak.engine = some b ∧ b.unpack = false ∧ b.chan ≠ 0 ∧ b.chan ≠ 3 ∧
      (window s b.window).ended = true) ∧
    (∃ (b : PakBlock) (s : State), s.power.st = .fullSail ∧ s.pak.engine = some b ∧ b.unpack = true ∧ s.pak.job = none) ∧
    (∃ (s : State), s.power.st = .fullSail ∧ s.pak.engine = none) ∧
    (∃ (who : Req) (clr : Bool) (s : State), TablesWf s ∧ Served who PAK_SNAP s) :=
  ⟨⟨.host, 0#16, [], wr PAK_J_LEN 1#32 ({ up with pak := { job := none } }), ⟨by decide, by decide⟩,
    ⟨by decide, fun _ => ⟨rfl, rfl⟩⟩, by decide, by decide⟩,
   ⟨.host, 0#16, [], wr PAK_J_LEN (0#32) ({ up with pak := { job := none } }), ⟨by decide, by decide⟩,
    ⟨by decide, fun _ => ⟨rfl, rfl⟩⟩, by decide, by decide⟩,
   ⟨.host, 0#16, [], { op := 0, input := [], dst := 0, dlen := 0, block := 0 },
    { up with pak := { job := some ({ op := 0, input := [], dst := 0, dlen := 0, block := 0 } : PakJob) } },
    ⟨by decide, fun _ => ⟨rfl, rfl⟩⟩, by decide⟩,
   ⟨.host, 1, { chan := 3, src := 0, bytes := [0, 0], unpack := false },
    { up with pak := { engine := some ({ chan := 3, src := 0, bytes := [0, 0], unpack := false } : PakBlock) } },
    ⟨by decide, fun _ => ⟨rfl, rfl⟩⟩, by decide, by decide, by decide, by decide, by decide⟩,
   ⟨.host, { chan := 0, src := 0, bytes := [] },
    { up with pak := { engine := some ({ chan := 0, src := 0, bytes := [] } : PakBlock) } }, ⟨by decide, fun _ => ⟨rfl, rfl⟩⟩,
    by decide⟩,
   ⟨.host, { op := 0, input := [], dst := 0, dlen := 0, block := 0 },
    { up with pak := { job := some ({ op := 0, input := [], dst := 0, dlen := 0, block := 0 } : PakJob) } },
    ⟨by decide, by decide⟩, ⟨by decide, fun _ => ⟨rfl, rfl⟩⟩, by decide⟩,
   ⟨.host, { up with pak := { job := none } }, ⟨by decide, fun _ => ⟨rfl, rfl⟩⟩, by decide⟩,
   ⟨{ chan := 0, src := 0, bytes := [] },
    setWork 1 [] ({ up with power := { st := .fullSail }, pak := { engine := none, work := [(1, [({ chan := 0, src := 0, bytes := [] } : PakBlock)])] } }),
    { up with power := { st := .fullSail }, pak := { engine := none, work := [(1, [({ chan := 0, src := 0, bytes := [] } : PakBlock)])] } },
    by decide, by decide, by decide⟩,
   ⟨{ up with power := { st := .fullSail }, pak := { engine := none } }, by decide, by decide, by decide⟩,
   ⟨{ chan := 0, src := 0, bytes := [] },
    { up with power := { st := .fullSail }, pak := { engine := some ({ chan := 0, src := 0, bytes := [] } : PakBlock) } },
    by decide, by decide⟩,
   ⟨{ chan := 1, src := 0, bytes := [] },
    { up with power := { st := .fullSail }, pak := { engine := some ({ chan := 1, src := 0, bytes := [] } : PakBlock) }, host := { windows := [(0, { ended := true })] } },
    by decide, by decide, by decide, by decide, by decide, by decide⟩,
   ⟨{ chan := 0, src := 0, bytes := [], unpack := true },
    { up with power := { st := .fullSail }, pak := { engine := some ({ chan := 0, src := 0, bytes := [], unpack := true } : PakBlock), job := none } },
    by decide, by decide, by decide, by decide⟩,
   ⟨{ up with power := { st := .fullSail }, pak := { engine := none } }, by decide, by decide⟩,
   ⟨.host, false, up, ⟨by decide, by decide⟩, ⟨by decide, fun _ => ⟨rfl, rfl⟩⟩⟩⟩

theorem test_meets_MemoryErrors :
    (∃ (region : Fin 15) (addr : BitVec 36) (s : State),
      TablesWf s ∧ s.power.st ≠ .furled ∧ inRegion region.val addr.toNat = true ∧ addr.toNat / 32 ∉ s.mem.poison) ∧
    (∃ (region : Fin 15) (addr : BitVec 36) (target : UeTarget) (s : State),
      s.power.st ≠ .furled ∧ inRegion region.val addr.toNat = true ∧ addr.toNat / 32 ∉ s.mem.poison ∧
      region.val ∈ targetRegions target) ∧
    (∃ (region : Fin 15) (addr : BitVec 36) (s : State),
      s.power.st ≠ .furled ∧ inRegion region.val addr.toNat = true ∧ addr.toNat / 32 ∈ s.mem.poison) ∧
    (∃ (region : Fin 15) (addr : BitVec 36) (ch : Fin 2) (lane : Fin 4) (target : UeTarget) (s : State),
      s.power.st ≠ .furled ∧ inRegion region.val addr.toNat = false) ∧
    (∃ (region : Fin 15) (addr : BitVec 36) (ch : Fin 2) (lane : Fin 4) (target : UeTarget) (s : State),
      TablesWf s ∧ s.power.st ≠ .furled ∧ inRegion region.val addr.toNat = true ∧ onDegraded ch.val lane.val s = false) ∧
    (∃ (region : Fin 15) (addr : BitVec 36) (ch : Fin 2) (lane : Fin 4) (l : Nat) (s : State),
      TablesWf s ∧ s.power.st ≠ .furled ∧ inRegion region.val addr.toNat = true ∧ s.mem.degraded = some (ch.val, l) ∧
      l ≠ lane.val) ∧
    (∃ (region : Fin 15) (s : State), s.power.st = .fullSail ∧ patrolDue s = true ∧ s.mem.scrubAt + 1 < 469762048) ∧
    (∃ (region : Fin 15) (s : State),
      TablesWf s ∧ s.power.st = .fullSail ∧ patrolDue s = true ∧ 469762048 ≤ s.mem.scrubAt + 1) ∧
    (∃ (region : Fin 15) (r : PatrolResult) (s : State), s.power.st = .fullSail ∧ patrolDue s = false) ∧
    (∃ (region : Fin 15) (s : State), s.power.st = .fullSail ∧ patrolDue s = true ∧ s.mem.scrubAt ∉ s.mem.poison) ∧
    (∃ (who : Req) (clr : Bool) (s : State), TablesWf s ∧ Served who MEM_SNAP s) :=
  ⟨⟨0, 0#36, up, ⟨by decide, by decide⟩, by decide, by decide, by decide⟩,
   ⟨0, 0#36, .none, up, by decide, by decide, by decide, by decide⟩,
   ⟨0, 0#36, { up with mem := { poison := [0] } }, by decide, by decide, by decide⟩,
   ⟨3, 0#36, 0, 0, .none, up, by decide, by decide⟩,
   ⟨0, 0#36, 0, 0, .none, up, ⟨by decide, by decide⟩, by decide, by decide, by decide⟩,
   ⟨0, 0#36, 0, 0, 1, { up with mem := { degraded := some ((0 : Fin 2).val, 1) } }, ⟨by decide, by decide⟩, by decide,
    by decide, by decide, by decide⟩,
   ⟨0, { up with power := { st := .fullSail } }, by decide, by decide, by decide⟩,
   ⟨0, { up with power := { st := .fullSail }, mem := { scrubAt := 469762047 }, ticks := 10 ^ 40 }, ⟨by decide, by decide⟩,
    by decide, by decide, by decide⟩,
   ⟨0, .clean, { up with power := { st := .fullSail }, mem := { scrubAt := 1 } }, by decide, by decide⟩,
   ⟨0, { up with power := { st := .fullSail } }, by decide, by decide, by decide⟩,
   ⟨.host, false, up, ⟨by decide, by decide⟩, ⟨by decide, fun _ => ⟨rfl, rfl⟩⟩⟩⟩

theorem test_meets_DeckPosts :
    (∃ (t : Nat) (r : List Nat) (s : State), s.power.st = .fullSail ∧ s.deck.postq = t :: r) ∧
    (∃ (s : State), s.power.st = .fullSail ∧ s.deck.postq = []) ∧
    (∃ (t : Nat) (s : State), TablesWf s ∧ (thread s t).st = .dormant) ∧
    (∃ (c : Fin 4) (t : Fin 256) (u : Nat) (s : State),
      s.power.st = .fullSail ∧ tget none s.deck.running c.val = some u ∧ (u < 64 ∨ 64 ≤ t.val)) ∧
    (∃ (c : Fin 4) (t : Fin 256) (s : State), s.power.st = .fullSail ∧
      (tget none s.deck.running c.val = none ∨ (t.val < 64 ∧ ∃ u, tget none s.deck.running c.val = some u ∧ 64 ≤ u))) ∧
    (∃ (c : Fin 4) (t : Fin 256) (u : Nat) (s : State),
      s.power.st = .fullSail ∧ tget none s.deck.running c.val = some u ∧ (u < 64 ∨ 64 ≤ t.val) ∧ postRoom s t.val = true) ∧
    (∃ (t : Fin 256) (s : State),
      Served .host CTL_HPOST s ∧ (thread s t.val).hostPost = true ∧ hostPosting s = false ∧ postRoom s t.val = true) ∧
    (∃ (t : Fin 256) (s : State), Served .host CTL_HPOST s ∧ (thread s t.val).hostPost = false) ∧
    (∃ (t : Fin 256) (s : State), Served .host CTL_HPOST s ∧ (thread s t.val).hostPost = true ∧ hostPosting s = true) ∧
    (∃ (t : Fin 256) (s : State),
      TablesWf s ∧ Served .host CTL_HPOST s ∧ (thread s t.val).hostPost = true ∧ hostPosting s = false ∧
      (thread s t.val).st = .waiting) ∧
    (∃ (t : Fin 256) (s : State),
      TablesWf s ∧ Served .host CTL_HPOST s ∧ (thread s t.val).hostPost = true ∧ hostPosting s = false ∧
      (thread s t.val).st = .ready) ∧
    (∃ (t : Fin 256) (s : State), s.power.st = .fullSail ∧ (thread s t.val).timeout = some 0) ∧
    (∃ (t : Fin 256) (s : State), s.power.st = .fullSail ∧ (thread s t.val).timeout ≠ some 0) ∧
    (∃ (c : Fin 4) (n : BitVec 16) (t : Nat) (s : State),
      s.power.st = .fullSail ∧ tget none s.deck.running c.val = some t ∧ 0 < (thread s t).posts) ∧
    (∃ (c : Fin 4) (n : BitVec 16) (t : Nat) (s : State),
      s.power.st = .fullSail ∧ tget none s.deck.running c.val = some t ∧ (thread s t).posts = 0 ∧ n ≠ 0#16) ∧
    (∃ (c : Fin 4) (t : Nat) (s : State),
      s.power.st = .fullSail ∧ tget none s.deck.running c.val = some t ∧ (thread s t).posts = 0) ∧
    (∃ (c : Fin 4) (t : Nat) (s : State), s.power.st = .fullSail ∧ tget none s.deck.running c.val = some t ∧ 64 ≤ t ∧
      3 ≤ (s.ticks :: (thread s t).faultTicks.filter (fun k => decide (s.ticks ≤ k + 15000000000))).length) ∧
    (∃ (c : Fin 4) (t : Nat) (s : State), s.power.st = .fullSail ∧ tget none s.deck.running c.val = some t ∧ 64 ≤ t ∧
      (s.ticks :: (thread s t).faultTicks.filter (fun k => decide (s.ticks ≤ k + 15000000000))).length < 3) ∧
    (∃ (c : Fin 4) (t : Nat) (s : State), s.power.st = .fullSail ∧ tget none s.deck.running c.val = some t ∧ t < 64) ∧
    (∃ (who : Req) (t : Fin 256) (s : State), TablesWf s ∧ Served who CTL_TH_IDX s) :=
  ⟨⟨0, [], { up with power := { st := .fullSail }, deck := { postq := 0 :: [] } }, by decide, by decide⟩,
   ⟨{ up with power := { st := .fullSail }, deck := { postq := [] } }, by decide, by decide⟩,
   ⟨0, up, ⟨by decide, by decide⟩, by decide⟩,
   ⟨0, 0, 0, { up with power := { st := .fullSail }, deck := { running := [((0 : Fin 4).val, some 0)] } }, by decide,
    by decide, by decide⟩,
   ⟨0, 0, { up with power := { st := .fullSail }, deck := { running := [((0 : Fin 4).val, none)] } }, by decide, by decide⟩,
   ⟨0, 0, 0, { up with power := { st := .fullSail }, deck := { running := [((0 : Fin 4).val, some 0)] } }, by decide,
    by decide, by decide, by decide⟩,
   ⟨0, { up with deck := { threads := [(0, { hostPost := true })] } }, ⟨by decide, fun _ => ⟨rfl, rfl⟩⟩, by decide, by decide,
    by decide⟩,
   ⟨0, up, ⟨by decide, fun _ => ⟨rfl, rfl⟩⟩, by decide⟩,
   ⟨0, { up with deck := { threads := [(0, { hostPost := true })], held := [(.host, 0)] } }, ⟨by decide, fun _ => ⟨rfl, rfl⟩⟩,
    by decide, by decide⟩,
   ⟨0, { up with deck := { threads := [(0, { hostPost := true, st := .waiting })] } }, ⟨by decide, by decide⟩,
    ⟨by decide, fun _ => ⟨rfl, rfl⟩⟩, by decide, by decide, by decide⟩,
   ⟨0, { up with deck := { threads := [(0, { hostPost := true, st := .ready })] } }, ⟨by decide, by decide⟩,
    ⟨by decide, fun _ => ⟨rfl, rfl⟩⟩, by decide, by decide, by decide⟩,
   ⟨0, { up with power := { st := .fullSail }, deck := { threads := [(0, { timeout := some 0 })] } }, by decide, by decide⟩,
   ⟨0, { up with power := { st := .fullSail } }, by decide, by decide⟩,
   ⟨0, 0#16, 0,
    { up with power := { st := .fullSail }, deck := { running := [((0 : Fin 4).val, some 0)], threads := [(0, { posts := 1 })] } },
    by decide, by decide, by decide⟩,
   ⟨0, 1#16, 0, { up with power := { st := .fullSail }, deck := { running := [((0 : Fin 4).val, some 0)] } }, by decide,
    by decide, by decide, by decide⟩,
   ⟨0, 0, { up with power := { st := .fullSail }, deck := { running := [((0 : Fin 4).val, some 0)] } }, by decide, by decide,
    by decide⟩,
   ⟨0, 64,
    { up with power := { st := .fullSail }, deck := { running := [((0 : Fin 4).val, some 64)], threads := [(64, { faultTicks := [0, 0] })] } },
    by decide, by decide, by decide, by decide⟩,
   ⟨0, 64, { up with power := { st := .fullSail }, deck := { running := [((0 : Fin 4).val, some 64)] } }, by decide, by decide,
    by decide, by decide⟩,
   ⟨0, 0, { up with power := { st := .fullSail }, deck := { running := [((0 : Fin 4).val, some 0)] } }, by decide, by decide,
    by decide⟩,
   ⟨.host, 0, up, ⟨by decide, by decide⟩, ⟨by decide, fun _ => ⟨rfl, rfl⟩⟩⟩⟩

theorem test_meets_DeckRestart :
    (∃ (k : Fin 4) (s : State), Served (.deck k) CTL_WDOG s) ∧
    (∃ (s : State), Served .host CTL_WDOG s) ∧
    (∃ (s : State), s.power.st = .fullSail ∧ wdogDue s = true ∧ s.deck.st = .run) ∧
    (∃ (s : State), s.power.st = .fullSail ∧
      (s.deck.wdogOn = false ∨ s.ticks < s.deck.wdogAt + rdF s CTL_WDOG 0 10 * 250000 ∨ s.deck.st ≠ .run)) ∧
    (∃ (c : Fin 4) (s : State), s.power.st = .fullSail ∧ s.deck.st = .run) ∧
    (∃ (c : Fin 4) (customer : Bool) (s : State), s.power.st = .fullSail ∧ s.deck.st ≠ .run) ∧
    (∃ (who : Req) (s : State), Served who CTL_RESTART s ∧ s.deck.st = .run) ∧
    (∃ (who : Req) (s : State), Served who CTL_RESTART s ∧ s.deck.st = .failed) ∧
    (∃ (who : Req) (s : State), TablesWf s ∧ Served who CTL_RESTART s ∧ s.deck.st = .restarting) ∧
    (∃ (who : Req) (key : BitVec 16) (s : State), Served who CTL_RESTART s ∧ key ≠ 0x5A3C#16) ∧
    (∃ (cause : Nat) (s : State), s.mast.st ≠ .locked) ∧
    (∃ (version : Word) (s : State), s.power.st = .fullSail ∧ s.deck.st = .restarting) ∧
    (∃ (version : Word) (s : State), s.deck.isStart = true) ∧
    (∃ (version : Word) (s : State), s.power.st = .fullSail) ∧
    (∃ (s : State), s.power.st = .fullSail ∧ s.deck.st = .restarting ∧ s.deck.beganAt + 250000000 ≤ s.ticks) ∧
    (∃ (s : State), s.power.st = .fullSail ∧ s.ticks < s.deck.beganAt + 250000000) ∧
    (∃ (s : State), s.power.st = .fullSail ∧ s.deck.st ≠ .restarting) :=
  ⟨⟨0, up, ⟨by decide, fun _ => ⟨rfl, rfl⟩⟩⟩,
   ⟨up, ⟨by decide, fun _ => ⟨rfl, rfl⟩⟩⟩,
   ⟨{ up with power := { st := .fullSail }, deck := { st := .run, wdogOn := true } }, by decide, by decide, by decide⟩,
   ⟨{ up with power := { st := .fullSail }, deck := { wdogOn := false } }, by decide, by decide⟩,
   ⟨0, { up with power := { st := .fullSail }, deck := { st := .run } }, by decide, by decide⟩,
   ⟨0, false, { up with power := { st := .fullSail } }, by decide, by decide⟩,
   ⟨.host, { up with deck := { st := .run } }, ⟨by decide, fun _ => ⟨rfl, rfl⟩⟩, by decide⟩,
   ⟨.host, { up with deck := { st := .failed } }, ⟨by decide, fun _ => ⟨rfl, rfl⟩⟩, by decide⟩,
   ⟨.host, { up with deck := { st := .restarting } }, ⟨by decide, by decide⟩, ⟨by decide, fun _ => ⟨rfl, rfl⟩⟩, by decide⟩,
   ⟨.host, 0#16, up, ⟨by decide, fun _ => ⟨rfl, rfl⟩⟩, by decide⟩,
   ⟨0, up, by decide⟩,
   ⟨0#32, { up with power := { st := .fullSail }, deck := { st := .restarting } }, by decide, by decide⟩,
   ⟨0#32, { up with deck := { isStart := true } }, by decide⟩,
   ⟨0#32, { up with power := { st := .fullSail } }, by decide⟩,
   ⟨{ up with power := { st := .fullSail }, deck := { st := .restarting }, ticks := 10 ^ 11 }, by decide, by decide, by decide⟩,
   ⟨{ up with power := { st := .fullSail } }, by decide, by decide⟩,
   ⟨{ up with power := { st := .fullSail }, deck := { st := .run } }, by decide, by decide⟩⟩

theorem test_meets_DeckCounters :
    (∃ (who : Req) (set : PcSet) (on : Bool) (s : State), TablesWf s ∧ Served who (pcCtrl set) s) ∧
    (∃ (who : Req) (set : PcSet) (s : State), Served who (pcCtrl set) s) ∧
    (∃ (c : PcCounter) (s : State), TablesWf s) ∧
    (∃ (who : Req) (c : Fin 4) (k : Fin 8) (v : Word) (s : State), TablesWf s ∧ Served who (CTL_PC_SEL c.val k.val) s) ∧
    (∃ (who : Req) (k : Fin 32) (v : Word) (s : State), TablesWf s ∧ Served who (CTL_DP_SEL k.val) s) ∧
    (∃ (who : Req) (c : Fin 4) (s : State), TablesWf s ∧ Served who (CTL_PC_CTRL c.val) s) ∧
    (∃ (c : Fin 4) (a : BitVec 48) (l : BitVec 16) (s : State), s.power.st = .fullSail ∧ sampleMode s c.val = 1) ∧
    (∃ (c : Fin 4) (a : BitVec 48) (l : BitVec 16) (s : State), s.power.st = .fullSail ∧ sampleMode s c.val ≠ 1) ∧
    (∃ (c : Fin 4) (a : BitVec 48) (t : Nat) (s : State),
      s.power.st = .fullSail ∧ sampleMode s c.val = 2 ∧ tget none s.deck.w2 c.val = none ∧ w2winDue s c.val = true ∧
      tget none s.deck.running c.val = some t) ∧
    (∃ (c : Fin 4) (a : BitVec 48) (s : State),
      s.power.st = .fullSail ∧ (sampleMode s c.val ≠ 2 ∨ w2winDue s c.val = false ∨ tget none s.deck.running c.val = none)) ∧
    (∃ (c : Fin 4) (n : Fin 33) (r : Nat) (w : Nat) (f : Nat) (m : BitVec 7) (x : W2Win) (s : State),
      s.power.st = .fullSail ∧ tget none s.deck.w2 c.val = some x ∧
      ((n.val = 32 ∨ tget none s.deck.running c.val ≠ some x.thread)) ∧ sampleLevel s c.val < 128) ∧
    (∃ (c : Fin 4) (n : Fin 33) (r : Nat) (w : Nat) (f : Nat) (m : BitVec 7) (x : W2Win) (s : State),
      s.power.st = .fullSail ∧ tget none s.deck.w2 c.val = some x ∧ n.val ≠ 32 ∧ tget none s.deck.running c.val = some x.thread) ∧
    (∃ (c : Fin 4) (n : Fin 33) (r : Nat) (w : Nat) (f : Nat) (m : BitVec 7) (s : State),
      s.power.st = .fullSail ∧ tget none s.deck.w2 c.val = none) ∧
    (∃ (c : PcCounter) (s : State), s.power.st = .fullSail ∧ pcCounting s (pcSetOf c) = true) ∧
    (∃ (c : PcCounter) (s : State), s.power.st = .fullSail ∧ pcCounting s (pcSetOf c) = false) ∧
    (∃ (who : Req) (clr : Bool) (s : State), TablesWf s ∧ Served who CTL_SCH_SNAP s) :=
  ⟨⟨.host, (.core 0), false, up, ⟨by decide, by decide⟩, ⟨by decide, fun _ => ⟨rfl, rfl⟩⟩⟩,
   ⟨.host, (.core 0), up, ⟨by decide, fun _ => ⟨rfl, rfl⟩⟩⟩,
   ⟨(.core 0 0), up, ⟨by decide, by decide⟩⟩,
   ⟨.host, 0, 0, 0#32, up, ⟨by decide, by decide⟩, ⟨by decide, fun _ => ⟨rfl, rfl⟩⟩⟩,
   ⟨.host, 0, 0#32, up, ⟨by decide, by decide⟩, ⟨by decide, fun _ => ⟨rfl, rfl⟩⟩⟩,
   ⟨.host, 0, up, ⟨by decide, by decide⟩, ⟨by decide, fun _ => ⟨rfl, rfl⟩⟩⟩,
   ⟨0, 0#48, 0#16, wrF (CTL_PC_CTRL 0) 3 2 1 ({ up with power := { st := .fullSail }, deck := { sampling := [(0, true)] } }),
    by decide, by decide⟩,
   ⟨0, 0#48, 0#16, { up with power := { st := .fullSail } }, by decide, by decide⟩,
   ⟨0, 0#48, 0,
    wrF (CTL_PC_CTRL 0) 3 2 2 ({ up with power := { st := .fullSail }, deck := { w2 := [((0 : Fin 4).val, none)], running := [((0 : Fin 4).val, some 0)], sampling := [(0, true)] }, ticks := 10 ^ 11 }),
    by decide, by decide, by decide, by decide, by decide⟩,
   ⟨0, 0#48, { up with power := { st := .fullSail } }, by decide, by decide⟩,
   ⟨0, 0, 0, 0, 0, 0#7, { addr := 0#48, thread := 0 },
    { up with power := { st := .fullSail }, deck := { w2 := [((0 : Fin 4).val, some ({ addr := 0#48, thread := 0 } : W2Win))] } },
    by decide, by decide, by decide, by decide⟩,
   ⟨0, 0, 0, 0, 0, 0#7, { addr := 0#48, thread := 0 },
    { up with power := { st := .fullSail }, deck := { w2 := [((0 : Fin 4).val, some ({ addr := 0#48, thread := 0 } : W2Win))], running := [((0 : Fin 4).val, some ({ addr := 0#48, thread := 0 } : W2Win).thread)] } },
    by decide, by decide, by decide, by decide⟩,
   ⟨0, 0, 0, 0, 0, 0#7, { up with power := { st := .fullSail }, deck := { w2 := [((0 : Fin 4).val, none)] } }, by decide,
    by decide⟩,
   ⟨.core 0 0, wrF (CTL_PC_CTRL 0) 0 1 1 ({ up with power := { st := .fullSail } }), by decide, by decide⟩,
   ⟨(.core 0 0), { up with power := { st := .fullSail } }, by decide, by decide⟩,
   ⟨.host, false, up, ⟨by decide, by decide⟩, ⟨by decide, fun _ => ⟨rfl, rfl⟩⟩⟩⟩

theorem test_meets_LedgerCoalesces :
    (∃ (e : LEvent) (a : List LRec) (b : List LRec) (r : LRec) (s : State),
      s.power.st ≠ .furled ∧ s.ledger.buf = a ++ r :: b ∧ ((∀ x ∈ a, coalesces e.src.val e.code.toNat e.key x = false)) ∧
      r.frozen = false ∧ r.src = e.src.val ∧ r.code = e.code.toNat ∧ r.key = e.key ∧ r.rept < 0xFFFFFFFF) ∧
    (∃ (e : LEvent) (s : State),
      s.power.st ≠ .furled ∧ ((∀ x ∈ s.ledger.buf, coalesces e.src.val e.code.toNat e.key x = false)) ∧
      s.ledger.buf.length < 256) :=
  ⟨⟨{ src := 0, code := 0#8, sev := 0, key := 0#32, data := [] }, [], [], {}, { up with ledger := { buf := [{}] } }, by decide,
    by decide, by decide, by decide, by decide, by decide, by decide, by decide⟩,
   ⟨{ src := 0, code := 0#8, sev := 0, key := 0#32, data := [] }, up, by decide, by decide, by decide⟩⟩

theorem test_meets_LedgerSequence :
    (∃ (r : LRec) (s : State), s.ledger.log.length < 98304) ∧
    (∃ (r : LRec) (s : State), 98304 ≤ s.ledger.log.length ∧ logLowest s.ledger.log ≤ r.sev ∧ s.ledger.evRead = []) ∧
    (∃ (epoch : Nat) (seq : Nat) (r : LRec) (s : State),
      r ∈ s.ledger.log ∧ seq < 2 ^ 32 ∧ r.seq < 2 ^ 32 ∧ epoch < 256 ∧ r.epoch < 256 ∧ r.epoch < epoch + 128 ∧
      epoch < r.epoch + 127) :=
  ⟨⟨{  }, up, by decide⟩,
   ⟨{ sev := 7 }, { up with ledger := { evRead := [], log := List.replicate 98304 {} } }, (List.length_replicate).ge,
    logLowest_le _, by decide⟩,
   ⟨0, 0, {  }, { up with ledger := { log := [({  } : LRec)] } }, by decide, by decide, by decide, by decide, by decide,
    by decide, by decide⟩⟩

theorem test_meets_LedgerCommands :
    (∃ (es : List LEvent) (bad : List Nat) (s : State),
      s.power.st ≠ .furled ∧ s.ledger.fail = true ∧ flushDue s = true ∧ s.ledger.clrWait = false) ∧
    (∃ (es : List LEvent) (bad : List Nat) (s : State), s.power.st ≠ .furled ∧ flushDue s = false) ∧
    (∃ (es : List LEvent) (bad : List Nat) (t : Nat) (s : State),
      s.power.st ≠ .furled ∧ s.ledger.flushAt = some t ∧ s.ticks < t + 2500000) ∧
    (∃ (es : List LEvent) (bad : List Nat) (s : State), s.power.st ≠ .furled ∧ flushDue s = true ∧ s.ledger.clrWait = true) ∧
    (∃ (s : State),
      s.power.st ≠ .furled ∧ s.ledger.fail = false ∧ s.ledger.clr ≠ .clearing ∧ s.ledger.buf = [] ∧ s.ledger.dropNote = false ∧
      isPair s = false ∧ flushDue s = true ∧ s.ledger.clrWait = false) ∧
    (∃ (r : LRec) (s : State), s.power.st ≠ .furled ∧ s.ledger.fail = false ∧ s.ledger.clr ≠ .clearing ∧ s.ledger.buf = [r] ∧
      s.ledger.dropNote = false ∧ isPair s = false ∧ flushDue s = true ∧ s.ledger.clrWait = false ∧ s.ledger.log.length < 98304) ∧
    (∃ (who : Req) (s : State), Served who LDG_CTRL s) ∧
    (∃ (k : Fin 256) (d : Int) (c : TrackCfg) (s : State) (u : State),
      s.power.st ≠ .furled ∧ 8 ≤ k.val ∧ tget 0 s.ledger.trackDue k.val ≤ s.ticks ∧
      (s.cfg.tracks.find? (fun p => decide (p.1 = k.val))).map (fun p => p.2) = some c ∧
      u = { s with ledger := { s.ledger with trackDue := tset 0 s.ledger.trackDue k.val (s.ticks + trackPeriod s k.val * 250000000) } }) ∧
    (∃ (k : Fin 256) (d : Int) (s : State), s.power.st ≠ .furled ∧ k.val < 8 ∧ tget 0 s.ledger.trackDue k.val ≤ s.ticks) ∧
    (∃ (k : Fin 256) (d : Int) (s : State), s.power.st ≠ .furled ∧ s.ticks < tget 0 s.ledger.trackDue k.val) ∧
    (∃ (s : State), s.power.st ≠ .furled ∧ s.ledger.fail = false ∧ s.ledger.clr ≠ .clearing ∧
      s.ledger.tracksAt + atLeast 60 (rdF s LDG_CFG 16 16) * 250000000 ≤ s.ticks) ∧
    (∃ (s : State), s.power.st ≠ .furled ∧ s.ticks < s.ledger.tracksAt + atLeast 60 (rdF s LDG_CFG 16 16) * 250000000) ∧
    (∃ (s : State),
      Served .host LDG_CLR_CMD s ∧ s.ledger.fail = false ∧ s.ledger.clr ≠ .clearing ∧ rdF s LDG_CLR_SCOPE 0 4 ≠ 0) ∧
    (∃ (s : State),
      TablesWf s ∧ Served .host LDG_CLR_CMD s ∧ s.ledger.fail = false ∧ s.ledger.clr ≠ .clearing ∧ rdF s LDG_CLR_SCOPE 0 4 = 0) ∧
    (∃ (s : State), Served .host LDG_CLR_CMD s ∧ s.ledger.fail = false ∧ s.ledger.clr = .authorized ∧
      s.ticks < s.ledger.clrAt + 15000000000 ∧ flushSpaced s = true) ∧
    (∃ (s : State), Served .host LDG_CLR_CMD s ∧ s.ledger.fail = false ∧ s.ledger.clr = .authorized ∧
      s.ticks < s.ledger.clrAt + 15000000000 ∧ flushSpaced s = false) ∧
    (∃ (es : List LEvent) (bad : List Nat) (s : State),
      (flushRun es bad (setLedger (fun l => { l with clr := .authorized, clrWait := false }) s)).ledger.fail = false) ∧
    (∃ (s : State), TablesWf s ∧ Served .host LDG_CLR_CMD s ∧ s.ledger.fail = false ∧ s.ledger.clr = .awaitAuth ∧
      s.ticks < s.ledger.clrAt + 15000000000) ∧
    (∃ (s : State), Served .host LDG_CLR_CMD s ∧ (s.ledger.clr = .awaitAuth ∨ s.ledger.clr = .authorized)) ∧
    (∃ (s : State), TablesWf s ∧ s.power.st ≠ .furled ∧ (s.ledger.clr = .awaitAuth ∨ s.ledger.clr = .authorized) ∧
      s.ledger.clrAt + 15000000000 ≤ s.ticks) ∧
    (∃ (s : State),
      s.power.st ≠ .furled ∧ (s.ticks < s.ledger.clrAt + 15000000000 ∨ s.ledger.clr = .idle ∨ s.ledger.clr = .clearing)) ∧
    (∃ (s : State), s.power.st ≠ .furled ∧ s.ledger.clr = .clearing ∧ s.ledger.clrWait = false) ∧
    (∃ (s : State), s.power.st ≠ .furled ∧ (s.ledger.clr ≠ .clearing ∨ s.ledger.clrWait = true)) ∧
    (∃ (x : LastWords) (s : State),
      s.power.st ≠ .furled ∧ s.sentry.lastWords = some x ∧ s.ledger.fail = true ∧ x.lost ≠ s.ledger.recordsLost ∧
      s.ledger.lwAt + 250000000 ≤ s.ticks) ∧
    (∃ (s : State), s.power.st ≠ .furled ∧ (s.sentry.lastWords = none ∨ s.ledger.fail = false)) ∧
    (∃ (s : State), Served .host LDG_CTRL s) ∧
    (∃ (s : State), TablesWf s ∧ Served .host LDG_RD_CMD s ∧ (rdContent (accessed .host s)).flatten = []) ∧
    (∃ (s : State), TablesWf s ∧ Served .host LDG_RD_CMD s ∧ (window s (winIdx .ledger)).ended = false) :=
  ⟨⟨[], [], { up with ledger := { fail := true, clrWait := false }, ticks := 10 ^ 13 }, by decide, by decide, by decide,
    by decide⟩,
   ⟨[], [], up, by decide, by decide⟩,
   ⟨[], [], 0, { up with ledger := { flushAt := some 0 } }, by decide, by decide, by decide⟩,
   ⟨[], [], { up with ledger := { clrWait := true } }, by decide, by decide, by decide⟩,
   ⟨{ up with ledger := { fail := false, buf := [], dropNote := false, clrWait := false }, ticks := 10 ^ 13 }, by decide,
    by decide, by decide, by decide, by decide, by decide, by decide, by decide⟩,
   ⟨{  },
    { up with ledger := { fail := false, buf := [({  } : LRec)], dropNote := false, clrWait := false }, ticks := 10 ^ 13 },
    by decide, by decide, by decide, by decide, by decide, by decide, by decide, by decide, by decide⟩,
   ⟨.host, up, ⟨by decide, fun _ => ⟨rfl, rfl⟩⟩⟩,
   ⟨8, 0, { reg := 0, lo := 0, bits := 0, signed := false, low := 0, high := 0, periodS := 0 },
    { up with cfg := { tracks := [(8, ({ reg := 0, lo := 0, bits := 0, signed := false, low := 0, high := 0, periodS := 0 } : TrackCfg))] } },
    { ({ up with cfg := { tracks := [(8, ({ reg := 0, lo := 0, bits := 0, signed := false, low := 0, high := 0, periodS := 0 } : TrackCfg))] } }) with ledger := { ({ up with cfg := { tracks := [(8, ({ reg := 0, lo := 0, bits := 0, signed := false, low := 0, high := 0, periodS := 0 } : TrackCfg))] } }).ledger with trackDue := tset 0 ({ up with cfg := { tracks := [(8, ({ reg := 0, lo := 0, bits := 0, signed := false, low := 0, high := 0, periodS := 0 } : TrackCfg))] } }).ledger.trackDue (8 : Fin 256).val (({ up with cfg := { tracks := [(8, ({ reg := 0, lo := 0, bits := 0, signed := false, low := 0, high := 0, periodS := 0 } : TrackCfg))] } }).ticks + trackPeriod ({ up with cfg := { tracks := [(8, ({ reg := 0, lo := 0, bits := 0, signed := false, low := 0, high := 0, periodS := 0 } : TrackCfg))] } }) (8 : Fin 256).val * 250000000) } },
    by decide, by decide, by decide, by decide, by decide⟩,
   ⟨0, 0, up, by decide, by decide, by decide⟩,
   ⟨0, 0, { up with ledger := { trackDue := [(0, 1)] } }, by decide, by decide⟩,
   ⟨{ up with ledger := { fail := false }, ticks := 10 ^ 15 }, by decide, by decide, by decide, by decide⟩,
   ⟨up, by decide, by decide⟩,
   ⟨wrF LDG_CLR_SCOPE 0 4 1 ({ up with ledger := { fail := false } }), ⟨by decide, fun _ => ⟨rfl, rfl⟩⟩, by decide, by decide,
    by decide⟩,
   ⟨wrF LDG_CLR_SCOPE 0 4 0 ({ up with ledger := { fail := false } }), ⟨by decide, by decide⟩,
    ⟨by decide, fun _ => ⟨rfl, rfl⟩⟩, by decide, by decide, by decide⟩,
   ⟨{ up with ledger := { fail := false, clr := .authorized } }, ⟨by decide, fun _ => ⟨rfl, rfl⟩⟩, by decide, by decide,
    by decide, by decide⟩,
   ⟨{ up with ledger := { fail := false, clr := .authorized, flushAt := some 0 } }, ⟨by decide, fun _ => ⟨rfl, rfl⟩⟩,
    by decide, by decide, by decide, by decide⟩,
   ⟨[], [], up, by decide⟩,
   ⟨{ up with ledger := { fail := false, clr := .awaitAuth } }, ⟨by decide, by decide⟩, ⟨by decide, fun _ => ⟨rfl, rfl⟩⟩,
    by decide, by decide, by decide⟩,
   ⟨{ up with ledger := { clr := .awaitAuth } }, ⟨by decide, fun _ => ⟨rfl, rfl⟩⟩, by decide⟩,
   ⟨{ up with ledger := { clr := .authorized }, ticks := 10 ^ 11 }, ⟨by decide, by decide⟩, by decide, by decide, by decide⟩,
   ⟨up, by decide, by decide⟩,
   ⟨{ up with ledger := { clr := .clearing, clrWait := false } }, by decide, by decide, by decide⟩,
   ⟨up, by decide, by decide⟩,
   ⟨{ reason := 0, ofs := 0, seq := 0, epoch := 0, sec := 0, opHours := 0, pwrCycles := 0, drops := [], lost := 1, tick := 0 },
    { up with sentry := { lastWords := some ({ reason := 0, ofs := 0, seq := 0, epoch := 0, sec := 0, opHours := 0, pwrCycles := 0, drops := [], lost := 1, tick := 0 } : LastWords) }, ledger := { fail := true }, ticks := 10 ^ 11 },
    by decide, by decide, by decide, by decide, by decide⟩,
   ⟨{ up with sentry := { lastWords := none } }, by decide, by decide⟩,
   ⟨up, ⟨by decide, fun _ => ⟨rfl, rfl⟩⟩⟩,
   ⟨up, ⟨by decide, by decide⟩, ⟨by decide, fun _ => ⟨rfl, rfl⟩⟩, by decide⟩,
   ⟨{ up with host := { windows := [((winIdx .ledger), { ended := false })] } }, ⟨by decide, by decide⟩,
    ⟨by decide, fun _ => ⟨rfl, rfl⟩⟩, by decide⟩⟩

theorem test_meets_CalendarFields :
    (∃ (s : State),
      s.sentry.dead = false ∧ s.sentry.latchPend = false ∧ s.sentry.commit = false ∧ (s.sentry.tick + 1) % 2 ^ 48 % 2 ^ 15 = 0) ∧
    (∃ (s : State),
      s.sentry.dead = false ∧ s.sentry.latchPend = false ∧ s.sentry.commit = true ∧ (s.sentry.tick + 1) % 2 ^ 48 % 2 ^ 15 = 0) ∧
    (∃ (s : State), TablesWf s ∧ s.sentry.latchPend = true) :=
  ⟨⟨{ up with sentry := { dead := false, latchPend := false, commit := false, tick := 32767 } }, by decide, by decide,
    by decide, by decide⟩,
   ⟨{ up with sentry := { dead := false, latchPend := false, commit := true, tick := 32767 } }, by decide, by decide,
    by decide, by decide⟩,
   ⟨{ up with sentry := { latchPend := true } }, ⟨by decide, by decide⟩, by decide⟩⟩

theorem test_meets_CalendarDates :
    (∃ (d : Word), field d 0 5 < monthLen (field d 16 8) (field d 8 4)) ∧
    (∃ (d : Word), monthLen (field d 16 8) (field d 8 4) ≤ field d 0 5 ∧ field d 8 4 < 12) ∧
    (∃ (d : Word), monthLen (field d 16 8) (field d 8 4) ≤ field d 0 5 ∧ 12 ≤ field d 8 4 ∧ field d 16 8 < 199) ∧
    (∃ (d : Word), monthLen (field d 16 8) (field d 8 4) ≤ field d 0 5 ∧ 12 ≤ field d 8 4 ∧ 199 ≤ field d 16 8) ∧
    (∃ (s : State), TablesWf s ∧ (timeNext s.sentry.legTime).2 = true ∧ (dateNext s.sentry.legDate).2 = true) :=
  ⟨⟨0#32, by decide⟩,
   ⟨0x0000011F#32, by decide, by decide⟩,
   ⟨0x00000C1F#32, by decide, by decide, by decide⟩,
   ⟨0x00C70C1F#32, by decide, by decide, by decide⟩,
   ⟨{ up with sentry := { legTime := 0x00173B3B#32, legDate := 0x00C70C1F#32 } }, ⟨by decide, by decide⟩, by decide, by decide⟩⟩

theorem test_meets_CalendarCommands :
    (∃ (who : Req) (s : State), Served who CAL_REF_CMD s) ∧
    (∃ (who : Req) (s : State), Served who CAL_COMMIT s ∧ rdB s CAL_CFG 0 = true ∧ s.sentry.commit = false) ∧
    (∃ (s : State), Served .host CAL_COMMIT s ∧ rdB s CAL_CFG 0 = true ∧ s.sentry.commit = true) ∧
    (∃ (who : Req) (s : State), Served who CAL_COMMIT s ∧ rdB s CAL_CFG 0 = false) ∧
    (∃ (who : Req) (k : Fin 3) (s : State),
      Served who (CAL_TICK_LO + 4 * k.val) s ∧ tget none s.sentry.freeze (reqIdx who) = none ∧
      tget false s.sentry.torn (reqIdx who) = false) ∧
    (∃ (who : Req) (k : Fin 3) (x : Nat × List Word) (s : State),
      Served who (CAL_TICK_LO + 4 * k.val) s ∧ tget none s.sentry.freeze (reqIdx who) = some x) ∧
    (∃ (who : Req) (s : State), Served who CAL_TICK_HI s) ∧
    (∃ (who : Req) (x : Nat × List Word) (s : State),
      tget none s.sentry.freeze (reqIdx who) = some x ∧ x.1 + 250000 ≤ s.ticks) ∧
    (∃ (who : Req) (x : Nat × List Word) (s : State),
      tget none s.sentry.freeze (reqIdx who) = some x ∧ s.ticks < x.1 + 250000) ∧
    (∃ (who : Req) (k : Fin 3) (s : State),
      Served who (CAL_TICK_LO + 4 * k.val) s ∧ tget none s.sentry.freeze (reqIdx who) = none ∧
      tget false s.sentry.torn (reqIdx who) = true) ∧
    (∃ (s : State),
      TablesWf s ∧ s.sentry.onVbat = false ∧ s.sentry.dead = false ∧ rdB s CAL_STATUS 4 = false ∧ s.power.vin < 10000) ∧
    (∃ (s : State),
      TablesWf s ∧ s.sentry.onVbat = false ∧ s.sentry.dead = false ∧ rdB s CAL_STATUS 4 = true ∧ s.power.vin < 10000) ∧
    (∃ (s : State), (s.sentry.onVbat = true ∨ s.sentry.dead = true ∨ 10000 ≤ s.power.vin)) ∧
    (∃ (s : State), TablesWf s ∧ s.power.st = .furled ∧ s.sentry.onVbat = true ∧ s.sentry.dead = false) ∧
    (∃ (s : State), (s.power.st ≠ .furled ∨ s.sentry.onVbat = false ∨ s.sentry.dead = true)) :=
  ⟨⟨.host, up, ⟨by decide, fun _ => ⟨rfl, rfl⟩⟩⟩,
   ⟨.host, wrF CAL_CFG 0 1 1 ({ up with sentry := { commit := false } }), ⟨by decide, fun _ => ⟨rfl, rfl⟩⟩, by decide, by decide⟩,
   ⟨wrF CAL_CFG 0 1 1 ({ up with sentry := { commit := true } }), ⟨by decide, fun _ => ⟨rfl, rfl⟩⟩, by decide, by decide⟩,
   ⟨.host, up, ⟨by decide, fun _ => ⟨rfl, rfl⟩⟩, by decide⟩,
   ⟨.host, 0, { up with sentry := { freeze := [((reqIdx (.host : Req)), none)], torn := [((reqIdx (.host : Req)), false)] } },
    ⟨by decide, fun _ => ⟨rfl, rfl⟩⟩, by decide, by decide⟩,
   ⟨.host, 0, (0, []), { up with sentry := { freeze := [((reqIdx (.host : Req)), some (0, []))] } },
    ⟨by decide, fun _ => ⟨rfl, rfl⟩⟩, by decide⟩,
   ⟨.host, up, ⟨by decide, fun _ => ⟨rfl, rfl⟩⟩⟩,
   ⟨.host, (0, []), { up with sentry := { freeze := [((reqIdx (.host : Req)), some (0, []))] }, ticks := 10 ^ 6 }, by decide,
    by decide⟩,
   ⟨.host, (0, []), { up with sentry := { freeze := [((reqIdx (.host : Req)), some (0, []))] } }, by decide, by decide⟩,
   ⟨.host, 0, { up with sentry := { freeze := [((reqIdx (.host : Req)), none)], torn := [((reqIdx (.host : Req)), true)] } },
    ⟨by decide, fun _ => ⟨rfl, rfl⟩⟩, by decide, by decide⟩,
   ⟨{ up with sentry := { onVbat := false, dead := false } }, ⟨by decide, by decide⟩, by decide, by decide, by decide, by decide⟩,
   ⟨wrF CAL_STATUS 4 1 1 ({ up with sentry := { onVbat := false, dead := false } }), ⟨by decide, by decide⟩, by decide,
    by decide, by decide, by decide⟩,
   ⟨{ up with sentry := { onVbat := true } }, by decide⟩,
   ⟨{ up with power := { st := .furled }, sentry := { onVbat := true, dead := false } }, ⟨by decide, by decide⟩, by decide,
    by decide, by decide⟩,
   ⟨up, by decide⟩⟩

theorem test_meets_TillCommands :
    (∃ (who : Req) (a : Bool) (b : Bool) (c : Instr) (code : Nat) (more : Bool) (cert : Bool) (ok : Bool) (s : State),
      (c, code, more, cert, ok) ∈ [(Instr.derive who, 0x01, false, false, true), (.generate who a, 0x02, false, false, a), (.unwrap who a, 0x03, false, false, a), (.wrap who, 0x04, false, false, true), (.destroy who, 0x05, false, false, true), (.encrypt who a, 0x06, a, false, true), (.decrypt who a b, 0x07, a, false, b), (.hmac who a, 0x08, a, false, true), (.sign who, 0x09, false, false, true), (.verify who a, 0x0A, false, false, a), (.ecdh who, 0x0B, false, false, true), (.hash who a, 0x0C, a, false, true), (.random who, 0x0D, false, false, true), (.pubkey who, 0x0E, false, false, true), (.attest who, 0x0F, false, false, true), (.gkMap who, 0x10, false, false, true), (.gkUnmap who, 0x11, false, false, true), (.authReq who, 0x12, false, false, true), (.auth who a, 0x13, false, false, a), (.zeroize who, 0x14, false, false, true), (.enrol who a b, 0x15, false, a, b), (.calEnrol who, 0x16, false, false, true), (.purge who, 0x17, false, false, true)] ∧
      Served who (tillBase (tillIface who)) s ∧ s.till.running = none ∧ s.till.queue = []) ∧
    (∃ (a : Bool) (b : Bool) (c : Instr) (code : Nat) (more : Bool) (cert : Bool) (ok : Bool) (s : State),
      (c, code, more, cert, ok) ∈ [(Instr.derive .host, 0x01, false, false, true), (.generate .host a, 0x02, false, false, a), (.unwrap .host a, 0x03, false, false, a), (.wrap .host, 0x04, false, false, true), (.destroy .host, 0x05, false, false, true), (.encrypt .host a, 0x06, a, false, true), (.decrypt .host a b, 0x07, a, false, b), (.hmac .host a, 0x08, a, false, true), (.sign .host, 0x09, false, false, true), (.verify .host a, 0x0A, false, false, a), (.ecdh .host, 0x0B, false, false, true), (.hash .host a, 0x0C, a, false, true), (.random .host, 0x0D, false, false, true), (.pubkey .host, 0x0E, false, false, true), (.attest .host, 0x0F, false, false, true), (.gkMap .host, 0x10, false, false, true), (.gkUnmap .host, 0x11, false, false, true), (.authReq .host, 0x12, false, false, true), (.auth .host a, 0x13, false, false, a), (.zeroize .host, 0x14, false, false, true), (.enrol .host a b, 0x15, false, a, b), (.calEnrol .host, 0x16, false, false, true), (.purge .host, 0x17, false, false, true)] ∧
      Served .host (tillBase 0) s ∧ tillBusy s 0 = true) :=
  ⟨⟨.host, false, false, (Instr.derive .host), 0x01, false, false, true, { up with till := { running := none, queue := [] } },
    by decide, ⟨by decide, fun _ => ⟨rfl, rfl⟩⟩, by decide, by decide⟩,
   ⟨false, false, (Instr.derive .host), 0x01, false, false, true,
    { up with till := { queue := [{ iface := 0, code := 0, args := [], mbox := [] }] } }, by decide,
    ⟨by decide, fun _ => ⟨rfl, rfl⟩⟩, by decide⟩⟩

theorem test_meets_TillResults :
    (∃ (r : TillReq) (s : State), s.till.st = .tampered) ∧
    (∃ (r : TillReq) (s : State), s.till.st = .sealed ∧ r.code ≠ 0x12 ∧ r.code ≠ 0x13 ∧ r.code ≠ 0x15 ∧ r.code ≠ 0x16) ∧
    (∃ (r : TillReq) (o : TillOpen) (s : State),
      s.till.st = .ready ∧ tget none s.till.opened r.iface = some o ∧ o.code ≠ r.code) ∧
    (∃ (r : TillReq) (s : State), s.till.st = .ready ∧ codeClash s r = false) ∧
    (∃ (r : TillReq) (s : State),
      r.code = 0x05 ∧ argA r ≤ 1023 ∧ ((slotOf s (argA r)).st = .valid ∨ (slotOf s (argA r)).st = .orphan)) ∧
    (∃ (r : TillReq) (s : State), r.code = 0x01 ∧ parentStatus s (argA r) 6 = 0 ∧ 2 < childLevel s (argA r)) ∧
    (∃ (r : TillReq) (s : State), r.code = 0x02 ∧ parentStatus s (argA r) 8 = 0 ∧ r.ok = true ∧ 2 < childLevel s (argA r)) ∧
    (∃ (r : TillReq) (n : Nat) (s : State),
      r.code = 0x01 ∧ parentStatus s (argA r) 6 = 0 ∧ childLevel s (argA r) ≤ 2 ∧ fieldN (arg r 2) 0 4 ≤ 4 ∧
      (arg r 2).testBit 13 = false ∧ pickSlot? s = some n) ∧
    (∃ (p : Nat) (l : Nat) (lb : Nat) (a : Nat) (fin : Nat) (key : Nat) (n : Nat) (s : State),
      l ≤ 2 ∧ fieldN a 0 4 ≤ 4 ∧ ((a.testBit 13 = true → s.till.cache.length < 64)) ∧ pickSlot? s = some n) ∧
    (∃ (p : Nat) (l : Nat) (lb : Nat) (a : Nat) (fin : Nat) (key : Nat) (s : State),
      l ≤ 2 ∧ fieldN a 0 4 ≤ 4 ∧ pickSlot? s = none) ∧
    (∃ (r : TillReq) (s : State), r.code = 0x02 ∧ parentStatus s (argA r) 8 = 0 ∧ ((fieldN (arg r 2) 0 4 = 2 → r.ok = true))) ∧
    (∃ (r : TillReq) (s : State),
      r.code = 0x03 ∧ useStatus s (argA r) 3 [0, 1, 2, 3, 4] = 0 ∧ childLevel s (argA r) ≤ 2 ∧ r.ok = true) ∧
    (∃ (r : TillReq) (s : State), r.code = 0x04 ∧ slotStatus s (argA r) = 0 ∧ useStatus s (argB r) 2 [0, 1, 2, 3, 4] = 0 ∧
      (slotOf s (argA r)).exportable = true ∧ slotExpired s (slotOf s (argA r)) = false) ∧
    (∃ (c : Nat) (u : Nat) (t : List Nat) (r : TillReq) (s : State),
      (c, u, t) ∈ [(0x06, 0, [0]), (0x07, 1, [0]), (0x08, 4, [1])] ∧ r.code = c ∧
      useStatus s (fieldN ((chunkArgs s r).getD 0 0) 0 11) u t = 0 ∧ chunkBad s r = false ∧ ((c = 0x07 → r.ok = true))) ∧
    (∃ (r : TillReq) (s : State), r.code = 0x0C ∧ chunkBad s r = false) ∧
    (∃ (r : TillReq) (s : State),
      r.code = 0x07 ∧ useStatus s (fieldN ((chunkArgs s r).getD 0 0) 0 11) 1 [0] = 0 ∧ chunkBad s r = false ∧ r.more = false ∧
      r.ok = false) ∧
    (∃ (r : TillReq) (s : State), r.code = 0x09 ∧ useStatus s (argA r) 5 [2] = 0) ∧
    (∃ (r : TillReq) (s : State), r.code = 0x0B ∧ useStatus s (argA r) 7 [3] = 0) ∧
    (∃ (r : TillReq) (s : State), r.code = 0x0E ∧ useStatus s (argA r) 8 [2] = 0) ∧
    (∃ (r : TillReq) (s : State), r.code = 0x0F ∧ slotStatus s 0 = 0) ∧
    (∃ (r : TillReq) (s : State), r.code = 0x10 ∧ fieldN (fromLe ((r.mbox.drop 4).take 4)) 16 2 ≠ 3 ∧ arg r 1 ≤ 255 ∧
      useStatus s (fieldN (fromLe ((r.mbox.drop 4).take 4)) 21 10) 8 [1] = 0) ∧
    (∃ (r : TillReq) (s : State), r.code = 0x11 ∧ arg r 1 ≤ 255) ∧
    (∃ (r : TillReq) (s : State), r.code = 0x17) ∧
    (∃ (r : TillReq) (s : State), r.code = 0x04 ∧ slotStatus s (argA r) = 0 ∧ useStatus s (argB r) 2 [0, 1, 2, 3, 4] = 0 ∧
      (slotOf s (argA r)).exportable = false) ∧
    (∃ (r : TillReq) (s : State),
      r.code = 0x03 ∧ useStatus s (argA r) 3 [0, 1, 2, 3, 4] = 0 ∧ childLevel s (argA r) ≤ 2 ∧ r.ok = false) ∧
    (∃ (r : TillReq) (s : State), r.code = 0x0A ∧ useStatus s (argA r) 8 [2] = 0) ∧
    (∃ (r : TillReq) (s : State), r.code = 0x0D) ∧
    (∃ (r : TillReq) (s : State), r.code = 0x14 ∧ authorized s 1 = false) ∧
    (∃ (r : TillReq) (s : State), r.code = 0x14 ∧ authorized s 1 = true) ∧
    (∃ (r : TillReq) (s : State), r.code = 0x15 ∧ s.boot.mode = .normal) ∧
    (∃ (r : TillReq) (s : State), r.code = 0x15 ∧ s.boot.mode ≠ .normal ∧ r.cert = false ∧ authorized s 2 = true) ∧
    (∃ (r : TillReq) (s : State),
      r.code = 0x15 ∧ s.boot.mode ≠ .normal ∧ r.cert = true ∧ s.till.enrolled = true ∧ r.ok = true) ∧
    (∃ (r : TillReq) (s : State), r.code = 0x16 ∧ s.boot.mode ≠ .recovery) ∧
    (∃ (r : TillReq) (s : State), r.code = 0x16 ∧ s.boot.mode = .recovery ∧ authorized s 3 = true) ∧
    (∃ (r : TillReq) (s : State), r.code = 0x12 ∧ 1 ≤ arg r 2 ∧ arg r 2 ≤ 3) ∧
    (∃ (r : TillReq) (s : State), r.code = 0x13 ∧ arg r 2 ≤ 3 ∧ requestLive s (arg r 2) = false) ∧
    (∃ (r : TillReq) (s : State),
      r.code = 0x13 ∧ arg r 2 ≤ 3 ∧ requestLive s (arg r 2) = true ∧ arg r 1 ∈ countedHolders s (arg r 2)) ∧
    (∃ (r : TillReq) (s : State),
      r.code = 0x13 ∧ arg r 2 ≤ 3 ∧ requestLive s (arg r 2) = true ∧ r.ok = true ∧ lacksRole s (arg r 2) (arg r 1) = false ∧
      arg r 1 ∉ countedHolders s (arg r 2)) :=
  ⟨⟨{ iface := 0, code := 0, args := [], mbox := [] }, { up with till := { st := .tampered } }, by decide⟩,
   ⟨{ iface := 0, code := 0, args := [], mbox := [] }, { up with till := { st := .sealed } }, by decide, by decide, by decide,
    by decide, by decide⟩,
   ⟨{ iface := 0, code := 0, args := [], mbox := [] }, { code := 1, args := [], data := [] },
    { up with till := { st := .ready, opened := [(({ iface := 0, code := 0, args := [], mbox := [] } : TillReq).iface, some ({ code := 1, args := [], data := [] } : TillOpen))] } },
    by decide, by decide, by decide⟩,
   ⟨{ iface := 0, code := 0, args := [], mbox := [] }, { up with till := { st := .ready } }, by decide, by decide⟩,
   ⟨{ iface := 0, code := 0x05, args := [], mbox := [] }, { up with till := { slots := [(0, { st := .valid })] } }, by decide,
    by decide, by decide⟩,
   ⟨{ iface := 0, code := 0x01, args := [], mbox := [] },
    { up with till := { slots := [(0, { st := .valid, usage := 255, level := 2 })] } }, by decide, by decide, by decide⟩,
   ⟨{ iface := 0, code := 0x02, args := [], mbox := [], ok := true },
    { up with till := { slots := [(0, { st := .valid, usage := 511, level := 2 })] } }, by decide, by decide, by decide,
    by decide⟩,
   (by obtain ⟨n, h⟩ := pickSlot_some slotUp 1023 (by decide) (by decide); exact ⟨{ iface := 0, code := 1, args := [], mbox := [] }, n, slotUp, by decide, by decide, by decide, by decide, by decide, h⟩),
   (by obtain ⟨n, h⟩ := pickSlot_some slotUp 1023 (by decide) (by decide); exact ⟨0, 0, 0, 0, 0, 0, n, slotUp, by decide, by decide, by decide, h⟩),
   ⟨0, 0, 0, 0, 0, 0, _, by decide, by decide, slotsFull_none⟩,
   ⟨{ iface := 0, code := 2, args := [], mbox := [] },
    { up with till := { slots := [(0, { st := .valid, usage := 511, exportable := true })] } }, by decide, by decide, by decide⟩,
   ⟨{ iface := 0, code := 3, args := [], mbox := [] },
    { up with till := { slots := [(0, { st := .valid, usage := 511, exportable := true })] } }, by decide, by decide,
    by decide, by decide⟩,
   ⟨{ iface := 0, code := 4, args := [], mbox := [] },
    { up with till := { slots := [(0, { st := .valid, usage := 511, exportable := true })] } }, by decide, by decide,
    by decide, by decide, by decide⟩,
   ⟨6, 0, [0], { iface := 0, code := 6, args := [], mbox := [] },
    { up with till := { slots := [(0, { st := .valid, usage := 511, exportable := true })] } }, by decide, by decide,
    by decide, by decide, by decide⟩,
   ⟨{ iface := 0, code := 0x0C, args := [], mbox := [] }, up, by decide, by decide⟩,
   ⟨{ iface := 0, code := 7, args := [], mbox := [], ok := false },
    { up with till := { slots := [(0, { st := .valid, usage := 511, exportable := true })] } }, by decide, by decide,
    by decide, by decide, by decide⟩,
   ⟨{ iface := 0, code := 9, args := [], mbox := [] },
    { up with till := { slots := [(0, { st := .valid, usage := 511, exportable := true, typ := 2 })] } }, by decide, by decide⟩,
   ⟨{ iface := 0, code := 0xB, args := [], mbox := [] },
    { up with till := { slots := [(0, { st := .valid, usage := 511, exportable := true, typ := 3 })] } }, by decide, by decide⟩,
   ⟨{ iface := 0, code := 0xE, args := [], mbox := [] },
    { up with till := { slots := [(0, { st := .valid, usage := 511, exportable := true, typ := 2 })] } }, by decide, by decide⟩,
   ⟨{ iface := 0, code := 0xF, args := [], mbox := [] },
    { up with till := { slots := [(0, { st := .valid, usage := 511, exportable := true })] } }, by decide, by decide⟩,
   ⟨{ iface := 0, code := 0x10, args := [], mbox := [] },
    { up with till := { slots := [(0, { st := .valid, usage := 511, exportable := true, typ := 1 })] } }, by decide, by decide,
    by decide, by decide⟩,
   ⟨{ iface := 0, code := 0x11, args := [], mbox := [] }, up, by decide, by decide⟩,
   ⟨{ iface := 0, code := 0x17, args := [], mbox := [] }, up, by decide⟩,
   ⟨{ iface := 0, code := 0x04, args := [], mbox := [] },
    { up with till := { slots := [(0, { st := .valid, usage := 255 })] } }, by decide, by decide, by decide, by decide⟩,
   ⟨{ iface := 0, code := 0x03, args := [], mbox := [], ok := false },
    { up with till := { slots := [(0, { st := .valid, usage := 255 })] } }, by decide, by decide, by decide, by decide⟩,
   ⟨{ iface := 0, code := 0x0A, args := [], mbox := [] },
    { up with till := { slots := [(0, { st := .valid, usage := 255, typ := 2 })] } }, by decide, by decide⟩,
   ⟨{ iface := 0, code := 0x0D, args := [], mbox := [] }, up, by decide⟩,
   ⟨{ iface := 0, code := 0x14, args := [], mbox := [] }, up, by decide, by decide⟩,
   ⟨{ iface := 0, code := 0x14, args := [], mbox := [] },
    { up with till := { auths := [(1, some { nonce := 0, complete := true })] } }, by decide, by decide⟩,
   ⟨{ iface := 0, code := 0x15, args := [], mbox := [] }, { up with boot := { up.boot with mode := .normal } }, by decide,
    by decide⟩,
   ⟨{ iface := 0, code := 0x15, args := [], mbox := [], cert := false },
    { up with boot := { up.boot with mode := .recovery }, till := { auths := [(2, some { nonce := 0, complete := true })] } },
    by decide, by decide, by decide, by decide⟩,
   ⟨{ iface := 0, code := 0x15, cert := true, args := [], mbox := [] },
    { up with till := { enrolled := true }, boot := { up.boot with mode := .recovery } }, by decide, by decide, by decide,
    by decide, by decide⟩,
   ⟨{ iface := 0, code := 0x16, args := [], mbox := [] }, up, by decide, by decide⟩,
   ⟨{ iface := 0, code := 0x16, args := [], mbox := [] },
    { up with boot := { up.boot with mode := .recovery }, till := { auths := [(3, some { nonce := 0, complete := true })] } },
    by decide, by decide, by decide⟩,
   ⟨{ iface := 0, code := 0x12, args := [0, 0, 1], mbox := [] }, up, by decide, by decide, by decide⟩,
   ⟨{ iface := 0, code := 0x13, args := [], mbox := [] }, up, by decide, by decide, by decide⟩,
   ⟨{ iface := 0, code := 0x13, args := [0, 0, 1], mbox := [] },
    { up with till := { auths := [(1, some { nonce := 0, holders := [0] })] } }, by decide, by decide, by decide, by decide⟩,
   ⟨{ iface := 0, code := 0x13, args := [0, 0, 1], mbox := [] },
    { up with till := { auths := [(1, some { nonce := 0 })] }, cfg := { holders := [{ ident := 0, roles := 2 }] } }, by decide,
    by decide, by decide, by decide, by decide, by decide⟩⟩

theorem test_meets_TillEvents :
    (∃ (r : TillReq) (o : TillOut) (s : State),
      TablesWf s ∧ s.power.st ≠ .furled ∧ s.till.running = some (r, o) ∧ s.till.queue = [] ∧ r.iface = 0 ∧ o.eff = .none) ∧
    (∃ (r : TillReq) (o : TillOut) (s : State), s.power.st ≠ .furled ∧ s.till.running = some (r, o) ∧ endsInRestart s = false) ∧
    (∃ (r : TillReq) (o : TillOut) (bs : List Nat) (s : State),
      s.power.st ≠ .furled ∧ s.till.running = some (r, o) ∧ o.eff = .cert bs) ∧
    (∃ (s : State), s.till.running = none ∧ s.till.queue = []) ∧
    (∃ (n : Nat) (x : TillSlot) (s : State), twf ({} : TillSlot) s.till.slots = true) ∧
    (∃ (n op : Nat) (a : AuthReq) (s : State), authReq s op = some a ∧ op ≠ 0) ∧
    (∃ (deck : Bool) (o : TillOpen) (s : State),
      s.power.st ≠ .furled ∧ openOp s (b2n deck) = some o ∧ o.since + 250000000 ≤ s.ticks) ∧
    (∃ (deck : Bool) (s : State), opOver s (b2n deck) = false) ∧
    (∃ (n : Fin 1024) (s : State),
      s.power.st ≠ .furled ∧ (slotOf s n.val).st = .valid ∧ (slotOf s n.val).fin ≠ 0 ∧ (slotOf s n.val).fin ≤ taiSec s % 2 ^ 32) ∧
    (∃ (n : Fin 1024) (s : State), s.power.st ≠ .furled ∧ (slotOf s n.val).fin = 0) ∧
    (∃ (op : Fin 4) (a : AuthReq) (s : State),
      s.power.st ≠ .furled ∧ op.val ≠ 0 ∧ authReq s op.val = some a ∧ a.since + 15000000000 ≤ s.ticks) ∧
    (∃ (op : Fin 4) (s : State), (op.val = 0 ∨ authOver s op.val = false)) ∧
    (∃ (i : Fin 256) (e : GkEntry) (s : State),
      TablesWf s ∧ s.power.st ≠ .furled ∧ tget none s.till.gk i.val = some e ∧ gkUsable s e = true ∧
      e.fin ≤ taiSec s % 2 ^ 32 + 300 ∧ ((∀ x ∈ gkMapped s, x.group = e.group → x.fin ≤ e.fin))) ∧
    (∃ (i : Fin 256) (s : State), s.power.st ≠ .furled ∧ tget none s.till.gk i.val = none) ∧
    (∃ (src : BitVec 6) (s : State),
      s.power.st ≠ .furled ∧ s.sentry.dead = false ∧ src.toNat &&& 0b11111 ≠ 0 ∧ s.boot.phase = .running ∧ s.till.queue = []) ∧
    (∃ (src : BitVec 6) (s : State), s.power.st = .furled ∧ s.sentry.dead = false ∧ src.toNat &&& 0b01011 ≠ 0) ∧
    (∃ (who : Req) (n : BitVec 10) (i : Nat) (s : State), TablesWf s ∧ Served who TIL_SLOT_IDX s ∧ i < 4) ∧
    (∃ (who : Req) (n : BitVec 8) (i : Nat) (s : State), TablesWf s ∧ Served who TIL_GK_IDX s ∧ i < 4) :=
  ⟨⟨{ iface := 0, code := 0, args := [], mbox := [] }, { status := 0, eff := .none },
    { up with till := { running := some (({ iface := 0, code := 0, args := [], mbox := [] } : TillReq), ({ status := 0, eff := .none } : TillOut)), queue := [] } },
    ⟨by decide, by decide⟩, by decide, by decide, by decide, by decide, by decide⟩,
   ⟨{ iface := 0, code := 0, args := [], mbox := [] }, { status := 0 },
    { up with till := { running := some (({ iface := 0, code := 0, args := [], mbox := [] } : TillReq), ({ status := 0 } : TillOut)) } },
    by decide, by decide, by decide⟩,
   ⟨{ iface := 0, code := 0, args := [], mbox := [] }, { status := 0, eff := .cert [] }, [],
    { up with till := { running := some (({ iface := 0, code := 0, args := [], mbox := [] } : TillReq), ({ status := 0, eff := .cert [] } : TillOut)) } },
    by decide, by decide, by decide⟩,
   ⟨{ up with till := { running := none, queue := [] } }, by decide, by decide⟩,
   ⟨0, {  }, up, by decide⟩,
   ⟨0, 1, { nonce := 0 }, { up with till := { auths := [(1, some { nonce := 0 })] } }, by decide, by decide⟩,
   ⟨false, { code := 0, args := [], data := [] },
    { up with till := { opened := [(0, some ({ code := 0, args := [], data := [] } : TillOpen))] }, ticks := 250000000 },
    by decide, by decide, by decide⟩,
   ⟨false, up, by decide⟩,
   ⟨0, { up with till := { slots := [(0, { st := .valid, fin := 1 })] }, tai := 2 ^ 100 }, by decide, by decide, by decide,
    by decide⟩,
   ⟨0, up, by decide, by decide⟩,
   ⟨1, { nonce := 0 }, { up with till := { auths := [(1, some ({ nonce := 0 } : AuthReq))] }, ticks := 15000000000 },
    by decide, by decide, by decide, by decide⟩,
   ⟨0, up, by decide⟩,
   ⟨0, { keyId := 0, group := 0, tagLen := 0, slot := 0, start := 0, fin := 1 },
    { up with till := { gk := [((0 : Fin 256).val, some ({ keyId := 0, group := 0, tagLen := 0, slot := 0, start := 0, fin := 1 } : GkEntry))], slots := [(0, { st := .valid })] } },
    ⟨by decide, by decide⟩, by decide, by decide, by decide, by decide, by decide⟩,
   ⟨0, { up with till := { gk := [((0 : Fin 256).val, none)] } }, by decide, by decide⟩,
   ⟨1#6, { up with sentry := { dead := false }, boot := { up.boot with phase := .running }, till := { queue := [] } },
    by decide, by decide, by decide, by decide, by decide⟩,
   ⟨1#6, { up with power := { st := .furled }, sentry := { dead := false } }, by decide, by decide, by decide⟩,
   ⟨.host, 0#10, 0, up, ⟨by decide, by decide⟩, ⟨by decide, fun _ => ⟨rfl, rfl⟩⟩, by decide⟩,
   ⟨.host, 0#8, 0, up, ⟨by decide, by decide⟩, ⟨by decide, fun _ => ⟨rfl, rfl⟩⟩, by decide⟩⟩

theorem test_meets_PairLease :
    (∃ (who : Req) (v : Word) (s : State), TablesWf s ∧ Served who SHR_LEASE_DL s ∧
      ((2 ^ 31 ≤ (v.toNat + 2 ^ 32 - s.pair.mono % 2 ^ 32) % 2 ^ 32 ∨ (v.toNat + 2 ^ 32 - s.pair.mono % 2 ^ 32) % 2 ^ 32 ≤ 300000))) ∧
    (∃ (who : Req) (v : Word) (s : State),
      TablesWf s ∧ Served who SHR_LEASE_DL s ∧ (v.toNat + 2 ^ 32 - s.pair.mono % 2 ^ 32) % 2 ^ 32 < 2 ^ 31 ∧
      300000 < (v.toNat + 2 ^ 32 - s.pair.mono % 2 ^ 32) % 2 ^ 32) ∧
    (∃ (who : Req) (s : State), Served who SHR_LEASE_CTRL s ∧ s.pair.role = .active) ∧
    (∃ (who : Req) (s : State), Served who SHR_LEASE_CTRL s ∧ s.pair.role ≠ .active) ∧
    (∃ (s : State), TablesWf s ∧ s.power.st = .fullSail ∧ s.pair.lease = true ∧ leaseLive s = false ∧ s.pair.role = .active) ∧
    (∃ (s : State), s.power.st = .fullSail ∧ leaseLive s = true) ∧
    (∃ (s : State), s.power.st = .fullSail ∧ s.pair.lease = false) :=
  ⟨⟨.host, 0#32, up, ⟨by decide, by decide⟩, ⟨by decide, fun _ => ⟨rfl, rfl⟩⟩, by decide⟩,
   ⟨.host, 300001#32, up, ⟨by decide, by decide⟩, ⟨by decide, fun _ => ⟨rfl, rfl⟩⟩, by decide, by decide⟩,
   ⟨.host, { up with pair := { role := .active } }, ⟨by decide, fun _ => ⟨rfl, rfl⟩⟩, by decide⟩,
   ⟨.host, up, ⟨by decide, fun _ => ⟨rfl, rfl⟩⟩, by decide⟩,
   ⟨{ up with power := { st := .fullSail }, pair := { lease := true, role := .active } }, ⟨by decide, by decide⟩, by decide,
    by decide, by decide, by decide⟩,
   ⟨wr SHR_LEASE_DL 1#32 ({ up with power := { st := .fullSail }, pair := { lease := true } }), by decide, by decide⟩,
   ⟨{ up with power := { st := .fullSail }, pair := { lease := false } }, by decide, by decide⟩⟩

theorem test_meets_PairClerk :
    (∃ (s : State),
      s.power.st = .fullSail ∧ isPair s = true ∧ s.pair.role = .active ∧ s.deck.st = .run ∧ s.pair.renewAt ≤ s.ticks) ∧
    (∃ (s : State),
      s.power.st = .fullSail ∧ ((s.ticks < s.pair.renewAt ∨ isPair s = false ∨ s.pair.role ≠ .active ∨ s.deck.st ≠ .run))) ∧
    (∃ (s : State), s.power.st = .fullSail ∧ isPair s = true ∧ s.deck.st = .run ∧ s.nodeOk = true ∧ s.pair.wants = true ∧
      s.pair.confirm = false ∧ s.pair.askNext ≤ s.ticks) ∧
    (∃ (s : State), s.power.st = .fullSail ∧
      ((isPair s = false ∨ s.deck.st ≠ .run ∨ s.nodeOk = false ∨ s.pair.wants = false ∨ s.pair.confirm = true ∨ s.ticks < s.pair.askNext))) ∧
    (∃ (s : State),
      TablesWf s ∧ s.power.st = .fullSail ∧ isPair s = true ∧ s.pair.clerkLost = false ∧ s.pair.replyAt + 75000000 ≤ s.ticks) ∧
    (∃ (s : State),
      s.power.st = .fullSail ∧ ((isPair s = false ∨ s.pair.clerkLost = true ∨ s.ticks < s.pair.replyAt + 75000000))) ∧
    (∃ (m : ClerkMsg) (x : Nat × Nat) (s : State), TablesWf s ∧ s.power.st = .fullSail ∧ isPair s = true ∧ s.deck.st = .run ∧
      s.pair.sent.find? (fun y => decide (y.1 = m.nodeSeq.toNat)) = some x ∧ m.macOk = true ∧ m.pairId.toNat = pairId s ∧
      m.nodeId.val = nodeId s ∧ afterRelease m s = true ∧
      ((2 ^ 31 ≤ ((x.2 + 290000) % 2 ^ 32 + 2 ^ 32 - s.pair.mono % 2 ^ 32) % 2 ^ 32 ∨ ((x.2 + 290000) % 2 ^ 32 + 2 ^ 32 - s.pair.mono % 2 ^ 32) % 2 ^ 32 ≤ 300000))) ∧
    (∃ (m : ClerkMsg) (x : Nat × Nat) (s : State), s.power.st = .fullSail ∧ isPair s = true ∧ s.deck.st = .run ∧
      s.pair.sent.find? (fun y => decide (y.1 = m.nodeSeq.toNat)) = some x ∧ m.macOk = true ∧ m.pairId.toNat = pairId s ∧
      m.nodeId.val = nodeId s ∧ afterRelease m s = false) ∧
    (∃ (m : ClerkMsg) (x : Nat × Nat) (s : State), TablesWf s ∧ s.power.st = .fullSail ∧ isPair s = true ∧ s.deck.st = .run ∧
      s.pair.sent.find? (fun y => decide (y.1 = m.nodeSeq.toNat)) = some x ∧ m.macOk = true ∧ m.pairId.toNat = pairId s ∧
      m.nodeId.val = nodeId s ∧ (s.pair.role = .active ∨ s.pair.role = .lapsed) ∧
      ((2 ^ 31 ≤ ((x.2 + 290000) % 2 ^ 32 + 2 ^ 32 - s.pair.mono % 2 ^ 32) % 2 ^ 32 ∨ ((x.2 + 290000) % 2 ^ 32 + 2 ^ 32 - s.pair.mono % 2 ^ 32) % 2 ^ 32 ≤ 300000))) ∧
    (∃ (m : ClerkMsg) (x : Nat × Nat) (s : State), s.power.st = .fullSail ∧ isPair s = true ∧ s.deck.st = .run ∧
      s.pair.sent.find? (fun y => decide (y.1 = m.nodeSeq.toNat)) = some x ∧ m.macOk = true ∧ m.pairId.toNat = pairId s ∧
      m.nodeId.val = nodeId s ∧ s.pair.role ≠ .active ∧ s.pair.role ≠ .lapsed) ∧
    (∃ (m : ClerkMsg) (x : Nat × Nat) (s : State), s.power.st = .fullSail ∧ isPair s = true ∧ s.deck.st = .run ∧
      s.pair.sent.find? (fun y => decide (y.1 = m.nodeSeq.toNat)) = some x ∧ m.macOk = true ∧ m.pairId.toNat = pairId s ∧
      m.nodeId.val = nodeId s ∧ s.pair.role = .active) ∧
    (∃ (m : ClerkMsg) (r : DenyReason) (x : Nat × Nat) (s : State),
      s.power.st = .fullSail ∧ isPair s = true ∧ s.deck.st = .run ∧
      s.pair.sent.find? (fun y => decide (y.1 = m.nodeSeq.toNat)) = some x ∧ m.macOk = true ∧ m.pairId.toNat = pairId s ∧
      m.nodeId.val = nodeId s ∧ r ≠ .staleEpoch) ∧
    (∃ (m : ClerkMsg) (r : DenyReason) (c : Instr) (s : State),
      c ∈ [.rxGrant m, .rxRenewed m, .rxDeny m r] ∧ s.power.st = .fullSail ∧ isPair s = true ∧ s.deck.st = .run ∧
      ((s.pair.sent.find? (fun y => decide (y.1 = m.nodeSeq.toNat)) = none ∨ m.macOk = false))) :=
  ⟨⟨wrF SHR_CFG 0 2 1 ({ up with power := { st := .fullSail }, pair := { role := .active }, deck := { st := .run } }),
    by decide, by decide, by decide, by decide, by decide⟩,
   ⟨{ up with power := { st := .fullSail } }, by decide, by decide⟩,
   ⟨wrF SHR_CFG 0 2 1 ({ up with power := { st := .fullSail }, deck := { st := .run }, nodeOk := true, pair := { wants := true, confirm := false } }),
    by decide, by decide, by decide, by decide, by decide, by decide, by decide⟩,
   ⟨{ up with power := { st := .fullSail } }, by decide, by decide⟩,
   ⟨wrF SHR_CFG 0 2 1 ({ up with power := { st := .fullSail }, pair := { clerkLost := false }, ticks := 10 ^ 11 }),
    ⟨by decide, by decide⟩, by decide, by decide, by decide, by decide⟩,
   ⟨{ up with power := { st := .fullSail } }, by decide, by decide⟩,
   ⟨{ macOk := true, pairId := 0#16, nodeId := 0, flags := 0#16, epoch := 0#32, nodeSeq := 0#32, remainMs := 0#16, clerkId := 0#64 },
    (0, 0), wrF SHR_CFG 0 2 1 ({ up with power := { st := .fullSail }, deck := { st := .run }, pair := { sent := [(0, 0)] } }),
    ⟨by decide, by decide⟩, by decide, by decide, by decide, by decide, by decide, by decide, by decide, by decide, by decide⟩,
   ⟨{ macOk := true, pairId := 0#16, nodeId := 0, flags := 0#16, epoch := 0#32, nodeSeq := 0#32, remainMs := 0#16, clerkId := 0#64 },
    (0, 0),
    wrF SHR_CFG 0 2 1 ({ up with power := { st := .fullSail }, deck := { st := .run }, pair := { sent := [(0, 0)], releaseSeq := some 1 } }),
    by decide, by decide, by decide, by decide, by decide, by decide, by decide, by decide⟩,
   ⟨{ macOk := true, pairId := 0#16, nodeId := 0, flags := 0#16, epoch := 0#32, nodeSeq := 0#32, remainMs := 0#16, clerkId := 0#64 },
    (0, 0),
    wrF SHR_CFG 0 2 1 ({ up with power := { st := .fullSail }, deck := { st := .run }, pair := { sent := [(0, 0)], role := .active } }),
    ⟨by decide, by decide⟩, by decide, by decide, by decide, by decide, by decide, by decide, by decide, by decide, by decide⟩,
   ⟨{ macOk := true, pairId := 0#16, nodeId := 0, flags := 0#16, epoch := 0#32, nodeSeq := 0#32, remainMs := 0#16, clerkId := 0#64 },
    (0, 0), wrF SHR_CFG 0 2 1 ({ up with power := { st := .fullSail }, deck := { st := .run }, pair := { sent := [(0, 0)] } }),
    by decide, by decide, by decide, by decide, by decide, by decide, by decide, by decide, by decide⟩,
   ⟨{ macOk := true, pairId := 0#16, nodeId := 0, flags := 0#16, epoch := 0#32, nodeSeq := 0#32, remainMs := 0#16, clerkId := 0#64 },
    (0, 0),
    wrF SHR_CFG 0 2 1 ({ up with power := { st := .fullSail }, deck := { st := .run }, pair := { sent := [(0, 0)], role := .active } }),
    by decide, by decide, by decide, by decide, by decide, by decide, by decide, by decide⟩,
   ⟨{ macOk := true, pairId := 0#16, nodeId := 0, flags := 0#16, epoch := 0#32, nodeSeq := 0#32, remainMs := 0#16, clerkId := 0#64 },
    .wait, (0, 0),
    wrF SHR_CFG 0 2 1 ({ up with power := { st := .fullSail }, deck := { st := .run }, pair := { sent := [(0, 0)] } }),
    by decide, by decide, by decide, by decide, by decide, by decide, by decide, by decide⟩,
   ⟨{ macOk := false, pairId := 0#16, nodeId := 0, flags := 0#16, epoch := 0#32, nodeSeq := 0#32, remainMs := 0#16, clerkId := 0#64 },
    .wait,
    (.rxGrant ({ macOk := false, pairId := 0#16, nodeId := 0, flags := 0#16, epoch := 0#32, nodeSeq := 0#32, remainMs := 0#16, clerkId := 0#64 })),
    wrF SHR_CFG 0 2 1 ({ up with power := { st := .fullSail }, deck := { st := .run } }), by decide, by decide, by decide,
    by decide, by decide⟩⟩

theorem test_meets_PairLinks :
    (∃ (l : Fin 2) (h : ShroudHdr) (s : State),
      s.power.st = .fullSail ∧ isPair s = true ∧ (shroud s l.val).up = true ∧ h.parityOk = true ∧ h.crcOk = true ∧
      h.pairId.toNat = pairId s ∧ (shroud s l.val).waits = []) ∧
    (∃ (l : Fin 2) (h : ShroudHdr) (hb : Heartbeat) (es : List DigestEntry) (rs : List (List Word)) (x : EnergySave) (ws : List Word) (d : ResyncData) (c : Instr) (s : State),
      c ∈ [.rxCredit l h, .rxLinkInit l h, .rxHeartbeat l h hb, .rxDigest l h es, .rxLedger l h rs, .rxEnergy l h x, .rxHealth l h ws, .rxResyncReq l h, .rxResyncData l h d] ∧
      TablesWf s ∧ s.power.st = .fullSail ∧ isPair s = true ∧ (shroud s l.val).up = true ∧
      ((h.parityOk = false ∨ h.crcOk = false ∨ h.pairId.toNat ≠ pairId s))) ∧
    (∃ (l : Fin 2) (h : ShroudHdr) (hb : Heartbeat) (es : List DigestEntry) (rs : List (List Word)) (x : EnergySave) (ws : List Word) (d : ResyncData) (c : Instr) (s : State),
      c ∈ [.rxCredit l h, .rxLinkInit l h, .rxHeartbeat l h hb, .rxDigest l h es, .rxLedger l h rs, .rxEnergy l h x, .rxHealth l h ws, .rxResyncReq l h, .rxResyncData l h d] ∧
      s.power.st = .fullSail ∧ ((isPair s = false ∨ (shroud s l.val).up = false))) ∧
    (∃ (l : Fin 2) (s : State),
      TablesWf s ∧ s.power.st = .fullSail ∧ s.boot.started = true ∧ isPair s = true ∧ (shroud s l.val).up = false ∧
      (shroud s l.val).waits = []) ∧
    (∃ (l : Fin 2) (s : State),
      TablesWf s ∧ s.power.st = .fullSail ∧ s.boot.started = true ∧ isPair s = true ∧ (shroud s l.val).up = true ∧
      (shroud s l.val).waits = []) ∧
    (∃ (s : State),
      s.power.st = .fullSail ∧ isPair s = true ∧ s.pair.hbAt ≤ s.ticks ∧ (shroud s 0).up = false ∧ (shroud s 1).up = false) ∧
    (∃ (s : State), TablesWf s ∧ s.power.st = .fullSail ∧ isPair s = true ∧ s.pair.hbAt ≤ s.ticks ∧ (shroud s 0).up = true ∧
      (shroud s 1).up = true) ∧
    (∃ (s : State), s.power.st = .fullSail ∧ ((isPair s = false ∨ s.ticks < s.pair.hbAt))) ∧
    (∃ (l : Fin 2) (up : Bool) (s : State),
      s.power.st = .fullSail ∧ ((isPair s = false ∨ portsUp s = false ∨ (shroud s l.val).up = up))) :=
  ⟨⟨0, { parityOk := true, crcOk := true, pairId := 0#16, nodeId := 0, credits := 0#8, len := 0#16, seq := 0#32 },
    wrF SHR_CFG 0 2 1 ({ up with power := { st := .fullSail }, pair := { links := [(0, { up := true, waits := [] })] } }),
    by decide, by decide, by decide, by decide, by decide, by decide, by decide⟩,
   ⟨0, { parityOk := false, crcOk := false, pairId := 0#16, nodeId := 0, credits := 0#8, len := 0#16, seq := 0#32 },
    { seq := 0#32, flags := 0#32, epoch := 0#32, confirmSeq := 0#32, closed := 0#32, image := 0#32 }, [], [],
    { seq := 0, tag := 0, mean := 0, reefed := false, points := [], crc := 0#32 }, [],
    { points := [], bells := [], baseline := none },
    (.rxCredit 0 ({ parityOk := false, crcOk := false, pairId := 0#16, nodeId := 0, credits := 0#8, len := 0#16, seq := 0#32 })),
    wrF SHR_CFG 0 2 1 ({ up with power := { st := .fullSail }, pair := { links := [(0, { up := true })] } }), by decide,
    ⟨by decide, by decide⟩, by decide, by decide, by decide, by decide⟩,
   ⟨0, { parityOk := false, crcOk := false, pairId := 0#16, nodeId := 0, credits := 0#8, len := 0#16, seq := 0#32 },
    { seq := 0#32, flags := 0#32, epoch := 0#32, confirmSeq := 0#32, closed := 0#32, image := 0#32 }, [], [],
    { seq := 0, tag := 0, mean := 0, reefed := false, points := [], crc := 0#32 }, [],
    { points := [], bells := [], baseline := none },
    (.rxCredit 0 ({ parityOk := false, crcOk := false, pairId := 0#16, nodeId := 0, credits := 0#8, len := 0#16, seq := 0#32 })),
    { up with power := { st := .fullSail } }, by decide, by decide, by decide⟩,
   ⟨0,
    wrF SHR_CFG 0 2 1 ({ up with power := { st := .fullSail }, boot := { up.boot with started := true }, pair := { links := [(0, { up := false, waits := [] })] } }),
    ⟨by decide, by decide⟩, by decide, by decide, by decide, by decide, by decide⟩,
   ⟨0,
    wrF SHR_CFG 0 2 1 ({ up with power := { st := .fullSail }, boot := { up.boot with started := true }, pair := { links := [(0, { up := true, waits := [] })] } }),
    ⟨by decide, by decide⟩, by decide, by decide, by decide, by decide, by decide⟩,
   ⟨wrF SHR_CFG 0 2 1 ({ up with power := { st := .fullSail }, pair := { links := [(0, { up := false }), (1, { up := false })] } }),
    by decide, by decide, by decide, by decide, by decide⟩,
   ⟨wrF SHR_CFG 0 2 1 ({ up with power := { st := .fullSail }, pair := { links := [(0, { up := true }), (1, { up := true })] } }),
    ⟨by decide, by decide⟩, by decide, by decide, by decide, by decide, by decide⟩,
   ⟨{ up with power := { st := .fullSail } }, by decide, by decide⟩,
   ⟨0, false, slotUp, by decide, by decide⟩⟩

theorem test_meets_PairHeartbeats :
    (∃ (l : Fin 2) (h : ShroudHdr) (hb : Heartbeat) (i : Nat) (s : State),
      TablesWf s ∧ s.power.st = .fullSail ∧ isPair s = true ∧ (shroud s l.val).up = true ∧ h.parityOk = true ∧ h.crcOk = true ∧
      h.pairId.toNat = pairId s ∧ ((s.pair.peerSeen = false ∨ atOrAfter32 (rd s (SHR_PEER_W 0)).toNat hb.seq.toNat = false)) ∧
      i < 4) ∧
    (∃ (l : Fin 2) (h : ShroudHdr) (hb : Heartbeat) (s : State),
      TablesWf s ∧ s.power.st = .fullSail ∧ isPair s = true ∧ (shroud s l.val).up = true ∧ h.parityOk = true ∧ h.crcOk = true ∧
      h.pairId.toNat = pairId s ∧ ((s.pair.peerSeen = false ∨ atOrAfter32 (rd s (SHR_PEER_W 0)).toNat hb.seq.toNat = false)) ∧
      s.pair.role = .active ∧ hbRole hb.flags = 1 ∧ (rd s SHR_LEASE_EPOCH).toNat < hb.epoch.toNat) ∧
    (∃ (l : Fin 2) (h : ShroudHdr) (hb : Heartbeat) (s : State),
      TablesWf s ∧ s.power.st = .fullSail ∧ isPair s = true ∧ (shroud s l.val).up = true ∧ h.parityOk = true ∧ h.crcOk = true ∧
      h.pairId.toNat = pairId s ∧ s.pair.peerSeen = true ∧ atOrAfter32 (rd s (SHR_PEER_W 0)).toNat hb.seq.toNat = true) ∧
    (∃ (s : State), TablesWf s ∧ s.power.st = .fullSail ∧ isPair s = true ∧ s.pair.peerSeen = true ∧ s.pair.peerOut = false ∧
      s.pair.hbRxAt + lossTicks s ≤ s.ticks) ∧
    (∃ (s : State), s.power.st = .fullSail ∧ isPair s = true ∧ s.pair.peerSeen = false ∧ s.pair.peerOut = false ∧
      s.pair.hbRxAt + lossTicks s ≤ s.ticks) ∧
    (∃ (s : State),
      s.power.st = .fullSail ∧ ((isPair s = false ∨ s.pair.peerOut = true ∨ s.ticks < s.pair.hbRxAt + lossTicks s))) ∧
    (∃ (hb : Heartbeat) (s : State), TablesWf s) ∧
    (∃ (old : Word) (new : Word) (s : State), s.pair.role = .standby ∧ hbRole new = 1 ∧ hbOk new = true ∧ asking s = false) ∧
    (∃ (old : Word) (new : Word) (s : State), s.pair.role ≠ .active ∧
      ((hbOk old = true ∧ hbOk new = false ∨ hbRole new = 2 ∧ hbRole old ≠ 2 ∨ bitAt new 12 = true ∧ bitAt old 12 = false)) ∧
      (¬ (hbRole new = 1 ∧ hbOk new = true))) :=
  ⟨⟨0, { parityOk := true, crcOk := true, pairId := 0#16, nodeId := 0, credits := 0#8, len := 0#16, seq := 0#32 },
    { seq := 0#32, flags := 0#32, epoch := 0#32, confirmSeq := 0#32, closed := 0#32, image := 0#32 }, 0,
    wrF SHR_CFG 0 2 1 ({ up with power := { st := .fullSail }, pair := { links := [(0, { up := true })], peerSeen := false } }),
    ⟨by decide, by decide⟩, by decide, by decide, by decide, by decide, by decide, by decide, by decide, by decide⟩,
   ⟨0, { parityOk := true, crcOk := true, pairId := 0#16, nodeId := 0, credits := 0#8, len := 0#16, seq := 0#32 },
    { seq := 0#32, flags := 1#32, epoch := 1#32, confirmSeq := 0#32, closed := 0#32, image := 0#32 },
    wrF SHR_CFG 0 2 1 ({ up with power := { st := .fullSail }, pair := { links := [(0, { up := true })], peerSeen := false, role := .active } }),
    ⟨by decide, by decide⟩, by decide, by decide, by decide, by decide, by decide, by decide, by decide, by decide, by decide,
    by decide⟩,
   ⟨0, { parityOk := true, crcOk := true, pairId := 0#16, nodeId := 0, credits := 0#8, len := 0#16, seq := 0#32 },
    { seq := 0#32, flags := 0#32, epoch := 0#32, confirmSeq := 0#32, closed := 0#32, image := 0#32 },
    wrF SHR_CFG 0 2 1 ({ up with power := { st := .fullSail }, pair := { links := [(0, { up := true })], peerSeen := true } }),
    ⟨by decide, by decide⟩, by decide, by decide, by decide, by decide, by decide, by decide, by decide, by decide⟩,
   ⟨wrF SHR_CFG 0 2 1 ({ up with power := { st := .fullSail }, pair := { peerSeen := true, peerOut := false }, ticks := 10 ^ 11 }),
    ⟨by decide, by decide⟩, by decide, by decide, by decide, by decide, by decide⟩,
   ⟨wrF SHR_CFG 0 2 1 ({ up with power := { st := .fullSail }, pair := { peerSeen := false, peerOut := false }, ticks := 10 ^ 11 }),
    by decide, by decide, by decide, by decide, by decide⟩,
   ⟨{ up with power := { st := .fullSail } }, by decide, by decide⟩,
   ⟨{ seq := 0#32, flags := 0#32, epoch := 0#32, confirmSeq := 0#32, closed := 0#32, image := 0#32 }, up, ⟨by decide, by decide⟩⟩,
   ⟨0#32, 9#32, { up with pair := { role := .standby } }, by decide, by decide, by decide, by decide⟩,
   ⟨8#32, 0#32, up, by decide, by decide, by decide⟩⟩

theorem test_meets_PairData :
    (∃ (l : Fin 2) (h : ShroudHdr) (e : DigestEntry) (s : State),
      s.power.st = .fullSail ∧ isPair s = true ∧ (shroud s l.val).up = true ∧ h.parityOk = true ∧ h.crcOk = true ∧
      h.pairId.toNat = pairId s ∧ s.pair.own.find? (fun d => decide (d.1 = e.instant.toNat)) = none) ∧
    (∃ (l : Fin 2) (h : ShroudHdr) (e : DigestEntry) (a : Nat × Nat × Nat) (s : State),
      s.power.st = .fullSail ∧ isPair s = true ∧ (shroud s l.val).up = true ∧ h.parityOk = true ∧ h.crcOk = true ∧
      h.pairId.toNat = pairId s ∧ s.pair.own.find? (fun d => decide (d.1 = e.instant.toNat)) = some a ∧
      s.pair.theirs.find? (fun d => decide (d.1 = e.instant.toNat)) = none) ∧
    (∃ (inst : Nat) (a : Nat × Nat × Nat) (s : State),
      s.power.st = .fullSail ∧ a ∈ s.pair.own ∧ a.1 = inst ∧ a.2.2 + 500000000 ≤ s.ticks) ∧
    (∃ (inst : Nat) (s : State), s.power.st = .fullSail ∧ ((∀ a ∈ s.pair.own, a.1 = inst → s.ticks < a.2.2 + 500000000))) ∧
    (∃ (s : State), s.power.st = .fullSail ∧ isPair s = true ∧ s.pair.digAt + 2500000 ≤ s.ticks) ∧
    (∃ (s : State), s.power.st = .fullSail ∧ ((isPair s = false ∨ s.ticks < s.pair.digAt + 2500000))) ∧
    (∃ (l : Fin 2) (h : ShroudHdr) (rs : List (List Word)) (s : State),
      s.power.st = .fullSail ∧ isPair s = true ∧ (shroud s l.val).up = true ∧ h.parityOk = true ∧ h.crcOk = true ∧
      h.pairId.toNat = pairId s) ∧
    (∃ (l : Fin 2) (h : ShroudHdr) (x : EnergySave) (s : State),
      s.power.st = .fullSail ∧ isPair s = true ∧ (shroud s l.val).up = true ∧ h.parityOk = true ∧ h.crcOk = true ∧
      h.pairId.toNat = pairId s) ∧
    (∃ (l : Fin 2) (h : ShroudHdr) (ws : List Word) (s : State),
      s.power.st = .fullSail ∧ isPair s = true ∧ (shroud s l.val).up = true ∧ h.parityOk = true ∧ h.crcOk = true ∧
      h.pairId.toNat = pairId s) ∧
    (∃ (i : Nat) (s : State), TablesWf s ∧ s.power.st = .fullSail ∧ isPair s = true ∧ s.pair.healthAt ≤ s.ticks ∧ i < 4) ∧
    (∃ (s : State), s.power.st = .fullSail ∧ ((isPair s = false ∨ s.ticks < s.pair.healthAt))) ∧
    (∃ (who : Req) (clr : Bool) (s : State), TablesWf s ∧ Served who SHR_SNAP s) :=
  ⟨⟨0, { parityOk := true, crcOk := true, pairId := 0#16, nodeId := 0, credits := 0#8, len := 0#16, seq := 0#32 },
    { instant := 0#64, rev := 0#4, digest := 0#64 },
    wrF SHR_CFG 0 2 1 ({ up with power := { st := .fullSail }, pair := { links := [(0, { up := true })] } }), by decide,
    by decide, by decide, by decide, by decide, by decide, by decide⟩,
   ⟨0, { parityOk := true, crcOk := true, pairId := 0#16, nodeId := 0, credits := 0#8, len := 0#16, seq := 0#32 },
    { instant := 0#64, rev := 0#4, digest := 0#64 }, (0, (0, 0)),
    wrF SHR_CFG 0 2 1 ({ up with power := { st := .fullSail }, pair := { links := [(0, { up := true })], own := [(0, (0, 0))] } }),
    by decide, by decide, by decide, by decide, by decide, by decide, by decide, by decide⟩,
   ⟨0, (0, 0, 0), { up with power := { st := .fullSail }, pair := { own := [(0, 0, 0)] }, ticks := 10 ^ 11 }, by decide,
    by decide, by decide, by decide⟩,
   ⟨0, { up with power := { st := .fullSail } }, by decide, by decide⟩,
   ⟨wrF SHR_CFG 0 2 1 ({ up with power := { st := .fullSail }, ticks := 10 ^ 11 }), by decide, by decide, by decide⟩,
   ⟨{ up with power := { st := .fullSail } }, by decide, by decide⟩,
   ⟨0, { parityOk := true, crcOk := true, pairId := 0#16, nodeId := 0, credits := 0#8, len := 0#16, seq := 0#32 }, [],
    wrF SHR_CFG 0 2 1 ({ up with power := { st := .fullSail }, pair := { links := [(0, { up := true })] } }), by decide,
    by decide, by decide, by decide, by decide, by decide⟩,
   ⟨0, { parityOk := true, crcOk := true, pairId := 0#16, nodeId := 0, credits := 0#8, len := 0#16, seq := 0#32 },
    { seq := 0, tag := 0, mean := 0, reefed := false, points := [], crc := 0#32 },
    wrF SHR_CFG 0 2 1 ({ up with power := { st := .fullSail }, pair := { links := [(0, { up := true })] } }), by decide,
    by decide, by decide, by decide, by decide, by decide⟩,
   ⟨0, { parityOk := true, crcOk := true, pairId := 0#16, nodeId := 0, credits := 0#8, len := 0#16, seq := 0#32 }, [],
    wrF SHR_CFG 0 2 1 ({ up with power := { st := .fullSail }, pair := { links := [(0, { up := true })] } }), by decide,
    by decide, by decide, by decide, by decide, by decide⟩,
   ⟨0, wrF SHR_CFG 0 2 1 ({ up with power := { st := .fullSail } }), ⟨by decide, by decide⟩, by decide, by decide, by decide,
    by decide⟩,
   ⟨{ up with power := { st := .fullSail } }, by decide, by decide⟩,
   ⟨.host, false, up, ⟨by decide, by decide⟩, ⟨by decide, fun _ => ⟨rfl, rfl⟩⟩⟩⟩

theorem test_meets_PairResync :
    (∃ (l : Fin 2) (h : ShroudHdr) (s : State),
      s.power.st = .fullSail ∧ isPair s = true ∧ (shroud s l.val).up = true ∧ h.parityOk = true ∧ h.crcOk = true ∧
      h.pairId.toNat = pairId s) ∧
    (∃ (l : Fin 2) (h : ShroudHdr) (d : ResyncData) (b : Baseline) (s : State),
      s.power.st = .fullSail ∧ isPair s = true ∧ (shroud s l.val).up = true ∧ h.parityOk = true ∧ h.crcOk = true ∧
      h.pairId.toNat = pairId s ∧ s.pair.role = .resync ∧ s.ledger.fail = false ∧ d.baseline = some b) ∧
    (∃ (l : Fin 2) (h : ShroudHdr) (d : ResyncData) (s : State),
      s.power.st = .fullSail ∧ isPair s = true ∧ (shroud s l.val).up = true ∧ h.parityOk = true ∧ h.crcOk = true ∧
      h.pairId.toNat = pairId s ∧ s.pair.role ≠ .resync) ∧
    (∃ (s : State),
      TablesWf s ∧ s.power.st = .fullSail ∧ s.pair.role = .resync ∧ s.mast.st = .locked ∧ 64 ≤ s.pair.matchRun ∧
      s.nest.emState ≠ .warming ∧ s.nest.fastState ≠ .warming) ∧
    (∃ (s : State), s.power.st = .fullSail ∧
      ((s.pair.role ≠ .resync ∨ s.mast.st ≠ .locked ∨ s.pair.matchRun < 64 ∨ s.nest.emState = .warming ∨ s.nest.fastState = .warming))) :=
  ⟨⟨0, { parityOk := true, crcOk := true, pairId := 0#16, nodeId := 0, credits := 0#8, len := 0#16, seq := 0#32 },
    wrF SHR_CFG 0 2 1 ({ up with power := { st := .fullSail }, pair := { links := [(0, { up := true })] } }), by decide,
    by decide, by decide, by decide, by decide, by decide⟩,
   ⟨0, { parityOk := true, crcOk := true, pairId := 0#16, nodeId := 0, credits := 0#8, len := 0#16, seq := 0#32 },
    { points := [], bells := [], baseline := some { digest := 0, rate := 0, order := 0, band := 0#32, sec := 0, modes := [], subspace := [], crc := 0#32 } },
    { digest := 0, rate := 0, order := 0, band := 0#32, sec := 0, modes := [], subspace := [], crc := 0#32 },
    wrF SHR_CFG 0 2 1 ({ up with power := { st := .fullSail }, pair := { links := [(0, { up := true })], role := .resync }, ledger := { fail := false } }),
    by decide, by decide, by decide, by decide, by decide, by decide, by decide, by decide, by decide⟩,
   ⟨0, { parityOk := true, crcOk := true, pairId := 0#16, nodeId := 0, credits := 0#8, len := 0#16, seq := 0#32 },
    { points := [], bells := [], baseline := none },
    wrF SHR_CFG 0 2 1 ({ up with power := { st := .fullSail }, pair := { links := [(0, { up := true })], role := .active } }),
    by decide, by decide, by decide, by decide, by decide, by decide, by decide⟩,
   ⟨{ up with power := { st := .fullSail }, pair := { role := .resync, matchRun := 64 }, mast := { st := .locked } },
    ⟨by decide, by decide⟩, by decide, by decide, by decide, by decide, by decide, by decide⟩,
   ⟨{ up with power := { st := .fullSail } }, by decide, by decide⟩⟩

theorem test_meets_ClerkService :
    (∃ (m : ClerkMsg) (s : State),
      s.power.st = .fullSail ∧ rdF s SHR_CFG 0 2 = 2 ∧ m.macOk = true ∧ m.pairId.toNat ∈ s.cfg.clerkPairs ∧
      clerkQuiet s = none ∧ (clerkPair s m.pairId.toNat).holder = some m.nodeId.val) ∧
    (∃ (m : ClerkMsg) (s : State),
      s.power.st = .fullSail ∧ rdF s SHR_CFG 0 2 = 2 ∧ m.macOk = true ∧ m.pairId.toNat ∈ s.cfg.clerkPairs ∧
      clerkQuiet s = none ∧ (clerkPair s m.pairId.toNat).holder ≠ some m.nodeId.val ∧
      clerkRemain m.nodeId.val (s.ticks / 250) (clerkRun m.nodeId.val (s.ticks / 250) (clerkPair s m.pairId.toNat)) = 0) ∧
    (∃ (m : ClerkMsg) (s : State),
      s.power.st = .fullSail ∧ rdF s SHR_CFG 0 2 = 2 ∧ m.macOk = true ∧ m.pairId.toNat ∈ s.cfg.clerkPairs ∧
      (((∃ q, clerkQuiet s = some q) ∨ ((clerkPair s m.pairId.toNat).holder ≠ some m.nodeId.val ∧ clerkRemain m.nodeId.val (s.ticks / 250) (clerkRun m.nodeId.val (s.ticks / 250) (clerkPair s m.pairId.toNat)) ≠ 0)))) ∧
    (∃ (m : ClerkMsg) (s : State),
      s.power.st = .fullSail ∧ rdF s SHR_CFG 0 2 = 2 ∧ m.macOk = true ∧ m.pairId.toNat ∈ s.cfg.clerkPairs ∧
      (((clerkPair s m.pairId.toNat).holder = some m.nodeId.val ∧ (clerkPair s m.pairId.toNat).epoch = m.epoch.toNat ∨ (clerkQuiet s).isSome = true ∧ ((clerkPair s m.pairId.toNat).holder = none ∨ (clerkPair s m.pairId.toNat).epoch < m.epoch.toNat)))) ∧
    (∃ (m : ClerkMsg) (s : State),
      s.power.st = .fullSail ∧ rdF s SHR_CFG 0 2 = 2 ∧ m.macOk = true ∧ m.pairId.toNat ∈ s.cfg.clerkPairs ∧
      (((clerkQuiet s).isSome = true → (clerkPair s m.pairId.toNat).holder ≠ none ∧ m.epoch.toNat ≤ (clerkPair s m.pairId.toNat).epoch)) ∧
      (((clerkPair s m.pairId.toNat).holder ≠ some m.nodeId.val ∨ (clerkPair s m.pairId.toNat).epoch ≠ m.epoch.toNat))) ∧
    (∃ (m : ClerkMsg) (s : State),
      s.power.st = .fullSail ∧ rdF s SHR_CFG 0 2 = 2 ∧ m.macOk = true ∧ m.pairId.toNat ∈ s.cfg.clerkPairs ∧
      (clerkPair s m.pairId.toNat).holder = some m.nodeId.val ∧ (clerkPair s m.pairId.toNat).epoch = m.epoch.toNat) ∧
    (∃ (m : ClerkMsg) (s : State),
      s.power.st = .fullSail ∧ rdF s SHR_CFG 0 2 = 2 ∧ m.macOk = true ∧ m.pairId.toNat ∈ s.cfg.clerkPairs ∧
      (((clerkPair s m.pairId.toNat).holder ≠ some m.nodeId.val ∨ (clerkPair s m.pairId.toNat).epoch ≠ m.epoch.toNat))) ∧
    (∃ (m : ClerkMsg) (c : Instr) (s : State),
      c ∈ [.clerkRxRequest m, .clerkRxRenew m, .clerkRxRelease m] ∧ s.power.st = .fullSail ∧ rdF s SHR_CFG 0 2 = 2) ∧
    (∃ (m : ClerkMsg) (c : Instr) (s : State),
      c ∈ [.clerkRxRequest m, .clerkRxRenew m, .clerkRxRelease m] ∧ s.power.st = .fullSail ∧ rdF s SHR_CFG 0 2 ≠ 2) ∧
    (∃ (q : Nat) (s : State), s.power.st = .fullSail ∧ s.pair.quietUntil = some q ∧ q ≤ s.ticks / 250) ∧
    (∃ (q : Nat) (s : State), s.power.st = .fullSail ∧ s.pair.quietUntil = some q ∧ s.ticks / 250 < q) :=
  ⟨⟨{ macOk := true, pairId := 0#16, nodeId := 0, flags := 0#16, epoch := 0#32, nodeSeq := 0#32, remainMs := 0#16, clerkId := 0#64 },
    wrF SHR_CFG 0 2 2 ({ up with power := { st := .fullSail }, cfg := { clerkPairs := [0] }, pair := { clerks := [(0, { holder := some 0 })] } }),
    by decide, by decide, by decide, by decide, by decide, by decide⟩,
   ⟨{ macOk := true, pairId := 0#16, nodeId := 0, flags := 0#16, epoch := 0#32, nodeSeq := 0#32, remainMs := 0#16, clerkId := 0#64 },
    wrF SHR_CFG 0 2 2 ({ up with power := { st := .fullSail }, cfg := { clerkPairs := [0] }, pair := { clerks := [(0, { free := some 0 })] } }),
    by decide, by decide, by decide, by decide, by decide, by decide, by decide⟩,
   ⟨{ macOk := true, pairId := 0#16, nodeId := 0, flags := 0#16, epoch := 0#32, nodeSeq := 0#32, remainMs := 0#16, clerkId := 0#64 },
    wrF SHR_CFG 0 2 2 ({ up with power := { st := .fullSail }, cfg := { clerkPairs := [0] } }), by decide, by decide,
    by decide, by decide, .inr (by decide)⟩,
   ⟨{ macOk := true, pairId := 0#16, nodeId := 0, flags := 0#16, epoch := 0#32, nodeSeq := 0#32, remainMs := 0#16, clerkId := 0#64 },
    wrF SHR_CFG 0 2 2 ({ up with power := { st := .fullSail }, cfg := { clerkPairs := [0] }, pair := { clerks := [(0, { holder := some 0 })] } }),
    by decide, by decide, by decide, by decide, .inl (by decide)⟩,
   ⟨{ macOk := true, pairId := 0#16, nodeId := 0, flags := 0#16, epoch := 0#32, nodeSeq := 0#32, remainMs := 0#16, clerkId := 0#64 },
    wrF SHR_CFG 0 2 2 ({ up with power := { st := .fullSail }, cfg := { clerkPairs := [0] } }), by decide, by decide,
    by decide, by decide, by decide, by decide⟩,
   ⟨{ macOk := true, pairId := 0#16, nodeId := 0, flags := 0#16, epoch := 0#32, nodeSeq := 0#32, remainMs := 0#16, clerkId := 0#64 },
    wrF SHR_CFG 0 2 2 ({ up with power := { st := .fullSail }, cfg := { clerkPairs := [0] }, pair := { clerks := [(0, { holder := some 0 })] } }),
    by decide, by decide, by decide, by decide, by decide, by decide⟩,
   ⟨{ macOk := true, pairId := 0#16, nodeId := 0, flags := 0#16, epoch := 0#32, nodeSeq := 0#32, remainMs := 0#16, clerkId := 0#64 },
    wrF SHR_CFG 0 2 2 ({ up with power := { st := .fullSail }, cfg := { clerkPairs := [0] } }), by decide, by decide,
    by decide, by decide, by decide⟩,
   ⟨{ macOk := false, pairId := 0#16, nodeId := 0, flags := 0#16, epoch := 0#32, nodeSeq := 0#32, remainMs := 0#16, clerkId := 0#64 },
    (.clerkRxRequest ({ macOk := false, pairId := 0#16, nodeId := 0, flags := 0#16, epoch := 0#32, nodeSeq := 0#32, remainMs := 0#16, clerkId := 0#64 })),
    wrF SHR_CFG 0 2 2 ({ up with power := { st := .fullSail } }), by decide, by decide, by decide⟩,
   ⟨{ macOk := false, pairId := 0#16, nodeId := 0, flags := 0#16, epoch := 0#32, nodeSeq := 0#32, remainMs := 0#16, clerkId := 0#64 },
    (.clerkRxRequest ({ macOk := false, pairId := 0#16, nodeId := 0, flags := 0#16, epoch := 0#32, nodeSeq := 0#32, remainMs := 0#16, clerkId := 0#64 })),
    { up with power := { st := .fullSail } }, by decide, by decide, by decide⟩,
   ⟨0, { up with power := { st := .fullSail }, pair := { quietUntil := some 0 } }, by decide, by decide, by decide⟩,
   ⟨1, { up with power := { st := .fullSail }, pair := { quietUntil := some 1 } }, by decide, by decide, by decide⟩⟩

theorem test_meets_BootBanks :
    (∃ (who : Req) (bank : Fin 2) (erase : Bool) (c : Instr) (s : State),
      TablesWf s ∧ (c, erase) ∈ [(Instr.botVerify who bank, false), (.botErase who bank, true)] ∧ Served who BOT_CMD s ∧
      s.boot.job = none ∧ s.boot.act = 0 ∧ bankState s bank.val ≠ .active) ∧
    (∃ (who : Req) (bank : Fin 2) (c : Instr) (s : State),
      TablesWf s ∧ c ∈ [.botVerify who bank, .botErase who bank] ∧ Served who BOT_CMD s ∧ s.boot.job = none ∧ s.boot.act = 0 ∧
      bankState s bank.val = .active) ∧
    (∃ (check : BankCheck) (img : Option PenegImage) (b : Nat) (s : State),
      TablesWf s ∧ s.power.st = .fullSail ∧ s.boot.job = some ⟨false, b, none⟩ ∧ (bootRec s).seq + 1 < 2 ^ 32 ∧
      checkCode s check img = 0) ∧
    (∃ (check : BankCheck) (img : Option PenegImage) (b : Nat) (s : State),
      TablesWf s ∧ s.power.st = .fullSail ∧ s.boot.job = some ⟨false, b, none⟩ ∧ (bootRec s).seq + 1 < 2 ^ 32 ∧
      checkCode s check img ≠ 0) ∧
    (∃ (b : Nat) (s : State),
      TablesWf s ∧ s.power.st = .fullSail ∧ s.boot.job = some ⟨true, b, none⟩ ∧ (bootRec s).seq + 1 < 2 ^ 32) ∧
    (∃ (check : BankCheck) (img : Option PenegImage) (c : Instr) (s : State),
      c ∈ [.bankVerifyDone check img, .bankEraseDone] ∧ s.power.st = .fullSail ∧ s.boot.job = none) ∧
    (∃ (s : State),
      TablesWf s ∧ s.power.st = .fullSail ∧ (bootRec s).trial = true ∧ okFor s (clampNat 60 3600 s.cfg.trialS) = true ∧
      s.boot.act = 0 ∧ (bootRec s).seq + 1 < 2 ^ 32) ∧
    (∃ (s : State),
      s.power.st = .fullSail ∧ (((bootRec s).trial = false ∨ okFor s (clampNat 60 3600 s.cfg.trialS) = false ∨ s.boot.act ≠ 0))) ∧
    (∃ (s : State), s.power.st = .fullSail ∧ okFor s 60 = true ∧ (bootRec s).failCnt ≠ 0 ∧ (bootRec s).seq + 1 < 2 ^ 32) ∧
    (∃ (s : State), s.power.st = .fullSail ∧ ((okFor s 60 = false ∨ (bootRec s).failCnt = 0))) ∧
    (∃ (n : Nat) (t : Nat) (s : State), s.boot.okAt = some t) :=
  ⟨⟨.host, 0, false, (Instr.botVerify .host 0), { up with boot := { up.boot with job := none, act := 0 } },
    ⟨by decide, by decide⟩, by decide, ⟨by decide, fun _ => ⟨rfl, rfl⟩⟩, by decide, by decide, by decide⟩,
   ⟨.host, 0, (.botVerify .host 0), { up with boot := { up.boot with job := none, act := 0, copyA := { bankA := .active } } },
    ⟨by decide, by decide⟩, by decide, ⟨by decide, fun _ => ⟨rfl, rfl⟩⟩, by decide, by decide, by decide⟩,
   ⟨{ formatOk := true, sigOk := true, fwSigOk := true, hashOk := true }, some img1, 0,
    { up with power := { st := .fullSail }, boot := { up.boot with job := some ⟨false, 0, none⟩ } }, ⟨by decide, by decide⟩,
    by decide, by decide, by decide, by decide⟩,
   ⟨{ formatOk := false, sigOk := false, fwSigOk := false, hashOk := false }, none, 0,
    { up with power := { st := .fullSail }, boot := { up.boot with job := some ⟨false, 0, none⟩ } }, ⟨by decide, by decide⟩,
    by decide, by decide, by decide, by decide⟩,
   ⟨0, { up with power := { st := .fullSail }, boot := { up.boot with job := some ⟨true, 0, none⟩ } }, ⟨by decide, by decide⟩,
    by decide, by decide, by decide⟩,
   ⟨{ formatOk := false, sigOk := false, fwSigOk := false, hashOk := false }, none,
    (.bankVerifyDone ({ formatOk := false, sigOk := false, fwSigOk := false, hashOk := false }) none),
    { up with power := { st := .fullSail }, boot := { up.boot with job := none } }, by decide, by decide, by decide⟩,
   ⟨{ up with power := { st := .fullSail }, boot := { up.boot with act := 0, copyA := { trial := true }, okAt := some 0 }, nodeOk := true, ticks := 10 ^ 15 },
    ⟨by decide, by decide⟩, by decide, by decide, by decide, by decide, by decide⟩,
   ⟨{ up with power := { st := .fullSail } }, by decide, by decide⟩,
   ⟨{ up with power := { st := .fullSail }, boot := { up.boot with copyA := { failCnt := 1 }, okAt := some 0 }, nodeOk := true, ticks := 10 ^ 15 },
    by decide, by decide, by decide, by decide⟩,
   ⟨{ up with power := { st := .fullSail } }, by decide, by decide⟩,
   ⟨0, 0, { up with boot := { up.boot with okAt := some 0 } }, by decide⟩⟩

theorem test_meets_BootActivations :
    (∃ (who : Req) (bank : Fin 2) (force : Bool) (check : BankCheck) (s : State),
      Served who BOT_CMD s ∧ actRefusal (accessed who s) false bank.val force = 0 ∧
      checkCode (accessed who s) check (bankImage s bank.val) = 0) ∧
    (∃ (who : Req) (bank : Fin 2) (force : Bool) (check : BankCheck) (s : State),
      Served who BOT_CMD s ∧ actRefusal (accessed who s) true bank.val force = 0 ∧
      checkCode (accessed who s) check (bankImage s bank.val) = 0) ∧
    (∃ (who : Req) (bank : Fin 2) (force : Bool) (full : Bool) (check : BankCheck) (c : Instr) (s : State),
      TablesWf s ∧ (c, full) ∈ [(Instr.activateFw who bank force check, false), (.activateFull who bank force check, true)] ∧
      Served who BOT_CMD s ∧ actRefusal (accessed who s) full bank.val force ≠ 0 ∧
      actRefusal (accessed who s) full bank.val force ≠ 1) ∧
    (∃ (p : PenegImage) (s : State),
      s.power.st = .fullSail ∧ s.boot.act = 2 ∧ bankImage s s.boot.target = some p ∧ (bootRec s).seq + 1 < 2 ^ 32) ∧
    (∃ (p : PenegImage) (s : State), s.power.st = .fullSail ∧ s.boot.act = 2 ∧ bankImage s s.boot.target = some p) ∧
    (∃ (ok : Bool) (s : State), s.power.st = .fullSail ∧ s.boot.act = 0) :=
  ⟨⟨.host, 0, false, { formatOk := true, sigOk := true, fwSigOk := true, hashOk := true },
    { up with boot := { up.boot with copyA := { bankA := .valid }, running := some img1, images := [(0, some img1)] } },
    ⟨by decide, fun _ => ⟨rfl, rfl⟩⟩, by decide, by decide⟩,
   ⟨.host, 0, false, { formatOk := true, sigOk := true, fwSigOk := true, hashOk := true },
    { up with boot := { up.boot with copyA := { bankA := .valid }, images := [(0, some img1)] } },
    ⟨by decide, fun _ => ⟨rfl, rfl⟩⟩, by decide, by decide⟩,
   ⟨.host, 0, false, false, { formatOk := false, sigOk := false, fwSigOk := false, hashOk := false },
    (Instr.activateFw .host 0 false ({ formatOk := false, sigOk := false, fwSigOk := false, hashOk := false })), up,
    ⟨by decide, by decide⟩, by decide, ⟨by decide, fun _ => ⟨rfl, rfl⟩⟩, by decide, by decide⟩,
   ⟨img1, { up with power := { st := .fullSail }, boot := { up.boot with act := 2, images := [(0, some img1)] } }, by decide,
    by decide, by decide, by decide⟩,
   ⟨img1, { up with power := { st := .fullSail }, boot := { up.boot with act := 2, images := [(0, some img1)] } }, by decide,
    by decide, by decide⟩,
   ⟨false, { up with power := { st := .fullSail }, boot := { up.boot with act := 0 } }, by decide, by decide⟩⟩

theorem test_meets_BootStart :
    (∃ (i : StartInputs) (s : State), (s.boot.phase ≠ .released ∨ s.power.st ≠ .fullSail)) ∧
    (∃ (i : StartInputs) (s : State), s.boot.phase = .released ∧ s.power.st = .fullSail ∧ (bootRec s).seq + 1 < 2 ^ 32 ∧
      ((i.recoverLow = true ∨ (i.recoverLow = false ∧ (bootRec s).failCnt = 3)))) ∧
    (∃ (i : StartInputs) (p : PenegImage) (s : State),
      s.boot.phase = .released ∧ s.power.st = .fullSail ∧ (bootRec s).seq + 1 < 2 ^ 32 ∧ i.recoverLow = false ∧
      (bootRec s).failCnt ≠ 3 ∧ (bootRec s).trial = false ∧ bankState s (bootRec s).activeBank = .active ∧
      bankImage s (bootRec s).activeBank = some p ∧
      ((∀ u : State, u.till = (tillBoot i (ledgerStart i.ledger i.ledgerOfs s)).till → u.regs = (tillBoot i (ledgerStart i.ledger i.ledgerOfs s)).regs → (bootRec u).secMin = (bootRec s).secMin → checkCode u (bankCheck i (bootRec s).activeBank) (some p) = 0)) ∧
      (tillBoot i (ledgerStart i.ledger i.ledgerOfs s)).till.st ≠ .sealed) :=
  ⟨⟨{ recoverLow := false, pufOk := false, selfTestOk := false, ledger := 0, ledgerOfs := 0#32, checkA := { formatOk := false, sigOk := false, fwSigOk := false, hashOk := false }, checkB := { formatOk := false, sigOk := false, fwSigOk := false, hashOk := false }, fcalOk := false, fwVersion := 0#32, bootMs := 0#16 },
    up, by decide⟩,
   ⟨{ recoverLow := true, pufOk := false, selfTestOk := false, ledger := 0, ledgerOfs := 0#32, checkA := { formatOk := false, sigOk := false, fwSigOk := false, hashOk := false }, checkB := { formatOk := false, sigOk := false, fwSigOk := false, hashOk := false }, fcalOk := false, fwVersion := 0#32, bootMs := 0#16 },
    { up with boot := { up.boot with phase := .released }, power := { st := .fullSail } }, by decide, by decide, by decide,
    by decide⟩,
   ⟨{ recoverLow := false, pufOk := true, selfTestOk := true, ledger := 0, ledgerOfs := 0#32, checkA := { formatOk := true, sigOk := true, fwSigOk := true, hashOk := true }, checkB := { formatOk := true, sigOk := true, fwSigOk := true, hashOk := true }, fcalOk := true, fwVersion := 0#32, bootMs := 0#16 },
    img1,
    { up with boot := { up.boot with phase := .released, images := [(0, some img1)], copyA := { bankA := .active } }, power := { st := .fullSail } },
    by decide, by decide, by decide, by decide, by decide, by decide, by decide, by decide,
    fun u _ h2 h3 => img1_good u (by unfold rdF rd; rw [h2]; decide) h3, by decide⟩⟩

theorem test_meets_ServiceRequests :
    (∃ (h : SvcHdr) (bank : Fin 2) (ofs : BitVec 26) (data : List (BitVec 8)) (cmd : BitVec 8) (code : BitVec 8) (check : BankCheck) (args : List Word) (mbox : List (BitVec 8)) (cert : Bool) (ok : Bool) (w : Word) (c : Instr) (s : State),
      c ∈ [.svcInfo h, .svcErase h bank, .svcWrite h bank ofs data, .svcVerify h bank, .svcActivate h cmd check, .svcTill h code args mbox cert ok, .svcReboot h bank, .svcLog h w] ∧
      h.crcOk = false) ∧
    (∃ (h : SvcHdr) (bank : Fin 2) (ofs : BitVec 26) (data : List (BitVec 8)) (cmd : BitVec 8) (code : BitVec 8) (check : BankCheck) (args : List Word) (mbox : List (BitVec 8)) (cert : Bool) (ok : Bool) (w : Word) (c : Instr) (n : Nat) (s : State),
      (c, n) ∈ [(Instr.svcInfo h, 1), (.svcErase h bank, 2), (.svcWrite h bank ofs data, 3), (.svcVerify h bank, 4), (.svcActivate h cmd check, 5), (.svcTill h code args mbox cert ok, 6), (.svcReboot h bank, 7), (.svcLog h w, 8)] ∧
      h.crcOk = true ∧ s.power.st = .fullSail ∧ s.boot.phase = .running ∧ s.boot.mode = .normal ∧ s.deck.st = .restarting) ∧
    (∃ (h : SvcHdr) (s : State),
      h.crcOk = true ∧ s.power.st = .fullSail ∧ s.boot.phase = .running ∧ ((s.boot.mode ≠ .normal ∨ s.deck.st = .run))) ∧
    (∃ (h : SvcHdr) (w : Word) (s : State),
      h.crcOk = true ∧ s.power.st = .fullSail ∧ s.boot.phase = .running ∧ ((s.boot.mode ≠ .normal ∨ s.deck.st = .run))) ∧
    (∃ (h : SvcHdr) (bank : Fin 2) (erase : Bool) (c : Instr) (s : State),
      (c, erase) ∈ [(Instr.svcErase h bank, true), (.svcVerify h bank, false)] ∧ h.crcOk = true ∧ s.power.st = .fullSail ∧
      s.boot.phase = .running ∧ ((s.boot.mode ≠ .normal ∨ s.deck.st = .run)) ∧ ((erase = true → uploadAllowed s = true)) ∧
      jobRefusal s bank.val = 0) ∧
    (∃ (h : SvcHdr) (bank : Fin 2) (ofs : BitVec 26) (data : List (BitVec 8)) (s : State),
      h.crcOk = true ∧ s.power.st = .fullSail ∧ s.boot.phase = .running ∧ ((s.boot.mode ≠ .normal ∨ s.deck.st = .run)) ∧
      uploadAllowed s = true ∧ bankState s bank.val = .empty ∧ (bootRec s).seq + 1 < 2 ^ 32) ∧
    (∃ (h : SvcHdr) (cmd : BitVec 8) (check : BankCheck) (s : State),
      h.crcOk = true ∧ s.power.st = .fullSail ∧ s.boot.phase = .running ∧ s.deck.st = .run ∧ s.boot.mode = .normal ∧
      rdB s BOT_CTRL 0 = true ∧ fieldN cmd.toNat 0 3 = 2 ∧
      actRefusal s false (fieldN cmd.toNat 3 1) (cmd.toNat.testBit 4) = 0 ∧
      checkCode s check (bankImage s (fieldN cmd.toNat 3 1)) = 0) ∧
    (∃ (h : SvcHdr) (cmd : BitVec 8) (check : BankCheck) (s : State),
      h.crcOk = true ∧ s.power.st = .fullSail ∧ s.boot.phase = .running ∧ s.deck.st = .run ∧ s.boot.mode = .normal ∧
      rdB s BOT_CTRL 0 = true ∧ fieldN cmd.toNat 0 3 = 3 ∧ actRefusal s true (fieldN cmd.toNat 3 1) (cmd.toNat.testBit 4) = 0 ∧
      checkCode s check (bankImage s (fieldN cmd.toNat 3 1)) = 0) ∧
    (∃ (h : SvcHdr) (code : BitVec 8) (args : List Word) (mbox : List (BitVec 8)) (cert : Bool) (ok : Bool) (s : State),
      h.crcOk = true ∧ s.power.st = .fullSail ∧ s.boot.phase = .running ∧ ((s.boot.mode ≠ .normal ∨ s.deck.st = .run)) ∧
      svcTillAllows s code.toNat = true ∧ s.till.running = none ∧ s.till.queue = []) ∧
    (∃ (h : SvcHdr) (bank : Fin 2) (s : State),
      h.crcOk = true ∧ s.power.st = .fullSail ∧ s.boot.phase = .running ∧ s.boot.mode ≠ .normal ∧
      bankState s bank.val = .valid ∧ (bootRec s).seq + 1 < 2 ^ 32) ∧
    (∃ (h : SvcHdr) (bank : Fin 2) (s : State),
      h.crcOk = true ∧ s.power.st = .fullSail ∧ s.boot.phase = .running ∧ s.boot.mode = .normal ∧ s.deck.st = .run) :=
  ⟨⟨{ crcOk := false, seq := 0#32 }, 0, 0#26, [], 0#8, 0#8,
    { formatOk := false, sigOk := false, fwSigOk := false, hashOk := false }, [], [], false, false, 0#32,
    (.svcInfo ({ crcOk := false, seq := 0#32 })), up, by decide, by decide⟩,
   ⟨{ crcOk := true, seq := 0#32 }, 0, 0#26, [], 0#8, 0#8,
    { formatOk := false, sigOk := false, fwSigOk := false, hashOk := false }, [], [], false, false, 0#32,
    (Instr.svcInfo ({ crcOk := true, seq := 0#32 })), 1,
    { up with power := { st := .fullSail }, boot := { up.boot with phase := .running, mode := .normal }, deck := { st := .restarting } },
    by decide, by decide, by decide, by decide, by decide, by decide⟩,
   ⟨{ crcOk := true, seq := 0#32 },
    { up with power := { st := .fullSail }, boot := { up.boot with phase := .running, mode := .recovery } }, by decide,
    by decide, by decide, by decide⟩,
   ⟨{ crcOk := true, seq := 0#32 }, 0#32,
    { up with power := { st := .fullSail }, boot := { up.boot with phase := .running, mode := .recovery } }, by decide,
    by decide, by decide, by decide⟩,
   ⟨{ crcOk := true, seq := 0#32 }, 0, true, (Instr.svcErase ({ crcOk := true, seq := 0#32 }) 0),
    { up with power := { st := .fullSail }, boot := { up.boot with phase := .running, mode := .recovery } }, by decide,
    by decide, by decide, by decide, by decide, by decide, by decide⟩,
   ⟨{ crcOk := true, seq := 0#32 }, 0, 0#26, [],
    { up with power := { st := .fullSail }, boot := { up.boot with phase := .running, mode := .recovery } }, by decide,
    by decide, by decide, by decide, by decide, by decide, by decide⟩,
   ⟨{ crcOk := true, seq := 0#32 }, 10#8, { formatOk := true, sigOk := true, fwSigOk := true, hashOk := true },
    wrF BOT_CTRL 0 1 1 ({ up with power := { st := .fullSail }, boot := { up.boot with phase := .running, mode := .normal, copyA := { bankB := .valid }, running := some img1, images := [(1, some img1)] }, deck := { st := .run } }),
    by decide, by decide, by decide, by decide, by decide, by decide, by decide, by decide, by decide⟩,
   ⟨{ crcOk := true, seq := 0#32 }, 11#8, { formatOk := true, sigOk := true, fwSigOk := true, hashOk := true },
    wrF BOT_CTRL 0 1 1 ({ up with power := { st := .fullSail }, boot := { up.boot with phase := .running, mode := .normal, copyA := { bankB := .valid }, running := some img1, images := [(1, some img1)] }, deck := { st := .run } }),
    by decide, by decide, by decide, by decide, by decide, by decide, by decide, by decide, by decide⟩,
   ⟨{ crcOk := true, seq := 0#32 }, 0x12#8, [], [], false, false,
    { up with power := { st := .fullSail }, boot := { up.boot with phase := .running, mode := .recovery }, till := { running := none, queue := [] } },
    by decide, by decide, by decide, by decide, by decide, by decide, by decide⟩,
   ⟨{ crcOk := true, seq := 0#32 }, 0,
    { up with power := { st := .fullSail }, boot := { up.boot with phase := .running, mode := .recovery, copyA := { bankA := .valid } } },
    by decide, by decide, by decide, by decide, by decide, by decide⟩,
   ⟨{ crcOk := true, seq := 0#32 }, 0,
    { up with power := { st := .fullSail }, boot := { up.boot with phase := .running, mode := .normal }, deck := { st := .run } },
    by decide, by decide, by decide, by decide, by decide⟩⟩

theorem test_meets_PowerStates :
    (∃ (s : State), s.power.st = .furled ∧ s.sentry.furlLatch = false ∧ s.power.tries = 0 ∧ 21 ≤ s.power.vinHigh) ∧
    (∃ (r : Fin 8) (s : State), s.power.st = .furled ∧ s.sentry.furlLatch = false ∧ s.power.tries = 0 ∧ 21 ≤ s.power.vinHigh) ∧
    (∃ (s : State), s.power.st = .furled ∧ s.sentry.furlLatch = false ∧ 0 < s.power.tries ∧ s.power.tries < 3 ∧
      32768 ≤ (s.sentry.tick + 2 ^ 48 - s.power.triedAt) % 2 ^ 48) ∧
    (∃ (r : Fin 8) (s : State), s.power.st = .furled ∧ s.sentry.furlLatch = false ∧ s.power.tries = 1 ∧
      32768 ≤ (s.sentry.tick + 2 ^ 48 - s.power.triedAt) % 2 ^ 48) ∧
    (∃ (r : Fin 8) (s : State), s.power.st = .furled ∧ s.sentry.furlLatch = false ∧ s.power.tries = 2 ∧
      32768 ≤ (s.sentry.tick + 2 ^ 48 - s.power.triedAt) % 2 ^ 48) ∧
    (∃ (f : Option (Fin 8)) (c : Instr) (s : State),
      c ∈ [.powerUp f, .railRetry f] ∧ ((s.power.st ≠ .furled ∨ s.sentry.furlLatch = true ∨ 3 ≤ s.power.tries))) ∧
    (∃ (s : State), s.power.st = .fullSail ∧ s.boot.started = true ∧ 2400 ≤ rdF s PWR_HU 0 16 ∧
      storeThin (reefEnter 1 { s with power := { s.power with vin := 0, vinHigh := 0 } }) = false) ∧
    (∃ (s : State), s.power.st = .fullSail ∧ ((s.boot.started = false ∨ rdF s PWR_HU 0 16 < 2400))) ∧
    (∃ (s : State), s.power.st = .fullSail ∧ s.boot.started = true ∧ 2400 ≤ rdF s PWR_HU 0 16 ∧
      storeThin (reefEnter 1 { s with power := { s.power with vin := 0, vinHigh := 0 } }) = true) ∧
    (∃ (s : State), s.power.st ≠ .fullSail) ∧
    (∃ (s : State), s.power.st = .reefed ∧ rdF s PWR_HU 0 16 ≤ 2400) ∧
    (∃ (s : State), (s.power.st ≠ .reefed ∨ 2400 < rdF s PWR_HU 0 16)) ∧
    (∃ (who : Req) (s : State), Served who PWR_CMD s ∧ s.boot.started = true) ∧
    (∃ (who : Req) (key : BitVec 16) (s : State), Served who PWR_CMD s ∧ ((key ≠ 0xF0A1#16 ∨ s.boot.started = false))) ∧
    (∃ (v : Word) (s : State), s.power.st = .reefed ∧
      ((s.power.why = 1 ∧ 101 ≤ s.power.vinHigh ∨ s.power.why = 2 ∧ dieTemp s ≤ 8 * (rdF s PWR_CFG 24 8 : Nat)))) ∧
    (∃ (cf : BitVec 16) (s : State), TablesWf s ∧ s.power.st = .fullSail) ∧
    (∃ (v : Word) (s : State),
      ((s.power.st ≠ .reefed ∨ s.power.why = 1 ∧ s.power.vinHigh < 101 ∨ s.power.why = 2 ∧ ¬ dieTemp s ≤ 8 * (rdF s PWR_CFG 24 8 : Nat) ∨ s.power.why = 3))) ∧
    (∃ (cf : BitVec 16) (s : State), s.power.st ≠ .fullSail) :=
  ⟨⟨{ up with power := { st := .furled, tries := 0, vinHigh := 21 }, sentry := { furlLatch := false } }, by decide, by decide,
    by decide, by decide⟩,
   ⟨0, { up with power := { st := .furled, tries := 0, vinHigh := 21 }, sentry := { furlLatch := false } }, by decide,
    by decide, by decide, by decide⟩,
   ⟨{ up with power := { st := .furled, tries := 1 }, sentry := { furlLatch := false, tick := 32768 } }, by decide, by decide,
    by decide, by decide, by decide⟩,
   ⟨0, { up with power := { st := .furled, tries := 1 }, sentry := { furlLatch := false, tick := 32768 } }, by decide,
    by decide, by decide, by decide⟩,
   ⟨0, { up with power := { st := .furled, tries := 2 }, sentry := { furlLatch := false, tick := 32768 } }, by decide,
    by decide, by decide, by decide⟩,
   ⟨none, (.powerUp none), up, by decide, by decide⟩,
   ⟨wrF PWR_HU 0 16 2400 ({ up with power := { st := .fullSail }, boot := { up.boot with started := true } }), by decide,
    by decide, by decide, by decide⟩,
   ⟨{ up with power := { st := .fullSail }, boot := { up.boot with started := false } }, by decide, by decide⟩,
   ⟨wrF PWR_HU 0 16 2400 (wrF PWR_HU 16 16 1 (wrF PWR_HU 0 16 2400 ({ up with power := { st := .fullSail }, boot := { up.boot with started := true } }))),
    by decide, by decide, by decide, by decide⟩,
   ⟨{ up with power := { st := .furled } }, by decide⟩,
   ⟨{ up with power := { st := .reefed } }, by decide, by decide⟩,
   ⟨up, by decide⟩,
   ⟨.host, { up with boot := { up.boot with started := true } }, ⟨by decide, fun _ => ⟨rfl, rfl⟩⟩, by decide⟩,
   ⟨.host, 0#16, up, ⟨by decide, fun _ => ⟨rfl, rfl⟩⟩, by decide⟩,
   ⟨0#32, { up with power := { st := .reefed, why := 1, vinHigh := 101 } }, by decide, by decide⟩,
   ⟨0#16, { up with power := { st := .fullSail } }, ⟨by decide, by decide⟩, by decide⟩,
   ⟨0#32, up, by decide⟩,
   ⟨0#16, { up with power := { st := .furled } }, by decide⟩⟩

theorem test_meets_PowerMeasurements :
    (∃ (temp : BitVec 16) (s : State),
      TablesWf s ∧ s.power.st = .fullSail ∧ s.boot.started = false ∧ s.power.sensorDue ≤ s.ticks ∧ -400 ≤ temp.toInt ∧
      temp.toInt ≤ 1000 ∧ ((8 * (rdF s PWR_CFG 16 8 : Nat) ≤ temp.toInt → s.power.hot < 10))) ∧
    (∃ (temp : BitVec 16) (s : State),
      s.power.st = .fullSail ∧ s.boot.started = false ∧ s.power.sensorDue ≤ s.ticks ∧ temp.toInt ≤ 1000 ∧ -400 ≤ temp.toInt ∧
      s.power.hot = 10 ∧ 8 * (rdF s PWR_CFG 16 8 : Nat) ≤ temp.toInt) ∧
    (∃ (temp : BitVec 16) (s : State),
      s.power.st = .fullSail ∧ s.boot.started = true ∧ s.power.sensorDue ≤ s.ticks ∧ temp.toInt ≤ 1000 ∧ -400 ≤ temp.toInt ∧
      s.power.hot = 10 ∧ 8 * (rdF s PWR_CFG 16 8 : Nat) ≤ temp.toInt) ∧
    (∃ (temp : BitVec 16) (s : State),
      s.power.st = .fullSail ∧ s.boot.started = true ∧ s.power.sensorDue ≤ s.ticks ∧ temp.toInt ≤ 1000 ∧ -400 ≤ temp.toInt ∧
      ((8 * (rdF s PWR_CFG 16 8 : Nat) ≤ temp.toInt → s.power.hot < 10))) ∧
    (∃ (temp : BitVec 16) (s : State),
      s.power.st ≠ .furled ∧ s.power.sensorDue ≤ s.ticks ∧ ((temp.toInt < -400 ∨ 1000 < temp.toInt))) ∧
    (∃ (temp : Int) (s : State), TablesWf s ∧ s.power.shed < 4 ∧ shedEnter s (s.power.shed + 1) ≤ temp) ∧
    (∃ (temp : Int) (s : State), (¬ (s.power.shed < 4 ∧ shedEnter s (s.power.shed + 1) ≤ temp)) ∧ 0 < s.power.shed ∧
      10001 ≤ tget 0 (calmCount s temp) s.power.shed) ∧
    (∃ (temp : BitVec 16) (s : State), (s.power.st = .furled ∨ s.ticks < s.power.sensorDue)) ∧
    (∃ (rails : List (Nat × Nat)) (vin : BitVec 16) (iin : BitVec 16) (vstore : BitVec 16) (pmw : Word) (s : State),
      s.power.st = .furled) ∧
    (∃ (rails : List (Nat × Nat)) (vin : BitVec 16) (iin : BitVec 16) (vstore : BitVec 16) (pmw : Word) (s : State),
      s.power.st ≠ .furled ∧ s.ticks < s.power.measDue) ∧
    (∃ (mv : Nat) (ma : Nat) (vin : BitVec 16) (iin : BitVec 16) (vstore : BitVec 16) (pmw : Word) (s : State),
      TablesWf s ∧ s.power.st ≠ .furled ∧ s.power.measDue ≤ s.ticks ∧ voltTamper s = false) ∧
    (∃ (who : Req) (k : Fin 8) (s : State), TablesWf s ∧ Served who PWR_RAIL_IDX s) :=
  ⟨⟨0#16, { up with power := { st := .fullSail }, boot := { up.boot with started := false } }, ⟨by decide, by decide⟩,
    by decide, by decide, by decide, by decide, by decide, by decide⟩,
   ⟨0#16, { up with power := { st := .fullSail, hot := 10 }, boot := { up.boot with started := false } }, by decide, by decide,
    by decide, by decide, by decide, by decide, by decide⟩,
   ⟨0#16, { up with power := { st := .fullSail, hot := 10 }, boot := { up.boot with started := true } }, by decide, by decide,
    by decide, by decide, by decide, by decide, by decide⟩,
   ⟨0#16, { up with power := { st := .fullSail }, boot := { up.boot with started := true } }, by decide, by decide, by decide,
    by decide, by decide, by decide⟩,
   ⟨2000#16, up, by decide, by decide, by decide⟩,
   ⟨0, up, ⟨by decide, by decide⟩, by decide, by decide⟩,
   ⟨-10000, { up with power := { shed := 1, calm := [(1, 10000)] } }, by decide, by decide, by decide⟩,
   ⟨0#16, { up with power := { st := .furled } }, by decide⟩,
   ⟨[], 0#16, 0#16, 0#16, 0#32, { up with power := { st := .furled } }, by decide⟩,
   ⟨[], 0#16, 0#16, 0#16, 0#32, { up with power := { measDue := 1 } }, by decide, by decide⟩,
   ⟨0, 0, 0#16, 0#16, 0#16, 0#32, { up with power := { rails := [(4, { mv := 750 }), (5, { mv := 800 })] } },
    ⟨by decide, by decide⟩, by decide, by decide, by decide⟩,
   ⟨.host, 0, up, ⟨by decide, by decide⟩, ⟨by decide, fun _ => ⟨rfl, rfl⟩⟩⟩⟩

theorem test_meets_HostInterface :
    (∃ (kind : LinkReset) (s : State), TablesWf s ∧ s.power.st = .fullSail) ∧
    (∃ (s : State), s.power.st = .fullSail) ∧
    (∃ (v : Fin 16) (s : State),
      Served .host HST_EOI s ∧ vectorTrue s v.val = true ∧ s.host.funcMask = false ∧ rdB s (MSIX_CTRL v.val) 0 = false) ∧
    (∃ (v : Fin 16) (s : State),
      Served .host HST_EOI s ∧ vectorTrue s v.val = true ∧ ((s.host.funcMask = true ∨ rdB s (MSIX_CTRL v.val) 0 = true))) ∧
    (∃ (v : Fin 16) (s : State), Served .host HST_EOI s ∧ vectorTrue s v.val = false) ∧
    (∃ (v : Fin 16) (w : Fin 4) (x : Word) (s : State), TablesWf s ∧ Served .host (MSIX_ADDR v.val + 4 * w.val) s) ∧
    (∃ (ofs : BitVec 20) (s : State),
      Served .host HST_ID s ∧ responds s (ofs.toNat / 4 * 4) = true ∧ ownRead (ofs.toNat / 4 * 4) = false ∧
      ofs.toNat / 4 * 4 % 8 = 0) ∧
    (∃ (ofs : BitVec 20) (w : Word) (s : State),
      Served .host HST_ID s ∧ responds s (ofs.toNat / 4 * 4) = true ∧ ownRead (ofs.toNat / 4 * 4) = false ∧
      ofs.toNat / 4 * 4 % 8 = 4 ∧ s.host.shadow = some (ofs.toNat / 4 * 4 - 4, w)) ∧
    (∃ (who : Req) (ch : Option (Fin 24)) (s : State), TablesWf s ∧ Served who (clearedReg ch) s) ∧
    (∃ (c : Instr) (r : List Instr) (a : Nat) (s : State),
      TablesWf s ∧ s.power.st = .fullSail ∧ s.host.held = c :: r ∧ heldOfs c = some a ∧ s.host.heldAt + 2500000 ≤ s.ticks) ∧
    (∃ (s : State), s.power.st = .fullSail ∧ (s.host.held = [] ∨ s.ticks < s.host.heldAt + 2500000)) ∧
    (∃ (ofs : BitVec 20) (len : Nat) (write : Bool) (s : State),
      TablesWf s ∧ Served .host HST_ID s ∧ acceptable ofs.toNat len write = false) ∧
    (∃ (ofs : BitVec 20) (len : Nat) (write : Bool) (s : State),
      Served .host HST_ID s ∧ acceptable ofs.toNat len write = true) :=
  ⟨⟨.flr, { up with power := { st := .fullSail } }, ⟨by decide, by decide⟩, by decide⟩,
   ⟨{ up with power := { st := .fullSail } }, by decide⟩,
   ⟨5, wrF (MSIX_CTRL 5) 0 1 0 (wr ING_INT 1#32 (wr ING_INT_EN 1#32 ({ up with host := { funcMask := false } }))),
    ⟨by decide, fun _ => ⟨rfl, rfl⟩⟩, by decide, by decide, by decide⟩,
   ⟨5, wrF (MSIX_CTRL 5) 0 1 1 (wr ING_INT 1#32 (wr ING_INT_EN 1#32 ({ up with host := { funcMask := true } }))),
    ⟨by decide, fun _ => ⟨rfl, rfl⟩⟩, by decide, by decide⟩,
   ⟨0, up, ⟨by decide, fun _ => ⟨rfl, rfl⟩⟩, by decide⟩,
   ⟨0, 0, 0#32, up, ⟨by decide, by decide⟩, ⟨by decide, fun _ => ⟨rfl, rfl⟩⟩⟩,
   ⟨0#20, up, ⟨by decide, fun _ => ⟨rfl, rfl⟩⟩, by decide, by decide, by decide⟩,
   ⟨4#20, 0#32, { up with host := { shadow := some ((4#20 : BitVec 20).toNat / 4 * 4 - 4, (0#32 : Word)) } },
    ⟨by decide, fun _ => ⟨rfl, rfl⟩⟩, by decide, by decide, by decide, by decide⟩,
   ⟨.host, none, up, ⟨by decide, by decide⟩, ⟨by decide, fun _ => ⟨rfl, rfl⟩⟩⟩,
   ⟨.qCommit .host 0 0 0#14, [], EGR_Q_COMMIT 0,
    { up with power := { st := .fullSail }, host := { held := (.qCommit .host 0 0 0#14 : Instr) :: [] }, ticks := 10 ^ 11 },
    ⟨by decide, by decide⟩, by decide, by decide, by decide, by decide⟩,
   ⟨{ up with power := { st := .fullSail }, host := { held := [] } }, by decide, by decide⟩,
   ⟨0#20, 0, false, up, ⟨by decide, by decide⟩, ⟨by decide, fun _ => ⟨rfl, rfl⟩⟩, by decide⟩,
   ⟨0#20, 4, false, up, ⟨by decide, fun _ => ⟨rfl, rfl⟩⟩, by decide⟩⟩

theorem test_meets_HostWindows :
    (∃ (w : Win) (v : BitVec 64) (r : List (BitVec 64)) (s : State),
      Served .host (winBase w) s ∧ winBusy s w = true ∧ (window s (winIdx w)).words = v :: r) ∧
    (∃ (w : Win) (poison : List Bool) (s : State),
      TablesWf s ∧ Served .host (winBase w) s ∧ (window s (winIdx w)).words = [] ∧ (window s (winIdx w)).cutAt ≠ some s.ticks) ∧
    (∃ (w : Win) (poison : List Bool) (s : State),
      Served .host (winBase w) s ∧ w ≠ .capture ∧ w ≠ .ledger ∧ (window s (winIdx w)).words = [] ∧
      (window s (winIdx w)).cutAt = some s.ticks) ∧
    (∃ (w : Win) (v : BitVec 64) (r : List (BitVec 64)) (ps : List Bool) (s : State),
      TablesWf s ∧ Served .host (winBase w) s ∧ (window s (winIdx w)).words = v :: r ∧ winBusy s w = true) ∧
    (∃ (w : Win) (l : List (BitVec 64)) (r : List (BitVec 64)) (s : State),
      Served .host (winBase w) s ∧ w ≠ .capture ∧ w ≠ .ledger ∧ winBusy s w = true ∧ (window s (winIdx w)).more = false ∧
      (window s (winIdx w)).words = l ++ r ∧ l.length ≤ 64) ∧
    (∃ (w : Win) (v : BitVec 64) (r : List (BitVec 64)) (s : State),
      Served .host (winBase w) s ∧ (window s (winIdx w)).words = v :: r) ∧
    (∃ (v : BitVec 64) (n : Nat) (s : State),
      TablesWf s ∧ Served .host (winBase .capture) s ∧ winBusy s .capture = true ∧ (window s 2).words = [v] ∧
      (window s 2).more = false ∧ s.cap.exporting = some n) ∧
    (∃ (w : Win) (s : State), Served .host (winBase w) s ∧ w ≠ .mirror) ∧
    (∃ (s : State), Served .host (winBase .mirror) s ∧ s.pair.mirrorEnergy = none ∧ s.pair.mirror.flatten ≠ []) ∧
    (∃ (s : State), Served .host (winBase .mirror) s ∧ s.pair.mirrorEnergy = none ∧ s.pair.mirror.flatten = []) ∧
    (∃ (w : Win) (s : State),
      Served .host (winBase w) s ∧ w ∈ [.tableau, .ribbon, .modeShape, .island, .mirror, .attestation] ∧
      (window s (winIdx w)).ended = false) ∧
    (∃ (r : Nat) (s : State),
      Served .host (winBase .capture) s ∧ s.cap.exporting = some r ∧ (window s (winIdx .capture)).ended = false) ∧
    (∃ (s : State), TablesWf s ∧ Served .host (winBase .ledger) s ∧ (window s (winIdx .ledger)).ended = false) ∧
    (∃ (c : Fin 4) (s : State), Served .host (winBase (.deckSampling c)) s) ∧
    (∃ (who : Req) (ofs : BitVec 17) (be : BitVec 8) (v : BitVec 64) (s : State),
      TablesWf s ∧ Served who (8 * ofs.toNat) s ∧ writeHolds (8 * ofs.toNat) s = false ∧
      writeHolds (8 * ofs.toNat + 4) s = false ∧ postedReg (8 * ofs.toNat) = false ∧ postedReg (8 * ofs.toNat + 4) = false ∧
      ((∀ u, writeEffect (8 * ofs.toNat) u = u)) ∧ ((∀ u, writeEffect (8 * ofs.toNat + 4) u = u))) ∧
    (∃ (who : Req) (ofs : BitVec 17) (be : BitVec 8) (v : BitVec 64) (r : RegRow) (s : State),
      Served who (8 * ofs.toNat) s ∧ writeHolds (8 * ofs.toNat) s = false ∧ postedReg (8 * ofs.toNat) = true ∧
      regRow? (8 * ofs.toNat) = some r ∧ byteMask (be.toNat / 16) = 0#32 ∧ byteMask (be.toNat % 16) ≠ 0#32) ∧
    (∃ (ofs : BitVec 17) (be : BitVec 8) (v : BitVec 64) (s : State), Served .host (8 * ofs.toNat) s ∧
      (((byteMask (be.toNat % 16) ≠ 0#32 ∧ writeHolds (8 * ofs.toNat) s = true) ∨ (byteMask (be.toNat / 16) ≠ 0#32 ∧ writeHolds (8 * ofs.toNat + 4) s = true)))) ∧
    (∃ (v : BitVec 64) (who : Req) (s : State), TablesWf s ∧ Served who PWR_CTRL s) ∧
    (∃ (v : BitVec 64) (who : Req) (ch : Fin 24) (s : State),
      TablesWf s ∧ Served who (SCL_CH_UGAIN ch.val) s ∧ Served who (SCL_CH_UDLY ch.val) s) ∧
    (∃ (v : BitVec 64) (who : Req) (c : Fin 4) (s : State),
      TablesWf s ∧ Served who (CTL_PC_STAT c.val) s ∧ v.toNat.testBit 11 = true) ∧
    (∃ (v : BitVec 64) (who : Req) (s : State), Served who 0x4068 s) :=
  ⟨⟨.tableau, 0#64, [], { up with host := { windows := [(0, { ended := false, words := [(0#64 : BitVec 64)] })] } },
    ⟨by decide, fun _ => ⟨rfl, rfl⟩⟩, by decide, by decide⟩,
   ⟨.tableau, [], { up with host := { windows := [((winIdx (.tableau : Win)), { words := [] })] } }, ⟨by decide, by decide⟩,
    ⟨by decide, fun _ => ⟨rfl, rfl⟩⟩, by decide, by decide⟩,
   ⟨.tableau, [], { up with host := { windows := [(0, { cutAt := some 0 })] } }, ⟨by decide, fun _ => ⟨rfl, rfl⟩⟩, by decide,
    by decide, by decide, by decide⟩,
   ⟨.tableau, 0#64, [], [], { up with host := { windows := [(0, { ended := false, words := [(0#64 : BitVec 64)] })] } },
    ⟨by decide, by decide⟩, ⟨by decide, fun _ => ⟨rfl, rfl⟩⟩, by decide, by decide⟩,
   ⟨.tableau, [], [], { up with host := { windows := [(0, { ended := false, words := [] })] } },
    ⟨by decide, fun _ => ⟨rfl, rfl⟩⟩, by decide, by decide, by decide, by decide, by decide, by decide⟩,
   ⟨.tableau, 0#64, [],
    { up with host := { windows := [((winIdx (.tableau : Win)), { words := (0#64 : BitVec 64) :: [] })] } },
    ⟨by decide, fun _ => ⟨rfl, rfl⟩⟩, by decide⟩,
   ⟨0#64, 0,
    { up with host := { windows := [(2, { ended := false, words := [(0#64 : BitVec 64)] })] }, cap := { exporting := some 0 } },
    ⟨by decide, by decide⟩, ⟨by decide, fun _ => ⟨rfl, rfl⟩⟩, by decide, by decide, by decide, by decide⟩,
   ⟨.tableau, up, ⟨by decide, fun _ => ⟨rfl, rfl⟩⟩, by decide⟩,
   ⟨{ up with pair := { mirrorEnergy := none, mirror := [[0#32]] } }, ⟨by decide, fun _ => ⟨rfl, rfl⟩⟩, by decide, by decide⟩,
   ⟨{ up with pair := { mirrorEnergy := none, mirror := [] } }, ⟨by decide, fun _ => ⟨rfl, rfl⟩⟩, by decide, by decide⟩,
   ⟨.tableau, { up with host := { windows := [((winIdx (.tableau : Win)), { ended := false })] } },
    ⟨by decide, fun _ => ⟨rfl, rfl⟩⟩, by decide, by decide⟩,
   ⟨0, { up with cap := { exporting := some 0 }, host := { windows := [((winIdx .capture), { ended := false })] } },
    ⟨by decide, fun _ => ⟨rfl, rfl⟩⟩, by decide, by decide⟩,
   ⟨{ up with host := { windows := [((winIdx .ledger), { ended := false })] } }, ⟨by decide, by decide⟩,
    ⟨by decide, fun _ => ⟨rfl, rfl⟩⟩, by decide⟩,
   ⟨0, up, ⟨by decide, fun _ => ⟨rfl, rfl⟩⟩⟩,
   ⟨.host, 0#17, 0#8, 0#64, up, ⟨by decide, by decide⟩, ⟨by decide, fun _ => ⟨rfl, rfl⟩⟩, by decide, by decide, by decide,
    by decide, fun _ => rfl, fun _ => rfl⟩,
   ⟨.host, 0xC04#17, 15#8, 0#64, (regRow? 0x6020).get (by decide), up, ⟨by decide, fun _ => ⟨rfl, rfl⟩⟩, by decide, by decide,
    (Option.some_get _).symm, by decide, by decide⟩,
   ⟨0xE005#17, 1#8, 0#64, { up with till := { queue := [{ iface := 0, code := 0, args := [], mbox := [] }] } },
    ⟨by decide, fun _ => ⟨rfl, rfl⟩⟩, by decide⟩,
   ⟨0#64, .host, up, ⟨by decide, by decide⟩, ⟨by decide, fun _ => ⟨rfl, rfl⟩⟩⟩,
   ⟨0#64, .host, 0, up, ⟨by decide, by decide⟩, ⟨by decide, fun _ => ⟨rfl, rfl⟩⟩, ⟨by decide, fun _ => ⟨rfl, rfl⟩⟩⟩,
   ⟨0x800#64, .host, 0, up, ⟨by decide, by decide⟩, ⟨by decide, fun _ => ⟨rfl, rfl⟩⟩, by decide⟩,
   ⟨0#64, .host, up, ⟨by decide, fun _ => ⟨rfl, rfl⟩⟩⟩⟩

end Sys2Proof.Machine
end

section
/-!
PROOFS of the family 02_mast_time: the write of the TAI increment (R29, Table 2.3).
-/

namespace Sys2Proof.Machine

open Sys2Proof

/-! The three answers of an increment write. -/

theorem incrWrite_of_held (v : Word) (s : State) (h : s.mast.st = .held) : incrWrite v s = raise MST_INT 2 s := if_pos h

theorem incrWrite_of_mem_range (v : Word) (s : State) (h : s.mast.st ≠ .held)
    (hv : 0x3FF7CED9 ≤ v.toNat ∧ v.toNat ≤ 0x40083127) :
    incrWrite v s = wr MST_INCR v { s with mast := { s.mast with incrAt := s.ticks } } :=
  (if_neg h).trans (if_pos hv)

theorem incrWrite_of_not_mem_range (v : Word) (s : State) (h : s.mast.st ≠ .held)
    (hv : ¬ (0x3FF7CED9 ≤ v.toNat ∧ v.toNat ≤ 0x40083127)) : incrWrite v s = raise MST_INT 3 s :=
  (if_neg h).trans (if_neg hv)

/-- A value in range becomes the increment; the Mast keeps the tick of the write beside, and the TAI counter stays. -/
theorem incrWrite_takes (v : Word) (s : State) (hs : TablesWf s) (h : s.mast.st ≠ .held)
    (hv : 0x3FF7CED9 ≤ v.toNat ∧ v.toNat ≤ 0x40083127) :
    rd (incrWrite v s) MST_INCR = v ∧ (incrWrite v s).mast = { s.mast with incrAt := s.ticks } ∧ (incrWrite v s).tai = s.tai := by
  rw [incrWrite_of_mem_range v s h hv]
  exact ⟨rd_wr_same _ _ _ hs, rfl, rfl⟩

/-- Raising a bit of MST_INT, as a refused write does, sets it and leaves the increment and the Mast. -/
theorem raise_mstInt (k : Nat) (s : State) (hs : TablesWf s) (hk : k < 32) :
    rd (raise MST_INT k s) MST_INCR = rd s MST_INCR ∧ rdB (raise MST_INT k s) MST_INT k = true ∧
    (raise MST_INT k s).mast = s.mast :=
  ⟨rd_raise_ne _ _ _ _ (by decide) (by decide), rdB_raise_self hs (by decide) hk, raise_mast _ _ _⟩

/-- The TAI counter's tick adds the increment that MST_INCR holds (R27). -/
theorem taiTick_tai (s : State) : (taiTick s).tai = taiWrap (s.tai + (rd s MST_INCR).toNat) := rfl

/-- Settles O9: the write answers in one of three ways, by HELD and by the range of R29. -/
theorem mastIncrement : Obligations.MastIncrement := by
  unfold Obligations.MastIncrement
  refine ⟨?taken, ?rejected, ?blocked⟩
  case taken =>
    intro who v s hs hserved hst hlo hhi
    refine completes_served rfl hserved ?_
    obtain ⟨hincr, hmast, htai⟩ :=
      incrWrite_takes v (accessed who s) (accessed_tables who s hs) (by rwa [accessed_mast]) ⟨hlo, hhi⟩
    rw [accessed_mast, accessed_ticks] at hmast
    exact ⟨hincr, hmast, by rw [taiTick_tai, hincr, htai, accessed_tai]⟩
  case rejected =>
    intro who v s hs hserved hst hrange
    refine completes_served rfl hserved ?_
    rw [incrWrite_of_not_mem_range v _ (by rwa [accessed_mast]) hrange]
    simpa only [rd_accessed, accessed_mast] using raise_mstInt 3 _ (accessed_tables who s hs) (by decide)
  case blocked =>
    intro who v s hs hserved hst
    refine completes_served rfl hserved ?_
    rw [incrWrite_of_held v _ (by rwa [accessed_mast])]
    simpa only [rd_accessed, accessed_mast] using raise_mstInt 2 _ (accessed_tables who s hs) (by decide)

end Sys2Proof.Machine
end

section
/-!
PROOFS of the family 15_ledger_calendar: SEQ and EPOCH of the log (R367, R369, R375, R380).
-/

namespace Sys2Proof.Machine

open Sys2Proof

/-! The record number that follows, and the record that takes it. -/

theorem nextEpoch_eq (s : State) :
    nextEpoch s = if s.ledger.seq % 2 ^ 32 = 0xFFFFFFFF then (s.ledger.epoch + 1) % 256 else s.ledger.epoch := by
  have hwrap : nextSeq s = 0 ↔ s.ledger.seq % 2 ^ 32 = 0xFFFFFFFF := by unfold nextSeq; omega
  simp only [nextEpoch, hwrap]

/-- The Ledger after a record entered a log of the records `l`: the record is its newest and took the next SEQ and EPOCH. -/
def withNewest (l : List LRec) (r : LRec) (s : State) : Ledger :=
  { s.ledger with
    log := l ++ [{ r with seq := nextSeq s, epoch := nextEpoch s, frozen := false }], seq := nextSeq s, epoch := nextEpoch s }

theorem logAppend_ledger (r : LRec) (s : State) : (logAppend r s).ledger = withNewest s.ledger.log r s := by
  unfold logAppend
  dsimp only
  split
  · exact raise_ledger _ _ _
  · rfl

/-- Which records the log holds does not enter into the next SEQ and EPOCH. -/
theorem logAppend_ledger_of_log {l : List LRec} {s t : State} (r : LRec) (ht : t.ledger = { s.ledger with log := l }) :
    (logAppend r t).ledger = withNewest l r s := by
  rw [logAppend_ledger]
  unfold withNewest nextEpoch nextSeq
  rw [ht]

/-- With no record of an open read left to deliver, an overwrite ends no read. -/
theorem eventOverrun_of_evRead_nil (epoch seq : Nat) (s : State) (h : s.ledger.evRead = []) : eventOverrun epoch seq s = s := by
  unfold eventOverrun
  rw [h, List.drop_nil, if_neg List.not_mem_nil]

/-- A full log loses its oldest record of the lowest severity to a record not below that severity (R369). -/
theorem logWrite_replaces (r : LRec) (s : State) (hfull : 98304 ≤ s.ledger.log.length)
    (hsev : logLowest s.ledger.log ≤ r.sev) (hread : s.ledger.evRead = []) :
    (logWrite r s).ledger = withNewest (dropOldest (logLowest s.ledger.log) s.ledger.log) r s := by
  unfold logWrite
  rw [if_neg (show ¬ s.ledger.log.length < logSize from Nat.not_lt.mpr hfull)]
  dsimp only
  rw [if_pos hsev]
  refine logAppend_ledger_of_log r ((raise_ledger _ _ _).trans ?_)
  split
  · rw [eventOverrun_of_evRead_nil _ _ _ hread]; rfl
  · rfl

/-! The erase of a clear. -/

/-- EPOCH and SEQ of the newest record written. -/
def logPoint (s : State) : Nat × Nat := (s.ledger.epoch, s.ledger.seq)

theorem logPoint_of_ledger {s t : State} (h : t.ledger = s.ledger) : logPoint t = logPoint s := by
  simp only [logPoint, h]

theorem logPoint_ledgerOverrun (s : State) : logPoint (ledgerOverrun s) = logPoint s := by
  have hend : (endWindow .ledger whyOVERRUN (setLedger (fun l => { l with evRead := [], enRead := [] }) s)).ledger =
      { s.ledger with evRead := [], enRead := [] } :=
    (endWindow_within _ _ _ (Within.refl _) (List.Subset.refl _)).of .ledger
  simp only [logPoint, ledgerOverrun, wr_ledger, hend]

/-- A read that an erase overruns ends, and EPOCH and SEQ stay. -/
theorem logPoint_overrun {c : Prop} {_ : Decidable c} (s : State) : logPoint (if c then s else ledgerOverrun s) = logPoint s := by
  split
  · rfl
  · exact logPoint_ledgerOverrun s

/-! The erase of each area, and of the areas a scope names (R375). -/

def eraseEvents (s : State) : State :=
  forUpTo 8 (fun k t => wr (LDG_DROP k) 0#32 (wr (LDG_REFUSED k) 0#32 t)) (setLedger (fun l => { l with
    log := [], reefedSummary := [], reefedHeaders := [] }) (if s.ledger.evRead = [] then s else ledgerOverrun s))

def eraseTracks (s : State) : State :=
  setLedger (fun l => { l with tracks := [], copyA := none, copyB := none, badA := [], badB := [] }) s

def eraseEnergy (s : State) : State :=
  setEnergy (fun e => { e with records := [] }) (if s.ledger.enRead = [] then s else ledgerOverrun s)

def eraseBaselines (s : State) : State := { s with nest := { s.nest with baselines := [] } }

/-- An area whose bit the scope holds is erased. -/
def eraseIf (scope k : Nat) (erase : State → State) (s : State) : State := if scope.testBit k then erase s else s

theorem eraseScope_eq (scope : Nat) (s : State) : eraseScope scope s =
    eraseIf scope 3 eraseBaselines (eraseIf scope 2 eraseEnergy (eraseIf scope 1 eraseTracks (eraseIf scope 0 eraseEvents s))) :=
  rfl

theorem logPoint_clearCounters (n : Nat) (s : State) :
    logPoint (forUpTo n (fun k t => wr (LDG_DROP k) 0#32 (wr (LDG_REFUSED k) 0#32 t)) s) = logPoint s :=
  logPoint_of_ledger (foldl_keep State.ledger _ _ _ fun _ _ => rfl)

theorem logPoint_eraseEvents (s : State) : logPoint (eraseEvents s) = logPoint s := by
  unfold eraseEvents
  rw [logPoint_clearCounters]
  exact logPoint_overrun s

theorem logPoint_eraseEnergy (s : State) : logPoint (eraseEnergy s) = logPoint s := logPoint_overrun s

theorem logPoint_eraseIf {erase : State → State} (scope k : Nat) (s : State) (h : logPoint (erase s) = logPoint s) :
    logPoint (eraseIf scope k erase s) = logPoint s := by
  unfold eraseIf
  split
  · exact h
  · rfl

theorem logPoint_eraseScope (scope : Nat) (s : State) : logPoint (eraseScope scope s) = logPoint s := by
  rw [eraseScope_eq, logPoint_eraseIf _ _ _ rfl, logPoint_eraseIf _ _ _ (logPoint_eraseEnergy _), logPoint_eraseIf _ _ _ rfl,
    logPoint_eraseIf _ _ _ (logPoint_eraseEvents _)]

/-! The records from a start point. -/

theorem mem_eventsFrom (epoch seq : Nat) (r : LRec) (s : State) : r ∈ eventsFrom epoch seq s ↔
    r ∈ s.ledger.log ∧ (r.epoch * 2 ^ 32 + r.seq + 2 ^ 40 - (epoch * 2 ^ 32 + seq) % 2 ^ 40) % 2 ^ 40 < 2 ^ 39 := by
  simp only [eventsFrom, ledgerFrom, List.mem_filter, decide_eq_true_eq]

/-- Less than half the range apart, the cyclic order of two numbers of 40 bits is the plain one. -/
theorem cyclic_iff_le {a x : Nat} (ha : a < 2 ^ 40) (habove : x < a + 2 ^ 39) (hbelow : a < x + 2 ^ 39) :
    (x + 2 ^ 40 - a % 2 ^ 40) % 2 ^ 40 < 2 ^ 39 ↔ a ≤ x := by
  rw [Nat.mod_eq_of_lt ha]
  obtain hle | hlt := Nat.lt_or_ge x a |>.symm
  · have hdist : (x + 2 ^ 40 - a) % 2 ^ 40 = x - a := by omega
    omega
  · have hdist : (x + 2 ^ 40 - a) % 2 ^ 40 = x + 2 ^ 40 - a := by omega
    omega

/-- EPOCH above SEQ compares by EPOCH first and by SEQ second. -/
theorem point_le_iff {e q e' q' : Nat} (hq : q < 2 ^ 32) (hq' : q' < 2 ^ 32) :
    e * 2 ^ 32 + q ≤ e' * 2 ^ 32 + q' ↔ e < e' ∨ (e = e' ∧ q ≤ q') := by
  omega

/-- Settles O38: both ways into the log take the next SEQ and EPOCH, an erase takes none, and a start point selects
by their cyclic order. -/
theorem ledgerSequence : Obligations.LedgerSequence := by
  unfold Obligations.LedgerSequence
  refine ⟨?room, ?replaced, ?erase, mem_eventsFrom, ?order⟩
  case room =>
    intro r s hroom
    rw [logWrite_appends r s hroom]
    exact ⟨rfl, nextEpoch_eq s, rfl⟩
  case replaced =>
    intro r s hfull hsev hread
    rw [logWrite_replaces r s hfull hsev hread]
    exact ⟨rfl, nextEpoch_eq s, rfl⟩
  case erase =>
    intro scope s
    have hpoint := logPoint_eraseScope scope s
    exact ⟨congrArg Prod.snd hpoint, congrArg Prod.fst hpoint⟩
  case order =>
    intro epoch seq r s hr hseq hrseq hepoch _ habove hbelow
    rw [mem_eventsFrom, and_iff_right hr, cyclic_iff_le (by omega) (by omega) (by omega), point_le_iff hseq hrseq]

end Sys2Proof.Machine
end

section
/-!
PROOFS of the family 15_ledger_calendar: the day rule (R390), and a second boundary of the legacy calendar (R24, R383, R388, R389).
-/

namespace Sys2Proof.Machine

open Sys2Proof

/-! The day rule, one equation per way a date goes on. -/

theorem monthLen_eq (y m : Nat) : monthLen y m = if m = 4 ∨ m = 6 ∨ m = 9 ∨ m = 11 then 30
    else if m = 2 then (if y % 4 = 0 ∧ y ≠ 100 ∧ y ≤ 199 then 29 else 28) else 31 := by
  simp only [monthLen, leapYear, decide_eq_true_eq]

theorem monthLen_le (y m : Nat) : monthLen y m ≤ 31 := by
  unfold monthLen
  split
  · decide
  · split
    · split <;> decide
    · decide

/-- Day `a`, month `b` and year `c` written into a date. -/
def withDate (d : Word) (a b c : Nat) : Word := withField (withField (withField d 0 5 a) 8 4 b) 16 8 c

theorem field_withDate (d : Word) (a b c : Nat) : field (withDate d a b c) 0 5 = a % 2 ^ 5 ∧
    field (withDate d a b c) 8 4 = b % 2 ^ 4 ∧ field (withDate d a b c) 16 8 = c % 2 ^ 8 := by
  unfold withDate
  refine ⟨?_, ?_, field_withField _ _ _ _ (by decide)⟩
  · rw [field_withField_ne _ _ _ _ _ _ (by decide) (by decide), field_withField_ne _ _ _ _ _ _ (by decide) (by decide),
      field_withField _ _ _ _ (by decide)]
  · rw [field_withField_ne _ _ _ _ _ _ (by decide) (by decide), field_withField _ _ _ _ (by decide)]

section
variable {d : Word}

theorem dateNext_of_day_lt (h : field d 0 5 < monthLen (field d 16 8) (field d 8 4)) :
    dateNext d = (withField d 0 5 (field d 0 5 + 1), false) := if_pos h

theorem dateNext_of_month_lt (h : monthLen (field d 16 8) (field d 8 4) ≤ field d 0 5) (hm : field d 8 4 < 12) :
    dateNext d = (withField (withField d 0 5 1) 8 4 (field d 8 4 + 1), false) :=
  (if_neg (Nat.not_lt.mpr h)).trans (if_pos hm)

theorem dateNext_of_year_lt (h : monthLen (field d 16 8) (field d 8 4) ≤ field d 0 5) (hm : 12 ≤ field d 8 4)
    (hy : field d 16 8 < 199) : dateNext d = (withDate d 1 1 (field d 16 8 + 1), false) :=
  (if_neg (Nat.not_lt.mpr h)).trans ((if_neg (Nat.not_lt.mpr hm)).trans (if_pos hy))

theorem dateNext_of_wrap (h : monthLen (field d 16 8) (field d 8 4) ≤ field d 0 5) (hm : 12 ≤ field d 8 4)
    (hy : 199 ≤ field d 16 8) : dateNext d = (withBit (withDate d 1 1 0) 31, true) :=
  (if_neg (Nat.not_lt.mpr h)).trans ((if_neg (Nat.not_lt.mpr hm)).trans (if_neg (Nat.not_lt.mpr hy)))

end

/-- A bit above a field leaves it. -/
theorem field_withBit_above (w : Word) (k lo n : Nat) (hk : k < 32) (h : lo + n ≤ k) : field (withBit w k) lo n = field w lo n := by
  unfold field fieldN
  refine Nat.eq_of_testBit_eq fun i => ?_
  rw [Nat.testBit_mod_two_pow, Nat.testBit_mod_two_pow, Nat.testBit_div_two_pow, Nat.testBit_div_two_pow]
  have hbit := bitAt_withBit w k (i + lo) hk
  unfold bitAt at hbit
  rw [hbit]
  by_cases hi : i < n
  · have hne : k ≠ i + lo := by omega
    simp [hne]
  · simp [hi]

/-- WRAP stays apart from the date's fields. -/
theorem field_wrapped (d : Word) (a b c : Nat) : field (withBit (withDate d a b c) 31) 0 5 = a % 2 ^ 5 ∧
    field (withBit (withDate d a b c) 31) 8 4 = b % 2 ^ 4 ∧ field (withBit (withDate d a b c) 31) 16 8 = c % 2 ^ 8 := by
  simpa (disch := decide) only [field_withBit_above] using field_withDate d a b c

/-! The legacy time (R389): a field carries at its last value and at its top, and counts on elsewhere. -/

theorem fieldNext_of_carry {last top v : Nat} (h : v = last ∨ v = top) : fieldNext last top v = (0, true) := if_pos h

theorem fieldNext_of_no_carry {last top v : Nat} (h : ¬ (v = last ∨ v = top)) : fieldNext last top v = (v + 1, false) := if_neg h

theorem fieldNext_carries {last top v : Nat} : (fieldNext last top v).2 = true ↔ v = last ∨ v = top := by
  unfold fieldNext
  split
  · rename_i h; exact iff_of_true rfl h
  · rename_i h; exact iff_of_false Bool.false_ne_true h

section
variable {w : Word}

theorem timeNext_of_second (hs : ¬ (field w 0 6 = 59 ∨ field w 0 6 = 63)) :
    timeNext w = (withField w 0 6 (field w 0 6 + 1), false) := by
  simp only [timeNext, fieldNext_of_no_carry hs, Bool.not_false, if_true]

theorem timeNext_of_minute (hs : field w 0 6 = 59 ∨ field w 0 6 = 63) (hm : ¬ (field w 8 6 = 59 ∨ field w 8 6 = 63)) :
    timeNext w = (withField (withField w 0 6 0) 8 6 (field w 8 6 + 1), false) := by
  simp only [timeNext, fieldNext_of_carry hs, fieldNext_of_no_carry hm, Bool.not_true, Bool.not_false, Bool.false_eq_true, if_true,
    if_false]

theorem timeNext_of_hour (hs : field w 0 6 = 59 ∨ field w 0 6 = 63) (hm : field w 8 6 = 59 ∨ field w 8 6 = 63) :
    timeNext w = (withField (withField (withField w 0 6 0) 8 6 0) 16 5 (fieldNext 23 31 (field w 16 5)).1,
      (fieldNext 23 31 (field w 16 5)).2) := by
  simp only [timeNext, fieldNext_of_carry hs, fieldNext_of_carry hm, Bool.not_true, Bool.false_eq_true, if_false]

end

/-- A field below its top has room for one more. -/
theorem field_succ_mod {w : Word} {lo n last : Nat} (h : ¬ (field w lo n = last ∨ field w lo n = 2 ^ n - 1)) :
    (field w lo n + 1) % 2 ^ n = field w lo n + 1 := by
  have hlt : field w lo n < 2 ^ n := fieldN_lt _ _ _
  exact Nat.mod_eq_of_lt (by omega)

theorem fieldNext_mod {w : Word} {lo n last : Nat} :
    (fieldNext last (2 ^ n - 1) (field w lo n)).1 % 2 ^ n =
      if field w lo n = last ∨ field w lo n = 2 ^ n - 1 then 0 else field w lo n + 1 := by
  split
  · rename_i h; rw [fieldNext_of_carry h, Nat.zero_mod]
  · rename_i h; rw [fieldNext_of_no_carry h, field_succ_mod h]

/-- The time's three fields and its midnight, one second later. -/
theorem timeNext_fields (w : Word) :
    field (timeNext w).1 0 6 = (if field w 0 6 = 59 ∨ field w 0 6 = 63 then 0 else field w 0 6 + 1) ∧
    field (timeNext w).1 8 6 = (if field w 0 6 = 59 ∨ field w 0 6 = 63 then
        (if field w 8 6 = 59 ∨ field w 8 6 = 63 then 0 else field w 8 6 + 1) else field w 8 6) ∧
    field (timeNext w).1 16 5 = (if (field w 0 6 = 59 ∨ field w 0 6 = 63) ∧ (field w 8 6 = 59 ∨ field w 8 6 = 63) then
        (if field w 16 5 = 23 ∨ field w 16 5 = 31 then 0 else field w 16 5 + 1) else field w 16 5) ∧
    ((timeNext w).2 = true ↔ (field w 0 6 = 59 ∨ field w 0 6 = 63) ∧ (field w 8 6 = 59 ∨ field w 8 6 = 63) ∧
      (field w 16 5 = 23 ∨ field w 16 5 = 31)) := by
  by_cases hs : field w 0 6 = 59 ∨ field w 0 6 = 63
  · by_cases hm : field w 8 6 = 59 ∨ field w 8 6 = 63
    · rw [timeNext_of_hour hs hm]
      simp (disch := decide) only [field_withField, field_withField_ne, Nat.zero_mod, hs, hm, if_true, true_and]
      exact ⟨fieldNext_mod, fieldNext_carries⟩
    · rw [timeNext_of_minute hs hm]
      simp (disch := decide) only [field_withField, field_withField_ne, Nat.zero_mod, field_succ_mod hm, hs, hm, if_true, if_false,
        and_true, false_and, and_false, Bool.false_eq_true]
  · rw [timeNext_of_second hs]
    simp (disch := decide) only [field_withField, field_withField_ne, field_succ_mod hs, hs, if_false, and_true,
      false_and, Bool.false_eq_true]

/-! One second and one tick of the domain. -/

theorem secondNext_sentry (s : State) : (secondNext s).sentry = { s.sentry with
    legTime := (timeNext s.sentry.legTime).1,
    legDate := if (timeNext s.sentry.legTime).2 = true then (dateNext s.sentry.legDate).1 else s.sentry.legDate } := by
  unfold secondNext
  dsimp only
  cases hday : (timeNext s.sentry.legTime).2
  · rfl
  · simp only [Bool.not_true, Bool.false_eq_true, if_true, if_false]
    split
    · exact raise_sentry _ _ _
    · rfl

/-- Past the last year the calendar's wrap is reported in CAL_INT. -/
theorem rdB_secondNext_wrap (s : State) (hs : TablesWf s) (hday : (timeNext s.sentry.legTime).2 = true)
    (hwrap : (dateNext s.sentry.legDate).2 = true) : rdB (secondNext s) CAL_INT 0 = true := by
  unfold secondNext
  simp only [hday, hwrap, Bool.not_true, Bool.false_eq_true, if_true, if_false]
  exact rdB_raise_self (tables_of_eq hs rfl rfl) (by decide) (by decide)

/-- The posted writes taken and the tick counted, before the tick's own effects. -/
def countedTick (s : State) : State := setSentry (fun x => { x with tick := (x.tick + 1) % 2 ^ 48 }) (sentryPosts s)

theorem countedTick_sentry (s : State) : (countedTick s).sentry =
    { s.sentry with shadow := sentryWords s, posted := [], tick := (s.sentry.tick + 1) % 2 ^ 48 } := by
  rw [countedTick, setSentry_sentry, posts_sentry]

/-- With no latch posted the tick's effects are those of a commit, of a second boundary, or none. -/
theorem sentryTick_of_no_latch (s : State) (hlatch : s.sentry.latchPend = false) : sentryTick s =
    if s.sentry.commit then commitTake (countedTick s)
    else if (s.sentry.tick + 1) % 2 ^ 48 % 2 ^ 15 = 0 then secondNext (countedTick s) else countedTick s := by
  have hsentry := countedTick_sentry s
  have htake : refTake (countedTick s) = countedTick s := refTake_none _ (by rw [hsentry]; exact hlatch)
  unfold sentryTick
  rw [← countedTick, htake]
  dsimp only
  rw [hsentry]

theorem commitTake_sentry (s : State) : (commitTake s).sentry = { s.sentry with
    commit := false, legTime := rd s CAL_STG_TIME &&& 0x1F3F3F#32, legDate := rd s CAL_STG_DATE &&& 0xFF0F1F#32 } :=
  raise_sentry _ _ _

/-- A commit takes the staged values as the posted writes leave them, whichever second it is (R388). -/
theorem sentryTick_commits (s : State) (hlatch : s.sentry.latchPend = false) (hcommit : s.sentry.commit = true) :
    (sentryTick s).sentry = { (countedTick s).sentry with
      commit := false, legTime := rd (sentryPosts s) CAL_STG_TIME &&& 0x1F3F3F#32,
      legDate := rd (sentryPosts s) CAL_STG_DATE &&& 0xFF0F1F#32 } := by
  rw [sentryTick_of_no_latch s hlatch, if_pos hcommit, commitTake_sentry]
  rfl

/-- With no commit posted, a second boundary advances time and date (R389). -/
theorem sentryTick_advances (s : State) (hlatch : s.sentry.latchPend = false) (hcommit : s.sentry.commit = false)
    (hsecond : (s.sentry.tick + 1) % 2 ^ 48 % 2 ^ 15 = 0) :
    (sentryTick s).sentry = { (countedTick s).sentry with
      legTime := (timeNext s.sentry.legTime).1,
      legDate := if (timeNext s.sentry.legTime).2 = true then (dateNext s.sentry.legDate).1 else s.sentry.legDate } := by
  rw [sentryTick_of_no_latch s hlatch, if_neg (Bool.eq_false_iff.mp hcommit), if_pos hsecond, secondNext_sentry,
    countedTick_sentry]

/-- Where the next tick is a second boundary, CAL_SECOND is that one tick. -/
theorem completes_calSecond {P : State → Prop} {s : State} {x : Sentry} (hdead : s.sentry.dead = false)
    (hx : (sentryTick s).sentry = x) (hsecond : x.tick % 2 ^ 15 = 0) (hp : P (sentryTick s)) : Completes .calSecond s P := by
  refine ⟨sentryTick s, congrArg done ?_, hp⟩
  unfold calSecond
  rw [hdead]
  exact if_pos (hx ▸ hsecond)

/-! The latch (R383). -/

/-- The words a posted latch takes, in the state in which they are reported. -/
def latched (s : State) : State :=
  wr64 CAL_REF_SEC_LO (taiSec s) (wr CAL_REF_NS (wordOf (taiNs s)) (wr64 CAL_REF_TICK_LO s.sentry.tick
    (setSentry (fun x => { x with latchPend := false, refValid := true }) s)))

theorem refTake_of_latch (s : State) (h : s.sentry.latchPend = true) : refTake s = raise CAL_INT 2 (latched s) := by
  unfold refTake
  rw [h]
  rfl

theorem latched_sentry (s : State) : (latched s).sentry = { s.sentry with latchPend := false, refValid := true } := rfl

theorem wr64_tables {a v : Nat} {s : State} (hs : TablesWf s) : TablesWf (wr64 a v s) := wr_tables (wr_tables hs)

theorem rd_wr64_lo (a v : Nat) (s : State) (hs : TablesWf s) : rd (wr64 a v s) a = loWord v :=
  (rd_wr_ne _ _ _ _ (by omega)).trans (rd_wr_same _ _ _ hs)

theorem rd_wr64_ne (a b v : Nat) (s : State) (hlo : b ≠ a) (hhi : b ≠ a + 4) : rd (wr64 a v s) b = rd s b :=
  (rd_wr_ne _ _ _ _ hhi).trans (rd_wr_ne _ _ _ _ hlo)

theorem latched_tables (s : State) (hs : TablesWf s) : TablesWf (latched s) :=
  wr64_tables (wr_tables (wr64_tables (tables_of_eq hs rfl rfl)))

theorem rd_latched (s : State) (hs : TablesWf s) : rd (latched s) CAL_REF_TICK_LO = loWord s.sentry.tick ∧
    rd (latched s) CAL_REF_NS = wordOf (taiNs s) ∧ rd (latched s) CAL_REF_SEC_LO = loWord (taiSec s) := by
  have hposted : TablesWf (setSentry (fun x => { x with latchPend := false, refValid := true }) s) := tables_of_eq hs rfl rfl
  unfold latched
  refine ⟨?tick, ?ns, ?sec⟩
  case tick =>
    rw [rd_wr64_ne _ _ _ _ (by decide) (by decide), rd_wr_ne _ _ _ _ (by decide), rd_wr64_lo _ _ _ hposted]
  case ns =>
    rw [rd_wr64_ne _ _ _ _ (by decide) (by decide), rd_wr_same _ _ _ (wr64_tables hposted)]
  case sec => exact rd_wr64_lo _ _ _ (wr_tables (wr64_tables hposted))

/-- Settles O41: the five ways a date goes on, by the month's length and the ends of the year and the calendar. -/
theorem calendarDates : Obligations.CalendarDates := by
  unfold Obligations.CalendarDates
  refine ⟨monthLen_eq, ?day, ?month, ?year, ?wrap, rdB_secondNext_wrap⟩
  case day =>
    intro d hday
    have hroom : field d 0 5 + 1 < 2 ^ 5 := by have := monthLen_le (field d 16 8) (field d 8 4); omega
    rw [dateNext_of_day_lt hday]
    simp (disch := decide) only [field_withField, field_withField_ne, Nat.mod_eq_of_lt hroom, and_self]
  case month =>
    intro d hday hmonth
    have hroom : field d 8 4 + 1 < 2 ^ 4 := by omega
    rw [dateNext_of_month_lt hday hmonth]
    simp (disch := decide) only [field_withField, field_withField_ne, Nat.mod_eq_of_lt hroom, and_self, and_true]
    rfl
  case year =>
    intro d hday hmonth hyear
    have hroom : field d 16 8 + 1 < 2 ^ 8 := by omega
    rw [dateNext_of_year_lt hday hmonth hyear]
    obtain ⟨hd, hm, hy⟩ := field_withDate d 1 1 (field d 16 8 + 1)
    exact ⟨hd, hm, hy.trans (Nat.mod_eq_of_lt hroom), rfl⟩
  case wrap =>
    intro d hday hmonth hyear
    rw [dateNext_of_wrap hday hmonth hyear]
    obtain ⟨hd, hm, hy⟩ := field_wrapped d 1 1 0
    exact ⟨hd, hm, hy, by rw [bitAt_withBit _ _ _ (by decide)]; rfl, rfl⟩

/-- Settles O40: at a second boundary CAL_SECOND is one tick, which advances the calendar or takes the posted commit. -/
theorem calendarFields : Obligations.CalendarFields := by
  unfold Obligations.CalendarFields
  refine ⟨?advance, ?commit, ?latch⟩
  case advance =>
    intro s hdead hlatch hcommit hsecond
    have hsentry := sentryTick_advances s hlatch hcommit hsecond
    refine completes_calSecond hdead hsentry (by rw [countedTick_sentry]; exact hsecond) ?_
    obtain ⟨hseconds, hminutes, hhours, hmidnight⟩ := timeNext_fields s.sentry.legTime
    rw [hsentry]
    exact ⟨hseconds, hminutes, hhours, by simp only [hmidnight]⟩
  case commit =>
    intro s hdead hlatch hcommit hsecond
    have hsentry := sentryTick_commits s hlatch hcommit
    refine completes_calSecond hdead hsentry (by rw [countedTick_sentry]; exact hsecond) ?_
    rw [hsentry]
    exact ⟨rfl, rfl, rfl⟩
  case latch =>
    intro s hs hlatch
    obtain ⟨htick, hns, hsec⟩ := rd_latched s hs
    rw [refTake_of_latch s hlatch]
    refine ⟨?_, ?_, ?_, (raise_sentry _ _ _).trans (latched_sentry s), rdB_raise_self (latched_tables s hs) (by decide) (by decide)⟩
    · exact (rd_raise_ne _ _ _ _ (by decide) (by decide)).trans htick
    · exact (rd_raise_ne _ _ _ _ (by decide) (by decide)).trans hns
    · exact (rd_raise_ne _ _ _ _ (by decide) (by decide)).trans hsec

end Sys2Proof.Machine
end

section
/-!
PROOFS of the family other: what every command and every step keeps (O1, O3, O4) and what each command leaves unchanged (O5).
-/

namespace Sys2Proof.Machine

open Sys2Proof

/-- The effect of a command on a state: the state that it answers, what a run keeps over it, and the parts and registers outside
which nothing changes. -/
structure CommandEffect (c : Instr) (s t : State) : Prop where
  answer : exec c s = .next t
  keeps : Keeps s t
  parts : Within (touched c).parts s t
  regs : OnlyRegs (touched c).regs s t

/-- Every command answers a next state that keeps what a run keeps: the law of its meaning, command by command. -/
theorem exec_keeps (c : Instr) (s : State) : Answers s (exec c s) :=
  match c with
  | .incrWrite who v => execIncrWrite_keeps who v s (.refl s)
  | .timeBlockFreeze who k => execTimeBlockFreeze_keeps who k s (.refl s)
  | .timeBlockRelease who => execTimeBlockRelease_keeps who s (.refl s)
  | .timeFreezeTimeout who => execTimeFreezeTimeout_keeps who s (.refl s)
  | .commitSet who => execCommitSet_keeps who s (.refl s)
  | .commitStep who backward => execCommitStep_keeps who backward s (.refl s)
  | .lockSet who => execLockSet_keeps who s (.refl s)
  | .holdSet who => execHoldSet_keeps who s (.refl s)
  | .gmChange who => execGmChange_keeps who s (.refl s)
  | .gmLost who => execGmLost_keeps who s (.refl s)
  | .gmReturn who => execGmReturn_keeps who s (.refl s)
  | .guardAccept who => execGuardAccept_keeps who s (.refl s)
  | .irigFrame f => execIrigFrame_keeps f s (.refl s)
  | .tqWrite who v => execTqWrite_keeps who v s (.refl s)
  | .cycleCompare => execCycleCompare_keeps s (.refl s)
  | .flywheelLimit fallbackValid => execFlywheelLimit_keeps fallbackValid s (.refl s)
  | .cycCfgWrite who v => execCycCfgWrite_keeps who v s (.refl s)
  | .scheduleFire e => execScheduleFire_keeps e s (.refl s)
  | .schLoad who => execSchLoad_keeps who s (.refl s)
  | .schStore who => execSchStore_keeps who s (.refl s)
  | .schDisarm who => execSchDisarm_keeps who s (.refl s)
  | .schDisarmAll who => execSchDisarmAll_keeps who s (.refl s)
  | .rxFrame port f => execRxFrame_keeps port f s (.refl s)
  | .pfcRefresh port => execPfcRefresh_keeps port s (.refl s)
  | .pfcXon port => execPfcXon_keeps port s (.refl s)
  | .pauseExpiry port prio => execPauseExpiry_keeps port prio s (.refl s)
  | .lpiEntry port => execLpiEntry_keeps port s (.refl s)
  | .eeeWrite who port v => execEeeWrite_keeps who port v s (.refl s)
  | .ringEnable who port => execRingEnable_keeps who port s (.refl s)
  | .ringDisable who port => execRingDisable_keeps who port s (.refl s)
  | .rxTail who port index bufs => execRxTail_keeps who port index bufs s (.refl s)
  | .txFrameEnd port => execTxFrameEnd_keeps port s (.refl s)
  | .tsqLatch who port => execTsqLatch_keeps who port s (.refl s)
  | .tsqPop who port => execTsqPop_keeps who port s (.refl s)
  | .portSnapshot who port clr => execPortSnapshot_keeps who port clr s (.refl s)
  | .portSnapshotAll who clr => execPortSnapshotAll_keeps who clr s (.refl s)
  | .linkChange port up anDone => execLinkChange_keeps port up anDone s (.refl s)
  | .ingestParse pipe => execIngestParse_keeps pipe s (.refl s)
  | .sourceCommandSend stream cmd queue prio => execSourceCommandSend_keeps stream cmd queue prio s (.refl s)
  | .streamLoad who => execStreamLoad_keeps who s (.refl s)
  | .latClear who => execLatClear_keeps who s (.refl s)
  | .clearAll who => execClearAll_keeps who s (.refl s)
  | .ingestSnapshot who clr => execIngestSnapshot_keeps who clr s (.refl s)
  | .sectionSeal instant cls => execSectionSeal_keeps instant cls s (.refl s)
  | .sectionClose instant cls => execSectionClose_keeps instant cls s (.refl s)
  | .revisionIssue instant => execRevisionIssue_keeps instant s (.refl s)
  | .bellWrite who cls bell => execBellWrite_keeps who cls bell s (.refl s)
  | .clsLoad who => execClsLoad_keeps who s (.refl s)
  | .clsClear who => execClsClear_keeps who s (.refl s)
  | .bellLearn cls => execBellLearn_keeps cls s (.refl s)
  | .marketSnapshot who clr => execMarketSnapshot_keeps who clr s (.refl s)
  | .twOpen who => execTwOpen_keeps who s (.refl s)
  | .twAbort who => execTwAbort_keeps who s (.refl s)
  | .ribOpen who => execRibOpen_keeps who s (.refl s)
  | .ribAbort who => execRibAbort_keeps who s (.refl s)
  | .syncPinEdge rising => execSyncPinEdge_keeps rising s (.refl s)
  | .sclSyncGo who => execSclSyncGo_keeps who s (.refl s)
  | .decimatorOutput ch bits => execDecimatorOutput_keeps ch bits s (.refl s)
  | .settlingEnd ch => execSettlingEnd_keeps ch s (.refl s)
  | .channelDead ch => execChannelDead_keeps ch s (.refl s)
  | .calApply who mask => execCalApply_keeps who mask s (.refl s)
  | .pqLoad who => execPqLoad_keeps who s (.refl s)
  | .pqStore who => execPqStore_keeps who s (.refl s)
  | .svGainLoad who => execSvGainLoad_keeps who s (.refl s)
  | .svGainStore who => execSvGainStore_keeps who s (.refl s)
  | .fcalLoad who ch => execFcalLoad_keeps who ch s (.refl s)
  | .estimateComplete ls instant => execEstimateComplete_keeps ls instant s (.refl s)
  | .energySave ok => execEnergySave_keeps ok s (.refl s)
  | .energySaveNow who => execEnergySaveNow_keeps who s (.refl s)
  | .energySnapshot who => execEnergySnapshot_keeps who s (.refl s)
  | .captureSample drained => execCaptureSample_keeps drained s (.refl s)
  | .dinEdge din high held => execDinEdge_keeps din high held s (.refl s)
  | .bellLineFall line lowNs => execBellLineFall_keeps line lowNs s (.refl s)
  | .bellPulseEnd line => execBellPulseEnd_keeps line s (.refl s)
  | .captureArm who arm => execCaptureArm_keeps who arm s (.refl s)
  | .captureForce who => execCaptureForce_keeps who s (.refl s)
  | .captureReset who => execCaptureReset_keeps who s (.refl s)
  | .thLvlWrite who th v => execThLvlWrite_keeps who th v s (.refl s)
  | .bellTest who line => execBellTest_keeps who line s (.refl s)
  | .recInfo who => execRecInfo_keeps who s (.refl s)
  | .recExport who format pack => execRecExport_keeps who format pack s (.refl s)
  | .recRelease who => execRecRelease_keeps who s (.refl s)
  | .recAbort who => execRecAbort_keeps who s (.refl s)
  | .captureSnapshot who clr => execCaptureSnapshot_keeps who clr s (.refl s)
  | .baselineSaveNow who => execBaselineSaveNow_keeps who s (.refl s)
  | .modeLoad who => execModeLoad_keeps who s (.refl s)
  | .modeShape who => execModeShape_keeps who s (.refl s)
  | .modeAbort who => execModeAbort_keeps who s (.refl s)
  | .sigLoad who sig => execSigLoad_keeps who sig s (.refl s)
  | .oscSnapshot who clr => execOscSnapshot_keeps who clr s (.refl s)
  | .statusInterTimeout point => execStatusInterTimeout_keeps point s (.refl s)
  | .brLoad who branch => execBrLoad_keeps who branch s (.refl s)
  | .busLoad who bus => execBusLoad_keeps who bus s (.refl s)
  | .islLoad who => execIslLoad_keeps who s (.refl s)
  | .islMembers who => execIslMembers_keeps who s (.refl s)
  | .islAbort who => execIslAbort_keeps who s (.refl s)
  | .topoSnapshot who clr => execTopoSnapshot_keeps who clr s (.refl s)
  | .gooseRetransmit pub => execGooseRetransmit_keeps pub s (.refl s)
  | .osCommandFrame idcode cmd srcIp srcUdp => execOsCommandFrame_keeps idcode cmd srcIp srcUdp s (.refl s)
  | .osLoad who => execOsLoad_keeps who s (.refl s)
  | .osOn who => execOsOn_keeps who s (.refl s)
  | .osOff who => execOsOff_keeps who s (.refl s)
  | .ruleLoad who => execRuleLoad_keeps who s (.refl s)
  | .ruleStore who => execRuleStore_keeps who s (.refl s)
  | .pubLoad who pub => execPubLoad_keeps who pub s (.refl s)
  | .xfGo who => execXfGo_keeps who s (.refl s)
  | .xfAbort who => execXfAbort_keeps who s (.refl s)
  | .qPush who q v => execQPush_keeps who q v s (.refl s)
  | .qCommit who q prio len => execQCommit_keeps who q prio len s (.refl s)
  | .qCommitLand q => execQCommitLand_keeps q s (.refl s)
  | .qDiscard who q => execQDiscard_keeps who q s (.refl s)
  | .qPop q => execQPop_keeps q s (.refl s)
  | .qFlush who q => execQFlush_keeps who q s (.refl s)
  | .txStart port cls => execTxStart_keeps port cls s (.refl s)
  | .egressSnapshot who clr => execEgressSnapshot_keeps who clr s (.refl s)
  | .jobPack who blockKib input => execJobPack_keeps who blockKib input s (.refl s)
  | .jobUnpack who blockKib input => execJobUnpack_keeps who blockKib input s (.refl s)
  | .jobRaw who blockKib input => execJobRaw_keeps who blockKib input s (.refl s)
  | .jobFlush who consumed => execJobFlush_keeps who consumed s (.refl s)
  | .jobAbort who => execJobAbort_keeps who s (.refl s)
  | .packerSnapshot who clr => execPackerSnapshot_keeps who clr s (.refl s)
  | .postInstruction core target => execPostInstruction_keeps core target s (.refl s)
  | .hostPost thread => execHostPost_keeps thread s (.refl s)
  | .hostCancel thread withPost => execHostCancel_keeps thread withPost s (.refl s)
  | .tickTimeout thread => execTickTimeout_keeps thread s (.refl s)
  | .threadWait core timeout => execThreadWait_keeps core timeout s (.refl s)
  | .threadFault core => execThreadFault_keeps core s (.refl s)
  | .wdogKick who => execWdogKick_keeps who s (.refl s)
  | .machineCheck core customer => execMachineCheck_keeps core customer s (.refl s)
  | .hostRestart who key => execHostRestart_keeps who key s (.refl s)
  | .deckRestartDone verified version => execDeckRestartDone_keeps verified version s (.refl s)
  | .pcEn who set on => execPcEn_keeps who set on s (.refl s)
  | .pcFreeze who set on => execPcFreeze_keeps who set on s (.refl s)
  | .pcClear who set => execPcClear_keeps who set s (.refl s)
  | .pcSelWrite who sel v => execPcSelWrite_keeps who sel v s (.refl s)
  | .pcSmode who core mode => execPcSmode_keeps who core mode s (.refl s)
  | .preciseSample core addr latency => execPreciseSample_keeps core addr latency s (.refl s)
  | .w2winOpen core addr => execW2winOpen_keeps core addr s (.refl s)
  | .w2winClose core cycles retired wasted front mask => execW2winClose_keeps core cycles retired wasted front mask s (.refl s)
  | .thLoad who thread => execThLoad_keeps who thread s (.refl s)
  | .schedSnapshot who clr => execSchedSnapshot_keeps who clr s (.refl s)
  | .memCorrection region addr channel lane target => execMemCorrection_keeps region addr channel lane target s (.refl s)
  | .memUe region addr target => execMemUe_keeps region addr target s (.refl s)
  | .patrolRead region r => execPatrolRead_keeps region r s (.refl s)
  | .memSnapshot who clr => execMemSnapshot_keeps who clr s (.refl s)
  | .ledgerEvent e => execLedgerEvent_keeps e s (.refl s)
  | .ledgerFlush during badUnits => execLedgerFlush_keeps during badUnits s (.refl s)
  | .flushNow who => execFlushNow_keeps who s (.refl s)
  | .trackSample track derived => execTrackSample_keeps track derived s (.refl s)
  | .refLatch who => execRefLatch_keeps who s (.refl s)
  | .calReadFreeze who k => execCalReadFreeze_keeps who k s (.refl s)
  | .calReadRelease who => execCalReadRelease_keeps who s (.refl s)
  | .calFreezeTimeout who => execCalFreezeTimeout_keeps who s (.refl s)
  | .calCommit who => execCalCommit_keeps who s (.refl s)
  | .derive who => execDerive_keeps who s (.refl s)
  | .generate who pairOk => execGenerate_keeps who pairOk s (.refl s)
  | .unwrap who ok => execUnwrap_keeps who ok s (.refl s)
  | .wrap who => execWrap_keeps who s (.refl s)
  | .destroy who => execDestroy_keeps who s (.refl s)
  | .encrypt who more => execEncrypt_keeps who more s (.refl s)
  | .decrypt who more tagOk => execDecrypt_keeps who more tagOk s (.refl s)
  | .hmac who more => execHmac_keeps who more s (.refl s)
  | .sign who => execSign_keeps who s (.refl s)
  | .verify who ok => execVerify_keeps who ok s (.refl s)
  | .ecdh who => execEcdh_keeps who s (.refl s)
  | .hash who more => execHash_keeps who more s (.refl s)
  | .random who => execRandom_keeps who s (.refl s)
  | .pubkey who => execPubkey_keeps who s (.refl s)
  | .attest who => execAttest_keeps who s (.refl s)
  | .gkMap who => execGkMap_keeps who s (.refl s)
  | .gkUnmap who => execGkUnmap_keeps who s (.refl s)
  | .authReq who => execAuthReq_keeps who s (.refl s)
  | .auth who ok => execAuth_keeps who ok s (.refl s)
  | .zeroize who => execZeroize_keeps who s (.refl s)
  | .enrol who cert certOk => execEnrol_keeps who cert certOk s (.refl s)
  | .calEnrol who => execCalEnrol_keeps who s (.refl s)
  | .purge who => execPurge_keeps who s (.refl s)
  | .tillOpTimeout deck => execTillOpTimeout_keeps deck s (.refl s)
  | .tamperTrip sources => execTamperTrip_keeps sources s (.refl s)
  | .keyExpiry slot => execKeyExpiry_keeps slot s (.refl s)
  | .authRequestExpiry op => execAuthRequestExpiry_keeps op s (.refl s)
  | .gkExpiring entry => execGkExpiring_keeps entry s (.refl s)
  | .slotLoad who slot => execSlotLoad_keeps who slot s (.refl s)
  | .gkLoad who entry => execGkLoad_keeps who entry s (.refl s)
  | .rxHeartbeat link h hb => execRxHeartbeat_keeps link h hb s (.refl s)
  | .rxDigest link h entries => execRxDigest_keeps link h entries s (.refl s)
  | .rxLedger link h records => execRxLedger_keeps link h records s (.refl s)
  | .rxEnergy link h save => execRxEnergy_keeps link h save s (.refl s)
  | .rxHealth link h report => execRxHealth_keeps link h report s (.refl s)
  | .rxResyncReq link h => execRxResyncReq_keeps link h s (.refl s)
  | .rxResyncData link h d => execRxResyncData_keeps link h d s (.refl s)
  | .rxCredit link h => execRxCredit_keeps link h s (.refl s)
  | .rxLinkInit link h => execRxLinkInit_keeps link h s (.refl s)
  | .shroudLinkChange link up => execShroudLinkChange_keeps link up s (.refl s)
  | .leaseWrite who v => execLeaseWrite_keeps who v s (.refl s)
  | .leaseDrop who => execLeaseDrop_keeps who s (.refl s)
  | .rxGrant m => execRxGrant_keeps m s (.refl s)
  | .rxRenewed m => execRxRenewed_keeps m s (.refl s)
  | .rxDeny m reason => execRxDeny_keeps m reason s (.refl s)
  | .clerkRxRequest m => execClerkRxRequest_keeps m s (.refl s)
  | .clerkRxRenew m => execClerkRxRenew_keeps m s (.refl s)
  | .clerkRxRelease m => execClerkRxRelease_keeps m s (.refl s)
  | .digestUncompared inst => execDigestUncompared_keeps inst s (.refl s)
  | .pairSnapshot who clr => execPairSnapshot_keeps who clr s (.refl s)
  | .nodeStart x => execNodeStart_keeps x s (.refl s)
  | .botVerify who bank => execBotVerify_keeps who bank s (.refl s)
  | .bankVerifyDone check img => execBankVerifyDone_keeps check img s (.refl s)
  | .botErase who bank => execBotErase_keeps who bank s (.refl s)
  | .activateFw who bank force check => execActivateFw_keeps who bank force check s (.refl s)
  | .activateFull who bank force check => execActivateFull_keeps who bank force check s (.refl s)
  | .activationResumption hashOk => execActivationResumption_keeps hashOk s (.refl s)
  | .svcInfo h => execSvcInfo_keeps h s (.refl s)
  | .svcErase h bank => execSvcErase_keeps h bank s (.refl s)
  | .svcWrite h bank ofs data => execSvcWrite_keeps h bank ofs data s (.refl s)
  | .svcVerify h bank => execSvcVerify_keeps h bank s (.refl s)
  | .svcActivate h cmd check => execSvcActivate_keeps h cmd check s (.refl s)
  | .svcTill h code args mbox cert ok => execSvcTill_keeps h code args mbox cert ok s (.refl s)
  | .svcReboot h bank => execSvcReboot_keeps h bank s (.refl s)
  | .svcLog h ofs => execSvcLog_keeps h ofs s (.refl s)
  | .powerUp fail => execPowerUp_keeps fail s (.refl s)
  | .railRetry fail => execRailRetry_keeps fail s (.refl s)
  | .railMeasure rails vin iin pmw vstore => execRailMeasure_keeps rails vin iin pmw vstore s (.refl s)
  | .sensorReading temp => execSensorReading_keeps temp s (.refl s)
  | .furl who key => execFurl_keeps who key s (.refl s)
  | .powerResumption version => execPowerResumption_keeps version s (.refl s)
  | .railLoad who rail => execRailLoad_keeps who rail s (.refl s)
  | .linkReset kind => execLinkReset_keeps kind s (.refl s)
  | .eoi vector => execEoi_keeps vector s (.refl s)
  | .msixTableWrite vector w v => execMsixTableWrite_keeps vector w v s (.refl s)
  | .lowWordRead ofs => execLowWordRead_keeps ofs s (.refl s)
  | .windowRead w r poison => execWindowRead_keeps w r poison s (.refl s)
  | .winOpen w => execWinOpen_keeps w s (.refl s)
  | .winAbort w => execWinAbort_keeps w s (.refl s)
  | .registerWrite who ofs be v => execRegisterWrite_keeps who ofs be v s (.refl s)
  | .holdoverLimitCrossed sec => execHoldoverLimitCrossed_keeps sec s (.refl s)
  | .rxLpiEntry port enter => execRxLpiEntry_keeps port enter s (.refl s)
  | .rxReadyCoalesce port => execRxReadyCoalesce_keeps port s (.refl s)
  | .deadClear ch => execDeadClear_keeps ch s (.refl s)
  | .storeChargeDone cf => execStoreChargeDone_keeps cf s (.refl s)
  | .pcOvf c => execPcOvf_keeps c s (.refl s)
  | .unsupportedRequest ofs len write => execUnsupportedRequest_keeps ofs len write s (.refl s)
  | .clearOnRead who ch => execClearOnRead_keeps who ch s (.refl s)
  | .noIncrementTimeout => execNoIncrementTimeout_keeps s (.refl s)
  | .leapApplied => execLeapApplied_keeps s (.refl s)
  | .ppsEdge => execPpsEdge_keeps s (.refl s)
  | .ppsMissing => execPpsMissing_keeps s (.refl s)
  | .cycleReferenceLost why => execCycleReferenceLost_keeps why s (.refl s)
  | .kernelTick => execKernelTick_keeps s (.refl s)
  | .latAged => execLatAged_keeps s (.refl s)
  | .tableauOpen => execTableauOpen_keeps s (.refl s)
  | .place => execPlace_keeps s (.refl s)
  | .syncApply => execSyncApply_keeps s (.refl s)
  | .bootSyncStore => execBootSyncStore_keeps s (.refl s)
  | .bootSyncFallback => execBootSyncFallback_keeps s (.refl s)
  | .intervalEnd => execIntervalEnd_keeps s (.refl s)
  | .supplyCheck => execSupplyCheck_keeps s (.refl s)
  | .ahSave => execAhSave_keeps s (.refl s)
  | .bellTestDrive => execBellTestDrive_keeps s (.refl s)
  | .baselineSave => execBaselineSave_keeps s (.refl s)
  | .xfDatagram => execXfDatagram_keeps s (.refl s)
  | .composerEnqueue => execComposerEnqueue_keeps s (.refl s)
  | .osItemAbandon => execOsItemAbandon_keeps s (.refl s)
  | .packerBlockStart => execPackerBlockStart_keeps s (.refl s)
  | .packerBlockDone => execPackerBlockDone_keeps s (.refl s)
  | .postApply => execPostApply_keeps s (.refl s)
  | .wdogExpiry => execWdogExpiry_keeps s (.refl s)
  | .deckFailed => execDeckFailed_keeps s (.refl s)
  | .trackWrite => execTrackWrite_keeps s (.refl s)
  | .clearRequest => execClearRequest_keeps s (.refl s)
  | .clearExecute => execClearExecute_keeps s (.refl s)
  | .clearCancel => execClearCancel_keeps s (.refl s)
  | .clearExpiry => execClearExpiry_keeps s (.refl s)
  | .clearEraseDone => execClearEraseDone_keeps s (.refl s)
  | .lastWordsUpdate => execLastWordsUpdate_keeps s (.refl s)
  | .lwAck => execLwAck_keeps s (.refl s)
  | .ledgerReadOpen => execLedgerReadOpen_keeps s (.refl s)
  | .ledgerReadAbort => execLedgerReadAbort_keeps s (.refl s)
  | .vbatSwitch => execVbatSwitch_keeps s (.refl s)
  | .sentryLoss => execSentryLoss_keeps s (.refl s)
  | .calSecond => execCalSecond_keeps s (.refl s)
  | .tillCommandDone => execTillCommandDone_keeps s (.refl s)
  | .heartbeatSend => execHeartbeatSend_keeps s (.refl s)
  | .peerLost => execPeerLost_keeps s (.refl s)
  | .leaseExpiry => execLeaseExpiry_keeps s (.refl s)
  | .clerkRenew => execClerkRenew_keeps s (.refl s)
  | .clerkRequest => execClerkRequest_keeps s (.refl s)
  | .clerkLost => execClerkLost_keeps s (.refl s)
  | .clerkQuietEnd => execClerkQuietEnd_keeps s (.refl s)
  | .digestFrameSend => execDigestFrameSend_keeps s (.refl s)
  | .healthSend => execHealthSend_keeps s (.refl s)
  | .resyncDone => execResyncDone_keeps s (.refl s)
  | .failCntClear => execFailCntClear_keeps s (.refl s)
  | .trialConfirm => execTrialConfirm_keeps s (.refl s)
  | .bankEraseDone => execBankEraseDone_keeps s (.refl s)
  | .powerFail => execPowerFail_keeps s (.refl s)
  | .furlLatchClear => execFurlLatchClear_keeps s (.refl s)
  | .holdupEnd => execHoldupEnd_keeps s (.refl s)
  | .heldWriteDrop => execHeldWriteDrop_keeps s (.refl s)
  | .d3hotEntry => execD3hotEntry_keeps s (.refl s)

/-- No command changes a part of the state outside those that `touched` gives it. -/
theorem exec_within (c : Instr) (s : State) : AnswersIn (touched c).parts s (exec c s) :=
  match c with
  | .incrWrite who v => execIncrWrite_within who v s (.refl s) (.refl _)
  | .timeBlockFreeze who k => execTimeBlockFreeze_within who k s (.refl s) (.refl _)
  | .timeBlockRelease who => execTimeBlockRelease_within who s (.refl s) (.refl _)
  | .timeFreezeTimeout who => execTimeFreezeTimeout_within who s (.refl s) (.refl _)
  | .commitSet who => execCommitSet_within who s (.refl s) (.refl _)
  | .commitStep who backward => execCommitStep_within who backward s (.refl s) (.refl _)
  | .lockSet who => execLockSet_within who s (.refl s) (.refl _)
  | .holdSet who => execHoldSet_within who s (.refl s) (.refl _)
  | .gmChange who => execGmChange_within who s (.refl s) (.refl _)
  | .gmLost who => execGmLost_within who s (.refl s) (.refl _)
  | .gmReturn who => execGmReturn_within who s (.refl s) (.refl _)
  | .guardAccept who => execGuardAccept_within who s (.refl s) (.refl _)
  | .irigFrame f => execIrigFrame_within f s (.refl s) (.refl _)
  | .tqWrite who v => execTqWrite_within who v s (.refl s) (.refl _)
  | .cycleCompare => execCycleCompare_within s (.refl s) (.refl _)
  | .flywheelLimit fallbackValid => execFlywheelLimit_within fallbackValid s (.refl s) (.refl _)
  | .cycCfgWrite who v => execCycCfgWrite_within who v s (.refl s) (.refl _)
  | .scheduleFire e => execScheduleFire_within e s (.refl s) (.refl _)
  | .schLoad who => execSchLoad_within who s (.refl s) (.refl _)
  | .schStore who => execSchStore_within who s (.refl s) (.refl _)
  | .schDisarm who => execSchDisarm_within who s (.refl s) (.refl _)
  | .schDisarmAll who => execSchDisarmAll_within who s (.refl s) (.refl _)
  | .rxFrame port f => execRxFrame_within port f s (.refl s) (.refl _)
  | .pfcRefresh port => execPfcRefresh_within port s (.refl s) (.refl _)
  | .pfcXon port => execPfcXon_within port s (.refl s) (.refl _)
  | .pauseExpiry port prio => execPauseExpiry_within port prio s (.refl s) (.refl _)
  | .lpiEntry port => execLpiEntry_within port s (.refl s) (.refl _)
  | .eeeWrite who port v => execEeeWrite_within who port v s (.refl s) (.refl _)
  | .ringEnable who port => execRingEnable_within who port s (.refl s) (.refl _)
  | .ringDisable who port => execRingDisable_within who port s (.refl s) (.refl _)
  | .rxTail who port index bufs => execRxTail_within who port index bufs s (.refl s) (.refl _)
  | .txFrameEnd port => execTxFrameEnd_within port s (.refl s) (.refl _)
  | .tsqLatch who port => execTsqLatch_within who port s (.refl s) (.refl _)
  | .tsqPop who port => execTsqPop_within who port s (.refl s) (.refl _)
  | .portSnapshot who port clr => execPortSnapshot_within who port clr s (.refl s) (.refl _)
  | .portSnapshotAll who clr => execPortSnapshotAll_within who clr s (.refl s) (.refl _)
  | .linkChange port up anDone => execLinkChange_within port up anDone s (.refl s) (.refl _)
  | .ingestParse pipe => execIngestParse_within pipe s (.refl s) (.refl _)
  | .sourceCommandSend stream cmd queue prio => execSourceCommandSend_within stream cmd queue prio s (.refl s) (.refl _)
  | .streamLoad who => execStreamLoad_within who s (.refl s) (.refl _)
  | .latClear who => execLatClear_within who s (.refl s) (.refl _)
  | .clearAll who => execClearAll_within who s (.refl s) (.refl _)
  | .ingestSnapshot who clr => execIngestSnapshot_within who clr s (.refl s) (.refl _)
  | .sectionSeal instant cls => execSectionSeal_within instant cls s (.refl s) (.refl _)
  | .sectionClose instant cls => execSectionClose_within instant cls s (.refl s) (.refl _)
  | .revisionIssue instant => execRevisionIssue_within instant s (.refl s) (.refl _)
  | .bellWrite who cls bell => execBellWrite_within who cls bell s (.refl s) (.refl _)
  | .clsLoad who => execClsLoad_within who s (.refl s) (.refl _)
  | .clsClear who => execClsClear_within who s (.refl s) (.refl _)
  | .bellLearn cls => execBellLearn_within cls s (.refl s) (.refl _)
  | .marketSnapshot who clr => execMarketSnapshot_within who clr s (.refl s) (.refl _)
  | .twOpen who => execTwOpen_within who s (.refl s) (.refl _)
  | .twAbort who => execTwAbort_within who s (.refl s) (.refl _)
  | .ribOpen who => execRibOpen_within who s (.refl s) (.refl _)
  | .ribAbort who => execRibAbort_within who s (.refl s) (.refl _)
  | .syncPinEdge rising => execSyncPinEdge_within rising s (.refl s) (.refl _)
  | .sclSyncGo who => execSclSyncGo_within who s (.refl s) (.refl _)
  | .decimatorOutput ch bits => execDecimatorOutput_within ch bits s (.refl s) (.refl _)
  | .settlingEnd ch => execSettlingEnd_within ch s (.refl s) (.refl _)
  | .channelDead ch => execChannelDead_within ch s (.refl s) (.refl _)
  | .calApply who mask => execCalApply_within who mask s (.refl s) (.refl _)
  | .pqLoad who => execPqLoad_within who s (.refl s) (.refl _)
  | .pqStore who => execPqStore_within who s (.refl s) (.refl _)
  | .svGainLoad who => execSvGainLoad_within who s (.refl s) (.refl _)
  | .svGainStore who => execSvGainStore_within who s (.refl s) (.refl _)
  | .fcalLoad who ch => execFcalLoad_within who ch s (.refl s) (.refl _)
  | .estimateComplete ls instant => execEstimateComplete_within ls instant s (.refl s) (.refl _)
  | .energySave ok => execEnergySave_within ok s (.refl s) (.refl _)
  | .energySaveNow who => execEnergySaveNow_within who s (.refl s) (.refl _)
  | .energySnapshot who => execEnergySnapshot_within who s (.refl s) (.refl _)
  | .captureSample drained => execCaptureSample_within drained s (.refl s) (.refl _)
  | .dinEdge din high held => execDinEdge_within din high held s (.refl s) (.refl _)
  | .bellLineFall line lowNs => execBellLineFall_within line lowNs s (.refl s) (.refl _)
  | .bellPulseEnd line => execBellPulseEnd_within line s (.refl s) (.refl _)
  | .captureArm who arm => execCaptureArm_within who arm s (.refl s) (.refl _)
  | .captureForce who => execCaptureForce_within who s (.refl s) (.refl _)
  | .captureReset who => execCaptureReset_within who s (.refl s) (.refl _)
  | .thLvlWrite who th v => execThLvlWrite_within who th v s (.refl s) (.refl _)
  | .bellTest who line => execBellTest_within who line s (.refl s) (.refl _)
  | .recInfo who => execRecInfo_within who s (.refl s) (.refl _)
  | .recExport who format pack => execRecExport_within who format pack s (.refl s) (.refl _)
  | .recRelease who => execRecRelease_within who s (.refl s) (.refl _)
  | .recAbort who => execRecAbort_within who s (.refl s) (.refl _)
  | .captureSnapshot who clr => execCaptureSnapshot_within who clr s (.refl s) (.refl _)
  | .baselineSaveNow who => execBaselineSaveNow_within who s (.refl s) (.refl _)
  | .modeLoad who => execModeLoad_within who s (.refl s) (.refl _)
  | .modeShape who => execModeShape_within who s (.refl s) (.refl _)
  | .modeAbort who => execModeAbort_within who s (.refl s) (.refl _)
  | .sigLoad who sig => execSigLoad_within who sig s (.refl s) (.refl _)
  | .oscSnapshot who clr => execOscSnapshot_within who clr s (.refl s) (.refl _)
  | .statusInterTimeout point => execStatusInterTimeout_within point s (.refl s) (.refl _)
  | .brLoad who branch => execBrLoad_within who branch s (.refl s) (.refl _)
  | .busLoad who bus => execBusLoad_within who bus s (.refl s) (.refl _)
  | .islLoad who => execIslLoad_within who s (.refl s) (.refl _)
  | .islMembers who => execIslMembers_within who s (.refl s) (.refl _)
  | .islAbort who => execIslAbort_within who s (.refl s) (.refl _)
  | .topoSnapshot who clr => execTopoSnapshot_within who clr s (.refl s) (.refl _)
  | .gooseRetransmit pub => execGooseRetransmit_within pub s (.refl s) (.refl _)
  | .osCommandFrame idcode cmd srcIp srcUdp => execOsCommandFrame_within idcode cmd srcIp srcUdp s (.refl s) (.refl _)
  | .osLoad who => execOsLoad_within who s (.refl s) (.refl _)
  | .osOn who => execOsOn_within who s (.refl s) (.refl _)
  | .osOff who => execOsOff_within who s (.refl s) (.refl _)
  | .ruleLoad who => execRuleLoad_within who s (.refl s) (.refl _)
  | .ruleStore who => execRuleStore_within who s (.refl s) (.refl _)
  | .pubLoad who pub => execPubLoad_within who pub s (.refl s) (.refl _)
  | .xfGo who => execXfGo_within who s (.refl s) (.refl _)
  | .xfAbort who => execXfAbort_within who s (.refl s) (.refl _)
  | .qPush who q v => execQPush_within who q v s (.refl s) (.refl _)
  | .qCommit who q prio len => execQCommit_within who q prio len s (.refl s) (.refl _)
  | .qCommitLand q => execQCommitLand_within q s (.refl s) (.refl _)
  | .qDiscard who q => execQDiscard_within who q s (.refl s) (.refl _)
  | .qPop q => execQPop_within q s (.refl s) (.refl _)
  | .qFlush who q => execQFlush_within who q s (.refl s) (.refl _)
  | .txStart port cls => execTxStart_within port cls s (.refl s) (.refl _)
  | .egressSnapshot who clr => execEgressSnapshot_within who clr s (.refl s) (.refl _)
  | .jobPack who blockKib input => execJobPack_within who blockKib input s (.refl s) (.refl _)
  | .jobUnpack who blockKib input => execJobUnpack_within who blockKib input s (.refl s) (.refl _)
  | .jobRaw who blockKib input => execJobRaw_within who blockKib input s (.refl s) (.refl _)
  | .jobFlush who consumed => execJobFlush_within who consumed s (.refl s) (.refl _)
  | .jobAbort who => execJobAbort_within who s (.refl s) (.refl _)
  | .packerSnapshot who clr => execPackerSnapshot_within who clr s (.refl s) (.refl _)
  | .postInstruction core target => execPostInstruction_within core target s (.refl s) (.refl _)
  | .hostPost thread => execHostPost_within thread s (.refl s) (.refl _)
  | .hostCancel thread withPost => execHostCancel_within thread withPost s (.refl s) (.refl _)
  | .tickTimeout thread => execTickTimeout_within thread s (.refl s) (.refl _)
  | .threadWait core timeout => execThreadWait_within core timeout s (.refl s) (.refl _)
  | .threadFault core => execThreadFault_within core s (.refl s) (.refl _)
  | .wdogKick who => execWdogKick_within who s (.refl s) (.refl _)
  | .machineCheck core customer => execMachineCheck_within core customer s (.refl s) (.refl _)
  | .hostRestart who key => execHostRestart_within who key s (.refl s) (.refl _)
  | .deckRestartDone verified version => execDeckRestartDone_within verified version s (.refl s) (.refl _)
  | .pcEn who set on => execPcEn_within who set on s (.refl s) (.refl _)
  | .pcFreeze who set on => execPcFreeze_within who set on s (.refl s) (.refl _)
  | .pcClear who set => execPcClear_within who set s (.refl s) (.refl _)
  | .pcSelWrite who sel v => execPcSelWrite_within who sel v s (.refl s) (.refl _)
  | .pcSmode who core mode => execPcSmode_within who core mode s (.refl s) (.refl _)
  | .preciseSample core addr latency => execPreciseSample_within core addr latency s (.refl s) (.refl _)
  | .w2winOpen core addr => execW2winOpen_within core addr s (.refl s) (.refl _)
  | .w2winClose core cycles retired wasted front mask => execW2winClose_within core cycles retired wasted front mask s (.refl s) (.refl _)
  | .thLoad who thread => execThLoad_within who thread s (.refl s) (.refl _)
  | .schedSnapshot who clr => execSchedSnapshot_within who clr s (.refl s) (.refl _)
  | .memCorrection region addr channel lane target => execMemCorrection_within region addr channel lane target s (.refl s) (.refl _)
  | .memUe region addr target => execMemUe_within region addr target s (.refl s) (.refl _)
  | .patrolRead region r => execPatrolRead_within region r s (.refl s) (.refl _)
  | .memSnapshot who clr => execMemSnapshot_within who clr s (.refl s) (.refl _)
  | .ledgerEvent e => execLedgerEvent_within e s (.refl s) (.refl _)
  | .ledgerFlush during badUnits => execLedgerFlush_within during badUnits s (.refl s) (.refl _)
  | .flushNow who => execFlushNow_within who s (.refl s) (.refl _)
  | .trackSample track derived => execTrackSample_within track derived s (.refl s) (.refl _)
  | .refLatch who => execRefLatch_within who s (.refl s) (.refl _)
  | .calReadFreeze who k => execCalReadFreeze_within who k s (.refl s) (.refl _)
  | .calReadRelease who => execCalReadRelease_within who s (.refl s) (.refl _)
  | .calFreezeTimeout who => execCalFreezeTimeout_within who s (.refl s) (.refl _)
  | .calCommit who => execCalCommit_within who s (.refl s) (.refl _)
  | .derive who => execDerive_within who s (.refl s) (.refl _)
  | .generate who pairOk => execGenerate_within who pairOk s (.refl s) (.refl _)
  | .unwrap who ok => execUnwrap_within who ok s (.refl s) (.refl _)
  | .wrap who => execWrap_within who s (.refl s) (.refl _)
  | .destroy who => execDestroy_within who s (.refl s) (.refl _)
  | .encrypt who more => execEncrypt_within who more s (.refl s) (.refl _)
  | .decrypt who more tagOk => execDecrypt_within who more tagOk s (.refl s) (.refl _)
  | .hmac who more => execHmac_within who more s (.refl s) (.refl _)
  | .sign who => execSign_within who s (.refl s) (.refl _)
  | .verify who ok => execVerify_within who ok s (.refl s) (.refl _)
  | .ecdh who => execEcdh_within who s (.refl s) (.refl _)
  | .hash who more => execHash_within who more s (.refl s) (.refl _)
  | .random who => execRandom_within who s (.refl s) (.refl _)
  | .pubkey who => execPubkey_within who s (.refl s) (.refl _)
  | .attest who => execAttest_within who s (.refl s) (.refl _)
  | .gkMap who => execGkMap_within who s (.refl s) (.refl _)
  | .gkUnmap who => execGkUnmap_within who s (.refl s) (.refl _)
  | .authReq who => execAuthReq_within who s (.refl s) (.refl _)
  | .auth who ok => execAuth_within who ok s (.refl s) (.refl _)
  | .zeroize who => execZeroize_within who s (.refl s) (.refl _)
  | .enrol who cert certOk => execEnrol_within who cert certOk s (.refl s) (.refl _)
  | .calEnrol who => execCalEnrol_within who s (.refl s) (.refl _)
  | .purge who => execPurge_within who s (.refl s) (.refl _)
  | .tillOpTimeout deck => execTillOpTimeout_within deck s (.refl s) (.refl _)
  | .tamperTrip sources => execTamperTrip_within sources s (.refl s) (.refl _)
  | .keyExpiry slot => execKeyExpiry_within slot s (.refl s) (.refl _)
  | .authRequestExpiry op => execAuthRequestExpiry_within op s (.refl s) (.refl _)
  | .gkExpiring entry => execGkExpiring_within entry s (.refl s) (.refl _)
  | .slotLoad who slot => execSlotLoad_within who slot s (.refl s) (.refl _)
  | .gkLoad who entry => execGkLoad_within who entry s (.refl s) (.refl _)
  | .rxHeartbeat link h hb => execRxHeartbeat_within link h hb s (.refl s) (.refl _)
  | .rxDigest link h entries => execRxDigest_within link h entries s (.refl s) (.refl _)
  | .rxLedger link h records => execRxLedger_within link h records s (.refl s) (.refl _)
  | .rxEnergy link h save => execRxEnergy_within link h save s (.refl s) (.refl _)
  | .rxHealth link h report => execRxHealth_within link h report s (.refl s) (.refl _)
  | .rxResyncReq link h => execRxResyncReq_within link h s (.refl s) (.refl _)
  | .rxResyncData link h d => execRxResyncData_within link h d s (.refl s) (.refl _)
  | .rxCredit link h => execRxCredit_within link h s (.refl s) (.refl _)
  | .rxLinkInit link h => execRxLinkInit_within link h s (.refl s) (.refl _)
  | .shroudLinkChange link up => execShroudLinkChange_within link up s (.refl s) (.refl _)
  | .leaseWrite who v => execLeaseWrite_within who v s (.refl s) (.refl _)
  | .leaseDrop who => execLeaseDrop_within who s (.refl s) (.refl _)
  | .rxGrant m => execRxGrant_within m s (.refl s) (.refl _)
  | .rxRenewed m => execRxRenewed_within m s (.refl s) (.refl _)
  | .rxDeny m reason => execRxDeny_within m reason s (.refl s) (.refl _)
  | .clerkRxRequest m => execClerkRxRequest_within m s (.refl s) (.refl _)
  | .clerkRxRenew m => execClerkRxRenew_within m s (.refl s) (.refl _)
  | .clerkRxRelease m => execClerkRxRelease_within m s (.refl s) (.refl _)
  | .digestUncompared inst => execDigestUncompared_within inst s (.refl s) (.refl _)
  | .pairSnapshot who clr => execPairSnapshot_within who clr s (.refl s) (.refl _)
  | .nodeStart x => execNodeStart_within x s (.refl s) (.refl _)
  | .botVerify who bank => execBotVerify_within who bank s (.refl s) (.refl _)
  | .bankVerifyDone check img => execBankVerifyDone_within check img s (.refl s) (.refl _)
  | .botErase who bank => execBotErase_within who bank s (.refl s) (.refl _)
  | .activateFw who bank force check => execActivateFw_within who bank force check s (.refl s) (.refl _)
  | .activateFull who bank force check => execActivateFull_within who bank force check s (.refl s) (.refl _)
  | .activationResumption hashOk => execActivationResumption_within hashOk s (.refl s) (.refl _)
  | .svcInfo h => execSvcInfo_within h s (.refl s) (.refl _)
  | .svcErase h bank => execSvcErase_within h bank s (.refl s) (.refl _)
  | .svcWrite h bank ofs data => execSvcWrite_within h bank ofs data s (.refl s) (.refl _)
  | .svcVerify h bank => execSvcVerify_within h bank s (.refl s) (.refl _)
  | .svcActivate h cmd check => execSvcActivate_within h cmd check s (.refl s) (.refl _)
  | .svcTill h code args mbox cert ok => execSvcTill_within h code args mbox cert ok s (.refl s) (.refl _)
  | .svcReboot h bank => execSvcReboot_within h bank s (.refl s) (.refl _)
  | .svcLog h ofs => execSvcLog_within h ofs s (.refl s) (.refl _)
  | .powerUp fail => execPowerUp_within fail s (.refl s) (.refl _)
  | .railRetry fail => execRailRetry_within fail s (.refl s) (.refl _)
  | .railMeasure rails vin iin pmw vstore => execRailMeasure_within rails vin iin pmw vstore s (.refl s) (.refl _)
  | .sensorReading temp => execSensorReading_within temp s (.refl s) (.refl _)
  | .furl who key => execFurl_within who key s (.refl s) (.refl _)
  | .powerResumption version => execPowerResumption_within version s (.refl s) (.refl _)
  | .railLoad who rail => execRailLoad_within who rail s (.refl s) (.refl _)
  | .linkReset kind => execLinkReset_within kind s (.refl s) (.refl _)
  | .eoi vector => execEoi_within vector s (.refl s) (.refl _)
  | .msixTableWrite vector w v => execMsixTableWrite_within vector w v s (.refl s) (.refl _)
  | .lowWordRead ofs => execLowWordRead_within ofs s (.refl s) (.refl _)
  | .windowRead w r poison => execWindowRead_within w r poison s (.refl s) (.refl _)
  | .winOpen w => execWinOpen_within w s (.refl s) (.refl _)
  | .winAbort w => execWinAbort_within w s (.refl s) (.refl _)
  | .registerWrite who ofs be v => execRegisterWrite_within who ofs be v s (.refl s) (.refl _)
  | .holdoverLimitCrossed sec => execHoldoverLimitCrossed_within sec s (.refl s) (.refl _)
  | .rxLpiEntry port enter => execRxLpiEntry_within port enter s (.refl s) (.refl _)
  | .rxReadyCoalesce port => execRxReadyCoalesce_within port s (.refl s) (.refl _)
  | .deadClear ch => execDeadClear_within ch s (.refl s) (.refl _)
  | .storeChargeDone cf => execStoreChargeDone_within cf s (.refl s) (.refl _)
  | .pcOvf c => execPcOvf_within c s (.refl s) (.refl _)
  | .unsupportedRequest ofs len write => execUnsupportedRequest_within ofs len write s (.refl s) (.refl _)
  | .clearOnRead who ch => execClearOnRead_within who ch s (.refl s) (.refl _)
  | .noIncrementTimeout => execNoIncrementTimeout_within s (.refl s) (.refl _)
  | .leapApplied => execLeapApplied_within s (.refl s) (.refl _)
  | .ppsEdge => execPpsEdge_within s (.refl s) (.refl _)
  | .ppsMissing => execPpsMissing_within s (.refl s) (.refl _)
  | .cycleReferenceLost why => execCycleReferenceLost_within why s (.refl s) (.refl _)
  | .kernelTick => execKernelTick_within s (.refl s) (.refl _)
  | .latAged => execLatAged_within s (.refl s) (.refl _)
  | .tableauOpen => execTableauOpen_within s (.refl s) (.refl _)
  | .place => execPlace_within s (.refl s) (.refl _)
  | .syncApply => execSyncApply_within s (.refl s) (.refl _)
  | .bootSyncStore => execBootSyncStore_within s (.refl s) (.refl _)
  | .bootSyncFallback => execBootSyncFallback_within s (.refl s) (.refl _)
  | .intervalEnd => execIntervalEnd_within s (.refl s) (.refl _)
  | .supplyCheck => execSupplyCheck_within s (.refl s) (.refl _)
  | .ahSave => execAhSave_within s (.refl s) (.refl _)
  | .bellTestDrive => execBellTestDrive_within s (.refl s) (.refl _)
  | .baselineSave => execBaselineSave_within s (.refl s) (.refl _)
  | .xfDatagram => execXfDatagram_within s (.refl s) (.refl _)
  | .composerEnqueue => execComposerEnqueue_within s (.refl s) (.refl _)
  | .osItemAbandon => execOsItemAbandon_within s (.refl s) (.refl _)
  | .packerBlockStart => execPackerBlockStart_within s (.refl s) (.refl _)
  | .packerBlockDone => execPackerBlockDone_within s (.refl s) (.refl _)
  | .postApply => execPostApply_within s (.refl s) (.refl _)
  | .wdogExpiry => execWdogExpiry_within s (.refl s) (.refl _)
  | .deckFailed => execDeckFailed_within s (.refl s) (.refl _)
  | .trackWrite => execTrackWrite_within s (.refl s) (.refl _)
  | .clearRequest => execClearRequest_within s (.refl s) (.refl _)
  | .clearExecute => execClearExecute_within s (.refl s) (.refl _)
  | .clearCancel => execClearCancel_within s (.refl s) (.refl _)
  | .clearExpiry => execClearExpiry_within s (.refl s) (.refl _)
  | .clearEraseDone => execClearEraseDone_within s (.refl s) (.refl _)
  | .lastWordsUpdate => execLastWordsUpdate_within s (.refl s) (.refl _)
  | .lwAck => execLwAck_within s (.refl s) (.refl _)
  | .ledgerReadOpen => execLedgerReadOpen_within s (.refl s) (.refl _)
  | .ledgerReadAbort => execLedgerReadAbort_within s (.refl s) (.refl _)
  | .vbatSwitch => execVbatSwitch_within s (.refl s) (.refl _)
  | .sentryLoss => execSentryLoss_within s (.refl s) (.refl _)
  | .calSecond => execCalSecond_within s (.refl s) (.refl _)
  | .tillCommandDone => execTillCommandDone_within s (.refl s) (.refl _)
  | .heartbeatSend => execHeartbeatSend_within s (.refl s) (.refl _)
  | .peerLost => execPeerLost_within s (.refl s) (.refl _)
  | .leaseExpiry => execLeaseExpiry_within s (.refl s) (.refl _)
  | .clerkRenew => execClerkRenew_within s (.refl s) (.refl _)
  | .clerkRequest => execClerkRequest_within s (.refl s) (.refl _)
  | .clerkLost => execClerkLost_within s (.refl s) (.refl _)
  | .clerkQuietEnd => execClerkQuietEnd_within s (.refl s) (.refl _)
  | .digestFrameSend => execDigestFrameSend_within s (.refl s) (.refl _)
  | .healthSend => execHealthSend_within s (.refl s) (.refl _)
  | .resyncDone => execResyncDone_within s (.refl s) (.refl _)
  | .failCntClear => execFailCntClear_within s (.refl s) (.refl _)
  | .trialConfirm => execTrialConfirm_within s (.refl s) (.refl _)
  | .bankEraseDone => execBankEraseDone_within s (.refl s) (.refl _)
  | .powerFail => execPowerFail_within s (.refl s) (.refl _)
  | .furlLatchClear => execFurlLatchClear_within s (.refl s) (.refl _)
  | .holdupEnd => execHoldupEnd_within s (.refl s) (.refl _)
  | .heldWriteDrop => execHeldWriteDrop_within s (.refl s) (.refl _)
  | .d3hotEntry => execD3hotEntry_within s (.refl s) (.refl _)

/-- A command that leaves the register file changes no register. -/
theorem AnswersIn.only {L : List Part} {R : List RegSet} {s : State} {o : Host.Outcome State Fault Refusal} (h : AnswersIn L s o)
    (hn : .regs ∉ L) : AnswersOnly R s o :=
  let ⟨t, ht, hw⟩ := h
  ⟨t, ht, (OnlyRegs.refl s).pass hw hn⟩

/-- Where every register may change, a next state is all there is to say. -/
theorem AnswersIn.onlyAny {L : List Part} {R : List RegSet} {s : State} {o : Host.Outcome State Fault Refusal} (h : AnswersIn L s o)
    (hany : anyReg ∈ R) : AnswersOnly R s o :=
  let ⟨t, ht, _⟩ := h
  ⟨t, ht, ⟨fun a ha => absurd (covAny hany a) fun ⟨f, hf, hfa⟩ => ha f hf hfa⟩⟩

/-- No command changes a register outside those that `touched` gives it. -/
theorem exec_only (c : Instr) (s : State) : AnswersOnly (touched c).regs s (exec c s) :=
  match c with
  | .incrWrite who v => execIncrWrite_only who v s (.refl s) (.refl _)
  | .commitSet who => execCommitSet_only who s (.refl s) (.refl _)
  | .commitStep who backward => execCommitStep_only who backward s (.refl s) (.refl _)
  | .lockSet who => execLockSet_only who s (.refl s) (.refl _)
  | .holdSet who => execHoldSet_only who s (.refl s) (.refl _)
  | .gmChange who => execGmChange_only who s (.refl s) (.refl _)
  | .gmLost who => execGmLost_only who s (.refl s) (.refl _)
  | .gmReturn who => execGmReturn_only who s (.refl s) (.refl _)
  | .guardAccept who => execGuardAccept_only who s (.refl s) (.refl _)
  | .irigFrame f => execIrigFrame_only f s (.refl s) (.refl _)
  | .cycleCompare => execCycleCompare_only s (.refl s) (.refl _)
  | .cycCfgWrite who v => execCycCfgWrite_only who v s (.refl s) (.refl _)
  | .scheduleFire e => execScheduleFire_only e s (.refl s) (.refl _)
  | .schLoad who => execSchLoad_only who s (.refl s) (.refl _)
  | .schStore who => execSchStore_only who s (.refl s) (.refl _)
  | .schDisarm who => execSchDisarm_only who s (.refl s) (.refl _)
  | .schDisarmAll who => execSchDisarmAll_only who s (.refl s) (.refl _)
  | .rxFrame port f => execRxFrame_only port f s (.refl s) (.refl _)
  | .eeeWrite who port v => execEeeWrite_only who port v s (.refl s) (.refl _)
  | .ringEnable who port => execRingEnable_only who port s (.refl s) (.refl _)
  | .ringDisable who port => execRingDisable_only who port s (.refl s) (.refl _)
  | .rxTail who port index bufs => execRxTail_only who port index bufs s (.refl s) (.refl _)
  | .txFrameEnd port => execTxFrameEnd_only port s (.refl s) (.refl _)
  | .portSnapshot who port clr => execPortSnapshot_only who port clr s (.refl s) (.refl _)
  | .portSnapshotAll who clr => execPortSnapshotAll_only who clr s (.refl s) (.refl _)
  | .linkChange port up anDone => execLinkChange_only port up anDone s (.refl s) (.refl _)
  | .ingestParse pipe => execIngestParse_only pipe s (.refl s) (.refl _)
  | .sourceCommandSend stream cmd queue prio => execSourceCommandSend_only stream cmd queue prio s (.refl s) (.refl _)
  | .streamLoad who => execStreamLoad_only who s (.refl s) (.refl _)
  | .ingestSnapshot who clr => execIngestSnapshot_only who clr s (.refl s) (.refl _)
  | .sectionSeal instant cls => execSectionSeal_only instant cls s (.refl s) (.refl _)
  | .sectionClose instant cls => execSectionClose_only instant cls s (.refl s) (.refl _)
  | .revisionIssue instant => execRevisionIssue_only instant s (.refl s) (.refl _)
  | .bellWrite who cls bell => execBellWrite_only who cls bell s (.refl s) (.refl _)
  | .clsLoad who => execClsLoad_only who s (.refl s) (.refl _)
  | .clsClear who => execClsClear_only who s (.refl s) (.refl _)
  | .bellLearn cls => execBellLearn_only cls s (.refl s) (.refl _)
  | .marketSnapshot who clr => execMarketSnapshot_only who clr s (.refl s) (.refl _)
  | .twOpen who => execTwOpen_only who s (.refl s) (.refl _)
  | .ribOpen who => execRibOpen_only who s (.refl s) (.refl _)
  | .decimatorOutput ch bits => execDecimatorOutput_only ch bits s (.refl s) (.refl _)
  | .settlingEnd ch => execSettlingEnd_only ch s (.refl s) (.refl _)
  | .channelDead ch => execChannelDead_only ch s (.refl s) (.refl _)
  | .calApply who mask => execCalApply_only who mask s (.refl s) (.refl _)
  | .pqLoad who => execPqLoad_only who s (.refl s) (.refl _)
  | .pqStore who => execPqStore_only who s (.refl s) (.refl _)
  | .svGainLoad who => execSvGainLoad_only who s (.refl s) (.refl _)
  | .svGainStore who => execSvGainStore_only who s (.refl s) (.refl _)
  | .fcalLoad who ch => execFcalLoad_only who ch s (.refl s) (.refl _)
  | .estimateComplete ls instant => execEstimateComplete_only ls instant s (.refl s) (.refl _)
  | .energySave ok => execEnergySave_only ok s (.refl s) (.refl _)
  | .energySaveNow who => execEnergySaveNow_only who s (.refl s) (.refl _)
  | .energySnapshot who => execEnergySnapshot_only who s (.refl s) (.refl _)
  | .captureSample drained => execCaptureSample_only drained s (.refl s) (.refl _)
  | .bellLineFall line lowNs => execBellLineFall_only line lowNs s (.refl s) (.refl _)
  | .captureArm who arm => execCaptureArm_only who arm s (.refl s) (.refl _)
  | .thLvlWrite who th v => execThLvlWrite_only who th v s (.refl s) (.refl _)
  | .recInfo who => execRecInfo_only who s (.refl s) (.refl _)
  | .recExport who format pack => execRecExport_only who format pack s (.refl s) (.refl _)
  | .recRelease who => execRecRelease_only who s (.refl s) (.refl _)
  | .captureSnapshot who clr => execCaptureSnapshot_only who clr s (.refl s) (.refl _)
  | .modeLoad who => execModeLoad_only who s (.refl s) (.refl _)
  | .modeShape who => execModeShape_only who s (.refl s) (.refl _)
  | .sigLoad who sig => execSigLoad_only who sig s (.refl s) (.refl _)
  | .oscSnapshot who clr => execOscSnapshot_only who clr s (.refl s) (.refl _)
  | .brLoad who branch => execBrLoad_only who branch s (.refl s) (.refl _)
  | .busLoad who bus => execBusLoad_only who bus s (.refl s) (.refl _)
  | .islLoad who => execIslLoad_only who s (.refl s) (.refl _)
  | .islMembers who => execIslMembers_only who s (.refl s) (.refl _)
  | .topoSnapshot who clr => execTopoSnapshot_only who clr s (.refl s) (.refl _)
  | .gooseRetransmit pub => execGooseRetransmit_only pub s (.refl s) (.refl _)
  | .osLoad who => execOsLoad_only who s (.refl s) (.refl _)
  | .osOn who => execOsOn_only who s (.refl s) (.refl _)
  | .osOff who => execOsOff_only who s (.refl s) (.refl _)
  | .ruleLoad who => execRuleLoad_only who s (.refl s) (.refl _)
  | .ruleStore who => execRuleStore_only who s (.refl s) (.refl _)
  | .pubLoad who pub => execPubLoad_only who pub s (.refl s) (.refl _)
  | .xfGo who => execXfGo_only who s (.refl s) (.refl _)
  | .xfAbort who => execXfAbort_only who s (.refl s) (.refl _)
  | .qCommit who q prio len => execQCommit_only who q prio len s (.refl s) (.refl _)
  | .qCommitLand q => execQCommitLand_only q s (.refl s) (.refl _)
  | .txStart port cls => execTxStart_only port cls s (.refl s) (.refl _)
  | .egressSnapshot who clr => execEgressSnapshot_only who clr s (.refl s) (.refl _)
  | .jobPack who blockKib input => execJobPack_only who blockKib input s (.refl s) (.refl _)
  | .jobUnpack who blockKib input => execJobUnpack_only who blockKib input s (.refl s) (.refl _)
  | .jobRaw who blockKib input => execJobRaw_only who blockKib input s (.refl s) (.refl _)
  | .jobAbort who => execJobAbort_only who s (.refl s) (.refl _)
  | .packerSnapshot who clr => execPackerSnapshot_only who clr s (.refl s) (.refl _)
  | .postInstruction core target => execPostInstruction_only core target s (.refl s) (.refl _)
  | .hostPost thread => execHostPost_only thread s (.refl s) (.refl _)
  | .tickTimeout thread => execTickTimeout_only thread s (.refl s) (.refl _)
  | .threadFault core => execThreadFault_only core s (.refl s) (.refl _)
  | .machineCheck core customer => execMachineCheck_only core customer s (.refl s) (.refl _)
  | .hostRestart who key => execHostRestart_only who key s (.refl s) (.refl _)
  | .deckRestartDone verified version => execDeckRestartDone_only verified version s (.refl s) (.refl _)
  | .pcEn who set on => execPcEn_only who set on s (.refl s) (.refl _)
  | .pcFreeze who set on => execPcFreeze_only who set on s (.refl s) (.refl _)
  | .pcClear who set => execPcClear_only who set s (.refl s) (.refl _)
  | .pcSelWrite who sel v => execPcSelWrite_only who sel v s (.refl s) (.refl _)
  | .pcSmode who core mode => execPcSmode_only who core mode s (.refl s) (.refl _)
  | .preciseSample core addr latency => execPreciseSample_only core addr latency s (.refl s) (.refl _)
  | .w2winClose core cycles retired wasted front mask => execW2winClose_only core cycles retired wasted front mask s (.refl s) (.refl _)
  | .thLoad who thread => execThLoad_only who thread s (.refl s) (.refl _)
  | .schedSnapshot who clr => execSchedSnapshot_only who clr s (.refl s) (.refl _)
  | .memCorrection region addr channel lane target => execMemCorrection_only region addr channel lane target s (.refl s) (.refl _)
  | .memUe region addr target => execMemUe_only region addr target s (.refl s) (.refl _)
  | .patrolRead region r => execPatrolRead_only region r s (.refl s) (.refl _)
  | .memSnapshot who clr => execMemSnapshot_only who clr s (.refl s) (.refl _)
  | .ledgerEvent e => execLedgerEvent_only e s (.refl s) (.refl _)
  | .ledgerFlush during badUnits => execLedgerFlush_only during badUnits s (.refl s) (.refl _)
  | .derive who => execDerive_only who s (.refl s) (.refl _)
  | .generate who pairOk => execGenerate_only who pairOk s (.refl s) (.refl _)
  | .unwrap who ok => execUnwrap_only who ok s (.refl s) (.refl _)
  | .wrap who => execWrap_only who s (.refl s) (.refl _)
  | .destroy who => execDestroy_only who s (.refl s) (.refl _)
  | .encrypt who more => execEncrypt_only who more s (.refl s) (.refl _)
  | .decrypt who more tagOk => execDecrypt_only who more tagOk s (.refl s) (.refl _)
  | .hmac who more => execHmac_only who more s (.refl s) (.refl _)
  | .sign who => execSign_only who s (.refl s) (.refl _)
  | .verify who ok => execVerify_only who ok s (.refl s) (.refl _)
  | .ecdh who => execEcdh_only who s (.refl s) (.refl _)
  | .hash who more => execHash_only who more s (.refl s) (.refl _)
  | .random who => execRandom_only who s (.refl s) (.refl _)
  | .pubkey who => execPubkey_only who s (.refl s) (.refl _)
  | .attest who => execAttest_only who s (.refl s) (.refl _)
  | .gkMap who => execGkMap_only who s (.refl s) (.refl _)
  | .gkUnmap who => execGkUnmap_only who s (.refl s) (.refl _)
  | .authReq who => execAuthReq_only who s (.refl s) (.refl _)
  | .auth who ok => execAuth_only who ok s (.refl s) (.refl _)
  | .zeroize who => execZeroize_only who s (.refl s) (.refl _)
  | .enrol who cert certOk => execEnrol_only who cert certOk s (.refl s) (.refl _)
  | .calEnrol who => execCalEnrol_only who s (.refl s) (.refl _)
  | .purge who => execPurge_only who s (.refl s) (.refl _)
  | .tamperTrip sources => execTamperTrip_only sources s (.refl s) (.refl _)
  | .gkExpiring entry => execGkExpiring_only entry s (.refl s) (.refl _)
  | .slotLoad who slot => execSlotLoad_only who slot s (.refl s) (.refl _)
  | .gkLoad who entry => execGkLoad_only who entry s (.refl s) (.refl _)
  | .rxHeartbeat link h hb => execRxHeartbeat_only link h hb s (.refl s) (.refl _)
  | .rxDigest link h entries => execRxDigest_only link h entries s (.refl s) (.refl _)
  | .rxResyncData link h d => execRxResyncData_only link h d s (.refl s) (.refl _)
  | .shroudLinkChange link up => execShroudLinkChange_only link up s (.refl s) (.refl _)
  | .leaseWrite who v => execLeaseWrite_only who v s (.refl s) (.refl _)
  | .leaseDrop who => execLeaseDrop_only who s (.refl s) (.refl _)
  | .rxGrant m => execRxGrant_only m s (.refl s) (.refl _)
  | .rxRenewed m => execRxRenewed_only m s (.refl s) (.refl _)
  | .rxDeny m reason => execRxDeny_only m reason s (.refl s) (.refl _)
  | .digestUncompared inst => execDigestUncompared_only inst s (.refl s) (.refl _)
  | .pairSnapshot who clr => execPairSnapshot_only who clr s (.refl s) (.refl _)
  | .botVerify who bank => execBotVerify_only who bank s (.refl s) (.refl _)
  | .bankVerifyDone check img => execBankVerifyDone_only check img s (.refl s) (.refl _)
  | .botErase who bank => execBotErase_only who bank s (.refl s) (.refl _)
  | .activateFw who bank force check => execActivateFw_only who bank force check s (.refl s) (.refl _)
  | .activateFull who bank force check => execActivateFull_only who bank force check s (.refl s) (.refl _)
  | .svcWrite h bank ofs data => execSvcWrite_only h bank ofs data s (.refl s) (.refl _)
  | .svcActivate h cmd check => execSvcActivate_only h cmd check s (.refl s) (.refl _)
  | .svcTill h code args mbox cert ok => execSvcTill_only h code args mbox cert ok s (.refl s) (.refl _)
  | .railMeasure rails vin iin pmw vstore => execRailMeasure_only rails vin iin pmw vstore s (.refl s) (.refl _)
  | .powerResumption version => execPowerResumption_only version s (.refl s) (.refl _)
  | .railLoad who rail => execRailLoad_only who rail s (.refl s) (.refl _)
  | .linkReset kind => execLinkReset_only kind s (.refl s) (.refl _)
  | .msixTableWrite vector w v => execMsixTableWrite_only vector w v s (.refl s) (.refl _)
  | .windowRead w r poison => execWindowRead_only w r poison s (.refl s) (.refl _)
  | .winAbort w => execWinAbort_only w s (.refl s) (.refl _)
  | .registerWrite who ofs be v => execRegisterWrite_only who ofs be v s (.head _) (.refl s) (List.subset_cons_self _ _)
  | .rxReadyCoalesce port => execRxReadyCoalesce_only port s (.refl s) (.refl _)
  | .deadClear ch => execDeadClear_only ch s (.refl s) (.refl _)
  | .storeChargeDone cf => execStoreChargeDone_only cf s (.refl s) (.refl _)
  | .pcOvf c => execPcOvf_only c s (.refl s) (.refl _)
  | .unsupportedRequest ofs len write => execUnsupportedRequest_only ofs len write s (.refl s) (.refl _)
  | .clearOnRead who ch => execClearOnRead_only who ch s (.refl s) (.refl _)
  | .noIncrementTimeout => execNoIncrementTimeout_only s (.refl s) (.refl _)
  | .leapApplied => execLeapApplied_only s (.refl s) (.refl _)
  | .ppsEdge => execPpsEdge_only s (.refl s) (.refl _)
  | .ppsMissing => execPpsMissing_only s (.refl s) (.refl _)
  | .cycleReferenceLost why => execCycleReferenceLost_only why s (.refl s) (.refl _)
  | .kernelTick => execKernelTick_only s (.refl s) (.refl _)
  | .latAged => execLatAged_only s (.refl s) (.refl _)
  | .tableauOpen => execTableauOpen_only s (.refl s) (.refl _)
  | .place => execPlace_only s (.refl s) (.refl _)
  | .syncApply => execSyncApply_only s (.refl s) (.refl _)
  | .intervalEnd => execIntervalEnd_only s (.refl s) (.refl _)
  | .supplyCheck => execSupplyCheck_only s (.refl s) (.refl _)
  | .ahSave => execAhSave_only s (.refl s) (.refl _)
  | .bellTestDrive => execBellTestDrive_only s (.refl s) (.refl _)
  | .baselineSave => execBaselineSave_only s (.refl s) (.refl _)
  | .xfDatagram => execXfDatagram_only s (.refl s) (.refl _)
  | .composerEnqueue => execComposerEnqueue_only s (.refl s) (.refl _)
  | .osItemAbandon => execOsItemAbandon_only s (.refl s) (.refl _)
  | .packerBlockDone => execPackerBlockDone_only s (.refl s) (.refl _)
  | .wdogExpiry => execWdogExpiry_only s (.refl s) (.refl _)
  | .deckFailed => execDeckFailed_only s (.refl s) (.refl _)
  | .clearRequest => execClearRequest_only s (.refl s) (.refl _)
  | .clearExecute => execClearExecute_only s (.refl s) (.refl _)
  | .clearExpiry => execClearExpiry_only s (.refl s) (.refl _)
  | .clearEraseDone => execClearEraseDone_only s (.refl s) (.refl _)
  | .ledgerReadOpen => execLedgerReadOpen_only s (.refl s) (.refl _)
  | .ledgerReadAbort => execLedgerReadAbort_only s (.refl s) (.refl _)
  | .vbatSwitch => execVbatSwitch_only s (.refl s) (.refl _)
  | .sentryLoss => execSentryLoss_only s (.refl s) (.refl _)
  | .calSecond => execCalSecond_only s (.refl s) (.refl _)
  | .peerLost => execPeerLost_only s (.refl s) (.refl _)
  | .leaseExpiry => execLeaseExpiry_only s (.refl s) (.refl _)
  | .clerkLost => execClerkLost_only s (.refl s) (.refl _)
  | .healthSend => execHealthSend_only s (.refl s) (.refl _)
  | .resyncDone => execResyncDone_only s (.refl s) (.refl _)
  | .trialConfirm => execTrialConfirm_only s (.refl s) (.refl _)
  | .bankEraseDone => execBankEraseDone_only s (.refl s) (.refl _)
  | .heldWriteDrop => execHeldWriteDrop_only s (.refl s) (.refl _)
  | .nodeStart .. | .activationResumption .. | .svcReboot .. | .sensorReading .. | .furl .. | .tillCommandDone
  | .powerFail | .holdupEnd =>
    (exec_within _ s).onlyAny (by simp [touched])
  | .timeBlockFreeze .. | .timeBlockRelease .. | .timeFreezeTimeout .. | .tqWrite .. | .flywheelLimit ..
  | .pfcRefresh .. | .pfcXon .. | .pauseExpiry .. | .lpiEntry .. | .tsqLatch .. | .tsqPop .. | .latClear ..
  | .clearAll .. | .twAbort .. | .ribAbort .. | .syncPinEdge .. | .sclSyncGo .. | .dinEdge .. | .bellPulseEnd ..
  | .captureForce .. | .captureReset .. | .bellTest .. | .recAbort .. | .baselineSaveNow .. | .modeAbort ..
  | .statusInterTimeout .. | .islAbort .. | .osCommandFrame .. | .qPush .. | .qDiscard .. | .qPop .. | .qFlush ..
  | .jobFlush .. | .hostCancel .. | .threadWait .. | .wdogKick .. | .w2winOpen .. | .flushNow .. | .trackSample ..
  | .refLatch .. | .calReadFreeze .. | .calReadRelease .. | .calFreezeTimeout .. | .calCommit .. | .tillOpTimeout ..
  | .keyExpiry .. | .authRequestExpiry .. | .rxLedger .. | .rxEnergy .. | .rxHealth .. | .rxResyncReq .. | .rxCredit ..
  | .rxLinkInit .. | .clerkRxRequest .. | .clerkRxRenew .. | .clerkRxRelease .. | .svcInfo .. | .svcErase ..
  | .svcVerify .. | .svcLog .. | .powerUp .. | .railRetry .. | .eoi .. | .lowWordRead .. | .winOpen ..
  | .holdoverLimitCrossed .. | .rxLpiEntry .. | .bootSyncStore | .bootSyncFallback | .packerBlockStart | .postApply
  | .trackWrite | .clearCancel | .lastWordsUpdate | .lwAck | .heartbeatSend | .clerkRenew | .clerkRequest
  | .clerkQuietEnd | .digestFrameSend | .failCntClear | .furlLatchClear | .d3hotEntry =>
    (exec_within _ s).only (by simp [touched])

/-- Every command has its effect: what it keeps, its parts and its registers are three laws of one answer. -/
theorem exec_effect (c : Instr) (s : State) : ∃ t, CommandEffect c s t := by
  obtain ⟨t, ht, hkeeps⟩ := exec_keeps c s
  obtain ⟨u, hu, hparts⟩ := exec_within c s
  obtain ⟨v, hv, hregs⟩ := exec_only c s
  obtain rfl : t = u := Host.Outcome.next.inj (ht.symm.trans hu)
  obtain rfl : t = v := Host.Outcome.next.inj (ht.symm.trans hv)
  exact ⟨t, ht, hkeeps, hparts, hregs⟩

/-- A command's effect is the state that exec answers. -/
theorem run_of_exec {c : Instr} {s t : State} (h : exec c s = .next t) : run c s = t := by
  unfold run
  rw [h]

/-- What a command does on its own, it does as a held access that is offered again. -/
theorem run_keeps (c : Instr) (s : State) : Keeps s (run c s) := by
  obtain ⟨t, h⟩ := exec_effect c s
  rw [run_of_exec h.answer]
  exact h.keeps

theorem step_of_pending {s : State} {c : Instr} {r : List Instr} (h : s.pending = c :: r) : step s = exec c { s with pending := r } := by
  unfold step
  rw [h]

theorem step_of_idle {s : State} (h : s.pending = []) : step s = .next (idle run s) := by
  unfold step
  rw [h]

/-- Settles O1: the step's own case on the queue. -/
theorem frontCommandRuns : Obligations.FrontCommandRuns := by
  unfold Obligations.FrontCommandRuns
  exact fun _ _ _ => step_of_pending

/-- Settles O3, command by command. -/
theorem commandsComplete : Obligations.CommandsComplete := by
  unfold Obligations.CommandsComplete
  intro c s
  obtain ⟨t, h⟩ := exec_effect c s
  exact ⟨t, h.answer, h.keeps⟩

/-- Settles O4: the front command keeps what every command keeps, and an idle step keeps it through the held accesses and the tick. -/
theorem stepsKeepTables : Obligations.StepsKeepTables := by
  unfold Obligations.StepsKeepTables
  intro s hs
  cases hq : s.pending with
  | nil =>
    obtain ⟨hqueue, hout, hfree, htables⟩ := idle_keeps run s run_keeps (Keeps.refl s)
    exact ⟨_, step_of_idle hq, htables hs, hout, hfree, hqueue.trans hq⟩
  | cons c r =>
    obtain ⟨t, h⟩ := exec_effect c { s with pending := r }
    obtain ⟨hqueue, hout, hfree, htables⟩ := h.keeps
    exact ⟨t, (step_of_pending hq).trans h.answer, htables hs, hout, hfree, hqueue⟩

/-- Settles O5, command by command. -/
theorem frameOfCommands : Obligations.FrameOfCommands := by
  unfold Obligations.FrameOfCommands
  intro c s
  obtain ⟨t, h⟩ := exec_effect c s
  exact ⟨t, h.answer, h.parts, h.regs⟩

end Sys2Proof.Machine
end

section
/-!
PROOFS of the family other: the idle step (O2), Furled (O6) and the values after reset (O8).
-/

namespace Sys2Proof.Machine

open Sys2Proof

/-! What stands in Furled: no block answers an access, and no event of a unit that Full sail or Reefed powers happens. -/

section
variable {c : Instr} {s t : State} (hf : s.power.st = .furled)
include hf

theorem not_fullSail_of_furled : s.power.st ≠ .fullSail := by
  rw [hf]
  decide

theorem exec_served_of_furled {who : Req} {ofs : Nat} {f : State → State} (hx : exec c s = .next (serve c who ofs f s)) :
    exec c s = .next s := by
  rw [hx, serve_furled hf]

theorem exec_hostServed_of_furled {ofs : Nat} {f : State → State} (hx : exec c s = .next (hostServe c ofs f s)) :
    exec c s = .next s := by
  rw [hx, hostServe_furled hf]

theorem exec_inFull_of_furled (hx : exec c s = inFull s t) : exec c s = .next s :=
  hx.trans (inFull_not s t (not_fullSail_of_furled hf))

theorem exec_powered_of_furled (hx : exec c s = powered s t) : exec c s = .next s := hx.trans (powered_off s t hf)

theorem exec_svc_of_furled {h : SvcHdr} {cmd : Nat} {f : State → Option (Nat × List Nat) × State}
    (hx : exec c s = .next (svcServe h cmd f s)) : exec c s = .next s := by
  rw [hx, svcServe_furled hf]

/-- A command whose condition asks for another state of the power than Furled. -/
theorem exec_if_of_furled {p : Prop} [Decidable p] (hx : exec c s = .next (if p then t else s)) (hp : p → s.power.st ≠ .furled) :
    exec c s = .next s := by
  rw [hx, if_neg fun h => hp h hf]

end

theorem mayResume_reefed {s : State} (h : mayResume s = true) : s.power.st = .reefed := by
  unfold mayResume at h
  simp only [Bool.and_eq_true, decide_eq_true_eq] at h
  exact h.1

/-- Settles O6: an access finds no block that answers, and an event of an unpowered unit does not happen. -/
theorem furledIsSilent : Obligations.FurledIsSilent := by
  unfold Obligations.FurledIsSilent
  intro c s hf hacts
  exact match c, hacts with
  | .incrWrite .., _ | .timeBlockFreeze .., _ | .timeBlockRelease .., _ | .lockSet .., _ | .holdSet .., _
  | .gmChange .., _ | .gmLost .., _ | .gmReturn .., _ | .guardAccept .., _ | .tqWrite .., _ | .cycCfgWrite .., _
  | .schLoad .., _ | .schStore .., _ | .schDisarm .., _ | .schDisarmAll .., _ | .refLatch .., _ | .calReadFreeze .., _
  | .calReadRelease .., _ | .calCommit .., _ | .commitSet .., _ | .commitStep .., _ | .eeeWrite .., _
  | .ringEnable .., _ | .ringDisable .., _ | .rxTail .., _ | .tsqLatch .., _ | .tsqPop .., _ | .portSnapshot .., _
  | .portSnapshotAll .., _ | .streamLoad .., _ | .latClear .., _ | .clearAll .., _ | .ingestSnapshot .., _
  | .bellWrite .., _ | .clsLoad .., _ | .clsClear .., _ | .marketSnapshot .., _ | .twOpen .., _ | .twAbort .., _
  | .ribOpen .., _ | .ribAbort .., _ | .sclSyncGo .., _ | .calApply .., _ | .pqLoad .., _ | .pqStore .., _
  | .svGainLoad .., _ | .svGainStore .., _ | .fcalLoad .., _ | .energySaveNow .., _ | .energySnapshot .., _
  | .captureArm .., _ | .captureForce .., _ | .captureReset .., _ | .thLvlWrite .., _ | .bellTest .., _
  | .recInfo .., _ | .recExport .., _ | .recRelease .., _ | .recAbort .., _ | .captureSnapshot .., _
  | .baselineSaveNow .., _ | .modeLoad .., _ | .modeShape .., _ | .modeAbort .., _ | .sigLoad .., _
  | .oscSnapshot .., _ | .brLoad .., _ | .busLoad .., _ | .islLoad .., _ | .islMembers .., _ | .islAbort .., _
  | .topoSnapshot .., _ | .osLoad .., _ | .osOn .., _ | .osOff .., _ | .ruleLoad .., _ | .ruleStore .., _
  | .pubLoad .., _ | .xfGo .., _ | .xfAbort .., _ | .qPush .., _ | .qCommit .., _ | .qDiscard .., _ | .qPop .., _
  | .qFlush .., _ | .egressSnapshot .., _ | .jobPack .., _ | .jobUnpack .., _ | .jobRaw .., _ | .jobFlush .., _
  | .jobAbort .., _ | .packerSnapshot .., _ | .wdogKick .., _ | .hostRestart .., _ | .pcEn .., _ | .pcFreeze .., _
  | .pcClear .., _ | .pcSmode .., _ | .thLoad .., _ | .schedSnapshot .., _ | .memSnapshot .., _ | .flushNow .., _
  | .slotLoad .., _ | .gkLoad .., _ | .leaseWrite .., _ | .leaseDrop .., _ | .pairSnapshot .., _ | .botVerify .., _
  | .botErase .., _ | .activateFw .., _ | .activateFull .., _ | .furl .., _ | .railLoad .., _ | .registerWrite .., _
  | .clearOnRead .., _ | .derive .., _ | .generate .., _ | .unwrap .., _ | .wrap .., _ | .destroy .., _
  | .encrypt .., _ | .decrypt .., _ | .hmac .., _ | .sign .., _ | .verify .., _ | .ecdh .., _ | .hash .., _
  | .random .., _ | .pubkey .., _ | .attest .., _ | .gkMap .., _ | .gkUnmap .., _ | .authReq .., _ | .auth .., _
  | .zeroize .., _ | .enrol .., _ | .calEnrol .., _ | .purge .., _ =>
    exec_served_of_furled hf rfl
  | .hostPost .., _ | .hostCancel .., _ | .eoi .., _
  | .msixTableWrite .., _ | .windowRead .., _ | .winOpen .., _ | .winAbort .., _ | .unsupportedRequest .., _
  | .clearRequest, _ | .clearExecute, _ | .clearCancel, _ | .lwAck, _ | .ledgerReadOpen, _ | .ledgerReadAbort, _ =>
    exec_hostServed_of_furled hf rfl
  | .rxFrame .., _ | .pfcRefresh .., _ | .pfcXon .., _ | .pauseExpiry .., _ | .lpiEntry .., _ | .txFrameEnd .., _
  | .linkChange .., _ | .ingestParse .., _ | .sourceCommandSend .., _ | .sectionSeal .., _ | .sectionClose .., _
  | .revisionIssue .., _ | .bellLearn .., _ | .statusInterTimeout .., _ | .gooseRetransmit .., _
  | .osCommandFrame .., _ | .qCommitLand .., _ | .txStart .., _ | .postInstruction .., _ | .tickTimeout .., _
  | .threadWait .., _ | .threadFault .., _ | .machineCheck .., _ | .deckRestartDone .., _ | .preciseSample .., _
  | .w2winOpen .., _ | .w2winClose .., _ | .patrolRead .., _ | .rxHeartbeat .., _ | .rxDigest .., _ | .rxLedger .., _
  | .rxEnergy .., _ | .rxHealth .., _ | .rxResyncReq .., _ | .rxResyncData .., _ | .rxCredit .., _ | .rxLinkInit .., _
  | .shroudLinkChange .., _ | .rxGrant .., _ | .rxRenewed .., _ | .rxDeny .., _ | .clerkRxRequest .., _
  | .clerkRxRenew .., _ | .clerkRxRelease .., _ | .digestUncompared .., _ | .bankVerifyDone .., _
  | .activationResumption .., _ | .linkReset .., _ | .rxLpiEntry .., _ | .rxReadyCoalesce .., _ | .pcOvf .., _
  | .latAged, _ | .tableauOpen, _ | .place, _ | .baselineSave, _ | .xfDatagram, _ | .composerEnqueue, _
  | .osItemAbandon, _ | .packerBlockStart, _ | .packerBlockDone, _ | .postApply, _ | .wdogExpiry, _ | .deckFailed, _
  | .heartbeatSend, _ | .peerLost, _ | .leaseExpiry, _ | .clerkRenew, _ | .clerkRequest, _ | .clerkLost, _
  | .clerkQuietEnd, _ | .digestFrameSend, _ | .healthSend, _ | .resyncDone, _ | .failCntClear, _ | .trialConfirm, _
  | .bankEraseDone, _ | .heldWriteDrop, _ | .d3hotEntry, _ =>
    exec_inFull_of_furled hf rfl
  | .timeFreezeTimeout .., _ | .irigFrame .., _ | .cycleCompare, _ | .flywheelLimit .., _ | .scheduleFire .., _
  | .syncPinEdge .., _ | .decimatorOutput .., _ | .settlingEnd .., _ | .channelDead .., _ | .estimateComplete .., _
  | .energySave .., _ | .captureSample .., _ | .dinEdge .., _ | .bellLineFall .., _ | .bellPulseEnd .., _
  | .memCorrection .., _ | .memUe .., _ | .ledgerEvent .., _ | .ledgerFlush .., _ | .trackSample .., _
  | .tillOpTimeout .., _ | .keyExpiry .., _ | .authRequestExpiry .., _ | .gkExpiring .., _
  | .holdoverLimitCrossed .., _ | .deadClear .., _ | .noIncrementTimeout, _ | .leapApplied, _ | .ppsEdge, _
  | .ppsMissing, _ | .cycleReferenceLost .., _ | .kernelTick, _ | .syncApply, _ | .bootSyncStore, _
  | .bootSyncFallback, _ | .intervalEnd, _ | .supplyCheck, _ | .ahSave, _ | .bellTestDrive, _ | .trackWrite, _
  | .clearExpiry, _ | .clearEraseDone, _ | .lastWordsUpdate, _ | .tillCommandDone, _ =>
    exec_powered_of_furled hf rfl
  | .svcInfo .., _ | .svcErase .., _ | .svcWrite .., _ | .svcVerify .., _ | .svcActivate .., _ | .svcTill .., _
  | .svcReboot .., _ | .svcLog .., _ =>
    exec_svc_of_furled hf rfl
  | .pcSelWrite _ (.core ..) _, _ | .pcSelWrite _ (.dataPath _) _, _ => exec_served_of_furled hf rfl
  | .lowWordRead _, _ => exec_hostServed_of_furled hf rfl
  | .nodeStart _, _ => exec_if_of_furled hf rfl fun h => by rw [h.2]; decide
  | .powerResumption _, _ => exec_if_of_furled hf rfl fun h => by rw [mayResume_reefed h]; decide
  | .storeChargeDone _, _ => exec_if_of_furled hf rfl fun h => by rw [h]; decide
  | .holdupEnd, _ => exec_if_of_furled hf rfl fun h => by rw [h.1]; decide
  | .sensorReading _, _ => congrArg Host.Outcome.next (if_pos (Or.inl hf))

/-! The idle step: the units' ticks one after the other. -/

/-- What the ticks of the Mast's clocks, of the Deck and of the hours leave of the counters of time. -/
theorem clocks_parts (s : State) :
    (hoursTick (deckTick (monoTick (holdTickStep (cycleTick (taiTick s)))))).ticks = s.ticks + 1 ∧
    (hoursTick (deckTick (monoTick (holdTickStep (cycleTick (taiTick s)))))).tai = taiWrap (s.tai + (rd s MST_INCR).toNat) ∧
    (hoursTick (deckTick (monoTick (holdTickStep (cycleTick (taiTick s)))))).pair.mono = (s.ticks + 1) / 250 % 2 ^ 32 := by
  have hclock : Within [.mast] (taiTick s) (holdTickStep (cycleTick (taiTick s))) :=
    holdTickStep_within _ (cycleTick_within _ (.refl _) (.refl _)) (.refl _)
  have hmono : ∀ u : State, (monoTick u).pair.mono = u.ticks / 250 % 2 ^ 32 := fun u => by
    unfold monoTick
    split <;> rfl
  have hlate : ∀ u : State, Within [.regs, .live, .host, .deck, .out, .ledger] u (hoursTick (deckTick u)) := fun u =>
    hoursTick_within _ (deckTick_within u (.refl u) (by decide)) (by decide)
  have hmid := monoTick_within (L := [.live, .pair]) (holdTickStep (cycleTick (taiTick s))) (.refl _) (.refl _)
  refine ⟨?ticks, ?tai, ?mono⟩
  case ticks => exact ((hlate _).of .ticks).trans ((hmid.of .ticks).trans (hclock.of .ticks))
  case tai => exact ((hlate _).of .tai).trans ((hmid.of .tai).trans (hclock.of .tai))
  case mono =>
    refine (congrArg Pair.mono ((hlate _).of .pair)).trans ((hmono _).trans ?_)
    rw [hclock.of .ticks]
    rfl

theorem tick_of_powered {s : State} (h : s.power.st ≠ .furled) :
    (tick s).ticks = s.ticks + 1 ∧ (tick s).tai = taiWrap (s.tai + (rd s MST_INCR).toNat) ∧
    (tick s).pair.mono = (s.ticks + 1) / 250 % 2 ^ 32 := by
  obtain ⟨hticks, htai, hmono⟩ := clocks_parts s
  unfold tick
  rw [if_neg h]
  have hcrystal := crystalTick_within (L := [.regs, .host, .deck, .sentry, .out])
    (hoursTick (deckTick (monoTick (holdTickStep (cycleTick (taiTick s)))))) (.refl _) (.refl _)
  exact ⟨(hcrystal.of .ticks).trans hticks, (hcrystal.of .tai).trans htai,
    (congrArg Pair.mono (hcrystal.of .pair)).trans hmono⟩

/-- In Furled only the crystal goes on. -/
theorem tick_of_furled {s : State} (h : s.power.st = .furled) : Within [.regs, .host, .deck, .sentry, .out] s (tick s) := by
  unfold tick
  rw [if_pos h]
  exact crystalTick_within s (.refl s) (.refl _)

theorem step_of_nothing_held {s : State} (hq : s.pending = []) (hh : s.host.held = []) : step s = .next (tick s) := by
  rw [step_of_idle hq, idle, retry_none hh]

theorem tick_pending (s : State) : (tick s).pending = s.pending := (tick_keeps s (Keeps.refl s)).queue

/-- Settles O2: an idle step is the held accesses, offered again, and a tick. -/
theorem idleStep : Obligations.IdleStep := by
  unfold Obligations.IdleStep
  refine ⟨?powered, ?furled, ?held, fun _ _ _ => run_of_exec⟩
  case powered =>
    intro s hq hh hp
    exact ⟨tick s, step_of_nothing_held hq hh, (tick_pending s).trans hq, tick_of_powered hp⟩
  case furled =>
    intro s hq hh hf
    have hw := tick_of_furled hf
    exact ⟨tick s, step_of_nothing_held hq hh, (tick_pending s).trans hq, hw.of .ticks, hw.of .tai, hw.of .mast, hw.of .power⟩
  case held =>
    intro s hq
    rw [step_of_idle hq, idle, hostRetry]
    exact ⟨_, rfl, fun h => congrArg (fun u => Host.Outcome.next (tick u)) (if_pos h),
      fun h => congrArg (fun u => Host.Outcome.next (tick u)) (if_neg h)⟩

/-- Settles O8: the tables of the reset state are empty, so each register reads its row. -/
theorem resetValues : Obligations.ResetValues := by
  unfold Obligations.ResetValues
  exact ⟨fun _ => ⟨rfl, rfl⟩, ⟨by decide, by decide, by decide, rfl, rfl, rfl⟩, ⟨rfl, rfl⟩⟩

end Sys2Proof.Machine
end

section
/-!
PROOFS of the family other: the snapshots of the counters (O7).
-/

namespace Sys2Proof.Machine

open Sys2Proof

/-- A pair of a bank after a snapshot in which its live counter stood at `v`. -/
def Copied (clr : Bool) (a v : Nat) (t : State) : Prop := rd64 t a = v % 2 ^ 64 ∧ liveCnt t a = if clr then 0 else v

theorem Copied.congr {clr : Bool} {a v : Nat} {s t : State} (h : Copied clr a v s) (hlo : rd t a = rd s a)
    (hhi : rd t (a + 4) = rd s (a + 4)) (hl : liveCnt t a = liveCnt s a) : Copied clr a v t := by
  unfold Copied rd64 at *
  rw [hlo, hhi, hl]
  exact h

theorem forUpTo_rd {f : Nat → State → State} {n b : Nat} {s : State} (h : ∀ k, k < n → ∀ u, rd (f k u) b = rd u b) :
    rd (forUpTo n f s) b = rd s b :=
  List.foldlRecOn (motive := fun u => rd u b = rd s b) _ _ rfl fun u hu k hk => (h k (List.mem_range.mp hk) u).trans hu

/-- A 64-bit value is read back modulo 2^64. -/
theorem rd64_wr64 {a v : Nat} {s : State} (hs : TablesWf s) : rd64 (wr64 a v s) a = v % 2 ^ 64 := by
  unfold rd64 wr64
  rw [rd_wr_same _ _ _ (wr_tables hs), rd_wr_ne _ _ _ _ (by omega), rd_wr_same _ _ _ hs, loWord, hiWord, BitVec.toNat_ofNat,
    BitVec.toNat_ofNat]
  omega

/-- What a copy says of the state of the access holds of the state before it. -/
theorem Copied.accessed {clr : Bool} {a : Nat} {who : Req} {s t : State} (h : Copied clr a (liveCnt (accessed who s) a) t) :
    Copied clr a (liveCnt s a) t := by
  rwa [live_of_eq (accessed_live who s)] at h

/-- A served snapshot that does nothing but copy its bank and raise its interrupt. -/
theorem completes_snapshot {c : Instr} {who : Req} {ofs base n seq a i k : Nat} {clr : Bool} {s : State} (hs : TablesWf s)
    (hv : Served who ofs s) (hk : k < n)
    (hx : exec c s = .next (serve c who ofs (fun t => raise a i (snapshot base n seq clr t)) s))
    (hq : seq < base ∨ base + 8 * n ≤ seq := by decide) (ha : a < base ∨ base + 8 * n ≤ a := by decide)
    (hc : CTL_INT < base ∨ base + 8 * n ≤ CTL_INT := by decide) :
    Completes c s (Copied clr (base + 8 * k) (liveCnt s (base + 8 * k))) :=
  completes_served hx hv (Copied.accessed (snapshot_raised (accessed_tables who s hs) hk hq ha hc))

/-- Ingest's snapshot goes on with the pipelines' counters, which lie apart from its rejections. -/
theorem ingestSnapshot_copies (clr : Bool) (k : Nat) (s : State) (hs : TablesWf s) (hk : k < 17) :
    Copied clr (ING_REJ 0 + 8 * k) (liveCnt s (ING_REJ 0 + 8 * k)) (ingestSnapshot clr s) := by
  have hpipes : ∀ b, ING_REJ 0 ≤ b → b < ING_REJ 0 + 8 * 17 → ∀ j, j < 4 → b ≠ ING_PIPE (2 * j) ∧ b ≠ ING_PIPE (2 * j) + 4 := by
    intro b hlo hhi j hj
    simp only [ING_REJ, ING_PIPE] at *
    omega
  have hrd : ∀ b, ING_REJ 0 ≤ b → b < ING_REJ 0 + 8 * 17 → ∀ u : State,
      rd (forUpTo 4 (fun j => snapOne clr (ING_PIPE (2 * j))) u) b = rd u b := fun b hlo hhi u =>
    forUpTo_rd fun j hj v => snapOne_rd (hpipes b hlo hhi j hj).1 (hpipes b hlo hhi j hj).2
  have hint : ∀ b, ING_REJ 0 ≤ b → b < ING_REJ 0 + 8 * 17 → b ≠ ING_INT ∧ b ≠ CTL_INT := by
    intro b hlo hhi
    simp only [ING_REJ, ING_INT, CTL_INT] at *
    omega
  refine snapshot_facts (seq := ING_SNAP_SEQ) hs hk (by decide) (fun b hb => ?_) ?_
  · obtain ⟨h1, h2⟩ := hint b (by omega) (by omega)
    exact (rd_raise_ne _ _ _ _ h1 h2).trans (hrd b (by omega) (by omega) _)
  · exact (live_of_eq (raise_live _ _ _) _).trans
      (forUpTo_live fun j hj v => liveOther (hpipes _ (by omega) (by omega) j hj).1)

/-- The capture's snapshot restarts CAP_DEAD_MAX with CLR. -/
theorem captureSnapshot_copies (clr : Bool) (k : Nat) (s : State) (hs : TablesWf s) (hk : k < 8) :
    Copied clr (CAP_CNT 0 + 8 * k) (liveCnt s (CAP_CNT 0 + 8 * k)) (captureSnapshot clr s) := by
  have hcopied : Copied clr (CAP_CNT 0 + 8 * k) (liveCnt s (CAP_CNT 0 + 8 * k)) (raise CAP_INT 6 (snapshot (CAP_CNT 0) 8 CAP_SNAP_SEQ clr s)) :=
    snapshot_raised hs hk (by decide) (by decide) (by decide)
  unfold captureSnapshot
  dsimp only
  split
  · refine hcopied.congr (rd_wr_ne _ _ _ _ ?_) (rd_wr_ne _ _ _ _ ?_) rfl <;> simp only [CAP_CNT, CAP_DEAD_MAX] <;> omega
  · exact hcopied

/-- The scheduler's snapshot sets its bit of CTL_INT without a post. -/
theorem schedSnapshot_copies (clr : Bool) (k : Nat) (s : State) (hs : TablesWf s) (hk : k < 9) :
    Copied clr (CTL_SCH_CNT 0 + 8 * k) (liveCnt s (CTL_SCH_CNT 0 + 8 * k)) (setInt CTL_INT 10 (snapshot (CTL_SCH_CNT 0) 9 CTL_SCH_SNAP_SEQ clr s)) :=
  snapshot_facts hs hk (by decide)
    (fun b hb => rd_setInt_ne _ _ _ _ (by simp only [CTL_SCH_CNT, CTL_INT] at *; omega)) (live_of_eq (setInt_live _ _ _) _)

/-! The port's bank: the running periods are settled first, and RX_BUF_PEAK is shown in place of its pair. -/

/-- The words of counter `k` of a port's bank are no other registers of the port, and no words of RX_BUF_PEAK. -/
theorem portStat_apart {p k b : Nat} (hk : k < 48) (hb : b = PRT_STAT p (2 * k) ∨ b = PRT_STAT p (2 * k) + 4) :
    b ≠ PRT_INT p ∧ b ≠ CTL_INT ∧ b ≠ PRT_SNAP_SEC p ∧ b ≠ PRT_SNAP_NS p ∧
    (k ≠ cRX_BUF_PEAK → b ≠ PRT_STAT p (2 * cRX_BUF_PEAK) ∧ b ≠ PRT_STAT p (2 * cRX_BUF_PEAK) + 4) := by
  simp only [PRT_STAT, PRT_INT, CTL_INT, PRT_SNAP_SEC, PRT_SNAP_NS, cRX_BUF_PEAK] at *
  omega

theorem snapPort_copies (clr : Bool) (p k : Nat) (s : State) (hs : TablesWf s) (hk : k < 48) (hpeak : k ≠ cRX_BUF_PEAK) :
    Copied clr (PRT_STAT p (2 * k)) (liveCnt (settleUs p s) (PRT_STAT p (2 * k))) (snapPort clr p s) := by
  have hbank : PRT_STAT p 0 + 8 * k = PRT_STAT p (2 * k) := by simp only [PRT_STAT]; omega
  have hcopied := snapshot_facts (base := PRT_STAT p 0) (n := 48) (seq := PRT_SNAP_SEQ p) (k := k) (clr := clr) (s := settleUs p s)
    (t := snapPort clr p s) (settle_facts.2.1 hs) hk (by simp only [PRT_STAT, PRT_SNAP_SEQ]; omega)
    (fun b hb => by
      rw [hbank] at hb
      obtain ⟨hint, hctl, hsec, hns, hpair⟩ := portStat_apart hk hb
      rw [snapPort_rd hint hctl hsec hns]
      exact (rd_wr_ne _ _ _ _ (hpair hpeak).2).trans (rd_wr_ne _ _ _ _ (hpair hpeak).1))
    snapPort_live
  rwa [hbank] at hcopied

theorem snapPort_shows_peak (p : Nat) (s : State) (hs : TablesWf s) :
    rd64 (snapPort true p s) (PRT_STAT p (2 * cRX_BUF_PEAK)) = (port s p).peak % 2 ^ 64 := by
  obtain ⟨hint, hctl, hsec, hns, -⟩ := portStat_apart (p := p) (k := cRX_BUF_PEAK) (by decide) (.inl rfl)
  obtain ⟨hint', hctl', hsec', hns', -⟩ := portStat_apart (p := p) (k := cRX_BUF_PEAK) (by decide) (.inr rfl)
  unfold rd64
  rw [snapPort_rd hint hctl hsec hns, snapPort_rd hint' hctl' hsec' hns']
  exact rd64_wr64 ((snapshot_keeps _ _ _ _ _ (Keeps.refl _)).tables (settle_facts.2.1 hs))

theorem completes_portSnapshot {who : Req} {p : Fin 64} {clr : Bool} {s : State} {P : State → Prop} (hv : Served who (PRT_SNAP p.val) s)
    (h : P (snapPort clr p.val (accessed who s))) : Completes (.portSnapshot who p clr) s P :=
  completes_served (ofs := PRT_SNAP p.val) rfl hv h

/-- Settles O7: a snapshot copies its bank, and what a unit does beside lies apart from the bank. -/
theorem snapshotsCopy : Obligations.SnapshotsCopy := by
  unfold Obligations.SnapshotsCopy
  refine ⟨?ingest, ?market, ?capture, ?osc, ?topo, ?egress, ?packer, ?sched, ?mem, ?pair, ?port, ?peak, ?periods⟩
  case ingest =>
    intro who clr k s hs hv hk
    exact completes_served rfl hv (Copied.accessed (ingestSnapshot_copies clr k _ (accessed_tables who s hs) hk))
  case market => exact fun who clr k s hs hv hk => completes_snapshot hs hv hk rfl
  case capture =>
    intro who clr k s hs hv hk
    exact completes_served rfl hv (Copied.accessed (captureSnapshot_copies clr k _ (accessed_tables who s hs) hk))
  case osc => exact fun who clr k s hs hv hk => completes_snapshot hs hv hk rfl
  case topo => exact fun who clr k s hs hv hk => completes_snapshot hs hv hk rfl
  case egress => exact fun who clr k s hs hv hk => completes_snapshot hs hv hk rfl
  case packer => exact fun who clr k s hs hv hk => completes_snapshot hs hv hk rfl
  case sched =>
    intro who clr k s hs hv hk
    exact completes_served rfl hv (Copied.accessed (schedSnapshot_copies clr k _ (accessed_tables who s hs) hk))
  case mem => exact fun who clr k s hs hv hk => completes_snapshot hs hv hk rfl
  case pair => exact fun who clr k s hs hv hk => completes_snapshot hs hv hk rfl
  case port =>
    intro who p clr k s hs hv hk hpeak hpaused htx hrx hxoff
    have hcopied := snapPort_copies clr p.val k (accessed who s) (accessed_tables who s hs) hk hpeak
    rw [settle_other hpaused htx hrx hxoff] at hcopied
    exact completes_portSnapshot hv (Copied.accessed hcopied)
  case peak =>
    intro who p s hs hv
    have hports : (settleUs p.val (accessed who s)).ports = (settleUs p.val s).ports := by cases who <;> rfl
    have hport : port (accessed who s) p.val = port s p.val := by unfold port; rw [accessed_ports]
    obtain ⟨x, hx, htable⟩ := snapPort_peak (p := p.val) (s := accessed who s)
    refine completes_portSnapshot hv ⟨?_, x, hport ▸ hx, hports ▸ htable⟩
    rw [snapPort_shows_peak p.val _ (accessed_tables who s hs), hport]
  case periods =>
    intro who p clr k u s hs hv hmem
    have hport : port (accessed who s) p.val = port s p.val := by unfold port; rw [accessed_ports]
    have hus : ∀ t, usSince (accessed who s) t = usSince s t := fun t => by unfold usSince; rw [accessed_ticks]
    have hk : k < 48 ∧ k ≠ cRX_BUF_PEAK := by
      simp only [List.mem_cons, List.not_mem_nil, or_false, Prod.mk.injEq] at hmem
      rcases hmem with ⟨rfl, -⟩ | ⟨rfl, -⟩ | ⟨rfl, -⟩ | ⟨rfl, -⟩ <;> decide
    have hcopied := snapPort_copies clr p.val k (accessed who s) (accessed_tables who s hs) hk.1 hk.2
    rw [settle_us (u := u) (accessed_tables who s hs) (by rw [hport]; simpa only [hus] using hmem),
      live_of_eq (accessed_live who s)] at hcopied
    obtain ⟨hrd, hlive⟩ := hcopied
    exact completes_portSnapshot hv ⟨hrd.trans (Nat.mod_mod _ _), hlive⟩

end Sys2Proof.Machine
end

section
/-!
PROOFS of the family other: the shapes in which a command answers, and the Mast's states (O10) and time block (O11).
-/

namespace Sys2Proof.Machine

open Sys2Proof

/-! A command whose operation leaves the state it acts on. -/

section
variable {c : Instr} {s t : State}

theorem exec_powered_stays (hx : exec c s = powered s t) (ht : t = s) : exec c s = .next s := by
  rw [hx, ht, powered, ite_self]

theorem exec_full_stays (hx : exec c s = inFull s t) (ht : t = s) : exec c s = .next s := by
  rw [hx, ht, inFull, ite_self]

theorem exec_served_stays {who : Req} {ofs : Nat} {f : State → State} (h : Served who ofs s)
    (hx : exec c s = .next (serve c who ofs f s)) (hf : f (accessed who s) = accessed who s) : exec c s = .next (accessed who s) :=
  exec_served_eq h hx hf

end

/-! A change of the Mast's state that reports HOLD_ENTER (R40, Table 2.4). -/

/-- The Mast goes to `m`, with the accept mark as given, and HOLD_ENTER is set. -/
def Entered (m : Mast) (st : MastState) (t : State) : Prop := t.mast = { m with st := st } ∧ rdB t MST_INT 4 = true

theorem mastTo_entered (st : MastState) (s : State) (hs : TablesWf s) : Entered s.mast st (mastTo st s) :=
  ⟨mastTo_mast st s, rdB_mastTo st s hs⟩

theorem completes_entered {c : Instr} {who : Req} {ofs : Nat} {f : State → State} {st : MastState} {s : State} (hs : TablesWf s)
    (hv : Served who ofs s) (hx : exec c s = .next (serve c who ofs f s))
    (hf : f (accessed who s) = mastTo st (accessed who s)) : Completes c s (Entered s.mast st) :=
  completes_served hx hv (by
    rw [hf, ← accessed_mast who s]
    exact mastTo_entered st _ (accessed_tables who s hs))

theorem lockedToHoldover_of_locked {s : State} (h : s.mast.st = .locked) : lockedToHoldover s = mastTo .holdover s := if_pos h

theorem lockedToHoldover_of_ne {s : State} (h : s.mast.st ≠ .locked) : lockedToHoldover s = s := if_neg h

theorem gmHold_of_running {s : State} (h : s.mast.st = .locked ∨ s.mast.st = .holdover) : gmHold s = mastTo .held s := if_pos h

theorem gmHold_of_stopped {s : State} (h : s.mast.st = .unsync ∨ s.mast.st = .held) : gmHold s = s :=
  if_neg (by rcases h with h | h <;> rw [h] <;> decide)

theorem freeRun_accessed (who : Req) (s : State) : freeRun (accessed who s) = rdB s MST_CFG 0 := rdB_accessed who s MST_CFG 0

theorem lockSet_locks {s : State} (h : s.mast.st = .unsync ∨ s.mast.st = .holdover) :
    (lockSet s).mast.st = .locked ∧ (lockSet s).mast.guardArmed = true ∧ (lockSet s).mast.holdSec = 0 := by
  unfold lockSet
  rw [if_pos h, nodeEdge_mast]
  exact ⟨rfl, rfl, rfl⟩

theorem lockSet_of_held {s : State} (h : s.mast.st = .locked ∨ s.mast.st = .held) : lockSet s = s :=
  if_neg (by rcases h with h | h <;> rw [h] <;> decide)

/-- The accept mark of GUARD_ACCEPT stands in any case; HELD under FREE_RUN is left beside. -/
theorem guardAccept_of_not {s : State} (h : s.mast.st ≠ .held ∨ freeRun s = false) :
    guardAccept s = { s with mast := { s.mast with accept := true } } :=
  if_neg (by
    rintro ⟨hfree, hheld⟩
    rcases h with h | h
    · exact h hheld
    · exact Bool.false_ne_true (h.symm.trans hfree))

theorem guardAccept_of_held {s : State} (h : s.mast.st = .held) (hfree : freeRun s = true) :
    guardAccept s = mastTo .holdover { s with mast := { s.mast with accept := true } } := if_pos ⟨hfree, h⟩

/-- Settles O10: each event of Tables 2.3 and 2.4, by the Mast's state and the policy. -/
theorem mastStates : Obligations.MastStates := by
  unfold Obligations.MastStates
  refine ⟨?lock, ?lockStays, ?hold, ?holdStays, ?timeout, ?early, ?changeRefused, ?change, ?changeStays, ?lostRefused, ?lost,
    ?lostStays, ?back, ?backStays, ?accept, ?acceptHeld⟩
  case lock =>
    intro who s hv h
    exact completes_served rfl hv (lockSet_locks (by rwa [accessed_mast]))
  case lockStays =>
    intro who s hv h
    exact exec_served_stays hv rfl (lockSet_of_held (by rwa [accessed_mast]))
  case hold =>
    intro who s hs hv h
    exact completes_entered hs hv rfl (lockedToHoldover_of_locked (by rwa [accessed_mast]))
  case holdStays =>
    intro who s hv h
    exact exec_served_stays hv rfl (lockedToHoldover_of_ne (by rwa [accessed_mast]))
  case timeout =>
    intro s hs hp h hlate
    refine completes_powered rfl hp ?_
    rw [if_pos hlate, lockedToHoldover_of_locked h]
    exact mastTo_entered _ s hs
  case early =>
    intro s hp h
    refine exec_powered_stays rfl ?_
    rcases h with h | h
    · rw [lockedToHoldover_of_ne h, ite_self]
    · exact if_neg (Nat.not_le.mpr h)
  case changeRefused =>
    intro who s hv hpolicy
    exact exec_served_stays hv rfl (if_neg (by rw [freeRun_accessed, hpolicy]; decide))
  case change =>
    intro who s hs hv hpolicy h
    exact completes_entered hs hv rfl
      ((if_pos (by rw [freeRun_accessed, hpolicy])).trans (gmHold_of_running (by rwa [accessed_mast])))
  case changeStays =>
    intro who s hv h
    refine exec_served_stays hv rfl ?_
    show (if _ then gmHold (accessed who s) else _) = _
    rw [gmHold_of_stopped (by rwa [accessed_mast]), ite_self]
  case lostRefused =>
    intro who s hs hv hpolicy h
    exact completes_entered hs hv rfl
      ((if_neg (by rw [freeRun_accessed, hpolicy]; decide)).trans (lockedToHoldover_of_locked (by rwa [accessed_mast])))
  case lost =>
    intro who s hs hv hpolicy h
    exact completes_entered hs hv rfl
      ((if_pos (by rw [freeRun_accessed, hpolicy])).trans (gmHold_of_running (by rwa [accessed_mast])))
  case lostStays =>
    intro who s hv h
    refine exec_served_stays hv rfl ?_
    show (if freeRun (accessed who s) = true then gmHold (accessed who s) else lockedToHoldover (accessed who s)) = _
    rw [freeRun_accessed]
    split at h
    · rename_i hfree
      rw [if_pos hfree, gmHold_of_stopped (by rwa [accessed_mast])]
    · rename_i hfree
      rw [if_neg hfree, lockedToHoldover_of_ne (by rwa [accessed_mast])]
  case back =>
    intro who s hs hv hpolicy h
    exact completes_entered hs hv rfl (if_pos ⟨by rw [freeRun_accessed, hpolicy], by rwa [accessed_mast]⟩)
  case backStays =>
    intro who s hv h
    refine exec_served_stays hv rfl (if_neg ?_)
    rw [freeRun_accessed, accessed_mast]
    rintro ⟨hfree, hheld⟩
    rcases h with h | h
    · exact Bool.false_ne_true (h.symm.trans hfree)
    · exact h hheld
  case accept =>
    intro who s hv h
    refine completes_served rfl hv ?_
    rw [guardAccept_of_not (by rwa [accessed_mast, freeRun_accessed]), accessed_mast]
    exact ⟨rfl, fun a => rd_accessed who s a⟩
  case acceptHeld =>
    intro who s hs hv h hpolicy
    refine completes_served rfl hv ?_
    rw [guardAccept_of_held (by rwa [accessed_mast]) (by rwa [freeRun_accessed]), accessed_mast]
    exact mastTo_entered .holdover _ (tables_of_eq (accessed_tables who s hs) rfl rfl)

/-! The time block's reads: what the requester's freeze and torn mark make of them (R31 to R33). -/

section
variable {live : List Word} {now k r n : Nat} {fz : NMap (Option (Nat × List Word))} {torn : NMap Bool} {ws : List Word}

theorem freezeRead_frozen (h : tget none fz r = some (n, ws)) : freezeRead live now k r fz torn = (ws.getD k 0#32, fz) := by
  unfold freezeRead
  rw [h]

theorem freezeRead_fresh (h : tget none fz r = none) (ht : tget false torn r = false) :
    freezeRead live now k r fz torn = (live.getD k 0#32, tset none fz r (some (now, live))) := by
  unfold freezeRead
  rw [h, ht]
  rfl

theorem freezeRead_torn (h : tget none fz r = none) (ht : tget false torn r = true) :
    freezeRead live now k r fz torn = (live.getD k 0#32, fz) := by
  unfold freezeRead
  rw [h, ht]
  rfl

theorem releaseRead_frozen (h : tget none fz r = some (n, ws)) : releaseRead live k r fz torn = ws.getD k 0#32 := by
  unfold releaseRead
  rw [h]

theorem releaseRead_live (h : tget none fz r = none) (ht : tget false torn r = false) :
    releaseRead live k r fz torn = live.getD k 0#32 := by
  unfold releaseRead
  rw [h, ht]
  rfl

theorem releaseRead_torn (h : tget none fz r = none) (ht : tget false torn r = true) :
    releaseRead live k r fz torn = withBit (live.getD k 0#32) 31 := by
  unfold releaseRead
  rw [h, ht]
  rfl

theorem freezeOver_frozen (m : Nat) (h : tget none fz r = some (n, ws)) : freezeOver fz now m r = decide (n + m ≤ now) := by
  unfold freezeOver
  rw [h]

/-- A freeze that has not stood for its time, or none, is not over. -/
theorem freezeOver_early {m : Nat} (h : ∀ n ws, tget none fz r = some (n, ws) → now < n + m) : freezeOver fz now m r = false := by
  unfold freezeOver
  split
  · rename_i x hx
    exact decide_eq_false (Nat.not_le.mpr (h x.1 x.2 hx))
  · rfl

end

theorem timeWords_accessed (who : Req) (s : State) : timeWords (accessed who s) = timeWords s := by cases who <;> rfl

/-- A served read of one of the first five words hands out the word and keeps the freeze that `freezeRead` gives. -/
theorem completes_timeBlockFreeze {who : Req} {k : Fin 5} {w : Word} {fz : NMap (Option (Nat × List Word))} {s : State}
    (hv : Served who (MST_TIME_SUB + 4 * k.val) s)
    (hr : freezeRead (timeWords s) s.ticks k.val (reqIdx who) s.mast.freeze s.mast.torn = (w, fz)) :
    Completes (.timeBlockFreeze who k) s fun t => t.out = s.out ++ [.readData who (w.setWidth 64)] ∧
      t.mast = { s.mast with freeze := fz } :=
  completes_served (ofs := MST_TIME_SUB + 4 * k.val) rfl hv (by
    unfold timeBlockFreeze
    rw [timeWords_accessed, accessed_ticks, accessed_mast, hr]
    exact ⟨congrArg (· ++ _) (accessed_out who s), rfl⟩)

/-- A served read of the last word hands it out and ends the freeze and the torn mark. -/
theorem completes_timeBlockRelease {who : Req} {w : Word} {s : State} (hv : Served who MST_TIME_SEC_HI s)
    (hr : releaseRead (timeWords s) 5 (reqIdx who) s.mast.freeze s.mast.torn = w) :
    Completes (.timeBlockRelease who) s fun t => t.out = s.out ++ [.readData who (w.setWidth 64)] ∧
      t.mast = { s.mast with freeze := tset none s.mast.freeze (reqIdx who) none, torn := tset false s.mast.torn (reqIdx who) false } :=
  completes_served (ofs := MST_TIME_SEC_HI) rfl hv (by
    unfold timeBlockRelease
    rw [timeWords_accessed, accessed_mast, hr]
    exact ⟨congrArg (· ++ _) (accessed_out who s), rfl⟩)

/-- Settles O11: a read by the requester's freeze and torn mark, and the release of a freeze that stood 12,500 ticks. -/
theorem mastTimeBlock : Obligations.MastTimeBlock := by
  unfold Obligations.MastTimeBlock
  refine ⟨?frozen, ?fresh, ?torn, ?endFrozen, ?endLive, ?endTorn, ?late, ?early⟩
  case frozen => exact fun who k s n ws hv h => completes_timeBlockFreeze hv (freezeRead_frozen h)
  case fresh => exact fun who k s hv h ht => completes_timeBlockFreeze hv (freezeRead_fresh h ht)
  case torn => exact fun who k s hv h ht => completes_timeBlockFreeze hv (freezeRead_torn h ht)
  case endFrozen => exact fun who s n ws hv h => completes_timeBlockRelease hv (releaseRead_frozen h)
  case endLive => exact fun who s hv h ht => completes_timeBlockRelease hv (releaseRead_live h ht)
  case endTorn => exact fun who s hv h ht => completes_timeBlockRelease hv (releaseRead_torn h ht)
  case late =>
    intro who s n ws hp h hlate
    exact exec_powered_eq hp rfl (if_pos ((freezeOver_frozen _ h).trans (decide_eq_true hlate)))
  case early =>
    intro who s hp h
    exact exec_powered_stays rfl (if_neg (by rw [freezeOver_early h]; decide))

end Sys2Proof.Machine
end

section
/-!
PROOFS of the family other: commits of the TAI counter (O12) and the Mast's inputs (O13).
-/

namespace Sys2Proof.Machine

open Sys2Proof

/-! Commits. -/

theorem atLeast_eq_max (least v : Nat) : atLeast least v = max least v := by
  unfold atLeast
  split <;> omega

theorem stepSize_eq_max (old new : Nat) : stepSize old new = max (old - new) (new - old) := by
  unfold stepSize
  split <;> omega

theorem commitRefused_iff (n : Nat) (s : State) : commitRefused s n = true ↔ (s.mast.st = .held ∧ rdB s MST_CFG 0 = true) ∨
    (s.mast.accept = false ∧ s.mast.guardArmed = true ∧
      max 100 (rdF s MST_GUARD 0 30) * taiNsUnit < max (s.tai - n) (n - s.tai)) := by
  simp only [commitRefused, freeRun, guardUnits, atLeast_eq_max, stepSize_eq_max, Bool.or_eq_true, Bool.and_eq_true, decide_eq_true_eq,
    Bool.not_eq_true', and_assoc]

section
variable {n : Nat} {s : State} (hs : TablesWf s) (hdeck : deckRestarting s = false)
include hs hdeck

theorem commit_applied (hok : commitRefused s n = false) : (commit n s).tai = taiWrap n ∧ (commit n s).mast.accept = false ∧
    rdB (commit n s) MST_INT 0 = true ∧ (commit n s).mast.st = (if s.mast.st = .held then .holdover else s.mast.st) := by
  obtain ⟨htai, hst, haccept, hdone⟩ := applyCommit_facts n s hs
  rw [commit, if_neg (by rw [hdeck]; decide), if_neg (by rw [hok]; decide)]
  exact ⟨htai, haccept, hdone, hst⟩

theorem commit_refused (hno : commitRefused s n = true) : (commit n s).tai = s.tai ∧ (commit n s).mast.accept = s.mast.accept ∧
    rdB (commit n s) MST_INT 1 = true ∧ (commit n s).mast.st =
      (if rdB s MST_CFG 0 = false ∧ (s.mast.st = .locked ∨ s.mast.st = .holdover) then .held else s.mast.st) := by
  obtain ⟨hst, haccept, hrefused⟩ := refuseCommit_facts s hs
  rw [commit, if_neg (by rw [hdeck]; decide), if_pos hno]
  exact ⟨refuseCommit_tai s, haccept, hrefused, hst⟩

end

theorem commit_of_restart {n : Nat} {s : State} (h : deckRestarting s = true) : commit n s = s := if_pos h

/-! An access changes nothing that a commit rests on. -/

theorem deckRestarting_accessed (who : Req) (s : State) : deckRestarting (accessed who s) = deckRestarting s := by cases who <;> rfl

theorem commitRefused_accessed (who : Req) (s : State) (n : Nat) : commitRefused (accessed who s) n = commitRefused s n := by
  cases who <;> rfl

/-- A served commit whose operation computes `n` from the state. -/
theorem completes_commit_applied {c : Instr} {who : Req} {n : Nat} {f : State → State} {s : State} (hs : TablesWf s)
    (hv : Served who MST_COMMIT s) (hdeck : deckRestarting s = false) (hok : commitRefused s n = false)
    (hx : exec c s = .next (serve c who MST_COMMIT f s)) (hf : f (accessed who s) = commit n (accessed who s)) :
    Completes c s fun t => t.tai = taiWrap n ∧ t.mast.accept = false ∧ rdB t MST_INT 0 = true ∧
      t.mast.st = (if s.mast.st = .held then .holdover else s.mast.st) :=
  completes_served hx hv (by
    rw [hf]
    simpa only [accessed_mast] using commit_applied (n := n) (accessed_tables who s hs)
      ((deckRestarting_accessed who s).trans hdeck) ((commitRefused_accessed who s n).trans hok))

theorem completes_commit_refused {c : Instr} {who : Req} {n : Nat} {f : State → State} {s : State} (hs : TablesWf s)
    (hv : Served who MST_COMMIT s) (hdeck : deckRestarting s = false) (hno : commitRefused s n = true)
    (hx : exec c s = .next (serve c who MST_COMMIT f s)) (hf : f (accessed who s) = commit n (accessed who s)) :
    Completes c s fun t => t.tai = s.tai ∧ t.mast.accept = s.mast.accept ∧ rdB t MST_INT 1 = true ∧ t.mast.st =
      (if rdB s MST_CFG 0 = false ∧ (s.mast.st = .locked ∨ s.mast.st = .holdover) then .held else s.mast.st) :=
  completes_served hx hv (by
    rw [hf]
    simpa only [accessed_mast, accessed_tai, rdB_accessed] using commit_refused (n := n) (accessed_tables who s hs)
      ((deckRestarting_accessed who s).trans hdeck) ((commitRefused_accessed who s n).trans hno))

theorem stagedTime_accessed (who : Req) (s : State) : stagedTime (accessed who s) = stagedTime s := by cases who <;> rfl

theorem steppedTime_accessed (who : Req) (s : State) (backward : Bool) :
    steppedTime (accessed who s) backward = steppedTime s backward := by cases who <;> rfl

theorem commitSet_accessed (who : Req) (s : State) :
    commit (stagedTime (accessed who s)) (accessed who s) = commit (stagedTime s) (accessed who s) :=
  congrArg (commit · (accessed who s)) (stagedTime_accessed who s)

theorem commitStep_accessed (who : Req) (s : State) (backward : Bool) :
    commit (steppedTime (accessed who s) backward) (accessed who s) = commit (steppedTime s backward) (accessed who s) :=
  congrArg (commit · (accessed who s)) (steppedTime_accessed who s backward)

/-- Settles O12: a commit is applied or refused by the guard and the policy, and is not taken during a Deck restart. -/
theorem mastCommits : Obligations.MastCommits := by
  unfold Obligations.MastCommits
  refine ⟨commitRefused_iff, ?set, ?setRefused, ?step, ?stepRefused, ?restart⟩
  case set => exact fun who s hs hv hdeck hok => completes_commit_applied hs hv hdeck hok rfl (commitSet_accessed who s)
  case setRefused => exact fun who s hs hv hdeck hno => completes_commit_refused hs hv hdeck hno rfl (commitSet_accessed who s)
  case step => exact fun who b s hs hv hdeck hok => completes_commit_applied hs hv hdeck hok rfl (commitStep_accessed who s b)
  case stepRefused => exact fun who b s hs hv hdeck hno => completes_commit_refused hs hv hdeck hno rfl (commitStep_accessed who s b)
  case restart =>
    intro who b s hv hdeck
    have hrestart := (deckRestarting_accessed who s).trans hdeck
    exact ⟨exec_served_stays hv rfl (commit_of_restart hrestart), exec_served_stays hv rfl (commit_of_restart hrestart)⟩

/-! Inputs. -/

theorem satAdd_eq_min (a b top : Nat) : satAdd a b top = min (a + b) top := by
  unfold satAdd
  split <;> omega

theorem unsignedN_lt (v : Int) (n : Nat) : unsignedN v n < 2 ^ n := by
  have hpos : (0 : Int) < (2 ^ n : Nat) := by exact_mod_cast Nat.two_pow_pos n
  have hlt := Int.emod_lt_of_pos v hpos
  have hnonneg := Int.emod_nonneg v hpos.ne'
  unfold unsignedN
  omega

/-- The lower `n` bits of a number that has no more. -/
theorem field_wordOf_low {v n : Nat} (h : v < 2 ^ n) (hn : n ≤ 32) : field (wordOf v) 0 n = v := by
  have hv : v < 2 ^ 32 := Nat.lt_of_lt_of_le h (Nat.pow_le_pow_right (by decide) hn)
  rw [field, fieldN, wordOf, BitVec.toNat_ofNat, Nat.mod_eq_of_lt hv, Nat.pow_zero, Nat.div_one, Nat.mod_eq_of_lt h]

/-- The bits above a number are 0. -/
theorem field_wordOf_high {v lo n : Nat} (h : v < 2 ^ lo) (hlo : lo ≤ 32) : field (wordOf v) lo n = 0 := by
  have hv : v < 2 ^ 32 := Nat.lt_of_lt_of_le h (Nat.pow_le_pow_right (by decide) hlo)
  rw [field, fieldN, wordOf, BitVec.toNat_ofNat, Nat.mod_eq_of_lt hv, Nat.div_eq_of_lt h, Nat.zero_mod]

/-- The offset that a leap leaves (R50). -/
def leapOffset (s : State) : Nat := unsignedN (utcOffset s + (if rdF s MST_UTC_OFS 16 2 = 1 then 1 else -1)) 16

theorem rd_leapApplied (s : State) (hs : TablesWf s) : rd (leapApplied s) MST_UTC_OFS = wordOf (leapOffset s) := by
  unfold leapApplied leapOffset
  dsimp only
  simp only [decide_eq_true_eq]
  rw [rd_logEvent_low, rd_raise_ne _ _ _ _ (by decide) (by decide)]
  exact rd_wr_same _ _ _ (tables_of_eq hs rfl rfl)

theorem leapApplied_reports (s : State) (hs : TablesWf s) : rdB (leapApplied s) MST_INT 9 = true :=
  (rdB_logEvent_low (by decide) (by decide)).trans (rdB_raise_self (wr_tables (tables_of_eq hs rfl rfl)) (by decide) (by decide))

theorem leapApplied_keeps_leap (s : State) :
    (leapApplied s).mast.lastLeap = some (leapSecond s, decide (rdF s MST_UTC_OFS 16 2 = 1)) ∧ (leapApplied s).tai = s.tai := by
  unfold leapApplied
  dsimp only
  rw [logEvent_mast, raise_mast, logEvent_tai, raise_tai]
  exact ⟨rfl, rfl⟩

theorem ppsEdge_facts (s : State) (hs : TablesWf s) : rd (ppsEdge s) MST_PPS_SEC = loWord (taiSec s) ∧
    rd (ppsEdge s) MST_PPS_NS = wordOf (taiNs s) ∧ (ppsEdge s).mast =
      (if ppsAccepts s then { s.mast with ppsLast := some (taiAbsNs s), ppsOow := false } else { s.mast with ppsOow := true }) := by
  have hsec : rd (wr MST_PPS_SEC (loWord (taiSec s)) (wr MST_PPS_NS (wordOf (taiNs s)) s)) MST_PPS_SEC = loWord (taiSec s) :=
    rd_wr_same _ _ _ (wr_tables hs)
  have hns : rd (wr MST_PPS_SEC (loWord (taiSec s)) (wr MST_PPS_NS (wordOf (taiNs s)) s)) MST_PPS_NS = wordOf (taiNs s) :=
    (rd_wr_ne _ _ _ _ (by decide)).trans (rd_wr_same _ _ _ hs)
  unfold ppsEdge
  dsimp only
  split <;> exact ⟨hsec, hns, rfl⟩

/-- A frame that R46 discards is counted. -/
theorem irigFrame_of_bad {f : IrigFrame} {s : State} (h : f.bcdOk = false ∨ (f.ext = true ∧ f.parityOk = false)) :
    irigFrame f s = wrF MST_IRIG_STAT 16 8 (satAdd (rdF s MST_IRIG_STAT 16 8) 1 255) s :=
  if_pos (by rcases h with h | ⟨h, h'⟩ <;> simp [*])

/-- Settles O13: each input by its enable and its condition. -/
theorem mastInputs : Obligations.MastInputs := by
  unfold Obligations.MastInputs
  refine ⟨?leap, ?noLeap, ?pps, ?ppsOff, ?missing, ?irigBad, ?irigYear, ?irigCalendar, ?estimate, ?limit⟩
  case leap =>
    intro s hs hp hdue
    refine completes_powered rfl hp ?_
    have hlow : leapOffset s < 2 ^ 16 := unsignedN_lt _ _
    obtain ⟨hleap, htai⟩ := leapApplied_keeps_leap s
    have hword := rd_leapApplied s hs
    rw [if_pos hdue]
    exact ⟨leapApplied_reports s hs, (congrArg (field · 16 2) hword).trans (field_wordOf_high hlow (by decide)), hleap, htai,
      (congrArg (field · 0 16) hword).trans (field_wordOf_low hlow (by decide))⟩
  case noLeap =>
    intro s _ hdue
    exact exec_powered_stays rfl (if_neg (by rw [hdue]; decide))
  case pps =>
    intro s hs hp hen
    exact completes_powered rfl hp (by rw [if_pos hen]; exact ppsEdge_facts s hs)
  case ppsOff =>
    intro s _ hen
    exact exec_powered_stays rfl (if_neg (by rw [hen]; decide))
  case missing =>
    intro s hs hp hen hgone
    exact completes_powered rfl hp (by
      rw [if_pos ⟨hen, hgone⟩]
      exact ⟨rdB_raise_self hs (by decide) (by decide), raise_mast _ _ _⟩)
  case irigBad =>
    intro f s hs hp hen hbad
    refine completes_powered rfl hp ?_
    have hmin : satAdd (rdF s MST_IRIG_STAT 16 8) 1 255 < 2 ^ 8 := by rw [satAdd_eq_min]; omega
    rw [if_pos hen, irigFrame_of_bad hbad, rdF_wrF_self hs (hv := hmin), satAdd_eq_min]
    exact ⟨rfl, rfl⟩
  case irigYear =>
    intro f y s hs hp hen hb he hy
    exact completes_powered rfl hp (by
      rw [if_pos hen]
      exact ⟨irigFrame_mast f s hb he, irigFrame_sec f y s hy hs hb he⟩)
  case irigCalendar =>
    intro f s hs hp hen hb he hy
    exact completes_powered rfl hp (by
      rw [if_pos hen]
      exact ⟨irigFrame_mast f s hb he, irigFrame_sec_cal f s hy hs hb he⟩)
  case estimate =>
    intro who v s hv
    exact completes_served rfl hv ⟨rfl, (congrArg Mast.st (accessed_mast who s) : (accessed who s).mast.st = s.mast.st), fun a => rd_accessed who s a⟩
  case limit =>
    intro sec s hp hin hsec
    exact exec_powered_eq hp rfl (if_pos ⟨hin, hsec⟩)

end Sys2Proof.Machine
end

section
/-!
PROOFS of the family other: the cycle clock (O14) and the schedule table (O15).
-/

namespace Sys2Proof.Machine

open Sys2Proof

/-! A comparison (R55), by the clock's state before it. -/

section
variable {e : Int} {i : Option Nat} {s : State}

theorem cycleCompare_starts (h : s.mast.cyc.st = .free ∨ s.mast.cyc.st = .flywheel) : (cycleCompare e i s).mast.cyc.st = .pullin ∧
    (cycleCompare e i s).mast.cyc.perr = wordOf (unsignedN e 32) ∧ (cycleCompare e i s).free = s.free + 1 ∧
    ∃ bw, (cycleCompare e i s).mast.cyc.target = Config.loopTarget s.free e s.mast.cyc.freq bw := by
  rcases h with h | h <;> (unfold cycleCompare; dsimp only; rw [h]; exact ⟨rfl, rfl, rfl, _, rfl⟩)

theorem cycleCompare_locks (hs : TablesWf s) (h : s.mast.cyc.st = .pullin) (hrow : 7 ≤ s.mast.cyc.inLock) (hnear : e.natAbs ≤ lockAngle s) :
    (cycleCompare e i s).mast.cyc.st = .locked ∧ rdB (cycleCompare e i s) MST_INT 7 = true ∧
      (cycleCompare e i s).mast.cyc.perr = wordOf (unsignedN e 32) := by
  unfold cycleCompare
  dsimp only
  rw [h]
  dsimp only
  rw [if_pos (by rw [if_pos (decide_eq_true hnear)]; omega)]
  exact ⟨congrArg (·.cyc.st) (raise_mast _ _ _), rdB_raise_self (tables_of_eq hs rfl rfl) (by decide) (by decide),
    congrArg (·.cyc.perr) (raise_mast _ _ _)⟩

theorem cycleCompare_pulls (h : s.mast.cyc.st = .pullin) (hrow : s.mast.cyc.inLock < 7 ∨ lockAngle s < e.natAbs) :
    (cycleCompare e i s).mast.cyc.st = .pullin ∧ (cycleCompare e i s).mast.cyc.perr = wordOf (unsignedN e 32) ∧
      (cycleCompare e i s).mast.cyc.inLock = (if e.natAbs ≤ lockAngle s then s.mast.cyc.inLock + 1 else 0) := by
  have hshort : ¬ 8 ≤ (if decide (e.natAbs ≤ lockAngle s) = true then s.mast.cyc.inLock + 1 else 0) := by
    simp only [decide_eq_true_eq]
    split <;> omega
  unfold cycleCompare
  dsimp only
  rw [h]
  dsimp only
  rw [if_neg hshort]
  simp only [decide_eq_true_eq]
  exact ⟨rfl, rfl, rfl⟩

theorem cycleCompare_unlocks (hs : TablesWf s) (h : s.mast.cyc.st = .locked) (hrow : 2 ≤ s.mast.cyc.outLock)
    (hfar : 4 * lockAngle s < e.natAbs) :
    (cycleCompare e i s).mast.cyc.st = .pullin ∧ rdB (cycleCompare e i s) MST_INT 6 = true ∧
      (cycleCompare e i s).mast.cyc.perr = wordOf (unsignedN e 32) := by
  unfold cycleCompare
  dsimp only
  rw [h]
  dsimp only
  rw [if_pos (by rw [if_pos (decide_eq_true hfar)]; omega)]
  exact ⟨congrArg (·.cyc.st) (raise_mast _ _ _), rdB_raise_self (tables_of_eq hs rfl rfl) (by decide) (by decide),
    congrArg (·.cyc.perr) (raise_mast _ _ _)⟩

theorem cycleCompare_holds (h : s.mast.cyc.st = .locked) (hrow : s.mast.cyc.outLock < 2 ∨ e.natAbs ≤ 4 * lockAngle s) :
    (cycleCompare e i s).mast.cyc.st = .locked ∧ (cycleCompare e i s).mast.cyc.perr = wordOf (unsignedN e 32) ∧
      (cycleCompare e i s).mast.cyc.outLock = (if 4 * lockAngle s < e.natAbs then s.mast.cyc.outLock + 1 else 0) := by
  have hshort : ¬ 3 ≤ (if decide (4 * lockAngle s < e.natAbs) = true then s.mast.cyc.outLock + 1 else 0) := by
    simp only [decide_eq_true_eq]
    split <;> omega
  unfold cycleCompare
  dsimp only
  rw [h]
  dsimp only
  rw [if_neg hshort]
  simp only [decide_eq_true_eq]
  exact ⟨rfl, rfl, rfl⟩

end

/-- A valid reference's comparison is the command's whole effect. -/
theorem completes_compare {e : Int} {i : Option Nat} {s : State} {P : State → Prop} (hp : s.power.st ≠ .furled)
    (he : phaseError s = some (e, i)) (h : P (cycleCompare e i s)) : Completes .cycleCompare s P :=
  completes_powered rfl hp (by rw [he]; exact h)

/-- The clock out of LOCKED or PULLIN, with its frequency held. -/
theorem cycLeave_mast (st : CycState) (s : State) : (cycLeave st s).mast = { s.mast with cyc := { s.mast.cyc with
    st := st, inLock := 0, outLock := 0, target := s.mast.cyc.freq, flyAt := s.mast.cyc.count } } := by
  unfold cycLeave
  dsimp only
  split
  · exact raise_mast _ _ _
  · rfl

theorem rd_cycLeave (st : CycState) (s : State) (a : Nat) (h : a ≠ MST_INT) (h' : a ≠ CTL_INT) : rd (cycLeave st s) a = rd s a := by
  unfold cycLeave
  dsimp only
  split
  · exact rd_raise_ne _ _ _ _ h h'
  · rfl

theorem cycCfgWrite_facts (v : Word) (s : State) (hs : TablesWf s) : rd (cycCfgWrite v s) MST_CYC_CFG = v &&& 0xFFFFF#32 ∧
    (cycCfgWrite v s).mast.cyc.refPend = true ∧ (cycCfgWrite v s).mast.cyc.st = .pullin :=
  ⟨(rd_cycLeave _ _ _ (by decide) (by decide)).trans (rd_wr_same _ _ _ hs), rfl,
    congrArg (·.cyc.st) (cycLeave_mast .pullin (wr MST_CYC_CFG (v &&& 0xFFFFF#32) s))⟩

/-- Settles O14: each event of Table 2.7 by the clock's state. -/
theorem mastCycleClock : Obligations.MastCycleClock := by
  unfold Obligations.MastCycleClock
  refine ⟨?starts, ?locks, ?pulls, ?unlocks, ?holds, ?noValue, ?lost, ?fallback, ?free, ?cfg, ?kernel, ?noKernel⟩
  case starts => exact fun e i s hp he h => completes_compare hp he (cycleCompare_starts h)
  case locks => exact fun e i s hs hp he h hrow hnear => completes_compare hp he (cycleCompare_locks hs h hrow hnear)
  case pulls => exact fun e i s hp he h hrow => completes_compare hp he (cycleCompare_pulls h hrow)
  case unlocks => exact fun e i s hs hp he h hrow hfar => completes_compare hp he (cycleCompare_unlocks hs h hrow hfar)
  case holds => exact fun e i s hp he h hrow => completes_compare hp he (cycleCompare_holds h hrow)
  case noValue =>
    intro s _ he
    exact exec_powered_stays rfl (by rw [he])
  case lost =>
    intro why s hp hlost h
    exact completes_powered rfl hp (by rw [if_pos ⟨hlost, h⟩, cycLeave_mast]; exact ⟨rfl, rfl, rfl, rfl⟩)
  case fallback =>
    intro s hp h hlate hfb
    exact completes_powered rfl hp (by rw [if_pos ⟨h, hlate⟩, flywheelLimit, if_pos ⟨rfl, hfb⟩]; exact ⟨rfl, rfl, rfl⟩)
  case free =>
    intro ok s hp h hlate hno
    have hfb : ¬ (ok = true ∧ rdF s MST_CYC_CFG 9 2 ≠ 3) := by
      rintro ⟨rfl, hne⟩
      exact hno.elim (fun h => Bool.false_ne_true h.symm) hne
    exact completes_powered rfl hp (by rw [if_pos ⟨h, hlate⟩, flywheelLimit, if_neg hfb]; exact ⟨rfl, rfl⟩)
  case cfg =>
    intro who v s hs hv
    exact completes_served rfl hv (cycCfgWrite_facts v _ (accessed_tables who s hs))
  case kernel =>
    intro s hs hp h
    exact completes_powered rfl hp (by rw [if_neg h]; exact ⟨rd_wr_same _ _ _ (tables_of_eq hs rfl rfl), rfl, rfl⟩)
  case noKernel => exact fun s _ h => exec_powered_stays rfl (if_pos h)

/-! The schedule table. -/

section
variable {e : Nat} {s : State}

theorem schOccur_skips (ha : (schEntry s e).angleKind = true) (hreq : (schEntry s e).reqLock = true) (h : s.mast.cyc.st ≠ .locked) :
    schOccur e false s = raise MST_INT 8 (setEntry e (schNext s { schEntry s e with missed := true }) s) := if_pos ⟨ha, hreq, h⟩

/-- An occurrence that is not skipped: the firing, then the advance. -/
theorem schOccur_fires (h : (schEntry s e).angleKind = false ∨ (schEntry s e).reqLock = false ∨ s.mast.cyc.st = .locked) :
    schOccur e false s = setEntry e (schNext (schTarget e (setEntry e (firedEntry s e) s))
      (schEntry (schTarget e (setEntry e (firedEntry s e) s)) e)) (schTarget e (setEntry e (firedEntry s e) s)) := by
  unfold schOccur firedEntry
  dsimp only
  rw [if_neg (by rcases h with h | h | h <;> simp [h]), Bool.or_false]

end

theorem completes_fire {e : Fin 512} {s : State} {P : State → Prop} (hp : s.power.st ≠ .furled)
    (hdue : schDue s (schEntry s e.val) = true) (h : P (schOccur e.val false s)) : Completes (.scheduleFire e) s P :=
  completes_powered rfl hp (by rw [if_pos hdue]; exact h)

theorem wrWords_tables {a : Nat} {ws : List Word} {s : State} (hs : TablesWf s) : TablesWf (wrWords a ws s) :=
  (wrWords_keeps a ws s (Keeps.refl s)).tables hs

theorem wrWords_mast (a : Nat) (ws : List Word) (s : State) : (wrWords a ws s).mast = s.mast :=
  (wrWords_within a ws s (Within.refl s) (List.Subset.refl _)).of .mast

/-- A command of the schedule table ends with its RESULT. -/
theorem schResult (v : Nat) (hv : v < 2 ^ 3) (s : State) (hs : TablesWf s) : rdF (wrF MST_SCH_STAT 1 3 v s) MST_SCH_STAT 1 3 = v :=
  rdF_wrF_self hs (hv := hv)

theorem schEntry_accessed (who : Req) (s : State) (e : Nat) : schEntry (accessed who s) e = schEntry s e := by
  rw [schEntry, accessed_mast, schEntry]

theorem storedEntry_accessed (who : Req) (s : State) : storedEntry (accessed who s) = storedEntry s := by cases who <;> rfl

theorem entryPast_accessed (who : Req) (s : State) (x : SchEntry) : entryPast (accessed who s) x = entryPast s x := by cases who <;> rfl

theorem schStore_of_bad {s : State} (h : badEntry (rd s (MST_SCH_W 0)).toNat (rd s (MST_SCH_W 4)).toNat = true) :
    schStore s = wrF MST_SCH_STAT 1 3 1 s := if_pos h

theorem schStore_of_good {s : State} (h : badEntry (rd s (MST_SCH_W 0)).toNat (rd s (MST_SCH_W 4)).toNat = false)
    (hnow : rdB s (MST_SCH_W 0) 0 = false ∨ entryPast s (storedEntry s) = false) :
    schStore s = setEntry (rdF s MST_SCH_IDX 0 9) (storedEntry s) (wrF MST_SCH_STAT 1 3 0 s) := by
  have harmed : (storedEntry s).armed = rdB s (MST_SCH_W 0) 0 := rfl
  refine (if_neg (by rw [h]; decide)).trans (if_neg ?_)
  show ¬ ((storedEntry s).armed && entryPast s (storedEntry s)) = true
  rw [harmed]
  rcases hnow with h | h <;> simp [h]

theorem schDisarm_mast (e : Nat) (s : State) : (schDisarm e s).mast =
    { s.mast with sched := tset {} s.mast.sched e { schEntry s e with armed := false } } := rfl

/-- The entries of `l` disarmed in turn. -/
theorem disarmEach_mast (l : List Nat) (s : State) : (l.foldl (fun t e => schDisarm e t) s).mast =
    { s.mast with sched := l.foldl (fun m e => tset {} m e { tget {} m e with armed := false }) s.mast.sched } := by
  induction l generalizing s with
  | nil => rfl
  | cons e l ih => exact ih (schDisarm e s)

theorem schDisarmAll_keeps (n : Nat) (s : State) : Keeps s (forUpTo n schDisarm s) :=
  Keeps.forUpTo (Keeps.refl s) fun e t => schDisarm_keeps e t (Keeps.refl t)

theorem disarmAll_mast (n : Nat) (s : State) : (forUpTo n schDisarm s).mast =
    { s.mast with sched := (List.range n).foldl (fun m e => tset {} m e { tget {} m e with armed := false }) s.mast.sched } :=
  disarmEach_mast (List.range n) s

/-- Settles O15: one occurrence of an entry by its kind and target, and the table's commands. -/
theorem mastSchedule : Obligations.MastSchedule := by
  unfold Obligations.MastSchedule
  refine ⟨?skip, ?fire, ?post, ?full, ?idle, ?load, ?bad, ?store, ?disarm, ?disarmAll⟩
  case skip =>
    intro e s hs hp hdue ha hreq h
    refine completes_fire hp hdue ?_
    rw [schOccur_skips ha hreq h]
    exact ⟨rdB_raise_self (tables_of_eq hs rfl rfl) (by decide) (by decide), raise_mast _ _ _⟩
  case fire => exact fun e s hp hdue h ht => completes_fire hp hdue (fire_facts e.val s ht _ (schOccur_fires h))
  case post => exact fun e s hp hdue h ht hroom => completes_fire hp hdue (post_facts e.val s ht hroom _ (schOccur_fires h))
  case full => exact fun e s hs hp hdue h ht hfull => completes_fire hp hdue (full_facts e.val s hs ht hfull _ (schOccur_fires h))
  case idle => exact fun e s _ h => exec_powered_stays rfl (if_neg (by rw [h]; decide))
  case load =>
    intro who k s hs hv
    have ha := accessed_tables who s hs
    refine completes_served rfl hv ⟨?_, (wrWords_mast _ _ _).trans (accessed_mast who s), schResult 0 (by decide) _ (wrWords_tables ha)⟩
    have hk : k.val < (schWords (schEntry (accessed who s) (rdF (accessed who s) MST_SCH_IDX 0 9))).length := k.isLt
    refine (rd_wr_ne _ _ _ _ (by unfold MST_SCH_W MST_SCH_STAT; omega)).trans ?_
    refine (rd_wrWords_word (b := MST_SCH_W 0) k.val ha hk).trans ?_
    rw [schEntry_accessed, rdF_accessed]
  case bad =>
    intro who s hs hv hbad
    refine completes_served rfl hv ?_
    rw [schStore_of_bad (by rwa [rd_accessed, rd_accessed])]
    exact ⟨schResult 1 (by decide) _ (accessed_tables who s hs), accessed_mast who s⟩
  case store =>
    intro who s hs hv hgood hnow
    refine completes_served rfl hv ?_
    rw [schStore_of_good (by rwa [rd_accessed, rd_accessed]) (by rwa [rdB_accessed, storedEntry_accessed, entryPast_accessed]),
      storedEntry_accessed, rdF_accessed]
    exact ⟨schResult 0 (by decide) _ (accessed_tables who s hs),
      congrArg (fun m : Mast => { m with sched := tset {} m.sched (rdF s MST_SCH_IDX 0 9) (storedEntry s) }) (accessed_mast who s)⟩
  case disarm =>
    intro who s hs hv
    refine completes_served rfl hv ⟨schResult 0 (by decide) _ (tables_of_eq (accessed_tables who s hs) rfl rfl), ?_⟩
    show (schDisarm (rdF (accessed who s) MST_SCH_IDX 0 9) (accessed who s)).mast = _
    rw [rdF_accessed, schDisarm_mast, schEntry_accessed, accessed_mast]
  case disarmAll =>
    intro who s hs hv
    have ha := accessed_tables who s hs
    refine completes_served rfl hv ⟨schResult 0 (by decide) _ ((schDisarmAll_keeps _ _).tables ha), ?_⟩
    refine (wr_mast _ _ _).trans ((disarmAll_mast 512 _).trans ?_)
    rw [accessed_mast]

end Sys2Proof.Machine
end

section
/-!
PROOFS of the family other: the Ledger's buffer (O37).
-/

namespace Sys2Proof.Machine

open Sys2Proof

/-- The first element that satisfies the predicate is the one that is updated. -/
theorem updateFirst_at {α : Type} {p : α → Bool} (f : α → α) (a : List α) {x : α} (b : List α) (ha : ∀ y ∈ a, p y = false)
    (hx : p x = true) : updateFirst p f (a ++ x :: b) = a ++ f x :: b := by
  induction a with
  | nil => exact if_pos hx
  | cons y a ih =>
    obtain ⟨hy, ha⟩ := List.forall_mem_cons.mp ha
    refine (if_neg (by rw [hy]; decide)).trans ?_
    exact congrArg (y :: ·) (ih ha)

theorem coalesces_iff (src code : Nat) (key : Word) (r : LRec) :
    coalesces src code key r = true ↔ r.frozen = false ∧ r.src = src ∧ r.code = code ∧ r.key = key := by
  simp only [coalesces, Bool.and_eq_true, Bool.not_eq_true', decide_eq_true_eq]

/-- A repeated event changes its record and no other (R364). -/
theorem logEvent_repeats {src code sev : Nat} {key : Word} {data : List Word} {s : State} {a b : List LRec} {r : LRec}
    (hbuf : s.ledger.buf = a ++ r :: b) (ha : ∀ x ∈ a, coalesces src code key x = false) (hr : coalesces src code key r = true) :
    logEvent src code sev key data s =
      { s with ledger := { s.ledger with buf := a ++ repeatRecord (taiSec s) r :: b } } := by
  have hany : s.ledger.buf.any (coalesces src code key) = true := by rw [hbuf]; exact List.any_eq_true.mpr ⟨r, by simp, hr⟩
  rw [logEvent, if_pos hany, hbuf, updateFirst_at _ a b ha hr]

/-- A new event with room joins the buffer last (R364). -/
theorem logEvent_adds {src code sev : Nat} {key : Word} {data : List Word} {s : State}
    (hnew : ∀ x ∈ s.ledger.buf, coalesces src code key x = false) (hroom : s.ledger.buf.length < 256) :
    (logEvent src code sev key data s).ledger.buf = s.ledger.buf ++ [newRecord s src code sev key data] := by
  have hany : ¬ s.ledger.buf.any (coalesces src code key) = true := by simpa using hnew
  rw [logEvent, if_neg hany]
  dsimp only
  rw [if_pos hroom]
  rfl

/-- Settles O37: a matching event repeats its record, another with room adds one. -/
theorem ledgerCoalesces : Obligations.LedgerCoalesces := by
  unfold Obligations.LedgerCoalesces
  refine ⟨?repeats, ?adds⟩
  case repeats =>
    intro e a b r s hp hbuf ha hfrozen hsrc hcode hkey hbelow
    refine exec_powered_eq hp rfl ?_
    rw [logOffered, logEvent_repeats hbuf ha ((coalesces_iff _ _ _ _).mpr ⟨hfrozen, hsrc, hcode, hkey⟩), repeatRecord, if_pos hbelow]
  case adds =>
    intro e s hp hnew hroom
    exact completes_powered rfl hp ⟨logEvent_adds hnew hroom, rfl, rfl⟩

end Sys2Proof.Machine
end

section
/-!
PROOFS of the family other: the Till's commands (O43) and their results (O44).
-/

namespace Sys2Proof.Machine

open Sys2Proof

/-! The way of a command into the Till (R402). -/

/-- The 23 commands with their codes, flags and verdicts. -/
def tillCommandTable (who : Req) (a b : Bool) : List (Instr × Nat × Bool × Bool × Bool) :=
  [(Instr.derive who, 0x01, false, false, true), (.generate who a, 0x02, false, false, a),
    (.unwrap who a, 0x03, false, false, a), (.wrap who, 0x04, false, false, true), (.destroy who, 0x05, false, false, true),
    (.encrypt who a, 0x06, a, false, true), (.decrypt who a b, 0x07, a, false, b), (.hmac who a, 0x08, a, false, true),
    (.sign who, 0x09, false, false, true), (.verify who a, 0x0A, false, false, a), (.ecdh who, 0x0B, false, false, true),
    (.hash who a, 0x0C, a, false, true), (.random who, 0x0D, false, false, true), (.pubkey who, 0x0E, false, false, true),
    (.attest who, 0x0F, false, false, true), (.gkMap who, 0x10, false, false, true), (.gkUnmap who, 0x11, false, false, true),
    (.authReq who, 0x12, false, false, true), (.auth who a, 0x13, false, false, a), (.zeroize who, 0x14, false, false, true),
    (.enrol who a b, 0x15, false, a, b), (.calEnrol who, 0x16, false, false, true), (.purge who, 0x17, false, false, true)]

/-- Each of them is a write of its code to its requester's interface. -/
theorem exec_tillCommand {who : Req} {a b : Bool} {s : State} : ∀ x ∈ tillCommandTable who a b,
    exec x.1 s = .next (tillCmd x.1 who x.2.1 x.2.2.1 x.2.2.2.1 x.2.2.2.2 s) := by
  simp only [tillCommandTable, List.forall_mem_cons]
  exact ⟨rfl, rfl, rfl, rfl, rfl, rfl, rfl, rfl, rfl, rfl, rfl, rfl, rfl, rfl, rfl, rfl, rfl, rfl, rfl, rfl, rfl, rfl, rfl,
    List.forall_mem_nil _⟩

/-- The request that an interface's registers make. -/
def tillRequest (s : State) (i code : Nat) (more cert ok : Bool) : TillReq :=
  { iface := i, code := code, more := more, cert := cert, ok := ok, args := tillArgs s i, mbox := tillMbox s i }

theorem tillRequest_accessed (who : Req) (s : State) (i code : Nat) (more cert ok : Bool) :
    tillRequest (accessed who s) i code more cert ok = tillRequest s i code more cert ok := by
  simp only [tillRequest, tillArgs, tillMbox, rd_accessed]

theorem putMbox_till (i : Nat) (bs : List Nat) (s : State) : (putMbox i bs s).till = s.till :=
  (putMbox_within i bs s (Within.refl s) (List.Subset.refl _)).of .till

theorem putMbox_free (i : Nat) (bs : List Nat) (s : State) : (putMbox i bs s).free = s.free :=
  (putMbox_within i bs s (Within.refl s) (List.Subset.refl _)).of .free

/-- The Till has started `r` in `s`: it runs with its result, `q` still waits, and one free value is drawn. -/
structure TillStarted (r : TillReq) (q : List TillReq) (s t : State) : Prop where
  queue : t.till.queue = q
  running : t.till.running = some (r, tillRun s r)
  free : t.free = s.free + 1

theorem tillStart_runs {r : TillReq} {q : List TillReq} {s : State} (hidle : s.till.running = none) (hq : s.till.queue = r :: q) :
    TillStarted r q s (tillStart s) := by
  unfold tillStart
  rw [hidle, hq]
  dsimp only
  constructor
  · rw [putMbox_till]
  · rw [putMbox_till]
  · rw [putMbox_free]
    rfl

theorem tillBusy_of_free {s : State} (i : Nat) (hidle : s.till.running = none) (hq : s.till.queue = []) : tillBusy s i = false := by
  rw [tillBusy, hidle, hq, List.any_nil, Bool.or_false]

theorem tillBusy_accessed (who : Req) (s : State) (i : Nat) : tillBusy (accessed who s) i = tillBusy s i := by
  unfold tillBusy
  rw [accessed_till]

theorem tillEnter_of_free {c : Instr} {who : Req} {code : Nat} {more cert ok : Bool} {s : State} (hidle : s.till.running = none)
    (hq : s.till.queue = []) : tillEnter c who code more cert ok s =
      tillStart { s with till := { s.till with queue := [tillRequest s (tillIface who) code more cert ok] } } := by
  refine (if_neg (by rw [tillBusy_of_free _ hidle hq]; decide)).trans ?_
  rw [hq]
  rfl

theorem tillEnter_of_busy {c : Instr} {who : Req} {code : Nat} {more cert ok : Bool} {s : State}
    (h : tillBusy s (tillIface who) = true) : tillEnter c who code more cert ok s = holdWrite c who s := if_pos h

/-- Settles O43: each command is such a write, which starts on a free Till and is held at the host's busy interface. -/
theorem tillCommands : Obligations.TillCommands := by
  unfold Obligations.TillCommands
  refine ⟨?starts, ?waits⟩
  case starts =>
    intro who a b c code more cert ok s hc hv hidle hq
    refine completes_served (exec_tillCommand (a := a) (b := b) (c, code, more, cert, ok) hc) hv ?_
    have hq' : (accessed who s).till.queue = [] := by rw [accessed_till, hq]
    have hidle' : (accessed who s).till.running = none := by rw [accessed_till, hidle]
    rw [tillEnter_of_free hidle' hq', tillRequest_accessed, accessed_till]
    obtain ⟨hqueue, hruns, hfree⟩ := tillStart_runs (r := tillRequest s (tillIface who) code more cert ok) (q := [])
      (s := { accessed who s with till := { s.till with queue := [tillRequest s (tillIface who) code more cert ok] } }) hidle rfl
    exact ⟨hqueue, hfree.trans (congrArg (· + 1) (accessed_free who s)), by rw [hruns]; rfl, hruns⟩
  case waits =>
    intro a b c code more cert ok s hc hv hbusy
    refine completes_served (exec_tillCommand (a := a) (b := b) (c, code, more, cert, ok) hc) hv ?_
    rw [tillEnter_of_busy (by rwa [tillBusy_accessed])]
    exact ⟨rfl, accessed_till .host s⟩

/-! Results. A command's code names the rule; a rule's checks pass in the order in which it makes them. -/

/-- A creation that the depth, the type and the sealed cache allow takes a free slot. -/
theorem createOut_creates {s : State} {p l lb a fin key n : Nat} (hl : l ≤ 2) (htype : fieldN a 0 4 ≤ 4)
    (hcache : a.testBit 13 = true → s.till.cache.length < 64) (hn : pickSlot? s = some n) :
    createOut s p l lb a fin key = { status := 0, slot := n, eff := .create n {
      st := .valid, level := l, parent := p, typ := fieldN a 0 4, usage := fieldN a 4 8, exportable := a.testBit 12,
      persist := a.testBit 13, label := lb, fin := fin, key := key } } := by
  rw [createOut, if_neg (Nat.not_lt.mpr hl), if_neg (Nat.not_lt.mpr htype),
    if_neg (fun h => Nat.not_le.mpr (hcache h.1) h.2), hn]

theorem createOut_too_deep {s : State} {p l lb a fin key : Nat} (hl : 2 < l) :
    createOut s p l lb a fin key = { status := tsDEPTH } := if_pos hl

theorem createOut_no_slot {s : State} {p l lb a fin key : Nat} (hl : l ≤ 2) (htype : fieldN a 0 4 ≤ 4) (hn : pickSlot? s = none) :
    createOut s p l lb a fin key = { status := tsNO_SLOT } := by
  rw [createOut, if_neg (Nat.not_lt.mpr hl), if_neg (Nat.not_lt.mpr htype), hn]
  exact ite_self _

theorem cryptBytes_length (f key n : Nat) (data : List Nat) : (cryptBytes f key n data).length = n := by
  rw [cryptBytes, List.length_map, List.length_range]

/-- The key of a data operation: HASH has none. -/
def dataKey (s : State) (r : TillReq) : Nat :=
  if r.code = 0x0C then 0 else (slotOf s (fieldN ((chunkArgs s r).getD 0 0) 0 11)).key

section
variable {r : TillReq} {s : State}

theorem runDerive_of_parent (h : parentStatus s (argA r) 6 = 0) : runDerive s r = createOut s (argA r) (childLevel s (argA r)) (arg r 1)
    (arg r 2) (arg r 3) (Config.crypt 1 [parentKey s (argA r), arg r 1]) := if_neg (not_not.mpr h)

theorem runGenerate_of_parent (h : parentStatus s (argA r) 8 = 0) (hok : fieldN (arg r 2) 0 4 = 2 → r.ok = true) :
    runGenerate s r = createOut s (argA r) (childLevel s (argA r)) 0 (arg r 2) (arg r 3) (Config.crypt 2 [s.free]) :=
  (if_neg (not_not.mpr h)).trans (if_neg (fun hbad => Bool.false_ne_true (hbad.2.symm.trans (hok hbad.1))))

/-- The data operations up to the end of their checks. -/
theorem runData_of_checks {u final : Nat} {types : List Nat}
    (h : r.code = 0x0C ∨ useStatus s (fieldN ((chunkArgs s r).getD 0 0) 0 11) u types = 0) (hchunk : chunkBad s r = false) :
    runData s r u types final =
      if r.more then
        { status := tsOK, outs := [arg r 1],
          mbox := if r.code = 6 ∨ r.code = 7 then cryptBytes r.code (dataKey s r) 256 (chunkData s r) else [] }
      else if r.code = 7 ∧ r.ok = false then { status := tsVERIFY_FAIL }
      else { status := tsOK, outs := [arg r 1], mbox := cryptBytes r.code (dataKey s r) final (chunkData s r) } := by
  have hst : (if r.code = 0x0C then tsOK else useStatus s (fieldN ((chunkArgs s r).getD 0 0) 0 11) u types) = tsOK := by
    rcases h with h | h
    · rw [if_pos h]
    · rw [h, ite_self]
  unfold runData
  dsimp only
  rw [if_neg (not_not.mpr hst), if_neg (by rw [hchunk]; decide)]
  rfl

/-- What a data operation gives that does not end in a failed tag check. -/
theorem runData_gives {u final : Nat} {types : List Nat}
    (h : r.code = 0x0C ∨ useStatus s (fieldN ((chunkArgs s r).getD 0 0) 0 11) u types = 0) (hchunk : chunkBad s r = false)
    (hok : r.code = 7 → r.ok = true) :
    (runData s r u types final).status = 0 ∧ (runData s r u types final).outs = [arg r 1] ∧ (runData s r u types final).eff = .none ∧
      (r.more = false → (runData s r u types final).mbox.length = final) := by
  rw [runData_of_checks h hchunk]
  split
  · rename_i hmore
    exact ⟨rfl, rfl, rfl, fun hlast => absurd (hlast.symm.trans hmore) (by decide)⟩
  · rw [if_neg (fun hbad => Bool.false_ne_true (hbad.2.symm.trans (hok hbad.1)))]
    exact ⟨rfl, rfl, rfl, fun _ => cryptBytes_length _ _ _ _⟩

end

/-- Settles O44: the Till's state and an open operation first, then the rule of the code. -/
theorem tillResults : Obligations.TillResults := by
  unfold Obligations.TillResults
  refine ⟨?tampered, ?sealed, ?clash, ?ready, ?destroy, ?deriveDeep, ?generateDeep, ?derive, ?create, ?noSlot, ?generate, ?unwrap,
    ?wrap, ?data, ?hash, ?badTag, ?sign, ?ecdh, ?pubkey, ?attest, ?gkMap, ?gkUnmap, ?purge, ?notExportable, ?badUnwrap, ?verify,
    ?random, ?zeroizeRefused, ?zeroize, ?enrolMode, ?enrol, ?certificate, ?calEnrolMode, ?calEnrol, ?authReq, ?noRequest, ?counted,
    ?auth⟩
  case tampered =>
    intro r s h
    rw [tillRun, h]
  case sealed =>
    intro r s h h1 h2 h3 h4
    rw [tillRun, h]
    exact if_neg (by simp [sealedAllows, h1, h2, h3, h4])
  case clash =>
    intro r o s h ho hcode
    rw [tillRun, h]
    exact if_pos (by rw [codeClash, openOp, ho]; exact decide_eq_true hcode)
  case ready =>
    intro r s h hclash
    rw [tillRun, h]
    exact if_neg (by rw [hclash]; decide)
  case destroy =>
    intro r s hcode hn hslot
    have hstatus : slotStatus s (argA r) = tsOK ∨ slotStatus s (argA r) = tsORPHAN := by
      rw [slotStatus, if_neg (Nat.not_lt.mpr hn)]
      exact hslot.imp (fun h => by rw [h]) (fun h => by rw [h])
    simp only [runCode, hcode]
    exact if_pos hstatus
  case deriveDeep =>
    intro r s hcode hp hl
    simp only [runCode, hcode]
    rw [runDerive_of_parent hp, createOut_too_deep hl]
  case generateDeep =>
    intro r s hcode hp hok hl
    simp only [runCode, hcode]
    rw [runGenerate_of_parent hp (fun _ => hok), createOut_too_deep hl]
  case derive =>
    intro r n s hcode hp hl htype hpersist hn
    simp only [runCode, hcode]
    exact ⟨_, (runDerive_of_parent hp).trans (createOut_creates hl htype (fun h => absurd (h.symm.trans hpersist) (by decide)) hn),
      rfl, rfl, rfl, rfl, rfl, rfl, rfl⟩
  case create => exact fun p l lb a fin key n s hl htype hcache hn => createOut_creates hl htype hcache hn
  case noSlot => exact fun p l lb a fin key s hl htype hn => createOut_no_slot hl htype hn
  case generate =>
    intro r s hcode hp hok
    simp only [runCode, hcode]
    exact runGenerate_of_parent hp hok
  case unwrap =>
    intro r s hcode hp hl hok
    simp only [runCode, hcode]
    rw [runUnwrap, if_neg (not_not.mpr hp), if_neg (Nat.not_lt.mpr hl), hok]
    rfl
  case wrap =>
    intro r s hcode hkey hwrap hexp hlive
    simp only [runCode, hcode]
    rw [runWrap, if_neg (not_not.mpr hkey), if_neg (not_not.mpr hwrap), if_neg (by rw [hexp]; decide), if_neg (by rw [hlive]; decide)]
    exact ⟨rfl, cryptBytes_length _ _ _ _, rfl⟩
  case data =>
    intro c u types r s hc hcode huse hchunk hok
    simp only [List.mem_cons, Prod.mk.injEq, List.not_mem_nil, or_false] at hc
    rcases hc with ⟨rfl, rfl, rfl⟩ | ⟨rfl, rfl, rfl⟩ | ⟨rfl, rfl, rfl⟩
    all_goals
      simp only [runCode, hcode]
      exact runData_gives (.inr huse) hchunk (fun h => hok (hcode.symm.trans h))
  case hash =>
    intro r s hcode hchunk
    have hok : r.code = 7 → r.ok = true := fun h => absurd (hcode.symm.trans h) (by decide)
    obtain ⟨hst, houts, -, -⟩ := runData_gives (u := 8) (types := []) (final := 48) (.inl hcode) hchunk hok
    simp only [runCode, hcode]
    refine ⟨hst, houts, fun hlast => ?_⟩
    rw [runData_of_checks (.inl hcode) hchunk, if_neg (by rw [hlast]; decide),
      if_neg (fun h => absurd (hcode.symm.trans h.1) (by decide)), dataKey, if_pos hcode, hcode]
  case badTag =>
    intro r s hcode huse hchunk hlast hok
    simp only [runCode, hcode]
    rw [runData_of_checks (.inr huse) hchunk, if_neg (by rw [hlast]; decide), if_pos ⟨hcode, hok⟩]
  case sign =>
    intro r s hcode huse
    simp only [runCode, hcode]
    exact if_neg (not_not.mpr huse)
  case ecdh =>
    intro r s hcode huse
    simp only [runCode, hcode]
    exact if_neg (not_not.mpr huse)
  case pubkey =>
    intro r s hcode huse
    simp only [runCode, hcode]
    exact if_neg (not_not.mpr huse)
  case attest =>
    intro r s hcode huse
    simp only [runCode, hcode]
    exact if_neg (not_not.mpr huse)
  case gkMap =>
    intro r s hcode htag hidx huse
    simp only [runCode, hcode]
    exact (if_neg htag).trans ((if_neg (Nat.not_lt.mpr hidx)).trans (if_neg (not_not.mpr huse)))
  case gkUnmap =>
    intro r s hcode hidx
    simp only [runCode, hcode]
    exact if_neg (Nat.not_lt.mpr hidx)
  case purge =>
    intro r s hcode
    simp only [runCode, hcode]
  case notExportable =>
    intro r s hcode hkey hwrap hexp
    simp only [runCode, hcode]
    rw [runWrap, if_neg (not_not.mpr hkey), if_neg (not_not.mpr hwrap), if_pos (by rw [hexp]; rfl)]
  case badUnwrap =>
    intro r s hcode hp hl hok
    simp only [runCode, hcode]
    rw [runUnwrap, if_neg (not_not.mpr hp), if_neg (Nat.not_lt.mpr hl), if_pos (by rw [hok]; rfl)]
  case verify =>
    intro r s hcode huse
    simp only [runCode, hcode]
    exact if_neg (not_not.mpr huse)
  case random =>
    intro r s hcode
    simp only [runCode, hcode]
    rw [runRandom]
    split
    · rename_i hlong
      exact ⟨rfl, fun h => absurd hlong (Nat.not_lt.mpr h)⟩
    · exact ⟨rfl, fun _ => cryptBytes_length _ _ _ _⟩
  case zeroizeRefused =>
    intro r s hcode h
    simp only [runCode, hcode]
    exact if_neg (by rw [h]; decide)
  case zeroize =>
    intro r s hcode h
    simp only [runCode, hcode]
    exact if_pos h
  case enrolMode =>
    intro r s hcode h
    simp only [runCode, hcode]
    exact if_pos h
  case enrol =>
    intro r s hcode hmode hcert hauth
    simp only [runCode, hcode]
    rw [runEnrol, if_neg hmode, hcert, hauth]
    rfl
  case certificate =>
    intro r s hcode hmode hcert hdone hok
    simp only [runCode, hcode]
    rw [runEnrol, if_neg hmode, hcert, hdone, hok]
    rfl
  case calEnrolMode =>
    intro r s hcode h
    simp only [runCode, hcode]
    exact if_pos h
  case calEnrol =>
    intro r s hcode hmode hauth
    simp only [runCode, hcode]
    rw [runCalEnrol, if_neg (not_not.mpr hmode), hauth]
    rfl
  case authReq =>
    intro r s hcode hlo hhi
    simp only [runCode, hcode]
    exact if_neg (by omega)
  case noRequest =>
    intro r s hcode hop hlive
    simp only [runCode, hcode]
    exact (if_neg (Nat.not_lt.mpr hop)).trans (if_pos (by rw [hlive]; rfl))
  case counted =>
    intro r s hcode hop hlive hmem
    simp only [runCode, hcode]
    exact (if_neg (Nat.not_lt.mpr hop)).trans ((if_neg (by rw [hlive]; decide)).trans (if_pos (.inr (.inr hmem))))
  case auth =>
    intro r s hcode hop hlive hok hrole hmem
    simp only [runCode, hcode]
    refine (if_neg (Nat.not_lt.mpr hop)).trans ((if_neg (by rw [hlive]; decide)).trans (if_neg ?_))
    rw [hok, hrole]
    simpa using hmem

end Sys2Proof.Machine
end

section
/-!
PROOFS of the family other: the ends of the Till's commands, its expiries, tamper and loads (O45).
-/

namespace Sys2Proof.Machine

open Sys2Proof

/-! The end of a command (R402). -/

/-- With nothing waiting nothing starts. -/
theorem tillStart_of_empty {s : State} (h : s.till.queue = []) : tillStart s = s := by
  unfold tillStart
  rw [h]
  cases s.till.running <;> rfl

theorem putResult_till (r : TillReq) (o : TillOut) (s : State) : (putResult r o s).till = s.till :=
  (putResult_within r o s (Within.refl s) (List.Subset.refl _)).of .till

/-- The host's interface shows the result `o`: RES and CMD_DONE. -/
structure HostResult (o : TillOut) (t : State) : Prop where
  done : rdB t TIL_INT 0 = true
  res : rd t TIL_RES = wordOf (o.status + 2 ^ 16 * o.slot)

theorem putResult_host {r : TillReq} (o : TillOut) {s : State} (hs : TablesWf s) (h : r.iface = 0) :
    HostResult o (putResult r o s) := by
  have hwords : OnlyRegs [regRun 0x70200 64, regRun 0x70A00 64, regRun (tillBase 0 + 0x18) 4, regRun (tillBase 1 + 0x18) 4]
      (wr TIL_RES (wordOf (o.status + 2 ^ 16 * o.slot)) s)
      (putOuts 0 o.outs (putMbox 0 o.mbox (wr TIL_RES (wordOf (o.status + 2 ^ 16 * o.slot)) s))) :=
    putOuts_only _ _ _ (putMbox_only _ _ _ (OnlyRegs.refl _) (by decide)) (by decide)
  have htables : TablesWf (putOuts 0 o.outs (putMbox 0 o.mbox (wr TIL_RES (wordOf (o.status + 2 ^ 16 * o.slot)) s))) :=
    (putOuts_keeps 0 o.outs _ (putMbox_keeps 0 o.mbox _ (Keeps.refl _))).tables (wr_tables hs)
  unfold putResult
  rw [h]
  exact ⟨rdB_raise_self htables (by decide) (by decide),
    (rd_raise_ne _ _ _ _ (by decide) (by decide)).trans ((hwords.read TIL_RES).trans (rd_wr_same _ _ _ hs))⟩

theorem tillFinish_of_running {r : TillReq} {o : TillOut} {s : State} (h : s.till.running = some (r, o)) :
    tillFinish s = putResult r o (applyEffect o.eff { s with till := { s.till with running := none } }) := by
  rw [tillFinish, h]

theorem tillFinish_idle {s : State} (h : s.till.running = none) : tillFinish s = s := by rw [tillFinish, h]

/-- A command's end: the effect and the result, the next start, and one operation counted. -/
theorem tillDone_of_running {r : TillReq} {o : TillOut} {s : State} (h : s.till.running = some (r, o)) (hcert : endsInRestart s = false) :
    tillDone s = tillStart (putResult r o (applyEffect o.eff
      { count evTILL_OPERATIONS 1 s with till := { s.till with running := none } })) := by
  unfold tillDone
  rw [h, hcert]
  exact congrArg tillStart (tillFinish_of_running h)

theorem tillDone_of_cert {r : TillReq} {o : TillOut} {bs : List Nat} {s : State} (h : s.till.running = some (r, o)) (hcert : o.eff = .cert bs) :
    tillDone s = dieReset (tillFinish (count evTILL_OPERATIONS 1 s)) := by
  have hends : endsInRestart s = true := by rw [endsInRestart, h]; dsimp only; rw [hcert]
  unfold tillDone
  rw [h, hends]
  rfl

theorem tillDone_idle {s : State} (h : s.till.running = none) (hq : s.till.queue = []) : tillDone s = s := by
  have hends : endsInRestart s = false := by rw [endsInRestart, h]
  unfold tillDone
  rw [h, hends]
  exact (congrArg tillStart (tillFinish_idle h)).trans (tillStart_of_empty hq)

/-! Effects. -/

theorem applyEffect_create (n : Nat) (x : TillSlot) (s : State) : (applyEffect (.create n x) s).till =
    { s.till with slots := tset {} s.till.slots n x, cache := if x.persist then s.till.cache ++ [(n, x)] else s.till.cache } := by
  unfold applyEffect setSlot
  dsimp only
  split <;> rfl

theorem applyEffect_zeroize (s : State) : (applyEffect .zeroize s).till =
    { s.till with slots := allZeroized, root := none, auths := tset none s.till.auths 1 none } := by
  unfold applyEffect setAuth
  rw [logEvent_till]

theorem applyEffect_counted {op : Nat} (h : Nat) {a : AuthReq} {s : State} (ha : authReq s op = some a) (hop : op ≠ 0) :
    (applyEffect (.counted op h) s).till = { s.till with
      auths := tset none s.till.auths op (some { a with holders := a.holders ++ [h], complete := true }) } := by
  unfold applyEffect
  dsimp only
  rw [if_neg hop, ha]
  exact raise_till _ _ _

/-! Expiries. -/

theorem opOver_iff (s : State) (i : Nat) (o : TillOpen) (h : openOp s i = some o) : opOver s i = true ↔ o.since + 250000000 ≤ s.ticks := by
  rw [opOver, h]
  exact decide_eq_true_iff

theorem authOver_iff (s : State) (op : Nat) (a : AuthReq) (h : authReq s op = some a) :
    authOver s op = true ↔ a.since + 15000000000 ≤ s.ticks := by
  rw [authOver, h]
  simp only [lives60, Bool.not_eq_true', decide_eq_false_iff_not, Nat.not_lt]

/-- An entry that ends within 300 s, with none of its group ending later, is reported. -/
theorem gkExpiring_of_last {i : Nat} {e : GkEntry} {s : State} (he : gkEntry s i = some e) (huse : gkUsable s e = true)
    (hfin : e.fin ≤ now32 s + 300) (hlast : ∀ x ∈ gkMapped s, x.group = e.group → x.fin ≤ e.fin) :
    gkExpiring i s = raise TIL_INT 4 s := by
  have hnone : (gkMapped s).any (fun x => decide (x.group = e.group ∧ e.fin < x.fin)) = false := by
    rw [List.any_eq_false]
    intro x hx h
    obtain ⟨hgroup, hlater⟩ := of_decide_eq_true h
    exact Nat.not_lt.mpr (hlast x hx hgroup) hlater
  unfold gkExpiring
  rw [he]
  dsimp only
  rw [huse, hnone, decide_eq_true hfin]
  rfl

/-! Tamper. -/

theorem latchTamper_till (src : Nat) (s : State) : (latchTamper src s).till = s.till :=
  (latchTamper_within src s (Within.refl s) (List.Subset.refl _)).of .till

theorem updateNodeOk_till (s : State) : (updateNodeOk s).till = s.till :=
  (updateNodeOk_within s (Within.refl s) (List.Subset.refl _)).of .till

theorem abortRunning_queue (s : State) : (abortRunning s).till.queue = s.till.queue := by
  unfold abortRunning
  split
  · rfl
  · rw [putResult_till]

/-- Table 16.8 in a running node with nothing waiting. -/
theorem tamperRun_till {src : Nat} {s : State} (hrun : s.boot.phase = .running) (hq : s.till.queue = []) :
    (tamperRun src s).till = { (zeroizeAll (abortRunning (latchTamper src s))).till with st := .tampered } := by
  have hqueue : (abortRunning (latchTamper src s)).till.queue = [] := by rw [abortRunning_queue, latchTamper_till, hq]
  unfold tamperRun
  dsimp only
  rw [if_neg (not_not.mpr hrun), tillStart_of_empty]
  · rw [logEvent_till, raise_till, updateNodeOk_till]
  · rw [logEvent_till, raise_till, updateNodeOk_till]
    exact hqueue

theorem tamper_of_running {src : Nat} {s : State} (hp : s.power.st ≠ .furled) (hdead : s.sentry.dead = false) (hsrc : src &&& 0b11111 ≠ 0) :
    tamper src s = tamperRun (src &&& 0b11111) s := by
  have hwatched : tamperWatched s = 0b11111 := if_neg hp
  unfold tamper
  dsimp only
  rw [hwatched, hdead, if_neg (by simpa using hsrc), if_neg hp]

theorem tamper_of_furled {src : Nat} {s : State} (hp : s.power.st = .furled) (hdead : s.sentry.dead = false) (hsrc : src &&& 0b01011 ≠ 0) :
    tamper src s = latchTamper ((src &&& 0b01011) + 32) { s with till := { s.till with cache := [] } } := by
  have hwatched : tamperWatched s = 0b01011 := if_pos hp
  unfold tamper
  dsimp only
  rw [hwatched, hdead, if_neg (by simpa using hsrc), if_pos hp]

/-- The sixth source is watched in no state. -/
theorem tamper_of_sixth (s : State) : tamper 0b100000 s = s := by
  have hsrc : 0b100000 &&& tamperWatched s = 0 := by unfold tamperWatched; split <;> rfl
  exact if_pos (.inl hsrc)

/-! Loads. -/

theorem slotWords_length (x : TillSlot) : (slotWords x).length = 4 := by unfold slotWords; split <;> rfl

theorem gkWords_length (s : State) (i : Nat) : (gkWords s i).length = 4 := by unfold gkWords; split <;> rfl

theorem gkWords_accessed (who : Req) (s : State) (i : Nat) : gkWords (accessed who s) i = gkWords s i := by cases who <;> rfl

/-- Settles O45: the end of a command with its effect, the expiries, the tamper response and the two loads. -/
theorem tillEvents : Obligations.TillEvents := by
  unfold Obligations.TillEvents
  refine ⟨?done, ?doneEffect, ?doneCert, ?doneIdle, ?create, ?effects, ?timeout, ?noTimeout, ?expiry, ?noExpiry, ?authExpiry,
    ?noAuthExpiry, ?keyExpiring, ?noEntry, ?tampered, ?tamperFurled, ?sixth, ?slotLoad, ?gkLoad⟩
  case done =>
    intro r o s hs hp hrun hq hhost heff
    refine completes_powered rfl hp ?_
    have hends : endsInRestart s = false := by rw [endsInRestart, hrun]; dsimp only; rw [heff]
    rw [tillDone_of_running hrun hends, heff, tillStart_of_empty (by rw [putResult_till]; exact hq), putResult_till]
    have htables : TablesWf (applyEffect .none { count evTILL_OPERATIONS 1 s with till := { s.till with running := none } }) :=
      tables_of_eq (s := count evTILL_OPERATIONS 1 s) (count_tables hs) rfl rfl
    obtain ⟨hdone, hres⟩ := putResult_host o htables hhost
    exact ⟨rfl, hdone, hres⟩
  case doneEffect => exact fun r o s hp hrun hends => exec_powered_eq hp rfl (tillDone_of_running hrun hends)
  case doneCert => exact fun r o bs s hp hrun hcert => exec_powered_eq hp rfl (tillDone_of_cert hrun hcert)
  case doneIdle => exact fun s hrun hq => exec_powered_stays rfl (tillDone_idle hrun hq)
  case create =>
    intro n x s hslots
    rw [slotOf, applyEffect_create]
    exact ⟨tget_tset_same _ _ _ _ hslots, rfl⟩
  case effects =>
    exact fun n op h g s => ⟨rfl, rfl, rfl, applyEffect_zeroize s, (logEvent_till _ _ _ _ _ _).trans (raise_till _ _ _),
      fun a ha hop => applyEffect_counted h ha hop⟩
  case timeout =>
    intro deck o s hp ho hlate
    exact exec_powered_eq hp rfl (if_pos ((opOver_iff _ _ _ ho).mpr hlate))
  case noTimeout => exact fun deck s h => exec_powered_stays rfl (if_neg (by rw [h]; decide))
  case expiry => exact fun n s hp hvalid hfin hpast => exec_powered_eq hp rfl (if_pos ⟨hvalid, hfin, hpast⟩)
  case noExpiry => exact fun n s _ hfin => exec_powered_stays rfl (if_neg (fun h => h.2.1 hfin))
  case authExpiry =>
    intro op a s hp hop ha hlate
    exact exec_powered_eq hp rfl (if_pos ⟨hop, (authOver_iff _ _ _ ha).mpr hlate⟩)
  case noAuthExpiry =>
    intro op s h
    refine exec_powered_stays rfl (if_neg ?_)
    rintro ⟨hop, hover⟩
    exact h.elim hop (fun h => Bool.false_ne_true (h.symm.trans hover))
  case keyExpiring =>
    intro i e s hs hp he huse hfin hlast
    refine completes_powered rfl hp ?_
    rw [gkExpiring_of_last he huse hfin hlast]
    exact ⟨rdB_raise_self hs (by decide) (by decide), raise_till _ _ _⟩
  case noEntry =>
    intro i s _ he
    exact exec_powered_stays rfl (by rw [gkExpiring, gkEntry, he])
  case tampered =>
    intro src s hp hdead hsrc hrun hq
    refine ⟨_, rfl, ?_⟩
    rw [tamper_of_running hp hdead hsrc]
    dsimp only
    rw [tamperRun_till hrun hq]
    refine ⟨rfl, rfl, rfl, ?_⟩
    dsimp only [zeroizeAll, allZeroized]
  case tamperFurled =>
    intro src s hp hdead hsrc
    refine ⟨_, rfl, ?_⟩
    rw [tamper_of_furled hp hdead hsrc]
    exact latchTamper_till _ _
  case sixth => exact fun s => congrArg Host.Outcome.next (tamper_of_sixth s)
  case slotLoad =>
    intro who n i s hs hv hi
    have ha := accessed_tables who s hs
    refine completes_served rfl hv ⟨(rd_wrWords_word (b := TIL_SLOT_W 0) i (wr_tables ha) ?_).trans ?_,
      (rd_wrWords_out _ _ _ _ (.inl (by decide))).trans (rd_wr_same _ _ _ ha)⟩
    · rwa [slotWords_length]
    · rw [slotOf, accessed_till, slotOf]
  case gkLoad =>
    intro who n i s hs hv hi
    have ha := accessed_tables who s hs
    refine completes_served rfl hv ⟨(rd_wrWords_word (b := TIL_GK_W 0) i (wr_tables ha) ?_).trans ?_,
      (rd_wrWords_out _ _ _ _ (.inl (by decide))).trans (rd_wr_same _ _ _ ha)⟩
    · rwa [gkWords_length]
    · exact congrArg (fun l => List.getD l i 0#32) (gkWords_accessed who s n.toNat)

end Sys2Proof.Machine
end

section
/-!
PROOFS of the family other: the lease (O46) and the messages of a node to its Clerk (O47).
-/

namespace Sys2Proof.Machine

open Sys2Proof

/-! The lease (R418 to R421). -/

theorem wordOf_toNat (v : Word) : wordOf v.toNat = v := BitVec.ofNat_toNat 32 v |>.trans (BitVec.setWidth_eq v)

theorem isPair_accessed (who : Req) (s : State) : isPair (accessed who s) = isPair s := by rw [isPair, rdF_accessed, isPair]

theorem leaseSet_far {dl : Nat} {s : State} (hahead : (dl + 2 ^ 32 - s.pair.mono % 2 ^ 32) % 2 ^ 32 < 2 ^ 31)
    (hfar : 300000 < (dl + 2 ^ 32 - s.pair.mono % 2 ^ 32) % 2 ^ 32) : leaseSet dl s = raise SHR_INT 5 s := if_pos ⟨hahead, hfar⟩

/-- The lease that a deadline within 300 ms writes. -/
def leaseWritten (dl : Nat) (s : State) : State := setPair (fun p => { p with lease := true }) (wr SHR_LEASE_DL (wordOf dl) s)

theorem leaseSet_near {dl : Nat} {s : State} (hnear : 2 ^ 31 ≤ (dl + 2 ^ 32 - s.pair.mono % 2 ^ 32) % 2 ^ 32 ∨
    (dl + 2 ^ 32 - s.pair.mono % 2 ^ 32) % 2 ^ 32 ≤ 300000) : leaseSet dl s =
      if isPair (leaseWritten dl s) && leaseLive (leaseWritten dl s) then becomeActive (leaseWritten dl s) else leaseWritten dl s :=
  if_neg (by omega)

theorem rd_leaseWritten (dl : Nat) (s : State) (hs : TablesWf s) : rd (leaseWritten dl s) SHR_LEASE_DL = wordOf dl :=
  rd_wr_same _ _ _ hs

theorem isPair_leaseWritten (dl : Nat) (s : State) : isPair (leaseWritten dl s) = isPair s := by
  unfold isPair
  rw [show rdF (leaseWritten dl s) SHR_CFG 0 2 = rdF s SHR_CFG 0 2 from rdF_wr_other]

/-- A lease within 300 ms is kept, and with it alive a PAIR node is ACTIVE. -/
theorem leaseSet_near_facts {dl : Nat} {s : State} (hs : TablesWf s) (hnear : 2 ^ 31 ≤ (dl + 2 ^ 32 - s.pair.mono % 2 ^ 32) % 2 ^ 32 ∨
    (dl + 2 ^ 32 - s.pair.mono % 2 ^ 32) % 2 ^ 32 ≤ 300000) :
    rd (leaseSet dl s) SHR_LEASE_DL = wordOf dl ∧ (leaseSet dl s).pair.lease = true ∧
      (isPair s = true → leaseLive (leaseSet dl s) = true → (leaseSet dl s).pair.role = .active) := by
  rw [leaseSet_near hnear]
  split
  · exact ⟨(rd_becomeActive _ _).trans (rd_leaseWritten dl s hs), (becomeActive_lease _).trans rfl, fun _ _ => becomeActive_role _⟩
  · rename_i hnot
    exact ⟨rd_leaseWritten dl s hs, rfl, fun hpair hlive => absurd (by rw [isPair_leaseWritten, hpair, hlive]; rfl) hnot⟩

theorem dropLease_active {s : State} (h : s.pair.role = .active) :
    (dropLease s).pair = { s.pair with lease := false, role := .standby } := by
  refine (congrArg State.pair (if_pos h)).trans ?_
  rw [setRole_pair]
  rfl

theorem dropLease_not_active {s : State} (h : s.pair.role ≠ .active) :
    dropLease s = { s with pair := { s.pair with lease := false } } := if_neg h

theorem dropLease_ticks (s : State) : (dropLease s).ticks = s.ticks :=
  (dropLease_within s (Within.refl s) (List.Subset.refl _)).of .ticks

theorem clerkSend_pair (typ epoch : Nat) (s : State) : (clerkSend typ epoch s).pair = { s.pair with
    nodeSeq := (s.pair.nodeSeq + 1) % 2 ^ 32,
    sent := lastN 8 (s.pair.sent ++ [((s.pair.nodeSeq + 1) % 2 ^ 32, s.pair.mono)]) } := rfl

theorem clerkSend_out (typ epoch : Nat) (s : State) : ∃ b, (clerkSend typ epoch s).out = s.out ++ [.clerk b] := ⟨_, rfl⟩

/-- The drop of an ACTIVE node, with the RELEASE that the running Deck sends after it. -/
theorem leaseRelease_active {s : State} (h : s.pair.role = .active) : (leaseRelease s).pair.lease = false ∧
    (leaseRelease s).pair.role = .standby ∧ (s.deck.st = .run → (leaseRelease s).pair.releaseAt = some s.ticks ∧
      (leaseRelease s).pair.nodeSeq = (s.pair.nodeSeq + 1) % 2 ^ 32 ∧
      (leaseRelease s).pair.releaseSeq = some (leaseRelease s).pair.nodeSeq ∧ ∃ b, (leaseRelease s).out.getLast? = some (.clerk b)) := by
  have hdrop := dropLease_active h
  by_cases hdeck : s.deck.st = .run
  · have hsends : leaseRelease s = setPair (fun p => { p with releaseAt := some (dropLease s).ticks, releaseSeq := some p.nodeSeq })
        (clerkSend 3 (rd (dropLease s) SHR_LEASE_EPOCH).toNat (dropLease s)) := if_pos ⟨h, decide_eq_true hdeck⟩
    obtain ⟨b, hout⟩ := clerkSend_out 3 (rd (dropLease s) SHR_LEASE_EPOCH).toNat (dropLease s)
    have hlast : (leaseRelease s).out.getLast? = some (.clerk b) := by
      rw [hsends]
      exact (congrArg List.getLast? hout).trans List.getLast?_concat
    have hpair := clerkSend_pair 3 (rd (dropLease s) SHR_LEASE_EPOCH).toNat (dropLease s)
    rw [hdrop] at hpair
    refine ⟨?_, ?_, fun _ => ⟨?_, ?_, ?_, b, hlast⟩⟩
    · rw [hsends]
      exact congrArg Pair.lease hpair
    · rw [hsends]
      exact congrArg Pair.role hpair
    · rw [hsends, ← dropLease_ticks s]
      rfl
    · rw [hsends]
      exact congrArg Pair.nodeSeq hpair
    · rw [hsends]
      rfl
  · have hdrops : leaseRelease s = dropLease s := if_neg (fun hc => hdeck (of_decide_eq_true hc.2))
    rw [hdrops, hdrop]
    exact ⟨rfl, rfl, fun hrun => absurd hrun hdeck⟩

theorem leaseRelease_not_active {s : State} (h : s.pair.role ≠ .active) :
    leaseRelease s = { s with pair := { s.pair with lease := false } } :=
  (if_neg (fun hc => h hc.1)).trans (dropLease_not_active h)

theorem leaseEnd_of_live {s : State} (h : leaseLive s = true) : leaseEnd s = s := if_pos (by rw [h, Bool.or_true])

theorem leaseEnd_of_none {s : State} (h : s.pair.lease = false) : leaseEnd s = s := if_pos (by rw [h]; rfl)

/-- The lapse of an ACTIVE node's lease. -/
theorem leaseEnd_lapses {s : State} (hs : TablesWf s) (hlease : s.pair.lease = true) (hlive : leaseLive s = false)
    (h : s.pair.role = .active) : (leaseEnd s).pair.role = .lapsed ∧ (leaseEnd s).pair.lease = false ∧ rdB (leaseEnd s) SHR_INT 4 = true ∧
      (s.pair.peerSeen = false → (leaseEnd s).pair.wants = true ∧ (leaseEnd s).pair.askNext = s.ticks) := by
  have hends : ¬ ((!s.pair.lease || leaseLive s) = true) := by rw [hlease, hlive]; decide
  have hlapse : ∀ u : State, TablesWf u → ∀ k, (raise SHR_INT 4 (shrCount 9 1 (pairRecord 3 6 k [] (setRole .lapsed u)))).pair =
      { u.pair with role := .lapsed } ∧ rdB (raise SHR_INT 4 (shrCount 9 1 (pairRecord 3 6 k [] (setRole .lapsed u)))) SHR_INT 4 = true :=
    fun u hu k => ⟨by rw [raise_pair, shrCount, count_pair, pairRecord_pair, setRole_pair],
      rdB_raise_self (count_tables (logEvent_tables ((setRole_keeps _ _ (Keeps.refl u)).tables hu))) (by decide) (by decide)⟩
  unfold leaseEnd
  rw [if_neg hends]
  dsimp only
  rw [if_pos (show (setPair (fun p => { p with lease := false }) s).pair.role = .active from h)]
  have hpeer : (setPair (fun p => { p with lease := false }) s).pair.peerSeen = s.pair.peerSeen := rfl
  rw [hpeer]
  cases hseen : s.pair.peerSeen
  · obtain ⟨hpair, hint⟩ := hlapse (wantLease (setPair (fun p => { p with lease := false }) s)) (tables_of_eq hs rfl rfl)
      ((rd (wantLease (setPair (fun p => { p with lease := false }) s)) SHR_LEASE_EPOCH).toNat % 2 ^ 16)
    refine ⟨?_, ?_, hint, fun _ => ⟨?_, ?_⟩⟩ <;> exact (congrArg _ hpair).trans rfl
  · obtain ⟨hpair, hint⟩ := hlapse (setPair (fun p => { p with lease := false }) s) (tables_of_eq hs rfl rfl)
      ((rd (setPair (fun p => { p with lease := false }) s) SHR_LEASE_EPOCH).toNat % 2 ^ 16)
    refine ⟨?_, ?_, hint, fun hn => absurd hn (by decide)⟩ <;> exact (congrArg _ hpair).trans rfl

theorem isMuted_iff (s : State) : isMuted s = true ↔
    s.pair.role ≠ .solo ∧ ¬ (s.pair.lease = true ∧ atOrAfter32 s.pair.mono (rd s SHR_LEASE_DL).toNat = false) := by
  simp only [isMuted, leaseLive, Bool.and_eq_true, decide_eq_true_eq, Bool.not_eq_true', Bool.eq_false_iff, ne_eq]

/-- Settles O46: a lease write by its deadline, the drop and the lapse by the role, and the mute by the lease alone. -/
theorem pairLease : Obligations.PairLease := by
  unfold Obligations.PairLease
  refine ⟨?near, ?far, ?drop, ?dropPassive, ?lapse, ?live, ?none, isMuted_iff⟩
  case near =>
    intro who v s hs hv hnear
    refine completes_served rfl hv ?_
    obtain ⟨hdl, hlease, hrole⟩ := leaseSet_near_facts (dl := v.toNat) (accessed_tables who s hs) (by rwa [accessed_pair])
    exact ⟨hdl.trans (wordOf_toNat v), hlease, fun hp => hrole (by rwa [isPair_accessed])⟩
  case far =>
    intro who v s hs hv hahead hfar
    refine completes_served rfl hv ?_
    rw [leaseSet_far (by rwa [accessed_pair]) (by rwa [accessed_pair])]
    exact ⟨rdB_raise_self (accessed_tables who s hs) (by decide) (by decide), (raise_pair _ _ _).trans (accessed_pair who s),
      (rd_raise_ne _ _ _ _ (by decide) (by decide)).trans (rd_accessed who s _)⟩
  case drop =>
    intro who s hv h
    refine completes_served rfl hv ?_
    have hrelease := leaseRelease_active (s := accessed who s) (by rwa [accessed_pair])
    rwa [accessed_deck, accessed_ticks, accessed_pair] at hrelease
  case dropPassive =>
    intro who s hv h
    refine completes_served rfl hv ?_
    rw [leaseRelease_not_active (by rwa [accessed_pair]), accessed_pair]
    exact ⟨rfl, accessed_out who s⟩
  case lapse => exact fun s hs hp hlease hlive h => completes_full rfl hp (leaseEnd_lapses hs hlease hlive h)
  case live => exact fun s _ h => exec_full_stays rfl (leaseEnd_of_live h)
  case none => exact fun s _ h => exec_full_stays rfl (leaseEnd_of_none h)

/-! Messages to the Clerk (R430 to R433). -/

/-- A reply to none of the last eight messages, or with a failed MAC. -/
theorem clerkReply_counted {m : ClerkMsg} {f : Nat → State → State} {s : State} (hpair : isPair s = true) (hdeck : s.deck.st = .run)
    (h : s.pair.sent.find? (fun y => decide (y.1 = m.nodeSeq.toNat)) = none ∨ m.macOk = false) : clerkReply m f s = count (SHR_CNT 20) 1 s := by
  unfold clerkReply
  rw [if_neg (by rw [hpair, fwUp, hdeck]; decide)]
  rcases h with h | h
  · rw [h]
    rfl
  · split
    · rfl
    · exact if_neg (by rw [h]; rintro ⟨hmac, -⟩; exact Bool.false_ne_true hmac)

/-- The state that an accepted reply acts on. -/
def replied (s : State) : State := { s with pair := { s.pair with clerkLost := false, askedAt := none, replyAt := s.ticks } }

/-- The lease of a GRANT after the last RELEASE. -/
theorem granted_facts {m : ClerkMsg} {ts : Nat} {s : State} (hs : TablesWf s) (hafter : afterRelease m s = true)
    (hnear : 2 ^ 31 ≤ ((ts + 290000) % 2 ^ 32 + 2 ^ 32 - s.pair.mono % 2 ^ 32) % 2 ^ 32 ∨
      ((ts + 290000) % 2 ^ 32 + 2 ^ 32 - s.pair.mono % 2 ^ 32) % 2 ^ 32 ≤ 300000) :
    rd (granted m ts s) SHR_LEASE_DL = wordOf (ts + 290000) ∧ rd (granted m ts s) SHR_LEASE_EPOCH = m.epoch ∧
      (granted m ts s).pair.lease = true ∧ (granted m ts s).pair.role = .active ∧ (granted m ts s).pair.clerkLost = s.pair.clerkLost := by
  obtain ⟨hdl, hepoch, hlease⟩ := takeLease_alive m ts s.pair.mono (shrCount 8 1 s) (count_tables hs) rfl hnear
  have hpub : ∀ t : State, (∀ b, 0x70000 ≤ b → rd (if s.pair.role = .active then pubAll t else t) b = rd t b) ∧
      (if s.pair.role = .active then pubAll t else t).pair = t.pair := by
    intro t
    split
    · exact ⟨fun b hb => rd_pubAll t b hb, pubAll_pair t⟩
    · exact ⟨fun _ _ => rfl, rfl⟩
  obtain ⟨hregs, hpair⟩ := hpub (becomeActive (takeLease m ts (shrCount 8 1 s)))
  unfold granted
  rw [if_neg (by rw [hafter]; decide)]
  dsimp only
  rw [hregs _ (by decide), hregs _ (by decide), hpair, rd_becomeActive _ _, rd_becomeActive _ _]
  exact ⟨hdl, hepoch, (becomeActive_lease _).trans hlease, becomeActive_role _, (becomeActive_clerkLost _).trans (takeLease_lost _ _ _)⟩

theorem renewed_facts {m : ClerkMsg} {ts : Nat} {s : State} (hs : TablesWf s) (h : s.pair.role = .active ∨ s.pair.role = .lapsed)
    (hnear : 2 ^ 31 ≤ ((ts + 290000) % 2 ^ 32 + 2 ^ 32 - s.pair.mono % 2 ^ 32) % 2 ^ 32 ∨
      ((ts + 290000) % 2 ^ 32 + 2 ^ 32 - s.pair.mono % 2 ^ 32) % 2 ^ 32 ≤ 300000) :
    rd (renewed m ts s) SHR_LEASE_DL = wordOf (ts + 290000) ∧ rd (renewed m ts s) SHR_LEASE_EPOCH = m.epoch ∧
      (renewed m ts s).pair.lease = true ∧ (renewed m ts s).pair.role = .active := by
  obtain ⟨hdl, hepoch, hlease⟩ := takeLease_alive m ts s.pair.mono s hs rfl hnear
  rw [renewed, if_pos h]
  exact ⟨(rd_becomeActive _ _).trans hdl, (rd_becomeActive _ _).trans hepoch, (becomeActive_lease _).trans hlease, becomeActive_role _⟩

/-- A stale epoch takes an ACTIVE node's lease. -/
theorem denied_stale {m : ClerkMsg} {ts : Nat} {s : State} (h : s.pair.role = .active) :
    (denied m .staleEpoch ts s).pair.lease = false ∧ (denied m .staleEpoch ts s).pair.role = .standby ∧
      (s.pair.peerSeen = false → (denied m .staleEpoch ts s).pair.wants = true ∧ (denied m .staleEpoch ts s).pair.askNext = s.ticks) := by
  have hdrop := dropLease_active h
  have hdropped : (if (dropLease s).pair.role = .lapsed then setRole .standby (dropLease s) else dropLease s) = dropLease s :=
    if_neg (by rw [show (dropLease s).pair.role = .standby from (congrArg Pair.role hdrop).trans rfl]; decide)
  have hpeer : (dropLease s).pair.peerSeen = s.pair.peerSeen := (congrArg Pair.peerSeen hdrop).trans rfl
  unfold denied
  rw [if_pos rfl]
  dsimp only
  rw [hdropped, hpeer]
  split
  · rename_i hseen
    rw [hdrop]
    exact ⟨rfl, rfl, fun hn => absurd (hn.symm.trans hseen) (by decide)⟩
  · unfold wantLease setPair
    rw [hdrop, dropLease_ticks]
    exact ⟨rfl, rfl, fun _ => ⟨rfl, rfl⟩⟩

/-- Settles O47: each message by the times and flags that call for it, and each reply by its kind. -/
theorem pairClerk : Obligations.PairClerk := by
  unfold Obligations.PairClerk
  refine ⟨?renew, ?noRenew, ?request, ?noRequest, ?lost, ?notLost, ?grant, ?lateGrant, ?renewed, ?notRenewed, ?stale, ?deny, ?counted⟩
  case renew =>
    intro s hp hpair hrole hdeck hat
    refine completes_full rfl hp ?_
    rw [if_pos hat, clerkRenew, if_pos ⟨hpair, hrole, decide_eq_true hdeck⟩]
    exact ⟨clerkSend_pair _ _ _, clerkSend_out _ _ _⟩
  case noRenew =>
    intro s _ h
    refine exec_full_stays rfl ?_
    rcases h with h | h
    · exact if_neg (Nat.not_le.mpr h)
    · have hnot : ¬ (isPair s = true ∧ s.pair.role = .active ∧ fwUp s = true) := by
        rintro ⟨hpair, hrole, hdeck⟩
        rcases h with h | h | h
        · exact Bool.false_ne_true (h.symm.trans hpair)
        · exact h hrole
        · exact h (of_decide_eq_true hdeck)
      rw [clerkRenew, if_neg hnot, ite_self]
  case request =>
    intro s hp hpair hdeck hok hwants hconfirm hat
    refine completes_full rfl hp ?_
    rw [clerkAsk, if_pos (by rw [hpair, fwUp, hdeck, hok, hwants, hconfirm, decide_eq_true hat]; decide)]
    exact ⟨clerkSend_pair _ _ _, clerkSend_out _ _ _⟩
  case noRequest =>
    intro s _ h
    refine exec_full_stays rfl (if_neg ?_)
    rcases h with h | h | h | h | h | h <;> simp [fwUp, h]
  case lost =>
    intro s hs hp hpair hclear hlate
    refine completes_full rfl hp ?_
    rw [clerkGone, if_pos (by rw [hpair, hclear, decide_eq_true hlate]; rfl)]
    exact ⟨by rw [raise_pair, pairRecord_pair]; rfl,
      rdB_raise_self (logEvent_tables (tables_of_eq hs rfl rfl)) (by decide) (by decide)⟩
  case notLost =>
    intro s _ h
    refine exec_full_stays rfl (if_neg ?_)
    rcases h with h | h | h <;> simp [h]
  case grant =>
    intro m x s hs hp hpair hdeck hx hmac hpid hnode hafter hnear
    refine completes_full rfl hp ?_
    rw [reply_served m _ x s hpair hdeck hx hmac hpid hnode]
    exact granted_facts (s := replied s) (tables_of_eq hs rfl rfl) hafter hnear
  case lateGrant =>
    intro m x s hp hpair hdeck hx hmac hpid hnode hafter
    refine exec_full_eq hp rfl ?_
    rw [reply_served m _ x s hpair hdeck hx hmac hpid hnode]
    exact if_pos (congrArg Bool.not hafter)
  case renewed =>
    intro m x s hs hp hpair hdeck hx hmac hpid hnode hrole hnear
    refine completes_full rfl hp ?_
    rw [reply_served m _ x s hpair hdeck hx hmac hpid hnode]
    exact renewed_facts (s := replied s) (tables_of_eq hs rfl rfl) hrole hnear
  case notRenewed =>
    intro m x s hp hpair hdeck hx hmac hpid hnode hactive hlapsed
    refine exec_full_eq hp rfl ?_
    rw [reply_served m _ x s hpair hdeck hx hmac hpid hnode]
    exact if_neg (not_or.mpr ⟨hactive, hlapsed⟩)
  case stale =>
    intro m x s hp hpair hdeck hx hmac hpid hnode hrole
    refine completes_full rfl hp ?_
    rw [reply_served m _ x s hpair hdeck hx hmac hpid hnode]
    exact denied_stale (s := replied s) hrole
  case deny =>
    intro m r x s hp hpair hdeck hx hmac hpid hnode hr
    refine exec_full_eq hp rfl ?_
    rw [reply_served m _ x s hpair hdeck hx hmac hpid hnode]
    unfold denied setPair
    rw [if_neg hr]
    split
    · rfl
    · split <;> rfl
  case counted =>
    intro m r c s hc hp hpair hdeck h
    simp only [List.mem_cons, List.not_mem_nil, or_false] at hc
    rcases hc with rfl | rfl | rfl <;> exact exec_full_eq hp rfl (clerkReply_counted hpair hdeck h)

end Sys2Proof.Machine
end

section
/-!
PROOFS of the family other: Shroud links (O48).
-/

namespace Sys2Proof.Machine

open Sys2Proof

/-- A state that differs in the links alone. -/
theorem LinksOnly.pair_eq {s t : State} (h : LinksOnly s t) : t.pair = { s.pair with links := t.pair.links } := by
  obtain ⟨-, -, -, -, -, -, -, L, hL⟩ := h
  rw [hL]

theorem LinksOnly.regs_eq {s t : State} (h : LinksOnly s t) : t.regs = s.regs := h.1

theorem LinksOnly.live_eq {s t : State} (h : LinksOnly s t) : t.live = s.live := h.2.1

/-! The credits of a link (R423). -/

theorem creditsBack_of_no_waits {l n : Nat} {s : State} (h : (shroud s l).waits = []) :
    creditsBack l n s = setShroud l { shroud s l with credits := min 256 ((shroud s l).credits + n) } s := by
  unfold creditsBack
  dsimp only
  rw [h]
  rfl

theorem linkReset_of_no_waits {l : Nat} {s : State} (h : (shroud s l).waits = []) :
    linkReset l s = setShroud l { shroud s l with credits := 256, owed := 0 } s := by
  unfold linkReset
  dsimp only
  rw [h]
  rfl

/-- A frame that never waits leaves at once on a link that is up. -/
theorem shroudSend_at_once {l typ : Nat} {ws : List Word} {s : State} (hup : (shroud s l).up = true)
    (htyp : typ = shHEARTBEAT ∨ typ = shCREDIT ∨ typ = shLINK_INIT) : shroudSend l typ ws s = shroudOut l typ ws s := by
  unfold shroudSend shroudMay
  dsimp only
  rw [if_neg (by rw [hup]; decide), decide_eq_true htyp, Bool.true_or, Bool.or_true, if_pos (Bool.and_self true)]

section
variable {l : Fin 2} {h : ShroudHdr} {s : State}

/-- The state in which a frame's credits are owed. -/
def frameOwed (l : Fin 2) (h : ShroudHdr) (s : State) : State :=
  setShroud l.val { shroud s l.val with owed := (shroud s l.val).owed + creditsOf h.len.toNat } s

theorem shroud_frameOwed (hup : (shroud s l.val).up = true) :
    shroud (frameOwed l h s) l.val = { shroud s l.val with owed := (shroud s l.val).owed + creditsOf h.len.toNat } :=
  shroud_setShroud _ _ _ hup

/-- A kept frame whose sender's credits release no waiting frame. -/
theorem shroudRx_kept_quietly (f : State → State) (hpair : isPair s = true) (hup : (shroud s l.val).up = true)
    (hpar : h.parityOk = true) (hcrc : h.crcOk = true) (hpid : h.pairId.toNat = pairId s) (hwaits : (shroud s l.val).waits = []) :
    shroudRx l h false f s = f (setShroud l.val { shroud s l.val with
      owed := (shroud s l.val).owed + creditsOf h.len.toNat,
      credits := min 256 ((shroud s l.val).credits + h.credits.toNat) } (frameOwed l h s)) := by
  have howed := shroud_frameOwed (h := h) hup
  have hback : creditsBack l.val h.credits.toNat (frameOwed l h s) = _ :=
    creditsBack_of_no_waits (by rw [howed]; exact hwaits)
  rw [howed] at hback
  unfold shroudRx
  dsimp only
  rw [if_neg (by rw [hpair, hup]; decide), if_pos ⟨hpar, hcrc, hpid⟩, if_neg (by decide)]
  exact congrArg f hback

theorem shroudRx_discarded {bulk : Bool} {f : State → State} (hpair : isPair s = true) (hup : (shroud s l.val).up = true)
    (hbad : h.parityOk = false ∨ h.crcOk = false ∨ h.pairId.toNat ≠ pairId s) :
    shroudRx l h bulk f s = creditSend l.val (shrCount 6 1 (frameOwed l h s)) := by
  unfold shroudRx
  dsimp only
  rw [if_neg (by rw [hpair, hup]; decide), if_neg]
  · rfl
  · rintro ⟨hpar, hcrc, hpid⟩
    rcases hbad with hbad | hbad | hbad
    · exact Bool.false_ne_true (hbad.symm.trans hpar)
    · exact Bool.false_ne_true (hbad.symm.trans hcrc)
    · exact hbad hpid

theorem shroudRx_unheard {bulk : Bool} {f : State → State} (hoff : isPair s = false ∨ (shroud s l.val).up = false) :
    shroudRx l h bulk f s = s := if_pos (by rcases hoff with h | h <;> simp [h])

/-- The nine kinds of frame. -/
def shroudFrames (l : Fin 2) (h : ShroudHdr) (hb : Heartbeat) (es : List DigestEntry) (rs : List (List Word)) (x : EnergySave)
    (ws : List Word) (d : ResyncData) : List Instr :=
  [.rxCredit l h, .rxLinkInit l h, .rxHeartbeat l h hb, .rxDigest l h es, .rxLedger l h rs, .rxEnergy l h x, .rxHealth l h ws,
    .rxResyncReq l h, .rxResyncData l h d]

/-- Each of them passes the checks of `shroudRx`. -/
theorem exec_shroudFrame {hb : Heartbeat} {es : List DigestEntry} {rs : List (List Word)} {x : EnergySave} {ws : List Word}
    {d : ResyncData} : ∀ c ∈ shroudFrames l h hb es rs x ws d, ∃ bulk f, exec c s = inFull s (shroudRx l h bulk f s) := by
  simp only [shroudFrames, List.forall_mem_cons]
  exact ⟨⟨_, _, rfl⟩, ⟨_, _, rfl⟩, ⟨_, _, rfl⟩, ⟨_, _, rfl⟩, ⟨_, _, rfl⟩, ⟨_, _, rfl⟩, ⟨_, _, rfl⟩, ⟨_, _, rfl⟩, ⟨_, _, rfl⟩,
    List.forall_mem_nil _⟩

end

theorem shroudOut_out (l typ : Nat) (ws : List Word) (s : State) :
    (shroudOut l typ ws s).out = s.out ++ [.shroud l (shroudFrame s l typ (min 255 (shroud s l).owed) ws)] := rfl

/-! Links that come up and go down. -/

theorem shroudChange_same {l : Nat} {up : Bool} {s : State} (h : (shroud s l).up = up) : shroudChange l up s = s := if_pos h

/-- A link that comes up sends LINK_INIT and starts with 256 credits. -/
theorem shroudChange_up {l : Nat} {s : State} (hdown : (shroud s l).up = false) (hwaits : (shroud s l).waits = []) :
    ∃ u ws, shroudChange l true s = raise SHR_INT 3 u ∧ LinksOnly s u ∧ u.out = s.out ++ [OutMsg.shroud l ws] ∧
      (shroud u l).up = true ∧ (shroud u l).credits = 256 := by
  have hup := shroud_setShroud l { shroud s l with up := true, credits := 256, owed := 0 } s rfl
  have hsend := shroudSend_at_once (typ := shLINK_INIT) (ws := []) (by rw [hup]) (.inr (.inr rfl))
  have hout : shroud (shroudOut l shLINK_INIT [] (setShroud l { shroud s l with up := true, credits := 256, owed := 0 } s)) l = _ :=
    shroud_setShroud _ _ _ (by rw [hup])
  have hreset := linkReset_of_no_waits
    (s := shroudOut l shLINK_INIT [] (setShroud l { shroud s l with up := true, credits := 256, owed := 0 } s)) (by
      rw [hout, hup]; exact hwaits)
  have hchange : shroudChange l true s = raise SHR_INT 3 (linkReset l (shroudSend l shLINK_INIT []
      (setShroud l { shroud s l with up := true, credits := 256, owed := 0 } s))) :=
    (if_neg (by rw [hdown]; decide)).trans (if_pos rfl)
  rw [hsend, hreset] at hchange
  refine ⟨_, _, hchange, ((linksOnly_setShroud _ _ _).trans (linksOnly_shroudOut _ _ _ _)).trans (linksOnly_setShroud _ _ _),
    shroudOut_out _ _ _ _, ?_, ?_⟩
  · rw [shroud_setShroud _ _ _ (by rw [hout, hup]), hout, hup]
  · rw [shroud_setShroud _ _ _ (by rw [hout, hup])]

theorem shroudChange_down {l : Nat} {s : State} (hup : (shroud s l).up = true) (hwaits : (shroud s l).waits = []) :
    shroudChange l false s = raise SHR_INT 3 (setShroud l { shroud s l with up := false, waits := [] } s) := by
  unfold shroudChange
  dsimp only
  rw [if_neg (by rw [hup]; decide), if_neg (by decide), hwaits]
  rfl

/-! The heartbeat (R424). -/

/-- The state in which a heartbeat is made. -/
def heartbeatMade (s : State) : State := setPair (fun p => { p with
  hbSeq := (s.pair.hbSeq + 1) % 2 ^ 32, hbAt := s.ticks + 2500000,
  tx := tset none p.tx ((s.pair.hbSeq + 1) % 2 ^ 32 % 64) (some p.mono) }) s

/-- The heartbeat on one link. -/
def heartbeatOn (ws : List Word) (l : Nat) (s : State) : State :=
  if (shroud s l).up then shrCount 0 1 (shroudSend l shHEARTBEAT ws s) else s

theorem heartbeat_due {s : State} (hpair : isPair s = true) (hat : s.pair.hbAt ≤ s.ticks) :
    heartbeat s = heartbeatOn (hbWords (heartbeatMade s)) 1 (heartbeatOn (hbWords (heartbeatMade s)) 0 (heartbeatMade s)) := by
  refine (if_neg ?_).trans rfl
  rw [hpair, decide_eq_false (Nat.not_lt.mpr hat)]
  decide

theorem heartbeatOn_down {ws : List Word} {l : Nat} {s : State} (h : (shroud s l).up = false) : heartbeatOn ws l s = s :=
  if_neg (by rw [h]; decide)

theorem heartbeatOn_up {ws : List Word} {l : Nat} {s : State} (h : (shroud s l).up = true) :
    heartbeatOn ws l s = shrCount 0 1 (shroudOut l shHEARTBEAT ws s) :=
  (if_pos h).trans (congrArg (shrCount 0 1) (shroudSend_at_once h (.inl rfl)))

/-- A heartbeat on both links is counted on both. -/
theorem heartbeatOn_both {ws : List Word} {s : State} (hs : TablesWf s) (h0 : (shroud s 0).up = true) (h1 : (shroud s 1).up = true) :
    liveCnt (heartbeatOn ws 1 (heartbeatOn ws 0 s)) (SHR_CNT 0) = (liveCnt s (SHR_CNT 0) + 2) % 2 ^ 64 ∧
      (heartbeatOn ws 1 (heartbeatOn ws 0 s)).regs = s.regs ∧
      (heartbeatOn ws 1 (heartbeatOn ws 0 s)).pair.hbSeq = s.pair.hbSeq ∧
      (heartbeatOn ws 1 (heartbeatOn ws 0 s)).pair.hbAt = s.pair.hbAt := by
  have hother : shroud (shrCount 0 1 (shroudOut 0 shHEARTBEAT ws s)) 1 = shroud s 1 := tget_tset_ne _ _ _ _ _ (by decide)
  have hfirst : liveCnt (shrCount 0 1 (shroudOut 0 shHEARTBEAT ws s)) (SHR_CNT 0) = (liveCnt s (SHR_CNT 0) + 1) % 2 ^ 64 :=
    live_count_self (tables_of_eq hs rfl rfl)
  have hsecond : liveCnt (shrCount 0 1 (shroudOut 1 shHEARTBEAT ws (shrCount 0 1 (shroudOut 0 shHEARTBEAT ws s)))) (SHR_CNT 0) =
      (liveCnt (shrCount 0 1 (shroudOut 0 shHEARTBEAT ws s)) (SHR_CNT 0) + 1) % 2 ^ 64 :=
    live_count_self (tables_of_eq (count_tables (tables_of_eq hs rfl rfl)) rfl rfl)
  rw [heartbeatOn_up h0, heartbeatOn_up (by rw [hother]; exact h1)]
  refine ⟨?_, rfl, rfl, rfl⟩
  rw [hsecond, hfirst]
  omega

/-- Settles O48: frames by the link and by their checks, links by their change, and the heartbeat by its time. -/
theorem pairLinks : Obligations.PairLinks := by
  unfold Obligations.PairLinks
  refine ⟨?credit, ?linkInit, ?discarded, ?unheard, ?up, ?down, ?beatNowhere, ?beatBoth, ?noBeat, ?noChange⟩
  case credit =>
    intro l h s hp hpair hup hpar hcrc hpid hwaits
    refine completes_full rfl hp ?_
    rw [shroudRx_kept_quietly _ hpair hup hpar hcrc hpid hwaits]
    exact shroud_setShroud _ _ _ hup
  case linkInit =>
    intro l h s hp hpair hup hpar hcrc hpid hwaits
    refine completes_full rfl hp ?_
    have hkept := shroud_setShroud l.val { shroud s l.val with
      owed := (shroud s l.val).owed + creditsOf h.len.toNat,
      credits := min 256 ((shroud s l.val).credits + h.credits.toNat) } (frameOwed l h s) hup
    rw [shroudRx_kept_quietly _ hpair hup hpar hcrc hpid hwaits, linkReset_of_no_waits (by rw [hkept]; exact hwaits)]
    rw [hkept]
    exact shroud_setShroud _ _ _ hup
  case discarded =>
    intro l h hb es rs x ws d c s hc hs hp hpair hup hbad
    obtain ⟨bulk, f, hx⟩ := exec_shroudFrame (s := s) c hc
    refine completes_full hx hp ?_
    rw [shroudRx_discarded hpair hup hbad]
    have hlinks := linksOnly_creditSend l.val (shrCount 6 1 (frameOwed l h s))
    exact ⟨(live_of_eq hlinks.live_eq _).trans (live_count_self (tables_of_eq hs rfl rfl)), hlinks.regs_eq, hlinks.pair_eq⟩
  case unheard =>
    intro l h hb es rs x ws d c s hc _ hoff
    obtain ⟨bulk, f, hx⟩ := exec_shroudFrame (s := s) c hc
    exact exec_full_stays hx (shroudRx_unheard hoff)
  case up =>
    intro l s hs hp hstarted hpair hdown hwaits
    refine completes_full rfl hp ?_
    obtain ⟨u, ws, hchange, hlinks, hout, hup, hcredits⟩ := shroudChange_up hdown hwaits
    rw [if_pos (by rw [hpair, portsUp, hstarted]; simp [hp]), hchange]
    refine ⟨?_, ?_, rdB_raise_self (hlinks.tables hs) (by decide) (by decide), ws, ?_⟩
    · rw [shroud, raise_pair]; exact hup
    · rw [shroud, raise_pair]; exact hcredits
    · rw [← hout]
      exact (raise_keeps _ _ _ (Keeps.refl u)).out
  case down =>
    intro l s hs hp hstarted hpair hup hwaits
    refine completes_full rfl hp ?_
    rw [if_pos (by rw [hpair, portsUp, hstarted]; simp [hp]), shroudChange_down hup hwaits]
    exact ⟨by rw [raise_pair]; rfl, rdB_raise_self (tables_of_eq hs rfl rfl) (by decide) (by decide), by rw [raise_pair]; rfl⟩
  case beatNowhere =>
    intro s hp hpair hat h0 h1
    refine exec_full_eq hp rfl ?_
    rw [heartbeat_due hpair hat, heartbeatOn_down (s := heartbeatMade s) h0, heartbeatOn_down (s := heartbeatMade s) h1]
    rfl
  case beatBoth =>
    intro s hs hp hpair hat h0 h1
    refine completes_full rfl hp ?_
    rw [heartbeat_due hpair hat]
    exact heartbeatOn_both (s := heartbeatMade s) (tables_of_eq hs rfl rfl) h0 h1
  case noBeat =>
    intro s _ h
    refine exec_full_stays rfl (if_pos ?_)
    rcases h with h | h <;> simp [h]
  case noChange =>
    intro l up s _ h
    refine exec_full_stays rfl ?_
    rcases h with h | h | h
    · exact if_neg (by simp [h])
    · exact if_neg (by simp [h])
    · rw [shroudChange_same h, ite_self]

end Sys2Proof.Machine
end

section
/-!
PROOFS of the family other: heartbeats (O49).
-/

namespace Sys2Proof.Machine

open Sys2Proof

/-! A kept heartbeat (R424). -/

/-- What a heartbeat does that is no second copy. -/
def heartbeatTaken (hb : Heartbeat) (v : State) : State :=
  hbTriggers (rd v (SHR_PEER_W 1)) hb.flags (confirmLease hb (dualActive hb
    (peerSeen (wrWords (SHR_PEER_W 0) [hb.seq, hb.flags, hb.epoch, hb.image] v))))

section
variable {l : Fin 2} {h : ShroudHdr} {hb : Heartbeat} {s : State} (hs : TablesWf s) (hpair : isPair s = true)
  (hup : (shroud s l.val).up = true) (hpar : h.parityOk = true) (hcrc : h.crcOk = true) (hpid : h.pairId.toNat = pairId s)
include hs hpair hup hpar hcrc hpid

/-- A new heartbeat acts on a state with the registers and the role of the one before. -/
theorem rx_heartbeat_new (hnew : s.pair.peerSeen = false ∨ atOrAfter32 (rd s (SHR_PEER_W 0)).toNat hb.seq.toNat = false) :
    ∃ v, v.regs = s.regs ∧ TablesWf v ∧ v.pair.role = s.pair.role ∧ LinksOnly (heartbeatTaken hb v) (shroudRx l h false (heartbeatIn hb) s) := by
  obtain ⟨v, L, hregs, hlive, hvpair, -, hlinks⟩ := rx_heartbeat l h hb s hpair hup hpar hcrc hpid
  refine ⟨shrCount 1 1 v, hregs, count_tables (tables_of_eq hs hregs hlive), (congrArg Pair.role hvpair).trans rfl, ?_⟩
  have hseen : (shrCount 1 1 v).pair.peerSeen = s.pair.peerSeen := (congrArg Pair.peerSeen hvpair).trans rfl
  have hlast : rd (shrCount 1 1 v) (SHR_PEER_W 0) = rd s (SHR_PEER_W 0) := rd_of_regs hregs _
  rw [if_neg] at hlinks
  · exact hlinks
  · rw [hseen, hlast]
    rintro ⟨hseen, hold⟩
    rcases hnew with hnew | hnew
    · exact Bool.false_ne_true (hnew.symm.trans hseen)
    · exact Bool.false_ne_true (hnew.symm.trans hold)

/-- The second copy of a heartbeat is counted. -/
theorem rx_heartbeat_copy (hseen : s.pair.peerSeen = true) (hold : atOrAfter32 (rd s (SHR_PEER_W 0)).toNat hb.seq.toNat = true) :
    (shroudRx l h false (heartbeatIn hb) s).regs = s.regs ∧
      liveCnt (shroudRx l h false (heartbeatIn hb) s) (SHR_CNT 2) = (liveCnt s (SHR_CNT 2) + 1) % 2 ^ 64 ∧
      (shroudRx l h false (heartbeatIn hb) s).pair =
        { s.pair with links := (shroudRx l h false (heartbeatIn hb) s).pair.links, hbRxAt := s.ticks } := by
  obtain ⟨v, L, hregs, hlive, hvpair, -, hlinks⟩ := rx_heartbeat l h hb s hpair hup hpar hcrc hpid
  have hseen' : (shrCount 1 1 v).pair.peerSeen = true := ((congrArg Pair.peerSeen hvpair).trans rfl).trans hseen
  have hold' : atOrAfter32 (rd (shrCount 1 1 v) (SHR_PEER_W 0)).toNat hb.seq.toNat = true := by
    rw [show rd (shrCount 1 1 v) (SHR_PEER_W 0) = rd s (SHR_PEER_W 0) from rd_of_regs hregs _, hold]
  rw [if_pos ⟨hseen', hold'⟩] at hlinks
  have hcount : liveCnt (shrCount 1 1 v) (SHR_CNT 2) = (liveCnt v (SHR_CNT 2) + 1) % 2 ^ 64 :=
    live_count_self (tables_of_eq hs hregs hlive)
  have hlinks' := hlinks.pair_eq
  rw [show (shrCount 1 1 v).pair = v.pair from rfl, hvpair] at hlinks'
  refine ⟨hlinks.regs_eq.trans hregs, ?_, hlinks'⟩
  rw [live_of_eq hlinks.live_eq, hcount, live_of_eq hlive]

end

section
variable {hb : Heartbeat} {v : State} (hv : TablesWf v)
include hv

theorem rd_heartbeatTaken {i : Nat} (hi : i < 4) :
    rd (heartbeatTaken hb v) (SHR_PEER_W i) = [hb.seq, hb.flags, hb.epoch, hb.image].getD i 0#32 := by
  have hbase : 0x70000 ≤ SHR_PEER_W i := by unfold SHR_PEER_W; omega
  have hint : SHR_PEER_W i ≠ SHR_INT := by unfold SHR_PEER_W SHR_INT; omega
  have hctl : SHR_PEER_W i ≠ CTL_INT := by unfold SHR_PEER_W CTL_INT; omega
  have hdl : SHR_PEER_W i ≠ SHR_LEASE_DL := by unfold SHR_PEER_W SHR_LEASE_DL; omega
  unfold heartbeatTaken
  rw [rd_of_regs (hbTriggers_regs _ _ _), rd_confirmLease _ _ _ hdl, rd_dualActive _ _ _ hbase hint, rd_peerSeen _ _ hctl hint]
  exact rd_wrWords_word (b := SHR_PEER_W 0) i hv hi

omit hv in
theorem heartbeatTaken_peerSeen : (heartbeatTaken hb v).pair.peerSeen = true := by
  obtain ⟨hseen, -, -⟩ := hbTriggers_pair (rd v (SHR_PEER_W 1)) hb.flags (confirmLease hb (dualActive hb
    (peerSeen (wrWords (SHR_PEER_W 0) [hb.seq, hb.flags, hb.epoch, hb.image] v))))
  exact hseen.trans ((congrArg Pair.peerSeen (confirmLease_pair _ _)).trans ((dualActive_peerSeen _ _).trans (peerSeen_pair _).1))

/-- R421: a claim of ACTIVE with a higher epoch. -/
theorem heartbeatTaken_dual (hrole : v.pair.role = .active) (hclaim : hbRole hb.flags = 1)
    (hepoch : (rd v SHR_LEASE_EPOCH).toNat < hb.epoch.toNat) :
    (heartbeatTaken hb v).pair.role = .standby ∧ (heartbeatTaken hb v).pair.lease = false ∧ rdB (heartbeatTaken hb v) SHR_INT 8 = true := by
  have hepoch' : (rd (peerSeen (wrWords (SHR_PEER_W 0) [hb.seq, hb.flags, hb.epoch, hb.image] v)) SHR_LEASE_EPOCH).toNat < hb.epoch.toNat := by
    rw [rd_peerSeen _ _ (by decide) (by decide), rd_wrWords_out _ _ _ _ (.inl (by decide))]
    exact hepoch
  obtain ⟨-, hrole', -⟩ := peerSeen_pair (wrWords (SHR_PEER_W 0) [hb.seq, hb.flags, hb.epoch, hb.image] v)
  have hw : (wrWords (SHR_PEER_W 0) [hb.seq, hb.flags, hb.epoch, hb.image] v).pair = v.pair := rfl
  have htables : TablesWf (peerSeen (wrWords (SHR_PEER_W 0) [hb.seq, hb.flags, hb.epoch, hb.image] v)) :=
    (peerSeen_keeps _ (Keeps.refl _)).tables (wrWords_tables hv)
  unfold heartbeatTaken
  generalize peerSeen (wrWords (SHR_PEER_W 0) [hb.seq, hb.flags, hb.epoch, hb.image] v) = u at hepoch' hrole' htables
  have hdual : dualActive hb u = raise SHR_INT 8 (pairRecord 4 7 0 [] (setRole .standby (setPair (fun p => { p with lease := false }) u))) :=
    if_pos ⟨hclaim, hepoch', .inl (by rw [hrole', hw, hrole])⟩
  have hpair : (dualActive hb u).pair = { u.pair with lease := false, role := .standby } := by
    rw [hdual, raise_pair, pairRecord_pair, setRole_pair]
    rfl
  have hint : rdB (dualActive hb u) SHR_INT 8 = true := by
    rw [hdual]
    exact rdB_raise_self (logEvent_tables ((setRole_keeps _ _ (Keeps.refl _)).tables (tables_of_eq htables rfl rfl))) (by decide) (by decide)
  obtain ⟨-, hr, hl⟩ := hbTriggers_pair (rd v (SHR_PEER_W 1)) hb.flags (confirmLease hb (dualActive hb u))
  rw [confirmLease_pair, hpair] at hr hl
  refine ⟨hr, hl, ?_⟩
  rw [rdB, rd_of_regs (hbTriggers_regs _ _ _), rd_confirmLease _ _ _ (by decide)]
  exact hint

end

/-! The loss of the peer. -/

/-- The peer is no longer seen, and a REQUEST is called for. -/
def peerUnseen (s : State) : State := { s with pair := { s.pair with
  peerSeen := false, peerOut := true, confirm := false, wants := true, askNext := s.ticks } }

theorem peerGone_due {s : State} (hpair : isPair s = true) (hout : s.pair.peerOut = false) (hlate : s.pair.hbRxAt + lossTicks s ≤ s.ticks) :
    peerGone s = if s.pair.peerSeen then raise SHR_INT 1 (shrCount 2 1 (pairRecord 2 5 0 (peerLostData s) (peerUnseen s))) else peerUnseen s :=
  if_neg (by rw [hpair, hout, decide_eq_false (Nat.not_lt.mpr hlate)]; decide)

/-! Confirmation and triggers. -/

theorem confirmLease_extends (hb : Heartbeat) {s : State} (hs : TablesWf s) :
    confirmLease hb s = s ∨ ∃ tx, tget none s.pair.tx (hb.confirmSeq.toNat % 64) = some tx ∧
      rd (confirmLease hb s) SHR_LEASE_DL = wordOf ((tx + 290000) % 2 ^ 32) ∧
      atOrAfter32 ((tx + 290000) % 2 ^ 32) (rd s SHR_LEASE_DL).toNat = true ∧ s.pair.role = .active ∧ s.nodeOk = true ∧
      leaseLive s = true ∧ hb.epoch = rd s SHR_LEASE_EPOCH := by
  unfold confirmLease
  dsimp only
  split
  · rename_i hconfirms
    obtain ⟨hrole, hok, hlive, -, hepoch, -⟩ := hconfirms
    split
    · exact .inl rfl
    · rename_i tx htx
      split
      · rename_i hlater
        exact .inr ⟨tx, htx, rd_wr_same _ _ _ hs, hlater, hrole, hok, hlive, hepoch⟩
      · exact .inl rfl
  · exact .inl rfl

/-- R437: a STANDBY node that does not ask confirms an ACTIVE peer. -/
theorem hbTriggers_confirms {old new : Word} {s : State} (hrole : s.pair.role = .standby) (hclaim : hbRole new = 1) (hok : hbOk new = true)
    (hasks : asking s = false) : (hbTriggers old new s).pair.confirm = true ∧ (hbTriggers old new s).pair.wants = false := by
  unfold hbTriggers
  rw [if_neg (by rw [hrole]; decide)]
  dsimp only
  rw [if_pos ⟨hclaim, hok⟩]
  split
  all_goals
    split
    · exact ⟨rfl, rfl⟩
    · rename_i hnot
      exact absurd ⟨.inl hrole, Bool.eq_false_iff.mp hasks⟩ hnot

/-- R431: what calls for a REQUEST. -/
theorem hbTriggers_asks {old new : Word} {s : State} (hrole : s.pair.role ≠ .active)
    (htrig : hbOk old = true ∧ hbOk new = false ∨ hbRole new = 2 ∧ hbRole old ≠ 2 ∨ bitAt new 12 = true ∧ bitAt old 12 = false)
    (hclaim : ¬ (hbRole new = 1 ∧ hbOk new = true)) :
    (hbTriggers old new s).pair = { s.pair with wants := true, askNext := s.ticks, confirm := false } := by
  unfold hbTriggers
  rw [if_neg hrole]
  dsimp only
  rw [if_neg hclaim, if_pos]
  · rfl
  · simpa only [Bool.or_eq_true, Bool.and_eq_true, Bool.not_eq_true', decide_eq_true_eq, or_assoc] using htrig

/-- Settles O49: a heartbeat by its number, the loss by its time, the confirmation and the triggers by the role. -/
theorem pairHeartbeats : Obligations.PairHeartbeats := by
  unfold Obligations.PairHeartbeats
  refine ⟨?kept, ?dual, ?copy, ?lost, ?neverSeen, ?notLost, fun _ => rfl, ?confirm, ?confirms, ?asks⟩
  case kept =>
    intro l h hb i s hs hp hpair hup hpar hcrc hpid hnew hi
    obtain ⟨v, -, hv, -, hlinks⟩ := rx_heartbeat_new hs hpair hup hpar hcrc hpid hnew
    refine completes_full rfl hp ⟨?_, ?_⟩
    · rw [hlinks.pair_eq]
      exact heartbeatTaken_peerSeen
    · rw [hlinks.rd, rd_heartbeatTaken hv hi]
  case dual =>
    intro l h hb s hs hp hpair hup hpar hcrc hpid hnew hrole hclaim hepoch
    obtain ⟨v, hregs, hv, hvrole, hlinks⟩ := rx_heartbeat_new hs hpair hup hpar hcrc hpid hnew
    obtain ⟨hr, hl, hint⟩ := heartbeatTaken_dual hv (hvrole.trans hrole) hclaim (by rwa [rd_of_regs hregs])
    refine completes_full rfl hp ⟨?_, ?_, ?_⟩
    · rw [hlinks.pair_eq]
      exact hr
    · rw [hlinks.pair_eq]
      exact hl
    · rw [rdB, hlinks.rd]
      exact hint
  case copy =>
    intro l h hb s hs hp hpair hup hpar hcrc hpid hseen hold
    exact completes_full rfl hp (rx_heartbeat_copy hs hpair hup hpar hcrc hpid hseen hold)
  case lost =>
    intro s hs hp hpair hseen hout hlate
    refine completes_full rfl hp ?_
    rw [peerGone_due hpair hout hlate, if_pos hseen]
    exact ⟨by rw [raise_pair, shrCount, count_pair, pairRecord_pair]; rfl,
      rdB_raise_self (count_tables (logEvent_tables (tables_of_eq hs rfl rfl))) (by decide) (by decide)⟩
  case neverSeen =>
    intro s hp hpair hseen hout hlate
    exact exec_full_eq hp rfl ((peerGone_due hpair hout hlate).trans (if_neg (by rw [hseen]; decide)))
  case notLost =>
    intro s _ h
    refine exec_full_stays rfl (if_pos ?_)
    rcases h with h | h | h <;> simp [h]
  case confirm => exact fun hb s hs => confirmLease_extends hb hs
  case confirms => exact fun old new s hrole hclaim hok hasks => hbTriggers_confirms hrole hclaim hok hasks
  case asks => exact fun old new s hrole htrig hclaim => hbTriggers_asks hrole htrig hclaim

end Sys2Proof.Machine
end

section
/-!
PROOFS of the family other: digests, mirrors and the peer's report (O50), the resynchronisation (O51) and the Clerk service (O52).
-/

namespace Sys2Proof.Machine

open Sys2Proof

/-! Digests (R426, R427). -/

/-- The parts of the pair that a digest concerns, after the links took a kept frame. -/
theorem LinksOnly.digests_eq {s t : State} (h : LinksOnly s t) : t.pair.own = s.pair.own ∧ t.pair.theirs = s.pair.theirs ∧
    t.pair.marks = s.pair.marks := by
  rw [h.pair_eq]
  exact ⟨rfl, rfl, rfl⟩

theorem digOutcome_mark (m : Nat) (s : State) : (digOutcome m s).pair.marks = lastN 256 (s.pair.marks ++ [m]) ∧
    (digOutcome 0 s).pair.matchRun = s.pair.matchRun + 1 ∧ (digOutcome 1 s).pair.matchRun = 0 ∧
    (s.pair.diverged = false → (digOutcome m s).pair.diverged = decide (digLimit s ≤ (lastN 256 (s.pair.marks ++ [m])).count 1)) ∧
    (s.pair.diverged = true → (digOutcome m s).pair.diverged = decide ((digOutcome m s).pair.matchRun < 256)) := by
  refine ⟨?marks, ?run, ?ends, ?becomes, ?stays⟩
  case marks => rw [digOutcome_pair]
  case run => rw [digOutcome_pair]; rfl
  case ends => rw [digOutcome_pair]; rfl
  case becomes =>
    intro h
    rw [digOutcome_pair]
    exact if_neg (by rw [h]; decide)
  case stays =>
    intro h
    rw [digOutcome_pair]
    exact if_pos h

/-- The frame in preparation leaves, or there is none. -/
theorem digSend_links (s : State) : LinksOnly (setPair (fun p => { p with digests := [] }) s) (digSend s) := by
  unfold digSend
  split
  · rename_i h
    have hsame : setPair (fun p => { p with digests := [] }) s = s := by
      unfold setPair
      rw [← h]
    rw [hsame]
    exact .refl s
  · exact linksOnly_bulkSend _ _ _

/-- The report of a second (R428). -/
def healthMade (s : State) : State := setPair (fun p => { p with
  mirrorAge := satAdd p.mirrorAge 1 0xFFFFFFFF, healthAt := s.ticks + 250000000 }) s

theorem healthSend_due {s : State} (hpair : isPair s = true) (hat : s.pair.healthAt ≤ s.ticks) :
    LinksOnly (wrWords (SHR_HEALTH 0) (healthRegs (healthMade s)) (healthMade s)) (healthSend s) := by
  have hdue : healthSend s = bulkSend shHEALTH
      (wordOf (hbFlags (healthMade s)) :: wordOf (tqReported (healthMade s)) :: healthRegs (healthMade s))
      (wrWords (SHR_HEALTH 0) (healthRegs (healthMade s)) (healthMade s)) :=
    if_neg (by rw [hpair, decide_eq_false (Nat.not_lt.mpr hat)]; decide)
  rw [hdue]
  exact linksOnly_bulkSend _ _ _

/-- Settles O50: each frame's content by `shroudRx_kept`, and the marks by `digOutcome_pair`. -/
theorem pairData : Obligations.PairData := by
  unfold Obligations.PairData
  refine ⟨?waits, digOutcome_mark, ?meets, ?uncompared, ?notLate, ?frame, ?noFrame, ?ledger, ?energy, ?health, ?report, ?noReport, ?snapshot⟩
  case waits =>
    intro l h e s hp hpair hup hpar hcrc hpid hnone
    obtain ⟨u, hu, hlinks⟩ := shroudRx_kept l h true (fun t => [e].foldl (fun u e => digestIn e u) t) s hpair hup hpar hcrc hpid
    obtain ⟨hown, htheirs, hmarks⟩ := hu.digests_eq
    obtain ⟨hown', htheirs', hmarks'⟩ := hlinks.digests_eq
    have hin := digestIn_waits e u _ rfl (by rw [hown]; exact hnone)
    refine completes_full rfl hp ⟨?_, ?_, ?_⟩
    · exact hown'.trans ((congrArg Pair.own hin).trans hown)
    · exact hmarks'.trans ((congrArg Pair.marks hin).trans hmarks)
    · exact htheirs'.trans ((congrArg Pair.theirs hin).trans (by rw [htheirs]))
  case meets =>
    intro l h e a s hp hpair hup hpar hcrc hpid ha hnone
    obtain ⟨u, hu, hticks, hlinks⟩ := shroudRx_kept_at l h true (fun t => [e].foldl (fun u e => digestIn e u) t) s hpair hup hpar hcrc hpid
    obtain ⟨hown, htheirs, hmarks⟩ := hu.digests_eq
    obtain ⟨hown', htheirs', hmarks'⟩ := hlinks.digests_eq
    obtain ⟨hin1, hin2, hin3⟩ := digestIn_meets e a u _ rfl (by rw [hown]; exact ha)
      (by rw [htheirs]; exact find_lastN _ _ _ _ (by decide) hnone (decide_eq_true rfl))
    refine completes_full rfl hp ⟨?_, ?_, ?_⟩
    · exact hown'.trans (hin1.trans (by rw [hown]))
    · exact htheirs'.trans (hin2.trans (by rw [htheirs]))
    · exact hmarks'.trans (hin3.trans (by rw [hmarks, hticks]))
  case uncompared =>
    intro inst a s hp ha hinst hlate
    refine completes_full rfl hp ?_
    have hany : s.pair.own.any (fun d => decide (d.1 = inst) && digLate s d) = true :=
      List.any_eq_true.mpr ⟨a, ha, by rw [digLate, decide_eq_true hinst, decide_eq_true hlate]; rfl⟩
    obtain ⟨hown, -, hmarks⟩ := digOutcome_parts 2 (setPair (fun p => { p with own := p.own.filter (fun d => decide (d.1 ≠ inst)) }) s)
    rw [if_pos hany]
    exact ⟨hown, hmarks⟩
  case notLate =>
    intro inst s _ h
    refine exec_full_stays rfl (if_neg ?_)
    rw [Bool.not_eq_true, List.any_eq_false]
    intro a ha hlate
    rw [Bool.and_eq_true, decide_eq_true_eq] at hlate
    exact Nat.not_le.mpr (h a ha hlate.1) (of_decide_eq_true hlate.2)
  case frame =>
    intro s hp hpair hat
    refine completes_full rfl hp ?_
    rw [if_pos ⟨hpair, hat⟩]
    exact ⟨(digSend_links s).pair_eq, (digSend_links s).regs_eq⟩
  case noFrame =>
    intro s _ h
    refine exec_full_stays rfl (if_neg ?_)
    rintro ⟨hpair, hat⟩
    rcases h with h | h
    · exact Bool.false_ne_true (h.symm.trans hpair)
    · exact Nat.not_le.mpr h hat
  case ledger =>
    intro l h rs s hp hpair hup hpar hcrc hpid
    obtain ⟨u, hu, hlinks⟩ := shroudRx_kept l h true
      (fun t => shrCount 11 rs.length (setPair (fun p => { p with mirror := lastN 4096 (p.mirror ++ rs) }) t)) s hpair hup hpar hcrc hpid
    refine completes_full rfl hp (hlinks.pair_eq.trans ?_)
    rw [shrCount, count_pair, setPair_pair, hu.pair_eq]
  case energy =>
    intro l h x s hp hpair hup hpar hcrc hpid
    obtain ⟨u, hu, hlinks⟩ := shroudRx_kept l h true (setPair (fun p => { p with mirrorEnergy := some x, mirrorAge := 0 })) s
      hpair hup hpar hcrc hpid
    refine completes_full rfl hp (hlinks.pair_eq.trans ?_)
    rw [setPair_pair, hu.pair_eq]
  case health =>
    intro l h ws s hp hpair hup hpar hcrc hpid
    obtain ⟨u, hu, hlinks⟩ := shroudRx_kept l h true (setPair (fun p => { p with peerHealth := ws })) s hpair hup hpar hcrc hpid
    refine completes_full rfl hp (hlinks.pair_eq.trans ?_)
    rw [setPair_pair, hu.pair_eq]
  case report =>
    intro i s hs hp hpair hat hi
    have hlinks := healthSend_due hpair hat
    have hpairs := hlinks.pair_eq
    refine completes_full rfl hp ⟨?_, ?_, ?_⟩
    · exact (congrArg Pair.mirrorAge hpairs).trans rfl
    · exact (congrArg Pair.healthAt hpairs).trans rfl
    · rw [hlinks.rd]
      exact rd_wrWords_word (b := SHR_HEALTH 0) i (tables_of_eq hs rfl rfl) hi
  case noReport =>
    intro s _ h
    refine exec_full_stays rfl (if_pos ?_)
    rcases h with h | h <;> simp [h]
  case snapshot =>
    intro who clr s hs hv
    refine completes_served rfl hv ⟨rdB_raise_snapshot (accessed_tables who s hs), ?_⟩
    rw [raise_pair, show (snapshot (SHR_CNT 0) 12 SHR_SNAP_SEQ clr (accessed who s)).pair = (accessed who s).pair from
      (snapshot_within _ _ _ _ _ (Within.refl _) (List.Subset.refl _)).of .pair, accessed_pair]

/-! Resynchronisation (R436). -/

theorem resyncIn_not {d : ResyncData} {s : State} (h : s.pair.role ≠ .resync) : resyncIn d s = s := if_pos h

/-- The state after the bell times of RESYNC_DATA. -/
def bellsTaken (d : ResyncData) (s : State) : State :=
  if fwUp s then d.bells.foldl (fun v b => bellWrite b.1.val b.2.toNat v) s else s

theorem bellsTaken_facts (d : ResyncData) (s : State) : (bellsTaken d s).pair = s.pair ∧ (bellsTaken d s).nest = s.nest ∧
    (bellsTaken d s).ledger.fail = s.ledger.fail := by
  unfold bellsTaken
  split
  · exact ⟨foldl_keep State.pair _ _ _ fun v b => (bellWrite_within _ _ v (Within.refl v) (List.Subset.refl _)).of .pair,
      foldl_keep State.nest _ _ _ fun v b => (bellWrite_within _ _ v (Within.refl v) (List.Subset.refl _)).of .nest,
      foldl_keep (fun v : State => v.ledger.fail) _ _ _ fun v b => bellWrite_fail _ _ v⟩
  · exact ⟨rfl, rfl, rfl⟩

/-- The data of a resynchronising node with its flash writable. -/
theorem resyncIn_takes {d : ResyncData} {b : Baseline} {s : State} (h : s.pair.role = .resync) (hfail : s.ledger.fail = false)
    (hb : d.baseline = some b) : (resyncIn d s).pair = { s.pair with adopt := some d.points } ∧
      (resyncIn d s).nest.baselines = lastN 2 (s.nest.baselines ++ [b]) := by
  obtain ⟨hpair, hnest, hfail'⟩ := bellsTaken_facts d (setPair (fun p => { p with adopt := some d.points }) s)
  unfold resyncIn
  rw [if_neg (not_not.mpr h), hb]
  dsimp only
  rw [← bellsTaken, if_neg (by rw [hfail']; exact Bool.eq_false_iff.mp hfail)]
  exact ⟨hpair, by rw [setNest, hnest]; rfl⟩

/-- Settles O51: what a kept RESYNC frame changes beside the links, and the end by its five conditions. -/
theorem pairResync : Obligations.PairResync := by
  unfold Obligations.PairResync
  refine ⟨?request, ?data, ?unasked, ?done, ?notDone⟩
  case request =>
    intro l h s hp hpair hup hpar hcrc hpid
    obtain ⟨u, hu, hlinks⟩ := shroudRx_kept l h true (fun t => bulkSend shRESYNC_DATA (resyncWords t) t) s hpair hup hpar hcrc hpid
    have hall := (hu.trans (linksOnly_bulkSend _ _ _)).trans hlinks
    exact completes_full rfl hp ⟨hall.pair_eq, hall.regs_eq⟩
  case data =>
    intro l h d b s hp hpair hup hpar hcrc hpid hrole hfail hb
    obtain ⟨u, hu, hledger, hlinks⟩ := shroudRx_kept_ledger l h true (resyncIn d) s hpair hup hpar hcrc hpid
    have hurole : u.pair.role = .resync := ((congrArg Pair.role hu.pair_eq).trans rfl).trans hrole
    obtain ⟨hin, hnest⟩ := resyncIn_takes hurole (by rwa [hledger]) hb
    obtain ⟨-, -, -, -, -, -, hunest, -⟩ := hu
    have hlinks' := hlinks.pair_eq
    rw [hin] at hlinks'
    obtain ⟨-, -, -, -, -, -, htnest, -⟩ := hlinks
    refine completes_full rfl hp ⟨?_, ?_, ?_⟩
    · exact (congrArg Pair.adopt hlinks').trans rfl
    · exact (congrArg Pair.role hlinks').trans hurole
    · exact (congrArg (fun n : Nest => n.baselines) htnest).trans (hnest.trans (by rw [hunest]))
  case unasked =>
    intro l h d s hp hpair hup hpar hcrc hpid hrole
    obtain ⟨u, hu, hlinks⟩ := shroudRx_kept l h true (resyncIn d) s hpair hup hpar hcrc hpid
    have hurole : u.pair.role ≠ .resync := by rw [(congrArg Pair.role hu.pair_eq).trans rfl]; exact hrole
    rw [resyncIn_not hurole] at hlinks
    have hall := hu.trans hlinks
    obtain ⟨-, -, -, -, -, -, hnest, -⟩ := hall
    exact completes_full rfl hp ⟨(hu.trans hlinks).pair_eq, hnest, (hu.trans hlinks).regs_eq⟩
  case done =>
    intro s hs hp hrole hmast hrun hem hfast
    refine completes_full rfl hp ?_
    rw [resyncDone, if_pos ⟨hrole, hmast, hrun, hem, hfast⟩, raise_pair, setRole_pair]
    exact ⟨rfl, rfl, rdB_raise_self ((setRole_keeps _ _ (Keeps.refl _)).tables (tables_of_eq hs rfl rfl)) (by decide) (by decide)⟩
  case notDone =>
    intro s _ h
    refine exec_full_stays rfl (if_neg ?_)
    rintro ⟨hrole, hmast, hrun, hem, hfast⟩
    rcases h with h | h | h | h | h
    · exact h hrole
    · exact h hmast
    · exact Nat.not_le.mpr h hrun
    · exact hem h
    · exact hfast h

/-! The Clerk service (R432). -/

section
variable {m : ClerkMsg} {s : State}

theorem clerkServe_served {f : Nat → State → State} (hmode : rdF s SHR_CFG 0 2 = 2) (hmac : m.macOk = true)
    (hpid : m.pairId.toNat ∈ s.cfg.clerkPairs) : clerkServe m f s = f m.pairId.toNat s :=
  (if_neg (not_not.mpr hmode)).trans ((if_neg (by rw [hmac]; decide)).trans (if_neg (not_not.mpr hpid)))

theorem clerkServe_off {f : Nat → State → State} (hmode : rdF s SHR_CFG 0 2 ≠ 2) : clerkServe m f s = s := if_pos hmode

theorem clerkServe_bad_mac {f : Nat → State → State} (hmode : rdF s SHR_CFG 0 2 = 2) (hmac : m.macOk = false) :
    clerkServe m f s = count (SHR_CNT 20) 1 s :=
  (if_neg (not_not.mpr hmode)).trans (if_pos (by rw [hmac]; rfl))

theorem clerkServe_unknown {f : Nat → State → State} (hmode : rdF s SHR_CFG 0 2 = 2) (hmac : m.macOk = true)
    (hpid : m.pairId.toNat ∉ s.cfg.clerkPairs) : clerkServe m f s = clerkAnswer m 6 reUNKNOWN_PAIR 0 0 s :=
  (if_neg (not_not.mpr hmode)).trans ((if_neg (by rw [hmac]; decide)).trans (if_pos hpid))

/-- The three kinds of message go through `clerkServe`. -/
theorem exec_clerkMessage : ∀ c ∈ [Instr.clerkRxRequest m, .clerkRxRenew m, .clerkRxRelease m],
    ∃ f, exec c s = inFull s (clerkServe m f s) := by
  simp only [List.forall_mem_cons]
  exact ⟨⟨_, rfl⟩, ⟨_, rfl⟩, ⟨_, rfl⟩, List.forall_mem_nil _⟩

end

theorem clerkAnswer_pair (m : ClerkMsg) (typ reason epoch remain : Nat) (s : State) :
    (clerkAnswer m typ reason epoch remain s).pair = s.pair := rfl

theorem clerkAnswer_out (m : ClerkMsg) (typ reason epoch remain : Nat) (s : State) :
    ∃ b, (clerkAnswer m typ reason epoch remain s).out = s.out ++ [.clerk b] := ⟨_, rfl⟩

theorem clerkRun_keeps (n now : Nat) (x : ClerkPair) : (clerkRun n now x).holder = x.holder ∧ (clerkRun n now x).epoch = x.epoch :=
  ⟨rfl, rfl⟩

theorem clerkQuiet_of_before {q : Nat} {s : State} (h : s.pair.quietUntil = some q) (hq : s.ticks / 250 < q) : clerkQuiet s = some q := by
  rw [clerkQuiet, h]
  exact if_pos hq

theorem clerkQuiet_of_after {q : Nat} {s : State} (h : s.pair.quietUntil = some q) (hq : q ≤ s.ticks / 250) : clerkQuiet s = none := by
  rw [clerkQuiet, h]
  exact if_neg (Nat.not_lt.mpr hq)

/-- Settles O52: each message by the quiet period, the holder, the epoch and the waits. -/
theorem clerkService : Obligations.ClerkService := by
  unfold Obligations.ClerkService
  refine ⟨?holder, ?grant, ?keeps, fun _ _ _ => rfl, ?renew, ?renewOther, ?release, ?releaseOther, ?unserved, ?off, ?quietEnds, ?quiet⟩
  case holder =>
    intro m s hp hmode hmac hpid hquiet hholder
    refine completes_full rfl hp ?_
    rw [clerkServe_served hmode hmac hpid, clerkRequestIn, hquiet]
    dsimp only
    rw [if_pos ((clerkRun_keeps _ _ _).1.trans hholder)]
    exact ⟨{ clerkRun m.nodeId.val (clerkNow s) (clerkPair s m.pairId.toNat) with lastRenew := clerkNow s }, hholder, rfl, rfl, rfl⟩
  case grant =>
    intro m s hp hmode hmac hpid hquiet hholder hremain
    rw [← clerkNow] at hremain
    refine completes_full rfl hp ?_
    rw [clerkServe_served hmode hmac hpid, clerkRequestIn, hquiet]
    dsimp only
    rw [if_neg (by rw [(clerkRun_keeps _ _ _).1]; exact hholder), if_pos hremain]
    exact ⟨{ clerkRun m.nodeId.val (clerkNow s) (clerkPair s m.pairId.toNat) with
      holder := some m.nodeId.val, epoch := ((clerkPair s m.pairId.toNat).epoch + 1) % 2 ^ 32, lastRenew := clerkNow s, free := none },
      rfl, rfl, rfl, rfl, rfl⟩
  case keeps =>
    intro m s hp hmode hmac hpid h
    refine completes_full rfl hp ?_
    rw [clerkServe_served hmode hmac hpid, clerkRequestIn]
    dsimp only
    refine ⟨clerkRun m.nodeId.val (clerkNow s) (clerkPair s m.pairId.toNat), rfl, rfl, ?_⟩
    cases hquiet : clerkQuiet s with
    | some q => rfl
    | none =>
      rcases h with ⟨q, h⟩ | ⟨hholder, hremain⟩
      · exact absurd (hquiet.symm.trans h) (by simp)
      · rw [← clerkNow] at hremain
        dsimp only
        rw [if_neg (by rw [(clerkRun_keeps _ _ _).1]; exact hholder), if_neg hremain]
        rfl
  case renew =>
    intro m s hp hmode hmac hpid h
    refine completes_full rfl hp ?_
    rw [clerkServe_served hmode hmac hpid, clerkRenewIn]
    dsimp only
    rw [if_pos (by rcases h with h | ⟨hquiet, h⟩ <;> simp [*])]
    rfl
  case renewOther =>
    intro m s hp hmode hmac hpid hquiet h
    refine completes_full rfl hp ?_
    rw [clerkServe_served hmode hmac hpid, clerkRenewIn]
    rw [if_neg]
    · exact ⟨clerkAnswer_pair _ _ _ _ _ _, clerkAnswer_out _ _ _ _ _ _⟩
    · simp only [Bool.or_eq_true, Bool.and_eq_true, decide_eq_true_eq]
      rintro (⟨hholder, hepoch⟩ | ⟨hq, hadopt⟩)
      · exact h.elim (· hholder) (· hepoch)
      · obtain ⟨hholder, hepoch⟩ := hquiet hq
        exact hadopt.elim hholder (Nat.not_lt.mpr hepoch)
  case release =>
    intro m s hp hmode hmac hpid hholder hepoch
    exact exec_full_eq hp rfl ((clerkServe_served hmode hmac hpid).trans (if_pos ⟨hholder, hepoch⟩))
  case releaseOther =>
    intro m s hp hmode hmac hpid h
    exact exec_full_stays rfl ((clerkServe_served hmode hmac hpid).trans (if_neg (fun hc => h.elim (· hc.1) (· hc.2))))
  case unserved =>
    intro m c s hc hp hmode
    obtain ⟨f, hx⟩ := exec_clerkMessage (s := s) c hc
    refine ⟨fun hmac => exec_full_eq hp hx (clerkServe_bad_mac hmode hmac), fun hmac hpid => completes_full hx hp ?_⟩
    rw [clerkServe_unknown hmode hmac hpid]
    exact ⟨clerkAnswer_pair _ _ _ _ _ _, clerkAnswer_out _ _ _ _ _ _⟩
  case off =>
    intro m c s hc _ hmode
    obtain ⟨f, hx⟩ := exec_clerkMessage (s := s) c hc
    exact exec_full_stays hx (clerkServe_off hmode)
  case quietEnds =>
    intro q s hp h hq
    exact exec_full_eq hp rfl (if_pos (by rw [clerkQuiet_of_after h hq]; rfl))
  case quiet =>
    intro q s _ h hq
    exact ⟨clerkQuiet_of_before h hq, exec_full_stays rfl (if_neg (by rw [clerkQuiet_of_before h hq]; simp))⟩

end Sys2Proof.Machine
end

section
/-!
PROOFS of the family other: the banks (O53) and the activations (O54).
-/

namespace Sys2Proof.Machine

open Sys2Proof

/-! What the boot state decides, an access leaves. -/

theorem bankState_of_boot {s t : State} (h : t.boot = s.boot) (b : Nat) : bankState t b = bankState s b := by
  rw [bankState, bootRec_eq h, bankState]

theorem jobRefusal_of_boot {s t : State} (h : t.boot = s.boot) (b : Nat) : jobRefusal t b = jobRefusal s b := by
  unfold jobRefusal bootBusy
  rw [h, bankState_of_boot h]

theorem bankImage_of_boot {s t : State} (h : t.boot = s.boot) (b : Nat) : bankImage t b = bankImage s b := by
  rw [bankImage, h, bankImage]

theorem bootBusy_of_idle {s : State} (hjob : s.boot.job = none) (hact : s.boot.act = 0) : bootBusy s = false := by
  rw [bootBusy, hjob, hact]
  rfl

theorem jobRefusal_none {b : Nat} {s : State} (hjob : s.boot.job = none) (hact : s.boot.act = 0) (hb : bankState s b ≠ .active) :
    jobRefusal s b = 0 := by
  rw [jobRefusal, bootBusy_of_idle hjob hact, if_neg (by decide), if_neg hb]

theorem jobRefusal_active {b : Nat} {s : State} (hjob : s.boot.job = none) (hact : s.boot.act = 0) (hb : bankState s b = .active) :
    jobRefusal s b = resACTIVE_BANK := by
  rw [jobRefusal, bootBusy_of_idle hjob hact, if_neg (by decide), if_pos hb]

theorem botJob_starts {erase : Bool} {b : Nat} {s : State} (h : jobRefusal s b = 0) : botJob erase b s =
    botBusy (jobStartBank erase b none s) := if_pos h

theorem botJob_of_active {erase : Bool} {b : Nat} {s : State} (h : jobRefusal s b = resACTIVE_BANK) :
    botJob erase b s = botEnd resACTIVE_BANK s := by
  unfold botJob
  dsimp only
  rw [h]
  rfl

/-! Ends of jobs (R438, R442). -/

/-- The end of a job of BOT_CMD. -/
theorem jobEnd_facts {cmd n b : Nat} {erase : Bool} {s : State} (hs : TablesWf s) :
    (jobEnd cmd n ⟨erase, b, none⟩ s).boot = { s.boot with job := none } ∧
      rd (jobEnd cmd n ⟨erase, b, none⟩ s) BOT_CMD_STAT = wordOf (2 * n) ∧ rdB (jobEnd cmd n ⟨erase, b, none⟩ s) BOT_INT 0 = true ∧
      ∀ k, bankState (jobEnd cmd n ⟨erase, b, none⟩ s) k = bankState s k := by
  obtain ⟨hint, hstat, hboot⟩ := botEnd_facts (n := n) (s := { s with boot := { s.boot with job := none } }) (tables_of_eq hs rfl rfl)
  exact ⟨hboot, hstat, hint, fun k => (bankState_of_boot hboot k).trans rfl⟩

theorem rejectBank_boot (b code : Nat) (s : State) : (rejectBank b code s).boot = (setBank b .rejected s).boot := logEvent_boot _ _ _ _ _ _

theorem rejectBank_tables {b code : Nat} {s : State} (hs : TablesWf s) : TablesWf (rejectBank b code s) :=
  logEvent_tables ((setBank_keeps _ _ _ (Keeps.refl s)).tables hs)

/-- The boot state with a verified bank's image and result. -/
def verified (b k : Nat) (img : Option PenegImage) (s : State) : State := { s with boot := { s.boot with
  images := tset none s.boot.images b img, last := tset 0 s.boot.last b k } }

theorem bankVerifyDone_passes {c : BankCheck} {img : Option PenegImage} {b : Nat} {s : State} (hjob : s.boot.job = some ⟨false, b, none⟩)
    (hcode : checkCode s c img = 0) : bankVerifyDone c img s = jobEnd 4 0 ⟨false, b, none⟩ (setBank b .valid (verified b 0 img s)) := by
  unfold bankVerifyDone
  rw [hjob]
  dsimp only
  rw [if_neg (by decide), hcode]
  rfl

theorem bankVerifyDone_fails {c : BankCheck} {img : Option PenegImage} {b : Nat} {s : State} (hjob : s.boot.job = some ⟨false, b, none⟩)
    (hcode : checkCode s c img ≠ 0) : bankVerifyDone c img s =
      jobEnd 4 (checkCode s c img) ⟨false, b, none⟩ (rejectBank b (checkCode s c img) (verified b (checkCode s c img) img s)) := by
  unfold bankVerifyDone
  rw [hjob]
  dsimp only
  rw [if_neg (by decide), if_neg hcode]
  rfl

/-- The boot state with an erased bank. -/
def erased (b : Nat) (s : State) : State := { s with boot := { s.boot with
  images := tset none s.boot.images b none, flash := tset [] s.boot.flash b [] } }

theorem bankEraseDone_ends {b : Nat} {s : State} (hjob : s.boot.job = some ⟨true, b, none⟩) :
    bankEraseDone s = jobEnd 2 0 ⟨true, b, none⟩ (setBank b .empty (erased b s)) := by
  unfold bankEraseDone
  rw [hjob]
  rfl

/-! The checks (Table 18.3). -/

theorem unitOk_of_any {s : State} {p : PenegImage} (h : p.unitId = 0) : unitOk s p = true := by
  rw [unitOk, decide_eq_true h, Bool.true_or]

/-- An image that passes has passed each check. -/
theorem checkCode_passed {c : BankCheck} {p : PenegImage} {s : State} (h : checkCode s c (some p) = 0) :
    c.formatOk = true ∧ c.sigOk = true ∧ c.fwSigOk = true ∧ p.hwType = rdF s HST_VARIANT 0 2 ∧
      (bootRec s).secMin ≤ p.secVer ∧ c.hashOk = true := by
  unfold checkCode at h
  dsimp only at h
  split at h
  · cases h
  rename_i hformat
  split at h
  · cases h
  rename_i hsig
  split at h
  · cases h
  rename_i hfw
  split at h
  · cases h
  rename_i hhw
  split at h
  · cases h
  split at h
  · cases h
  rename_i hsec
  split at h
  · cases h
  rename_i hhash
  simp only [Bool.not_eq_true', Bool.not_eq_false] at hformat hsig hfw hhash
  exact ⟨hformat, hsig, hfw, not_not.mp hhw, Nat.not_lt.mp hsec, hhash⟩

theorem checkCode_codes (c : BankCheck) (p : PenegImage) (s : State) : (c.formatOk = false → checkCode s c (some p) = 10) ∧
    (c.formatOk = true → c.sigOk = false → checkCode s c (some p) = 11) ∧
    (c.formatOk = true → c.sigOk = true → c.fwSigOk = false → checkCode s c (some p) = 12) ∧
    (c.formatOk = true → c.sigOk = true → c.fwSigOk = true → p.hwType = rdF s HST_VARIANT 0 2 → p.unitId = 0 →
      p.secVer < (bootRec s).secMin → checkCode s c (some p) = 15) := by
  unfold checkCode
  refine ⟨?_, ?_, ?_, ?_⟩
  · intro hformat
    simp [hformat]
  · intro hformat hsig
    simp [hformat, hsig]
  · intro hformat hsig hfw
    simp [hformat, hsig, hfw]
  · intro hformat hsig hfw hhw hunit hsec
    simp [hformat, hsig, hfw, hhw, unitOk_of_any hunit, hsec]

/-! The trial and the failure counter (R444, R455). -/

theorem okFor_eq {n t : Nat} {s : State} (h : s.boot.okAt = some t) : okFor s n = (s.nodeOk && decide (t + 250000000 * n ≤ s.ticks)) := by
  rw [okFor, h]

/-- Settles O53: the two jobs from their start to their end, the checks one by one, and the two confirmations. -/
theorem bootBanks : Obligations.BootBanks := by
  unfold Obligations.BootBanks
  refine ⟨?starts, ?refused, ?passes, ?fails, ?checks, ?erases, ?idle, ?trial, ?noTrial, ?clear, ?noClear, fun n t s h => okFor_eq h⟩
  case starts =>
    intro who bank erase c s hs hc hv hjob hact hb
    have hx : exec c s = .next (serve c who BOT_CMD (botJob erase bank.val) s) := by
      simp only [List.mem_cons, Prod.mk.injEq, List.not_mem_nil, or_false] at hc
      rcases hc with ⟨rfl, rfl⟩ | ⟨rfl, rfl⟩ <;> rfl
    refine completes_served hx hv ?_
    rw [botJob_starts ((jobRefusal_of_boot (accessed_boot who s) _).trans (jobRefusal_none hjob hact hb))]
    exact ⟨congrArg (fun x : Boot => { x with job := some ⟨erase, bank.val, none⟩ }) (accessed_boot who s),
      rd_wr_same _ _ _ (tables_of_eq (accessed_tables who s hs) rfl rfl)⟩
  case refused =>
    intro who bank c s hs hc hv hjob hact hb
    obtain ⟨erase, hx⟩ : ∃ erase, exec c s = .next (serve c who BOT_CMD (botJob erase bank.val) s) := by
      simp only [List.mem_cons, List.not_mem_nil, or_false] at hc
      rcases hc with rfl | rfl
      · exact ⟨false, rfl⟩
      · exact ⟨true, rfl⟩
    refine completes_served hx hv ?_
    obtain ⟨hint, hstat, hboot⟩ := botEnd_facts (n := resACTIVE_BANK) (accessed_tables who s hs)
    rw [botJob_of_active ((jobRefusal_of_boot (accessed_boot who s) _).trans (jobRefusal_active hjob hact hb))]
    exact ⟨hboot.trans (accessed_boot who s), hstat, hint⟩
  case passes =>
    intro check img b s hs hp hjob hseq hcode
    refine completes_full rfl hp ?_
    obtain ⟨hboot, hstat, hint, hbank⟩ := jobEnd_facts (cmd := 4) (n := 0) (b := b) (erase := false)
      (s := setBank b .valid (verified b 0 img s)) ((setBank_keeps _ _ _ (Keeps.refl _)).tables (tables_of_eq hs rfl rfl))
    obtain ⟨-, himages, -, -⟩ := setBank_boot b .valid (verified b 0 img s)
    rw [bankVerifyDone_passes hjob hcode]
    exact ⟨(hbank b).trans (bankState_set _ _ _ hseq), by rw [hboot], hstat, hint, by rw [hboot]; exact himages⟩
  case fails =>
    intro check img b s hs hp hjob hseq hcode
    refine completes_full rfl hp ?_
    obtain ⟨hboot, hstat, hint, hbank⟩ := jobEnd_facts (cmd := 4) (n := checkCode s check img) (b := b) (erase := false)
      (s := rejectBank b (checkCode s check img) (verified b (checkCode s check img) img s)) (rejectBank_tables (tables_of_eq hs rfl rfl))
    rw [bankVerifyDone_fails hjob hcode]
    exact ⟨(hbank b).trans ((bankState_of_boot (rejectBank_boot _ _ _) b).trans (bankState_set _ _ _ hseq)), by rw [hboot], hstat, hint⟩
  case checks =>
    intro c p s
    obtain ⟨hformat, hsig, hfw, hsec⟩ := checkCode_codes c p s
    exact ⟨hformat, hsig, hfw, hsec, checkCode_passed⟩
  case erases =>
    intro b s hs hp hjob hseq
    refine completes_full rfl hp ?_
    obtain ⟨hboot, hstat, hint, hbank⟩ := jobEnd_facts (cmd := 2) (n := 0) (b := b) (erase := true) (s := setBank b .empty (erased b s))
      ((setBank_keeps _ _ _ (Keeps.refl _)).tables (tables_of_eq hs rfl rfl))
    obtain ⟨-, himages, hflash, -⟩ := setBank_boot b .empty (erased b s)
    rw [bankEraseDone_ends hjob]
    exact ⟨(hbank b).trans (bankState_set _ _ _ hseq), by rw [hboot], hstat, hint, by rw [hboot]; exact himages,
      by rw [hboot]; exact hflash⟩
  case idle =>
    intro check img c s hc _ hjob
    simp only [List.mem_cons, List.not_mem_nil, or_false] at hc
    rcases hc with rfl | rfl
    · exact exec_full_stays rfl (by rw [bankVerifyDone, hjob])
    · exact exec_full_stays rfl (by rw [bankEraseDone, hjob])
  case trial =>
    intro s hs hp htrial hok hact hseq
    refine completes_full rfl hp ?_
    have hboot : ∀ u : State, ∀ v, bootRec (raise BOT_INT 2 (bootRecord 4 3 v u)) = bootRec u := fun u v =>
      bootRec_eq ((raise_boot _ _ _).trans (logEvent_boot _ _ _ _ _ _))
    rw [trialConfirm, if_pos ⟨htrial, hok, hact⟩]
    dsimp only
    rw [hboot, bootRec_write _ _ hseq]
    exact ⟨rfl, Nat.le_max_left _ _, rdB_raise_self (logEvent_tables (tables_of_eq hs rfl rfl)) (by decide) (by decide)⟩
  case noTrial =>
    intro s _ h
    refine exec_full_stays rfl (if_neg ?_)
    rintro ⟨htrial, hok, hact⟩
    rcases h with h | h | h
    · exact Bool.false_ne_true (h.symm.trans htrial)
    · exact Bool.false_ne_true (h.symm.trans hok)
    · exact h hact
  case clear =>
    intro s hp hok hcnt hseq
    refine completes_full rfl hp ?_
    rw [if_pos ⟨hok, hcnt⟩]
    exact ⟨bootRec_write _ _ hseq, rfl⟩
  case noClear =>
    intro s _ h
    refine exec_full_stays rfl (if_neg ?_)
    rintro ⟨hok, hcnt⟩
    rcases h with h | h
    · exact Bool.false_ne_true (h.symm.trans hok)
    · exact hcnt h

/-! Activations (R451 to R456). -/

theorem activate_refused {full force : Bool} {b : Nat} {c : BankCheck} {s : State} (h : actRefusal s full b force ≠ 0) :
    activate full b force c s = (actRefusal s full b force, s) := if_pos h

theorem activate_starts {full force : Bool} {b : Nat} {c : BankCheck} {s : State} (h : actRefusal s full b force = 0)
    (hcode : checkCode s c (bankImage s b) = 0) : activate full b force c s = (0, actStart (if full then 2 else 1) b s) :=
  (if_neg (not_not.mpr h)).trans (if_neg (not_not.mpr hcode))

theorem actStart_fw_boot (b : Nat) (s : State) : (actStart 1 b s).boot = { s.boot with act := 1, actKind := 1, target := b } :=
  (deckRestart_within causeACTIVATE _ (Within.refl _) (List.Subset.refl _)).of .boot

theorem actStart_full_boot (b : Nat) (s : State) : (actStart 2 b s).boot.act = 2 ∧ (actStart 2 b s).boot.actKind = 2 ∧
    (actStart 2 b s).boot.target = b ∧ (actStart 2 b s).boot.dataPath = false :=
  silence_boot (botBusy { s with boot := { s.boot with act := 2, actKind := 2, target := b } })

/-- An accepted activation by BOT_CMD. -/
theorem botActivate_starts {full force : Bool} {b : Nat} {c : BankCheck} {s : State} (h : actRefusal s full b force = 0)
    (hcode : checkCode s c (bankImage s b) = 0) : botActivate full b force c s = actStart (if full then 2 else 1) b s := by
  unfold botActivate
  rw [activate_starts h hcode]
  rfl

theorem botActivate_refused {full force : Bool} {b : Nat} {c : BankCheck} {s : State} (h : actRefusal s full b force ≠ 0)
    (hbusy : actRefusal s full b force ≠ 1) : botActivate full b force c s = botEnd (actRefusal s full b force) s := by
  unfold botActivate
  rw [activate_refused h]
  exact (if_neg h).trans (if_neg hbusy)

theorem recBank_recSetBank (b c : Nat) (st : BankState) (r : BootRec) :
    recBank (recSetBank b st r) c = if c = 0 ↔ b = 0 then st else recBank r c := by
  unfold recSetBank recBank
  by_cases hb : b = 0 <;> by_cases hc : c = 0 <;> simp [hb, hc]

/-- An activation makes its bank the active one and takes that from the other bank alone. -/
theorem recBank_recActivate (b : Nat) (r : BootRec) : recBank (recActivate b r) b = .active := by
  have hother : (b = 0 ↔ 1 - b = 0) → False := by omega
  have hactivate : recBank (recActivate b r) b = recBank (if recBank r (1 - b) = .active
      then recSetBank (1 - b) .valid (recSetBank b .active r) else recSetBank b .active r) b := rfl
  rw [hactivate]
  split
  · rw [recBank_recSetBank, if_neg hother, recBank_recSetBank, if_pos Iff.rfl]
  · rw [recBank_recSetBank, if_pos Iff.rfl]

/-- The end of an activation leaves the new bank ACTIVE and on trial. -/
theorem actDone_facts {kind : Nat} {s : State} (hseq : (bootRec s).seq + 1 < 2 ^ 32) :
    bootRec (actDone kind s) = { recActivate s.boot.target (bootRec s) with
        prevBank := (bootRec s).activeBank, trial := true, seq := (bootRec s).seq + 1 } ∧
      (actDone kind s).boot.act = 0 ∧ (actDone kind s).boot.trialKind = kind ∧ (actDone kind s).boot.running = s.boot.running ∧
      (actDone kind s).boot.dataPath = s.boot.dataPath := by
  have hboot : (actDone kind s).boot = (writeRec (fun r => { recActivate s.boot.target r with prevBank := (bootRec s).activeBank, trial := true })
      { s with boot := { s.boot with act := 0, trialKind := kind } }).boot := by
    unfold actDone botEnd bootRecord
    rw [raise_boot, wr_boot, raise_boot, logEvent_boot, raise_boot]
  have hrest : (actDone kind s).boot.act = 0 ∧ (actDone kind s).boot.trialKind = kind ∧ (actDone kind s).boot.running = s.boot.running ∧
      (actDone kind s).boot.dataPath = s.boot.dataPath := by
    rw [hboot]
    unfold writeRec
    dsimp only
    split <;> exact ⟨rfl, rfl, rfl, rfl⟩
  exact ⟨(bootRec_eq hboot).trans (bootRec_write _ _ hseq), hrest⟩

/-- Settles O54: an activation by its refusal and its checks, and the resumption by the activation under way. -/
theorem bootActivations : Obligations.BootActivations := by
  unfold Obligations.BootActivations
  refine ⟨?fw, ?full, ?refused, ?refusals, ?resumes, ?reverts, ?idle⟩
  case fw =>
    intro who bank force check s hv h hcode
    refine completes_served rfl hv ?_
    rw [botActivate_starts h (by rwa [bankImage_of_boot (accessed_boot who s)])]
    refine (actStart_fw_boot _ _).trans ?_
    rw [accessed_boot]
  case full =>
    intro who bank force check s hv h hcode
    refine completes_served rfl hv ?_
    rw [botActivate_starts h (by rwa [bankImage_of_boot (accessed_boot who s)])]
    exact actStart_full_boot _ _
  case refused =>
    intro who bank force full check c s hs hc hv h hbusy
    have hx : exec c s = .next (serve c who BOT_CMD (botActivate full bank.val force check) s) := by
      simp only [List.mem_cons, Prod.mk.injEq, List.not_mem_nil, or_false] at hc
      rcases hc with ⟨rfl, rfl⟩ | ⟨rfl, rfl⟩ <;> rfl
    refine completes_served hx hv ?_
    obtain ⟨hint, hstat, hboot⟩ := botEnd_facts (n := actRefusal (accessed who s) full bank.val force) (accessed_tables who s hs)
    rw [botActivate_refused h hbusy]
    exact ⟨hboot.trans (accessed_boot who s), hstat, hint⟩
  case refusals =>
    intro full force b s
    refine ⟨fun h => if_pos h, fun h hb => ?_, fun h hb hp => ?_⟩
    · exact (if_neg (by rw [h]; decide)).trans (if_pos hb)
    · exact (if_neg (by rw [h]; decide)).trans ((if_neg (not_not.mpr hb)).trans (if_pos hp))
  case resumes =>
    intro p s hp hact himg hseq
    refine completes_full rfl hp ?_
    obtain ⟨a, hresumed⟩ := resumeWith_boot p s
    have hrec : bootRec (resumeWith p s) = bootRec s := by unfold bootRec newerB; rw [hresumed]
    obtain ⟨hnew, hdone, hkind, hrunning, hpath⟩ := actDone_facts (kind := 2) (s := resumeWith p s) (by rwa [hrec])
    rw [hrec, hresumed] at hnew
    rw [hresumed] at hrunning hpath
    have hend : (pubAll (updateNodeOk (actDone 2 (resumeWith p s)))).boot =
        { (actDone 2 (resumeWith p s)).boot with okAt := (updateNodeOk (actDone 2 (resumeWith p s))).boot.okAt } :=
      ((pubAll_within _ (Within.refl _) (List.Subset.refl _)).of .boot).trans (updateNodeOk_boot_okAt _)
    have hresume : activationResume true s = pubAll (updateNodeOk (actDone 2 (resumeWith p s))) := by
      unfold activationResume
      rw [himg]
      exact (if_pos hact).trans (if_pos rfl)
    rw [hresume, bankState, bootRec_ok hend, hnew, hend]
    exact ⟨rfl, rfl, rfl, recBank_recActivate _ _, hdone, hkind, hrunning, hpath⟩
  case reverts =>
    intro p s hp hact himg
    refine completes_full rfl hp ?_
    have hreverts : activationResume false s = revertStart 2
        (bootRec (botEnd resBAD_STATE (rejectBank s.boot.target resBAD_HASH s))).activeBank
        (botEnd resBAD_STATE (rejectBank s.boot.target resBAD_HASH s)) := by
      unfold activationResume
      rw [himg]
      exact (if_pos hact).trans (if_neg (by decide))
    obtain ⟨hact', hkind, htarget, -⟩ := revertStart_full
      (bootRec (botEnd resBAD_STATE (rejectBank s.boot.target resBAD_HASH s))).activeBank
      (botEnd resBAD_STATE (rejectBank s.boot.target resBAD_HASH s))
    rw [hreverts]
    exact ⟨hact', hkind, htarget.trans (congrArg BootRec.activeBank (bootRec_eq (raise_boot _ _ _)))⟩
  case idle =>
    intro ok s _ hact
    refine exec_full_stays rfl ?_
    unfold activationResume
    split
    · rfl
    · rw [hact]
      rfl

end Sys2Proof.Machine
end

section
/-!
PROOFS of the family other: the start of a node (O55) and the service protocol's requests (O56).
-/

namespace Sys2Proof.Machine

open Sys2Proof

/-! The start (R443 to R447). -/

/-- A new boot record leaves the rest of the boot state. -/
theorem writeRec_boot (f : BootRec → BootRec) (s : State) : (writeRec f s).boot =
    { s.boot with copyA := (writeRec f s).boot.copyA, copyB := (writeRec f s).boot.copyB } := by
  unfold writeRec
  dsimp only
  split <;> rfl

theorem bootRec_of_copies {s t : State} (ha : t.boot.copyA = s.boot.copyA) (hb : t.boot.copyB = s.boot.copyB) :
    bootRec t = bootRec s := by
  unfold bootRec newerB
  rw [ha, hb]

/-- The state at step 5 of a start: the Ledger and the Till have started. -/
def startedLedger (i : StartInputs) (s : State) : State := tillBoot i (ledgerStart i.ledger i.ledgerOfs s)

theorem bootRec_startedLedger (i : StartInputs) (s : State) : bootRec (startedLedger i s) = bootRec s := bootRec_ok (startLedger_boot i s)

/-- What recovery writes into the record of bank `b`. -/
def recoverRec (b why : Nat) (r : BootRec) : BootRec :=
  { (if recBank r b = .active then recSetBank b .valid r else r) with why := why }

theorem recoverRec_failCnt (b why : Nat) (r : BootRec) : (recoverRec b why r).failCnt = r.failCnt := by
  unfold recoverRec recSetBank
  dsimp only
  split
  · split <;> rfl
  · rfl

/-- Recovery: the mode, the reason in the record, and the count as it stood. -/
theorem enterRecovery_facts {why : Nat} {s : State} (hseq : (bootRec s).seq + 1 < 2 ^ 32) :
    (enterRecovery why s).boot.mode = .recovery ∧ (enterRecovery why s).boot.phase = .running ∧
      (bootRec (enterRecovery why s)).why = why ∧ (bootRec (enterRecovery why s)).failCnt = (bootRec s).failCnt := by
  have hboot : (enterRecovery why s).boot = (writeRec (recoverRec (bootRec s).activeBank why)
      { s with boot := { s.boot with mode := .recovery, phase := .running } }).boot := logEvent_boot _ _ _ _ _ _
  have hrec := (bootRec_eq hboot).trans (bootRec_write _ _ hseq)
  rw [hrec, hboot, writeRec_boot]
  exact ⟨rfl, rfl, rfl, recoverRec_failCnt (bootRec s).activeBank why _⟩

theorem nodeStart_low {i : StartInputs} {s : State} (h : i.recoverLow = true) : nodeStart i s = enterRecovery 1 (startedLedger i s) :=
  if_pos h

theorem nodeStart_failed {i : StartInputs} {s : State} (h : i.recoverLow = false) (hfail : (bootRec s).failCnt = 3) :
    nodeStart i s = enterRecovery 2 (startedLedger i s) :=
  (if_neg (by rw [h]; decide)).trans (if_pos ((congrArg BootRec.failCnt (bootRec_startedLedger i s)).trans hfail))

/-- The state whose bank is chosen: a start without a trial has counted itself. -/
def countedStart (i : StartInputs) (s : State) : State := writeRec (fun x => { x with failCnt := x.failCnt + 1, why := 0 }) (startedLedger i s)

theorem bootRec_countedStart {i : StartInputs} {s : State} (hseq : (bootRec s).seq + 1 < 2 ^ 32) : bootRec (countedStart i s) =
    { bootRec s with failCnt := (bootRec s).failCnt + 1, why := 0, seq := (bootRec s).seq + 1 } := by
  have hrec := bootRec_startedLedger i s
  unfold countedStart
  rw [bootRec_write _ _ (by rw [hrec]; exact hseq), hrec]

theorem bankImage_countedStart (i : StartInputs) (s : State) (b : Nat) : bankImage (countedStart i s) b = bankImage s b := by
  have himages : (countedStart i s).boot.images = (startedLedger i s).boot.images := by
    unfold countedStart
    rw [writeRec_boot]
  unfold bankImage
  rw [himages]
  exact congrArg (fun m => tget none m b) ((congrArg Boot.images (startLedger_boot i s)).trans rfl)

/-- The active bank starts when its image passes its checks. -/
theorem bootBank_passes {i : StartInputs} {s : State}
    (h : checkCode s (bankCheck i (bootRec s).activeBank) (bankImage s (bootRec s).activeBank) = 0)
    (hb : bankState s (bootRec s).activeBank = .active) : bootBank i s = (some (bootRec s).activeBank, s) :=
  (if_pos h).trans (by rw [setBank, if_pos hb])

theorem nodeStart_normal {i : StartInputs} {p : PenegImage} {s : State} (hlow : i.recoverLow = false) (hfail : (bootRec s).failCnt ≠ 3)
    (htrial : (bootRec s).trial = false) {b : Nat} (hbank : bootBank i (countedStart i s) = (some b, countedStart i s))
    (himg : bankImage s b = some p) (htill : (startedLedger i s).till.st ≠ .sealed) :
    nodeStart i s = normalStart i b (countedStart i s) := by
  have hrec := bootRec_startedLedger i s
  have htrialBoot : trialBoot (startedLedger i s) = startedLedger i s := if_neg (by rw [hrec, htrial]; decide)
  unfold nodeStart
  dsimp only
  rw [show tillBoot i (ledgerStart i.ledger i.ledgerOfs s) = startedLedger i s from rfl, hrec, hlow, if_neg (by decide), if_neg hfail,
    htrialBoot, show writeRec _ (startedLedger i s) = countedStart i s from rfl, hbank]
  dsimp only
  rw [bankImage_countedStart, himg]
  exact if_neg htill

/-- The state before the Deck runs (steps 6 to 8), with image `p`. -/
def blocksStarted (i : StartInputs) (p : PenegImage) (s : State) : State :=
  bootLoadCode (deckStart (startBlocks (tillKeys i.fcalOk (loadConfig p { s with boot := { s.boot with mode := .normal, phase := .running } }))))

theorem blocksStarted_boot (i : StartInputs) (p : PenegImage) (s : State) : (blocksStarted i p s).boot =
    { s.boot with mode := .normal, phase := .running, running := some p, configLost := false, dataPath := true } := by
  unfold blocksStarted
  rw [(bootLoadCode_within _ (Within.refl _) (List.Subset.refl _)).of .boot, (deckStart_within _ (Within.refl _) (List.Subset.refl _)).of .boot,
    startBlocks_boot, (tillKeys_within _ _ (Within.refl _) (List.Subset.refl _)).of .boot, loadConfig_boot]

/-- The started node, before its NODE_OK is decided. -/
def nodeStarted (i : StartInputs) (p : PenegImage) (s : State) : State :=
  wrF BOT_TIMES 0 16 i.bootMs.toNat { deckRun i.fwVersion (blocksStarted i p s) with
    boot := { (deckRun i.fwVersion (blocksStarted i p s)).boot with started := true } }

theorem nodeStarted_boot (i : StartInputs) (p : PenegImage) (s : State) : (nodeStarted i p s).boot = { s.boot with
    mode := .normal, phase := .running, running := some p, configLost := false, dataPath := true, started := true } := by
  have hrun := (deckRun_boot i.fwVersion (blocksStarted i p s)).trans (blocksStarted_boot i p s)
  exact (congrArg (fun x : Boot => { x with started := true }) hrun).trans rfl

/-- Steps 6 to 10 leave a started node in normal mode with the image of its bank. -/
theorem normalStart_boot {i : StartInputs} {b : Nat} {p : PenegImage} {s : State} (h : bankImage s b = some p) : ∃ x,
    (normalStart i b s).boot = { (nodeStarted i p s).boot with okAt := x } := by
  have hstart : normalStart i b s = sentryReports (updateNodeOk (nodeStarted i p s)) := by
    unfold normalStart
    rw [h]
    rfl
  rw [hstart, (sentryReports_within _ (Within.refl _) (List.Subset.refl _)).of .boot]
  exact ⟨_, updNode_boot _⟩

/-- Settles O55: the start's cases by its inputs and the record, each with what it leaves in the boot state. -/
theorem bootStart : Obligations.BootStart := by
  unfold Obligations.BootStart
  refine ⟨?refused, ?recovery, ?normal⟩
  case refused =>
    exact fun i s h => congrArg done (if_neg fun hc => h.elim (· hc.1) (· hc.2))
  case recovery =>
    intro i s hphase hp hseq h
    have hseq' : (bootRec (startedLedger i s)).seq + 1 < 2 ^ 32 := by rwa [bootRec_startedLedger]
    refine ⟨nodeStart i s, congrArg done (if_pos ⟨hphase, hp⟩), ?_⟩
    rw [← bootRec_startedLedger i s]
    rcases h with hlow | ⟨hlow, hfail⟩
    · rw [nodeStart_low hlow, if_pos hlow]
      exact enterRecovery_facts hseq'
    · rw [nodeStart_failed hlow hfail, if_neg (by rw [hlow]; decide)]
      exact enterRecovery_facts hseq'
  case normal =>
    intro i p s hphase hp hseq hlow hfail htrial hbank himg hcheck htill
    have hrec := bootRec_countedStart (i := i) hseq
    have hactive : (bootRec (countedStart i s)).activeBank = (bootRec s).activeBank := (congrArg BootRec.activeBank hrec).trans rfl
    have himg' : bankImage (countedStart i s) (bootRec s).activeBank = some p := (bankImage_countedStart i s _).trans himg
    have hchosen : bootBank i (countedStart i s) = (some (bootRec s).activeBank, countedStart i s) := by
      rw [← hactive]
      refine bootBank_passes ?_ ?_
      · rw [hactive, himg']
        exact hcheck (countedStart i s) rfl rfl ((congrArg BootRec.secMin hrec).trans rfl)
      · rw [hactive, bankState, hrec]
        exact hbank
    refine ⟨nodeStart i s, congrArg done (if_pos ⟨hphase, hp⟩), ?_⟩
    rw [nodeStart_normal hlow hfail htrial hchosen himg htill]
    obtain ⟨x, hboot⟩ := normalStart_boot (i := i) himg'
    have hrecEnd : bootRec (normalStart i (bootRec s).activeBank (countedStart i s)) = bootRec (countedStart i s) :=
      bootRec_of_copies (by rw [hboot, nodeStarted_boot]) (by rw [hboot, nodeStarted_boot])
    rw [hrecEnd, hrec, hboot, nodeStarted_boot]
    exact ⟨rfl, rfl, rfl, rfl, rfl, rfl, rfl⟩

/-! The service protocol (R447 to R450, Table 18.6). -/

/-- What a served request's reply leaves, and its bytes. -/
theorem replied_facts (cmd status : Nat) (q : Word) (p : List Nat) (s : State) :
    (logService cmd status (svcReply cmd status q p s)).regs = s.regs ∧
      bootRec (logService cmd status (svcReply cmd status q p s)) = bootRec s ∧
      (logService cmd status (svcReply cmd status q p s)).free = s.free + 1 ∧
      ∃ b, (logService cmd status (svcReply cmd status q p s)).out = s.out ++ [.service b] ∧
        b.take 8 = [84, 76, 66, 83, 1, cmd, status, 0] ∧ b.drop 24 = p := by
  rw [logService_regs, bootRec_logService, logService_free, logService_out]
  exact ⟨rfl, rfl, rfl, _, rfl, rfl, reply_drop _ _ _ _ _ _ _⟩

theorem svcServe_crc {h : SvcHdr} (hcrc : h.crcOk = false) (cmd : Nat) (f : State → Option (Nat × List Nat) × State) (s : State) :
    svcServe h cmd f s = s := if_pos (by rw [hcrc]; rfl)

/-- A request in normal mode while the Deck restarts (R18). -/
theorem svcServe_restarting {h : SvcHdr} {s : State} (hcrc : h.crcOk = true) (hp : s.power.st = .fullSail) (hphase : s.boot.phase = .running)
    (hmode : s.boot.mode = .normal) (hdeck : s.deck.st = .restarting) (cmd : Nat) (f : State → Option (Nat × List Nat) × State) :
    svcServe h cmd f s = svcReply cmd resBUSY h.seq [] s := by
  unfold svcServe
  rw [if_neg (by rw [hcrc, hp, hphase]; decide), if_pos ⟨hmode, by rw [hdeck]; decide⟩, if_pos hdeck]

/-- A request that is answered at once. -/
theorem svcServe_answers {h : SvcHdr} {cmd : Nat} {f : State → Option (Nat × List Nat) × State} {s t : State} {n : Nat} {p : List Nat}
    (hcrc : h.crcOk = true) (hp : s.power.st = .fullSail) (hphase : s.boot.phase = .running)
    (hmode : s.boot.mode ≠ .normal ∨ s.deck.st = .run) (hf : f s = (some (n, p), t)) :
    svcServe h cmd f s = logService cmd n (svcReply cmd n h.seq p t) := by
  rw [svc_served h cmd f s hcrc hp hphase hmode, hf]

/-- A request whose reply comes later. -/
theorem svcServe_defers {h : SvcHdr} {cmd : Nat} {f : State → Option (Nat × List Nat) × State} {s t : State}
    (hcrc : h.crcOk = true) (hp : s.power.st = .fullSail) (hphase : s.boot.phase = .running)
    (hmode : s.boot.mode ≠ .normal ∨ s.deck.st = .run) (hf : f s = (none, t)) : svcServe h cmd f s = t := by
  rw [svc_served h cmd f s hcrc hp hphase hmode, hf]

theorem logService_flash (a b : Nat) (s : State) : (logService a b s).boot.flash = s.boot.flash := by unfold logService; split <;> rfl

theorem logService_activation (a b : Nat) (s : State) : (logService a b s).boot.act = s.boot.act ∧
    (logService a b s).boot.actKind = s.boot.actKind ∧ (logService a b s).boot.target = s.boot.target ∧
    (logService a b s).boot.dataPath = s.boot.dataPath := by
  unfold logService
  split <;> exact ⟨rfl, rfl, rfl, rfl⟩

theorem logService_normal {a b : Nat} {s : State} (h : s.boot.mode = .normal) : logService a b s = s :=
  if_neg fun hr => by rw [h] at hr; exact absurd hr.1 (by decide)

theorem logService_ledger (a b : Nat) (s : State) : (logService a b s).ledger = s.ledger := by unfold logService; split <;> rfl

theorem svcJob_starts {h : SvcHdr} {erase : Bool} {b : Nat} {s : State} (hup : erase = true → uploadAllowed s = true)
    (hjob : jobRefusal s b = 0) : svcJob h erase b s = (none, jobStartBank erase b (some h.seq) s) := by
  refine (if_neg ?_).trans (if_neg (not_not.mpr hjob))
  cases erase with
  | false => exact Bool.false_ne_true
  | true => rw [hup rfl]; decide

/-- The bytes of a WRITE are in the bank's flash. -/
def flashed (b ofs : Nat) (data : List Nat) (s : State) : State :=
  { s with boot := { s.boot with flash := tset [] s.boot.flash b (flashWrite ofs data (tget [] s.boot.flash b)) } }

theorem svcWrite_empty {b ofs : Nat} {data : List Nat} {s : State} (hup : uploadAllowed s = true) (hb : bankState s b = .empty) :
    svcWrite b ofs data s = (some (0, []), setBank b .writing (flashed b ofs data s)) := by
  unfold svcWrite
  rw [hup, hb]
  rfl

/-- An activation by the service port that nothing refuses. -/
theorem svcActivate_starts {cmd : Nat} {c : BankCheck} {s : State} {full : Bool} (hmode : s.boot.mode = .normal) (hup : rdB s BOT_CTRL 0 = true)
    (hkind : fieldN cmd 0 3 = if full then 3 else 2) (h : actRefusal s full (fieldN cmd 3 1) (cmd.testBit 4) = 0)
    (hcode : checkCode s c (bankImage s (fieldN cmd 3 1)) = 0) :
    svcActivate cmd c s = (some (0, []), actStart (if full then 2 else 1) (fieldN cmd 3 1) s) := by
  have hfull : decide (fieldN cmd 0 3 = 3) = full := by rw [hkind]; cases full <;> rfl
  unfold svcActivate
  rw [if_neg, hfull, activate_starts h hcode]
  rw [hkind, hmode, hup]
  cases full <;> decide

theorem svcTill_enters {q : Word} {code : Nat} {args mbox : List Nat} {cert ok : Bool} {s : State} (hallow : svcTillAllows s code = true)
    (hidle : s.till.running = none) (hq : s.till.queue = []) : svcTill q code args mbox cert ok s =
      (none, tillStart { s with till := { s.till with queue :=
        [{ iface := 2, code := code, cert := cert, ok := ok, args := args, mbox := mbox, seq := q }] } }) := by
  unfold svcTill
  rw [hallow, tillBusy_of_free 2 hidle hq, hq]
  rfl

theorem svcReboot_valid {h : SvcHdr} {b : Nat} {s : State} (hmode : s.boot.mode ≠ .normal) (hb : bankState s b = .valid) : svcReboot h b s =
    (none, dieReset (writeRec (fun r => { r with failCnt := 0, activeBank := b }) (logService 7 0 (svcReply 7 0 h.seq [] s)))) :=
  (if_neg hmode).trans (if_neg fun hn => hn.1 hb)

/-- A die reset keeps the boot record and the log. -/
theorem dieReset_facts (s : State) : bootRec (dieReset s) = bootRec s ∧ (dieReset s).boot.phase = .released ∧ (dieReset s).boot.started = false ∧
    (dieReset s).ledger.log = s.ledger.log := by
  unfold dieReset bootRec newerB
  dsimp only
  exact ⟨rfl, rfl, rfl, rfl⟩

/-- Settles O56: each request is answered or deferred as its operation says. -/
theorem serviceRequests : Obligations.ServiceRequests := by
  unfold Obligations.ServiceRequests
  refine ⟨?crc, ?restarting, ?info, ?log, ?jobs, ?writes, ?actFw, ?actFull, ?till, ?reboots, ?staysUp⟩
  case crc =>
    intro h bank ofs data cmd code check args mbox cert ok w c s hc hcrc
    simp only [List.mem_cons, List.not_mem_nil, or_false] at hc
    rcases hc with rfl | rfl | rfl | rfl | rfl | rfl | rfl | rfl <;> exact congrArg done (svcServe_crc hcrc _ _ s)
  case restarting =>
    intro h bank ofs data cmd code check args mbox cert ok w c n s hc hcrc hp hphase hmode hdeck
    simp only [List.mem_cons, Prod.mk.injEq, List.not_mem_nil, or_false] at hc
    rcases hc with ⟨rfl, rfl⟩ | ⟨rfl, rfl⟩ | ⟨rfl, rfl⟩ | ⟨rfl, rfl⟩ | ⟨rfl, rfl⟩ | ⟨rfl, rfl⟩ | ⟨rfl, rfl⟩ | ⟨rfl, rfl⟩ <;>
      exact congrArg done (svcServe_restarting hcrc hp hphase hmode hdeck _ _)
  case info =>
    intro h s hcrc hp hphase hmode
    exact ⟨_, congrArg done (svcServe_answers hcrc hp hphase hmode rfl), replied_facts _ _ _ _ _⟩
  case log =>
    intro h w s hcrc hp hphase hmode
    exact ⟨_, congrArg done (svcServe_answers hcrc hp hphase hmode rfl), replied_facts _ _ _ _ _⟩
  case jobs =>
    intro h bank erase c s hc hcrc hp hphase hmode hup hjob
    simp only [List.mem_cons, Prod.mk.injEq, List.not_mem_nil, or_false] at hc
    rcases hc with ⟨rfl, rfl⟩ | ⟨rfl, rfl⟩ <;>
      exact congrArg done (svcServe_defers hcrc hp hphase hmode (svcJob_starts hup hjob))
  case writes =>
    intro h bank ofs data s hcrc hp hphase hmode hup hb hseq
    refine ⟨_, congrArg done (svcServe_answers hcrc hp hphase hmode (svcWrite_empty hup hb)), ?_, ?_⟩
    · rw [bankState, bootRec_logService]
      exact bankState_set _ _ (flashed bank.val ofs.toNat (data.map BitVec.toNat) s) hseq
    · rw [logService_flash]
      obtain ⟨-, -, hflash, -⟩ := setBank_boot bank.val .writing (flashed bank.val ofs.toNat (data.map BitVec.toNat) s)
      exact hflash
  case actFw =>
    intro h cmd check s hcrc hp hphase hdeck hmode hup hkind hr hcode
    refine ⟨_, congrArg done (svcServe_answers hcrc hp hphase (.inr hdeck) (svcActivate_starts (full := false) hmode hup hkind hr hcode)), ?_⟩
    have hboot := actStart_fw_boot (fieldN cmd.toNat 3 1) s
    have hnormal : (svcReply 5 0 h.seq [] (actStart 1 (fieldN cmd.toNat 3 1) s)).boot.mode = .normal :=
      (congrArg Boot.mode hboot).trans hmode
    exact (congrArg State.boot (logService_normal hnormal)).trans hboot
  case actFull =>
    intro h cmd check s hcrc hp hphase hdeck hmode hup hkind hr hcode
    refine ⟨_, congrArg done (svcServe_answers hcrc hp hphase (.inr hdeck) (svcActivate_starts (full := true) hmode hup hkind hr hcode)), ?_⟩
    obtain ⟨hact, hkind', htarget, hpath⟩ := actStart_full_boot (fieldN cmd.toNat 3 1) s
    obtain ⟨hact', hkind'', htarget', hpath'⟩ :=
      logService_activation 5 0 (svcReply 5 0 h.seq [] (actStart 2 (fieldN cmd.toNat 3 1) s))
    exact ⟨hact'.trans hact, hkind''.trans hkind', htarget'.trans htarget, hpath'.trans hpath⟩
  case till =>
    intro h code args mbox cert ok s hcrc hp hphase hmode hallow hidle hq
    refine ⟨_, congrArg done (svcServe_defers hcrc hp hphase hmode (svcTill_enters hallow hidle hq)), ?_⟩
    obtain ⟨hqueue, hrunning, -⟩ := tillStart_runs (s := { s with till := { s.till with queue := [_] } }) hidle rfl
    exact ⟨hqueue, congrArg (Option.map Prod.fst) hrunning⟩
  case reboots =>
    intro h bank s hcrc hp hphase hmode hb hseq
    refine ⟨_, congrArg done (svcServe_defers hcrc hp hphase (.inl hmode) (svcReboot_valid hmode hb)), ?_⟩
    obtain ⟨-, hrec, -, -⟩ := replied_facts 7 0 h.seq [] s
    obtain ⟨hkept, hphase', hstarted, hlog⟩ := dieReset_facts
      (writeRec (fun r => { r with failCnt := 0, activeBank := bank.val }) (logService 7 0 (svcReply 7 0 h.seq [] s)))
    obtain ⟨hok, hpower⟩ := dieReset_node
      (writeRec (fun r => { r with failCnt := 0, activeBank := bank.val }) (logService 7 0 (svcReply 7 0 h.seq [] s)))
    rw [hkept, bootRec_write _ _ (by rw [hrec]; exact hseq), hpower]
    exact ⟨rfl, rfl, hphase', hstarted, hok, rfl, hlog.trans (congrArg Ledger.log (logService_ledger _ _ _))⟩
  case staysUp =>
    intro h bank s hcrc hp hphase hmode hdeck
    refine ⟨_, congrArg done (svcServe_answers hcrc hp hphase (.inr hdeck) (if_pos hmode)), ?_⟩
    have hnormal : logService 7 resBAD_STATE (svcReply 7 resBAD_STATE h.seq [] s) = svcReply 7 resBAD_STATE h.seq [] s :=
      logService_normal hmode
    rw [hnormal]
    exact ⟨rfl, _, rfl⟩

end Sys2Proof.Machine
end

section
/-!
PROOFS of the family other: the power states (O57), and the sensor and the measurements (O58).
-/

namespace Sys2Proof.Machine

open Sys2Proof

/-! Power-up, failure and resumption (R460, R464, R467, R468). -/

theorem execPowerUp_attempt {f : Option (Fin 8)} {s : State} (hp : s.power.st = .furled) (hlatch : s.sentry.furlLatch = false)
    (htries : s.power.tries = 0) (hin : 21 ≤ s.power.vinHigh) : exec (.powerUp f) s = .next (railAttempt f s) :=
  congrArg done (if_pos ⟨hp, hlatch, htries, hin⟩)

theorem execRailRetry_attempt {f : Option (Fin 8)} {s : State} (hp : s.power.st = .furled) (hlatch : s.sentry.furlLatch = false)
    (hfirst : 0 < s.power.tries) (hlast : s.power.tries < 3) (htick : 32768 ≤ (s.sentry.tick + 2 ^ 48 - s.power.triedAt) % 2 ^ 48) :
    exec (.railRetry f) s = .next (railAttempt f s) :=
  congrArg done (if_pos ⟨hp, hlatch, hfirst, hlast, htick⟩)

/-- A failed attempt counts with its tick. -/
theorem railAttempt_fails {r : Fin 8} {n : Nat} {s : State} (h : s.power.tries = n) (hn : n + 1 ≠ 3) :
    (railAttempt (some r) s).power = { s.power with tries := n + 1, triedAt := s.sentry.tick } ∧ (railAttempt (some r) s).boot = s.boot ∧
      (railAttempt (some r) s).sentry = { s.sentry with onVbat := false, dead := false } := by
  subst h
  unfold railAttempt
  dsimp only
  rw [if_neg hn]
  exact ⟨rfl, rfl, rfl⟩

/-- The third failed attempt keeps the rail that failed. -/
theorem railAttempt_third {r : Fin 8} {s : State} (h : s.power.tries = 2) :
    (railAttempt (some r) s).power = { s.power with tries := 3, triedAt := s.sentry.tick } ∧ (railAttempt (some r) s).boot = s.boot ∧
      (railAttempt (some r) s).sentry.railFault = some r.val := by
  unfold railAttempt
  dsimp only
  rw [h, if_pos rfl]
  exact ⟨rfl, rfl, rfl⟩

/-- The final flush ends with every rail off. -/
theorem holdupEnd_facts (s : State) : (holdupEnd s).power.st = .furled ∧ (holdupEnd s).boot.phase = .held ∧ (holdupEnd s).boot.cold = true ∧
    (holdupEnd s).nodeOk = false := by
  obtain ⟨hst, hphase, hcold, hok, -⟩ := powerOff_facts (finalFlush (logEvent srcPWR 3 5 0#32 [] s))
  exact ⟨hst, hphase, hcold, hok⟩

/-- The state whose input is off. -/
def inputOff (s : State) : State := { s with power := { s.power with vin := 0, vinHigh := 0 } }

theorem powerFail_reefs {s : State} (hp : s.power.st = .fullSail) (hstarted : s.boot.started = true) (hstore : 2400 ≤ rdF s PWR_HU 0 16) :
    powerFail s = if storeThin (reefEnter 1 s) then holdupEnd (reefEnter 1 s) else reefEnter 1 s :=
  (if_neg (not_not.mpr hp)).trans (if_neg fun h => h.elim (fun h => by rw [hstarted] at h; cases h) (fun h => by omega))

theorem powerFail_off {s : State} (hp : s.power.st = .fullSail) (h : s.boot.started = false ∨ rdF s PWR_HU 0 16 < 2400) :
    powerFail s = powerOff s :=
  (if_neg (not_not.mpr hp)).trans (if_pos h)

theorem mayResume_iff (s : State) : mayResume s = true ↔ s.power.st = .reefed ∧
    (s.power.why = 1 ∧ 101 ≤ s.power.vinHigh ∨ s.power.why = 2 ∧ dieTemp s ≤ 8 * (rdF s PWR_CFG 24 8 : Nat)) := by
  unfold mayResume
  simp only [Bool.and_eq_true, Bool.or_eq_true, decide_eq_true_eq]

/-- Settles O57: each command by its guard, and the states that the sequences end in. -/
theorem powerStates : Obligations.PowerStates := by
  unfold Obligations.PowerStates
  refine ⟨?up, ?upFails, ?retry, ?retryFails, ?lastFails, ?refused, ?early, ?latch, ?reefs, ?off, ?thin, ?already, ?holdup, ?holdupLater,
    ?furl, ?noFurl, ?resumes, ?charged, ?staysReefed, ?notCharged⟩
  case up => exact fun s hp hlatch htries hin => ⟨_, execPowerUp_attempt hp hlatch htries hin, rfl, rfl, rfl⟩
  case upFails =>
    intro r s hp hlatch htries hin
    obtain ⟨hpower, hboot, hsentry⟩ := railAttempt_fails (r := r) htries (by decide)
    exact ⟨_, execPowerUp_attempt hp hlatch htries hin, hpower, hboot, hsentry⟩
  case retry =>
    exact fun s hp hlatch hfirst hlast htick => ⟨_, execRailRetry_attempt hp hlatch hfirst hlast htick, rfl, rfl⟩
  case retryFails =>
    intro r s hp hlatch htries htick
    obtain ⟨hpower, hboot, -⟩ := railAttempt_fails (r := r) htries (by decide)
    exact ⟨_, execRailRetry_attempt hp hlatch (by omega) (by omega) htick, hpower, hboot⟩
  case lastFails =>
    intro r s hp hlatch htries htick
    obtain ⟨hpower, hboot, hfault⟩ := railAttempt_third (r := r) htries
    exact ⟨_, execRailRetry_attempt hp hlatch (by omega) (by omega) htick, hpower, hfault, hboot⟩
  case refused =>
    intro f c s hc h
    simp only [List.mem_cons, List.not_mem_nil, or_false] at hc
    rcases hc with rfl | rfl <;> refine congrArg done (if_neg fun hn => ?_)
    · obtain ⟨hp, hlatch, htries, -⟩ := hn
      rw [hp, hlatch, htries] at h
      simp at h
    · obtain ⟨hp, hlatch, -, hlast, -⟩ := hn
      rw [hp, hlatch] at h
      simp only [ne_eq, not_true_eq_false, Bool.false_eq_true, false_or] at h
      omega
  case early =>
    refine fun f s => ⟨fun h => congrArg done (if_neg fun ⟨_, _, _, hin⟩ => ?_), fun h => congrArg done (if_neg fun ⟨_, _, _, _, htick⟩ => ?_)⟩
    · omega
    · omega
  case latch => exact fun s => ⟨fun h => congrArg done (if_pos h), fun h => congrArg done (if_neg (by omega))⟩
  case reefs =>
    intro s hp hstarted hstore hfull
    refine ⟨powerFail (inputOff s), rfl, ?_⟩
    obtain ⟨hpower, hboot, hdeck, hok, htabs⟩ := reefEnter_facts 1 (inputOff s)
    have hend : powerFail (inputOff s) = reefEnter 1 (inputOff s) :=
      (powerFail_reefs (s := inputOff s) hp hstarted hstore).trans (if_neg (ne_of_eq_of_ne hfull Bool.false_ne_true))
    rw [hend]
    exact ⟨hpower.trans rfl, (congrArg Boot.dataPath hboot).trans rfl, hdeck, hok, htabs⟩
  case off =>
    intro s hp h
    exact ⟨powerFail (inputOff s), rfl, (powerFail_off (s := inputOff s) hp h).symm ▸ powerOff_facts (inputOff s)⟩
  case thin =>
    intro s hp hstarted hstore hthin
    refine ⟨powerFail (inputOff s), rfl, ?_⟩
    have hend : powerFail (inputOff s) = holdupEnd (reefEnter 1 (inputOff s)) :=
      (powerFail_reefs (s := inputOff s) hp hstarted hstore).trans (if_pos hthin)
    rw [hend]
    exact holdupEnd_facts _
  case already => exact fun s hp => congrArg done (if_pos hp)
  case holdup => exact fun s hp hstore => ⟨_, congrArg done (if_pos ⟨hp, hstore⟩), holdupEnd_facts s⟩
  case holdupLater =>
    exact fun s h => congrArg done (if_neg fun ⟨hp, hstore⟩ => h.elim (fun hn => hn hp) (fun hn => by omega))
  case furl =>
    intro who s hv hstarted
    refine completes_served rfl hv ?_
    have hfurl : furlNow 0xF0A1#16 (accessed who s) = { powerOff (reefSettle (reefEnter reefCOMMAND (accessed who s))) with
        sentry := { (powerOff (reefSettle (reefEnter reefCOMMAND (accessed who s)))).sentry with furlLatch := true } } := by
      refine if_neg ?_
      rw [accessed_boot, hstarted]
      decide
    obtain ⟨hst, hphase, -, hok, -⟩ := powerOff_facts (reefSettle (reefEnter reefCOMMAND (accessed who s)))
    rw [hfurl]
    exact ⟨hst, rfl, hphase, hok⟩
  case noFurl =>
    intro who key s hv h
    exact exec_served_stays hv rfl (if_pos (by rwa [accessed_boot]))
  case resumes =>
    intro v s hp h
    exact ⟨_, congrArg done (if_pos ((mayResume_iff s).mpr ⟨hp, h⟩)), resume_facts v s⟩
  case charged =>
    intro cf s hs hp
    refine ⟨_, congrArg done (if_pos hp), ?_, ?_⟩
    · rw [rd_holdupChange s _ PWR_HU]
      exact rd_wr_same _ _ _ hs
    · exact (holdupChange_within s _ (Within.refl _) (List.Subset.refl _)).of .power
  case staysReefed =>
    intro v s h
    refine congrArg done (if_neg fun hm => ?_)
    obtain ⟨hp, hwhy⟩ := (mayResume_iff s).mp hm
    rcases h with h | h
    · exact h hp
    · omega
  case notCharged => exact fun cf s hp => congrArg done (if_neg hp)

/-! The sensor and the shed levels (R464, R469). -/

/-- Readings in a row at or above TRIP_C after one more. -/
def hotCount (temp : BitVec 16) (s : State) : Nat := if 8 * (rdF s PWR_CFG 16 8 : Nat) ≤ temp.toInt then min 11 (s.power.hot + 1) else 0

/-- The state that has kept and counted a reading. -/
def readingKept (temp : BitVec 16) (s : State) : State := setPower (fun p => { p with hot := hotCount temp s }) (noteTemp temp s)

theorem rdF_readingKept {temp : BitVec 16} {s : State} (hs : TablesWf s) : rdF (readingKept temp s) PWR_DIE 0 16 = temp.toNat :=
  noteTemp_temp temp s hs

/-- A reading in Full Sail, before and after the node has started. -/
theorem dieReading_full {temp : BitVec 16} {s : State} (hp : s.power.st = .fullSail) : dieReading temp s =
    if s.boot.started = false then (if hotCount temp s = 11 then powerOff (readingKept temp s) else readingKept temp s)
    else if hotCount temp s = 11 then reefEnter reefTHERMAL (readingKept temp s) else shedStep temp.toInt (readingKept temp s) := by
  have hcfg : rdF (noteTemp temp s) PWR_CFG 16 8 = rdF s PWR_CFG 16 8 := by
    unfold rdF noteTemp
    rw [rd_wr_ne _ _ _ _ (by decide)]
    rfl
  have hreefed : ¬ (noteTemp temp s).power.st = .reefed := fun h => by
    have h' : s.power.st = .reefed := h
    rw [hp] at h'
    cases h'
  unfold dieReading
  dsimp only
  rw [if_neg hreefed, hcfg]
  rfl

/-- The state in which a due reading is taken. -/
def readingDue (s : State) : State := { s with power := { s.power with sensorDue := s.ticks + 250000 } }

theorem sensorReading_in {temp : BitVec 16} {s : State} (hp : s.power.st ≠ .furled) (hdue : s.power.sensorDue ≤ s.ticks)
    (hlo : -400 ≤ temp.toInt) (hhi : temp.toInt ≤ 1000) : sensorReading temp s = dieReading temp (readingDue s) :=
  (if_neg fun h => h.elim hp fun hn => by omega).trans (if_neg fun h => by omega)

theorem sensorReading_out {temp : BitVec 16} {s : State} (hp : s.power.st ≠ .furled) (hdue : s.power.sensorDue ≤ s.ticks)
    (hout : temp.toInt < -400 ∨ 1000 < temp.toInt) : sensorReading temp s = tamper 8 (dieReading temp (readingDue s)) :=
  (if_neg fun h => h.elim hp fun hn => by omega).trans (if_pos hout)

theorem sensorReading_stays {temp : BitVec 16} {s : State} (h : s.power.st = .furled ∨ s.ticks < s.power.sensorDue) :
    sensorReading temp s = s := if_pos h

theorem hotCount_low {temp : BitVec 16} {s : State} (h : 8 * (rdF s PWR_CFG 16 8 : Nat) ≤ temp.toInt → s.power.hot < 10) :
    hotCount temp s ≠ 11 := by
  unfold hotCount
  split
  next hhot => have := h hhot; omega
  next => decide

theorem hotCount_trip {temp : BitVec 16} {s : State} (hhot : 8 * (rdF s PWR_CFG 16 8 : Nat) ≤ temp.toInt) (h : s.power.hot = 10) :
    hotCount temp s = 11 := by
  rw [hotCount, if_pos hhot, h]
  decide

theorem ne_furled_of_full {s : State} (h : s.power.st = .fullSail) : s.power.st ≠ .furled := by
  rw [h]
  decide

theorem shedTo_shed (n k : Nat) (on : Bool) (s : State) : (shedTo n k on s).power = { s.power with shed := n } := by
  unfold shedTo
  rw [logEvent_power, raise_power]
  exact (shedEffect_within k on _ (Within.refl _) (List.Subset.refl _)).of .power

theorem rdB_shedTo {n k : Nat} {on : Bool} {s : State} (hs : TablesWf s) : rdB (shedTo n k on s) PWR_INT 2 = true := by
  unfold shedTo
  rw [rdB_logEvent_low]
  exact rdB_raise_self ((shedEffect_keeps k on _ (Keeps.refl _)).tables (tables_of_eq hs rfl rfl)) (by decide) (by decide)

/-- The calm readings counted, which a step of the level starts from. -/
def calmCounted (temp : Int) (s : State) : State := setPower (fun p => { p with calm := calmCount s temp }) s

theorem shedStep_up {temp : Int} {s : State} (h : s.power.shed < 4 ∧ shedEnter s (s.power.shed + 1) ≤ temp) :
    shedStep temp s = shedTo (s.power.shed + 1) (s.power.shed + 1) true (calmCounted temp s) := if_pos h

theorem shedStep_down {temp : Int} {s : State} (h : ¬ (s.power.shed < 4 ∧ shedEnter s (s.power.shed + 1) ≤ temp)) (hpos : 0 < s.power.shed)
    (hcalm : 10001 ≤ tget 0 (calmCount s temp) s.power.shed) :
    shedStep temp s = shedTo (s.power.shed - 1) s.power.shed false (calmCounted temp s) := (if_neg h).trans (if_pos ⟨hpos, hcalm⟩)

/-! The measurements (R461, R466). -/

/-- The state in which the measurements of 1 ms are taken, with the input noted. -/
def inputMeasured (vin : BitVec 16) (s : State) : State :=
  setPower (fun p => { p with measDue := (noteInput vin.toNat s).ticks + 250000 }) (noteInput vin.toNat s)

/-- The first rail and the input measured. -/
def railAndInput (mv ma : Nat) (vin iin : BitVec 16) (pmw : Word) (s : State) : State :=
  wr PWR_PIN pmw (wr PWR_IN (wordOf (vin.toNat + 2 ^ 16 * iin.toNat)) (railMeasure 0 mv ma (inputMeasured vin s)))

theorem railAndInput_power (mv ma : Nat) (vin iin : BitVec 16) (pmw : Word) (s : State) : (railAndInput mv ma vin iin pmw s).power =
    (railMeasure 0 mv ma (inputMeasured vin s)).power := rfl

theorem railAndInput_tables {mv ma : Nat} {vin iin : BitVec 16} {pmw : Word} {s : State} (hs : TablesWf s) :
    TablesWf (railAndInput mv ma vin iin pmw s) :=
  wr_tables (wr_tables ((railMeasure_keeps 0 mv ma _ (Keeps.refl _)).tables (tables_of_eq hs rfl rfl)))

/-- The store's voltage with what follows from it. -/
def storeMeasured (vstore : BitVec 16) (s : State) : State := holdupChange s (wrF PWR_HU 0 16 vstore.toNat s)

theorem storeMeasured_power (vstore : BitVec 16) (s : State) : (storeMeasured vstore s).power = s.power :=
  (holdupChange_within s _ (Within.refl _) (List.Subset.refl _)).of .power

theorem voltTamper_of_power {s t : State} (hst : t.power.st = s.power.st) (h4 : rail t 4 = rail s 4) (h5 : rail t 5 = rail s 5) :
    voltTamper t = voltTamper s := by
  unfold voltTamper railOn
  simp only [List.any_cons, List.any_nil]
  rw [hst, h4, h5]

/-- One rail measured, no core rail out of its limits. -/
theorem powerMeasure_one {mv ma : Nat} {vin iin vstore : BitVec 16} {pmw : Word} {s : State} (hp : s.power.st ≠ .furled)
    (hdue : s.power.measDue ≤ s.ticks) (hvolt : voltTamper s = false) :
    powerMeasure [(mv, ma)] vin iin pmw vstore s = storeMeasured vstore (railAndInput mv ma vin iin pmw s) ∧
      (rail (storeMeasured vstore (railAndInput mv ma vin iin pmw s)) 0).mv = mv ∧
      (rail (storeMeasured vstore (railAndInput mv ma vin iin pmw s)) 0).ma = ma := by
  obtain ⟨y, hrail, hmv, hma⟩ := railMeasure_power 0 mv ma (inputMeasured vin s)
  have hpower : (storeMeasured vstore (railAndInput mv ma vin iin pmw s)).power =
      { (inputMeasured vin s).power with rails := tset {} (inputMeasured vin s).power.rails 0 y } :=
    (storeMeasured_power _ _).trans ((railAndInput_power mv ma vin iin pmw s).trans hrail)
  have hrails : (storeMeasured vstore (railAndInput mv ma vin iin pmw s)).power.rails = tset {} s.power.rails 0 y :=
    (congrArg Power.rails hpower).trans rfl
  have hother : ∀ k, k ≠ 0 → rail (storeMeasured vstore (railAndInput mv ma vin iin pmw s)) k = rail s k := fun k hk => by
    unfold rail
    rw [hrails]
    exact tget_tset_ne _ _ _ _ _ hk
  have hquiet : voltTamper (storeMeasured vstore (railAndInput mv ma vin iin pmw s)) = false :=
    (voltTamper_of_power ((congrArg Power.st hpower).trans rfl) (hother 4 (by decide)) (hother 5 (by decide))).trans hvolt
  refine ⟨(if_neg hp).trans ((if_neg (by omega)).trans (if_neg (ne_of_eq_of_ne hquiet Bool.false_ne_true))), ?_, ?_⟩
  · unfold rail
    rw [hrails]
    exact hmv
  · unfold rail
    rw [hrails]
    exact hma

theorem powerMeasure_furled {rails : List (Nat × Nat)} {vin iin vstore : BitVec 16} {pmw : Word} {s : State} (hp : s.power.st = .furled) :
    powerMeasure rails vin iin pmw vstore s = noteInput vin.toNat s := if_pos hp

theorem powerMeasure_early {rails : List (Nat × Nat)} {vin iin vstore : BitVec 16} {pmw : Word} {s : State} (hp : s.power.st ≠ .furled)
    (h : s.ticks < s.power.measDue) : powerMeasure rails vin iin pmw vstore s = s := (if_neg hp).trans (if_pos h)

/-- The three words of a rail's entry. -/
theorem railLoad_facts {k : Fin 8} {s : State} (hs : TablesWf s) :
    rd (railLoad k.val s) PWR_RAIL_V = wordOf ((rail s k.val).mv + 2 ^ 16 * (rail s k.val).least.getD 0) ∧
      rd (railLoad k.val s) PWR_RAIL_I = wordOf (rail s k.val).ma ∧ rdF (railLoad k.val s) PWR_RAIL_IDX 0 3 = k.val := by
  have hidx : TablesWf (wrF PWR_RAIL_IDX 0 3 k.val s) := wr_tables hs
  unfold railLoad
  dsimp only
  refine ⟨?_, ?_, ?_⟩
  · rw [rd_wr_ne _ _ _ _ (by decide)]
    exact rd_wr_same _ _ _ hidx
  · exact rd_wr_same _ _ _ (wr_tables hidx)
  · unfold rdF
    rw [rd_wr_ne _ _ _ _ (by decide), rd_wr_ne _ _ _ _ (by decide)]
    exact rdF_wrF_self hs (by decide) k.isLt

/-- Settles O58: the sensor's readings by their count, the shed steps, and the measurements. -/
theorem powerMeasurements : Obligations.PowerMeasurements := by
  unfold Obligations.PowerMeasurements
  refine ⟨?kept, ?off, ?reefs, ?sheds, ?tampers, ?up, ?down, ?quiet, ?furled, ?early, ?measures, ?loads⟩
  case kept =>
    intro temp s hs hp hstarted hdue hlo hhi hcount
    have hend : sensorReading temp s = readingKept temp (readingDue s) := by
      rw [sensorReading_in (ne_furled_of_full hp) hdue hlo hhi, dieReading_full (s := readingDue s) hp]
      exact (if_pos hstarted).trans (if_neg (hotCount_low (s := readingDue s) hcount))
    refine ⟨_, congrArg done hend, ?_, rfl⟩
    exact rdF_readingKept (tables_of_eq hs rfl rfl)
  case off =>
    intro temp s hp hstarted hdue hhi hlo hhot hcount
    have hend : sensorReading temp s = powerOff (readingKept temp (readingDue s)) := by
      rw [sensorReading_in (ne_furled_of_full hp) hdue hlo hhi, dieReading_full (s := readingDue s) hp]
      exact (if_pos hstarted).trans (if_pos (hotCount_trip (s := readingDue s) hcount hhot))
    obtain ⟨hst, hphase, -, hok, -⟩ := powerOff_facts (readingKept temp (readingDue s))
    exact ⟨_, congrArg done hend, hst, hphase, hok⟩
  case reefs =>
    intro temp s hp hstarted hdue hhi hlo hhot hcount
    have hend : sensorReading temp s = reefEnter reefTHERMAL (readingKept temp (readingDue s)) := by
      rw [sensorReading_in (ne_furled_of_full hp) hdue hlo hhi, dieReading_full (s := readingDue s) hp]
      exact (if_neg (ne_of_eq_of_ne hstarted (by decide))).trans (if_pos (hotCount_trip (s := readingDue s) hcount hhot))
    obtain ⟨hpower, hboot, -, hok, -⟩ := reefEnter_facts reefTHERMAL (readingKept temp (readingDue s))
    exact ⟨_, congrArg done hend, (congrArg Power.st hpower).trans rfl, (congrArg Power.why hpower).trans rfl,
      (congrArg Boot.dataPath hboot).trans rfl, hok⟩
  case sheds =>
    intro temp s hp hstarted hdue hhi hlo hcount
    have hend : sensorReading temp s = shedStep temp.toInt (readingKept temp (readingDue s)) := by
      rw [sensorReading_in (ne_furled_of_full hp) hdue hlo hhi, dieReading_full (s := readingDue s) hp]
      exact (if_neg (ne_of_eq_of_ne hstarted (by decide))).trans (if_neg (hotCount_low (s := readingDue s) hcount))
    exact ⟨_, congrArg done hend, _, rfl, rfl⟩
  case tampers => exact fun temp s hp hdue hout => congrArg done (sensorReading_out hp hdue hout)
  case up =>
    intro temp s hs hlevel htemp
    rw [shedStep_up ⟨hlevel, htemp⟩, shedTo_shed]
    exact ⟨rfl, rdB_shedTo (tables_of_eq hs rfl rfl)⟩
  case down =>
    intro temp s hnot hpos hcalm
    rw [shedStep_down hnot hpos hcalm, shedTo_shed]
  case quiet => exact fun temp s h => congrArg done (sensorReading_stays h)
  case furled => exact fun rails vin iin vstore pmw s hp => congrArg done (powerMeasure_furled hp)
  case early => exact fun rails vin iin vstore pmw s hp h => congrArg done (powerMeasure_early hp h)
  case measures =>
    intro mv ma vin iin vstore pmw s hs hp hdue hvolt
    obtain ⟨hend, hmv, hma⟩ := powerMeasure_one (mv := mv) (ma := ma) (vin := vin) (iin := iin) (vstore := vstore) (pmw := pmw) hp hdue hvolt
    have htables := railAndInput_tables (mv := mv) (ma := ma) (vin := vin) (iin := iin) (pmw := pmw) hs
    refine ⟨_, congrArg done hend, ?_, ?_, ?_, hmv, hma⟩
    · unfold storeMeasured
      rw [rd_holdupChange _ _ PWR_IN]
      unfold wrF
      rw [rd_wr_ne _ _ _ _ (by decide)]
      unfold railAndInput
      rw [rd_wr_ne _ _ _ _ (by decide)]
      exact rd_wr_same _ _ _ ((railMeasure_keeps 0 mv ma _ (Keeps.refl _)).tables (tables_of_eq hs rfl rfl))
    · unfold storeMeasured
      rw [rd_holdupChange _ _ PWR_PIN]
      unfold wrF
      rw [rd_wr_ne _ _ _ _ (by decide)]
      exact rd_wr_same _ _ _ (wr_tables ((railMeasure_keeps 0 mv ma _ (Keeps.refl _)).tables (tables_of_eq hs rfl rfl)))
    · unfold storeMeasured rdF
      rw [rd_holdupChange _ _ PWR_HU]
      exact rdF_wrF_self htables (by decide) vstore.isLt
  case loads =>
    intro who k s hs hv
    refine completes_served rfl hv ?_
    have hrail : rail (accessed who s) k.val = rail s k.val := by unfold rail; rw [accessed_power]
    rw [← hrail]
    exact railLoad_facts (accessed_tables who s hs)

end Sys2Proof.Machine
end

section
/-!
PROOFS of the family other: the host interface (O59).
-/

namespace Sys2Proof.Machine

open Sys2Proof

/-! Interrupts (R480). -/

theorem vectorTrue_accessed (who : Req) (s : State) (v : Nat) : vectorTrue (accessed who s) v = vectorTrue s v := by
  cases who <;> rfl

theorem sendVector_sends {v : Nat} {s : State} (hd3 : s.host.d3hot = false) (hfunc : s.host.funcMask = false)
    (hmask : rdB s (MSIX_CTRL v) 0 = false) : sendVector v s = emit (.msix v (rd64 s (MSIX_ADDR v)) (rd s (MSIX_DATA v))) s :=
  if_neg (by rw [hd3, hfunc, hmask]; decide)

theorem sendVector_pends {v : Nat} {s : State} (h : s.host.funcMask = true ∨ rdB s (MSIX_CTRL v) 0 = true) : sendVector v s =
    { s with host := { s.host with pba := withBit s.host.pba v } } :=
  if_pos (by rcases h with h | h <;> simp [h])

theorem eoi_true {v : Nat} {s : State} (h : vectorTrue s v = true) : eoi v s = sendVector v s := if_pos h

theorem eoi_false {v : Nat} {s : State} (h : vectorTrue s v = false) : eoi v s = s := if_neg (by rw [h]; decide)

/-- A write of a table word. -/
theorem rd_msixWrite_self {v w : Nat} {x : Word} {s : State} (hs : TablesWf s) :
    rd (msixWrite v w x s) (MSIX_ADDR v + 4 * w) = if w = 3 then x &&& 1#32 else x :=
  (rd_of_regs ((unmasked_within v _ (Within.refl _) (List.Subset.refl _)).of .regs) _).trans (rd_wr_same _ _ _ hs)

theorem rd_msixWrite_ne {v w b : Nat} {x : Word} {s : State} (hb : b ≠ MSIX_ADDR v + 4 * w) : rd (msixWrite v w x s) b = rd s b :=
  (rd_of_regs ((unmasked_within v _ (Within.refl _) (List.Subset.refl _)).of .regs) _).trans (rd_wr_ne _ _ _ _ hb)

/-! Reads (R46, R476). -/

/-- What a served 32-bit read at `ofs` does, with the shadow that `s` keeps. -/
def lowRead (ofs : BitVec 20) (s t : State) : State :=
  if responds t (ofs.toNat / 4 * 4) then lowWordRead s.host.shadow (ofs.toNat / 4 * 4) t else answer .host 0#64 t

theorem lowWordRead_lower {p : Option (Nat × Word)} {a : Nat} {s : State} (hown : ownRead a = false) (ha : a % 8 = 0) : lowWordRead p a s =
    answer .host ((readReg s a).setWidth 64) (setHost (fun h => { h with shadow := some (a, readReg s (a + 4)) }) s) :=
  (if_neg (by rw [hown]; decide)).trans (if_pos ha)

theorem lowWordRead_upper {w : Word} {a : Nat} {s : State} (hown : ownRead a = false) (ha : a % 8 = 4) :
    lowWordRead (some (a - 4, w)) a s = answer .host (w.setWidth 64) s := by
  have hnext : a - 4 + 4 = a := by omega
  refine (if_neg (by rw [hown]; decide)).trans ((if_neg (by omega)).trans ?_)
  exact congrArg (fun v : Word => answer .host (v.setWidth 64) s) (if_pos hnext)

/-! Held writes and refused accesses (R473, R474). -/

theorem heldDrop_expired {c : Instr} {r : List Instr} {a : Nat} {s : State} (hheld : s.host.held = c :: r) (hofs : heldOfs c = some a)
    (h : s.host.heldAt + 2500000 ≤ s.ticks) : heldDrop s = heldDiscard a r s := by
  have hexp : heldExpired s = true := decide_eq_true h
  unfold heldDrop
  rw [hheld]
  dsimp only
  rw [hofs]
  exact if_pos hexp

theorem heldDrop_waits {s : State} (h : s.host.held = [] ∨ s.ticks < s.host.heldAt + 2500000) : heldDrop s = s := by
  unfold heldDrop
  split
  next => rfl
  next c r hheld =>
    have hexp : heldExpired s = false := decide_eq_false (by
      rcases h with h | h
      · rw [h] at hheld; cases hheld
      · omega)
    split
    next => rfl
    next => rw [hexp]; rfl

/-- The oldest held write, at `a`, is dropped and reported, and the accesses `r` behind it stay. -/
structure WriteDropped (a : Nat) (r : List Instr) (t : State) : Prop where
  held : t.host.held = r
  int : rdB t HST_INT 1 = true
  ofs : rd t HST_ERR_OFS = wordOf (a + 2 ^ 20)

theorem heldDiscard_drops {a : Nat} {r : List Instr} {s : State} (hs : TablesWf s) : WriteDropped a r (heldDiscard a r s) := by
  have hset : TablesWf (setHost (fun h => { h with held := r, heldAt := s.ticks }) s) := tables_of_eq hs rfl rfl
  unfold heldDiscard
  refine ⟨?_, ?_, ?_⟩
  · rw [logEvent_held, raise_held]
    rfl
  · rw [rdB_logEvent_low]
    exact rdB_raise_self (wr_tables hset) (by decide) (by decide)
  · rw [rd_logEvent_low, rd_raise_ne _ _ _ _ (by decide) (by decide)]
    exact rd_wr_same _ _ _ hset

/-- What a request that the host interface serves does. -/
def requestServed (ofs : BitVec 20) (len : Nat) (write : Bool) (s : State) : State :=
  if acceptable ofs.toNat len write then s else refuseAccess ofs.toNat write s

theorem refuseAccess_facts {a : Nat} {write : Bool} {s : State} (hs : TablesWf s) : rdB (refuseAccess a write s) HST_INT 0 = true ∧
    rd (refuseAccess a write s) HST_ERR_OFS = wordOf (a + 2 ^ 20 * b2n write) ∧
    (write = false → .unsupported a ∈ (refuseAccess a write s).out) := by
  have hint := rdB_raise_self (a := HST_INT) (k := 0) (wr_tables (a := HST_ERR_OFS) (v := wordOf (a + 2 ^ 20 * b2n write)) hs) (by decide) (by decide)
  have hofs : rd (raise HST_INT 0 (wr HST_ERR_OFS (wordOf (a + 2 ^ 20 * b2n write)) s)) HST_ERR_OFS = wordOf (a + 2 ^ 20 * b2n write) :=
    (rd_raise_ne _ _ _ _ (by decide) (by decide)).trans (rd_wr_same _ _ _ hs)
  cases write with
  | true => exact ⟨hint, hofs, fun h => by cases h⟩
  | false => exact ⟨hint, hofs, fun _ => List.mem_append_right _ (List.mem_singleton.mpr rfl)⟩

/-- Settles O59: resets, interrupts, reads, held writes and refused accesses, each by its operation. -/
theorem hostInterface : Obligations.HostInterface := by
  unfold Obligations.HostInterface
  refine ⟨?resets, ?d3hot, ?sends, ?pends, ?quiet, ?table, ?lower, ?upper, ?clears, ?drops, ?waits, ?refuses, ?counts⟩
  case resets => exact fun kind s hs hp => completes_full rfl hp (hostLinkReset_facts kind s hs)
  case d3hot => exact fun s hp => exec_full_eq hp rfl rfl
  case sends =>
    intro v s hv htrue hfunc hmask
    obtain ⟨hr, hhost⟩ := hv
    refine completes_served (who := .host) (ofs := HST_EOI) rfl ⟨hr, hhost⟩ ?_
    rw [eoi_true (by rw [vectorTrue_accessed]; exact htrue), sendVector_sends (s := accessed .host s) (hhost rfl).1 hfunc hmask]
    exact ⟨rfl, rfl⟩
  case pends =>
    intro v s hv htrue hmask
    refine completes_served (who := .host) (ofs := HST_EOI) rfl hv ?_
    rw [eoi_true (by rw [vectorTrue_accessed]; exact htrue), sendVector_pends (s := accessed .host s) hmask]
    exact ⟨rfl, rfl, rfl⟩
  case quiet =>
    intro v s hv htrue
    exact exec_served_stays (who := .host) (ofs := HST_EOI) hv rfl (eoi_false (by rw [vectorTrue_accessed]; exact htrue))
  case table =>
    intro v w x s hs hv
    refine completes_served (who := .host) rfl hv ⟨rd_msixWrite_self (accessed_tables .host s hs), fun b hb => ?_⟩
    exact (rd_msixWrite_ne hb).trans (rd_accessed .host s b)
  case lower =>
    intro ofs s hv hr hown ha
    refine exec_served_eq (who := .host) (ofs := HST_ID) (f := lowRead ofs s) hv rfl ?_
    exact (if_pos hr).trans (lowWordRead_lower hown ha)
  case upper =>
    intro ofs w s hv hr hown ha hshadow
    refine exec_served_eq (who := .host) (ofs := HST_ID) (f := lowRead ofs s) hv rfl ?_
    refine (if_pos hr).trans ?_
    rw [hshadow]
    exact lowWordRead_upper hown ha
  case clears =>
    intro who ch s hs hv
    refine completes_served rfl hv ⟨?_, ?_⟩
    · exact rdF_wrF_zero (accessed_tables who s hs) (by cases ch <;> simp)
    · exact congrArg (· ++ _) (accessed_out who s)
  case drops =>
    intro c r a s hs hp hheld hofs h
    refine completes_full rfl hp ?_
    rw [heldDrop_expired hheld hofs h]
    obtain ⟨hrest, hint, herr⟩ := heldDiscard_drops (a := a) (r := r) hs
    exact ⟨hrest, hint, herr⟩
  case waits => exact fun s _ h => exec_full_stays rfl (heldDrop_waits h)
  case refuses =>
    intro ofs len write s hs hv h
    refine completes_served (who := .host) (ofs := HST_ID) (f := requestServed ofs len write) rfl hv ?_
    rw [requestServed, if_neg (by rw [h]; decide)]
    exact refuseAccess_facts (accessed_tables .host s hs)
  case counts =>
    intro ofs len write s hv h
    exact exec_served_stays (who := .host) (ofs := HST_ID) (f := requestServed ofs len write) hv rfl (if_pos h)

end Sys2Proof.Machine
end

section
/-!
PROOFS of the family other: the windows of the host interface (O60).
-/

namespace Sys2Proof.Machine

open Sys2Proof

/-! Window reads (R483, R484, Table 20.6). -/

theorem ended_of_busy {w : Win} {s : State} (h : winBusy s w = true) : (window s (winIdx w)).ended = false := by
  unfold winBusy at h
  rwa [Bool.not_eq_true'] at h

theorem winBusy_accessed (who : Req) (s : State) (w : Win) : winBusy (accessed who s) w = winBusy s w := by
  unfold winBusy
  rw [window_accessed]

theorem window_afterRead (w : Win) (busy : Bool) (s : State) (k : Nat) : window (afterRead w busy s) k = window s k := by
  unfold window
  rw [afterRead_win]

/-- Only the capture's and the Ledger's windows have an effect at a record's end. -/
theorem afterRead_other {w : Win} {busy : Bool} {s : State} (hc : w ≠ .capture) (hl : w ≠ .ledger) : afterRead w busy s = s := by
  cases w with
  | capture => exact absurd rfl hc
  | ledger => exact absurd rfl hl
  | tableau | ribbon | modeShape | island | deckSampling _ | mirror | attestation => rfl

theorem windowRead_word (w : Win) (ps : List Bool) (s : State) : windowRead w .word ps s =
    afterRead w (winBusy s w) (answer .host (winPop w (ps.headD false) s).1 (winPop w (ps.headD false) s).2) := rfl

theorem winPop_empty {w : Win} {poison : Bool} {s : State} (h : (window s (winIdx w)).words = []) :
    winPop w poison s = (0#64, winUnder (window s (winIdx w)) s) := by
  unfold winPop
  dsimp only
  rw [h]

/-- The window after a read of its next word. -/
theorem windowRead_pops {w : Win} {v : BitVec 64} {r : List (BitVec 64)} {s : State} (h : (window s (winIdx w)).words = v :: r) :
    windowRead w .word [] s =
      afterRead w (winBusy s w) (answer .host v (setWindow (winIdx w) (popped w (window s (winIdx w)) r) s)) := by
  rw [windowRead_word]
  have hpop : winPop w (([] : List Bool).headD false) s = _ := winPop_cons w v r s h
  rw [hpop]

theorem window_popped {w : Win} {v : BitVec 64} {r : List (BitVec 64)} {busy : Bool} {s : State} (h : winBusy s w = true) :
    window (afterRead w busy (answer .host v (setWindow (winIdx w) (popped w (window s (winIdx w)) r) s))) (winIdx w) =
      popped w (window s (winIdx w)) r :=
  (window_afterRead _ _ _ _).trans (window_set _ _ _ (popped_used _ _ _ (ended_of_busy h)))

/-- A read of an empty window outside the tick of its abort. -/
theorem windowRead_under {w : Win} {ps : List Bool} {s : State} (h : (window s (winIdx w)).words = [])
    (hcut : (window s (winIdx w)).cutAt ≠ some s.ticks) :
    windowRead w .word ps s = afterRead w (winBusy s w) (answer .host 0#64 (raise HST_INT 2 (bumpSat HST_UNDER s))) := by
  rw [windowRead_word, winPop_empty h]
  unfold winUnder
  rw [if_neg hcut]

theorem windowRead_cut {w : Win} {ps : List Bool} {s : State} (h : (window s (winIdx w)).words = [])
    (hcut : (window s (winIdx w)).cutAt = some s.ticks) :
    windowRead w .word ps s = afterRead w (winBusy s w) (answer .host 0#64 s) := by
  rw [windowRead_word, winPop_empty h]
  unfold winUnder
  rw [if_pos hcut]

/-- A read of a poisoned codeword. -/
theorem windowRead_poisoned {w : Win} {v : BitVec 64} {r : List (BitVec 64)} {ps : List Bool} {s : State} (h : (window s (winIdx w)).words = v :: r) :
    windowRead w .word (true :: ps) s = afterRead w (winBusy s w) (answer .host 0#64
      (raise HST_INT 3 (bumpSat HST_POISON (setWindow (winIdx w) (popped w (window s (winIdx w)) r) s)))) := by
  rw [windowRead_word]
  have hpop : winPop w ((true :: ps).headD false) s = _ := winPop_poison w v r s h
  rw [hpop]

theorem windowRead_burst {w : Win} {l r : List (BitVec 64)} {s : State} (hc : w ≠ .capture) (hl : w ≠ .ledger) (hbusy : winBusy s w = true)
    (hmore : (window s (winIdx w)).more = false) (h : (window s (winIdx w)).words = l ++ r) (hlen : l.length ≤ 64) :
    (windowRead w (.burst l.length) [] s).out = s.out ++ l.map (.readData .host) ∧
      (window (windowRead w (.burst l.length) [] s) (winIdx w)).words = r ∧ (windowRead w (.burst l.length) [] s).regs = s.regs := by
  have hread : windowRead w (.burst l.length) [] s = readWords w l.length [] s :=
    (afterRead_other hc hl).trans (congrArg (fun n => readWords w n [] s) (Nat.min_eq_left hlen))
  rw [hread]
  exact readWords_out w l r s h (fun _ => ended_of_busy hbusy) hmore

theorem windowRead_low {w : Win} {v : BitVec 64} {r : List (BitVec 64)} {s : State} (h : (window s (winIdx w)).words = v :: r) :
    windowRead w .low [] s = answer .host (v % 2 ^ 32) s := by
  unfold windowRead
  dsimp only
  rw [h]
  rfl

theorem windowRead_high {w : Win} {v : BitVec 64} {r : List (BitVec 64)} {s : State} (h : (window s (winIdx w)).words = v :: r) :
    windowRead w .high [] s = afterRead w (winBusy s w) (answer .host (v / 2 ^ 32) (setWindow (winIdx w) (popped w (window s (winIdx w)) r) s)) := by
  have hpop : winPop w (([] : List Bool).headD false) s = _ := winPop_cons w v r s h
  unfold windowRead
  dsimp only
  rw [hpop]

/-- The last word of a record that is read out ends its reading. -/
theorem afterRead_export {n : Nat} {s : State} (hs : TablesWf s) (hwhy : (window s (winIdx .capture)).why = whyCOMPLETE)
    (hexp : s.cap.exporting = some n) :
    (afterRead .capture true s).cap.exporting = none ∧ rdB (afterRead .capture true s) CAP_INT 5 = true ∧
      (afterRead .capture true s).cap.recs = s.cap.recs.map (fun x => if x.no = n then { x with exported := true } else x) := by
  have hdone : afterRead .capture true s = raise CAP_INT 5 (setCap (fun c => { c with
      exporting := none, recs := c.recs.map (fun x => if x.no = n then { x with exported := true } else x) }) s) := by
    refine (if_pos (by rw [hwhy]; rfl)).trans ?_
    unfold exportDone
    rw [hexp]
  rw [hdone, raise_cap]
  exact ⟨rfl, rdB_raise_self (tables_of_eq hs rfl rfl) (by decide) (by decide), rfl⟩

/-! OPEN and ABORT (R429, R483). -/

theorem packPairs_ne_nil {ws : List Word} (h : ws ≠ []) : packPairs ws ≠ [] := by
  match ws, h with
  | [_], _ => exact List.cons_ne_nil _ _
  | _ :: _ :: _, _ => exact List.cons_ne_nil _ _

theorem mirrorOpen_words {s : State} (hen : s.pair.mirrorEnergy = none) (h : s.pair.mirror.flatten ≠ []) :
    (window (mirrorOpen s) (winIdx .mirror)).words = packPairs s.pair.mirror.flatten ∧
      (window (mirrorOpen s) (winIdx .mirror)).openSeq = ((window s (winIdx .mirror)).openSeq + 1) % 2 ^ 16 ∧ (mirrorOpen s).regs = s.regs := by
  have hopen : mirrorOpen s = openWindow .mirror (packPairs s.pair.mirror.flatten) (if s.pair.mirror.flatten.length % 2 = 1 then 4 else 0) s := by
    unfold mirrorOpen
    rw [hen]
    exact if_neg h
  rw [hopen]
  unfold openWindow
  rw [window_set _ _ _ fun he => packPairs_ne_nil h (congrArg Window.words he)]
  exact ⟨rfl, rfl, rfl⟩

theorem mirrorOpen_none {s : State} (hen : s.pair.mirrorEnergy = none) (h : s.pair.mirror.flatten = []) :
    (window (mirrorOpen s) (winIdx .mirror)).words = [] ∧ (window (mirrorOpen s) (winIdx .mirror)).ended = true ∧
      (window (mirrorOpen s) (winIdx .mirror)).why = 4 := by
  have hopen : mirrorOpen s = openEmpty .mirror whyNOT_FOUND s := by
    unfold mirrorOpen
    rw [hen]
    exact if_pos h
  rw [hopen]
  unfold openEmpty
  rw [window_set _ _ _ fun he => absurd (congrArg Window.why he : whyNOT_FOUND = 0) (by decide)]
  exact ⟨rfl, rfl, rfl⟩

/-- An open window ended by ABORT. -/
theorem window_aborted {w : Win} {s t : State} (h : (window s (winIdx w)).ended = false)
    (ht : t.host.windows = (endWindow w whyABORTED s).host.windows) : window t (winIdx w) =
      { window s (winIdx w) with words := [], ended := true, why := whyABORTED, cutAt := some s.ticks } := by
  unfold window at *
  rw [ht, endWindow_open w whyABORTED s h]
  exact tget_tset_value _ _ _ _ fun he => (by decide : whyABORTED ≠ 0) (congrArg Window.why he)

theorem endWindow_regs (w : Win) (why : Nat) (s : State) : (endWindow w why s).regs = s.regs :=
  (endWindow_within w why s (Within.refl s) (List.Subset.refl _)).of .regs

/-- The capture's ABORT ends the reading of a record with its window. -/
theorem recAbort_facts {r : Nat} {s : State} (hexp : s.cap.exporting = some r) (h : (window s (winIdx .capture)).ended = false) :
    (window (recAbort s) (winIdx .capture)).words = [] ∧ (window (recAbort s) (winIdx .capture)).ended = true ∧
      (recAbort s).cap.exporting = none ∧ (recAbort s).regs = s.regs := by
  have habort : recAbort s = dropExport (endWindow .capture whyABORTED (setCap (fun c => { c with exporting := none }) s)) :=
    if_pos (by rw [hexp]; rfl)
  have hcap : (recAbort s).cap = { s.cap with exporting := none } := by
    rw [habort]
    refine ((dropEngine_within 1 _ (Within.refl _) (List.Subset.refl _)).of .cap).trans ?_
    exact (endWindow_within .capture whyABORTED _ (Within.refl _) (List.Subset.refl _)).of .cap
  have hwin := window_aborted (w := .capture) (s := setCap (fun c => { c with exporting := none }) s) (t := recAbort s) h
    (by rw [habort]; exact congrArg HostIf.windows (dropEngine_host 1 _))
  rw [hwin, hcap]
  exact ⟨rfl, rfl, rfl, (recAbort_within s (Within.refl s) (List.Subset.refl _)).of .regs⟩

/-- The state of the Ledger's ABORT before its window ends. -/
def readDropped (s : State) : State := setWork 2 [] (dropEngine 2 (setLedger (fun l => { l with evRead := [], enRead := [] }) s))

theorem readDropped_host (s : State) : (readDropped s).host = s.host := dropEngine_host 2 _

theorem readDropped_ledger (s : State) : (readDropped s).ledger = { s.ledger with evRead := [], enRead := [] } :=
  (dropEngine_within 2 _ (Within.refl _) (List.Subset.refl _)).of .ledger

/-- The Ledger's ABORT ends the read with its window. -/
theorem ledgerAbort_facts {s : State} (hs : TablesWf s) (h : (window s (winIdx .ledger)).ended = false) :
    (window (ledgerAbort s) (winIdx .ledger)).words = [] ∧ (window (ledgerAbort s) (winIdx .ledger)).ended = true ∧
      (ledgerAbort s).ledger = { s.ledger with evRead := [], enRead := [] } ∧ rd (ledgerAbort s) LDG_RD_STAT = 0#32 := by
  have habort : ledgerAbort s = wr LDG_RD_STAT 0#32 (endWindow .ledger whyABORTED (readDropped s)) :=
    if_neg (by unfold winBusy; rw [h]; decide)
  have hopen : (window (readDropped s) (winIdx .ledger)).ended = false := by
    unfold window at *
    rwa [readDropped_host]
  have htables : TablesWf (endWindow .ledger whyABORTED (readDropped s)) :=
    (endWindow_keeps _ _ _ (setWork_keeps _ _ _ (dropEngine_keeps _ _ (Keeps.refl _)))).tables (tables_of_eq hs rfl rfl)
  have hwin : window (ledgerAbort s) (winIdx .ledger) = _ := window_aborted hopen (by rw [habort]; rfl)
  rw [hwin, habort]
  refine ⟨rfl, rfl, ?_, rd_wr_same _ _ _ htables⟩
  exact ((endWindow_within .ledger whyABORTED _ (Within.refl _) (List.Subset.refl _)).of .ledger).trans (readDropped_ledger s)

/-! Register writes (R477). -/

theorem writable_accessed (who w : Req) (a : Nat) (r : RegRow) (s : State) : writable who a r (accessed w s) = writable who a r s := by
  cases w <;> rfl

theorem writeHolds_accessed (who : Req) (a : Nat) (s : State) : writeHolds a (accessed who s) = writeHolds a s := by cases who <;> rfl

/-- A register write that nothing holds. -/
theorem writeBytes_free {c : Instr} {who : Req} {a be : Nat} {v : BitVec 64} {s : State} (hlo : writeHolds a s = false)
    (hhi : byteMask (be / 16) = 0#32 ∨ writeHolds (a + 4) s = false) : writeBytes c who a be v s =
      writeWord who (a + 4) (byteMask (be / 16)) (hiWord v.toNat) (writeWord who a (byteMask (be % 16)) (loWord v.toNat) s) := by
  refine if_neg fun h => ?_
  rcases h with ⟨-, h⟩ | ⟨hm, h⟩
  · rw [hlo] at h; cases h
  · rcases hhi with hhi | hhi
    · exact hm hhi
    · rw [hhi] at h; cases h

/-- Such a write to registers of no effect of their own. -/
theorem writeWords_facts {who : Req} {a : Nat} {m m' v v' : Word} {s : State} (hs : TablesWf s) (hp : postedReg a = false)
    (hp' : postedReg (a + 4) = false) (he : ∀ u, writeEffect a u = u) (he' : ∀ u, writeEffect (a + 4) u = u) :
    (∀ r, regRow? a = some r → rd (writeWord who (a + 4) m' v' (writeWord who a m v s)) a =
        ((rd s a &&& ~~~(writable who a r s &&& m)) ||| (v &&& (writable who a r s &&& m))) &&& ~~~(v &&& m &&& wordOf r.w1c)) ∧
      (∀ r, regRow? (a + 4) = some r → rd (writeWord who (a + 4) m' v' (writeWord who a m v s)) (a + 4) =
        ((rd s (a + 4) &&& ~~~(writable who (a + 4) r s &&& m')) ||| (v' &&& (writable who (a + 4) r s &&& m'))) &&&
          ~~~(v' &&& m' &&& wordOf r.w1c)) ∧
      ∀ b, b ≠ a → b ≠ a + 4 → rd (writeWord who (a + 4) m' v' (writeWord who a m v s)) b = rd s b := by
  refine ⟨fun r hr => ?_, fun r hr => ?_, fun b hb hb' => ?_⟩
  · rw [writeWord_ne _ _ _ _ _ _ (by omega) he']
    exact writeWord_same who a m v s r hs hr he hp
  · rw [writeWord_same who (a + 4) m' v' _ r ((writeWord_keeps who a m v s (Keeps.refl s)).tables hs) hr he' hp', writable_after _ _ _ _ _ _ he,
      writeWord_ne _ _ _ _ _ _ (by omega) he]
  · rw [writeWord_ne _ _ _ _ _ _ hb' he', writeWord_ne _ _ _ _ _ _ hb he]

/-- A write to a Sentry-held register is posted. -/
theorem writeWord_posts {who : Req} {a : Nat} {m v : Word} {r : RegRow} {s : State} (hp : postedReg a = true) (hr : regRow? a = some r)
    (hm : m ≠ 0#32) : writeWord who a m v s = { s with sentry := { s.sentry with
      posted := s.sentry.posted ++ [(a, writable who a r s &&& m, v &&& m &&& wordOf r.w1c, v)] } } := by
  unfold writeWord
  rw [hr]
  exact (if_neg hm).trans (if_pos hp)

theorem writeBytes_held {c : Instr} {a be : Nat} {v : BitVec 64} {s : State} (hheld : s.host.held = [])
    (h : (byteMask (be % 16) ≠ 0#32 ∧ writeHolds a s = true) ∨ (byteMask (be / 16) ≠ 0#32 ∧ writeHolds (a + 4) s = true)) :
    (writeBytes c .host a be v s).host.held = [c] ∧ (writeBytes c .host a be v s).regs = s.regs := by
  have hholds : writeBytes c .host a be v s = holdWrite c .host s := if_pos h
  rw [hholds]
  exact ⟨congrArg (· ++ [c]) hheld, rfl⟩

/-- The registers of a family that one row of the map covers. -/
theorem regRow_of_family {f : Nat → Nat} {n i : Nat} (h : regTable.any (fun r => (List.range n).all (fun i => rowCovers r (f i))) = true)
    (hi : i < n) : ∃ r, regRow? (f i) = some r := by
  obtain ⟨r, hmem, hall⟩ := List.any_eq_true.mp h
  exact Option.isSome_iff_exists.mp (List.find?_isSome.mpr ⟨r, hmem, List.all_eq_true.mp hall i (List.mem_range.mpr hi)⟩)

/-- A full write of the lower word, with its effect. -/
theorem registerWrite_low {who : Req} {a : Nat} {ofs : BitVec 17} {v : BitVec 64} {r : RegRow} {s : State} (hofs : 8 * ofs.toNat = a)
    (hv : Served who a s) (hh : writeHolds a s = false) (hr : regRow? a = some r) (hp : postedReg a = false) :
    ∃ u : State, exec (.registerWrite who ofs 0x0F#8 v) s = .next (writeEffect a u) ∧ (∀ b, b ≠ a → rd u b = rd s b) ∧
      (TablesWf s → TablesWf u ∧ rd u a = ((rd s a &&& ~~~(writable who a r s &&& 0xFFFFFFFF#32)) |||
        (loWord v.toNat &&& (writable who a r s &&& 0xFFFFFFFF#32))) &&& ~~~(loWord v.toNat &&& 0xFFFFFFFF#32 &&& wordOf r.w1c)) := by
  subst hofs
  obtain ⟨u, hword, -, hne, hsame⟩ := writeWord_full who (8 * ofs.toNat) (loWord v.toNat) (accessed who s) r hr hp
  refine ⟨u, exec_served_eq hv rfl ?_, fun b hb => (hne b hb).trans (rd_accessed who s b), fun hs => ?_⟩
  · exact (writeBytes_low _ who _ v _ (by rw [writeHolds_accessed]; exact hh)).trans hword
  · have hu := hsame (accessed_tables who s hs)
    rw [rd_accessed, writable_accessed] at hu
    exact hu

/-- A full write of the upper word, with its effect. -/
theorem registerWrite_high {who : Req} {a : Nat} {ofs : BitVec 17} {v : BitVec 64} {r : RegRow} {s : State} (hofs : 8 * ofs.toNat = a)
    (hv : Served who a s) (hh : writeHolds (a + 4) s = false) (hr : regRow? (a + 4) = some r) (hp : postedReg (a + 4) = false) :
    ∃ u : State, exec (.registerWrite who ofs 0xF0#8 v) s = .next (writeEffect (a + 4) u) ∧ u.mast = s.mast ∧ (TablesWf s → TablesWf u) := by
  subst hofs
  obtain ⟨u, hword, hmast, -, hsame⟩ := writeWord_full who (8 * ofs.toNat + 4) (hiWord v.toNat) (accessed who s) r hr hp
  refine ⟨u, exec_served_eq hv rfl ?_, hmast.trans (accessed_mast who s), fun hs => (hsame (accessed_tables who s hs)).1⟩
  exact (writeBytes_high _ who _ v _ (by rw [writeHolds_accessed]; exact hh)).trans hword

/-- PWR_CTRL's row of the map, and its ceiling. -/
theorem regRow_PWR_CTRL : regRow? PWR_CTRL =
    some { base := PWR_CTRL, s1 := 0, n1 := 1, s2 := 0, n2 := 1, reset := 0, rw := 255, w1c := 0, own := false, img := true } := by decide

theorem writable_PWR_CTRL (who : Req) (r : RegRow) (s : State) : writable who PWR_CTRL r s = wordOf r.rw := by
  unfold writable
  rw [show ringReg PWR_CTRL = false by decide, Bool.and_false, if_neg (by decide), if_neg fun h => absurd h.1 (by decide),
    if_neg fun h => absurd h.1 (by decide), if_neg fun h => absurd h.1 (by decide)]

/-- A full write of a register none of whose bits clear by a 1. -/
theorem written_plain (w v m : Word) :
    ((w &&& ~~~(m &&& 0xFFFFFFFF#32)) ||| (v &&& (m &&& 0xFFFFFFFF#32))) &&& ~~~(v &&& 0xFFFFFFFF#32 &&& 0#32) = (w &&& ~~~m) ||| (v &&& m) := by
  have hall : 0xFFFFFFFF#32 = BitVec.allOnes 32 := rfl
  rw [hall, BitVec.and_allOnes, BitVec.and_zero, BitVec.not_zero, BitVec.and_allOnes]

theorem writeEffect_PWR_CTRL (s : State) : writeEffect PWR_CTRL s = wr PWR_CTRL (wordOf (min (rdF s PWR_CTRL 0 8) (rdF s PWR_CFG 0 8))) s :=
  (if_neg (by decide)).trans ((if_neg fun h => absurd h.1 (by decide)).trans (if_pos rfl))

/-- A register that none of the rules of writeEffect before the user values names. -/
theorem writeEffect_user {a ch : Nat} {s : State} (h : a ≠ MST_HOLD) (h' : a ≠ MKT_INT) (h'' : a ≠ PWR_CTRL) (hch : userChan? a = some ch) :
    writeEffect a s = setStat SCL_CAL_PEND ch true s := by
  unfold writeEffect
  rw [if_neg h, if_neg fun hn => h' hn.1, if_neg h'', hch]

theorem userChan_user (ch : Fin 24) : userChan? (SCL_CH_UGAIN ch.val) = some ch.val ∧ userChan? (SCL_CH_UOFS ch.val) = some ch.val ∧
    userChan? (SCL_CH_UDLY ch.val) = some ch.val := by
  revert ch
  decide

theorem regRow_user (ch : Fin 24) : (∃ r, regRow? (SCL_CH_UGAIN ch.val) = some r) ∧ (∃ r, regRow? (SCL_CH_UOFS ch.val) = some r) ∧
    ∃ r, regRow? (SCL_CH_UDLY ch.val) = some r :=
  ⟨regRow_of_family (f := fun i => SCL_CH_UGAIN i) (by decide) ch.isLt, regRow_of_family (f := fun i => SCL_CH_UOFS i) (by decide) ch.isLt,
    regRow_of_family (f := fun i => SCL_CH_UDLY i) (by decide) ch.isLt⟩

theorem rdB_eq_field (s : State) (a k : Nat) : rdB s a k = decide (rdF s a k 1 = 1) := by
  unfold rdB bitAt rdF field fieldN
  exact Nat.testBit_eq_decide_div_mod_eq

theorem rdB_wrF_apart {a lo n v k : Nat} {s : State} (hs : TablesWf s) (h : lo + n ≤ 32) (hk : k < lo) :
    rdB (wrF a lo n v s) a k = rdB s a k := by
  obtain ⟨-, hother⟩ := rdF_wrF a lo n v k 1 s hs h
  rw [rdB_eq_field, rdB_eq_field, hother (.inr hk)]

/-- A bit of a written word that clears by a 1 written. -/
theorem bitAt_cleared {w v m : Word} {k : Nat} (hk : k < 32) (hv : v.toNat.testBit k = true) (hm : m.toNat.testBit k = true) :
    bitAt (w &&& ~~~(v &&& 0xFFFFFFFF#32 &&& m)) k = false := by
  have hv' : v.getLsbD k = true := hv
  have hm' : m.getLsbD k = true := hm
  have hall : (0xFFFFFFFF#32).getLsbD k = true := by rw [show 0xFFFFFFFF#32 = BitVec.allOnes 32 from rfl, BitVec.getLsbD_allOnes, decide_eq_true hk]
  change (w &&& ~~~(v &&& 0xFFFFFFFF#32 &&& m)).getLsbD k = false
  rw [BitVec.getLsbD_and, BitVec.getLsbD_not, BitVec.getLsbD_and, BitVec.getLsbD_and, hv', hm', hall]
  simp

theorem pcStat_row (c : Fin 4) : ∃ r, regRow? (CTL_PC_STAT c.val) = some r ∧ (wordOf r.w1c).toNat.testBit 11 = true := by
  revert c
  have hall : ∀ c : Fin 4, (regRow? (CTL_PC_STAT c.val)).any (fun r => (wordOf r.w1c).toNat.testBit 11) = true := by decide
  exact fun c => Option.any_eq_true _ _ |>.mp (hall c)

theorem writeEffect_pcStat {c : Fin 4} {s : State} (h : rdB s (CTL_PC_STAT c.val) 11 = false) :
    writeEffect (CTL_PC_STAT c.val) s = wrF (CTL_PC_STAT c.val) 21 11 0 s := by
  have hplain : ∀ c : Fin 4, CTL_PC_STAT c.val ≠ MST_HOLD ∧ CTL_PC_STAT c.val ≠ MKT_INT ∧ CTL_PC_STAT c.val ≠ PWR_CTRL ∧
      userChan? (CTL_PC_STAT c.val) = none ∧ (List.range 4).find? (fun k => decide (CTL_PC_STAT c.val = CTL_PC_STAT k)) = some c.val := by decide
  obtain ⟨hhold, hmkt, hctrl, huser, hfind⟩ := hplain c
  unfold writeEffect
  rw [if_neg hhold, if_neg fun hn => hmkt hn.1, if_neg hctrl, huser]
  dsimp only
  rw [hfind]
  dsimp only
  rw [h]
  rfl

/-- The pending mark of a channel by its user values. -/
theorem userWrite_low {who : Req} {a : Nat} {ch : Fin 24} {ofs : BitVec 17} {v : BitVec 64} {s : State} (hs : TablesWf s) (hofs : 8 * ofs.toNat = a)
    (hv : Served who a s) (hr : ∃ r, regRow? a = some r) (hch : userChan? a = some ch.val) (ha : 0x30000 ≤ a ∧ a < 0x31000) :
    Completes (.registerWrite who ofs 0x0F#8 v) s fun t => rdB t SCL_CAL_PEND ch.val = true := by
  obtain ⟨hlo, hhi⟩ := ha
  obtain ⟨r, hr⟩ := hr
  have hplain : postedReg a = false := decide_eq_false (by simp only [CAL_STATUS, CAL_INT, CAL_STG_TIME, CAL_STG_DATE]; omega)
  obtain ⟨u, hx, -, hu⟩ := registerWrite_low (v := v) hofs hv (writeHolds_plain a s (by omega)) hr hplain
  refine ⟨_, hx, ?_⟩
  rw [writeEffect_user (by simp only [MST_HOLD]; omega) (by simp only [MKT_INT]; omega) (by simp only [PWR_CTRL]; omega) hch]
  exact rdB_setStat_self (hu hs).1 (by omega)

theorem userWrite_high {who : Req} {a : Nat} {ch : Fin 24} {ofs : BitVec 17} {v : BitVec 64} {s : State} (hs : TablesWf s) (hofs : 8 * ofs.toNat = a)
    (hv : Served who a s) (hr : ∃ r, regRow? (a + 4) = some r) (hch : userChan? (a + 4) = some ch.val) (ha : 0x30000 ≤ a ∧ a < 0x31000) :
    Completes (.registerWrite who ofs 0xF0#8 v) s fun t => rdB t SCL_CAL_PEND ch.val = true := by
  obtain ⟨hlo, hhi⟩ := ha
  obtain ⟨r, hr⟩ := hr
  have hplain : postedReg (a + 4) = false := decide_eq_false (by simp only [CAL_STATUS, CAL_INT, CAL_STG_TIME, CAL_STG_DATE]; omega)
  obtain ⟨u, hx, -, hu⟩ := registerWrite_high (v := v) hofs hv (writeHolds_plain (a + 4) s (by omega)) hr hplain
  refine ⟨_, hx, ?_⟩
  rw [writeEffect_user (by simp only [MST_HOLD]; omega) (by simp only [MKT_INT]; omega) (by simp only [PWR_CTRL]; omega) hch]
  exact rdB_setStat_self (hu hs) (by omega)

/-- A register's offset in 64-bit words. -/
theorem wordOffset {a : Nat} (h8 : a % 8 = 0) (h : a < 2 ^ 20) : 8 * (BitVec.ofNat 17 (a / 8)).toNat = a := by
  rw [BitVec.toNat_ofNat]
  omega

/-- Settles O60: the reads, openings and aborts of the windows, and the register writes, each by its operation. -/
theorem hostWindows : Obligations.HostWindows := by
  unfold Obligations.HostWindows
  refine ⟨?word, ?under, ?cut, ?poisoned, ?burst, ?halves, ?exported, ?opens, ?mirrors, ?noMirror, ?aborts, ?capAborts, ?ledAborts, ?samples,
    ?writes, ?posts, ?holds, ?ceiling, ?user, ?lost, ?hold⟩
  case word =>
    intro w v r s hv hbusy h
    have hbusy' : winBusy (accessed .host s) w = true := by rwa [winBusy_accessed]
    refine completes_served (who := .host) rfl hv ?_
    rw [← window_accessed .host s] at h ⊢
    rw [windowRead_pops h, window_popped hbusy']
    refine ⟨?_, rfl, rfl, fun b hcap hctl => ?_⟩
    · exact popped_prefix s v w _ _ (congrArg (· ++ _) (accessed_out .host s))
    · rw [afterRead_rd _ _ _ _ hcap hctl]
      rfl
  case under =>
    intro w ps s hs hv h hcut
    refine completes_served (who := .host) rfl hv ?_
    rw [← window_accessed .host s] at h
    rw [windowRead_under h (by rw [window_accessed, accessed_ticks]; exact hcut)]
    have hbump : TablesWf (bumpSat HST_UNDER (accessed .host s)) := wr_tables (accessed_tables .host s hs)
    refine ⟨afterRead_mem _ _ _ _ (List.mem_append_right _ (List.mem_singleton.mpr rfl)), ?_, ?_, ?_⟩
    · unfold rdB
      rw [afterRead_rd _ _ _ _ (by decide) (by decide)]
      exact rdB_raise_self hbump (by decide) (by decide)
    · rw [afterRead_rd _ _ _ _ (by decide) (by decide)]
      exact (rd_raise_ne _ _ _ _ (by decide) (by decide)).trans (rd_wr_same _ _ _ (accessed_tables .host s hs))
    · rw [afterRead_win]
      exact raise_windows _ _ _
  case cut =>
    intro w ps s hv hc hl h hcut
    refine exec_served_eq (who := .host) hv rfl ?_
    rw [windowRead_cut (by rw [window_accessed]; exact h) (by rw [window_accessed, accessed_ticks]; exact hcut), afterRead_other hc hl]
    rfl
  case poisoned =>
    intro w v r ps s hs hv h hbusy
    refine completes_served (who := .host) rfl hv ?_
    rw [← window_accessed .host s] at h
    have htables : TablesWf (setWindow (winIdx w) (popped w (window (accessed .host s) (winIdx w)) r) (accessed .host s)) :=
      tables_of_eq (accessed_tables .host s hs) rfl rfl
    rw [windowRead_poisoned h]
    refine ⟨afterRead_mem _ _ _ _ (List.mem_append_right _ (List.mem_singleton.mpr rfl)), ?_, ?_, ?_⟩
    · unfold rdB
      rw [afterRead_rd _ _ _ _ (by decide) (by decide)]
      exact rdB_raise_self (wr_tables htables) (by decide) (by decide)
    · rw [afterRead_rd _ _ _ _ (by decide) (by decide)]
      exact (rd_raise_ne _ _ _ _ (by decide) (by decide)).trans (rd_wr_same _ _ _ htables)
    · have hpopped :
          (window (setWindow (winIdx w) (popped w (window (accessed .host s) (winIdx w)) r) (accessed .host s)) (winIdx w)).words = r := by
        rw [window_set _ _ _ (popped_used _ _ _ (ended_of_busy (by rw [winBusy_accessed]; exact hbusy)))]
        rfl
      rw [window_afterRead]
      refine Eq.trans ?_ hpopped
      exact congrArg (fun m => (tget {} m (winIdx w)).words) (raise_windows _ _ _)
  case burst =>
    intro w l r s hv hc hl hbusy hmore h hlen
    refine completes_served (who := .host) rfl hv ?_
    rw [← window_accessed .host s] at h hmore
    exact windowRead_burst hc hl (by rw [winBusy_accessed]; exact hbusy) hmore h hlen
  case halves =>
    intro w v r s hv h
    rw [← window_accessed .host s] at h
    refine ⟨exec_served_eq (who := .host) hv rfl (windowRead_low h), completes_served (who := .host) rfl hv ?_⟩
    rw [windowRead_high h]
    exact popped_prefix s _ w _ _ rfl
  case exported =>
    intro v n s hs hv hbusy h hmore hexp
    have hbusy' : winBusy (accessed .host s) .capture = true := by rwa [winBusy_accessed]
    refine completes_served (who := .host) rfl hv ?_
    rw [← window_accessed .host s] at h hmore
    rw [windowRead_pops (w := .capture) h, hbusy']
    refine afterRead_export (tables_of_eq (accessed_tables .host s hs) rfl rfl) ?_ hexp
    have hwin : window (answer .host v (setWindow (winIdx .capture) (popped .capture (window (accessed .host s) (winIdx .capture)) [])
        (accessed .host s))) (winIdx .capture) = _ := window_set _ _ _ (popped_used _ _ _ (ended_of_busy hbusy'))
    rw [hwin]
    exact if_pos (by rw [show (window (accessed .host s) (winIdx .capture)).more = false from hmore]; rfl)
  case opens =>
    intro w s hv hw
    exact exec_served_stays (who := .host) (f := fun t => if w = .mirror then mirrorOpen t else t) hv rfl (if_neg hw)
  case mirrors => exact fun s hv hen h => completes_served (who := .host) rfl hv (mirrorOpen_words hen h)
  case noMirror => exact fun s hv hen h => completes_served (who := .host) rfl hv (mirrorOpen_none hen h)
  case aborts =>
    intro w s hv hw h
    have habort : winAbort w (accessed .host s) = endWindow w whyABORTED (accessed .host s) := by
      simp only [List.mem_cons, List.not_mem_nil, or_false] at hw
      rcases hw with rfl | rfl | rfl | rfl | rfl | rfl <;> rfl
    refine completes_served (who := .host) rfl hv ?_
    rw [habort, window_aborted (by rw [window_accessed]; exact h) rfl]
    exact ⟨rfl, rfl, rfl, rfl, endWindow_regs _ _ _⟩
  case capAborts =>
    intro r s hv hexp h
    exact completes_served (who := .host) rfl hv (recAbort_facts hexp (by rw [window_accessed]; exact h))
  case ledAborts =>
    intro s hs hv h
    exact completes_served (who := .host) rfl hv (ledgerAbort_facts (accessed_tables .host s hs) (by rw [window_accessed]; exact h))
  case samples => exact fun c s hv => exec_served_stays (who := .host) hv rfl rfl
  case writes =>
    intro who ofs be v s hs hv hh hh' hp hp' he he'
    refine completes_served rfl hv ?_
    rw [writeBytes_free (by rw [writeHolds_accessed]; exact hh) (.inr (by rw [writeHolds_accessed]; exact hh'))]
    have hwords := writeWords_facts (who := who) (m := byteMask (be.toNat % 16)) (m' := byteMask (be.toNat / 16)) (v := loWord v.toNat)
      (v' := hiWord v.toNat) (accessed_tables who s hs) hp hp' he he'
    simp only [rd_accessed, writable_accessed] at hwords
    exact hwords
  case posts =>
    intro who ofs be v r s hv hh hp hr hhi hlo
    refine completes_served rfl hv ?_
    rw [writeBytes_free (by rw [writeHolds_accessed]; exact hh) (.inl hhi), hhi, writeWord_none, writeWord_posts hp hr hlo, writable_accessed,
      accessed_sentry]
    exact ⟨accessed_regs who s, rfl⟩
  case holds =>
    intro ofs be v s hv h
    obtain ⟨-, hhost⟩ := id hv
    refine completes_served (who := .host) rfl hv (writeBytes_held (hhost rfl).2 ?_)
    rw [writeHolds_accessed, writeHolds_accessed]
    exact h
  case ceiling =>
    intro v who s hs hv
    obtain ⟨u, hx, hne, hu⟩ := registerWrite_low (ofs := 0x402#17) (a := PWR_CTRL) (v := v) rfl hv (writeHolds_plain PWR_CTRL s (by decide))
      regRow_PWR_CTRL (by decide)
    obtain ⟨htables, hctrl⟩ := hu hs
    refine ⟨_, hx, ?_⟩
    have hlow : (rd u PWR_CTRL) = (rd s PWR_CTRL &&& ~~~0xFF#32) ||| (loWord v.toNat &&& 0xFF#32) := by
      rw [hctrl, writable_PWR_CTRL]
      exact written_plain _ _ _
    have hfield : rdF u PWR_CTRL 0 8 = ((rd s PWR_CTRL &&& ~~~0xFF#32) ||| (loWord v.toNat &&& 0xFF#32)).toNat % 256 := by
      unfold rdF field fieldN
      rw [hlow]
      simp
    have hcfg : rdF u PWR_CFG 0 8 = rdF s PWR_CFG 0 8 := congrArg (field · 0 8) (hne PWR_CFG (by decide))
    have hend : rd (writeEffect PWR_CTRL u) PWR_CTRL = wordOf (min (rdF u PWR_CTRL 0 8) (rdF u PWR_CFG 0 8)) := by
      rw [writeEffect_PWR_CTRL]
      exact rd_wr_same _ _ _ htables
    have hsmall : min (rdF u PWR_CTRL 0 8) (rdF u PWR_CFG 0 8) < 2 ^ 32 := by omega
    rw [← hcfg, ← hfield]
    exact (congrArg BitVec.toNat hend).trans (Nat.mod_eq_of_lt hsmall)
  case user =>
    intro v who ch s hs hg hd
    obtain ⟨hgain, hofs, hdly⟩ := userChan_user ch
    obtain ⟨hgainRow, hofsRow, hdlyRow⟩ := regRow_user ch
    obtain ⟨hgain8, hgainLow, hgainIn, hdly8, hdlyLow, hdlyIn, hnext⟩ : SCL_CH_UGAIN ch.val % 8 = 0 ∧ SCL_CH_UGAIN ch.val < 2 ^ 20 ∧
        (0x30000 ≤ SCL_CH_UGAIN ch.val ∧ SCL_CH_UGAIN ch.val < 0x31000) ∧ SCL_CH_UDLY ch.val % 8 = 0 ∧ SCL_CH_UDLY ch.val < 2 ^ 20 ∧
        (0x30000 ≤ SCL_CH_UDLY ch.val ∧ SCL_CH_UDLY ch.val < 0x31000) ∧ SCL_CH_UOFS ch.val = SCL_CH_UGAIN ch.val + 4 := by
      have hch := ch.isLt
      simp only [SCL_CH_UGAIN, SCL_CH_UDLY, SCL_CH_UOFS]
      omega
    rw [hnext] at hofs hofsRow
    exact ⟨userWrite_low hs (wordOffset hgain8 hgainLow) hg hgainRow hgain hgainIn,
      userWrite_high hs (wordOffset hgain8 hgainLow) hg hofsRow hofs hgainIn,
      userWrite_low hs (wordOffset hdly8 hdlyLow) hd hdlyRow hdly hdlyIn⟩
  case lost =>
    intro v who c s hs hv hbit
    have hc := c.isLt
    obtain ⟨r, hr, hw1c⟩ := pcStat_row c
    obtain ⟨u, hx, -, hu⟩ := registerWrite_low (v := v)
      (wordOffset (by simp only [CTL_PC_STAT]; omega) (by simp only [CTL_PC_STAT]; omega)) hv
      (writeHolds_plain (CTL_PC_STAT c.val) s (by simp only [CTL_PC_STAT]; omega)) hr
      (decide_eq_false (by simp only [CAL_STATUS, CAL_INT, CAL_STG_TIME, CAL_STG_DATE, CTL_PC_STAT]; omega))
    obtain ⟨htables, hstat⟩ := hu hs
    have hlow : (loWord v.toNat).toNat.testBit 11 = true := by
      unfold loWord
      rw [BitVec.toNat_ofNat, Nat.testBit_mod_two_pow, hbit]
      rfl
    have hclear : rdB u (CTL_PC_STAT c.val) 11 = false := by
      unfold rdB
      rw [hstat]
      exact bitAt_cleared (by decide) hlow hw1c
    refine ⟨_, hx, ?_⟩
    rw [writeEffect_pcStat hclear]
    exact ⟨(rdB_wrF_apart htables (by decide) (by decide)).trans hclear, rdF_wrF_zero htables (by decide)⟩
  case hold =>
    intro v who s hv
    obtain ⟨r, hr⟩ := Option.isSome_iff_exists.mp (show (regRow? MST_HOLD).isSome = true by decide)
    obtain ⟨u, hx, hmast, -⟩ := registerWrite_high (ofs := 0x80D#17) (a := 0x4068) (v := v) rfl hv
      (writeHolds_plain MST_HOLD s (by decide)) hr (by decide)
    refine ⟨_, hx, ?_⟩
    rw [← hmast]
    rfl

end Sys2Proof.Machine
end

section
/-!
PROOFS of the family other: reception and flow control (O16), and the rest of the ports' commands (O17).
-/

namespace Sys2Proof.Machine

open Sys2Proof

theorem PRT_INT_ne_CTL_INT (p : Fin 64) : PRT_INT p.val ≠ CTL_INT := by
  have := p.isLt
  simp only [PRT_INT, CTL_INT, ne_eq]
  omega

theorem port_accessed (who : Req) (s : State) (p : Nat) : port (accessed who s) p = port s p := by cases who <;> rfl

/-! Reception (R67 to R75). -/

/-- The state in which a received frame is classified: it has passed through the receive buffer. -/
def buffered (p : Nat) (f : RxFrame) (s : State) : State :=
  bufReach p (min 24576 (bufBytes (port s p) + f.len)) (if f.blockErrs = 0 then s else portCount p cPCS_BLOCK_ERR f.blockErrs s)

/-- A frame on an enabled port of a started data path. -/
theorem completes_rxFrame {p : Fin 64} {f : RxFrame} {s : State} {P : State → Prop} (hp : s.power.st = .fullSail)
    (hon : rdB s (PRT_CFG p.val) 2 = true) (hpath : s.boot.dataPath = true) (h : P (rxFrame p.val f s)) : Completes (.rxFrame p f) s P :=
  completes_full rfl hp (by rw [if_pos (by rw [portOn, hon, hpath]; rfl)]; exact h)

theorem rxFrame_bad {p c : Nat} {f : RxFrame} {s : State} (h : badFrame s p f = some c) : rxFrame p f s = portCount p c 1 (buffered p f s) := by
  unfold rxFrame
  rw [h]
  rfl

theorem rxFrame_overflows {p : Nat} {f : RxFrame} {s : State} (h : badFrame s p f = none) (hlen : 24576 < bufBytes (port s p) + f.len) :
    rxFrame p f s = raise (PRT_INT p) 6 (portCount p cRX_BUF_DROP 1 (buffered p f s)) := by
  unfold rxFrame
  rw [h]
  exact if_pos hlen

theorem rxFrame_good {p : Nat} {f : RxFrame} {s : State} (h : badFrame s p f = none) (hlen : bufBytes (port s p) + f.len ≤ 24576) :
    rxFrame p f s = classify p f (countGood p f (buffered p f s)) := by
  unfold rxFrame
  rw [h]
  exact if_neg (Nat.not_lt.mpr hlen)

theorem badFrame_counter {s : State} {p c : Nat} {f : RxFrame} (h : badFrame s p f = some c) : 7 ≤ c ∧ c ≤ 10 := by
  unfold badFrame at h
  split at h
  · cases h; decide
  · split at h
    · cases h; decide
    · split at h
      · cases h; decide
      · split at h
        · cases h; decide
        · cases h

theorem classify_filtered {p : Nat} {f : RxFrame} {s : State} (hkind : f.kind = .other) (hda : f.da = .otherUnicast) :
    classify p f s = portCount p cRX_FILTERED_DA 1 s := by
  have hrefused : daAccepted s f = false := by rw [daAccepted, hda]
  unfold classify
  rw [hkind, hrefused]
  rfl

/-! Pauses (R73, R75). -/

theorem sendPfcWith_awake {f : Port → Port} {p q : Nat} {s : State} (h : (port s p).txLpi = false) : sendPfcWith f p q s =
    portCount p cTX_PFC_FRAMES 1 (emit (.pfc p (pfcMask s p) q) (setPort p { f (port s p) with pfcAt := s.ticks } s)) := by
  unfold sendPfcWith
  rw [leaveLpi_off h]

theorem setPaused_stays {p m : Nat} {s : State} (h : (port s p).paused ≠ 0) (hm : m ≠ 0) : setPaused p m s =
    setPort p { port s p with paused := m } s := (if_neg fun hn => h hn.1).trans (if_neg fun hn => hm hn.2)

theorem setPaused_ends {p : Nat} {s : State} (h : (port s p).paused ≠ 0) : setPaused p 0 s =
    portCount p cTX_PAUSED_US (usSince s (port s p).pausedAt) (setPort p { port s p with paused := 0 } s) :=
  (if_neg fun hn => h hn.1).trans (if_pos ⟨h, rfl⟩)

/-- Settles O16: a received frame by the first row that takes it, and the ends of pauses. -/
theorem portReceive : Obligations.PortReceive := by
  unfold Obligations.PortReceive
  refine ⟨?off, ?bad, ?overflows, ?filtered, ?ingest, ?ring, ?refresh, ?xon, ?expires, ?ends⟩
  case off =>
    intro p f s _ hoff
    exact exec_full_stays rfl (if_neg (by rw [portOn, hoff]; exact Bool.false_ne_true))
  case bad =>
    intro p f c s hs hp hon hpath hbad
    obtain ⟨hlow, hhigh⟩ := badFrame_counter hbad
    refine completes_rxFrame hp hon hpath ?_
    obtain ⟨htables, hlive, hing⟩ := rxBuffer_facts p.val (min 24576 (bufBytes (port s p.val) + f.len)) c f.blockErrs s hs
      (by unfold cTX_PFC_FRAMES; omega) (by unfold cTX_LPI_US; omega) (by unfold cPCS_BLOCK_ERR; omega)
    rw [rxFrame_bad hbad, ← hlive]
    exact ⟨live_count_self htables, hing⟩
  case overflows =>
    intro p f s hs hp hon hpath hbad hlen
    refine completes_rxFrame hp hon hpath ?_
    obtain ⟨htables, hlive, hing⟩ := rxBuffer_facts p.val (min 24576 (bufBytes (port s p.val) + f.len)) cRX_BUF_DROP f.blockErrs s hs
      (by decide) (by decide) (by decide)
    rw [rxFrame_overflows hbad hlen, raise_ing, live_of_eq (raise_live _ _ _)]
    exact ⟨(live_count_self htables).trans (congrArg (fun n => (n + 1) % 2 ^ 64) hlive),
      rdB_raise_self (count_tables htables) (PRT_INT_ne_CTL_INT p) (by decide), hing⟩
  case filtered =>
    intro p f s hs hp hon hpath hbad hlen hkind hda
    refine completes_rxFrame hp hon hpath ?_
    obtain ⟨htables, hlive, hing⟩ := rxBuffer_facts p.val (min 24576 (bufBytes (port s p.val) + f.len)) cRX_FILTERED_DA f.blockErrs s hs
      (by decide) (by decide) (by decide)
    have hgood : TablesWf (countGood p.val f (buffered p.val f s)) := (countGood_keeps _ _ _ (Keeps.refl _)).tables htables
    have hcount := (countGood_lc p.val cRX_FILTERED_DA f (buffered p.val f s) (by decide) (by decide)).trans hlive
    rw [rxFrame_good hbad hlen, classify_filtered hkind hda]
    exact ⟨(live_count_self hgood).trans (congrArg (fun n => (n + 1) % 2 ^ 64) hcount),
      ((countGood_within p.val f _ (Within.refl _) (List.Subset.refl _)).of .ing).trans hing⟩
  case ingest =>
    intro p f s hp hon hpath hbad hlen hkind hda htci hbuf hfifo
    have hocc : bufBytes (port s p.val) + f.len ≤ 24576 := by
      have hempty : bufBytes (port s p.val) = 0 := by rw [bufBytes, hbuf]; rfl
      omega
    refine completes_rxFrame hp hon hpath ?_
    rw [rxFrame_good hbad hocc]
    exact rxFrame_ingest p.val f s hkind hda htci hbuf hfifo _ f.blockErrs (by have := badFrame_len hbad; omega)
  case ring =>
    intro p f s hs hp hon hpath hbad hocc hlen hkind hda htci hring hroom
    refine completes_rxFrame hp hon hpath ?_
    rw [rxFrame_good hbad hocc]
    exact rxFrame_ring p f s hs hkind hda htci hring hroom hlen (badFrame_len hbad) _ f.blockErrs
  case refresh =>
    intro p s hp hxoff hocc hdue hawake
    refine completes_full rfl hp ?_
    rw [if_pos ⟨hxoff, hocc, hdue⟩, sendPfc, sendPfcWith_awake hawake]
    exact ⟨rfl, rfl⟩
  case xon =>
    intro p s hp hxoff hocc hawake
    refine completes_full rfl hp ?_
    rw [if_pos ⟨hxoff, hocc⟩, pfcXon, sendPfcWith_awake hawake]
    exact ⟨rfl, rfl⟩
  case expires =>
    intro p k s hp hbit hdue hother
    have hge : 2 ^ k.val ≤ (port s p.val).paused := Nat.ge_two_pow_of_testBit hbit
    have hpos : 0 < 2 ^ k.val := Nat.two_pow_pos _
    refine completes_full rfl hp ?_
    dsimp only
    rw [if_pos ⟨hbit, hdue⟩, setPaused_stays (by omega) (by omega)]
    rfl
  case ends =>
    intro p k s hs hp hpaused hdue
    have hpos : 0 < 2 ^ k.val := Nat.two_pow_pos _
    refine completes_full rfl hp ?_
    dsimp only
    rw [if_pos ⟨by rw [hpaused]; exact Nat.testBit_two_pow_self, hdue⟩, show (port s p.val).paused - 2 ^ k.val = 0 by omega,
      setPaused_ends (by omega)]
    exact ⟨rfl, live_count_self (tables_of_eq hs rfl rfl)⟩

/-! Rings, the time-stamp queue and links (R77 to R92). -/

theorem eeeWrite_facts {p : Fin 64} {v : Word} {s : State} (hs : TablesWf s) :
    rd (eeeWrite p.val v s) (PRT_EEE p.val) = wordOf (field v 0 8 + 2 ^ 16 * min (field v 16 7) 100) ∧
      (100 < field v 16 7 → rdB (eeeWrite p.val v s) (PRT_INT p.val) 7 = true) := by
  have hwr := rd_wr_same (PRT_EEE p.val) (wordOf (field v 0 8 + 2 ^ 16 * min (field v 16 7) 100)) s hs
  have hint : PRT_EEE p.val ≠ PRT_INT p.val := by simp only [PRT_EEE, PRT_INT, ne_eq]; omega
  have hctl : PRT_EEE p.val ≠ CTL_INT := by have := p.isLt; simp only [PRT_EEE, CTL_INT, ne_eq]; omega
  unfold eeeWrite
  dsimp only
  split
  next h => exact ⟨(rd_raise_ne _ _ _ _ hint hctl).trans hwr, fun _ => rdB_raise_self (wr_tables hs) (PRT_INT_ne_CTL_INT p) (by decide)⟩
  next h => exact ⟨hwr, fun hn => absurd hn h⟩

theorem ringEnable_facts {p : Nat} {s : State} (hs : TablesWf s) (h : ringOn s p = false) :
    rdB (ringEnable p s) (PRT_RX_CTRL p) 0 = true ∧ rd (ringEnable p s) (PRT_RX_HEAD p) = 0#32 ∧
      rd (ringEnable p s) (PRT_RX_TAIL p) = 0#32 ∧ (ringEnable p s).ports = tset {} s.ports p { port s p with descs := [] } := by
  have henable : ringEnable p s = wr (PRT_RX_TAIL p) 0#32 (wr (PRT_RX_HEAD p) 0#32 (setStat (PRT_RX_CTRL p) 0 true
      (setPort p { port s p with descs := [] } s))) := if_neg (by rw [h]; decide)
  have hctrl : TablesWf (setStat (PRT_RX_CTRL p) 0 true (setPort p { port s p with descs := [] } s)) := wr_tables (tables_of_eq hs rfl rfl)
  have hct : PRT_RX_CTRL p ≠ PRT_RX_TAIL p := by simp only [PRT_RX_CTRL, PRT_RX_TAIL, ne_eq]; omega
  have hch : PRT_RX_CTRL p ≠ PRT_RX_HEAD p := by simp only [PRT_RX_CTRL, PRT_RX_HEAD, ne_eq]; omega
  have hht : PRT_RX_HEAD p ≠ PRT_RX_TAIL p := by simp only [PRT_RX_HEAD, PRT_RX_TAIL, ne_eq]; omega
  rw [henable, rdB_wr_other hct, rdB_wr_other hch, rd_wr_ne _ _ _ _ hht]
  exact ⟨rdB_setStat_self (tables_of_eq hs rfl rfl), rd_wr_same _ _ _ hctrl, rd_wr_same _ _ _ (wr_tables hctrl), rfl⟩

theorem rxTailWrite_facts {p k : Nat} {l : List Nat} {s : State} (hs : TablesWf s) :
    rd (rxTailWrite p k l s) (PRT_RX_TAIL p) = wordOf k ∧ (∀ a, a ≠ PRT_RX_TAIL p → rd (rxTailWrite p k l s) a = rd s a) ∧
      (rxTailWrite p k l s).ports = (forUpTo ((k + 512 - ringTail s p) % 512)
        (fun i u => offerDesc p ((ringTail s p + i) % 512) (l.getD i 0) u) s).ports := by
  have hkeep : ∀ n, (forUpTo n (fun i u => offerDesc p ((ringTail s p + i) % 512) (l.getD i 0) u) s).regs = s.regs ∧
      (forUpTo n (fun i u => offerDesc p ((ringTail s p + i) % 512) (l.getD i 0) u) s).live = s.live := fun n =>
    ⟨foldl_keep (fun u : State => u.regs) _ _ _ fun u i => rfl, foldl_keep (fun u : State => u.live) _ _ _ fun u i => rfl⟩
  obtain ⟨hregs, hlive⟩ := hkeep ((k + 512 - ringTail s p) % 512)
  unfold rxTailWrite
  exact ⟨rd_wr_same _ _ _ (tables_of_eq hs hregs hlive), fun a ha => (rd_wr_ne _ _ _ _ ha).trans (rd_of_regs hregs a), rfl⟩

/-- The ports after a frame's end, before its stamp. -/
def frameEnded (p : Nat) (f : TxFrame) (s : State) : State :=
  portCount p (cTX_UNICAST + f.cast) 1 (portCount p cTX_OCTETS_OK f.len (portCount p cTX_FRAMES_OK 1
    (emit (.frame p f) (setPort p { port s p with tx := none, idleAt := s.ticks } s))))

theorem txFrameEnd_plain {p : Nat} {f : TxFrame} {s : State} (h : (port s p).tx = some f) (hptp : f.ptpEvent = none) :
    txFrameEnd p s = frameEnded p f s := by
  unfold txFrameEnd
  rw [h]
  dsimp only
  rw [hptp]
  rfl

theorem txFrameEnd_stamps {p tag m : Nat} {f : TxFrame} {s : State} (h : (port s p).tx = some f) (hptp : f.ptpEvent = some (tag, m)) :
    txFrameEnd p s = (tsqPush p true m tag (port s p).txStamp (portCount p cTX_PTP_EVENT 1 (frameEnded p f s))).1 := by
  unfold txFrameEnd
  rw [h]
  dsimp only
  rw [hptp]
  rfl

theorem tsqPush_room {p m tag stamp : Nat} {egress : Bool} {s : State} (h : (port s p).tsq.length < 64) :
    (tsqPush p egress m tag stamp s).1 = raise (PRT_INT p) 4 (setPort p { port s p with
      tsq := (port s p).tsq ++ [⟨stamp, (port s p).seq, egress, m, tag⟩], seq := ((port s p).seq + 1) % 256 } s) := by
  unfold tsqPush
  dsimp only
  rw [if_neg (Nat.not_le.mpr h)]

theorem live_frameEnded {p : Nat} {f : TxFrame} {s : State} (hs : TablesWf s) (hcast : f.cast < 3) :
    liveCnt (frameEnded p f s) (PRT_STAT p 48) = (liveCnt s (PRT_STAT p 48) + 1) % 2 ^ 64 := by
  unfold frameEnded portCount
  rw [live_count_other (by simp only [PRT_STAT, cTX_UNICAST, ne_eq]; omega), live_count_other (by simp only [PRT_STAT, cTX_OCTETS_OK, ne_eq]; omega)]
  exact live_count_self (tables_of_eq hs rfl rfl)

/-- A link that comes up, and one that goes down. -/
theorem linkChange_up {p : Nat} {a : Bool} {s : State} (h : (port s p).linkUp = false) : linkChange p true a s =
    raise (PRT_INT p) 0 (setPort p { port s p with linkUp := true, anDone := a } s) :=
  (if_neg (by rw [h]; decide)).trans (if_pos rfl)

/-- The state of a link that has gone down, but for the frame it aborts. -/
def linkLost (p : Nat) (a : Bool) (s : State) : State :=
  portCount p cLINK_DOWN 1 (raise (PRT_INT p) 0 (setPort p { port s p with linkUp := false, anDone := a, tx := none } s))

theorem linkChange_down {p : Nat} {a : Bool} {s : State} (h : (port s p).linkUp = true) : linkChange p false a s =
    if (port s p).tx.isSome then portCount p cTX_ABORTED 1 (linkLost p a s) else linkLost p a s :=
  (if_neg (by rw [h]; decide)).trans (if_neg Bool.false_ne_true)

theorem linkChange_down_facts {p : Fin 64} {a : Bool} {s : State} (hs : TablesWf s) (h : (port s p.val).linkUp = true) :
    rdB (linkChange p.val false a s) (PRT_INT p.val) 0 = true ∧
      liveCnt (linkChange p.val false a s) (PRT_STAT p.val 46) = (liveCnt s (PRT_STAT p.val 46) + 1) % 2 ^ 64 ∧
      (linkChange p.val false a s).ports = tset {} s.ports p.val { port s p.val with linkUp := false, anDone := a, tx := none } := by
  have hset : TablesWf (setPort p.val { port s p.val with linkUp := false, anDone := a, tx := none } s) := tables_of_eq hs rfl rfl
  have hlost : liveCnt (linkLost p.val a s) (PRT_STAT p.val 46) = (liveCnt s (PRT_STAT p.val 46) + 1) % 2 ^ 64 := by
    refine (live_count_self (raise_tables hset)).trans ?_
    rw [live_of_eq (raise_live _ _ _)]
    rfl
  have hint : rdB (linkLost p.val a s) (PRT_INT p.val) 0 = true := rdB_raise_self hset (PRT_INT_ne_CTL_INT p) (by decide)
  have hports : (linkLost p.val a s).ports = _ := raise_ports _ _ _
  rw [linkChange_down h]
  split
  · exact ⟨hint, (live_count_other (by simp only [PRT_STAT, cTX_ABORTED, ne_eq]; omega)).trans hlost, hports⟩
  · exact ⟨hint, hlost, hports⟩

theorem portsUp_of {s : State} (hp : s.power.st = .fullSail) (hstarted : s.boot.started = true) : portsUp s = true := by
  rw [portsUp, hp, hstarted]
  rfl

/-- Settles O17: each of the ports' commands by its operation. -/
theorem portLinks : Obligations.PortLinks := by
  unfold Obligations.PortLinks
  refine ⟨?lpi, ?rxIn, ?rxOut, ?eee, ?enable, ?disable, ?tail, ?host, ?ready, ?ends, ?stamps, ?latchNone, ?latches, ?popNone, ?pops, ?snap,
    ?all, ?again, ?up, ?down⟩
  case lpi =>
    intro p s hs hp hon hdue
    refine completes_full rfl hp ?_
    rw [if_pos ⟨hon, hdue⟩]
    exact ⟨rfl, live_count_self (tables_of_eq hs rfl rfl)⟩
  case rxIn =>
    intro p s hs hp hon hawake
    have hrx : rxLpi p.val true s = portCount p.val cRX_LPI_ENTRIES 1 (setPort p.val { port s p.val with rxLpi := true, rxLpiAt := s.ticks } s) :=
      if_pos ⟨rfl, hawake⟩
    refine completes_full rfl hp ?_
    rw [if_pos (show portOn s p.val = true from hon), hrx]
    exact ⟨rfl, live_count_self (tables_of_eq hs rfl rfl)⟩
  case rxOut =>
    intro p s hs hp hon hlpi
    have hrx : rxLpi p.val false s = portCount p.val cRX_LPI_US (usSince s (port s p.val).rxLpiAt)
        (setPort p.val { port s p.val with rxLpi := false } s) := by
      unfold rxLpi
      dsimp only
      rw [if_neg fun h => Bool.false_ne_true h.1, if_pos ⟨Bool.false_ne_true, hlpi⟩]
    refine completes_full rfl hp ?_
    rw [if_pos (show portOn s p.val = true from hon), hrx]
    exact ⟨rfl, live_count_self (tables_of_eq hs rfl rfl)⟩
  case eee => exact fun who p v s hs hv => completes_served rfl hv (eeeWrite_facts (accessed_tables who s hs))
  case enable => exact fun c p s hs hv hoff => completes_served (who := .deck c) rfl hv (ringEnable_facts hs hoff)
  case disable => exact fun c p s hs hv => completes_served (who := .deck c) rfl hv ⟨rdB_setStat_self hs, rfl⟩
  case tail => exact fun c p k l s hs hv => completes_served (who := .deck c) rfl hv (rxTailWrite_facts hs)
  case host =>
    exact fun p k l s hctrl htail => ⟨exec_served_stays htail rfl rfl, exec_served_stays hctrl rfl rfl, exec_served_stays hctrl rfl rfl⟩
  case ready =>
    intro p s hs hp hdue
    refine completes_full rfl hp ?_
    rw [if_pos hdue, raise_ports]
    exact ⟨rdB_raise_self (tables_of_eq hs rfl rfl) (PRT_INT_ne_CTL_INT p) (by decide), rfl⟩
  case ends =>
    intro p f s hs hp hon htx hptp hcast
    refine completes_full rfl hp ?_
    rw [if_pos (show portOn s p.val = true from hon), txFrameEnd_plain htx hptp]
    exact ⟨rfl, rfl, live_frameEnded hs hcast⟩
  case stamps =>
    intro p f tag m q s hp hon htx hptp hq hroom
    subst hq
    refine completes_full rfl hp ?_
    rw [if_pos (show portOn s p.val = true from hon), txFrameEnd_stamps htx hptp,
      tsqPush_room (s := portCount p.val cTX_PTP_EVENT 1 (frameEnded p.val f s)) hroom, raise_ports]
    refine ⟨List.IsPrefix.trans ?_ (raise_out' _ _ _), rfl⟩
    exact List.prefix_rfl
  case latchNone =>
    intro who p s hv hempty
    refine completes_served rfl hv ?_
    rw [tsqLatch, port_accessed, hempty]
    exact congrArg (· ++ _) (accessed_out who s)
  case latches =>
    intro who p e r s hv htsq
    refine completes_served rfl hv ?_
    rw [tsqLatch, port_accessed, htsq]
    cases who <;> exact ⟨rfl, rfl⟩
  case popNone =>
    intro who p s hv hempty
    refine completes_served rfl hv ?_
    rw [tsqPop, port_accessed, hempty]
    exact ⟨congrArg (· ++ _) (accessed_out who s), accessed_ports who s⟩
  case pops =>
    intro who p e r s hv htsq hlatched
    refine completes_served rfl hv ?_
    rw [tsqPop, port_accessed, htsq, hlatched]
    cases who <;> exact ⟨rfl, rfl⟩
  case snap =>
    intro who p clr s hs hv
    exact completes_portSnapshot hv (snapPort_time clr p s _ (accessed_tai who s) (accessed_ticks who s) (accessed_tables who s hs))
  case all =>
    intro who clr s hv hfresh
    refine exec_served_eq (ofs := PRT_SNAP 0) hv rfl ?_
    rw [snapAll_fresh clr _ (by rw [accessed_mast, accessed_ticks]; exact hfresh)]
    cases who <;> rfl
  case again =>
    intro who clr c s hv hsnap
    refine exec_served_eq (ofs := PRT_SNAP 0) hv rfl ?_
    rw [snapAll_again clr c _ (by rw [accessed_mast, accessed_ticks]; exact hsnap)]
    cases who <;> rfl
  case up =>
    intro p a s hs hp hstarted hon hdown
    refine completes_full rfl hp ?_
    rw [if_pos (by rw [portsUp_of hp hstarted, portOn, hon]; rfl), linkChange_up hdown, raise_ports]
    exact ⟨rdB_raise_self (tables_of_eq hs rfl rfl) (PRT_INT_ne_CTL_INT p) (by decide), rfl⟩
  case down =>
    intro p a s hs hp hstarted hon hup
    refine completes_full rfl hp ?_
    rw [if_pos (by rw [portsUp_of hp hstarted, portOn, hon]; rfl)]
    exact linkChange_down_facts hs hup

end Sys2Proof.Machine
end

section
/-!
PROOFS of the family other: the pipelines of Ingest, its streams and statistics (O18).
-/

namespace Sys2Proof.Machine

open Sys2Proof

/-! The parse of one frame (R96 to R112). -/

/-- The state in which a pipeline parses the first frame of its FIFO: the FIFO refilled and the frame counted. -/
def taken (k : Nat) (r : List IngItem) (s : State) : State := count (ING_PIPE (2 * k)) 1 (refillFifo k (setFifo k r s))

theorem taken_keeps (k : Nat) (r : List IngItem) (s : State) : Keeps s (taken k r s) :=
  count_keeps _ _ _ (refillFifo_keeps _ _ (setFifo_keeps _ _ _ (Keeps.refl s)))

theorem taken_mkt (k : Nat) (r : List IngItem) (s : State) : (taken k r s).mkt = s.mkt :=
  (refillFifo_within k (setFifo k r s) (Within.refl _) (List.Subset.refl _)).of .mkt

theorem exec_ingestParse {k : Fin 4} {i : IngItem} {r : List IngItem} {s : State} (hp : s.power.st = .fullSail)
    (hpath : s.boot.dataPath = true) (hk : k.val < pipeCount s) (hfifo : fifo s k.val = i :: r) :
    exec (.ingestParse k) s = .next (parseItem k.val i (taken k.val r s)) :=
  exec_full_eq hp rfl ((if_pos ⟨hpath, hk⟩).trans (by unfold ingestParse; rw [hfifo]; rfl))

theorem parseC37_wrongSize {i : IngItem} {pipe ip : Nat} {f : C37Frame} {s : State} (h : f.sizeOk = false) :
    parseC37 i pipe ip f s = countCode codeMALFORMED s := if_pos (.inr (.inl h))

/-- The entry of a subscription after a frame that is accepted. -/
def svAccepted (i : IngItem) (pipe : Nat) (x : SvSt) (s : State) : SvSt :=
  { x with framesOk := (x.framesOk + 1) % 2 ^ 32, lastPort := i.port, lastPipe := pipe, lastTick := some s.ticks }

/-- A sampled-value frame that passes every check of its subscription, the `n`-th. -/
structure PassesSub (f : SvFrame) (n : Nat) (c : SvSub) (s : State) : Prop where
  sub : subOf s f = some (n, c)
  confRev : f.confRev = c.confRev
  size : svOver f = false
  limit : (svSt s n).st ≠ .overLimit
  layout : f.asdus.any (fun a => decide (a.channels.length ≠ c.channels ∧ a.channels.length ≤ 8)) = false
  real : f.simulated = false
  fresh : f.asdus.filter (fun a => decide ((svSt s n).lastCnt ≠ some a.smpCnt)) ≠ []

/-- A subscribed frame that passes every check delivers its fresh samples and counts as accepted. -/
theorem parseSub_accepts {i : IngItem} {pipe addr n : Nat} {f : SvFrame} {c : SvSub} {s : State} (h : PassesSub f n c s) :
    parseSub i pipe addr f none s = countCode codeACCEPTED
      ((f.asdus.filter (fun a => decide ((svSt s n).lastCnt ≠ some a.smpCnt))).foldl (fun u a => svDeliver n c i a u)
        (setSv n (svAccepted i pipe (svSt s n) s) s)) := by
  obtain ⟨hsub, hrev, hover, hlim, hlay, hsim, hfresh⟩ := h
  unfold parseSub
  rw [hsub]
  simp only [hover, hrev, hlay, hlim, hsim, hfresh, Bool.false_eq_true, if_false, ne_eq, not_true_eq_false, or_self, false_and]
  rfl

theorem svDeliver_live (n : Nat) (c : SvSub) (i : IngItem) (a : SvAsdu) (s : State) : (svDeliver n c i a s).live = s.live :=
  (svDeliver_within n c i a s (Within.refl s) (List.Subset.refl _)).of .live

theorem svDelivers_live (n : Nat) (c : SvSub) (i : IngItem) (l : List SvAsdu) (s : State) :
    (l.foldl (fun u a => svDeliver n c i a u) s).live = s.live :=
  foldl_keep State.live _ l s fun u a => svDeliver_live n c i a u

theorem svDelivers_tables {n : Nat} {c : SvSub} {i : IngItem} {l : List SvAsdu} {s : State} (hs : TablesWf s) :
    TablesWf (l.foldl (fun u a => svDeliver n c i a u) s) :=
  ((Keeps.refl s).foldl fun u a => svDeliver_keeps n c i a u (Keeps.refl u)).tables hs

/-! The statistics of the streams (R114, R115). -/

theorem selStream_accessed (who : Req) (s : State) : selStream (accessed who s) = selStream s := by cases who <;> rfl

theorem streamCfg_accessed (who : Req) (s : State) (n : Nat) : streamCfg (accessed who s) n = streamCfg s n := by cases who <;> rfl

theorem streamSt_accessed (who : Req) (s : State) (n : Nat) : streamSt (accessed who s) n = streamSt s n := by cases who <;> rfl

theorem svSt_accessed (who : Req) (s : State) (n : Nat) : svSt (accessed who s) n = svSt s n := by cases who <;> rfl

/-- The words and the EMPTY mark that STREAM_LOAD leaves. -/
def streamShown (ws hist : List Word) (empty : Bool) (s : State) : State :=
  wrWords (ING_HIST 0) hist (wrWords (ING_STREAM_W 0) ws (setStat ING_STREAM_STAT 1 empty s))

theorem streamShown_word {ws : List Word} {h : NMap Nat} {b : Bool} {s : State} (hs : TablesWf s) {k : Nat} (hlen : ws.length = 8)
    (hk : k < 8 := by decide) : rd (streamShown ws (histWords h) b s) (ING_STREAM_W k) = ws.getD k 0#32 := by
  have hbase : ING_STREAM_W k = ING_STREAM_W 0 + 4 * k := by unfold ING_STREAM_W; omega
  have hlow : ING_STREAM_W k < ING_HIST 0 := by simp only [ING_STREAM_W, ING_HIST]; omega
  rw [streamShown, rd_wrWords_out _ _ _ _ (.inl hlow), hbase]
  exact rd_wrWords_word k (wr_tables hs) (hlen ▸ hk)

theorem streamShown_empty {ws : List Word} {h : NMap Nat} {b : Bool} {s : State} (hs : TablesWf s) :
    rdB (streamShown ws (histWords h) b s) ING_STREAM_STAT 1 = b := by
  rw [rdB, streamShown, rd_wrWords_out _ _ _ _ (.inl (by decide)), rd_wrWords_out _ _ _ _ (.inl (by decide))]
  exact rdB_setStat_self hs

theorem streamLoad_configured {c : StreamCfg} {s : State} (h : streamCfg s (selStream s) = some c) : streamLoad s =
    streamShown (streamWords s c (streamSt s (selStream s))) (histWords (streamSt s (selStream s)).hist) false s := by
  unfold streamLoad
  rw [h]
  rfl

/-- The words that an entry without a stream shows: its subscription's, or zeros. -/
def subscriptionWords (s : State) : Option (Nat × SvSub) → List Word
  | some q => svEntryWords (svSt s q.1)
  | none => List.replicate 8 0#32

theorem streamLoad_other {p : Option (Nat × SvSub)} {s : State} (h : streamCfg s (selStream s) = none)
    (hp : s.cfg.subs.find? (fun p => decide (p.2.entry = selStream s)) = p) :
    streamLoad s = streamShown (subscriptionWords s p) (histWords []) p.isNone s := by
  unfold streamLoad
  rw [h]
  dsimp only
  rw [hp]
  cases p <;> rfl

theorem completes_streamLoad_other {who : Req} {p : Option (Nat × SvSub)} {s : State} {P : State → Prop}
    (hv : Served who ING_STREAM_CMD s) (hn : streamCfg s (selStream s) = none)
    (hp : s.cfg.subs.find? (fun p => decide (p.2.entry = selStream s)) = p)
    (h : P (streamShown (subscriptionWords (accessed who s) p) (histWords []) p.isNone (accessed who s))) :
    Completes (.streamLoad who) s P := by
  refine completes_served rfl hv ?_
  rw [streamLoad_other (by rw [selStream_accessed, streamCfg_accessed, hn])
    (show (accessed who s).cfg.subs.find? (fun p => decide (p.2.entry = selStream (accessed who s))) = p by
      rw [selStream_accessed, accessed_cfg, hp])]
  exact h

/-- Settles O18: one frame through its pipeline by the order of its checks, and the streams' statistics by what each command writes. -/
theorem ingestFrames : Obligations.IngestFrames := by
  unfold Obligations.IngestFrames
  refine ⟨?empty, ?takes, ?wrongSize, ?accepts, ?sends, ?unfit, ?ages, ?young, ?configured, ?unknown, ?subscription, ?clear,
    ?clearAll, ?snapshot, ?stopped⟩
  case empty =>
    intro k s _ hfifo
    refine exec_full_stays rfl ?_
    have hstays : ingestParse k.val s = s := by unfold ingestParse; rw [hfifo]
    rw [hstays, ite_self]
  case takes =>
    intro k i r s hp hpath hk hfifo
    exact exec_ingestParse hp hpath hk hfifo
  case wrongSize =>
    intro k i r ip f s u hs hp hpath hk hfifo hbody hsize hu
    subst hu
    refine ⟨_, exec_ingestParse hp hpath hk hfifo, ?_⟩
    have hparse : parseItem k.val i (taken k.val r s) = countCode codeMALFORMED (taken k.val r s) := by
      unfold parseItem
      rw [hbody]
      exact parseC37_wrongSize hsize
    rw [hparse]
    exact ⟨live_count_self ((taken_keeps k.val r s).tables hs), taken_mkt k.val r s⟩
  case accepts =>
    intro k i r f n c s u hs hp hpath hk hfifo hbody hu hform hcount hsub hrev hover hlim hlay hsim hfresh
    change u = taken k.val r s at hu
    subst hu
    refine ⟨_, exec_ingestParse hp hpath hk hfifo, ?_⟩
    have hparse : parseItem k.val i (taken k.val r s) = parseSub i k.val (f.dmac.toNat % 2 ^ 32) f none (taken k.val r s) := by
      unfold parseItem
      rw [hbody]
      exact (if_neg (Bool.not_eq_true _ ▸ hform)).trans (if_neg (Bool.not_eq_true _ ▸ hcount))
    have hentered : TablesWf (setSv n (svAccepted i k.val (svSt (taken k.val r s) n) (taken k.val r s)) (taken k.val r s)) :=
      tables_of_eq ((taken_keeps k.val r s).tables hs) rfl rfl
    rw [hparse, parseSub_accepts ⟨hsub, hrev, hover, hlim, hlay, hsim, hfresh⟩]
    exact (live_count_self (svDelivers_tables hentered)).trans
      (congrArg (fun m => (m + 1) % 2 ^ 64) (live_of_eq (svDelivers_live _ _ _ _ _) _))
  case sends =>
    intro n cmd q prio c s hp hc hext hok hrun hused hhost hfull
    refine completes_full rfl hp ?_
    rw [hc]
    dsimp only
    rw [if_pos (by rw [hext, hok, hrun]; rfl)]
    unfold sendSource
    rw [if_neg (by rw [hused, hhost, hfull]; decide), qLand_queue]
    rfl
  case unfit =>
    intro n cmd q prio c s _ hc hno
    refine exec_full_stays rfl ?_
    rw [hc]
    dsimp only
    rw [if_neg (by rw [hno]; simp)]
  case ages =>
    intro s hs hp hage
    refine completes_full rfl hp ?_
    rw [if_pos hage]
    unfold latAged
    exact ⟨rdB_raise_self (tables_of_eq hs rfl rfl) (by decide) (by decide), congrArg Ingest.agedAt (raise_ing _ _ _),
      congrArg Ingest.streams (raise_ing _ _ _), congrArg Market.hist (raise_mkt _ _ _)⟩
  case young =>
    intro s _ hage
    exact exec_full_stays rfl (if_neg (by rw [hage]; exact Bool.false_ne_true))
  case configured =>
    intro who c s hs hv hc
    have hst : TablesWf (accessed who s) := accessed_tables who s hs
    refine completes_served rfl hv ?_
    rw [streamLoad_configured (by rw [selStream_accessed, streamCfg_accessed, hc]), selStream_accessed, streamSt_accessed]
    exact ⟨streamShown_word hst rfl, streamShown_word hst rfl, streamShown_empty hst⟩
  case unknown =>
    intro who s hs hv hn hsub
    have hst : TablesWf (accessed who s) := accessed_tables who s hs
    exact completes_streamLoad_other hv hn hsub ⟨streamShown_word hst rfl, streamShown_empty hst⟩
  case subscription =>
    intro who n c s hs hv hn hsub
    have hst : TablesWf (accessed who s) := accessed_tables who s hs
    refine completes_streamLoad_other hv hn hsub ?_
    rw [← svSt_accessed who s n]
    exact ⟨streamShown_word hst rfl, streamShown_word hst rfl, streamShown_word hst rfl,
      streamShown_empty hst⟩
  case clear =>
    intro who s hv
    refine completes_served rfl hv ?_
    cases who <;> exact ⟨rfl, rfl⟩
  case clearAll =>
    intro who s hv
    refine completes_served rfl hv ?_
    cases who <;> exact ⟨rfl, rfl⟩
  case snapshot =>
    intro who clr s hs hv
    refine completes_served rfl hv ⟨?_, ?_⟩
    · exact rdB_raise_self ((Keeps.forUpTo (snapshot_keeps _ _ _ _ _ (Keeps.refl _)) fun _ u => snapOne_keeps _ _ u (Keeps.refl u)).tables
        (accessed_tables who s hs)) (by decide) (by decide)
    · exact ((ingestSnapshot_within clr _ (Within.refl _) (List.Subset.refl _)).of .ing).trans (accessed_ing who s)
  case stopped =>
    intro k s _ hpath
    exact exec_full_stays rfl (if_neg (by rw [hpath]; exact fun h => Bool.false_ne_true h.1))

end Sys2Proof.Machine
end

section
/-!
PROOFS of the family other: the Market's tableaus and windows (O19), its adaptive bells and class histograms (O20).
-/

namespace Sys2Proof.Machine

open Sys2Proof

/-! The tableaus (R116 to R136). -/

theorem openTab_fresh {s : State} (hroom : storeRoom s = s) (hheld : heldFor s s.mkt.next = []) :
    (openTab false s).mkt.next = s.mkt.next + 1 ∧ (openTab false s).mkt.tabs = s.mkt.tabs ++ [newTab s s.mkt.next false] ∧
      (openTab false s).tai = s.tai := by
  unfold openTab
  dsimp only
  rw [hroom, hheld]
  exact ⟨rfl, rfl, rfl⟩

section
variable {inst k : Nat} {t : Tableau} {s : State}

/-- A section whose seal is due: it seals, or it is held for an earlier tableau's. -/
theorem sectionSeal_due (ht : tabOf s inst = some t) (hopen : secOf t k = .open) (hdue : sealTime s t k ≤ s.tai)
    (hfirst : beforeSeal s inst k = false) : sectionSeal inst k s =
    if sealBlocked s inst k then
      if k ∈ t.sealHeld then s
      else raise MKT_INT 1 (mktCount cORDER_HOLDS 1 (setTab { t with sealHeld := t.sealHeld ++ [k] } s))
    else sealFollow k (s.mkt.tabs.map Tableau.inst) (sealSection inst k s) := by
  unfold sectionSeal
  rw [ht]
  exact if_neg (by rw [hfirst]; simp [hopen, Nat.not_lt.mpr hdue])

theorem sectionClose_due (ht : tabOf s inst = some t) (hsealed : secOf t k = .sealed) (hdue : closeTime s t k ≤ s.tai)
    (hfirst : beforeClose s inst = false) : sectionClose inst k s =
    if (setSec k .closed t).secs.all (fun x => decide (x = .closed ∨ x = .unused)) then finishTab inst (setTab (setSec k .closed t) s)
    else setTab (setSec k .closed t) s := by
  have hsame : { t with shed := t.shed || false } = t := by rw [Bool.or_false]
  have hclose : closeSection inst k false s =
      if (setSec k .closed t).secs.all (fun x => decide (x = .closed ∨ x = .unused)) then finishTab inst (setTab (setSec k .closed t) s)
      else setTab (setSec k .closed t) s := by
    unfold closeSection
    rw [ht]
    dsimp only
    rw [if_neg (not_not_intro hsealed), hsame]
    rfl
  unfold sectionClose
  rw [ht]
  exact (if_neg (by rw [hfirst]; simp [Nat.not_lt.mpr hdue])).trans hclose

theorem revisionIssue_of (ht : tabOf s inst = some t) : revisionIssue inst s =
    if t.st = .revising ∧ (holdPassed s t ∨ t.forced) ∧ ¬ beforeRevision s then revise inst false s else s := by
  unfold revisionIssue
  rw [ht]

end

theorem place_takes {n inst : Nat} {v : Slot} {r : List (Nat × Nat × Slot)} {s : State} (h : s.ing.handoff = (n, inst, v) :: r) :
    place s = if s.mkt.next ≤ inst then
        { s with ing := { s.ing with handoff := r }, mkt := { s.mkt with early := s.mkt.early ++ [(n, inst, v)] } }
      else twRefresh inst (placeIn n inst v { s with ing := { s.ing with handoff := r } }) := by
  unfold place
  rw [h]

/-! The data windows (R148, R149). -/

theorem tabOf_accessed (who : Req) (s : State) (i : Nat) : tabOf (accessed who s) i = tabOf s i := by cases who <;> rfl

theorem ribFrom_accessed (who : Req) (s : State) (i : Nat) : ribFrom (accessed who s) i = ribFrom s i := by cases who <;> rfl

theorem rd64_accessed (who : Req) (s : State) (a : Nat) : rd64 (accessed who s) a = rd64 s a := by cases who <;> rfl

theorem twOpen_found {t : Tableau} {s : State} (ht : tabOf s (rd64 s MKT_TW_INST_LO) = some t) (hs : TablesWf s) :
    rd (twOpen s) MKT_TW_STAT = wordOf (1 + 4 * tabCode t.st + 2 ^ 4 * t.rev + 2 ^ 8 * t.rev) ∧
      (twOpen s).mkt = { s.mkt with twInst := some (rd64 s MKT_TW_INST_LO) } := by
  unfold twOpen
  dsimp only
  rw [ht]
  exact ⟨rd_wr_same _ _ _ (tables_of_eq hs rfl rfl), rfl⟩

theorem twOpen_missing {s : State} (ht : tabOf s (rd64 s MKT_TW_INST_LO) = none) (hs : TablesWf s) :
    rd (twOpen s) MKT_TW_STAT = 2#32 ∧ (twOpen s).mkt = { s.mkt with twInst := none } := by
  unfold twOpen
  dsimp only
  rw [ht]
  exact ⟨rd_wr_same _ _ _ (tables_of_eq hs rfl rfl), rfl⟩

theorem ribOpen_found {s : State} (hb : ribFrom s (rd64 s MKT_RIB_INST_LO) ≠ []) (hs : TablesWf s) :
    rd (ribOpen s) MKT_RIB_RSTAT = 1#32 ∧
      (ribOpen s).mkt = { s.mkt with ribRead := (ribFrom s (rd64 s MKT_RIB_INST_LO)).map (fun b => (b.first, b.bytes.length)) } := by
  unfold ribOpen
  dsimp only
  rw [if_neg hb]
  exact ⟨rd_wr_same _ _ _ (tables_of_eq hs rfl rfl), rfl⟩

theorem ribOpen_missing {s : State} (hb : ribFrom s (rd64 s MKT_RIB_INST_LO) = []) (hs : TablesWf s) :
    rd (ribOpen s) MKT_RIB_RSTAT = 2#32 ∧ (ribOpen s).mkt = { s.mkt with ribRead := [] } := by
  unfold ribOpen
  dsimp only
  rw [if_pos hb]
  exact ⟨rd_wr_same _ _ _ (tables_of_eq hs rfl rfl), rfl⟩

/-- An abort of an open window after a host access: it ends with reason 2 at the tick. -/
theorem abort_accessed {w : Win} {who : Req} {s : State} (h : (window s (winIdx w)).ended = false) :
    (endWindow w whyABORTED (accessed who s)).host.windows = tset {} s.host.windows (winIdx w)
      { window s (winIdx w) with words := [], ended := true, why := 2, cutAt := some s.ticks } := by
  rw [endWindow_open w whyABORTED _ (by rw [window_accessed, h]), window_accessed, accessed_windows, accessed_ticks]
  rfl

theorem abort_mkt {w : Win} {why : Nat} {who : Req} {s : State} : (endWindow w why (accessed who s)).mkt = s.mkt :=
  ((endWindow_within w why _ (Within.refl _) (List.Subset.refl _)).of .mkt).trans (accessed_mkt who s)

/-- Settles O19: the tableaus' events by the order that R136 gives them, and the two windows' openings and aborts. -/
theorem marketTableaus : Obligations.MarketTableaus := by
  unfold Obligations.MarketTableaus
  refine ⟨?fresh, ?opens, ?early, ?seals, ?holds, ?closes, ?finishes, ?waits, ?places, ?after, ?revises, ?keeps, ?twFound,
    ?twMissing, ?twAbort, ?ribFound, ?ribMissing, ?ribAbort⟩
  case fresh =>
    intro s hp hdue hroom hheld
    refine completes_full rfl hp ?_
    rw [if_pos hdue]
    exact openTab_fresh hroom hheld
  case opens =>
    intro s hp hdue
    exact exec_full_eq hp rfl (if_pos hdue)
  case early =>
    intro s _ hdue
    exact exec_full_stays rfl (if_neg (by rw [hdue]; exact Bool.false_ne_true))
  case seals =>
    intro inst k t s hp ht hopen hdue hfirst hfree
    exact exec_full_eq hp rfl ((sectionSeal_due ht hopen hdue hfirst).trans (if_neg (by rw [hfree]; exact Bool.false_ne_true)))
  case holds =>
    intro inst k t s hs hp ht hopen hdue hfirst hblock hnew
    refine completes_full rfl hp ?_
    rw [sectionSeal_due ht hopen hdue hfirst, if_pos hblock, if_neg hnew]
    have hset : TablesWf (setTab { t with sealHeld := t.sealHeld ++ [k.val] } s) := tables_of_eq hs rfl rfl
    exact ⟨rdB_raise_self (count_tables hset) (by decide) (by decide),
      (live_of_eq (raise_live _ _ _) _).trans (live_count_self hset), raise_mkt _ _ _⟩
  case closes =>
    intro inst k t s hp ht hsealed hdue hfirst hmore
    exact exec_full_eq hp rfl ((sectionClose_due ht hsealed hdue hfirst).trans (if_neg (by rw [hmore]; exact Bool.false_ne_true)))
  case finishes =>
    intro inst k t s hp ht hsealed hdue hfirst hlast
    exact exec_full_eq hp rfl ((sectionClose_due ht hsealed hdue hfirst).trans (if_pos hlast))
  case waits =>
    intro n inst v r s hp hfirst hhand hnext
    exact exec_full_eq hp rfl ((if_neg (by rw [hfirst]; exact Bool.false_ne_true)).trans ((place_takes hhand).trans (if_pos hnext)))
  case places =>
    intro n inst v r s hp hfirst hhand hopen
    exact exec_full_eq hp rfl ((if_neg (by rw [hfirst]; exact Bool.false_ne_true)).trans
      ((place_takes hhand).trans (if_neg (Nat.not_le.mpr hopen))))
  case after =>
    intro s _ hdue
    exact exec_full_stays rfl (if_pos hdue)
  case revises =>
    intro inst t s hp ht hst hpass hfirst
    exact exec_full_eq hp rfl ((revisionIssue_of ht).trans (if_pos ⟨hst, hpass, by rw [hfirst]; exact Bool.false_ne_true⟩))
  case keeps =>
    intro inst t s _ ht hno
    refine exec_full_stays rfl ((revisionIssue_of ht).trans (if_neg ?_))
    rintro ⟨hst, hpass, -⟩
    obtain hst' | ⟨hhold, hforced⟩ := hno
    · exact hst' hst
    · rw [hhold, hforced] at hpass
      exact hpass.elim Bool.false_ne_true Bool.false_ne_true
  case twFound =>
    intro who t s hs hv ht
    refine completes_served rfl hv ?_
    rw [← rd64_accessed who, ← accessed_mkt who s]
    exact twOpen_found (by rw [tabOf_accessed, rd64_accessed, ht]) (accessed_tables who s hs)
  case twMissing =>
    intro who s hs hv ht
    refine completes_served rfl hv ?_
    rw [← accessed_mkt who s]
    exact twOpen_missing (by rw [tabOf_accessed, rd64_accessed, ht]) (accessed_tables who s hs)
  case twAbort =>
    intro who s hv hopen
    exact completes_served rfl hv ⟨abort_accessed (w := .tableau) hopen, abort_mkt⟩
  case ribFound =>
    intro who s hs hv hb
    refine completes_served rfl hv ?_
    rw [← rd64_accessed who, ← ribFrom_accessed who, ← accessed_mkt who s]
    exact ribOpen_found (by rw [ribFrom_accessed, rd64_accessed]; exact hb) (accessed_tables who s hs)
  case ribMissing =>
    intro who s hs hv hb
    refine completes_served rfl hv ?_
    rw [← accessed_mkt who s]
    exact ribOpen_missing (by rw [ribFrom_accessed, rd64_accessed]; exact hb) (accessed_tables who s hs)
  case ribAbort =>
    intro who s hv hopen
    exact completes_served rfl hv ⟨abort_accessed (w := .ribbon) hopen, abort_mkt⟩

/-! The adaptive bells (R127 to R130). -/

theorem clsLoad_count {s : State} (hs : TablesWf s) :
    rd (clsLoad s) MKT_CLS_COUNT = wordOf (tget ({} : ClassHist) s.mkt.hist (rdF s MKT_CLS_IDX 0 3)).count := by
  unfold clsLoad
  refine (foldl_keep (fun u => rd u MKT_CLS_COUNT) _ _ _ (fun u j => rd_wr_ne _ _ _ _ ?_)).trans (rd_wr_same _ _ _ hs)
  simp only [MKT_CLS_HIST, MKT_CLS_COUNT, ne_eq]
  omega

theorem bellWrite_fixed {k v : Nat} {s : State} (h : adaptive s k = false) : bellWrite k v s = s := if_pos (by rw [h]; rfl)

/-- The code of a bell's clamp: 1 at the lower limit, 2 at the upper, else 0. -/
def clampCode (lo hi v : Nat) : Nat := if v < lo then 1 else if hi < v then 2 else 0

/-- The registers of a bell that is written: the clamped value and the code of its clamp. -/
def bellSet (k v : Nat) (s : State) : State :=
  wrF (MKT_CLS_STAT k) 16 2 (clampCode (rdF s (MKT_CLS_LIM k) 0 16) (rdF s (MKT_CLS_LIM k) 16 16) v)
    (wr (MKT_CLS_BELL k) (wordOf (clampNat (rdF s (MKT_CLS_LIM k) 0 16) (rdF s (MKT_CLS_LIM k) 16 16) v)) s)

theorem bellWrite_adaptive {k v : Nat} {s : State} (h : adaptive s k = true) : bellWrite k v s =
    if clampCode (rdF s (MKT_CLS_LIM k) 0 16) (rdF s (MKT_CLS_LIM k) 16 16) v = 0 then bellSet k v s
    else raise MKT_INT 0 (bellSet k v s) := if_neg (by rw [h]; decide)

theorem bellWrite_within_limits {k v : Nat} {s : State} (h : adaptive s k = true) (hlo : rdF s (MKT_CLS_LIM k) 0 16 ≤ v)
    (hhi : v ≤ rdF s (MKT_CLS_LIM k) 16 16) (hs : TablesWf s) : rdF (bellWrite k v s) (MKT_CLS_STAT k) 16 2 = 0 := by
  have hcode : clampCode (rdF s (MKT_CLS_LIM k) 0 16) (rdF s (MKT_CLS_LIM k) 16 16) v = 0 :=
    (if_neg (Nat.not_lt.mpr hlo)).trans (if_neg (Nat.not_lt.mpr hhi))
  rw [bellWrite_adaptive h, if_pos hcode, bellSet, hcode]
  exact rdF_wrF_self (wr_tables hs)

theorem bellWrite_clamps {k v : Nat} {s : State} (h : adaptive s k = true)
    (hout : v < rdF s (MKT_CLS_LIM k) 0 16 ∨ rdF s (MKT_CLS_LIM k) 16 16 < v) (hs : TablesWf s) :
    rdB (bellWrite k v s) MKT_INT 0 = true := by
  have hcode : clampCode (rdF s (MKT_CLS_LIM k) 0 16) (rdF s (MKT_CLS_LIM k) 16 16) v ≠ 0 := by
    unfold clampCode
    split
    · decide
    · next hlo => rw [if_pos (hout.resolve_left hlo)]; decide
  rw [bellWrite_adaptive h, if_neg hcode]
  exact rdB_raise_self (wr_tables (wr_tables hs)) (by decide) (by decide)

theorem clampNat_inside {lo hi v : Nat} (hlo : lo ≤ v) (hhi : v ≤ hi) : clampNat lo hi v = v :=
  (if_neg (Nat.not_lt.mpr hlo)).trans (if_neg (Nat.not_lt.mpr hhi))

theorem clampNat_below {lo hi v : Nat} (h : v < lo) : clampNat lo hi v = lo := if_pos h

theorem clampNat_above {lo hi v : Nat} (hlim : lo ≤ hi) (h : hi < v) : clampNat lo hi v = hi :=
  (if_neg (by omega)).trans (if_pos h)

/-- The class with its histogram loaded and the learning noted. -/
def learned (k : Nat) (s : State) : State :=
  clsLoad (wr MKT_CLS_IDX (wordOf k) { s with mkt := { s.mkt with learnAt := tset 0 s.mkt.learnAt k s.ticks } })

theorem learned_mkt (k : Nat) (s : State) : (learned k s).mkt = { s.mkt with learnAt := tset 0 s.mkt.learnAt k s.ticks } := clsLoad_mkt _

theorem learned_tables {k : Nat} {s : State} (hs : TablesWf s) : TablesWf (learned k s) :=
  clsLoad_tw (wr_tables (tables_of_eq hs rfl rfl))

theorem rd_learned {k a : Nat} {s : State} (h : a < MKT_CLS_IDX) : rd (learned k s) a = rd s a := by
  have hlow : MKT_CLS_IDX < MKT_CLS_COUNT := by decide
  unfold learned
  rw [clsLoad_rd _ _ (h.trans hlow), rd_wr_ne _ _ _ _ (Nat.ne_of_lt h)]
  rfl

theorem bellLearn_due {k : Nat} {s : State} (ha : adaptive s k = true) (hrun : s.deck.st = .run) (hpath : s.boot.dataPath = true)
    (hdue : learnDue s k = true) : bellLearn k s =
    if (tget ({} : ClassHist) (learned k s).mkt.hist k).count < 1000 then learned k s
    else bellWrite k (divUp (percentile (tget ({} : ClassHist) (learned k s).mkt.hist k).bins
        (rdF (learned k s) (MKT_CLS_LIM k) 16 16 * (100000 * 2 ^ 10)) +
      rdF (learned k s) (MKT_CLS_LEARN k) 0 16 * (100000 * 2 ^ 10)) (100000 * 2 ^ 10)) (learned k s) :=
  if_neg (by rw [ha, hrun, hpath, hdue]; decide)

theorem classRegs_low (k : Fin 8) : MKT_CLS_BELL k.val < MKT_CLS_IDX ∧ MKT_CLS_LIM k.val < MKT_CLS_IDX ∧
    MKT_CLS_LEARN k.val < MKT_CLS_IDX ∧ MKT_CLS_STAT k.val < MKT_CLS_IDX := by
  have := k.isLt
  simp only [MKT_CLS_BELL, MKT_CLS_LIM, MKT_CLS_LEARN, MKT_CLS_STAT, MKT_CLS_IDX]
  omega

theorem adaptive_accessed (who : Req) (s : State) (k : Nat) : adaptive (accessed who s) k = adaptive s k := by cases who <;> rfl

/-- Settles O20: a written bell by its limits, and a learned one by the count of its class. -/
theorem marketBells : Obligations.MarketBells := by
  unfold Obligations.MarketBells
  refine ⟨?inside, ?below, ?above, ?fixed, ?load, ?clear, ?few, ?many, ?stays, ?snapshot⟩
  case inside =>
    intro who k v s hs hv ha hlo hhi
    have hst : TablesWf (accessed who s) := accessed_tables who s hs
    have ha' : adaptive (accessed who s) k.val = true := (adaptive_accessed who s k.val).trans ha
    refine completes_served rfl hv ⟨?_, ?_⟩
    · rw [bellWrite_bell k v.toNat _ hst ha', rdF_accessed, rdF_accessed, clampNat_inside hlo hhi]
    · exact bellWrite_within_limits ha' (by rw [rdF_accessed]; exact hlo) (by rw [rdF_accessed]; exact hhi) hst
  case below =>
    intro who k v s hs hv ha hlo
    have hst : TablesWf (accessed who s) := accessed_tables who s hs
    have ha' : adaptive (accessed who s) k.val = true := (adaptive_accessed who s k.val).trans ha
    refine completes_served rfl hv ⟨?_, ?_⟩
    · rw [bellWrite_bell k v.toNat _ hst ha', rdF_accessed, rdF_accessed, clampNat_below hlo]
    · exact bellWrite_clamps ha' (.inl (by rw [rdF_accessed]; exact hlo)) hst
  case above =>
    intro who k v s hs hv ha hlim hhi
    have hst : TablesWf (accessed who s) := accessed_tables who s hs
    have ha' : adaptive (accessed who s) k.val = true := (adaptive_accessed who s k.val).trans ha
    refine completes_served rfl hv ⟨?_, ?_⟩
    · rw [bellWrite_bell k v.toNat _ hst ha', rdF_accessed, rdF_accessed, clampNat_above hlim hhi]
    · exact bellWrite_clamps ha' (.inr (by rw [rdF_accessed]; exact hhi)) hst
  case fixed =>
    intro who k v s hv ha
    exact completes_served rfl hv (bellWrite_fixed ((adaptive_accessed who s k.val).trans ha))
  case load =>
    intro who s hs hv
    refine completes_served rfl hv ⟨?_, (clsLoad_mkt _).trans (accessed_mkt who s)⟩
    rw [← accessed_mkt who s, ← rdF_accessed who s]
    exact clsLoad_count (accessed_tables who s hs)
  case clear =>
    intro who s hv
    refine completes_served rfl hv ((clsLoad_mkt _).trans ?_)
    cases who <;> rfl
  case few =>
    intro k s hs hp ha hrun hpath hdue hcount
    obtain ⟨hbell, -, -, -⟩ := classRegs_low k
    refine completes_full rfl hp ?_
    rw [bellLearn_due ha hrun hpath hdue, learned_mkt, if_pos hcount]
    refine ⟨?_, congrArg Market.learnAt (learned_mkt k.val s), rd_learned hbell⟩
    exact (clsLoad_rd _ _ (by decide)).trans (rd_wr_same _ _ _ (tables_of_eq hs rfl rfl))
  case many =>
    intro k h s hs hp ha hrun hpath hdue hh hcount
    obtain ⟨-, hlim, hlearn, hstat⟩ := classRegs_low k
    have ha' : adaptive (learned k.val s) k.val = true := (congrArg (bitAt · 15) (rd_learned hstat)).trans ha
    have hlims : ∀ lo n, rdF (learned k.val s) (MKT_CLS_LIM k.val) lo n = rdF s (MKT_CLS_LIM k.val) lo n := fun lo n =>
      congrArg (field · lo n) (rd_learned hlim)
    have hmargin : rdF (learned k.val s) (MKT_CLS_LEARN k.val) 0 16 = rdF s (MKT_CLS_LEARN k.val) 0 16 :=
      congrArg (field · 0 16) (rd_learned hlearn)
    refine completes_full rfl hp ?_
    rw [bellLearn_due ha hrun hpath hdue, learned_mkt, ← hh, if_neg (Nat.not_lt.mpr hcount),
      bellWrite_bell k _ _ (learned_tables hs) ha', hlims, hlims, hmargin]
  case stays =>
    intro k s _ hno
    refine exec_full_stays rfl (if_pos ?_)
    obtain ha | hrun | hdue := hno
    · exact .inl (by rw [ha]; rfl)
    · exact .inr (.inl hrun)
    · exact .inr (.inr (.inr (by rw [hdue]; rfl)))
  case snapshot =>
    intro who clr s hs hv
    refine completes_served rfl hv ⟨rdB_raise_snapshot (accessed_tables who s hs), ?_⟩
    exact (raise_mkt _ _ _).trans (((snapshot_within _ _ _ _ _ (Within.refl _) (List.Subset.refl _)).of .mkt).trans (accessed_mkt who s))

end Sys2Proof.Machine
end

section
/-!
PROOFS of the family other: SYNC and settling of the Scales (O21), their outputs and estimates (O22), and their calibration (O23).
-/

namespace Sys2Proof.Machine

open Sys2Proof

/-! SYNC and settling (R158 to R161). -/

theorem channelStat_ne {ch : Fin 24} {a : Nat} (h : a < 0x30104) : SCL_CH_STAT ch.val ≠ a := by
  simp only [SCL_CH_STAT, ne_eq]
  omega

theorem channelStat_ne_CTL_INT (ch : Fin 24) : SCL_CH_STAT ch.val ≠ CTL_INT := by
  have := ch.isLt
  simp only [SCL_CH_STAT, CTL_INT, ne_eq]
  omega

theorem syncChans_tai (s : State) : (forUpTo 24 syncChan s).tai = s.tai :=
  foldl_keep State.tai _ _ s fun u ch => (syncChan_within ch u (Within.refl u) (List.Subset.refl _)).of .tai

theorem syncChans_tables {s : State} (hs : TablesWf s) : TablesWf (forUpTo 24 syncChan s) :=
  ((Keeps.refl s).forUpTo fun ch u => syncChan_keeps ch u (Keeps.refl u)).tables hs

/-- The decimators restarted and SCL_STATUS told of the SYNC. -/
def synced (s : State) : State :=
  let t := forUpTo 24 syncChan s
  wrF SCL_STATUS 4 2 (syncSource t (t.scales.syncReq.map (fun r => r.1))) (setStat SCL_STATUS 1 true t)

/-- The SYNC stamped with the Mast's time. -/
def syncStamped (s : State) : State :=
  wr SCL_SYNC_SEC (loWord (taiSec (synced s))) (wr SCL_SYNC_NS (wordOf (taiNs (synced s))) (synced s))

theorem syncApply_requested {s : State} (h : s.scales.syncReq ≠ []) :
    syncApply s = raise SCL_INT 0 (drawFree (setScales (fun x => { x with syncReq := [] }) (syncStamped s))) := if_neg h

theorem setStat_tables {a k : Nat} {b : Bool} {s : State} (hs : TablesWf s) : TablesWf (setStat a k b s) := wr_tables hs

theorem synced_tables {s : State} (hs : TablesWf s) : TablesWf (synced s) := wr_tables (setStat_tables (syncChans_tables hs))

theorem synced_time (s : State) : taiSec (synced s) = taiSec s ∧ taiNs (synced s) = taiNs s := by
  have htai : (synced s).tai = s.tai := syncChans_tai s
  rw [taiSec, taiNs, htai]
  exact ⟨rfl, rfl⟩

theorem synced_known {s : State} (hs : TablesWf s) : rdB (synced s) SCL_STATUS 1 = true := by
  unfold synced
  dsimp only
  rw [rdB_wrF_apart (setStat_tables (syncChans_tables hs)) (by decide) (by decide)]
  exact rdB_setStat_self (syncChans_tables hs)

theorem settlingEnd_done {ch : Nat} {s : State} (hset : rdB s (SCL_CH_STAT ch) 0 = true) (hdone : settleDone s ch = true) :
    settlingEnd ch s = if rdB (settleStatus (setStat (SCL_CH_STAT ch) 0 false s)) SCL_STATUS 2 then
        settleStatus (setStat (SCL_CH_STAT ch) 0 false s)
      else raise SCL_INT 1 (settleStatus (setStat (SCL_CH_STAT ch) 0 false s)) := if_pos (by rw [hset, hdone]; rfl)

theorem settleStatus_tables {s : State} (hs : TablesWf s) : TablesWf (settleStatus s) := wr_tables hs

theorem startSettling_settles {ch : Fin 24} {s : State} (hs : TablesWf s) : rdB (startSettling ch.val s) (SCL_CH_STAT ch.val) 0 = true :=
  (rdB_setStat_other (channelStat_ne (by decide))).trans (rdB_setStat_self (tables_of_eq hs rfl rfl))

theorem startSettling_dead {ch : Fin 24} {s : State} (hs : TablesWf s) :
    rdB (startSettling ch.val s) (SCL_CH_STAT ch.val) 2 = rdB s (SCL_CH_STAT ch.val) 2 :=
  (rdB_setStat_other (channelStat_ne (by decide))).trans (rdB_setStat_bit (tables_of_eq hs rfl rfl))

/-- Settles O21: the requests and the application of a SYNC, a channel's settling and supervision, and the SYNC at the first lock. -/
theorem scalesSync : Obligations.ScalesSync := by
  unfold Obligations.ScalesSync
  refine ⟨?edge, ?disabled, ?go, ?applies, ?none, ?lastSettled, ?settled, ?settles, ?dead, ?off, ?revives, ?alive, ?stores,
    ?fallsBack, ?stored⟩
  case edge =>
    intro rising s hp hen hpol
    exact exec_powered_eq hp rfl (if_pos (by rw [hen, decide_eq_true hpol]; rfl))
  case disabled =>
    intro rising s _ hen
    exact exec_powered_stays rfl (if_neg (by rw [hen]; exact Bool.false_ne_true))
  case go =>
    intro who s hv
    refine completes_served rfl hv ?_
    cases who <;> exact ⟨rfl, rfl⟩
  case applies =>
    intro s hs hp hreq
    have hsync := synced_tables hs
    obtain ⟨hsec, hns⟩ := synced_time s
    refine completes_powered rfl hp ?_
    have hstamped : TablesWf (syncStamped s) := wr_tables (wr_tables hsync)
    rw [syncApply_requested hreq, rd_raise_ne _ _ _ _ (by decide) (by decide), rd_raise_ne _ _ _ _ (by decide) (by decide),
      rdB_raise_other (b := SCL_STATUS)]
    refine ⟨(congrArg Scales.syncReq (raise_scales _ _ _)).trans rfl, ?_, ?_, rdB_raise_self (tables_of_eq hstamped rfl rfl)
      (by decide) (by decide), ?_⟩
    · rw [← hsec]
      exact rd_wr_same _ _ _ (wr_tables hsync)
    · rw [← hns]
      exact (rd_wr_ne _ _ _ _ (by decide)).trans (rd_wr_same _ _ _ hsync)
    · exact (rdB_wr_other (b := SCL_STATUS)).trans ((rdB_wr_other (b := SCL_STATUS)).trans (synced_known hs))
  case none =>
    intro s _ hreq
    exact exec_powered_stays rfl (if_pos hreq)
  case lastSettled =>
    intro ch s hs hp hset hdone hlast
    refine completes_powered rfl hp ?_
    rw [settlingEnd_done hset hdone, if_neg (by rw [hlast]; exact Bool.false_ne_true)]
    exact ⟨rdB_raise_self (settleStatus_tables (wr_tables hs)) (by decide) (by decide), raise_scales _ _ _⟩
  case settled =>
    intro ch s hp hset hdone hmore
    exact exec_powered_eq hp rfl ((settlingEnd_done hset hdone).trans (if_pos hmore))
  case settles =>
    intro ch s _ hno
    refine exec_powered_stays rfl (if_neg ?_)
    rw [Bool.and_eq_true]
    rintro ⟨hset, hdone⟩
    exact hno.elim (fun h => Bool.false_ne_true (h.symm.trans hset)) fun h => Bool.false_ne_true (h.symm.trans hdone)
  case dead =>
    intro ch s hs hp hen hlive
    refine completes_powered rfl hp ?_
    rw [channelDead, if_pos (by rw [chEnabled, hen, hlive]; rfl), rdB_raise_other (channelStat_ne (by decide)) (channelStat_ne_CTL_INT ch),
      rdB_raise_other (channelStat_ne (by decide)) (channelStat_ne_CTL_INT ch)]
    exact ⟨(rdB_setStat_bit (wr_tables hs)).trans (rdB_setStat_self hs), rdB_setStat_self (wr_tables hs),
      rdB_raise_self (wr_tables (wr_tables hs)) (by decide) (by decide)⟩
  case off =>
    intro ch s _ hen
    exact exec_powered_stays rfl (if_neg (by rw [chEnabled, hen]; exact Bool.false_ne_true))
  case revives =>
    intro ch s hs hp hdead
    refine completes_powered rfl hp ?_
    rw [if_pos hdead]
    exact ⟨(startSettling_dead (wr_tables hs)).trans (rdB_setStat_self hs), startSettling_settles (wr_tables hs)⟩
  case alive =>
    intro ch s _ hlive
    exact exec_powered_stays rfl (if_neg (by rw [hlive]; exact Bool.false_ne_true))
  case stores =>
    intro s hp hlock hnot hrun
    refine completes_powered rfl hp ?_
    rw [bootSyncStore, if_pos ⟨hlock, by rw [hnot]; exact Bool.false_ne_true, hrun⟩]
    exact ⟨rfl, rfl⟩
  case fallsBack =>
    intro s hp hok hlock hnot hfirst hrun
    exact exec_powered_eq hp rfl (if_pos ⟨hok, hlock, by rw [hnot]; exact Bool.false_ne_true, by rw [hfirst]; exact Bool.false_ne_true, hrun⟩)
  case stored =>
    intro s _ hdone
    exact ⟨exec_powered_stays rfl (if_neg fun h => h.2.1 hdone), exec_powered_stays rfl (if_neg fun h => h.2.2.1 hdone)⟩

/-! Outputs and estimates (R157, R173, R176). -/

section
variable {i inst : Nat} {c : LsCfg} {sc : StreamCfg} {s : State}
  (hc : (s.cfg.scales.ls.find? (fun p => decide (p.1 = i))).map (fun p => p.2) = some c) (hsc : streamCfg s (lsStream s i) = some sc)

/-- An instant that is not estimated: seen, or of a skipped span, or with its latency still running. -/
def estimateWaits (s : State) (c : LsCfg) (i inst : Nat) : Bool :=
  (match tget none s.scales.lsLast i with
    | some l => decide (inst ≤ l)
    | none => false) || inSkipped s (gridTime (atLeast 1 s.cfg.tabRate) inst) ||
    decide (s.tai < gridTime (atLeast 1 s.cfg.tabRate) inst + lsLatency s c)

include hc hsc in
theorem estimate_waits (h : estimateWaits s c i inst = true) : estimate i inst s = s := by
  unfold estimate
  rw [hc, hsc]
  exact if_pos h

include hc hsc in
theorem estimate_done (h : estimateWaits s c i inst = false) :
    (estimate i inst s).scales.lsLast =
        tset none (lsSettle c (gridTime (atLeast 1 s.cfg.tabRate) inst) s).scales.lsLast i (some inst) ∧
      (estimate i inst s).ing.handoff = (lsSettle c (gridTime (atLeast 1 s.cfg.tabRate) inst) s).ing.handoff ++
        [(lsStream s i, inst, lsSlot (lsSettle c (gridTime (atLeast 1 s.cfg.tabRate) inst) s) c inst
          (gridTime (atLeast 1 s.cfg.tabRate) inst))] := by
  have hready : ¬ estimateWaits s c i inst = true := by rw [h]; exact Bool.false_ne_true
  unfold estimate
  rw [hc, hsc]
  exact ⟨(congrArg (fun t : State => t.scales.lsLast) (if_neg hready)).trans rfl,
    (congrArg (fun t : State => t.ing.handoff) (if_neg hready)).trans rfl⟩

end

/-- Settles O22: an output runs through its channel, and an estimate is made once its latency has passed. -/
theorem scalesOutputs : Obligations.ScalesOutputs := by
  unfold Obligations.ScalesOutputs
  refine ⟨?runs, ?length, ?off, ?seen, ?skipped, ?early, ?estimates⟩
  case runs =>
    intro ch bits s hp hen hon hlen
    exact exec_powered_eq hp rfl (if_pos (by rw [chEnabled, hen, hon, decide_eq_true hlen]; rfl))
  case length =>
    intro ch bits s _ hlen
    exact exec_powered_stays rfl (if_neg (by rw [decide_eq_false hlen, Bool.and_false]; exact Bool.false_ne_true))
  case off =>
    intro ch bits s _ hen
    exact exec_powered_stays rfl (if_neg (by rw [chEnabled, hen]; exact Bool.false_ne_true))
  case seen =>
    intro i inst l c sc s _ hc hsc hlast hle
    refine exec_powered_stays rfl (estimate_waits hc hsc ?_)
    rw [estimateWaits, hlast]
    dsimp only
    rw [decide_eq_true hle]
    rfl
  case skipped =>
    intro i inst c sc s _ hc hsc hskip
    exact exec_powered_stays rfl (estimate_waits hc hsc (by rw [estimateWaits, hskip, Bool.or_true]; rfl))
  case early =>
    intro i inst c sc s _ hc hsc hlat
    exact exec_powered_stays rfl (estimate_waits hc hsc (by rw [estimateWaits, decide_eq_true hlat, Bool.or_true]))
  case estimates =>
    intro i inst c sc s u hp hc hsc hnew hskip hlat hu
    subst hu
    refine completes_powered rfl hp (estimate_done hc hsc ?_)
    rw [estimateWaits, hskip, decide_eq_false (Nat.not_lt.mpr hlat)]
    cases hlast : tget none s.scales.lsLast i.val with
    | none => rfl
    | some l =>
      rw [hlast, Option.all_some, decide_eq_true_eq] at hnew
      exact congrArg (· || false || false) (decide_eq_false (Nat.not_le.mpr hnew))

/-! User calibration and the factory words (R165, R168). -/

theorem calApply_locked {mask : Nat} {s : State} (h : rdB s SCL_CFG 2 = true) :
    calApply mask s = raise SCL_INT 7 (wrF SCL_CAL_STAT 1 1 1 s) := if_pos h

/-- An APPLY that is not refused: every channel of the mask takes its set or waits for its output. -/
theorem calApply_takes {mask : Nat} {s : State} (h : rdB s SCL_CFG 2 = false) : calApply mask s =
    calBusy (forUpTo 24 (fun ch u => if mask.testBit ch then
      (if chEnabled u ch then setChan ch { chan u ch with take := true } u else applyUser ch u) else u)
        (wrF SCL_CAL_STAT 1 1 0 s)) := if_neg (by rw [ucalLocked, h]; exact Bool.false_ne_true)

theorem calApply_empty {s : State} (h : rdB s SCL_CFG 2 = false) : calApply 0 s = calBusy (wrF SCL_CAL_STAT 1 1 0 s) := by
  rw [calApply_takes h]
  exact congrArg calBusy (foldl_keep id _ _ _ fun u ch => if_neg (by rw [Nat.zero_testBit]; exact Bool.false_ne_true))

/-- An APPLY with no channel waiting is carried out. -/
theorem exec_calApply {who : Req} {mask : BitVec 24} {s : State} (hv : Served who SCL_CAL_APPLY s) (hfree : rdB s SCL_CAL_STAT 0 = false) :
    exec (.calApply who mask) s = .next (calApply mask.toNat (accessed who s)) :=
  exec_served_eq (f := fun t => if rdB t SCL_CAL_STAT 0 then holdWrite (.calApply who mask) who t else calApply mask.toNat t) hv rfl
    (if_neg (by rw [rdB_accessed, hfree]; exact Bool.false_ne_true))

theorem pqRefuse_facts {s : State} (hs : TablesWf s) :
    rdF (pqRefuse s) SCL_PQ_STAT 1 1 = 1 ∧ rdB (pqRefuse s) SCL_INT 7 = true ∧ (pqRefuse s).scales = s.scales :=
  ⟨(rdF_raise_other (b := SCL_PQ_STAT)).trans (rdF_wrF_self hs), rdB_raise_self (wr_tables hs) (by decide) (by decide),
    raise_scales _ _ _⟩

theorem pqStored_facts {s : State} (hs : TablesWf s) : rdB (pqStored s) SCL_INT 6 = true ∧ (pqStored s).scales = s.scales :=
  ⟨(rdB_logEvent_low (b := SCL_INT)).trans (rdB_raise_self (wr_tables hs) (by decide) (by decide)),
    (logEvent_scales _ _ _ _ _ _).trans (raise_scales _ _ _)⟩

/-- The two registers of a quantity show the correction `v`, and the Scales are as in `s`. -/
structure CorrectionShown (v : Word × Word) (s t : State) : Prop where
  mag : rd t SCL_PQ_MAG = v.1
  ph : rd t SCL_PQ_PH = v.2
  scales : t.scales = s.scales

theorem putPq_shows {v : Word × Word} {s : State} (hs : TablesWf s) : CorrectionShown v s (putPq v s) :=
  ⟨(rd_wr_ne _ _ _ _ (by decide)).trans (rd_wr_same _ _ _ hs), rd_wr_same _ _ _ (wr_tables hs), rfl⟩

theorem pqOf_accessed (who : Req) (s : State) (q : Nat) : pqOf (accessed who s) q = pqOf s q := by cases who <;> rfl

theorem svGainOf_accessed (who : Req) (s : State) (q : Nat) : svGainOf (accessed who s) q = svGainOf s q := by cases who <;> rfl

theorem svOfQty_accessed (who : Req) (s : State) (q : Nat) : svOfQty (accessed who s) q = svOfQty s q := by cases who <;> rfl

theorem pqIdx_accessed (who : Req) (s : State) : pqIdx (accessed who s) = rdF s SCL_PQ_IDX 0 10 := rdF_accessed who s _ _ _

theorem ucalLocked_accessed (who : Req) (s : State) : ucalLocked (accessed who s) = rdB s SCL_CFG 2 := rdB_accessed who s _ _

theorem pqStore_local {s : State} (hlock : ucalLocked s = false) (hq : pqIdx s < 24) : pqStore s =
    pqStored (setScales (fun x => { x with
      pq := tset (0x40000000#32, 0#32) x.pq (pqIdx s) (rd s SCL_PQ_MAG, rd s SCL_PQ_PH) }) s) :=
  (if_neg (by rw [hlock]; exact Bool.false_ne_true)).trans (if_pos (by rw [qtyExists, decide_eq_true hq]; rfl))

theorem svGainStore_sv {q : Nat × Nat} {s : State} (hlock : ucalLocked s = false) (hq : 24 ≤ pqIdx s)
    (hsv : svOfQty s (pqIdx s) = some q) : svGainStore s =
    pqStored (ucalSvPoints q.1 q.2 (setScales (fun x => { x with
      svGain := tset (0x40000000#32, 0#32) x.svGain (pqIdx s) (rd s SCL_PQ_MAG, rd s SCL_PQ_PH) }) s)) := by
  unfold svGainStore
  rw [if_neg (by rw [hlock]; exact Bool.false_ne_true), if_pos ⟨by rw [hsv, Option.isSome_some], hq⟩, hsv]

theorem ucalSvPoints_svGain (i ch : Nat) (s : State) : (ucalSvPoints i ch s).scales.svGain = s.scales.svGain := by
  refine foldl_keep (fun u => u.scales.svGain) _ _ s fun u k => ?_
  dsimp only
  split <;> rfl

theorem ucalSvPoints_tables {i ch : Nat} {s : State} (hs : TablesWf s) : TablesWf (ucalSvPoints i ch s) :=
  (ucalSvPoints_keeps i ch s (Keeps.refl s)).tables hs

theorem fcalLoad_word {ch k : Nat} {s : State} (hs : TablesWf s) (hk : k < 5) : rd (fcalLoad ch s) (SCL_FCAL_W k) = fcal s ch k := by
  have hwords : fcalLoad ch s = wrWords (SCL_FCAL_W 0) ((List.range 5).map (fcal s ch)) (wr SCL_FCAL_IDX (wordOf ch) s) := rfl
  have haddr : SCL_FCAL_W k = SCL_FCAL_W 0 + 4 * k := by simp only [SCL_FCAL_W]
  rw [hwords, haddr, rd_wrWords_word k (wr_tables hs) (by simpa using hk)]
  simp [hk]

theorem fcal_good {ch k : Nat} {s : State} (hch : ch ≤ 23) (hgood : rdB s SCL_FCAL_STAT 1 = false) :
    fcal s ch k = tget 0#32 s.till.calArea (5 * ch + k) :=
  (if_neg (Nat.not_lt.mpr hch)).trans (if_neg (by rw [fcalBad, hgood]; exact Bool.false_ne_true))

/-- Settles O23: the calibration commands under UCAL_LOCK and without it, and the factory words as they are kept. -/
theorem scalesCalibration : Obligations.ScalesCalibration := by
  unfold Obligations.ScalesCalibration
  refine ⟨?locked, ?empty, ?applies, ?pqLoad, ?pqLocked, ?pqStore, ?gainLoad, ?gainStore, ?gainLocked, ?factory⟩
  case locked =>
    intro who mask s hs hv hfree hlock
    have hst : TablesWf (accessed who s) := accessed_tables who s hs
    refine ⟨_, exec_calApply hv hfree, ?_⟩
    rw [calApply_locked (by rw [rdB_accessed, hlock])]
    exact ⟨(rdF_raise_other (b := SCL_CAL_STAT)).trans (rdF_wrF_self hst), rdB_raise_self (wr_tables hst) (by decide) (by decide),
      (raise_scales _ _ _).trans (accessed_scales who s)⟩
  case empty =>
    intro who mask s hv hfree hlock hmask
    rw [exec_calApply hv hfree, hmask]
    exact congrArg _ (calApply_empty (by rw [rdB_accessed, hlock]))
  case applies =>
    intro who mask s hv hfree hlock
    exact ⟨_, exec_calApply hv hfree, calApply_takes (by rw [rdB_accessed, hlock])⟩
  case pqLoad =>
    intro who s hs hv
    refine completes_served rfl hv ?_
    rw [pqIdx_accessed, pqOf_accessed]
    obtain ⟨hmag, hph, hscales⟩ := putPq_shows (v := pqOf s (rdF s SCL_PQ_IDX 0 10)) (accessed_tables who s hs)
    exact ⟨hmag, hph, hscales.trans (accessed_scales who s)⟩
  case pqLocked =>
    intro who s hs hv hlock
    refine completes_served rfl hv ?_
    rw [pqStore, if_pos (by rw [ucalLocked_accessed, hlock]), ← accessed_scales who s]
    exact pqRefuse_facts (accessed_tables who s hs)
  case pqStore =>
    intro who s hs hv hlock hq
    refine completes_served rfl hv ?_
    rw [pqStore_local (by rw [ucalLocked_accessed, hlock]) (by rw [pqIdx_accessed]; exact hq), pqIdx_accessed, rd_accessed, rd_accessed]
    obtain ⟨hint, hscales⟩ := pqStored_facts (s := setScales (fun x => { x with
      pq := tset (0x40000000#32, 0#32) x.pq (rdF s SCL_PQ_IDX 0 10) (rd s SCL_PQ_MAG, rd s SCL_PQ_PH) }) (accessed who s))
      (tables_of_eq (accessed_tables who s hs) rfl rfl)
    refine ⟨hint, hscales.trans ?_⟩
    rw [setScales, accessed_scales]
  case gainLoad =>
    intro who q s hs hv hq hsv
    refine completes_served rfl hv ?_
    rw [svGainLoad, if_pos ⟨by rw [pqIdx_accessed, svOfQty_accessed, hsv]; rfl, by rw [pqIdx_accessed]; exact hq⟩, pqIdx_accessed,
      svGainOf_accessed]
    obtain ⟨hmag, hph, hscales⟩ := putPq_shows (v := svGainOf s (rdF s SCL_PQ_IDX 0 10)) (accessed_tables who s hs)
    exact ⟨hmag, hph, hscales.trans (accessed_scales who s)⟩
  case gainStore =>
    intro who q s hs hv hlock hq hsv
    refine completes_served rfl hv ?_
    rw [svGainStore_sv (by rw [ucalLocked_accessed, hlock]) (by rw [pqIdx_accessed]; exact hq)
      (by rw [pqIdx_accessed, svOfQty_accessed, hsv]), pqIdx_accessed, rd_accessed, rd_accessed]
    obtain ⟨hint, hscales⟩ := pqStored_facts (ucalSvPoints_tables (i := q.1) (ch := q.2) (s := setScales (fun x => { x with
      svGain := tset (0x40000000#32, 0#32) x.svGain (rdF s SCL_PQ_IDX 0 10) (rd s SCL_PQ_MAG, rd s SCL_PQ_PH) }) (accessed who s))
      (tables_of_eq (accessed_tables who s hs) rfl rfl))
    refine ⟨hint, (congrArg Scales.svGain hscales).trans ((ucalSvPoints_svGain _ _ _).trans ?_)⟩
    rw [setScales, accessed_scales]
  case gainLocked =>
    intro who s hs hv hlock
    refine completes_served rfl hv ?_
    rw [svGainStore, if_pos (by rw [ucalLocked_accessed, hlock]), ← accessed_scales who s]
    exact pqRefuse_facts (accessed_tables who s hs)
  case factory =>
    intro who ch s hs hv hch hgood
    have hst : TablesWf (accessed who s) := accessed_tables who s hs
    refine completes_served rfl hv ?_
    rw [fcalLoad_word hst (by decide), fcalLoad_word hst (by decide), fcal_good hch (by rw [rdB_accessed, hgood]),
      fcal_good hch (by rw [rdB_accessed, hgood]), accessed_till]
    exact ⟨rfl, rfl⟩

end Sys2Proof.Machine
end

section
/-!
PROOFS of the family other: saves, interval ends, checks and snapshots of the energy metering (O24).
-/

namespace Sys2Proof.Machine

open Sys2Proof

/-! Saves (R193). -/

/-- The state in which a periodic save begins: its period restarted. -/
def saveNoted (s : State) : State := setEnergy (fun e => { e with saveAt := s.ticks }) s

theorem periodicSave_clear {ok : Bool} {s : State} (h : ∀ k, (meter s k).closing = none) :
    periodicSave ok s = energySave ok false (saveNoted s) := by
  have hclose : closeOverdue (saveNoted s) = saveNoted s := closeOverdue_none _ h
  have hnone : ((enabledPoints (saveNoted s)).any fun k => (meter (saveNoted s) k).closing.isSome) = false :=
    List.any_eq_false.mpr fun k _ => by rw [show (meter (saveNoted s) k).closing = none from h k]; exact Bool.false_ne_true
  have hsave : periodicSave ok s =
      if (enabledPoints (closeOverdue (saveNoted s))).any (fun k => (meter (closeOverdue (saveNoted s)) k).closing.isSome)
      then setEnergy (fun e => { e with saveDue := some ok }) (closeOverdue (saveNoted s))
      else energySave ok false (closeOverdue (saveNoted s)) := rfl
  rw [hsave, hclose, hnone]
  exact if_neg Bool.false_ne_true

theorem periodicSave_waits {ok : Bool} {k : Nat} {s : State} (hk : k ∈ enabledPoints s) (hc : (meter s k).closing.isSome = true)
    (h : ∀ j c, (meter s j).closing = some c → s.tai < c.wrap + taiSecUnit) :
    periodicSave ok s = setEnergy (fun e => { e with saveDue := some ok }) (saveNoted s) := by
  have hclose : closeOverdue (saveNoted s) = saveNoted s := closeOverdue_wait _ h
  have hsave : periodicSave ok s =
      if (enabledPoints (closeOverdue (saveNoted s))).any (fun k => (meter (closeOverdue (saveNoted s)) k).closing.isSome)
      then setEnergy (fun e => { e with saveDue := some ok }) (closeOverdue (saveNoted s))
      else energySave ok false (closeOverdue (saveNoted s)) := rfl
  rw [hsave, hclose]
  exact if_pos (List.any_eq_true.mpr ⟨k, hk, hc⟩)

/-- The slot that a save takes: the one that does not hold the newest good save. -/
def saveSlot (s : State) : Nat := ((newestSlot s).map (fun p => 1 - p.1)).getD 0

/-- The state in which a save is written: no request of one is left. -/
def saveBegun (s : State) : State := setEnergy (fun e => { e with saveDue := none }) (wrF SCL_EN_SAVE 12 1 0 s)

theorem saveSlot_eq {s t : State} (h : t.scales.en.saves = s.scales.en.saves) : saveSlot t = saveSlot s := by
  rw [saveSlot, newestSlot_eq h, saveSlot]

theorem saveBegun_content (b : Bool) (s : State) : saveContent b (saveBegun s) = saveContent b s :=
  saveContent_eq b rfl rfl rfl rfl (rd_wr_ne _ _ _ _ (by decide))

/-- A content written into a slot, with its sequence and slot shown. -/
def savePut (x : EnergySave) (slot : Nat) (s : State) : State :=
  setEnergy (fun e => { e with saves := tset none e.saves slot (some x) }) (wr SCL_EN_SAVE_STAT (wordOf (x.seq + 2 ^ 24 * slot)) (saveBegun s))

theorem isPair_savePut (x : EnergySave) (slot : Nat) (s : State) : isPair (savePut x slot s) = isPair s := by
  have hcfg : rd (savePut x slot s) SHR_CFG = rd s SHR_CFG := (rd_wr_ne _ _ _ _ (by decide)).trans (rd_wr_ne _ _ _ _ (by decide))
  exact congrArg (fun w => decide (field w 0 2 = 1)) hcfg

/-- A save that verifies, of a node without a pair. -/
theorem energySave_writes {s : State} (hledger : s.ledger.fail = false) (hpair : isPair s = false) :
    energySave true false s = savePut (saveContent false s) (saveSlot s) s := by
  have halone : ∀ x slot, ¬ isPair (savePut x slot s) = true := fun x slot => by
    rw [isPair_savePut, hpair]
    exact Bool.false_ne_true
  have hput : energySave true false s = savePut (saveContent false (saveBegun s))
      (match newestSlot (saveBegun s) with | some p => 1 - p.1 | none => 0) s := by
    unfold energySave
    exact (if_pos ⟨rfl, fun h => Bool.false_ne_true (hledger.symm.trans h)⟩).trans (if_neg (halone _ _))
  have hslot : (match newestSlot (saveBegun s) with | some p => 1 - p.1 | none => 0) = saveSlot s := by
    refine Eq.trans ?_ (saveSlot_eq (t := saveBegun s) rfl)
    unfold saveSlot
    cases newestSlot (saveBegun s) <;> rfl
  rw [hput, hslot, saveBegun_content]

theorem energySave_fails {s : State} (hs : TablesWf s) :
    rdF (energySave false false s) SCL_EN_SAVE_STAT 25 1 = 1 ∧ rdB (energySave false false s) SCL_EN_INT 5 = true := by
  unfold energySave
  dsimp only
  rw [if_neg fun h => Bool.false_ne_true h.1]
  have hput : TablesWf (wrF SCL_EN_SAVE 12 1 0 s) := wr_tables hs
  split
  · exact ⟨(rdF_raise_other (b := SCL_EN_SAVE_STAT)).trans (rdF_wrF_self (tables_of_eq hput rfl rfl)),
      rdB_raise_self (wr_tables (tables_of_eq hput rfl rfl)) (by decide) (by decide)⟩
  · exact ⟨(rdF_raise_other (b := SCL_EN_SAVE_STAT)).trans (rdF_wrF_self (tables_of_eq hput rfl rfl)),
      rdB_raise_self (wr_tables (tables_of_eq hput rfl rfl)) (by decide) (by decide)⟩

theorem completes_periodicSave {ok : Bool} {s : State} {P : State → Prop} (hp : s.power.st ≠ .furled) (hon : rdB s SCL_EN_STATUS 0 = true)
    (hdue : s.scales.en.saveAt + savePeriod s * 250000000 ≤ s.ticks) (h : P (periodicSave ok s)) : Completes (.energySave ok) s P :=
  completes_powered rfl hp (by rw [if_pos ⟨hon, hdue⟩]; exact h)

/-! Ampere-hours and snapshots (R185, R196). -/

theorem ahPeriod_settled {s : State} (h : s.scales.en.reefPend = false) : ahPeriod s =
    if enReefed s ∧ ¬ s.ledger.fail ∧ s.scales.en.ahAt + 250000000 ≤ s.ticks then ahSave s else s := by
  have hsettled : reefSettle s = s := if_neg (by rw [h]; exact Bool.false_ne_true)
  unfold ahPeriod
  rw [hsettled]

theorem ahSave_writes (s : State) : (ahSave s).scales.en.ahAt = s.ticks ∧
    (ahSave s).scales.en.ahSaves = tset none s.scales.en.ahSaves (((newestAh s).map (fun a => a.seq + 1)).getD 0 % 2)
      (some { seq := ((newestAh s).map (fun a => a.seq + 1)).getD 0 % 2 ^ 32, start := s.scales.en.lastMean,
              spanMs := tagUs s.scales.en.reefAt s.tai / 1000, counts := (enabledPoints s).map (fun k => (k, (meter s k).ah)) }) := by
  unfold ahSave
  cases newestAh s <;> exact ⟨rfl, rfl⟩

theorem snapPoints_keep {s : State} : Keeps s (forUpTo 8 (fun k u => snapPoint u k) s) :=
  (Keeps.refl s).forUpTo fun k u => snapPoint_keeps u k (Keeps.refl u)

/-- A snapshot of the metering of `s` is announced with the tag of its last sample. -/
structure EnergyShown (s t : State) : Prop where
  int : rdB t SCL_EN_INT 7 = true
  tag : rd t SCL_EN_SNAP_NS = wordOf (tagNs s.scales.en.lastTag)
  scales : t.scales = s.scales

theorem energySnapshot_shows {s : State} (hs : TablesWf s) : EnergyShown s (energySnapshot s) := by
  have hpoints := snapPoints_keep.tables hs
  refine ⟨rdB_raise_self (wr_tables (wr_tables (wr_tables hpoints))) (by decide) (by decide), ?_,
    (energySnapshot_within s (Within.refl s) (List.Subset.refl _)).of .scales⟩
  exact (rd_raise_ne _ _ _ _ (by decide) (by decide)).trans ((rd_wr_ne _ _ _ _ (by decide)).trans
    ((rd_wr_ne _ _ _ _ (by decide)).trans (rd_wr_same _ _ _ hpoints)))

/-- Settles O24: a save by its period, its intervals and its slot, and the other commands of the metering. -/
theorem energyCommands : Obligations.EnergyCommands := by
  unfold Obligations.EnergyCommands
  refine ⟨?saves, ?early, ?fails, ?waits, ?now, ?ends, ?off, ?checks, ?checked, ?ampereHours, ?noAmpereHours, ?snapshot⟩
  case saves =>
    intro s hs hp hon hledger hpair hdue hclosed
    refine completes_periodicSave hp hon hdue ?_
    have hcontent : saveContent false (saveNoted s) = saveContent false s := saveContent_eq false rfl rfl rfl rfl rfl
    have hslot : saveSlot (saveNoted s) = saveSlot s := saveSlot_eq rfl
    rw [periodicSave_clear hclosed, energySave_writes (s := saveNoted s) hledger hpair, hcontent, hslot]
    exact ⟨rfl, rfl, rd_wr_same _ _ _ (tables_of_eq (wr_tables (tables_of_eq hs rfl rfl)) rfl rfl)⟩
  case early =>
    intro ok s _ hno
    refine exec_powered_stays rfl (if_neg ?_)
    rintro ⟨hon, hdue⟩
    exact hno.elim (fun h => Bool.false_ne_true (h.symm.trans hon)) fun h => Nat.not_lt.mpr hdue h
  case fails =>
    intro s hs hp hon hdue hclosed
    refine completes_periodicSave hp hon hdue ?_
    rw [periodicSave_clear hclosed]
    exact energySave_fails (tables_of_eq hs rfl rfl)
  case waits =>
    intro k ok s hp hon hdue hk hc hwait
    refine completes_periodicSave hp hon hdue ?_
    rw [periodicSave_waits hk hc hwait]
    exact ⟨rfl, rfl⟩
  case now =>
    intro who s hs hv
    exact completes_served rfl hv ⟨rdF_wrF_self (accessed_tables who s hs), accessed_scales who s⟩
  case ends =>
    intro s hp hon
    exact exec_powered_eq hp rfl (if_pos hon)
  case off =>
    intro s _ hoff
    exact exec_powered_stays rfl (if_neg (by rw [metering, hoff]; exact Bool.false_ne_true))
  case checks =>
    intro s hp hnew
    exact exec_powered_eq hp rfl (if_neg hnew)
  case checked =>
    intro s _ hsame
    exact exec_powered_stays rfl (if_pos hsame)
  case ampereHours =>
    intro s hp hpend hreef hledger hdue
    refine completes_powered rfl hp ?_
    rw [ahPeriod_settled hpend, if_pos ⟨hreef, by rw [hledger]; exact Bool.false_ne_true, hdue⟩]
    exact ahSave_writes s
  case noAmpereHours =>
    intro s _ hpend hno
    refine exec_powered_stays rfl ((ahPeriod_settled hpend).trans (if_neg ?_))
    rintro ⟨hreef, -, hdue⟩
    exact hno.elim (fun h => Bool.false_ne_true (h.symm.trans hreef)) fun h => Nat.not_lt.mpr hdue h
  case snapshot =>
    intro who s hs hv
    refine completes_served rfl hv ?_
    obtain ⟨hint, htag, hscales⟩ := energySnapshot_shows (accessed_tables who s hs)
    exact ⟨hint, htag.trans (congrArg (fun x : Scales => wordOf (tagNs x.en.lastTag)) (accessed_scales who s)),
      hscales.trans (accessed_scales who s)⟩

end Sys2Proof.Machine
end

section
/-!
PROOFS of the family other: the inputs and bell lines of the capture (O25), its control and its records (O26).
-/

namespace Sys2Proof.Machine

open Sys2Proof

/-! Record samples and binary inputs (R203, R210). -/

section
variable {drained k tag : Nat} {s : State}

theorem capSample_next (h : capNext s = some (k, tag)) : capSample drained s =
    if (s.cap.reefed && !rdB s CAP_CFG 10) || ((capRow s tag).missing && !capWaited s tag) then s
    else capTake drained (capRow s tag) { s with cap := { s.cap with taken := k, svFrom := some tag } } := by
  unfold capSample
  rw [h]
  rfl

theorem capSample_takes (h : capNext s = some (k, tag)) (hreef : s.cap.reefed = false ∨ rdB s CAP_CFG 10 = true)
    (hrow : (capRow s tag).missing = false ∨ capWaited s tag = true) :
    capSample drained s = capTake drained (capRow s tag) { s with cap := { s.cap with taken := k, svFrom := some tag } } := by
  have hkept : (s.cap.reefed && !rdB s CAP_CFG 10) = false := by obtain h | h := hreef <;> rw [h] <;> simp
  have hwait : ((capRow s tag).missing && !capWaited s tag) = false := by obtain h | h := hrow <;> rw [h] <;> simp
  rw [capSample_next h, hkept, hwait]
  exact if_neg Bool.false_ne_true

end

/-- The level that an input takes, at its stamp in units of 0.25 ns. -/
def dinLevel (i : Nat) (high : Bool) (s : State) : State := capEvent (128 + i) (s.tai / 2 ^ 26 * 2 ^ 26) high false s

theorem dinEdge_held (i : Nat) (high : Bool) (s : State) : dinEdge i high true s =
    match rdF s CAP_DIN (2 * i) 2 with
    | 1 => capEvent (32 + i) (s.tai / 2 ^ 26 * 2 ^ 26) high false (dinLevel i high s)
    | 2 => capEvent (32 + i) (s.tai / 2 ^ 26 * 2 ^ 26) (!high) false (dinLevel i high s)
    | 3 => capEvent (32 + i) (s.tai / 2 ^ 26 * 2 ^ 26) high true (dinLevel i high s)
    | _ => dinLevel i high s := rfl

/-! The bell lines (R217 to R221). -/

theorem bellRegs_apart (l : Fin 2) : CAP_BELL_NS l.val ≠ CAP_BELL_SEC l.val ∧ CAP_BELL_NS l.val ≠ CAP_INT ∧
    CAP_BELL_NS l.val ≠ CTL_INT := by
  have := l.isLt
  simp only [CAP_BELL_NS, CAP_BELL_SEC, CAP_INT, CTL_INT, ne_eq]
  omega

/-- A line that is in use (R217) and that the node does not drive. -/
structure BellListens (l : Nat) (s : State) : Prop where
  mode : rdF s CAP_BELL_CFG (2 * l) 2 = 1 ∨ rdF s CAP_BELL_CFG (2 * l) 2 = 2
  drive : tget false s.cap.drive l = false

theorem bellMode_used {l : Nat} {s : State} (h : rdF s CAP_BELL_CFG (2 * l) 2 = 1 ∨ rdF s CAP_BELL_CFG (2 * l) 2 = 2) :
    ¬ (rdF s CAP_BELL_CFG (2 * l) 2 = 0 ∨ rdF s CAP_BELL_CFG (2 * l) 2 = 3) := by omega

section
variable {l lowNs : Nat} {s : State} (hline : BellListens l s)

include hline in
/-- The fall of another module's pulse after the line was high for 10 µs. -/
theorem bellFall_new (h : tget 0 s.cap.high l + 2500 ≤ s.ticks) : bellFall l lowNs s =
    raise CAP_INT 4 (capCount cBELL_FALLS 1 (capEvent (48 + l) (bellInstant l s + lowNs * taiNsUnit) false false
      (capEvent (48 + l) (bellInstant l s) true false (bellStamp l (lineLow l lowNs s))))) :=
  (if_neg (bellMode_used hline.mode)).trans ((if_neg (by rw [hline.drive]; exact Bool.false_ne_true)).trans
    ((if_neg (by omega)).trans ((if_neg (by omega)).trans rfl)))

include hline in
theorem bellFall_short (h : tget 0 s.cap.high l ≤ s.ticks) (hshort : s.ticks < tget 0 s.cap.high l + 2500) :
    bellFall l lowNs s = bellStamp l (lineLow l lowNs s) :=
  (if_neg (bellMode_used hline.mode)).trans ((if_neg (by rw [hline.drive]; exact Bool.false_ne_true)).trans
    ((if_neg (by omega)).trans (if_pos hshort)))

end

theorem bellStamp_ns {l : Fin 2} {s : State} (hs : TablesWf s) :
    rd (bellStamp l.val s) (CAP_BELL_NS l.val) = wordOf (s.tai / 2 ^ 26 % 4000000000) :=
  (rd_wr_ne _ _ _ _ (bellRegs_apart l).1).trans (rd_wr_same _ _ _ hs)

theorem bellStamp_tables {l : Nat} {s : State} (hs : TablesWf s) : TablesWf (bellStamp l s) := wr_tables (wr_tables hs)

theorem bellTestDrive_due {l at0 : Nat} {s : State} (h : s.cap.test = some (l, at0)) : bellTestDrive s =
    if taiSec s % 2 ^ 32 * 1000000000 + taiNs s < at0 then s
    else bellStamp l (emit (.bell l true) (setCap (fun c => { c with
      test := none, drive := tset false c.drive l true, driveAt := tset 0 c.driveAt l s.ticks }) s)) := by
  unfold bellTestDrive
  rw [h]

/-- Settles O25: record samples as they complete, and the inputs and bell lines by their modes and times. -/
theorem captureInputs : Obligations.CaptureInputs := by
  unfold Obligations.CaptureInputs
  refine ⟨?takes, ?none, ?missing, ?bounces, ?plain, ?level, ?edge, ?inverse, ?falls, ?short, ?unused, ?pulse, ?driven, ?test,
    ?drives, ?undue⟩
  case takes =>
    intro drained k tag s hp hnext hreef hrow
    exact exec_powered_eq hp rfl (capSample_takes hnext hreef hrow)
  case none =>
    intro drained s _ hnext
    refine exec_powered_stays rfl ?_
    unfold capSample
    rw [hnext]
  case missing =>
    intro drained k tag s _ hnext hmiss hwait
    exact exec_powered_stays rfl ((capSample_next hnext).trans (if_pos (by rw [hmiss, hwait, Bool.not_false, Bool.and_true, Bool.or_true])))
  case bounces =>
    intro i high s _
    exact exec_powered_stays rfl rfl
  case plain =>
    intro i high s hp hdin
    exact exec_powered_eq hp rfl (by rw [dinEdge_held, hdin]; rfl)
  case level =>
    intro i high s hp hdin
    refine completes_powered rfl hp ?_
    rw [dinEdge_held, hdin]
    exact List.append_assoc _ _ _
  case edge =>
    intro i high s hp hdin
    refine completes_powered rfl hp ?_
    rw [dinEdge_held, hdin]
    exact List.append_assoc _ _ _
  case inverse =>
    intro i high s hp hdin
    refine completes_powered rfl hp ?_
    rw [dinEdge_held, hdin]
    exact List.append_assoc _ _ _
  case falls =>
    intro l lowNs s hs hp hmode hdrive hhigh
    obtain ⟨-, hint, hctl⟩ := bellRegs_apart l
    have hlow : TablesWf (lineLow l.val lowNs s) := tables_of_eq hs rfl rfl
    have hstamped : TablesWf (bellStamp l.val (lineLow l.val lowNs s)) := bellStamp_tables hlow
    refine completes_powered rfl hp ?_
    rw [bellFall_new ⟨hmode, hdrive⟩ hhigh, rd_raise_ne _ _ _ _ hint hctl, raise_cap]
    refine ⟨rdB_raise_self (count_tables (tables_of_eq hstamped rfl rfl)) (by decide) (by decide),
      (live_of_eq (raise_live _ _ _) _).trans (live_count_self (tables_of_eq hstamped rfl rfl)), bellStamp_ns hlow,
      List.append_assoc _ _ _, rfl⟩
  case short =>
    intro l lowNs s hs hp hmode hdrive hhigh hshort
    refine completes_powered rfl hp ?_
    rw [bellFall_short ⟨hmode, hdrive⟩ hhigh hshort]
    exact ⟨rfl, bellStamp_ns (tables_of_eq hs rfl rfl)⟩
  case unused =>
    intro l lowNs s _ hmode
    exact exec_powered_stays rfl (if_pos (.inl hmode))
  case pulse =>
    intro l s hp hdrive hdue
    refine completes_powered rfl hp ?_
    rw [bellPulseEnd, if_pos ⟨hdrive, hdue⟩]
    exact ⟨rfl, rfl, rfl⟩
  case driven =>
    intro l s _ hno
    refine exec_powered_stays rfl (if_neg ?_)
    rintro ⟨hdrive, hdue⟩
    exact hno.elim (fun h => Bool.false_ne_true (h.symm.trans hdrive)) fun h => Nat.not_lt.mpr hdue h
  case test =>
    intro who l s hv hmode
    refine completes_served rfl hv ?_
    rw [bellTest, if_pos (by rw [bellInOut, rdF_accessed, decide_eq_true hmode]), setCap, accessed_cap, rd_accessed, rdF_accessed]
  case drives =>
    intro l at0 s hp htest hdue
    refine completes_powered rfl hp ?_
    rw [bellTestDrive_due htest, if_neg (Nat.not_lt.mpr hdue)]
    exact ⟨rfl, rfl⟩
  case undue =>
    intro l at0 s _ hno
    obtain htest | ⟨htest, hearly⟩ := hno
    · refine exec_powered_stays rfl ?_
      unfold bellTestDrive
      rw [htest]
    · exact exec_powered_stays rfl ((bellTestDrive_due htest).trans (if_pos hearly))

/-! Arming and the records held (R205 to R226). -/

theorem cyclePos_accessed (who : Req) (s : State) (t : Nat) : cyclePos (accessed who s) t = cyclePos s t := by cases who <;> rfl

theorem captureArm_on {s : State} (h : rdB s CAP_CTRL 0 = false) : captureArm true s =
    setCap (fun c => { c with seq := 0, cntA := 0, cntB := 0, entered := cyclePos s s.tai }) (wrF CAP_CTRL 0 1 1 s) :=
  if_pos (by rw [h]; rfl)

theorem captureArm_off (s : State) : captureArm false s = setCap (fun c => { c with seq := 0 }) (wrF CAP_CTRL 0 1 0 s) := rfl

section
variable {f : CapRec → State → State} {r : CapRec} {s : State}

theorem onRecord_runs (hrun : s.cap.run = some r) (hno : r.no = recIdx s) : onRecord f s = recStat 2 s :=
  if_pos (by rw [hrun, ← hno]; rfl)

theorem onRecord_absent (hrun : s.cap.run = none) (hrecs : s.cap.recs = []) : onRecord f s = recStat 1 s := by
  unfold onRecord recOfNo
  rw [hrun, hrecs]
  rfl

theorem onRecord_held (hrun : s.cap.run = none) (hrec : s.cap.recs.find? (fun x => decide (x.no = recIdx s)) = some r) :
    onRecord f s = f r s := by
  unfold onRecord recOfNo
  rw [hrun, hrec]
  rfl

end

theorem recIdx_accessed (who : Req) (s : State) : recIdx (accessed who s) = (rd s CAP_REC_IDX).toNat :=
  congrArg BitVec.toNat (rd_accessed who s _)

/-- A record is held after a host access as it is before. -/
theorem found_accessed {who : Req} {r : CapRec} {s : State}
    (h : s.cap.recs.find? (fun x => decide (x.no = (rd s CAP_REC_IDX).toNat)) = some r) :
    (accessed who s).cap.recs.find? (fun x => decide (x.no = recIdx (accessed who s))) = some r := by
  rw [recIdx_accessed, accessed_cap, h]

/-- An EXPORT without packing of a record held, with none being exported. -/
theorem recExport_plain {n : Nat} {r : CapRec} {s : State} (hrun : s.cap.run = none) (hexp : s.cap.exporting = none)
    (hrec : s.cap.recs.find? (fun x => decide (x.no = recIdx s)) = some r) :
    (recExport n false s).cap = { s.cap with exporting := some r.no } ∧
      rd (recExport n false s) CAP_REC_STAT = rd (recStat 0 (setCap (fun c => { c with exporting := some r.no }) s)) CAP_REC_STAT := by
  unfold recExport
  rw [onRecord_held hrun hrec, hexp]
  exact ⟨rfl, rfl⟩

theorem recRelease_held {r : CapRec} {s : State} (hrun : s.cap.run = none) (hexp : s.cap.exporting = none) (hxf : s.egr.xf = none)
    (hrec : s.cap.recs.find? (fun x => decide (x.no = recIdx s)) = some r) : recRelease s =
    recStat 0 (setCap (fun c => { c with recs := c.recs.filter (fun x => decide (x.no ≠ r.no)) }) s) := by
  have hnone : (setCap (fun c => { c with recs := c.recs.filter (fun x => decide (x.no ≠ r.no)) }) s).egr.xf = none := hxf
  unfold recRelease
  rw [onRecord_held hrun hrec]
  dsimp only
  rw [hnone]
  exact if_neg fun h => Option.some_ne_none _ (h.symm.trans hexp)

theorem dropExport_cap (s : State) : (dropExport s).cap = s.cap := by
  have hengine : (dropEngine 1 s).cap = s.cap := (dropEngine_within 1 s (Within.refl s) (List.Subset.refl _)).of .cap
  exact hengine

theorem dropExport_work (s : State) : (dropExport s).pak.work = tset [] s.pak.work 1 [] := by
  have hengine : (dropEngine 1 s).pak.work = s.pak.work := by
    unfold dropEngine
    split
    · split <;> rfl
    · rfl
  exact congrArg (fun m => tset [] m 1 []) hengine

/-- Settles O26: arming, and the commands on the record that the index names. -/
theorem captureRecords : Obligations.CaptureRecords := by
  unfold Obligations.CaptureRecords
  refine ⟨?arms, ?disarms, ?force, ?reset, ?level, ?busy, ?absent, ?info, ?exports, ?releases, ?aborts, ?idle, ?snapshot⟩
  case arms =>
    intro who s hs hv hoff
    refine completes_served rfl hv ?_
    rw [captureArm_on (by rw [rdB_accessed, hoff])]
    refine ⟨rdF_wrF_self (accessed_tables who s hs), ?_⟩
    rw [cyclePos_accessed, accessed_tai, ← accessed_cap who s]
    rfl
  case disarms =>
    intro who s hs hv
    refine completes_served rfl hv ?_
    rw [captureArm_off, ← accessed_cap who s]
    exact ⟨rdF_wrF_self (accessed_tables who s hs), rfl⟩
  case force =>
    intro who s hv
    refine completes_served rfl hv ?_
    cases who <;> exact ⟨rfl, rfl⟩
  case reset =>
    intro who s hv
    refine completes_served rfl hv ?_
    cases who <;> exact ⟨rfl, rfl⟩
  case level =>
    intro who th v s hs hv
    exact completes_served rfl hv ⟨rd_wr_same _ _ _ (accessed_tables who s hs), accessed_cap who s⟩
  case busy =>
    intro who r s _ hrun hno hv
    have hrun' : (accessed who s).cap.run = some r := by rw [accessed_cap, hrun]
    have hno' : r.no = recIdx (accessed who s) := hno.trans (recIdx_accessed who s).symm
    exact ⟨exec_served_eq hv rfl (onRecord_runs hrun' hno'), fun _ _ => exec_served_eq hv rfl (onRecord_runs hrun' hno'),
      exec_served_eq hv rfl (onRecord_runs hrun' hno')⟩
  case absent =>
    intro who s hrun hrecs hv
    have hrun' : (accessed who s).cap.run = none := by rw [accessed_cap, hrun]
    have hrecs' : (accessed who s).cap.recs = [] := by rw [accessed_cap, hrecs]
    exact ⟨exec_served_eq hv rfl (onRecord_absent hrun' hrecs'), fun _ _ => exec_served_eq hv rfl (onRecord_absent hrun' hrecs'),
      exec_served_eq hv rfl (onRecord_absent hrun' hrecs')⟩
  case info =>
    intro who r s hv hrun hrec
    exact exec_served_eq hv rfl (onRecord_held (by rw [accessed_cap, hrun]) (found_accessed hrec))
  case exports =>
    intro who r f s hs hexp hv hrun hrec
    obtain ⟨hcap, hstat⟩ := recExport_plain (n := f.toNat) (s := accessed who s) (by rw [accessed_cap, hrun]) (by rw [accessed_cap, hexp])
      (found_accessed hrec)
    refine completes_served rfl hv ⟨hcap.trans (by rw [accessed_cap]), hstat.trans ?_⟩
    exact rd_wr_same _ _ _ (tables_of_eq (accessed_tables who s hs) rfl rfl)
  case releases =>
    intro who r s hv hrun hexp hxf hrec
    refine completes_served rfl hv ?_
    rw [recRelease_held (by rw [accessed_cap, hrun]) (by rw [accessed_cap, hexp]) (by rw [accessed_egr, hxf]) (found_accessed hrec),
      ← accessed_cap who s]
    rfl
  case aborts =>
    intro who no s hv hexp
    refine completes_served rfl hv ?_
    rw [recAbort, if_pos (by rw [accessed_cap, hexp]; rfl), dropExport_cap, dropExport_work]
    refine ⟨((endWindow_within .capture whyABORTED _ (Within.refl _) (List.Subset.refl _)).of .cap).trans ?_,
      congrArg (fun p : Packer => tset [] p.work 1 [])
        (((endWindow_within .capture whyABORTED _ (Within.refl _) (List.Subset.refl _)).of .pak).trans (accessed_pak who s))⟩
    rw [setCap, accessed_cap]
  case idle =>
    intro who s hv hexp
    exact exec_served_stays hv rfl (if_neg (by rw [accessed_cap, hexp]; exact Bool.false_ne_true))
  case snapshot =>
    intro who s hs hv
    have hsnap : TablesWf (snapshot (CAP_CNT 0) 8 CAP_SNAP_SEQ true (accessed who s)) :=
      (snapshot_keeps _ _ _ _ _ (Keeps.refl _)).tables (accessed_tables who s hs)
    have hraised : TablesWf (raise CAP_INT 6 (snapshot (CAP_CNT 0) 8 CAP_SNAP_SEQ true (accessed who s))) := raise_tables hsnap
    refine completes_served rfl hv ⟨rd_wr_same _ _ _ hraised,
      (rdB_wr_other (b := CAP_INT)).trans (rdB_raise_self hsnap (by decide) (by decide)), ?_⟩
    exact (raise_cap _ _ _).trans (((snapshot_within _ _ _ _ _ (Within.refl _) (List.Subset.refl _)).of .cap).trans (accessed_cap who s))

end Sys2Proof.Machine
end

section
/-!
PROOFS of the family other: the Crow's Nest's baselines and modes (O27), and its points, branches, buses and islands (O28).
-/

namespace Sys2Proof.Machine

open Sys2Proof

/-! Baselines (R249). -/

/-- The baseline of the state, its CRC not yet in it. -/
def baselineNow (s : State) : Baseline :=
  { digest := s.cfg.nest.digest, rate := s.cfg.tabRate, order := rdF s NST_OSC_CFG 8 6, band := rd s NST_EM_BAND,
    sec := tabTime s s.nest.extracted / taiSecUnit,
    modes := (s.nest.emSlots.filter (fun p => decide (p.2.st = .tracked))).map (fun p => (p.1, { p.2 with shape := largestParts p.2.shape })),
    subspace := Config.emSubspace (emRows s (s.nest.extracted + emDelay s)) (rdF s NST_OSC_CFG 8 6) (emMemory s) s.nest.emSeed, crc := 0#32 }

theorem baselineSave_writes {s : State} (hok : baselineOk s = true) (hledger : s.ledger.fail = false) : baselineSave s =
    raise NST_OSC_INT 8 (setNest (fun n => { n with
      baselines := lastN 2 (n.baselines ++ [{ baselineNow s with crc := baselineCrc (baselineNow s) }]) }) s) :=
  if_pos (by rw [hok, hledger]; rfl)

/-- The state after its baseline period has ended. -/
def baseNoted (s : State) : State := { s with nest := { s.nest with baseAt := s.ticks } }

theorem basePeriodic_due {s : State} (h : s.nest.baseAt + basePeriod s * 250000000 ≤ s.ticks) :
    basePeriodic s = baselineSave (baseNoted s) := if_pos h

/-! Windows that open on a slot (R258, R281). -/

/-- The window that an opening with words to deliver leaves. -/
theorem openWindow_windows (w : Win) (ws : List (BitVec 64)) (pad : Nat) (s : State) :
    (openWindow w ws pad s).host.windows = tset {} s.host.windows (winIdx w)
      { words := ws, openSeq := ((window s (winIdx w)).openSeq + 1) % 2 ^ 16, ended := decide (ws = []),
        why := if ws = [] then 1 else 0, pad := pad, count := 0#32 } := rfl

theorem openEmpty_windows (w : Win) (s : State) : (openEmpty w whyNOT_FOUND s).host.windows = tset {} s.host.windows (winIdx w)
    { words := [], openSeq := ((window s (winIdx w)).openSeq + 1) % 2 ^ 16, ended := true, why := 4 } := rfl

theorem modeResult_accessed (who : Req) (s : State) (k : Nat) : modeResult (accessed who s) k = modeResult s k := by cases who <;> rfl

theorem modeWords_accessed (who : Req) (s : State) (k : Nat) : modeWords (accessed who s) k = modeWords s k := by cases who <;> rfl

theorem modeWords_length (s : State) (k : Nat) : (modeWords s k).length = 8 := rfl

theorem bandSignals_accessed (who : Req) (s : State) (k : Nat) : bandSignals (accessed who s) k = bandSignals s k := by cases who <;> rfl

theorem modeAt_accessed (who : Req) (s : State) (k : Nat) : modeAt (accessed who s) k = modeAt s k := by cases who <;> rfl

theorem shapeWords_accessed (who : Req) (s : State) (x : ModeSlot) : shapeWords (accessed who s) x = shapeWords s x := by cases who <;> rfl

theorem sigWords_accessed (who : Req) (s : State) (k : Nat) : sigWords (accessed who s) k = sigWords s k := by cases who <;> rfl

theorem sigWords_length (s : State) (k : Nat) : (sigWords s k).length = 4 := by
  unfold sigWords
  split <;> rfl

theorem modeLoad_word {i : Nat} {s : State} (hs : TablesWf s) (hi : i < 8) :
    rd (modeLoad s) (NST_MODE_W i) = (modeWords s (rdF s NST_MODE_IDX 0 6)).getD i 0#32 := by
  have haddr : NST_MODE_W i = NST_MODE_W 0 + 4 * i := by simp only [NST_MODE_W]
  have hapart : NST_MODE_W i ≠ NST_MODE_STAT := by simp only [NST_MODE_W, NST_MODE_STAT, ne_eq]; omega
  exact (rd_wr_ne _ _ _ _ hapart).trans (haddr ▸ rd_wrWords_word i hs (by rw [modeWords_length]; exact hi))

theorem modeLoad_result {s : State} (hs : TablesWf s) :
    rd (modeLoad s) NST_MODE_STAT = wordOf (2 * modeResult s (rdF s NST_MODE_IDX 0 6)) := rd_wr_same _ _ _ (wrWords_tables hs)

theorem sigLoad_word {k i : Nat} {s : State} (hs : TablesWf s) (hi : i < 4) :
    rd (sigLoad k s) (NST_SIG_W i) = (sigWords s k).getD i 0#32 := by
  have haddr : NST_SIG_W i = NST_SIG_W 0 + 4 * i := by simp only [NST_SIG_W]
  rw [haddr]
  exact rd_wrWords_word i (wr_tables hs) (by rw [sigWords_length]; exact hi)

theorem sigLoad_index {k : Nat} {s : State} (hs : TablesWf s) : rd (sigLoad k s) NST_SIG_IDX = wordOf k :=
  (rd_wrWords_out _ _ _ _ (.inl (by decide))).trans (rd_wr_same _ _ _ hs)

theorem modeShape_occupied {s : State} (h : modeResult s (rdF s NST_MODE_IDX 0 6) = 0) : modeShape s = openWindow .modeShape
    ((bandSignals s (rdF s NST_MODE_IDX 0 6)).flatMap (shapeWords s (modeAt s (rdF s NST_MODE_IDX 0 6)))) 0
    (wr NST_MODE_STAT (wordOf (2 * modeResult s (rdF s NST_MODE_IDX 0 6))) s) := if_pos h

theorem modeShape_vacant {s : State} (h : modeResult s (rdF s NST_MODE_IDX 0 6) ≠ 0) : modeShape s = openEmpty .modeShape whyNOT_FOUND
    (wr NST_MODE_STAT (wordOf (2 * modeResult s (rdF s NST_MODE_IDX 0 6))) s) := if_neg h

/-- A window's openings and a host access: the window's number goes on as without it. -/
theorem window_wr (a : Nat) (v : Word) (s : State) (k : Nat) : window (wr a v s) k = window s k := rfl

/-- Settles O27: a baseline by its period and its conditions, and the slots and signals that software loads. -/
theorem nestOscillation : Obligations.NestOscillation := by
  unfold Obligations.NestOscillation
  refine ⟨?saves, ?unfit, ?early, ?now, ?notNow, ?load, ?shape, ?vacant, ?abort, ?signal, ?snapshot⟩
  case saves =>
    intro s hs hp hdue hok hledger
    refine completes_full rfl hp ?_
    rw [basePeriodic_due hdue, baselineSave_writes (s := baseNoted s) hok hledger, raise_nest]
    exact ⟨rdB_raise_self (tables_of_eq hs rfl rfl) (by decide) (by decide), rfl, baselineNow (baseNoted s), rfl, rfl, rfl, rfl, rfl, rfl, rfl⟩
  case unfit =>
    intro s hp hdue hno
    refine exec_full_eq hp rfl ((basePeriodic_due hdue).trans (if_neg ?_))
    rw [show baselineOk (baseNoted s) = false from hno]
    exact Bool.false_ne_true
  case early =>
    intro s _ hearly
    exact exec_full_stays rfl (if_neg (Nat.not_le.mpr hearly))
  case now =>
    intro who s hv hrun
    refine completes_served rfl hv ?_
    rw [saveNow, if_pos (by rw [accessed_nest, hrun]), setNest, accessed_nest]
  case notNow =>
    intro who s hv hno
    exact exec_served_stays hv rfl (if_neg (by rw [accessed_nest]; exact hno))
  case load =>
    intro who i s hs hv hi
    have hst : TablesWf (accessed who s) := accessed_tables who s hs
    refine completes_served rfl hv ?_
    rw [modeLoad_word hst hi, modeLoad_result hst, modeWords_accessed, modeResult_accessed, rdF_accessed]
    exact ⟨rfl, rfl⟩
  case shape =>
    intro who s hv hfound
    refine completes_served rfl hv ?_
    rw [modeShape_occupied (by rw [modeResult_accessed, rdF_accessed, hfound]), openWindow_windows, bandSignals_accessed, modeAt_accessed,
      shapeWords_accessed, rdF_accessed, window_wr, window_accessed, ← accessed_windows who s]
    rfl
  case vacant =>
    intro who s hv hno
    refine completes_served rfl hv ?_
    rw [modeShape_vacant (by rw [modeResult_accessed, rdF_accessed]; exact hno), openEmpty_windows, window_wr, window_accessed,
      ← accessed_windows who s]
    rfl
  case abort =>
    intro who s hv hopen
    exact completes_served rfl hv (abort_accessed hopen)
  case signal =>
    intro who k i s hs hv hi
    have hst : TablesWf (accessed who s) := accessed_tables who s hs
    refine completes_served rfl hv ?_
    rw [sigLoad_word hst hi, sigLoad_index hst, sigWords_accessed]
    exact ⟨rfl, rfl⟩
  case snapshot =>
    intro who clr s hs hv
    refine completes_served rfl hv ⟨rdB_raise_snapshot (accessed_tables who s hs), ?_⟩
    exact (raise_nest _ _ _).trans (((snapshot_within _ _ _ _ _ (Within.refl _) (List.Subset.refl _)).of .nest).trans (accessed_nest who s))

/-! Status points, branches and buses (R261, R274). -/

theorem interTimeout_of {k i : Nat} {p : PointSt} {s : State} (h : tget none s.nest.latest k = some (i, p)) : interTimeout k s =
    if (pointCfg s k).kind = 2 ∧ interOver s p then
      { s with nest := { s.nest with latest := tset none s.nest.latest k (some (i, { p with unknown := true })) } }
    else s := by
  unfold interTimeout latestOf
  rw [h]
  rfl

theorem brWords_accessed (who : Req) (s : State) (k : Nat) : brWords (accessed who s) k = brWords s k := by cases who <;> rfl

theorem busWord_accessed (who : Req) (s : State) (k : Nat) : busWord (accessed who s) k = busWord s k := by cases who <;> rfl

theorem islSlot_accessed (who : Req) (s : State) (k : Nat) : islSlot (accessed who s) k = islSlot s k := by cases who <;> rfl

theorem memberWord_accessed (who : Req) (s : State) : memberWord (accessed who s) = memberWord s := by cases who <;> rfl

theorem islLoad_word {i : Nat} {s : State} (hs : TablesWf s) (hi : i < 8) :
    rd (islLoad s) (NST_ISL_W i) = (islWords (islSlot s (rdF s NST_ISL_IDX 0 8))).getD i 0#32 := by
  have haddr : NST_ISL_W i = NST_ISL_W 0 + 4 * i := by simp only [NST_ISL_W]
  rw [haddr]
  exact rd_wrWords_word i (wr_tables hs) hi

theorem islLoad_free {s : State} (hs : TablesWf s) :
    rd (islLoad s) NST_ISL_STAT = wordOf (2 * b2n (decide ((islSlot s (rdF s NST_ISL_IDX 0 8)).st = .free))) :=
  (rd_wrWords_out _ _ _ _ (.inl (by decide))).trans (rd_wr_same _ _ _ hs)

theorem islMembers_occupied {s : State} (h : (islSlot s (rdF s NST_ISL_IDX 0 8)).st ≠ .free) : islMembers s = openWindow .island
    ((sortNat (islSlot s (rdF s NST_ISL_IDX 0 8)).buses).map (memberWord s)) 0 (islStat s (rdF s NST_ISL_IDX 0 8)) := if_neg h

theorem islMembers_free {s : State} (h : (islSlot s (rdF s NST_ISL_IDX 0 8)).st = .free) :
    islMembers s = openEmpty .island whyNOT_FOUND (islStat s (rdF s NST_ISL_IDX 0 8)) := if_pos h

/-- The words of a window depend on nothing else of the state that it opens in. -/
theorem openWindow_words {w : Win} {ws : List (BitVec 64)} {pad : Nat} {s t : State} (h : t.host.windows = s.host.windows) :
    (window (openWindow w ws pad t) (winIdx w)).words = (window (openWindow w ws pad s) (winIdx w)).words := by
  simp only [window, openWindow_windows, h]

/-- Settles O28: an intermediate point's timeout, and what the loads and the island window show. -/
theorem nestTopology : Obligations.NestTopology := by
  unfold Obligations.NestTopology
  refine ⟨?times, ?stays, ?branch, ?bus, ?load, ?members, ?free, ?abort, ?snapshot⟩
  case times =>
    intro k i p s hp hkind hpoint hover
    exact completes_full rfl hp ((interTimeout_of hpoint).trans (if_pos ⟨hkind, hover⟩))
  case stays =>
    intro k s _ hno
    refine exec_full_stays rfl ?_
    cases hpoint : tget none s.nest.latest k.toNat with
    | none => unfold interTimeout latestOf; rw [hpoint]
    | some q =>
      obtain ⟨i, p⟩ := q
      refine (interTimeout_of hpoint).trans (if_neg ?_)
      rintro ⟨hkind, hover⟩
      obtain hother | hnone | ⟨j, q, hq, hwait⟩ := hno
      · exact hother hkind
      · exact Option.some_ne_none _ (hpoint.symm.trans hnone)
      · rw [hpoint, Option.some.injEq, Prod.mk.injEq] at hq
        exact Bool.false_ne_true (hwait.symm.trans (hq.2 ▸ hover))
  case branch =>
    intro who k s hs hv
    have hst : TablesWf (accessed who s) := accessed_tables who s hs
    refine completes_served rfl hv ?_
    rw [brLoad, brWords_accessed]
    exact ⟨(rd_wr_ne _ _ _ _ (by decide)).trans (rd_wr_same _ _ _ (wr_tables hst)), rd_wr_same _ _ _ (wr_tables (wr_tables hst)),
      (rd_wr_ne _ _ _ _ (by decide)).trans ((rd_wr_ne _ _ _ _ (by decide)).trans (rd_wr_same _ _ _ hst))⟩
  case bus =>
    intro who k s hs hv
    have hst : TablesWf (accessed who s) := accessed_tables who s hs
    refine completes_served rfl hv ?_
    rw [busLoad, busWord_accessed]
    exact ⟨rd_wr_same _ _ _ (wr_tables hst), (rd_wr_ne _ _ _ _ (by decide)).trans (rd_wr_same _ _ _ hst)⟩
  case load =>
    intro who i s hs hv hi
    have hst : TablesWf (accessed who s) := accessed_tables who s hs
    refine completes_served rfl hv ?_
    rw [islLoad_word hst hi, islLoad_free hst, islSlot_accessed, rdF_accessed]
    exact ⟨rfl, rfl⟩
  case members =>
    intro who s hv hst
    refine completes_served rfl hv ?_
    rw [islMembers_occupied (by rw [islSlot_accessed, rdF_accessed]; exact hst), islSlot_accessed, memberWord_accessed, rdF_accessed]
    exact openWindow_words (accessed_windows who s)
  case free =>
    intro who s hv hst
    refine completes_served rfl hv ?_
    rw [islMembers_free (by rw [islSlot_accessed, rdF_accessed]; exact hst), openEmpty_windows, islStat, window_wr, window_accessed,
      ← accessed_windows who s]
    rfl
  case abort =>
    intro who s hv hopen
    exact completes_served rfl hv (abort_accessed hopen)
  case snapshot =>
    intro who clr s hs hv
    refine completes_served rfl hv ⟨rdB_raise_snapshot (accessed_tables who s hs), ?_⟩
    exact (raise_nest _ _ _).trans (((snapshot_within _ _ _ _ _ (Within.refl _) (List.Subset.refl _)).of .nest).trans (accessed_nest who s))

end Sys2Proof.Machine
end

section
/-!
PROOFS of the family other: the publications, output streams and rules of the egress (O29).
-/

namespace Sys2Proof.Machine

open Sys2Proof

/-! Words that a load shows, with a status bit. -/

theorem rdB_wrWords_stat {a b k : Nat} {v : Bool} {ws : List Word} {s : State} (hs : TablesWf s) (hab : a < b) (hk : k < 32) :
    rdB (wrWords b ws (setStat a k v s)) a k = v := by
  rw [rdB, rd_wrWords_out _ _ _ _ (.inl hab)]
  exact rdB_setStat_self hs hk

theorem pubWords_accessed (who : Req) (s : State) (p : Nat) : pubWords (accessed who s) p = pubWords s p := by cases who <;> rfl

theorem outWords_accessed (who : Req) (s : State) (k : Nat) : outWords (accessed who s) k = outWords s k := by cases who <;> rfl

theorem ruleWords_accessed (who : Req) (s : State) (r : Nat) : ruleWords (accessed who s) r = ruleWords s r := by cases who <;> rfl

theorem outCfg_accessed (who : Req) (s : State) (k : Nat) : outCfg (accessed who s) k = outCfg s k := by cases who <;> rfl

theorem ruleCfg_accessed (who : Req) (s : State) (r : Nat) : ruleCfg (accessed who s) r = ruleCfg s r := by cases who <;> rfl

theorem ruleSt_accessed (who : Req) (s : State) (r : Nat) : ruleSt (accessed who s) r = ruleSt s r := by cases who <;> rfl

theorem selOut_accessed (who : Req) (s : State) : selOut (accessed who s) = rdF s EGR_OS_IDX 0 6 := rdF_accessed who s _ _ _

theorem selRule_accessed (who : Req) (s : State) : selRule (accessed who s) = rdF s EGR_RULE_IDX 0 12 := rdF_accessed who s _ _ _

theorem pubWords_length (s : State) (p : Nat) : (pubWords s p).length = 4 := by
  unfold pubWords
  split <;> rfl

theorem outWords_length (s : State) (k : Nat) : (outWords s k).length = 4 := by
  unfold outWords
  split <;> rfl

theorem ruleWords_length (s : State) (r : Nat) : (ruleWords s r).length = 8 := by
  unfold ruleWords
  split <;> rfl

/-! The three units (R295, R302, R288). -/

theorem gooseRetransmit_of {p : Nat} {c : PubCfg} {s : State} (h : pubCfg s p = some c) : gooseRetransmit p s =
    if (pubSt s p).interval = 0 ∨ s.ticks < (pubSt s p).sentAt + 250000 * (pubSt s p).interval then s
    else pubTransmit p (setPub p { pubSt s p with
      sqNum := ((pubSt s p).sqNum + 1) % 2 ^ 32, interval := min (2 * (pubSt s p).interval) c.tMax } s) := by
  unfold gooseRetransmit
  rw [h]

theorem gooseRetransmit_none {p : Nat} {s : State} (h : pubCfg s p = none) : gooseRetransmit p s = s := by
  unfold gooseRetransmit
  rw [h]

/-- What firmware in RUN does with a command frame for a defined stream. -/
theorem osCommandFrame_of {id k ip udp : Nat} {cmd : OsCmd} {c : OutCfg} {s : State} (hrun : s.deck.st = .run)
    (h : s.cfg.outs.find? (fun p => decide (outIdcode s p.1 p.2 = id)) = some (k, c)) : osCommandFrame id cmd ip udp s =
    match cmd with
    | .turnOn => outSwitch k true s
    | .turnOff => if c.alwaysOn then s else outSwitch k false s
    | .extended => s
    | _ => emit (.osAnswer k cmd ip udp (osContent s k c cmd)) s := by
  unfold osCommandFrame
  rw [h]
  exact if_neg (not_not_intro hrun)

theorem osCommandFrame_undefined {id ip udp : Nat} {cmd : OsCmd} {s : State}
    (h : s.cfg.outs.find? (fun p => decide (outIdcode s p.1 p.2 = id)) = none) : osCommandFrame id cmd ip udp s = s := by
  unfold osCommandFrame
  rw [h]

theorem osCommandFrame_stopped {id ip udp : Nat} {cmd : OsCmd} {s : State} (h : s.deck.st ≠ .run) : osCommandFrame id cmd ip udp s = s := by
  unfold osCommandFrame
  split
  · rfl
  · exact if_pos h

theorem osSwitch_defined {on : Bool} {c : OutCfg} {s : State} (h : outCfg s (selOut s) = some c) :
    osSwitch on s = outSwitch (selOut s) on (setStat EGR_OS_STAT 1 false s) := if_neg (by rw [h]; exact Bool.false_ne_true)

theorem osSwitch_undefined {on : Bool} {s : State} (h : outCfg s (selOut s) = none) : osSwitch on s = setStat EGR_OS_STAT 1 true s :=
  if_pos (by rw [h]; rfl)

/-- ON and OFF of a defined stream. -/
theorem osSwitch_facts {who : Req} {on : Bool} {c : OutCfg} {s : State} (hs : TablesWf s) (h : outCfg s (rdF s EGR_OS_IDX 0 6) = some c) :
    rdB (osSwitch on (accessed who s)) EGR_OS_STAT 1 = false ∧ (osSwitch on (accessed who s)).egr = { s.egr with
      outs := tset {} s.egr.outs (rdF s EGR_OS_IDX 0 6) { tget {} s.egr.outs (rdF s EGR_OS_IDX 0 6) with on := on } } := by
  rw [osSwitch_defined (by rw [selOut_accessed, outCfg_accessed, h]), selOut_accessed]
  refine ⟨rdB_setStat_self (accessed_tables who s hs), ?_⟩
  cases who <;> rfl

theorem ruleStore_defined {c : RuleCfg} {s : State} (h : ruleCfg s (selRule s) = some c) : ruleStore s =
    logEvent srcEGR 1 3 (wordOf (selRule s)) []
      (setRule (selRule s) { ruleSt s (selRule s) with stored := some (rd s (EGR_RULE_W23 0), rd s (EGR_RULE_W23 1)) }
        (setStat EGR_RULE_STAT 1 false s)) := if_neg (by rw [h]; exact Bool.false_ne_true)

theorem ruleStore_undefined {s : State} (h : ruleCfg s (selRule s) = none) : ruleStore s = setStat EGR_RULE_STAT 1 true s :=
  if_pos (by rw [h]; rfl)

/-- Settles O29: a retransmission by its interval, a command frame by its stream, and the words that the loads show. -/
theorem egressStreams : Obligations.EgressStreams := by
  unfold Obligations.EgressStreams
  refine ⟨?retransmits, ?quiet, ?pub, ?turnsOn, ?turnsOff, ?alwaysOn, ?answers, ?stopped, ?undefined, ?osLoad, ?osOn, ?osOff,
    ?osNone, ?ruleLoad, ?ruleStore, ?ruleNone⟩
  case retransmits =>
    intro p c s hp hc hint hdue
    exact exec_full_eq hp rfl ((gooseRetransmit_of hc).trans (if_neg fun h => h.elim hint (Nat.not_lt.mpr hdue)))
  case quiet =>
    intro p s _ hno
    refine exec_full_stays rfl ?_
    cases hc : pubCfg s p.val with
    | none => exact gooseRetransmit_none hc
    | some c => exact (gooseRetransmit_of hc).trans (if_pos (hno.resolve_left fun h => Option.some_ne_none _ (hc.symm.trans h)))
  case pub =>
    intro who p i s hs hv hi
    have hst : TablesWf (accessed who s) := accessed_tables who s hs
    have haddr : EGR_PUB_W i = EGR_PUB_W 0 + 4 * i := by simp only [EGR_PUB_W]
    refine completes_served (f := fun t => wrWords (EGR_PUB_W 0) (pubWords t p.val) (wr EGR_PUB_IDX (wordOf p.val) t)) rfl hv ⟨?_, ?_⟩
    · rw [haddr, pubWords_accessed]
      exact rd_wrWords_word i (wr_tables hst) (by rw [pubWords_length]; exact hi)
    · exact (rd_wrWords_out _ _ _ _ (.inl (by decide))).trans (rd_wr_same _ _ _ hst)
  case turnsOn =>
    intro id udp ip k c s hp hrun hc
    refine completes_full rfl hp ?_
    rw [osCommandFrame_of hrun hc]
    rfl
  case turnsOff =>
    intro id udp ip k c s hp hrun hc hsw
    refine completes_full rfl hp ?_
    rw [osCommandFrame_of hrun hc]
    dsimp only
    rw [if_neg (by rw [hsw]; exact Bool.false_ne_true)]
    rfl
  case alwaysOn =>
    intro id udp ip k c s _ hrun hc hsw
    exact exec_full_stays rfl ((osCommandFrame_of hrun hc).trans (if_pos hsw))
  case answers =>
    intro id udp cmd ip k c s hp hrun hc hon hoff hext
    refine exec_full_eq hp rfl ((osCommandFrame_of hrun hc).trans ?_)
    cases cmd with
    | turnOn => exact absurd rfl hon
    | turnOff => exact absurd rfl hoff
    | extended => exact absurd rfl hext
    | sendHeader | sendCfg1 | sendCfg2 | sendCfg3 => rfl
  case stopped =>
    intro id udp cmd ip s _ hrun
    exact exec_full_stays rfl (osCommandFrame_stopped hrun)
  case undefined =>
    intro id udp cmd ip s _ hc
    exact exec_full_stays rfl (osCommandFrame_undefined hc)
  case osLoad =>
    intro who i s hs hv hi
    have hst : TablesWf (accessed who s) := accessed_tables who s hs
    have haddr : EGR_OS_W i = EGR_OS_W 0 + 4 * i := by simp only [EGR_OS_W]
    refine completes_served (f := fun t => wrWords (EGR_OS_W 0) (outWords t (selOut t))
      (setStat EGR_OS_STAT 1 (outCfg t (selOut t)).isNone t)) rfl hv ?_
    rw [selOut_accessed, outWords_accessed, outCfg_accessed, haddr]
    exact ⟨rd_wrWords_word i (setStat_tables hst) (by rw [outWords_length]; exact hi), rdB_wrWords_stat hst (by decide) (by decide)⟩
  case osOn =>
    intro who c s hs hv hc
    exact completes_served rfl hv (osSwitch_facts hs hc)
  case osOff =>
    intro who c s hs hv hc
    exact completes_served rfl hv (osSwitch_facts hs hc)
  case osNone =>
    intro who s hs hv hc
    refine completes_served rfl hv ?_
    rw [osSwitch_undefined (by rw [selOut_accessed, outCfg_accessed, hc])]
    exact ⟨rdB_setStat_self (accessed_tables who s hs), accessed_egr who s⟩
  case ruleLoad =>
    intro who i s hs hv hi
    have hst : TablesWf (accessed who s) := accessed_tables who s hs
    refine completes_served (f := fun t => wrWords (EGR_RULE_W01 0) (ruleWords t (selRule t))
      (setStat EGR_RULE_STAT 1 (ruleCfg t (selRule t)).isNone t)) rfl hv ?_
    rw [selRule_accessed, ruleWords_accessed, ruleCfg_accessed]
    exact ⟨rd_wrWords_word i (setStat_tables hst) (by rw [ruleWords_length]; exact hi), rdB_wrWords_stat hst (by decide) (by decide)⟩
  case ruleStore =>
    intro who c s hs hv hc
    refine completes_served rfl hv ?_
    rw [ruleStore_defined (by rw [selRule_accessed, ruleCfg_accessed, hc]), selRule_accessed, ruleSt_accessed, rd_accessed, rd_accessed]
    refine ⟨(rdB_logEvent_low (b := EGR_RULE_STAT)).trans (rdB_setStat_self (accessed_tables who s hs)), (logEvent_egr _ _ _ _ _ _).trans ?_⟩
    cases who <;> rfl
  case ruleNone =>
    intro who s hs hv hc
    refine completes_served rfl hv ?_
    rw [ruleStore_undefined (by rw [selRule_accessed, ruleCfg_accessed, hc])]
    exact ⟨rdB_setStat_self (accessed_tables who s hs), accessed_egr who s⟩

end Sys2Proof.Machine
end

section
/-!
PROOFS of the family other: the egress queues (O30).
-/

namespace Sys2Proof.Machine

open Sys2Proof

theorem queue_accessed (who : Req) (s : State) (q : Nat) : queue (accessed who s) q = queue s q := by cases who <;> rfl

theorem staged_accessed (who : Req) (s : State) (q b : Nat) : staged (accessed who s) q b = staged s q b := by cases who <;> rfl

theorem commitDiscards_accessed (who : Req) (s : State) (q : Nat) (ws : List Word) (len : Nat) :
    commitDiscards (accessed who s) q ws len = commitDiscards s q ws len := by cases who <;> rfl

theorem qFull_accessed (who : Req) (s : State) (q len : Nat) : qFull (accessed who s) q len = qFull s q len := by cases who <;> rfl

theorem qHost_accessed (who : Req) (s : State) (q : Nat) : qHost (accessed who s) q = qHost s q := rdB_accessed who s _ _

/-! Staging and commits (R306). -/

theorem qPush_host {q : Nat} {v : Word} {s : State} (h : qHost s q = true) :
    qPush .host q v s = setStaged q 0 (staged s q 0 ++ [v]) s := by
  have hfits : stagedOver (setStaged q 0 (staged s q 0 ++ [v]) s) q (staged s q 0 ++ [v]) = false := by
    rw [stagedOver, show qHost (setStaged q 0 (staged s q 0 ++ [v]) s) q = true from h]
    rfl
  exact (if_neg fun hd => nomatch hd.1).trans (if_neg fun h => Bool.false_ne_true (hfits.symm.trans h))

/-- A queue after a commit of a buffer has been judged. -/
def judged (x : Queue) (b : Nat) (tooLong bad : Bool) : Queue :=
  { x with staged := tset [] x.staged b [], oversize := tooLong, badLen := bad }

theorem commitNow_discards {q b prio len : Nat} {s : State} (h : commitDiscards s q (staged s q b) len = true) : commitNow q b prio len s =
    setQueue q (judged (queue s q) b (stagedOver s q (staged s q b)) (badLen (staged s q b) len)) s := if_pos h

/-- A commit that the queue takes lands the staged words as the newest item, with the next number. -/
theorem commitNow_lands {q b prio len : Nat} {s : State} (hq : twf ({} : Queue) s.egr.queues = true)
    (h : commitDiscards s q (staged s q b) len = false) : (commitNow q b prio len s).egr.nextId = s.egr.nextId + 1 ∧
      queue (commitNow q b prio len s) q =
        { judged (queue s q) b (stagedOver s q (staged s q b)) (badLen (staged s q b) len) with
          items := (queue s q).items ++
            [{ ident := s.egr.nextId, prio := prio, len := len, body := .words ((staged s q b).take (divUp len 4)) }] } := by
  have hland : commitNow q b prio len s =
      qLand q { ident := s.egr.nextId, prio := prio, len := len, body := .words ((staged s q b).take (divUp len 4)) }
        (nextItem (setQueue q (judged (queue s q) b (stagedOver s q (staged s q b)) (badLen (staged s q b) len)) s)) :=
    if_neg fun hd => Bool.false_ne_true (h.symm.trans hd)
  have hjudged := queue_setQueue q (judged (queue s q) b (stagedOver s q (staged s q b)) (badLen (staged s q b) len)) s hq
  rw [hland, qLand_next, qLand_queue, show queue (nextItem (setQueue q _ s)) q = _ from hjudged]
  exact ⟨rfl, rfl⟩

section
variable {c : Instr} {q prio len : Nat} {s : State}

/-- A host's commit: held for a full queue, else carried out. -/
theorem qCommit_host (c : Instr) (q prio len : Nat) (s : State) : qCommit c .host q prio len s =
    if !commitDiscards s q (staged s q 0) len && qFull s q len then holdWrite c .host s else commitNow q 0 prio len s := rfl

/-- A Deck's commit with none waiting: it waits for a full queue, else it is carried out. -/
theorem qCommit_deck {k : Fin 4} (hwait : (queue s q).waiting = none) : qCommit c (.deck k) q prio len s =
    if !commitDiscards s q (staged s q 1) len && qFull s q len then setQueue q { queue s q with waiting := some (prio, len) } s
    else commitNow q 1 prio len s := by
  unfold qCommit
  rw [hwait]
  rfl

end

theorem qCommitLand_deck {q prio len : Nat} {s : State} (h : (queue s q).waiting = some (prio, len)) : qCommitLand q s =
    if qFull s q len then s else commitNow q 1 prio len (setQueue q { queue s q with waiting := none } s) := by
  unfold qCommitLand
  rw [h]

theorem heldCommit_front {q : Fin 32} {prio : Fin 8} {len : BitVec 14} {r : List Instr} {s : State}
    (h : s.host.held = .qCommit .host q prio len :: r) : heldCommit s q.val = some (prio.val, len.toNat) := by
  unfold heldCommit
  rw [h]
  exact if_pos rfl

theorem qCommitLand_host {q : Fin 32} {prio : Fin 8} {len : BitVec 14} {r : List Instr} {s : State}
    (hwait : (queue s q.val).waiting = none) (hheld : s.host.held = .qCommit .host q prio len :: r) : qCommitLand q.val s =
    if qFull s q.val len.toNat then s
    else commitNow q.val 0 prio.val len.toNat { s with host := { s.host with held := r, heldAt := s.ticks } } := by
  unfold qCommitLand
  rw [hwait, heldCommit_front hheld, hheld]
  rfl

theorem qCommitLand_none {q : Nat} {s : State} (hwait : (queue s q).waiting = none) (hheld : s.host.held = []) :
    qCommitLand q s = s := by
  have hnone : heldCommit s q = none := by
    unfold heldCommit
    rw [hheld]
  unfold qCommitLand
  rw [hwait, hnone]

/-! The read side (R307 to R310). -/

theorem qPop_flushed {q : Nat} {s : State} (h : (queue s q).flushed = true) :
    qPop q s = answer .host (BitVec.ofNat 64 (2 ^ 53)) (setQueue q { queue s q with flushed := false } s) := if_pos h

theorem qReading_first {q : Nat} {s : State} (h : (queue s q).reading = none) :
    qReading s q = (qFirst (queue s q).items).map (fun i => (i, 0)) := by
  unfold qReading
  rw [h]

theorem qPop_empty {q : Nat} {s : State} (hflush : (queue s q).flushed = false) (hitems : (queue s q).items = [])
    (hread : (queue s q).reading = none) : qPop q s = answer .host 0#64 s := by
  have hnone : qReading s q = none := by
    rw [qReading_first hread, hitems]
    rfl
  refine (if_neg (by rw [hflush]; exact Bool.false_ne_true)).trans ?_
  rw [hnone]
  exact ite_self _

/-- A read of the first word of an item. -/
theorem qPop_first {q : Nat} {i : QItem} {s : State} (hflush : (queue s q).flushed = false) (hhost : qHost s q = true)
    (hread : (queue s q).reading = none) (hfirst : qFirst (queue s q).items = some i) : qPop q s = answer .host (popWord i 0)
      (if 0 + 1 = itemWords i then setQueue q { queue (qRemove q i.ident s) q with reading := none } (qRemove q i.ident s)
        else setQueue q { queue s q with reading := some (i.ident, 0 + 1) } s) := by
  have hnext : qReading s q = some (i, 0) := by
    rw [qReading_first hread, hfirst]
    rfl
  refine (if_neg (by rw [hflush]; exact Bool.false_ne_true)).trans ((if_neg (by rw [hhost]; exact Bool.false_ne_true)).trans ?_)
  rw [hnext]

theorem itemWords_one {i : QItem} (h : i.len ≤ 4) : itemWords i = 1 := by
  unfold itemWords atLeast divUp
  split <;> omega

theorem itemWords_more {i : QItem} (h : 4 < i.len) : 0 + 1 ≠ itemWords i := by
  unfold itemWords atLeast divUp
  split <;> omega

theorem qRemove_last {q : Nat} {i : QItem} {s : State} (hq : twf ({} : Queue) s.egr.queues = true) (h : (queue s q).items = [i]) :
    (queue (setQueue q { queue (qRemove q i.ident s) q with reading := none } (qRemove q i.ident s)) q).items = [] := by
  have hleft : (queue (qRemove q i.ident s) q).items = [] := by
    rw [qRemove, queue_setQueue _ _ _ hq, h]
    simp
  have hremoved : twf ({} : Queue) (qRemove q i.ident s).egr.queues = true := mapSet_wf _ _ _ _ hq
  rw [queue_setQueue _ _ _ hremoved]
  exact hleft

/-! Waiting items (R311). -/

/-- The output-stream item that has waited one nominal cycle. -/
def overdueItem (s : State) : Option (Nat × QItem) :=
  s.egr.waits.find? (fun w => w.2.stream.isSome && decide (250000000 ≤ (s.ticks - w.2.since) * nominalHz s))

theorem osItemAbandon_drops {q : Nat} {i : QItem} {s : State} (hs : TablesWf s) (h : overdueItem s = some (q, i)) :
    rdB (osItemAbandon s) EGR_INT 4 = true ∧ (osItemAbandon s).egr.waits = s.egr.waits.filter (fun w => decide (w.2.ident ≠ i.ident)) ∧
      liveCnt (osItemAbandon s) (EGR_CNT 16) = (liveCnt s (EGR_CNT 16) + 1) % 2 ^ 64 := by
  unfold overdueItem at h
  unfold osItemAbandon
  rw [h]
  dsimp only
  refine ⟨rdB_raise_self (count_tables (tables_of_eq hs rfl rfl)) (by decide) (by decide),
    (congrArg Egress.waits (raise_egr _ _ _)).trans rfl,
    (live_of_eq (raise_live _ _ _) _).trans (live_count_self (tables_of_eq hs rfl rfl))⟩

theorem osItemAbandon_none {s : State} (h : overdueItem s = none) : osItemAbandon s = s := by
  unfold overdueItem at h
  unfold osItemAbandon
  rw [h]

/-- Settles O30: what stages, lands, waits and leaves a queue, by the queue's state. -/
theorem egressQueues : Obligations.EgressQueues := by
  unfold Obligations.EgressQueues
  refine ⟨?push, ?lands, ?discards, ?held, ?waits, ?landDeck, ?landHost, ?fullDeck, ?neither, ?discard, ?flushed, ?empty, ?first,
    ?only, ?flush, ?compose, ?idle, ?abandons, ?fresh, ?snapshot⟩
  case push =>
    intro q v s hv hhost
    refine completes_served (who := .host) rfl hv ?_
    rw [qPush_host (by rw [qHost_accessed, hhost])]
    rfl
  case lands =>
    intro q prio len s hq hv hok hroom
    refine completes_served (who := .host) rfl hv ?_
    rw [qCommit_host, if_neg (by rw [qFull_accessed, hroom, Bool.and_false]; exact Bool.false_ne_true)]
    exact commitNow_lands (s := accessed .host s) hq (by rw [staged_accessed, commitDiscards_accessed, hok])
  case discards =>
    intro q prio len s hv hbad
    have hbad' : commitDiscards (accessed .host s) q.val (staged (accessed .host s) q.val 0) len.toNat = true := by
      rw [staged_accessed, commitDiscards_accessed, hbad]
    refine completes_served (who := .host) rfl hv ?_
    rw [qCommit_host, if_neg (by rw [hbad']; exact Bool.false_ne_true), commitNow_discards hbad']
    rfl
  case held =>
    intro q prio len s hv hok hfull
    refine completes_served (who := .host) rfl hv ?_
    rw [qCommit_host, if_pos (by rw [staged_accessed, commitDiscards_accessed, hok, qFull_accessed, hfull]; rfl)]
    exact ⟨rfl, rfl⟩
  case waits =>
    intro k q prio len s hv hwait hok hfull
    refine completes_served (who := .deck k) rfl hv ?_
    rw [qCommit_deck (by rw [queue_accessed, hwait]),
      if_pos (by rw [staged_accessed, commitDiscards_accessed, hok, qFull_accessed, hfull]; rfl)]
    rfl
  case landDeck =>
    intro q prio len s hp hwait hroom
    exact exec_full_eq hp rfl ((qCommitLand_deck hwait).trans (if_neg (by rw [hroom]; exact Bool.false_ne_true)))
  case landHost =>
    intro q prio len r s hp hwait hheld hroom
    exact exec_full_eq hp rfl ((qCommitLand_host hwait hheld).trans (if_neg (by rw [hroom]; exact Bool.false_ne_true)))
  case fullDeck =>
    intro q prio len s _ hwait hfull
    exact exec_full_stays rfl ((qCommitLand_deck hwait).trans (if_pos hfull))
  case neither =>
    intro q s _ hwait hheld
    exact exec_full_stays rfl (qCommitLand_none hwait hheld)
  case discard =>
    intro q s hv
    refine completes_served (who := .host) (f := fun t => if stageOf .host = 1 ∧ (queue t q.val).waiting.isSome then t
      else setStaged q.val (stageOf .host) [] t) rfl hv ?_
    rw [if_neg fun hd => nomatch hd.1]
    rfl
  case flushed =>
    intro q s hv hflush
    refine completes_served (who := .host) rfl hv ?_
    rw [qPop_flushed (by rw [queue_accessed, hflush])]
    exact ⟨rfl, rfl⟩
  case empty =>
    intro q s hv hflush hitems hread
    refine completes_served (who := .host) rfl hv ?_
    rw [qPop_empty (by rw [queue_accessed, hflush]) (by rw [queue_accessed, hitems]) (by rw [queue_accessed, hread])]
    exact ⟨rfl, rfl⟩
  case first =>
    intro q i s hv hflush hhost hread hfirst hlen
    refine completes_served (who := .host) rfl hv ?_
    rw [qPop_first (i := i) (by rw [queue_accessed, hflush]) (by rw [qHost_accessed, hhost]) (by rw [queue_accessed, hread])
      (by rw [queue_accessed, hfirst]), if_neg (itemWords_more hlen)]
    exact ⟨rfl, rfl⟩
  case only =>
    intro q i s hq hv hflush hhost hitems hread hlen
    refine completes_served (who := .host) rfl hv ?_
    rw [qPop_first (i := i) (by rw [queue_accessed, hflush]) (by rw [qHost_accessed, hhost]) (by rw [queue_accessed, hread])
      (by rw [queue_accessed, hitems]; rfl), if_pos (itemWords_one hlen).symm]
    exact ⟨rfl, qRemove_last (s := accessed .host s) hq hitems⟩
  case flush =>
    intro who q s hv
    refine completes_served rfl hv ?_
    cases who <;> rfl
  case compose =>
    intro q i s hp hready
    exact exec_full_eq hp rfl (by rw [hready]; rfl)
  case idle =>
    intro s _ hnone
    exact exec_full_stays rfl (by rw [hnone])
  case abandons =>
    intro q i s hs hp hfind
    exact completes_full rfl hp (osItemAbandon_drops hs hfind)
  case fresh =>
    intro s _ hnone
    exact exec_full_stays rfl (osItemAbandon_none hnone)
  case snapshot =>
    intro who clr s hs hv
    refine completes_served rfl hv ⟨rdB_raise_snapshot (accessed_tables who s hs), ?_⟩
    exact (raise_egr _ _ _).trans (((snapshot_within _ _ _ _ _ (Within.refl _) (List.Subset.refl _)).of .egr).trans (accessed_egr who s))

end Sys2Proof.Machine
end

section
/-!
PROOFS of the family other: the starts of transmissions and the bulk transfers (O31).
-/

namespace Sys2Proof.Machine

open Sys2Proof

/-! The start of a transmission (R72, R305, R307). -/

/-- The queue that a port class serves next. -/
def nextServed (p c : Nat) (s : State) : Nat := nextQueue (classQueues s p c) (tget 32 s.egr.rr (8 * p + c))

/-- The state in which an item of a queue is sent: the item is taken out and the queue noted as served. -/
def itemTaken (p c : Nat) (i : QItem) (s : State) : State :=
  { qRemove (nextServed p c s) i.ident s with
    egr := { (qRemove (nextServed p c s) i.ident s).egr with rr := tset 32 s.egr.rr (8 * p + c) (nextServed p c s) } }

/-- A port that may start a frame of the class now: enabled, with link, not sending, awake, and the class's turn. -/
structure MayStart (s : State) (p c : Nat) : Prop where
  on : portOn s p = true
  link : (port s p).linkUp = true
  idle : (port s p).tx = none
  awake : wakeDone s p = true
  turn : classTurn s p c = true

section
variable {p c : Nat} {i : QItem} {s : State}

theorem txStart_takes (h : MayStart s p c) (hi : qFirst (queue s (nextServed p c s)).items = some i) :
    txStart p c s = sendItem p i (itemTaken p c i s) := by
  unfold nextServed at hi
  unfold txStart
  refine (if_pos ⟨h.on, h.link, h.idle, h.awake, h.turn⟩).trans ?_
  dsimp only
  rw [hi]
  rfl

theorem txStart_stays (h : ¬ MayStart s p c) : txStart p c s = s :=
  if_neg fun ⟨hon, hlink, htx, hwake, hturn⟩ => h ⟨hon, hlink, htx, hwake, hturn⟩

theorem sendItem_egr : (sendItem p i s).egr = s.egr := by
  unfold sendItem
  split
  · rfl
  · split
    · exact raise_egr _ _ _
    · exact leaveLpi_egr p s

end

theorem completes_txStart {p : Fin 64} {c : Fin 8} {i : QItem} {s : State} {P : State → Prop} (hp : s.power.st = .fullSail)
    (hpath : s.boot.dataPath = true) (h : MayStart s p.val c.val) (hi : qFirst (queue s (nextServed p.val c.val s)).items = some i)
    (hP : P (sendItem p.val i (itemTaken p.val c.val i s))) : Completes (.txStart p c) s P :=
  completes_full rfl hp (by rw [if_pos hpath, txStart_takes h hi]; exact hP)

/-! Bulk transfers (R304). -/

theorem xfJob_accessed (who : Req) (s : State) : xfJob (accessed who s) = xfJob s := by cases who <;> rfl

theorem xfGo_starts {j : XfJob} {s : State} (hfree : s.egr.xf = none) (hjob : xfJob s = some j) (hmore : j.ofs < j.bytes.length) :
    xfGo s = wrF EGR_XF_STAT 0 1 1 { wr EGR_XF_STAT (wordOf (2 ^ 16 * ((s.egr.xfCount + 1) % 2 ^ 16))) s with
      egr := { s.egr with xfCount := (s.egr.xfCount + 1) % 2 ^ 16, xf := some j } } := by
  unfold xfGo
  rw [hfree, hjob]
  exact (if_neg Bool.false_ne_true).trans (if_neg (Nat.not_le.mpr hmore))

theorem xfEnd_facts {n : Nat} {s : State} (hs : TablesWf s) (hn : 2 * n < 16) : (xfEnd n s).egr = { s.egr with xf := none } ∧
    rdF (xfEnd n s) EGR_XF_STAT 0 4 = 2 * n ∧ rdB (xfEnd n s) EGR_INT 6 = true := by
  have hended : TablesWf { s with egr := { s.egr with xf := none } } := tables_of_eq hs rfl rfl
  exact ⟨raise_egr _ _ _, (rdF_raise_other (b := EGR_XF_STAT)).trans (rdF_wrF_self hended (by decide) hn),
    rdB_raise_self (wr_tables hended) (by decide) (by decide)⟩

/-- The payload of a job's next datagram. -/
def nextPayload (j : XfJob) : List Nat := (j.bytes.drop j.ofs).take 1408

/-- The state with a job's next datagram composed. -/
def datagramSent (j : XfJob) (last : Bool) (s : State) : State :=
  compose j.queue 0 (62 + (nextPayload j).length) false none (.datagram j.job j.typ j.dest last j.ofs (nextPayload j)) s

section
variable {j : XfJob} {s : State}

theorem nextPayload_length : (nextPayload j).length = min 1408 (j.bytes.length - j.ofs) := by
  rw [nextPayload, List.length_take, List.length_drop]

theorem xfDatagram_due (h : s.egr.xf = some j) (hwait : xfWaiting s = false) (hdue : j.nextAt ≤ s.ticks) : xfDatagram s =
    if decide (j.bytes.length ≤ j.ofs + (nextPayload j).length) then
      xfEnd xfOK (datagramSent j (decide (j.bytes.length ≤ j.ofs + (nextPayload j).length)) s)
    else { datagramSent j (decide (j.bytes.length ≤ j.ofs + (nextPayload j).length)) s with
      egr := { (datagramSent j (decide (j.bytes.length ≤ j.ofs + (nextPayload j).length)) s).egr with
        xf := some { j with
          ofs := j.ofs + (nextPayload j).length, nextAt := s.ticks + divUp ((nextPayload j).length * 2000) j.rate } } } := by
  unfold xfDatagram
  rw [h]
  exact if_neg fun hd => hd.elim (fun h => Bool.false_ne_true (hwait.symm.trans h)) (Nat.not_lt.mpr hdue)

/-- A datagram that is not the last moves the job by the whole payload. -/
theorem xfDatagram_goes_on (h : s.egr.xf = some j) (hwait : xfWaiting s = false) (hdue : j.nextAt ≤ s.ticks)
    (hmore : j.ofs + 1408 < j.bytes.length) : xfDatagram s = { datagramSent j false s with egr := { (datagramSent j false s).egr with
      xf := some { j with ofs := j.ofs + 1408, nextAt := s.ticks + divUp (1408 * 2000) j.rate } } } := by
  have hlen : (nextPayload j).length = 1408 := by rw [nextPayload_length]; omega
  have hlast : decide (j.bytes.length ≤ j.ofs + (nextPayload j).length) = false := decide_eq_false (by omega)
  rw [xfDatagram_due h hwait hdue, hlast, if_neg Bool.false_ne_true, hlen]

theorem xfDatagram_ends (h : s.egr.xf = some j) (hwait : xfWaiting s = false) (hdue : j.nextAt ≤ s.ticks)
    (hend : j.bytes.length ≤ j.ofs + 1408) : xfDatagram s = xfEnd xfOK (datagramSent j true s) := by
  have hlast : decide (j.bytes.length ≤ j.ofs + (nextPayload j).length) = true :=
    decide_eq_true (by rw [nextPayload_length]; omega)
  rw [xfDatagram_due h hwait hdue, hlast, if_pos rfl]

theorem xfDatagram_waits (h : s.egr.xf = some j) (hno : xfWaiting s = true ∨ s.ticks < j.nextAt) : xfDatagram s = s := by
  unfold xfDatagram
  rw [h]
  exact if_pos hno

end

theorem datagramSent_tables {j : XfJob} {last : Bool} {s : State} (hs : TablesWf s) : TablesWf (datagramSent j last s) :=
  (compose_keeps _ _ _ _ _ _ _ (Keeps.refl s)).tables hs

/-- Settles O31: a start by the port, its class and the item's key, and a transfer's datagrams by its job. -/
theorem egressTransmission : Obligations.EgressTransmission := by
  unfold Obligations.EgressTransmission
  refine ⟨?takes, ?sends, ?muted, ?stays, ?go, ?running, ?aborts, ?idle, ?moves, ?lands, ?ends, ?waits⟩
  case takes =>
    intro p c i s hp hpath hon hlink hwake htx hturn hi
    refine completes_txStart hp hpath ⟨hon, hlink, htx, hwake, hturn⟩ hi ?_
    rw [sendItem_egr]
    exact ⟨rfl, rfl⟩
  case sends =>
    intro p c i s hp hpath hon hlink hwake htx hturn hmute hkey hi
    refine completes_txStart hp hpath ⟨hon, hlink, htx, hwake, hturn⟩ hi ?_
    obtain ⟨hframe, hstamp⟩ := sendItem_sent p.val i (itemTaken p.val c.val i s) hmute ((keyFails_egr _ s i).trans hkey)
    exact ⟨hframe.trans (congrArg some (itemFrame_eq i rfl rfl)), hstamp⟩
  case muted =>
    intro p c i s hs hp hpath hon hlink hwake htx hturn hmute hi
    refine completes_txStart hp hpath ⟨hon, hlink, htx, hwake, hturn⟩ hi ?_
    have hcount : sendItem p.val i (itemTaken p.val c.val i s) = egrCount cMUTED_ITEMS 1 (itemTaken p.val c.val i s) := if_pos hmute
    rw [hcount]
    exact ⟨live_count_self (tables_of_eq hs rfl rfl), rfl⟩
  case stays =>
    intro p c s _ hno
    have hnot : ¬ MayStart s p.val c.val := by
      rintro ⟨hon, hlink, htx, hwake, hturn⟩
      obtain h | h | h | h | h := hno
      · exact Bool.false_ne_true (h.symm.trans hturn)
      · exact Bool.false_ne_true (h.symm.trans hon)
      · exact Bool.false_ne_true (h.symm.trans hlink)
      · exact h htx
      · exact Bool.false_ne_true (h.symm.trans hwake)
    exact exec_full_stays rfl (by rw [txStart_stays hnot, ite_self])
  case go =>
    intro who j s hs hv hfree hjob hmore
    refine completes_served rfl hv ?_
    rw [xfGo_starts (by rw [accessed_egr, hfree]) (by rw [xfJob_accessed, hjob]) hmore, accessed_egr]
    exact ⟨rfl, rdF_wrF_self (tables_of_eq (wr_tables (accessed_tables who s hs)) rfl rfl)⟩
  case running =>
    intro who j s hv hxf
    exact exec_served_stays hv rfl (if_pos (by rw [accessed_egr, hxf]; rfl))
  case aborts =>
    intro who j s hs hv hxf
    refine completes_served rfl hv ?_
    rw [xfAbort, if_pos (by rw [accessed_egr, hxf]; rfl), ← accessed_egr who s]
    exact xfEnd_facts (accessed_tables who s hs) (by decide)
  case idle =>
    intro who s hv hxf
    exact exec_served_stays hv rfl (if_neg (by rw [accessed_egr, hxf]; exact Bool.false_ne_true))
  case moves =>
    intro j s hp hxf hwait hdue hmore
    refine completes_full rfl hp ?_
    rw [xfDatagram_goes_on hxf hwait hdue hmore]
  case lands =>
    intro j s hp hxf hwait hdue hmore hused hroom hfirst
    have hlen : (nextPayload j).length = 1408 := by rw [nextPayload_length]; omega
    refine completes_full rfl hp ?_
    rw [xfDatagram_goes_on hxf hwait hdue hmore, datagramSent, hlen, compose_lands _ _ _ _ _ _ _ hused hroom hfirst]
    exact congrArg Queue.items (qLand_queue _ _ _)
  case ends =>
    intro j s hs hp hxf hwait hdue hend
    refine completes_full rfl hp ?_
    rw [xfDatagram_ends hxf hwait hdue hend]
    obtain ⟨hegr, hstat, hint⟩ := xfEnd_facts (n := xfOK) (datagramSent_tables (j := j) (last := true) hs) (by decide)
    exact ⟨congrArg Egress.xf hegr, hstat, hint⟩
  case waits =>
    intro s _ hno
    refine exec_full_stays rfl ?_
    obtain hxf | ⟨j, hxf, hwait⟩ := hno
    · unfold xfDatagram
      rw [hxf]
    · exact xfDatagram_waits hxf hwait

end Sys2Proof.Machine
end

section
/-!
PROOFS of the family other: the jobs and blocks of the Packer (O32).
-/

namespace Sys2Proof.Machine

open Sys2Proof

/-! Jobs (R321, R322). -/

section
variable {op k : Nat} {input : List Nat} {s : State}

/-- The state in which the input of a job stands at PAK_J_SRC, with nothing done. -/
def jobPlaced (input : List Nat) (s : State) : State :=
  wr PAK_J_OUT_LEN 0#32 (wr PAK_J_IN_DONE 0#32
    (setPak (fun p => { p with mem := regionWrite (rd s PAK_J_SRC).toNat input p.mem }) s))

/-- The job that the registers describe. -/
def jobMade (op k : Nat) (input : List Nat) (s : State) : PakJob :=
  { op := op,
    input := regionRead (setPak (fun p => { p with mem := regionWrite (rd s PAK_J_SRC).toNat input p.mem }) s)
      (rd s PAK_J_SRC).toNat (rd s PAK_J_LEN).toNat,
    dst := (rd s PAK_J_DST).toNat, dlen := (rd s PAK_J_DLEN).toNat, block := atLeast 4 k * 1024 }

/-- A job of the Packer has begun: its input is placed and it is BUSY. -/
structure JobBegun (op k : Nat) (input : List Nat) (s t : State) : Prop where
  stat : rd t PAK_J_STAT = 1#32
  mem : t.pak.mem = regionWrite (rd s PAK_J_SRC).toNat input s.pak.mem
  job : t.pak.job = some (jobMade op k input s)

theorem jobPlaced_tables (hs : TablesWf s) : TablesWf (jobPlaced input s) := wr_tables (wr_tables (tables_of_eq hs rfl rfl))

theorem jobStart_free (h : s.pak.job = none) : jobStart op k input s =
    if (rd s PAK_J_LEN).toNat = 0 then raise PAK_INT 0 (jobStat false pakOK (jobPlaced input s))
    else jobStat true 0 (setPak (fun p => { p with job := some (jobMade op k input s) }) (jobPlaced input s)) :=
  (if_neg (by rw [h]; exact Bool.false_ne_true)).trans rfl

theorem jobStart_busy {j : PakJob} (h : s.pak.job = some j) : jobStart op k input s = s := if_pos (by rw [h]; rfl)

theorem jobStart_begins (hs : TablesWf s) (h : s.pak.job = none) (hlen : rd s PAK_J_LEN ≠ 0#32) :
    JobBegun op k input s (jobStart op k input s) := by
  rw [jobStart_free h, if_neg fun h0 : (rd s PAK_J_LEN).toNat = 0 => hlen (BitVec.eq_of_toNat_eq h0)]
  exact ⟨rd_wr_same _ _ _ (tables_of_eq (jobPlaced_tables hs) rfl rfl), rfl, rfl⟩

/-- A job without input ends at once. -/
theorem jobStart_empty (hs : TablesWf s) (h : s.pak.job = none) (hlen : rd s PAK_J_LEN = 0#32) :
    rd (jobStart op k input s) PAK_J_STAT = 0#32 ∧ rdB (jobStart op k input s) PAK_INT 0 = true ∧
      (jobStart op k input s).pak.job = none := by
  rw [jobStart_free h, if_pos (by rw [hlen]; rfl), rd_raise_ne _ _ _ _ (by decide) (by decide), raise_pak]
  exact ⟨rd_wr_same _ _ _ (jobPlaced_tables hs), rdB_raise_self (wr_tables (jobPlaced_tables hs)) (by decide) (by decide), h⟩

theorem jobBegun_of_accessed {who : Req} {t : State} (h : JobBegun op k input (accessed who s) t) : rd t PAK_J_STAT = 1#32 ∧
    t.pak.mem = regionWrite (rd s PAK_J_SRC).toNat input s.pak.mem ∧
    (t.pak.job.map fun j => (j.op, j.dst, j.dlen, j.block, j.pos, j.out)) =
      some (op, (rd s PAK_J_DST).toNat, (rd s PAK_J_DLEN).toNat, atLeast 4 k * 1024, 0, []) := by
  obtain ⟨hstat, hmem, hjob⟩ := h
  refine ⟨hstat, ?_, ?_⟩
  · rw [hmem, rd_accessed, accessed_pak]
  · rw [hjob, ← rd_accessed who s PAK_J_DST, ← rd_accessed who s PAK_J_DLEN]
    rfl

end

/-- A served command of the Packer's jobs that starts one. -/
theorem completes_jobStart {c : Instr} {who : Req} {op k : Nat} {input : List Nat} {s : State}
    (hx : exec c s = .next (serve c who PAK_J_CMD (jobStart op k input) s)) (hs : TablesWf s) (hv : Served who PAK_J_CMD s)
    (h : s.pak.job = none) (hlen : rd s PAK_J_LEN ≠ 0#32) : Completes c s (JobBegun op k input (accessed who s)) :=
  completes_served hx hv (jobStart_begins (accessed_tables who s hs) ((congrArg Packer.job (accessed_pak who s)).trans h)
    (by rwa [rd_accessed]))

theorem dropEngine_facts (c : Nat) (s : State) : (dropEngine c s).regs = s.regs ∧ (dropEngine c s).live = s.live ∧
    (dropEngine c s).pak.job = s.pak.job := by
  unfold dropEngine
  split
  · split <;> exact ⟨rfl, rfl, rfl⟩
  · exact ⟨rfl, rfl, rfl⟩

theorem jobFail_none {r : Nat} {s : State} (h : s.pak.job = none) : jobFail r s = s := if_pos (by rw [h]; rfl)

/-- A failed job ends with its result. -/
theorem jobFail_facts {r : Nat} {j : PakJob} {s : State} (hs : TablesWf s) (h : s.pak.job = some j) :
    (jobFail r s).pak.job = none ∧ rdB (jobFail r s) PAK_INT 1 = true ∧ rd (jobFail r s) PAK_J_STAT = wordOf (2 * r) ∧
      liveCnt (jobFail r s) (PAK_CNT 10) = (liveCnt s (PAK_CNT 10) + 1) % 2 ^ 64 := by
  obtain ⟨hregs, hlive, hjob⟩ := dropEngine_facts 3 (setPak (fun p => { p with job := none }) s)
  have hdropped : TablesWf (dropEngine 3 (setPak (fun p => { p with job := none }) s)) := tables_of_eq hs hregs hlive
  have hfail : jobFail r s = raise PAK_INT 1 (pakCount cJOBS_FAILED 1 (jobStat false r (wr PAK_J_OUT_LEN 0#32 (wr PAK_J_IN_DONE 0#32
      (dropEngine 3 (setPak (fun p => { p with job := none }) s)))))) := if_neg (by rw [h]; exact Bool.false_ne_true)
  rw [hfail, raise_pak, rd_raise_ne _ _ _ _ (by decide) (by decide), live_of_eq (raise_live _ _ _)]
  refine ⟨hjob, rdB_raise_self (count_tables (wr_tables (wr_tables (wr_tables hdropped)))) (by decide) (by decide), ?_, ?_⟩
  · refine (rd_wr_same _ _ _ (wr_tables (wr_tables hdropped))).trans (congrArg wordOf ?_)
    rw [b2n]
    simp
  · exact (live_count_self (wr_tables (wr_tables (wr_tables hdropped)))).trans
      (congrArg (fun n => (n + 1) % 2 ^ 64) (live_of_eq hlive _))

theorem jobFlush_of {n : Nat} {b : PakBlock} {s : State} (h : s.pak.engine = some b) : jobFlush n s =
    if b.chan = 3 ∧ b.unpack = false ∧ 0 < n ∧ n < b.bytes.length then
      setPak (fun p => { p with engine := some { b with bytes := b.bytes.take n, flushed := true, last := false } }) s
    else s := by
  unfold jobFlush
  rw [h]

/-! Blocks (R316, R319, R320). -/

theorem packerBlockStart_idle {s : State} (h : s.pak.engine = none) : packerBlockStart s =
    match takeBlock s with
    | some (b, t) => setPak (fun p => { p with engine := some { b with shed := s.pak.shed } }) t
    | none => s := if_neg (by rw [h]; exact Bool.false_ne_true)

theorem countBlock_pak (b : PakBlock) (out : List Nat) (s : State) : (countBlock b out s).pak = s.pak :=
  (countBlock_within b out s (Within.refl s) (List.Subset.refl _)).of .pak

theorem countBlock_windows (b : PakBlock) (out : List Nat) (s : State) (w : Nat) : window (countBlock b out s) w = window s w :=
  congrArg (fun h : HostIf => tget ({} : Window) h.windows w) ((countBlock_within b out s (Within.refl s) (List.Subset.refl _)).of .host)

/-- A block whose window has ended is dropped. -/
theorem finishBlock_ended {b : PakBlock} {s : State} (hpack : b.unpack = false) (h0 : b.chan ≠ 0) (h3 : b.chan ≠ 3)
    (hended : (window s b.window).ended = true) : (finishBlock b s).pak = { s.pak with engine := none } := by
  unfold finishBlock
  dsimp only
  rw [hpack, if_neg Bool.false_ne_true, if_neg h0, if_neg h3, feedWindow, countBlock_windows]
  exact (congrArg State.pak (if_pos hended)).trans (countBlock_pak _ _ _)

theorem finishBlock_cancelled {b : PakBlock} {s : State} (hun : b.unpack = true) (hjob : s.pak.job = none) :
    finishBlock b s = setPak (fun p => { p with engine := none }) s := by
  unfold finishBlock
  dsimp only
  rw [hun, if_pos rfl]
  change (match s.pak.job with | none => _ | some j => _) = _
  rw [hjob]

/-- Settles O32: the jobs start, end and are cut short as the registers say, and the engine takes and finishes its blocks. -/
theorem packerJobs : Obligations.PackerJobs := by
  unfold Obligations.PackerJobs
  refine ⟨?pack, ?unpack, ?raw, ?empty, ?busy, ?flush, ?flushNone, ?abort, ?abortNone, ?takes, ?idle, ?running, ?done, ?ended,
    ?cancelled, ?nothing, ?snapshot⟩
  case pack =>
    intro who k input s hs hv hjob hlen
    obtain ⟨t, ht, hbegun⟩ := completes_jobStart (c := .jobPack who k input) rfl hs hv hjob hlen
    exact ⟨t, ht, jobBegun_of_accessed hbegun⟩
  case unpack =>
    intro who k input s hs hv hjob hlen
    obtain ⟨t, ht, hbegun⟩ := completes_jobStart (c := .jobUnpack who k input) rfl hs hv hjob hlen
    obtain ⟨hstat, -, hmade⟩ := jobBegun_of_accessed hbegun
    refine ⟨t, ht, hstat, ?_⟩
    rw [hbegun.job, ← rd_accessed who s PAK_J_DST, ← rd_accessed who s PAK_J_DLEN]
    rfl
  case raw =>
    intro who k input s hs hv hjob hlen
    obtain ⟨t, ht, hbegun⟩ := completes_jobStart (c := .jobRaw who k input) rfl hs hv hjob hlen
    obtain ⟨hstat, -, hmade⟩ := jobBegun_of_accessed hbegun
    exact ⟨t, ht, hstat, hmade⟩
  case empty =>
    intro who k input s hs hv hjob hlen
    exact completes_served rfl hv (jobStart_empty (accessed_tables who s hs) ((congrArg Packer.job (accessed_pak who s)).trans hjob)
      (by rw [rd_accessed, hlen]))
  case busy =>
    intro who k input j s hv hjob
    have hbusy : (accessed who s).pak.job = some j := (congrArg Packer.job (accessed_pak who s)).trans hjob
    exact ⟨exec_served_eq hv rfl (jobStart_busy hbusy), exec_served_eq hv rfl (jobStart_busy hbusy),
      exec_served_eq hv rfl (jobStart_busy hbusy)⟩
  case flush =>
    intro who n b s hv hrun hchan hpack hn hlen
    refine completes_served rfl hv ?_
    rw [jobFlush_of ((congrArg Packer.engine (accessed_pak who s)).trans hrun), if_pos ⟨hchan, hpack, hn, hlen⟩, setPak, accessed_pak]
  case flushNone =>
    intro who b s hv hrun
    refine exec_served_eq hv rfl ((jobFlush_of ((congrArg Packer.engine (accessed_pak who s)).trans hrun)).trans (if_neg ?_))
    rintro ⟨-, -, h, -⟩
    exact Nat.lt_irrefl 0 h
  case abort =>
    intro who j s hs hv hjob
    refine completes_served (f := jobFail pakABORTED) rfl hv ?_
    rw [← live_of_eq (accessed_live who s)]
    exact jobFail_facts (accessed_tables who s hs) ((congrArg Packer.job (accessed_pak who s)).trans hjob)
  case abortNone =>
    intro who s hv hjob
    exact exec_served_eq hv rfl (jobFail_none ((congrArg Packer.job (accessed_pak who s)).trans hjob))
  case takes =>
    intro b t s hp hidle htake
    exact exec_full_eq hp rfl (by rw [packerBlockStart_idle hidle, htake]; rfl)
  case idle =>
    intro s _ hidle htake
    exact exec_full_stays rfl (by rw [packerBlockStart_idle hidle, htake])
  case running =>
    intro b s _ hrun
    exact exec_full_stays rfl (if_pos (by rw [hrun]; rfl))
  case done =>
    intro b s hp hrun
    exact exec_full_eq hp rfl (by rw [hrun])
  case ended =>
    intro b s hp hrun hpack h0 h3 hended
    exact completes_full rfl hp (by rw [hrun]; exact finishBlock_ended hpack h0 h3 hended)
  case cancelled =>
    intro b s hp hrun hun hjob
    refine completes_full rfl hp ?_
    rw [hrun]
    dsimp only
    rw [finishBlock_cancelled hun hjob]
    exact ⟨rfl, rfl⟩
  case nothing =>
    intro s _ hidle
    exact exec_full_stays rfl (by rw [hidle])
  case snapshot =>
    intro who clr s hs hv
    exact completes_served rfl hv ⟨rdB_raise_snapshot (accessed_tables who s hs), (raise_pak _ _ _).trans
      (((snapshot_within _ _ _ _ _ (Within.refl _) (List.Subset.refl _)).of .pak).trans (accessed_pak who s))⟩

end Sys2Proof.Machine
end

section
/-!
PROOFS of the family other: uncorrectable errors, corrections and the patrol of the memories (O33).
-/

namespace Sys2Proof.Machine

open Sys2Proof

/-! Errors (R351 to R357). -/

section
variable {region addr ch lane : Nat} {target : UeTarget} {s : State}

theorem memUe_new (h : addr / 32 ∉ s.mem.poison) : memUe region addr target s = consequence region target (noteUe region addr s) :=
  congrArg (consequence region target) (if_neg h)

theorem memUe_poisoned (h : addr / 32 ∈ s.mem.poison) : memUe region addr .none s =
    setMem (fun m => { m with poison := m.poison.filter (fun c => decide (c ≠ addr / 32)) }) s :=
  (consequence_none region _).trans (if_pos h)

theorem memCe_correctable (h : onDegraded ch lane s = false) : memCe region addr ch lane target s =
    unitCount region addr (laneCount ch lane (raise MEM_INT 0 (count (MEM_CNT region 0) 1 s))) :=
  if_neg (by rw [h]; exact Bool.false_ne_true)

theorem memCe_uncorrectable (h : onDegraded ch lane s = true) : memCe region addr ch lane .none s = noteUe region addr s :=
  (if_pos h).trans (consequence_none region _)

theorem onDegraded_other {l : Nat} (h : s.mem.degraded = some (ch, l)) (hl : l ≠ lane) : onDegraded ch lane s = true := by
  unfold onDegraded
  rw [h]
  exact decide_eq_true ⟨rfl, hl⟩

/-! The patrol (R356). -/

theorem patrolNext_moves (h : s.mem.scrubAt + 1 < 469762048) :
    patrolNext s = setMem (fun m => { m with scrubAt := m.scrubAt + 1 }) s := if_pos h

/-- After the last codeword the next pass begins. -/
theorem patrolNext_wraps (hs : TablesWf s) (h : 469762048 ≤ s.mem.scrubAt + 1) : (patrolNext s).mem.scrubAt = 0 ∧
    (patrolNext s).mem.laneCe = [] ∧ (patrolNext s).mem.unitCe = [] ∧
    (patrolNext s).mem.scrubPeriod = atLeast 1 (rdF s MEM_SCRUB 0 8) ∧ rdB (patrolNext s) MEM_INT 4 = true := by
  have hpass : patrolNext s = raise MEM_INT 4 (setMem (fun m => { m with
      scrubAt := 0, scrubPeriod := atLeast 1 (rdF s MEM_SCRUB 0 8), scrubFrom := s.ticks, laneCe := [], unitCe := [] }) s) :=
    if_neg (Nat.not_lt.mpr h)
  rw [hpass, raise_mem]
  exact ⟨rfl, rfl, rfl, rfl, rdB_raise_self (tables_of_eq hs rfl rfl) (by decide) (by decide)⟩

theorem patrolRead_bad (h : s.mem.scrubAt ∉ s.mem.poison) : patrolRead region .uncorrectable s = patrolNext
    (setMem (fun m => { m with poison := m.poison ++ [s.mem.scrubAt] }) (noteUe region (32 * s.mem.scrubAt) s)) :=
  congrArg patrolNext (if_neg h)

end

theorem noteUe_mem (region addr : Nat) (s : State) : (noteUe region addr s).mem = s.mem :=
  (noteUe_within region addr s (Within.refl s) (List.Subset.refl _)).of .mem

/-- Settles O33: errors count and take their consequence, and the patrol goes on from codeword to codeword. -/
theorem memoryErrors : Obligations.MemoryErrors := by
  unfold Obligations.MemoryErrors
  refine ⟨?ue, ?struck, ?poisoned, ?outside, ?ce, ?degraded, ?clean, ?pass, ?early, ?bad, ?snapshot⟩
  case ue =>
    intro region addr s hs hp hin hnew
    refine completes_powered rfl hp ?_
    rw [if_pos hin, memUe_new hnew, consequence_none]
    exact noteUe_facts region addr.toNat s hs
  case struck =>
    intro region addr target s hp hin hnew htarget
    exact exec_powered_eq hp rfl ((if_pos hin).trans ((memUe_new hnew).trans (if_pos htarget)))
  case poisoned =>
    intro region addr s hp hin hknown
    exact exec_powered_eq hp rfl ((if_pos hin).trans (memUe_poisoned hknown))
  case outside =>
    intro region addr ch lane target s _ hout
    have hnot : ¬ inRegion region.val addr.toNat = true := by rw [hout]; exact Bool.false_ne_true
    exact ⟨exec_powered_stays rfl (if_neg hnot), exec_powered_stays rfl (if_neg hnot)⟩
  case ce =>
    intro region addr ch lane target s hs hp hin hlane
    refine completes_powered rfl hp ?_
    rw [if_pos hin, memCe_correctable hlane]
    refine ⟨?_, rfl⟩
    exact (live_of_eq ((unitCount_live _ _ _).trans ((laneCount_live _ _ _).trans (raise_live _ _ _))) _).trans (live_count_self hs)
  case degraded =>
    intro region addr ch lane l s hs hp hin hdeg hl
    refine completes_powered rfl hp ?_
    rw [if_pos hin, memCe_uncorrectable (onDegraded_other hdeg hl)]
    exact noteUe_facts region addr.toNat s hs
  case clean =>
    intro region s hp hdue hmore
    exact exec_full_eq hp rfl ((if_pos hdue).trans (patrolNext_moves hmore))
  case pass =>
    intro region s hs hp hdue hlast
    refine completes_full rfl hp ?_
    rw [if_pos hdue]
    exact patrolNext_wraps hs hlast
  case early =>
    intro region r s _ hdue
    exact exec_full_stays rfl (if_neg (by rw [hdue]; exact Bool.false_ne_true))
  case bad =>
    intro region s hp hdue hnew
    refine exec_full_eq hp rfl ((if_pos hdue).trans ((patrolRead_bad hnew).trans (congrArg patrolNext ?_)))
    rw [setMem, noteUe_mem]
  case snapshot =>
    intro who clr s hs hv
    exact completes_served rfl hv ⟨rdB_raise_snapshot (accessed_tables who s hs), (raise_mem _ _ _).trans
      (((snapshot_within _ _ _ _ _ (Within.refl _) (List.Subset.refl _)).of .mem).trans (accessed_mem who s))⟩

end Sys2Proof.Machine
end

section
/-!
PROOFS of the family other: posts, CANCEL, WAIT and thread faults of the Deck (O34).
-/

namespace Sys2Proof.Machine

open Sys2Proof

/-! Posts (R333, R334). -/

section
variable {t c : Nat} {s : State}

theorem postApply_front {r : List Nat} (h : s.deck.postq = t :: r) : postApply s =
    dispatch (drainTrig 32 (retryHeld (applyPost t (count (CTL_SCH_CNT 0) 1 { s with deck := { s.deck with postq := r } })))) := by
  unfold postApply
  rw [h]

theorem postApply_none (h : s.deck.postq = []) : postApply s = dispatch (drainTrig 32 (retryHeld s)) := by
  unfold postApply
  rw [h]

theorem applyPost_dormant (h : (thread s t).st = .dormant) : applyPost t s = count (CTL_SCH_CNT 12) 1 s := by
  unfold applyPost
  dsimp only
  rw [h]

theorem offerPost_room {p : PostSource} (h : postRoom s t = true) :
    offerPost p t s = { s with deck := { s.deck with postq := s.deck.postq ++ [t] } } := if_pos h

theorem postInstruction_running {u : Nat} (h : runningOn s c = some u) :
    postInstruction c t s = if 64 ≤ u ∧ t < 64 then s else offerPost (.instr c) t s := by
  unfold postInstruction
  rw [h]

theorem postInstruction_idle (h : runningOn s c = none) : postInstruction c t s = s := by
  unfold postInstruction
  rw [h]

theorem postInstruction_offers {u : Nat} (h : runningOn s c = some u) (hmay : u < 64 ∨ 64 ≤ t) :
    postInstruction c t s = offerPost (.instr c) t s := (postInstruction_running h).trans (if_neg (by omega))

/-! The host's posts and CANCEL (R337). -/

theorem thread_accessed (who : Req) (s : State) (t : Nat) : thread (accessed who s) t = thread s t := by cases who <;> rfl

theorem hostPosting_accessed (who : Req) (s : State) : hostPosting (accessed who s) = hostPosting s := by cases who <;> rfl

theorem thWords_accessed (who : Req) (s : State) (t : Nat) : thWords (accessed who s) t = thWords s t := by
  unfold thWords
  rw [thread_accessed]

/-- The state in which the host's post is taken: it was not refused. -/
def hostAllowed (s : State) : State := { s with deck := { s.deck with hostRefused := false } }

variable {i : Instr} {f : State → State}

theorem hostPostWrite_refuses (h : (thread s t).hostPost = false) :
    hostPostWrite i t f s = { s with deck := { s.deck with hostRefused := true } } := if_pos (by rw [h]; rfl)

theorem hostPostWrite_holds (h : (thread s t).hostPost = true) (hheld : hostPosting s = true) :
    hostPostWrite i t f s = holdWrite i .host s := (if_neg (by rw [h]; exact Bool.false_ne_true)).trans (if_pos hheld)

theorem hostPostWrite_takes (h : (thread s t).hostPost = true) (hfree : hostPosting s = false) :
    hostPostWrite i t f s = f (hostAllowed s) :=
  (if_neg (by rw [h]; exact Bool.false_ne_true)).trans (if_neg (by rw [hfree]; exact Bool.false_ne_true))

theorem cancelThread_ready (h : (thread s t).st = .ready) : cancelThread t s = setThread t { thread s t with posts := 0, st := .waiting }
    { count (CTL_SCH_CNT 6) 1 s with deck := { s.deck with ready := s.deck.ready.filter (fun k => decide (k ≠ t)) } } := if_pos h

theorem cancelThread_other (h : (thread s t).st ≠ .ready) :
    cancelThread t s = setThread t { thread s t with posts := 0 } (count (CTL_SCH_CNT 6) 1 s) := if_neg h

theorem hostCancel_plain : hostCancel t false s = cancelThread t s := if_neg fun h => Bool.false_ne_true h.1

/-! WAIT and faults (R331, R332, R339). -/

theorem threadWait_of {n : Nat} (h : runningOn s c = some t) : threadWait c n s =
    if 0 < (thread s t).posts then setThread t { thread s t with posts := (thread s t).posts - 1 } s
    else dispatch (setRunning c none (setThread t
      { thread s t with st := .waiting, timeout := if n = 0 then none else some n } s)) := by
  unfold threadWait
  rw [h]

/-- A customer thread stopped by a fault, with the faults of its last 60 s. -/
def faultStopped (c t : Nat) (s : State) : State :=
  logEvent srcCTL 3 4 (wordOf t) [] (setInt CTL_INT 5 (setThread t
    { thread s t with
      st := .faulted, posts := 0, timeout := none, faults := satAdd (thread s t).faults 1 255,
      faultTicks := s.ticks :: (thread s t).faultTicks.filter (fun k => decide (s.ticks ≤ k + 15000000000)) }
    (setRunning c none s)))

theorem threadFault_of (h : runningOn s c = some t) : threadFault c s = if t < 64 then s
    else if 3 ≤ (s.ticks :: (thread s t).faultTicks.filter (fun k => decide (s.ticks ≤ k + 15000000000))).length then
      dispatch (faultStopped c t s)
    else dispatch (makeReady false t (faultStopped c t s)) := by
  unfold threadFault
  rw [h]
  rfl

end

/-- A served write of CTL_HPOST of a thread with HOST_POST, with no host post held. -/
theorem completes_hostCancel {t : Fin 256} {s : State} {P : State → Prop} (hv : Served .host CTL_HPOST s)
    (hpost : (thread s t.val).hostPost = true) (hfree : hostPosting s = false)
    (hP : P (cancelThread t.val (hostAllowed (accessed .host s)))) : Completes (.hostCancel t false) s P := by
  refine completes_served (who := .host) rfl hv ?_
  rw [hostPostWrite_takes (by rw [thread_accessed, hpost]) (by rw [hostPosting_accessed, hfree]), hostCancel_plain]
  exact hP

/-- Settles O34: posts are applied, offered, held and cancelled, and threads wait and fault, as the scheduler says. -/
theorem deckPosts : Obligations.DeckPosts := by
  unfold Obligations.DeckPosts
  refine ⟨?front, ?none, ?dormant, ?offers, ?idle, ?enters, ?hostEnters, ?hostRefused, ?hostHeld, ?cancel, ?cancelReady, ?timeout,
    ?running, ?consumes, ?waits, ?waitsLong, ?stopped, ?again, ?firmware, ?load⟩
  case front =>
    intro t r s hp h
    exact exec_full_eq hp rfl (postApply_front h)
  case none =>
    intro s hp h
    exact exec_full_eq hp rfl (postApply_none h)
  case dormant =>
    intro t s hs h
    rw [applyPost_dormant h]
    exact ⟨live_count_self hs, rfl⟩
  case offers =>
    intro c t u s hp hrun hmay
    exact exec_full_eq hp rfl (postInstruction_offers hrun hmay)
  case idle =>
    intro c t s _ hno
    refine exec_full_stays rfl ?_
    obtain h | ⟨ht, u, hrun, hu⟩ := hno
    · exact postInstruction_idle h
    · exact (postInstruction_running hrun).trans (if_pos ⟨hu, ht⟩)
  case enters =>
    intro c t u s hp hrun hmay hroom
    exact exec_full_eq hp rfl ((postInstruction_offers hrun hmay).trans (offerPost_room hroom))
  case hostEnters =>
    intro t s hv hpost hfree hroom
    refine completes_served (who := .host) rfl hv ?_
    rw [hostPostWrite_takes (by rw [thread_accessed, hpost]) (by rw [hostPosting_accessed, hfree]),
      offerPost_room (s := hostAllowed (accessed .host s)) hroom]
    rfl
  case hostRefused =>
    intro t s hv hpost
    refine completes_served (who := .host) rfl hv ?_
    rw [hostPostWrite_refuses (by rw [thread_accessed, hpost])]
    rfl
  case hostHeld =>
    intro t s hv hpost hheld
    refine completes_served (who := .host) rfl hv ?_
    rw [hostPostWrite_holds (by rw [thread_accessed, hpost]) (by rw [hostPosting_accessed, hheld])]
    exact ⟨rfl, rfl⟩
  case cancel =>
    intro t s hs hv hpost hfree hwait
    refine completes_hostCancel hv hpost hfree ?_
    have hother : (thread (hostAllowed (accessed .host s)) t.val).st ≠ .ready := fun h => by cases hwait.symm.trans h
    rw [cancelThread_other hother]
    exact ⟨rfl, live_count_self (tables_of_eq (accessed_tables .host s hs) rfl rfl)⟩
  case cancelReady =>
    intro t s hs hv hpost hfree hready
    refine completes_hostCancel hv hpost hfree ?_
    rw [cancelThread_ready (s := hostAllowed (accessed .host s)) hready]
    exact ⟨rfl, rfl, live_count_self (tables_of_eq (accessed_tables .host s hs) rfl rfl)⟩
  case timeout =>
    intro t s hp h
    exact exec_full_eq hp rfl (if_pos h)
  case running =>
    intro t s _ h
    exact exec_full_stays rfl (if_neg h)
  case consumes =>
    intro c n t s hp hrun hposts
    exact exec_full_eq hp rfl ((threadWait_of hrun).trans (if_pos hposts))
  case waits =>
    intro c n t s hp hrun hposts hn
    have hn' : ¬ n.toNat = 0 := fun h => hn (BitVec.eq_of_toNat_eq h)
    exact exec_full_eq hp rfl ((threadWait_of hrun).trans ((if_neg (by omega)).trans (by rw [if_neg hn']; rfl)))
  case waitsLong =>
    intro c t s hp hrun hposts
    exact exec_full_eq hp rfl ((threadWait_of hrun).trans (if_neg (by omega)))
  case stopped =>
    intro c t s hp hrun ht hmany
    exact exec_full_eq hp rfl ((threadFault_of hrun).trans ((if_neg (by omega)).trans (if_pos hmany)))
  case again =>
    intro c t s hp hrun ht hfew
    exact exec_full_eq hp rfl ((threadFault_of hrun).trans ((if_neg (by omega)).trans (if_neg (Nat.not_le.mpr hfew))))
  case firmware =>
    intro c t s _ hrun ht
    exact exec_full_stays rfl ((threadFault_of hrun).trans (if_pos ht))
  case load =>
    intro who t s hs hv
    have hst : TablesWf (wr CTL_TH_IDX (wordOf t.val) (accessed who s)) := wr_tables (accessed_tables who s hs)
    refine completes_served (f := fun u => wrWords (CTL_TH_W 0) (thWords u t.val) (wr CTL_TH_IDX (wordOf t.val) u)) rfl hv ?_
    rw [thWords_accessed]
    exact ⟨rd_wrWords_word (ws := thWords s t.val) 0 hst Nat.two_pos, rd_wrWords_word (ws := thWords s t.val) 1 hst Nat.one_lt_two,
      (rd_wrWords_out _ _ _ _ (.inl (by decide))).trans (rd_wr_same _ _ _ (accessed_tables who s hs))⟩

end Sys2Proof.Machine
end

section
/-!
PROOFS of the family other: the watchdog and the restart of the Deck (O35), and its performance counters (O36).
-/

namespace Sys2Proof.Machine

open Sys2Proof

/-! Restarts (R341 to R344). -/

section
variable {s : State}

theorem wdogDue_stopped (h : s.deck.wdogOn = false ∨ s.ticks < s.deck.wdogAt + rdF s CTL_WDOG 0 10 * 250000) : wdogDue s = false := by
  unfold wdogDue
  obtain h | h := h
  · rw [h, Bool.false_and]
  · rw [decide_eq_false (Nat.not_le.mpr h), Bool.and_false]

theorem deckRestart_run {cause : Nat} (h : s.deck.st = .run) : deckRestart cause s = restartBegin cause s := by
  unfold deckRestart
  rw [h]

theorem deckRestart_restarting {cause : Nat} (h : s.deck.st = .restarting) : deckRestart cause s = count (CTL_SCH_CNT 16) 1 s := by
  unfold deckRestart
  rw [h]

theorem deckRestart_failed (h : s.deck.st = .failed) : deckRestart causeHOST s = restartBegin causeHOST s := by
  unfold deckRestart
  rw [h]
  exact if_neg (by decide)

theorem deckRestart_setInt {cause a k : Nat} (h : s.deck.st = .run) :
    deckRestart cause (setInt a k s) = restartBegin cause (setInt a k s) := deckRestart_run (by rw [setInt_deck, h])

theorem machineCheck_other {c : Nat} {customer : Bool} (h : s.deck.st ≠ .run) : machineCheck c customer s = s := if_neg h

/-- A Deck that is restarting for `cause`: nothing is posted or ready, and no watchdog runs. -/
structure Restarting (cause : Nat) (t : State) : Prop where
  st : t.deck.st = .restarting
  cause : t.deck.cause = cause
  postq : t.deck.postq = []
  ready : t.deck.ready = []
  wdog : t.deck.wdogOn = false

/-- The state before a restart resets the Deck: the cause is shown, and the restart announced and recorded. -/
def restartNoted (cause : Nat) (s : State) : State :=
  logEvent srcCTL 1 4 (wordOf cause) [] (setInt CTL_INT 0 (wrF CTL_RESTART_INFO 0 3 cause
    (count (CTL_SCH_CNT 14) s.deck.postq.length s)))

theorem restartNoted_mast (cause : Nat) : (restartNoted cause s).mast = s.mast := by
  unfold restartNoted
  rw [logEvent_mast, setInt_mast]
  rfl

theorem restartBegin_restarting {cause : Nat} (h : s.mast.st ≠ .locked) : Restarting cause (restartBegin cause s) := by
  have hbegin : restartBegin cause s = { deckReset (restartNoted cause s) with deck := { (deckReset (restartNoted cause s)).deck with
      isStart := false, cause := cause, restarts := (deckReset (restartNoted cause s)).deck.restarts + 1 } } := by
    refine if_neg (c := (restartNoted cause s).mast.st = .locked) ?_
    rw [restartNoted_mast]
    exact h
  rw [hbegin]
  exact ⟨rfl, rfl, rfl, rfl, rfl⟩

theorem deckRun_runs (version : Word) : (deckRun version s).deck.st = .run := by
  unfold deckRun
  dsimp only
  split
  · rfl
  · rw [setInt_deck]
    rfl

theorem deckLate_iff : deckLate s = true ↔ s.deck.st = .restarting ∧ s.deck.beganAt + 250000000 ≤ s.ticks := by
  unfold deckLate
  rw [Bool.and_eq_true, decide_eq_true_eq, decide_eq_true_eq]

end

/-- Settles O35: the watchdog, a machine check and the host restart the Deck, which runs again or fails. -/
theorem deckRestarts : Obligations.DeckRestart := by
  unfold Obligations.DeckRestart
  refine ⟨?kick, ?kickHost, ?expires, ?quiet, ?check, ?customer, ?checkOther, ?hostRun, ?hostFailed, ?counts, ?otherKey,
    ?restarting, ?done, ?runs, ?unverified, ?fails, ?early, ?other⟩
  case kick =>
    intro k s hv
    exact completes_served rfl hv rfl
  case kickHost =>
    intro s hv
    exact exec_served_stays hv rfl rfl
  case expires =>
    intro s hp hdue hrun
    exact exec_full_eq hp rfl ((if_pos ⟨hdue, hrun⟩).trans (deckRestart_setInt hrun))
  case quiet =>
    intro s _ hno
    refine exec_full_stays rfl (if_neg ?_)
    rintro ⟨hdue, hrun⟩
    obtain h | h | h := hno
    · exact Bool.false_ne_true ((wdogDue_stopped (.inl h)).symm.trans hdue)
    · exact Bool.false_ne_true ((wdogDue_stopped (.inr h)).symm.trans hdue)
    · exact h hrun
  case check =>
    intro c s hp hrun
    exact exec_full_eq hp rfl ((if_pos hrun).trans ((if_neg Bool.false_ne_true).trans (deckRestart_setInt hrun)))
  case customer =>
    intro c s hp hrun
    exact exec_full_eq hp rfl ((if_pos hrun).trans (if_pos rfl))
  case checkOther =>
    intro c customer s _ hrun
    exact exec_full_stays rfl (machineCheck_other hrun)
  case hostRun =>
    intro who s hv hrun
    exact exec_served_eq hv rfl ((if_pos rfl).trans (deckRestart_run (by rw [accessed_deck, hrun])))
  case hostFailed =>
    intro who s hv hfailed
    exact exec_served_eq hv rfl ((if_pos rfl).trans (deckRestart_failed (by rw [accessed_deck, hfailed])))
  case counts =>
    intro who s hs hv hrestarting
    refine completes_served rfl hv ?_
    rw [if_pos rfl, deckRestart_restarting (by rw [accessed_deck, hrestarting])]
    exact ⟨accessed_deck who s, (live_count_self (accessed_tables who s hs)).trans
      (congrArg (fun n => (n + 1) % 2 ^ 64) (live_of_eq (accessed_live who s) _))⟩
  case otherKey =>
    intro who key s hv hkey
    exact exec_served_eq hv rfl (if_neg hkey)
  case restarting =>
    intro cause s hmast
    obtain ⟨hst, hcause, hpostq, hready, hwdog⟩ := restartBegin_restarting (cause := cause) hmast
    exact ⟨hst, hcause, hpostq, hready, hwdog⟩
  case done =>
    intro version s hp hrestarting
    exact exec_full_eq hp rfl (if_pos ⟨hrestarting, rfl⟩)
  case runs =>
    intro version s _
    exact deckRun_runs version
  case unverified =>
    intro version s _
    exact exec_full_stays rfl (if_neg fun h => Bool.false_ne_true h.2)
  case fails =>
    intro s hp hrestarting hlate
    exact exec_full_eq hp rfl (if_pos (deckLate_iff.mpr ⟨hrestarting, hlate⟩))
  case early =>
    intro s _ hearly
    exact exec_full_stays rfl (if_neg fun h => Nat.not_le.mpr hearly (deckLate_iff.mp h).2)
  case other =>
    intro s _ hst
    exact ⟨exec_full_stays rfl (if_neg fun h => hst (deckLate_iff.mp h).1),
      fun version => exec_full_stays rfl (if_neg fun h => hst h.1)⟩

/-! Performance counters and sampling (R345 to R350). -/

section
variable {s : State}

/-- A counter that is zeroed loses its flag. -/
theorem pcZero_flag {c : PcCounter} (hs : TablesWf s) : pcFlag (pcZero c s) c = false := by
  refine rdB_setStat_self (a := pcStat c) (k := pcBit c) (s := wr64 (pcReg c) 0 s) (wr_tables (wr_tables hs)) ?_
  cases c with
  | core c k => exact Nat.lt_trans k.isLt (by decide)
  | dataPath k => exact k.isLt

theorem pushSample_deck (c : Nat) (w0 w1 w2 w3 : Word) : (pushSample c w0 w1 w2 w3 s).deck = s.deck := by
  unfold pushSample
  split
  · exact setInt_deck _ _ _
  · dsimp only
    split
    · exact setInt_deck _ _ _
    · rfl

theorem pcSmode_deck (c mode : Nat) : (pcSmode c mode s).deck = { s.deck with
    sampling := tset false s.deck.sampling c (decide (mode = 1 ∨ mode = 2) && !decide (mode = 1 ∧
      rdF (wrF (CTL_PC_CTRL c) 3 2 mode s) (CTL_PC_SEL c (rdF (wrF (CTL_PC_CTRL c) 3 2 mode s) (CTL_PC_CTRL c) 5 3)) 0 10 ∉ preciseEvents)),
    w2 := tset none s.deck.w2 c none, w2At := tset 0 s.deck.w2At c s.ticks } := by
  unfold pcSmode
  dsimp only
  split
  · split <;> rfl
  · rfl

theorem pcSmode_bad {c mode : Nat} (hs : TablesWf s) (h : mode ≠ 1) : rdB (pcSmode c mode s) (CTL_PC_STAT c) 10 = false := by
  unfold pcSmode
  dsimp only
  rw [rdB_setStat_self]
  · exact decide_eq_false fun hbad => h hbad.1
  · split
    · split <;> exact wr_tables hs
    · exact wr_tables hs

theorem w2winMay_of {c n : Nat} {x : W2Win} (h : n = 32 ∨ tget none s.deck.running c ≠ some x.thread) : w2winMay s c n x = true := by
  unfold w2winMay
  rw [Bool.or_eq_true, decide_eq_true_eq, decide_eq_true_eq]
  exact h

theorem w2winMay_not {c n : Nat} {x : W2Win} (hn : n ≠ 32) (h : tget none s.deck.running c = some x.thread) : w2winMay s c n x = false := by
  unfold w2winMay
  rw [decide_eq_false hn, Bool.false_or]
  exact decide_eq_false (not_not_intro h)

end

/-- Settles O36: the counters' switches, their sampling and windows, and the overflow of a counter that counts. -/
theorem deckCounters : Obligations.DeckCounters := by
  unfold Obligations.DeckCounters
  refine ⟨?en, ?freeze, ?clear, ?zero, ?sel, ?selPath, ?modeOff, ?modeWindow, ?precise, ?other, ?opens, ?unopened, ?closes, ?runs,
    ?none, ?overflow, ?still, ?snapshot⟩
  case en =>
    intro who set on s hs hv
    exact completes_served rfl hv ⟨rdB_setStat_self (accessed_tables who s hs), accessed_deck who s⟩
  case freeze =>
    intro who set on s hs hv
    exact completes_served rfl hv ⟨rdB_setStat_self (accessed_tables who s hs), accessed_deck who s⟩
  case clear =>
    intro who set s hv
    exact exec_served_eq hv rfl rfl
  case zero =>
    intro c s hs
    exact pcZero_flag hs
  case sel =>
    intro who c k v s hs hv
    exact completes_served rfl hv ⟨rd_wr_same _ _ _ (accessed_tables who s hs), accessed_deck who s⟩
  case selPath =>
    intro who k v s hs hv
    exact completes_served rfl hv ⟨rd_wr_same _ _ _ (accessed_tables who s hs), accessed_deck who s⟩
  case modeOff =>
    intro who c s hs hv
    refine completes_served rfl hv ?_
    rw [pcSmode_deck, accessed_deck]
    exact ⟨rfl, rfl, pcSmode_bad (accessed_tables who s hs) (by decide)⟩
  case modeWindow =>
    intro who c s hs hv
    refine completes_served rfl hv ?_
    rw [pcSmode_deck, accessed_deck]
    exact ⟨rfl, pcSmode_bad (accessed_tables who s hs) (by decide)⟩
  case precise =>
    intro c a l s hp hmode
    exact exec_full_eq hp rfl (if_pos hmode)
  case other =>
    intro c a l s _ hmode
    exact exec_full_stays rfl (if_neg hmode)
  case opens =>
    intro c a t s hp hmode hnone hdue hrun
    refine exec_full_eq hp rfl ((if_pos ⟨hmode, hnone, hdue⟩).trans ?_)
    rw [runningOn, hrun]
  case unopened =>
    intro c a s _ hno
    refine exec_full_stays rfl ?_
    split
    next h =>
      obtain ⟨hmode, -, hdue⟩ := h
      obtain h | h | h := hno
      · exact absurd hmode h
      · exact absurd (h.symm.trans hdue) Bool.false_ne_true
      · rw [runningOn, h]
    next => rfl
  case closes =>
    intro c n r w f m x s hp hopen hmay _
    refine completes_full rfl hp ?_
    rw [hopen]
    dsimp only
    rw [if_pos (w2winMay_of hmay), w2winClose, pushSample_deck]
    exact ⟨rfl, rfl⟩
  case runs =>
    intro c n r w f m x s _ hopen hn hrun
    refine exec_full_stays rfl ?_
    rw [hopen]
    exact if_neg (by rw [w2winMay_not hn hrun]; exact Bool.false_ne_true)
  case none =>
    intro c n r w f m s _ hnone
    exact exec_full_stays rfl (by rw [hnone])
  case overflow =>
    intro c s hp hcount
    exact exec_full_eq hp rfl (if_neg (by rw [hcount]; exact Bool.false_ne_true))
  case still =>
    intro c s _ hcount
    exact exec_full_stays rfl (if_pos (by rw [hcount]; rfl))
  case snapshot =>
    intro who clr s hs hv
    refine completes_served rfl hv ⟨rdB_setInt_self ?_, ?_⟩
    · exact (snapshot_keeps _ _ _ _ _ (Keeps.refl _)).tables (accessed_tables who s hs)
    · exact (setInt_deck _ _ _).trans (((snapshot_within _ _ _ _ _ (Within.refl _) (List.Subset.refl _)).of .deck).trans (accessed_deck who s))

end Sys2Proof.Machine
end

section
/-!
PROOFS of the family other: the flushes, tracks, clears, last words and reads of the Ledger (O39).
-/

namespace Sys2Proof.Machine

open Sys2Proof

/-! Flushes (R361, R365, R366). -/

section
variable {s : State} {es : List LEvent} {bad : List Nat}

theorem flushTimed_undue (h : flushDue s = false) : flushTimed es bad s = s := if_pos (by rw [h]; rfl)

theorem flushTimed_due (h : flushDue s = true) :
    flushTimed es bad s = if s.ledger.clrWait then clearBegin es bad s else flushRun es bad s :=
  if_neg (by rw [h]; exact Bool.false_ne_true)

theorem flushTimed_flushes (h : flushDue s = true) (hwait : s.ledger.clrWait = false) : flushTimed es bad s = flushRun es bad s :=
  (flushTimed_due h).trans (if_neg (by rw [hwait]; exact Bool.false_ne_true))

theorem flushDue_spaced {t : Nat} (h : s.ledger.flushAt = some t) (hsoon : s.ticks < t + 2500000) : flushDue s = false := by
  unfold flushDue flushSpaced
  rw [h]
  dsimp only
  rw [decide_eq_false (Nat.not_le.mpr hsoon), Bool.false_and]

theorem flushRun_failed (h : s.ledger.fail = true) : flushRun es bad s = es.foldl (fun t e => logOffered e t) s :=
  if_pos (by rw [h]; rfl)

/-- A flush that writes the buffer and a control record, and nothing else: the memory holds, no clear erases, no record was
dropped, and no peer is told. -/
structure PlainFlush (s : State) : Prop where
  holds : s.ledger.fail = false
  clr : s.ledger.clr ≠ .clearing
  note : s.ledger.dropNote = false
  alone : isPair s = false

/-- The state in which a flush has begun: its records are frozen. -/
def flushBegun (s : State) : State :=
  setLedger (fun l => { l with
    buf := l.buf.map (fun r => { r with frozen := true }), flushReq := false, faultFlush := false, flushAt := some s.ticks }) s

/-- The state in which the frozen records stand in the log. -/
def flushLogged (s : State) : State :=
  ((flushBegun s).ledger.buf.filter (fun r => r.frozen)).foldl (fun t r => logWrite r t)
    (setLedger (fun l => { l with buf := l.buf.filter (fun r => !r.frozen) }) (flushBegun s))

theorem erasing_idle (h : s.ledger.clr ≠ .clearing) : erasing s = false := by
  unfold erasing
  rw [decide_eq_false h, Bool.false_and]

theorem flushRun_plain (h : PlainFlush s) (hpair : isPair (flushLogged s) = false) :
    flushRun [] [] s = raise LDG_INT 0 (controlRecord (flushLogged s)) := by
  obtain ⟨hholds, hclr, hnote, -⟩ := h
  have hwrites : flushRun [] [] s = raise LDG_INT 0 (mirrorRecords (logSince s.ledger.seq (flushLogged s))
      (controlRecord (flushLogged s))) := by
    unfold flushRun
    rw [hholds, erasing_idle hclr, if_neg (by decide)]
    refine (if_neg (c := (flushBegun s).ledger.fail = true) (by change ¬ s.ledger.fail = true; rw [hholds]; decide)).trans ?_
    rw [hnote]
    rfl
  rw [hwrites, mirror_none _ (controlRecord (flushLogged s)) hpair]

theorem flushLogged_empty (h : s.ledger.buf = []) : (flushLogged s).ledger = { s.ledger with
    flushReq := false, faultFlush := false, flushAt := some s.ticks } ∧ isPair (flushLogged s) = isPair s := by
  have hbuf : (flushBegun s).ledger.buf = [] := by
    unfold flushBegun
    rw [setLedger, h]
    rfl
  unfold flushLogged
  rw [hbuf]
  refine ⟨?_, rfl⟩
  unfold flushBegun
  simp only [List.filter_nil, List.foldl_nil, setLedger, h, List.map_nil]

/-- The state from which the flush of the one record `r` writes it. -/
def oneFrozen (s : State) : State := setLedger (fun l => { l with
  buf := [], flushReq := false, faultFlush := false, flushAt := some s.ticks }) s

theorem flushLogged_one {r : LRec} (h : s.ledger.buf = [r]) : flushLogged s = logWrite { r with frozen := true } (oneFrozen s) := by
  unfold flushLogged flushBegun oneFrozen
  simp only [setLedger, h, List.map_cons, List.map_nil, List.filter_cons, if_true, List.filter_nil, Bool.not_true, Bool.false_eq_true,
    if_false, List.foldl_cons, List.foldl_nil]

/-! Tracks (R371). -/

theorem trackTimed_due {k : Nat} {d : Int} (h : tget 0 s.ledger.trackDue k ≤ s.ticks) : trackTimed k d s =
    trackSample k d { s with ledger := { s.ledger with
      trackDue := tset 0 s.ledger.trackDue k (s.ticks + trackPeriod s k * 250000000) } } := if_neg (Nat.not_lt.mpr h)

theorem trackSample_image {k : Nat} {d : Int} {c : TrackCfg} (hk : 8 ≤ k)
    (h : (s.cfg.tracks.find? (fun p => decide (p.1 = k))).map (fun p => p.2) = some c) :
    trackSample k d s = trackPut k c.low c.high (trackField s c) s := by
  unfold trackSample
  rw [if_neg (Nat.not_lt.mpr hk), h]

theorem trackSample_fixed {k : Nat} {d : Int} (hk : k < 8) : trackSample k d s =
    trackPut k (Config.trackRange k 0) (Config.trackRange k 1) (fixedSample s k d)
      (setLedger (fun l => { l with lateSeen := if k = 6 then liveCnt s (MKT_CNT 10) else l.lateSeen }) s) := if_pos hk

theorem trackBin_below {lo hi v : Int} (h : v < lo) : trackBin lo hi v = 0 := if_pos h

theorem trackBin_above {lo hi v : Int} (hlo : lo ≤ v) (hhi : hi ≤ v) : trackBin lo hi v = 31 :=
  (if_neg (not_lt.mpr hlo)).trans (if_pos hhi)

theorem tracksDue_iff : tracksDue s = true ↔ s.ledger.tracksAt + atLeast 60 (rdF s LDG_CFG 16 16) * 250000000 ≤ s.ticks :=
  decide_eq_true_iff

theorem trackWrite_writes (h : s.ledger.fail = false) (hclr : s.ledger.clr ≠ .clearing) : (trackWrite s).ledger =
    if s.ledger.copyTurn = true
      then { s.ledger with copyB := some s.ledger.tracks, badB := [], copyTurn := false, tracksAt := s.ticks }
      else { s.ledger with copyA := some s.ledger.tracks, badA := [], copyTurn := true, tracksAt := s.ticks } :=
  congrArg State.ledger (if_neg (by rw [h, erasing_idle hclr]; decide))

/-! Clears (R374, R375). -/

theorem clrLive_iff : clrLive s = true ↔ s.ledger.clr = .awaitAuth ∨ s.ledger.clr = .authorized := decide_eq_true_iff

theorem clrOver_iff : clrOver s = true ↔
    (s.ledger.clr = .awaitAuth ∨ s.ledger.clr = .authorized) ∧ s.ledger.clrAt + 15000000000 ≤ s.ticks := by
  unfold clrOver
  rw [Bool.and_eq_true, clrLive_iff, decide_eq_true_eq]

theorem clrOver_early (h : s.ticks < s.ledger.clrAt + 15000000000) : ¬ clrOver s = true := fun hover =>
  Nat.not_le.mpr h (clrOver_iff.mp hover).2

theorem clearRequest_awaits (hholds : s.ledger.fail = false) (hclr : s.ledger.clr ≠ .clearing) (hscope : rdF s LDG_CLR_SCOPE 0 4 ≠ 0) :
    clearRequest s = setLedger (fun l => { l with
      clr := .awaitAuth, clrScope := rdF s LDG_CLR_SCOPE 0 4, clrNonce := BitVec.ofNat 64 (Config.crypt 0x12 [s.free]),
      clrParties := [], clrAt := s.ticks }) (drawFree s) :=
  (if_neg (by rw [hholds]; exact Bool.false_ne_true)).trans ((if_neg hclr).trans (if_neg hscope))

theorem clearRequest_badScope (hholds : s.ledger.fail = false) (hclr : s.ledger.clr ≠ .clearing) (hscope : rdF s LDG_CLR_SCOPE 0 4 = 0) :
    clearRequest s = clrResult clrBAD_SCOPE s :=
  (if_neg (by rw [hholds]; exact Bool.false_ne_true)).trans ((if_neg hclr).trans (if_pos hscope))

theorem clearExecute_awaiting (hholds : s.ledger.fail = false) (hclr : s.ledger.clr = .awaitAuth)
    (hearly : s.ticks < s.ledger.clrAt + 15000000000) : clearExecute s = clrResult clrNOT_AUTHORIZED s := by
  unfold clearExecute
  rw [if_neg (by rw [hholds]; exact Bool.false_ne_true), if_neg (clrOver_early hearly), hclr]

theorem clearExecute_authorized (hholds : s.ledger.fail = false) (hclr : s.ledger.clr = .authorized)
    (hearly : s.ticks < s.ledger.clrAt + 15000000000) : clearExecute s =
      if flushSpaced s then clearBegin [] [] s else setLedger (fun l => { l with clr := .clearing, clrWait := true }) s := by
  unfold clearExecute
  rw [if_neg (by rw [hholds]; exact Bool.false_ne_true), if_neg (clrOver_early hearly), hclr]

theorem clearBegin_clears
    (h : (flushRun es bad (setLedger (fun l => { l with clr := .authorized, clrWait := false }) s)).ledger.fail = false) :
    (clearBegin es bad s).ledger.clr = .clearing ∧ (clearBegin es bad s).ledger.clrPending = true := by
  unfold clearBegin
  dsimp only
  rw [if_neg (by rw [h]; exact Bool.false_ne_true)]
  exact ⟨rfl, rfl⟩

theorem erasing_iff : erasing s = true ↔ s.ledger.clr = .clearing ∧ s.ledger.clrWait = false := by
  unfold erasing
  rw [Bool.and_eq_true, decide_eq_true_eq, Bool.not_eq_true']

/-! Last words (R378) and reads (R380, R381). -/

theorem lastWordsUpdate_writes {x : LastWords} (h : s.sentry.lastWords = some x) (hfail : s.ledger.fail = true)
    (hlost : x.lost ≠ s.ledger.recordsLost) (hdue : s.ledger.lwAt + 250000000 ≤ s.ticks) :
    lastWordsUpdate s = writeLastWords x.reason x.ofs x.tick s := by
  unfold lastWordsUpdate
  rw [h]
  exact if_pos (by rw [hfail, decide_eq_true ⟨hlost, hdue⟩]; rfl)

theorem lastWordsUpdate_stays (h : s.sentry.lastWords = none ∨ s.ledger.fail = false) : lastWordsUpdate s = s := by
  unfold lastWordsUpdate
  split
  next x hx =>
    obtain h | h := h
    · rw [h] at hx; cases hx
    · exact if_neg (by rw [h]; exact Bool.false_ne_true)
  next => rfl

/-- The state in which an OPEN has ended the read before it and shown the newest SEQ. -/
def readRestarted (s : State) : State :=
  setWork 2 [] (dropEngine 2 (setLedger (fun l => { l with evRead := [], enRead := [] }) (wr LDG_RD_END (wordOf s.ledger.seq) s)))

theorem readRestarted_tables (hs : TablesWf s) : TablesWf (readRestarted s) :=
  (setWork_keeps _ _ _ (dropEngine_keeps _ _ (Keeps.refl _))).tables
    (tables_of_eq (s := wr LDG_RD_END (wordOf s.ledger.seq) s) (wr_tables hs) rfl rfl)

theorem rd_readRestarted (hs : TablesWf s) : rd (readRestarted s) LDG_RD_END = wordOf s.ledger.seq :=
  (rd_of_regs (dropEngine_facts 2 _).1 _).trans (rd_wr_same _ _ _ hs)

theorem ledgerOpen_nothing (h : (rdContent s).flatten = []) :
    ledgerOpen s = wr LDG_RD_STAT (wordOf rdNOT_FOUND) (openEmpty .ledger whyNOT_FOUND (readRestarted s)) := if_pos h

theorem ledgerAbort_windows (h : (window s (winIdx .ledger)).ended = false) : (ledgerAbort s).host.windows =
    tset {} s.host.windows (winIdx .ledger)
      { window s (winIdx .ledger) with words := [], ended := true, why := whyABORTED, cutAt := some s.ticks } := by
  have habort : ledgerAbort s = wr LDG_RD_STAT 0#32 (endWindow .ledger whyABORTED (readDropped s)) :=
    if_neg (by unfold winBusy; rw [h]; decide)
  have hwin : window (readDropped s) (winIdx .ledger) = window s (winIdx .ledger) := by
    unfold window
    rw [readDropped_host]
  have hticks : (readDropped s).ticks = s.ticks := (dropEngine_within 2 _ (Within.refl _) (List.Subset.refl _)).of .ticks
  rw [habort]
  refine (endWindow_open .ledger whyABORTED (readDropped s) (by rw [hwin, h])).trans ?_
  rw [hwin, readDropped_host, hticks]
  rfl

end

/-- Settles O39: flushes, tracks, clears, last words and reads come due, begin and end as the Ledger's registers and times say. -/
theorem ledgerCommands : Obligations.LedgerCommands := by
  unfold Obligations.LedgerCommands
  refine ⟨?failed, ?undue, ?soon, ?clear, ?empty, ?one, ?now, ?image, ?fixed, ?untimed, ?bins, ?copies, ?early, ?request, ?badScope,
    ?executes, ?delayed, ?begins, ?unauthorized, ?cancel, ?expires, ?unexpired, ?erased, ?noErase, ?lastWords, ?noWords, ?ack, ?opens,
    ?abort⟩
  case failed =>
    intro es bad s hp hfail hdue hwait
    exact exec_powered_eq hp rfl ((flushTimed_flushes hdue hwait).trans (flushRun_failed hfail))
  case undue =>
    intro es bad s _ hdue
    exact exec_powered_stays rfl (flushTimed_undue hdue)
  case soon =>
    intro es bad t s _ hat hsoon
    exact exec_powered_stays rfl (flushTimed_undue (flushDue_spaced hat hsoon))
  case clear =>
    intro es bad s hp hdue hwait
    exact exec_powered_eq hp rfl ((flushTimed_due hdue).trans (if_pos hwait))
  case empty =>
    intro s hp hholds hclr hbuf hnote halone hdue hwait
    obtain ⟨hledger, hpair⟩ := flushLogged_empty hbuf
    refine completes_powered rfl hp ?_
    rw [flushTimed_flushes hdue hwait, flushRun_plain ⟨hholds, hclr, hnote, halone⟩ (hpair.trans halone), raise_ledger, controlRecord,
      setLedger, hledger]
    exact ⟨rfl, rfl, rfl, rfl, rfl⟩
  case one =>
    intro r s hp hholds hclr hbuf hnote halone hdue hwait hroom
    have hpair : isPair (flushLogged s) = false := by
      rw [flushLogged_one hbuf]
      exact logWrite_pair _ (oneFrozen s) halone hroom
    refine completes_powered rfl hp ?_
    rw [flushTimed_flushes hdue hwait, flushRun_plain ⟨hholds, hclr, hnote, halone⟩ hpair, raise_ledger, controlRecord, setLedger,
      flushLogged_one hbuf, logWrite_appends _ (oneFrozen s) hroom]
    exact ⟨rfl, rfl⟩
  case now =>
    intro who s hv
    exact completes_served rfl hv ⟨by rw [setLedger, accessed_ledger], accessed_regs who s⟩
  case image =>
    intro k d c s u hp hk hdue hc hu
    subst hu
    exact exec_powered_eq hp rfl ((trackTimed_due hdue).trans (trackSample_image hk hc))
  case fixed =>
    intro k d s hp hk hdue
    refine completes_powered rfl hp ?_
    rw [trackTimed_due hdue, trackSample_fixed hk, trackPeriod, if_pos hk]
    exact ⟨rfl, rfl⟩
  case untimed =>
    intro k d s _ hearly
    exact exec_powered_stays rfl (if_pos hearly)
  case bins =>
    intro lo hi v sec hours x
    refine ⟨rfl, fun h => ?_, fun hlo hhi => ?_⟩
    · rw [trackAdd, trackBin_below h]
    · rw [trackAdd, trackBin_above hlo hhi]
  case copies =>
    intro s hp hholds hclr hdue
    refine completes_powered rfl hp ?_
    rw [if_pos (tracksDue_iff.mpr hdue)]
    exact trackWrite_writes hholds hclr
  case early =>
    intro s _ hearly
    exact exec_powered_stays rfl (if_neg fun h => Nat.not_le.mpr hearly (tracksDue_iff.mp h))
  case request =>
    intro s hv hholds hclr hscope
    refine completes_served (who := .host) rfl hv ?_
    rw [clearRequest_awaits (by rw [accessed_ledger, hholds]) (by rw [accessed_ledger]; exact hclr) (by rw [rdF_accessed]; exact hscope)]
    exact ⟨rfl, rfl, rdF_accessed .host s _ _ _, rfl⟩
  case badScope =>
    intro s hs hv hholds hclr hscope
    refine completes_served (who := .host) rfl hv ?_
    rw [clearRequest_badScope (by rw [accessed_ledger, hholds]) (by rw [accessed_ledger]; exact hclr) (by rw [rdF_accessed, hscope])]
    exact ⟨rdF_wrF_self (accessed_tables .host s hs), accessed_ledger .host s⟩
  case executes =>
    intro s hv hholds hclr hearly hspaced
    exact exec_served_eq (who := .host) hv rfl ((clearExecute_authorized (s := accessed .host s) hholds hclr hearly).trans (if_pos hspaced))
  case delayed =>
    intro s hv hholds hclr hearly hsoon
    refine completes_served (who := .host) rfl hv ?_
    rw [clearExecute_authorized (s := accessed .host s) hholds hclr hearly]
    exact congrArg State.ledger (if_neg (Bool.not_eq_true _ ▸ hsoon))
  case begins =>
    intro es bad s hholds
    exact clearBegin_clears hholds
  case unauthorized =>
    intro s hs hv hholds hclr hearly
    refine completes_served (who := .host) rfl hv ?_
    rw [clearExecute_awaiting (s := accessed .host s) hholds hclr hearly]
    exact ⟨rdF_wrF_self (accessed_tables .host s hs), accessed_ledger .host s⟩
  case cancel =>
    intro s hv hlive
    refine completes_served (who := .host) (f := fun t => if clrLive t then clrEnd t else t) rfl hv ?_
    rw [if_pos (clrLive_iff (s := accessed .host s).mpr hlive)]
    exact ⟨rfl, rfl⟩
  case expires =>
    intro s hs hp hlive hlate
    refine completes_powered rfl hp ?_
    rw [if_pos (clrOver_iff.mpr ⟨hlive, hlate⟩)]
    exact ⟨rfl, rdF_wrF_self (tables_of_eq hs rfl rfl)⟩
  case unexpired =>
    intro s _ hno
    refine exec_powered_stays rfl (if_neg fun h => ?_)
    obtain ⟨hlive, hlate⟩ := clrOver_iff.mp h
    obtain h | h | h := hno
    · exact Nat.not_le.mpr h hlate
    · rw [h] at hlive
      exact hlive.elim nofun nofun
    · rw [h] at hlive
      exact hlive.elim nofun nofun
  case erased =>
    intro s hp hclr hwait
    exact exec_powered_eq hp rfl (if_pos (erasing_iff.mpr ⟨hclr, hwait⟩))
  case noErase =>
    intro s _ hno
    refine exec_powered_stays rfl (if_neg fun h => ?_)
    obtain ⟨hclr, hwait⟩ := erasing_iff.mp h
    exact hno.elim (fun h => h hclr) fun h => Bool.false_ne_true (hwait.symm.trans h)
  case lastWords =>
    intro x s hp hx hfail hlost hdue
    refine completes_powered rfl hp ?_
    rw [lastWordsUpdate_writes hx hfail hlost hdue]
    exact ⟨rfl, rfl⟩
  case noWords =>
    intro s _ hno
    exact exec_powered_stays rfl (lastWordsUpdate_stays hno)
  case ack =>
    intro s hv
    exact completes_served (who := .host) rfl hv ⟨rfl, rfl⟩
  case opens =>
    intro s hs hv hnothing
    have hst : TablesWf (accessed .host s) := accessed_tables .host s hs
    refine completes_served (who := .host) rfl hv ?_
    rw [ledgerOpen_nothing hnothing]
    refine ⟨rd_wr_same _ _ _ ((openEmpty_keeps _ _ _ (Keeps.refl _)).tables (readRestarted_tables hst)), ?_⟩
    exact (rd_wr_ne _ _ _ _ (by decide)).trans (rd_readRestarted hst)
  case abort =>
    intro s hs hv hopen
    refine completes_served (who := .host) rfl hv ⟨?_, ?_⟩
    · obtain ⟨-, -, -, hstat⟩ := ledgerAbort_facts (accessed_tables .host s hs) (by rw [window_accessed, hopen])
      exact hstat
    · exact ledgerAbort_windows (s := accessed .host s) hopen

end Sys2Proof.Machine
end

section
/-!
PROOFS of the family other: the latch, commit, reads, freeze and supply of the calendar (O42).
-/

namespace Sys2Proof.Machine

open Sys2Proof

/-! The posted commit (R387, R388). -/

section
variable {who : Req} {s : State}

theorem legacyOn_accessed (who : Req) (s : State) : legacyOn (accessed who s) = legacyOn s := rdB_accessed who s _ _

theorem calCommit_disabled (h : legacyOn s = false) : calCommit who s = s := if_pos (by rw [h]; rfl)

theorem calCommit_posts (h : legacyOn s = true) (hfree : s.sentry.commit = false) :
    calCommit who s = setSentry (fun x => { x with commit := true }) s :=
  (if_neg (by rw [h]; exact Bool.false_ne_true)).trans (if_neg (by rw [hfree]; exact Bool.false_ne_true))

theorem calCommit_waits (h : legacyOn s = true) (hposted : s.sentry.commit = true) : calCommit who s = holdWrite (.calCommit who) who s :=
  (if_neg (by rw [h]; exact Bool.false_ne_true)).trans (if_pos hposted)

/-! The block's reads (R386). -/

theorem calWords_accessed (who : Req) (s : State) : calWords (accessed who s) = calWords s := by cases who <;> rfl

/-- A served read of one of the first three words hands out the word and keeps the freeze that `freezeRead` gives. -/
theorem completes_calReadFreeze {k : Fin 3} {w : Word} {fz : NMap (Option (Nat × List Word))}
    (hv : Served who (CAL_TICK_LO + 4 * k.val) s)
    (hr : freezeRead (calWords s) s.ticks k.val (reqIdx who) s.sentry.freeze s.sentry.torn = (w, fz)) :
    Completes (.calReadFreeze who k) s fun t => t.out = s.out ++ [.readData who (w.setWidth 64)] ∧
      t.sentry = { s.sentry with freeze := fz } := by
  refine completes_served rfl hv ?_
  rw [calReadFreeze, calWords_accessed, accessed_ticks, accessed_sentry, hr]
  exact ⟨congrArg (· ++ _) (accessed_out who s), congrArg (fun x : Sentry => { x with freeze := fz }) (accessed_sentry who s)⟩

end

/-! The supply (R384, R385). -/

section
variable {s : State}

/-- The state of the switch to VBAT before it is reported, whose tick is latched where VBAT_SEEN was clear. -/
def vbatMoved (s : State) : State := setSentry (fun x => { x with onVbat := true }) (bumpSat CAL_VBAT_CNT s)

def vbatLatched (s : State) : State :=
  setStat CAL_STATUS 4 true (wr64 CAL_VBAT_TICK_LO s.sentry.tick (setSentry (fun x => { x with vbatNew := true }) (vbatMoved s)))

theorem vbatSwitch_moves (h1 : s.sentry.onVbat = false) (h2 : s.sentry.dead = false) (h3 : s.power.vin < 10000) :
    vbatSwitch s = raise CAL_INT 3 (if rdB s CAL_STATUS 4 then vbatMoved s else vbatLatched s) := by
  refine if_neg ?_
  rintro (h | h | h)
  · exact Bool.false_ne_true (h1.symm.trans h)
  · exact Bool.false_ne_true (h2.symm.trans h)
  · exact Nat.not_le.mpr h3 h

theorem vbatMoved_tables (hs : TablesWf s) : TablesWf (vbatMoved s) := tables_of_eq (s := bumpSat CAL_VBAT_CNT s) (wr_tables hs) rfl rfl

theorem rd_vbatMoved_count (hs : TablesWf s) :
    rd (vbatMoved s) CAL_VBAT_CNT = wordOf (satAdd (rd s CAL_VBAT_CNT).toNat 1 0xFFFFFFFF) := rd_wr_same _ _ _ hs

theorem rd_vbatMoved_ne {a : Nat} (h : a ≠ CAL_VBAT_CNT) : rd (vbatMoved s) a = rd s a := rd_wr_ne _ _ _ _ h

theorem vbatTick_tables (hs : TablesWf s) :
    TablesWf (wr64 CAL_VBAT_TICK_LO s.sentry.tick (setSentry (fun x => { x with vbatNew := true }) (vbatMoved s))) :=
  wr_tables (wr_tables (tables_of_eq (vbatMoved_tables hs) rfl rfl))

theorem rd_vbatLatched_tick (hs : TablesWf s) : rd (vbatLatched s) CAL_VBAT_TICK_LO = loWord s.sentry.tick :=
  (rd_wr_ne _ _ _ _ (by decide)).trans ((rd_wr_ne _ _ _ _ (by decide)).trans
    (rd_wr_same _ _ _ (tables_of_eq (vbatMoved_tables hs) rfl rfl)))

theorem rd_vbatLatched_count (hs : TablesWf s) :
    rd (vbatLatched s) CAL_VBAT_CNT = wordOf (satAdd (rd s CAL_VBAT_CNT).toNat 1 0xFFFFFFFF) :=
  (rd_wr_ne _ _ _ _ (by decide)).trans ((rd_wr_ne _ _ _ _ (by decide)).trans ((rd_wr_ne _ _ _ _ (by decide)).trans
    (rd_vbatMoved_count hs)))

/-- The registers of `l` read 0. -/
def zeroed (l : List Nat) (s : State) : State := l.foldl (fun t a => wr a 0#32 t) s

theorem rd_zeroed_out {l : List Nat} {a : Nat} (h : a ∉ l) : rd (zeroed l s) a = rd s a := by
  induction l generalizing s with
  | nil => rfl
  | cons b l ih =>
    obtain ⟨hb, hl⟩ := not_or.mp (mt List.mem_cons.mpr h)
    exact (ih hl).trans (rd_wr_ne _ _ _ _ hb)

theorem rd_zeroed_in {l : List Nat} {a : Nat} (hs : TablesWf s) (h : a ∈ l) : rd (zeroed l s) a = 0#32 := by
  induction l generalizing s with
  | nil => cases h
  | cons b l ih =>
    by_cases hl : a ∈ l
    · exact ih (wr_tables hs) hl
    · obtain rfl := (List.mem_cons.mp h).resolve_right hl
      exact (rd_zeroed_out hl).trans (rd_wr_same _ _ _ hs)

/-- The calendar's registers that the loss of the domain clears. -/
def lostRegs : List Nat :=
  [CAL_INT, CAL_REF_TICK_LO, CAL_REF_TICK_HI, CAL_REF_NS, CAL_REF_SEC_LO, CAL_REF_SEC_HI, CAL_VBAT_TICK_LO, CAL_VBAT_TICK_HI,
   CAL_VBAT_CNT]

theorem sentryLoss_loses (hp : s.power.st = .furled) (hv : s.sentry.onVbat = true) (hd : s.sentry.dead = false) : sentryLoss s =
    { zeroed lostRegs (wr CAL_STATUS 4#32 s) with
      sentry := { dead := true, lostNew := true },
      till := { (zeroed lostRegs (wr CAL_STATUS 4#32 s)).till with cache := [] } } := by
  refine (if_neg ?_).trans rfl
  rintro (h | h | h)
  · exact h hp
  · exact Bool.false_ne_true (h.symm.trans hv)
  · exact Bool.false_ne_true (hd.symm.trans h)

end

/-- Settles O42: the calendar's latch, commit and reads act as posted or frozen, and its supply switches and is lost. -/
theorem calendarCommands : Obligations.CalendarCommands := by
  unfold Obligations.CalendarCommands
  refine ⟨?latch, ?commit, ?held, ?disabled, ?fresh, ?frozen, ?release, ?timeout, ?early, ?torn, ?words, ?switch, ?again, ?noSwitch,
    ?loss, ?noLoss⟩
  case latch =>
    intro who s hv
    exact completes_served rfl hv ⟨by rw [setSentry, accessed_sentry], accessed_regs who s⟩
  case commit =>
    intro who s hv hon hfree
    refine completes_served rfl hv ?_
    rw [calCommit_posts ((legacyOn_accessed who s).trans hon) (by rw [accessed_sentry, hfree])]
    exact ⟨by rw [setSentry, accessed_sentry], accessed_regs who s⟩
  case held =>
    intro s hv hon hposted
    refine completes_served rfl hv ?_
    rw [calCommit_waits (s := accessed .host s) ((legacyOn_accessed .host s).trans hon) hposted]
    exact ⟨rfl, rfl⟩
  case disabled =>
    intro who s hv hoff
    exact exec_served_stays hv rfl (calCommit_disabled ((legacyOn_accessed who s).trans hoff))
  case fresh =>
    intro who k s hv hnone htorn
    obtain ⟨t, ht, hout, hsentry⟩ := completes_calReadFreeze hv (freezeRead_fresh hnone htorn)
    exact ⟨t, ht, hout, by rw [hsentry]⟩
  case frozen =>
    intro who k x s hv hfrozen
    exact completes_calReadFreeze hv (freezeRead_frozen hfrozen)
  case release =>
    intro who s hv
    refine completes_served rfl hv ?_
    rw [calReadRelease, calWords_accessed, accessed_sentry]
    exact ⟨congrArg (fun x : Sentry => tset none x.freeze (reqIdx who) none) (accessed_sentry who s),
      congrArg (fun x : Sentry => tset false x.torn (reqIdx who) false) (accessed_sentry who s), congrArg (· ++ _) (accessed_out who s)⟩
  case timeout =>
    intro who x s hfrozen hlate
    exact congrArg done (if_pos ((freezeOver_frozen _ hfrozen).trans (decide_eq_true hlate)))
  case early =>
    intro who x s hfrozen hearly
    exact congrArg done (if_neg (by rw [freezeOver_frozen _ hfrozen, decide_eq_false (Nat.not_le.mpr hearly)]; exact Bool.false_ne_true))
  case torn =>
    intro who k s hv hnone htorn
    exact completes_calReadFreeze hv (freezeRead_torn hnone htorn)
  case words => exact fun s => rfl
  case switch =>
    intro s hs h1 h2 hseen h3
    refine ⟨_, congrArg done (vbatSwitch_moves h1 h2 h3), ?_⟩
    dsimp only
    rw [hseen, if_neg Bool.false_ne_true, raise_sentry, rd_raise_ne _ _ _ _ (by decide) (by decide),
      rd_raise_ne _ _ _ _ (by decide) (by decide)]
    exact ⟨rfl, rfl, rdB_raise_self (setStat_tables (vbatTick_tables hs)) (by decide) (by decide),
      (rdB_raise_other (b := CAL_STATUS)).trans (rdB_setStat_self (vbatTick_tables hs)), rd_vbatLatched_tick hs, rd_vbatLatched_count hs⟩
  case again =>
    intro s hs h1 h2 hseen h3
    refine ⟨_, congrArg done (vbatSwitch_moves h1 h2 h3), ?_⟩
    dsimp only
    rw [hseen, if_pos rfl, raise_sentry, rd_raise_ne _ _ _ _ (by decide) (by decide), rd_raise_ne _ _ _ _ (by decide) (by decide)]
    refine ⟨rfl, rdB_raise_self (vbatMoved_tables hs) (by decide) (by decide), ?_, rd_vbatMoved_ne (by decide), rd_vbatMoved_count hs⟩
    rw [rdB_raise_other, rdB, rd_vbatMoved_ne (by decide)]
    exact hseen
  case noSwitch =>
    intro s hno
    exact congrArg done (if_pos hno)
  case loss =>
    intro s hs hp hv hd
    refine ⟨_, congrArg done (sentryLoss_loses hp hv hd), rfl, rfl, ?_, ?_, ?_⟩
    · exact rd_zeroed_in (wr_tables hs) (by decide)
    · exact (rd_zeroed_out (by decide)).trans (rd_wr_same _ _ _ hs)
    · exact (rd_zeroed_out (by decide)).trans (rd_wr_ne _ _ _ _ (by decide))
  case noLoss =>
    intro s hno
    exact congrArg done (if_pos hno)

end Sys2Proof.Machine
end
